-- ==== Sys2Proof/Word.lean ====
section
/-! DEFINITION. The words the model is written over: a register is 32 bits wide (00_scope.md, "Register tables"). -/

namespace Sys2Proof

/-- A register, record word or instruction word of 32 bits (R13, R14). -/
abbrev Word := BitVec 32

/-- A byte of Store, Archive, Hall or host memory. -/
abbrev Byte := BitVec 8

end Sys2Proof
end

