-- ==== Sys2Proof/Operand.lean ====
section
/-! DEFINITION. Types of the commands' operands. -/

namespace Sys2Proof

/-- What the check logic of the Hall meets on a use of a queue (R466 to R469): nothing, a single-bit error, a
double-bit error in a data word, a pointer or link that fails its check, a free list that fails its check. -/
inductive HallCheck where
  | ok | single | double | pointer | freeList
  deriving DecidableEq, Repr

/-- What a receiver samples in the place of a frame or of characters (R346, R351): what the transmitter sent, or code groups
of ten bits, bit a the most significant, read from the receiver's running disparity before them (true: positive). -/
inductive Rx where
  | intact
  | groups (pos : Bool) (l : List Nat)
  deriving DecidableEq, Repr

/-- What follows a hop that is measured (R369): the station that a PROBE reaches there, none for HOLOT B, and the ticks from the
release of the driver to the last bit of the echo. -/
structure Echo where
  node : Option Nat
  ticks : Nat
  deriving DecidableEq, Repr

/-- A station's receiver and what it samples. -/
structure Heard where
  g : Nat
  rx : Rx
  deriving DecidableEq, Repr

/-- A look at the switch of a gallery channel (R386): the channel, and whether the sensed current has reached the setpoint. -/
structure Chop where
  ch : Nat
  reached : Bool
  deriving DecidableEq, Repr

/-- An access of the debug port (R576): its identification read, a read or a write of a BAR 0 register or of Store bytes,
a halt of the Usher, or one step of it. -/
inductive DebugOp where
  | ident
  | readReg (off : Nat)
  | writeReg (off data : Nat)
  | readStore (addr len : Nat)
  | writeStore (addr : Nat) (data : List Byte)
  | halt
  | step
  deriving DecidableEq, Repr

end Sys2Proof
end

