-- ==== Sys2Proof/Syntax.lean ====
section
/-! DEFINITION. The commands of the block: one constructor per row of the spec's table of operations and events
(opcode_table.json). The rows carry no operands and no bits; the operands are what the command must bring with it:
indices, values written, and what the world outside delivers. -/

namespace Sys2Proof

/-- A command (operation or event). Each constructor is the table row its doc names. -/
inductive Instr where
  /-- REGISTER_WRITE (R18). -/
  | registerWrite (off : Nat) (size : Nat) (data : Nat)
  /-- CONFIG_REQUEST (R104). -/
  | configRequest (write : Bool) (off : Nat) (data : Nat)
  /-- UNSUPPORTED_REQUEST (R536). -/
  | unsupportedRequest (nonPosted : Bool)
  /-- BAR2_WRITE (R539). -/
  | bar2Write (addr : Nat) (data : List Byte)
  /-- BAR2_READ (R539). -/
  | bar2Read (addr : Nat) (len : Nat) (chk : HallCheck)
  /-- LOCK_SEQUENCE (R46). -/
  | lockSequence
  /-- BAND_SEARCH (R46). -/
  | bandSearch
  /-- LOCK_DECLARED (R47). -/
  | lockDeclared
  /-- LOCK_RESTART (R48). -/
  | lockRestart
  /-- REF_LOST (R49). -/
  | refLost
  /-- REACQUISITION (R51). -/
  | reacquisition (inRange : Bool)
  /-- NWL_REACQUIRED (R51). -/
  | nwlReacquired
  /-- COMMIT (R54). -/
  | commit
  /-- COMMIT_EPOCH (R56). -/
  | commitEpoch
  /-- SNAP (R63). -/
  | snap
  /-- PIN_EDGE (R58). -/
  | pinEdge (pin : Nat) (rising : Bool)
  /-- STRAP_DECODE_VALID (R73). -/
  | strapDecodeValid (ohms : List Nat)
  /-- STRAP_LATCH (R74). -/
  | strapLatch (ohms : List Nat)
  /-- SOFT_LOCK (R86). -/
  | softLock (bits : Nat)
  /-- BOOT_START (R95). -/
  | bootStart
  /-- SUPPLY_LOSS (R96). -/
  | supplyLoss (main : Bool)
  /-- STORE_TRAINING (R98). -/
  | storeTraining (ok : Bool)
  /-- FIRMWARE_CHECK (R99). -/
  | firmwareCheck (sig : Option Bool) (corr : Nat)
  /-- CALIBRATION_LOAD (R101). -/
  | calibrationLoad (corr : Nat)
  /-- BOOT_COMPLETE (R102). -/
  | bootComplete
  /-- PERST_ASSERT (R114). -/
  | perstAssert
  /-- PERST_DEASSERT (R104). -/
  | perstDeassert
  /-- LINK_TRAINED (R551). -/
  | linkTrained (speed : Nat) (width : Nat)
  /-- RESET_FULL (R110). -/
  | resetFull (key : Nat)
  /-- RESET_HOST (R115). -/
  | resetHost (key : Nat)
  /-- HOT_RESET (R115). -/
  | hotReset
  /-- LINK_DOWN (R109). -/
  | linkDown
  /-- WATCHDOG_EXPIRY (R116). -/
  | watchdogExpiry
  /-- GALLERY_POWER_ON (R119). -/
  | galleryPowerOn (g : Nat) (ohms : List Nat) (rev : Nat)
  /-- STEP_REQUEST (R124). -/
  | stepRequest (target : Nat)
  /-- HOST_WRITE_WAKE (R124). -/
  | hostWriteWake (target : Nat)
  /-- QUIESCE_END (R128). -/
  | quiesceEnd
  /-- COMMIT_POINT (R129). -/
  | commitPoint
  /-- STEP_REACHED (R132). -/
  | stepReached
  /-- WAKE_UNIT_ACCEPTED (R139). -/
  | wakeUnitAccepted
  /-- WAKE_PHRASE_ACCEPTED (R140). -/
  | wakePhraseAccepted (begun : Nat)
  /-- HOST_LINK_EXIT (R133). -/
  | hostLinkExit
  /-- TRIG0_WAKE (R133). -/
  | trig0Wake
  /-- CLIMB_COMPLETE (R137). -/
  | climbComplete
  /-- WAKE_PHRASE_END (R142). -/
  | wakePhraseEnd (g : Nat)
  /-- CAMERA_START (R164). -/
  | cameraStart (c : Nat)
  /-- CAMERA_STOP (R170). -/
  | cameraStop (c : Nat)
  /-- SETUP_TICK (R161). -/
  | setupTick (c : Nat)
  /-- FRAME_START (R161). -/
  | frameStart (c : Nat)
  /-- NODE_RESET (R152). -/
  | nodeReset (c : Nat) (n : Nat)
  /-- EXPOSURE_START (R151). -/
  | exposureStart (c : Nat) (n : Nat)
  /-- EXPOSURE_END (R151). -/
  | exposureEnd (c : Nat) (n : Nat)
  /-- SOFTWARE_TRIGGER (R166). -/
  | softwareTrigger (mask : Nat)
  /-- READOUT_START (R188). -/
  | readoutStart (c : Nat) (n : Nat) (img : List (Nat × List Int))
  /-- ROW_PAIR_COMPLETE (R188). -/
  | rowPairComplete (c : Nat) (n : Nat)
  /-- PORT_ENABLE (R216). -/
  | portEnable (x : Nat)
  /-- PORT_DISABLE (R216). -/
  | portDisable (x : Nat)
  /-- TRAIN (R219). -/
  | train (x : Nat)
  /-- TRAINING_END (R220). -/
  | trainingEnd (x : Nat) (seen : Option (List Bool × List Nat))
  /-- PORT_RUN (R218). -/
  | portRun (x : Nat)
  /-- PORT_STOP (R235). -/
  | portStop (x : Nat)
  /-- PORT_FRAME_START (R225). -/
  | portFrameStart (x : Nat)
  /-- LINE_END (R227). -/
  | lineEnd (x : Nat) (first : Nat) (words : List Nat) (fall : Bool)
  /-- LINE_RELEASE (R230). -/
  | lineRelease (x : Nat)
  /-- PORT_FRAME_CLOSE (R231). -/
  | portFrameClose (x : Nat)
  /-- FRAME_WINDOW_EXPIRY (R231). -/
  | frameWindowExpiry (x : Nat)
  /-- EYE_WARNING (R224). -/
  | eyeWarning (x : Nat)
  /-- RECORD_ISSUE (R305). -/
  | recordIssue (p : Nat)
  /-- RECORD_COMPLETE (R305). -/
  | recordComplete (p : Nat)
  /-- JOIN_UNDERRUN (R318). -/
  | joinUnderrun (j : Nat)
  /-- JOIN_CONFIG_WRITE (R312). -/
  | joinConfigWrite (j : Nat) (data : Nat)
  /-- DECISION_HANDOFF (R316). -/
  | decisionHandoff
  /-- PLAN_DECISION (R319). -/
  | planDecision
  /-- JET_DISABLE (R342). -/
  | jetDisable (g : Nat) (mask : Nat)
  /-- ENUMERATION (R367). -/
  | enumeration
  /-- ENUM (R368). -/
  | enum
  /-- LINK_DISABLE (R378). -/
  | linkDisable
  /-- LOCK_PHASE_END (R367). -/
  | lockPhaseEnd
  /-- RING_OPEN (R374). -/
  | ringOpen
  /-- PROBE (R369). -/
  | probe (hop : Nat) (echo : Echo)
  /-- HOP (R369). -/
  | hop (n : Nat) (rx : Rx)
  /-- IDENT_REQUEST (R371). -/
  | identRequest (g : Nat) (pos : Nat) (rx : Rx)
  /-- IDENT_PHASE_END (R371). -/
  | identPhaseEnd
  /-- SETUP (R372). -/
  | setup (g : Nat) (rx : Rx)
  /-- HLK_ENUM_DONE (R374). -/
  | hlkEnumDone
  /-- HOLOT_CYCLE_START (R352). -/
  | holotCycleStart
  /-- STATION_MARKER (R356). -/
  | stationMarker (g : Nat) (rx : Rx) (slip : Int)
  /-- STATION_LATCH (R356). -/
  | stationLatch (g : Nat)
  /-- READ_FRAME (R358). -/
  | readFrame (g : Nat) (rx : Rx)
  /-- SLOT_MISSED (R375). -/
  | slotMissed (g : Nat)
  /-- FIRE_DELIVERY (R362). -/
  | fireDelivery (g : Nat)
  /-- FIRE_SEND (R363). -/
  | fireSend (g : Nat)
  /-- OUTSET_SEND (R361). -/
  | outsetSend (g : Nat)
  /-- REGISTER_FRAME_SEND (R360). -/
  | registerFrameSend
  /-- ECHO_RETURN (R365). -/
  | echoReturn (rx : Rx)
  /-- MARKER_RETURN (R377). -/
  | markerReturn (delay : Option Nat)
  /-- MARKER_MISSING (R377). -/
  | markerMissing (rx : Rx)
  /-- GREG (R366). -/
  | greg (data : Nat)
  /-- GREG_TIMEOUT (R366). -/
  | gregTimeout
  /-- FIRE_ACCEPT (R389). -/
  | fireAccept (g : Nat) (rx : Rx)
  /-- OUTSET_ACCEPT (R391). -/
  | outsetAccept (g : Nat) (rx : Rx)
  /-- REGW_ACCEPT (R366). -/
  | regwAccept (g : Nat) (rx : Rx)
  /-- REGR_ACCEPT (R366). -/
  | regrAccept (g : Nat) (rx : Rx)
  /-- STATION_PARK_MISSED (R392). -/
  | stationParkMissed (g : Nat)
  /-- ALIGNMENT_LOSS (R348). -/
  | alignmentLoss (g : Nat) (rx : Rx)
  /-- FIRE_TICK (R390). -/
  | fireTick (g : Nat)
  /-- PEAK_END (R385). -/
  | peakEnd (g : Nat) (ch : Nat) (mA : Option Nat)
  /-- PULSE_END (R385). -/
  | pulseEnd (g : Nat) (ch : Nat) (mA : Option Nat)
  /-- BANK_OUT_OF_RANGE (R384). -/
  | bankOutOfRange (g : Nat) (b : Nat) (volts : Nat)
  /-- BANK_IN_RANGE (R384). -/
  | bankInRange (g : Nat) (b : Nat) (volts : Nat)
  /-- OVERCURRENT (R395). -/
  | overcurrent (g : Nat) (ch : Nat)
  /-- FORCED_ON (R396). -/
  | forcedOn (g : Nat) (ch : Nat)
  /-- CROSS_FED (R397). -/
  | crossFed (g : Nat) (ch : Nat) (others : List Nat)
  /-- DRIVER_HOT (R398). -/
  | driverHot (g : Nat) (ch : Nat)
  /-- CUT_COIL (R401). -/
  | cutCoil (g : Nat) (short : Bool)
  /-- INPUT_EDGE (R402). -/
  | inputEdge (g : Nat) (n : Nat) (level : Bool)
  /-- STROBE_ENABLE (R412). -/
  | strobeEnable (k : Nat) (en : Bool)
  /-- STROBE_WINDOW_OPEN (R408). -/
  | strobeWindowOpen (k : Nat)
  /-- STROBE_WINDOW_CLOSE (R408). -/
  | strobeWindowClose (k : Nat)
  /-- STROBE_MAXHIGH (R411). -/
  | strobeMaxhigh (k : Nat)
  /-- ISET_CODE (R414). -/
  | isetCode (j : Nat) (code : Nat)
  /-- ISET_UPDATE (R414). -/
  | isetUpdate (j : Nat)
  /-- RANGE_CHANGE (R417). -/
  | rangeChange (j : Nat)
  /-- DEAD_TIME_END (R417). -/
  | deadTimeEnd (j : Nat)
  /-- MON_ENABLE (R421). -/
  | monEnable (m : Nat)
  /-- MON_SAMPLE (R420). -/
  | monSample (m : Nat) (bits : Option (List Bool))
  /-- MON_BLOCK_CLOSE (R426). -/
  | monBlockClose
  /-- PIO_START (R434). -/
  | pioStart (mask : Nat)
  /-- PIO_STOP (R450). -/
  | pioStop (mask : Nat)
  /-- GOTO (R439). -/
  | goto (e : Nat)
  /-- COUNT (R439). -/
  | count (e : Nat)
  /-- BRIF (R439). -/
  | brif (e : Nat)
  /-- BRNOT (R439). -/
  | brnot (e : Nat)
  /-- AWAIT (R437). -/
  | await (e : Nat)
  /-- SHIN (R440). -/
  | shin (e : Nat)
  /-- SHOUT (R440). -/
  | shout (e : Nat)
  /-- DEPOSIT (R439). -/
  | deposit (e : Nat)
  /-- FETCH (R439). -/
  | fetch (e : Nat)
  /-- COPY (R439). -/
  | copy (e : Nat)
  /-- PUT (R439). -/
  | put (e : Nat)
  /-- SIGNAL_RAISE (R448). -/
  | signalRaise (e : Nat)
  /-- SIGNAL_LOWER (R448). -/
  | signalLower (e : Nat)
  /-- ILLEGAL (R438). -/
  | illegal (e : Nat)
  /-- HOLD_END (R435). -/
  | holdEnd (e : Nat)
  /-- PIO_TXD (R444). -/
  | pioTxd (e : Nat) (data : Nat)
  /-- PIO_RXPOP (R444). -/
  | pioRxpop (mask : Nat)
  /-- PIO_SHFLAG_SET (R448). -/
  | pioShflagSet (flags : Nat)
  /-- PIO_SHFLAG_CLR (R448). -/
  | pioShflagClr (flags : Nat)
  /-- QUEUE_CLEAR (R450). -/
  | queueClear (e : Nat)
  /-- PACKET_OPEN (R458). -/
  | packetOpen (port : Nat) (chk : HallCheck)
  /-- PACKET_WRITE (R462). -/
  | packetWrite (port : Nat) (chk : HallCheck)
  /-- WRITE_UNBLOCK (R462). -/
  | writeUnblock (q : Nat)
  /-- PACKET_CLOSE (R458). -/
  | packetClose (port : Nat)
  /-- PACKET_ABANDON (R458). -/
  | packetAbandon (port : Nat)
  /-- PACKET_VISIBLE (R459). -/
  | packetVisible (q : Nat)
  /-- PACKET_READ (R463). -/
  | packetRead (q : Nat) (chk : HallCheck)
  /-- FREELIST_REBUILT (R469). -/
  | freelistRebuilt (fire : Bool)
  /-- QUEUE_ENABLE (R457). -/
  | queueEnable (q : Nat) (en : Bool)
  /-- QUEUE_SIZE (R456). -/
  | queueSize (q : Nat) (data : Nat)
  /-- FLOW_MAP (R472). -/
  | flowMap (n : Nat) (data : Nat)
  /-- DOORBELL (R478). -/
  | doorbell (r : Nat) (tail : Nat)
  /-- RECORD_FETCH (R479). -/
  | recordFetch (r : Nat)
  /-- FETCH_RETURN (R547). -/
  | fetchReturn (r : Nat) (data : Option (List Byte))
  /-- RECORD_TAKE (R482). -/
  | recordTake
  /-- WAIT_SATISFIED (R496). -/
  | waitSatisfied (r : Nat)
  /-- WAIT_TIMEOUT (R496). -/
  | waitTimeout (r : Nat)
  /-- VALUE_POLL (R499). -/
  | valuePoll (r : Nat)
  /-- POLL_RETURN (R499). -/
  | pollReturn (r : Nat) (v : Option Nat)
  /-- DISPATCH (R484). -/
  | dispatch (u : Nat)
  /-- FLIGHT_ARMED (R501). -/
  | flightArmed
  /-- FLIGHT_DISARMED (R503). -/
  | flightDisarmed
  /-- ARC_BLOCK_WRITTEN (R526). -/
  | arcBlockWritten (ok : Bool) (corr : Nat)
  /-- TASK_END (R512). -/
  | taskEnd (u : Nat) (host : Option (List Byte)) (corr : Nat)
  /-- COMPLETION_WRITE (R494). -/
  | completionWrite
  /-- EVENT_ADD (R497). -/
  | eventAdd (e : Nat) (delta : Nat)
  /-- RING_DISABLE (R491). -/
  | ringDisable (r : Nat)
  /-- RESUME (R490). -/
  | resume (r : Nat)
  /-- HEAD_WRITE (R480). -/
  | headWrite (r : Nat) (head : Nat)
  /-- NOTICE_RING_ENABLE (R504). -/
  | noticeRingEnable (n : Nat)
  /-- NOTICE_POST (R504). -/
  | noticePost (n : Nat)
  /-- VECTOR_TIMER (R495). -/
  | vectorTimer
  /-- ABORT (R532). -/
  | abort (mask : Nat)
  /-- VECTOR_UNMASK (R542). -/
  | vectorUnmask (v : Option Nat)
  /-- BUS_MASTER_ENABLE (R548). -/
  | busMasterEnable (en : Bool)
  /-- D3HOT (R545). -/
  | d3hot (on : Bool)
  /-- L1_REQUEST (R543). -/
  | l1Request
  /-- PCIE_ERROR (R550). -/
  | pcieError (kind : Nat) (hdr : List Nat)
  /-- DEVICE_READ_ERROR (R549). -/
  | deviceReadError (u : Nat)
  /-- ARC_ROLLBACK_RAISE (R573). -/
  | arcRollbackRaise (version : Nat)
  /-- ROLLBACK_RAISED (R573). -/
  | rollbackRaised
  /-- RECOVERY_WRITE (R577). -/
  | recoveryWrite
  /-- RECOVERY_DONE (R577). -/
  | recoveryDone (ok : Bool)
  /-- SENSOR_READING (R580). -/
  | sensorReading (n : Nat) (v : Int)
  /-- LADDER_EVALUATION (R587). -/
  | ladderEvaluation
  /-- BAUD_CLOCK_RECOVERED (R379). -/
  | baudClockRecovered (g : Nat)
  /-- RECEIVER_ALIGNED (R348). -/
  | receiverAligned (at_ : Heard)
  /-- LOGIC_SUPPLY_LOSS (R119). -/
  | logicSupplyLoss (g : Nat)
  /-- MISSED_CYCLE (R382). -/
  | missedCycle (g : Nat)
  /-- CHOP_PERIOD_START (R386). -/
  | chopPeriodStart (g : Nat) (chop : Chop)
  /-- DEBUG_ACCESS (R576). -/
  | debugAccess (op : DebugOp)
  /-- LINK_RECOVERY (R556). -/
  | linkRecovery
  /-- SCRUB (R470). -/
  | scrub (place : Nat) (at_ : Nat) (chk : HallCheck)
  deriving DecidableEq, Repr

end Sys2Proof
end

