-- ==== Sys2Proof/WellFormed.lean ====
section
/-! DEFINITION. Well-formed commands: indices inside the ranges the register and unit tables give (R598), words of 32
bits, strap lists of the right length. -/

namespace Sys2Proof

/-- Code groups have ten bits. -/
def Rx.fits (rx : Rx) : Bool := match rx with
  | .intact => true
  | .groups _ l => l.all fun g => decide (g < 1024)

/-- The command names units that exist and carries operands that fit. -/
def WellFormed (c : Instr) : Bool :=
  match c with
  | .registerWrite off size data => decide (off < 0x100000) && decide (0 < size) && decide (data < 2 ^ (8 * size))
  | .configRequest _ off data => decide (off < 4096) && decide (data < 2 ^ 32)
  | .unsupportedRequest _ => true
  | .bar2Write addr _ => decide (addr < 0x8000000)
  | .bar2Read addr _ _ => decide (addr < 0x8000000)
  | .lockSequence => true
  | .bandSearch => true
  | .lockDeclared => true
  | .lockRestart => true
  | .refLost => true
  | .reacquisition _ => true
  | .nwlReacquired => true
  | .commit => true
  | .commitEpoch => true
  | .snap => true
  | .pinEdge pin _ => decide (pin < 40)
  | .strapDecodeValid ohms => decide (ohms.length = 12)
  | .strapLatch ohms => decide (ohms.length = 12)
  | .softLock bits => decide (bits < 2 ^ 32)
  | .bootStart => true
  | .supplyLoss _ => true
  | .storeTraining _ => true
  | .firmwareCheck _ _ => true
  | .calibrationLoad _ => true
  | .bootComplete => true
  | .perstAssert => true
  | .perstDeassert => true
  | .linkTrained _ _ => true
  | .resetFull key => decide (key < 2 ^ 32)
  | .resetHost key => decide (key < 2 ^ 32)
  | .hotReset => true
  | .linkDown => true
  | .watchdogExpiry => true
  | .galleryPowerOn g ohms _ => decide (g < 8) && decide (ohms.length = 4)
  | .stepRequest target => decide (target < 2 ^ 32)
  | .hostWriteWake target => decide (target < 2 ^ 32)
  | .quiesceEnd => true
  | .commitPoint => true
  | .stepReached => true
  | .wakeUnitAccepted => true
  | .wakePhraseAccepted _ => true
  | .hostLinkExit => true
  | .trig0Wake => true
  | .climbComplete => true
  | .wakePhraseEnd g => decide (g < 8)
  | .cameraStart c => decide (c < 2)
  | .cameraStop c => decide (c < 2)
  | .setupTick c => decide (c < 2)
  | .frameStart c => decide (c < 2)
  | .nodeReset c n => decide (c < 2) && decide (n < 2)
  | .exposureStart c n => decide (c < 2) && decide (n < 2)
  | .exposureEnd c n => decide (c < 2) && decide (n < 2)
  | .softwareTrigger mask => decide (mask < 2 ^ 32)
  | .readoutStart c n _ => decide (c < 2) && decide (n < 2)
  | .rowPairComplete c n => decide (c < 2) && decide (n < 2)
  | .portEnable x => decide (x < 2)
  | .portDisable x => decide (x < 2)
  | .train x => decide (x < 2)
  | .trainingEnd x _ => decide (x < 2)
  | .portRun x => decide (x < 2)
  | .portStop x => decide (x < 2)
  | .portFrameStart x => decide (x < 2)
  | .lineEnd x _ _ _ => decide (x < 2)
  | .lineRelease x => decide (x < 2)
  | .portFrameClose x => decide (x < 2)
  | .frameWindowExpiry x => decide (x < 2)
  | .eyeWarning x => decide (x < 2)
  | .recordIssue p => decide (p < 4)
  | .recordComplete p => decide (p < 4)
  | .joinUnderrun j => decide (j < 2)
  | .joinConfigWrite j data => decide (j < 2) && decide (data < 2 ^ 32)
  | .decisionHandoff => true
  | .planDecision => true
  | .jetDisable g mask => decide (g < 8) && decide (mask < 2 ^ 32)
  | .enumeration => true
  | .enum => true
  | .linkDisable => true
  | .lockPhaseEnd => true
  | .ringOpen => true
  | .probe hop e => decide (hop < 9) && e.node.all fun u => decide (u < 8)
  | .hop n rx => decide (n < 9) && rx.fits
  | .identRequest g pos rx => decide (g < 8) && decide (1 ≤ pos) && decide (pos < 9) && rx.fits
  | .identPhaseEnd => true
  | .setup g rx => decide (g < 8) && rx.fits
  | .hlkEnumDone => true
  | .holotCycleStart => true
  | .stationMarker g rx _ => decide (g < 8) && rx.fits
  | .stationLatch g => decide (g < 8)
  | .readFrame g rx => decide (g < 8) && rx.fits
  | .slotMissed g => decide (g < 8)
  | .fireDelivery g => decide (g < 8)
  | .fireSend g => decide (g < 8)
  | .outsetSend g => decide (g < 8)
  | .registerFrameSend => true
  | .echoReturn rx => rx.fits
  | .markerReturn _ => true
  | .markerMissing rx => rx.fits
  | .greg data => decide (data < 2 ^ 32)
  | .gregTimeout => true
  | .fireAccept g rx => decide (g < 8) && rx.fits
  | .outsetAccept g rx => decide (g < 8) && rx.fits
  | .regwAccept g rx => decide (g < 8) && rx.fits
  | .regrAccept g rx => decide (g < 8) && rx.fits
  | .stationParkMissed g => decide (g < 8)
  | .alignmentLoss g rx => decide (g < 8) && rx.fits
  | .fireTick g => decide (g < 8)
  | .peakEnd g ch _ => decide (g < 8) && decide (ch < 32)
  | .pulseEnd g ch _ => decide (g < 8) && decide (ch < 32)
  | .bankOutOfRange g b _ => decide (g < 8) && decide (b < 4)
  | .bankInRange g b _ => decide (g < 8) && decide (b < 4)
  | .overcurrent g ch => decide (g < 8) && decide (ch < 32)
  | .forcedOn g ch => decide (g < 8) && decide (ch < 32)
  | .crossFed g ch others => decide (g < 8) && decide (ch < 32) && others.all fun k => decide (k < 32)
  | .driverHot g ch => decide (g < 8) && decide (ch < 32)
  | .cutCoil g _ => decide (g < 8)
  | .inputEdge g n _ => decide (g < 8) && decide (n < 8)
  | .strobeEnable k _ => decide (k < 4)
  | .strobeWindowOpen k => decide (k < 4)
  | .strobeWindowClose k => decide (k < 4)
  | .strobeMaxhigh k => decide (k < 4)
  | .isetCode j code => decide (j < 4) && decide (code < 2 ^ 32)
  | .isetUpdate j => decide (j < 4)
  | .rangeChange j => decide (j < 4)
  | .deadTimeEnd j => decide (j < 4)
  | .monEnable m => decide (m < 8)
  | .monSample m _ => decide (m < 8)
  | .monBlockClose => true
  | .pioStart mask => decide (mask < 2 ^ 32)
  | .pioStop mask => decide (mask < 2 ^ 32)
  | .goto e => decide (e < 16)
  | .count e => decide (e < 16)
  | .brif e => decide (e < 16)
  | .brnot e => decide (e < 16)
  | .await e => decide (e < 16)
  | .shin e => decide (e < 16)
  | .shout e => decide (e < 16)
  | .deposit e => decide (e < 16)
  | .fetch e => decide (e < 16)
  | .copy e => decide (e < 16)
  | .put e => decide (e < 16)
  | .signalRaise e => decide (e < 16)
  | .signalLower e => decide (e < 16)
  | .illegal e => decide (e < 16)
  | .holdEnd e => decide (e < 16)
  | .pioTxd e data => decide (e < 16) && decide (data < 2 ^ 32)
  | .pioRxpop mask => decide (mask < 2 ^ 32)
  | .pioShflagSet flags => decide (flags < 2 ^ 32)
  | .pioShflagClr flags => decide (flags < 2 ^ 32)
  | .queueClear e => decide (e < 16)
  | .packetOpen port _ => decide (port < 17)
  | .packetWrite port _ => decide (port < 17)
  | .writeUnblock q => decide (q < 64)
  | .packetClose port => decide (port < 17)
  | .packetAbandon port => decide (port < 17)
  | .packetVisible q => decide (q < 64)
  | .packetRead q _ => decide (q < 64)
  | .freelistRebuilt _ => true
  | .queueEnable q _ => decide (q < 64)
  | .queueSize q data => decide (q < 64) && decide (data < 2 ^ 32)
  | .flowMap n data => decide (n < 8) && decide (data < 2 ^ 32)
  | .doorbell r tail => decide (r < 16) && decide (tail < 2 ^ 32)
  | .recordFetch r => decide (r < 16)
  | .fetchReturn r _ => decide (r < 16)
  | .recordTake => true
  | .waitSatisfied r => decide (r < 16)
  | .waitTimeout r => decide (r < 16)
  | .valuePoll r => decide (r < 16)
  | .pollReturn r _ => decide (r < 16)
  | .dispatch u => decide (u < 12)
  | .flightArmed => true
  | .flightDisarmed => true
  | .arcBlockWritten _ _ => true
  | .taskEnd u _ _ => decide (u < 12)
  | .completionWrite => true
  | .eventAdd e delta => decide (e < 256) && decide (delta < 2 ^ 32)
  | .ringDisable r => decide (r < 16)
  | .resume r => decide (r < 16)
  | .headWrite r head => decide (r < 10) && decide (head < 2 ^ 32)
  | .noticeRingEnable n => decide (n < 2)
  | .noticePost n => decide (n < 2)
  | .vectorTimer => true
  | .abort mask => decide (mask < 2 ^ 32)
  | .vectorUnmask v => (match v with | some v => decide (v < 32) | none => true)
  | .busMasterEnable _ => true
  | .d3hot _ => true
  | .l1Request => true
  | .pcieError kind _ => decide (kind < 14)
  | .deviceReadError u => decide (u < 12)
  | .arcRollbackRaise version => decide (version < 2 ^ 32)
  | .rollbackRaised => true
  | .recoveryWrite => true
  | .recoveryDone _ => true
  | .sensorReading n _ => decide (n < 48)
  | .ladderEvaluation => true
  | .baudClockRecovered g => decide (g < 8)
  | .receiverAligned x => decide (x.g < 8) && x.rx.fits
  | .logicSupplyLoss g => decide (g < 8)
  | .missedCycle g => decide (g < 8)
  | .chopPeriodStart g k => decide (g < 8) && decide (k.ch < 32)
  | .debugAccess _ => true
  | .linkRecovery => true
  | .scrub place _ _ => decide (place < 65)

end Sys2Proof
end

