-- ==== Sys2Proof/Decode.lean ====
section
/-! DEFINITION. Commands that a word spells: none, since no row of the spec's table of operations and events gives
bits (log entry 1). -/

namespace Sys2Proof

/-- The command that the word `w` of `nbits` bits spells. -/
def decodeTableWord (_nbits _w : Nat) : Option Instr := none

end Sys2Proof
end

