-- ==== Sys2Proof/Config.lean ====
section
/-! DEFINITION. What an implementation fixes and the spec leaves open: free values, as constants with no body. -/

namespace Sys2Proof.Config

/-- Free value number `n` of a run: nothing constrains it (log entry 2). -/
opaque freeNat : Nat → Nat

/-- Signal minus reset count of a pixel the world has not given: by free value number, physical row and column (log
entry 2). -/
opaque freePixel : Nat → Nat → Nat → Int

/-- The die serial number (`ARC_DIE_SERIAL`, R535), fixed at manufacture. -/
opaque dieSerial : Nat

/-- The silicon revision of configuration space (Table 20.2). -/
opaque siliconRevision : Nat

/-- What the debug port's identification read answers (R576). -/
opaque debugIdent : Nat

end Sys2Proof.Config
end

