-- ==== Sys2Proof/Machine/Fields.lean ====
section
/-! DEFINITION. Bit fields of a 32-bit word, signed readings and byte order (R13, R14). -/

namespace Sys2Proof.Machine

/-- The field of `w` from bit `lo` up to bit `hi`, as a number (R13). -/
def bitsOf (w : Word) (hi lo : Nat) : Nat := (w.toNat / 2 ^ lo) % 2 ^ (hi + 1 - lo)

/-- `w` with the field from bit `lo` up to bit `hi` replaced by the low bits of `v`. -/
def withBits (w : Word) (hi lo v : Nat) : Word :=
  BitVec.ofNat 32 (w.toNat % 2 ^ lo + (v % 2 ^ (hi + 1 - lo)) * 2 ^ lo + w.toNat / 2 ^ (hi + 1) * 2 ^ (hi + 1))

/-- Bit `i` of the number `v`. -/
def bitN (v i : Nat) : Bool := v / 2 ^ i % 2 == 1

/-- The signed reading of the low `n` bits of `v` (two's complement). -/
def signed (n v : Nat) : Int :=
  let u := v % 2 ^ n
  if u < 2 ^ (n - 1) then (u : Int) else (u : Int) - (2 ^ n : Nat)

/-- The low `n` bits of a signed number. -/
def unsigned (n : Nat) (v : Int) : Nat := (v % (2 ^ n : Nat)).toNat

/-- `v` held between `lo` and `hi` (with `lo` above `hi` the answer is `lo`, as R198 has it). -/
def clampI (lo hi v : Int) : Int := max lo (min hi v)

/-- Little-endian bytes of `v`, `n` of them (R14). -/
def leBytes (v : Nat) : Nat → List Byte
  | 0 => []
  | n + 1 => BitVec.ofNat 8 v :: leBytes (v / 256) n

/-- The number that little-endian bytes spell (R14). -/
def leNat : List Byte → Nat
  | [] => 0
  | b :: bs => b.toNat + 256 * leNat bs

/-- The low half of a 64-bit quantity (the register at the lower offset). -/
def lo32 (v : Nat) : Word := BitVec.ofNat 32 v

/-- The high half of a 64-bit quantity. -/
def hi32 (v : Nat) : Word := BitVec.ofNat 32 (v / 2 ^ 32)

/-- Number of set bits among the low `n` bits. -/
def popN (v : Nat) : Nat → Nat
  | 0 => 0
  | n + 1 => popN v n + (if bitN v n then 1 else 0)

/-- The integer square root, rounded down, by Newton-free bisection over `n` bits. -/
def isqrtAux (v : Nat) : Nat → Nat → Nat
  | 0, acc => acc
  | n + 1, acc => isqrtAux v n (if (acc + 2 ^ n) * (acc + 2 ^ n) ≤ v then acc + 2 ^ n else acc)

/-- Integer square root of a number below 2^256, rounded down. -/
def isqrt (v : Nat) : Nat := isqrtAux v 128 0

/-- Division rounded up. -/
def ceilDiv (a b : Nat) : Nat := (a + b - 1) / b

/-- List `l` with entry `i` replaced by `f` of it. -/
def modNth {α : Type} (l : List α) (i : Nat) (f : α → α) : List α :=
  match l, i with
  | [], _ => []
  | x :: xs, 0 => f x :: xs
  | x :: xs, i + 1 => x :: modNth xs i f

/-- Entry `i` of a list, or `d` past its end. -/
def nth {α : Type} (l : List α) (i : Nat) (d : α) : α :=
  match l, i with
  | [], _ => d
  | x :: _, 0 => x
  | _ :: xs, i + 1 => nth xs i d

/-- `f` applied over the indices 0 up to `n`, in order. -/
def overIdx {σ : Type} (f : Nat → σ → σ) : Nat → σ → σ
  | 0, s => s
  | n + 1, s => f n (overIdx f n s)

/-- A mask with bit `n` replaced. -/
def maskBit (m n : Nat) (b : Bool) : Nat := if bitN m n = b then m else if b then m + 2 ^ n else m - 2 ^ n

end Sys2Proof.Machine
end

