-- ==== Sys2Proof/Machine/Sparse.lean ====
section
/-! DEFINITION. Sparse contents by address in one canonical form (addresses strictly rising, no entry equal to what
an unlisted address reads as): register files, Store, Archive, wear accounts, host memory. -/

namespace Sys2Proof.Machine

/-- What address `k` reads as in `m`, where an unlisted address `a` reads as `d a`. -/
def sget {α : Type} (d : Nat → α) : List (Nat × α) → Nat → α
  | [], k => d k
  | (a, v) :: m, k => if k = a then v else sget d m k

/-- The list with address `k` not listed. -/
def sdel {α : Type} : List (Nat × α) → Nat → List (Nat × α)
  | [], _ => []
  | (a, v) :: m, k => if k = a then sdel m k else (a, v) :: sdel m k

/-- The list with `k` holding `v`, kept in rising order of address. -/
def sput {α : Type} : List (Nat × α) → Nat → α → List (Nat × α)
  | [], k, v => [(k, v)]
  | (a, w) :: m, k, v =>
    if k = a then (k, v) :: m else if k < a then (k, v) :: (a, w) :: m else (a, w) :: sput m k v

/-- Write `v` at `k`: writing what an unlisted address reads as removes the entry. -/
def sset {α : Type} [DecidableEq α] (d : Nat → α) (m : List (Nat × α)) (k : Nat) (v : α) : List (Nat × α) :=
  if v = d k then sdel m k else sput m k v

/-- Every address of the list lies above `lo`, addresses rise strictly and no entry equals what its address reads as
unlisted. -/
def sbelow {α : Type} [DecidableEq α] (d : Nat → α) : Option Nat → List (Nat × α) → Bool
  | _, [] => true
  | none, (a, v) :: m => decide (v ≠ d a) && sbelow d (some a) m
  | some lo, (a, v) :: m => decide (lo < a) && decide (v ≠ d a) && sbelow d (some a) m

/-- The canonical form of sparse contents. -/
def swf {α : Type} [DecidableEq α] (d : Nat → α) (m : List (Nat × α)) : Bool := sbelow d none m

/-- The entries outside the half-open range from `lo` up to `hi`. -/
def sdrop {α : Type} (m : List (Nat × α)) (lo hi : Nat) : List (Nat × α) :=
  m.filter fun c => decide (c.1 < lo) || decide (hi ≤ c.1)

/-- `n` entries from address `a` upward. -/
def sread {α : Type} (d : Nat → α) (m : List (Nat × α)) (a : Nat) : Nat → List α
  | 0 => []
  | n + 1 => sget d m a :: sread d m (a + 1) n

/-- The values `vs` written from address `a` upward. -/
def swrite {α : Type} [DecidableEq α] (d : Nat → α) (m : List (Nat × α)) (a : Nat) : List α → List (Nat × α)
  | [] => m
  | v :: vs => swrite d (sset d m a v) (a + 1) vs

/-- A register file: byte offset and 32-bit value; an unlisted register reads zero. -/
abbrev Regs := List (Nat × Word)

/-- Every register or byte unlisted reads zero. -/
def zeroWord : Nat → Word := fun _ => 0
def zeroByte : Nat → Byte := fun _ => 0

/-- The value of the register at `off`. -/
def Regs.get (r : Regs) (off : Nat) : Word := sget zeroWord r off

/-- The register file with `v` at `off`. -/
def Regs.set (r : Regs) (off : Nat) (v : Word) : Regs := sset zeroWord r off v

/-- The canonical form of a register file. -/
def Regs.wf (r : Regs) : Bool := swf zeroWord r

/-- Bytes of host memory; an unlisted byte reads zero. -/
abbrev Bytes := List Host.Cell

def Bytes.get (m : Bytes) (a : Nat) : Byte := sget zeroByte m a
def Bytes.read (m : Bytes) (a n : Nat) : List Byte := sread zeroByte m a n
def Bytes.write (m : Bytes) (a : Nat) (bs : List Byte) : Bytes := swrite zeroByte m a bs
def Bytes.wf (m : Bytes) : Bool := swf zeroByte m

/-- What an unlisted byte of the Store reads as: zero but for the default calibration of R101 in area 0 and in the
correction table banks (log entry 4) and the tap curves of R282, whose entry i is floor(i / 4). Area 0: set temperatures 200,
480, 760; every STEP 1; every flat gain 16384. Table banks: identity unmixing, gains 16384. DESIGN CHOICE, but for the curves. -/
def storeInit (a : Nat) : Byte :=
  let k := a - 0x4800000
  let t := (a - 0x3100000) % 0x20000
  if 0x4800000 ≤ a ∧ a < 0x4800000 + 11042048 then
    (if k = 8 then 0xC8 else if k = 10 then 0xE0 else if k = 11 then 0x01 else if k = 12 then 0xF8 else if k = 13 then 0x02
     else if 0xB00 ≤ k ∧ k < 0xB0C ∧ k % 2 = 0 then 0x01
     else if 0x487D00 ≤ k ∧ k < 0x487D00 + 6291456 ∧ k % 2 = 1 then 0x40
     else 0)
  else if 0x3100000 ≤ a ∧ a < 0x3200000 then
    (if t < 256 ∧ t % 32 = 9 then 0x40 else if 256 ≤ t ∧ t < 768 ∧ t % 2 = 1 then 0x40 else 0)
  else if 0x3400000 ≤ a ∧ a < 0x3402000 then BitVec.ofNat 8 ((a - 0x3400000) % 1024 / 4)
  else 0

/-- What an unlisted byte of the Archive reads as: zero but for a firmware header with a valid MAGIC in each slot (log
entry 4). DESIGN CHOICE. -/
def archiveInit (a : Nat) : Byte :=
  let k := if a < 256 * 2912 then a - 256 * 64 else a - 256 * 2912
  if 256 * 64 ≤ a ∧ a < 256 * 5760 then
    (if k = 0 then 0x46 else if k = 1 then 0x46 else if k = 2 then 0x57 else if k = 3 then 0x52 else if k = 4 then 0x01
     else if k = 17 then 0x01 else 0)
  else 0

/-- Bytes of the Store. -/
abbrev StoreBytes := List Host.Cell

def StoreBytes.get (m : StoreBytes) (a : Nat) : Byte := sget storeInit m a
def StoreBytes.read (m : StoreBytes) (a n : Nat) : List Byte := sread storeInit m a n
def StoreBytes.write (m : StoreBytes) (a : Nat) (bs : List Byte) : StoreBytes := swrite storeInit m a bs
def StoreBytes.wf (m : StoreBytes) : Bool := swf storeInit m

/-- Bytes of the Archive. -/
abbrev ArcBytes := List Host.Cell

def ArcBytes.get (m : ArcBytes) (a : Nat) : Byte := sget archiveInit m a
def ArcBytes.read (m : ArcBytes) (a n : Nat) : List Byte := sread archiveInit m a n
def ArcBytes.write (m : ArcBytes) (a : Nat) (bs : List Byte) : ArcBytes := swrite archiveInit m a bs
def ArcBytes.wf (m : ArcBytes) : Bool := swf archiveInit m

end Sys2Proof.Machine
end

