-- ==== Sys2Proof/Machine/Pixels.lean ====
section
/-! DEFINITION. The pixel arithmetic of a pipeline, as pure functions of a frame part: corrections
(09_corrections.md), digital binning (R185), reconstruction and blue refinement (10_reconstruction_and_taps.md),
the class lookup (R293, R294) and the pixel coding of the taps (R280 to R284). -/

namespace Sys2Proof.Machine

/-- A picture in part coordinates: `none` where a pixel is absent (R246). -/
abbrev Image := Int → Int → Option Int

/-- The picture that rows of values spell. -/
def imageOf (rows : List (List Int)) : Image :=
  let a := (rows.map List.toArray).toArray
  fun r c => if r < 0 ∨ c < 0 then none else (a[r.toNat]?).bind fun row => row[c.toNat]?

/-- `h` rows of `w` values. -/
def tabulate {α : Type} (h w : Nat) (f : Nat → Nat → α) : List (List α) :=
  (List.range h).map fun r => (List.range w).map (f r)

/-- Arithmetic right shift with the rounding term of R244. -/
def roundShift (v : Int) (k : Nat) : Int := (v + (2 ^ (k - 1) : Nat)) / (2 ^ k : Nat)

/-- Clamp to signed 20 bits (R244). -/
def clampCW (v : Int) : Int := clampI (-524288) 524287 v

/-- Clamp to unsigned 16 bits (R244). -/
def clamp16 (v : Int) : Int := clampI 0 65535 v

/-- Rounded division, halves upward whatever the signs (R301). -/
def rdiv (x y : Int) : Int := if 0 < y then (2 * x + y) / (2 * y) else (-2 * x - y) / (-2 * y)

/-- The site of the pixel at an address (R241). -/
def siteOf (row col : Nat) : Nat := 4 * (row % 2) + col % 4

/-- Green sites (R241). -/
def isGreen (s : Nat) : Bool := s == 0 || s == 2 || s == 5 || s == 7

/-- What the corrections of one frame part use. -/
structure Corr where
  /-- 0 camera, 1 companion LAYOUT 0, 2 companion LAYOUT 1. -/
  kind : Nat
  unmix : Bool
  bal : Bool
  dark : Bool
  flat : Bool
  defect : Bool
  /-- Store addresses of the table bank and of the calibration area in effect. -/
  tbl : Nat
  cal : Nat
  node : Nat
  /-- Segment and weight of R254. -/
  seg : Nat
  weight : Int
  /-- First row and column address, and whether the part is counter-binned (R242). -/
  row0 : Nat
  col0 : Nat
  cbin : Bool
  deriving DecidableEq, Repr

/-- Address of output row `r` of the part (R242, R184). -/
def Corr.rowAddr (k : Corr) (r : Nat) : Nat := if k.cbin then k.row0 + 4 * (r / 2) + r % 2 else k.row0 + r

/-- Address of column `c` of the part (R242). -/
def Corr.colAddr (k : Corr) (c : Nat) : Nat := k.col0 + c

/-- `n` bytes of Store as a little-endian number. -/
def peek (st : StoreBytes) (a n : Nat) : Nat := leNat (st.read a n)

/-- Column and row of each entry of the defect map of the area at `cal` (R259). -/
def defectMap (st : StoreBytes) (cal : Nat) : List (Nat × Nat) :=
  (List.range (min (peek st (cal + 0x3C00) 4) 4096)).map fun i =>
    let e := peek st (cal + 0x3C04 + 4 * i) 4
    (e / 2 ^ 13 % 2 ^ 9, e % 2 ^ 13)

/-- Whether the pixel of the part at (r, c) is flagged defective (R247, R262). -/
def Corr.flagged (k : Corr) (st : StoreBytes) (defects : List (Nat × Nat)) (r c : Nat) : Bool :=
  k.defect && (if k.kind = 0 then defects.contains (k.rowAddr r, k.colAddr c)
    else peek st (k.tbl + 768 + 8 * k.colAddr c + 6) 2 % 2 == 1)

/-- Unmix coefficient of site `s` at (dy, dx) (Table 9.2). -/
def kernelAt (st : StoreBytes) (tbl s : Nat) (dy dx : Int) : Int :=
  signed 16 (peek st (tbl + 32 * s + 2 * (3 * (dy + 1) + (dx + 1)).toNat) 2)

/-- The nine places of a 3 × 3 neighbourhood, in the order of R248. -/
def around : List (Int × Int) :=
  [(-1, -1), (-1, 0), (-1, 1), (0, -1), (0, 0), (0, 1), (1, -1), (1, 0), (1, 1)]

/-- Stage 1: unmix and green balance (R248, R249, R261). -/
def Corr.stage1 (k : Corr) (st : StoreBytes) (defects : List (Nat × Nat)) (x : Image) (r c : Nat) : Int :=
  let v := (x r c).getD 0
  if k.kind = 1 then v else
  let s := siteOf (k.rowAddr r) (k.colAddr c)
  let y := if k.unmix && k.flagged st defects r c then 0
    else if k.unmix then
      roundShift (around.foldl (fun acc (d : Int × Int) =>
        let r' := (r : Int) + d.1
        let c' := (c : Int) + d.2
        match x r' c' with
        | none => acc
        | some q => if k.flagged st defects r'.toNat c'.toNat then acc else acc + kernelAt st k.tbl s d.1 d.2 * q) 0) 14
    else v
  let y := if k.bal && isGreen s then
      let w := peek st (k.tbl + 256 + 4 * (k.colAddr c / 64)) 4
      roundShift (y * ((if s < 4 then w % 65536 else w / 65536 : Nat) : Int)) 14
    else y
  clampCW y

/-- Dark value of set `j` at an address (R251, Table 21.4). -/
def darkSet (st : StoreBytes) (cal j n row col : Nat) : Int :=
  let base := signed 32 (peek st (cal + 0xC00 + 4096 * j + 2048 * n + 8 * (row / 2) + 4 * (row % 2)) 4)
  let b := peek st (cal + 0x7D00 + 0x180000 * j + (6144 * row + col) / 2) 1
  let code := if col % 2 = 0 then b % 16 else b / 16
  base + (code * peek st (cal + 0xB00 + 4 * j + 2 * n) 2 : Nat)

/-- The dark value subtracted (R254, R261). -/
def Corr.darkAt (k : Corr) (st : StoreBytes) (r c : Nat) : Int :=
  if k.kind = 0 then
    let da := darkSet st k.cal k.seg k.node (k.rowAddr r) (k.colAddr c)
    let db := darkSet st k.cal (k.seg + 1) k.node (k.rowAddr r) (k.colAddr c)
    da + roundShift ((db - da) * k.weight) 12
  else signed 32 (peek st (k.tbl + 768 + 8 * k.colAddr c) 4)

/-- The flat gain (R255, R262). -/
def Corr.gainAt (k : Corr) (st : StoreBytes) (r c : Nat) : Nat :=
  if k.kind = 0 then peek st (k.cal + 0x487D00 + 2 * (6144 * k.rowAddr r + k.colAddr c)) 2
  else peek st (k.tbl + 768 + 8 * k.colAddr c + 4) 2

/-- Stage 2: dark and flat (R254, R255). -/
def Corr.stage2 (k : Corr) (st : StoreBytes) (y : Int) (r c : Nat) : Int :=
  let y := if k.dark then y - k.darkAt st r c else y
  clampCW (if k.flat then roundShift (y * (k.gainAt st r c : Nat)) 14 else y)

/-- Substitution candidates of Table 9.3. -/
def Corr.candidates (k : Corr) (r c : Nat) : List (Int × Int) :=
  if k.kind = 1 then [(0, -1), (0, 1)]
  else if isGreen (siteOf (k.rowAddr r) (k.colAddr c)) then [(-1, -1), (-1, 1), (1, -1), (1, 1)]
  else [(-2, 0), (2, 0), (0, -4), (0, 4)]

/-- A stage 3 result: value, whether the pixel was replaced, replaced with no candidate, above 65,535 before the
clamp (R257, R258). -/
structure Px3 where
  v : Nat
  sub : Bool
  unres : Bool
  sat : Bool
  deriving DecidableEq, Repr

/-- Stage 3: defect substitution (R257, R258). -/
def Corr.stage3 (k : Corr) (st : StoreBytes) (defects : List (Nat × Nat)) (y : Image) (r c : Nat) : Px3 :=
  if k.flagged st defects r c then
    let cs := (k.candidates r c).filterMap fun d =>
      let r' := (r : Int) + d.1
      let c' := (c : Int) + d.2
      match y r' c' with
      | none => none
      | some q => if k.flagged st defects r'.toNat c'.toNat then none else some (clamp16 q)
    if cs.isEmpty then ⟨0, true, true, false⟩
    else ⟨((cs.foldl (· + ·) 0).toNat + cs.length / 2) / cs.length, true, false, false⟩
  else
    let v := (y r c).getD 0
    ⟨(clamp16 v).toNat, false, false, decide (65535 < v)⟩

/-- Stages 1 to 3 over a whole part of `h` by `w` stage 0 values: the stage 1 rows, the stage 2 rows and the
stage 3 rows (R240). -/
def Corr.run (k : Corr) (st : StoreBytes) (rows : List (List Int)) (h w : Nat) :
    List (List Int) × List (List Int) × List (List Px3) :=
  let defects := if k.defect then defectMap st k.cal else []
  let s1 := tabulate h w (k.stage1 st defects (imageOf rows))
  let i1 := imageOf s1
  let s2 := tabulate h w fun r c => k.stage2 st ((i1 r c).getD 0) r c
  (s1, s2, tabulate h w (k.stage3 st defects (imageOf s2)))

/-- Digital binning by `k` (1, 2 or 4) of a mosaic (R185). -/
def digitalBin (k : Nat) (rows : List (List Int)) (h w : Nat) : List (List Int) :=
  if k ≤ 1 then rows else
  let x := imageOf rows
  tabulate (h / k) (w / k) fun r c =>
    let s := (List.range k).foldl (fun acc b => (List.range k).foldl (fun acc a =>
      acc + ((x (2 * (k * (r / 2) + b) + r % 2 : Nat) (4 * (k * (c / 4) + a) + c % 4 : Nat)).getD 0).toNat) acc) 0
    (((s + k * k / 2) / (k * k) : Nat) : Int)

/-- A reconstructed pixel: the five planes (R268). -/
structure Px where
  r : Nat
  g : Nat
  b : Nat
  n : Nat
  c : Nat
  deriving DecidableEq, Repr

/-- G at a pixel (R269, R270). -/
def planeG (x : Image) (site : Nat) (r c : Nat) : Nat :=
  if isGreen site then ((x r c).getD 0).toNat else
  let l := [x r (c - 1), x r (c + 1), x (r - 1) c, x (r + 1) c].filterMap id
  ((l.foldl (· + ·) 0).toNat + l.length / 2) / l.length

/-- The nearest index congruent to `i` modulo `d` inside `0` to `n - 1` (R271). -/
def nearest (n d : Nat) (i : Int) : Int :=
  if i < 0 then i % d else if (n : Int) ≤ i then (let m := (i % (d : Int)); m + (((n : Int) - 1 - m) / d) * d) else i

/-- A plane sampled on the lattice of origin (r0, c0), given in part coordinates (R271). -/
def planeLattice (x : Image) (h w r0 c0 r c : Nat) : Nat :=
  let u := (c + 4 - c0) % 4
  let v := (r + 2 - r0) % 2
  let at_ := fun (dr dc : Int) (wt : Nat) =>
    if wt = 0 then 0 else wt * ((x (nearest h 2 (r - v + dr)) (nearest w 4 (c - u + dc))).getD 0).toNat
  (at_ 0 0 ((4 - u) * (2 - v)) + at_ 0 4 (u * (2 - v)) + at_ 2 0 ((4 - u) * v) + at_ 2 4 (u * v) + 4) / 8

/-- Coefficients of the blue refinement (R273). -/
structure BlueFit where
  kc : Int
  kr : Int
  kg : Int
  kn : Int
  m : Nat
  deriving DecidableEq, Repr

/-- The blue refinement (R273). -/
def BlueFit.refine (k : BlueFit) (p : Px) : Px :=
  let bc := roundShift (k.kc * p.c - k.kr * p.r - k.kg * p.g - k.kn * p.n) 12
  { p with b := (clamp16 (roundShift ((p.b : Int) * (4096 - k.m) + bc * k.m) 12)).toNat }

/-- The five planes of every pixel of a mosaic of `h` by `w` whose first pixel has the given address parity; a
companion of LAYOUT 0 is carried as C (R268 to R273). -/
def reconstruct (mono : Bool) (k : BlueFit) (rows : List (List Int)) (h w row0 col0 : Nat) : List (List Px) :=
  let x := imageOf rows
  let org := fun (r0 c0 : Nat) => ((r0 + 2 - row0 % 2) % 2, (c0 + 4 - col0 % 4) % 4)
  tabulate h w fun r c =>
    k.refine (if mono then ⟨0, 0, 0, 0, ((x r c).getD 0).toNat⟩ else
      let pl := fun (o : Nat × Nat) => planeLattice x h w o.1 o.2 r c
      ⟨pl (org 0 1), planeG x (siteOf (row0 + r) (col0 + c)) r c, pl (org 1 0), pl (org 1 2), pl (org 0 3)⟩)

/-- Gains of the feature axes (R293). -/
structure Feat where
  ku : Nat
  kv : Nat
  kw : Nat
  deriving DecidableEq, Repr

/-- Index of a pixel in its classification table (R293, R294). -/
def classIndex (mono : Bool) (f : Feat) (p : Px) : Nat :=
  if mono then 32 * 64 + p.c / 1024 else
  let s : Int := p.r + p.g + p.b + 1
  let iu := clampI 0 63 (32 + (((p.r : Int) - p.g) * f.ku) / (256 * s))
  let iv := clampI 0 63 (32 + ((2 * (p.b : Int) - p.r - p.g) * f.kv) / (256 * s))
  let iw := clampI 0 63 (((p.n : Int) * f.kw) / (256 * ((p.g : Int) + 1)))
  (iw * 4096 + iv * 64 + iu).toNat

/-- The class of a pixel in the table at Store address `bank` (R294, Table 11.1). -/
def classOf (st : StoreBytes) (bank : Nat) (i : Nat) : Nat :=
  let b := peek st (bank + i / 2) 1
  if i % 2 = 0 then b % 16 else b / 16

/-- The five plane values of a pixel in the order R, G, B, N, C (R268). -/
def Px.planes (p : Px) : List Nat := [p.r, p.g, p.b, p.n, p.c]

/-- Twelve-bit packing of two values in three bytes (R280). -/
def pack12 : List Nat → List Byte
  | a :: b :: l =>
    [BitVec.ofNat 8 a, BitVec.ofNat 8 (a / 256 + (b % 16) * 16), BitVec.ofNat 8 (b / 16)] ++ pack12 l
  | [a] => [BitVec.ofNat 8 a, BitVec.ofNat 8 (a / 256)]
  | [] => []

/-- `bs` extended with zero bytes to a multiple of `m`. -/
def padTo (m : Nat) (bs : List Byte) : List Byte := bs ++ List.replicate ((m - bs.length % m) % m) 0

/-- One plane row of the vision tap, unpadded (R280). -/
def visionRow (fmt : Nat) (l : List Nat) : List Byte :=
  if fmt = 0 then l.flatMap fun v => leBytes v 2
  else pack12 (l.map fun v => min 4095 ((v + 8) / 16))

/-- Settings of the display and coding pixel path (R281). -/
structure ColourPath where
  /-- Scale factor: 1, 2 or 4. -/
  k : Nat
  grey : Nat
  /-- The nine matrix coefficients (R281). -/
  ccm : List Int
  /-- Store address of the tap curve in effect (R282). -/
  curve : Nat
  deriving DecidableEq, Repr

/-- The 8-bit R, G, B of output pixel (J, I) from rows of planes (R281, R283). -/
def ColourPath.pixel (q : ColourPath) (st : StoreBytes) (rows : Array (Array Px)) (J I : Nat) : Nat × Nat × Nat :=
  let block := fun (f : Px → Nat) =>
    let s := (List.range q.k).foldl (fun acc b => (List.range q.k).foldl (fun acc a =>
      acc + match (rows[q.k * J + b]?).bind (·[q.k * I + a]?) with
        | some p => f p
        | none => 0) acc) 0
    (s + q.k * q.k / 2) / (q.k * q.k)
  let curve := fun (v : Nat) => peek st (q.curve + v / 64) 1
  if q.grey = 1 then let v := curve (block (·.n)); (v, v, v)
  else if q.grey = 2 then let v := curve (block (·.c)); (v, v, v)
  else
    let i := [block (·.r), block (·.g), block (·.b)]
    let out := fun (o : Nat) =>
      let s := (List.range 3).foldl (fun (acc : Int) j => acc + nth q.ccm (3 * o + j) 0 * (nth i j 0 : Nat)) 0
      curve (clamp16 (roundShift s 12)).toNat
    (out 0, out 1, out 2)

/-- BT.709 luma and colour differences, unclamped (R283). -/
def toYCC (p : Nat × Nat × Nat) : Int × Int × Int :=
  let r : Int := p.1
  let g : Int := p.2.1
  let b : Int := p.2.2
  ((47 * r + 157 * g + 16 * b + 128) / 256 + 16, (-26 * r - 86 * g + 112 * b + 128) / 256 + 128,
   (112 * r - 102 * g - 10 * b + 128) / 256 + 128)

/-- One body packet's row data of the coding tap: 16 luma lines and 8 chroma lines of `stride` bytes (R283, R284). -/
def ColourPath.tile (q : ColourPath) (st : StoreBytes) (rows : Array (Array Px)) (w codedH stride i : Nat) : List Byte :=
  let line := fun (J : Nat) => (List.range w).map fun I => toYCC (q.pixel st rows J I)
  let luma := fun (l : Nat) =>
    padTo stride ((line (min (16 * i + l) (codedH - 1))).map fun y => BitVec.ofNat 8 (clampI 16 235 y.1).toNat)
  let chroma := fun (l : Nat) =>
    let J := min (16 * i + 2 * l) (codedH - 2)
    let a := (line J).toArray
    let b := (line (J + 1)).toArray
    padTo stride ((List.range (w / 2)).flatMap fun I =>
      let s := fun (f : Int × Int × Int → Int) =>
        let at_ := fun (x : Array (Int × Int × Int)) (k : Nat) => match x[k]? with
          | some y => f y
          | none => 0
        BitVec.ofNat 8 (clampI 16 240 ((at_ a (2 * I) + at_ a (2 * I + 1) + at_ b (2 * I) + at_ b (2 * I + 1) + 2) / 4)).toNat
      [s (·.2.1), s (·.2.2)])
  ((List.range 16).flatMap luma) ++ (List.range 8).flatMap chroma

end Sys2Proof.Machine
end

