-- ==== Sys2Proof/Machine/RegMap.lean ====
section
/-! DEFINITION. The register map of the head: every register of the spec's address map (23_address_map.md, Tables
23.2 to 23.16, R597 to R600), each field of every register table with its bits, access code (Table 0.4), landing
class (Table 0.5), markers (Table 0.6) and accepted values, and the name of every field and counter. -/

namespace Sys2Proof.Machine

/-- Access codes of Table 0.4 (R18). -/
inductive Access where
  | ro | rw | wo | w1c | w1s | cnt
  deriving DecidableEq, Repr

/-- Landing classes of Table 0.5 (R24, R202). -/
inductive Lands where
  | none | live | frame | cycle | task | stopped
  deriving DecidableEq, Repr

/-- Markers of Table 0.6: `b` bounded by a Balustrade ceiling, `k` governed by a strap lock. -/
inductive Mark where
  | none | b | k
  deriving DecidableEq, Repr

/-- One field of a register table: bits, access, landing class, marker, and the closed intervals of accepted
values (empty: every value). -/
structure FieldRow where
  hi : Nat
  lo : Nat
  acc : Access
  lands : Lands
  mark : Mark
  ok : List (Nat × Nat)
  deriving DecidableEq, Repr

/-- A field's place: byte offset of its register, top bit, bottom bit. -/
structure Fld where
  off : Nat
  hi : Nat
  lo : Nat
  deriving DecidableEq, Repr

/-- A counter's place, its width in bits and whether it saturates (R26). -/
structure Ctr where
  off : Nat
  width : Nat
  sat : Bool
  deriving DecidableEq, Repr

/-- The registers of BAR 0, by name (Tables 23.2 to 23.16). -/
inductive Reg where
  | NWL_CTRL | NWL_STATUS | NWL_REFMODE_NEXT | NWL_DIV_MON | NWL_DIV_XCLK | NWL_DIV_ACTIVE | NWL_TIME_EPOCH
  | NWL_TIME_LO | NWL_TIME_HI | NWL_SNAP_LO | NWL_SNAP_HI | NWL_COMMIT_TIME_LO | NWL_COMMIT_TIME_HI | NWL_FLAGS
  | NWL_CNT_REF_LOSS | NWL_CNT_REACQ | STP_LEVELS_LO | STP_LEVELS_HI | STP_ANOMALY | STP_CONFIG | STP_CEIL_A
  | STP_CEIL_PULSE | STP_CEIL_GAP | STP_SOFT_LOCK | STP_CNT_REFUSED | STP_LAST_REFUSED | PWR_RESET | PWR_RESET_CAUSE
  | PWR_BOOT_STATUS | PWR_BOOT_US | PWR_CNT_FULL | PWR_CNT_HOST | PWR_CNT_WDOG | PWR_STEP_CTRL | PWR_STEP_STATUS
  | PWR_WAKE_EN | PWR_WAKE_CAUSE | PWR_COMMIT_TIME_LO | PWR_COMMIT_TIME_HI | PWR_CNT_WAKE | PWR_CNT_ABORT
  | ARR_CAM_CTRL | ARR_CAM_STATUS | ARR_START_TIME_LO | ARR_START_TIME_HI | ARR_PERIOD | ARR_TRIG_DELAY
  | ARR_BURST_LEN | ARR_AB_DELAY | ARR_STROBE_MAP | ARR_CAM_BAND | ARR_LAST_START_LO | ARR_LAST_START_HI
  | ARR_GEN | ARR_FRAME_COUNT | ARR_CNT_SLOT_SKIP | ARR_CNT_TRIG_DROP | ARR_CNT_SET_HELD | ARR_EXP_OFFSET
  | ARR_EXP_LEN | ARR_EXP_SUB | ARR_EXP_PITCH | ARR_XSERVO | ARR_XSERVO_TARGET | ARR_XSERVO_MIN | ARR_XSERVO_MAX
  | ARR_EXP_LEN_EFF | ARR_CNT_XSERVO_BOUND | ARR_BLACK | ARR_SW_TRIG | ARR_FLAGS | ARR_POWER_BUDGET | ARR_POWER_EFF
  | CNV_WIN | CNV_MODE | CNV_RP_EFF | CNV_DARK_CTRL | CNV_DARK_BOUND | CNV_DARK_OFS | CNV_DARK_EFF | CNV_RDO_PLAN
  | CNV_RDO_LEN | CNV_CNT_RDO_DEFER | CNV_CNT_DARK_BOUND | CNV_FLAGS | XPT_CTRL | XPT_STATUS | XPT_DELAY
  | XPT_FMT | XPT_LINES | XPT_FRAME_WIN | XPT_LAT_ADJ | XPT_GEN | XPT_LAST_START_LO | XPT_LAST_START_HI
  | XPT_CNT_FRAMES | XPT_CNT_MARKED | XPT_CNT_CRC | XPT_CNT_LENGTH | XPT_CNT_MISSING | XPT_CNT_STRAY
  | XPT_CNT_TIMEOUT | XPT_CNT_EYE_WARN | XPT_CNT_TRAIN_FAIL | XPT_FLAGS | PIP_SRC | PIP_BIN | PIP_CORR_CTRL
  | PIP_DARK_TEMP | PIP_CORR_EFF | PIP_CNT_DARK_MISMATCH | PIP_CNT_UNRESOLVED | PIP_CNT_SAT_HI | PIP_CNT_TEMP_CLAMP
  | PIP_BREF_A | PIP_BREF_B | PIP_BREF_MIX | PIP_TAP_CURVE | PIP_CCM | PIP_TAP_CTRL | PIP_TAP_ADMIT | PIP_TAP_SEQ
  | PIP_CNT_SKIP | PIP_CNT_VOID | PIP_CORR_FLAGS | PIP_TAP_FLAGS | CLS_CTRL | CLS_FEAT | CLS_FEAT_W | CLS_TALLY
  | CLS_PITCH | CLS_VIEW_ROW | CLS_AB_GATE | CLS_TRACK | CLS_CNT_RECORDS | CLS_CNT_PLANNED | CLS_CNT_OVERFLOW
  | CLS_CNT_NOMATCH | CLS_CNT_ORPHAN | CLS_JOIN | CLS_JOIN_OFS | CLS_JOIN_DT | CLS_JOIN_WIN | CLS_JOIN_WAIT
  | CLS_CNT_JOINED | CLS_CNT_SINGLE | CLS_CNT_UNDERRUN | CLS_CNT_STALE | CLS_FLAGS | CLS_JOIN_STATUS
  | EJP_CTRL | EJP_GRAVITY | EJP_DRAG | EJP_DUR_DOUBT | EJP_PULSE_MAX | EJP_GAP_MIN | EJP_FLAGS | EJP_LAST_LATE_LO
  | EJP_LAST_LATE_HI | EJP_LAST_LATE_INFO | EJP_CNT_REJECT | EJP_CNT_DOUBT | EJP_CNT_FALLBACK | EJP_CNT_UNPLANNED
  | EJP_CNT_CLIP | EJP_CNT_DEC_OVF | EJP_ROW_DIST | EJP_ROW_LEAD | EJP_ROW_FALLBACK | EJP_ROW_MAP_A | EJP_ROW_MAP_B
  | EJP_RULE | EJP_RULE_MASK | EJP_DUR | EJP_DUR_ROW | EJP_JET_EN | EJP_FQ_LEVEL | EJP_CNT_CMD | EJP_CNT_GAP
  | EJP_CNT_FQ_FULL | EJP_CNT_LATE | EJP_CNT_NOGAL | EJP_CNT_DISABLED | HLK_CTRL | HLK_CYCLE | HLK_STATUS
  | HLK_LENC_EFF | HLK_ACC | HLK_LOOP | HLK_FLAGS | HLK_GREG_CTRL | HLK_GREG_DATA | HLK_GREG_STATUS | HLK_CNT_CYCLES
  | HLK_CNT_CHAR_ERR | HLK_CNT_ECHO_ERR | HLK_CNT_ABORT | HLK_CNT_ENUM | HLK_POS | HLK_STA | HLK_STA_DELAY
  | HLK_STA_ON | HLK_STA_PEAK | HLK_STA_ACK | HLK_STA_STRAP | HLK_STA_ID | HLK_OUT | HLK_CNT_MISS | HLK_CNT_FRAME_ERR
  | HLK_CNT_RESEND | HLK_CNT_UNDELIV | HLK_CNT_INDOUBT | MON_CTRL | MON_CFG | MON_RESULT_LO | MON_RESULT_HI
  | MON_STATUS | MON_LIMIT | MON_CNT_SYNC | MON_CNT_LIMIT | MON_STREAM | MON_FLAGS | MON_CNT_SKIP | MON_STREAM_SEQ
  | ILM_STROBE_CTRL | ILM_STROBE_TIME | ILM_STROBE_POFS | ILM_STROBE_PLEN | ILM_STROBE_MAXHIGH | ILM_CNT_LEAD_CLIP
  | ILM_CNT_MAXHIGH | ILM_ISET_CODE | ILM_ISET_CTRL | ILM_SETPOINT_CEIL | ILM_ISET_EFF | ILM_RANGE_PERMIT
  | ILM_FLAGS | PIO_START | PIO_STOP | PIO_RUNNING | PIO_PIN_IN | PIO_RXPOP | PIO_SHFLAG_SET | PIO_SHFLAG_CLR
  | PIO_PIN_CFG | PIO_CLKDIV | PIO_EXEC | PIO_PINS | PIO_QCFG | PIO_QSTAT | PIO_TXD | PIO_RXD | PIO_RXT
  | PIO_CMP | PIO_ERR | PIO_DBG | PIO_DBG_SR | PIO_CNT_UNDER | PIO_CNT_OVER | PIO_PROG | HAL_Q_CTRL | HAL_Q_SIZE
  | HAL_Q_WM | HAL_Q_STAT | HAL_Q_AVAIL | HAL_CNT_PKTS | HAL_CNT_BP | HAL_CNT_WM | HAL_CNT_QRESET | HAL_CNT_RESET_PKTS
  | HAL_CNT_CORR | HAL_CNT_UNCORR | HAL_POOL | HAL_CNT_FREELIST | HAL_FLOW_MAP | HAL_WM_RISE_LO | HAL_WM_RISE_HI
  | HAL_WM_FALL_LO | HAL_WM_FALL_HI | HAL_QRESET_LO | HAL_QRESET_HI | HAL_UNCORR_LO | HAL_UNCORR_HI | USH_DOORBELL
  | USH_SQ_BASE_LO | USH_SQ_BASE_HI | USH_SQ_CTRL | USH_SQ_STATUS | USH_CQ_BASE_LO | USH_CQ_BASE_HI | USH_CQ_CTRL
  | USH_CQ_IRQ | USH_CQ_HEAD | USH_CQ_STATUS | USH_CQ_RESV | USH_NQ_BASE_LO | USH_NQ_BASE_HI | USH_NQ_CTRL
  | USH_NQ_HEAD | USH_NQ_STATUS | USH_NQ_IRQ | USH_POLL | USH_ENG_STATUS | USH_ABORT | USH_FLIGHT | USH_FLAGS
  | USH_CNT_TAKEN | USH_CNT_FAIL | USH_CNT_TIMEOUT | USH_CNT_BAD_DOORBELL | USH_CNT_CQ_WAIT | USH_CNT_NQ_LOST
  | USH_FLIGHT_FRAMES | USH_EVENT | USH_EVENT_ADD | ENG_PROGRESS | ENG_PORTER_RATE | ENG_CNT_TASKS | ENG_CNT_ABANDON
  | ENG_CNT_ARC_SKIP | ENG_CNT_ARC_RETRY | ENG_CNT_ARC_FAIL | PCI_LINK | PCI_FLAGS | PCI_CNT_CORR | PCI_CNT_UNCORR
  | PCI_CNT_CPL_TIMEOUT | PCI_CNT_RECOVERY | STO_STATUS | STO_FLAGS | STO_LAST_UNCORR_LO | STO_LAST_UNCORR_HI
  | STO_CNT_CORR | STO_CNT_UNCORR | ARC_STATUS | ARC_ROLLBACK | ARC_ROLLBACK_RAISE | ARC_CNT_CORR | ARC_SLOT_VER
  | ARC_SLOT_BUILD | ARC_SLOT_STATE | ARC_DIE_SERIAL_LO | ARC_DIE_SERIAL_HI | ARC_WEAR_SEL | ARC_WEAR
  | ARC_RCV_CTRL | ARC_RCV_STATUS | ARC_RCV_BUF | THM_TRIP | THM_CTRL | THM_LADDER | THM_GAL_LIMIT | THM_NEIGH
  | THM_STATUS | THM_LIMITS | THM_FLAGS | THM_BAD_LO | THM_BAD_HI | THM_CNT_STEPS | THM_CNT_FORCED | THM_CNT_SENSOR_BAD
  | THM_CNT_FALLBACK | THM_ZONE | THM_SENSOR
  deriving DecidableEq, Repr

/-- One row of the address map: name, offset of index 0, (count, stride) of each index, fields (R598). -/
structure RegRow where
  reg : Reg
  base : Nat
  dims : List (Nat × Nat)
  fields : List FieldRow
  deriving DecidableEq, Repr

/-- Registers of the NWL_ window, piece 0. -/
def rowsNWL0 : List RegRow :=
  [⟨.NWL_CTRL, 0x00000, [],
     [⟨0, 0, .wo, .live, .none, []⟩,
      ⟨1, 1, .wo, .live, .none, []⟩,
      ⟨5, 4, .rw, .live, .none, []⟩]⟩,
   ⟨.NWL_STATUS, 0x00004, [],
     [⟨0, 0, .ro, .none, .none, []⟩,
      ⟨1, 1, .ro, .none, .none, []⟩,
      ⟨2, 2, .ro, .none, .none, []⟩,
      ⟨3, 3, .ro, .none, .none, []⟩,
      ⟨5, 4, .ro, .none, .none, []⟩,
      ⟨12, 8, .ro, .none, .none, []⟩,
      ⟨23, 16, .ro, .none, .none, []⟩,
      ⟨26, 24, .ro, .none, .none, []⟩]⟩,
   ⟨.NWL_REFMODE_NEXT, 0x00008, [],
     [⟨1, 0, .rw, .live, .none, [(0, 2)]⟩]⟩,
   ⟨.NWL_DIV_MON, 0x0000C, [],
     [⟨7, 0, .rw, .live, .none, [(30, 255)]⟩]⟩,
   ⟨.NWL_DIV_XCLK, 0x00010, [(2, 0x4)],
     [⟨6, 0, .rw, .live, .none, [(8, 64)]⟩]⟩,
   ⟨.NWL_DIV_ACTIVE, 0x00018, [],
     [⟨6, 0, .ro, .none, .none, []⟩,
      ⟨14, 8, .ro, .none, .none, []⟩,
      ⟨23, 16, .ro, .none, .none, []⟩]⟩,
   ⟨.NWL_TIME_EPOCH, 0x0001C, [],
     [⟨15, 0, .ro, .none, .none, []⟩]⟩,
   ⟨.NWL_TIME_LO, 0x00020, [],
     [⟨31, 0, .ro, .none, .none, []⟩]⟩,
   ⟨.NWL_TIME_HI, 0x00024, [],
     [⟨31, 0, .ro, .none, .none, []⟩]⟩,
   ⟨.NWL_SNAP_LO, 0x00028, [],
     [⟨31, 0, .ro, .none, .none, []⟩]⟩]

/-- Registers of the NWL_ window, piece 1. -/
def rowsNWL1 : List RegRow :=
  [⟨.NWL_SNAP_HI, 0x0002C, [],
     [⟨31, 0, .ro, .none, .none, []⟩]⟩,
   ⟨.NWL_COMMIT_TIME_LO, 0x00030, [],
     [⟨31, 0, .ro, .none, .none, []⟩]⟩,
   ⟨.NWL_COMMIT_TIME_HI, 0x00034, [],
     [⟨31, 0, .ro, .none, .none, []⟩]⟩,
   ⟨.NWL_FLAGS, 0x00038, [],
     [⟨0, 0, .w1c, .live, .none, []⟩,
      ⟨1, 1, .w1c, .live, .none, []⟩,
      ⟨2, 2, .w1c, .live, .none, []⟩]⟩,
   ⟨.NWL_CNT_REF_LOSS, 0x00040, [],
     [⟨15, 0, .cnt, .live, .none, []⟩]⟩,
   ⟨.NWL_CNT_REACQ, 0x00044, [],
     [⟨15, 0, .cnt, .live, .none, []⟩]⟩]

/-- The NWL_ window of BAR 0. -/
def rowsNWL : List RegRow := rowsNWL0 ++ rowsNWL1

/-- Registers of the STP_ window, piece 0. -/
def rowsSTP0 : List RegRow :=
  [⟨.STP_LEVELS_LO, 0x04000, [],
     [⟨2, 0, .ro, .none, .none, []⟩,
      ⟨5, 3, .ro, .none, .none, []⟩,
      ⟨8, 6, .ro, .none, .none, []⟩,
      ⟨11, 9, .ro, .none, .none, []⟩,
      ⟨14, 12, .ro, .none, .none, []⟩,
      ⟨17, 15, .ro, .none, .none, []⟩,
      ⟨20, 18, .ro, .none, .none, []⟩,
      ⟨23, 21, .ro, .none, .none, []⟩]⟩,
   ⟨.STP_LEVELS_HI, 0x04004, [],
     [⟨2, 0, .ro, .none, .none, []⟩,
      ⟨5, 3, .ro, .none, .none, []⟩,
      ⟨8, 6, .ro, .none, .none, []⟩,
      ⟨11, 9, .ro, .none, .none, []⟩]⟩,
   ⟨.STP_ANOMALY, 0x04008, [],
     [⟨11, 0, .ro, .none, .none, []⟩]⟩,
   ⟨.STP_CONFIG, 0x0400C, [],
     [⟨1, 0, .ro, .none, .none, []⟩,
      ⟨4, 2, .ro, .none, .none, []⟩,
      ⟨5, 5, .ro, .none, .none, []⟩,
      ⟨9, 8, .ro, .none, .none, []⟩,
      ⟨11, 10, .ro, .none, .none, []⟩,
      ⟨14, 12, .ro, .none, .none, []⟩,
      ⟨18, 16, .ro, .none, .none, []⟩,
      ⟨23, 20, .ro, .none, .none, []⟩]⟩,
   ⟨.STP_CEIL_A, 0x04010, [],
     [⟨6, 0, .ro, .none, .none, []⟩,
      ⟨14, 8, .ro, .none, .none, []⟩,
      ⟨23, 16, .ro, .none, .none, []⟩]⟩,
   ⟨.STP_CEIL_PULSE, 0x04014, [],
     [⟨25, 0, .ro, .none, .none, []⟩]⟩,
   ⟨.STP_CEIL_GAP, 0x04018, [],
     [⟨25, 0, .ro, .none, .none, []⟩]⟩,
   ⟨.STP_SOFT_LOCK, 0x0401C, [],
     [⟨0, 0, .w1s, .live, .none, []⟩,
      ⟨1, 1, .w1s, .live, .none, []⟩,
      ⟨2, 2, .w1s, .live, .none, []⟩]⟩,
   ⟨.STP_CNT_REFUSED, 0x04020, [],
     [⟨15, 0, .cnt, .live, .none, []⟩]⟩,
   ⟨.STP_LAST_REFUSED, 0x04024, [],
     [⟨19, 0, .ro, .none, .none, []⟩,
      ⟨23, 20, .ro, .none, .none, []⟩]⟩]

/-- The STP_ window of BAR 0. -/
def rowsSTP : List RegRow := rowsSTP0

/-- Registers of the PWR_ window, piece 0. -/
def rowsPWR0 : List RegRow :=
  [⟨.PWR_RESET, 0x08000, [],
     [⟨0, 0, .wo, .live, .none, []⟩,
      ⟨1, 1, .wo, .live, .none, []⟩,
      ⟨31, 16, .wo, .live, .none, []⟩]⟩,
   ⟨.PWR_RESET_CAUSE, 0x08004, [],
     [⟨0, 0, .w1c, .live, .none, []⟩,
      ⟨1, 1, .w1c, .live, .none, []⟩,
      ⟨2, 2, .w1c, .live, .none, []⟩,
      ⟨3, 3, .w1c, .live, .none, []⟩,
      ⟨4, 4, .w1c, .live, .none, []⟩,
      ⟨5, 5, .w1c, .live, .none, []⟩,
      ⟨6, 6, .w1c, .live, .none, []⟩,
      ⟨7, 7, .w1c, .live, .none, []⟩]⟩,
   ⟨.PWR_BOOT_STATUS, 0x08008, [],
     [⟨3, 0, .ro, .none, .none, []⟩,
      ⟨5, 4, .ro, .none, .none, []⟩,
      ⟨6, 6, .ro, .none, .none, []⟩,
      ⟨9, 8, .ro, .none, .none, []⟩,
      ⟨10, 10, .ro, .none, .none, []⟩]⟩,
   ⟨.PWR_BOOT_US, 0x0800C, [],
     [⟨15, 0, .ro, .none, .none, []⟩]⟩,
   ⟨.PWR_CNT_FULL, 0x08010, [],
     [⟨15, 0, .cnt, .live, .none, []⟩]⟩,
   ⟨.PWR_CNT_HOST, 0x08014, [],
     [⟨15, 0, .cnt, .live, .none, []⟩]⟩,
   ⟨.PWR_CNT_WDOG, 0x08018, [],
     [⟨15, 0, .cnt, .live, .none, []⟩]⟩,
   ⟨.PWR_STEP_CTRL, 0x08020, [],
     [⟨2, 0, .rw, .live, .none, [(0, 5)]⟩,
      ⟨6, 4, .rw, .live, .none, [(0, 2)]⟩]⟩,
   ⟨.PWR_STEP_STATUS, 0x08024, [],
     [⟨2, 0, .ro, .none, .none, []⟩,
      ⟨6, 4, .ro, .none, .none, []⟩,
      ⟨10, 8, .ro, .none, .none, []⟩,
      ⟨12, 12, .ro, .none, .none, []⟩]⟩,
   ⟨.PWR_WAKE_EN, 0x08028, [],
     [⟨0, 0, .rw, .live, .none, []⟩,
      ⟨1, 1, .rw, .live, .none, []⟩,
      ⟨2, 2, .rw, .live, .none, []⟩]⟩]

/-- Registers of the PWR_ window, piece 1. -/
def rowsPWR1 : List RegRow :=
  [⟨.PWR_WAKE_CAUSE, 0x0802C, [],
     [⟨0, 0, .w1c, .live, .none, []⟩,
      ⟨1, 1, .w1c, .live, .none, []⟩,
      ⟨2, 2, .w1c, .live, .none, []⟩,
      ⟨3, 3, .w1c, .live, .none, []⟩,
      ⟨4, 4, .w1c, .live, .none, []⟩]⟩,
   ⟨.PWR_COMMIT_TIME_LO, 0x08030, [],
     [⟨31, 0, .ro, .none, .none, []⟩]⟩,
   ⟨.PWR_COMMIT_TIME_HI, 0x08034, [],
     [⟨31, 0, .ro, .none, .none, []⟩]⟩,
   ⟨.PWR_CNT_WAKE, 0x08038, [],
     [⟨15, 0, .cnt, .live, .none, []⟩]⟩,
   ⟨.PWR_CNT_ABORT, 0x0803C, [],
     [⟨15, 0, .cnt, .live, .none, []⟩]⟩]

/-- The PWR_ window of BAR 0. -/
def rowsPWR : List RegRow := rowsPWR0 ++ rowsPWR1

/-- Registers of the ARR_ window, piece 0. -/
def rowsARR0 : List RegRow :=
  [⟨.ARR_CAM_CTRL, 0x0C000, [(2, 0x100)],
     [⟨0, 0, .rw, .live, .none, []⟩,
      ⟨2, 1, .rw, .stopped, .none, []⟩,
      ⟨3, 3, .rw, .stopped, .none, []⟩,
      ⟨4, 4, .rw, .frame, .none, []⟩,
      ⟨5, 5, .rw, .frame, .none, []⟩,
      ⟨14, 8, .rw, .stopped, .none, [(0, 34)]⟩,
      ⟨15, 15, .rw, .stopped, .none, []⟩]⟩,
   ⟨.ARR_CAM_STATUS, 0x0C004, [(2, 0x100)],
     [⟨0, 0, .ro, .none, .none, []⟩,
      ⟨1, 1, .ro, .none, .none, []⟩,
      ⟨31, 16, .ro, .none, .none, []⟩]⟩,
   ⟨.ARR_START_TIME_LO, 0x0C008, [(2, 0x100)],
     [⟨31, 0, .rw, .stopped, .none, []⟩]⟩,
   ⟨.ARR_START_TIME_HI, 0x0C00C, [(2, 0x100)],
     [⟨31, 0, .rw, .stopped, .none, []⟩]⟩,
   ⟨.ARR_PERIOD, 0x0C010, [(2, 0x100)],
     [⟨31, 0, .rw, .frame, .none, [(3000, 4294967295)]⟩]⟩,
   ⟨.ARR_TRIG_DELAY, 0x0C014, [(2, 0x100)],
     [⟨31, 0, .rw, .frame, .none, [(846, 4294967295)]⟩]⟩,
   ⟨.ARR_BURST_LEN, 0x0C018, [(2, 0x100)],
     [⟨15, 0, .rw, .frame, .none, [(1, 65535)]⟩]⟩,
   ⟨.ARR_AB_DELAY, 0x0C01C, [(2, 0x100)],
     [⟨31, 0, .rw, .frame, .none, [(2250, 4294967295)]⟩]⟩,
   ⟨.ARR_STROBE_MAP, 0x0C020, [(2, 0x100)],
     [⟨2, 0, .rw, .stopped, .none, [(0, 3), (7, 7)]⟩,
      ⟨6, 4, .rw, .stopped, .none, [(0, 3), (7, 7)]⟩]⟩,
   ⟨.ARR_CAM_BAND, 0x0C024, [(2, 0x100)],
     [⟨7, 0, .rw, .stopped, .none, []⟩,
      ⟨23, 16, .rw, .stopped, .none, []⟩]⟩]

/-- Registers of the ARR_ window, piece 1. -/
def rowsARR1 : List RegRow :=
  [⟨.ARR_LAST_START_LO, 0x0C028, [(2, 0x100)],
     [⟨31, 0, .ro, .none, .none, []⟩]⟩,
   ⟨.ARR_LAST_START_HI, 0x0C02C, [(2, 0x100)],
     [⟨31, 0, .ro, .none, .none, []⟩]⟩,
   ⟨.ARR_GEN, 0x0C030, [(2, 0x100)],
     [⟨7, 0, .ro, .none, .none, []⟩]⟩,
   ⟨.ARR_FRAME_COUNT, 0x0C034, [(2, 0x100)],
     [⟨31, 0, .cnt, .live, .none, []⟩]⟩,
   ⟨.ARR_CNT_SLOT_SKIP, 0x0C038, [(2, 0x100)],
     [⟨15, 0, .cnt, .live, .none, []⟩]⟩,
   ⟨.ARR_CNT_TRIG_DROP, 0x0C03C, [(2, 0x100)],
     [⟨15, 0, .cnt, .live, .none, []⟩]⟩,
   ⟨.ARR_CNT_SET_HELD, 0x0C040, [(2, 0x100)],
     [⟨15, 0, .cnt, .live, .none, []⟩]⟩,
   ⟨.ARR_EXP_OFFSET, 0x0C080, [(2, 0x100), (2, 0x40)],
     [⟨31, 0, .rw, .frame, .none, []⟩]⟩,
   ⟨.ARR_EXP_LEN, 0x0C084, [(2, 0x100), (2, 0x40)],
     [⟨30, 0, .rw, .frame, .none, [(1500, 1500000000)]⟩]⟩,
   ⟨.ARR_EXP_SUB, 0x0C088, [(2, 0x100), (2, 0x40)],
     [⟨4, 0, .rw, .frame, .none, [(1, 16)]⟩]⟩]

/-- Registers of the ARR_ window, piece 2. -/
def rowsARR2 : List RegRow :=
  [⟨.ARR_EXP_PITCH, 0x0C08C, [(2, 0x100), (2, 0x40)],
     [⟨31, 0, .rw, .frame, .none, [(2250, 4294967295)]⟩]⟩,
   ⟨.ARR_XSERVO, 0x0C090, [(2, 0x100), (2, 0x40)],
     [⟨0, 0, .rw, .frame, .none, []⟩,
      ⟨7, 4, .rw, .frame, .none, []⟩,
      ⟨9, 8, .rw, .frame, .none, []⟩,
      ⟨27, 16, .rw, .frame, .none, []⟩]⟩,
   ⟨.ARR_XSERVO_TARGET, 0x0C094, [(2, 0x100), (2, 0x40)],
     [⟨11, 0, .rw, .frame, .none, [(1, 4095)]⟩]⟩,
   ⟨.ARR_XSERVO_MIN, 0x0C098, [(2, 0x100), (2, 0x40)],
     [⟨30, 0, .rw, .frame, .none, [(1500, 1500000000)]⟩]⟩,
   ⟨.ARR_XSERVO_MAX, 0x0C09C, [(2, 0x100), (2, 0x40)],
     [⟨30, 0, .rw, .frame, .none, [(1500, 1500000000)]⟩]⟩,
   ⟨.ARR_EXP_LEN_EFF, 0x0C0A0, [(2, 0x100), (2, 0x40)],
     [⟨30, 0, .ro, .none, .none, []⟩]⟩,
   ⟨.ARR_CNT_XSERVO_BOUND, 0x0C0A4, [(2, 0x100), (2, 0x40)],
     [⟨15, 0, .cnt, .live, .none, []⟩]⟩,
   ⟨.ARR_BLACK, 0x0C200, [],
     [⟨0, 0, .rw, .stopped, .none, []⟩]⟩,
   ⟨.ARR_SW_TRIG, 0x0C204, [],
     [⟨0, 0, .wo, .live, .none, []⟩,
      ⟨1, 1, .wo, .live, .none, []⟩]⟩,
   ⟨.ARR_FLAGS, 0x0C208, [],
     [⟨1, 0, .w1c, .live, .none, []⟩,
      ⟨3, 2, .w1c, .live, .none, []⟩,
      ⟨5, 4, .w1c, .live, .none, []⟩,
      ⟨8, 8, .ro, .none, .none, []⟩]⟩]

/-- Registers of the ARR_ window, piece 3. -/
def rowsARR3 : List RegRow :=
  [⟨.ARR_POWER_BUDGET, 0x0C20C, [],
     [⟨6, 0, .rw, .frame, .b, []⟩]⟩,
   ⟨.ARR_POWER_EFF, 0x0C210, [],
     [⟨6, 0, .ro, .none, .none, []⟩,
      ⟨9, 8, .ro, .none, .none, []⟩]⟩]

/-- The ARR_ window of BAR 0. -/
def rowsARR : List RegRow := rowsARR0 ++ rowsARR1 ++ rowsARR2 ++ rowsARR3

/-- Registers of the CNV_ window, piece 0. -/
def rowsCNV0 : List RegRow :=
  [⟨.CNV_WIN, 0x10000, [(2, 0x100), (4, 0x4)],
     [⟨0, 0, .rw, .frame, .none, []⟩,
      ⟨7, 1, .rw, .frame, .none, []⟩,
      ⟨14, 8, .rw, .frame, .none, []⟩,
      ⟨23, 16, .rw, .frame, .none, []⟩,
      ⟨31, 24, .rw, .frame, .none, []⟩]⟩,
   ⟨.CNV_MODE, 0x10010, [(2, 0x100)],
     [⟨0, 0, .rw, .frame, .none, []⟩,
      ⟨1, 1, .rw, .frame, .none, []⟩,
      ⟨2, 2, .rw, .frame, .none, []⟩,
      ⟨5, 4, .rw, .frame, .none, []⟩,
      ⟨7, 6, .rw, .frame, .none, []⟩]⟩,
   ⟨.CNV_RP_EFF, 0x10014, [(2, 0x100)],
     [⟨15, 0, .ro, .none, .none, []⟩]⟩,
   ⟨.CNV_DARK_CTRL, 0x10018, [(2, 0x100)],
     [⟨0, 0, .rw, .frame, .none, []⟩,
      ⟨11, 4, .rw, .frame, .none, []⟩,
      ⟨27, 16, .rw, .frame, .none, []⟩]⟩,
   ⟨.CNV_DARK_BOUND, 0x1001C, [(2, 0x100)],
     [⟨11, 0, .rw, .frame, .none, []⟩,
      ⟨27, 16, .rw, .frame, .none, []⟩]⟩,
   ⟨.CNV_DARK_OFS, 0x10020, [(2, 0x100), (2, 0x4)],
     [⟨11, 0, .rw, .frame, .none, []⟩,
      ⟨27, 16, .rw, .frame, .none, []⟩]⟩,
   ⟨.CNV_DARK_EFF, 0x10028, [(2, 0x100), (2, 0x4)],
     [⟨11, 0, .ro, .none, .none, []⟩,
      ⟨27, 16, .ro, .none, .none, []⟩]⟩,
   ⟨.CNV_RDO_PLAN, 0x10030, [(2, 0x100), (2, 0x4)],
     [⟨31, 0, .ro, .none, .none, []⟩]⟩,
   ⟨.CNV_RDO_LEN, 0x10038, [(2, 0x100), (2, 0x4)],
     [⟨31, 0, .ro, .none, .none, []⟩]⟩,
   ⟨.CNV_CNT_RDO_DEFER, 0x10040, [(2, 0x100)],
     [⟨15, 0, .cnt, .live, .none, []⟩]⟩]

/-- Registers of the CNV_ window, piece 1. -/
def rowsCNV1 : List RegRow :=
  [⟨.CNV_CNT_DARK_BOUND, 0x10044, [(2, 0x100)],
     [⟨15, 0, .cnt, .live, .none, []⟩]⟩,
   ⟨.CNV_FLAGS, 0x10200, [],
     [⟨1, 0, .w1c, .live, .none, []⟩,
      ⟨5, 2, .w1c, .live, .none, []⟩]⟩]

/-- The CNV_ window of BAR 0. -/
def rowsCNV : List RegRow := rowsCNV0 ++ rowsCNV1

/-- Registers of the XPT_ window, piece 0. -/
def rowsXPT0 : List RegRow :=
  [⟨.XPT_CTRL, 0x14000, [(2, 0x100)],
     [⟨0, 0, .rw, .live, .none, []⟩,
      ⟨1, 1, .wo, .live, .none, []⟩,
      ⟨2, 2, .rw, .live, .none, []⟩]⟩,
   ⟨.XPT_STATUS, 0x14004, [(2, 0x100)],
     [⟨2, 0, .ro, .none, .none, []⟩,
      ⟨4, 4, .ro, .none, .none, []⟩,
      ⟨31, 16, .ro, .none, .none, []⟩]⟩,
   ⟨.XPT_DELAY, 0x14008, [(2, 0x100)],
     [⟨9, 0, .ro, .none, .none, []⟩,
      ⟨25, 16, .ro, .none, .none, []⟩]⟩,
   ⟨.XPT_FMT, 0x1400C, [(2, 0x100)],
     [⟨13, 0, .rw, .stopped, .none, [(64, 8192)]⟩,
      ⟨19, 16, .rw, .stopped, .none, [(8, 16)]⟩,
      ⟨21, 20, .rw, .stopped, .none, [(0, 1)]⟩]⟩,
   ⟨.XPT_LINES, 0x14010, [(2, 0x100)],
     [⟨15, 0, .rw, .frame, .none, [(1, 65535)]⟩]⟩,
   ⟨.XPT_FRAME_WIN, 0x14014, [(2, 0x100)],
     [⟨31, 0, .rw, .frame, .none, [(3000, 4294967295)]⟩]⟩,
   ⟨.XPT_LAT_ADJ, 0x14018, [(2, 0x100)],
     [⟨15, 0, .rw, .frame, .none, []⟩]⟩,
   ⟨.XPT_GEN, 0x1401C, [(2, 0x100)],
     [⟨7, 0, .ro, .none, .none, []⟩]⟩,
   ⟨.XPT_LAST_START_LO, 0x14020, [(2, 0x100)],
     [⟨31, 0, .ro, .none, .none, []⟩]⟩,
   ⟨.XPT_LAST_START_HI, 0x14024, [(2, 0x100)],
     [⟨31, 0, .ro, .none, .none, []⟩]⟩]

/-- Registers of the XPT_ window, piece 1. -/
def rowsXPT1 : List RegRow :=
  [⟨.XPT_CNT_FRAMES, 0x14040, [(2, 0x100)],
     [⟨31, 0, .cnt, .live, .none, []⟩]⟩,
   ⟨.XPT_CNT_MARKED, 0x14044, [(2, 0x100)],
     [⟨15, 0, .cnt, .live, .none, []⟩]⟩,
   ⟨.XPT_CNT_CRC, 0x14048, [(2, 0x100)],
     [⟨31, 0, .cnt, .live, .none, []⟩]⟩,
   ⟨.XPT_CNT_LENGTH, 0x1404C, [(2, 0x100)],
     [⟨15, 0, .cnt, .live, .none, []⟩]⟩,
   ⟨.XPT_CNT_MISSING, 0x14050, [(2, 0x100)],
     [⟨15, 0, .cnt, .live, .none, []⟩]⟩,
   ⟨.XPT_CNT_STRAY, 0x14054, [(2, 0x100)],
     [⟨15, 0, .cnt, .live, .none, []⟩]⟩,
   ⟨.XPT_CNT_TIMEOUT, 0x14058, [(2, 0x100)],
     [⟨15, 0, .cnt, .live, .none, []⟩]⟩,
   ⟨.XPT_CNT_EYE_WARN, 0x1405C, [(2, 0x100)],
     [⟨15, 0, .cnt, .live, .none, []⟩]⟩,
   ⟨.XPT_CNT_TRAIN_FAIL, 0x14060, [(2, 0x100)],
     [⟨15, 0, .cnt, .live, .none, []⟩]⟩,
   ⟨.XPT_FLAGS, 0x14200, [],
     [⟨1, 0, .w1c, .live, .none, []⟩,
      ⟨3, 2, .w1c, .live, .none, []⟩,
      ⟨5, 4, .w1c, .live, .none, []⟩,
      ⟨7, 6, .w1c, .live, .none, []⟩]⟩]

/-- The XPT_ window of BAR 0. -/
def rowsXPT : List RegRow := rowsXPT0 ++ rowsXPT1

/-- Registers of the PIP_ window, piece 0. -/
def rowsPIP0 : List RegRow :=
  [⟨.PIP_SRC, 0x18000, [(4, 0x400)],
     [⟨2, 0, .rw, .stopped, .none, [(0, 4)]⟩]⟩,
   ⟨.PIP_BIN, 0x18004, [(4, 0x400)],
     [⟨1, 0, .rw, .frame, .none, [(0, 2)]⟩]⟩,
   ⟨.PIP_CORR_CTRL, 0x18008, [(4, 0x400)],
     [⟨0, 0, .rw, .frame, .none, []⟩,
      ⟨1, 1, .rw, .frame, .none, []⟩,
      ⟨2, 2, .rw, .frame, .none, []⟩,
      ⟨3, 3, .rw, .frame, .none, []⟩,
      ⟨4, 4, .rw, .frame, .none, []⟩,
      ⟨8, 8, .rw, .frame, .none, []⟩,
      ⟨9, 9, .rw, .frame, .none, []⟩,
      ⟨12, 12, .rw, .frame, .none, []⟩]⟩,
   ⟨.PIP_DARK_TEMP, 0x1800C, [(4, 0x400)],
     [⟨15, 0, .rw, .frame, .none, [(0, 840), (65216, 65535)]⟩]⟩,
   ⟨.PIP_CORR_EFF, 0x18010, [(4, 0x400)],
     [⟨15, 0, .ro, .none, .none, []⟩,
      ⟨31, 16, .ro, .none, .none, []⟩]⟩,
   ⟨.PIP_CNT_DARK_MISMATCH, 0x18014, [(4, 0x400)],
     [⟨15, 0, .cnt, .live, .none, []⟩]⟩,
   ⟨.PIP_CNT_UNRESOLVED, 0x18018, [(4, 0x400)],
     [⟨31, 0, .cnt, .live, .none, []⟩]⟩,
   ⟨.PIP_CNT_SAT_HI, 0x1801C, [(4, 0x400)],
     [⟨31, 0, .cnt, .live, .none, []⟩]⟩,
   ⟨.PIP_CNT_TEMP_CLAMP, 0x18020, [(4, 0x400)],
     [⟨15, 0, .cnt, .live, .none, []⟩]⟩,
   ⟨.PIP_BREF_A, 0x18040, [(4, 0x400)],
     [⟨15, 0, .rw, .frame, .none, []⟩,
      ⟨31, 16, .rw, .frame, .none, []⟩]⟩]

/-- Registers of the PIP_ window, piece 1. -/
def rowsPIP1 : List RegRow :=
  [⟨.PIP_BREF_B, 0x18044, [(4, 0x400)],
     [⟨15, 0, .rw, .frame, .none, []⟩,
      ⟨31, 16, .rw, .frame, .none, []⟩]⟩,
   ⟨.PIP_BREF_MIX, 0x18048, [(4, 0x400)],
     [⟨12, 0, .rw, .frame, .none, [(0, 4096)]⟩]⟩,
   ⟨.PIP_TAP_CURVE, 0x1804C, [(4, 0x400)],
     [⟨0, 0, .rw, .frame, .none, []⟩]⟩,
   ⟨.PIP_CCM, 0x18060, [(4, 0x400), (9, 0x4)],
     [⟨15, 0, .rw, .frame, .none, []⟩]⟩,
   ⟨.PIP_TAP_CTRL, 0x18100, [(4, 0x400), (4, 0x20)],
     [⟨0, 0, .rw, .frame, .none, []⟩,
      ⟨2, 1, .rw, .frame, .none, []⟩,
      ⟨5, 4, .rw, .frame, .none, []⟩,
      ⟨12, 8, .rw, .frame, .none, []⟩,
      ⟨14, 13, .rw, .frame, .none, []⟩,
      ⟨15, 15, .rw, .frame, .none, []⟩,
      ⟨21, 16, .rw, .stopped, .none, [(8, 63)]⟩]⟩,
   ⟨.PIP_TAP_ADMIT, 0x18104, [(4, 0x400), (4, 0x20)],
     [⟨13, 0, .rw, .frame, .none, []⟩]⟩,
   ⟨.PIP_TAP_SEQ, 0x18108, [(4, 0x400), (4, 0x20)],
     [⟨15, 0, .ro, .none, .none, []⟩]⟩,
   ⟨.PIP_CNT_SKIP, 0x1810C, [(4, 0x400), (4, 0x20)],
     [⟨31, 0, .cnt, .live, .none, []⟩]⟩,
   ⟨.PIP_CNT_VOID, 0x18110, [(4, 0x400), (4, 0x20)],
     [⟨15, 0, .cnt, .live, .none, []⟩]⟩,
   ⟨.PIP_CORR_FLAGS, 0x19000, [],
     [⟨3, 0, .w1c, .live, .none, []⟩,
      ⟨7, 4, .w1c, .live, .none, []⟩,
      ⟨11, 8, .w1c, .live, .none, []⟩]⟩]

/-- Registers of the PIP_ window, piece 2. -/
def rowsPIP2 : List RegRow :=
  [⟨.PIP_TAP_FLAGS, 0x19004, [],
     [⟨15, 0, .w1c, .live, .none, []⟩]⟩]

/-- The PIP_ window of BAR 0. -/
def rowsPIP : List RegRow := rowsPIP0 ++ rowsPIP1 ++ rowsPIP2

/-- Registers of the CLS_ window, piece 0. -/
def rowsCLS0 : List RegRow :=
  [⟨.CLS_CTRL, 0x1C000, [(4, 0x100)],
     [⟨0, 0, .rw, .frame, .none, []⟩,
      ⟨1, 1, .rw, .frame, .none, []⟩,
      ⟨2, 2, .rw, .frame, .none, []⟩,
      ⟨7, 4, .rw, .frame, .none, [(1, 15)]⟩]⟩,
   ⟨.CLS_FEAT, 0x1C004, [(4, 0x100), (2, 0x4)],
     [⟨15, 0, .rw, .frame, .none, []⟩,
      ⟨31, 16, .rw, .frame, .none, []⟩]⟩,
   ⟨.CLS_FEAT_W, 0x1C00C, [(4, 0x100), (2, 0x4)],
     [⟨15, 0, .rw, .frame, .none, []⟩]⟩,
   ⟨.CLS_TALLY, 0x1C014, [(4, 0x100)],
     [⟨3, 0, .rw, .frame, .none, []⟩,
      ⟨7, 4, .rw, .frame, .none, []⟩,
      ⟨11, 8, .rw, .frame, .none, []⟩,
      ⟨15, 12, .rw, .frame, .none, []⟩]⟩,
   ⟨.CLS_PITCH, 0x1C018, [(4, 0x100)],
     [⟨19, 0, .rw, .frame, .none, [(1, 1048575)]⟩]⟩,
   ⟨.CLS_VIEW_ROW, 0x1C01C, [(4, 0x100)],
     [⟨15, 0, .rw, .frame, .none, []⟩]⟩,
   ⟨.CLS_AB_GATE, 0x1C020, [(4, 0x100)],
     [⟨7, 0, .rw, .frame, .none, []⟩,
      ⟨15, 8, .rw, .frame, .none, []⟩,
      ⟨23, 16, .rw, .frame, .none, []⟩,
      ⟨31, 24, .rw, .frame, .none, []⟩]⟩,
   ⟨.CLS_TRACK, 0x1C024, [(4, 0x100)],
     [⟨15, 0, .rw, .frame, .none, [(1, 65535)]⟩,
      ⟨23, 16, .rw, .frame, .none, []⟩]⟩,
   ⟨.CLS_CNT_RECORDS, 0x1C040, [(4, 0x100)],
     [⟨31, 0, .cnt, .live, .none, []⟩]⟩,
   ⟨.CLS_CNT_PLANNED, 0x1C044, [(4, 0x100)],
     [⟨31, 0, .cnt, .live, .none, []⟩]⟩]

/-- Registers of the CLS_ window, piece 1. -/
def rowsCLS1 : List RegRow :=
  [⟨.CLS_CNT_OVERFLOW, 0x1C048, [(4, 0x100)],
     [⟨15, 0, .cnt, .live, .none, []⟩]⟩,
   ⟨.CLS_CNT_NOMATCH, 0x1C04C, [(4, 0x100)],
     [⟨15, 0, .cnt, .live, .none, []⟩]⟩,
   ⟨.CLS_CNT_ORPHAN, 0x1C050, [(4, 0x100)],
     [⟨15, 0, .cnt, .live, .none, []⟩]⟩,
   ⟨.CLS_JOIN, 0x1C400, [(2, 0x40)],
     [⟨0, 0, .rw, .stopped, .none, []⟩,
      ⟨2, 1, .rw, .stopped, .none, []⟩,
      ⟨4, 3, .rw, .stopped, .none, []⟩,
      ⟨5, 5, .rw, .frame, .none, []⟩,
      ⟨6, 6, .rw, .frame, .none, []⟩,
      ⟨15, 8, .rw, .frame, .none, []⟩]⟩,
   ⟨.CLS_JOIN_OFS, 0x1C404, [(2, 0x40)],
     [⟨13, 0, .rw, .frame, .none, []⟩]⟩,
   ⟨.CLS_JOIN_DT, 0x1C408, [(2, 0x40)],
     [⟨31, 0, .rw, .frame, .none, []⟩]⟩,
   ⟨.CLS_JOIN_WIN, 0x1C40C, [(2, 0x40)],
     [⟨31, 0, .rw, .frame, .none, []⟩]⟩,
   ⟨.CLS_JOIN_WAIT, 0x1C410, [(2, 0x40)],
     [⟨31, 0, .rw, .frame, .none, []⟩]⟩,
   ⟨.CLS_CNT_JOINED, 0x1C414, [(2, 0x40)],
     [⟨31, 0, .cnt, .live, .none, []⟩]⟩,
   ⟨.CLS_CNT_SINGLE, 0x1C418, [(2, 0x40)],
     [⟨15, 0, .cnt, .live, .none, []⟩]⟩]

/-- Registers of the CLS_ window, piece 2. -/
def rowsCLS2 : List RegRow :=
  [⟨.CLS_CNT_UNDERRUN, 0x1C41C, [(2, 0x40), (2, 0x4)],
     [⟨15, 0, .cnt, .live, .none, []⟩]⟩,
   ⟨.CLS_CNT_STALE, 0x1C424, [(2, 0x40)],
     [⟨15, 0, .cnt, .live, .none, []⟩]⟩,
   ⟨.CLS_FLAGS, 0x1C500, [],
     [⟨3, 0, .w1c, .live, .none, []⟩]⟩,
   ⟨.CLS_JOIN_STATUS, 0x1C504, [],
     [⟨3, 0, .w1c, .live, .none, []⟩]⟩]

/-- The CLS_ window of BAR 0. -/
def rowsCLS : List RegRow := rowsCLS0 ++ rowsCLS1 ++ rowsCLS2

/-- Registers of the EJP_ window, piece 0. -/
def rowsEJP0 : List RegRow :=
  [⟨.EJP_CTRL, 0x20000, [],
     [⟨0, 0, .rw, .frame, .none, []⟩,
      ⟨2, 1, .rw, .frame, .none, [(0, 2)]⟩,
      ⟨31, 16, .rw, .frame, .none, []⟩]⟩,
   ⟨.EJP_GRAVITY, 0x20004, [],
     [⟨15, 0, .rw, .frame, .none, [(1000, 20000)]⟩]⟩,
   ⟨.EJP_DRAG, 0x20008, [],
     [⟨15, 0, .rw, .frame, .none, []⟩]⟩,
   ⟨.EJP_DUR_DOUBT, 0x2000C, [],
     [⟨25, 0, .rw, .frame, .none, []⟩]⟩,
   ⟨.EJP_PULSE_MAX, 0x20010, [],
     [⟨25, 0, .rw, .live, .b, []⟩]⟩,
   ⟨.EJP_GAP_MIN, 0x20014, [],
     [⟨25, 0, .rw, .live, .b, []⟩]⟩,
   ⟨.EJP_FLAGS, 0x20018, [],
     [⟨7, 0, .w1c, .live, .none, []⟩,
      ⟨15, 8, .w1c, .live, .none, []⟩,
      ⟨23, 16, .w1c, .live, .none, []⟩,
      ⟨24, 24, .w1c, .live, .none, []⟩]⟩,
   ⟨.EJP_LAST_LATE_LO, 0x20020, [],
     [⟨31, 0, .ro, .none, .none, []⟩]⟩,
   ⟨.EJP_LAST_LATE_HI, 0x20024, [],
     [⟨31, 0, .ro, .none, .none, []⟩]⟩,
   ⟨.EJP_LAST_LATE_INFO, 0x20028, [],
     [⟨2, 0, .ro, .none, .none, []⟩]⟩]

/-- Registers of the EJP_ window, piece 1. -/
def rowsEJP1 : List RegRow :=
  [⟨.EJP_CNT_REJECT, 0x20040, [],
     [⟨31, 0, .cnt, .live, .none, []⟩]⟩,
   ⟨.EJP_CNT_DOUBT, 0x20044, [],
     [⟨15, 0, .cnt, .live, .none, []⟩]⟩,
   ⟨.EJP_CNT_FALLBACK, 0x20048, [],
     [⟨31, 0, .cnt, .live, .none, []⟩]⟩,
   ⟨.EJP_CNT_UNPLANNED, 0x2004C, [],
     [⟨15, 0, .cnt, .live, .none, []⟩]⟩,
   ⟨.EJP_CNT_CLIP, 0x20050, [],
     [⟨15, 0, .cnt, .live, .none, []⟩]⟩,
   ⟨.EJP_CNT_DEC_OVF, 0x20054, [],
     [⟨15, 0, .cnt, .live, .none, []⟩]⟩,
   ⟨.EJP_ROW_DIST, 0x20100, [(4, 0x20)],
     [⟨19, 0, .rw, .frame, .none, [(1000, 1048575)]⟩,
      ⟨31, 31, .rw, .frame, .none, []⟩]⟩,
   ⟨.EJP_ROW_LEAD, 0x20104, [(4, 0x20)],
     [⟨25, 0, .rw, .frame, .none, []⟩]⟩,
   ⟨.EJP_ROW_FALLBACK, 0x20108, [(4, 0x20)],
     [⟨31, 0, .rw, .frame, .none, []⟩]⟩,
   ⟨.EJP_ROW_MAP_A, 0x2010C, [(4, 0x20)],
     [⟨12, 0, .rw, .frame, .none, []⟩,
      ⟨26, 16, .rw, .frame, .none, [(1, 1024)]⟩]⟩]

/-- Registers of the EJP_ window, piece 2. -/
def rowsEJP2 : List RegRow :=
  [⟨.EJP_ROW_MAP_B, 0x20110, [(4, 0x20)],
     [⟨7, 0, .rw, .frame, .none, []⟩,
      ⟨16, 8, .rw, .frame, .none, [(1, 256)]⟩,
      ⟨31, 24, .rw, .frame, .none, [(1, 255)]⟩]⟩,
   ⟨.EJP_RULE, 0x20200, [(16, 0x8)],
     [⟨0, 0, .rw, .frame, .none, []⟩,
      ⟨3, 1, .rw, .frame, .none, []⟩,
      ⟨6, 4, .rw, .frame, .none, [(0, 5)]⟩,
      ⟨7, 7, .rw, .frame, .none, []⟩,
      ⟨8, 8, .rw, .frame, .none, []⟩,
      ⟨31, 16, .rw, .frame, .none, []⟩]⟩,
   ⟨.EJP_RULE_MASK, 0x20204, [(16, 0x8)],
     [⟨15, 0, .rw, .frame, .none, []⟩]⟩,
   ⟨.EJP_DUR, 0x20300, [(8, 0x8)],
     [⟨25, 0, .rw, .frame, .none, []⟩]⟩,
   ⟨.EJP_DUR_ROW, 0x20304, [(8, 0x8)],
     [⟨19, 0, .rw, .frame, .none, []⟩]⟩,
   ⟨.EJP_JET_EN, 0x20400, [(8, 0x20)],
     [⟨31, 0, .rw, .live, .none, []⟩]⟩,
   ⟨.EJP_FQ_LEVEL, 0x20404, [(8, 0x20)],
     [⟨7, 0, .ro, .none, .none, []⟩]⟩,
   ⟨.EJP_CNT_CMD, 0x20408, [(8, 0x20)],
     [⟨31, 0, .cnt, .live, .none, []⟩]⟩,
   ⟨.EJP_CNT_GAP, 0x2040C, [(8, 0x20)],
     [⟨15, 0, .cnt, .live, .none, []⟩]⟩,
   ⟨.EJP_CNT_FQ_FULL, 0x20410, [(8, 0x20)],
     [⟨15, 0, .cnt, .live, .none, []⟩]⟩]

/-- Registers of the EJP_ window, piece 3. -/
def rowsEJP3 : List RegRow :=
  [⟨.EJP_CNT_LATE, 0x20414, [(8, 0x20)],
     [⟨15, 0, .cnt, .live, .none, []⟩]⟩,
   ⟨.EJP_CNT_NOGAL, 0x20418, [(8, 0x20)],
     [⟨15, 0, .cnt, .live, .none, []⟩]⟩,
   ⟨.EJP_CNT_DISABLED, 0x2041C, [(8, 0x20)],
     [⟨15, 0, .cnt, .live, .none, []⟩]⟩]

/-- The EJP_ window of BAR 0. -/
def rowsEJP : List RegRow := rowsEJP0 ++ rowsEJP1 ++ rowsEJP2 ++ rowsEJP3

/-- Registers of the HLK_ window, piece 0. -/
def rowsHLK0 : List RegRow :=
  [⟨.HLK_CTRL, 0x24000, [],
     [⟨0, 0, .rw, .live, .none, []⟩,
      ⟨1, 1, .wo, .live, .none, []⟩]⟩,
   ⟨.HLK_CYCLE, 0x24004, [],
     [⟨12, 0, .rw, .cycle, .none, [(100, 6250)]⟩]⟩,
   ⟨.HLK_STATUS, 0x24008, [],
     [⟨2, 0, .ro, .none, .none, []⟩,
      ⟨7, 4, .ro, .none, .none, []⟩,
      ⟨11, 8, .ro, .none, .none, []⟩,
      ⟨12, 12, .ro, .none, .none, []⟩,
      ⟨23, 16, .ro, .none, .none, []⟩]⟩,
   ⟨.HLK_LENC_EFF, 0x2400C, [],
     [⟨12, 0, .ro, .none, .none, []⟩]⟩,
   ⟨.HLK_ACC, 0x24010, [],
     [⟨15, 0, .ro, .none, .none, []⟩]⟩,
   ⟨.HLK_LOOP, 0x24014, [],
     [⟨15, 0, .ro, .none, .none, []⟩,
      ⟨31, 16, .ro, .none, .none, []⟩]⟩,
   ⟨.HLK_FLAGS, 0x24018, [],
     [⟨7, 0, .w1c, .live, .none, []⟩,
      ⟨15, 8, .w1c, .live, .none, []⟩,
      ⟨23, 16, .w1c, .live, .none, []⟩,
      ⟨24, 24, .w1c, .live, .none, []⟩,
      ⟨25, 25, .w1c, .live, .none, []⟩,
      ⟨26, 26, .w1c, .live, .none, []⟩,
      ⟨27, 27, .w1c, .live, .none, []⟩,
      ⟨28, 28, .w1c, .live, .none, []⟩]⟩,
   ⟨.HLK_GREG_CTRL, 0x24020, [],
     [⟨0, 0, .wo, .live, .none, []⟩,
      ⟨1, 1, .rw, .live, .none, []⟩,
      ⟨6, 4, .rw, .live, .none, []⟩,
      ⟨31, 16, .rw, .live, .none, []⟩]⟩,
   ⟨.HLK_GREG_DATA, 0x24024, [],
     [⟨31, 0, .rw, .live, .none, []⟩]⟩,
   ⟨.HLK_GREG_STATUS, 0x24028, [],
     [⟨0, 0, .ro, .none, .none, []⟩,
      ⟨1, 1, .w1c, .live, .none, []⟩,
      ⟨2, 2, .w1c, .live, .none, []⟩]⟩]

/-- Registers of the HLK_ window, piece 1. -/
def rowsHLK1 : List RegRow :=
  [⟨.HLK_CNT_CYCLES, 0x24040, [],
     [⟨31, 0, .cnt, .live, .none, []⟩]⟩,
   ⟨.HLK_CNT_CHAR_ERR, 0x24044, [],
     [⟨31, 0, .cnt, .live, .none, []⟩]⟩,
   ⟨.HLK_CNT_ECHO_ERR, 0x24048, [],
     [⟨15, 0, .cnt, .live, .none, []⟩]⟩,
   ⟨.HLK_CNT_ABORT, 0x2404C, [],
     [⟨15, 0, .cnt, .live, .none, []⟩]⟩,
   ⟨.HLK_CNT_ENUM, 0x24050, [],
     [⟨15, 0, .cnt, .live, .none, []⟩]⟩,
   ⟨.HLK_POS, 0x24080, [(9, 0x4)],
     [⟨15, 0, .ro, .none, .none, []⟩,
      ⟨18, 16, .ro, .none, .none, []⟩,
      ⟨19, 19, .ro, .none, .none, []⟩,
      ⟨20, 20, .ro, .none, .none, []⟩]⟩,
   ⟨.HLK_STA, 0x24100, [(8, 0x40)],
     [⟨1, 0, .ro, .none, .none, []⟩,
      ⟨7, 4, .ro, .none, .none, []⟩,
      ⟨10, 8, .ro, .none, .none, []⟩,
      ⟨15, 12, .ro, .none, .none, []⟩,
      ⟨23, 16, .ro, .none, .none, []⟩,
      ⟨31, 24, .ro, .none, .none, []⟩]⟩,
   ⟨.HLK_STA_DELAY, 0x24104, [(8, 0x40)],
     [⟨15, 0, .ro, .none, .none, []⟩]⟩,
   ⟨.HLK_STA_ON, 0x24108, [(8, 0x40)],
     [⟨31, 0, .ro, .none, .none, []⟩]⟩,
   ⟨.HLK_STA_PEAK, 0x2410C, [(8, 0x40)],
     [⟨31, 0, .ro, .none, .none, []⟩]⟩]

/-- Registers of the HLK_ window, piece 2. -/
def rowsHLK2 : List RegRow :=
  [⟨.HLK_STA_ACK, 0x24110, [(8, 0x40)],
     [⟨15, 0, .ro, .none, .none, []⟩]⟩,
   ⟨.HLK_STA_STRAP, 0x24114, [(8, 0x40)],
     [⟨31, 0, .ro, .none, .none, []⟩]⟩,
   ⟨.HLK_STA_ID, 0x24118, [(8, 0x40)],
     [⟨15, 0, .ro, .none, .none, []⟩,
      ⟨23, 16, .ro, .none, .none, []⟩]⟩,
   ⟨.HLK_OUT, 0x2411C, [(8, 0x40)],
     [⟨0, 0, .rw, .cycle, .none, []⟩]⟩,
   ⟨.HLK_CNT_MISS, 0x24120, [(8, 0x40)],
     [⟨15, 0, .cnt, .live, .none, []⟩]⟩,
   ⟨.HLK_CNT_FRAME_ERR, 0x24124, [(8, 0x40)],
     [⟨15, 0, .cnt, .live, .none, []⟩]⟩,
   ⟨.HLK_CNT_RESEND, 0x24128, [(8, 0x40)],
     [⟨31, 0, .cnt, .live, .none, []⟩]⟩,
   ⟨.HLK_CNT_UNDELIV, 0x2412C, [(8, 0x40)],
     [⟨15, 0, .cnt, .live, .none, []⟩]⟩,
   ⟨.HLK_CNT_INDOUBT, 0x24130, [(8, 0x40)],
     [⟨15, 0, .cnt, .live, .none, []⟩]⟩]

/-- The HLK_ window of BAR 0. -/
def rowsHLK : List RegRow := rowsHLK0 ++ rowsHLK1 ++ rowsHLK2

/-- Registers of the MON_ window, piece 0. -/
def rowsMON0 : List RegRow :=
  [⟨.MON_CTRL, 0x28000, [(8, 0x20)],
     [⟨0, 0, .rw, .live, .none, []⟩,
      ⟨1, 1, .rw, .live, .none, []⟩]⟩,
   ⟨.MON_CFG, 0x28004, [(8, 0x20)],
     [⟨12, 0, .rw, .stopped, .none, [(8, 4096)]⟩,
      ⟨17, 16, .rw, .stopped, .none, []⟩,
      ⟨23, 20, .rw, .stopped, .none, [(0, 0), (4, 15)]⟩]⟩,
   ⟨.MON_RESULT_LO, 0x28008, [(8, 0x20)],
     [⟨23, 0, .ro, .none, .none, []⟩,
      ⟨31, 24, .ro, .none, .none, []⟩]⟩,
   ⟨.MON_RESULT_HI, 0x2800C, [(8, 0x20)],
     [⟨31, 0, .ro, .none, .none, []⟩]⟩,
   ⟨.MON_STATUS, 0x28010, [(8, 0x20)],
     [⟨0, 0, .ro, .none, .none, []⟩,
      ⟨15, 8, .ro, .none, .none, []⟩]⟩,
   ⟨.MON_LIMIT, 0x28014, [(8, 0x20)],
     [⟨15, 0, .rw, .live, .none, []⟩,
      ⟨31, 16, .rw, .live, .none, []⟩]⟩,
   ⟨.MON_CNT_SYNC, 0x28018, [(8, 0x20)],
     [⟨15, 0, .cnt, .live, .none, []⟩]⟩,
   ⟨.MON_CNT_LIMIT, 0x2801C, [(8, 0x20)],
     [⟨15, 0, .cnt, .live, .none, []⟩]⟩,
   ⟨.MON_STREAM, 0x28100, [],
     [⟨5, 0, .rw, .stopped, .none, [(8, 63)]⟩,
      ⟨22, 16, .rw, .live, .none, [(1, 64)]⟩]⟩,
   ⟨.MON_FLAGS, 0x28104, [],
     [⟨7, 0, .w1c, .live, .none, []⟩,
      ⟨8, 8, .w1c, .live, .none, []⟩]⟩]

/-- Registers of the MON_ window, piece 1. -/
def rowsMON1 : List RegRow :=
  [⟨.MON_CNT_SKIP, 0x28108, [],
     [⟨31, 0, .cnt, .live, .none, []⟩]⟩,
   ⟨.MON_STREAM_SEQ, 0x2810C, [],
     [⟨15, 0, .cnt, .live, .none, []⟩]⟩]

/-- The MON_ window of BAR 0. -/
def rowsMON : List RegRow := rowsMON0 ++ rowsMON1

/-- Registers of the ILM_ window, piece 0. -/
def rowsILM0 : List RegRow :=
  [⟨.ILM_STROBE_CTRL, 0x2C000, [(4, 0x20)],
     [⟨0, 0, .rw, .live, .none, []⟩,
      ⟨2, 1, .rw, .stopped, .none, [(0, 2)]⟩,
      ⟨3, 3, .rw, .stopped, .none, []⟩,
      ⟨4, 4, .rw, .stopped, .none, []⟩,
      ⟨12, 8, .rw, .stopped, .none, []⟩]⟩,
   ⟨.ILM_STROBE_TIME, 0x2C004, [(4, 0x20)],
     [⟨15, 0, .rw, .frame, .none, []⟩,
      ⟨31, 16, .rw, .frame, .none, []⟩]⟩,
   ⟨.ILM_STROBE_POFS, 0x2C008, [(4, 0x20)],
     [⟨31, 0, .rw, .frame, .none, []⟩]⟩,
   ⟨.ILM_STROBE_PLEN, 0x2C00C, [(4, 0x20)],
     [⟨31, 0, .rw, .frame, .none, [(1, 4294967295)]⟩]⟩,
   ⟨.ILM_STROBE_MAXHIGH, 0x2C010, [(4, 0x20)],
     [⟨25, 0, .rw, .live, .none, []⟩]⟩,
   ⟨.ILM_CNT_LEAD_CLIP, 0x2C014, [(4, 0x20)],
     [⟨15, 0, .cnt, .live, .none, []⟩]⟩,
   ⟨.ILM_CNT_MAXHIGH, 0x2C018, [(4, 0x20)],
     [⟨15, 0, .cnt, .live, .none, []⟩]⟩,
   ⟨.ILM_ISET_CODE, 0x2C100, [(4, 0x10)],
     [⟨11, 0, .rw, .live, .none, []⟩]⟩,
   ⟨.ILM_ISET_CTRL, 0x2C104, [(4, 0x10)],
     [⟨0, 0, .rw, .live, .b, []⟩]⟩,
   ⟨.ILM_SETPOINT_CEIL, 0x2C108, [(4, 0x10)],
     [⟨11, 0, .rw, .live, .b, []⟩]⟩]

/-- Registers of the ILM_ window, piece 1. -/
def rowsILM1 : List RegRow :=
  [⟨.ILM_ISET_EFF, 0x2C10C, [(4, 0x10)],
     [⟨11, 0, .ro, .none, .none, []⟩,
      ⟨12, 12, .ro, .none, .none, []⟩,
      ⟨13, 13, .ro, .none, .none, []⟩,
      ⟨15, 14, .ro, .none, .none, []⟩]⟩,
   ⟨.ILM_RANGE_PERMIT, 0x2C200, [],
     [⟨3, 0, .rw, .live, .b, []⟩]⟩,
   ⟨.ILM_FLAGS, 0x2C204, [],
     [⟨3, 0, .w1c, .live, .none, []⟩,
      ⟨7, 4, .w1c, .live, .none, []⟩]⟩]

/-- The ILM_ window of BAR 0. -/
def rowsILM : List RegRow := rowsILM0 ++ rowsILM1

/-- Registers of the PIO_ window, piece 0. -/
def rowsPIO0 : List RegRow :=
  [⟨.PIO_START, 0x30000, [],
     [⟨15, 0, .wo, .live, .none, []⟩]⟩,
   ⟨.PIO_STOP, 0x30004, [],
     [⟨15, 0, .wo, .live, .none, []⟩]⟩,
   ⟨.PIO_RUNNING, 0x30008, [],
     [⟨15, 0, .ro, .none, .none, []⟩]⟩,
   ⟨.PIO_PIN_IN, 0x3000C, [],
     [⟨23, 0, .ro, .none, .none, []⟩]⟩,
   ⟨.PIO_RXPOP, 0x30010, [],
     [⟨15, 0, .wo, .live, .none, []⟩]⟩,
   ⟨.PIO_SHFLAG_SET, 0x30014, [],
     [⟨31, 0, .w1s, .live, .none, []⟩]⟩,
   ⟨.PIO_SHFLAG_CLR, 0x30018, [],
     [⟨31, 0, .w1c, .live, .none, []⟩]⟩,
   ⟨.PIO_PIN_CFG, 0x30080, [(24, 0x4)],
     [⟨3, 0, .rw, .stopped, .none, []⟩,
      ⟨4, 4, .rw, .stopped, .none, []⟩,
      ⟨5, 5, .rw, .stopped, .none, []⟩,
      ⟨7, 6, .rw, .stopped, .none, [(0, 2)]⟩]⟩,
   ⟨.PIO_CLKDIV, 0x30100, [(16, 0x40)],
     [⟨15, 0, .rw, .stopped, .none, []⟩]⟩,
   ⟨.PIO_EXEC, 0x30104, [(16, 0x40)],
     [⟨5, 0, .rw, .stopped, .none, []⟩,
      ⟨13, 8, .rw, .stopped, .none, []⟩,
      ⟨21, 16, .rw, .stopped, .none, []⟩,
      ⟨24, 24, .rw, .stopped, .none, []⟩,
      ⟨25, 25, .rw, .stopped, .none, []⟩,
      ⟨30, 26, .rw, .stopped, .none, [(0, 23)]⟩]⟩]

/-- Registers of the PIO_ window, piece 1. -/
def rowsPIO1 : List RegRow :=
  [⟨.PIO_PINS, 0x30108, [(16, 0x40)],
     [⟨4, 0, .rw, .stopped, .none, [(0, 23)]⟩,
      ⟨12, 8, .rw, .stopped, .none, [(0, 23)]⟩,
      ⟨20, 16, .rw, .stopped, .none, [(0, 24)]⟩,
      ⟨28, 24, .rw, .stopped, .none, [(0, 23)]⟩,
      ⟨31, 29, .rw, .stopped, .none, [(0, 5)]⟩]⟩,
   ⟨.PIO_QCFG, 0x3010C, [(16, 0x40)],
     [⟨1, 0, .rw, .stopped, .none, []⟩,
      ⟨2, 2, .rw, .stopped, .none, []⟩,
      ⟨3, 3, .wo, .stopped, .none, []⟩]⟩,
   ⟨.PIO_QSTAT, 0x30110, [(16, 0x40)],
     [⟨3, 0, .ro, .none, .none, []⟩,
      ⟨11, 8, .ro, .none, .none, []⟩]⟩,
   ⟨.PIO_TXD, 0x30114, [(16, 0x40)],
     [⟨31, 0, .wo, .live, .none, []⟩]⟩,
   ⟨.PIO_RXD, 0x30118, [(16, 0x40)],
     [⟨31, 0, .ro, .none, .none, []⟩]⟩,
   ⟨.PIO_RXT, 0x3011C, [(16, 0x40)],
     [⟨31, 0, .ro, .none, .none, []⟩]⟩,
   ⟨.PIO_CMP, 0x30120, [(16, 0x40)],
     [⟨31, 0, .rw, .live, .none, []⟩]⟩,
   ⟨.PIO_ERR, 0x30124, [(16, 0x40)],
     [⟨0, 0, .w1c, .live, .none, []⟩,
      ⟨1, 1, .w1c, .live, .none, []⟩,
      ⟨2, 2, .w1c, .live, .none, []⟩,
      ⟨3, 3, .w1c, .live, .none, []⟩,
      ⟨4, 4, .w1c, .live, .none, []⟩]⟩,
   ⟨.PIO_DBG, 0x30128, [(16, 0x40)],
     [⟨5, 0, .ro, .none, .none, []⟩,
      ⟨9, 8, .ro, .none, .none, []⟩]⟩,
   ⟨.PIO_DBG_SR, 0x3012C, [(16, 0x40)],
     [⟨31, 0, .ro, .none, .none, []⟩]⟩]

/-- Registers of the PIO_ window, piece 2. -/
def rowsPIO2 : List RegRow :=
  [⟨.PIO_CNT_UNDER, 0x30130, [(16, 0x40)],
     [⟨15, 0, .cnt, .live, .none, []⟩]⟩,
   ⟨.PIO_CNT_OVER, 0x30134, [(16, 0x40)],
     [⟨15, 0, .cnt, .live, .none, []⟩]⟩,
   ⟨.PIO_PROG, 0x31000, [(16, 0x200), (2, 0x100), (64, 0x4)],
     [⟨15, 0, .rw, .stopped, .none, []⟩]⟩]

/-- The PIO_ window of BAR 0. -/
def rowsPIO : List RegRow := rowsPIO0 ++ rowsPIO1 ++ rowsPIO2

/-- Registers of the HAL_ window, piece 0. -/
def rowsHAL0 : List RegRow :=
  [⟨.HAL_Q_CTRL, 0x34000, [(64, 0x40)],
     [⟨0, 0, .rw, .live, .none, []⟩,
      ⟨2, 1, .rw, .stopped, .none, [(0, 1)]⟩,
      ⟨5, 4, .rw, .stopped, .none, [(0, 2)]⟩]⟩,
   ⟨.HAL_Q_SIZE, 0x34004, [(64, 0x40)],
     [⟨13, 0, .rw, .stopped, .none, []⟩,
      ⟨29, 16, .rw, .stopped, .none, []⟩]⟩,
   ⟨.HAL_Q_WM, 0x34008, [(64, 0x40)],
     [⟨13, 0, .rw, .live, .none, []⟩,
      ⟨29, 16, .rw, .live, .none, []⟩]⟩,
   ⟨.HAL_Q_STAT, 0x3400C, [(64, 0x40)],
     [⟨13, 0, .ro, .none, .none, []⟩,
      ⟨29, 16, .ro, .none, .none, []⟩,
      ⟨30, 30, .ro, .none, .none, []⟩,
      ⟨31, 31, .ro, .none, .none, []⟩]⟩,
   ⟨.HAL_Q_AVAIL, 0x34010, [(64, 0x40)],
     [⟨13, 0, .ro, .none, .none, []⟩]⟩,
   ⟨.HAL_CNT_PKTS, 0x34014, [(64, 0x40)],
     [⟨31, 0, .cnt, .live, .none, []⟩]⟩,
   ⟨.HAL_CNT_BP, 0x34018, [(64, 0x40)],
     [⟨31, 0, .cnt, .live, .none, []⟩]⟩,
   ⟨.HAL_CNT_WM, 0x3401C, [(64, 0x40)],
     [⟨15, 0, .cnt, .live, .none, []⟩]⟩,
   ⟨.HAL_CNT_QRESET, 0x34020, [(64, 0x40)],
     [⟨15, 0, .cnt, .live, .none, []⟩]⟩,
   ⟨.HAL_CNT_RESET_PKTS, 0x34024, [(64, 0x40)],
     [⟨31, 0, .cnt, .live, .none, []⟩]⟩]

/-- Registers of the HAL_ window, piece 1. -/
def rowsHAL1 : List RegRow :=
  [⟨.HAL_CNT_CORR, 0x34028, [(64, 0x40)],
     [⟨31, 0, .cnt, .live, .none, []⟩]⟩,
   ⟨.HAL_CNT_UNCORR, 0x3402C, [(64, 0x40)],
     [⟨15, 0, .cnt, .live, .none, []⟩]⟩,
   ⟨.HAL_POOL, 0x35000, [],
     [⟨13, 0, .ro, .none, .none, []⟩,
      ⟨29, 16, .ro, .none, .none, []⟩]⟩,
   ⟨.HAL_CNT_FREELIST, 0x35004, [],
     [⟨15, 0, .cnt, .live, .none, []⟩]⟩,
   ⟨.HAL_FLOW_MAP, 0x35020, [(8, 0x4)],
     [⟨5, 0, .rw, .live, .none, []⟩,
      ⟨8, 8, .rw, .live, .none, []⟩,
      ⟨9, 9, .rw, .live, .none, []⟩]⟩,
   ⟨.HAL_WM_RISE_LO, 0x35040, [],
     [⟨31, 0, .w1c, .live, .none, []⟩]⟩,
   ⟨.HAL_WM_RISE_HI, 0x35044, [],
     [⟨31, 0, .w1c, .live, .none, []⟩]⟩,
   ⟨.HAL_WM_FALL_LO, 0x35048, [],
     [⟨31, 0, .w1c, .live, .none, []⟩]⟩,
   ⟨.HAL_WM_FALL_HI, 0x3504C, [],
     [⟨31, 0, .w1c, .live, .none, []⟩]⟩,
   ⟨.HAL_QRESET_LO, 0x35050, [],
     [⟨31, 0, .w1c, .live, .none, []⟩]⟩]

/-- Registers of the HAL_ window, piece 2. -/
def rowsHAL2 : List RegRow :=
  [⟨.HAL_QRESET_HI, 0x35054, [],
     [⟨31, 0, .w1c, .live, .none, []⟩]⟩,
   ⟨.HAL_UNCORR_LO, 0x35058, [],
     [⟨31, 0, .w1c, .live, .none, []⟩]⟩,
   ⟨.HAL_UNCORR_HI, 0x3505C, [],
     [⟨31, 0, .w1c, .live, .none, []⟩]⟩]

/-- The HAL_ window of BAR 0. -/
def rowsHAL : List RegRow := rowsHAL0 ++ rowsHAL1 ++ rowsHAL2

/-- Registers of the USH_ window, piece 0. -/
def rowsUSH0 : List RegRow :=
  [⟨.USH_DOORBELL, 0x38000, [(16, 0x4)],
     [⟨16, 0, .wo, .live, .none, []⟩]⟩,
   ⟨.USH_SQ_BASE_LO, 0x39000, [(16, 0x20)],
     [⟨31, 6, .rw, .stopped, .none, []⟩]⟩,
   ⟨.USH_SQ_BASE_HI, 0x39004, [(16, 0x20)],
     [⟨31, 0, .rw, .stopped, .none, []⟩]⟩,
   ⟨.USH_SQ_CTRL, 0x39008, [(16, 0x20)],
     [⟨0, 0, .rw, .live, .none, []⟩,
      ⟨2, 1, .rw, .live, .none, []⟩,
      ⟨3, 3, .rw, .live, .none, []⟩,
      ⟨12, 8, .rw, .stopped, .none, [(4, 16)]⟩,
      ⟨16, 16, .wo, .live, .none, []⟩]⟩,
   ⟨.USH_SQ_STATUS, 0x3900C, [(16, 0x20)],
     [⟨16, 0, .ro, .none, .none, []⟩,
      ⟨22, 20, .ro, .none, .none, []⟩]⟩,
   ⟨.USH_CQ_BASE_LO, 0x39400, [(8, 0x20)],
     [⟨31, 6, .rw, .stopped, .none, []⟩]⟩,
   ⟨.USH_CQ_BASE_HI, 0x39404, [(8, 0x20)],
     [⟨31, 0, .rw, .stopped, .none, []⟩]⟩,
   ⟨.USH_CQ_CTRL, 0x39408, [(8, 0x20)],
     [⟨0, 0, .rw, .live, .none, []⟩,
      ⟨12, 8, .rw, .stopped, .none, [(4, 16)]⟩,
      ⟨20, 16, .rw, .live, .none, []⟩]⟩,
   ⟨.USH_CQ_IRQ, 0x3940C, [(8, 0x20)],
     [⟨3, 0, .rw, .live, .none, []⟩,
      ⟨31, 16, .rw, .live, .none, []⟩]⟩,
   ⟨.USH_CQ_HEAD, 0x39410, [(8, 0x20)],
     [⟨16, 0, .rw, .live, .none, []⟩]⟩]

/-- Registers of the USH_ window, piece 1. -/
def rowsUSH1 : List RegRow :=
  [⟨.USH_CQ_STATUS, 0x39414, [(8, 0x20)],
     [⟨16, 0, .ro, .none, .none, []⟩]⟩,
   ⟨.USH_CQ_RESV, 0x39418, [(8, 0x20)],
     [⟨16, 0, .ro, .none, .none, []⟩]⟩,
   ⟨.USH_NQ_BASE_LO, 0x39600, [(2, 0x20)],
     [⟨31, 6, .rw, .stopped, .none, []⟩]⟩,
   ⟨.USH_NQ_BASE_HI, 0x39604, [(2, 0x20)],
     [⟨31, 0, .rw, .stopped, .none, []⟩]⟩,
   ⟨.USH_NQ_CTRL, 0x39608, [(2, 0x20)],
     [⟨0, 0, .rw, .live, .none, []⟩,
      ⟨12, 8, .rw, .stopped, .none, [(4, 16)]⟩,
      ⟨20, 16, .rw, .live, .none, []⟩]⟩,
   ⟨.USH_NQ_HEAD, 0x39610, [(2, 0x20)],
     [⟨16, 0, .rw, .live, .none, []⟩]⟩,
   ⟨.USH_NQ_STATUS, 0x39614, [(2, 0x20)],
     [⟨16, 0, .ro, .none, .none, []⟩,
      ⟨26, 20, .ro, .none, .none, []⟩]⟩,
   ⟨.USH_NQ_IRQ, 0x39800, [],
     [⟨3, 0, .rw, .live, .none, []⟩,
      ⟨31, 16, .rw, .live, .none, []⟩]⟩,
   ⟨.USH_POLL, 0x39804, [],
     [⟨20, 0, .rw, .live, .none, [(375, 1500000)]⟩]⟩,
   ⟨.USH_ENG_STATUS, 0x39808, [],
     [⟨11, 0, .ro, .none, .none, []⟩,
      ⟨27, 16, .ro, .none, .none, []⟩]⟩]

/-- Registers of the USH_ window, piece 2. -/
def rowsUSH2 : List RegRow :=
  [⟨.USH_ABORT, 0x3980C, [],
     [⟨11, 0, .wo, .live, .none, []⟩]⟩,
   ⟨.USH_FLIGHT, 0x39810, [],
     [⟨0, 0, .ro, .none, .none, []⟩,
      ⟨7, 4, .ro, .none, .none, []⟩,
      ⟨8, 8, .ro, .none, .none, []⟩]⟩,
   ⟨.USH_FLAGS, 0x39814, [],
     [⟨15, 0, .w1c, .live, .none, []⟩,
      ⟨31, 16, .ro, .none, .none, []⟩]⟩,
   ⟨.USH_CNT_TAKEN, 0x39840, [],
     [⟨31, 0, .cnt, .live, .none, []⟩]⟩,
   ⟨.USH_CNT_FAIL, 0x39844, [],
     [⟨15, 0, .cnt, .live, .none, []⟩]⟩,
   ⟨.USH_CNT_TIMEOUT, 0x39848, [],
     [⟨15, 0, .cnt, .live, .none, []⟩]⟩,
   ⟨.USH_CNT_BAD_DOORBELL, 0x3984C, [],
     [⟨15, 0, .cnt, .live, .none, []⟩]⟩,
   ⟨.USH_CNT_CQ_WAIT, 0x39850, [],
     [⟨31, 0, .cnt, .live, .none, []⟩]⟩,
   ⟨.USH_CNT_NQ_LOST, 0x39860, [(2, 0x4)],
     [⟨15, 0, .cnt, .live, .none, []⟩]⟩,
   ⟨.USH_FLIGHT_FRAMES, 0x39870, [(4, 0x4)],
     [⟨31, 0, .cnt, .live, .none, []⟩]⟩]

/-- Registers of the USH_ window, piece 3. -/
def rowsUSH3 : List RegRow :=
  [⟨.USH_EVENT, 0x3A000, [(256, 0x4)],
     [⟨31, 0, .ro, .none, .none, []⟩]⟩,
   ⟨.USH_EVENT_ADD, 0x3B000, [(256, 0x4)],
     [⟨31, 0, .wo, .live, .none, []⟩]⟩]

/-- The USH_ window of BAR 0. -/
def rowsUSH : List RegRow := rowsUSH0 ++ rowsUSH1 ++ rowsUSH2 ++ rowsUSH3

/-- Registers of the ENG_ window, piece 0. -/
def rowsENG0 : List RegRow :=
  [⟨.ENG_PROGRESS, 0x40000, [(8, 0x4)],
     [⟨31, 0, .ro, .none, .none, []⟩]⟩,
   ⟨.ENG_PORTER_RATE, 0x40040, [(4, 0x4)],
     [⟨15, 0, .rw, .live, .none, []⟩]⟩,
   ⟨.ENG_CNT_TASKS, 0x40080, [(8, 0x4)],
     [⟨31, 0, .cnt, .live, .none, []⟩]⟩,
   ⟨.ENG_CNT_ABANDON, 0x400C0, [(8, 0x4)],
     [⟨15, 0, .cnt, .live, .none, []⟩]⟩,
   ⟨.ENG_CNT_ARC_SKIP, 0x40100, [],
     [⟨31, 0, .cnt, .live, .none, []⟩]⟩,
   ⟨.ENG_CNT_ARC_RETRY, 0x40104, [],
     [⟨15, 0, .cnt, .live, .none, []⟩]⟩,
   ⟨.ENG_CNT_ARC_FAIL, 0x40108, [],
     [⟨15, 0, .cnt, .live, .none, []⟩]⟩]

/-- The ENG_ window of BAR 0. -/
def rowsENG : List RegRow := rowsENG0

/-- Registers of the PCI_ window, piece 0. -/
def rowsPCI0 : List RegRow :=
  [⟨.PCI_LINK, 0x44000, [],
     [⟨3, 0, .ro, .none, .none, []⟩,
      ⟨9, 4, .ro, .none, .none, []⟩,
      ⟨14, 12, .ro, .none, .none, []⟩,
      ⟨16, 16, .ro, .none, .none, []⟩]⟩,
   ⟨.PCI_FLAGS, 0x44004, [],
     [⟨0, 0, .w1c, .live, .none, []⟩]⟩,
   ⟨.PCI_CNT_CORR, 0x44040, [],
     [⟨31, 0, .cnt, .live, .none, []⟩]⟩,
   ⟨.PCI_CNT_UNCORR, 0x44044, [],
     [⟨15, 0, .cnt, .live, .none, []⟩]⟩,
   ⟨.PCI_CNT_CPL_TIMEOUT, 0x44048, [],
     [⟨15, 0, .cnt, .live, .none, []⟩]⟩,
   ⟨.PCI_CNT_RECOVERY, 0x4404C, [],
     [⟨15, 0, .cnt, .live, .none, []⟩]⟩]

/-- The PCI_ window of BAR 0. -/
def rowsPCI : List RegRow := rowsPCI0

/-- Registers of the STO_ window, piece 0. -/
def rowsSTO0 : List RegRow :=
  [⟨.STO_STATUS, 0x48000, [],
     [⟨0, 0, .ro, .none, .none, []⟩]⟩,
   ⟨.STO_FLAGS, 0x48004, [],
     [⟨3, 0, .w1c, .live, .none, []⟩]⟩,
   ⟨.STO_LAST_UNCORR_LO, 0x48008, [],
     [⟨31, 0, .ro, .none, .none, []⟩]⟩,
   ⟨.STO_LAST_UNCORR_HI, 0x4800C, [],
     [⟨26, 0, .ro, .none, .none, []⟩]⟩,
   ⟨.STO_CNT_CORR, 0x48040, [(4, 0x4)],
     [⟨31, 0, .cnt, .live, .none, []⟩]⟩,
   ⟨.STO_CNT_UNCORR, 0x48050, [(4, 0x4)],
     [⟨15, 0, .cnt, .live, .none, []⟩]⟩]

/-- The STO_ window of BAR 0. -/
def rowsSTO : List RegRow := rowsSTO0

/-- Registers of the ARC_ window, piece 0. -/
def rowsARC0 : List RegRow :=
  [⟨.ARC_STATUS, 0x4C000, [],
     [⟨0, 0, .ro, .none, .none, []⟩,
      ⟨1, 1, .ro, .none, .none, []⟩,
      ⟨2, 2, .ro, .none, .none, []⟩]⟩,
   ⟨.ARC_ROLLBACK, 0x4C004, [],
     [⟨31, 0, .ro, .none, .none, []⟩]⟩,
   ⟨.ARC_ROLLBACK_RAISE, 0x4C008, [],
     [⟨31, 0, .wo, .live, .k, []⟩]⟩,
   ⟨.ARC_CNT_CORR, 0x4C00C, [],
     [⟨31, 0, .cnt, .live, .none, []⟩]⟩,
   ⟨.ARC_SLOT_VER, 0x4C010, [(2, 0x4)],
     [⟨31, 0, .ro, .none, .none, []⟩]⟩,
   ⟨.ARC_SLOT_BUILD, 0x4C018, [(2, 0x4)],
     [⟨31, 0, .ro, .none, .none, []⟩]⟩,
   ⟨.ARC_SLOT_STATE, 0x4C020, [(2, 0x4)],
     [⟨2, 0, .ro, .none, .none, []⟩]⟩,
   ⟨.ARC_DIE_SERIAL_LO, 0x4C028, [],
     [⟨31, 0, .ro, .none, .none, []⟩]⟩,
   ⟨.ARC_DIE_SERIAL_HI, 0x4C02C, [],
     [⟨31, 0, .ro, .none, .none, []⟩]⟩,
   ⟨.ARC_WEAR_SEL, 0x4C030, [],
     [⟨15, 0, .rw, .live, .none, []⟩]⟩]

/-- Registers of the ARC_ window, piece 1. -/
def rowsARC1 : List RegRow :=
  [⟨.ARC_WEAR, 0x4C034, [],
     [⟨31, 0, .ro, .none, .none, []⟩]⟩,
   ⟨.ARC_RCV_CTRL, 0x4C040, [],
     [⟨15, 0, .rw, .live, .none, []⟩,
      ⟨31, 31, .wo, .live, .none, []⟩]⟩,
   ⟨.ARC_RCV_STATUS, 0x4C044, [],
     [⟨0, 0, .ro, .live, .none, []⟩,
      ⟨1, 1, .w1c, .live, .none, []⟩,
      ⟨2, 2, .w1c, .live, .none, []⟩,
      ⟨7, 4, .ro, .live, .none, []⟩]⟩,
   ⟨.ARC_RCV_BUF, 0x4C100, [(64, 0x4)],
     [⟨31, 0, .rw, .live, .none, []⟩]⟩]

/-- The ARC_ window of BAR 0. -/
def rowsARC : List RegRow := rowsARC0 ++ rowsARC1

/-- Registers of the THM_ window, piece 0. -/
def rowsTHM0 : List RegRow :=
  [⟨.THM_TRIP, 0x50000, [],
     [⟨7, 0, .rw, .live, .b, []⟩]⟩,
   ⟨.THM_CTRL, 0x50004, [],
     [⟨2, 0, .rw, .live, .none, []⟩]⟩,
   ⟨.THM_LADDER, 0x50008, [],
     [⟨7, 0, .rw, .live, .none, [(5, 40)]⟩,
      ⟨15, 8, .rw, .live, .none, []⟩,
      ⟨29, 16, .rw, .live, .none, [(10, 10000)]⟩]⟩,
   ⟨.THM_GAL_LIMIT, 0x5000C, [],
     [⟨7, 0, .rw, .live, .none, [(60, 125)]⟩]⟩,
   ⟨.THM_NEIGH, 0x50010, [],
     [⟨5, 0, .rw, .live, .none, [(5, 40)]⟩]⟩,
   ⟨.THM_STATUS, 0x50014, [],
     [⟨2, 0, .ro, .none, .none, []⟩,
      ⟨7, 4, .ro, .none, .none, []⟩,
      ⟨8, 8, .ro, .none, .none, []⟩,
      ⟨10, 9, .ro, .none, .none, []⟩,
      ⟨31, 16, .ro, .none, .none, []⟩]⟩,
   ⟨.THM_LIMITS, 0x50018, [],
     [⟨6, 0, .ro, .none, .none, []⟩,
      ⟨14, 8, .ro, .none, .none, []⟩,
      ⟨22, 16, .ro, .none, .none, []⟩]⟩,
   ⟨.THM_FLAGS, 0x5001C, [],
     [⟨11, 0, .w1c, .live, .none, []⟩]⟩,
   ⟨.THM_BAD_LO, 0x50020, [],
     [⟨31, 0, .w1c, .live, .none, []⟩]⟩,
   ⟨.THM_BAD_HI, 0x50024, [],
     [⟨15, 0, .w1c, .live, .none, []⟩]⟩]

/-- Registers of the THM_ window, piece 1. -/
def rowsTHM1 : List RegRow :=
  [⟨.THM_CNT_STEPS, 0x50040, [],
     [⟨15, 0, .cnt, .live, .none, []⟩]⟩,
   ⟨.THM_CNT_FORCED, 0x50044, [],
     [⟨15, 0, .cnt, .live, .none, []⟩]⟩,
   ⟨.THM_CNT_SENSOR_BAD, 0x50048, [],
     [⟨15, 0, .cnt, .live, .none, []⟩]⟩,
   ⟨.THM_CNT_FALLBACK, 0x5004C, [],
     [⟨15, 0, .cnt, .live, .none, []⟩]⟩,
   ⟨.THM_ZONE, 0x50080, [(12, 0x4)],
     [⟨15, 0, .ro, .none, .none, []⟩,
      ⟨16, 16, .ro, .none, .none, []⟩,
      ⟨17, 17, .ro, .none, .none, []⟩]⟩,
   ⟨.THM_SENSOR, 0x50100, [(48, 0x4)],
     [⟨15, 0, .ro, .none, .none, []⟩,
      ⟨17, 16, .ro, .none, .none, []⟩]⟩]

/-- The THM_ window of BAR 0. -/
def rowsTHM : List RegRow := rowsTHM0 ++ rowsTHM1

/-- The rows of the window that holds offset `off` (Table 23.1: 16 KiB windows, USH_ 32 KiB). -/
def windowRows (off : Nat) : List RegRow :=
  match off / 0x4000 with
  | 0 => rowsNWL
  | 1 => rowsSTP
  | 2 => rowsPWR
  | 3 => rowsARR
  | 4 => rowsCNV
  | 5 => rowsXPT
  | 6 => rowsPIP
  | 7 => rowsCLS
  | 8 => rowsEJP
  | 9 => rowsHLK
  | 10 => rowsMON
  | 11 => rowsILM
  | 12 => rowsPIO
  | 13 => rowsHAL
  | 14 => rowsUSH
  | 15 => rowsUSH
  | 16 => rowsENG
  | 17 => rowsPCI
  | 18 => rowsSTO
  | 19 => rowsARC
  | 20 => rowsTHM
  | _ => []

namespace F

/-- Offset of `NWL_CTRL`. -/
def NWL_CTRL : Nat := 0x00000
def NWL_CTRL_COMMIT : Fld := ⟨NWL_CTRL, 0, 0⟩
def NWL_CTRL_SNAP : Fld := ⟨NWL_CTRL, 1, 1⟩
def NWL_CTRL_SNAP_SRC : Fld := ⟨NWL_CTRL, 5, 4⟩
/-- Offset of `NWL_STATUS`. -/
def NWL_STATUS : Nat := 0x00004
def NWL_STATUS_LOCKED : Fld := ⟨NWL_STATUS, 0, 0⟩
def NWL_STATUS_HOLDOVER : Fld := ⟨NWL_STATUS, 1, 1⟩
def NWL_STATUS_REF_SRC : Fld := ⟨NWL_STATUS, 2, 2⟩
def NWL_STATUS_COMMIT_PENDING : Fld := ⟨NWL_STATUS, 3, 3⟩
def NWL_STATUS_REFMODE : Fld := ⟨NWL_STATUS, 5, 4⟩
def NWL_STATUS_BAND : Fld := ⟨NWL_STATUS, 12, 8⟩
def NWL_STATUS_SNAP_SEQ : Fld := ⟨NWL_STATUS, 23, 16⟩
def NWL_STATUS_LOCK_PHASE : Fld := ⟨NWL_STATUS, 26, 24⟩
/-- Offset of `NWL_REFMODE_NEXT`. -/
def NWL_REFMODE_NEXT : Nat := 0x00008
def NWL_REFMODE_NEXT_MODE : Fld := ⟨NWL_REFMODE_NEXT, 1, 0⟩
/-- Offset of `NWL_DIV_MON`. -/
def NWL_DIV_MON : Nat := 0x0000C
def NWL_DIV_MON_N : Fld := ⟨NWL_DIV_MON, 7, 0⟩
/-- Offset of `NWL_DIV_XCLK`. -/
def NWL_DIV_XCLK (x : Nat) : Nat := 0x00010 + 0x4 * x
def NWL_DIV_XCLK_N (x : Nat) : Fld := ⟨NWL_DIV_XCLK x, 6, 0⟩
/-- Offset of `NWL_DIV_ACTIVE`. -/
def NWL_DIV_ACTIVE : Nat := 0x00018
def NWL_DIV_ACTIVE_XCLK0 : Fld := ⟨NWL_DIV_ACTIVE, 6, 0⟩
def NWL_DIV_ACTIVE_XCLK1 : Fld := ⟨NWL_DIV_ACTIVE, 14, 8⟩
def NWL_DIV_ACTIVE_MON : Fld := ⟨NWL_DIV_ACTIVE, 23, 16⟩
/-- Offset of `NWL_TIME_EPOCH`. -/
def NWL_TIME_EPOCH : Nat := 0x0001C
def NWL_TIME_EPOCH_EPOCH : Fld := ⟨NWL_TIME_EPOCH, 15, 0⟩
/-- Offset of `NWL_TIME_LO`. -/
def NWL_TIME_LO : Nat := 0x00020
def NWL_TIME_LO_TIME : Fld := ⟨NWL_TIME_LO, 31, 0⟩
/-- Offset of `NWL_TIME_HI`. -/
def NWL_TIME_HI : Nat := 0x00024
def NWL_TIME_HI_TIME : Fld := ⟨NWL_TIME_HI, 31, 0⟩
/-- Offset of `NWL_SNAP_LO`. -/
def NWL_SNAP_LO : Nat := 0x00028
def NWL_SNAP_LO_TIME : Fld := ⟨NWL_SNAP_LO, 31, 0⟩
/-- Offset of `NWL_SNAP_HI`. -/
def NWL_SNAP_HI : Nat := 0x0002C
def NWL_SNAP_HI_TIME : Fld := ⟨NWL_SNAP_HI, 31, 0⟩
/-- Offset of `NWL_COMMIT_TIME_LO`. -/
def NWL_COMMIT_TIME_LO : Nat := 0x00030
def NWL_COMMIT_TIME_LO_TIME : Fld := ⟨NWL_COMMIT_TIME_LO, 31, 0⟩
/-- Offset of `NWL_COMMIT_TIME_HI`. -/
def NWL_COMMIT_TIME_HI : Nat := 0x00034
def NWL_COMMIT_TIME_HI_TIME : Fld := ⟨NWL_COMMIT_TIME_HI, 31, 0⟩
/-- Offset of `NWL_FLAGS`. -/
def NWL_FLAGS : Nat := 0x00038
def NWL_FLAGS_REF_LOST : Fld := ⟨NWL_FLAGS, 0, 0⟩
def NWL_FLAGS_HOLDOVER_ENTERED : Fld := ⟨NWL_FLAGS, 1, 1⟩
def NWL_FLAGS_REACQ_FAIL : Fld := ⟨NWL_FLAGS, 2, 2⟩
/-- Offset of `NWL_CNT_REF_LOSS`. -/
def NWL_CNT_REF_LOSS : Nat := 0x00040
def NWL_CNT_REF_LOSS_COUNT : Fld := ⟨NWL_CNT_REF_LOSS, 15, 0⟩
/-- Offset of `NWL_CNT_REACQ`. -/
def NWL_CNT_REACQ : Nat := 0x00044
def NWL_CNT_REACQ_COUNT : Fld := ⟨NWL_CNT_REACQ, 15, 0⟩
/-- Offset of `STP_LEVELS_LO`. -/
def STP_LEVELS_LO : Nat := 0x04000
def STP_LEVELS_LO_LVL0 : Fld := ⟨STP_LEVELS_LO, 2, 0⟩
def STP_LEVELS_LO_LVL1 : Fld := ⟨STP_LEVELS_LO, 5, 3⟩
def STP_LEVELS_LO_LVL2 : Fld := ⟨STP_LEVELS_LO, 8, 6⟩
def STP_LEVELS_LO_LVL3 : Fld := ⟨STP_LEVELS_LO, 11, 9⟩
def STP_LEVELS_LO_LVL4 : Fld := ⟨STP_LEVELS_LO, 14, 12⟩
def STP_LEVELS_LO_LVL5 : Fld := ⟨STP_LEVELS_LO, 17, 15⟩
def STP_LEVELS_LO_LVL6 : Fld := ⟨STP_LEVELS_LO, 20, 18⟩
def STP_LEVELS_LO_LVL7 : Fld := ⟨STP_LEVELS_LO, 23, 21⟩
/-- Offset of `STP_LEVELS_HI`. -/
def STP_LEVELS_HI : Nat := 0x04004
def STP_LEVELS_HI_LVL8 : Fld := ⟨STP_LEVELS_HI, 2, 0⟩
def STP_LEVELS_HI_LVL9 : Fld := ⟨STP_LEVELS_HI, 5, 3⟩
def STP_LEVELS_HI_LVL10 : Fld := ⟨STP_LEVELS_HI, 8, 6⟩
def STP_LEVELS_HI_LVL11 : Fld := ⟨STP_LEVELS_HI, 11, 9⟩
/-- Offset of `STP_ANOMALY`. -/
def STP_ANOMALY : Nat := 0x04008
def STP_ANOMALY_FLAGS : Fld := ⟨STP_ANOMALY, 11, 0⟩
/-- Offset of `STP_CONFIG`. -/
def STP_CONFIG : Nat := 0x0400C
def STP_CONFIG_LANES : Fld := ⟨STP_CONFIG, 1, 0⟩
def STP_CONFIG_GEN_CAP : Fld := ⟨STP_CONFIG, 4, 2⟩
def STP_CONFIG_REF_SRC : Fld := ⟨STP_CONFIG, 5, 5⟩
def STP_CONFIG_ARC_LOCK : Fld := ⟨STP_CONFIG, 9, 8⟩
def STP_CONFIG_DBG_MODE : Fld := ⟨STP_CONFIG, 11, 10⟩
def STP_CONFIG_FW_POLICY : Fld := ⟨STP_CONFIG, 14, 12⟩
def STP_CONFIG_BOARD : Fld := ⟨STP_CONFIG, 18, 16⟩
def STP_CONFIG_ISET10V : Fld := ⟨STP_CONFIG, 23, 20⟩
/-- Offset of `STP_CEIL_A`. -/
def STP_CEIL_A : Nat := 0x04010
def STP_CEIL_A_ILM_PCT : Fld := ⟨STP_CEIL_A, 6, 0⟩
def STP_CEIL_A_ARR_PCT : Fld := ⟨STP_CEIL_A, 14, 8⟩
def STP_CEIL_A_TRIP_C : Fld := ⟨STP_CEIL_A, 23, 16⟩
/-- Offset of `STP_CEIL_PULSE`. -/
def STP_CEIL_PULSE : Nat := 0x04014
def STP_CEIL_PULSE_TICKS : Fld := ⟨STP_CEIL_PULSE, 25, 0⟩
/-- Offset of `STP_CEIL_GAP`. -/
def STP_CEIL_GAP : Nat := 0x04018
def STP_CEIL_GAP_TICKS : Fld := ⟨STP_CEIL_GAP, 25, 0⟩
/-- Offset of `STP_SOFT_LOCK`. -/
def STP_SOFT_LOCK : Nat := 0x0401C
def STP_SOFT_LOCK_ARC_FW : Fld := ⟨STP_SOFT_LOCK, 0, 0⟩
def STP_SOFT_LOCK_ARC_ALL : Fld := ⟨STP_SOFT_LOCK, 1, 1⟩
def STP_SOFT_LOCK_DBG : Fld := ⟨STP_SOFT_LOCK, 2, 2⟩
/-- Offset of `STP_CNT_REFUSED`. -/
def STP_CNT_REFUSED : Nat := 0x04020
def STP_CNT_REFUSED_COUNT : Fld := ⟨STP_CNT_REFUSED, 15, 0⟩
/-- Offset of `STP_LAST_REFUSED`. -/
def STP_LAST_REFUSED : Nat := 0x04024
def STP_LAST_REFUSED_OFFSET : Fld := ⟨STP_LAST_REFUSED, 19, 0⟩
def STP_LAST_REFUSED_REASON : Fld := ⟨STP_LAST_REFUSED, 23, 20⟩
/-- Offset of `PWR_RESET`. -/
def PWR_RESET : Nat := 0x08000
def PWR_RESET_HOST : Fld := ⟨PWR_RESET, 0, 0⟩
def PWR_RESET_FULL : Fld := ⟨PWR_RESET, 1, 1⟩
def PWR_RESET_KEY : Fld := ⟨PWR_RESET, 31, 16⟩
/-- Offset of `PWR_RESET_CAUSE`. -/
def PWR_RESET_CAUSE : Nat := 0x08004
def PWR_RESET_CAUSE_POR : Fld := ⟨PWR_RESET_CAUSE, 0, 0⟩
def PWR_RESET_CAUSE_VAULT : Fld := ⟨PWR_RESET_CAUSE, 1, 1⟩
def PWR_RESET_CAUSE_PERST : Fld := ⟨PWR_RESET_CAUSE, 2, 2⟩
def PWR_RESET_CAUSE_SW_FULL : Fld := ⟨PWR_RESET_CAUSE, 3, 3⟩
def PWR_RESET_CAUSE_HOT : Fld := ⟨PWR_RESET_CAUSE, 4, 4⟩
def PWR_RESET_CAUSE_LINK_DOWN : Fld := ⟨PWR_RESET_CAUSE, 5, 5⟩
def PWR_RESET_CAUSE_SW_HOST : Fld := ⟨PWR_RESET_CAUSE, 6, 6⟩
def PWR_RESET_CAUSE_WDOG : Fld := ⟨PWR_RESET_CAUSE, 7, 7⟩
/-- Offset of `PWR_BOOT_STATUS`. -/
def PWR_BOOT_STATUS : Nat := 0x08008
def PWR_BOOT_STATUS_STAGE : Fld := ⟨PWR_BOOT_STATUS, 3, 0⟩
def PWR_BOOT_STATUS_FW_SLOT : Fld := ⟨PWR_BOOT_STATUS, 5, 4⟩
def PWR_BOOT_STATUS_FW_FALLBACK : Fld := ⟨PWR_BOOT_STATUS, 6, 6⟩
def PWR_BOOT_STATUS_CAL : Fld := ⟨PWR_BOOT_STATUS, 9, 8⟩
def PWR_BOOT_STATUS_STORE_FAIL : Fld := ⟨PWR_BOOT_STATUS, 10, 10⟩
/-- Offset of `PWR_BOOT_US`. -/
def PWR_BOOT_US : Nat := 0x0800C
def PWR_BOOT_US_US : Fld := ⟨PWR_BOOT_US, 15, 0⟩
/-- Offset of `PWR_CNT_FULL`. -/
def PWR_CNT_FULL : Nat := 0x08010
def PWR_CNT_FULL_COUNT : Fld := ⟨PWR_CNT_FULL, 15, 0⟩
/-- Offset of `PWR_CNT_HOST`. -/
def PWR_CNT_HOST : Nat := 0x08014
def PWR_CNT_HOST_COUNT : Fld := ⟨PWR_CNT_HOST, 15, 0⟩
/-- Offset of `PWR_CNT_WDOG`. -/
def PWR_CNT_WDOG : Nat := 0x08018
def PWR_CNT_WDOG_COUNT : Fld := ⟨PWR_CNT_WDOG, 15, 0⟩
/-- Offset of `PWR_STEP_CTRL`. -/
def PWR_STEP_CTRL : Nat := 0x08020
def PWR_STEP_CTRL_TARGET : Fld := ⟨PWR_STEP_CTRL, 2, 0⟩
def PWR_STEP_CTRL_WAKE_TARGET : Fld := ⟨PWR_STEP_CTRL, 6, 4⟩
/-- Offset of `PWR_STEP_STATUS`. -/
def PWR_STEP_STATUS : Nat := 0x08024
def PWR_STEP_STATUS_STEP : Fld := ⟨PWR_STEP_STATUS, 2, 0⟩
def PWR_STEP_STATUS_ENTRY : Fld := ⟨PWR_STEP_STATUS, 6, 4⟩
def PWR_STEP_STATUS_PHASE : Fld := ⟨PWR_STEP_STATUS, 10, 8⟩
def PWR_STEP_STATUS_FORCED : Fld := ⟨PWR_STEP_STATUS, 12, 12⟩
/-- Offset of `PWR_WAKE_EN`. -/
def PWR_WAKE_EN : Nat := 0x08028
def PWR_WAKE_EN_PHRASE : Fld := ⟨PWR_WAKE_EN, 0, 0⟩
def PWR_WAKE_EN_HOST_LINK : Fld := ⟨PWR_WAKE_EN, 1, 1⟩
def PWR_WAKE_EN_TRIG0 : Fld := ⟨PWR_WAKE_EN, 2, 2⟩
/-- Offset of `PWR_WAKE_CAUSE`. -/
def PWR_WAKE_CAUSE : Nat := 0x0802C
def PWR_WAKE_CAUSE_PHRASE : Fld := ⟨PWR_WAKE_CAUSE, 0, 0⟩
def PWR_WAKE_CAUSE_HOST_LINK : Fld := ⟨PWR_WAKE_CAUSE, 1, 1⟩
def PWR_WAKE_CAUSE_TRIG0 : Fld := ⟨PWR_WAKE_CAUSE, 2, 2⟩
def PWR_WAKE_CAUSE_HOST_WRITE : Fld := ⟨PWR_WAKE_CAUSE, 3, 3⟩
def PWR_WAKE_CAUSE_ABORT : Fld := ⟨PWR_WAKE_CAUSE, 4, 4⟩
/-- Offset of `PWR_COMMIT_TIME_LO`. -/
def PWR_COMMIT_TIME_LO : Nat := 0x08030
def PWR_COMMIT_TIME_LO_TIME : Fld := ⟨PWR_COMMIT_TIME_LO, 31, 0⟩
/-- Offset of `PWR_COMMIT_TIME_HI`. -/
def PWR_COMMIT_TIME_HI : Nat := 0x08034
def PWR_COMMIT_TIME_HI_TIME : Fld := ⟨PWR_COMMIT_TIME_HI, 31, 0⟩
/-- Offset of `PWR_CNT_WAKE`. -/
def PWR_CNT_WAKE : Nat := 0x08038
def PWR_CNT_WAKE_COUNT : Fld := ⟨PWR_CNT_WAKE, 15, 0⟩
/-- Offset of `PWR_CNT_ABORT`. -/
def PWR_CNT_ABORT : Nat := 0x0803C
def PWR_CNT_ABORT_COUNT : Fld := ⟨PWR_CNT_ABORT, 15, 0⟩
/-- Offset of `ARR_CAM_CTRL`. -/
def ARR_CAM_CTRL (c : Nat) : Nat := 0x0C000 + 0x100 * c
def ARR_CAM_CTRL_RUN (c : Nat) : Fld := ⟨ARR_CAM_CTRL c, 0, 0⟩
def ARR_CAM_CTRL_MODE (c : Nat) : Fld := ⟨ARR_CAM_CTRL c, 2, 1⟩
def ARR_CAM_CTRL_LINK (c : Nat) : Fld := ⟨ARR_CAM_CTRL c, 3, 3⟩
def ARR_CAM_CTRL_A_EN (c : Nat) : Fld := ⟨ARR_CAM_CTRL c, 4, 4⟩
def ARR_CAM_CTRL_B_EN (c : Nat) : Fld := ⟨ARR_CAM_CTRL c, 5, 5⟩
def ARR_CAM_CTRL_TRIG_SRC (c : Nat) : Fld := ⟨ARR_CAM_CTRL c, 14, 8⟩
def ARR_CAM_CTRL_TRIG_FALL (c : Nat) : Fld := ⟨ARR_CAM_CTRL c, 15, 15⟩
/-- Offset of `ARR_CAM_STATUS`. -/
def ARR_CAM_STATUS (c : Nat) : Nat := 0x0C004 + 0x100 * c
def ARR_CAM_STATUS_RUNNING (c : Nat) : Fld := ⟨ARR_CAM_STATUS c, 0, 0⟩
def ARR_CAM_STATUS_HELD (c : Nat) : Fld := ⟨ARR_CAM_STATUS c, 1, 1⟩
def ARR_CAM_STATUS_BURST_LEFT (c : Nat) : Fld := ⟨ARR_CAM_STATUS c, 31, 16⟩
/-- Offset of `ARR_START_TIME_LO`. -/
def ARR_START_TIME_LO (c : Nat) : Nat := 0x0C008 + 0x100 * c
def ARR_START_TIME_LO_TIME (c : Nat) : Fld := ⟨ARR_START_TIME_LO c, 31, 0⟩
/-- Offset of `ARR_START_TIME_HI`. -/
def ARR_START_TIME_HI (c : Nat) : Nat := 0x0C00C + 0x100 * c
def ARR_START_TIME_HI_TIME (c : Nat) : Fld := ⟨ARR_START_TIME_HI c, 31, 0⟩
/-- Offset of `ARR_PERIOD`. -/
def ARR_PERIOD (c : Nat) : Nat := 0x0C010 + 0x100 * c
def ARR_PERIOD_TICKS (c : Nat) : Fld := ⟨ARR_PERIOD c, 31, 0⟩
/-- Offset of `ARR_TRIG_DELAY`. -/
def ARR_TRIG_DELAY (c : Nat) : Nat := 0x0C014 + 0x100 * c
def ARR_TRIG_DELAY_TICKS (c : Nat) : Fld := ⟨ARR_TRIG_DELAY c, 31, 0⟩
/-- Offset of `ARR_BURST_LEN`. -/
def ARR_BURST_LEN (c : Nat) : Nat := 0x0C018 + 0x100 * c
def ARR_BURST_LEN_FRAMES (c : Nat) : Fld := ⟨ARR_BURST_LEN c, 15, 0⟩
/-- Offset of `ARR_AB_DELAY`. -/
def ARR_AB_DELAY (c : Nat) : Nat := 0x0C01C + 0x100 * c
def ARR_AB_DELAY_TICKS (c : Nat) : Fld := ⟨ARR_AB_DELAY c, 31, 0⟩
/-- Offset of `ARR_STROBE_MAP`. -/
def ARR_STROBE_MAP (c : Nat) : Nat := 0x0C020 + 0x100 * c
def ARR_STROBE_MAP_A_PIN (c : Nat) : Fld := ⟨ARR_STROBE_MAP c, 2, 0⟩
def ARR_STROBE_MAP_B_PIN (c : Nat) : Fld := ⟨ARR_STROBE_MAP c, 6, 4⟩
/-- Offset of `ARR_CAM_BAND`. -/
def ARR_CAM_BAND (c : Nat) : Nat := 0x0C024 + 0x100 * c
def ARR_CAM_BAND_FIRST_PAIR (c : Nat) : Fld := ⟨ARR_CAM_BAND c, 7, 0⟩
def ARR_CAM_BAND_LAST_PAIR (c : Nat) : Fld := ⟨ARR_CAM_BAND c, 23, 16⟩
/-- Offset of `ARR_LAST_START_LO`. -/
def ARR_LAST_START_LO (c : Nat) : Nat := 0x0C028 + 0x100 * c
def ARR_LAST_START_LO_TIME (c : Nat) : Fld := ⟨ARR_LAST_START_LO c, 31, 0⟩
/-- Offset of `ARR_LAST_START_HI`. -/
def ARR_LAST_START_HI (c : Nat) : Nat := 0x0C02C + 0x100 * c
def ARR_LAST_START_HI_TIME (c : Nat) : Fld := ⟨ARR_LAST_START_HI c, 31, 0⟩
/-- Offset of `ARR_GEN`. -/
def ARR_GEN (c : Nat) : Nat := 0x0C030 + 0x100 * c
def ARR_GEN_GEN (c : Nat) : Fld := ⟨ARR_GEN c, 7, 0⟩
/-- Offset of `ARR_FRAME_COUNT`. -/
def ARR_FRAME_COUNT (c : Nat) : Nat := 0x0C034 + 0x100 * c
def ARR_FRAME_COUNT_COUNT (c : Nat) : Fld := ⟨ARR_FRAME_COUNT c, 31, 0⟩
/-- Offset of `ARR_CNT_SLOT_SKIP`. -/
def ARR_CNT_SLOT_SKIP (c : Nat) : Nat := 0x0C038 + 0x100 * c
def ARR_CNT_SLOT_SKIP_COUNT (c : Nat) : Fld := ⟨ARR_CNT_SLOT_SKIP c, 15, 0⟩
/-- Offset of `ARR_CNT_TRIG_DROP`. -/
def ARR_CNT_TRIG_DROP (c : Nat) : Nat := 0x0C03C + 0x100 * c
def ARR_CNT_TRIG_DROP_COUNT (c : Nat) : Fld := ⟨ARR_CNT_TRIG_DROP c, 15, 0⟩
/-- Offset of `ARR_CNT_SET_HELD`. -/
def ARR_CNT_SET_HELD (c : Nat) : Nat := 0x0C040 + 0x100 * c
def ARR_CNT_SET_HELD_COUNT (c : Nat) : Fld := ⟨ARR_CNT_SET_HELD c, 15, 0⟩
/-- Offset of `ARR_EXP_OFFSET`. -/
def ARR_EXP_OFFSET (c : Nat) (n : Nat) : Nat := 0x0C080 + 0x100 * c + 0x40 * n
def ARR_EXP_OFFSET_TICKS (c : Nat) (n : Nat) : Fld := ⟨ARR_EXP_OFFSET c n, 31, 0⟩
/-- Offset of `ARR_EXP_LEN`. -/
def ARR_EXP_LEN (c : Nat) (n : Nat) : Nat := 0x0C084 + 0x100 * c + 0x40 * n
def ARR_EXP_LEN_TICKS (c : Nat) (n : Nat) : Fld := ⟨ARR_EXP_LEN c n, 30, 0⟩
/-- Offset of `ARR_EXP_SUB`. -/
def ARR_EXP_SUB (c : Nat) (n : Nat) : Nat := 0x0C088 + 0x100 * c + 0x40 * n
def ARR_EXP_SUB_COUNT (c : Nat) (n : Nat) : Fld := ⟨ARR_EXP_SUB c n, 4, 0⟩
/-- Offset of `ARR_EXP_PITCH`. -/
def ARR_EXP_PITCH (c : Nat) (n : Nat) : Nat := 0x0C08C + 0x100 * c + 0x40 * n
def ARR_EXP_PITCH_TICKS (c : Nat) (n : Nat) : Fld := ⟨ARR_EXP_PITCH c n, 31, 0⟩
/-- Offset of `ARR_XSERVO`. -/
def ARR_XSERVO (c : Nat) (n : Nat) : Nat := 0x0C090 + 0x100 * c + 0x40 * n
def ARR_XSERVO_HW (c : Nat) (n : Nat) : Fld := ⟨ARR_XSERVO c n, 0, 0⟩
def ARR_XSERVO_GAIN (c : Nat) (n : Nat) : Fld := ⟨ARR_XSERVO c n, 7, 4⟩
def ARR_XSERVO_WIN (c : Nat) (n : Nat) : Fld := ⟨ARR_XSERVO c n, 9, 8⟩
def ARR_XSERVO_DEADBAND (c : Nat) (n : Nat) : Fld := ⟨ARR_XSERVO c n, 27, 16⟩
/-- Offset of `ARR_XSERVO_TARGET`. -/
def ARR_XSERVO_TARGET (c : Nat) (n : Nat) : Nat := 0x0C094 + 0x100 * c + 0x40 * n
def ARR_XSERVO_TARGET_TARGET (c : Nat) (n : Nat) : Fld := ⟨ARR_XSERVO_TARGET c n, 11, 0⟩
/-- Offset of `ARR_XSERVO_MIN`. -/
def ARR_XSERVO_MIN (c : Nat) (n : Nat) : Nat := 0x0C098 + 0x100 * c + 0x40 * n
def ARR_XSERVO_MIN_TICKS (c : Nat) (n : Nat) : Fld := ⟨ARR_XSERVO_MIN c n, 30, 0⟩
/-- Offset of `ARR_XSERVO_MAX`. -/
def ARR_XSERVO_MAX (c : Nat) (n : Nat) : Nat := 0x0C09C + 0x100 * c + 0x40 * n
def ARR_XSERVO_MAX_TICKS (c : Nat) (n : Nat) : Fld := ⟨ARR_XSERVO_MAX c n, 30, 0⟩
/-- Offset of `ARR_EXP_LEN_EFF`. -/
def ARR_EXP_LEN_EFF (c : Nat) (n : Nat) : Nat := 0x0C0A0 + 0x100 * c + 0x40 * n
def ARR_EXP_LEN_EFF_TICKS (c : Nat) (n : Nat) : Fld := ⟨ARR_EXP_LEN_EFF c n, 30, 0⟩
/-- Offset of `ARR_CNT_XSERVO_BOUND`. -/
def ARR_CNT_XSERVO_BOUND (c : Nat) (n : Nat) : Nat := 0x0C0A4 + 0x100 * c + 0x40 * n
def ARR_CNT_XSERVO_BOUND_COUNT (c : Nat) (n : Nat) : Fld := ⟨ARR_CNT_XSERVO_BOUND c n, 15, 0⟩
/-- Offset of `ARR_BLACK`. -/
def ARR_BLACK : Nat := 0x0C200
def ARR_BLACK_OWNER : Fld := ⟨ARR_BLACK, 0, 0⟩
/-- Offset of `ARR_SW_TRIG`. -/
def ARR_SW_TRIG : Nat := 0x0C204
def ARR_SW_TRIG_CAM0 : Fld := ⟨ARR_SW_TRIG, 0, 0⟩
def ARR_SW_TRIG_CAM1 : Fld := ⟨ARR_SW_TRIG, 1, 1⟩
/-- Offset of `ARR_FLAGS`. -/
def ARR_FLAGS : Nat := 0x0C208
def ARR_FLAGS_TRIG_DROP : Fld := ⟨ARR_FLAGS, 1, 0⟩
def ARR_FLAGS_SLOT_SKIP : Fld := ⟨ARR_FLAGS, 3, 2⟩
def ARR_FLAGS_SET_HELD : Fld := ⟨ARR_FLAGS, 5, 4⟩
def ARR_FLAGS_BAND_OVERLAP : Fld := ⟨ARR_FLAGS, 8, 8⟩
/-- Offset of `ARR_POWER_BUDGET`. -/
def ARR_POWER_BUDGET : Nat := 0x0C20C
def ARR_POWER_BUDGET_PCT : Fld := ⟨ARR_POWER_BUDGET, 6, 0⟩
/-- Offset of `ARR_POWER_EFF`. -/
def ARR_POWER_EFF : Nat := 0x0C210
def ARR_POWER_EFF_PCT : Fld := ⟨ARR_POWER_EFF, 6, 0⟩
def ARR_POWER_EFF_LIMITER : Fld := ⟨ARR_POWER_EFF, 9, 8⟩
/-- Offset of `CNV_WIN`. -/
def CNV_WIN (c : Nat) (w : Nat) : Nat := 0x10000 + 0x100 * c + 0x4 * w
def CNV_WIN_EN (c : Nat) (w : Nat) : Fld := ⟨CNV_WIN c w, 0, 0⟩
def CNV_WIN_COL_FIRST (c : Nat) (w : Nat) : Fld := ⟨CNV_WIN c w, 7, 1⟩
def CNV_WIN_COL_LAST (c : Nat) (w : Nat) : Fld := ⟨CNV_WIN c w, 14, 8⟩
def CNV_WIN_PAIR_FIRST (c : Nat) (w : Nat) : Fld := ⟨CNV_WIN c w, 23, 16⟩
def CNV_WIN_PAIR_LAST (c : Nat) (w : Nat) : Fld := ⟨CNV_WIN c w, 31, 24⟩
/-- Offset of `CNV_MODE`. -/
def CNV_MODE (c : Nat) : Nat := 0x10010 + 0x100 * c
def CNV_MODE_BITS (c : Nat) : Fld := ⟨CNV_MODE c, 0, 0⟩
def CNV_MODE_CBIN (c : Nat) : Fld := ⟨CNV_MODE c, 1, 1⟩
def CNV_MODE_BLACK_ROWS (c : Nat) : Fld := ⟨CNV_MODE c, 2, 2⟩
def CNV_MODE_GAIN_A (c : Nat) : Fld := ⟨CNV_MODE c, 5, 4⟩
def CNV_MODE_GAIN_B (c : Nat) : Fld := ⟨CNV_MODE c, 7, 6⟩
/-- Offset of `CNV_RP_EFF`. -/
def CNV_RP_EFF (c : Nat) : Nat := 0x10014 + 0x100 * c
def CNV_RP_EFF_TICKS (c : Nat) : Fld := ⟨CNV_RP_EFF c, 15, 0⟩
/-- Offset of `CNV_DARK_CTRL`. -/
def CNV_DARK_CTRL (c : Nat) : Nat := 0x10018 + 0x100 * c
def CNV_DARK_CTRL_HW (c : Nat) : Fld := ⟨CNV_DARK_CTRL c, 0, 0⟩
def CNV_DARK_CTRL_STEP_MAX (c : Nat) : Fld := ⟨CNV_DARK_CTRL c, 11, 4⟩
def CNV_DARK_CTRL_TARGET (c : Nat) : Fld := ⟨CNV_DARK_CTRL c, 27, 16⟩
/-- Offset of `CNV_DARK_BOUND`. -/
def CNV_DARK_BOUND (c : Nat) : Nat := 0x1001C + 0x100 * c
def CNV_DARK_BOUND_MIN (c : Nat) : Fld := ⟨CNV_DARK_BOUND c, 11, 0⟩
def CNV_DARK_BOUND_MAX (c : Nat) : Fld := ⟨CNV_DARK_BOUND c, 27, 16⟩
/-- Offset of `CNV_DARK_OFS`. -/
def CNV_DARK_OFS (c : Nat) (n : Nat) : Nat := 0x10020 + 0x100 * c + 0x4 * n
def CNV_DARK_OFS_TOP (c : Nat) (n : Nat) : Fld := ⟨CNV_DARK_OFS c n, 11, 0⟩
def CNV_DARK_OFS_BOT (c : Nat) (n : Nat) : Fld := ⟨CNV_DARK_OFS c n, 27, 16⟩
/-- Offset of `CNV_DARK_EFF`. -/
def CNV_DARK_EFF (c : Nat) (n : Nat) : Nat := 0x10028 + 0x100 * c + 0x4 * n
def CNV_DARK_EFF_TOP (c : Nat) (n : Nat) : Fld := ⟨CNV_DARK_EFF c n, 11, 0⟩
def CNV_DARK_EFF_BOT (c : Nat) (n : Nat) : Fld := ⟨CNV_DARK_EFF c n, 27, 16⟩
/-- Offset of `CNV_RDO_PLAN`. -/
def CNV_RDO_PLAN (c : Nat) (n : Nat) : Nat := 0x10030 + 0x100 * c + 0x4 * n
def CNV_RDO_PLAN_START (c : Nat) (n : Nat) : Fld := ⟨CNV_RDO_PLAN c n, 31, 0⟩
/-- Offset of `CNV_RDO_LEN`. -/
def CNV_RDO_LEN (c : Nat) (n : Nat) : Nat := 0x10038 + 0x100 * c + 0x4 * n
def CNV_RDO_LEN_TICKS (c : Nat) (n : Nat) : Fld := ⟨CNV_RDO_LEN c n, 31, 0⟩
/-- Offset of `CNV_CNT_RDO_DEFER`. -/
def CNV_CNT_RDO_DEFER (c : Nat) : Nat := 0x10040 + 0x100 * c
def CNV_CNT_RDO_DEFER_COUNT (c : Nat) : Fld := ⟨CNV_CNT_RDO_DEFER c, 15, 0⟩
/-- Offset of `CNV_CNT_DARK_BOUND`. -/
def CNV_CNT_DARK_BOUND (c : Nat) : Nat := 0x10044 + 0x100 * c
def CNV_CNT_DARK_BOUND_COUNT (c : Nat) : Fld := ⟨CNV_CNT_DARK_BOUND c, 15, 0⟩
/-- Offset of `CNV_FLAGS`. -/
def CNV_FLAGS : Nat := 0x10200
def CNV_FLAGS_DARK_BOUND : Fld := ⟨CNV_FLAGS, 1, 0⟩
def CNV_FLAGS_XSERVO_BOUND : Fld := ⟨CNV_FLAGS, 5, 2⟩
/-- Offset of `XPT_CTRL`. -/
def XPT_CTRL (x : Nat) : Nat := 0x14000 + 0x100 * x
def XPT_CTRL_EN (x : Nat) : Fld := ⟨XPT_CTRL x, 0, 0⟩
def XPT_CTRL_TRAIN (x : Nat) : Fld := ⟨XPT_CTRL x, 1, 1⟩
def XPT_CTRL_RUN (x : Nat) : Fld := ⟨XPT_CTRL x, 2, 2⟩
/-- Offset of `XPT_STATUS`. -/
def XPT_STATUS (x : Nat) : Nat := 0x14004 + 0x100 * x
def XPT_STATUS_STATE (x : Nat) : Fld := ⟨XPT_STATUS x, 2, 0⟩
def XPT_STATUS_OPEN (x : Nat) : Fld := ⟨XPT_STATUS x, 4, 4⟩
def XPT_STATUS_LINE (x : Nat) : Fld := ⟨XPT_STATUS x, 31, 16⟩
/-- Offset of `XPT_DELAY`. -/
def XPT_DELAY (x : Nat) : Nat := 0x14008 + 0x100 * x
def XPT_DELAY_STEP (x : Nat) : Fld := ⟨XPT_DELAY x, 9, 0⟩
def XPT_DELAY_EYE (x : Nat) : Fld := ⟨XPT_DELAY x, 25, 16⟩
/-- Offset of `XPT_FMT`. -/
def XPT_FMT (x : Nat) : Nat := 0x1400C + 0x100 * x
def XPT_FMT_WIDTH (x : Nat) : Fld := ⟨XPT_FMT x, 13, 0⟩
def XPT_FMT_DEPTH (x : Nat) : Fld := ⟨XPT_FMT x, 19, 16⟩
def XPT_FMT_LAYOUT (x : Nat) : Fld := ⟨XPT_FMT x, 21, 20⟩
/-- Offset of `XPT_LINES`. -/
def XPT_LINES (x : Nat) : Nat := 0x14010 + 0x100 * x
def XPT_LINES_LINES (x : Nat) : Fld := ⟨XPT_LINES x, 15, 0⟩
/-- Offset of `XPT_FRAME_WIN`. -/
def XPT_FRAME_WIN (x : Nat) : Nat := 0x14014 + 0x100 * x
def XPT_FRAME_WIN_TICKS (x : Nat) : Fld := ⟨XPT_FRAME_WIN x, 31, 0⟩
/-- Offset of `XPT_LAT_ADJ`. -/
def XPT_LAT_ADJ (x : Nat) : Nat := 0x14018 + 0x100 * x
def XPT_LAT_ADJ_TICKS (x : Nat) : Fld := ⟨XPT_LAT_ADJ x, 15, 0⟩
/-- Offset of `XPT_GEN`. -/
def XPT_GEN (x : Nat) : Nat := 0x1401C + 0x100 * x
def XPT_GEN_GEN (x : Nat) : Fld := ⟨XPT_GEN x, 7, 0⟩
/-- Offset of `XPT_LAST_START_LO`. -/
def XPT_LAST_START_LO (x : Nat) : Nat := 0x14020 + 0x100 * x
def XPT_LAST_START_LO_TIME (x : Nat) : Fld := ⟨XPT_LAST_START_LO x, 31, 0⟩
/-- Offset of `XPT_LAST_START_HI`. -/
def XPT_LAST_START_HI (x : Nat) : Nat := 0x14024 + 0x100 * x
def XPT_LAST_START_HI_TIME (x : Nat) : Fld := ⟨XPT_LAST_START_HI x, 31, 0⟩
/-- Offset of `XPT_CNT_FRAMES`. -/
def XPT_CNT_FRAMES (x : Nat) : Nat := 0x14040 + 0x100 * x
def XPT_CNT_FRAMES_COUNT (x : Nat) : Fld := ⟨XPT_CNT_FRAMES x, 31, 0⟩
/-- Offset of `XPT_CNT_MARKED`. -/
def XPT_CNT_MARKED (x : Nat) : Nat := 0x14044 + 0x100 * x
def XPT_CNT_MARKED_COUNT (x : Nat) : Fld := ⟨XPT_CNT_MARKED x, 15, 0⟩
/-- Offset of `XPT_CNT_CRC`. -/
def XPT_CNT_CRC (x : Nat) : Nat := 0x14048 + 0x100 * x
def XPT_CNT_CRC_COUNT (x : Nat) : Fld := ⟨XPT_CNT_CRC x, 31, 0⟩
/-- Offset of `XPT_CNT_LENGTH`. -/
def XPT_CNT_LENGTH (x : Nat) : Nat := 0x1404C + 0x100 * x
def XPT_CNT_LENGTH_COUNT (x : Nat) : Fld := ⟨XPT_CNT_LENGTH x, 15, 0⟩
/-- Offset of `XPT_CNT_MISSING`. -/
def XPT_CNT_MISSING (x : Nat) : Nat := 0x14050 + 0x100 * x
def XPT_CNT_MISSING_COUNT (x : Nat) : Fld := ⟨XPT_CNT_MISSING x, 15, 0⟩
/-- Offset of `XPT_CNT_STRAY`. -/
def XPT_CNT_STRAY (x : Nat) : Nat := 0x14054 + 0x100 * x
def XPT_CNT_STRAY_COUNT (x : Nat) : Fld := ⟨XPT_CNT_STRAY x, 15, 0⟩
/-- Offset of `XPT_CNT_TIMEOUT`. -/
def XPT_CNT_TIMEOUT (x : Nat) : Nat := 0x14058 + 0x100 * x
def XPT_CNT_TIMEOUT_COUNT (x : Nat) : Fld := ⟨XPT_CNT_TIMEOUT x, 15, 0⟩
/-- Offset of `XPT_CNT_EYE_WARN`. -/
def XPT_CNT_EYE_WARN (x : Nat) : Nat := 0x1405C + 0x100 * x
def XPT_CNT_EYE_WARN_COUNT (x : Nat) : Fld := ⟨XPT_CNT_EYE_WARN x, 15, 0⟩
/-- Offset of `XPT_CNT_TRAIN_FAIL`. -/
def XPT_CNT_TRAIN_FAIL (x : Nat) : Nat := 0x14060 + 0x100 * x
def XPT_CNT_TRAIN_FAIL_COUNT (x : Nat) : Fld := ⟨XPT_CNT_TRAIN_FAIL x, 15, 0⟩
/-- Offset of `XPT_FLAGS`. -/
def XPT_FLAGS : Nat := 0x14200
def XPT_FLAGS_MARKED : Fld := ⟨XPT_FLAGS, 1, 0⟩
def XPT_FLAGS_EYE : Fld := ⟨XPT_FLAGS, 3, 2⟩
def XPT_FLAGS_TRAIN_FAIL : Fld := ⟨XPT_FLAGS, 5, 4⟩
def XPT_FLAGS_CLOCK : Fld := ⟨XPT_FLAGS, 7, 6⟩
/-- Offset of `PIP_SRC`. -/
def PIP_SRC (p : Nat) : Nat := 0x18000 + 0x400 * p
def PIP_SRC_SRC (p : Nat) : Fld := ⟨PIP_SRC p, 2, 0⟩
/-- Offset of `PIP_BIN`. -/
def PIP_BIN (p : Nat) : Nat := 0x18004 + 0x400 * p
def PIP_BIN_MODE (p : Nat) : Fld := ⟨PIP_BIN p, 1, 0⟩
/-- Offset of `PIP_CORR_CTRL`. -/
def PIP_CORR_CTRL (p : Nat) : Nat := 0x18008 + 0x400 * p
def PIP_CORR_CTRL_UNMIX_EN (p : Nat) : Fld := ⟨PIP_CORR_CTRL p, 0, 0⟩
def PIP_CORR_CTRL_BAL_EN (p : Nat) : Fld := ⟨PIP_CORR_CTRL p, 1, 1⟩
def PIP_CORR_CTRL_DARK_EN (p : Nat) : Fld := ⟨PIP_CORR_CTRL p, 2, 2⟩
def PIP_CORR_CTRL_FLAT_EN (p : Nat) : Fld := ⟨PIP_CORR_CTRL p, 3, 3⟩
def PIP_CORR_CTRL_DEFECT_EN (p : Nat) : Fld := ⟨PIP_CORR_CTRL p, 4, 4⟩
def PIP_CORR_CTRL_TBL_BANK (p : Nat) : Fld := ⟨PIP_CORR_CTRL p, 8, 8⟩
def PIP_CORR_CTRL_CAL_AREA (p : Nat) : Fld := ⟨PIP_CORR_CTRL p, 9, 9⟩
def PIP_CORR_CTRL_TEMP_SRC (p : Nat) : Fld := ⟨PIP_CORR_CTRL p, 12, 12⟩
/-- Offset of `PIP_DARK_TEMP`. -/
def PIP_DARK_TEMP (p : Nat) : Nat := 0x1800C + 0x400 * p
def PIP_DARK_TEMP_TEMP (p : Nat) : Fld := ⟨PIP_DARK_TEMP p, 15, 0⟩
/-- Offset of `PIP_CORR_EFF`. -/
def PIP_CORR_EFF (p : Nat) : Nat := 0x18010 + 0x400 * p
def PIP_CORR_EFF_TEMP (p : Nat) : Fld := ⟨PIP_CORR_EFF p, 15, 0⟩
def PIP_CORR_EFF_WEIGHT (p : Nat) : Fld := ⟨PIP_CORR_EFF p, 31, 16⟩
/-- Offset of `PIP_CNT_DARK_MISMATCH`. -/
def PIP_CNT_DARK_MISMATCH (p : Nat) : Nat := 0x18014 + 0x400 * p
def PIP_CNT_DARK_MISMATCH_COUNT (p : Nat) : Fld := ⟨PIP_CNT_DARK_MISMATCH p, 15, 0⟩
/-- Offset of `PIP_CNT_UNRESOLVED`. -/
def PIP_CNT_UNRESOLVED (p : Nat) : Nat := 0x18018 + 0x400 * p
def PIP_CNT_UNRESOLVED_COUNT (p : Nat) : Fld := ⟨PIP_CNT_UNRESOLVED p, 31, 0⟩
/-- Offset of `PIP_CNT_SAT_HI`. -/
def PIP_CNT_SAT_HI (p : Nat) : Nat := 0x1801C + 0x400 * p
def PIP_CNT_SAT_HI_COUNT (p : Nat) : Fld := ⟨PIP_CNT_SAT_HI p, 31, 0⟩
/-- Offset of `PIP_CNT_TEMP_CLAMP`. -/
def PIP_CNT_TEMP_CLAMP (p : Nat) : Nat := 0x18020 + 0x400 * p
def PIP_CNT_TEMP_CLAMP_COUNT (p : Nat) : Fld := ⟨PIP_CNT_TEMP_CLAMP p, 15, 0⟩
/-- Offset of `PIP_BREF_A`. -/
def PIP_BREF_A (p : Nat) : Nat := 0x18040 + 0x400 * p
def PIP_BREF_A_KC (p : Nat) : Fld := ⟨PIP_BREF_A p, 15, 0⟩
def PIP_BREF_A_KR (p : Nat) : Fld := ⟨PIP_BREF_A p, 31, 16⟩
/-- Offset of `PIP_BREF_B`. -/
def PIP_BREF_B (p : Nat) : Nat := 0x18044 + 0x400 * p
def PIP_BREF_B_KG (p : Nat) : Fld := ⟨PIP_BREF_B p, 15, 0⟩
def PIP_BREF_B_KN (p : Nat) : Fld := ⟨PIP_BREF_B p, 31, 16⟩
/-- Offset of `PIP_BREF_MIX`. -/
def PIP_BREF_MIX (p : Nat) : Nat := 0x18048 + 0x400 * p
def PIP_BREF_MIX_M (p : Nat) : Fld := ⟨PIP_BREF_MIX p, 12, 0⟩
/-- Offset of `PIP_TAP_CURVE`. -/
def PIP_TAP_CURVE (p : Nat) : Nat := 0x1804C + 0x400 * p
def PIP_TAP_CURVE_SEL (p : Nat) : Fld := ⟨PIP_TAP_CURVE p, 0, 0⟩
/-- Offset of `PIP_CCM`. -/
def PIP_CCM (p : Nat) (i : Nat) : Nat := 0x18060 + 0x400 * p + 0x4 * i
def PIP_CCM_COEF (p : Nat) (i : Nat) : Fld := ⟨PIP_CCM p i, 15, 0⟩
/-- Offset of `PIP_TAP_CTRL`. -/
def PIP_TAP_CTRL (p : Nat) (t : Nat) : Nat := 0x18100 + 0x400 * p + 0x20 * t
def PIP_TAP_CTRL_EN (p : Nat) (t : Nat) : Fld := ⟨PIP_TAP_CTRL p t, 0, 0⟩
def PIP_TAP_CTRL_NODES (p : Nat) (t : Nat) : Fld := ⟨PIP_TAP_CTRL p t, 2, 1⟩
def PIP_TAP_CTRL_FMT (p : Nat) (t : Nat) : Fld := ⟨PIP_TAP_CTRL p t, 5, 4⟩
def PIP_TAP_CTRL_PLANES (p : Nat) (t : Nat) : Fld := ⟨PIP_TAP_CTRL p t, 12, 8⟩
def PIP_TAP_CTRL_GREY (p : Nat) (t : Nat) : Fld := ⟨PIP_TAP_CTRL p t, 14, 13⟩
def PIP_TAP_CTRL_BLACK (p : Nat) (t : Nat) : Fld := ⟨PIP_TAP_CTRL p t, 15, 15⟩
def PIP_TAP_CTRL_QUEUE (p : Nat) (t : Nat) : Fld := ⟨PIP_TAP_CTRL p t, 21, 16⟩
/-- Offset of `PIP_TAP_ADMIT`. -/
def PIP_TAP_ADMIT (p : Nat) (t : Nat) : Nat := 0x18104 + 0x400 * p + 0x20 * t
def PIP_TAP_ADMIT_CELLS (p : Nat) (t : Nat) : Fld := ⟨PIP_TAP_ADMIT p t, 13, 0⟩
/-- Offset of `PIP_TAP_SEQ`. -/
def PIP_TAP_SEQ (p : Nat) (t : Nat) : Nat := 0x18108 + 0x400 * p + 0x20 * t
def PIP_TAP_SEQ_SEQ (p : Nat) (t : Nat) : Fld := ⟨PIP_TAP_SEQ p t, 15, 0⟩
/-- Offset of `PIP_CNT_SKIP`. -/
def PIP_CNT_SKIP (p : Nat) (t : Nat) : Nat := 0x1810C + 0x400 * p + 0x20 * t
def PIP_CNT_SKIP_COUNT (p : Nat) (t : Nat) : Fld := ⟨PIP_CNT_SKIP p t, 31, 0⟩
/-- Offset of `PIP_CNT_VOID`. -/
def PIP_CNT_VOID (p : Nat) (t : Nat) : Nat := 0x18110 + 0x400 * p + 0x20 * t
def PIP_CNT_VOID_COUNT (p : Nat) (t : Nat) : Fld := ⟨PIP_CNT_VOID p t, 15, 0⟩
/-- Offset of `PIP_CORR_FLAGS`. -/
def PIP_CORR_FLAGS : Nat := 0x19000
def PIP_CORR_FLAGS_DARK_MISMATCH : Fld := ⟨PIP_CORR_FLAGS, 3, 0⟩
def PIP_CORR_FLAGS_UNRESOLVED : Fld := ⟨PIP_CORR_FLAGS, 7, 4⟩
def PIP_CORR_FLAGS_TEMP_CLAMP : Fld := ⟨PIP_CORR_FLAGS, 11, 8⟩
/-- Offset of `PIP_TAP_FLAGS`. -/
def PIP_TAP_FLAGS : Nat := 0x19004
def PIP_TAP_FLAGS_SKIP : Fld := ⟨PIP_TAP_FLAGS, 15, 0⟩
/-- Offset of `CLS_CTRL`. -/
def CLS_CTRL (p : Nat) : Nat := 0x1C000 + 0x100 * p
def CLS_CTRL_EN (p : Nat) : Fld := ⟨CLS_CTRL p, 0, 0⟩
def CLS_CTRL_BANK (p : Nat) : Fld := ⟨CLS_CTRL p, 1, 1⟩
def CLS_CTRL_DIR (p : Nat) : Fld := ⟨CLS_CTRL p, 2, 2⟩
def CLS_CTRL_RUN_MIN (p : Nat) : Fld := ⟨CLS_CTRL p, 7, 4⟩
/-- Offset of `CLS_FEAT`. -/
def CLS_FEAT (p : Nat) (n : Nat) : Nat := 0x1C004 + 0x100 * p + 0x4 * n
def CLS_FEAT_KU (p : Nat) (n : Nat) : Fld := ⟨CLS_FEAT p n, 15, 0⟩
def CLS_FEAT_KV (p : Nat) (n : Nat) : Fld := ⟨CLS_FEAT p n, 31, 16⟩
/-- Offset of `CLS_FEAT_W`. -/
def CLS_FEAT_W (p : Nat) (n : Nat) : Nat := 0x1C00C + 0x100 * p + 0x4 * n
def CLS_FEAT_W_KW (p : Nat) (n : Nat) : Fld := ⟨CLS_FEAT_W p n, 15, 0⟩
/-- Offset of `CLS_TALLY`. -/
def CLS_TALLY (p : Nat) : Nat := 0x1C014 + 0x100 * p
def CLS_TALLY_C0 (p : Nat) : Fld := ⟨CLS_TALLY p, 3, 0⟩
def CLS_TALLY_C1 (p : Nat) : Fld := ⟨CLS_TALLY p, 7, 4⟩
def CLS_TALLY_C2 (p : Nat) : Fld := ⟨CLS_TALLY p, 11, 8⟩
def CLS_TALLY_C3 (p : Nat) : Fld := ⟨CLS_TALLY p, 15, 12⟩
/-- Offset of `CLS_PITCH`. -/
def CLS_PITCH (p : Nat) : Nat := 0x1C018 + 0x100 * p
def CLS_PITCH_NM (p : Nat) : Fld := ⟨CLS_PITCH p, 19, 0⟩
/-- Offset of `CLS_VIEW_ROW`. -/
def CLS_VIEW_ROW (p : Nat) : Nat := 0x1C01C + 0x100 * p
def CLS_VIEW_ROW_ROW (p : Nat) : Fld := ⟨CLS_VIEW_ROW p, 15, 0⟩
/-- Offset of `CLS_AB_GATE`. -/
def CLS_AB_GATE (p : Nat) : Nat := 0x1C020 + 0x100 * p
def CLS_AB_GATE_DR_MIN (p : Nat) : Fld := ⟨CLS_AB_GATE p, 7, 0⟩
def CLS_AB_GATE_DR_MAX (p : Nat) : Fld := ⟨CLS_AB_GATE p, 15, 8⟩
def CLS_AB_GATE_DR_EXP (p : Nat) : Fld := ⟨CLS_AB_GATE p, 23, 16⟩
def CLS_AB_GATE_DC_MAX (p : Nat) : Fld := ⟨CLS_AB_GATE p, 31, 24⟩
/-- Offset of `CLS_TRACK`. -/
def CLS_TRACK (p : Nat) : Nat := 0x1C024 + 0x100 * p
def CLS_TRACK_ADV (p : Nat) : Fld := ⟨CLS_TRACK p, 15, 0⟩
def CLS_TRACK_GATE (p : Nat) : Fld := ⟨CLS_TRACK p, 23, 16⟩
/-- Offset of `CLS_CNT_RECORDS`. -/
def CLS_CNT_RECORDS (p : Nat) : Nat := 0x1C040 + 0x100 * p
def CLS_CNT_RECORDS_COUNT (p : Nat) : Fld := ⟨CLS_CNT_RECORDS p, 31, 0⟩
/-- Offset of `CLS_CNT_PLANNED`. -/
def CLS_CNT_PLANNED (p : Nat) : Nat := 0x1C044 + 0x100 * p
def CLS_CNT_PLANNED_COUNT (p : Nat) : Fld := ⟨CLS_CNT_PLANNED p, 31, 0⟩
/-- Offset of `CLS_CNT_OVERFLOW`. -/
def CLS_CNT_OVERFLOW (p : Nat) : Nat := 0x1C048 + 0x100 * p
def CLS_CNT_OVERFLOW_COUNT (p : Nat) : Fld := ⟨CLS_CNT_OVERFLOW p, 15, 0⟩
/-- Offset of `CLS_CNT_NOMATCH`. -/
def CLS_CNT_NOMATCH (p : Nat) : Nat := 0x1C04C + 0x100 * p
def CLS_CNT_NOMATCH_COUNT (p : Nat) : Fld := ⟨CLS_CNT_NOMATCH p, 15, 0⟩
/-- Offset of `CLS_CNT_ORPHAN`. -/
def CLS_CNT_ORPHAN (p : Nat) : Nat := 0x1C050 + 0x100 * p
def CLS_CNT_ORPHAN_COUNT (p : Nat) : Fld := ⟨CLS_CNT_ORPHAN p, 15, 0⟩
/-- Offset of `CLS_JOIN`. -/
def CLS_JOIN (j : Nat) : Nat := 0x1C400 + 0x40 * j
def CLS_JOIN_EN (j : Nat) : Fld := ⟨CLS_JOIN j, 0, 0⟩
def CLS_JOIN_LEAD (j : Nat) : Fld := ⟨CLS_JOIN j, 2, 1⟩
def CLS_JOIN_PARTNER (j : Nat) : Fld := ⟨CLS_JOIN j, 4, 3⟩
def CLS_JOIN_MIRROR (j : Nat) : Fld := ⟨CLS_JOIN j, 5, 5⟩
def CLS_JOIN_POLICY (j : Nat) : Fld := ⟨CLS_JOIN j, 6, 6⟩
def CLS_JOIN_OVL (j : Nat) : Fld := ⟨CLS_JOIN j, 15, 8⟩
/-- Offset of `CLS_JOIN_OFS`. -/
def CLS_JOIN_OFS (j : Nat) : Nat := 0x1C404 + 0x40 * j
def CLS_JOIN_OFS_OFS (j : Nat) : Fld := ⟨CLS_JOIN_OFS j, 13, 0⟩
/-- Offset of `CLS_JOIN_DT`. -/
def CLS_JOIN_DT (j : Nat) : Nat := 0x1C408 + 0x40 * j
def CLS_JOIN_DT_TICKS (j : Nat) : Fld := ⟨CLS_JOIN_DT j, 31, 0⟩
/-- Offset of `CLS_JOIN_WIN`. -/
def CLS_JOIN_WIN (j : Nat) : Nat := 0x1C40C + 0x40 * j
def CLS_JOIN_WIN_TICKS (j : Nat) : Fld := ⟨CLS_JOIN_WIN j, 31, 0⟩
/-- Offset of `CLS_JOIN_WAIT`. -/
def CLS_JOIN_WAIT (j : Nat) : Nat := 0x1C410 + 0x40 * j
def CLS_JOIN_WAIT_TICKS (j : Nat) : Fld := ⟨CLS_JOIN_WAIT j, 31, 0⟩
/-- Offset of `CLS_CNT_JOINED`. -/
def CLS_CNT_JOINED (j : Nat) : Nat := 0x1C414 + 0x40 * j
def CLS_CNT_JOINED_COUNT (j : Nat) : Fld := ⟨CLS_CNT_JOINED j, 31, 0⟩
/-- Offset of `CLS_CNT_SINGLE`. -/
def CLS_CNT_SINGLE (j : Nat) : Nat := 0x1C418 + 0x40 * j
def CLS_CNT_SINGLE_COUNT (j : Nat) : Fld := ⟨CLS_CNT_SINGLE j, 15, 0⟩
/-- Offset of `CLS_CNT_UNDERRUN`. -/
def CLS_CNT_UNDERRUN (j : Nat) (s : Nat) : Nat := 0x1C41C + 0x40 * j + 0x4 * s
def CLS_CNT_UNDERRUN_COUNT (j : Nat) (s : Nat) : Fld := ⟨CLS_CNT_UNDERRUN j s, 15, 0⟩
/-- Offset of `CLS_CNT_STALE`. -/
def CLS_CNT_STALE (j : Nat) : Nat := 0x1C424 + 0x40 * j
def CLS_CNT_STALE_COUNT (j : Nat) : Fld := ⟨CLS_CNT_STALE j, 15, 0⟩
/-- Offset of `CLS_FLAGS`. -/
def CLS_FLAGS : Nat := 0x1C500
def CLS_FLAGS_OVERFLOW : Fld := ⟨CLS_FLAGS, 3, 0⟩
/-- Offset of `CLS_JOIN_STATUS`. -/
def CLS_JOIN_STATUS : Nat := 0x1C504
def CLS_JOIN_STATUS_UNDERRUN : Fld := ⟨CLS_JOIN_STATUS, 3, 0⟩
/-- Offset of `EJP_CTRL`. -/
def EJP_CTRL : Nat := 0x20000
def EJP_CTRL_SINGLE : Fld := ⟨EJP_CTRL, 0, 0⟩
def EJP_CTRL_OVF : Fld := ⟨EJP_CTRL, 2, 1⟩
def EJP_CTRL_AREA_MIN : Fld := ⟨EJP_CTRL, 31, 16⟩
/-- Offset of `EJP_GRAVITY`. -/
def EJP_GRAVITY : Nat := 0x20004
def EJP_GRAVITY_MM_S2 : Fld := ⟨EJP_GRAVITY, 15, 0⟩
/-- Offset of `EJP_DRAG`. -/
def EJP_DRAG : Nat := 0x20008
def EJP_DRAG_PPM_M : Fld := ⟨EJP_DRAG, 15, 0⟩
/-- Offset of `EJP_DUR_DOUBT`. -/
def EJP_DUR_DOUBT : Nat := 0x2000C
def EJP_DUR_DOUBT_TICKS : Fld := ⟨EJP_DUR_DOUBT, 25, 0⟩
/-- Offset of `EJP_PULSE_MAX`. -/
def EJP_PULSE_MAX : Nat := 0x20010
def EJP_PULSE_MAX_TICKS : Fld := ⟨EJP_PULSE_MAX, 25, 0⟩
/-- Offset of `EJP_GAP_MIN`. -/
def EJP_GAP_MIN : Nat := 0x20014
def EJP_GAP_MIN_TICKS : Fld := ⟨EJP_GAP_MIN, 25, 0⟩
/-- Offset of `EJP_FLAGS`. -/
def EJP_FLAGS : Nat := 0x20018
def EJP_FLAGS_LATE : Fld := ⟨EJP_FLAGS, 7, 0⟩
def EJP_FLAGS_QFULL : Fld := ⟨EJP_FLAGS, 15, 8⟩
def EJP_FLAGS_NOGAL : Fld := ⟨EJP_FLAGS, 23, 16⟩
def EJP_FLAGS_DEC_OVF : Fld := ⟨EJP_FLAGS, 24, 24⟩
/-- Offset of `EJP_LAST_LATE_LO`. -/
def EJP_LAST_LATE_LO : Nat := 0x20020
def EJP_LAST_LATE_LO_TIME : Fld := ⟨EJP_LAST_LATE_LO, 31, 0⟩
/-- Offset of `EJP_LAST_LATE_HI`. -/
def EJP_LAST_LATE_HI : Nat := 0x20024
def EJP_LAST_LATE_HI_TIME : Fld := ⟨EJP_LAST_LATE_HI, 31, 0⟩
/-- Offset of `EJP_LAST_LATE_INFO`. -/
def EJP_LAST_LATE_INFO : Nat := 0x20028
def EJP_LAST_LATE_INFO_GALLERY : Fld := ⟨EJP_LAST_LATE_INFO, 2, 0⟩
/-- Offset of `EJP_CNT_REJECT`. -/
def EJP_CNT_REJECT : Nat := 0x20040
def EJP_CNT_REJECT_COUNT : Fld := ⟨EJP_CNT_REJECT, 31, 0⟩
/-- Offset of `EJP_CNT_DOUBT`. -/
def EJP_CNT_DOUBT : Nat := 0x20044
def EJP_CNT_DOUBT_COUNT : Fld := ⟨EJP_CNT_DOUBT, 15, 0⟩
/-- Offset of `EJP_CNT_FALLBACK`. -/
def EJP_CNT_FALLBACK : Nat := 0x20048
def EJP_CNT_FALLBACK_COUNT : Fld := ⟨EJP_CNT_FALLBACK, 31, 0⟩
/-- Offset of `EJP_CNT_UNPLANNED`. -/
def EJP_CNT_UNPLANNED : Nat := 0x2004C
def EJP_CNT_UNPLANNED_COUNT : Fld := ⟨EJP_CNT_UNPLANNED, 15, 0⟩
/-- Offset of `EJP_CNT_CLIP`. -/
def EJP_CNT_CLIP : Nat := 0x20050
def EJP_CNT_CLIP_COUNT : Fld := ⟨EJP_CNT_CLIP, 15, 0⟩
/-- Offset of `EJP_CNT_DEC_OVF`. -/
def EJP_CNT_DEC_OVF : Nat := 0x20054
def EJP_CNT_DEC_OVF_COUNT : Fld := ⟨EJP_CNT_DEC_OVF, 15, 0⟩
/-- Offset of `EJP_ROW_DIST`. -/
def EJP_ROW_DIST (r : Nat) : Nat := 0x20100 + 0x20 * r
def EJP_ROW_DIST_UM (r : Nat) : Fld := ⟨EJP_ROW_DIST r, 19, 0⟩
def EJP_ROW_DIST_EN (r : Nat) : Fld := ⟨EJP_ROW_DIST r, 31, 31⟩
/-- Offset of `EJP_ROW_LEAD`. -/
def EJP_ROW_LEAD (r : Nat) : Nat := 0x20104 + 0x20 * r
def EJP_ROW_LEAD_TICKS (r : Nat) : Fld := ⟨EJP_ROW_LEAD r, 25, 0⟩
/-- Offset of `EJP_ROW_FALLBACK`. -/
def EJP_ROW_FALLBACK (r : Nat) : Nat := 0x20108 + 0x20 * r
def EJP_ROW_FALLBACK_TICKS (r : Nat) : Fld := ⟨EJP_ROW_FALLBACK r, 31, 0⟩
/-- Offset of `EJP_ROW_MAP_A`. -/
def EJP_ROW_MAP_A (r : Nat) : Nat := 0x2010C + 0x20 * r
def EJP_ROW_MAP_A_FIRST_COL (r : Nat) : Fld := ⟨EJP_ROW_MAP_A r, 12, 0⟩
def EJP_ROW_MAP_A_COLS (r : Nat) : Fld := ⟨EJP_ROW_MAP_A r, 26, 16⟩
/-- Offset of `EJP_ROW_MAP_B`. -/
def EJP_ROW_MAP_B (r : Nat) : Nat := 0x20110 + 0x20 * r
def EJP_ROW_MAP_B_FIRST_JET (r : Nat) : Fld := ⟨EJP_ROW_MAP_B r, 7, 0⟩
def EJP_ROW_MAP_B_NJETS (r : Nat) : Fld := ⟨EJP_ROW_MAP_B r, 16, 8⟩
def EJP_ROW_MAP_B_MIN_OVL (r : Nat) : Fld := ⟨EJP_ROW_MAP_B r, 31, 24⟩
/-- Offset of `EJP_RULE`. -/
def EJP_RULE (i : Nat) : Nat := 0x20200 + 0x8 * i
def EJP_RULE_EN (i : Nat) : Fld := ⟨EJP_RULE i, 0, 0⟩
def EJP_RULE_GROUP (i : Nat) : Fld := ⟨EJP_RULE i, 3, 1⟩
def EJP_RULE_SRC (i : Nat) : Fld := ⟨EJP_RULE i, 6, 4⟩
def EJP_RULE_CMP (i : Nat) : Fld := ⟨EJP_RULE i, 7, 7⟩
def EJP_RULE_COMB (i : Nat) : Fld := ⟨EJP_RULE i, 8, 8⟩
def EJP_RULE_THRESH (i : Nat) : Fld := ⟨EJP_RULE i, 31, 16⟩
/-- Offset of `EJP_RULE_MASK`. -/
def EJP_RULE_MASK (i : Nat) : Nat := 0x20204 + 0x8 * i
def EJP_RULE_MASK_CLASSES (i : Nat) : Fld := ⟨EJP_RULE_MASK i, 15, 0⟩
/-- Offset of `EJP_DUR`. -/
def EJP_DUR (g : Nat) : Nat := 0x20300 + 0x8 * g
def EJP_DUR_BASE (g : Nat) : Fld := ⟨EJP_DUR g, 25, 0⟩
/-- Offset of `EJP_DUR_ROW`. -/
def EJP_DUR_ROW (g : Nat) : Nat := 0x20304 + 0x8 * g
def EJP_DUR_ROW_PER_ROW (g : Nat) : Fld := ⟨EJP_DUR_ROW g, 19, 0⟩
/-- Offset of `EJP_JET_EN`. -/
def EJP_JET_EN (g : Nat) : Nat := 0x20400 + 0x20 * g
def EJP_JET_EN_MASK (g : Nat) : Fld := ⟨EJP_JET_EN g, 31, 0⟩
/-- Offset of `EJP_FQ_LEVEL`. -/
def EJP_FQ_LEVEL (g : Nat) : Nat := 0x20404 + 0x20 * g
def EJP_FQ_LEVEL_COUNT (g : Nat) : Fld := ⟨EJP_FQ_LEVEL g, 7, 0⟩
/-- Offset of `EJP_CNT_CMD`. -/
def EJP_CNT_CMD (g : Nat) : Nat := 0x20408 + 0x20 * g
def EJP_CNT_CMD_COUNT (g : Nat) : Fld := ⟨EJP_CNT_CMD g, 31, 0⟩
/-- Offset of `EJP_CNT_GAP`. -/
def EJP_CNT_GAP (g : Nat) : Nat := 0x2040C + 0x20 * g
def EJP_CNT_GAP_COUNT (g : Nat) : Fld := ⟨EJP_CNT_GAP g, 15, 0⟩
/-- Offset of `EJP_CNT_FQ_FULL`. -/
def EJP_CNT_FQ_FULL (g : Nat) : Nat := 0x20410 + 0x20 * g
def EJP_CNT_FQ_FULL_COUNT (g : Nat) : Fld := ⟨EJP_CNT_FQ_FULL g, 15, 0⟩
/-- Offset of `EJP_CNT_LATE`. -/
def EJP_CNT_LATE (g : Nat) : Nat := 0x20414 + 0x20 * g
def EJP_CNT_LATE_COUNT (g : Nat) : Fld := ⟨EJP_CNT_LATE g, 15, 0⟩
/-- Offset of `EJP_CNT_NOGAL`. -/
def EJP_CNT_NOGAL (g : Nat) : Nat := 0x20418 + 0x20 * g
def EJP_CNT_NOGAL_COUNT (g : Nat) : Fld := ⟨EJP_CNT_NOGAL g, 15, 0⟩
/-- Offset of `EJP_CNT_DISABLED`. -/
def EJP_CNT_DISABLED (g : Nat) : Nat := 0x2041C + 0x20 * g
def EJP_CNT_DISABLED_COUNT (g : Nat) : Fld := ⟨EJP_CNT_DISABLED g, 15, 0⟩
/-- Offset of `HLK_CTRL`. -/
def HLK_CTRL : Nat := 0x24000
def HLK_CTRL_EN : Fld := ⟨HLK_CTRL, 0, 0⟩
def HLK_CTRL_ENUM : Fld := ⟨HLK_CTRL, 1, 1⟩
/-- Offset of `HLK_CYCLE`. -/
def HLK_CYCLE : Nat := 0x24004
def HLK_CYCLE_LENC : Fld := ⟨HLK_CYCLE, 12, 0⟩
/-- Offset of `HLK_STATUS`. -/
def HLK_STATUS : Nat := 0x24008
def HLK_STATUS_STATE : Fld := ⟨HLK_STATUS, 2, 0⟩
def HLK_STATUS_NSTA : Fld := ⟨HLK_STATUS, 7, 4⟩
def HLK_STATUS_RESULT : Fld := ⟨HLK_STATUS, 11, 8⟩
def HLK_STATUS_STRETCHED : Fld := ⟨HLK_STATUS, 12, 12⟩
def HLK_STATUS_CYC : Fld := ⟨HLK_STATUS, 23, 16⟩
/-- Offset of `HLK_LENC_EFF`. -/
def HLK_LENC_EFF : Nat := 0x2400C
def HLK_LENC_EFF_LENC : Fld := ⟨HLK_LENC_EFF, 12, 0⟩
/-- Offset of `HLK_ACC`. -/
def HLK_ACC : Nat := 0x24010
def HLK_ACC_TICKS : Fld := ⟨HLK_ACC, 15, 0⟩
/-- Offset of `HLK_LOOP`. -/
def HLK_LOOP : Nat := 0x24014
def HLK_LOOP_ENUM : Fld := ⟨HLK_LOOP, 15, 0⟩
def HLK_LOOP_LAST : Fld := ⟨HLK_LOOP, 31, 16⟩
/-- Offset of `HLK_FLAGS`. -/
def HLK_FLAGS : Nat := 0x24018
def HLK_FLAGS_MISSING : Fld := ⟨HLK_FLAGS, 7, 0⟩
def HLK_FLAGS_LOST : Fld := ⟨HLK_FLAGS, 15, 8⟩
def HLK_FLAGS_UNDELIV : Fld := ⟨HLK_FLAGS, 23, 16⟩
def HLK_FLAGS_RING_OPEN : Fld := ⟨HLK_FLAGS, 24, 24⟩
def HLK_FLAGS_DRIFT : Fld := ⟨HLK_FLAGS, 25, 25⟩
def HLK_FLAGS_ECHO : Fld := ⟨HLK_FLAGS, 26, 26⟩
def HLK_FLAGS_DUP : Fld := ⟨HLK_FLAGS, 27, 27⟩
def HLK_FLAGS_SILENT : Fld := ⟨HLK_FLAGS, 28, 28⟩
/-- Offset of `HLK_GREG_CTRL`. -/
def HLK_GREG_CTRL : Nat := 0x24020
def HLK_GREG_CTRL_GO : Fld := ⟨HLK_GREG_CTRL, 0, 0⟩
def HLK_GREG_CTRL_WRITE : Fld := ⟨HLK_GREG_CTRL, 1, 1⟩
def HLK_GREG_CTRL_GAL : Fld := ⟨HLK_GREG_CTRL, 6, 4⟩
def HLK_GREG_CTRL_ADDR : Fld := ⟨HLK_GREG_CTRL, 31, 16⟩
/-- Offset of `HLK_GREG_DATA`. -/
def HLK_GREG_DATA : Nat := 0x24024
def HLK_GREG_DATA_DATA : Fld := ⟨HLK_GREG_DATA, 31, 0⟩
/-- Offset of `HLK_GREG_STATUS`. -/
def HLK_GREG_STATUS : Nat := 0x24028
def HLK_GREG_STATUS_BUSY : Fld := ⟨HLK_GREG_STATUS, 0, 0⟩
def HLK_GREG_STATUS_DONE : Fld := ⟨HLK_GREG_STATUS, 1, 1⟩
def HLK_GREG_STATUS_FAIL : Fld := ⟨HLK_GREG_STATUS, 2, 2⟩
/-- Offset of `HLK_CNT_CYCLES`. -/
def HLK_CNT_CYCLES : Nat := 0x24040
def HLK_CNT_CYCLES_COUNT : Fld := ⟨HLK_CNT_CYCLES, 31, 0⟩
/-- Offset of `HLK_CNT_CHAR_ERR`. -/
def HLK_CNT_CHAR_ERR : Nat := 0x24044
def HLK_CNT_CHAR_ERR_COUNT : Fld := ⟨HLK_CNT_CHAR_ERR, 31, 0⟩
/-- Offset of `HLK_CNT_ECHO_ERR`. -/
def HLK_CNT_ECHO_ERR : Nat := 0x24048
def HLK_CNT_ECHO_ERR_COUNT : Fld := ⟨HLK_CNT_ECHO_ERR, 15, 0⟩
/-- Offset of `HLK_CNT_ABORT`. -/
def HLK_CNT_ABORT : Nat := 0x2404C
def HLK_CNT_ABORT_COUNT : Fld := ⟨HLK_CNT_ABORT, 15, 0⟩
/-- Offset of `HLK_CNT_ENUM`. -/
def HLK_CNT_ENUM : Nat := 0x24050
def HLK_CNT_ENUM_COUNT : Fld := ⟨HLK_CNT_ENUM, 15, 0⟩
/-- Offset of `HLK_POS`. -/
def HLK_POS (j : Nat) : Nat := 0x24080 + 0x4 * j
def HLK_POS_RTT (j : Nat) : Fld := ⟨HLK_POS j, 15, 0⟩
def HLK_POS_ADDR (j : Nat) : Fld := ⟨HLK_POS j, 18, 16⟩
def HLK_POS_ANSWERED (j : Nat) : Fld := ⟨HLK_POS j, 19, 19⟩
def HLK_POS_DUP (j : Nat) : Fld := ⟨HLK_POS j, 20, 20⟩
/-- Offset of `HLK_STA`. -/
def HLK_STA (g : Nat) : Nat := 0x24100 + 0x40 * g
def HLK_STA_STATE (g : Nat) : Fld := ⟨HLK_STA g, 1, 0⟩
def HLK_STA_POS (g : Nat) : Fld := ⟨HLK_STA g, 7, 4⟩
def HLK_STA_SLOT (g : Nat) : Fld := ⟨HLK_STA g, 10, 8⟩
def HLK_STA_STAT (g : Nat) : Fld := ⟨HLK_STA g, 15, 12⟩
def HLK_STA_INPUTS (g : Nat) : Fld := ⟨HLK_STA g, 23, 16⟩
def HLK_STA_CYC (g : Nat) : Fld := ⟨HLK_STA g, 31, 24⟩
/-- Offset of `HLK_STA_DELAY`. -/
def HLK_STA_DELAY (g : Nat) : Nat := 0x24104 + 0x40 * g
def HLK_STA_DELAY_D (g : Nat) : Fld := ⟨HLK_STA_DELAY g, 15, 0⟩
/-- Offset of `HLK_STA_ON`. -/
def HLK_STA_ON (g : Nat) : Nat := 0x24108 + 0x40 * g
def HLK_STA_ON_MASK (g : Nat) : Fld := ⟨HLK_STA_ON g, 31, 0⟩
/-- Offset of `HLK_STA_PEAK`. -/
def HLK_STA_PEAK (g : Nat) : Nat := 0x2410C + 0x40 * g
def HLK_STA_PEAK_MASK (g : Nat) : Fld := ⟨HLK_STA_PEAK g, 31, 0⟩
/-- Offset of `HLK_STA_ACK`. -/
def HLK_STA_ACK (g : Nat) : Nat := 0x24110 + 0x40 * g
def HLK_STA_ACK_SEQ (g : Nat) : Fld := ⟨HLK_STA_ACK g, 15, 0⟩
/-- Offset of `HLK_STA_STRAP`. -/
def HLK_STA_STRAP (g : Nat) : Nat := 0x24114 + 0x40 * g
def HLK_STA_STRAP_STRAP (g : Nat) : Fld := ⟨HLK_STA_STRAP g, 31, 0⟩
/-- Offset of `HLK_STA_ID`. -/
def HLK_STA_ID (g : Nat) : Nat := 0x24118 + 0x40 * g
def HLK_STA_ID_MODEL (g : Nat) : Fld := ⟨HLK_STA_ID g, 15, 0⟩
def HLK_STA_ID_REV (g : Nat) : Fld := ⟨HLK_STA_ID g, 23, 16⟩
/-- Offset of `HLK_OUT`. -/
def HLK_OUT (g : Nat) : Nat := 0x2411C + 0x40 * g
def HLK_OUT_CUT (g : Nat) : Fld := ⟨HLK_OUT g, 0, 0⟩
/-- Offset of `HLK_CNT_MISS`. -/
def HLK_CNT_MISS (g : Nat) : Nat := 0x24120 + 0x40 * g
def HLK_CNT_MISS_COUNT (g : Nat) : Fld := ⟨HLK_CNT_MISS g, 15, 0⟩
/-- Offset of `HLK_CNT_FRAME_ERR`. -/
def HLK_CNT_FRAME_ERR (g : Nat) : Nat := 0x24124 + 0x40 * g
def HLK_CNT_FRAME_ERR_COUNT (g : Nat) : Fld := ⟨HLK_CNT_FRAME_ERR g, 15, 0⟩
/-- Offset of `HLK_CNT_RESEND`. -/
def HLK_CNT_RESEND (g : Nat) : Nat := 0x24128 + 0x40 * g
def HLK_CNT_RESEND_COUNT (g : Nat) : Fld := ⟨HLK_CNT_RESEND g, 31, 0⟩
/-- Offset of `HLK_CNT_UNDELIV`. -/
def HLK_CNT_UNDELIV (g : Nat) : Nat := 0x2412C + 0x40 * g
def HLK_CNT_UNDELIV_COUNT (g : Nat) : Fld := ⟨HLK_CNT_UNDELIV g, 15, 0⟩
/-- Offset of `HLK_CNT_INDOUBT`. -/
def HLK_CNT_INDOUBT (g : Nat) : Nat := 0x24130 + 0x40 * g
def HLK_CNT_INDOUBT_COUNT (g : Nat) : Fld := ⟨HLK_CNT_INDOUBT g, 15, 0⟩
/-- Offset of `MON_CTRL`. -/
def MON_CTRL (m : Nat) : Nat := 0x28000 + 0x20 * m
def MON_CTRL_EN (m : Nat) : Fld := ⟨MON_CTRL m, 0, 0⟩
def MON_CTRL_STREAM (m : Nat) : Fld := ⟨MON_CTRL m, 1, 1⟩
/-- Offset of `MON_CFG`. -/
def MON_CFG (m : Nat) : Nat := 0x28004 + 0x20 * m
def MON_CFG_DECIM (m : Nat) : Fld := ⟨MON_CFG m, 12, 0⟩
def MON_CFG_SYNC (m : Nat) : Fld := ⟨MON_CFG m, 17, 16⟩
def MON_CFG_PICK (m : Nat) : Fld := ⟨MON_CFG m, 23, 20⟩
/-- Offset of `MON_RESULT_LO`. -/
def MON_RESULT_LO (m : Nat) : Nat := 0x28008 + 0x20 * m
def MON_RESULT_LO_VALUE (m : Nat) : Fld := ⟨MON_RESULT_LO m, 23, 0⟩
def MON_RESULT_LO_SEQ (m : Nat) : Fld := ⟨MON_RESULT_LO m, 31, 24⟩
/-- Offset of `MON_RESULT_HI`. -/
def MON_RESULT_HI (m : Nat) : Nat := 0x2800C + 0x20 * m
def MON_RESULT_HI_TIME (m : Nat) : Fld := ⟨MON_RESULT_HI m, 31, 0⟩
/-- Offset of `MON_STATUS`. -/
def MON_STATUS (m : Nat) : Nat := 0x28010 + 0x20 * m
def MON_STATUS_SETTLING (m : Nat) : Fld := ⟨MON_STATUS m, 0, 0⟩
def MON_STATUS_INDEX (m : Nat) : Fld := ⟨MON_STATUS m, 15, 8⟩
/-- Offset of `MON_LIMIT`. -/
def MON_LIMIT (m : Nat) : Nat := 0x28014 + 0x20 * m
def MON_LIMIT_LOW (m : Nat) : Fld := ⟨MON_LIMIT m, 15, 0⟩
def MON_LIMIT_HIGH (m : Nat) : Fld := ⟨MON_LIMIT m, 31, 16⟩
/-- Offset of `MON_CNT_SYNC`. -/
def MON_CNT_SYNC (m : Nat) : Nat := 0x28018 + 0x20 * m
def MON_CNT_SYNC_COUNT (m : Nat) : Fld := ⟨MON_CNT_SYNC m, 15, 0⟩
/-- Offset of `MON_CNT_LIMIT`. -/
def MON_CNT_LIMIT (m : Nat) : Nat := 0x2801C + 0x20 * m
def MON_CNT_LIMIT_COUNT (m : Nat) : Fld := ⟨MON_CNT_LIMIT m, 15, 0⟩
/-- Offset of `MON_STREAM`. -/
def MON_STREAM : Nat := 0x28100
def MON_STREAM_QUEUE : Fld := ⟨MON_STREAM, 5, 0⟩
def MON_STREAM_BLOCK : Fld := ⟨MON_STREAM, 22, 16⟩
/-- Offset of `MON_FLAGS`. -/
def MON_FLAGS : Nat := 0x28104
def MON_FLAGS_LIMIT : Fld := ⟨MON_FLAGS, 7, 0⟩
def MON_FLAGS_SKIP : Fld := ⟨MON_FLAGS, 8, 8⟩
/-- Offset of `MON_CNT_SKIP`. -/
def MON_CNT_SKIP : Nat := 0x28108
def MON_CNT_SKIP_COUNT : Fld := ⟨MON_CNT_SKIP, 31, 0⟩
/-- Offset of `MON_STREAM_SEQ`. -/
def MON_STREAM_SEQ : Nat := 0x2810C
def MON_STREAM_SEQ_COUNT : Fld := ⟨MON_STREAM_SEQ, 15, 0⟩
/-- Offset of `ILM_STROBE_CTRL`. -/
def ILM_STROBE_CTRL (k : Nat) : Nat := 0x2C000 + 0x20 * k
def ILM_STROBE_CTRL_EN (k : Nat) : Fld := ⟨ILM_STROBE_CTRL k, 0, 0⟩
def ILM_STROBE_CTRL_SRC (k : Nat) : Fld := ⟨ILM_STROBE_CTRL k, 2, 1⟩
def ILM_STROBE_CTRL_POL (k : Nat) : Fld := ⟨ILM_STROBE_CTRL k, 3, 3⟩
def ILM_STROBE_CTRL_CAM (k : Nat) : Fld := ⟨ILM_STROBE_CTRL k, 4, 4⟩
def ILM_STROBE_CTRL_FLAG (k : Nat) : Fld := ⟨ILM_STROBE_CTRL k, 12, 8⟩
/-- Offset of `ILM_STROBE_TIME`. -/
def ILM_STROBE_TIME (k : Nat) : Nat := 0x2C004 + 0x20 * k
def ILM_STROBE_TIME_LEAD (k : Nat) : Fld := ⟨ILM_STROBE_TIME k, 15, 0⟩
def ILM_STROBE_TIME_LAG (k : Nat) : Fld := ⟨ILM_STROBE_TIME k, 31, 16⟩
/-- Offset of `ILM_STROBE_POFS`. -/
def ILM_STROBE_POFS (k : Nat) : Nat := 0x2C008 + 0x20 * k
def ILM_STROBE_POFS_TICKS (k : Nat) : Fld := ⟨ILM_STROBE_POFS k, 31, 0⟩
/-- Offset of `ILM_STROBE_PLEN`. -/
def ILM_STROBE_PLEN (k : Nat) : Nat := 0x2C00C + 0x20 * k
def ILM_STROBE_PLEN_TICKS (k : Nat) : Fld := ⟨ILM_STROBE_PLEN k, 31, 0⟩
/-- Offset of `ILM_STROBE_MAXHIGH`. -/
def ILM_STROBE_MAXHIGH (k : Nat) : Nat := 0x2C010 + 0x20 * k
def ILM_STROBE_MAXHIGH_TICKS (k : Nat) : Fld := ⟨ILM_STROBE_MAXHIGH k, 25, 0⟩
/-- Offset of `ILM_CNT_LEAD_CLIP`. -/
def ILM_CNT_LEAD_CLIP (k : Nat) : Nat := 0x2C014 + 0x20 * k
def ILM_CNT_LEAD_CLIP_COUNT (k : Nat) : Fld := ⟨ILM_CNT_LEAD_CLIP k, 15, 0⟩
/-- Offset of `ILM_CNT_MAXHIGH`. -/
def ILM_CNT_MAXHIGH (k : Nat) : Nat := 0x2C018 + 0x20 * k
def ILM_CNT_MAXHIGH_COUNT (k : Nat) : Fld := ⟨ILM_CNT_MAXHIGH k, 15, 0⟩
/-- Offset of `ILM_ISET_CODE`. -/
def ILM_ISET_CODE (j : Nat) : Nat := 0x2C100 + 0x10 * j
def ILM_ISET_CODE_CODE (j : Nat) : Fld := ⟨ILM_ISET_CODE j, 11, 0⟩
/-- Offset of `ILM_ISET_CTRL`. -/
def ILM_ISET_CTRL (j : Nat) : Nat := 0x2C104 + 0x10 * j
def ILM_ISET_CTRL_RANGE (j : Nat) : Fld := ⟨ILM_ISET_CTRL j, 0, 0⟩
/-- Offset of `ILM_SETPOINT_CEIL`. -/
def ILM_SETPOINT_CEIL (j : Nat) : Nat := 0x2C108 + 0x10 * j
def ILM_SETPOINT_CEIL_CODE (j : Nat) : Fld := ⟨ILM_SETPOINT_CEIL j, 11, 0⟩
/-- Offset of `ILM_ISET_EFF`. -/
def ILM_ISET_EFF (j : Nat) : Nat := 0x2C10C + 0x10 * j
def ILM_ISET_EFF_CODE (j : Nat) : Fld := ⟨ILM_ISET_EFF j, 11, 0⟩
def ILM_ISET_EFF_RANGE (j : Nat) : Fld := ⟨ILM_ISET_EFF j, 12, 12⟩
def ILM_ISET_EFF_DEAD (j : Nat) : Fld := ⟨ILM_ISET_EFF j, 13, 13⟩
def ILM_ISET_EFF_LIMITER (j : Nat) : Fld := ⟨ILM_ISET_EFF j, 15, 14⟩
/-- Offset of `ILM_RANGE_PERMIT`. -/
def ILM_RANGE_PERMIT : Nat := 0x2C200
def ILM_RANGE_PERMIT_MASK : Fld := ⟨ILM_RANGE_PERMIT, 3, 0⟩
/-- Offset of `ILM_FLAGS`. -/
def ILM_FLAGS : Nat := 0x2C204
def ILM_FLAGS_LEAD_CLIP : Fld := ⟨ILM_FLAGS, 3, 0⟩
def ILM_FLAGS_MAXHIGH : Fld := ⟨ILM_FLAGS, 7, 4⟩
/-- Offset of `PIO_START`. -/
def PIO_START : Nat := 0x30000
def PIO_START_MASK : Fld := ⟨PIO_START, 15, 0⟩
/-- Offset of `PIO_STOP`. -/
def PIO_STOP : Nat := 0x30004
def PIO_STOP_MASK : Fld := ⟨PIO_STOP, 15, 0⟩
/-- Offset of `PIO_RUNNING`. -/
def PIO_RUNNING : Nat := 0x30008
def PIO_RUNNING_MASK : Fld := ⟨PIO_RUNNING, 15, 0⟩
/-- Offset of `PIO_PIN_IN`. -/
def PIO_PIN_IN : Nat := 0x3000C
def PIO_PIN_IN_LEVELS : Fld := ⟨PIO_PIN_IN, 23, 0⟩
/-- Offset of `PIO_RXPOP`. -/
def PIO_RXPOP : Nat := 0x30010
def PIO_RXPOP_MASK : Fld := ⟨PIO_RXPOP, 15, 0⟩
/-- Offset of `PIO_SHFLAG_SET`. -/
def PIO_SHFLAG_SET : Nat := 0x30014
def PIO_SHFLAG_SET_FLAGS : Fld := ⟨PIO_SHFLAG_SET, 31, 0⟩
/-- Offset of `PIO_SHFLAG_CLR`. -/
def PIO_SHFLAG_CLR : Nat := 0x30018
def PIO_SHFLAG_CLR_FLAGS : Fld := ⟨PIO_SHFLAG_CLR, 31, 0⟩
/-- Offset of `PIO_PIN_CFG`. -/
def PIO_PIN_CFG (n : Nat) : Nat := 0x30080 + 0x4 * n
def PIO_PIN_CFG_OWNER (n : Nat) : Fld := ⟨PIO_PIN_CFG n, 3, 0⟩
def PIO_PIN_CFG_DIR (n : Nat) : Fld := ⟨PIO_PIN_CFG n, 4, 4⟩
def PIO_PIN_CFG_INIT (n : Nat) : Fld := ⟨PIO_PIN_CFG n, 5, 5⟩
def PIO_PIN_CFG_PULL (n : Nat) : Fld := ⟨PIO_PIN_CFG n, 7, 6⟩
/-- Offset of `PIO_CLKDIV`. -/
def PIO_CLKDIV (e : Nat) : Nat := 0x30100 + 0x40 * e
def PIO_CLKDIV_D (e : Nat) : Fld := ⟨PIO_CLKDIV e, 15, 0⟩
/-- Offset of `PIO_EXEC`. -/
def PIO_EXEC (e : Nat) : Nat := 0x30104 + 0x40 * e
def PIO_EXEC_START (e : Nat) : Fld := ⟨PIO_EXEC e, 5, 0⟩
def PIO_EXEC_LOOP_FROM (e : Nat) : Fld := ⟨PIO_EXEC e, 13, 8⟩
def PIO_EXEC_LOOP_TO (e : Nat) : Fld := ⟨PIO_EXEC e, 21, 16⟩
def PIO_EXEC_SHIFT (e : Nat) : Fld := ⟨PIO_EXEC e, 24, 24⟩
def PIO_EXEC_BANK (e : Nat) : Fld := ⟨PIO_EXEC e, 25, 25⟩
def PIO_EXEC_TEST_PIN (e : Nat) : Fld := ⟨PIO_EXEC e, 30, 26⟩
/-- Offset of `PIO_PINS`. -/
def PIO_PINS (e : Nat) : Nat := 0x30108 + 0x40 * e
def PIO_PINS_READ_BASE (e : Nat) : Fld := ⟨PIO_PINS e, 4, 0⟩
def PIO_PINS_DRIVE_BASE (e : Nat) : Fld := ⟨PIO_PINS e, 12, 8⟩
def PIO_PINS_DRIVE_COUNT (e : Nat) : Fld := ⟨PIO_PINS e, 20, 16⟩
def PIO_PINS_PUT_BASE (e : Nat) : Fld := ⟨PIO_PINS e, 28, 24⟩
def PIO_PINS_PUT_COUNT (e : Nat) : Fld := ⟨PIO_PINS e, 31, 29⟩
/-- Offset of `PIO_QCFG`. -/
def PIO_QCFG (e : Nat) : Nat := 0x3010C + 0x40 * e
def PIO_QCFG_JOIN (e : Nat) : Fld := ⟨PIO_QCFG e, 1, 0⟩
def PIO_QCFG_RXMAIL (e : Nat) : Fld := ⟨PIO_QCFG e, 2, 2⟩
def PIO_QCFG_CLR (e : Nat) : Fld := ⟨PIO_QCFG e, 3, 3⟩
/-- Offset of `PIO_QSTAT`. -/
def PIO_QSTAT (e : Nat) : Nat := 0x30110 + 0x40 * e
def PIO_QSTAT_TX (e : Nat) : Fld := ⟨PIO_QSTAT e, 3, 0⟩
def PIO_QSTAT_RX (e : Nat) : Fld := ⟨PIO_QSTAT e, 11, 8⟩
/-- Offset of `PIO_TXD`. -/
def PIO_TXD (e : Nat) : Nat := 0x30114 + 0x40 * e
def PIO_TXD_DATA (e : Nat) : Fld := ⟨PIO_TXD e, 31, 0⟩
/-- Offset of `PIO_RXD`. -/
def PIO_RXD (e : Nat) : Nat := 0x30118 + 0x40 * e
def PIO_RXD_DATA (e : Nat) : Fld := ⟨PIO_RXD e, 31, 0⟩
/-- Offset of `PIO_RXT`. -/
def PIO_RXT (e : Nat) : Nat := 0x3011C + 0x40 * e
def PIO_RXT_TIME (e : Nat) : Fld := ⟨PIO_RXT e, 31, 0⟩
/-- Offset of `PIO_CMP`. -/
def PIO_CMP (e : Nat) : Nat := 0x30120 + 0x40 * e
def PIO_CMP_VALUE (e : Nat) : Fld := ⟨PIO_CMP e, 31, 0⟩
/-- Offset of `PIO_ERR`. -/
def PIO_ERR (e : Nat) : Nat := 0x30124 + 0x40 * e
def PIO_ERR_TXU (e : Nat) : Fld := ⟨PIO_ERR e, 0, 0⟩
def PIO_ERR_TXO (e : Nat) : Fld := ⟨PIO_ERR e, 1, 1⟩
def PIO_ERR_RXU (e : Nat) : Fld := ⟨PIO_ERR e, 2, 2⟩
def PIO_ERR_RXO (e : Nat) : Fld := ⟨PIO_ERR e, 3, 3⟩
def PIO_ERR_ILLEGAL (e : Nat) : Fld := ⟨PIO_ERR e, 4, 4⟩
/-- Offset of `PIO_DBG`. -/
def PIO_DBG (e : Nat) : Nat := 0x30128 + 0x40 * e
def PIO_DBG_PC (e : Nat) : Fld := ⟨PIO_DBG e, 5, 0⟩
def PIO_DBG_STOPPED_IN (e : Nat) : Fld := ⟨PIO_DBG e, 9, 8⟩
/-- Offset of `PIO_DBG_SR`. -/
def PIO_DBG_SR (e : Nat) : Nat := 0x3012C + 0x40 * e
def PIO_DBG_SR_SR (e : Nat) : Fld := ⟨PIO_DBG_SR e, 31, 0⟩
/-- Offset of `PIO_CNT_UNDER`. -/
def PIO_CNT_UNDER (e : Nat) : Nat := 0x30130 + 0x40 * e
def PIO_CNT_UNDER_COUNT (e : Nat) : Fld := ⟨PIO_CNT_UNDER e, 15, 0⟩
/-- Offset of `PIO_CNT_OVER`. -/
def PIO_CNT_OVER (e : Nat) : Nat := 0x30134 + 0x40 * e
def PIO_CNT_OVER_COUNT (e : Nat) : Fld := ⟨PIO_CNT_OVER e, 15, 0⟩
/-- Offset of `PIO_PROG`. -/
def PIO_PROG (e : Nat) (b : Nat) (i : Nat) : Nat := 0x31000 + 0x200 * e + 0x100 * b + 0x4 * i
def PIO_PROG_INSTR (e : Nat) (b : Nat) (i : Nat) : Fld := ⟨PIO_PROG e b i, 15, 0⟩
/-- Offset of `HAL_Q_CTRL`. -/
def HAL_Q_CTRL (q : Nat) : Nat := 0x34000 + 0x40 * q
def HAL_Q_CTRL_EN (q : Nat) : Fld := ⟨HAL_Q_CTRL q, 0, 0⟩
def HAL_Q_CTRL_PROT (q : Nat) : Fld := ⟨HAL_Q_CTRL q, 2, 1⟩
def HAL_Q_CTRL_WMODE (q : Nat) : Fld := ⟨HAL_Q_CTRL q, 5, 4⟩
/-- Offset of `HAL_Q_SIZE`. -/
def HAL_Q_SIZE (q : Nat) : Nat := 0x34004 + 0x40 * q
def HAL_Q_SIZE_RESV (q : Nat) : Fld := ⟨HAL_Q_SIZE q, 13, 0⟩
def HAL_Q_SIZE_CEIL (q : Nat) : Fld := ⟨HAL_Q_SIZE q, 29, 16⟩
/-- Offset of `HAL_Q_WM`. -/
def HAL_Q_WM (q : Nat) : Nat := 0x34008 + 0x40 * q
def HAL_Q_WM_LOW (q : Nat) : Fld := ⟨HAL_Q_WM q, 13, 0⟩
def HAL_Q_WM_HIGH (q : Nat) : Fld := ⟨HAL_Q_WM q, 29, 16⟩
/-- Offset of `HAL_Q_STAT`. -/
def HAL_Q_STAT (q : Nat) : Nat := 0x3400C + 0x40 * q
def HAL_Q_STAT_LEVEL (q : Nat) : Fld := ⟨HAL_Q_STAT q, 13, 0⟩
def HAL_Q_STAT_PKTS (q : Nat) : Fld := ⟨HAL_Q_STAT q, 29, 16⟩
def HAL_Q_STAT_OPEN (q : Nat) : Fld := ⟨HAL_Q_STAT q, 30, 30⟩
def HAL_Q_STAT_ABOVE (q : Nat) : Fld := ⟨HAL_Q_STAT q, 31, 31⟩
/-- Offset of `HAL_Q_AVAIL`. -/
def HAL_Q_AVAIL (q : Nat) : Nat := 0x34010 + 0x40 * q
def HAL_Q_AVAIL_CELLS (q : Nat) : Fld := ⟨HAL_Q_AVAIL q, 13, 0⟩
/-- Offset of `HAL_CNT_PKTS`. -/
def HAL_CNT_PKTS (q : Nat) : Nat := 0x34014 + 0x40 * q
def HAL_CNT_PKTS_COUNT (q : Nat) : Fld := ⟨HAL_CNT_PKTS q, 31, 0⟩
/-- Offset of `HAL_CNT_BP`. -/
def HAL_CNT_BP (q : Nat) : Nat := 0x34018 + 0x40 * q
def HAL_CNT_BP_COUNT (q : Nat) : Fld := ⟨HAL_CNT_BP q, 31, 0⟩
/-- Offset of `HAL_CNT_WM`. -/
def HAL_CNT_WM (q : Nat) : Nat := 0x3401C + 0x40 * q
def HAL_CNT_WM_COUNT (q : Nat) : Fld := ⟨HAL_CNT_WM q, 15, 0⟩
/-- Offset of `HAL_CNT_QRESET`. -/
def HAL_CNT_QRESET (q : Nat) : Nat := 0x34020 + 0x40 * q
def HAL_CNT_QRESET_COUNT (q : Nat) : Fld := ⟨HAL_CNT_QRESET q, 15, 0⟩
/-- Offset of `HAL_CNT_RESET_PKTS`. -/
def HAL_CNT_RESET_PKTS (q : Nat) : Nat := 0x34024 + 0x40 * q
def HAL_CNT_RESET_PKTS_COUNT (q : Nat) : Fld := ⟨HAL_CNT_RESET_PKTS q, 31, 0⟩
/-- Offset of `HAL_CNT_CORR`. -/
def HAL_CNT_CORR (q : Nat) : Nat := 0x34028 + 0x40 * q
def HAL_CNT_CORR_COUNT (q : Nat) : Fld := ⟨HAL_CNT_CORR q, 31, 0⟩
/-- Offset of `HAL_CNT_UNCORR`. -/
def HAL_CNT_UNCORR (q : Nat) : Nat := 0x3402C + 0x40 * q
def HAL_CNT_UNCORR_COUNT (q : Nat) : Fld := ⟨HAL_CNT_UNCORR q, 15, 0⟩
/-- Offset of `HAL_POOL`. -/
def HAL_POOL : Nat := 0x35000
def HAL_POOL_FREE : Fld := ⟨HAL_POOL, 13, 0⟩
def HAL_POOL_SHARED : Fld := ⟨HAL_POOL, 29, 16⟩
/-- Offset of `HAL_CNT_FREELIST`. -/
def HAL_CNT_FREELIST : Nat := 0x35004
def HAL_CNT_FREELIST_COUNT : Fld := ⟨HAL_CNT_FREELIST, 15, 0⟩
/-- Offset of `HAL_FLOW_MAP`. -/
def HAL_FLOW_MAP (n : Nat) : Nat := 0x35020 + 0x4 * n
def HAL_FLOW_MAP_QUEUE (n : Nat) : Fld := ⟨HAL_FLOW_MAP n, 5, 0⟩
def HAL_FLOW_MAP_EN (n : Nat) : Fld := ⟨HAL_FLOW_MAP n, 8, 8⟩
def HAL_FLOW_MAP_INV (n : Nat) : Fld := ⟨HAL_FLOW_MAP n, 9, 9⟩
/-- Offset of `HAL_WM_RISE_LO`. -/
def HAL_WM_RISE_LO : Nat := 0x35040
def HAL_WM_RISE_LO_MASK : Fld := ⟨HAL_WM_RISE_LO, 31, 0⟩
/-- Offset of `HAL_WM_RISE_HI`. -/
def HAL_WM_RISE_HI : Nat := 0x35044
def HAL_WM_RISE_HI_MASK : Fld := ⟨HAL_WM_RISE_HI, 31, 0⟩
/-- Offset of `HAL_WM_FALL_LO`. -/
def HAL_WM_FALL_LO : Nat := 0x35048
def HAL_WM_FALL_LO_MASK : Fld := ⟨HAL_WM_FALL_LO, 31, 0⟩
/-- Offset of `HAL_WM_FALL_HI`. -/
def HAL_WM_FALL_HI : Nat := 0x3504C
def HAL_WM_FALL_HI_MASK : Fld := ⟨HAL_WM_FALL_HI, 31, 0⟩
/-- Offset of `HAL_QRESET_LO`. -/
def HAL_QRESET_LO : Nat := 0x35050
def HAL_QRESET_LO_MASK : Fld := ⟨HAL_QRESET_LO, 31, 0⟩
/-- Offset of `HAL_QRESET_HI`. -/
def HAL_QRESET_HI : Nat := 0x35054
def HAL_QRESET_HI_MASK : Fld := ⟨HAL_QRESET_HI, 31, 0⟩
/-- Offset of `HAL_UNCORR_LO`. -/
def HAL_UNCORR_LO : Nat := 0x35058
def HAL_UNCORR_LO_MASK : Fld := ⟨HAL_UNCORR_LO, 31, 0⟩
/-- Offset of `HAL_UNCORR_HI`. -/
def HAL_UNCORR_HI : Nat := 0x3505C
def HAL_UNCORR_HI_MASK : Fld := ⟨HAL_UNCORR_HI, 31, 0⟩
/-- Offset of `USH_DOORBELL`. -/
def USH_DOORBELL (s : Nat) : Nat := 0x38000 + 0x4 * s
def USH_DOORBELL_TAIL (s : Nat) : Fld := ⟨USH_DOORBELL s, 16, 0⟩
/-- Offset of `USH_SQ_BASE_LO`. -/
def USH_SQ_BASE_LO (s : Nat) : Nat := 0x39000 + 0x20 * s
def USH_SQ_BASE_LO_ADDR (s : Nat) : Fld := ⟨USH_SQ_BASE_LO s, 31, 6⟩
/-- Offset of `USH_SQ_BASE_HI`. -/
def USH_SQ_BASE_HI (s : Nat) : Nat := 0x39004 + 0x20 * s
def USH_SQ_BASE_HI_ADDR (s : Nat) : Fld := ⟨USH_SQ_BASE_HI s, 31, 0⟩
/-- Offset of `USH_SQ_CTRL`. -/
def USH_SQ_CTRL (s : Nat) : Nat := 0x39008 + 0x20 * s
def USH_SQ_CTRL_EN (s : Nat) : Fld := ⟨USH_SQ_CTRL s, 0, 0⟩
def USH_SQ_CTRL_PRIO (s : Nat) : Fld := ⟨USH_SQ_CTRL s, 2, 1⟩
def USH_SQ_CTRL_HALT_ERR (s : Nat) : Fld := ⟨USH_SQ_CTRL s, 3, 3⟩
def USH_SQ_CTRL_SIZE_LOG2 (s : Nat) : Fld := ⟨USH_SQ_CTRL s, 12, 8⟩
def USH_SQ_CTRL_RESUME (s : Nat) : Fld := ⟨USH_SQ_CTRL s, 16, 16⟩
/-- Offset of `USH_SQ_STATUS`. -/
def USH_SQ_STATUS (s : Nat) : Nat := 0x3900C + 0x20 * s
def USH_SQ_STATUS_HEAD (s : Nat) : Fld := ⟨USH_SQ_STATUS s, 16, 0⟩
def USH_SQ_STATUS_STATE (s : Nat) : Fld := ⟨USH_SQ_STATUS s, 22, 20⟩
/-- Offset of `USH_CQ_BASE_LO`. -/
def USH_CQ_BASE_LO (c : Nat) : Nat := 0x39400 + 0x20 * c
def USH_CQ_BASE_LO_ADDR (c : Nat) : Fld := ⟨USH_CQ_BASE_LO c, 31, 6⟩
/-- Offset of `USH_CQ_BASE_HI`. -/
def USH_CQ_BASE_HI (c : Nat) : Nat := 0x39404 + 0x20 * c
def USH_CQ_BASE_HI_ADDR (c : Nat) : Fld := ⟨USH_CQ_BASE_HI c, 31, 0⟩
/-- Offset of `USH_CQ_CTRL`. -/
def USH_CQ_CTRL (c : Nat) : Nat := 0x39408 + 0x20 * c
def USH_CQ_CTRL_EN (c : Nat) : Fld := ⟨USH_CQ_CTRL c, 0, 0⟩
def USH_CQ_CTRL_SIZE_LOG2 (c : Nat) : Fld := ⟨USH_CQ_CTRL c, 12, 8⟩
def USH_CQ_CTRL_VECTOR (c : Nat) : Fld := ⟨USH_CQ_CTRL c, 20, 16⟩
/-- Offset of `USH_CQ_IRQ`. -/
def USH_CQ_IRQ (c : Nat) : Nat := 0x3940C + 0x20 * c
def USH_CQ_IRQ_COUNT (c : Nat) : Fld := ⟨USH_CQ_IRQ c, 3, 0⟩
def USH_CQ_IRQ_TIME_US (c : Nat) : Fld := ⟨USH_CQ_IRQ c, 31, 16⟩
/-- Offset of `USH_CQ_HEAD`. -/
def USH_CQ_HEAD (c : Nat) : Nat := 0x39410 + 0x20 * c
def USH_CQ_HEAD_HEAD (c : Nat) : Fld := ⟨USH_CQ_HEAD c, 16, 0⟩
/-- Offset of `USH_CQ_STATUS`. -/
def USH_CQ_STATUS (c : Nat) : Nat := 0x39414 + 0x20 * c
def USH_CQ_STATUS_TAIL (c : Nat) : Fld := ⟨USH_CQ_STATUS c, 16, 0⟩
/-- Offset of `USH_CQ_RESV`. -/
def USH_CQ_RESV (c : Nat) : Nat := 0x39418 + 0x20 * c
def USH_CQ_RESV_RESERVED (c : Nat) : Fld := ⟨USH_CQ_RESV c, 16, 0⟩
/-- Offset of `USH_NQ_BASE_LO`. -/
def USH_NQ_BASE_LO (n : Nat) : Nat := 0x39600 + 0x20 * n
def USH_NQ_BASE_LO_ADDR (n : Nat) : Fld := ⟨USH_NQ_BASE_LO n, 31, 6⟩
/-- Offset of `USH_NQ_BASE_HI`. -/
def USH_NQ_BASE_HI (n : Nat) : Nat := 0x39604 + 0x20 * n
def USH_NQ_BASE_HI_ADDR (n : Nat) : Fld := ⟨USH_NQ_BASE_HI n, 31, 0⟩
/-- Offset of `USH_NQ_CTRL`. -/
def USH_NQ_CTRL (n : Nat) : Nat := 0x39608 + 0x20 * n
def USH_NQ_CTRL_EN (n : Nat) : Fld := ⟨USH_NQ_CTRL n, 0, 0⟩
def USH_NQ_CTRL_SIZE_LOG2 (n : Nat) : Fld := ⟨USH_NQ_CTRL n, 12, 8⟩
def USH_NQ_CTRL_VECTOR (n : Nat) : Fld := ⟨USH_NQ_CTRL n, 20, 16⟩
/-- Offset of `USH_NQ_HEAD`. -/
def USH_NQ_HEAD (n : Nat) : Nat := 0x39610 + 0x20 * n
def USH_NQ_HEAD_HEAD (n : Nat) : Fld := ⟨USH_NQ_HEAD n, 16, 0⟩
/-- Offset of `USH_NQ_STATUS`. -/
def USH_NQ_STATUS (n : Nat) : Nat := 0x39614 + 0x20 * n
def USH_NQ_STATUS_TAIL (n : Nat) : Fld := ⟨USH_NQ_STATUS n, 16, 0⟩
def USH_NQ_STATUS_PENDING (n : Nat) : Fld := ⟨USH_NQ_STATUS n, 26, 20⟩
/-- Offset of `USH_NQ_IRQ`. -/
def USH_NQ_IRQ : Nat := 0x39800
def USH_NQ_IRQ_COUNT : Fld := ⟨USH_NQ_IRQ, 3, 0⟩
def USH_NQ_IRQ_TIME_US : Fld := ⟨USH_NQ_IRQ, 31, 16⟩
/-- Offset of `USH_POLL`. -/
def USH_POLL : Nat := 0x39804
def USH_POLL_TICKS : Fld := ⟨USH_POLL, 20, 0⟩
/-- Offset of `USH_ENG_STATUS`. -/
def USH_ENG_STATUS : Nat := 0x39808
def USH_ENG_STATUS_RUNNING : Fld := ⟨USH_ENG_STATUS, 11, 0⟩
def USH_ENG_STATUS_ONDECK : Fld := ⟨USH_ENG_STATUS, 27, 16⟩
/-- Offset of `USH_ABORT`. -/
def USH_ABORT : Nat := 0x3980C
def USH_ABORT_MASK : Fld := ⟨USH_ABORT, 11, 0⟩
/-- Offset of `USH_FLIGHT`. -/
def USH_FLIGHT : Nat := 0x39810
def USH_FLIGHT_ARMED : Fld := ⟨USH_FLIGHT, 0, 0⟩
def USH_FLIGHT_PIPES : Fld := ⟨USH_FLIGHT, 7, 4⟩
def USH_FLIGHT_DISARMING : Fld := ⟨USH_FLIGHT, 8, 8⟩
/-- Offset of `USH_FLAGS`. -/
def USH_FLAGS : Nat := 0x39814
def USH_FLAGS_BAD_DOORBELL : Fld := ⟨USH_FLAGS, 15, 0⟩
def USH_FLAGS_HALTED : Fld := ⟨USH_FLAGS, 31, 16⟩
/-- Offset of `USH_CNT_TAKEN`. -/
def USH_CNT_TAKEN : Nat := 0x39840
def USH_CNT_TAKEN_COUNT : Fld := ⟨USH_CNT_TAKEN, 31, 0⟩
/-- Offset of `USH_CNT_FAIL`. -/
def USH_CNT_FAIL : Nat := 0x39844
def USH_CNT_FAIL_COUNT : Fld := ⟨USH_CNT_FAIL, 15, 0⟩
/-- Offset of `USH_CNT_TIMEOUT`. -/
def USH_CNT_TIMEOUT : Nat := 0x39848
def USH_CNT_TIMEOUT_COUNT : Fld := ⟨USH_CNT_TIMEOUT, 15, 0⟩
/-- Offset of `USH_CNT_BAD_DOORBELL`. -/
def USH_CNT_BAD_DOORBELL : Nat := 0x3984C
def USH_CNT_BAD_DOORBELL_COUNT : Fld := ⟨USH_CNT_BAD_DOORBELL, 15, 0⟩
/-- Offset of `USH_CNT_CQ_WAIT`. -/
def USH_CNT_CQ_WAIT : Nat := 0x39850
def USH_CNT_CQ_WAIT_COUNT : Fld := ⟨USH_CNT_CQ_WAIT, 31, 0⟩
/-- Offset of `USH_CNT_NQ_LOST`. -/
def USH_CNT_NQ_LOST (n : Nat) : Nat := 0x39860 + 0x4 * n
def USH_CNT_NQ_LOST_COUNT (n : Nat) : Fld := ⟨USH_CNT_NQ_LOST n, 15, 0⟩
/-- Offset of `USH_FLIGHT_FRAMES`. -/
def USH_FLIGHT_FRAMES (p : Nat) : Nat := 0x39870 + 0x4 * p
def USH_FLIGHT_FRAMES_COUNT (p : Nat) : Fld := ⟨USH_FLIGHT_FRAMES p, 31, 0⟩
/-- Offset of `USH_EVENT`. -/
def USH_EVENT (e : Nat) : Nat := 0x3A000 + 0x4 * e
def USH_EVENT_COUNT (e : Nat) : Fld := ⟨USH_EVENT e, 31, 0⟩
/-- Offset of `USH_EVENT_ADD`. -/
def USH_EVENT_ADD (e : Nat) : Nat := 0x3B000 + 0x4 * e
def USH_EVENT_ADD_DELTA (e : Nat) : Fld := ⟨USH_EVENT_ADD e, 31, 0⟩
/-- Offset of `ENG_PROGRESS`. -/
def ENG_PROGRESS (u : Nat) : Nat := 0x40000 + 0x4 * u
def ENG_PROGRESS_DONE (u : Nat) : Fld := ⟨ENG_PROGRESS u, 31, 0⟩
/-- Offset of `ENG_PORTER_RATE`. -/
def ENG_PORTER_RATE (u : Nat) : Nat := 0x40040 + 0x4 * u
def ENG_PORTER_RATE_MBPS (u : Nat) : Fld := ⟨ENG_PORTER_RATE u, 15, 0⟩
/-- Offset of `ENG_CNT_TASKS`. -/
def ENG_CNT_TASKS (u : Nat) : Nat := 0x40080 + 0x4 * u
def ENG_CNT_TASKS_COUNT (u : Nat) : Fld := ⟨ENG_CNT_TASKS u, 31, 0⟩
/-- Offset of `ENG_CNT_ABANDON`. -/
def ENG_CNT_ABANDON (u : Nat) : Nat := 0x400C0 + 0x4 * u
def ENG_CNT_ABANDON_COUNT (u : Nat) : Fld := ⟨ENG_CNT_ABANDON u, 15, 0⟩
/-- Offset of `ENG_CNT_ARC_SKIP`. -/
def ENG_CNT_ARC_SKIP : Nat := 0x40100
def ENG_CNT_ARC_SKIP_COUNT : Fld := ⟨ENG_CNT_ARC_SKIP, 31, 0⟩
/-- Offset of `ENG_CNT_ARC_RETRY`. -/
def ENG_CNT_ARC_RETRY : Nat := 0x40104
def ENG_CNT_ARC_RETRY_COUNT : Fld := ⟨ENG_CNT_ARC_RETRY, 15, 0⟩
/-- Offset of `ENG_CNT_ARC_FAIL`. -/
def ENG_CNT_ARC_FAIL : Nat := 0x40108
def ENG_CNT_ARC_FAIL_COUNT : Fld := ⟨ENG_CNT_ARC_FAIL, 15, 0⟩
/-- Offset of `PCI_LINK`. -/
def PCI_LINK : Nat := 0x44000
def PCI_LINK_SPEED : Fld := ⟨PCI_LINK, 3, 0⟩
def PCI_LINK_WIDTH : Fld := ⟨PCI_LINK, 9, 4⟩
def PCI_LINK_STATE : Fld := ⟨PCI_LINK, 14, 12⟩
def PCI_LINK_BME : Fld := ⟨PCI_LINK, 16, 16⟩
/-- Offset of `PCI_FLAGS`. -/
def PCI_FLAGS : Nat := 0x44004
def PCI_FLAGS_DEGRADED : Fld := ⟨PCI_FLAGS, 0, 0⟩
/-- Offset of `PCI_CNT_CORR`. -/
def PCI_CNT_CORR : Nat := 0x44040
def PCI_CNT_CORR_COUNT : Fld := ⟨PCI_CNT_CORR, 31, 0⟩
/-- Offset of `PCI_CNT_UNCORR`. -/
def PCI_CNT_UNCORR : Nat := 0x44044
def PCI_CNT_UNCORR_COUNT : Fld := ⟨PCI_CNT_UNCORR, 15, 0⟩
/-- Offset of `PCI_CNT_CPL_TIMEOUT`. -/
def PCI_CNT_CPL_TIMEOUT : Nat := 0x44048
def PCI_CNT_CPL_TIMEOUT_COUNT : Fld := ⟨PCI_CNT_CPL_TIMEOUT, 15, 0⟩
/-- Offset of `PCI_CNT_RECOVERY`. -/
def PCI_CNT_RECOVERY : Nat := 0x4404C
def PCI_CNT_RECOVERY_COUNT : Fld := ⟨PCI_CNT_RECOVERY, 15, 0⟩
/-- Offset of `STO_STATUS`. -/
def STO_STATUS : Nat := 0x48000
def STO_STATUS_TRAINED : Fld := ⟨STO_STATUS, 0, 0⟩
/-- Offset of `STO_FLAGS`. -/
def STO_FLAGS : Nat := 0x48004
def STO_FLAGS_UNCORR : Fld := ⟨STO_FLAGS, 3, 0⟩
/-- Offset of `STO_LAST_UNCORR_LO`. -/
def STO_LAST_UNCORR_LO : Nat := 0x48008
def STO_LAST_UNCORR_LO_ADDR : Fld := ⟨STO_LAST_UNCORR_LO, 31, 0⟩
/-- Offset of `STO_LAST_UNCORR_HI`. -/
def STO_LAST_UNCORR_HI : Nat := 0x4800C
def STO_LAST_UNCORR_HI_ADDR : Fld := ⟨STO_LAST_UNCORR_HI, 26, 0⟩
/-- Offset of `STO_CNT_CORR`. -/
def STO_CNT_CORR (b : Nat) : Nat := 0x48040 + 0x4 * b
def STO_CNT_CORR_COUNT (b : Nat) : Fld := ⟨STO_CNT_CORR b, 31, 0⟩
/-- Offset of `STO_CNT_UNCORR`. -/
def STO_CNT_UNCORR (b : Nat) : Nat := 0x48050 + 0x4 * b
def STO_CNT_UNCORR_COUNT (b : Nat) : Fld := ⟨STO_CNT_UNCORR b, 15, 0⟩
/-- Offset of `ARC_STATUS`. -/
def ARC_STATUS : Nat := 0x4C000
def ARC_STATUS_BUSY : Fld := ⟨ARC_STATUS, 0, 0⟩
def ARC_STATUS_LOCK_FW : Fld := ⟨ARC_STATUS, 1, 1⟩
def ARC_STATUS_LOCK_ALL : Fld := ⟨ARC_STATUS, 2, 2⟩
/-- Offset of `ARC_ROLLBACK`. -/
def ARC_ROLLBACK : Nat := 0x4C004
def ARC_ROLLBACK_COUNT : Fld := ⟨ARC_ROLLBACK, 31, 0⟩
/-- Offset of `ARC_ROLLBACK_RAISE`. -/
def ARC_ROLLBACK_RAISE : Nat := 0x4C008
def ARC_ROLLBACK_RAISE_VERSION : Fld := ⟨ARC_ROLLBACK_RAISE, 31, 0⟩
/-- Offset of `ARC_CNT_CORR`. -/
def ARC_CNT_CORR : Nat := 0x4C00C
def ARC_CNT_CORR_COUNT : Fld := ⟨ARC_CNT_CORR, 31, 0⟩
/-- Offset of `ARC_SLOT_VER`. -/
def ARC_SLOT_VER (s : Nat) : Nat := 0x4C010 + 0x4 * s
def ARC_SLOT_VER_VALUE (s : Nat) : Fld := ⟨ARC_SLOT_VER s, 31, 0⟩
/-- Offset of `ARC_SLOT_BUILD`. -/
def ARC_SLOT_BUILD (s : Nat) : Nat := 0x4C018 + 0x4 * s
def ARC_SLOT_BUILD_VALUE (s : Nat) : Fld := ⟨ARC_SLOT_BUILD s, 31, 0⟩
/-- Offset of `ARC_SLOT_STATE`. -/
def ARC_SLOT_STATE (s : Nat) : Nat := 0x4C020 + 0x4 * s
def ARC_SLOT_STATE_STATE (s : Nat) : Fld := ⟨ARC_SLOT_STATE s, 2, 0⟩
/-- Offset of `ARC_DIE_SERIAL_LO`. -/
def ARC_DIE_SERIAL_LO : Nat := 0x4C028
def ARC_DIE_SERIAL_LO_SERIAL : Fld := ⟨ARC_DIE_SERIAL_LO, 31, 0⟩
/-- Offset of `ARC_DIE_SERIAL_HI`. -/
def ARC_DIE_SERIAL_HI : Nat := 0x4C02C
def ARC_DIE_SERIAL_HI_SERIAL : Fld := ⟨ARC_DIE_SERIAL_HI, 31, 0⟩
/-- Offset of `ARC_WEAR_SEL`. -/
def ARC_WEAR_SEL : Nat := 0x4C030
def ARC_WEAR_SEL_BLOCK : Fld := ⟨ARC_WEAR_SEL, 15, 0⟩
/-- Offset of `ARC_WEAR`. -/
def ARC_WEAR : Nat := 0x4C034
def ARC_WEAR_COUNT : Fld := ⟨ARC_WEAR, 31, 0⟩
/-- Offset of `ARC_RCV_CTRL`. -/
def ARC_RCV_CTRL : Nat := 0x4C040
def ARC_RCV_CTRL_BLOCK : Fld := ⟨ARC_RCV_CTRL, 15, 0⟩
def ARC_RCV_CTRL_GO : Fld := ⟨ARC_RCV_CTRL, 31, 31⟩
/-- Offset of `ARC_RCV_STATUS`. -/
def ARC_RCV_STATUS : Nat := 0x4C044
def ARC_RCV_STATUS_BUSY : Fld := ⟨ARC_RCV_STATUS, 0, 0⟩
def ARC_RCV_STATUS_DONE : Fld := ⟨ARC_RCV_STATUS, 1, 1⟩
def ARC_RCV_STATUS_FAIL : Fld := ⟨ARC_RCV_STATUS, 2, 2⟩
def ARC_RCV_STATUS_REASON : Fld := ⟨ARC_RCV_STATUS, 7, 4⟩
/-- Offset of `ARC_RCV_BUF`. -/
def ARC_RCV_BUF (i : Nat) : Nat := 0x4C100 + 0x4 * i
def ARC_RCV_BUF_DATA (i : Nat) : Fld := ⟨ARC_RCV_BUF i, 31, 0⟩
/-- Offset of `THM_TRIP`. -/
def THM_TRIP : Nat := 0x50000
def THM_TRIP_CELSIUS : Fld := ⟨THM_TRIP, 7, 0⟩
/-- Offset of `THM_CTRL`. -/
def THM_CTRL : Nat := 0x50004
def THM_CTRL_LEVEL_MIN : Fld := ⟨THM_CTRL, 2, 0⟩
/-- Offset of `THM_LADDER`. -/
def THM_LADDER : Nat := 0x50008
def THM_LADDER_STEP_UP : Fld := ⟨THM_LADDER, 7, 0⟩
def THM_LADDER_STEP_DOWN : Fld := ⟨THM_LADDER, 15, 8⟩
def THM_LADDER_PERIOD_MS : Fld := ⟨THM_LADDER, 29, 16⟩
/-- Offset of `THM_GAL_LIMIT`. -/
def THM_GAL_LIMIT : Nat := 0x5000C
def THM_GAL_LIMIT_CELSIUS : Fld := ⟨THM_GAL_LIMIT, 7, 0⟩
/-- Offset of `THM_NEIGH`. -/
def THM_NEIGH : Nat := 0x50010
def THM_NEIGH_C : Fld := ⟨THM_NEIGH, 5, 0⟩
/-- Offset of `THM_STATUS`. -/
def THM_STATUS : Nat := 0x50014
def THM_STATUS_LEVEL : Fld := ⟨THM_STATUS, 2, 0⟩
def THM_STATUS_ZONE : Fld := ⟨THM_STATUS, 7, 4⟩
def THM_STATUS_FORCED : Fld := ⟨THM_STATUS, 8, 8⟩
def THM_STATUS_CAUSE : Fld := ⟨THM_STATUS, 10, 9⟩
def THM_STATUS_HEADROOM : Fld := ⟨THM_STATUS, 31, 16⟩
/-- Offset of `THM_LIMITS`. -/
def THM_LIMITS : Nat := 0x50018
def THM_LIMITS_ILM_PCT : Fld := ⟨THM_LIMITS, 6, 0⟩
def THM_LIMITS_ARR_PCT : Fld := ⟨THM_LIMITS, 14, 8⟩
def THM_LIMITS_HOLD_PCT : Fld := ⟨THM_LIMITS, 22, 16⟩
/-- Offset of `THM_FLAGS`. -/
def THM_FLAGS : Nat := 0x5001C
def THM_FLAGS_FALLBACK : Fld := ⟨THM_FLAGS, 11, 0⟩
/-- Offset of `THM_BAD_LO`. -/
def THM_BAD_LO : Nat := 0x50020
def THM_BAD_LO_MASK : Fld := ⟨THM_BAD_LO, 31, 0⟩
/-- Offset of `THM_BAD_HI`. -/
def THM_BAD_HI : Nat := 0x50024
def THM_BAD_HI_MASK : Fld := ⟨THM_BAD_HI, 15, 0⟩
/-- Offset of `THM_CNT_STEPS`. -/
def THM_CNT_STEPS : Nat := 0x50040
def THM_CNT_STEPS_COUNT : Fld := ⟨THM_CNT_STEPS, 15, 0⟩
/-- Offset of `THM_CNT_FORCED`. -/
def THM_CNT_FORCED : Nat := 0x50044
def THM_CNT_FORCED_COUNT : Fld := ⟨THM_CNT_FORCED, 15, 0⟩
/-- Offset of `THM_CNT_SENSOR_BAD`. -/
def THM_CNT_SENSOR_BAD : Nat := 0x50048
def THM_CNT_SENSOR_BAD_COUNT : Fld := ⟨THM_CNT_SENSOR_BAD, 15, 0⟩
/-- Offset of `THM_CNT_FALLBACK`. -/
def THM_CNT_FALLBACK : Nat := 0x5004C
def THM_CNT_FALLBACK_COUNT : Fld := ⟨THM_CNT_FALLBACK, 15, 0⟩
/-- Offset of `THM_ZONE`. -/
def THM_ZONE (z : Nat) : Nat := 0x50080 + 0x4 * z
def THM_ZONE_TEMP (z : Nat) : Fld := ⟨THM_ZONE z, 15, 0⟩
def THM_ZONE_FALLBACK (z : Nat) : Fld := ⟨THM_ZONE z, 16, 16⟩
def THM_ZONE_VALID (z : Nat) : Fld := ⟨THM_ZONE z, 17, 17⟩
/-- Offset of `THM_SENSOR`. -/
def THM_SENSOR (i : Nat) : Nat := 0x50100 + 0x4 * i
def THM_SENSOR_TEMP (i : Nat) : Fld := ⟨THM_SENSOR i, 15, 0⟩
def THM_SENSOR_CHECK (i : Nat) : Fld := ⟨THM_SENSOR i, 17, 16⟩

end F

namespace C

def NWL_CNT_REF_LOSS : Ctr := ⟨F.NWL_CNT_REF_LOSS, 16, true⟩
def NWL_CNT_REACQ : Ctr := ⟨F.NWL_CNT_REACQ, 16, true⟩
def STP_CNT_REFUSED : Ctr := ⟨F.STP_CNT_REFUSED, 16, true⟩
def PWR_CNT_FULL : Ctr := ⟨F.PWR_CNT_FULL, 16, true⟩
def PWR_CNT_HOST : Ctr := ⟨F.PWR_CNT_HOST, 16, true⟩
def PWR_CNT_WDOG : Ctr := ⟨F.PWR_CNT_WDOG, 16, true⟩
def PWR_CNT_WAKE : Ctr := ⟨F.PWR_CNT_WAKE, 16, true⟩
def PWR_CNT_ABORT : Ctr := ⟨F.PWR_CNT_ABORT, 16, true⟩
def ARR_FRAME_COUNT (c : Nat) : Ctr := ⟨F.ARR_FRAME_COUNT c, 32, false⟩
def ARR_CNT_SLOT_SKIP (c : Nat) : Ctr := ⟨F.ARR_CNT_SLOT_SKIP c, 16, true⟩
def ARR_CNT_TRIG_DROP (c : Nat) : Ctr := ⟨F.ARR_CNT_TRIG_DROP c, 16, true⟩
def ARR_CNT_SET_HELD (c : Nat) : Ctr := ⟨F.ARR_CNT_SET_HELD c, 16, true⟩
def ARR_CNT_XSERVO_BOUND (c : Nat) (n : Nat) : Ctr := ⟨F.ARR_CNT_XSERVO_BOUND c n, 16, true⟩
def CNV_CNT_RDO_DEFER (c : Nat) : Ctr := ⟨F.CNV_CNT_RDO_DEFER c, 16, true⟩
def CNV_CNT_DARK_BOUND (c : Nat) : Ctr := ⟨F.CNV_CNT_DARK_BOUND c, 16, true⟩
def XPT_CNT_FRAMES (x : Nat) : Ctr := ⟨F.XPT_CNT_FRAMES x, 32, false⟩
def XPT_CNT_MARKED (x : Nat) : Ctr := ⟨F.XPT_CNT_MARKED x, 16, true⟩
def XPT_CNT_CRC (x : Nat) : Ctr := ⟨F.XPT_CNT_CRC x, 32, true⟩
def XPT_CNT_LENGTH (x : Nat) : Ctr := ⟨F.XPT_CNT_LENGTH x, 16, true⟩
def XPT_CNT_MISSING (x : Nat) : Ctr := ⟨F.XPT_CNT_MISSING x, 16, true⟩
def XPT_CNT_STRAY (x : Nat) : Ctr := ⟨F.XPT_CNT_STRAY x, 16, true⟩
def XPT_CNT_TIMEOUT (x : Nat) : Ctr := ⟨F.XPT_CNT_TIMEOUT x, 16, true⟩
def XPT_CNT_EYE_WARN (x : Nat) : Ctr := ⟨F.XPT_CNT_EYE_WARN x, 16, true⟩
def XPT_CNT_TRAIN_FAIL (x : Nat) : Ctr := ⟨F.XPT_CNT_TRAIN_FAIL x, 16, true⟩
def PIP_CNT_DARK_MISMATCH (p : Nat) : Ctr := ⟨F.PIP_CNT_DARK_MISMATCH p, 16, true⟩
def PIP_CNT_UNRESOLVED (p : Nat) : Ctr := ⟨F.PIP_CNT_UNRESOLVED p, 32, true⟩
def PIP_CNT_SAT_HI (p : Nat) : Ctr := ⟨F.PIP_CNT_SAT_HI p, 32, true⟩
def PIP_CNT_TEMP_CLAMP (p : Nat) : Ctr := ⟨F.PIP_CNT_TEMP_CLAMP p, 16, true⟩
def PIP_CNT_SKIP (p : Nat) (t : Nat) : Ctr := ⟨F.PIP_CNT_SKIP p t, 32, true⟩
def PIP_CNT_VOID (p : Nat) (t : Nat) : Ctr := ⟨F.PIP_CNT_VOID p t, 16, true⟩
def CLS_CNT_RECORDS (p : Nat) : Ctr := ⟨F.CLS_CNT_RECORDS p, 32, false⟩
def CLS_CNT_PLANNED (p : Nat) : Ctr := ⟨F.CLS_CNT_PLANNED p, 32, false⟩
def CLS_CNT_OVERFLOW (p : Nat) : Ctr := ⟨F.CLS_CNT_OVERFLOW p, 16, true⟩
def CLS_CNT_NOMATCH (p : Nat) : Ctr := ⟨F.CLS_CNT_NOMATCH p, 16, true⟩
def CLS_CNT_ORPHAN (p : Nat) : Ctr := ⟨F.CLS_CNT_ORPHAN p, 16, true⟩
def CLS_CNT_JOINED (j : Nat) : Ctr := ⟨F.CLS_CNT_JOINED j, 32, false⟩
def CLS_CNT_SINGLE (j : Nat) : Ctr := ⟨F.CLS_CNT_SINGLE j, 16, true⟩
def CLS_CNT_UNDERRUN (j : Nat) (s : Nat) : Ctr := ⟨F.CLS_CNT_UNDERRUN j s, 16, true⟩
def CLS_CNT_STALE (j : Nat) : Ctr := ⟨F.CLS_CNT_STALE j, 16, true⟩
def EJP_CNT_REJECT : Ctr := ⟨F.EJP_CNT_REJECT, 32, false⟩
def EJP_CNT_DOUBT : Ctr := ⟨F.EJP_CNT_DOUBT, 16, true⟩
def EJP_CNT_FALLBACK : Ctr := ⟨F.EJP_CNT_FALLBACK, 32, false⟩
def EJP_CNT_UNPLANNED : Ctr := ⟨F.EJP_CNT_UNPLANNED, 16, true⟩
def EJP_CNT_CLIP : Ctr := ⟨F.EJP_CNT_CLIP, 16, true⟩
def EJP_CNT_DEC_OVF : Ctr := ⟨F.EJP_CNT_DEC_OVF, 16, true⟩
def EJP_CNT_CMD (g : Nat) : Ctr := ⟨F.EJP_CNT_CMD g, 32, false⟩
def EJP_CNT_GAP (g : Nat) : Ctr := ⟨F.EJP_CNT_GAP g, 16, true⟩
def EJP_CNT_FQ_FULL (g : Nat) : Ctr := ⟨F.EJP_CNT_FQ_FULL g, 16, true⟩
def EJP_CNT_LATE (g : Nat) : Ctr := ⟨F.EJP_CNT_LATE g, 16, true⟩
def EJP_CNT_NOGAL (g : Nat) : Ctr := ⟨F.EJP_CNT_NOGAL g, 16, true⟩
def EJP_CNT_DISABLED (g : Nat) : Ctr := ⟨F.EJP_CNT_DISABLED g, 16, true⟩
def HLK_CNT_CYCLES : Ctr := ⟨F.HLK_CNT_CYCLES, 32, false⟩
def HLK_CNT_CHAR_ERR : Ctr := ⟨F.HLK_CNT_CHAR_ERR, 32, true⟩
def HLK_CNT_ECHO_ERR : Ctr := ⟨F.HLK_CNT_ECHO_ERR, 16, true⟩
def HLK_CNT_ABORT : Ctr := ⟨F.HLK_CNT_ABORT, 16, true⟩
def HLK_CNT_ENUM : Ctr := ⟨F.HLK_CNT_ENUM, 16, true⟩
def HLK_CNT_MISS (g : Nat) : Ctr := ⟨F.HLK_CNT_MISS g, 16, true⟩
def HLK_CNT_FRAME_ERR (g : Nat) : Ctr := ⟨F.HLK_CNT_FRAME_ERR g, 16, true⟩
def HLK_CNT_RESEND (g : Nat) : Ctr := ⟨F.HLK_CNT_RESEND g, 32, false⟩
def HLK_CNT_UNDELIV (g : Nat) : Ctr := ⟨F.HLK_CNT_UNDELIV g, 16, true⟩
def HLK_CNT_INDOUBT (g : Nat) : Ctr := ⟨F.HLK_CNT_INDOUBT g, 16, true⟩
def MON_CNT_SYNC (m : Nat) : Ctr := ⟨F.MON_CNT_SYNC m, 16, true⟩
def MON_CNT_LIMIT (m : Nat) : Ctr := ⟨F.MON_CNT_LIMIT m, 16, true⟩
def MON_CNT_SKIP : Ctr := ⟨F.MON_CNT_SKIP, 32, true⟩
def MON_STREAM_SEQ : Ctr := ⟨F.MON_STREAM_SEQ, 16, false⟩
def ILM_CNT_LEAD_CLIP (k : Nat) : Ctr := ⟨F.ILM_CNT_LEAD_CLIP k, 16, true⟩
def ILM_CNT_MAXHIGH (k : Nat) : Ctr := ⟨F.ILM_CNT_MAXHIGH k, 16, true⟩
def PIO_CNT_UNDER (e : Nat) : Ctr := ⟨F.PIO_CNT_UNDER e, 16, true⟩
def PIO_CNT_OVER (e : Nat) : Ctr := ⟨F.PIO_CNT_OVER e, 16, true⟩
def HAL_CNT_PKTS (q : Nat) : Ctr := ⟨F.HAL_CNT_PKTS q, 32, false⟩
def HAL_CNT_BP (q : Nat) : Ctr := ⟨F.HAL_CNT_BP q, 32, true⟩
def HAL_CNT_WM (q : Nat) : Ctr := ⟨F.HAL_CNT_WM q, 16, true⟩
def HAL_CNT_QRESET (q : Nat) : Ctr := ⟨F.HAL_CNT_QRESET q, 16, true⟩
def HAL_CNT_RESET_PKTS (q : Nat) : Ctr := ⟨F.HAL_CNT_RESET_PKTS q, 32, true⟩
def HAL_CNT_CORR (q : Nat) : Ctr := ⟨F.HAL_CNT_CORR q, 32, true⟩
def HAL_CNT_UNCORR (q : Nat) : Ctr := ⟨F.HAL_CNT_UNCORR q, 16, true⟩
def HAL_CNT_FREELIST : Ctr := ⟨F.HAL_CNT_FREELIST, 16, true⟩
def USH_CNT_TAKEN : Ctr := ⟨F.USH_CNT_TAKEN, 32, false⟩
def USH_CNT_FAIL : Ctr := ⟨F.USH_CNT_FAIL, 16, true⟩
def USH_CNT_TIMEOUT : Ctr := ⟨F.USH_CNT_TIMEOUT, 16, true⟩
def USH_CNT_BAD_DOORBELL : Ctr := ⟨F.USH_CNT_BAD_DOORBELL, 16, true⟩
def USH_CNT_CQ_WAIT : Ctr := ⟨F.USH_CNT_CQ_WAIT, 32, true⟩
def USH_CNT_NQ_LOST (n : Nat) : Ctr := ⟨F.USH_CNT_NQ_LOST n, 16, true⟩
def USH_FLIGHT_FRAMES (p : Nat) : Ctr := ⟨F.USH_FLIGHT_FRAMES p, 32, false⟩
def ENG_CNT_TASKS (u : Nat) : Ctr := ⟨F.ENG_CNT_TASKS u, 32, false⟩
def ENG_CNT_ABANDON (u : Nat) : Ctr := ⟨F.ENG_CNT_ABANDON u, 16, true⟩
def ENG_CNT_ARC_SKIP : Ctr := ⟨F.ENG_CNT_ARC_SKIP, 32, true⟩
def ENG_CNT_ARC_RETRY : Ctr := ⟨F.ENG_CNT_ARC_RETRY, 16, true⟩
def ENG_CNT_ARC_FAIL : Ctr := ⟨F.ENG_CNT_ARC_FAIL, 16, true⟩
def PCI_CNT_CORR : Ctr := ⟨F.PCI_CNT_CORR, 32, true⟩
def PCI_CNT_UNCORR : Ctr := ⟨F.PCI_CNT_UNCORR, 16, true⟩
def PCI_CNT_CPL_TIMEOUT : Ctr := ⟨F.PCI_CNT_CPL_TIMEOUT, 16, true⟩
def PCI_CNT_RECOVERY : Ctr := ⟨F.PCI_CNT_RECOVERY, 16, true⟩
def STO_CNT_CORR (b : Nat) : Ctr := ⟨F.STO_CNT_CORR b, 32, true⟩
def STO_CNT_UNCORR (b : Nat) : Ctr := ⟨F.STO_CNT_UNCORR b, 16, true⟩
def ARC_CNT_CORR : Ctr := ⟨F.ARC_CNT_CORR, 32, true⟩
def THM_CNT_STEPS : Ctr := ⟨F.THM_CNT_STEPS, 16, true⟩
def THM_CNT_FORCED : Ctr := ⟨F.THM_CNT_FORCED, 16, true⟩
def THM_CNT_SENSOR_BAD : Ctr := ⟨F.THM_CNT_SENSOR_BAD, 16, true⟩
def THM_CNT_FALLBACK : Ctr := ⟨F.THM_CNT_FALLBACK, 16, true⟩

end C

/-- The registers that hold a value other than zero at power-on reset (the Reset columns, R23), piece 0. -/
def resetRegs0 : List (Nat × BitVec 32) :=
  [(0xC, 0x4B), (0x10, 0x20), (0x14, 0x20), (0x18, 0x4B2020), (0x8004, 0x1), (0x8028, 0x3)
   , (0xC000, 0x2010), (0xC010, 0x1B7740), (0xC014, 0x34E), (0xC018, 0x1), (0xC01C, 0x927C0), (0xC020, 0x77)
   , (0xC024, 0xFF0000), (0xC084, 0xEA60), (0xC088, 0x1), (0xC08C, 0x8CA), (0xC090, 0x200040), (0xC094, 0x800)
   , (0xC098, 0x5DC), (0xC09C, 0x16E360), (0xC0A0, 0xEA60), (0xC0C4, 0xEA60), (0xC0C8, 0x1), (0xC0CC, 0x8CA)
   , (0xC0D0, 0x200040), (0xC0D4, 0x800), (0xC0D8, 0x5DC), (0xC0DC, 0x16E360), (0xC0E0, 0xEA60), (0xC100, 0x2010)
   , (0xC110, 0x1B7740), (0xC114, 0x34E), (0xC118, 0x1), (0xC11C, 0x927C0), (0xC120, 0x77), (0xC124, 0xFF)
   , (0xC184, 0xEA60), (0xC188, 0x1), (0xC18C, 0x8CA), (0xC190, 0x200040), (0xC194, 0x800), (0xC198, 0x5DC)
   , (0xC19C, 0x16E360), (0xC1A0, 0xEA60), (0xC1C4, 0xEA60), (0xC1C8, 0x1), (0xC1CC, 0x8CA), (0xC1D0, 0x200040)
   , (0xC1D4, 0x800), (0xC1D8, 0x5DC)]

/-- The registers that hold a value other than zero at power-on reset (the Reset columns, R23), piece 1. -/
def resetRegs1 : List (Nat × BitVec 32) :=
  [(0xC1DC, 0x16E360), (0xC1E0, 0xEA60), (0x10000, 0xFF005F01), (0x10004, 0xFF005F00), (0x10008, 0xFF005F00), (0x1000C, 0xFF005F00)
   , (0x10014, 0x1770), (0x10018, 0x400081), (0x1001C, 0x1FF0E00), (0x10100, 0xFF005F00), (0x10104, 0xFF005F00), (0x10108, 0xFF005F00)
   , (0x1010C, 0xFF005F00), (0x10114, 0x1770), (0x10118, 0x400081), (0x1011C, 0x1FF0E00), (0x1400C, 0xC0200), (0x14010, 0x1)
   , (0x14014, 0x1B7740), (0x1410C, 0xC0200), (0x14110, 0x1), (0x14114, 0x1B7740), (0x18008, 0x1F), (0x1800C, 0xC8)
   , (0x18040, 0x1000), (0x18060, 0x1000), (0x18070, 0x1000), (0x18080, 0x1000), (0x18100, 0x81F02), (0x18120, 0x91F02)
   , (0x18140, 0xA1F02), (0x18160, 0xB1F02), (0x18408, 0x1F), (0x1840C, 0xC8), (0x18440, 0x1000), (0x18460, 0x1000)
   , (0x18470, 0x1000), (0x18480, 0x1000), (0x18500, 0xC1F02), (0x18520, 0xD1F02), (0x18540, 0xE1F02), (0x18560, 0xF1F02)
   , (0x18808, 0x1F), (0x1880C, 0xC8), (0x18840, 0x1000), (0x18860, 0x1000), (0x18870, 0x1000), (0x18880, 0x1000)
   , (0x18900, 0x101F02), (0x18920, 0x111F02)]

/-- The registers that hold a value other than zero at power-on reset (the Reset columns, R23), piece 2. -/
def resetRegs2 : List (Nat × BitVec 32) :=
  [(0x18940, 0x121F02), (0x18960, 0x131F02), (0x18C08, 0x1F), (0x18C0C, 0xC8), (0x18C40, 0x1000), (0x18C60, 0x1000)
   , (0x18C70, 0x1000), (0x18C80, 0x1000), (0x18D00, 0x141F02), (0x18D20, 0x151F02), (0x18D40, 0x161F02), (0x18D60, 0x171F02)
   , (0x1C000, 0x10), (0x1C004, 0x20002000), (0x1C008, 0x20002000), (0x1C00C, 0x800), (0x1C010, 0x800), (0x1C014, 0x4321)
   , (0x1C018, 0xFE50), (0x1C020, 0x8104001), (0x1C024, 0x180CE3), (0x1C100, 0x10), (0x1C104, 0x20002000), (0x1C108, 0x20002000)
   , (0x1C10C, 0x800), (0x1C110, 0x800), (0x1C114, 0x4321), (0x1C118, 0xFE50), (0x1C120, 0x8104001), (0x1C124, 0x180CE3)
   , (0x1C200, 0x10), (0x1C204, 0x20002000), (0x1C208, 0x20002000), (0x1C20C, 0x800), (0x1C210, 0x800), (0x1C214, 0x4321)
   , (0x1C218, 0xFE50), (0x1C220, 0x8104001), (0x1C224, 0x180CE3), (0x1C300, 0x10), (0x1C304, 0x20002000), (0x1C308, 0x20002000)
   , (0x1C30C, 0x800), (0x1C310, 0x800), (0x1C314, 0x4321), (0x1C318, 0xFE50), (0x1C320, 0x8104001), (0x1C324, 0x180CE3)
   , (0x1C400, 0x1048), (0x1C40C, 0x3A98)]

/-- The registers that hold a value other than zero at power-on reset (the Reset columns, R23), piece 3. -/
def resetRegs3 : List (Nat × BitVec 32) :=
  [(0x1C410, 0x36EE80), (0x1C440, 0x105C), (0x1C44C, 0x3A98), (0x1C450, 0x36EE80), (0x20000, 0x2), (0x20004, 0x2652)
   , (0x2000C, 0x44AA20), (0x20100, 0x2BF20), (0x20108, 0x5E86048), (0x2010C, 0x600000), (0x20110, 0x1010000), (0x20120, 0x2BF20)
   , (0x20128, 0x5E86048), (0x2012C, 0x600000), (0x20130, 0x1010000), (0x20140, 0x2BF20), (0x20148, 0x5E86048), (0x2014C, 0x600000)
   , (0x20150, 0x1010000), (0x20160, 0x2BF20), (0x20168, 0x5E86048), (0x2016C, 0x600000), (0x20170, 0x1010000), (0x20300, 0x44AA20)
   , (0x20308, 0x44AA20), (0x20310, 0x44AA20), (0x20318, 0x44AA20), (0x20320, 0x44AA20), (0x20328, 0x44AA20), (0x20330, 0x44AA20)
   , (0x20338, 0x44AA20), (0x24004, 0x271), (0x2400C, 0x271), (0x28004, 0x100), (0x28014, 0x7FFF8000), (0x28024, 0x100)
   , (0x28034, 0x7FFF8000), (0x28044, 0x100), (0x28054, 0x7FFF8000), (0x28064, 0x100), (0x28074, 0x7FFF8000), (0x28084, 0x100)
   , (0x28094, 0x7FFF8000), (0x280A4, 0x100), (0x280B4, 0x7FFF8000), (0x280C4, 0x100), (0x280D4, 0x7FFF8000), (0x280E4, 0x100)
   , (0x280F4, 0x7FFF8000), (0x28100, 0x400008)]

/-- The registers that hold a value other than zero at power-on reset (the Reset columns, R23), piece 4. -/
def resetRegs4 : List (Nat × BitVec 32) :=
  [(0x2C00C, 0xEA60), (0x2C02C, 0xEA60), (0x2C04C, 0xEA60), (0x2C06C, 0xEA60), (0x30100, 0x1), (0x30104, 0x3F0000)
   , (0x30140, 0x1), (0x30144, 0x3F0000), (0x30180, 0x1), (0x30184, 0x3F0000), (0x301C0, 0x1), (0x301C4, 0x3F0000)
   , (0x30200, 0x1), (0x30204, 0x3F0000), (0x30240, 0x1), (0x30244, 0x3F0000), (0x30280, 0x1), (0x30284, 0x3F0000)
   , (0x302C0, 0x1), (0x302C4, 0x3F0000), (0x30300, 0x1), (0x30304, 0x3F0000), (0x30340, 0x1), (0x30344, 0x3F0000)
   , (0x30380, 0x1), (0x30384, 0x3F0000), (0x303C0, 0x1), (0x303C4, 0x3F0000), (0x30400, 0x1), (0x30404, 0x3F0000)
   , (0x30440, 0x1), (0x30444, 0x3F0000), (0x30480, 0x1), (0x30484, 0x3F0000), (0x304C0, 0x1), (0x304C4, 0x3F0000)
   , (0x34000, 0x5), (0x34004, 0x800080), (0x34008, 0x3000100), (0x34010, 0x80), (0x34040, 0x5), (0x34044, 0x800080)
   , (0x34048, 0x3000100), (0x34050, 0x80), (0x34080, 0x5), (0x34084, 0x800080), (0x34088, 0x3000100), (0x34090, 0x80)
   , (0x340C0, 0x5), (0x340C4, 0x800080)]

/-- The registers that hold a value other than zero at power-on reset (the Reset columns, R23), piece 5. -/
def resetRegs5 : List (Nat × BitVec 32) :=
  [(0x340C8, 0x3000100), (0x340D0, 0x80), (0x34100, 0x5), (0x34104, 0x800080), (0x34108, 0x3000100), (0x34110, 0x80)
   , (0x34140, 0x5), (0x34144, 0x800080), (0x34148, 0x3000100), (0x34150, 0x80), (0x34180, 0x5), (0x34184, 0x800080)
   , (0x34188, 0x3000100), (0x34190, 0x80), (0x341C0, 0x5), (0x341C4, 0x800080), (0x341C8, 0x3000100), (0x341D0, 0x80)
   , (0x34200, 0x1), (0x34204, 0x4000000), (0x34208, 0x3000100), (0x34210, 0x400), (0x34240, 0x1), (0x34244, 0x4000000)
   , (0x34248, 0x3000100), (0x34250, 0x400), (0x34280, 0x1), (0x34284, 0x4000000), (0x34288, 0x3000100), (0x34290, 0x400)
   , (0x342C0, 0x1), (0x342C4, 0x4000000), (0x342C8, 0x3000100), (0x342D0, 0x400), (0x34300, 0x1), (0x34304, 0x4000000)
   , (0x34308, 0x3000100), (0x34310, 0x400), (0x34340, 0x1), (0x34344, 0x4000000), (0x34348, 0x3000100), (0x34350, 0x400)
   , (0x34380, 0x1), (0x34384, 0x4000000), (0x34388, 0x3000100), (0x34390, 0x400), (0x343C0, 0x1), (0x343C4, 0x4000000)
   , (0x343C8, 0x3000100), (0x343D0, 0x400)]

/-- The registers that hold a value other than zero at power-on reset (the Reset columns, R23), piece 6. -/
def resetRegs6 : List (Nat × BitVec 32) :=
  [(0x34400, 0x1), (0x34404, 0x4000000), (0x34408, 0x3000100), (0x34410, 0x400), (0x34440, 0x1), (0x34444, 0x4000000)
   , (0x34448, 0x3000100), (0x34450, 0x400), (0x34480, 0x1), (0x34484, 0x4000000), (0x34488, 0x3000100), (0x34490, 0x400)
   , (0x344C0, 0x1), (0x344C4, 0x4000000), (0x344C8, 0x3000100), (0x344D0, 0x400), (0x34500, 0x1), (0x34504, 0x4000000)
   , (0x34508, 0x3000100), (0x34510, 0x400), (0x34540, 0x1), (0x34544, 0x4000000), (0x34548, 0x3000100), (0x34550, 0x400)
   , (0x34580, 0x1), (0x34584, 0x4000000), (0x34588, 0x3000100), (0x34590, 0x400), (0x345C0, 0x1), (0x345C4, 0x4000000)
   , (0x345C8, 0x3000100), (0x345D0, 0x400), (0x34600, 0x1), (0x34604, 0x4000000), (0x34608, 0x3000100), (0x34610, 0x400)
   , (0x34640, 0x1), (0x34644, 0x4000000), (0x34648, 0x3000100), (0x34650, 0x400), (0x34680, 0x1), (0x34684, 0x4000000)
   , (0x34688, 0x3000100), (0x34690, 0x400), (0x346C0, 0x1), (0x346C4, 0x4000000), (0x346C8, 0x3000100), (0x346D0, 0x400)
   , (0x34700, 0x1), (0x34704, 0x4000000)]

/-- The registers that hold a value other than zero at power-on reset (the Reset columns, R23), piece 7. -/
def resetRegs7 : List (Nat × BitVec 32) :=
  [(0x34708, 0x3000100), (0x34710, 0x400), (0x34740, 0x1), (0x34744, 0x4000000), (0x34748, 0x3000100), (0x34750, 0x400)
   , (0x34780, 0x1), (0x34784, 0x4000000), (0x34788, 0x3000100), (0x34790, 0x400), (0x347C0, 0x1), (0x347C4, 0x4000000)
   , (0x347C8, 0x3000100), (0x347D0, 0x400), (0x34800, 0x1), (0x34804, 0x4000000), (0x34808, 0x3000100), (0x34810, 0x400)
   , (0x34840, 0x1), (0x34844, 0x4000000), (0x34848, 0x3000100), (0x34850, 0x400), (0x34880, 0x1), (0x34884, 0x4000000)
   , (0x34888, 0x3000100), (0x34890, 0x400), (0x348C0, 0x1), (0x348C4, 0x4000000), (0x348C8, 0x3000100), (0x348D0, 0x400)
   , (0x34900, 0x1), (0x34904, 0x4000000), (0x34908, 0x3000100), (0x34910, 0x400), (0x34940, 0x1), (0x34944, 0x4000000)
   , (0x34948, 0x3000100), (0x34950, 0x400), (0x34980, 0x1), (0x34984, 0x4000000), (0x34988, 0x3000100), (0x34990, 0x400)
   , (0x349C0, 0x1), (0x349C4, 0x4000000), (0x349C8, 0x3000100), (0x349D0, 0x400), (0x34A00, 0x1), (0x34A04, 0x4000000)
   , (0x34A08, 0x3000100), (0x34A10, 0x400)]

/-- The registers that hold a value other than zero at power-on reset (the Reset columns, R23), piece 8. -/
def resetRegs8 : List (Nat × BitVec 32) :=
  [(0x34A40, 0x1), (0x34A44, 0x4000000), (0x34A48, 0x3000100), (0x34A50, 0x400), (0x34A80, 0x1), (0x34A84, 0x4000000)
   , (0x34A88, 0x3000100), (0x34A90, 0x400), (0x34AC0, 0x1), (0x34AC4, 0x4000000), (0x34AC8, 0x3000100), (0x34AD0, 0x400)
   , (0x34B00, 0x1), (0x34B04, 0x4000000), (0x34B08, 0x3000100), (0x34B10, 0x400), (0x34B40, 0x1), (0x34B44, 0x4000000)
   , (0x34B48, 0x3000100), (0x34B50, 0x400), (0x34B80, 0x1), (0x34B84, 0x4000000), (0x34B88, 0x3000100), (0x34B90, 0x400)
   , (0x34BC0, 0x1), (0x34BC4, 0x4000000), (0x34BC8, 0x3000100), (0x34BD0, 0x400), (0x34C00, 0x1), (0x34C04, 0x4000000)
   , (0x34C08, 0x3000100), (0x34C10, 0x400), (0x34C40, 0x1), (0x34C44, 0x4000000), (0x34C48, 0x3000100), (0x34C50, 0x400)
   , (0x34C80, 0x1), (0x34C84, 0x4000000), (0x34C88, 0x3000100), (0x34C90, 0x400), (0x34CC0, 0x1), (0x34CC4, 0x4000000)
   , (0x34CC8, 0x3000100), (0x34CD0, 0x400), (0x34D00, 0x1), (0x34D04, 0x4000000), (0x34D08, 0x3000100), (0x34D10, 0x400)
   , (0x34D40, 0x1), (0x34D44, 0x4000000)]

/-- The registers that hold a value other than zero at power-on reset (the Reset columns, R23), piece 9. -/
def resetRegs9 : List (Nat × BitVec 32) :=
  [(0x34D48, 0x3000100), (0x34D50, 0x400), (0x34D80, 0x1), (0x34D84, 0x4000000), (0x34D88, 0x3000100), (0x34D90, 0x400)
   , (0x34DC0, 0x1), (0x34DC4, 0x4000000), (0x34DC8, 0x3000100), (0x34DD0, 0x400), (0x34E00, 0x1), (0x34E04, 0x4000000)
   , (0x34E08, 0x3000100), (0x34E10, 0x400), (0x34E40, 0x1), (0x34E44, 0x4000000), (0x34E48, 0x3000100), (0x34E50, 0x400)
   , (0x34E80, 0x1), (0x34E84, 0x4000000), (0x34E88, 0x3000100), (0x34E90, 0x400), (0x34EC0, 0x1), (0x34EC4, 0x4000000)
   , (0x34EC8, 0x3000100), (0x34ED0, 0x400), (0x34F00, 0x1), (0x34F04, 0x4000000), (0x34F08, 0x3000100), (0x34F10, 0x400)
   , (0x34F40, 0x1), (0x34F44, 0x4000000), (0x34F48, 0x3000100), (0x34F50, 0x400), (0x34F80, 0x1), (0x34F84, 0x4000000)
   , (0x34F88, 0x3000100), (0x34F90, 0x400), (0x34FC0, 0x1), (0x34FC4, 0x4000000), (0x34FC8, 0x3000100), (0x34FD0, 0x400)
   , (0x35000, 0x3C003C00), (0x39008, 0x408), (0x39028, 0x408), (0x39048, 0x408), (0x39068, 0x408), (0x39088, 0x408)
   , (0x390A8, 0x408), (0x390C8, 0x408)]

/-- The registers that hold a value other than zero at power-on reset (the Reset columns, R23), piece 10. -/
def resetRegs10 : List (Nat × BitVec 32) :=
  [(0x390E8, 0x408), (0x39108, 0x408), (0x39128, 0x408), (0x39148, 0x408), (0x39168, 0x408), (0x39188, 0x408)
   , (0x391A8, 0x408), (0x391C8, 0x408), (0x391E8, 0x408), (0x39408, 0x400), (0x3940C, 0x1), (0x39428, 0x10400)
   , (0x3942C, 0x1), (0x39448, 0x20400), (0x3944C, 0x1), (0x39468, 0x30400), (0x3946C, 0x1), (0x39488, 0x40400)
   , (0x3948C, 0x1), (0x394A8, 0x50400), (0x394AC, 0x1), (0x394C8, 0x60400), (0x394CC, 0x1), (0x394E8, 0x70400)
   , (0x394EC, 0x1), (0x39608, 0x80400), (0x39628, 0x90400), (0x39800, 0x1), (0x39804, 0x5DC), (0x50008, 0x3E80F0A)
   , (0x5000C, 0x73), (0x50010, 0xF), (0x50018, 0x646464)]

/-- The registers that hold a value other than zero at power-on reset (the Reset columns, R23). -/
def resetRegs : List (Nat × BitVec 32) := resetRegs0 ++ resetRegs1 ++ resetRegs2 ++ resetRegs3 ++ resetRegs4 ++ resetRegs5 ++ resetRegs6 ++ resetRegs7 ++ resetRegs8 ++ resetRegs9 ++ resetRegs10

/-- The landing fields in effect at power-on reset, where not zero (R23, R25), piece 0. -/
def resetEff0 : List (Nat × BitVec 32) :=
  [(0xC000, 0x10), (0xC010, 0x1B7740), (0xC014, 0x34E), (0xC018, 0x1), (0xC01C, 0x927C0), (0xC084, 0xEA60)
   , (0xC088, 0x1), (0xC08C, 0x8CA), (0xC090, 0x200040), (0xC094, 0x800), (0xC098, 0x5DC), (0xC09C, 0x16E360)
   , (0xC0C4, 0xEA60), (0xC0C8, 0x1), (0xC0CC, 0x8CA), (0xC0D0, 0x200040), (0xC0D4, 0x800), (0xC0D8, 0x5DC)
   , (0xC0DC, 0x16E360), (0xC100, 0x10), (0xC110, 0x1B7740), (0xC114, 0x34E), (0xC118, 0x1), (0xC11C, 0x927C0)
   , (0xC184, 0xEA60), (0xC188, 0x1), (0xC18C, 0x8CA), (0xC190, 0x200040), (0xC194, 0x800), (0xC198, 0x5DC)
   , (0xC19C, 0x16E360), (0xC1C4, 0xEA60), (0xC1C8, 0x1), (0xC1CC, 0x8CA), (0xC1D0, 0x200040), (0xC1D4, 0x800)
   , (0xC1D8, 0x5DC), (0xC1DC, 0x16E360), (0x10000, 0xFF005F01), (0x10004, 0xFF005F00), (0x10008, 0xFF005F00), (0x1000C, 0xFF005F00)
   , (0x10018, 0x400081), (0x1001C, 0x1FF0E00), (0x10100, 0xFF005F00), (0x10104, 0xFF005F00), (0x10108, 0xFF005F00), (0x1010C, 0xFF005F00)
   , (0x10118, 0x400081), (0x1011C, 0x1FF0E00)]

/-- The landing fields in effect at power-on reset, where not zero (R23, R25), piece 1. -/
def resetEff1 : List (Nat × BitVec 32) :=
  [(0x14010, 0x1), (0x14014, 0x1B7740), (0x14110, 0x1), (0x14114, 0x1B7740), (0x18008, 0x1F), (0x1800C, 0xC8)
   , (0x18040, 0x1000), (0x18060, 0x1000), (0x18070, 0x1000), (0x18080, 0x1000), (0x18100, 0x1F02), (0x18120, 0x1F02)
   , (0x18140, 0x1F02), (0x18160, 0x1F02), (0x18408, 0x1F), (0x1840C, 0xC8), (0x18440, 0x1000), (0x18460, 0x1000)
   , (0x18470, 0x1000), (0x18480, 0x1000), (0x18500, 0x1F02), (0x18520, 0x1F02), (0x18540, 0x1F02), (0x18560, 0x1F02)
   , (0x18808, 0x1F), (0x1880C, 0xC8), (0x18840, 0x1000), (0x18860, 0x1000), (0x18870, 0x1000), (0x18880, 0x1000)
   , (0x18900, 0x1F02), (0x18920, 0x1F02), (0x18940, 0x1F02), (0x18960, 0x1F02), (0x18C08, 0x1F), (0x18C0C, 0xC8)
   , (0x18C40, 0x1000), (0x18C60, 0x1000), (0x18C70, 0x1000), (0x18C80, 0x1000), (0x18D00, 0x1F02), (0x18D20, 0x1F02)
   , (0x18D40, 0x1F02), (0x18D60, 0x1F02), (0x1C000, 0x10), (0x1C004, 0x20002000), (0x1C008, 0x20002000), (0x1C00C, 0x800)
   , (0x1C010, 0x800), (0x1C014, 0x4321)]

/-- The landing fields in effect at power-on reset, where not zero (R23, R25), piece 2. -/
def resetEff2 : List (Nat × BitVec 32) :=
  [(0x1C018, 0xFE50), (0x1C020, 0x8104001), (0x1C024, 0x180CE3), (0x1C100, 0x10), (0x1C104, 0x20002000), (0x1C108, 0x20002000)
   , (0x1C10C, 0x800), (0x1C110, 0x800), (0x1C114, 0x4321), (0x1C118, 0xFE50), (0x1C120, 0x8104001), (0x1C124, 0x180CE3)
   , (0x1C200, 0x10), (0x1C204, 0x20002000), (0x1C208, 0x20002000), (0x1C20C, 0x800), (0x1C210, 0x800), (0x1C214, 0x4321)
   , (0x1C218, 0xFE50), (0x1C220, 0x8104001), (0x1C224, 0x180CE3), (0x1C300, 0x10), (0x1C304, 0x20002000), (0x1C308, 0x20002000)
   , (0x1C30C, 0x800), (0x1C310, 0x800), (0x1C314, 0x4321), (0x1C318, 0xFE50), (0x1C320, 0x8104001), (0x1C324, 0x180CE3)
   , (0x1C400, 0x1040), (0x1C40C, 0x3A98), (0x1C410, 0x36EE80), (0x1C440, 0x1040), (0x1C44C, 0x3A98), (0x1C450, 0x36EE80)
   , (0x20000, 0x2), (0x20004, 0x2652), (0x2000C, 0x44AA20), (0x20100, 0x2BF20), (0x20108, 0x5E86048), (0x2010C, 0x600000)
   , (0x20110, 0x1010000), (0x20120, 0x2BF20), (0x20128, 0x5E86048), (0x2012C, 0x600000), (0x20130, 0x1010000), (0x20140, 0x2BF20)
   , (0x20148, 0x5E86048), (0x2014C, 0x600000)]

/-- The landing fields in effect at power-on reset, where not zero (R23, R25), piece 3. -/
def resetEff3 : List (Nat × BitVec 32) :=
  [(0x20150, 0x1010000), (0x20160, 0x2BF20), (0x20168, 0x5E86048), (0x2016C, 0x600000), (0x20170, 0x1010000), (0x20300, 0x44AA20)
   , (0x20308, 0x44AA20), (0x20310, 0x44AA20), (0x20318, 0x44AA20), (0x20320, 0x44AA20), (0x20328, 0x44AA20), (0x20330, 0x44AA20)
   , (0x20338, 0x44AA20), (0x24004, 0x271), (0x2C00C, 0xEA60), (0x2C02C, 0xEA60), (0x2C04C, 0xEA60), (0x2C06C, 0xEA60)
   , (0x120000, 0x2), (0x120004, 0x2652), (0x12000C, 0x44AA20), (0x120100, 0x2BF20), (0x120108, 0x5E86048), (0x12010C, 0x600000)
   , (0x120110, 0x1010000), (0x120120, 0x2BF20), (0x120128, 0x5E86048), (0x12012C, 0x600000), (0x120130, 0x1010000), (0x120140, 0x2BF20)
   , (0x120148, 0x5E86048), (0x12014C, 0x600000), (0x120150, 0x1010000), (0x120160, 0x2BF20), (0x120168, 0x5E86048), (0x12016C, 0x600000)
   , (0x120170, 0x1010000), (0x120300, 0x44AA20), (0x120308, 0x44AA20), (0x120310, 0x44AA20), (0x120318, 0x44AA20), (0x120320, 0x44AA20)
   , (0x120328, 0x44AA20), (0x120330, 0x44AA20), (0x120338, 0x44AA20), (0x12C00C, 0xEA60), (0x12C02C, 0xEA60), (0x12C04C, 0xEA60)
   , (0x12C06C, 0xEA60), (0x220000, 0x2)]

/-- The landing fields in effect at power-on reset, where not zero (R23, R25), piece 4. -/
def resetEff4 : List (Nat × BitVec 32) :=
  [(0x220004, 0x2652), (0x22000C, 0x44AA20), (0x220100, 0x2BF20), (0x220108, 0x5E86048), (0x22010C, 0x600000), (0x220110, 0x1010000)
   , (0x220120, 0x2BF20), (0x220128, 0x5E86048), (0x22012C, 0x600000), (0x220130, 0x1010000), (0x220140, 0x2BF20), (0x220148, 0x5E86048)
   , (0x22014C, 0x600000), (0x220150, 0x1010000), (0x220160, 0x2BF20), (0x220168, 0x5E86048), (0x22016C, 0x600000), (0x220170, 0x1010000)
   , (0x220300, 0x44AA20), (0x220308, 0x44AA20), (0x220310, 0x44AA20), (0x220318, 0x44AA20), (0x220320, 0x44AA20), (0x220328, 0x44AA20)
   , (0x220330, 0x44AA20), (0x220338, 0x44AA20), (0x22C00C, 0xEA60), (0x22C02C, 0xEA60), (0x22C04C, 0xEA60), (0x22C06C, 0xEA60)
   , (0x320000, 0x2), (0x320004, 0x2652), (0x32000C, 0x44AA20), (0x320100, 0x2BF20), (0x320108, 0x5E86048), (0x32010C, 0x600000)
   , (0x320110, 0x1010000), (0x320120, 0x2BF20), (0x320128, 0x5E86048), (0x32012C, 0x600000), (0x320130, 0x1010000), (0x320140, 0x2BF20)
   , (0x320148, 0x5E86048), (0x32014C, 0x600000), (0x320150, 0x1010000), (0x320160, 0x2BF20), (0x320168, 0x5E86048), (0x32016C, 0x600000)
   , (0x320170, 0x1010000), (0x320300, 0x44AA20)]

/-- The landing fields in effect at power-on reset, where not zero (R23, R25), piece 5. -/
def resetEff5 : List (Nat × BitVec 32) :=
  [(0x320308, 0x44AA20), (0x320310, 0x44AA20), (0x320318, 0x44AA20), (0x320320, 0x44AA20), (0x320328, 0x44AA20), (0x320330, 0x44AA20)
   , (0x320338, 0x44AA20), (0x420000, 0x2), (0x420004, 0x2652), (0x42000C, 0x44AA20), (0x420100, 0x2BF20), (0x420108, 0x5E86048)
   , (0x42010C, 0x600000), (0x420110, 0x1010000), (0x420120, 0x2BF20), (0x420128, 0x5E86048), (0x42012C, 0x600000), (0x420130, 0x1010000)
   , (0x420140, 0x2BF20), (0x420148, 0x5E86048), (0x42014C, 0x600000), (0x420150, 0x1010000), (0x420160, 0x2BF20), (0x420168, 0x5E86048)
   , (0x42016C, 0x600000), (0x420170, 0x1010000), (0x420300, 0x44AA20), (0x420308, 0x44AA20), (0x420310, 0x44AA20), (0x420318, 0x44AA20)
   , (0x420320, 0x44AA20), (0x420328, 0x44AA20), (0x420330, 0x44AA20), (0x420338, 0x44AA20)]

/-- The landing fields in effect at power-on reset, where not zero (R23, R25). -/
def resetEff : List (Nat × BitVec 32) := resetEff0 ++ resetEff1 ++ resetEff2 ++ resetEff3 ++ resetEff4 ++ resetEff5

end Sys2Proof.Machine
end

