-- ==== Sys2Proof/Machine/State.lean ====
section
/-! DEFINITION. The state of the set, as plain data: every register of the address map in one register file, and
the state the rules name behind the registers, block by block; the queue of waiting commands; the state after
power-on reset. -/

namespace Sys2Proof.Machine

/-- The set stops with no fault of its own: the rules name none, every violating access is silent (R87). The one
constructor exists so that the type has a value; no meaning raises it. Safe. -/
inductive Fault where
  | stuck
  deriving DecidableEq, Repr

/-- Why a command has no meaning. -/
inductive Refusal where
  /-- The command of this mnemonic has no meaning in the model yet; raised by its arm of `exec` alone. Safe: the
  machine stops where the hardware goes on. -/
  | notModelled (mnemonic : String)
  deriving DecidableEq, Repr

end Sys2Proof.Machine

namespace Sys2Proof.Machine

/-- Phases of the Newel (`NWL_STATUS.LOCK_PHASE`, Table 2.10). -/
inductive LockPhase where
  | off | settle | band | lockCount | locked | holdover | reacq
  deriving DecidableEq, Repr

/-- How NEWEL_TIME counts: by ticks (R59), by 15 per reference cycle (R60), or not at all (R61). Between a power-on reset
and lock there is no NEWEL_TIME; the galleries' own count goes on in its place (`own`; log entry 5). -/
inductive Counting where
  | ticks | refCycles | held | own
  deriving DecidableEq, Repr

/-- The Newel behind its registers (02_newel_timebase.md). -/
structure Newel where
  /-- Phase of the lock machine (R46 to R52). -/
  phase : LockPhase
  /-- `now` at which the phase in progress of the lock sequence ends (Table 2.2). -/
  phaseEnd : Nat
  /-- NEWEL_TIME (R59). -/
  time : Nat
  /-- How NEWEL_TIME counts. -/
  counting : Counting
  /-- Tick equivalents passed in the present reference cycle while counting by reference cycles (R60). -/
  refTicks : Nat
  /-- Whether reference edges arrive at the selected source (R41). -/
  refPresent : Bool
  /-- Whether lock has been declared since power-on (R59). -/
  everLocked : Bool
  /-- The accepting tick of a pending commit (R54). -/
  commitAt : Option Nat
  /-- Epoch of the latest change of each divisor: XCLK0, XCLK1, monitor clock (R56, R57). -/
  changeX0 : Nat
  changeX1 : Nat
  changeMon : Nat
  /-- The model's tick of the latest pin capture: one of the same tick is stored after a software capture (R63). -/
  pinCapture : Option Nat
  deriving DecidableEq, Repr

/-- Supplies, straps, boot and resets behind their registers (03, 04). -/
structure Boot where
  /-- Both supplies good (R94, R95). -/
  powered : Bool
  /-- Resistance at head straps STRAP0 to STRAP11 in ohms (R70); an open pin reads far above 200 kΩ. -/
  strapOhms : List Nat
  /-- The strap decode is valid (R73). -/
  decoded : Bool
  /-- Level and anomaly flag of STRAP1 latched at decode-valid by the reference selector (R74). -/
  strap1 : Nat × Bool
  /-- All twelve pins have been latched since the sense began (R75). -/
  latched : Bool
  /-- Firmware slots left to try (0 A, 1 B) and whether one has failed already (R99). -/
  slotsLeft : List Nat
  slotFailed : Bool
  /-- NEWEL_TIME from which `PWR_BOOT_US` counts (R103). -/
  bootFrom : Nat
  /-- `PWR_BOOT_REPORT` and the urgent reset notices still owed to the host (R117). -/
  reportDue : Bool
  urgentDue : Bool
  /-- PERST# asserted (R104). -/
  perst : Bool
  /-- The firmware watchdog is armed (R116). -/
  watchdog : Bool
  /-- A full reset waits for the lock sequence it needs (R113). -/
  resetAtLock : Bool
  /-- A cold boot waits for main good (R135). -/
  vaultWake : Bool
  /-- The boot in progress is the climb from Vault (R137). -/
  fromVault : Bool
  /-- The debug port has driven DBG_TDO in an access that its mode permits (Table 4.2). -/
  tdo : Bool
  /-- Main input present. -/
  mainGood : Bool
  deriving DecidableEq, Repr

/-- The Stair behind `PWR_STEP_STATUS` (05_the_stair.md). -/
structure Stair where
  /-- Step the head was at when a climb began (R137). -/
  left : Nat
  /-- Step the climb in progress goes to (R136). -/
  climbTo : Nat
  /-- A wake accepted after the commit tick, kept until the step is reached (R132). -/
  wakeHeld : Bool
  /-- That wake asks for Run whatever `WAKE_TARGET` holds (R124). -/
  heldRun : Bool
  /-- A target written during a power-down or deeper than a climb, which acts once the step is reached or left. -/
  late : Option Nat
  /-- NEWEL_TIME at which the park phase in progress began (Table 5.3). -/
  parkFrom : Nat
  /-- Park write phases completed in consecutive cycles (Table 5.3). -/
  parkCycles : Nat
  /-- The entry's commit point as `now`, for the deep detector (R140). -/
  commitNow : Nat
  /-- NEWEL_TIME from which, and until which, frames were set up last: Run with no entry in progress (R128, R174). -/
  runFrom : Nat
  runUntil : Nat
  deriving DecidableEq, Repr

/-- A message of the device to the host: an MSI-X message, a completion of a host request, a request of its own. -/
inductive HostMsg where
  | msix (addr data : Nat)
  | cfgRetry
  | cfgDone (data : Nat)
  | unsupported
  | readDone (data : List Byte)
  | debug (data : Nat)
  /-- A read request for host memory: address and length (R547). -/
  | request (addr len : Nat)
  /-- A posted write to host memory: address, data, and whether it carries Relaxed Ordering (R546). -/
  | write (addr : Nat) (data : List Byte) (relaxed : Bool)
  /-- The reply to a debug access in a mode that does not serve it. -/
  | debugRefused
  deriving DecidableEq, Repr

/-- One MSI-X vector: table entry and pending bit (R542). -/
structure Vector32 where
  addr : Nat
  data : Nat
  masked : Bool
  pending : Bool
  deriving DecidableEq, Repr

/-- The PCIe endpoint (20_pcie_and_notices.md). -/
structure Pcie where
  /-- Configuration space words the host has written, by dword offset (R537). -/
  config : Regs
  vectors : List Vector32
  /-- D3hot (R545). -/
  d3hot : Bool
  /-- Tick of the latest request or completion, for the L1 request (R543). -/
  lastTraffic : Nat
  /-- AER status bits logged, correctable and uncorrectable, and the header logged with its error (R550). -/
  aerCorr : Nat
  aerUncorr : Nat
  aerFirst : Option Nat
  aerHeader : List Nat
  /-- Host requests that wait for the link's exit from L1.2, in order (R145). -/
  waiting : List Instr
  /-- What the device has sent to the host, in order. -/
  sent : List HostMsg
  /-- Bytes the device has written to host memory. -/
  hostMem : Bytes
  deriving DecidableEq, Repr

/-- A strobe pin (15_illumination_and_monitors.md, R408 to R412). -/
structure Strobe where
  /-- Windows fixed and not yet over: opening and closing tick in NEWEL_TIME. -/
  windows : List (Nat × Nat)
  /-- The shared flags as they stand delayed by 4 ticks, and their changes on the way: tick, flag, level (Table 15.1). -/
  flagQueue : List (Nat × Nat × Bool)
  flags : Nat
  /-- Since when the source window (R410) is open. -/
  openSince : Option Nat
  /-- The pin shows the open window. -/
  shown : Bool
  /-- EN has been written 1 since power-up (R412). -/
  released : Bool
  deriving DecidableEq, Repr

/-- A setpoint output (R414 to R418). -/
structure Iset where
  code : Nat
  wide : Bool
  /-- End of the dead time, when one runs. -/
  deadUntil : Option Nat
  /-- `ILM_ISET_CODE` or `ILM_ISET_CTRL` has been written (R418). -/
  written : Bool
  /-- The range last asked for by an accepted cause (R416), and the CD51 edge of a change not yet made. -/
  target : Bool
  changeAt : Option Nat
  /-- At 0 V since the commit point of an entry to Hush or deeper, until the climb to Poise or Run (R428). -/
  off : Bool
  deriving DecidableEq, Repr

/-- A storage node of a camera's band (R151 to R154). -/
structure Node where
  /-- Ticks of light collected since the node's reset. -/
  collected : Nat
  /-- Start of the open sub-exposure. -/
  openSince : Option Nat
  /-- Tick at which the latest reset began. -/
  resetAt : Nat
  deriving DecidableEq, Repr

/-- A sub-exposure [start, stop) of node `node` (R156). -/
structure Exposure where
  node : Nat
  start : Nat
  stop : Nat
  deriving DecidableEq, Repr

/-- A placed readout (R186 to R188): slot `i` is [start + i T, start + (i + 1) T). -/
structure Readout where
  node : Nat
  start : Nat
  slotTicks : Nat
  /-- Row pairs converted, in order: 0 to 255 active, 256 + k black row pair Bk; with counter binning the first of
  each two (R182, R184). -/
  pairs : List Nat
  /-- Slots completed. -/
  next : Nat
  begun : Bool
  deriving DecidableEq, Repr

/-- A window of a readout (R181), columns in blocks of 64. -/
structure Window where
  w : Nat
  colFirst : Nat
  colLast : Nat
  pairFirst : Nat
  pairLast : Nat
  deriving DecidableEq, Repr

/-- A frame of a camera (R161, R210). -/
structure Frame where
  /-- Frame start F. -/
  start : Nat
  /-- The settings record of Table 7.4, eight words. -/
  record : List Nat
  exposures : List Exposure
  readouts : List Readout
  started : Bool
  /-- Windows in effect at its setup tick, which its readouts deliver (R182, R202). -/
  wins : List Window
  deriving DecidableEq, Repr

/-- What the servos take from one node readout (R197 to R199): sums and counts of black-column samples per bank and
of green samples per window. -/
structure Meter where
  node : Nat
  ended : Nat
  topSum : Nat
  topCount : Nat
  botSum : Nat
  botCount : Nat
  green : List (Nat × Nat)
  usedDark : Bool
  usedExp : Bool
  deriving DecidableEq, Repr

/-- A logical camera behind its registers (06, 07). -/
structure Camera where
  /-- A start has been accepted and no stop since (R164, R170). -/
  active : Bool
  /-- Ticks on which the latest start and the latest stop were accepted. -/
  startedAt : Nat
  stoppedAt : Nat
  /-- Next slot of the grid or burst. -/
  nextSlot : Option Nat
  /-- Period of the grid (R164). -/
  period : Nat
  /-- Slots of the burst in progress that still lie ahead of their setup tick (R163). -/
  burstAhead : Nat
  frames : List Frame
  nodes : List Node
  /-- Last sub-exposure end and readout end of each node of the previous frame (R162). -/
  lastExposure : Nat
  lastReadout : List Nat
  /-- Readouts finished and not yet used by a loop, and the one in progress per node. -/
  meters : List Meter
  metering : List Meter
  /-- Hardware ownership in effect at the previous frame: dark-level servo, exposure servo A, B (R196). -/
  owned : List Bool
  /-- The slot passed over last at Poise or deeper: its setup tick, its frame start, BURST_LEFT and the slots ahead before
  it was passed (R174). -/
  passed : Option (Nat × Nat × Nat × Nat)
  /-- Frame fields of the camera, those owned through its pipelines and the servo outputs, in effect for the camera's
  previous frame (R209). -/
  seen : List Nat
  deriving DecidableEq, Repr

/-- A line of a companion frame on its way to the pipeline (R226 to R231): its words, its mark (0 none, 1 CRC, 2 LENGTH,
3 MISSING), its stamp and its release tick. -/
structure XLine where
  words : List Nat
  mark : Nat
  stamp : Nat
  releaseAt : Nat
  deriving DecidableEq, Repr

/-- A companion frame (R225, R231, Table 8.3). -/
structure XFrame where
  /-- Stamp, and the stamp before the LAT_ADJ subtraction. -/
  start : Nat
  edge : Nat
  /-- `XPT_LINES` and `XPT_LAT_ADJ` in effect. -/
  lines : Nat
  lat : Nat
  /-- Lines ended and not yet released, and released. -/
  queue : List XLine
  released : List XLine
  closed : Bool
  crc : Nat
  length : Nat
  missing : Nat
  strays : Nat
  firstBad : Option Nat
  lastBad : Option Nat
  timeout : Bool
  eye : Bool
  stopped : Bool
  clock : Bool
  deriving DecidableEq, Repr

/-- A companion port behind its registers (08_companion_ports.md). -/
structure XPort where
  /-- Tick on which the training in progress ends (R219). -/
  trainEnd : Nat
  /-- Frames open or not yet released whole. -/
  frames : List XFrame
  /-- First-beat tick of the line in progress. -/
  line : Option Nat
  /-- Stray lines since the latest close. -/
  strays : Nat
  /-- A stop waits for the line in progress (R235). -/
  stopping : Bool
  /-- First edge and close tick of the latest frame closed. -/
  last : Nat × Nat
  /-- The model's tick on which FVAL was last sampled at 1 after 0 by the running port (R225, R235). -/
  rise : Option Nat
  /-- Tick on which EN was last written 1, and end of the high half of XCLKx in progress when it was last written 0
  (R216). -/
  clockFrom : Nat
  highUntil : Nat
  /-- Frame fields of the port and of its pipeline in effect for the port's previous frame (R238). -/
  seen : List Word
  deriving DecidableEq, Repr

/-- A closed packet of a Hall queue (R458, R459). -/
structure Packet where
  bytes : List Byte
  /-- Marked in error to its reader (R467, R468). -/
  error : Bool
  /-- A double-bit error found by the scrubber waits to be reported when the packet is read (R470). -/
  bad : Bool
  /-- The model's tick from which the reader sees it. -/
  visibleAt : Nat
  /-- The write port that closed it (R462). -/
  port : Nat
  deriving DecidableEq, Repr

/-- A packet still being written: its write port and the bytes taken (R458). -/
structure OpenPacket where
  port : Nat
  bytes : List Byte
  /-- A double-bit error found by the scrubber in one of its cells (R470). -/
  bad : Bool
  deriving DecidableEq, Repr

/-- A queue of the Hall's shared region (17_hall_queues.md). -/
structure Queue where
  closed : List Packet
  opens : List OpenPacket
  /-- Porters that drain the queue, in order of request (R463). -/
  readers : List Nat
  /-- The packet that its reader was within when the queue was emptied (R467, R473). -/
  lost : Option Packet
  deriving DecidableEq, Repr

/-- A packet complete at a writer and waiting for its port. -/
structure OutPacket where
  queue : Nat
  bytes : List Byte
  /-- The writer's part sequence number and the packet's type: 1 header, 2 body, 3 trailer (R275), 4 a trailer of a
  voided part (R289), 0 a monitor block. -/
  seq : Nat
  kind : Nat
  deriving DecidableEq, Repr

/-- A write port of the Hall: the packet on it, how many of its bytes the Hall has taken, whether it is open, and the
packets complete behind it (R462, R289). -/
structure Port where
  cur : Option OutPacket
  taken : Nat
  opened : Bool
  waiting : Bool
  /-- The model's tick of the next write. -/
  nextAt : Nat
  behind : List OutPacket
  deriving DecidableEq, Repr

/-- A fire command in HQg (Table 12.1, R464). -/
structure FireCmd where
  jets : Nat
  fire : Nat
  seq : Nat
  dur : Nat
  gallery : Nat
  fallback : Bool
  doubt : Bool
  /-- NEWEL_TIME at which it entered its queue. -/
  entered : Nat
  /-- Has been sent at least once (R363). -/
  sentOnce : Bool
  /-- The scrubber found a double-bit error in it (R468, R470). -/
  bad : Bool
  deriving DecidableEq, Repr

/-- The Hall behind its registers. -/
structure Hall where
  /-- HQ0 to HQ63; the packets of HQ0 to HQ7 are in `fire`. -/
  queues : List Queue
  fire : List (List FireCmd)
  /-- Watermark state ABOVE of the 64 queues (R471). -/
  above : List Bool
  /-- Write ports 0 to 16 (Table 17.1). -/
  ports : List Port
  /-- A free-list rebuild in progress, shared and fire region (R469). -/
  rebuilding : Bool
  fireRebuilding : Bool
  /-- `HAL_FLOW_MAP` has been written since reset (R472). -/
  flowReleased : Bool
  /-- A host-side reset has emptied the queues and the host has not yet restored bus mastering and rings (R115). -/
  hostLost : Bool
  deriving DecidableEq, Repr

/-- One tap's work on a part: 0 nothing formed, 1 admitted, 2 finished or never formed (R279, R288). -/
structure TapPart where
  state : Nat
  seq : Nat
  /-- Body packets formed. -/
  next : Nat
  deriving DecidableEq, Repr

/-- A frame part of a pipeline (R274): its raw rows, the tick and mark of each output row, its planes and classes,
and what its taps have done. -/
structure Part where
  node : Nat
  /-- Window; 4 for the black row pairs (kind 4). -/
  win : Nat
  corr : Corr
  /-- Digital binning factor (R185). -/
  k : Nat
  /-- Stage 0 values (R243), rows as delivered, and their width. -/
  raw : List (List Int)
  width : Nat
  /-- Output rows the part will have (R284). -/
  rows : Nat
  /-- For each output row, the tick on which its last source row leaves the converters or is released, and its mark
  (R276). -/
  ticks : List Nat
  /-- Stamps of the rows (R276). -/
  stamps : List Nat
  marks : List Nat
  px : List (List Px)
  classes : List (List Nat)
  /-- For each source row, the tick on which it leaves the converters or is released, and its stage 3 results (R257, R266). -/
  leave : List Nat
  fixed : List (List Px3)
  mismatch : Bool
  taps : List TapPart
  deriving DecidableEq, Repr

/-- An object of the segmenter (R297, R301). -/
structure Obj where
  win : Nat
  area : Nat
  rowFirst : Nat
  rowLast : Nat
  colFirst : Nat
  colLast : Nat
  sumRow : Nat
  sumCol : Nat
  /-- Pixels of each class 0 to 15. -/
  counts : List Nat
  overflow : Bool
  /-- Close tick and number (R298, R299). -/
  close : Nat
  num : Nat
  deriving DecidableEq, Repr

/-- An object record (Table 11.2) with what tracking, joins and the planner use of it. -/
structure Rec where
  pipe : Nat
  /-- Frame start and record node's exposure midpoint of its frame (R308). -/
  start : Nat
  tmB : Nat
  node : Nat
  win : Nat
  num : Nat
  /-- Issue tick, and whether it has been issued (R305). -/
  issueAt : Nat
  issued : Bool
  /-- Centroid row in the sense of `CLS_CTRL.DIR` (R303) and as reported, centroid column. -/
  rowM : Int
  rowB : Nat
  colB : Nat
  rowFirst : Nat
  rowLast : Nat
  colFirst : Nat
  colLast : Nat
  area : Nat
  classes : Nat
  tallies : List Nat
  overflow : Bool
  edgeUp : Bool
  edgeDown : Bool
  edgeSide : Bool
  /-- Matched to a node A object, displacement and interval (R306, R307). -/
  matched : Bool
  aEdge : Bool
  valid : Bool
  dr : Int
  dt : Int
  vy : Int
  vx : Int
  tracked : Bool
  pred : Nat
  orphan : Bool
  plan : Bool
  /-- A record of the track up to this one is a planning record (R310). -/
  planned : Bool
  stale : Bool
  tv : Int
  setgen : Nat
  /-- Fields in effect for the frame (R315, R321). -/
  eff : Regs
  deriving DecidableEq, Repr

/-- A frame of its source in a pipeline (R205, R210, R500). -/
structure PipeFrame where
  start : Nat
  src : Nat
  flight : Bool
  /-- FRAME_SEQ of its headers (Table 10.2). -/
  seq : Nat
  /-- Fields in effect for the frame, and its 32-byte settings or status record. -/
  eff : Regs
  record : List Nat
  /-- Temperature, segment, weight, clamp and fallback of R253, R254. -/
  temp : Int
  seg : Nat
  weight : Int
  clamped : Bool
  fallback : Bool
  /-- Pixel-die zone temperature at the setup tick (R523). -/
  zone : Int
  /-- Enabled nodes and their exposure midpoints (R308). -/
  nodeA : Bool
  nodeB : Bool
  tmA : Nat
  tmB : Nat
  /-- Readout ends of the nodes, once begun (R305). -/
  endA : Option Nat
  endB : Option Nat
  parts : List Part
  objsA : List Obj
  objsB : List Obj
  recs : List Rec
  /-- Ticks on which a readout opens its overflow object, not yet counted; a companion frame has counted its one (R300). -/
  overflowAt : List Nat
  spilled : Bool
  /-- The previous frame of the run: record node midpoint and records (R309), once the records have been formed. -/
  before : Option (Nat × List Rec)
  /-- The tick of record-complete, once known, and whether it has passed (R305). -/
  completeAt : Option Nat
  complete : Bool
  kind3 : TapPart
  /-- The pipeline stopped while the frame was in it: last tick of the row pair in progress (R305, R532). -/
  stopAt : Option Nat
  /-- Planning records not yet handed to the planner (R500). -/
  planning : Nat
  deriving DecidableEq, Repr

/-- An admitted part whose trailer its queue has not accepted: frame start, PART_SEQ, body packets accepted, whether it
has been voided, and the queue it is written to (R277, R289, R290). -/
structure OpenPart where
  frame : Nat
  seq : Nat
  accepted : Nat
  voided : Bool
  queue : Nat
  deriving DecidableEq, Repr

/-- A tap of a pipeline (R288 to R291). -/
structure Tap where
  /-- Parts skipped since the last header written, and how many of them the header being written shows (Table 10.2). -/
  skipped : Nat
  shown : Nat
  /-- Admitted parts whose trailer the queue has not accepted. -/
  opens : List OpenPart
  deriving DecidableEq, Repr

/-- A pipeline behind its registers (R500). -/
structure Pipe where
  /-- Frames a CAPTURE task has still to take; the task runs until its last frame's tap parts have closed. -/
  capture : Option Nat
  /-- Bound by the armed flight, past its first landing point, told to disarm (R501, R503). -/
  bound : Bool
  landed : Bool
  disarming : Bool
  frames : List PipeFrame
  /-- The previous frame of the run: record node midpoint and records (R309). -/
  prev : Option (Nat × List Rec)
  taps : List Tap
  deriving DecidableEq, Repr

/-- A decision of a join unit or of an unjoined pipeline (R316). -/
structure Decision where
  lead : Option Rec
  partner : Option Rec
  disp : Nat
  /-- Join unit, 2 for none. -/
  join : Nat
  /-- Fields of the join as they apply to the decision (R315, R316). -/
  eff : Regs
  at_ : Nat
  deriving DecidableEq, Repr

/-- A join unit (R312 to R318): lead and partner records waiting, records decided on underrun with their side, and
the coverage of each side. -/
structure Join where
  waiting : List (Nat × Rec)
  under : List (Nat × Rec)
  cover : List Nat
  deriving DecidableEq, Repr

/-- The ejection planner behind its registers (12_ejection_planner.md). -/
structure Planner where
  /-- Decisions decided and not yet handed over (R316). -/
  handing : List Decision
  /-- The intake: decision and completion tick (R319). -/
  intake : List (Decision × Nat)
  /-- End tick E of the latest pulse queued for a jet (R333); jets with none are not listed. -/
  jetEnd : List (Nat × Nat)
  /-- SEQ of each gallery (R340). -/
  seq : List Nat
  deriving DecidableEq, Repr

/-- A write-phase frame the head sends (Table 13.2): kind 0 FIRE, 1 OUTSET, 2 REGW, 3 REGR, 4 SETUP; gallery, tick on
which its first bit leaves HOLOT A, and payload fields in the order of their tables. -/
structure LinkFrame where
  kind : Nat
  gal : Nat
  start : Nat
  data : List Nat
  deriving DecidableEq, Repr

/-- A gallery address that has been sent a SETUP (R372), as the head keeps it. -/
structure Member where
  pos : Nat
  slot : Nat
  /-- Ring delay (R370). -/
  delay : Nat
  /-- Enumerated (R374). -/
  enum : Bool
  /-- Consecutive missing cycles (R375). -/
  miss : Nat
  /-- A valid read frame has been held this cycle, or the slot is known to be missing. -/
  held : Option Bool
  /-- ACK of this cycle's read frame, SEQ that the next FIRE names as PREV, and SEQ of the commands sent this cycle
  (R363). -/
  ack : Nat
  prev : Nat
  sent : List Nat
  /-- OUTSET sent this cycle and the PARK value of one sent in full, SETUP sent this cycle (R361, R376). -/
  outset : Bool
  parked : Option Nat
  setup : Bool
  deriving DecidableEq, Repr

/-- A frame or marker of the head on its way to a unit of the ring, with the tick on which it takes effect there (R356,
R364). -/
structure Flight where
  tick : Nat
  unit : Nat
  frame : LinkFrame
  deriving DecidableEq, Repr

/-- A gallery register transaction (R366; R580, R588 for those of the thermal manager): kind 0 of the host, 1 a write
of the hold throttle, 2 a reading of a heat-sink sensor; gallery, register address, data, and the cycle in which its
frame was sent. -/
structure Greg where
  kind : Nat
  write : Bool
  gal : Nat
  addr : Nat
  data : Nat
  sent : Option Nat
  deriving DecidableEq, Repr

/-- The Holot link of the head (13_holot_link.md). -/
structure Link where
  /-- Tick on which the enumeration phase in progress began; the phase stands failed (R374). -/
  phaseStart : Nat
  failed : Bool
  /-- rtt of each hop in this enumeration (R369), delays d_i and loop delay D (R370). -/
  rtts : List Nat
  /-- Units that have echoed a PROBE, in ring order (R369). -/
  nodes : List Nat
  delays : List Nat
  loop : Nat
  /-- IDENT replies: position, strap word, revision (R371). -/
  replies : List (Nat × Nat × Nat)
  silent : Nat
  dup : Nat
  /-- Members by gallery address. -/
  members : List (Option Member)
  nslot : Nat
  /-- Cycles of the enumeration that still count towards R374. -/
  enumLeft : Nat
  /-- Cycles run; start and length of the latest cycle; its number, and its running index; next start where fixed. -/
  cycling : Bool
  start : Nat
  len : Nat
  cyc : Nat
  index : Nat
  next : Option Nat
  /-- The write frame on the line, or the end of an ABT character; the end of the latest time marker, IDENT request or HOP
  frame sent. -/
  line : Option LinkFrame
  abt : Option Nat
  lineEnd : Nat
  /-- Running disparity of HOLOT A's transmitter (true: positive) as it stands at a character boundary (R346). -/
  rd : Bool
  rdAt : Nat
  /-- Frames and markers on their way to the units of the ring, and write frames not yet returned at HOLOT B. -/
  inFlight : List Flight
  echoes : List (Nat × LinkFrame)
  /-- The link is being disabled: it ends with the frame on the line (R378). -/
  closing : Bool
  /-- Cycles without a returning marker, and beyond the drift limit (R377); a marker has returned this cycle. -/
  openCycles : Nat
  driftCycles : Nat
  /-- Register transactions open, in the order asked for; the next sensor read, and whether one was sent this cycle. -/
  gregs : List Greg
  sensor : Nat
  sensed : Bool
  /-- Step carried as PARK in OUTSET frames (Table 13.7). -/
  park : Nat
  deriving DecidableEq, Repr

/-- What happened to sticky bits and counters on one tick (R27, R28): the model's tick, bits set, counts added, bits
cleared by W1C, by register offset. -/
structure Moment where
  tick : Nat
  marks : Regs
  counts : Regs
  cleared : Regs
  deriving DecidableEq, Repr

/-- A pulse of a gallery channel (R385 to R387): its channel, ticks F and F + D, end of its peak phase, setpoints in mA,
whether its switch is closed, whether it stays open for the rest of the pulse, and whether its current has been judged
(R398). -/
structure Pulse where
  ch : Nat
  start : Nat
  stop : Nat
  peakEnd : Nat
  ip : Nat
  ih : Nat
  closed : Bool
  folded : Bool
  hot : Bool
  judged : Bool
  deriving DecidableEq, Repr

/-- A read frame's content as a station latches it (Table 13.5, R356), with the CYC of the cycle it is for, the model's tick
on which its last bit has left the station, and whether the station has sent it (R357). -/
structure ReadContent where
  cyc : Nat
  sentAt : Nat
  sent : Bool
  stat : Nat
  inputs : Nat
  on_ : Nat
  peak : Nat
  ack : Nat
  aux : Nat
  deriving DecidableEq, Repr

/-- A cycle as a station counts it (R356, R366, R382): its start and the next one's, its CYC, whether its marker and an
OUTSET of its CYC have been accepted, whether the station has latched its read frame, and the tick on which it is judged. Its
ticks are `now`: a station counts on while the
head holds NEWEL_TIME. -/
structure StationCycle where
  start : Nat
  next : Nat
  cyc : Nat
  marker : Bool
  outset : Bool
  latched : Bool
  judged : Nat
  deriving DecidableEq, Repr

/-- A gallery (14_gallery_unit.md) and its station on the ring. -/
structure Station where
  powered : Bool
  /-- Gallery registers by address (Table 14.7), and those in effect. -/
  regs : Regs
  /-- Sticky bits and counts of its latest tick that had any (R27, R28). -/
  moment : Moment
  /-- Its own NEWEL_TIME less the model's tick (R66). -/
  base : Int
  /-- Its transmit port's running disparity is not that of HOLOT A at the same character (R346, R380). -/
  turned : Bool
  /-- Writes accepted and not yet landed (R366). -/
  writes : List (Nat × Nat)
  /-- Revision of the station (Table 13.9). -/
  rev : Nat
  /-- SETUP fields: ring delay, acceptance offset, slot, slots, cycle length in characters (R372); whether it has taken
  one since power-up. -/
  delay : Nat
  acc : Nat
  slot : Nat
  nslot : Nat
  lenc : Nat
  everSetup : Bool
  lastSeq : Nat
  /-- A ring delay has been received that no marker has yet been loaded with (R66); the local count has been loaded by a
  marker that the next one may confirm (R67); CYC of the latest marker accepted. -/
  fresh : Bool
  reloaded : Bool
  lastCyc : Option Nat
  /-- The cycles the station counts and has not yet judged; OUT_OK of the one judged last. -/
  cycles : List StationCycle
  outOk : Bool
  /-- Consecutive missed cycles and missed markers (R382, R141). -/
  missed : Nat
  noMarker : Nat
  /-- Missed cycles counted since the first of those on which it parked (Table 13.6). -/
  parkedFor : Nat
  /-- EN, PARK and CUT of the latest OUTSET accepted. -/
  en : Nat
  cut : Bool
  store : List FireCmd
  /-- Commands lost at a full store, saturating (Table 14.2). -/
  storeLost : Nat
  pulses : List Pulse
  /-- The model's tick of each channel's latest switch-off, for its blanking; pulses in a row that ended in overcurrent (R395). -/
  lastOff : List Nat
  overs : List Nat
  items : List (Nat × Nat)
  itemsLost : Nat
  /-- Register replies: address, and whether its write has landed (R366). -/
  replies : List (Nat × Bool)
  latched : Option ReadContent
  /-- Filtered levels of IN0 to IN7; synchronised raw levels, and for each input the model's tick and the station's own on
  which the raw level last changed (R402). -/
  inputs : Nat
  raw : Nat
  rawAt : List (Nat × Nat)
  /-- A wake request waits to be sent (R404). -/
  wake : Bool
  /-- Step named by the last park command, 0 for none (R141); start and end of the phrases being sent. -/
  lastPark : Nat
  phraseFrom : Nat
  phraseEnd : Option Nat
  /-- The coil of FIELD_CUT is open or its output shorted (R401). -/
  cutFault : Bool
  deriving DecidableEq, Repr

/-- The filter of a monitor input (R420 to R422). -/
structure Monitor where
  /-- Tick of the filter start in effect, and of the next one. -/
  run : Option Nat
  next : Option Nat
  /-- Samples since the filter start. -/
  index : Nat
  /-- The three integrators and the three differentiators' memories, modulo 2^64. -/
  integ : Nat × Nat × Nat
  diff : Nat × Nat × Nat
  /-- The model's tick on which a commit epoch found a sample due and not yet made (R421). -/
  owed : Option Nat
  deriving DecidableEq, Repr

/-- An entry of the monitor stream (Table 15.2): stamp, input, value, settling, first. -/
structure MonEntry where
  stamp : Nat
  mon : Nat
  value : Int
  settling : Bool
  first : Bool
  deriving DecidableEq, Repr

/-- The monitor stream: the open block, and blocks skipped since the last written (R425, R426). -/
structure MonStream where
  entries : List MonEntry
  skipped : Nat
  deriving DecidableEq, Repr

/-- A PIO engine (R432). -/
structure Engine where
  running : Bool
  /-- The start tick has not passed: the values of R434 are taken on it. -/
  starting : Bool
  bank : Nat
  pc : Nat
  sr : Nat
  u : Nat
  v : Nat
  /-- The next edge on which an instruction may execute, in NEWEL_TIME. -/
  nextAt : Nat
  /-- A HOLD runs (R435). -/
  holding : Bool
  /-- The instruction at PC stalls (R437). -/
  stalled : Bool
  /-- TX words, oldest first, each with the edge from which it is in the queue (R444). -/
  tx : List (Nat × Nat)
  /-- RX words, oldest first, each with the low 32 bits of its push tick (R444). -/
  rx : List (Nat × Nat)
  /-- Edges on which host pops not yet made fall (R444). -/
  pops : List Nat
  /-- The model's tick of the latest COPY to CMP: a host write on its edge does not stand (Table 16.6). -/
  copied : Option Nat
  deriving DecidableEq, Repr

/-- The PIO unit: engines, pins and shared flags (16_pio_engines.md). -/
structure Pio where
  engines : List Engine
  /-- Level and direction last written for each pin, as 24-bit masks (R441). -/
  levels : Nat
  dirs : Nat
  /-- What each pin is driven at, none at high impedance, and changes on their way to a pin (R442). -/
  driven : List (Option Bool)
  moves : List (Nat × Nat × Option Bool)
  /-- Level the world last gave each pin. -/
  outside : List (Option Bool)
  /-- Shared flags, and writes of them by edge: edge, set or clear, mask (R448). -/
  flags : Nat
  flagWrites : List (Nat × Bool × Nat)
  deriving DecidableEq, Repr

/-- A notice raised and not yet posted (Table 18.5). -/
structure Notice where
  code : Nat
  unit : Nat
  nseq : Nat
  stamp : Nat
  /-- Payload words from word 4 on; words not listed are zero (R555). -/
  payload : List Nat
  deriving DecidableEq, Repr

/-- A notice ring behind its registers (R489, R504). -/
structure NoticeRing where
  /-- The pending store, at most 64, in the order of posting. -/
  held : List Notice
  /-- NSEQ: notices raised for the ring. -/
  nseq : Nat
  /-- Notices lost since the last `USH_NOTICES_LOST`. -/
  lost : Nat
  /-- Records posted since the ring last signalled and the tick of the first (R495). -/
  unsignalled : Nat
  firstUnsignalled : Nat
  deriving DecidableEq, Repr

/-- A record taken from a submission ring (Table 18.1). -/
structure Task where
  sq : Nat
  /-- Head of the ring just after the record was taken. -/
  head : Nat
  words : List Nat
  taken : Nat
  /-- Tick from which its on-deck slot is ready (R484). -/
  ready : Nat
  /-- Tick of dispatch. -/
  start : Nat
  deriving DecidableEq, Repr

/-- A wait that holds its ring (R496). -/
structure Wait where
  task : Task
  /-- Its operands stand: indirect ones have been replaced. -/
  live : Bool
  deadline : Option Nat
  /-- The last value read (R499). -/
  last : Nat
  /-- Issue ticks of host reads that have not returned. -/
  issued : List Nat
  /-- A host read waits for bus mastering (R548). -/
  held : Bool
  deriving DecidableEq, Repr

/-- A submission ring behind its registers (R477 to R482). -/
structure SubRing where
  tail : Nat
  /-- Records fetched and not taken, from the head on, each with the tick from which it can be taken. -/
  buf : List (Nat × List Nat)
  /-- Records asked for in a fetch that has not returned. -/
  asked : Nat
  /-- Records taken and not complete. -/
  outstanding : Nat
  wait : Option Wait
  /-- First Usher cycle after a wait (R496). -/
  freeAt : Nat
  deriving DecidableEq, Repr

/-- A completion on its way to its ring (R493, R494). -/
structure Done where
  due : Nat
  cq : Nat
  words : List Nat
  res : Option Nat
  event : Option Nat
  /-- No record is posted: a QUIET success. -/
  quiet : Bool
  deriving DecidableEq, Repr

/-- Progress of an engine's running task. -/
structure Job where
  /-- 0 operands being replaced, 1 begun, 2 under way; of a Porter 3 a drain's packet, 4 a 2D task, stalled at a request
  (R548). -/
  phase : Nat
  aborted : Bool
  /-- Tick of the first request (Table 19.6). -/
  began : Nat
  /-- The model's tick on which the piece in progress is due to end. -/
  due : Nat
  /-- Rows, packets, lines, blocks or frames done; bytes moved. -/
  count : Nat
  bytes : Nat
  flags : Nat
  errs : Nat
  skipped : Nat
  retries : Nat
  wear : Nat
  /-- Attempts at the present block (R526). -/
  tries : Nat
  /-- Latest frame start of the pipeline at dispatch (R522); ticks that a stalled piece of a Porter still needs before its
  next request, or its packet's last word (R548). -/
  base : Nat
  /-- Settings generation and record of the first frame; temperatures seen (R523). -/
  setgen : Nat
  record : List Nat
  tempLo : Int
  tempHi : Int
  /-- Status found, reported when the piece in progress ends. -/
  status : Nat
  /-- Geometry of the accumulators (R559): node, first row, first column, rows, columns, counter binning, by part. -/
  parts : List (Nat × Nat × Nat × Nat × Nat × Bool)
  deriving DecidableEq, Repr

/-- An engine's running task and on-deck slot (R484). -/
structure Slot where
  running : Option Task
  deck : Option Task
  /-- Tick on which the last task ended. -/
  freeAt : Nat
  job : Job
  deriving DecidableEq, Repr

/-- A readout handed to the Calibrator (R522 to R524): frame start, node, zone temperature, temperature used and
calibration area of the frame, its record, whether it is the frame's last, its nodes, and its parts. -/
structure CalFrame where
  start : Nat
  node : Nat
  zone : Int
  temp : Int
  area : Nat
  record : List Nat
  last : Bool
  nodes : Bool × Bool
  parts : List Part
  deriving DecidableEq, Repr

/-- The Usher behind its registers (18_usher.md). -/
structure Usher where
  rings : List SubRing
  /-- Engines: 0 to 3 Porters, 4 and 5 Loaders, 6 Calibrator, 7 Archivist, 8 to 11 pipelines. -/
  slots : List Slot
  done : List Done
  /-- The Usher's own tasks whose dispatch is still to come: tick and task. -/
  ops : List (Nat × Task)
  /-- Ring last served, and the earliest tick of the next take (R482). -/
  lastServed : Nat
  nextTake : Nat
  /-- Usher cycle counted last in `USH_CNT_CQ_WAIT` (R494). -/
  cqWaitAt : Nat
  /-- Arrivals not yet visible: Usher cycle, counter, amount (R497, R509). -/
  arrivals : List (Nat × Nat × Nat)
  /-- For each completion ring, records since it last signalled and the tick of the first (R495). -/
  signals : List (Nat × Nat)
  /-- Vectors whose message waits for bus mastering (R548). -/
  heldVectors : List Nat
  /-- The arm that waits for its landing points, and the disarms that wait for the last frames (R501, R503). -/
  arm : Option Task
  disarms : List Task
  /-- Pipeline whose readouts the Calibrator takes, and those it has been handed. -/
  calPipe : Option Nat
  calIn : List CalFrame
  /-- The debug port has halted the Usher (R576), and the tick on which it lets it step. -/
  halted : Bool
  stepAt : Option Nat
  deriving DecidableEq, Repr

/-- The thermal manager behind its registers (22_thermal.md). -/
structure Thermal where
  /-- Started in boot stage 6 and not stopped by an entry to Hush or deeper (R593, R594). -/
  running : Bool
  /-- By sensor: the previous reading, none after a gap or a readmission (R583); the reading its zone holds; consecutive
  readings that failed the neighbour check (R582). -/
  prev : List (Option Int)
  held : List (Option Int)
  far : List Nat
  deriving DecidableEq, Repr

/-- The state of the set. -/
structure State where
  /-- Commands waiting, first in first out. -/
  pending : List Instr
  /-- Events the machine has fixed for a later tick, as (`now`, command), in the order fixed. -/
  agenda : List (Nat × Instr)
  /-- Ticks (tick equivalents where no tick runs) since power-on reset: the model's own time base. -/
  now : Nat
  /-- The model's own counter that numbers free values. -/
  freeCount : Nat
  /-- The registers of BAR 0 as read: last accepted values, statuses, flags, counters. -/
  regs : Regs
  /-- Landing-class fields in effect (R25); a copy kept for camera or pipeline k lies at offset + (k + 1) MiB. -/
  eff : Regs
  /-- Writes of landing registers in the last ticks: tick, offset, value before (R621). -/
  late : List (Nat × Nat × Word)
  /-- Sticky bits and counts of the latest tick that had any (R27, R28). -/
  moment : Moment
  newel : Newel
  boot : Boot
  stair : Stair
  pcie : Pcie
  strobes : List Strobe
  isets : List Iset
  mons : List Monitor
  stream : MonStream
  cams : List Camera
  /-- Readouts placed on the shared converters: start and end (R187). -/
  placed : List (Nat × Nat)
  notices : List NoticeRing
  hall : Hall
  ports : List XPort
  pipes : List Pipe
  joins : List Join
  planner : Planner
  link : Link
  /-- The galleries on the ring, by unit. -/
  stations : List Station
  thermal : Thermal
  pio : Pio
  usher : Usher
  /-- Byte contents of the Store (R557). -/
  store : StoreBytes
  /-- Store words (addresses, multiples of 8) known to hold a double-bit error (R560). -/
  storeBad : List Nat
  /-- The Archive's bytes, block b at 256 b (R561); blocks that read as uncorrectable (R562, R565); wear counts by
  block (R563); the rollback counter (R573). -/
  archive : ArcBytes
  archiveBad : List Nat
  wear : Regs
  rollback : Nat
  deriving DecidableEq, Repr

/-- A node in reset. -/
def Node.idle : Node := ⟨0, none, 0⟩

/-- A stopped camera. -/
def Camera.idle : Camera :=
  ⟨false, 0, 0, none, 0, 0, [], [Node.idle, Node.idle], 0, [0, 0], [], [], [false, false, false], none, []⟩

/-- A strobe pin before its first write (Table 4.2). -/
def Strobe.idle : Strobe := ⟨[], [], 0, none, false, false⟩

/-- A setpoint output before its first write (R418). -/
def Iset.idle : Iset := ⟨0, false, none, false, false, none, false⟩

/-- A monitor filter that does not run. -/
def Monitor.idle : Monitor := ⟨none, none, 0, (0, 0, 0), (0, 0, 0), none⟩

/-- A notice ring at reset. -/
def NoticeRing.idle : NoticeRing := ⟨[], 0, 0, 0, 0⟩

/-- A shared queue at reset. -/
def Queue.idle : Queue := ⟨[], [], [], none⟩

/-- A write port with nothing on it. -/
def Port.idle : Port := ⟨none, 0, false, false, 0, []⟩

/-- The Hall at reset. -/
def Hall.idle : Hall :=
  ⟨List.replicate 64 Queue.idle, List.replicate 8 [], List.replicate 64 false, List.replicate 17 Port.idle, false, false,
   false, false⟩

/-- A companion port that is off. -/
def XPort.idle : XPort := ⟨0, [], none, 0, false, (0, 0), none, 0, 0, []⟩

/-- A stopped pipeline. -/
def Pipe.idle : Pipe := ⟨none, false, false, false, [], none, List.replicate 4 ⟨0, 0, []⟩⟩

/-- A join unit holding nothing. -/
def Join.idle : Join := ⟨[], [], [0, 0]⟩

/-- The planner at reset. -/
def Planner.idle : Planner := ⟨[], [], [], List.replicate 8 0⟩

/-- No gallery enumerated. -/
def noMembers : List (Option Member) := List.replicate 8 none

/-- The link off. -/
def Link.idle : Link :=
  ⟨0, false, [], [], [], 0, [], 0, 0, noMembers, 0, 0, false, 0, 0, 0, 0, none, none, none, 0, false, 0, [], [], false, 0, 0,
   [], 0, false, 0⟩

/-- A gallery without LOGIC supply. -/
def Station.idle : Station :=
  { powered := false, regs := [], moment := ⟨0, [], [], []⟩, base := 0, turned := false, writes := [], rev := 0, delay := 0
    acc := 0, slot := 0, nslot := 0, lenc := 0, everSetup := false, lastSeq := 0, fresh := false, reloaded := false
    lastCyc := none, cycles := [], outOk := false, missed := 0, noMarker := 0, parkedFor := 0, en := 0, cut := false
    store := [], storeLost := 0, pulses := [], lastOff := List.replicate 32 0, overs := List.replicate 32 0, items := []
    itemsLost := 0, replies := [], latched := none, inputs := 0, raw := 0, rawAt := List.replicate 8 (0, 0), wake := false
    lastPark := 0, phraseFrom := 0, phraseEnd := none, cutFault := false }

/-- A PIO engine that is stopped. -/
def Engine.idle : Engine := ⟨false, false, 0, 0, 0, 0, 0, 0, false, false, [], [], [], none⟩

/-- A submission ring at reset. -/
def SubRing.idle : SubRing := ⟨0, [], 0, 0, none, 0⟩

/-- No job. -/
def Job.idle : Job := ⟨0, false, 0, 0, 0, 0, 0, 0, 0, 0, 0, 0, 0, 0, [], 0, 0, 0, []⟩

/-- An engine with no task. -/
def Slot.idle : Slot := ⟨none, none, 0, Job.idle⟩

/-- The Usher at reset. -/
def Usher.idle : Usher :=
  ⟨List.replicate 16 SubRing.idle, List.replicate 12 Slot.idle, [], [], 15, 0, 0, [], List.replicate 8 (0, 0), [], none, [],
   none, [], false, none⟩

/-- The machine right after power-on reset: supplies not yet good, no tick, every register at its Reset column,
nothing listed in any memory, no command waiting. -/
def State.reset : State where
  pending := []
  agenda := []
  now := 0
  freeCount := 0
  regs := resetRegs
  eff := resetEff
  late := []
  moment := ⟨0, [], [], []⟩
  newel := ⟨.off, 0, 0, .held, 0, true, false, none, 0, 0, 0, none⟩
  boot := ⟨false, List.replicate 12 1000000, false, (7, false), false, [], false, 0, true, true, true, false, false, false, false,
    false, false⟩
  stair := ⟨0, 0, false, false, none, 0, 0, 0, 0, 0⟩
  pcie := ⟨[(0x78, 0x2810#32), (0x10C, 0x62010#32), (0x114, 0x2000#32)], List.replicate 32 ⟨0, 0, true, false⟩, false, 0, 0, 0,
    none, [], [], [], []⟩
  strobes := List.replicate 4 Strobe.idle
  isets := List.replicate 4 Iset.idle
  mons := List.replicate 8 Monitor.idle
  stream := ⟨[], 0⟩
  cams := List.replicate 2 Camera.idle
  placed := []
  notices := List.replicate 2 NoticeRing.idle
  hall := Hall.idle
  ports := List.replicate 2 XPort.idle
  pipes := List.replicate 4 Pipe.idle
  joins := List.replicate 2 Join.idle
  planner := Planner.idle
  link := Link.idle
  stations := List.replicate 8 Station.idle
  thermal := ⟨false, List.replicate 48 none, List.replicate 48 none, List.replicate 48 0⟩
  pio := ⟨List.replicate 16 Engine.idle, 0, 0, List.replicate 24 none, [], List.replicate 24 none, 0, []⟩
  usher := Usher.idle
  store := []
  storeBad := []
  archive := []
  archiveBad := []
  wear := []
  rollback := 0

end Sys2Proof.Machine
end

