-- ==== Sys2Proof/Machine/Ops.lean ====
section
/-! DEFINITION. Named operations over the state: registers and their fields, fields in effect, the agenda, stamps,
free values, host memory and messages. -/

namespace Sys2Proof.Machine

/-- Every meaning that goes on answers a next state. -/
abbrev Result := Host.Outcome State Fault Refusal

/-- The value of a field as read (R18, R25). -/
def State.g (s : State) (f : Fld) : Nat := bitsOf (s.regs.get f.off) f.hi f.lo

/-- The value of a landing-class field in effect (R25). -/
def State.e (s : State) (f : Fld) : Nat := bitsOf (s.eff.get f.off) f.hi f.lo

/-- Offset of the copy of a register in effect for camera or pipeline `k` (Table 7.3). -/
def effKey (k off : Nat) : Nat := off + (k + 1) * 0x100000

/-- The value in effect for camera or pipeline `k` of a field several of them share. -/
def State.eFor (s : State) (k : Nat) (f : Fld) : Nat := bitsOf (s.eff.get (effKey k f.off)) f.hi f.lo

/-- A one-bit field as a truth value. -/
def State.on (s : State) (f : Fld) : Bool := s.g f == 1

/-- The register at `off` set to `w`. -/
def State.setReg (s : State) (off : Nat) (w : Word) : State := { s with regs := s.regs.set off w }

/-- A field of a register set, the register's other bits kept. -/
def State.put (s : State) (f : Fld) (v : Nat) : State :=
  s.setReg f.off (withBits (s.regs.get f.off) f.hi f.lo v)

/-- The register in effect at `off` set to `w`. -/
def State.setEff (s : State) (off : Nat) (w : Word) : State := { s with eff := s.eff.set off w }

/-- A 64-bit quantity stored in a LO and HI pair, LO first (R599). -/
def State.putPair (s : State) (lo : Nat) (v : Nat) : State :=
  (s.setReg lo (lo32 v)).setReg (lo + 4) (hi32 v)

/-- A 64-bit quantity read from a LO and HI pair. -/
def State.getPair (s : State) (lo : Nat) : Nat :=
  (s.regs.get lo).toNat + (s.regs.get (lo + 4)).toNat * 2 ^ 32

/-- A counter advanced by `n`: held at its maximum, or continued from zero (R26). -/
def Ctr.plus (c : Ctr) (v n : Nat) : Nat :=
  if c.sat then min (v + n) (2 ^ c.width - 1) else (v + n) % 2 ^ c.width

/-- The value of a counter. -/
def State.ctr (s : State) (c : Ctr) : Nat := bitsOf (s.regs.get c.off) (c.width - 1) 0

/-- What has happened on this tick to sticky bits and counters. -/
def State.lately (s : State) : Moment := if s.moment.tick = s.now then s.moment else ⟨s.now, [], [], []⟩

/-- A register of `r` with `m` added bit by bit. -/
def Regs.orAt (r : Regs) (off m : Nat) : Regs := r.set off (r.get off ||| BitVec.ofNat 32 m)

/-- Bit `i` of register `off` noted as set on this tick (R28). -/
def State.noteSet (s : State) (off i : Nat) : State :=
  { s with moment := { s.lately with marks := s.lately.marks.orAt off (2 ^ i) } }

/-- Bits `m` of register `off` noted as cleared on this tick (R28). -/
def State.noteClear (s : State) (off m : Nat) : State :=
  { s with moment := { s.lately with cleared := s.lately.cleared.orAt off m } }

/-- `n` counts at `off` noted on this tick (R27). -/
def State.noteCount (s : State) (off n : Nat) : State :=
  { s with moment := { s.lately with counts := s.lately.counts.set off (s.lately.counts.get off + BitVec.ofNat 32 n) } }

/-- `n` counts on a counter (R26, R27). -/
def State.bumpBy (s : State) (c : Ctr) (n : Nat) : State :=
  (s.put ⟨c.off, c.width - 1, 0⟩ (c.plus (s.ctr c) n)).noteCount c.off n

/-- One count on a counter. -/
def State.bump (s : State) (c : Ctr) : State := s.bumpBy c 1

/-- Bit `i` of a field set (R28). -/
def State.setBit (s : State) (f : Fld) (i : Nat) : State :=
  (if bitN (s.g f) i then s else s.put f (s.g f + 2 ^ i)).noteSet f.off (f.lo + i)

/-- Bit `i` of a field cleared. -/
def State.clearBit (s : State) (f : Fld) (i : Nat) : State :=
  if bitN (s.g f) i then s.put f (s.g f - 2 ^ i) else s

/-- A command fixed for `n` ticks from now. -/
def State.after (s : State) (n : Nat) (c : Instr) : State := { s with agenda := s.agenda ++ [(s.now + n, c)] }

/-- Ticks counted since the first lock. NEWEL_TIME is this count modulo 2^64 (R59, R69): what is read, stamped or compared
with a 64-bit register is taken modulo 2^64, and the edges of the fixed domains follow the wrapped value. -/
def State.time (s : State) : Nat := s.newel.time

/-- NEWEL_TIME (R59). -/
def newelTime (t : Nat) : Nat := t % 2 ^ 64

/-- A command fixed for NEWEL_TIME `t`, at once where `t` has passed. -/
def State.at_ (s : State) (t : Nat) (c : Instr) : State := s.after (t - s.time) c

/-- The commands of the agenda that meet `p` withdrawn. -/
def State.withdraw (s : State) (p : Instr → Bool) : State :=
  { s with agenda := s.agenda.filter fun x => !p x.2 }

/-- Whether NEWEL_TIME counts by ticks: derived clocks run (R47). -/
def State.ticking (s : State) : Bool := s.newel.counting == .ticks

/-- Boot is complete and the head has power: the registers of every unit answer (R98, R100). -/
def State.unitsAnswer (s : State) : Bool := s.boot.powered && s.g F.PWR_BOOT_STATUS_STAGE == 7

/-- Count `t` is a tick whose NEWEL_TIME is a multiple of `d` (R57). -/
def onEdge (d t : Nat) : Bool := newelTime t % d == 0

/-- The first count at or after `t` whose NEWEL_TIME is a multiple of `d`; at a wrap NEWEL_TIME is 0, a multiple of every
divisor (R57, R59). -/
def nextEdge (d t : Nat) : Nat := t - newelTime t + min (2 ^ 64) ((newelTime t + d - 1) / d * d)

/-- The first rising edge strictly after `t` of a fixed domain of divisor `d`. -/
def edgeAfter (d t : Nat) : Nat := nextEdge d (t + 1)

/-- The first tick at or after `t` on the grid `e + k d` of a commit domain (R56, R57). -/
def gridEdge (e d t : Nat) : Nat := if t ≤ e then e else e + ceilDiv (t - e) d * d

/-- One free value below `n`: nothing constrains it; the counter makes each a fresh one. -/
def State.free (s : State) (n : Nat) : Nat × State :=
  (Config.freeNat s.freeCount % n, { s with freeCount := s.freeCount + 1 })

/-- A message of the device to the host. -/
def State.send (s : State) (m : HostMsg) : State := { s with pcie := { s.pcie with sent := s.pcie.sent ++ [m] } }

/-- Bits `hi` to `lo` of Device Control as the host set it (Table 20.2). -/
def State.deviceControl (s : State) (hi lo : Nat) : Nat := bitsOf (s.pcie.config.get 0x78) hi lo

/-- Max Payload Size and Max Read Request Size as the host set them, within what the endpoint supports (Table 20.1). -/
def State.maxPayload (s : State) : Nat := 128 * 2 ^ min 2 (s.deviceControl 7 5)
def State.maxRead (s : State) : Nat := 128 * 2 ^ min 5 (s.deviceControl 14 12)

/-- Whether the host has enabled Relaxed Ordering (R546). -/
def State.relaxed (s : State) : Bool := s.deviceControl 4 4 == 1

/-- The pieces, at most `fuel`, into which an access of `n` bytes at `a` is split: none longer than `lim`, none across a 4 KiB
boundary (R535, R547). -/
def pieces (lim : Nat) : Nat → Nat → Nat → List (Nat × Nat)
  | 0, _, _ => []
  | fuel + 1, a, n =>
    if n = 0 then [] else
    let k := min n (min lim (4096 - a % 4096))
    (a, k) :: pieces lim fuel (a + k) (n - k)

/-- The requests that an access of `n` bytes at `a` takes under a size limit (R547). -/
def requestsOf (lim a n : Nat) : List (Nat × Nat) := pieces lim (n / lim + n / 4096 + 3) a n

/-- Bytes written by the device to host memory: posted writes of at most the host's Max Payload Size, with Relaxed Ordering
where `ro` says so and the host allows it (R535, R546). -/
def State.hostWrite (s : State) (a : Nat) (bs : List Byte) (ro : Bool) : State :=
  let tlps := (requestsOf s.maxPayload a bs.length).map fun x =>
    HostMsg.write x.1 ((bs.drop (x.1 - a)).take x.2) (ro && s.relaxed)
  { s with pcie := { s.pcie with hostMem := s.pcie.hostMem.write a bs, sent := s.pcie.sent ++ tlps } }

/-- A read of `n` bytes of host memory at `a`: its requests, split at the host's Max Read Request Size and at 4 KiB
boundaries (R547). -/
def State.hostAsk (s : State) (a n : Nat) : State :=
  { s with pcie := { s.pcie with sent := s.pcie.sent ++ (requestsOf s.maxRead a n).map fun x => HostMsg.request x.1 x.2 } }

/-- The bits of a register that its Frame fields hold. -/
def frameMask : List FieldRow → Nat
  | [] => 0
  | f :: fs => (if f.lands = .frame then (2 ^ (f.hi + 1 - f.lo) - 1) * 2 ^ f.lo else 0) + frameMask fs

/-- Offsets of a row whose inner indices run over their whole range (R598). -/
def innerOffsets : Nat → List (Nat × Nat) → List Nat
  | b, [] => [b]
  | b, (n, st) :: ds => (List.range n).flatMap fun i => innerOffsets (b + i * st) ds

/-- Offsets of every register of a row with first index `i`. -/
def offsetsAt (r : RegRow) (i : Nat) : List Nat :=
  match r.dims with
  | [] => [r.base]
  | (_, st) :: ds => innerOffsets (r.base + i * st) ds

/-- Registers with Frame fields among `rows`, at first index `i`: offset and mask of those fields. -/
def frameRegs (rows : List RegRow) (i : Nat) : List (Nat × Nat) :=
  rows.flatMap fun r => if frameMask r.fields = 0 then [] else (offsetsAt r i).map fun o => (o, frameMask r.fields)

/-- The value of a landing register before a write on this tick kept for landings of earlier ticks (R203, R621). -/
def State.noteLate (s : State) (off : Nat) : State := { s with late := s.late ++ [(s.time, off, s.regs.get off)] }

/-- The value a landing register held on NEWEL_TIME `t`: the value before the first write accepted after `t`
(R203, R621). -/
def State.regOn (s : State) (t off : Nat) : Word :=
  match s.late.find? fun w => w.2.1 == off && decide (t < w.1) with
  | some w => w.2.2
  | none => s.regs.get off

/-- The register at `off` as it stood before the writes of this tick. -/
def State.before (s : State) (off : Nat) : Word := s.regOn (s.time - 1) off

/-- Landing of the registers listed: each takes effect as it stood on tick `t` (R203, R204). -/
def State.land (s : State) (t : Nat) (key : Nat → Nat) (l : List (Nat × Nat)) : State :=
  l.foldl (fun s (o, m) => s.setEff (key o) (BitVec.ofNat 32 ((s.regOn t o).toNat &&& m))) s

end Sys2Proof.Machine
end

