-- ==== Sys2Proof/Machine/Flags.lean ====
section
/-! DEFINITION. Sticky flags, counters and the raising of notices (R26 to R29, R504, R552 to R555). -/

namespace Sys2Proof.Machine

/-- Whether notice `a` is posted before notice `b` of the same tick: ascending code, then UNIT (R554). -/
def Notice.before (a b : Notice) : Bool := decide (a.code < b.code) || (a.code == b.code && decide (a.unit ≤ b.unit))

/-- The notice placed among those held: after older ones, in the order of R554 among those of its tick. -/
def insertNotice (n : Notice) : List Notice → List Notice
  | [] => [n]
  | m :: l => if m.stamp ≠ n.stamp || m.before n then m :: insertNotice n l else n :: m :: l

/-- The NSEQ numbers `ns` dealt in order to the notices stamped `t`. -/
def renumber (t : Nat) : List Nat → List Notice → List Notice
  | _, [] => []
  | [], l => l
  | k :: ns, n :: l => if n.stamp = t then { n with nseq := k } :: renumber t ns l else n :: renumber t (k :: ns) l

/-- The ring of a code: NQ0 for an urgent one, bit 15 set, else NQ1 (R552, R553). -/
def ringOf (code : Nat) : Nat := if 0x8000 ≤ code then 0 else 1

/-- A notice raised with the stamp of this tick: held for its ring, or lost at a full store (R504). -/
def State.noticeAt (s : State) (stamp code unit : Nat) (payload : List Nat) : State :=
  let n := ringOf code
  let r := nth s.notices n NoticeRing.idle
  if r.held.length < 64 then
    let ns := (r.held.filter fun m => m.stamp == stamp).map (·.nseq) ++ [r.nseq]
    let held := renumber stamp ns (insertNotice ⟨code, unit, r.nseq, stamp, payload⟩ r.held)
    let r' := { r with held := held, nseq := (r.nseq + 1) % 2 ^ 32 }
    ({ s with notices := modNth s.notices n fun _ => r' } : State).after 4 (.noticePost n)
  else
    ({ s with notices := modNth s.notices n fun _ =>
        { r with nseq := (r.nseq + 1) % 2 ^ 32, lost := r.lost + 1 } } : State).bump (C.USH_CNT_NQ_LOST n)

/-- A notice stamped with this tick. -/
def State.notice (s : State) (code unit : Nat) (payload : List Nat) : State := s.noticeAt s.time code unit payload

/-- Bit `i` of a sticky flag set; the notice is posted when the bit goes from 0 to 1. A bit cleared by W1C on this very
tick remained set (R28). -/
def State.sticky (s : State) (f : Fld) (i code unit : Nat) (payload : List Nat) : State :=
  let t := s.setBit f i
  if bitN (s.g f) i || bitN (s.lately.cleared.get f.off).toNat (f.lo + i) then t else t.notice code unit payload

end Sys2Proof.Machine
end

