-- ==== Sys2Proof/Machine/Hall.lean ====
section
/-! DEFINITION. The Hall (17_hall_queues.md): levels, admission, cells and packets, resets of a queue, watermarks
and FLOW pins. -/

namespace Sys2Proof.Machine

/-- Queue `q`. -/
def State.queue (s : State) (q : Nat) : Queue := nth s.hall.queues q Queue.idle

/-- Queue `q` replaced. -/
def State.setQueue (s : State) (q : Nat) (x : Queue) : State :=
  { s with hall := { s.hall with queues := modNth s.hall.queues q fun _ => x } }

/-- Fire queue `g`. -/
def State.fireQueue (s : State) (g : Nat) : List FireCmd := nth s.hall.fire g []

/-- Cells a closed packet holds (R458). -/
def Packet.cells (p : Packet) : Nat := ceilDiv p.bytes.length 64

/-- Cells an open packet holds: at least its first (R458). -/
def OpenPacket.cells (p : OpenPacket) : Nat := max 1 (ceilDiv p.bytes.length 64)

/-- Cells of a shared queue in closed and open packets (R454). -/
def Queue.cells (x : Queue) : Nat :=
  (x.closed.map Packet.cells).foldl (· + ·) 0 + (x.opens.map OpenPacket.cells).foldl (· + ·) 0

/-- H of queue `q` (R454); a fire queue holds one command a cell (R336). -/
def State.level (s : State) (q : Nat) : Nat := if q < 8 then (s.fireQueue q).length else (s.queue q).cells

/-- Reservation and ceiling (R336, R454). -/
def State.resv (s : State) (q : Nat) : Nat := if q < 8 then 128 else s.g (F.HAL_Q_SIZE_RESV q)
def State.ceil (s : State) (q : Nat) : Nat := if q < 8 then 128 else s.g (F.HAL_Q_SIZE_CEIL q)

/-- The shared queues. -/
def sharedQueues : List Nat := (List.range 56).map (· + 8)

/-- F: free cells of the shared region (R455). -/
def State.freeCells (s : State) : Nat := 15360 - (sharedQueues.map s.level).foldl (· + ·) 0

/-- U: reservations not yet used (R455). -/
def State.unused (s : State) : Nat := (sharedQueues.map fun q => s.resv q - s.level q).foldl (· + ·) 0

/-- S: the shared space (R455). -/
def State.sharedSpace (s : State) : Nat := s.freeCells - s.unused

/-- avail(q) (R455); a fire queue can take what its 128 cells leave. -/
def State.avail (s : State) (q : Nat) : Nat :=
  if q < 8 then 128 - s.level q
  else if s.on (F.HAL_Q_CTRL_EN q) then
    min (s.ceil q - s.level q) ((s.resv q - s.level q) + s.sharedSpace)
  else 0

/-- Whether queue `q` can take a cell on this edge: none is allocated during a rebuild (R455, R469). -/
def State.canTake (s : State) (q : Nat) : Bool := decide (1 ≤ s.avail q) && !s.hall.rebuilding

/-- Bit `q` of a pair of 32-bit sticky masks set, with its notice on the change from 0 to 1. -/
def State.sticky64 (s : State) (lo hi : Fld) (q code unit : Nat) (payload : List Nat) : State :=
  if q < 32 then s.sticky lo q code unit payload else s.sticky hi (q - 32) code unit payload

/-- ABOVE of queue `q` against its marks, with the crossing's flag, count and notice (R471, R475). -/
def State.watermark (s : State) (q : Nat) : State :=
  let h := s.level q
  let above := nth s.hall.above q false
  if !above && decide (s.g (F.HAL_Q_WM_HIGH q) ≤ h) then
    let s := { s with hall := { s.hall with above := modNth s.hall.above q fun _ => true } }
    (s.bump (C.HAL_CNT_WM q)).sticky64 F.HAL_WM_RISE_LO_MASK F.HAL_WM_RISE_HI_MASK q 0x1210 q [1, h]
  else if above && decide (h ≤ s.g (F.HAL_Q_WM_LOW q)) then
    let s := { s with hall := { s.hall with above := modNth s.hall.above q fun _ => false } }
    (s.bump (C.HAL_CNT_WM q)).sticky64 F.HAL_WM_FALL_LO_MASK F.HAL_WM_FALL_HI_MASK q 0x1210 q [0, h]
  else s

/-- The fire queue of gallery `g` replaced; its watermark follows. -/
def State.setFire (s : State) (g : Nat) (l : List FireCmd) : State :=
  ({ s with hall := { s.hall with fire := modNth s.hall.fire g fun _ => l } } : State).watermark g

/-- A shared queue replaced; its watermark follows. -/
def State.queueTo (s : State) (q : Nat) (x : Queue) : State := (s.setQueue q x).watermark q

/-- Write port `n`. -/
def State.port (s : State) (n : Nat) : Port := nth s.hall.ports n Port.idle

/-- Write port `n` replaced. -/
def State.setPort (s : State) (n : Nat) (x : Port) : State :=
  { s with hall := { s.hall with ports := modNth s.hall.ports n fun _ => x } }

/-- Ticks in which a writer writes `n` bytes at its queue's unit, one unit a CD9 cycle (R461). -/
def State.writeTicks (s : State) (q n : Nat) : Nat :=
  let w := s.g (F.HAL_Q_CTRL_WMODE q)
  2 * (if w = 1 then ceilDiv n 2 else if w = 2 then n else ceilDiv n 8)

/-- The open packet of port `n` in a queue changed. -/
def Queue.modOpen (x : Queue) (n : Nat) (f : OpenPacket → OpenPacket) : Queue :=
  { x with opens := x.opens.map fun o => if o.port = n then f o else o }

/-- The next packet of port `n` put on it: it opens on the next CD9 edge (R458). -/
def State.startPort (s : State) (n : Nat) : State :=
  let x := s.port n
  match x.cur, x.behind with
  | none, p :: l =>
    let d := s.time % 2
    (s.setPort n { x with cur := some p, taken := 0, opened := false, waiting := false, behind := l,
                          nextAt := s.now + d }).after d (.packetOpen n .ok)
  | _, _ => s

/-- A complete packet handed to port `n`. -/
def State.offerPacket (s : State) (n : Nat) (p : OutPacket) : State :=
  let x := s.port n
  (s.setPort n { x with behind := x.behind ++ [p] }).startPort n

/-- The cell that port `n` needs next is taken and its write goes on (R458, R462). -/
def State.takeCell (s : State) (n : Nat) (p : OutPacket) : State :=
  let x := s.port n
  let t := s.writeTicks p.queue (min 64 (p.bytes.length - x.taken))
  let q := s.queue p.queue
  let s := if x.opened then s else s.setQueue p.queue { q with opens := q.opens ++ [⟨n, [], false⟩] }
  let q := s.queue p.queue
  let taken := min p.bytes.length (x.taken + 64)
  let s := s.queueTo p.queue (q.modOpen n fun o => { o with bytes := p.bytes.take taken })
  (s.setPort n { x with opened := true, waiting := false, taken := taken, nextAt := s.now + t }).after t
    (if taken = p.bytes.length then .packetClose n else .packetWrite n .ok)

/-- Port `n` waits with its write pending (R462). -/
def State.blockPort (s : State) (n : Nat) (p : OutPacket) : State :=
  let other := (List.range 17).any fun k => k != n && (s.port k).waiting && (match (s.port k).cur with
    | some o => o.queue == p.queue
    | none => false)
  let s := if other then s else s.bump (C.HAL_CNT_BP p.queue)
  let s := s.setPort n { s.port n with waiting := true }
  if s.agenda.any fun e => e.2 == .writeUnblock p.queue then s else s.after 2 (.writeUnblock p.queue)

/-- The next cell of port `n` is taken, or its write waits (R462). -/
def State.writeStep (s : State) (n : Nat) : State :=
  match (s.port n).cur with
  | none => s
  | some p => if s.canTake p.queue then s.takeCell n p else s.blockPort n p

/-- A region's free list fails its check: allocation stops until it is rebuilt, at the bound of R469. -/
def State.freeListFails (s : State) (fire : Bool) : State :=
  if fire then
    if s.hall.fireRebuilding then s
    else ({ s with hall := { s.hall with fireRebuilding := true } } : State).after 3000 (.freelistRebuilt true)
  else if s.hall.rebuilding then s
  else ({ s with hall := { s.hall with rebuilding := true } } : State).after 33000 (.freelistRebuilt false)

/-- A free-list rebuild ends within its bound: allocation resumes (R469). -/
def State.freeListDone (s : State) (fire : Bool) : State :=
  let busy := if fire then s.hall.fireRebuilding else s.hall.rebuilding
  if busy then
    let s := if fire then { s with hall := { s.hall with fireRebuilding := false } }
      else { s with hall := { s.hall with rebuilding := false } }
    let s := s.bump C.HAL_CNT_FREELIST
    s.notice 0x9212 (if fire then 1 else 0) [s.ctr C.HAL_CNT_FREELIST]
  else s

/-- FREELIST_REBUILT (R469). -/
def execFreelistRebuilt (fire : Bool) (s : State) : Result := .next (s.freeListDone fire)

/-- A corrected single-bit error of queue `q` (R468). -/
def State.hallCorrected (s : State) (q : Nat) : State := s.bump (C.HAL_CNT_CORR q)

/-- A double-bit error of queue `q` reported (R468). -/
def State.hallUncorrectable (s : State) (q : Nat) : State :=
  let s := s.bump (C.HAL_CNT_UNCORR q)
  s.sticky64 F.HAL_UNCORR_LO_MASK F.HAL_UNCORR_HI_MASK q 0x9211 q [s.ctr (C.HAL_CNT_UNCORR q)]

/-- Closed packets of queue `q`; commands in a fire queue. -/
def State.packets (s : State) (q : Nat) : Nat := if q < 8 then (s.fireQueue q).length else (s.queue q).closed.length

/-- A shared queue emptied; a reader within its head packet keeps that packet, marked in error (R467, R473). -/
def State.emptyQueue (s : State) (q : Nat) : State :=
  let x := s.queue q
  let within := match x.readers with
    | u :: _ => (nth s.usher.slots u Slot.idle).job.phase == 2
    | [] => false
  s.queueTo q { x with closed := [], opens := [],
                       lost := if within then x.closed.head?.map fun p => { p with error := true } else none }

/-- The part of a queue reset that the Hall does: cells back to the pool, counted and reported (R467). Its writers
and readers follow in their own rules. -/
def State.queueReset (s : State) (q : Nat) : State :=
  let n := s.packets q + (if q < 8 then 0 else (s.queue q).opens.length)
  let s := if q < 8 then s.setFire q [] else s.emptyQueue q
  let s := (s.bump (C.HAL_CNT_QRESET q)).bumpBy (C.HAL_CNT_RESET_PKTS q) n
  s.sticky64 F.HAL_QRESET_LO_MASK F.HAL_QRESET_HI_MASK q 0x9210 q [n]

/-- A packet that closes now behind those closed before it; of one tick in ascending write port (R462). -/
def insertPacket (x : Packet) : List Packet → List Packet
  | [] => [x]
  | y :: l => if y.visibleAt = x.visibleAt ∧ x.port < y.port then x :: y :: l else y :: insertPacket x l

/-- The packet of port `n` closes: LEN is its byte count; a reader sees it four ticks later; a close with nothing
written abandons (R458, R459). -/
def State.closePacket (s : State) (n : Nat) (p : OutPacket) : State :=
  let x := s.queue p.queue
  match x.opens.find? fun o => o.port == n with
  | none => s
  | some o =>
    if o.bytes.isEmpty then s.queueTo p.queue { x with opens := x.opens.filter fun o => o.port != n }
    else
      let s := s.queueTo p.queue { x with opens := x.opens.filter fun o => o.port != n,
                                          closed := insertPacket ⟨o.bytes, false, o.bad, s.now + 4, n⟩ x.closed }
      (s.bump (C.HAL_CNT_PKTS p.queue)).after 4 (.packetVisible p.queue)

/-- The packet open on port `n` is abandoned: its cells are freed and a waiting write is cleared (R458). -/
def State.abandonPacket (s : State) (n : Nat) : State :=
  match (s.port n).cur with
  | none => s
  | some p =>
    let x := s.queue p.queue
    (s.queueTo p.queue { x with opens := x.opens.filter fun o => o.port != n }).setPort n
      { s.port n with cur := none, taken := 0, opened := false, waiting := false }

/-- Whether a reader sees a packet in queue `q` (R459). -/
def State.readable (s : State) (q : Nat) : Bool :=
  match (s.queue q).closed with
  | p :: _ => decide (p.visibleAt ≤ s.now)
  | [] => false

/-- A write to EN of queue `q` is accepted: 1 always, 0 while the queue holds no cell and no open packet (R457). -/
def State.queueEnableOk (s : State) (q : Nat) (en : Bool) : Bool :=
  en || (decide (s.level q = 0) && (s.queue q).opens.isEmpty)

/-- A write refused by the device's own rules is counted with its reason and offset (R87, R91). -/
def State.refuse (s : State) (off reason : Nat) : State :=
  ((s.bump C.STP_CNT_REFUSED).put F.STP_LAST_REFUSED_OFFSET off).put F.STP_LAST_REFUSED_REASON reason

/-- EN of queue `q` written (R457). -/
def State.queueEnable (s : State) (q : Nat) (en : Bool) : State :=
  if q < 8 ∨ 64 ≤ q then s
  else if s.queueEnableOk q en then s.put (F.HAL_Q_CTRL_EN q) (if en then 1 else 0)
  else s.refuse (F.HAL_Q_CTRL q) 5

/-- QUEUE_ENABLE (R457). -/
def execQueueEnable (q : Nat) (en : Bool) (s : State) : Result := .next (s.queueEnable q en)

/-- A size that R456 allows for queue `q`. -/
def State.queueSizeOk (s : State) (q resv ceil : Nat) : Bool :=
  decide (2 ≤ ceil) && decide (ceil ≤ 15360) && decide (resv ≤ ceil) &&
  decide (((sharedQueues.filter (· ≠ q)).map s.resv).foldl (· + ·) 0 + resv ≤ 15360)

/-- `HAL_Q_SIZE[q]` written: stopped-only against EN, ignored in full where it breaks a limit (R456, R457). -/
def State.queueSize (s : State) (q data : Nat) : State :=
  let resv := data % 2 ^ 14
  let ceil := data / 2 ^ 16 % 2 ^ 14
  if q < 8 ∨ 64 ≤ q then s
  else if resv = s.resv q ∧ ceil = s.ceil q then s
  else if s.on (F.HAL_Q_CTRL_EN q) then s.refuse (F.HAL_Q_SIZE q) 5
  else if s.queueSizeOk q resv ceil then (s.put (F.HAL_Q_SIZE_RESV q) resv).put (F.HAL_Q_SIZE_CEIL q) ceil
  else s.refuse (F.HAL_Q_SIZE q) 6

/-- QUEUE_SIZE (R456). -/
def execQueueSize (q data : Nat) (s : State) : Result := .next (s.queueSize q data)

/-- `HAL_FLOW_MAP[n]` written: the first write of any of the eight releases all FLOW pins (R472). -/
def State.flowMap (s : State) (n data : Nat) : State :=
  if 8 ≤ n then s else
  let s := ((s.put (F.HAL_FLOW_MAP_QUEUE n) data).put (F.HAL_FLOW_MAP_EN n) (data / 2 ^ 8)).put (F.HAL_FLOW_MAP_INV n)
    (data / 2 ^ 9)
  { s with hall := { s.hall with flowReleased := true } }

/-- FLOW_MAP (R472). -/
def execFlowMap (n data : Nat) (s : State) : Result := .next (if s.unitsAnswer then s.flowMap n data else s)

/-- The level FLOW pin `n` is driven to (R472). -/
def State.flowPin (s : State) (n : Nat) : Bool :=
  s.hall.flowReleased && s.on (F.HAL_FLOW_MAP_EN n) &&
    (nth s.hall.above (s.g (F.HAL_FLOW_MAP_QUEUE n)) false != s.on (F.HAL_FLOW_MAP_INV n))

end Sys2Proof.Machine
end

