-- ==== Sys2Proof/Machine/Taps.lean ====
section
/-! DEFINITION. The taps: frame parts, packets, the skip rule (10_reconstruction_and_taps.md, R274 to R291), and the
writing of packets through the Hall's ports (R458 to R462). -/

namespace Sys2Proof.Machine

/-- Pipeline `p`. -/
def State.pipe (s : State) (p : Nat) : Pipe := nth s.pipes p Pipe.idle

/-- Pipeline `p` replaced. -/
def State.setPipe (s : State) (p : Nat) (x : Pipe) : State := { s with pipes := modNth s.pipes p fun _ => x }

/-- The frame of pipeline `p` that starts at `f` changed. -/
def State.modFrame (s : State) (p f : Nat) (h : PipeFrame → PipeFrame) : State :=
  let x := s.pipe p
  s.setPipe p { x with frames := x.frames.map fun r => if r.start = f then h r else r }

/-- A field in effect for a frame (R210). -/
def PipeFrame.g (r : PipeFrame) (f : Fld) : Nat := bitsOf (r.eff.get f.off) f.hi f.lo

/-- Tap `t` of pipeline `p`. -/
def State.tap (s : State) (p t : Nat) : Tap := nth (s.pipe p).taps t ⟨0, 0, []⟩

/-- Tap `t` of pipeline `p` replaced. -/
def State.setTap (s : State) (p t : Nat) (x : Tap) : State :=
  s.setPipe p { s.pipe p with taps := modNth (s.pipe p).taps t fun _ => x }

/-- The queue of tap `t` (R286). -/
def State.tapQueue (s : State) (p t : Nat) : Nat := s.g (F.PIP_TAP_CTRL_QUEUE p t)

/-- Little-endian bytes of 32-bit words (R14). -/
def wordBytes (l : List Nat) : List Byte := l.flatMap fun w => leBytes w 4

/-- Scale factor of taps 1 and 2 for a frame (R281, R283). -/
def PipeFrame.scale (r : PipeFrame) (p t : Nat) : Nat := 2 ^ min 2 (r.g (F.PIP_TAP_CTRL_FMT p t))

/-- The companion sources are 3 and 4 (R237). -/
def PipeFrame.companion (r : PipeFrame) : Bool := decide (3 ≤ r.src)

/-- Output rows and width of a part. -/
def Part.height (x : Part) : Nat := x.rows
def Part.outWidth (x : Part) : Nat := if x.win = 4 then x.width else x.width / x.k

/-- Coded height (R284). -/
def codedHeight (h k : Nat) : Nat := h / k / 2 * 2

/-- Body packets of a part on tap `t` (Table 10.1). -/
def PipeFrame.bodies (r : PipeFrame) (p t : Nat) (x : Part) : Nat :=
  if t = 0 then x.height
  else if t = 1 then x.height / r.scale p t
  else ceilDiv (codedHeight x.height (r.scale p t)) 16

/-- The last output row that body packet `i` draws on. -/
def PipeFrame.lastRow (r : PipeFrame) (p t : Nat) (x : Part) (i : Nat) : Nat :=
  if t = 0 then i
  else
    let k := r.scale p t
    if t = 1 then k * i + k - 1 else k * min (16 * (i + 1)) (codedHeight x.height k) - 1

/-- Whether a part is formed on tap `t` (R285, R286, R288). -/
def PipeFrame.forms (r : PipeFrame) (p t : Nat) (x : Part) : Bool :=
  r.g (F.PIP_TAP_CTRL_EN p t) == 1 &&
  (r.companion || bitN (r.g (F.PIP_TAP_CTRL_NODES p t)) x.node) &&
  (x.win != 4 || (t == 0 && r.g (F.PIP_TAP_CTRL_BLACK p 0) == 1)) &&
  decide (0 < r.bodies p t x)

/-- Unpadded row length of a part on tap `t`, in bytes. -/
def PipeFrame.rowBytes (r : PipeFrame) (p t : Nat) (x : Part) : Nat :=
  let w := x.outWidth
  if x.win = 4 then 2 * w
  else if t = 0 then (if r.g (F.PIP_TAP_CTRL_FMT p 0) = 0 then 2 * w else 3 * ceilDiv w 2)
  else if t = 1 then 3 * (w / r.scale p t)
  else w / r.scale p t

/-- STRIDE (R278). -/
def PipeFrame.stride (r : PipeFrame) (p t : Nat) (x : Part) : Nat := ceilDiv (r.rowBytes p t x) 64 * 64

/-- Matrix, curve, scale and GREY of a display or coding tap for a frame (R281, R283). -/
def PipeFrame.colour (r : PipeFrame) (p t : Nat) : ColourPath :=
  { k := r.scale p t, grey := r.g (F.PIP_TAP_CTRL_GREY p t),
    ccm := (List.range 9).map fun i => signed 16 (r.g (F.PIP_CCM_COEF p i)),
    curve := 0x3400000 + 0x400 * (2 * p + r.g (F.PIP_TAP_CURVE_SEL p)) }

/-- Rows of planes as arrays. -/
def Part.grid (x : Part) : Array (Array Px) := (x.px.map List.toArray).toArray

/-- Row data of body packet `i`, unpadded (R280 to R284). -/
def PipeFrame.rowData (r : PipeFrame) (st : StoreBytes) (p t : Nat) (x : Part) (i : Nat) : List Byte :=
  let stride := r.stride p t x
  if x.win = 4 then padTo stride ((nth x.raw i []).flatMap fun v => leBytes (clamp16 v).toNat 2)
  else if t = 0 then
    let row := nth x.px i []
    (List.range 5).flatMap fun pl =>
      if bitN (r.g (F.PIP_TAP_CTRL_PLANES p 0)) pl then
        padTo stride (visionRow (r.g (F.PIP_TAP_CTRL_FMT p 0)) (row.map fun v => nth v.planes pl 0))
      else []
  else
    let q := r.colour p t
    let w := x.outWidth / q.k
    if t = 1 then
      padTo stride ((List.range w).flatMap fun I =>
        let v := q.pixel st x.grid i I
        [BitVec.ofNat 8 v.1, BitVec.ofNat 8 v.2.1, BitVec.ofNat 8 v.2.2])
    else q.tile st x.grid w (codedHeight x.height q.k) stride i

/-- Highest mark among the rows of a body packet; 0 for a camera (R276). -/
def PipeFrame.mark (r : PipeFrame) (p t : Nat) (x : Part) (i : Nat) : Nat :=
  if !r.companion then 0 else
  let last := r.lastRow p t x i
  let first := if t = 0 then i else if t = 1 then r.scale p t * i else r.scale p t * (16 * i)
  ((x.marks.take (last + 1)).drop first).foldl max 0

/-- Body packet `i` of a part (R276, R278). -/
def PipeFrame.body (r : PipeFrame) (st : StoreBytes) (p t seq : Nat) (x : Part) (i : Nat) : List Byte :=
  let stamp := nth x.stamps (r.lastRow p t x i) 0
  padTo 64 (wordBytes [seq + r.mark p t x i * 2 ^ 16 + 2 * 2 ^ 28, i] ++ leBytes stamp 6 ++ leBytes 0 2 ++
    r.rowData st p t x i)

/-- Pixels of a part replaced; replaced with no candidate; above 65,535 before the clamp (R257, R258). -/
def Part.subst (x : Part) : Nat := (x.fixed.map fun l => l.countP (·.sub)).foldl (· + ·) 0
def Part.unres (x : Part) : Nat := (x.fixed.map fun l => l.countP (·.unres)).foldl (· + ·) 0
def Part.satHi (x : Part) : Nat := (x.fixed.map fun l => l.countP (·.sat)).foldl (· + ·) 0

/-- The correction record of a part (Table 9.5). -/
def PipeFrame.corrRecord (r : PipeFrame) (x : Part) : List Nat :=
  let b := fun (v : Bool) (n : Nat) => if v then 2 ^ n else 0
  let cam := !r.companion
  [(if cam then unsigned 16 r.temp + r.seg * 2 ^ 16 + b r.clamped 17 + b r.fallback 18 else 0) + b x.mismatch 19 +
     (if x.corr.cal = 0x5300000 then 2 ^ 20 else 0) + b (x.corr.tbl % 0x40000 ≥ 0x20000) 21 + b x.corr.unmix 22 +
     b x.corr.bal 23 + b x.corr.dark 24 + b x.corr.flat 25 + b x.corr.defect 26,
   if cam then unsigned 16 r.weight else 0,
   min 65535 x.subst + min 65535 x.unres * 2 ^ 16, min (2 ^ 32 - 1) x.satHi]

/-- The header packet (Table 10.2); its SKIPPED field is filled in as it is written. FMT is a field of taps 0 to 2, GREY of
taps 1 and 2; elsewhere both read 0 (R624). -/
def PipeFrame.header (r : PipeFrame) (p t seq kind width height node win stride : Nat) (pair col : Nat)
    (corr : List Nat) : List Byte :=
  let planes := if kind = 0 then r.g (F.PIP_TAP_CTRL_PLANES p 0) else 0
  let fmt := if t ≤ 2 then r.g (F.PIP_TAP_CTRL_FMT p t) else 0
  let grey := if t = 1 ∨ t = 2 then r.g (F.PIP_TAP_CTRL_GREY p t) else 0
  wordBytes ([seq + kind * 2 ^ 16 + p * 2 ^ 20 + r.src * 2 ^ 22 + node * 2 ^ 25 + win * 2 ^ 26 + 2 ^ 28,
    width % 65536 + height % 65536 * 2 ^ 16,
    planes + fmt * 2 ^ 8 + grey * 2 ^ 10,
    r.seq, r.start % 2 ^ 32, r.start / 2 ^ 32, pair + col * 2 ^ 8, stride] ++ r.record ++ corr ++ List.replicate 12 0)

/-- The header of an image or black part on tap `t`. -/
def PipeFrame.partHeader (r : PipeFrame) (p t seq : Nat) (x : Part) : List Byte :=
  let black := x.win = 4
  let kind := if black then 4 else t
  let k := if t = 0 then 1 else r.scale p t
  let height := if t = 2 then codedHeight x.height k else x.height / k
  let cam := !r.companion && !decide black
  r.header p t seq kind (x.outWidth / k) height (if r.companion then 0 else x.node)
    (if cam then x.win else 0) (r.stride p t x)
    (if cam then r.g (F.CNV_WIN_PAIR_FIRST (r.src - 1) x.win) else 0)
    (if cam then r.g (F.CNV_WIN_COL_FIRST (r.src - 1) x.win) else 0)
    (if black then [0, 0, 0, 0] else r.corrRecord x)

/-- A trailer packet (R277). -/
def trailer (seq status accepted : Nat) : List Byte := wordBytes [seq + status * 2 ^ 16 + 3 * 2 ^ 28, accepted, 0, 0]

/-- A part of tap `t` skipped or voided: counted, flagged, and added to the next header (R290). -/
def State.countSkip (s : State) (p t seq : Nat) : State :=
  let s := s.setTap p t { s.tap p t with skipped := (s.tap p t).skipped + 1 }
  (s.bump (C.PIP_CNT_SKIP p t)).sticky F.PIP_TAP_FLAGS_SKIP (4 * p + t) 0x0A12 (4 * p + t) [seq]

/-- Whether bus mastering is enabled (Table 20.2). -/
def State.busMaster (s : State) : Bool := bitN (s.pcie.config.get 4).toNat 2

/-- After a host-side reset parts are skipped until the host has restored bus mastering and the rings (R115). -/
def State.hostBack (s : State) : Bool := !s.hall.hostLost

/-- The host has restored bus mastering and the rings: the skipping of R115 ends for good. DESIGN CHOICE: the rings count as
restored once one submission ring and one completion ring are enabled, whichever they are and whatever the notice rings
are; the spec does not say which rings it means (log entry 127). -/
def State.hostReturns (s : State) : State :=
  if s.busMaster && (List.range 16).any (fun i => s.on (F.USH_SQ_CTRL_EN i)) &&
      (List.range 8).any (fun i => s.on (F.USH_CQ_CTRL_EN i)) then { s with hall := { s.hall with hostLost := false } } else s

/-- Whether the port of a tap still has a trailer to write to queue `q` (R288). -/
def Port.trailerPending (x : Port) (q : Nat) : Bool :=
  (x.cur.toList ++ x.behind).any fun p => decide (3 ≤ p.kind) && p.queue == q

/-- The admission test of a part (R288). -/
def State.admits (s : State) (p t cells : Nat) : Bool :=
  !(s.port (4 * p + t)).trailerPending (s.tapQueue p t) && decide (max 2 cells ≤ s.avail (s.tapQueue p t)) && s.hostBack

/-- Every admitted part of tap `t` open on queue `q` and not yet voided becomes so: counted, with one trailer of STATUS 1
each, in part order (R289, R290). -/
def State.voidParts (s : State) (p t q : Nat) : State × List OutPacket :=
  let x := s.tap p t
  let new := x.opens.filter fun o => o.queue == q && !o.voided
  let s := s.setTap p t { x with opens := x.opens.map fun o => if o.queue = q then { o with voided := true } else o }
  let s := new.foldl (fun s o => (s.countSkip p t o.seq).bump (C.PIP_CNT_VOID p t)) s
  (s, new.map fun o => ⟨q, trailer o.seq 1 o.accepted, o.seq, 4⟩)

/-- Queue `q` refuses the packet of tap `t` that waits: what else of the tap is on its way to that queue gives way to the
trailers of its voided parts (R289). -/
def State.refusePacket (s : State) (p t q : Nat) : State :=
  let n := 4 * p + t
  let s := s.abandonPacket n
  let (s, tr) := s.voidParts p t q
  let x := s.port n
  (s.setPort n { x with behind := (x.behind.filter fun o => o.kind == 4 || o.queue != q) ++ tr }).startPort n

/-- A packet of tap `t` is complete: a packet of the tap that waits for a cell of the same queue is refused first (R289).
A packet of a voided part is not written. -/
def State.offerTap (s : State) (p t : Nat) (o : OutPacket) : State :=
  let n := 4 * p + t
  let x := s.port n
  let refused := x.waiting && x.cur.any fun c => c.kind != 4 && c.queue == o.queue
  let s := if refused then s.refusePacket p t o.queue else s
  if o.kind ≤ 3 ∧ (s.tap p t).opens.any (fun e => e.seq == o.seq && e.voided) then s else s.offerPacket n o

/-- A part admitted: numbered, its header offered (R279, R290). -/
def State.openPart (s : State) (p t f : Nat) (hdr : Nat → List Byte) : State × Nat :=
  let q := s.tapQueue p t
  let seq := s.g (F.PIP_TAP_SEQ_SEQ p t)
  let s := s.put (F.PIP_TAP_SEQ_SEQ p t) (seq + 1)
  let x := s.tap p t
  let s := s.setTap p t { x with opens := x.opens ++ [⟨f, seq, 0, false, q⟩] }
  (s.offerTap p t ⟨q, hdr seq, seq, 1⟩, seq)

/-- A part skipped at start (R288, R290). -/
def State.skipPart (s : State) (p t : Nat) : State :=
  let seq := s.g (F.PIP_TAP_SEQ_SEQ p t)
  (s.put (F.PIP_TAP_SEQ_SEQ p t) (seq + 1)).countSkip p t seq

/-- The trailer of a part offered, unless the part has been voided (R277, R279). -/
def State.closePart (s : State) (p t seq status : Nat) : State :=
  match (s.tap p t).opens.find? fun e => e.seq == seq && !e.voided with
  | some e => s.offerTap p t ⟨e.queue, trailer seq status e.accepted, seq, 3⟩
  | none => s

/-- A change to tap `t` of part (node, win) of the frame at `f`. -/
def State.modTapPart (s : State) (p f node win t : Nat) (h : TapPart → TapPart) : State :=
  s.modFrame p f fun r => { r with parts := r.parts.map fun x =>
    if x.node = node ∧ x.win = win then { x with taps := modNth x.taps t h } else x }

/-- Whether body packet `i` of a part is complete by tick `now`. -/
def PipeFrame.ready (r : PipeFrame) (p t : Nat) (x : Part) (i now : Nat) : Bool :=
  match x.ticks[r.lastRow p t x i]? with
  | some k => decide (k ≤ now)
  | none => false

/-- The next body packet of tap `t` that is complete, in the order of R279: frame, row or tile, node, window. -/
def State.nextBody (s : State) (p t : Nat) : Option (PipeFrame × Part × Nat) :=
  let cand := (s.pipe p).frames.flatMap fun r => r.parts.filterMap fun x =>
    let w := nth x.taps t ⟨2, 0, 0⟩
    if w.state < 2 ∧ r.ready p t x w.next s.time ∧ r.stopAt.all (fun e => decide (nth x.ticks (r.lastRow p t x w.next) 0 ≤ e)) then
      some (r, x, w.next) else none
  let le := fun (a b : PipeFrame × Part × Nat) =>
    decide (a.1.start < b.1.start) || (a.1.start == b.1.start && (decide (a.2.2 < b.2.2) || (a.2.2 == b.2.2 &&
      (decide (a.2.1.node < b.2.1.node) || (a.2.1.node == b.2.1.node && decide (a.2.1.win ≤ b.2.1.win))))))
  cand.foldl (fun m c => match m with | none => some c | some b => if le b c then some b else some c) none

/-- A body packet written, after the part's admission when it is the first, before its trailer when it is the last: with
STATUS 2 where the pipeline has stopped with the part open (R279, R288, R291). -/
def State.writeBody (s : State) (p t : Nat) (r : PipeFrame) (x : Part) (i : Nat) : State :=
  let w := nth x.taps t ⟨2, 0, 0⟩
  let done := fun (s : State) => s.modTapPart p r.start x.node x.win t fun w => { w with state := 2 }
  let go := fun (s : State) (seq : Nat) =>
    match (s.tap p t).opens.find? fun e => e.seq == seq && e.frame == r.start && !e.voided with
    | some e =>
      let s := s.offerTap p t ⟨e.queue, r.body s.store p t seq x i, seq, 2⟩
      let s := s.modTapPart p r.start x.node x.win t fun _ => ⟨1, seq, i + 1⟩
      if i + 1 = r.bodies p t x then done (s.closePart p t seq (if r.stopAt.isSome then 2 else 0)) else s
    | none => done s
  if w.state = 1 then go s w.seq
  else if s.admits p t (r.g (F.PIP_TAP_ADMIT_CELLS p t)) then
    let (s, seq) := s.openPart p t r.start fun seq => r.partHeader p t seq x
    go s seq
  else done (s.skipPart p t)

/-- Every body packet of tap `t` that is complete by now written, at most `n` of them. -/
def State.writeBodies (s : State) (p t : Nat) : Nat → State
  | 0 => s
  | n + 1 => match s.nextBody p t with
    | none => s
    | some (r, x, i) => (s.writeBody p t r x i).writeBodies p t n

/-- The image taps of pipeline `p` write what is complete (R279). -/
def State.runTaps (s : State) (p : Nat) : State :=
  let n := ((s.pipe p).frames.flatMap fun r => r.parts.map fun x => x.rows + 1).foldl (· + ·) 0
  overIdx (fun t s => s.writeBodies p t n) 3 s

/-- The words of an object record (Table 11.2). -/
def Rec.words (x : Rec) : List Nat :=
  let b := fun (v : Bool) (n : Nat) => if v then 2 ^ n else 0
  let ta := fun (i : Nat) => min 65535 (nth x.tallies i 0)
  [x.num + x.pipe * 2 ^ 10 + x.node * 2 ^ 12 + b x.valid 13 + b x.plan 14 + b x.tracked 15 + b x.edgeUp 16 +
     b x.edgeDown 17 + b x.edgeSide 18 + b x.aEdge 19 + b x.orphan 20 + b x.overflow 21 + b x.stale 22 + x.setgen * 2 ^ 24,
   x.rowB % 65536 + x.colB % 65536 * 2 ^ 16,
   x.rowFirst % 512 + x.rowLast % 512 * 2 ^ 9 + (if x.tracked then x.pred else 0) * 2 ^ 18,
   x.colFirst % 8192 + x.colLast % 8192 * 2 ^ 16,
   if x.valid then unsigned 16 x.vy + unsigned 16 x.vx * 2 ^ 16 else 0,
   min 65535 x.area + x.classes * 2 ^ 16, ta 0 + ta 1 * 2 ^ 16, ta 2 + ta 3 * 2 ^ 16]

/-- The records of a list in object order. -/
def insertRec (x : Rec) : List Rec → List Rec
  | [] => [x]
  | y :: l => if x.num ≤ y.num then x :: y :: l else y :: insertRec x l

/-- Lists cut into pieces of 64. -/
def chunks64 {α : Type} (l : List α) : Nat → List (List α)
  | 0 => []
  | n + 1 => l.take 64 :: chunks64 (l.drop 64) n

/-- The kind 3 part of a frame written with the records issued: status 0 at record-complete; 2 after a stop, where the part
counts as open from the stop and tests no admission (R280, R291, R305). -/
def State.writeRecords (s : State) (p f status : Nat) : State :=
  match (s.pipe p).frames.find? fun r => r.start == f with
  | none => s
  | some r =>
    let done := fun (s : State) => s.modFrame p f fun r => { r with kind3 := ⟨2, 0, 0⟩ }
    if r.kind3.state = 2 ∨ r.g (F.PIP_TAP_CTRL_EN p 3) = 0 then done s
    else if status = 0 ∧ !s.admits p 3 (r.g (F.PIP_TAP_ADMIT_CELLS p 3)) then done (s.skipPart p 3)
    else
      let recs := (r.recs.filter (·.issued)).foldl (fun l x => insertRec x l) []
      let n := recs.length
      let cs := chunks64 recs (max 1 (ceilDiv n 64))
      let (s, seq) := s.openPart p 3 f fun seq => r.header p 3 seq 3 n 0 0 0 0 0 0 [0, 0, 0, 0]
      let (s, _) := cs.foldl (fun (a : State × Nat) c =>
        (a.1.offerTap p 3 ⟨a.1.tapQueue p 3,
          padTo 64 (wordBytes [seq + 2 * 2 ^ 28, a.2] ++ leBytes s.time 6 ++ leBytes 0 2 ++ wordBytes (c.flatMap Rec.words)),
          seq, 2⟩, a.2 + 1)) (s, 0)
      done (s.closePart p 3 seq status)

/-- A packet of a port has been taken whole by the Hall (R289): a header has told the skips it shows, a body packet is
counted, a part whose trailer has gone is forgotten. -/
def State.accepted (s : State) (n : Nat) (o : OutPacket) : State :=
  if 16 ≤ n then s else
  let p := n / 4
  let t := n % 4
  let x := s.tap p t
  if o.kind = 1 then s.setTap p t { x with skipped := x.skipped - x.shown, shown := 0 }
  else if o.kind = 2 then
    s.setTap p t { x with opens := x.opens.map fun e => if e.seq = o.seq then { e with accepted := e.accepted + 1 } else e }
  else if 3 ≤ o.kind then s.setTap p t { x with opens := x.opens.filter fun e => e.seq != o.seq }
  else s

/-- `bs` with the bytes from `i` on replaced by `new`. -/
def patch (bs : List Byte) (i : Nat) (new : List Byte) : List Byte := bs.take i ++ new ++ bs.drop (i + new.length)

/-- A packet as its writing begins: a header shows the parts skipped since the last header written (Table 10.2), a trailer
names the body packets accepted by then (R277). -/
def State.filledIn (s : State) (n : Nat) (o : OutPacket) : State × OutPacket :=
  if 16 ≤ n then (s, o) else
  let p := n / 4
  let t := n % 4
  let x := s.tap p t
  if o.kind = 1 then
    (s.setTap p t { x with shown := x.skipped }, { o with bytes := patch o.bytes 10 (leBytes (min 65535 x.skipped) 2) })
  else if 3 ≤ o.kind then
    match x.opens.find? fun e => e.seq == o.seq with
    | some e => (s, { o with bytes := patch o.bytes 4 (leBytes e.accepted 4) })
    | none => (s, o)
  else (s, o)

/-- Whether the tap parts of a frame have closed (R500). -/
def State.partsClosed (s : State) (p : Nat) (r : PipeFrame) : Bool :=
  r.kind3.state == 2 && r.parts.all (fun x => x.taps.all fun w => w.state == 2) &&
  (List.range 4).all fun t => !((s.tap p t).opens.any fun e => e.frame == r.start)

/-- Every readout that the frame's source gives it has ended by now (R155), or the pipeline's stop is past. -/
def PipeFrame.readOut (r : PipeFrame) (now : Nat) : Bool :=
  match r.stopAt with
  | some e => decide (e ≤ now)
  | none =>
    (!r.nodeA || r.endA.any fun e => decide (e ≤ now)) && (!r.nodeB || r.endB.any fun e => decide (e ≤ now))

/-- Frames of pipeline `p` that are complete leave it; the last of a CAPTURE ends its task, the last of a disarmed
flight ends the disarm (R500, R503, R530). -/
def State.settle (s : State) (p : Nat) : State :=
  let x := s.pipe p
  let shut := fun (r : PipeFrame) => r.complete && r.readOut s.time && s.partsClosed p r
  let keep := x.frames.filter fun r => !(shut r && r.planning == 0)
  let s := s.setPipe p { x with frames := keep }
  let s := if x.capture = some 0 ∧ !(x.frames.any fun r => !r.flight && !shut r) then s.after 0 (.taskEnd (8 + p) none 0) else s
  if x.bound && x.disarming && x.landed && !(keep.any (·.flight)) then s.after 0 .flightDisarmed else s

/-- The packet of port `n` closes and its next one starts (R458). -/
def State.portClose (s : State) (n : Nat) : State :=
  match (s.port n).cur with
  | none => s
  | some o =>
    if (s.port n).taken < o.bytes.length ∨ (s.port n).waiting then s else
    let s := (s.closePacket n o).setPort n { s.port n with cur := none, taken := 0, opened := false }
    let s := (s.accepted n o).startPort n
    if n < 16 then s.settle (n / 4) else s

/-- PACKET_CLOSE (R458). -/
def execPacketClose (port : Nat) (s : State) : Result := .next (s.portClose (port % 17))

/-- The taps with a part open on queue `q`, emptied under them: those parts are voided without a trailer, what is on its way
to `q` is discarded (R291, R467). -/
def State.tapLoses (s : State) (q n : Nat) : State :=
  let p := n / 4
  let t := n % 4
  let (s, _) := s.voidParts p t q
  let s := s.setTap p t { s.tap p t with opens := (s.tap p t).opens.filter fun e => e.queue != q }
  let x := s.port n
  let x := { x with behind := x.behind.filter fun o => o.queue != q }
  if x.cur.any fun o => o.queue == q then (s.setPort n { Port.idle with behind := x.behind }).startPort n else s.setPort n x

/-- A monitor block skipped: counted and flagged, and shown by the next block written (R426). -/
def State.blockSkipped (s : State) : State :=
  let s := { s with stream := { s.stream with skipped := s.stream.skipped + 1 } }.bump C.MON_CNT_SKIP
  s.sticky F.MON_FLAGS_SKIP 0 0x0F10 0 [s.ctr C.MON_CNT_SKIP]

/-- What the writers of queue `q` do as it is emptied under them: the taps as R291 says; the monitor stream ends its block
as a skipped one (R467). -/
def State.writersLose (s : State) (q : Nat) : State :=
  let s := overIdx (fun n s => s.tapLoses q n) 16 s
  if (s.port 16).cur.any fun o => o.queue == q then
    (s.setPort 16 { Port.idle with behind := (s.port 16).behind }).blockSkipped.startPort 16
  else s

/-- A check failure of queue `q` resets it with all that follows for its writers (R467). -/
def State.resetQueue (s : State) (q : Nat) : State := if q < 8 then s.queueReset q else (s.queueReset q).writersLose q

/-- What a use of the Hall by a writer meets in its check logic (R467 to R469). -/
def State.writerCheck (s : State) (n : Nat) (chk : HallCheck) : State :=
  match (s.port n).cur with
  | none => s
  | some o => match chk with
    | .ok | .double => s
    | .single => if s.g (F.HAL_Q_CTRL_PROT o.queue) = 1 then s.hallCorrected o.queue else s
    | .pointer => s.resetQueue o.queue
    | .freeList => s.freeListFails false

/-- PACKET_OPEN: the packet on a port takes its first cell (R458). -/
def execPacketOpen (port : Nat) (chk : HallCheck) (s : State) : Result :=
  let n := port % 17
  let s := s.writerCheck n chk
  let x := s.port n
  .next (match x.cur with
    | some o => if x.opened ∨ x.waiting ∨ s.now < x.nextAt then s
      else
        let (s, o) := s.filledIn n o
        (s.setPort n { s.port n with cur := some o }).writeStep n
    | none => s)

/-- PACKET_WRITE: a port writes on, taking the next cell or waiting for it (R458, R462). -/
def State.portWrite (s : State) (n : Nat) (chk : HallCheck) : State :=
  let s := s.writerCheck n chk
  let x := s.port n
  if !x.opened || x.waiting || decide (s.now < x.nextAt) then s else s.writeStep n

/-- PACKET_WRITE (R462). -/
def execPacketWrite (port : Nat) (chk : HallCheck) (s : State) : Result := .next (s.portWrite (port % 17) chk)

/-- WRITE_UNBLOCK: on a CD9 edge the waiting writes of queue `q` are tried in ascending port; a cycle in which one
stays pending counts (R462). -/
def State.unblock (s : State) (q : Nat) : State :=
  let waits := fun (s : State) (n : Nat) => (s.port n).waiting && (match (s.port n).cur with
    | some o => o.queue == q
    | none => false)
  if s.time % 2 = 1 ∨ !((List.range 17).any fun n => waits s n) then s else
  let s := s.withdraw fun c => c == .writeUnblock q
  let s := (List.range 17).foldl (fun s n =>
    if waits s n then
      match (s.port n).cur with
      | some o => if s.canTake q then s.takeCell n o else s
      | none => s
    else s) s
  if (List.range 17).any fun n => waits s n then (s.bump (C.HAL_CNT_BP q)).after 2 (.writeUnblock q) else s

/-- WRITE_UNBLOCK (R462). -/
def execWriteUnblock (q : Nat) (s : State) : Result := .next (s.unblock q)

/-- A writer abandons its open packet at any point (R458): a tap does so when its queue refuses it (R289). -/
def State.portAbandon (s : State) (n : Nat) : State :=
  if n < 16 then
    match (s.port n).cur with
    | some o => if o.kind < 4 then s.refusePacket (n / 4) (n % 4) o.queue else s
    | none => s
  else (s.abandonPacket n).startPort n

/-- PACKET_ABANDON (R458). -/
def execPacketAbandon (port : Nat) (s : State) : Result := .next (s.portAbandon (port % 17))

end Sys2Proof.Machine
end

