-- ==== Sys2Proof/Machine/Classify.lean ====
section
/-! DEFINITION. Segmentation, object records, matching, velocity and tracking, as functions of a frame's parts
(11_classification_and_tracking.md, R293 to R313). -/

namespace Sys2Proof.Machine

/-- An open object: its accumulators and its runs in the previous and in the present row of its window. -/
structure OpenObj where
  obj : Obj
  prev : List (Nat × Nat)
  cur : List (Nat × Nat)
  deriving DecidableEq, Repr

/-- Segmentation of one node readout in progress (R297 to R301). -/
structure Seg where
  /-- Open objects of all windows, in order of opening. -/
  opens : List OpenObj
  /-- Objects opened so far. -/
  opened : Nat
  /-- The overflow object and the tick of the row pair that opened it. -/
  spill : Option (Obj × Nat)
  /-- Closed objects in number order. -/
  closed : List Obj
  deriving DecidableEq, Repr

/-- Segmentation before the first row. -/
def Seg.start : Seg := ⟨[], 0, none, []⟩

/-- Runs of a row: first and last column and the classes between (R297). -/
def runsOf : List Nat → Nat → List (Nat × Nat × List Nat)
  | [], _ => []
  | c :: l, i =>
    if c = 0 then runsOf l (i + 1)
    else match runsOf l (i + 1) with
      | (a, b, cs) :: rs => if a = i + 1 then (i, b, c :: cs) :: rs else (i, i, [c]) :: (a, b, cs) :: rs
      | [] => [(i, i, [c])]

/-- Two column ranges of adjacent rows overlap or touch diagonally (R297). -/
def touches (x y : Nat × Nat) : Bool := decide (x.1 ≤ y.2 + 1) && decide (y.1 ≤ x.2 + 1)

/-- An object of one run in output row `row`, columns from `base` on (R301, R302). -/
def objOfRun (win row base : Nat) (r : Nat × Nat × List Nat) : Obj :=
  let a := base + r.1
  let b := base + r.2.1
  { win := win, area := r.2.2.length, rowFirst := row, rowLast := row, colFirst := a, colLast := b,
    sumRow := row * r.2.2.length, sumCol := ((List.range r.2.2.length).map (a + ·)).foldl (· + ·) 0,
    counts := (List.range 16).map fun k => (r.2.2.filter (· == k)).length, overflow := false, close := 0, num := 0 }

/-- Two parts of one object together. -/
def Obj.union (x y : Obj) : Obj :=
  { x with area := x.area + y.area, rowFirst := min x.rowFirst y.rowFirst, rowLast := max x.rowLast y.rowLast,
           colFirst := min x.colFirst y.colFirst, colLast := max x.colLast y.colLast, sumRow := x.sumRow + y.sumRow,
           sumCol := x.sumCol + y.sumCol, counts := List.zipWith (· + ·) x.counts y.counts }

/-- One run added (R297, R299). -/
def Seg.addRun (g : Seg) (win row base tick : Nat) (r : Nat × Nat × List Nat) : Seg :=
  let o := objOfRun win row base r
  let span := (r.1, r.2.1)
  let hit := fun (x : OpenObj) => x.obj.win == win && x.prev.any (touches span)
  match g.opens.filter hit with
  | x :: l =>
    let all := l.foldl (fun (m : OpenObj) y => ⟨m.obj.union y.obj, m.prev ++ y.prev, m.cur ++ y.cur⟩) x
    let new : OpenObj := ⟨all.obj.union o, all.prev, all.cur ++ [span]⟩
    let rest := g.opens.filter fun y => !hit y
    { g with opens := (g.opens.takeWhile fun y => !hit y) ++ [new] ++
               rest.drop (g.opens.takeWhile fun y => !hit y).length }
  | [] =>
    if g.opened < 1023 then { g with opens := g.opens ++ [⟨o, [], [span]⟩], opened := g.opened + 1 }
    else match g.spill with
      | some (v, t) => { g with spill := some (v.union o, t) }
      | none => { g with spill := some ({ o with overflow := true, num := 1023 }, tick) }

/-- Order of objects that close on one tick: window, then first column (R299). -/
def Obj.le (x y : Obj) : Bool := decide (x.win < y.win) || (x.win == y.win && decide (x.colFirst ≤ y.colFirst))

/-- Insertion of a closing object behind those before it. -/
def insertObj (x : Obj) : List Obj → List Obj
  | [] => [x]
  | y :: l => if y.le x then y :: insertObj x l else x :: y :: l

/-- One output row of a window: its runs added, the objects with no run in it set aside as closing (R297, R298). -/
def Seg.addRow (g : Seg) (win row base runMin tick : Nat) (cls : List Nat) : Seg × List Obj :=
  let runs := (runsOf cls 0).filter fun r => decide (runMin ≤ r.2.2.length)
  let g := runs.foldl (fun g r => g.addRun win row base tick r) g
  let gone := g.opens.filter fun x => x.obj.win == win && x.cur.isEmpty
  let stay := g.opens.filter fun x => !(x.obj.win == win && x.cur.isEmpty)
  ({ g with opens := stay.map fun x => if x.obj.win = win then { x with prev := x.cur, cur := [] } else x },
   gone.map (·.obj))

/-- Objects that close on tick `tick` numbered (R299). -/
def Seg.close (g : Seg) (tick : Nat) (l : List Obj) : Seg :=
  let l := l.foldl (fun m x => insertObj x m) []
  { g with closed := l.foldl (fun m x => m ++ [{ x with close := tick, num := m.length }]) g.closed }

/-- The rows of a readout in the order in which they leave: tick, window, output row, column base, shortest run,
classes, and whether the row is the last of its part. -/
structure SegRow where
  tick : Nat
  win : Nat
  row : Nat
  base : Nat
  last : Bool
  cls : List Nat
  deriving DecidableEq, Repr

/-- Order in which rows enter segmentation. -/
def SegRow.le (x y : SegRow) : Bool :=
  decide (x.tick < y.tick) || (x.tick == y.tick && (decide (x.win < y.win) || (x.win == y.win && decide (x.row ≤ y.row))))

/-- Insertion in that order. -/
def insertRow (x : SegRow) : List SegRow → List SegRow
  | [] => [x]
  | y :: l => if y.le x then y :: insertRow x l else x :: y :: l

/-- Segmentation of the rows of a readout: closings are numbered tick by tick; with its last row a part closes what
is open (R298). `held` are the objects closing on the tick in hand. -/
def segRows (runMin : Nat) : List SegRow → Seg → Nat → List Obj → Seg
  | [], g, t, held => g.close t held
  | x :: l, g, t, held =>
    let (g, held) := if x.tick = t then (g, held) else (g.close t held, [])
    let (g, gone) := g.addRow x.win x.row x.base runMin x.tick x.cls
    let ends := if x.last then g.opens.filter (fun o => o.obj.win == x.win) else []
    let g := if x.last then { g with opens := g.opens.filter fun o => o.obj.win != x.win } else g
    segRows runMin l g x.tick (held ++ gone ++ ends.map (·.obj))

/-- The closed objects of a readout in object order and the tick that opened its overflow object; `final` says that
all its rows are given, the last leaving on `fin` (R297 to R300). -/
def segment (runMin : Nat) (rows : List SegRow) (final : Bool) (fin : Nat) : List Obj × Option Nat :=
  let g := segRows runMin (rows.foldl (fun l x => insertRow x l) []) Seg.start 0 []
  match g.spill with
  | none => (g.closed, none)
  | some (o, t) => (if final then g.closed ++ [{ o with close := fin }] else g.closed, some t)

/-- Centroid row and column (R301). -/
def Obj.row (o : Obj) : Int := rdiv (128 * (o.sumRow : Int)) o.area
def Obj.col (o : Obj) : Int := rdiv (8 * (o.sumCol : Int)) o.area

/-- What a frame's parts give its objects: height, first and last column of a window. -/
structure Extent where
  h : Nat
  colFirst : Nat
  colLast : Nat
  deriving DecidableEq, Repr

/-- The extent of the part of window `w`. -/
def PipeFrame.extent (r : PipeFrame) (node w : Nat) : Extent :=
  match r.parts.find? fun x => x.node == node && x.win == w with
  | some x =>
    let base := x.corr.col0 / x.k
    ⟨x.rows, base, base + x.outWidth - 1⟩
  | none => ⟨1, 0, 0⟩

/-- Centroid row in the sense of DIR (R303). -/
def mirrored (dir : Bool) (h : Nat) (row : Int) : Int := if dir then 128 * ((h : Int) - 1) - row else row

/-- The object touches the upstream edge; the downstream edge; a side edge (R302, R303). -/
def Obj.edges (o : Obj) (dir : Bool) (x : Extent) : Bool × Bool × Bool :=
  let a := o.rowFirst == 0
  let b := o.rowLast + 1 == x.h
  (if dir then b else a, if dir then a else b, o.colFirst == x.colFirst || o.colLast == x.colLast)

/-- Gates of the node match (R306). -/
structure Gate where
  drMin : Int
  drMax : Int
  drExp : Int
  dcMax : Int
  deriving DecidableEq, Repr

/-- The node A object matched to a node B object with centroid (row, col), the least cost first, then the least
number (R306). -/
def Gate.pick (k : Gate) (dir : Bool) (ext : Extent) (o : Obj) (cands : List Obj) : Option Obj :=
  let row := mirrored dir ext.h o.row
  let cost := fun (a : Obj) =>
    let dr := row - mirrored dir ext.h a.row
    let dc := o.col - a.col
    if a.win = o.win ∧ k.drMin * 128 ≤ dr ∧ dr ≤ k.drMax * 128 ∧ (dc.natAbs : Int) ≤ k.dcMax * 8 then
      some ((dr - 128 * k.drExp).natAbs + 16 * dc.natAbs)
    else none
  (cands.foldl (fun (m : Option (Nat × Obj)) a => match cost a, m with
    | none, m => m
    | some c, none => some (c, a)
    | some c, some (b, y) => if c < b ∨ (c = b ∧ a.num < y.num) then some (c, a) else some (b, y)) none).map (·.2)

/-- What records of a frame take from its fields in effect (R304 to R313). -/
structure RecEnv where
  pipe : Nat
  dir : Bool
  gate : Gate
  pitch : Int
  grav : Int
  tally : List Nat
  view : Int
  adv : Int
  trackGate : Int
  deriving DecidableEq, Repr

/-- The class mask of an object (R301). -/
def Obj.mask (o : Obj) : Nat := ((List.range 16).map fun k => if nth o.counts k 0 = 0 then 0 else 2 ^ k).foldl (· + ·) 0

/-- Bits set in either of two 16-bit masks. -/
def orMask (a b : Nat) : Nat := ((List.range 16).map fun k => if bitN a k || bitN b k then 2 ^ k else 0).foldl (· + ·) 0

/-- A number that fits a signed 16-bit field. -/
def fits16 (v : Int) : Bool := decide (-32768 ≤ v) && decide (v ≤ 32767)

/-- The record of one object of the record node, its match given (R304, R306 to R308). -/
def RecEnv.base (e : RecEnv) (r : PipeFrame) (node : Nat) (o : Obj) (m : Option Obj) : Rec :=
  let ext := r.extent node o.win
  let (up, down, side) := o.edges e.dir ext
  let rowM := mirrored e.dir ext.h o.row
  let tmB := if r.nodeB then r.tmB else r.tmA
  let extA := r.extent 0 o.win
  let aEdge := match m with
    | some a => (a.edges e.dir extA).1 || (a.edges e.dir extA).2.1
    | none => false
  let dr := match m with
    | some a => rowM - mirrored e.dir extA.h a.row
    | none => 0
  let dc := match m with
    | some a => o.col - a.col
    | none => 0
  let dt : Int := (r.tmB : Int) - r.tmA
  let vy := rdiv (dr * e.pitch * 375) (8 * dt) + rdiv (e.grav * dt) 750000000
  let vx := rdiv (dc * e.pitch * 750) dt
  let valid := m.isSome && !up && !down && !aEdge && decide (dt ≠ 0) && fits16 vy && fits16 vx
  let issue := max o.close ((if r.nodeA then r.endA else none).getD 0) + 9000
  { pipe := e.pipe, start := r.start, tmB := tmB, node := node, win := o.win, num := o.num, issueAt := issue,
    issued := false, rowM := rowM, rowB := o.row.toNat, colB := o.col.toNat, rowFirst := o.rowFirst,
    rowLast := o.rowLast, colFirst := o.colFirst, colLast := o.colLast, area := o.area,
    classes := match m with | some a => orMask o.mask a.mask | none => o.mask,
    tallies := e.tally.map fun c => nth o.counts c 0 + (match m with | some a => nth a.counts c 0 | none => 0),
    overflow := o.overflow, edgeUp := up, edgeDown := down, edgeSide := side, matched := m.isSome, aEdge := aEdge,
    valid := valid, dr := dr, dt := dt, vy := if valid then vy else 0, vx := if valid then vx else 0, tracked := false,
    pred := 0, orphan := false, plan := false, planned := false, stale := false, tv := 0,
    setgen := nth r.record 0 0 % 256, eff := r.eff }

/-- The advance predicted for a record of the previous frame (R309). -/
def RecEnv.advance (e : RecEnv) (p : Rec) (df : Int) : Int :=
  if p.valid ∧ p.dr ≠ 0 then rdiv (p.dr * df) p.dt else e.adv * df / 2 ^ 20

/-- The record of the previous frame that a record continues, by least row error, then least number (R309). -/
def RecEnv.follow (e : RecEnv) (df : Int) (x : Rec) (prev : List Rec) : Option Rec :=
  let err := fun (p : Rec) =>
    let d := x.rowM - (p.rowM + e.advance p df)
    if p.win = x.win ∧ (d.natAbs : Int) ≤ 128 * e.trackGate ∧ x.colFirst ≤ p.colLast ∧ p.colFirst ≤ x.colLast then
      some d.natAbs
    else none
  (prev.foldl (fun (m : Option (Nat × Rec)) p => match err p, m with
    | none, m => m
    | some c, none => some (c, p)
    | some c, some (b, y) => if c < b ∨ (c = b ∧ p.num < y.num) then some (c, p) else some (b, y)) none).map (·.2)

/-- Track, planning and orphan marks and the view-line time of a record (R309 to R311, R313). DEDUCED: the view line is a row
value as well, so `CLS_CTRL.DIR` mirrors it in the part's height `h` (R303; log entry 63). -/
def RecEnv.track (e : RecEnv) (h : Nat) (x : Rec) (from_ : Option Rec) (hasPrev : Bool) : Rec :=
  let view := mirrored e.dir h e.view
  let planned := match from_ with | some p => p.plan || p.planned | none => false
  let tv : Int := if x.valid ∧ x.dr ≠ 0 then (x.tmB : Int) + rdiv ((view - x.rowM) * x.dt) x.dr
    else (x.tmB : Int) + rdiv ((view - x.rowM) * 2 ^ 20) e.adv
  { x with tracked := from_.isSome, pred := (match from_ with | some p => p.num | none => 0),
           orphan := from_.isNone && !x.edgeUp && hasPrev, planned := planned,
           plan := !planned && decide (view ≤ x.rowM), tv := tv }

/-- The records of a frame in object order: each object of the record node with its match and its predecessor
(R304, R306, R309). -/
def RecEnv.records (e : RecEnv) (r : PipeFrame) (prev : Option (Nat × List Rec)) : List Rec :=
  let node := if r.nodeB then 1 else 0
  let objs := if r.nodeB then r.objsB else r.objsA
  let pair := r.nodeA && r.nodeB
  let tm := if r.nodeB then r.tmB else r.tmA
  let df : Int := match prev with | some p => (tm : Int) - p.1 | none => 0
  (objs.foldl (fun (a : List Rec × List Obj × List Rec) o =>
    let m := if pair then e.gate.pick e.dir (r.extent node o.win) o a.2.1 else none
    let candsA := match m with | some x => a.2.1.filter (fun y => y.num != x.num) | none => a.2.1
    let x := e.base r node o m
    let f := e.follow df x a.2.2
    let prevs := match f with | some p => a.2.2.filter (fun y => y.num != p.num) | none => a.2.2
    (a.1 ++ [e.track (r.extent node o.win).h x f prev.isSome], candsA, prevs))
    ([], r.objsA, match prev with | some p => p.2 | none => [])).1

end Sys2Proof.Machine
end

