-- ==== Sys2Proof/Machine/Join.lean ====
section
/-! DEFINITION. The join units (11_classification_and_tracking.md, R312 to R318) and the handing of decisions to the
planner's door (R316). -/

namespace Sys2Proof.Machine

/-- Join `j`. -/
def State.join (s : State) (j : Nat) : Join := nth s.joins j Join.idle

/-- Join `j` replaced. -/
def State.setJoin (s : State) (j : Nat) (x : Join) : State := { s with joins := modNth s.joins j fun _ => x }

/-- A field as a register file holds it. -/
def Regs.g (r : Regs) (f : Fld) : Nat := bitsOf (r.get f.off) f.hi f.lo

/-- The join and side of pipeline `p`, if an enabled join names it: side 0 lead, 1 partner (R312). -/
def State.joinSide (s : State) (p : Nat) : Option (Nat × Nat) :=
  (List.range 2).findSome? fun j =>
    if !s.on (F.CLS_JOIN_EN j) then none
    else if s.g (F.CLS_JOIN_LEAD j) = p then some (j, 0)
    else if s.g (F.CLS_JOIN_PARTNER j) = p then some (j, 1)
    else none

/-- DT of a join, signed (R314). -/
def joinDT (e : Regs) (j : Nat) : Int := signed 32 (e.g (F.CLS_JOIN_DT_TICKS j))

/-- A partner's column range in lead columns (R314). -/
def mapCols (e : Regs) (j : Nat) (q : Rec) : Int × Int :=
  let ofs := signed 14 (e.g (F.CLS_JOIN_OFS_OFS j))
  if e.g (F.CLS_JOIN_MIRROR j) = 1 then (ofs - q.colLast, ofs - q.colFirst) else (q.colFirst + ofs, q.colLast + ofs)

/-- Columns two ranges share: none where a gap lies between them. -/
def shared (a b : Int × Int) : Int := max 0 (min a.2 b.2 - max a.1 b.1 + 1)

/-- |tv(L) - tv(Q) - DT| (R314). -/
def tvError (j : Nat) (l q : Rec) : Nat := (l.tv - q.tv - joinDT l.eff j).natAbs

/-- A lead and a partner record are compatible, by the fields of the lead record's frame (R314, R315). -/
def compatible (j : Nat) (l q : Rec) : Bool :=
  decide (tvError j l q ≤ l.eff.g (F.CLS_JOIN_WIN_TICKS j)) &&
  decide ((l.eff.g (F.CLS_JOIN_OVL j) : Int) ≤ shared (l.colFirst, l.colLast) (mapCols l.eff j q))

/-- Two records of the two sides of a join, lead first. -/
def ordered (side : Nat) (x y : Rec) : Rec × Rec := if side = 0 then (x, y) else (y, x)

/-- A decision decided on this tick: it goes to the planner 1,500 ticks later (R316). -/
def State.decideRec (s : State) (j side disp : Nat) (x : Rec) (other : Option Rec) : State :=
  let (l, q) := match other with
    | some y => ((some (ordered side x y).1 : Option Rec), (some (ordered side x y).2 : Option Rec))
    | none => if side = 0 then (some x, none) else (none, some x)
  let d : Decision := ⟨l, q, disp, j, (match l with | some r => r.eff | none => s.eff), s.time⟩
  ({ s with planner := { s.planner with handing := s.planner.handing ++ [d] } } : State).after 1500 .decisionHandoff

/-- The waiting record of the other side that pairs with `x`: the least error, then the earlier issued (R315). -/
def Join.best (u : Join) (j side : Nat) (x : Rec) : Option Rec :=
  ((u.waiting.filter fun w => w.1 != side).foldl (fun (m : Option (Nat × Rec)) w =>
    let (l, q) := ordered side x w.2
    if compatible j l q then
      let e := tvError j l q
      match m with
      | some (b, y) => if e < b then some (e, w.2) else some (b, y)
      | none => some (e, w.2)
    else m) none).map (·.2)

/-- Two records are the same one. -/
def Rec.same (x y : Rec) : Bool := x.pipe == y.pipe && x.start == y.start && x.num == y.num

/-- The other side's coverage has reached the record `x` of side `side` (R315). -/
def State.covered (s : State) (j side : Nat) (x : Rec) : Bool :=
  let c : Int := (nth (s.join j).cover (1 - side) 0 : Nat)
  if side = 0 then decide (x.tv + x.eff.g (F.CLS_JOIN_WIN_TICKS j) + joinDT x.eff j ≤ c)
  else decide (x.tv + s.e (F.CLS_JOIN_WIN_TICKS j) - joinDT s.eff j ≤ c)

/-- Waiting records that the other side's coverage has reached are decided on their own (R315). -/
def State.coverage (s : State) (j : Nat) : State :=
  (s.join j).waiting.foldl (fun s w =>
    if s.covered j w.1 w.2 then
      let s := s.setJoin j { s.join j with waiting := (s.join j).waiting.filter fun v => !v.2.same w.2 }
      (s.bump (C.CLS_CNT_SINGLE j)).decideRec j w.1 1 w.2 none
    else s) s

/-- WAIT for a waiting record: of its frame for a lead record, in effect for a partner record (R315). -/
def State.joinWait (s : State) (j side : Nat) (x : Rec) : Nat :=
  if side = 0 then x.eff.g (F.CLS_JOIN_WAIT_TICKS j) else s.e (F.CLS_JOIN_WAIT_TICKS j)

/-- WIN for a record decided on underrun: of its frame for a lead record, in effect for a partner record (R315). -/
def State.joinWin (s : State) (j : Nat) (w : Nat × Rec) : Nat :=
  if w.1 = 0 then w.2.eff.g (F.CLS_JOIN_WIN_TICKS j) else s.e (F.CLS_JOIN_WIN_TICKS j)

/-- Coverage `c` of the underran side has passed a record decided on underrun (R318). -/
def State.underPassed (s : State) (j c : Nat) (w : Nat × Rec) : Bool := decide (w.2.tv + s.joinWin j w < (c : Int))

/-- A waiting record decided as one whose other side underran; it is kept against stale records until that side's coverage
has passed it (R318). -/
def State.underrun (s : State) (j : Nat) (w : Nat × Rec) (keep : Bool) : State :=
  let u := s.join j
  let side := 1 - w.1
  let policy := if w.1 = 0 then w.2.eff.g (F.CLS_JOIN_POLICY j) else s.e (F.CLS_JOIN_POLICY j)
  let disp := 2 + policy
  let s := s.setJoin j { u with waiting := u.waiting.filter (fun v => !v.2.same w.2),
                                under := if keep && !s.underPassed j (nth u.cover side 0) w then u.under ++ [w] else u.under }
  let s := (s.bump (C.CLS_CNT_UNDERRUN j side)).sticky F.CLS_JOIN_STATUS_UNDERRUN (2 * j + side) 0x8B10
    (2 * j + side) [w.2.num, disp]
  s.decideRec j w.1 disp w.2 none

/-- Whether an issue or a completion of records is still to be made on this tick (R318: what R315 decides on the tick
of the deadline stands). -/
def State.recordsDue (s : State) : Bool :=
  let isRec := fun (i : Instr) => match i with
    | .recordIssue _ => true
    | .recordComplete _ => true
    | _ => false
  s.pending.any isRec || s.agenda.any fun e => decide (e.1 ≤ s.now) && isRec e.2

/-- Waiting records whose deadline has come are decided (R318). -/
def State.joinDeadlines (s : State) (j : Nat) : State :=
  let due := (s.join j).waiting.filter fun w => decide (w.2.issueAt + s.joinWait j w.1 w.2 ≤ s.time)
  if due.isEmpty then s
  else if s.recordsDue then s.after 0 (.joinUnderrun j)
  else due.foldl (fun s w => s.underrun j w true) s

/-- JOIN_UNDERRUN (R318). -/
def execJoinUnderrun (j : Nat) (s : State) : Result := .next (s.joinDeadlines (j % 2))

/-- Whether a record of side `side` is stale: compatible with a record decided on that side's underrun (R318). -/
def Join.staleFor (u : Join) (j side : Nat) (x : Rec) : Bool :=
  u.under.any fun w => w.1 != side && compatible j (ordered side x w.2).1 (ordered side x w.2).2

/-- A planning record enters its join, or is decided on its own; answers whether it is stale (R312, R315, R316,
R318). -/
def State.joinRecord (s : State) (x : Rec) : State × Bool :=
  match s.joinSide x.pipe with
  | none => (s.decideRec 2 0 4 x none, false)
  | some (j, side) =>
    let u := s.join j
    if u.staleFor j side x then (s.bump (C.CLS_CNT_STALE j), true)
    else match u.best j side x with
      | some y =>
        let s := s.setJoin j { u with waiting := u.waiting.filter fun v => !v.2.same y }
        ((s.bump (C.CLS_CNT_JOINED j)).decideRec j side 0 x (some y), false)
      | none =>
        let s := s.setJoin j { u with waiting := u.waiting ++ [(side, x)] }
        let s := s.coverage j
        (s.after (s.joinWait j side x) (.joinUnderrun j), false)

/-- A frame of pipeline `p` is record-complete: coverage moves, and records decided on the underrun of its side and
now passed are forgotten (R315, R318). -/
def State.cover (s : State) (p tm : Nat) : State :=
  match s.joinSide p with
  | none => s
  | some (j, side) =>
    let u := s.join j
    let s := s.setJoin j { u with cover := modNth u.cover side fun _ => tm }
    let s := s.coverage j
    let u := s.join j
    s.setJoin j { u with under := u.under.filter fun w => !(w.1 != side && s.underPassed j tm w) }

/-- The join fields in effect have changed with a landing of the lead pipeline `p`: waiting partner records are
tested against them (R315). -/
def State.joinLanded (s : State) (p : Nat) : State :=
  overIdx (fun j s =>
    if s.on (F.CLS_JOIN_EN j) ∧ s.g (F.CLS_JOIN_LEAD j) = p then
      let s := s.coverage j
      (s.join j).waiting.foldl (fun s w =>
        if w.1 = 1 then s.after (w.2.issueAt + s.joinWait j 1 w.2 - s.time) (.joinUnderrun j) else s) s
    else s) 2 s

/-- Order in which decisions of one tick enter the planner: J0, J1, unjoined pipelines; in a join the lead's first
(R316). -/
def Decision.key (d : Decision) : Nat :=
  if d.join < 2 then 2 * d.join + (if d.lead.isSome then 0 else 1)
  else 4 + (match d.lead with | some r => r.pipe | none => 0)

/-- Insertion in the order of R316. -/
def insertDecision (d : Decision) : List Decision → List Decision
  | [] => [d]
  | e :: l =>
    if e.at_ < d.at_ ∨ (e.at_ = d.at_ ∧ e.key ≤ d.key) then e :: insertDecision d l else d :: e :: l

/-- Whether pipeline `p` runs (R500). -/
def State.pipeRuns (s : State) (p : Nat) : Bool :=
  let x := s.pipe p
  x.capture.isSome || (x.bound && x.landed && !x.disarming) || x.frames.any (·.flight)

/-- Every waiting record of join `j` decided under R318, none kept (R312). -/
def State.flushJoin (s : State) (j : Nat) : State :=
  let s := (s.join j).waiting.foldl (fun s w => s.underrun j w false) s
  s.setJoin j { s.join j with waiting := [], under := [], cover := [0, 0] }

/-- A write names one pipeline in two enabled joins, or as both sides (R312). -/
def State.joinClash (s : State) (j en lead partner : Nat) : Bool :=
  let o := 1 - j
  lead == partner || (en == 1 && s.on (F.CLS_JOIN_EN o) &&
    [lead, partner].any fun p => p == s.g (F.CLS_JOIN_LEAD o) || p == s.g (F.CLS_JOIN_PARTNER o))

/-- `CLS_JOIN[j]` written: ignored where it clashes; EN, LEAD and PARTNER act only while every pipeline concerned is
stopped (R208, R312). -/
def State.joinConfig (s : State) (j data : Nat) : State :=
  let w := BitVec.ofNat 32 data
  let en := bitsOf w 0 0
  let lead := bitsOf w 2 1
  let partner := bitsOf w 4 3
  let old := (s.g (F.CLS_JOIN_EN j), s.g (F.CLS_JOIN_LEAD j), s.g (F.CLS_JOIN_PARTNER j))
  if s.joinClash j en lead partner then s.refuse (F.CLS_JOIN j) 6 else
  let s := s.noteLate (F.CLS_JOIN j)
  let s := ((s.put (F.CLS_JOIN_MIRROR j) (bitsOf w 5 5)).put (F.CLS_JOIN_POLICY j) (bitsOf w 6 6)).put (F.CLS_JOIN_OVL j)
    (bitsOf w 15 8)
  if (en, lead, partner) = old then s
  else if [old.2.1, old.2.2, lead, partner].any s.pipeRuns then s.refuse (F.CLS_JOIN j) 5
  else
    let s := s.flushJoin j
    ((s.put (F.CLS_JOIN_EN j) en).put (F.CLS_JOIN_LEAD j) lead).put (F.CLS_JOIN_PARTNER j) partner

/-- JOIN_CONFIG_WRITE (R312). -/
def execJoinConfigWrite (j data : Nat) (s : State) : Result := .next (s.joinConfig (j % 2) data)

end Sys2Proof.Machine
end

