-- ==== Sys2Proof/Machine/StoreOps.lean ====
section
/-! DEFINITION. Store accesses with their check code (21_store_archive_security.md, R557 to R560). -/

namespace Sys2Proof.Machine

/-- Bytes of the Store (R557). -/
def storeSize : Nat := 0x6000000

/-- Bank of a Store address (Table 21.1). -/
def storeBank (a : Nat) : Nat := a / 0x1800000

/-- Bytes written to the Store: a word written whole or in part carries a fresh check code. -/
def State.storeWrite (s : State) (a : Nat) (bs : List Byte) : State :=
  { s with store := s.store.write a bs
           storeBad := s.storeBad.filter fun w => decide (w + 8 ≤ a) || decide (a + bs.length ≤ w) }

/-- A single-bit error of the word at `a` corrected on a read (R560). -/
def State.storeCorrected (s : State) (a : Nat) : State := s.bump (C.STO_CNT_CORR (storeBank a))

/-- A double-bit error of the word at `a` met by a read (R560). -/
def State.storeUncorrectable (s : State) (a : Nat) : State :=
  let b := storeBank a
  let s := (s.bump (C.STO_CNT_UNCORR b)).putPair F.STO_LAST_UNCORR_LO a
  s.sticky F.STO_FLAGS_UNCORR b 0x9310 b [a % 2 ^ 32, a / 2 ^ 32]

/-- Words with a double-bit error in a range. -/
def State.badIn (s : State) (a n : Nat) : List Nat := s.storeBad.filter fun w => decide (w < a + n) && decide (a < w + 8)

/-- A read of a range meets its double-bit errors; answers whether there was one (R560). -/
def State.storeReadCheck (s : State) (a n : Nat) : Bool × State :=
  let l := s.badIn a n
  (!l.isEmpty, l.foldl (fun s w => s.storeUncorrectable w) s)

/-- Reads of several ranges meet their double-bit errors: each such word once (R560). -/
def State.readsMeet (s : State) (l : List (Nat × Nat)) : State :=
  (s.storeBad.filter fun w => l.any fun x => decide (w < x.1 + x.2) && decide (x.1 < w + 8)).foldl State.storeUncorrectable s

/-- The rollback counter raised to `v`; it never decreases (R573). -/
def State.rollbackTo (s : State) (v : Nat) : State := { s with rollback := max s.rollback v }

/-- `n` free bytes (log entry 2). -/
def State.freeBytes (s : State) (n : Nat) : List Byte × State :=
  let c := s.freeCount
  ((List.range n).map fun i => BitVec.ofNat 8 (Config.freeNat (c + i)), { s with freeCount := c + n })

/-- `n` bytes that the world supplied, free where it supplied none. -/
def State.orFree (s : State) (given : Option (List Byte)) (n : Nat) : List Byte × State :=
  let l := (given.getD []).take n
  if l.length = n then (l, s)
  else
    let (r, s) := s.freeBytes (n - l.length)
    (l ++ r, s)

end Sys2Proof.Machine
end

