-- ==== Sys2Proof/Machine/Frames.lean ====
section
/-! DEFINITION. A frame in its pipeline: taking it at a landing point, its parts, its records, its completion and the
stop of a pipeline (R205, R245 to R258, R291, R304 to R311, R500, R532). -/

namespace Sys2Proof.Machine

/-- A planner field as copy `k` of a register file holds it (R321). -/
def Regs.plan (r : Regs) (k : Nat) (f : Fld) : Nat := r.g ⟨effKey k f.off, f.hi, f.lo⟩

/-- Store address of the calibration area a frame uses (R263, R566). -/
def PipeFrame.calArea (r : PipeFrame) (p : Nat) : Nat :=
  if r.g (F.PIP_CORR_CTRL_CAL_AREA p) = 1 then 0x5300000 else 0x4800000

/-- Temperature, clamp and fallback of a camera frame of pipeline `p` (R253). -/
def State.frameTemp (s : State) (p : Nat) : Int × Bool × Bool :=
  let src := s.e (F.PIP_CORR_CTRL_TEMP_SRC p)
  let t := if src = 0 then signed 16 (s.g (F.THM_ZONE_TEMP 0)) else signed 16 (s.e (F.PIP_DARK_TEMP_TEMP p))
  (clampI (-320) 840 t, decide (t < -320 ∨ 840 < t), src == 0 && s.on (F.THM_ZONE_FALLBACK 0))

/-- Segment and weight for a temperature in a calibration area (R254). -/
def darkWeight (st : StoreBytes) (cal : Nat) (t : Int) : Nat × Int :=
  (if t < signed 16 (peek st (cal + 10) 2) then 0 else 1, signed 16 (peek st (cal + 0x100 + 2 * (t + 320).toNat) 2))

/-- Whether pipeline `p` takes the frame whose landing point is now (R501, R530). -/
def State.takes (s : State) (p : Nat) : Bool :=
  let x := s.pipe p
  (x.bound && !x.disarming) || x.capture.any (0 < ·)

/-- Pipeline `p` takes the frame of source `src` that starts at `f`, with the fields that have landed: nodes and
exposure midpoints are given (R205, R210, R253, R308, R501, R502). -/
def State.takeFrame (s : State) (p src f : Nat) (nodes : Bool × Bool) (tm : Nat × Nat) : State :=
  if !s.takes p then s else
  let x := s.pipe p
  let flight := x.bound && !x.disarming
  let cam := decide (src ≤ 2)
  let (t, cl, fb) := s.frameTemp p
  let en := s.e (F.CLS_CTRL_EN p) == 1
  let r : PipeFrame :=
    { start := f, src := src, flight := flight, seq := 0, eff := s.eff, record := [], temp := t, seg := 0, weight := 0,
      clamped := cl, fallback := fb, zone := signed 16 (s.g (F.THM_ZONE_TEMP 0)), nodeA := nodes.1, nodeB := nodes.2, tmA := tm.1, tmB := tm.2, endA := none,
      endB := none, parts := [], objsA := [], objsB := [], recs := [], overflowAt := [], spilled := false, before := none, completeAt := none,
      complete := !en, kind3 := if en then ⟨0, 0, 0⟩ else ⟨2, 0, 0⟩, stopAt := none, planning := 0 }
  let (seg, w) := darkWeight s.store (r.calArea p) t
  let r := if cam then { r with seg := seg, weight := w } else r
  let s := s.setPipe p { x with frames := x.frames ++ [r], landed := x.landed || flight,
                                capture := if flight then x.capture else x.capture.map (· - 1) }
  let s := if cam then (s.put (F.PIP_CORR_EFF_TEMP p) (unsigned 16 t)).put (F.PIP_CORR_EFF_WEIGHT p) (unsigned 16 w) else s
  let s := if cam && cl then (s.bump (C.PIP_CNT_TEMP_CLAMP p)).setBit F.PIP_CORR_FLAGS_TEMP_CLAMP p else s
  let s := if flight then s.bump (C.USH_FLIGHT_FRAMES p) else s
  if flight && !x.landed && s.pipes.all (fun y => !y.bound || y.landed) then s.after 0 .flightArmed else s

/-- The corrections of a frame part (R240 to R263). -/
def PipeFrame.corr (r : PipeFrame) (p node kind row0 col0 : Nat) (cbin : Bool) : Corr :=
  let en := fun f => r.g f == 1
  { kind := kind, unmix := en (F.PIP_CORR_CTRL_UNMIX_EN p), bal := en (F.PIP_CORR_CTRL_BAL_EN p),
    dark := en (F.PIP_CORR_CTRL_DARK_EN p), flat := en (F.PIP_CORR_CTRL_FLAT_EN p),
    defect := en (F.PIP_CORR_CTRL_DEFECT_EN p), tbl := 0x3100000 + 0x20000 * (2 * p + r.g (F.PIP_CORR_CTRL_TBL_BANK p)),
    cal := r.calArea p, node := node, seg := r.seg, weight := r.weight, row0 := row0, col0 := col0, cbin := cbin }

/-- The digital binning factor of a frame (R185). -/
def PipeFrame.binning (r : PipeFrame) (p : Nat) : Nat := 2 ^ min 2 (r.g (F.PIP_BIN_MODE p))

/-- Blue refinement of a frame (R273). -/
def PipeFrame.blue (r : PipeFrame) (p : Nat) : BlueFit :=
  ⟨signed 16 (r.g (F.PIP_BREF_A_KC p)), signed 16 (r.g (F.PIP_BREF_A_KR p)), signed 16 (r.g (F.PIP_BREF_B_KG p)),
   signed 16 (r.g (F.PIP_BREF_B_KN p)), r.g (F.PIP_BREF_MIX_M p)⟩

/-- Axis gains of a node (R293). -/
def PipeFrame.feat (r : PipeFrame) (p node : Nat) : Feat :=
  ⟨r.g (F.CLS_FEAT_KU p node), r.g (F.CLS_FEAT_KV p node), r.g (F.CLS_FEAT_W_KW p node)⟩

/-- Store address of the classification table of a node (R294, R295). -/
def PipeFrame.classBank (r : PipeFrame) (p node : Nat) : Nat :=
  0x3200000 + 0x40000 * (2 * p + r.g (F.CLS_CTRL_BANK p)) + 131072 * node

/-- The source rows that output row `j` is built from, under binning by `k`; the last of them (R185). -/
def sourceRows (k j : Nat) : List Nat := if k ≤ 1 then [j] else (List.range k).map fun i => 2 * (k * (j / 2) + i) + j % 2
def lastSource (k j : Nat) : Nat := if k ≤ 1 then j else 2 * (k * (j / 2) + k - 1) + j % 2

/-- The output rows that `n` source rows yield. -/
def binnedRows (k n : Nat) : Nat := if k ≤ 1 then n else n / (2 * k) * 2

/-- What a part has already delivered: its stage 3 rows, its planes and its classes. -/
structure Delivered where
  fixed : List (List Px3)
  px : List (List Px)
  classes : List (List Nat)
  deriving DecidableEq, Repr

/-- A list with its first values replaced by those of `l`. -/
def keepFirst {α : Type} (l new : List α) : List α := l ++ new.drop l.length

/-- A frame part from its stage 0 rows, `w` columns wide: planes and classes (R240 to R273, R293), with the coefficients that
Store holds now but for the rows delivered before (R266). `ticks`, `stamps` and `marks` are those of the source rows. -/
def PipeFrame.makePart (r : PipeFrame) (st : StoreBytes) (p node win : Nat) (k : Corr) (raw : List (List Int)) (w : Nat)
    (ticks stamps marks : List Nat) (mismatch : Bool) (old : Delivered) : Part :=
  let b := r.binning p
  let h := raw.length
  let p3 := keepFirst old.fixed (k.run st raw h w).2.2
  let vals := p3.map fun row => row.map fun x => (x.v : Int)
  let binned := digitalBin b vals h w
  let rows := if b ≤ 1 then h else binned.length
  let px := keepFirst old.px (reconstruct (k.kind == 1) (r.blue p) binned rows (w / b) 0 0)
  let bank := r.classBank p node
  let part : Part :=
    { node := node, win := win, corr := k, k := b, raw := raw, width := w, rows := rows,
      ticks := (List.range rows).map fun j => nth ticks (lastSource b j) 0,
      stamps := (List.range rows).map fun j => nth stamps (lastSource b j) 0,
      marks := (List.range rows).map fun j => ((sourceRows b j).map fun i => nth marks i 0).foldl max 0,
      px := px,
      classes := if r.g (F.CLS_CTRL_EN p) = 1 then
          keepFirst old.classes (px.map fun row => row.map fun v =>
            classOf st bank (classIndex (k.kind == 1) (r.feat p node) v))
        else [],
      leave := ticks, fixed := p3, mismatch := mismatch, taps := [] }
  { part with taps := (List.range 3).map fun t => ⟨if r.forms p t part then 0 else 2, 0, 0⟩ }

/-- The part of the black row pairs of a readout: stage 0 values, 6,208 columns (R245, R280). -/
def PipeFrame.blackPart (r : PipeFrame) (p node : Nat) (raw : List (List Int)) (ticks : List Nat) : Part :=
  let part : Part :=
    { node := node, win := 4, corr := r.corr p node 0 0 0 false, k := 1, raw := raw, width := 6208, rows := raw.length,
      ticks := ticks, stamps := ticks, marks := raw.map fun _ => 0, px := [], classes := [], leave := ticks, fixed := [],
      mismatch := false, taps := [] }
  { part with taps := (List.range 3).map fun t => ⟨if r.forms p t part then 0 else 2, 0, 0⟩ }

/-- A camera part with its rows that leave the converters on tick `now` or later corrected and classified with what Store
holds now; rows that have left stand (R266, R296). -/
def PipeFrame.recorrect (r : PipeFrame) (st : StoreBytes) (p now : Nat) (x : Part) : Part :=
  let gone := fun (l : List Nat) => (l.takeWhile fun t => decide (t < now)).length
  let n := gone x.ticks
  let y := r.makePart st p x.node x.win x.corr x.raw x.width x.leave x.leave (x.leave.map fun _ => 0) x.mismatch
    ⟨x.fixed.take (gone x.leave), x.px.take n, x.classes.take n⟩
  { x with px := y.px, classes := y.classes, fixed := y.fixed }

/-- Store ranges that the rows of a part leaving on tick `now` make the pipeline read: its table bank, its calibration area,
its classification table (R248 to R262, R294; Table 21.2A). -/
def PipeFrame.reads (r : PipeFrame) (p now : Nat) (x : Part) : List (Nat × Nat) :=
  let k := x.corr
  let rows := (List.range x.leave.length).filter fun i => nth x.leave i 0 == now
  let cam := decide (k.kind = 0)
  let of := fun (b : Bool) (l : List (Nat × Nat)) => if b && !rows.isEmpty then l else []
  of (k.unmix && k.kind != 1) [(k.tbl, 256)] ++
  of (k.bal && k.kind != 1) [(k.tbl + 256 + 4 * (k.col0 / 64), 4 * ceilDiv x.width 64)] ++
  of (!cam && (k.dark || k.flat || k.defect)) [(k.tbl + 768, 8 * x.width)] ++
  of (cam && k.dark) [(k.cal + 0xB00, 12)] ++ of (cam && k.defect) [(k.cal + 0x3C00, 16388)] ++
  (if cam then rows.flatMap fun i =>
    let a := k.rowAddr i
    of k.dark ([k.seg, k.seg + 1].flatMap fun j =>
      [(k.cal + 0xC00 + 4096 * j + 2048 * k.node + 8 * (a / 2) + 4 * (a % 2), 4),
       (k.cal + 0x7D00 + 0x180000 * j + (6144 * a + k.col0) / 2, ceilDiv x.width 2)]) ++
    of k.flat [(k.cal + 0x487D00 + 2 * (6144 * a + k.col0), 2 * x.width)] else []) ++
  (if x.classes.isEmpty then [] else
    ((List.range x.px.length).filter fun j => nth x.ticks j 0 == now).flatMap fun j =>
      (nth x.px j []).map fun v => (r.classBank p x.node + classIndex (k.kind == 1) (r.feat p x.node) v / 2, 1))

/-- The rows of the parts of node `n` of a frame that leave now meet words with a double-bit error: the pipeline uses them as
read (R560). DESIGN CHOICE: such a word counts once for the rows of one tick, however many pixels use it (log entry 139). -/
def State.rowsMeet (s : State) (p n f : Nat) : State :=
  if s.storeBad.isEmpty then s else
  match (s.pipe p).frames.find? fun r => r.start == f && r.stopAt.all fun e => decide (s.time ≤ e) with
  | some r => s.readsMeet ((r.parts.filter fun x => x.node == n && x.win != 4).flatMap (r.reads p s.time))
  | none => s

/-- The rows of the parts of one node as segmentation takes them. -/
def PipeFrame.segRowsOf (r : PipeFrame) (node : Nat) (final : Bool) : List SegRow :=
  (r.parts.filter fun x => x.node == node && x.win != 4).flatMap fun x =>
    (List.range x.classes.length).map fun j =>
      ⟨nth x.ticks j 0, x.win, j, x.corr.col0 / x.k, final && j + 1 == x.rows, nth x.classes j []⟩

/-- Captured settings differ from the frame's on the fields of the part's node (R256). -/
def PipeFrame.mismatched (r : PipeFrame) (st : StoreBytes) (p node : Nat) : Bool :=
  let c := (List.range 8).map fun i => peek st (r.calArea p + 32 + 32 * (r.src - 1) + 4 * i) 4
  let f := fun (l : List Nat) =>
    let w := fun i => nth l i 0
    [w 0 / 2 ^ (12 + 2 * node) % 4, w 0 / 2 ^ 10 % 2, w (1 + node), w 3 / 2 ^ (8 * node) % 32, w 3 / 2 ^ 16, w (6 + node)]
  r.g (F.PIP_CORR_CTRL_DARK_EN p) == 1 && c.any (· != 0) && f c != f r.record

/-- The gates, gains and lines that the records of a frame use (R304 to R313). -/
def PipeFrame.recEnv (r : PipeFrame) (p : Nat) : RecEnv :=
  { pipe := p, dir := r.g (F.CLS_CTRL_DIR p) == 1,
    gate := ⟨r.g (F.CLS_AB_GATE_DR_MIN p), r.g (F.CLS_AB_GATE_DR_MAX p), r.g (F.CLS_AB_GATE_DR_EXP p),
      r.g (F.CLS_AB_GATE_DC_MAX p)⟩,
    pitch := r.g (F.CLS_PITCH_NM p), grav := r.eff.plan p F.EJP_GRAVITY_MM_S2,
    tally := [r.g (F.CLS_TALLY_C0 p), r.g (F.CLS_TALLY_C1 p), r.g (F.CLS_TALLY_C2 p), r.g (F.CLS_TALLY_C3 p)],
    view := r.g (F.CLS_VIEW_ROW_ROW p), adv := r.g (F.CLS_TRACK_ADV p), trackGate := r.g (F.CLS_TRACK_GATE p) }

/-- A record's issue fixed. -/
def State.scheduleIssues (s : State) (p : Nat) (l : List Rec) : State :=
  l.foldl (fun s x =>
    let t := max s.time x.issueAt
    if s.agenda.any fun e => e.2 == .recordIssue p && e.1 + s.time == s.now + t then s else s.at_ t (.recordIssue p)) s

/-- The records of the frame of pipeline `p` at `f` formed, or formed again where its rows have changed, records issued
standing; their issue and the frame's completion fixed; the frame becomes the run's previous frame (R304, R305, R309). -/
def State.buildRecords (s : State) (p f : Nat) : State :=
  match (s.pipe p).frames.find? fun r => r.start == f with
  | none => s
  | some r =>
    let tm := if r.nodeB then r.tmB else r.tmA
    let before := if r.completeAt.isSome then r.before else (s.pipe p).prev
    let recs := ((r.recEnv p).records r before).map fun y => (r.recs.find? fun x => x.issued && x.num == y.num).getD y
    let s := s.setPipe p { s.pipe p with prev := some (tm, recs) }
    if r.complete then s else
    let fin := (if r.nodeB then r.endB else r.endA).getD 0 + 9000
    let done := if recs.isEmpty then fin else recs.foldl (fun m x => max m x.issueAt) 0
    let s := s.modFrame p f fun r => { r with recs := recs, before := before, completeAt := some done }
    (s.scheduleIssues p (recs.filter (!·.issued))).at_ done (.recordComplete p)

/-- Objects of node `n` of a frame, and the tick of the row pair that opens its overflow object (R297 to R300). -/
def PipeFrame.objects (r : PipeFrame) (p n fin : Nat) : List Obj × Option Nat :=
  segment (r.g (F.CLS_CTRL_RUN_MIN p)) (r.segRowsOf n true) true fin

/-- The parts of a frame whose node `n` has a row pair leave now: that row pair and the rows to come take the coefficients
Store holds now; objects and records follow (R266, R296). -/
def State.recorrect (s : State) (p n f : Nat) : State :=
  match (s.pipe p).frames.find? fun r => r.start == f && r.stopAt.all fun e => decide (s.time ≤ e) with
  | none => s
  | some r =>
    let fresh := fun (x : Part) => if x.node = n ∧ x.win ≠ 4 then r.recorrect s.store p s.time x else x
    let r' := { r with parts := r.parts.map fresh }
    if r'.parts = r.parts then s else
    let fin := (if n = 0 then r.endA else r.endB).getD 0
    let (objs, spill) := r'.objects p n fin
    let old := (r.objects p n fin).2
    let stays := r.overflowAt.filter fun t => some t != old
    let opens := if old.any fun t => decide (t < s.time) then r.overflowAt
      else stays ++ (spill.filter fun t => decide (s.time ≤ t)).toList
    let r' := { r' with overflowAt := opens }
    let r' := if n = 0 then { r' with objsA := objs } else { r' with objsB := objs }
    let s := s.modFrame p f fun _ => r'
    if r.completeAt.isSome && r.stopAt.isNone then s.buildRecords p f else s

/-- One record issued (R305, R306, R310, R311, R317). -/
def State.issueRecord (s : State) (p f : Nat) (pair : Bool) (x : Rec) : State :=
  let s := s.bump (C.CLS_CNT_RECORDS p)
  let s := if pair && !x.matched then s.bump (C.CLS_CNT_NOMATCH p) else s
  let s := if x.orphan then s.bump (C.CLS_CNT_ORPHAN p) else s
  let (s, stale) := if x.plan then (s.bump (C.CLS_CNT_PLANNED p)).joinRecord x else (s, true)
  s.modFrame p f fun r => { r with
    recs := r.recs.map fun y => if y.num = x.num then { y with issued := true, stale := x.plan && stale } else y
    planning := if stale then r.planning else r.planning + 1 }

/-- The part of kind 3 of a stopped frame is written once no record of it remains to be issued (R291, R305). -/
def State.closeStopped (s : State) (p : Nat) : State :=
  (s.pipe p).frames.foldl (fun s r =>
    if r.stopAt.isSome && !r.complete && r.recs.all (·.issued) then
      (s.writeRecords p r.start 2).modFrame p r.start fun r => { r with complete := true }
    else s) s

/-- Every record of pipeline `p` that is due is issued (R305). -/
def State.issueRecords (s : State) (p : Nat) : State :=
  let s := (s.pipe p).frames.foldl (fun s r =>
    (r.recs.filter fun x => !x.issued && decide (x.issueAt ≤ s.time)).foldl
      (fun s x => s.issueRecord p r.start (r.nodeA && r.nodeB) x) s) s
  (s.closeStopped p).settle p

/-- RECORD_ISSUE (R305). -/
def execRecordIssue (p : Nat) (s : State) : Result := .next (s.issueRecords (p % 4))

/-- Every frame of pipeline `p` that is record-complete by now: its kind 3 part is written and coverage moves (R305,
R315). -/
def State.completeRecords (s : State) (p : Nat) : State :=
  let s := s.issueRecords p
  let due := (s.pipe p).frames.filter fun r => !r.complete && r.stopAt.isNone && r.completeAt.any fun t => decide (t ≤ s.time)
  let s := due.foldl (fun s r =>
    ((s.writeRecords p r.start 0).modFrame p r.start fun r => { r with complete := true }).cover p
      (if r.nodeB then r.tmB else r.tmA)) s
  s.settle p

/-- RECORD_COMPLETE (R305). -/
def execRecordComplete (p : Nat) (s : State) : Result := .next (s.completeRecords (p % 4))

/-- A readout's overflow object is counted and flagged on the tick that opens it (R300). -/
def State.overflowDue (s : State) (p : Nat) : State :=
  (s.pipe p).frames.foldl (fun s r =>
    (r.overflowAt.filter fun t => decide (t ≤ s.time)).foldl (fun s t =>
      let s := s.modFrame p r.start fun r => { r with overflowAt := r.overflowAt.filter (· != t) }
      let s := s.bump (C.CLS_CNT_OVERFLOW p)
      s.sticky F.CLS_FLAGS_OVERFLOW p 0x0B10 p [s.ctr (C.CLS_CNT_OVERFLOW p)]) s) s

/-- A part corrected under settings that differ from the captured ones: counted and flagged (R256). -/
def State.countMismatch (s : State) (p : Nat) : State :=
  let s := s.bump (C.PIP_CNT_DARK_MISMATCH p)
  s.sticky F.PIP_CORR_FLAGS_DARK_MISMATCH p 0x0A10 p [s.ctr (C.PIP_CNT_DARK_MISMATCH p)]

/-- What stage 3 counts and flags on rows of a part (R258). -/
def State.countRows (s : State) (p : Nat) (rows : List (List Px3)) : State :=
  let n := (rows.map fun l => l.countP (·.unres)).foldl (· + ·) 0
  let s := if 0 < n then
      let s := s.bumpBy (C.PIP_CNT_UNRESOLVED p) n
      s.sticky F.PIP_CORR_FLAGS_UNRESOLVED p 0x0A11 p [s.ctr (C.PIP_CNT_UNRESOLVED p)]
    else s
  s.bumpBy (C.PIP_CNT_SAT_HI p) ((rows.map fun l => l.countP (·.sat)).foldl (· + ·) 0)

/-- The rows of a part that leave the converters now are counted; with its first rows its mismatch is (R256, R258). -/
def State.countPart (s : State) (p : Nat) (x : Part) : State :=
  let rows := (x.leave.zip x.fixed).filter fun l => l.1 == s.time
  let s := if x.mismatch ∧ x.leave.head? = some s.time then s.countMismatch p else s
  s.countRows p (rows.map (·.2))

/-- The parts of node `n` of a frame counted for the rows that leave now, unless a stop has cut them off (R256, R258, R532). -/
def State.countNode (s : State) (p n f : Nat) : State :=
  match (s.pipe p).frames.find? fun r => r.start == f && r.stopAt.all fun e => decide (s.time ≤ e) with
  | some r => (r.parts.filter fun x => x.node == n && x.win != 4).foldl (fun s x => s.countPart p x) s
  | none => s

/-- Parts still open of the frames of pipeline `p` that a stop has ended receive their trailers (R291). -/
def State.endStopped (s : State) (p : Nat) : State :=
  let ended := (s.pipe p).frames.filter fun r => r.stopAt.any fun t => decide (t ≤ s.time)
  let s := ended.foldl (fun s r => r.parts.foldl (fun s x => overIdx (fun t s =>
    let w := nth x.taps t ⟨2, 0, 0⟩
    if w.state = 2 then s else
      let s := if w.state = 1 then s.closePart p t w.seq 2 else s
      s.modTapPart p r.start x.node x.win t fun w => { w with state := 2 }) 3 s) s) s
  (s.closeStopped p).settle p

/-- The tick on which the row pair of a frame that is being converted now is complete; now where none is (R188,
R532). -/
def State.pairEnd (s : State) (r : PipeFrame) : Nat :=
  let run := (nth s.cams (r.src - 1) Camera.idle).frames.flatMap fun f => if f.start = r.start then f.readouts else []
  (run.filter fun o => o.begun && decide (s.time < o.start + o.pairs.length * o.slotTicks)).foldl
    (fun m o => max m (o.start + ((s.time - o.start) / o.slotTicks + 1) * o.slotTicks)) s.time

/-- A frame cut at tick `e`: of its records those issued and those whose object has closed stay (R305). -/
def PipeFrame.cut (r : PipeFrame) (e : Nat) : PipeFrame :=
  if r.stopAt.isSome then r else
  let waitsA := r.nodeA && r.nodeB && !(r.endA.any fun t => decide (t ≤ e))
  let closed := fun (y : Rec) =>
    (if r.nodeB then r.objsB else r.objsA).any fun o => o.num == y.num && decide (o.close ≤ e)
  { r with stopAt := some e, overflowAt := r.overflowAt.filter fun t => decide (t ≤ e)
           recs := r.recs.filter fun y => y.issued || (!waitsA && closed y) }

/-- Pipeline `p` stops: frames not started leave it, the row pair in progress finishes, objects still open give no
record, open parts end with STATUS 2 (R291, R305, R309, R532). A companion frame whose lines are still coming
is cut when its port has released the line in progress (R235). -/
def State.stopPipe (s : State) (p : Nat) : State :=
  let x := s.pipe p
  let frames := (x.frames.filter fun r => decide (r.start ≤ s.time)).map fun r =>
    if r.companion && r.endA.isNone then r else r.cut (s.pairEnd r)
  let s := s.setPipe p { x with frames := frames, bound := false, landed := false, disarming := false, capture := none,
                                prev := none }
  s.endStopped p

end Sys2Proof.Machine
end

