-- ==== Sys2Proof/Machine/Clocks.lean ====
section
/-! DEFINITION. The 60 clock domains of the head (02_newel_timebase.md, R47, R57, Table 2.4), the three outputs with a
software divisor across a commit (R53 to R56), and the pins XCLK0 and XCLK1 (08_companion_ports.md, R213, R215, R216). -/

namespace Sys2Proof.Machine

/-- How a domain gets its rising edges (R57): on every multiple of a fixed divisor, from the latest change of divisor of
programmable output `k` (0 XCLK0, 1 XCLK1, 2 monitor clock), or from the start tick of PIO engine `e`. -/
inductive Edges where
  | fixed (d : Nat)
  | commit (k : Nat)
  | start (e : Nat)
  deriving DecidableEq, Repr

/-- Domains with a fixed divisor (Table 2.4): first and last number, divisor. -/
def fixedDomains : List (Nat × Nat × Nat) :=
  [(0, 3, 1), (4, 12, 2), (13, 13, 1), (14, 14, 4), (15, 16, 2), (33, 41, 4), (42, 42, 12), (43, 43, 6), (44, 44, 24),
   (45, 45, 240), (46, 46, 2), (49, 49, 2), (50, 50, 1), (51, 51, 1500), (53, 53, 12), (54, 54, 15000), (55, 55, 1500),
   (56, 56, 150), (57, 57, 375), (58, 58, 8), (59, 59, 150)]

/-- Domain CDn of the head, for n from 0 to 59 (Table 2.4). -/
def domain (n : Nat) : Option Edges :=
  if n = 47 then some (.commit 0)
  else if n = 48 then some (.commit 1)
  else if n = 52 then some (.commit 2)
  else if 17 ≤ n ∧ n ≤ 32 then some (.start (n - 17))
  else (fixedDomains.find? fun x => decide (x.1 ≤ n) && decide (n ≤ x.2.1)).map fun x => .fixed x.2.2

/-! ### Outputs with a software divisor -/

/-- Divisor of programmable output `k` in effect, and the epoch of its latest change (R56, R215). -/
def State.outDiv (s : State) (k : Nat) : Nat :=
  s.g (if k = 0 then F.NWL_DIV_ACTIVE_XCLK0 else if k = 1 then F.NWL_DIV_ACTIVE_XCLK1 else F.NWL_DIV_ACTIVE_MON)
def State.outEpoch (s : State) (k : Nat) : Nat :=
  if k = 0 then s.newel.changeX0 else if k = 1 then s.newel.changeX1 else s.newel.changeMon

/-- Shadow of the divisor of output `k` as it stood at the start of tick `t` (R53, R55). -/
def State.outShadow (s : State) (k t : Nat) : Nat :=
  let f := if k = 0 then F.NWL_DIV_XCLK_N 0 else if k = 1 then F.NWL_DIV_XCLK_N 1 else F.NWL_DIV_MON_N
  bitsOf (s.regOn (t - 1) f.off) f.hi f.lo

/-- Least distance of a commit epoch from its accepting tick, and the spacing of epochs (R54). -/
def commitLead : Nat := 256
def commitGrid : Nat := 65536

/-- The epoch that a commit accepted on tick `t` has, not before now (R54, R620). -/
def State.epochOf (s : State) (t : Nat) : Nat := nextEdge commitGrid (max (t + commitLead) s.time)

/-- A rising edge on tick `t` of an output of divisor `n` that changes to `m` at epoch `e` is still made: its high half
and a low half of the shorter of the two lengths end by `e`; else the output is already held low (R56; log entry 118). -/
def edgeKept (n m t e : Nat) : Bool := decide (t + n / 2 + min (n - n / 2) (m - m / 2) ≤ e)

/-- Output `k` has a rising edge on tick `t`: `t` lies on the grid of the divisor in effect, and a commit pending does not
hold the output low there (R56, R57, R620). -/
def State.outEdge (s : State) (k t : Nat) : Bool :=
  let n := s.outDiv k
  let m := s.outShadow k t
  decide (s.outEpoch k ≤ t) && decide ((t - s.outEpoch k) % n = 0) && decide (0 < n) &&
    (match s.newel.commitAt with
     | none => true
     | some w => m == n || decide (s.epochOf w ≤ t) || edgeKept n m t (s.epochOf w))

/-- Domain CDn has a rising edge on this tick; none while the loop is unlocked (R47, R57). -/
def State.rises (s : State) (n : Nat) : Bool :=
  s.ticking && (match domain n with
    | none => false
    | some (.fixed d) => onEdge d s.time
    | some (.commit k) => s.outEdge k s.time
    | some (.start e) =>
      let x := nth s.pio.engines e Engine.idle
      let d := s.g (F.PIO_CLKDIV_D e)
      x.running && (if x.starting then x.nextAt == s.time
        else decide (s.time ≤ x.nextAt) && (x.nextAt - s.time) % (2 * (if d = 0 then 65536 else d)) == 0))

/-! ### XCLK0 and XCLK1 -/

/-- The first rising edge of XCLKx after EN was written 1 on tick `w`: on the grid and at least 2 ticks later (R216). -/
def State.xclkFirst (s : State) (x w : Nat) : Nat := gridEdge (s.outEpoch x) (s.outDiv x) (w + 2)

/-- The latest tick of the grid of XCLKx at or before this tick. -/
def State.xclkLatest (s : State) (x : Nat) : Nat :=
  s.outEpoch x + (s.time - s.outEpoch x) / s.outDiv x * s.outDiv x

/-- The level of pin XCLKx on this tick: low until EN is 1, then high for floor(N/2) ticks from every rising edge; a high
half in progress when EN is written 0 is finished; held low while no tick runs (R47, R56, R215, R216, Table 4.2). -/
def State.xclkLevel (s : State) (x : Nat) : Bool :=
  let y := nth s.ports x XPort.idle
  let e := s.xclkLatest x
  s.ticking &&
    (decide (s.time < y.highUntil) ||
      (s.on (F.XPT_CTRL_EN x) && decide (s.xclkFirst x y.clockFrom ≤ e) && s.outEdge x e &&
        decide (s.time < e + s.outDiv x / 2)))

end Sys2Proof.Machine
end

