-- ==== Sys2Proof/Machine/Strobe.lean ====
section
/-! DEFINITION. Strobes and setpoints (15_illumination_and_monitors.md, R408 to R418). -/

namespace Sys2Proof.Machine

/-- Strobe `k`. -/
def State.strobe (s : State) (k : Nat) : Strobe := nth s.strobes k Strobe.idle

/-- Strobe `k` replaced. -/
def State.setStrobe (s : State) (k : Nat) (x : Strobe) : State := { s with strobes := modNth s.strobes k fun _ => x }

/-- What is over by tick `t` settled: changes of the delayed flags that have come, windows that have closed. -/
def Strobe.settle (x : Strobe) (t : Nat) : Strobe :=
  { x with flags := (x.flagQueue.filter fun q => decide (q.1 ≤ t)).foldl (fun m q => maskBit m q.2.1 q.2.2) x.flags
           flagQueue := x.flagQueue.filter fun q => decide (t < q.1)
           windows := x.windows.filter fun w => decide (t < w.2) }

/-- The source window of a settled strobe (R408, R410): some fixed window covers tick `t`, or the delayed flag `f` is 1. -/
def Strobe.openAt (x : Strobe) (src f t : Nat) : Bool :=
  if src = 2 then bitN x.flags f else x.windows.any fun w => decide (w.1 ≤ t) && decide (t < w.2)

/-- EN of pin `k` before the writes of this tick: a window that opens on the tick W of a write is judged by it, since a write
of 1 shows what opens after W and a write of 0 lets nothing open after W (R412). -/
def State.strobeWas (s : State) (k : Nat) : Bool := bitN (s.before (F.ILM_STROBE_CTRL k)).toNat 0

/-- The level the pin is driven at (R408, R412). -/
def State.strobeLevel (s : State) (k : Nat) : Bool :=
  let x := s.strobe k
  x.released && (x.shown != s.on (F.ILM_STROBE_CTRL_POL k))

/-- A window [a, b) of pin `k` fixed at setup tick `t` of its frame, opening no earlier than that tick (R409). -/
def State.addWindow (s : State) (t k a b : Nat) : State :=
  if b ≤ a then s else
  let x := s.strobe k
  let s := s.setStrobe k { x with windows := x.windows ++ [(max a t, b)] }
  let s := if a < t then (s.bump (C.ILM_CNT_LEAD_CLIP k)).setBit F.ILM_FLAGS_LEAD_CLIP k else s
  (s.at_ (max a t) (.strobeWindowOpen k)).at_ b (.strobeWindowClose k)

/-- Windows of pin `k` for the frame of camera `c` that starts at `f` with exposures `xs` (SRC 0 in trigger mode 3,
SRC 1 in every mode; R168, R408, R409). -/
def State.frameWindows (s : State) (t c f : Nat) (xs : List Exposure) (k : Nat) : State :=
  let src := s.g (F.ILM_STROBE_CTRL_SRC k)
  if src = 0 ∧ s.g (F.ARR_CAM_CTRL_MODE c) = 3 then
    let lead := s.eFor c (F.ILM_STROBE_TIME_LEAD k)
    let lag := s.eFor c (F.ILM_STROBE_TIME_LAG k)
    xs.foldl (fun s x =>
      let pin := if x.node = 0 then s.g (F.ARR_STROBE_MAP_A_PIN c) else s.g (F.ARR_STROBE_MAP_B_PIN c)
      if pin = k then s.addWindow t k (x.start - lead) (x.stop + lag) else s) s
  else if src = 1 ∧ s.g (F.ILM_STROBE_CTRL_CAM k) = c then
    let a := f + s.eFor c (F.ILM_STROBE_POFS_TICKS k)
    s.addWindow t k a (a + s.eFor c (F.ILM_STROBE_PLEN_TICKS k))
  else s

/-- Windows of all four pins for one frame. -/
def State.formWindows (s : State) (t c f : Nat) (xs : List Exposure) : State :=
  overIdx (fun k s => s.frameWindows t c f xs k) 4 s

/-- The forced closing tick of pin `k` armed: the tick after its window has been open for `ILM_STROBE_MAXHIGH` ticks; where
a write makes a window as old as that, the next tick (R411). -/
def State.armMaxHigh (s : State) (k : Nat) : State :=
  match (s.strobe k).openSince, s.g (F.ILM_STROBE_MAXHIGH_TICKS k) with
  | some o, n + 1 => s.at_ (max (o + n + 1) (s.time + 1)) (.strobeMaxhigh k)
  | _, _ => s

/-- The pin's source window follows its windows on this tick: it opens, shown where EN is 1, or closes (R408, R412). -/
def State.followStrobe (s : State) (k : Nat) : State :=
  let t := s.time
  let x := (s.strobe k).settle t
  if x.openAt (s.g (F.ILM_STROBE_CTRL_SRC k)) (s.g (F.ILM_STROBE_CTRL_FLAG k)) t then
    match x.openSince with
    | some _ => s.setStrobe k x
    | none => (s.setStrobe k { x with openSince := some t, shown := s.strobeWas k }).armMaxHigh k
  else s.setStrobe k { x with openSince := none, shown := false }

/-- A change of shared flag `f` reaches the pins with SRC 2 four ticks later (Table 15.1). -/
def State.strobeFlag (s : State) (f : Nat) (level : Bool) : State :=
  overIdx (fun k s =>
    let x := (s.strobe k).settle s.time
    let s := s.setStrobe k { x with flagQueue := x.flagQueue ++ [(s.time + 4, f, level)] }
    if s.g (F.ILM_STROBE_CTRL_SRC k) = 2 ∧ s.g (F.ILM_STROBE_CTRL_FLAG k) = f then
      s.after 4 (if level then .strobeWindowOpen k else .strobeWindowClose k)
    else s) 4 s

/-- A write of EN of pin `k` (R412): 1 releases the pin and shows what opens afterwards; 0 lets a shown window run. -/
def State.strobeEn (s : State) (k : Nat) (en : Bool) : State :=
  let s := (s.noteLate (F.ILM_STROBE_CTRL k)).put (F.ILM_STROBE_CTRL_EN k) (if en then 1 else 0)
  if en then let x := s.strobe k; s.setStrobe k { x with released := true } else s

/-- STROBE_ENABLE (R412). -/
def execStrobeEnable (k : Nat) (en : Bool) (s : State) : Result :=
  .next (if s.unitsAnswer then s.strobeEn (k % 4) en else s)

/-- STROBE_WINDOW_OPEN (R408, R410, R412). -/
def execStrobeWindowOpen (k : Nat) (s : State) : Result := .next (s.followStrobe (k % 4))

/-- The pin closes when no window covers the tick (R408, R410). -/
def State.closeStrobe (s : State) (k : Nat) : State := s.followStrobe k

/-- STROBE_WINDOW_CLOSE (R408, R410). -/
def execStrobeWindowClose (k : Nat) (s : State) : Result := .next (s.closeStrobe (k % 4))

/-- A window shown for `ILM_STROBE_MAXHIGH` ticks is forced closed and stays closed until every source window has
closed (R411). -/
def State.forceStrobe (s : State) (k : Nat) : State :=
  let x := s.strobe k
  let n := s.g (F.ILM_STROBE_MAXHIGH_TICKS k)
  match x.openSince with
  | some o =>
    if x.shown ∧ n ≠ 0 ∧ o + n ≤ s.time then
      let s := (s.setStrobe k { x with shown := false }).bump (C.ILM_CNT_MAXHIGH k)
      s.sticky F.ILM_FLAGS_MAXHIGH k 0x1010 k [s.ctr (C.ILM_CNT_MAXHIGH k)]
    else s
  | none => s

/-- STROBE_MAXHIGH (R411). -/
def execStrobeMaxhigh (k : Nat) (s : State) : Result := .next (s.forceStrobe (k % 4))

/-- Setpoint output `j`. -/
def State.iset (s : State) (j : Nat) : Iset := nth s.isets j Iset.idle

/-- Setpoint output `j` replaced. -/
def State.setIset (s : State) (j : Nat) (x : Iset) : State := { s with isets := modNth s.isets j fun _ => x }

/-- The three limits of output `j` as codes: strap, software, throttle (R83, R415). -/
def State.isetLimits (s : State) (j : Nat) : Nat × Nat × Nat :=
  (4095 * s.g F.STP_CEIL_A_ILM_PCT / 100, s.g (F.ILM_SETPOINT_CEIL_CODE j), 4095 * s.g F.THM_LIMITS_ILM_PCT / 100)

/-- The limit in effect and the LIMITER code of the narrowest, the first listed on a tie (R84, R415). -/
def State.isetLimit (s : State) (j : Nat) : Nat × Nat :=
  let (a, b, c) := s.isetLimits j
  let m := min a (min b c)
  (m, if a = m then 1 else if b = m then 2 else 3)

/-- Output `j` driven at its code in effect, with `ILM_ISET_EFF` to match; a code accepted on this very tick waits for the
next edge (R414, R415). -/
def State.driveIset (s : State) (j : Nat) : State :=
  let (m, lim) := s.isetLimit j
  let want := bitsOf (s.before (F.ILM_ISET_CODE j)) 11 0
  let code := min want m
  ((s.setIset j { s.iset j with code := code }).put (F.ILM_ISET_EFF_CODE j) code).put (F.ILM_ISET_EFF_LIMITER j)
    (if want ≤ m then 0 else lim)

/-- An update of output `j` fixed for the next CD51 edge (R414). -/
def State.isetSoon (s : State) (j : Nat) : State := s.at_ (edgeAfter 1500 s.time) (.isetUpdate j)

/-- The range that `ILM_ISET_CTRL` and `ILM_RANGE_PERMIT` give output `j`: true for 0 to 10 V (R416). -/
def State.isetRange (s : State) (j : Nat) : Bool := s.on (F.ILM_ISET_CTRL_RANGE j) && bitN (s.g F.ILM_RANGE_PERMIT_MASK) j

/-- After a cause, a change of the range in effect of output `j` fixed for the next CD51 edge (R416, R417). -/
def State.isetRangeSoon (s : State) (j : Nat) : State :=
  let x := s.iset j
  let r := s.isetRange j
  if r = x.target then s else
    let t := edgeAfter 1500 s.time
    (s.setIset j { x with target := r, changeAt := some t }).at_ t (.rangeChange j)

/-- A write of `ILM_ISET_CODE[j]`: stored, landing at the next CD51 edge (R414). -/
def State.writeIset (s : State) (j code : Nat) : State :=
  let s := (s.noteLate (F.ILM_ISET_CODE j)).put (F.ILM_ISET_CODE_CODE j) code
  (s.setIset j { s.iset j with written := true }).isetSoon j

/-- ISET_CODE (R414). -/
def execIsetCode (j code : Nat) (s : State) : Result := .next (if s.unitsAnswer then s.writeIset (j % 4) code else s)

/-- Output `j` at a CD51 edge: outside the dead time it drives its code in effect, not while an entry to Hush or deeper holds
it at 0 V (R414, R417, R418, R428). -/
def State.isetEdge (s : State) (j : Nat) : State :=
  let x := s.iset j
  if x.written && x.deadUntil.isNone && !x.off && onEdge 1500 s.time then s.driveIset j else s

/-- ISET_UPDATE (R414). -/
def execIsetUpdate (j : Nat) (s : State) : Result := .next (s.isetEdge (j % 4))

/-- The dead time of output `j` begins at its CD51 edge: driven to 0 V for 30,000 ticks (R417); an output held at 0 V by an
entry to Hush or deeper changes its range with none (R428). -/
def State.rangeEdge (s : State) (j : Nat) : State :=
  let x := s.iset j
  match x.changeAt with
  | some t =>
    if s.time < t then s
    else if x.off then
      (s.setIset j { x with changeAt := none, wide := x.target, written := true }).put (F.ILM_ISET_EFF_RANGE j)
        (if x.target then 1 else 0)
    else
      let s := s.setIset j { x with changeAt := none, deadUntil := some (s.time + 30000), code := 0, written := true }
      let s := ((s.put (F.ILM_ISET_EFF_DEAD j) 1).put (F.ILM_ISET_EFF_CODE j) 0).put (F.ILM_ISET_EFF_RANGE j)
        (if x.target then 1 else 0)
      s.after 30000 (.deadTimeEnd j)
  | none => s

/-- RANGE_CHANGE (R417). -/
def execRangeChange (j : Nat) (s : State) : Result := .next (s.rangeEdge (j % 4))

/-- The dead time of output `j` ends: the output switches to the range in effect and drives the code in effect at
that tick (R417). -/
def State.deadEnd (s : State) (j : Nat) : State :=
  let x := s.iset j
  match x.deadUntil with
  | some t =>
    if t ≤ s.time then
      let s := s.setIset j { x with deadUntil := none, wide := x.target }
      ((s.put (F.ILM_ISET_EFF_DEAD j) 0).put (F.ILM_ISET_EFF_RANGE j) (if x.target then 1 else 0)).driveIset j
    else s
  | none => s

/-- DEAD_TIME_END (R417). -/
def execDeadTimeEnd (j : Nat) (s : State) : Result := .next (s.deadEnd (j % 4))

end Sys2Proof.Machine
end

