-- ==== Sys2Proof/Machine/Array.lean ====
section
/-! DEFINITION. The array, its frame starts and exposures, the placing of readouts, the servos and the landing at a
setup tick (06_array_and_exposure.md, 07_readout_and_landing.md). -/

namespace Sys2Proof.Machine

/-- Camera `c`. -/
def State.cam (s : State) (c : Nat) : Camera := nth s.cams c Camera.idle

/-- Camera `c` replaced. -/
def State.setCam (s : State) (c : Nat) (x : Camera) : State := { s with cams := modNth s.cams c fun _ => x }

/-- A reader of fields: the written values as they stood on a tick, or those in effect. -/
abbrev Reader := Fld → Nat

/-- Written values as they stood on tick `t` (R203, R621). -/
def State.written (s : State) (t : Nat) : Reader := fun f => bitsOf (s.regOn t f.off) f.hi f.lo

/-- Sub-exposures of one node relative to F: first start, count, pitch, length (R156). -/
structure NodeSched where
  en : Bool
  off : Nat
  count : Nat
  pitch : Nat
  len : Nat
  deriving DecidableEq, Repr

/-- The settings of a camera that R158 and R183 judge together. -/
structure Sched where
  a : NodeSched
  b : NodeSched
  mode : Nat
  abDelay : Nat
  period : Nat
  trigDelay : Nat
  wins : List Window
  bits10 : Bool
  cbin : Bool
  black : Bool
  gains : Nat × Nat
  /-- Digital binning of the bound pipeline: 1, 2 or 4. -/
  bin : Nat
  deriving DecidableEq, Repr

/-- Whether active row pair `p` belongs to camera `c` (R171). -/
def State.owns (s : State) (c p : Nat) : Bool :=
  let within := fun c => decide (s.g (F.ARR_CAM_BAND_FIRST_PAIR c) ≤ p) && decide (p ≤ s.g (F.ARR_CAM_BAND_LAST_PAIR c))
  within c && !(c == 1 && within 0)

/-- The pipelines bound to source `src` (1 W0, 2 W1, 3 X0, 4 X1; R237). -/
def State.boundTo (s : State) (src : Nat) : List Nat := (List.range 4).filter fun p => s.g (F.PIP_SRC_SRC p) == src

/-- The windows a reader gives camera `c`. -/
def windowsOf (rd : Reader) (c : Nat) : List Window :=
  (List.range 4).filterMap fun w =>
    if rd (F.CNV_WIN_EN c w) = 1 then
      some ⟨w, rd (F.CNV_WIN_COL_FIRST c w), rd (F.CNV_WIN_COL_LAST c w), rd (F.CNV_WIN_PAIR_FIRST c w),
        rd (F.CNV_WIN_PAIR_LAST c w)⟩
    else none

/-- The schedule, windows and mode a reader gives camera `c`, with the LEN of each node. In trigger mode 3 node B
follows node A (R157). -/
def State.sched (s : State) (rd : Reader) (c : Nat) (lenA lenB : Nat) : Sched :=
  let mode := s.g (F.ARR_CAM_CTRL_MODE c)
  let ab := rd (F.ARR_AB_DELAY_TICKS c)
  let offA := rd (F.ARR_EXP_OFFSET_TICKS c 0)
  let cntA := rd (F.ARR_EXP_SUB_COUNT c 0)
  let pitA := rd (F.ARR_EXP_PITCH_TICKS c 0)
  let b := if mode = 3 then ⟨rd (F.ARR_CAM_CTRL_B_EN c) == 1, offA + ab, cntA, pitA, lenB⟩
    else ⟨rd (F.ARR_CAM_CTRL_B_EN c) == 1, rd (F.ARR_EXP_OFFSET_TICKS c 1), rd (F.ARR_EXP_SUB_COUNT c 1),
      rd (F.ARR_EXP_PITCH_TICKS c 1), lenB⟩
  let bin := match s.boundTo (c + 1) with
    | p :: _ => 2 ^ rd (F.PIP_BIN_MODE p)
    | [] => 1
  { a := ⟨rd (F.ARR_CAM_CTRL_A_EN c) == 1, offA, cntA, pitA, lenA⟩, b := b, mode := mode, abDelay := ab,
    period := rd (F.ARR_PERIOD_TICKS c), trigDelay := rd (F.ARR_TRIG_DELAY_TICKS c), wins := windowsOf rd c,
    bits10 := rd (F.CNV_MODE_BITS c) == 1, cbin := rd (F.CNV_MODE_CBIN c) == 1,
    black := rd (F.CNV_MODE_BLACK_ROWS c) == 1,
    gains := (rd (F.CNV_MODE_GAIN_A c), rd (F.CNV_MODE_GAIN_B c)), bin := bin }

/-- The sub-exposures of a node as [start, stop) for a frame start at `f` (R156). -/
def NodeSched.subs (n : NodeSched) (f : Nat) : List (Nat × Nat) :=
  if n.en then (List.range n.count).map fun i => (f + n.off + i * n.pitch, f + n.off + i * n.pitch + n.len) else []

/-- Two sub-exposures at least 750 ticks apart, end to start (R153). -/
def apart (x y : Nat × Nat) : Bool := decide (x.2 + 750 ≤ y.1) || decide (y.2 + 750 ≤ x.1)

/-- Every sub-exposure of one list apart from every one of the other. -/
def allApart (xs ys : List (Nat × Nat)) : Bool := xs.all fun x => ys.all fun y => apart x y

/-- The schedule is consistent (R158). -/
def Sched.scheduleOk (q : Sched) : Bool :=
  let nodes := [q.a, q.b].filter (·.en)
  nodes.all (fun n => decide (n.count * n.len ≤ 1500000000)) &&
  (!(q.a.en && decide (1 < q.a.count)) || decide (q.a.len + 750 ≤ q.a.pitch)) &&
  (q.mode == 3 || !(q.b.en && decide (1 < q.b.count)) || decide (q.b.len + 750 ≤ q.b.pitch)) &&
  (!(q.mode == 3 && q.a.en && q.b.en) ||
    (decide (q.a.len + 750 ≤ q.abDelay) &&
      (decide (q.a.count ≤ 1) || decide (q.abDelay + q.b.len + 750 ≤ q.a.pitch)))) &&
  (q.mode == 3 || !(q.a.en && q.b.en) || allApart (q.a.subs 0) (q.b.subs 0)) &&
  (q.a.en || q.b.en)

/-- Two windows share a pixel. -/
def Window.meets (x y : Window) : Bool :=
  decide (x.colFirst ≤ y.colLast) && decide (y.colFirst ≤ x.colLast) &&
  decide (x.pairFirst ≤ y.pairLast) && decide (y.pairFirst ≤ x.pairLast)

/-- No two of the windows share a pixel. -/
def disjointWindows : List Window → Bool
  | [] => true
  | x :: l => l.all (fun y => !x.meets y) && disjointWindows l

/-- The window and mode fields are consistent (R183). -/
def State.windowsOk (s : State) (c : Nat) (q : Sched) : Bool :=
  !q.wins.isEmpty &&
  q.wins.all (fun w => decide (w.colFirst ≤ w.colLast) && decide (w.colLast ≤ 95) && decide (w.pairFirst ≤ w.pairLast) &&
    (List.range 256).all fun p => !(decide (w.pairFirst ≤ p) && decide (p ≤ w.pairLast)) || s.owns c p) &&
  disjointWindows q.wins &&
  (!q.cbin || q.wins.all fun w => w.pairFirst % 2 == 0 && w.pairLast % 2 == 1) &&
  (q.bin == 1 || q.wins.all fun w =>
    (64 * (w.colLast + 1 - w.colFirst)) % (4 * q.bin) == 0 &&
    ((w.pairLast + 1 - w.pairFirst) / (if q.cbin then 2 else 1)) % q.bin == 0)

/-- Row pairs a readout of camera `c` converts, in order (R182, R184): black pairs as 256 to 259. -/
def State.pairsOf (s : State) (c : Nat) (q : Sched) : List Nat :=
  let black := if q.black && s.g F.ARR_BLACK_OWNER == c then (if q.cbin then [256, 258] else [256, 257, 258, 259]) else []
  let act := (List.range 256).filter fun p =>
    s.owns c p && q.wins.any (fun w => decide (w.pairFirst ≤ p) && decide (p ≤ w.pairLast)) && (!q.cbin || p % 2 == 0)
  black ++ act

/-- The slot time of Table 7.1. -/
def Sched.slot0 (q : Sched) : Nat :=
  if q.bits10 then (if q.cbin then 3840 else 2400) else if q.cbin then 10160 else 6000

/-- The slot time under a budget of `p` percent (R191). -/
def slotTime (t0 p : Nat) : Nat := 4 * ceilDiv (t0 * 100) (4 * p)

/-- The latest readout of node `n` that ended at least 1,500 ticks before `t` and that the loop has not used (R197). -/
def Camera.meter (x : Camera) (n t : Nat) (used : Meter → Bool) : Option Meter :=
  (x.meters.filter fun m => m.node == n && decide (m.ended + 1500 ≤ t) && !used m).getLast?

/-- A loop output with its clamp: the value held in the bounds, and whether a bound clamped it (R198, R199, R201). -/
def bounded (lo hi v : Int) : Int × Bool := (clampI lo hi v, decide (clampI lo hi v ≠ v))

/-- One dark offset of node `n` and bank `b` that the reader's settings give at a setup tick on `t` (R195 to R198). -/
def State.darkNext (s : State) (rd : Reader) (c n b t : Nat) : Int × Bool :=
  let sw := signed 12 (if b = 0 then rd (F.CNV_DARK_OFS_TOP c n) else rd (F.CNV_DARK_OFS_BOT c n))
  let eff := signed 12 (if b = 0 then s.g (F.CNV_DARK_EFF_TOP c n) else s.g (F.CNV_DARK_EFF_BOT c n))
  if rd (F.CNV_DARK_CTRL_HW c) = 0 then (sw, false)
  else if !(nth (s.cam c).owned 0 false) then (eff, false)
  else
    let lo := signed 12 (rd (F.CNV_DARK_BOUND_MIN c))
    let hi := signed 12 (rd (F.CNV_DARK_BOUND_MAX c))
    match (s.cam c).meter n t (·.usedDark) with
    | none => bounded lo hi eff
    | some m =>
      let mean : Int := if b = 0 then (m.topSum / m.topCount : Nat) else (m.botSum / m.botCount : Nat)
      let step : Int := rd (F.CNV_DARK_CTRL_STEP_MAX c)
      bounded lo hi (eff + clampI (-step) step ((rd (F.CNV_DARK_CTRL_TARGET c) : Int) - mean))

/-- The LEN of node `n` that the reader's settings give at a setup tick on `t` (R195 to R199). DESIGN CHOICE: where the
metering window is enabled now but the readout used brought no sample inside it (K = 0), the rule gives no quotient and LEN is
unchanged, as for a window that is not enabled (R199; log entry 122). -/
def State.lenNext (s : State) (rd : Reader) (c n t : Nat) : Nat × Bool :=
  let eff : Int := s.g (F.ARR_EXP_LEN_EFF_TICKS c n)
  if rd (F.ARR_XSERVO_HW c n) = 0 then (rd (F.ARR_EXP_LEN_TICKS c n), false)
  else if !(nth (s.cam c).owned (n + 1) false) then (eff.toNat, false)
  else
    let lo : Int := rd (F.ARR_XSERVO_MIN_TICKS c n)
    let hi : Int := rd (F.ARR_XSERVO_MAX_TICKS c n)
    let w := rd (F.ARR_XSERVO_WIN c n)
    let target : Int := rd (F.ARR_XSERVO_TARGET_TARGET c n)
    let v := match (s.cam c).meter n t (·.usedExp) with
      | none => eff
      | some m =>
        let (g, k) := nth m.green w (0, 0)
        if rd (F.CNV_WIN_EN c w) = 0 ∨ k = 0 then eff else
          let e := target - ((g / k : Nat) - (rd (F.CNV_DARK_CTRL_TARGET c) : Int))
          if e.natAbs ≤ rd (F.ARR_XSERVO_DEADBAND c n) then eff
          else eff + (eff * rd (F.ARR_XSERVO_GAIN c n) * e).tdiv (16 * target)
    let (x, cl) := bounded lo hi v
    (x.toNat, cl)

/-- The settings in effect of camera `c`. -/
def State.schedNow (s : State) (c : Nat) : Sched :=
  s.sched s.e c (s.g (F.ARR_EXP_LEN_EFF_TICKS c 0)) (s.g (F.ARR_EXP_LEN_EFF_TICKS c 1))

/-- The settings as they would land at a setup tick on `t`. -/
def State.schedNext (s : State) (c t : Nat) : Sched :=
  s.sched (s.written t) c (s.lenNext (s.written t) c 0 t).1 (s.lenNext (s.written t) c 1 t).1

/-- R158 and R183 together, on the settings as they would land. -/
def State.consistent (s : State) (c t : Nat) : Bool :=
  let q := s.schedNext c t
  q.scheduleOk && s.windowsOk c q

/-- The schedule that would apply to a frame set up on tick `t` (R159, R622). -/
def State.schedFor (s : State) (c t : Nat) : Sched := if s.consistent c t then s.schedNext c t else s.schedNow c

/-- A candidate frame start `f` is admissible under schedule `q` (R162). DESIGN CHOICE: a node that was not enabled in the
camera's previous frame has no readout there, and the end of its latest earlier readout counts (log entry 123). -/
def State.admissible (s : State) (c f : Nat) (q : Sched) : Bool :=
  let x := s.cam c
  let first := fun (n : NodeSched) => f + n.off
  (!q.a.en || decide (nth x.lastReadout 0 0 + 750 ≤ first q.a)) &&
  (!q.b.en || decide (nth x.lastReadout 1 0 + 750 ≤ first q.b)) &&
  ([q.a, q.b].filter (·.en)).all fun n => decide (x.lastExposure + 750 ≤ first n)

/-- Registers of the Frame fields of camera `c` (Table 7.3), the controlled fields of loops under hardware ownership
left out (R195). -/
def State.cameraRegs (s : State) (c t : Nat) : List (Nat × Nat) :=
  let all := frameRegs (rowsARR.filter fun r => !r.dims.isEmpty) c ++ frameRegs rowsCNV c
  let rd := s.written t
  all.filter fun (o, _) =>
    !(rd (F.CNV_DARK_CTRL_HW c) == 1 && (o == F.CNV_DARK_OFS c 0 || o == F.CNV_DARK_OFS c 1)) &&
    !(rd (F.ARR_XSERVO_HW c 0) == 1 && o == F.ARR_EXP_LEN c 0) &&
    !(rd (F.ARR_XSERVO_HW c 1) == 1 && o == F.ARR_EXP_LEN c 1)

/-- Landing of the Frame fields owned through pipeline `p` (Table 7.3): its own, those of a join it leads, against which the
join's waiting records are then tested (R315), and its copy of the planner's (R321). -/
def State.landPipe (s : State) (t p : Nat) : State :=
  let s := s.land t id (frameRegs rowsPIP p ++ frameRegs (rowsCLS.filter fun r => decide (r.base < 0x1C400)) p)
  let s := overIdx (fun j s =>
    if s.g (F.CLS_JOIN_LEAD j) = p then
      s.land t id (frameRegs (rowsCLS.filter fun r => decide (0x1C400 ≤ r.base)) j)
    else s) 2 s
  (s.land t (effKey p) (rowsEJP.flatMap fun r =>
      if frameMask r.fields = 0 then [] else (innerOffsets r.base r.dims).map fun o => (o, frameMask r.fields))).joinLanded p

/-- The values of the servo outputs of camera `c`, for the settings generation (R209). -/
def State.servoState (s : State) (c : Nat) : List Nat :=
  [0, 1].flatMap fun n => [s.g (F.CNV_DARK_EFF_TOP c n), s.g (F.CNV_DARK_EFF_BOT c n), s.g (F.ARR_EXP_LEN_EFF_TICKS c n)]

/-- Keys of the Frame fields owned through pipeline `p`: its own, those of a join it leads, its copy of the planner's
(Table 7.3, R321). -/
def State.pipeKeys (s : State) (p : Nat) : List Nat :=
  (frameRegs rowsPIP p ++ frameRegs (rowsCLS.filter fun r => decide (r.base < 0x1C400)) p).map (·.1) ++
    ((List.range 2).flatMap fun j =>
      if s.g (F.CLS_JOIN_LEAD j) = p then (frameRegs (rowsCLS.filter fun r => decide (0x1C400 ≤ r.base)) j).map (·.1) else []) ++
    (rowsEJP.flatMap fun r => if frameMask r.fields = 0 then [] else innerOffsets r.base r.dims).map (effKey p)

/-- What the settings generation of camera `c` follows, as it stands in effect (R209). -/
def State.cameraSees (s : State) (c : Nat) : List Nat :=
  ((frameRegs (rowsARR.filter fun r => !r.dims.isEmpty) c ++ frameRegs rowsCNV c).map fun r => (s.eff.get r.1).toNat) ++
    [s.eFor c F.ARR_POWER_BUDGET_PCT] ++ s.servoState c ++
    (s.boundTo (c + 1)).flatMap fun p => (s.pipeKeys p).map fun k => (s.eff.get k).toNat

/-- Camera `c` has these fields in effect for its frame; the generation follows unless they are held (R159, R209). -/
def State.generation (s : State) (c : Nat) (before : List Nat) (landed : Bool) : State :=
  let now := s.cameraSees c
  let s := s.setCam c { s.cam c with seen := now }
  if landed ∧ now ≠ before then s.put (F.ARR_GEN_GEN c) (s.g (F.ARR_GEN_GEN c) + 1) else s

/-- The dark-level servo's outputs of camera `c` stored, with its bound flag, counter and notice (R195, R198, R201). -/
def State.darkLand (s : State) (rd : Reader) (c t : Nat) : State :=
  let o := fun n b => s.darkNext rd c n b t
  let clamped := (o 0 0).2 || (o 0 1).2 || (o 1 0).2 || (o 1 1).2
  let s := overIdx (fun n s' =>
    (s'.put (F.CNV_DARK_EFF_TOP c n) (unsigned 12 (o n 0).1)).put (F.CNV_DARK_EFF_BOT c n) (unsigned 12 (o n 1).1)) 2 s
  if clamped then
    let s := s.bump (C.CNV_CNT_DARK_BOUND c)
    s.sticky F.CNV_FLAGS_DARK_BOUND c 0x0810 c [s.ctr (C.CNV_CNT_DARK_BOUND c)]
  else s

/-- The exposure servo's LEN of node `n` stored, with its bound flag, counter and notice (R195, R199, R201). -/
def State.lenLand (s : State) (rd : Reader) (c n t : Nat) : State :=
  let (len, clamped) := s.lenNext rd c n t
  let s := s.put (F.ARR_EXP_LEN_EFF_TICKS c n) len
  if clamped then
    let s := s.bump (C.ARR_CNT_XSERVO_BOUND c n)
    s.sticky F.CNV_FLAGS_XSERVO_BOUND (2 * c + n) 0x0713 (2 * c + n) [len]
  else s

/-- The readout that each loop under hardware ownership has used at a setup tick on `t` is marked; older ones it has not used
stay so (R197). -/
def Camera.markUsed (x : Camera) (t : Nat) (hwDark hwA hwB : Bool) : Camera :=
  let dark := fun (m : Meter) => hwDark && nth x.owned 0 false && x.meter m.node t (·.usedDark) == some m
  let len := fun (m : Meter) => (if m.node = 0 then hwA && nth x.owned 1 false else hwB && nth x.owned 2 false) &&
    x.meter m.node t (·.usedExp) == some m
  { x with
    meters := x.meters.map fun m => { m with usedDark := m.usedDark || dark m, usedExp := m.usedExp || len m }
    owned := [hwDark, hwA, hwB] }

/-- The budget in effect and its LIMITER, the first listed on a tie (R84, R190). -/
def State.budget (s : State) (c : Nat) : Nat × Nat :=
  let a := s.g F.STP_CEIL_A_ARR_PCT
  let b := s.eFor c F.ARR_POWER_BUDGET_PCT
  let d := s.g F.THM_LIMITS_ARR_PCT
  let m := min a (min b d)
  (m, if a = m then 0 else if b = m then 1 else 2)

/-- Everything of camera `c` that lands at a setup tick on `t` lands, or is held whole (R159, R200, R203, R209). DESIGN
CHOICE: a loop output that a bound would clamp at a setup tick whose settings are held is held with them, sets no bound flag
and counts nothing, since the loop has no output there; the spec does not say (R200, R201; log entry 121). -/
def State.landCamera (s : State) (c t : Nat) : State :=
  let rd := s.written t
  let before := if (s.cam c).seen.isEmpty then s.cameraSees c else (s.cam c).seen
  if s.consistent c t then
    let hw := (rd (F.CNV_DARK_CTRL_HW c) == 1, rd (F.ARR_XSERVO_HW c 0) == 1, rd (F.ARR_XSERVO_HW c 1) == 1)
    let s := ((s.darkLand rd c t).lenLand rd c 0 t).lenLand rd c 1 t
    let s := s.setCam c ((s.cam c).markUsed t hw.1 hw.2.1 hw.2.2)
    let s := (s.land t id (s.cameraRegs c t)).land t (effKey c) [(F.ARR_POWER_BUDGET, 0x7F)]
    let s := (s.boundTo (c + 1)).foldl (fun s p => s.landPipe t p) s
    let s := s.generation c before true
    let s := s.land t (effKey c) (rowsILM.flatMap fun r =>
      if frameMask r.fields = 0 then [] else (innerOffsets r.base r.dims).map fun o => (o, frameMask r.fields))
    s.put (F.ARR_CAM_STATUS_HELD c) 0
  else
    let s := ((s.generation c before false).put (F.ARR_CAM_STATUS_HELD c) 1).bump (C.ARR_CNT_SET_HELD c)
    s.sticky F.ARR_FLAGS_SET_HELD c 0x0710 c [s.ctr (C.ARR_CNT_SET_HELD c)]

/-- A request of the readout controller (R186). -/
structure Request where
  ready : Nat
  c : Nat
  n : Nat
  slots : List Nat
  slotTicks : Nat
  f : Nat
  deriving DecidableEq, Repr

/-- Order of requests: ready tick, then W0, then node A (R187). -/
def Request.le (x y : Request) : Bool :=
  decide (x.ready < y.ready) || (x.ready == y.ready && (decide (x.c < y.c) || (x.c == y.c && decide (x.n ≤ y.n))))

/-- Insertion in that order. -/
def insertRequest (x : Request) : List Request → List Request
  | [] => [x]
  | y :: l => if x.le y then x :: y :: l else y :: insertRequest x l

/-- The earliest tick at or after `t` at which [t, t + d) overlaps nothing placed; the list rises (R187). -/
def earliest (d t : Nat) : List (Nat × Nat) → Nat
  | [] => t
  | (a, b) :: l => if t + d ≤ a then t else earliest d (max t b) l

/-- A placement inserted in rising order. -/
def insertPlaced (x : Nat × Nat) : List (Nat × Nat) → List (Nat × Nat)
  | [] => [x]
  | y :: l => if x.1 ≤ y.1 then x :: y :: l else y :: insertPlaced x l

/-- One request placed (R187 to R189). -/
def State.placeOne (s : State) (r : Request) : State :=
  let d := r.slots.length * r.slotTicks
  let t := earliest d r.ready s.placed
  let s := { s with placed := insertPlaced (t, t + d) s.placed }
  let s := (s.put (F.CNV_RDO_PLAN_START r.c r.n) (t - r.f)).put (F.CNV_RDO_LEN_TICKS r.c r.n) d
  let s := if r.ready < t then s.bump (C.CNV_CNT_RDO_DEFER r.c) else s
  let x := s.cam r.c
  let frames := x.frames.map fun f =>
    if f.start = r.f then
      { f with readouts := f.readouts ++ [⟨r.n, t, r.slotTicks, r.slots, 0, false⟩]
               record := modNth f.record (6 + r.n) fun _ => (t - r.f) % 2 ^ 32 }
    else f
  (s.setCam r.c { x with frames := frames, lastReadout := modNth x.lastReadout r.n fun _ => t + d }).at_ t
    (.readoutStart r.c r.n [])

/-- The settings record of Table 7.4, its RDO words still zero. -/
def State.settingsRecord (s : State) (c : Nat) (q : Sched) (slotTicks pct : Nat) : List Nat :=
  let b := fun (x : Bool) => if x then 1 else 0
  let ow := (s.cam c).owned
  [s.g (F.ARR_GEN_GEN c) + c * 2 ^ 8 + b q.bits10 * 2 ^ 9 + b q.cbin * 2 ^ 10 +
     b (q.black && s.g F.ARR_BLACK_OWNER == c) * 2 ^ 11 + q.gains.1 * 2 ^ 12 +
     q.gains.2 * 2 ^ 14 + b q.a.en * 2 ^ 16 + b q.b.en * 2 ^ 17 + s.g (F.ARR_CAM_STATUS_HELD c) * 2 ^ 18 +
     b (nth ow 1 false) * 2 ^ 19 + b (nth ow 2 false) * 2 ^ 20 + b (nth ow 0 false) * 2 ^ 21 + pct * 2 ^ 22,
   q.a.len, q.b.len, q.a.count + q.b.count * 2 ^ 8 + slotTicks * 2 ^ 16,
   s.g (F.CNV_DARK_EFF_TOP c 0) + s.g (F.CNV_DARK_EFF_BOT c 0) * 2 ^ 16,
   s.g (F.CNV_DARK_EFF_TOP c 1) + s.g (F.CNV_DARK_EFF_BOT c 1) * 2 ^ 16, 0, 0]

/-- The events of a frame of camera `c` fixed: node resets, exposures, the frame start (R151, R152, R161). -/
def State.scheduleFrame (s : State) (c f : Nat) (q : Sched) : State :=
  let subs := fun (n : Nat) (x : NodeSched) (s : State) =>
    match x.subs f with
    | [] => s
    | (a, e) :: l =>
      ((a, e) :: l).foldl (fun s w => (s.at_ w.1 (.exposureStart c n)).at_ w.2 (.exposureEnd c n))
        (s.at_ (a - 750) (.nodeReset c n))
  ((subs 1 q.b (subs 0 q.a s))).at_ f (.frameStart c)

/-- The exposure midpoint of a node in a frame that starts at `f` (R308). -/
def NodeSched.middle (n : NodeSched) (f : Nat) : Nat := f + n.off + ((n.count - 1) * n.pitch + n.len) / 2

/-- A frame of camera `c` set up on tick `t` to start at `f`: landing, generation, budget, record, exposures, strobe
windows; the readout requests are answered (R161, R186, R190, R191, R409). The grid moves only with a PERIOD that lands;
DESIGN CHOICE: where the first setup tick after a start holds its settings, the value that `ARR_PERIOD` held on the tick of
the start goes on stepping the grid, as the one in effect before the start plays no part (R159, R164; log entry 124). -/
def State.setupFrame (s : State) (c t f : Nat) : State × List Request :=
  let lands := s.consistent c t
  let s := s.landCamera c t
  let q := s.schedNow c
  let (pct, lim) := s.budget c
  let tks := slotTime q.slot0 pct
  let s := ((s.put F.ARR_POWER_EFF_PCT pct).put F.ARR_POWER_EFF_LIMITER lim).put (F.CNV_RP_EFF_TICKS c) tks
  let exps := ((q.a.subs f).map fun w => ⟨0, w.1, w.2⟩) ++ ((q.b.subs f).map fun w => ⟨1, w.1, w.2⟩)
  let x := s.cam c
  let frame : Frame := ⟨f, s.settingsRecord c q tks pct, exps, [], false, q.wins⟩
  let last := exps.foldl (fun m e => max m e.stop) x.lastExposure
  let s := s.setCam c
    { x with frames := x.frames ++ [frame], lastExposure := last, period := if lands then q.period else x.period }
  let s := (s.boundTo (c + 1)).foldl (fun s p =>
    s.takeFrame p (c + 1) f (q.a.en, q.b.en) (q.a.middle f, q.b.middle f)) s
  let slots := s.pairsOf c q
  let req := fun (n : Nat) (w : NodeSched) =>
    if w.en then [(⟨(w.subs f).foldl (fun m e => max m e.2) 0, c, n, slots, tks, f⟩ : Request)] else []
  ((s.scheduleFrame c f q).formWindows t c f exps, req 0 q.a ++ req 1 q.b)

/-- A slot of camera `c` skipped (R165, R169). -/
def State.skipSlot (s : State) (c : Nat) : State :=
  let s := s.bump (C.ARR_CNT_SLOT_SKIP c)
  s.sticky F.ARR_FLAGS_SLOT_SKIP c 0x0711 c [s.ctr (C.ARR_CNT_SLOT_SKIP c)]

/-- Whether frames may be set up: at Run with no entry in progress (R128, R174). -/
def State.arrayRuns (s : State) : Bool := s.g F.PWR_STEP_STATUS_STEP == 0 && s.g F.PWR_STEP_STATUS_ENTRY == 0

/-- Whether frames could be set up on tick `t`, this one or one of the last (R174). -/
def State.arrayRanAt (s : State) (t : Nat) : Bool :=
  decide (s.stair.runFrom ≤ t) && (s.arrayRuns || decide (t < s.stair.runUntil))

/-- W1 offered a frame start of W0 (R169). -/
def State.offerLinked (s : State) (t f : Nat) : State × List Request :=
  if s.on (F.ARR_CAM_CTRL_LINK 1) ∧ (s.cam 1).active then
    if s.admissible 1 f (s.schedFor 1 t) then s.setupFrame 1 t f else (s.skipSlot 1, [])
  else (s, [])

/-- A candidate frame start of camera `c`: set up if admissible, with W1 following W0 under LINK; the flag answers
whether it was (R162, R165, R169). -/
def State.tryFrame (s : State) (c t f : Nat) : State × List Request × Bool :=
  if s.admissible c f (s.schedFor c t) then
    let (s, r) := s.setupFrame c t f
    if c = 0 then
      let (s, r') := s.offerLinked t f
      (s, r ++ r', true)
    else (s, r, true)
  else (s, [], false)

/-- Requests placed in the order of R187; readouts that have ended leave the list. -/
def State.place (s : State) (rs : List Request) : State :=
  let s := { s with placed := s.placed.filter fun p => decide (s.time < p.2) }
  (rs.foldl (fun l r => insertRequest r l) []).foldl (fun s r => s.placeOne r) s

/-- The next slot of camera `c` fixed at `f`, with its setup tick (R161). -/
def State.nextSlotAt (s : State) (c f : Nat) : State :=
  (s.setCam c { s.cam c with nextSlot := some f }).at_ (f - 3000) (.setupTick c)

/-- After a slot at `f`: the following slot of the grid, or of the burst while slots remain (R163 to R165). -/
def State.advanceGrid (s : State) (c f : Nat) : State :=
  let x := s.cam c
  let mode := s.g (F.ARR_CAM_CTRL_MODE c)
  if mode = 0 ∨ mode = 3 then s.nextSlotAt c (f + x.period)
  else if x.burstAhead = 0 then s.setCam c { x with nextSlot := none }
  else (s.setCam c { x with burstAhead := x.burstAhead - 1 }).nextSlotAt c (f + x.period)

/-- One slot fewer of the burst without a frame start. -/
def State.burstDown (s : State) (c : Nat) : State :=
  s.put (F.ARR_CAM_STATUS_BURST_LEFT c) (s.g (F.ARR_CAM_STATUS_BURST_LEFT c) - 1)

/-- The slot of camera `c` whose setup tick is now, if any: set up, skipped, or passed over at Poise and deeper
(R161, R165, R174, R622). -/
def State.slotDue (s : State) (c : Nat) : State × List Request :=
  let x := s.cam c
  match x.nextSlot with
  | none => (s, [])
  | some f =>
    if !x.active then (s, [])
    else if s.time + 3000 < f then
      (if s.agenda.any fun e => e.2 == .setupTick c then s else s.at_ (f - 3000) (.setupTick c), [])
    else if !s.arrayRuns then
      let was := (s.time, f, s.g (F.ARR_CAM_STATUS_BURST_LEFT c), x.burstAhead)
      (((s.setCam c { x with passed := some was }).burstDown c).advanceGrid c f, [])
    else
      let (s, r, ok) := s.tryFrame c s.time f
      if ok then (s.advanceGrid c f, r) else (((s.skipSlot c).burstDown c).advanceGrid c f, r)

/-- A setup tick: the cameras whose slot is set up on this tick, their readout requests placed together (R186). -/
def State.setupTick (s : State) (c : Nat) : State :=
  let (s, r) := s.slotDue c
  let (s, r') := s.slotDue (1 - c)
  s.place (r ++ r')

/-- Run is reached on this tick: a slot passed over earlier on this tick has its setup tick now (R174). -/
def State.regainSlots (s : State) : State :=
  overIdx (fun c s =>
    let x := s.cam c
    match x.passed with
    | some (t, f, left, ahead) =>
      if t = s.time ∧ x.active then
        ((s.setCam c { x with passed := none, nextSlot := some f, burstAhead := ahead }).put (F.ARR_CAM_STATUS_BURST_LEFT c)
          left).after 0 (.setupTick c)
      else s
    | none => s) 2 s

/-- SETUP_TICK (R161). -/
def execSetupTick (c : Nat) (s : State) : Result := .next (s.setupTick (c % 2))

/-- A start of camera `c` accepted on this tick: with a band in place it fixes the first slot (R164, R171). -/
def State.startCamera (s : State) (c : Nat) : State :=
  let s := s.put (F.ARR_CAM_CTRL_RUN c) 1
  let x := s.cam c
  if x.active ∨ s.g (F.ARR_CAM_BAND_LAST_PAIR c) < s.g (F.ARR_CAM_BAND_FIRST_PAIR c) then s else
  let w := s.time
  let per := s.g (F.ARR_PERIOD_TICKS c)
  let s := (s.setCam c { x with active := true, startedAt := w, period := per, nextSlot := none, burstAhead := 0,
                                passed := none }).put (F.ARR_CAM_STATUS_BURST_LEFT c) 0
  let mode := s.g (F.ARR_CAM_CTRL_MODE c)
  if (c = 1 ∧ s.on (F.ARR_CAM_CTRL_LINK 1)) ∨ mode = 1 ∨ mode = 2 then s else
  let g := s.getPair (F.ARR_START_TIME_LO c)
  if g = 0 then s.nextSlotAt c (w + 3000)
  else s.nextSlotAt c (if g ≤ w + 3000 then gridEdge g per (w + 3000) else g - (g - (w + 3000)) / per * per)

/-- CAMERA_START (R164). -/
def execCameraStart (c : Nat) (s : State) : Result := .next (s.startCamera (c % 2))

/-- A stop of camera `c` accepted on this tick (R170). -/
def State.stopCamera (s : State) (c : Nat) : State :=
  let s := s.put (F.ARR_CAM_CTRL_RUN c) 0
  let x := s.cam c
  if x.active then
    (s.setCam c { x with active := false, stoppedAt := s.time, nextSlot := none, burstAhead := 0 }).put
      (F.ARR_CAM_STATUS_BURST_LEFT c) 0
  else s

/-- CAMERA_STOP (R170). -/
def execCameraStop (c : Nat) (s : State) : Result := .next (s.stopCamera (c % 2))

/-- A trigger of camera `c` dropped (R167). -/
def State.dropTrigger (s : State) (c : Nat) : State :=
  let s := s.bump (C.ARR_CNT_TRIG_DROP c)
  s.sticky F.ARR_FLAGS_TRIG_DROP c 0x0712 c [s.ctr (C.ARR_CNT_TRIG_DROP c)]

/-- A burst of camera `c` begins with the slot at `f`: the rest of its slots run unless the camera has been stopped since
the trigger's stamp (R163, R170). -/
def State.beginBurst (s : State) (c f : Nat) : State :=
  if (s.cam c).active then
    let n := s.e (F.ARR_BURST_LEN_FRAMES c)
    let s := s.put (F.ARR_CAM_STATUS_BURST_LEFT c) n
    (s.setCam c { s.cam c with burstAhead := n - 1 }).advanceGrid c f
  else s

/-- A trigger of camera `c` stamped `t`, in trigger modes 1 and 2, with the readout requests of the frame it starts (R166,
R167, R170, R174). DESIGN CHOICE: that no slot of a burst remains is judged on the tick on which the edge is first sampled,
two ticks after its stamp at a pin (R167; log entry 125). -/
def State.triggerCam (s : State) (c t : Nat) : State × List Request :=
  let x := s.cam c
  let mode := s.g (F.ARR_CAM_CTRL_MODE c)
  if !(mode == 1 || mode == 2) || (c == 1 && s.on (F.ARR_CAM_CTRL_LINK 1)) || decide (t < x.startedAt) ||
      !(x.active || decide (t < x.stoppedAt)) || !s.arrayRanAt t then (s, [])
  else if s.g (F.ARR_CAM_STATUS_BURST_LEFT c) ≠ 0 then (s.dropTrigger c, [])
  else
    let f := t + (s.schedFor c t).trigDelay
    let (s, r, ok) := s.tryFrame c t f
    if !ok then (s.dropTrigger c, []) else (if mode = 2 then s.beginBurst c f else s, r)

/-- An edge at trigger source `src` (0 to 31 PIO flag, 32 TRIG0, 33 TRIG1, 34 software) is a trigger of camera `c` (R166). -/
def State.triggers (s : State) (c src : Nat) (rising : Bool) : Bool :=
  s.g (F.ARR_CAM_CTRL_TRIG_SRC c) == src && (src == 34 || rising == !s.on (F.ARR_CAM_CTRL_TRIG_FALL c))

/-- The triggers stamped `t` that satisfy `hits`, W0 before W1; the readout requests of both cameras are placed together
(R166, R186, R187). -/
def State.triggerBoth (s : State) (t : Nat) (hits : Nat → Bool) : State :=
  let (s, r) := if hits 0 then s.triggerCam 0 t else (s, [])
  let (s, r') := if hits 1 then s.triggerCam 1 t else (s, [])
  s.place (r ++ r')

/-- An edge at trigger source `src` stamped `t`, offered to both cameras (R166). -/
def State.trigger (s : State) (src t : Nat) (rising : Bool) : State := s.triggerBoth t fun c => s.triggers c src rising

/-- SOFTWARE_TRIGGER: a write of `ARR_SW_TRIG` (R166). -/
def State.softTrigger (s : State) (mask : Nat) : State :=
  s.triggerBoth s.time fun c => bitN mask c && s.triggers c 34 true

/-- SOFTWARE_TRIGGER (R166). -/
def execSoftwareTrigger (mask : Nat) (s : State) : Result := .next (s.softTrigger mask)

/-- A node of camera `c` changed. -/
def State.modNode (s : State) (c n : Nat) (f : Node → Node) : State :=
  s.setCam c { s.cam c with nodes := modNth (s.cam c).nodes n f }

/-- Whether some frame of camera `c` has a sub-exposure of node `n` that satisfies `p`. -/
def State.exposureAt (s : State) (c n : Nat) (p : Exposure → Bool) : Bool :=
  (s.cam c).frames.any fun f => f.exposures.any fun e => e.node == n && p e

/-- NODE_RESET: 750 ticks before its first sub-exposure the node loses its charge (R152). -/
def State.resetNode (s : State) (c n : Nat) : State :=
  if s.exposureAt c n fun e => e.start == s.time + 750 then s.modNode c n fun _ => ⟨0, none, s.time⟩ else s

/-- NODE_RESET (R152). -/
def execNodeReset (c n : Nat) (s : State) : Result := .next (s.resetNode (c % 2) (n % 2))

/-- The overflow gates close and the sub-exposure begins on its start tick (R151). -/
def State.openNode (s : State) (c n : Nat) : State :=
  if s.exposureAt c n fun e => e.start == s.time then s.modNode c n fun x => { x with openSince := some s.time } else s

/-- EXPOSURE_START (R151). -/
def execExposureStart (c n : Nat) (s : State) : Result := .next (s.openNode (c % 2) (n % 2))

/-- The transfer gate closes on the end tick and the charge collected since the start is added (R151). -/
def State.closeNode (s : State) (c n : Nat) : State :=
  if s.exposureAt c n fun e => e.stop == s.time then
    s.modNode c n fun x => match x.openSince with
      | some o => { x with openSince := none, collected := x.collected + (s.time - o) }
      | none => x
  else s

/-- EXPOSURE_END (R151). -/
def execExposureEnd (c n : Nat) (s : State) : Result := .next (s.closeNode (c % 2) (n % 2))

/-- The frame of camera `c` whose start is now begins: counter, latest start, burst (R161, R163). -/
def State.beginFrame (s : State) (c : Nat) : State :=
  let x := s.cam c
  if x.frames.any fun f => !f.started && f.start == s.time then
    let s := s.setCam c { x with frames := x.frames.map fun f =>
      if !f.started && f.start == s.time then { f with started := true } else f }
    let s := ((s.bump (C.ARR_FRAME_COUNT c)).putPair (F.ARR_LAST_START_LO c) s.time).burstDown c
    let n := s.ctr (C.ARR_FRAME_COUNT c)
    let rec_ := match x.frames.find? fun f => f.start == s.time with
      | some f => f.record
      | none => []
    (s.boundTo (c + 1)).foldl (fun s p => s.modFrame p s.time fun r => { r with seq := n, record := rec_ }) s
  else s

/-- `ARR_CAM_STATUS.RUNNING`: setup ticks occur or a started frame is incomplete (Table 6.13, R208). -/
def State.camRuns (s : State) (c : Nat) : Bool := (s.cam c).active || !(s.cam c).frames.isEmpty

end Sys2Proof.Machine
end

