-- ==== Sys2Proof/Machine/Pio.lean ====
section
/-! DEFINITION. The PIO engines (16_pio_engines.md): edges, instructions, pins, queues, shared flags, starting and
stopping. -/

namespace Sys2Proof.Machine

/-- Engine `e`. -/
def State.eng (s : State) (e : Nat) : Engine := nth s.pio.engines e Engine.idle

/-- Engine `e` changed. -/
def State.modEng (s : State) (e : Nat) (f : Engine → Engine) : State :=
  { s with pio := { s.pio with engines := modNth s.pio.engines e f } }

/-- The engine cycle of engine `e` in ticks (R433). -/
def State.pioCycle (s : State) (e : Nat) : Nat :=
  let d := s.g (F.PIO_CLKDIV_D e)
  2 * (if d = 0 then 65536 else d)

/-- The instruction word at PC of engine `e`, in the bank in use; at its start, the word that PC will name (R434). -/
def State.pioWord (s : State) (e : Nat) : Nat :=
  let x := s.eng e
  if x.starting then s.g (F.PIO_PROG_INSTR e (s.g (F.PIO_EXEC_BANK e)) (s.g (F.PIO_EXEC_START e)))
  else s.g (F.PIO_PROG_INSTR e x.bank x.pc)

/-- Bits `hi` to `lo` of an instruction word. -/
def wbits (w hi lo : Nat) : Nat := w / 2 ^ lo % 2 ^ (hi + 1 - lo)

/-- The instruction does nothing but spend its HOLD and set ILLEGAL (R438). -/
def pioIllegal (w : Nat) : Bool :=
  match wbits w 15 12 with
  | 0 => wbits w 11 10 != 0
  | 1 => wbits w 11 11 != 0
  | 2 => false
  | 3 => false
  | 4 => wbits w 11 10 == 1 && decide (24 ≤ wbits w 8 4)
  | 5 => decide (5 ≤ wbits w 11 9)
  | 6 => decide (6 ≤ wbits w 11 9)
  | 7 => wbits w 9 4 != 0
  | 8 => wbits w 11 9 == 7
  | 9 => decide (4 ≤ wbits w 11 9)
  | 10 => decide (2 ≤ wbits w 11 10) || wbits w 9 9 != 0
  | _ => true

/-- The command that executes word `w` on engine `e` (Table 16.1). -/
def pioRow (e w : Nat) : Instr :=
  if pioIllegal w then .illegal e else
  match wbits w 15 12 with
  | 0 => .goto e
  | 1 => .count e
  | 2 => .brif e
  | 3 => .brnot e
  | 4 => .await e
  | 5 => .shin e
  | 6 => .shout e
  | 7 => if wbits w 11 11 = 0 then .deposit e else .fetch e
  | 8 => .copy e
  | 9 => .put e
  | _ => if wbits w 11 10 = 1 then .signalRaise e else .signalLower e

/-- Whether a command is an event of engine `e`. -/
def pioEvent (e : Nat) : Instr → Bool
  | .goto k | .count k | .brif k | .brnot k | .await k | .shin k | .shout k | .deposit k | .fetch k | .copy k
  | .put k | .signalRaise k | .signalLower k | .illegal k | .holdEnd k => k == e
  | _ => false

/-- The instruction at PC is fixed for the engine's next edge. -/
def State.pioNext (s : State) (e : Nat) : State := s.at_ (s.eng e).nextAt (pioRow e (s.pioWord e))

/-- The level pin `n` shows on this tick: driven, or as the world has it, or its pull; none where it floats (R441,
R442). -/
def State.pinLevel (s : State) (n : Nat) : Option Bool :=
  let due := s.pio.moves.filter fun m => decide (m.1 ≤ s.time) && m.2.1 == n
  let drive := match due.getLast? with
    | some m => m.2.2
    | none => nth s.pio.driven n none
  match drive with
  | some b => some b
  | none => match nth s.pio.outside n none with
    | some b => some b
    | none => match s.g (F.PIO_PIN_CFG_PULL n) with
      | 0 => some false
      | 2 => some true
      | _ => none

/-- The levels of the 24 pins as a mask, a floating pin at bit `n` of `fill`. -/
def State.pinMask (s : State) (fill : Nat) : Nat :=
  overIdx (fun n m => m + (if (s.pinLevel n).getD (bitN fill n) then 2 ^ n else 0)) 24 0

/-- The pins as read on an edge (R442); a pin that floats reads a free value. -/
def State.readPins (s : State) : Nat × State :=
  if (List.range 24).all fun n => (s.pinLevel n).isSome then (s.pinMask 0, s)
  else
    let (v, s') := s.free (2 ^ 24)
    (s.pinMask v, s')

/-- `n` pins read from `base` upward, modulo 24 (R439). -/
def pinsFrom (mask base n : Nat) : Nat :=
  overIdx (fun i m => m + (if bitN mask ((base + i) % 24) then 2 ^ i else 0)) n 0

/-- What pin `n` is to be driven at, on its way to the pin: four ticks after edge `t` (R441, R442). -/
def State.movePin (s : State) (t n : Nat) : State :=
  let d := if bitN s.pio.dirs n then some (bitN s.pio.levels n) else none
  { s with pio := { s.pio with moves := s.pio.moves ++ [(t + 4, n, d)] } }

/-- Level (`dir` false) or direction of pin `n` written by engine `e`: discarded where it does not own the pin (R441). -/
def State.writePin (s : State) (e n : Nat) (dir b : Bool) : State :=
  if s.g (F.PIO_PIN_CFG_OWNER n) ≠ e then s
  else
    let s : State := if dir then { s with pio := { s.pio with dirs := maskBit s.pio.dirs n b } }
      else { s with pio := { s.pio with levels := maskBit s.pio.levels n b } }
    s.movePin s.time n

/-- Bits of `v` written to `n` pins from `base` upward, modulo 24 (R439). -/
def State.writePins (s : State) (e base n v : Nat) (dir : Bool) : State :=
  overIdx (fun i s => s.writePin e ((base + i) % 24) dir (bitN v i)) n s

/-- The pins SHOUT and COPY drive. -/
def State.drivePins (s : State) (e v : Nat) (dir : Bool) : State :=
  s.writePins e (s.g (F.PIO_PINS_DRIVE_BASE e)) (s.g (F.PIO_PINS_DRIVE_COUNT e)) v dir

/-- Words of TX storage, and of RX storage, of engine `e` (R443). -/
def State.pioDepth (s : State) (e : Nat) (rx : Bool) : Nat :=
  let lent := bitN (s.g (F.PIO_QCFG_JOIN (e / 2 * 2))) (if rx then 1 else 0)
  if lent then (if e % 2 = 0 then 8 else 0) else 4

/-- A sticky bit of `PIO_ERR[e]` set, with the notice on its change (R446). -/
def State.pioErr (s : State) (e i : Nat) : State :=
  let f : Fld := ⟨F.PIO_ERR e, 4, 0⟩
  s.sticky f i 0x1110 e [s.g f + 2 ^ i]

/-- TXU and RXU events; TXO and RXO events (R446). -/
def State.pioUnder (s : State) (e i : Nat) : State := (s.bump (C.PIO_CNT_UNDER e)).pioErr e i
def State.pioOver (s : State) (e i : Nat) : State := (s.bump (C.PIO_CNT_OVER e)).pioErr e i

/-- Host pops that have fallen by now made (R444). -/
def State.settlePops (s : State) (e : Nat) : State :=
  s.modEng e fun x =>
    { x with rx := x.rx.drop (x.pops.filter fun t => decide (t ≤ s.time)).length
             pops := x.pops.filter fun t => decide (s.time < t) }

/-- The values of R434 taken on the start tick. -/
def State.pioBegin (s : State) (e : Nat) : State :=
  if (s.eng e).starting then
    let s := s.modEng e fun x =>
      { x with starting := false, bank := s.g (F.PIO_EXEC_BANK e), pc := s.g (F.PIO_EXEC_START e), sr := 0, u := 0,
               v := 0, holding := false, stalled := false }
    overIdx (fun n s =>
      if s.g (F.PIO_PIN_CFG_OWNER n) = e then
        let s : State := { s with pio := { s.pio with
          levels := maskBit s.pio.levels n (s.on (F.PIO_PIN_CFG_INIT n))
          dirs := maskBit s.pio.dirs n (s.on (F.PIO_PIN_CFG_DIR n)) } }
        if s.on (F.PIO_PIN_CFG_DIR n) then s.movePin s.time n else s
      else s) 24 s
  else s

/-- The successor where no branch is taken (R436). -/
def State.pioSucc (s : State) (e : Nat) : Nat :=
  let pc := (s.eng e).pc
  if pc = s.g (F.PIO_EXEC_LOOP_TO e) then s.g (F.PIO_EXEC_LOOP_FROM e) else (pc + 1) % 64

/-- The instruction completes: its HOLD, then the instruction at `next` (R435, R436). -/
def State.pioDone (s : State) (e next : Nat) : State :=
  let h := wbits (s.pioWord e) 3 0
  let c := s.pioCycle e
  let t := s.time
  let s := s.modEng e fun x => { x with pc := next, stalled := false, holding := h != 0, nextAt := t + (h + 1) * c }
  if h = 0 then s.pioNext e else s.at_ (t + h * c) (.holdEnd e)

/-- The instruction stalls: it is evaluated again on the next edge (R437). -/
def State.pioStall (s : State) (e : Nat) : State :=
  let t := s.time
  let c := s.pioCycle e
  (s.modEng e fun x => { x with stalled := true, nextAt := t + c }).pioNext e

/-- Past the commit point of an entry to Hush or deeper no instruction executes (R450, R451). -/
def State.pioHalted (s : State) : Bool :=
  s.g F.PWR_STEP_STATUS_PHASE == 4 && decide (3 ≤ s.g F.PWR_STEP_STATUS_ENTRY) && decide (s.stair.commitNow < s.now)

/-- The meaning `f` of the instruction at PC made on this edge, where the engine executes `row` on it. -/
def State.pioExec (s : State) (e : Nat) (row : Instr) (f : Nat → State → State) : State :=
  let x := s.eng e
  let w := s.pioWord e
  if x.running && !x.holding && x.nextAt == s.time && s.ticking && !s.pioHalted && pioRow e w == row then
    f w ((s.pioBegin e).settlePops e)
  else s

/-- GOTO: branches to ADDR (R439). -/
def State.pioGoto (s : State) (e w : Nat) : State := s.pioDone e (wbits w 9 4)

/-- GOTO (R439). -/
def execGoto (e : Nat) (s : State) : Result := .next (s.pioExec e (.goto e) fun w s => s.pioGoto e w)

/-- `v` less one modulo 2^32. -/
def dec32 (v : Nat) : Nat := (v + 2 ^ 32 - 1) % 2 ^ 32

/-- COUNT: branches while the counter is not zero, and decrements it (R439). -/
def State.pioCount (s : State) (e w : Nat) : State :=
  let x := s.eng e
  let v := if wbits w 10 10 = 0 then x.u else x.v
  let next := if v = 0 then s.pioSucc e else wbits w 9 4
  let s := s.pioDone e next
  s.modEng e fun x => if wbits w 10 10 = 0 then { x with u := dec32 x.u } else { x with v := dec32 x.v }

/-- COUNT (R439). -/
def execCount (e : Nat) (s : State) : Result := .next (s.pioExec e (.count e) fun w s => s.pioCount e w)

/-- COND of BRIF and BRNOT (Table 16.1, R439). -/
def State.pioCond (s : State) (e w : Nat) : Bool × State :=
  let x := s.eng e
  match wbits w 11 10 with
  | 0 => (x.u == 0, s)
  | 1 => (x.u == s.g (F.PIO_CMP_VALUE e), s)
  | 2 =>
    let (m, s) := s.readPins
    (bitN m (s.g (F.PIO_EXEC_TEST_PIN e)), s)
  | _ => ((match x.tx with | q :: _ => decide (q.1 < s.time) | [] => false), s)

/-- A branch to ADDR where `want` is what COND gives (R439). -/
def State.pioBranch (s : State) (e w : Nat) (want : Bool) : State :=
  let (c, s) := s.pioCond e w
  s.pioDone e (if c = want then wbits w 9 4 else s.pioSucc e)

/-- BRIF (R439). -/
def execBrif (e : Nat) (s : State) : Result := .next (s.pioExec e (.brif e) fun w s => s.pioBranch e w true)

/-- BRNOT (R439). -/
def execBrnot (e : Nat) (s : State) : Result := .next (s.pioExec e (.brnot e) fun w s => s.pioBranch e w false)

/-- Whether what AWAIT waits for holds (R439). -/
def State.pioAwaits (s : State) (e w : Nat) : Bool × State :=
  let level := wbits w 9 9 == 1
  let i := wbits w 8 4
  match wbits w 11 10 with
  | 2 => (bitN s.pio.flags i == level, s)
  | 3 => (decide ((s.time % 2 ^ 32 + 2 ^ 32 - s.g (F.PIO_CMP_VALUE e)) % 2 ^ 32 < 2 ^ 31), s)
  | c =>
    let (m, s) := s.readPins
    (bitN m (if c = 0 then (s.g (F.PIO_PINS_READ_BASE e) + i) % 24 else i) == level, s)

/-- AWAIT: completes when its source equals LEVEL, else stalls (R437, R439). -/
def State.pioAwait (s : State) (e w : Nat) : State :=
  let (c, s) := s.pioAwaits e w
  if c then s.pioDone e (s.pioSucc e) else s.pioStall e

/-- AWAIT (R437). -/
def execAwait (e : Nat) (s : State) : Result := .next (s.pioExec e (.await e) fun w s => s.pioAwait e w)

/-- NBITS (Table 16.1). -/
def pioBits (w : Nat) : Nat := if wbits w 8 4 = 0 then 32 else wbits w 8 4

/-- An `n`-bit value shifted into SR: toward bit 31, or toward bit 0 (R440). -/
def shiftIn (down : Bool) (sr n v : Nat) : Nat :=
  if down then sr / 2 ^ n + v * 2 ^ (32 - n) else (sr * 2 ^ n) % 2 ^ 32 + v

/-- An `n`-bit value shifted out of SR, with what is left (R440). -/
def shiftOut (down : Bool) (sr n : Nat) : Nat × Nat :=
  if down then (sr % 2 ^ n, sr / 2 ^ n) else (sr / 2 ^ (32 - n), (sr * 2 ^ n) % 2 ^ 32)

/-- SHIN (R439, R440). -/
def State.pioShin (s : State) (e w : Nat) : State :=
  let n := pioBits w
  let x := s.eng e
  let (v, s) := match wbits w 11 9 with
    | 0 =>
      let (m, s) := s.readPins
      (pinsFrom m (s.g (F.PIO_PINS_READ_BASE e)) n, s)
    | 1 => (x.u % 2 ^ n, s)
    | 2 => (x.v % 2 ^ n, s)
    | 3 => (0, s)
    | _ => (s.pio.flags % 2 ^ n, s)
  let s := s.pioDone e (s.pioSucc e)
  s.modEng e fun x => { x with sr := shiftIn (s.on (F.PIO_EXEC_SHIFT e)) x.sr n v }

/-- SHIN (R440). -/
def execShin (e : Nat) (s : State) : Result := .next (s.pioExec e (.shin e) fun w s => s.pioShin e w)

/-- SHOUT (R439, R440). -/
def State.pioShout (s : State) (e w : Nat) : State :=
  let (v, sr) := shiftOut (s.on (F.PIO_EXEC_SHIFT e)) (s.eng e).sr (pioBits w)
  let s := s.pioDone e (if wbits w 11 9 = 5 then v % 64 else s.pioSucc e)
  let s := s.modEng e fun x => { x with sr := sr }
  match wbits w 11 9 with
  | 0 => s.drivePins e v false
  | 1 => s.modEng e fun x => { x with u := v }
  | 2 => s.modEng e fun x => { x with v := v }
  | 4 => s.drivePins e v true
  | _ => s

/-- SHOUT (R440). -/
def execShout (e : Nat) (s : State) : Result := .next (s.pioExec e (.shout e) fun w s => s.pioShout e w)

/-- QUEUE, DEPOSIT: SR goes to RX; a full queue stalls it or discards the word (R439, R445). -/
def State.pioDeposit (s : State) (e w : Nat) : State :=
  let x := s.eng e
  let depth := s.pioDepth e true
  let word := (x.sr, s.time % 2 ^ 32)
  if s.on (F.PIO_QCFG_RXMAIL e) && depth != 0 then
    (s.pioDone e (s.pioSucc e)).modEng e fun x => { x with rx := [word], sr := 0 }
  else if x.rx.length < depth then
    (s.pioDone e (s.pioSucc e)).modEng e fun x => { x with rx := x.rx ++ [word], sr := 0 }
  else if wbits w 10 10 = 1 then s.pioStall e
  else ((s.pioDone e (s.pioSucc e)).modEng e fun x => { x with sr := 0 }).pioOver e 3

/-- DEPOSIT (R439). -/
def execDeposit (e : Nat) (s : State) : Result := .next (s.pioExec e (.deposit e) fun w s => s.pioDeposit e w)

/-- QUEUE, FETCH: the oldest TX word goes to SR; an empty queue stalls it or sets TXU (R439, R443). -/
def State.pioFetch (s : State) (e w : Nat) : State :=
  match (s.eng e).tx with
  | q :: l =>
    if q.1 ≤ s.time then (s.pioDone e (s.pioSucc e)).modEng e fun x => { x with tx := l, sr := q.2 }
    else if wbits w 10 10 = 1 then s.pioStall e
    else (s.pioDone e (s.pioSucc e)).pioUnder e 0
  | [] => if wbits w 10 10 = 1 then s.pioStall e else (s.pioDone e (s.pioSucc e)).pioUnder e 0

/-- FETCH (R439). -/
def execFetch (e : Nat) (s : State) : Result := .next (s.pioExec e (.fetch e) fun w s => s.pioFetch e w)

/-- The source value of COPY (Table 16.2). -/
def State.pioSource (s : State) (e code : Nat) : Nat × State :=
  let x := s.eng e
  match code with
  | 0 =>
    let (m, s) := s.readPins
    (pinsFrom m (s.g (F.PIO_PINS_READ_BASE e)) 24, s)
  | 1 => (x.u, s)
  | 2 => (x.v, s)
  | 3 => (x.sr, s)
  | 4 => (s.g (F.PIO_CMP_VALUE e), s)
  | 5 => (s.time % 2 ^ 32, s)
  | 6 => (s.pio.flags, s)
  | _ => (0, s)

/-- XF of COPY (R439). -/
def pioXf (xf v : Nat) : Nat :=
  match xf with
  | 0 => v
  | 1 => 2 ^ 32 - 1 - v
  | 2 => (v + 1) % 2 ^ 32
  | _ => dec32 v

/-- COPY (R439). -/
def State.pioCopy (s : State) (e w : Nat) : State :=
  let (a, s) := s.pioSource e (wbits w 6 4)
  let v := pioXf (wbits w 8 7) a
  let dst := wbits w 11 9
  let s := s.pioDone e (if dst = 5 then v % 64 else s.pioSucc e)
  match dst with
  | 0 => s.drivePins e v false
  | 1 => s.modEng e fun x => { x with u := v }
  | 2 => s.modEng e fun x => { x with v := v }
  | 3 => s.modEng e fun x => { x with sr := v }
  | 4 => (s.put (F.PIO_CMP_VALUE e) v).modEng e fun x => { x with copied := some s.now }
  | 6 => s.drivePins e v true
  | _ => s

/-- COPY (R439). -/
def execCopy (e : Nat) (s : State) : Result := .next (s.pioExec e (.copy e) fun w s => s.pioCopy e w)

/-- PUT (R439). -/
def State.pioPut (s : State) (e w : Nat) : State :=
  let v := wbits w 8 4
  let s := s.pioDone e (s.pioSucc e)
  let base := s.g (F.PIO_PINS_PUT_BASE e)
  let n := s.g (F.PIO_PINS_PUT_COUNT e)
  match wbits w 11 9 with
  | 0 => s.writePins e base n v false
  | 1 => s.modEng e fun x => { x with u := v }
  | 2 => s.modEng e fun x => { x with v := v }
  | _ => s.writePins e base n v true

/-- PUT (R439). -/
def execPut (e : Nat) (s : State) : Result := .next (s.pioExec e (.put e) fun w s => s.pioPut e w)

/-- A write of the shared flags in `mask` that falls on edge `t` (R448). -/
def State.writeFlags (s : State) (t : Nat) (set : Bool) (mask : Nat) : State :=
  { s with pio := { s.pio with flagWrites := s.pio.flagWrites ++ [(t, set, mask % 2 ^ 32)] } }

/-- SIGNAL (R439, R448). -/
def State.pioSignal (s : State) (e w : Nat) (set : Bool) : State :=
  (s.pioDone e (s.pioSucc e)).writeFlags s.time set (2 ^ wbits w 8 4)

/-- SIGNAL_RAISE (R448). -/
def execSignalRaise (e : Nat) (s : State) : Result :=
  .next (s.pioExec e (.signalRaise e) fun w s => s.pioSignal e w true)

/-- SIGNAL_LOWER (R448). -/
def execSignalLower (e : Nat) (s : State) : Result :=
  .next (s.pioExec e (.signalLower e) fun w s => s.pioSignal e w false)

/-- An illegal instruction (R438). -/
def State.pioBad (s : State) (e : Nat) : State := (s.pioDone e (s.pioSucc e)).pioErr e 4

/-- ILLEGAL (R438). -/
def execIllegal (e : Nat) (s : State) : Result := .next (s.pioExec e (.illegal e) fun _ s => s.pioBad e)

/-- The last edge of a HOLD: the successor executes on the next one (R435). -/
def State.pioHoldEnd (s : State) (e : Nat) : State :=
  let x := s.eng e
  if x.running && x.holding && decide (x.nextAt ≤ s.time + s.pioCycle e) then
    (s.modEng e fun x => { x with holding := false }).pioNext e
  else s

/-- HOLD_END (R435). -/
def execHoldEnd (e : Nat) (s : State) : Result := .next (s.pioHoldEnd e)

/-- The instruction whose edge falls on this tick executes (used where a stop falls on the same tick, R450). -/
def State.pioEdge (s : State) (e : Nat) : State :=
  s.pioExec e (pioRow e (s.pioWord e)) fun w s =>
    if pioIllegal w then s.pioBad e else
    match wbits w 15 12 with
    | 0 => s.pioGoto e w
    | 1 => s.pioCount e w
    | 2 => s.pioBranch e w true
    | 3 => s.pioBranch e w false
    | 4 => s.pioAwait e w
    | 5 => s.pioShin e w
    | 6 => s.pioShout e w
    | 7 => if wbits w 11 11 = 0 then s.pioDeposit e w else s.pioFetch e w
    | 8 => s.pioCopy e w
    | 9 => s.pioPut e w
    | _ => s.pioSignal e w (wbits w 11 10 == 1)

/-- Engines run at Run, Poise and Rest, up to the commit point of an entry to Hush or deeper (R451). -/
def State.pioAllowed (s : State) : Bool :=
  s.ticking && decide (s.g F.PWR_STEP_STATUS_STEP ≤ 2) &&
    !(s.g F.PWR_STEP_STATUS_PHASE == 4 && decide (3 ≤ s.g F.PWR_STEP_STATUS_ENTRY))

/-- Engine `e`, if stopped, started on the first even tick at or after W + 4 (R434). -/
def State.pioStart (s : State) (e : Nat) : State :=
  if (s.eng e).running || !s.pioAllowed then s
  else
    let t := nextEdge 2 (s.time + 4)
    let s := s.modEng e fun x => { x with running := true, starting := true, holding := false, stalled := false,
                                          nextAt := t }
    (s.setBit F.PIO_RUNNING_MASK e).pioNext e

/-- PIO_START (R434). -/
def execPioStart (mask : Nat) (s : State) : Result :=
  .next (if s.unitsAnswer then overIdx (fun e s => if bitN mask e then s.pioStart e else s) 16 s else s)

/-- Engine `e` stops under a stop accepted on tick `w`: nothing executes after it, its pins go to high impedance (R450). -/
def State.pioStopAt (s : State) (w e : Nat) : State :=
  if !(s.eng e).running then s
  else
    let x := s.eng e
    let s := (s.modEng e fun x => { x with running := false, starting := false, holding := false, stalled := false }).withdraw
      (pioEvent e)
    let s := (s.clearBit F.PIO_RUNNING_MASK e).put (F.PIO_DBG_STOPPED_IN e)
      (if x.holding then 1 else if x.stalled then 2 else 0)
    let t := edgeAfter 2 w
    overIdx (fun n s =>
      if s.g (F.PIO_PIN_CFG_OWNER n) = e ∧ !x.starting then
        ({ s with pio := { s.pio with dirs := maskBit s.pio.dirs n false } } : State).movePin t n
      else s) 24 s

/-- Engine `e` stops on this tick: what falls on the tick stands (R450). -/
def State.pioStopOne (s : State) (e : Nat) : State := (s.pioEdge e).pioStopAt s.time e

/-- PIO_STOP (R450). -/
def execPioStop (mask : Nat) (s : State) : Result :=
  .next (overIdx (fun e s => if bitN mask e then s.pioStopOne e else s) 16 s)

/-- Every running engine stops under the commit point on tick `w`, whose own edge has been executed (R451). -/
def State.pioStopAll (s : State) (w : Nat) : State := overIdx (fun e s => s.pioStopAt w e) 16 s

/-- A host write to `PIO_TXD[e]` (R443, R444). -/
def State.pioPush (s : State) (e data : Nat) : State :=
  if (s.eng e).tx.length < s.pioDepth e false then
    let t := edgeAfter 2 s.time
    s.modEng e fun x => { x with tx := x.tx ++ [(t, data % 2 ^ 32)] }
  else s.pioOver e 1

/-- PIO_TXD (R444). -/
def execPioTxd (e data : Nat) (s : State) : Result := .next (if e < 16 then s.pioPush e data else s)

/-- A host pop of RX of engine `e` (R444). -/
def State.pioPop (s : State) (e : Nat) : State :=
  let s := s.settlePops e
  let x := s.eng e
  if x.pops.length < x.rx.length then
    let t := edgeAfter 2 s.time
    s.modEng e fun x => { x with pops := x.pops ++ [t] }
  else s.pioUnder e 2

/-- PIO_RXPOP (R444). -/
def execPioRxpop (mask : Nat) (s : State) : Result :=
  .next (overIdx (fun e s => if bitN mask e then s.pioPop e else s) 16 s)

/-- PIO_SHFLAG_SET: takes effect on the first CD16 edge after acceptance (R448). -/
def execPioShflagSet (flags : Nat) (s : State) : Result := .next (s.writeFlags (edgeAfter 2 s.time) true flags)

/-- PIO_SHFLAG_CLR: takes effect on the first CD16 edge after acceptance (R448). -/
def execPioShflagClr (flags : Nat) (s : State) : Result := .next (s.writeFlags (edgeAfter 2 s.time) false flags)

/-- What `PIO_QCFG[e]` makes of the words held: RX with RXMAIL holds one word, and an odd engine whose storage is lent holds
none (R443, R445). DESIGN CHOICE: of several RX words the latest stays, words in lent storage are lost, and a queue left
with more words than its storage keeps them until they are taken; the spec does not say (log entry 133). -/
def State.pioQueues (s : State) (e : Nat) : State :=
  let s := if s.on (F.PIO_QCFG_RXMAIL e) then
      (s.settlePops e).modEng e fun x =>
        { x with rx := x.rx.getLast?.toList, pops := if x.pops.length < x.rx.length then [] else x.pops.getLast?.toList }
    else s
  if e % 2 = 1 then s else
  s.modEng (e + 1) fun x =>
    { x with tx := if s.pioDepth (e + 1) false = 0 then [] else x.tx
             rx := if s.pioDepth (e + 1) true = 0 then [] else x.rx
             pops := if s.pioDepth (e + 1) true = 0 then [] else x.pops }

/-- Both queues of a stopped engine emptied (R450). -/
def State.pioClear (s : State) (e : Nat) : State :=
  if (s.eng e).running then s.refuse (F.PIO_QCFG e) 5
  else s.modEng e fun x => { x with tx := [], rx := [], pops := [] }

/-- QUEUE_CLEAR (R450). -/
def execQueueClear (e : Nat) (s : State) : Result := .next (if e < 16 then s.pioClear e else s)

/-- An edge at PIO pin `n` on the tick its stamp names (R442, R58). -/
def State.pioPinEdge (s : State) (n : Nat) (rising : Bool) : State :=
  { s with pio := { s.pio with outside := modNth s.pio.outside n fun _ => some rising } }

/-- Bits that the writes of one kind name. -/
def flagMask (set : Bool) (l : List (Nat × Bool × Nat)) : Nat :=
  l.foldl (fun m w => if w.2.1 = set then m ||| w.2.2 else m) 0

/-- The flag writes of this tick's edge resolved together, set winning; each change is a trigger edge stamped with the
edge and drives the strobe pins that follow the flag (R448). -/
def State.settleFlags (s : State) : State :=
  let due := s.pio.flagWrites.filter fun w => decide (w.1 ≤ s.time)
  if due.isEmpty then s else
  let old := s.pio.flags
  let sets := flagMask true due
  let clrs := flagMask false due
  let new := overIdx (fun i m => if bitN sets i then maskBit m i true else if bitN clrs i then maskBit m i false else m) 32 old
  let s : State := { s with pio := { s.pio with flags := new
                                                flagWrites := s.pio.flagWrites.filter fun w => decide (s.time < w.1) } }
  overIdx (fun i s =>
    if bitN old i = bitN new i then s else (s.trigger i s.time (bitN new i)).strobeFlag i (bitN new i)) 32 s

/-- Pin changes that have reached their pins kept as what drives them. -/
def State.settlePins (s : State) : State :=
  let due := s.pio.moves.filter fun m => decide (m.1 ≤ s.time)
  if due.isEmpty then s else
  { s with pio := { s.pio with
      driven := due.foldl (fun d m => modNth d m.2.1 fun _ => m.2.2) s.pio.driven
      moves := s.pio.moves.filter fun m => decide (s.time < m.1) } }

/-- The end of a tick in the PIO unit. -/
def State.settlePio (s : State) : State := s.settlePins.settleFlags

end Sys2Proof.Machine
end

