-- ==== Sys2Proof/Machine/Code.lean ====
section
/-! DEFINITION. What the Holot link sends: 8b/10b code groups and running disparity, the control characters, frames as
bytes with their CRC, and what a receiver makes of the code groups it samples (13_holot_link.md, R346 to R351, R355,
R369, R371, R380; 08_companion_ports.md, R228). -/

namespace Sys2Proof.Machine

/-! ### The CRC of R228 -/

/-- The CRC-16 fed with one bit at the top. -/
def crcBit (c : Nat) (b : Bool) : Nat :=
  let f := bitN c 15 != b
  let c := c * 2 % 65536
  if f then (BitVec.ofNat 16 c ^^^ 0x1021#16).toNat else c

/-- The CRC-16 over the lowest `n` bits of a value, most significant first. -/
def crcFeed (n c v : Nat) : Nat := ((List.range n).map fun i => bitN v (n - 1 - i)).foldl crcBit c

/-- The CRC-16 of pixel words (R228) and of bytes (R350). -/
def crc16 (words : List Nat) : Nat := words.foldl (crcFeed 16) 0xFFFF
def crcBytes (bytes : List Nat) : Nat := bytes.foldl (crcFeed 8) 0xFFFF

/-! ### Characters (R346, R347) -/

/-- A character of the link: a data byte or a control character of Table 13.1; or a character error. -/
inductive Sym where
  | data (b : Nat)
  | idle | mark | sof | eof | abt | probe | wake
  | error
  deriving DecidableEq, Repr

/-- Six-bit blocks abcdei of D0.y to D31.y and four-bit blocks fghj of Dx.0 to Dx.7 for negative running disparity, the bit
sent first leftmost (IEEE 802.3 Clause 36, which R346 names; PRESUMED, log entry 134). -/
def sixes : List Nat :=
  [0b100111, 0b011101, 0b101101, 0b110001, 0b110101, 0b101001, 0b011001, 0b111000,
   0b111001, 0b100101, 0b010101, 0b110100, 0b001101, 0b101100, 0b011100, 0b010111,
   0b011011, 0b100011, 0b010011, 0b110010, 0b001011, 0b101010, 0b011010, 0b111010,
   0b110011, 0b100110, 0b010110, 0b110110, 0b001110, 0b101110, 0b011110, 0b101011]
def fours : List Nat := [0b1011, 0b1001, 0b0101, 0b1100, 0b1101, 0b1010, 0b0110, 0b1110]

/-- Ones among the lowest `n` bits. -/
def ones (n v : Nat) : Nat := ((List.range n).filter fun i => bitN v i).length

/-- A block of `n` bits has not as many ones as zeros: it turns the running disparity. -/
def uneven (n v : Nat) : Bool := 2 * ones n v != n

/-- A block of `n` bits at a running disparity (true: positive): an uneven block, and the even block `e`, is inverted at a
positive one. -/
def blockAt (n e : Nat) (pos : Bool) (v : Nat) : Nat := if pos && (uneven n v || v == e) then 2 ^ n - 1 - v else v

/-- The code group of a data byte at a running disparity; Dx.7 has a second four-bit block for the bytes that would else
give a run of five. -/
def dataGroup (pos : Bool) (b : Nat) : Nat :=
  let x := b % 32
  let y := b / 32 % 8
  let six := nth sixes x 0
  let p := pos != uneven 6 six
  let alt := y == 7 && (if p then [11, 13, 14] else [17, 18, 20]).contains x
  let four := if alt then (if p then 0b1000 else 0b0111) else blockAt 4 0b1100 p (nth fours y 0)
  blockAt 6 0b111000 pos six * 16 + four

/-- The code group of a control character at negative running disparity (Table 13.1): K28.5, K28.0, K27.7, K29.7, K30.7,
K28.3 and K28.1. A character error has none of its own: what stands for it is ABT (R380). -/
def Sym.control : Sym → Nat
  | .idle => 0b0011111010
  | .mark => 0b0011110100
  | .sof => 0b1101101000
  | .eof => 0b1011101000
  | .probe => 0b0011110011
  | .wake => 0b0011111001
  | .abt | .error | .data _ => 0b0111101000

/-- The code group of a character at a running disparity, bit a as its most significant bit, which is sent first. -/
def Sym.group (pos : Bool) (c : Sym) : Nat := match c with
  | .data b => dataGroup pos b
  | c => if pos then 1023 - c.control else c.control

/-- The running disparity after a code group. -/
def disparity (pos : Bool) (g : Nat) : Bool :=
  let step := fun (n low high v : Nat) (p : Bool) =>
    if n < 2 * ones n v || v == low then true else if 2 * ones n v < n || v == high then false else p
  step 4 0b0011 0b1100 (g % 16) (step 6 0b000111 0b111000 (g / 16 % 64) pos)

/-- The characters that are valid. -/
def allSyms : List Sym := (List.range 256).map Sym.data ++ [.idle, .mark, .sof, .eof, .abt, .probe, .wake]

/-- The character that a code group stands for at a running disparity: an invalid group, another control character and a
disparity error are character errors (R347). -/
def Sym.ofGroup (pos : Bool) (g : Nat) : Sym := (allSyms.find? fun c => c.group pos == g).getD .error

/-- Characters as code groups from a running disparity, and the running disparity after them (R346). -/
def encodeSyms (pos : Bool) : List Sym → List Nat × Bool
  | [] => ([], pos)
  | c :: l =>
    let g := c.group pos
    let (r, q) := encodeSyms (disparity pos g) l
    (g :: r, q)

/-- Code groups as a receiver reads them from its running disparity. -/
def decodeSyms (pos : Bool) : List Nat → List Sym
  | [] => []
  | g :: l => Sym.ofGroup pos g :: decodeSyms (disparity pos g) l

/-- Whether characters sent from one running disparity leave the other behind. -/
def turns (l : List Sym) : Bool := (encodeSyms false l).2

/-- Characters as a station repeats them: a character error as ABT (R380). -/
def relayed (l : List Sym) : List Sym := l.map fun c => if c = .error then .abt else c

/-- A receiver is aligned after 64 consecutive valid IDLE, and loses alignment after 4 character errors within any 16
characters (R348). -/
def aligns (l : List Sym) : Bool := decide (64 ≤ l.length) && (l.drop (l.length - 64)).all (· == .idle)
def losesAlignment (l : List Sym) : Bool :=
  (List.range l.length).any fun i => decide (4 ≤ (((l.drop i).take 16).filter (· == .error)).length)

/-! ### Frames (R349, R350) -/

/-- The lowest `n` bytes of a value, low byte first, and the value of bytes (R349). -/
def octets (n v : Nat) : List Nat := (List.range n).map fun i => v / 2 ^ (8 * i) % 256
def octetVal : List Nat → Nat
  | [] => 0
  | b :: l => b + 256 * octetVal l

/-- The CRC as it follows its bytes, bits [15:8] first (R350). -/
def withCrc (bytes : List Nat) : List Nat := bytes ++ [crcBytes bytes / 256, crcBytes bytes % 256]

/-- The characters of a frame with the bytes from its header to the end of its payload (R349). -/
def framed (bytes : List Nat) : List Sym := .sof :: (withCrc bytes).map Sym.data ++ [.eof]

/-- The bytes of characters that are all data. -/
def dataBytes : List Sym → Option (List Nat)
  | [] => some []
  | .data b :: l => (dataBytes l).map (b :: ·)
  | _ :: _ => none

/-- The bytes before the CRC of bytes whose CRC checks (R350). -/
def checked (bytes : List Nat) : Option (List Nat) :=
  if crcBytes bytes = 0 ∧ 2 ≤ bytes.length then some (bytes.take (bytes.length - 2)) else none

/-- The bytes from header to payload of the characters of a frame that is valid but for its length (R351). -/
def unframed (l : List Sym) : Option (List Nat) :=
  match l with
  | .sof :: r => if r.getLast? = some .eof then (dataBytes r.dropLast).bind checked else none
  | _ => none

/-- The 16 bytes of a fire command (Table 12.1). -/
def commandBytes (jets fire seq dur gallery fallback doubt : Nat) : List Nat :=
  octets 4 jets ++ octets 6 fire ++ octets 2 seq ++
    octets 4 (dur % 2 ^ 26 + gallery % 8 * 2 ^ 26 + fallback % 2 * 2 ^ 29 + doubt % 2 * 2 ^ 30)

/-- Header, TYPE and payload of a write frame (Tables 13.2, 13.7, 13.9; R362, R366). -/
def LinkFrame.bytes (f : LinkFrame) : List Nat :=
  let d := fun (i : Nat) => nth f.data i (0 : Nat)
  f.gal % 256 :: (match f.kind with
    | 0 => 0x20 :: octets 2 (d 0) ++ commandBytes (d 1) (d 2) (d 3) (d 4) (d 5) (d 6) (d 7)
    | 1 => 0x10 :: octets 4 (d 0) ++ [d 1 % 8 + d 2 % 2 * 8, d 3 % 256]
    | 2 => 0x30 :: octets 2 (d 0) ++ octets 4 (d 1)
    | 3 => 0x31 :: octets 2 (d 0)
    | _ => 0x40 :: octets 2 (d 0) ++ octets 2 (d 1) ++ octets 2 (d 2) ++ [d 3 % 256, d 4 % 256] ++ octets 2 (d 5))

/-- The characters of a frame of the head, or of a time marker (Tables 13.2, 13.4). -/
def LinkFrame.syms (f : LinkFrame) : List Sym :=
  let d := fun (i : Nat) => nth f.data i (0 : Nat)
  if f.kind = 5 then .mark :: (withCrc (octets 8 (d 0) ++ [d 1 % 256, d 2 % 256] ++ octets 2 (d 3))).map Sym.data
  else framed f.bytes

/-- The write frame that bytes give, where their length is that of their TYPE (R351, Table 13.2); `start` is the tick on
which the frame began. -/
def LinkFrame.ofBytes (start : Nat) (l : List Nat) : Option LinkFrame :=
  let v := fun (i n : Nat) => octetVal ((l.drop i).take n)
  let hdr := nth l 0 0
  let type := nth l 1 0
  if type = 0x20 ∧ l.length = 20 then
    let w := v 16 4
    some ⟨0, hdr, start, [v 2 2, v 4 4, v 8 6, v 14 2, w % 2 ^ 26, w / 2 ^ 26 % 8, w / 2 ^ 29 % 2, w / 2 ^ 30 % 2]⟩
  else if type = 0x10 ∧ l.length = 8 then some ⟨1, hdr, start, [v 2 4, v 6 1 % 8, v 6 1 / 8 % 2, v 7 1]⟩
  else if type = 0x30 ∧ l.length = 8 then some ⟨2, hdr, start, [v 2 2, v 4 4]⟩
  else if type = 0x31 ∧ l.length = 4 then some ⟨3, hdr, start, [v 2 2]⟩
  else if type = 0x40 ∧ l.length = 12 then some ⟨4, hdr, start, [v 2 2, v 4 2, v 6 2, v 8 1, v 9 1, v 10 2]⟩
  else none

/-- The time marker that characters give, if it is valid (Table 13.4, R356). -/
def LinkFrame.markerOf (start : Nat) (l : List Sym) : Option LinkFrame :=
  match l with
  | .mark :: r =>
    match (dataBytes r).bind checked with
    | some b =>
      let v := fun (i n : Nat) => octetVal ((b.drop i).take n)
      if b.length = 12 then some ⟨5, 0, start, [v 0 8, v 8 1, v 9 1, v 10 2]⟩ else none
    | none => none
  | _ => none

/-- The characters of a read frame of the station at address `a` (Table 13.5). -/
def ReadContent.syms (a : Nat) (c : ReadContent) : List Sym :=
  framed ([a % 8, c.stat % 256, c.inputs % 256] ++ octets 4 c.on_ ++ octets 4 c.peak ++ octets 2 c.ack ++ octets 4 c.aux)

/-- The content of a valid read frame of address `a` in place of `c` (Table 13.5, R351). -/
def ReadContent.ofBytes (a : Nat) (c : ReadContent) (b : List Nat) : Option ReadContent :=
  let v := fun (i n : Nat) => octetVal ((b.drop i).take n)
  if b.length = 17 ∧ v 0 1 = a % 8 then
    some { c with stat := v 1 1, inputs := v 2 1, on_ := v 3 4, peak := v 7 4, ack := v 11 2, aux := v 13 4 }
  else none

/-- Header, TYPE and payload of a HOP frame with these rtt values, of the IDENT request for `n` stations and of an IDENT
reply (R369, R371, Table 13.9); the first two go to every station (log entry 135). -/
def hopBytes (rtts : List Nat) : List Nat := [0x80, 0x01, rtts.length] ++ rtts.flatMap (octets 2)
def identBytes (n : Nat) : List Nat := [0x80, 0x02, n]
def replyBytes (pos strap rev : Nat) : List Nat :=
  [strap % 8, 0x82, pos % 256] ++ octets 4 strap ++ octets 2 0x0F20 ++ [rev % 256]

/-- The rtt values of a HOP frame, and position, strap word and revision of an IDENT reply, that bytes give (R351). -/
def hopOf (b : List Nat) : Option (List Nat) :=
  let n := nth b 2 0
  if nth b 1 0 = 0x01 ∧ b.length = 3 + 2 * n then
    some ((List.range n).map fun i => octetVal ((b.drop (3 + 2 * i)).take 2))
  else none
def replyOf (b : List Nat) : Option (Nat × Nat × Nat) :=
  if nth b 1 0 = 0x82 ∧ b.length = 10 then some (nth b 2 0, octetVal ((b.drop 3).take 4), nth b 9 0) else none

end Sys2Proof.Machine

/-! ### What a receiver finds in the place of characters sent -/

namespace Sys2Proof

open Sys2Proof.Machine

/-- The characters found where `sent` was sent. -/
def Rx.syms (rx : Rx) (sent : List Sym) : List Sym := match rx with
  | .intact => sent
  | .groups pos l => decodeSyms pos l

/-- Character errors found (R347). -/
def Rx.errs (rx : Rx) : Nat := ((rx.syms []).filter (· == .error)).length

/-- The write frame or marker found where `f` was sent, if it is valid (R351). -/
def Rx.frame (rx : Rx) (f : LinkFrame) : Option LinkFrame := match rx with
  | .intact => some f
  | .groups pos l =>
    let c := decodeSyms pos l
    if f.kind = 5 then LinkFrame.markerOf f.start c else (unframed c).bind (LinkFrame.ofBytes f.start)

/-- The read frame of address `a` found where `c` was sent, if it is valid. -/
def Rx.content (rx : Rx) (a : Nat) (c : ReadContent) : Option ReadContent := match rx with
  | .intact => some c
  | .groups pos l => (unframed (decodeSyms pos l)).bind (ReadContent.ofBytes a c)

/-- The rtt values of the HOP frame found where one with `rtts` was sent, and the IDENT reply found. -/
def Rx.hop (rx : Rx) (rtts : List Nat) : Option (List Nat) := match rx with
  | .intact => some rtts
  | .groups pos l => (unframed (decodeSyms pos l)).bind hopOf
def Rx.reply (rx : Rx) (sent : Nat × Nat × Nat) : Option (Nat × Nat × Nat) := match rx with
  | .intact => some sent
  | .groups pos l => (unframed (decodeSyms pos l)).bind replyOf

end Sys2Proof
end

