-- ==== Sys2Proof/Machine/Readout.lean ====
section
/-! DEFINITION. Readouts: the samples that leave the converters, what the servos take from them, and their way into
the bound pipelines (07_readout_and_landing.md, R177 to R188, R197 to R199; 09_corrections.md, R243). -/

namespace Sys2Proof.Machine

/-- Signal minus reset counts the world gives: physical row, then the 6,208 physical columns from the left. -/
abbrev Scene := List (Nat × List Int)

/-- Counts of one physical row: what the scene gives, free values elsewhere (log entry 2). -/
def sceneRow (img : Scene) (seed row : Nat) : List Int :=
  let l := (match img.find? (fun (x : Nat × List Int) => x.1 == row) with | some x => x.2 | none => []).take 6208
  l ++ (List.range (6208 - l.length)).map fun i => Config.freePixel seed row (l.length + i)

/-- The physical rows that bank `b` sums for row pair `i` of a readout: 256 + k is black row pair Bk (R149, R184). -/
def bankRows (cbin : Bool) (i b : Nat) : List Nat :=
  let base := if 256 ≤ i then 2 * (i - 256) else 8 + 2 * i
  if cbin then [base + b, base + 2 + b] else [base + b]

/-- The mode of a frame's readouts, from its settings record (Table 7.4). -/
def bits10 (record : List Nat) : Bool := bitN (nth record 0 0) 9
def counterBinned (record : List Nat) : Bool := bitN (nth record 0 0) 10

/-- The dark offset of node `n` and bank `b` in counts of the bit mode (R179). -/
def preload (record : List Nat) (n b : Nat) : Int :=
  let o := signed 12 (nth record (4 + n) 0 / 2 ^ (16 * b))
  if bits10 record then o / 4 else o

/-- Largest sample (Table 7.2). -/
def sampleMax (record : List Nat) : Int :=
  (if bits10 record then 1024 else 4096) * (if counterBinned record then 2 else 1) - 1

/-- Latched samples of one bank for a row pair (R178, R179). -/
def samples (img : Scene) (seed : Nat) (record : List Nat) (n i b : Nat) : List Int :=
  let rows := bankRows (counterBinned record) i b
  let pre := preload record n b * rows.length
  let add := rows.foldl (fun (acc : List Int) r => List.zipWith (· + ·) acc (sceneRow img seed r)) (List.replicate 6208 pre)
  add.map (clampI 0 (sampleMax record))

/-- Stage 0 shift of a camera frame (Table 9.1). -/
def stage0Shift (record : List Nat) : Nat :=
  (if bits10 record then 6 else 4) - (if counterBinned record then 1 else 0)

/-- A sample scaled to 12 bits for the servos (R198). -/
def servoScale (record : List Nat) (v : Int) : Nat :=
  let v := if bits10 record then 4 * v else v
  (if counterBinned record then v / 2 else v).toNat

/-- The samples of a readout: for each of its row pairs, in order, both banks. -/
abbrev Banks := List (Nat × List Int × List Int)

/-- Black-column samples of a row (R177, R182). -/
def blackColumns (l : List Int) : List Int := l.take 32 ++ l.drop 6176

/-- Columns `a` up to `b` of the active area (Table 6.1). -/
def activeColumns (l : List Int) (a b : Nat) : List Int := (l.take (32 + b + 1)).drop (32 + a)

/-- Sum and number of a list of samples, scaled. -/
def tally (record : List Nat) (l : List Int) : Nat × Nat :=
  ((l.map (servoScale record)).foldl (· + ·) 0, l.length)

/-- Samples of the green sites of a window on one row: Gr on even rows at even columns, Gb on odd rows at odd columns
(R150, R199). -/
def greens (bank : Nat) (l : List Int) : List Int :=
  (List.range l.length).filterMap fun i => if i % 2 = bank then l[i]? else none

/-- What the servos take from a readout that ends at `fin` (R197 to R199). -/
def meterOf (record : List Nat) (wins : List Window) (n fin : Nat) (banks : Banks) : Meter :=
  let top := tally record (banks.flatMap fun x => blackColumns x.2.1)
  let bot := tally record (banks.flatMap fun x => blackColumns x.2.2)
  let green := (List.range 4).map fun w =>
    match wins.find? fun x => x.w == w with
    | some x =>
      tally record (banks.flatMap fun b =>
        if x.pairFirst ≤ b.1 ∧ b.1 ≤ x.pairLast then
          greens 0 (activeColumns b.2.1 (64 * x.colFirst) (64 * x.colLast + 63)) ++
          greens 1 (activeColumns b.2.2 (64 * x.colFirst) (64 * x.colLast + 63))
        else [])
    | none => (0, 0)
  ⟨n, fin, top.1, top.2, bot.1, bot.2, green, false, false⟩

/-- The parts that a readout gives a frame of pipeline `p` (R181, R182, R245, R246, R274). -/
def PipeFrame.readoutParts (r : PipeFrame) (st : StoreBytes) (p n : Nat) (wins : List Window) (o : Readout) (banks : Banks) :
    List Part :=
  let k := stage0Shift r.record
  let scale := fun (l : List Int) => l.map fun v => v * ((2 ^ k : Nat) : Int)
  let leave := fun (i : Nat) => o.start + o.slotTicks * (((o.pairs.takeWhile (· != i)).length) + 1)
  let cbin := counterBinned r.record
  let miss := r.mismatched st p n
  let image := wins.filterMap fun w =>
    let mine := banks.filter fun b => decide (w.pairFirst ≤ b.1) && decide (b.1 ≤ w.pairLast)
    if mine.isEmpty then none else
      let col := 64 * w.colFirst
      let cut := fun l => scale (activeColumns l col (64 * w.colLast + 63))
      let raw := mine.flatMap fun b => [cut b.2.1, cut b.2.2]
      let ticks := mine.flatMap fun b => [leave b.1, leave b.1]
      let first := match mine with | b :: _ => 2 * b.1 | [] => 0
      some (r.makePart st p n w.w (r.corr p n 0 first col cbin) raw (64 * (w.colLast + 1 - w.colFirst)) ticks
        ticks (ticks.map fun _ => 0) miss ⟨[], [], []⟩)
  let black := banks.filter fun b => decide (256 ≤ b.1)
  if black.isEmpty then image
  else image ++ [r.blackPart p n (black.flatMap fun b => [scale b.2.1, scale b.2.2])
    (black.flatMap fun b => [leave b.1, leave b.1])]

/-- A readout that begins enters the frame of each bound pipeline: parts, objects, and records once every enabled
node's readout has begun (R205, R297 to R305). -/
def State.readoutInto (s : State) (p c n f fin : Nat) (wins : List Window) (o : Readout) (banks : Banks) : State :=
  match (s.pipe p).frames.find? fun r => r.start == f && r.src == c + 1 && r.stopAt.isNone with
  | none => s
  | some r =>
    let r := { r with parts := r.parts ++ r.readoutParts s.store p n wins o banks }
    let r := if n = 0 then { r with endA := some fin } else { r with endB := some fin }
    let (objs, spill) := r.objects p n fin
    let r := if n = 0 then { r with objsA := objs } else { r with objsB := objs }
    let r := { r with overflowAt := r.overflowAt ++ spill.toList }
    let s := s.modFrame p f fun _ => r
    if (!r.nodeA || r.endA.isSome) && (!r.nodeB || r.endB.isSome) then s.buildRecords p f else s

/-- A placed readout of node `n` of camera `c` begins on its placed tick with the counts the scene gives (R188). -/
def State.beginReadout (s : State) (c n : Nat) (img : Scene) : State :=
  let x := s.cam c
  let isIt := fun (r : Readout) => r.node == n && !r.begun && r.start == s.time
  match x.frames.find? fun f => f.readouts.any isIt with
  | none => s
  | some f =>
    match f.readouts.find? isIt with
    | none => s
    | some o =>
      let seed := s.freeCount
      let s := { s with freeCount := s.freeCount + 1 }
      let banks : Banks := o.pairs.map fun i => (i, samples img seed f.record n i 0, samples img seed f.record n i 1)
      let fin := o.start + o.pairs.length * o.slotTicks
      let wins := f.wins
      let s := s.setCam c { x with
        frames := x.frames.map fun g =>
          if g.start = f.start then
            { g with readouts := g.readouts.map fun r => if isIt r then { r with begun := true } else r }
          else g
        metering := x.metering ++ [meterOf f.record wins n fin banks] }
      let s := (s.boundTo (c + 1)).foldl (fun s p => s.readoutInto p c n f.start fin wins o banks) s
      s.after o.slotTicks (.rowPairComplete c n)

/-- READOUT_START (R188). -/
def execReadoutStart (c n : Nat) (img : List (Nat × List Int)) (s : State) : Result :=
  .next (s.beginReadout (c % 2) (n % 2) img)

/-- A readout of node `n` that has ended gives its meter to the servos; a frame whose readouts have all ended leaves
the camera (R155, R197, R210). -/
def State.endReadout (s : State) (c n : Nat) : State :=
  let x := s.cam c
  let spill := fun (f : Frame) => f.started && !f.readouts.isEmpty && f.readouts.all fun r => r.begun && r.next == r.pairs.length
  let (fin, going) := x.metering.partition fun m => m.node == n && decide (m.ended ≤ s.time)
  s.setCam c { x with frames := x.frames.filter fun f => !spill f, metering := going,
                      meters := (x.meters.filter fun m => !(m.usedDark && m.usedExp)) ++ fin }

/-- A readout that ends is handed to a Calibrator that captures from pipeline `p` (R522, R559). -/
def State.handCal (s : State) (p n f : Nat) : State :=
  if s.usher.calPipe ≠ some p then s else
  match (s.pipe p).frames.find? fun r => r.start == f with
  | none => s
  | some r =>
    let spill := fun (en : Bool) (e : Option Nat) => !en || e.any fun t => decide (t ≤ s.time)
    let y : CalFrame := ⟨f, n, r.zone, r.temp, r.g (F.PIP_CORR_CTRL_CAL_AREA p), r.record,
      spill r.nodeA r.endA && spill r.nodeB r.endB, (r.nodeA, r.nodeB), r.parts.filter fun y => y.node == n && y.win != 4⟩
    ({ s with usher := { s.usher with calIn := s.usher.calIn ++ [y] } } : State).after 0 (.dispatch 6)

/-- The slot of node `n` of camera `c` that ends now: its row pair goes through the bound pipelines (R188). -/
def State.rowPair (s : State) (c n : Nat) : State :=
  let x := s.cam c
  let isIt := fun (r : Readout) =>
    r.node == n && r.begun && decide (r.next < r.pairs.length) && r.start + (r.next + 1) * r.slotTicks == s.time
  match x.frames.findSome? fun f => (f.readouts.find? isIt).map fun r => (f, r) with
  | none => s
  | some (f, o) =>
    let last := o.next + 1 == o.pairs.length
    let s := s.setCam c { x with frames := x.frames.map fun g =>
      if g.start = f.start then
        { g with readouts := g.readouts.map fun r => if isIt r then { r with next := r.next + 1 } else r }
      else g }
    let s := if last then s.endReadout c n else s.after o.slotTicks (.rowPairComplete c n)
    (s.boundTo (c + 1)).foldl (fun s p =>
      let s := ((s.recorrect p n f.start).rowsMeet p n f.start).countNode p n f.start
      let s := (s.overflowDue p).runTaps p
      let s := if last then s.handCal p n f.start else s
      (s.endStopped p).settle p) s

/-- ROW_PAIR_COMPLETE (R188). -/
def execRowPairComplete (c n : Nat) (s : State) : Result := .next (s.rowPair (c % 2) (n % 2))

end Sys2Proof.Machine
end

