-- ==== Sys2Proof/Machine/Ports.lean ====
section
/-! DEFINITION. The companion ports X0 and X1 (08_companion_ports.md) and the way of their lines into the bound
pipeline (R230, R261, R272, R298). -/

namespace Sys2Proof.Machine

/-- Port `x`. -/
def State.xport (s : State) (x : Nat) : XPort := nth s.ports x XPort.idle

/-- Port `x` replaced. -/
def State.setXport (s : State) (x : Nat) (y : XPort) : State := { s with ports := modNth s.ports x fun _ => y }

/-- State of port `x` (Table 8.2). -/
def State.xstate (s : State) (x : Nat) : Nat := s.g (F.XPT_STATUS_STATE x)

/-- The divisor in effect of XCLKx, and the epoch of its latest change (R56, R215). -/
def State.xdiv (s : State) (x : Nat) : Nat := s.outDiv (if x = 0 then 0 else 1)
def State.xepoch (s : State) (x : Nat) : Nat := s.outEpoch (if x = 0 then 0 else 1)

/-- The rising edge at or before the sampling instant whose first tick at or after is `t` (R225): the sample lies the
trained delay behind its edge. -/
def State.xedge (s : State) (x t : Nat) : Nat :=
  let n := s.xdiv x
  let e := s.xepoch x
  let u := t - ceilDiv (s.g (F.XPT_DELAY_STEP x)) 16
  if u < e ∨ n = 0 then u else e + (u - e) / n * n

/-- The open frame of a port. -/
def XPort.frame (y : XPort) : Option XFrame := y.frames.find? fun f => !f.closed

/-- The open frame of a port changed. -/
def XPort.modOpen (y : XPort) (h : XFrame → XFrame) : XPort :=
  { y with frames := y.frames.map fun f => if f.closed then f else h f }

/-- Lines ended so far of a frame. -/
def XFrame.next (f : XFrame) : Nat := f.queue.length + f.released.length

/-- A line of zero words. -/
def zeroLine (w : Nat) : List Nat := List.replicate w 0

/-- A line that has ended, as it is released (R227, R230): well-formed when its qualified beats are the words and one CRC
word and LVAL has fallen. -/
def lineOf (w : Nat) (words : List Nat) (fell : Bool) : List Nat × Nat :=
  let words := words.map (· % 65536)
  if !fell || words.length ≠ w + 1 then (zeroLine w, 2)
  else if crc16 (words.take w) = nth words w 0 then (words.take w, 0)
  else (words.take w, 1)

/-- Lines of a frame after a line with mark `m` (R233, R234). -/
def XFrame.add (f : XFrame) (l : XLine) : XFrame :=
  let i := f.next
  let f := { f with queue := f.queue ++ [l], crc := f.crc + (if l.mark = 1 then 1 else 0),
                    length := f.length + (if l.mark = 2 then 1 else 0), missing := f.missing + (if l.mark = 3 then 1 else 0) }
  if l.mark = 0 then f else { f with firstBad := some (f.firstBad.getD i), lastBad := some i }

/-- A line of the open frame has ended: counted, and released 16 ticks later (R230, R234). -/
def State.addLine (s : State) (x : Nat) (l : XLine) : State :=
  let y := (s.xport x).modOpen fun f => f.add l
  let s := s.setXport x y
  let s := if l.mark = 1 then s.bump (C.XPT_CNT_CRC x) else if l.mark = 2 then s.bump (C.XPT_CNT_LENGTH x)
    else if l.mark = 3 then s.bump (C.XPT_CNT_MISSING x) else s
  (s.put (F.XPT_STATUS_LINE x) ((y.frame.map XFrame.next).getD 0)).at_ l.releaseAt (.lineRelease x)

/-- The status record of a closed frame (Table 8.3). -/
def XFrame.record (f : XFrame) (x gen : Nat) : List Nat :=
  let b := fun (v : Bool) (n : Nat) => if v then 2 ^ n else 0
  let cap := fun (n : Nat) => min 65535 n
  let marks := b (0 < f.crc) 9 + b (0 < f.length) 10 + b (0 < f.missing) 11 + b f.timeout 12 + b (0 < f.strays) 13 +
    b f.eye 14 + b f.stopped 15 + b f.clock 16
  [gen % 256 + x * 256 + marks + (if marks = 0 then 0 else 2 ^ 31), cap f.crc + cap f.length * 65536,
   cap f.missing + cap f.strays * 65536, f.firstBad.getD 0xFFFF + f.lastBad.getD 0xFFFF * 65536, f.start % 2 ^ 32,
   f.start / 2 ^ 32 % 2 ^ 32, 0, 0]

/-- The lines a frame still lacks at its close, zero-filled; no beat gives them a stamp, which is a free value (R231). -/
def State.fillLines (s : State) (x w at_ : Nat) : Nat → State
  | 0 => s
  | n + 1 =>
    let (v, s) := s.free (2 ^ 48)
    (s.addLine x ⟨zeroLine w, 3, v, at_⟩).fillLines x w at_ n

/-- The frame of pipeline `p` that port `x` feeds takes the record of its closed frame (Table 10.2). -/
def State.recordPipe (s : State) (x start : Nat) (record : List Nat) : State :=
  let n := s.ctr (C.XPT_CNT_FRAMES x)
  (s.boundTo (3 + x)).foldl (fun s p => s.modFrame p start fun r =>
    if r.src = 3 + x then { r with seq := n, record := record } else r) s

/-- The open frame of port `x` closes now: the line in progress is a length error, missing lines are zero-filled, the
frame is counted and marked (R227, R231, R233, R234). -/
def State.closeFrame (s : State) (x : Nat) (mark : XFrame → XFrame) : State :=
  match (s.xport x).frame with
  | none => s
  | some _ =>
    let w := s.g (F.XPT_FMT_WIDTH x)
    let s : State := match (s.xport x).line with
      | some t => s.addLine x ⟨zeroLine w, 2, s.xedge x t - (((s.xport x).frame.map (·.lat)).getD 0), s.time + 16⟩
      | none => s
    let f0 := (s.xport x).frame.getD ⟨0, 0, 0, 0, [], [], false, 0, 0, 0, 0, none, none, false, false, false, false⟩
    let last := f0.queue.foldl (fun m l => max m l.releaseAt) s.time
    let s := s.fillLines x w last (f0.lines - f0.next)
    let y := (s.xport x).modOpen mark
    let s := s.setXport x { y with frames := y.frames.map fun f => { f with closed := true }, line := none,
                                   last := (f0.edge, s.time) }
    let f := y.frame.getD f0
    let s := ((s.bump (C.XPT_CNT_FRAMES x)).put (F.XPT_STATUS_OPEN x) 0).put (F.XPT_STATUS_LINE x) 0
    let s := if f.timeout then s.bump (C.XPT_CNT_TIMEOUT x) else s
    let rec_ := f.record x (s.g (F.XPT_GEN_GEN x))
    let s := s.recordPipe x f.start rec_
    if bitN (nth rec_ 0 0) 31 then
      (s.bump (C.XPT_CNT_MARKED x)).sticky F.XPT_FLAGS_MARKED x 0x0912 x [nth rec_ 0 0]
    else s

/-- A port that was stopping has stopped (R235). -/
def State.portStopped (s : State) (x : Nat) : State :=
  (s.setXport x { s.xport x with stopping := false, line := none, rise := none }).put (F.XPT_STATUS_STATE x) 3

/-- The open frame closes; a stop that waited for it takes effect (R231, R235). -/
def State.endFrame (s : State) (x : Nat) (mark : XFrame → XFrame) : State :=
  let stop := (s.xport x).stopping
  let s := s.closeFrame x fun f => { mark f with stopped := f.stopped || stop }
  if stop then s.portStopped x else s

/-- Port `x` stops: at once, or after the line in progress of its open frame (R235). -/
def State.stopPort (s : State) (x : Nat) : State :=
  let s := s.put (F.XPT_CTRL_RUN x) 0
  let y := s.xport x
  if s.xstate x ≠ 4 ∨ y.stopping then s
  else if y.frame.isSome ∧ y.line.isSome then s.setXport x { y with stopping := true }
  else (s.closeFrame x fun f => { f with stopped := true }).portStopped x

/-- PORT_STOP (R235). -/
def execPortStop (x : Nat) (s : State) : Result := .next (s.stopPort (x % 2))

/-- Trained delay and eye width gone (R223). -/
def State.forgetDelay (s : State) (x : Nat) : State := (s.put (F.XPT_DELAY_STEP x) 0).put (F.XPT_DELAY_EYE x) 0

/-- 1 written to EN (R216, Table 8.2). -/
def State.portOn (s : State) (x : Nat) : State :=
  let s := if s.on (F.XPT_CTRL_EN x) then s
    else (s.put (F.XPT_CTRL_EN x) 1).setXport x { s.xport x with clockFrom := s.time }
  if s.xstate x = 0 then s.put (F.XPT_STATUS_STATE x) 1 else s

/-- PORT_ENABLE (R216). -/
def execPortEnable (x : Nat) (s : State) : Result := .next (if s.unitsAnswer then s.portOn (x % 2) else s)

/-- EN written 0: training ends without result, a frame open closes as stopped with its line cut short, XCLKx stays low
(R216, R223). -/
def State.portOff (s : State) (x : Nat) : State :=
  let tail := if s.xclkLevel x then max (s.xport x).highUntil (s.xclkLatest x + s.xdiv x / 2) else 0
  let s := s.setXport x { s.xport x with highUntil := tail }
  let s := s.closeFrame x fun f => { f with stopped := true }
  let s := ((s.put (F.XPT_CTRL_EN x) 0).put (F.XPT_CTRL_RUN x) 0).put (F.XPT_STATUS_STATE x) 0
  (s.setXport x { s.xport x with stopping := false, line := none, rise := none }).forgetDelay x

/-- PORT_DISABLE (R216). -/
def execPortDisable (x : Nat) (s : State) : Result := .next (s.portOff (x % 2))

/-- 1 written to TRAIN (R218, R219): it starts in states 1, 3 and 5. -/
def State.train (s : State) (x : Nat) : State :=
  if s.xstate x = 1 ∨ s.xstate x = 3 ∨ s.xstate x = 5 then
    let d := 4096 * s.xdiv x * s.xdiv x
    ((s.setXport x { s.xport x with trainEnd := s.now + d }).put (F.XPT_STATUS_STATE x) 2).after d (.trainingEnd x none)
  else s

/-- TRAIN (R218, R219). -/
def execTrain (x : Nat) (s : State) : Result := .next (s.train (x % 2))

/-- Length of the run of non-edge steps that starts at step `q`, going round (R220). -/
def runFrom (edges : List Bool) (q : Nat) : Nat := ((edges.drop q ++ edges.take q).takeWhile (!·)).length

/-- The eye: start and length of the longest run of non-edge steps, the lowest start of equal ones (R220). A run starts
behind an edge step, or at step 0 where there is none. -/
def eye (edges : List Bool) : Nat × Nat :=
  let n := edges.length
  let starts := if edges.all (!·) then [0] else (List.range n).filter fun q => !nth edges q true && nth edges ((q + n - 1) % n) true
  starts.foldl (fun (m : Nat × Nat) q => if m.2 < runFrom edges q then (q, runFrom edges q) else m) (0, 0)

/-- The result of a training: trained delay and eye width, or failure (R220, R221). -/
def State.trained (s : State) (x start len : Nat) (lively : Bool) : State :=
  let n := 16 * s.xdiv x
  if !lively || decide (len < ceilDiv (35 * n) 100) then
    let s := ((s.put (F.XPT_STATUS_STATE x) 5).forgetDelay x).bump (C.XPT_CNT_TRAIN_FAIL x)
    s.sticky F.XPT_FLAGS_TRAIN_FAIL x 0x0910 x [len]
  else ((s.put (F.XPT_STATUS_STATE x) 3).put (F.XPT_DELAY_STEP x) ((start + len / 2) % n)).put (F.XPT_DELAY_EYE x) len

/-- TRAINING_END: the last dwell ends. What the dwells saw, step by step, is the edge steps and the changes counted;
where the world does not say, eye and changes are free values (R219 to R221). -/
def State.trainingEnd (s : State) (x : Nat) (seen : Option (List Bool × List Nat)) : State :=
  if s.xstate x ≠ 2 ∨ s.now ≠ (s.xport x).trainEnd then s else
  let n := 16 * s.xdiv x
  match seen with
  | some (edges, changes) =>
    let e := (edges ++ List.replicate n true).take n
    let (q, len) := eye e
    s.trained x q len ((List.range n).all fun i => decide (8 ≤ nth changes i 0))
  | none =>
    let (q, s) := s.free n
    let (len, s) := s.free (n + 1)
    let (ok, s) := s.free 2
    s.trained x q len (ok == 1)

/-- TRAINING_END (R219). -/
def execTrainingEnd (x : Nat) (seen : Option (List Bool × List Nat)) (s : State) : Result :=
  .next (s.trainingEnd (x % 2) seen)

/-- Pipeline `p` runs: a capture or an armed flight holds it (R500). DESIGN CHOICE: one bound by an armed flight counts from
the arm's dispatch on, before its first flight frame, as R208 has running begin with the accepted start; else a companion
could never bring the first flight frame of its pipeline (R218, R500; log entry 120). -/
def State.pipeRunning (s : State) (p : Nat) : Bool := (s.pipe p).bound || (s.pipe p).capture.isSome

/-- 1 written to RUN: accepted while the port is Trained and its pipeline runs (R218). -/
def State.runPort (s : State) (x : Nat) : State :=
  if s.xstate x = 3 ∧ (s.boundTo (3 + x)).any s.pipeRunning then
    ((s.put (F.XPT_CTRL_RUN x) 1).put (F.XPT_STATUS_STATE x) 4).setXport x
      { s.xport x with line := none, stopping := false, rise := none }
  else s

/-- PORT_RUN (R218). -/
def execPortRun (x : Nat) (s : State) : Result := .next (s.runPort (x % 2))

/-- Frame fields of port `x`, and those owned through the pipeline bound to it, as they stand in effect (R238). -/
def State.portSees (s : State) (x : Nat) : List Word :=
  ((frameRegs rowsXPT x).map fun r => s.eff.get r.1) ++
    (s.boundTo (3 + x)).flatMap fun p => (s.pipeKeys p).map fun k => s.eff.get k

/-- The Frame fields of port `x` and of its pipeline land; the generation changes when they differ in effect from the port's
previous frame (R238). -/
def State.landPort (s : State) (x : Nat) : State :=
  let before := if (s.xport x).seen.isEmpty then s.portSees x else (s.xport x).seen
  let s := s.land s.time (fun o => o) (frameRegs rowsXPT x)
  let s := (s.boundTo (3 + x)).foldl (fun s p => s.landPipe s.time p) s
  let now := s.portSees x
  let s := s.setXport x { s.xport x with seen := now }
  if now = before then s else s.put (F.XPT_GEN_GEN x) (s.g (F.XPT_GEN_GEN x) + 1)

/-- FVAL is sampled at 1 after 0: a frame opens (R225). A companion has no exposure that the head knows, so the midpoint of
its frame is a free value. -/
def State.openFrame (s : State) (x : Nat) : State :=
  if s.xstate x ≠ 4 || (s.xport x).stopping || (s.xport x).frame.isSome then s else
  let edge := s.xedge x s.time
  let s := s.landPort x
  let y := s.xport x
  let lat := s.e (F.XPT_LAT_ADJ_TICKS x)
  let start := edge - lat
  let f : XFrame := ⟨start, edge, s.e (F.XPT_LINES_LINES x), lat, [], [], false, 0, 0, 0, y.strays, none, none, false, false,
    false, false⟩
  let s := s.setXport x { y with frames := y.frames ++ [f], strays := 0, line := none }
  let s := ((s.putPair (F.XPT_LAST_START_LO x) start).put (F.XPT_STATUS_OPEN x) 1).put (F.XPT_STATUS_LINE x) 0
  let s := s.at_ (edge + s.e (F.XPT_FRAME_WIN_TICKS x)) (.frameWindowExpiry x)
  let (tm, s) := s.free (2 ^ 64)
  if !s.arrayRuns then s else
    let s := (s.boundTo (3 + x)).foldl (fun s p => s.takeFrame p (3 + x) start (true, false) (tm, tm)) s
    s.recordPipe x start [s.g (F.XPT_GEN_GEN x) % 256 + x * 256]

/-- PORT_FRAME_START (R225): FVAL is sampled at 1 after 0. The rise is noted, and its frame opens once what else is queued
for this tick has acted, since a stop accepted on the same tick leaves it without a frame (R235). -/
def State.fvalRise (s : State) (x : Nat) : State :=
  if s.xstate x ≠ 4 || (s.xport x).stopping || (s.xport x).frame.isSome then s
  else if (s.xport x).rise = some s.now then s.openFrame x
  else (s.setXport x { s.xport x with rise := some s.now }).after 0 (.portFrameStart x)

/-- PORT_FRAME_START (R225). -/
def execPortFrameStart (x : Nat) (s : State) : Result := .next (s.fvalRise (x % 2))

/-- A stray line (R232). -/
def State.stray (s : State) (x : Nat) : State :=
  let y := s.xport x
  let s := s.bump (C.XPT_CNT_STRAY x)
  s.setXport x (if y.frame.isSome then y.modOpen fun f => { f with strays := f.strays + 1 } else { y with strays := y.strays + 1 })

/-- A line whose first beat was sampled at tick `first` has brought `words` in its qualified beats; LVAL falls now, or the
line is still in progress (R226, R227, R230, R232, R235). -/
def State.lineBeat (s : State) (x first : Nat) (words : List Nat) (fall : Bool) : State :=
  let y := s.xport x
  let edge := s.xedge x first
  let mine := y.frame.any fun f => decide (f.edge ≤ edge)
  let old := decide (y.last.1 ≤ edge) && decide (first < y.last.2)
  if s.xstate x ≠ 4 ∨ s.time < first then s
  else if !mine then (if fall && !old then s.stray x else s)
  else if !fall then s.setXport x { y with line := some first }
  else
    let (w, mark) := lineOf (s.g (F.XPT_FMT_WIDTH x)) words true
    let s := s.setXport x { y with line := none }
    let s := s.addLine x ⟨w, mark, edge - ((y.frame.map (·.lat)).getD 0), s.time + 16⟩
    let full := (s.xport x).frame.any fun f => decide (f.lines ≤ f.next)
    if full || y.stopping then s.endFrame x (fun f => f) else s

/-- LINE_END (R226). -/
def execLineEnd (x first : Nat) (words : List Nat) (fall : Bool) (s : State) : Result :=
  .next (s.lineBeat (x % 2) first words fall)

/-- PORT_FRAME_CLOSE: FVAL is sampled at 0 (R231). -/
def execPortFrameClose (x : Nat) (s : State) : Result :=
  .next (if s.xstate (x % 2) = 4 then s.endFrame (x % 2) (fun f => f) else s)

/-- FRAME_WINDOW_EXPIRY (R231). -/
def execFrameWindowExpiry (x : Nat) (s : State) : Result :=
  let x := x % 2
  .next (if s.xstate x = 4 ∧ (s.xport x).frame.any (fun f => f.edge + s.e (F.XPT_FRAME_WIN_TICKS x) == s.time) then
      s.endFrame x fun f => { f with timeout := true }
    else s)

/-- EYE_WARNING: the eye monitor's sample differs from the data sample (R224). -/
def execEyeWarning (x : Nat) (s : State) : Result :=
  let x := x % 2
  .next (if s.xstate x = 4 then
      let s := (s.setXport x ((s.xport x).modOpen fun f => { f with eye := true })).bump (C.XPT_CNT_EYE_WARN x)
      s.sticky F.XPT_FLAGS_EYE x 0x0911 x [s.ctr (C.XPT_CNT_EYE_WARN x)]
    else s)

/-- A commit epoch changes the divisor of port `x` while it is enabled (R223, R236). -/
def State.portClock (s : State) (x : Nat) : State :=
  if s.xstate x = 0 then s else
  let s := s.closeFrame x fun f => { f with clock := true }
  let s := (s.setXport x { s.xport x with stopping := false, line := none }).forgetDelay x
  let s := (s.put (F.XPT_CTRL_RUN x) 0).put (F.XPT_STATUS_STATE x) 1
  s.sticky F.XPT_FLAGS_CLOCK x 0x0913 x [s.xdiv x]

/-- The companion corrections of a frame of port `x` (R261, R262): kind 1 for LAYOUT 0, 2 for LAYOUT 1. -/
def PipeFrame.xcorr (r : PipeFrame) (p layout : Nat) : Corr :=
  { r.corr p 0 0 0 0 false with kind := if layout = 0 then 1 else 2 }

/-- Stage 0 of a companion line (R229, R243). -/
def stage0Line (depth : Nat) (words : List Nat) : List Int :=
  words.map fun w => ((w % 2 ^ depth * 2 ^ (16 - depth) : Nat) : Int)

/-- The part that lines `ls` of a companion frame form, with `ticks` those of its rows (R246, R274). -/
def State.xpart (s : State) (p x : Nat) (r : PipeFrame) (ls : List XLine) (ticks : List Nat) : Part :=
  r.makePart s.store p 0 0 (r.xcorr p (s.g (F.XPT_FMT_LAYOUT x)))
    (ls.map fun l => stage0Line (s.g (F.XPT_FMT_DEPTH x)) l.words) (s.g (F.XPT_FMT_WIDTH x)) ticks (ls.map (·.stamp))
    (ls.map (·.mark)) false ⟨[], [], []⟩

/-- Objects closed by the lines released so far: a row of an RGBCN layout needs five lines below it (R248, R257, R268), so
its objects are known with them; with its last line the frame closes what is open (R298). -/
def State.xobjects (s : State) (p x : Nat) (r : PipeFrame) (f : XFrame) (done : Bool) : List Obj × Option Nat × Part :=
  let ls := f.released
  let part := s.xpart p x r ls (ls.map (·.releaseAt))
  let look := if done ∨ s.g (F.XPT_FMT_LAYOUT x) = 0 then 0 else 5
  let sure := (part.classes.length.min ((List.range part.rows).takeWhile fun j =>
    decide (lastSource part.k j + look < ls.length)).length)
  let part := { part with classes := part.classes.take sure, rows := binnedRows part.k f.lines }
  let r := { r with parts := [part] }
  let (o, spill) := segment (r.g (F.CLS_CTRL_RUN_MIN p)) (r.segRowsOf 0 done) done s.time
  (o, spill, part)

/-- Records of the objects that have closed; with the last line the frame is complete for the run (R304, R305, R309). DESIGN
CHOICE: a record whose tick under R305 has passed when its object is known, or when the last line shows that no more come,
is issued, or completes its frame, at once (log entry 132). -/
def State.xrecords (s : State) (p x : Nat) (r : PipeFrame) (f : XFrame) (done : Bool) : State :=
  let (objs, spill, part) := s.xobjects p x r f done
  let env := { r with parts := [part], objsA := objs, endA := none }
  let recs := (r.recEnv p).records env (s.pipe p).prev
  let new := recs.drop r.recs.length
  let all := r.recs ++ new
  let s := s.modFrame p r.start fun r => { r with
    objsA := objs, recs := all, overflowAt := if r.spilled then r.overflowAt else spill.toList,
    spilled := r.spilled || spill.isSome }
  let s := s.scheduleIssues p new
  if !done then s else
    let s := s.setPipe p { s.pipe p with prev := some (r.tmB, all) }
    if r.complete then s else
      let fin := if all.isEmpty then s.time + 9000 else all.foldl (fun m y => max m (max s.time y.issueAt)) 0
      (s.modFrame p r.start fun r => { r with completeAt := some fin }).at_ fin (.recordComplete p)

/-- The lines of a frame that its pipeline, stopped before the frame was whole, still takes: those that came, the line in
progress among them, not those zero-filled at the close that the stop brought (R235, R291, R532). -/
def XFrame.came (f : XFrame) (stopped : Bool) : List XLine :=
  if stopped && f.stopped then f.released.filter (·.mark != 3) else f.released

/-- Lines of a frame of port `x` go on into pipeline `p`; once the frame is whole its part reaches the taps with the status
record in its header (R233, R272, R275). Of a stopped pipeline's frame only the rows that came are written and counted,
and only objects that they close give records (R291, R305). -/
def State.xinto (s : State) (x : Nat) (f : XFrame) (done : Bool) (p : Nat) : State :=
  match (s.pipe p).frames.find? fun r => r.start == f.start && r.src == 3 + x && r.endA.isNone with
  | none => s
  | some r =>
    let stopped := !s.pipeRunning p
    let came := f.came stopped
    let s := s.xrecords p x r { f with released := came } (done && !stopped)
    if !done then s.overflowDue p else
      let n := came.length
      let part := s.xpart p x r f.released ((List.range f.released.length).map fun i => if i < n then s.time else s.time + 1)
      let s := s.modFrame p r.start fun r =>
        let r := { r with endA := some s.time, parts := [part] }
        if stopped then r.cut s.time else r
      let s := (((s.overflowDue p).rowsMeet p 0 f.start).countPart p part).runTaps p
      (if stopped then s.endStopped p else s).settle p

/-- Every line of port `x` that is due is released to the bound pipeline, in order (R230). -/
def State.releaseLines (s : State) (x : Nat) : State :=
  (s.xport x).frames.foldl (fun (s : State) (f : XFrame) =>
    let go := f.queue.filter fun l => decide (l.releaseAt ≤ s.time)
    let stay := f.queue.filter fun l => !decide (l.releaseAt ≤ s.time)
    if go.isEmpty then s else
    let g := { f with queue := stay, released := f.released ++ go }
    let done := f.closed && stay.isEmpty
    let z := s.xport x
    let frames := if done then z.frames.filter fun h => h.edge != f.edge
      else z.frames.map fun h => if h.edge = f.edge then g else h
    let s := s.setXport x { z with frames := frames }
    (s.boundTo (3 + x)).foldl (fun s p => s.xinto x g done p) s) s

/-- LINE_RELEASE (R230). -/
def execLineRelease (x : Nat) (s : State) : Result := .next (s.releaseLines (x % 2))

end Sys2Proof.Machine
end

