-- ==== Sys2Proof/Machine/Usher.lean ====
section
/-! DEFINITION. The Usher's rings, records, completions, events, waits, interrupts and notices (18_usher.md;
20_pcie_and_notices.md, R541 to R549). -/

namespace Sys2Proof.Machine

/-- Submission ring `s`, and it replaced. -/
def State.ring (s : State) (i : Nat) : SubRing := nth s.usher.rings i SubRing.idle
def State.modRing (s : State) (i : Nat) (f : SubRing → SubRing) : State :=
  { s with usher := { s.usher with rings := modNth s.usher.rings i f } }

/-- Engine `u` and it changed. -/
def State.slot (s : State) (u : Nat) : Slot := nth s.usher.slots u Slot.idle
def State.modSlot (s : State) (u : Nat) (f : Slot → Slot) : State :=
  { s with usher := { s.usher with slots := modNth s.usher.slots u f } }
def State.modJob (s : State) (u : Nat) (f : Job → Job) : State := s.modSlot u fun x => { x with job := f x.job }

/-- Indices count modulo 131,072 (R476). -/
def ringMod : Nat := 131072
def ringSub (a b : Nat) : Nat := (a % ringMod + ringMod - b % ringMod) % ringMod

/-- The first Usher cycle at or after `t` (CD33). -/
def cycleAt (t : Nat) : Nat := nextEdge 4 t

/-- The Usher runs: after boot complete, at Run, Poise and Rest, up to the commit point of an entry to Hush or deeper, and
not while the debug port holds it halted (R100, R505, R576). -/
def State.usherRuns (s : State) : Bool :=
  s.ticking && s.g F.PWR_BOOT_STATUS_STAGE == 7 && decide (s.g F.PWR_STEP_STATUS_STEP ≤ 2) &&
    !(s.g F.PWR_STEP_STATUS_PHASE == 4 && decide (3 ≤ s.g F.PWR_STEP_STATUS_ENTRY)) &&
    (!s.usher.halted || s.usher.stepAt == some s.time)

/-- The Usher dispatches: not during an entry to Hush or deeper (Table 5.3). -/
def State.dispatches (s : State) : Bool := s.usherRuns && decide (s.g F.PWR_STEP_STATUS_ENTRY < 3)

/-- The device may issue a memory request: a link in L1 leaves it for the request, one in L1.2 where the step allows it
(R543 to R545, R548). -/
def State.mayRequest (s : State) : Bool :=
  let l := s.g F.PCI_LINK_STATE
  s.busMaster && !s.pcie.d3hot && ([2, 3, 5].contains l || (l == 4 && decide (s.g F.PWR_STEP_STATUS_STEP ≤ 2) &&
    s.g F.PWR_STEP_STATUS_PHASE != 4))

/-- A request or completion on the link: L1 is left, and idleness is timed anew (R543). -/
def State.traffic (s : State) : State :=
  let s := { s with pcie := { s.pcie with lastTraffic := s.now } }
  let s := if s.g F.PCI_LINK_STATE = 3 ∨ s.g F.PCI_LINK_STATE = 4 then s.put F.PCI_LINK_STATE 2 else s
  if s.agenda.any fun e => e.2 == .l1Request then s else s.after 12000 .l1Request

/-- Bytes written to host memory over the link: ring records and the Usher's values never carry Relaxed Ordering, the data of
Porters and drains do where the host allows it (R546). -/
def State.hostPut (s : State) (a : Nat) (bs : List Byte) : State := (s.hostWrite a bs false).traffic
def State.hostPutData (s : State) (a : Nat) (bs : List Byte) : State := (s.hostWrite a bs true).traffic

/-- Bytes asked of host memory over the link (R547). -/
def State.hostGet (s : State) (a n : Nat) : State := (s.hostAsk a n).traffic

/-! ### Vectors -/

/-- Whether MSI-X's function mask is set: bit 14 of its Message Control (Table 20.2). -/
def State.functionMask (s : State) : Bool := bitN (s.pcie.config.get 0x50).toNat 30

/-- Vector `v`. -/
def State.vector (s : State) (v : Nat) : Vector32 := nth s.pcie.vectors v ⟨0, 0, true, false⟩
def State.modVector (s : State) (v : Nat) (f : Vector32 → Vector32) : State :=
  { s with pcie := { s.pcie with vectors := modNth s.pcie.vectors v f } }

/-- The message of vector `v` leaves, or waits for bus mastering (R542, R548). -/
def State.message (s : State) (v : Nat) : State :=
  if s.mayRequest then (s.send (.msix (s.vector v).addr (s.vector v).data)).traffic
  else { s with usher := { s.usher with heldVectors := s.usher.heldVectors ++ [v] } }

/-- A trigger of vector `v` (R542). -/
def State.trigVector (s : State) (v : Nat) : State :=
  let x := s.vector v
  if x.masked || s.functionMask || x.addr == 0 then s.modVector v fun x => { x with pending := true } else s.message v

/-- A pending vector that is no longer masked sends its one message (R542). -/
def State.flushVector (s : State) (v : Nat) : State :=
  let x := s.vector v
  if x.pending && !x.masked && !s.functionMask && x.addr != 0 then
    (s.modVector v fun x => { x with pending := false }).message v
  else s

/-! ### Events -/

/-- An arrival on Usher cycle `t` (R497, R509): a wait on the counter is evaluated on the next cycle. -/
def State.arrive (s : State) (t e delta : Nat) : State :=
  let s := { s with usher := { s.usher with arrivals := s.usher.arrivals ++ [(t, e % 256, delta % 2 ^ 32)] } }
  (List.range 16).foldl (fun s i => match (s.ring i).wait with
    | some w => if nth w.task.words 0 0 % 256 = 2 ∧ nth w.task.words 4 0 % 256 = e % 256 then s.at_ (t + 4) (.waitSatisfied i)
      else s
    | none => s) s

/-- Arrivals of Usher cycles up to this tick summed into their counters, seen from the next cycle on (R498, R509). -/
def State.settleEvents (s : State) : State :=
  let due := s.usher.arrivals.filter fun a => decide (a.1 ≤ s.time)
  if due.isEmpty then s else
  let s := { s with usher := { s.usher with arrivals := s.usher.arrivals.filter fun a => decide (s.time < a.1) } }
  due.foldl (fun s a => s.put (F.USH_EVENT_COUNT a.2.1) (s.g (F.USH_EVENT_COUNT a.2.1) + a.2.2)) s

/-- EVENT_ADD: the value arrives on the first Usher cycle after the write is accepted (R497). -/
def execEventAdd (e delta : Nat) (s : State) : Result := .next (s.arrive (edgeAfter 4 s.time) e delta)

/-! ### Taking -/

/-- The next take considered on an Usher cycle not before `t`. -/
def State.kickAt (s : State) (t : Nat) : State :=
  let t := cycleAt (max t s.time)
  if s.agenda.any fun e => e.2 == .recordTake && decide (e.1 + s.time ≤ s.now + t) then s else s.at_ t .recordTake

/-- The next take considered at once. -/
def State.kick (s : State) : State := s.kickAt s.time

/-- Base address and size of a ring. -/
def State.ringBase (s : State) (lo hi : Fld) : Nat := s.g lo * 64 + s.g hi * 2 ^ 32
def State.sqSize (s : State) (i : Nat) : Nat := 2 ^ s.g (F.USH_SQ_CTRL_SIZE_LOG2 i)
def State.cqSize (s : State) (c : Nat) : Nat := 2 ^ s.g (F.USH_CQ_CTRL_SIZE_LOG2 c)
def State.sqHead (s : State) (i : Nat) : Nat := s.g (F.USH_SQ_STATUS_HEAD i)

/-- Fetches of ring `i` fixed where records lie between what has been fetched and the tail (R479). -/
def State.fetchSoon (s : State) (i n : Nat) : State :=
  let r := s.ring i
  if s.on (F.USH_SQ_CTRL_EN i) && r.asked == 0 && decide (r.buf.length < ringSub r.tail (s.sqHead i)) &&
      !(s.agenda.any fun e => e.2 == .recordFetch i) then
    s.after n (.recordFetch i)
  else s

/-- A doorbell (R478). -/
def State.doorbell (s : State) (i tail : Nat) : State :=
  let r := s.ring i
  let h := s.sqHead i
  let t := tail % ringMod
  if ringSub t h ≤ s.sqSize i ∧ ringSub r.tail h ≤ ringSub t h then
    ((s.modRing i fun r => { r with tail := t }).fetchSoon i 64).kick
  else (s.bump C.USH_CNT_BAD_DOORBELL).sticky F.USH_FLAGS_BAD_DOORBELL i 0x0010 i [t, h]

/-- DOORBELL (R478). -/
def execDoorbell (s : Nat) (tail : Nat) (st : State) : Result := .next (if s < 16 then st.doorbell s tail else st)

/-- RECORD_FETCH: one read of up to 8 records, within the ring, a 4 KiB page and the host's Max Read Request Size (R479,
R547). -/
def State.fetch (s : State) (i : Nat) : State :=
  let r := s.ring i
  let have_ := r.buf.length
  let h := s.sqHead i + have_
  let slot := h % s.sqSize i
  let a := s.ringBase (F.USH_SQ_BASE_LO_ADDR i) (F.USH_SQ_BASE_HI_ADDR i) + 64 * slot
  let n := min (min (min 8 (s.maxRead / 64)) (ringSub r.tail (s.sqHead i) - have_))
    (min (s.sqSize i - slot) ((4096 - a % 4096) / 64))
  if s.on (F.USH_SQ_CTRL_EN i) && r.asked == 0 && decide (0 < n) && s.mayRequest && s.usherRuns then
    (s.modRing i fun r => { r with asked := n }).hostGet a (64 * n)
  else s

/-- RECORD_FETCH (R479). -/
def execRecordFetch (s : Nat) (st : State) : Result := .next (if s < 16 then st.fetch s else st)

/-- Ring `i` halts with `status` (R490). -/
def State.haltRing (s : State) (i status : Nat) : State :=
  if bitN (s.g F.USH_FLAGS_HALTED) i then s
  else (s.setBit F.USH_FLAGS_HALTED i).notice 0x0011 i [s.sqHead i, status]

/-- The 16 words of a record. -/
def recordWords (bs : List Byte) : List Nat := (List.range 16).map fun i => leNat ((bs.drop (4 * i)).take 4)

/-- Fetched records return, decoded 96 ticks later (Table 18.10), or the fetch fails and the ring halts (R547, R549). -/
def State.fetched (s : State) (i : Nat) (data : Option (List Byte)) : State :=
  let r := s.ring i
  if r.asked = 0 then s else
  let s := s.traffic
  match data with
  | none => ((s.modRing i fun r => { r with asked := 0 }).haltRing i 0x8008)
  | some bs =>
    let t := s.time + 96
    let new := (List.range r.asked).map fun k => (t, recordWords (bs.drop (64 * k)))
    ((s.modRing i fun r => { r with asked := 0, buf := r.buf ++ new }).fetchSoon i 0).kickAt t

/-- FETCH_RETURN (R547, R549). -/
def execFetchReturn (s : Nat) (data : Option (List Byte)) (st : State) : Result :=
  .next (if s < 16 then st.fetched s data else st)

/-- Fields of a submission record (Table 18.1). -/
def Task.w (t : Task) (i : Nat) : Nat := nth t.words i 0
def Task.op (t : Task) : Nat := t.w 0 % 256
def Task.unit (t : Task) : Nat := t.w 0 / 2 ^ 8 % 16
def Task.quiet (t : Task) : Bool := bitN (t.w 0) 13
def Task.cq (t : Task) : Nat := t.w 0 / 2 ^ 16 % 8
def Task.indirect (t : Task) (i : Nat) : Bool := decide (4 ≤ i) && bitN (t.w 2) (12 + i)
def Task.marks (t : Task) : Nat := popN (t.w 2 / 2 ^ 16) 12
/-- A 64-bit operand, low word first (R487). -/
def Task.q (t : Task) (i : Nat) : Nat := t.w i + t.w (i + 1) * 2 ^ 32

/-- Who runs an opcode: the Usher at its take, the Usher at a dispatch of its own, or a class of engines. -/
inductive RunBy where
  | usher | flight | porter | loader | calibrator | archivist | pipeline
  deriving DecidableEq, Repr

/-- All 32 bits of a word. -/
def allBits : Nat := 2 ^ 32 - 1

/-- Runner and operand bits of an opcode (Table 18.2). -/
def opSpec (op : Nat) : Option (RunBy × List (Nat × Nat)) :=
  match op with
  | 0x00 => some (.usher, [])
  | 0x01 => some (.usher, [(4, 0xFF), (5, allBits)])
  | 0x02 => some (.usher, [(4, 0x1FF), (5, allBits), (6, allBits), (7, 0xFFFF)])
  | 0x03 => some (.usher, [(4, allBits), (5, allBits), (6, 0xF), (8, allBits), (9, allBits), (10, allBits), (11, allBits),
      (12, allBits), (13, 0xFFFF)])
  | 0x04 => some (.usher, [(4, allBits), (5, allBits), (6, 3), (8, allBits), (9, allBits)])
  | 0x10 => some (.porter, [(4, allBits), (5, allBits), (6, allBits), (7, allBits), (8, 3), (9, allBits), (10, allBits),
      (11, allBits), (12, allBits)])
  | 0x11 => some (.porter, [(6, allBits), (7, allBits), (8, 2), (9, allBits), (10, allBits), (12, allBits), (13, allBits)])
  | 0x12 => some (.porter, [(4, 0x3F), (6, allBits), (7, allBits), (9, allBits), (10, allBits), (11, 1)])
  | 0x20 => some (.loader, [(4, 0x1FF), (6, allBits), (7, allBits), (8, 1), (9, allBits)])
  | 0x30 => some (.calibrator, [(4, 0xF), (5, allBits), (6, 0xFFFF)])
  | 0x31 => some (.calibrator, [(4, 3), (5, allBits), (6, 0xFFFF)])
  | 0x40 => some (.archivist, [(4, allBits), (5, allBits), (6, allBits), (7, allBits)])
  | 0x41 => some (.archivist, [(4, allBits), (5, allBits), (6, allBits), (7, allBits)])
  | 0x50 => some (.pipeline, [(4, allBits)])
  | 0x51 => some (.flight, [(4, 0xF)])
  | 0x52 => some (.flight, [])
  | _ => none

/-- Engines of a class, by number, and whether UNIT 15 may name any of them (Table 18.2). -/
def RunBy.engines : RunBy → List Nat × Bool
  | .porter => ([0, 1, 2, 3], true)
  | .loader => ([4, 5], true)
  | .calibrator => ([6], false)
  | .archivist => ([7], false)
  | .pipeline => ([8, 9, 10, 11], false)
  | _ => ([], false)

/-- A UNIT that the opcode allows (R486). -/
def unitOk (by_ : RunBy) (u : Nat) : Bool :=
  let (l, any) := by_.engines
  match l with
  | [] => u == 0
  | _ => decide (u < l.length) || (any && u == 15)

/-- Operand bits of word `i`. -/
def opMask (m : List (Nat × Nat)) (i : Nat) : Nat := ((m.find? fun x => x.1 == i).map (·.2)).getD 0

/-- A row count and pitch of a 2D task (R513). -/
def rowsOk (width rows pitch : Nat) : Bool :=
  decide (1 ≤ width) && decide (width ≤ 65536) && decide (1 ≤ rows) && decide (rows ≤ 65536) &&
  (decide (rows ≤ 1) || decide (width ≤ pitch))

/-- An address in the parameter slots of Store bank 2 (R492, Table 21.2). -/
def inSlots (a n : Nat) : Bool := decide (0x3000000 ≤ a) && decide (a + n ≤ 0x3040000)

/-- An address in Store bank 1. -/
def inBank1 (a n : Nat) : Bool := decide (0x1800000 ≤ a) && decide (a + n ≤ 0x3000000)

/-- The ranges of an opcode's operands, each with the words it rests on (R486, R499, R510, R513 to R530). -/
def rangeChecks (t : Task) : List (List Nat × Bool) :=
  match t.op with
  | 0x03 => [([4, 5], t.q 4 % 8 == 0), ([4, 5, 6], t.w 6 % 2 == 0 || inSlots (t.q 4) 8)]
  | 0x04 =>
    let n := if bitN (t.w 6) 1 then 8 else 4
    [([4, 5, 6], t.w 6 % 2 == 0 || inBank1 (t.q 4) n || inSlots (t.q 4) n)]
  | 0x10 => [([8], t.w 8 % 4 != 0), ([9, 10, 11], rowsOk (t.w 9) (t.w 10) (t.w 11)),
      ([9, 10, 12], rowsOk (t.w 9) (t.w 10) (t.w 12))]
  | 0x11 => [([9, 10, 12], rowsOk (t.w 9) (t.w 10) (t.w 12))]
  | 0x12 => [([4], decide (8 ≤ t.w 4 % 64)), ([6, 7], t.q 6 % 16 == 0), ([9], t.w 9 % 16 == 0 && decide (32 ≤ t.w 9))]
  | 0x20 =>
    let kind := t.w 4 % 16
    let target := t.w 4 / 16 % 16
    [([4], decide (kind ≤ 4) && (if kind ≤ 2 then decide (target < 4) else kind == 3 || target == 0))]
  | 0x30 => [([4], decide (t.w 4 / 4 % 4 < 3)), ([5], decide (1 ≤ t.w 5) && decide (t.w 5 ≤ 256))]
  | 0x31 => [([5], decide (1 ≤ t.w 5) && decide (t.w 5 ≤ 256))]
  | 0x40 | 0x41 => [([4, 5], decide (1 ≤ t.w 5) && decide (t.w 4 + t.w 5 ≤ 49152)), ([6, 7], t.q 6 % 64 == 0)]
  | 0x50 => [([4], decide (1 ≤ t.w 4))]
  | _ => []

/-- The checks at the take: listed bits, UNIT, slots named, ranges of direct operands; the status found (R486, R510). -/
def Task.takeCheck (t : Task) : Option Nat :=
  match opSpec t.op with
  | none => some 0x8001
  | some (by_, m) =>
    let common := t.w 0 &&& 0x00073FFF == t.w 0 && t.w 2 &&& 0x0FFF01FF == t.w 2 && t.w 3 &&& 0x8FFF == t.w 3
    let words := (List.range 12).all fun k =>
      let i := k + 4
      if t.indirect i then decide (t.w i < 2 ^ 16) && opMask m i != 0 else t.w i &&& opMask m i == t.w i
    let ranges := (rangeChecks t).all fun c => c.1.any (fun i => t.indirect i) || c.2
    if common && unitOk by_ t.unit && words && ranges then none else some 0x8002

/-- The checks after indirect operands have been replaced (R492, R510). -/
def Task.dispatchCheck (t : Task) : Option Nat :=
  match opSpec t.op with
  | none => some 0x8001
  | some (_, m) =>
    let words := (List.range 12).all fun k => t.w (k + 4) &&& opMask m (k + 4) == t.w (k + 4)
    if words && (rangeChecks t).all (·.2) then none else some 0x8002

/-- The task with each indirect operand replaced by the slot word it names (R492). -/
def State.resolve (s : State) (t : Task) : Task :=
  { t with words := (List.range 16).map fun i =>
      if t.indirect i then
        let v := t.w i
        leNat (s.store.read (0x3000000 + 64 * (v % 4096) + 4 * (v / 4096 % 16)) 4)
      else t.w i }

/-- Ticks that the replacement takes (R492). -/
def Task.resolveTicks (t : Task) : Nat := if t.marks = 0 then 0 else 160 + 8 * t.marks

/-- Slots in use and reserved of completion ring `c` leave room for one more (R494). -/
def State.cqRoom (s : State) (c : Nat) : Bool :=
  decide (ringSub (s.g (F.USH_CQ_STATUS_TAIL c)) (s.g (F.USH_CQ_HEAD_HEAD c)) + s.g (F.USH_CQ_RESV_RESERVED c) < s.cqSize c)

/-- What keeps the head record of ring `i` from being taken (R482): 0 nothing, 1 no record ready, 2 FENCE or engine,
3 its completion ring is full, 4 its completion ring is not enabled. -/
def State.headState (s : State) (i : Nat) : Nat :=
  let r := s.ring i
  if !s.on (F.USH_SQ_CTRL_EN i) || bitN (s.g F.USH_FLAGS_HALTED) i || r.wait.isSome || decide (s.time < r.freeAt) then 1
  else match r.buf with
    | [] => 1
    | (t, w) :: _ =>
      let k : Task := ⟨i, 0, w, 0, 0, 0⟩
      if s.time < t then 1
      else if bitN (k.w 0) 12 ∧ 0 < r.outstanding then 2
      else if !s.on (F.USH_CQ_CTRL_EN k.cq) then 4
      else
        let full := match opSpec k.op with
          | none => false
          | some (by_, _) =>
            let (l, _) := by_.engines
            let free := l.filter fun u => (s.slot u).deck.isNone
            if l.isEmpty || !unitOk by_ k.unit then false
            else if k.unit = 15 then free.isEmpty
            else !(free.contains (l.getD k.unit 12))
        if full then 2 else if !s.cqRoom k.cq then 3 else 0

/-- A ring that the round robin favours more than another: priority, then distance from the ring last served (R482). -/
def State.ringBefore (s : State) (a b : Nat) : Bool :=
  let pa := s.g (F.USH_SQ_CTRL_PRIO a)
  let pb := s.g (F.USH_SQ_CTRL_PRIO b)
  let d := fun i => (i + 15 - s.usher.lastServed) % 16
  decide (pb < pa) || (pa == pb && decide (d a ≤ d b))

/-! ### Completion -/

/-- A completion record posted in its ring, with its signal (R480, R494, R495). -/
def State.postCompletion (s : State) (c : Nat) (w : List Nat) : State :=
  let k := s.g (F.USH_CQ_CTRL_SIZE_LOG2 c)
  let t := s.g (F.USH_CQ_STATUS_TAIL c)
  let a := s.ringBase (F.USH_CQ_BASE_LO_ADDR c) (F.USH_CQ_BASE_HI_ADDR c) + 64 * (t % 2 ^ k)
  let w0 := nth w 0 0 + (if t / 2 ^ k % 2 = 0 then 2 ^ 31 else 0)
  let s := (s.hostPut (a + 4) ((w.drop 1).flatMap fun x => leBytes x 4)).hostPut a (leBytes w0 4)
  let s := (s.put (F.USH_CQ_STATUS_TAIL c) ((t + 1) % ringMod)).put (F.USH_CQ_RESV_RESERVED c)
    (s.g (F.USH_CQ_RESV_RESERVED c) - 1)
  let (n, first) := nth s.usher.signals c (0, 0)
  let set := fun (s : State) (v : Nat × Nat) =>
    { s with usher := { s.usher with signals := modNth s.usher.signals c fun _ => v } }
  if max 1 (s.g (F.USH_CQ_IRQ_COUNT c)) ≤ n + 1 then (set s (0, 0)).trigVector (s.g (F.USH_CQ_CTRL_VECTOR c))
  else
    let us := s.g (F.USH_CQ_IRQ_TIME_US c)
    let s := set s (n + 1, if n = 0 then s.time else first)
    if n = 0 ∧ us ≠ 0 then s.after (1500 * us) .vectorTimer else s

/-- Completions that are due leave: result words first, then the record, then the event (R493, R494, R497). -/
def State.writeCompletions (s : State) : State :=
  let due := s.usher.done
  let s := { s with usher := { s.usher with done := [] } }
  let s := due.foldl (fun (s : State) (d : Done) =>
    let go := decide (d.due ≤ s.time) && (d.quiet || (s.on (F.USH_CQ_CTRL_EN d.cq) && s.mayRequest)) && s.usherRuns &&
      !(s.usher.done.any fun e => e.cq == d.cq)
    if !go then { s with usher := { s.usher with done := s.usher.done ++ [d] } }
    else
      let s := match d.res with
        | some i => s.storeWrite (0x3000000 + 64 * i) ((d.words.drop 8).flatMap fun x => leBytes x 4)
        | none => s
      let s := if d.quiet then s.put (F.USH_CQ_RESV_RESERVED d.cq) (s.g (F.USH_CQ_RESV_RESERVED d.cq) - 1)
        else s.postCompletion d.cq d.words
      match d.event with
      | some e => s.arrive (cycleAt s.time) e 1
      | none => s) s
  s.kick

/-- COMPLETION_WRITE (R494). -/
def execCompletionWrite (s : State) : Result := .next s.writeCompletions

/-- A status with bit 15 at 1 is a failure (R488). -/
def failed (status : Nat) : Bool := bitN status 15

/-- The ring of a task has been reset by a host-side reset: it completes nothing (R506). -/
def Task.orphan (t : Task) : Bool := t.sq == 16

/-- A task completes: its record, its ring's halt (R488, R490, R494). `halts` decides whether this failure halts. -/
def State.completeTask (s : State) (t : Task) (unit status : Nat) (result : List Nat) (halts : Bool) : State :=
  if t.orphan then s else
  let s := s.modRing t.sq fun r => { r with outstanding := r.outstanding - 1 }
  let s := if failed status then s.bump C.USH_CNT_FAIL else s
  let s := if failed status && halts then s.haltRing t.sq status else s
  let words := [t.op + unit % 16 * 2 ^ 8 + t.sq * 2 ^ 12, t.w 1, status, t.head, t.start % 2 ^ 32, t.start / 2 ^ 32,
    s.time % 2 ^ 32, s.time / 2 ^ 32] ++ (List.range 8).map fun i => nth result i 0
  let due := max s.time ((s.time + 24) / 4 * 4)
  let d : Done := ⟨due, t.cq, words, if bitN (t.w 3) 15 then some (t.w 3 % 4096) else none,
    if bitN (t.w 2) 8 && !failed status then some (t.w 2 % 256) else none, t.quiet && !failed status⟩
  (({ s with usher := { s.usher with done := s.usher.done ++ [d] } } : State).at_ due .completionWrite).kick

/-- A task completes and, on a failure, halts its ring as HALT_ERR says (R490). -/
def State.finish (s : State) (t : Task) (unit status : Nat) (result : List Nat) : State :=
  s.completeTask t unit status result (s.on (F.USH_SQ_CTRL_HALT_ERR t.sq))

/-- Byte ranges of the enabled rings (R481). -/
def State.ringRanges (s : State) : List (Nat × Nat) :=
  let of := fun (n : Nat) (en : Nat → Fld) (lo hi k : Nat → Fld) =>
    ((List.range n).filter fun i => s.on (en i)).map fun i =>
      let b := s.ringBase (lo i) (hi i)
      (b, b + 64 * 2 ^ s.g (k i))
  of 16 F.USH_SQ_CTRL_EN F.USH_SQ_BASE_LO_ADDR F.USH_SQ_BASE_HI_ADDR F.USH_SQ_CTRL_SIZE_LOG2 ++
  of 8 F.USH_CQ_CTRL_EN F.USH_CQ_BASE_LO_ADDR F.USH_CQ_BASE_HI_ADDR F.USH_CQ_CTRL_SIZE_LOG2 ++
  of 2 F.USH_NQ_CTRL_EN F.USH_NQ_BASE_LO_ADDR F.USH_NQ_BASE_HI_ADDR F.USH_NQ_CTRL_SIZE_LOG2

/-- A host destination range meets an enabled ring (R481). -/
def State.hitsRing (s : State) (a n : Nat) : Bool :=
  s.ringRanges.any fun r => decide (r.1 < a + n) && decide (a < r.2)

/-! ### Waits -/

/-- The wait of ring `i` ends (R490, R496). -/
def State.endWait (s : State) (i : Nat) (w : Wait) (status : Nat) (halts : Bool) : State :=
  let s := s.modRing i fun r => { r with wait := none, freeAt := edgeAfter 4 s.time }
  let s := s.withdraw fun c => c == .valuePoll i
  let s := if status = 0x8003 then s.bump C.USH_CNT_TIMEOUT else s
  let result := if w.task.op = 3 then [w.last % 2 ^ 32, w.last / 2 ^ 32] else []
  (s.completeTask w.task w.task.unit status result halts).kickAt (edgeAfter 4 s.time)

/-- CONTINUE of a wait (Table 18.2). -/
def Wait.continues (w : Wait) : Bool := if w.task.op = 2 then bitN (w.task.w 4) 8 else bitN (w.task.w 6) 3

/-- The comparison of a WAIT_VALUE (R499). -/
def Wait.test (w : Wait) (v : Nat) : Bool :=
  let t := w.task.q 8
  let x := v &&& w.task.q 10
  match w.task.w 6 / 2 % 4 with
  | 0 => decide (t ≤ x)
  | 1 => decide ((x + 2 ^ 64 - t) % 2 ^ 64 < 2 ^ 63)
  | 2 => x == t
  | _ => x != t

/-- One evaluation of the wait of ring `i` with evaluation tick `at_`: the condition first, then the deadline (R496,
R508). -/
def State.judgeWait (s : State) (i : Nat) (w : Wait) (ok : Bool) (at_ : Nat) : State :=
  if ok then s.endWait i w 0 false
  else if w.deadline.any fun d => decide (d ≤ at_) then s.endWait i w 0x8003 (!w.continues)
  else s

/-- The wait of ring `i` evaluated now: a counter, or a Store value, which is read again 16 ticks later (R498, R499). -/
def State.evalWait (s : State) (i : Nat) : State :=
  match (s.ring i).wait with
  | none => s
  | some w =>
    if !w.live || !s.usherRuns then s
    else if w.task.op = 2 then
      let c := s.g (F.USH_EVENT_COUNT (w.task.w 4 % 256))
      s.judgeWait i w (decide ((c + 2 ^ 32 - w.task.w 5) % 2 ^ 32 < 2 ^ 31)) s.time
    else if bitN (w.task.w 6) 0 then
      let (_, s) := s.storeReadCheck (w.task.q 4) 8
      let v := leNat (s.store.read (w.task.q 4) 8)
      let w := { w with last := v }
      let s := (s.modRing i fun r => { r with wait := some w }).judgeWait i w (w.test v) s.time
      if (s.ring i).wait.isSome && !(s.agenda.any fun e => e.2 == .waitSatisfied i) then s.after 16 (.waitSatisfied i) else s
    else s

/-- WAIT_SATISFIED: an evaluation (R496). -/
def execWaitSatisfied (s : Nat) (st : State) : Result := .next (if s < 16 then st.evalWait s else st)

/-- WAIT_TIMEOUT: the first Usher cycle at or after the deadline; a wait on host memory is judged by its reads (R496,
R499). -/
def State.timeWait (s : State) (i : Nat) : State :=
  match (s.ring i).wait with
  | some w =>
    match w.deadline with
    | some d => if s.time < d then s.at_ (cycleAt d) (.waitTimeout i) else s.evalWait i
    | none => s
  | none => s

/-- WAIT_TIMEOUT (R496). -/
def execWaitTimeout (s : Nat) (st : State) : Result := .next (if s < 16 then st.timeWait s else st)

/-- A host read of the wait of ring `i` issued, and the next one fixed (R499, R548). -/
def State.pollValue (s : State) (i : Nat) : State :=
  match (s.ring i).wait with
  | some w =>
    if !w.live || w.task.op != 3 || bitN (w.task.w 6) 0 then s
    else if !(s.mayRequest && s.usherRuns) then s.modRing i fun r => { r with wait := some { w with held := true } }
    else
      let s := s.modRing i fun r => { r with wait := some { w with held := false, issued := w.issued ++ [s.time] } }
      (s.hostGet (w.task.q 4) 8).after (s.g F.USH_POLL_TICKS) (.valuePoll i)
  | none => s

/-- VALUE_POLL (R499). -/
def execValuePoll (s : Nat) (st : State) : Result := .next (if s < 16 then st.pollValue s else st)

/-- A read of the wait of ring `i` returns; its evaluation tick is that of its issue (R499). -/
def State.pollBack (s : State) (i : Nat) (v : Option Nat) : State :=
  match (s.ring i).wait with
  | some w =>
    match w.issued with
    | [] => s
    | t :: l =>
      let s := s.traffic
      match v with
      | none => s.endWait i { w with issued := l } 0x8008 (s.on (F.USH_SQ_CTRL_HALT_ERR i))
      | some v =>
        let v := v % 2 ^ 64
        let w := { w with issued := l, last := v }
        (s.modRing i fun r => { r with wait := some w }).judgeWait i w (w.test v) t
  | none => s

/-- POLL_RETURN (R499). -/
def execPollReturn (s : Nat) (v : Option Nat) (st : State) : Result := .next (if s < 16 then st.pollBack s v else st)

/-- The wait of ring `i` begins with its operands replaced: its first evaluation, its deadline (R496, R498, R499). -/
def State.startWait (s : State) (i : Nat) (t : Task) : State :=
  let timeout := if t.op = 2 then t.w 6 + t.w 7 * 2 ^ 32 else t.w 12 + t.w 13 * 2 ^ 32
  let dl := if timeout = 0 then none else some (t.taken + timeout)
  let w : Wait := ⟨t, true, dl, 0, [], false⟩
  let s := s.modRing i fun r => { r with wait := some w }
  let s := match dl with
    | some d => s.at_ (cycleAt d) (.waitTimeout i)
    | none => s
  if t.op = 3 ∧ !bitN (t.w 6) 0 then s.after 0 (.valuePoll i) else s.evalWait i

/-- Waits looked at again after a climb, on the first Usher cycle (R505). -/
def State.wakeWaits (s : State) : State :=
  (List.range 16).foldl (fun s i => match (s.ring i).wait with
    | some w => if w.live then
        if w.task.op = 3 ∧ !bitN (w.task.w 6) 0 then s.after 0 (.valuePoll i)
        else s.at_ (cycleAt s.time) (.waitSatisfied i)
      else s
    | none => s) s

/-! ### Ring control -/

/-- RING_DISABLE: taking stops; on-deck tasks and a wait of the ring are abandoned (R491). -/
def State.disableRing (s : State) (i : Nat) : State :=
  if !s.on (F.USH_SQ_CTRL_EN i) then s else
  let s := s.put (F.USH_SQ_CTRL_EN i) 0
  let s := s.modRing i fun r => { r with buf := [], asked := 0 }
  let s := overIdx (fun u s => match (s.slot u).deck with
    | some t => if t.sq = i then (s.modSlot u fun x => { x with deck := none }).completeTask t t.unit 0x8004 [] false else s
    | none => s) 12 s
  match (s.ring i).wait with
  | some w => s.endWait i w 0x8004 false
  | none => s

/-- RING_DISABLE (R491). -/
def execRingDisable (s : Nat) (st : State) : Result := .next (if s < 16 then st.disableRing s else st)

/-- Ring `i` enabled. -/
def State.enableRing (s : State) (i : Nat) : State := ((s.put (F.USH_SQ_CTRL_EN i) 1).hostReturns.fetchSoon i 64).kick

/-- RESUME: a halt ends and taking continues from the head (R490). -/
def State.resumeRing (s : State) (i : Nat) : State :=
  if bitN (s.g F.USH_FLAGS_HALTED) i then ((s.clearBit F.USH_FLAGS_HALTED i).fetchSoon i 64).kick else s

/-- RESUME (R490). -/
def execResume (s : Nat) (st : State) : Result := .next (if s < 16 then st.resumeRing s else st)

/-! ### Notices -/

/-- Room in notice ring `n`. -/
def State.nqRoom (s : State) (n : Nat) : Bool :=
  decide (ringSub (s.g (F.USH_NQ_STATUS_TAIL n)) (s.g (F.USH_NQ_HEAD_HEAD n)) < 2 ^ s.g (F.USH_NQ_CTRL_SIZE_LOG2 n))

/-- One notice written into ring `n`, with its signal: NQ0 for every notice, NQ1 with moderation (R480, R489, R495). -/
def State.writeNotice (s : State) (n : Nat) (x : Notice) : State :=
  let k := s.g (F.USH_NQ_CTRL_SIZE_LOG2 n)
  let t := s.g (F.USH_NQ_STATUS_TAIL n)
  let a := s.ringBase (F.USH_NQ_BASE_LO_ADDR n) (F.USH_NQ_BASE_HI_ADDR n) + 64 * (t % 2 ^ k)
  let w0 := x.code + x.unit % 256 * 2 ^ 16 + (if t / 2 ^ k % 2 = 0 then 2 ^ 31 else 0)
  let rest := [x.nseq, x.stamp % 2 ^ 32, x.stamp / 2 ^ 32] ++ (List.range 12).map fun i => nth x.payload i 0
  let s := (s.hostPut (a + 4) (rest.flatMap fun v => leBytes v 4)).hostPut a (leBytes w0 4)
  let s := s.put (F.USH_NQ_STATUS_TAIL n) ((t + 1) % ringMod)
  let v := s.g (F.USH_NQ_CTRL_VECTOR n)
  if n = 0 then s.trigVector v
  else
    let r := nth s.notices n NoticeRing.idle
    let set := fun (s : State) (c f : Nat) =>
      { s with notices := modNth s.notices n fun r => { r with unsignalled := c, firstUnsignalled := f } }
    if max 1 (s.g F.USH_NQ_IRQ_COUNT) ≤ r.unsignalled + 1 then (set s 0 0).trigVector v
    else
      let us := s.g F.USH_NQ_IRQ_TIME_US
      let s := set s (r.unsignalled + 1) (if r.unsignalled = 0 then s.time else r.firstUnsignalled)
      if r.unsignalled = 0 ∧ us ≠ 0 then s.after (1500 * us) .vectorTimer else s

/-- Held notices posted while ring `n` has room, the count of lost ones first (R504): at most `fuel`. -/
def State.postNotices (s : State) (n : Nat) : Nat → State
  | 0 => s
  | fuel + 1 =>
    if !(s.on (F.USH_NQ_CTRL_EN n) && s.nqRoom n && s.mayRequest && s.usherRuns) then s
    else
      let r := nth s.notices n NoticeRing.idle
      if r.lost ≠ 0 then
        let x : Notice := ⟨0x0012, n, r.nseq, s.time, [r.lost]⟩
        let s := { s with notices := modNth s.notices n fun r => { r with lost := 0, nseq := (r.nseq + 1) % 2 ^ 32 } }
        (s.writeNotice n x).postNotices n fuel
      else match r.held with
        | [] => s
        | x :: l =>
          let s := { s with notices := modNth s.notices n fun r => { r with held := l } }
          (s.writeNotice n x).postNotices n fuel

/-- Every notice that can be posted now. -/
def State.flushNotices (s : State) (n : Nat) : State := s.postNotices n 66

/-- NOTICE_POST (R504). -/
def execNoticePost (n : Nat) (s : State) : Result := .next (if n < 2 then s.flushNotices n else s)

/-- Notices put before those held, with the next NSEQ numbers (R117, R504). -/
def State.noticesFirst (s : State) (n : Nat) (l : List (Nat × List Nat)) : State :=
  let r := nth s.notices n NoticeRing.idle
  let new := (List.range l.length).map fun i =>
    let x := nth l i (0, [])
    (⟨x.1, 0, (r.nseq + i) % 2 ^ 32, s.time, x.2⟩ : Notice)
  { s with notices := modNth s.notices n fun r => { r with held := new ++ r.held, nseq := (r.nseq + l.length) % 2 ^ 32 } }

/-- The notices of R117 that the first enable of ring `n` owes: the boot report on NQ1, then the urgent ones on NQ0. -/
def State.owedNotices (s : State) (n : Nat) : State :=
  if n = 1 ∧ s.boot.reportDue then
    let s := s.noticesFirst 1 [(0x0410, [(s.regs.get F.PWR_RESET_CAUSE).toNat, (s.regs.get F.PWR_BOOT_STATUS).toNat,
      (s.regs.get F.PWR_BOOT_US).toNat])]
    { s with boot := { s.boot with reportDue := false } }
  else if n = 0 ∧ s.boot.urgentDue ∧ !s.boot.reportDue then
    let cal := if s.g F.PWR_BOOT_STATUS_CAL = 2 then [(0x8410, [(s.regs.get F.PWR_BOOT_STATUS).toNat])] else []
    let dog := if s.on F.PWR_RESET_CAUSE_WDOG then [(0x8411, [s.ctr C.PWR_CNT_WDOG])] else []
    let s := s.noticesFirst 0 (cal ++ dog)
    { s with boot := { s.boot with urgentDue := false } }
  else s

/-- NOTICE_RING_ENABLE (R504, R117). DESIGN CHOICE: where NQ0 is enabled already when NQ1 is first enabled after a reset, the
urgent notices owed are posted at once, after the boot report; the spec names only an enable of NQ0 that comes later (log
entry 128). -/
def State.enableNotices (s : State) (n : Nat) : State :=
  let s := (s.put (F.USH_NQ_CTRL_EN n) 1).owedNotices n
  let s := if n = 1 ∧ s.on (F.USH_NQ_CTRL_EN 0) then (s.owedNotices 0).flushNotices 0 else s
  s.flushNotices n

/-- NOTICE_RING_ENABLE (R504). -/
def execNoticeRingEnable (n : Nat) (s : State) : Result := .next (if n < 2 then s.enableNotices n else s)

/-- Whether a ring with `n` records posted since it last signalled, the first on tick `t`, signals now: COUNT of them, or
TIME_US since the first (R495). -/
def State.signalsNow (s : State) (n t count us : Nat) : Bool :=
  decide (0 < n) && (decide (max 1 count ≤ n) || (us != 0 && decide (t + 1500 * us ≤ s.time)))

/-- VECTOR_TIMER: rings whose moderation is over signal (R495). -/
def State.vectorTimers (s : State) : State :=
  let s := overIdx (fun c s =>
    let (n, t) := nth s.usher.signals c (0, 0)
    if s.signalsNow n t (s.g (F.USH_CQ_IRQ_COUNT c)) (s.g (F.USH_CQ_IRQ_TIME_US c)) then
      ({ s with usher := { s.usher with signals := modNth s.usher.signals c fun _ => (0, 0) } } : State).trigVector
        (s.g (F.USH_CQ_CTRL_VECTOR c))
    else s) 8 s
  let r := nth s.notices 1 NoticeRing.idle
  if s.signalsNow r.unsignalled r.firstUnsignalled (s.g F.USH_NQ_IRQ_COUNT) (s.g F.USH_NQ_IRQ_TIME_US) then
    ({ s with notices := modNth s.notices 1 fun r => { r with unsignalled := 0, firstUnsignalled := 0 } } : State).trigVector
      (s.g (F.USH_NQ_CTRL_VECTOR 1))
  else s

/-- The timer of a ring with `n` records not yet signalled, the first posted on tick `t`. -/
def State.timerAgain (s : State) (n t us : Nat) : State :=
  if 0 < n ∧ us ≠ 0 then s.at_ (t + 1500 * us) .vectorTimer else s

/-- COUNT or TIME_US written: rings that meet the new trigger signal at once, the timers of the others run anew (R495). -/
def State.moderated (s : State) : State :=
  let s := s.vectorTimers
  let s := overIdx (fun c s =>
    let (n, t) := nth s.usher.signals c (0, 0)
    s.timerAgain n t (s.g (F.USH_CQ_IRQ_TIME_US c))) 8 s
  let r := nth s.notices 1 NoticeRing.idle
  s.timerAgain r.unsignalled r.firstUnsignalled (s.g F.USH_NQ_IRQ_TIME_US)

/-- VECTOR_TIMER (R495). -/
def execVectorTimer (s : State) : Result := .next s.vectorTimers

/-- A head that does not pass the tail or move back (R480). -/
def headOk (tail old new : Nat) : Bool := decide (ringSub new old ≤ ringSub tail old)

/-- HEAD_WRITE of completion ring `r`, or of notice ring `r - 8` (R480); a head that breaks the rule is a refused write
(R91). -/
def State.writeHead (s : State) (r head : Nat) : State :=
  if r < 8 then
    if headOk (s.g (F.USH_CQ_STATUS_TAIL r)) (s.g (F.USH_CQ_HEAD_HEAD r)) head then
      (s.put (F.USH_CQ_HEAD_HEAD r) head).kick else s.refuse (F.USH_CQ_HEAD r) 6
  else
    let n := r - 8
    if 2 ≤ n then s
    else if headOk (s.g (F.USH_NQ_STATUS_TAIL n)) (s.g (F.USH_NQ_HEAD_HEAD n)) head then
      (s.put (F.USH_NQ_HEAD_HEAD n) head).flushNotices n
    else s.refuse (F.USH_NQ_HEAD n) 6

/-- HEAD_WRITE (R480). -/
def execHeadWrite (r head : Nat) (s : State) : Result := .next (s.writeHead r head)

end Sys2Proof.Machine
end

