-- ==== Sys2Proof/Machine/Tasks.lean ====
section
/-! DEFINITION. What every engine task has in common: its dispatch and its end (18_usher.md, R483 to R485;
19_engines.md, R510 to R512, R532). -/

namespace Sys2Proof.Machine

/-- Number of an engine within its class (Table 18.8). -/
def unitOf (u : Nat) : Nat := if u < 4 then u else if u < 6 then u - 4 else if u < 8 then 0 else u - 8

/-- The on-deck task of engine `u`, if it is free, fixed for dispatch (R484). -/
def State.dispatchSoon (s : State) (u : Nat) : State :=
  let x := s.slot u
  match x.deck, x.running with
  | some t, none => s.at_ (max t.ready x.freeAt + 8) (.dispatch u)
  | _, _ => s

/-- On-deck tasks looked at again where dispatching has resumed. -/
def State.dispatchAll (s : State) : State := overIdx (fun u s => s.dispatchSoon u) 12 s

/-- The running task of engine `u` ends (R484, R506, R512, R531, R532). -/
def State.endTask (s : State) (u status : Nat) (result : List Nat) : State :=
  match (s.slot u).running with
  | none => s
  | some t =>
    let s := s.modSlot u fun x => { x with running := none, freeAt := s.time, job := Job.idle }
    let s := s.withdraw fun c => match c with
      | .taskEnd k _ _ => k == u
      | .dispatch k => k == u
      | _ => false
    let s := if u < 8 ∧ !t.orphan then s.bump (C.ENG_CNT_TASKS u) else s
    let s := if u < 8 ∧ (t.orphan ∨ status = 0x8004) then s.bump (C.ENG_CNT_ABANDON u) else s
    (s.finish t (unitOf u) status result).dispatchSoon u

/-- A task that reads host memory (R549). -/
def Task.readsHost (t : Task) : Bool := (t.op == 0x10 || t.op == 0x20) && t.w 8 % 2 == 0

/-- A task that writes host memory. -/
def Task.writesHost (t : Task) : Bool :=
  t.op == 0x12 || ((t.op == 0x10 || t.op == 0x11) && !bitN (t.w 8) 1)

/-- The host destination range of a task (R481). -/
def Task.hostDest (t : Task) : Option (Nat × Nat) :=
  if t.op = 0x12 then some (t.q 6, t.w 9)
  else if t.writesHost then some (t.q 6, (t.w 10 - 1) * t.w 12 + t.w 9) else none

/-- Whether a target of LOAD_BANK is in use (Table 19.5). -/
def State.bankInUse (s : State) (kind target bank : Nat) : Bool :=
  match kind with
  | 0 => s.pipeRuns target && s.e (F.PIP_CORR_CTRL_TBL_BANK target) == bank
  | 1 => s.pipeRuns target && s.e (F.CLS_CTRL_BANK target) == bank
  | 2 => s.pipeRuns target && s.e (F.PIP_TAP_CURVE_SEL target) == bank
  | 3 => (s.eng target).running &&
      (if (s.eng target).starting then s.g (F.PIO_EXEC_BANK target) else (s.eng target).bank) == bank
  | _ => (List.range 4).any fun p => s.pipeRuns p && s.e (F.PIP_CORR_CTRL_CAL_AREA p) == bank

/-- Store address of calibration area `a` (Table 21.2). -/
def areaBase (a : Nat) : Nat := if a = 0 then 0x4800000 else 0x5300000

/-- Bytes of a calibration area (R566). -/
def areaSize : Nat := 11042048

/-- The rate of Porter `u` on the host link, in MB/s (R516, Table 19.6). -/
def State.porterRate (s : State) (u : Nat) : Nat :=
  let c := s.g (F.ENG_PORTER_RATE_MBPS u)
  if c = 0 then 2000 else min 2000 c

/-- Ticks in which `n` bytes move at `mbps` MB/s (R15). -/
def moveTicks (n mbps : Nat) : Nat := ceilDiv (n * 1500) mbps

end Sys2Proof.Machine
end

