-- ==== Sys2Proof/Machine/Archivist.lean ====
section
/-! DEFINITION. The Archivist and the Archive (19_engines.md, R526 to R529; 21_store_archive_security.md, R561 to R565,
R573, R575, R577). -/

namespace Sys2Proof.Machine

/-- The firmware lock and the lock of all blocks in effect (R575; Table 3.2, STRAP2; R86). -/
def State.lockFw (s : State) : Bool := decide (s.g F.STP_CONFIG_ARC_LOCK = 1) || s.on F.STP_SOFT_LOCK_ARC_FW
def State.lockAll (s : State) : Bool := decide (2 ≤ s.g F.STP_CONFIG_ARC_LOCK) || s.on F.STP_SOFT_LOCK_ARC_ALL

/-- A range of blocks from `b` upward meets a lock in effect: every locked area is the lower end of the Archive (Table
21.7). -/
def State.arcLocked (s : State) (b : Nat) : Bool :=
  decide (b < 64) || s.lockAll || (s.lockFw && decide (b < 5760))

/-- The 256 bytes of block `b`. -/
def State.block (s : State) (b : Nat) : List Byte := s.archive.read (256 * b) 256

/-- The wear of block `b` (R563). -/
def State.wearOf (s : State) (b : Nat) : Nat := (s.wear.get b).toNat

/-- One write attempt at block `b` counted in its wear, before it begins; the notice at one million (R528, R563). -/
def State.wearUp (s : State) (b : Nat) : State :=
  let n := min (s.wearOf b + 1) (2 ^ 32 - 1)
  let s := { s with wear := s.wear.set b (BitVec.ofNat 32 n) }
  if n = 1000000 then s.notice 0x1410 0 [b, n] else s

/-- Block `b` holds `bs`. -/
def State.blockIs (s : State) (b : Nat) (bs : List Byte) : State :=
  { s with archive := s.archive.write (256 * b) bs, archiveBad := s.archiveBad.filter (· != b) }

/-- Result words of ARC_WRITE (Table 19.3). -/
def Job.arcWords (j : Job) (fail : Nat) : List Nat := [j.count, j.skipped, j.retries, j.wear, fail]

/-- No block failed. -/
def noBlock : Nat := 0xFFFFFFFF

/-- A write attempt at the block in hand begins; it ends at the typical time unless the world says otherwise (Table
19.6). -/
def State.arcAttempt (s : State) (b : Nat) : State :=
  let s := s.wearUp b
  (s.modJob 7 fun j => { j with phase := 2, tries := j.tries + 1, wear := max j.wear (s.wearOf b),
                                due := s.now + 60000 }).after 60000 (.arcBlockWritten true 0)

/-- ARC_WRITE looks at its next block (R526, R532, R573). -/
def State.arcStep (s : State) (t : Task) : State :=
  let j := (s.slot 7).job
  let i := j.count + j.skipped
  let b := t.w 4 + i
  if t.op ≠ 0x40 ∨ j.phase ≠ 1 ∨ s.now < j.due then s
  else if i = t.w 5 then s.endTask 7 0 (j.arcWords noBlock)
  else if j.aborted then s.endTask 7 0x8004 (j.arcWords noBlock)
  else if s.on F.ARC_STATUS_BUSY then s
  else
    let a := t.q 6 + 256 * i
    let (bad, s) := s.storeReadCheck a 256
    if bad then s.endTask 7 0x8208 (j.arcWords b)
    else if s.store.read a 256 = s.block b ∧ !s.archiveBad.contains b then
      let s := (s.bump C.ENG_CNT_ARC_SKIP).modJob 7 fun j => { j with skipped := j.skipped + 1, due := s.now + 3000 }
      (s.put (F.ENG_PROGRESS_DONE 7) (i + 1)).after 3000 (.dispatch 7)
    else (s.modJob 7 fun j => { j with tries := 0 }).arcAttempt b

/-- ARC_BLOCK_WRITTEN: the read-back of a block matches or not; `corr` sectors were corrected on it (R526, R562). -/
def State.arcWritten (s : State) (ok : Bool) (corr : Nat) : State :=
  match (s.slot 7).running with
  | none => s
  | some t =>
    let j := (s.slot 7).job
    let i := j.count + j.skipped
    let b := t.w 4 + i
    if t.op ≠ 0x40 ∨ j.phase ≠ 2 then s
    else
      let s := (s.withdraw fun c => match c with
        | .arcBlockWritten _ _ => true
        | _ => false).bumpBy C.ARC_CNT_CORR corr
      if ok then
        let s := s.blockIs b (s.store.read (t.q 6 + 256 * i) 256)
        let s := s.modJob 7 fun j => { j with phase := 1, count := j.count + 1, due := s.now }
        (s.put (F.ENG_PROGRESS_DONE 7) (i + 1)).arcStep t
      else if j.tries < 4 then
        let s := (s.bump C.ENG_CNT_ARC_RETRY).modJob 7 fun j => { j with retries := j.retries + 1 }
        s.arcAttempt b
      else
        let (bs, s) := s.freeBytes 256
        ((s.blockIs b bs).bump C.ENG_CNT_ARC_FAIL).endTask 7 0x8207 (j.arcWords b)

/-- ARC_BLOCK_WRITTEN (R526). -/
def execArcBlockWritten (ok : Bool) (corr : Nat) (s : State) : Result := .next (s.arcWritten ok corr)

/-- An Archivist task begins (R511, R527, R529, Table 19.6). -/
def State.arcBegin (s : State) (t : Task) : State :=
  let n := 256 * t.w 5
  let bank3 := decide (0x4800000 ≤ t.q 6) && decide (t.q 6 + n ≤ storeSize)
  if t.op = 0x40 then
    if s.arcLocked (t.w 4) then s.endTask 7 0x8206 [0, 0, 0, 0, noBlock]
    else if !(inBank1 (t.q 6) n || bank3) then s.endTask 7 0x8201 [0, 0, 0, 0, noBlock]
    else
      let s := s.modJob 7 fun j => { j with phase := 1, began := s.time + 240, due := s.now + 240 }
      (s.put (F.ENG_PROGRESS_DONE 7) 0).after 240 (.dispatch 7)
  else if !inBank1 (t.q 6) n then s.endTask 7 0x8201 [0, 0, 0, 0, noBlock]
  else
    let k := 240 + 1500 * t.w 5
    let s := s.modJob 7 fun j => { j with phase := 3, began := s.time + 240, due := s.now + k }
    (s.put (F.ENG_PROGRESS_DONE 7) 0).after k (.taskEnd 7 none 0)

/-- `n` blocks of an ARC_READ copied, up to the first that is uncorrectable (R529). -/
def State.arcCopy (s : State) (t : Task) (n : Nat) : State × Nat × Option Nat :=
  (List.range n).foldl (fun (a : State × Nat × Option Nat) i =>
    match a.2.2 with
    | some _ => a
    | none =>
      let b := t.w 4 + i
      if a.1.archiveBad.contains b then (a.1, a.2.1, some b)
      else (a.1.storeWrite (t.q 6 + 256 * i) (a.1.block b), a.2.1 + 1, none)) (s, 0, none)

/-- ARC_READ ends, or is abandoned after the block in progress; `corr` sectors were corrected (R529, R532, R562). -/
def State.arcReadEnd (s : State) (t : Task) (corr : Nat) : State :=
  let j := (s.slot 7).job
  if t.op ≠ 0x41 ∨ j.phase ≠ 3 ∨ (s.now < j.due ∧ !j.aborted) then s
  else
    let n := if j.aborted then min (t.w 5) (ceilDiv (s.time - j.began) 1500) else t.w 5
    let (s, done, bad) := (s.bumpBy C.ARC_CNT_CORR corr).arcCopy t n
    let s := s.put (F.ENG_PROGRESS_DONE 7) done
    match bad with
    | some b => s.endTask 7 0x8208 [done, 0, 0, 0, b]
    | none => s.endTask 7 (if n < t.w 5 then 0x8004 else 0) [done, 0, 0, 0, noBlock]

/-- A running Archivist task is abandoned (R532). -/
def State.arcAbort (s : State) (t : Task) : State :=
  let s := s.modJob 7 fun j => { j with aborted := true }
  if t.op = 0x41 then s.arcReadEnd t 0
  else if (s.slot 7).job.phase = 1 then s.endTask 7 0x8004 ((s.slot 7).job.arcWords noBlock)
  else s

/-- A write of `ARC_ROLLBACK_RAISE`: the counter is raised only to the version of the slot running, only upward, and not
under a lock (R573, R575). -/
def State.rollbackRaise (s : State) (v : Nat) : State :=
  let slot := s.g F.PWR_BOOT_STATUS_FW_SLOT - 1
  if s.g F.PWR_BOOT_STATUS_FW_SLOT = 0 || s.on F.ARC_STATUS_BUSY || s.lockFw || s.lockAll || v != s.g (F.ARC_SLOT_VER_VALUE slot) || decide (v ≤ s.rollback) then s
  else ((s.put F.ARC_STATUS_BUSY 1).put F.ARC_ROLLBACK_RAISE_VERSION v).after 375000 .rollbackRaised

/-- ARC_ROLLBACK_RAISE (R573). -/
def execArcRollbackRaise (version : Nat) (s : State) : Result := .next (s.rollbackRaise version)

/-- The raise ends: the new value stands, in a system block the rules do not name (its wear goes up in one of the 64,
which is free; log entry 2), and an ARC_WRITE held between blocks goes on (R561, R573). -/
def State.rollbackDone (s : State) : State :=
  if !s.on F.ARC_STATUS_BUSY then s
  else
    let s := s.rollbackTo (s.g F.ARC_ROLLBACK_RAISE_VERSION)
    let s := s.put F.ARC_ROLLBACK_COUNT s.rollback
    let (b, s) := s.free 64
    let s := ((s.wearUp b).put F.ARC_STATUS_BUSY 0).put F.ARC_ROLLBACK_RAISE_VERSION 0
    s.after 0 (.dispatch 7)

/-- ROLLBACK_RAISED (R573). -/
def execRollbackRaised (s : State) : Result := .next s.rollbackDone

end Sys2Proof.Machine
end

