-- ==== Sys2Proof/Machine/Calibrator.lean ====
section
/-! DEFINITION. The Calibrator: captures and their reduction (19_engines.md, R522 to R525; R559). -/

namespace Sys2Proof.Machine

/-- Operands of CAL_DARK and CAL_FLAT (Table 18.2). -/
def Task.cam (t : Task) : Nat := t.w 4 % 2
def Task.area (t : Task) : Nat := t.w 4 / 2 % 2
def Task.set (t : Task) : Nat := t.w 4 / 4 % 4
def Task.isDark (t : Task) : Bool := t.op == 0x30

/-- Store address of accumulator `k` (R559). -/
def accum (k : Nat) : Nat := 0x800000 + 4 * k

/-- Pixel-nodes that a capture reduces (Table 19.6). -/
def Job.reduced (j : Job) : Nat := j.parts.foldl (fun n x => n + x.2.2.2.1 * x.2.2.2.2.1) 0

/-- Result words of a capture: frames, pixels, entries appended, entries not appended, temperatures (Table 19.3). -/
def Job.calWords (j : Job) (pixels appended spill : Nat) : List Nat :=
  [j.count, pixels, appended, spill, unsigned 16 j.tempLo + unsigned 16 j.tempHi * 2 ^ 16]

/-- A capture ends without a reduction (R512, R522, R523). -/
def State.calFail (s : State) (status : Nat) : State :=
  let s := { s with usher := { s.usher with calPipe := none, calIn := [] } }
  s.endTask 6 status ((s.slot 6).job.calWords 0 0 0)

/-- Accumulators a capture needs under the windows in effect (R559). -/
def State.calNeeds (s : State) (t : Task) : Nat :=
  let q := s.schedNow t.cam
  let pixels := q.wins.foldl (fun n w =>
    n + 64 * (w.colLast + 1 - w.colFirst) * (2 * (w.pairLast + 1 - w.pairFirst)) / (if q.cbin then 2 else 1)) 0
  if t.isDark then pixels * ((if q.a.en then 1 else 0) + (if q.b.en then 1 else 0)) else pixels

/-- A capture begins: it takes the frames that land from now on in the lowest-numbered pipeline that runs from its
camera (R522, R559). -/
def State.calBegin (s : State) (t : Task) : State :=
  match (s.boundTo (t.cam + 1)).filter s.pipeRuns with
  | [] => s.calFail 0x8204
  | p :: _ =>
    if s.bankInUse 4 0 t.area then s.calFail 0x8202
    else if 4194304 < s.calNeeds t then s.calFail 0x8201
    else
      let base := (s.pipe p).frames.foldl (fun m r => max m r.start) 0
      let s := s.modJob 6 fun j => { j with phase := 1, base := base, began := s.time, tempLo := 32767, tempHi := -32768 }
      { s with usher := { s.usher with calPipe := some p, calIn := [] } }.put (F.ENG_PROGRESS_DONE 6) 0

/-- The values that a readout's parts give a capture, in the order of their accumulators: stage 1 for a dark set,
stage 2 after the area's own dark sets for a flat (R523, R524). -/
def CalFrame.values (y : CalFrame) (st : StoreBytes) (t : Task) : List Int :=
  y.parts.flatMap fun x =>
    let s1 := (x.corr.run st x.raw x.rows x.width).1
    if t.isDark then s1.flatMap id
    else
      let (seg, w) := darkWeight st (areaBase t.area) y.temp
      let k := { x.corr with cal := areaBase t.area, seg := seg, weight := w }
      (List.range s1.length).flatMap fun r =>
        let row := nth s1 r []
        (List.range row.length).map fun c => clampCW (nth row c 0 - k.darkAt st r c)

/-- Pixels of a readout. -/
def CalFrame.pixels (y : CalFrame) : Nat := y.parts.foldl (fun n x => n + x.raw.length * x.width) 0

/-- A node is reduced: every enabled one for a dark set, A before B for a flat (R524). -/
def CalFrame.counts (y : CalFrame) (t : Task) : Bool := t.isDark || y.node == (if y.nodes.1 then 0 else 1)

/-- The readout's values written into their accumulators, or added to them (R559). -/
def State.accumulate (s : State) (t : Task) (y : CalFrame) (first : Bool) : State :=
  let k0 := if t.isDark ∧ y.node = 1 ∧ y.nodes.1 then y.pixels else 0
  let vals := y.values s.store t
  (List.range vals.length).foldl (fun s i =>
    let a := accum (k0 + i)
    let old : Int := if first then 0 else signed 32 (peek s.store a 4)
    s.storeWrite a (leBytes (unsigned 32 (old + nth vals i 0)) 4)) s

/-- A readout taken by the capture in progress: tests, accumulation, and the end of the capture with the last frame's
last readout (R522, R523, R559). -/
def State.calTake (s : State) (t : Task) (y : CalFrame) : State :=
  let j := (s.slot 6).job
  if (s.slot 6).running.isNone ∨ j.phase ≠ 1 ∨ y.start ≤ j.base then s
  else
    let s := s.modJob 6 fun j => { j with tempLo := min j.tempLo y.zone, tempHi := max j.tempHi y.zone }
    let gen := nth y.record 0 0 % 256
    let new := decide (j.record = [])
    if s.bankInUse 4 0 t.area || y.area == t.area then s.calFail 0x8202
    else if !new && gen != j.setgen then s.calFail 0x8205
    else if t.isDark ∧ 8 < (y.zone - signed 16 (t.w 6)).natAbs then s.calFail 0x8205
    else
      let s := if new then s.modJob 6 fun j => { j with record := y.record, setgen := gen } else s
      let s := if y.counts t then
          let s := s.accumulate t y (decide (j.count = 0))
          if j.count = 0 then s.modJob 6 fun j => { j with parts := j.parts ++ y.parts.map fun x =>
            (x.node, x.corr.row0, x.corr.col0, x.raw.length, x.width, x.corr.cbin) }
          else s
        else s
      if !y.last then s
      else
        let s := s.modJob 6 fun j => { j with count := j.count + 1 }
        if j.count + 1 < t.w 5 then s
        else
          let n := 12 * (s.slot 6).job.reduced
          let s := { s with usher := { s.usher with calPipe := none, calIn := [] } }
          (s.modJob 6 fun j => { j with phase := 2, due := s.now + n }).after n (.taskEnd 6 none 0)

/-- The readouts handed over are taken in order; a pipeline that has stopped ends the capture (R522). -/
def State.calStep (s : State) (t : Task) : State :=
  let l := s.usher.calIn
  let s := { s with usher := { s.usher with calIn := [] } }
  let s := l.foldl (fun s y => s.calTake t y) s
  match (s.slot 6).running, s.usher.calPipe with
  | some _, some p => if (s.slot 6).job.phase = 1 ∧ !s.pipeRuns p then s.calFail 0x8204 else s
  | _, _ => s

/-! ### Reduction -/

/-- A pixel reduced: node, row and column address, mean (R523). -/
structure Mean where
  node : Nat
  row : Nat
  col : Nat
  m : Int
  deriving DecidableEq, Repr

/-- The means of a capture, in the order of their accumulators: node A before node B, then window, row and column. -/
def State.means (s : State) (j : Job) : List Mean :=
  let parts := (j.parts.filter fun x => x.1 == 0) ++ j.parts.filter fun x => x.1 != 0
  let places := parts.flatMap fun (n, r0, c0, h, w, cb) =>
    (List.range h).flatMap fun r => (List.range w).map fun c =>
      (n, (if cb then r0 + 4 * (r / 2) + r % 2 else r0 + r), c0 + c)
  (List.range places.length).map fun k =>
    let x := nth places k (0, 0, 0)
    ⟨x.1, x.2.1, x.2.2, rdiv (signed 32 (peek s.store (accum k) 4)) (j.count : Nat)⟩

/-- The pixels off the defect map. -/
def offMap (map : List (Nat × Nat)) (l : List Mean) : List Mean := l.filter fun x => !map.contains (x.row, x.col)

/-- The least or the largest of a list of values; none of an empty one. -/
def leastOf (l : List Int) : Option Int := l.foldl (fun (m : Option Int) v => some (match m with
  | some w => min w v
  | none => v)) none
def largestOf (l : List Int) : Option Int := l.foldl (fun (m : Option Int) v => some (match m with
  | some w => max w v
  | none => v)) none

/-- BASE of each row of each node; a row with every pixel on the map has no stated one: a free value (R523, log entry
2). -/
def State.rowBases (s : State) (map : List (Nat × Nat)) (l : List Mean) : List ((Nat × Nat) × Int) × State :=
  let rows := (l.map fun x => (x.node, x.row)).eraseDups
  rows.foldl (fun (a : List ((Nat × Nat) × Int) × State) k =>
    match leastOf (((offMap map l).filter fun x => (x.node, x.row) == k).map (·.m)) with
    | some v => (a.1 ++ [(k, v)], a.2)
    | none =>
      let (v, s) := a.2.free (2 ^ 32)
      (a.1 ++ [(k, signed 32 v)], s)) ([], s)

/-- BASE of a row as found. -/
def baseAt (b : List ((Nat × Nat) × Int)) (n r : Nat) : Int := ((b.find? fun x => x.1 == (n, r)).map (·.2)).getD 0

/-- STEP of a node; free where every pixel is on the map (R523). -/
def State.stepOf (s : State) (map : List (Nat × Nat)) (b : List ((Nat × Nat) × Int)) (l : List Mean) (n : Nat) : Int × State :=
  match largestOf (((offMap map l).filter fun x => x.node == n).map fun x => x.m - baseAt b n x.row) with
  | some v => (min 65535 (max 1 ((v + 14) / 15)), s)
  | none =>
    let (v, s) := s.free 65535
    ((v : Int) + 1, s)

/-- Address key of a pixel in the map's order (R259, R520). -/
def mapKey (row col : Nat) : Nat := row * 2 ^ 13 + col

/-- An entry put in its place among the entries of the map. -/
def insertMapEntry (e : Nat) : List Nat → List Nat
  | [] => [e]
  | x :: l => if x % 2 ^ 22 ≤ e % 2 ^ 22 then x :: insertMapEntry e l else e :: x :: l

/-- Pixels not in the map appended under a cause while it has fewer than 4,096 entries; answers how many were appended
and how many were not (R525). -/
def State.appendMap (s : State) (area cause : Nat) (l : List (Nat × Nat)) : State × Nat × Nat :=
  let b := areaBase area
  let n := min (peek s.store (b + 0x3C00) 4) 4096
  let old := (List.range n).map fun i => peek s.store (b + 0x3C04 + 4 * i) 4
  let new := (l.map fun x => mapKey x.1 x.2).eraseDups.filter fun k => !old.any fun e => e % 2 ^ 22 == k
  let take := new.take (4096 - n)
  let all := take.foldl (fun m k => insertMapEntry (k + cause * 2 ^ 22) m) old
  let s := s.storeWrite (b + 0x3C00) (leBytes all.length 4 ++ all.flatMap fun e => leBytes e 4)
  (s, take.length, new.length - take.length)

/-- Nibble of a pixel's CODE written (Table 21.4). -/
def State.putCode (s : State) (area j row col code : Nat) : State :=
  let a := areaBase area + 0x7D00 + 0x180000 * j + (6144 * row + col) / 2
  let b := peek s.store a 1
  s.storeWrite a [BitVec.ofNat 8 (if col % 2 = 0 then b / 16 * 16 + code else b % 16 + code * 16)]

/-- CAL_DARK reduced: BASE, STEP, CODE, TC and the captured record written, defects appended (R523, R525). -/
def State.reduceDark (s : State) (t : Task) : State :=
  let j := (s.slot 6).job
  let area := areaBase t.area
  let set := t.set
  let l := s.means j
  let map := (defectMap s.store area)
  let (bases, s) := s.rowBases map l
  let has := fun (n : Nat) => l.any fun x => x.node == n
  let (stA, s) := if has 0 then s.stepOf map bases l 0 else (0, s)
  let (stB, s) := if has 1 then s.stepOf map bases l 1 else (0, s)
  let stepN := fun (n : Nat) => if n = 0 then stA else stB
  let at_ := fun (n r c : Nat) => (l.find? fun x => x.node == n && x.row == r && x.col == c).map fun x => x.m - baseAt bases n r
  let pixels := (l.map fun x => (x.row, x.col)).eraseDups
  let code := fun (x : Nat × Nat) =>
    let a := at_ 0 x.1 x.2
    let b := at_ 1 x.1 x.2
    let num := (a.getD 0) * stA + (b.getD 0) * stB
    let den := (if a.isSome then stA * stA else 0) + (if b.isSome then stB * stB else 0)
    (clampI 0 15 (rdiv num den)).toNat
  let far := pixels.filter fun x => [0, 1].any fun n => match at_ n x.1 x.2 with
    | some r => decide (stepN n < 2 * (r - code x * stepN n).natAbs)
    | none => false
  let s := bases.foldl (fun s x =>
    s.storeWrite (area + 0xC00 + 4096 * set + 2048 * x.1.1 + 8 * (x.1.2 / 2) + 4 * (x.1.2 % 2)) (leBytes (unsigned 32 x.2) 4)) s
  let s := [0, 1].foldl (fun s n =>
    if has n then s.storeWrite (area + 0xB00 + 4 * set + 2 * n) (leBytes (stepN n).toNat 2) else s) s
  let s := pixels.foldl (fun s x => s.putCode t.area set x.1 x.2 (code x)) s
  let s := s.storeWrite (area + 8 + 2 * set) (leBytes (t.w 6) 2)
  let s := s.storeWrite (area + 32 + 32 * t.cam) (((List.range 8).map fun i => nth j.record i 0).flatMap fun w => leBytes w 4)
  let (s, add, spill) := s.appendMap t.area 0 far
  (s.put (F.ENG_PROGRESS_DONE 6) pixels.length).endTask 6 0 (j.calWords pixels.length add spill)

/-- CAL_FLAT reduced: flat gains written, defects appended (R524, R525). -/
def State.reduceFlat (s : State) (t : Task) : State :=
  let j := (s.slot 6).job
  let area := areaBase t.area
  let l := s.means j
  let map := defectMap s.store area
  let off := offMap map l
  let (site, s) := (List.range 8).foldl (fun (a : List Int × State) k =>
    let v := (off.filter fun x => siteOf x.row x.col == k).map (·.m)
    if v.isEmpty ∧ (l.any fun x => siteOf x.row x.col == k) then
      let (m, s) := a.2.free 65536
      (a.1 ++ [(m : Int)], s)
    else (a.1 ++ [rdiv (v.foldl (· + ·) 0) (max 1 v.length : Nat)], a.2)) ([], s)
  let mean := fun (x : Mean) => nth site (siteOf x.row x.col) 0
  let gain := fun (x : Mean) =>
    let target : Int := if t.w 6 = 0 then mean x else (t.w 6 : Nat)
    if 1 ≤ x.m then (clampI 0 65535 (rdiv (16384 * target) x.m)).toNat else 0
  let far := (l.filter fun x => decide (x.m ≤ 0 ∨ mean x < 5 * (x.m - mean x).natAbs)).map fun x => (x.row, x.col)
  let s := l.foldl (fun s x => s.storeWrite (area + 0x487D00 + 2 * (6144 * x.row + x.col)) (leBytes (gain x) 2)) s
  let (s, add, spill) := s.appendMap t.area 1 far
  (s.put (F.ENG_PROGRESS_DONE 6) l.length).endTask 6 0 (j.calWords l.length add spill)

/-- The reduction ends (R523 to R525); an accumulator, or a word of the area's defect map, with an uncorrectable error ends it
in failure (R560). -/
def State.calEnd (s : State) (t : Task) : State :=
  let j := (s.slot 6).job
  if j.phase ≠ 2 ∨ s.now < j.due then s
  else
    let (bad, s) := s.storeReadCheck (accum 0) (4 * j.reduced)
    let (map, s) := s.storeReadCheck (areaBase t.area + 0x3C00) 16388
    if bad || map then s.calFail 0x8208 else if t.isDark then s.reduceDark t else s.reduceFlat t

end Sys2Proof.Machine
end

