-- ==== Sys2Proof/Machine/Loader.lean ====
section
/-! DEFINITION. The Loaders: LOAD_BANK line by line (19_engines.md, R517 to R521). -/

namespace Sys2Proof.Machine

/-- KIND, TARGET and BANK (Table 18.2). -/
def Task.kind (t : Task) : Nat := t.w 4 % 16
def Task.target (t : Task) : Nat := t.w 4 / 16 % 16
def Task.bank (t : Task) : Nat := t.w 4 / 256 % 2

/-- LENGTH of a kind (Table 19.5). -/
def loadSize : Nat → Nat
  | 0 => 66304
  | 1 => 262144
  | 2 => 1024
  | 3 => 128
  | _ => areaSize

/-- Store address of a kind's target (Table 21.2); none for a PIO program bank. -/
def loadBase (kind target bank : Nat) : Option Nat :=
  match kind with
  | 0 => some (0x3100000 + 0x20000 * (2 * target + bank))
  | 1 => some (0x3200000 + 0x40000 * (2 * target + bank))
  | 2 => some (0x3400000 + 0x400 * (2 * target + bank))
  | 3 => none
  | _ => some (areaBase bank)

/-- Bytes written into the target at an offset (R517). -/
def State.loadPut (s : State) (t : Task) (off : Nat) (bs : List Byte) : State :=
  match loadBase t.kind t.target t.bank with
  | some b => s.storeWrite (b + off) bs
  | none => (List.range (bs.length / 2)).foldl (fun s k =>
      s.put (F.PIO_PROG_INSTR t.target t.bank (off / 2 + k)) (leNat ((bs.drop (2 * k)).take 2))) s

/-- The part of a defect map that lies in line `line` of a calibration area breaks R520: its count, or the order of its
entries. -/
def mapBad (st : StoreBytes) (base line : Nat) : Bool :=
  let n := peek st (base + 0x3C00) 4
  let entry := fun i => peek st (base + 0x3C04 + 4 * i) 4 % 2 ^ 22
  let idx := (List.range 16).map fun k => (64 * line + 4 * k, k)
  (line == 240 && decide (4096 < n)) ||
  idx.any fun x => decide (0x3C08 ≤ x.1) && decide (x.1 < 0x3C04 + 4 * min n 4096) &&
    (let i := (x.1 - 0x3C04) / 4
     decide (entry i < entry (i - 1)))

/-- The first of the first `lines` lines that breaks the map rule. -/
def mapFails (st : StoreBytes) (base lines : Nat) : Option Nat :=
  ((List.range 258).map (240 + ·)).find? fun k => decide (k < lines) && mapBad st base k

/-- Defect entries of a loaded area (Table 19.3). -/
def State.mapCount (s : State) (t : Task) : Nat := if t.kind = 4 then peek s.store (areaBase t.bank + 0x3C00) 4 else 0

/-- LOAD_BANK begins (R501, R511, R518, R519). -/
def State.loadBegin (s : State) (u : Nat) (t : Task) : State :=
  let n := loadSize t.kind
  if t.w 9 ≠ n then s.endTask u 0x8203 []
  else if t.w 8 % 2 = 1 ∧ !inBank1 (t.q 6) n then s.endTask u 0x8201 []
  else if t.kind = 2 ∧ (s.pipe t.target).bound then s.endTask u 0x8005 []
  else if s.bankInUse t.kind t.target t.bank then s.endTask u 0x8202 []
  else
    let k := 240 + (if t.w 8 % 2 = 1 then 32 else 48)
    let s := s.modJob u fun j => { j with phase := 1, began := s.time + 240, due := s.now + k }
    (s.put (F.ENG_PROGRESS_DONE u) 0).after k (.dispatch u)

/-- The lines are over: the task ends with what a host source held (R517). -/
def State.loadOver (s : State) (u status : Nat) : State :=
  (s.modJob u fun j => { j with phase := 2, status := status, due := s.now }).after 0 (.taskEnd u none 0)

/-- A line of the load: the target is tested for use, then the line is written; a line of a host source holds free values
until the task's end tells what the host held (R517, R519, R520, R532). -/
def State.loadStep (s : State) (u : Nat) (t : Task) : State :=
  let j := (s.slot u).job
  let store := t.w 8 % 2 == 1
  if j.phase ≠ 1 ∨ s.now < j.due then s
  else if s.bankInUse t.kind t.target t.bank then s.loadOver u 0x8202
  else if !store && !s.mayRequest then (if j.aborted then s.loadOver u 0x8004 else s)
  else
    let off := 64 * j.count
    let (bad, s) := if store then s.storeReadCheck (t.q 6 + off) 64 else (false, s)
    if bad then s.loadOver u 0x8208
    else
      let (line, s) := if store then (s.store.read (t.q 6 + off) 64, s) else (s.hostGet (t.q 6 + off) 64).freeBytes 64
      let s := s.loadPut t off line
      let s := s.modJob u fun j => { j with count := j.count + 1, bytes := j.bytes + 64 }
      let s := s.put (F.ENG_PROGRESS_DONE u) (off + 64)
      if store ∧ t.kind = 4 ∧ mapBad s.store (areaBase t.bank) j.count then s.loadOver u 0x8203
      else if 64 * (j.count + 1) = loadSize t.kind then s.loadOver u 0
      else if j.aborted then s.loadOver u 0x8004
      else
        let k := if store then 32 else 48
        (s.modJob u fun j => { j with due := s.now + k }).after k (.dispatch u)

/-- LOAD_BANK ends: what a host source held is in the target for the lines read, but for a target that has come into use, whose
lines stand as they are; an area whose map fails holds anything (R512, R519, R520). -/
def State.loadEnd (s : State) (u : Nat) (t : Task) (host : Option (List Byte)) : State :=
  let j := (s.slot u).job
  if j.phase ≠ 2 then s
  else
    let s := if t.w 8 % 2 = 1 ∨ s.bankInUse t.kind t.target t.bank then s else s.loadPut t 0 ((host.getD []).take j.bytes)
    let fails := if t.kind = 4 then mapFails s.store (areaBase t.bank) j.count else none
    let status := if fails.isSome then 0x8203 else j.status
    let bytes := fails.elim j.bytes fun k => 64 * (k + 1)
    let n := s.mapCount t
    let s := if status = 0x8203 then
        let (l, s) := s.freeBytes areaSize
        s.storeWrite (areaBase t.bank) l
      else s
    s.endTask u status [bytes, if status = 0 then n else 0]

end Sys2Proof.Machine
end

