-- ==== Sys2Proof/Machine/Porter.lean ====
section
/-! DEFINITION. The Porters: copies, fills and drains (19_engines.md, R513 to R516, R533, R534). -/

namespace Sys2Proof.Machine

/-- Geometry of a 2D task: width, rows, source, source pitch, destination, destination pitch. -/
structure Rect where
  width : Nat
  rows : Nat
  src : Nat
  srcPitch : Nat
  dst : Nat
  dstPitch : Nat
  deriving DecidableEq, Repr

/-- Operands of COPY_2D and FILL_2D (Table 18.2). -/
def Task.rect (t : Task) : Rect := ⟨t.w 9, t.w 10, t.q 4, t.w 11, t.q 6, t.w 12⟩

/-- Bytes from first to last of a rectangle's rows. -/
def spanOf (width rows pitch : Nat) : Nat := (rows - 1) * pitch + width

/-- The order of a copy: 0 ascending, 1 descending, 2 row-staged (R533). -/
def Task.copyOrder (t : Task) : Nat :=
  let r := t.rect
  let apart := r.src + spanOf r.width r.rows r.srcPitch ≤ r.dst ∨ r.dst + spanOf r.width r.rows r.dstPitch ≤ r.src
  if t.op = 0x11 ∨ t.w 8 % 4 ≠ 3 ∨ apart then 0
  else if r.srcPitch = r.dstPitch ∧ r.dst < r.src then 0
  else if r.srcPitch = r.dstPitch ∧ r.src < r.dst then 1
  else 2

/-- Row `i` of the destination meets row `k` of the source. -/
def Rect.meets (r : Rect) (i k : Nat) : Bool :=
  decide (r.dst + i * r.dstPitch < r.src + k * r.srcPitch + r.width) &&
  decide (r.src + k * r.srcPitch < r.dst + i * r.dstPitch + r.width)

/-- Rows in an order in which none is written over a source row not yet read, the lowest such row first (R533). -/
def Rect.staged (r : Rect) : Nat → List Nat → List Nat
  | 0, l => l
  | n + 1, l =>
    let pick := match l.find? fun i => l.all fun k => k == i || !r.meets i k with
      | some i => some i
      | none => l.head?
    match pick with
    | some i => i :: r.staged n (l.filter (· != i))
    | none => []

/-- The order in which the rows of a 2D task are written. -/
def Task.rowOrder (t : Task) : List Nat :=
  let r := t.rect
  let all := List.range r.rows
  match t.copyOrder with
  | 0 => all
  | 1 => all.reverse
  | _ => r.staged r.rows all

/-- The rate of a 2D task of Porter `u` in MB/s (Table 19.6, R516, R534). -/
def State.rectRate (s : State) (u : Nat) (t : Task) : Nat :=
  if t.readsHost && t.op == 0x10 || t.writesHost then s.porterRate u
  else if t.op = 0x11 then 6000 else if t.copyOrder = 2 then 1500 else 3000

/-- Ticks that a 2D task still needs at a rate, with `n` rows and `part` bytes of the next moved (Table 19.6). -/
def Rect.ticksLeft (r : Rect) (n part rate : Nat) : Nat :=
  if r.rows ≤ n then 0
  else 16 * (r.rows - n - (if part = 0 then 0 else 1)) + moveTicks ((r.rows - n) * r.width - part) rate

/-- Rows complete and bytes moved of the next one, `e` ticks after `n` rows and `part` bytes of the next were (Table 19.6). -/
def Rect.moved (r : Rect) (rate n part e : Nat) : Nat × Nat :=
  let first := (if part = 0 then 16 else 0) + moveTicks (r.width - part) rate
  let row := 16 + moveTicks r.width rate
  if r.rows ≤ n then (r.rows, 0)
  else if e < first then (n, min r.width (part + e * rate / 1500))
  else
    let k := n + 1 + (e - first) / row
    if r.rows ≤ k then (r.rows, 0) else (k, min r.width ((e - first) % row * rate / 1500))

/-- The range a Porter may read, and may write, in the Store (Table 19.1). -/
def porterReads (a n : Nat) : Bool := decide (a + n ≤ storeSize)
def porterWrites (a n : Nat) : Bool := inBank1 a n || inSlots a n

/-- Every row of a 2D task lies where a Porter reaches (R511). -/
def Task.rectReach (t : Task) : Bool :=
  let r := t.rect
  let span := spanOf r.width r.rows
  (!(t.op == 0x10 && bitN (t.w 8) 0) || porterReads r.src (span r.srcPitch)) &&
  (!bitN (t.w 8) 1 || porterWrites r.dst (span r.dstPitch))

/-- Byte `a` of a fill (R514). -/
def fillByte (pattern a : Nat) : Byte := BitVec.ofNat 8 (pattern / 2 ^ (8 * (a % 4)))

/-- The bytes each row of a 2D task writes: a fill's pattern, the whole source rectangle as it stood, or what the host
holds (R513, R514, R533). -/
def State.rectRows (s : State) (t : Task) (host : Option (List Byte)) : (Nat → List Byte) × State :=
  let r := t.rect
  if t.op = 0x11 then
    (fun i => (List.range r.width).map fun k => fillByte (t.w 13) (r.dst + i * r.dstPitch + k), s)
  else if bitN (t.w 8) 0 then
    let st := s.store
    (fun i => st.read (r.src + i * r.srcPitch) r.width, s)
  else
    let (l, s) := s.orFree host (r.width * r.rows)
    (fun i => (l.drop (i * r.width)).take r.width, s)

/-- Bytes of a 2D task written at an offset of row `i`. -/
def State.rectPut (s : State) (t : Task) (i off : Nat) (bs : List Byte) : State :=
  let a := t.rect.dst + i * t.rect.dstPitch + off
  if bitN (t.w 8) 1 then s.storeWrite a bs else s.hostPutData a bs

/-- `n` bytes of row `i` from offset `off` on moved: those of a host source are asked for first (R547). -/
def State.rectMove (s : State) (t : Task) (i off : Nat) (bs : List Byte) : State :=
  let s := if t.readsHost && t.op == 0x10 then s.hostGet (t.rect.src + i * t.rect.srcPitch + off) bs.length else s
  s.rectPut t i off bs

/-- The first `n` rows in the task's order written, and `part` bytes of the next: its first ones, or its last in
descending order (R513, R514, R532). -/
def State.rectWrite (s : State) (t : Task) (n part : Nat) (host : Option (List Byte)) : State :=
  let (row, s) := s.rectRows t host
  let order := t.rowOrder
  let s := (order.take n).foldl (fun s i => s.rectMove t i 0 (row i)) s
  match order.drop n with
  | i :: _ =>
    if part = 0 then s
    else if t.copyOrder = 1 then s.rectMove t i (t.rect.width - part) ((row i).drop (t.rect.width - part))
    else s.rectMove t i 0 ((row i).take part)
  | [] => s

/-- Rows complete and bytes of the next row that a 2D task of Porter `u` has moved by now at a rate. -/
def State.rectMoved (s : State) (u : Nat) (t : Task) (rate : Nat) : Nat × Nat :=
  let j := (s.slot u).job
  if s.time < j.began ∨ j.phase = 4 then (j.count, j.bytes) else t.rect.moved rate j.count j.bytes (s.time - j.began)

/-- `part` bytes of a row with the request in flight, of at most 512 bytes, finished (Table 19.9). -/
def wholeRequest (width part : Nat) : Nat := min width ((part / 512 + 1) * 512)

/-- The same with the piece begun finished: the request in flight, or in row-staged order the row whose read has completed
(Table 19.9). -/
def State.rectProgress (s : State) (u : Nat) (t : Task) : Nat × Nat :=
  let (n, part) := s.rectMoved u t (s.rectRate u t)
  if t.rect.rows ≤ n ∨ s.time < (s.slot u).job.began ∨ (s.slot u).job.phase = 4 then (n, part)
  else if t.copyOrder = 2 then (if t.rect.width ≤ 2 * part then n + 1 else n, 0)
  else
    let part := wholeRequest t.rect.width part
    if part = t.rect.width then (n + 1, 0) else (n, part)

/-- A 2D task stops where it has come to: result words rows, bytes, order (Table 19.3, R512, R532). -/
def State.rectStop (s : State) (u : Nat) (t : Task) (status : Nat) (host : Option (List Byte)) : State :=
  let (n, part) := s.rectProgress u t
  let s := s.rectWrite t n part host
  let bytes := n * t.rect.width + part
  (s.put (F.ENG_PROGRESS_DONE u) bytes).endTask u status [n, bytes, t.copyOrder]

/-- A 2D task begins (R511, Table 19.6). -/
def State.rectBegin (s : State) (u : Nat) (t : Task) : State :=
  if !t.rectReach then s.endTask u 0x8201 []
  else
    let n := 240 + t.rect.ticksLeft 0 0 (s.rectRate u t)
    let s := s.modJob u fun j => { j with phase := 1, began := s.time + 240, due := s.now + n }
    (s.put (F.ENG_PROGRESS_DONE u) 0).after n (.taskEnd u none 0)

/-- The last byte of a 2D task has moved: the destination is as a copy through a buffer leaves it (R513, R514, R533); a
source word with an uncorrectable error ends it in failure (R560). -/
def State.rectEnd (s : State) (u : Nat) (t : Task) (host : Option (List Byte)) : State :=
  if s.now < (s.slot u).job.due then s
  else if (t.readsHost || t.writesHost) && !s.mayRequest then s
  else
    let r := t.rect
    let (bad, s) := if t.op = 0x10 ∧ bitN (t.w 8) 0 then
        (List.range r.rows).foldl (fun (a : Bool × State) i =>
          let (b, s) := a.2.storeReadCheck (r.src + i * r.srcPitch) r.width
          (a.1 || b, s)) (false, s)
      else (false, s)
    if bad then s.rectStop u t 0x8208 host
    else
      let s := if t.readsHost then s.traffic else s
      let s := s.rectWrite t r.rows 0 host
      let n := r.width * r.rows
      (s.put (F.ENG_PROGRESS_DONE u) n).endTask u 0 [r.rows, n, t.copyOrder]

/-! ### Drains -/

/-- Bytes of a drain entry for a packet of `n` bytes (Table 19.4). -/
def entrySize (n : Nat) : Nat := 16 + ceilDiv n 16 * 16

/-- A drain entry (Table 19.4). -/
def drainEntry (q : Nat) (bs : List Byte) (err : Bool) : List Byte :=
  leBytes (bs.length % 2 ^ 24 + (if err then 2 ^ 24 else 0)) 4 ++ leBytes q 4 ++ leBytes 0 8 ++ bs ++
    List.replicate (ceilDiv bs.length 16 * 16 - bs.length) 0

/-- The drain of engine `u` ends: the queue's next reader is served (R463, Table 19.3). -/
def State.drainEnd (s : State) (u q status flags : Nat) : State :=
  let j := (s.slot u).job
  let x := s.queue q
  let s := s.setQueue q { x with readers := x.readers.filter (· != u) }
  let s := s.withdraw fun c => match c with
    | .packetRead k _ => k == q
    | _ => false
  let s := s.endTask u status [j.count, j.bytes, flags, j.errs]
  match (s.queue q).readers with
  | v :: _ => if x.readers.head? = some v then s else s.after 0 (.dispatch v)
  | [] => s

/-- A drain looks for its next packet: it ends, stalls, or begins a read, whose last word falls on a CD9 edge (R463, R515,
R532, R548). -/
def State.drainStep (s : State) (u : Nat) (t : Task) : State :=
  let q := t.w 4 % 64
  let j := (s.slot u).job
  if (s.queue q).readers.head? != some u then
    if j.aborted then s.drainEnd u q 0x8004 0 else s
  else if j.phase = 2 then s
  else if j.aborted then s.drainEnd u q 0x8004 0
  else if t.w 10 ≠ 0 ∧ t.w 10 ≤ j.count then s.drainEnd u q 0 4
  else
    match (s.queue q).closed with
    | p :: _ =>
      if s.now < p.visibleAt then (if bitN (t.w 11) 0 then s.drainEnd u q 0 1 else s)
      else if t.w 9 < j.bytes + entrySize p.bytes.length then s.drainEnd u q 0 2
      else if !s.mayRequest then s
      else
        let n := nextEdge 2 (s.time + moveTicks (entrySize p.bytes.length) (s.porterRate u)) - s.time
        (s.modJob u fun j => { j with due := s.now + n, phase := 2 }).after n (.packetRead q .ok)
    | [] => if bitN (t.w 11) 0 then s.drainEnd u q 0 1 else s

/-- A drain begins: it asks for the queue, and its first request is 240 ticks away (R463, Table 19.6). -/
def State.drainBegin (s : State) (u : Nat) (t : Task) : State :=
  let q := t.w 4 % 64
  let x := s.queue q
  let s := s.setQueue q { x with readers := x.readers ++ [u] }
  ((s.modJob u fun j => { j with phase := 1, began := s.time + 240 }).put (F.ENG_PROGRESS_DONE u) 0).after 240 (.dispatch u)

/-- The bytes of a packet with one 64-bit word of it as an error made it read: which word, and its bytes, are free values
(R466, R468). -/
def State.spoiled (s : State) (bs : List Byte) : List Byte × State :=
  let (i, s) := s.free (ceilDiv bs.length 8)
  let (w, s) := s.freeBytes (min 8 (bs.length - 8 * i))
  (patch bs (8 * i) w, s)

/-- PACKET_READ: the last word of the packet at the head of queue `q` is read, its cells are freed and its entry goes to
the host (R463, R466 to R469, R515). `chk` is what the check logic met; a data error of a queue without check bits is not
noticed, its word is delivered as read. -/
def State.readPacket (s : State) (q : Nat) (chk : HallCheck) : State :=
  match (s.queue q).readers with
  | [] => s
  | u :: _ =>
    match (s.slot u).running with
    | none => s
    | some t =>
      if t.op ≠ 0x12 ∨ (s.slot u).job.phase ≠ 2 ∨ s.now < (s.slot u).job.due then s
      else if !s.mayRequest then
        if (s.slot u).job.aborted then s.drainEnd u q 0x8004 0 else s
      else
        let give := fun (s : State) (bs : List Byte) (err : Bool) =>
          let entry := drainEntry q bs err
          let s := s.hostPutData (t.q 6 + (s.slot u).job.bytes) entry
          let s := s.modJob u fun j => { j with phase := 1, count := j.count + 1, bytes := j.bytes + entry.length,
                                                errs := j.errs + (if err then 1 else 0) }
          (s.put (F.ENG_PROGRESS_DONE u) (s.slot u).job.bytes).drainStep u t
        let s := s.withdraw fun c => match c with
          | .packetRead k _ => k == q
          | _ => false
        match (s.queue q).lost, (s.queue q).closed with
        | some p, _ => give (s.setQueue q { s.queue q with lost := none }) p.bytes true
        | none, [] => s
        | none, p :: l =>
          let secded := s.g (F.HAL_Q_CTRL_PROT q) == 1
          let double := secded && (chk == .double || p.bad)
          let s := if secded && chk == .single then s.hallCorrected q else s
          let s := if double then s.hallUncorrectable q else s
          let s := if chk == .freeList then s.freeListFails false else s
          let s := if chk == .pointer then s.resetQueue q else s.queueTo q { s.queue q with closed := l }
          let s := s.setQueue q { s.queue q with lost := none }
          let (bs, s) := if double || !secded && (chk == .single || chk == .double) then s.spoiled p.bytes else (p.bytes, s)
          give s bs (p.error || double || chk == .pointer)

/-- PACKET_READ (R463). -/
def execPacketRead (q : Nat) (chk : HallCheck) (s : State) : Result :=
  .next (if 8 ≤ q ∧ q < 64 then s.readPacket q chk else s)

/-- A packet has become visible: a reader that stalls on the empty queue goes on (R459, R515). -/
def State.packetVisible (s : State) (q : Nat) : State :=
  match (s.queue q).readers with
  | [] => s
  | u :: _ =>
    match (s.slot u).running with
    | some t => if t.op = 0x12 ∧ (s.slot u).job.phase = 1 ∧ (s.slot u).job.began ≤ s.time then s.drainStep u t else s
    | none => s

/-- PACKET_VISIBLE (R459). -/
def execPacketVisible (q : Nat) (s : State) : Result := .next (if 8 ≤ q ∧ q < 64 then s.packetVisible q else s)

/-! ### Rate caps -/

/-- The host task of Porter `u` goes on at its new rate: the request in flight ends at the rate `old` at which it was issued
(R516). -/
def State.rectPaced (s : State) (u : Nat) (t : Task) (old : Nat) : State :=
  let j := (s.slot u).job
  let rate := s.rectRate u t
  let (n, part) := s.rectMoved u t old
  let go := fun (n part at_ : Nat) =>
    let k := at_ - s.time + t.rect.ticksLeft n part rate
    let s := s.modJob u fun j => { j with count := n, bytes := part, began := at_, due := s.now + k }
    (s.withdraw fun c => match c with
      | .taskEnd v _ _ => v == u
      | _ => false).after k (.taskEnd u none 0)
  if s.time < j.began then go n part j.began
  else if t.rect.rows ≤ n then s
  else
    let w := wholeRequest t.rect.width part
    let at_ := s.time + moveTicks (w - part) old
    if w = t.rect.width then go (n + 1) 0 (at_ + 16) else go n w at_

/-- The drain of Porter `u` goes on with the packet it reads at its new rate (R516). -/
def State.drainPaced (s : State) (u q old : Nat) : State :=
  match (s.queue q).closed with
  | [] => s
  | p :: _ =>
    let size := entrySize p.bytes.length
    let part := min size ((moveTicks size old - ((s.slot u).job.due - s.now)) * old / 1500)
    let w := wholeRequest size part
    let k := nextEdge 2 (s.time + moveTicks (w - part) old + moveTicks (size - w) (s.porterRate u)) - s.time
    ((s.withdraw fun c => match c with
      | .packetRead v _ => v == q
      | _ => false).modJob u fun j => { j with due := s.now + k }).after k (.packetRead q .ok)

/-- Porter `u` may issue no request: its host copy or fill, or the packet its drain reads, stalls at its next request (R548,
Table 19.9). -/
def State.porterHold (s : State) (u : Nat) : State :=
  match (s.slot u).running with
  | none => s
  | some t =>
    let j := (s.slot u).job
    if j.due ≤ s.now then s
    else if t.op = 0x12 then
      if j.phase ≠ 2 then s else
      let s := s.withdraw fun c => match c with
        | .packetRead v _ => v == t.w 4 % 64
        | _ => false
      if j.aborted then s.drainEnd u (t.w 4 % 64) 0x8004 0
      else s.modJob u fun j => { j with phase := 3, base := j.due - s.now, due := s.now }
    else if j.phase = 1 ∧ (t.readsHost ∨ t.writesHost) then
      let (n, part) := s.rectProgress u t
      let s := s.withdraw fun c => match c with
        | .taskEnd v _ _ => v == u
        | _ => false
      s.modJob u fun j => { j with phase := 4, count := n, bytes := part, due := s.now, base := j.began - s.time }
    else s

/-- What stalled at a request of Porter `u` goes on from there (R548). -/
def State.porterResume (s : State) (u : Nat) (t : Task) : State :=
  let j := (s.slot u).job
  if j.phase = 3 then
    (s.modJob u fun j => { j with phase := 2, due := s.now + j.base }).after j.base (.packetRead (t.w 4 % 64) .ok)
  else
    let k := j.base + t.rect.ticksLeft j.count j.bytes (s.rectRate u t)
    (s.modJob u fun j => { j with phase := 1, began := s.time, due := s.now + k }).after k (.taskEnd u none 0)

/-- Requests may no longer be issued: the Porters stall (R545, R548). -/
def State.requestsGone (s : State) : State := if s.mayRequest then s else overIdx (fun u s => s.porterHold u) 4 s

/-- `ENG_PORTER_RATE[u]` written over the value `old`: the cap applies to each request issued from now on (R516). -/
def State.porterPaced (s : State) (u old : Nat) : State :=
  let was := if old = 0 then 2000 else min 2000 old
  match (s.slot u).running with
  | none => s
  | some t =>
    let j := (s.slot u).job
    if was = s.porterRate u ∨ j.aborted ∨ j.due ≤ s.now then s
    else if t.op = 0x12 then (if j.phase = 2 then s.drainPaced u (t.w 4 % 64) was else s)
    else if j.phase = 1 ∧ (t.readsHost ∨ t.writesHost) then s.rectPaced u t was
    else s

end Sys2Proof.Machine
end

