-- ==== Sys2Proof/Machine/Engines.lean ====
section
/-! DEFINITION. Taking and dispatching records, the sort flight, aborts, and the resumption of work that waited for the
link (18_usher.md, R482 to R484, R492, R500 to R503; 19_engines.md, R530, R532; R548, R549). -/

namespace Sys2Proof.Machine

/-! ### Indirect operands -/

/-- The operands of a task replaced with what their slots hold at its dispatch, and whether a word of theirs holds an
uncorrectable error (R206, R492, R560). -/
def State.resolveRead (s : State) (t : Task) : Task × Bool × State :=
  let words := (List.range 16).filter t.indirect
  let (bad, s) := words.foldl (fun (a : Bool × State) i =>
    let v := t.w i
    let (b, s) := a.2.storeReadCheck (0x3000000 + 64 * (v % 4096) + 4 * (v / 4096 % 16)) 4
    (a.1 || b, s)) (false, s)
  (s.resolve t, bad, s)

/-! ### The sort flight -/

/-- The Calibrator's capture looks again whether its pipeline runs (R522). -/
def State.calLook (s : State) (p : Nat) : State := if s.usher.calPipe = some p then s.after 0 (.dispatch 6) else s

/-- Bits of a 4-bit mask of pipelines. -/
def maskPipes (m : Nat) : List Nat := (List.range 4).filter fun p => bitN m p

/-- FLIGHT_ARM at its dispatch (R501). -/
def State.armFlight (s : State) (t : Task) : State :=
  let m := t.w 4 % 16
  let l := maskPipes m
  if s.on F.USH_FLIGHT_ARMED then s.finish t 0 0x8006 []
  else if l.any fun p => (s.slot (8 + p)).running.isSome || (s.slot (8 + p)).deck.isSome then s.finish t 0 0x8005 []
  else if m = 0 ∨ l.any fun p => s.g (F.PIP_SRC_SRC p) == 0 then s.finish t 0 0x8002 []
  else
    let s := l.foldl (fun s p => s.setPipe p { s.pipe p with bound := true, landed := false, disarming := false, prev := none }) s
    let s := (s.put F.USH_FLIGHT_ARMED 1).put F.USH_FLIGHT_PIPES m
    { s with usher := { s.usher with arm := some t } }

/-- FLIGHT_ARMED: every named pipeline has passed its first landing point (R501). -/
def State.flightArmed (s : State) : State :=
  match s.usher.arm with
  | none => s
  | some t =>
    if s.pipes.all fun x => !x.bound || x.landed then
      ({ s with usher := { s.usher with arm := none } } : State).finish t 0 0 []
    else s

/-- FLIGHT_ARMED (R501). -/
def execFlightArmed (s : State) : Result := .next s.flightArmed

/-- FLIGHT_DISARM at its dispatch: frames not started yet leave the flight; an arm not yet complete is abandoned (R40,
R503). -/
def State.disarmFlight (s : State) (t : Task) : State :=
  if !s.on F.USH_FLIGHT_ARMED then s.finish t 0 1 []
  else
    let s := match s.usher.arm with
      | some a => ({ s with usher := { s.usher with arm := none } } : State).finish a 0 0x8004 []
      | none => s
    let s := s.put F.USH_FLIGHT_DISARMING 1
    let s := { s with usher := { s.usher with disarms := s.usher.disarms ++ [t] } }
    let s := overIdx (fun p s =>
      let x := s.pipe p
      if x.bound then
        s.setPipe p { x with disarming := true, frames := x.frames.filter fun r => !(r.flight && decide (s.time < r.start)) }
      else s) 4 s
    s.after 0 .flightDisarmed

/-- A pipeline has come to the end of its run (R309, R500, R235). -/
def State.runOver (s : State) (p : Nat) : State :=
  let s := s.setPipe p { s.pipe p with bound := false, landed := false, disarming := false, prev := none }
  let s := if 3 ≤ s.g (F.PIP_SRC_SRC p) then s.stopPort (s.g (F.PIP_SRC_SRC p) - 3) else s
  s.calLook p

/-- FLIGHT_DISARMED: every bound pipeline has completed its last flight frame (R500, R503). -/
def State.flightDisarmed (s : State) : State :=
  if !s.on F.USH_FLIGHT_DISARMING || s.pipes.any fun x => x.bound && x.frames.any (·.flight) then s
  else
    let s := overIdx (fun p s => if (s.pipe p).bound then s.runOver p else s) 4 s
    let s := ((s.put F.USH_FLIGHT_ARMED 0).put F.USH_FLIGHT_PIPES 0).put F.USH_FLIGHT_DISARMING 0
    let l := s.usher.disarms
    l.foldl (fun s t => s.finish t 0 0 []) { s with usher := { s.usher with disarms := [] } }

/-- FLIGHT_DISARMED (R503). -/
def execFlightDisarmed (s : State) : Result := .next s.flightDisarmed

/-! ### The Usher's own tasks -/

/-- A task of the Usher run with its operands replaced (R488, R496, R497, R481, R501, R503). -/
def State.runOp (s : State) (t : Task) : State :=
  match t.op with
  | 0x00 => s.finish t 0 0 []
  | 0x01 => (s.arrive (cycleAt s.time) (t.w 4 % 256) (t.w 5)).finish t 0 0 []
  | 0x02 => s.startWait t.sq t
  | 0x03 => s.startWait t.sq t
  | 0x04 =>
    let n := if bitN (t.w 6) 1 then 8 else 4
    let bs := leBytes (t.q 8) n
    if t.w 6 % 2 = 1 then (s.storeWrite (t.q 4) bs).finish t 0 0 []
    else if s.hitsRing (t.q 4) n then s.finish t 0 0x8007 []
    else (s.hostPut (t.q 4) bs).finish t 0 0 []
  | 0x51 => s.armFlight { t with start := s.time }
  | _ => s.disarmFlight { t with start := s.time }

/-- A wait that failed its checks ends as a failed record does (R486, R490). -/
def State.failOp (s : State) (t : Task) (status : Nat) : State :=
  match (s.ring t.sq).wait with
  | some w => if w.task.taken = t.taken ∧ w.task.words = t.words then s.endWait t.sq w status (s.on (F.USH_SQ_CTRL_HALT_ERR t.sq))
    else s.finish t 0 status []
  | none => s.finish t 0 status []

/-- A task of the Usher fixed for `n` ticks from now. -/
def State.opAfter (s : State) (t : Task) (n : Nat) : State :=
  ({ s with usher := { s.usher with ops := s.usher.ops ++ [(s.time + n, t)] } } : State).after n (.dispatch 12)

/-- A task of the Usher whose operands have been replaced runs; an arm or disarm has its operands read at its dispatch, and
runs once they are replaced. A wait abandoned meanwhile is gone, and a host write waits for the link (R491, R492, R548). -/
def State.opDue (s : State) (t : Task) : State :=
  let isWait := t.op == 2 || t.op == 3
  let gone := isWait && !((s.ring t.sq).wait.any fun w => w.task.taken == t.taken && w.task.words == t.words)
  if gone then s
  else if 0x50 ≤ t.op ∧ t.marks ≠ 0 ∧ t.start = t.taken then
    let (r, _, s) := s.resolveRead t
    s.opAfter { r with start := s.time } t.resolveTicks
  else match if t.marks = 0 then none else t.dispatchCheck with
    | some status => s.failOp t status
    | none => s.runOp t

/-- Whether a due task of the Usher can run now: an arm or disarm is a dispatch, a host write is a request. -/
def State.opReady (s : State) (x : Nat × Task) : Bool :=
  decide (x.1 ≤ s.time) && (if 0x50 ≤ x.2.op then s.dispatches else s.usherRuns) && (x.2.op != 4 || s.mayRequest)

/-- Tasks of the Usher that are due run, in order. -/
def State.runOps (s : State) : State :=
  let (go, stay) := s.usher.ops.partition s.opReady
  go.foldl (fun s x => s.opDue x.2) { s with usher := { s.usher with ops := stay } }

/-! ### Taking -/

/-- The engine that a task goes to (R483). -/
def State.engineFor (s : State) (by_ : RunBy) (unit : Nat) : Nat :=
  let (l, _) := by_.engines
  if unit ≠ 15 then nth l unit 0
  else
    let free := l.filter fun u => (s.slot u).deck.isNone
    match free.find? fun u => (s.slot u).running.isNone with
    | some u => u
    | none => free.head?.getD 0

/-- The head record of ring `i` taken (R482, R484, R486, R494). -/
def State.take (s : State) (i : Nat) : State :=
  match (s.ring i).buf with
  | [] => s
  | (_, w) :: l =>
    let h := (s.sqHead i + 1) % ringMod
    let t : Task := ⟨i, h, w, s.time, s.time + 96, s.time⟩
    let s := s.modRing i fun r => { r with buf := l, outstanding := r.outstanding + 1 }
    let s := ((s.put (F.USH_SQ_STATUS_HEAD i) h).put (F.USH_CQ_RESV_RESERVED t.cq) (s.g (F.USH_CQ_RESV_RESERVED t.cq) + 1)).bump
      C.USH_CNT_TAKEN
    let s := { s with usher := { s.usher with lastServed := i, nextTake := s.time + 16 } }
    match t.takeCheck, opSpec t.op with
    | some status, _ => s.finish t t.unit status []
    | none, none => s
    | none, some (.usher, _) =>
      if t.marks = 0 then s.runOp t
      else
        let (r, _, s) := s.resolveRead t
        let s := if t.op = 2 ∨ t.op = 3 then s.modRing i fun x => { x with wait := some ⟨r, false, none, 0, [], false⟩ } else s
        s.opAfter r t.resolveTicks
    | none, some (.flight, _) => s.opAfter t 8
    | none, some (by_, _) =>
      let u := s.engineFor by_ t.unit
      (s.modSlot u fun x => { x with deck := some t }).dispatchSoon u

/-- RECORD_TAKE: on an Usher cycle, rings whose head names a completion ring that is off halt; the best eligible head is
taken; a cycle in which a head waits only for a completion slot counts (R482, R490, R494). -/
def State.takeRound (s : State) : State :=
  if !(s.usherRuns && s.mayRequest) || !onEdge 4 s.time then s
  else
    let s := overIdx (fun i s => if s.headState i = 4 then s.haltRing i 0 else s) 16 s
    let s := if (List.range 16).any fun i => s.headState i == 3 then
        let s := if s.usher.cqWaitAt = s.time then s
          else ({ s with usher := { s.usher with cqWaitAt := s.time } } : State).bump C.USH_CNT_CQ_WAIT
        s.kickAt (s.time + 4)
      else s
    let ready := (List.range 16).filter fun i => s.headState i == 0
    match ready with
    | [] => s
    | i :: l =>
      if s.time < s.usher.nextTake then s.kickAt s.usher.nextTake
      else (s.take (l.foldl (fun b j => if s.ringBefore b j then b else j) i)).kickAt (s.time + 16)

/-- RECORD_TAKE (R482). -/
def execRecordTake (s : State) : Result := .next s.takeRound

/-! ### Dispatch -/

/-- CAPTURE begins (R500, R501, R530). -/
def State.captureBegin (s : State) (u : Nat) (t : Task) : State :=
  let p := u - 8
  let x := s.pipe p
  if s.g (F.PIP_SRC_SRC p) = 0 then s.endTask u 0x8002 []
  else if x.bound then s.endTask u 0x8005 []
  else (s.setPipe p { x with capture := some (t.w 4), prev := none }).modJob u fun j => { j with phase := 1 }

/-- What ends task `r`, its operands replaced, at its dispatch: a slot word that held an uncorrectable error, an operand out
of its range, a host destination that meets a ring enabled on this tick; 0 where nothing does (R481, R492, R510, R560). -/
def State.dispatchStatus (s : State) (r : Task) (bad : Bool) : Nat :=
  match if r.marks = 0 then none else r.dispatchCheck with
  | some status => if bad then 0x8208 else status
  | none => if bad then 0x8208 else if r.hostDest.any fun d => s.hitsRing d.1 d.2 then 0x8007 else 0

/-- The running task of engine `u` begins, its operands replaced, unless its dispatch has found what ends it. -/
def State.beginTask (s : State) (u : Nat) (r : Task) : State :=
  if (s.slot u).job.status ≠ 0 then s.endTask u (s.slot u).job.status []
  else if r.op = 0x12 then s.drainBegin u r
  else if u < 4 then s.rectBegin u r
  else if u < 6 then s.loadBegin u r
  else if u = 6 then s.calBegin r
  else if u = 7 then s.arcBegin r
  else s.captureBegin u r

/-- The running task of engine `u` goes on. -/
def State.stepTask (s : State) (u : Nat) (t : Task) : State :=
  let j := (s.slot u).job
  if u < 4 then (if t.op = 0x12 ∧ j.phase = 1 ∧ j.began ≤ s.time then s.drainStep u t else s)
  else if u < 6 then s.loadStep u t
  else if u = 6 then s.calStep t
  else if u = 7 then s.arcStep t
  else s

/-- DISPATCH: the on-deck task of an idle engine starts, its slot operands read (R206); a task whose operands have been replaced begins; a task under
way goes on; for 12, the Usher's own tasks (R484, R492). -/
def State.dispatch (s : State) (u : Nat) : State :=
  if 12 ≤ u then s.runOps
  else
    let x := s.slot u
    match x.running, x.deck with
    | some t, _ =>
      if x.job.phase = 0 then (if s.now < x.job.due then s else s.beginTask u t) else s.stepTask u t
    | none, some t =>
      if !s.dispatches || decide (s.time < max t.ready x.freeAt + 8) then s
      else
        let n := t.resolveTicks
        let (r, bad, s) := s.resolveRead t
        let r := { r with start := s.time }
        let s := s.modSlot u fun x =>
          { x with running := some r, deck := none,
                   job := { Job.idle with due := s.now + n, status := s.dispatchStatus r bad } }
        let s := s.kick
        if n = 0 then s.beginTask u r else s.after n (.dispatch u)
    | none, none => s

/-- DISPATCH (R484). -/
def execDispatch (u : Nat) (s : State) : Result := .next (s.dispatch u)

/-! ### Task ends and aborts -/

/-- CAPTURE ends: the tap parts of its last frame have closed, or its row pair in progress after an abort has (R530,
R532). -/
def State.captureEnd (s : State) (u : Nat) : State :=
  let p := u - 8
  let x := s.pipe p
  let j := (s.slot u).job
  if j.aborted then (if s.now < j.due then s else s.endTask u 0x8004 [])
  else
    let shut := fun (r : PipeFrame) => r.complete && r.readOut s.time && s.partsClosed p r
    if x.capture = some 0 ∧ !(x.frames.any fun r => !r.flight && !shut r) then
      let s := s.setPipe p { x with capture := none, prev := none }
      (s.calLook p).endTask u 0 []
    else s

/-- TASK_END: the last piece of work of engine `u`'s task is over. `host` is what host memory gave it, `corr` the Archive
sectors corrected. -/
def State.taskEnd (s : State) (u : Nat) (host : Option (List Byte)) (corr : Nat) : State :=
  match (s.slot u).running with
  | none => s
  | some t =>
    if (s.slot u).job.phase = 0 then s
    else if u < 4 then (if t.op = 0x12 then s else s.rectEnd u t host)
    else if u < 6 then s.loadEnd u t host
    else if u = 6 then s.calEnd t
    else if u = 7 then s.arcReadEnd t corr
    else s.captureEnd u

/-- TASK_END (R512). -/
def execTaskEnd (u : Nat) (host : Option (List Byte)) (corr : Nat) (s : State) : Result :=
  .next (if u < 12 then s.taskEnd u host corr else s)

/-- The running CAPTURE of pipeline `p` is abandoned after the row pair in progress; the companion port it is bound to
stops (R235, R532). -/
def State.captureAbort (s : State) (p : Nat) : State :=
  let e := (s.pipe p).frames.foldl (fun m r => max m (s.pairEnd r)) s.time
  let src := s.g (F.PIP_SRC_SRC p)
  let s := s.stopPipe p
  let s := if 3 ≤ src then s.stopPort (src - 3) else s
  let s := s.modJob (8 + p) fun j => { j with aborted := true, due := s.now + (e - s.time) }
  (s.calLook p).after (e - s.time) (.taskEnd (8 + p) none 0)

/-- The running task of engine `u` is abandoned: the smallest piece begun finishes (R532, Table 19.9). -/
def State.abortTask (s : State) (u : Nat) : State :=
  match (s.slot u).running with
  | none => s
  | some t =>
    let j := (s.slot u).job
    if j.aborted then s
    else if j.phase = 0 then s.endTask u 0x8004 []
    else if u < 4 then
      if t.op = 0x12 then
        let s := s.modJob u fun j => { j with aborted := true }
        if j.phase = 3 ∨ (j.phase = 2 ∧ j.due ≤ s.now) then s.drainEnd u (t.w 4 % 64) 0x8004 0 else s.drainStep u t
      else s.rectStop u t 0x8004 none
    else if u < 6 then (s.modJob u fun j => { j with aborted := true }).loadStep u t
    else if u = 6 then s.calFail 0x8004
    else if u = 7 then s.arcAbort t
    else s.captureAbort (u - 8)

/-- ABORT: a write of `USH_ABORT` (Table 18.9, R532). -/
def State.abortMask (s : State) (mask : Nat) : State := overIdx (fun u s => if bitN mask u then s.abortTask u else s) 12 s

/-- ABORT (R532). -/
def execAbort (mask : Nat) (s : State) : Result := .next (s.abortMask mask)

/-- DEVICE_READ_ERROR: a host read of engine `u`'s task is not completed successfully (R549). -/
def State.readError (s : State) (u : Nat) : State :=
  match (s.slot u).running with
  | none => s
  | some t =>
    if !t.readsHost ∨ (s.slot u).job.phase ≠ 1 then s
    else if u < 4 then s.rectStop u t 0x8008 none
    else s.loadOver u 0x8008

/-- DEVICE_READ_ERROR (R549). -/
def execDeviceReadError (u : Nat) (s : State) : Result := .next (if u < 6 then s.readError u else s)

/-! ### Work that waited for the link -/

/-- The device may issue requests again: each waiting one is issued, in the order kept (R545, R548). -/
def State.requestsBack (s : State) : State :=
  if !(s.mayRequest && s.usherRuns) then s
  else
    let v := s.usher.heldVectors
    let s := v.foldl (fun s v => s.message v) { s with usher := { s.usher with heldVectors := [] } }
    let s := (s.flushNotices 0).flushNotices 1
    let s := s.writeCompletions
    let s := overIdx (fun i s =>
      let s := s.fetchSoon i 0
      match (s.ring i).wait with
      | some w => if w.held then s.after 0 (.valuePoll i) else s
      | none => s) 16 s
    let s := overIdx (fun u s =>
      match (s.slot u).running with
      | some t =>
        if (s.slot u).job.due ≤ s.now then
          if 3 ≤ (s.slot u).job.phase ∧ u < 4 then s.porterResume u t
          else if t.op = 0x12 ∧ (s.slot u).job.phase = 2 then s.after 0 (.packetRead (t.w 4 % 64) .ok)
          else if u < 4 ∧ t.op ≠ 0x12 then s.after 0 (.taskEnd u none 0)
          else s.after 0 (.dispatch u)
        else s
      | none => s) 8 s
    (s.after 0 (.dispatch 12)).kick

end Sys2Proof.Machine
end

