-- ==== Sys2Proof/Machine/Ring.lean ====
section
/-! DEFINITION. The Holot link as the planner and the engines see it: enumeration, cycles, the late test, fire queue
entries (12_ejection_planner.md, R338; 13_holot_link.md). -/

namespace Sys2Proof.Machine

/-- The member at gallery address `g`. -/
def State.member (s : State) (g : Nat) : Option Member := nth s.link.members g none

/-- Member `g` changed. -/
def State.modMember (s : State) (g : Nat) (f : Member → Member) : State :=
  { s with link := { s.link with members := modNth s.link.members g fun m => m.map f } }

/-- Gallery `g` is enumerated (R374). -/
def State.enumerated (s : State) (g : Nat) : Bool := (s.member g).any (·.enum)

/-- Gallery `g` is present in the cycle in progress (R375). -/
def State.present (s : State) (g : Nat) : Bool := (s.member g).any fun m => m.enum && m.held == some true

/-- The shortest cycle with `n` stations, in characters (R352). -/
def cycleMin (n : Nat) : Nat := 49 + 37 * n

/-- The length of the next cycle in ticks: the LENC that lands at its start, or the shortest (R352, R382). -/
def State.nextLen (s : State) : Nat := 240 * max (s.g F.HLK_CYCLE_LENC) (cycleMin s.link.nslot)

/-- A fire tick is deliverable in a cycle that starts at `start` with length `len` (R338). -/
def deliverable (fire start len : Nat) : Bool := decide (start + 3 * len ≤ fire)

/-- The cycle in progress (R352). -/
def State.inCycle (s : State) : Bool :=
  s.link.cycling && decide (s.link.start ≤ s.time) && decide (s.time < s.link.start + s.link.len)

/-- The planner's late test of a fire tick (R338): against the cycle in progress, else the next one fixed, else
none. -/
def State.lateNow (s : State) (fire : Nat) : Bool :=
  if s.inCycle then !deliverable fire s.link.start s.link.len
  else match s.link.next with
    | some t => !deliverable fire t s.nextLen
    | none => false

/-- A late command discarded, counted and reported (R338). -/
def State.late_ (s : State) (g fire : Nat) : State :=
  let s := s.bump (C.EJP_CNT_LATE g)
  let s := (s.putPair F.EJP_LAST_LATE_LO fire).put F.EJP_LAST_LATE_INFO_GALLERY g
  s.sticky F.EJP_FLAGS_LATE g 0x8C12 g [fire % 2 ^ 32, fire / 2 ^ 32, s.ctr (C.EJP_CNT_LATE g)]

/-- A command for an absent gallery counted and reported (R339). -/
def State.noGallery (s : State) (g : Nat) : State :=
  let s := s.bump (C.EJP_CNT_NOGAL g)
  s.sticky F.EJP_FLAGS_NOGAL g 0x0C10 g [s.ctr (C.EJP_CNT_NOGAL g)]

/-- Gallery `g` leaves enumeration: its fire queue is discarded and counted (R339). -/
def State.dropFires (s : State) (g : Nat) : State :=
  let q := nth s.hall.fire g []
  if q.isEmpty then s else q.foldl (fun s _ => s.noGallery g) (s.setFire g [])

/-! ### What HOLOT A sends (R346, R348) -/

/-- Length of a frame in characters (Table 13.2). -/
def LinkFrame.chars (f : LinkFrame) : Nat := match f.kind with | 0 => 24 | 1 => 12 | 2 => 12 | 3 => 8 | 4 => 16 | _ => 15

/-- The tick on which a frame's last character has left HOLOT A. -/
def LinkFrame.fin (f : LinkFrame) : Nat := f.start + 240 * f.chars

/-- Running disparity of HOLOT A's transmitter at character boundary `b`: IDLE fills the characters since the one at which it
is held, and each turns it. -/
def Link.rdOn (k : Link) (b : Nat) : Bool := k.rd != decide ((b - k.rdAt) / 240 % 2 = 1)

/-- HOLOT A sends these characters from character boundary `b` on. -/
def Link.sends (k : Link) (b : Nat) (l : List Sym) : Link :=
  { k with rd := k.rdOn b != turns l, rdAt := b + 240 * l.length }

/-- HOLOT A starts to transmit at character boundary `b`, with negative running disparity (R346). -/
def Link.starts (k : Link) (b : Nat) : Link := { k with rd := false, rdAt := b }

/-- The full value of a compact stamp seen at time `now` (R62). -/
def fullStamp (now c : Nat) : Nat :=
  let m := 2 ^ 48
  let d := (now % m + m - c % m) % m
  if d < 2 ^ 47 then now - d else now + (m - d)

end Sys2Proof.Machine
end

