-- ==== Sys2Proof/Machine/Straps.lean ====
section
/-! DEFINITION. The decode of strap pins (03_straps_and_balustrade.md, Tables 3.1 to 3.3). -/

namespace Sys2Proof.Machine

/-- Accept windows of Table 3.1 in ohms: lower and upper edge; level 7 has no upper edge. -/
def strapWindows : List (Nat × Nat) :=
  [(0, 500), (2560, 3460), (5260, 7120), (9350, 12650), (15900, 21500), (26900, 36300), (46700, 63100)]

/-- Level and anomaly flag of a resistance off every window edge (R70, R71): the level of its window, or the higher of
the two neighbouring levels with the flag. -/
def strapLevel (ohms : Nat) : List (Nat × Nat) → Nat → Nat × Bool
  | [], n => (n, decide (ohms < 200000))
  | (a, b) :: l, n => if ohms < a then (n, true) else if ohms < b then (n, false) else strapLevel ohms l (n + 1)

/-- The window whose edge a resistance lies exactly on (R72); 0 Ω is no edge of a guard band. -/
def strapEdge (ohms : Nat) : Option (Nat × Bool) :=
  if ohms = 200000 then some (7, false)
  else (List.range 7).findSome? fun n =>
    let w := nth strapWindows n (0, 0)
    if (ohms = w.1 ∧ 0 < n) ∨ ohms = w.2 then some (n, decide (ohms = w.2)) else none

/-- A strap pin decoded: on a window edge the result is the window's level or the guard band's, which one is free
(R70 to R72). -/
def State.readStrap (s : State) (ohms : Nat) : (Nat × Bool) × State :=
  match strapEdge ohms with
  | none => (strapLevel ohms strapWindows 0, s)
  | some (n, upper) =>
    let (k, s) := s.free 2
    (if k = 0 then (n, false) else (if upper then n + 1 else n, true), s)

/-- Several pins decoded in order. -/
def State.readStraps (s : State) : List Nat → List (Nat × Bool) × State
  | [] => ([], s)
  | o :: l =>
    let (x, s) := s.readStrap o
    let (xs, s) := s.readStraps l
    (x :: xs, s)

end Sys2Proof.Machine
end

