-- ==== Sys2Proof/Machine/Gallery.lean ====
section
/-! DEFINITION. The galleries: their registers, channels and pulses, fire store, faults, inputs and stations
(14_gallery_unit.md; 13_holot_link.md, R356, R364, R379 to R382; 02_newel_timebase.md, R66, R67). -/

namespace Sys2Proof.Machine

/-- Fields of the gallery register map (Table 14.7). -/
def G.lnkState : Fld := ⟨0x08, 2, 0⟩
def G.timeValid : Fld := ⟨0x0C, 0, 0⟩
def G.parked : Fld := ⟨0x0C, 1, 1⟩
def G.parkStep : Fld := ⟨0x0C, 4, 2⟩
def G.cutOn : Fld := ⟨0x0C, 5, 5⟩
def G.fault : Fld := ⟨0x0C, 6, 6⟩
def G.cutFault : Fld := ⟨0x0C, 7, 7⟩
def G.bankOk : Fld := ⟨0x0C, 11, 8⟩
def G.store : Fld := ⟨0x0C, 27, 16⟩
def G.peakCeil : Fld := ⟨0x10, 11, 0⟩
def G.holdCeil : Fld := ⟨0x14, 9, 0⟩
def G.peakTimeCeil : Fld := ⟨0x18, 21, 0⟩
def G.holdThr : Fld := ⟨0x1C, 6, 0⟩
def G.onForced : Fld := ⟨0x20, 0, 0⟩
def G.onXfed : Fld := ⟨0x20, 1, 1⟩
def G.latched : Fld := ⟨0x24, 0, 0⟩
def G.filt (i : Nat) : Fld := ⟨0x28 + 4 * (i / 4), 8 * (i % 4) + 7, 8 * (i % 4)⟩
def G.inWake : Fld := ⟨0x30, 7, 0⟩
def G.peak (n : Nat) : Fld := ⟨0x40 + 4 * n, 7, 0⟩
def G.hold (n : Nat) : Fld := ⟨0x40 + 4 * n, 15, 8⟩
def G.peakUs (n : Nat) : Fld := ⟨0x40 + 4 * n, 26, 16⟩
def G.temp (b : Nat) : Fld := ⟨0xC0 + 4 * b, 15, 0⟩
def G.forcedBank (b : Nat) : Fld := ⟨0xE0 + 4 * b, 0, 0⟩
def G.outRange (b : Nat) : Fld := ⟨0xE0 + 4 * b, 1, 1⟩
def G.volts (b : Nat) : Fld := ⟨0xE0 + 4 * b, 27, 16⟩
/-- Fault flag `i` of channel `n`: 0 OPEN, 1 OVC, 2 FORCED, 3 XFED, 4 OOS, 5 HOT. -/
def G.flag (n i : Nat) : Fld := ⟨0x100 + 4 * n, i, i⟩
def G.partner (n : Nat) : Fld := ⟨0x100 + 4 * n, 12, 8⟩
def G.iPeak (n : Nat) : Fld := ⟨0x100 + 4 * n, 27, 16⟩
def G.edgeLo (i : Nat) : Fld := ⟨0x400 + 8 * i, 31, 0⟩
def G.edgeHi (i : Nat) : Fld := ⟨0x404 + 8 * i, 15, 0⟩
def G.edgeLevel (i : Nat) : Fld := ⟨0x404 + 8 * i, 31, 31⟩

/-- Counters of Tables 13.13 and 14.6 by address. -/
def G.charErr : Nat := 0x200
def G.frameErr : Nat := 0x204
def G.seqRej : Nat := 0x208
def G.missed : Nat := 0x20C
def G.timeCorr : Nat := 0x210
def G.timeDisc : Nat := 0x220
def G.parkDisc : Nat := 0x224
def G.disDisc : Nat := 0x228
def G.oosDisc : Nat := 0x22C
def G.supplyDisc : Nat := 0x230
def G.overlap : Nat := 0x234
def G.past : Nat := 0x238
def G.storeFull : Nat := 0x23C
def G.ovc : Nat := 0x240
def G.fires (n : Nat) : Nat := 0x300 + 4 * n

/-- A field of a gallery's registers. -/
def Station.g (x : Station) (f : Fld) : Nat := bitsOf (x.regs.get f.off) f.hi f.lo

/-- A field of a gallery's registers set. -/
def Station.put (x : Station) (f : Fld) (v : Nat) : Station :=
  { x with regs := x.regs.set f.off (withBits (x.regs.get f.off) f.hi f.lo v) }

/-- `n` counts at `a` noted on this tick (R27). -/
def Station.noteCount (x : Station) (a n : Nat) : Station :=
  { x with moment := { x.moment with counts := x.moment.counts.set a (x.moment.counts.get a + BitVec.ofNat 32 n) } }

/-- A saturating 16-bit gallery counter advanced by `n` (R407). -/
def Station.count (x : Station) (a n : Nat) : Station :=
  (x.put ⟨a, 15, 0⟩ (min 65535 (x.g ⟨a, 15, 0⟩ + n))).noteCount a n

/-- A pulse of channel `n` counted, with a 32-bit wrap (R390, R407). -/
def Station.countFire (x : Station) (n : Nat) : Station :=
  (x.put ⟨G.fires n, 31, 0⟩ (x.g ⟨G.fires n, 31, 0⟩ + 1)).noteCount (G.fires n) 1

/-- A sticky flag set on this tick (R28). -/
def Station.raise (x : Station) (f : Fld) : Station :=
  { x.put f 1 with moment := { x.moment with marks := x.moment.marks.orAt f.off (2 ^ f.lo) } }

/-- The station on tick `now`: what was noted on an earlier tick is over. -/
def Station.onTick (x : Station) (now : Nat) : Station :=
  if x.moment.tick = now then x else { x with moment := ⟨now, [], [], []⟩ }

/-- Strapped current ceilings in mA and peak-time ceiling in ticks, by level (R79, R83, Table 3.3). -/
def peakCeilings : List Nat := [2500, 2250, 2000, 1750, 1500, 1250, 1000, 750]
def holdCeilings : List Nat := [800, 700, 600, 500, 400, 350, 300, 200]
def peakTimes : List Nat := [3000000, 2625000, 2250000, 1875000, 1500000, 1125000, 750000, 375000]

/-- The strap word of a gallery (Table 3.9). -/
def Station.strap (x : Station) : Nat := (x.regs.get 4).toNat
def Station.strapPeak (x : Station) : Nat := nth peakCeilings (x.strap / 16 % 8) 0
def Station.strapHold (x : Station) : Nat := nth holdCeilings (x.strap / 256 % 8) 0
def Station.strapTime (x : Station) : Nat := nth peakTimes (x.strap / 4096 % 8) 0

/-- The station address, if GS0 gives one (R80). -/
def Station.address (x : Station) : Option Nat := if bitN x.strap 16 then none else some (x.strap % 8)

/-- The time for which input `i` must hold a level, in ticks; 0 means one tick (R402). -/
def Station.filterTicks (x : Station) (i : Nat) : Nat :=
  let f := x.g (G.filt i)
  if f = 0 then 1 else 1500 * f

/-- Station state (Table 13.10). -/
def Station.state (x : Station) : Nat := x.g G.lnkState

/-- The station is parked (Table 13.10, R392). -/
def Station.isParked (x : Station) : Bool := x.state != 4 || decide (2 ≤ x.g G.parkStep)

/-- Channel `n` is out of service (R399). -/
def Station.oos (x : Station) (n : Nat) : Bool :=
  [2, 3, 4, 5].any (fun i => x.g (G.flag n i) == 1) || x.g (G.forcedBank (n / 8)) == 1

/-- Summary bits of `GAL_STATUS` follow what they report (Table 14.7, R400, R406). -/
def Station.sync (x : Station) : Station :=
  let b := fun (v : Bool) => if v then 1 else 0
  let out := (List.range 4).any fun k => x.g (G.outRange k) == 1
  let cutOn := (x.cut || x.g G.latched == 1) && !(x.cutFault && x.g G.cutFault == 1)
  let ok := ((List.range 4).map fun k => (1 - x.g (G.outRange k)) * 2 ^ k).foldl (· + ·) 0
  ((((x.put G.parked (b x.isParked)).put G.cutOn (b cutOn)).put G.fault
    (b ((List.range 32).any x.oos || out || x.g G.cutFault == 1))).put G.bankOk ok).put G.store x.store.length

/-- Gallery `g`. -/
def State.station (s : State) (g : Nat) : Station := (nth s.stations g Station.idle).onTick s.now

/-- The station tick of gallery `g`: its own copy of NEWEL_TIME (R66). -/
def State.loc (s : State) (g : Nat) : Nat := ((s.now : Int) + (s.station g).base).toNat

/-- A command fixed for station tick `t` of gallery `g`, at once where `t` has passed. -/
def State.atLoc (s : State) (g t : Nat) (c : Instr) : State := s.after (t - s.loc g) c

/-- Gallery `g` replaced, its summary bits following. -/
def State.setStation (s : State) (g : Nat) (x : Station) : State :=
  { s with stations := modNth s.stations g fun _ => if x.powered then x.sync else x }

/-- A status item queued: 16 are held, one that finds no room is lost and counted (R359). -/
def Station.item (x : Station) (code data : Nat) : Station :=
  if x.items.length < 16 then { x with items := x.items ++ [(code, data % 65536)] }
  else { x with itemsLost := min 65535 (x.itemsLost + 1) }

/-- The ring delay of unit `u`: that of its position, as far as the head has measured it, else the one the unit was sent
(R370). -/
def State.unitDelay (s : State) (u : Nat) : Nat :=
  let x := s.station u
  if s.link.nodes.contains u then nth s.link.delays (s.link.nodes.idxOf u + 1) 0
  else if x.everSetup then x.delay
  else match x.address with
    | some a => ((s.member a).map (·.delay)).getD 0
    | none => 0

/-- The units whose strapped address is `a`. -/
def State.unitsAt (s : State) (a : Nat) : List Nat :=
  (List.range 8).filter fun u => (s.station u).powered && (s.station u).address == some a

/-- LOGIC comes up with resistors `ohms` at GS0 to GS3: power-on reset, straps sensed, registers at
reset; its count starts at zero (R79, R119, Table 14.7; log entry 136). -/
def State.galleryOn (s : State) (g : Nat) (ohms : List Nat) (rev : Nat) : State :=
  let (l, s) := s.readStraps (ohms.take 4)
  let lv := fun i => (nth l i (7, false)).1
  let an := ((List.range 4).map fun i => if (nth l i (7, false)).2 then 2 ^ i else 0).foldl (· + ·) 0
  let strap := lv 0 + lv 1 * 16 + lv 2 * 256 + lv 3 * 4096 + an * 65536
  let ch := 180 + 40 * 2 ^ 8 + 1000 * 2 ^ 16
  let init : List (Nat × Nat) :=
    [(0, 0x0F20 + rev % 256 * 65536), (4, strap), (0x0C, 2), (0x10, nth peakCeilings (lv 1) 0),
     (0x14, nth holdCeilings (lv 2) 0), (0x18, nth peakTimes (lv 3) 0), (0x1C, 100), (0x20, 1), (0x28, 0x05050505),
     (0x2C, 0x05050505)] ++ (List.range 32).map (fun n => (0x40 + 4 * n, ch)) ++
    (List.range 4).map fun b => (0xE0 + 4 * b, 2)
  let regs := init.foldl (fun (r : Regs) e => r.set e.1 (BitVec.ofNat 32 e.2)) []
  if (s.station g).powered then s
  else s.setStation g { Station.idle with powered := true, regs := regs, rev := rev % 256, base := -(s.now : Int) }

/-- GALLERY_POWER_ON (R119). -/
def execGalleryPowerOn (g : Nat) (ohms : List Nat) (rev : Nat) (s : State) : Result := .next (s.galleryOn (g % 8) ohms rev)

/-- A sender of wake phrases: powered, and their end still ahead (R142). -/
def Station.phrasing (x : Station) (now : Nat) : Bool := x.powered && x.phraseEnd.any fun t => decide (now < t)

/-- The tick on which the K28.1 of the first wake unit that is not yet complete has been sent whole by a sender, if it goes on
until then (R138, R139). -/
def Station.unitAt (x : Station) (now : Nat) : Option Nat :=
  let t := x.phraseFrom + 240 + (now + 720 - x.phraseFrom) / 960 * 960
  if x.phrasing now && x.phraseEnd.any (fun e => decide (t ≤ e)) then some t else none

/-- The phrase that began at `begun` is one of a sender's that goes on until it is whole (R140, R142). -/
def Station.sends (x : Station) (now begun : Nat) : Bool :=
  x.phrasing now && decide (x.phraseFrom ≤ begun) && decide ((begun - x.phraseFrom) % 30720 = 0) &&
    x.phraseEnd.any fun e => decide (begun + 30720 ≤ e)

/-- The next wake unit that any station brings to HOLOT B is looked for, unless one is awaited before it (R139). -/
def State.awaitUnit (s : State) : State :=
  match (s.stations.filterMap fun x => x.unitAt s.now).min? with
  | none => s
  | some t =>
    if s.agenda.any fun e => e.2 == .wakeUnitAccepted && decide (e.1 ≤ t) then s else s.after (t - s.now) .wakeUnitAccepted

/-- The next whole phrase of any station is looked for, unless one is awaited (R140). -/
def State.awaitPhrase (s : State) : State :=
  let next := fun (x : Station) =>
    let t := x.phraseFrom + (s.now + 30719 - x.phraseFrom) / 30720 * 30720
    if x.sends s.now t then some t else none
  match (s.stations.filterMap next).min? with
  | none => s
  | some t =>
    if s.agenda.any (fun e => match e.2 with | .wakePhraseAccepted _ => true | _ => false) then s
    else s.after (t + 30720 - s.now) (.wakePhraseAccepted t)

/-- Station `g` sends no more wake phrases: a unit and a phrase that it would have had to finish are not awaited (R140 to
R142). -/
def State.endPhrases (s : State) (g : Nat) : State :=
  let x := s.station g
  let unit := x.unitAt s.now
  let s : State := { s with stations := modNth s.stations g fun x => { x with phraseEnd := none } }
  let gone := fun (e : Nat × Instr) => match e.2 with
    | .wakeUnitAccepted => unit == some e.1
    | .wakePhraseAccepted b => x.phrasing s.now && decide (x.phraseFrom ≤ b) && decide ((b - x.phraseFrom) % 30720 = 0) &&
        !s.stations.any fun y => y.sends s.now b
    | _ => false
  State.awaitPhrase (State.awaitUnit { s with agenda := s.agenda.filter fun e => !gone e })

/-- LOGIC_SUPPLY_LOSS: the gallery stops, its outputs off; its next power-up is a power-on reset (R119). -/
def execLogicSupplyLoss (g : Nat) (s : State) : Result :=
  let s := if (s.station (g % 8)).phraseEnd.isSome then s.endPhrases (g % 8) else s
  .next ((s.withdraw fun c => match c with | .inputEdge h _ _ => h % 8 == g % 8 | _ => false).setStation (g % 8) Station.idle)

/-- BAUD_CLOCK_RECOVERED: state 0 is left for 1 (Table 13.10). -/
def execBaudClockRecovered (g : Nat) (s : State) : Result :=
  let x := s.station (g % 8)
  .next (if x.powered ∧ x.state = 0 then s.setStation (g % 8) (x.put G.lnkState 1) else s)

/-- The characters received align a receiver: 64 IDLE, which is what a head sends that sends nothing else (R348). -/
def alignedBy (rx : Rx) : Bool := aligns (rx.syms (List.replicate 64 .idle))

/-- RECEIVER_ALIGNED: state 1 is left for 2; the station starts to transmit, with negative running disparity (R346, R348,
Table 13.10). -/
def execReceiverAligned (h : Heard) (s : State) : Result :=
  let x := s.station (h.g % 8)
  .next (if x.powered ∧ x.state = 1 ∧ alignedBy h.rx then
      s.setStation (h.g % 8) { x.put G.lnkState 2 with turned := s.link.rdOn s.time }
    else s)

/-- The pulse of channel `n`, if one is active. -/
def Station.pulse (x : Station) (n : Nat) : Option Pulse := x.pulses.find? fun p => p.ch == n

/-- A pulse of channel `n` ends now with `mA` its highest current: blanking starts; three in a row that folded back take
the channel out of service (R385, R395). -/
def Station.endPulse (x : Station) (p : Pulse) (now mA : Nat) (again : Bool) : Station :=
  let x := { x with pulses := x.pulses.filter (· != p)
                    lastOff := if again then x.lastOff else modNth x.lastOff p.ch fun _ => now }
  let x := x.put (G.iPeak p.ch) (min mA 4095)
  let n := if p.folded then nth x.overs p.ch 0 + 1 else 0
  if n = 3 then
    ({ x with overs := modNth x.overs p.ch fun _ => 0 }.raise (G.flag p.ch 4)).item 0x8103 p.ch
  else { x with overs := modNth x.overs p.ch fun _ => n }

/-- Every active pulse that meets `q` ends (R384, R391, R392, R396); its highest current is what the world showed, a
free value. -/
def State.stopPulses (s : State) (g : Nat) (q : Pulse → Bool) : State :=
  ((s.station g).pulses.filter q).foldl (fun s p =>
    let (v, s) := s.free 4096
    s.setStation g ((s.station g).endPulse p s.now v false)) s

/-- The station's pulses end if it is parked now (R392). -/
def State.parkPulses (s : State) (g : Nat) : State :=
  if (s.station g).isParked then s.stopPulses g fun _ => true else s

/-- Bits of a mask, ascending. -/
def bitList (m : Nat) : List Nat := (List.range 32).filter fun n => bitN m n

/-- The mask without bit `n`. -/
def clearMask (m n : Nat) : Nat := if bitN m n then m - 2 ^ n else m

/-- Channel `n` has a window that overlaps [a, b), held or being driven (R389). -/
def Station.overlaps (x : Station) (n a b : Nat) : Bool :=
  decide (a < b) &&
  (x.store.any (fun c => bitN c.jets n && decide (c.fire < b) && decide (a < c.fire + c.dur)) ||
    x.pulses.any fun p => p.ch == n && decide (p.start < b) && decide (a < p.stop))

/-- A FIRE whose PREV matches: past, disabled, overlap and full-store checks, then the store (R389). -/
def Station.takeFire (x : Station) (c : FireCmd) (now : Nat) : Station :=
  let x := { x with lastSeq := c.seq }
  let f := fullStamp now (c.fire % 2 ^ 48)
  let chans := bitList c.jets
  if f ≤ now + 120 then (x.count G.past chans.length).item 0x0105 c.seq else
  let (x, m) := chans.foldl (fun (a : Station × Nat) n =>
    if bitN a.1.en n then a else (a.1.count G.disDisc 1, clearMask a.2 n)) (x, c.jets)
  let (x, m) := (bitList m).foldl (fun (a : Station × Nat) n =>
    if a.1.overlaps n f (f + c.dur) then ((a.1.count G.overlap 1).item 0x0103 n, clearMask a.2 n) else a) (x, m)
  if m = 0 then x
  else if 2048 ≤ x.store.length then
    let x := { x with storeLost := min 65535 (x.storeLost + 1) }.count G.storeFull (bitList m).length
    x.item 0x8105 x.storeLost
  else { x with store := x.store ++ [{ c with jets := m, fire := f }] }

/-- A frame is addressed to the station, or to every station (R349, R364). -/
def Station.hears (x : Station) (f : LinkFrame) : Bool := f.gal / 128 % 2 == 1 || x.address == some (f.gal % 8)

/-- The frame of kind `k` that is due at unit `g` now taken from those on their way to it; those gone by leave with it
(R364). -/
def State.takeFrameDue (s : State) (g k : Nat) : Option LinkFrame × State :=
  let due := fun (e : Flight) => e.tick == s.time && e.unit == g && e.frame.kind == k
  let s' := { s with link := { s.link with
    inFlight := s.link.inFlight.filter fun e => !due e && decide (s.time ≤ e.tick) } }
  ((s.link.inFlight.find? due).map (·.frame), s')

/-- What a station counts of a frame received broken (R351, R380). -/
def Station.badFrame (x : Station) (rx : Rx) : Station := (x.count G.charErr rx.errs).count G.frameErr 1

/-- A station repeats characters in the place of those sent to it: what differs turns its transmitter's running disparity
(R346, R380). -/
def Station.relays (x : Station) (sent got : List Sym) : Station :=
  { x with turned := x.turned != (turns sent != turns (relayed got)) }

/-- What reaches unit `g` in the place of frame `f` of the head: a station that is aligned counts it when it is not valid
(R351), else `act` is done with what it says. -/
def State.receive (s : State) (g : Nat) (f : LinkFrame) (rx : Rx) (act : State → LinkFrame → State) : State :=
  let x := s.station g
  if !x.powered || decide (x.state < 2) then s
  else match rx.frame f with
    | none => s.setStation g ((x.badFrame rx).relays f.syms (rx.syms f.syms))
    | some f => act s f

/-- A FIRE accepted or rejected for its PREV (R364, R389). -/
def State.fireAccepted (s : State) (g : Nat) (f : LinkFrame) : State :=
  let x := s.station g
  let d := fun (i : Nat) => nth f.data i (0 : Nat)
  if d 0 ≠ x.lastSeq then s.setStation g ((x.count G.seqRej 1).item 0x0002 (d 0))
  else
    let c : FireCmd := ⟨d 1, d 2, d 3, d 4, d 5, d 6 == 1, d 7 == 1, s.time, true, false⟩
    let s := s.setStation g (x.takeFire c (s.loc g))
    let f := fullStamp (s.loc g) (c.fire % 2 ^ 48)
    if s.loc g < f then s.atLoc g f (.fireTick g) else s

/-- An OUTSET accepted: enable mask, park, cut; a lost-parked station returns with PARK 0 (R391 to R393, R400,
Table 13.10). -/
def State.outsetAccepted (s : State) (g : Nat) (f : LinkFrame) : State :=
  let x := s.station g
  let d := fun (i : Nat) => nth f.data i (0 : Nat)
  let gone := fun n => bitN x.en n && !bitN (d 0) n
  let s := s.stopPulses g fun p => gone p.ch
  let x := s.station g
  let lost := ((List.range 32).filter gone).map fun n => (x.store.filter fun c => bitN c.jets n).length
  let store := (x.store.map fun c =>
    { c with jets := ((List.range 32).filter gone).foldl clearMask c.jets }).filter fun c => c.jets != 0
  let x : Station := { x with en := d 0, store := store, cut := d 2 == 1,
                              cycles := x.cycles.map fun c => { c with outset := c.outset || c.cyc == d 3 } }
  let x : Station := (x.count G.disDisc (lost.foldl (· + ·) 0)).put G.parkStep (d 1)
  let x : Station := if 2 ≤ d 1 then { x with lastPark := d 1 } else x
  let x : Station := if d 1 = 0 ∧ x.state = 5 then
      let x : Station := x.put G.lnkState (if x.g G.timeValid = 1 then 4 else 3)
      { x with items := (0x8001, min 65535 x.parkedFor) :: x.items, parkedFor := 0 }
    else x
  (s.setStation g x).parkPulses g

/-- A REGW accepted: the write waits for the next cycle start, and its reply with it (R366). -/
def State.regwAccepted (s : State) (g : Nat) (f : LinkFrame) : State :=
  let x := s.station g
  s.setStation g { x with writes := x.writes ++ [(nth f.data 0 0, nth f.data 1 0)],
                          replies := x.replies ++ [(nth f.data 0 0, false)] }

/-- A REGR accepted: a register reply is queued (R366). -/
def State.regrAccepted (s : State) (g : Nat) (f : LinkFrame) : State :=
  let x := s.station g
  s.setStation g { x with replies := x.replies ++ [(nth f.data 0 0, true)] }

/-- A SETUP accepted: the station takes its fields, SEQ only when it is not configured (R372, Table 13.10); the next marker
loads its count (R66). -/
def State.setupAccepted (s : State) (g : Nat) (f : LinkFrame) : State :=
  let x := s.station g
  let d := fun (i : Nat) => nth f.data i (0 : Nat)
  let first := !x.everSetup
  let x' := { x with delay := d 0, acc := d 1, lenc := d 2, slot := d 3, nslot := d 4, everSetup := true, fresh := true,
                     lastSeq := if first then d 5 else x.lastSeq }
  s.setStation g (if x.state = 2 then
    { (x'.put G.lnkState 3).put G.timeValid 0 with reloaded := false, lastCyc := none } else x')

/-- A valid write frame at station `g` on its acceptance tick: accepted when it is addressed to the station and the station
is configured, or by its SETUP becomes so (R364, R372). -/
def State.accept (s : State) (g : Nat) (f : LinkFrame) : State :=
  let x := s.station g
  if !x.hears f || decide (x.state < (if f.kind = 4 then 2 else 3)) then s
  else match f.kind with
    | 0 => s.fireAccepted g f
    | 1 => s.outsetAccepted g f
    | 2 => s.regwAccepted g f
    | 3 => s.regrAccepted g f
    | _ => s.setupAccepted g f

/-- A write frame of kind `k` reaches station `g` on its acceptance tick (R364). -/
def State.acceptFrame (s : State) (g k : Nat) (rx : Rx) : State :=
  match s.takeFrameDue g k with
  | (none, s) => s
  | (some f, s) => s.receive g f rx fun s f => s.accept g f

/-- FIRE_ACCEPT (R389). -/
def execFireAccept (g : Nat) (rx : Rx) (s : State) : Result := .next (s.acceptFrame (g % 8) 0 rx)

/-- OUTSET_ACCEPT (R391). -/
def execOutsetAccept (g : Nat) (rx : Rx) (s : State) : Result := .next (s.acceptFrame (g % 8) 1 rx)

/-- REGW_ACCEPT (R366). -/
def execRegwAccept (g : Nat) (rx : Rx) (s : State) : Result := .next (s.acceptFrame (g % 8) 2 rx)

/-- REGR_ACCEPT (R366). -/
def execRegrAccept (g : Nat) (rx : Rx) (s : State) : Result := .next (s.acceptFrame (g % 8) 3 rx)

/-- SETUP (R372). -/
def execSetup (g : Nat) (rx : Rx) (s : State) : Result := .next (s.acceptFrame (g % 8) 4 rx)

/-- One register write as a gallery judges it (R87, R366, Table 14.7): reserved addresses, ceilings, ranges; a flag set on
the tick of its clear stays, and a counter cleared keeps what it counts on that tick (R27, R28). -/
def Station.write (x : Station) (a v : Nat) : Station :=
  let f := fun (fl : Fld) => v / 2 ^ fl.lo % 2 ^ (fl.hi + 1 - fl.lo)
  let bound := fun (fl : Fld) (m : Nat) => if f fl ≤ m then x.put fl (f fl) else x
  let w1c := fun (x : Station) (fl : Fld) =>
    if f fl = 1 ∧ !bitN (x.moment.marks.get fl.off).toNat fl.lo then x.put fl 0 else x
  if a % 4 ≠ 0 then x
  else if a = 0x10 then bound G.peakCeil x.strapPeak
  else if a = 0x14 then bound G.holdCeil x.strapHold
  else if a = 0x18 then bound G.peakTimeCeil x.strapTime
  else if a = 0x1C then (if 60 ≤ f G.holdThr ∧ f G.holdThr ≤ 100 then x.put G.holdThr (f G.holdThr) else x)
  else if a = 0x20 then (x.put G.onForced (f G.onForced)).put G.onXfed (f G.onXfed)
  else if a = 0x24 then w1c x G.latched
  else if a = 0x28 ∨ a = 0x2C then { x with regs := x.regs.set a (BitVec.ofNat 32 v) }
  else if a = 0x30 then x.put G.inWake (f G.inWake)
  else if 0x40 ≤ a ∧ a < 0xC0 then
    let n := (a - 0x40) / 4
    let x := if 10 ≤ f (G.peak n) then x.put (G.peak n) (f (G.peak n)) else x
    let x := if 20 ≤ f (G.hold n) ∧ f (G.hold n) ≤ 80 then x.put (G.hold n) (f (G.hold n)) else x
    if f (G.peakUs n) ≤ 2000 then x.put (G.peakUs n) (f (G.peakUs n)) else x
  else if 0xE0 ≤ a ∧ a < 0xF0 then w1c x (G.forcedBank ((a - 0xE0) / 4))
  else if 0x100 ≤ a ∧ a < 0x180 then (List.range 6).foldl (fun x i => w1c x (G.flag ((a - 0x100) / 4) i)) x
  else if (0x200 ≤ a ∧ a ≤ 0x210) ∨ (0x220 ≤ a ∧ a ≤ 0x240) then
    if v % 2 ^ 16 = 0 then x.put ⟨a, 15, 0⟩ (min 65535 (x.moment.counts.get a).toNat) else x
  else if 0x300 ≤ a ∧ a < 0x380 then
    if v % 2 ^ 32 = 0 then { x with regs := x.regs.set a (x.moment.counts.get a) } else x
  else x

/-- Writes that wait for the cycle start land (R366, Lands Cycle). -/
def Station.landWrites (x : Station) : Station :=
  let x' := x.writes.foldl (fun x w => x.write w.1 w.2) x
  { x' with writes := [], replies := x'.replies.map fun r => (r.1, true) }

/-- The station's time becomes invalid (R67, R392). -/
def State.timeInvalid (s : State) (g : Nat) (diff : Int) : State :=
  let x := { (s.station g).put G.timeValid 0 with reloaded := false }
  let x := if (s.station g).state = 4 then x.put G.lnkState 3 else x
  (s.setStation g (x.item 0x0001 (unsigned 16 (clampI (-32767) 32767 diff)))).parkPulses g

/-- The first chop period of channel `n` that starts after station tick `t` (R386); the count starts again from zero at its
wrap (R59). -/
def chopAfter (n t : Nat) : Nat :=
  let u := t + 1
  let c := u + (500 * n + 16000 - newelTime u % 16000) % 16000
  let wrap := u - newelTime u + 2 ^ 64
  if c < wrap then c else wrap + 500 * n

/-- What station `g` times by its count, fixed anew once the count has been loaded (R66, R67). -/
def State.retime (s : State) (g : Nat) : State :=
  let x := s.station g
  let s := x.store.foldl (fun s c => s.atLoc g c.fire (.fireTick g)) s
  x.pulses.foldl (fun s p => ((s.atLoc g (min p.peakEnd p.stop) (.peakEnd g p.ch none)).atLoc g
    (chopAfter p.ch (s.loc g)) (.chopPeriodStart g ⟨p.ch, false⟩)).atLoc g p.stop (.pulseEnd g p.ch none)) s

/-- Two ticks on which a station takes the same cycle to start: they differ by no more than R67 corrects. -/
def sameStart (a b : Nat) : Bool := decide (a ≤ b + 3) && decide (b ≤ a + 3)

/-- The cycle of an accepted marker joins those the station counts, in the place of the one it counted nominally (R356,
R382). -/
def State.countCycle (s : State) (g w cyc len : Nat) : State :=
  let x := s.station g
  let old := x.cycles.find? fun c => sameStart c.start w
  let new : StationCycle := ⟨w, w + len, cyc, true, old.any (·.outset), old.any (·.latched), w + len⟩
  let s := s.setStation g { x with cycles := (x.cycles.filter fun c => sameStart c.next w && !sameStart c.start w) ++ [new] }
  (s.after (w + len - s.now) (.missedCycle g)).after (w + 6000 - s.now) (.stationLatch g)

/-- How the station's count stands to a marker accepted with stamp `m` whose first bit it sampled 3,600 ticks ago: loaded at
the first marker since a ring delay was received; else corrected, found invalid, or confirmed (R66, R67). -/
def State.checkTime (s : State) (g m : Nat) (next : Bool) : State :=
  let x := s.station g
  let want : Int := (m + x.delay + 3600 : Nat) - (s.now : Int)
  let diff := x.base - want
  let loaded : Station := { x with base := want, fresh := false }
  if x.g G.timeValid = 1 then
    if x.fresh then (s.setStation g loaded).retime g
    else if diff.natAbs ≤ 1 then s
    else if diff.natAbs ≤ 3 then (s.setStation g (loaded.count G.timeCorr 1)).retime g
    else s.timeInvalid g diff
  else if x.reloaded && !x.fresh && next && decide (diff.natAbs ≤ 1) then
    let x := { x with reloaded := false }.put G.timeValid 1
    s.setStation g (if x.state = 3 then x.put G.lnkState 4 else x)
  else (s.setStation g { loaded with reloaded := true }).retime g

/-- A marker accepted, the station's own count having gained `slip` ticks on the head's since the one before (R66, R67,
R356); wake phrases end (R141). -/
def State.markerAccepted (s : State) (g : Nat) (f : LinkFrame) (slip : Int) : State :=
  let d := fun i => nth f.data i 0
  let s := if (s.station g).phraseEnd.isSome then s.endPhrases g else s
  let x := s.station g
  let next := x.lastCyc.any fun c => (c + 1) % 256 == d 1
  let s := s.setStation g { x with base := x.base + slip, nslot := d 2, lenc := d 3, noMarker := 0, lastCyc := some (d 1) }
  let s := s.checkTime g (d 0) next
  s.countCycle g ((d 0 : Int) - (s.station g).base).toNat (d 1) (240 * d 3)

/-- STATION_MARKER (R356). -/
def execStationMarker (g : Nat) (rx : Rx) (slip : Int) (s : State) : Result :=
  .next (match s.takeFrameDue (g % 8) 5 with
    | (none, s) => s
    | (some f, s) => s.receive (g % 8) f rx fun s f =>
        if (s.station (g % 8)).state < 3 then s else s.markerAccepted (g % 8) f slip)

/-- The AUX item of a read frame: a register reply before a status item (R359). -/
def Station.auxItem (x : Station) : Option (Nat × Nat) × Station :=
  match x.replies, x.items with
  | (a, true) :: l, _ => (some (1, (x.regs.get a).toNat), { x with replies := l })
  | _, i :: l =>
    let x := { x with items := l }
    (some (0, i.1 + i.2 * 65536),
      if x.itemsLost = 0 ∨ 16 ≤ l.length then x else { x with items := x.items ++ [(0x0004, x.itemsLost)], itemsLost := 0 })
  | _, [] => (none, x)

/-- The model's tick on which the read frame of the station's slot has left it in a cycle that starts at `w` (R354, R357). -/
def Station.frameGone (x : Station) (w : Nat) : Nat := w + x.delay + 240 * (46 + 25 * x.slot)

/-- The content of the cycle's read frame latched on station tick cycle start + 6,000 (R356, Table 13.5). -/
def State.latchStation (s : State) (g : Nat) : State :=
  let x := s.station g
  match x.cycles.find? fun c => c.marker && !c.latched && decide (c.start + 6000 ≤ s.now) && decide (s.now < c.next) with
  | some k =>
    if x.state < 3 then s else
    let (aux, x) := x.auxItem
    let ok := match x.cycles.find? fun c => sameStart c.next k.start && c != k with
      | some c => c.outset
      | none => x.outOk
    let bit := fun (v : Bool) (n : Nat) => if v then 2 ^ n else 0
    let mask := fun (q : Pulse → Bool) => ((x.pulses.filter q).map fun p => 2 ^ p.ch).foldl (· + ·) 0
    let stat := x.g G.timeValid + bit x.isParked 1 + bit ok 2 + bit aux.isSome 3 +
      bit (aux.any fun a => a.1 == 1) 4 + x.g G.fault * 32 + x.g G.cutOn * 64
    let c : ReadContent := ⟨k.cyc, x.frameGone k.start, false, stat, x.inputs, mask fun _ => true,
      mask fun p => decide (s.loc g < p.peakEnd), x.lastSeq, (match aux with | some a => a.2 | none => 0)⟩
    let cycles := x.cycles.map fun c => if c = k then { c with latched := true } else c
    if x.slot < x.nslot then
      (s.setStation g { x with latched := some c, cycles := cycles }).after (c.sentAt - s.now) (.stationLatch g)
    else s.setStation g { x with cycles := cycles }
  | none => s

/-- The four characters of a wake unit (R138). -/
def wakeUnit : List Sym := [.wake, .data 0xB5, .data 0xB5, .data 0xB5]

/-- Characters that station `g` sends in the place of IDLE turn the running disparity of its transmitter and of those after
it (R346, R380). -/
def State.turnFrom (s : State) (g : Nat) (l : List Sym) : State :=
  if turns l = decide (l.length % 2 = 1) then s
  else
    let after := if s.link.nodes.contains g then s.link.nodes.drop (s.link.nodes.idxOf g) else [g]
    { s with stations := s.stations.zipIdx.map fun e => if after.contains e.2 then { e.1 with turned := !e.1.turned } else e.1 }

/-- The read frame has left station `g`, unless it is no longer configured: next in its slot comes a wake unit, if a request
waits in states 3 and 4, else IDLE (R357, R379, R404). The head's detector samples the K28.1 after the rest of the loop
(R139). -/
def State.frameSent (s : State) (g : Nat) : State :=
  let x := s.station g
  match x.latched with
  | some c =>
    if c.sent || decide (s.now < c.sentAt) then s
    else if x.state < 3 then s.setStation g { x with latched := none }
    else
      let unit := x.wake && (x.state == 3 || x.state == 4)
      let s := s.setStation g { x with latched := some { c with sent := true }, wake := x.wake && !unit }
      let s := s.turnFrom g (c.syms (x.address.getD 0) ++ (if unit then wakeUnit else List.replicate 4 .idle))
      if unit then s.after (s.link.loop - s.unitDelay g + 240) .wakeUnitAccepted else s
  | none => s

/-- STATION_LATCH: the latch of R356, and the end of the station's read frame (R357). -/
def execStationLatch (g : Nat) (s : State) : Result := .next ((s.latchStation (g % 8)).frameSent (g % 8))

/-- Leave times of the steps in ticks (Table 5.1). -/
def leaveTicks : List Nat := [0, 4500, 45000, 450000, 4500000, 45000000]

/-- Station `g` sends whole wake phrases for twice the leave time of the step last named in a park command, or of Vault
(R141, R142). -/
def State.startPhrases (s : State) (g : Nat) : State :=
  let x := s.station g
  let d := 2 * nth leaveTicks (if x.lastPark = 0 then 5 else x.lastPark) 0
  let s := s.setStation g { x with wake := false, phraseEnd := some (s.now + d)
                                   phraseFrom := if x.phrasing s.now then x.phraseFrom else s.now }
  (s.after d (.wakePhraseEnd g)).awaitUnit.awaitPhrase

/-- A third marker in a row missed: time becomes invalid, and a wake request that waits is sent in phrases (Table 5.5,
R141, R404). -/
def State.markersGone (s : State) (g : Nat) : State :=
  let x := s.station g
  if x.noMarker ≠ 3 then s else
  let s := if x.g G.timeValid = 1 then s.setStation g ({ x with reloaded := false }.put G.timeValid 0) else s
  if x.wake then s.startPhrases g else s

/-- Writes of `GAL_IN_FILT` have landed: inputs whose raw level is held are looked at as the filter now stands (R402). -/
def State.refilter (s : State) (g : Nat) : State :=
  let x := s.station g
  (List.range 8).foldl (fun s i =>
    if bitN x.raw i = bitN x.inputs i then s
    else s.after ((nth x.rawAt i (0, 0)).1 + x.filterTicks i - s.now) (.inputEdge g i (bitN x.raw i))) s

/-- A cycle that station `g` counts begins: accepted writes land (R366). -/
def State.cycleBegins (s : State) (g : Nat) : State :=
  let x := s.station g
  if x.cycles.any fun c => c.next == s.now then (s.setStation g x.landWrites).refilter g else s

/-- The acceptance tick of an OUTSET of the cycle that station `g` has received whole and not yet accepted. -/
def State.outsetAwaited (s : State) (g : Nat) (c : StationCycle) : Option Nat :=
  (s.link.inFlight.find? fun e => e.unit == g && e.frame.kind == 1 && nth e.frame.data 3 0 == c.cyc &&
    decide (e.frame.fin ≤ s.time) && decide (s.time < e.tick) && (s.station g).hears e.frame).map (·.tick)

/-- A cycle that station `g` counts judged: missed unless both its marker and its OUTSET were accepted; without a marker the
next one is counted nominally (R382). -/
def State.judged (s : State) (g : Nat) (c : StationCycle) : State :=
  let x := s.station g
  let len := 240 * x.lenc
  let rest := x.cycles.filter (· ≠ c)
  let known := rest.any fun d => sameStart d.start c.next
  let next : StationCycle := ⟨c.next, c.next + len, (c.cyc + 1) % 256, false, false, false, c.next + len⟩
  let x := { x with outOk := c.outset, cycles := if known then rest else rest ++ [next],
                    noMarker := if c.marker || rest.any (·.marker) then 0 else x.noMarker + 1 }
  let x := if c.marker && c.outset then { x with missed := 0 }
    else { x with missed := x.missed + 1, parkedFor := x.parkedFor + (if x.state = 5 then 1 else 0) }.count G.missed 1
  let s := s.setStation g x
  let s := if known then s else s.after (next.next - s.now) (.missedCycle g)
  let s := if 3 ≤ x.missed ∧ x.state = 4 then s.after 0 (.stationParkMissed g) else s
  s.markersGone g

/-- The end of a cycle that station `g` counts: it is judged, or on the acceptance tick of an OUTSET of it that is still to be
accepted (R382; log entry 66). -/
def State.judgeCycle (s : State) (g : Nat) : State :=
  match (s.station g).cycles.find? fun c => c.judged == s.now with
  | none => s
  | some c =>
    match if c.marker && !c.outset then s.outsetAwaited g c else none with
    | some t =>
      let x := s.station g
      (s.setStation g { x with cycles := x.cycles.map fun d => if d = c then { c with judged := s.now + (t - s.time) } else d }).after
        (t - s.time) (.missedCycle g)
    | none => s.judged g c

/-- MISSED_CYCLE: what the station's own count of cycles brings (R366, R382). -/
def execMissedCycle (g : Nat) (s : State) : Result := .next ((s.cycleBegins (g % 8)).judgeCycle (g % 8))

/-- STATION_PARK_MISSED: after the third missed cycle the station parks on its own (R382, R392). -/
def execStationParkMissed (g : Nat) (s : State) : Result :=
  let x := s.station (g % 8)
  .next (if 3 ≤ x.missed ∧ x.state = 4 then
      (s.setStation (g % 8) { x.put G.lnkState 5 with parkedFor := x.missed }).parkPulses (g % 8)
    else s)

/-- ALIGNMENT_LOSS: four character errors within 16 characters: a station in states 2 to 5 returns to Listening, parked; it
counts its cycles on (R348, R379, R382). -/
def execAlignmentLoss (g : Nat) (rx : Rx) (s : State) : Result :=
  let x := s.station (g % 8)
  .next (if x.powered ∧ 2 ≤ x.state ∧ losesAlignment (rx.syms []) then
      (s.setStation (g % 8) ((x.count G.charErr rx.errs).put G.lnkState 1)).parkPulses (g % 8)
    else s)

/-- Setpoints and peak time of a pulse of channel `n`, fixed at F (R387). -/
def Station.pulseSettings (x : Station) (n : Nat) : Nat × Nat × Nat :=
  (min (10 * x.g (G.peak n)) (min x.strapPeak (x.g G.peakCeil)),
   min (10 * x.g (G.hold n)) (min (min x.strapHold (x.g G.holdCeil)) (x.strapHold * x.g G.holdThr / 100)),
   min (1500 * x.g (G.peakUs n)) (min x.strapTime (x.g G.peakTimeCeil)))

/-- The counter of the first cause that keeps channel `n` from firing (R390). -/
def Station.cause (x : Station) (n : Nat) : Option Nat :=
  if x.g G.timeValid = 0 then some G.timeDisc
  else if x.isParked then some G.parkDisc
  else if x.oos n then some G.oosDisc
  else if x.g (G.outRange (n / 8)) = 1 then some G.supplyDisc
  else none

/-- A pulse of gallery `g` changed. -/
def State.modPulse (s : State) (g : Nat) (p : Pulse) (f : Pulse → Pulse) : State :=
  let x := s.station g
  s.setStation g { x with pulses := x.pulses.map fun q => if q = p then f q else q }

/-- The current of a pulse judged at the end of its peak phase, or at F + D if that is earlier: below half of Ip the
load is open (R398). -/
def State.judgePulse (s : State) (g : Nat) (p : Pulse) (mA : Nat) : State :=
  if p.judged then s else
  let s := s.modPulse g p fun q => { q with judged := true }
  if 2 * mA < p.ip then s.setStation g (((s.station g).raise (G.flag p.ch 0)).item 0x0101 p.ch) else s

/-- What the world shows of a current, or a free value where it shows none. -/
def State.seen (s : State) (mA : Option Nat) : Nat × State :=
  match mA with
  | some v => (v, s)
  | none => s.free 4096

/-- Channel `n` driven for [f, f + dur) (R385, R387, R390); a pulse that ends where this one begins is judged first
(R398). -/
def State.drive (s : State) (g n f dur : Nat) : State :=
  let x := s.station g
  let (ip, ih, p) := x.pulseSettings n
  let s := match x.pulse n with
    | some q =>
      let (v, s) := s.free 4096
      let s := s.judgePulse g q v
      match (s.station g).pulse n with
      | some q => s.setStation g ((s.station g).endPulse q s.now v true)
      | none => s
    | none => s
  let x := s.station g
  let pulse : Pulse := ⟨n, f, f + dur, f + p, ip, ih, true, false, false, false⟩
  let s := s.setStation g ({ x with pulses := x.pulses ++ [pulse] }.countFire n)
  let s := s.atLoc g (f + min p dur) (.peakEnd g n none)
  (s.atLoc g (chopAfter n f) (.chopPeriodStart g ⟨n, false⟩)).atLoc g (f + dur) (.pulseEnd g n none)

/-- Whether an event of this tick that R390 to R392 put before a fire of the tick is still to come at station `g`. -/
def State.beforeFire (s : State) (g : Nat) : Bool :=
  let q := fun (i : Instr) => match i with
    | .outsetAccept h _ => h % 8 == g
    | .stationMarker h _ _ => h % 8 == g
    | .missedCycle h => h % 8 == g
    | .stationParkMissed h => h % 8 == g
    | _ => false
  s.pending.any q || s.agenda.any fun e => decide (e.1 ≤ s.now) && q e.2

/-- Held commands whose fire tick has come: each channel is driven or counted under its first cause (R390). -/
def State.fireDue (s : State) (g : Nat) : State :=
  let x := s.station g
  let (due, rest) := x.store.partition fun c => decide (c.fire ≤ s.loc g)
  if due.isEmpty then
    match rest with
    | c :: _ => if x.powered then s.atLoc g c.fire (.fireTick g) else s
    | [] => s
  else if s.beforeFire g then s.after 0 (.fireTick g)
  else
    let s := s.setStation g { x with store := rest }
    due.foldl (fun s c => (bitList c.jets).foldl (fun s n =>
      match (s.station g).cause n with
      | some k => s.setStation g ((s.station g).count k 1)
      | none => s.drive g n c.fire c.dur) s) s

/-- FIRE_TICK (R390). -/
def execFireTick (g : Nat) (s : State) : Result := .next (s.fireDue (g % 8))

/-- The peak phase of channel `n` ends: the switch opens until the next chop period (R385, R398). -/
def State.endPeak (s : State) (g n : Nat) (mA : Option Nat) : State :=
  match (s.station g).pulses.find? fun p => p.ch == n && decide (min p.peakEnd p.stop ≤ s.loc g) && !p.judged with
  | none => s
  | some p =>
    let (v, s) := s.seen mA
    let s := s.modPulse g p fun q => { q with closed := false }
    s.judgePulse g { p with closed := false } v

/-- PEAK_END (R385, R398). -/
def execPeakEnd (g ch : Nat) (mA : Option Nat) (s : State) : Result := .next (s.endPeak (g % 8) (ch % 32) mA)

/-- The pulse of channel `n` that ends now: the switch opens (R385). -/
def State.pulseOver (s : State) (g n : Nat) (mA : Option Nat) : State :=
  match (s.station g).pulses.find? fun p => p.ch == n && decide (p.stop ≤ s.loc g) with
  | none => s
  | some p =>
    let (v, s) := s.seen mA
    let s := s.judgePulse g p v
    match (s.station g).pulse n with
    | some q => s.setStation g ((s.station g).endPulse q s.now v false)
    | none => s

/-- PULSE_END (R385). -/
def execPulseEnd (g ch : Nat) (mA : Option Nat) (s : State) : Result := .next (s.pulseOver (g % 8) (ch % 32) mA)

/-- The setpoint of the phase that a pulse is in on station tick `t` (R385, R387). -/
def Pulse.setpoint (p : Pulse) (t : Nat) : Nat := if t < p.peakEnd then p.ip else p.ih

/-- Chopping of channel `n` (R385, R386): at a period start its switch closes if a pulse is active and not held open; once
the sensed current has reached the setpoint of the phase (`reached`) it opens until the next period start. -/
def State.chop (s : State) (g n : Nat) (reached : Bool) : State :=
  match (s.station g).pulse n with
  | none => s
  | some p =>
    if reached then s.modPulse g p fun q => { q with closed := false }
    else if newelTime (s.loc g) % 16000 ≠ 500 * n then s else
    let s := if p.folded || p.hot then s else s.modPulse g p fun q => { q with closed := true }
    s.atLoc g (chopAfter n (s.loc g)) (.chopPeriodStart g ⟨n, false⟩)

/-- CHOP_PERIOD_START: a chop period starts, or in one the sensed current reaches the setpoint (R386). -/
def execChopPeriodStart (g : Nat) (k : Chop) (s : State) : Result := .next (s.chop (g % 8) (k.ch % 32) k.reached)

/-- Bank `b` measures `volts` in 10 mV (Table 14.7). -/
def Station.measure (x : Station) (b volts : Nat) : Station := x.put (G.volts b) (min volts 4095)

/-- A bank supply leaves its range with `volts` in 10 mV: its channels are held off (R384). -/
def State.bankOut (s : State) (g b volts : Nat) : State :=
  let x := (s.station g).measure b volts
  if !x.powered then s
  else if (1600 ≤ volts ∧ volts ≤ 3300) ∨ x.g (G.outRange b) = 1 then s.setStation g x
  else
    let x := x.put (G.outRange b) 1
    let x := if x.g G.cutOn = 1 then x else x.item 0x8104 b
    (s.setStation g x).stopPulses g fun p => p.ch / 8 == b

/-- BANK_OUT_OF_RANGE (R384). -/
def execBankOutOfRange (g b volts : Nat) (s : State) : Result := .next (s.bankOut (g % 8) (b % 4) volts)

/-- A bank supply is back in range (R384). -/
def State.bankIn (s : State) (g b volts : Nat) : State :=
  let x := (s.station g).measure b volts
  if !x.powered then s
  else if !decide (1700 ≤ volts ∧ volts ≤ 3250) ∨ x.g (G.outRange b) = 0 then s.setStation g x
  else
    let x := x.put (G.outRange b) 0
    s.setStation g (if x.g G.cutOn = 1 then x else x.item 0x0104 b)

/-- BANK_IN_RANGE (R384). -/
def execBankInRange (g b volts : Nat) (s : State) : Result := .next (s.bankIn (g % 8) (b % 4) volts)

/-- A channel's current exceeds its limit: it folds back for the rest of the pulse (R395). -/
def State.overcurrent (s : State) (g n : Nat) : State :=
  match (s.station g).pulse n with
  | none => s
  | some p =>
    if p.folded then s else
    let s := s.modPulse g p fun q => { q with folded := true, closed := false }
    s.setStation g ((((s.station g).raise (G.flag n 1)).count G.ovc 1).item 0x0102 n)

/-- OVERCURRENT (R395). -/
def execOvercurrent (g ch : Nat) (s : State) : Result := .next (s.overcurrent (g % 8) (ch % 32))

/-- Channel `n` is off and outside its blanking time (R395's definitions). -/
def Station.quiet (x : Station) (n now : Nat) : Bool :=
  x.powered && (x.pulse n).isNone && (nth x.lastOff n 0 == 0 || decide (nth x.lastOff n 0 + 300000 ≤ now))

/-- FIELD_CUT latched where its configuration bit says so (R400). -/
def Station.latchCut (x : Station) (f : Fld) : Station := if x.g f = 1 then x.raise G.latched else x

/-- A forced-on channel: its bank leaves service; a short found while both its flags stand is the one they report (R396,
R399). -/
def State.forcedOn (s : State) (g n : Nat) : State :=
  let x := s.station g
  if !x.quiet n s.now || !x.pulses.isEmpty || (x.g (G.flag n 2) == 1 && x.g (G.forcedBank (n / 8)) == 1) then s else
  let x := ((x.raise (G.flag n 2)).item 0x8101 n).raise (G.forcedBank (n / 8))
  (s.setStation g (x.latchCut G.onForced)).stopPulses g fun p => p.ch / 8 == n / 8

/-- FORCED_ON (R396). -/
def execForcedOn (g ch : Nat) (s : State) : Result := .next (s.forcedOn (g % 8) (ch % 32))

/-- Channel `n`, off, is cross-fed with each of `others`, which have just switched off (R397). -/
def State.crossFed (s : State) (g n : Nat) (others : List Nat) : State :=
  let x := s.station g
  let ms := (List.range 32).filter fun m => m != n && others.any (· % 32 == m) &&
    0 < nth x.lastOff m 0 && decide (s.now ≤ nth x.lastOff m 0 + 6000)
  if !x.quiet n s.now || ms.isEmpty then s else
  let low := fun (k m : Nat) (x : Station) =>
    if x.g (G.flag k 3) = 1 ∧ x.g (G.partner k) < m then x else x.put (G.partner k) m
  let x := ms.foldl (fun x m =>
    let x := low m n (low n m x)
    ((x.raise (G.flag n 3)).raise (G.flag m 3)).item 0x8102 (n + m * 256)) x
  (s.setStation g (x.latchCut G.onXfed)).stopPulses g fun p => p.ch == n || ms.contains p.ch

/-- CROSS_FED (R397). -/
def execCrossFed (g ch : Nat) (others : List Nat) (s : State) : Result := .next (s.crossFed (g % 8) (ch % 32) others)

/-- A switch above 165 °C opens for the rest of the pulse (R398). -/
def State.driverHot (s : State) (g n : Nat) : State :=
  match (s.station g).pulse n with
  | none => s
  | some p =>
    if p.hot then s else
    let s := s.modPulse g p fun q => { q with hot := true, closed := false }
    s.setStation g (((s.station g).raise (G.flag n 5)).item 0x8106 n)

/-- DRIVER_HOT (R398). -/
def execDriverHot (g ch : Nat) (s : State) : Result := .next (s.driverHot (g % 8) (ch % 32))

/-- CUT_COIL: an open coil, or a shorted output, which is switched off; a short may follow an open coil (R401). -/
def execCutCoil (g : Nat) (short : Bool) (s : State) : Result :=
  let x := s.station (g % 8)
  .next (if x.powered ∧ (x.g G.cutFault = 0 ∨ (short ∧ !x.cutFault)) then
      s.setStation (g % 8) (({ x with cutFault := short }.put G.cutFault 1).item 0x8107 (if short then 1 else 0))
    else s)

/-- A wake request of station `g` (R404, R141): whole phrases while at least three markers in a row are missed, else it waits
for the station's slot, or for the third missed marker. -/
def State.wakeRequest (s : State) (g : Nat) : State :=
  let x := s.station g
  if 3 ≤ x.noMarker then s.startPhrases g else s.setStation g { x with wake := true }

/-- WAKE_PHRASE_END (R142). -/
def execWakePhraseEnd (g : Nat) (s : State) : Result :=
  .next (if (s.station (g % 8)).phraseEnd.any fun t => decide (t ≤ s.now) then s.endPhrases (g % 8) else s)

/-- Input `i` has held its raw level for its filter time: level, stamp, wake request (R402, R404). -/
def State.filterEdge (s : State) (g i : Nat) : State :=
  let x := s.station g
  let level := bitN x.raw i
  let (at_, stamp) := nth x.rawAt i (0, 0)
  if bitN x.inputs i = level ∨ s.now < at_ + x.filterTicks i then s else
  let x := { x with inputs := if level then x.inputs + 2 ^ i else x.inputs - 2 ^ i }
  let t := stamp - 2
  let x := ((x.put (G.edgeLo i) t).put (G.edgeHi i) (t / 2 ^ 32)).put (G.edgeLevel i) (if level then 1 else 0)
  let s := s.setStation g x
  if level && bitN (x.g G.inWake) i then s.wakeRequest g else s

/-- The synchronised raw level of input `i` is `level`: where it is a new one its filter runs from now, else its filter is
looked at (R402). -/
def State.inputEdge (s : State) (g i : Nat) (level : Bool) : State :=
  let x := s.station g
  if !x.powered then s
  else if bitN x.raw i = level then s.filterEdge g i
  else
    let x := { x with raw := if level then x.raw + 2 ^ i else x.raw - 2 ^ i
                      rawAt := modNth x.rawAt i fun _ => (s.now, s.loc g) }
    (s.setStation g x).after (x.filterTicks i) (.inputEdge g i level)

/-- INPUT_EDGE (R402). -/
def execInputEdge (g i : Nat) (level : Bool) (s : State) : Result := .next (s.inputEdge (g % 8) (i % 8) level)

end Sys2Proof.Machine
end

