-- ==== Sys2Proof/Machine/Steps.lean ====
section
/-! DEFINITION. The step the head is at and the start of an entry (05_the_stair.md, R124, R128). -/

namespace Sys2Proof.Machine

/-- Step the head is at, target of the entry in progress (0 none), phase of Table 5.3. -/
def State.step_ (s : State) : Nat := s.g F.PWR_STEP_STATUS_STEP
def State.entry (s : State) : Nat := s.g F.PWR_STEP_STATUS_ENTRY
def State.phase (s : State) : Nat := s.g F.PWR_STEP_STATUS_PHASE

/-- The conditions of Quiesce are looked at again next. -/
def State.pollQuiesce (s : State) : State :=
  if s.agenda.any (fun e => e.2 == .quiesceEnd) then s else s.after 0 .quiesceEnd

/-- An entry to step `v` starts with Quiesce; from Run, frames are set up no more (R124, R128, R174). -/
def State.startEntry (s : State) (v : Nat) : State :=
  let s := if s.step_ = 0 ∧ s.entry = 0 then { s with stair := { s.stair with runUntil := s.time } } else s
  ((s.put F.PWR_STEP_STATUS_ENTRY v).put F.PWR_STEP_STATUS_PHASE 1).pollQuiesce

/-- The thermal manager, the conversions and the sensors run: after boot stage 6, above Hush, and not past a commit
point of an entry to Hush or deeper (R593, R594). -/
def State.thermalRuns (s : State) : Bool :=
  s.thermal.running && decide (s.step_ ≤ 2) && !(s.phase == 4 && decide (3 ≤ s.entry))

end Sys2Proof.Machine
end

