-- ==== Sys2Proof/Machine/Thermal.lean ====
section
/-! DEFINITION. Temperature sensors, zones, the throttle ladder and forced Poise (22_thermal.md). -/

namespace Sys2Proof.Machine

/-- Sensors of zone `z` (Table 22.1). -/
def zoneSensors (z : Nat) : List Nat :=
  match z with
  | 0 => [0, 1, 2, 3]
  | 1 => [4, 5, 6, 7, 8, 9, 10, 11]
  | 2 => [12, 13]
  | 3 => [14, 15]
  | z => (List.range 4).map (· + 4 * z)

/-- The zone of sensor `i`. -/
def sensorZone (i : Nat) : Nat := if i < 4 then 0 else if i < 12 then 1 else if i < 14 then 2 else if i < 16 then 3 else i / 4

/-- Sensor `i` is broken: its bit in `THM_BAD` is set (R583). -/
def State.sensorBad (s : State) (i : Nat) : Bool :=
  if i < 32 then bitN (s.g F.THM_BAD_LO_MASK) i else bitN (s.g F.THM_BAD_HI_MASK) (i - 32)

/-- The reading that healthy sensor `i` holds. -/
def State.sensorHeld (s : State) (i : Nat) : Option Int :=
  if s.sensorBad i then none else nth s.thermal.held i none

/-- The highest of the readings that a zone's healthy sensors hold (R581). -/
def State.zoneReading (s : State) (z : Nat) : Option Int :=
  ((zoneSensors z).filterMap s.sensorHeld).foldl (fun a v => some (match a with | some w => max w v | none => v)) none

/-- A zone with no healthy sensor (R584). -/
def State.zoneBroken (s : State) (z : Nat) : Bool := (zoneSensors z).all s.sensorBad

/-- A gallery zone counts while its gallery is present (R581). -/
def State.zoneCounts (s : State) (z : Nat) : Bool := z < 4 || s.g (F.HLK_STA_STATE (z - 4)) == 1

/-- Fallback order of the head zones (R584). -/
def fallbackOrder (z : Nat) : List Nat :=
  match z with
  | 0 => [1, 2, 3]
  | 1 => [0, 2, 3]
  | 2 => [1, 0, 3]
  | _ => [2, 1, 0]

/-- The temperature of a zone: its healthy sensors, or its fallback (R581, R584). -/
def State.zoneTemp (s : State) (z : Nat) : Option Int :=
  if !s.zoneCounts z then none
  else if !s.zoneBroken z then s.zoneReading z
  else if z < 4 then ((fallbackOrder z).findSome? s.zoneReading).map (· + 80)
  else
    let others := ((List.range 8).map (· + 4)).filter fun y => y != z && s.zoneCounts y
    match (others.filterMap s.zoneReading).foldl (fun a v => some (match a with | some w => max w v | none => v)) none with
    | some t => some (t + 80)
    | none => some (8 * ((s.g F.THM_GAL_LIMIT_CELSIUS : Int) - s.g F.THM_LADDER_STEP_UP))

/-- The trip in effect in °C (R585). -/
def State.trip (s : State) : Nat := min (s.g F.STP_CEIL_A_TRIP_C) (s.g F.THM_TRIP_CELSIUS)

/-- The headroom of a zone in 1/8 °C (R585). -/
def State.headroom (s : State) (z : Nat) : Option Int :=
  (s.zoneTemp z).map fun t => 8 * ((if z < 4 then s.trip else s.g F.THM_GAL_LIMIT_CELSIUS : Nat) : Int) - t

/-- The governing headroom and its zone; ties go to the lower zone (R585). -/
def State.governing (s : State) : Option (Nat × Int) :=
  (List.range 12).foldl (fun a z => match a, s.headroom z with
    | some (y, h), some k => if k < h then some (z, k) else some (y, h)
    | none, some k => some (z, k)
    | a, none => a) none

/-- One zone's registers follow its sensors; entering fallback is counted and reported (R581, R584). -/
def State.zoneUpdate (s : State) (z : Nat) : State :=
  let t := s.zoneTemp z
  let fall := s.zoneCounts z && s.zoneBroken z
  let was := s.on (F.THM_ZONE_FALLBACK z)
  let s := match t with
    | some v => s.put (F.THM_ZONE_TEMP z) (unsigned 16 v)
    | none => s
  let s := (s.put (F.THM_ZONE_FALLBACK z) (if fall then 1 else 0)).put (F.THM_ZONE_VALID z) (if t.isSome then 1 else 0)
  if fall && !was then
    (s.bump C.THM_CNT_FALLBACK).sticky F.THM_FLAGS_FALLBACK z 0x9510 z [unsigned 32 (t.getD 0)]
  else s

/-- Every zone and the governing headroom follow the sensors (R581, R585). -/
def State.zonesUpdate (s : State) : State :=
  let s := (List.range 12).foldl State.zoneUpdate s
  match s.governing with
  | some (z, h) => (s.put F.THM_STATUS_ZONE z).put F.THM_STATUS_HEADROOM (unsigned 16 h)
  | none => s

/-- Forcing of Poise begins (R591). -/
def State.forcePoise (s : State) (cause zone : Nat) (temp : Int) : State :=
  if s.on F.THM_STATUS_FORCED then s else
  let s := ((s.put F.PWR_STEP_STATUS_FORCED 1).put F.THM_STATUS_FORCED 1).put F.THM_STATUS_CAUSE cause
  let s := (s.bump C.THM_CNT_FORCED).notice 0x9511 zone [unsigned 32 temp]
  if s.step_ = 0 ∧ s.entry = 0 ∧ s.phase = 0 ∧ s.g F.PWR_BOOT_STATUS_STAGE = 7 then s.startEntry 1 else s

/-- Forcing ends if `c` is its cause (R592). -/
def State.endForcing (s : State) (c : Nat) : State :=
  if s.on F.THM_STATUS_FORCED && s.g F.THM_STATUS_CAUSE == c then
    ((s.put F.PWR_STEP_STATUS_FORCED 0).put F.THM_STATUS_FORCED 0).put F.THM_STATUS_CAUSE 0
  else s

/-- The trip and the end of the forcings that a reading can end (R589, R590, R592). -/
def State.tripTest (s : State) : State :=
  let temps := (List.range 4).filterMap fun z => (s.zoneTemp z).map fun t => (z, t)
  let trip := 8 * (s.trip : Int)
  let s := if !temps.isEmpty && temps.all fun x => decide (x.2 ≤ trip - 80) then s.endForcing 1 else s
  let s := if (List.range 4).any fun z => !s.zoneBroken z then s.endForcing 3 else s
  match temps.find? fun x => decide (trip ≤ x.2) with
  | some (z, t) => s.forcePoise 1 z t
  | none => if (List.range 4).all s.zoneBroken then s.forcePoise 3 0 0 else s

/-- Insertion into a rising list. -/
def insertI (v : Int) : List Int → List Int
  | [] => [v]
  | w :: l => if v ≤ w then v :: w :: l else w :: insertI v l

/-- Twice the median of a list (the mean of the middle two where their number is even). -/
def median2 (l : List Int) : Int :=
  let r := l.foldr insertI []
  let n := r.length
  nth r ((n - 1) / 2) 0 + nth r (n / 2) 0

/-- A sensor's memory replaced. -/
def State.setSensor (s : State) (i : Nat) (prev held : Option Int) (far : Nat) : State :=
  let t := s.thermal
  { s with thermal := { t with prev := modNth t.prev i fun _ => prev, held := modNth t.held i fun _ => held,
                               far := modNth t.far i fun _ => far } }

/-- Consecutive readings of sensor `i`, `v` the latest, that lie too far from its neighbours (R582). -/
def State.neighbours (s : State) (i : Nat) (v : Int) : Nat :=
  let others := ((zoneSensors (sensorZone i)).filter (· ≠ i)).filterMap s.sensorHeld
  if 12 ≤ i ∨ others.isEmpty then 0
  else if 16 * (s.g F.THM_NEIGH_C : Int) < (2 * v - median2 others).natAbs then nth s.thermal.far i 0 + 1
  else 0

/-- The check that reading `v` of sensor `i` fails, and the neighbour run (R582). -/
def State.sensorCheck (s : State) (i : Nat) (v : Int) : Option Nat × Nat :=
  let n := s.neighbours i v
  let slew := match nth s.thermal.prev i none with
    | some p => decide ((if i < 16 then 16 else 40) < (v - p).natAbs)
    | none => false
  (if v < -440 ∨ 1200 < v then some 0 else if slew then some 1 else if 8 ≤ n then some 2 else none, n)

/-- A broken sensor is ignored, counted and reported (R583). -/
def State.sensorFails (s : State) (i check : Nat) : State :=
  let s := (s.setSensor i none none 0).put (F.THM_SENSOR_CHECK i) check
  (s.bump C.THM_CNT_SENSOR_BAD).sticky64 F.THM_BAD_LO_MASK F.THM_BAD_HI_MASK i 0x1510 i [check]

/-- A reading of sensor `i` reaches the thermal manager (R580 to R584, R589). -/
def State.reading (s : State) (i : Nat) (v : Int) : State :=
  if !s.thermalRuns then s else
  let s := s.put (F.THM_SENSOR_TEMP i) (unsigned 16 v)
  if s.sensorBad i then s else
  let (c, n) := s.sensorCheck i v
  let s := match c with
    | some k => s.sensorFails i k
    | none => s.setSensor i (some v) (some v) n
  s.zonesUpdate.tripTest

/-- Gallery `g` is no longer present: its zone stops counting and its sensors' next readings follow a gap (R581,
R583). -/
def State.galleryGap (s : State) (g : Nat) : State :=
  ((zoneSensors (4 + g)).foldl (fun s i => s.setSensor i none none 0) s).zonesUpdate

/-- A cleared bit of `THM_BAD` readmits its sensor (R583). -/
def State.readmit (s : State) (i : Nat) : State := s.setSensor i none none 0

/-- SENSOR_READING: a head sensor delivers its reading on an edge of CD54, the sensor scan; a gallery's heat-sink sensor
(16 + 4g + b) changes what `GAL_TEMP[b]` reads, which the thermal manager asks for over the link (R57, R580). -/
def execSensorReading (n : Nat) (v : Int) (s : State) : Result :=
  if n < 16 then .next (if s.rises 54 then s.reading n v else s)
  else if n < 48 then
    let a := (n - 16) / 4
    .next { s with stations := s.stations.map fun x =>
      if x.powered ∧ x.address = some a then
        { x with regs := x.regs.set (0xC0 + 4 * (n % 4)) (BitVec.ofNat 32 (unsigned 16 v)) } else x }
  else .next s

/-- Throttle limits of a level (Table 22.2): illumination, array budget, gallery hold. -/
def ladderLimits : List (Nat × Nat × Nat) :=
  [(100, 100, 100), (90, 100, 100), (80, 100, 100), (70, 100, 100), (60, 100, 100), (60, 90, 100), (60, 80, 100),
   (60, 80, 60)]

/-- A register-class write of `GAL_HOLD_THR` to gallery `g` is asked for (R588). -/
def State.askHold (s : State) (g : Nat) : State :=
  let l := s.link.gregs.filter fun t => !(t.kind == 1 && t.gal == g && t.sent.isNone)
  { s with link := { s.link with gregs := l ++ [⟨1, true, g, 0x1C, s.g F.THM_LIMITS_HOLD_PCT, none⟩] } }

/-- The ladder goes to a level: its limits reach their owners (R587, R588). -/
def State.ladderTo (s : State) (n : Nat) : State :=
  let old := s.g F.THM_STATUS_LEVEL
  if n = old then s else
  let hold := s.g F.THM_LIMITS_HOLD_PCT
  let (i, a, h) := nth ladderLimits n (100, 100, 100)
  let s := ((s.put F.THM_STATUS_LEVEL n).put F.THM_LIMITS_ILM_PCT i).put F.THM_LIMITS_ARR_PCT a
  let s := (s.put F.THM_LIMITS_HOLD_PCT h).bump C.THM_CNT_STEPS
  let s := s.notice 0x1511 0 [n, old]
  let s := (List.range 4).foldl State.isetSoon s
  if h = hold then s else
    ((List.range 8).filter fun g => s.zoneCounts (4 + g)).foldl State.askHold s

/-- Ticks between evaluations (R587). -/
def State.ladderPeriod (s : State) : Nat := 1500000 * s.g F.THM_LADDER_PERIOD_MS

/-- The next evaluation is fixed (R587). -/
def State.ladderNext (s : State) : State :=
  (s.withdraw fun i => i == .ladderEvaluation).at_ (edgeAfter s.ladderPeriod s.time) .ladderEvaluation

/-- One evaluation of the ladder (R587, R590, R592). -/
def State.evaluate (s : State) : State :=
  let s := s.zonesUpdate
  let level := s.g F.THM_STATUS_LEVEL
  let low := s.g F.THM_CTRL_LEVEL_MIN
  match s.governing with
  | none => if level < low then s.ladderTo low else s
  | some (z, h) =>
    if s.on F.THM_STATUS_FORCED ∧ s.g F.THM_STATUS_CAUSE = 2 ∧ 8 * (s.g F.THM_LADDER_STEP_DOWN : Int) < h then s.endForcing 2
    else if h < 8 * (s.g F.THM_LADDER_STEP_UP : Int) then
      if level = 7 then s.forcePoise 2 z ((s.zoneTemp z).getD 0) else s.ladderTo (max (level + 1) low)
    else if 8 * (s.g F.THM_LADDER_STEP_DOWN : Int) < h ∧ low < level then s.ladderTo (level - 1)
    else if level < low then s.ladderTo low
    else s

/-- LADDER_EVALUATION (R587). -/
def execLadderEvaluation (s : State) : Result :=
  .next (if onEdge s.ladderPeriod s.time ∧ s.thermalRuns then s.evaluate.ladderNext
    else if s.thermal.running then s.ladderNext else s)

/-- The thermal manager starts at level 0 with its sensors readmitted (R593). -/
def State.thermalStart (s : State) : State :=
  let s := { s with thermal := ⟨true, List.replicate 48 none, List.replicate 48 none, List.replicate 48 0⟩ }
  s.ladderNext

end Sys2Proof.Machine
end

