-- ==== Sys2Proof/Machine/Line.lean ====
section
/-! DEFINITION. The write phase of the Holot link: which frame the head starts, when, what is abandoned, and what
returns (13_holot_link.md, R360 to R366, R376, R382). -/

namespace Sys2Proof.Machine

/-- The link of the head changed. -/
def State.modLink (s : State) (f : Link → Link) : State := { s with link := f s.link }

/-- State of the link (Table 13.8). -/
def State.linkState (s : State) : Nat := s.g F.HLK_STATUS_STATE

/-- The end of the cycle in progress, and the start of its write phase (R354). -/
def State.cycleEnd (s : State) : Nat := s.link.start + s.link.len
def State.writeStart (s : State) : Nat := s.link.start + 6000 * (s.link.nslot + 1)

/-- The write phase runs on this tick. -/
def State.writing (s : State) : Bool := s.inCycle && decide (s.writeStart ≤ s.time)

/-- A frame or an ABT character is on the line on tick `t`. -/
def State.lineBusy (s : State) (t : Nat) : Bool :=
  (match s.link.line with | some f => decide (t < f.fin) | none => false) ||
  (match s.link.abt with | some e => decide (t < e) | none => false)

/-- Commands of the write phase, in the order in which they look at a boundary (R360). -/
def writeCommands : List Instr :=
  (List.range 8).map Instr.fireSend ++ (List.range 8).map Instr.outsetSend ++ [.registerFrameSend]

/-- The boundary at tick `b` of the write phase is looked at. -/
def State.pumpAt (s : State) (b : Nat) : State :=
  if s.time ≤ b ∧ s.writeStart ≤ b ∧ b < s.cycleEnd ∧ s.link.cycling then
    writeCommands.foldl (fun s c => s.at_ b c) s
  else s

/-- The next boundary is looked at: this tick or later, or later than this tick (R360, R362). -/
def State.pump (s : State) (later : Bool) : State :=
  s.pumpAt (max s.writeStart (if later then edgeAfter 240 s.time else nextEdge 240 s.time))

/-- OUTSET frames that are still unsent and must keep room (R360). -/
def State.unsent (s : State) : Nat :=
  (s.link.members.filter fun m => m.any fun m => m.enum && m.held != some false && !m.outset).length

/-- A frame of `n` characters that starts at `b` ends in the cycle and leaves room for `u` OUTSET frames (R360). -/
def State.fits (s : State) (b n u : Nat) : Bool :=
  decide (b + 240 * (n + 12 * u) ≤ s.cycleEnd)

/-- The command that gallery `g` would be sent next at boundary `b`: the first after its ACK not sent this cycle, if it has
been delivered before `b` (R362, R363). -/
def State.nextFire (s : State) (b g : Nat) : Option FireCmd :=
  match s.member g with
  | some m =>
    if m.enum && m.held == some true then
      match (s.fireQueue g).find? fun c =>
        let d := (c.seq + 65536 - m.ack) % 65536
        decide (0 < d ∧ d < 32768) && !m.sent.contains c.seq with
      | some c => if c.entered + 180 < b then some c else none
      | none => none
    else none
  | none => none

/-- The FIRE frame that comes first at boundary `b`: earliest entry, then lower gallery (R360). -/
def State.firePick (s : State) (b : Nat) : Option (Nat × FireCmd) :=
  (List.range 8).foldl (fun a g => match a, s.nextFire b g with
    | some (h, c), some d => if d.entered < c.entered then some (g, d) else some (h, c)
    | none, some d => some (g, d)
    | a, none => a) none

/-- The acceptance tick of a frame at unit `u`: ACC after the end of the frame, counted from its sampling tick less d as the
unit knows them (R364). -/
def State.takesAt (s : State) (u : Nat) (f : LinkFrame) : Nat :=
  let x := s.station u
  let d := s.unitDelay u
  if x.everSetup then f.fin + d + x.acc - x.delay else f.fin + s.g F.HLK_ACC_TICKS

/-- The command by which unit `u` takes a write frame. -/
def LinkFrame.taken (f : LinkFrame) (u : Nat) : Instr := match f.kind with
  | 0 => .fireAccept u .intact
  | 1 => .outsetAccept u .intact
  | 2 => .regwAccept u .intact
  | 3 => .regrAccept u .intact
  | _ => .setup u .intact

/-- A frame put on the line at its start: on its way to every unit, taken by those it is addressed to on their acceptance
ticks, and back at HOLOT B after the loop delay (R364, R365). -/
def State.sendFrame (s : State) (f : LinkFrame) : State :=
  let units := (List.range 8).filter fun u => (s.station u).powered
  let s' := s.modLink fun k => { k.sends f.start f.syms with
    line := some f, inFlight := k.inFlight ++ units.map fun u => ⟨s.takesAt u f, u, f⟩
    echoes := k.echoes ++ [(f.fin + k.loop, f)] }
  let s' := (units.filter fun u => (s.station u).hears f).foldl (fun s' u => s'.at_ (s.takesAt u f) (f.taken u)) s'
  (s'.at_ (f.fin + s.link.loop) (.echoReturn .intact)).pumpAt f.fin

/-- A command fails the late test before a send: discarded (R338, R362). -/
def State.dropLate (s : State) (g : Nat) (c : FireCmd) : State :=
  (s.late_ g c.fire).setFire g ((s.fireQueue g).filter (· ≠ c))

/-- The FIRE frame of command `c` starts (R362, R363). -/
def State.sendFire (s : State) (g : Nat) (c : FireCmd) : State :=
  let m := s.member g
  let prev := (m.map (·.prev)).getD 0
  let s := if c.sentOnce then s.bump (C.HLK_CNT_RESEND g) else s
  let fire := modNth s.hall.fire g fun q => q.map fun d => if d = c then { d with sentOnce := true } else d
  let s : State := { s with hall := { s.hall with fire := fire } }
  let s := s.modMember g fun m => { m with prev := c.seq, sent := m.sent ++ [c.seq] }
  let b := fun (v : Bool) => if v then 1 else 0
  s.sendFrame ⟨0, g, s.time, [prev, c.jets, c.fire, c.seq, c.dur, c.gallery, b c.fallback, b c.doubt]⟩

/-- A FIRE has been delivered before boundary `b` that the head will send as soon as the line is free (R360, R362). -/
def State.fireReady (s : State) (b : Nat) : Bool :=
  (List.range 8).any fun g => s.present g && (s.member g).any fun m => (s.fireQueue g).any fun c =>
    let d := (c.seq + 65536 - m.ack) % 65536
    decide (0 < d ∧ d < 32768) && !m.sent.contains c.seq && decide (c.entered + 180 < b) && !c.bad &&
      deliverable c.fire s.link.start s.link.len

/-- The frame on the line is broken off at this boundary, with ABT in place of its next character (R351, R360). -/
def Link.breakOff (k : Link) (f : LinkFrame) (now : Nat) : Link :=
  let sent := f.syms.take ((now - f.start) / 240) ++ [.abt]
  let start := k.rd != turns f.syms
  { k with line := none, abt := some (now + 240), rd := start != turns sent, rdAt := now + 240
           inFlight := k.inFlight.filter fun e => e.frame != f
           echoes := k.echoes.filter fun e => e.2 != f }

/-- A FIRE that has become ready ends an OUTSET or register-class frame with ABT at this boundary, if it can then start
after the ABT (R360). What was abandoned is sent again later in the phase. -/
def State.abandon (s : State) (f : LinkFrame) : State :=
  let u := s.unsent + (if f.kind = 1 then 1 else 0)
  if f.kind = 0 ∨ f.fin ≤ s.time ∨ !s.fireReady s.time ∨ !s.fits (s.time + 240) 24 u then s else
  let s := s.bump C.HLK_CNT_ABORT
  let s := s.modLink fun k => k.breakOff f s.time
  let s := if f.kind = 1 then s.modMember f.gal fun m => { m with outset := false, parked := none }
    else if f.kind = 4 then s.modMember f.gal fun m => { m with setup := false }
    else s.modLink fun k => { k with
      gregs := k.gregs.map fun t => if t.gal = f.gal ∧ t.sent = some k.index ∧ t.addr = nth f.data 0 0 then { t with sent := none } else t,
      sensed := k.sensed && !(f.kind == 3 && decide (0xC0 ≤ nth f.data 0 0)) }
  s.pumpAt (s.time + 240)

/-- A missing gallery's commands that the next cycle could not deliver are discarded (R382). -/
def State.undeliverable (s : State) (g : Nat) : State :=
  let fin := s.cycleEnd
  let len := s.nextLen
  (s.fireQueue g).foldl (fun s c =>
    if deliverable c.fire fin len then s else
    let s := s.setFire g ((s.fireQueue g).filter (· ≠ c))
    let s := s.bump (if c.sentOnce then C.HLK_CNT_INDOUBT g else C.HLK_CNT_UNDELIV g)
    s.sticky F.HLK_FLAGS_UNDELIV g 0x8D13 g [s.ctr (C.HLK_CNT_UNDELIV g), s.ctr (C.HLK_CNT_INDOUBT g)]) s

/-- Gallery `g` is known to be missing in this cycle. -/
def State.missing (s : State) (g : Nat) : Bool := (s.member g).any fun m => m.enum && m.held == some false

/-- No frame may start: not a boundary of a write phase, or the link is ending. -/
def State.canStart (s : State) : Bool := s.writing && onEdge 240 s.time && !s.link.closing

/-- The earliest command's gallery sends it, or discards it and looks again (R360, R362); one with a double-bit error
is removed and reported (R468). -/
def State.fireStart (s : State) (g : Nat) : State :=
  match s.firePick s.time with
  | some (h, c) =>
    if h ≠ g then s
    else if c.bad then ((s.setFire g ((s.fireQueue g).filter (· ≠ c))).hallUncorrectable g).pump false
    else if !deliverable c.fire s.link.start s.link.len then (s.dropLate g c).pump false
    else if s.fits s.time 24 s.unsent then s.sendFire g c else s
  | none => s

/-- A FIRE's turn at a boundary (R360, R362, R363): a line in use by a lesser frame is freed; a late command goes; else the
frame starts if it fits. A missing gallery's commands are looked at for R382. -/
def State.fireTurn (s : State) (g : Nat) : State :=
  if !s.canStart then s
  else if s.missing g then s.undeliverable g
  else if s.lineBusy s.time then
    match s.link.line with
    | some f => s.abandon f
    | none => s
  else s.fireStart g

/-- FIRE_SEND (R360 to R363). -/
def execFireSend (g : Nat) (s : State) : Result := .next (s.fireTurn (g % 8))

/-- A FIRE frame goes before any other at this boundary (R360). -/
def State.fireFirst (s : State) : Bool := (s.firePick s.time).isSome && s.fits s.time 24 s.unsent

/-- A present gallery that has had no OUTSET in this cycle. -/
def State.wantsOutset (s : State) (g : Nat) : Bool := s.present g && (s.member g).any fun m => !m.outset

/-- An OUTSET's turn at a boundary: ascending slots, which are ascending addresses; its content is that of this tick
(R360, R361, R372). -/
def State.outsetTurn (s : State) (g : Nat) : State :=
  if !s.canStart || s.lineBusy s.time || s.fireFirst || !s.wantsOutset g || !s.fits s.time 12 0 ||
    (List.range g).any s.wantsOutset then s
  else
    let s := s.modMember g fun m => { m with outset := true, parked := some s.link.park }
    s.sendFrame ⟨1, g, s.time, [s.g (F.EJP_JET_EN_MASK g), s.link.park, s.e (F.HLK_OUT_CUT g), s.link.cyc]⟩

/-- OUTSET_SEND (R361). -/
def execOutsetSend (g : Nat) (s : State) : Result := .next (s.outsetTurn (g % 8))

/-- The frame of a register transaction. -/
def Greg.frame (t : Greg) (now : Nat) : LinkFrame :=
  ⟨if t.write then 2 else 3, t.gal, now, if t.write then [t.addr, t.data] else [t.addr]⟩

/-- The register transaction that may be sent at this boundary: the hold throttle first, then the host's, each while its
gallery is present and no other of it is unanswered (R366, R588). -/
def State.gregPick (s : State) : Option Greg :=
  let l := s.link.gregs.filter fun t => t.sent.isNone && s.present t.gal && s.fits s.time (t.frame 0).chars s.unsent
  let free := l.filter fun t => !s.link.gregs.any fun u => u.gal == t.gal && u.sent.isSome
  match l.find? fun t => t.kind == 1 with
  | some t => some t
  | none => free.head?

/-- SETUP fields of a member (Table 13.9). -/
def State.setupData (s : State) (g : Nat) (m : Member) : List Nat :=
  [m.delay, s.g F.HLK_ACC_TICKS, s.nextLen / 240, m.slot, s.link.nslot, (nth s.planner.seq g 0 + 65535) % 65536]

/-- The lost gallery that is sent a SETUP next (R376). -/
def State.setupPick (s : State) : Option (Nat × Member) :=
  (List.range 8).findSome? fun g => match s.member g with
    | some m => if m.enum && s.g (F.HLK_STA_STATE g) == 3 && !m.setup && s.fits s.time 16 s.unsent then some (g, m) else none
    | none => none

/-- The next heat-sink sensor of a present gallery, by number 4g + b from the one due on (R580). -/
def State.sensorPick (s : State) : Option Nat :=
  if s.link.sensed || !s.thermalRuns || !s.fits s.time 8 s.unsent then none else
  ((List.range 32).map fun k => (s.link.sensor + k) % 32).find? fun n =>
    s.present (n / 4) && !s.link.gregs.any fun u => u.gal == n / 4

/-- The turn of register-class frames at a boundary (R360, R366, R376, R580). -/
def State.registerTurn (s : State) : State :=
  if !s.canStart || s.lineBusy s.time || s.fireFirst || (List.range 8).any s.wantsOutset && s.fits s.time 12 0 then s
  else match s.gregPick with
  | some t =>
    let s := s.modLink fun k => { k with gregs := k.gregs.map fun u => if u = t then { u with sent := some k.index } else u }
    s.sendFrame (t.frame s.time)
  | none => match s.setupPick with
    | some (g, m) => (s.modMember g fun m => { m with setup := true }).sendFrame ⟨4, g, s.time, s.setupData g m⟩
    | none => match s.sensorPick with
      | some n =>
        let t : Greg := ⟨2, false, n / 4, 0xC0 + 4 * (n % 4), 0, some s.link.index⟩
        let s := s.modLink fun k => { k with gregs := k.gregs ++ [t], sensor := (n + 1) % 32, sensed := true }
        s.sendFrame (t.frame s.time)
      | none => s

/-- REGISTER_FRAME_SEND (R360, R366, R376). -/
def execRegisterFrameSend (s : State) : Result := .next s.registerTurn

/-- FIRE_DELIVERY: the fire port has delivered a command; the next boundary but this is looked at, and a lesser frame on
the line may be abandoned there; a gallery known to be missing keeps no command that it cannot be given (R360, R362,
R382). -/
def execFireDelivery (g : Nat) (s : State) : Result :=
  .next (let s := if s.writing && s.missing (g % 8) then s.undeliverable (g % 8) else s
    s.pump true)

/-- What is at HOLOT B in the place of write frame `f`: character errors, a mismatch or a missing frame counted (R365). -/
def State.echo (s : State) (f : LinkFrame) (rx : Rx) : State :=
  let s := (s.modLink fun k => { k with echoes := k.echoes.filter fun e => decide (s.time < e.1) }).bumpBy
    C.HLK_CNT_CHAR_ERR rx.errs
  if rx.syms f.syms = f.syms then s else (s.bump C.HLK_CNT_ECHO_ERR).setBit F.HLK_FLAGS_ECHO 0

/-- ECHO_RETURN: a write frame is back at HOLOT B, or is not (R365). -/
def execEchoReturn (rx : Rx) (s : State) : Result :=
  .next (match s.link.echoes.find? fun e => e.1 == s.time with
    | some e => s.echo e.2 rx
    | none => s)

end Sys2Proof.Machine
end

