-- ==== Sys2Proof/Machine/Link.lean ====
section
/-! DEFINITION. The head's side of the Holot link: enumeration, cycles, read frames, presence and register transactions
(13_holot_link.md). -/

namespace Sys2Proof.Machine

/-- A host register transaction is open (R366). -/
def State.gregBusy (s : State) : Bool := s.link.gregs.any fun t => t.kind == 0

/-- Register transactions that meet `p` end with FAIL where they are the host's (R366). -/
def State.gregFail (s : State) (p : Greg → Bool) : State :=
  let host := s.link.gregs.any fun t => p t && t.kind == 0
  let s := s.modLink fun k => { k with gregs := k.gregs.filter fun t => !p t }
  if host then (s.setBit F.HLK_GREG_STATUS_FAIL 0).put F.HLK_GREG_STATUS_BUSY 0 else s

/-- Stations enumerated, as `HLK_STATUS.NSTA` shows them. -/
def State.countStations (s : State) : State :=
  s.put F.HLK_STATUS_NSTA ((List.range 8).filter s.enumerated).length

/-- Every gallery leaves enumeration: fire queues are discarded, open transactions fail (R339, R366, R368, R378). -/
def State.leaveAll (s : State) : State :=
  let s := s.modLink fun k => { k with members := noMembers }
  let s := (List.range 8).foldl (fun s g => (((zoneSensors (4 + g)).foldl (fun s i => s.setSensor i none none 0) s).put
    (F.HLK_STA_STATE g) 0).dropFires g) s
  (s.gregFail fun _ => true).countStations.zonesUpdate

/-- Cycles stop on this tick; with `cut` a frame on the line stops with them (R353, R366, R368). -/
def State.stopCycles (s : State) (cut : Bool) : State :=
  let gone := fun (f : LinkFrame) => cut && decide (s.time < f.fin)
  (s.modLink fun k => { k with cycling := false, next := none, line := if cut then none else k.line,
                               abt := if cut then none else k.abt,
                               inFlight := k.inFlight.filter fun e => !gone e.frame,
                               echoes := k.echoes.filter fun e => !gone e.2 }).gregFail fun _ => true

/-- A phase of Table 13.8 starts (R367). -/
def State.linkPhase (s : State) (n : Nat) : State :=
  ((s.put F.HLK_STATUS_STATE n).bump C.HLK_CNT_ENUM).modLink fun k => { k with phaseStart := s.now, failed := false }

/-- Registers an enumeration fills, cleared at its start. -/
def State.clearEnum (s : State) : State :=
  let s := (List.range 9).foldl (fun s j => s.setReg (F.HLK_POS j) 0) s
  (List.range 8).foldl (fun s g =>
    [F.HLK_STA g, F.HLK_STA_DELAY g, F.HLK_STA_ON g, F.HLK_STA_PEAK g, F.HLK_STA_ACK g, F.HLK_STA_STRAP g,
      F.HLK_STA_ID g].foldl (fun s o => s.setReg o 0) s) s

/-- Enumeration starts with the Lock phase (R367, R368). -/
def State.enumerate (s : State) : State :=
  let s := (s.stopCycles true).leaveAll.clearEnum
  let start := s.linkState = 0
  let s := s.modLink fun k => { (if start then k.starts (nextEdge 240 s.time) else k) with
                                       rtts := [], nodes := [], delays := [], replies := [], silent := 0, dup := 0, nslot := 0,
                                       enumLeft := 5, cyc := 255, closing := false, openCycles := 0, driftCycles := 0 }
  let s := s.put F.HLK_STATUS_RESULT 0
  (s.linkPhase 1).after 15000000 .ringOpen

/-- ENUMERATION: 1 written to EN while the link is off (R367). -/
def execEnumeration (s : State) : Result :=
  .next (if !s.unitsAnswer then s else
    let s := s.put F.HLK_CTRL_EN 1
    if s.linkState = 0 then s.enumerate else s)

/-- ENUM: 1 written to ENUM while the link runs (R367, R368). -/
def execEnum (s : State) : Result :=
  .next (if s.unitsAnswer ∧ s.linkState ≠ 0 ∧ s.on F.HLK_CTRL_EN ∧ !s.link.closing then s.enumerate else s)

/-- The link is released: HOLOT A carries nothing, every gallery leaves enumeration (R378). A write of 1 to EN accepted
meanwhile finds the link off now. -/
def State.release (s : State) : State :=
  let s := (s.stopCycles true).leaveAll
  let s := (s.put F.HLK_STATUS_STATE 0).modLink fun k => { k with closing := false }
  if s.on F.HLK_CTRL_EN then s.enumerate else s

/-- The tick by which the frame on the line, whichever it is, has ended (R378). -/
def State.lineFree (s : State) : Nat :=
  let frames := (s.link.echoes.filter fun e => decide (e.2.start ≤ s.time)).map fun e => e.2.fin
  (frames ++ s.link.abt.toList).foldl max s.link.lineEnd

/-- EN goes to 0: at once, or after the frame on the line; frames that have not begun are not sent (R378). -/
def State.disable (s : State) : State :=
  if s.linkState = 0 then s
  else if s.time < s.lineFree then
    (s.modLink fun k => { k with closing := true
                                 inFlight := k.inFlight.filter fun e => decide (e.frame.start ≤ s.time)
                                 echoes := k.echoes.filter fun e => decide (e.2.start ≤ s.time) }).at_ s.lineFree .linkDisable
  else s.release

/-- LINK_DISABLE (R378). -/
def execLinkDisable (s : State) : Result :=
  .next (if s.link.closing then (if s.time < s.lineFree then s else s.release) else (s.put F.HLK_CTRL_EN 0).disable)

/-- The Lock phase has seen its IDLE run, 2 ms or more into the phase (Table 13.8). -/
def State.lockEnd (s : State) : State :=
  if s.linkState = 1 ∧ !s.link.failed ∧ s.link.phaseStart + 3000000 ≤ s.now then
    (s.linkPhase 2).after 15000000 .ringOpen
  else s

/-- LOCK_PHASE_END (R367). -/
def execLockPhaseEnd (s : State) : Result := .next s.lockEnd

/-- Enumeration fails with RESULT `r`: the link stays in its phase (R369, R374). -/
def State.enumFails (s : State) (r : Nat) : State :=
  let s := ((s.modLink fun k => { k with failed := true }).put F.HLK_STATUS_RESULT r).setBit F.HLK_FLAGS_RING_OPEN 0
  (s.notice 0x8D10 0 [s.linkState]).notice 0x0D10 0 [r, 0]

/-- Ten milliseconds of the Lock or Hop phase have passed (R369, R374). -/
def State.ringOpens (s : State) : State :=
  if s.link.failed ∨ s.now < s.link.phaseStart + 15000000 then s
  else if s.linkState = 1 then s.enumFails 3
  else if s.linkState = 2 then ((List.range 9).foldl (fun s j => s.put (F.HLK_POS_RTT j) 0xFFFF) s).enumFails 4
  else s

/-- RING_OPEN (R374). -/
def execRingOpen (s : State) : Result := .next s.ringOpens

/-- A node that is aligned echoes a PROBE (R369): unit `node`, or HOLOT B. -/
def State.echoes (s : State) (node : Option Nat) : Bool :=
  node.all fun u => (s.station u).powered && decide (2 ≤ (s.station u).state)

/-- The node that measures hop `hop`, the head or station `g`, has released its driver and drives again, with negative running
disparity, to send the HOP frame with the rtt values so far: the head's frame carries one (R346, R369). -/
def State.drivesAgain (s : State) (hop g : Nat) : State :=
  let b := nextEdge 240 s.time
  if hop = 0 then
    let l := framed (hopBytes s.link.rtts)
    s.modLink fun k => { (k.starts b).sends b l with lineEnd := b + 240 * l.length }
  else
    { s with stations := modNth s.stations g fun x => { x with turned := s.link.rdOn b } }

/-- PROBE: hop `hop` is measured: the last bit of the echo is sampled some ticks after the release, or later than 2,400 ticks;
a node that is not aligned echoes nothing (R369). -/
def execProbe (hop : Nat) (e : Echo) (s : State) : Result :=
  .next (if s.linkState = 2 ∧ !s.link.failed ∧ hop = s.link.rtts.length ∧ hop ≤ 8 then
      let rtt := if s.echoes e.node ∧ e.ticks ≤ 2400 then e.ticks + 24 else 0xFFFF
      (s.modLink fun k => { k with rtts := k.rtts ++ [rtt], nodes := k.nodes ++ e.node.toList }).drivesAgain hop
        (nth s.link.nodes (hop - 1) 8)
    else s)

/-- Halves rounded up. -/
def rdiv2 (v : Int) : Int := (v + 1) / 2

/-- Sum of the hop delays 0 to `n` − 1 (R370). -/
def hopSum (rtts : List Nat) (n : Nat) : Int := ((rtts.take n).map fun (r : Nat) => (Int.ofNat r) - 480).foldl (· + ·) 0

/-- Ring delay of position `i`, and the loop delay of a ring of `n` stations (R370). -/
def ringDelay (rtts : List Nat) (i : Nat) : Nat := (rdiv2 (hopSum rtts i) + 96 * ((i : Int) - 1)).toNat
def loopDelay (rtts : List Nat) (n : Nat) : Nat := (rdiv2 (hopSum rtts (n + 1)) + 96 * (n : Int)).toNat

/-- The tick on which the replies are collected: the request has ended, `n` spaces, the way round the ring and the hold of a
read frame after it (R371, R358). -/
def State.identTick (s : State) : Nat := s.link.lineEnd + 6000 * (s.link.rtts.length - 1) + s.link.loop + 48

/-- A valid HOP frame with these rtt values is held at HOLOT B: ring delays and the IDENT request from the next character
boundary, or a broken hop (R348, R369 to R371). -/
def State.hopDone (s : State) (r : List Nat) : State :=
  let s := (List.range r.length).foldl (fun s j => s.put (F.HLK_POS_RTT j) (nth r j 0)) s
  if r.contains 0xFFFF then s.enumFails 4 else
  let n := r.length - 1
  let d := loopDelay r n
  let b := nextEdge 240 s.time
  let l := framed (identBytes n)
  let s := s.modLink fun k => { k.sends b l with
    rtts := r, delays := (List.range (n + 1)).map (ringDelay r), loop := d, lineEnd := b + 240 * l.length }
  let s := ((s.put F.HLK_LOOP_ENUM d).put F.HLK_LOOP_LAST d).linkPhase 3
  s.at_ s.identTick .identPhaseEnd

/-- HOP: what HOLOT B finds where the HOP frame of the ring of `n` stations was sent (R369). -/
def execHop (n : Nat) (rx : Rx) (s : State) : Result :=
  .next (let s := s.bumpBy C.HLK_CNT_CHAR_ERR rx.errs
    match rx.hop s.link.rtts with
    | some r => if s.linkState = 2 ∧ !s.link.failed ∧ n ≤ 8 ∧ r.length = n + 1 then s.hopDone r else s
    | none => s)

/-- IDENT_REQUEST: station `g` at position `pos` answers with its strap word and revision, unless its straps gave it no
address; `rx` is what HOLOT B finds in its space (R371, R80). -/
def execIdentRequest (g pos : Nat) (rx : Rx) (s : State) : Result :=
  .next (let x := s.station (g % 8)
    let s := s.bumpBy C.HLK_CNT_CHAR_ERR rx.errs
    match rx.reply (pos, x.strap, x.rev) with
    | some r =>
      if r.1 = pos ∧ s.linkState = 3 ∧ x.powered ∧ 2 ≤ x.state ∧ x.address.isSome ∧ 1 ≤ pos ∧ pos < s.link.rtts.length ∧
          !s.link.replies.any (fun r => r.1 == pos) then
        s.modLink fun k => { k with replies := k.replies ++ [r] }
      else s
    | none => s)

/-- Positions that answered with gallery address `a`. -/
def State.positions (s : State) (a : Nat) : List Nat :=
  ((List.range 9).filter fun i => s.link.replies.any fun r => r.1 == i && r.2.1 % 8 == a)

/-- Bits of a list of positions. -/
def posMask (l : List Nat) : Nat := (l.map (2 ^ ·)).foldl (· + ·) 0

/-- Silent positions and duplicate addresses marked and reported (R371). -/
def State.identReport (s : State) : State :=
  let n := s.link.rtts.length - 1
  let s := s.link.replies.foldl (fun s r =>
    let s := (s.put (F.HLK_POS_ADDR r.1) (r.2.1 % 8)).put (F.HLK_POS_ANSWERED r.1) 1
    if r.2.1 / 65536 % 16 = 0 then s else s.notice 0x0E10 (r.2.1 % 8) [r.2.1]) s
  let silent := posMask (((List.range n).map (· + 1)).filter fun i => !s.link.replies.any fun r => r.1 == i)
  let s := if silent = 0 then s else (s.setBit F.HLK_FLAGS_SILENT 0).notice 0x0D12 0 [silent]
  let dups := (List.range 8).filter fun a => 1 < (s.positions a).length
  let s := dups.foldl (fun s a =>
    let l := s.positions a
    (l.foldl (fun s i => s.put (F.HLK_POS_DUP i) 1) (s.setBit F.HLK_FLAGS_DUP 0)).notice 0x0D11 a [posMask l]) s
  s.modLink fun k => { k with silent := silent, dup := posMask (dups.flatMap s.positions) }

/-- The member registers of a station that is sent a SETUP (Table 13.14). -/
def State.memberRegs (s : State) (g pos slot delay strap rev : Nat) : State :=
  ((((((s.put (F.HLK_STA_POS g) pos).put (F.HLK_STA_SLOT g) slot).put (F.HLK_STA_DELAY_D g) delay).put
    (F.HLK_STA_STRAP_STRAP g) strap).put (F.HLK_STA_ID_MODEL g) 0x0F20).put (F.HLK_STA_ID_REV g) rev)

/-- The replies are collected: silent and duplicate ones reported; slots, acceptance offset and SETUP frames, back to back
from the next character boundary (R371 to R373). -/
def State.identEnd (s : State) : State :=
  let s := s.identReport
  let uniq := (List.range 8).filterMap fun a => match s.positions a with
    | [i] => (s.link.replies.find? fun r => r.1 == i).map fun r => (a, i, r.2.1, r.2.2)
    | _ => none
  let delay := fun i => nth s.link.delays i 0
  let acc := max 1320 ((uniq.map fun u => delay u.2.1).foldl max 0 + 120)
  let n := uniq.length
  let s := ((s.linkPhase 4).put F.HLK_ACC_TICKS acc).modLink fun k => { k with nslot := n }
  let first := nextEdge 240 s.time
  let s := (List.range n).foldl (fun s j =>
    let (a, i, strap, rev) := nth uniq j (0, 0, 0, 0)
    let m : Member := ⟨i, j, delay i, false, 0, none, 0, 0, [], false, none, false⟩
    let s := s.memberRegs a i j (delay i) strap rev
    let s := s.modLink fun k => { k with members := modNth k.members a fun _ => some m }
    s.sendFrame ⟨4, a, first + 3840 * j, s.setupData a m⟩) s
  s.at_ (first + 3840 * n) .holotCycleStart

/-- IDENT_PHASE_END (R371). -/
def execIdentPhaseEnd (s : State) : Result :=
  .next (if s.linkState = 3 ∧ s.time = s.identTick then s.identEnd else s)

/-- After the first four cycles: stations that never answered are no members; RESULT and mask are reported (R374). -/
def State.enumDone (s : State) : State :=
  let s := s.modLink fun k => { k with members := k.members.map fun m => if m.any (·.enum) then m else none }
  let mask := posMask ((List.range 8).filter s.enumerated)
  let full := s.link.silent = 0 ∧ s.link.dup = 0 ∧ ((List.range 8).filter s.enumerated).length = s.link.nslot
  let r := if full then 1 else 2
  (s.put F.HLK_STATUS_RESULT r).notice 0x0D10 0 [r, mask]

/-- HLK_ENUM_DONE (R374). -/
def execHlkEnumDone (s : State) : Result :=
  .next (if s.linkState = 5 ∧ s.g F.HLK_STATUS_RESULT = 0 ∧ s.link.enumLeft = 0 then s.enumDone else s)

/-- Park write phases in consecutive cycles: the cycle that ends carried the park command to every present station
(Table 5.3). -/
def State.countPark (s : State) : State :=
  let told := s.link.members.any fun m => m.any fun m => m.parked == some s.link.park
  let ok := decide (2 ≤ s.link.park) && (told || decide (s.stair.parkFrom ≤ s.writeStart)) && s.link.members.all fun m =>
    match m with | some m => !(m.enum && m.held == some true) || m.parked == some s.link.park | none => true
  { s with stair := { s.stair with parkCycles := if ok then s.stair.parkCycles + 1 else 0 } }

/-- The park phase of an entry has ended with the cycle before this tick (R129). -/
def State.parkOver (s : State) : Bool := s.phase == 2 && decide (2 ≤ s.stair.parkCycles)

/-- The Cycle fields land (Table 7.3, Table 13.14). -/
def State.landCycle (s : State) : State :=
  s.land s.time (fun o => o) ((F.HLK_CYCLE, 0x1FFF) :: (List.range 8).map fun g => (F.HLK_OUT g, 1))

/-- What the marker and the slot of unit `u` bring in a cycle that starts with marker `f`: the marker, and the read frame in
the slot that the unit knows (R356 to R358). -/
def State.unitCycle (s : State) (f : LinkFrame) (u : Nat) : State :=
  let x := s.station u
  if !x.powered || !x.everSetup then s else
  let at1 := f.fin + s.unitDelay u
  let s := s.modLink fun k => { k with inFlight := k.inFlight ++ [⟨at1, u, f⟩] }
  let s := s.at_ at1 (.stationMarker u .intact 0)
  if x.slot < s.link.nslot then s.at_ (f.start + 11064 + 6000 * x.slot + s.link.loop) (.readFrame u .intact) else s

/-- The slot of the member at gallery address `g` passes (R358, R375). -/
def State.slotCycle (s : State) (t g : Nat) : State :=
  match s.member g with
  | none => s
  | some m => s.at_ (t + 11064 + 6000 * m.slot + s.link.loop) (.slotMissed g)

/-- A cycle starts on this tick (R352, R354, R355, R374). -/
def State.startCycle (s : State) : State :=
  let t := s.time
  let s := s.landCycle
  let n := s.link.nslot
  let lenc := s.e F.HLK_CYCLE_LENC
  let eff := max lenc (cycleMin n)
  let cyc := (s.link.cyc + 1) % 256
  let s := ((s.put F.HLK_LENC_EFF_LENC eff).put F.HLK_STATUS_STRETCHED (if lenc < eff then 1 else 0)).put F.HLK_STATUS_CYC cyc
  let marker : LinkFrame := ⟨5, 0, t, [t, cyc, n, eff]⟩
  let s := (s.bump C.HLK_CNT_CYCLES).modLink fun k => { k.sends t marker.syms with
    lineEnd := marker.fin,
    start := t, len := 240 * eff, cyc := cyc, index := k.index + 1, next := some (t + 240 * eff), line := none, abt := none,
    sensed := false, enumLeft := k.enumLeft - 1,
    members := k.members.map fun m => m.map fun m =>
      { m with held := none, sent := [], outset := false, parked := none, setup := false } }
  let s := (List.range 8).foldl (fun s u => s.unitCycle marker u) s
  let s := (List.range 8).foldl (fun s g => s.slotCycle t g) s
  let s := (s.at_ (t + s.link.loop) (.markerReturn none)).pumpAt s.writeStart
  let s := s.at_ (t + 240 * eff) .holotCycleStart
  let s := if s.link.enumLeft = 0 ∧ s.g F.HLK_STATUS_RESULT = 0 then s.after 0 .hlkEnumDone else s
  if s.link.gregs.any fun g => g.sent.any fun k => decide (k + 5 ≤ s.link.index) then s.after 0 .gregTimeout else s

/-- The last SETUP has ended: the Run phase begins, and the first cycle is fixed (R352, Table 13.8). -/
def State.runPhase (s : State) : State :=
  let len := s.nextLen
  let t := nextEdge len (s.time + 1500000)
  ((s.linkPhase 5).modLink fun k => { k with cycling := true, len := len, start := t, next := some t, line := none }).at_ t
    .holotCycleStart

/-- HOLOT_CYCLE_START: the end of the Setup phase fixes the first cycle; then one on every cycle start, but where it falls
on the commit tick of an entry to Hush or deeper (R352, R353, R129). -/
def execHolotCycleStart (s : State) : Result :=
  .next (if s.linkState = 4 then (if s.lineBusy s.time then s else s.runPhase)
    else if s.linkState ≠ 5 ∨ s.link.next ≠ some s.time ∨ !s.link.cycling ∨ s.link.closing ∨ !s.ticking then s
    else
      let s := s.countPark
      let s := if s.parkOver then s.after 0 .commitPoint else s
      if s.parkOver ∧ 3 ≤ s.link.park then s.stopCycles true else s.startCycle)

/-- Cycles resume on the first tick after this one that is a multiple of L; an enumeration cut short runs again from its
start (R353). -/
def State.resumeCycles (s : State) : State :=
  if s.linkState = 0 ∨ s.link.cycling then s
  else if s.linkState = 5 then
    let t := edgeAfter s.link.len s.time
    (s.modLink fun k => { k with cycling := true, next := some t }).at_ t .holotCycleStart
  else if s.link.failed then s else s.enumerate

/-- Commands at or before ACK leave HQg (R358). -/
def State.removeAcked (s : State) (g ack : Nat) : State :=
  let q := s.fireQueue g
  let keep := q.filter fun c => decide (32768 ≤ (ack + 65536 - c.seq) % 65536)
  if keep.length = q.length then s else s.setFire g keep

/-- A register reply held at the head ends the transaction it answers: the earliest of its gallery (R366); what a heat-sink
sensor reads goes to the thermal manager (R580). -/
def State.gregReply (s : State) (g v : Nat) : State :=
  match s.link.gregs.find? fun t => t.gal == g && t.sent.any fun k => decide (k < s.link.index) with
  | none => s
  | some t =>
    let s := s.modLink fun k => { k with gregs := k.gregs.erase t }
    if t.kind = 0 then
      ((s.put F.HLK_GREG_DATA_DATA v).setBit F.HLK_GREG_STATUS_DONE 0).put F.HLK_GREG_STATUS_BUSY 0
    else if t.kind = 2 then s.reading (16 + 4 * g + (t.addr - 0xC0) / 4) (signed 16 v)
    else s

/-- The AUX item of a read frame (R359, R366). -/
def State.auxHeld (s : State) (g : Nat) (c : ReadContent) : State :=
  if !bitN c.stat 3 then s
  else if bitN c.stat 4 then s.gregReply g c.aux
  else
    let code := c.aux % 65536
    s.notice (if bitN code 15 then 0x8D20 else 0x0D20) g [code, c.aux / 65536, s.link.cyc]

/-- A valid read frame of gallery `g` is held (R358, R359, R374, R375). -/
def State.frameHeld (s : State) (g : Nat) (c : ReadContent) : State :=
  let b := fun (i : Nat) => if bitN c.stat i then 1 else 0
  let back := s.g (F.HLK_STA_STATE g) ≠ 1
  let s := ((s.put (F.HLK_STA_STATE g) 1).put (F.HLK_STA_STAT g) (b 0 + 2 * b 1 + 4 * b 5 + 8 * b 6)).put
    (F.HLK_STA_INPUTS g) c.inputs
  let s := (((s.put (F.HLK_STA_CYC g) s.link.cyc).put (F.HLK_STA_ON_MASK g) c.on_).put (F.HLK_STA_PEAK_MASK g) c.peak).put
    (F.HLK_STA_ACK_SEQ g) c.ack
  let s := s.modMember g fun m => { m with enum := true, miss := 0, held := some true, ack := c.ack, prev := c.ack, sent := [] }
  let s := (s.countStations.removeAcked g c.ack).auxHeld g c
  let s := if back then (s.askHold g).zonesUpdate else s
  s.pump false

/-- What the head finds in the slot of unit `u`, a station with address `a`: the read frame that the unit has sent, whole or
not, or an invalid one where it has sent none (R351, R357, R358). -/
def State.slotFrame (s : State) (u a : Nat) (rx : Rx) : State :=
  let x := s.station u
  let sent := match x.latched with
    | some c => if c.sent ∧ c.cyc = s.link.cyc then some c else none
    | none => none
  let s := s.setStation u { x with latched := none }
  match sent.bind (rx.content a), sent.isSome || rx != .intact with
  | some c, _ => s.frameHeld a c
  | none, true => (s.bumpBy C.HLK_CNT_CHAR_ERR rx.errs).bump (C.HLK_CNT_FRAME_ERR a)
  | none, false => s

/-- READ_FRAME: 48 ticks after the last bit of the read frame of unit `g` would have been sampled (R358). -/
def execReadFrame (g : Nat) (rx : Rx) (s : State) : Result :=
  .next (let x := s.station (g % 8)
    match x.address with
    | none => s
    | some a => match s.member a with
      | none => s
      | some m =>
        if !s.inCycle ∨ m.held.isSome ∨ s.time ≠ s.link.start + 11064 + 6000 * x.slot + s.link.loop ∨ !x.powered then s
        else s.slotFrame (g % 8) a rx)

/-- Gallery `g` is missing in this cycle (R375, R382). -/
def State.slotMiss (s : State) (g : Nat) (m : Member) : State :=
  let s := s.modMember g fun m => { m with held := some false, miss := m.miss + 1 }
  let s := if !m.enum then s else
    let s := (s.bump (C.HLK_CNT_MISS g)).put (F.HLK_STA_STATE g) (if 2 ≤ m.miss then 3 else 2)
    let s := if m.miss = 0 then (s.galleryGap g).sticky F.HLK_FLAGS_MISSING g 0x8D11 g [s.link.cyc] else s
    let s := if m.miss = 2 then s.sticky F.HLK_FLAGS_LOST g 0x8D12 g [s.link.cyc] else s
    if s.writing then s.undeliverable g else s
  s.pump false

/-- SLOT_MISSED (R375). -/
def execSlotMissed (g : Nat) (s : State) : Result :=
  .next (match s.member (g % 8) with
    | some m =>
      if s.inCycle ∧ m.held = none ∧ s.time = s.link.start + 11064 + 6000 * m.slot + s.link.loop then s.slotMiss (g % 8) m
      else s
    | none => s)

/-- The first bit of this cycle's MARK is back after `d` ticks: each run of 16 cycles beyond the limit is reported (R377; log
entry 137). -/
def State.markerBack (s : State) (d : Nat) : State :=
  let s := (s.put F.HLK_LOOP_LAST d).modLink fun k => { k with openCycles := 0 }
  let far := decide (3 < ((d : Int) - (s.g F.HLK_LOOP_ENUM : Int)).natAbs)
  let s := s.modLink fun k => { k with driftCycles := if far then k.driftCycles + 1 else 0 }
  if 16 ≤ s.link.driftCycles then
    let s := s.modLink fun k => { k with driftCycles := 0 }
    (s.setBit F.HLK_FLAGS_DRIFT 0).notice 0x0D13 0 [s.g F.HLK_LOOP_ENUM, d]
  else s

/-- The return of this cycle's marker is still awaited. -/
def State.markerAwaited (s : State) : Bool := s.agenda.any (fun e => match e.2 with | .markerReturn _ => true | _ => false)

/-- MARKER_RETURN: with a delay, how long the MARK of this cycle takes, where it is not the enumerated loop delay; the
measurement is made when it is back (R377). -/
def execMarkerReturn (delay : Option Nat) (s : State) : Result :=
  .next (let d := delay.getD s.link.loop
    if !s.inCycle then s
    else if s.time = s.link.start + d then
      (s.withdraw fun i => match i with | .markerReturn _ => true | _ => false).markerBack d
    else if s.time < s.link.start + d ∧ s.markerAwaited then
      (s.withdraw fun i => match i with | .markerReturn _ => true | _ => false).at_ (s.link.start + d) (.markerReturn delay)
    else s)

/-- MARKER_MISSING: no marker returns in this cycle; each run of three such cycles is reported (R377; log entry 137). -/
def execMarkerMissing (rx : Rx) (s : State) : Result :=
  .next (if !s.inCycle || !s.markerAwaited then s else
    let s := (s.withdraw fun i => match i with | .markerReturn _ => true | _ => false).bumpBy C.HLK_CNT_CHAR_ERR rx.errs
    let s := s.modLink fun k => { k with openCycles := k.openCycles + 1, driftCycles := 0 }
    if 3 ≤ s.link.openCycles then
      ((s.modLink fun k => { k with openCycles := 0 }).setBit F.HLK_FLAGS_RING_OPEN 0).notice 0x8D10 0 [s.linkState]
    else s)

/-- `HLK_GREG_CTRL` written (R366). -/
def State.writeGreg (s : State) (data : Nat) : State :=
  let s := ((s.put F.HLK_GREG_CTRL_WRITE (data / 2)).put F.HLK_GREG_CTRL_GAL (data / 16)).put F.HLK_GREG_CTRL_ADDR (data / 65536)
  if data % 2 = 0 ∨ s.gregBusy then s else
  let g := s.g F.HLK_GREG_CTRL_GAL
  let t : Greg := ⟨0, s.on F.HLK_GREG_CTRL_WRITE, g, s.g F.HLK_GREG_CTRL_ADDR, s.g F.HLK_GREG_DATA_DATA, none⟩
  let s := (s.put F.HLK_GREG_STATUS_BUSY 1).modLink fun k => { k with gregs := k.gregs ++ [t] }
  if !s.link.cycling || !s.enumerated g then s.gregFail fun t => t.kind == 0 else s.pump false

/-- GREG (R366). -/
def execGreg (data : Nat) (s : State) : Result := .next (s.writeGreg data)

/-- GREG_TIMEOUT: no reply by the end of the fourth cycle after the one of the frame (R366). -/
def execGregTimeout (s : State) : Result :=
  .next (s.gregFail fun t => t.sent.any fun k => decide (k + 5 ≤ s.link.index))

end Sys2Proof.Machine
end

