-- ==== Sys2Proof/Machine/Monitor.lean ====
section
/-! DEFINITION. The monitor inputs: filters, results, limits and the monitor stream (15_illumination_and_monitors.md,
R419 to R426, R430), and the frame start that synchronises them. -/

namespace Sys2Proof.Machine

/-- Monitor `m`. -/
def State.mon (s : State) (m : Nat) : Monitor := nth s.mons m Monitor.idle

/-- Monitor `m` replaced. -/
def State.setMon (s : State) (m : Nat) (x : Monitor) : State := { s with mons := modNth s.mons m fun _ => x }

/-- The monitor divisor in effect (R419). -/
def State.monDiv (s : State) : Nat := s.g F.NWL_DIV_ACTIVE_MON

/-- Monitors run at Run, Poise and Rest, up to the commit point of an entry to Hush or deeper (R430). -/
def State.monsRun (s : State) : Bool := decide (s.step_ ≤ 2) && !(s.phase == 4 && decide (3 ≤ s.entry))

/-- A filter start on the first CD52 edge at or after tick `t` (R421). -/
def State.filterStart (s : State) (m t : Nat) : State :=
  let r := gridEdge s.newel.changeMon s.monDiv t
  (s.setMon m { s.mon m with next := some r }).at_ r (.monSample m none)

/-- EN of monitor `m` written 1 (R421), or 0: the filter stops. -/
def State.monEnable (s : State) (m : Nat) (en : Bool) : State :=
  let s := s.put (F.MON_CTRL_EN m) (if en then 1 else 0)
  if !en then s.setMon m { s.mon m with run := none, next := none }
  else if s.monsRun then s.filterStart m s.time else s

/-- MON_ENABLE (R421). -/
def execMonEnable (m : Nat) (s : State) : Result := .next (s.monEnable (m % 8) true)

/-- A synchronising event of kind `k` (1 SYNC_IN, 2 and 3 the frame starts of W0 and W1) on tick `t` (R421). -/
def State.monSync (s : State) (k t : Nat) : State :=
  (List.range 8).foldl (fun s m =>
    if s.on (F.MON_CTRL_EN m) && s.g (F.MON_CFG_SYNC m) == k && s.monsRun then
      (s.bump (C.MON_CNT_SYNC m)).filterStart m t
    else s) s

/-- Every enabled filter starts again from tick `t` (R421, R430). -/
def State.monsRestart (s : State) (t : Nat) : State :=
  (List.range 8).foldl (fun s m => if s.on (F.MON_CTRL_EN m) then s.filterStart m t else s) s

/-- One modulator bit through the three integrators (R420). -/
def Monitor.bit (x : Monitor) (b : Bool) : Monitor :=
  let (a, c, d) := x.integ
  let a := (a + (if b then 1 else 0)) % 2 ^ 64
  let c := (c + a) % 2 ^ 64
  { x with integ := (a, c, (d + c) % 2 ^ 64) }

/-- The sinc3 sum of a decimation: the three differentiators (R420). -/
def Monitor.sum (x : Monitor) : Nat × Monitor :=
  let sub := fun (a b : Nat) => (a + 2 ^ 64 - b) % 2 ^ 64
  let y0 := x.integ.2.2
  let (p, q, r) := x.diff
  let y1 := sub y0 p
  let y2 := sub y1 q
  (sub y2 r, { x with diff := (y0, y1, y2) })

/-- The value of a sample from its sinc3 sum (R420). -/
def monValue (k sum : Nat) : Int :=
  clampI (-8388608) 8388607 (rdiv ((2 * (sum : Int) - (k ^ 3 : Nat)) * 8388608) ((k ^ 3 : Nat) : Int))

/-- `n` free modulator bits. -/
def State.freeBits (s : State) : Nat → List Bool × State
  | 0 => ([], s)
  | n + 1 =>
    let (v, s) := s.free 2
    let (l, s) := s.freeBits n
    ((v == 1) :: l, s)

/-- Bytes of a monitor block (Table 15.2). -/
def blockBytes (seq skipped : Nat) (l : List MonEntry) : List Byte :=
  let b := fun (v : Bool) (n : Nat) => if v then 2 ^ n else 0
  let first := match l with | e :: _ => e.stamp | [] => 0
  padTo 64 (wordBytes ([seq % 65536 + l.length * 2 ^ 16 + 5 * 2 ^ 28, min 65535 skipped, first % 2 ^ 32, first / 2 ^ 32] ++
    l.flatMap fun e => [unsigned 24 e.value + e.mon * 2 ^ 24 + b e.settling 27 + b e.first 28, e.stamp % 2 ^ 32]))

/-- A block of entries closes: written whole or skipped whole (R426). -/
def State.offerBlock (s : State) (l : List MonEntry) : State :=
  let q := s.g F.MON_STREAM_QUEUE
  let bytes := blockBytes (s.g F.MON_STREAM_SEQ_COUNT) s.stream.skipped l
  let s := s.bump C.MON_STREAM_SEQ
  if ceilDiv bytes.length 64 ≤ s.avail q ∧ s.hostBack then
    ({ s with stream := { s.stream with skipped := 0 } } : State).offerPacket 16 ⟨q, bytes, 0, 0⟩
  else s.blockSkipped

/-- Blocks of `n` entries close while as many are open, at most `k` of them (R425). -/
def State.closeFull (s : State) (n : Nat) : Nat → State
  | 0 => s
  | k + 1 =>
    let l := s.stream.entries
    if 0 < n ∧ n ≤ l.length then
      (({ s with stream := { s.stream with entries := l.drop n } } : State).offerBlock (l.take n)).closeFull n k
    else s

/-- The open block closes when it is full, or 1 ms after its first entry (R425). DESIGN CHOICE: where a write makes BLOCK less
than the entries held, they close at once in blocks of the new size, oldest first (log entry 131). -/
def State.closeBlocks (s : State) : State :=
  match s.stream.entries with
  | [] => s
  | e :: l =>
    let n := s.g F.MON_STREAM_BLOCK
    if n ≤ l.length + 1 then
      let s := s.closeFull n (l.length + 1)
      match s.stream.entries with
      | [] => s
      | f :: _ => s.at_ (f.stamp + 1500000) .monBlockClose
    else if e.stamp + 1500000 ≤ s.time then
      ({ s with stream := { s.stream with entries := [] } } : State).offerBlock (e :: l)
    else s

/-- MON_BLOCK_CLOSE (R425, R426). -/
def execMonBlockClose (s : State) : Result := .next s.closeBlocks

/-- An entry's place: order of stamp, a lower input first on a tie (R425). -/
def insertEntry (x : MonEntry) : List MonEntry → List MonEntry
  | [] => [x]
  | y :: l => if y.stamp < x.stamp ∨ (y.stamp = x.stamp ∧ y.mon ≤ x.mon) then y :: insertEntry x l else x :: y :: l

/-- A sample enters the stream (R425). -/
def State.streamSample (s : State) (e : MonEntry) : State :=
  let l := insertEntry e s.stream.entries
  let s : State := { s with stream := { s.stream with entries := l } }
  let s := if l.length = 1 then s.at_ (e.stamp + 1500000) .monBlockClose else s
  if s.g F.MON_STREAM_BLOCK ≤ l.length then s.after 0 .monBlockClose else s

/-- A settled sample enters the result register and the limit check (R423, R424). -/
def State.settledSample (s : State) (m j : Nat) (d : Int) : State :=
  let pick := s.g (F.MON_CFG_PICK m)
  let s := if pick = 0 ∨ pick = j then
      ((s.put (F.MON_RESULT_LO_VALUE m) (unsigned 24 d)).put (F.MON_RESULT_LO_SEQ m) (s.g (F.MON_RESULT_LO_SEQ m) + 1)).put
        (F.MON_RESULT_HI_TIME m) s.time
    else s
  let v := d / 256
  let lo := signed 16 (s.g (F.MON_LIMIT_LOW m))
  let hi := signed 16 (s.g (F.MON_LIMIT_HIGH m))
  if lo ≤ hi ∧ (v < lo ∨ hi < v) then
    (s.bump (C.MON_CNT_LIMIT m)).sticky F.MON_FLAGS_LIMIT m 0x8F10 m [unsigned 32 d]
  else s

/-- A sample of monitor `m` completes on this tick; its modulator bits are given, or free (R420 to R425). -/
def State.monSampleNow (s : State) (m : Nat) (bits : Option (List Bool)) : State :=
  let k := s.g (F.MON_CFG_DECIM m)
  let given := (bits.getD []).take k
  let (more, s) := s.freeBits (k - given.length)
  let x := (given ++ more).foldl Monitor.bit (s.mon m)
  let (sum, x) := x.sum
  let j := x.index + 1
  let d := monValue k sum
  let s := s.setMon m { x with index := j, owed := none }
  let s := (s.put (F.MON_STATUS_SETTLING m) (if j ≤ 3 then 1 else 0)).put (F.MON_STATUS_INDEX m) (min 255 j)
  let s := if j ≤ 3 then s else s.settledSample m j d
  let s := if s.on (F.MON_CTRL_STREAM m) then s.streamSample ⟨s.time, m, d, decide (j ≤ 3), j == 1⟩ else s
  s.at_ (s.time + k * s.monDiv) (.monSample m none)

/-- Whether a sample of monitor `m` is due on this tick: an edge of CD52 completes its decimation, or a commit epoch of this
tick has left it owed (R420, R421). -/
def State.sampleDue (s : State) (m : Nat) : Bool :=
  s.on (F.MON_CTRL_EN m) && s.monsRun && ((s.mon m).owed == some s.now || (s.outEdge 2 s.time && (s.mon m).run.any fun r =>
    s.time == r + ((s.mon m).index + 1) * s.g (F.MON_CFG_DECIM m) * s.monDiv))

/-- The samples due on this tick kept owed across a change of the divisor (R421). -/
def State.oweSamples (s : State) : State :=
  overIdx (fun m s => if s.sampleDue m then s.setMon m { s.mon m with owed := some s.now } else s) 8 s

/-- The filter start of monitor `m` that is due takes effect (R420, R421). -/
def State.restartDue (s : State) (m : Nat) : State :=
  match (s.mon m).next with
  | some r =>
    if r ≤ s.time ∧ s.on (F.MON_CTRL_EN m) ∧ s.monsRun then
      let s := s.setMon m { Monitor.idle with run := some s.time }
      (s.put (F.MON_STATUS_INDEX m) 0).at_ (s.time + s.g (F.MON_CFG_DECIM m) * s.monDiv) (.monSample m none)
    else s
  | none => s

/-- MON_SAMPLE: a sample first, then a filter start of the same tick (R420, R421). -/
def execMonSample (m : Nat) (bits : Option (List Bool)) (s : State) : Result :=
  let m := m % 8
  .next ((if s.sampleDue m then s.monSampleNow m bits else s).restartDue m)

/-- Monitors stop at the commit point of an entry to Hush or deeper; a block that is open closes (R430). -/
def State.monsStop (s : State) : State :=
  let l := s.stream.entries
  let s : State := { s with mons := s.mons.map fun x => { x with run := none, next := none },
                            stream := { s.stream with entries := [] } }
  if l.isEmpty then s else s.offerBlock l

/-- FRAME_START: the frame of camera `c` begins, and monitors that follow it start again (R161, R421). -/
def execFrameStart (c : Nat) (s : State) : Result :=
  let c := c % 2
  let starts := (s.cam c).frames.any fun f => !f.started && f.start == s.time
  .next (if starts then (s.beginFrame c).monSync (c + 2) s.time else s)

end Sys2Proof.Machine
end

