-- ==== Sys2Proof/Machine/Newel.lean ====
section
/-! DEFINITION. The Newel: lock sequence, holdover, NEWEL_TIME, commits, snapshots and stamped pins
(02_newel_timebase.md, R41 to R63, R619, R620). -/

namespace Sys2Proof.Machine

/-- The Newel changed. -/
def State.modNewel (s : State) (f : Newel → Newel) : State := { s with newel := f s.newel }

/-- The events of a lock sequence in progress withdrawn. -/
def State.lockQuiet (s : State) : State :=
  s.withdraw fun c => match c with
    | .bandSearch => true
    | .lockDeclared => true
    | .nwlReacquired => true
    | _ => false

/-- Ticks to the next reference edge where NEWEL_TIME counts reference cycles; the lock sequence, counted in whole cycles,
then starts with that edge and its lock falls on an edge, so that the tick takes over with no gap and no repeat (R46,
R60). -/
def Newel.toEdge (x : Newel) : Nat := if x.counting = .refCycles then (15 - x.refTicks) % 15 else 0

/-- Settle begins: 1,024 reference cycles (R46, Table 2.2). -/
def State.beginSettle (s : State) : State :=
  let d := 15360 + s.newel.toEdge
  ((s.lockQuiet.modNewel fun x => { x with phase := .settle, phaseEnd := s.now + d }).after d .bandSearch)

/-- The lock sequence starts, in the reference mode held for it; without reference edges it waits for them. For a full reset
that waits for it, it is boot stage 2 (R44, R46, R48, R98, R113). -/
def State.lockStart (s : State) : State :=
  let s := if s.boot.resetAtLock then s.put F.PWR_BOOT_STATUS_STAGE 2 else s
  let s := (s.put F.NWL_STATUS_REFMODE (s.g F.NWL_REFMODE_NEXT_MODE)).put F.NWL_STATUS_LOCKED 0
  if s.newel.refPresent then s.beginSettle else s.lockQuiet.modNewel fun x => { x with phase := .settle, phaseEnd := s.now }

/-- LOCK_SEQUENCE (R46): from the loop being off, with both supplies good. -/
def execLockSequence (s : State) : Result :=
  .next (if s.newel.phase = .off ∧ s.boot.powered then s.lockStart else s)

/-- BAND_SEARCH: Settle ends and the search begins; when the search has run its five steps, the band whose control voltage
lies nearest mid-range is kept, which the spec leaves to the die, and the lock count runs (R46, Table 2.2; log entry 2). -/
def State.bandSearch (s : State) : State :=
  let x := s.newel
  if !x.refPresent || decide (s.now < x.phaseEnd) then s
  else match x.phase with
    | .settle =>
      (s.modNewel fun x => { x with phase := .band, phaseEnd := s.now + 153600 }).after 153600 .bandSearch
    | .band =>
      let (k, s) := s.free 32
      ((s.put F.NWL_STATUS_BAND k).modNewel fun x => { x with phase := .lockCount, phaseEnd := s.now + 983040 }).after
        983040 .lockDeclared
    | _ => s

/-- BAND_SEARCH (R46). -/
def execBandSearch (s : State) : Result := .next s.bandSearch

/-- LOCK_RESTART: the reference is back; a lock sequence it had left starts again from Settle (R48). -/
def State.lockRestart (s : State) : State :=
  let x := s.newel
  if x.refPresent then s
  else
    let s := s.modNewel fun x => { x with refPresent := true }
    match x.phase with
    | .settle => s.beginSettle
    | .band => s.beginSettle
    | .lockCount => s.beginSettle
    | _ => s

/-- LOCK_RESTART (R48). -/
def execLockRestart (s : State) : Result := .next s.lockRestart

/-- REF_LOST: sixty ticks without an edge while locked enter holdover; while reacquiring only the flag is set; during a
lock sequence the sequence waits; a count that ran on reference cycles is held (R48, R49, R61, R619). -/
def State.refLost (s : State) : State :=
  let x := s.newel
  if !x.refPresent then s
  else
    let s := s.modNewel fun x => { x with refPresent := false,
                                          counting := if x.counting = .refCycles then .held else x.counting }
    match x.phase with
    | .locked =>
      let s := ((s.modNewel fun x => { x with phase := .holdover }).put F.NWL_STATUS_HOLDOVER 1).bump C.NWL_CNT_REF_LOSS
      let s := (s.setBit F.NWL_FLAGS_REF_LOST 0).setBit F.NWL_FLAGS_HOLDOVER_ENTERED 0
      s.notice 0x8510 0 [s.ctr C.NWL_CNT_REF_LOSS]
    | .reacq => (s.lockQuiet.modNewel fun x => { x with phase := .holdover }).setBit F.NWL_FLAGS_REF_LOST 0
    | .settle => s.lockQuiet
    | .band => s.lockQuiet
    | .lockCount => s.lockQuiet
    | _ => s

/-- REF_LOST (R49). -/
def execRefLost (s : State) : Result := .next s.refLost

/-- REACQUISITION: reference edges are back in holdover; `inRange`: the control voltage needed lies in the band's range
(R51, R52). -/
def State.reacquire (s : State) (inRange : Bool) : State :=
  if s.newel.phase ≠ .holdover then s
  else
    let s := s.modNewel fun x => { x with refPresent := true }
    if inRange then
      (s.modNewel fun x => { x with phase := .reacq, phaseEnd := s.now + 983040 }).after 983040 .nwlReacquired
    else (s.setBit F.NWL_FLAGS_REACQ_FAIL 0).notice 0x8511 0 [s.g F.NWL_STATUS_BAND]

/-- REACQUISITION (R51). -/
def execReacquisition (inRange : Bool) (s : State) : Result := .next (s.reacquire inRange)

/-- NWL_REACQUIRED: 65,536 reference cycles after the loop closed, holdover ends (R51). -/
def State.reacquired (s : State) : State :=
  if s.newel.phase ≠ .reacq ∨ s.now < s.newel.phaseEnd then s
  else
    let s := ((s.modNewel fun x => { x with phase := .locked }).put F.NWL_STATUS_HOLDOVER 0).bump C.NWL_CNT_REACQ
    s.notice 0x0510 0 [s.ctr C.NWL_CNT_REACQ]

/-- NWL_REACQUIRED (R51). -/
def execNwlReacquired (s : State) : Result := .next s.reacquired

/-! ### Commits -/

/-- The next epoch of a commit accepted on tick `t`, not before now (R54, R620). -/
def State.commitNext (s : State) (t : Nat) : State := s.at_ (s.epochOf t) .commitEpoch

/-- The three shadows moved into effect on this tick: a changed output has its edges from here on, its companion port
loses its training, and the monitors start again (R55, R56, R223, R236, R421). -/
def State.transfer (s : State) : State :=
  let n0 := s.outShadow 0 s.time
  let n1 := s.outShadow 1 s.time
  let nm := s.outShadow 2 s.time
  let c0 := n0 != s.g F.NWL_DIV_ACTIVE_XCLK0
  let c1 := n1 != s.g F.NWL_DIV_ACTIVE_XCLK1
  let cm := nm != s.g F.NWL_DIV_ACTIVE_MON
  let t := s.time
  let s := if cm then s.oweSamples else s
  let s := s.modNewel fun x => { x with changeX0 := if c0 then t else x.changeX0, changeX1 := if c1 then t else x.changeX1,
                                        changeMon := if cm then t else x.changeMon }
  let s := ((s.put F.NWL_DIV_ACTIVE_XCLK0 n0).put F.NWL_DIV_ACTIVE_XCLK1 n1).put F.NWL_DIV_ACTIVE_MON nm
  let s := if c0 then s.portClock 0 else s
  let s := if c1 then s.portClock 1 else s
  if cm then s.monsRestart t else s

/-- COMMIT_EPOCH: a tick that meets both conditions of R54 while ticks run (R54, R56, R620). -/
def State.commitEpoch (s : State) : State :=
  match s.newel.commitAt with
  | none => s
  | some t =>
    if !s.ticking then s
    else if onEdge commitGrid s.time ∧ t + commitLead ≤ s.time then
      let s := (s.transfer.putPair F.NWL_COMMIT_TIME_LO s.time).put F.NWL_STATUS_COMMIT_PENDING 0
      s.modNewel fun x => { x with commitAt := none }
    else if s.agenda.any fun e => e.2 == .commitEpoch then s else s.commitNext t

/-- A commit accepted on this tick: it fixes an epoch unless one is pending; on the pending epoch's own tick the transfer
comes first and the commit fixes the next epoch (R54, R55). -/
def State.commit (s : State) : State :=
  let s := s.commitEpoch
  match s.newel.commitAt with
  | some _ => s
  | none =>
    ((s.modNewel fun x => { x with commitAt := some s.time }).put F.NWL_STATUS_COMMIT_PENDING 1).commitNext s.time

/-- COMMIT (R54). -/
def execCommit (s : State) : Result := .next (if s.ticking then s.commit else s)

/-- COMMIT_EPOCH (R56). -/
def execCommitEpoch (s : State) : Result := .next s.commitEpoch

/-! ### Snapshots and stamped pins -/

/-- A capture of stamp `t` into `NWL_SNAP` (R63). -/
def State.capture (s : State) (t : Nat) : State :=
  (s.putPair F.NWL_SNAP_LO t).put F.NWL_STATUS_SNAP_SEQ (s.g F.NWL_STATUS_SNAP_SEQ + 1)

/-- A software capture: of this tick; where a pin was captured on this tick, that capture is stored after it and stands
(R63). -/
def State.snap (s : State) : State :=
  if s.newel.pinCapture = some s.now then s.put F.NWL_STATUS_SNAP_SEQ (s.g F.NWL_STATUS_SNAP_SEQ + 1)
  else s.capture s.time

/-- SNAP: a write of 1 to `NWL_CTRL.SNAP` (R63). -/
def execSnap (s : State) : Result := .next s.snap

/-- A pin capture of stamp `t` (R58, R63). -/
def State.capturePin (s : State) (t : Nat) : State := (s.capture t).modNewel fun x => { x with pinCapture := some s.now }

/-- PIN_EDGE: an edge first sampled on this tick at a pin (1 SYNC_IN, 2 TRIG0, 3 TRIG1), stamped two ticks earlier and
passed to the capture, the cameras and the monitors; for 16 + n, PIO n takes the level (R58, R63, R166, R421, R441). -/
def State.pinEdge (s : State) (pin : Nat) (rising : Bool) : State :=
  if 16 ≤ pin then (if pin < 40 then s.pioPinEdge (pin - 16) rising else s)
  else if !s.ticking then s
  else
    let t := s.time - 2
    let s := if rising ∧ pin ≠ 0 ∧ s.g F.NWL_CTRL_SNAP_SRC = pin then s.capturePin t else s
    match pin with
    | 1 => if rising then s.monSync 1 s.time else s
    | 2 => s.trigger 32 t rising
    | 3 => s.trigger 33 t rising
    | _ => s

/-- PIN_EDGE (R58). -/
def execPinEdge (pin : Nat) (rising : Bool) (s : State) : Result := .next (s.pinEdge pin rising)

/-- The PLL stops: NEWEL_TIME goes on by reference cycles where the reference runs and may drive it, else it holds; it holds
too where the Newel is still in holdover, whether edges are back or not (R60, R61). LOCKED reads 0 from here (Table 2.10).
DESIGN CHOICE: HOLDOVER reads 0 from here too, since the loop that was in holdover no longer runs; the spec names only the
later lock as its end (R52; log entry 119). -/
def State.pllStop (s : State) (mayRun : Bool) : State :=
  let x := s.newel
  let c : Counting :=
    if mayRun && x.refPresent && x.counting != .held && x.phase != .holdover && x.phase != .reacq then .refCycles else .held
  let s := s.lockQuiet.modNewel fun x => { x with phase := .off, refTicks := 0, counting := c }
  (s.put F.NWL_STATUS_LOCKED 0).put F.NWL_STATUS_HOLDOVER 0

end Sys2Proof.Machine
end

