-- ==== Sys2Proof/Machine/Boot.lean ====
section
/-! DEFINITION. Strap sense, boot stages and reset kinds (03_straps_and_balustrade.md, R73 to R86;
04_power_up_and_reset.md; 21_store_archive_security.md, R565 to R574). -/

namespace Sys2Proof.Machine

/-- Boot and reset state changed. -/
def State.modBoot (s : State) (f : Boot → Boot) : State := { s with boot := f s.boot }

/-- Stair state changed. -/
def State.modStair (s : State) (f : Stair → Stair) : State := { s with stair := f s.stair }

/-- The stage in progress (Table 4.1), and it set. -/
def State.stage (s : State) : Nat := s.g F.PWR_BOOT_STATUS_STAGE
def State.toStage (s : State) (n : Nat) : State := s.put F.PWR_BOOT_STATUS_STAGE n

/-- Boot complete or boot-hold (R104). -/
def State.ready (s : State) : Bool := decide (7 ≤ s.stage)

/-! ### Straps -/

/-- What the world says the twelve strap pins carry; anything but twelve values leaves them as they are. -/
def State.pinsCarry (s : State) (ohms : List Nat) : State :=
  if ohms.length = 12 then s.modBoot fun b => { b with strapOhms := ohms } else s

/-- Stage 2: the lock sequence starts, or waits for the reference (R46, R48, R98). -/
def State.beginLock (s : State) : State := (s.toStage 2).after 0 .lockSequence

/-- The strap decode becomes valid: the reference selector latches STRAP1 (R73, R74). -/
def State.decodeValid (s : State) (ohms : List Nat) : State :=
  if s.boot.decoded then s
  else
    let s := s.pinsCarry ohms
    let (x, s) := s.readStrap (nth s.boot.strapOhms 1 0)
    let s := s.withdraw fun c => match c with
      | .strapDecodeValid _ => true
      | _ => false
    let s := (s.modBoot fun b => { b with decoded := true, strap1 := x }).put F.NWL_STATUS_REF_SRC (if x.1 ≤ 3 then 1 else 0)
    if s.boot.powered ∧ s.stage = 1 then s.beginLock else s

/-- STRAP_DECODE_VALID (R73). -/
def execStrapDecodeValid (ohms : List Nat) (s : State) : Result := .next (s.decodeValid ohms)

/-- Software limits of the Balustrade at their strapped values (R81, R83). -/
def State.strapLimits (s : State) : State :=
  let code := 4095 * s.g F.STP_CEIL_A_ILM_PCT / 100
  let s := overIdx (fun j s => s.put (F.ILM_SETPOINT_CEIL_CODE j) code) 4 s
  let s := (s.put F.ILM_RANGE_PERMIT_MASK (s.g F.STP_CONFIG_ISET10V)).put F.ARR_POWER_BUDGET_PCT (s.g F.STP_CEIL_A_ARR_PCT)
  let s := s.put F.ARR_POWER_EFF_PCT (s.g F.STP_CEIL_A_ARR_PCT)
  let pct := BitVec.ofNat 32 (s.g F.STP_CEIL_A_ARR_PCT)
  let s := overIdx (fun c s => s.setEff (effKey c F.ARR_POWER_BUDGET) pct) 2 s
  let s := (s.put F.THM_TRIP_CELSIUS (s.g F.STP_CEIL_A_TRIP_C)).put F.EJP_PULSE_MAX_TICKS (s.g F.STP_CEIL_PULSE_TICKS)
  s.put F.EJP_GAP_MIN_TICKS (s.g F.STP_CEIL_GAP_TICKS)

/-- `STP_CONFIG` and the ceilings as the levels give them (Table 3.2, R83). -/
def State.strapMeanings (s : State) (l : Nat → Nat) : State :=
  let s := (s.put F.STP_CONFIG_LANES (nth [2, 2, 1, 1] (l 0) 0)).put F.STP_CONFIG_GEN_CAP (nth [4, 3, 4, 3, 4, 3, 2, 1] (l 0) 0)
  let s := (s.put F.STP_CONFIG_REF_SRC (if l 1 ≤ 3 then 1 else 0)).put F.STP_CONFIG_ARC_LOCK
    (nth [0, 0, 1, 1, 1, 1] (l 2) 2)
  let s := (s.put F.STP_CONFIG_DBG_MODE (min 2 (l 3))).put F.STP_CONFIG_FW_POLICY (min 4 (l 4))
  let s := (s.put F.STP_CONFIG_BOARD (l 11)).put F.STP_CONFIG_ISET10V (nth [15, 7, 3, 1] (l 10) 0)
  let s := ((s.put F.STP_CEIL_A_ILM_PCT (100 - 10 * l 5)).put F.STP_CEIL_A_ARR_PCT (100 - 5 * l 6)).put F.STP_CEIL_A_TRIP_C
    (135 - 5 * l 7)
  let s := s.put F.STP_CEIL_PULSE_TICKS (1500000 * nth [40, 25, 16, 10, 6, 4, 3] (l 8) 2)
  s.put F.STP_CEIL_GAP_TICKS (750000 * nth [1, 2, 3, 4, 6, 8, 12] (l 9) 16)

/-- The twelve levels and flags latched; a set flag is reported (R74, R77, R81). -/
def State.strapsLatch (s : State) (ohms : List Nat) : State :=
  let s := s.pinsCarry ohms
  let (x, s) := s.readStraps s.boot.strapOhms
  let x := modNth x 1 fun _ => s.boot.strap1
  let l := fun (n : Nat) => (nth x n (7, false)).1
  let lo := overIdx (fun n v => v + l n * 8 ^ n) 8 0
  let hi := overIdx (fun n v => v + l (n + 8) * 8 ^ n) 4 0
  let flags := overIdx (fun n v => v + (if (nth x n (7, false)).2 then 2 ^ n else 0)) 12 0
  let s := ((s.setReg F.STP_LEVELS_LO (BitVec.ofNat 32 lo)).setReg F.STP_LEVELS_HI (BitVec.ofNat 32 hi)).setReg F.STP_ANOMALY
    (BitVec.ofNat 32 flags)
  let s := ((s.strapMeanings l).strapLimits).modBoot fun b => { b with latched := true }
  let s := s.withdraw fun c => match c with
    | .strapLatch _ => true
    | _ => false
  if flags = 0 then s else s.notice 0x0610 0 [flags]

/-- STRAP_LATCH: the first CD56 edge after lock (R74, R75). -/
def execStrapLatch (ohms : List Nat) (s : State) : Result :=
  .next (if s.boot.decoded ∧ !s.boot.latched ∧ s.ticking ∧ onEdge 150 s.time then s.strapsLatch ohms else s)

/-- SOFT_LOCK: bits written 1 are set and stay (R86). -/
def State.softLock (s : State) (bits : Nat) : State :=
  overIdx (fun i s => if bitN bits i then s.setBit ⟨F.STP_SOFT_LOCK, 2, 0⟩ i else s) 3 s

/-- SOFT_LOCK (R86). -/
def execSoftLock (bits : Nat) (s : State) : Result := .next (s.softLock bits)

/-! ### Restarting -/

/-- A command that a gallery or its station brings about for itself, or that what it sends brings to the head's wake
detectors. -/
def stationEvent : Instr → Bool
  | .stationMarker _ _ _ | .stationLatch _ | .fireAccept _ _ | .outsetAccept _ _ | .regwAccept _ _ | .regrAccept _ _
  | .setup _ _ | .stationParkMissed _ | .missedCycle _ | .fireTick _ | .peakEnd _ _ _ | .pulseEnd _ _ _
  | .chopPeriodStart _ _ | .wakePhraseEnd _ | .baudClockRecovered _ | .receiverAligned _ | .inputEdge _ _ _
  | .wakeUnitAccepted | .wakePhraseAccepted _ => true
  | _ => false

/-- Registers outside `keep` at their reset values. -/
def State.regsReset (s : State) (keep : Nat → Bool) : State :=
  { s with regs := (resetRegs.filter fun x => !keep x.1).foldl (fun r x => Regs.set r x.1 x.2) (s.regs.filter fun x => keep x.1) }

/-- The PCIe core, its configuration space and its MSI-X table at reset (Table 4.3A). -/
def State.pcieReset (s : State) : State :=
  { s with pcie := { State.reset.pcie with sent := s.pcie.sent, hostMem := s.pcie.hostMem } }

/-- The head starts over with the registers of `keep`: galleries, what is on its way to them, the Archive and the world's
pins go on (R112, R114, R118). -/
def State.restart (s : State) (keep : Nat → Bool) : State :=
  let t := { State.reset with
    pending := s.pending
    agenda := s.agenda.filter fun e => stationEvent e.2
    now := s.now
    freeCount := s.freeCount
    regs := s.regs
    newel := { State.reset.newel with refPresent := s.newel.refPresent }
    boot := { State.reset.boot with strapOhms := s.boot.strapOhms, perst := s.boot.perst }
    link := { Link.idle with inFlight := s.link.inFlight.filter fun e => decide (e.frame.fin ≤ s.time) }
    stations := s.stations
    pcie := s.pcie
    pio := { State.reset.pio with outside := s.pio.outside }
    archive := s.archive
    archiveBad := s.archiveBad
    wear := s.wear
    rollback := s.rollback }
  ((t.regsReset keep).pcieReset).put F.ARC_ROLLBACK_COUNT s.rollback

/-- The 256 bytes of the recovery buffer (R577). -/
def State.recoveryBytes (s : State) : List Byte := (List.range 64).flatMap fun i => leBytes (s.regs.get (F.ARC_RCV_BUF i)).toNat 4

/-- The block that the Archivist, or the boot ROM in a recovery, is writing now: its number and its new content. -/
def State.blockInHand (s : State) : Option (Nat × List Byte) :=
  if s.on F.ARC_RCV_STATUS_BUSY then some ((s.slot 7).job.count, s.recoveryBytes) else
  match (s.slot 7).running with
  | some t =>
    let j := (s.slot 7).job
    let i := j.count + j.skipped
    if t.op = 0x40 ∧ j.phase = 2 then some (t.w 4 + i, s.store.read (t.q 6 + 256 * i) 256) else none
  | none => none

/-- An Archive write in progress finishes before a full reset (R118). -/
def State.arcFinish (s : State) : State :=
  let s := match s.blockInHand with
    | some (b, bs) => s.blockIs b bs
    | none => s
  if s.on F.ARC_STATUS_BUSY then s.rollbackTo (s.g F.ARC_ROLLBACK_RAISE_VERSION) else s

/-- An Archive write in progress meets a loss of power: old content, new content or an uncorrectable error (R565; free,
log entry 2). -/
def State.arcTorn (s : State) : State :=
  let s := match s.blockInHand with
    | some (b, bs) =>
      let (k, s) := s.free 3
      if k = 0 then s else if k = 1 then s.blockIs b bs else { s with archiveBad := b :: s.archiveBad.filter (· != b) }
    | none => s
  if s.on F.ARC_STATUS_BUSY then
    let (k, s) := s.free 2
    if k = 0 then s else s.rollbackTo (s.g F.ARC_ROLLBACK_RAISE_VERSION)
  else s

/-! ### Full and host-side resets -/

/-- Registers that a full reset keeps: lock, counters and flags of the Newel, straps, `PWR_RESET_CAUSE` and the `PWR_`
counters; `PWR_WAKE_EN` and `PWR_WAKE_CAUSE` have no row that keeps them (R102, Tables 4.3A, 4.5, 5.9). -/
def fullKeeps (off : Nat) : Bool :=
  [F.NWL_STATUS, F.NWL_DIV_ACTIVE, F.NWL_TIME_EPOCH, F.NWL_FLAGS, F.NWL_CNT_REF_LOSS, F.NWL_CNT_REACQ, F.STP_LEVELS_LO,
   F.STP_LEVELS_HI, F.STP_ANOMALY, F.STP_CONFIG, F.STP_CEIL_A, F.STP_CEIL_PULSE, F.STP_CEIL_GAP, F.STP_SOFT_LOCK,
   F.PWR_RESET_CAUSE, F.PWR_CNT_FULL, F.PWR_CNT_HOST, F.PWR_CNT_WDOG, F.PWR_BOOT_US, F.PWR_CNT_WAKE,
   F.PWR_CNT_ABORT].contains off

/-- Stage 3 begins: the Store is trained (Table 4.1). -/
def State.beginTraining (s : State) : State :=
  ((s.toStage 3).modBoot fun b => { b with bootFrom := s.time }).after 3000000 (.storeTraining true)

/-- The PCIe core leaves reset when PERST# is deasserted and the Newel is locked: the link trains (R104). -/
def State.pcieFree (s : State) : State :=
  if !s.boot.perst && s.ticking && s.g F.PCI_LINK_STATE == 0 then s.put F.PCI_LINK_STATE 1 else s

/-- A full reset takes effect on this tick; out of holdover it goes on with stage 3, in holdover with a lock sequence
(R112 to R114, R118). -/
def State.fullReset (s : State) : State :=
  let s := (s.stopCycles true).arcFinish
  let t := s.restart fullKeeps
  let t : State := { t with
    newel := s.newel
    boot := { t.boot with powered := true, decoded := true, strap1 := s.boot.strap1, latched := true, mainGood := true,
                          bootFrom := s.time } }
  let t := ((t.put F.NWL_STATUS_SNAP_SEQ 0).bump C.PWR_CNT_FULL).strapLimits
  let t := match t.newel.commitAt with
    | some a => t.commitNext a
    | none => t.commit
  if s.newel.phase = .locked then t.beginTraining.pcieFree
  else ((t.pllStop true).toStage 2).lockStart

/-- Whether a boot or a full reset runs. -/
def State.booting (s : State) : Bool := decide (s.stage < 7)

/-- A full reset is triggered: at once where derived clocks run; at Hush or Dormant the head leaves the step and locks
first (R113). In a boot it changes nothing (R106). -/
def State.askFull (s : State) : State :=
  if s.booting || !s.boot.powered then s
  else if s.ticking then s.fullReset
  else
    let s := s.modBoot fun b => { b with resetAtLock := true }
    let s := s.withdraw fun c => c == .stepReached || c == .commitPoint
    if s.newel.phase ≠ .off then s.toStage 2
    else if s.agenda.any (fun e => e.2 == .lockSequence) then s
    else s.after (if s.g F.PWR_STEP_STATUS_STEP = 4 ∨ s.g F.PWR_STEP_STATUS_ENTRY = 4 then 3300000 else 285000) .lockSequence

/-- PERST# asserted after its filter: cause, link down, full reset (R104, R106, R109). At Vault the head only notes the
pin. -/
def State.perstIn (s : State) : State :=
  if s.boot.perst then s
  else
    let s := s.modBoot fun b => { b with perst := true }
    if !s.boot.powered || s.g F.PWR_STEP_STATUS_STEP == 5 then s
    else (s.setReg F.PCI_LINK 0).setBit F.PWR_RESET_CAUSE_PERST 0 |>.askFull

/-- PERST_ASSERT (R114). -/
def execPerstAssert (s : State) : Result := .next s.perstIn

/-- PERST_DEASSERT: the PCIe core leaves reset once the Newel is locked (R104). -/
def execPerstDeassert (s : State) : Result := .next (s.modBoot fun b => { b with perst := false }).pcieFree

/-- A keyed write of FULL: a full reset; on the tick of one already taken it adds its cause (R110). -/
def State.softFull (s : State) : State :=
  if s.booting then
    (if (s.stage = 2 ∨ s.stage = 3) ∧ s.boot.bootFrom = s.time ∧ s.on F.PWR_RESET_CAUSE_PERST then s.setBit F.PWR_RESET_CAUSE_SW_FULL 0 else s)
  else (s.setBit F.PWR_RESET_CAUSE_SW_FULL 0).askFull

/-- The key of `PWR_RESET` (R110). -/
def resetKey : Nat := 0xB007

/-- RESET_FULL (R110). -/
def execResetFull (key : Nat) (s : State) : Result := .next (if key = resetKey then s.softFull else s)

/-- Registers that a host-side reset returns to their reset values: every ring register and event counter (R506). -/
def ringRegister (off : Nat) : Bool :=
  (decide (F.USH_DOORBELL 0 ≤ off) && decide (off < F.USH_POLL)) ||
    (decide (F.USH_EVENT 0 ≤ off) && decide (off < F.USH_EVENT_ADD 0))

/-- Every ring, index, event counter, wait and on-deck slot at reset; running tasks and those of the flight belong to no
ring any more; notices held are discarded (R115, R506, R532). -/
def State.ringsReset (s : State) : State :=
  let u := s.usher
  let lose := fun (t : Task) => { t with sq := 16 }
  let t : State := { s with
    usher := { Usher.idle with
      slots := u.slots.map fun (x : Slot) => { x with running := x.running.map lose, deck := none }
      ops := (u.ops.filter fun (x : Nat × Task) => decide (0x50 ≤ x.2.op)).map fun (x : Nat × Task) => (x.1, lose x.2)
      arm := u.arm.map lose
      disarms := u.disarms.map lose
      nextTake := u.nextTake
      calPipe := u.calPipe
      calIn := u.calIn }
    notices := State.reset.notices }
  (t.regsReset fun off => !ringRegister off).put F.USH_FLAGS_HALTED 0

/-- A host-side reset with its cause: rings, PCIe configuration and Hall queues 8 to 63 start over, tasks are abandoned;
nothing else is touched (R109, R115, R473). -/
def State.hostReset (s : State) (cause : Fld) : State :=
  if !s.boot.powered || s.g F.PWR_STEP_STATUS_STEP == 5 then s
  else
    let s := ((s.setBit cause 0).bump C.PWR_CNT_HOST).ringsReset.pcieReset
    let s := (s.abortMask 0xFFF).modBoot fun b => { b with reportDue := true, urgentDue := true }
    let s := sharedQueues.foldl (fun s q => (s.emptyQueue q).writersLose q) s
    { s with hall := { s.hall with hostLost := true } }

/-- A keyed write of HOST (R110). -/
def State.softHost (s : State) : State := if s.booting then s else s.hostReset F.PWR_RESET_CAUSE_SW_HOST

/-- RESET_HOST (R115). -/
def execResetHost (key : Nat) (s : State) : Result := .next (if key = resetKey then s.softHost else s)

/-- The link is up: trained, in whatever state. -/
def State.linkUp (s : State) : Bool := decide (2 ≤ s.g F.PCI_LINK_STATE)

/-- HOT_RESET: the link trains again (R115). -/
def execHotReset (s : State) : Result :=
  .next (if s.linkUp then (s.hostReset F.PWR_RESET_CAUSE_HOT).setReg F.PCI_LINK 0x1000 else s)

/-- LINK_DOWN (R109). -/
def execLinkDown (s : State) : Result :=
  .next (if s.linkUp then (s.hostReset F.PWR_RESET_CAUSE_LINK_DOWN).setReg F.PCI_LINK 0 else s)

/-- WATCHDOG_EXPIRY, on an edge of CD55, the timers; not armed while a boot or a full reset runs (R57, R116). -/
def execWatchdogExpiry (s : State) : Result :=
  .next (if s.boot.watchdog ∧ s.rises 55 then (s.hostReset F.PWR_RESET_CAUSE_WDOG).bump C.PWR_CNT_WDOG else s)

/-! ### Lock declared -/

/-- Lock is declared: derived clocks run, NEWEL_TIME goes on or, held, begins a new stretch (R47, R59 to R61, R620). -/
def State.locked (s : State) : State :=
  let x := s.newel
  let held := x.counting == .held && x.everLocked
  let s := s.modNewel fun x => { x with phase := .locked, counting := .ticks, everLocked := true, refTicks := 0,
                                        time := if x.everLocked then x.time else 0 }
  let s := if held then s.put F.NWL_TIME_EPOCH_EPOCH (s.g F.NWL_TIME_EPOCH_EPOCH + 1) else s
  let s := (s.put F.NWL_STATUS_LOCKED 1).put F.NWL_STATUS_HOLDOVER 0
  match s.newel.commitAt with
  | some t => s.commitNext t
  | none => s

/-- What waited for lock goes on: a full reset (R113), stage 3 with the latch of the straps (R74, R98), a climb (R137). -/
def State.afterLock (s : State) : State :=
  if s.boot.resetAtLock then s.fullReset
  else if s.stage = 2 then
    let s := if s.boot.latched then s else s.at_ (nextEdge 150 s.time) (.strapLatch [])
    s.beginTraining.pcieFree
  else if s.g F.PWR_STEP_STATUS_PHASE = 5 then s.after 0 .climbComplete
  else s

/-- LOCK_DECLARED: 65,536 reference cycles of lock count have passed (R46, R47). -/
def execLockDeclared (s : State) : Result :=
  .next (if s.newel.phase = .lockCount ∧ s.newel.refPresent ∧ s.newel.phaseEnd ≤ s.now then s.locked.afterLock else s)

/-! ### Supplies -/

/-- BOOT_START: both supplies are good: a power-on boot begins with the strap sense; at Vault main is back, and a wake
held for it boots (R95, R98, R135). -/
def State.coldBoot (s : State) : State :=
  let s := s.toStage 1
  if s.boot.decoded then s.beginLock else s.after 300000 (.strapDecodeValid [])

/-- Registers that a cold boot from Vault keeps: the aux domain and the `PWR_` counters (Tables 4.3A, 4.5, 5.2). -/
def vaultKeeps (off : Nat) : Bool :=
  [F.PWR_RESET_CAUSE, F.PWR_CNT_FULL, F.PWR_CNT_HOST, F.PWR_CNT_WDOG, F.PWR_BOOT_US, F.PWR_WAKE_EN, F.PWR_WAKE_CAUSE,
   F.PWR_CNT_WAKE, F.PWR_CNT_ABORT].contains off

/-- The head leaves Vault by a cold boot (R122, R135, Table 4.3). -/
def State.vaultExit (s : State) : State :=
  let t := (s.restart vaultKeeps).modBoot fun b => { b with powered := true, mainGood := true, fromVault := true }
  let t := t.modNewel fun x => { x with time := s.time, counting := .own }
  (t.setBit F.PWR_RESET_CAUSE_VAULT 0).coldBoot

/-- BOOT_START (R95). -/
def execBootStart (s : State) : Result :=
  .next (if s.g F.PWR_STEP_STATUS_STEP = 5 then
      let s := s.modBoot fun b => { b with mainGood := true }
      if s.boot.vaultWake then s.vaultExit else s
    else if s.boot.powered then s
    else (s.modBoot fun b => { b with powered := true, mainGood := true }).coldBoot)

/-- SUPPLY_LOSS of the main or the aux input: a power-on reset, but at Vault, which needs no main input (R96, R135, R565). -/
def State.supplyLost (s : State) (main : Bool) : State :=
  if !s.boot.powered then (if main then s else s.modBoot fun b => { b with decoded := false })
  else if main ∧ s.g F.PWR_STEP_STATUS_STEP = 5 then s.modBoot fun b => { b with mainGood := false }
  else
    let s := s.arcTorn
    let t := s.restart fun _ => false
    t.modNewel fun x => { x with time := s.time, counting := .own }

/-- SUPPLY_LOSS (R96). -/
def execSupplyLoss (main : Bool) (s : State) : Result := .next (s.supplyLost main)

/-! ### Stages 3 to 7 -/

/-- Boot-hold: only a reset leaves it (R100). -/
def State.bootHold (s : State) : State := s.toStage 8

/-- First block of a firmware slot (Table 21.3), a word of its header (Table 21.6), and whether MAGIC is valid. -/
def slotBlock (i : Nat) : Nat := if i = 0 then 64 else 2912
def State.slotWord (s : State) (i off : Nat) : Nat := leNat (s.archive.read (256 * slotBlock i + off) 4)
def State.slotMagic (s : State) (i : Nat) : Bool := s.slotWord i 0 == 0x52574646

/-- Slot B is newer than slot A (R572). -/
def State.newerB (s : State) : Bool :=
  s.slotMagic 1 && (!s.slotMagic 0 || decide (s.slotWord 0 8 < s.slotWord 1 8) ||
    (s.slotWord 0 8 == s.slotWord 1 8 && decide (s.slotWord 0 12 < s.slotWord 1 12)))

/-- The slots in the order that STRAP4 sets (Table 3.2, R572). -/
def State.slotOrder (s : State) : List Nat :=
  match s.g F.STP_CONFIG_FW_POLICY with
  | 0 => if s.newerB then [1, 0] else [0, 1]
  | 1 => [0, 1]
  | 2 => [1, 0]
  | 3 => [1]
  | _ => [0]

/-- VERSION and BUILD of a slot with a valid MAGIC shown (R571). -/
def State.showSlot (s : State) (i : Nat) : State :=
  if s.slotMagic i then
    (s.put (F.ARC_SLOT_VER_VALUE i) (s.slotWord i 8)).put (F.ARC_SLOT_BUILD_VALUE i) (s.slotWord i 12)
  else s

/-- Typical time of a slot's load and check (Table 4.1). -/
def State.checkSoon (s : State) : State := s.after 5250000 (.firmwareCheck none 0)

/-- Store training ends: stage 4 begins, or boot-hold (R98 to R100). -/
def State.storeTrained (s : State) (ok : Bool) : State :=
  let s := s.withdraw fun c => match c with
    | .storeTraining _ => true
    | _ => false
  if ok then
    let s := ((s.put F.STO_STATUS_TRAINED 1).showSlot 0).showSlot 1
    ((s.modBoot fun b => { b with slotsLeft := s.slotOrder, slotFailed := false }).toStage 4).checkSoon
  else (s.put F.PWR_BOOT_STATUS_STORE_FAIL 1).bootHold

/-- STORE_TRAINING (R98). -/
def execStoreTraining (ok : Bool) (s : State) : Result := .next (if s.stage = 3 then s.storeTrained ok else s)

/-- The outcome of slot `i`'s checks, in the order of R571: 1 passed, 2 header, 5 read error, 3 signature, 4 rolled back. -/
def State.slotOutcome (s : State) (i : Nat) (sig : Bool) : Nat :=
  let n := s.slotWord i 16
  if !(s.slotMagic i && s.slotWord i 4 % 65536 == 1 && n % 256 == 0 && decide (256 ≤ n) && decide (n ≤ 728832)) then 2
  else if s.archiveBad.any fun b => decide (slotBlock i ≤ b) && decide (b ≤ slotBlock i + n / 256) then 5
  else if !sig then 3
  else if s.slotWord i 8 < s.rollback then 4
  else 1

/-- The verified copy of a slot's code in Store bank 3 (R571, Table 21.2). -/
def State.copyFirmware (s : State) (i : Nat) : State :=
  s.storeWrite 0x5E00000 (s.archive.read (256 * (slotBlock i + 1)) (s.slotWord i 16))

/-- Slot `i` runs: stage 5 begins (R99). -/
def State.slotRuns (s : State) (i : Nat) : State :=
  let s := (s.put F.PWR_BOOT_STATUS_FW_SLOT (i + 1)).put F.PWR_BOOT_STATUS_FW_FALLBACK (if s.boot.slotFailed then 1 else 0)
  (s.toStage 5).after 10500000 (.calibrationLoad 0)

/-- The slot in hand has been copied and checked; `sig` is what its signature gives (free where the world does not say),
`corr` the sectors corrected (R99, R562, R571). -/
def State.firmwareChecked (s : State) (sig : Option Bool) (corr : Nat) : State :=
  match s.boot.slotsLeft with
  | [] => s
  | i :: l =>
    let s := (s.withdraw fun c => match c with
      | .firmwareCheck _ _ => true
      | _ => false).bumpBy C.ARC_CNT_CORR corr
    let (ok, s) := match sig with
      | some b => (b, s)
      | none =>
        let (k, s) := s.free 2
        (k == 1, s)
    let r := s.slotOutcome i ok
    let s := s.put (F.ARC_SLOT_STATE_STATE i) r
    let s := if r = 2 ∨ r = 5 then s else s.copyFirmware i
    let s := s.modBoot fun b => { b with slotsLeft := l, slotFailed := b.slotFailed || r != 1 }
    if r = 1 then s.slotRuns i else if l.isEmpty then s.bootHold else s.checkSoon

/-- FIRMWARE_CHECK (R99). -/
def execFirmwareCheck (sig : Option Bool) (corr : Nat) (s : State) : Result :=
  .next (if s.stage = 4 then s.firmwareChecked sig corr else s)

/-- CRC-32 of bytes (R567). -/
def crc32Byte (c : Nat) (b : Byte) : Nat :=
  overIdx (fun _ (c : Nat) => if c % 2 = 1 then (BitVec.ofNat 32 (c / 2) ^^^ 0xEDB88320#32).toNat else c / 2) 8
    (BitVec.ofNat 32 c ^^^ BitVec.ofNat 32 b.toNat).toNat
def crc32 (bs : List Byte) : Nat := 2 ^ 32 - 1 - bs.foldl crc32Byte (2 ^ 32 - 1)

/-- Bytes of the calibration image, its place in the Archive, and bytes of a correction table bank (R567, Table 21.3). -/
def imageSize : Nat := 11108352
def imageBase : Nat := 256 * 5760
def tableSize : Nat := 66304

/-- The defect map of the image: at most 4,096 entries in the order of R520. -/
def mapInOrder (img : Nat → Nat → Nat) : Bool :=
  let n := img 0x3C00 4
  let entry := fun i => img (0x3C04 + 4 * i) 4 % 2 ^ 22
  decide (n ≤ 4096) && (List.range (n - 1)).all fun i => decide (entry i ≤ entry (i + 1))

/-- The image in the Archive is accepted (R568). -/
def State.imageGood (s : State) : Bool :=
  let at_ := fun (off n : Nat) => leNat (s.archive.read (imageBase + off) n)
  let tc := fun (j : Nat) => signed 16 (at_ (8 + 2 * j) 2)
  at_ 0 4 == 0x4C414346 && at_ 4 2 == 1 && at_ 20 8 == Config.dieSerial % 2 ^ 64 && decide (tc 0 < tc 1) &&
    decide (tc 1 < tc 2) && mapInOrder at_ && !(s.archiveBad.any fun b => decide (5760 ≤ b)) &&
    at_ 16 4 == crc32 (s.archive.read imageBase 16 ++ List.replicate 4 0 ++ s.archive.read (imageBase + 20) (imageSize - 20))

/-- Store bytes of a range as they read unlisted, with a fresh check code. -/
def State.storeClear (s : State) (a n : Nat) : State :=
  { s with store := sdrop s.store a (a + n)
           storeBad := s.storeBad.filter fun w => decide (w + 8 ≤ a) || decide (a + n ≤ w) }

/-- Store address of table bank `k` of the eight (Table 21.2). -/
def tableBank (k : Nat) : Nat := 0x3100000 + 0x20000 * k

/-- Calibration area 0 and the correction table banks filled from the image, or with the defaults that they read as
unlisted (R101, R263, R568). -/
def State.calibrate (s : State) (good : Bool) : State :=
  if good then
    let s := s.storeWrite (areaBase 0) (s.archive.read imageBase areaSize)
    overIdx (fun k s => s.storeWrite (tableBank k) (s.archive.read (imageBase + areaSize) tableSize)) 8 s
  else overIdx (fun k s => s.storeClear (tableBank k) tableSize) 8 (s.storeClear (areaBase 0) areaSize)

/-- Stage 5 ends: the thermal manager starts in stage 6 (R101, R102, R562). -/
def State.calibrationLoaded (s : State) (corr : Nat) : State :=
  let s := (s.withdraw fun c => match c with
    | .calibrationLoad _ => true
    | _ => false).bumpBy C.ARC_CNT_CORR corr
  let good := s.imageGood
  let s := (s.calibrate good).put F.PWR_BOOT_STATUS_CAL (if good then 1 else 2)
  ((s.toStage 6).thermalStart).after 450000 .bootComplete

/-- CALIBRATION_LOAD (R101). -/
def execCalibrationLoad (corr : Nat) (s : State) : Result := .next (if s.stage = 5 then s.calibrationLoaded corr else s)

/-- The notice `PWR_WOKE` (R137). -/
def State.woke (s : State) (left : Nat) : State :=
  s.notice 0x0411 0 [(s.regs.get F.PWR_WAKE_CAUSE).toNat, left, (s.regs.get F.PWR_COMMIT_TIME_LO).toNat,
    (s.regs.get F.PWR_COMMIT_TIME_HI).toNat]

/-- Boot complete: the head is at Run, its time is recorded, the watchdog is armed; a climb from Vault ends here, with
`PWR_WOKE`, and a trip enters Poise (R102, R103, R116, R137). `PWR_COMMIT_TIME` is not of the aux domain, so that notice
carries its reset value (Tables 5.2, 5.11; DEDUCED, log entry 126). -/
def State.bootDone (s : State) : State :=
  let s := s.withdraw fun c => c == .bootComplete
  let s := (s.toStage 7).put F.PWR_BOOT_US_US (min 65535 ((s.time - s.boot.bootFrom) / 1500))
  let s := s.modStair fun x => { x with runFrom := s.time }
  let s := if s.boot.fromVault then s.woke 5 else s
  let s := s.modBoot fun b => { b with watchdog := true, fromVault := false }
  if s.on F.THM_STATUS_FORCED ∧ s.entry = 0 then s.startEntry 1 else s

/-- BOOT_COMPLETE (R102). -/
def execBootComplete (s : State) : Result := .next (if s.stage = 6 then s.bootDone else s)

end Sys2Proof.Machine
end

