-- ==== Sys2Proof/Machine/Stair.lean ====
section
/-! DEFINITION. The Stair: entries, commit points, wakes and climbs (05_the_stair.md). -/

namespace Sys2Proof.Machine

/-- Typical power-down phase of a target in ticks (Table 5.7), and typical leave time of a step (Table 5.8). -/
def powerDownTicks : List Nat := [0, 600, 6000, 45000, 480000, 1800000]
def leaveTypical : List Nat := [0, 2700, 31500, 285000, 3300000, 0]

/-- The PARK value that OUTSET frames go back to when no entry parks (R131, Table 13.7). -/
def State.parkBack (s : State) : State :=
  (s.modLink fun k => { k with park := if s.step_ = 2 then 2 else 0 }).modStair fun x => { x with parkCycles := 0 }

/-! ### Wakes -/

/-- Step that a wake climbs to (R124, R127, R136). -/
def State.climbGoal (s : State) (toRun : Bool) : Nat :=
  let w := s.g F.PWR_STEP_CTRL_WAKE_TARGET
  let t := if toRun || decide (s.step_ ≤ w) then 0 else w
  if s.on F.PWR_STEP_STATUS_FORCED then max 1 t else t

/-- A climb begins (R122, R135, R136). -/
def State.startClimb (s : State) (toRun : Bool) : State :=
  let k := s.step_
  let goal := s.climbGoal toRun
  let s := ((s.bump C.PWR_CNT_WAKE).put F.PWR_STEP_STATUS_ENTRY 0).put F.PWR_STEP_STATUS_PHASE 5
  let s := s.modStair fun x => { x with left := k, climbTo := goal }
  if k = 5 then (if s.boot.mainGood then s.vaultExit else s.modBoot fun b => { b with vaultWake := true })
  else if k ≤ goal then s.after 0 .climbComplete
  else if 3 ≤ k then s.after (nth leaveTypical k 0) .lockSequence
  else s.after (nth leaveTypical k 0) .climbComplete

/-- Frames may be set up again from this tick on, a slot passed over earlier on it among them (R131, R174). -/
def State.runBack (s : State) : State := (s.modStair fun x => { x with runFrom := s.time }).regainSlots

/-- The entry in progress is aborted, and the head climbs (R131). -/
def State.abortEntry (s : State) (toRun : Bool) : State :=
  let t := s.entry
  let p := s.phase
  let s := s.withdraw fun c => c == .quiesceEnd || c == .commitPoint || c == .stepReached
  let s := ((s.put F.PWR_STEP_STATUS_ENTRY 0).bump C.PWR_CNT_ABORT).setBit F.PWR_WAKE_CAUSE_ABORT 0
  let s := s.notice 0x0412 0 [t, p, (s.regs.get F.PWR_WAKE_CAUSE).toNat]
  let s := if s.step_ = 0 then s.runBack else s
  (s.parkBack.resumeCycles.dispatchAll.kick).startClimb toRun

/-- The entry in progress has not gone past its commit tick (R131). -/
def State.beforeCommit (s : State) : Bool := s.entry != 0 && (s.phase != 4 || s.stair.commitNow == s.now)

/-- A wake is accepted; `toRun` asks for Run whatever `WAKE_TARGET` holds (R124, R131, R132, R134, R136). -/
def State.wakeUp (s : State) (toRun : Bool) : State :=
  if s.phase = 5 then (if toRun then s.modStair fun x => { x with climbTo := s.climbGoal true } else s)
  else if s.beforeCommit then s.abortEntry toRun
  else if s.phase = 4 then s.modStair fun x => { x with wakeHeld := true, heldRun := x.heldRun || toRun }
  else if s.step_ = 0 then s
  else s.startClimb toRun

/-- The shallow detector runs and a wake counts: Poise, Rest, an entry up to its commit tick, a climb from Poise or Rest
(R134, R136, R139). -/
def State.shallow (s : State) : Bool :=
  s.boot.powered && s.ready &&
    (if s.phase = 5 then decide (s.stair.left ≤ 2) else s.beforeCommit || (s.entry == 0 && (s.step_ == 1 || s.step_ == 2)))

/-- The deep detector runs: past the commit tick of an entry to Hush or deeper, in those steps, and in a climb from them
(Table 5.4, R140). -/
def State.deep (s : State) : Bool :=
  s.boot.powered && s.ready &&
    (if s.phase = 5 then decide (3 ≤ s.stair.left)
     else if s.phase = 4 then decide (3 ≤ s.entry) && decide (s.stair.commitNow < s.now)
     else decide (3 ≤ s.step_))

/-- The step whose wakes count: the one a climb leaves, a power-down reaches, or the present one. -/
def State.deepStep (s : State) : Nat := if s.phase = 5 then s.stair.left else if s.phase = 4 then s.entry else s.step_

/-- A wake unit is at HOLOT B: the shallow detector accepts it where it runs (R133, R139). -/
def State.unitIn (s : State) : State :=
  if s.on F.PWR_WAKE_EN_PHRASE ∧ s.shallow then (s.setBit F.PWR_WAKE_CAUSE_PHRASE 0).wakeUp false else s

/-- WAKE_UNIT_ACCEPTED (R139); the next unit of a sender of phrases is awaited. -/
def execWakeUnitAccepted (s : State) : Result := .next s.unitIn.awaitUnit

/-- A whole phrase has been received whose first unit began at `begun`: the deep detector accepts it where it runs (R140). -/
def State.phraseIn (s : State) (begun : Nat) : State :=
  if begun + 30720 ≤ s.now ∧ s.on F.PWR_WAKE_EN_PHRASE ∧ s.deep ∧ s.stair.commitNow < begun then
    (s.setBit F.PWR_WAKE_CAUSE_PHRASE 0).wakeUp false
  else s

/-- WAKE_PHRASE_ACCEPTED (R140); the next phrase of a sender is awaited. -/
def execWakePhraseAccepted (begun : Nat) (s : State) : Result := .next (s.phraseIn begun).awaitPhrase

/-- HOST_LINK_EXIT: the host leaves L1.2 at Hush or Dormant (R133). -/
def execHostLinkExit (s : State) : Result :=
  .next (if s.on F.PWR_WAKE_EN_HOST_LINK ∧ s.deep ∧ s.deepStep ≤ 4 ∧ s.g F.PCI_LINK_STATE = 4 then
      (s.setBit F.PWR_WAKE_CAUSE_HOST_LINK 0).wakeUp false else s)

/-- TRIG0_WAKE (R133). -/
def execTrig0Wake (s : State) : Result :=
  .next (if s.on F.PWR_WAKE_EN_TRIG0 ∧ s.deep then (s.setBit F.PWR_WAKE_CAUSE_TRIG0 0).wakeUp false else s)

/-! ### Requests -/

/-- A deeper target replaces that of the entry in progress (R126). -/
def State.replaceTarget (s : State) (v : Nat) : State :=
  let s := s.withdraw fun c => c == .commitPoint
  let s := ((s.put F.PWR_STEP_STATUS_ENTRY v).put F.PWR_STEP_STATUS_PHASE 1).modStair fun x => { x with parkCycles := 0 }
  let s := if v < 2 then s.parkBack else s
  s.dispatchAll.pollQuiesce

/-- What an accepted TARGET asks for now (R124, R126). -/
def State.seekStep (s : State) (v : Nat) : State :=
  let wake := (s.setBit F.PWR_WAKE_CAUSE_HOST_WRITE 0).wakeUp (v == 0)
  if s.phase = 4 ∧ (s.step_ < v ∨ s.stair.commitNow ≠ s.now) then s.modStair fun x => { x with late := some v }
  else if s.phase = 5 then (if s.step_ < v then s.modStair fun x => { x with late := some v } else wake)
  else if s.entry ≠ 0 then (if s.step_ < v then (if v = s.entry then s else s.replaceTarget v) else wake)
  else if s.step_ < v then s.startEntry v
  else if s.step_ = 0 then s
  else wake

/-- A host write of TARGET (R124, R125, R208). -/
def State.writeTarget (s : State) (v : Nat) : State :=
  if 6 ≤ v then s.refuse F.PWR_STEP_CTRL 6
  else if 2 ≤ v ∧ s.on F.USH_FLIGHT_ARMED then
    (if v = s.g F.PWR_STEP_CTRL_TARGET then s else s.refuse F.PWR_STEP_CTRL 5)
  else
    let s := s.put F.PWR_STEP_CTRL_TARGET v
    if s.ready ∧ s.boot.powered then s.seekStep v else s

/-- STEP_REQUEST (R124, R126). -/
def execStepRequest (target : Nat) (s : State) : Result := .next (if s.step_ ≤ 2 then s.writeTarget target else s)

/-- HOST_WRITE_WAKE (R124, R133). -/
def execHostWriteWake (target : Nat) (s : State) : Result := .next (if s.step_ ≤ 2 then s.writeTarget target else s)

/-! ### The phases of an entry -/

/-- ASPM L1 enabled in Link Control, and ASPM L1.2 in the L1 PM Substates capability besides (R543; the bit places are the
PCI Express Base Specification's). -/
def State.aspmL1 (s : State) : Bool := bitN (s.pcie.config.get 0x80).toNat 1
def State.aspmL12 (s : State) : Bool := s.aspmL1 && bitN (s.pcie.config.get 0x1E0).toNat 2

/-- The idle link goes to the deepest state that the host allows, L1.2 where `low` (R543, R544). -/
def State.linkSleep (s : State) (low : Bool) : State :=
  let l := s.g F.PCI_LINK_STATE
  if (l = 2 ∨ l = 3) ∧ s.aspmL1 then s.put F.PCI_LINK_STATE (if low ∧ s.aspmL12 then 4 else 3) else s

/-- The pulses of every gallery have ended, and none is to come. -/
def State.pulsesOver (s : State) : Bool := s.stations.all fun x => !x.powered || (x.pulses.isEmpty && x.store.isEmpty)

/-- The conditions of Quiesce that apply to the target hold (Table 5.3). -/
def State.quiet (s : State) : Bool :=
  let v := s.entry
  (s.cams.all fun c => c.frames.isEmpty) && (s.pipes.all fun p => p.frames.isEmpty) &&
    (decide (v < 2) || (s.hall.fire.all (·.isEmpty) && s.pulsesOver)) &&
    (decide (v < 3) || s.usher.slots.all fun x => x.running.isNone) &&
    (v != 4 || s.g F.PCI_LINK_STATE == 4)

/-- The last condition of Quiesce holds: Park where cycles run, else the commit point (R128, R129). -/
def State.quiesceOver (s : State) : State :=
  if 2 ≤ s.entry ∧ s.linkState = 5 ∧ s.link.cycling ∧ !s.link.closing then
    let s := (s.put F.PWR_STEP_STATUS_PHASE 2).modLink fun k => { k with park := s.entry }
    (s.modStair fun x => { x with parkFrom := s.time, parkCycles := 0 }).after 1 .quiesceEnd
  else (s.put F.PWR_STEP_STATUS_PHASE 3).after 0 .commitPoint

/-- QUIESCE_END: the conditions looked at; a link that stops cycling ends the park phase (R128, R378). -/
def State.quiesceLook (s : State) : State :=
  if s.entry = 0 then s
  else if s.phase = 1 then
    let s := if s.entry = 4 ∧ s.g F.PCI_LINK_STATE = 3 then s.linkSleep true else s
    if s.quiet then s.quiesceOver
    else if s.agenda.any fun e => e.2 == .quiesceEnd then s else s.after 1 .quiesceEnd
  else if s.phase = 2 then
    if !s.link.cycling ∧ !s.parkOver then (s.put F.PWR_STEP_STATUS_PHASE 3).after 0 .commitPoint
    else if s.agenda.any fun e => e.2 == .quiesceEnd then s else s.after 1 .quiesceEnd
  else s

/-- QUIESCE_END (R128). -/
def execQuiesceEnd (s : State) : Result := .next s.quiesceLook

/-- The commit tick (R129). -/
def State.commitTick (s : State) : State :=
  let s := s.withdraw fun c => c == .quiesceEnd || c == .commitPoint
  let s := ((s.putPair F.PWR_COMMIT_TIME_LO s.time).put F.PWR_STEP_STATUS_PHASE 4).modStair fun x => { x with commitNow := s.now }
  let s := (s.after 1 .commitPoint).after (nth powerDownTicks s.entry 0) .stepReached
  if 4 ≤ s.entry then s.after 150000 .stepReached else s

/-- A command of an enumeration in progress (R367, R353). -/
def enumEvent : Instr → Bool
  | .lockPhaseEnd | .ringOpen | .probe _ _ | .hop _ _ | .identRequest _ _ _ | .identPhaseEnd | .hlkEnumDone => true
  | _ => false

/-- A setpoint output goes to 0 V in its range in effect; what it was about to do is withdrawn (R428). -/
def State.isetOff (s : State) (j : Nat) : State :=
  let x := s.iset j
  let s := s.withdraw fun c => c == .isetUpdate j || c == .rangeChange j || c == .deadTimeEnd j
  let s := s.setIset j { x with code := 0, deadUntil := none, changeAt := none, wide := x.target, off := true }
  ((s.put (F.ILM_ISET_EFF_CODE j) 0).put (F.ILM_ISET_EFF_DEAD j) 0).put (F.ILM_ISET_EFF_RANGE j) (if x.target then 1 else 0)

/-- After the climb to Poise or Run a setpoint output drives its code at the first CD51 edge, with no dead time (R428). -/
def State.isetBack (s : State) (j : Nat) : State := (s.setIset j { s.iset j with off := false }).isetSoon j

/-- Units stop after the commit tick of an entry to Hush or deeper (R353, R428, R430, R451, R594). -/
def State.unitsStop (s : State) : State :=
  let s := if s.linkState ≠ 0 ∧ s.linkState ≠ 5 then (s.stopCycles true).withdraw enumEvent
    else if s.link.cycling then s.stopCycles true else s
  let s := (List.range 4).foldl State.isetOff s.monsStop
  let t := s.pioStopAll (s.time - 1)
  { t with thermal := { t.thermal with prev := List.replicate 48 none } }

/-- What the power-down does to the link and the units (Table 20.3, R146). -/
def State.afterCommit (s : State) : State :=
  match s.entry with
  | 2 => s.linkSleep false
  | 3 => s.unitsStop.linkSleep true
  | 4 => s.unitsStop.linkSleep true
  | 5 => s.unitsStop.setReg F.PCI_LINK 0
  | _ => s

/-- COMMIT_POINT: the commit tick, and on the tick after it what stops then (R129, R131). -/
def State.commitDue (s : State) : State :=
  if s.entry ≠ 0 ∧ (s.phase = 3 ∨ s.parkOver) then s.commitTick
  else if s.phase = 4 ∧ s.now = s.stair.commitNow + 1 then s.afterCommit
  else s

/-- COMMIT_POINT (R129). -/
def execCommitPoint (s : State) : Result := .next s.commitDue

/-- The PLL stops in a power-down: at Hush the reference goes on counting (R60, R61). -/
def State.pllDown (s : State) : State := if s.newel.phase = .off then s else s.pllStop (s.entry == 3)

/-- What a step loses (Table 5.2). DESIGN CHOICE: after Dormant a byte of Store banks 0 and 1 reads 0, as one that nothing has
written; the spec says only that their contents are lost (log entry 129). -/
def State.stepLoses (s : State) (v : Nat) : State :=
  if v = 4 then (sharedQueues.foldl (fun s q => (s.emptyQueue q).writersLose q) s).storeClear 0 0x3000000
  else if v = 5 then
    { s with agenda := s.agenda.filter fun e => stationEvent e.2 }
  else s

/-- A target kept for the end of a power-down or a climb acts (R124). -/
def State.lateTarget (s : State) : State :=
  match s.stair.late with
  | some t => (s.modStair fun x => { x with late := none }).seekStep t
  | none => s

/-- The step is reached; a wake held for it leaves it at once (R132). -/
def State.arriveStep (s : State) : State :=
  let v := s.entry
  let s := if 3 ≤ v then s.pllDown else s
  let s := ((s.put F.PWR_STEP_STATUS_STEP v).put F.PWR_STEP_STATUS_ENTRY 0).put F.PWR_STEP_STATUS_PHASE 0
  let s := s.stepLoses v
  let x := s.stair
  if x.wakeHeld then (s.modStair fun x => { x with wakeHeld := false, heldRun := false }).startClimb x.heldRun
  else s.lateTarget

/-- STEP_REACHED: the end of the power-down phase; before it, the stop of the PLL (Tables 5.7, 5.12). -/
def State.stepEnd (s : State) : State :=
  if s.phase ≠ 4 then s
  else if s.stair.commitNow + nth powerDownTicks s.entry 0 ≤ s.now then s.arriveStep
  else if 4 ≤ s.entry ∧ s.stair.commitNow + 150000 ≤ s.now then s.pllDown
  else s

/-- STEP_REACHED (R132). -/
def execStepReached (s : State) : Result := .next s.stepEnd

/-! ### The end of a climb -/

/-- Host requests that waited for the link are served in order (R145). -/
def State.serveWaiting (s : State) : State :=
  s.pcie.waiting.foldl (fun s c => s.after 0 c) { s with pcie := { s.pcie with waiting := [] } }

/-- What ran before the step runs again; cycles run at Rest too, with outputs parked (R123, R143, R144, R353, R428, R430, R505,
R594). -/
def State.unitsBack (s : State) (left to_ : Nat) : State :=
  let s := s.modLink fun k => { k with park := if to_ = 2 then 2 else 0 }
  let s := s.resumeCycles
  let s := if to_ ≤ 1 then (List.range 4).foldl State.isetBack s else s
  let s := if 3 ≤ left then (s.monsRestart s.time).ladderNext else s
  if s.g F.PCI_LINK_STATE = 4 ∧ 3 ≤ left then s.put F.PCI_LINK_STATE 2 else s

/-- The Usher and the link go on with what waited (R145, R505). -/
def State.workBack (s : State) : State :=
  let s := s.wakeWaits.dispatchAll
  let s := s.requestsBack.kick
  s.serveWaiting

/-- The climb ends (R137): at its step, with `PWR_WOKE` posted, and what waited goes on. -/
def State.climbed (s : State) : State :=
  let k := s.stair.left
  let goal := min s.stair.climbTo k
  let s := s.withdraw fun c => c == .climbComplete
  let s := (s.put F.PWR_STEP_STATUS_STEP goal).put F.PWR_STEP_STATUS_PHASE 0
  let s := if goal = 0 ∧ k ≠ 0 then s.runBack else s
  let s := (s.unitsBack k goal).woke k
  let s := s.workBack.lateTarget
  if s.on F.PWR_STEP_STATUS_FORCED ∧ s.step_ = 0 ∧ s.entry = 0 then s.startEntry 1 else s

/-- CLIMB_COMPLETE: not before the lock sequence of a climb from Hush or Dormant has ended (R122, R137). -/
def execClimbComplete (s : State) : Result :=
  .next (if s.phase = 5 ∧ s.ticking ∧ s.stair.left ≤ 4 then s.climbed else s)

end Sys2Proof.Machine
end

