-- ==== Sys2Proof/Machine/Pcie.lean ====
section
/-! DEFINITION. The PCI Express endpoint, host accesses to the Store, recovery and the scrubber
(20_pcie_and_notices.md; 21_store_archive_security.md, R539, R560, R577; R470). -/

namespace Sys2Proof.Machine

/-! ### Errors -/

/-- AER status bit of each error of Table 20.4, in the order of the table: the first six are correctable (the bit places
are the PCI Express Base Specification's). -/
def aerBits : List Nat := [0, 6, 7, 8, 12, 13, 4, 12, 13, 14, 16, 17, 18, 20]

/-- A mask with bit `i` set. -/
def withBit (m i : Nat) : Nat := if bitN m i then m else m + 2 ^ i

/-- A detected error is logged and counted; the header log takes the first (R550, R556). -/
def State.pcieError (s : State) (kind : Nat) (hdr : List Nat) : State :=
  let b := nth aerBits kind 0
  if 14 ≤ kind then s
  else if kind < 6 then
    ({ s with pcie := { s.pcie with aerCorr := withBit s.pcie.aerCorr b } } : State).bump C.PCI_CNT_CORR
  else
    let x := s.pcie
    let x := if x.aerFirst.isNone then { x with aerFirst := some b, aerHeader := hdr.take 4 } else x
    let s := ({ s with pcie := { x with aerUncorr := withBit x.aerUncorr b } } : State).bump C.PCI_CNT_UNCORR
    if kind = 9 then s.bump C.PCI_CNT_CPL_TIMEOUT else s

/-- PCIE_ERROR (R550). -/
def execPcieError (kind : Nat) (hdr : List Nat) (s : State) : Result := .next (if s.linkUp then s.pcieError kind hdr else s)

/-- A request answered as unsupported: the error is logged; a non-posted one is completed so (R536). -/
def State.unsupported (s : State) (nonPosted : Bool) : State :=
  let s := s.pcieError 13 []
  if nonPosted then s.send .unsupported else s

/-! ### Host requests -/

/-- The host's requests wait: the link cannot be exited before the head has climbed (R123, R145). -/
def State.asleep (s : State) : Bool :=
  decide (3 ≤ s.step_) || (s.phase == 4 && decide (3 ≤ s.entry)) || (s.phase == 5 && decide (3 ≤ s.stair.left)) || !s.ticking

/-- A host request `c` arrives: nothing while the link is down, kept while the head sleeps, else `f` (R104, R145, R146). -/
def State.request (s : State) (c : Instr) (f : State → State) : State :=
  if !s.linkUp || !s.boot.powered || s.step_ == 5 then s
  else if s.asleep then { s with pcie := { s.pcie with waiting := s.pcie.waiting ++ [c] } }
  else f s.traffic

/-- A memory request inside the BARs is served: Memory Space Enable is 1 and the function is in D0 (R545, R548). -/
def State.memEnabled (s : State) : Bool := bitN (s.pcie.config.get 4).toNat 1 && !s.pcie.d3hot

/-- UNSUPPORTED_REQUEST (R536). -/
def execUnsupportedRequest (nonPosted : Bool) (s : State) : Result :=
  .next (s.request (.unsupportedRequest nonPosted) fun s => s.unsupported nonPosted)

/-- Bytes of `bs`, written at `a`, that fall into banks 1 and 2: their address and themselves (R539). -/
def bar2Part (a : Nat) (bs : List Byte) : Nat × List Byte :=
  (max a 0x1800000, (bs.drop (0x1800000 - a)).take (0x4800000 - max a 0x1800000))

/-- A BAR 2 write (R539). -/
def State.bar2Put (s : State) (a : Nat) (bs : List Byte) : State :=
  if !s.ready then s
  else if !s.memEnabled then s.unsupported false
  else
    let (b, l) := bar2Part a bs
    if l.isEmpty then s else s.storeWrite b l

/-- BAR2_WRITE (R539). -/
def execBar2Write (addr : Nat) (data : List Byte) (s : State) : Result :=
  .next (s.request (.bar2Write addr data) fun s => s.bar2Put addr data)

/-- What the check logic meets in the first word that a read touches (R560). -/
def State.storeMeets (s : State) (a : Nat) (chk : HallCheck) : State :=
  let w := a / 8 * 8
  match chk with
  | .single => if s.storeBad.contains w then s else s.storeCorrected w
  | .double => if s.storeBad.contains w then s else { s with storeBad := w :: s.storeBad }
  | _ => s

/-- Bytes of the Store at `a`; reserved addresses read as zero (R88, R539). -/
def State.storeBytes (s : State) (a n : Nat) : List Byte :=
  (List.range n).map fun i => if a + i < storeSize then s.store.get (a + i) else 0

/-- A BAR 2 read, completed with the data as read (R539, R560). -/
def State.bar2Get (s : State) (a n : Nat) (chk : HallCheck) : State :=
  if !s.ready then s
  else if !s.memEnabled then s.unsupported true
  else
    let s := if a < storeSize then s.storeMeets a chk else s
    let (_, s) := s.storeReadCheck a (min n (storeSize - a))
    s.send (.readDone (s.storeBytes a n))

/-- BAR2_READ (R539). -/
def execBar2Read (addr len : Nat) (chk : HallCheck) (s : State) : Result :=
  .next (s.request (.bar2Read addr len chk) fun s => s.bar2Get addr len chk)

/-! ### Vectors, bus mastering, power states -/

/-- A pending vector sends its message when it and the function are unmasked (R542). -/
def State.flushVectors (s : State) : State := (List.range 32).foldl State.flushVector s

/-- A configuration word set. -/
def State.setConfig (s : State) (off : Nat) (w : Word) : State :=
  { s with pcie := { s.pcie with config := s.pcie.config.set off w } }

/-- Bit `i` of a configuration word written. -/
def State.configBit (s : State) (off i : Nat) (b : Bool) : State :=
  s.setConfig off (withBits (s.pcie.config.get off) i i (if b then 1 else 0))

/-- A vector, or the function, is unmasked (R542). -/
def State.unmask (s : State) (v : Option Nat) : State :=
  match v with
  | some v => (s.modVector v fun x => { x with masked := false }).flushVector v
  | none => (s.configBit 0x50 30 false).flushVectors

/-- VECTOR_UNMASK (R542). -/
def execVectorUnmask (v : Option Nat) (s : State) : Result := .next (s.unmask v)

/-- Bus Master Enable written; set again, each waiting request is issued (R115, R548). -/
def State.setMaster (s : State) (en : Bool) : State :=
  let was := s.busMaster
  let s := (s.configBit 4 2 en).hostReturns
  if en && !was then s.requestsBack else s.requestsGone

/-- BUS_MASTER_ENABLE (R548). -/
def execBusMasterEnable (en : Bool) (s : State) : Result := .next (s.setMaster en)

/-- The power state changes: D3hot stops requests, the return to D0 lets them go on (R545). -/
def State.setD3 (s : State) (on : Bool) : State :=
  let was := s.pcie.d3hot
  let s : State := { s with pcie := { s.pcie with d3hot := on } }
  if was && !on then s.requestsBack else s.requestsGone

/-- D3HOT (R545). -/
def execD3hot (on : Bool) (s : State) : Result := .next (s.setD3 on)

/-! ### Configuration space -/

/-- Bits of each configuration word that are fixed or that the state gives (Table 20.2; layouts of capabilities are the PCI
Express Base Specification's). -/
def State.configFixed (s : State) (off : Nat) : Nat :=
  let speed := s.g F.PCI_LINK_SPEED
  let width := s.g F.PCI_LINK_WIDTH
  match off with
  | 0x00 => 0x61441F6E
  | 0x04 => 0x00100000
  | 0x08 => 0x04800000 + Config.siliconRevision % 256
  | 0x10 => 0x4
  | 0x18 => 0xC
  | 0x2C => (0x6140 + s.g F.STP_CONFIG_BOARD) * 0x10000 + 0x1F6E
  | 0x34 => 0x40
  | 0x40 => 0x00035001
  | 0x44 => 0x8 + (if s.pcie.d3hot then 3 else 0)
  | 0x50 => 0x001F7011
  | 0x54 => 0x000FE000
  | 0x58 => 0x000FF000
  | 0x70 => 0x00020010
  | 0x74 => 0x00008622
  | 0x7C => 0x00010800 + s.g F.STP_CONFIG_GEN_CAP + 16 * 2 ^ s.g F.STP_CONFIG_LANES
  | 0x80 => (speed + 16 * width) * 0x10000
  | 0x94 => 0x00000813
  | 0x100 => 0x14820001
  | 0x104 => s.pcie.aerUncorr
  | 0x110 => s.pcie.aerCorr
  | 0x118 => s.pcie.aerFirst.getD 0
  | 0x11C => nth s.pcie.aerHeader 0 0
  | 0x120 => nth s.pcie.aerHeader 1 0
  | 0x124 => nth s.pcie.aerHeader 2 0
  | 0x128 => nth s.pcie.aerHeader 3 0
  | 0x148 => 0x15810003
  | 0x14C => Config.dieSerial % 2 ^ 32
  | 0x150 => Config.dieSerial / 2 ^ 32 % 2 ^ 32
  | 0x158 => 0x17810019
  | 0x178 => 0x1A010026
  | 0x1A0 => 0x1D010027
  | 0x1D0 => 0x1D810018
  | 0x1D8 => 0x0001001E
  | 0x1DC => 0x00291E14
  | _ => 0

/-- Bits of each configuration word that the host sets. -/
def configMask (off : Nat) : Nat :=
  match off with
  | 0x04 => 0x00000546
  | 0x10 => 0xFFF00000
  | 0x14 => 0xFFFFFFFF
  | 0x18 => 0xF8000000
  | 0x1C => 0xFFFFFFFF
  | 0x3C => 0x000000FF
  | 0x50 => 0xC0000000
  | 0x78 => 0x00007FFF
  | 0x80 => 0x000001EF
  | 0x98 => 0x0000041F
  | 0xA0 => 0x0000001F
  | 0x108 => 0x00177010
  | 0x10C => 0x00177010
  | 0x114 => 0x000031C1
  | 0x1D4 => 0x1FFF1FFF
  | 0x1E0 => 0xE3FF0004
  | 0x1E4 => 0x000000FB
  | _ => 0

/-- A configuration word as read. -/
def State.configRead (s : State) (off : Nat) : Nat :=
  s.configFixed off ||| ((s.pcie.config.get off).toNat &&& configMask off)

/-- A configuration word written: its host bits, its write-one-to-clear status, and what the write brings about (R537,
R542, R545, R548, R550). -/
def State.configWrite (s : State) (off v : Nat) : State :=
  let old := (s.pcie.config.get off).toNat
  let w := BitVec.ofNat 32 (v &&& configMask off)
  match off with
  | 0x04 => (s.setConfig 4 (withBits w 2 2 (old / 4))).setMaster (bitN v 2)
  | 0x44 => if v % 4 = 3 then s.setD3 true else if v % 4 = 0 then s.setD3 false else s
  | 0x50 => (s.setConfig off w).flushVectors
  | 0x104 =>
    let left := s.pcie.aerUncorr - (s.pcie.aerUncorr &&& v)
    let gone := s.pcie.aerFirst.any fun b => !bitN left b
    { s with pcie := { s.pcie with aerUncorr := left, aerFirst := if gone then none else s.pcie.aerFirst } }
  | 0x110 => { s with pcie := { s.pcie with aerCorr := s.pcie.aerCorr - (s.pcie.aerCorr &&& v) } }
  | _ => if configMask off = 0 then s else s.setConfig off w

/-- A configuration request: retried before boot complete or boot-hold, answered after (R104). -/
def State.configured (s : State) (write : Bool) (off data : Nat) : State :=
  let a := off % 4096 / 4 * 4
  if !s.ready then s.send .cfgRetry
  else if write then (s.configWrite a (data % 2 ^ 32)).send (.cfgDone 0)
  else s.send (.cfgDone (s.configRead a))

/-- CONFIG_REQUEST (R104). -/
def execConfigRequest (write : Bool) (off data : Nat) (s : State) : Result :=
  .next (s.request (.configRequest write off data) fun s => s.configured write off data)

/-! ### The link -/

/-- The PCIe core has left reset (R104). -/
def State.coreOut (s : State) : Bool := s.boot.powered && !s.boot.perst && s.ticking

/-- The link has finished training at a speed and width that STRAP0 allows; below them it is degraded (R551). A link that
went down trains again while the core is out of reset. -/
def State.linkTrained (s : State) (speed width : Nat) : State :=
  let cap := s.g F.STP_CONFIG_GEN_CAP
  let lanes := 2 ^ s.g F.STP_CONFIG_LANES
  let l := s.g F.PCI_LINK_STATE
  if (l = 1 ∨ l = 5 ∨ (l = 0 ∧ s.coreOut)) ∧ 1 ≤ speed ∧ speed ≤ cap ∧ [1, 2, 4].contains width ∧ width ≤ lanes then
    let s := (((s.put F.PCI_LINK_SPEED speed).put F.PCI_LINK_WIDTH width).put F.PCI_LINK_STATE 2).traffic
    let s := if speed < cap ∨ width < lanes then s.sticky F.PCI_FLAGS_DEGRADED 0 0x0310 0 [speed, width] else s
    if l = 5 then s else s.requestsBack
  else s

/-- LINK_TRAINED (R551). -/
def execLinkTrained (speed width : Nat) (s : State) : Result := .next (s.linkTrained speed width)

/-- LINK_RECOVERY (R556). -/
def execLinkRecovery (s : State) : Result :=
  .next (if s.g F.PCI_LINK_STATE = 2 then (s.put F.PCI_LINK_STATE 5).bump C.PCI_CNT_RECOVERY else s)

/-- L1_REQUEST: 8 µs idle at Run, Poise or Rest (R543); for an entry to Dormant, down to L1.2 (R544). -/
def State.idleLink (s : State) : State :=
  if s.step_ ≤ 2 ∧ s.g F.PCI_LINK_STATE = 2 then
    if s.now < s.pcie.lastTraffic + 12000 then
      (if s.agenda.any fun e => e.2 == .l1Request then s else s.after (s.pcie.lastTraffic + 12000 - s.now) .l1Request)
    else s.linkSleep (s.entry == 4)
  else s

/-- L1_REQUEST (R543). -/
def execL1Request (s : State) : Result := .next s.idleLink

/-! ### Recovery in boot-hold -/

/-- Why a recovery write of block `b` is turned away: 3 no such block, 1 locked (R577). -/
def State.recoveryBar (s : State) (b : Nat) : Option Nat := if 49151 < b then some 3 else if s.arcLocked b then some 1 else none

/-- The recovery ends with FAIL and a reason (R577). -/
def State.recoveryFails (s : State) (r : Nat) : State :=
  ((s.put F.ARC_RCV_STATUS_BUSY 0).setBit F.ARC_RCV_STATUS_FAIL 0).put F.ARC_RCV_STATUS_REASON r

/-- The block is unchanged: it is skipped as R526 states. -/
def State.recoverySame (s : State) (b : Nat) : Bool := s.recoveryBytes == s.block b && !s.archiveBad.contains b

/-- GO in boot-hold: the block in the buffer begins to be written (R526, R577). -/
def State.recoveryGo (s : State) : State :=
  let b := s.g F.ARC_RCV_CTRL_BLOCK
  if s.stage ≠ 8 ∨ s.on F.ARC_RCV_STATUS_BUSY then s
  else match s.recoveryBar b with
    | some r => s.recoveryFails r
    | none =>
      let s := if s.recoverySame b then s else s.wearUp b
      ((s.modJob 7 fun j => { j with count := b }).put F.ARC_RCV_STATUS_BUSY 1).after 60000 (.recoveryDone true)

/-- RECOVERY_WRITE (R577). -/
def execRecoveryWrite (s : State) : Result := .next s.recoveryGo

/-- The write and verify end: the block holds the buffer, or four attempts have failed (R526, R577). -/
def State.recoveryEnd (s : State) (ok : Bool) : State :=
  let b := (s.slot 7).job.count
  let s := s.withdraw fun c => match c with
    | .recoveryDone _ => true
    | _ => false
  let same := s.recoverySame b
  if ok || same then
    let s := if same then s else s.blockIs b s.recoveryBytes
    (s.put F.ARC_RCV_STATUS_BUSY 0).setBit F.ARC_RCV_STATUS_DONE 0
  else
    let s := ((s.wearUp b).wearUp b).wearUp b
    let (bs, s) := s.freeBytes 256
    (s.blockIs b bs).recoveryFails 2

/-- RECOVERY_DONE (R577). -/
def execRecoveryDone (ok : Bool) (s : State) : Result :=
  .next (if s.stage = 8 ∧ s.on F.ARC_RCV_STATUS_BUSY then s.recoveryEnd ok else s)

/-! ### The scrubber -/

/-- Packet `i` of a list marked as holding a double-bit error. -/
def markBad (l : List Packet) (i : Nat) : List Packet := modNth l i fun p => { p with bad := true }

/-- The scrubber reads a word of packet `i` of SECDED queue `q`, counted through closed packets and then open ones, or of
command `i` of a fire queue (R466 to R470). -/
def State.scrubHall (s : State) (q i : Nat) (chk : HallCheck) : State :=
  let x := s.queue q
  let n := if q < 8 then (s.fireQueue q).length else x.closed.length + x.opens.length
  let secded := decide (q < 8) || s.g (F.HAL_Q_CTRL_PROT q) == 1
  if !secded then s
  else match chk with
    | .ok => s
    | .pointer => s.resetQueue q
    | .freeList => s.freeListFails (decide (q < 8))
    | .single => if n ≤ i then s else s.hallCorrected q
    | .double =>
      if n ≤ i then s
      else if q < 8 then
        { s with hall := { s.hall with fire := modNth s.hall.fire q fun l => modNth l i fun c => { c with bad := true } } }
      else if i < x.closed.length then s.setQueue q { x with closed := markBad x.closed i }
      else s.setQueue q { x with opens := modNth x.opens (i - x.closed.length) fun o => { o with bad := true } }

/-- The scrubber reads the word of bank 2 or 3 at `a` (R560). -/
def State.scrubStore (s : State) (a : Nat) (chk : HallCheck) : State :=
  let w := a / 8 * 8
  if w < 0x3000000 ∨ storeSize ≤ w then s
  else (s.storeMeets w chk).storeReadCheck w 8 |>.2

/-- SCRUB: one word of Hall queue `place`, or of the Store for 64, on an edge of CD58 (R57, R470, R560). -/
def execScrub (place at_ : Nat) (chk : HallCheck) (s : State) : Result :=
  .next (if s.step_ ≤ 2 ∧ s.rises 58 then (if place < 64 then s.scrubHall place at_ chk else s.scrubStore at_ chk) else s)

end Sys2Proof.Machine
end

