-- ==== Sys2Proof/Machine/Planner.lean ====
section
/-! DEFINITION. The ejection planner: intake, judgement, flight, jets, fire commands and their queues
(12_ejection_planner.md, R319 to R342, R623). -/

namespace Sys2Proof.Machine

/-- One planning record handed to the planner: its frame may now be complete (R500). -/
def State.handed (s : State) (r : Rec) : State :=
  (s.modFrame r.pipe r.start fun f => { f with planning := f.planning - 1 }).settle r.pipe

/-- A decision enters the intake, or is lost at a full one (R319, R320). -/
def State.takeDecision (s : State) (d : Decision) : State :=
  let s := match d.lead with | some r => s.handed r | none => s
  let s := match d.partner with | some r => s.handed r | none => s
  let q := s.planner.intake
  if 4096 ≤ q.length then
    let s := s.bump C.EJP_CNT_DEC_OVF
    s.sticky F.EJP_FLAGS_DEC_OVF 0 0x8C10 0 [s.ctr C.EJP_CNT_DEC_OVF]
  else
    let own := s.time + 3000 + 32 * q.length
    let t := match q.getLast? with | some e => max own (e.2 + 32) | none => own
    ({ s with planner := { s.planner with intake := q ++ [(d, t)] } } : State).at_ t .planDecision

/-- Decisions handed over 1,500 ticks after their decision tick, in the order of R316. -/
def State.handDecisions (s : State) : State :=
  let (due, rest) := s.planner.handing.partition fun d => decide (d.at_ + 1500 ≤ s.time)
  let s := { s with planner := { s.planner with handing := rest } }
  (due.foldl (fun l d => insertDecision d l) []).foldl (fun s d => s.takeDecision d) s

/-- DECISION_HANDOFF (R316). -/
def execDecisionHandoff (s : State) : Result := .next s.handDecisions

/-- The records of a decision. -/
def Decision.recs (d : Decision) : List Rec := d.lead.toList ++ d.partner.toList

/-- The pipeline whose copy of the planner's Frame fields a decision uses (R321). -/
def Decision.copy (d : Decision) : Nat :=
  match d.lead, d.partner with
  | some r, _ => r.pipe
  | none, some r => r.pipe
  | none, none => 0

/-- A planner field as it applies to a decision (R321). -/
def Decision.g (d : Decision) (f : Fld) : Nat := d.eff.plan d.copy f

/-- The reference record, and whether it is the partner (R322). -/
def Decision.reference (d : Decision) : Option (Rec × Bool) :=
  match d.lead, d.partner with
  | some l, some q => if l.valid then some (l, false) else if q.valid then some (q, true) else some (l, false)
  | some l, none => some (l, false)
  | none, some q => some (q, true)
  | none, none => none

/-- Reference time (R322). -/
def Decision.refTime (d : Decision) (r : Rec × Bool) : Int := if r.2 then r.1.tv + joinDT d.eff d.join else r.1.tv

/-- VX of the reference record, negated for a partner under MIRROR (R314, R322). -/
def Decision.refVx (d : Decision) (r : Rec × Bool) : Int :=
  if r.2 && d.eff.g (F.CLS_JOIN_MIRROR d.join) == 1 then -r.1.vx else r.1.vx

/-- Column span (R323). -/
def Decision.span (d : Decision) : Int × Int :=
  match d.lead, d.partner with
  | some l, some q =>
    let m := mapCols d.eff d.join q
    (min (l.colFirst : Int) m.1, max (l.colLast : Int) m.2)
  | some l, none => (l.colFirst, l.colLast)
  | none, some q => mapCols d.eff d.join q
  | none, none => (0, -1)

/-- An outcome of the judgement: accept, reject on doubt, reject by group `g` (R324). -/
inductive Verdict where
  | accept
  | doubt
  | group (g : Nat)
  deriving DecidableEq, Repr

/-- The value rule `i` compares for one record (R325). -/
def ruleValue (src : Nat) (r : Rec) : Nat :=
  if src < 4 then min 65535 (nth r.tallies src 0) else if src = 4 then min 65535 r.area else 0

/-- Rule `i` is true of a decision (R325). -/
def Decision.ruleTrue (d : Decision) (i : Nat) : Bool :=
  let vs := d.recs.map (ruleValue (d.g (F.EJP_RULE_SRC i)))
  let v := if d.g (F.EJP_RULE_COMB i) = 0 then vs.foldl max 0 else vs.foldl (· + ·) 0
  let th := d.g (F.EJP_RULE_THRESH i)
  let mask := d.g (F.EJP_RULE_MASK_CLASSES i)
  (if d.g (F.EJP_RULE_CMP i) = 0 then decide (th ≤ v) else decide (v < th)) &&
  (mask == 0 || d.recs.any fun r => (List.range 16).any fun k => bitN mask k && bitN r.classes k)

/-- Group `g` rejects (R325). -/
def Decision.groupRejects (d : Decision) (g : Nat) : Bool :=
  let rules := (List.range 16).filter fun i => d.g (F.EJP_RULE_EN i) == 1 && d.g (F.EJP_RULE_GROUP i) == g
  !rules.isEmpty && rules.all d.ruleTrue

/-- The judgement (R324). -/
def Decision.judge (d : Decision) : Verdict :=
  let spill := d.recs.any (·.overflow)
  let ovf := d.g F.EJP_CTRL_OVF
  if spill ∧ ovf = 1 then .doubt
  else if spill ∧ ovf = 2 then .accept
  else if d.disp = 3 then .doubt
  else if d.disp = 1 ∧ d.g F.EJP_CTRL_SINGLE = 1 then .doubt
  else if (d.recs.map fun r => min 65535 r.area).foldl max 0 < d.g F.EJP_CTRL_AREA_MIN then .accept
  else match (List.range 8).find? d.groupRejects with
    | some g => .group g
    | none => .accept

/-- Flight in ticks for jet row `r` by the ballistic model (R326). -/
def Decision.flight (d : Decision) (x : Rec × Bool) (r : Nat) : Int :=
  let grav : Int := d.g F.EJP_GRAVITY_MM_S2
  let dist : Int := d.g (F.EJP_ROW_DIST_UM r)
  let drag : Int := d.g F.EJP_DRAG_PPM_M
  let vq := x.1.vy + rdiv (4 * grav * (d.refTime x - x.1.tmB)) 1500000000
  let vn := 1000000 * rdiv vq 4
  let s := vn * vn + 2 * (1000000 * grav) * (1000 * dist)
  let q : Int := isqrt s.toNat
  let t := rdiv (100 * (q - vn)) grav
  15 * (t + rdiv (t * drag * dist) 1000000000000)

/-- Enabled jet rows (R329). -/
def Decision.rows (d : Decision) : List Nat := (List.range 4).filter fun r => d.g (F.EJP_ROW_DIST_EN r) == 1

/-- Row `r` names head jet `j` (R329). -/
def Decision.names (d : Decision) (r j : Nat) : Bool :=
  let a := d.g (F.EJP_ROW_MAP_B_FIRST_JET r)
  decide (a ≤ j) && decide (j < a + d.g (F.EJP_ROW_MAP_B_NJETS r)) && decide (j ≤ 255)

/-- Head jets that row `r` owns and the span selects, ascending (R329). -/
def Decision.jets (d : Decision) (r : Nat) (lo hi : Int) : List Nat :=
  (List.range 256).filter fun j =>
    d.names r j && !((d.rows.filter (· < r)).any fun q => d.names q j) &&
    (let cols : Int := d.g (F.EJP_ROW_MAP_A_COLS r)
     let a : Int := (d.g (F.EJP_ROW_MAP_A_FIRST_COL r) : Int) + ((j - d.g (F.EJP_ROW_MAP_B_FIRST_JET r) : Nat) : Int) * cols
     decide ((d.g (F.EJP_ROW_MAP_B_MIN_OVL r) : Int) ≤ shared (a, a + cols - 1) (lo, hi)))

/-- E of a jet (R333). -/
def State.jetEnd (s : State) (j : Nat) : Option Nat := (s.planner.jetEnd.find? fun e => e.1 == j).map (·.2)

/-- E of a jet set (R333). -/
def State.setJetEnd (s : State) (j e : Nat) : State :=
  { s with planner := { s.planner with jetEnd := (s.planner.jetEnd.filter fun x => x.1 != j) ++ [(j, e)] } }

/-- The interval limit in effect (R84, R333). -/
def State.gapLimit (s : State) : Nat := max (s.g F.STP_CEIL_GAP_TICKS) (s.g F.EJP_GAP_MIN_TICKS)

/-- The pulse limit in effect (R84, R331). -/
def State.pulseLimit (s : State) : Nat := min (s.g F.STP_CEIL_PULSE_TICKS) (s.g F.EJP_PULSE_MAX_TICKS)

/-- Jets of one gallery that stay in a command with tick `f` and duration `dur` (R333, R334). -/
def State.admitJets (s : State) (f dur : Nat) : List Nat → State × List Nat
  | [] => (s, [])
  | j :: l =>
    if !bitN (s.g (F.EJP_JET_EN_MASK (j / 32))) (j % 32) then s.admitJets f dur l
    else if (s.jetEnd j).any fun e => decide (f < e + s.gapLimit) then
      (s.bump (C.EJP_CNT_GAP (j / 32))).admitJets f dur l
    else
      let (s, r) := (s.setJetEnd j (f + dur)).admitJets f dur l
      (s, j :: r)

/-- The mask of channels that head jets of one gallery name (R31). -/
def jetMask (l : List Nat) : Nat := (l.map fun j => 2 ^ (j % 32)).foldl (· + ·) 0

/-- A formed command put in its fire queue, or counted under the first of R339, R338 and R337 that applies (R623). -/
def State.queueFire (s : State) (g : Nat) (c : FireCmd) : State :=
  if !s.enumerated g then s.noGallery g
  else if s.lateNow c.fire then s.late_ g c.fire
  else if 128 ≤ (s.fireQueue g).length then
    let s := s.bump (C.EJP_CNT_FQ_FULL g)
    s.sticky F.EJP_FLAGS_QFULL g 0x8C11 g [s.ctr (C.EJP_CNT_FQ_FULL g)]
  else
    let seq := nth s.planner.seq g 0
    let s := (s.setFire g (s.fireQueue g ++ [{ c with seq := seq, entered := s.time }])).bump (C.HAL_CNT_PKTS g)
    let s := { s with planner := { s.planner with seq := modNth s.planner.seq g fun n => (n + 1) % 65536 } }
    (s.bump (C.EJP_CNT_CMD g)).after 180 (.fireDelivery g)

/-- The commands of one jet row, gallery by gallery (R333 to R335). -/
def State.fireRow (s : State) (f dur : Nat) (fb doubt : Bool) (jets : List Nat) : State :=
  overIdx (fun g s =>
    let (s, l) := s.admitJets f dur (jets.filter fun j => j / 32 == g)
    if l.isEmpty then s else s.queueFire g ⟨jetMask l, f, 0, dur, g, fb, doubt, 0, false, false⟩) 8 s

/-- A reject planned (R326 to R335). -/
def State.planReject (s : State) (d : Decision) (x : Rec × Bool) (v : Verdict) : State :=
  let fb := !x.1.valid
  let s := if fb then s.bump C.EJP_CNT_FALLBACK else s
  let s := s.bump C.EJP_CNT_REJECT
  let (s, raw, doubt) := match v with
    | .group g => (s, d.g (F.EJP_DUR_BASE g) + d.g (F.EJP_DUR_ROW_PER_ROW g) * (x.1.rowLast + 1 - x.1.rowFirst), false)
    | _ => (s.bump C.EJP_CNT_DOUBT, d.g F.EJP_DUR_DOUBT_TICKS, true)
  let dur := min raw s.pulseLimit
  let s := if dur < raw then s.bump C.EJP_CNT_CLIP else s
  let tr := d.refTime x
  let pitch := x.1.eff.g (F.CLS_PITCH_NM x.1.pipe)
  let plan := d.rows.map fun r =>
    let fl : Int := if fb then d.g (F.EJP_ROW_FALLBACK_TICKS r) else d.flight x r
    let drift := if fb then 0 else rdiv (d.refVx x * fl) (6000 * pitch)
    let f := tr + fl - d.g (F.EJP_ROW_LEAD_TICKS r) - (dur / 2 : Nat)
    (f.toNat, d.jets r (d.span.1 + drift) (d.span.2 + drift))
  let s := if plan.all fun y => y.2.isEmpty then s.bump C.EJP_CNT_UNPLANNED else s
  plan.foldl (fun s y => s.fireRow y.1 dur fb doubt y.2) s

/-- Decisions whose completion tick has come are judged and planned, in intake order (R319, R324). -/
def State.planDue (s : State) : Nat → State
  | 0 => s
  | n + 1 => match s.planner.intake with
    | [] => s
    | (d, t) :: l =>
      if s.time < t then s else
      let s := { s with planner := { s.planner with intake := l } }
      let s := match d.reference, d.judge with
        | some _, .accept => s
        | some x, v => s.planReject d x v
        | none, _ => s
      s.planDue n

/-- A write that may disable jets is still to be made on this tick. -/
def State.disableDue (s : State) : Bool :=
  let isWrite := fun (i : Instr) => match i with
    | .jetDisable _ _ => true
    | .registerWrite _ _ _ => true
    | _ => false
  s.pending.any isWrite || s.agenda.any fun e => decide (e.1 ≤ s.now) && isWrite e.2

/-- Decisions that complete on this tick are planned once the writes of the tick have acted: a command formed on the tick of
a disable excludes the jet (R342). -/
def State.planNow (s : State) : State :=
  if s.disableDue then s.after 0 .planDecision else s.planDue s.planner.intake.length

/-- PLAN_DECISION (R319). -/
def execPlanDecision (s : State) : Result := .next s.planNow

/-- The jets of `mask` cleared in every command of HQg; a command left empty is removed (R342). -/
def State.sweepFires (s : State) (g mask : Nat) : State :=
  let q := s.fireQueue g
  let off := fun (c : FireCmd) => (List.range 32).filter fun n => bitN mask n && bitN c.jets n
  let n := (q.map fun c => (off c).length).foldl (· + ·) 0
  if n = 0 then s else
  let q := (q.map fun c => { c with jets := c.jets - ((off c).map (2 ^ ·)).foldl (· + ·) 0 }).filter fun c => c.jets != 0
  (s.setFire g q).bumpBy (C.EJP_CNT_DISABLED g) n

/-- `EJP_JET_EN[g]` written: cleared bits leave every command in HQg (R342). The new enable goes out as an output
setting. -/
def State.jetEnable (s : State) (g mask : Nat) : State :=
  let old := s.g (F.EJP_JET_EN_MASK g)
  let cleared := ((List.range 32).map fun n => if bitN old n && !bitN mask n then 2 ^ n else 0).foldl (· + ·) 0
  (s.put (F.EJP_JET_EN_MASK g) mask).sweepFires g cleared

/-- JET_DISABLE (R342). -/
def execJetDisable (g mask : Nat) (s : State) : Result := .next (s.jetEnable (g % 8) mask)

end Sys2Proof.Machine
end

