-- ==== Sys2Proof/Machine/Host.lean ====
section
/-! DEFINITION. BAR 0 as the host writes it and the debug port reads it (00_scope.md, R18 to R28; 03_straps_and_balustrade.md,
R81 to R91; 23_address_map.md, R597 to R600; R208, R576). -/

namespace Sys2Proof.Machine

/-! ### Finding a register -/

/-- Indices whose strides add up to `r` (R598): counts and strides, the widest first. -/
def indices : List (Nat × Nat) → Nat → Option (List Nat)
  | [], r => if r = 0 then some [] else none
  | (n, st) :: ds, r => if r / st < n then (indices ds (r % st)).map fun l => r / st :: l else none

/-- The indices at which a row's register lies at `off`. -/
def RegRow.find (r : RegRow) (off : Nat) : Option (List Nat) := if off < r.base then none else indices r.dims (off - r.base)

/-- The register at a multiple of 4, with its indices (R597, R598). -/
def regAt (off : Nat) : Option (RegRow × List Nat) := (windowRows off).findSome? fun r => (r.find off).map fun i => (r, i)

/-- The recovery registers (R577, R600). -/
def recoveryOffset (off : Nat) : Bool :=
  off == F.ARC_RCV_CTRL || off == F.ARC_RCV_STATUS || (decide (F.ARC_RCV_BUF 0 ≤ off) && decide (off ≤ F.ARC_RCV_BUF 63))

/-- Offsets that answer: in boot-hold those of R600, else all but the recovery registers. -/
def State.answers (s : State) (off : Nat) : Bool :=
  if s.stage = 8 then decide (off < 0xC000) || recoveryOffset off else !recoveryOffset off

/-- The MSI-X table and pending bits (Table 23.1). -/
def msixTable (off : Nat) : Bool := decide (0xFE000 ≤ off) && decide (off < 0xFE200)
def msixPba (off : Nat) : Bool := decide (0xFF000 ≤ off) && decide (off < 0xFF008)

/-- A multiple of 4 that names something (R87, R597, R600). -/
def State.named (s : State) (off : Nat) : Bool := s.answers off && ((regAt off).isSome || msixTable off || msixPba off)

/-! ### Judging a write -/

/-- The owner of a stopped-only field runs: register `r` at indices `i`, bottom bit `lo` (R208). -/
def State.ownerRuns (s : State) (r : Reg) (i : List Nat) (lo : Nat) : Bool :=
  let a := nth i 0 0
  match r with
  | .ARR_CAM_CTRL | .ARR_START_TIME_LO | .ARR_START_TIME_HI | .ARR_STROBE_MAP | .ARR_CAM_BAND => s.camRuns a
  | .ARR_BLACK => s.camRuns (s.g F.ARR_BLACK_OWNER)
  | .XPT_FMT => s.xstate a == 4
  | .PIP_SRC | .PIP_TAP_CTRL => s.pipeRuns a
  | .MON_CFG => s.on (F.MON_CTRL_EN a)
  | .MON_STREAM => (List.range 8).any fun m => s.on (F.MON_CTRL_STREAM m)
  | .ILM_STROBE_CTRL => s.on (F.ILM_STROBE_CTRL_EN a)
  | .PIO_PIN_CFG => (s.eng (s.g (F.PIO_PIN_CFG_OWNER a))).running
  | .PIO_CLKDIV | .PIO_EXEC | .PIO_PINS | .PIO_QCFG => (s.eng a).running
  | .PIO_PROG =>
    let x := s.eng a
    x.running && (if x.starting then s.g (F.PIO_EXEC_BANK a) else x.bank) == nth i 1 0
  | .HAL_Q_CTRL => s.on (F.HAL_Q_CTRL_EN a)
  | .USH_SQ_BASE_LO | .USH_SQ_BASE_HI | .USH_SQ_CTRL => s.on (F.USH_SQ_CTRL_EN a)
  | .USH_CQ_BASE_LO | .USH_CQ_BASE_HI | .USH_CQ_CTRL => s.on (F.USH_CQ_CTRL_EN a)
  | .USH_NQ_BASE_LO | .USH_NQ_BASE_HI | .USH_NQ_CTRL => s.on (F.USH_NQ_CTRL_EN a)
  | _ => lo == 32

/-- Values of a tap's field that Table 10.5 ignores for its tap (R624). -/
def tapFieldBad (t lo v : Nat) : Bool :=
  if t = 3 then false
  else if lo = 4 then (if t = 0 then decide (1 < v) else decide (2 < v))
  else if lo = 8 then t == 0 && v == 0
  else if lo = 13 then t != 0 && decide (2 < v)
  else false

/-- A value outside a field's range, or in an encoding its table ignores (R87). -/
def State.valueBad (s : State) (r : Reg) (i : List Nat) (f : FieldRow) (v : Nat) : Bool :=
  let inside := f.ok.isEmpty || f.ok.any fun x => decide (x.1 ≤ v) && decide (v ≤ x.2)
  !inside || (match r with
    | .PIP_SRC => v != 0 && (s.boundTo v).any (· != nth i 0 0)
    | .PIP_TAP_CTRL => tapFieldBad (nth i 1 0) f.lo v
    | .XPT_FMT => f.lo == 0 && v % 4 != 0
    | _ => false)

/-- A write above the ceiling of a bounded register (R81, R82, R190, R416). -/
def State.aboveCeiling (s : State) (r : Reg) (i : List Nat) (v : Nat) : Bool :=
  match r with
  | .ARR_POWER_BUDGET => decide (v % 128 < 30) || decide (s.g F.STP_CEIL_A_ARR_PCT < v % 128)
  | .ILM_SETPOINT_CEIL => decide (4095 * s.g F.STP_CEIL_A_ILM_PCT / 100 < v % 4096)
  | .ILM_RANGE_PERMIT => (List.range 4).any fun j => bitN v j && !bitN (s.g F.STP_CONFIG_ISET10V) j
  | .ILM_ISET_CTRL => bitN v 0 && !bitN (s.g F.ILM_RANGE_PERMIT_MASK) (nth i 0 0)
  | .THM_TRIP => decide (s.g F.STP_CEIL_A_TRIP_C < v % 256)
  | .EJP_PULSE_MAX => decide (s.g F.STP_CEIL_PULSE_TICKS < v % 2 ^ 26)
  | .EJP_GAP_MIN => decide (v % 2 ^ 26 < s.g F.STP_CEIL_GAP_TICKS)
  | _ => false

/-- A write that its chapter ignores whole: watermarks not in order, ladder steps not in order (R471, Table 22.5). -/
def State.wholeBad (s : State) (r : Reg) (v : Nat) : Bool :=
  match r with
  | .HAL_Q_WM => decide (v / 2 ^ 16 % 2 ^ 14 ≤ v % 2 ^ 14)
  | .THM_LADDER =>
    let up := v % 256
    let up := if 5 ≤ up ∧ up ≤ 40 then up else s.g F.THM_LADDER_STEP_UP
    decide (v / 256 % 256 ≤ up)
  | _ => false

/-- A field governed by a strap lock is locked (R575). -/
def State.fieldLocked (s : State) (f : FieldRow) : Bool := decide (f.mark = .k) && (s.lockFw || s.lockAll)

/-- Field value `f` of the written word `v`. -/
def FieldRow.of_ (f : FieldRow) (v : Nat) : Nat := v / 2 ^ f.lo % 2 ^ (f.hi + 1 - f.lo)

/-- Why a write of `v` does nothing to field `f` of the register at `off` (R87, R91, R208): 3 locked, 5 stopped-only, 6
value; none where it acts. -/
def State.fieldRefused (s : State) (r : Reg) (i : List Nat) (off v : Nat) (f : FieldRow) : Option Nat :=
  let new := f.of_ v
  let held := if f.acc = .wo then 0 else bitsOf (s.regs.get off) f.hi f.lo
  if s.fieldLocked f then some 3
  else if f.acc ≠ .rw ∧ f.acc ≠ .wo then none
  else if f.lands = .stopped then
    (if new = held then none else if s.ownerRuns r i f.lo then some 5 else if s.valueBad r i f new then some 6 else none)
  else if r = .PWR_STEP_CTRL ∧ f.lo = 0 ∧ 2 ≤ new ∧ new ≠ held ∧ s.on F.USH_FLIGHT_ARMED then
    (if 6 ≤ new then some 6 else some 5)
  else if r = .HAL_Q_CTRL ∧ f.lo = 0 then (if s.queueEnableOk (nth i 0 0) (new == 1) then none else some 5)
  else if s.valueBad r i f new then some 6
  else none

/-! ### What a write does -/

/-- Field `f` of the register at `off` written with word `v` (Table 0.4, R27, R28). W1S and WO act in `State.acted`. -/
def State.writeField (s : State) (off v : Nat) (f : FieldRow) : State :=
  let fld : Fld := ⟨off, f.hi, f.lo⟩
  match f.acc with
  | .rw => s.put fld (f.of_ v)
  | .w1c =>
    let old := s.regs.get off
    let mask := BitVec.ofNat 32 (f.of_ v * 2 ^ f.lo) &&& ~~~(s.lately.marks.get off)
    (s.setReg off (old &&& ~~~mask)).noteClear off (old &&& mask).toNat
  | .cnt => if f.of_ v = 0 then s.put fld (bitsOf (s.lately.counts.get off) f.hi f.lo) else s
  | _ => s

/-- `XPT_CTRL[x]` written (R216, R218, R219, R235): EN, then TRAIN, then RUN. -/
def State.xptWrite (s : State) (x v : Nat) : State :=
  if !bitN v 0 then s.portOff x
  else
    let s := s.portOn x
    let s := if bitN v 1 then s.train x else s
    if !bitN v 2 then s.stopPort x else if s.on (F.XPT_CTRL_RUN x) then s else s.runPort x

/-- `PWR_RESET` written: nothing without its key; FULL goes before HOST (R110). -/
def State.resetWrite (s : State) (v : Nat) : State :=
  if v / 2 ^ 16 % 2 ^ 16 ≠ resetKey then s
  else if bitN v 1 then s.softFull
  else if bitN v 0 then s.softHost
  else s

/-- Registers whose chapter gives the whole write its own rule: what the write does; none for the others. -/
def State.ownWrite (s : State) (r : Reg) (i : List Nat) (v : Nat) : Option State :=
  let a := nth i 0 0
  match r with
  | .CLS_JOIN => some (s.joinConfig a v)
  | .HAL_Q_SIZE => some (s.queueSize a v)
  | .HAL_Q_CTRL => if a < 8 then some s else none
  | .HAL_FLOW_MAP => some (s.flowMap a v)
  | .HLK_GREG_CTRL => some (s.writeGreg v)
  | .XPT_CTRL => some (s.xptWrite a v)
  | .PWR_RESET => some (s.resetWrite v)
  | .STP_SOFT_LOCK => some (s.softLock (v % 8))
  | .USH_DOORBELL => some (s.doorbell a (v % 2 ^ 17))
  | .USH_CQ_HEAD => some (s.writeHead a (v % 2 ^ 17))
  | .USH_NQ_HEAD => some (s.writeHead (8 + a) (v % 2 ^ 17))
  | .EJP_JET_EN => some (s.jetEnable a (v % 2 ^ 32))
  | .ILM_ISET_CODE => some (s.writeIset a (v % 2 ^ 12))
  | .PIO_CMP => if (s.eng a).copied = some s.now then some s else none
  | _ => none

/-- `NWL_CTRL` written: COMMIT, SNAP (R54, R63). -/
def State.newelWrite (s : State) (v : Nat) : State :=
  let s := if bitN v 0 ∧ s.ticking then s.commit else s
  if bitN v 1 then s.snap else s

/-- The link's EN and ENUM written (R367, R378). -/
def State.linkWrite (s : State) (v : Nat) : State :=
  if !bitN v 0 then s.disable
  else if s.linkState = 0 then s.enumerate
  else if bitN v 1 ∧ !s.link.closing then s.enumerate
  else s

/-- Whether the two bands overlap (R171). -/
def State.bandsOverlap (s : State) : Bool :=
  let f := fun c => s.g (F.ARR_CAM_BAND_FIRST_PAIR c)
  let l := fun c => s.g (F.ARR_CAM_BAND_LAST_PAIR c)
  decide (f 0 ≤ l 0) && decide (f 1 ≤ l 1) && decide (max (f 0) (f 1) ≤ min (l 0) (l 1))

/-- A submission ring's control written: EN, RESUME, then what a new priority lets be taken (R482, R490, R491). -/
def State.ringWrite (s : State) (i v : Nat) : State :=
  let s := if bitN v 0 = s.on (F.USH_SQ_CTRL_EN i) then s else if bitN v 0 then s.enableRing i else s.disableRing i
  if bitN v 16 then s.resumeRing i else s

/-- Sensors of `THM_BAD` readmitted: bits of `m` from sensor `n` on (R583). -/
def State.readmitMask (s : State) (n m : Nat) : State :=
  (overIdx (fun k s => if bitN m k then s.readmit (n + k) else s) 32 s).zonesUpdate

/-- What an accepted write brings about beyond its fields: `old` the register before, `v` the word written, `no` the
bottom bits of fields refused. -/
def State.acted (s : State) (r : Reg) (i : List Nat) (old v : Nat) (no : List Nat) : State :=
  let a := nth i 0 0
  match r with
  | .NWL_CTRL => s.newelWrite v
  | .PWR_STEP_CTRL =>
    let t := v % 8
    if no.contains 0 || (decide (2 ≤ t) && s.on F.USH_FLIGHT_ARMED) then s
    else if s.ready ∧ s.boot.powered then s.seekStep t else s
  | .ARR_CAM_CTRL => if bitN v 0 then s.startCamera a else s.stopCamera a
  | .ARR_CAM_BAND => s.put F.ARR_FLAGS_BAND_OVERLAP (if s.bandsOverlap then 1 else 0)
  | .ARR_SW_TRIG => s.softTrigger (v % 4)
  | .HLK_CTRL => s.linkWrite v
  | .MON_CTRL => s.monEnable a (bitN v 0)
  | .ILM_STROBE_CTRL => (s.strobeEn a (bitN v 0)).followStrobe a
  | .ILM_STROBE_MAXHIGH => s.armMaxHigh a
  | .MON_STREAM => s.closeBlocks
  | .ILM_ISET_CTRL => ((s.setIset a { s.iset a with written := true }).isetSoon a).isetRangeSoon a
  | .ILM_SETPOINT_CEIL => s.isetSoon a
  | .ILM_RANGE_PERMIT => (List.range 4).foldl State.isetRangeSoon s
  | .PIO_START => overIdx (fun e s => if bitN v e then s.pioStart e else s) 16 s
  | .PIO_STOP => overIdx (fun e s => if bitN v e then s.pioStopOne e else s) 16 s
  | .PIO_RXPOP => overIdx (fun e s => if bitN v e then s.pioPop e else s) 16 s
  | .PIO_SHFLAG_SET => s.writeFlags (edgeAfter 2 s.time) true (v % 2 ^ 32)
  | .PIO_SHFLAG_CLR => s.writeFlags (edgeAfter 2 s.time) false (v % 2 ^ 32)
  | .PIO_QCFG => (if bitN v 3 && !no.contains 3 then s.pioClear a else s).pioQueues a
  | .PIO_TXD => s.pioPush a (v % 2 ^ 32)
  | .HAL_Q_WM => s.watermark a
  | .USH_SQ_CTRL => (s.ringWrite a v).kick
  | .USH_CQ_CTRL => s.hostReturns.writeCompletions
  | .USH_NQ_CTRL => if bitN v 0 && !bitN old 0 then s.enableNotices a else s
  | .USH_EVENT_ADD => s.arrive (edgeAfter 4 s.time) a (v % 2 ^ 32)
  | .USH_ABORT => s.abortMask (v % 2 ^ 12)
  | .USH_CQ_IRQ => s.moderated
  | .USH_NQ_IRQ => s.moderated
  | .ENG_PORTER_RATE => s.porterPaced a (old % 2 ^ 16)
  | .ARC_ROLLBACK_RAISE => if no.isEmpty then s.rollbackRaise (v % 2 ^ 32) else s
  | .ARC_RCV_CTRL => if bitN v 31 then s.recoveryGo else s
  | .THM_BAD_LO => s.readmitMask 0 ((BitVec.ofNat 32 old) &&& BitVec.ofNat 32 v).toNat
  | .THM_BAD_HI => s.readmitMask 32 ((BitVec.ofNat 32 old) &&& BitVec.ofNat 32 v).toNat
  | .THM_TRIP => s.zonesUpdate
  | .THM_GAL_LIMIT => s.zonesUpdate
  | .THM_LADDER => if s.thermal.running && old / 2 ^ 16 != (s.regs.get F.THM_LADDER).toNat / 2 ^ 16 then s.ladderNext else s
  | _ => s

/-- Bits of a written word that count: JOIN of an odd PIO engine is reserved (R443), and so is LINK of W0 (R169, Table 6.11);
EN of a submission ring is left to `State.ringWrite`. -/
def plainFields (r : Reg) (i : List Nat) (l : List FieldRow) : List FieldRow :=
  match r with
  | .PIO_QCFG => if nth i 0 0 % 2 = 1 then l.filter (·.lo ≠ 0) else l
  | .ARR_CAM_CTRL => if nth i 0 0 = 0 then l.filter (·.lo ≠ 3) else l
  | .USH_SQ_CTRL => l.filter (·.lo ≠ 0)
  | _ => l

/-- Whether a row's value before a write of this tick may still be asked for: it has landing fields (R24), or it is a
shadow of a divisor (R55), or a strobe's control (R412). -/
def RegRow.lands (r : RegRow) : Bool :=
  r.reg == .NWL_DIV_XCLK || r.reg == .NWL_DIV_MON || r.reg == .ILM_STROBE_CTRL ||
    r.fields.any fun f => decide (f.lands = .frame) || decide (f.lands = .cycle)

/-- The least of the reasons for which fields were refused (R91). -/
def leastReason : List (Nat × Nat) → Option Nat
  | [] => none
  | x :: l => match leastReason l with
    | none => some x.2
    | some m => some (min x.2 m)

/-- A 4-byte write of a register (R18, R87 to R91). -/
def State.writeReg (s : State) (r : RegRow) (i : List Nat) (off v : Nat) : State :=
  match s.ownWrite r.reg i v with
  | some s => s
  | none =>
    if s.aboveCeiling r.reg i v then s.refuse off 4
    else if s.wholeBad r.reg v then s.refuse off 6
    else
      let fields := plainFields r.reg i r.fields
      let bad := fields.filterMap fun f => (s.fieldRefused r.reg i off v f).map fun n => (f.lo, n)
      let no := bad.map (·.1)
      let old := (s.regs.get off).toNat
      let s := if r.lands then s.noteLate off else s
      let s := fields.foldl (fun s f => if no.contains f.lo then s else s.writeField off v f) s
      let s := s.acted r.reg i old v no
      match leastReason bad with
      | some n => s.refuse off n
      | none => s

/-- Word `w` of MSI-X table entry `v` written: address, data, Vector Control (R542). -/
def State.msixWrite (s : State) (v w data : Nat) : State :=
  match w with
  | 0 => s.modVector v fun x => { x with addr := x.addr / 2 ^ 32 * 2 ^ 32 + data / 4 * 4 }
  | 1 => s.modVector v fun x => { x with addr := x.addr % 2 ^ 32 + data * 2 ^ 32 }
  | 2 => s.modVector v fun x => { x with data := data }
  | _ => (s.modVector v fun x => { x with masked := bitN data 0 }).flushVector v

/-- A 4-byte write at a multiple of 4 in BAR 0 (R87, R597). -/
def State.writeWord (s : State) (off v : Nat) : State :=
  if !s.answers off then s.refuse off 1
  else match regAt off with
    | some (r, i) => s.writeReg r i off v
    | none =>
      if msixTable off then s.msixWrite ((off - 0xFE000) / 16) (off / 4 % 4) v
      else if msixPba off then s
      else s.refuse off 1

/-- A BAR 0 write of `size` bytes: 4 or 8, naturally aligned; 8 bytes are two writes, the lower first (R20, R88, R91). DESIGN
CHOICE: a write of another size or alignment that spans a register and a reserved address is judged by the aligned word it
begins in, reason 2 where that word is a register and reason 1 where it is reserved; the spec does not say (log entry
130). -/
def State.bar0Write (s : State) (off size data : Nat) : State :=
  let a := off % 0x100000
  if size = 4 ∧ a % 4 = 0 then s.writeWord a (data % 2 ^ 32)
  else if size = 8 ∧ a % 8 = 0 then (s.writeWord a (data % 2 ^ 32)).writeWord (a + 4) (data / 2 ^ 32 % 2 ^ 32)
  else if s.named (a / 4 * 4) then s.refuse a 2
  else s.refuse a 1

/-- REGISTER_WRITE: the host writes BAR 0 (R18, R87, R104, R145, R548). -/
def execRegisterWrite (off size data : Nat) (s : State) : Result :=
  .next (s.request (.registerWrite off size data) fun s =>
    if !s.ready then s else if !s.memEnabled then s.unsupported false else s.bar0Write off size data)

/-! ### What a read returns -/

/-- `NWL_STATUS.LOCK_PHASE` (Table 2.10). -/
def LockPhase.code : LockPhase → Nat
  | .off => 0
  | .settle => 1
  | .band => 2
  | .lockCount => 3
  | .locked => 4
  | .holdover => 5
  | .reacq => 6

/-- A mask with bit `k` set for each of `n` engines that satisfies `p`. -/
def maskOf (n : Nat) (p : Nat → Bool) : Nat := overIdx (fun k m => if p k then m + 2 ^ k else m) n 0

/-- `USH_SQ_STATUS.STATE` of ring `i` (Table 18.8): 0 off, 1 idle, 2 active, 3 waiting, 4 blocked, 5 halted. -/
def State.sqState (s : State) (i : Nat) : Nat :=
  let r := s.ring i
  if !s.on (F.USH_SQ_CTRL_EN i) then 0
  else if bitN (s.g F.USH_FLAGS_HALTED) i then 5
  else if r.wait.isSome then 3
  else if ringSub r.tail (s.sqHead i) ≠ 0 then (if 2 ≤ s.headState i then 4 else 2)
  else if r.outstanding ≠ 0 then 2 else 1

/-- `ENG_PROGRESS[u].DONE` (Table 19.8): what a piece of work under way has come to, else `raw`. -/
def State.progress (s : State) (u raw : Nat) : Nat :=
  match (s.slot u).running with
  | none => raw
  | some t =>
    let j := (s.slot u).job
    let e := s.time - j.began
    if u < 4 ∧ t.op ≠ 0x12 ∧ (j.phase = 1 ∨ j.phase = 4) then
      let (n, part) := s.rectMoved u t (s.rectRate u t)
      n * t.rect.width + part
    else if u = 6 ∧ j.phase = 2 then min (j.reduced) ((12 * j.reduced - (j.due - s.now)) / 12)
    else if u = 7 ∧ j.phase = 3 then min (t.w 5) (e / 1500)
    else raw

/-- RX of engine `e` as it stands now (R444). -/
def State.rxNow (s : State) (e : Nat) : List (Nat × Nat) := ((s.settlePops e).eng e).rx

/-- The value of the field at bottom bit `lo` of register `r`, where the unit behind it gives it; else `raw`. -/
def State.shown (s : State) (r : Reg) (i : List Nat) (lo raw : Nat) : Nat :=
  let a := nth i 0 0
  match r with
  | .NWL_STATUS => if lo = 24 then s.newel.phase.code else raw
  | .NWL_TIME_LO => s.time % 2 ^ 32
  | .NWL_TIME_HI => s.time / 2 ^ 32 % 2 ^ 32
  | .ARR_CAM_STATUS => if lo = 0 then (if s.camRuns a then 1 else 0) else raw
  | .EJP_FQ_LEVEL => (s.fireQueue a).length
  | .PIO_PIN_IN => s.pinMask (Config.freeNat s.freeCount % 2 ^ 24)
  | .PIO_SHFLAG_SET => s.pio.flags
  | .PIO_SHFLAG_CLR => s.pio.flags
  | .PIO_QSTAT =>
    if lo = 0 then ((s.eng a).tx.filter fun x => decide (x.1 ≤ s.time)).length else (s.rxNow a).length
  | .PIO_RXD => match s.rxNow a with
    | x :: _ => x.1
    | [] => 0
  | .PIO_RXT => match s.rxNow a with
    | x :: _ => x.2
    | [] => 0
  | .PIO_DBG => if lo = 0 then (s.eng a).pc else raw
  | .PIO_DBG_SR => (s.eng a).sr
  | .HAL_Q_STAT =>
    if lo = 0 then s.level a
    else if lo = 16 then s.packets a
    else if lo = 30 then (if (s.queue a).opens.isEmpty then 0 else 1)
    else if nth s.hall.above a false then 1 else 0
  | .HAL_Q_AVAIL => s.avail a
  | .HAL_POOL => if lo = 0 then s.freeCells else s.sharedSpace
  | .USH_SQ_STATUS => if lo = 20 then s.sqState a else raw
  | .USH_NQ_STATUS => if lo = 20 then (nth s.notices a NoticeRing.idle).held.length else raw
  | .USH_ENG_STATUS =>
    if lo = 0 then maskOf 12 fun u => (s.slot u).running.isSome else maskOf 12 fun u => (s.slot u).deck.isSome
  | .ENG_PROGRESS => s.progress a raw
  | .PCI_LINK => if lo = 16 then (if s.busMaster then 1 else 0) else raw
  | .ARC_STATUS => if lo = 1 then (if s.lockFw then 1 else 0) else if lo = 2 then (if s.lockAll then 1 else 0) else raw
  | .ARC_DIE_SERIAL_LO => Config.dieSerial % 2 ^ 32
  | .ARC_DIE_SERIAL_HI => Config.dieSerial / 2 ^ 32 % 2 ^ 32
  | .ARC_WEAR => s.wearOf (s.g F.ARC_WEAR_SEL_BLOCK)
  | _ => raw

/-- The value of field `f` as read: WO and locked fields read zero (Tables 0.4, 0.6). -/
def State.readField (s : State) (r : Reg) (i : List Nat) (off : Nat) (f : FieldRow) : Nat :=
  if f.acc = .wo ∨ s.fieldLocked f then 0
  else s.shown r i f.lo (bitsOf (s.regs.get off) f.hi f.lo) % 2 ^ (f.hi + 1 - f.lo) * 2 ^ f.lo

/-- Word `w` of MSI-X entry `v`, and half `h` of the pending bits (R542). -/
def State.msixRead (s : State) (v w : Nat) : Nat :=
  let x := s.vector v
  match w with
  | 0 => x.addr % 2 ^ 32
  | 1 => x.addr / 2 ^ 32 % 2 ^ 32
  | 2 => x.data
  | _ => if x.masked then 1 else 0

/-- The 32 bits at a multiple of 4 in BAR 0, as read (R19, R22, R87). -/
def State.readReg (s : State) (off : Nat) : Nat :=
  if !s.answers off then 0
  else match regAt off with
    | some (r, i) => r.fields.foldl (fun n f => n + s.readField r.reg i off f) 0
    | none =>
      if msixTable off then s.msixRead ((off - 0xFE000) / 16) (off / 4 % 4)
      else if off = 0xFF000 then maskOf 32 fun v => (s.vector v).pending
      else 0

/-- One byte of BAR 0 as read (R19, R20). -/
def State.readByte (s : State) (a : Nat) : Byte := BitVec.ofNat 8 (s.readReg (a / 4 * 4) / 2 ^ (8 * (a % 4)))

/-- A read of `n` bytes of BAR 0 at `a`, of any size and alignment: the addressed bytes, all as they stand on one tick, so that
an aligned read of 8 bytes gives both halves of a 64-bit register together (R20, R21). -/
def State.barRead (s : State) (a n : Nat) : List Byte := (List.range n).map fun i => s.readByte ((a + i) % 0x100000)

/-! ### The debug port -/

/-- The mode of the debug port: 0 Full, 1 Observe, 2 Locked; before the straps are latched it is Locked (R576). -/
def State.debugMode (s : State) : Nat :=
  if s.on F.STP_SOFT_LOCK_DBG ∨ !s.boot.latched then 2 else s.g F.STP_CONFIG_DBG_MODE

/-- Offsets by which a register write would write the Archive or the rollback counter (R576). -/
def debugKeepsOff (off : Nat) : Bool := off == F.ARC_ROLLBACK_RAISE || recoveryOffset off

/-- One Usher cycle in a halt (R576). -/
def State.debugStep (s : State) : State :=
  if s.usher.halted then
    let t := cycleAt (s.time + 1)
    ({ s with usher := { s.usher with stepAt := some t } } : State).kickAt t
  else s

/-- An access of the debug port; one that the mode permits drives DBG_TDO (R576, Table 4.2). -/
def State.debug (s : State) (op : DebugOp) : State :=
  let m := s.debugMode
  let refused := s.send .debugRefused
  let t := s.modBoot fun b => { b with tdo := true }
  match op with
  | .ident => t.send (.debug Config.debugIdent)
  | .readReg off =>
    if 2 ≤ m then refused
    else { t.send (.debug (s.readReg (off / 4 * 4))) with freeCount := s.freeCount + 1 }
  | .readStore a n => if 2 ≤ m then refused else t.send (.readDone (s.storeBytes a n))
  | .writeReg off data => if m ≠ 0 then refused else if debugKeepsOff off then t else t.bar0Write off 4 data
  | .writeStore a bs => if m ≠ 0 then refused else t.storeWrite a (bs.take (storeSize - a))
  | .halt => if m ≠ 0 then refused else { t with usher := { t.usher with halted := true, stepAt := none } }
  | .step => if m ≠ 0 then refused else t.debugStep

/-- DEBUG_ACCESS (R576). -/
def execDebugAccess (op : DebugOp) (s : State) : Result := .next (if s.boot.powered ∧ s.ticking then s.debug op else s)

end Sys2Proof.Machine
end

