-- ==== Sys2Proof/Machine/Dispatch.lean ====
section
/-! DEFINITION. One arm per command: the meaning it has, or its rejection by name. -/

namespace Sys2Proof.Machine

/-- The effect of a command on everything but the queue. -/
def exec (i : Instr) (s : State) : Host.Outcome State Fault Refusal :=
  match i with
  | .registerWrite off size data => Sys2Proof.Machine.execRegisterWrite off size data s
  | .configRequest write off data => Sys2Proof.Machine.execConfigRequest write off data s
  | .unsupportedRequest nonPosted => Sys2Proof.Machine.execUnsupportedRequest nonPosted s
  | .bar2Write addr data => Sys2Proof.Machine.execBar2Write addr data s
  | .bar2Read addr len chk => Sys2Proof.Machine.execBar2Read addr len chk s
  | .lockSequence => Sys2Proof.Machine.execLockSequence s
  | .bandSearch => Sys2Proof.Machine.execBandSearch s
  | .lockDeclared => Sys2Proof.Machine.execLockDeclared s
  | .lockRestart => Sys2Proof.Machine.execLockRestart s
  | .refLost => Sys2Proof.Machine.execRefLost s
  | .reacquisition inRange => Sys2Proof.Machine.execReacquisition inRange s
  | .nwlReacquired => Sys2Proof.Machine.execNwlReacquired s
  | .commit => Sys2Proof.Machine.execCommit s
  | .commitEpoch => Sys2Proof.Machine.execCommitEpoch s
  | .snap => Sys2Proof.Machine.execSnap s
  | .pinEdge pin rising => Sys2Proof.Machine.execPinEdge pin rising s
  | .strapDecodeValid ohms => Sys2Proof.Machine.execStrapDecodeValid ohms s
  | .strapLatch ohms => Sys2Proof.Machine.execStrapLatch ohms s
  | .softLock bits => Sys2Proof.Machine.execSoftLock bits s
  | .bootStart => Sys2Proof.Machine.execBootStart s
  | .supplyLoss main => Sys2Proof.Machine.execSupplyLoss main s
  | .storeTraining ok => Sys2Proof.Machine.execStoreTraining ok s
  | .firmwareCheck sig corr => Sys2Proof.Machine.execFirmwareCheck sig corr s
  | .calibrationLoad corr => Sys2Proof.Machine.execCalibrationLoad corr s
  | .bootComplete => Sys2Proof.Machine.execBootComplete s
  | .perstAssert => Sys2Proof.Machine.execPerstAssert s
  | .perstDeassert => Sys2Proof.Machine.execPerstDeassert s
  | .linkTrained speed width => Sys2Proof.Machine.execLinkTrained speed width s
  | .resetFull key => Sys2Proof.Machine.execResetFull key s
  | .resetHost key => Sys2Proof.Machine.execResetHost key s
  | .hotReset => Sys2Proof.Machine.execHotReset s
  | .linkDown => Sys2Proof.Machine.execLinkDown s
  | .watchdogExpiry => Sys2Proof.Machine.execWatchdogExpiry s
  | .galleryPowerOn g ohms rev => Sys2Proof.Machine.execGalleryPowerOn g ohms rev s
  | .stepRequest target => Sys2Proof.Machine.execStepRequest target s
  | .hostWriteWake target => Sys2Proof.Machine.execHostWriteWake target s
  | .quiesceEnd => Sys2Proof.Machine.execQuiesceEnd s
  | .commitPoint => Sys2Proof.Machine.execCommitPoint s
  | .stepReached => Sys2Proof.Machine.execStepReached s
  | .wakeUnitAccepted => Sys2Proof.Machine.execWakeUnitAccepted s
  | .wakePhraseAccepted begun => Sys2Proof.Machine.execWakePhraseAccepted begun s
  | .hostLinkExit => Sys2Proof.Machine.execHostLinkExit s
  | .trig0Wake => Sys2Proof.Machine.execTrig0Wake s
  | .climbComplete => Sys2Proof.Machine.execClimbComplete s
  | .wakePhraseEnd g => Sys2Proof.Machine.execWakePhraseEnd g s
  | .cameraStart c => Sys2Proof.Machine.execCameraStart c s
  | .cameraStop c => Sys2Proof.Machine.execCameraStop c s
  | .setupTick c => Sys2Proof.Machine.execSetupTick c s
  | .frameStart c => Sys2Proof.Machine.execFrameStart c s
  | .nodeReset c n => Sys2Proof.Machine.execNodeReset c n s
  | .exposureStart c n => Sys2Proof.Machine.execExposureStart c n s
  | .exposureEnd c n => Sys2Proof.Machine.execExposureEnd c n s
  | .softwareTrigger mask => Sys2Proof.Machine.execSoftwareTrigger mask s
  | .readoutStart c n img => Sys2Proof.Machine.execReadoutStart c n img s
  | .rowPairComplete c n => Sys2Proof.Machine.execRowPairComplete c n s
  | .portEnable x => Sys2Proof.Machine.execPortEnable x s
  | .portDisable x => Sys2Proof.Machine.execPortDisable x s
  | .train x => Sys2Proof.Machine.execTrain x s
  | .trainingEnd x seen => Sys2Proof.Machine.execTrainingEnd x seen s
  | .portRun x => Sys2Proof.Machine.execPortRun x s
  | .portStop x => Sys2Proof.Machine.execPortStop x s
  | .portFrameStart x => Sys2Proof.Machine.execPortFrameStart x s
  | .lineEnd x first words fall => Sys2Proof.Machine.execLineEnd x first words fall s
  | .lineRelease x => Sys2Proof.Machine.execLineRelease x s
  | .portFrameClose x => Sys2Proof.Machine.execPortFrameClose x s
  | .frameWindowExpiry x => Sys2Proof.Machine.execFrameWindowExpiry x s
  | .eyeWarning x => Sys2Proof.Machine.execEyeWarning x s
  | .recordIssue p => Sys2Proof.Machine.execRecordIssue p s
  | .recordComplete p => Sys2Proof.Machine.execRecordComplete p s
  | .joinUnderrun j => Sys2Proof.Machine.execJoinUnderrun j s
  | .joinConfigWrite j data => Sys2Proof.Machine.execJoinConfigWrite j data s
  | .decisionHandoff => Sys2Proof.Machine.execDecisionHandoff s
  | .planDecision => Sys2Proof.Machine.execPlanDecision s
  | .jetDisable g mask => Sys2Proof.Machine.execJetDisable g mask s
  | .enumeration => Sys2Proof.Machine.execEnumeration s
  | .enum => Sys2Proof.Machine.execEnum s
  | .linkDisable => Sys2Proof.Machine.execLinkDisable s
  | .lockPhaseEnd => Sys2Proof.Machine.execLockPhaseEnd s
  | .ringOpen => Sys2Proof.Machine.execRingOpen s
  | .probe hop echo => Sys2Proof.Machine.execProbe hop echo s
  | .hop n rx => Sys2Proof.Machine.execHop n rx s
  | .identRequest g pos rx => Sys2Proof.Machine.execIdentRequest g pos rx s
  | .identPhaseEnd => Sys2Proof.Machine.execIdentPhaseEnd s
  | .setup g rx => Sys2Proof.Machine.execSetup g rx s
  | .hlkEnumDone => Sys2Proof.Machine.execHlkEnumDone s
  | .holotCycleStart => Sys2Proof.Machine.execHolotCycleStart s
  | .stationMarker g rx slip => Sys2Proof.Machine.execStationMarker g rx slip s
  | .stationLatch g => Sys2Proof.Machine.execStationLatch g s
  | .readFrame g rx => Sys2Proof.Machine.execReadFrame g rx s
  | .slotMissed g => Sys2Proof.Machine.execSlotMissed g s
  | .fireDelivery g => Sys2Proof.Machine.execFireDelivery g s
  | .fireSend g => Sys2Proof.Machine.execFireSend g s
  | .outsetSend g => Sys2Proof.Machine.execOutsetSend g s
  | .registerFrameSend => Sys2Proof.Machine.execRegisterFrameSend s
  | .echoReturn rx => Sys2Proof.Machine.execEchoReturn rx s
  | .markerReturn delay => Sys2Proof.Machine.execMarkerReturn delay s
  | .markerMissing rx => Sys2Proof.Machine.execMarkerMissing rx s
  | .greg data => Sys2Proof.Machine.execGreg data s
  | .gregTimeout => Sys2Proof.Machine.execGregTimeout s
  | .fireAccept g rx => Sys2Proof.Machine.execFireAccept g rx s
  | .outsetAccept g rx => Sys2Proof.Machine.execOutsetAccept g rx s
  | .regwAccept g rx => Sys2Proof.Machine.execRegwAccept g rx s
  | .regrAccept g rx => Sys2Proof.Machine.execRegrAccept g rx s
  | .stationParkMissed g => Sys2Proof.Machine.execStationParkMissed g s
  | .alignmentLoss g rx => Sys2Proof.Machine.execAlignmentLoss g rx s
  | .fireTick g => Sys2Proof.Machine.execFireTick g s
  | .peakEnd g ch mA => Sys2Proof.Machine.execPeakEnd g ch mA s
  | .pulseEnd g ch mA => Sys2Proof.Machine.execPulseEnd g ch mA s
  | .bankOutOfRange g b volts => Sys2Proof.Machine.execBankOutOfRange g b volts s
  | .bankInRange g b volts => Sys2Proof.Machine.execBankInRange g b volts s
  | .overcurrent g ch => Sys2Proof.Machine.execOvercurrent g ch s
  | .forcedOn g ch => Sys2Proof.Machine.execForcedOn g ch s
  | .crossFed g ch others => Sys2Proof.Machine.execCrossFed g ch others s
  | .driverHot g ch => Sys2Proof.Machine.execDriverHot g ch s
  | .cutCoil g short => Sys2Proof.Machine.execCutCoil g short s
  | .inputEdge g n level => Sys2Proof.Machine.execInputEdge g n level s
  | .strobeEnable k en => Sys2Proof.Machine.execStrobeEnable k en s
  | .strobeWindowOpen k => Sys2Proof.Machine.execStrobeWindowOpen k s
  | .strobeWindowClose k => Sys2Proof.Machine.execStrobeWindowClose k s
  | .strobeMaxhigh k => Sys2Proof.Machine.execStrobeMaxhigh k s
  | .isetCode j code => Sys2Proof.Machine.execIsetCode j code s
  | .isetUpdate j => Sys2Proof.Machine.execIsetUpdate j s
  | .rangeChange j => Sys2Proof.Machine.execRangeChange j s
  | .deadTimeEnd j => Sys2Proof.Machine.execDeadTimeEnd j s
  | .monEnable m => Sys2Proof.Machine.execMonEnable m s
  | .monSample m bits => Sys2Proof.Machine.execMonSample m bits s
  | .monBlockClose => Sys2Proof.Machine.execMonBlockClose s
  | .pioStart mask => Sys2Proof.Machine.execPioStart mask s
  | .pioStop mask => Sys2Proof.Machine.execPioStop mask s
  | .goto e => Sys2Proof.Machine.execGoto e s
  | .count e => Sys2Proof.Machine.execCount e s
  | .brif e => Sys2Proof.Machine.execBrif e s
  | .brnot e => Sys2Proof.Machine.execBrnot e s
  | .await e => Sys2Proof.Machine.execAwait e s
  | .shin e => Sys2Proof.Machine.execShin e s
  | .shout e => Sys2Proof.Machine.execShout e s
  | .deposit e => Sys2Proof.Machine.execDeposit e s
  | .fetch e => Sys2Proof.Machine.execFetch e s
  | .copy e => Sys2Proof.Machine.execCopy e s
  | .put e => Sys2Proof.Machine.execPut e s
  | .signalRaise e => Sys2Proof.Machine.execSignalRaise e s
  | .signalLower e => Sys2Proof.Machine.execSignalLower e s
  | .illegal e => Sys2Proof.Machine.execIllegal e s
  | .holdEnd e => Sys2Proof.Machine.execHoldEnd e s
  | .pioTxd e data => Sys2Proof.Machine.execPioTxd e data s
  | .pioRxpop mask => Sys2Proof.Machine.execPioRxpop mask s
  | .pioShflagSet flags => Sys2Proof.Machine.execPioShflagSet flags s
  | .pioShflagClr flags => Sys2Proof.Machine.execPioShflagClr flags s
  | .queueClear e => Sys2Proof.Machine.execQueueClear e s
  | .packetOpen port chk => Sys2Proof.Machine.execPacketOpen port chk s
  | .packetWrite port chk => Sys2Proof.Machine.execPacketWrite port chk s
  | .writeUnblock q => Sys2Proof.Machine.execWriteUnblock q s
  | .packetClose port => Sys2Proof.Machine.execPacketClose port s
  | .packetAbandon port => Sys2Proof.Machine.execPacketAbandon port s
  | .packetVisible q => Sys2Proof.Machine.execPacketVisible q s
  | .packetRead q chk => Sys2Proof.Machine.execPacketRead q chk s
  | .freelistRebuilt fire => Sys2Proof.Machine.execFreelistRebuilt fire s
  | .queueEnable q en => Sys2Proof.Machine.execQueueEnable q en s
  | .queueSize q data => Sys2Proof.Machine.execQueueSize q data s
  | .flowMap n data => Sys2Proof.Machine.execFlowMap n data s
  | .doorbell r tail => Sys2Proof.Machine.execDoorbell r tail s
  | .recordFetch r => Sys2Proof.Machine.execRecordFetch r s
  | .fetchReturn r data => Sys2Proof.Machine.execFetchReturn r data s
  | .recordTake => Sys2Proof.Machine.execRecordTake s
  | .waitSatisfied r => Sys2Proof.Machine.execWaitSatisfied r s
  | .waitTimeout r => Sys2Proof.Machine.execWaitTimeout r s
  | .valuePoll r => Sys2Proof.Machine.execValuePoll r s
  | .pollReturn r v => Sys2Proof.Machine.execPollReturn r v s
  | .dispatch u => Sys2Proof.Machine.execDispatch u s
  | .flightArmed => Sys2Proof.Machine.execFlightArmed s
  | .flightDisarmed => Sys2Proof.Machine.execFlightDisarmed s
  | .arcBlockWritten ok corr => Sys2Proof.Machine.execArcBlockWritten ok corr s
  | .taskEnd u host corr => Sys2Proof.Machine.execTaskEnd u host corr s
  | .completionWrite => Sys2Proof.Machine.execCompletionWrite s
  | .eventAdd e delta => Sys2Proof.Machine.execEventAdd e delta s
  | .ringDisable r => Sys2Proof.Machine.execRingDisable r s
  | .resume r => Sys2Proof.Machine.execResume r s
  | .headWrite r head => Sys2Proof.Machine.execHeadWrite r head s
  | .noticeRingEnable n => Sys2Proof.Machine.execNoticeRingEnable n s
  | .noticePost n => Sys2Proof.Machine.execNoticePost n s
  | .vectorTimer => Sys2Proof.Machine.execVectorTimer s
  | .abort mask => Sys2Proof.Machine.execAbort mask s
  | .vectorUnmask v => Sys2Proof.Machine.execVectorUnmask v s
  | .busMasterEnable en => Sys2Proof.Machine.execBusMasterEnable en s
  | .d3hot on => Sys2Proof.Machine.execD3hot on s
  | .l1Request => Sys2Proof.Machine.execL1Request s
  | .pcieError kind hdr => Sys2Proof.Machine.execPcieError kind hdr s
  | .deviceReadError u => Sys2Proof.Machine.execDeviceReadError u s
  | .arcRollbackRaise version => Sys2Proof.Machine.execArcRollbackRaise version s
  | .rollbackRaised => Sys2Proof.Machine.execRollbackRaised s
  | .recoveryWrite => Sys2Proof.Machine.execRecoveryWrite s
  | .recoveryDone ok => Sys2Proof.Machine.execRecoveryDone ok s
  | .sensorReading n v => Sys2Proof.Machine.execSensorReading n v s
  | .ladderEvaluation => Sys2Proof.Machine.execLadderEvaluation s
  | .baudClockRecovered g => Sys2Proof.Machine.execBaudClockRecovered g s
  | .receiverAligned x => Sys2Proof.Machine.execReceiverAligned x s
  | .logicSupplyLoss g => Sys2Proof.Machine.execLogicSupplyLoss g s
  | .missedCycle g => Sys2Proof.Machine.execMissedCycle g s
  | .chopPeriodStart g chop => Sys2Proof.Machine.execChopPeriodStart g chop s
  | .debugAccess op => Sys2Proof.Machine.execDebugAccess op s
  | .linkRecovery => Sys2Proof.Machine.execLinkRecovery s
  | .scrub place at_ chk => Sys2Proof.Machine.execScrub place at_ chk s

end Sys2Proof.Machine
end

