-- ==== Sys2Proof/Machine/Tick.lean ====
section
/-! DEFINITION. The passage of time on an empty queue (log entry 1): events that are due join the queue; where none is, a
tick ends and the next begins (R10, R59 to R61). -/

namespace Sys2Proof.Machine

/-- Events timed by something other than NEWEL_TIME: the lock sequence, supplies and straps, the Stair's power phases, the
boot ROM and the Archive, and whatever a gallery times by its own count. -/
def wallEvent (c : Instr) : Bool :=
  stationEvent c || (match c with
    | .lockSequence | .bandSearch | .lockDeclared | .nwlReacquired | .strapDecodeValid _ | .bootStart | .storeTraining _
    | .firmwareCheck _ _ | .calibrationLoad _ | .bootComplete | .stepReached | .commitPoint | .climbComplete
    | .rollbackRaised | .recoveryDone _ => true
    | _ => false)

/-- Ticks by which NEWEL_TIME advances with this tick (R59 to R61). -/
def Newel.advance (x : Newel) : Nat :=
  match x.counting with
  | .ticks => 1
  | .own => 1
  | .refCycles => if x.refTicks = 14 then 15 else 0
  | .held => if x.everLocked then 0 else 1

/-- The Newel one tick on. -/
def Newel.tick (x : Newel) : Newel :=
  match x.counting with
  | .ticks => { x with time := x.time + 1 }
  | .own => { x with time := x.time + 1 }
  | .refCycles => if x.refTicks = 14 then { x with time := x.time + 15, refTicks := 0 } else { x with refTicks := x.refTicks + 1 }
  | .held => x

/-- An event timed by NEWEL_TIME keeps its NEWEL_TIME when the time advances by `d` in one tick. -/
def shiftEvent (d : Nat) (e : Nat × Instr) : Nat × Instr := if wallEvent e.2 then e else (e.1 + 1 - d, e.2)

/-- What ends with a tick: pins and shared flags of the PIO, arrivals at event counters, writes too old to matter for a
landing (R441, R448, R498, R203). -/
def State.tickEnd (s : State) : State :=
  let s := s.settlePio.settleEvents
  { s with late := s.late.filter fun w => decide (s.time < w.1 + 16) }

/-- One tick passes. -/
def State.tick (s : State) : State :=
  let s := s.tickEnd
  { s with now := s.now + 1, newel := s.newel.tick, agenda := s.agenda.map (shiftEvent s.newel.advance) }

/-- The events due now joined to the queue, in the order they were fixed. -/
def State.callDue (s : State) : State :=
  { s with pending := s.pending ++ (s.agenda.filter fun e => decide (e.1 ≤ s.now)).map (·.2)
           agenda := s.agenda.filter fun e => decide (s.now < e.1) }

/-- An empty queue: due events come first, else a tick passes. -/
def State.idle (s : State) : State := if s.agenda.any fun e => decide (e.1 ≤ s.now) then s.callDue else s.tick

end Sys2Proof.Machine
end

