-- ==== Sys2Proof/Safety.lean ====
section
/-! DEFINITION. What statements are written in: frames between two states, canonical contents, what every command leaves
as it was. -/

namespace Sys2Proof.Machine

/-- Every register outside `l` reads as before. -/
def sameRegs (l : List Nat) (s t : State) : Prop := ∀ off, off ∉ l → t.regs.get off = s.regs.get off

/-- Every register outside the 4 KiB blocks `bs` of the address map (R598) reads as before. -/
def sameBlocks (bs : List Nat) (s t : State) : Prop := ∀ off, off / 0x1000 ∉ bs → t.regs.get off = s.regs.get off

/-- Every register of a gallery outside `l` reads as before. -/
def sameGal (l : List Nat) (x y : Station) : Prop := ∀ a, a ∉ l → y.regs.get a = x.regs.get a

/-- Command `c` on `s` answers a next state, and `p` holds of it. -/
def Completes (c : Instr) (s : State) (p : State → Prop) : Prop := ∃ t, exec c s = .next t ∧ p t

/-- A request of the host reaches the device on this tick: the link is up and the head awake (R104, R145, R146). -/
def State.reached (s : State) : Bool := s.linkUp && s.boot.powered && s.step_ != 5 && !s.asleep

/-- BAR 0 and BAR 2 are served: such a request after boot, with Memory Space Enable 1 and in D0 (R536, R545, R548). -/
def State.served (s : State) : Bool := s.reached && s.stage == 7 && s.memEnabled

/-- Engine `e` executes the word `w` on this tick (R433, R435, R451). -/
def State.atEdge (s : State) (e w : Nat) : Bool :=
  let x := s.eng e
  x.running && !x.holding && x.nextAt == s.time && s.ticking && !s.pioHalted && s.pioWord e == w

/-- What engine `e` finds on its edge: on the first after a start the values of R434 are taken, and the host's pops have
been made (R434, R444). -/
def State.edge (s : State) (e : Nat) : State := (s.pioBegin e).settlePops e

/-- Engine `e` once word `w` has completed on this tick with `next` to follow: its HOLD, then the next edge (R435, R436). -/
def State.moved (s : State) (e w next : Nat) : Engine :=
  { s.eng e with pc := next, stalled := false, holding := wbits w 3 0 != 0
                 nextAt := s.time + (wbits w 3 0 + 1) * s.pioCycle e }

/-- The completion of task `k` that ends on this tick with `status` and `result`: its words, when it leaves, its result
slot and its event (Table 18.3, R488, R493, R494). -/
def State.completion (s : State) (k : Task) (unit status : Nat) (result : List Nat) : Done :=
  { due := max s.time ((s.time + 24) / 4 * 4), cq := k.cq
    words := [k.op + unit % 16 * 2 ^ 8 + k.sq * 2 ^ 12, k.w 1, status, k.head, k.start % 2 ^ 32, k.start / 2 ^ 32,
      s.time % 2 ^ 32, s.time / 2 ^ 32] ++ (List.range 8).map fun i => nth result i 0
    res := if bitN (k.w 3) 15 then some (k.w 3 % 4096) else none
    event := if bitN (k.w 2) 8 && !bitN status 15 then some (k.w 2 % 256) else none
    quiet := k.quiet && !bitN status 15 }

/-- The readout of node `n` that begins on tick `t`, and the one whose row pair in progress completes on `t` (R188). -/
def Readout.starts (r : Readout) (n t : Nat) : Bool := r.node == n && !r.begun && r.start == t
def Readout.passes (r : Readout) (n t : Nat) : Bool :=
  r.node == n && r.begun && decide (r.next < r.pairs.length) && r.start + (r.next + 1) * r.slotTicks == t

/-- Every memory of the machine is in its canonical form: both register files, the Store, the Archive, the wear accounts
and host memory. -/
def State.memWf (s : State) : Bool :=
  s.regs.wf && s.eff.wf && s.store.wf && s.archive.wf && s.wear.wf && s.pcie.hostMem.wf

/-- What no command may do, from `s` to `t`: touch the queue, let time pass, wear a block back (R563), lower the rollback
counter (R573), or spoil the canonical form of a memory. -/
structure Keeps (s t : State) : Prop where
  pending : t.pending = s.pending
  now : t.now = s.now
  wear : ∀ b, (s.wear.get b).toNat ≤ (t.wear.get b).toNat
  rollback : s.rollback ≤ t.rollback
  wf : s.memWf = true → t.memWf = true

end Sys2Proof.Machine
end

