-- ==== Sys2Proof/Certificates/Slice0/Obligations.lean ====
section
/-! DEFINITION. The statements about the model: for every command what a state it runs on leaves, frames, invariants of
every step. -/

open Sys2Proof Sys2Proof.Machine

/-- For every command and state, a step of the state with that command at the front of its queue is exec of the command on the state with the rest of the queue. -/
def Obligations.StepRunsFront : Prop :=
  ∀ (c : Instr) (l : List Instr) (s : State), s.pending = c :: l → step s = exec c { s with pending := l }

/-- The model's own choice (log entry 1): on an empty queue the events whose tick has come join the queue in the order they were fixed and nothing else changes; where none is due one tick passes, NEWEL_TIME advances as the Newel counts, and what the block stores in the Store, the Archive, the Hall, the link and the galleries stays. -/
def Obligations.EmptyQueueIdles : Prop :=
  ∀ s : State,
    (  s.pending = [] →
      (s.agenda.any fun e => decide (e.1 ≤ s.now)) = true →
      ∃ t, step s = .next t ∧
        t = { s with pending := (s.agenda.filter fun e => decide (e.1 ≤ s.now)).map (·.2)
                     agenda := s.agenda.filter fun e => decide (s.now < e.1) }) ∧
    (  s.pending = [] →
      (s.agenda.any fun e => decide (e.1 ≤ s.now)) = false →
      ∃ t, step s = .next t ∧ t.now = s.now + 1 ∧
        (s.newel.counting = .ticks ∨ s.newel.counting = .own → t.newel.time = s.newel.time + 1) ∧
        (s.newel.counting = .held → t.newel.time = s.newel.time) ∧
        (s.newel.counting = .refCycles →
          t.newel.time = s.newel.time + (if s.newel.refTicks = 14 then 15 else 0)) ∧
        t.newel.phase = s.newel.phase ∧
        t = { s with agenda := t.agenda, now := t.now, regs := t.regs, eff := t.eff, late := t.late,
                     moment := t.moment, newel := t.newel, strobes := t.strobes, cams := t.cams,
                     placed := t.placed, notices := t.notices, pipes := t.pipes, joins := t.joins,
                     planner := t.planner, pio := t.pio, usher := t.usher })

/-- After n counts a sat counter of width w holds the smaller of its old value plus n and 2^w - 1, and a wrap counter its old value plus n modulo 2^w, whatever counter of up to 32 bits it is; n counts made at once leave the same value. -/
def Obligations.CounterRule : Prop :=
  ∀ (c : Ctr) (s : State) (n : Nat), 0 < c.width → c.width ≤ 32 →
    (c.sat = true → (overIdx (fun _ u => u.bump c) n s).ctr c = min (s.ctr c + n) (2 ^ c.width - 1)) ∧
    (c.sat = false → (overIdx (fun _ u => u.bump c) n s).ctr c = (s.ctr c + n) % 2 ^ c.width) ∧
    (s.bumpBy c n).ctr c = (overIdx (fun _ u => u.bump c) n s).ctr c

/-- For a list of different head jets of one gallery g, bit n of the jet mask of their fire command is 1 exactly if head jet 32 g + n is among them, for every channel n; the mask has 32 bits. -/
def Obligations.FireMask : Prop :=
  ∀ (g : Nat) (l : List Nat), g < 8 → l.Nodup → (∀ j ∈ l, j / 32 = g) →
    jetMask l < 2 ^ 32 ∧ ∀ n, n < 32 → bitN (jetMask l) n = decide (32 * g + n ∈ l)

/-- A served, aligned 8-byte write of BAR 0 leaves what the 4-byte write of its lower half and then the 4-byte write of its upper half leave, each judged on its own. -/
def Obligations.WriteHalves : Prop :=
  ∀ s : State, ∀ (off : Nat) (d : Nat),
  s.served = true →
  off % 8 = 0 →
  Completes (.registerWrite off 8 d) s fun t =>
    t = (s.traffic.bar0Write off 4 (d % 2 ^ 32)).bar0Write (off + 4) 4 (d / 2 ^ 32 % 2 ^ 32)

/-- A fire command for an enumerated gallery, not late, whose queue holds 128 commands is not queued: the Hall and the planner with its E values stand, EJP_CNT_FQ_FULL of the gallery counts, bit g of QFULL is 1; an urgent notice EJP_FIRE_QUEUE_FULL is raised exactly if the bit went from 0 to 1. -/
def Obligations.FullFireQueue : Prop :=
  ∀ s : State, ∀ (g : Nat) (c : FireCmd),
  g < 8 →
  s.enumerated g = true →
  s.lateNow c.fire = false →
  128 ≤ (s.fireQueue g).length →
  (s.queueFire g c).hall = s.hall ∧ (s.queueFire g c).planner = s.planner ∧
  (s.queueFire g c).ctr (C.EJP_CNT_FQ_FULL g) = (C.EJP_CNT_FQ_FULL g).plus (s.ctr (C.EJP_CNT_FQ_FULL g)) 1 ∧
  bitN ((s.queueFire g c).g F.EJP_FLAGS_QFULL) g = true ∧
  ((bitN (s.g F.EJP_FLAGS_QFULL) g = true ∨ bitN (s.lately.cleared.get F.EJP_FLAGS).toNat (8 + g) = true) →
    (s.queueFire g c).notices = s.notices) ∧
  (bitN (s.g F.EJP_FLAGS_QFULL) g = false → bitN (s.lately.cleared.get F.EJP_FLAGS).toNat (8 + g) = false →
    (s.queueFire g c).notices.map (·.nseq) = modNth (s.notices.map (·.nseq)) 0 fun n => (n + 1) % 2 ^ 32) ∧
  (bitN (s.g F.EJP_FLAGS_QFULL) g = false → bitN (s.lately.cleared.get F.EJP_FLAGS).toNat (8 + g) = false →
    ∀ r, s.notices.head? = some r → r.held.length < 64 →
    ∃ q m, (s.queueFire g c).notices.head? = some q ∧ m ∈ q.held ∧ m.code = 0x8C11 ∧ m.unit = g ∧ m.stamp = s.time)

/-- A fire command for an enumerated gallery, not late, whose queue has room enters the end of the queue with the SEQ of its gallery; EJP_CNT_CMD of the gallery rises by 1, wrapping at 32 bits, and SEQ advances by 1 modulo 65,536, the SEQ of every other gallery kept. -/
def Obligations.CommandQueued : Prop :=
  ∀ s : State, ∀ (g : Nat) (c : FireCmd),
  g < 8 →
  s.enumerated g = true →
  s.lateNow c.fire = false →
  (s.fireQueue g).length < 128 →
  (s.queueFire g c).ctr (C.EJP_CNT_CMD g) = (s.ctr (C.EJP_CNT_CMD g) + 1) % 2 ^ 32 ∧
  (s.queueFire g c).planner =
    { s.planner with seq := modNth s.planner.seq g fun n => (n + 1) % 65536 } ∧
  (s.queueFire g c).hall.fire =
    modNth s.hall.fire g fun l => l ++ [{ c with seq := nth s.planner.seq g 0, entered := s.time }]

/-- After power-on reset the queue is empty and no event is fixed, registers of each block read as the Reset columns say, the wear counts and the rollback counter of a new head are 0, and every memory is in its canonical form. That nothing is in the agenda is the model's own way of holding events (log entry 1). -/
def Obligations.ResetValues : Prop :=
  State.reset.pending = [] ∧ State.reset.agenda = [] ∧ State.reset.memWf = true ∧
    State.reset.wear = [] ∧ State.reset.rollback = 0 ∧
    State.reset.g F.PWR_RESET_CAUSE_POR = 1 ∧ State.reset.g (F.ARR_PERIOD_TICKS 0) = 1800000 ∧
    State.reset.g (F.ARR_PERIOD_TICKS 1) = 1800000 ∧ State.reset.g F.EJP_DUR_DOUBT_TICKS = 4500000 ∧
    (∀ r, r < 4 → State.reset.g (F.EJP_ROW_FALLBACK_TICKS r) = 99115080 ∧ State.reset.g (F.EJP_ROW_DIST_UM r) = 180000 ∧
      State.reset.g (F.EJP_ROW_DIST_EN r) = 0) ∧
    (∀ g, g < 8 → State.reset.g (F.EJP_JET_EN_MASK g) = 0 ∧ State.reset.g (F.EJP_DUR_BASE g) = 4500000) ∧
    (∀ i, i < 16 → State.reset.g (F.USH_SQ_CTRL_EN i) = 0)

/-- Every command on every state answers a next state, never a fault or a refusal; it leaves the queue of waiting commands and the count of ticks alone, no block of the Archive loses wear, the rollback counter does not fall, and memories in canonical form stay so. -/
def Obligations.EveryCommandCompletes : Prop :=
  ∀ (c : Instr) (s : State), ∃ t, exec c s = .next t ∧ Keeps s t

/-- From every state whose register files, Store, Archive, wear accounts and host memory are in canonical form, whatever step the machine takes, a command or the passage of time, leaves them so; that reset has the form is part of ResetValues. -/
def Obligations.StepKeepsMemory : Prop :=
  ∀ s t : State, s.memWf = true → step s = .next t → t.memWf = true

/-- Whatever step the machine takes, the wear count of no block of the Archive falls and the rollback counter does not fall; a step that runs a command takes no time, and one on an empty queue takes one tick or none. -/
def Obligations.StepKeepsWear : Prop :=
  ∀ s t : State, step s = .next t →
    (∀ b, (s.wear.get b).toNat ≤ (t.wear.get b).toNat) ∧ s.rollback ≤ t.rollback ∧
    t.now = (if s.pending = [] ∧ (s.agenda.any fun e => decide (e.1 ≤ s.now)) = false then s.now + 1 else s.now)

/-- Every state has a next state: the block idles on an empty queue (log entry 1), and no command ends in a fault or a refusal. -/
def Obligations.StepNeverStops : Prop :=
  ∀ s : State, ∃ t, step s = .next t

/-- No command but a block write of the Archivist, a recovery write, and those that can begin or complete a full reset (which finishes a block in progress, log entry 32) changes a byte of the Archive; none but the end of a raise and those resets changes the rollback counter. In particular no other engine, no BAR 2 write and no host-side reset does. -/
def Obligations.ArchiveKeepers : Prop :=
  ∀ (c : Instr) (s t : State), exec c s = .next t →
    (t.archive ≠ s.archive →
      (∃ b v, c = .arcBlockWritten b v) ∨ (∃ b, c = .recoveryDone b) ∨
       (∃ o n v, c = .registerWrite o n v) ∨ (∃ o, c = .debugAccess o) ∨ (∃ m, c = .supplyLoss m) ∨
       c = .perstAssert ∨ c = .lockDeclared ∨ (∃ k, c = .resetFull k)) ∧
    (t.rollback ≠ s.rollback →
      c = .rollbackRaised ∨
       (∃ o n v, c = .registerWrite o n v) ∨ (∃ o, c = .debugAccess o) ∨ (∃ m, c = .supplyLoss m) ∨
       c = .perstAssert ∨ c = .lockDeclared ∨ (∃ k, c = .resetFull k))

/-- LOCK_SEQUENCE, with the loop off and the head powered, takes the reference mode held for it, clears LOCKED and begins Settle: 1,024 reference cycles, 15,360 ticks, counted from the next reference edge where NEWEL_TIME counts reference cycles; without reference edges it waits in Settle for them. Where a full reset waits for it, it is boot stage 2. BAND_SEARCH at the end of Settle begins the search of 10,240 cycles (153,600 ticks), and at the end of the search keeps a band, a free value below 32 (log entry 2), and begins the lock count of 65,536 cycles (983,040 ticks). LOCK_DECLARED at the end of the lock count leaves the loop locked with LOCKED 1 and HOLDOVER 0, and NEWEL_TIME counting by ticks, from 0 at the first lock and else from where it stood; where no full reset, boot stage 2, climb or commit waits for the lock, nothing else changes but TIME_EPOCH, which rises by 1 where the count was held. LOCK_RESTART: edges back in Settle, search or lock count begin Settle again; in another phase it is only noted that they are back. -/
def Obligations.LockSequenceCommands : Prop :=
  ∀ s : State,
    (  s.newel.phase = .off →
      s.boot.powered = true →
      s.newel.refPresent = true →
      Completes .lockSequence s fun t =>
        t.newel = { s.newel with phase := .settle, phaseEnd := s.now + (15360 + s.newel.toEdge) } ∧
        t.g F.NWL_STATUS_REFMODE = s.g F.NWL_REFMODE_NEXT_MODE ∧ t.g F.NWL_STATUS_LOCKED = 0 ∧
        t.stage = (if s.boot.resetAtLock then 2 else s.stage) ∧
        (s.now + (15360 + s.newel.toEdge), Instr.bandSearch) ∈ t.agenda ∧
        sameRegs [F.NWL_STATUS, F.PWR_BOOT_STATUS] s t ∧
        t = { s with regs := t.regs, newel := t.newel, agenda := t.agenda }) ∧
    (  s.newel.phase = .off →
      s.boot.powered = true →
      s.newel.refPresent = false →
      Completes .lockSequence s fun t =>
        t.newel = { s.newel with phase := .settle, phaseEnd := s.now } ∧
        t.g F.NWL_STATUS_REFMODE = s.g F.NWL_REFMODE_NEXT_MODE ∧ t.g F.NWL_STATUS_LOCKED = 0 ∧
        t.stage = (if s.boot.resetAtLock then 2 else s.stage) ∧
        sameRegs [F.NWL_STATUS, F.PWR_BOOT_STATUS] s t ∧
        t = { s with regs := t.regs, newel := t.newel, agenda := t.agenda }) ∧
    (  s.newel.refPresent = true →
      s.newel.phaseEnd ≤ s.now →
      s.newel.phase = .settle →
      Completes .bandSearch s fun t =>
        t = { s with newel := { s.newel with phase := .band, phaseEnd := s.now + 153600 }
                     agenda := s.agenda ++ [(s.now + 153600, .bandSearch)] }) ∧
    (  s.newel.refPresent = true →
      s.newel.phaseEnd ≤ s.now →
      s.newel.phase = .band →
      Completes .bandSearch s fun t =>
        t.newel = { s.newel with phase := .lockCount, phaseEnd := s.now + 983040 } ∧
        t.g F.NWL_STATUS_BAND = Config.freeNat s.freeCount % 32 ∧ (s.now + 983040, Instr.lockDeclared) ∈ t.agenda ∧
        sameRegs [F.NWL_STATUS] s t ∧
        t = { s with freeCount := t.freeCount, regs := t.regs, newel := t.newel, agenda := t.agenda }) ∧
    (  s.newel.refPresent = true →
      s.newel.phaseEnd ≤ s.now →
      s.newel.phase = .lockCount →
      Completes .lockDeclared s fun t =>
        t.newel.phase = .locked ∧ t.newel.counting = .ticks ∧ t.newel.everLocked = true ∧
        t.newel.time = (if s.newel.everLocked then s.newel.time else 0) ∧ t.g F.NWL_STATUS_LOCKED = 1 ∧
        t.g F.NWL_STATUS_HOLDOVER = 0) ∧
    (  s.newel.refPresent = true →
      s.newel.phaseEnd ≤ s.now →
      s.newel.phase = .lockCount →
      s.newel.commitAt = none →
      s.boot.resetAtLock = false →
      s.stage ≠ 2 →
      s.phase ≠ 5 →
      Completes .lockDeclared s fun t =>
        t.newel = { s.newel with phase := .locked, counting := .ticks, everLocked := true, refTicks := 0,
                                 time := if s.newel.everLocked then s.newel.time else 0 } ∧
        t.g F.NWL_STATUS_LOCKED = 1 ∧ t.g F.NWL_STATUS_HOLDOVER = 0 ∧
        t.g F.NWL_TIME_EPOCH_EPOCH =
          (if s.newel.counting = .held ∧ s.newel.everLocked then (s.g F.NWL_TIME_EPOCH_EPOCH + 1) % 65536
            else s.g F.NWL_TIME_EPOCH_EPOCH) ∧
        sameRegs [F.NWL_STATUS, F.NWL_TIME_EPOCH] s t ∧ t = { s with regs := t.regs, newel := t.newel }) ∧
    (  s.newel.refPresent = false →
      s.newel.phase = .band ∨ s.newel.phase = .lockCount ∨ s.newel.phase = .settle →
      Completes .lockRestart s fun t =>
        t.newel = { s.newel with refPresent := true, phase := .settle, phaseEnd := s.now + (15360 + s.newel.toEdge) } ∧
        (s.now + (15360 + s.newel.toEdge), Instr.bandSearch) ∈ t.agenda ∧
        t = { s with newel := t.newel, agenda := t.agenda }) ∧
    (  s.newel.refPresent = false →
      ¬(s.newel.phase = .band ∨ s.newel.phase = .lockCount ∨ s.newel.phase = .settle) →
      Completes .lockRestart s fun t => t = { s with newel := { s.newel with refPresent := true } })

/-- A loss while locked enters holdover, counts in NWL_CNT_REF_LOSS and sets both flags; edges back within range start the count of 65,536 reference cycles, out of range set REACQ_FAIL; at the end of the count the loop is locked, HOLDOVER reads 0 and NWL_CNT_REACQ counts. -/
def Obligations.ReferenceCommands : Prop :=
  ∀ s : State,
    (  s.newel.refPresent = true →
      s.newel.phase = .locked →
      s.newel.counting = .ticks →
      Completes .refLost s fun t =>
        t.newel = { s.newel with refPresent := false, phase := .holdover } ∧ t.g F.NWL_STATUS_HOLDOVER = 1 ∧
        t.ctr C.NWL_CNT_REF_LOSS = C.NWL_CNT_REF_LOSS.plus (s.ctr C.NWL_CNT_REF_LOSS) 1 ∧
        t.g F.NWL_FLAGS_REF_LOST = 1 ∧ t.g F.NWL_FLAGS_HOLDOVER_ENTERED = 1 ∧
        sameRegs [F.NWL_STATUS, C.NWL_CNT_REF_LOSS.off, F.NWL_FLAGS, (C.USH_CNT_NQ_LOST 0).off] s t ∧
        t = { s with regs := t.regs, moment := t.moment, newel := t.newel, notices := t.notices, agenda := t.agenda }) ∧
    (  s.newel.phase = .holdover →
      Completes (.reacquisition true) s fun t =>
        t = { s with newel := { s.newel with refPresent := true, phase := .reacq, phaseEnd := s.now + 983040 }
                     agenda := s.agenda ++ [(s.now + 983040, .nwlReacquired)] }) ∧
    (  s.newel.phase = .holdover →
      Completes (.reacquisition false) s fun t =>
        t.newel = { s.newel with refPresent := true } ∧ t.g F.NWL_FLAGS_REACQ_FAIL = 1 ∧
        sameRegs [F.NWL_FLAGS, (C.USH_CNT_NQ_LOST 0).off] s t ∧
        t = { s with regs := t.regs, moment := t.moment, newel := t.newel, notices := t.notices, agenda := t.agenda }) ∧
    (  s.newel.phase = .reacq →
      s.newel.phaseEnd ≤ s.now →
      Completes .nwlReacquired s fun t =>
        t.newel = { s.newel with phase := .locked } ∧ t.g F.NWL_STATUS_HOLDOVER = 0 ∧
        t.ctr C.NWL_CNT_REACQ = C.NWL_CNT_REACQ.plus (s.ctr C.NWL_CNT_REACQ) 1 ∧
        sameRegs [F.NWL_STATUS, C.NWL_CNT_REACQ.off, (C.USH_CNT_NQ_LOST 1).off] s t ∧
        t = { s with regs := t.regs, moment := t.moment, newel := t.newel, notices := t.notices, agenda := t.agenda })

/-- A commit accepted while ticks run and none is pending sets COMMIT_PENDING and fixes the first multiple of 65,536 at least 256 ticks ahead. At the epoch the three divisors in effect become the shadows as they stood before the tick, NWL_COMMIT_TIME is the tick, COMMIT_PENDING reads 0 (here with both companion ports off). A snapshot, and a rising edge at the pin that SNAP_SRC names, with a stamp two ticks earlier (here TRIG0, which no camera takes as its trigger), go into NWL_SNAP and raise SNAP_SEQ by one modulo 256; where a pin was captured on this tick its stamp stands and the snapshot only raises SNAP_SEQ. -/
def Obligations.CommitAndCapture : Prop :=
  ∀ s : State,
    (  s.newel.counting = .ticks →
      s.newel.commitAt = none →
      Completes .commit s fun t =>
        t.newel = { s.newel with commitAt := some s.time } ∧ t.g F.NWL_STATUS_COMMIT_PENDING = 1 ∧
        t.agenda = s.agenda ++ [(s.now + (nextEdge 65536 (s.time + 256) - s.time), .commitEpoch)] ∧
        sameRegs [F.NWL_STATUS] s t ∧ t = { s with regs := t.regs, newel := t.newel, agenda := t.agenda }) ∧
    (∀ (u : Nat),
      s.newel.counting = .ticks →
      s.newel.commitAt = some u →
      s.newel.time % 65536 = 0 →
      u + 256 ≤ s.newel.time →
      s.g (F.XPT_STATUS_STATE 0) = 0 →
      s.g (F.XPT_STATUS_STATE 1) = 0 →
      Completes .commitEpoch s fun t =>
        t.g F.NWL_DIV_ACTIVE_XCLK0 = s.outShadow 0 s.time ∧ t.g F.NWL_DIV_ACTIVE_XCLK1 = s.outShadow 1 s.time ∧
        t.g F.NWL_DIV_ACTIVE_MON = s.outShadow 2 s.time ∧
        t.getPair F.NWL_COMMIT_TIME_LO = s.newel.time % 2 ^ 64 ∧ t.g F.NWL_STATUS_COMMIT_PENDING = 0 ∧
        t.newel.commitAt = none ∧ t.newel.time = s.newel.time ∧
        sameRegs [F.NWL_STATUS, F.NWL_DIV_ACTIVE, F.NWL_COMMIT_TIME_LO, F.NWL_COMMIT_TIME_HI] s t ∧
        t = { s with regs := t.regs, newel := t.newel, mons := t.mons, agenda := t.agenda }) ∧
    (  s.newel.pinCapture ≠ some s.now →
      Completes .snap s fun t =>
        t.getPair F.NWL_SNAP_LO = s.newel.time % 2 ^ 64 ∧
        t.g F.NWL_STATUS_SNAP_SEQ = (s.g F.NWL_STATUS_SNAP_SEQ + 1) % 256 ∧
        sameRegs [F.NWL_STATUS, F.NWL_SNAP_LO, F.NWL_SNAP_HI] s t ∧ t = { s with regs := t.regs }) ∧
    (  s.newel.pinCapture = some s.now →
      Completes .snap s fun t =>
        t.g F.NWL_STATUS_SNAP_SEQ = (s.g F.NWL_STATUS_SNAP_SEQ + 1) % 256 ∧
        sameRegs [F.NWL_STATUS] s t ∧ t = { s with regs := t.regs }) ∧
    (  s.newel.counting = .ticks →
      s.g F.NWL_CTRL_SNAP_SRC = 2 →
      s.g (F.ARR_CAM_CTRL_TRIG_SRC 0) ≠ 32 →
      s.g (F.ARR_CAM_CTRL_TRIG_SRC 1) ≠ 32 →
      Completes (.pinEdge 2 true) s fun t =>
        t.getPair F.NWL_SNAP_LO = (s.newel.time - 2) % 2 ^ 64 ∧
        t.g F.NWL_STATUS_SNAP_SEQ = (s.g F.NWL_STATUS_SNAP_SEQ + 1) % 256 ∧
        sameRegs [F.NWL_STATUS, F.NWL_SNAP_LO, F.NWL_SNAP_HI] s t ∧
        t = { s with regs := t.regs, newel := { s.newel with pinCapture := some s.now } })

/-- A served 4-byte write of ARC_WEAR_SEL stores its field. A write of another size or alignment does nothing, is counted in STP_CNT_REFUSED and recorded with reason 2, or 1 where no register answers. A write of EJP_PULSE_MAX above its strapped ceiling leaves the register and is recorded with reason 4. With Memory Space Enable 0 the write does nothing but count an error of the link. -/
def Obligations.HostRegisterWrites : Prop :=
  ∀ s : State,
    (∀ (v : Nat),
      s.served = true →
      Completes (.registerWrite 0x4C030 4 v) s fun t =>
        t.g F.ARC_WEAR_SEL_BLOCK = v % 65536 ∧ sameRegs [F.ARC_WEAR_SEL, F.PCI_LINK] s t ∧
        t = { s with regs := t.regs, pcie := { s.pcie with lastTraffic := s.now }, agenda := t.agenda }) ∧
    (∀ (off : Nat) (size : Nat) (v : Nat),
      s.served = true →
      ¬(size = 4 ∧ off % 0x100000 % 4 = 0) →
      ¬(size = 8 ∧ off % 0x100000 % 8 = 0) →
      Completes (.registerWrite off size v) s fun t =>
        t.ctr C.STP_CNT_REFUSED = C.STP_CNT_REFUSED.plus (s.ctr C.STP_CNT_REFUSED) 1 ∧
        t.g F.STP_LAST_REFUSED_OFFSET = off % 0x100000 ∧
        t.g F.STP_LAST_REFUSED_REASON = (if s.named (off % 0x100000 / 4 * 4) then 2 else 1) ∧
        sameRegs [F.STP_CNT_REFUSED, F.STP_LAST_REFUSED, F.PCI_LINK] s t ∧
        t = { s with regs := t.regs, moment := t.moment, pcie := { s.pcie with lastTraffic := s.now }, agenda := t.agenda }) ∧
    (∀ (v : Nat),
      s.served = true →
      s.g F.STP_CEIL_PULSE_TICKS < v % 2 ^ 26 →
      Completes (.registerWrite 0x20010 4 v) s fun t =>
        t.g F.EJP_PULSE_MAX_TICKS = s.g F.EJP_PULSE_MAX_TICKS ∧
        t.ctr C.STP_CNT_REFUSED = C.STP_CNT_REFUSED.plus (s.ctr C.STP_CNT_REFUSED) 1 ∧
        t.g F.STP_LAST_REFUSED_OFFSET = 0x20010 ∧ t.g F.STP_LAST_REFUSED_REASON = 4 ∧
        sameRegs [F.STP_CNT_REFUSED, F.STP_LAST_REFUSED, F.PCI_LINK] s t ∧
        t = { s with regs := t.regs, moment := t.moment, pcie := { s.pcie with lastTraffic := s.now }, agenda := t.agenda }) ∧
    (∀ (off : Nat) (size : Nat) (v : Nat),
      s.reached = true →
      s.ready = true →
      s.memEnabled = false →
      Completes (.registerWrite off size v) s fun t =>
        t.ctr C.PCI_CNT_UNCORR = C.PCI_CNT_UNCORR.plus (s.ctr C.PCI_CNT_UNCORR) 1 ∧
        sameRegs [C.PCI_CNT_UNCORR.off, F.PCI_LINK] s t ∧
        t = { s with regs := t.regs, moment := t.moment, pcie := t.pcie, agenda := t.agenda })

/-- Before boot is complete a configuration request is answered with a retry status; after it a read is completed with the word read, and a write of the interrupt line stores its eight bits and is completed. An unsupported request counts an uncorrectable error, and a non-posted one is completed as unsupported. A BAR 2 write into banks 1 and 2 stores its bytes there and nowhere else; a read answers the bytes of the Store. -/
def Obligations.HostRequests : Prop :=
  ∀ s : State,
    (∀ (w : Bool) (off : Nat) (v : Nat),
      s.reached = true →
      s.stage < 7 →
      Completes (.configRequest w off v) s fun t =>
        t.pcie = { s.pcie with lastTraffic := s.now, sent := s.pcie.sent ++ [.cfgRetry] } ∧ sameRegs [F.PCI_LINK] s t ∧
        t = { s with regs := t.regs, pcie := t.pcie, agenda := t.agenda }) ∧
    (∀ (off : Nat) (v : Nat),
      s.reached = true →
      7 ≤ s.stage →
      Completes (.configRequest false off v) s fun t =>
        t.pcie = { s.pcie with lastTraffic := s.now, sent := s.pcie.sent ++ [.cfgDone (s.configRead (off % 4096 / 4 * 4))] } ∧
        sameRegs [F.PCI_LINK] s t ∧ t = { s with regs := t.regs, pcie := t.pcie, agenda := t.agenda }) ∧
    (∀ (v : Nat),
      s.reached = true →
      7 ≤ s.stage →
      Completes (.configRequest true 0x3C v) s fun t =>
        t.pcie.config.get 0x3C = BitVec.ofNat 32 (v % 256) ∧
        t.pcie = { s.pcie with lastTraffic := s.now, config := t.pcie.config, sent := s.pcie.sent ++ [.cfgDone 0] } ∧
        (∀ o, o ≠ 0x3C → t.pcie.config.get o = s.pcie.config.get o) ∧
        sameRegs [F.PCI_LINK] s t ∧ t = { s with regs := t.regs, pcie := t.pcie, agenda := t.agenda }) ∧
    (∀ (np : Bool),
      s.reached = true →
      Completes (.unsupportedRequest np) s fun t =>
        t.ctr C.PCI_CNT_UNCORR = C.PCI_CNT_UNCORR.plus (s.ctr C.PCI_CNT_UNCORR) 1 ∧
        t.pcie.sent = s.pcie.sent ++ (if np then [.unsupported] else []) ∧
        sameRegs [C.PCI_CNT_UNCORR.off, F.PCI_LINK] s t ∧
        t = { s with regs := t.regs, moment := t.moment, pcie := t.pcie, agenda := t.agenda }) ∧
    (∀ (a : Nat) (bs : List Byte),
      s.served = true →
      0x1800000 ≤ a →
      a + bs.length ≤ 0x4800000 →
      bs ≠ [] →
      Completes (.bar2Write a bs) s fun t =>
        (∀ i b, bs[i]? = some b → t.store.get (a + i) = b) ∧
        (∀ x, x < a ∨ a + bs.length ≤ x → t.store.get x = s.store.get x) ∧ sameRegs [F.PCI_LINK] s t ∧
        t = { s with regs := t.regs, pcie := { s.pcie with lastTraffic := s.now }, store := t.store, storeBad := t.storeBad
                     agenda := t.agenda }) ∧
    (∀ (a : Nat) (n : Nat),
      s.served = true →
      s.storeBad = [] →
      a + n ≤ storeSize →
      Completes (.bar2Read a n .ok) s fun t =>
        t.pcie = { s.pcie with lastTraffic := s.now, sent := s.pcie.sent ++ [.readDone ((List.range n).map fun i => s.store.get (a + i))] } ∧
        sameRegs [F.PCI_LINK] s t ∧ t = { s with regs := t.regs, pcie := t.pcie, agenda := t.agenda })

/-- Training at full speed and width brings the link up; a recovery is counted; eight idle microseconds take it to L1. A detected correctable error is logged and counted. Unmasking a vector without a pending message only unmasks it; Bus Master Enable and the power state are stored. -/
def Obligations.EndpointEvents : Prop :=
  ∀ s : State,
    (∀ (v : Nat) (w : Nat),
      v = s.g F.STP_CONFIG_GEN_CAP →
      w = 2 ^ s.g F.STP_CONFIG_LANES →
      s.g F.PCI_LINK_STATE = 5 →
      1 ≤ s.g F.STP_CONFIG_GEN_CAP →
      s.g F.STP_CONFIG_LANES < 3 →
      Completes (.linkTrained v w) s fun t =>
        t.g F.PCI_LINK_SPEED = v ∧ t.g F.PCI_LINK_WIDTH = w ∧
        t.g F.PCI_LINK_STATE = 2 ∧ sameRegs [F.PCI_LINK] s t ∧
        t = { s with regs := t.regs, pcie := { s.pcie with lastTraffic := s.now }, agenda := t.agenda }) ∧
    (  s.g F.PCI_LINK_STATE = 2 →
      Completes .linkRecovery s fun t =>
        t.g F.PCI_LINK_STATE = 5 ∧ t.ctr C.PCI_CNT_RECOVERY = C.PCI_CNT_RECOVERY.plus (s.ctr C.PCI_CNT_RECOVERY) 1 ∧
        sameRegs [F.PCI_LINK, C.PCI_CNT_RECOVERY.off] s t ∧ t = { s with regs := t.regs, moment := t.moment }) ∧
    (  s.step_ ≤ 2 →
      s.g F.PCI_LINK_STATE = 2 →
      s.pcie.lastTraffic + 12000 ≤ s.now →
      s.entry ≠ 4 →
      s.aspmL1 = true →
      Completes .l1Request s fun t =>
        t.g F.PCI_LINK_STATE = 3 ∧ sameRegs [F.PCI_LINK] s t ∧ t = { s with regs := t.regs }) ∧
    (∀ (k : Nat) (h : List Nat),
      s.linkUp = true →
      k < 6 →
      Completes (.pcieError k h) s fun t =>
        bitN t.pcie.aerCorr (nth aerBits k 0) = true ∧
        t.ctr C.PCI_CNT_CORR = C.PCI_CNT_CORR.plus (s.ctr C.PCI_CNT_CORR) 1 ∧
        sameRegs [C.PCI_CNT_CORR.off] s t ∧
        t = { s with regs := t.regs, moment := t.moment, pcie := { s.pcie with aerCorr := t.pcie.aerCorr } }) ∧
    (∀ (v : Nat),
      v < 32 →
      (s.vector v).pending = false →
      Completes (.vectorUnmask (some v)) s fun t =>
        (t.vector v).masked = false ∧ (∀ w, w ≠ v → t.vector w = s.vector w) ∧
        t = { s with pcie := { s.pcie with vectors := t.pcie.vectors } }) ∧
    (∀ (en : Bool),
      en = false ∨ s.busMaster = true →
      Completes (.busMasterEnable en) s fun t =>
        t.busMaster = en ∧ (∀ o, o ≠ 4 → t.pcie.config.get o = s.pcie.config.get o) ∧
        t = { s with pcie := { s.pcie with config := t.pcie.config }, hall := t.hall, usher := t.usher, agenda := t.agenda }) ∧
    (  Completes (.d3hot true) s fun t =>
        t = { s with pcie := { s.pcie with d3hot := true }, usher := t.usher, agenda := t.agenda })

/-- Decode-valid takes the source of the reference from STRAP1 and, in stage 1, goes on to the lock sequence. The latch takes twelve levels, flags, ceilings and software limits (here with every strap a 0 ohm link, which no window edge touches). A soft lock sets the bits written 1 and clears none. Both supplies good begin the boot with stage 1. -/
def Obligations.StrapCommands : Prop :=
  ∀ s : State,
    (∀ (l : List Nat),
      s.boot.decoded = false →
      s.boot.powered = true →
      s.stage = 1 →
      l.length = 12 →
      nth l 1 0 = 0 →
      Completes (.strapDecodeValid l) s fun t =>
        t.boot = { s.boot with strapOhms := l, decoded := true, strap1 := (0, false) } ∧ t.g F.NWL_STATUS_REF_SRC = 1 ∧
        t.stage = 2 ∧ (s.now, Instr.lockSequence) ∈ t.agenda ∧ sameRegs [F.NWL_STATUS, F.PWR_BOOT_STATUS] s t ∧
        t = { s with regs := t.regs, boot := t.boot, agenda := t.agenda }) ∧
    (∀ (l : List Nat),
      l = List.replicate 12 0 →
      s.boot.decoded = true →
      s.boot.latched = false →
      s.newel.counting = .ticks →
      onEdge 150 s.time = true →
      s.boot.strap1 = (0, false) →
      Completes (.strapLatch l) s fun t =>
        t.regs.get F.STP_LEVELS_LO = 0#32 ∧ t.regs.get F.STP_LEVELS_HI = 0#32 ∧ t.regs.get F.STP_ANOMALY = 0#32 ∧
        t.g F.STP_CONFIG_LANES = 2 ∧ t.g F.STP_CONFIG_GEN_CAP = 4 ∧ t.g F.STP_CONFIG_REF_SRC = 1 ∧
        t.g F.STP_CONFIG_ARC_LOCK = 0 ∧ t.g F.STP_CONFIG_DBG_MODE = 0 ∧ t.g F.STP_CONFIG_ISET10V = 15 ∧
        t.g F.STP_CEIL_A_TRIP_C = 135 ∧ t.g F.THM_TRIP_CELSIUS = 135 ∧ t.g F.EJP_PULSE_MAX_TICKS = 60000000 ∧
        t.g F.EJP_GAP_MIN_TICKS = 750000 ∧ t.boot.latched = true ∧
        t = { s with regs := t.regs, eff := t.eff, boot := t.boot, agenda := t.agenda }) ∧
    (∀ (b : Nat),
      Completes (.softLock b) s fun t =>
        bitN (t.g ⟨F.STP_SOFT_LOCK, 2, 0⟩) 0 = (bitN (s.g ⟨F.STP_SOFT_LOCK, 2, 0⟩) 0 || bitN b 0) ∧
        bitN (t.g ⟨F.STP_SOFT_LOCK, 2, 0⟩) 1 = (bitN (s.g ⟨F.STP_SOFT_LOCK, 2, 0⟩) 1 || bitN b 1) ∧
        bitN (t.g ⟨F.STP_SOFT_LOCK, 2, 0⟩) 2 = (bitN (s.g ⟨F.STP_SOFT_LOCK, 2, 0⟩) 2 || bitN b 2) ∧
        sameRegs [F.STP_SOFT_LOCK] s t ∧ t = { s with regs := t.regs, moment := t.moment }) ∧
    (  s.g F.PWR_STEP_STATUS_STEP ≠ 5 →
      s.boot.powered = false →
      s.boot.decoded = false →
      Completes .bootStart s fun t =>
        t.boot = { s.boot with powered := true, mainGood := true } ∧ t.stage = 1 ∧
        (s.now + 300000, Instr.strapDecodeValid []) ∈ t.agenda ∧ sameRegs [F.PWR_BOOT_STATUS] s t ∧
        t = { s with regs := t.regs, boot := t.boot, agenda := t.agenda })

/-- With an input lost while the head runs, main at any step but Vault or aux at any step, the head starts over unpowered: every register but the rollback counter shown is at its reset value, the Store is empty, and of the agenda only what galleries do for themselves and send stays; the galleries stand. The Archive and its wear stand where no block is being written, the rollback counter where no raise runs (an interrupted write or raise leaves the old or the new content, log entry 2), and the register shows the counter. At Vault, which needs no main input, a loss of main is only noted. On a head without power the loss of main changes nothing, that of aux ends the validity of the strap decode. -/
def Obligations.SupplyLossResets : Prop :=
  ∀ s : State,
    (∀ (m : Bool),
      s.boot.powered = true →
      m = false ∨ s.g F.PWR_STEP_STATUS_STEP ≠ 5 →
      Completes (.supplyLoss m) s fun t =>
        (∀ o, o ≠ F.ARC_ROLLBACK → t.regs.get o = State.reset.regs.get o) ∧
        t.g F.ARC_ROLLBACK_COUNT = t.rollback % 2 ^ 32 ∧ t.stations = s.stations ∧ t.store = [] ∧
        t.boot.powered = false ∧ t.newel.time = s.newel.time ∧ t.pending = s.pending ∧
        t.agenda = (s.agenda.filter fun e => stationEvent e.2) ∧
        (s.blockInHand = none → t.archive = s.archive ∧ t.archiveBad = s.archiveBad ∧ t.wear = s.wear) ∧
        (s.on F.ARC_STATUS_BUSY = false → t.rollback = s.rollback)) ∧
    (  s.boot.powered = true →
      s.g F.PWR_STEP_STATUS_STEP = 5 →
      Completes (.supplyLoss true) s fun t => t = { s with boot := { s.boot with mainGood := false } }) ∧
    (  s.boot.powered = false →
      Completes (.supplyLoss true) s fun t => t = s) ∧
    (  s.boot.powered = false →
      Completes (.supplyLoss false) s fun t => t = { s with boot := { s.boot with decoded := false } })

/-- Trained storage leads to stage 4, a failed training to boot-hold with its flag. A firmware slot that fails its checks is reported with its outcome and the other slot comes next; one that passes them is copied into the Store and runs; the last one failing leads to boot-hold. A signature outcome that is not given is a free value. The calibration ends with stage 6, CAL 1 for an accepted image and 2 else. Boot complete is stage 7 with the watchdog armed and the time of the boot recorded, and after a climb from Vault PWR_WOKE is posted. In another stage none of these does anything. -/
def Obligations.BootStages : Prop :=
  ∀ s : State,
    (  s.stage = 3 →
      Completes (.storeTraining true) s fun t =>
        t.stage = 4 ∧ t.g F.STO_STATUS_TRAINED = 1 ∧ t.boot = { s.boot with slotsLeft := s.slotOrder, slotFailed := false } ∧
        (s.now + 5250000, Instr.firmwareCheck none 0) ∈ t.agenda ∧
        sameRegs [F.STO_STATUS, F.PWR_BOOT_STATUS, F.ARC_SLOT_VER 0, F.ARC_SLOT_VER 1, F.ARC_SLOT_BUILD 0, F.ARC_SLOT_BUILD 1] s t ∧
        t = { s with regs := t.regs, boot := t.boot, agenda := t.agenda }) ∧
    (  s.stage = 3 →
      Completes (.storeTraining false) s fun t =>
        t.stage = 8 ∧ t.g F.PWR_BOOT_STATUS_STORE_FAIL = 1 ∧ sameRegs [F.PWR_BOOT_STATUS] s t ∧
        t = { s with regs := t.regs, agenda := t.agenda }) ∧
    (∀ (b : Bool) (i : Nat) (j : Nat),
      s.stage = 4 →
      s.boot.slotsLeft = [i, j] →
      i < 2 →
      s.slotOutcome i b ≠ 1 →
      Completes (.firmwareCheck (some b) 0) s fun t =>
        t.g (F.ARC_SLOT_STATE_STATE i) = s.slotOutcome i b ∧ t.boot = { s.boot with slotsLeft := [j], slotFailed := true } ∧
        t.stage = 4 ∧ (s.now + 5250000, Instr.firmwareCheck none 0) ∈ t.agenda ∧
        sameRegs [F.ARC_SLOT_STATE i, C.ARC_CNT_CORR.off] s t ∧
        t = { s with regs := t.regs, moment := t.moment, boot := t.boot, store := t.store, storeBad := t.storeBad, agenda := t.agenda }) ∧
    (∀ (k : Nat) (i : Nat) (l : List Nat),
      s.stage = 4 →
      s.boot.slotsLeft = i :: l →
      i < 2 →
      s.slotOutcome i true = 1 →
      Completes (.firmwareCheck (some true) k) s fun t =>
        t.g (F.ARC_SLOT_STATE_STATE i) = 1 ∧ t.stage = 5 ∧ t.g F.PWR_BOOT_STATUS_FW_SLOT = i + 1 ∧
        t.g F.PWR_BOOT_STATUS_FW_FALLBACK = (if s.boot.slotFailed then 1 else 0) ∧
        t.store = s.store.write 0x5E00000 (s.archive.read (256 * (slotBlock i + 1)) (s.slotWord i 16)) ∧
        (s.now + 10500000, Instr.calibrationLoad 0) ∈ t.agenda ∧
        sameRegs [F.ARC_SLOT_STATE i, F.PWR_BOOT_STATUS, C.ARC_CNT_CORR.off] s t ∧
        t = { s with regs := t.regs, moment := t.moment, boot := { s.boot with slotsLeft := l }, store := t.store
                     storeBad := t.storeBad, agenda := t.agenda }) ∧
    (∀ (k : Nat),
      s.stage = 5 →
      s.imageGood = false →
      s.thermal.running = false →
      Completes (.calibrationLoad k) s fun t =>
        t.stage = 6 ∧ t.g F.PWR_BOOT_STATUS_CAL = 2 ∧
        t.ctr C.ARC_CNT_CORR = C.ARC_CNT_CORR.plus (s.ctr C.ARC_CNT_CORR) k ∧
        (s.now + 450000, Instr.bootComplete) ∈ t.agenda ∧
        t = { s with regs := t.regs, moment := t.moment, store := t.store, storeBad := t.storeBad, thermal := t.thermal
                     agenda := t.agenda, notices := t.notices, link := t.link }) ∧
    (  s.stage = 6 →
      s.on F.THM_STATUS_FORCED = false →
      s.boot.fromVault = false →
      Completes .bootComplete s fun t =>
        t.stage = 7 ∧ t.g F.PWR_BOOT_US_US = min 65535 ((s.time - s.boot.bootFrom) / 1500) ∧
        t.boot = { s.boot with watchdog := true } ∧ t.stair.runFrom = s.time ∧ sameRegs [F.PWR_BOOT_STATUS, F.PWR_BOOT_US] s t ∧
        t = { s with regs := t.regs, boot := t.boot, stair := { s.stair with runFrom := s.time }, agenda := t.agenda }) ∧
    (  s.stage = 6 →
      s.boot.fromVault = true →
      (nth s.notices 1 NoticeRing.idle).held = [] →
      2 ≤ s.notices.length →
      Completes .bootComplete s fun t =>
        t.stage = 7 ∧ t.boot = { s.boot with watchdog := true, fromVault := false } ∧
        (nth t.notices 1 NoticeRing.idle).held.map (fun x => (x.code, x.nseq, x.payload)) =
          [(0x0411, (nth s.notices 1 NoticeRing.idle).nseq, [(s.regs.get F.PWR_WAKE_CAUSE).toNat, 5,
            (s.regs.get F.PWR_COMMIT_TIME_LO).toNat, (s.regs.get F.PWR_COMMIT_TIME_HI).toNat])] ∧
        t.newel = s.newel ∧ t.stations = s.stations ∧ t.store = s.store ∧ t.hall = s.hall) ∧
    (  s.stage ≠ 6 →
      Completes .bootComplete s fun t => t = s) ∧
    (∀ (o : Option Bool) (b : Bool) (k i : Nat) (l : List Nat),
      s.stage = 4 →
      s.boot.slotsLeft = i :: l →
      i < 2 →
      b = o.getD (Config.freeNat s.freeCount % 2 == 1) →
      Completes (.firmwareCheck o k) s fun t =>
        t.g (F.ARC_SLOT_STATE_STATE i) = s.slotOutcome i b ∧ t.boot.slotsLeft = l ∧
        t.stage = (if s.slotOutcome i b = 1 then 5 else if l = [] then 8 else 4) ∧
        t.ctr C.ARC_CNT_CORR = C.ARC_CNT_CORR.plus (s.ctr C.ARC_CNT_CORR) k ∧
        t.newel = s.newel ∧ t.archive = s.archive ∧ t.cams = s.cams ∧ t.stations = s.stations ∧ t.usher = s.usher) ∧
    (∀ (k : Nat),
      s.stage = 5 →
      Completes (.calibrationLoad k) s fun t =>
        t.stage = 6 ∧ t.g F.PWR_BOOT_STATUS_CAL = (if s.imageGood then 1 else 2) ∧ t.thermal.running = true ∧
        (s.imageGood = true → t.store.read 0x4800000 11042048 = s.archive.read (256 * 5760) 11042048) ∧
        (s.now + 450000, Instr.bootComplete) ∈ t.agenda ∧ t.archive = s.archive ∧ t.newel = s.newel ∧ t.cams = s.cams ∧
        t.stations = s.stations ∧ t.usher = s.usher) ∧
    (∀ (b : Bool),
      s.stage ≠ 3 →
      Completes (.storeTraining b) s fun t =>
        t = s) ∧
    (∀ (o : Option Bool) (k : Nat),
      s.stage ≠ 4 ∨ s.boot.slotsLeft = [] →
      Completes (.firmwareCheck o k) s fun t =>
        t = s) ∧
    (∀ (k : Nat),
      s.stage ≠ 5 →
      Completes (.calibrationLoad k) s fun t =>
        t = s)

/-- A full reset, by PERST# or by the keyed write of FULL, after boot and while ticks count, sets its cause, counts in PWR_CNT_FULL and goes on with stage 3, out of holdover, or with stage 2 and a lock sequence, in holdover; rings, Hall and Store are as after power-on, NEWEL_TIME and the galleries stand, and so does the Archive but for a block or a raise in hand, which is finished. PERST# asserted also takes the link down; in a boot it only sets its cause and takes the link down, with derived clocks stopped after boot it is kept for the lock, and on a head without power or at Vault the pin is only noted. Deasserted, it lets the link, which is in reset while ticks count, detect. Without the key a write of PWR_RESET does nothing. A host-side reset (keyed after boot, hot or by loss of a link that is up, or by the armed watchdog on an edge of its domain), with the head powered and not at Vault, sets its cause, counts in PWR_CNT_HOST, returns rings, events, configuration space and the MSI-X table to their reset state and makes the boot report due, while the Newel, the cameras, the galleries, the Archive and the rollback counter stand; a hot reset leaves the link detecting, the loss of the link leaves it down, and the watchdog counts in PWR_CNT_WDOG too. -/
def Obligations.ResetCommands : Prop :=
  ∀ s : State,
    (  s.boot.perst = false →
      s.boot.powered = true →
      s.g F.PWR_STEP_STATUS_STEP ≠ 5 →
      7 ≤ s.stage →
      s.newel.counting = .ticks →
      Completes .perstAssert s fun t =>
        t.boot.perst = true ∧ t.g F.PCI_LINK_STATE = 0 ∧ t.g F.PWR_RESET_CAUSE_PERST = 1 ∧
        t.stage = (if s.newel.phase = .locked then 3 else 2) ∧
        t.newel.phase = (if s.newel.phase = .locked then .locked else .settle) ∧ t.newel.time = s.newel.time ∧
        t.ctr C.PWR_CNT_FULL = C.PWR_CNT_FULL.plus (s.ctr C.PWR_CNT_FULL) 1 ∧
        (s.blockInHand = none → t.archive = s.archive ∧ t.archiveBad = s.archiveBad) ∧ t.wear = s.wear ∧
        (s.on F.ARC_STATUS_BUSY = false → t.rollback = s.rollback) ∧ t.store = [] ∧ t.stations = s.stations ∧
        t.usher.rings = State.reset.usher.rings ∧ t.hall = State.reset.hall ∧ t.now = s.now ∧ t.pending = s.pending) ∧
    (  s.boot.perst = false →
      s.boot.powered = true →
      s.g F.PWR_STEP_STATUS_STEP ≠ 5 →
      s.stage < 7 →
      Completes .perstAssert s fun t =>
        t.g F.PWR_RESET_CAUSE_PERST = 1 ∧ t.g F.PCI_LINK_STATE = 0 ∧ sameRegs [F.PWR_RESET_CAUSE, F.PCI_LINK] s t ∧
        t = { s with regs := t.regs, moment := t.moment, boot := { s.boot with perst := true } }) ∧
    (  s.boot.perst = false →
      s.boot.powered = true →
      s.g F.PWR_STEP_STATUS_STEP ≠ 5 →
      7 ≤ s.stage →
      s.newel.counting ≠ .ticks →
      Completes .perstAssert s fun t =>
        t.g F.PWR_RESET_CAUSE_PERST = 1 ∧ t.g F.PCI_LINK_STATE = 0 ∧
        t.boot = { s.boot with perst := true, resetAtLock := true } ∧
        sameRegs [F.PWR_RESET_CAUSE, F.PCI_LINK, F.PWR_BOOT_STATUS] s t ∧
        t = { s with regs := t.regs, moment := t.moment, boot := t.boot, agenda := t.agenda }) ∧
    (  s.boot.perst = false →
      s.boot.powered = false ∨ s.g F.PWR_STEP_STATUS_STEP = 5 →
      Completes .perstAssert s fun t =>
        t = { s with boot := { s.boot with perst := true } }) ∧
    (  s.newel.counting = .ticks →
      s.g F.PCI_LINK_STATE = 0 →
      Completes .perstDeassert s fun t =>
        t.g F.PCI_LINK_STATE = 1 ∧ sameRegs [F.PCI_LINK] s t ∧
        t = { s with regs := t.regs, boot := { s.boot with perst := false } }) ∧
    (  s.newel.counting ≠ .ticks ∨ s.g F.PCI_LINK_STATE ≠ 0 →
      Completes .perstDeassert s fun t =>
        t = { s with boot := { s.boot with perst := false } }) ∧
    (  s.boot.powered = true →
      7 ≤ s.stage →
      s.newel.counting = .ticks →
      Completes (.resetFull 0xB007) s fun t =>
        t.g F.PWR_RESET_CAUSE_SW_FULL = 1 ∧
        t.stage = (if s.newel.phase = .locked then 3 else 2) ∧
        t.newel.phase = (if s.newel.phase = .locked then .locked else .settle) ∧ t.newel.time = s.newel.time ∧
        t.ctr C.PWR_CNT_FULL = C.PWR_CNT_FULL.plus (s.ctr C.PWR_CNT_FULL) 1 ∧
        (s.blockInHand = none → t.archive = s.archive ∧ t.archiveBad = s.archiveBad) ∧ t.wear = s.wear ∧
        (s.on F.ARC_STATUS_BUSY = false → t.rollback = s.rollback) ∧ t.store = [] ∧ t.stations = s.stations ∧
        t.usher.rings = State.reset.usher.rings ∧ t.hall = State.reset.hall ∧ t.now = s.now ∧ t.pending = s.pending) ∧
    (∀ (k : Nat),
      k ≠ 0xB007 →
      Completes (.resetFull k) s fun t =>
        t = s) ∧
    (  7 ≤ s.stage →
      s.boot.powered = true →
      s.g F.PWR_STEP_STATUS_STEP ≠ 5 →
      Completes (.resetHost 0xB007) s fun t =>
        t.g F.PWR_RESET_CAUSE_SW_HOST = 1 ∧ t.ctr C.PWR_CNT_HOST = C.PWR_CNT_HOST.plus (s.ctr C.PWR_CNT_HOST) 1 ∧
        t.usher.rings = State.reset.usher.rings ∧
        (∀ e, e < 256 → t.regs.get (F.USH_EVENT e) = State.reset.regs.get (F.USH_EVENT e)) ∧
        t.pcie.config = State.reset.pcie.config ∧ t.pcie.vectors = State.reset.pcie.vectors ∧ t.hall.hostLost = true ∧
        t.boot.reportDue = true ∧ t.cams = s.cams ∧ t.stations = s.stations ∧ t.newel = s.newel ∧ t.archive = s.archive ∧
        t.wear = s.wear ∧ t.rollback = s.rollback) ∧
    (∀ (k : Nat),
      k ≠ 0xB007 →
      Completes (.resetHost k) s fun t =>
        t = s) ∧
    (  s.linkUp = true →
      s.boot.powered = true →
      s.g F.PWR_STEP_STATUS_STEP ≠ 5 →
      Completes .hotReset s fun t =>
        t.g F.PWR_RESET_CAUSE_HOT = 1 ∧ t.ctr C.PWR_CNT_HOST = C.PWR_CNT_HOST.plus (s.ctr C.PWR_CNT_HOST) 1 ∧ t.g F.PCI_LINK_STATE = 1 ∧
        t.usher.rings = State.reset.usher.rings ∧
        (∀ e, e < 256 → t.regs.get (F.USH_EVENT e) = State.reset.regs.get (F.USH_EVENT e)) ∧
        t.pcie.config = State.reset.pcie.config ∧ t.pcie.vectors = State.reset.pcie.vectors ∧ t.hall.hostLost = true ∧
        t.boot.reportDue = true ∧ t.cams = s.cams ∧ t.stations = s.stations ∧ t.newel = s.newel ∧ t.archive = s.archive ∧
        t.wear = s.wear ∧ t.rollback = s.rollback) ∧
    (  s.linkUp = true →
      s.boot.powered = true →
      s.g F.PWR_STEP_STATUS_STEP ≠ 5 →
      Completes .linkDown s fun t =>
        t.g F.PWR_RESET_CAUSE_LINK_DOWN = 1 ∧ t.ctr C.PWR_CNT_HOST = C.PWR_CNT_HOST.plus (s.ctr C.PWR_CNT_HOST) 1 ∧ t.g F.PCI_LINK_STATE = 0 ∧
        t.usher.rings = State.reset.usher.rings ∧
        (∀ e, e < 256 → t.regs.get (F.USH_EVENT e) = State.reset.regs.get (F.USH_EVENT e)) ∧
        t.pcie.config = State.reset.pcie.config ∧ t.pcie.vectors = State.reset.pcie.vectors ∧ t.hall.hostLost = true ∧
        t.boot.reportDue = true ∧ t.cams = s.cams ∧ t.stations = s.stations ∧ t.newel = s.newel ∧ t.archive = s.archive ∧
        t.wear = s.wear ∧ t.rollback = s.rollback) ∧
    (  s.boot.watchdog = true →
      s.rises 55 = true →
      s.boot.powered = true →
      s.g F.PWR_STEP_STATUS_STEP ≠ 5 →
      Completes .watchdogExpiry s fun t =>
        t.g F.PWR_RESET_CAUSE_WDOG = 1 ∧ t.ctr C.PWR_CNT_HOST = C.PWR_CNT_HOST.plus (s.ctr C.PWR_CNT_HOST) 1 ∧ t.ctr C.PWR_CNT_WDOG = C.PWR_CNT_WDOG.plus (s.ctr C.PWR_CNT_WDOG) 1 ∧
        t.usher.rings = State.reset.usher.rings ∧
        (∀ e, e < 256 → t.regs.get (F.USH_EVENT e) = State.reset.regs.get (F.USH_EVENT e)) ∧
        t.pcie.config = State.reset.pcie.config ∧ t.pcie.vectors = State.reset.pcie.vectors ∧ t.hall.hostLost = true ∧
        t.boot.reportDue = true ∧ t.cams = s.cams ∧ t.stations = s.stations ∧ t.newel = s.newel ∧ t.archive = s.archive ∧
        t.wear = s.wear ∧ t.rollback = s.rollback)

/-- A target deeper than the step, at Run, Poise or Rest with no entry in progress and no flight armed that forbids it, begins an entry: TARGET and ENTRY hold it, PHASE is 1, the conditions of Quiesce are looked at, and at Run the array runs until this tick. A value above 5 is refused with reason 6. A target that is not deeper, at Poise or Rest, is a wake by HOST_WRITE and begins a climb, to Run where it is 0, else as WAKE_TARGET says, which ends after the typical leave time or at once where no step is left. QUIESCE_END in PHASE 1: where the conditions that apply to the target hold (for Dormant after the link has been sent to L1.2), PHASE is 3 and the commit point comes, or with cycles running and a target of Rest or deeper PHASE is 2 and the OUTSET frames park for it; else they are looked at again. The commit tick records NEWEL_TIME and is PHASE 4 with the typical power-down ahead. At its end, with no wake and no target kept for it, STEP is the target, ENTRY and PHASE are 0, and from Hush down the loop is off; with a wake held for it (down to Rest) a climb begins at once. A climb ends, with the Newel counting, no target kept for its end and no forced entry, at its step with PHASE 0, OUTSET frames parking only at Rest, and the host requests that waited are served. -/
def Obligations.StepRequests : Prop :=
  ∀ s : State,
    (∀ (v : Nat),
      s.boot.powered = true →
      7 ≤ s.stage →
      s.step_ ≤ 2 →
      s.entry = 0 →
      s.phase = 0 →
      s.step_ < v →
      v < 6 →
      v < 2 ∨ s.on F.USH_FLIGHT_ARMED = false →
      Completes (.stepRequest v) s fun t =>
        t.g F.PWR_STEP_CTRL_TARGET = v ∧ t.entry = v ∧ t.phase = 1 ∧ t.step_ = s.step_ ∧
        (∃ e ∈ t.agenda, e.2 = Instr.quiesceEnd) ∧
        t.stair = { s.stair with runUntil := if s.step_ = 0 then s.time else s.stair.runUntil } ∧
        sameRegs [F.PWR_STEP_CTRL, F.PWR_STEP_STATUS] s t ∧ t = { s with regs := t.regs, stair := t.stair, agenda := t.agenda }) ∧
    (∀ (v : Nat),
      s.step_ ≤ 2 →
      6 ≤ v →
      Completes (.stepRequest v) s fun t =>
        t.ctr C.STP_CNT_REFUSED = C.STP_CNT_REFUSED.plus (s.ctr C.STP_CNT_REFUSED) 1 ∧
        t.g F.STP_LAST_REFUSED_OFFSET = F.PWR_STEP_CTRL ∧ t.g F.STP_LAST_REFUSED_REASON = 6 ∧
        sameRegs [F.STP_CNT_REFUSED, F.STP_LAST_REFUSED] s t ∧ t = { s with regs := t.regs, moment := t.moment }) ∧
    (∀ (v : Nat),
      s.boot.powered = true →
      7 ≤ s.stage →
      s.step_ = 1 ∨ s.step_ = 2 →
      s.entry = 0 →
      s.phase = 0 →
      v ≤ s.step_ →
      v < 2 ∨ s.on F.USH_FLIGHT_ARMED = false →
      Completes (.hostWriteWake v) s fun t =>
        t.g F.PWR_STEP_CTRL_TARGET = v ∧ t.g F.PWR_WAKE_CAUSE_HOST_WRITE = 1 ∧ t.phase = 5 ∧ t.step_ = s.step_ ∧
        t.ctr C.PWR_CNT_WAKE = C.PWR_CNT_WAKE.plus (s.ctr C.PWR_CNT_WAKE) 1 ∧
        t.stair = { s.stair with left := s.step_, climbTo := s.climbGoal (v == 0) } ∧
        t.agenda = s.agenda ++
          [(s.now + (if s.step_ ≤ s.climbGoal (v == 0) then 0 else nth leaveTypical s.step_ 0), .climbComplete)] ∧
        sameRegs [F.PWR_STEP_CTRL, F.PWR_STEP_STATUS, F.PWR_WAKE_CAUSE, C.PWR_CNT_WAKE.off] s t ∧
        t = { s with regs := t.regs, moment := t.moment, stair := t.stair, agenda := t.agenda }) ∧
    (  s.entry ≠ 0 →
      s.phase = 1 →
      (if s.entry = 4 ∧ s.g F.PCI_LINK_STATE = 3 then s.linkSleep true else s).quiet = true →
      s.entry < 2 ∨ s.linkState ≠ 5 ∨ s.link.cycling = false ∨ s.link.closing = true →
      Completes .quiesceEnd s fun t =>
        t.phase = 3 ∧ t.entry = s.entry ∧ t.agenda = s.agenda ++ [(s.now, .commitPoint)] ∧
        sameRegs [F.PWR_STEP_STATUS, F.PCI_LINK] s t ∧ t = { s with regs := t.regs, agenda := t.agenda }) ∧
    (  2 ≤ s.entry →
      s.phase = 1 →
      (if s.entry = 4 ∧ s.g F.PCI_LINK_STATE = 3 then s.linkSleep true else s).quiet = true →
      s.linkState = 5 →
      s.link.cycling = true →
      s.link.closing = false →
      Completes .quiesceEnd s fun t =>
        t.phase = 2 ∧ t.entry = s.entry ∧ t.link = { s.link with park := s.entry } ∧
        t.stair = { s.stair with parkFrom := s.time, parkCycles := 0 } ∧ t.agenda = s.agenda ++ [(s.now + 1, .quiesceEnd)] ∧
        sameRegs [F.PWR_STEP_STATUS, F.PCI_LINK] s t ∧
        t = { s with regs := t.regs, link := t.link, stair := t.stair, agenda := t.agenda }) ∧
    (  s.entry ≠ 0 →
      s.phase = 1 →
      (if s.entry = 4 ∧ s.g F.PCI_LINK_STATE = 3 then s.linkSleep true else s).quiet = false →
      Completes .quiesceEnd s fun t =>
        (∃ e ∈ t.agenda, e.2 = Instr.quiesceEnd) ∧ sameRegs [F.PCI_LINK] s t ∧
        t = { s with regs := t.regs, agenda := t.agenda }) ∧
    (  s.entry ≠ 0 →
      s.phase = 3 ∨ s.parkOver = true →
      Completes .commitPoint s fun t =>
        t.phase = 4 ∧ t.entry = s.entry ∧ t.getPair F.PWR_COMMIT_TIME_LO = s.time % 2 ^ 64 ∧
        t.stair = { s.stair with commitNow := s.now } ∧ (s.now + 1, Instr.commitPoint) ∈ t.agenda ∧
        (s.now + nth powerDownTicks s.entry 0, Instr.stepReached) ∈ t.agenda ∧
        sameRegs [F.PWR_STEP_STATUS, F.PWR_COMMIT_TIME_LO, F.PWR_COMMIT_TIME_HI] s t ∧
        t = { s with regs := t.regs, stair := t.stair, agenda := t.agenda }) ∧
    (  s.phase = 4 →
      s.stair.commitNow + nth powerDownTicks s.entry 0 ≤ s.now →
      s.stair.wakeHeld = false →
      s.stair.late = none →
      Completes .stepReached s fun t =>
        t.step_ = s.entry ∧ t.entry = 0 ∧ t.phase = 0 ∧ t.stair = s.stair ∧ (3 ≤ s.entry → t.newel.phase = .off) ∧
        (s.entry < 3 → sameRegs [F.PWR_STEP_STATUS] s t ∧ t = { s with regs := t.regs }) ∧
        (s.entry = 3 → sameRegs [F.PWR_STEP_STATUS, F.NWL_STATUS] s t ∧
          t = { s with regs := t.regs, newel := t.newel, agenda := t.agenda })) ∧
    (  s.phase = 4 →
      s.stair.commitNow + nth powerDownTicks s.entry 0 ≤ s.now →
      s.stair.wakeHeld = true →
      s.entry < 3 →
      Completes .stepReached s fun t =>
        t.step_ = s.entry ∧ t.entry = 0 ∧ t.stair.wakeHeld = false ∧ t.stair.left = s.entry ∧ t.phase = 5) ∧
    (  s.phase = 5 →
      s.newel.counting = .ticks →
      s.stair.left ≤ 4 →
      s.stair.late = none →
      s.on F.PWR_STEP_STATUS_FORCED = false →
      Completes .climbComplete s fun t =>
        t.step_ = min s.stair.climbTo s.stair.left ∧ t.phase = 0 ∧ t.pcie.waiting = [] ∧
        t.link.park = (if min s.stair.climbTo s.stair.left = 2 then 2 else 0) ∧ t.newel = s.newel ∧ t.boot = s.boot ∧
        t.stations = s.stations ∧ t.archive = s.archive)

/-- Each wake that PWR_WAKE_EN enables sets its cause in PWR_WAKE_CAUSE, with the head powered and boot complete. A wake unit at Poise or Rest, with no entry in progress, begins a climb and counts in PWR_CNT_WAKE: PHASE 5, the step left and the goal held, the end of the climb after the typical leave time of the step, or at once where no step is left; in a climb from those steps it only sets its cause, and where the shallow detector does not run or is not enabled it changes nothing. A whole phrase begun after the commit tick, the exit of the host link from L1.2 and TRIG0: at Hush or Dormant they begin a climb in the same way, with the lock sequence after the typical leave time; in the power-down to Hush or deeper (for the host link to Hush or Dormant) the wake is held for the step; in a climb from those steps they only set their cause. At Vault a phrase and TRIG0 count; with main good they begin the cold boot with cause VAULT, stage 1 and the Archive untouched, without main the wake is held. -/
def Obligations.WakeCommands : Prop :=
  ∀ s : State,
    (  s.boot.powered = true →
      7 ≤ s.stage →
      s.on F.PWR_WAKE_EN_PHRASE = true →
      s.step_ = 1 ∨ s.step_ = 2 →
      s.entry = 0 →
      s.phase = 0 →
      Completes .wakeUnitAccepted s fun t =>
        t.g F.PWR_WAKE_CAUSE_PHRASE = 1 ∧ t.phase = 5 ∧ t.step_ = s.step_ ∧
        t.ctr C.PWR_CNT_WAKE = C.PWR_CNT_WAKE.plus (s.ctr C.PWR_CNT_WAKE) 1 ∧
        t.stair = { s.stair with left := s.step_, climbTo := s.climbGoal false } ∧
        (s.now + (if s.step_ ≤ s.climbGoal false then 0 else nth leaveTypical s.step_ 0), Instr.climbComplete) ∈ t.agenda ∧
        sameRegs [F.PWR_STEP_STATUS, F.PWR_WAKE_CAUSE, C.PWR_CNT_WAKE.off] s t ∧
        t = { s with regs := t.regs, moment := t.moment, stair := t.stair, agenda := t.agenda }) ∧
    (  s.boot.powered = true →
      7 ≤ s.stage →
      s.on F.PWR_WAKE_EN_PHRASE = true →
      s.phase = 5 →
      s.stair.left ≤ 2 →
      Completes .wakeUnitAccepted s fun t =>
        t.g F.PWR_WAKE_CAUSE_PHRASE = 1 ∧ sameRegs [F.PWR_WAKE_CAUSE] s t ∧
        t = { s with regs := t.regs, moment := t.moment, agenda := t.agenda }) ∧
    (  s.on F.PWR_WAKE_EN_PHRASE = false ∨ s.shallow = false →
      Completes .wakeUnitAccepted s fun t =>
        t = { s with agenda := t.agenda }) ∧
    (∀ (b : Nat),
      s.boot.powered = true →
      7 ≤ s.stage →
      s.on F.PWR_WAKE_EN_PHRASE = true →
      b + 30720 ≤ s.now →
      s.stair.commitNow < b →
      s.step_ = 3 ∨ s.step_ = 4 →
      s.entry = 0 →
      s.phase = 0 →
      Completes (.wakePhraseAccepted b) s fun t =>
        t.g F.PWR_WAKE_CAUSE_PHRASE = 1 ∧ t.phase = 5 ∧ t.step_ = s.step_ ∧
        t.ctr C.PWR_CNT_WAKE = C.PWR_CNT_WAKE.plus (s.ctr C.PWR_CNT_WAKE) 1 ∧
        t.stair = { s.stair with left := s.step_, climbTo := s.climbGoal false } ∧
        (s.now + nth leaveTypical s.step_ 0, Instr.lockSequence) ∈ t.agenda ∧
        sameRegs [F.PWR_STEP_STATUS, F.PWR_WAKE_CAUSE, C.PWR_CNT_WAKE.off] s t ∧
        t = { s with regs := t.regs, moment := t.moment, stair := t.stair, agenda := t.agenda }) ∧
    (∀ (b : Nat),
      s.boot.powered = true →
      7 ≤ s.stage →
      s.on F.PWR_WAKE_EN_PHRASE = true →
      b + 30720 ≤ s.now →
      s.stair.commitNow < b →
      s.phase = 4 →
      3 ≤ s.entry →
      s.stair.commitNow < s.now →
      Completes (.wakePhraseAccepted b) s fun t =>
        t.g F.PWR_WAKE_CAUSE_PHRASE = 1 ∧ t.stair = { s.stair with wakeHeld := true } ∧ sameRegs [F.PWR_WAKE_CAUSE] s t ∧
        t = { s with regs := t.regs, moment := t.moment, stair := t.stair, agenda := t.agenda }) ∧
    (∀ (b : Nat),
      s.boot.powered = true →
      7 ≤ s.stage →
      s.on F.PWR_WAKE_EN_PHRASE = true →
      b + 30720 ≤ s.now →
      s.stair.commitNow < b →
      s.phase = 5 →
      3 ≤ s.stair.left →
      Completes (.wakePhraseAccepted b) s fun t =>
        t.g F.PWR_WAKE_CAUSE_PHRASE = 1 ∧ sameRegs [F.PWR_WAKE_CAUSE] s t ∧
        t = { s with regs := t.regs, moment := t.moment, agenda := t.agenda }) ∧
    (∀ (b : Nat),
      s.boot.powered = true →
      7 ≤ s.stage →
      s.on F.PWR_WAKE_EN_PHRASE = true →
      b + 30720 ≤ s.now →
      s.stair.commitNow < b →
      s.step_ = 5 →
      s.entry = 0 →
      s.phase = 0 →
      s.boot.mainGood = false →
      Completes (.wakePhraseAccepted b) s fun t =>
        t.g F.PWR_WAKE_CAUSE_PHRASE = 1 ∧ t.phase = 5 ∧ t.boot = { s.boot with vaultWake := true } ∧
        t.ctr C.PWR_CNT_WAKE = C.PWR_CNT_WAKE.plus (s.ctr C.PWR_CNT_WAKE) 1 ∧
        sameRegs [F.PWR_STEP_STATUS, F.PWR_WAKE_CAUSE, C.PWR_CNT_WAKE.off] s t ∧
        t = { s with regs := t.regs, moment := t.moment, stair := t.stair, boot := t.boot, agenda := t.agenda }) ∧
    (∀ (b : Nat),
      s.boot.powered = true →
      7 ≤ s.stage →
      s.on F.PWR_WAKE_EN_PHRASE = true →
      b + 30720 ≤ s.now →
      s.stair.commitNow < b →
      s.step_ = 5 →
      s.entry = 0 →
      s.phase = 0 →
      s.boot.mainGood = true →
      Completes (.wakePhraseAccepted b) s fun t =>
        t.g F.PWR_WAKE_CAUSE_PHRASE = 1 ∧ t.g F.PWR_RESET_CAUSE_VAULT = 1 ∧ t.stage = 1 ∧ t.boot.powered = true ∧ t.step_ = 0 ∧
        t.ctr C.PWR_CNT_WAKE = C.PWR_CNT_WAKE.plus (s.ctr C.PWR_CNT_WAKE) 1 ∧ t.archive = s.archive) ∧
    (  s.boot.powered = true →
      7 ≤ s.stage →
      s.on F.PWR_WAKE_EN_HOST_LINK = true →
      s.g F.PCI_LINK_STATE = 4 →
      s.step_ = 3 ∨ s.step_ = 4 →
      s.entry = 0 →
      s.phase = 0 →
      Completes .hostLinkExit s fun t =>
        t.g F.PWR_WAKE_CAUSE_HOST_LINK = 1 ∧ t.phase = 5 ∧ t.step_ = s.step_ ∧
        t.ctr C.PWR_CNT_WAKE = C.PWR_CNT_WAKE.plus (s.ctr C.PWR_CNT_WAKE) 1 ∧
        t.stair = { s.stair with left := s.step_, climbTo := s.climbGoal false } ∧
        (s.now + nth leaveTypical s.step_ 0, Instr.lockSequence) ∈ t.agenda ∧
        sameRegs [F.PWR_STEP_STATUS, F.PWR_WAKE_CAUSE, C.PWR_CNT_WAKE.off] s t ∧
        t = { s with regs := t.regs, moment := t.moment, stair := t.stair, agenda := t.agenda }) ∧
    (  s.boot.powered = true →
      7 ≤ s.stage →
      s.on F.PWR_WAKE_EN_HOST_LINK = true →
      s.g F.PCI_LINK_STATE = 4 →
      s.phase = 4 →
      3 ≤ s.entry ∧ s.entry ≤ 4 →
      s.stair.commitNow < s.now →
      Completes .hostLinkExit s fun t =>
        t.g F.PWR_WAKE_CAUSE_HOST_LINK = 1 ∧ t.stair = { s.stair with wakeHeld := true } ∧ sameRegs [F.PWR_WAKE_CAUSE] s t ∧
        t = { s with regs := t.regs, moment := t.moment, stair := t.stair, agenda := t.agenda }) ∧
    (  s.boot.powered = true →
      7 ≤ s.stage →
      s.on F.PWR_WAKE_EN_HOST_LINK = true →
      s.g F.PCI_LINK_STATE = 4 →
      s.phase = 5 →
      3 ≤ s.stair.left ∧ s.stair.left ≤ 4 →
      Completes .hostLinkExit s fun t =>
        t.g F.PWR_WAKE_CAUSE_HOST_LINK = 1 ∧ sameRegs [F.PWR_WAKE_CAUSE] s t ∧
        t = { s with regs := t.regs, moment := t.moment, agenda := t.agenda }) ∧
    (  s.boot.powered = true →
      7 ≤ s.stage →
      s.on F.PWR_WAKE_EN_TRIG0 = true →
      s.step_ = 3 ∨ s.step_ = 4 →
      s.entry = 0 →
      s.phase = 0 →
      Completes .trig0Wake s fun t =>
        t.g F.PWR_WAKE_CAUSE_TRIG0 = 1 ∧ t.phase = 5 ∧ t.step_ = s.step_ ∧
        t.ctr C.PWR_CNT_WAKE = C.PWR_CNT_WAKE.plus (s.ctr C.PWR_CNT_WAKE) 1 ∧
        t.stair = { s.stair with left := s.step_, climbTo := s.climbGoal false } ∧
        (s.now + nth leaveTypical s.step_ 0, Instr.lockSequence) ∈ t.agenda ∧
        sameRegs [F.PWR_STEP_STATUS, F.PWR_WAKE_CAUSE, C.PWR_CNT_WAKE.off] s t ∧
        t = { s with regs := t.regs, moment := t.moment, stair := t.stair, agenda := t.agenda }) ∧
    (  s.boot.powered = true →
      7 ≤ s.stage →
      s.on F.PWR_WAKE_EN_TRIG0 = true →
      s.phase = 4 →
      3 ≤ s.entry →
      s.stair.commitNow < s.now →
      Completes .trig0Wake s fun t =>
        t.g F.PWR_WAKE_CAUSE_TRIG0 = 1 ∧ t.stair = { s.stair with wakeHeld := true } ∧ sameRegs [F.PWR_WAKE_CAUSE] s t ∧
        t = { s with regs := t.regs, moment := t.moment, stair := t.stair, agenda := t.agenda }) ∧
    (  s.boot.powered = true →
      7 ≤ s.stage →
      s.on F.PWR_WAKE_EN_TRIG0 = true →
      s.phase = 5 →
      3 ≤ s.stair.left →
      Completes .trig0Wake s fun t =>
        t.g F.PWR_WAKE_CAUSE_TRIG0 = 1 ∧ sameRegs [F.PWR_WAKE_CAUSE] s t ∧
        t = { s with regs := t.regs, moment := t.moment, agenda := t.agenda }) ∧
    (  s.boot.powered = true →
      7 ≤ s.stage →
      s.on F.PWR_WAKE_EN_TRIG0 = true →
      s.step_ = 5 →
      s.entry = 0 →
      s.phase = 0 →
      s.boot.mainGood = false →
      Completes .trig0Wake s fun t =>
        t.g F.PWR_WAKE_CAUSE_TRIG0 = 1 ∧ t.phase = 5 ∧ t.boot = { s.boot with vaultWake := true } ∧
        t.ctr C.PWR_CNT_WAKE = C.PWR_CNT_WAKE.plus (s.ctr C.PWR_CNT_WAKE) 1 ∧
        sameRegs [F.PWR_STEP_STATUS, F.PWR_WAKE_CAUSE, C.PWR_CNT_WAKE.off] s t ∧
        t = { s with regs := t.regs, moment := t.moment, stair := t.stair, boot := t.boot, agenda := t.agenda }) ∧
    (  s.boot.powered = true →
      7 ≤ s.stage →
      s.on F.PWR_WAKE_EN_TRIG0 = true →
      s.step_ = 5 →
      s.entry = 0 →
      s.phase = 0 →
      s.boot.mainGood = true →
      Completes .trig0Wake s fun t =>
        t.g F.PWR_WAKE_CAUSE_TRIG0 = 1 ∧ t.g F.PWR_RESET_CAUSE_VAULT = 1 ∧ t.stage = 1 ∧ t.boot.powered = true ∧ t.step_ = 0 ∧
        t.ctr C.PWR_CNT_WAKE = C.PWR_CNT_WAKE.plus (s.ctr C.PWR_CNT_WAKE) 1 ∧ t.archive = s.archive)

/-- A start of a camera that is not active, with a band in place, makes it active with PERIOD as it stands and no burst: in trigger modes 0 and 3 of a camera that does not follow the other its first slot lies 3,000 ticks ahead without a start time, or on the grid of the start time, and its setup tick 3,000 ticks before; in modes 1 and 2, and for W1 linked, it has no slot. On an active camera or without a band a start only sets RUN. A stop ends the slots and the burst of an active camera and clears RUN. At the setup tick of its slot, 3,000 ticks ahead, an active camera gets a frame that starts there where the array runs and the start is admissible; an inadmissible slot is skipped and counted, and where the array does not run the slot passes without a count (both here while the other camera has no slot). A software trigger of one active camera, accepted since its start while the array runs, in trigger modes 1 and 2: an admissible one sets up a frame at its own tick plus the delay, in mode 1 with its slots untouched and in mode 2 with BURST_LEFT at the burst length that landed; one while a burst runs, or not admissible, is dropped and counted. -/
def Obligations.CameraControl : Prop :=
  ∀ s : State,
    (∀ (c : Nat),
      c < 2 →
      (s.cam c).active = false →
      s.g (F.ARR_CAM_BAND_FIRST_PAIR c) ≤ s.g (F.ARR_CAM_BAND_LAST_PAIR c) →
      s.g (F.ARR_CAM_CTRL_MODE c) = 0 ∨ s.g (F.ARR_CAM_CTRL_MODE c) = 3 →
      c = 0 ∨ s.on (F.ARR_CAM_CTRL_LINK 1) = false →
      s.getPair (F.ARR_START_TIME_LO c) = 0 →
      Completes (.cameraStart c) s fun t =>
        t.g (F.ARR_CAM_CTRL_RUN c) = 1 ∧ t.g (F.ARR_CAM_STATUS_BURST_LEFT c) = 0 ∧
        t.cams = (modNth s.cams c fun x => { x with active := true, startedAt := s.time, period := s.g (F.ARR_PERIOD_TICKS c)
                                                    nextSlot := some (s.time + 3000), burstAhead := 0, passed := none }) ∧
        t.agenda = s.agenda ++ [(s.now, .setupTick c)] ∧
        sameRegs [F.ARR_CAM_CTRL c, F.ARR_CAM_STATUS c] s t ∧ t = { s with regs := t.regs, cams := t.cams, agenda := t.agenda }) ∧
    (∀ (c g f : Nat),
      c < 2 →
      (s.cam c).active = false →
      s.g (F.ARR_CAM_BAND_FIRST_PAIR c) ≤ s.g (F.ARR_CAM_BAND_LAST_PAIR c) →
      s.g (F.ARR_CAM_CTRL_MODE c) = 0 ∨ s.g (F.ARR_CAM_CTRL_MODE c) = 3 →
      c = 0 ∨ s.on (F.ARR_CAM_CTRL_LINK 1) = false →
      s.getPair (F.ARR_START_TIME_LO c) = g →
      g ≠ 0 →
      f = (if g ≤ s.time + 3000 then gridEdge g (s.g (F.ARR_PERIOD_TICKS c)) (s.time + 3000)
        else g - (g - (s.time + 3000)) / s.g (F.ARR_PERIOD_TICKS c) * s.g (F.ARR_PERIOD_TICKS c)) →
      Completes (.cameraStart c) s fun t =>
        t.g (F.ARR_CAM_CTRL_RUN c) = 1 ∧ t.g (F.ARR_CAM_STATUS_BURST_LEFT c) = 0 ∧
        t.cams = (modNth s.cams c fun x => { x with active := true, startedAt := s.time, period := s.g (F.ARR_PERIOD_TICKS c)
                                                    nextSlot := some f, burstAhead := 0, passed := none }) ∧
        t.agenda = s.agenda ++ [(s.now + (f - 3000 - s.time), .setupTick c)] ∧
        sameRegs [F.ARR_CAM_CTRL c, F.ARR_CAM_STATUS c] s t ∧ t = { s with regs := t.regs, cams := t.cams, agenda := t.agenda }) ∧
    (∀ (c : Nat),
      c < 2 →
      (s.cam c).active = false →
      s.g (F.ARR_CAM_BAND_FIRST_PAIR c) ≤ s.g (F.ARR_CAM_BAND_LAST_PAIR c) →
      (c = 1 ∧ s.on (F.ARR_CAM_CTRL_LINK 1) = true) ∨ s.g (F.ARR_CAM_CTRL_MODE c) = 1 ∨ s.g (F.ARR_CAM_CTRL_MODE c) = 2 →
      Completes (.cameraStart c) s fun t =>
        t.g (F.ARR_CAM_CTRL_RUN c) = 1 ∧ t.g (F.ARR_CAM_STATUS_BURST_LEFT c) = 0 ∧
        t.cams = (modNth s.cams c fun x => { x with active := true, startedAt := s.time, period := s.g (F.ARR_PERIOD_TICKS c)
                                                    nextSlot := none, burstAhead := 0, passed := none }) ∧
        sameRegs [F.ARR_CAM_CTRL c, F.ARR_CAM_STATUS c] s t ∧ t = { s with regs := t.regs, cams := t.cams }) ∧
    (∀ (c : Nat),
      c < 2 →
      (s.cam c).active = true ∨ s.g (F.ARR_CAM_BAND_LAST_PAIR c) < s.g (F.ARR_CAM_BAND_FIRST_PAIR c) →
      Completes (.cameraStart c) s fun t =>
        t.g (F.ARR_CAM_CTRL_RUN c) = 1 ∧ sameRegs [F.ARR_CAM_CTRL c] s t ∧ t = { s with regs := t.regs }) ∧
    (∀ (c : Nat),
      c < 2 →
      (s.cam c).active = true →
      Completes (.cameraStop c) s fun t =>
        t.g (F.ARR_CAM_CTRL_RUN c) = 0 ∧ t.g (F.ARR_CAM_STATUS_BURST_LEFT c) = 0 ∧
        t.cams = (modNth s.cams c fun x => { x with active := false, stoppedAt := s.time, nextSlot := none, burstAhead := 0 }) ∧
        sameRegs [F.ARR_CAM_CTRL c, F.ARR_CAM_STATUS c] s t ∧ t = { s with regs := t.regs, cams := t.cams }) ∧
    (∀ (c : Nat),
      c < 2 →
      (s.cam c).active = false →
      Completes (.cameraStop c) s fun t =>
        t.g (F.ARR_CAM_CTRL_RUN c) = 0 ∧ sameRegs [F.ARR_CAM_CTRL c] s t ∧ t = { s with regs := t.regs }) ∧
    (∀ (c : Nat),
      c < 2 →
      (s.cam c).active = true →
      (s.cam c).nextSlot = some (s.time + 3000) →
      s.arrayRuns = true →
      s.admissible c (s.time + 3000) (s.schedFor c s.time) = true →
      Completes (.setupTick c) s fun t =>
        (∃ f ∈ (t.cam c).frames, f.start = s.time + 3000 ∧ f.started = false) ∧
        (s.now + 3000, Instr.frameStart c) ∈ t.agenda ∧ t.newel = s.newel ∧ t.boot = s.boot ∧ t.link = s.link ∧ t.stations = s.stations ∧ t.store = s.store) ∧
    (∀ (c : Nat),
      c < 2 →
      (s.cam c).active = true →
      (s.cam c).nextSlot = some (s.time + 3000) →
      (s.cam (1 - c)).nextSlot = none →
      s.arrayRuns = true →
      s.admissible c (s.time + 3000) (s.schedFor c s.time) = false →
      Completes (.setupTick c) s fun t =>
        t.ctr (C.ARR_CNT_SLOT_SKIP c) = (C.ARR_CNT_SLOT_SKIP c).plus (s.ctr (C.ARR_CNT_SLOT_SKIP c)) 1 ∧
        (t.cam c).frames = (s.cam c).frames ∧ t.cam (1 - c) = s.cam (1 - c) ∧
        sameRegs [F.ARR_FLAGS, (C.ARR_CNT_SLOT_SKIP c).off, F.ARR_CAM_STATUS c, (C.USH_CNT_NQ_LOST 1).off] s t) ∧
    (∀ (c : Nat),
      c < 2 →
      (s.cam c).active = true →
      (s.cam c).nextSlot = some (s.time + 3000) →
      (s.cam (1 - c)).nextSlot = none →
      s.arrayRuns = false →
      Completes (.setupTick c) s fun t =>
        (t.cam c).frames = (s.cam c).frames ∧ t.cam (1 - c) = s.cam (1 - c) ∧ sameRegs [F.ARR_CAM_STATUS c] s t ∧
        t = { s with regs := t.regs, cams := t.cams, placed := t.placed, agenda := t.agenda }) ∧
    (∀ (c m : Nat),
      c < 2 →
      bitN m c = true →
      bitN m (1 - c) = false →
      s.g (F.ARR_CAM_CTRL_TRIG_SRC c) = 34 →
      c = 0 ∨ s.on (F.ARR_CAM_CTRL_LINK 1) = false →
      (s.cam c).active = true →
      (s.cam c).startedAt ≤ s.time →
      s.arrayRanAt s.time = true →
      s.g (F.ARR_CAM_CTRL_MODE c) = 1 ∨ s.g (F.ARR_CAM_CTRL_MODE c) = 2 →
      s.g (F.ARR_CAM_STATUS_BURST_LEFT c) = 0 →
      s.admissible c (s.time + (s.schedFor c s.time).trigDelay) (s.schedFor c s.time) = true →
      Completes (.softwareTrigger m) s fun t =>
        (∃ f ∈ (t.cam c).frames, f.start = s.time + (s.schedFor c s.time).trigDelay ∧ f.started = false) ∧
        (s.now + (s.schedFor c s.time).trigDelay, Instr.frameStart c) ∈ t.agenda ∧
        (s.g (F.ARR_CAM_CTRL_MODE c) = 1 → (t.cam c).nextSlot = (s.cam c).nextSlot) ∧
        (s.g (F.ARR_CAM_CTRL_MODE c) = 2 →
          t.g (F.ARR_CAM_STATUS_BURST_LEFT c) = t.e (F.ARR_BURST_LEN_FRAMES c)) ∧ t.newel = s.newel ∧ t.boot = s.boot ∧ t.link = s.link ∧ t.stations = s.stations ∧ t.store = s.store) ∧
    (∀ (c m : Nat),
      c < 2 →
      bitN m c = true →
      bitN m (1 - c) = false →
      s.g (F.ARR_CAM_CTRL_TRIG_SRC c) = 34 →
      c = 0 ∨ s.on (F.ARR_CAM_CTRL_LINK 1) = false →
      (s.cam c).active = true →
      (s.cam c).startedAt ≤ s.time →
      s.arrayRanAt s.time = true →
      s.g (F.ARR_CAM_CTRL_MODE c) = 1 ∨ s.g (F.ARR_CAM_CTRL_MODE c) = 2 →
      s.g (F.ARR_CAM_STATUS_BURST_LEFT c) ≠ 0 ∨
        s.admissible c (s.time + (s.schedFor c s.time).trigDelay) (s.schedFor c s.time) = false →
      Completes (.softwareTrigger m) s fun t =>
        t.ctr (C.ARR_CNT_TRIG_DROP c) = (C.ARR_CNT_TRIG_DROP c).plus (s.ctr (C.ARR_CNT_TRIG_DROP c)) 1 ∧ t.cams = s.cams ∧
        sameRegs [F.ARR_FLAGS, (C.ARR_CNT_TRIG_DROP c).off, (C.USH_CNT_NQ_LOST 1).off] s t)

/-- A node reset 750 ticks before a sub-exposure of the node empties it; an exposure start on the tick of a sub-exposure's start opens the node, an exposure end on the tick of its end adds the ticks collected since then and closes it; on another tick each changes nothing. A frame start on the tick of a frame that has not started marks it as started, counts it, stores its tick and takes one slot off the burst. A readout begins on its placed tick: it is marked as begun, its counts are metered, and its first row pair ends one slot later. Each slot of a readout that has begun completes one row pair on its tick, and the next follows one slot later; the last one hands the readout's meter to the servos. -/
def Obligations.FrameEvents : Prop :=
  ∀ s : State,
    (∀ (c n : Nat),
      c < 2 →
      n < 2 →
      s.exposureAt c n (fun e => e.start == s.time + 750) = true →
      Completes (.nodeReset c n) s fun t =>
        t = { s with cams := modNth s.cams c fun x => { x with nodes := modNth x.nodes n fun _ => ⟨0, none, s.time⟩ } }) ∧
    (∀ (c n : Nat),
      c < 2 →
      n < 2 →
      s.exposureAt c n (fun e => e.start == s.time + 750) = false →
      Completes (.nodeReset c n) s fun t =>
        t = s) ∧
    (∀ (c n : Nat),
      c < 2 →
      n < 2 →
      s.exposureAt c n (fun e => e.start == s.time) = true →
      Completes (.exposureStart c n) s fun t =>
        t = { s with cams := modNth s.cams c fun x => { x with nodes := modNth x.nodes n fun y => { y with openSince := some s.time } } }) ∧
    (∀ (c n : Nat),
      c < 2 →
      n < 2 →
      s.exposureAt c n (fun e => e.start == s.time) = false →
      Completes (.exposureStart c n) s fun t =>
        t = s) ∧
    (∀ (c n o : Nat),
      c < 2 →
      n < 2 →
      s.exposureAt c n (fun e => e.stop == s.time) = true →
      (nth (s.cam c).nodes n Node.idle).openSince = some o →
      Completes (.exposureEnd c n) s fun t =>
        t = { s with cams := modNth s.cams c fun x =>
                { x with nodes := modNth x.nodes n fun y =>
                    { y with openSince := none, collected := y.collected + (s.time - o) } } }) ∧
    (∀ (c n : Nat),
      c < 2 →
      n < 2 →
      s.exposureAt c n (fun e => e.stop == s.time) = false →
      Completes (.exposureEnd c n) s fun t =>
        t = s) ∧
    (∀ (c : Nat),
      c < 2 →
      ((s.cam c).frames.any fun f => !f.started && f.start == s.time) = true →
      Completes (.frameStart c) s fun t =>
        t.cams = (modNth s.cams c fun x => { x with frames := x.frames.map fun f =>
          if !f.started && f.start == s.time then { f with started := true } else f }) ∧
        t.ctr (C.ARR_FRAME_COUNT c) = (C.ARR_FRAME_COUNT c).plus (s.ctr (C.ARR_FRAME_COUNT c)) 1 ∧
        t.getPair (F.ARR_LAST_START_LO c) = s.time % 2 ^ 64 ∧
        t.g (F.ARR_CAM_STATUS_BURST_LEFT c) = s.g (F.ARR_CAM_STATUS_BURST_LEFT c) - 1 ∧
        t = { s with regs := t.regs, moment := t.moment, cams := t.cams, pipes := t.pipes, mons := t.mons, agenda := t.agenda }) ∧
    (∀ (c n : Nat) (f : Frame) (o : Readout) (img : List (Nat × List Int)),
      c < 2 →
      n < 2 →
      (s.cam c).frames.find? (fun g => g.readouts.any fun r => r.starts n s.time) = some f →
      f.readouts.find? (fun r => r.starts n s.time) = some o →
      Completes (.readoutStart c n img) s fun t =>
        (t.cam c).frames = ((s.cam c).frames.map fun g =>
          if g.start = f.start then
            { g with readouts := g.readouts.map fun r => if r.starts n s.time then { r with begun := true } else r } else g) ∧
        (t.cam c).metering.length = (s.cam c).metering.length + 1 ∧ t.freeCount = s.freeCount + 1 ∧
        (s.now + o.slotTicks, Instr.rowPairComplete c n) ∈ t.agenda ∧ (∀ d, d ≠ c → t.cam d = s.cam d) ∧
        t = { s with freeCount := t.freeCount, cams := t.cams, pipes := t.pipes, agenda := t.agenda }) ∧
    (∀ (c n : Nat) (f : Frame) (o : Readout),
      c < 2 →
      n < 2 →
      (s.cam c).frames.find? (fun g => g.readouts.any fun r => r.passes n s.time) = some f →
      f.readouts.find? (fun r => r.passes n s.time) = some o →
      o.next + 1 ≠ o.pairs.length →
      Completes (.rowPairComplete c n) s fun t =>
        t.cams = (modNth s.cams c fun x => { x with frames := x.frames.map fun g =>
          if g.start = f.start then
            { g with readouts := g.readouts.map fun r => if r.passes n s.time then { r with next := r.next + 1 } else r } else g }) ∧
        (s.now + o.slotTicks, Instr.rowPairComplete c n) ∈ t.agenda ∧ t.newel = s.newel ∧ t.stations = s.stations) ∧
    (∀ (c n : Nat) (f : Frame) (o : Readout),
      c < 2 →
      n < 2 →
      (s.cam c).frames.find? (fun g => g.readouts.any fun r => r.passes n s.time) = some f →
      f.readouts.find? (fun r => r.passes n s.time) = some o →
      o.next + 1 = o.pairs.length →
      Completes (.rowPairComplete c n) s fun t =>
        (∀ m ∈ (s.cam c).metering, m.node = n → m.ended ≤ s.time → m ∈ (t.cam c).meters ∧ m ∉ (t.cam c).metering) ∧
        (t.cam c).frames.length ≤ (s.cam c).frames.length ∧ t.newel = s.newel ∧ t.stations = s.stations)

/-- After boot, EN 1 makes an off port idle, with its clock counted from this tick unless it ran. EN 0 makes a port off and forgets its training; a frame that is open is closed and counted. TRAIN on an idle, trained or failed port starts a training of 4,096 N squared ticks. At its end a result whose eye, the longest run of steps without an edge, has at least 35 % of the 16 N steps, with 8 changes or more seen at each step, trains the port at the middle of the eye; another result fails it and is counted; where the world does not say, the result is free (log entry 2). RUN is taken by a trained port whose pipeline runs. A stop of a running port outside a frame, or in a frame between lines, which then closes and counts, returns it to Trained; within a line it waits for the line. -/
def Obligations.CompanionControl : Prop :=
  ∀ s : State,
    (∀ (x : Nat),
      x < 2 →
      s.unitsAnswer = true →
      s.xstate x = 0 →
      Completes (.portEnable x) s fun t =>
        t.xstate x = 1 ∧ t.g (F.XPT_CTRL_EN x) = 1 ∧
        t.ports = (if s.on (F.XPT_CTRL_EN x) then s.ports else modNth s.ports x fun y => { y with clockFrom := s.time }) ∧
        sameRegs [F.XPT_CTRL x, F.XPT_STATUS x] s t ∧ t = { s with regs := t.regs, ports := t.ports }) ∧
    (∀ (x : Nat),
      x < 2 →
      (s.xport x).frame = none →
      Completes (.portDisable x) s fun t =>
        t.xstate x = 0 ∧ t.g (F.XPT_CTRL_EN x) = 0 ∧ t.g (F.XPT_CTRL_RUN x) = 0 ∧ t.g (F.XPT_DELAY_STEP x) = 0 ∧
        t.g (F.XPT_DELAY_EYE x) = 0 ∧ (t.xport x).stopping = false ∧ (t.xport x).line = none ∧ (∀ y, y ≠ x → t.xport y = s.xport y) ∧
        sameRegs [F.XPT_CTRL x, F.XPT_STATUS x, F.XPT_DELAY x] s t ∧ t = { s with regs := t.regs, ports := t.ports }) ∧
    (∀ (x : Nat),
      x < 2 →
      (s.xport x).frame.isSome = true →
      Completes (.portDisable x) s fun t =>
        t.xstate x = 0 ∧ t.g (F.XPT_CTRL_EN x) = 0 ∧ t.g (F.XPT_CTRL_RUN x) = 0 ∧ t.g (F.XPT_DELAY_STEP x) = 0 ∧
        t.g (F.XPT_DELAY_EYE x) = 0 ∧ t.ctr (C.XPT_CNT_FRAMES x) = (C.XPT_CNT_FRAMES x).plus (s.ctr (C.XPT_CNT_FRAMES x)) 1 ∧
        (t.xport x).frame = none ∧ (t.xport x).stopping = false ∧ (t.xport x).line = none) ∧
    (∀ (x : Nat),
      x < 2 →
      s.xstate x = 1 ∨ s.xstate x = 3 ∨ s.xstate x = 5 →
      Completes (.train x) s fun t =>
        t.xstate x = 2 ∧
        t.ports = (modNth s.ports x fun y => { y with trainEnd := s.now + 4096 * s.xdiv x * s.xdiv x }) ∧
        t.agenda = s.agenda ++ [(s.now + 4096 * s.xdiv x * s.xdiv x, .trainingEnd x none)] ∧
        sameRegs [F.XPT_STATUS x] s t ∧ t = { s with regs := t.regs, ports := t.ports, agenda := t.agenda }) ∧
    (∀ (x q len : Nat) (e : List Bool) (ch : List Nat),
      x < 2 →
      s.xstate x = 2 →
      s.now = (s.xport x).trainEnd →
      eye ((e ++ List.replicate (16 * s.xdiv x) true).take (16 * s.xdiv x)) = (q, len) →
      ceilDiv (35 * (16 * s.xdiv x)) 100 ≤ len →
      (∀ i, i < 16 * s.xdiv x → 8 ≤ nth ch i 0) →
      Completes (.trainingEnd x (some (e, ch))) s fun t =>
        t.xstate x = 3 ∧ t.g (F.XPT_DELAY_STEP x) = (q + len / 2) % (16 * s.xdiv x) % 1024 ∧ t.g (F.XPT_DELAY_EYE x) = len % 1024 ∧
        sameRegs [F.XPT_STATUS x, F.XPT_DELAY x] s t ∧ t = { s with regs := t.regs }) ∧
    (∀ (x q len : Nat) (e : List Bool) (ch : List Nat),
      x < 2 →
      s.xstate x = 2 →
      s.now = (s.xport x).trainEnd →
      eye ((e ++ List.replicate (16 * s.xdiv x) true).take (16 * s.xdiv x)) = (q, len) →
      len < ceilDiv (35 * (16 * s.xdiv x)) 100 ∨ (∃ i, i < 16 * s.xdiv x ∧ nth ch i 0 < 8) →
      Completes (.trainingEnd x (some (e, ch))) s fun t =>
        t.xstate x = 5 ∧ t.g (F.XPT_DELAY_STEP x) = 0 ∧ t.g (F.XPT_DELAY_EYE x) = 0 ∧
        t.ctr (C.XPT_CNT_TRAIN_FAIL x) = (C.XPT_CNT_TRAIN_FAIL x).plus (s.ctr (C.XPT_CNT_TRAIN_FAIL x)) 1 ∧
        sameRegs [F.XPT_STATUS x, F.XPT_DELAY x, F.XPT_FLAGS, (C.XPT_CNT_TRAIN_FAIL x).off, (C.USH_CNT_NQ_LOST 1).off] s t ∧
        t = { s with regs := t.regs, moment := t.moment, notices := t.notices, agenda := t.agenda }) ∧
    (∀ (x : Nat),
      x < 2 →
      s.xstate x = 2 →
      s.now = (s.xport x).trainEnd →
      Completes (.trainingEnd x none) s fun t =>
        (t.xstate x = 3 ∨ t.xstate x = 5) ∧ t.freeCount = s.freeCount + 3) ∧
    (∀ (x : Nat),
      x < 2 →
      s.xstate x = 3 →
      (s.boundTo (3 + x)).any s.pipeRunning = true →
      Completes (.portRun x) s fun t =>
        t.xstate x = 4 ∧ t.g (F.XPT_CTRL_RUN x) = 1 ∧
        t.ports = (modNth s.ports x fun y => { y with line := none, stopping := false, rise := none }) ∧
        sameRegs [F.XPT_CTRL x, F.XPT_STATUS x] s t ∧ t = { s with regs := t.regs, ports := t.ports }) ∧
    (∀ (x : Nat),
      x < 2 →
      s.xstate x = 4 →
      (s.xport x).stopping = false →
      (s.xport x).frame = none →
      Completes (.portStop x) s fun t =>
        t.xstate x = 3 ∧ t.g (F.XPT_CTRL_RUN x) = 0 ∧
        t.ports = (modNth s.ports x fun y => { y with stopping := false, line := none, rise := none }) ∧
        sameRegs [F.XPT_CTRL x, F.XPT_STATUS x] s t ∧ t = { s with regs := t.regs, ports := t.ports }) ∧
    (∀ (x : Nat),
      x < 2 →
      s.xstate x = 4 →
      (s.xport x).stopping = false →
      (s.xport x).frame.isSome = true →
      (s.xport x).line = none →
      Completes (.portStop x) s fun t =>
        t.xstate x = 3 ∧ t.g (F.XPT_CTRL_RUN x) = 0 ∧ (t.xport x).frame = none ∧
        t.ctr (C.XPT_CNT_FRAMES x) = (C.XPT_CNT_FRAMES x).plus (s.ctr (C.XPT_CNT_FRAMES x)) 1) ∧
    (∀ (x : Nat),
      x < 2 →
      s.xstate x = 4 →
      (s.xport x).stopping = false →
      (s.xport x).frame.isSome = true →
      (s.xport x).line.isSome = true →
      Completes (.portStop x) s fun t =>
        t.xstate x = 4 ∧ t.g (F.XPT_CTRL_RUN x) = 0 ∧ t.ports = (modNth s.ports x fun y => { y with stopping := true }) ∧
        sameRegs [F.XPT_CTRL x] s t ∧ t = { s with regs := t.regs, ports := t.ports })

/-- FVAL at 1 on a running port with no frame open and no stop under way is noted, and once what else is queued for the tick has acted opens a frame with the stamp of its edge less LAT_ADJ, shown in XPT_STATUS and XPT_LAST_START; else it changes nothing. LVAL falling at the end of a line of the open frame counts the line by its mark and queues it for release 16 ticks later; the last line also closes and counts the frame, and ends a stop under way. A line still going on is only noted, and a line with no frame open whose beats do not belong to the frame last closed is counted as a stray. At a release every line that is due has left the queue, in a frame that no pipeline takes for the lines released. FVAL at 0, and the end of the frame window, close the open frame: it is counted, with the time-out besides, and a stop under way ends. The eye monitor marks the open frame and counts. -/
def Obligations.CompanionFrames : Prop :=
  ∀ s : State,
    (∀ (x : Nat),
      x < 2 →
      s.xstate x = 4 →
      (s.xport x).stopping = false →
      (s.xport x).frame = none →
      (s.xport x).rise ≠ some s.now →
      Completes (.portFrameStart x) s fun t =>
        t = { s with ports := modNth s.ports x fun y => { y with rise := some s.now }
                     agenda := s.agenda ++ [(s.now, .portFrameStart x)] }) ∧
    (∀ (x : Nat),
      x < 2 →
      s.xstate x = 4 →
      (s.xport x).stopping = false →
      (s.xport x).frame = none →
      (s.xport x).rise = some s.now →
      Completes (.portFrameStart x) s fun t =>
        t.g (F.XPT_STATUS_OPEN x) = 1 ∧ t.g (F.XPT_STATUS_LINE x) = 0 ∧
        t.getPair (F.XPT_LAST_START_LO x) = (s.xedge x s.time - t.e (F.XPT_LAT_ADJ_TICKS x)) % 2 ^ 64 ∧
        (t.xport x).frame.isSome = true ∧ (t.xport x).frames.length = (s.xport x).frames.length + 1 ∧
        (∀ y, y ≠ x → t.xport y = s.xport y) ∧
        t.newel = s.newel ∧ t.cams = s.cams ∧ t.stations = s.stations ∧ t.store = s.store) ∧
    (∀ (x : Nat),
      x < 2 →
      s.xstate x ≠ 4 ∨ (s.xport x).stopping = true ∨ (s.xport x).frame.isSome = true →
      Completes (.portFrameStart x) s fun t =>
        t = s) ∧
    (∀ (x first : Nat) (ws : List Nat) (f : XFrame) (m : Nat),
      x < 2 →
      s.xstate x = 4 →
      first ≤ s.time →
      (s.xport x).frame = some f →
      f.edge ≤ s.xedge x first →
      f.next + 1 < f.lines →
      (s.xport x).stopping = false →
      m = (lineOf (s.g (F.XPT_FMT_WIDTH x)) ws true).2 →
      Completes (.lineEnd x first ws true) s fun t =>
        t.ctr (C.XPT_CNT_CRC x) =
          (if m = 1 then (C.XPT_CNT_CRC x).plus (s.ctr (C.XPT_CNT_CRC x)) 1 else s.ctr (C.XPT_CNT_CRC x)) ∧
        t.ctr (C.XPT_CNT_LENGTH x) =
          (if m = 2 then (C.XPT_CNT_LENGTH x).plus (s.ctr (C.XPT_CNT_LENGTH x)) 1 else s.ctr (C.XPT_CNT_LENGTH x)) ∧
        t.ports = (modNth s.ports x fun y =>
          { (y.modOpen fun g => g.add ⟨(lineOf (s.g (F.XPT_FMT_WIDTH x)) ws true).1, m, s.xedge x first - f.lat, s.time + 16⟩) with
              line := none }) ∧
        (s.now + 16, Instr.lineRelease x) ∈ t.agenda ∧
        sameRegs [F.XPT_STATUS x, (C.XPT_CNT_LENGTH x).off, (C.XPT_CNT_CRC x).off] s t ∧
        t = { s with regs := t.regs, moment := t.moment, ports := t.ports, agenda := t.agenda }) ∧
    (∀ (x first : Nat) (ws : List Nat) (f : XFrame) (m : Nat),
      x < 2 →
      s.xstate x = 4 →
      first ≤ s.time →
      (s.xport x).frame = some f →
      f.edge ≤ s.xedge x first →
      f.next + 1 = f.lines →
      m = (lineOf (s.g (F.XPT_FMT_WIDTH x)) ws true).2 →
      Completes (.lineEnd x first ws true) s fun t =>
        t.ctr (C.XPT_CNT_CRC x) =
          (if m = 1 then (C.XPT_CNT_CRC x).plus (s.ctr (C.XPT_CNT_CRC x)) 1 else s.ctr (C.XPT_CNT_CRC x)) ∧
        t.ctr (C.XPT_CNT_LENGTH x) =
          (if m = 2 then (C.XPT_CNT_LENGTH x).plus (s.ctr (C.XPT_CNT_LENGTH x)) 1 else s.ctr (C.XPT_CNT_LENGTH x)) ∧
        t.ctr (C.XPT_CNT_FRAMES x) = (C.XPT_CNT_FRAMES x).plus (s.ctr (C.XPT_CNT_FRAMES x)) 1 ∧ (t.xport x).frame = none ∧
        (t.xport x).last = (f.edge, s.time) ∧ t.xstate x = (if (s.xport x).stopping then 3 else 4) ∧
        (s.now + 16, Instr.lineRelease x) ∈ t.agenda) ∧
    (∀ (x first : Nat) (ws : List Nat) (f : XFrame),
      x < 2 →
      s.xstate x = 4 →
      first ≤ s.time →
      (s.xport x).frame = some f →
      f.edge ≤ s.xedge x first →
      Completes (.lineEnd x first ws false) s fun t =>
        t = { s with ports := modNth s.ports x fun y => { y with line := some first } }) ∧
    (∀ (x first : Nat) (ws : List Nat),
      x < 2 →
      s.xstate x = 4 →
      first ≤ s.time →
      (s.xport x).frame = none →
      s.xedge x first < (s.xport x).last.1 ∨ (s.xport x).last.2 ≤ first →
      Completes (.lineEnd x first ws true) s fun t =>
        t.ctr (C.XPT_CNT_STRAY x) = (C.XPT_CNT_STRAY x).plus (s.ctr (C.XPT_CNT_STRAY x)) 1 ∧
        t.ports = (modNth s.ports x fun y => { y with strays := y.strays + 1 }) ∧
        sameRegs [(C.XPT_CNT_STRAY x).off] s t ∧ t = { s with regs := t.regs, moment := t.moment, ports := t.ports }) ∧
    (∀ (x : Nat),
      x < 2 →
      Completes (.lineRelease x) s fun t =>
        (∀ f ∈ (t.xport x).frames, ∀ l ∈ f.queue, s.time < l.releaseAt) ∧ (∀ y, y ≠ x → t.xport y = s.xport y) ∧
        t.newel = s.newel ∧ t.stations = s.stations ∧ t.store = s.store) ∧
    (∀ (x : Nat) (f : XFrame),
      x < 2 →
      s.boundTo (3 + x) = [] →
      (s.xport x).frames = [f] →
      f.closed = false →
      (f.queue.all fun l => decide (l.releaseAt ≤ s.time)) = true →
      Completes (.lineRelease x) s fun t =>
        (t.xport x).frames = [{ f with queue := [], released := f.released ++ f.queue }] ∧
        t = { s with ports := t.ports }) ∧
    (∀ (x : Nat) (f : XFrame),
      x < 2 →
      s.xstate x = 4 →
      (s.xport x).frame = some f →
      Completes (.portFrameClose x) s fun t =>
        t.ctr (C.XPT_CNT_FRAMES x) = (C.XPT_CNT_FRAMES x).plus (s.ctr (C.XPT_CNT_FRAMES x)) 1 ∧
        t.g (F.XPT_STATUS_OPEN x) = 0 ∧ t.g (F.XPT_STATUS_LINE x) = 0 ∧ (t.xport x).frame = none ∧
        (t.xport x).last = (f.edge, s.time) ∧ t.xstate x = (if (s.xport x).stopping then 3 else 4) ∧
        (∀ y, y ≠ x → t.xport y = s.xport y) ∧ t.newel = s.newel ∧ t.cams = s.cams ∧ t.stations = s.stations ∧ t.store = s.store) ∧
    (∀ (x : Nat) (f : XFrame),
      x < 2 →
      s.xstate x = 4 →
      (s.xport x).frame = some f →
      f.edge + s.e (F.XPT_FRAME_WIN_TICKS x) = s.time →
      Completes (.frameWindowExpiry x) s fun t =>
        t.ctr (C.XPT_CNT_FRAMES x) = (C.XPT_CNT_FRAMES x).plus (s.ctr (C.XPT_CNT_FRAMES x)) 1 ∧
        t.ctr (C.XPT_CNT_TIMEOUT x) = (C.XPT_CNT_TIMEOUT x).plus (s.ctr (C.XPT_CNT_TIMEOUT x)) 1 ∧
        t.g (F.XPT_STATUS_OPEN x) = 0 ∧ t.g (F.XPT_STATUS_LINE x) = 0 ∧ (t.xport x).frame = none ∧
        (t.xport x).last = (f.edge, s.time) ∧ t.xstate x = (if (s.xport x).stopping then 3 else 4) ∧
        (∀ y, y ≠ x → t.xport y = s.xport y) ∧ t.newel = s.newel ∧ t.cams = s.cams ∧ t.stations = s.stations ∧ t.store = s.store) ∧
    (∀ (x : Nat),
      x < 2 →
      s.xstate x = 4 →
      Completes (.eyeWarning x) s fun t =>
        t.ctr (C.XPT_CNT_EYE_WARN x) = (C.XPT_CNT_EYE_WARN x).plus (s.ctr (C.XPT_CNT_EYE_WARN x)) 1 ∧
        bitN (t.g F.XPT_FLAGS_EYE) x = true ∧
        t.ports = (modNth s.ports x fun y => y.modOpen fun f => { f with eye := true }) ∧
        sameRegs [F.XPT_FLAGS, (C.XPT_CNT_EYE_WARN x).off, (C.USH_CNT_NQ_LOST 1).off] s t ∧
        t = { s with regs := t.regs, moment := t.moment, ports := t.ports, notices := t.notices, agenda := t.agenda })

/-- RECORD_ISSUE leaves every record of the pipeline whose tick has come issued. The one due record of a frame, of a pipeline that neither captures nor flies and is in no enabled join, is counted, with an unmatched record of a pair of nodes, an orphan and a planning record besides; a planning record is decided on its own. RECORD_COMPLETE leaves every frame that has not been stopped and whose tick has come record-complete, and every due record issued; such a frame of a joined pipeline with no record, none waiting and none kept in the join, and nothing to write moves the coverage of its side to its record node's exposure midpoint. JOIN_UNDERRUN decides every waiting record whose deadline has come, and leaves the others waiting, once no issue or completion is still to be made on the tick; before that it is put off to the end of the tick. The one waiting record of a join is decided with the disposition that POLICY gives, reaches the planner 1,500 ticks later, is counted and flagged, and is kept for stale records unless the coverage has passed it. A write of CLS_JOIN that clashes is refused with reason 6; another sets MIRROR, POLICY and OVL, and EN, LEAD and PARTNER, if they change, while the pipelines concerned are stopped, with every waiting record decided; while one of them runs their change is refused with reason 5. -/
def Obligations.RecordsAndJoins : Prop :=
  ∀ s : State,
    (∀ (p : Nat),
      p < 4 →
      Completes (.recordIssue p) s fun t =>
        (∀ r ∈ (t.pipe p).frames, ∀ x ∈ r.recs, x.issueAt ≤ s.time → x.issued = true) ∧ t.newel = s.newel ∧ t.cams = s.cams ∧ t.stations = s.stations ∧ t.store = s.store) ∧
    (∀ (p : Nat) (r : PipeFrame) (x : Rec),
      p < 4 →
      (s.pipe p).frames = [r] →
      r.recs = [x] →
      x.issued = false →
      x.issueAt ≤ s.time →
      r.stopAt = none →
      r.complete = false →
      (s.pipe p).capture = none →
      (s.pipe p).bound = false →
      s.joinSide x.pipe = none →
      Completes (.recordIssue p) s fun t =>
        t.pipes = (modNth s.pipes p fun y => { y with frames := [{ r with recs := [{ x with issued := true, stale := false }]
                                                                          planning := r.planning + (if x.plan then 1 else 0) }] }) ∧
        t.planner = { s.planner with handing :=
          s.planner.handing ++ (if x.plan then [⟨some x, none, 4, 2, x.eff, s.time⟩] else []) } ∧
        t.ctr (C.CLS_CNT_RECORDS p) = (C.CLS_CNT_RECORDS p).plus (s.ctr (C.CLS_CNT_RECORDS p)) 1 ∧
        t.ctr (C.CLS_CNT_NOMATCH p) = (C.CLS_CNT_NOMATCH p).plus (s.ctr (C.CLS_CNT_NOMATCH p))
          (if r.nodeA && r.nodeB && !x.matched then 1 else 0) ∧
        t.ctr (C.CLS_CNT_ORPHAN p) = (C.CLS_CNT_ORPHAN p).plus (s.ctr (C.CLS_CNT_ORPHAN p)) (if x.orphan then 1 else 0) ∧
        t.ctr (C.CLS_CNT_PLANNED p) = (C.CLS_CNT_PLANNED p).plus (s.ctr (C.CLS_CNT_PLANNED p)) (if x.plan then 1 else 0) ∧
        sameRegs [(C.CLS_CNT_RECORDS p).off, (C.CLS_CNT_NOMATCH p).off, (C.CLS_CNT_ORPHAN p).off, (C.CLS_CNT_PLANNED p).off] s t ∧
        t = { s with regs := t.regs, moment := t.moment, agenda := t.agenda, pipes := t.pipes, planner := t.planner }) ∧
    (∀ (p : Nat),
      p < 4 →
      Completes (.recordComplete p) s fun t =>
        (∀ r ∈ (t.pipe p).frames, r.stopAt = none → (r.completeAt.any fun u => decide (u ≤ s.time)) = true → r.complete = true) ∧
        (∀ r ∈ (t.pipe p).frames, ∀ x ∈ r.recs, x.issueAt ≤ s.time → x.issued = true) ∧ t.newel = s.newel ∧ t.cams = s.cams ∧ t.stations = s.stations ∧ t.store = s.store) ∧
    (∀ (p : Nat) (r : PipeFrame) (j d c : Nat),
      p < 4 →
      (s.pipe p).frames = [r] →
      r.recs = [] →
      r.completeAt = some c →
      c ≤ s.time →
      r.stopAt = none →
      r.complete = false →
      r.planning ≠ 0 →
      r.kind3 = ⟨2, 0, 0⟩ →
      (s.pipe p).capture = none →
      (s.pipe p).bound = false →
      s.joinSide p = some (j, d) →
      (s.join j).waiting = [] →
      (s.join j).under = [] →
      Completes (.recordComplete p) s fun t =>
        t.pipes = (modNth s.pipes p fun y => { y with frames := [{ r with complete := true }] }) ∧
        t.joins = (modNth s.joins j fun u => { u with cover := modNth u.cover d fun _ => if r.nodeB then r.tmB else r.tmA }) ∧
        t = { s with pipes := t.pipes, joins := t.joins }) ∧
    (∀ (j : Nat),
      j < 2 →
      s.recordsDue = false →
      Completes (.joinUnderrun j) s fun t =>
        (∀ w ∈ (t.join j).waiting, s.time < w.2.issueAt + s.joinWait j w.1 w.2) ∧
        t.planner.handing.length = s.planner.handing.length + ((s.join j).waiting.filter fun w => decide (w.2.issueAt + s.joinWait j w.1 w.2 ≤ s.time)).length ∧
        t = { s with regs := t.regs, moment := t.moment, agenda := t.agenda, notices := t.notices, joins := t.joins
                     planner := t.planner }) ∧
    (∀ (j : Nat),
      j < 2 →
      s.recordsDue = true →
      ((s.join j).waiting.filter fun w => decide (w.2.issueAt + s.joinWait j w.1 w.2 ≤ s.time)) ≠ [] →
      Completes (.joinUnderrun j) s fun t =>
        t = { s with agenda := s.agenda ++ [(s.now, .joinUnderrun j)] }) ∧
    (∀ (j d : Nat) (x : Rec) (v : Nat),
      j < 2 →
      d < 2 →
      (s.join j).waiting = [(d, x)] →
      x.issueAt + s.joinWait j d x ≤ s.time →
      s.recordsDue = false →
      (v = if d = 0 then x.eff.g (F.CLS_JOIN_POLICY j) else s.e (F.CLS_JOIN_POLICY j)) →
      Completes (.joinUnderrun j) s fun t =>
        t.joins = (modNth s.joins j fun u => { u with waiting := [], under := (
          if s.underPassed j (nth u.cover (1 - d) 0) (d, x) then u.under else u.under ++ [(d, x)]) }) ∧
        t.planner = { s.planner with handing := s.planner.handing ++
          [if d = 0 then ⟨some x, none, 2 + v, j, x.eff, s.time⟩ else ⟨none, some x, 2 + v, j, s.eff, s.time⟩] } ∧
        (s.now + 1500, Instr.decisionHandoff) ∈ t.agenda ∧
        t.ctr (C.CLS_CNT_UNDERRUN j (1 - d)) = (C.CLS_CNT_UNDERRUN j (1 - d)).plus (s.ctr (C.CLS_CNT_UNDERRUN j (1 - d))) 1 ∧
        bitN (t.g F.CLS_JOIN_STATUS_UNDERRUN) (2 * j + (1 - d)) = true ∧
        sameRegs [F.CLS_JOIN_STATUS, (C.CLS_CNT_UNDERRUN j (1 - d)).off, (C.USH_CNT_NQ_LOST 0).off] s t) ∧
    (∀ (j w : Nat),
      j < 2 →
      w < 2 ^ 32 →
      s.joinClash j (w % 2) (w / 2 % 4) (w / 8 % 4) = false →
      w % 2 = s.g (F.CLS_JOIN_EN j) ∧ w / 2 % 4 = s.g (F.CLS_JOIN_LEAD j) ∧ w / 8 % 4 = s.g (F.CLS_JOIN_PARTNER j) →
      Completes (.joinConfigWrite j w) s fun t =>
        t.g (F.CLS_JOIN_MIRROR j) = w / 2 ^ 5 % 2 ∧ t.g (F.CLS_JOIN_POLICY j) = w / 2 ^ 6 % 2 ∧
        t.g (F.CLS_JOIN_OVL j) = w / 2 ^ 8 % 2 ^ 8 ∧ t.g (F.CLS_JOIN_EN j) = s.g (F.CLS_JOIN_EN j) ∧
        t.g (F.CLS_JOIN_LEAD j) = s.g (F.CLS_JOIN_LEAD j) ∧ t.g (F.CLS_JOIN_PARTNER j) = s.g (F.CLS_JOIN_PARTNER j) ∧
        sameRegs [F.CLS_JOIN j] s t ∧ t = { s with regs := t.regs, late := t.late }) ∧
    (∀ (j w : Nat),
      j < 2 →
      w < 2 ^ 32 →
      s.joinClash j (w % 2) (w / 2 % 4) (w / 8 % 4) = false →
      ¬(w % 2 = s.g (F.CLS_JOIN_EN j) ∧ w / 2 % 4 = s.g (F.CLS_JOIN_LEAD j) ∧ w / 8 % 4 = s.g (F.CLS_JOIN_PARTNER j)) →
      ([s.g (F.CLS_JOIN_LEAD j), s.g (F.CLS_JOIN_PARTNER j), w / 2 % 4, w / 8 % 4].any s.pipeRuns) = false →
      Completes (.joinConfigWrite j w) s fun t =>
        t.g (F.CLS_JOIN_MIRROR j) = w / 2 ^ 5 % 2 ∧ t.g (F.CLS_JOIN_POLICY j) = w / 2 ^ 6 % 2 ∧
        t.g (F.CLS_JOIN_OVL j) = w / 2 ^ 8 % 2 ^ 8 ∧ t.g (F.CLS_JOIN_EN j) = w % 2 ∧ t.g (F.CLS_JOIN_LEAD j) = w / 2 % 4 ∧ t.g (F.CLS_JOIN_PARTNER j) = w / 2 ^ 3 % 4 ∧
        (t.join j).waiting = [] ∧ (∀ k, k ≠ j → t.join k = s.join k) ∧ t.pipes = s.pipes ∧
        t.planner.handing.length = s.planner.handing.length + (s.join j).waiting.length ∧
        ((s.join j).waiting = [] → sameRegs [F.CLS_JOIN j] s t ∧ t = { s with regs := t.regs, late := t.late, joins := t.joins })) ∧
    (∀ (j w : Nat),
      j < 2 →
      w < 2 ^ 32 →
      s.joinClash j (w % 2) (w / 2 % 4) (w / 8 % 4) = false →
      ¬(w % 2 = s.g (F.CLS_JOIN_EN j) ∧ w / 2 % 4 = s.g (F.CLS_JOIN_LEAD j) ∧ w / 8 % 4 = s.g (F.CLS_JOIN_PARTNER j)) →
      ([s.g (F.CLS_JOIN_LEAD j), s.g (F.CLS_JOIN_PARTNER j), w / 2 % 4, w / 8 % 4].any s.pipeRuns) = true →
      Completes (.joinConfigWrite j w) s fun t =>
        t.g (F.CLS_JOIN_MIRROR j) = w / 2 ^ 5 % 2 ∧ t.g (F.CLS_JOIN_POLICY j) = w / 2 ^ 6 % 2 ∧
        t.g (F.CLS_JOIN_OVL j) = w / 2 ^ 8 % 2 ^ 8 ∧ t.g (F.CLS_JOIN_EN j) = s.g (F.CLS_JOIN_EN j) ∧
        t.g (F.CLS_JOIN_LEAD j) = s.g (F.CLS_JOIN_LEAD j) ∧ t.g (F.CLS_JOIN_PARTNER j) = s.g (F.CLS_JOIN_PARTNER j) ∧
        t.g F.STP_LAST_REFUSED_REASON = 5 ∧ t.g F.STP_LAST_REFUSED_OFFSET = F.CLS_JOIN j ∧
        sameRegs [F.CLS_JOIN j, F.STP_LAST_REFUSED, C.STP_CNT_REFUSED.off] s t ∧
        t = { s with regs := t.regs, moment := t.moment, late := t.late }) ∧
    (∀ (j w : Nat),
      j < 2 →
      w < 2 ^ 32 →
      s.joinClash j (w % 2) (w / 2 % 4) (w / 8 % 4) = true →
      Completes (.joinConfigWrite j w) s fun t =>
        t.g F.STP_LAST_REFUSED_REASON = 6 ∧ t.g F.STP_LAST_REFUSED_OFFSET = F.CLS_JOIN j ∧
        t.ctr C.STP_CNT_REFUSED = C.STP_CNT_REFUSED.plus (s.ctr C.STP_CNT_REFUSED) 1 ∧
        sameRegs [F.STP_LAST_REFUSED, C.STP_CNT_REFUSED.off] s t ∧ t = { s with regs := t.regs, moment := t.moment })

/-- Every decision 1,500 ticks old leaves the hand-over and enters the intake behind those in it, in the order of R316, while the intake has room for all of them; at a full intake a decision is lost. A decision that finds the intake empty completes 3,000 ticks later, one behind another 32 ticks more. PLAN_DECISION takes every decision whose tick has come off the intake, once no write that may disable jets is still to be made on the tick; before that it is put off to the end of the tick. An accepted decision changes nothing else. A decision alone in the intake that group g rejects on the fallback flight, whose one enabled row selects one enabled jet with no earlier pulse, of an enumerated gallery with room in its queue and not late, puts one command at the end of that gallery's fire queue with the fire tick, duration and next SEQ that R326 to R335 give. A write of EJP_JET_EN takes cleared jets out of every command queued; a command left with none is removed. -/
def Obligations.PlannerSteps : Prop :=
  ∀ s : State,
    (  (s.planner.handing.filter fun d => decide (d.at_ + 1500 ≤ s.time)).length + s.planner.intake.length ≤ 4096 →
      Completes .decisionHandoff s fun t =>
        t.planner.handing = (s.planner.handing.filter fun d => !decide (d.at_ + 1500 ≤ s.time)) ∧
        t.planner.intake.map (·.1) = s.planner.intake.map (·.1) ++
          (s.planner.handing.filter fun d => decide (d.at_ + 1500 ≤ s.time)).foldl (fun l d => insertDecision d l) [] ∧
        t.planner.jetEnd = s.planner.jetEnd ∧ t.planner.seq = s.planner.seq ∧ t.hall.fire = s.hall.fire) ∧
    (∀ (d : Decision),
      s.planner.handing = [d] →
      d.at_ + 1500 ≤ s.time →
      4096 ≤ s.planner.intake.length →
      Completes .decisionHandoff s fun t =>
        t.planner = { s.planner with handing := [] }) ∧
    (∀ (d : Decision),
      s.planner.handing = [d] →
      d.at_ + 1500 ≤ s.time →
      s.planner.intake = [] →
      Completes .decisionHandoff s fun t =>
        t.planner = { s.planner with handing := [], intake := [(d, s.time + 3000)] } ∧
        (s.now + 3000, Instr.planDecision) ∈ t.agenda) ∧
    (∀ (d e : Decision) (a : Nat),
      s.planner.handing = [d] →
      d.at_ + 1500 ≤ s.time →
      s.planner.intake = [(e, a)] →
      Completes .decisionHandoff s fun t =>
        t.planner = { s.planner with handing := [], intake := [(e, a), (d, max (s.time + 3032) (a + 32))] }) ∧
    (  s.disableDue = false →
      Completes .planDecision s fun t =>
        t.planner.intake = (s.planner.intake.dropWhile fun e => decide (e.2 ≤ s.time)) ∧ t.planner.handing = s.planner.handing) ∧
    (  s.disableDue = true →
      Completes .planDecision s fun t =>
        t = { s with agenda := s.agenda ++ [(s.now, .planDecision)] }) ∧
    (∀ (d : Decision) (a : Nat),
      s.planner.intake = [(d, a)] →
      a ≤ s.time →
      s.disableDue = false →
      d.judge = .accept →
      Completes .planDecision s fun t =>
        t = { s with planner := { s.planner with intake := [] } }) ∧
    (∀ (d : Decision) (a : Nat) (x : Rec × Bool) (v k j u f : Nat),
      s.planner.intake = [(d, a)] →
      a ≤ s.time →
      s.disableDue = false →
      d.judge = .group v →
      d.reference = some x →
      x.1.valid = false →
      d.rows = [k] →
      d.jets k d.span.1 d.span.2 = [j] →
      j < 256 →
      u = min (d.g (F.EJP_DUR_BASE v) + d.g (F.EJP_DUR_ROW_PER_ROW v) * (x.1.rowLast + 1 - x.1.rowFirst)) s.pulseLimit →
      f = (d.refTime x + d.g (F.EJP_ROW_FALLBACK_TICKS k) - d.g (F.EJP_ROW_LEAD_TICKS k) - (u / 2 : Nat)).toNat →
      bitN (s.g (F.EJP_JET_EN_MASK (j / 32))) (j % 32) = true →
      s.jetEnd j = none →
      s.enumerated (j / 32) = true →
      s.lateNow f = false →
      (s.fireQueue (j / 32)).length < 128 →
      Completes .planDecision s fun t =>
        t.hall.fire = (modNth s.hall.fire (j / 32) fun q => q ++
          [⟨2 ^ (j % 32), f, nth s.planner.seq (j / 32) 0, u, j / 32, true, false, s.time, false, false⟩]) ∧
        t.jetEnd j = some (f + u) ∧ t.planner.seq = (modNth s.planner.seq (j / 32) fun n => (n + 1) % 65536) ∧
        t.planner.intake = [] ∧ (s.now + 180, Instr.fireDelivery (j / 32)) ∈ t.agenda ∧
        t.ctr C.EJP_CNT_REJECT = C.EJP_CNT_REJECT.plus (s.ctr C.EJP_CNT_REJECT) 1 ∧
        t.ctr C.EJP_CNT_FALLBACK = C.EJP_CNT_FALLBACK.plus (s.ctr C.EJP_CNT_FALLBACK) 1 ∧
        t.ctr (C.EJP_CNT_CMD (j / 32)) = (C.EJP_CNT_CMD (j / 32)).plus (s.ctr (C.EJP_CNT_CMD (j / 32))) 1 ∧
        t = { s with regs := t.regs, moment := t.moment, agenda := t.agenda, notices := t.notices, planner := t.planner
                     hall := { s.hall with fire := t.hall.fire, above := t.hall.above } }) ∧
    (∀ (g m : Nat),
      g < 8 →
      m < 2 ^ 32 →
      Completes (.jetDisable g m) s fun t =>
        t.g (F.EJP_JET_EN_MASK g) = m ∧
        (∀ n ∈ List.range 32, bitN (s.g (F.EJP_JET_EN_MASK g)) n = true → bitN m n = false →
          (t.fireQueue g).all (fun c => !bitN c.jets n) = true) ∧
        (t.fireQueue g).all (fun c => c.jets != 0 || s.fireQueue g == t.fireQueue g) = true ∧
        (∀ k, k ≠ g → t.fireQueue k = s.fireQueue k) ∧
        sameRegs [F.EJP_JET_EN g, (C.EJP_CNT_DISABLED g).off, (C.HAL_CNT_WM g).off, F.HAL_WM_RISE_LO, F.HAL_WM_FALL_LO,
          (C.USH_CNT_NQ_LOST 1).off] s t ∧
        t = { s with regs := t.regs, moment := t.moment, agenda := t.agenda, notices := t.notices
                     hall := { s.hall with fire := t.hall.fire, above := t.hall.above } })

/-- A write of 1 to EN with the link off, and a write of 1 to ENUM with the link on (and not ending), start the Lock phase: no gallery is enumerated, every fire queue is empty, every HLK_STA STATE, RESULT and NSTA read 0, the phase is counted and fails after 10 ms; a head that starts to transmit does so with negative running disparity. EN written 1 with the link on only stores EN; ENUM with the link off or ending does nothing. A write of 0 to EN with no frame on the line turns the link off at once and empties the fire queues; with a frame on the line what has not begun is dropped and the link ends at the frame's end, unless EN has been written 1 meanwhile, when it enumerates anew. -/
def Obligations.LinkEnumeration : Prop :=
  ∀ s : State,
    (  s.unitsAnswer = true →
      s.linkState = 0 →
      Completes .enumeration s fun t =>
        t.link.rd = false ∧ t.link.rdAt = nextEdge 240 s.time ∧ t.g F.HLK_CTRL_EN = 1 ∧ t.linkState = 1 ∧ t.g F.HLK_STATUS_RESULT = 0 ∧ t.g F.HLK_STATUS_NSTA = 0 ∧ t.link.phaseStart = s.now ∧
        t.link.failed = false ∧ t.link.members = noMembers ∧ t.link.rtts = [] ∧ t.link.replies = [] ∧ t.link.cycling = false ∧
        (∀ g, g < 8 → t.fireQueue g = [] ∧ t.g (F.HLK_STA_STATE g) = 0) ∧ (s.now + 15000000, Instr.ringOpen) ∈ t.agenda ∧
        t.ctr C.HLK_CNT_ENUM = C.HLK_CNT_ENUM.plus (s.ctr C.HLK_CNT_ENUM) 1 ∧ sameBlocks [0x20, 0x24, 0x34, 0x35, 0x39, 0x50] s t ∧
        t = { s with regs := t.regs, moment := t.moment, agenda := t.agenda, notices := t.notices, link := t.link
                     thermal := t.thermal, hall := { s.hall with fire := t.hall.fire, above := t.hall.above } }) ∧
    (  s.unitsAnswer = true →
      s.linkState ≠ 0 →
      Completes .enumeration s fun t =>
        t.g F.HLK_CTRL_EN = 1 ∧ sameRegs [F.HLK_CTRL] s t ∧ t = { s with regs := t.regs }) ∧
    (  s.unitsAnswer = true →
      s.linkState ≠ 0 →
      s.on F.HLK_CTRL_EN = true →
      s.link.closing = false →
      Completes .enum s fun t =>
        t.g F.HLK_CTRL_EN = 1 ∧ t.linkState = 1 ∧ t.g F.HLK_STATUS_RESULT = 0 ∧ t.g F.HLK_STATUS_NSTA = 0 ∧ t.link.phaseStart = s.now ∧
        t.link.failed = false ∧ t.link.members = noMembers ∧ t.link.rtts = [] ∧ t.link.replies = [] ∧ t.link.cycling = false ∧
        (∀ g, g < 8 → t.fireQueue g = [] ∧ t.g (F.HLK_STA_STATE g) = 0) ∧ (s.now + 15000000, Instr.ringOpen) ∈ t.agenda ∧
        t.ctr C.HLK_CNT_ENUM = C.HLK_CNT_ENUM.plus (s.ctr C.HLK_CNT_ENUM) 1 ∧ sameBlocks [0x20, 0x24, 0x34, 0x35, 0x39, 0x50] s t ∧
        t = { s with regs := t.regs, moment := t.moment, agenda := t.agenda, notices := t.notices, link := t.link
                     thermal := t.thermal, hall := { s.hall with fire := t.hall.fire, above := t.hall.above } }) ∧
    (  s.unitsAnswer = false ∨ s.linkState = 0 ∨ s.on F.HLK_CTRL_EN = false ∨ s.link.closing = true →
      Completes .enum s fun t =>
        t = s) ∧
    (  s.linkState ≠ 0 →
      s.link.closing = false →
      s.lineFree ≤ s.time →
      Completes .linkDisable s fun t =>
        t.linkState = 0 ∧ t.g F.HLK_CTRL_EN = 0 ∧ t.g F.HLK_STATUS_NSTA = 0 ∧ t.link.members = noMembers ∧
        t.link.cycling = false ∧ t.link.closing = false ∧ (∀ g, g < 8 → t.fireQueue g = [] ∧ t.g (F.HLK_STA_STATE g) = 0) ∧
        sameBlocks [0x20, 0x24, 0x34, 0x35, 0x39, 0x50] s t ∧
        t = { s with regs := t.regs, moment := t.moment, agenda := t.agenda, notices := t.notices, link := t.link
                     thermal := t.thermal, hall := { s.hall with fire := t.hall.fire, above := t.hall.above } }) ∧
    (  s.linkState ≠ 0 →
      s.link.closing = false →
      s.time < s.lineFree →
      Completes .linkDisable s fun t =>
        t.g F.HLK_CTRL_EN = 0 ∧ t.linkState = s.linkState ∧ sameRegs [F.HLK_CTRL] s t ∧
        t = { s with regs := t.regs, agenda := s.agenda ++ [(s.now + (s.lineFree - s.time), .linkDisable)]
                     link := { s.link with closing := true
                                           inFlight := s.link.inFlight.filter fun e => decide (e.frame.start ≤ s.time)
                                           echoes := s.link.echoes.filter fun e => decide (e.2.start ≤ s.time) } }) ∧
    (  s.link.closing = true →
      s.time < s.lineFree →
      Completes .linkDisable s fun t =>
        t = s) ∧
    (  s.link.closing = true →
      s.lineFree ≤ s.time →
      s.g F.HLK_CTRL_EN = 0 →
      Completes .linkDisable s fun t =>
        t.linkState = 0 ∧ t.g F.HLK_CTRL_EN = 0 ∧ t.g F.HLK_STATUS_NSTA = 0 ∧ t.link.members = noMembers ∧
        t.link.cycling = false ∧ t.link.closing = false ∧ (∀ g, g < 8 → t.fireQueue g = [] ∧ t.g (F.HLK_STA_STATE g) = 0) ∧
        sameBlocks [0x20, 0x24, 0x34, 0x35, 0x39, 0x50] s t ∧
        t = { s with regs := t.regs, moment := t.moment, agenda := t.agenda, notices := t.notices, link := t.link
                     thermal := t.thermal, hall := { s.hall with fire := t.hall.fire, above := t.hall.above } }) ∧
    (  s.link.closing = true →
      s.lineFree ≤ s.time →
      s.on F.HLK_CTRL_EN = true →
      Completes .linkDisable s fun t =>
        t.g F.HLK_CTRL_EN = 1 ∧ t.linkState = 1 ∧ t.g F.HLK_STATUS_RESULT = 0 ∧ t.g F.HLK_STATUS_NSTA = 0 ∧ t.link.phaseStart = s.now ∧
        t.link.failed = false ∧ t.link.members = noMembers ∧ t.link.rtts = [] ∧ t.link.replies = [] ∧ t.link.cycling = false ∧
        (∀ g, g < 8 → t.fireQueue g = [] ∧ t.g (F.HLK_STA_STATE g) = 0) ∧ (s.now + 15000000, Instr.ringOpen) ∈ t.agenda ∧
        t.ctr C.HLK_CNT_ENUM = C.HLK_CNT_ENUM.plus (s.ctr C.HLK_CNT_ENUM) 1 ∧ sameBlocks [0x20, 0x24, 0x34, 0x35, 0x39, 0x50] s t ∧
        t = { s with regs := t.regs, moment := t.moment, agenda := t.agenda, notices := t.notices, link := t.link
                     thermal := t.thermal, hall := { s.hall with fire := t.hall.fire, above := t.hall.above } }) ∧
    (  s.linkState = 0 →
      s.link.closing = false →
      Completes .linkDisable s fun t =>
        t.g F.HLK_CTRL_EN = 0 ∧ sameRegs [F.HLK_CTRL] s t ∧ t = { s with regs := t.regs })

/-- The Lock phase (not failed) ends 2 ms or more after it began; the Lock and Hop phases fail 10 ms after they began, with RESULT 3 and 4. A probe of the next hop (of at most 9) appends its rtt, the ticks of the echo and 24, or 0xFFFF where the node does not echo within 2,400 ticks, with the node that answers; after the first hop the head, after a later one the node that measured it, drives again from the next character boundary. A valid HOP frame for n stations at HOLOT B with every hop measured fixes the rtt of every position, the ring delays and the loop delay, and sends the IDENT request, whose replies are complete after n spaces and the way round; one with an unmeasured hop fails the enumeration with RESULT 4; an invalid one is ignored but for its character errors. A valid reply of an aligned station with an address, at a position of the ring that has not answered, is noted with its strap word and revision; else only character errors are counted. The end of the Ident phase (from no members) gives every address that answered exactly once a slot in ascending order, with its position and delay, and the Run phase follows the last SETUP. After the fourth cycle RESULT is 1 or 2, and stations that never answered are no members. -/
def Obligations.LinkPhases : Prop :=
  ∀ s : State,
    (  s.linkState = 1 →
      s.link.phaseStart + 3000000 ≤ s.now →
      s.link.failed = false →
      Completes .lockPhaseEnd s fun t =>
        t.linkState = 2 ∧ t.link = { s.link with phaseStart := s.now } ∧
        t.ctr C.HLK_CNT_ENUM = C.HLK_CNT_ENUM.plus (s.ctr C.HLK_CNT_ENUM) 1 ∧
        t.agenda = s.agenda ++ [(s.now + 15000000, .ringOpen)] ∧ sameRegs [F.HLK_STATUS, C.HLK_CNT_ENUM.off] s t ∧
        t = { s with regs := t.regs, moment := t.moment, agenda := t.agenda, link := t.link }) ∧
    (∀ (n : Nat),
      s.linkState = n →
      n = 1 ∨ n = 2 →
      s.link.phaseStart + 15000000 ≤ s.now →
      s.link.failed = false →
      Completes .ringOpen s fun t =>
        t.linkState = n ∧ t.link = { s.link with failed := true } ∧ t.g F.HLK_STATUS_RESULT = n + 2 ∧
        bitN (t.g F.HLK_FLAGS_RING_OPEN) 0 = true ∧ (n = 2 → ∀ j ∈ List.range 9, t.g (F.HLK_POS_RTT j) = 0xFFFF) ∧
        sameRegs ([F.HLK_STATUS, F.HLK_FLAGS, (C.USH_CNT_NQ_LOST 0).off, (C.USH_CNT_NQ_LOST 1).off] ++
          (List.range 9).map F.HLK_POS) s t ∧
        t = { s with regs := t.regs, moment := t.moment, agenda := t.agenda, notices := t.notices, link := t.link }) ∧
    (∀ (u : Option Nat) (d : Nat),
      s.linkState = 2 →
      s.link.rtts = [] →
      s.link.failed = false →
      Completes (.probe 0 ⟨u, d⟩) s fun t =>
        t = { s with link := { s.link with
          rtts := [if s.echoes u ∧ d ≤ 2400 then d + 24 else 0xFFFF], nodes := s.link.nodes ++ u.toList
          rd := t.link.rd, rdAt := nextEdge 240 s.time + 2160, lineEnd := nextEdge 240 s.time + 2160 } }) ∧
    (∀ (h : Nat) (u : Option Nat) (d : Nat),
      s.linkState = 2 →
      h = s.link.rtts.length →
      0 < h →
      h ≤ 8 →
      s.link.failed = false →
      Completes (.probe h ⟨u, d⟩) s fun t =>
        t = { s with link := { s.link with
                       rtts := s.link.rtts ++ [if s.echoes u ∧ d ≤ 2400 then d + 24 else 0xFFFF], nodes := s.link.nodes ++ u.toList }
                     stations := modNth s.stations (nth s.link.nodes (h - 1) 8) fun x =>
                       { x with turned := s.link.rdOn (nextEdge 240 s.time) } }) ∧
    (∀ (h : Nat) (u : Option Nat) (d : Nat),
      s.linkState ≠ 2 ∨ s.link.failed = true ∨ h ≠ s.link.rtts.length ∨ 8 < h →
      Completes (.probe h ⟨u, d⟩) s fun t =>
        t = s) ∧
    (∀ (n : Nat) (rx : Rx) (r : List Nat),
      s.linkState = 2 →
      s.link.failed = false →
      n ≤ 8 →
      rx.hop s.link.rtts = some r →
      r.length = n + 1 →
      r.contains 0xFFFF = false →
      (∀ x ∈ r, x < 2 ^ 16) →
      loopDelay r n < 2 ^ 16 →
      Completes (.hop n rx) s fun t =>
        t.linkState = 3 ∧ t.g F.HLK_LOOP_ENUM = loopDelay r n ∧ t.g F.HLK_LOOP_LAST = loopDelay r n ∧
        (∀ j ∈ List.range (n + 1), t.g (F.HLK_POS_RTT j) = nth r j 0) ∧
        t.ctr C.HLK_CNT_CHAR_ERR = C.HLK_CNT_CHAR_ERR.plus (s.ctr C.HLK_CNT_CHAR_ERR) rx.errs ∧
        t.link = { s.link with rtts := r, delays := (List.range (n + 1)).map (ringDelay r), loop := loopDelay r n, phaseStart := s.now
                               rd := t.link.rd, rdAt := nextEdge 240 s.time + 1680, lineEnd := nextEdge 240 s.time + 1680 } ∧
        t.agenda = s.agenda ++ [(s.now + (nextEdge 240 s.time + 1680 + 6000 * n + loopDelay r n + 48 - s.time), .identPhaseEnd)] ∧
        sameRegs ([F.HLK_STATUS, F.HLK_LOOP, C.HLK_CNT_ENUM.off, C.HLK_CNT_CHAR_ERR.off] ++ (List.range 9).map F.HLK_POS) s t ∧
        t = { s with regs := t.regs, moment := t.moment, agenda := t.agenda, link := t.link }) ∧
    (∀ (n : Nat) (rx : Rx) (r : List Nat),
      s.linkState = 2 →
      s.link.failed = false →
      n ≤ 8 →
      rx.hop s.link.rtts = some r →
      r.length = n + 1 →
      r.contains 0xFFFF = true →
      Completes (.hop n rx) s fun t =>
        t.linkState = 2 ∧ t.link = { s.link with failed := true } ∧ t.g F.HLK_STATUS_RESULT = 4 ∧
        bitN (t.g F.HLK_FLAGS_RING_OPEN) 0 = true ∧
        sameRegs ([F.HLK_STATUS, F.HLK_FLAGS, C.HLK_CNT_CHAR_ERR.off, (C.USH_CNT_NQ_LOST 0).off, (C.USH_CNT_NQ_LOST 1).off] ++
          (List.range 9).map F.HLK_POS) s t ∧
        t = { s with regs := t.regs, moment := t.moment, agenda := t.agenda, notices := t.notices, link := t.link }) ∧
    (∀ (n : Nat) (rx : Rx),
      rx.hop s.link.rtts = none →
      Completes (.hop n rx) s fun t =>
        t.ctr C.HLK_CNT_CHAR_ERR = C.HLK_CNT_CHAR_ERR.plus (s.ctr C.HLK_CNT_CHAR_ERR) rx.errs ∧
        sameRegs [C.HLK_CNT_CHAR_ERR.off] s t ∧ t = { s with regs := t.regs, moment := t.moment }) ∧
    (∀ (g p w v : Nat) (rx : Rx),
      g < 8 →
      s.linkState = 3 →
      (s.station g).powered = true →
      2 ≤ (s.station g).state →
      (s.station g).address.isSome = true →
      1 ≤ p →
      p < s.link.rtts.length →
      s.link.replies.any (fun r => r.1 == p) = false →
      rx.reply (p, (s.station g).strap, (s.station g).rev) = some (p, w, v) →
      Completes (.identRequest g p rx) s fun t =>
        t.link = { s.link with replies := s.link.replies ++ [(p, w, v)] } ∧
        t.ctr C.HLK_CNT_CHAR_ERR = C.HLK_CNT_CHAR_ERR.plus (s.ctr C.HLK_CNT_CHAR_ERR) rx.errs ∧
        sameRegs [C.HLK_CNT_CHAR_ERR.off] s t ∧ t = { s with regs := t.regs, moment := t.moment, link := t.link }) ∧
    (∀ (g p : Nat) (rx : Rx),
      g < 8 →
      s.linkState ≠ 3 ∨ (s.station g).powered = false ∨ (s.station g).state < 2 ∨ (s.station g).address = none ∨ rx.reply (p, (s.station g).strap, (s.station g).rev) = none →
      Completes (.identRequest g p rx) s fun t =>
        t.ctr C.HLK_CNT_CHAR_ERR = C.HLK_CNT_CHAR_ERR.plus (s.ctr C.HLK_CNT_CHAR_ERR) rx.errs ∧
        sameRegs [C.HLK_CNT_CHAR_ERR.off] s t ∧ t = { s with regs := t.regs, moment := t.moment }) ∧
    (  s.linkState = 3 →
      s.time = s.identTick →
      s.link.members = noMembers →
      Completes .identPhaseEnd s fun t =>
        t.linkState = 4 ∧ t.link.nslot = ((List.range 8).filter fun a => (s.positions a).length == 1).length ∧
        t.link.dup = posMask ((List.range 8).flatMap fun a => if 1 < (s.positions a).length then s.positions a else []) ∧
        (∀ a ∈ List.range 8, (t.member a).isSome = ((s.positions a).length == 1) ∧
          (t.member a).all fun m => m.slot == ((List.range a).filter fun b => (s.positions b).length == 1).length &&
            [m.pos] == s.positions a && m.delay == nth s.link.delays m.pos 0 && !m.enum) ∧
        (s.now + (nextEdge 240 s.time + 3840 * t.link.nslot - s.time), Instr.holotCycleStart) ∈ t.agenda ∧
        t.newel = s.newel ∧ t.cams = s.cams ∧ t.store = s.store ∧ t.stations = s.stations) ∧
    (∀ (w : Nat) (v : Nat) (d : Nat),
      s.linkState = 3 →
      s.time = s.identTick →
      s.link.rtts.length = 2 →
      s.link.replies = [(1, w, v)] →
      w < 2 ^ 32 →
      w / 65536 % 16 = 0 →
      nth s.link.delays 1 0 = d →
      d < 1000 →
      s.link.members = noMembers →
      Completes .identPhaseEnd s fun t =>
        t.linkState = 4 ∧ t.g F.HLK_ACC_TICKS = 1320 ∧ t.link.nslot = 1 ∧ t.link.silent = 0 ∧ t.link.dup = 0 ∧
        t.member (w % 8) = some ⟨1, 0, d, false, 0, none, 0, 0, [], false, none, false⟩ ∧
        (∀ g, g ≠ w % 8 → t.member g = none) ∧
        t.g (F.HLK_POS_ADDR 1) = w % 8 ∧ t.g (F.HLK_POS_ANSWERED 1) = 1 ∧ t.g (F.HLK_STA_STRAP_STRAP (w % 8)) = w ∧
        t.g (F.HLK_STA_DELAY_D (w % 8)) = d ∧
        t.link.line = some ⟨4, w % 8, nextEdge 240 s.time, t.setupData (w % 8) ⟨1, 0, d, false, 0, none, 0, 0, [], false, none, false⟩⟩ ∧
        sameBlocks [0x24] s t ∧ t = { s with regs := t.regs, moment := t.moment, agenda := t.agenda, link := t.link }) ∧
    (  s.linkState ≠ 3 ∨ s.time ≠ s.identTick →
      Completes .identPhaseEnd s fun t =>
        t = s) ∧
    (  s.linkState = 5 →
      s.g F.HLK_STATUS_RESULT = 0 →
      s.link.enumLeft = 0 →
      Completes .hlkEnumDone s fun t =>
        t.link = { s.link with members := s.link.members.map fun m => if m.any (·.enum) then m else none } ∧
        t.g F.HLK_STATUS_RESULT = (if s.link.silent = 0 ∧ s.link.dup = 0 ∧
          ((List.range 8).filter s.enumerated).length = s.link.nslot then 1 else 2) ∧
        sameRegs [F.HLK_STATUS, (C.USH_CNT_NQ_LOST 1).off] s t ∧
        t = { s with regs := t.regs, moment := t.moment, agenda := t.agenda, notices := t.notices, link := t.link })

/-- Once no frame is on the line, the end of the Setup phase fixes the first cycle at the first multiple of L 1,500,000 ticks on. A cycle starts on the tick fixed for it, with the next CYC, the length that LENC and the shortest cycle give, and its successor fixed; its marker of 15 characters reaches every configured unit after the unit's delay, and every unit with a slot its read frame. After two park write phases of an entry to Hush or deeper the cycle does not start and cycles stop; the commit point is due. On any other tick, or with the link off or ending, nothing starts. A valid read frame on the tick of its station's slot makes its gallery present, with what it carries in HLK_STA, and takes the commands up to its ACK off the fire queue; an invalid one is counted with its character errors. A slot without one counts a missing cycle of an enumerated gallery: missing, and lost with the third. The return of the MARK sets LAST and ends a run of open cycles; beyond 3 ticks from ENUM it counts towards the drift, and the sixteenth in a row sets DRIFT. A cycle without a marker counts towards the open ring, and the third in a row sets RING_OPEN. -/
def Obligations.LinkCycles : Prop :=
  ∀ s : State,
    (  s.linkState = 4 →
      s.lineBusy s.time = false →
      Completes .holotCycleStart s fun t =>
        t.linkState = 5 ∧ t.link = { s.link with
          phaseStart := s.now, failed := false, cycling := true, len := s.nextLen, line := none
          start := nextEdge s.nextLen (s.time + 1500000), next := some (nextEdge s.nextLen (s.time + 1500000)) } ∧
        t.ctr C.HLK_CNT_ENUM = C.HLK_CNT_ENUM.plus (s.ctr C.HLK_CNT_ENUM) 1 ∧
        t.agenda = s.agenda ++ [(s.now + (nextEdge s.nextLen (s.time + 1500000) - s.time), .holotCycleStart)] ∧
        sameRegs [F.HLK_STATUS, C.HLK_CNT_ENUM.off] s t ∧
        t = { s with regs := t.regs, moment := t.moment, agenda := t.agenda, link := t.link }) ∧
    (  s.linkState = 4 →
      s.lineBusy s.time = true →
      Completes .holotCycleStart s fun t =>
        t = s) ∧
    (  s.linkState = 5 →
      s.link.next = some s.time →
      s.link.cycling = true →
      s.link.closing = false →
      s.ticking = true →
      s.countPark.parkOver = false ∨ s.link.park < 3 →
      s.link.nslot ≤ 8 →
      Completes .holotCycleStart s fun t =>
        t.link.start = s.time ∧ t.link.len = s.nextLen ∧ t.link.cyc = (s.link.cyc + 1) % 256 ∧
        t.link.index = s.link.index + 1 ∧ t.link.next = some (s.time + s.nextLen) ∧ t.link.nslot = s.link.nslot ∧
        t.link.members.all (fun m => m.all fun m => m.held == none && m.sent == [] && !m.outset) = true ∧
        t.link.lineEnd = s.time + 3600 ∧
        (∀ u ∈ List.range 8, (s.station u).powered = true → (s.station u).everSetup = true →
          (s.now + (3600 + s.unitDelay u), Instr.stationMarker u .intact 0) ∈ t.agenda) ∧
        (∀ u ∈ List.range 8, (s.station u).powered = true → (s.station u).everSetup = true → (s.station u).slot < s.link.nslot →
          (s.now + (11064 + 6000 * (s.station u).slot + s.link.loop), Instr.readFrame u .intact) ∈ t.agenda) ∧
        t.g F.HLK_STATUS_CYC = (s.link.cyc + 1) % 256 ∧ t.g F.HLK_LENC_EFF_LENC = s.nextLen / 240 ∧
        t.g F.HLK_STATUS_STRETCHED = (if s.g F.HLK_CYCLE_LENC < cycleMin s.link.nslot then 1 else 0) ∧
        t.ctr C.HLK_CNT_CYCLES = C.HLK_CNT_CYCLES.plus (s.ctr C.HLK_CNT_CYCLES) 1 ∧
        (s.now + s.nextLen, Instr.holotCycleStart) ∈ t.agenda ∧ (s.now + s.link.loop, Instr.markerReturn none) ∈ t.agenda ∧
        (s.countPark.parkOver = true → (s.now, Instr.commitPoint) ∈ t.agenda) ∧
        sameRegs [F.HLK_STATUS, F.HLK_LENC_EFF, C.HLK_CNT_CYCLES.off] s t ∧
        t = { s with regs := t.regs, moment := t.moment, agenda := t.agenda, link := t.link, eff := t.eff, stair := t.stair }) ∧
    (  s.linkState = 5 →
      s.link.next = some s.time →
      s.link.cycling = true →
      s.link.closing = false →
      s.ticking = true →
      s.countPark.parkOver = true →
      3 ≤ s.link.park →
      Completes .holotCycleStart s fun t =>
        t.link.cycling = false ∧ t.link.next = none ∧ t.link.members = s.link.members ∧ t.link.gregs = [] ∧
        t.link.index = s.link.index ∧ (s.now, Instr.commitPoint) ∈ t.agenda ∧ sameRegs [F.HLK_GREG_STATUS] s t ∧
        t = { s with regs := t.regs, moment := t.moment, agenda := t.agenda, link := t.link, stair := t.stair }) ∧
    (  s.linkState ≠ 4 →
      s.linkState ≠ 5 ∨ s.link.next ≠ some s.time ∨ s.link.cycling = false ∨ s.link.closing = true ∨ s.ticking = false →
      Completes .holotCycleStart s fun t =>
        t = s) ∧
    (∀ (g a : Nat) (rx : Rx) (m : Member) (c r : ReadContent),
      g < 8 →
      (s.station g).powered = true →
      (s.station g).address = some a →
      s.member a = some m →
      s.inCycle = true →
      m.held = none →
      s.time = s.link.start + 11064 + 6000 * (s.station g).slot + s.link.loop →
      (s.station g).latched = some c →
      c.sent = true →
      c.cyc = s.link.cyc →
      rx.content a c = some r →
      Completes (.readFrame g rx) s fun t =>
        t.member a = some { m with enum := true, miss := 0, held := some true, ack := r.ack, prev := r.ack, sent := [] } ∧
        (∀ k, k ≠ a → t.member k = s.member k) ∧
        t.g (F.HLK_STA_STATE a) = 1 ∧ t.g (F.HLK_STA_INPUTS a) = r.inputs % 2 ^ 8 ∧ t.g (F.HLK_STA_CYC a) = s.link.cyc % 2 ^ 8 ∧
        t.g (F.HLK_STA_ON_MASK a) = r.on_ % 2 ^ 32 ∧ t.g (F.HLK_STA_PEAK_MASK a) = r.peak % 2 ^ 32 ∧
        t.g (F.HLK_STA_ACK_SEQ a) = r.ack % 2 ^ 16 ∧
        t.fireQueue a = (s.fireQueue a).filter (fun d => decide (32768 ≤ (r.ack + 65536 - d.seq) % 65536)) ∧
        (∀ k, k ≠ a → t.fireQueue k = s.fireQueue k) ∧ (t.station g).latched = none ∧ (∀ k, k ≠ g → t.station k = s.station k) ∧
        t.newel = s.newel ∧ t.cams = s.cams ∧ t.store = s.store ∧ t.ports = s.ports) ∧
    (∀ (g a : Nat) (rx : Rx) (m : Member) (c r : ReadContent),
      g < 8 →
      (s.station g).powered = true →
      (s.station g).address = some a →
      s.member a = some m →
      s.inCycle = true →
      m.held = none →
      s.time = s.link.start + 11064 + 6000 * (s.station g).slot + s.link.loop →
      (s.station g).latched = some c →
      c.sent = true →
      c.cyc = s.link.cyc →
      rx.content a c = some r →
      bitN r.stat 3 = false →
      s.g (F.HLK_STA_STATE a) = 1 →
      s.fireQueue a = [] →
      Completes (.readFrame g rx) s fun t =>
        t.member a = some { m with enum := true, miss := 0, held := some true, ack := r.ack, prev := r.ack, sent := [] } ∧
        (∀ k, k ≠ a → t.member k = s.member k) ∧
        t.g (F.HLK_STA_STATE a) = 1 ∧ t.g (F.HLK_STA_INPUTS a) = r.inputs % 2 ^ 8 ∧ t.g (F.HLK_STA_CYC a) = s.link.cyc % 2 ^ 8 ∧
        t.g (F.HLK_STA_ON_MASK a) = r.on_ % 2 ^ 32 ∧ t.g (F.HLK_STA_PEAK_MASK a) = r.peak % 2 ^ 32 ∧
        t.g (F.HLK_STA_ACK_SEQ a) = r.ack % 2 ^ 16 ∧
        t.link = { s.link with members := t.link.members } ∧
        sameRegs [F.HLK_STA a, F.HLK_STA_ON a, F.HLK_STA_PEAK a, F.HLK_STA_ACK a, F.HLK_STATUS] s t ∧
        t = { s with regs := t.regs, agenda := t.agenda, stations := t.stations, link := t.link }) ∧
    (∀ (g a : Nat) (rx : Rx) (m : Member),
      g < 8 →
      (s.station g).powered = true →
      (s.station g).address = some a →
      s.member a = some m →
      s.inCycle = true →
      m.held = none →
      s.time = s.link.start + 11064 + 6000 * (s.station g).slot + s.link.loop →
      (s.station g).latched.any (fun c => c.sent && decide (c.cyc = s.link.cyc) && (rx.content a c).isSome) = false →
      (s.station g).latched.any (fun c => c.sent && decide (c.cyc = s.link.cyc)) = true ∨ rx ≠ .intact →
      Completes (.readFrame g rx) s fun t =>
        t.ctr C.HLK_CNT_CHAR_ERR = C.HLK_CNT_CHAR_ERR.plus (s.ctr C.HLK_CNT_CHAR_ERR) rx.errs ∧
        t.ctr (C.HLK_CNT_FRAME_ERR a) = (C.HLK_CNT_FRAME_ERR a).plus (s.ctr (C.HLK_CNT_FRAME_ERR a)) 1 ∧
        (t.station g).latched = none ∧ (∀ k, k ≠ g → t.station k = s.station k) ∧
        sameRegs [C.HLK_CNT_CHAR_ERR.off, (C.HLK_CNT_FRAME_ERR a).off] s t ∧
        t = { s with regs := t.regs, moment := t.moment, stations := t.stations }) ∧
    (∀ (g : Nat) (rx : Rx),
      g < 8 →
      (s.station g).powered = false ∨ (s.station g).address = none ∨ s.inCycle = false →
      Completes (.readFrame g rx) s fun t =>
        t = s) ∧
    (∀ (g : Nat) (m : Member),
      g < 8 →
      s.member g = some m →
      s.inCycle = true →
      m.held = none →
      s.time = s.link.start + 11064 + 6000 * m.slot + s.link.loop →
      m.enum = true →
      Completes (.slotMissed g) s fun t =>
        t.member g = some { m with held := some false, miss := m.miss + 1 } ∧ (∀ k, k ≠ g → t.member k = s.member k) ∧
        t.g (F.HLK_STA_STATE g) = (if 2 ≤ m.miss then 3 else 2) ∧
        t.ctr (C.HLK_CNT_MISS g) = (C.HLK_CNT_MISS g).plus (s.ctr (C.HLK_CNT_MISS g)) 1 ∧
        (m.miss = 0 → bitN (t.g F.HLK_FLAGS_MISSING) g = true) ∧ (m.miss = 2 → bitN (t.g F.HLK_FLAGS_LOST) g = true) ∧
        (∀ k, k ≠ g → t.fireQueue k = s.fireQueue k) ∧ t.stations = s.stations ∧ t.newel = s.newel ∧ t.cams = s.cams ∧
        t.store = s.store) ∧
    (∀ (g : Nat) (m : Member),
      g < 8 →
      s.member g = some m →
      s.inCycle = true →
      m.held = none →
      s.time = s.link.start + 11064 + 6000 * m.slot + s.link.loop →
      m.enum = true →
      m.miss ≠ 0 →
      m.miss ≠ 2 →
      s.fireQueue g = [] →
      Completes (.slotMissed g) s fun t =>
        sameRegs [F.HLK_STA g, (C.HLK_CNT_MISS g).off] s t ∧
        t = { s with regs := t.regs, moment := t.moment, agenda := t.agenda, link := { s.link with members := t.link.members } }) ∧
    (∀ (g : Nat) (m : Member),
      g < 8 →
      s.member g = some m →
      s.inCycle = true →
      m.held = none →
      s.time = s.link.start + 11064 + 6000 * m.slot + s.link.loop →
      m.enum = true →
      m.miss = 2 →
      s.fireQueue g = [] →
      Completes (.slotMissed g) s fun t =>
        sameRegs [F.HLK_STA g, F.HLK_FLAGS, (C.HLK_CNT_MISS g).off, (C.USH_CNT_NQ_LOST 0).off] s t ∧
        t = { s with regs := t.regs, moment := t.moment, agenda := t.agenda, notices := t.notices
                     link := { s.link with members := t.link.members } }) ∧
    (∀ (g : Nat) (m : Member),
      g < 8 →
      s.member g = some m →
      s.inCycle = true →
      m.held = none →
      s.time = s.link.start + 11064 + 6000 * m.slot + s.link.loop →
      m.enum = false →
      Completes (.slotMissed g) s fun t =>
        t = { s with agenda := t.agenda, link := { s.link with
          members := modNth s.link.members g fun m => m.map fun m => { m with held := some false, miss := m.miss + 1 } } }) ∧
    (∀ (g : Nat) (m : Member),
      g < 8 →
      s.member g = some m →
      s.inCycle = false ∨ m.held.isSome = true ∨ s.time ≠ s.link.start + 11064 + 6000 * m.slot + s.link.loop →
      Completes (.slotMissed g) s fun t =>
        t = s) ∧
    (∀ (o : Option Nat) (d : Nat),
      d = o.getD s.link.loop →
      s.inCycle = true →
      s.time = s.link.start + d →
      ((d : Int) - (s.g F.HLK_LOOP_ENUM : Int)).natAbs ≤ 3 ∨ s.link.driftCycles + 1 < 16 →
      Completes (.markerReturn o) s fun t =>
        t.g F.HLK_LOOP_LAST = d % 2 ^ 16 ∧ t.g F.HLK_LOOP_ENUM = s.g F.HLK_LOOP_ENUM ∧
        t.link = { s.link with openCycles := 0, driftCycles := if ((d : Int) - (s.g F.HLK_LOOP_ENUM : Int)).natAbs ≤ 3 then 0 else s.link.driftCycles + 1 } ∧
        t.markerAwaited = false ∧ sameRegs [F.HLK_LOOP] s t ∧ t = { s with regs := t.regs, agenda := t.agenda, link := t.link }) ∧
    (∀ (o : Option Nat) (d : Nat),
      d = o.getD s.link.loop →
      s.inCycle = true →
      s.time = s.link.start + d →
      3 < ((d : Int) - (s.g F.HLK_LOOP_ENUM : Int)).natAbs →
      s.link.driftCycles + 1 = 16 →
      Completes (.markerReturn o) s fun t =>
        t.g F.HLK_LOOP_LAST = d % 2 ^ 16 ∧ t.link = { s.link with openCycles := 0, driftCycles := 0 } ∧
        bitN (t.g F.HLK_FLAGS_DRIFT) 0 = true ∧ t.markerAwaited = false ∧
        sameRegs [F.HLK_LOOP, F.HLK_FLAGS, (C.USH_CNT_NQ_LOST 1).off] s t ∧
        t = { s with regs := t.regs, moment := t.moment, agenda := t.agenda, notices := t.notices, link := t.link }) ∧
    (∀ (o : Option Nat) (d : Nat),
      d = o.getD s.link.loop →
      s.inCycle = true →
      s.time < s.link.start + d →
      s.markerAwaited = true →
      Completes (.markerReturn o) s fun t =>
        t.markerAwaited = true ∧ (s.now + (s.link.start + d - s.time), Instr.markerReturn o) ∈ t.agenda ∧ t = { s with agenda := t.agenda }) ∧
    (∀ (rx : Rx),
      s.inCycle = true →
      s.markerAwaited = true →
      s.link.openCycles < 2 →
      Completes (.markerMissing rx) s fun t =>
        t.link = { s.link with openCycles := s.link.openCycles + 1, driftCycles := 0 } ∧
        t.ctr C.HLK_CNT_CHAR_ERR = C.HLK_CNT_CHAR_ERR.plus (s.ctr C.HLK_CNT_CHAR_ERR) rx.errs ∧ t.markerAwaited = false ∧
        sameRegs [C.HLK_CNT_CHAR_ERR.off] s t ∧
        t = { s with regs := t.regs, moment := t.moment, agenda := t.agenda, link := t.link }) ∧
    (∀ (rx : Rx),
      s.inCycle = true →
      s.markerAwaited = true →
      2 ≤ s.link.openCycles →
      Completes (.markerMissing rx) s fun t =>
        t.link = { s.link with openCycles := 0, driftCycles := 0 } ∧ bitN (t.g F.HLK_FLAGS_RING_OPEN) 0 = true ∧
        t.ctr C.HLK_CNT_CHAR_ERR = C.HLK_CNT_CHAR_ERR.plus (s.ctr C.HLK_CNT_CHAR_ERR) rx.errs ∧ t.markerAwaited = false ∧
        sameRegs [C.HLK_CNT_CHAR_ERR.off, F.HLK_FLAGS, (C.USH_CNT_NQ_LOST 0).off] s t ∧
        t = { s with regs := t.regs, moment := t.moment, agenda := t.agenda, notices := t.notices, link := t.link }) ∧
    (∀ (rx : Rx),
      s.inCycle = false ∨ s.markerAwaited = false →
      Completes (.markerMissing rx) s fun t =>
        t = s)

/-- At a character boundary of the write phase with the line free, the command that comes first is sent to its gallery with PREV if it fits, counted as a resend if it was sent before; one that is late is discarded and counted, one with a double-bit error discarded; a missing gallery keeps no command that the next cycle could not deliver. A lesser frame on the line is broken off with ABT and counted when a FIRE is ready that fits after it. With no FIRE to go first, the first present gallery without its OUTSET gets it with the settings of this tick; then a register transaction that may be sent gets its frame, else a lost gallery its SETUP, else the next heat-sink sensor its read. Each frame sent is on the line, on its way to every powered unit, taken by each that it is addressed to on that unit's acceptance tick, and back as an echo after the loop delay. An echo counts its character errors, and as an error where it is not the frame sent. A register transaction of the host is busy until its reply or its time-out, or fails at once with no cycles or no such gallery. -/
def Obligations.LinkSends : Prop :=
  ∀ s : State,
    (∀ (g : Nat) (c : FireCmd) (m : Member) (f : LinkFrame),
      g < 8 →
      s.canStart = true →
      s.missing g = false →
      s.lineBusy s.time = false →
      s.firePick s.time = some (g, c) →
      c.bad = false →
      deliverable c.fire s.link.start s.link.len = true →
      s.fits s.time 24 s.unsent = true →
      s.member g = some m →
      (f = ⟨0, g, s.time, [m.prev, c.jets, c.fire, c.seq, c.dur, c.gallery, if c.fallback then 1 else 0, if c.doubt then 1 else 0]⟩) →
      Completes (.fireSend g) s fun t =>
        t.link.line = some f ∧ t.link.rdAt = s.time + 240 * f.syms.length ∧
        t.link.inFlight = s.link.inFlight ++ ((List.range 8).filter fun u => (s.station u).powered).map (fun u => ⟨s.takesAt u f, u, f⟩) ∧
        (∀ u ∈ ((List.range 8).filter fun u => (s.station u).powered), (s.station u).hears f = true → (s.now + (s.takesAt u f - s.time), f.taken u) ∈ t.agenda) ∧
        t.link.echoes = s.link.echoes ++ [(f.fin + s.link.loop, f)] ∧
        (s.now + (f.fin + s.link.loop - s.time), Instr.echoReturn .intact) ∈ t.agenda ∧
        t.member g = some { m with prev := c.seq, sent := m.sent ++ [c.seq] } ∧ (∀ k, k ≠ g → t.member k = s.member k) ∧
        t.hall.fire = (modNth s.hall.fire g fun q => q.map fun d => if d = c then { d with sentOnce := true } else d) ∧
        t.ctr (C.HLK_CNT_RESEND g) = (C.HLK_CNT_RESEND g).plus (s.ctr (C.HLK_CNT_RESEND g)) (if c.sentOnce then 1 else 0) ∧
        sameRegs [(C.HLK_CNT_RESEND g).off] s t ∧
        t = { s with regs := t.regs, moment := t.moment, agenda := t.agenda, hall := { s.hall with fire := t.hall.fire }
                     link := { s.link with members := t.link.members, rd := t.link.rd, rdAt := t.link.rdAt, line := t.link.line, inFlight := t.link.inFlight
                                           echoes := t.link.echoes } }) ∧
    (∀ (g : Nat) (c : FireCmd),
      g < 8 →
      s.canStart = true →
      s.missing g = false →
      s.lineBusy s.time = false →
      s.firePick s.time = some (g, c) →
      c.bad = false →
      deliverable c.fire s.link.start s.link.len = true →
      s.fits s.time 24 s.unsent = false →
      Completes (.fireSend g) s fun t =>
        t = s) ∧
    (∀ (g : Nat) (c : FireCmd),
      g < 8 →
      s.canStart = true →
      s.missing g = false →
      s.lineBusy s.time = false →
      s.firePick s.time = some (g, c) →
      c.bad = false →
      deliverable c.fire s.link.start s.link.len = false →
      Completes (.fireSend g) s fun t =>
        t.fireQueue g = (s.fireQueue g).filter (· ≠ c) ∧ (∀ k, k ≠ g → t.fireQueue k = s.fireQueue k) ∧
        t.ctr (C.EJP_CNT_LATE g) = (C.EJP_CNT_LATE g).plus (s.ctr (C.EJP_CNT_LATE g)) 1 ∧
        t.getPair F.EJP_LAST_LATE_LO = c.fire % 2 ^ 64 ∧ t.g F.EJP_LAST_LATE_INFO_GALLERY = g ∧
        bitN (t.g F.EJP_FLAGS_LATE) g = true ∧ t.link = s.link ∧ t.stations = s.stations) ∧
    (∀ (g : Nat) (c : FireCmd),
      g < 8 →
      s.canStart = true →
      s.missing g = false →
      s.lineBusy s.time = false →
      s.firePick s.time = some (g, c) →
      c.bad = true →
      Completes (.fireSend g) s fun t =>
        t.fireQueue g = (s.fireQueue g).filter (· ≠ c) ∧ (∀ k, k ≠ g → t.fireQueue k = s.fireQueue k) ∧ t.link = s.link ∧
        t.stations = s.stations) ∧
    (∀ (g : Nat),
      g < 8 →
      s.canStart = true →
      s.missing g = true →
      Completes (.fireSend g) s fun t =>
        (t.fireQueue g).all (fun c => deliverable c.fire s.cycleEnd s.nextLen) = true ∧ (∀ k, k ≠ g → t.fireQueue k = s.fireQueue k) ∧
        t.link = s.link ∧ t.stations = s.stations) ∧
    (∀ (g : Nat),
      g < 8 →
      s.canStart = false ∨ (s.missing g = false ∧ s.lineBusy s.time = false ∧ (s.firePick s.time).all (fun p => p.1 != g) = true) →
      Completes (.fireSend g) s fun t =>
        t = s) ∧
    (∀ (g : Nat) (f : LinkFrame),
      g < 8 →
      s.canStart = true →
      s.missing g = false →
      s.link.line = some f →
      s.time < f.fin →
      f.kind ≠ 0 →
      s.fireReady s.time = true →
      s.fits (s.time + 240) 24 (s.unsent + (if f.kind = 1 then 1 else 0)) = true →
      Completes (.fireSend g) s fun t =>
        t.link.line = none ∧ t.link.abt = some (s.time + 240) ∧ t.link.rdAt = s.time + 240 ∧
        t.link.echoes = s.link.echoes.filter (fun e => e.2 != f) ∧
        t.ctr C.HLK_CNT_ABORT = C.HLK_CNT_ABORT.plus (s.ctr C.HLK_CNT_ABORT) 1 ∧
        (f.kind = 1 → (t.member f.gal).all (fun m => !m.outset) = true) ∧ sameRegs [C.HLK_CNT_ABORT.off] s t ∧
        t = { s with regs := t.regs, moment := t.moment, agenda := t.agenda, link := t.link }) ∧
    (∀ (g : Nat) (f : LinkFrame),
      g < 8 →
      s.canStart = true →
      s.missing g = false →
      s.link.line = some f →
      s.time < f.fin →
      f.kind = 0 ∨ s.fireReady s.time = false ∨ s.fits (s.time + 240) 24 (s.unsent + (if f.kind = 1 then 1 else 0)) = false →
      Completes (.fireSend g) s fun t =>
        t = s) ∧
    (∀ (g : Nat) (m : Member) (f : LinkFrame),
      g < 8 →
      s.canStart = true →
      s.lineBusy s.time = false →
      s.fireFirst = false →
      s.wantsOutset g = true →
      s.fits s.time 12 0 = true →
      (List.range g).any s.wantsOutset = false →
      s.member g = some m →
      f = ⟨1, g, s.time, [s.g (F.EJP_JET_EN_MASK g), s.link.park, s.e (F.HLK_OUT_CUT g), s.link.cyc]⟩ →
      Completes (.outsetSend g) s fun t =>
        t.link.line = some f ∧ t.link.rdAt = s.time + 240 * f.syms.length ∧
        t.link.inFlight = s.link.inFlight ++ ((List.range 8).filter fun u => (s.station u).powered).map (fun u => ⟨s.takesAt u f, u, f⟩) ∧
        (∀ u ∈ ((List.range 8).filter fun u => (s.station u).powered), (s.station u).hears f = true → (s.now + (s.takesAt u f - s.time), f.taken u) ∈ t.agenda) ∧
        t.link.echoes = s.link.echoes ++ [(f.fin + s.link.loop, f)] ∧
        (s.now + (f.fin + s.link.loop - s.time), Instr.echoReturn .intact) ∈ t.agenda ∧
        t.member g = some { m with outset := true, parked := some s.link.park } ∧ (∀ k, k ≠ g → t.member k = s.member k) ∧
        t = { s with agenda := t.agenda
                     link := { s.link with members := t.link.members, rd := t.link.rd, rdAt := t.link.rdAt, line := t.link.line, inFlight := t.link.inFlight
                                           echoes := t.link.echoes } }) ∧
    (∀ (g : Nat),
      g < 8 →
      s.canStart = false ∨ s.lineBusy s.time = true ∨ s.fireFirst = true ∨ s.wantsOutset g = false ∨ s.fits s.time 12 0 = false ∨ (List.range g).any s.wantsOutset = true →
      Completes (.outsetSend g) s fun t =>
        t = s) ∧
    (∀ (r : Greg) (f : LinkFrame),
      s.canStart = true →
      s.lineBusy s.time = false →
      s.fireFirst = false →
      (List.range 8).any s.wantsOutset = false ∨ s.fits s.time 12 0 = false →
      s.gregPick = some r →
      f = r.frame s.time →
      Completes .registerFrameSend s fun t =>
        t.link.line = some f ∧ t.link.rdAt = s.time + 240 * f.syms.length ∧
        t.link.inFlight = s.link.inFlight ++ ((List.range 8).filter fun u => (s.station u).powered).map (fun u => ⟨s.takesAt u f, u, f⟩) ∧
        (∀ u ∈ ((List.range 8).filter fun u => (s.station u).powered), (s.station u).hears f = true → (s.now + (s.takesAt u f - s.time), f.taken u) ∈ t.agenda) ∧
        t.link.echoes = s.link.echoes ++ [(f.fin + s.link.loop, f)] ∧
        (s.now + (f.fin + s.link.loop - s.time), Instr.echoReturn .intact) ∈ t.agenda ∧
        t.link.gregs = s.link.gregs.map (fun u => if u = r then { u with sent := some s.link.index } else u) ∧
        t = { s with agenda := t.agenda
                     link := { s.link with gregs := t.link.gregs, rd := t.link.rd, rdAt := t.link.rdAt, line := t.link.line, inFlight := t.link.inFlight
                                           echoes := t.link.echoes } }) ∧
    (∀ (g : Nat) (m : Member) (f : LinkFrame),
      s.canStart = true →
      s.lineBusy s.time = false →
      s.fireFirst = false →
      (List.range 8).any s.wantsOutset = false ∨ s.fits s.time 12 0 = false →
      s.gregPick = none →
      s.setupPick = some (g, m) →
      f = ⟨4, g, s.time, s.setupData g m⟩ →
      Completes .registerFrameSend s fun t =>
        t.link.line = some f ∧ t.link.rdAt = s.time + 240 * f.syms.length ∧
        t.link.inFlight = s.link.inFlight ++ ((List.range 8).filter fun u => (s.station u).powered).map (fun u => ⟨s.takesAt u f, u, f⟩) ∧
        (∀ u ∈ ((List.range 8).filter fun u => (s.station u).powered), (s.station u).hears f = true → (s.now + (s.takesAt u f - s.time), f.taken u) ∈ t.agenda) ∧
        t.link.echoes = s.link.echoes ++ [(f.fin + s.link.loop, f)] ∧
        (s.now + (f.fin + s.link.loop - s.time), Instr.echoReturn .intact) ∈ t.agenda ∧
        t.link.members = modNth s.link.members g (fun m => m.map fun m => { m with setup := true }) ∧
        t = { s with agenda := t.agenda
                     link := { s.link with members := t.link.members, rd := t.link.rd, rdAt := t.link.rdAt, line := t.link.line, inFlight := t.link.inFlight
                                           echoes := t.link.echoes } }) ∧
    (∀ (n : Nat) (f : LinkFrame),
      s.canStart = true →
      s.lineBusy s.time = false →
      s.fireFirst = false →
      (List.range 8).any s.wantsOutset = false ∨ s.fits s.time 12 0 = false →
      s.gregPick = none →
      s.setupPick = none →
      s.sensorPick = some n →
      f = ⟨3, n / 4, s.time, [0xC0 + 4 * (n % 4)]⟩ →
      Completes .registerFrameSend s fun t =>
        t.link.line = some f ∧ t.link.rdAt = s.time + 240 * f.syms.length ∧
        t.link.inFlight = s.link.inFlight ++ ((List.range 8).filter fun u => (s.station u).powered).map (fun u => ⟨s.takesAt u f, u, f⟩) ∧
        (∀ u ∈ ((List.range 8).filter fun u => (s.station u).powered), (s.station u).hears f = true → (s.now + (s.takesAt u f - s.time), f.taken u) ∈ t.agenda) ∧
        t.link.echoes = s.link.echoes ++ [(f.fin + s.link.loop, f)] ∧
        (s.now + (f.fin + s.link.loop - s.time), Instr.echoReturn .intact) ∈ t.agenda ∧
        t.link.gregs = s.link.gregs ++ [⟨2, false, n / 4, 0xC0 + 4 * (n % 4), 0, some s.link.index⟩] ∧ t.link.sensor = (n + 1) % 32 ∧
        t.link.sensed = true ∧
        t = { s with agenda := t.agenda
                     link := { s.link with gregs := t.link.gregs, sensor := t.link.sensor, sensed := true, rd := t.link.rd, rdAt := t.link.rdAt, line := t.link.line, inFlight := t.link.inFlight
                                           echoes := t.link.echoes } }) ∧
    (  s.canStart = false ∨ s.lineBusy s.time = true ∨ s.fireFirst = true ∨ (s.gregPick = none ∧ s.setupPick = none ∧ s.sensorPick = none) →
      Completes .registerFrameSend s fun t =>
        t = s) ∧
    (∀ (g : Nat),
      g < 8 →
      s.writing = false ∨ s.missing g = false →
      Completes (.fireDelivery g) s fun t =>
        (s.writing = true → s.link.cycling = true → edgeAfter 240 s.time < s.cycleEnd →
          (s.now + (edgeAfter 240 s.time - s.time), Instr.fireSend g) ∈ t.agenda) ∧ t = { s with agenda := t.agenda }) ∧
    (∀ (g : Nat),
      g < 8 →
      s.writing = true →
      s.missing g = true →
      Completes (.fireDelivery g) s fun t =>
        (t.fireQueue g).all (fun c => deliverable c.fire s.cycleEnd s.nextLen) = true ∧ (∀ k, k ≠ g → t.fireQueue k = s.fireQueue k) ∧
        t.link = s.link ∧ t.stations = s.stations) ∧
    (∀ (rx : Rx) (f : LinkFrame),
      s.link.echoes.find? (fun e => e.1 == s.time) = some (s.time, f) →
      Completes (.echoReturn rx) s fun t =>
        t.link = { s.link with echoes := s.link.echoes.filter fun e => decide (s.time < e.1) } ∧
        t.ctr C.HLK_CNT_CHAR_ERR = C.HLK_CNT_CHAR_ERR.plus (s.ctr C.HLK_CNT_CHAR_ERR) rx.errs ∧
        t.ctr C.HLK_CNT_ECHO_ERR = C.HLK_CNT_ECHO_ERR.plus (s.ctr C.HLK_CNT_ECHO_ERR) (if rx.syms f.syms = f.syms then 0 else 1) ∧
        (rx.syms f.syms ≠ f.syms → bitN (t.g F.HLK_FLAGS_ECHO) 0 = true) ∧
        sameRegs [C.HLK_CNT_CHAR_ERR.off, C.HLK_CNT_ECHO_ERR.off, F.HLK_FLAGS] s t ∧
        t = { s with regs := t.regs, moment := t.moment, link := t.link }) ∧
    (∀ (rx : Rx),
      s.link.echoes.any (fun e => e.1 == s.time) = false →
      Completes (.echoReturn rx) s fun t =>
        t = s) ∧
    (∀ (w : Nat),
      w < 2 ^ 32 →
      w % 2 = 1 →
      s.gregBusy = false →
      s.link.cycling = true →
      s.enumerated (w / 16 % 8) = true →
      Completes (.greg w) s fun t =>
        t.link = { s.link with gregs := s.link.gregs ++
          [⟨0, w / 2 % 2 == 1, w / 16 % 8, w / 65536 % 256, s.g F.HLK_GREG_DATA_DATA, none⟩] } ∧
        t.g F.HLK_GREG_STATUS_BUSY = 1 ∧ sameRegs [F.HLK_GREG_CTRL, F.HLK_GREG_STATUS] s t ∧
        t = { s with regs := t.regs, agenda := t.agenda, link := t.link }) ∧
    (∀ (w : Nat),
      w < 2 ^ 32 →
      w % 2 = 1 →
      s.gregBusy = false →
      s.link.cycling = false ∨ s.enumerated (w / 16 % 8) = false →
      Completes (.greg w) s fun t =>
        t.link = s.link ∧ t.g F.HLK_GREG_STATUS_BUSY = 0 ∧ bitN (t.g F.HLK_GREG_STATUS_FAIL) 0 = true ∧
        sameRegs [F.HLK_GREG_CTRL, F.HLK_GREG_STATUS] s t ∧ t = { s with regs := t.regs, moment := t.moment }) ∧
    (∀ (w : Nat),
      w < 2 ^ 32 →
      w % 2 = 0 ∨ s.gregBusy = true →
      Completes (.greg w) s fun t =>
        t.g F.HLK_GREG_CTRL_WRITE = w / 2 % 2 ∧ t.g F.HLK_GREG_CTRL_GAL = w / 16 % 8 ∧ t.g F.HLK_GREG_CTRL_ADDR = w / 65536 % 65536 ∧
        sameRegs [F.HLK_GREG_CTRL] s t ∧ t = { s with regs := t.regs }) ∧
    (  s.link.gregs.any (fun r => r.sent.any (fun k => decide (k + 5 ≤ s.link.index)) && r.kind == 0) = true →
      Completes .gregTimeout s fun t =>
        t.link = { s.link with gregs := s.link.gregs.filter fun r => !r.sent.any fun k => decide (k + 5 ≤ s.link.index) } ∧
        t.g F.HLK_GREG_STATUS_BUSY = 0 ∧ bitN (t.g F.HLK_GREG_STATUS_FAIL) 0 = true ∧
        sameRegs [F.HLK_GREG_STATUS] s t ∧ t = { s with regs := t.regs, moment := t.moment, link := t.link }) ∧
    (  s.link.gregs.any (fun r => r.sent.any (fun k => decide (k + 5 ≤ s.link.index)) && r.kind == 0) = false →
      Completes .gregTimeout s fun t =>
        t = { s with link := { s.link with
          gregs := s.link.gregs.filter fun r => !r.sent.any fun k => decide (k + 5 ≤ s.link.index) } })

/-- LOGIC coming up gives an unpowered gallery its registers at reset with the strapped ceilings, its count starting at zero (the model's choice, log entry 136); its loss leaves nothing. The station goes from state 0 to 1 with the bit clock, to 2 when what it receives aligns it, with the running disparity with which it starts to transmit, and from 2 to 5 back to 1, parked with every pulse ended, when alignment is lost, with its character errors counted. A new raw level of an input is noted with its stamp and awaits its filter; a level held for the filter time becomes the input's level, its stamp that of the raw edge less 2 ticks, and asks for a wake where it is enabled to (with fewer than three markers in a row missed: it waits for the slot). A coil failure is flagged with an item, a short also after an open coil. The end of its wake phrases stops them. On an event that does not apply nothing changes. -/
def Obligations.GalleryLife : Prop :=
  ∀ s : State,
    (∀ (g : Nat) (l : List Nat) (v : Nat),
      g < 8 →
      g < s.stations.length →
      (s.station g).powered = false →
      Completes (.galleryPowerOn g l v) s fun t =>
        (t.station g).powered = true ∧ (t.station g).state = 0 ∧ (t.station g).rev = v % 256 ∧ 
        (t.station g).g G.peakCeil = (t.station g).strapPeak ∧ (t.station g).g G.holdCeil = (t.station g).strapHold ∧
        (t.station g).g G.peakTimeCeil = (t.station g).strapTime ∧ (t.station g).g G.timeValid = 0 ∧
        (t.station g).g G.parked = 1 ∧ (t.station g).store = [] ∧ (t.station g).pulses = [] ∧ (t.station g).en = 0 ∧ t.loc g = 0 ∧
        (∀ h, h ≠ g → t.station h = s.station h) ∧ t = { s with stations := t.stations, freeCount := t.freeCount }) ∧
    (∀ (g : Nat) (v : Nat),
      g < 8 →
      g < s.stations.length →
      (s.station g).powered = false →
      Completes (.galleryPowerOn g [0, 0, 0, 0] v) s fun t =>
        (t.station g).powered = true ∧ (t.station g).state = 0 ∧ (t.station g).rev = v % 256 ∧ (t.station g).address.isSome = true ∧
        (t.station g).g G.peakCeil = (t.station g).strapPeak ∧ (t.station g).g G.holdCeil = (t.station g).strapHold ∧
        (t.station g).g G.peakTimeCeil = (t.station g).strapTime ∧ (t.station g).g G.timeValid = 0 ∧
        (t.station g).g G.parked = 1 ∧ (t.station g).store = [] ∧ (t.station g).pulses = [] ∧ (t.station g).en = 0 ∧ t.loc g = 0 ∧
        (∀ h, h ≠ g → t.station h = s.station h) ∧ t = { s with stations := t.stations, freeCount := t.freeCount }) ∧
    (∀ (g : Nat) (l : List Nat) (v : Nat),
      g < 8 →
      (s.station g).powered = true →
      Completes (.galleryPowerOn g l v) s fun t =>
        t = { s with freeCount := t.freeCount }) ∧
    (∀ (g : Nat),
      g < 8 →
      g < s.stations.length →
      Completes (.logicSupplyLoss g) s fun t =>
        t.station g = Station.idle.onTick s.now ∧ (∀ h, h ≠ g → t.station h = s.station h) ∧ t = { s with stations := t.stations, agenda := t.agenda }) ∧
    (∀ (g : Nat),
      g < 8 →
      (s.station g).powered = true →
      (s.station g).state = 0 →
      Completes (.baudClockRecovered g) s fun t =>
        (t.station g).state = 1 ∧ t.station g = { s.station g with regs := (t.station g).regs } ∧
        sameGal [0x08, 0x0C] (s.station g) (t.station g) ∧ (∀ h, h ≠ g → t.station h = s.station h) ∧ t = { s with stations := t.stations }) ∧
    (∀ (g : Nat),
      g < 8 →
      (s.station g).powered = false ∨ (s.station g).state ≠ 0 →
      Completes (.baudClockRecovered g) s fun t =>
        t = s) ∧
    (∀ (g : Nat) (rx : Rx),
      g < 8 →
      (s.station g).powered = true →
      (s.station g).state = 1 →
      alignedBy rx = true →
      Completes (.receiverAligned ⟨g, rx⟩) s fun t =>
        (t.station g).state = 2 ∧ t.station g = { s.station g with regs := (t.station g).regs, turned := s.link.rdOn s.time } ∧
        sameGal [0x08, 0x0C] (s.station g) (t.station g) ∧ (∀ h, h ≠ g → t.station h = s.station h) ∧ t = { s with stations := t.stations }) ∧
    (∀ (g : Nat) (rx : Rx),
      g < 8 →
      (s.station g).powered = false ∨ (s.station g).state ≠ 1 ∨ alignedBy rx = false →
      Completes (.receiverAligned ⟨g, rx⟩) s fun t =>
        t = s) ∧
    (∀ (g : Nat) (rx : Rx),
      g < 8 →
      (s.station g).powered = true →
      2 ≤ (s.station g).state →
      losesAlignment (rx.syms []) = true →
      Completes (.alignmentLoss g rx) s fun t =>
        (t.station g).state = 1 ∧ (t.station g).g G.parked = 1 ∧
        (t.station g).g ⟨G.charErr, 15, 0⟩ = min 65535 ((s.station g).g ⟨G.charErr, 15, 0⟩ + rx.errs) ∧ (t.station g).pulses = [] ∧
        (t.station g).cycles = (s.station g).cycles ∧ (t.station g).store = (s.station g).store ∧ (∀ h, h ≠ g → t.station h = s.station h) ∧ t = { s with stations := t.stations, freeCount := t.freeCount }) ∧
    (∀ (g : Nat) (rx : Rx),
      g < 8 →
      (s.station g).powered = true →
      2 ≤ (s.station g).state →
      losesAlignment (rx.syms []) = true →
      (s.station g).pulses = [] →
      Completes (.alignmentLoss g rx) s fun t =>
        (t.station g).state = 1 ∧ (t.station g).g G.parked = 1 ∧
        (t.station g).g ⟨G.charErr, 15, 0⟩ = min 65535 ((s.station g).g ⟨G.charErr, 15, 0⟩ + rx.errs) ∧ (t.station g).pulses = [] ∧
        t.station g = { s.station g with regs := (t.station g).regs, moment := (t.station g).moment } ∧
        sameGal [0x08, 0x0C, G.charErr] (s.station g) (t.station g) ∧ (∀ h, h ≠ g → t.station h = s.station h) ∧ t = { s with stations := t.stations }) ∧
    (∀ (g : Nat) (rx : Rx),
      g < 8 →
      (s.station g).powered = false ∨ (s.station g).state < 2 ∨ losesAlignment (rx.syms []) = false →
      Completes (.alignmentLoss g rx) s fun t =>
        t = s) ∧
    (∀ (g : Nat) (i : Nat) (v : Bool),
      g < 8 →
      (s.station g).powered = true →
      i < 8 →
      bitN (s.station g).raw i ≠ v →
      Completes (.inputEdge g i v) s fun t =>
        bitN (t.station g).raw i = v ∧ t.station g = { s.station g with regs := (t.station g).regs, raw := (t.station g).raw, rawAt := modNth (s.station g).rawAt i fun _ => (s.now, s.loc g) } ∧
        sameGal [0x0C] (s.station g) (t.station g) ∧ (∀ h, h ≠ g → t.station h = s.station h) ∧
        t = { s with stations := t.stations, agenda := s.agenda ++ [(s.now + (s.station g).filterTicks i, .inputEdge g i v)] }) ∧
    (∀ (g : Nat) (i : Nat) (v : Bool),
      g < 8 →
      (s.station g).powered = true →
      i < 8 →
      bitN (s.station g).raw i = v →
      bitN (s.station g).inputs i ≠ v →
      (nth (s.station g).rawAt i (0, 0)).1 + (s.station g).filterTicks i ≤ s.now →
      bitN ((s.station g).g G.inWake) i = false ∨ v = false →
      Completes (.inputEdge g i v) s fun t =>
        bitN (t.station g).inputs i = v ∧
        (t.station g).g (G.edgeLo i) + (t.station g).g (G.edgeHi i) * 2 ^ 32 = ((nth (s.station g).rawAt i (0, 0)).2 - 2) % 2 ^ 48 ∧
        (t.station g).g (G.edgeLevel i) = (if v then 1 else 0) ∧ t.station g = { s.station g with regs := (t.station g).regs, inputs := (t.station g).inputs } ∧
        sameGal [0x0C, 0x400 + 8 * i, 0x404 + 8 * i] (s.station g) (t.station g) ∧ (∀ h, h ≠ g → t.station h = s.station h) ∧ t = { s with stations := t.stations }) ∧
    (∀ (g : Nat) (i : Nat),
      g < 8 →
      (s.station g).powered = true →
      i < 8 →
      bitN (s.station g).raw i = true →
      bitN (s.station g).inputs i = false →
      (nth (s.station g).rawAt i (0, 0)).1 + (s.station g).filterTicks i ≤ s.now →
      bitN ((s.station g).g G.inWake) i = true →
      (s.station g).noMarker < 3 →
      Completes (.inputEdge g i true) s fun t =>
        bitN (t.station g).inputs i = true ∧
        (t.station g).g (G.edgeLo i) + (t.station g).g (G.edgeHi i) * 2 ^ 32 = ((nth (s.station g).rawAt i (0, 0)).2 - 2) % 2 ^ 48 ∧
        (t.station g).g (G.edgeLevel i) = 1 ∧ t.station g = { s.station g with regs := (t.station g).regs, inputs := (t.station g).inputs, wake := true } ∧
        sameGal [0x0C, 0x400 + 8 * i, 0x404 + 8 * i] (s.station g) (t.station g) ∧ (∀ h, h ≠ g → t.station h = s.station h) ∧ t = { s with stations := t.stations }) ∧
    (∀ (g : Nat) (i : Nat) (v : Bool),
      g < 8 →
      i < 8 →
      (s.station g).powered = false ∨ (bitN (s.station g).raw i = v ∧ (bitN (s.station g).inputs i = v ∨ s.now < (nth (s.station g).rawAt i (0, 0)).1 + (s.station g).filterTicks i)) →
      Completes (.inputEdge g i v) s fun t =>
        t = s) ∧
    (∀ (g : Nat) (v : Bool),
      g < 8 →
      (s.station g).powered = true →
      (s.station g).g G.cutFault = 0 ∨ (v = true ∧ (s.station g).cutFault = false) →
      Completes (.cutCoil g v) s fun t =>
        (t.station g).g G.cutFault = 1 ∧ t.station g = { s.station g with regs := (t.station g).regs, cutFault := v, items := ((s.station g).item 0x8107 (if v then 1 else 0)).items, itemsLost := ((s.station g).item 0x8107 (if v then 1 else 0)).itemsLost } ∧
        sameGal [0x0C] (s.station g) (t.station g) ∧ (∀ h, h ≠ g → t.station h = s.station h) ∧ t = { s with stations := t.stations }) ∧
    (∀ (g : Nat) (v : Bool),
      g < 8 →
      (s.station g).powered = false ∨ ((s.station g).g G.cutFault = 1 ∧ (v = false ∨ (s.station g).cutFault = true)) →
      Completes (.cutCoil g v) s fun t =>
        t = s) ∧
    (∀ (g : Nat) (e : Nat),
      g < 8 →
      (s.station g).phraseEnd = some e →
      e ≤ s.now →
      Completes (.wakePhraseEnd g) s fun t =>
        t.stations = (modNth s.stations g fun x => { x with phraseEnd := none }) ∧ t = { s with stations := t.stations, agenda := t.agenda }) ∧
    (∀ (g : Nat),
      g < 8 →
      (s.station g).phraseEnd.all (fun e => decide (s.now < e)) = true →
      Completes (.wakePhraseEnd g) s fun t =>
        t = s)

/-- The frame due at a unit on its acceptance tick leaves the line (s₁), and where what arrives is a valid frame of the kind expected, addressed to an aligned station that is configured (for a SETUP: aligned), it acts. A FIRE whose PREV matches becomes the last SEQ and, if its fire tick lies more than 120 ticks ahead, its channels are enabled and free and the store has room, enters the fire store with its full fire tick; one already past is counted and reported; one whose PREV differs is counted and reported. An OUTSET (of a PARK below 8) sets enables, PARK and CUT; channels it disables leave the store and stop, a park command stops every pulse, and PARK 0 returns a station parked in state 5, whose pulses are over, to service with the item of the cycles missed. A REGW waits for the cycle start, its reply with it; a REGR is answered; a SETUP gives the station its fields, SEQ only the first time, and configures it. A frame that arrives invalid is counted with its character errors; one that is not for the station, or finds it not ready, and a tick with no frame due change nothing else. -/
def Obligations.StationAccepts : Prop :=
  ∀ s : State,
    (∀ (g : Nat) (rx : Rx) (f₀ f : LinkFrame) (s₁ : State),
      g < 8 →
      (s.station g).powered = true →
      s.takeFrameDue g 0 = (some f₀, s₁) →
      rx.frame f₀ = some f →
      f.kind = 0 →
      (s.station g).hears f = true →
      3 ≤ (s.station g).state →
      nth f.data 0 0 = (s.station g).lastSeq →
      Completes (.fireAccept g rx) s fun t =>
        (t.station g).lastSeq = nth f.data 3 0 ∧ (t.station g).en = (s.station g).en ∧ (t.station g).pulses = (s.station g).pulses ∧
        (t.station g).store.length ≤ (s.station g).store.length + 1 ∧ (s.station g).store.isPrefixOf (t.station g).store = true ∧ (∀ h, h ≠ g → t.station h = s.station h) ∧
        t = { s₁ with stations := t.stations, agenda := t.agenda }) ∧
    (∀ (g : Nat) (rx : Rx) (f₀ f : LinkFrame) (s₁ : State) (u : Nat),
      g < 8 →
      (s.station g).powered = true →
      s.takeFrameDue g 0 = (some f₀, s₁) →
      rx.frame f₀ = some f →
      f.kind = 0 →
      (s.station g).hears f = true →
      3 ≤ (s.station g).state →
      nth f.data 0 0 = (s.station g).lastSeq →
      u = fullStamp (s.loc g) (nth f.data 2 0 % 2 ^ 48) →
      s.loc g + 120 < u →
      bitList (nth f.data 1 0) ≠ [] →
      nth f.data 1 0 < 2 ^ 32 →
      (bitList (nth f.data 1 0)).all (fun n => bitN (s.station g).en n && !(s.station g).overlaps n u (u + nth f.data 4 0)) = true →
      (s.station g).store.length < 2048 →
      Completes (.fireAccept g rx) s fun t =>
        (s.now + (u - s.loc g), Instr.fireTick g) ∈ t.agenda ∧
        t.station g = { s.station g with regs := (t.station g).regs, lastSeq := nth f.data 3 0
                                         store := (s.station g).store ++ [⟨nth f.data 1 0, u, nth f.data 3 0, nth f.data 4 0, nth f.data 5 0, nth f.data 6 0 == 1, nth f.data 7 0 == 1, s.time, true, false⟩] } ∧
        sameGal [0x0C] (s.station g) (t.station g) ∧ (∀ h, h ≠ g → t.station h = s.station h) ∧ t = { s₁ with stations := t.stations, agenda := t.agenda }) ∧
    (∀ (g : Nat) (rx : Rx) (f₀ f : LinkFrame) (s₁ : State),
      g < 8 →
      (s.station g).powered = true →
      s.takeFrameDue g 0 = (some f₀, s₁) →
      rx.frame f₀ = some f →
      f.kind = 0 →
      (s.station g).hears f = true →
      3 ≤ (s.station g).state →
      nth f.data 0 0 = (s.station g).lastSeq →
      fullStamp (s.loc g) (nth f.data 2 0 % 2 ^ 48) ≤ s.loc g + 120 →
      Completes (.fireAccept g rx) s fun t =>
        (t.station g).g ⟨G.past, 15, 0⟩ = min 65535 ((s.station g).g ⟨G.past, 15, 0⟩ + (bitList (nth f.data 1 0)).length) ∧
        t.station g = { s.station g with regs := (t.station g).regs, moment := (t.station g).moment, lastSeq := nth f.data 3 0, items := ((s.station g).item 0x0105 (nth f.data 3 0)).items, itemsLost := ((s.station g).item 0x0105 (nth f.data 3 0)).itemsLost } ∧
        sameGal [0x0C, G.past] (s.station g) (t.station g) ∧ (∀ h, h ≠ g → t.station h = s.station h) ∧ t = { s₁ with stations := t.stations, agenda := t.agenda }) ∧
    (∀ (g : Nat) (rx : Rx) (f₀ f : LinkFrame) (s₁ : State),
      g < 8 →
      (s.station g).powered = true →
      s.takeFrameDue g 0 = (some f₀, s₁) →
      rx.frame f₀ = some f →
      f.kind = 0 →
      (s.station g).hears f = true →
      3 ≤ (s.station g).state →
      nth f.data 0 0 ≠ (s.station g).lastSeq →
      Completes (.fireAccept g rx) s fun t =>
        (t.station g).g ⟨G.seqRej, 15, 0⟩ = min 65535 ((s.station g).g ⟨G.seqRej, 15, 0⟩ + 1) ∧
        t.station g = { s.station g with regs := (t.station g).regs, moment := (t.station g).moment, items := ((s.station g).item 0x0002 (nth f.data 0 0)).items, itemsLost := ((s.station g).item 0x0002 (nth f.data 0 0)).itemsLost } ∧
        sameGal [0x0C, G.seqRej] (s.station g) (t.station g) ∧ (∀ h, h ≠ g → t.station h = s.station h) ∧ t = { s₁ with stations := t.stations }) ∧
    (∀ (g : Nat) (rx : Rx) (f₀ f : LinkFrame) (s₁ : State),
      g < 8 →
      (s.station g).powered = true →
      s.takeFrameDue g 1 = (some f₀, s₁) →
      rx.frame f₀ = some f →
      f.kind = 1 →
      (s.station g).hears f = true →
      3 ≤ (s.station g).state →
      nth f.data 1 0 < 8 →
      Completes (.outsetAccept g rx) s fun t =>
        (t.station g).en = nth f.data 0 0 ∧ (t.station g).g G.parkStep = nth f.data 1 0 ∧ (t.station g).cut = (nth f.data 2 0 == 1) ∧
        (t.station g).pulses.all (fun p => bitN (nth f.data 0 0) p.ch || !bitN (s.station g).en p.ch) = true ∧
        (t.station g).store.all (fun c => (List.range 32).all fun n => !(bitN (s.station g).en n && !bitN (nth f.data 0 0) n && bitN c.jets n)) = true ∧
        (2 ≤ nth f.data 1 0 → (t.station g).pulses = [] ∧ (t.station g).g G.parked = 1 ∧ (t.station g).lastPark = nth f.data 1 0) ∧
        (t.station g).cycles = ((s.station g).cycles.map fun c => { c with outset := c.outset || c.cyc == nth f.data 3 0 }) ∧ (∀ h, h ≠ g → t.station h = s.station h) ∧
        t = { s₁ with stations := t.stations, freeCount := t.freeCount }) ∧
    (∀ (g : Nat) (rx : Rx) (f₀ f : LinkFrame) (s₁ : State),
      g < 8 →
      (s.station g).powered = true →
      s.takeFrameDue g 1 = (some f₀, s₁) →
      rx.frame f₀ = some f →
      f.kind = 1 →
      (s.station g).hears f = true →
      (s.station g).state = 4 →
      nth f.data 1 0 < 2 →
      (s.station g).pulses = [] →
      (s.station g).store = [] →
      Completes (.outsetAccept g rx) s fun t =>
        (t.station g).en = nth f.data 0 0 ∧ (t.station g).g G.parkStep = nth f.data 1 0 ∧ (t.station g).cut = (nth f.data 2 0 == 1) ∧
        (t.station g).g G.parked = 0 ∧
        t.station g = { s.station g with regs := (t.station g).regs, moment := (t.station g).moment, en := nth f.data 0 0, cut := nth f.data 2 0 == 1
                                         cycles := (s.station g).cycles.map fun c => { c with outset := c.outset || c.cyc == nth f.data 3 0 } } ∧
        sameGal [0x0C, G.disDisc] (s.station g) (t.station g) ∧ (∀ h, h ≠ g → t.station h = s.station h) ∧ t = { s₁ with stations := t.stations }) ∧
    (∀ (g : Nat) (rx : Rx) (f₀ f : LinkFrame) (s₁ : State),
      g < 8 →
      (s.station g).powered = true →
      s.takeFrameDue g 1 = (some f₀, s₁) →
      rx.frame f₀ = some f →
      f.kind = 1 →
      (s.station g).hears f = true →
      (s.station g).state = 5 →
      nth f.data 1 0 = 0 →
      (s.station g).pulses = [] →
      Completes (.outsetAccept g rx) s fun t =>
        (t.station g).en = nth f.data 0 0 ∧ (t.station g).g G.parkStep = nth f.data 1 0 ∧ (t.station g).cut = (nth f.data 2 0 == 1) ∧
        (t.station g).state = (if (s.station g).g G.timeValid = 1 then 4 else 3) ∧ (t.station g).parkedFor = 0 ∧
        (t.station g).items = (0x8001, min 65535 (s.station g).parkedFor) :: (s.station g).items ∧ (∀ h, h ≠ g → t.station h = s.station h) ∧ t = { s₁ with stations := t.stations }) ∧
    (∀ (g : Nat) (rx : Rx) (f₀ f : LinkFrame) (s₁ : State),
      g < 8 →
      (s.station g).powered = true →
      s.takeFrameDue g 2 = (some f₀, s₁) →
      rx.frame f₀ = some f →
      f.kind = 2 →
      (s.station g).hears f = true →
      3 ≤ (s.station g).state →
      Completes (.regwAccept g rx) s fun t =>
        t.station g = { s.station g with regs := (t.station g).regs, writes := (s.station g).writes ++ [(nth f.data 0 0, nth f.data 1 0)], replies := (s.station g).replies ++ [(nth f.data 0 0, false)] } ∧
        sameGal [0x0C] (s.station g) (t.station g) ∧ (∀ h, h ≠ g → t.station h = s.station h) ∧ t = { s₁ with stations := t.stations }) ∧
    (∀ (g : Nat) (rx : Rx) (f₀ f : LinkFrame) (s₁ : State),
      g < 8 →
      (s.station g).powered = true →
      s.takeFrameDue g 3 = (some f₀, s₁) →
      rx.frame f₀ = some f →
      f.kind = 3 →
      (s.station g).hears f = true →
      3 ≤ (s.station g).state →
      Completes (.regrAccept g rx) s fun t =>
        t.station g = { s.station g with regs := (t.station g).regs, replies := (s.station g).replies ++ [(nth f.data 0 0, true)] } ∧
        sameGal [0x0C] (s.station g) (t.station g) ∧ (∀ h, h ≠ g → t.station h = s.station h) ∧ t = { s₁ with stations := t.stations }) ∧
    (∀ (g : Nat) (rx : Rx) (f₀ f : LinkFrame) (s₁ : State),
      g < 8 →
      (s.station g).powered = true →
      s.takeFrameDue g 4 = (some f₀, s₁) →
      rx.frame f₀ = some f →
      f.kind = 4 →
      (s.station g).hears f = true →
      (s.station g).state = 2 →
      Completes (.setup g rx) s fun t =>
        (t.station g).state = 3 ∧ (t.station g).g G.timeValid = 0 ∧
        t.station g = { s.station g with regs := (t.station g).regs, delay := nth f.data 0 0, acc := nth f.data 1 0, lenc := nth f.data 2 0, slot := nth f.data 3 0, nslot := nth f.data 4 0, everSetup := true, fresh := true
                                         lastSeq := if (s.station g).everSetup then (s.station g).lastSeq else nth f.data 5 0, reloaded := false, lastCyc := none } ∧
        sameGal [0x08, 0x0C] (s.station g) (t.station g) ∧ (∀ h, h ≠ g → t.station h = s.station h) ∧ t = { s₁ with stations := t.stations }) ∧
    (∀ (g : Nat) (rx : Rx) (f₀ f : LinkFrame) (s₁ : State),
      g < 8 →
      (s.station g).powered = true →
      s.takeFrameDue g 4 = (some f₀, s₁) →
      rx.frame f₀ = some f →
      f.kind = 4 →
      (s.station g).hears f = true →
      3 ≤ (s.station g).state →
      Completes (.setup g rx) s fun t =>
        (t.station g).state = (s.station g).state ∧
        t.station g = { s.station g with regs := (t.station g).regs, delay := nth f.data 0 0, acc := nth f.data 1 0, lenc := nth f.data 2 0, slot := nth f.data 3 0, nslot := nth f.data 4 0, everSetup := true, fresh := true
                                         lastSeq := if (s.station g).everSetup then (s.station g).lastSeq else nth f.data 5 0 } ∧
        sameGal [0x0C] (s.station g) (t.station g) ∧ (∀ h, h ≠ g → t.station h = s.station h) ∧ t = { s₁ with stations := t.stations }) ∧
    (∀ (g k : Nat) (c : Instr) (rx : Rx) (f : LinkFrame) (s₁ : State),
      g < 8 →
      (s.station g).powered = true →
      (k, c) ∈ [(0, Instr.fireAccept g rx), (1, .outsetAccept g rx), (2, .regwAccept g rx), (3, .regrAccept g rx), (4, .setup g rx)] →
      s.takeFrameDue g k = (some f, s₁) →
      2 ≤ (s.station g).state →
      rx.frame f = none →
      Completes c s fun t =>
        (t.station g).g ⟨G.charErr, 15, 0⟩ = min 65535 ((s.station g).g ⟨G.charErr, 15, 0⟩ + rx.errs) ∧
        (t.station g).g ⟨G.frameErr, 15, 0⟩ = min 65535 ((s.station g).g ⟨G.frameErr, 15, 0⟩ + 1) ∧
        t.station g = { s.station g with regs := (t.station g).regs, moment := (t.station g).moment, turned := (t.station g).turned } ∧
        sameGal [0x0C, G.charErr, G.frameErr] (s.station g) (t.station g) ∧ (∀ h, h ≠ g → t.station h = s.station h) ∧ t = { s₁ with stations := t.stations }) ∧
    (∀ (g k : Nat) (c : Instr) (rx : Rx) (s₁ : State),
      g < 8 →
      (k, c) ∈ [(0, Instr.fireAccept g rx), (1, .outsetAccept g rx), (2, .regwAccept g rx), (3, .regrAccept g rx), (4, .setup g rx)] →
      s.takeFrameDue g k = (none, s₁) →
      Completes c s fun t =>
        t = s₁) ∧
    (∀ (g k : Nat) (c : Instr) (rx : Rx) (f₀ f : LinkFrame) (s₁ : State),
      g < 8 →
      (k, c) ∈ [(0, Instr.fireAccept g rx), (1, .outsetAccept g rx), (2, .regwAccept g rx), (3, .regrAccept g rx), (4, .setup g rx)] →
      s.takeFrameDue g k = (some f₀, s₁) →
      rx.frame f₀ = some f →
      (s.station g).powered = false ∨ (s.station g).state < 2 ∨ (s.station g).hears f = false ∨ (s.station g).state < (if f.kind = 4 then 2 else 3) →
      Completes c s fun t =>
        t = s₁)

/-- A valid marker on its tick at a configured station ends its wake phrases, gives it CYC, NSLOT and LENC and a cycle that it counts. Against a valid count it is confirmed within 1 tick, corrected and counted at 2 or 3 ticks, and makes the time invalid, the station parked, beyond; a count just loaded becomes valid with the marker of the next CYC if they agree within 1 tick; the first marker since a ring delay was received, and any other while the time is invalid, loads the count with the stamp and the ring delay. A marker that arrives invalid is counted; one that finds the station not configured, and a tick with none due change nothing else. 6,000 ticks into a cycle with a marker the station latches what its read frame will say, and once the frame has left it (in states 3 to 5; else it is dropped) a waiting wake request in states 3 and 4 goes out as a wake unit. At its end, with no writes waiting, a cycle whose marker and OUTSET both came is not missed; another, with no OUTSET of it still to be accepted, is counted missed; the third in a row parks the station in state 5, and the third marker in a row missed makes its time invalid. -/
def Obligations.StationCycles : Prop :=
  ∀ s : State,
    (∀ (g : Nat) (rx : Rx) (k : Int) (f₀ f : LinkFrame) (s₁ : State),
      g < 8 →
      (s.station g).powered = true →
      s.takeFrameDue g 5 = (some f₀, s₁) →
      rx.frame f₀ = some f →
      3 ≤ (s.station g).state →
      Completes (.stationMarker g rx k) s fun t =>
        (t.station g).noMarker = 0 ∧ (t.station g).phraseEnd = none ∧ (t.station g).lastCyc = some (nth f.data 1 0) ∧ (t.station g).nslot = nth f.data 2 0 ∧ (t.station g).lenc = nth f.data 3 0 ∧
        (t.station g).cycles.any (fun c => c.marker && c.cyc == nth f.data 1 0 && c.next == c.start + 240 * nth f.data 3 0) = true ∧ (∀ h, h ≠ g → t.station h = s.station h) ∧
        t.newel = s.newel ∧ t.cams = s.cams ∧ t.store = s.store ∧ t.hall = s.hall) ∧
    (∀ (g : Nat) (rx : Rx) (k : Int) (f₀ f : LinkFrame) (s₁ : State) (w : Nat),
      g < 8 →
      (s.station g).powered = true →
      s.takeFrameDue g 5 = (some f₀, s₁) →
      rx.frame f₀ = some f →
      3 ≤ (s.station g).state →
      (s.station g).phraseEnd = none →
      (s.station g).g G.timeValid = 1 →
      (s.station g).fresh = false →
      ((s.station g).base + k - (((nth f.data 0 0) + (s.station g).delay + 3600 : Nat) - (s.now : Int) : Int)).natAbs ≤ 1 →
      (s.station g).cycles = [] →
      w = (((nth f.data 0 0 : Nat) : Int) - ((s.station g).base + k)).toNat →
      Completes (.stationMarker g rx k) s fun t =>
        t.station g = { s.station g with regs := (t.station g).regs, base := (s.station g).base + k, nslot := nth f.data 2 0, lenc := nth f.data 3 0, noMarker := 0, lastCyc := some (nth f.data 1 0)
                                         cycles := [⟨w, w + 240 * nth f.data 3 0, nth f.data 1 0, true, false, false, w + 240 * nth f.data 3 0⟩] } ∧
        sameGal [0x0C] (s.station g) (t.station g) ∧ (∀ h, h ≠ g → t.station h = s.station h) ∧
        t = { s₁ with stations := t.stations, agenda := s.agenda ++ [(s.now + (w + 240 * nth f.data 3 0 - s.now), .missedCycle g),
          (s.now + (w + 6000 - s.now), .stationLatch g)] }) ∧
    (∀ (g : Nat) (rx : Rx) (k : Int) (f₀ f : LinkFrame) (s₁ : State),
      g < 8 →
      (s.station g).powered = true →
      s.takeFrameDue g 5 = (some f₀, s₁) →
      rx.frame f₀ = some f →
      3 ≤ (s.station g).state →
      (s.station g).g G.timeValid = 1 →
      (s.station g).fresh = false →
      1 < ((s.station g).base + k - (((nth f.data 0 0) + (s.station g).delay + 3600 : Nat) - (s.now : Int) : Int)).natAbs →
      ((s.station g).base + k - (((nth f.data 0 0) + (s.station g).delay + 3600 : Nat) - (s.now : Int) : Int)).natAbs ≤ 3 →
      Completes (.stationMarker g rx k) s fun t =>
        (t.station g).g G.timeValid = 1 ∧ (t.station g).base = (((nth f.data 0 0) + (s.station g).delay + 3600 : Nat) - (s.now : Int) : Int) ∧ (t.station g).state = (s.station g).state ∧
        (t.station g).g ⟨G.timeCorr, 15, 0⟩ = min 65535 ((s.station g).g ⟨G.timeCorr, 15, 0⟩ + 1) ∧ (∀ h, h ≠ g → t.station h = s.station h)) ∧
    (∀ (g : Nat) (rx : Rx) (k : Int) (f₀ f : LinkFrame) (s₁ : State),
      g < 8 →
      (s.station g).powered = true →
      s.takeFrameDue g 5 = (some f₀, s₁) →
      rx.frame f₀ = some f →
      3 ≤ (s.station g).state →
      (s.station g).g G.timeValid = 1 →
      (s.station g).fresh = false →
      3 < ((s.station g).base + k - (((nth f.data 0 0) + (s.station g).delay + 3600 : Nat) - (s.now : Int) : Int)).natAbs →
      Completes (.stationMarker g rx k) s fun t =>
        (t.station g).g G.timeValid = 0 ∧ (t.station g).state = (if (s.station g).state = 4 then 3 else (s.station g).state) ∧ (t.station g).pulses = [] ∧ (t.station g).reloaded = false ∧ (∀ h, h ≠ g → t.station h = s.station h)) ∧
    (∀ (g : Nat) (rx : Rx) (k : Int) (f₀ f : LinkFrame) (s₁ : State),
      g < 8 →
      (s.station g).powered = true →
      s.takeFrameDue g 5 = (some f₀, s₁) →
      rx.frame f₀ = some f →
      3 ≤ (s.station g).state →
      (s.station g).g G.timeValid = 0 →
      (s.station g).fresh = false →
      (s.station g).reloaded = true →
      (s.station g).lastCyc.any (fun c => (c + 1) % 256 == nth f.data 1 0) = true →
      ((s.station g).base + k - (((nth f.data 0 0) + (s.station g).delay + 3600 : Nat) - (s.now : Int) : Int)).natAbs ≤ 1 →
      Completes (.stationMarker g rx k) s fun t =>
        (t.station g).g G.timeValid = 1 ∧ (t.station g).state = (if (s.station g).state = 3 then 4 else (s.station g).state) ∧ (t.station g).reloaded = false ∧ (t.station g).base = (s.station g).base + k ∧ (∀ h, h ≠ g → t.station h = s.station h)) ∧
    (∀ (g : Nat) (rx : Rx) (k : Int) (f₀ f : LinkFrame) (s₁ : State),
      g < 8 →
      (s.station g).powered = true →
      s.takeFrameDue g 5 = (some f₀, s₁) →
      rx.frame f₀ = some f →
      3 ≤ (s.station g).state →
      (s.station g).fresh = true ∨ ((s.station g).g G.timeValid = 0 ∧ ((s.station g).reloaded = false ∨ (s.station g).lastCyc.any (fun c => (c + 1) % 256 == nth f.data 1 0) = false ∨ 1 < ((s.station g).base + k - (((nth f.data 0 0) + (s.station g).delay + 3600 : Nat) - (s.now : Int) : Int)).natAbs)) →
      Completes (.stationMarker g rx k) s fun t =>
        (t.station g).base = (((nth f.data 0 0) + (s.station g).delay + 3600 : Nat) - (s.now : Int) : Int) ∧ (t.station g).fresh = false ∧ (t.station g).state = (s.station g).state ∧ (t.station g).g G.timeValid = (s.station g).g G.timeValid ∧
        ((s.station g).g G.timeValid = 0 → (t.station g).reloaded = true) ∧ (∀ h, h ≠ g → t.station h = s.station h)) ∧
    (∀ (g : Nat) (rx : Rx) (k : Int) (f : LinkFrame) (s₁ : State),
      g < 8 →
      (s.station g).powered = true →
      s.takeFrameDue g 5 = (some f, s₁) →
      2 ≤ (s.station g).state →
      rx.frame f = none →
      Completes (.stationMarker g rx k) s fun t =>
        (t.station g).g ⟨G.charErr, 15, 0⟩ = min 65535 ((s.station g).g ⟨G.charErr, 15, 0⟩ + rx.errs) ∧
        (t.station g).g ⟨G.frameErr, 15, 0⟩ = min 65535 ((s.station g).g ⟨G.frameErr, 15, 0⟩ + 1) ∧
        t.station g = { s.station g with regs := (t.station g).regs, moment := (t.station g).moment, turned := (t.station g).turned } ∧
        sameGal [0x0C, G.charErr, G.frameErr] (s.station g) (t.station g) ∧ (∀ h, h ≠ g → t.station h = s.station h) ∧ t = { s₁ with stations := t.stations }) ∧
    (∀ (g : Nat) (rx : Rx) (k : Int) (s₁ : State),
      g < 8 →
      s.takeFrameDue g 5 = (none, s₁) →
      Completes (.stationMarker g rx k) s fun t =>
        t = s₁) ∧
    (∀ (g : Nat) (rx : Rx) (k : Int) (f₀ f : LinkFrame) (s₁ : State),
      g < 8 →
      s.takeFrameDue g 5 = (some f₀, s₁) →
      rx.frame f₀ = some f →
      (s.station g).powered = false ∨ (s.station g).state < 3 →
      Completes (.stationMarker g rx k) s fun t =>
        t = s₁) ∧
    (∀ (g : Nat) (c : StationCycle),
      g < 8 →
      (s.station g).powered = true →
      (s.station g).cycles = [c] →
      c.marker = true →
      c.latched = false →
      c.start + 6000 ≤ s.now →
      s.now < c.next →
      s.now < (s.station g).frameGone c.start →
      3 ≤ (s.station g).state →
      (s.station g).slot < (s.station g).nslot →
      (s.station g).items = [] →
      (s.station g).replies = [] →
      (s.station g).pulses = [] →
      Completes (.stationLatch g) s fun t =>
        t.station g = { s.station g with regs := (t.station g).regs, cycles := [{ c with latched := true }]
                                         latched := some ⟨c.cyc, (s.station g).frameGone c.start, false,
                                           (s.station g).g G.timeValid + (if (s.station g).isParked then 2 else 0) + (if (s.station g).outOk then 4 else 0) +
                                             (s.station g).g G.fault * 32 + (s.station g).g G.cutOn * 64, (s.station g).inputs, 0, 0, (s.station g).lastSeq, 0⟩ } ∧
        sameGal [0x0C] (s.station g) (t.station g) ∧ (∀ h, h ≠ g → t.station h = s.station h) ∧
        t = { s with stations := t.stations, agenda := s.agenda ++ [(s.now + ((s.station g).frameGone c.start - s.now), .stationLatch g)] }) ∧
    (∀ (g : Nat) (k : StationCycle),
      g < 8 →
      (s.station g).powered = true →
      (s.station g).cycles.find? (fun c => c.marker && !c.latched && decide (c.start + 6000 ≤ s.now) && decide (s.now < c.next)) = some k →
      3 ≤ (s.station g).state →
      (s.station g).slot < (s.station g).nslot →
      s.now < (s.station g).frameGone k.start →
      Completes (.stationLatch g) s fun t =>
        (t.station g).latched.any (fun c => c.cyc == k.cyc && !c.sent && c.inputs == (s.station g).inputs && c.ack == (s.station g).lastSeq &&
          c.sentAt == (s.station g).frameGone k.start) = true ∧
        (t.station g).cycles = ((s.station g).cycles.map fun c => if c = k then { c with latched := true } else c) ∧
        (s.now + ((s.station g).frameGone k.start - s.now), Instr.stationLatch g) ∈ t.agenda ∧ (∀ h, h ≠ g → t.station h = s.station h) ∧
        t = { s with stations := t.stations, agenda := t.agenda }) ∧
    (∀ (g : Nat) (c : ReadContent),
      g < 8 →
      (s.station g).powered = true →
      (s.station g).cycles.any (fun c => c.marker && !c.latched && decide (c.start + 6000 ≤ s.now) && decide (s.now < c.next)) = false →
      (s.station g).latched = some c →
      c.sent = false →
      c.sentAt ≤ s.now →
      3 ≤ (s.station g).state →
      Completes (.stationLatch g) s fun t =>
        (t.station g).latched = some { c with sent := true } ∧
        (t.station g).wake = ((s.station g).wake && decide ((s.station g).state = 5)) ∧
        ((s.station g).wake = true → (s.station g).state ≤ 4 → (s.now + (s.link.loop - s.unitDelay g + 240), Instr.wakeUnitAccepted) ∈ t.agenda) ∧
        t = { s with stations := t.stations, agenda := t.agenda }) ∧
    (∀ (g : Nat) (c : ReadContent),
      g < 8 →
      (s.station g).powered = true →
      (s.station g).cycles.any (fun c => c.marker && !c.latched && decide (c.start + 6000 ≤ s.now) && decide (s.now < c.next)) = false →
      (s.station g).latched = some c →
      c.sent = false →
      c.sentAt ≤ s.now →
      (s.station g).state < 3 →
      Completes (.stationLatch g) s fun t =>
        t.station g = { s.station g with regs := (t.station g).regs, latched := none } ∧
        sameGal [0x0C] (s.station g) (t.station g) ∧ (∀ h, h ≠ g → t.station h = s.station h) ∧ t = { s with stations := t.stations }) ∧
    (∀ (g : Nat),
      g < 8 →
      (s.station g).cycles.any (fun c => c.marker && !c.latched && decide (c.start + 6000 ≤ s.now) && decide (s.now < c.next)) = false →
      (s.station g).latched.all (fun c => c.sent || decide (s.now < c.sentAt)) = true →
      Completes (.stationLatch g) s fun t =>
        t = s) ∧
    (∀ (g : Nat) (c : StationCycle),
      g < 8 →
      (s.station g).powered = true →
      (s.station g).cycles.find? (fun c => c.judged == s.now) = some c →
      (s.station g).writes = [] →
      c.marker = true →
      c.outset = true →
      Completes (.missedCycle g) s fun t =>
        (t.station g).missed = 0 ∧ (t.station g).noMarker = 0 ∧ (t.station g).outOk = true ∧ (t.station g).state = (s.station g).state ∧ (t.station g).cycles.all (fun d => decide (d ≠ c)) = true ∧
        (t.station g).cycles.any (fun d => sameStart d.start c.next) = true ∧
        (t.station g).g ⟨G.missed, 15, 0⟩ = (s.station g).g ⟨G.missed, 15, 0⟩ ∧ (∀ h, h ≠ g → t.station h = s.station h) ∧ t = { s with stations := t.stations, agenda := t.agenda }) ∧
    (∀ (g : Nat) (c : StationCycle),
      g < 8 →
      (s.station g).powered = true →
      (s.station g).cycles.find? (fun c => c.judged == s.now) = some c →
      (s.station g).writes = [] →
      c.marker = false ∨ (c.outset = false ∧ s.outsetAwaited g c = none) →
      Completes (.missedCycle g) s fun t =>
        (t.station g).missed = (s.station g).missed + 1 ∧ (t.station g).outOk = c.outset ∧ (t.station g).state = (s.station g).state ∧
        (t.station g).noMarker = (if c.marker || (s.station g).cycles.any (fun d => decide (d ≠ c) && d.marker) then 0 else (s.station g).noMarker + 1) ∧
        (t.station g).cycles.any (fun d => sameStart d.start c.next) = true ∧
        (t.station g).g ⟨G.missed, 15, 0⟩ = min 65535 ((s.station g).g ⟨G.missed, 15, 0⟩ + 1) ∧
        (2 ≤ (s.station g).missed → (s.station g).state = 4 → (s.now, Instr.stationParkMissed g) ∈ t.agenda) ∧
        ((s.station g).noMarker = 2 → c.marker = false → (s.station g).cycles.all (fun d => !d.marker) = true → (t.station g).g G.timeValid = 0) ∧ (∀ h, h ≠ g → t.station h = s.station h) ∧
        t = { s with stations := t.stations, agenda := t.agenda }) ∧
    (∀ (g : Nat),
      g < 8 →
      (s.station g).cycles.all (fun c => c.judged != s.now && c.next != s.now) = true →
      Completes (.missedCycle g) s fun t =>
        t = s) ∧
    (∀ (g : Nat),
      g < 8 →
      (s.station g).powered = true →
      3 ≤ (s.station g).missed →
      (s.station g).state = 4 →
      Completes (.stationParkMissed g) s fun t =>
        (t.station g).state = 5 ∧ (t.station g).g G.parked = 1 ∧ (t.station g).parkedFor = (s.station g).missed ∧ (t.station g).pulses = [] ∧ (t.station g).store = (s.station g).store ∧ (∀ h, h ≠ g → t.station h = s.station h) ∧
        ((s.station g).pulses = [] → sameGal [0x08, 0x0C] (s.station g) (t.station g)) ∧ t = { s with stations := t.stations, freeCount := t.freeCount }) ∧
    (∀ (g : Nat),
      g < 8 →
      (s.station g).missed < 3 ∨ (s.station g).state ≠ 4 →
      Completes (.stationParkMissed g) s fun t =>
        t = s)

/-- On the fire tick, once what R390 to R392 put before it has acted, every command that is due leaves the store; a channel that nothing holds off and that is not being driven is driven from F to F + D with the setpoints fixed there, the switch closed, and counted; a held-off one is counted under its first cause. A command not yet due is looked at on its tick. At the end of the peak phase the switch of the one pulse of the channel opens and a current (a free value where none is given) below half the setpoint is an open load, flagged with an item; a chop period closes the switch again unless it stays open for the pulse, and reaching the setpoint opens it until the next; at F + D the pulse ends, its current is shown, blanking begins, and the third fold-back in a row takes the channel out of service. Where no pulse of the channel has come so far nothing changes. -/
def Obligations.GalleryPulses : Prop :=
  ∀ s : State,
    (∀ (g : Nat) (n : Nat) (c : FireCmd),
      g < 8 →
      (s.station g).powered = true →
      n < 32 →
      (s.station g).store = [c] →
      c.jets = 2 ^ n →
      c.fire ≤ s.loc g →
      s.beforeFire g = false →
      (s.station g).cause n = none →
      (s.station g).pulse n = none →
      Completes (.fireTick g) s fun t =>
        (t.station g).g ⟨G.fires n, 31, 0⟩ = ((s.station g).g ⟨G.fires n, 31, 0⟩ + 1) % 2 ^ 32 ∧
        (s.now + (c.fire + c.dur - s.loc g), Instr.pulseEnd g n none) ∈ t.agenda ∧
        (s.now + (c.fire + min ((s.station g).pulseSettings n).2.2 c.dur - s.loc g), Instr.peakEnd g n none) ∈ t.agenda ∧
        t.station g = { s.station g with regs := (t.station g).regs, moment := (t.station g).moment, store := []
                                         pulses := (s.station g).pulses ++ [⟨n, c.fire, c.fire + c.dur, c.fire + ((s.station g).pulseSettings n).2.2,
                                           ((s.station g).pulseSettings n).1, ((s.station g).pulseSettings n).2.1, true, false, false, false⟩] } ∧
        sameGal [0x0C, G.fires n] (s.station g) (t.station g) ∧ (∀ h, h ≠ g → t.station h = s.station h) ∧ t = { s with stations := t.stations, agenda := t.agenda }) ∧
    (∀ (g : Nat) (n : Nat) (c : FireCmd) (k : Nat),
      g < 8 →
      (s.station g).powered = true →
      n < 32 →
      (s.station g).store = [c] →
      c.jets = 2 ^ n →
      c.fire ≤ s.loc g →
      s.beforeFire g = false →
      (s.station g).cause n = some k →
      Completes (.fireTick g) s fun t =>
        (t.station g).g ⟨k, 15, 0⟩ = min 65535 ((s.station g).g ⟨k, 15, 0⟩ + 1) ∧
        t.station g = { s.station g with regs := (t.station g).regs, moment := (t.station g).moment, store := [] } ∧
        sameGal [0x0C, k] (s.station g) (t.station g) ∧ (∀ h, h ≠ g → t.station h = s.station h) ∧ t = { s with stations := t.stations }) ∧
    (∀ (g : Nat),
      g < 8 →
      (s.station g).powered = true →
      (s.station g).store.any (fun c => decide (c.fire ≤ s.loc g)) = true →
      s.beforeFire g = false →
      Completes (.fireTick g) s fun t =>
        (t.station g).store = (s.station g).store.filter (fun c => !decide (c.fire ≤ s.loc g)) ∧ (t.station g).en = (s.station g).en ∧ (∀ h, h ≠ g → t.station h = s.station h) ∧
        t = { s with stations := t.stations, agenda := t.agenda, freeCount := t.freeCount }) ∧
    (∀ (g : Nat),
      g < 8 →
      (s.station g).store.any (fun c => decide (c.fire ≤ s.loc g)) = true →
      s.beforeFire g = true →
      Completes (.fireTick g) s fun t =>
        t = { s with agenda := s.agenda ++ [(s.now, .fireTick g)] }) ∧
    (∀ (g : Nat) (c : FireCmd) (l : List FireCmd),
      g < 8 →
      (s.station g).powered = true →
      (s.station g).store = c :: l →
      (s.station g).store.all (fun c => decide (s.loc g < c.fire)) = true →
      Completes (.fireTick g) s fun t =>
        t = { s with agenda := s.agenda ++ [(s.now + (c.fire - s.loc g), .fireTick g)] }) ∧
    (∀ (g : Nat),
      g < 8 →
      (s.station g).store = [] →
      Completes (.fireTick g) s fun t =>
        t = s) ∧
    (∀ (g : Nat) (n : Nat) (p : Pulse) (o : Option Nat),
      g < 8 →
      (s.station g).powered = true →
      n < 32 →
      (s.station g).pulses.filter (fun q => q.ch == n) = [p] →
      min p.peakEnd p.stop ≤ s.loc g →
      p.judged = false →
      p.ip ≤ 2 * (s.seen o).1 →
      Completes (.peakEnd g n o) s fun t =>
        t.station g = { s.station g with regs := (t.station g).regs, pulses := (s.station g).pulses.map fun q => if q.ch = n then { q with closed := false, judged := true } else q } ∧
        sameGal [0x0C] (s.station g) (t.station g) ∧ (∀ h, h ≠ g → t.station h = s.station h) ∧ t = { s with stations := t.stations, freeCount := (s.seen o).2.freeCount }) ∧
    (∀ (g : Nat) (n : Nat) (p : Pulse) (o : Option Nat),
      g < 8 →
      (s.station g).powered = true →
      n < 32 →
      (s.station g).pulses.filter (fun q => q.ch == n) = [p] →
      min p.peakEnd p.stop ≤ s.loc g →
      p.judged = false →
      2 * (s.seen o).1 < p.ip →
      Completes (.peakEnd g n o) s fun t =>
        (t.station g).g (G.flag n 0) = 1 ∧
        t.station g = { s.station g with regs := (t.station g).regs, moment := (t.station g).moment, items := ((s.station g).item 0x0101 (n)).items, itemsLost := ((s.station g).item 0x0101 (n)).itemsLost
                                         pulses := (s.station g).pulses.map fun q => if q.ch = n then { q with closed := false, judged := true } else q } ∧
        sameGal [0x0C, 0x100 + 4 * n] (s.station g) (t.station g) ∧ (∀ h, h ≠ g → t.station h = s.station h) ∧ t = { s with stations := t.stations, freeCount := (s.seen o).2.freeCount }) ∧
    (∀ (g : Nat) (n : Nat) (o : Option Nat),
      g < 8 →
      n < 32 →
      (s.station g).pulses.all (fun q => q.ch != n || decide (s.loc g < min q.peakEnd q.stop) || q.judged) = true →
      Completes (.peakEnd g n o) s fun t =>
        t = s) ∧
    (∀ (g : Nat) (n : Nat) (p : Pulse),
      g < 8 →
      (s.station g).powered = true →
      n < 32 →
      (s.station g).pulses.filter (fun q => q.ch == n) = [p] →
      newelTime (s.loc g) % 16000 = 500 * n →
      p.folded = false →
      p.hot = false →
      Completes (.chopPeriodStart g ⟨n, false⟩) s fun t =>
        t.station g = { s.station g with regs := (t.station g).regs, pulses := (s.station g).pulses.map fun q => if q.ch = n then { q with closed := true } else q } ∧
        sameGal [0x0C] (s.station g) (t.station g) ∧ (∀ h, h ≠ g → t.station h = s.station h) ∧ t = { s with stations := t.stations, agenda := s.agenda ++ [(s.now + (chopAfter n (s.loc g) - s.loc g), .chopPeriodStart g ⟨n, false⟩)] }) ∧
    (∀ (g : Nat) (n : Nat) (p : Pulse),
      g < 8 →
      (s.station g).powered = true →
      n < 32 →
      (s.station g).pulses.filter (fun q => q.ch == n) = [p] →
      newelTime (s.loc g) % 16000 = 500 * n →
      p.folded = true ∨ p.hot = true →
      Completes (.chopPeriodStart g ⟨n, false⟩) s fun t =>
        t = { s with agenda := s.agenda ++ [(s.now + (chopAfter n (s.loc g) - s.loc g), .chopPeriodStart g ⟨n, false⟩)] }) ∧
    (∀ (g : Nat) (n : Nat) (p : Pulse),
      g < 8 →
      (s.station g).powered = true →
      n < 32 →
      (s.station g).pulses.filter (fun q => q.ch == n) = [p] →
      Completes (.chopPeriodStart g ⟨n, true⟩) s fun t =>
        t.station g = { s.station g with regs := (t.station g).regs, pulses := (s.station g).pulses.map fun q => if q.ch = n then { q with closed := false } else q } ∧
        sameGal [0x0C] (s.station g) (t.station g) ∧ (∀ h, h ≠ g → t.station h = s.station h) ∧ t = { s with stations := t.stations }) ∧
    (∀ (g : Nat) (n : Nat) (b : Bool),
      g < 8 →
      n < 32 →
      (s.station g).pulse n = none ∨ (b = false ∧ newelTime (s.loc g) % 16000 ≠ 500 * n) →
      Completes (.chopPeriodStart g ⟨n, b⟩) s fun t =>
        t = s) ∧
    (∀ (g : Nat) (n : Nat) (p : Pulse) (o : Option Nat),
      g < 8 →
      (s.station g).powered = true →
      n < 32 →
      (s.station g).pulses.filter (fun q => q.ch == n) = [p] →
      p.stop ≤ s.loc g →
      Completes (.pulseEnd g n o) s fun t =>
        (t.station g).g (G.iPeak n) = min (s.seen o).1 4095 ∧ (t.station g).pulses = (s.station g).pulses.filter (fun q => q.ch != n) ∧
        (t.station g).lastOff = (modNth (s.station g).lastOff n fun _ => s.now) ∧
        (t.station g).overs = (modNth (s.station g).overs n fun k => if p.folded && k + 1 != 3 then k + 1 else 0) ∧
        (p.judged = false → 2 * (s.seen o).1 < p.ip → (t.station g).g (G.flag n 0) = 1) ∧
        (p.folded = true → nth (s.station g).overs n 0 = 2 → (t.station g).g (G.flag n 4) = 1) ∧ (∀ h, h ≠ g → t.station h = s.station h) ∧
        t = { s with stations := t.stations, freeCount := (s.seen o).2.freeCount }) ∧
    (∀ (g : Nat) (n : Nat) (p : Pulse) (o : Option Nat),
      g < 8 →
      (s.station g).powered = true →
      n < 32 →
      (s.station g).pulses.filter (fun q => q.ch == n) = [p] →
      p.stop ≤ s.loc g →
      p.judged = true ∨ p.ip ≤ 2 * (s.seen o).1 →
      p.folded = false →
      Completes (.pulseEnd g n o) s fun t =>
        t.station g = { s.station g with regs := (t.station g).regs, lastOff := (t.station g).lastOff, overs := (t.station g).overs
                                         pulses := (s.station g).pulses.filter fun q => q.ch != n } ∧
        sameGal [0x0C, 0x100 + 4 * n] (s.station g) (t.station g) ∧ (∀ h, h ≠ g → t.station h = s.station h)) ∧
    (∀ (g : Nat) (n : Nat) (o : Option Nat),
      g < 8 →
      n < 32 →
      (s.station g).pulses.all (fun q => q.ch != n || decide (s.loc g < q.stop)) = true →
      Completes (.pulseEnd g n o) s fun t =>
        t = s)

/-- A measurement of a bank out of its range ends the pulses of its channels and holds them off, and is reported unless the field supply is cut; back in range they are freed; other measurements are only shown, and an unpowered gallery takes none. An overcurrent opens the switch of the one pulse of the channel for the rest of the pulse, is flagged, counted and reported once; so does a switch too hot. A channel found forced on while it is off and outside its blanking, with no pulse active in the gallery, takes its bank out of service, with an item and, where configured, FIELD_CUT latched, unless both its flags stand already; a channel cross-fed with one that switched off within 4 µs takes both out of service, each with the other as partner if it had none, and ends their pulses; else nothing changes. -/
def Obligations.GalleryFaults : Prop :=
  ∀ s : State,
    (∀ (g : Nat) (b : Nat) (v : Nat),
      g < 8 →
      (s.station g).powered = true →
      b < 4 →
      v < 1600 ∨ 3300 < v →
      (s.station g).g (G.outRange b) = 0 →
      Completes (.bankOutOfRange g b v) s fun t =>
        (t.station g).g (G.outRange b) = 1 ∧ (t.station g).g (G.volts b) = min v 4095 ∧ bitN ((t.station g).g G.bankOk) b = false ∧
        (t.station g).pulses = (s.station g).pulses.filter (fun p => p.ch / 8 != b) ∧ (∀ h, h ≠ g → t.station h = s.station h) ∧ t = { s with stations := t.stations, freeCount := t.freeCount }) ∧
    (∀ (g : Nat) (b : Nat) (v : Nat),
      g < 8 →
      (s.station g).powered = true →
      b < 4 →
      v < 1600 ∨ 3300 < v →
      (s.station g).g (G.outRange b) = 0 →
      (s.station g).pulses.all (fun p => p.ch / 8 != b) = true →
      Completes (.bankOutOfRange g b v) s fun t =>
        (t.station g).g (G.outRange b) = 1 ∧ (t.station g).g (G.volts b) = min v 4095 ∧ bitN ((t.station g).g G.bankOk) b = false ∧
        t.station g = { s.station g with regs := (t.station g).regs, items := (if (s.station g).g G.cutOn = 1 then (s.station g) else (s.station g).item 0x8104 b).items
                                         itemsLost := (if (s.station g).g G.cutOn = 1 then (s.station g) else (s.station g).item 0x8104 b).itemsLost } ∧
        sameGal [0x0C, 0xE0 + 4 * b] (s.station g) (t.station g) ∧ (∀ h, h ≠ g → t.station h = s.station h) ∧ t = { s with stations := t.stations }) ∧
    (∀ (g : Nat) (b : Nat) (v : Nat),
      g < 8 →
      (s.station g).powered = true →
      b < 4 →
      (1600 ≤ v ∧ v ≤ 3300) ∨ (s.station g).g (G.outRange b) = 1 →
      Completes (.bankOutOfRange g b v) s fun t =>
        (t.station g).g (G.volts b) = min v 4095 ∧ (t.station g).g (G.outRange b) = (s.station g).g (G.outRange b) ∧
        t.station g = { s.station g with regs := (t.station g).regs } ∧
        sameGal [0x0C, 0xE0 + 4 * b] (s.station g) (t.station g) ∧ (∀ h, h ≠ g → t.station h = s.station h) ∧ t = { s with stations := t.stations }) ∧
    (∀ (g : Nat) (b : Nat) (v : Nat),
      g < 8 →
      (s.station g).powered = true →
      b < 4 →
      1700 ≤ v →
      v ≤ 3250 →
      (s.station g).g (G.outRange b) = 1 →
      Completes (.bankInRange g b v) s fun t =>
        (t.station g).g (G.outRange b) = 0 ∧ (t.station g).g (G.volts b) = v ∧ bitN ((t.station g).g G.bankOk) b = true ∧
        t.station g = { s.station g with regs := (t.station g).regs, items := (if (s.station g).g G.cutOn = 1 then (s.station g) else (s.station g).item 0x0104 b).items
                                         itemsLost := (if (s.station g).g G.cutOn = 1 then (s.station g) else (s.station g).item 0x0104 b).itemsLost } ∧
        sameGal [0x0C, 0xE0 + 4 * b] (s.station g) (t.station g) ∧ (∀ h, h ≠ g → t.station h = s.station h) ∧ t = { s with stations := t.stations }) ∧
    (∀ (g : Nat) (b : Nat) (v : Nat),
      g < 8 →
      (s.station g).powered = true →
      b < 4 →
      v < 1700 ∨ 3250 < v ∨ (s.station g).g (G.outRange b) = 0 →
      Completes (.bankInRange g b v) s fun t =>
        (t.station g).g (G.volts b) = min v 4095 ∧ (t.station g).g (G.outRange b) = (s.station g).g (G.outRange b) ∧
        t.station g = { s.station g with regs := (t.station g).regs } ∧
        sameGal [0x0C, 0xE0 + 4 * b] (s.station g) (t.station g) ∧ (∀ h, h ≠ g → t.station h = s.station h) ∧ t = { s with stations := t.stations }) ∧
    (∀ (g : Nat) (b : Nat) (v : Nat) (c : Instr),
      g < 8 →
      b < 4 →
      (s.station g).powered = false →
      c ∈ [.bankOutOfRange g b v, .bankInRange g b v] →
      Completes c s fun t =>
        t = s) ∧
    (∀ (g : Nat) (n : Nat) (p : Pulse),
      g < 8 →
      (s.station g).powered = true →
      n < 32 →
      (s.station g).pulses.filter (fun q => q.ch == n) = [p] →
      p.folded = false →
      Completes (.overcurrent g n) s fun t =>
        (t.station g).g (G.flag n 1) = 1 ∧ (t.station g).g ⟨G.ovc, 15, 0⟩ = min 65535 ((s.station g).g ⟨G.ovc, 15, 0⟩ + 1) ∧
        t.station g = { s.station g with regs := (t.station g).regs, moment := (t.station g).moment, items := ((s.station g).item 0x0102 (n)).items, itemsLost := ((s.station g).item 0x0102 (n)).itemsLost
                                         pulses := (s.station g).pulses.map fun q => if q.ch = n then { q with folded := true, closed := false } else q } ∧
        sameGal [0x0C, 0x100 + 4 * n, G.ovc] (s.station g) (t.station g) ∧ (∀ h, h ≠ g → t.station h = s.station h) ∧ t = { s with stations := t.stations }) ∧
    (∀ (g : Nat) (n : Nat) (p : Pulse),
      g < 8 →
      (s.station g).powered = true →
      n < 32 →
      (s.station g).pulses.filter (fun q => q.ch == n) = [p] →
      p.hot = false →
      Completes (.driverHot g n) s fun t =>
        (t.station g).g (G.flag n 5) = 1 ∧
        t.station g = { s.station g with regs := (t.station g).regs, moment := (t.station g).moment, items := ((s.station g).item 0x8106 (n)).items, itemsLost := ((s.station g).item 0x8106 (n)).itemsLost
                                         pulses := (s.station g).pulses.map fun q => if q.ch = n then { q with hot := true, closed := false } else q } ∧
        sameGal [0x0C, 0x100 + 4 * n] (s.station g) (t.station g) ∧ (∀ h, h ≠ g → t.station h = s.station h) ∧ t = { s with stations := t.stations }) ∧
    (∀ (g : Nat) (n : Nat),
      g < 8 →
      n < 32 →
      ((s.station g).pulse n).all (fun p => p.folded) = true →
      Completes (.overcurrent g n) s fun t =>
        t = s) ∧
    (∀ (g : Nat) (n : Nat),
      g < 8 →
      n < 32 →
      ((s.station g).pulse n).all (fun p => p.hot) = true →
      Completes (.driverHot g n) s fun t =>
        t = s) ∧
    (∀ (g : Nat) (n : Nat),
      g < 8 →
      (s.station g).powered = true →
      n < 32 →
      (s.station g).pulses = [] →
      (s.station g).quiet n s.now = true →
      (s.station g).g (G.flag n 2) = 0 ∨ (s.station g).g (G.forcedBank (n / 8)) = 0 →
      Completes (.forcedOn g n) s fun t =>
        (t.station g).g (G.flag n 2) = 1 ∧ (t.station g).g (G.forcedBank (n / 8)) = 1 ∧ (∀ k, k / 8 = n / 8 → (t.station g).oos k = true) ∧
        (t.station g).g G.latched = (if (s.station g).g G.onForced = 1 then 1 else (s.station g).g G.latched) ∧
        t.station g = { s.station g with regs := (t.station g).regs, moment := (t.station g).moment, items := ((s.station g).item 0x8101 (n)).items, itemsLost := ((s.station g).item 0x8101 (n)).itemsLost } ∧
        sameGal [0x0C, 0x24, 0x100 + 4 * n, 0xE0 + 4 * (n / 8)] (s.station g) (t.station g) ∧ (∀ h, h ≠ g → t.station h = s.station h) ∧ t = { s with stations := t.stations }) ∧
    (∀ (g : Nat) (n : Nat),
      g < 8 →
      n < 32 →
      (s.station g).quiet n s.now = false ∨ (s.station g).pulses ≠ [] ∨ ((s.station g).g (G.flag n 2) = 1 ∧ (s.station g).g (G.forcedBank (n / 8)) = 1) →
      Completes (.forcedOn g n) s fun t =>
        t = s) ∧
    (∀ (g : Nat) (n : Nat) (m : Nat),
      g < 8 →
      (s.station g).powered = true →
      n < 32 →
      m < 32 →
      m ≠ n →
      (s.station g).quiet n s.now = true →
      0 < nth (s.station g).lastOff m 0 →
      s.now ≤ nth (s.station g).lastOff m 0 + 6000 →
      Completes (.crossFed g n [m]) s fun t =>
        (t.station g).g (G.flag n 3) = 1 ∧ (t.station g).g (G.flag m 3) = 1 ∧ (t.station g).oos n = true ∧ (t.station g).oos m = true ∧
        ((s.station g).g (G.flag n 3) = 0 → (t.station g).g (G.partner n) = m) ∧ ((s.station g).g (G.flag m 3) = 0 → (t.station g).g (G.partner m) = n) ∧
        (t.station g).g G.latched = (if (s.station g).g G.onXfed = 1 then 1 else (s.station g).g G.latched) ∧
        (t.station g).pulses = (s.station g).pulses.filter (fun p => p.ch != n && p.ch != m) ∧ (∀ h, h ≠ g → t.station h = s.station h) ∧
        t = { s with stations := t.stations, freeCount := t.freeCount }) ∧
    (∀ (g : Nat) (n : Nat) (m : Nat),
      g < 8 →
      (s.station g).powered = true →
      n < 32 →
      m < 32 →
      m ≠ n →
      (s.station g).quiet n s.now = true →
      0 < nth (s.station g).lastOff m 0 →
      s.now ≤ nth (s.station g).lastOff m 0 + 6000 →
      (s.station g).pulses = [] →
      Completes (.crossFed g n [m]) s fun t =>
        t.station g = { s.station g with regs := (t.station g).regs, moment := (t.station g).moment, items := ((s.station g).item 0x8102 (n + m * 256)).items, itemsLost := ((s.station g).item 0x8102 (n + m * 256)).itemsLost } ∧
        sameGal [0x0C, 0x24, 0x100 + 4 * n, 0x100 + 4 * m] (s.station g) (t.station g) ∧ (∀ h, h ≠ g → t.station h = s.station h) ∧ t = { s with stations := t.stations }) ∧
    (∀ (g : Nat) (n : Nat) (l : List Nat),
      g < 8 →
      n < 32 →
      (s.station g).quiet n s.now = false ∨ l.all (fun m => m % 32 == n || nth (s.station g).lastOff (m % 32) 0 == 0 || decide (nth (s.station g).lastOff (m % 32) 0 + 6000 < s.now)) = true →
      Completes (.crossFed g n l) s fun t =>
        t = s)

/-- EN 1 releases the pin, once boot is complete. At a look at a pin's windows, with what is over by this tick settled, a source window that has come to be open is shown where EN was 1 before the writes of this tick, and its forced closing tick is fixed; an open one stays as it is, and with none open the pin shows none. So one window opens on its opening tick and closes on its closing tick. A window shown for MAXHIGH ticks is forced closed, counted and flagged, while its source window stays open; else nothing changes. -/
def Obligations.StrobeCommands : Prop :=
  ∀ s : State,
    (∀ (k : Nat) (en : Bool),
      k < 4 →
      s.unitsAnswer = true →
      Completes (.strobeEnable k en) s fun t =>
        t.g (F.ILM_STROBE_CTRL_EN k) = (if en then 1 else 0) ∧
        t.strobes = (modNth s.strobes k fun x => { x with released := x.released || en }) ∧
        t.late = s.late ++ [(s.time, F.ILM_STROBE_CTRL k, s.regs.get (F.ILM_STROBE_CTRL k))] ∧
        sameRegs [F.ILM_STROBE_CTRL k] s t ∧ t = { s with regs := t.regs, strobes := t.strobes, late := t.late }) ∧
    (∀ (k : Nat) (en : Bool),
      s.unitsAnswer = false →
      Completes (.strobeEnable k en) s fun t =>
        t = s) ∧
    (∀ (k : Nat) (c : Instr) (x : Strobe),
      k < 4 →
      c ∈ [.strobeWindowOpen k, .strobeWindowClose k] →
      x = (s.strobe k).settle s.time →
      x.openAt (s.g (F.ILM_STROBE_CTRL_SRC k)) (s.g (F.ILM_STROBE_CTRL_FLAG k)) s.time = true →
      x.openSince = none →
      Completes c s fun t =>
        t.strobes = (modNth s.strobes k fun _ => { x with openSince := some s.time, shown := s.strobeWas k }) ∧
        (s.g (F.ILM_STROBE_MAXHIGH_TICKS k) = 0 → t.agenda = s.agenda) ∧
        (s.g (F.ILM_STROBE_MAXHIGH_TICKS k) ≠ 0 →
          t.agenda = s.agenda ++ [(s.now + s.g (F.ILM_STROBE_MAXHIGH_TICKS k), .strobeMaxhigh k)]) ∧
        t = { s with strobes := t.strobes, agenda := t.agenda }) ∧
    (∀ (k : Nat) (c : Instr) (x : Strobe) (o : Nat),
      k < 4 →
      c ∈ [.strobeWindowOpen k, .strobeWindowClose k] →
      x = (s.strobe k).settle s.time →
      x.openAt (s.g (F.ILM_STROBE_CTRL_SRC k)) (s.g (F.ILM_STROBE_CTRL_FLAG k)) s.time = true →
      x.openSince = some o →
      Completes c s fun t =>
        t = { s with strobes := modNth s.strobes k fun _ => x }) ∧
    (∀ (k : Nat) (c : Instr) (x : Strobe),
      k < 4 →
      c ∈ [.strobeWindowOpen k, .strobeWindowClose k] →
      x = (s.strobe k).settle s.time →
      x.openAt (s.g (F.ILM_STROBE_CTRL_SRC k)) (s.g (F.ILM_STROBE_CTRL_FLAG k)) s.time = false →
      Completes c s fun t =>
        t = { s with strobes := modNth s.strobes k fun _ => { x with openSince := none, shown := false } }) ∧
    (∀ (k : Nat) (a : Nat) (b : Nat),
      k < 4 →
      (s.strobe k).windows = [(a, b)] →
      a ≤ s.time →
      s.time < b →
      (s.strobe k).flagQueue = [] →
      (s.strobe k).openSince = none →
      s.g (F.ILM_STROBE_CTRL_SRC k) ≠ 2 →
      Completes (.strobeWindowOpen k) s fun t =>
        t.strobe k = { s.strobe k with openSince := some s.time, shown := s.strobeWas k } ∧ (∀ d, d ≠ k → t.strobe d = s.strobe d) ∧
        t = { s with strobes := t.strobes, agenda := t.agenda }) ∧
    (∀ (k : Nat) (a : Nat) (b : Nat),
      k < 4 →
      (s.strobe k).windows = [(a, b)] →
      b ≤ s.time →
      (s.strobe k).flagQueue = [] →
      s.g (F.ILM_STROBE_CTRL_SRC k) ≠ 2 →
      Completes (.strobeWindowClose k) s fun t =>
        t.strobe k = { s.strobe k with windows := [], openSince := none, shown := false } ∧ (∀ d, d ≠ k → t.strobe d = s.strobe d) ∧
        t = { s with strobes := t.strobes }) ∧
    (∀ (k : Nat) (o : Nat),
      k < 4 →
      (s.strobe k).openSince = some o →
      (s.strobe k).shown = true →
      s.g (F.ILM_STROBE_MAXHIGH_TICKS k) ≠ 0 →
      o + s.g (F.ILM_STROBE_MAXHIGH_TICKS k) ≤ s.time →
      Completes (.strobeMaxhigh k) s fun t =>
        t.strobes = (modNth s.strobes k fun x => { x with shown := false }) ∧
        t.ctr (C.ILM_CNT_MAXHIGH k) = (C.ILM_CNT_MAXHIGH k).plus (s.ctr (C.ILM_CNT_MAXHIGH k)) 1 ∧
        bitN (t.g F.ILM_FLAGS_MAXHIGH) k = true ∧
        sameRegs [F.ILM_FLAGS, (C.ILM_CNT_MAXHIGH k).off, (C.USH_CNT_NQ_LOST 1).off] s t ∧
        t = { s with regs := t.regs, moment := t.moment, strobes := t.strobes, notices := t.notices, agenda := t.agenda }) ∧
    (∀ (k : Nat),
      k < 4 →
      (s.strobe k).shown = false ∨ s.g (F.ILM_STROBE_MAXHIGH_TICKS k) = 0 ∨ (s.strobe k).openSince.all (fun o => decide (s.time < o + s.g (F.ILM_STROBE_MAXHIGH_TICKS k))) = true →
      Completes (.strobeMaxhigh k) s fun t =>
        t = s)

/-- A code written, once boot is complete, is stored and lands at the next CD51 edge, where the output drives the code as it stood before the writes of that tick or the narrowest limit, with EFF and LIMITER to match, unless nothing was ever written, the dead time runs or an entry to Hush or deeper holds it at 0 V. A change of range drives the output to 0 V for 30,000 ticks from its CD51 edge; at the end the output is in its new range at its code in effect. An output held at 0 V changes its range at once. Before their ticks these change nothing. -/
def Obligations.SetpointCommands : Prop :=
  ∀ s : State,
    (∀ (j : Nat) (v : Nat),
      j < 4 →
      s.unitsAnswer = true →
      Completes (.isetCode j v) s fun t =>
        t.g (F.ILM_ISET_CODE_CODE j) = v % 4096 ∧ t.isets = (modNth s.isets j fun x => { x with written := true }) ∧
        t.agenda = s.agenda ++ [(s.now + (edgeAfter 1500 s.time - s.time), .isetUpdate j)] ∧
        t.late = s.late ++ [(s.time, F.ILM_ISET_CODE j, s.regs.get (F.ILM_ISET_CODE j))] ∧
        sameRegs [F.ILM_ISET_CODE j] s t ∧ t = { s with regs := t.regs, isets := t.isets, agenda := t.agenda, late := t.late }) ∧
    (∀ (j : Nat) (v : Nat),
      s.unitsAnswer = false →
      Completes (.isetCode j v) s fun t =>
        t = s) ∧
    (∀ (j : Nat) (w : Nat),
      j < 4 →
      (s.iset j).written = true →
      (s.iset j).deadUntil = none →
      (s.iset j).off = false →
      onEdge 1500 s.time = true →
      w = bitsOf (s.before (F.ILM_ISET_CODE j)) 11 0 →
      Completes (.isetUpdate j) s fun t =>
        t.isets = (modNth s.isets j fun x => { x with code := min w (s.isetLimit j).1 }) ∧
        t.g (F.ILM_ISET_EFF_CODE j) = min w (s.isetLimit j).1 ∧
        t.g (F.ILM_ISET_EFF_LIMITER j) = (if w ≤ (s.isetLimit j).1 then 0 else (s.isetLimit j).2) ∧
        sameRegs [F.ILM_ISET_EFF j] s t ∧ t = { s with regs := t.regs, isets := t.isets }) ∧
    (∀ (j : Nat),
      j < 4 →
      (s.iset j).written = false ∨ (s.iset j).deadUntil.isSome = true ∨ (s.iset j).off = true ∨ onEdge 1500 s.time = false →
      Completes (.isetUpdate j) s fun t =>
        t = s) ∧
    (∀ (j : Nat) (u : Nat),
      j < 4 →
      (s.iset j).changeAt = some u →
      u ≤ s.time →
      (s.iset j).off = false →
      Completes (.rangeChange j) s fun t =>
        t.isets = (modNth s.isets j fun x =>
          { x with changeAt := none, deadUntil := some (s.time + 30000), code := 0, written := true }) ∧
        t.g (F.ILM_ISET_EFF_DEAD j) = 1 ∧ t.g (F.ILM_ISET_EFF_CODE j) = 0 ∧
        t.g (F.ILM_ISET_EFF_RANGE j) = (if (s.iset j).target then 1 else 0) ∧
        t.agenda = s.agenda ++ [(s.now + 30000, .deadTimeEnd j)] ∧ sameRegs [F.ILM_ISET_EFF j] s t ∧
        t = { s with regs := t.regs, isets := t.isets, agenda := t.agenda }) ∧
    (∀ (j : Nat) (u : Nat),
      j < 4 →
      (s.iset j).changeAt = some u →
      u ≤ s.time →
      (s.iset j).off = true →
      Completes (.rangeChange j) s fun t =>
        t.isets = (modNth s.isets j fun x => { x with changeAt := none, wide := x.target, written := true }) ∧
        t.g (F.ILM_ISET_EFF_RANGE j) = (if (s.iset j).target then 1 else 0) ∧ sameRegs [F.ILM_ISET_EFF j] s t ∧
        t = { s with regs := t.regs, isets := t.isets }) ∧
    (∀ (j : Nat),
      j < 4 →
      (s.iset j).changeAt.all (fun u => decide (s.time < u)) = true →
      Completes (.rangeChange j) s fun t =>
        t = s) ∧
    (∀ (j : Nat) (u w : Nat),
      j < 4 →
      (s.iset j).deadUntil = some u →
      u ≤ s.time →
      w = bitsOf (s.before (F.ILM_ISET_CODE j)) 11 0 →
      Completes (.deadTimeEnd j) s fun t =>
        t.isets = (modNth s.isets j fun x => { x with deadUntil := none, wide := x.target, code := min w (s.isetLimit j).1 }) ∧
        t.g (F.ILM_ISET_EFF_DEAD j) = 0 ∧ t.g (F.ILM_ISET_EFF_RANGE j) = (if (s.iset j).target then 1 else 0) ∧
        t.g (F.ILM_ISET_EFF_CODE j) = min w (s.isetLimit j).1 ∧
        t.g (F.ILM_ISET_EFF_LIMITER j) = (if w ≤ (s.isetLimit j).1 then 0 else (s.isetLimit j).2) ∧
        sameRegs [F.ILM_ISET_EFF j] s t ∧ t = { s with regs := t.regs, isets := t.isets }) ∧
    (∀ (j : Nat),
      j < 4 →
      (s.iset j).deadUntil.all (fun u => decide (s.time < u)) = true →
      Completes (.deadTimeEnd j) s fun t =>
        t = s)

/-- On its edge, on what the edge finds (the start values on the first, and host pops made), GOTO goes on at ADDR, COUNT at ADDR while its counter is not zero and always decrements it modulo 2^32, BRIF and BRNOT at ADDR where COND is as wanted, else at the successor; AWAIT goes on where its source equals LEVEL and otherwise stalls for one cycle. A floating pin reads a free value. A completed instruction spends its HOLD before the next edge. No register is written. An instruction of an engine that does not execute it on this tick does nothing. -/
def Obligations.PioBranches : Prop :=
  ∀ s : State,
    (∀ (e w : Nat) (s₁ : State),
      s.atEdge e w = true →
      s₁ = s.edge e →
      pioRow e w = .goto e →
      Completes (.goto e) s fun t =>
        t.pio.engines = (modNth s₁.pio.engines e fun _ => s₁.moved e w (wbits w 9 4)) ∧
        t = { s₁ with pio := { s₁.pio with engines := t.pio.engines }, agenda := t.agenda }) ∧
    (∀ (e w : Nat) (s₁ : State),
      s.atEdge e w = true →
      s₁ = s.edge e →
      pioRow e w = .count e →
      wbits w 10 10 = 0 →
      Completes (.count e) s fun t =>
        t.pio.engines = (modNth s₁.pio.engines e fun _ => 
          { s₁.moved e w (if (s₁.eng e).u = 0 then s₁.pioSucc e else wbits w 9 4) with u := dec32 (s₁.eng e).u }) ∧
        t = { s₁ with pio := { s₁.pio with engines := t.pio.engines }, agenda := t.agenda }) ∧
    (∀ (e w : Nat) (s₁ : State),
      s.atEdge e w = true →
      s₁ = s.edge e →
      pioRow e w = .count e →
      wbits w 10 10 = 1 →
      Completes (.count e) s fun t =>
        t.pio.engines = (modNth s₁.pio.engines e fun _ => 
          { s₁.moved e w (if (s₁.eng e).v = 0 then s₁.pioSucc e else wbits w 9 4) with v := dec32 (s₁.eng e).v }) ∧
        t = { s₁ with pio := { s₁.pio with engines := t.pio.engines }, agenda := t.agenda }) ∧
    (∀ (e w : Nat) (s₁ : State),
      s.atEdge e w = true →
      s₁ = s.edge e →
      pioRow e w = .brif e →
      Completes (.brif e) s fun t =>
        t.pio.engines = (modNth s₁.pio.engines e fun _ => s₁.moved e w (if (s₁.pioCond e w).1 then wbits w 9 4 else s₁.pioSucc e)) ∧
        t = { s₁ with pio := { s₁.pio with engines := t.pio.engines }, agenda := t.agenda, freeCount := (s₁.pioCond e w).2.freeCount }) ∧
    (∀ (e w : Nat) (s₁ : State),
      s.atEdge e w = true →
      s₁ = s.edge e →
      pioRow e w = .brnot e →
      Completes (.brnot e) s fun t =>
        t.pio.engines = (modNth s₁.pio.engines e fun _ => s₁.moved e w (if (s₁.pioCond e w).1 then s₁.pioSucc e else wbits w 9 4)) ∧
        t = { s₁ with pio := { s₁.pio with engines := t.pio.engines }, agenda := t.agenda, freeCount := (s₁.pioCond e w).2.freeCount }) ∧
    (∀ (e w : Nat) (s₁ : State),
      s.atEdge e w = true →
      s₁ = s.edge e →
      pioRow e w = .await e →
      (s₁.pioAwaits e w).1 = true →
      Completes (.await e) s fun t =>
        t.pio.engines = (modNth s₁.pio.engines e fun _ => s₁.moved e w (s₁.pioSucc e)) ∧
        t = { s₁ with pio := { s₁.pio with engines := t.pio.engines }, agenda := t.agenda, freeCount := (s₁.pioAwaits e w).2.freeCount }) ∧
    (∀ (e w : Nat) (s₁ : State),
      s.atEdge e w = true →
      s₁ = s.edge e →
      pioRow e w = .await e →
      (s₁.pioAwaits e w).1 = false →
      Completes (.await e) s fun t =>
        t.pio.engines = (modNth s₁.pio.engines e fun _ => { s₁.eng e with stalled := true, nextAt := s.time + s.pioCycle e }) ∧
        t = { s₁ with pio := { s₁.pio with engines := t.pio.engines }, agenda := t.agenda, freeCount := (s₁.pioAwaits e w).2.freeCount }) ∧
    (∀ (e : Nat) (c : Instr),
      pioEvent e c = true →
      c ≠ .holdEnd e →
      (s.eng e).running = false ∨ (s.eng e).holding = true ∨ (s.eng e).nextAt ≠ s.time ∨ s.ticking = false ∨ s.pioHalted = true ∨ pioRow e (s.pioWord e) ≠ c →
      Completes c s fun t =>
        t = s)

/-- On its edge, on what the edge finds, SHIN shifts NBITS of the pins, U, V, zeros or the shared flags into SR by the direction of SHIFT; SHOUT shifts them out into the levels or directions of the DRIVE pins, U, V, nowhere or PC; COPY moves a source through XF to the levels or directions of the DRIVE pins, U, V, SR, CMP or PC; PUT loads U or V with its five bits, or the levels or directions of the PUT pins. Only pins that the engine owns change, four ticks later; a floating pin reads a free value. -/
def Obligations.PioData : Prop :=
  ∀ s : State,
    (∀ (e w : Nat) (s₁ : State),
      s.atEdge e w = true →
      s₁ = s.edge e →
      pioRow e w = .shin e →
      wbits w 11 9 = 0 →
      Completes (.shin e) s fun t =>
        t.pio.engines = (modNth s₁.pio.engines e fun _ => 
          { s₁.moved e w (s₁.pioSucc e) with
            sr := shiftIn (s.on (F.PIO_EXEC_SHIFT e)) (s₁.eng e).sr (pioBits w)
              (pinsFrom s₁.readPins.1 (s.g (F.PIO_PINS_READ_BASE e)) (pioBits w)) }) ∧
        t = { s₁ with pio := { s₁.pio with engines := t.pio.engines }, agenda := t.agenda, freeCount := s₁.readPins.2.freeCount }) ∧
    (∀ (e w : Nat) (s₁ : State) (k x : Nat),
      s.atEdge e w = true →
      s₁ = s.edge e →
      pioRow e w = .shin e →
      wbits w 11 9 = k →
      1 ≤ k →
      (x = if k = 1 then (s₁.eng e).u else if k = 2 then (s₁.eng e).v else if k = 3 then 0 else s.pio.flags) →
      Completes (.shin e) s fun t =>
        t.pio.engines = (modNth s₁.pio.engines e fun _ => 
          { s₁.moved e w (s₁.pioSucc e) with
            sr := shiftIn (s.on (F.PIO_EXEC_SHIFT e)) (s₁.eng e).sr (pioBits w) (x % 2 ^ pioBits w) }) ∧
        t = { s₁ with pio := { s₁.pio with engines := t.pio.engines }, agenda := t.agenda }) ∧
    (∀ (e w : Nat) (s₁ : State) (k v sr : Nat),
      s.atEdge e w = true →
      s₁ = s.edge e →
      pioRow e w = .shout e →
      wbits w 11 9 = k →
      k ≠ 0 →
      k ≠ 4 →
      shiftOut (s.on (F.PIO_EXEC_SHIFT e)) (s₁.eng e).sr (pioBits w) = (v, sr) →
      Completes (.shout e) s fun t =>
        t.pio.engines = (modNth s₁.pio.engines e fun _ => 
          { s₁.moved e w (if k = 5 then v % 64 else s₁.pioSucc e) with
            sr := sr, u := if k = 1 then v else (s₁.eng e).u, v := if k = 2 then v else (s₁.eng e).v }) ∧
        t = { s₁ with pio := { s₁.pio with engines := t.pio.engines }, agenda := t.agenda }) ∧
    (∀ (e w : Nat) (s₁ : State) (k v sr : Nat),
      s.atEdge e w = true →
      s₁ = s.edge e →
      pioRow e w = .shout e →
      wbits w 11 9 = k →
      k = 0 ∨ k = 4 →
      shiftOut (s.on (F.PIO_EXEC_SHIFT e)) (s₁.eng e).sr (pioBits w) = (v, sr) →
      Completes (.shout e) s fun t =>
        t.pio.engines = (modNth s₁.pio.engines e fun _ => { s₁.moved e w (s₁.pioSucc e) with sr := sr }) ∧
        t = { s₁.drivePins e v (decide (k = 4)) with pio := { (s₁.drivePins e v (decide (k = 4))).pio with engines := t.pio.engines }, agenda := t.agenda }) ∧
    (∀ (e w : Nat) (s₁ : State) (k v : Nat),
      s.atEdge e w = true →
      s₁ = s.edge e →
      pioRow e w = .copy e →
      wbits w 11 9 = k →
      v = pioXf (wbits w 8 7) (s₁.pioSource e (wbits w 6 4)).1 →
      k = 1 ∨ k = 2 ∨ k = 3 ∨ k = 5 →
      Completes (.copy e) s fun t =>
        t.pio.engines = (modNth s₁.pio.engines e fun _ => 
          { s₁.moved e w (if k = 5 then v % 64 else s₁.pioSucc e) with
            u := if k = 1 then v else (s₁.eng e).u, v := if k = 2 then v else (s₁.eng e).v, sr := if k = 3 then v else (s₁.eng e).sr }) ∧
        t = { s₁ with pio := { s₁.pio with engines := t.pio.engines }, agenda := t.agenda, freeCount := (s₁.pioSource e (wbits w 6 4)).2.freeCount }) ∧
    (∀ (e w : Nat) (s₁ : State) (k v : Nat),
      s.atEdge e w = true →
      s₁ = s.edge e →
      pioRow e w = .copy e →
      wbits w 11 9 = k →
      v = pioXf (wbits w 8 7) (s₁.pioSource e (wbits w 6 4)).1 →
      k = 0 ∨ k = 6 →
      Completes (.copy e) s fun t =>
        t.pio.engines = (modNth s₁.pio.engines e fun _ => s₁.moved e w (s₁.pioSucc e)) ∧
        t = { s₁.drivePins e v (decide (k = 6)) with pio := { (s₁.drivePins e v (decide (k = 6))).pio with engines := t.pio.engines }, agenda := t.agenda, freeCount := (s₁.pioSource e (wbits w 6 4)).2.freeCount }) ∧
    (∀ (e w : Nat) (s₁ : State) (k v : Nat),
      s.atEdge e w = true →
      s₁ = s.edge e →
      pioRow e w = .copy e →
      wbits w 11 9 = k →
      v = pioXf (wbits w 8 7) (s₁.pioSource e (wbits w 6 4)).1 →
      k = 4 →
      Completes (.copy e) s fun t =>
        t.g (F.PIO_CMP_VALUE e) = v % 2 ^ 32 ∧ sameRegs [F.PIO_CMP e] s₁ t ∧
        t.pio.engines = (modNth s₁.pio.engines e fun _ => { s₁.moved e w (s₁.pioSucc e) with copied := some s.now }) ∧
        t = { s₁ with pio := { s₁.pio with engines := t.pio.engines }, agenda := t.agenda, freeCount := (s₁.pioSource e (wbits w 6 4)).2.freeCount, regs := t.regs }) ∧
    (∀ (e w : Nat) (s₁ : State) (k : Nat),
      s.atEdge e w = true →
      s₁ = s.edge e →
      pioRow e w = .put e →
      wbits w 11 9 = k →
      k = 1 ∨ k = 2 →
      Completes (.put e) s fun t =>
        t.pio.engines = (modNth s₁.pio.engines e fun _ => 
          { s₁.moved e w (s₁.pioSucc e) with
            u := if k = 1 then wbits w 8 4 else (s₁.eng e).u, v := if k = 2 then wbits w 8 4 else (s₁.eng e).v }) ∧
        t = { s₁ with pio := { s₁.pio with engines := t.pio.engines }, agenda := t.agenda }) ∧
    (∀ (e w : Nat) (s₁ : State) (k : Nat),
      s.atEdge e w = true →
      s₁ = s.edge e →
      pioRow e w = .put e →
      wbits w 11 9 = k →
      k ≠ 1 →
      k ≠ 2 →
      Completes (.put e) s fun t =>
        t.pio.engines = (modNth s₁.pio.engines e fun _ => s₁.moved e w (s₁.pioSucc e)) ∧
        t = { s₁.writePins e (s.g (F.PIO_PINS_PUT_BASE e)) (s.g (F.PIO_PINS_PUT_COUNT e)) (wbits w 8 4) (decide (k ≠ 0)) with pio := { (s₁.writePins e (s.g (F.PIO_PINS_PUT_BASE e)) (s.g (F.PIO_PINS_PUT_COUNT e)) (wbits w 8 4) (decide (k ≠ 0))).pio with engines := t.pio.engines }, agenda := t.agenda })

/-- On its edge DEPOSIT appends SR with the low half of NEWEL_TIME to an RX that is not full and clears SR, or replaces what an RX set as a mailbox holds; on a full one with BLOCK it stalls, without it SR is lost and counted as an overflow. FETCH takes the oldest TX word that is in the queue; with none and BLOCK it stalls, without it that is counted as an underflow. A host write to PIO_TXD enters a TX that is not full on the next CD16 edge, and is counted as an overflow on a full one. A host pop of each engine named (pops whose edge has come made first) falls on that edge where a word is left, else it is counted as an underflow. Clearing the queues of a stopped engine empties both; of a running one it is refused with reason 5. Engines beyond 15 do not exist. -/
def Obligations.PioQueues : Prop :=
  ∀ s : State,
    (∀ (e w : Nat) (s₁ : State),
      s.atEdge e w = true →
      s₁ = s.edge e →
      pioRow e w = .deposit e →
      s.on (F.PIO_QCFG_RXMAIL e) = true →
      s₁.pioDepth e true ≠ 0 →
      Completes (.deposit e) s fun t =>
        t.pio.engines = (modNth s₁.pio.engines e fun _ => 
          { s₁.moved e w (s₁.pioSucc e) with rx := [((s₁.eng e).sr, s.time % 2 ^ 32)], sr := 0 }) ∧
        t = { s₁ with pio := { s₁.pio with engines := t.pio.engines }, agenda := t.agenda }) ∧
    (∀ (e w : Nat) (s₁ : State),
      s.atEdge e w = true →
      s₁ = s.edge e →
      pioRow e w = .deposit e →
      s.on (F.PIO_QCFG_RXMAIL e) = false →
      (s₁.eng e).rx.length < s₁.pioDepth e true →
      Completes (.deposit e) s fun t =>
        t.pio.engines = (modNth s₁.pio.engines e fun _ => 
          { s₁.moved e w (s₁.pioSucc e) with rx := (s₁.eng e).rx ++ [((s₁.eng e).sr, s.time % 2 ^ 32)], sr := 0 }) ∧
        t = { s₁ with pio := { s₁.pio with engines := t.pio.engines }, agenda := t.agenda }) ∧
    (∀ (e w : Nat) (s₁ : State),
      s.atEdge e w = true →
      s₁ = s.edge e →
      pioRow e w = .deposit e →
      s.on (F.PIO_QCFG_RXMAIL e) = false ∨ s₁.pioDepth e true = 0 →
      s₁.pioDepth e true ≤ (s₁.eng e).rx.length →
      wbits w 10 10 = 1 →
      Completes (.deposit e) s fun t =>
        t.pio.engines = (modNth s₁.pio.engines e fun _ => { s₁.eng e with stalled := true, nextAt := s.time + s.pioCycle e }) ∧
        t = { s₁ with pio := { s₁.pio with engines := t.pio.engines }, agenda := t.agenda }) ∧
    (∀ (e w : Nat) (s₁ : State),
      s.atEdge e w = true →
      s₁ = s.edge e →
      pioRow e w = .deposit e →
      s.on (F.PIO_QCFG_RXMAIL e) = false ∨ s₁.pioDepth e true = 0 →
      s₁.pioDepth e true ≤ (s₁.eng e).rx.length →
      wbits w 10 10 = 0 →
      Completes (.deposit e) s fun t =>
        t.ctr (C.PIO_CNT_OVER e) = (C.PIO_CNT_OVER e).plus (s₁.ctr (C.PIO_CNT_OVER e)) 1 ∧ bitN (t.g ⟨F.PIO_ERR e, 4, 0⟩) 3 = true ∧
        sameRegs [(C.PIO_CNT_OVER e).off, F.PIO_ERR e, (C.USH_CNT_NQ_LOST 1).off] s₁ t ∧
        t.pio.engines = (modNth s₁.pio.engines e fun _ => { s₁.moved e w (s₁.pioSucc e) with sr := 0 }) ∧
        t = { s₁ with pio := { s₁.pio with engines := t.pio.engines }, agenda := t.agenda, regs := t.regs, moment := t.moment, notices := t.notices }) ∧
    (∀ (e w : Nat) (s₁ : State) (a v : Nat) (l : List (Nat × Nat)),
      s.atEdge e w = true →
      s₁ = s.edge e →
      pioRow e w = .fetch e →
      (s₁.eng e).tx = (a, v) :: l →
      a ≤ s.time →
      Completes (.fetch e) s fun t =>
        t.pio.engines = (modNth s₁.pio.engines e fun _ => { s₁.moved e w (s₁.pioSucc e) with tx := l, sr := v }) ∧
        t = { s₁ with pio := { s₁.pio with engines := t.pio.engines }, agenda := t.agenda }) ∧
    (∀ (e w : Nat) (s₁ : State),
      s.atEdge e w = true →
      s₁ = s.edge e →
      pioRow e w = .fetch e →
      (s₁.eng e).tx.head?.all (fun q => decide (s.time < q.1)) = true →
      wbits w 10 10 = 1 →
      Completes (.fetch e) s fun t =>
        t.pio.engines = (modNth s₁.pio.engines e fun _ => { s₁.eng e with stalled := true, nextAt := s.time + s.pioCycle e }) ∧
        t = { s₁ with pio := { s₁.pio with engines := t.pio.engines }, agenda := t.agenda }) ∧
    (∀ (e w : Nat) (s₁ : State),
      s.atEdge e w = true →
      s₁ = s.edge e →
      pioRow e w = .fetch e →
      (s₁.eng e).tx.head?.all (fun q => decide (s.time < q.1)) = true →
      wbits w 10 10 = 0 →
      Completes (.fetch e) s fun t =>
        t.ctr (C.PIO_CNT_UNDER e) = (C.PIO_CNT_UNDER e).plus (s₁.ctr (C.PIO_CNT_UNDER e)) 1 ∧ bitN (t.g ⟨F.PIO_ERR e, 4, 0⟩) 0 = true ∧
        sameRegs [(C.PIO_CNT_UNDER e).off, F.PIO_ERR e, (C.USH_CNT_NQ_LOST 1).off] s₁ t ∧
        t.pio.engines = (modNth s₁.pio.engines e fun _ => s₁.moved e w (s₁.pioSucc e)) ∧
        t = { s₁ with pio := { s₁.pio with engines := t.pio.engines }, agenda := t.agenda, regs := t.regs, moment := t.moment, notices := t.notices }) ∧
    (∀ (e : Nat) (v : Nat),
      e < 16 →
      (s.eng e).tx.length < s.pioDepth e false →
      Completes (.pioTxd e v) s fun t =>
        t = { s with pio := { s.pio with engines := modNth s.pio.engines e fun x =>
          { x with tx := x.tx ++ [(edgeAfter 2 s.time, v % 2 ^ 32)] } } }) ∧
    (∀ (e : Nat) (v : Nat),
      e < 16 →
      s.pioDepth e false ≤ (s.eng e).tx.length →
      Completes (.pioTxd e v) s fun t =>
        t.ctr (C.PIO_CNT_OVER e) = (C.PIO_CNT_OVER e).plus (s.ctr (C.PIO_CNT_OVER e)) 1 ∧ bitN (t.g ⟨F.PIO_ERR e, 4, 0⟩) 1 = true ∧
        sameRegs [(C.PIO_CNT_OVER e).off, F.PIO_ERR e, (C.USH_CNT_NQ_LOST 1).off] s t ∧
        t = { s with regs := t.regs, moment := t.moment, notices := t.notices, agenda := t.agenda }) ∧
    (∀ (e : Nat) (v : Nat),
      16 ≤ e →
      Completes (.pioTxd e v) s fun t =>
        t = s) ∧
    (∀ (m : Nat),
      Completes (.pioRxpop m) s fun t =>
        (∀ e ∈ List.range 16, t.eng e = (if bitN m e then
            (if ((s.settlePops e).eng e).pops.length < ((s.settlePops e).eng e).rx.length then
              { (s.settlePops e).eng e with pops := ((s.settlePops e).eng e).pops ++ [edgeAfter 2 s.time] }
            else (s.settlePops e).eng e) else s.eng e) ∧
          t.ctr (C.PIO_CNT_UNDER e) = (C.PIO_CNT_UNDER e).plus (s.ctr (C.PIO_CNT_UNDER e))
            (if bitN m e && decide (((s.settlePops e).eng e).rx.length ≤ ((s.settlePops e).eng e).pops.length) then 1 else 0) ∧
          (bitN m e = true → ((s.settlePops e).eng e).rx.length ≤ ((s.settlePops e).eng e).pops.length →
            bitN (t.g ⟨F.PIO_ERR e, 4, 0⟩) 2 = true)) ∧
        sameRegs ((List.range 16).map (fun e => (C.PIO_CNT_UNDER e).off) ++ (List.range 16).map F.PIO_ERR ++
          [(C.USH_CNT_NQ_LOST 1).off]) s t ∧
        t = { s with regs := t.regs, moment := t.moment, notices := t.notices, agenda := t.agenda
                     pio := { s.pio with engines := t.pio.engines } }) ∧
    (∀ (e : Nat),
      e < 16 →
      (s.eng e).running = false →
      Completes (.queueClear e) s fun t =>
        t = { s with pio := { s.pio with engines := modNth s.pio.engines e fun x => { x with tx := [], rx := [], pops := [] } } }) ∧
    (∀ (e : Nat),
      e < 16 →
      (s.eng e).running = true →
      Completes (.queueClear e) s fun t =>
        t.g F.STP_LAST_REFUSED_REASON = 5 ∧ t.g F.STP_LAST_REFUSED_OFFSET = F.PIO_QCFG e ∧
        t.ctr C.STP_CNT_REFUSED = C.STP_CNT_REFUSED.plus (s.ctr C.STP_CNT_REFUSED) 1 ∧
        sameRegs [F.STP_LAST_REFUSED, C.STP_CNT_REFUSED.off] s t ∧ t = { s with regs := t.regs, moment := t.moment }) ∧
    (∀ (e : Nat),
      16 ≤ e →
      Completes (.queueClear e) s fun t =>
        t = s)

/-- On its edge SIGNAL notes a write of its one flag on this edge; a host write of the flags is noted for the next CD16 edge. An illegal word completes like an instruction and sets ILLEGAL. At the end of a HOLD the successor is fixed for the next edge; before it, or with no HOLD running, HOLD_END changes nothing. -/
def Obligations.PioSignals : Prop :=
  ∀ s : State,
    (∀ (e w : Nat) (s₁ : State),
      s.atEdge e w = true →
      s₁ = s.edge e →
      pioRow e w = .signalRaise e →
      Completes (.signalRaise e) s fun t =>
        t.pio.engines = (modNth s₁.pio.engines e fun _ => s₁.moved e w (s₁.pioSucc e)) ∧
        t.pio.flagWrites = s.pio.flagWrites ++ [(s.time, true, 2 ^ wbits w 8 4 % 2 ^ 32)] ∧
        t = { s₁ with pio := { s₁.pio with engines := t.pio.engines, flagWrites := t.pio.flagWrites }, agenda := t.agenda }) ∧
    (∀ (e w : Nat) (s₁ : State),
      s.atEdge e w = true →
      s₁ = s.edge e →
      pioRow e w = .signalLower e →
      Completes (.signalLower e) s fun t =>
        t.pio.engines = (modNth s₁.pio.engines e fun _ => s₁.moved e w (s₁.pioSucc e)) ∧
        t.pio.flagWrites = s.pio.flagWrites ++ [(s.time, false, 2 ^ wbits w 8 4 % 2 ^ 32)] ∧
        t = { s₁ with pio := { s₁.pio with engines := t.pio.engines, flagWrites := t.pio.flagWrites }, agenda := t.agenda }) ∧
    (∀ (e w : Nat) (s₁ : State),
      s.atEdge e w = true →
      s₁ = s.edge e →
      pioRow e w = .illegal e →
      Completes (.illegal e) s fun t =>
        bitN (t.g ⟨F.PIO_ERR e, 4, 0⟩) 4 = true ∧ sameRegs [F.PIO_ERR e, (C.USH_CNT_NQ_LOST 1).off] s₁ t ∧
        t.pio.engines = (modNth s₁.pio.engines e fun _ => s₁.moved e w (s₁.pioSucc e)) ∧
        t = { s₁ with pio := { s₁.pio with engines := t.pio.engines }, agenda := t.agenda, regs := t.regs, moment := t.moment, notices := t.notices }) ∧
    (∀ (e : Nat),
      (s.eng e).running = true →
      (s.eng e).holding = true →
      (s.eng e).nextAt ≤ s.time + s.pioCycle e →
      Completes (.holdEnd e) s fun t =>
        t.pio.engines = (modNth s.pio.engines e fun x => { x with holding := false }) ∧
        t.agenda = s.agenda ++ [(s.now + ((s.eng e).nextAt - s.time), pioRow e (t.pioWord e))] ∧
        t = { s with pio := { s.pio with engines := t.pio.engines }, agenda := t.agenda }) ∧
    (∀ (e : Nat),
      (s.eng e).running = false ∨ (s.eng e).holding = false ∨ s.time + s.pioCycle e < (s.eng e).nextAt →
      Completes (.holdEnd e) s fun t =>
        t = s) ∧
    (∀ (f : Nat),
      Completes (.pioShflagSet f) s fun t =>
        t = { s with pio := { s.pio with flagWrites := s.pio.flagWrites ++ [(edgeAfter 2 s.time, true, f % 2 ^ 32)] } }) ∧
    (∀ (f : Nat),
      Completes (.pioShflagClr f) s fun t =>
        t = { s with pio := { s.pio with flagWrites := s.pio.flagWrites ++ [(edgeAfter 2 s.time, false, f % 2 ^ 32)] } })

/-- A start, at Run, Poise or Rest once boot is complete, of engines that are stopped fixes the first instruction of each for the first even tick at or after four ticks on, and shows them running; elsewhere it does nothing. A stop ends every running engine it names: it is no longer shown running and no event of it stays on the agenda; where its edge is not on this tick (else what falls on it stands first), STOPPED_IN tells whether it was in a HOLD or stalled. -/
def Obligations.PioControl : Prop :=
  ∀ s : State,
    (∀ (m : Nat),
      s.unitsAnswer = true →
      s.pioAllowed = true →
      Completes (.pioStart m) s fun t =>
        (∀ e ∈ List.range 16, e < s.pio.engines.length → t.eng e = (if (bitN m e && !(s.eng e).running) then
            { s.eng e with running := true, starting := true, holding := false, stalled := false, nextAt := nextEdge 2 (s.time + 4) }
          else s.eng e) ∧
          ((bitN m e && !(s.eng e).running) = true → (s.now + (nextEdge 2 (s.time + 4) - s.time), pioRow e (t.pioWord e)) ∈ t.agenda)) ∧
        (∀ e ∈ List.range 16, bitN (t.g F.PIO_RUNNING_MASK) e = (bitN (s.g F.PIO_RUNNING_MASK) e || (bitN m e && !(s.eng e).running))) ∧
        sameRegs [F.PIO_RUNNING] s t ∧
        t = { s with regs := t.regs, moment := t.moment, pio := { s.pio with engines := t.pio.engines }, agenda := t.agenda }) ∧
    (∀ (m : Nat),
      s.unitsAnswer = false ∨ s.pioAllowed = false →
      Completes (.pioStart m) s fun t =>
        t = s) ∧
    (∀ (m : Nat),
      Completes (.pioStop m) s fun t =>
        (∀ e ∈ List.range 16, (bitN m e = true → (t.eng e).running = false) ∧ (bitN m e = false → t.eng e = s.eng e) ∧
          (bitN m e = true → (s.eng e).running = true →
            bitN (t.g F.PIO_RUNNING_MASK) e = false ∧ (t.agenda.any fun x => pioEvent e x.2) = false)) ∧
        t.newel = s.newel ∧ t.cams = s.cams ∧ t.stations = s.stations ∧ t.store = s.store) ∧
    (∀ (m : Nat),
      ((List.range 16).all fun e => !bitN m e || !(s.eng e).running || (s.eng e).nextAt != s.time || (s.eng e).holding) = true →
      Completes (.pioStop m) s fun t =>
        (∀ e ∈ List.range 16, bitN m e = true → (s.eng e).running = true →
          t.eng e = { s.eng e with running := false, starting := false, holding := false, stalled := false } ∧
          t.g (F.PIO_DBG_STOPPED_IN e) = (if (s.eng e).holding then 1 else if (s.eng e).stalled then 2 else 0)) ∧
        sameRegs (F.PIO_RUNNING :: (List.range 16).map F.PIO_DBG) s t ∧
        t = { s with regs := t.regs, pio := { s.pio with engines := t.pio.engines, dirs := t.pio.dirs, moves := t.pio.moves }
                     agenda := t.agenda })

/-- An enable, at Run, Poise or Rest, fixes a filter start on the first CD52 edge; deeper it only sets EN. A due sample (of modulator bits given, or free) is counted in INDEX, shown as settling for three samples, stored as the result from the fourth on where PICK asks for it, checked against the limits, and the next one is fixed; while the filter settles the result stays. A filter start whose tick has come begins again from nothing, after a sample of the same tick. A block that is full, or whose first entry is 1 ms old, is offered whole, or skipped whole and counted if its queue has no room for it or the host is not back; every full block closes. -/
def Obligations.MonitorCommands : Prop :=
  ∀ s : State,
    (∀ (m : Nat),
      m < 8 →
      s.monsRun = true →
      Completes (.monEnable m) s fun t =>
        t.g (F.MON_CTRL_EN m) = 1 ∧ t.mons = (modNth s.mons m fun x => { x with next := some (gridEdge s.newel.changeMon s.monDiv s.time) }) ∧
        t.agenda = s.agenda ++ [(s.now + (gridEdge s.newel.changeMon s.monDiv s.time - s.time), .monSample m none)] ∧
        sameRegs [F.MON_CTRL m] s t ∧ t = { s with regs := t.regs, mons := t.mons, agenda := t.agenda }) ∧
    (∀ (m : Nat),
      m < 8 →
      s.monsRun = false →
      Completes (.monEnable m) s fun t =>
        t.g (F.MON_CTRL_EN m) = 1 ∧ sameRegs [F.MON_CTRL m] s t ∧ t = { s with regs := t.regs }) ∧
    (∀ (m : Nat) (o : Option (List Bool)),
      m < 8 →
      s.sampleDue m = true →
      (s.mon m).next = none →
      Completes (.monSample m o) s fun t =>
        (t.mon m).index = (s.mon m).index + 1 ∧ (t.mon m).run = (s.mon m).run ∧ (t.mon m).owed = none ∧ (∀ d, d ≠ m → t.mon d = s.mon d) ∧
        t.g (F.MON_STATUS_SETTLING m) = (if (s.mon m).index < 3 then 1 else 0) ∧
        t.g (F.MON_STATUS_INDEX m) = min 255 ((s.mon m).index + 1) ∧ (s.now + s.g (F.MON_CFG_DECIM m) * s.monDiv, Instr.monSample m none) ∈ t.agenda ∧
        sameRegs [F.MON_STATUS m, F.MON_RESULT_LO m, F.MON_RESULT_HI m, F.MON_FLAGS, (C.MON_CNT_LIMIT m).off, (C.USH_CNT_NQ_LOST 0).off] s t ∧
        t = { s with regs := t.regs, moment := t.moment, mons := t.mons, stream := t.stream, notices := t.notices, agenda := t.agenda
                     freeCount := t.freeCount }) ∧
    (∀ (m : Nat) (b : List Bool),
      m < 8 →
      s.sampleDue m = true →
      (s.mon m).next = none →
      (s.mon m).index < 3 →
      b.length = s.g (F.MON_CFG_DECIM m) →
      s.on (F.MON_CTRL_STREAM m) = false →
      Completes (.monSample m (some b)) s fun t =>
        t.mon m = { (b.foldl Monitor.bit (s.mon m)).sum.2 with index := (s.mon m).index + 1, owed := none } ∧
        (∀ d, d ≠ m → t.mon d = s.mon d) ∧
        t.g (F.MON_STATUS_SETTLING m) = 1 ∧ t.g (F.MON_STATUS_INDEX m) = (s.mon m).index + 1 ∧
        (s.now + s.g (F.MON_CFG_DECIM m) * s.monDiv, Instr.monSample m none) ∈ t.agenda ∧ sameRegs [F.MON_STATUS m] s t ∧ t = { s with regs := t.regs, mons := t.mons, agenda := t.agenda }) ∧
    (∀ (m : Nat) (b : List Bool) (d : Int),
      m < 8 →
      s.sampleDue m = true →
      (s.mon m).next = none →
      3 ≤ (s.mon m).index →
      s.g (F.MON_CFG_PICK m) = 0 ∨ s.g (F.MON_CFG_PICK m) = (s.mon m).index + 1 →
      b.length = s.g (F.MON_CFG_DECIM m) →
      s.on (F.MON_CTRL_STREAM m) = false →
      d = monValue b.length (b.foldl Monitor.bit (s.mon m)).sum.1 →
      Completes (.monSample m (some b)) s fun t =>
        t.g (F.MON_RESULT_LO_VALUE m) = unsigned 24 d ∧ t.g (F.MON_RESULT_LO_SEQ m) = (s.g (F.MON_RESULT_LO_SEQ m) + 1) % 256 ∧
        t.g (F.MON_RESULT_HI_TIME m) = s.time % 2 ^ 32 ∧ t.g (F.MON_STATUS_SETTLING m) = 0 ∧
        t.mon m = { (b.foldl Monitor.bit (s.mon m)).sum.2 with index := (s.mon m).index + 1, owed := none } ∧
        (∀ d, d ≠ m → t.mon d = s.mon d) ∧ (s.now + s.g (F.MON_CFG_DECIM m) * s.monDiv, Instr.monSample m none) ∈ t.agenda ∧
        sameRegs [F.MON_STATUS m, F.MON_RESULT_LO m, F.MON_RESULT_HI m, F.MON_FLAGS, (C.MON_CNT_LIMIT m).off,
          (C.USH_CNT_NQ_LOST 0).off] s t ∧
        t = { s with regs := t.regs, moment := t.moment, mons := t.mons, notices := t.notices, agenda := t.agenda }) ∧
    (∀ (m r : Nat) (o : Option (List Bool)),
      m < 8 →
      (s.mon m).next = some r →
      r ≤ s.time →
      s.on (F.MON_CTRL_EN m) = true →
      s.monsRun = true →
      s.sampleDue m = false →
      Completes (.monSample m o) s fun t =>
        t.mons = (modNth s.mons m fun _ => { Monitor.idle with run := some s.time }) ∧ t.g (F.MON_STATUS_INDEX m) = 0 ∧ (s.now + s.g (F.MON_CFG_DECIM m) * s.monDiv, Instr.monSample m none) ∈ t.agenda ∧
        sameRegs [F.MON_STATUS m] s t ∧ t = { s with regs := t.regs, mons := t.mons, agenda := t.agenda }) ∧
    (∀ (m r : Nat) (o : Option (List Bool)),
      m < 8 →
      (s.mon m).next = some r →
      r ≤ s.time →
      s.on (F.MON_CTRL_EN m) = true →
      s.monsRun = true →
      s.sampleDue m = true →
      Completes (.monSample m o) s fun t =>
        t.mon m = { Monitor.idle with run := some s.time } ∧ (∀ d, d ≠ m → t.mon d = s.mon d) ∧ t.g (F.MON_STATUS_INDEX m) = 0 ∧ (s.now + s.g (F.MON_CFG_DECIM m) * s.monDiv, Instr.monSample m none) ∈ t.agenda ∧
        t.newel = s.newel ∧ t.store = s.store ∧ t.stations = s.stations) ∧
    (∀ (m : Nat) (o : Option (List Bool)),
      m < 8 →
      s.sampleDue m = false →
      (s.mon m).next.all (fun r => decide (s.time < r)) = true ∨ s.on (F.MON_CTRL_EN m) = false ∨ s.monsRun = false →
      Completes (.monSample m o) s fun t =>
        t = s) ∧
    (∀ (l : List MonEntry),
      s.stream.entries = l →
      l.length < s.g F.MON_STREAM_BLOCK →
      l.head?.any (fun e => decide (e.stamp + 1500000 ≤ s.time)) = true →
      s.hostBack = false ∨ s.avail (s.g F.MON_STREAM_QUEUE) < ceilDiv (blockBytes (s.g F.MON_STREAM_SEQ_COUNT) s.stream.skipped l).length 64 →
      Completes .monBlockClose s fun t =>
        t.stream = { s.stream with entries := [], skipped := s.stream.skipped + 1 } ∧
        t.ctr C.MON_CNT_SKIP = C.MON_CNT_SKIP.plus (s.ctr C.MON_CNT_SKIP) 1 ∧
        t.g F.MON_STREAM_SEQ_COUNT = (s.g F.MON_STREAM_SEQ_COUNT + 1) % 65536 ∧ t.g F.MON_FLAGS_SKIP = 1 ∧
        sameRegs [C.MON_CNT_SKIP.off, F.MON_STREAM_SEQ, F.MON_FLAGS, (C.USH_CNT_NQ_LOST 1).off] s t ∧
        t = { s with regs := t.regs, moment := t.moment, stream := t.stream, notices := t.notices, agenda := t.agenda }) ∧
    (∀ (l : List MonEntry),
      s.stream.entries = l →
      l.length < s.g F.MON_STREAM_BLOCK →
      l.head?.any (fun e => decide (e.stamp + 1500000 ≤ s.time)) = true →
      s.hostBack = true →
      ceilDiv (blockBytes (s.g F.MON_STREAM_SEQ_COUNT) s.stream.skipped l).length 64 ≤ s.avail (s.g F.MON_STREAM_QUEUE) →
      Completes .monBlockClose s fun t =>
        t.stream = { s.stream with entries := [], skipped := 0 } ∧
        t.ctr C.MON_CNT_SKIP = s.ctr C.MON_CNT_SKIP ∧
        t.g F.MON_STREAM_SEQ_COUNT = (s.g F.MON_STREAM_SEQ_COUNT + 1) % 65536 ∧ t.newel = s.newel ∧ t.mons = s.mons ∧
        t.store = s.store) ∧
    (∀ (n : Nat),
      s.g F.MON_STREAM_BLOCK = n →
      0 < n →
      n ≤ s.stream.entries.length →
      Completes .monBlockClose s fun t =>
        t.stream.entries = s.stream.entries.drop (s.stream.entries.length / n * n) ∧
        t.g F.MON_STREAM_SEQ_COUNT = (s.g F.MON_STREAM_SEQ_COUNT + s.stream.entries.length / n) % 65536 ∧
        t.newel = s.newel ∧ t.mons = s.mons ∧ t.store = s.store) ∧
    (  s.stream.entries.length < s.g F.MON_STREAM_BLOCK →
      s.stream.entries.head?.all (fun e => decide (s.time < e.stamp + 1500000)) = true →
      Completes .monBlockClose s fun t =>
        t = s)

/-- A packet on a write port of a shared queue, due and not waiting, opens with its first cell (as it is filled in when its writing begins) and writes on cell by cell while the queue can take one: the bytes accepted so far are the packet's first ones, and the close or the next cell follows when they are written. A single-bit error met in a queue with check bits is counted. Where the queue can take no cell the write waits, and where no write waited that counts a cycle of back-pressure. A pointer that fails its check resets the queue, a free list that fails it stops all taking until it is rebuilt. The close gives a reader the whole packet four ticks later, in its place among those closed, and counts it; the port's next packet follows. An abandoned packet leaves nothing open (a trailer of a voided part is not abandoned). On a CD9 edge a lone waiting write is completed if its queue can take a cell; while it can take none the cycle is counted and the write tried two ticks later. Other queues, other ports and the fire region stay as they are; without such a packet nothing changes. -/
def Obligations.PacketWriting : Prop :=
  ∀ s : State,
    (∀ (n : Nat) (o : OutPacket) (p : OutPacket) (c : HallCheck),
      n < 17 →
      8 ≤ o.queue →
      o.queue < 64 →
      (s.port n).cur = some o →
      (s.port n).opened = false →
      (s.port n).waiting = false →
      (s.port n).nextAt ≤ s.now →
      c ≠ .pointer →
      c ≠ .freeList →
      s.canTake o.queue = true →
      p = (s.filledIn n o).2 →
      p.queue = o.queue →
      Completes (.packetOpen n c) s fun t =>
        t.hall.queues = (modNth s.hall.queues o.queue fun x => { x with opens := (x.opens ++ [(⟨n, [], false⟩ : OpenPacket)]).map fun (y : OpenPacket) =>
          if y.port = n then { y with bytes := p.bytes.take (min p.bytes.length ((s.port n).taken + 64)) } else y }) ∧
        t.hall.ports = (modNth s.hall.ports n fun x => { x with cur := some p, opened := true, waiting := false,
                                                                taken := (min p.bytes.length ((s.port n).taken + 64)), nextAt := s.now + s.writeTicks o.queue (min 64 (p.bytes.length - (s.port n).taken)) }) ∧
        (s.now + s.writeTicks o.queue (min 64 (p.bytes.length - (s.port n).taken)),
          if (min p.bytes.length ((s.port n).taken + 64)) = p.bytes.length then Instr.packetClose n else Instr.packetWrite n .ok) ∈ t.agenda ∧
        t.ctr (C.HAL_CNT_CORR o.queue) = (C.HAL_CNT_CORR o.queue).plus (s.ctr (C.HAL_CNT_CORR o.queue))
          (if c = .single ∧ s.g (F.HAL_Q_CTRL_PROT o.queue) = 1 then 1 else 0) ∧
        sameRegs ([(C.HAL_CNT_WM o.queue).off, F.HAL_WM_RISE_LO, F.HAL_WM_RISE_HI, F.HAL_WM_FALL_LO, F.HAL_WM_FALL_HI, (C.USH_CNT_NQ_LOST 1).off, (C.HAL_CNT_CORR o.queue).off]) s t ∧
        t = { s with regs := t.regs, moment := t.moment, notices := t.notices, agenda := t.agenda, pipes := (s.filledIn n o).1.pipes
                     hall := { s.hall with queues := t.hall.queues, above := t.hall.above, ports := t.hall.ports } }) ∧
    (∀ (n : Nat) (o : OutPacket) (c : HallCheck),
      n < 17 →
      8 ≤ o.queue →
      o.queue < 64 →
      (s.port n).cur = some o →
      (s.port n).opened = false →
      (s.port n).waiting = false →
      (s.port n).nextAt ≤ s.now →
      c ≠ .pointer →
      c ≠ .freeList →
      s.canTake o.queue = false →
      Completes (.packetOpen n c) s fun t =>
        (t.port n).waiting = true ∧ (t.port n).opened = false ∧ (t.port n).taken = (s.port n).taken ∧ (∀ k, k ≠ n → t.port k = s.port k) ∧
        t.hall.queues = s.hall.queues ∧ t.agenda.any (fun e => e.2 == .writeUnblock o.queue) = true ∧
        sameRegs [(C.HAL_CNT_BP o.queue).off, (C.HAL_CNT_CORR o.queue).off] s t ∧
        t = { s with regs := t.regs, moment := t.moment, agenda := t.agenda, pipes := (s.filledIn n o).1.pipes
                     hall := { s.hall with ports := t.hall.ports } }) ∧
    (∀ (n : Nat) (o : OutPacket) (c : HallCheck),
      n < 17 →
      8 ≤ o.queue →
      o.queue < 64 →
      (s.port n).cur = some o →
      (s.port n).opened = true →
      (s.port n).waiting = false →
      (s.port n).nextAt ≤ s.now →
      c ≠ .pointer →
      c ≠ .freeList →
      s.canTake o.queue = true →
      Completes (.packetWrite n c) s fun t =>
        t.hall.queues = (modNth s.hall.queues o.queue fun x => { x with opens := (x.opens).map fun (y : OpenPacket) =>
          if y.port = n then { y with bytes := o.bytes.take (min o.bytes.length ((s.port n).taken + 64)) } else y }) ∧
        t.hall.ports = (modNth s.hall.ports n fun x => { x with opened := true, waiting := false,
                                                                taken := (min o.bytes.length ((s.port n).taken + 64)), nextAt := s.now + s.writeTicks o.queue (min 64 (o.bytes.length - (s.port n).taken)) }) ∧
        (s.now + s.writeTicks o.queue (min 64 (o.bytes.length - (s.port n).taken)),
          if (min o.bytes.length ((s.port n).taken + 64)) = o.bytes.length then Instr.packetClose n else Instr.packetWrite n .ok) ∈ t.agenda ∧
        t.ctr (C.HAL_CNT_CORR o.queue) = (C.HAL_CNT_CORR o.queue).plus (s.ctr (C.HAL_CNT_CORR o.queue))
          (if c = .single ∧ s.g (F.HAL_Q_CTRL_PROT o.queue) = 1 then 1 else 0) ∧
        sameRegs ([(C.HAL_CNT_WM o.queue).off, F.HAL_WM_RISE_LO, F.HAL_WM_RISE_HI, F.HAL_WM_FALL_LO, F.HAL_WM_FALL_HI, (C.USH_CNT_NQ_LOST 1).off, (C.HAL_CNT_CORR o.queue).off]) s t ∧
        t = { s with regs := t.regs, moment := t.moment, notices := t.notices, agenda := t.agenda
                     hall := { s.hall with queues := t.hall.queues, above := t.hall.above, ports := t.hall.ports } }) ∧
    (∀ (n : Nat) (o : OutPacket) (c : HallCheck),
      n < 17 →
      8 ≤ o.queue →
      o.queue < 64 →
      (s.port n).cur = some o →
      (s.port n).opened = true →
      (s.port n).waiting = false →
      (s.port n).nextAt ≤ s.now →
      c ≠ .pointer →
      c ≠ .freeList →
      s.canTake o.queue = false →
      Completes (.packetWrite n c) s fun t =>
        t.hall.ports = (modNth s.hall.ports n fun x => { x with waiting := true }) ∧
        t.agenda.any (fun e => e.2 == .writeUnblock o.queue) = true ∧
        ((List.range 17).all (fun k => !(s.port k).waiting) = true →
          t.ctr (C.HAL_CNT_BP o.queue) = (C.HAL_CNT_BP o.queue).plus (s.ctr (C.HAL_CNT_BP o.queue)) 1) ∧
        sameRegs [(C.HAL_CNT_BP o.queue).off, (C.HAL_CNT_CORR o.queue).off] s t ∧
        t = { s with regs := t.regs, moment := t.moment, agenda := t.agenda, hall := { s.hall with ports := t.hall.ports } }) ∧
    (∀ (n : Nat) (o : OutPacket) (u : Bool) (c : Instr),
      n < 17 →
      8 ≤ o.queue →
      o.queue < 64 →
      (s.port n).cur = some o →
      (u, c) ∈ [(false, Instr.packetOpen n .pointer), (true, .packetWrite n .pointer)] →
      (s.port n).opened = u →
      Completes c s fun t =>
        (t.queue o.queue).closed = [] ∧
        t.ctr (C.HAL_CNT_QRESET o.queue) = (C.HAL_CNT_QRESET o.queue).plus (s.ctr (C.HAL_CNT_QRESET o.queue)) 1 ∧
        t.newel = s.newel ∧ t.cams = s.cams ∧ t.stations = s.stations ∧ t.store = s.store) ∧
    (∀ (n : Nat) (o : OutPacket) (u : Bool) (c : Instr),
      n < 17 →
      8 ≤ o.queue →
      o.queue < 64 →
      (s.port n).cur = some o →
      (u, c) ∈ [(false, Instr.packetOpen n .freeList), (true, .packetWrite n .freeList)] →
      (s.port n).opened = u →
      (s.port n).waiting = false →
      (s.port n).nextAt ≤ s.now →
      Completes c s fun t =>
        t.hall.rebuilding = true ∧ (t.port n).waiting = true ∧ t.hall.queues = s.hall.queues ∧ t.newel = s.newel ∧ t.cams = s.cams ∧
        t.stations = s.stations ∧ t.store = s.store ∧
        (s.hall.rebuilding = false → (s.now + 33000, Instr.freelistRebuilt false) ∈ t.agenda)) ∧
    (∀ (n : Nat) (c : HallCheck),
      n < 17 →
      (s.port n).cur = none →
      Completes (.packetOpen n c) s fun t =>
        t = s) ∧
    (∀ (n : Nat),
      n < 17 →
      (s.port n).cur = none ∨ (s.port n).opened = false ∨ (s.port n).waiting = true ∨ s.now < (s.port n).nextAt →
      Completes (.packetWrite n .ok) s fun t =>
        t = s) ∧
    (∀ (n : Nat) (o : OutPacket) (x : OpenPacket),
      n < 17 →
      8 ≤ o.queue →
      o.queue < 64 →
      (s.port n).cur = some o →
      o.bytes.length ≤ (s.port n).taken →
      (s.port n).waiting = false →
      (s.queue o.queue).opens.find? (fun y => y.port == n) = some x →
      x.bytes ≠ [] →
      Completes (.packetClose n) s fun t =>
        t.hall.queues = (modNth s.hall.queues o.queue fun y => { y with
          opens := y.opens.filter fun z => z.port != n, closed := insertPacket ⟨x.bytes, false, x.bad, s.now + 4, n⟩ y.closed }) ∧
        (t.port n).cur = (s.port n).behind.head? ∧ (t.port n).taken = 0 ∧ (t.port n).opened = false ∧
        (s.now + 4, Instr.packetVisible o.queue) ∈ t.agenda ∧ (∀ k, k ≠ n → t.port k = s.port k) ∧
        t.ctr (C.HAL_CNT_PKTS o.queue) = (C.HAL_CNT_PKTS o.queue).plus (s.ctr (C.HAL_CNT_PKTS o.queue)) 1 ∧
        sameRegs ([(C.HAL_CNT_WM o.queue).off, F.HAL_WM_RISE_LO, F.HAL_WM_RISE_HI, F.HAL_WM_FALL_LO, F.HAL_WM_FALL_HI, (C.USH_CNT_NQ_LOST 1).off, (C.HAL_CNT_PKTS o.queue).off]) s t ∧
        t = { s with regs := t.regs, moment := t.moment, notices := t.notices, agenda := t.agenda, pipes := t.pipes
                     hall := { s.hall with queues := t.hall.queues, above := t.hall.above, ports := t.hall.ports } }) ∧
    (∀ (n : Nat),
      n < 17 →
      (s.port n).cur.all (fun o => decide ((s.port n).taken < o.bytes.length) || (s.port n).waiting) = true →
      Completes (.packetClose n) s fun t =>
        t = s) ∧
    (∀ (n : Nat) (o : OutPacket),
      n < 17 →
      8 ≤ o.queue →
      o.queue < 64 →
      (s.port n).cur = some o →
      n = 16 ∨ o.kind < 4 →
      Completes (.packetAbandon n) s fun t =>
        t.hall.queues = (modNth s.hall.queues o.queue fun x => { x with opens := x.opens.filter fun x => x.port != n }) ∧
        (t.port n).taken = 0 ∧ (t.port n).opened = false ∧ (t.port n).waiting = false ∧ (∀ k, k ≠ n → t.port k = s.port k) ∧
        (n = 16 → (t.port n).cur = (s.port n).behind.head? ∧ sameRegs ([(C.HAL_CNT_WM o.queue).off, F.HAL_WM_RISE_LO, F.HAL_WM_RISE_HI, F.HAL_WM_FALL_LO, F.HAL_WM_FALL_HI, (C.USH_CNT_NQ_LOST 1).off]) s t) ∧
        t = { s with regs := t.regs, moment := t.moment, notices := t.notices, agenda := t.agenda, pipes := t.pipes
                     hall := { s.hall with queues := t.hall.queues, above := t.hall.above, ports := t.hall.ports } }) ∧
    (∀ (n : Nat),
      n < 16 →
      (s.port n).cur.all (fun o => decide (4 ≤ o.kind)) = true →
      Completes (.packetAbandon n) s fun t =>
        t = s) ∧
    (∀ (n : Nat) (o : OutPacket),
      n < 17 →
      8 ≤ o.queue →
      o.queue < 64 →
      (s.port n).cur = some o →
      s.time % 2 = 0 →
      (s.port n).waiting = true →
      (s.port n).opened = false →
      (∀ k ∈ List.range 17, k ≠ n → (s.port k).waiting = false) →
      s.canTake o.queue = true →
      Completes (.writeUnblock o.queue) s fun t =>
        t.hall.queues = (modNth s.hall.queues o.queue fun x => { x with opens := (x.opens ++ [(⟨n, [], false⟩ : OpenPacket)]).map fun (y : OpenPacket) =>
          if y.port = n then { y with bytes := o.bytes.take (min o.bytes.length ((s.port n).taken + 64)) } else y }) ∧
        t.hall.ports = (modNth s.hall.ports n fun x => { x with opened := true, waiting := false,
                                                                taken := (min o.bytes.length ((s.port n).taken + 64)), nextAt := s.now + s.writeTicks o.queue (min 64 (o.bytes.length - (s.port n).taken)) }) ∧
        (s.now + s.writeTicks o.queue (min 64 (o.bytes.length - (s.port n).taken)),
          if (min o.bytes.length ((s.port n).taken + 64)) = o.bytes.length then Instr.packetClose n else Instr.packetWrite n .ok) ∈ t.agenda ∧
        sameRegs ([(C.HAL_CNT_WM o.queue).off, F.HAL_WM_RISE_LO, F.HAL_WM_RISE_HI, F.HAL_WM_FALL_LO, F.HAL_WM_FALL_HI, (C.USH_CNT_NQ_LOST 1).off]) s t ∧
        t = { s with regs := t.regs, moment := t.moment, notices := t.notices, agenda := t.agenda
                     hall := { s.hall with queues := t.hall.queues, above := t.hall.above, ports := t.hall.ports } }) ∧
    (∀ (n : Nat) (o : OutPacket),
      n < 17 →
      8 ≤ o.queue →
      o.queue < 64 →
      (s.port n).cur = some o →
      s.time % 2 = 0 →
      (s.port n).waiting = true →
      (s.port n).opened = true →
      (∀ k ∈ List.range 17, k ≠ n → (s.port k).waiting = false) →
      s.canTake o.queue = true →
      Completes (.writeUnblock o.queue) s fun t =>
        t.hall.queues = (modNth s.hall.queues o.queue fun x => { x with opens := (x.opens).map fun (y : OpenPacket) =>
          if y.port = n then { y with bytes := o.bytes.take (min o.bytes.length ((s.port n).taken + 64)) } else y }) ∧
        t.hall.ports = (modNth s.hall.ports n fun x => { x with opened := true, waiting := false,
                                                                taken := (min o.bytes.length ((s.port n).taken + 64)), nextAt := s.now + s.writeTicks o.queue (min 64 (o.bytes.length - (s.port n).taken)) }) ∧
        (s.now + s.writeTicks o.queue (min 64 (o.bytes.length - (s.port n).taken)),
          if (min o.bytes.length ((s.port n).taken + 64)) = o.bytes.length then Instr.packetClose n else Instr.packetWrite n .ok) ∈ t.agenda ∧
        sameRegs ([(C.HAL_CNT_WM o.queue).off, F.HAL_WM_RISE_LO, F.HAL_WM_RISE_HI, F.HAL_WM_FALL_LO, F.HAL_WM_FALL_HI, (C.USH_CNT_NQ_LOST 1).off]) s t ∧
        t = { s with regs := t.regs, moment := t.moment, notices := t.notices, agenda := t.agenda
                     hall := { s.hall with queues := t.hall.queues, above := t.hall.above, ports := t.hall.ports } }) ∧
    (∀ (q : Nat),
      8 ≤ q →
      q < 64 →
      s.time % 2 = 0 →
      ((List.range 17).any fun k => ((s.port k).waiting && (s.port k).cur.any fun o => o.queue == q)) = true →
      s.canTake q = false →
      Completes (.writeUnblock q) s fun t =>
        t.hall = s.hall ∧ (s.now + 2, Instr.writeUnblock q) ∈ t.agenda ∧
        t.ctr (C.HAL_CNT_BP q) = (C.HAL_CNT_BP q).plus (s.ctr (C.HAL_CNT_BP q)) 1 ∧ sameRegs [(C.HAL_CNT_BP q).off] s t ∧
        t = { s with regs := t.regs, moment := t.moment, agenda := t.agenda }) ∧
    (∀ (q : Nat),
      s.time % 2 = 1 ∨ ((List.range 17).any fun k => ((s.port k).waiting && (s.port k).cur.any fun o => o.queue == q)) = false →
      Completes (.writeUnblock q) s fun t =>
        t = s)

/-- At the end of the read of the packet at the head of its queue, with requests allowed, the drain gives the host one entry of it, behind those before, and the packet leaves the queue: in a queue with check bits a single-bit error is counted and a double-bit error, met now or found before, is delivered as free data marked in error, counted when it is met; a packet kept from a reset queue is delivered marked in error. A drain with nothing more to end it then waits for the next packet. A packet that becomes visible to a drain that stalls begins its read, whose last word falls on a CD9 edge. A free-list rebuild that ends is counted and lets its region take cells again. A queue without readers, and a region not rebuilding, stay as they are. -/
def Obligations.PacketReading : Prop :=
  ∀ s : State,
    (∀ (q u : Nat) (k : Task) (p : Packet) (l : List Packet),
      8 ≤ q →
      q < 64 →
      u < 4 →
      (s.queue q).readers.head? = some u →
      (s.slot u).running = some k →
      k.op = 0x12 →
      (s.slot u).job.phase = 2 →
      (s.slot u).job.due ≤ s.now →
      s.mayRequest = true →
      (s.queue q).closed = p :: l →
      (s.queue q).lost = none →
      Completes (.packetRead q .ok) s fun t =>
        (t.queue q).closed = l ∧ (t.queue q).lost = none ∧ (∀ j, j ≠ q → t.queue j = s.queue j) ∧
        t.pcie.hostMem = s.pcie.hostMem.write (k.q 6 + (s.slot u).job.bytes)
          (drainEntry q (if p.bad && s.g (F.HAL_Q_CTRL_PROT q) == 1 then (s.spoiled p.bytes).1 else p.bytes)
            (p.error || (p.bad && s.g (F.HAL_Q_CTRL_PROT q) == 1))) ∧
        t.store = s.store ∧ t.newel = s.newel ∧ t.cams = s.cams ∧ t.stations = s.stations) ∧
    (∀ (q u : Nat) (k : Task) (p : Packet),
      8 ≤ q →
      q < 64 →
      u < 4 →
      (s.slot u).running = some k →
      k.op = 0x12 →
      (s.slot u).job.phase = 2 →
      (s.slot u).job.due ≤ s.now →
      s.mayRequest = true →
      (s.queue q).readers = [u] →
      (s.slot u).job.aborted = false →
      (s.queue q).closed = [p] →
      (s.queue q).lost = none →
      k.w 10 = 0 →
      k.w 4 = q →
      bitN (k.w 11) 0 = false →
      p.bad = false →
      Completes (.packetRead q .ok) s fun t =>
        t.hall.queues = (modNth s.hall.queues q fun x => { x with closed := [] }) ∧
        t.pcie.hostMem = s.pcie.hostMem.write (k.q 6 + (s.slot u).job.bytes) (drainEntry q p.bytes p.error) ∧
        (t.slot u).job = { (s.slot u).job with phase := 1, count := (s.slot u).job.count + 1,
                                               bytes := (s.slot u).job.bytes + entrySize p.bytes.length,
                                               errs := (s.slot u).job.errs + (if p.error then 1 else 0) } ∧
        (t.slot u).running = some k ∧ (∀ v, v ≠ u → t.slot v = s.slot v) ∧
        t.g (F.ENG_PROGRESS_DONE u) = ((s.slot u).job.bytes + entrySize p.bytes.length) % 2 ^ 32 ∧
        t = { s with regs := t.regs, moment := t.moment, notices := t.notices, agenda := t.agenda, hall := t.hall
                     usher := { s.usher with slots := t.usher.slots }, pcie := t.pcie }) ∧
    (∀ (q u : Nat) (k : Task) (p : Packet) (l : List Packet) (c : HallCheck),
      8 ≤ q →
      q < 64 →
      u < 4 →
      (s.queue q).readers.head? = some u →
      (s.slot u).running = some k →
      k.op = 0x12 →
      (s.slot u).job.phase = 2 →
      (s.slot u).job.due ≤ s.now →
      s.mayRequest = true →
      (s.queue q).closed = p :: l →
      (s.queue q).lost = none →
      p.bad = false →
      s.g (F.HAL_Q_CTRL_PROT q) = 1 →
      c = .single ∨ c = .double →
      Completes (.packetRead q c) s fun t =>
        (t.queue q).closed = l ∧ (∀ j, j ≠ q → t.queue j = s.queue j) ∧
        t.ctr (C.HAL_CNT_CORR q) = (C.HAL_CNT_CORR q).plus (s.ctr (C.HAL_CNT_CORR q)) (if c = .single then 1 else 0) ∧
        t.ctr (C.HAL_CNT_UNCORR q) = (C.HAL_CNT_UNCORR q).plus (s.ctr (C.HAL_CNT_UNCORR q)) (if c = .double then 1 else 0) ∧
        t.pcie.hostMem = s.pcie.hostMem.write (k.q 6 + (s.slot u).job.bytes)
          (drainEntry q (if c = .double then (s.spoiled p.bytes).1 else p.bytes) (p.error || c == .double))) ∧
    (∀ (q u : Nat) (k : Task) (p : Packet) (c : HallCheck),
      8 ≤ q →
      q < 64 →
      u < 4 →
      (s.queue q).readers.head? = some u →
      (s.slot u).running = some k →
      k.op = 0x12 →
      (s.slot u).job.phase = 2 →
      (s.slot u).job.due ≤ s.now →
      s.mayRequest = true →
      (s.queue q).lost = some p →
      Completes (.packetRead q c) s fun t =>
        (t.queue q).lost = none ∧ (t.queue q).closed = (s.queue q).closed ∧ (∀ j, j ≠ q → t.queue j = s.queue j) ∧
        t.pcie.hostMem = s.pcie.hostMem.write (k.q 6 + (s.slot u).job.bytes) (drainEntry q p.bytes true)) ∧
    (∀ (q : Nat) (c : HallCheck),
      (s.queue q).readers = [] ∨ q < 8 ∨ 64 ≤ q →
      Completes (.packetRead q c) s fun t =>
        t = s) ∧
    (∀ (q u : Nat) (k : Task) (p : Packet) (l : List Packet),
      8 ≤ q →
      q < 64 →
      u < 4 →
      (s.queue q).readers.head? = some u →
      (s.slot u).running = some k →
      k.op = 0x12 →
      k.w 4 = q →
      k.w 10 = 0 →
      (s.slot u).job.phase = 1 →
      (s.slot u).job.aborted = false →
      (s.slot u).job.began ≤ s.time →
      s.mayRequest = true →
      (s.queue q).closed = p :: l →
      p.visibleAt ≤ s.now →
      (s.slot u).job.bytes + entrySize p.bytes.length ≤ k.w 9 →
      Completes (.packetVisible q) s fun t =>
        (t.slot u).job = { (s.slot u).job with phase := 2, due := s.now + (nextEdge 2 (s.time + moveTicks (entrySize p.bytes.length) (s.porterRate u)) - s.time) } ∧
        (∀ v, v ≠ u → t.slot v = s.slot v) ∧ t.agenda = s.agenda ++ [((t.slot u).job.due, .packetRead q .ok)] ∧
        t = { s with usher := { s.usher with slots := t.usher.slots }, agenda := t.agenda }) ∧
    (∀ (q : Nat),
      (s.queue q).readers = [] ∨ q < 8 ∨ 64 ≤ q →
      Completes (.packetVisible q) s fun t =>
        t = s) ∧
    (∀ (f : Bool),
      ((if f then s.hall.fireRebuilding else s.hall.rebuilding) = true) →
      Completes (.freelistRebuilt f) s fun t =>
        t.hall = (if f then { s.hall with fireRebuilding := false } else { s.hall with rebuilding := false }) ∧
        t.ctr C.HAL_CNT_FREELIST = C.HAL_CNT_FREELIST.plus (s.ctr C.HAL_CNT_FREELIST) 1 ∧
        sameRegs [C.HAL_CNT_FREELIST.off, (C.USH_CNT_NQ_LOST 0).off] s t ∧
        t = { s with regs := t.regs, moment := t.moment, hall := t.hall, notices := t.notices, agenda := t.agenda }) ∧
    (∀ (f : Bool),
      ((if f then s.hall.fireRebuilding else s.hall.rebuilding) = false) →
      Completes (.freelistRebuilt f) s fun t =>
        t = s)

/-- EN of a shared queue is written, always to 1 and to 0 while the queue holds no cell and no open packet; else the write is refused with reason 5. Both fields of HAL_Q_SIZE are taken together on a stopped queue where R456 allows them; a change on an enabled queue is refused with reason 5, one that breaks a limit with reason 6, and a write of what they hold changes nothing. A write of a flow map, once boot is complete, sets its three fields and releases the FLOW pins. Fire queues, and queues and pins that do not exist, have none of these. -/
def Obligations.QueueControl : Prop :=
  ∀ s : State,
    (∀ (q : Nat) (en : Bool),
      8 ≤ q →
      q < 64 →
      s.queueEnableOk q en = true →
      Completes (.queueEnable q en) s fun t =>
        t.g (F.HAL_Q_CTRL_EN q) = (if en then 1 else 0) ∧ t.g (F.HAL_Q_CTRL_PROT q) = s.g (F.HAL_Q_CTRL_PROT q) ∧
        t.g (F.HAL_Q_CTRL_WMODE q) = s.g (F.HAL_Q_CTRL_WMODE q) ∧ sameRegs [F.HAL_Q_CTRL q] s t ∧ t = { s with regs := t.regs }) ∧
    (∀ (q : Nat),
      8 ≤ q →
      q < 64 →
      s.level q ≠ 0 ∨ (s.queue q).opens ≠ [] →
      Completes (.queueEnable q false) s fun t =>
        t.g (F.HAL_Q_CTRL_EN q) = s.g (F.HAL_Q_CTRL_EN q) ∧ t.g F.STP_LAST_REFUSED_REASON = 5 ∧
        t.g F.STP_LAST_REFUSED_OFFSET = F.HAL_Q_CTRL q ∧
        t.ctr C.STP_CNT_REFUSED = C.STP_CNT_REFUSED.plus (s.ctr C.STP_CNT_REFUSED) 1 ∧
        sameRegs [F.STP_LAST_REFUSED, C.STP_CNT_REFUSED.off] s t ∧ t = { s with regs := t.regs, moment := t.moment }) ∧
    (∀ (q : Nat) (en : Bool),
      q < 8 ∨ 64 ≤ q →
      Completes (.queueEnable q en) s fun t =>
        t = s) ∧
    (∀ (q : Nat) (d : Nat),
      8 ≤ q →
      q < 64 →
      s.g (F.HAL_Q_CTRL_EN q) = 0 →
      s.queueSizeOk q (d % 2 ^ 14) (d / 2 ^ 16 % 2 ^ 14) = true →
      Completes (.queueSize q d) s fun t =>
        t.resv q = d % 2 ^ 14 ∧ t.ceil q = d / 2 ^ 16 % 2 ^ 14 ∧ sameRegs [F.HAL_Q_SIZE q] s t ∧ t = { s with regs := t.regs }) ∧
    (∀ (q : Nat) (d : Nat),
      8 ≤ q →
      q < 64 →
      s.g (F.HAL_Q_CTRL_EN q) = 0 →
      s.queueSizeOk q (d % 2 ^ 14) (d / 2 ^ 16 % 2 ^ 14) = false →
      d % 2 ^ 14 ≠ s.resv q ∨ d / 2 ^ 16 % 2 ^ 14 ≠ s.ceil q →
      Completes (.queueSize q d) s fun t =>
        t.resv q = s.resv q ∧ t.ceil q = s.ceil q ∧ t.g F.STP_LAST_REFUSED_REASON = 6 ∧
        t.g F.STP_LAST_REFUSED_OFFSET = F.HAL_Q_SIZE q ∧
        t.ctr C.STP_CNT_REFUSED = C.STP_CNT_REFUSED.plus (s.ctr C.STP_CNT_REFUSED) 1 ∧
        sameRegs [F.STP_LAST_REFUSED, C.STP_CNT_REFUSED.off] s t ∧ t = { s with regs := t.regs, moment := t.moment }) ∧
    (∀ (q : Nat) (d : Nat),
      8 ≤ q →
      q < 64 →
      s.on (F.HAL_Q_CTRL_EN q) = true →
      d % 2 ^ 14 ≠ s.resv q ∨ d / 2 ^ 16 % 2 ^ 14 ≠ s.ceil q →
      Completes (.queueSize q d) s fun t =>
        t.resv q = s.resv q ∧ t.ceil q = s.ceil q ∧ t.g F.STP_LAST_REFUSED_REASON = 5 ∧
        t.g F.STP_LAST_REFUSED_OFFSET = F.HAL_Q_SIZE q ∧
        t.ctr C.STP_CNT_REFUSED = C.STP_CNT_REFUSED.plus (s.ctr C.STP_CNT_REFUSED) 1 ∧
        sameRegs [F.STP_LAST_REFUSED, C.STP_CNT_REFUSED.off] s t ∧ t = { s with regs := t.regs, moment := t.moment }) ∧
    (∀ (q : Nat) (d : Nat),
      q < 8 ∨ 64 ≤ q ∨ (d % 2 ^ 14 = s.resv q ∧ d / 2 ^ 16 % 2 ^ 14 = s.ceil q) →
      Completes (.queueSize q d) s fun t =>
        t = s) ∧
    (∀ (n : Nat) (d : Nat),
      n < 8 →
      s.unitsAnswer = true →
      Completes (.flowMap n d) s fun t =>
        t.g (F.HAL_FLOW_MAP_QUEUE n) = d % 64 ∧ t.g (F.HAL_FLOW_MAP_EN n) = d / 2 ^ 8 % 2 ∧
        t.g (F.HAL_FLOW_MAP_INV n) = d / 2 ^ 9 % 2 ∧ t.hall = { s.hall with flowReleased := true } ∧
        sameRegs [F.HAL_FLOW_MAP n] s t ∧ t = { s with regs := t.regs, hall := t.hall }) ∧
    (∀ (n : Nat) (d : Nat),
      8 ≤ n ∨ s.unitsAnswer = false →
      Completes (.flowMap n d) s fun t =>
        t = s)

/-- A doorbell that neither passes the ring's size nor moves back sets the tail and has records fetched; another is counted and flagged. A fetch, with requests allowed and the Usher running, asks for up to eight records behind those held, within the host's read size, the ring and a 4 KiB page; its return adds them for the taking 96 ticks later, and a failed one halts the ring. The head of a completion or notice ring is set where it neither passes the tail nor moves back, and is refused with reason 6 else. RING_DISABLE of an enabled ring drops its fetched records and abandons, with status 0x8004, its on-deck tasks and its wait; RESUME ends a halt. Where there is nothing to do, and for rings that do not exist, nothing changes. -/
def Obligations.SubmissionRings : Prop :=
  ∀ s : State,
    (∀ (i d : Nat),
      i < 16 →
      ringSub d (s.sqHead i) ≤ s.sqSize i →
      ringSub (s.ring i).tail (s.sqHead i) ≤ ringSub d (s.sqHead i) →
      Completes (.doorbell i d) s fun t =>
        t.usher.rings = (modNth s.usher.rings i fun r => { r with tail := d % 131072 }) ∧
        (s.on (F.USH_SQ_CTRL_EN i) = true → (t.ring i).asked = 0 → (t.ring i).buf.length < ringSub (t.ring i).tail (s.sqHead i) →
          t.agenda.any (fun e => e.2 == .recordFetch i) = true) ∧
        t = { s with usher := { s.usher with rings := t.usher.rings }, agenda := t.agenda }) ∧
    (∀ (i d : Nat),
      i < 16 →
      s.sqSize i < ringSub d (s.sqHead i) ∨ ringSub d (s.sqHead i) < ringSub (s.ring i).tail (s.sqHead i) →
      Completes (.doorbell i d) s fun t =>
        t.ctr C.USH_CNT_BAD_DOORBELL = C.USH_CNT_BAD_DOORBELL.plus (s.ctr C.USH_CNT_BAD_DOORBELL) 1 ∧
        bitN (t.g F.USH_FLAGS_BAD_DOORBELL) i = true ∧
        sameRegs [F.USH_FLAGS, C.USH_CNT_BAD_DOORBELL.off, (C.USH_CNT_NQ_LOST 1).off] s t ∧
        t = { s with regs := t.regs, moment := t.moment, notices := t.notices, agenda := t.agenda }) ∧
    (∀ (i : Nat) (c : Instr),
      16 ≤ i →
      c = .recordFetch i ∨ c = .ringDisable i ∨ c = .resume i ∨ c = .fetchReturn i none →
      Completes c s fun t =>
        t = s) ∧
    (∀ (i d : Nat),
      16 ≤ i →
      Completes (.doorbell i d) s fun t =>
        t = s) ∧
    (∀ (i a n : Nat),
      i < 16 →
      s.mayRequest = true →
      s.usherRuns = true →
      s.on (F.USH_SQ_CTRL_EN i) = true →
      (s.ring i).asked = 0 →
      a = s.ringBase (F.USH_SQ_BASE_LO_ADDR i) (F.USH_SQ_BASE_HI_ADDR i) + 64 * ((s.sqHead i + (s.ring i).buf.length) % s.sqSize i) →
      n = min (min (min 8 (s.maxRead / 64)) (ringSub (s.ring i).tail (s.sqHead i) - (s.ring i).buf.length))
        (min (s.sqSize i - ((s.sqHead i + (s.ring i).buf.length) % s.sqSize i)) ((4096 - a % 4096) / 64)) →
      0 < n →
      Completes (.recordFetch i) s fun t =>
        t.usher.rings = (modNth s.usher.rings i fun r => { r with asked := n }) ∧
        t.pcie.sent = s.pcie.sent ++ (requestsOf s.maxRead a (64 * n)).map (fun x => .request x.1 x.2) ∧
        sameRegs [F.PCI_LINK] s t ∧
        t = { s with regs := t.regs, agenda := t.agenda, usher := { s.usher with rings := t.usher.rings }
                     pcie := { s.pcie with sent := t.pcie.sent, lastTraffic := t.pcie.lastTraffic } }) ∧
    (∀ (i : Nat),
      s.on (F.USH_SQ_CTRL_EN i) = false ∨ (s.ring i).asked ≠ 0 ∨ s.mayRequest = false ∨ s.usherRuns = false ∨
        ringSub (s.ring i).tail (s.sqHead i) ≤ (s.ring i).buf.length →
      Completes (.recordFetch i) s fun t =>
        t = s) ∧
    (∀ (i : Nat) (l : List Byte),
      i < 16 →
      (s.ring i).asked ≠ 0 →
      Completes (.fetchReturn i (some l)) s fun t =>
        t.usher.rings = (modNth s.usher.rings i fun r => { r with
          asked := 0, buf := r.buf ++ (List.range r.asked).map fun k => (s.time + 96, recordWords (l.drop (64 * k))) }) ∧
        t.agenda.any (fun e => e.2 == .recordTake) = true ∧ sameRegs [F.PCI_LINK] s t ∧
        t = { s with regs := t.regs, agenda := t.agenda, usher := { s.usher with rings := t.usher.rings }
                     pcie := { s.pcie with sent := t.pcie.sent, lastTraffic := t.pcie.lastTraffic } }) ∧
    (∀ (i : Nat),
      i < 16 →
      (s.ring i).asked ≠ 0 →
      Completes (.fetchReturn i none) s fun t =>
        t.usher.rings = (modNth s.usher.rings i fun r => { r with asked := 0 }) ∧ bitN (t.g F.USH_FLAGS_HALTED) i = true ∧
        sameRegs [F.PCI_LINK, F.USH_FLAGS, (C.USH_CNT_NQ_LOST 1).off] s t ∧
        t = { s with regs := t.regs, agenda := t.agenda, usher := { s.usher with rings := t.usher.rings }
                     pcie := { s.pcie with sent := t.pcie.sent, lastTraffic := t.pcie.lastTraffic }, moment := t.moment, notices := t.notices }) ∧
    (∀ (i : Nat) (d : Option (List Byte)),
      (s.ring i).asked = 0 ∨ 16 ≤ i →
      Completes (.fetchReturn i d) s fun t =>
        t = s) ∧
    (∀ (c h : Nat),
      c < 8 →
      ringSub h (s.g (F.USH_CQ_HEAD_HEAD c)) ≤ ringSub (s.g (F.USH_CQ_STATUS_TAIL c)) (s.g (F.USH_CQ_HEAD_HEAD c)) →
      Completes (.headWrite c h) s fun t =>
        t.g (F.USH_CQ_HEAD_HEAD c) = h % 131072 ∧ sameRegs [F.USH_CQ_HEAD c] s t ∧
        t.agenda.any (fun e => e.2 == .recordTake) = true ∧ t = { s with regs := t.regs, agenda := t.agenda }) ∧
    (∀ (n h : Nat),
      n < 2 →
      ringSub h (s.g (F.USH_NQ_HEAD_HEAD n)) ≤ ringSub (s.g (F.USH_NQ_STATUS_TAIL n)) (s.g (F.USH_NQ_HEAD_HEAD n)) →
      Completes (.headWrite (8 + n) h) s fun t =>
        t.g (F.USH_NQ_HEAD_HEAD n) = h % 131072 ∧
        ((nth s.notices n NoticeRing.idle).held = [] → (nth s.notices n NoticeRing.idle).lost = 0 →
          sameRegs [F.USH_NQ_HEAD n] s t ∧ t = { s with regs := t.regs }) ∧
        t.newel = s.newel ∧ t.cams = s.cams ∧ t.stations = s.stations ∧ t.store = s.store ∧ t.hall = s.hall) ∧
    (∀ (c h : Nat),
      c < 8 →
      ringSub (s.g (F.USH_CQ_STATUS_TAIL c)) (s.g (F.USH_CQ_HEAD_HEAD c)) < ringSub h (s.g (F.USH_CQ_HEAD_HEAD c)) →
      Completes (.headWrite c h) s fun t =>
        t.g (F.USH_CQ_HEAD_HEAD c) = s.g (F.USH_CQ_HEAD_HEAD c) ∧ t.g F.STP_LAST_REFUSED_REASON = 6 ∧
        t.g F.STP_LAST_REFUSED_OFFSET = F.USH_CQ_HEAD c ∧
        t.ctr C.STP_CNT_REFUSED = C.STP_CNT_REFUSED.plus (s.ctr C.STP_CNT_REFUSED) 1 ∧
        sameRegs [F.STP_LAST_REFUSED, C.STP_CNT_REFUSED.off] s t ∧ t = { s with regs := t.regs, moment := t.moment }) ∧
    (∀ (n h : Nat),
      n < 2 →
      ringSub (s.g (F.USH_NQ_STATUS_TAIL n)) (s.g (F.USH_NQ_HEAD_HEAD n)) < ringSub h (s.g (F.USH_NQ_HEAD_HEAD n)) →
      Completes (.headWrite (8 + n) h) s fun t =>
        t.g (F.USH_NQ_HEAD_HEAD n) = s.g (F.USH_NQ_HEAD_HEAD n) ∧ t.g F.STP_LAST_REFUSED_REASON = 6 ∧
        t.g F.STP_LAST_REFUSED_OFFSET = F.USH_NQ_HEAD n ∧
        t.ctr C.STP_CNT_REFUSED = C.STP_CNT_REFUSED.plus (s.ctr C.STP_CNT_REFUSED) 1 ∧
        sameRegs [F.STP_LAST_REFUSED, C.STP_CNT_REFUSED.off] s t ∧ t = { s with regs := t.regs, moment := t.moment }) ∧
    (∀ (r h : Nat),
      10 ≤ r →
      Completes (.headWrite r h) s fun t =>
        t = s) ∧
    (∀ (i : Nat) (l : List Task),
      i < 16 →
      s.on (F.USH_SQ_CTRL_EN i) = true →
      (s.ring i).wait.all (fun w => w.task.sq == i) = true →
      l = ((List.range 12).filterMap fun u => (s.slot u).deck.bind fun k => if k.sq = i then some k else none) ++
        ((s.ring i).wait.map (·.task)).toList →
      Completes (.ringDisable i) s fun t =>
        t.g (F.USH_SQ_CTRL_EN i) = 0 ∧
        t.ring i = { s.ring i with buf := [], asked := 0, wait := none, outstanding := (s.ring i).outstanding - l.length,
                                   freeAt := if (s.ring i).wait.isSome then edgeAfter 4 s.time else (s.ring i).freeAt } ∧
        (∀ j, j ≠ i → t.ring j = s.ring j) ∧
        (∀ u ∈ List.range 12, t.slot u = { s.slot u with deck := (s.slot u).deck.filter fun k => k.sq != i }) ∧
        t.usher.done = s.usher.done ++ l.map (fun k => s.completion k k.unit 0x8004
          (if k.op = 3 then ((s.ring i).wait.map fun w => [w.last % 2 ^ 32, w.last / 2 ^ 32]).getD [] else [])) ∧
        sameRegs [F.USH_SQ_CTRL i, C.USH_CNT_FAIL.off] s t ∧
        t = { s with regs := t.regs, moment := t.moment, agenda := t.agenda
                     usher := { s.usher with rings := t.usher.rings, slots := t.usher.slots, done := t.usher.done } }) ∧
    (∀ (i : Nat),
      s.on (F.USH_SQ_CTRL_EN i) = false →
      Completes (.ringDisable i) s fun t =>
        t = s) ∧
    (∀ (i : Nat),
      i < 16 →
      bitN (s.g F.USH_FLAGS_HALTED) i = true →
      Completes (.resume i) s fun t =>
        bitN (t.g F.USH_FLAGS_HALTED) i = false ∧ sameRegs [F.USH_FLAGS] s t ∧
        t.agenda.any (fun e => e.2 == .recordTake) = true ∧ t = { s with regs := t.regs, agenda := t.agenda }) ∧
    (∀ (i : Nat),
      bitN (s.g F.USH_FLAGS_HALTED) i = false →
      Completes (.resume i) s fun t =>
        t = s)

/-- On an Usher cycle, with requests allowed and the Usher running, the eligible head that the round robin favours is taken: the head moves on, a completion slot is reserved, the take is counted and the next one is 16 ticks away at the earliest. With no other head ready: a NOP completes with status 0; an event adds to its counter and completes; a wait that does not hold yet is kept with its deadline; a host wait issues its first read at once; a value is written into the Store or, outside the enabled rings, into host memory; operands named indirectly are read now and stand 160 ticks and 8 for each later; a flight command is dispatched 8 ticks later; a task of an engine goes to its on-deck slot; a record that fails its checks completes with 0x8001 or 0x8002. A head that waits only for a completion slot is counted once a cycle, one that names a disabled completion ring halts its ring, and with no ready head nothing changes. -/
def Obligations.RecordTaking : Prop :=
  ∀ s : State,
    (∀ (i a : Nat) (w : List Nat) (l : List (Nat × List Nat)) (k : Task),
      i < 16 →
      s.mayRequest = true →
      s.usherRuns = true →
      onEdge 4 s.time = true →
      s.headState i = 0 →
      (∀ j ∈ List.range 16, j ≠ i → s.headState j ≠ 4 ∧ (s.headState j = 0 → s.ringBefore j i = false)) →
      s.usher.nextTake ≤ s.time →
      (s.ring i).buf = (a, w) :: l →
      k = ⟨i, (s.sqHead i + 1) % 131072, w, s.time, s.time + 96, s.time⟩ →
      Completes .recordTake s fun t =>
        t.sqHead i = (s.sqHead i + 1) % 131072 ∧
        t.g (F.USH_CQ_RESV_RESERVED k.cq) = (s.g (F.USH_CQ_RESV_RESERVED k.cq) + 1) % 131072 ∧
        t.ctr C.USH_CNT_TAKEN = C.USH_CNT_TAKEN.plus (s.ctr C.USH_CNT_TAKEN) 1 ∧ t.usher.lastServed = i ∧
        t.usher.nextTake = s.time + 16 ∧ (t.ring i).buf = l ∧ t.agenda.any (fun e => e.2 == .recordTake) = true ∧
        t.newel = s.newel ∧ t.stations = s.stations ∧ t.hall = s.hall ∧ t.pio = s.pio) ∧
    (∀ (i a : Nat) (w : List Nat) (l : List (Nat × List Nat)) (k : Task),
      i < 16 →
      s.mayRequest = true →
      s.usherRuns = true →
      onEdge 4 s.time = true →
      s.headState i = 0 →
      (∀ j ∈ List.range 16, j ≠ i → s.headState j = 1 ∨ s.headState j = 2) →
      s.usher.nextTake ≤ s.time →
      (s.ring i).buf = (a, w) :: l →
      k = ⟨i, (s.sqHead i + 1) % 131072, w, s.time, s.time + 96, s.time⟩ →
      k.takeCheck = none →
      k.op = 0 →
      Completes .recordTake s fun t =>
        t.sqHead i = (s.sqHead i + 1) % 131072 ∧
        t.g (F.USH_CQ_RESV_RESERVED k.cq) = (s.g (F.USH_CQ_RESV_RESERVED k.cq) + 1) % 131072 ∧
        t.ctr C.USH_CNT_TAKEN = C.USH_CNT_TAKEN.plus (s.ctr C.USH_CNT_TAKEN) 1 ∧ t.usher.lastServed = i ∧
        t.usher.nextTake = s.time + 16 ∧ sameRegs [F.USH_SQ_STATUS i, F.USH_CQ_RESV k.cq, C.USH_CNT_TAKEN.off] s t ∧
        t.usher.rings = (modNth s.usher.rings i fun r => { r with buf := l }) ∧
        t.usher.done = s.usher.done ++ [s.completion k 0 0 []] ∧
        t = { s with regs := t.regs, moment := t.moment, agenda := t.agenda
                     usher := { s.usher with rings := t.usher.rings, lastServed := t.usher.lastServed,
                                             nextTake := t.usher.nextTake, done := t.usher.done } }) ∧
    (∀ (i a : Nat) (w : List Nat) (l : List (Nat × List Nat)) (k : Task),
      i < 16 →
      s.mayRequest = true →
      s.usherRuns = true →
      onEdge 4 s.time = true →
      s.headState i = 0 →
      (∀ j ∈ List.range 16, j ≠ i → s.headState j = 1 ∨ s.headState j = 2) →
      s.usher.nextTake ≤ s.time →
      (s.ring i).buf = (a, w) :: l →
      k = ⟨i, (s.sqHead i + 1) % 131072, w, s.time, s.time + 96, s.time⟩ →
      k.takeCheck = none →
      k.op = 1 →
      k.marks = 0 →
      Completes .recordTake s fun t =>
        t.sqHead i = (s.sqHead i + 1) % 131072 ∧
        t.g (F.USH_CQ_RESV_RESERVED k.cq) = (s.g (F.USH_CQ_RESV_RESERVED k.cq) + 1) % 131072 ∧
        t.ctr C.USH_CNT_TAKEN = C.USH_CNT_TAKEN.plus (s.ctr C.USH_CNT_TAKEN) 1 ∧ t.usher.lastServed = i ∧
        t.usher.nextTake = s.time + 16 ∧ sameRegs [F.USH_SQ_STATUS i, F.USH_CQ_RESV k.cq, C.USH_CNT_TAKEN.off] s t ∧
        t.usher.arrivals = s.usher.arrivals ++ [(s.time, k.w 4 % 256, k.w 5 % 2 ^ 32)] ∧
        t.usher.done = s.usher.done ++ [s.completion k 0 0 []] ∧ (t.ring i).buf = l ∧
        t = { s with regs := t.regs, moment := t.moment, agenda := t.agenda
                     usher := { s.usher with rings := t.usher.rings, lastServed := t.usher.lastServed,
                                             nextTake := t.usher.nextTake, done := t.usher.done, arrivals := t.usher.arrivals } }) ∧
    (∀ (i a : Nat) (w : List Nat) (l : List (Nat × List Nat)) (k : Task) (lim : Nat),
      i < 16 →
      s.mayRequest = true →
      s.usherRuns = true →
      onEdge 4 s.time = true →
      s.headState i = 0 →
      (∀ j ∈ List.range 16, j ≠ i → s.headState j = 1 ∨ s.headState j = 2) →
      s.usher.nextTake ≤ s.time →
      (s.ring i).buf = (a, w) :: l →
      k = ⟨i, (s.sqHead i + 1) % 131072, w, s.time, s.time + 96, s.time⟩ →
      k.takeCheck = none →
      k.marks = 0 →
      k.op = 2 ∧ lim = k.w 6 + k.w 7 * 2 ^ 32 ∧
        2 ^ 31 ≤ (s.g (F.USH_EVENT_COUNT (k.w 4 % 256)) + 2 ^ 32 - k.w 5) % 2 ^ 32 →
      Completes .recordTake s fun t =>
        t.sqHead i = (s.sqHead i + 1) % 131072 ∧
        t.g (F.USH_CQ_RESV_RESERVED k.cq) = (s.g (F.USH_CQ_RESV_RESERVED k.cq) + 1) % 131072 ∧
        t.ctr C.USH_CNT_TAKEN = C.USH_CNT_TAKEN.plus (s.ctr C.USH_CNT_TAKEN) 1 ∧ t.usher.lastServed = i ∧
        t.usher.nextTake = s.time + 16 ∧ sameRegs [F.USH_SQ_STATUS i, F.USH_CQ_RESV k.cq, C.USH_CNT_TAKEN.off] s t ∧
        t.usher.rings = (modNth s.usher.rings i fun r => { r with buf := l, outstanding := r.outstanding + 1, wait := (some
          ⟨k, true, if lim = 0 then none else some (s.time + lim), 0, [], false⟩) }) ∧
        t = { s with regs := t.regs, moment := t.moment, agenda := t.agenda
                     usher := { s.usher with rings := t.usher.rings, lastServed := t.usher.lastServed,
                                             nextTake := t.usher.nextTake } }) ∧
    (∀ (i a : Nat) (w : List Nat) (l : List (Nat × List Nat)) (k : Task) (lim : Nat),
      i < 16 →
      s.mayRequest = true →
      s.usherRuns = true →
      onEdge 4 s.time = true →
      s.headState i = 0 →
      (∀ j ∈ List.range 16, j ≠ i → s.headState j = 1 ∨ s.headState j = 2) →
      s.usher.nextTake ≤ s.time →
      (s.ring i).buf = (a, w) :: l →
      k = ⟨i, (s.sqHead i + 1) % 131072, w, s.time, s.time + 96, s.time⟩ →
      k.takeCheck = none →
      k.marks = 0 →
      k.op = 3 →
      lim = k.w 12 + k.w 13 * 2 ^ 32 →
      bitN (k.w 6) 0 = false →
      Completes .recordTake s fun t =>
        t.sqHead i = (s.sqHead i + 1) % 131072 ∧
        t.g (F.USH_CQ_RESV_RESERVED k.cq) = (s.g (F.USH_CQ_RESV_RESERVED k.cq) + 1) % 131072 ∧
        t.ctr C.USH_CNT_TAKEN = C.USH_CNT_TAKEN.plus (s.ctr C.USH_CNT_TAKEN) 1 ∧ t.usher.lastServed = i ∧
        t.usher.nextTake = s.time + 16 ∧ sameRegs [F.USH_SQ_STATUS i, F.USH_CQ_RESV k.cq, C.USH_CNT_TAKEN.off] s t ∧
        t.usher.rings = (modNth s.usher.rings i fun r => { r with buf := l, outstanding := r.outstanding + 1, wait := (some
          ⟨k, true, if lim = 0 then none else some (s.time + lim), 0, [], false⟩) }) ∧
        (s.now, Instr.valuePoll i) ∈ t.agenda ∧
        t = { s with regs := t.regs, moment := t.moment, agenda := t.agenda
                     usher := { s.usher with rings := t.usher.rings, lastServed := t.usher.lastServed,
                                             nextTake := t.usher.nextTake } }) ∧
    (∀ (i a : Nat) (w : List Nat) (l : List (Nat × List Nat)) (k : Task) (n : Nat),
      i < 16 →
      s.mayRequest = true →
      s.usherRuns = true →
      onEdge 4 s.time = true →
      s.headState i = 0 →
      (∀ j ∈ List.range 16, j ≠ i → s.headState j = 1 ∨ s.headState j = 2) →
      s.usher.nextTake ≤ s.time →
      (s.ring i).buf = (a, w) :: l →
      k = ⟨i, (s.sqHead i + 1) % 131072, w, s.time, s.time + 96, s.time⟩ →
      k.takeCheck = none →
      k.marks = 0 →
      k.op = 4 →
      n = (if bitN (k.w 6) 1 then 8 else 4) →
      Completes .recordTake s fun t =>
        t.sqHead i = (s.sqHead i + 1) % 131072 ∧
        t.g (F.USH_CQ_RESV_RESERVED k.cq) = (s.g (F.USH_CQ_RESV_RESERVED k.cq) + 1) % 131072 ∧
        t.ctr C.USH_CNT_TAKEN = C.USH_CNT_TAKEN.plus (s.ctr C.USH_CNT_TAKEN) 1 ∧ t.usher.lastServed = i ∧
        t.usher.nextTake = s.time + 16 ∧ (t.ring i).buf = l ∧
        (k.w 6 % 2 = 1 → t.store = s.store.write (k.q 4) (leBytes (k.q 8) n) ∧ t.pcie = s.pcie ∧
          t.usher.done = s.usher.done ++ [s.completion k 0 0 []]) ∧
        (k.w 6 % 2 = 0 → s.hitsRing (k.q 4) n = false → t.pcie.hostMem = s.pcie.hostMem.write (k.q 4) (leBytes (k.q 8) n) ∧
          t.store = s.store ∧ t.usher.done = s.usher.done ++ [s.completion k 0 0 []]) ∧
        (k.w 6 % 2 = 0 → s.hitsRing (k.q 4) n = true → t.pcie = s.pcie ∧ t.store = s.store ∧
          t.usher.done = s.usher.done ++ [s.completion k 0 0x8007 []])) ∧
    (∀ (i a : Nat) (w : List Nat) (l : List (Nat × List Nat)) (k : Task),
      i < 16 →
      s.mayRequest = true →
      s.usherRuns = true →
      onEdge 4 s.time = true →
      s.headState i = 0 →
      (∀ j ∈ List.range 16, j ≠ i → s.headState j = 1 ∨ s.headState j = 2) →
      s.usher.nextTake ≤ s.time →
      (s.ring i).buf = (a, w) :: l →
      k = ⟨i, (s.sqHead i + 1) % 131072, w, s.time, s.time + 96, s.time⟩ →
      k.takeCheck = none →
      k.op < 5 →
      k.marks ≠ 0 →
      s.storeBad = [] →
      Completes .recordTake s fun t =>
        t.sqHead i = (s.sqHead i + 1) % 131072 ∧
        t.g (F.USH_CQ_RESV_RESERVED k.cq) = (s.g (F.USH_CQ_RESV_RESERVED k.cq) + 1) % 131072 ∧
        t.ctr C.USH_CNT_TAKEN = C.USH_CNT_TAKEN.plus (s.ctr C.USH_CNT_TAKEN) 1 ∧ t.usher.lastServed = i ∧
        t.usher.nextTake = s.time + 16 ∧ sameRegs [F.USH_SQ_STATUS i, F.USH_CQ_RESV k.cq, C.USH_CNT_TAKEN.off] s t ∧
        t.usher.rings = (modNth s.usher.rings i fun r => { r with buf := l, outstanding := r.outstanding + 1, wait :=
          (if k.op = 2 ∨ k.op = 3 then some ⟨s.resolve k, false, none, 0, [], false⟩ else r.wait) }) ∧
        t.usher.ops = s.usher.ops ++ [(s.time + k.resolveTicks, s.resolve k)] ∧
        (s.now + k.resolveTicks, Instr.dispatch 12) ∈ t.agenda ∧
        t = { s with regs := t.regs, moment := t.moment, agenda := t.agenda
                     usher := { s.usher with rings := t.usher.rings, lastServed := t.usher.lastServed,
                                             nextTake := t.usher.nextTake, ops := t.usher.ops } }) ∧
    (∀ (i a : Nat) (w : List Nat) (l : List (Nat × List Nat)) (k : Task),
      i < 16 →
      s.mayRequest = true →
      s.usherRuns = true →
      onEdge 4 s.time = true →
      s.headState i = 0 →
      (∀ j ∈ List.range 16, j ≠ i → s.headState j = 1 ∨ s.headState j = 2) →
      s.usher.nextTake ≤ s.time →
      (s.ring i).buf = (a, w) :: l →
      k = ⟨i, (s.sqHead i + 1) % 131072, w, s.time, s.time + 96, s.time⟩ →
      k.takeCheck = none →
      k.op = 0x51 ∨ k.op = 0x52 →
      Completes .recordTake s fun t =>
        t.sqHead i = (s.sqHead i + 1) % 131072 ∧
        t.g (F.USH_CQ_RESV_RESERVED k.cq) = (s.g (F.USH_CQ_RESV_RESERVED k.cq) + 1) % 131072 ∧
        t.ctr C.USH_CNT_TAKEN = C.USH_CNT_TAKEN.plus (s.ctr C.USH_CNT_TAKEN) 1 ∧ t.usher.lastServed = i ∧
        t.usher.nextTake = s.time + 16 ∧ sameRegs [F.USH_SQ_STATUS i, F.USH_CQ_RESV k.cq, C.USH_CNT_TAKEN.off] s t ∧
        t.usher.rings = (modNth s.usher.rings i fun r => { r with buf := l, outstanding := r.outstanding + 1 }) ∧
        t.usher.ops = s.usher.ops ++ [(s.time + 8, k)] ∧ (s.now + 8, Instr.dispatch 12) ∈ t.agenda ∧
        t = { s with regs := t.regs, moment := t.moment, agenda := t.agenda
                     usher := { s.usher with rings := t.usher.rings, lastServed := t.usher.lastServed,
                                             nextTake := t.usher.nextTake, ops := t.usher.ops } }) ∧
    (∀ (i a : Nat) (w : List Nat) (l : List (Nat × List Nat)) (k : Task) (r : RunBy),
      i < 16 →
      s.mayRequest = true →
      s.usherRuns = true →
      onEdge 4 s.time = true →
      s.headState i = 0 →
      (∀ j ∈ List.range 16, j ≠ i → s.headState j = 1 ∨ s.headState j = 2) →
      s.usher.nextTake ≤ s.time →
      (s.ring i).buf = (a, w) :: l →
      k = ⟨i, (s.sqHead i + 1) % 131072, w, s.time, s.time + 96, s.time⟩ →
      k.takeCheck = none →
      (opSpec k.op).map (·.1) = some r →
      r ≠ .usher →
      r ≠ .flight →
      Completes .recordTake s fun t =>
        t.sqHead i = (s.sqHead i + 1) % 131072 ∧
        t.g (F.USH_CQ_RESV_RESERVED k.cq) = (s.g (F.USH_CQ_RESV_RESERVED k.cq) + 1) % 131072 ∧
        t.ctr C.USH_CNT_TAKEN = C.USH_CNT_TAKEN.plus (s.ctr C.USH_CNT_TAKEN) 1 ∧ t.usher.lastServed = i ∧
        t.usher.nextTake = s.time + 16 ∧ sameRegs [F.USH_SQ_STATUS i, F.USH_CQ_RESV k.cq, C.USH_CNT_TAKEN.off] s t ∧
        t.usher.rings = (modNth s.usher.rings i fun r => { r with buf := l, outstanding := r.outstanding + 1 }) ∧
        t.usher.slots = (modNth s.usher.slots (s.engineFor r k.unit) fun x => { x with deck := some k }) ∧
        t = { s with regs := t.regs, moment := t.moment, agenda := t.agenda
                     usher := { s.usher with rings := t.usher.rings, lastServed := t.usher.lastServed,
                                             nextTake := t.usher.nextTake, slots := t.usher.slots } }) ∧
    (∀ (i a : Nat) (w : List Nat) (l : List (Nat × List Nat)) (k : Task) (v : Nat),
      i < 16 →
      s.mayRequest = true →
      s.usherRuns = true →
      onEdge 4 s.time = true →
      s.headState i = 0 →
      (∀ j ∈ List.range 16, j ≠ i → s.headState j = 1 ∨ s.headState j = 2) →
      s.usher.nextTake ≤ s.time →
      (s.ring i).buf = (a, w) :: l →
      k = ⟨i, (s.sqHead i + 1) % 131072, w, s.time, s.time + 96, s.time⟩ →
      k.takeCheck = some v →
      Completes .recordTake s fun t =>
        t.sqHead i = (s.sqHead i + 1) % 131072 ∧
        t.g (F.USH_CQ_RESV_RESERVED k.cq) = (s.g (F.USH_CQ_RESV_RESERVED k.cq) + 1) % 131072 ∧
        t.ctr C.USH_CNT_TAKEN = C.USH_CNT_TAKEN.plus (s.ctr C.USH_CNT_TAKEN) 1 ∧ t.usher.lastServed = i ∧
        t.usher.nextTake = s.time + 16 ∧ t.usher.rings = (modNth s.usher.rings i fun r => { r with buf := l }) ∧ (v = 0x8001 ∨ v = 0x8002) ∧
        t.ctr C.USH_CNT_FAIL = C.USH_CNT_FAIL.plus (s.ctr C.USH_CNT_FAIL) 1 ∧
        t.usher.done = s.usher.done ++ [s.completion k k.unit v []] ∧
        sameRegs [F.USH_SQ_STATUS i, F.USH_CQ_RESV k.cq, C.USH_CNT_TAKEN.off, C.USH_CNT_FAIL.off, F.USH_FLAGS,
          (C.USH_CNT_NQ_LOST 1).off] s t ∧
        (s.on (F.USH_SQ_CTRL_HALT_ERR i) = true → bitN (t.g F.USH_FLAGS_HALTED) i = true) ∧
        t = { s with regs := t.regs, moment := t.moment, agenda := t.agenda, notices := t.notices
                     usher := { s.usher with rings := t.usher.rings, lastServed := t.usher.lastServed,
                                             nextTake := t.usher.nextTake, done := t.usher.done } }) ∧
    (∀ (i : Nat),
      i < 16 →
      s.mayRequest = true →
      s.usherRuns = true →
      onEdge 4 s.time = true →
      s.headState i = 0 →
      (∀ j ∈ List.range 16, j ≠ i → s.headState j = 1 ∨ s.headState j = 2) →
      s.time < s.usher.nextTake →
      Completes .recordTake s fun t =>
        t.agenda.any (fun e => e.2 == .recordTake) = true ∧ t = { s with agenda := t.agenda }) ∧
    (  s.mayRequest = true →
      s.usherRuns = true →
      onEdge 4 s.time = true →
      (∀ j ∈ List.range 16, s.headState j ≠ 0 ∧ s.headState j ≠ 4) →
      (List.range 16).any (fun j => s.headState j == 3) = true →
      s.usher.cqWaitAt ≠ s.time →
      Completes .recordTake s fun t =>
        t.ctr C.USH_CNT_CQ_WAIT = C.USH_CNT_CQ_WAIT.plus (s.ctr C.USH_CNT_CQ_WAIT) 1 ∧ sameRegs [C.USH_CNT_CQ_WAIT.off] s t ∧
        t = { s with regs := t.regs, moment := t.moment, agenda := t.agenda, usher := { s.usher with cqWaitAt := s.time } }) ∧
    (  s.mayRequest = true →
      s.usherRuns = true →
      onEdge 4 s.time = true →
      (∀ j ∈ List.range 16, s.headState j ≠ 0 ∧ s.headState j ≠ 3) →
      Completes .recordTake s fun t =>
        (∀ j ∈ List.range 16, s.headState j = 4 → bitN (t.g F.USH_FLAGS_HALTED) j = true) ∧
        sameRegs [F.USH_FLAGS, (C.USH_CNT_NQ_LOST 1).off] s t ∧
        t = { s with regs := t.regs, moment := t.moment, agenda := t.agenda, notices := t.notices }) ∧
    (  s.mayRequest = true →
      s.usherRuns = true →
      onEdge 4 s.time = true →
      (∀ j ∈ List.range 16, s.headState j = 1 ∨ s.headState j = 2) →
      Completes .recordTake s fun t =>
        t = s) ∧
    (  s.mayRequest = false ∨ s.usherRuns = false ∨ onEdge 4 s.time = false →
      Completes .recordTake s fun t =>
        t = s)

/-- An addition to an event counter arrives on the first Usher cycle after the write. A wait on a counter that has reached its target ends with status 0; at its deadline it ends with 0x8003, counted, and halts its ring unless it continues; before that it goes on. A wait on a Store value does the same with the value read, and looks again while it waits. A wait on a host value issues a read of 8 bytes, or holds it while no request may be issued; a return that passes the test ends it with the value as its result, one that does not ends it when the deadline was not later than the read's issue and else leaves it with that value; a failed read ends it with 0x8008. A look that comes before the deadline, or for a wait that is not there or not in effect, changes nothing else. -/
def Obligations.WaitsAndEvents : Prop :=
  ∀ s : State,
    (∀ (e d : Nat),
      Completes (.eventAdd e d) s fun t =>
        t.usher.arrivals = s.usher.arrivals ++ [(edgeAfter 4 s.time, e % 256, d % 2 ^ 32)] ∧
        t = { s with usher := { s.usher with arrivals := t.usher.arrivals }, agenda := t.agenda }) ∧
    (∀ (i : Nat) (v : Wait) (c : Instr),
      i < 16 →
      (s.ring i).wait = some v →
      v.live = true →
      v.task.sq = i →
      s.usherRuns = true →
      c = .waitSatisfied i ∨ (c = .waitTimeout i ∧ v.deadline.any (fun d => decide (d ≤ s.time)) = true) →
      v.task.op = 2 →
      (s.g (F.USH_EVENT_COUNT (v.task.w 4 % 256)) + 2 ^ 32 - v.task.w 5) % 2 ^ 32 < 2 ^ 31 →
      Completes c s fun t =>
        t.ring i = { s.ring i with wait := none, freeAt := edgeAfter 4 s.time, outstanding := (s.ring i).outstanding - 1 } ∧
        (∀ j, j ≠ i → t.ring j = s.ring j) ∧
        t.usher.done = s.usher.done ++ [s.completion v.task v.task.unit 0 []] ∧
        t = { s with usher := { s.usher with rings := t.usher.rings, done := t.usher.done }, agenda := t.agenda }) ∧
    (∀ (i : Nat) (v : Wait) (c : Instr),
      i < 16 →
      (s.ring i).wait = some v →
      v.live = true →
      v.task.sq = i →
      s.usherRuns = true →
      c = .waitSatisfied i ∨ (c = .waitTimeout i ∧ v.deadline.any (fun d => decide (d ≤ s.time)) = true) →
      v.task.op = 2 →
      2 ^ 31 ≤ (s.g (F.USH_EVENT_COUNT (v.task.w 4 % 256)) + 2 ^ 32 - v.task.w 5) % 2 ^ 32 →
      v.deadline.any (fun d => decide (d ≤ s.time)) = true →
      Completes c s fun t =>
        t.ring i = { s.ring i with wait := none, freeAt := edgeAfter 4 s.time, outstanding := (s.ring i).outstanding - 1 } ∧
        (∀ j, j ≠ i → t.ring j = s.ring j) ∧
        t.usher.done = s.usher.done ++ [s.completion v.task v.task.unit 0x8003 []] ∧
        t.ctr C.USH_CNT_TIMEOUT = C.USH_CNT_TIMEOUT.plus (s.ctr C.USH_CNT_TIMEOUT) 1 ∧
        t.ctr C.USH_CNT_FAIL = C.USH_CNT_FAIL.plus (s.ctr C.USH_CNT_FAIL) 1 ∧
        (v.continues = false → bitN (t.g F.USH_FLAGS_HALTED) i = true) ∧ (v.continues = true → t.regs.get F.USH_FLAGS = s.regs.get F.USH_FLAGS) ∧
        sameRegs [C.USH_CNT_TIMEOUT.off, C.USH_CNT_FAIL.off, F.USH_FLAGS, (C.USH_CNT_NQ_LOST 1).off] s t ∧
        t = { s with regs := t.regs, moment := t.moment, notices := t.notices, usher := { s.usher with rings := t.usher.rings, done := t.usher.done }, agenda := t.agenda }) ∧
    (∀ (i : Nat) (v : Wait),
      i < 16 →
      (s.ring i).wait = some v →
      v.live = true →
      v.task.sq = i →
      s.usherRuns = true →
      v.task.op = 2 →
      2 ^ 31 ≤ (s.g (F.USH_EVENT_COUNT (v.task.w 4 % 256)) + 2 ^ 32 - v.task.w 5) % 2 ^ 32 →
      v.deadline.any (fun d => decide (d ≤ s.time)) = false →
      Completes (.waitSatisfied i) s fun t =>
        t = s) ∧
    (∀ (i : Nat) (v : Wait) (c : Instr) (x : Nat),
      i < 16 →
      (s.ring i).wait = some v →
      v.live = true →
      v.task.sq = i →
      s.usherRuns = true →
      c = .waitSatisfied i ∨ (c = .waitTimeout i ∧ v.deadline.any (fun d => decide (d ≤ s.time)) = true) →
      v.task.op = 3 →
      bitN (v.task.w 6) 0 = true →
      s.storeBad = [] →
      x = leNat (s.store.read (v.task.q 4) 8) →
      v.test x = true →
      Completes c s fun t =>
        t.ring i = { s.ring i with wait := none, freeAt := edgeAfter 4 s.time, outstanding := (s.ring i).outstanding - 1 } ∧
        (∀ j, j ≠ i → t.ring j = s.ring j) ∧
        t.usher.done = s.usher.done ++ [s.completion v.task v.task.unit 0 [x % 2 ^ 32, x / 2 ^ 32]] ∧
        t = { s with usher := { s.usher with rings := t.usher.rings, done := t.usher.done }, agenda := t.agenda }) ∧
    (∀ (i : Nat) (v : Wait) (c : Instr) (x : Nat),
      i < 16 →
      (s.ring i).wait = some v →
      v.live = true →
      v.task.sq = i →
      s.usherRuns = true →
      c = .waitSatisfied i ∨ (c = .waitTimeout i ∧ v.deadline.any (fun d => decide (d ≤ s.time)) = true) →
      v.task.op = 3 →
      bitN (v.task.w 6) 0 = true →
      s.storeBad = [] →
      x = leNat (s.store.read (v.task.q 4) 8) →
      v.test x = false →
      v.deadline.any (fun d => decide (d ≤ s.time)) = true →
      Completes c s fun t =>
        t.ring i = { s.ring i with wait := none, freeAt := edgeAfter 4 s.time, outstanding := (s.ring i).outstanding - 1 } ∧
        (∀ j, j ≠ i → t.ring j = s.ring j) ∧
        t.usher.done = s.usher.done ++ [s.completion v.task v.task.unit 0x8003 [x % 2 ^ 32, x / 2 ^ 32]] ∧
        t.ctr C.USH_CNT_TIMEOUT = C.USH_CNT_TIMEOUT.plus (s.ctr C.USH_CNT_TIMEOUT) 1 ∧
        t.ctr C.USH_CNT_FAIL = C.USH_CNT_FAIL.plus (s.ctr C.USH_CNT_FAIL) 1 ∧
        (v.continues = false → bitN (t.g F.USH_FLAGS_HALTED) i = true) ∧ (v.continues = true → t.regs.get F.USH_FLAGS = s.regs.get F.USH_FLAGS) ∧
        sameRegs [C.USH_CNT_TIMEOUT.off, C.USH_CNT_FAIL.off, F.USH_FLAGS, (C.USH_CNT_NQ_LOST 1).off] s t ∧
        t = { s with regs := t.regs, moment := t.moment, notices := t.notices, usher := { s.usher with rings := t.usher.rings, done := t.usher.done }, agenda := t.agenda }) ∧
    (∀ (i : Nat) (v : Wait) (x : Nat),
      i < 16 →
      (s.ring i).wait = some v →
      v.live = true →
      v.task.sq = i →
      s.usherRuns = true →
      v.task.op = 3 →
      bitN (v.task.w 6) 0 = true →
      s.storeBad = [] →
      x = leNat (s.store.read (v.task.q 4) 8) →
      v.test x = false →
      v.deadline.any (fun d => decide (d ≤ s.time)) = false →
      Completes (.waitSatisfied i) s fun t =>
        t.usher.rings = (modNth s.usher.rings i fun r => { r with wait := some { v with last := x } }) ∧
        t.agenda.any (fun e => e.2 == .waitSatisfied i) = true ∧ t = { s with usher := { s.usher with rings := t.usher.rings }, agenda := t.agenda }) ∧
    (∀ (i : Nat),
      16 ≤ i ∨ (s.ring i).wait.all (fun v => !v.live || !s.usherRuns || (v.task.op == 3 && !bitN (v.task.w 6) 0)) = true →
      Completes (.waitSatisfied i) s fun t =>
        t = s) ∧
    (∀ (i : Nat) (v : Wait) (d : Nat),
      i < 16 →
      (s.ring i).wait = some v →
      v.deadline = some d →
      s.time < d →
      Completes (.waitTimeout i) s fun t =>
        t = { s with agenda := s.agenda ++ [(s.now + (cycleAt d - s.time), .waitTimeout i)] }) ∧
    (∀ (i : Nat),
      16 ≤ i ∨ (s.ring i).wait.all (fun v => v.deadline.isNone || (decide (v.deadline.getD 0 ≤ s.time) &&
        (!v.live || !s.usherRuns || (v.task.op == 3 && !bitN (v.task.w 6) 0)))) = true →
      Completes (.waitTimeout i) s fun t =>
        t = s) ∧
    (∀ (i : Nat) (v : Wait),
      i < 16 →
      (s.ring i).wait = some v →
      v.live = true →
      v.task.op = 3 →
      bitN (v.task.w 6) 0 = false →
      s.mayRequest = true →
      s.usherRuns = true →
      Completes (.valuePoll i) s fun t =>
        t.usher.rings = (modNth s.usher.rings i fun r =>
          { r with wait := some { v with held := false, issued := v.issued ++ [s.time] } }) ∧
        t.pcie.sent = s.pcie.sent ++ (requestsOf s.maxRead (v.task.q 4) 8).map (fun x => .request x.1 x.2) ∧
        (s.now + s.g F.USH_POLL_TICKS, Instr.valuePoll i) ∈ t.agenda ∧ sameRegs [F.PCI_LINK] s t ∧
        t = { s with regs := t.regs, agenda := t.agenda, usher := { s.usher with rings := t.usher.rings }
                     pcie := { s.pcie with sent := t.pcie.sent, lastTraffic := t.pcie.lastTraffic } }) ∧
    (∀ (i : Nat) (v : Wait),
      i < 16 →
      (s.ring i).wait = some v →
      v.live = true →
      v.task.op = 3 →
      bitN (v.task.w 6) 0 = false →
      s.mayRequest = false ∨ s.usherRuns = false →
      Completes (.valuePoll i) s fun t =>
        t = { s with usher := { s.usher with rings := modNth s.usher.rings i fun r => { r with wait := some { v with held := true } } } }) ∧
    (∀ (i : Nat),
      16 ≤ i ∨ (s.ring i).wait.all (fun v => !v.live || v.task.op != 3 || bitN (v.task.w 6) 0) = true →
      Completes (.valuePoll i) s fun t =>
        t = s) ∧
    (∀ (i a : Nat) (v : Wait) (l : List Nat) (x : Nat),
      i < 16 →
      (s.ring i).wait = some v →
      v.task.sq = i →
      v.task.op = 3 →
      v.issued = a :: l →
      v.test (x % 2 ^ 64) = true →
      Completes (.pollReturn i (some x)) s fun t =>
        t.ring i = { s.ring i with wait := none, freeAt := edgeAfter 4 s.time, outstanding := (s.ring i).outstanding - 1 } ∧
        (∀ j, j ≠ i → t.ring j = s.ring j) ∧
        t.usher.done = s.usher.done ++ [s.completion v.task v.task.unit 0 [x % 2 ^ 32, x % 2 ^ 64 / 2 ^ 32]] ∧
        sameRegs [F.PCI_LINK] s t ∧
        t = { s with regs := t.regs, agenda := t.agenda, usher := { s.usher with rings := t.usher.rings, done := t.usher.done }
                     pcie := { s.pcie with sent := t.pcie.sent, lastTraffic := t.pcie.lastTraffic } }) ∧
    (∀ (i a : Nat) (v : Wait) (l : List Nat) (x : Nat),
      i < 16 →
      (s.ring i).wait = some v →
      v.task.sq = i →
      v.task.op = 3 →
      v.issued = a :: l →
      v.test (x % 2 ^ 64) = false →
      v.deadline.any (fun d => decide (d ≤ a)) = true →
      Completes (.pollReturn i (some x)) s fun t =>
        t.ring i = { s.ring i with wait := none, freeAt := edgeAfter 4 s.time, outstanding := (s.ring i).outstanding - 1 } ∧
        (∀ j, j ≠ i → t.ring j = s.ring j) ∧
        t.usher.done = s.usher.done ++ [s.completion v.task v.task.unit 0x8003 [x % 2 ^ 32, x % 2 ^ 64 / 2 ^ 32]] ∧
        t.ctr C.USH_CNT_TIMEOUT = C.USH_CNT_TIMEOUT.plus (s.ctr C.USH_CNT_TIMEOUT) 1 ∧
        t.ctr C.USH_CNT_FAIL = C.USH_CNT_FAIL.plus (s.ctr C.USH_CNT_FAIL) 1 ∧
        (v.continues = false → bitN (t.g F.USH_FLAGS_HALTED) i = true) ∧ (v.continues = true → t.regs.get F.USH_FLAGS = s.regs.get F.USH_FLAGS) ∧
        sameRegs [F.PCI_LINK, C.USH_CNT_TIMEOUT.off, C.USH_CNT_FAIL.off, F.USH_FLAGS, (C.USH_CNT_NQ_LOST 1).off] s t ∧
        t = { s with regs := t.regs, moment := t.moment, notices := t.notices, usher := { s.usher with rings := t.usher.rings, done := t.usher.done }, agenda := t.agenda
                     pcie := { s.pcie with sent := t.pcie.sent, lastTraffic := t.pcie.lastTraffic } }) ∧
    (∀ (i a : Nat) (v : Wait) (l : List Nat) (x : Nat),
      i < 16 →
      (s.ring i).wait = some v →
      v.task.sq = i →
      v.task.op = 3 →
      v.issued = a :: l →
      v.test (x % 2 ^ 64) = false →
      v.deadline.any (fun d => decide (d ≤ a)) = false →
      Completes (.pollReturn i (some x)) s fun t =>
        t.usher.rings = (modNth s.usher.rings i fun r => { r with wait := some { v with issued := l, last := x % 2 ^ 64 } }) ∧
        sameRegs [F.PCI_LINK] s t ∧
        t = { s with regs := t.regs, agenda := t.agenda, usher := { s.usher with rings := t.usher.rings }
                     pcie := { s.pcie with sent := t.pcie.sent, lastTraffic := t.pcie.lastTraffic } }) ∧
    (∀ (i a : Nat) (v : Wait) (l : List Nat),
      i < 16 →
      (s.ring i).wait = some v →
      v.task.sq = i →
      v.task.op = 3 →
      v.issued = a :: l →
      Completes (.pollReturn i none) s fun t =>
        t.ring i = { s.ring i with wait := none, freeAt := edgeAfter 4 s.time, outstanding := (s.ring i).outstanding - 1 } ∧
        (∀ j, j ≠ i → t.ring j = s.ring j) ∧
        t.usher.done = s.usher.done ++ [s.completion v.task v.task.unit 0x8008 [v.last % 2 ^ 32, v.last / 2 ^ 32]] ∧
        t.ctr C.USH_CNT_FAIL = C.USH_CNT_FAIL.plus (s.ctr C.USH_CNT_FAIL) 1 ∧
        (s.on (F.USH_SQ_CTRL_HALT_ERR i) = true → bitN (t.g F.USH_FLAGS_HALTED) i = true) ∧
        sameRegs [F.PCI_LINK, C.USH_CNT_FAIL.off, F.USH_FLAGS, (C.USH_CNT_NQ_LOST 1).off] s t ∧
        t = { s with regs := t.regs, agenda := t.agenda, usher := { s.usher with rings := t.usher.rings, done := t.usher.done }, moment := t.moment, notices := t.notices
                     pcie := { s.pcie with sent := t.pcie.sent, lastTraffic := t.pcie.lastTraffic } }) ∧
    (∀ (i : Nat) (x : Option Nat),
      16 ≤ i ∨ (s.ring i).wait.all (fun v => v.issued.isEmpty) = true →
      Completes (.pollReturn i x) s fun t =>
        t = s)

/-- A fill that ends has its pattern in every row and nothing elsewhere; a copy leaves each destination row as the source row stood before, in the Store or the host, whatever the overlap, and nothing else changed. A load ends with its bytes counted, those of a host source then in the target unless it has come into use; a reduction ends with its result words; an Archive read copies its blocks, up to the first that cannot be corrected; a capture ends when its last frame has closed or, abandoned, at the end of its row pair. A block read back as written is in the Archive and every other block as before, and the write goes on, completes or stops; a failed attempt before the fourth is counted, wears the block once more and is made again, the fourth ends the task with 0x8207. An abort of one running task ends it with 0x8004: at once while its operands are replaced, where a 2D task has come to, or after the piece in progress. A failed host read ends a copy with 0x8008, or has the load end so. What is not due, not running or waits for the link changes nothing. -/
def Obligations.EngineTasks : Prop :=
  ∀ s : State,
    (∀ (u : Nat) (k : Task) (x : Option (List Byte)) (c : Nat),
      (s.slot u).running = some k →
      k.sq < 16 →
      u < 4 →
      (s.slot u).job.phase = 1 →
      (s.slot u).job.due ≤ s.now →
      k.dispatchCheck = none →
      k.op = 0x11 →
      k.w 8 % 4 = 2 →
      k.rectReach = true →
      Completes (.taskEnd u x c) s fun t =>
        (∀ i ∈ List.range k.rect.rows, t.store.read (k.rect.dst + i * k.rect.dstPitch) k.rect.width = 
          (List.range k.rect.width).map (fun x => fillByte (k.w 13) (k.rect.dst + i * k.rect.dstPitch + x))) ∧
        (∀ a, (List.range k.rect.rows).all (fun i => decide (a < k.rect.dst + i * k.rect.dstPitch) ||
          decide (k.rect.dst + i * k.rect.dstPitch + k.rect.width ≤ a)) = true → t.store.get a = s.store.get a) ∧
        t.slot u = { s.slot u with running := none, freeAt := s.time, job := Job.idle } ∧
        (∀ v, v ≠ u → t.slot v = s.slot v) ∧
        t.usher.done = s.usher.done ++ [s.completion k (unitOf u) 0 [k.rect.rows, k.rect.width * k.rect.rows, k.copyOrder]] ∧
        t.ctr (C.ENG_CNT_TASKS u) = (C.ENG_CNT_TASKS u).plus (s.ctr (C.ENG_CNT_TASKS u)) 1 ∧
        t.g (F.ENG_PROGRESS_DONE u) = (k.rect.width * k.rect.rows) % 2 ^ 32 ∧
        sameRegs [F.ENG_PROGRESS u, (C.ENG_CNT_TASKS u).off] s t ∧
        t = { s with regs := t.regs, moment := t.moment, agenda := t.agenda, store := t.store, storeBad := t.storeBad
                     usher := { s.usher with rings := t.usher.rings, done := t.usher.done, slots := t.usher.slots } }) ∧
    (∀ (u : Nat) (k : Task) (x : Option (List Byte)) (c : Nat),
      (s.slot u).running = some k →
      k.sq < 16 →
      u < 4 →
      (s.slot u).job.phase = 1 →
      (s.slot u).job.due ≤ s.now →
      k.dispatchCheck = none →
      k.op = 0x10 →
      k.w 8 % 4 = 3 →
      s.storeBad = [] →
      k.rectReach = true →
      Completes (.taskEnd u x c) s fun t =>
        (∀ i ∈ List.range k.rect.rows, t.store.read (k.rect.dst + i * k.rect.dstPitch) k.rect.width = 
          s.store.read (k.rect.src + i * k.rect.srcPitch) k.rect.width) ∧
        (∀ a, (List.range k.rect.rows).all (fun i => decide (a < k.rect.dst + i * k.rect.dstPitch) ||
          decide (k.rect.dst + i * k.rect.dstPitch + k.rect.width ≤ a)) = true → t.store.get a = s.store.get a) ∧
        t.slot u = { s.slot u with running := none, freeAt := s.time, job := Job.idle } ∧
        (∀ v, v ≠ u → t.slot v = s.slot v) ∧
        t.usher.done = s.usher.done ++ [s.completion k (unitOf u) 0 [k.rect.rows, k.rect.width * k.rect.rows, k.copyOrder]] ∧
        t.ctr (C.ENG_CNT_TASKS u) = (C.ENG_CNT_TASKS u).plus (s.ctr (C.ENG_CNT_TASKS u)) 1 ∧
        t.g (F.ENG_PROGRESS_DONE u) = (k.rect.width * k.rect.rows) % 2 ^ 32 ∧
        sameRegs [F.ENG_PROGRESS u, (C.ENG_CNT_TASKS u).off] s t ∧
        t = { s with regs := t.regs, moment := t.moment, agenda := t.agenda, store := t.store
                     usher := { s.usher with rings := t.usher.rings, done := t.usher.done, slots := t.usher.slots } }) ∧
    (∀ (u : Nat) (k : Task) (x : Option (List Byte)) (c : Nat),
      (s.slot u).running = some k →
      k.sq < 16 →
      u < 4 →
      (s.slot u).job.phase = 1 →
      (s.slot u).job.due ≤ s.now →
      k.dispatchCheck = none →
      k.op = 0x11 →
      k.w 8 % 4 = 0 →
      s.mayRequest = true →
      Completes (.taskEnd u x c) s fun t =>
        (∀ i ∈ List.range k.rect.rows, t.pcie.hostMem.read (k.rect.dst + i * k.rect.dstPitch) k.rect.width = 
          (List.range k.rect.width).map (fun x => fillByte (k.w 13) (k.rect.dst + i * k.rect.dstPitch + x))) ∧
        (∀ a, (List.range k.rect.rows).all (fun i => decide (a < k.rect.dst + i * k.rect.dstPitch) ||
          decide (k.rect.dst + i * k.rect.dstPitch + k.rect.width ≤ a)) = true → t.pcie.hostMem.get a = s.pcie.hostMem.get a) ∧
        t.slot u = { s.slot u with running := none, freeAt := s.time, job := Job.idle } ∧
        (∀ v, v ≠ u → t.slot v = s.slot v) ∧
        t.usher.done = s.usher.done ++ [s.completion k (unitOf u) 0 [k.rect.rows, k.rect.width * k.rect.rows, k.copyOrder]] ∧
        t.ctr (C.ENG_CNT_TASKS u) = (C.ENG_CNT_TASKS u).plus (s.ctr (C.ENG_CNT_TASKS u)) 1 ∧
        t.g (F.ENG_PROGRESS_DONE u) = (k.rect.width * k.rect.rows) % 2 ^ 32 ∧
        sameRegs [F.ENG_PROGRESS u, (C.ENG_CNT_TASKS u).off, F.PCI_LINK] s t ∧
        t = { s with regs := t.regs, moment := t.moment, agenda := t.agenda, pcie := t.pcie
                     usher := { s.usher with rings := t.usher.rings, done := t.usher.done, slots := t.usher.slots } }) ∧
    (∀ (u : Nat) (k : Task) (x : Option (List Byte)) (c : Nat),
      (s.slot u).running = some k →
      k.sq < 16 →
      u < 4 →
      (s.slot u).job.phase = 1 →
      (s.slot u).job.due ≤ s.now →
      k.dispatchCheck = none →
      k.op = 0x10 →
      k.w 8 % 4 = 1 →
      s.storeBad = [] →
      k.rectReach = true →
      s.mayRequest = true →
      Completes (.taskEnd u x c) s fun t =>
        (∀ i ∈ List.range k.rect.rows, t.pcie.hostMem.read (k.rect.dst + i * k.rect.dstPitch) k.rect.width = 
          s.store.read (k.rect.src + i * k.rect.srcPitch) k.rect.width) ∧
        (∀ a, (List.range k.rect.rows).all (fun i => decide (a < k.rect.dst + i * k.rect.dstPitch) ||
          decide (k.rect.dst + i * k.rect.dstPitch + k.rect.width ≤ a)) = true → t.pcie.hostMem.get a = s.pcie.hostMem.get a) ∧
        t.slot u = { s.slot u with running := none, freeAt := s.time, job := Job.idle } ∧
        (∀ v, v ≠ u → t.slot v = s.slot v) ∧
        t.usher.done = s.usher.done ++ [s.completion k (unitOf u) 0 [k.rect.rows, k.rect.width * k.rect.rows, k.copyOrder]] ∧
        t.ctr (C.ENG_CNT_TASKS u) = (C.ENG_CNT_TASKS u).plus (s.ctr (C.ENG_CNT_TASKS u)) 1 ∧
        t.g (F.ENG_PROGRESS_DONE u) = (k.rect.width * k.rect.rows) % 2 ^ 32 ∧
        sameRegs [F.ENG_PROGRESS u, (C.ENG_CNT_TASKS u).off, F.PCI_LINK] s t ∧
        t = { s with regs := t.regs, moment := t.moment, agenda := t.agenda, pcie := t.pcie
                     usher := { s.usher with rings := t.usher.rings, done := t.usher.done, slots := t.usher.slots } }) ∧
    (∀ (u : Nat) (k : Task) (l : List Byte) (c : Nat),
      (s.slot u).running = some k →
      k.sq < 16 →
      u < 4 →
      (s.slot u).job.phase = 1 →
      (s.slot u).job.due ≤ s.now →
      k.dispatchCheck = none →
      k.op = 0x10 →
      k.w 8 % 4 = 2 →
      s.mayRequest = true →
      l.length = k.rect.width * k.rect.rows →
      k.rectReach = true →
      Completes (.taskEnd u (some l) c) s fun t =>
        (∀ i ∈ List.range k.rect.rows, t.store.read (k.rect.dst + i * k.rect.dstPitch) k.rect.width = (l.drop (i * k.rect.width)).take k.rect.width) ∧
        (∀ a, (List.range k.rect.rows).all (fun i => decide (a < k.rect.dst + i * k.rect.dstPitch) ||
          decide (k.rect.dst + i * k.rect.dstPitch + k.rect.width ≤ a)) = true → t.store.get a = s.store.get a) ∧
        t.slot u = { s.slot u with running := none, freeAt := s.time, job := Job.idle } ∧
        (∀ v, v ≠ u → t.slot v = s.slot v) ∧
        t.usher.done = s.usher.done ++ [s.completion k (unitOf u) 0 [k.rect.rows, k.rect.width * k.rect.rows, k.copyOrder]] ∧
        t.ctr (C.ENG_CNT_TASKS u) = (C.ENG_CNT_TASKS u).plus (s.ctr (C.ENG_CNT_TASKS u)) 1 ∧
        t.g (F.ENG_PROGRESS_DONE u) = (k.rect.width * k.rect.rows) % 2 ^ 32 ∧
        sameRegs [F.ENG_PROGRESS u, (C.ENG_CNT_TASKS u).off, F.PCI_LINK] s t ∧
        t = { s with regs := t.regs, moment := t.moment, agenda := t.agenda, pcie := t.pcie, store := t.store, storeBad := t.storeBad
                     usher := { s.usher with rings := t.usher.rings, done := t.usher.done, slots := t.usher.slots } }) ∧
    (∀ (u : Nat) (k : Task) (x : Option (List Byte)) (c : Nat),
      (s.slot u).running = some k →
      k.sq < 16 →
      u < 4 →
      k.op = 0x10 ∨ k.op = 0x11 →
      (s.slot u).job.phase = 1 →
      s.now < (s.slot u).job.due ∨ (k.readsHost || k.writesHost) = true ∧ s.mayRequest = false →
      Completes (.taskEnd u x c) s fun t =>
        t = s) ∧
    (∀ (u : Nat) (x : Option (List Byte)) (c : Nat),
      12 ≤ u ∨ (s.slot u).running = none ∨ (s.slot u).job.phase = 0 →
      Completes (.taskEnd u x c) s fun t =>
        t = s) ∧
    (∀ (u : Nat) (k : Task) (j : Job) (x : Option (List Byte)) (c : Nat),
      (s.slot u).running = some k →
      k.sq < 16 →
      u = 4 ∨ u = 5 →
      k.op = 0x20 →
      (s.slot u).job.phase = 2 →
      j = (s.slot u).job →
      j.status ≠ 0x8203 →
      k.kind < 3 →
      k.w 8 % 2 = 1 ∨ s.bankInUse k.kind k.target k.bank = true →
      Completes (.taskEnd u x c) s fun t =>
        t.slot u = { s.slot u with running := none, freeAt := s.time, job := Job.idle } ∧
        (∀ v, v ≠ u → t.slot v = s.slot v) ∧
        t.usher.done = s.usher.done ++ [s.completion k (unitOf u) j.status [j.bytes, 0]] ∧
        t.ctr (C.ENG_CNT_TASKS u) = (C.ENG_CNT_TASKS u).plus (s.ctr (C.ENG_CNT_TASKS u)) 1 ∧
        sameRegs [(C.ENG_CNT_TASKS u).off, (C.ENG_CNT_ABANDON u).off, C.USH_CNT_FAIL.off, F.USH_FLAGS, (C.USH_CNT_NQ_LOST 1).off] s t ∧
        t = { s with regs := t.regs, moment := t.moment, agenda := t.agenda, notices := t.notices
                     usher := { s.usher with rings := t.usher.rings, done := t.usher.done, slots := t.usher.slots } }) ∧
    (∀ (u a : Nat) (k : Task) (j : Job) (l : List Byte) (c : Nat),
      (s.slot u).running = some k →
      k.sq < 16 →
      u = 4 ∨ u = 5 →
      k.op = 0x20 →
      (s.slot u).job.phase = 2 →
      j = (s.slot u).job →
      j.status ≠ 0x8203 →
      k.kind < 3 →
      k.w 8 % 2 = 0 →
      s.bankInUse k.kind k.target k.bank = false →
      loadBase k.kind k.target k.bank = some a →
      Completes (.taskEnd u (some l) c) s fun t =>
        t.store = s.store.write a (l.take j.bytes) ∧
        t.slot u = { s.slot u with running := none, freeAt := s.time, job := Job.idle } ∧
        (∀ v, v ≠ u → t.slot v = s.slot v) ∧
        t.usher.done = s.usher.done ++ [s.completion k (unitOf u) j.status [j.bytes, 0]] ∧
        t.ctr (C.ENG_CNT_TASKS u) = (C.ENG_CNT_TASKS u).plus (s.ctr (C.ENG_CNT_TASKS u)) 1 ∧
        sameRegs [(C.ENG_CNT_TASKS u).off, (C.ENG_CNT_ABANDON u).off, C.USH_CNT_FAIL.off, F.USH_FLAGS, (C.USH_CNT_NQ_LOST 1).off] s t ∧
        t = { s with regs := t.regs, moment := t.moment, agenda := t.agenda, notices := t.notices, store := t.store, storeBad := t.storeBad
                     usher := { s.usher with rings := t.usher.rings, done := t.usher.done, slots := t.usher.slots } }) ∧
    (∀ (k : Task) (x : Option (List Byte)) (c : Nat),
      (s.slot 6).running = some k →
      k.sq < 16 →
      (s.slot 6).job.phase = 2 →
      (s.slot 6).job.due ≤ s.now →
      s.storeBad = [] →
      k.op = 0x30 ∨ k.op = 0x31 →
      Completes (.taskEnd 6 x c) s fun t =>
        (t.slot 6).running = none ∧ (t.slot 6).job = Job.idle ∧ (∀ v, v ≠ 6 → t.slot v = s.slot v) ∧
        (∃ n add spill, t.usher.done = s.usher.done ++ [s.completion k 0 0 ((s.slot 6).job.calWords n add spill)]) ∧
        t.newel = s.newel ∧ t.cams = s.cams ∧ t.stations = s.stations ∧ t.archive = s.archive ∧ t.pcie = s.pcie) ∧
    (∀ (k : Task) (x : Option (List Byte)) (c : Nat),
      (s.slot 7).running = some k →
      k.sq < 16 →
      k.op = 0x41 →
      (s.slot 7).job.phase = 3 →
      (s.slot 7).job.due ≤ s.now →
      (s.slot 7).job.aborted = false →
      (∀ b ∈ s.archiveBad, b < k.w 4 ∨ k.w 4 + k.w 5 ≤ b) →
      Completes (.taskEnd 7 x c) s fun t =>
        t.store.read (k.q 6) (256 * k.w 5) = s.archive.read (256 * k.w 4) (256 * k.w 5) ∧
        (∀ a, (a < k.q 6 ∨ k.q 6 + 256 * k.w 5 ≤ a) → t.store.get a = s.store.get a) ∧ t.archive = s.archive ∧
        t.slot 7 = { s.slot 7 with running := none, freeAt := s.time, job := Job.idle } ∧
        (∀ v, v ≠ 7 → t.slot v = s.slot v) ∧
        t.usher.done = s.usher.done ++ [s.completion k (0) 0 [k.w 5, 0, 0, 0, 0xFFFFFFFF]] ∧
        t.ctr C.ARC_CNT_CORR = C.ARC_CNT_CORR.plus (s.ctr C.ARC_CNT_CORR) c ∧
        t.ctr (C.ENG_CNT_TASKS 7) = (C.ENG_CNT_TASKS 7).plus (s.ctr (C.ENG_CNT_TASKS 7)) 1 ∧
        sameRegs [F.ENG_PROGRESS 7, (C.ENG_CNT_TASKS 7).off, C.ARC_CNT_CORR.off] s t ∧
        t = { s with regs := t.regs, moment := t.moment, agenda := t.agenda, store := t.store, storeBad := t.storeBad
                     usher := { s.usher with rings := t.usher.rings, done := t.usher.done, slots := t.usher.slots } }) ∧
    (∀ (k : Task) (b : Nat) (x : Option (List Byte)) (c : Nat),
      (s.slot 7).running = some k →
      k.sq < 16 →
      k.op = 0x41 →
      (s.slot 7).job.phase = 3 →
      (s.slot 7).job.due ≤ s.now →
      (s.slot 7).job.aborted = false →
      b < k.w 5 →
      s.archiveBad.contains (k.w 4 + b) = true →
      (∀ i ∈ List.range b, s.archiveBad.contains (k.w 4 + i) = false) →
      Completes (.taskEnd 7 x c) s fun t =>
        t.store.read (k.q 6) (256 * b) = s.archive.read (256 * k.w 4) (256 * b) ∧
        (∀ a, (a < k.q 6 ∨ k.q 6 + 256 * b ≤ a) → t.store.get a = s.store.get a) ∧ t.archive = s.archive ∧
        t.slot 7 = { s.slot 7 with running := none, freeAt := s.time, job := Job.idle } ∧
        (∀ v, v ≠ 7 → t.slot v = s.slot v) ∧
        t.usher.done = s.usher.done ++ [s.completion k (0) 0x8208 [b, 0, 0, 0, k.w 4 + b]] ∧
        t.ctr C.USH_CNT_FAIL = C.USH_CNT_FAIL.plus (s.ctr C.USH_CNT_FAIL) 1 ∧
        (s.on (F.USH_SQ_CTRL_HALT_ERR k.sq) = true → bitN (t.g F.USH_FLAGS_HALTED) k.sq = true) ∧
        sameRegs [F.ENG_PROGRESS 7, (C.ENG_CNT_TASKS 7).off, C.ARC_CNT_CORR.off, C.USH_CNT_FAIL.off, F.USH_FLAGS, (C.USH_CNT_NQ_LOST 1).off] s t ∧
        t = { s with regs := t.regs, moment := t.moment, agenda := t.agenda, notices := t.notices, store := t.store, storeBad := t.storeBad
                     usher := { s.usher with rings := t.usher.rings, done := t.usher.done, slots := t.usher.slots } }) ∧
    (∀ (u : Nat) (k : Task) (x : Option (List Byte)) (c : Nat),
      8 ≤ u →
      u < 12 →
      (s.slot u).running = some k →
      (s.slot u).job.phase = 1 →
      k.sq < 16 →
      (s.slot u).job.aborted = true →
      (s.slot u).job.due ≤ s.now →
      Completes (.taskEnd u x c) s fun t =>
        t.slot u = { s.slot u with running := none, freeAt := s.time, job := Job.idle } ∧
        (∀ v, v ≠ u → t.slot v = s.slot v) ∧
        t.usher.done = s.usher.done ++ [s.completion k (unitOf u) 0x8004 []] ∧
        t.ctr C.USH_CNT_FAIL = C.USH_CNT_FAIL.plus (s.ctr C.USH_CNT_FAIL) 1 ∧
        (s.on (F.USH_SQ_CTRL_HALT_ERR k.sq) = true → bitN (t.g F.USH_FLAGS_HALTED) k.sq = true) ∧
        sameRegs [C.USH_CNT_FAIL.off, F.USH_FLAGS, (C.USH_CNT_NQ_LOST 1).off] s t ∧
        t = { s with regs := t.regs, moment := t.moment, agenda := t.agenda, notices := t.notices
                     usher := { s.usher with rings := t.usher.rings, done := t.usher.done, slots := t.usher.slots } }) ∧
    (∀ (u : Nat) (k : Task) (x : Option (List Byte)) (c : Nat),
      8 ≤ u →
      u < 12 →
      (s.slot u).running = some k →
      (s.slot u).job.phase = 1 →
      k.sq < 16 →
      (s.slot u).job.aborted = false →
      (s.pipe (u - 8)).capture = some 0 →
      (s.pipe (u - 8)).frames.all (fun r => r.flight || (r.complete && r.readOut s.time && s.partsClosed (u - 8) r)) = true →
      Completes (.taskEnd u x c) s fun t =>
        t.slot u = { s.slot u with running := none, freeAt := s.time, job := Job.idle } ∧
        (∀ v, v ≠ u → t.slot v = s.slot v) ∧
        t.usher.done = s.usher.done ++ [s.completion k (unitOf u) 0 []] ∧
        t.pipes = (modNth s.pipes (u - 8) fun y => { y with capture := none, prev := none }) ∧
        t = { s with agenda := t.agenda, pipes := t.pipes
                     usher := { s.usher with rings := t.usher.rings, done := t.usher.done, slots := t.usher.slots } }) ∧
    (∀ (u : Nat) (k : Task) (x : Option (List Byte)) (c : Nat),
      8 ≤ u →
      u < 12 →
      (s.slot u).running = some k →
      (s.slot u).job.phase = 1 →
      k.sq < 16 →
      (if (s.slot u).job.aborted then s.now < (s.slot u).job.due else (s.pipe (u - 8)).capture ≠ some 0) →
      Completes (.taskEnd u x c) s fun t =>
        t = s) ∧
    (∀ (k : Task) (j : Job) (n c : Nat),
      (s.slot 7).running = some k →
      k.sq < 16 →
      k.op = 0x40 →
      (s.slot 7).job.phase = 2 →
      j = (s.slot 7).job →
      n = j.count + j.skipped →
      n + 1 = k.w 5 →
      Completes (.arcBlockWritten true c) s fun t =>
        t.archive.read (256 * (k.w 4 + n)) 256 = s.store.read (k.q 6 + 256 * n) 256 ∧
        (∀ a, a / 256 ≠ k.w 4 + n → t.archive.get a = s.archive.get a) ∧
        t.ctr C.ARC_CNT_CORR = C.ARC_CNT_CORR.plus (s.ctr C.ARC_CNT_CORR) c ∧
        t.slot 7 = { s.slot 7 with running := none, freeAt := s.time, job := Job.idle } ∧
        (∀ v, v ≠ 7 → t.slot v = s.slot v) ∧
        t.usher.done = s.usher.done ++ [s.completion k (0) 0 [j.count + 1, j.skipped, j.retries, j.wear, 0xFFFFFFFF]] ∧
        sameRegs [F.ENG_PROGRESS 7, (C.ENG_CNT_TASKS 7).off, C.ARC_CNT_CORR.off] s t ∧
        t = { s with regs := t.regs, moment := t.moment, agenda := t.agenda, archive := t.archive, archiveBad := t.archiveBad
                     usher := { s.usher with rings := t.usher.rings, done := t.usher.done, slots := t.usher.slots } }) ∧
    (∀ (k : Task) (j : Job) (n c : Nat),
      (s.slot 7).running = some k →
      k.sq < 16 →
      k.op = 0x40 →
      (s.slot 7).job.phase = 2 →
      j = (s.slot 7).job →
      n = j.count + j.skipped →
      n + 1 < k.w 5 →
      j.aborted = true →
      Completes (.arcBlockWritten true c) s fun t =>
        t.archive.read (256 * (k.w 4 + n)) 256 = s.store.read (k.q 6 + 256 * n) 256 ∧
        (∀ a, a / 256 ≠ k.w 4 + n → t.archive.get a = s.archive.get a) ∧
        t.ctr C.ARC_CNT_CORR = C.ARC_CNT_CORR.plus (s.ctr C.ARC_CNT_CORR) c ∧
        t.slot 7 = { s.slot 7 with running := none, freeAt := s.time, job := Job.idle } ∧
        (∀ v, v ≠ 7 → t.slot v = s.slot v) ∧
        t.usher.done = s.usher.done ++ [s.completion k (0) 0x8004 [j.count + 1, j.skipped, j.retries, j.wear, 0xFFFFFFFF]] ∧
        t.ctr C.USH_CNT_FAIL = C.USH_CNT_FAIL.plus (s.ctr C.USH_CNT_FAIL) 1 ∧
        (s.on (F.USH_SQ_CTRL_HALT_ERR k.sq) = true → bitN (t.g F.USH_FLAGS_HALTED) k.sq = true) ∧
        sameRegs [F.ENG_PROGRESS 7, (C.ENG_CNT_TASKS 7).off, (C.ENG_CNT_ABANDON 7).off, C.ARC_CNT_CORR.off, C.USH_CNT_FAIL.off, F.USH_FLAGS, (C.USH_CNT_NQ_LOST 1).off] s t ∧
        t = { s with regs := t.regs, moment := t.moment, agenda := t.agenda, notices := t.notices, archive := t.archive, archiveBad := t.archiveBad
                     usher := { s.usher with rings := t.usher.rings, done := t.usher.done, slots := t.usher.slots } }) ∧
    (∀ (k : Task) (j : Job) (n c : Nat),
      (s.slot 7).running = some k →
      k.sq < 16 →
      k.op = 0x40 →
      (s.slot 7).job.phase = 2 →
      j = (s.slot 7).job →
      n = j.count + j.skipped →
      n + 1 < k.w 5 →
      j.aborted = false →
      s.on F.ARC_STATUS_BUSY = true →
      Completes (.arcBlockWritten true c) s fun t =>
        t.archive.read (256 * (k.w 4 + n)) 256 = s.store.read (k.q 6 + 256 * n) 256 ∧
        (∀ a, a / 256 ≠ k.w 4 + n → t.archive.get a = s.archive.get a) ∧
        t.ctr C.ARC_CNT_CORR = C.ARC_CNT_CORR.plus (s.ctr C.ARC_CNT_CORR) c ∧
        (t.slot 7).job = { j with phase := 1, count := j.count + 1, due := s.now } ∧ (t.slot 7).running = some k ∧
        (∀ v, v ≠ 7 → t.slot v = s.slot v) ∧ t.g (F.ENG_PROGRESS_DONE 7) = (n + 1) % 2 ^ 32 ∧
        sameRegs [F.ENG_PROGRESS 7, C.ARC_CNT_CORR.off] s t ∧
        t = { s with regs := t.regs, moment := t.moment, agenda := t.agenda, archive := t.archive, archiveBad := t.archiveBad
                     usher := { s.usher with slots := t.usher.slots } }) ∧
    (∀ (k : Task) (j : Job) (n c : Nat),
      (s.slot 7).running = some k →
      k.sq < 16 →
      k.op = 0x40 →
      (s.slot 7).job.phase = 2 →
      j = (s.slot 7).job →
      n = j.count + j.skipped →
      j.tries < 4 →
      s.wearOf (k.w 4 + n) + 1 < 1000000 →
      Completes (.arcBlockWritten false c) s fun t =>
        t.wearOf (k.w 4 + n) = s.wearOf (k.w 4 + n) + 1 ∧ (∀ a, a ≠ k.w 4 + n → t.wearOf a = s.wearOf a) ∧ t.archive = s.archive ∧
        (t.slot 7).job.tries = j.tries + 1 ∧ (t.slot 7).job.retries = j.retries + 1 ∧ (t.slot 7).running = some k ∧
        (s.now + 60000, Instr.arcBlockWritten true 0) ∈ t.agenda ∧
        t.ctr C.ENG_CNT_ARC_RETRY = C.ENG_CNT_ARC_RETRY.plus (s.ctr C.ENG_CNT_ARC_RETRY) 1 ∧
        sameRegs [C.ENG_CNT_ARC_RETRY.off, C.ARC_CNT_CORR.off] s t ∧
        t = { s with regs := t.regs, moment := t.moment, agenda := t.agenda, wear := t.wear, usher := { s.usher with slots := t.usher.slots } }) ∧
    (∀ (k : Task) (j : Job) (n c : Nat),
      (s.slot 7).running = some k →
      k.sq < 16 →
      k.op = 0x40 →
      (s.slot 7).job.phase = 2 →
      j = (s.slot 7).job →
      n = j.count + j.skipped →
      4 ≤ j.tries →
      Completes (.arcBlockWritten false c) s fun t =>
        (∀ a, a / 256 ≠ k.w 4 + n → t.archive.get a = s.archive.get a) ∧
        t.ctr C.ENG_CNT_ARC_FAIL = C.ENG_CNT_ARC_FAIL.plus (s.ctr C.ENG_CNT_ARC_FAIL) 1 ∧
        t.slot 7 = { s.slot 7 with running := none, freeAt := s.time, job := Job.idle } ∧
        (∀ v, v ≠ 7 → t.slot v = s.slot v) ∧
        t.usher.done = s.usher.done ++ [s.completion k (0) 0x8207 [j.count, j.skipped, j.retries, j.wear, k.w 4 + n]] ∧
        t.ctr C.USH_CNT_FAIL = C.USH_CNT_FAIL.plus (s.ctr C.USH_CNT_FAIL) 1 ∧
        (s.on (F.USH_SQ_CTRL_HALT_ERR k.sq) = true → bitN (t.g F.USH_FLAGS_HALTED) k.sq = true) ∧
        sameRegs [C.ENG_CNT_ARC_FAIL.off, C.ARC_CNT_CORR.off, (C.ENG_CNT_TASKS 7).off, C.USH_CNT_FAIL.off, F.USH_FLAGS, (C.USH_CNT_NQ_LOST 1).off] s t ∧
        t = { s with regs := t.regs, moment := t.moment, agenda := t.agenda, notices := t.notices, archive := t.archive, archiveBad := t.archiveBad, freeCount := t.freeCount
                     usher := { s.usher with rings := t.usher.rings, done := t.usher.done, slots := t.usher.slots } }) ∧
    (∀ (g : Bool) (c : Nat),
      (s.slot 7).running.all (fun k => k.op != 0x40 || (s.slot 7).job.phase != 2) = true →
      Completes (.arcBlockWritten g c) s fun t =>
        t = s) ∧
    (∀ (u m : Nat) (k : Task),
      u < 12 →
      (s.slot u).running = some k →
      k.sq < 16 →
      bitN m u = true →
      (∀ v ∈ List.range 12, bitN m v = true → v ≠ u → (s.slot v).running = none) →
      (s.slot u).job.aborted = false →
      (s.slot u).job.phase = 0 →
      Completes (.abort m) s fun t =>
        t.slot u = { s.slot u with running := none, freeAt := s.time, job := Job.idle } ∧
        (∀ v, v ≠ u → t.slot v = s.slot v) ∧
        t.usher.done = s.usher.done ++ [s.completion k (unitOf u) 0x8004 []] ∧
        (u < 8 → t.ctr (C.ENG_CNT_ABANDON u) = (C.ENG_CNT_ABANDON u).plus (s.ctr (C.ENG_CNT_ABANDON u)) 1) ∧
        t.ctr C.USH_CNT_FAIL = C.USH_CNT_FAIL.plus (s.ctr C.USH_CNT_FAIL) 1 ∧
        (s.on (F.USH_SQ_CTRL_HALT_ERR k.sq) = true → bitN (t.g F.USH_FLAGS_HALTED) k.sq = true) ∧
        sameRegs [(C.ENG_CNT_ABANDON u).off, (C.ENG_CNT_TASKS u).off, C.USH_CNT_FAIL.off, F.USH_FLAGS, (C.USH_CNT_NQ_LOST 1).off] s t ∧
        t = { s with regs := t.regs, moment := t.moment, agenda := t.agenda, notices := t.notices
                     usher := { s.usher with rings := t.usher.rings, done := t.usher.done, slots := t.usher.slots } }) ∧
    (∀ (u m : Nat) (k : Task) (n b : Nat),
      u < 12 →
      (s.slot u).running = some k →
      k.sq < 16 →
      bitN m u = true →
      (∀ v ∈ List.range 12, bitN m v = true → v ≠ u → (s.slot v).running = none) →
      (s.slot u).job.aborted = false →
      u < 4 →
      k.op = 0x10 ∨ k.op = 0x11 →
      (s.slot u).job.phase ≠ 0 →
      (n, b) = s.rectProgress u k →
      k.w 8 % 4 = 3 ∨ k.op = 0x11 ∧ k.w 8 % 4 = 2 →
      Completes (.abort m) s fun t =>
        t.slot u = { s.slot u with running := none, freeAt := s.time, job := Job.idle } ∧
        (∀ v, v ≠ u → t.slot v = s.slot v) ∧
        t.usher.done = s.usher.done ++ [s.completion k (unitOf u) 0x8004 [n, n * k.rect.width + b, k.copyOrder]] ∧
        (u < 8 → t.ctr (C.ENG_CNT_ABANDON u) = (C.ENG_CNT_ABANDON u).plus (s.ctr (C.ENG_CNT_ABANDON u)) 1) ∧
        t.ctr C.USH_CNT_FAIL = C.USH_CNT_FAIL.plus (s.ctr C.USH_CNT_FAIL) 1 ∧
        (s.on (F.USH_SQ_CTRL_HALT_ERR k.sq) = true → bitN (t.g F.USH_FLAGS_HALTED) k.sq = true) ∧
        t.g (F.ENG_PROGRESS_DONE u) = (n * k.rect.width + b) % 2 ^ 32 ∧
        (∀ a, (List.range k.rect.rows).all (fun i => decide (a < k.rect.dst + i * k.rect.dstPitch) ||
          decide (k.rect.dst + i * k.rect.dstPitch + k.rect.width ≤ a)) = true → t.store.get a = s.store.get a) ∧
        sameRegs [(C.ENG_CNT_ABANDON u).off, (C.ENG_CNT_TASKS u).off, C.USH_CNT_FAIL.off, F.USH_FLAGS, (C.USH_CNT_NQ_LOST 1).off, F.ENG_PROGRESS u] s t ∧
        t = { s with regs := t.regs, moment := t.moment, agenda := t.agenda, notices := t.notices, store := t.store, storeBad := t.storeBad
                     usher := { s.usher with rings := t.usher.rings, done := t.usher.done, slots := t.usher.slots } }) ∧
    (∀ (u m : Nat) (k : Task),
      u < 12 →
      (s.slot u).running = some k →
      k.sq < 16 →
      bitN m u = true →
      (∀ v ∈ List.range 12, bitN m v = true → v ≠ u → (s.slot v).running = none) →
      (s.slot u).job.aborted = false →
      u = 4 ∨ u = 5 →
      (s.slot u).job.phase = 1 →
      s.now < (s.slot u).job.due ∨ (s.slot u).job.phase = 2 →
      Completes (.abort m) s fun t =>
        t = { s with usher := { s.usher with slots := modNth s.usher.slots u fun x => { x with job := { x.job with aborted := true } } } }) ∧
    (∀ (u m : Nat) (k : Task),
      u < 12 →
      (s.slot u).running = some k →
      k.sq < 16 →
      bitN m u = true →
      (∀ v ∈ List.range 12, bitN m v = true → v ≠ u → (s.slot v).running = none) →
      (s.slot u).job.aborted = false →
      u = 6 →
      (s.slot u).job.phase ≠ 0 →
      Completes (.abort m) s fun t =>
        t.slot u = { s.slot u with running := none, freeAt := s.time, job := Job.idle } ∧
        (∀ v, v ≠ u → t.slot v = s.slot v) ∧
        t.usher.done = s.usher.done ++ [s.completion k (unitOf u) 0x8004 ((s.slot 6).job.calWords 0 0 0)] ∧
        (u < 8 → t.ctr (C.ENG_CNT_ABANDON u) = (C.ENG_CNT_ABANDON u).plus (s.ctr (C.ENG_CNT_ABANDON u)) 1) ∧
        t.ctr C.USH_CNT_FAIL = C.USH_CNT_FAIL.plus (s.ctr C.USH_CNT_FAIL) 1 ∧
        (s.on (F.USH_SQ_CTRL_HALT_ERR k.sq) = true → bitN (t.g F.USH_FLAGS_HALTED) k.sq = true) ∧
        sameRegs [(C.ENG_CNT_ABANDON u).off, (C.ENG_CNT_TASKS u).off, C.USH_CNT_FAIL.off, F.USH_FLAGS, (C.USH_CNT_NQ_LOST 1).off] s t ∧
        t = { s with regs := t.regs, moment := t.moment, agenda := t.agenda, notices := t.notices
                     usher := { s.usher with rings := t.usher.rings, done := t.usher.done, slots := t.usher.slots, calPipe := none, calIn := [] } }) ∧
    (∀ (u m : Nat) (k : Task),
      u < 12 →
      (s.slot u).running = some k →
      k.sq < 16 →
      bitN m u = true →
      (∀ v ∈ List.range 12, bitN m v = true → v ≠ u → (s.slot v).running = none) →
      (s.slot u).job.aborted = false →
      u = 7 →
      k.op = 0x40 →
      (s.slot u).job.phase = 2 →
      Completes (.abort m) s fun t =>
        t = { s with usher := { s.usher with slots := modNth s.usher.slots u fun x => { x with job := { x.job with aborted := true } } } }) ∧
    (∀ (u m : Nat) (k : Task),
      u < 12 →
      (s.slot u).running = some k →
      k.sq < 16 →
      bitN m u = true →
      (∀ v ∈ List.range 12, bitN m v = true → v ≠ u → (s.slot v).running = none) →
      (s.slot u).job.aborted = false →
      8 ≤ u →
      (s.slot u).job.phase = 1 →
      Completes (.abort m) s fun t =>
        (t.slot u).job.aborted = true ∧ (t.slot u).running = some k ∧ (∀ v, v ≠ u → t.slot v = s.slot v) ∧
        (t.pipe (u - 8)).capture = none ∧ t.agenda.any (fun e => e.2 == .taskEnd u none 0) = true ∧ t.newel = s.newel ∧ t.cams = s.cams ∧
        t.stations = s.stations ∧ t.store = s.store ∧ t.archive = s.archive) ∧
    (∀ (m : Nat),
      (∀ v ∈ List.range 12, bitN m v = true → (s.slot v).running = none ∨ (s.slot v).job.aborted = true) →
      Completes (.abort m) s fun t =>
        t = s) ∧
    (∀ (u n b : Nat) (k : Task),
      (s.slot u).running = some k →
      k.sq < 16 →
      u < 4 →
      k.op = 0x10 →
      k.w 8 % 2 = 0 →
      (s.slot u).job.phase = 1 →
      (n, b) = s.rectProgress u k →
      Completes (.deviceReadError u) s fun t =>
        t.slot u = { s.slot u with running := none, freeAt := s.time, job := Job.idle } ∧
        (∀ v, v ≠ u → t.slot v = s.slot v) ∧
        t.usher.done = s.usher.done ++ [s.completion k (unitOf u) 0x8008 [n, n * k.rect.width + b, k.copyOrder]] ∧
        t.ctr C.USH_CNT_FAIL = C.USH_CNT_FAIL.plus (s.ctr C.USH_CNT_FAIL) 1 ∧
        (s.on (F.USH_SQ_CTRL_HALT_ERR k.sq) = true → bitN (t.g F.USH_FLAGS_HALTED) k.sq = true) ∧
        t.g (F.ENG_PROGRESS_DONE u) = (n * k.rect.width + b) % 2 ^ 32 ∧ ((n, b) = (0, 0) → t.store = s.store ∧ t.pcie = s.pcie) ∧
        sameRegs [F.ENG_PROGRESS u, (C.ENG_CNT_TASKS u).off, F.PCI_LINK, C.USH_CNT_FAIL.off, F.USH_FLAGS, (C.USH_CNT_NQ_LOST 1).off] s t ∧
        t = { s with regs := t.regs, moment := t.moment, agenda := t.agenda, notices := t.notices, freeCount := t.freeCount, store := t.store
                     storeBad := t.storeBad, pcie := t.pcie
                     usher := { s.usher with rings := t.usher.rings, done := t.usher.done, slots := t.usher.slots } }) ∧
    (∀ (u : Nat) (k : Task),
      (s.slot u).running = some k →
      u = 4 ∨ u = 5 →
      k.op = 0x20 →
      k.w 8 % 2 = 0 →
      (s.slot u).job.phase = 1 →
      Completes (.deviceReadError u) s fun t =>
        t.agenda = s.agenda ++ [(s.now, .taskEnd u none 0)] ∧
        t = { s with agenda := t.agenda, usher := { s.usher with slots := modNth s.usher.slots u fun x =>
          { x with job := { x.job with phase := 2, status := 0x8008, due := s.now } } } }) ∧
    (∀ (u : Nat),
      6 ≤ u ∨ (s.slot u).running.all (fun k => !k.readsHost || (s.slot u).job.phase != 1) = true →
      Completes (.deviceReadError u) s fun t =>
        t = s)

/-- A completion that is due leaves: its result words first, its record at the tail of its ring, the first word last, and its event arrives; one that is QUIET frees its slot only. COUNT of them signal by the ring's vector, fewer start its timer. An arm completes when every pipeline of the flight has landed; a disarm when none has a flight frame left, which unbinds them. The first enable of NQ1 after a reset owes the boot report, first. A ring that is enabled, has room and may write posts what it holds, the count of lost notices before. The timer signals a ring whose first unsignalled record is old enough: a masked vector pends, one that may send sends its message, and one that may not waits. What is not due, or has nothing to do, changes nothing but when records are next looked at. -/
def Obligations.CompletionsAndNotices : Prop :=
  ∀ s : State,
    (∀ (d : Done) (a : Nat),
      s.mayRequest = true →
      s.usherRuns = true →
      s.usher.done = [d] →
      d.due ≤ s.time →
      d.cq < 8 →
      d.res = none →
      d.event = none →
      d.quiet = false →
      s.on (F.USH_CQ_CTRL_EN d.cq) = true →
      a = s.ringBase (F.USH_CQ_BASE_LO_ADDR d.cq) (F.USH_CQ_BASE_HI_ADDR d.cq) +
        64 * (s.g (F.USH_CQ_STATUS_TAIL d.cq) % s.cqSize d.cq) →
      Completes .completionWrite s fun t =>
        t.usher.done = [] ∧ t.g (F.USH_CQ_STATUS_TAIL d.cq) = (s.g (F.USH_CQ_STATUS_TAIL d.cq) + 1) % 131072 ∧
        t.g (F.USH_CQ_RESV_RESERVED d.cq) = s.g (F.USH_CQ_RESV_RESERVED d.cq) - 1 ∧
        t.pcie.hostMem = (s.pcie.hostMem.write (a + 4) ((d.words.drop 1).flatMap fun x => leBytes x 4)).write a (leBytes
          (nth d.words 0 0 + (if s.g (F.USH_CQ_STATUS_TAIL d.cq) / s.cqSize d.cq % 2 = 0 then 2 ^ 31 else 0)) 4) ∧
        sameRegs [F.USH_CQ_STATUS d.cq, F.USH_CQ_RESV d.cq, F.PCI_LINK] s t ∧
        t = { s with regs := t.regs, agenda := t.agenda, pcie := t.pcie
                     usher := { s.usher with done := t.usher.done, signals := t.usher.signals, heldVectors := t.usher.heldVectors } }) ∧
    (∀ (d : Done) (a : Nat) (v : Nat),
      s.mayRequest = true →
      s.usherRuns = true →
      s.usher.done = [d] →
      d.due ≤ s.time →
      d.cq < 8 →
      d.res = none →
      d.event = none →
      d.quiet = false →
      s.on (F.USH_CQ_CTRL_EN d.cq) = true →
      a = s.ringBase (F.USH_CQ_BASE_LO_ADDR d.cq) (F.USH_CQ_BASE_HI_ADDR d.cq) +
        64 * (s.g (F.USH_CQ_STATUS_TAIL d.cq) % s.cqSize d.cq) →
      v = s.g (F.USH_CQ_CTRL_VECTOR d.cq) →
      s.g (F.USH_CQ_IRQ_COUNT d.cq) ≤ (nth s.usher.signals d.cq (0, 0)).1 + 1 →
      Completes .completionWrite s fun t =>
        ((s.vector v).masked = false → s.functionMask = false → (s.vector v).addr ≠ 0 →
          t.pcie.sent.getLast? = some (.msix (s.vector v).addr (s.vector v).data)) ∧
        ((s.vector v).masked = true → t.pcie.vectors = (modNth s.pcie.vectors v fun x => { x with pending := true })) ∧
        nth t.usher.signals d.cq (0, 0) = (0, 0)) ∧
    (∀ (d : Done),
      s.mayRequest = true →
      s.usherRuns = true →
      s.usher.done = [d] →
      d.due ≤ s.time →
      d.cq < 8 →
      d.res = none →
      d.event = none →
      d.quiet = false →
      s.on (F.USH_CQ_CTRL_EN d.cq) = true →
      (nth s.usher.signals d.cq (0, 0)).1 + 1 < s.g (F.USH_CQ_IRQ_COUNT d.cq) →
      Completes .completionWrite s fun t =>
        t.pcie.vectors = s.pcie.vectors ∧ t.usher.heldVectors = s.usher.heldVectors ∧
        t.usher.signals = (modNth s.usher.signals d.cq fun x => (x.1 + 1, if x.1 = 0 then s.time else x.2)) ∧
        ((nth s.usher.signals d.cq (0, 0)).1 = 0 → s.g (F.USH_CQ_IRQ_TIME_US d.cq) ≠ 0 →
          (s.now + 1500 * s.g (F.USH_CQ_IRQ_TIME_US d.cq), Instr.vectorTimer) ∈ t.agenda)) ∧
    (∀ (d : Done) (i : Nat),
      s.mayRequest = true →
      s.usherRuns = true →
      s.usher.done = [d] →
      d.due ≤ s.time →
      d.cq < 8 →
      d.res = some i →
      d.event = none →
      i < 4096 →
      d.words.length = 16 →
      d.quiet = false →
      s.on (F.USH_CQ_CTRL_EN d.cq) = true →
      Completes .completionWrite s fun t =>
        t.store = s.store.write (0x3000000 + 64 * i) ((d.words.drop 8).flatMap fun x => leBytes x 4) ∧ t.usher.done = [] ∧
        t.g (F.USH_CQ_STATUS_TAIL d.cq) = (s.g (F.USH_CQ_STATUS_TAIL d.cq) + 1) % 131072) ∧
    (∀ (d : Done) (e : Nat),
      s.usherRuns = true →
      s.usher.done = [d] →
      d.due ≤ s.time →
      d.cq < 8 →
      d.res = none →
      d.event = some e →
      d.quiet = true →
      Completes .completionWrite s fun t =>
        t.usher.done = [] ∧ t.usher.arrivals = s.usher.arrivals ++ [(cycleAt s.time, e % 256, 1)] ∧
        t.g (F.USH_CQ_RESV_RESERVED d.cq) = s.g (F.USH_CQ_RESV_RESERVED d.cq) - 1 ∧ sameRegs [F.USH_CQ_RESV d.cq] s t ∧
        t = { s with regs := t.regs, agenda := t.agenda, usher := { s.usher with done := [], arrivals := t.usher.arrivals } }) ∧
    (  s.usher.done.all (fun d => decide (s.time < d.due) || !s.usherRuns || !d.quiet &&
        (!s.on (F.USH_CQ_CTRL_EN d.cq) || !s.mayRequest)) = true →
      Completes .completionWrite s fun t =>
        t = { s with agenda := t.agenda }) ∧
    (∀ (k : Task),
      s.usher.arm = some k →
      k.sq < 16 →
      s.pipes.all (fun x => !x.bound || x.landed) = true →
      Completes .flightArmed s fun t =>
        t.usher.arm = none ∧ t.usher.done = s.usher.done ++ [s.completion k 0 0 []] ∧
        t = { s with agenda := t.agenda
                     usher := { s.usher with arm := none, done := t.usher.done, rings := t.usher.rings } }) ∧
    (  s.usher.arm = none ∨ s.pipes.any (fun x => x.bound && !x.landed) = true →
      Completes .flightArmed s fun t =>
        t = s) ∧
    (  s.on F.USH_FLIGHT_DISARMING = true →
      (∀ k ∈ s.usher.disarms, k.sq < 16) →
      s.pipes.all (fun x => !x.bound) = true →
      Completes .flightDisarmed s fun t =>
        t.g F.USH_FLIGHT_ARMED = 0 ∧ t.g F.USH_FLIGHT_PIPES = 0 ∧ t.g F.USH_FLIGHT_DISARMING = 0 ∧ t.usher.disarms = [] ∧
        t.usher.done = s.usher.done ++ s.usher.disarms.map (fun k => s.completion k 0 0 []) ∧
        sameRegs [F.USH_FLIGHT] s t ∧
        t = { s with regs := t.regs, agenda := t.agenda
                     usher := { s.usher with disarms := [], done := t.usher.done, rings := t.usher.rings } }) ∧
    (  s.on F.USH_FLIGHT_DISARMING = true →
      (∀ k ∈ s.usher.disarms, k.sq < 16) →
      s.pipes.all (fun x => !x.bound || x.frames.all fun r => !r.flight) = true →
      Completes .flightDisarmed s fun t =>
        t.g F.USH_FLIGHT_ARMED = 0 ∧ t.g F.USH_FLIGHT_PIPES = 0 ∧ t.g F.USH_FLIGHT_DISARMING = 0 ∧ t.usher.disarms = [] ∧
        t.usher.done = s.usher.done ++ s.usher.disarms.map (fun k => s.completion k 0 0 []) ∧
        (∀ p ∈ List.range 4, (t.pipe p).bound = false) ∧ (∀ p ∈ List.range 4, (s.pipe p).bound = false → t.pipe p = s.pipe p) ∧
        t.newel = s.newel ∧ t.cams = s.cams ∧ t.stations = s.stations ∧ t.store = s.store ∧ t.archive = s.archive) ∧
    (  s.on F.USH_FLIGHT_DISARMING = false ∨ s.pipes.any (fun x => x.bound && x.frames.any fun r => r.flight) = true →
      Completes .flightDisarmed s fun t =>
        t = s) ∧
    (∀ (n : Nat),
      n < 2 →
      s.boot.reportDue = false →
      s.boot.urgentDue = false →
      (∀ m ∈ List.range 2, (nth s.notices m NoticeRing.idle).held = [] ∧ (nth s.notices m NoticeRing.idle).lost = 0) →
      Completes (.noticeRingEnable n) s fun t =>
        t.g (F.USH_NQ_CTRL_EN n) = 1 ∧ sameRegs [F.USH_NQ_CTRL n] s t ∧ t = { s with regs := t.regs }) ∧
    (∀ (n : Nat),
      n < 2 →
      Completes (.noticeRingEnable n) s fun t =>
        t.g (F.USH_NQ_CTRL_EN n) = 1 ∧ (n = 1 → t.boot.reportDue = false) ∧
        (n = 1 → s.boot.reportDue = true → s.mayRequest = false → (nth s.notices 1 NoticeRing.idle).held = [] → 2 ≤ s.notices.length →
          (nth t.notices 1 NoticeRing.idle).held.map (fun x => (x.code, x.nseq, x.payload)) =
            [(0x0410, (nth s.notices 1 NoticeRing.idle).nseq, [(s.regs.get F.PWR_RESET_CAUSE).toNat,
              (s.regs.get F.PWR_BOOT_STATUS).toNat, (s.regs.get F.PWR_BOOT_US).toNat])]) ∧
        t.newel = s.newel ∧ t.cams = s.cams ∧ t.stations = s.stations ∧ t.store = s.store ∧ t.archive = s.archive) ∧
    (∀ (n : Nat),
      2 ≤ n →
      Completes (.noticeRingEnable n) s fun t =>
        t = s) ∧
    (∀ (n a : Nat) (x : Notice),
      s.mayRequest = true →
      s.usherRuns = true →
      n < 2 →
      s.on (F.USH_NQ_CTRL_EN n) = true →
      s.nqRoom n = true →
      (nth s.notices n NoticeRing.idle).held = [x] →
      (nth s.notices n NoticeRing.idle).lost = 0 →
      a = s.ringBase (F.USH_NQ_BASE_LO_ADDR n) (F.USH_NQ_BASE_HI_ADDR n) +
        64 * (s.g (F.USH_NQ_STATUS_TAIL n) % 2 ^ s.g (F.USH_NQ_CTRL_SIZE_LOG2 n)) →
      Completes (.noticePost n) s fun t =>
        (nth t.notices n NoticeRing.idle).held = [] ∧
        (nth t.notices n NoticeRing.idle).nseq = (nth s.notices n NoticeRing.idle).nseq ∧
        (∀ m, m ≠ n → nth t.notices m NoticeRing.idle = nth s.notices m NoticeRing.idle) ∧
        t.g (F.USH_NQ_STATUS_TAIL n) = (s.g (F.USH_NQ_STATUS_TAIL n) + 1) % 131072 ∧
        t.pcie.hostMem.read a 4 = leBytes (x.code + x.unit % 256 * 2 ^ 16 +
          (if s.g (F.USH_NQ_STATUS_TAIL n) / 2 ^ s.g (F.USH_NQ_CTRL_SIZE_LOG2 n) % 2 = 0 then 2 ^ 31 else 0)) 4 ∧
        t.pcie.hostMem.read (a + 4) 12 = leBytes x.nseq 4 ++ leBytes (x.stamp % 2 ^ 32) 4 ++ leBytes (x.stamp / 2 ^ 32) 4 ∧
        t.pcie.hostMem.read (a + 16) 48 = ((List.range 12).flatMap fun i => leBytes (nth x.payload i 0) 4) ∧
        (∀ b, (b < a ∨ a + 64 ≤ b) → t.pcie.hostMem.get b = s.pcie.hostMem.get b) ∧
        sameRegs [F.USH_NQ_STATUS n, F.PCI_LINK] s t ∧
        t = { s with regs := t.regs, agenda := t.agenda, pcie := t.pcie, notices := t.notices
                     usher := { s.usher with heldVectors := t.usher.heldVectors } }) ∧
    (∀ (n a : Nat) (r : NoticeRing),
      s.mayRequest = true →
      s.usherRuns = true →
      n < 2 →
      s.on (F.USH_NQ_CTRL_EN n) = true →
      s.nqRoom n = true →
      r = nth s.notices n NoticeRing.idle →
      r.held = [] →
      r.lost ≠ 0 →
      a = s.ringBase (F.USH_NQ_BASE_LO_ADDR n) (F.USH_NQ_BASE_HI_ADDR n) +
        64 * (s.g (F.USH_NQ_STATUS_TAIL n) % 2 ^ s.g (F.USH_NQ_CTRL_SIZE_LOG2 n)) →
      Completes (.noticePost n) s fun t =>
        (nth t.notices n NoticeRing.idle).held = [] ∧ (nth t.notices n NoticeRing.idle).lost = 0 ∧
        (nth t.notices n NoticeRing.idle).nseq = (r.nseq + 1) % 2 ^ 32 ∧
        (∀ m, m ≠ n → nth t.notices m NoticeRing.idle = nth s.notices m NoticeRing.idle) ∧
        t.g (F.USH_NQ_STATUS_TAIL n) = (s.g (F.USH_NQ_STATUS_TAIL n) + 1) % 131072 ∧
        t.pcie.hostMem.read a 4 = leBytes (0x0012 + n % 256 * 2 ^ 16 +
          (if s.g (F.USH_NQ_STATUS_TAIL n) / 2 ^ s.g (F.USH_NQ_CTRL_SIZE_LOG2 n) % 2 = 0 then 2 ^ 31 else 0)) 4 ∧
        t.pcie.hostMem.read (a + 4) 12 = leBytes r.nseq 4 ++ leBytes (s.time % 2 ^ 32) 4 ++ leBytes (s.time / 2 ^ 32) 4 ∧
        t.pcie.hostMem.read (a + 16) 48 = ((List.range 12).flatMap fun i => leBytes (nth [r.lost] i 0) 4) ∧
        (∀ b, (b < a ∨ a + 64 ≤ b) → t.pcie.hostMem.get b = s.pcie.hostMem.get b) ∧
        sameRegs [F.USH_NQ_STATUS n, F.PCI_LINK] s t ∧
        t = { s with regs := t.regs, agenda := t.agenda, pcie := t.pcie, notices := t.notices
                     usher := { s.usher with heldVectors := t.usher.heldVectors } }) ∧
    (∀ (n : Nat),
      2 ≤ n ∨ s.on (F.USH_NQ_CTRL_EN n) = false ∨ s.nqRoom n = false ∨ s.mayRequest = false ∨ s.usherRuns = false ∨
        ((nth s.notices n NoticeRing.idle).held = [] ∧ (nth s.notices n NoticeRing.idle).lost = 0) →
      Completes (.noticePost n) s fun t =>
        t = s) ∧
    (∀ (c v : Nat),
      c < 8 →
      s.signalsNow (nth s.usher.signals c (0, 0)).1 (nth s.usher.signals c (0, 0)).2 (s.g (F.USH_CQ_IRQ_COUNT c))
        (s.g (F.USH_CQ_IRQ_TIME_US c)) = true →
      (∀ d ∈ List.range 8, d ≠ c → s.signalsNow (nth s.usher.signals d (0, 0)).1 (nth s.usher.signals d (0, 0)).2 (s.g (F.USH_CQ_IRQ_COUNT d))
        (s.g (F.USH_CQ_IRQ_TIME_US d)) = false) →
      s.signalsNow (nth s.notices 1 NoticeRing.idle).unsignalled (nth s.notices 1 NoticeRing.idle).firstUnsignalled
        (s.g F.USH_NQ_IRQ_COUNT) (s.g F.USH_NQ_IRQ_TIME_US) = false →
      v = s.g (F.USH_CQ_CTRL_VECTOR c) →
      (s.vector v).masked = true →
      Completes .vectorTimer s fun t =>
        t.usher.signals = (modNth s.usher.signals c fun _ => (0, 0)) ∧
        t = { s with usher := { s.usher with signals := t.usher.signals }
                     pcie := { s.pcie with vectors := modNth s.pcie.vectors v fun x => { x with pending := true } } }) ∧
    (∀ (c v : Nat),
      c < 8 →
      s.signalsNow (nth s.usher.signals c (0, 0)).1 (nth s.usher.signals c (0, 0)).2 (s.g (F.USH_CQ_IRQ_COUNT c))
        (s.g (F.USH_CQ_IRQ_TIME_US c)) = true →
      (∀ d ∈ List.range 8, d ≠ c → s.signalsNow (nth s.usher.signals d (0, 0)).1 (nth s.usher.signals d (0, 0)).2 (s.g (F.USH_CQ_IRQ_COUNT d))
        (s.g (F.USH_CQ_IRQ_TIME_US d)) = false) →
      s.signalsNow (nth s.notices 1 NoticeRing.idle).unsignalled (nth s.notices 1 NoticeRing.idle).firstUnsignalled
        (s.g F.USH_NQ_IRQ_COUNT) (s.g F.USH_NQ_IRQ_TIME_US) = false →
      v = s.g (F.USH_CQ_CTRL_VECTOR c) →
      (s.vector v).masked = false →
      s.functionMask = false →
      (s.vector v).addr ≠ 0 →
      s.mayRequest = true →
      Completes .vectorTimer s fun t =>
        t.usher.signals = (modNth s.usher.signals c fun _ => (0, 0)) ∧
        t.pcie.sent = s.pcie.sent ++ [.msix (s.vector v).addr (s.vector v).data] ∧ sameRegs [F.PCI_LINK] s t ∧
        t = { s with regs := t.regs, agenda := t.agenda, usher := { s.usher with signals := t.usher.signals }
                     pcie := { s.pcie with sent := t.pcie.sent, lastTraffic := t.pcie.lastTraffic } }) ∧
    (∀ (c v : Nat),
      c < 8 →
      s.signalsNow (nth s.usher.signals c (0, 0)).1 (nth s.usher.signals c (0, 0)).2 (s.g (F.USH_CQ_IRQ_COUNT c))
        (s.g (F.USH_CQ_IRQ_TIME_US c)) = true →
      (∀ d ∈ List.range 8, d ≠ c → s.signalsNow (nth s.usher.signals d (0, 0)).1 (nth s.usher.signals d (0, 0)).2 (s.g (F.USH_CQ_IRQ_COUNT d))
        (s.g (F.USH_CQ_IRQ_TIME_US d)) = false) →
      s.signalsNow (nth s.notices 1 NoticeRing.idle).unsignalled (nth s.notices 1 NoticeRing.idle).firstUnsignalled
        (s.g F.USH_NQ_IRQ_COUNT) (s.g F.USH_NQ_IRQ_TIME_US) = false →
      v = s.g (F.USH_CQ_CTRL_VECTOR c) →
      (s.vector v).masked = false →
      s.functionMask = false →
      (s.vector v).addr ≠ 0 →
      s.mayRequest = false →
      Completes .vectorTimer s fun t =>
        t.usher.signals = (modNth s.usher.signals c fun _ => (0, 0)) ∧
        t = { s with usher := { s.usher with signals := t.usher.signals, heldVectors := s.usher.heldVectors ++ [v] } }) ∧
    (∀ (v : Nat),
      (∀ d ∈ List.range 8, s.signalsNow (nth s.usher.signals d (0, 0)).1 (nth s.usher.signals d (0, 0)).2 (s.g (F.USH_CQ_IRQ_COUNT d))
        (s.g (F.USH_CQ_IRQ_TIME_US d)) = false) →
      s.signalsNow (nth s.notices 1 NoticeRing.idle).unsignalled (nth s.notices 1 NoticeRing.idle).firstUnsignalled
        (s.g F.USH_NQ_IRQ_COUNT) (s.g F.USH_NQ_IRQ_TIME_US) = true →
      v = s.g (F.USH_NQ_CTRL_VECTOR 1) →
      (s.vector v).masked = true →
      Completes .vectorTimer s fun t =>
        t.notices = (modNth s.notices 1 fun r => { r with unsignalled := 0, firstUnsignalled := 0 }) ∧
        t = { s with notices := t.notices
                     pcie := { s.pcie with vectors := modNth s.pcie.vectors v fun x => { x with pending := true } } }) ∧
    (  (∀ d ∈ List.range 8, s.signalsNow (nth s.usher.signals d (0, 0)).1 (nth s.usher.signals d (0, 0)).2 (s.g (F.USH_CQ_IRQ_COUNT d))
        (s.g (F.USH_CQ_IRQ_TIME_US d)) = false) →
      s.signalsNow (nth s.notices 1 NoticeRing.idle).unsignalled (nth s.notices 1 NoticeRing.idle).firstUnsignalled
        (s.g F.USH_NQ_IRQ_COUNT) (s.g F.USH_NQ_IRQ_TIME_US) = false →
      Completes .vectorTimer s fun t =>
        t = s)

/-- A raise to the running slot's version, above the counter and under no lock, makes the Archive busy; another is ignored. At its end the counter holds the version and never less than before, and one system block has worn (which of the 64 is a free value). GO in boot-hold begins a write of the recovery buffer to a block that is not locked, wearing it unless it holds these bytes already, or fails at once with reason 3 or 1; its end leaves the buffer in that block and no other block changed, or fails with reason 2 after four attempts. Outside boot-hold, and while one is under way, there is no recovery write. -/
def Obligations.ArchiveAndRecovery : Prop :=
  ∀ s : State,
    (∀ (v : Nat),
      s.g F.PWR_BOOT_STATUS_FW_SLOT ≠ 0 →
      s.on F.ARC_STATUS_BUSY = false →
      s.lockFw = false →
      s.lockAll = false →
      v = s.g (F.ARC_SLOT_VER_VALUE (s.g F.PWR_BOOT_STATUS_FW_SLOT - 1)) →
      s.rollback < v →
      Completes (.arcRollbackRaise v) s fun t =>
        t.g F.ARC_STATUS_BUSY = 1 ∧ t.g F.ARC_ROLLBACK_RAISE_VERSION = v ∧
        t.agenda = s.agenda ++ [(s.now + 375000, .rollbackRaised)] ∧
        sameRegs [F.ARC_STATUS, F.ARC_ROLLBACK_RAISE] s t ∧ t = { s with regs := t.regs, agenda := t.agenda }) ∧
    (∀ (v : Nat),
      s.g F.PWR_BOOT_STATUS_FW_SLOT = 0 ∨ s.on F.ARC_STATUS_BUSY = true ∨ s.lockFw = true ∨ s.lockAll = true ∨ v ≤ s.rollback ∨
        v ≠ s.g (F.ARC_SLOT_VER_VALUE (s.g F.PWR_BOOT_STATUS_FW_SLOT - 1)) →
      Completes (.arcRollbackRaise v) s fun t =>
        t = s) ∧
    (  s.on F.ARC_STATUS_BUSY = true →
      Completes .rollbackRaised s fun t =>
        t.rollback = max s.rollback (s.g F.ARC_ROLLBACK_RAISE_VERSION) ∧ t.g F.ARC_ROLLBACK_COUNT = t.rollback % 2 ^ 32 ∧
        t.g F.ARC_STATUS_BUSY = 0 ∧ t.g F.ARC_ROLLBACK_RAISE_VERSION = 0 ∧
        (∀ b, t.wearOf b = s.wearOf b ∨ b = Config.freeNat s.freeCount % 64 ∧ t.wearOf b = min (s.wearOf b + 1) (2 ^ 32 - 1)) ∧
        t.archive = s.archive ∧ (s.now, Instr.dispatch 7) ∈ t.agenda ∧
        sameRegs [F.ARC_STATUS, F.ARC_ROLLBACK, F.ARC_ROLLBACK_RAISE, (C.USH_CNT_NQ_LOST 1).off] s t ∧
        t = { s with regs := t.regs, moment := t.moment, agenda := t.agenda, notices := t.notices, freeCount := t.freeCount
                     wear := t.wear, rollback := t.rollback }) ∧
    (  s.on F.ARC_STATUS_BUSY = false →
      Completes .rollbackRaised s fun t =>
        t = s) ∧
    (∀ (b : Nat),
      s.stage = 8 →
      s.on F.ARC_RCV_STATUS_BUSY = false →
      b = s.g F.ARC_RCV_CTRL_BLOCK →
      s.recoveryBar b = none →
      s.recoverySame b = false →
      Completes .recoveryWrite s fun t =>
        t.g F.ARC_RCV_STATUS_BUSY = 1 ∧ t.usher.slots = (modNth s.usher.slots 7 fun x => { x with job := { x.job with count := b } }) ∧
        t.wearOf b = min (s.wearOf b + 1) (2 ^ 32 - 1) ∧
        (∀ a, a ≠ b → t.wearOf a = s.wearOf a) ∧ t.archive = s.archive ∧
        (s.now + 60000, Instr.recoveryDone true) ∈ t.agenda ∧ sameRegs [F.ARC_RCV_STATUS, (C.USH_CNT_NQ_LOST 1).off] s t ∧
        t = { s with regs := t.regs, agenda := t.agenda, wear := t.wear, moment := t.moment, notices := t.notices
                     usher := { s.usher with slots := t.usher.slots } }) ∧
    (∀ (b : Nat),
      s.stage = 8 →
      s.on F.ARC_RCV_STATUS_BUSY = false →
      b = s.g F.ARC_RCV_CTRL_BLOCK →
      s.recoveryBar b = none →
      s.recoverySame b = true →
      Completes .recoveryWrite s fun t =>
        t.g F.ARC_RCV_STATUS_BUSY = 1 ∧ t.usher.slots = (modNth s.usher.slots 7 fun x => { x with job := { x.job with count := b } }) ∧
        t.archive = s.archive ∧
        (s.now + 60000, Instr.recoveryDone true) ∈ t.agenda ∧ sameRegs [F.ARC_RCV_STATUS] s t ∧
        t = { s with regs := t.regs, agenda := t.agenda, usher := { s.usher with slots := t.usher.slots } }) ∧
    (∀ (b r : Nat),
      s.stage = 8 →
      s.on F.ARC_RCV_STATUS_BUSY = false →
      b = s.g F.ARC_RCV_CTRL_BLOCK →
      s.recoveryBar b = some r →
      Completes .recoveryWrite s fun t =>
        t.g F.ARC_RCV_STATUS_BUSY = 0 ∧ bitN (t.g F.ARC_RCV_STATUS_FAIL) 0 = true ∧ t.g F.ARC_RCV_STATUS_REASON = r ∧
        (r = if 49151 < b then 3 else 1) ∧ sameRegs [F.ARC_RCV_STATUS] s t ∧ t = { s with regs := t.regs, moment := t.moment }) ∧
    (  s.stage ≠ 8 ∨ s.on F.ARC_RCV_STATUS_BUSY = true →
      Completes .recoveryWrite s fun t =>
        t = s) ∧
    (∀ (b : Nat),
      s.stage = 8 →
      s.on F.ARC_RCV_STATUS_BUSY = true →
      b = (s.slot 7).job.count →
      Completes (.recoveryDone true) s fun t =>
        t.block b = s.recoveryBytes ∧ (∀ a, a / 256 ≠ b → t.archive.get a = s.archive.get a) ∧
        t.g F.ARC_RCV_STATUS_BUSY = 0 ∧ bitN (t.g F.ARC_RCV_STATUS_DONE) 0 = true ∧ sameRegs [F.ARC_RCV_STATUS] s t ∧
        t = { s with regs := t.regs, moment := t.moment, agenda := t.agenda, archive := t.archive, archiveBad := t.archiveBad }) ∧
    (∀ (b : Nat),
      s.stage = 8 →
      s.on F.ARC_RCV_STATUS_BUSY = true →
      b = (s.slot 7).job.count →
      s.recoverySame b = true →
      Completes (.recoveryDone false) s fun t =>
        t.archive = s.archive ∧
        t.g F.ARC_RCV_STATUS_BUSY = 0 ∧ bitN (t.g F.ARC_RCV_STATUS_DONE) 0 = true ∧ sameRegs [F.ARC_RCV_STATUS] s t ∧
        t = { s with regs := t.regs, moment := t.moment, agenda := t.agenda }) ∧
    (∀ (b : Nat),
      s.stage = 8 →
      s.on F.ARC_RCV_STATUS_BUSY = true →
      b = (s.slot 7).job.count →
      s.recoverySame b = false →
      Completes (.recoveryDone false) s fun t =>
        t.wearOf b = min (s.wearOf b + 3) (2 ^ 32 - 1) ∧ (∀ a, a ≠ b → t.wearOf a = s.wearOf a) ∧
        (∀ a, a / 256 ≠ b → t.archive.get a = s.archive.get a) ∧
        t.g F.ARC_RCV_STATUS_BUSY = 0 ∧ bitN (t.g F.ARC_RCV_STATUS_FAIL) 0 = true ∧ t.g F.ARC_RCV_STATUS_REASON = 2 ∧
        sameRegs [F.ARC_RCV_STATUS, (C.USH_CNT_NQ_LOST 1).off] s t ∧
        t = { s with regs := t.regs, moment := t.moment, agenda := t.agenda, archive := t.archive, archiveBad := t.archiveBad
                     wear := t.wear, freeCount := t.freeCount, notices := t.notices }) ∧
    (∀ (g : Bool),
      s.stage ≠ 8 ∨ s.on F.ARC_RCV_STATUS_BUSY = false →
      Completes (.recoveryDone g) s fun t =>
        t = s)

/-- On a CD54 edge a healthy reading of a head sensor is shown and held, and the zones follow; with every head zone below the trip nothing else happens; one that fails a check has its sensor broken, counted and ignored from then on, and a broken sensor's reading is only shown. A gallery's sensor changes what GAL_TEMP of a bank reads there. An evaluation of the ladder on its period keeps the level between STEP_UP and STEP_DOWN, goes one level up below STEP_UP, forces Poise at level 7, goes one down above STEP_DOWN, and ends a forcing of its own; the next one is fixed. The debug port answers IDENT in every mode, refuses the rest when locked, reads in Observe and Full mode, and in Full mode writes (but not the Archive's registers), halts the Usher and steps it a cycle. On a CD58 edge the scrubber counts a corrected error against its queue or Store bank, marks what holds a double error, resets a queue whose pointer fails, and visits no queue with duplicated pointers. -/
def Obligations.SensorsDebugAndScrub : Prop :=
  ∀ s : State,
    (∀ (n : Nat) (v : Int) (k : Nat),
      n < 16 →
      s.rises 54 = true →
      s.thermalRuns = true →
      s.sensorBad n = false →
      s.sensorCheck n v = (none, k) →
      s.on F.THM_STATUS_FORCED = false →
      s.g F.THM_BAD_LO_MASK = 0 →
      (∀ z ∈ List.range 4, (zoneSensors z).all (fun i => i == n || (nth s.thermal.held i none).all (fun w => decide (w < 8 * (s.trip : Int)))) = true) →
      v < 8 * (s.trip : Int) →
      Completes (.sensorReading n v) s fun t =>
        t.g (F.THM_SENSOR_TEMP n) = unsigned 16 v ∧
        t.thermal = { s.thermal with prev := modNth s.thermal.prev n fun _ => some v, held := modNth s.thermal.held n fun _ => some v
                                     far := modNth s.thermal.far n fun _ => k } ∧
        (∀ z ∈ List.range 4, t.zoneTemp z = t.zoneReading z) ∧
        sameRegs (F.THM_SENSOR n :: ((List.range 12).map F.THM_ZONE ++ [F.THM_STATUS, F.THM_FLAGS, C.THM_CNT_FALLBACK.off, (C.USH_CNT_NQ_LOST 0).off])) s t ∧
        t = { s with regs := t.regs, moment := t.moment, agenda := t.agenda, notices := t.notices, thermal := t.thermal }) ∧
    (∀ (n : Nat) (v : Int) (k c : Nat),
      n < 16 →
      s.rises 54 = true →
      s.thermalRuns = true →
      s.sensorBad n = false →
      s.sensorCheck n v = (some c, k) →
      Completes (.sensorReading n v) s fun t =>
        t.g (F.THM_SENSOR_TEMP n) = unsigned 16 v ∧ t.g (F.THM_SENSOR_CHECK n) = c ∧ t.sensorBad n = true ∧ t.sensorHeld n = none ∧
        t.ctr C.THM_CNT_SENSOR_BAD = C.THM_CNT_SENSOR_BAD.plus (s.ctr C.THM_CNT_SENSOR_BAD) 1 ∧
        (∀ i, i ≠ n → nth t.thermal.held i none = nth s.thermal.held i none) ∧
        t.newel = s.newel ∧ t.cams = s.cams ∧ t.stations = s.stations ∧ t.store = s.store) ∧
    (∀ (n : Nat) (v : Int),
      n < 16 →
      s.rises 54 = true →
      s.thermalRuns = true →
      s.sensorBad n = true →
      Completes (.sensorReading n v) s fun t =>
        t.g (F.THM_SENSOR_TEMP n) = unsigned 16 v ∧ sameRegs [F.THM_SENSOR n] s t ∧ t = { s with regs := t.regs }) ∧
    (∀ (n : Nat) (v : Int),
      n < 16 ∧ (s.rises 54 = false ∨ s.thermalRuns = false) ∨ 48 ≤ n →
      Completes (.sensorReading n v) s fun t =>
        t = s) ∧
    (∀ (n : Nat) (v : Int),
      16 ≤ n →
      n < 48 →
      Completes (.sensorReading n v) s fun t =>
        (∀ g, (s.station g).powered = true → (s.station g).address = some ((n - 16) / 4) →
          (t.station g).g (G.temp (n % 4)) = unsigned 16 v ∧ sameGal [0xC0 + 4 * (n % 4)] (s.station g) (t.station g)) ∧
        (∀ g, ((s.station g).powered = false ∨ (s.station g).address ≠ some ((n - 16) / 4)) → t.station g = s.station g) ∧
        t = { s with stations := t.stations }) ∧
    (∀ (z : Nat) (h : Int),
      onEdge s.ladderPeriod s.time = true →
      s.thermalRuns = true →
      s.zonesUpdate = s →
      s.governing = some (z, h) →
      8 * (s.g F.THM_LADDER_STEP_UP : Int) ≤ h →
      h ≤ 8 * (s.g F.THM_LADDER_STEP_DOWN : Int) →
      s.g F.THM_CTRL_LEVEL_MIN ≤ s.g F.THM_STATUS_LEVEL →
      Completes .ladderEvaluation s fun t =>
        t.agenda = s.agenda.filter (fun e => e.2 != .ladderEvaluation) ++
          [(s.now + (edgeAfter s.ladderPeriod s.time - s.time), .ladderEvaluation)] ∧
        t = { s with agenda := t.agenda }) ∧
    (∀ (z : Nat) (h : Int),
      onEdge s.ladderPeriod s.time = true →
      s.thermalRuns = true →
      s.zonesUpdate = s →
      s.governing = some (z, h) →
      h < 8 * (s.g F.THM_LADDER_STEP_UP : Int) →
      s.g F.THM_STATUS_LEVEL < 7 →
      s.g F.THM_CTRL_LEVEL_MIN ≤ s.g F.THM_STATUS_LEVEL + 1 →
      ¬(s.on F.THM_STATUS_FORCED = true ∧ s.g F.THM_STATUS_CAUSE = 2 ∧ 8 * (s.g F.THM_LADDER_STEP_DOWN : Int) < h) →
      Completes .ladderEvaluation s fun t =>
        t.g F.THM_STATUS_LEVEL = s.g F.THM_STATUS_LEVEL + 1 ∧
        (t.g F.THM_LIMITS_ILM_PCT, t.g F.THM_LIMITS_ARR_PCT, t.g F.THM_LIMITS_HOLD_PCT) = nth ladderLimits (s.g F.THM_STATUS_LEVEL + 1) (0, 0, 0) ∧
        t.ctr C.THM_CNT_STEPS = C.THM_CNT_STEPS.plus (s.ctr C.THM_CNT_STEPS) 1 ∧
        t.agenda.any (fun e => e.2 == .ladderEvaluation) = true ∧ t.thermal = s.thermal ∧ t.stair = s.stair ∧
        t.stations = s.stations ∧ t.store = s.store) ∧
    (∀ (z : Nat) (h : Int),
      onEdge s.ladderPeriod s.time = true →
      s.thermalRuns = true →
      s.zonesUpdate = s →
      s.governing = some (z, h) →
      8 * (s.g F.THM_LADDER_STEP_DOWN : Int) < h →
      8 * (s.g F.THM_LADDER_STEP_UP : Int) ≤ h →
      s.g F.THM_STATUS_LEVEL ≤ 7 →
      s.g F.THM_CTRL_LEVEL_MIN < s.g F.THM_STATUS_LEVEL →
      ¬(s.on F.THM_STATUS_FORCED = true ∧ s.g F.THM_STATUS_CAUSE = 2) →
      Completes .ladderEvaluation s fun t =>
        t.g F.THM_STATUS_LEVEL = s.g F.THM_STATUS_LEVEL - 1 ∧
        (t.g F.THM_LIMITS_ILM_PCT, t.g F.THM_LIMITS_ARR_PCT, t.g F.THM_LIMITS_HOLD_PCT) = nth ladderLimits (s.g F.THM_STATUS_LEVEL - 1) (0, 0, 0) ∧
        t.ctr C.THM_CNT_STEPS = C.THM_CNT_STEPS.plus (s.ctr C.THM_CNT_STEPS) 1 ∧
        t.agenda.any (fun e => e.2 == .ladderEvaluation) = true ∧ t.thermal = s.thermal ∧ t.stair = s.stair ∧
        t.stations = s.stations ∧ t.store = s.store) ∧
    (∀ (z : Nat) (h : Int),
      onEdge s.ladderPeriod s.time = true →
      s.thermalRuns = true →
      s.zonesUpdate = s →
      s.governing = some (z, h) →
      h < 8 * (s.g F.THM_LADDER_STEP_UP : Int) →
      s.g F.THM_STATUS_LEVEL = 7 →
      s.on F.THM_STATUS_FORCED = false →
      Completes .ladderEvaluation s fun t =>
        t.g F.THM_STATUS_FORCED = 1 ∧ t.g F.THM_STATUS_CAUSE = 2 ∧ t.g F.PWR_STEP_STATUS_FORCED = 1 ∧ t.g F.THM_STATUS_LEVEL = 7 ∧
        t.ctr C.THM_CNT_FORCED = C.THM_CNT_FORCED.plus (s.ctr C.THM_CNT_FORCED) 1 ∧
        t.agenda.any (fun e => e.2 == .ladderEvaluation) = true ∧ t.thermal = s.thermal) ∧
    (∀ (z : Nat) (h : Int),
      onEdge s.ladderPeriod s.time = true →
      s.thermalRuns = true →
      s.zonesUpdate = s →
      s.governing = some (z, h) →
      8 * (s.g F.THM_LADDER_STEP_DOWN : Int) < h →
      s.on F.THM_STATUS_FORCED = true →
      s.g F.THM_STATUS_CAUSE = 2 →
      Completes .ladderEvaluation s fun t =>
        t.g F.THM_STATUS_FORCED = 0 ∧ t.g F.PWR_STEP_STATUS_FORCED = 0 ∧ t.g F.THM_STATUS_LEVEL = s.g F.THM_STATUS_LEVEL ∧
        sameRegs [F.THM_STATUS, F.PWR_STEP_STATUS] s t ∧ t = { s with regs := t.regs, agenda := t.agenda }) ∧
    (  onEdge s.ladderPeriod s.time = false ∨ s.thermalRuns = false →
      Completes .ladderEvaluation s fun t =>
        (s.thermal.running = false → t = s) ∧
        (s.thermal.running = true → t.agenda.any (fun e => e.2 == .ladderEvaluation) = true) ∧ t = { s with agenda := t.agenda }) ∧
    (  s.boot.powered = true →
      s.ticking = true →
      Completes (.debugAccess .ident) s fun t =>
        t = { s with boot := { s.boot with tdo := true }, pcie := { s.pcie with sent := s.pcie.sent ++ [.debug Config.debugIdent] } }) ∧
    (∀ (op : DebugOp),
      s.boot.powered = true →
      s.ticking = true →
      op ≠ .ident →
      2 ≤ s.debugMode →
      Completes (.debugAccess op) s fun t =>
        t = { s with pcie := { s.pcie with sent := s.pcie.sent ++ [.debugRefused] } }) ∧
    (∀ (off : Nat),
      s.boot.powered = true →
      s.ticking = true →
      s.debugMode < 2 →
      Completes (.debugAccess (.readReg off)) s fun t =>
        t = { s with boot := { s.boot with tdo := true }, freeCount := s.freeCount + 1
                     pcie := { s.pcie with sent := s.pcie.sent ++ [.debug (s.readReg (off / 4 * 4))] } }) ∧
    (∀ (a n : Nat),
      s.boot.powered = true →
      s.ticking = true →
      s.debugMode < 2 →
      Completes (.debugAccess (.readStore a n)) s fun t =>
        t = { s with boot := { s.boot with tdo := true }, pcie := { s.pcie with sent := s.pcie.sent ++ [.readDone (s.storeBytes a n)] } }) ∧
    (∀ (off d a : Nat) (l : List Byte) (op : DebugOp),
      s.boot.powered = true →
      s.ticking = true →
      s.debugMode ≠ 0 →
      op ∈ [.writeReg off d, .writeStore a l, .halt, .step] →
      Completes (.debugAccess op) s fun t =>
        t = { s with pcie := { s.pcie with sent := s.pcie.sent ++ [.debugRefused] } }) ∧
    (∀ (off d : Nat),
      s.boot.powered = true →
      s.ticking = true →
      s.debugMode = 0 →
      debugKeepsOff off = true →
      Completes (.debugAccess (.writeReg off d)) s fun t =>
        t = { s with boot := { s.boot with tdo := true } }) ∧
    (∀ (off d : Nat) (s₁ : State),
      s.boot.powered = true →
      s.ticking = true →
      s.debugMode = 0 →
      debugKeepsOff off = false →
      s₁ = { s with boot := { s.boot with tdo := true } } →
      Completes (.debugAccess (.writeReg off d)) s fun t =>
        t = s₁.bar0Write off 4 d) ∧
    (∀ (a : Nat) (l : List Byte),
      s.boot.powered = true →
      s.ticking = true →
      s.debugMode = 0 →
      Completes (.debugAccess (.writeStore a l)) s fun t =>
        t.store = s.store.write a (l.take (0x5E00000 - a)) ∧ t.boot.tdo = true ∧
        t = { s with boot := t.boot, store := t.store, storeBad := t.storeBad }) ∧
    (  s.boot.powered = true →
      s.ticking = true →
      s.debugMode = 0 →
      Completes (.debugAccess .halt) s fun t =>
        t = { s with boot := { s.boot with tdo := true }, usher := { s.usher with halted := true, stepAt := none } }) ∧
    (  s.boot.powered = true →
      s.ticking = true →
      s.debugMode = 0 →
      s.usher.halted = true →
      Completes (.debugAccess .step) s fun t =>
        t.agenda.any (fun e => e.2 == .recordTake) = true ∧
        t = { s with boot := { s.boot with tdo := true }, agenda := t.agenda, usher := { s.usher with stepAt := some (edgeAfter 4 s.time) } }) ∧
    (  s.boot.powered = true →
      s.ticking = true →
      s.debugMode = 0 →
      s.usher.halted = false →
      Completes (.debugAccess .step) s fun t =>
        t = { s with boot := { s.boot with tdo := true } }) ∧
    (∀ (op : DebugOp),
      s.boot.powered = false ∨ s.ticking = false →
      Completes (.debugAccess op) s fun t =>
        t = s) ∧
    (∀ (q i : Nat),
      8 ≤ q →
      q < 64 →
      s.step_ ≤ 2 →
      s.rises 58 = true →
      s.g (F.HAL_Q_CTRL_PROT q) = 1 →
      i < (s.queue q).closed.length + (s.queue q).opens.length →
      Completes (.scrub q i .single) s fun t =>
        t.ctr (C.HAL_CNT_CORR q) = (C.HAL_CNT_CORR q).plus (s.ctr (C.HAL_CNT_CORR q)) 1 ∧
        sameRegs [(C.HAL_CNT_CORR q).off] s t ∧ t = { s with regs := t.regs, moment := t.moment }) ∧
    (∀ (q i : Nat),
      8 ≤ q →
      q < 64 →
      s.step_ ≤ 2 →
      s.rises 58 = true →
      s.g (F.HAL_Q_CTRL_PROT q) = 1 →
      i < (s.queue q).closed.length →
      Completes (.scrub q i .double) s fun t =>
        t.hall.queues = (modNth s.hall.queues q fun x => { x with closed := modNth x.closed i fun p => { p with bad := true } }) ∧
        t = { s with hall := { s.hall with queues := t.hall.queues } }) ∧
    (∀ (q i : Nat),
      8 ≤ q →
      q < 64 →
      s.step_ ≤ 2 →
      s.rises 58 = true →
      s.g (F.HAL_Q_CTRL_PROT q) = 1 →
      (s.queue q).closed.length ≤ i →
      i < (s.queue q).closed.length + (s.queue q).opens.length →
      Completes (.scrub q i .double) s fun t =>
        t.hall.queues = (modNth s.hall.queues q fun x => { x with
          opens := modNth x.opens (i - x.closed.length) fun p => { p with bad := true } }) ∧
        t = { s with hall := { s.hall with queues := t.hall.queues } }) ∧
    (∀ (q i : Nat),
      q < 8 →
      s.step_ ≤ 2 →
      s.rises 58 = true →
      i < (s.fireQueue q).length →
      Completes (.scrub q i .double) s fun t =>
        t.hall.fire = (modNth s.hall.fire q fun l => modNth l i fun c => { c with bad := true }) ∧
        t = { s with hall := { s.hall with fire := t.hall.fire } }) ∧
    (∀ (q i : Nat),
      8 ≤ q →
      q < 64 →
      s.step_ ≤ 2 →
      s.rises 58 = true →
      s.g (F.HAL_Q_CTRL_PROT q) = 1 →
      Completes (.scrub q i .pointer) s fun t =>
        (t.queue q).closed = [] ∧ (t.queue q).opens = [] ∧
        t.ctr (C.HAL_CNT_QRESET q) = (C.HAL_CNT_QRESET q).plus (s.ctr (C.HAL_CNT_QRESET q)) 1 ∧
        t.newel = s.newel ∧ t.cams = s.cams ∧ t.stations = s.stations ∧ t.store = s.store) ∧
    (∀ (a w : Nat),
      s.step_ ≤ 2 →
      s.rises 58 = true →
      w = a / 8 * 8 →
      0x3000000 ≤ w →
      w < 0x5E00000 →
      s.storeBad.contains w = false →
      (∀ x ∈ s.storeBad, x + 8 ≤ w ∨ w + 8 ≤ x) →
      Completes (.scrub 64 a .single) s fun t =>
        t.ctr (C.STO_CNT_CORR (storeBank w)) = (C.STO_CNT_CORR (storeBank w)).plus (s.ctr (C.STO_CNT_CORR (storeBank w))) 1 ∧
        sameRegs [(C.STO_CNT_CORR (storeBank w)).off] s t ∧ t = { s with regs := t.regs, moment := t.moment }) ∧
    (∀ (a w : Nat),
      s.step_ ≤ 2 →
      s.rises 58 = true →
      w = a / 8 * 8 →
      0x3000000 ≤ w →
      w < 0x5E00000 →
      (∀ x ∈ s.storeBad, x + 8 ≤ w ∨ w + 8 ≤ x) →
      Completes (.scrub 64 a .double) s fun t =>
        t.storeBad = w :: s.storeBad ∧
        t.ctr (C.STO_CNT_UNCORR (storeBank w)) = (C.STO_CNT_UNCORR (storeBank w)).plus (s.ctr (C.STO_CNT_UNCORR (storeBank w))) 1 ∧
        t.getPair F.STO_LAST_UNCORR_LO = w ∧ t.store = s.store ∧
        t = { s with regs := t.regs, moment := t.moment, notices := t.notices, agenda := t.agenda, storeBad := t.storeBad }) ∧
    (∀ (q i : Nat) (k : HallCheck),
      8 ≤ q →
      q < 64 →
      s.g (F.HAL_Q_CTRL_PROT q) ≠ 1 ∨ 2 < s.step_ ∨ s.rises 58 = false ∨ k = .ok ∨
        (k = .single ∨ k = .double) ∧ (s.queue q).closed.length + (s.queue q).opens.length ≤ i →
      Completes (.scrub q i k) s fun t =>
        t = s)

/-- An idle engine's on-deck task that is ready, while dispatching goes on, starts: operands named indirectly are those of the slots now and stand 160 ticks and 8 for each later; a host destination that meets an enabled ring ends the task with 0x8007; else it begins at once. A 2D task has its first request 240 ticks away and its last byte fixed, or fails with 0x8201 where a Porter does not reach; a drain asks for its queue; a load begins with its first line, or fails with 0x8203, 0x8201, 0x8005 or 0x8202; a capture of the Calibrator takes the lowest pipeline that runs from its camera, or fails with 0x8204, 0x8202 or 0x8201; an Archive write or read begins, or fails with 0x8206 or 0x8201; a pipeline captures, or fails with 0x8002 or 0x8005. A task whose operands stand begins or ends with the status found. A line of a load from the Store is written into its target; the Archivist skips a block that is unchanged, begins a write of one that is not, waits while the Archive is busy, and completes after the last. An arm of the flight binds its pipelines or fails with 0x8006, 0x8005 or 0x8002; a disarm completes at once with status 1 where nothing is armed, and else lets no further flight frame begin. What is not due yet changes nothing. -/
def Obligations.TaskDispatch : Prop :=
  ∀ s : State,
    (∀ (u : Nat) (k r : Task),
      u < 12 →
      s.dispatches = true →
      (s.slot u).running = none →
      (s.slot u).deck = some k →
      max k.ready (s.slot u).freeAt + 8 ≤ s.time →
      r = { s.resolve k with start := s.time } →
      s.storeBad = [] →
      k.marks ≠ 0 →
      Completes (.dispatch u) s fun t =>
        t.usher.slots = (modNth s.usher.slots u fun x => { x with running := some r, deck := none, job := 
          { Job.idle with due := s.now + k.resolveTicks, status := s.dispatchStatus r false } }) ∧
        (s.now + k.resolveTicks, Instr.dispatch u) ∈ t.agenda ∧ t = { s with agenda := t.agenda, usher := { s.usher with slots := t.usher.slots } }) ∧
    (∀ (u : Nat),
      u < 12 →
      (s.slot u).running = none →
      (s.slot u).deck.all (fun k => !s.dispatches || decide (s.time < max k.ready (s.slot u).freeAt + 8)) = true →
      Completes (.dispatch u) s fun t =>
        t = s) ∧
    (∀ (u : Nat) (k r : Task),
      u < 12 →
      s.dispatches = true →
      (s.slot u).running = none →
      (s.slot u).deck = some k →
      max k.ready (s.slot u).freeAt + 8 ≤ s.time →
      r = { s.resolve k with start := s.time } →
      s.storeBad = [] →
      k.sq < 16 →
      k.marks = 0 →
      s.dispatchStatus r false = 0x8007 →
      Completes (.dispatch u) s fun t =>
        t.slot u = { s.slot u with running := none, deck := none, freeAt := s.time, job := Job.idle } ∧
        (∀ v, v ≠ u → t.slot v = s.slot v) ∧
        t.usher.done = s.usher.done ++ [s.completion r (unitOf u) 0x8007 []] ∧
        t.ctr C.USH_CNT_FAIL = C.USH_CNT_FAIL.plus (s.ctr C.USH_CNT_FAIL) 1 ∧
        (u < 8 → t.ctr (C.ENG_CNT_TASKS u) = (C.ENG_CNT_TASKS u).plus (s.ctr (C.ENG_CNT_TASKS u)) 1) ∧
        (s.on (F.USH_SQ_CTRL_HALT_ERR r.sq) = true → bitN (t.g F.USH_FLAGS_HALTED) r.sq = true) ∧
        sameRegs [(C.ENG_CNT_TASKS u).off, C.USH_CNT_FAIL.off, F.USH_FLAGS, (C.USH_CNT_NQ_LOST 1).off] s t ∧
        t = { s with regs := t.regs, moment := t.moment, notices := t.notices, agenda := t.agenda
                     usher := { s.usher with rings := t.usher.rings, slots := t.usher.slots, done := t.usher.done } }) ∧
    (∀ (u : Nat) (k r : Task) (n : Nat),
      u < 12 →
      s.dispatches = true →
      (s.slot u).running = none →
      (s.slot u).deck = some k →
      max k.ready (s.slot u).freeAt + 8 ≤ s.time →
      r = { s.resolve k with start := s.time } →
      s.storeBad = [] →
      k.marks = 0 →
      s.dispatchStatus r false = 0 →
      u < 4 →
      k.op = 0x10 ∨ k.op = 0x11 →
      r.rectReach = true →
      n = 240 + r.rect.ticksLeft 0 0 (s.rectRate u r) →
      Completes (.dispatch u) s fun t =>
        t.usher.slots = (modNth s.usher.slots u fun x => { x with running := some r, deck := none, job := 
          { Job.idle with phase := 1, began := s.time + 240, due := s.now + n } }) ∧
        t.g (F.ENG_PROGRESS_DONE u) = 0 ∧ sameRegs [F.ENG_PROGRESS u] s t ∧
        (s.now + n, Instr.taskEnd u none 0) ∈ t.agenda ∧
        t = { s with regs := t.regs, agenda := t.agenda, usher := { s.usher with slots := t.usher.slots } }) ∧
    (∀ (u : Nat) (k r : Task),
      u < 12 →
      s.dispatches = true →
      (s.slot u).running = none →
      (s.slot u).deck = some k →
      max k.ready (s.slot u).freeAt + 8 ≤ s.time →
      r = { s.resolve k with start := s.time } →
      s.storeBad = [] →
      k.marks = 0 →
      s.dispatchStatus r false = 0 →
      k.sq < 16 →
      u < 4 →
      k.op = 0x10 ∨ k.op = 0x11 →
      r.rectReach = false →
      Completes (.dispatch u) s fun t =>
        t.slot u = { s.slot u with running := none, deck := none, freeAt := s.time, job := Job.idle } ∧
        (∀ v, v ≠ u → t.slot v = s.slot v) ∧
        t.usher.done = s.usher.done ++ [s.completion r (unitOf u) 0x8201 []] ∧
        t.ctr C.USH_CNT_FAIL = C.USH_CNT_FAIL.plus (s.ctr C.USH_CNT_FAIL) 1 ∧
        (u < 8 → t.ctr (C.ENG_CNT_TASKS u) = (C.ENG_CNT_TASKS u).plus (s.ctr (C.ENG_CNT_TASKS u)) 1) ∧
        (s.on (F.USH_SQ_CTRL_HALT_ERR r.sq) = true → bitN (t.g F.USH_FLAGS_HALTED) r.sq = true) ∧
        sameRegs [(C.ENG_CNT_TASKS u).off, C.USH_CNT_FAIL.off, F.USH_FLAGS, (C.USH_CNT_NQ_LOST 1).off] s t ∧
        t = { s with regs := t.regs, moment := t.moment, notices := t.notices, agenda := t.agenda
                     usher := { s.usher with rings := t.usher.rings, slots := t.usher.slots, done := t.usher.done } }) ∧
    (∀ (u : Nat) (k r : Task),
      u < 12 →
      s.dispatches = true →
      (s.slot u).running = none →
      (s.slot u).deck = some k →
      max k.ready (s.slot u).freeAt + 8 ≤ s.time →
      r = { s.resolve k with start := s.time } →
      s.storeBad = [] →
      k.marks = 0 →
      s.dispatchStatus r false = 0 →
      u < 4 →
      k.op = 0x12 →
      Completes (.dispatch u) s fun t =>
        t.usher.slots = (modNth s.usher.slots u fun x => { x with running := some r, deck := none, job := 
          { Job.idle with phase := 1, began := s.time + 240, due := s.now } }) ∧
        t.g (F.ENG_PROGRESS_DONE u) = 0 ∧ sameRegs [F.ENG_PROGRESS u] s t ∧
        t.hall.queues = (modNth s.hall.queues (r.w 4 % 64) fun x => { x with readers := x.readers ++ [u] }) ∧
        (s.now + 240, Instr.dispatch u) ∈ t.agenda ∧
        t = { s with regs := t.regs, agenda := t.agenda, hall := { s.hall with queues := t.hall.queues }
                     usher := { s.usher with slots := t.usher.slots } }) ∧
    (∀ (u : Nat) (k r : Task) (n : Nat),
      u < 12 →
      s.dispatches = true →
      (s.slot u).running = none →
      (s.slot u).deck = some k →
      max k.ready (s.slot u).freeAt + 8 ≤ s.time →
      r = { s.resolve k with start := s.time } →
      s.storeBad = [] →
      k.marks = 0 →
      s.dispatchStatus r false = 0 →
      u = 4 ∨ u = 5 →
      k.op = 0x20 →
      r.w 9 = loadSize r.kind →
      (r.w 8 % 2 = 1 → inBank1 (r.q 6) (loadSize r.kind) = true) →
      (r.kind = 2 → (s.pipe r.target).bound = false) →
      s.bankInUse r.kind r.target r.bank = false →
      n = 240 + (if r.w 8 % 2 = 1 then 32 else 48) →
      Completes (.dispatch u) s fun t =>
        t.usher.slots = (modNth s.usher.slots u fun x => { x with running := some r, deck := none, job := 
          { Job.idle with phase := 1, began := s.time + 240, due := s.now + n } }) ∧
        t.g (F.ENG_PROGRESS_DONE u) = 0 ∧ sameRegs [F.ENG_PROGRESS u] s t ∧
        (s.now + n, Instr.dispatch u) ∈ t.agenda ∧
        t = { s with regs := t.regs, agenda := t.agenda, usher := { s.usher with slots := t.usher.slots } }) ∧
    (∀ (u : Nat) (k r : Task),
      u < 12 →
      s.dispatches = true →
      (s.slot u).running = none →
      (s.slot u).deck = some k →
      max k.ready (s.slot u).freeAt + 8 ≤ s.time →
      r = { s.resolve k with start := s.time } →
      s.storeBad = [] →
      k.marks = 0 →
      s.dispatchStatus r false = 0 →
      k.sq < 16 →
      u = 4 ∨ u = 5 →
      k.op = 0x20 →
      r.w 9 ≠ loadSize r.kind →
      Completes (.dispatch u) s fun t =>
        t.slot u = { s.slot u with running := none, deck := none, freeAt := s.time, job := Job.idle } ∧
        (∀ v, v ≠ u → t.slot v = s.slot v) ∧
        t.usher.done = s.usher.done ++ [s.completion r (unitOf u) 0x8203 []] ∧
        t.ctr C.USH_CNT_FAIL = C.USH_CNT_FAIL.plus (s.ctr C.USH_CNT_FAIL) 1 ∧
        (u < 8 → t.ctr (C.ENG_CNT_TASKS u) = (C.ENG_CNT_TASKS u).plus (s.ctr (C.ENG_CNT_TASKS u)) 1) ∧
        (s.on (F.USH_SQ_CTRL_HALT_ERR r.sq) = true → bitN (t.g F.USH_FLAGS_HALTED) r.sq = true) ∧
        sameRegs [(C.ENG_CNT_TASKS u).off, C.USH_CNT_FAIL.off, F.USH_FLAGS, (C.USH_CNT_NQ_LOST 1).off] s t ∧
        t = { s with regs := t.regs, moment := t.moment, notices := t.notices, agenda := t.agenda
                     usher := { s.usher with rings := t.usher.rings, slots := t.usher.slots, done := t.usher.done } }) ∧
    (∀ (u : Nat) (k r : Task),
      u < 12 →
      s.dispatches = true →
      (s.slot u).running = none →
      (s.slot u).deck = some k →
      max k.ready (s.slot u).freeAt + 8 ≤ s.time →
      r = { s.resolve k with start := s.time } →
      s.storeBad = [] →
      k.marks = 0 →
      s.dispatchStatus r false = 0 →
      k.sq < 16 →
      u = 4 ∨ u = 5 →
      k.op = 0x20 →
      r.w 9 = loadSize r.kind →
      r.w 8 % 2 = 1 →
      inBank1 (r.q 6) (loadSize r.kind) = false →
      Completes (.dispatch u) s fun t =>
        t.slot u = { s.slot u with running := none, deck := none, freeAt := s.time, job := Job.idle } ∧
        (∀ v, v ≠ u → t.slot v = s.slot v) ∧
        t.usher.done = s.usher.done ++ [s.completion r (unitOf u) 0x8201 []] ∧
        t.ctr C.USH_CNT_FAIL = C.USH_CNT_FAIL.plus (s.ctr C.USH_CNT_FAIL) 1 ∧
        (u < 8 → t.ctr (C.ENG_CNT_TASKS u) = (C.ENG_CNT_TASKS u).plus (s.ctr (C.ENG_CNT_TASKS u)) 1) ∧
        (s.on (F.USH_SQ_CTRL_HALT_ERR r.sq) = true → bitN (t.g F.USH_FLAGS_HALTED) r.sq = true) ∧
        sameRegs [(C.ENG_CNT_TASKS u).off, C.USH_CNT_FAIL.off, F.USH_FLAGS, (C.USH_CNT_NQ_LOST 1).off] s t ∧
        t = { s with regs := t.regs, moment := t.moment, notices := t.notices, agenda := t.agenda
                     usher := { s.usher with rings := t.usher.rings, slots := t.usher.slots, done := t.usher.done } }) ∧
    (∀ (u : Nat) (k r : Task),
      u < 12 →
      s.dispatches = true →
      (s.slot u).running = none →
      (s.slot u).deck = some k →
      max k.ready (s.slot u).freeAt + 8 ≤ s.time →
      r = { s.resolve k with start := s.time } →
      s.storeBad = [] →
      k.marks = 0 →
      s.dispatchStatus r false = 0 →
      k.sq < 16 →
      u = 4 ∨ u = 5 →
      k.op = 0x20 →
      r.w 9 = loadSize r.kind →
      (r.w 8 % 2 = 1 → inBank1 (r.q 6) (loadSize r.kind) = true) →
      r.kind = 2 →
      (s.pipe r.target).bound = true →
      Completes (.dispatch u) s fun t =>
        t.slot u = { s.slot u with running := none, deck := none, freeAt := s.time, job := Job.idle } ∧
        (∀ v, v ≠ u → t.slot v = s.slot v) ∧
        t.usher.done = s.usher.done ++ [s.completion r (unitOf u) 0x8005 []] ∧
        t.ctr C.USH_CNT_FAIL = C.USH_CNT_FAIL.plus (s.ctr C.USH_CNT_FAIL) 1 ∧
        (u < 8 → t.ctr (C.ENG_CNT_TASKS u) = (C.ENG_CNT_TASKS u).plus (s.ctr (C.ENG_CNT_TASKS u)) 1) ∧
        (s.on (F.USH_SQ_CTRL_HALT_ERR r.sq) = true → bitN (t.g F.USH_FLAGS_HALTED) r.sq = true) ∧
        sameRegs [(C.ENG_CNT_TASKS u).off, C.USH_CNT_FAIL.off, F.USH_FLAGS, (C.USH_CNT_NQ_LOST 1).off] s t ∧
        t = { s with regs := t.regs, moment := t.moment, notices := t.notices, agenda := t.agenda
                     usher := { s.usher with rings := t.usher.rings, slots := t.usher.slots, done := t.usher.done } }) ∧
    (∀ (u : Nat) (k r : Task),
      u < 12 →
      s.dispatches = true →
      (s.slot u).running = none →
      (s.slot u).deck = some k →
      max k.ready (s.slot u).freeAt + 8 ≤ s.time →
      r = { s.resolve k with start := s.time } →
      s.storeBad = [] →
      k.marks = 0 →
      s.dispatchStatus r false = 0 →
      k.sq < 16 →
      u = 4 ∨ u = 5 →
      k.op = 0x20 →
      r.w 9 = loadSize r.kind →
      (r.w 8 % 2 = 1 → inBank1 (r.q 6) (loadSize r.kind) = true) →
      (r.kind = 2 → (s.pipe r.target).bound = false) →
      s.bankInUse r.kind r.target r.bank = true →
      Completes (.dispatch u) s fun t =>
        t.slot u = { s.slot u with running := none, deck := none, freeAt := s.time, job := Job.idle } ∧
        (∀ v, v ≠ u → t.slot v = s.slot v) ∧
        t.usher.done = s.usher.done ++ [s.completion r (unitOf u) 0x8202 []] ∧
        t.ctr C.USH_CNT_FAIL = C.USH_CNT_FAIL.plus (s.ctr C.USH_CNT_FAIL) 1 ∧
        (u < 8 → t.ctr (C.ENG_CNT_TASKS u) = (C.ENG_CNT_TASKS u).plus (s.ctr (C.ENG_CNT_TASKS u)) 1) ∧
        (s.on (F.USH_SQ_CTRL_HALT_ERR r.sq) = true → bitN (t.g F.USH_FLAGS_HALTED) r.sq = true) ∧
        sameRegs [(C.ENG_CNT_TASKS u).off, C.USH_CNT_FAIL.off, F.USH_FLAGS, (C.USH_CNT_NQ_LOST 1).off] s t ∧
        t = { s with regs := t.regs, moment := t.moment, notices := t.notices, agenda := t.agenda
                     usher := { s.usher with rings := t.usher.rings, slots := t.usher.slots, done := t.usher.done } }) ∧
    (∀ (u : Nat) (k r : Task) (p : Nat) (l : List Nat),
      u < 12 →
      s.dispatches = true →
      (s.slot u).running = none →
      (s.slot u).deck = some k →
      max k.ready (s.slot u).freeAt + 8 ≤ s.time →
      r = { s.resolve k with start := s.time } →
      s.storeBad = [] →
      k.marks = 0 →
      s.dispatchStatus r false = 0 →
      u = 6 →
      k.op = 0x30 ∨ k.op = 0x31 →
      (s.boundTo (r.cam + 1)).filter s.pipeRuns = p :: l →
      s.bankInUse 4 0 r.area = false →
      s.calNeeds r ≤ 4194304 →
      Completes (.dispatch u) s fun t =>
        t.usher.slots = (modNth s.usher.slots u fun x => { x with running := some r, deck := none, job := 
          { Job.idle with phase := 1, began := s.time, due := s.now, tempLo := 32767, tempHi := -32768,
                          base := (s.pipe p).frames.foldl (fun m x => max m x.start) 0 } }) ∧
        t.g (F.ENG_PROGRESS_DONE u) = 0 ∧ sameRegs [F.ENG_PROGRESS u] s t ∧
        t = { s with regs := t.regs, agenda := t.agenda
                     usher := { s.usher with slots := t.usher.slots, calPipe := some p, calIn := [] } }) ∧
    (∀ (u : Nat) (k r : Task),
      u < 12 →
      s.dispatches = true →
      (s.slot u).running = none →
      (s.slot u).deck = some k →
      max k.ready (s.slot u).freeAt + 8 ≤ s.time →
      r = { s.resolve k with start := s.time } →
      s.storeBad = [] →
      k.marks = 0 →
      s.dispatchStatus r false = 0 →
      k.sq < 16 →
      u = 6 →
      k.op = 0x30 ∨ k.op = 0x31 →
      (s.boundTo (r.cam + 1)).filter s.pipeRuns = [] →
      Completes (.dispatch u) s fun t =>
        t.slot u = { s.slot u with running := none, deck := none, freeAt := s.time, job := Job.idle } ∧
        (∀ v, v ≠ u → t.slot v = s.slot v) ∧
        t.usher.done = s.usher.done ++ [s.completion r (unitOf u) 0x8204 [0, 0, 0, 0, 0]] ∧
        t.ctr C.USH_CNT_FAIL = C.USH_CNT_FAIL.plus (s.ctr C.USH_CNT_FAIL) 1 ∧
        (u < 8 → t.ctr (C.ENG_CNT_TASKS u) = (C.ENG_CNT_TASKS u).plus (s.ctr (C.ENG_CNT_TASKS u)) 1) ∧
        (s.on (F.USH_SQ_CTRL_HALT_ERR r.sq) = true → bitN (t.g F.USH_FLAGS_HALTED) r.sq = true) ∧
        sameRegs [(C.ENG_CNT_TASKS u).off, C.USH_CNT_FAIL.off, F.USH_FLAGS, (C.USH_CNT_NQ_LOST 1).off] s t ∧
        t = { s with regs := t.regs, moment := t.moment, notices := t.notices, agenda := t.agenda
                     usher := { s.usher with rings := t.usher.rings, slots := t.usher.slots, done := t.usher.done, calPipe := none, calIn := [] } }) ∧
    (∀ (u : Nat) (k r : Task),
      u < 12 →
      s.dispatches = true →
      (s.slot u).running = none →
      (s.slot u).deck = some k →
      max k.ready (s.slot u).freeAt + 8 ≤ s.time →
      r = { s.resolve k with start := s.time } →
      s.storeBad = [] →
      k.marks = 0 →
      s.dispatchStatus r false = 0 →
      k.sq < 16 →
      u = 6 →
      k.op = 0x30 ∨ k.op = 0x31 →
      (s.boundTo (r.cam + 1)).filter s.pipeRuns ≠ [] →
      s.bankInUse 4 0 r.area = true →
      Completes (.dispatch u) s fun t =>
        t.slot u = { s.slot u with running := none, deck := none, freeAt := s.time, job := Job.idle } ∧
        (∀ v, v ≠ u → t.slot v = s.slot v) ∧
        t.usher.done = s.usher.done ++ [s.completion r (unitOf u) 0x8202 [0, 0, 0, 0, 0]] ∧
        t.ctr C.USH_CNT_FAIL = C.USH_CNT_FAIL.plus (s.ctr C.USH_CNT_FAIL) 1 ∧
        (u < 8 → t.ctr (C.ENG_CNT_TASKS u) = (C.ENG_CNT_TASKS u).plus (s.ctr (C.ENG_CNT_TASKS u)) 1) ∧
        (s.on (F.USH_SQ_CTRL_HALT_ERR r.sq) = true → bitN (t.g F.USH_FLAGS_HALTED) r.sq = true) ∧
        sameRegs [(C.ENG_CNT_TASKS u).off, C.USH_CNT_FAIL.off, F.USH_FLAGS, (C.USH_CNT_NQ_LOST 1).off] s t ∧
        t = { s with regs := t.regs, moment := t.moment, notices := t.notices, agenda := t.agenda
                     usher := { s.usher with rings := t.usher.rings, slots := t.usher.slots, done := t.usher.done, calPipe := none, calIn := [] } }) ∧
    (∀ (u : Nat) (k r : Task),
      u < 12 →
      s.dispatches = true →
      (s.slot u).running = none →
      (s.slot u).deck = some k →
      max k.ready (s.slot u).freeAt + 8 ≤ s.time →
      r = { s.resolve k with start := s.time } →
      s.storeBad = [] →
      k.marks = 0 →
      s.dispatchStatus r false = 0 →
      k.sq < 16 →
      u = 6 →
      k.op = 0x30 ∨ k.op = 0x31 →
      (s.boundTo (r.cam + 1)).filter s.pipeRuns ≠ [] →
      s.bankInUse 4 0 r.area = false →
      4194304 < s.calNeeds r →
      Completes (.dispatch u) s fun t =>
        t.slot u = { s.slot u with running := none, deck := none, freeAt := s.time, job := Job.idle } ∧
        (∀ v, v ≠ u → t.slot v = s.slot v) ∧
        t.usher.done = s.usher.done ++ [s.completion r (unitOf u) 0x8201 [0, 0, 0, 0, 0]] ∧
        t.ctr C.USH_CNT_FAIL = C.USH_CNT_FAIL.plus (s.ctr C.USH_CNT_FAIL) 1 ∧
        (u < 8 → t.ctr (C.ENG_CNT_TASKS u) = (C.ENG_CNT_TASKS u).plus (s.ctr (C.ENG_CNT_TASKS u)) 1) ∧
        (s.on (F.USH_SQ_CTRL_HALT_ERR r.sq) = true → bitN (t.g F.USH_FLAGS_HALTED) r.sq = true) ∧
        sameRegs [(C.ENG_CNT_TASKS u).off, C.USH_CNT_FAIL.off, F.USH_FLAGS, (C.USH_CNT_NQ_LOST 1).off] s t ∧
        t = { s with regs := t.regs, moment := t.moment, notices := t.notices, agenda := t.agenda
                     usher := { s.usher with rings := t.usher.rings, slots := t.usher.slots, done := t.usher.done, calPipe := none, calIn := [] } }) ∧
    (∀ (u : Nat) (k r : Task),
      u < 12 →
      s.dispatches = true →
      (s.slot u).running = none →
      (s.slot u).deck = some k →
      max k.ready (s.slot u).freeAt + 8 ≤ s.time →
      r = { s.resolve k with start := s.time } →
      s.storeBad = [] →
      k.marks = 0 →
      s.dispatchStatus r false = 0 →
      u = 7 →
      k.op = 0x40 →
      s.arcLocked (r.w 4) = false →
      (inBank1 (r.q 6) (256 * r.w 5) || (decide (0x4800000 ≤ r.q 6) && decide (r.q 6 + 256 * r.w 5 ≤ 0x5E00000))) = true →
      Completes (.dispatch u) s fun t =>
        t.usher.slots = (modNth s.usher.slots u fun x => { x with running := some r, deck := none, job := 
          { Job.idle with phase := 1, began := s.time + 240, due := s.now + 240 } }) ∧
        t.g (F.ENG_PROGRESS_DONE u) = 0 ∧ sameRegs [F.ENG_PROGRESS u] s t ∧
        (s.now + 240, Instr.dispatch u) ∈ t.agenda ∧
        t = { s with regs := t.regs, agenda := t.agenda, usher := { s.usher with slots := t.usher.slots } }) ∧
    (∀ (u : Nat) (k r : Task),
      u < 12 →
      s.dispatches = true →
      (s.slot u).running = none →
      (s.slot u).deck = some k →
      max k.ready (s.slot u).freeAt + 8 ≤ s.time →
      r = { s.resolve k with start := s.time } →
      s.storeBad = [] →
      k.marks = 0 →
      s.dispatchStatus r false = 0 →
      u = 7 →
      k.op = 0x41 →
      inBank1 (r.q 6) (256 * r.w 5) = true →
      Completes (.dispatch u) s fun t =>
        t.usher.slots = (modNth s.usher.slots u fun x => { x with running := some r, deck := none, job := 
          { Job.idle with phase := 3, began := s.time + 240, due := s.now + (240 + 1500 * r.w 5) } }) ∧
        t.g (F.ENG_PROGRESS_DONE u) = 0 ∧ sameRegs [F.ENG_PROGRESS u] s t ∧
        (s.now + (240 + 1500 * r.w 5), Instr.taskEnd u none 0) ∈ t.agenda ∧
        t = { s with regs := t.regs, agenda := t.agenda, usher := { s.usher with slots := t.usher.slots } }) ∧
    (∀ (u : Nat) (k r : Task),
      u < 12 →
      s.dispatches = true →
      (s.slot u).running = none →
      (s.slot u).deck = some k →
      max k.ready (s.slot u).freeAt + 8 ≤ s.time →
      r = { s.resolve k with start := s.time } →
      s.storeBad = [] →
      k.marks = 0 →
      s.dispatchStatus r false = 0 →
      k.sq < 16 →
      u = 7 →
      k.op = 0x40 →
      s.arcLocked (r.w 4) = true →
      Completes (.dispatch u) s fun t =>
        t.slot u = { s.slot u with running := none, deck := none, freeAt := s.time, job := Job.idle } ∧
        (∀ v, v ≠ u → t.slot v = s.slot v) ∧
        t.usher.done = s.usher.done ++ [s.completion r (unitOf u) 0x8206 [0, 0, 0, 0, 0xFFFFFFFF]] ∧
        t.ctr C.USH_CNT_FAIL = C.USH_CNT_FAIL.plus (s.ctr C.USH_CNT_FAIL) 1 ∧
        (u < 8 → t.ctr (C.ENG_CNT_TASKS u) = (C.ENG_CNT_TASKS u).plus (s.ctr (C.ENG_CNT_TASKS u)) 1) ∧
        (s.on (F.USH_SQ_CTRL_HALT_ERR r.sq) = true → bitN (t.g F.USH_FLAGS_HALTED) r.sq = true) ∧
        sameRegs [(C.ENG_CNT_TASKS u).off, C.USH_CNT_FAIL.off, F.USH_FLAGS, (C.USH_CNT_NQ_LOST 1).off] s t ∧
        t = { s with regs := t.regs, moment := t.moment, notices := t.notices, agenda := t.agenda
                     usher := { s.usher with rings := t.usher.rings, slots := t.usher.slots, done := t.usher.done } }) ∧
    (∀ (u : Nat) (k r : Task),
      u < 12 →
      s.dispatches = true →
      (s.slot u).running = none →
      (s.slot u).deck = some k →
      max k.ready (s.slot u).freeAt + 8 ≤ s.time →
      r = { s.resolve k with start := s.time } →
      s.storeBad = [] →
      k.marks = 0 →
      s.dispatchStatus r false = 0 →
      k.sq < 16 →
      u = 7 →
      k.op = 0x41 →
      inBank1 (r.q 6) (256 * r.w 5) = false →
      Completes (.dispatch u) s fun t =>
        t.slot u = { s.slot u with running := none, deck := none, freeAt := s.time, job := Job.idle } ∧
        (∀ v, v ≠ u → t.slot v = s.slot v) ∧
        t.usher.done = s.usher.done ++ [s.completion r (unitOf u) 0x8201 [0, 0, 0, 0, 0xFFFFFFFF]] ∧
        t.ctr C.USH_CNT_FAIL = C.USH_CNT_FAIL.plus (s.ctr C.USH_CNT_FAIL) 1 ∧
        (u < 8 → t.ctr (C.ENG_CNT_TASKS u) = (C.ENG_CNT_TASKS u).plus (s.ctr (C.ENG_CNT_TASKS u)) 1) ∧
        (s.on (F.USH_SQ_CTRL_HALT_ERR r.sq) = true → bitN (t.g F.USH_FLAGS_HALTED) r.sq = true) ∧
        sameRegs [(C.ENG_CNT_TASKS u).off, C.USH_CNT_FAIL.off, F.USH_FLAGS, (C.USH_CNT_NQ_LOST 1).off] s t ∧
        t = { s with regs := t.regs, moment := t.moment, notices := t.notices, agenda := t.agenda
                     usher := { s.usher with rings := t.usher.rings, slots := t.usher.slots, done := t.usher.done } }) ∧
    (∀ (u : Nat) (k r : Task) (p : Nat),
      u < 12 →
      s.dispatches = true →
      (s.slot u).running = none →
      (s.slot u).deck = some k →
      max k.ready (s.slot u).freeAt + 8 ≤ s.time →
      r = { s.resolve k with start := s.time } →
      s.storeBad = [] →
      k.marks = 0 →
      s.dispatchStatus r false = 0 →
      8 ≤ u →
      k.op = 0x50 →
      u = 8 + p →
      s.g (F.PIP_SRC_SRC p) ≠ 0 →
      (s.pipe p).bound = false →
      Completes (.dispatch u) s fun t =>
        t.usher.slots = (modNth s.usher.slots u fun x => { x with running := some r, deck := none, job := 
          { Job.idle with phase := 1, due := s.now } }) ∧
        t.pipes = (modNth s.pipes p fun x => { x with capture := some (r.w 4), prev := none }) ∧
        t = { s with agenda := t.agenda, pipes := t.pipes, usher := { s.usher with slots := t.usher.slots } }) ∧
    (∀ (u : Nat) (k r : Task) (p : Nat),
      u < 12 →
      s.dispatches = true →
      (s.slot u).running = none →
      (s.slot u).deck = some k →
      max k.ready (s.slot u).freeAt + 8 ≤ s.time →
      r = { s.resolve k with start := s.time } →
      s.storeBad = [] →
      k.marks = 0 →
      s.dispatchStatus r false = 0 →
      k.sq < 16 →
      8 ≤ u →
      k.op = 0x50 →
      u = 8 + p →
      s.g (F.PIP_SRC_SRC p) = 0 →
      Completes (.dispatch u) s fun t =>
        t.slot u = { s.slot u with running := none, deck := none, freeAt := s.time, job := Job.idle } ∧
        (∀ v, v ≠ u → t.slot v = s.slot v) ∧
        t.usher.done = s.usher.done ++ [s.completion r (unitOf u) 0x8002 []] ∧
        t.ctr C.USH_CNT_FAIL = C.USH_CNT_FAIL.plus (s.ctr C.USH_CNT_FAIL) 1 ∧
        (u < 8 → t.ctr (C.ENG_CNT_TASKS u) = (C.ENG_CNT_TASKS u).plus (s.ctr (C.ENG_CNT_TASKS u)) 1) ∧
        (s.on (F.USH_SQ_CTRL_HALT_ERR r.sq) = true → bitN (t.g F.USH_FLAGS_HALTED) r.sq = true) ∧
        sameRegs [(C.ENG_CNT_TASKS u).off, C.USH_CNT_FAIL.off, F.USH_FLAGS, (C.USH_CNT_NQ_LOST 1).off] s t ∧
        t = { s with regs := t.regs, moment := t.moment, notices := t.notices, agenda := t.agenda
                     usher := { s.usher with rings := t.usher.rings, slots := t.usher.slots, done := t.usher.done } }) ∧
    (∀ (u : Nat) (k r : Task) (p : Nat),
      u < 12 →
      s.dispatches = true →
      (s.slot u).running = none →
      (s.slot u).deck = some k →
      max k.ready (s.slot u).freeAt + 8 ≤ s.time →
      r = { s.resolve k with start := s.time } →
      s.storeBad = [] →
      k.marks = 0 →
      s.dispatchStatus r false = 0 →
      k.sq < 16 →
      8 ≤ u →
      k.op = 0x50 →
      u = 8 + p →
      s.g (F.PIP_SRC_SRC p) ≠ 0 →
      (s.pipe p).bound = true →
      Completes (.dispatch u) s fun t =>
        t.slot u = { s.slot u with running := none, deck := none, freeAt := s.time, job := Job.idle } ∧
        (∀ v, v ≠ u → t.slot v = s.slot v) ∧
        t.usher.done = s.usher.done ++ [s.completion r (unitOf u) 0x8005 []] ∧
        t.ctr C.USH_CNT_FAIL = C.USH_CNT_FAIL.plus (s.ctr C.USH_CNT_FAIL) 1 ∧
        (u < 8 → t.ctr (C.ENG_CNT_TASKS u) = (C.ENG_CNT_TASKS u).plus (s.ctr (C.ENG_CNT_TASKS u)) 1) ∧
        (s.on (F.USH_SQ_CTRL_HALT_ERR r.sq) = true → bitN (t.g F.USH_FLAGS_HALTED) r.sq = true) ∧
        sameRegs [(C.ENG_CNT_TASKS u).off, C.USH_CNT_FAIL.off, F.USH_FLAGS, (C.USH_CNT_NQ_LOST 1).off] s t ∧
        t = { s with regs := t.regs, moment := t.moment, notices := t.notices, agenda := t.agenda
                     usher := { s.usher with rings := t.usher.rings, slots := t.usher.slots, done := t.usher.done } }) ∧
    (∀ (u : Nat) (k : Task),
      u < 12 →
      (s.slot u).running = some k →
      (s.slot u).job.phase = 0 →
      s.now < (s.slot u).job.due →
      Completes (.dispatch u) s fun t =>
        t = s) ∧
    (∀ (u v : Nat) (k : Task),
      u < 12 →
      (s.slot u).running = some k →
      (s.slot u).job.phase = 0 →
      k.sq < 16 →
      (s.slot u).job.due ≤ s.now →
      v = (s.slot u).job.status →
      v = 0x8002 ∨ v = 0x8007 ∨ v = 0x8208 →
      Completes (.dispatch u) s fun t =>
        t.slot u = { s.slot u with running := none, freeAt := s.time, job := Job.idle } ∧
        (∀ v, v ≠ u → t.slot v = s.slot v) ∧
        t.usher.done = s.usher.done ++ [s.completion k (unitOf u) v []] ∧
        t.ctr C.USH_CNT_FAIL = C.USH_CNT_FAIL.plus (s.ctr C.USH_CNT_FAIL) 1 ∧
        (u < 8 → t.ctr (C.ENG_CNT_TASKS u) = (C.ENG_CNT_TASKS u).plus (s.ctr (C.ENG_CNT_TASKS u)) 1) ∧
        (s.on (F.USH_SQ_CTRL_HALT_ERR k.sq) = true → bitN (t.g F.USH_FLAGS_HALTED) k.sq = true) ∧
        sameRegs [(C.ENG_CNT_TASKS u).off, C.USH_CNT_FAIL.off, F.USH_FLAGS, (C.USH_CNT_NQ_LOST 1).off] s t ∧
        t = { s with regs := t.regs, moment := t.moment, notices := t.notices, agenda := t.agenda
                     usher := { s.usher with rings := t.usher.rings, slots := t.usher.slots, done := t.usher.done } }) ∧
    (∀ (u n : Nat) (k : Task),
      u < 12 →
      (s.slot u).running = some k →
      (s.slot u).job.phase = 0 →
      u < 4 →
      (s.slot u).job.due ≤ s.now →
      (s.slot u).job.status = 0 →
      k.op = 0x10 ∨ k.op = 0x11 →
      k.rectReach = true →
      n = 240 + k.rect.ticksLeft 0 0 (s.rectRate u k) →
      Completes (.dispatch u) s fun t =>
        t.usher.slots = (modNth s.usher.slots u fun x => { x with job :=
          { x.job with phase := 1, began := s.time + 240, due := s.now + n } }) ∧
        t.g (F.ENG_PROGRESS_DONE u) = 0 ∧ sameRegs [F.ENG_PROGRESS u] s t ∧
        (s.now + n, Instr.taskEnd u none 0) ∈ t.agenda ∧
        t = { s with regs := t.regs, agenda := t.agenda, usher := { s.usher with slots := t.usher.slots } }) ∧
    (∀ (u a n : Nat) (k : Task),
      (s.slot u).running = some k →
      u = 4 ∨ u = 5 →
      (s.slot u).job.phase = 1 →
      (s.slot u).job.due ≤ s.now →
      k.w 8 % 2 = 1 →
      k.kind < 3 →
      s.storeBad = [] →
      s.bankInUse k.kind k.target k.bank = false →
      loadBase k.kind k.target k.bank = some a →
      n = (s.slot u).job.count →
      Completes (.dispatch u) s fun t =>
        t.store = s.store.write (a + 64 * n) (s.store.read (k.q 6 + 64 * n) 64) ∧
        t.g (F.ENG_PROGRESS_DONE u) = (64 * n + 64) % 2 ^ 32 ∧ sameRegs [F.ENG_PROGRESS u] s t ∧
        (64 * (n + 1) ≠ loadSize k.kind → (s.slot u).job.aborted = false →
          t.slot u = { s.slot u with job := { (s.slot u).job with
            count := n + 1, bytes := (s.slot u).job.bytes + 64, due := s.now + 32 } } ∧
          (s.now + 32, Instr.dispatch u) ∈ t.agenda) ∧
        (64 * (n + 1) = loadSize k.kind → t.slot u = { s.slot u with job := { (s.slot u).job with
          phase := 2, status := 0, count := n + 1, bytes := (s.slot u).job.bytes + 64, due := s.now } } ∧
          (s.now, Instr.taskEnd u none 0) ∈ t.agenda) ∧ (∀ v, v ≠ u → t.slot v = s.slot v) ∧
        t = { s with regs := t.regs, agenda := t.agenda, store := t.store, storeBad := t.storeBad
                     usher := { s.usher with slots := t.usher.slots } }) ∧
    (∀ (n : Nat) (k : Task),
      (s.slot 7).running = some k →
      k.op = 0x40 →
      (s.slot 7).job.phase = 1 →
      (s.slot 7).job.due ≤ s.now →
      (s.slot 7).job.aborted = false →
      n = (s.slot 7).job.count + (s.slot 7).job.skipped →
      n ≠ k.w 5 →
      s.on F.ARC_STATUS_BUSY = true →
      Completes (.dispatch 7) s fun t =>
        t = s) ∧
    (∀ (n : Nat) (k : Task),
      (s.slot 7).running = some k →
      k.op = 0x40 →
      (s.slot 7).job.phase = 1 →
      (s.slot 7).job.due ≤ s.now →
      (s.slot 7).job.aborted = false →
      n = (s.slot 7).job.count + (s.slot 7).job.skipped →
      n ≠ k.w 5 →
      s.on F.ARC_STATUS_BUSY = false →
      s.storeBad = [] →
      s.store.read (k.q 6 + 256 * n) 256 = s.block (k.w 4 + n) →
      s.archiveBad.contains (k.w 4 + n) = false →
      Completes (.dispatch 7) s fun t =>
        t.usher.slots = (modNth s.usher.slots 7 fun x => { x with job := { x.job with skipped := x.job.skipped + 1, due := s.now + 3000 } }) ∧
        t.ctr C.ENG_CNT_ARC_SKIP = C.ENG_CNT_ARC_SKIP.plus (s.ctr C.ENG_CNT_ARC_SKIP) 1 ∧
        t.g (F.ENG_PROGRESS_DONE 7) = (n + 1) % 2 ^ 32 ∧ sameRegs [C.ENG_CNT_ARC_SKIP.off, F.ENG_PROGRESS 7] s t ∧
        (s.now + 3000, Instr.dispatch 7) ∈ t.agenda ∧
        t = { s with regs := t.regs, moment := t.moment, agenda := t.agenda, usher := { s.usher with slots := t.usher.slots } }) ∧
    (∀ (n : Nat) (k : Task),
      (s.slot 7).running = some k →
      k.op = 0x40 →
      (s.slot 7).job.phase = 1 →
      (s.slot 7).job.due ≤ s.now →
      (s.slot 7).job.aborted = false →
      n = (s.slot 7).job.count + (s.slot 7).job.skipped →
      n ≠ k.w 5 →
      s.on F.ARC_STATUS_BUSY = false →
      s.storeBad = [] →
      s.store.read (k.q 6 + 256 * n) 256 ≠ s.block (k.w 4 + n) ∨ s.archiveBad.contains (k.w 4 + n) = true →
      s.wearOf (k.w 4 + n) + 1 < 1000000 →
      Completes (.dispatch 7) s fun t =>
        t.wearOf (k.w 4 + n) = s.wearOf (k.w 4 + n) + 1 ∧ (∀ a, a ≠ k.w 4 + n → t.wearOf a = s.wearOf a) ∧
        (t.slot 7).job.phase = 2 ∧ (t.slot 7).job.tries = 1 ∧ (s.now + 60000, Instr.arcBlockWritten true 0) ∈ t.agenda ∧
        t = { s with agenda := t.agenda, wear := t.wear, usher := { s.usher with slots := t.usher.slots } }) ∧
    (∀ (k : Task) (j : Job),
      (s.slot 7).running = some k →
      k.op = 0x40 →
      (s.slot 7).job.phase = 1 →
      (s.slot 7).job.due ≤ s.now →
      (s.slot 7).job.aborted = false →
      (s.slot 7).job.count + (s.slot 7).job.skipped = k.w 5 →
      k.sq < 16 →
      j = (s.slot 7).job →
      Completes (.dispatch 7) s fun t =>
        t.slot 7 = { s.slot 7 with running := none, freeAt := s.time, job := Job.idle } ∧ (∀ v, v ≠ 7 → t.slot v = s.slot v) ∧
        t.usher.done = s.usher.done ++ [s.completion k 0 0 [j.count, j.skipped, j.retries, j.wear, 0xFFFFFFFF]] ∧
        t.ctr (C.ENG_CNT_TASKS 7) = (C.ENG_CNT_TASKS 7).plus (s.ctr (C.ENG_CNT_TASKS 7)) 1 ∧
        sameRegs [(C.ENG_CNT_TASKS 7).off] s t ∧
        t = { s with regs := t.regs, moment := t.moment, agenda := t.agenda
                     usher := { s.usher with rings := t.usher.rings, slots := t.usher.slots, done := t.usher.done } }) ∧
    (∀ (a : Nat) (k : Task),
      s.usher.ops = [(a, k)] →
      a ≤ s.time →
      k.sq < 16 →
      k.marks = 0 →
      s.dispatches = true →
      k.op = 0x51 →
      s.on F.USH_FLIGHT_ARMED = true →
      Completes (.dispatch 12) s fun t =>
        t.usher.done = s.usher.done ++ [s.completion { k with start := s.time } 0 0x8006 []] ∧
        t.usher.ops = [] ∧ t.ctr C.USH_CNT_FAIL = C.USH_CNT_FAIL.plus (s.ctr C.USH_CNT_FAIL) 1 ∧
        (s.on (F.USH_SQ_CTRL_HALT_ERR k.sq) = true → bitN (t.g F.USH_FLAGS_HALTED) k.sq = true) ∧
        sameRegs [C.USH_CNT_FAIL.off, F.USH_FLAGS, (C.USH_CNT_NQ_LOST 1).off] s t ∧
        t = { s with regs := t.regs, moment := t.moment, notices := t.notices, agenda := t.agenda
                     usher := { s.usher with rings := t.usher.rings, ops := [], done := t.usher.done } }) ∧
    (∀ (a : Nat) (k : Task),
      s.usher.ops = [(a, k)] →
      a ≤ s.time →
      k.sq < 16 →
      k.marks = 0 →
      s.dispatches = true →
      k.op = 0x51 →
      s.on F.USH_FLIGHT_ARMED = false →
      (maskPipes (k.w 4 % 16)).any (fun p => (s.slot (8 + p)).running.isSome || (s.slot (8 + p)).deck.isSome) = true →
      Completes (.dispatch 12) s fun t =>
        t.usher.done = s.usher.done ++ [s.completion { k with start := s.time } 0 0x8005 []] ∧
        t.usher.ops = [] ∧ t.ctr C.USH_CNT_FAIL = C.USH_CNT_FAIL.plus (s.ctr C.USH_CNT_FAIL) 1 ∧
        (s.on (F.USH_SQ_CTRL_HALT_ERR k.sq) = true → bitN (t.g F.USH_FLAGS_HALTED) k.sq = true) ∧
        sameRegs [C.USH_CNT_FAIL.off, F.USH_FLAGS, (C.USH_CNT_NQ_LOST 1).off] s t ∧
        t = { s with regs := t.regs, moment := t.moment, notices := t.notices, agenda := t.agenda
                     usher := { s.usher with rings := t.usher.rings, ops := [], done := t.usher.done } }) ∧
    (∀ (a : Nat) (k : Task),
      s.usher.ops = [(a, k)] →
      a ≤ s.time →
      k.sq < 16 →
      k.marks = 0 →
      s.dispatches = true →
      k.op = 0x51 →
      s.on F.USH_FLIGHT_ARMED = false →
      k.w 4 % 16 = 0 →
      Completes (.dispatch 12) s fun t =>
        t.usher.done = s.usher.done ++ [s.completion { k with start := s.time } 0 0x8002 []] ∧
        t.usher.ops = [] ∧ t.ctr C.USH_CNT_FAIL = C.USH_CNT_FAIL.plus (s.ctr C.USH_CNT_FAIL) 1 ∧
        (s.on (F.USH_SQ_CTRL_HALT_ERR k.sq) = true → bitN (t.g F.USH_FLAGS_HALTED) k.sq = true) ∧
        sameRegs [C.USH_CNT_FAIL.off, F.USH_FLAGS, (C.USH_CNT_NQ_LOST 1).off] s t ∧
        t = { s with regs := t.regs, moment := t.moment, notices := t.notices, agenda := t.agenda
                     usher := { s.usher with rings := t.usher.rings, ops := [], done := t.usher.done } }) ∧
    (∀ (a : Nat) (k : Task),
      s.usher.ops = [(a, k)] →
      a ≤ s.time →
      k.sq < 16 →
      k.marks = 0 →
      s.dispatches = true →
      k.op = 0x51 →
      s.on F.USH_FLIGHT_ARMED = false →
      k.w 4 % 16 ≠ 0 →
      (maskPipes (k.w 4 % 16)).all (fun p => (s.slot (8 + p)).running.isNone && (s.slot (8 + p)).deck.isNone &&
        s.g (F.PIP_SRC_SRC p) != 0) = true →
      Completes (.dispatch 12) s fun t =>
        t.g F.USH_FLIGHT_ARMED = 1 ∧ t.g F.USH_FLIGHT_PIPES = k.w 4 % 16 ∧ sameRegs [F.USH_FLIGHT] s t ∧
        t.usher.arm = some { k with start := s.time } ∧
        (∀ p ∈ maskPipes (k.w 4 % 16), p < s.pipes.length → (t.pipe p).bound = true ∧ (t.pipe p).landed = false ∧
          (t.pipe p).frames = (s.pipe p).frames) ∧
        (∀ p, p ∉ maskPipes (k.w 4 % 16) → t.pipe p = s.pipe p) ∧
        t = { s with regs := t.regs, pipes := t.pipes, usher := { s.usher with ops := [], arm := t.usher.arm } }) ∧
    (∀ (a : Nat) (k : Task),
      s.usher.ops = [(a, k)] →
      a ≤ s.time →
      k.sq < 16 →
      k.marks = 0 →
      s.dispatches = true →
      k.op = 0x52 →
      s.on F.USH_FLIGHT_ARMED = false →
      Completes (.dispatch 12) s fun t =>
        t.usher.done = s.usher.done ++ [s.completion { k with start := s.time } 0 1 []] ∧
        t = { s with agenda := t.agenda, usher := { s.usher with rings := t.usher.rings, ops := [], done := t.usher.done } }) ∧
    (∀ (a : Nat) (k : Task),
      s.usher.ops = [(a, k)] →
      a ≤ s.time →
      k.sq < 16 →
      k.marks = 0 →
      s.dispatches = true →
      k.op = 0x52 →
      s.on F.USH_FLIGHT_ARMED = true →
      s.usher.arm = none →
      Completes (.dispatch 12) s fun t =>
        t.g F.USH_FLIGHT_DISARMING = 1 ∧ sameRegs [F.USH_FLIGHT] s t ∧
        t.usher.disarms = s.usher.disarms ++ [{ k with start := s.time }] ∧
        (∀ p ∈ List.range 4, t.pipe p = if (s.pipe p).bound then
          { s.pipe p with disarming := true, frames := (s.pipe p).frames.filter fun x => !(x.flight && decide (s.time < x.start)) }
          else s.pipe p) ∧
        (s.now, Instr.flightDisarmed) ∈ t.agenda ∧
        t = { s with regs := t.regs, agenda := t.agenda, pipes := t.pipes
                     usher := { s.usher with ops := [], disarms := t.usher.disarms } }) ∧
    (∀ (u : Nat),
      12 ≤ u →
      s.usher.ops.all (fun x => !s.opReady x) = true →
      Completes (.dispatch u) s fun t =>
        t = s)
end

