-- ==== Sys2Proof/Laws/Fields.lean ====
section
/-! SUPPORT. Laws of bit fields: a field written reads as written, the bits outside it as before. -/

namespace Sys2Proof.Machine

/-- The number that `withBits` spells. -/
def withNum (w hi lo v : Nat) : Nat :=
  w % 2 ^ lo + (v % 2 ^ (hi + 1 - lo)) * 2 ^ lo + w / 2 ^ (hi + 1) * 2 ^ (hi + 1)

theorem withNum_div {w hi lo v : Nat} (h : lo ≤ hi) :
    withNum w hi lo v / 2 ^ lo = v % 2 ^ (hi + 1 - lo) + w / 2 ^ (hi + 1) * 2 ^ (hi + 1 - lo) := by
  have e : (2 : Nat) ^ (hi + 1) = 2 ^ (hi + 1 - lo) * 2 ^ lo := by
    rw [← Nat.pow_add]; congr 1; omega
  have : withNum w hi lo v = w % 2 ^ lo + 2 ^ lo * (v % 2 ^ (hi + 1 - lo) + w / 2 ^ (hi + 1) * 2 ^ (hi + 1 - lo)) := by
    unfold withNum
    generalize w / 2 ^ (hi + 1) = q
    rw [e]
    simp only [Nat.mul_add, Nat.add_assoc, Nat.mul_comm, Nat.mul_left_comm]
  rw [this, Nat.add_mul_div_left _ _ (Nat.two_pow_pos lo), Nat.div_eq_of_lt (Nat.mod_lt _ (Nat.two_pow_pos lo)), Nat.zero_add]

theorem withNum_field {w hi lo v : Nat} (h : lo ≤ hi) :
    withNum w hi lo v / 2 ^ lo % 2 ^ (hi + 1 - lo) = v % 2 ^ (hi + 1 - lo) := by
  rw [withNum_div h, Nat.add_mul_mod_self_right, Nat.mod_mod]

theorem withNum_high {w hi lo v : Nat} (h : lo ≤ hi) : withNum w hi lo v / 2 ^ (hi + 1) = w / 2 ^ (hi + 1) := by
  have e : (2 : Nat) ^ (hi + 1) = 2 ^ lo * 2 ^ (hi + 1 - lo) := by
    rw [← Nat.pow_add]; congr 1; omega
  rw [e, ← Nat.div_div_eq_div_mul, withNum_div h, Nat.add_mul_div_right _ _ (Nat.two_pow_pos _),
    Nat.div_eq_of_lt (Nat.mod_lt _ (Nat.two_pow_pos _)), Nat.zero_add, e]

theorem withNum_low {w hi lo v : Nat} (h : lo ≤ hi) : withNum w hi lo v % 2 ^ lo = w % 2 ^ lo := by
  have e : (2 : Nat) ^ (hi + 1) = 2 ^ (hi + 1 - lo) * 2 ^ lo := by
    rw [← Nat.pow_add]; congr 1; omega
  unfold withNum
  rw [e, ← Nat.mul_assoc, Nat.add_mul_mod_self_right, Nat.add_mul_mod_self_right, Nat.mod_mod]

theorem withNum_lt {w hi lo v : Nat} (h : lo ≤ hi) (h32 : hi ≤ 31) (hw : w < 2 ^ 32) : withNum w hi lo v < 2 ^ 32 := by
  have e : (2 : Nat) ^ 32 = 2 ^ (31 - hi) * 2 ^ (hi + 1) := by
    rw [← Nat.pow_add]; congr 1; omega
  rw [e, ← Nat.div_lt_iff_lt_mul (Nat.two_pow_pos _), withNum_high h, Nat.div_lt_iff_lt_mul (Nat.two_pow_pos _), ← e]
  exact hw

theorem withBits_toNat (w : Word) {hi lo : Nat} (v : Nat) (h : lo ≤ hi) (h32 : hi ≤ 31) :
    (withBits w hi lo v).toNat = withNum w.toNat hi lo v := by
  rw [withBits, BitVec.toNat_ofNat]
  exact Nat.mod_eq_of_lt (withNum_lt h h32 w.isLt)

/-- A field reads as it was written. -/
theorem bitsOf_withBits_same (w : Word) {hi lo : Nat} (v : Nat) (h : lo ≤ hi) (h32 : hi ≤ 31) :
    bitsOf (withBits w hi lo v) hi lo = v % 2 ^ (hi + 1 - lo) := by
  rw [bitsOf, withBits_toNat w v h h32, withNum_field h]

/-- A field above the one written reads as before. -/
theorem bitsOf_withBits_above (w : Word) {hi lo hi' lo' : Nat} (v : Nat) (h : lo ≤ hi) (h32 : hi ≤ 31) (ha : hi < lo') :
    bitsOf (withBits w hi lo v) hi' lo' = bitsOf w hi' lo' := by
  rw [bitsOf, bitsOf, withBits_toNat w v h h32]
  have e : (2 : Nat) ^ lo' = 2 ^ (hi + 1) * 2 ^ (lo' - (hi + 1)) := by
    rw [← Nat.pow_add]; congr 1; omega
  rw [e, ← Nat.div_div_eq_div_mul, withNum_high h, Nat.div_div_eq_div_mul]

/-- A field below the one written reads as before. -/
theorem bitsOf_withBits_below (w : Word) {hi lo hi' lo' : Nat} (v : Nat) (h : lo ≤ hi) (h32 : hi ≤ 31) (hb : hi' < lo) :
    bitsOf (withBits w hi lo v) hi' lo' = bitsOf w hi' lo' := by
  rw [bitsOf, bitsOf, withBits_toNat w v h h32]
  by_cases hl : lo' ≤ hi'
  · have key : ∀ n : Nat, n / 2 ^ lo' % 2 ^ (hi' + 1 - lo') = n % 2 ^ lo % 2 ^ (hi' + 1) / 2 ^ lo' := by
      intro n
      have e : (2 : Nat) ^ (hi' + 1) = 2 ^ lo' * 2 ^ (hi' + 1 - lo') := by
        rw [← Nat.pow_add]; congr 1; omega
      rw [Nat.mod_mod_of_dvd _ (Nat.pow_dvd_pow 2 (by omega)), e, Nat.mod_mul_right_div_self]
    rw [key, key, withNum_low h]
  · have : hi' + 1 - lo' = 0 := by omega
    simp [this, Nat.mod_one]

end Sys2Proof.Machine
end

