-- ==== Sys2Proof/Laws/Sparse.lean ====
section
/-! SUPPORT. Laws of sparse contents: read after write, other addresses, the canonical form kept. -/

namespace Sys2Proof.Machine

variable {α : Type}

theorem sget_sdel_same (d : Nat → α) (m : List (Nat × α)) (k : Nat) : sget d (sdel m k) k = d k := by
  induction m with
  | nil => rfl
  | cons c m ih =>
    obtain ⟨a, v⟩ := c
    by_cases h : k = a <;> simp [sdel, sget, h] <;> simp_all

theorem sget_sdel_other (d : Nat → α) (m : List (Nat × α)) {k j : Nat} (h : j ≠ k) : sget d (sdel m k) j = sget d m j := by
  induction m with
  | nil => rfl
  | cons c m ih =>
    obtain ⟨a, v⟩ := c
    by_cases hk : k = a
    · subst hk; simp [sdel, sget, h, ih]
    · simp [sdel, sget, hk, ih]

theorem sget_sput_same (d : Nat → α) (m : List (Nat × α)) (k : Nat) (v : α) : sget d (sput m k v) k = v := by
  induction m with
  | nil => simp [sput, sget]
  | cons c m ih =>
    obtain ⟨a, w⟩ := c
    simp only [sput]
    split
    · simp [sget]
    · split
      · simp [sget]
      · simp [sget, *]

theorem sget_sput_other (d : Nat → α) (m : List (Nat × α)) {k j : Nat} (v : α) (h : j ≠ k) :
    sget d (sput m k v) j = sget d m j := by
  induction m with
  | nil => simp [sput, sget, h]
  | cons c m ih =>
    obtain ⟨a, w⟩ := c
    simp only [sput]
    split
    · subst_vars; simp [sget, h]
    · split
      · simp [sget, h]
      · simp [sget, ih]

variable [DecidableEq α]

/-- A read of the address just written answers what was written. -/
theorem sget_sset_same (d : Nat → α) (m : List (Nat × α)) (k : Nat) (v : α) : sget d (sset d m k v) k = v := by
  unfold sset; split
  · rw [sget_sdel_same]; exact (by assumption : v = d k).symm
  · exact sget_sput_same ..

/-- A write leaves every other address alone. -/
theorem sget_sset_other (d : Nat → α) (m : List (Nat × α)) {k j : Nat} (v : α) (h : j ≠ k) :
    sget d (sset d m k v) j = sget d m j := by
  unfold sset; split
  · exact sget_sdel_other d m h
  · exact sget_sput_other d m v h

/-- Every address of a canonical list lies above its bound. -/
def sbound : Option Nat → Nat → Prop
  | none, _ => True
  | some lo, k => lo < k

theorem sbelow_cons (d : Nat → α) (lo : Option Nat) (a : Nat) (v : α) (m : List (Nat × α)) :
    sbelow d lo ((a, v) :: m) = true ↔ sbound lo a ∧ v ≠ d a ∧ sbelow d (some a) m = true := by
  cases lo <;> simp [sbelow, sbound, and_assoc]

theorem sbelow_weaken (d : Nat → α) {lo : Option Nat} {a : Nat} (h : sbound lo a) {m : List (Nat × α)}
    (hm : sbelow d (some a) m = true) : sbelow d lo m = true := by
  cases m with
  | nil => cases lo <;> rfl
  | cons c m =>
    obtain ⟨b, v⟩ := c
    rw [sbelow_cons] at hm ⊢
    refine ⟨?_, hm.2⟩
    cases lo with
    | none => trivial
    | some l => exact Nat.lt_trans h hm.1

theorem sbelow_sdel (d : Nat → α) (m : List (Nat × α)) (k : Nat) :
    ∀ lo, sbelow d lo m = true → sbelow d lo (sdel m k) = true := by
  induction m with
  | nil => intro lo h; exact h
  | cons c m ih =>
    obtain ⟨a, v⟩ := c
    intro lo h
    rw [sbelow_cons] at h
    unfold sdel; split
    · exact ih lo (sbelow_weaken d h.1 h.2.2)
    · rw [sbelow_cons]; exact ⟨h.1, h.2.1, ih _ h.2.2⟩

theorem sbelow_sput (d : Nat → α) (m : List (Nat × α)) (k : Nat) (v : α) (hv : v ≠ d k) :
    ∀ lo, sbound lo k → sbelow d lo m = true → sbelow d lo (sput m k v) = true := by
  induction m with
  | nil => intro lo hk _; simp only [sput]; rw [sbelow_cons]; exact ⟨hk, hv, rfl⟩
  | cons c m ih =>
    obtain ⟨a, w⟩ := c
    intro lo hk h
    rw [sbelow_cons] at h
    unfold sput; split
    · rename_i e; rw [sbelow_cons]; rw [← e] at h; exact ⟨hk, hv, h.2.2⟩
    · rename_i hne
      split
      · rename_i hlt
        rw [sbelow_cons, sbelow_cons]; exact ⟨hk, hv, hlt, h.2.1, h.2.2⟩
      · rename_i hge
        rw [sbelow_cons]
        exact ⟨h.1, h.2.1, ih _ (show a < k by omega) h.2.2⟩

/-- A write keeps the canonical form. -/
theorem swf_sset (d : Nat → α) {m : List (Nat × α)} (k : Nat) (v : α) (h : swf d m = true) :
    swf d (sset d m k v) = true := by
  unfold sset; split
  · exact sbelow_sdel d m k none h
  · exact sbelow_sput d m k v (by assumption) none trivial h

/-- A run of writes keeps the canonical form. -/
theorem swf_swrite (d : Nat → α) (vs : List α) :
    ∀ {m : List (Nat × α)} (a : Nat), swf d m = true → swf d (swrite d m a vs) = true := by
  induction vs with
  | nil => intro m a h; exact h
  | cons v vs ih => intro m a h; exact ih (a + 1) (swf_sset d a v h)

/-- Entries taken out keep the canonical form. -/
theorem swf_filter (d : Nat → α) (p : Nat × α → Bool) {m : List (Nat × α)} (h : swf d m = true) :
    swf d (m.filter p) = true := by
  suffices H : ∀ lo, sbelow d lo m = true → sbelow d lo (m.filter p) = true from H none h
  clear h
  induction m with
  | nil => intro lo h; exact h
  | cons c m ih =>
    obtain ⟨a, v⟩ := c
    intro lo h
    rw [sbelow_cons] at h
    by_cases hp : p (a, v) = true
    · rw [List.filter_cons_of_pos hp, sbelow_cons]; exact ⟨h.1, h.2.1, ih _ h.2.2⟩
    · rw [List.filter_cons_of_neg hp]; exact ih lo (sbelow_weaken d h.1 h.2.2)

theorem swf_sdrop (d : Nat → α) {m : List (Nat × α)} (lo hi : Nat) (h : swf d m = true) :
    swf d (sdrop m lo hi) = true := swf_filter d _ h

/-- An address outside the bytes written reads as before. -/
theorem sget_swrite_other (d : Nat → α) (vs : List α) :
    ∀ (m : List (Nat × α)) (a : Nat) {j : Nat}, (j < a ∨ a + vs.length ≤ j) → sget d (swrite d m a vs) j = sget d m j := by
  induction vs with
  | nil => intro m a j _; rfl
  | cons v vs ih =>
    intro m a j h
    simp only [List.length_cons] at h
    rw [swrite, ih (sset d m a v) (a + 1) (by omega)]
    exact sget_sset_other d m v (by omega)

/-- A byte written reads as written. -/
theorem sget_swrite_same (d : Nat → α) (vs : List α) :
    ∀ (m : List (Nat × α)) (a i : Nat) (h : i < vs.length), sget d (swrite d m a vs) (a + i) = vs[i] := by
  induction vs with
  | nil => intro m a i h; exact absurd h (by simp)
  | cons v vs ih =>
    intro m a i h
    rw [swrite]
    cases i with
    | zero =>
      rw [sget_swrite_other d vs _ _ (Or.inl (by omega))]
      exact sget_sset_same d m a v
    | succ i =>
      have := ih (sset d m a v) (a + 1) i (by simpa using h)
      rw [show a + (i + 1) = a + 1 + i by omega, this]; rfl

/-! ### Registers and memories -/

@[simp] theorem Regs.get_set_same (r : Regs) (o : Nat) (v : Word) : (r.set o v).get o = v := sget_sset_same ..

theorem Regs.get_set_other (r : Regs) {o p : Nat} (v : Word) (h : p ≠ o) : (r.set o v).get p = r.get p :=
  sget_sset_other _ r v h

theorem Regs.get_set (r : Regs) (o p : Nat) (v : Word) : (r.set o v).get p = if p = o then v else r.get p := by
  split
  · subst_vars; exact Regs.get_set_same ..
  · exact Regs.get_set_other r v (by assumption)

theorem Regs.wf_set {r : Regs} (o : Nat) (v : Word) (h : r.wf = true) : (r.set o v).wf = true := swf_sset _ o v h

theorem Regs.wf_filter {r : Regs} (p : Nat × Word → Bool) (h : r.wf = true) : Regs.wf (r.filter p) = true := swf_filter _ p h

theorem Bytes.wf_write {m : Bytes} (a : Nat) (bs : List Byte) (h : m.wf = true) : (m.write a bs).wf = true :=
  swf_swrite _ bs a h

theorem StoreBytes.wf_write {m : StoreBytes} (a : Nat) (bs : List Byte) (h : m.wf = true) : (m.write a bs).wf = true :=
  swf_swrite _ bs a h

theorem ArcBytes.wf_write {m : ArcBytes} (a : Nat) (bs : List Byte) (h : m.wf = true) : (m.write a bs).wf = true :=
  swf_swrite _ bs a h

theorem StoreBytes.get_write_other (m : StoreBytes) {a j : Nat} (bs : List Byte) (h : j < a ∨ a + bs.length ≤ j) :
    (m.write a bs).get j = m.get j := sget_swrite_other _ bs m a h

theorem StoreBytes.get_write_same (m : StoreBytes) (a i : Nat) (bs : List Byte) (h : i < bs.length) :
    (m.write a bs).get (a + i) = bs[i] := sget_swrite_same _ bs m a i h

theorem ArcBytes.get_write_other (m : ArcBytes) {a j : Nat} (bs : List Byte) (h : j < a ∨ a + bs.length ≤ j) :
    (m.write a bs).get j = m.get j := sget_swrite_other _ bs m a h

theorem ArcBytes.get_write_same (m : ArcBytes) (a i : Nat) (bs : List Byte) (h : i < bs.length) :
    (m.write a bs).get (a + i) = bs[i] := sget_swrite_same _ bs m a i h

theorem Bytes.get_write_other (m : Bytes) {a j : Nat} (bs : List Byte) (h : j < a ∨ a + bs.length ≤ j) :
    (m.write a bs).get j = m.get j := sget_swrite_other _ bs m a h

theorem Bytes.get_write_same (m : Bytes) (a i : Nat) (bs : List Byte) (h : i < bs.length) :
    (m.write a bs).get (a + i) = bs[i] := sget_swrite_same _ bs m a i h

end Sys2Proof.Machine
end

