-- ==== Sys2Proof/Laws/Keeps.lean ====
section
/-! SUPPORT. Laws of `Keeps`: it is carried through record updates, choices, runs over lists and counts, and the
operations that write registers and memories. -/

namespace Sys2Proof.Machine

theorem Keeps.refl (s : State) : Keeps s s := ⟨rfl, rfl, fun _ => Nat.le_refl _, Nat.le_refl _, id⟩

theorem Keeps.trans {s t u : State} (h : Keeps s t) (k : Keeps t u) : Keeps s u :=
  ⟨k.pending.trans h.pending, k.now.trans h.now, fun b => Nat.le_trans (h.wear b) (k.wear b),
    Nat.le_trans h.rollback k.rollback, fun w => k.wf (h.wf w)⟩

/-- An update of fields that hold no memory. -/
theorem keeps_mk {s0 t : State} {ag fc lt mo ne bo st pc str iset mon strm cams pl no ha po pi jo pla li sta th pio us sb ab}
    (hp : pc.hostMem = t.pcie.hostMem) (h : Keeps s0 t) :
    Keeps s0 (State.mk t.pending ag t.now fc t.regs t.eff lt mo ne bo st pc str iset mon strm cams pl no ha po pi jo pla li
      sta th pio us t.store sb t.archive ab t.wear t.rollback) := by
  refine ⟨h.pending, h.now, h.wear, h.rollback, fun w => ?_⟩
  have := h.wf w
  simp only [State.memWf] at this ⊢
  rw [hp]; exact this

/-- The same, to be used from left to right. -/
theorem keeps_mk_iff {s0 t : State} {ag fc lt mo ne bo st pc str iset mon strm cams pl no ha po pi jo pla li sta th pio us sb ab}
    (hp : pc.hostMem = t.pcie.hostMem) :
    Keeps s0 (State.mk t.pending ag t.now fc t.regs t.eff lt mo ne bo st pc str iset mon strm cams pl no ha po pi jo pla li
      sta th pio us t.store sb t.archive ab t.wear t.rollback) ↔ Keeps s0 t := by
  refine ⟨fun h => ⟨h.pending, h.now, h.wear, h.rollback, fun w => ?_⟩, keeps_mk hp⟩
  have := h.wf w
  simp only [State.memWf] at this ⊢
  rw [hp] at this; exact this

theorem keeps_ite {s0 a b : State} {c : Prop} [Decidable c] (ha : Keeps s0 a) (hb : Keeps s0 b) :
    Keeps s0 (if c then a else b) := by
  split <;> assumption

theorem keeps_foldl {α : Type} {s0 s : State} {l : List α} {f : State → α → State}
    (hf : ∀ t x, Keeps s0 t → Keeps s0 (f t x)) (h : Keeps s0 s) : Keeps s0 (l.foldl f s) := by
  induction l generalizing s with
  | nil => exact h
  | cons a l ih => exact ih (hf _ _ h)

/-- A run over a list that carries a state and something else. -/
theorem keeps_foldl_fst {α β : Type} {s0 : State} {l : List α} {f : State × β → α → State × β} {b : State × β}
    (hf : ∀ a x, Keeps s0 a.1 → Keeps s0 (f a x).1) (h : Keeps s0 b.1) : Keeps s0 (l.foldl f b).1 := by
  induction l generalizing b with
  | nil => exact h
  | cons a l ih => exact ih (hf _ _ h)

theorem keeps_foldl_snd {α β : Type} {s0 : State} {l : List α} {f : β × State → α → β × State} {b : β × State}
    (hf : ∀ a x, Keeps s0 a.2 → Keeps s0 (f a x).2) (h : Keeps s0 b.2) : Keeps s0 (l.foldl f b).2 := by
  induction l generalizing b with
  | nil => exact h
  | cons a l ih => exact ih (hf _ _ h)

theorem keeps_overIdx {s0 s : State} {n : Nat} {f : Nat → State → State}
    (hf : ∀ i t, Keeps s0 t → Keeps s0 (f i t)) (h : Keeps s0 s) : Keeps s0 (overIdx f n s) := by
  induction n with
  | zero => exact h
  | succ n ih => exact hf _ _ ih

theorem setReg_keeps {s0 s : State} {o : Nat} {w : Word} (h : Keeps s0 s) : Keeps s0 (s.setReg o w) := by
  refine ⟨h.pending, h.now, h.wear, h.rollback, fun v => ?_⟩
  have := h.wf v
  simp only [State.memWf, State.setReg, Bool.and_eq_true] at this ⊢
  exact ⟨⟨⟨⟨⟨Regs.wf_set _ _ this.1.1.1.1.1, this.1.1.1.1.2⟩, this.1.1.1.2⟩, this.1.1.2⟩, this.1.2⟩, this.2⟩

theorem setEff_keeps {s0 s : State} {o : Nat} {w : Word} (h : Keeps s0 s) : Keeps s0 (s.setEff o w) := by
  refine ⟨h.pending, h.now, h.wear, h.rollback, fun v => ?_⟩
  have := h.wf v
  simp only [State.memWf, State.setEff, Bool.and_eq_true] at this ⊢
  exact ⟨⟨⟨⟨⟨this.1.1.1.1.1, Regs.wf_set _ _ this.1.1.1.1.2⟩, this.1.1.1.2⟩, this.1.1.2⟩, this.1.2⟩, this.2⟩

theorem storeWrite_keeps {s0 s : State} {a : Nat} {bs : List Byte} (h : Keeps s0 s) : Keeps s0 (s.storeWrite a bs) := by
  refine ⟨h.pending, h.now, h.wear, h.rollback, fun v => ?_⟩
  have := h.wf v
  simp only [State.memWf, State.storeWrite, Bool.and_eq_true] at this ⊢
  exact ⟨⟨⟨⟨this.1.1.1.1, StoreBytes.wf_write _ _ this.1.1.1.2⟩, this.1.1.2⟩, this.1.2⟩, this.2⟩

theorem storeClear_keeps {s0 s : State} {a n : Nat} (h : Keeps s0 s) : Keeps s0 (s.storeClear a n) := by
  refine ⟨h.pending, h.now, h.wear, h.rollback, fun v => ?_⟩
  have := h.wf v
  simp only [State.memWf, State.storeClear, Bool.and_eq_true] at this ⊢
  exact ⟨⟨⟨⟨this.1.1.1.1, swf_sdrop _ _ _ this.1.1.1.2⟩, this.1.1.2⟩, this.1.2⟩, this.2⟩

theorem hostWrite_keeps {s0 s : State} {a : Nat} {bs : List Byte} {ro : Bool} (h : Keeps s0 s) :
    Keeps s0 (s.hostWrite a bs ro) := by
  refine ⟨h.pending, h.now, h.wear, h.rollback, fun v => ?_⟩
  have := h.wf v
  simp only [State.memWf, State.hostWrite, Bool.and_eq_true] at this ⊢
  exact ⟨this.1, Bytes.wf_write _ _ this.2⟩

theorem blockIs_keeps {s0 s : State} {b : Nat} {bs : List Byte} (h : Keeps s0 s) : Keeps s0 (s.blockIs b bs) := by
  refine ⟨h.pending, h.now, h.wear, h.rollback, fun v => ?_⟩
  have := h.wf v
  simp only [State.memWf, State.blockIs, Bool.and_eq_true] at this ⊢
  exact ⟨⟨⟨this.1.1.1, ArcBytes.wf_write _ _ this.1.1.2⟩, this.1.2⟩, this.2⟩

/-- An update of the blocks that read as uncorrectable, and of nothing else. -/
theorem archiveBad_keeps {s0 s : State} {l : List Nat} (h : Keeps s0 s) : Keeps s0 { s with archiveBad := l } :=
  keeps_mk rfl h

theorem rollbackTo_keeps {s0 s : State} {v : Nat} (h : Keeps s0 s) : Keeps s0 (s.rollbackTo v) :=
  ⟨h.pending, h.now, h.wear, Nat.le_trans h.rollback (Nat.le_max_left ..), h.wf⟩

/-- One write attempt counted keeps every wear account from falling (R563). -/
theorem wearSet_keeps {s0 s : State} {b : Nat} (h : Keeps s0 s) :
    Keeps s0 { s with wear := s.wear.set b (BitVec.ofNat 32 (min (s.wearOf b + 1) (2 ^ 32 - 1))) } := by
  refine ⟨h.pending, h.now, fun c => Nat.le_trans (h.wear c) ?_, h.rollback, fun v => ?_⟩
  · rw [Regs.get_set]
    split
    · subst_vars
      have := (s.wear.get c).isLt
      simp only [State.wearOf, BitVec.toNat_ofNat]
      omega
    · exact Nat.le_refl _
  · have := h.wf v
    simp only [State.memWf, Bool.and_eq_true] at this ⊢
    exact ⟨⟨this.1.1, Regs.wf_set _ _ this.1.2⟩, this.2⟩

end Sys2Proof.Machine
end

