-- ==== Sys2Proof/Laws/Keeps1.lean ====
section
/-! SUPPORT. `Keeps` is carried through every operation of the model, part 1 of 6. -/

namespace Sys2Proof.Machine

theorem put_keeps {s0 s : State} {f : Fld} {v : Nat} (h : Keeps s0 s) : Keeps s0 (State.put s f v) := by
  unfold State.put
  try dsimp only
  repeat' first
    | intro _ | with_reducible assumption | exact rfl | with_reducible apply keeps_ite
    | with_reducible apply setReg_keeps | with_reducible apply keeps_foldl | with_reducible apply keeps_overIdx
    | simp only [↓keeps_mk_iff] | with_reducible apply keeps_foldl_fst | with_reducible apply keeps_foldl_snd | split

theorem putPair_keeps {s0 s : State} {lo : Nat} {v : Nat} (h : Keeps s0 s) : Keeps s0 (State.putPair s lo v) := by
  unfold State.putPair
  try dsimp only
  repeat' first
    | intro _ | with_reducible assumption | exact rfl | with_reducible apply keeps_ite
    | with_reducible apply setReg_keeps | with_reducible apply keeps_foldl | with_reducible apply keeps_overIdx
    | simp only [↓keeps_mk_iff] | with_reducible apply keeps_foldl_fst | with_reducible apply keeps_foldl_snd | split

theorem noteSet_keeps {s0 s : State} {off : Nat} {i : Nat} (h : Keeps s0 s) : Keeps s0 (State.noteSet s off i) := by
  unfold State.noteSet
  try dsimp only
  repeat' first
    | intro _ | with_reducible assumption | exact rfl | with_reducible apply keeps_ite
    | with_reducible apply keeps_foldl | with_reducible apply keeps_overIdx | simp only [↓keeps_mk_iff]
    | with_reducible apply keeps_foldl_fst | with_reducible apply keeps_foldl_snd | split

theorem noteClear_keeps {s0 s : State} {off : Nat} {m_ : Nat} (h : Keeps s0 s) :
    Keeps s0 (State.noteClear s off m_) := by
  unfold State.noteClear
  try dsimp only
  repeat' first
    | intro _ | with_reducible assumption | exact rfl | with_reducible apply keeps_ite
    | with_reducible apply keeps_foldl | with_reducible apply keeps_overIdx | simp only [↓keeps_mk_iff]
    | with_reducible apply keeps_foldl_fst | with_reducible apply keeps_foldl_snd | split

theorem noteCount_keeps {s0 s : State} {off : Nat} {n : Nat} (h : Keeps s0 s) :
    Keeps s0 (State.noteCount s off n) := by
  unfold State.noteCount
  try dsimp only
  repeat' first
    | intro _ | with_reducible assumption | exact rfl | with_reducible apply keeps_ite
    | with_reducible apply keeps_foldl | with_reducible apply keeps_overIdx | simp only [↓keeps_mk_iff]
    | with_reducible apply keeps_foldl_fst | with_reducible apply keeps_foldl_snd | split

theorem bumpBy_keeps {s0 s : State} {c : Ctr} {n : Nat} (h : Keeps s0 s) : Keeps s0 (State.bumpBy s c n) := by
  unfold State.bumpBy
  try dsimp only
  repeat' first
    | intro _ | with_reducible assumption | exact rfl | with_reducible apply keeps_ite
    | with_reducible apply noteCount_keeps | with_reducible apply put_keeps | with_reducible apply keeps_foldl
    | with_reducible apply keeps_overIdx | simp only [↓keeps_mk_iff] | with_reducible apply keeps_foldl_fst
    | with_reducible apply keeps_foldl_snd | split

theorem bump_keeps {s0 s : State} {c : Ctr} (h : Keeps s0 s) : Keeps s0 (State.bump s c) := by
  unfold State.bump
  try dsimp only
  repeat' first
    | intro _ | with_reducible assumption | exact rfl | with_reducible apply keeps_ite
    | with_reducible apply bumpBy_keeps | with_reducible apply keeps_foldl | with_reducible apply keeps_overIdx
    | simp only [↓keeps_mk_iff] | with_reducible apply keeps_foldl_fst | with_reducible apply keeps_foldl_snd | split

theorem setBit_keeps {s0 s : State} {f : Fld} {i : Nat} (h : Keeps s0 s) : Keeps s0 (State.setBit s f i) := by
  unfold State.setBit
  try dsimp only
  repeat' first
    | intro _ | with_reducible assumption | exact rfl | with_reducible apply keeps_ite
    | with_reducible apply noteSet_keeps | with_reducible apply put_keeps | with_reducible apply keeps_foldl
    | with_reducible apply keeps_overIdx | simp only [↓keeps_mk_iff] | with_reducible apply keeps_foldl_fst
    | with_reducible apply keeps_foldl_snd | split

theorem clearBit_keeps {s0 s : State} {f : Fld} {i : Nat} (h : Keeps s0 s) : Keeps s0 (State.clearBit s f i) := by
  unfold State.clearBit
  try dsimp only
  repeat' first
    | intro _ | with_reducible assumption | exact rfl | with_reducible apply keeps_ite
    | with_reducible apply put_keeps | with_reducible apply keeps_foldl | with_reducible apply keeps_overIdx
    | simp only [↓keeps_mk_iff] | with_reducible apply keeps_foldl_fst | with_reducible apply keeps_foldl_snd | split

theorem after_keeps {s0 s : State} {n : Nat} {c : Instr} (h : Keeps s0 s) : Keeps s0 (State.after s n c) := by
  unfold State.after
  try dsimp only
  repeat' first
    | intro _ | with_reducible assumption | exact rfl | with_reducible apply keeps_ite
    | with_reducible apply keeps_foldl | with_reducible apply keeps_overIdx | simp only [↓keeps_mk_iff]
    | with_reducible apply keeps_foldl_fst | with_reducible apply keeps_foldl_snd | split

theorem at__keeps {s0 s : State} {t : Nat} {c : Instr} (h : Keeps s0 s) : Keeps s0 (State.at_ s t c) := by
  unfold State.at_
  try dsimp only
  repeat' first
    | intro _ | with_reducible assumption | exact rfl | with_reducible apply keeps_ite
    | with_reducible apply after_keeps | with_reducible apply keeps_foldl | with_reducible apply keeps_overIdx
    | simp only [↓keeps_mk_iff] | with_reducible apply keeps_foldl_fst | with_reducible apply keeps_foldl_snd | split

theorem withdraw_keeps {s0 s : State} {p : Instr → Bool} (h : Keeps s0 s) : Keeps s0 (State.withdraw s p) := by
  unfold State.withdraw
  try dsimp only
  repeat' first
    | intro _ | with_reducible assumption | exact rfl | with_reducible apply keeps_ite
    | with_reducible apply keeps_foldl | with_reducible apply keeps_overIdx | simp only [↓keeps_mk_iff]
    | with_reducible apply keeps_foldl_fst | with_reducible apply keeps_foldl_snd | split

theorem free_keeps {s0 s : State} {n : Nat} (h : Keeps s0 s) : Keeps s0 (State.free s n).2 := by
  unfold State.free
  try dsimp only
  repeat' first
    | intro _ | with_reducible assumption | exact rfl | with_reducible apply keeps_ite
    | with_reducible apply keeps_foldl | with_reducible apply keeps_overIdx | simp only [↓keeps_mk_iff]
    | with_reducible apply keeps_foldl_fst | with_reducible apply keeps_foldl_snd | split

theorem send_keeps {s0 s : State} {m_ : HostMsg} (h : Keeps s0 s) : Keeps s0 (State.send s m_) := by
  unfold State.send
  try dsimp only
  repeat' first
    | intro _ | with_reducible assumption | exact rfl | with_reducible apply keeps_ite
    | with_reducible apply keeps_foldl | with_reducible apply keeps_overIdx | simp only [↓keeps_mk_iff]
    | with_reducible apply keeps_foldl_fst | with_reducible apply keeps_foldl_snd | split

theorem hostAsk_keeps {s0 s : State} {a : Nat} {n : Nat} (h : Keeps s0 s) : Keeps s0 (State.hostAsk s a n) := by
  unfold State.hostAsk
  try dsimp only
  repeat' first
    | intro _ | with_reducible assumption | exact rfl | with_reducible apply keeps_ite
    | with_reducible apply keeps_foldl | with_reducible apply keeps_overIdx | simp only [↓keeps_mk_iff]
    | with_reducible apply keeps_foldl_fst | with_reducible apply keeps_foldl_snd | split

theorem noteLate_keeps {s0 s : State} {off : Nat} (h : Keeps s0 s) : Keeps s0 (State.noteLate s off) := by
  unfold State.noteLate
  try dsimp only
  repeat' first
    | intro _ | with_reducible assumption | exact rfl | with_reducible apply keeps_ite
    | with_reducible apply keeps_foldl | with_reducible apply keeps_overIdx | simp only [↓keeps_mk_iff]
    | with_reducible apply keeps_foldl_fst | with_reducible apply keeps_foldl_snd | split

theorem land_keeps {s0 s : State} {t : Nat} {key : Nat → Nat} {l : List (Nat × Nat)} (h : Keeps s0 s) :
    Keeps s0 (State.land s t key l) := by
  unfold State.land
  try dsimp only
  repeat' first
    | intro _ | with_reducible assumption | exact rfl | with_reducible apply keeps_ite
    | with_reducible apply setEff_keeps | with_reducible apply keeps_foldl | with_reducible apply keeps_overIdx
    | simp only [↓keeps_mk_iff] | with_reducible apply keeps_foldl_fst | with_reducible apply keeps_foldl_snd | split

theorem noticeAt_keeps {s0 s : State} {stamp : Nat} {code : Nat} {unit : Nat} {payload : List Nat} (h : Keeps s0 s) :
    Keeps s0 (State.noticeAt s stamp code unit payload) := by
  unfold State.noticeAt
  try dsimp only
  repeat' first
    | intro _ | with_reducible assumption | exact rfl | with_reducible apply keeps_ite
    | with_reducible apply after_keeps | with_reducible apply bump_keeps | with_reducible apply keeps_foldl
    | with_reducible apply keeps_overIdx | simp only [↓keeps_mk_iff] | with_reducible apply keeps_foldl_fst
    | with_reducible apply keeps_foldl_snd | split

theorem notice_keeps {s0 s : State} {code : Nat} {unit : Nat} {payload : List Nat} (h : Keeps s0 s) :
    Keeps s0 (State.notice s code unit payload) := by
  unfold State.notice
  try dsimp only
  repeat' first
    | intro _ | with_reducible assumption | exact rfl | with_reducible apply keeps_ite
    | with_reducible apply noticeAt_keeps | with_reducible apply keeps_foldl | with_reducible apply keeps_overIdx
    | simp only [↓keeps_mk_iff] | with_reducible apply keeps_foldl_fst | with_reducible apply keeps_foldl_snd | split

theorem sticky_keeps {s0 s : State} {f : Fld} {i : Nat} {code : Nat} {unit : Nat} {payload : List Nat}
    (h : Keeps s0 s) :
    Keeps s0 (State.sticky s f i code unit payload) := by
  unfold State.sticky
  try dsimp only
  repeat' first
    | intro _ | with_reducible assumption | exact rfl | with_reducible apply keeps_ite
    | with_reducible apply setBit_keeps | with_reducible apply notice_keeps | with_reducible apply keeps_foldl
    | with_reducible apply keeps_overIdx | simp only [↓keeps_mk_iff] | with_reducible apply keeps_foldl_fst
    | with_reducible apply keeps_foldl_snd | split

theorem setQueue_keeps {s0 s : State} {q : Nat} {x : Queue} (h : Keeps s0 s) : Keeps s0 (State.setQueue s q x) := by
  unfold State.setQueue
  try dsimp only
  repeat' first
    | intro _ | with_reducible assumption | exact rfl | with_reducible apply keeps_ite
    | with_reducible apply keeps_foldl | with_reducible apply keeps_overIdx | simp only [↓keeps_mk_iff]
    | with_reducible apply keeps_foldl_fst | with_reducible apply keeps_foldl_snd | split

theorem sticky64_keeps {s0 s : State} {lo : Fld} {hi : Fld} {q : Nat} {code : Nat} {unit : Nat} {payload : List Nat}
    (h : Keeps s0 s) :
    Keeps s0 (State.sticky64 s lo hi q code unit payload) := by
  unfold State.sticky64
  try dsimp only
  repeat' first
    | intro _ | with_reducible assumption | exact rfl | with_reducible apply keeps_ite
    | with_reducible apply sticky_keeps | with_reducible apply keeps_foldl | with_reducible apply keeps_overIdx
    | simp only [↓keeps_mk_iff] | with_reducible apply keeps_foldl_fst | with_reducible apply keeps_foldl_snd | split

theorem watermark_keeps {s0 s : State} {q : Nat} (h : Keeps s0 s) : Keeps s0 (State.watermark s q) := by
  unfold State.watermark
  try dsimp only
  repeat' first
    | intro _ | with_reducible assumption | exact rfl | with_reducible apply keeps_ite
    | with_reducible apply sticky64_keeps | with_reducible apply bump_keeps | with_reducible apply keeps_foldl
    | with_reducible apply keeps_overIdx | simp only [↓keeps_mk_iff] | with_reducible apply keeps_foldl_fst
    | with_reducible apply keeps_foldl_snd | split

theorem setFire_keeps {s0 s : State} {g : Nat} {l : List FireCmd} (h : Keeps s0 s) :
    Keeps s0 (State.setFire s g l) := by
  unfold State.setFire
  try dsimp only
  repeat' first
    | intro _ | with_reducible assumption | exact rfl | with_reducible apply keeps_ite
    | with_reducible apply watermark_keeps | with_reducible apply keeps_foldl | with_reducible apply keeps_overIdx
    | simp only [↓keeps_mk_iff] | with_reducible apply keeps_foldl_fst | with_reducible apply keeps_foldl_snd | split

theorem queueTo_keeps {s0 s : State} {q : Nat} {x : Queue} (h : Keeps s0 s) : Keeps s0 (State.queueTo s q x) := by
  unfold State.queueTo
  try dsimp only
  repeat' first
    | intro _ | with_reducible assumption | exact rfl | with_reducible apply keeps_ite
    | with_reducible apply watermark_keeps | with_reducible apply setQueue_keeps | with_reducible apply keeps_foldl
    | with_reducible apply keeps_overIdx | simp only [↓keeps_mk_iff] | with_reducible apply keeps_foldl_fst
    | with_reducible apply keeps_foldl_snd | split

theorem setPort_keeps {s0 s : State} {n : Nat} {x : Port} (h : Keeps s0 s) : Keeps s0 (State.setPort s n x) := by
  unfold State.setPort
  try dsimp only
  repeat' first
    | intro _ | with_reducible assumption | exact rfl | with_reducible apply keeps_ite
    | with_reducible apply keeps_foldl | with_reducible apply keeps_overIdx | simp only [↓keeps_mk_iff]
    | with_reducible apply keeps_foldl_fst | with_reducible apply keeps_foldl_snd | split

theorem startPort_keeps {s0 s : State} {n : Nat} (h : Keeps s0 s) : Keeps s0 (State.startPort s n) := by
  unfold State.startPort
  try dsimp only
  repeat' first
    | intro _ | with_reducible assumption | exact rfl | with_reducible apply keeps_ite
    | with_reducible apply after_keeps | with_reducible apply setPort_keeps | with_reducible apply keeps_foldl
    | with_reducible apply keeps_overIdx | simp only [↓keeps_mk_iff] | with_reducible apply keeps_foldl_fst
    | with_reducible apply keeps_foldl_snd | split

theorem offerPacket_keeps {s0 s : State} {n : Nat} {p : OutPacket} (h : Keeps s0 s) :
    Keeps s0 (State.offerPacket s n p) := by
  unfold State.offerPacket
  try dsimp only
  repeat' first
    | intro _ | with_reducible assumption | exact rfl | with_reducible apply keeps_ite
    | with_reducible apply startPort_keeps | with_reducible apply setPort_keeps | with_reducible apply keeps_foldl
    | with_reducible apply keeps_overIdx | simp only [↓keeps_mk_iff] | with_reducible apply keeps_foldl_fst
    | with_reducible apply keeps_foldl_snd | split

theorem takeCell_keeps {s0 s : State} {n : Nat} {p : OutPacket} (h : Keeps s0 s) :
    Keeps s0 (State.takeCell s n p) := by
  unfold State.takeCell
  try dsimp only
  repeat' first
    | intro _ | with_reducible assumption | exact rfl | with_reducible apply keeps_ite
    | with_reducible apply setQueue_keeps | with_reducible apply queueTo_keeps | with_reducible apply after_keeps
    | with_reducible apply setPort_keeps | with_reducible apply keeps_foldl | with_reducible apply keeps_overIdx
    | simp only [↓keeps_mk_iff] | with_reducible apply keeps_foldl_fst | with_reducible apply keeps_foldl_snd | split

theorem blockPort_keeps {s0 s : State} {n : Nat} {p : OutPacket} (h : Keeps s0 s) :
    Keeps s0 (State.blockPort s n p) := by
  unfold State.blockPort
  try dsimp only
  repeat' first
    | intro _ | with_reducible assumption | exact rfl | with_reducible apply keeps_ite
    | with_reducible apply bump_keeps | with_reducible apply setPort_keeps | with_reducible apply after_keeps
    | with_reducible apply keeps_foldl | with_reducible apply keeps_overIdx | simp only [↓keeps_mk_iff]
    | with_reducible apply keeps_foldl_fst | with_reducible apply keeps_foldl_snd | split

theorem writeStep_keeps {s0 s : State} {n : Nat} (h : Keeps s0 s) : Keeps s0 (State.writeStep s n) := by
  unfold State.writeStep
  try dsimp only
  repeat' first
    | intro _ | with_reducible assumption | exact rfl | with_reducible apply keeps_ite
    | with_reducible apply takeCell_keeps | with_reducible apply blockPort_keeps | with_reducible apply keeps_foldl
    | with_reducible apply keeps_overIdx | simp only [↓keeps_mk_iff] | with_reducible apply keeps_foldl_fst
    | with_reducible apply keeps_foldl_snd | split

theorem freeListFails_keeps {s0 s : State} {fire : Bool} (h : Keeps s0 s) :
    Keeps s0 (State.freeListFails s fire) := by
  unfold State.freeListFails
  try dsimp only
  repeat' first
    | intro _ | with_reducible assumption | exact rfl | with_reducible apply keeps_ite
    | with_reducible apply after_keeps | with_reducible apply keeps_foldl | with_reducible apply keeps_overIdx
    | simp only [↓keeps_mk_iff] | with_reducible apply keeps_foldl_fst | with_reducible apply keeps_foldl_snd | split

theorem freeListDone_keeps {s0 s : State} {fire : Bool} (h : Keeps s0 s) : Keeps s0 (State.freeListDone s fire) := by
  unfold State.freeListDone
  try dsimp only
  repeat' first
    | intro _ | with_reducible assumption | exact rfl | with_reducible apply keeps_ite
    | with_reducible apply bump_keeps | with_reducible apply notice_keeps | with_reducible apply keeps_foldl
    | with_reducible apply keeps_overIdx | simp only [↓keeps_mk_iff] | with_reducible apply keeps_foldl_fst
    | with_reducible apply keeps_foldl_snd | split

theorem hallCorrected_keeps {s0 s : State} {q : Nat} (h : Keeps s0 s) : Keeps s0 (State.hallCorrected s q) := by
  unfold State.hallCorrected
  try dsimp only
  repeat' first
    | intro _ | with_reducible assumption | exact rfl | with_reducible apply keeps_ite
    | with_reducible apply bump_keeps | with_reducible apply keeps_foldl | with_reducible apply keeps_overIdx
    | simp only [↓keeps_mk_iff] | with_reducible apply keeps_foldl_fst | with_reducible apply keeps_foldl_snd | split

theorem hallUncorrectable_keeps {s0 s : State} {q : Nat} (h : Keeps s0 s) :
    Keeps s0 (State.hallUncorrectable s q) := by
  unfold State.hallUncorrectable
  try dsimp only
  repeat' first
    | intro _ | with_reducible assumption | exact rfl | with_reducible apply keeps_ite
    | with_reducible apply bump_keeps | with_reducible apply sticky64_keeps | with_reducible apply keeps_foldl
    | with_reducible apply keeps_overIdx | simp only [↓keeps_mk_iff] | with_reducible apply keeps_foldl_fst
    | with_reducible apply keeps_foldl_snd | split

theorem emptyQueue_keeps {s0 s : State} {q : Nat} (h : Keeps s0 s) : Keeps s0 (State.emptyQueue s q) := by
  unfold State.emptyQueue
  try dsimp only
  repeat' first
    | intro _ | with_reducible assumption | exact rfl | with_reducible apply keeps_ite
    | with_reducible apply queueTo_keeps | with_reducible apply keeps_foldl | with_reducible apply keeps_overIdx
    | simp only [↓keeps_mk_iff] | with_reducible apply keeps_foldl_fst | with_reducible apply keeps_foldl_snd | split

theorem queueReset_keeps {s0 s : State} {q : Nat} (h : Keeps s0 s) : Keeps s0 (State.queueReset s q) := by
  unfold State.queueReset
  try dsimp only
  repeat' first
    | intro _ | with_reducible assumption | exact rfl | with_reducible apply keeps_ite
    | with_reducible apply setFire_keeps | with_reducible apply emptyQueue_keeps | with_reducible apply bumpBy_keeps
    | with_reducible apply bump_keeps | with_reducible apply sticky64_keeps | with_reducible apply keeps_foldl
    | with_reducible apply keeps_overIdx | simp only [↓keeps_mk_iff] | with_reducible apply keeps_foldl_fst
    | with_reducible apply keeps_foldl_snd | split

theorem closePacket_keeps {s0 s : State} {n : Nat} {p : OutPacket} (h : Keeps s0 s) :
    Keeps s0 (State.closePacket s n p) := by
  unfold State.closePacket
  try dsimp only
  repeat' first
    | intro _ | with_reducible assumption | exact rfl | with_reducible apply keeps_ite
    | with_reducible apply queueTo_keeps | with_reducible apply after_keeps | with_reducible apply bump_keeps
    | with_reducible apply keeps_foldl | with_reducible apply keeps_overIdx | simp only [↓keeps_mk_iff]
    | with_reducible apply keeps_foldl_fst | with_reducible apply keeps_foldl_snd | split

theorem abandonPacket_keeps {s0 s : State} {n : Nat} (h : Keeps s0 s) : Keeps s0 (State.abandonPacket s n) := by
  unfold State.abandonPacket
  try dsimp only
  repeat' first
    | intro _ | with_reducible assumption | exact rfl | with_reducible apply keeps_ite
    | with_reducible apply setPort_keeps | with_reducible apply queueTo_keeps | with_reducible apply keeps_foldl
    | with_reducible apply keeps_overIdx | simp only [↓keeps_mk_iff] | with_reducible apply keeps_foldl_fst
    | with_reducible apply keeps_foldl_snd | split

theorem refuse_keeps {s0 s : State} {off : Nat} {reason : Nat} (h : Keeps s0 s) :
    Keeps s0 (State.refuse s off reason) := by
  unfold State.refuse
  try dsimp only
  repeat' first
    | intro _ | with_reducible assumption | exact rfl | with_reducible apply keeps_ite
    | with_reducible apply put_keeps | with_reducible apply bump_keeps | with_reducible apply keeps_foldl
    | with_reducible apply keeps_overIdx | simp only [↓keeps_mk_iff] | with_reducible apply keeps_foldl_fst
    | with_reducible apply keeps_foldl_snd | split

theorem queueEnable_keeps {s0 s : State} {q : Nat} {en : Bool} (h : Keeps s0 s) :
    Keeps s0 (State.queueEnable s q en) := by
  unfold State.queueEnable
  try dsimp only
  repeat' first
    | intro _ | with_reducible assumption | exact rfl | with_reducible apply keeps_ite
    | with_reducible apply put_keeps | with_reducible apply refuse_keeps | with_reducible apply keeps_foldl
    | with_reducible apply keeps_overIdx | simp only [↓keeps_mk_iff] | with_reducible apply keeps_foldl_fst
    | with_reducible apply keeps_foldl_snd | split

theorem queueSize_keeps {s0 s : State} {q : Nat} {data : Nat} (h : Keeps s0 s) :
    Keeps s0 (State.queueSize s q data) := by
  unfold State.queueSize
  try dsimp only
  repeat' first
    | intro _ | with_reducible assumption | exact rfl | with_reducible apply keeps_ite
    | with_reducible apply refuse_keeps | with_reducible apply put_keeps | with_reducible apply keeps_foldl
    | with_reducible apply keeps_overIdx | simp only [↓keeps_mk_iff] | with_reducible apply keeps_foldl_fst
    | with_reducible apply keeps_foldl_snd | split

theorem flowMap_keeps {s0 s : State} {n : Nat} {data : Nat} (h : Keeps s0 s) : Keeps s0 (State.flowMap s n data) := by
  unfold State.flowMap
  try dsimp only
  repeat' first
    | intro _ | with_reducible assumption | exact rfl | with_reducible apply keeps_ite
    | with_reducible apply put_keeps | with_reducible apply keeps_foldl | with_reducible apply keeps_overIdx
    | simp only [↓keeps_mk_iff] | with_reducible apply keeps_foldl_fst | with_reducible apply keeps_foldl_snd | split

theorem setPipe_keeps {s0 s : State} {p : Nat} {x : Pipe} (h : Keeps s0 s) : Keeps s0 (State.setPipe s p x) := by
  unfold State.setPipe
  try dsimp only
  repeat' first
    | intro _ | with_reducible assumption | exact rfl | with_reducible apply keeps_ite
    | with_reducible apply keeps_foldl | with_reducible apply keeps_overIdx | simp only [↓keeps_mk_iff]
    | with_reducible apply keeps_foldl_fst | with_reducible apply keeps_foldl_snd | split

theorem modFrame_keeps {s0 s : State} {p : Nat} {f : Nat} {h_ : PipeFrame → PipeFrame} (h : Keeps s0 s) :
    Keeps s0 (State.modFrame s p f h_) := by
  unfold State.modFrame
  try dsimp only
  repeat' first
    | intro _ | with_reducible assumption | exact rfl | with_reducible apply keeps_ite
    | with_reducible apply setPipe_keeps | with_reducible apply keeps_foldl | with_reducible apply keeps_overIdx
    | simp only [↓keeps_mk_iff] | with_reducible apply keeps_foldl_fst | with_reducible apply keeps_foldl_snd | split

theorem setTap_keeps {s0 s : State} {p : Nat} {t : Nat} {x : Tap} (h : Keeps s0 s) :
    Keeps s0 (State.setTap s p t x) := by
  unfold State.setTap
  try dsimp only
  repeat' first
    | intro _ | with_reducible assumption | exact rfl | with_reducible apply keeps_ite
    | with_reducible apply setPipe_keeps | with_reducible apply keeps_foldl | with_reducible apply keeps_overIdx
    | simp only [↓keeps_mk_iff] | with_reducible apply keeps_foldl_fst | with_reducible apply keeps_foldl_snd | split

theorem countSkip_keeps {s0 s : State} {p : Nat} {t : Nat} {seq : Nat} (h : Keeps s0 s) :
    Keeps s0 (State.countSkip s p t seq) := by
  unfold State.countSkip
  try dsimp only
  repeat' first
    | intro _ | with_reducible assumption | exact rfl | with_reducible apply keeps_ite
    | with_reducible apply setTap_keeps | with_reducible apply sticky_keeps | with_reducible apply bump_keeps
    | with_reducible apply keeps_foldl | with_reducible apply keeps_overIdx | simp only [↓keeps_mk_iff]
    | with_reducible apply keeps_foldl_fst | with_reducible apply keeps_foldl_snd | split

theorem hostReturns_keeps {s0 s : State} (h : Keeps s0 s) : Keeps s0 (State.hostReturns s) := by
  unfold State.hostReturns
  try dsimp only
  repeat' first
    | intro _ | with_reducible assumption | exact rfl | with_reducible apply keeps_ite
    | with_reducible apply keeps_foldl | with_reducible apply keeps_overIdx | simp only [↓keeps_mk_iff]
    | with_reducible apply keeps_foldl_fst | with_reducible apply keeps_foldl_snd | split

theorem voidParts_keeps {s0 s : State} {p : Nat} {t : Nat} {q : Nat} (h : Keeps s0 s) :
    Keeps s0 (State.voidParts s p t q).1 := by
  unfold State.voidParts
  try dsimp only
  repeat' first
    | intro _ | with_reducible assumption | exact rfl | with_reducible apply keeps_ite
    | with_reducible apply setTap_keeps | with_reducible apply bump_keeps | with_reducible apply countSkip_keeps
    | with_reducible apply keeps_foldl | with_reducible apply keeps_overIdx | simp only [↓keeps_mk_iff]
    | with_reducible apply keeps_foldl_fst | with_reducible apply keeps_foldl_snd | split

theorem refusePacket_keeps {s0 s : State} {p : Nat} {t : Nat} {q : Nat} (h : Keeps s0 s) :
    Keeps s0 (State.refusePacket s p t q) := by
  unfold State.refusePacket
  try dsimp only
  repeat' first
    | intro _ | with_reducible assumption | exact rfl | with_reducible apply keeps_ite
    | with_reducible apply abandonPacket_keeps | with_reducible apply voidParts_keeps
    | with_reducible apply startPort_keeps | with_reducible apply setPort_keeps | with_reducible apply keeps_foldl
    | with_reducible apply keeps_overIdx | simp only [↓keeps_mk_iff] | with_reducible apply keeps_foldl_fst
    | with_reducible apply keeps_foldl_snd | split

theorem offerTap_keeps {s0 s : State} {p : Nat} {t : Nat} {o : OutPacket} (h : Keeps s0 s) :
    Keeps s0 (State.offerTap s p t o) := by
  unfold State.offerTap
  try dsimp only
  repeat' first
    | intro _ | with_reducible assumption | exact rfl | with_reducible apply keeps_ite
    | with_reducible apply refusePacket_keeps | with_reducible apply offerPacket_keeps
    | with_reducible apply keeps_foldl | with_reducible apply keeps_overIdx | simp only [↓keeps_mk_iff]
    | with_reducible apply keeps_foldl_fst | with_reducible apply keeps_foldl_snd | split

theorem openPart_keeps {s0 s : State} {p : Nat} {t : Nat} {f : Nat} {hdr : Nat → List Byte} (h : Keeps s0 s) :
    Keeps s0 (State.openPart s p t f hdr).1 := by
  unfold State.openPart
  try dsimp only
  repeat' first
    | intro _ | with_reducible assumption | exact rfl | with_reducible apply keeps_ite
    | with_reducible apply put_keeps | with_reducible apply setTap_keeps | with_reducible apply offerTap_keeps
    | with_reducible apply keeps_foldl | with_reducible apply keeps_overIdx | simp only [↓keeps_mk_iff]
    | with_reducible apply keeps_foldl_fst | with_reducible apply keeps_foldl_snd | split

theorem skipPart_keeps {s0 s : State} {p : Nat} {t : Nat} (h : Keeps s0 s) : Keeps s0 (State.skipPart s p t) := by
  unfold State.skipPart
  try dsimp only
  repeat' first
    | intro _ | with_reducible assumption | exact rfl | with_reducible apply keeps_ite
    | with_reducible apply countSkip_keeps | with_reducible apply put_keeps | with_reducible apply keeps_foldl
    | with_reducible apply keeps_overIdx | simp only [↓keeps_mk_iff] | with_reducible apply keeps_foldl_fst
    | with_reducible apply keeps_foldl_snd | split

theorem closePart_keeps {s0 s : State} {p : Nat} {t : Nat} {seq : Nat} {status : Nat} (h : Keeps s0 s) :
    Keeps s0 (State.closePart s p t seq status) := by
  unfold State.closePart
  try dsimp only
  repeat' first
    | intro _ | with_reducible assumption | exact rfl | with_reducible apply keeps_ite
    | with_reducible apply offerTap_keeps | with_reducible apply keeps_foldl | with_reducible apply keeps_overIdx
    | simp only [↓keeps_mk_iff] | with_reducible apply keeps_foldl_fst | with_reducible apply keeps_foldl_snd | split

theorem modTapPart_keeps {s0 s : State} {p : Nat} {f : Nat} {node : Nat} {win : Nat} {t : Nat}
    {h_ : TapPart → TapPart} (h : Keeps s0 s) :
    Keeps s0 (State.modTapPart s p f node win t h_) := by
  unfold State.modTapPart
  try dsimp only
  repeat' first
    | intro _ | with_reducible assumption | exact rfl | with_reducible apply keeps_ite
    | with_reducible apply modFrame_keeps | with_reducible apply keeps_foldl | with_reducible apply keeps_overIdx
    | simp only [↓keeps_mk_iff] | with_reducible apply keeps_foldl_fst | with_reducible apply keeps_foldl_snd | split

theorem writeBody_keeps {s0 s : State} {p : Nat} {t : Nat} {r : PipeFrame} {x : Part} {i : Nat} (h : Keeps s0 s) :
    Keeps s0 (State.writeBody s p t r x i) := by
  unfold State.writeBody
  try dsimp only
  repeat' first
    | intro _ | with_reducible assumption | exact rfl | with_reducible apply keeps_ite
    | with_reducible apply modTapPart_keeps | with_reducible apply offerTap_keeps
    | with_reducible apply closePart_keeps | with_reducible apply openPart_keeps | with_reducible apply skipPart_keeps
    | with_reducible apply keeps_foldl | with_reducible apply keeps_overIdx | simp only [↓keeps_mk_iff]
    | with_reducible apply keeps_foldl_fst | with_reducible apply keeps_foldl_snd | split

theorem writeBodies_keeps {s0 s : State} {p : Nat} {t : Nat} {a2 : Nat} (h : Keeps s0 s) :
    Keeps s0 (State.writeBodies s p t a2) := by
  induction a2 generalizing s with
  | zero => exact h
  | succ n ih =>
    unfold State.writeBodies
    try dsimp only
    repeat' first
      | intro _ | with_reducible assumption | exact rfl | with_reducible apply ih | with_reducible apply keeps_ite
      | with_reducible apply writeBody_keeps | simp only [↓keeps_mk_iff] | split

theorem runTaps_keeps {s0 s : State} {p : Nat} (h : Keeps s0 s) : Keeps s0 (State.runTaps s p) := by
  unfold State.runTaps
  try dsimp only
  repeat' first
    | intro _ | with_reducible assumption | exact rfl | with_reducible apply keeps_ite
    | with_reducible apply writeBodies_keeps | with_reducible apply keeps_foldl | with_reducible apply keeps_overIdx
    | simp only [↓keeps_mk_iff] | with_reducible apply keeps_foldl_fst | with_reducible apply keeps_foldl_snd | split

theorem writeRecords_keeps {s0 s : State} {p : Nat} {f : Nat} {status : Nat} (h : Keeps s0 s) :
    Keeps s0 (State.writeRecords s p f status) := by
  unfold State.writeRecords
  try dsimp only
  repeat' first
    | intro _ | with_reducible assumption | exact rfl | with_reducible apply keeps_ite
    | with_reducible apply modFrame_keeps | with_reducible apply skipPart_keeps | with_reducible apply openPart_keeps
    | with_reducible apply offerTap_keeps | with_reducible apply closePart_keeps | with_reducible apply keeps_foldl
    | with_reducible apply keeps_overIdx | simp only [↓keeps_mk_iff] | with_reducible apply keeps_foldl_fst
    | with_reducible apply keeps_foldl_snd | split

theorem accepted_keeps {s0 s : State} {n : Nat} {o : OutPacket} (h : Keeps s0 s) :
    Keeps s0 (State.accepted s n o) := by
  unfold State.accepted
  try dsimp only
  repeat' first
    | intro _ | with_reducible assumption | exact rfl | with_reducible apply keeps_ite
    | with_reducible apply setTap_keeps | with_reducible apply keeps_foldl | with_reducible apply keeps_overIdx
    | simp only [↓keeps_mk_iff] | with_reducible apply keeps_foldl_fst | with_reducible apply keeps_foldl_snd | split

theorem filledIn_keeps {s0 s : State} {n : Nat} {o : OutPacket} (h : Keeps s0 s) :
    Keeps s0 (State.filledIn s n o).1 := by
  unfold State.filledIn
  try dsimp only
  repeat' first
    | intro _ | with_reducible assumption | exact rfl | with_reducible apply keeps_ite
    | with_reducible apply setTap_keeps | with_reducible apply keeps_foldl | with_reducible apply keeps_overIdx
    | simp only [↓keeps_mk_iff] | with_reducible apply keeps_foldl_fst | with_reducible apply keeps_foldl_snd | split

theorem settle_keeps {s0 s : State} {p : Nat} (h : Keeps s0 s) : Keeps s0 (State.settle s p) := by
  unfold State.settle
  try dsimp only
  repeat' first
    | intro _ | with_reducible assumption | exact rfl | with_reducible apply keeps_ite
    | with_reducible apply setPipe_keeps | with_reducible apply after_keeps | with_reducible apply keeps_foldl
    | with_reducible apply keeps_overIdx | simp only [↓keeps_mk_iff] | with_reducible apply keeps_foldl_fst
    | with_reducible apply keeps_foldl_snd | split

theorem portClose_keeps {s0 s : State} {n : Nat} (h : Keeps s0 s) : Keeps s0 (State.portClose s n) := by
  unfold State.portClose
  try dsimp only
  repeat' first
    | intro _ | with_reducible assumption | exact rfl | with_reducible apply keeps_ite
    | with_reducible apply setPort_keeps | with_reducible apply closePacket_keeps
    | with_reducible apply startPort_keeps | with_reducible apply accepted_keeps | with_reducible apply settle_keeps
    | with_reducible apply keeps_foldl | with_reducible apply keeps_overIdx | simp only [↓keeps_mk_iff]
    | with_reducible apply keeps_foldl_fst | with_reducible apply keeps_foldl_snd | split

theorem tapLoses_keeps {s0 s : State} {q : Nat} {n : Nat} (h : Keeps s0 s) : Keeps s0 (State.tapLoses s q n) := by
  unfold State.tapLoses
  try dsimp only
  repeat' first
    | intro _ | with_reducible assumption | exact rfl | with_reducible apply keeps_ite
    | with_reducible apply voidParts_keeps | with_reducible apply setTap_keeps | with_reducible apply startPort_keeps
    | with_reducible apply setPort_keeps | with_reducible apply keeps_foldl | with_reducible apply keeps_overIdx
    | simp only [↓keeps_mk_iff] | with_reducible apply keeps_foldl_fst | with_reducible apply keeps_foldl_snd | split

theorem blockSkipped_keeps {s0 s : State} (h : Keeps s0 s) : Keeps s0 (State.blockSkipped s) := by
  unfold State.blockSkipped
  try dsimp only
  repeat' first
    | intro _ | with_reducible assumption | exact rfl | with_reducible apply keeps_ite
    | with_reducible apply bump_keeps | with_reducible apply sticky_keeps | with_reducible apply keeps_foldl
    | with_reducible apply keeps_overIdx | simp only [↓keeps_mk_iff] | with_reducible apply keeps_foldl_fst
    | with_reducible apply keeps_foldl_snd | split

theorem writersLose_keeps {s0 s : State} {q : Nat} (h : Keeps s0 s) : Keeps s0 (State.writersLose s q) := by
  unfold State.writersLose
  try dsimp only
  repeat' first
    | intro _ | with_reducible assumption | exact rfl | with_reducible apply keeps_ite
    | with_reducible apply tapLoses_keeps | with_reducible apply startPort_keeps
    | with_reducible apply blockSkipped_keeps | with_reducible apply setPort_keeps | with_reducible apply keeps_foldl
    | with_reducible apply keeps_overIdx | simp only [↓keeps_mk_iff] | with_reducible apply keeps_foldl_fst
    | with_reducible apply keeps_foldl_snd | split

theorem resetQueue_keeps {s0 s : State} {q : Nat} (h : Keeps s0 s) : Keeps s0 (State.resetQueue s q) := by
  unfold State.resetQueue
  try dsimp only
  repeat' first
    | intro _ | with_reducible assumption | exact rfl | with_reducible apply keeps_ite
    | with_reducible apply queueReset_keeps | with_reducible apply writersLose_keeps
    | with_reducible apply keeps_foldl | with_reducible apply keeps_overIdx | simp only [↓keeps_mk_iff]
    | with_reducible apply keeps_foldl_fst | with_reducible apply keeps_foldl_snd | split

theorem writerCheck_keeps {s0 s : State} {n : Nat} {chk : HallCheck} (h : Keeps s0 s) :
    Keeps s0 (State.writerCheck s n chk) := by
  unfold State.writerCheck
  try dsimp only
  repeat' first
    | intro _ | with_reducible assumption | exact rfl | with_reducible apply keeps_ite
    | with_reducible apply hallCorrected_keeps | with_reducible apply resetQueue_keeps
    | with_reducible apply freeListFails_keeps | with_reducible apply keeps_foldl | with_reducible apply keeps_overIdx
    | simp only [↓keeps_mk_iff] | with_reducible apply keeps_foldl_fst | with_reducible apply keeps_foldl_snd | split

theorem portWrite_keeps {s0 s : State} {n : Nat} {chk : HallCheck} (h : Keeps s0 s) :
    Keeps s0 (State.portWrite s n chk) := by
  unfold State.portWrite
  try dsimp only
  repeat' first
    | intro _ | with_reducible assumption | exact rfl | with_reducible apply keeps_ite
    | with_reducible apply writerCheck_keeps | with_reducible apply writeStep_keeps | with_reducible apply keeps_foldl
    | with_reducible apply keeps_overIdx | simp only [↓keeps_mk_iff] | with_reducible apply keeps_foldl_fst
    | with_reducible apply keeps_foldl_snd | split

theorem unblock_keeps {s0 s : State} {q : Nat} (h : Keeps s0 s) : Keeps s0 (State.unblock s q) := by
  unfold State.unblock
  try dsimp only
  repeat' first
    | intro _ | with_reducible assumption | exact rfl | with_reducible apply keeps_ite
    | with_reducible apply withdraw_keeps | with_reducible apply takeCell_keeps | with_reducible apply after_keeps
    | with_reducible apply bump_keeps | with_reducible apply keeps_foldl | with_reducible apply keeps_overIdx
    | simp only [↓keeps_mk_iff] | with_reducible apply keeps_foldl_fst | with_reducible apply keeps_foldl_snd | split

theorem portAbandon_keeps {s0 s : State} {n : Nat} (h : Keeps s0 s) : Keeps s0 (State.portAbandon s n) := by
  unfold State.portAbandon
  try dsimp only
  repeat' first
    | intro _ | with_reducible assumption | exact rfl | with_reducible apply keeps_ite
    | with_reducible apply refusePacket_keeps | with_reducible apply startPort_keeps
    | with_reducible apply abandonPacket_keeps | with_reducible apply keeps_foldl | with_reducible apply keeps_overIdx
    | simp only [↓keeps_mk_iff] | with_reducible apply keeps_foldl_fst | with_reducible apply keeps_foldl_snd | split

theorem storeCorrected_keeps {s0 s : State} {a : Nat} (h : Keeps s0 s) : Keeps s0 (State.storeCorrected s a) := by
  unfold State.storeCorrected
  try dsimp only
  repeat' first
    | intro _ | with_reducible assumption | exact rfl | with_reducible apply keeps_ite
    | with_reducible apply bump_keeps | with_reducible apply keeps_foldl | with_reducible apply keeps_overIdx
    | simp only [↓keeps_mk_iff] | with_reducible apply keeps_foldl_fst | with_reducible apply keeps_foldl_snd | split

theorem storeUncorrectable_keeps {s0 s : State} {a : Nat} (h : Keeps s0 s) :
    Keeps s0 (State.storeUncorrectable s a) := by
  unfold State.storeUncorrectable
  try dsimp only
  repeat' first
    | intro _ | with_reducible assumption | exact rfl | with_reducible apply keeps_ite
    | with_reducible apply putPair_keeps | with_reducible apply bump_keeps | with_reducible apply sticky_keeps
    | with_reducible apply keeps_foldl | with_reducible apply keeps_overIdx | simp only [↓keeps_mk_iff]
    | with_reducible apply keeps_foldl_fst | with_reducible apply keeps_foldl_snd | split

theorem storeReadCheck_keeps {s0 s : State} {a : Nat} {n : Nat} (h : Keeps s0 s) :
    Keeps s0 (State.storeReadCheck s a n).2 := by
  unfold State.storeReadCheck
  try dsimp only
  repeat' first
    | intro _ | with_reducible assumption | exact rfl | with_reducible apply keeps_ite
    | with_reducible apply storeUncorrectable_keeps | with_reducible apply keeps_foldl
    | with_reducible apply keeps_overIdx | simp only [↓keeps_mk_iff] | with_reducible apply keeps_foldl_fst
    | with_reducible apply keeps_foldl_snd | split

theorem readsMeet_keeps {s0 s : State} {l : List (Nat × Nat)} (h : Keeps s0 s) : Keeps s0 (State.readsMeet s l) := by
  unfold State.readsMeet
  try dsimp only
  repeat' first
    | intro _ | with_reducible assumption | exact rfl | with_reducible apply keeps_ite
    | with_reducible apply storeUncorrectable_keeps | with_reducible apply keeps_foldl
    | with_reducible apply keeps_overIdx | simp only [↓keeps_mk_iff] | with_reducible apply keeps_foldl_fst
    | with_reducible apply keeps_foldl_snd | split

theorem freeBytes_keeps {s0 s : State} {n : Nat} (h : Keeps s0 s) : Keeps s0 (State.freeBytes s n).2 := by
  unfold State.freeBytes
  try dsimp only
  repeat' first
    | intro _ | with_reducible assumption | exact rfl | with_reducible apply keeps_ite
    | with_reducible apply keeps_foldl | with_reducible apply keeps_overIdx | simp only [↓keeps_mk_iff]
    | with_reducible apply keeps_foldl_fst | with_reducible apply keeps_foldl_snd | split

theorem orFree_keeps {s0 s : State} {given : Option (List Byte)} {n : Nat} (h : Keeps s0 s) :
    Keeps s0 (State.orFree s given n).2 := by
  unfold State.orFree
  try dsimp only
  repeat' first
    | intro _ | with_reducible assumption | exact rfl | with_reducible apply keeps_ite
    | with_reducible apply freeBytes_keeps | with_reducible apply keeps_foldl | with_reducible apply keeps_overIdx
    | simp only [↓keeps_mk_iff] | with_reducible apply keeps_foldl_fst | with_reducible apply keeps_foldl_snd | split

theorem modRing_keeps {s0 s : State} {i : Nat} {f : SubRing → SubRing} (h : Keeps s0 s) :
    Keeps s0 (State.modRing s i f) := by
  unfold State.modRing
  try dsimp only
  repeat' first
    | intro _ | with_reducible assumption | exact rfl | with_reducible apply keeps_ite
    | with_reducible apply keeps_foldl | with_reducible apply keeps_overIdx | simp only [↓keeps_mk_iff]
    | with_reducible apply keeps_foldl_fst | with_reducible apply keeps_foldl_snd | split

theorem modSlot_keeps {s0 s : State} {u : Nat} {f : Slot → Slot} (h : Keeps s0 s) :
    Keeps s0 (State.modSlot s u f) := by
  unfold State.modSlot
  try dsimp only
  repeat' first
    | intro _ | with_reducible assumption | exact rfl | with_reducible apply keeps_ite
    | with_reducible apply keeps_foldl | with_reducible apply keeps_overIdx | simp only [↓keeps_mk_iff]
    | with_reducible apply keeps_foldl_fst | with_reducible apply keeps_foldl_snd | split

theorem modJob_keeps {s0 s : State} {u : Nat} {f : Job → Job} (h : Keeps s0 s) : Keeps s0 (State.modJob s u f) := by
  unfold State.modJob
  try dsimp only
  repeat' first
    | intro _ | with_reducible assumption | exact rfl | with_reducible apply keeps_ite
    | with_reducible apply modSlot_keeps | with_reducible apply keeps_foldl | with_reducible apply keeps_overIdx
    | simp only [↓keeps_mk_iff] | with_reducible apply keeps_foldl_fst | with_reducible apply keeps_foldl_snd | split

theorem traffic_keeps {s0 s : State} (h : Keeps s0 s) : Keeps s0 (State.traffic s) := by
  unfold State.traffic
  try dsimp only
  repeat' first
    | intro _ | with_reducible assumption | exact rfl | with_reducible apply keeps_ite
    | with_reducible apply put_keeps | with_reducible apply after_keeps | with_reducible apply keeps_foldl
    | with_reducible apply keeps_overIdx | simp only [↓keeps_mk_iff] | with_reducible apply keeps_foldl_fst
    | with_reducible apply keeps_foldl_snd | split

theorem hostPut_keeps {s0 s : State} {a : Nat} {bs : List Byte} (h : Keeps s0 s) :
    Keeps s0 (State.hostPut s a bs) := by
  unfold State.hostPut
  try dsimp only
  repeat' first
    | intro _ | with_reducible assumption | exact rfl | with_reducible apply keeps_ite
    | with_reducible apply traffic_keeps | with_reducible apply hostWrite_keeps | with_reducible apply keeps_foldl
    | with_reducible apply keeps_overIdx | simp only [↓keeps_mk_iff] | with_reducible apply keeps_foldl_fst
    | with_reducible apply keeps_foldl_snd | split

theorem hostPutData_keeps {s0 s : State} {a : Nat} {bs : List Byte} (h : Keeps s0 s) :
    Keeps s0 (State.hostPutData s a bs) := by
  unfold State.hostPutData
  try dsimp only
  repeat' first
    | intro _ | with_reducible assumption | exact rfl | with_reducible apply keeps_ite
    | with_reducible apply traffic_keeps | with_reducible apply hostWrite_keeps | with_reducible apply keeps_foldl
    | with_reducible apply keeps_overIdx | simp only [↓keeps_mk_iff] | with_reducible apply keeps_foldl_fst
    | with_reducible apply keeps_foldl_snd | split

theorem hostGet_keeps {s0 s : State} {a : Nat} {n : Nat} (h : Keeps s0 s) : Keeps s0 (State.hostGet s a n) := by
  unfold State.hostGet
  try dsimp only
  repeat' first
    | intro _ | with_reducible assumption | exact rfl | with_reducible apply keeps_ite
    | with_reducible apply traffic_keeps | with_reducible apply hostAsk_keeps | with_reducible apply keeps_foldl
    | with_reducible apply keeps_overIdx | simp only [↓keeps_mk_iff] | with_reducible apply keeps_foldl_fst
    | with_reducible apply keeps_foldl_snd | split

theorem modVector_keeps {s0 s : State} {v : Nat} {f : Vector32 → Vector32} (h : Keeps s0 s) :
    Keeps s0 (State.modVector s v f) := by
  unfold State.modVector
  try dsimp only
  repeat' first
    | intro _ | with_reducible assumption | exact rfl | with_reducible apply keeps_ite
    | with_reducible apply keeps_foldl | with_reducible apply keeps_overIdx | simp only [↓keeps_mk_iff]
    | with_reducible apply keeps_foldl_fst | with_reducible apply keeps_foldl_snd | split

theorem message_keeps {s0 s : State} {v : Nat} (h : Keeps s0 s) : Keeps s0 (State.message s v) := by
  unfold State.message
  try dsimp only
  repeat' first
    | intro _ | with_reducible assumption | exact rfl | with_reducible apply keeps_ite
    | with_reducible apply traffic_keeps | with_reducible apply send_keeps | with_reducible apply keeps_foldl
    | with_reducible apply keeps_overIdx | simp only [↓keeps_mk_iff] | with_reducible apply keeps_foldl_fst
    | with_reducible apply keeps_foldl_snd | split

theorem trigVector_keeps {s0 s : State} {v : Nat} (h : Keeps s0 s) : Keeps s0 (State.trigVector s v) := by
  unfold State.trigVector
  try dsimp only
  repeat' first
    | intro _ | with_reducible assumption | exact rfl | with_reducible apply keeps_ite
    | with_reducible apply modVector_keeps | with_reducible apply message_keeps | with_reducible apply keeps_foldl
    | with_reducible apply keeps_overIdx | simp only [↓keeps_mk_iff] | with_reducible apply keeps_foldl_fst
    | with_reducible apply keeps_foldl_snd | split

theorem flushVector_keeps {s0 s : State} {v : Nat} (h : Keeps s0 s) : Keeps s0 (State.flushVector s v) := by
  unfold State.flushVector
  try dsimp only
  repeat' first
    | intro _ | with_reducible assumption | exact rfl | with_reducible apply keeps_ite
    | with_reducible apply message_keeps | with_reducible apply modVector_keeps | with_reducible apply keeps_foldl
    | with_reducible apply keeps_overIdx | simp only [↓keeps_mk_iff] | with_reducible apply keeps_foldl_fst
    | with_reducible apply keeps_foldl_snd | split

theorem arrive_keeps {s0 s : State} {t : Nat} {e : Nat} {delta : Nat} (h : Keeps s0 s) :
    Keeps s0 (State.arrive s t e delta) := by
  unfold State.arrive
  try dsimp only
  repeat' first
    | intro _ | with_reducible assumption | exact rfl | with_reducible apply keeps_ite
    | with_reducible apply at__keeps | with_reducible apply keeps_foldl | with_reducible apply keeps_overIdx
    | simp only [↓keeps_mk_iff] | with_reducible apply keeps_foldl_fst | with_reducible apply keeps_foldl_snd | split

theorem settleEvents_keeps {s0 s : State} (h : Keeps s0 s) : Keeps s0 (State.settleEvents s) := by
  unfold State.settleEvents
  try dsimp only
  repeat' first
    | intro _ | with_reducible assumption | exact rfl | with_reducible apply keeps_ite
    | with_reducible apply put_keeps | with_reducible apply keeps_foldl | with_reducible apply keeps_overIdx
    | simp only [↓keeps_mk_iff] | with_reducible apply keeps_foldl_fst | with_reducible apply keeps_foldl_snd | split

theorem kickAt_keeps {s0 s : State} {t : Nat} (h : Keeps s0 s) : Keeps s0 (State.kickAt s t) := by
  unfold State.kickAt
  try dsimp only
  repeat' first
    | intro _ | with_reducible assumption | exact rfl | with_reducible apply keeps_ite
    | with_reducible apply at__keeps | with_reducible apply keeps_foldl | with_reducible apply keeps_overIdx
    | simp only [↓keeps_mk_iff] | with_reducible apply keeps_foldl_fst | with_reducible apply keeps_foldl_snd | split

theorem kick_keeps {s0 s : State} (h : Keeps s0 s) : Keeps s0 (State.kick s) := by
  unfold State.kick
  try dsimp only
  repeat' first
    | intro _ | with_reducible assumption | exact rfl | with_reducible apply keeps_ite
    | with_reducible apply kickAt_keeps | with_reducible apply keeps_foldl | with_reducible apply keeps_overIdx
    | simp only [↓keeps_mk_iff] | with_reducible apply keeps_foldl_fst | with_reducible apply keeps_foldl_snd | split

theorem fetchSoon_keeps {s0 s : State} {i : Nat} {n : Nat} (h : Keeps s0 s) : Keeps s0 (State.fetchSoon s i n) := by
  unfold State.fetchSoon
  try dsimp only
  repeat' first
    | intro _ | with_reducible assumption | exact rfl | with_reducible apply keeps_ite
    | with_reducible apply after_keeps | with_reducible apply keeps_foldl | with_reducible apply keeps_overIdx
    | simp only [↓keeps_mk_iff] | with_reducible apply keeps_foldl_fst | with_reducible apply keeps_foldl_snd | split

theorem doorbell_keeps {s0 s : State} {i : Nat} {tail : Nat} (h : Keeps s0 s) :
    Keeps s0 (State.doorbell s i tail) := by
  unfold State.doorbell
  try dsimp only
  repeat' first
    | intro _ | with_reducible assumption | exact rfl | with_reducible apply keeps_ite
    | with_reducible apply kick_keeps | with_reducible apply fetchSoon_keeps | with_reducible apply modRing_keeps
    | with_reducible apply sticky_keeps | with_reducible apply bump_keeps | with_reducible apply keeps_foldl
    | with_reducible apply keeps_overIdx | simp only [↓keeps_mk_iff] | with_reducible apply keeps_foldl_fst
    | with_reducible apply keeps_foldl_snd | split

theorem fetch_keeps {s0 s : State} {i : Nat} (h : Keeps s0 s) : Keeps s0 (State.fetch s i) := by
  unfold State.fetch
  try dsimp only
  repeat' first
    | intro _ | with_reducible assumption | exact rfl | with_reducible apply keeps_ite
    | with_reducible apply hostGet_keeps | with_reducible apply modRing_keeps | with_reducible apply keeps_foldl
    | with_reducible apply keeps_overIdx | simp only [↓keeps_mk_iff] | with_reducible apply keeps_foldl_fst
    | with_reducible apply keeps_foldl_snd | split

theorem haltRing_keeps {s0 s : State} {i : Nat} {status : Nat} (h : Keeps s0 s) :
    Keeps s0 (State.haltRing s i status) := by
  unfold State.haltRing
  try dsimp only
  repeat' first
    | intro _ | with_reducible assumption | exact rfl | with_reducible apply keeps_ite
    | with_reducible apply notice_keeps | with_reducible apply setBit_keeps | with_reducible apply keeps_foldl
    | with_reducible apply keeps_overIdx | simp only [↓keeps_mk_iff] | with_reducible apply keeps_foldl_fst
    | with_reducible apply keeps_foldl_snd | split

theorem fetched_keeps {s0 s : State} {i : Nat} {data : Option (List Byte)} (h : Keeps s0 s) :
    Keeps s0 (State.fetched s i data) := by
  unfold State.fetched
  try dsimp only
  repeat' first
    | intro _ | with_reducible assumption | exact rfl | with_reducible apply keeps_ite
    | with_reducible apply traffic_keeps | with_reducible apply haltRing_keeps | with_reducible apply modRing_keeps
    | with_reducible apply kickAt_keeps | with_reducible apply fetchSoon_keeps | with_reducible apply keeps_foldl
    | with_reducible apply keeps_overIdx | simp only [↓keeps_mk_iff] | with_reducible apply keeps_foldl_fst
    | with_reducible apply keeps_foldl_snd | split

theorem postCompletion_keeps {s0 s : State} {c : Nat} {w : List Nat} (h : Keeps s0 s) :
    Keeps s0 (State.postCompletion s c w) := by
  unfold State.postCompletion
  try dsimp only
  repeat' first
    | intro _ | with_reducible assumption | exact rfl | with_reducible apply keeps_ite
    | with_reducible apply hostPut_keeps | with_reducible apply put_keeps | with_reducible apply trigVector_keeps
    | with_reducible apply after_keeps | with_reducible apply keeps_foldl | with_reducible apply keeps_overIdx
    | simp only [↓keeps_mk_iff] | with_reducible apply keeps_foldl_fst | with_reducible apply keeps_foldl_snd | split

theorem writeCompletions_keeps {s0 s : State} (h : Keeps s0 s) : Keeps s0 (State.writeCompletions s) := by
  unfold State.writeCompletions
  try dsimp only
  repeat' first
    | intro _ | with_reducible assumption | exact rfl | with_reducible apply keeps_ite
    | with_reducible apply storeWrite_keeps | with_reducible apply put_keeps
    | with_reducible apply postCompletion_keeps | with_reducible apply arrive_keeps | with_reducible apply kick_keeps
    | with_reducible apply keeps_foldl | with_reducible apply keeps_overIdx | simp only [↓keeps_mk_iff]
    | with_reducible apply keeps_foldl_fst | with_reducible apply keeps_foldl_snd | split

theorem completeTask_keeps {s0 s : State} {t : Task} {unit : Nat} {status : Nat} {result : List Nat} {halts : Bool}
    (h : Keeps s0 s) :
    Keeps s0 (State.completeTask s t unit status result halts) := by
  unfold State.completeTask
  try dsimp only
  repeat' first
    | intro _ | with_reducible assumption | exact rfl | with_reducible apply keeps_ite
    | with_reducible apply modRing_keeps | with_reducible apply bump_keeps | with_reducible apply haltRing_keeps
    | with_reducible apply kick_keeps | with_reducible apply at__keeps | with_reducible apply keeps_foldl
    | with_reducible apply keeps_overIdx | simp only [↓keeps_mk_iff] | with_reducible apply keeps_foldl_fst
    | with_reducible apply keeps_foldl_snd | split

theorem finish_keeps {s0 s : State} {t : Task} {unit : Nat} {status : Nat} {result : List Nat} (h : Keeps s0 s) :
    Keeps s0 (State.finish s t unit status result) := by
  unfold State.finish
  try dsimp only
  repeat' first
    | intro _ | with_reducible assumption | exact rfl | with_reducible apply keeps_ite
    | with_reducible apply completeTask_keeps | with_reducible apply keeps_foldl | with_reducible apply keeps_overIdx
    | simp only [↓keeps_mk_iff] | with_reducible apply keeps_foldl_fst | with_reducible apply keeps_foldl_snd | split

theorem endWait_keeps {s0 s : State} {i : Nat} {w : Wait} {status : Nat} {halts : Bool} (h : Keeps s0 s) :
    Keeps s0 (State.endWait s i w status halts) := by
  unfold State.endWait
  try dsimp only
  repeat' first
    | intro _ | with_reducible assumption | exact rfl | with_reducible apply keeps_ite
    | with_reducible apply modRing_keeps | with_reducible apply withdraw_keeps | with_reducible apply bump_keeps
    | with_reducible apply kickAt_keeps | with_reducible apply completeTask_keeps | with_reducible apply keeps_foldl
    | with_reducible apply keeps_overIdx | simp only [↓keeps_mk_iff] | with_reducible apply keeps_foldl_fst
    | with_reducible apply keeps_foldl_snd | split

theorem judgeWait_keeps {s0 s : State} {i : Nat} {w : Wait} {ok : Bool} {at_ : Nat} (h : Keeps s0 s) :
    Keeps s0 (State.judgeWait s i w ok at_) := by
  unfold State.judgeWait
  try dsimp only
  repeat' first
    | intro _ | with_reducible assumption | exact rfl | with_reducible apply keeps_ite
    | with_reducible apply endWait_keeps | with_reducible apply keeps_foldl | with_reducible apply keeps_overIdx
    | simp only [↓keeps_mk_iff] | with_reducible apply keeps_foldl_fst | with_reducible apply keeps_foldl_snd | split

theorem evalWait_keeps {s0 s : State} {i : Nat} (h : Keeps s0 s) : Keeps s0 (State.evalWait s i) := by
  unfold State.evalWait
  try dsimp only
  repeat' first
    | intro _ | with_reducible assumption | exact rfl | with_reducible apply keeps_ite
    | with_reducible apply judgeWait_keeps | with_reducible apply storeReadCheck_keeps
    | with_reducible apply modRing_keeps | with_reducible apply after_keeps | with_reducible apply keeps_foldl
    | with_reducible apply keeps_overIdx | simp only [↓keeps_mk_iff] | with_reducible apply keeps_foldl_fst
    | with_reducible apply keeps_foldl_snd | split

theorem timeWait_keeps {s0 s : State} {i : Nat} (h : Keeps s0 s) : Keeps s0 (State.timeWait s i) := by
  unfold State.timeWait
  try dsimp only
  repeat' first
    | intro _ | with_reducible assumption | exact rfl | with_reducible apply keeps_ite
    | with_reducible apply at__keeps | with_reducible apply evalWait_keeps | with_reducible apply keeps_foldl
    | with_reducible apply keeps_overIdx | simp only [↓keeps_mk_iff] | with_reducible apply keeps_foldl_fst
    | with_reducible apply keeps_foldl_snd | split

theorem pollValue_keeps {s0 s : State} {i : Nat} (h : Keeps s0 s) : Keeps s0 (State.pollValue s i) := by
  unfold State.pollValue
  try dsimp only
  repeat' first
    | intro _ | with_reducible assumption | exact rfl | with_reducible apply keeps_ite
    | with_reducible apply modRing_keeps | with_reducible apply after_keeps | with_reducible apply hostGet_keeps
    | with_reducible apply keeps_foldl | with_reducible apply keeps_overIdx | simp only [↓keeps_mk_iff]
    | with_reducible apply keeps_foldl_fst | with_reducible apply keeps_foldl_snd | split

theorem pollBack_keeps {s0 s : State} {i : Nat} {v : Option Nat} (h : Keeps s0 s) :
    Keeps s0 (State.pollBack s i v) := by
  unfold State.pollBack
  try dsimp only
  repeat' first
    | intro _ | with_reducible assumption | exact rfl | with_reducible apply keeps_ite
    | with_reducible apply traffic_keeps | with_reducible apply endWait_keeps | with_reducible apply judgeWait_keeps
    | with_reducible apply modRing_keeps | with_reducible apply keeps_foldl | with_reducible apply keeps_overIdx
    | simp only [↓keeps_mk_iff] | with_reducible apply keeps_foldl_fst | with_reducible apply keeps_foldl_snd | split

end Sys2Proof.Machine
end

