-- ==== Sys2Proof/Laws/Keeps2.lean ====
section
/-! SUPPORT. `Keeps` is carried through every operation of the model, part 2 of 6. -/

namespace Sys2Proof.Machine

theorem startWait_keeps {s0 s : State} {i : Nat} {t : Task} (h : Keeps s0 s) : Keeps s0 (State.startWait s i t) := by
  unfold State.startWait
  try dsimp only
  repeat' first
    | intro _ | with_reducible assumption | exact rfl | with_reducible apply keeps_ite
    | with_reducible apply modRing_keeps | with_reducible apply at__keeps | with_reducible apply after_keeps
    | with_reducible apply evalWait_keeps | with_reducible apply keeps_foldl | with_reducible apply keeps_overIdx
    | simp only [↓keeps_mk_iff] | with_reducible apply keeps_foldl_fst | with_reducible apply keeps_foldl_snd | split

theorem wakeWaits_keeps {s0 s : State} (h : Keeps s0 s) : Keeps s0 (State.wakeWaits s) := by
  unfold State.wakeWaits
  try dsimp only
  repeat' first
    | intro _ | with_reducible assumption | exact rfl | with_reducible apply keeps_ite
    | with_reducible apply after_keeps | with_reducible apply at__keeps | with_reducible apply keeps_foldl
    | with_reducible apply keeps_overIdx | simp only [↓keeps_mk_iff] | with_reducible apply keeps_foldl_fst
    | with_reducible apply keeps_foldl_snd | split

theorem disableRing_keeps {s0 s : State} {i : Nat} (h : Keeps s0 s) : Keeps s0 (State.disableRing s i) := by
  unfold State.disableRing
  try dsimp only
  repeat' first
    | intro _ | with_reducible assumption | exact rfl | with_reducible apply keeps_ite
    | with_reducible apply put_keeps | with_reducible apply modRing_keeps | with_reducible apply completeTask_keeps
    | with_reducible apply modSlot_keeps | with_reducible apply endWait_keeps | with_reducible apply keeps_foldl
    | with_reducible apply keeps_overIdx | simp only [↓keeps_mk_iff] | with_reducible apply keeps_foldl_fst
    | with_reducible apply keeps_foldl_snd | split

theorem enableRing_keeps {s0 s : State} {i : Nat} (h : Keeps s0 s) : Keeps s0 (State.enableRing s i) := by
  unfold State.enableRing
  try dsimp only
  repeat' first
    | intro _ | with_reducible assumption | exact rfl | with_reducible apply keeps_ite
    | with_reducible apply kick_keeps | with_reducible apply fetchSoon_keeps | with_reducible apply hostReturns_keeps
    | with_reducible apply put_keeps | with_reducible apply keeps_foldl | with_reducible apply keeps_overIdx
    | simp only [↓keeps_mk_iff] | with_reducible apply keeps_foldl_fst | with_reducible apply keeps_foldl_snd | split

theorem resumeRing_keeps {s0 s : State} {i : Nat} (h : Keeps s0 s) : Keeps s0 (State.resumeRing s i) := by
  unfold State.resumeRing
  try dsimp only
  repeat' first
    | intro _ | with_reducible assumption | exact rfl | with_reducible apply keeps_ite
    | with_reducible apply kick_keeps | with_reducible apply fetchSoon_keeps | with_reducible apply clearBit_keeps
    | with_reducible apply keeps_foldl | with_reducible apply keeps_overIdx | simp only [↓keeps_mk_iff]
    | with_reducible apply keeps_foldl_fst | with_reducible apply keeps_foldl_snd | split

theorem writeNotice_keeps {s0 s : State} {n : Nat} {x : Notice} (h : Keeps s0 s) :
    Keeps s0 (State.writeNotice s n x) := by
  unfold State.writeNotice
  try dsimp only
  repeat' first
    | intro _ | with_reducible assumption | exact rfl | with_reducible apply keeps_ite
    | with_reducible apply hostPut_keeps | with_reducible apply put_keeps | with_reducible apply trigVector_keeps
    | with_reducible apply after_keeps | with_reducible apply keeps_foldl | with_reducible apply keeps_overIdx
    | simp only [↓keeps_mk_iff] | with_reducible apply keeps_foldl_fst | with_reducible apply keeps_foldl_snd | split

theorem postNotices_keeps {s0 s : State} {n : Nat} {a1 : Nat} (h : Keeps s0 s) :
    Keeps s0 (State.postNotices s n a1) := by
  induction a1 generalizing s with
  | zero => exact h
  | succ n ih =>
    unfold State.postNotices
    try dsimp only
    repeat' first
      | intro _ | with_reducible assumption | exact rfl | with_reducible apply ih | with_reducible apply keeps_ite
      | with_reducible apply writeNotice_keeps | simp only [↓keeps_mk_iff] | split

theorem flushNotices_keeps {s0 s : State} {n : Nat} (h : Keeps s0 s) : Keeps s0 (State.flushNotices s n) := by
  unfold State.flushNotices
  try dsimp only
  repeat' first
    | intro _ | with_reducible assumption | exact rfl | with_reducible apply keeps_ite
    | with_reducible apply postNotices_keeps | with_reducible apply keeps_foldl | with_reducible apply keeps_overIdx
    | simp only [↓keeps_mk_iff] | with_reducible apply keeps_foldl_fst | with_reducible apply keeps_foldl_snd | split

theorem noticesFirst_keeps {s0 s : State} {n : Nat} {l : List (Nat × List Nat)} (h : Keeps s0 s) :
    Keeps s0 (State.noticesFirst s n l) := by
  unfold State.noticesFirst
  try dsimp only
  repeat' first
    | intro _ | with_reducible assumption | exact rfl | with_reducible apply keeps_ite
    | with_reducible apply keeps_foldl | with_reducible apply keeps_overIdx | simp only [↓keeps_mk_iff]
    | with_reducible apply keeps_foldl_fst | with_reducible apply keeps_foldl_snd | split

theorem owedNotices_keeps {s0 s : State} {n : Nat} (h : Keeps s0 s) : Keeps s0 (State.owedNotices s n) := by
  unfold State.owedNotices
  try dsimp only
  repeat' first
    | intro _ | with_reducible assumption | exact rfl | with_reducible apply keeps_ite
    | with_reducible apply noticesFirst_keeps | with_reducible apply keeps_foldl | with_reducible apply keeps_overIdx
    | simp only [↓keeps_mk_iff] | with_reducible apply keeps_foldl_fst | with_reducible apply keeps_foldl_snd | split

theorem enableNotices_keeps {s0 s : State} {n : Nat} (h : Keeps s0 s) : Keeps s0 (State.enableNotices s n) := by
  unfold State.enableNotices
  try dsimp only
  repeat' first
    | intro _ | with_reducible assumption | exact rfl | with_reducible apply keeps_ite
    | with_reducible apply owedNotices_keeps | with_reducible apply put_keeps
    | with_reducible apply flushNotices_keeps | with_reducible apply keeps_foldl | with_reducible apply keeps_overIdx
    | simp only [↓keeps_mk_iff] | with_reducible apply keeps_foldl_fst | with_reducible apply keeps_foldl_snd | split

theorem vectorTimers_keeps {s0 s : State} (h : Keeps s0 s) : Keeps s0 (State.vectorTimers s) := by
  unfold State.vectorTimers
  try dsimp only
  repeat' first
    | intro _ | with_reducible assumption | exact rfl | with_reducible apply keeps_ite
    | with_reducible apply trigVector_keeps | with_reducible apply keeps_foldl | with_reducible apply keeps_overIdx
    | simp only [↓keeps_mk_iff] | with_reducible apply keeps_foldl_fst | with_reducible apply keeps_foldl_snd | split

theorem timerAgain_keeps {s0 s : State} {n : Nat} {t : Nat} {us : Nat} (h : Keeps s0 s) :
    Keeps s0 (State.timerAgain s n t us) := by
  unfold State.timerAgain
  try dsimp only
  repeat' first
    | intro _ | with_reducible assumption | exact rfl | with_reducible apply keeps_ite
    | with_reducible apply at__keeps | with_reducible apply keeps_foldl | with_reducible apply keeps_overIdx
    | simp only [↓keeps_mk_iff] | with_reducible apply keeps_foldl_fst | with_reducible apply keeps_foldl_snd | split

theorem moderated_keeps {s0 s : State} (h : Keeps s0 s) : Keeps s0 (State.moderated s) := by
  unfold State.moderated
  try dsimp only
  repeat' first
    | intro _ | with_reducible assumption | exact rfl | with_reducible apply keeps_ite
    | with_reducible apply vectorTimers_keeps | with_reducible apply timerAgain_keeps
    | with_reducible apply keeps_foldl | with_reducible apply keeps_overIdx | simp only [↓keeps_mk_iff]
    | with_reducible apply keeps_foldl_fst | with_reducible apply keeps_foldl_snd | split

theorem writeHead_keeps {s0 s : State} {r : Nat} {head : Nat} (h : Keeps s0 s) :
    Keeps s0 (State.writeHead s r head) := by
  unfold State.writeHead
  try dsimp only
  repeat' first
    | intro _ | with_reducible assumption | exact rfl | with_reducible apply keeps_ite
    | with_reducible apply kick_keeps | with_reducible apply put_keeps | with_reducible apply refuse_keeps
    | with_reducible apply flushNotices_keeps | with_reducible apply keeps_foldl | with_reducible apply keeps_overIdx
    | simp only [↓keeps_mk_iff] | with_reducible apply keeps_foldl_fst | with_reducible apply keeps_foldl_snd | split

theorem setStrobe_keeps {s0 s : State} {k : Nat} {x : Strobe} (h : Keeps s0 s) :
    Keeps s0 (State.setStrobe s k x) := by
  unfold State.setStrobe
  try dsimp only
  repeat' first
    | intro _ | with_reducible assumption | exact rfl | with_reducible apply keeps_ite
    | with_reducible apply keeps_foldl | with_reducible apply keeps_overIdx | simp only [↓keeps_mk_iff]
    | with_reducible apply keeps_foldl_fst | with_reducible apply keeps_foldl_snd | split

theorem addWindow_keeps {s0 s : State} {t : Nat} {k : Nat} {a : Nat} {b : Nat} (h : Keeps s0 s) :
    Keeps s0 (State.addWindow s t k a b) := by
  unfold State.addWindow
  try dsimp only
  repeat' first
    | intro _ | with_reducible assumption | exact rfl | with_reducible apply keeps_ite
    | with_reducible apply setStrobe_keeps | with_reducible apply setBit_keeps | with_reducible apply bump_keeps
    | with_reducible apply at__keeps | with_reducible apply keeps_foldl | with_reducible apply keeps_overIdx
    | simp only [↓keeps_mk_iff] | with_reducible apply keeps_foldl_fst | with_reducible apply keeps_foldl_snd | split

theorem frameWindows_keeps {s0 s : State} {t : Nat} {c : Nat} {f : Nat} {xs : List Exposure} {k : Nat}
    (h : Keeps s0 s) :
    Keeps s0 (State.frameWindows s t c f xs k) := by
  unfold State.frameWindows
  try dsimp only
  repeat' first
    | intro _ | with_reducible assumption | exact rfl | with_reducible apply keeps_ite
    | with_reducible apply addWindow_keeps | with_reducible apply keeps_foldl | with_reducible apply keeps_overIdx
    | simp only [↓keeps_mk_iff] | with_reducible apply keeps_foldl_fst | with_reducible apply keeps_foldl_snd | split

theorem formWindows_keeps {s0 s : State} {t : Nat} {c : Nat} {f : Nat} {xs : List Exposure} (h : Keeps s0 s) :
    Keeps s0 (State.formWindows s t c f xs) := by
  unfold State.formWindows
  try dsimp only
  repeat' first
    | intro _ | with_reducible assumption | exact rfl | with_reducible apply keeps_ite
    | with_reducible apply frameWindows_keeps | with_reducible apply keeps_foldl | with_reducible apply keeps_overIdx
    | simp only [↓keeps_mk_iff] | with_reducible apply keeps_foldl_fst | with_reducible apply keeps_foldl_snd | split

theorem armMaxHigh_keeps {s0 s : State} {k : Nat} (h : Keeps s0 s) : Keeps s0 (State.armMaxHigh s k) := by
  unfold State.armMaxHigh
  try dsimp only
  repeat' first
    | intro _ | with_reducible assumption | exact rfl | with_reducible apply keeps_ite
    | with_reducible apply at__keeps | with_reducible apply keeps_foldl | with_reducible apply keeps_overIdx
    | simp only [↓keeps_mk_iff] | with_reducible apply keeps_foldl_fst | with_reducible apply keeps_foldl_snd | split

theorem followStrobe_keeps {s0 s : State} {k : Nat} (h : Keeps s0 s) : Keeps s0 (State.followStrobe s k) := by
  unfold State.followStrobe
  try dsimp only
  repeat' first
    | intro _ | with_reducible assumption | exact rfl | with_reducible apply keeps_ite
    | with_reducible apply setStrobe_keeps | with_reducible apply armMaxHigh_keeps | with_reducible apply keeps_foldl
    | with_reducible apply keeps_overIdx | simp only [↓keeps_mk_iff] | with_reducible apply keeps_foldl_fst
    | with_reducible apply keeps_foldl_snd | split

theorem strobeFlag_keeps {s0 s : State} {f : Nat} {level : Bool} (h : Keeps s0 s) :
    Keeps s0 (State.strobeFlag s f level) := by
  unfold State.strobeFlag
  try dsimp only
  repeat' first
    | intro _ | with_reducible assumption | exact rfl | with_reducible apply keeps_ite
    | with_reducible apply setStrobe_keeps | with_reducible apply after_keeps | with_reducible apply keeps_foldl
    | with_reducible apply keeps_overIdx | simp only [↓keeps_mk_iff] | with_reducible apply keeps_foldl_fst
    | with_reducible apply keeps_foldl_snd | split

theorem strobeEn_keeps {s0 s : State} {k : Nat} {en : Bool} (h : Keeps s0 s) : Keeps s0 (State.strobeEn s k en) := by
  unfold State.strobeEn
  try dsimp only
  repeat' first
    | intro _ | with_reducible assumption | exact rfl | with_reducible apply keeps_ite
    | with_reducible apply put_keeps | with_reducible apply noteLate_keeps | with_reducible apply setStrobe_keeps
    | with_reducible apply keeps_foldl | with_reducible apply keeps_overIdx | simp only [↓keeps_mk_iff]
    | with_reducible apply keeps_foldl_fst | with_reducible apply keeps_foldl_snd | split

theorem closeStrobe_keeps {s0 s : State} {k : Nat} (h : Keeps s0 s) : Keeps s0 (State.closeStrobe s k) := by
  unfold State.closeStrobe
  try dsimp only
  repeat' first
    | intro _ | with_reducible assumption | exact rfl | with_reducible apply keeps_ite
    | with_reducible apply followStrobe_keeps | with_reducible apply keeps_foldl | with_reducible apply keeps_overIdx
    | simp only [↓keeps_mk_iff] | with_reducible apply keeps_foldl_fst | with_reducible apply keeps_foldl_snd | split

theorem forceStrobe_keeps {s0 s : State} {k : Nat} (h : Keeps s0 s) : Keeps s0 (State.forceStrobe s k) := by
  unfold State.forceStrobe
  try dsimp only
  repeat' first
    | intro _ | with_reducible assumption | exact rfl | with_reducible apply keeps_ite
    | with_reducible apply bump_keeps | with_reducible apply setStrobe_keeps | with_reducible apply sticky_keeps
    | with_reducible apply keeps_foldl | with_reducible apply keeps_overIdx | simp only [↓keeps_mk_iff]
    | with_reducible apply keeps_foldl_fst | with_reducible apply keeps_foldl_snd | split

theorem setIset_keeps {s0 s : State} {j : Nat} {x : Iset} (h : Keeps s0 s) : Keeps s0 (State.setIset s j x) := by
  unfold State.setIset
  try dsimp only
  repeat' first
    | intro _ | with_reducible assumption | exact rfl | with_reducible apply keeps_ite
    | with_reducible apply keeps_foldl | with_reducible apply keeps_overIdx | simp only [↓keeps_mk_iff]
    | with_reducible apply keeps_foldl_fst | with_reducible apply keeps_foldl_snd | split

theorem driveIset_keeps {s0 s : State} {j : Nat} (h : Keeps s0 s) : Keeps s0 (State.driveIset s j) := by
  unfold State.driveIset
  try dsimp only
  repeat' first
    | intro _ | with_reducible assumption | exact rfl | with_reducible apply keeps_ite
    | with_reducible apply put_keeps | with_reducible apply setIset_keeps | with_reducible apply keeps_foldl
    | with_reducible apply keeps_overIdx | simp only [↓keeps_mk_iff] | with_reducible apply keeps_foldl_fst
    | with_reducible apply keeps_foldl_snd | split

theorem isetSoon_keeps {s0 s : State} {j : Nat} (h : Keeps s0 s) : Keeps s0 (State.isetSoon s j) := by
  unfold State.isetSoon
  try dsimp only
  repeat' first
    | intro _ | with_reducible assumption | exact rfl | with_reducible apply keeps_ite
    | with_reducible apply at__keeps | with_reducible apply keeps_foldl | with_reducible apply keeps_overIdx
    | simp only [↓keeps_mk_iff] | with_reducible apply keeps_foldl_fst | with_reducible apply keeps_foldl_snd | split

theorem isetRangeSoon_keeps {s0 s : State} {j : Nat} (h : Keeps s0 s) : Keeps s0 (State.isetRangeSoon s j) := by
  unfold State.isetRangeSoon
  try dsimp only
  repeat' first
    | intro _ | with_reducible assumption | exact rfl | with_reducible apply keeps_ite
    | with_reducible apply at__keeps | with_reducible apply setIset_keeps | with_reducible apply keeps_foldl
    | with_reducible apply keeps_overIdx | simp only [↓keeps_mk_iff] | with_reducible apply keeps_foldl_fst
    | with_reducible apply keeps_foldl_snd | split

theorem writeIset_keeps {s0 s : State} {j : Nat} {code : Nat} (h : Keeps s0 s) :
    Keeps s0 (State.writeIset s j code) := by
  unfold State.writeIset
  try dsimp only
  repeat' first
    | intro _ | with_reducible assumption | exact rfl | with_reducible apply keeps_ite
    | with_reducible apply put_keeps | with_reducible apply noteLate_keeps | with_reducible apply isetSoon_keeps
    | with_reducible apply setIset_keeps | with_reducible apply keeps_foldl | with_reducible apply keeps_overIdx
    | simp only [↓keeps_mk_iff] | with_reducible apply keeps_foldl_fst | with_reducible apply keeps_foldl_snd | split

theorem isetEdge_keeps {s0 s : State} {j : Nat} (h : Keeps s0 s) : Keeps s0 (State.isetEdge s j) := by
  unfold State.isetEdge
  try dsimp only
  repeat' first
    | intro _ | with_reducible assumption | exact rfl | with_reducible apply keeps_ite
    | with_reducible apply driveIset_keeps | with_reducible apply keeps_foldl | with_reducible apply keeps_overIdx
    | simp only [↓keeps_mk_iff] | with_reducible apply keeps_foldl_fst | with_reducible apply keeps_foldl_snd | split

theorem rangeEdge_keeps {s0 s : State} {j : Nat} (h : Keeps s0 s) : Keeps s0 (State.rangeEdge s j) := by
  unfold State.rangeEdge
  try dsimp only
  repeat' first
    | intro _ | with_reducible assumption | exact rfl | with_reducible apply keeps_ite
    | with_reducible apply put_keeps | with_reducible apply setIset_keeps | with_reducible apply after_keeps
    | with_reducible apply keeps_foldl | with_reducible apply keeps_overIdx | simp only [↓keeps_mk_iff]
    | with_reducible apply keeps_foldl_fst | with_reducible apply keeps_foldl_snd | split

theorem deadEnd_keeps {s0 s : State} {j : Nat} (h : Keeps s0 s) : Keeps s0 (State.deadEnd s j) := by
  unfold State.deadEnd
  try dsimp only
  repeat' first
    | intro _ | with_reducible assumption | exact rfl | with_reducible apply keeps_ite
    | with_reducible apply setIset_keeps | with_reducible apply driveIset_keeps | with_reducible apply put_keeps
    | with_reducible apply keeps_foldl | with_reducible apply keeps_overIdx | simp only [↓keeps_mk_iff]
    | with_reducible apply keeps_foldl_fst | with_reducible apply keeps_foldl_snd | split

theorem setJoin_keeps {s0 s : State} {j : Nat} {x : Join} (h : Keeps s0 s) : Keeps s0 (State.setJoin s j x) := by
  unfold State.setJoin
  try dsimp only
  repeat' first
    | intro _ | with_reducible assumption | exact rfl | with_reducible apply keeps_ite
    | with_reducible apply keeps_foldl | with_reducible apply keeps_overIdx | simp only [↓keeps_mk_iff]
    | with_reducible apply keeps_foldl_fst | with_reducible apply keeps_foldl_snd | split

theorem decideRec_keeps {s0 s : State} {j : Nat} {side : Nat} {disp : Nat} {x : Rec} {other : Option Rec}
    (h : Keeps s0 s) :
    Keeps s0 (State.decideRec s j side disp x other) := by
  unfold State.decideRec
  try dsimp only
  repeat' first
    | intro _ | with_reducible assumption | exact rfl | with_reducible apply keeps_ite
    | with_reducible apply after_keeps | with_reducible apply keeps_foldl | with_reducible apply keeps_overIdx
    | simp only [↓keeps_mk_iff] | with_reducible apply keeps_foldl_fst | with_reducible apply keeps_foldl_snd | split

theorem coverage_keeps {s0 s : State} {j : Nat} (h : Keeps s0 s) : Keeps s0 (State.coverage s j) := by
  unfold State.coverage
  try dsimp only
  repeat' first
    | intro _ | with_reducible assumption | exact rfl | with_reducible apply keeps_ite
    | with_reducible apply setJoin_keeps | with_reducible apply decideRec_keeps | with_reducible apply bump_keeps
    | with_reducible apply keeps_foldl | with_reducible apply keeps_overIdx | simp only [↓keeps_mk_iff]
    | with_reducible apply keeps_foldl_fst | with_reducible apply keeps_foldl_snd | split

theorem underrun_keeps {s0 s : State} {j : Nat} {w : Nat × Rec} {keep : Bool} (h : Keeps s0 s) :
    Keeps s0 (State.underrun s j w keep) := by
  unfold State.underrun
  try dsimp only
  repeat' first
    | intro _ | with_reducible assumption | exact rfl | with_reducible apply keeps_ite
    | with_reducible apply setJoin_keeps | with_reducible apply sticky_keeps | with_reducible apply bump_keeps
    | with_reducible apply decideRec_keeps | with_reducible apply keeps_foldl | with_reducible apply keeps_overIdx
    | simp only [↓keeps_mk_iff] | with_reducible apply keeps_foldl_fst | with_reducible apply keeps_foldl_snd | split

theorem joinDeadlines_keeps {s0 s : State} {j : Nat} (h : Keeps s0 s) : Keeps s0 (State.joinDeadlines s j) := by
  unfold State.joinDeadlines
  try dsimp only
  repeat' first
    | intro _ | with_reducible assumption | exact rfl | with_reducible apply keeps_ite
    | with_reducible apply after_keeps | with_reducible apply underrun_keeps | with_reducible apply keeps_foldl
    | with_reducible apply keeps_overIdx | simp only [↓keeps_mk_iff] | with_reducible apply keeps_foldl_fst
    | with_reducible apply keeps_foldl_snd | split

theorem joinRecord_keeps {s0 s : State} {x : Rec} (h : Keeps s0 s) : Keeps s0 (State.joinRecord s x).1 := by
  unfold State.joinRecord
  try dsimp only
  repeat' first
    | intro _ | with_reducible assumption | exact rfl | with_reducible apply keeps_ite
    | with_reducible apply decideRec_keeps | with_reducible apply bump_keeps | with_reducible apply setJoin_keeps
    | with_reducible apply coverage_keeps | with_reducible apply after_keeps | with_reducible apply keeps_foldl
    | with_reducible apply keeps_overIdx | simp only [↓keeps_mk_iff] | with_reducible apply keeps_foldl_fst
    | with_reducible apply keeps_foldl_snd | split

theorem cover_keeps {s0 s : State} {p : Nat} {tm : Nat} (h : Keeps s0 s) : Keeps s0 (State.cover s p tm) := by
  unfold State.cover
  try dsimp only
  repeat' first
    | intro _ | with_reducible assumption | exact rfl | with_reducible apply keeps_ite
    | with_reducible apply setJoin_keeps | with_reducible apply coverage_keeps | with_reducible apply keeps_foldl
    | with_reducible apply keeps_overIdx | simp only [↓keeps_mk_iff] | with_reducible apply keeps_foldl_fst
    | with_reducible apply keeps_foldl_snd | split

theorem joinLanded_keeps {s0 s : State} {p : Nat} (h : Keeps s0 s) : Keeps s0 (State.joinLanded s p) := by
  unfold State.joinLanded
  try dsimp only
  repeat' first
    | intro _ | with_reducible assumption | exact rfl | with_reducible apply keeps_ite
    | with_reducible apply coverage_keeps | with_reducible apply after_keeps | with_reducible apply keeps_foldl
    | with_reducible apply keeps_overIdx | simp only [↓keeps_mk_iff] | with_reducible apply keeps_foldl_fst
    | with_reducible apply keeps_foldl_snd | split

theorem flushJoin_keeps {s0 s : State} {j : Nat} (h : Keeps s0 s) : Keeps s0 (State.flushJoin s j) := by
  unfold State.flushJoin
  try dsimp only
  repeat' first
    | intro _ | with_reducible assumption | exact rfl | with_reducible apply keeps_ite
    | with_reducible apply underrun_keeps | with_reducible apply setJoin_keeps | with_reducible apply keeps_foldl
    | with_reducible apply keeps_overIdx | simp only [↓keeps_mk_iff] | with_reducible apply keeps_foldl_fst
    | with_reducible apply keeps_foldl_snd | split

theorem joinConfig_keeps {s0 s : State} {j : Nat} {data : Nat} (h : Keeps s0 s) :
    Keeps s0 (State.joinConfig s j data) := by
  unfold State.joinConfig
  try dsimp only
  repeat' first
    | intro _ | with_reducible assumption | exact rfl | with_reducible apply keeps_ite
    | with_reducible apply refuse_keeps | with_reducible apply noteLate_keeps | with_reducible apply put_keeps
    | with_reducible apply flushJoin_keeps | with_reducible apply keeps_foldl | with_reducible apply keeps_overIdx
    | simp only [↓keeps_mk_iff] | with_reducible apply keeps_foldl_fst | with_reducible apply keeps_foldl_snd | split

theorem takeFrame_keeps {s0 s : State} {p : Nat} {src : Nat} {f : Nat} {nodes : Bool × Bool} {tm : Nat × Nat}
    (h : Keeps s0 s) :
    Keeps s0 (State.takeFrame s p src f nodes tm) := by
  unfold State.takeFrame
  try dsimp only
  repeat' first
    | intro _ | with_reducible assumption | exact rfl | with_reducible apply keeps_ite
    | with_reducible apply setPipe_keeps | with_reducible apply put_keeps | with_reducible apply setBit_keeps
    | with_reducible apply bump_keeps | with_reducible apply after_keeps | with_reducible apply keeps_foldl
    | with_reducible apply keeps_overIdx | simp only [↓keeps_mk_iff] | with_reducible apply keeps_foldl_fst
    | with_reducible apply keeps_foldl_snd | split

theorem rowsMeet_keeps {s0 s : State} {p : Nat} {n : Nat} {f : Nat} (h : Keeps s0 s) :
    Keeps s0 (State.rowsMeet s p n f) := by
  unfold State.rowsMeet
  try dsimp only
  repeat' first
    | intro _ | with_reducible assumption | exact rfl | with_reducible apply keeps_ite
    | with_reducible apply readsMeet_keeps | with_reducible apply keeps_foldl | with_reducible apply keeps_overIdx
    | simp only [↓keeps_mk_iff] | with_reducible apply keeps_foldl_fst | with_reducible apply keeps_foldl_snd | split

theorem scheduleIssues_keeps {s0 s : State} {p : Nat} {l : List Rec} (h : Keeps s0 s) :
    Keeps s0 (State.scheduleIssues s p l) := by
  unfold State.scheduleIssues
  try dsimp only
  repeat' first
    | intro _ | with_reducible assumption | exact rfl | with_reducible apply keeps_ite
    | with_reducible apply at__keeps | with_reducible apply keeps_foldl | with_reducible apply keeps_overIdx
    | simp only [↓keeps_mk_iff] | with_reducible apply keeps_foldl_fst | with_reducible apply keeps_foldl_snd | split

theorem buildRecords_keeps {s0 s : State} {p : Nat} {f : Nat} (h : Keeps s0 s) :
    Keeps s0 (State.buildRecords s p f) := by
  unfold State.buildRecords
  try dsimp only
  repeat' first
    | intro _ | with_reducible assumption | exact rfl | with_reducible apply keeps_ite
    | with_reducible apply setPipe_keeps | with_reducible apply modFrame_keeps | with_reducible apply at__keeps
    | with_reducible apply scheduleIssues_keeps | with_reducible apply keeps_foldl
    | with_reducible apply keeps_overIdx | simp only [↓keeps_mk_iff] | with_reducible apply keeps_foldl_fst
    | with_reducible apply keeps_foldl_snd | split

theorem recorrect_keeps {s0 s : State} {p : Nat} {n : Nat} {f : Nat} (h : Keeps s0 s) :
    Keeps s0 (State.recorrect s p n f) := by
  unfold State.recorrect
  try dsimp only
  repeat' first
    | intro _ | with_reducible assumption | exact rfl | with_reducible apply keeps_ite
    | with_reducible apply modFrame_keeps | with_reducible apply buildRecords_keeps | with_reducible apply keeps_foldl
    | with_reducible apply keeps_overIdx | simp only [↓keeps_mk_iff] | with_reducible apply keeps_foldl_fst
    | with_reducible apply keeps_foldl_snd | split

theorem issueRecord_keeps {s0 s : State} {p : Nat} {f : Nat} {pair : Bool} {x : Rec} (h : Keeps s0 s) :
    Keeps s0 (State.issueRecord s p f pair x) := by
  unfold State.issueRecord
  try dsimp only
  repeat' first
    | intro _ | with_reducible assumption | exact rfl | with_reducible apply keeps_ite
    | with_reducible apply bump_keeps | with_reducible apply joinRecord_keeps | with_reducible apply modFrame_keeps
    | with_reducible apply keeps_foldl | with_reducible apply keeps_overIdx | simp only [↓keeps_mk_iff]
    | with_reducible apply keeps_foldl_fst | with_reducible apply keeps_foldl_snd | split

theorem closeStopped_keeps {s0 s : State} {p : Nat} (h : Keeps s0 s) : Keeps s0 (State.closeStopped s p) := by
  unfold State.closeStopped
  try dsimp only
  repeat' first
    | intro _ | with_reducible assumption | exact rfl | with_reducible apply keeps_ite
    | with_reducible apply modFrame_keeps | with_reducible apply writeRecords_keeps | with_reducible apply keeps_foldl
    | with_reducible apply keeps_overIdx | simp only [↓keeps_mk_iff] | with_reducible apply keeps_foldl_fst
    | with_reducible apply keeps_foldl_snd | split

theorem issueRecords_keeps {s0 s : State} {p : Nat} (h : Keeps s0 s) : Keeps s0 (State.issueRecords s p) := by
  unfold State.issueRecords
  try dsimp only
  repeat' first
    | intro _ | with_reducible assumption | exact rfl | with_reducible apply keeps_ite
    | with_reducible apply issueRecord_keeps | with_reducible apply settle_keeps
    | with_reducible apply closeStopped_keeps | with_reducible apply keeps_foldl | with_reducible apply keeps_overIdx
    | simp only [↓keeps_mk_iff] | with_reducible apply keeps_foldl_fst | with_reducible apply keeps_foldl_snd | split

theorem completeRecords_keeps {s0 s : State} {p : Nat} (h : Keeps s0 s) : Keeps s0 (State.completeRecords s p) := by
  unfold State.completeRecords
  try dsimp only
  repeat' first
    | intro _ | with_reducible assumption | exact rfl | with_reducible apply keeps_ite
    | with_reducible apply issueRecords_keeps | with_reducible apply cover_keeps | with_reducible apply modFrame_keeps
    | with_reducible apply writeRecords_keeps | with_reducible apply settle_keeps | with_reducible apply keeps_foldl
    | with_reducible apply keeps_overIdx | simp only [↓keeps_mk_iff] | with_reducible apply keeps_foldl_fst
    | with_reducible apply keeps_foldl_snd | split

theorem overflowDue_keeps {s0 s : State} {p : Nat} (h : Keeps s0 s) : Keeps s0 (State.overflowDue s p) := by
  unfold State.overflowDue
  try dsimp only
  repeat' first
    | intro _ | with_reducible assumption | exact rfl | with_reducible apply keeps_ite
    | with_reducible apply modFrame_keeps | with_reducible apply bump_keeps | with_reducible apply sticky_keeps
    | with_reducible apply keeps_foldl | with_reducible apply keeps_overIdx | simp only [↓keeps_mk_iff]
    | with_reducible apply keeps_foldl_fst | with_reducible apply keeps_foldl_snd | split

theorem countMismatch_keeps {s0 s : State} {p : Nat} (h : Keeps s0 s) : Keeps s0 (State.countMismatch s p) := by
  unfold State.countMismatch
  try dsimp only
  repeat' first
    | intro _ | with_reducible assumption | exact rfl | with_reducible apply keeps_ite
    | with_reducible apply bump_keeps | with_reducible apply sticky_keeps | with_reducible apply keeps_foldl
    | with_reducible apply keeps_overIdx | simp only [↓keeps_mk_iff] | with_reducible apply keeps_foldl_fst
    | with_reducible apply keeps_foldl_snd | split

theorem countRows_keeps {s0 s : State} {p : Nat} {rows : List (List Px3)} (h : Keeps s0 s) :
    Keeps s0 (State.countRows s p rows) := by
  unfold State.countRows
  try dsimp only
  repeat' first
    | intro _ | with_reducible assumption | exact rfl | with_reducible apply keeps_ite
    | with_reducible apply bumpBy_keeps | with_reducible apply sticky_keeps | with_reducible apply keeps_foldl
    | with_reducible apply keeps_overIdx | simp only [↓keeps_mk_iff] | with_reducible apply keeps_foldl_fst
    | with_reducible apply keeps_foldl_snd | split

theorem countPart_keeps {s0 s : State} {p : Nat} {x : Part} (h : Keeps s0 s) : Keeps s0 (State.countPart s p x) := by
  unfold State.countPart
  try dsimp only
  repeat' first
    | intro _ | with_reducible assumption | exact rfl | with_reducible apply keeps_ite
    | with_reducible apply countMismatch_keeps | with_reducible apply countRows_keeps
    | with_reducible apply keeps_foldl | with_reducible apply keeps_overIdx | simp only [↓keeps_mk_iff]
    | with_reducible apply keeps_foldl_fst | with_reducible apply keeps_foldl_snd | split

theorem countNode_keeps {s0 s : State} {p : Nat} {n : Nat} {f : Nat} (h : Keeps s0 s) :
    Keeps s0 (State.countNode s p n f) := by
  unfold State.countNode
  try dsimp only
  repeat' first
    | intro _ | with_reducible assumption | exact rfl | with_reducible apply keeps_ite
    | with_reducible apply countPart_keeps | with_reducible apply keeps_foldl | with_reducible apply keeps_overIdx
    | simp only [↓keeps_mk_iff] | with_reducible apply keeps_foldl_fst | with_reducible apply keeps_foldl_snd | split

theorem endStopped_keeps {s0 s : State} {p : Nat} (h : Keeps s0 s) : Keeps s0 (State.endStopped s p) := by
  unfold State.endStopped
  try dsimp only
  repeat' first
    | intro _ | with_reducible assumption | exact rfl | with_reducible apply keeps_ite
    | with_reducible apply closePart_keeps | with_reducible apply modTapPart_keeps | with_reducible apply settle_keeps
    | with_reducible apply closeStopped_keeps | with_reducible apply keeps_foldl | with_reducible apply keeps_overIdx
    | simp only [↓keeps_mk_iff] | with_reducible apply keeps_foldl_fst | with_reducible apply keeps_foldl_snd | split

theorem stopPipe_keeps {s0 s : State} {p : Nat} (h : Keeps s0 s) : Keeps s0 (State.stopPipe s p) := by
  unfold State.stopPipe
  try dsimp only
  repeat' first
    | intro _ | with_reducible assumption | exact rfl | with_reducible apply keeps_ite
    | with_reducible apply setPipe_keeps | with_reducible apply endStopped_keeps | with_reducible apply keeps_foldl
    | with_reducible apply keeps_overIdx | simp only [↓keeps_mk_iff] | with_reducible apply keeps_foldl_fst
    | with_reducible apply keeps_foldl_snd | split

theorem setCam_keeps {s0 s : State} {c : Nat} {x : Camera} (h : Keeps s0 s) : Keeps s0 (State.setCam s c x) := by
  unfold State.setCam
  try dsimp only
  repeat' first
    | intro _ | with_reducible assumption | exact rfl | with_reducible apply keeps_ite
    | with_reducible apply keeps_foldl | with_reducible apply keeps_overIdx | simp only [↓keeps_mk_iff]
    | with_reducible apply keeps_foldl_fst | with_reducible apply keeps_foldl_snd | split

theorem landPipe_keeps {s0 s : State} {t : Nat} {p : Nat} (h : Keeps s0 s) : Keeps s0 (State.landPipe s t p) := by
  unfold State.landPipe
  try dsimp only
  repeat' first
    | intro _ | with_reducible assumption | exact rfl | with_reducible apply keeps_ite
    | with_reducible apply land_keeps | with_reducible apply joinLanded_keeps | with_reducible apply keeps_foldl
    | with_reducible apply keeps_overIdx | simp only [↓keeps_mk_iff] | with_reducible apply keeps_foldl_fst
    | with_reducible apply keeps_foldl_snd | split

theorem generation_keeps {s0 s : State} {c : Nat} {before : List Nat} {landed : Bool} (h : Keeps s0 s) :
    Keeps s0 (State.generation s c before landed) := by
  unfold State.generation
  try dsimp only
  repeat' first
    | intro _ | with_reducible assumption | exact rfl | with_reducible apply keeps_ite
    | with_reducible apply setCam_keeps | with_reducible apply put_keeps | with_reducible apply keeps_foldl
    | with_reducible apply keeps_overIdx | simp only [↓keeps_mk_iff] | with_reducible apply keeps_foldl_fst
    | with_reducible apply keeps_foldl_snd | split

theorem darkLand_keeps {s0 s : State} {rd : Reader} {c : Nat} {t : Nat} (h : Keeps s0 s) :
    Keeps s0 (State.darkLand s rd c t) := by
  unfold State.darkLand
  try dsimp only
  repeat' first
    | intro _ | with_reducible assumption | exact rfl | with_reducible apply keeps_ite
    | with_reducible apply put_keeps | with_reducible apply bump_keeps | with_reducible apply sticky_keeps
    | with_reducible apply keeps_foldl | with_reducible apply keeps_overIdx | simp only [↓keeps_mk_iff]
    | with_reducible apply keeps_foldl_fst | with_reducible apply keeps_foldl_snd | split

theorem lenLand_keeps {s0 s : State} {rd : Reader} {c : Nat} {n : Nat} {t : Nat} (h : Keeps s0 s) :
    Keeps s0 (State.lenLand s rd c n t) := by
  unfold State.lenLand
  try dsimp only
  repeat' first
    | intro _ | with_reducible assumption | exact rfl | with_reducible apply keeps_ite
    | with_reducible apply put_keeps | with_reducible apply bump_keeps | with_reducible apply sticky_keeps
    | with_reducible apply keeps_foldl | with_reducible apply keeps_overIdx | simp only [↓keeps_mk_iff]
    | with_reducible apply keeps_foldl_fst | with_reducible apply keeps_foldl_snd | split

theorem landCamera_keeps {s0 s : State} {c : Nat} {t : Nat} (h : Keeps s0 s) : Keeps s0 (State.landCamera s c t) := by
  unfold State.landCamera
  try dsimp only
  repeat' first
    | intro _ | with_reducible assumption | exact rfl | with_reducible apply keeps_ite
    | with_reducible apply lenLand_keeps | with_reducible apply darkLand_keeps | with_reducible apply setCam_keeps
    | with_reducible apply land_keeps | with_reducible apply landPipe_keeps | with_reducible apply generation_keeps
    | with_reducible apply put_keeps | with_reducible apply bump_keeps | with_reducible apply sticky_keeps
    | with_reducible apply keeps_foldl | with_reducible apply keeps_overIdx | simp only [↓keeps_mk_iff]
    | with_reducible apply keeps_foldl_fst | with_reducible apply keeps_foldl_snd | split

theorem placeOne_keeps {s0 s : State} {r : Request} (h : Keeps s0 s) : Keeps s0 (State.placeOne s r) := by
  unfold State.placeOne
  try dsimp only
  repeat' first
    | intro _ | with_reducible assumption | exact rfl | with_reducible apply keeps_ite
    | with_reducible apply put_keeps | with_reducible apply bump_keeps | with_reducible apply at__keeps
    | with_reducible apply setCam_keeps | with_reducible apply keeps_foldl | with_reducible apply keeps_overIdx
    | simp only [↓keeps_mk_iff] | with_reducible apply keeps_foldl_fst | with_reducible apply keeps_foldl_snd | split

theorem scheduleFrame_keeps {s0 s : State} {c : Nat} {f : Nat} {q : Sched} (h : Keeps s0 s) :
    Keeps s0 (State.scheduleFrame s c f q) := by
  unfold State.scheduleFrame
  try dsimp only
  repeat' first
    | intro _ | with_reducible assumption | exact rfl | with_reducible apply keeps_ite
    | with_reducible apply at__keeps | with_reducible apply keeps_foldl | with_reducible apply keeps_overIdx
    | simp only [↓keeps_mk_iff] | with_reducible apply keeps_foldl_fst | with_reducible apply keeps_foldl_snd | split

theorem setupFrame_keeps {s0 s : State} {c : Nat} {t : Nat} {f : Nat} (h : Keeps s0 s) :
    Keeps s0 (State.setupFrame s c t f).1 := by
  unfold State.setupFrame
  try dsimp only
  repeat' first
    | intro _ | with_reducible assumption | exact rfl | with_reducible apply keeps_ite
    | with_reducible apply landCamera_keeps | with_reducible apply put_keeps | with_reducible apply setCam_keeps
    | with_reducible apply takeFrame_keeps | with_reducible apply formWindows_keeps
    | with_reducible apply scheduleFrame_keeps | with_reducible apply keeps_foldl | with_reducible apply keeps_overIdx
    | simp only [↓keeps_mk_iff] | with_reducible apply keeps_foldl_fst | with_reducible apply keeps_foldl_snd | split

theorem skipSlot_keeps {s0 s : State} {c : Nat} (h : Keeps s0 s) : Keeps s0 (State.skipSlot s c) := by
  unfold State.skipSlot
  try dsimp only
  repeat' first
    | intro _ | with_reducible assumption | exact rfl | with_reducible apply keeps_ite
    | with_reducible apply bump_keeps | with_reducible apply sticky_keeps | with_reducible apply keeps_foldl
    | with_reducible apply keeps_overIdx | simp only [↓keeps_mk_iff] | with_reducible apply keeps_foldl_fst
    | with_reducible apply keeps_foldl_snd | split

theorem offerLinked_keeps {s0 s : State} {t : Nat} {f : Nat} (h : Keeps s0 s) :
    Keeps s0 (State.offerLinked s t f).1 := by
  unfold State.offerLinked
  try dsimp only
  repeat' first
    | intro _ | with_reducible assumption | exact rfl | with_reducible apply keeps_ite
    | with_reducible apply setupFrame_keeps | with_reducible apply skipSlot_keeps | with_reducible apply keeps_foldl
    | with_reducible apply keeps_overIdx | simp only [↓keeps_mk_iff] | with_reducible apply keeps_foldl_fst
    | with_reducible apply keeps_foldl_snd | split

theorem tryFrame_keeps {s0 s : State} {c : Nat} {t : Nat} {f : Nat} (h : Keeps s0 s) :
    Keeps s0 (State.tryFrame s c t f).1 := by
  unfold State.tryFrame
  try dsimp only
  repeat' first
    | intro _ | with_reducible assumption | exact rfl | with_reducible apply keeps_ite
    | with_reducible apply setupFrame_keeps | with_reducible apply offerLinked_keeps
    | with_reducible apply keeps_foldl | with_reducible apply keeps_overIdx | simp only [↓keeps_mk_iff]
    | with_reducible apply keeps_foldl_fst | with_reducible apply keeps_foldl_snd | split

theorem place_keeps {s0 s : State} {rs : List Request} (h : Keeps s0 s) : Keeps s0 (State.place s rs) := by
  unfold State.place
  try dsimp only
  repeat' first
    | intro _ | with_reducible assumption | exact rfl | with_reducible apply keeps_ite
    | with_reducible apply placeOne_keeps | with_reducible apply keeps_foldl | with_reducible apply keeps_overIdx
    | simp only [↓keeps_mk_iff] | with_reducible apply keeps_foldl_fst | with_reducible apply keeps_foldl_snd | split

theorem nextSlotAt_keeps {s0 s : State} {c : Nat} {f : Nat} (h : Keeps s0 s) : Keeps s0 (State.nextSlotAt s c f) := by
  unfold State.nextSlotAt
  try dsimp only
  repeat' first
    | intro _ | with_reducible assumption | exact rfl | with_reducible apply keeps_ite
    | with_reducible apply at__keeps | with_reducible apply setCam_keeps | with_reducible apply keeps_foldl
    | with_reducible apply keeps_overIdx | simp only [↓keeps_mk_iff] | with_reducible apply keeps_foldl_fst
    | with_reducible apply keeps_foldl_snd | split

theorem advanceGrid_keeps {s0 s : State} {c : Nat} {f : Nat} (h : Keeps s0 s) :
    Keeps s0 (State.advanceGrid s c f) := by
  unfold State.advanceGrid
  try dsimp only
  repeat' first
    | intro _ | with_reducible assumption | exact rfl | with_reducible apply keeps_ite
    | with_reducible apply nextSlotAt_keeps | with_reducible apply setCam_keeps | with_reducible apply keeps_foldl
    | with_reducible apply keeps_overIdx | simp only [↓keeps_mk_iff] | with_reducible apply keeps_foldl_fst
    | with_reducible apply keeps_foldl_snd | split

theorem burstDown_keeps {s0 s : State} {c : Nat} (h : Keeps s0 s) : Keeps s0 (State.burstDown s c) := by
  unfold State.burstDown
  try dsimp only
  repeat' first
    | intro _ | with_reducible assumption | exact rfl | with_reducible apply keeps_ite
    | with_reducible apply put_keeps | with_reducible apply keeps_foldl | with_reducible apply keeps_overIdx
    | simp only [↓keeps_mk_iff] | with_reducible apply keeps_foldl_fst | with_reducible apply keeps_foldl_snd | split

theorem slotDue_keeps {s0 s : State} {c : Nat} (h : Keeps s0 s) : Keeps s0 (State.slotDue s c).1 := by
  unfold State.slotDue
  try dsimp only
  repeat' first
    | intro _ | with_reducible assumption | exact rfl | with_reducible apply keeps_ite
    | with_reducible apply at__keeps | with_reducible apply advanceGrid_keeps | with_reducible apply burstDown_keeps
    | with_reducible apply setCam_keeps | with_reducible apply tryFrame_keeps | with_reducible apply skipSlot_keeps
    | with_reducible apply keeps_foldl | with_reducible apply keeps_overIdx | simp only [↓keeps_mk_iff]
    | with_reducible apply keeps_foldl_fst | with_reducible apply keeps_foldl_snd | split

theorem setupTick_keeps {s0 s : State} {c : Nat} (h : Keeps s0 s) : Keeps s0 (State.setupTick s c) := by
  unfold State.setupTick
  try dsimp only
  repeat' first
    | intro _ | with_reducible assumption | exact rfl | with_reducible apply keeps_ite
    | with_reducible apply slotDue_keeps | with_reducible apply place_keeps | with_reducible apply keeps_foldl
    | with_reducible apply keeps_overIdx | simp only [↓keeps_mk_iff] | with_reducible apply keeps_foldl_fst
    | with_reducible apply keeps_foldl_snd | split

theorem regainSlots_keeps {s0 s : State} (h : Keeps s0 s) : Keeps s0 (State.regainSlots s) := by
  unfold State.regainSlots
  try dsimp only
  repeat' first
    | intro _ | with_reducible assumption | exact rfl | with_reducible apply keeps_ite
    | with_reducible apply after_keeps | with_reducible apply put_keeps | with_reducible apply setCam_keeps
    | with_reducible apply keeps_foldl | with_reducible apply keeps_overIdx | simp only [↓keeps_mk_iff]
    | with_reducible apply keeps_foldl_fst | with_reducible apply keeps_foldl_snd | split

theorem startCamera_keeps {s0 s : State} {c : Nat} (h : Keeps s0 s) : Keeps s0 (State.startCamera s c) := by
  unfold State.startCamera
  try dsimp only
  repeat' first
    | intro _ | with_reducible assumption | exact rfl | with_reducible apply keeps_ite
    | with_reducible apply put_keeps | with_reducible apply setCam_keeps | with_reducible apply nextSlotAt_keeps
    | with_reducible apply keeps_foldl | with_reducible apply keeps_overIdx | simp only [↓keeps_mk_iff]
    | with_reducible apply keeps_foldl_fst | with_reducible apply keeps_foldl_snd | split

theorem stopCamera_keeps {s0 s : State} {c : Nat} (h : Keeps s0 s) : Keeps s0 (State.stopCamera s c) := by
  unfold State.stopCamera
  try dsimp only
  repeat' first
    | intro _ | with_reducible assumption | exact rfl | with_reducible apply keeps_ite
    | with_reducible apply put_keeps | with_reducible apply setCam_keeps | with_reducible apply keeps_foldl
    | with_reducible apply keeps_overIdx | simp only [↓keeps_mk_iff] | with_reducible apply keeps_foldl_fst
    | with_reducible apply keeps_foldl_snd | split

theorem dropTrigger_keeps {s0 s : State} {c : Nat} (h : Keeps s0 s) : Keeps s0 (State.dropTrigger s c) := by
  unfold State.dropTrigger
  try dsimp only
  repeat' first
    | intro _ | with_reducible assumption | exact rfl | with_reducible apply keeps_ite
    | with_reducible apply bump_keeps | with_reducible apply sticky_keeps | with_reducible apply keeps_foldl
    | with_reducible apply keeps_overIdx | simp only [↓keeps_mk_iff] | with_reducible apply keeps_foldl_fst
    | with_reducible apply keeps_foldl_snd | split

theorem beginBurst_keeps {s0 s : State} {c : Nat} {f : Nat} (h : Keeps s0 s) : Keeps s0 (State.beginBurst s c f) := by
  unfold State.beginBurst
  try dsimp only
  repeat' first
    | intro _ | with_reducible assumption | exact rfl | with_reducible apply keeps_ite
    | with_reducible apply put_keeps | with_reducible apply advanceGrid_keeps | with_reducible apply setCam_keeps
    | with_reducible apply keeps_foldl | with_reducible apply keeps_overIdx | simp only [↓keeps_mk_iff]
    | with_reducible apply keeps_foldl_fst | with_reducible apply keeps_foldl_snd | split

theorem triggerCam_keeps {s0 s : State} {c : Nat} {t : Nat} (h : Keeps s0 s) :
    Keeps s0 (State.triggerCam s c t).1 := by
  unfold State.triggerCam
  try dsimp only
  repeat' first
    | intro _ | with_reducible assumption | exact rfl | with_reducible apply keeps_ite
    | with_reducible apply dropTrigger_keeps | with_reducible apply tryFrame_keeps
    | with_reducible apply beginBurst_keeps | with_reducible apply keeps_foldl | with_reducible apply keeps_overIdx
    | simp only [↓keeps_mk_iff] | with_reducible apply keeps_foldl_fst | with_reducible apply keeps_foldl_snd | split

theorem triggerBoth_keeps {s0 s : State} {t : Nat} {hits : Nat → Bool} (h : Keeps s0 s) :
    Keeps s0 (State.triggerBoth s t hits) := by
  unfold State.triggerBoth
  try dsimp only
  repeat' first
    | intro _ | with_reducible assumption | exact rfl | with_reducible apply keeps_ite
    | with_reducible apply triggerCam_keeps | with_reducible apply place_keeps | with_reducible apply keeps_foldl
    | with_reducible apply keeps_overIdx | simp only [↓keeps_mk_iff] | with_reducible apply keeps_foldl_fst
    | with_reducible apply keeps_foldl_snd | split

theorem trigger_keeps {s0 s : State} {src : Nat} {t : Nat} {rising : Bool} (h : Keeps s0 s) :
    Keeps s0 (State.trigger s src t rising) := by
  unfold State.trigger
  try dsimp only
  repeat' first
    | intro _ | with_reducible assumption | exact rfl | with_reducible apply keeps_ite
    | with_reducible apply triggerBoth_keeps | with_reducible apply keeps_foldl | with_reducible apply keeps_overIdx
    | simp only [↓keeps_mk_iff] | with_reducible apply keeps_foldl_fst | with_reducible apply keeps_foldl_snd | split

theorem softTrigger_keeps {s0 s : State} {mask : Nat} (h : Keeps s0 s) : Keeps s0 (State.softTrigger s mask) := by
  unfold State.softTrigger
  try dsimp only
  repeat' first
    | intro _ | with_reducible assumption | exact rfl | with_reducible apply keeps_ite
    | with_reducible apply triggerBoth_keeps | with_reducible apply keeps_foldl | with_reducible apply keeps_overIdx
    | simp only [↓keeps_mk_iff] | with_reducible apply keeps_foldl_fst | with_reducible apply keeps_foldl_snd | split

theorem modNode_keeps {s0 s : State} {c : Nat} {n : Nat} {f : Node → Node} (h : Keeps s0 s) :
    Keeps s0 (State.modNode s c n f) := by
  unfold State.modNode
  try dsimp only
  repeat' first
    | intro _ | with_reducible assumption | exact rfl | with_reducible apply keeps_ite
    | with_reducible apply setCam_keeps | with_reducible apply keeps_foldl | with_reducible apply keeps_overIdx
    | simp only [↓keeps_mk_iff] | with_reducible apply keeps_foldl_fst | with_reducible apply keeps_foldl_snd | split

theorem resetNode_keeps {s0 s : State} {c : Nat} {n : Nat} (h : Keeps s0 s) : Keeps s0 (State.resetNode s c n) := by
  unfold State.resetNode
  try dsimp only
  repeat' first
    | intro _ | with_reducible assumption | exact rfl | with_reducible apply keeps_ite
    | with_reducible apply modNode_keeps | with_reducible apply keeps_foldl | with_reducible apply keeps_overIdx
    | simp only [↓keeps_mk_iff] | with_reducible apply keeps_foldl_fst | with_reducible apply keeps_foldl_snd | split

theorem openNode_keeps {s0 s : State} {c : Nat} {n : Nat} (h : Keeps s0 s) : Keeps s0 (State.openNode s c n) := by
  unfold State.openNode
  try dsimp only
  repeat' first
    | intro _ | with_reducible assumption | exact rfl | with_reducible apply keeps_ite
    | with_reducible apply modNode_keeps | with_reducible apply keeps_foldl | with_reducible apply keeps_overIdx
    | simp only [↓keeps_mk_iff] | with_reducible apply keeps_foldl_fst | with_reducible apply keeps_foldl_snd | split

theorem closeNode_keeps {s0 s : State} {c : Nat} {n : Nat} (h : Keeps s0 s) : Keeps s0 (State.closeNode s c n) := by
  unfold State.closeNode
  try dsimp only
  repeat' first
    | intro _ | with_reducible assumption | exact rfl | with_reducible apply keeps_ite
    | with_reducible apply modNode_keeps | with_reducible apply keeps_foldl | with_reducible apply keeps_overIdx
    | simp only [↓keeps_mk_iff] | with_reducible apply keeps_foldl_fst | with_reducible apply keeps_foldl_snd | split

theorem beginFrame_keeps {s0 s : State} {c : Nat} (h : Keeps s0 s) : Keeps s0 (State.beginFrame s c) := by
  unfold State.beginFrame
  try dsimp only
  repeat' first
    | intro _ | with_reducible assumption | exact rfl | with_reducible apply keeps_ite
    | with_reducible apply setCam_keeps | with_reducible apply burstDown_keeps | with_reducible apply putPair_keeps
    | with_reducible apply bump_keeps | with_reducible apply modFrame_keeps | with_reducible apply keeps_foldl
    | with_reducible apply keeps_overIdx | simp only [↓keeps_mk_iff] | with_reducible apply keeps_foldl_fst
    | with_reducible apply keeps_foldl_snd | split

theorem readoutInto_keeps {s0 s : State} {p : Nat} {c : Nat} {n : Nat} {f : Nat} {fin : Nat} {wins : List Window}
    {o : Readout} {banks : Banks} (h : Keeps s0 s) :
    Keeps s0 (State.readoutInto s p c n f fin wins o banks) := by
  unfold State.readoutInto
  try dsimp only
  repeat' first
    | intro _ | with_reducible assumption | exact rfl | with_reducible apply keeps_ite
    | with_reducible apply modFrame_keeps | with_reducible apply buildRecords_keeps | with_reducible apply keeps_foldl
    | with_reducible apply keeps_overIdx | simp only [↓keeps_mk_iff] | with_reducible apply keeps_foldl_fst
    | with_reducible apply keeps_foldl_snd | split

theorem beginReadout_keeps {s0 s : State} {c : Nat} {n : Nat} {img : Scene} (h : Keeps s0 s) :
    Keeps s0 (State.beginReadout s c n img) := by
  unfold State.beginReadout
  try dsimp only
  repeat' first
    | intro _ | with_reducible assumption | exact rfl | with_reducible apply keeps_ite
    | with_reducible apply setCam_keeps | with_reducible apply readoutInto_keeps | with_reducible apply after_keeps
    | with_reducible apply keeps_foldl | with_reducible apply keeps_overIdx | simp only [↓keeps_mk_iff]
    | with_reducible apply keeps_foldl_fst | with_reducible apply keeps_foldl_snd | split

theorem endReadout_keeps {s0 s : State} {c : Nat} {n : Nat} (h : Keeps s0 s) : Keeps s0 (State.endReadout s c n) := by
  unfold State.endReadout
  try dsimp only
  repeat' first
    | intro _ | with_reducible assumption | exact rfl | with_reducible apply keeps_ite
    | with_reducible apply setCam_keeps | with_reducible apply keeps_foldl | with_reducible apply keeps_overIdx
    | simp only [↓keeps_mk_iff] | with_reducible apply keeps_foldl_fst | with_reducible apply keeps_foldl_snd | split

theorem handCal_keeps {s0 s : State} {p : Nat} {n : Nat} {f : Nat} (h : Keeps s0 s) :
    Keeps s0 (State.handCal s p n f) := by
  unfold State.handCal
  try dsimp only
  repeat' first
    | intro _ | with_reducible assumption | exact rfl | with_reducible apply keeps_ite
    | with_reducible apply after_keeps | with_reducible apply keeps_foldl | with_reducible apply keeps_overIdx
    | simp only [↓keeps_mk_iff] | with_reducible apply keeps_foldl_fst | with_reducible apply keeps_foldl_snd | split

theorem rowPair_keeps {s0 s : State} {c : Nat} {n : Nat} (h : Keeps s0 s) : Keeps s0 (State.rowPair s c n) := by
  unfold State.rowPair
  try dsimp only
  repeat' first
    | intro _ | with_reducible assumption | exact rfl | with_reducible apply keeps_ite
    | with_reducible apply setCam_keeps | with_reducible apply endReadout_keeps | with_reducible apply after_keeps
    | with_reducible apply countNode_keeps | with_reducible apply rowsMeet_keeps
    | with_reducible apply recorrect_keeps | with_reducible apply runTaps_keeps
    | with_reducible apply overflowDue_keeps | with_reducible apply handCal_keeps | with_reducible apply settle_keeps
    | with_reducible apply endStopped_keeps | with_reducible apply keeps_foldl | with_reducible apply keeps_overIdx
    | simp only [↓keeps_mk_iff] | with_reducible apply keeps_foldl_fst | with_reducible apply keeps_foldl_snd | split

theorem setXport_keeps {s0 s : State} {x : Nat} {y : XPort} (h : Keeps s0 s) : Keeps s0 (State.setXport s x y) := by
  unfold State.setXport
  try dsimp only
  repeat' first
    | intro _ | with_reducible assumption | exact rfl | with_reducible apply keeps_ite
    | with_reducible apply keeps_foldl | with_reducible apply keeps_overIdx | simp only [↓keeps_mk_iff]
    | with_reducible apply keeps_foldl_fst | with_reducible apply keeps_foldl_snd | split

theorem addLine_keeps {s0 s : State} {x : Nat} {l : XLine} (h : Keeps s0 s) : Keeps s0 (State.addLine s x l) := by
  unfold State.addLine
  try dsimp only
  repeat' first
    | intro _ | with_reducible assumption | exact rfl | with_reducible apply keeps_ite
    | with_reducible apply setXport_keeps | with_reducible apply bump_keeps | with_reducible apply at__keeps
    | with_reducible apply put_keeps | with_reducible apply keeps_foldl | with_reducible apply keeps_overIdx
    | simp only [↓keeps_mk_iff] | with_reducible apply keeps_foldl_fst | with_reducible apply keeps_foldl_snd | split

theorem fillLines_keeps {s0 s : State} {x : Nat} {w : Nat} {at_ : Nat} {a3 : Nat} (h : Keeps s0 s) :
    Keeps s0 (State.fillLines s x w at_ a3) := by
  induction a3 generalizing s with
  | zero => exact h
  | succ n ih =>
    unfold State.fillLines
    try dsimp only
    repeat' first
      | intro _ | with_reducible assumption | exact rfl | with_reducible apply ih | with_reducible apply keeps_ite
      | with_reducible apply free_keeps | with_reducible apply addLine_keeps | simp only [↓keeps_mk_iff] | split

theorem recordPipe_keeps {s0 s : State} {x : Nat} {start : Nat} {record : List Nat} (h : Keeps s0 s) :
    Keeps s0 (State.recordPipe s x start record) := by
  unfold State.recordPipe
  try dsimp only
  repeat' first
    | intro _ | with_reducible assumption | exact rfl | with_reducible apply keeps_ite
    | with_reducible apply modFrame_keeps | with_reducible apply keeps_foldl | with_reducible apply keeps_overIdx
    | simp only [↓keeps_mk_iff] | with_reducible apply keeps_foldl_fst | with_reducible apply keeps_foldl_snd | split

theorem closeFrame_keeps {s0 s : State} {x : Nat} {mark : XFrame → XFrame} (h : Keeps s0 s) :
    Keeps s0 (State.closeFrame s x mark) := by
  unfold State.closeFrame
  try dsimp only
  repeat' first
    | intro _ | with_reducible assumption | exact rfl | with_reducible apply keeps_ite
    | with_reducible apply addLine_keeps | with_reducible apply fillLines_keeps | with_reducible apply setXport_keeps
    | with_reducible apply put_keeps | with_reducible apply bump_keeps | with_reducible apply recordPipe_keeps
    | with_reducible apply sticky_keeps | with_reducible apply keeps_foldl | with_reducible apply keeps_overIdx
    | simp only [↓keeps_mk_iff] | with_reducible apply keeps_foldl_fst | with_reducible apply keeps_foldl_snd | split

theorem portStopped_keeps {s0 s : State} {x : Nat} (h : Keeps s0 s) : Keeps s0 (State.portStopped s x) := by
  unfold State.portStopped
  try dsimp only
  repeat' first
    | intro _ | with_reducible assumption | exact rfl | with_reducible apply keeps_ite
    | with_reducible apply put_keeps | with_reducible apply setXport_keeps | with_reducible apply keeps_foldl
    | with_reducible apply keeps_overIdx | simp only [↓keeps_mk_iff] | with_reducible apply keeps_foldl_fst
    | with_reducible apply keeps_foldl_snd | split

theorem endFrame_keeps {s0 s : State} {x : Nat} {mark : XFrame → XFrame} (h : Keeps s0 s) :
    Keeps s0 (State.endFrame s x mark) := by
  unfold State.endFrame
  try dsimp only
  repeat' first
    | intro _ | with_reducible assumption | exact rfl | with_reducible apply keeps_ite
    | with_reducible apply closeFrame_keeps | with_reducible apply portStopped_keeps
    | with_reducible apply keeps_foldl | with_reducible apply keeps_overIdx | simp only [↓keeps_mk_iff]
    | with_reducible apply keeps_foldl_fst | with_reducible apply keeps_foldl_snd | split

end Sys2Proof.Machine
end

