-- ==== Sys2Proof/Laws/Keeps3.lean ====
section
/-! SUPPORT. `Keeps` is carried through every operation of the model, part 3 of 6. -/

namespace Sys2Proof.Machine

theorem stopPort_keeps {s0 s : State} {x : Nat} (h : Keeps s0 s) : Keeps s0 (State.stopPort s x) := by
  unfold State.stopPort
  try dsimp only
  repeat' first
    | intro _ | with_reducible assumption | exact rfl | with_reducible apply keeps_ite
    | with_reducible apply put_keeps | with_reducible apply setXport_keeps | with_reducible apply portStopped_keeps
    | with_reducible apply closeFrame_keeps | with_reducible apply keeps_foldl | with_reducible apply keeps_overIdx
    | simp only [↓keeps_mk_iff] | with_reducible apply keeps_foldl_fst | with_reducible apply keeps_foldl_snd | split

theorem forgetDelay_keeps {s0 s : State} {x : Nat} (h : Keeps s0 s) : Keeps s0 (State.forgetDelay s x) := by
  unfold State.forgetDelay
  try dsimp only
  repeat' first
    | intro _ | with_reducible assumption | exact rfl | with_reducible apply keeps_ite
    | with_reducible apply put_keeps | with_reducible apply keeps_foldl | with_reducible apply keeps_overIdx
    | simp only [↓keeps_mk_iff] | with_reducible apply keeps_foldl_fst | with_reducible apply keeps_foldl_snd | split

theorem portOn_keeps {s0 s : State} {x : Nat} (h : Keeps s0 s) : Keeps s0 (State.portOn s x) := by
  unfold State.portOn
  try dsimp only
  repeat' first
    | intro _ | with_reducible assumption | exact rfl | with_reducible apply keeps_ite
    | with_reducible apply setXport_keeps | with_reducible apply put_keeps | with_reducible apply keeps_foldl
    | with_reducible apply keeps_overIdx | simp only [↓keeps_mk_iff] | with_reducible apply keeps_foldl_fst
    | with_reducible apply keeps_foldl_snd | split

theorem portOff_keeps {s0 s : State} {x : Nat} (h : Keeps s0 s) : Keeps s0 (State.portOff s x) := by
  unfold State.portOff
  try dsimp only
  repeat' first
    | intro _ | with_reducible assumption | exact rfl | with_reducible apply keeps_ite
    | with_reducible apply setXport_keeps | with_reducible apply closeFrame_keeps | with_reducible apply put_keeps
    | with_reducible apply forgetDelay_keeps | with_reducible apply keeps_foldl | with_reducible apply keeps_overIdx
    | simp only [↓keeps_mk_iff] | with_reducible apply keeps_foldl_fst | with_reducible apply keeps_foldl_snd | split

theorem train_keeps {s0 s : State} {x : Nat} (h : Keeps s0 s) : Keeps s0 (State.train s x) := by
  unfold State.train
  try dsimp only
  repeat' first
    | intro _ | with_reducible assumption | exact rfl | with_reducible apply keeps_ite
    | with_reducible apply after_keeps | with_reducible apply put_keeps | with_reducible apply setXport_keeps
    | with_reducible apply keeps_foldl | with_reducible apply keeps_overIdx | simp only [↓keeps_mk_iff]
    | with_reducible apply keeps_foldl_fst | with_reducible apply keeps_foldl_snd | split

theorem trained_keeps {s0 s : State} {x : Nat} {start : Nat} {len : Nat} {lively : Bool} (h : Keeps s0 s) :
    Keeps s0 (State.trained s x start len lively) := by
  unfold State.trained
  try dsimp only
  repeat' first
    | intro _ | with_reducible assumption | exact rfl | with_reducible apply keeps_ite
    | with_reducible apply bump_keeps | with_reducible apply forgetDelay_keeps | with_reducible apply put_keeps
    | with_reducible apply sticky_keeps | with_reducible apply keeps_foldl | with_reducible apply keeps_overIdx
    | simp only [↓keeps_mk_iff] | with_reducible apply keeps_foldl_fst | with_reducible apply keeps_foldl_snd | split

theorem trainingEnd_keeps {s0 s : State} {x : Nat} {seen : Option (List Bool × List Nat)} (h : Keeps s0 s) :
    Keeps s0 (State.trainingEnd s x seen) := by
  unfold State.trainingEnd
  try dsimp only
  repeat' first
    | intro _ | with_reducible assumption | exact rfl | with_reducible apply keeps_ite
    | with_reducible apply trained_keeps | with_reducible apply free_keeps | with_reducible apply keeps_foldl
    | with_reducible apply keeps_overIdx | simp only [↓keeps_mk_iff] | with_reducible apply keeps_foldl_fst
    | with_reducible apply keeps_foldl_snd | split

theorem runPort_keeps {s0 s : State} {x : Nat} (h : Keeps s0 s) : Keeps s0 (State.runPort s x) := by
  unfold State.runPort
  try dsimp only
  repeat' first
    | intro _ | with_reducible assumption | exact rfl | with_reducible apply keeps_ite
    | with_reducible apply setXport_keeps | with_reducible apply put_keeps | with_reducible apply keeps_foldl
    | with_reducible apply keeps_overIdx | simp only [↓keeps_mk_iff] | with_reducible apply keeps_foldl_fst
    | with_reducible apply keeps_foldl_snd | split

theorem landPort_keeps {s0 s : State} {x : Nat} (h : Keeps s0 s) : Keeps s0 (State.landPort s x) := by
  unfold State.landPort
  try dsimp only
  repeat' first
    | intro _ | with_reducible assumption | exact rfl | with_reducible apply keeps_ite
    | with_reducible apply land_keeps | with_reducible apply landPipe_keeps | with_reducible apply setXport_keeps
    | with_reducible apply put_keeps | with_reducible apply keeps_foldl | with_reducible apply keeps_overIdx
    | simp only [↓keeps_mk_iff] | with_reducible apply keeps_foldl_fst | with_reducible apply keeps_foldl_snd | split

theorem openFrame_keeps {s0 s : State} {x : Nat} (h : Keeps s0 s) : Keeps s0 (State.openFrame s x) := by
  unfold State.openFrame
  try dsimp only
  repeat' first
    | intro _ | with_reducible assumption | exact rfl | with_reducible apply keeps_ite
    | with_reducible apply landPort_keeps | with_reducible apply setXport_keeps | with_reducible apply put_keeps
    | with_reducible apply putPair_keeps | with_reducible apply at__keeps | with_reducible apply free_keeps
    | with_reducible apply takeFrame_keeps | with_reducible apply recordPipe_keeps | with_reducible apply keeps_foldl
    | with_reducible apply keeps_overIdx | simp only [↓keeps_mk_iff] | with_reducible apply keeps_foldl_fst
    | with_reducible apply keeps_foldl_snd | split

theorem fvalRise_keeps {s0 s : State} {x : Nat} (h : Keeps s0 s) : Keeps s0 (State.fvalRise s x) := by
  unfold State.fvalRise
  try dsimp only
  repeat' first
    | intro _ | with_reducible assumption | exact rfl | with_reducible apply keeps_ite
    | with_reducible apply openFrame_keeps | with_reducible apply after_keeps | with_reducible apply setXport_keeps
    | with_reducible apply keeps_foldl | with_reducible apply keeps_overIdx | simp only [↓keeps_mk_iff]
    | with_reducible apply keeps_foldl_fst | with_reducible apply keeps_foldl_snd | split

theorem stray_keeps {s0 s : State} {x : Nat} (h : Keeps s0 s) : Keeps s0 (State.stray s x) := by
  unfold State.stray
  try dsimp only
  repeat' first
    | intro _ | with_reducible assumption | exact rfl | with_reducible apply keeps_ite
    | with_reducible apply bump_keeps | with_reducible apply setXport_keeps | with_reducible apply keeps_foldl
    | with_reducible apply keeps_overIdx | simp only [↓keeps_mk_iff] | with_reducible apply keeps_foldl_fst
    | with_reducible apply keeps_foldl_snd | split

theorem lineBeat_keeps {s0 s : State} {x : Nat} {first : Nat} {words : List Nat} {fall : Bool} (h : Keeps s0 s) :
    Keeps s0 (State.lineBeat s x first words fall) := by
  unfold State.lineBeat
  try dsimp only
  repeat' first
    | intro _ | with_reducible assumption | exact rfl | with_reducible apply keeps_ite
    | with_reducible apply stray_keeps | with_reducible apply setXport_keeps | with_reducible apply addLine_keeps
    | with_reducible apply endFrame_keeps | with_reducible apply keeps_foldl | with_reducible apply keeps_overIdx
    | simp only [↓keeps_mk_iff] | with_reducible apply keeps_foldl_fst | with_reducible apply keeps_foldl_snd | split

theorem portClock_keeps {s0 s : State} {x : Nat} (h : Keeps s0 s) : Keeps s0 (State.portClock s x) := by
  unfold State.portClock
  try dsimp only
  repeat' first
    | intro _ | with_reducible assumption | exact rfl | with_reducible apply keeps_ite
    | with_reducible apply closeFrame_keeps | with_reducible apply forgetDelay_keeps
    | with_reducible apply setXport_keeps | with_reducible apply put_keeps | with_reducible apply sticky_keeps
    | with_reducible apply keeps_foldl | with_reducible apply keeps_overIdx | simp only [↓keeps_mk_iff]
    | with_reducible apply keeps_foldl_fst | with_reducible apply keeps_foldl_snd | split

theorem xrecords_keeps {s0 s : State} {p : Nat} {x : Nat} {r : PipeFrame} {f : XFrame} {done : Bool} (h : Keeps s0 s)
    :
    Keeps s0 (State.xrecords s p x r f done) := by
  unfold State.xrecords
  try dsimp only
  repeat' first
    | intro _ | with_reducible assumption | exact rfl | with_reducible apply keeps_ite
    | with_reducible apply modFrame_keeps | with_reducible apply scheduleIssues_keeps
    | with_reducible apply setPipe_keeps | with_reducible apply at__keeps | with_reducible apply keeps_foldl
    | with_reducible apply keeps_overIdx | simp only [↓keeps_mk_iff] | with_reducible apply keeps_foldl_fst
    | with_reducible apply keeps_foldl_snd | split

theorem xinto_keeps {s0 s : State} {x : Nat} {f : XFrame} {done : Bool} {p : Nat} (h : Keeps s0 s) :
    Keeps s0 (State.xinto s x f done p) := by
  unfold State.xinto
  try dsimp only
  repeat' first
    | intro _ | with_reducible assumption | exact rfl | with_reducible apply keeps_ite
    | with_reducible apply xrecords_keeps | with_reducible apply overflowDue_keeps
    | with_reducible apply modFrame_keeps | with_reducible apply runTaps_keeps | with_reducible apply countPart_keeps
    | with_reducible apply rowsMeet_keeps | with_reducible apply settle_keeps | with_reducible apply endStopped_keeps
    | with_reducible apply keeps_foldl | with_reducible apply keeps_overIdx | simp only [↓keeps_mk_iff]
    | with_reducible apply keeps_foldl_fst | with_reducible apply keeps_foldl_snd | split

theorem releaseLines_keeps {s0 s : State} {x : Nat} (h : Keeps s0 s) : Keeps s0 (State.releaseLines s x) := by
  unfold State.releaseLines
  try dsimp only
  repeat' first
    | intro _ | with_reducible assumption | exact rfl | with_reducible apply keeps_ite
    | with_reducible apply setXport_keeps | with_reducible apply xinto_keeps | with_reducible apply keeps_foldl
    | with_reducible apply keeps_overIdx | simp only [↓keeps_mk_iff] | with_reducible apply keeps_foldl_fst
    | with_reducible apply keeps_foldl_snd | split

theorem modEng_keeps {s0 s : State} {e : Nat} {f : Engine → Engine} (h : Keeps s0 s) :
    Keeps s0 (State.modEng s e f) := by
  unfold State.modEng
  try dsimp only
  repeat' first
    | intro _ | with_reducible assumption | exact rfl | with_reducible apply keeps_ite
    | with_reducible apply keeps_foldl | with_reducible apply keeps_overIdx | simp only [↓keeps_mk_iff]
    | with_reducible apply keeps_foldl_fst | with_reducible apply keeps_foldl_snd | split

theorem pioNext_keeps {s0 s : State} {e : Nat} (h : Keeps s0 s) : Keeps s0 (State.pioNext s e) := by
  unfold State.pioNext
  try dsimp only
  repeat' first
    | intro _ | with_reducible assumption | exact rfl | with_reducible apply keeps_ite
    | with_reducible apply at__keeps | with_reducible apply keeps_foldl | with_reducible apply keeps_overIdx
    | simp only [↓keeps_mk_iff] | with_reducible apply keeps_foldl_fst | with_reducible apply keeps_foldl_snd | split

theorem readPins_keeps {s0 s : State} (h : Keeps s0 s) : Keeps s0 (State.readPins s).2 := by
  unfold State.readPins
  try dsimp only
  repeat' first
    | intro _ | with_reducible assumption | exact rfl | with_reducible apply keeps_ite
    | with_reducible apply free_keeps | with_reducible apply keeps_foldl | with_reducible apply keeps_overIdx
    | simp only [↓keeps_mk_iff] | with_reducible apply keeps_foldl_fst | with_reducible apply keeps_foldl_snd | split

theorem movePin_keeps {s0 s : State} {t : Nat} {n : Nat} (h : Keeps s0 s) : Keeps s0 (State.movePin s t n) := by
  unfold State.movePin
  try dsimp only
  repeat' first
    | intro _ | with_reducible assumption | exact rfl | with_reducible apply keeps_ite
    | with_reducible apply keeps_foldl | with_reducible apply keeps_overIdx | simp only [↓keeps_mk_iff]
    | with_reducible apply keeps_foldl_fst | with_reducible apply keeps_foldl_snd | split

theorem writePin_keeps {s0 s : State} {e : Nat} {n : Nat} {dir : Bool} {b : Bool} (h : Keeps s0 s) :
    Keeps s0 (State.writePin s e n dir b) := by
  unfold State.writePin
  try dsimp only
  repeat' first
    | intro _ | with_reducible assumption | exact rfl | with_reducible apply keeps_ite
    | with_reducible apply movePin_keeps | with_reducible apply keeps_foldl | with_reducible apply keeps_overIdx
    | simp only [↓keeps_mk_iff] | with_reducible apply keeps_foldl_fst | with_reducible apply keeps_foldl_snd | split

theorem writePins_keeps {s0 s : State} {e : Nat} {base : Nat} {n : Nat} {v : Nat} {dir : Bool} (h : Keeps s0 s) :
    Keeps s0 (State.writePins s e base n v dir) := by
  unfold State.writePins
  try dsimp only
  repeat' first
    | intro _ | with_reducible assumption | exact rfl | with_reducible apply keeps_ite
    | with_reducible apply writePin_keeps | with_reducible apply keeps_foldl | with_reducible apply keeps_overIdx
    | simp only [↓keeps_mk_iff] | with_reducible apply keeps_foldl_fst | with_reducible apply keeps_foldl_snd | split

theorem drivePins_keeps {s0 s : State} {e : Nat} {v : Nat} {dir : Bool} (h : Keeps s0 s) :
    Keeps s0 (State.drivePins s e v dir) := by
  unfold State.drivePins
  try dsimp only
  repeat' first
    | intro _ | with_reducible assumption | exact rfl | with_reducible apply keeps_ite
    | with_reducible apply writePins_keeps | with_reducible apply keeps_foldl | with_reducible apply keeps_overIdx
    | simp only [↓keeps_mk_iff] | with_reducible apply keeps_foldl_fst | with_reducible apply keeps_foldl_snd | split

theorem pioErr_keeps {s0 s : State} {e : Nat} {i : Nat} (h : Keeps s0 s) : Keeps s0 (State.pioErr s e i) := by
  unfold State.pioErr
  try dsimp only
  repeat' first
    | intro _ | with_reducible assumption | exact rfl | with_reducible apply keeps_ite
    | with_reducible apply sticky_keeps | with_reducible apply keeps_foldl | with_reducible apply keeps_overIdx
    | simp only [↓keeps_mk_iff] | with_reducible apply keeps_foldl_fst | with_reducible apply keeps_foldl_snd | split

theorem pioUnder_keeps {s0 s : State} {e : Nat} {i : Nat} (h : Keeps s0 s) : Keeps s0 (State.pioUnder s e i) := by
  unfold State.pioUnder
  try dsimp only
  repeat' first
    | intro _ | with_reducible assumption | exact rfl | with_reducible apply keeps_ite
    | with_reducible apply pioErr_keeps | with_reducible apply bump_keeps | with_reducible apply keeps_foldl
    | with_reducible apply keeps_overIdx | simp only [↓keeps_mk_iff] | with_reducible apply keeps_foldl_fst
    | with_reducible apply keeps_foldl_snd | split

theorem pioOver_keeps {s0 s : State} {e : Nat} {i : Nat} (h : Keeps s0 s) : Keeps s0 (State.pioOver s e i) := by
  unfold State.pioOver
  try dsimp only
  repeat' first
    | intro _ | with_reducible assumption | exact rfl | with_reducible apply keeps_ite
    | with_reducible apply pioErr_keeps | with_reducible apply bump_keeps | with_reducible apply keeps_foldl
    | with_reducible apply keeps_overIdx | simp only [↓keeps_mk_iff] | with_reducible apply keeps_foldl_fst
    | with_reducible apply keeps_foldl_snd | split

theorem settlePops_keeps {s0 s : State} {e : Nat} (h : Keeps s0 s) : Keeps s0 (State.settlePops s e) := by
  unfold State.settlePops
  try dsimp only
  repeat' first
    | intro _ | with_reducible assumption | exact rfl | with_reducible apply keeps_ite
    | with_reducible apply modEng_keeps | with_reducible apply keeps_foldl | with_reducible apply keeps_overIdx
    | simp only [↓keeps_mk_iff] | with_reducible apply keeps_foldl_fst | with_reducible apply keeps_foldl_snd | split

theorem pioBegin_keeps {s0 s : State} {e : Nat} (h : Keeps s0 s) : Keeps s0 (State.pioBegin s e) := by
  unfold State.pioBegin
  try dsimp only
  repeat' first
    | intro _ | with_reducible assumption | exact rfl | with_reducible apply keeps_ite
    | with_reducible apply modEng_keeps | with_reducible apply movePin_keeps | with_reducible apply keeps_foldl
    | with_reducible apply keeps_overIdx | simp only [↓keeps_mk_iff] | with_reducible apply keeps_foldl_fst
    | with_reducible apply keeps_foldl_snd | split

theorem pioDone_keeps {s0 s : State} {e : Nat} {next : Nat} (h : Keeps s0 s) : Keeps s0 (State.pioDone s e next) := by
  unfold State.pioDone
  try dsimp only
  repeat' first
    | intro _ | with_reducible assumption | exact rfl | with_reducible apply keeps_ite
    | with_reducible apply modEng_keeps | with_reducible apply pioNext_keeps | with_reducible apply at__keeps
    | with_reducible apply keeps_foldl | with_reducible apply keeps_overIdx | simp only [↓keeps_mk_iff]
    | with_reducible apply keeps_foldl_fst | with_reducible apply keeps_foldl_snd | split

theorem pioStall_keeps {s0 s : State} {e : Nat} (h : Keeps s0 s) : Keeps s0 (State.pioStall s e) := by
  unfold State.pioStall
  try dsimp only
  repeat' first
    | intro _ | with_reducible assumption | exact rfl | with_reducible apply keeps_ite
    | with_reducible apply pioNext_keeps | with_reducible apply modEng_keeps | with_reducible apply keeps_foldl
    | with_reducible apply keeps_overIdx | simp only [↓keeps_mk_iff] | with_reducible apply keeps_foldl_fst
    | with_reducible apply keeps_foldl_snd | split

theorem pioExec_keeps {s0 s : State} {e : Nat} {row : Instr} {f : Nat → State → State}
    (h_f : ∀ y0 y1, Keeps s0 y1 → Keeps s0 (f y0 y1)) (h : Keeps s0 s) :
    Keeps s0 (State.pioExec s e row f) := by
  unfold State.pioExec
  try dsimp only
  repeat' first
    | intro _ | with_reducible assumption | exact rfl | with_reducible apply keeps_ite
    | with_reducible apply settlePops_keeps | with_reducible apply pioBegin_keeps | with_reducible apply h_f
    | with_reducible apply keeps_foldl | with_reducible apply keeps_overIdx | simp only [↓keeps_mk_iff]
    | with_reducible apply keeps_foldl_fst | with_reducible apply keeps_foldl_snd | split

theorem pioGoto_keeps {s0 s : State} {e : Nat} {w : Nat} (h : Keeps s0 s) : Keeps s0 (State.pioGoto s e w) := by
  unfold State.pioGoto
  try dsimp only
  repeat' first
    | intro _ | with_reducible assumption | exact rfl | with_reducible apply keeps_ite
    | with_reducible apply pioDone_keeps | with_reducible apply keeps_foldl | with_reducible apply keeps_overIdx
    | simp only [↓keeps_mk_iff] | with_reducible apply keeps_foldl_fst | with_reducible apply keeps_foldl_snd | split

theorem pioCount_keeps {s0 s : State} {e : Nat} {w : Nat} (h : Keeps s0 s) : Keeps s0 (State.pioCount s e w) := by
  unfold State.pioCount
  try dsimp only
  repeat' first
    | intro _ | with_reducible assumption | exact rfl | with_reducible apply keeps_ite
    | with_reducible apply pioDone_keeps | with_reducible apply modEng_keeps | with_reducible apply keeps_foldl
    | with_reducible apply keeps_overIdx | simp only [↓keeps_mk_iff] | with_reducible apply keeps_foldl_fst
    | with_reducible apply keeps_foldl_snd | split

theorem pioCond_keeps {s0 s : State} {e : Nat} {w : Nat} (h : Keeps s0 s) : Keeps s0 (State.pioCond s e w).2 := by
  unfold State.pioCond
  try dsimp only
  repeat' first
    | intro _ | with_reducible assumption | exact rfl | with_reducible apply keeps_ite
    | with_reducible apply readPins_keeps | with_reducible apply keeps_foldl | with_reducible apply keeps_overIdx
    | simp only [↓keeps_mk_iff] | with_reducible apply keeps_foldl_fst | with_reducible apply keeps_foldl_snd | split

theorem pioBranch_keeps {s0 s : State} {e : Nat} {w : Nat} {want : Bool} (h : Keeps s0 s) :
    Keeps s0 (State.pioBranch s e w want) := by
  unfold State.pioBranch
  try dsimp only
  repeat' first
    | intro _ | with_reducible assumption | exact rfl | with_reducible apply keeps_ite
    | with_reducible apply pioCond_keeps | with_reducible apply pioDone_keeps | with_reducible apply keeps_foldl
    | with_reducible apply keeps_overIdx | simp only [↓keeps_mk_iff] | with_reducible apply keeps_foldl_fst
    | with_reducible apply keeps_foldl_snd | split

theorem pioAwaits_keeps {s0 s : State} {e : Nat} {w : Nat} (h : Keeps s0 s) : Keeps s0 (State.pioAwaits s e w).2 := by
  unfold State.pioAwaits
  try dsimp only
  repeat' first
    | intro _ | with_reducible assumption | exact rfl | with_reducible apply keeps_ite
    | with_reducible apply readPins_keeps | with_reducible apply keeps_foldl | with_reducible apply keeps_overIdx
    | simp only [↓keeps_mk_iff] | with_reducible apply keeps_foldl_fst | with_reducible apply keeps_foldl_snd | split

theorem pioAwait_keeps {s0 s : State} {e : Nat} {w : Nat} (h : Keeps s0 s) : Keeps s0 (State.pioAwait s e w) := by
  unfold State.pioAwait
  try dsimp only
  repeat' first
    | intro _ | with_reducible assumption | exact rfl | with_reducible apply keeps_ite
    | with_reducible apply pioAwaits_keeps | with_reducible apply pioDone_keeps | with_reducible apply pioStall_keeps
    | with_reducible apply keeps_foldl | with_reducible apply keeps_overIdx | simp only [↓keeps_mk_iff]
    | with_reducible apply keeps_foldl_fst | with_reducible apply keeps_foldl_snd | split

theorem pioShin_keeps {s0 s : State} {e : Nat} {w : Nat} (h : Keeps s0 s) : Keeps s0 (State.pioShin s e w) := by
  unfold State.pioShin
  try dsimp only
  repeat' first
    | intro _ | with_reducible assumption | exact rfl | with_reducible apply keeps_ite
    | with_reducible apply readPins_keeps | with_reducible apply pioDone_keeps | with_reducible apply modEng_keeps
    | with_reducible apply keeps_foldl | with_reducible apply keeps_overIdx | simp only [↓keeps_mk_iff]
    | with_reducible apply keeps_foldl_fst | with_reducible apply keeps_foldl_snd | split

theorem pioShout_keeps {s0 s : State} {e : Nat} {w : Nat} (h : Keeps s0 s) : Keeps s0 (State.pioShout s e w) := by
  unfold State.pioShout
  try dsimp only
  repeat' first
    | intro _ | with_reducible assumption | exact rfl | with_reducible apply keeps_ite
    | with_reducible apply pioDone_keeps | with_reducible apply modEng_keeps | with_reducible apply drivePins_keeps
    | with_reducible apply keeps_foldl | with_reducible apply keeps_overIdx | simp only [↓keeps_mk_iff]
    | with_reducible apply keeps_foldl_fst | with_reducible apply keeps_foldl_snd | split

theorem pioDeposit_keeps {s0 s : State} {e : Nat} {w : Nat} (h : Keeps s0 s) : Keeps s0 (State.pioDeposit s e w) := by
  unfold State.pioDeposit
  try dsimp only
  repeat' first
    | intro _ | with_reducible assumption | exact rfl | with_reducible apply keeps_ite
    | with_reducible apply modEng_keeps | with_reducible apply pioDone_keeps | with_reducible apply pioStall_keeps
    | with_reducible apply pioOver_keeps | with_reducible apply keeps_foldl | with_reducible apply keeps_overIdx
    | simp only [↓keeps_mk_iff] | with_reducible apply keeps_foldl_fst | with_reducible apply keeps_foldl_snd | split

theorem pioFetch_keeps {s0 s : State} {e : Nat} {w : Nat} (h : Keeps s0 s) : Keeps s0 (State.pioFetch s e w) := by
  unfold State.pioFetch
  try dsimp only
  repeat' first
    | intro _ | with_reducible assumption | exact rfl | with_reducible apply keeps_ite
    | with_reducible apply modEng_keeps | with_reducible apply pioDone_keeps | with_reducible apply pioStall_keeps
    | with_reducible apply pioUnder_keeps | with_reducible apply keeps_foldl | with_reducible apply keeps_overIdx
    | simp only [↓keeps_mk_iff] | with_reducible apply keeps_foldl_fst | with_reducible apply keeps_foldl_snd | split

theorem pioSource_keeps {s0 s : State} {e : Nat} {code : Nat} (h : Keeps s0 s) :
    Keeps s0 (State.pioSource s e code).2 := by
  unfold State.pioSource
  try dsimp only
  repeat' first
    | intro _ | with_reducible assumption | exact rfl | with_reducible apply keeps_ite
    | with_reducible apply readPins_keeps | with_reducible apply keeps_foldl | with_reducible apply keeps_overIdx
    | simp only [↓keeps_mk_iff] | with_reducible apply keeps_foldl_fst | with_reducible apply keeps_foldl_snd | split

theorem pioCopy_keeps {s0 s : State} {e : Nat} {w : Nat} (h : Keeps s0 s) : Keeps s0 (State.pioCopy s e w) := by
  unfold State.pioCopy
  try dsimp only
  repeat' first
    | intro _ | with_reducible assumption | exact rfl | with_reducible apply keeps_ite
    | with_reducible apply pioSource_keeps | with_reducible apply pioDone_keeps | with_reducible apply drivePins_keeps
    | with_reducible apply modEng_keeps | with_reducible apply put_keeps | with_reducible apply keeps_foldl
    | with_reducible apply keeps_overIdx | simp only [↓keeps_mk_iff] | with_reducible apply keeps_foldl_fst
    | with_reducible apply keeps_foldl_snd | split

theorem pioPut_keeps {s0 s : State} {e : Nat} {w : Nat} (h : Keeps s0 s) : Keeps s0 (State.pioPut s e w) := by
  unfold State.pioPut
  try dsimp only
  repeat' first
    | intro _ | with_reducible assumption | exact rfl | with_reducible apply keeps_ite
    | with_reducible apply pioDone_keeps | with_reducible apply writePins_keeps | with_reducible apply modEng_keeps
    | with_reducible apply keeps_foldl | with_reducible apply keeps_overIdx | simp only [↓keeps_mk_iff]
    | with_reducible apply keeps_foldl_fst | with_reducible apply keeps_foldl_snd | split

theorem writeFlags_keeps {s0 s : State} {t : Nat} {set : Bool} {mask : Nat} (h : Keeps s0 s) :
    Keeps s0 (State.writeFlags s t set mask) := by
  unfold State.writeFlags
  try dsimp only
  repeat' first
    | intro _ | with_reducible assumption | exact rfl | with_reducible apply keeps_ite
    | with_reducible apply keeps_foldl | with_reducible apply keeps_overIdx | simp only [↓keeps_mk_iff]
    | with_reducible apply keeps_foldl_fst | with_reducible apply keeps_foldl_snd | split

theorem pioSignal_keeps {s0 s : State} {e : Nat} {w : Nat} {set : Bool} (h : Keeps s0 s) :
    Keeps s0 (State.pioSignal s e w set) := by
  unfold State.pioSignal
  try dsimp only
  repeat' first
    | intro _ | with_reducible assumption | exact rfl | with_reducible apply keeps_ite
    | with_reducible apply writeFlags_keeps | with_reducible apply pioDone_keeps | with_reducible apply keeps_foldl
    | with_reducible apply keeps_overIdx | simp only [↓keeps_mk_iff] | with_reducible apply keeps_foldl_fst
    | with_reducible apply keeps_foldl_snd | split

theorem pioBad_keeps {s0 s : State} {e : Nat} (h : Keeps s0 s) : Keeps s0 (State.pioBad s e) := by
  unfold State.pioBad
  try dsimp only
  repeat' first
    | intro _ | with_reducible assumption | exact rfl | with_reducible apply keeps_ite
    | with_reducible apply pioErr_keeps | with_reducible apply pioDone_keeps | with_reducible apply keeps_foldl
    | with_reducible apply keeps_overIdx | simp only [↓keeps_mk_iff] | with_reducible apply keeps_foldl_fst
    | with_reducible apply keeps_foldl_snd | split

theorem pioHoldEnd_keeps {s0 s : State} {e : Nat} (h : Keeps s0 s) : Keeps s0 (State.pioHoldEnd s e) := by
  unfold State.pioHoldEnd
  try dsimp only
  repeat' first
    | intro _ | with_reducible assumption | exact rfl | with_reducible apply keeps_ite
    | with_reducible apply pioNext_keeps | with_reducible apply modEng_keeps | with_reducible apply keeps_foldl
    | with_reducible apply keeps_overIdx | simp only [↓keeps_mk_iff] | with_reducible apply keeps_foldl_fst
    | with_reducible apply keeps_foldl_snd | split

theorem pioEdge_keeps {s0 s : State} {e : Nat} (h : Keeps s0 s) : Keeps s0 (State.pioEdge s e) := by
  unfold State.pioEdge
  try dsimp only
  repeat' first
    | intro _ | with_reducible assumption | exact rfl | with_reducible apply keeps_ite
    | with_reducible apply pioExec_keeps | with_reducible apply pioBad_keeps | with_reducible apply pioGoto_keeps
    | with_reducible apply pioCount_keeps | with_reducible apply pioBranch_keeps | with_reducible apply pioAwait_keeps
    | with_reducible apply pioShin_keeps | with_reducible apply pioShout_keeps | with_reducible apply pioDeposit_keeps
    | with_reducible apply pioFetch_keeps | with_reducible apply pioCopy_keeps | with_reducible apply pioPut_keeps
    | with_reducible apply pioSignal_keeps | with_reducible apply keeps_foldl | with_reducible apply keeps_overIdx
    | simp only [↓keeps_mk_iff] | with_reducible apply keeps_foldl_fst | with_reducible apply keeps_foldl_snd | split

theorem pioStart_keeps {s0 s : State} {e : Nat} (h : Keeps s0 s) : Keeps s0 (State.pioStart s e) := by
  unfold State.pioStart
  try dsimp only
  repeat' first
    | intro _ | with_reducible assumption | exact rfl | with_reducible apply keeps_ite
    | with_reducible apply modEng_keeps | with_reducible apply pioNext_keeps | with_reducible apply setBit_keeps
    | with_reducible apply keeps_foldl | with_reducible apply keeps_overIdx | simp only [↓keeps_mk_iff]
    | with_reducible apply keeps_foldl_fst | with_reducible apply keeps_foldl_snd | split

theorem pioStopAt_keeps {s0 s : State} {w : Nat} {e : Nat} (h : Keeps s0 s) : Keeps s0 (State.pioStopAt s w e) := by
  unfold State.pioStopAt
  try dsimp only
  repeat' first
    | intro _ | with_reducible assumption | exact rfl | with_reducible apply keeps_ite
    | with_reducible apply withdraw_keeps | with_reducible apply modEng_keeps | with_reducible apply put_keeps
    | with_reducible apply clearBit_keeps | with_reducible apply movePin_keeps | with_reducible apply keeps_foldl
    | with_reducible apply keeps_overIdx | simp only [↓keeps_mk_iff] | with_reducible apply keeps_foldl_fst
    | with_reducible apply keeps_foldl_snd | split

theorem pioStopOne_keeps {s0 s : State} {e : Nat} (h : Keeps s0 s) : Keeps s0 (State.pioStopOne s e) := by
  unfold State.pioStopOne
  try dsimp only
  repeat' first
    | intro _ | with_reducible assumption | exact rfl | with_reducible apply keeps_ite
    | with_reducible apply pioStopAt_keeps | with_reducible apply pioEdge_keeps | with_reducible apply keeps_foldl
    | with_reducible apply keeps_overIdx | simp only [↓keeps_mk_iff] | with_reducible apply keeps_foldl_fst
    | with_reducible apply keeps_foldl_snd | split

theorem pioStopAll_keeps {s0 s : State} {w : Nat} (h : Keeps s0 s) : Keeps s0 (State.pioStopAll s w) := by
  unfold State.pioStopAll
  try dsimp only
  repeat' first
    | intro _ | with_reducible assumption | exact rfl | with_reducible apply keeps_ite
    | with_reducible apply pioStopAt_keeps | with_reducible apply keeps_foldl | with_reducible apply keeps_overIdx
    | simp only [↓keeps_mk_iff] | with_reducible apply keeps_foldl_fst | with_reducible apply keeps_foldl_snd | split

theorem pioPush_keeps {s0 s : State} {e : Nat} {data : Nat} (h : Keeps s0 s) : Keeps s0 (State.pioPush s e data) := by
  unfold State.pioPush
  try dsimp only
  repeat' first
    | intro _ | with_reducible assumption | exact rfl | with_reducible apply keeps_ite
    | with_reducible apply modEng_keeps | with_reducible apply pioOver_keeps | with_reducible apply keeps_foldl
    | with_reducible apply keeps_overIdx | simp only [↓keeps_mk_iff] | with_reducible apply keeps_foldl_fst
    | with_reducible apply keeps_foldl_snd | split

theorem pioPop_keeps {s0 s : State} {e : Nat} (h : Keeps s0 s) : Keeps s0 (State.pioPop s e) := by
  unfold State.pioPop
  try dsimp only
  repeat' first
    | intro _ | with_reducible assumption | exact rfl | with_reducible apply keeps_ite
    | with_reducible apply settlePops_keeps | with_reducible apply modEng_keeps | with_reducible apply pioUnder_keeps
    | with_reducible apply keeps_foldl | with_reducible apply keeps_overIdx | simp only [↓keeps_mk_iff]
    | with_reducible apply keeps_foldl_fst | with_reducible apply keeps_foldl_snd | split

theorem pioQueues_keeps {s0 s : State} {e : Nat} (h : Keeps s0 s) : Keeps s0 (State.pioQueues s e) := by
  unfold State.pioQueues
  try dsimp only
  repeat' first
    | intro _ | with_reducible assumption | exact rfl | with_reducible apply keeps_ite
    | with_reducible apply modEng_keeps | with_reducible apply settlePops_keeps | with_reducible apply keeps_foldl
    | with_reducible apply keeps_overIdx | simp only [↓keeps_mk_iff] | with_reducible apply keeps_foldl_fst
    | with_reducible apply keeps_foldl_snd | split

theorem pioClear_keeps {s0 s : State} {e : Nat} (h : Keeps s0 s) : Keeps s0 (State.pioClear s e) := by
  unfold State.pioClear
  try dsimp only
  repeat' first
    | intro _ | with_reducible assumption | exact rfl | with_reducible apply keeps_ite
    | with_reducible apply refuse_keeps | with_reducible apply modEng_keeps | with_reducible apply keeps_foldl
    | with_reducible apply keeps_overIdx | simp only [↓keeps_mk_iff] | with_reducible apply keeps_foldl_fst
    | with_reducible apply keeps_foldl_snd | split

theorem pioPinEdge_keeps {s0 s : State} {n : Nat} {rising : Bool} (h : Keeps s0 s) :
    Keeps s0 (State.pioPinEdge s n rising) := by
  unfold State.pioPinEdge
  try dsimp only
  repeat' first
    | intro _ | with_reducible assumption | exact rfl | with_reducible apply keeps_ite
    | with_reducible apply keeps_foldl | with_reducible apply keeps_overIdx | simp only [↓keeps_mk_iff]
    | with_reducible apply keeps_foldl_fst | with_reducible apply keeps_foldl_snd | split

theorem settleFlags_keeps {s0 s : State} (h : Keeps s0 s) : Keeps s0 (State.settleFlags s) := by
  unfold State.settleFlags
  try dsimp only
  repeat' first
    | intro _ | with_reducible assumption | exact rfl | with_reducible apply keeps_ite
    | with_reducible apply strobeFlag_keeps | with_reducible apply trigger_keeps | with_reducible apply keeps_foldl
    | with_reducible apply keeps_overIdx | simp only [↓keeps_mk_iff] | with_reducible apply keeps_foldl_fst
    | with_reducible apply keeps_foldl_snd | split

theorem settlePins_keeps {s0 s : State} (h : Keeps s0 s) : Keeps s0 (State.settlePins s) := by
  unfold State.settlePins
  try dsimp only
  repeat' first
    | intro _ | with_reducible assumption | exact rfl | with_reducible apply keeps_ite
    | with_reducible apply keeps_foldl | with_reducible apply keeps_overIdx | simp only [↓keeps_mk_iff]
    | with_reducible apply keeps_foldl_fst | with_reducible apply keeps_foldl_snd | split

theorem settlePio_keeps {s0 s : State} (h : Keeps s0 s) : Keeps s0 (State.settlePio s) := by
  unfold State.settlePio
  try dsimp only
  repeat' first
    | intro _ | with_reducible assumption | exact rfl | with_reducible apply keeps_ite
    | with_reducible apply settleFlags_keeps | with_reducible apply settlePins_keeps
    | with_reducible apply keeps_foldl | with_reducible apply keeps_overIdx | simp only [↓keeps_mk_iff]
    | with_reducible apply keeps_foldl_fst | with_reducible apply keeps_foldl_snd | split

theorem dispatchSoon_keeps {s0 s : State} {u : Nat} (h : Keeps s0 s) : Keeps s0 (State.dispatchSoon s u) := by
  unfold State.dispatchSoon
  try dsimp only
  repeat' first
    | intro _ | with_reducible assumption | exact rfl | with_reducible apply keeps_ite
    | with_reducible apply at__keeps | with_reducible apply keeps_foldl | with_reducible apply keeps_overIdx
    | simp only [↓keeps_mk_iff] | with_reducible apply keeps_foldl_fst | with_reducible apply keeps_foldl_snd | split

theorem dispatchAll_keeps {s0 s : State} (h : Keeps s0 s) : Keeps s0 (State.dispatchAll s) := by
  unfold State.dispatchAll
  try dsimp only
  repeat' first
    | intro _ | with_reducible assumption | exact rfl | with_reducible apply keeps_ite
    | with_reducible apply dispatchSoon_keeps | with_reducible apply keeps_foldl | with_reducible apply keeps_overIdx
    | simp only [↓keeps_mk_iff] | with_reducible apply keeps_foldl_fst | with_reducible apply keeps_foldl_snd | split

theorem endTask_keeps {s0 s : State} {u : Nat} {status : Nat} {result : List Nat} (h : Keeps s0 s) :
    Keeps s0 (State.endTask s u status result) := by
  unfold State.endTask
  try dsimp only
  repeat' first
    | intro _ | with_reducible assumption | exact rfl | with_reducible apply keeps_ite
    | with_reducible apply modSlot_keeps | with_reducible apply withdraw_keeps | with_reducible apply bump_keeps
    | with_reducible apply dispatchSoon_keeps | with_reducible apply finish_keeps | with_reducible apply keeps_foldl
    | with_reducible apply keeps_overIdx | simp only [↓keeps_mk_iff] | with_reducible apply keeps_foldl_fst
    | with_reducible apply keeps_foldl_snd | split

theorem wearUp_keeps {s0 s : State} {b : Nat} (h : Keeps s0 s) : Keeps s0 (State.wearUp s b) := by
  unfold State.wearUp
  dsimp only
  exact keeps_ite (notice_keeps (wearSet_keeps h)) (wearSet_keeps h)

theorem arcAttempt_keeps {s0 s : State} {b : Nat} (h : Keeps s0 s) : Keeps s0 (State.arcAttempt s b) := by
  unfold State.arcAttempt
  try dsimp only
  repeat' first
    | intro _ | with_reducible assumption | exact rfl | with_reducible apply keeps_ite
    | with_reducible apply wearUp_keeps | with_reducible apply after_keeps | with_reducible apply modJob_keeps
    | with_reducible apply keeps_foldl | with_reducible apply keeps_overIdx | simp only [↓keeps_mk_iff]
    | with_reducible apply keeps_foldl_fst | with_reducible apply keeps_foldl_snd | split

theorem arcStep_keeps {s0 s : State} {t : Task} (h : Keeps s0 s) : Keeps s0 (State.arcStep s t) := by
  unfold State.arcStep
  try dsimp only
  repeat' first
    | intro _ | with_reducible assumption | exact rfl | with_reducible apply keeps_ite
    | with_reducible apply endTask_keeps | with_reducible apply storeReadCheck_keeps
    | with_reducible apply modJob_keeps | with_reducible apply bump_keeps | with_reducible apply after_keeps
    | with_reducible apply put_keeps | with_reducible apply arcAttempt_keeps | with_reducible apply keeps_foldl
    | with_reducible apply keeps_overIdx | simp only [↓keeps_mk_iff] | with_reducible apply keeps_foldl_fst
    | with_reducible apply keeps_foldl_snd | split

theorem arcWritten_keeps {s0 s : State} {ok : Bool} {corr : Nat} (h : Keeps s0 s) :
    Keeps s0 (State.arcWritten s ok corr) := by
  unfold State.arcWritten
  try dsimp only
  repeat' first
    | intro _ | with_reducible assumption | exact rfl | with_reducible apply keeps_ite
    | with_reducible apply bumpBy_keeps | with_reducible apply withdraw_keeps | with_reducible apply blockIs_keeps
    | with_reducible apply modJob_keeps | with_reducible apply arcStep_keeps | with_reducible apply put_keeps
    | with_reducible apply bump_keeps | with_reducible apply arcAttempt_keeps | with_reducible apply freeBytes_keeps
    | with_reducible apply endTask_keeps | with_reducible apply keeps_foldl | with_reducible apply keeps_overIdx
    | simp only [↓keeps_mk_iff] | with_reducible apply keeps_foldl_fst | with_reducible apply keeps_foldl_snd | split

theorem arcBegin_keeps {s0 s : State} {t : Task} (h : Keeps s0 s) : Keeps s0 (State.arcBegin s t) := by
  unfold State.arcBegin
  try dsimp only
  repeat' first
    | intro _ | with_reducible assumption | exact rfl | with_reducible apply keeps_ite
    | with_reducible apply endTask_keeps | with_reducible apply modJob_keeps | with_reducible apply after_keeps
    | with_reducible apply put_keeps | with_reducible apply keeps_foldl | with_reducible apply keeps_overIdx
    | simp only [↓keeps_mk_iff] | with_reducible apply keeps_foldl_fst | with_reducible apply keeps_foldl_snd | split

theorem arcCopy_keeps {s0 s : State} {t : Task} {n : Nat} (h : Keeps s0 s) : Keeps s0 (State.arcCopy s t n).1 := by
  unfold State.arcCopy
  try dsimp only
  repeat' first
    | intro _ | with_reducible assumption | exact rfl | with_reducible apply keeps_ite
    | with_reducible apply storeWrite_keeps | with_reducible apply keeps_foldl | with_reducible apply keeps_overIdx
    | simp only [↓keeps_mk_iff] | with_reducible apply keeps_foldl_fst | with_reducible apply keeps_foldl_snd | split

theorem arcReadEnd_keeps {s0 s : State} {t : Task} {corr : Nat} (h : Keeps s0 s) :
    Keeps s0 (State.arcReadEnd s t corr) := by
  unfold State.arcReadEnd
  try dsimp only
  repeat' first
    | intro _ | with_reducible assumption | exact rfl | with_reducible apply keeps_ite
    | with_reducible apply arcCopy_keeps | with_reducible apply bumpBy_keeps | with_reducible apply put_keeps
    | with_reducible apply endTask_keeps | with_reducible apply keeps_foldl | with_reducible apply keeps_overIdx
    | simp only [↓keeps_mk_iff] | with_reducible apply keeps_foldl_fst | with_reducible apply keeps_foldl_snd | split

theorem arcAbort_keeps {s0 s : State} {t : Task} (h : Keeps s0 s) : Keeps s0 (State.arcAbort s t) := by
  unfold State.arcAbort
  try dsimp only
  repeat' first
    | intro _ | with_reducible assumption | exact rfl | with_reducible apply keeps_ite
    | with_reducible apply modJob_keeps | with_reducible apply arcReadEnd_keeps | with_reducible apply endTask_keeps
    | with_reducible apply keeps_foldl | with_reducible apply keeps_overIdx | simp only [↓keeps_mk_iff]
    | with_reducible apply keeps_foldl_fst | with_reducible apply keeps_foldl_snd | split

theorem rollbackRaise_keeps {s0 s : State} {v : Nat} (h : Keeps s0 s) : Keeps s0 (State.rollbackRaise s v) := by
  unfold State.rollbackRaise
  try dsimp only
  repeat' first
    | intro _ | with_reducible assumption | exact rfl | with_reducible apply keeps_ite
    | with_reducible apply after_keeps | with_reducible apply put_keeps | with_reducible apply keeps_foldl
    | with_reducible apply keeps_overIdx | simp only [↓keeps_mk_iff] | with_reducible apply keeps_foldl_fst
    | with_reducible apply keeps_foldl_snd | split

theorem rollbackDone_keeps {s0 s : State} (h : Keeps s0 s) : Keeps s0 (State.rollbackDone s) := by
  unfold State.rollbackDone
  try dsimp only
  repeat' first
    | intro _ | with_reducible assumption | exact rfl | with_reducible apply keeps_ite
    | with_reducible apply rollbackTo_keeps | with_reducible apply put_keeps | with_reducible apply free_keeps
    | with_reducible apply wearUp_keeps | with_reducible apply after_keeps | with_reducible apply keeps_foldl
    | with_reducible apply keeps_overIdx | simp only [↓keeps_mk_iff] | with_reducible apply keeps_foldl_fst
    | with_reducible apply keeps_foldl_snd | split

theorem pollQuiesce_keeps {s0 s : State} (h : Keeps s0 s) : Keeps s0 (State.pollQuiesce s) := by
  unfold State.pollQuiesce
  try dsimp only
  repeat' first
    | intro _ | with_reducible assumption | exact rfl | with_reducible apply keeps_ite
    | with_reducible apply after_keeps | with_reducible apply keeps_foldl | with_reducible apply keeps_overIdx
    | simp only [↓keeps_mk_iff] | with_reducible apply keeps_foldl_fst | with_reducible apply keeps_foldl_snd | split

theorem startEntry_keeps {s0 s : State} {v : Nat} (h : Keeps s0 s) : Keeps s0 (State.startEntry s v) := by
  unfold State.startEntry
  try dsimp only
  repeat' first
    | intro _ | with_reducible assumption | exact rfl | with_reducible apply keeps_ite
    | with_reducible apply pollQuiesce_keeps | with_reducible apply put_keeps | with_reducible apply keeps_foldl
    | with_reducible apply keeps_overIdx | simp only [↓keeps_mk_iff] | with_reducible apply keeps_foldl_fst
    | with_reducible apply keeps_foldl_snd | split

theorem setMon_keeps {s0 s : State} {m_ : Nat} {x : Monitor} (h : Keeps s0 s) : Keeps s0 (State.setMon s m_ x) := by
  unfold State.setMon
  try dsimp only
  repeat' first
    | intro _ | with_reducible assumption | exact rfl | with_reducible apply keeps_ite
    | with_reducible apply keeps_foldl | with_reducible apply keeps_overIdx | simp only [↓keeps_mk_iff]
    | with_reducible apply keeps_foldl_fst | with_reducible apply keeps_foldl_snd | split

theorem filterStart_keeps {s0 s : State} {m_ : Nat} {t : Nat} (h : Keeps s0 s) :
    Keeps s0 (State.filterStart s m_ t) := by
  unfold State.filterStart
  try dsimp only
  repeat' first
    | intro _ | with_reducible assumption | exact rfl | with_reducible apply keeps_ite
    | with_reducible apply at__keeps | with_reducible apply setMon_keeps | with_reducible apply keeps_foldl
    | with_reducible apply keeps_overIdx | simp only [↓keeps_mk_iff] | with_reducible apply keeps_foldl_fst
    | with_reducible apply keeps_foldl_snd | split

theorem monEnable_keeps {s0 s : State} {m_ : Nat} {en : Bool} (h : Keeps s0 s) :
    Keeps s0 (State.monEnable s m_ en) := by
  unfold State.monEnable
  try dsimp only
  repeat' first
    | intro _ | with_reducible assumption | exact rfl | with_reducible apply keeps_ite
    | with_reducible apply put_keeps | with_reducible apply setMon_keeps | with_reducible apply filterStart_keeps
    | with_reducible apply keeps_foldl | with_reducible apply keeps_overIdx | simp only [↓keeps_mk_iff]
    | with_reducible apply keeps_foldl_fst | with_reducible apply keeps_foldl_snd | split

theorem monSync_keeps {s0 s : State} {k : Nat} {t : Nat} (h : Keeps s0 s) : Keeps s0 (State.monSync s k t) := by
  unfold State.monSync
  try dsimp only
  repeat' first
    | intro _ | with_reducible assumption | exact rfl | with_reducible apply keeps_ite
    | with_reducible apply filterStart_keeps | with_reducible apply bump_keeps | with_reducible apply keeps_foldl
    | with_reducible apply keeps_overIdx | simp only [↓keeps_mk_iff] | with_reducible apply keeps_foldl_fst
    | with_reducible apply keeps_foldl_snd | split

theorem monsRestart_keeps {s0 s : State} {t : Nat} (h : Keeps s0 s) : Keeps s0 (State.monsRestart s t) := by
  unfold State.monsRestart
  try dsimp only
  repeat' first
    | intro _ | with_reducible assumption | exact rfl | with_reducible apply keeps_ite
    | with_reducible apply filterStart_keeps | with_reducible apply keeps_foldl | with_reducible apply keeps_overIdx
    | simp only [↓keeps_mk_iff] | with_reducible apply keeps_foldl_fst | with_reducible apply keeps_foldl_snd | split

theorem freeBits_keeps {s0 s : State} {a0 : Nat} (h : Keeps s0 s) : Keeps s0 (State.freeBits s a0).2 := by
  induction a0 generalizing s with
  | zero => exact h
  | succ n ih =>
    unfold State.freeBits
    try dsimp only
    repeat' first
      | intro _ | with_reducible assumption | exact rfl | with_reducible apply ih | with_reducible apply keeps_ite
      | with_reducible apply free_keeps | simp only [↓keeps_mk_iff] | split

theorem offerBlock_keeps {s0 s : State} {l : List MonEntry} (h : Keeps s0 s) : Keeps s0 (State.offerBlock s l) := by
  unfold State.offerBlock
  try dsimp only
  repeat' first
    | intro _ | with_reducible assumption | exact rfl | with_reducible apply keeps_ite
    | with_reducible apply bump_keeps | with_reducible apply offerPacket_keeps
    | with_reducible apply blockSkipped_keeps | with_reducible apply keeps_foldl | with_reducible apply keeps_overIdx
    | simp only [↓keeps_mk_iff] | with_reducible apply keeps_foldl_fst | with_reducible apply keeps_foldl_snd | split

theorem closeFull_keeps {s0 s : State} {n : Nat} {a1 : Nat} (h : Keeps s0 s) : Keeps s0 (State.closeFull s n a1) := by
  induction a1 generalizing s with
  | zero => exact h
  | succ n ih =>
    unfold State.closeFull
    try dsimp only
    repeat' first
      | intro _ | with_reducible assumption | exact rfl | with_reducible apply ih | with_reducible apply keeps_ite
      | with_reducible apply offerBlock_keeps | simp only [↓keeps_mk_iff] | split

theorem closeBlocks_keeps {s0 s : State} (h : Keeps s0 s) : Keeps s0 (State.closeBlocks s) := by
  unfold State.closeBlocks
  try dsimp only
  repeat' first
    | intro _ | with_reducible assumption | exact rfl | with_reducible apply keeps_ite
    | with_reducible apply closeFull_keeps | with_reducible apply at__keeps | with_reducible apply offerBlock_keeps
    | with_reducible apply keeps_foldl | with_reducible apply keeps_overIdx | simp only [↓keeps_mk_iff]
    | with_reducible apply keeps_foldl_fst | with_reducible apply keeps_foldl_snd | split

theorem streamSample_keeps {s0 s : State} {e : MonEntry} (h : Keeps s0 s) : Keeps s0 (State.streamSample s e) := by
  unfold State.streamSample
  try dsimp only
  repeat' first
    | intro _ | with_reducible assumption | exact rfl | with_reducible apply keeps_ite
    | with_reducible apply at__keeps | with_reducible apply after_keeps | with_reducible apply keeps_foldl
    | with_reducible apply keeps_overIdx | simp only [↓keeps_mk_iff] | with_reducible apply keeps_foldl_fst
    | with_reducible apply keeps_foldl_snd | split

theorem settledSample_keeps {s0 s : State} {m_ : Nat} {j : Nat} {d : Int} (h : Keeps s0 s) :
    Keeps s0 (State.settledSample s m_ j d) := by
  unfold State.settledSample
  try dsimp only
  repeat' first
    | intro _ | with_reducible assumption | exact rfl | with_reducible apply keeps_ite
    | with_reducible apply put_keeps | with_reducible apply sticky_keeps | with_reducible apply bump_keeps
    | with_reducible apply keeps_foldl | with_reducible apply keeps_overIdx | simp only [↓keeps_mk_iff]
    | with_reducible apply keeps_foldl_fst | with_reducible apply keeps_foldl_snd | split

theorem monSampleNow_keeps {s0 s : State} {m_ : Nat} {bits : Option (List Bool)} (h : Keeps s0 s) :
    Keeps s0 (State.monSampleNow s m_ bits) := by
  unfold State.monSampleNow
  try dsimp only
  repeat' first
    | intro _ | with_reducible assumption | exact rfl | with_reducible apply keeps_ite
    | with_reducible apply freeBits_keeps | with_reducible apply setMon_keeps | with_reducible apply put_keeps
    | with_reducible apply settledSample_keeps | with_reducible apply streamSample_keeps
    | with_reducible apply at__keeps | with_reducible apply keeps_foldl | with_reducible apply keeps_overIdx
    | simp only [↓keeps_mk_iff] | with_reducible apply keeps_foldl_fst | with_reducible apply keeps_foldl_snd | split

theorem oweSamples_keeps {s0 s : State} (h : Keeps s0 s) : Keeps s0 (State.oweSamples s) := by
  unfold State.oweSamples
  try dsimp only
  repeat' first
    | intro _ | with_reducible assumption | exact rfl | with_reducible apply keeps_ite
    | with_reducible apply setMon_keeps | with_reducible apply keeps_foldl | with_reducible apply keeps_overIdx
    | simp only [↓keeps_mk_iff] | with_reducible apply keeps_foldl_fst | with_reducible apply keeps_foldl_snd | split

theorem restartDue_keeps {s0 s : State} {m_ : Nat} (h : Keeps s0 s) : Keeps s0 (State.restartDue s m_) := by
  unfold State.restartDue
  try dsimp only
  repeat' first
    | intro _ | with_reducible assumption | exact rfl | with_reducible apply keeps_ite
    | with_reducible apply setMon_keeps | with_reducible apply at__keeps | with_reducible apply put_keeps
    | with_reducible apply keeps_foldl | with_reducible apply keeps_overIdx | simp only [↓keeps_mk_iff]
    | with_reducible apply keeps_foldl_fst | with_reducible apply keeps_foldl_snd | split

theorem monsStop_keeps {s0 s : State} (h : Keeps s0 s) : Keeps s0 (State.monsStop s) := by
  unfold State.monsStop
  try dsimp only
  repeat' first
    | intro _ | with_reducible assumption | exact rfl | with_reducible apply keeps_ite
    | with_reducible apply offerBlock_keeps | with_reducible apply keeps_foldl | with_reducible apply keeps_overIdx
    | simp only [↓keeps_mk_iff] | with_reducible apply keeps_foldl_fst | with_reducible apply keeps_foldl_snd | split

theorem modNewel_keeps {s0 s : State} {f : Newel → Newel} (h : Keeps s0 s) : Keeps s0 (State.modNewel s f) := by
  unfold State.modNewel
  try dsimp only
  repeat' first
    | intro _ | with_reducible assumption | exact rfl | with_reducible apply keeps_ite
    | with_reducible apply keeps_foldl | with_reducible apply keeps_overIdx | simp only [↓keeps_mk_iff]
    | with_reducible apply keeps_foldl_fst | with_reducible apply keeps_foldl_snd | split

theorem lockQuiet_keeps {s0 s : State} (h : Keeps s0 s) : Keeps s0 (State.lockQuiet s) := by
  unfold State.lockQuiet
  try dsimp only
  repeat' first
    | intro _ | with_reducible assumption | exact rfl | with_reducible apply keeps_ite
    | with_reducible apply withdraw_keeps | with_reducible apply keeps_foldl | with_reducible apply keeps_overIdx
    | simp only [↓keeps_mk_iff] | with_reducible apply keeps_foldl_fst | with_reducible apply keeps_foldl_snd | split

theorem beginSettle_keeps {s0 s : State} (h : Keeps s0 s) : Keeps s0 (State.beginSettle s) := by
  unfold State.beginSettle
  try dsimp only
  repeat' first
    | intro _ | with_reducible assumption | exact rfl | with_reducible apply keeps_ite
    | with_reducible apply after_keeps | with_reducible apply modNewel_keeps | with_reducible apply lockQuiet_keeps
    | with_reducible apply keeps_foldl | with_reducible apply keeps_overIdx | simp only [↓keeps_mk_iff]
    | with_reducible apply keeps_foldl_fst | with_reducible apply keeps_foldl_snd | split

theorem lockStart_keeps {s0 s : State} (h : Keeps s0 s) : Keeps s0 (State.lockStart s) := by
  unfold State.lockStart
  try dsimp only
  repeat' first
    | intro _ | with_reducible assumption | exact rfl | with_reducible apply keeps_ite
    | with_reducible apply put_keeps | with_reducible apply beginSettle_keeps | with_reducible apply modNewel_keeps
    | with_reducible apply lockQuiet_keeps | with_reducible apply keeps_foldl | with_reducible apply keeps_overIdx
    | simp only [↓keeps_mk_iff] | with_reducible apply keeps_foldl_fst | with_reducible apply keeps_foldl_snd | split

theorem bandSearch_keeps {s0 s : State} (h : Keeps s0 s) : Keeps s0 (State.bandSearch s) := by
  unfold State.bandSearch
  try dsimp only
  repeat' first
    | intro _ | with_reducible assumption | exact rfl | with_reducible apply keeps_ite
    | with_reducible apply after_keeps | with_reducible apply modNewel_keeps | with_reducible apply free_keeps
    | with_reducible apply put_keeps | with_reducible apply keeps_foldl | with_reducible apply keeps_overIdx
    | simp only [↓keeps_mk_iff] | with_reducible apply keeps_foldl_fst | with_reducible apply keeps_foldl_snd | split

theorem lockRestart_keeps {s0 s : State} (h : Keeps s0 s) : Keeps s0 (State.lockRestart s) := by
  unfold State.lockRestart
  try dsimp only
  repeat' first
    | intro _ | with_reducible assumption | exact rfl | with_reducible apply keeps_ite
    | with_reducible apply modNewel_keeps | with_reducible apply beginSettle_keeps | with_reducible apply keeps_foldl
    | with_reducible apply keeps_overIdx | simp only [↓keeps_mk_iff] | with_reducible apply keeps_foldl_fst
    | with_reducible apply keeps_foldl_snd | split

theorem refLost_keeps {s0 s : State} (h : Keeps s0 s) : Keeps s0 (State.refLost s) := by
  unfold State.refLost
  try dsimp only
  repeat' first
    | intro _ | with_reducible assumption | exact rfl | with_reducible apply keeps_ite
    | with_reducible apply modNewel_keeps | with_reducible apply bump_keeps | with_reducible apply put_keeps
    | with_reducible apply setBit_keeps | with_reducible apply notice_keeps | with_reducible apply lockQuiet_keeps
    | with_reducible apply keeps_foldl | with_reducible apply keeps_overIdx | simp only [↓keeps_mk_iff]
    | with_reducible apply keeps_foldl_fst | with_reducible apply keeps_foldl_snd | split

theorem reacquire_keeps {s0 s : State} {inRange : Bool} (h : Keeps s0 s) : Keeps s0 (State.reacquire s inRange) := by
  unfold State.reacquire
  try dsimp only
  repeat' first
    | intro _ | with_reducible assumption | exact rfl | with_reducible apply keeps_ite
    | with_reducible apply modNewel_keeps | with_reducible apply after_keeps | with_reducible apply notice_keeps
    | with_reducible apply setBit_keeps | with_reducible apply keeps_foldl | with_reducible apply keeps_overIdx
    | simp only [↓keeps_mk_iff] | with_reducible apply keeps_foldl_fst | with_reducible apply keeps_foldl_snd | split

theorem reacquired_keeps {s0 s : State} (h : Keeps s0 s) : Keeps s0 (State.reacquired s) := by
  unfold State.reacquired
  try dsimp only
  repeat' first
    | intro _ | with_reducible assumption | exact rfl | with_reducible apply keeps_ite
    | with_reducible apply bump_keeps | with_reducible apply put_keeps | with_reducible apply modNewel_keeps
    | with_reducible apply notice_keeps | with_reducible apply keeps_foldl | with_reducible apply keeps_overIdx
    | simp only [↓keeps_mk_iff] | with_reducible apply keeps_foldl_fst | with_reducible apply keeps_foldl_snd | split

theorem commitNext_keeps {s0 s : State} {t : Nat} (h : Keeps s0 s) : Keeps s0 (State.commitNext s t) := by
  unfold State.commitNext
  try dsimp only
  repeat' first
    | intro _ | with_reducible assumption | exact rfl | with_reducible apply keeps_ite
    | with_reducible apply at__keeps | with_reducible apply keeps_foldl | with_reducible apply keeps_overIdx
    | simp only [↓keeps_mk_iff] | with_reducible apply keeps_foldl_fst | with_reducible apply keeps_foldl_snd | split

theorem transfer_keeps {s0 s : State} (h : Keeps s0 s) : Keeps s0 (State.transfer s) := by
  unfold State.transfer
  try dsimp only
  repeat' first
    | intro _ | with_reducible assumption | exact rfl | with_reducible apply keeps_ite
    | with_reducible apply oweSamples_keeps | with_reducible apply modNewel_keeps | with_reducible apply put_keeps
    | with_reducible apply portClock_keeps | with_reducible apply monsRestart_keeps | with_reducible apply keeps_foldl
    | with_reducible apply keeps_overIdx | simp only [↓keeps_mk_iff] | with_reducible apply keeps_foldl_fst
    | with_reducible apply keeps_foldl_snd | split

theorem commitEpoch_keeps {s0 s : State} (h : Keeps s0 s) : Keeps s0 (State.commitEpoch s) := by
  unfold State.commitEpoch
  try dsimp only
  repeat' first
    | intro _ | with_reducible assumption | exact rfl | with_reducible apply keeps_ite
    | with_reducible apply put_keeps | with_reducible apply putPair_keeps | with_reducible apply transfer_keeps
    | with_reducible apply modNewel_keeps | with_reducible apply commitNext_keeps | with_reducible apply keeps_foldl
    | with_reducible apply keeps_overIdx | simp only [↓keeps_mk_iff] | with_reducible apply keeps_foldl_fst
    | with_reducible apply keeps_foldl_snd | split

end Sys2Proof.Machine
end

