-- ==== Sys2Proof/Laws/Keeps4.lean ====
section
/-! SUPPORT. `Keeps` is carried through every operation of the model, part 4 of 6. -/

namespace Sys2Proof.Machine

theorem commit_keeps {s0 s : State} (h : Keeps s0 s) : Keeps s0 (State.commit s) := by
  unfold State.commit
  try dsimp only
  repeat' first
    | intro _ | with_reducible assumption | exact rfl | with_reducible apply keeps_ite
    | with_reducible apply commitEpoch_keeps | with_reducible apply commitNext_keeps | with_reducible apply put_keeps
    | with_reducible apply modNewel_keeps | with_reducible apply keeps_foldl | with_reducible apply keeps_overIdx
    | simp only [↓keeps_mk_iff] | with_reducible apply keeps_foldl_fst | with_reducible apply keeps_foldl_snd | split

theorem capture_keeps {s0 s : State} {t : Nat} (h : Keeps s0 s) : Keeps s0 (State.capture s t) := by
  unfold State.capture
  try dsimp only
  repeat' first
    | intro _ | with_reducible assumption | exact rfl | with_reducible apply keeps_ite
    | with_reducible apply put_keeps | with_reducible apply putPair_keeps | with_reducible apply keeps_foldl
    | with_reducible apply keeps_overIdx | simp only [↓keeps_mk_iff] | with_reducible apply keeps_foldl_fst
    | with_reducible apply keeps_foldl_snd | split

theorem snap_keeps {s0 s : State} (h : Keeps s0 s) : Keeps s0 (State.snap s) := by
  unfold State.snap
  try dsimp only
  repeat' first
    | intro _ | with_reducible assumption | exact rfl | with_reducible apply keeps_ite
    | with_reducible apply put_keeps | with_reducible apply capture_keeps | with_reducible apply keeps_foldl
    | with_reducible apply keeps_overIdx | simp only [↓keeps_mk_iff] | with_reducible apply keeps_foldl_fst
    | with_reducible apply keeps_foldl_snd | split

theorem capturePin_keeps {s0 s : State} {t : Nat} (h : Keeps s0 s) : Keeps s0 (State.capturePin s t) := by
  unfold State.capturePin
  try dsimp only
  repeat' first
    | intro _ | with_reducible assumption | exact rfl | with_reducible apply keeps_ite
    | with_reducible apply modNewel_keeps | with_reducible apply capture_keeps | with_reducible apply keeps_foldl
    | with_reducible apply keeps_overIdx | simp only [↓keeps_mk_iff] | with_reducible apply keeps_foldl_fst
    | with_reducible apply keeps_foldl_snd | split

theorem pinEdge_keeps {s0 s : State} {pin : Nat} {rising : Bool} (h : Keeps s0 s) :
    Keeps s0 (State.pinEdge s pin rising) := by
  unfold State.pinEdge
  try dsimp only
  repeat' first
    | intro _ | with_reducible assumption | exact rfl | with_reducible apply keeps_ite
    | with_reducible apply pioPinEdge_keeps | with_reducible apply capturePin_keeps
    | with_reducible apply monSync_keeps | with_reducible apply trigger_keeps | with_reducible apply keeps_foldl
    | with_reducible apply keeps_overIdx | simp only [↓keeps_mk_iff] | with_reducible apply keeps_foldl_fst
    | with_reducible apply keeps_foldl_snd | split

theorem pllStop_keeps {s0 s : State} {mayRun : Bool} (h : Keeps s0 s) : Keeps s0 (State.pllStop s mayRun) := by
  unfold State.pllStop
  try dsimp only
  repeat' first
    | intro _ | with_reducible assumption | exact rfl | with_reducible apply keeps_ite
    | with_reducible apply modNewel_keeps | with_reducible apply lockQuiet_keeps | with_reducible apply put_keeps
    | with_reducible apply keeps_foldl | with_reducible apply keeps_overIdx | simp only [↓keeps_mk_iff]
    | with_reducible apply keeps_foldl_fst | with_reducible apply keeps_foldl_snd | split

theorem rectRows_keeps {s0 s : State} {t : Task} {host : Option (List Byte)} (h : Keeps s0 s) :
    Keeps s0 (State.rectRows s t host).2 := by
  unfold State.rectRows
  try dsimp only
  repeat' first
    | intro _ | with_reducible assumption | exact rfl | with_reducible apply keeps_ite
    | with_reducible apply orFree_keeps | with_reducible apply keeps_foldl | with_reducible apply keeps_overIdx
    | simp only [↓keeps_mk_iff] | with_reducible apply keeps_foldl_fst | with_reducible apply keeps_foldl_snd | split

theorem rectPut_keeps {s0 s : State} {t : Task} {i : Nat} {off : Nat} {bs : List Byte} (h : Keeps s0 s) :
    Keeps s0 (State.rectPut s t i off bs) := by
  unfold State.rectPut
  try dsimp only
  repeat' first
    | intro _ | with_reducible assumption | exact rfl | with_reducible apply keeps_ite
    | with_reducible apply storeWrite_keeps | with_reducible apply hostPutData_keeps
    | with_reducible apply keeps_foldl | with_reducible apply keeps_overIdx | simp only [↓keeps_mk_iff]
    | with_reducible apply keeps_foldl_fst | with_reducible apply keeps_foldl_snd | split

theorem rectMove_keeps {s0 s : State} {t : Task} {i : Nat} {off : Nat} {bs : List Byte} (h : Keeps s0 s) :
    Keeps s0 (State.rectMove s t i off bs) := by
  unfold State.rectMove
  try dsimp only
  repeat' first
    | intro _ | with_reducible assumption | exact rfl | with_reducible apply keeps_ite
    | with_reducible apply hostGet_keeps | with_reducible apply rectPut_keeps | with_reducible apply keeps_foldl
    | with_reducible apply keeps_overIdx | simp only [↓keeps_mk_iff] | with_reducible apply keeps_foldl_fst
    | with_reducible apply keeps_foldl_snd | split

theorem rectWrite_keeps {s0 s : State} {t : Task} {n : Nat} {part : Nat} {host : Option (List Byte)} (h : Keeps s0 s)
    :
    Keeps s0 (State.rectWrite s t n part host) := by
  unfold State.rectWrite
  try dsimp only
  repeat' first
    | intro _ | with_reducible assumption | exact rfl | with_reducible apply keeps_ite
    | with_reducible apply rectRows_keeps | with_reducible apply rectMove_keeps | with_reducible apply keeps_foldl
    | with_reducible apply keeps_overIdx | simp only [↓keeps_mk_iff] | with_reducible apply keeps_foldl_fst
    | with_reducible apply keeps_foldl_snd | split

theorem rectStop_keeps {s0 s : State} {u : Nat} {t : Task} {status : Nat} {host : Option (List Byte)} (h : Keeps s0 s)
    :
    Keeps s0 (State.rectStop s u t status host) := by
  unfold State.rectStop
  try dsimp only
  repeat' first
    | intro _ | with_reducible assumption | exact rfl | with_reducible apply keeps_ite
    | with_reducible apply rectWrite_keeps | with_reducible apply endTask_keeps | with_reducible apply put_keeps
    | with_reducible apply keeps_foldl | with_reducible apply keeps_overIdx | simp only [↓keeps_mk_iff]
    | with_reducible apply keeps_foldl_fst | with_reducible apply keeps_foldl_snd | split

theorem rectBegin_keeps {s0 s : State} {u : Nat} {t : Task} (h : Keeps s0 s) : Keeps s0 (State.rectBegin s u t) := by
  unfold State.rectBegin
  try dsimp only
  repeat' first
    | intro _ | with_reducible assumption | exact rfl | with_reducible apply keeps_ite
    | with_reducible apply endTask_keeps | with_reducible apply modJob_keeps | with_reducible apply after_keeps
    | with_reducible apply put_keeps | with_reducible apply keeps_foldl | with_reducible apply keeps_overIdx
    | simp only [↓keeps_mk_iff] | with_reducible apply keeps_foldl_fst | with_reducible apply keeps_foldl_snd | split

theorem rectEnd_keeps {s0 s : State} {u : Nat} {t : Task} {host : Option (List Byte)} (h : Keeps s0 s) :
    Keeps s0 (State.rectEnd s u t host) := by
  unfold State.rectEnd
  try dsimp only
  repeat' first
    | intro _ | with_reducible assumption | exact rfl | with_reducible apply keeps_ite
    | with_reducible apply storeReadCheck_keeps | with_reducible apply rectStop_keeps
    | with_reducible apply traffic_keeps | with_reducible apply rectWrite_keeps | with_reducible apply endTask_keeps
    | with_reducible apply put_keeps | with_reducible apply keeps_foldl | with_reducible apply keeps_overIdx
    | simp only [↓keeps_mk_iff] | with_reducible apply keeps_foldl_fst | with_reducible apply keeps_foldl_snd | split

theorem drainEnd_keeps {s0 s : State} {u : Nat} {q : Nat} {status : Nat} {flags : Nat} (h : Keeps s0 s) :
    Keeps s0 (State.drainEnd s u q status flags) := by
  unfold State.drainEnd
  try dsimp only
  repeat' first
    | intro _ | with_reducible assumption | exact rfl | with_reducible apply keeps_ite
    | with_reducible apply setQueue_keeps | with_reducible apply withdraw_keeps | with_reducible apply endTask_keeps
    | with_reducible apply after_keeps | with_reducible apply keeps_foldl | with_reducible apply keeps_overIdx
    | simp only [↓keeps_mk_iff] | with_reducible apply keeps_foldl_fst | with_reducible apply keeps_foldl_snd | split

theorem drainStep_keeps {s0 s : State} {u : Nat} {t : Task} (h : Keeps s0 s) : Keeps s0 (State.drainStep s u t) := by
  unfold State.drainStep
  try dsimp only
  repeat' first
    | intro _ | with_reducible assumption | exact rfl | with_reducible apply keeps_ite
    | with_reducible apply drainEnd_keeps | with_reducible apply after_keeps | with_reducible apply modJob_keeps
    | with_reducible apply keeps_foldl | with_reducible apply keeps_overIdx | simp only [↓keeps_mk_iff]
    | with_reducible apply keeps_foldl_fst | with_reducible apply keeps_foldl_snd | split

theorem drainBegin_keeps {s0 s : State} {u : Nat} {t : Task} (h : Keeps s0 s) :
    Keeps s0 (State.drainBegin s u t) := by
  unfold State.drainBegin
  try dsimp only
  repeat' first
    | intro _ | with_reducible assumption | exact rfl | with_reducible apply keeps_ite
    | with_reducible apply setQueue_keeps | with_reducible apply after_keeps | with_reducible apply put_keeps
    | with_reducible apply modJob_keeps | with_reducible apply keeps_foldl | with_reducible apply keeps_overIdx
    | simp only [↓keeps_mk_iff] | with_reducible apply keeps_foldl_fst | with_reducible apply keeps_foldl_snd | split

theorem spoiled_keeps {s0 s : State} {bs : List Byte} (h : Keeps s0 s) : Keeps s0 (State.spoiled s bs).2 := by
  unfold State.spoiled
  try dsimp only
  repeat' first
    | intro _ | with_reducible assumption | exact rfl | with_reducible apply keeps_ite
    | with_reducible apply free_keeps | with_reducible apply freeBytes_keeps | with_reducible apply keeps_foldl
    | with_reducible apply keeps_overIdx | simp only [↓keeps_mk_iff] | with_reducible apply keeps_foldl_fst
    | with_reducible apply keeps_foldl_snd | split

theorem readPacket_keeps {s0 s : State} {q : Nat} {chk : HallCheck} (h : Keeps s0 s) :
    Keeps s0 (State.readPacket s q chk) := by
  unfold State.readPacket
  try dsimp only
  repeat' first
    | intro _ | with_reducible assumption | exact rfl | with_reducible apply keeps_ite
    | with_reducible apply drainEnd_keeps | with_reducible apply hostPutData_keeps | with_reducible apply modJob_keeps
    | with_reducible apply drainStep_keeps | with_reducible apply put_keeps | with_reducible apply withdraw_keeps
    | with_reducible apply setQueue_keeps | with_reducible apply hallCorrected_keeps
    | with_reducible apply hallUncorrectable_keeps | with_reducible apply freeListFails_keeps
    | with_reducible apply resetQueue_keeps | with_reducible apply queueTo_keeps | with_reducible apply spoiled_keeps
    | with_reducible apply keeps_foldl | with_reducible apply keeps_overIdx | simp only [↓keeps_mk_iff]
    | with_reducible apply keeps_foldl_fst | with_reducible apply keeps_foldl_snd | split

theorem packetVisible_keeps {s0 s : State} {q : Nat} (h : Keeps s0 s) : Keeps s0 (State.packetVisible s q) := by
  unfold State.packetVisible
  try dsimp only
  repeat' first
    | intro _ | with_reducible assumption | exact rfl | with_reducible apply keeps_ite
    | with_reducible apply drainStep_keeps | with_reducible apply keeps_foldl | with_reducible apply keeps_overIdx
    | simp only [↓keeps_mk_iff] | with_reducible apply keeps_foldl_fst | with_reducible apply keeps_foldl_snd | split

theorem rectPaced_keeps {s0 s : State} {u : Nat} {t : Task} {old : Nat} (h : Keeps s0 s) :
    Keeps s0 (State.rectPaced s u t old) := by
  unfold State.rectPaced
  try dsimp only
  repeat' first
    | intro _ | with_reducible assumption | exact rfl | with_reducible apply keeps_ite
    | with_reducible apply modJob_keeps | with_reducible apply after_keeps | with_reducible apply withdraw_keeps
    | with_reducible apply keeps_foldl | with_reducible apply keeps_overIdx | simp only [↓keeps_mk_iff]
    | with_reducible apply keeps_foldl_fst | with_reducible apply keeps_foldl_snd | split

theorem drainPaced_keeps {s0 s : State} {u : Nat} {q : Nat} {old : Nat} (h : Keeps s0 s) :
    Keeps s0 (State.drainPaced s u q old) := by
  unfold State.drainPaced
  try dsimp only
  repeat' first
    | intro _ | with_reducible assumption | exact rfl | with_reducible apply keeps_ite
    | with_reducible apply after_keeps | with_reducible apply modJob_keeps | with_reducible apply withdraw_keeps
    | with_reducible apply keeps_foldl | with_reducible apply keeps_overIdx | simp only [↓keeps_mk_iff]
    | with_reducible apply keeps_foldl_fst | with_reducible apply keeps_foldl_snd | split

theorem porterHold_keeps {s0 s : State} {u : Nat} (h : Keeps s0 s) : Keeps s0 (State.porterHold s u) := by
  unfold State.porterHold
  try dsimp only
  repeat' first
    | intro _ | with_reducible assumption | exact rfl | with_reducible apply keeps_ite
    | with_reducible apply withdraw_keeps | with_reducible apply drainEnd_keeps | with_reducible apply modJob_keeps
    | with_reducible apply keeps_foldl | with_reducible apply keeps_overIdx | simp only [↓keeps_mk_iff]
    | with_reducible apply keeps_foldl_fst | with_reducible apply keeps_foldl_snd | split

theorem porterResume_keeps {s0 s : State} {u : Nat} {t : Task} (h : Keeps s0 s) :
    Keeps s0 (State.porterResume s u t) := by
  unfold State.porterResume
  try dsimp only
  repeat' first
    | intro _ | with_reducible assumption | exact rfl | with_reducible apply keeps_ite
    | with_reducible apply after_keeps | with_reducible apply modJob_keeps | with_reducible apply keeps_foldl
    | with_reducible apply keeps_overIdx | simp only [↓keeps_mk_iff] | with_reducible apply keeps_foldl_fst
    | with_reducible apply keeps_foldl_snd | split

theorem requestsGone_keeps {s0 s : State} (h : Keeps s0 s) : Keeps s0 (State.requestsGone s) := by
  unfold State.requestsGone
  try dsimp only
  repeat' first
    | intro _ | with_reducible assumption | exact rfl | with_reducible apply keeps_ite
    | with_reducible apply porterHold_keeps | with_reducible apply keeps_foldl | with_reducible apply keeps_overIdx
    | simp only [↓keeps_mk_iff] | with_reducible apply keeps_foldl_fst | with_reducible apply keeps_foldl_snd | split

theorem porterPaced_keeps {s0 s : State} {u : Nat} {old : Nat} (h : Keeps s0 s) :
    Keeps s0 (State.porterPaced s u old) := by
  unfold State.porterPaced
  try dsimp only
  repeat' first
    | intro _ | with_reducible assumption | exact rfl | with_reducible apply keeps_ite
    | with_reducible apply drainPaced_keeps | with_reducible apply rectPaced_keeps | with_reducible apply keeps_foldl
    | with_reducible apply keeps_overIdx | simp only [↓keeps_mk_iff] | with_reducible apply keeps_foldl_fst
    | with_reducible apply keeps_foldl_snd | split

theorem loadPut_keeps {s0 s : State} {t : Task} {off : Nat} {bs : List Byte} (h : Keeps s0 s) :
    Keeps s0 (State.loadPut s t off bs) := by
  unfold State.loadPut
  try dsimp only
  repeat' first
    | intro _ | with_reducible assumption | exact rfl | with_reducible apply keeps_ite
    | with_reducible apply storeWrite_keeps | with_reducible apply put_keeps | with_reducible apply keeps_foldl
    | with_reducible apply keeps_overIdx | simp only [↓keeps_mk_iff] | with_reducible apply keeps_foldl_fst
    | with_reducible apply keeps_foldl_snd | split

theorem loadBegin_keeps {s0 s : State} {u : Nat} {t : Task} (h : Keeps s0 s) : Keeps s0 (State.loadBegin s u t) := by
  unfold State.loadBegin
  try dsimp only
  repeat' first
    | intro _ | with_reducible assumption | exact rfl | with_reducible apply keeps_ite
    | with_reducible apply endTask_keeps | with_reducible apply modJob_keeps | with_reducible apply after_keeps
    | with_reducible apply put_keeps | with_reducible apply keeps_foldl | with_reducible apply keeps_overIdx
    | simp only [↓keeps_mk_iff] | with_reducible apply keeps_foldl_fst | with_reducible apply keeps_foldl_snd | split

theorem loadOver_keeps {s0 s : State} {u : Nat} {status : Nat} (h : Keeps s0 s) :
    Keeps s0 (State.loadOver s u status) := by
  unfold State.loadOver
  try dsimp only
  repeat' first
    | intro _ | with_reducible assumption | exact rfl | with_reducible apply keeps_ite
    | with_reducible apply after_keeps | with_reducible apply modJob_keeps | with_reducible apply keeps_foldl
    | with_reducible apply keeps_overIdx | simp only [↓keeps_mk_iff] | with_reducible apply keeps_foldl_fst
    | with_reducible apply keeps_foldl_snd | split

theorem loadStep_keeps {s0 s : State} {u : Nat} {t : Task} (h : Keeps s0 s) : Keeps s0 (State.loadStep s u t) := by
  unfold State.loadStep
  try dsimp only
  repeat' first
    | intro _ | with_reducible assumption | exact rfl | with_reducible apply keeps_ite
    | with_reducible apply loadOver_keeps | with_reducible apply storeReadCheck_keeps
    | with_reducible apply freeBytes_keeps | with_reducible apply hostGet_keeps | with_reducible apply loadPut_keeps
    | with_reducible apply modJob_keeps | with_reducible apply put_keeps | with_reducible apply after_keeps
    | with_reducible apply keeps_foldl | with_reducible apply keeps_overIdx | simp only [↓keeps_mk_iff]
    | with_reducible apply keeps_foldl_fst | with_reducible apply keeps_foldl_snd | split

theorem loadEnd_keeps {s0 s : State} {u : Nat} {t : Task} {host : Option (List Byte)} (h : Keeps s0 s) :
    Keeps s0 (State.loadEnd s u t host) := by
  unfold State.loadEnd
  try dsimp only
  repeat' first
    | intro _ | with_reducible assumption | exact rfl | with_reducible apply keeps_ite
    | with_reducible apply loadPut_keeps | with_reducible apply freeBytes_keeps
    | with_reducible apply storeWrite_keeps | with_reducible apply endTask_keeps | with_reducible apply keeps_foldl
    | with_reducible apply keeps_overIdx | simp only [↓keeps_mk_iff] | with_reducible apply keeps_foldl_fst
    | with_reducible apply keeps_foldl_snd | split

theorem calFail_keeps {s0 s : State} {status : Nat} (h : Keeps s0 s) : Keeps s0 (State.calFail s status) := by
  unfold State.calFail
  try dsimp only
  repeat' first
    | intro _ | with_reducible assumption | exact rfl | with_reducible apply keeps_ite
    | with_reducible apply endTask_keeps | with_reducible apply keeps_foldl | with_reducible apply keeps_overIdx
    | simp only [↓keeps_mk_iff] | with_reducible apply keeps_foldl_fst | with_reducible apply keeps_foldl_snd | split

theorem calBegin_keeps {s0 s : State} {t : Task} (h : Keeps s0 s) : Keeps s0 (State.calBegin s t) := by
  unfold State.calBegin
  try dsimp only
  repeat' first
    | intro _ | with_reducible assumption | exact rfl | with_reducible apply keeps_ite
    | with_reducible apply calFail_keeps | with_reducible apply modJob_keeps | with_reducible apply put_keeps
    | with_reducible apply keeps_foldl | with_reducible apply keeps_overIdx | simp only [↓keeps_mk_iff]
    | with_reducible apply keeps_foldl_fst | with_reducible apply keeps_foldl_snd | split

theorem accumulate_keeps {s0 s : State} {t : Task} {y : CalFrame} {first : Bool} (h : Keeps s0 s) :
    Keeps s0 (State.accumulate s t y first) := by
  unfold State.accumulate
  try dsimp only
  repeat' first
    | intro _ | with_reducible assumption | exact rfl | with_reducible apply keeps_ite
    | with_reducible apply storeWrite_keeps | with_reducible apply keeps_foldl | with_reducible apply keeps_overIdx
    | simp only [↓keeps_mk_iff] | with_reducible apply keeps_foldl_fst | with_reducible apply keeps_foldl_snd | split

theorem calTake_keeps {s0 s : State} {t : Task} {y : CalFrame} (h : Keeps s0 s) : Keeps s0 (State.calTake s t y) := by
  unfold State.calTake
  try dsimp only
  repeat' first
    | intro _ | with_reducible assumption | exact rfl | with_reducible apply keeps_ite
    | with_reducible apply modJob_keeps | with_reducible apply calFail_keeps | with_reducible apply accumulate_keeps
    | with_reducible apply after_keeps | with_reducible apply keeps_foldl | with_reducible apply keeps_overIdx
    | simp only [↓keeps_mk_iff] | with_reducible apply keeps_foldl_fst | with_reducible apply keeps_foldl_snd | split

theorem calStep_keeps {s0 s : State} {t : Task} (h : Keeps s0 s) : Keeps s0 (State.calStep s t) := by
  unfold State.calStep
  try dsimp only
  repeat' first
    | intro _ | with_reducible assumption | exact rfl | with_reducible apply keeps_ite
    | with_reducible apply calTake_keeps | with_reducible apply calFail_keeps | with_reducible apply keeps_foldl
    | with_reducible apply keeps_overIdx | simp only [↓keeps_mk_iff] | with_reducible apply keeps_foldl_fst
    | with_reducible apply keeps_foldl_snd | split

theorem rowBases_keeps {s0 s : State} {map : List (Nat × Nat)} {l : List Mean} (h : Keeps s0 s) :
    Keeps s0 (State.rowBases s map l).2 := by
  unfold State.rowBases
  try dsimp only
  repeat' first
    | intro _ | with_reducible assumption | exact rfl | with_reducible apply keeps_ite
    | with_reducible apply free_keeps | with_reducible apply keeps_foldl | with_reducible apply keeps_overIdx
    | simp only [↓keeps_mk_iff] | with_reducible apply keeps_foldl_fst | with_reducible apply keeps_foldl_snd | split

theorem stepOf_keeps {s0 s : State} {map : List (Nat × Nat)} {b : List ((Nat × Nat) × Int)} {l : List Mean} {n : Nat}
    (h : Keeps s0 s) :
    Keeps s0 (State.stepOf s map b l n).2 := by
  unfold State.stepOf
  try dsimp only
  repeat' first
    | intro _ | with_reducible assumption | exact rfl | with_reducible apply keeps_ite
    | with_reducible apply free_keeps | with_reducible apply keeps_foldl | with_reducible apply keeps_overIdx
    | simp only [↓keeps_mk_iff] | with_reducible apply keeps_foldl_fst | with_reducible apply keeps_foldl_snd | split

theorem appendMap_keeps {s0 s : State} {area : Nat} {cause : Nat} {l : List (Nat × Nat)} (h : Keeps s0 s) :
    Keeps s0 (State.appendMap s area cause l).1 := by
  unfold State.appendMap
  try dsimp only
  repeat' first
    | intro _ | with_reducible assumption | exact rfl | with_reducible apply keeps_ite
    | with_reducible apply storeWrite_keeps | with_reducible apply keeps_foldl | with_reducible apply keeps_overIdx
    | simp only [↓keeps_mk_iff] | with_reducible apply keeps_foldl_fst | with_reducible apply keeps_foldl_snd | split

theorem putCode_keeps {s0 s : State} {area : Nat} {j : Nat} {row : Nat} {col : Nat} {code : Nat} (h : Keeps s0 s) :
    Keeps s0 (State.putCode s area j row col code) := by
  unfold State.putCode
  try dsimp only
  repeat' first
    | intro _ | with_reducible assumption | exact rfl | with_reducible apply keeps_ite
    | with_reducible apply storeWrite_keeps | with_reducible apply keeps_foldl | with_reducible apply keeps_overIdx
    | simp only [↓keeps_mk_iff] | with_reducible apply keeps_foldl_fst | with_reducible apply keeps_foldl_snd | split

theorem reduceDark_keeps {s0 s : State} {t : Task} (h : Keeps s0 s) : Keeps s0 (State.reduceDark s t) := by
  unfold State.reduceDark
  try dsimp only
  repeat' first
    | intro _ | with_reducible assumption | exact rfl | with_reducible apply keeps_ite
    | with_reducible apply rowBases_keeps | with_reducible apply stepOf_keeps | with_reducible apply storeWrite_keeps
    | with_reducible apply putCode_keeps | with_reducible apply appendMap_keeps | with_reducible apply endTask_keeps
    | with_reducible apply put_keeps | with_reducible apply keeps_foldl | with_reducible apply keeps_overIdx
    | simp only [↓keeps_mk_iff] | with_reducible apply keeps_foldl_fst | with_reducible apply keeps_foldl_snd | split

theorem reduceFlat_keeps {s0 s : State} {t : Task} (h : Keeps s0 s) : Keeps s0 (State.reduceFlat s t) := by
  unfold State.reduceFlat
  try dsimp only
  repeat' first
    | intro _ | with_reducible assumption | exact rfl | with_reducible apply keeps_ite
    | with_reducible apply free_keeps | with_reducible apply storeWrite_keeps | with_reducible apply appendMap_keeps
    | with_reducible apply endTask_keeps | with_reducible apply put_keeps | with_reducible apply keeps_foldl
    | with_reducible apply keeps_overIdx | simp only [↓keeps_mk_iff] | with_reducible apply keeps_foldl_fst
    | with_reducible apply keeps_foldl_snd | split

theorem calEnd_keeps {s0 s : State} {t : Task} (h : Keeps s0 s) : Keeps s0 (State.calEnd s t) := by
  unfold State.calEnd
  try dsimp only
  repeat' first
    | intro _ | with_reducible assumption | exact rfl | with_reducible apply keeps_ite
    | with_reducible apply storeReadCheck_keeps | with_reducible apply calFail_keeps
    | with_reducible apply reduceDark_keeps | with_reducible apply reduceFlat_keeps | with_reducible apply keeps_foldl
    | with_reducible apply keeps_overIdx | simp only [↓keeps_mk_iff] | with_reducible apply keeps_foldl_fst
    | with_reducible apply keeps_foldl_snd | split

theorem resolveRead_keeps {s0 s : State} {t : Task} (h : Keeps s0 s) : Keeps s0 (State.resolveRead s t).2.2 := by
  unfold State.resolveRead
  try dsimp only
  repeat' first
    | intro _ | with_reducible assumption | exact rfl | with_reducible apply keeps_ite
    | with_reducible apply storeReadCheck_keeps | with_reducible apply keeps_foldl
    | with_reducible apply keeps_overIdx | simp only [↓keeps_mk_iff] | with_reducible apply keeps_foldl_fst
    | with_reducible apply keeps_foldl_snd | split

theorem calLook_keeps {s0 s : State} {p : Nat} (h : Keeps s0 s) : Keeps s0 (State.calLook s p) := by
  unfold State.calLook
  try dsimp only
  repeat' first
    | intro _ | with_reducible assumption | exact rfl | with_reducible apply keeps_ite
    | with_reducible apply after_keeps | with_reducible apply keeps_foldl | with_reducible apply keeps_overIdx
    | simp only [↓keeps_mk_iff] | with_reducible apply keeps_foldl_fst | with_reducible apply keeps_foldl_snd | split

theorem armFlight_keeps {s0 s : State} {t : Task} (h : Keeps s0 s) : Keeps s0 (State.armFlight s t) := by
  unfold State.armFlight
  try dsimp only
  repeat' first
    | intro _ | with_reducible assumption | exact rfl | with_reducible apply keeps_ite
    | with_reducible apply finish_keeps | with_reducible apply setPipe_keeps | with_reducible apply put_keeps
    | with_reducible apply keeps_foldl | with_reducible apply keeps_overIdx | simp only [↓keeps_mk_iff]
    | with_reducible apply keeps_foldl_fst | with_reducible apply keeps_foldl_snd | split

theorem flightArmed_keeps {s0 s : State} (h : Keeps s0 s) : Keeps s0 (State.flightArmed s) := by
  unfold State.flightArmed
  try dsimp only
  repeat' first
    | intro _ | with_reducible assumption | exact rfl | with_reducible apply keeps_ite
    | with_reducible apply finish_keeps | with_reducible apply keeps_foldl | with_reducible apply keeps_overIdx
    | simp only [↓keeps_mk_iff] | with_reducible apply keeps_foldl_fst | with_reducible apply keeps_foldl_snd | split

theorem disarmFlight_keeps {s0 s : State} {t : Task} (h : Keeps s0 s) : Keeps s0 (State.disarmFlight s t) := by
  unfold State.disarmFlight
  try dsimp only
  repeat' first
    | intro _ | with_reducible assumption | exact rfl | with_reducible apply keeps_ite
    | with_reducible apply finish_keeps | with_reducible apply put_keeps | with_reducible apply setPipe_keeps
    | with_reducible apply after_keeps | with_reducible apply keeps_foldl | with_reducible apply keeps_overIdx
    | simp only [↓keeps_mk_iff] | with_reducible apply keeps_foldl_fst | with_reducible apply keeps_foldl_snd | split

theorem runOver_keeps {s0 s : State} {p : Nat} (h : Keeps s0 s) : Keeps s0 (State.runOver s p) := by
  unfold State.runOver
  try dsimp only
  repeat' first
    | intro _ | with_reducible assumption | exact rfl | with_reducible apply keeps_ite
    | with_reducible apply setPipe_keeps | with_reducible apply stopPort_keeps | with_reducible apply calLook_keeps
    | with_reducible apply keeps_foldl | with_reducible apply keeps_overIdx | simp only [↓keeps_mk_iff]
    | with_reducible apply keeps_foldl_fst | with_reducible apply keeps_foldl_snd | split

theorem flightDisarmed_keeps {s0 s : State} (h : Keeps s0 s) : Keeps s0 (State.flightDisarmed s) := by
  unfold State.flightDisarmed
  try dsimp only
  repeat' first
    | intro _ | with_reducible assumption | exact rfl | with_reducible apply keeps_ite
    | with_reducible apply runOver_keeps | with_reducible apply put_keeps | with_reducible apply finish_keeps
    | with_reducible apply keeps_foldl | with_reducible apply keeps_overIdx | simp only [↓keeps_mk_iff]
    | with_reducible apply keeps_foldl_fst | with_reducible apply keeps_foldl_snd | split

theorem runOp_keeps {s0 s : State} {t : Task} (h : Keeps s0 s) : Keeps s0 (State.runOp s t) := by
  unfold State.runOp
  try dsimp only
  repeat' first
    | intro _ | with_reducible assumption | exact rfl | with_reducible apply keeps_ite
    | with_reducible apply finish_keeps | with_reducible apply arrive_keeps | with_reducible apply startWait_keeps
    | with_reducible apply storeWrite_keeps | with_reducible apply hostPut_keeps
    | with_reducible apply armFlight_keeps | with_reducible apply disarmFlight_keeps
    | with_reducible apply keeps_foldl | with_reducible apply keeps_overIdx | simp only [↓keeps_mk_iff]
    | with_reducible apply keeps_foldl_fst | with_reducible apply keeps_foldl_snd | split

theorem failOp_keeps {s0 s : State} {t : Task} {status : Nat} (h : Keeps s0 s) :
    Keeps s0 (State.failOp s t status) := by
  unfold State.failOp
  try dsimp only
  repeat' first
    | intro _ | with_reducible assumption | exact rfl | with_reducible apply keeps_ite
    | with_reducible apply endWait_keeps | with_reducible apply finish_keeps | with_reducible apply keeps_foldl
    | with_reducible apply keeps_overIdx | simp only [↓keeps_mk_iff] | with_reducible apply keeps_foldl_fst
    | with_reducible apply keeps_foldl_snd | split

theorem opAfter_keeps {s0 s : State} {t : Task} {n : Nat} (h : Keeps s0 s) : Keeps s0 (State.opAfter s t n) := by
  unfold State.opAfter
  try dsimp only
  repeat' first
    | intro _ | with_reducible assumption | exact rfl | with_reducible apply keeps_ite
    | with_reducible apply after_keeps | with_reducible apply keeps_foldl | with_reducible apply keeps_overIdx
    | simp only [↓keeps_mk_iff] | with_reducible apply keeps_foldl_fst | with_reducible apply keeps_foldl_snd | split

theorem opDue_keeps {s0 s : State} {t : Task} (h : Keeps s0 s) : Keeps s0 (State.opDue s t) := by
  unfold State.opDue
  try dsimp only
  repeat' first
    | intro _ | with_reducible assumption | exact rfl | with_reducible apply keeps_ite
    | with_reducible apply resolveRead_keeps | with_reducible apply opAfter_keeps | with_reducible apply failOp_keeps
    | with_reducible apply runOp_keeps | with_reducible apply keeps_foldl | with_reducible apply keeps_overIdx
    | simp only [↓keeps_mk_iff] | with_reducible apply keeps_foldl_fst | with_reducible apply keeps_foldl_snd | split

theorem runOps_keeps {s0 s : State} (h : Keeps s0 s) : Keeps s0 (State.runOps s) := by
  unfold State.runOps
  try dsimp only
  repeat' first
    | intro _ | with_reducible assumption | exact rfl | with_reducible apply keeps_ite
    | with_reducible apply opDue_keeps | with_reducible apply keeps_foldl | with_reducible apply keeps_overIdx
    | simp only [↓keeps_mk_iff] | with_reducible apply keeps_foldl_fst | with_reducible apply keeps_foldl_snd | split

theorem take_keeps {s0 s : State} {i : Nat} (h : Keeps s0 s) : Keeps s0 (State.take s i) := by
  unfold State.take
  try dsimp only
  repeat' first
    | intro _ | with_reducible assumption | exact rfl | with_reducible apply keeps_ite
    | with_reducible apply modRing_keeps | with_reducible apply bump_keeps | with_reducible apply put_keeps
    | with_reducible apply finish_keeps | with_reducible apply runOp_keeps | with_reducible apply resolveRead_keeps
    | with_reducible apply opAfter_keeps | with_reducible apply dispatchSoon_keeps
    | with_reducible apply modSlot_keeps | with_reducible apply keeps_foldl | with_reducible apply keeps_overIdx
    | simp only [↓keeps_mk_iff] | with_reducible apply keeps_foldl_fst | with_reducible apply keeps_foldl_snd | split

theorem takeRound_keeps {s0 s : State} (h : Keeps s0 s) : Keeps s0 (State.takeRound s) := by
  unfold State.takeRound
  try dsimp only
  repeat' first
    | intro _ | with_reducible assumption | exact rfl | with_reducible apply keeps_ite
    | with_reducible apply haltRing_keeps | with_reducible apply bump_keeps | with_reducible apply kickAt_keeps
    | with_reducible apply take_keeps | with_reducible apply keeps_foldl | with_reducible apply keeps_overIdx
    | simp only [↓keeps_mk_iff] | with_reducible apply keeps_foldl_fst | with_reducible apply keeps_foldl_snd | split

theorem captureBegin_keeps {s0 s : State} {u : Nat} {t : Task} (h : Keeps s0 s) :
    Keeps s0 (State.captureBegin s u t) := by
  unfold State.captureBegin
  try dsimp only
  repeat' first
    | intro _ | with_reducible assumption | exact rfl | with_reducible apply keeps_ite
    | with_reducible apply endTask_keeps | with_reducible apply modJob_keeps | with_reducible apply setPipe_keeps
    | with_reducible apply keeps_foldl | with_reducible apply keeps_overIdx | simp only [↓keeps_mk_iff]
    | with_reducible apply keeps_foldl_fst | with_reducible apply keeps_foldl_snd | split

theorem beginTask_keeps {s0 s : State} {u : Nat} {r : Task} (h : Keeps s0 s) : Keeps s0 (State.beginTask s u r) := by
  unfold State.beginTask
  try dsimp only
  repeat' first
    | intro _ | with_reducible assumption | exact rfl | with_reducible apply keeps_ite
    | with_reducible apply endTask_keeps | with_reducible apply drainBegin_keeps
    | with_reducible apply rectBegin_keeps | with_reducible apply loadBegin_keeps
    | with_reducible apply calBegin_keeps | with_reducible apply arcBegin_keeps
    | with_reducible apply captureBegin_keeps | with_reducible apply keeps_foldl | with_reducible apply keeps_overIdx
    | simp only [↓keeps_mk_iff] | with_reducible apply keeps_foldl_fst | with_reducible apply keeps_foldl_snd | split

theorem stepTask_keeps {s0 s : State} {u : Nat} {t : Task} (h : Keeps s0 s) : Keeps s0 (State.stepTask s u t) := by
  unfold State.stepTask
  try dsimp only
  repeat' first
    | intro _ | with_reducible assumption | exact rfl | with_reducible apply keeps_ite
    | with_reducible apply drainStep_keeps | with_reducible apply loadStep_keeps | with_reducible apply calStep_keeps
    | with_reducible apply arcStep_keeps | with_reducible apply keeps_foldl | with_reducible apply keeps_overIdx
    | simp only [↓keeps_mk_iff] | with_reducible apply keeps_foldl_fst | with_reducible apply keeps_foldl_snd | split

theorem dispatch_keeps {s0 s : State} {u : Nat} (h : Keeps s0 s) : Keeps s0 (State.dispatch s u) := by
  unfold State.dispatch
  try dsimp only
  repeat' first
    | intro _ | with_reducible assumption | exact rfl | with_reducible apply keeps_ite
    | with_reducible apply runOps_keeps | with_reducible apply beginTask_keeps | with_reducible apply stepTask_keeps
    | with_reducible apply resolveRead_keeps | with_reducible apply modSlot_keeps | with_reducible apply kick_keeps
    | with_reducible apply after_keeps | with_reducible apply keeps_foldl | with_reducible apply keeps_overIdx
    | simp only [↓keeps_mk_iff] | with_reducible apply keeps_foldl_fst | with_reducible apply keeps_foldl_snd | split

theorem captureEnd_keeps {s0 s : State} {u : Nat} (h : Keeps s0 s) : Keeps s0 (State.captureEnd s u) := by
  unfold State.captureEnd
  try dsimp only
  repeat' first
    | intro _ | with_reducible assumption | exact rfl | with_reducible apply keeps_ite
    | with_reducible apply endTask_keeps | with_reducible apply setPipe_keeps | with_reducible apply calLook_keeps
    | with_reducible apply keeps_foldl | with_reducible apply keeps_overIdx | simp only [↓keeps_mk_iff]
    | with_reducible apply keeps_foldl_fst | with_reducible apply keeps_foldl_snd | split

theorem taskEnd_keeps {s0 s : State} {u : Nat} {host : Option (List Byte)} {corr : Nat} (h : Keeps s0 s) :
    Keeps s0 (State.taskEnd s u host corr) := by
  unfold State.taskEnd
  try dsimp only
  repeat' first
    | intro _ | with_reducible assumption | exact rfl | with_reducible apply keeps_ite
    | with_reducible apply rectEnd_keeps | with_reducible apply loadEnd_keeps | with_reducible apply calEnd_keeps
    | with_reducible apply arcReadEnd_keeps | with_reducible apply captureEnd_keeps | with_reducible apply keeps_foldl
    | with_reducible apply keeps_overIdx | simp only [↓keeps_mk_iff] | with_reducible apply keeps_foldl_fst
    | with_reducible apply keeps_foldl_snd | split

theorem captureAbort_keeps {s0 s : State} {p : Nat} (h : Keeps s0 s) : Keeps s0 (State.captureAbort s p) := by
  unfold State.captureAbort
  try dsimp only
  repeat' first
    | intro _ | with_reducible assumption | exact rfl | with_reducible apply keeps_ite
    | with_reducible apply stopPipe_keeps | with_reducible apply stopPort_keeps | with_reducible apply modJob_keeps
    | with_reducible apply after_keeps | with_reducible apply calLook_keeps | with_reducible apply keeps_foldl
    | with_reducible apply keeps_overIdx | simp only [↓keeps_mk_iff] | with_reducible apply keeps_foldl_fst
    | with_reducible apply keeps_foldl_snd | split

theorem abortTask_keeps {s0 s : State} {u : Nat} (h : Keeps s0 s) : Keeps s0 (State.abortTask s u) := by
  unfold State.abortTask
  try dsimp only
  repeat' first
    | intro _ | with_reducible assumption | exact rfl | with_reducible apply keeps_ite
    | with_reducible apply endTask_keeps | with_reducible apply modJob_keeps | with_reducible apply drainEnd_keeps
    | with_reducible apply drainStep_keeps | with_reducible apply rectStop_keeps | with_reducible apply loadStep_keeps
    | with_reducible apply calFail_keeps | with_reducible apply arcAbort_keeps
    | with_reducible apply captureAbort_keeps | with_reducible apply keeps_foldl | with_reducible apply keeps_overIdx
    | simp only [↓keeps_mk_iff] | with_reducible apply keeps_foldl_fst | with_reducible apply keeps_foldl_snd | split

theorem abortMask_keeps {s0 s : State} {mask : Nat} (h : Keeps s0 s) : Keeps s0 (State.abortMask s mask) := by
  unfold State.abortMask
  try dsimp only
  repeat' first
    | intro _ | with_reducible assumption | exact rfl | with_reducible apply keeps_ite
    | with_reducible apply abortTask_keeps | with_reducible apply keeps_foldl | with_reducible apply keeps_overIdx
    | simp only [↓keeps_mk_iff] | with_reducible apply keeps_foldl_fst | with_reducible apply keeps_foldl_snd | split

theorem readError_keeps {s0 s : State} {u : Nat} (h : Keeps s0 s) : Keeps s0 (State.readError s u) := by
  unfold State.readError
  try dsimp only
  repeat' first
    | intro _ | with_reducible assumption | exact rfl | with_reducible apply keeps_ite
    | with_reducible apply rectStop_keeps | with_reducible apply loadOver_keeps | with_reducible apply keeps_foldl
    | with_reducible apply keeps_overIdx | simp only [↓keeps_mk_iff] | with_reducible apply keeps_foldl_fst
    | with_reducible apply keeps_foldl_snd | split

theorem requestsBack_keeps {s0 s : State} (h : Keeps s0 s) : Keeps s0 (State.requestsBack s) := by
  unfold State.requestsBack
  try dsimp only
  repeat' first
    | intro _ | with_reducible assumption | exact rfl | with_reducible apply keeps_ite
    | with_reducible apply message_keeps | with_reducible apply flushNotices_keeps
    | with_reducible apply writeCompletions_keeps | with_reducible apply fetchSoon_keeps
    | with_reducible apply after_keeps | with_reducible apply porterResume_keeps | with_reducible apply kick_keeps
    | with_reducible apply keeps_foldl | with_reducible apply keeps_overIdx | simp only [↓keeps_mk_iff]
    | with_reducible apply keeps_foldl_fst | with_reducible apply keeps_foldl_snd | split

theorem readStrap_keeps {s0 s : State} {ohms : Nat} (h : Keeps s0 s) : Keeps s0 (State.readStrap s ohms).2 := by
  unfold State.readStrap
  try dsimp only
  repeat' first
    | intro _ | with_reducible assumption | exact rfl | with_reducible apply keeps_ite
    | with_reducible apply free_keeps | with_reducible apply keeps_foldl | with_reducible apply keeps_overIdx
    | simp only [↓keeps_mk_iff] | with_reducible apply keeps_foldl_fst | with_reducible apply keeps_foldl_snd | split

theorem readStraps_keeps {s0 s : State} {a0 : List Nat} (h : Keeps s0 s) : Keeps s0 (State.readStraps s a0).2 := by
  induction a0 generalizing s with
  | nil => exact h
  | cons a l ih =>
    unfold State.readStraps
    try dsimp only
    repeat' first
      | intro _ | with_reducible assumption | exact rfl | with_reducible apply ih | with_reducible apply keeps_ite
      | with_reducible apply readStrap_keeps | simp only [↓keeps_mk_iff] | split

theorem modMember_keeps {s0 s : State} {g : Nat} {f : Member → Member} (h : Keeps s0 s) :
    Keeps s0 (State.modMember s g f) := by
  unfold State.modMember
  try dsimp only
  repeat' first
    | intro _ | with_reducible assumption | exact rfl | with_reducible apply keeps_ite
    | with_reducible apply keeps_foldl | with_reducible apply keeps_overIdx | simp only [↓keeps_mk_iff]
    | with_reducible apply keeps_foldl_fst | with_reducible apply keeps_foldl_snd | split

theorem late__keeps {s0 s : State} {g : Nat} {fire : Nat} (h : Keeps s0 s) : Keeps s0 (State.late_ s g fire) := by
  unfold State.late_
  try dsimp only
  repeat' first
    | intro _ | with_reducible assumption | exact rfl | with_reducible apply keeps_ite
    | with_reducible apply bump_keeps | with_reducible apply put_keeps | with_reducible apply putPair_keeps
    | with_reducible apply sticky_keeps | with_reducible apply keeps_foldl | with_reducible apply keeps_overIdx
    | simp only [↓keeps_mk_iff] | with_reducible apply keeps_foldl_fst | with_reducible apply keeps_foldl_snd | split

theorem noGallery_keeps {s0 s : State} {g : Nat} (h : Keeps s0 s) : Keeps s0 (State.noGallery s g) := by
  unfold State.noGallery
  try dsimp only
  repeat' first
    | intro _ | with_reducible assumption | exact rfl | with_reducible apply keeps_ite
    | with_reducible apply bump_keeps | with_reducible apply sticky_keeps | with_reducible apply keeps_foldl
    | with_reducible apply keeps_overIdx | simp only [↓keeps_mk_iff] | with_reducible apply keeps_foldl_fst
    | with_reducible apply keeps_foldl_snd | split

theorem dropFires_keeps {s0 s : State} {g : Nat} (h : Keeps s0 s) : Keeps s0 (State.dropFires s g) := by
  unfold State.dropFires
  try dsimp only
  repeat' first
    | intro _ | with_reducible assumption | exact rfl | with_reducible apply keeps_ite
    | with_reducible apply noGallery_keeps | with_reducible apply setFire_keeps | with_reducible apply keeps_foldl
    | with_reducible apply keeps_overIdx | simp only [↓keeps_mk_iff] | with_reducible apply keeps_foldl_fst
    | with_reducible apply keeps_foldl_snd | split

theorem atLoc_keeps {s0 s : State} {g : Nat} {t : Nat} {c : Instr} (h : Keeps s0 s) :
    Keeps s0 (State.atLoc s g t c) := by
  unfold State.atLoc
  try dsimp only
  repeat' first
    | intro _ | with_reducible assumption | exact rfl | with_reducible apply keeps_ite
    | with_reducible apply after_keeps | with_reducible apply keeps_foldl | with_reducible apply keeps_overIdx
    | simp only [↓keeps_mk_iff] | with_reducible apply keeps_foldl_fst | with_reducible apply keeps_foldl_snd | split

theorem setStation_keeps {s0 s : State} {g : Nat} {x : Station} (h : Keeps s0 s) :
    Keeps s0 (State.setStation s g x) := by
  unfold State.setStation
  try dsimp only
  repeat' first
    | intro _ | with_reducible assumption | exact rfl | with_reducible apply keeps_ite
    | with_reducible apply keeps_foldl | with_reducible apply keeps_overIdx | simp only [↓keeps_mk_iff]
    | with_reducible apply keeps_foldl_fst | with_reducible apply keeps_foldl_snd | split

theorem galleryOn_keeps {s0 s : State} {g : Nat} {ohms : List Nat} {rev : Nat} (h : Keeps s0 s) :
    Keeps s0 (State.galleryOn s g ohms rev) := by
  unfold State.galleryOn
  try dsimp only
  repeat' first
    | intro _ | with_reducible assumption | exact rfl | with_reducible apply keeps_ite
    | with_reducible apply readStraps_keeps | with_reducible apply setStation_keeps | with_reducible apply keeps_foldl
    | with_reducible apply keeps_overIdx | simp only [↓keeps_mk_iff] | with_reducible apply keeps_foldl_fst
    | with_reducible apply keeps_foldl_snd | split

theorem awaitUnit_keeps {s0 s : State} (h : Keeps s0 s) : Keeps s0 (State.awaitUnit s) := by
  unfold State.awaitUnit
  try dsimp only
  repeat' first
    | intro _ | with_reducible assumption | exact rfl | with_reducible apply keeps_ite
    | with_reducible apply after_keeps | with_reducible apply keeps_foldl | with_reducible apply keeps_overIdx
    | simp only [↓keeps_mk_iff] | with_reducible apply keeps_foldl_fst | with_reducible apply keeps_foldl_snd | split

theorem awaitPhrase_keeps {s0 s : State} (h : Keeps s0 s) : Keeps s0 (State.awaitPhrase s) := by
  unfold State.awaitPhrase
  try dsimp only
  repeat' first
    | intro _ | with_reducible assumption | exact rfl | with_reducible apply keeps_ite
    | with_reducible apply after_keeps | with_reducible apply keeps_foldl | with_reducible apply keeps_overIdx
    | simp only [↓keeps_mk_iff] | with_reducible apply keeps_foldl_fst | with_reducible apply keeps_foldl_snd | split

theorem endPhrases_keeps {s0 s : State} {g : Nat} (h : Keeps s0 s) : Keeps s0 (State.endPhrases s g) := by
  unfold State.endPhrases
  try dsimp only
  repeat' first
    | intro _ | with_reducible assumption | exact rfl | with_reducible apply keeps_ite
    | with_reducible apply awaitPhrase_keeps | with_reducible apply awaitUnit_keeps | with_reducible apply keeps_foldl
    | with_reducible apply keeps_overIdx | simp only [↓keeps_mk_iff] | with_reducible apply keeps_foldl_fst
    | with_reducible apply keeps_foldl_snd | split

theorem stopPulses_keeps {s0 s : State} {g : Nat} {q : Pulse → Bool} (h : Keeps s0 s) :
    Keeps s0 (State.stopPulses s g q) := by
  unfold State.stopPulses
  try dsimp only
  repeat' first
    | intro _ | with_reducible assumption | exact rfl | with_reducible apply keeps_ite
    | with_reducible apply free_keeps | with_reducible apply setStation_keeps | with_reducible apply keeps_foldl
    | with_reducible apply keeps_overIdx | simp only [↓keeps_mk_iff] | with_reducible apply keeps_foldl_fst
    | with_reducible apply keeps_foldl_snd | split

theorem parkPulses_keeps {s0 s : State} {g : Nat} (h : Keeps s0 s) : Keeps s0 (State.parkPulses s g) := by
  unfold State.parkPulses
  try dsimp only
  repeat' first
    | intro _ | with_reducible assumption | exact rfl | with_reducible apply keeps_ite
    | with_reducible apply stopPulses_keeps | with_reducible apply keeps_foldl | with_reducible apply keeps_overIdx
    | simp only [↓keeps_mk_iff] | with_reducible apply keeps_foldl_fst | with_reducible apply keeps_foldl_snd | split

theorem takeFrameDue_keeps {s0 s : State} {g : Nat} {k : Nat} (h : Keeps s0 s) :
    Keeps s0 (State.takeFrameDue s g k).2 := by
  unfold State.takeFrameDue
  try dsimp only
  repeat' first
    | intro _ | with_reducible assumption | exact rfl | with_reducible apply keeps_ite
    | with_reducible apply keeps_foldl | with_reducible apply keeps_overIdx | simp only [↓keeps_mk_iff]
    | with_reducible apply keeps_foldl_fst | with_reducible apply keeps_foldl_snd | split

theorem receive_keeps {s0 s : State} {g : Nat} {f : LinkFrame} {rx : Rx} {act : State → LinkFrame → State}
    (h_act : ∀ t f, Keeps s0 t → Keeps s0 (act t f)) (h : Keeps s0 s) : Keeps s0 (State.receive s g f rx act) := by
  unfold State.receive
  dsimp only
  refine keeps_ite h ?_
  split
  · exact setStation_keeps h
  · exact h_act _ _ h

theorem fireAccepted_keeps {s0 s : State} {g : Nat} {f : LinkFrame} (h : Keeps s0 s) :
    Keeps s0 (State.fireAccepted s g f) := by
  unfold State.fireAccepted
  try dsimp only
  repeat' first
    | intro _ | with_reducible assumption | exact rfl | with_reducible apply keeps_ite
    | with_reducible apply setStation_keeps | with_reducible apply atLoc_keeps | with_reducible apply keeps_foldl
    | with_reducible apply keeps_overIdx | simp only [↓keeps_mk_iff] | with_reducible apply keeps_foldl_fst
    | with_reducible apply keeps_foldl_snd | split

theorem outsetAccepted_keeps {s0 s : State} {g : Nat} {f : LinkFrame} (h : Keeps s0 s) :
    Keeps s0 (State.outsetAccepted s g f) := by
  unfold State.outsetAccepted
  try dsimp only
  repeat' first
    | intro _ | with_reducible assumption | exact rfl | with_reducible apply keeps_ite
    | with_reducible apply stopPulses_keeps | with_reducible apply parkPulses_keeps
    | with_reducible apply setStation_keeps | with_reducible apply keeps_foldl | with_reducible apply keeps_overIdx
    | simp only [↓keeps_mk_iff] | with_reducible apply keeps_foldl_fst | with_reducible apply keeps_foldl_snd | split

theorem regwAccepted_keeps {s0 s : State} {g : Nat} {f : LinkFrame} (h : Keeps s0 s) :
    Keeps s0 (State.regwAccepted s g f) := by
  unfold State.regwAccepted
  try dsimp only
  repeat' first
    | intro _ | with_reducible assumption | exact rfl | with_reducible apply keeps_ite
    | with_reducible apply setStation_keeps | with_reducible apply keeps_foldl | with_reducible apply keeps_overIdx
    | simp only [↓keeps_mk_iff] | with_reducible apply keeps_foldl_fst | with_reducible apply keeps_foldl_snd | split

theorem regrAccepted_keeps {s0 s : State} {g : Nat} {f : LinkFrame} (h : Keeps s0 s) :
    Keeps s0 (State.regrAccepted s g f) := by
  unfold State.regrAccepted
  try dsimp only
  repeat' first
    | intro _ | with_reducible assumption | exact rfl | with_reducible apply keeps_ite
    | with_reducible apply setStation_keeps | with_reducible apply keeps_foldl | with_reducible apply keeps_overIdx
    | simp only [↓keeps_mk_iff] | with_reducible apply keeps_foldl_fst | with_reducible apply keeps_foldl_snd | split

theorem setupAccepted_keeps {s0 s : State} {g : Nat} {f : LinkFrame} (h : Keeps s0 s) :
    Keeps s0 (State.setupAccepted s g f) := by
  unfold State.setupAccepted
  try dsimp only
  repeat' first
    | intro _ | with_reducible assumption | exact rfl | with_reducible apply keeps_ite
    | with_reducible apply setStation_keeps | with_reducible apply keeps_foldl | with_reducible apply keeps_overIdx
    | simp only [↓keeps_mk_iff] | with_reducible apply keeps_foldl_fst | with_reducible apply keeps_foldl_snd | split

theorem accept_keeps {s0 s : State} {g : Nat} {f : LinkFrame} (h : Keeps s0 s) : Keeps s0 (State.accept s g f) := by
  unfold State.accept
  try dsimp only
  repeat' first
    | intro _ | with_reducible assumption | exact rfl | with_reducible apply keeps_ite
    | with_reducible apply fireAccepted_keeps | with_reducible apply outsetAccepted_keeps
    | with_reducible apply regwAccepted_keeps | with_reducible apply regrAccepted_keeps
    | with_reducible apply setupAccepted_keeps | with_reducible apply keeps_foldl | with_reducible apply keeps_overIdx
    | simp only [↓keeps_mk_iff] | with_reducible apply keeps_foldl_fst | with_reducible apply keeps_foldl_snd | split

theorem acceptFrame_keeps {s0 s : State} {g k : Nat} {rx : Rx} (h : Keeps s0 s) :
    Keeps s0 (State.acceptFrame s g k rx) := by
  have e := takeFrameDue_keeps (g := g) (k := k) h
  unfold State.acceptFrame
  generalize State.takeFrameDue s g k = p at *
  obtain ⟨o, t⟩ := p
  cases o with
  | none => exact e
  | some f => exact receive_keeps (fun _ _ h => accept_keeps h) e

theorem timeInvalid_keeps {s0 s : State} {g : Nat} {diff : Int} (h : Keeps s0 s) :
    Keeps s0 (State.timeInvalid s g diff) := by
  unfold State.timeInvalid
  try dsimp only
  repeat' first
    | intro _ | with_reducible assumption | exact rfl | with_reducible apply keeps_ite
    | with_reducible apply parkPulses_keeps | with_reducible apply setStation_keeps | with_reducible apply keeps_foldl
    | with_reducible apply keeps_overIdx | simp only [↓keeps_mk_iff] | with_reducible apply keeps_foldl_fst
    | with_reducible apply keeps_foldl_snd | split

theorem retime_keeps {s0 s : State} {g : Nat} (h : Keeps s0 s) : Keeps s0 (State.retime s g) := by
  unfold State.retime
  try dsimp only
  repeat' first
    | intro _ | with_reducible assumption | exact rfl | with_reducible apply keeps_ite
    | with_reducible apply atLoc_keeps | with_reducible apply keeps_foldl | with_reducible apply keeps_overIdx
    | simp only [↓keeps_mk_iff] | with_reducible apply keeps_foldl_fst | with_reducible apply keeps_foldl_snd | split

theorem countCycle_keeps {s0 s : State} {g : Nat} {w : Nat} {cyc : Nat} {len : Nat} (h : Keeps s0 s) :
    Keeps s0 (State.countCycle s g w cyc len) := by
  unfold State.countCycle
  try dsimp only
  repeat' first
    | intro _ | with_reducible assumption | exact rfl | with_reducible apply keeps_ite
    | with_reducible apply setStation_keeps | with_reducible apply after_keeps | with_reducible apply keeps_foldl
    | with_reducible apply keeps_overIdx | simp only [↓keeps_mk_iff] | with_reducible apply keeps_foldl_fst
    | with_reducible apply keeps_foldl_snd | split

theorem checkTime_keeps {s0 s : State} {g : Nat} {m_ : Nat} {next : Bool} (h : Keeps s0 s) :
    Keeps s0 (State.checkTime s g m_ next) := by
  unfold State.checkTime
  try dsimp only
  repeat' first
    | intro _ | with_reducible assumption | exact rfl | with_reducible apply keeps_ite
    | with_reducible apply retime_keeps | with_reducible apply setStation_keeps
    | with_reducible apply timeInvalid_keeps | with_reducible apply keeps_foldl | with_reducible apply keeps_overIdx
    | simp only [↓keeps_mk_iff] | with_reducible apply keeps_foldl_fst | with_reducible apply keeps_foldl_snd | split

theorem markerAccepted_keeps {s0 s : State} {g : Nat} {f : LinkFrame} {slip : Int} (h : Keeps s0 s) :
    Keeps s0 (State.markerAccepted s g f slip) := by
  unfold State.markerAccepted
  try dsimp only
  repeat' first
    | intro _ | with_reducible assumption | exact rfl | with_reducible apply keeps_ite
    | with_reducible apply endPhrases_keeps | with_reducible apply setStation_keeps
    | with_reducible apply checkTime_keeps | with_reducible apply countCycle_keeps | with_reducible apply keeps_foldl
    | with_reducible apply keeps_overIdx | simp only [↓keeps_mk_iff] | with_reducible apply keeps_foldl_fst
    | with_reducible apply keeps_foldl_snd | split

theorem latchStation_keeps {s0 s : State} {g : Nat} (h : Keeps s0 s) : Keeps s0 (State.latchStation s g) := by
  unfold State.latchStation
  try dsimp only
  repeat' first
    | intro _ | with_reducible assumption | exact rfl | with_reducible apply keeps_ite
    | with_reducible apply after_keeps | with_reducible apply setStation_keeps | with_reducible apply keeps_foldl
    | with_reducible apply keeps_overIdx | simp only [↓keeps_mk_iff] | with_reducible apply keeps_foldl_fst
    | with_reducible apply keeps_foldl_snd | split

theorem turnFrom_keeps {s0 s : State} {g : Nat} {l : List Sym} (h : Keeps s0 s) :
    Keeps s0 (State.turnFrom s g l) := by
  unfold State.turnFrom
  try dsimp only
  repeat' first
    | intro _ | with_reducible assumption | exact rfl | with_reducible apply keeps_ite
    | with_reducible apply keeps_foldl | with_reducible apply keeps_overIdx | simp only [↓keeps_mk_iff]
    | with_reducible apply keeps_foldl_fst | with_reducible apply keeps_foldl_snd | split

theorem frameSent_keeps {s0 s : State} {g : Nat} (h : Keeps s0 s) : Keeps s0 (State.frameSent s g) := by
  unfold State.frameSent
  try dsimp only
  repeat' first
    | intro _ | with_reducible assumption | exact rfl | with_reducible apply keeps_ite
    | with_reducible apply setStation_keeps | with_reducible apply turnFrom_keeps | with_reducible apply after_keeps
    | with_reducible apply keeps_foldl | with_reducible apply keeps_overIdx | simp only [↓keeps_mk_iff]
    | with_reducible apply keeps_foldl_fst | with_reducible apply keeps_foldl_snd | split

theorem startPhrases_keeps {s0 s : State} {g : Nat} (h : Keeps s0 s) : Keeps s0 (State.startPhrases s g) := by
  unfold State.startPhrases
  try dsimp only
  repeat' first
    | intro _ | with_reducible assumption | exact rfl | with_reducible apply keeps_ite
    | with_reducible apply setStation_keeps | with_reducible apply awaitPhrase_keeps
    | with_reducible apply awaitUnit_keeps | with_reducible apply after_keeps | with_reducible apply keeps_foldl
    | with_reducible apply keeps_overIdx | simp only [↓keeps_mk_iff] | with_reducible apply keeps_foldl_fst
    | with_reducible apply keeps_foldl_snd | split

theorem markersGone_keeps {s0 s : State} {g : Nat} (h : Keeps s0 s) : Keeps s0 (State.markersGone s g) := by
  unfold State.markersGone
  try dsimp only
  repeat' first
    | intro _ | with_reducible assumption | exact rfl | with_reducible apply keeps_ite
    | with_reducible apply setStation_keeps | with_reducible apply startPhrases_keeps
    | with_reducible apply keeps_foldl | with_reducible apply keeps_overIdx | simp only [↓keeps_mk_iff]
    | with_reducible apply keeps_foldl_fst | with_reducible apply keeps_foldl_snd | split

theorem refilter_keeps {s0 s : State} {g : Nat} (h : Keeps s0 s) : Keeps s0 (State.refilter s g) := by
  unfold State.refilter
  try dsimp only
  repeat' first
    | intro _ | with_reducible assumption | exact rfl | with_reducible apply keeps_ite
    | with_reducible apply after_keeps | with_reducible apply keeps_foldl | with_reducible apply keeps_overIdx
    | simp only [↓keeps_mk_iff] | with_reducible apply keeps_foldl_fst | with_reducible apply keeps_foldl_snd | split

end Sys2Proof.Machine
end

