-- ==== Sys2Proof/Laws/Keeps5.lean ====
section
/-! SUPPORT. `Keeps` is carried through every operation of the model, part 5 of 6. -/

namespace Sys2Proof.Machine

theorem cycleBegins_keeps {s0 s : State} {g : Nat} (h : Keeps s0 s) : Keeps s0 (State.cycleBegins s g) := by
  unfold State.cycleBegins
  try dsimp only
  repeat' first
    | intro _ | with_reducible assumption | exact rfl | with_reducible apply keeps_ite
    | with_reducible apply refilter_keeps | with_reducible apply setStation_keeps | with_reducible apply keeps_foldl
    | with_reducible apply keeps_overIdx | simp only [↓keeps_mk_iff] | with_reducible apply keeps_foldl_fst
    | with_reducible apply keeps_foldl_snd | split

theorem judged_keeps {s0 s : State} {g : Nat} {c : StationCycle} (h : Keeps s0 s) :
    Keeps s0 (State.judged s g c) := by
  unfold State.judged
  try dsimp only
  repeat' first
    | intro _ | with_reducible assumption | exact rfl | with_reducible apply keeps_ite
    | with_reducible apply setStation_keeps | with_reducible apply after_keeps
    | with_reducible apply markersGone_keeps | with_reducible apply keeps_foldl | with_reducible apply keeps_overIdx
    | simp only [↓keeps_mk_iff] | with_reducible apply keeps_foldl_fst | with_reducible apply keeps_foldl_snd | split

theorem judgeCycle_keeps {s0 s : State} {g : Nat} (h : Keeps s0 s) : Keeps s0 (State.judgeCycle s g) := by
  unfold State.judgeCycle
  try dsimp only
  repeat' first
    | intro _ | with_reducible assumption | exact rfl | with_reducible apply keeps_ite
    | with_reducible apply after_keeps | with_reducible apply setStation_keeps | with_reducible apply judged_keeps
    | with_reducible apply keeps_foldl | with_reducible apply keeps_overIdx | simp only [↓keeps_mk_iff]
    | with_reducible apply keeps_foldl_fst | with_reducible apply keeps_foldl_snd | split

theorem modPulse_keeps {s0 s : State} {g : Nat} {p : Pulse} {f : Pulse → Pulse} (h : Keeps s0 s) :
    Keeps s0 (State.modPulse s g p f) := by
  unfold State.modPulse
  try dsimp only
  repeat' first
    | intro _ | with_reducible assumption | exact rfl | with_reducible apply keeps_ite
    | with_reducible apply setStation_keeps | with_reducible apply keeps_foldl | with_reducible apply keeps_overIdx
    | simp only [↓keeps_mk_iff] | with_reducible apply keeps_foldl_fst | with_reducible apply keeps_foldl_snd | split

theorem judgePulse_keeps {s0 s : State} {g : Nat} {p : Pulse} {mA : Nat} (h : Keeps s0 s) :
    Keeps s0 (State.judgePulse s g p mA) := by
  unfold State.judgePulse
  try dsimp only
  repeat' first
    | intro _ | with_reducible assumption | exact rfl | with_reducible apply keeps_ite
    | with_reducible apply modPulse_keeps | with_reducible apply setStation_keeps | with_reducible apply keeps_foldl
    | with_reducible apply keeps_overIdx | simp only [↓keeps_mk_iff] | with_reducible apply keeps_foldl_fst
    | with_reducible apply keeps_foldl_snd | split

theorem seen_keeps {s0 s : State} {mA : Option Nat} (h : Keeps s0 s) : Keeps s0 (State.seen s mA).2 := by
  unfold State.seen
  try dsimp only
  repeat' first
    | intro _ | with_reducible assumption | exact rfl | with_reducible apply keeps_ite
    | with_reducible apply free_keeps | with_reducible apply keeps_foldl | with_reducible apply keeps_overIdx
    | simp only [↓keeps_mk_iff] | with_reducible apply keeps_foldl_fst | with_reducible apply keeps_foldl_snd | split

theorem drive_keeps {s0 s : State} {g : Nat} {n : Nat} {f : Nat} {dur : Nat} (h : Keeps s0 s) :
    Keeps s0 (State.drive s g n f dur) := by
  unfold State.drive
  try dsimp only
  repeat' first
    | intro _ | with_reducible assumption | exact rfl | with_reducible apply keeps_ite
    | with_reducible apply free_keeps | with_reducible apply judgePulse_keeps | with_reducible apply setStation_keeps
    | with_reducible apply atLoc_keeps | with_reducible apply keeps_foldl | with_reducible apply keeps_overIdx
    | simp only [↓keeps_mk_iff] | with_reducible apply keeps_foldl_fst | with_reducible apply keeps_foldl_snd | split

theorem fireDue_keeps {s0 s : State} {g : Nat} (h : Keeps s0 s) : Keeps s0 (State.fireDue s g) := by
  unfold State.fireDue
  try dsimp only
  repeat' first
    | intro _ | with_reducible assumption | exact rfl | with_reducible apply keeps_ite
    | with_reducible apply atLoc_keeps | with_reducible apply after_keeps | with_reducible apply setStation_keeps
    | with_reducible apply drive_keeps | with_reducible apply keeps_foldl | with_reducible apply keeps_overIdx
    | simp only [↓keeps_mk_iff] | with_reducible apply keeps_foldl_fst | with_reducible apply keeps_foldl_snd | split

theorem endPeak_keeps {s0 s : State} {g : Nat} {n : Nat} {mA : Option Nat} (h : Keeps s0 s) :
    Keeps s0 (State.endPeak s g n mA) := by
  unfold State.endPeak
  try dsimp only
  repeat' first
    | intro _ | with_reducible assumption | exact rfl | with_reducible apply keeps_ite
    | with_reducible apply seen_keeps | with_reducible apply modPulse_keeps | with_reducible apply judgePulse_keeps
    | with_reducible apply keeps_foldl | with_reducible apply keeps_overIdx | simp only [↓keeps_mk_iff]
    | with_reducible apply keeps_foldl_fst | with_reducible apply keeps_foldl_snd | split

theorem pulseOver_keeps {s0 s : State} {g : Nat} {n : Nat} {mA : Option Nat} (h : Keeps s0 s) :
    Keeps s0 (State.pulseOver s g n mA) := by
  unfold State.pulseOver
  try dsimp only
  repeat' first
    | intro _ | with_reducible assumption | exact rfl | with_reducible apply keeps_ite
    | with_reducible apply seen_keeps | with_reducible apply judgePulse_keeps | with_reducible apply setStation_keeps
    | with_reducible apply keeps_foldl | with_reducible apply keeps_overIdx | simp only [↓keeps_mk_iff]
    | with_reducible apply keeps_foldl_fst | with_reducible apply keeps_foldl_snd | split

theorem chop_keeps {s0 s : State} {g : Nat} {n : Nat} {reached : Bool} (h : Keeps s0 s) :
    Keeps s0 (State.chop s g n reached) := by
  unfold State.chop
  try dsimp only
  repeat' first
    | intro _ | with_reducible assumption | exact rfl | with_reducible apply keeps_ite
    | with_reducible apply modPulse_keeps | with_reducible apply atLoc_keeps | with_reducible apply keeps_foldl
    | with_reducible apply keeps_overIdx | simp only [↓keeps_mk_iff] | with_reducible apply keeps_foldl_fst
    | with_reducible apply keeps_foldl_snd | split

theorem bankOut_keeps {s0 s : State} {g : Nat} {b : Nat} {volts : Nat} (h : Keeps s0 s) :
    Keeps s0 (State.bankOut s g b volts) := by
  unfold State.bankOut
  try dsimp only
  repeat' first
    | intro _ | with_reducible assumption | exact rfl | with_reducible apply keeps_ite
    | with_reducible apply setStation_keeps | with_reducible apply stopPulses_keeps | with_reducible apply keeps_foldl
    | with_reducible apply keeps_overIdx | simp only [↓keeps_mk_iff] | with_reducible apply keeps_foldl_fst
    | with_reducible apply keeps_foldl_snd | split

theorem bankIn_keeps {s0 s : State} {g : Nat} {b : Nat} {volts : Nat} (h : Keeps s0 s) :
    Keeps s0 (State.bankIn s g b volts) := by
  unfold State.bankIn
  try dsimp only
  repeat' first
    | intro _ | with_reducible assumption | exact rfl | with_reducible apply keeps_ite
    | with_reducible apply setStation_keeps | with_reducible apply keeps_foldl | with_reducible apply keeps_overIdx
    | simp only [↓keeps_mk_iff] | with_reducible apply keeps_foldl_fst | with_reducible apply keeps_foldl_snd | split

theorem overcurrent_keeps {s0 s : State} {g : Nat} {n : Nat} (h : Keeps s0 s) :
    Keeps s0 (State.overcurrent s g n) := by
  unfold State.overcurrent
  try dsimp only
  repeat' first
    | intro _ | with_reducible assumption | exact rfl | with_reducible apply keeps_ite
    | with_reducible apply modPulse_keeps | with_reducible apply setStation_keeps | with_reducible apply keeps_foldl
    | with_reducible apply keeps_overIdx | simp only [↓keeps_mk_iff] | with_reducible apply keeps_foldl_fst
    | with_reducible apply keeps_foldl_snd | split

theorem forcedOn_keeps {s0 s : State} {g : Nat} {n : Nat} (h : Keeps s0 s) : Keeps s0 (State.forcedOn s g n) := by
  unfold State.forcedOn
  try dsimp only
  repeat' first
    | intro _ | with_reducible assumption | exact rfl | with_reducible apply keeps_ite
    | with_reducible apply stopPulses_keeps | with_reducible apply setStation_keeps | with_reducible apply keeps_foldl
    | with_reducible apply keeps_overIdx | simp only [↓keeps_mk_iff] | with_reducible apply keeps_foldl_fst
    | with_reducible apply keeps_foldl_snd | split

theorem crossFed_keeps {s0 s : State} {g : Nat} {n : Nat} {others : List Nat} (h : Keeps s0 s) :
    Keeps s0 (State.crossFed s g n others) := by
  unfold State.crossFed
  try dsimp only
  repeat' first
    | intro _ | with_reducible assumption | exact rfl | with_reducible apply keeps_ite
    | with_reducible apply stopPulses_keeps | with_reducible apply setStation_keeps | with_reducible apply keeps_foldl
    | with_reducible apply keeps_overIdx | simp only [↓keeps_mk_iff] | with_reducible apply keeps_foldl_fst
    | with_reducible apply keeps_foldl_snd | split

theorem driverHot_keeps {s0 s : State} {g : Nat} {n : Nat} (h : Keeps s0 s) : Keeps s0 (State.driverHot s g n) := by
  unfold State.driverHot
  try dsimp only
  repeat' first
    | intro _ | with_reducible assumption | exact rfl | with_reducible apply keeps_ite
    | with_reducible apply modPulse_keeps | with_reducible apply setStation_keeps | with_reducible apply keeps_foldl
    | with_reducible apply keeps_overIdx | simp only [↓keeps_mk_iff] | with_reducible apply keeps_foldl_fst
    | with_reducible apply keeps_foldl_snd | split

theorem wakeRequest_keeps {s0 s : State} {g : Nat} (h : Keeps s0 s) : Keeps s0 (State.wakeRequest s g) := by
  unfold State.wakeRequest
  try dsimp only
  repeat' first
    | intro _ | with_reducible assumption | exact rfl | with_reducible apply keeps_ite
    | with_reducible apply startPhrases_keeps | with_reducible apply setStation_keeps
    | with_reducible apply keeps_foldl | with_reducible apply keeps_overIdx | simp only [↓keeps_mk_iff]
    | with_reducible apply keeps_foldl_fst | with_reducible apply keeps_foldl_snd | split

theorem filterEdge_keeps {s0 s : State} {g : Nat} {i : Nat} (h : Keeps s0 s) : Keeps s0 (State.filterEdge s g i) := by
  unfold State.filterEdge
  try dsimp only
  repeat' first
    | intro _ | with_reducible assumption | exact rfl | with_reducible apply keeps_ite
    | with_reducible apply setStation_keeps | with_reducible apply wakeRequest_keeps
    | with_reducible apply keeps_foldl | with_reducible apply keeps_overIdx | simp only [↓keeps_mk_iff]
    | with_reducible apply keeps_foldl_fst | with_reducible apply keeps_foldl_snd | split

theorem inputEdge_keeps {s0 s : State} {g : Nat} {i : Nat} {level : Bool} (h : Keeps s0 s) :
    Keeps s0 (State.inputEdge s g i level) := by
  unfold State.inputEdge
  try dsimp only
  repeat' first
    | intro _ | with_reducible assumption | exact rfl | with_reducible apply keeps_ite
    | with_reducible apply filterEdge_keeps | with_reducible apply after_keeps | with_reducible apply setStation_keeps
    | with_reducible apply keeps_foldl | with_reducible apply keeps_overIdx | simp only [↓keeps_mk_iff]
    | with_reducible apply keeps_foldl_fst | with_reducible apply keeps_foldl_snd | split

theorem zoneUpdate_keeps {s0 s : State} {z : Nat} (h : Keeps s0 s) : Keeps s0 (State.zoneUpdate s z) := by
  unfold State.zoneUpdate
  try dsimp only
  repeat' first
    | intro _ | with_reducible assumption | exact rfl | with_reducible apply keeps_ite
    | with_reducible apply put_keeps | with_reducible apply sticky_keeps | with_reducible apply bump_keeps
    | with_reducible apply keeps_foldl | with_reducible apply keeps_overIdx | simp only [↓keeps_mk_iff]
    | with_reducible apply keeps_foldl_fst | with_reducible apply keeps_foldl_snd | split

theorem zonesUpdate_keeps {s0 s : State} (h : Keeps s0 s) : Keeps s0 (State.zonesUpdate s) := by
  unfold State.zonesUpdate
  try dsimp only
  repeat' first
    | intro _ | with_reducible assumption | exact rfl | with_reducible apply keeps_ite
    | with_reducible apply zoneUpdate_keeps | with_reducible apply put_keeps | with_reducible apply keeps_foldl
    | with_reducible apply keeps_overIdx | simp only [↓keeps_mk_iff] | with_reducible apply keeps_foldl_fst
    | with_reducible apply keeps_foldl_snd | split

theorem forcePoise_keeps {s0 s : State} {cause : Nat} {zone : Nat} {temp : Int} (h : Keeps s0 s) :
    Keeps s0 (State.forcePoise s cause zone temp) := by
  unfold State.forcePoise
  try dsimp only
  repeat' first
    | intro _ | with_reducible assumption | exact rfl | with_reducible apply keeps_ite
    | with_reducible apply put_keeps | with_reducible apply notice_keeps | with_reducible apply bump_keeps
    | with_reducible apply startEntry_keeps | with_reducible apply keeps_foldl | with_reducible apply keeps_overIdx
    | simp only [↓keeps_mk_iff] | with_reducible apply keeps_foldl_fst | with_reducible apply keeps_foldl_snd | split

theorem endForcing_keeps {s0 s : State} {c : Nat} (h : Keeps s0 s) : Keeps s0 (State.endForcing s c) := by
  unfold State.endForcing
  try dsimp only
  repeat' first
    | intro _ | with_reducible assumption | exact rfl | with_reducible apply keeps_ite
    | with_reducible apply put_keeps | with_reducible apply keeps_foldl | with_reducible apply keeps_overIdx
    | simp only [↓keeps_mk_iff] | with_reducible apply keeps_foldl_fst | with_reducible apply keeps_foldl_snd | split

theorem tripTest_keeps {s0 s : State} (h : Keeps s0 s) : Keeps s0 (State.tripTest s) := by
  unfold State.tripTest
  try dsimp only
  repeat' first
    | intro _ | with_reducible assumption | exact rfl | with_reducible apply keeps_ite
    | with_reducible apply endForcing_keeps | with_reducible apply forcePoise_keeps | with_reducible apply keeps_foldl
    | with_reducible apply keeps_overIdx | simp only [↓keeps_mk_iff] | with_reducible apply keeps_foldl_fst
    | with_reducible apply keeps_foldl_snd | split

theorem setSensor_keeps {s0 s : State} {i : Nat} {prev : Option Int} {held : Option Int} {far : Nat} (h : Keeps s0 s)
    :
    Keeps s0 (State.setSensor s i prev held far) := by
  unfold State.setSensor
  try dsimp only
  repeat' first
    | intro _ | with_reducible assumption | exact rfl | with_reducible apply keeps_ite
    | with_reducible apply keeps_foldl | with_reducible apply keeps_overIdx | simp only [↓keeps_mk_iff]
    | with_reducible apply keeps_foldl_fst | with_reducible apply keeps_foldl_snd | split

theorem sensorFails_keeps {s0 s : State} {i : Nat} {check : Nat} (h : Keeps s0 s) :
    Keeps s0 (State.sensorFails s i check) := by
  unfold State.sensorFails
  try dsimp only
  repeat' first
    | intro _ | with_reducible assumption | exact rfl | with_reducible apply keeps_ite
    | with_reducible apply put_keeps | with_reducible apply setSensor_keeps | with_reducible apply sticky64_keeps
    | with_reducible apply bump_keeps | with_reducible apply keeps_foldl | with_reducible apply keeps_overIdx
    | simp only [↓keeps_mk_iff] | with_reducible apply keeps_foldl_fst | with_reducible apply keeps_foldl_snd | split

theorem reading_keeps {s0 s : State} {i : Nat} {v : Int} (h : Keeps s0 s) : Keeps s0 (State.reading s i v) := by
  unfold State.reading
  try dsimp only
  repeat' first
    | intro _ | with_reducible assumption | exact rfl | with_reducible apply keeps_ite
    | with_reducible apply put_keeps | with_reducible apply sensorFails_keeps | with_reducible apply setSensor_keeps
    | with_reducible apply tripTest_keeps | with_reducible apply zonesUpdate_keeps | with_reducible apply keeps_foldl
    | with_reducible apply keeps_overIdx | simp only [↓keeps_mk_iff] | with_reducible apply keeps_foldl_fst
    | with_reducible apply keeps_foldl_snd | split

theorem galleryGap_keeps {s0 s : State} {g : Nat} (h : Keeps s0 s) : Keeps s0 (State.galleryGap s g) := by
  unfold State.galleryGap
  try dsimp only
  repeat' first
    | intro _ | with_reducible assumption | exact rfl | with_reducible apply keeps_ite
    | with_reducible apply zonesUpdate_keeps | with_reducible apply setSensor_keeps | with_reducible apply keeps_foldl
    | with_reducible apply keeps_overIdx | simp only [↓keeps_mk_iff] | with_reducible apply keeps_foldl_fst
    | with_reducible apply keeps_foldl_snd | split

theorem readmit_keeps {s0 s : State} {i : Nat} (h : Keeps s0 s) : Keeps s0 (State.readmit s i) := by
  unfold State.readmit
  try dsimp only
  repeat' first
    | intro _ | with_reducible assumption | exact rfl | with_reducible apply keeps_ite
    | with_reducible apply setSensor_keeps | with_reducible apply keeps_foldl | with_reducible apply keeps_overIdx
    | simp only [↓keeps_mk_iff] | with_reducible apply keeps_foldl_fst | with_reducible apply keeps_foldl_snd | split

theorem askHold_keeps {s0 s : State} {g : Nat} (h : Keeps s0 s) : Keeps s0 (State.askHold s g) := by
  unfold State.askHold
  try dsimp only
  repeat' first
    | intro _ | with_reducible assumption | exact rfl | with_reducible apply keeps_ite
    | with_reducible apply keeps_foldl | with_reducible apply keeps_overIdx | simp only [↓keeps_mk_iff]
    | with_reducible apply keeps_foldl_fst | with_reducible apply keeps_foldl_snd | split

theorem ladderTo_keeps {s0 s : State} {n : Nat} (h : Keeps s0 s) : Keeps s0 (State.ladderTo s n) := by
  unfold State.ladderTo
  try dsimp only
  repeat' first
    | intro _ | with_reducible assumption | exact rfl | with_reducible apply keeps_ite
    | with_reducible apply put_keeps | with_reducible apply bump_keeps | with_reducible apply notice_keeps
    | with_reducible apply isetSoon_keeps | with_reducible apply askHold_keeps | with_reducible apply keeps_foldl
    | with_reducible apply keeps_overIdx | simp only [↓keeps_mk_iff] | with_reducible apply keeps_foldl_fst
    | with_reducible apply keeps_foldl_snd | split

theorem ladderNext_keeps {s0 s : State} (h : Keeps s0 s) : Keeps s0 (State.ladderNext s) := by
  unfold State.ladderNext
  try dsimp only
  repeat' first
    | intro _ | with_reducible assumption | exact rfl | with_reducible apply keeps_ite
    | with_reducible apply at__keeps | with_reducible apply withdraw_keeps | with_reducible apply keeps_foldl
    | with_reducible apply keeps_overIdx | simp only [↓keeps_mk_iff] | with_reducible apply keeps_foldl_fst
    | with_reducible apply keeps_foldl_snd | split

theorem evaluate_keeps {s0 s : State} (h : Keeps s0 s) : Keeps s0 (State.evaluate s) := by
  unfold State.evaluate
  try dsimp only
  repeat' first
    | intro _ | with_reducible assumption | exact rfl | with_reducible apply keeps_ite
    | with_reducible apply zonesUpdate_keeps | with_reducible apply ladderTo_keeps
    | with_reducible apply endForcing_keeps | with_reducible apply forcePoise_keeps | with_reducible apply keeps_foldl
    | with_reducible apply keeps_overIdx | simp only [↓keeps_mk_iff] | with_reducible apply keeps_foldl_fst
    | with_reducible apply keeps_foldl_snd | split

theorem thermalStart_keeps {s0 s : State} (h : Keeps s0 s) : Keeps s0 (State.thermalStart s) := by
  unfold State.thermalStart
  try dsimp only
  repeat' first
    | intro _ | with_reducible assumption | exact rfl | with_reducible apply keeps_ite
    | with_reducible apply ladderNext_keeps | with_reducible apply keeps_foldl | with_reducible apply keeps_overIdx
    | simp only [↓keeps_mk_iff] | with_reducible apply keeps_foldl_fst | with_reducible apply keeps_foldl_snd | split

theorem modLink_keeps {s0 s : State} {f : Link → Link} (h : Keeps s0 s) : Keeps s0 (State.modLink s f) := by
  unfold State.modLink
  try dsimp only
  repeat' first
    | intro _ | with_reducible assumption | exact rfl | with_reducible apply keeps_ite
    | with_reducible apply keeps_foldl | with_reducible apply keeps_overIdx | simp only [↓keeps_mk_iff]
    | with_reducible apply keeps_foldl_fst | with_reducible apply keeps_foldl_snd | split

theorem pumpAt_keeps {s0 s : State} {b : Nat} (h : Keeps s0 s) : Keeps s0 (State.pumpAt s b) := by
  unfold State.pumpAt
  try dsimp only
  repeat' first
    | intro _ | with_reducible assumption | exact rfl | with_reducible apply keeps_ite
    | with_reducible apply at__keeps | with_reducible apply keeps_foldl | with_reducible apply keeps_overIdx
    | simp only [↓keeps_mk_iff] | with_reducible apply keeps_foldl_fst | with_reducible apply keeps_foldl_snd | split

theorem pump_keeps {s0 s : State} {later : Bool} (h : Keeps s0 s) : Keeps s0 (State.pump s later) := by
  unfold State.pump
  try dsimp only
  repeat' first
    | intro _ | with_reducible assumption | exact rfl | with_reducible apply keeps_ite
    | with_reducible apply pumpAt_keeps | with_reducible apply keeps_foldl | with_reducible apply keeps_overIdx
    | simp only [↓keeps_mk_iff] | with_reducible apply keeps_foldl_fst | with_reducible apply keeps_foldl_snd | split

theorem sendFrame_keeps {s0 s : State} {f : LinkFrame} (h : Keeps s0 s) : Keeps s0 (State.sendFrame s f) := by
  unfold State.sendFrame
  try dsimp only
  repeat' first
    | intro _ | with_reducible assumption | exact rfl | with_reducible apply keeps_ite
    | with_reducible apply modLink_keeps | with_reducible apply at__keeps | with_reducible apply pumpAt_keeps
    | with_reducible apply keeps_foldl | with_reducible apply keeps_overIdx | simp only [↓keeps_mk_iff]
    | with_reducible apply keeps_foldl_fst | with_reducible apply keeps_foldl_snd | split

theorem dropLate_keeps {s0 s : State} {g : Nat} {c : FireCmd} (h : Keeps s0 s) : Keeps s0 (State.dropLate s g c) := by
  unfold State.dropLate
  try dsimp only
  repeat' first
    | intro _ | with_reducible assumption | exact rfl | with_reducible apply keeps_ite
    | with_reducible apply setFire_keeps | with_reducible apply late__keeps | with_reducible apply keeps_foldl
    | with_reducible apply keeps_overIdx | simp only [↓keeps_mk_iff] | with_reducible apply keeps_foldl_fst
    | with_reducible apply keeps_foldl_snd | split

theorem sendFire_keeps {s0 s : State} {g : Nat} {c : FireCmd} (h : Keeps s0 s) : Keeps s0 (State.sendFire s g c) := by
  unfold State.sendFire
  try dsimp only
  repeat' first
    | intro _ | with_reducible assumption | exact rfl | with_reducible apply keeps_ite
    | with_reducible apply bump_keeps | with_reducible apply modMember_keeps | with_reducible apply sendFrame_keeps
    | with_reducible apply keeps_foldl | with_reducible apply keeps_overIdx | simp only [↓keeps_mk_iff]
    | with_reducible apply keeps_foldl_fst | with_reducible apply keeps_foldl_snd | split

theorem abandon_keeps {s0 s : State} {f : LinkFrame} (h : Keeps s0 s) : Keeps s0 (State.abandon s f) := by
  unfold State.abandon
  try dsimp only
  repeat' first
    | intro _ | with_reducible assumption | exact rfl | with_reducible apply keeps_ite
    | with_reducible apply bump_keeps | with_reducible apply modLink_keeps | with_reducible apply modMember_keeps
    | with_reducible apply pumpAt_keeps | with_reducible apply keeps_foldl | with_reducible apply keeps_overIdx
    | simp only [↓keeps_mk_iff] | with_reducible apply keeps_foldl_fst | with_reducible apply keeps_foldl_snd | split

theorem undeliverable_keeps {s0 s : State} {g : Nat} (h : Keeps s0 s) : Keeps s0 (State.undeliverable s g) := by
  unfold State.undeliverable
  try dsimp only
  repeat' first
    | intro _ | with_reducible assumption | exact rfl | with_reducible apply keeps_ite
    | with_reducible apply setFire_keeps | with_reducible apply bump_keeps | with_reducible apply sticky_keeps
    | with_reducible apply keeps_foldl | with_reducible apply keeps_overIdx | simp only [↓keeps_mk_iff]
    | with_reducible apply keeps_foldl_fst | with_reducible apply keeps_foldl_snd | split

theorem fireStart_keeps {s0 s : State} {g : Nat} (h : Keeps s0 s) : Keeps s0 (State.fireStart s g) := by
  unfold State.fireStart
  try dsimp only
  repeat' first
    | intro _ | with_reducible assumption | exact rfl | with_reducible apply keeps_ite
    | with_reducible apply pump_keeps | with_reducible apply hallUncorrectable_keeps
    | with_reducible apply setFire_keeps | with_reducible apply dropLate_keeps | with_reducible apply sendFire_keeps
    | with_reducible apply keeps_foldl | with_reducible apply keeps_overIdx | simp only [↓keeps_mk_iff]
    | with_reducible apply keeps_foldl_fst | with_reducible apply keeps_foldl_snd | split

theorem fireTurn_keeps {s0 s : State} {g : Nat} (h : Keeps s0 s) : Keeps s0 (State.fireTurn s g) := by
  unfold State.fireTurn
  try dsimp only
  repeat' first
    | intro _ | with_reducible assumption | exact rfl | with_reducible apply keeps_ite
    | with_reducible apply undeliverable_keeps | with_reducible apply abandon_keeps
    | with_reducible apply fireStart_keeps | with_reducible apply keeps_foldl | with_reducible apply keeps_overIdx
    | simp only [↓keeps_mk_iff] | with_reducible apply keeps_foldl_fst | with_reducible apply keeps_foldl_snd | split

theorem outsetTurn_keeps {s0 s : State} {g : Nat} (h : Keeps s0 s) : Keeps s0 (State.outsetTurn s g) := by
  unfold State.outsetTurn
  try dsimp only
  repeat' first
    | intro _ | with_reducible assumption | exact rfl | with_reducible apply keeps_ite
    | with_reducible apply modMember_keeps | with_reducible apply sendFrame_keeps | with_reducible apply keeps_foldl
    | with_reducible apply keeps_overIdx | simp only [↓keeps_mk_iff] | with_reducible apply keeps_foldl_fst
    | with_reducible apply keeps_foldl_snd | split

theorem registerTurn_keeps {s0 s : State} (h : Keeps s0 s) : Keeps s0 (State.registerTurn s) := by
  unfold State.registerTurn
  try dsimp only
  repeat' first
    | intro _ | with_reducible assumption | exact rfl | with_reducible apply keeps_ite
    | with_reducible apply modLink_keeps | with_reducible apply sendFrame_keeps | with_reducible apply modMember_keeps
    | with_reducible apply keeps_foldl | with_reducible apply keeps_overIdx | simp only [↓keeps_mk_iff]
    | with_reducible apply keeps_foldl_fst | with_reducible apply keeps_foldl_snd | split

theorem echo_keeps {s0 s : State} {f : LinkFrame} {rx : Rx} (h : Keeps s0 s) : Keeps s0 (State.echo s f rx) := by
  unfold State.echo
  try dsimp only
  repeat' first
    | intro _ | with_reducible assumption | exact rfl | with_reducible apply keeps_ite
    | with_reducible apply bumpBy_keeps | with_reducible apply modLink_keeps | with_reducible apply setBit_keeps
    | with_reducible apply bump_keeps | with_reducible apply keeps_foldl | with_reducible apply keeps_overIdx
    | simp only [↓keeps_mk_iff] | with_reducible apply keeps_foldl_fst | with_reducible apply keeps_foldl_snd | split

theorem gregFail_keeps {s0 s : State} {p : Greg → Bool} (h : Keeps s0 s) : Keeps s0 (State.gregFail s p) := by
  unfold State.gregFail
  try dsimp only
  repeat' first
    | intro _ | with_reducible assumption | exact rfl | with_reducible apply keeps_ite
    | with_reducible apply modLink_keeps | with_reducible apply put_keeps | with_reducible apply setBit_keeps
    | with_reducible apply keeps_foldl | with_reducible apply keeps_overIdx | simp only [↓keeps_mk_iff]
    | with_reducible apply keeps_foldl_fst | with_reducible apply keeps_foldl_snd | split

theorem countStations_keeps {s0 s : State} (h : Keeps s0 s) : Keeps s0 (State.countStations s) := by
  unfold State.countStations
  try dsimp only
  repeat' first
    | intro _ | with_reducible assumption | exact rfl | with_reducible apply keeps_ite
    | with_reducible apply put_keeps | with_reducible apply keeps_foldl | with_reducible apply keeps_overIdx
    | simp only [↓keeps_mk_iff] | with_reducible apply keeps_foldl_fst | with_reducible apply keeps_foldl_snd | split

theorem leaveAll_keeps {s0 s : State} (h : Keeps s0 s) : Keeps s0 (State.leaveAll s) := by
  unfold State.leaveAll
  try dsimp only
  repeat' first
    | intro _ | with_reducible assumption | exact rfl | with_reducible apply keeps_ite
    | with_reducible apply modLink_keeps | with_reducible apply dropFires_keeps | with_reducible apply put_keeps
    | with_reducible apply setSensor_keeps | with_reducible apply zonesUpdate_keeps
    | with_reducible apply countStations_keeps | with_reducible apply gregFail_keeps
    | with_reducible apply keeps_foldl | with_reducible apply keeps_overIdx | simp only [↓keeps_mk_iff]
    | with_reducible apply keeps_foldl_fst | with_reducible apply keeps_foldl_snd | split

theorem stopCycles_keeps {s0 s : State} {cut : Bool} (h : Keeps s0 s) : Keeps s0 (State.stopCycles s cut) := by
  unfold State.stopCycles
  try dsimp only
  repeat' first
    | intro _ | with_reducible assumption | exact rfl | with_reducible apply keeps_ite
    | with_reducible apply gregFail_keeps | with_reducible apply modLink_keeps | with_reducible apply keeps_foldl
    | with_reducible apply keeps_overIdx | simp only [↓keeps_mk_iff] | with_reducible apply keeps_foldl_fst
    | with_reducible apply keeps_foldl_snd | split

theorem linkPhase_keeps {s0 s : State} {n : Nat} (h : Keeps s0 s) : Keeps s0 (State.linkPhase s n) := by
  unfold State.linkPhase
  try dsimp only
  repeat' first
    | intro _ | with_reducible assumption | exact rfl | with_reducible apply keeps_ite
    | with_reducible apply modLink_keeps | with_reducible apply bump_keeps | with_reducible apply put_keeps
    | with_reducible apply keeps_foldl | with_reducible apply keeps_overIdx | simp only [↓keeps_mk_iff]
    | with_reducible apply keeps_foldl_fst | with_reducible apply keeps_foldl_snd | split

theorem clearEnum_keeps {s0 s : State} (h : Keeps s0 s) : Keeps s0 (State.clearEnum s) := by
  unfold State.clearEnum
  try dsimp only
  repeat' first
    | intro _ | with_reducible assumption | exact rfl | with_reducible apply keeps_ite
    | with_reducible apply setReg_keeps | with_reducible apply keeps_foldl | with_reducible apply keeps_overIdx
    | simp only [↓keeps_mk_iff] | with_reducible apply keeps_foldl_fst | with_reducible apply keeps_foldl_snd | split

theorem enumerate_keeps {s0 s : State} (h : Keeps s0 s) : Keeps s0 (State.enumerate s) := by
  unfold State.enumerate
  try dsimp only
  repeat' first
    | intro _ | with_reducible assumption | exact rfl | with_reducible apply keeps_ite
    | with_reducible apply clearEnum_keeps | with_reducible apply leaveAll_keeps
    | with_reducible apply stopCycles_keeps | with_reducible apply modLink_keeps | with_reducible apply put_keeps
    | with_reducible apply after_keeps | with_reducible apply linkPhase_keeps | with_reducible apply keeps_foldl
    | with_reducible apply keeps_overIdx | simp only [↓keeps_mk_iff] | with_reducible apply keeps_foldl_fst
    | with_reducible apply keeps_foldl_snd | split

theorem release_keeps {s0 s : State} (h : Keeps s0 s) : Keeps s0 (State.release s) := by
  unfold State.release
  try dsimp only
  repeat' first
    | intro _ | with_reducible assumption | exact rfl | with_reducible apply keeps_ite
    | with_reducible apply leaveAll_keeps | with_reducible apply stopCycles_keeps | with_reducible apply modLink_keeps
    | with_reducible apply put_keeps | with_reducible apply enumerate_keeps | with_reducible apply keeps_foldl
    | with_reducible apply keeps_overIdx | simp only [↓keeps_mk_iff] | with_reducible apply keeps_foldl_fst
    | with_reducible apply keeps_foldl_snd | split

theorem disable_keeps {s0 s : State} (h : Keeps s0 s) : Keeps s0 (State.disable s) := by
  unfold State.disable
  try dsimp only
  repeat' first
    | intro _ | with_reducible assumption | exact rfl | with_reducible apply keeps_ite
    | with_reducible apply at__keeps | with_reducible apply modLink_keeps | with_reducible apply release_keeps
    | with_reducible apply keeps_foldl | with_reducible apply keeps_overIdx | simp only [↓keeps_mk_iff]
    | with_reducible apply keeps_foldl_fst | with_reducible apply keeps_foldl_snd | split

theorem lockEnd_keeps {s0 s : State} (h : Keeps s0 s) : Keeps s0 (State.lockEnd s) := by
  unfold State.lockEnd
  try dsimp only
  repeat' first
    | intro _ | with_reducible assumption | exact rfl | with_reducible apply keeps_ite
    | with_reducible apply after_keeps | with_reducible apply linkPhase_keeps | with_reducible apply keeps_foldl
    | with_reducible apply keeps_overIdx | simp only [↓keeps_mk_iff] | with_reducible apply keeps_foldl_fst
    | with_reducible apply keeps_foldl_snd | split

theorem enumFails_keeps {s0 s : State} {r : Nat} (h : Keeps s0 s) : Keeps s0 (State.enumFails s r) := by
  unfold State.enumFails
  try dsimp only
  repeat' first
    | intro _ | with_reducible assumption | exact rfl | with_reducible apply keeps_ite
    | with_reducible apply setBit_keeps | with_reducible apply put_keeps | with_reducible apply modLink_keeps
    | with_reducible apply notice_keeps | with_reducible apply keeps_foldl | with_reducible apply keeps_overIdx
    | simp only [↓keeps_mk_iff] | with_reducible apply keeps_foldl_fst | with_reducible apply keeps_foldl_snd | split

theorem ringOpens_keeps {s0 s : State} (h : Keeps s0 s) : Keeps s0 (State.ringOpens s) := by
  unfold State.ringOpens
  try dsimp only
  repeat' first
    | intro _ | with_reducible assumption | exact rfl | with_reducible apply keeps_ite
    | with_reducible apply enumFails_keeps | with_reducible apply put_keeps | with_reducible apply keeps_foldl
    | with_reducible apply keeps_overIdx | simp only [↓keeps_mk_iff] | with_reducible apply keeps_foldl_fst
    | with_reducible apply keeps_foldl_snd | split

theorem drivesAgain_keeps {s0 s : State} {hop : Nat} {g : Nat} (h : Keeps s0 s) :
    Keeps s0 (State.drivesAgain s hop g) := by
  unfold State.drivesAgain
  try dsimp only
  repeat' first
    | intro _ | with_reducible assumption | exact rfl | with_reducible apply keeps_ite
    | with_reducible apply modLink_keeps | with_reducible apply keeps_foldl | with_reducible apply keeps_overIdx
    | simp only [↓keeps_mk_iff] | with_reducible apply keeps_foldl_fst | with_reducible apply keeps_foldl_snd | split

theorem hopDone_keeps {s0 s : State} {r : List Nat} (h : Keeps s0 s) : Keeps s0 (State.hopDone s r) := by
  unfold State.hopDone
  try dsimp only
  repeat' first
    | intro _ | with_reducible assumption | exact rfl | with_reducible apply keeps_ite
    | with_reducible apply put_keeps | with_reducible apply enumFails_keeps | with_reducible apply modLink_keeps
    | with_reducible apply linkPhase_keeps | with_reducible apply at__keeps | with_reducible apply keeps_foldl
    | with_reducible apply keeps_overIdx | simp only [↓keeps_mk_iff] | with_reducible apply keeps_foldl_fst
    | with_reducible apply keeps_foldl_snd | split

theorem identReport_keeps {s0 s : State} (h : Keeps s0 s) : Keeps s0 (State.identReport s) := by
  unfold State.identReport
  try dsimp only
  repeat' first
    | intro _ | with_reducible assumption | exact rfl | with_reducible apply keeps_ite
    | with_reducible apply put_keeps | with_reducible apply notice_keeps | with_reducible apply setBit_keeps
    | with_reducible apply modLink_keeps | with_reducible apply keeps_foldl | with_reducible apply keeps_overIdx
    | simp only [↓keeps_mk_iff] | with_reducible apply keeps_foldl_fst | with_reducible apply keeps_foldl_snd | split

theorem memberRegs_keeps {s0 s : State} {g : Nat} {pos : Nat} {slot : Nat} {delay : Nat} {strap : Nat} {rev : Nat}
    (h : Keeps s0 s) :
    Keeps s0 (State.memberRegs s g pos slot delay strap rev) := by
  unfold State.memberRegs
  try dsimp only
  repeat' first
    | intro _ | with_reducible assumption | exact rfl | with_reducible apply keeps_ite
    | with_reducible apply put_keeps | with_reducible apply keeps_foldl | with_reducible apply keeps_overIdx
    | simp only [↓keeps_mk_iff] | with_reducible apply keeps_foldl_fst | with_reducible apply keeps_foldl_snd | split

theorem identEnd_keeps {s0 s : State} (h : Keeps s0 s) : Keeps s0 (State.identEnd s) := by
  unfold State.identEnd
  try dsimp only
  repeat' first
    | intro _ | with_reducible assumption | exact rfl | with_reducible apply keeps_ite
    | with_reducible apply identReport_keeps | with_reducible apply modLink_keeps | with_reducible apply put_keeps
    | with_reducible apply linkPhase_keeps | with_reducible apply memberRegs_keeps
    | with_reducible apply sendFrame_keeps | with_reducible apply at__keeps | with_reducible apply keeps_foldl
    | with_reducible apply keeps_overIdx | simp only [↓keeps_mk_iff] | with_reducible apply keeps_foldl_fst
    | with_reducible apply keeps_foldl_snd | split

theorem enumDone_keeps {s0 s : State} (h : Keeps s0 s) : Keeps s0 (State.enumDone s) := by
  unfold State.enumDone
  try dsimp only
  repeat' first
    | intro _ | with_reducible assumption | exact rfl | with_reducible apply keeps_ite
    | with_reducible apply modLink_keeps | with_reducible apply notice_keeps | with_reducible apply put_keeps
    | with_reducible apply keeps_foldl | with_reducible apply keeps_overIdx | simp only [↓keeps_mk_iff]
    | with_reducible apply keeps_foldl_fst | with_reducible apply keeps_foldl_snd | split

theorem countPark_keeps {s0 s : State} (h : Keeps s0 s) : Keeps s0 (State.countPark s) := by
  unfold State.countPark
  try dsimp only
  repeat' first
    | intro _ | with_reducible assumption | exact rfl | with_reducible apply keeps_ite
    | with_reducible apply keeps_foldl | with_reducible apply keeps_overIdx | simp only [↓keeps_mk_iff]
    | with_reducible apply keeps_foldl_fst | with_reducible apply keeps_foldl_snd | split

theorem landCycle_keeps {s0 s : State} (h : Keeps s0 s) : Keeps s0 (State.landCycle s) := by
  unfold State.landCycle
  try dsimp only
  repeat' first
    | intro _ | with_reducible assumption | exact rfl | with_reducible apply keeps_ite
    | with_reducible apply land_keeps | with_reducible apply keeps_foldl | with_reducible apply keeps_overIdx
    | simp only [↓keeps_mk_iff] | with_reducible apply keeps_foldl_fst | with_reducible apply keeps_foldl_snd | split

theorem unitCycle_keeps {s0 s : State} {f : LinkFrame} {u : Nat} (h : Keeps s0 s) :
    Keeps s0 (State.unitCycle s f u) := by
  unfold State.unitCycle
  try dsimp only
  repeat' first
    | intro _ | with_reducible assumption | exact rfl | with_reducible apply keeps_ite
    | with_reducible apply modLink_keeps | with_reducible apply at__keeps | with_reducible apply keeps_foldl
    | with_reducible apply keeps_overIdx | simp only [↓keeps_mk_iff] | with_reducible apply keeps_foldl_fst
    | with_reducible apply keeps_foldl_snd | split

theorem slotCycle_keeps {s0 s : State} {t : Nat} {g : Nat} (h : Keeps s0 s) : Keeps s0 (State.slotCycle s t g) := by
  unfold State.slotCycle
  try dsimp only
  repeat' first
    | intro _ | with_reducible assumption | exact rfl | with_reducible apply keeps_ite
    | with_reducible apply at__keeps | with_reducible apply keeps_foldl | with_reducible apply keeps_overIdx
    | simp only [↓keeps_mk_iff] | with_reducible apply keeps_foldl_fst | with_reducible apply keeps_foldl_snd | split

theorem startCycle_keeps {s0 s : State} (h : Keeps s0 s) : Keeps s0 (State.startCycle s) := by
  unfold State.startCycle
  try dsimp only
  repeat' first
    | intro _ | with_reducible assumption | exact rfl | with_reducible apply keeps_ite
    | with_reducible apply landCycle_keeps | with_reducible apply put_keeps | with_reducible apply modLink_keeps
    | with_reducible apply bump_keeps | with_reducible apply unitCycle_keeps | with_reducible apply slotCycle_keeps
    | with_reducible apply pumpAt_keeps | with_reducible apply at__keeps | with_reducible apply after_keeps
    | with_reducible apply keeps_foldl | with_reducible apply keeps_overIdx | simp only [↓keeps_mk_iff]
    | with_reducible apply keeps_foldl_fst | with_reducible apply keeps_foldl_snd | split

theorem runPhase_keeps {s0 s : State} (h : Keeps s0 s) : Keeps s0 (State.runPhase s) := by
  unfold State.runPhase
  try dsimp only
  repeat' first
    | intro _ | with_reducible assumption | exact rfl | with_reducible apply keeps_ite
    | with_reducible apply at__keeps | with_reducible apply modLink_keeps | with_reducible apply linkPhase_keeps
    | with_reducible apply keeps_foldl | with_reducible apply keeps_overIdx | simp only [↓keeps_mk_iff]
    | with_reducible apply keeps_foldl_fst | with_reducible apply keeps_foldl_snd | split

theorem resumeCycles_keeps {s0 s : State} (h : Keeps s0 s) : Keeps s0 (State.resumeCycles s) := by
  unfold State.resumeCycles
  try dsimp only
  repeat' first
    | intro _ | with_reducible assumption | exact rfl | with_reducible apply keeps_ite
    | with_reducible apply at__keeps | with_reducible apply modLink_keeps | with_reducible apply enumerate_keeps
    | with_reducible apply keeps_foldl | with_reducible apply keeps_overIdx | simp only [↓keeps_mk_iff]
    | with_reducible apply keeps_foldl_fst | with_reducible apply keeps_foldl_snd | split

theorem removeAcked_keeps {s0 s : State} {g : Nat} {ack : Nat} (h : Keeps s0 s) :
    Keeps s0 (State.removeAcked s g ack) := by
  unfold State.removeAcked
  try dsimp only
  repeat' first
    | intro _ | with_reducible assumption | exact rfl | with_reducible apply keeps_ite
    | with_reducible apply setFire_keeps | with_reducible apply keeps_foldl | with_reducible apply keeps_overIdx
    | simp only [↓keeps_mk_iff] | with_reducible apply keeps_foldl_fst | with_reducible apply keeps_foldl_snd | split

theorem gregReply_keeps {s0 s : State} {g : Nat} {v : Nat} (h : Keeps s0 s) : Keeps s0 (State.gregReply s g v) := by
  unfold State.gregReply
  try dsimp only
  repeat' first
    | intro _ | with_reducible assumption | exact rfl | with_reducible apply keeps_ite
    | with_reducible apply modLink_keeps | with_reducible apply put_keeps | with_reducible apply setBit_keeps
    | with_reducible apply reading_keeps | with_reducible apply keeps_foldl | with_reducible apply keeps_overIdx
    | simp only [↓keeps_mk_iff] | with_reducible apply keeps_foldl_fst | with_reducible apply keeps_foldl_snd | split

theorem auxHeld_keeps {s0 s : State} {g : Nat} {c : ReadContent} (h : Keeps s0 s) :
    Keeps s0 (State.auxHeld s g c) := by
  unfold State.auxHeld
  try dsimp only
  repeat' first
    | intro _ | with_reducible assumption | exact rfl | with_reducible apply keeps_ite
    | with_reducible apply gregReply_keeps | with_reducible apply notice_keeps | with_reducible apply keeps_foldl
    | with_reducible apply keeps_overIdx | simp only [↓keeps_mk_iff] | with_reducible apply keeps_foldl_fst
    | with_reducible apply keeps_foldl_snd | split

theorem frameHeld_keeps {s0 s : State} {g : Nat} {c : ReadContent} (h : Keeps s0 s) :
    Keeps s0 (State.frameHeld s g c) := by
  unfold State.frameHeld
  try dsimp only
  repeat' first
    | intro _ | with_reducible assumption | exact rfl | with_reducible apply keeps_ite
    | with_reducible apply put_keeps | with_reducible apply modMember_keeps | with_reducible apply auxHeld_keeps
    | with_reducible apply removeAcked_keeps | with_reducible apply countStations_keeps
    | with_reducible apply zonesUpdate_keeps | with_reducible apply askHold_keeps | with_reducible apply pump_keeps
    | with_reducible apply keeps_foldl | with_reducible apply keeps_overIdx | simp only [↓keeps_mk_iff]
    | with_reducible apply keeps_foldl_fst | with_reducible apply keeps_foldl_snd | split

theorem slotFrame_keeps {s0 s : State} {u : Nat} {a : Nat} {rx : Rx} (h : Keeps s0 s) :
    Keeps s0 (State.slotFrame s u a rx) := by
  unfold State.slotFrame
  try dsimp only
  repeat' first
    | intro _ | with_reducible assumption | exact rfl | with_reducible apply keeps_ite
    | with_reducible apply setStation_keeps | with_reducible apply frameHeld_keeps | with_reducible apply bump_keeps
    | with_reducible apply bumpBy_keeps | with_reducible apply keeps_foldl | with_reducible apply keeps_overIdx
    | simp only [↓keeps_mk_iff] | with_reducible apply keeps_foldl_fst | with_reducible apply keeps_foldl_snd | split

theorem slotMiss_keeps {s0 s : State} {g : Nat} {m_ : Member} (h : Keeps s0 s) :
    Keeps s0 (State.slotMiss s g m_) := by
  unfold State.slotMiss
  try dsimp only
  repeat' first
    | intro _ | with_reducible assumption | exact rfl | with_reducible apply keeps_ite
    | with_reducible apply modMember_keeps | with_reducible apply put_keeps | with_reducible apply bump_keeps
    | with_reducible apply sticky_keeps | with_reducible apply galleryGap_keeps
    | with_reducible apply undeliverable_keeps | with_reducible apply pump_keeps | with_reducible apply keeps_foldl
    | with_reducible apply keeps_overIdx | simp only [↓keeps_mk_iff] | with_reducible apply keeps_foldl_fst
    | with_reducible apply keeps_foldl_snd | split

theorem markerBack_keeps {s0 s : State} {d : Nat} (h : Keeps s0 s) : Keeps s0 (State.markerBack s d) := by
  unfold State.markerBack
  try dsimp only
  repeat' first
    | intro _ | with_reducible assumption | exact rfl | with_reducible apply keeps_ite
    | with_reducible apply modLink_keeps | with_reducible apply put_keeps | with_reducible apply notice_keeps
    | with_reducible apply setBit_keeps | with_reducible apply keeps_foldl | with_reducible apply keeps_overIdx
    | simp only [↓keeps_mk_iff] | with_reducible apply keeps_foldl_fst | with_reducible apply keeps_foldl_snd | split

theorem writeGreg_keeps {s0 s : State} {data : Nat} (h : Keeps s0 s) : Keeps s0 (State.writeGreg s data) := by
  unfold State.writeGreg
  try dsimp only
  repeat' first
    | intro _ | with_reducible assumption | exact rfl | with_reducible apply keeps_ite
    | with_reducible apply put_keeps | with_reducible apply modLink_keeps | with_reducible apply gregFail_keeps
    | with_reducible apply pump_keeps | with_reducible apply keeps_foldl | with_reducible apply keeps_overIdx
    | simp only [↓keeps_mk_iff] | with_reducible apply keeps_foldl_fst | with_reducible apply keeps_foldl_snd | split

theorem modBoot_keeps {s0 s : State} {f : Boot → Boot} (h : Keeps s0 s) : Keeps s0 (State.modBoot s f) := by
  unfold State.modBoot
  try dsimp only
  repeat' first
    | intro _ | with_reducible assumption | exact rfl | with_reducible apply keeps_ite
    | with_reducible apply keeps_foldl | with_reducible apply keeps_overIdx | simp only [↓keeps_mk_iff]
    | with_reducible apply keeps_foldl_fst | with_reducible apply keeps_foldl_snd | split

theorem modStair_keeps {s0 s : State} {f : Stair → Stair} (h : Keeps s0 s) : Keeps s0 (State.modStair s f) := by
  unfold State.modStair
  try dsimp only
  repeat' first
    | intro _ | with_reducible assumption | exact rfl | with_reducible apply keeps_ite
    | with_reducible apply keeps_foldl | with_reducible apply keeps_overIdx | simp only [↓keeps_mk_iff]
    | with_reducible apply keeps_foldl_fst | with_reducible apply keeps_foldl_snd | split

theorem toStage_keeps {s0 s : State} {n : Nat} (h : Keeps s0 s) : Keeps s0 (State.toStage s n) := by
  unfold State.toStage
  try dsimp only
  repeat' first
    | intro _ | with_reducible assumption | exact rfl | with_reducible apply keeps_ite
    | with_reducible apply put_keeps | with_reducible apply keeps_foldl | with_reducible apply keeps_overIdx
    | simp only [↓keeps_mk_iff] | with_reducible apply keeps_foldl_fst | with_reducible apply keeps_foldl_snd | split

theorem pinsCarry_keeps {s0 s : State} {ohms : List Nat} (h : Keeps s0 s) : Keeps s0 (State.pinsCarry s ohms) := by
  unfold State.pinsCarry
  try dsimp only
  repeat' first
    | intro _ | with_reducible assumption | exact rfl | with_reducible apply keeps_ite
    | with_reducible apply modBoot_keeps | with_reducible apply keeps_foldl | with_reducible apply keeps_overIdx
    | simp only [↓keeps_mk_iff] | with_reducible apply keeps_foldl_fst | with_reducible apply keeps_foldl_snd | split

theorem beginLock_keeps {s0 s : State} (h : Keeps s0 s) : Keeps s0 (State.beginLock s) := by
  unfold State.beginLock
  try dsimp only
  repeat' first
    | intro _ | with_reducible assumption | exact rfl | with_reducible apply keeps_ite
    | with_reducible apply after_keeps | with_reducible apply toStage_keeps | with_reducible apply keeps_foldl
    | with_reducible apply keeps_overIdx | simp only [↓keeps_mk_iff] | with_reducible apply keeps_foldl_fst
    | with_reducible apply keeps_foldl_snd | split

theorem decodeValid_keeps {s0 s : State} {ohms : List Nat} (h : Keeps s0 s) :
    Keeps s0 (State.decodeValid s ohms) := by
  unfold State.decodeValid
  try dsimp only
  repeat' first
    | intro _ | with_reducible assumption | exact rfl | with_reducible apply keeps_ite
    | with_reducible apply pinsCarry_keeps | with_reducible apply readStrap_keeps
    | with_reducible apply withdraw_keeps | with_reducible apply put_keeps | with_reducible apply modBoot_keeps
    | with_reducible apply beginLock_keeps | with_reducible apply keeps_foldl | with_reducible apply keeps_overIdx
    | simp only [↓keeps_mk_iff] | with_reducible apply keeps_foldl_fst | with_reducible apply keeps_foldl_snd | split

theorem strapLimits_keeps {s0 s : State} (h : Keeps s0 s) : Keeps s0 (State.strapLimits s) := by
  unfold State.strapLimits
  try dsimp only
  repeat' first
    | intro _ | with_reducible assumption | exact rfl | with_reducible apply keeps_ite
    | with_reducible apply put_keeps | with_reducible apply setEff_keeps | with_reducible apply keeps_foldl
    | with_reducible apply keeps_overIdx | simp only [↓keeps_mk_iff] | with_reducible apply keeps_foldl_fst
    | with_reducible apply keeps_foldl_snd | split

theorem strapMeanings_keeps {s0 s : State} {l : Nat → Nat} (h : Keeps s0 s) : Keeps s0 (State.strapMeanings s l) := by
  unfold State.strapMeanings
  try dsimp only
  repeat' first
    | intro _ | with_reducible assumption | exact rfl | with_reducible apply keeps_ite
    | with_reducible apply put_keeps | with_reducible apply keeps_foldl | with_reducible apply keeps_overIdx
    | simp only [↓keeps_mk_iff] | with_reducible apply keeps_foldl_fst | with_reducible apply keeps_foldl_snd | split

theorem strapsLatch_keeps {s0 s : State} {ohms : List Nat} (h : Keeps s0 s) :
    Keeps s0 (State.strapsLatch s ohms) := by
  unfold State.strapsLatch
  try dsimp only
  repeat' first
    | intro _ | with_reducible assumption | exact rfl | with_reducible apply keeps_ite
    | with_reducible apply pinsCarry_keeps | with_reducible apply readStraps_keeps | with_reducible apply setReg_keeps
    | with_reducible apply modBoot_keeps | with_reducible apply strapLimits_keeps
    | with_reducible apply strapMeanings_keeps | with_reducible apply withdraw_keeps
    | with_reducible apply notice_keeps | with_reducible apply keeps_foldl | with_reducible apply keeps_overIdx
    | simp only [↓keeps_mk_iff] | with_reducible apply keeps_foldl_fst | with_reducible apply keeps_foldl_snd | split

theorem softLock_keeps {s0 s : State} {bits : Nat} (h : Keeps s0 s) : Keeps s0 (State.softLock s bits) := by
  unfold State.softLock
  try dsimp only
  repeat' first
    | intro _ | with_reducible assumption | exact rfl | with_reducible apply keeps_ite
    | with_reducible apply setBit_keeps | with_reducible apply keeps_foldl | with_reducible apply keeps_overIdx
    | simp only [↓keeps_mk_iff] | with_reducible apply keeps_foldl_fst | with_reducible apply keeps_foldl_snd | split

theorem regs_wf_sets (l : List (Nat × Word)) {r : Regs} (h : r.wf = true) :
    Regs.wf (l.foldl (fun r x => Regs.set r x.1 x.2) r) = true := by
  induction l generalizing r with
  | nil => exact h
  | cons a l ih => exact ih (Regs.wf_set _ _ h)

/-- The landing registers in effect at power-on reset are in canonical form. -/
theorem resetEff_wf : Regs.wf resetEff = true := by decide +kernel

theorem regsReset_keeps {s0 s : State} {keep : Nat → Bool} (h : Keeps s0 s) : Keeps s0 (State.regsReset s keep) := by
  unfold State.regsReset
  refine ⟨h.pending, h.now, h.wear, h.rollback, fun w => ?_⟩
  have := h.wf w
  simp only [State.memWf, Bool.and_eq_true] at this ⊢
  exact ⟨⟨⟨⟨⟨regs_wf_sets _ (Regs.wf_filter _ this.1.1.1.1.1), this.1.1.1.1.2⟩, this.1.1.1.2⟩, this.1.1.2⟩, this.1.2⟩, this.2⟩

theorem pcieReset_keeps {s0 s : State} (h : Keeps s0 s) : Keeps s0 (State.pcieReset s) := by
  unfold State.pcieReset
  try dsimp only
  repeat' first
    | intro _ | with_reducible assumption | exact rfl | with_reducible apply keeps_ite
    | with_reducible apply keeps_foldl | with_reducible apply keeps_overIdx | simp only [↓keeps_mk_iff]
    | with_reducible apply keeps_foldl_fst | with_reducible apply keeps_foldl_snd | split

theorem restart_keeps {s0 s : State} {keep : Nat → Bool} (h : Keeps s0 s) : Keeps s0 (State.restart s keep) := by
  unfold State.restart
  refine put_keeps (pcieReset_keeps (regsReset_keeps ?_))
  refine ⟨h.pending, h.now, h.wear, h.rollback, fun w => ?_⟩
  have := h.wf w
  simp only [State.memWf, Bool.and_eq_true] at this ⊢
  exact ⟨⟨⟨⟨⟨this.1.1.1.1.1, resetEff_wf⟩, rfl⟩, this.1.1.2⟩, this.1.2⟩, this.2⟩

theorem arcFinish_keeps {s0 s : State} (h : Keeps s0 s) : Keeps s0 (State.arcFinish s) := by
  unfold State.arcFinish
  try dsimp only
  repeat' first
    | intro _ | with_reducible assumption | exact rfl | with_reducible apply keeps_ite
    | with_reducible apply blockIs_keeps | with_reducible apply rollbackTo_keeps | with_reducible apply keeps_foldl
    | with_reducible apply keeps_overIdx | simp only [↓keeps_mk_iff] | with_reducible apply keeps_foldl_fst
    | with_reducible apply keeps_foldl_snd | split

theorem arcTorn_keeps {s0 s : State} (h : Keeps s0 s) : Keeps s0 (State.arcTorn s) := by
  unfold State.arcTorn
  try dsimp only
  repeat' first
    | intro _ | with_reducible assumption | exact rfl | with_reducible apply keeps_ite
    | with_reducible apply free_keeps | with_reducible apply blockIs_keeps | with_reducible apply rollbackTo_keeps
    | with_reducible apply keeps_foldl | with_reducible apply keeps_overIdx | simp only [↓keeps_mk_iff]
    | with_reducible apply keeps_foldl_fst | with_reducible apply keeps_foldl_snd | split

theorem beginTraining_keeps {s0 s : State} (h : Keeps s0 s) : Keeps s0 (State.beginTraining s) := by
  unfold State.beginTraining
  try dsimp only
  repeat' first
    | intro _ | with_reducible assumption | exact rfl | with_reducible apply keeps_ite
    | with_reducible apply after_keeps | with_reducible apply modBoot_keeps | with_reducible apply toStage_keeps
    | with_reducible apply keeps_foldl | with_reducible apply keeps_overIdx | simp only [↓keeps_mk_iff]
    | with_reducible apply keeps_foldl_fst | with_reducible apply keeps_foldl_snd | split

theorem pcieFree_keeps {s0 s : State} (h : Keeps s0 s) : Keeps s0 (State.pcieFree s) := by
  unfold State.pcieFree
  try dsimp only
  repeat' first
    | intro _ | with_reducible assumption | exact rfl | with_reducible apply keeps_ite
    | with_reducible apply put_keeps | with_reducible apply keeps_foldl | with_reducible apply keeps_overIdx
    | simp only [↓keeps_mk_iff] | with_reducible apply keeps_foldl_fst | with_reducible apply keeps_foldl_snd | split

theorem fullReset_keeps {s0 s : State} (h : Keeps s0 s) : Keeps s0 (State.fullReset s) := by
  unfold State.fullReset
  try dsimp only
  repeat' first
    | intro _ | with_reducible assumption | exact rfl | with_reducible apply keeps_ite
    | with_reducible apply arcFinish_keeps | with_reducible apply stopCycles_keeps
    | with_reducible apply restart_keeps | with_reducible apply strapLimits_keeps | with_reducible apply bump_keeps
    | with_reducible apply put_keeps | with_reducible apply commitNext_keeps | with_reducible apply commit_keeps
    | with_reducible apply pcieFree_keeps | with_reducible apply beginTraining_keeps
    | with_reducible apply lockStart_keeps | with_reducible apply toStage_keeps | with_reducible apply pllStop_keeps
    | with_reducible apply keeps_foldl | with_reducible apply keeps_overIdx | simp only [↓keeps_mk_iff]
    | with_reducible apply keeps_foldl_fst | with_reducible apply keeps_foldl_snd | split

theorem askFull_keeps {s0 s : State} (h : Keeps s0 s) : Keeps s0 (State.askFull s) := by
  unfold State.askFull
  try dsimp only
  repeat' first
    | intro _ | with_reducible assumption | exact rfl | with_reducible apply keeps_ite
    | with_reducible apply fullReset_keeps | with_reducible apply modBoot_keeps | with_reducible apply withdraw_keeps
    | with_reducible apply toStage_keeps | with_reducible apply after_keeps | with_reducible apply keeps_foldl
    | with_reducible apply keeps_overIdx | simp only [↓keeps_mk_iff] | with_reducible apply keeps_foldl_fst
    | with_reducible apply keeps_foldl_snd | split

theorem perstIn_keeps {s0 s : State} (h : Keeps s0 s) : Keeps s0 (State.perstIn s) := by
  unfold State.perstIn
  try dsimp only
  repeat' first
    | intro _ | with_reducible assumption | exact rfl | with_reducible apply keeps_ite
    | with_reducible apply modBoot_keeps | with_reducible apply askFull_keeps | with_reducible apply setBit_keeps
    | with_reducible apply setReg_keeps | with_reducible apply keeps_foldl | with_reducible apply keeps_overIdx
    | simp only [↓keeps_mk_iff] | with_reducible apply keeps_foldl_fst | with_reducible apply keeps_foldl_snd | split

theorem softFull_keeps {s0 s : State} (h : Keeps s0 s) : Keeps s0 (State.softFull s) := by
  unfold State.softFull
  try dsimp only
  repeat' first
    | intro _ | with_reducible assumption | exact rfl | with_reducible apply keeps_ite
    | with_reducible apply setBit_keeps | with_reducible apply askFull_keeps | with_reducible apply keeps_foldl
    | with_reducible apply keeps_overIdx | simp only [↓keeps_mk_iff] | with_reducible apply keeps_foldl_fst
    | with_reducible apply keeps_foldl_snd | split

end Sys2Proof.Machine
end

