-- ==== Sys2Proof/Laws/Keeps6.lean ====
section
/-! SUPPORT. `Keeps` is carried through every operation of the model, part 6 of 6. -/

namespace Sys2Proof.Machine

theorem ringsReset_keeps {s0 s : State} (h : Keeps s0 s) : Keeps s0 (State.ringsReset s) := by
  unfold State.ringsReset
  try dsimp only
  repeat' first
    | intro _ | with_reducible assumption | exact rfl | with_reducible apply keeps_ite
    | with_reducible apply put_keeps | with_reducible apply regsReset_keeps | with_reducible apply keeps_foldl
    | with_reducible apply keeps_overIdx | simp only [↓keeps_mk_iff] | with_reducible apply keeps_foldl_fst
    | with_reducible apply keeps_foldl_snd | split

theorem hostReset_keeps {s0 s : State} {cause : Fld} (h : Keeps s0 s) : Keeps s0 (State.hostReset s cause) := by
  unfold State.hostReset
  try dsimp only
  repeat' first
    | intro _ | with_reducible assumption | exact rfl | with_reducible apply keeps_ite
    | with_reducible apply pcieReset_keeps | with_reducible apply ringsReset_keeps | with_reducible apply bump_keeps
    | with_reducible apply setBit_keeps | with_reducible apply modBoot_keeps | with_reducible apply abortMask_keeps
    | with_reducible apply writersLose_keeps | with_reducible apply emptyQueue_keeps
    | with_reducible apply keeps_foldl | with_reducible apply keeps_overIdx | simp only [↓keeps_mk_iff]
    | with_reducible apply keeps_foldl_fst | with_reducible apply keeps_foldl_snd | split

theorem softHost_keeps {s0 s : State} (h : Keeps s0 s) : Keeps s0 (State.softHost s) := by
  unfold State.softHost
  try dsimp only
  repeat' first
    | intro _ | with_reducible assumption | exact rfl | with_reducible apply keeps_ite
    | with_reducible apply hostReset_keeps | with_reducible apply keeps_foldl | with_reducible apply keeps_overIdx
    | simp only [↓keeps_mk_iff] | with_reducible apply keeps_foldl_fst | with_reducible apply keeps_foldl_snd | split

theorem locked_keeps {s0 s : State} (h : Keeps s0 s) : Keeps s0 (State.locked s) := by
  unfold State.locked
  try dsimp only
  repeat' first
    | intro _ | with_reducible assumption | exact rfl | with_reducible apply keeps_ite
    | with_reducible apply modNewel_keeps | with_reducible apply put_keeps | with_reducible apply commitNext_keeps
    | with_reducible apply keeps_foldl | with_reducible apply keeps_overIdx | simp only [↓keeps_mk_iff]
    | with_reducible apply keeps_foldl_fst | with_reducible apply keeps_foldl_snd | split

theorem afterLock_keeps {s0 s : State} (h : Keeps s0 s) : Keeps s0 (State.afterLock s) := by
  unfold State.afterLock
  try dsimp only
  repeat' first
    | intro _ | with_reducible assumption | exact rfl | with_reducible apply keeps_ite
    | with_reducible apply fullReset_keeps | with_reducible apply at__keeps | with_reducible apply pcieFree_keeps
    | with_reducible apply beginTraining_keeps | with_reducible apply after_keeps | with_reducible apply keeps_foldl
    | with_reducible apply keeps_overIdx | simp only [↓keeps_mk_iff] | with_reducible apply keeps_foldl_fst
    | with_reducible apply keeps_foldl_snd | split

theorem coldBoot_keeps {s0 s : State} (h : Keeps s0 s) : Keeps s0 (State.coldBoot s) := by
  unfold State.coldBoot
  try dsimp only
  repeat' first
    | intro _ | with_reducible assumption | exact rfl | with_reducible apply keeps_ite
    | with_reducible apply toStage_keeps | with_reducible apply beginLock_keeps | with_reducible apply after_keeps
    | with_reducible apply keeps_foldl | with_reducible apply keeps_overIdx | simp only [↓keeps_mk_iff]
    | with_reducible apply keeps_foldl_fst | with_reducible apply keeps_foldl_snd | split

theorem vaultExit_keeps {s0 s : State} (h : Keeps s0 s) : Keeps s0 (State.vaultExit s) := by
  unfold State.vaultExit
  try dsimp only
  repeat' first
    | intro _ | with_reducible assumption | exact rfl | with_reducible apply keeps_ite
    | with_reducible apply modBoot_keeps | with_reducible apply restart_keeps | with_reducible apply modNewel_keeps
    | with_reducible apply coldBoot_keeps | with_reducible apply setBit_keeps | with_reducible apply keeps_foldl
    | with_reducible apply keeps_overIdx | simp only [↓keeps_mk_iff] | with_reducible apply keeps_foldl_fst
    | with_reducible apply keeps_foldl_snd | split

theorem supplyLost_keeps {s0 s : State} {main : Bool} (h : Keeps s0 s) : Keeps s0 (State.supplyLost s main) := by
  unfold State.supplyLost
  try dsimp only
  repeat' first
    | intro _ | with_reducible assumption | exact rfl | with_reducible apply keeps_ite
    | with_reducible apply modBoot_keeps | with_reducible apply arcTorn_keeps | with_reducible apply restart_keeps
    | with_reducible apply modNewel_keeps | with_reducible apply keeps_foldl | with_reducible apply keeps_overIdx
    | simp only [↓keeps_mk_iff] | with_reducible apply keeps_foldl_fst | with_reducible apply keeps_foldl_snd | split

theorem bootHold_keeps {s0 s : State} (h : Keeps s0 s) : Keeps s0 (State.bootHold s) := by
  unfold State.bootHold
  try dsimp only
  repeat' first
    | intro _ | with_reducible assumption | exact rfl | with_reducible apply keeps_ite
    | with_reducible apply toStage_keeps | with_reducible apply keeps_foldl | with_reducible apply keeps_overIdx
    | simp only [↓keeps_mk_iff] | with_reducible apply keeps_foldl_fst | with_reducible apply keeps_foldl_snd | split

theorem showSlot_keeps {s0 s : State} {i : Nat} (h : Keeps s0 s) : Keeps s0 (State.showSlot s i) := by
  unfold State.showSlot
  try dsimp only
  repeat' first
    | intro _ | with_reducible assumption | exact rfl | with_reducible apply keeps_ite
    | with_reducible apply put_keeps | with_reducible apply keeps_foldl | with_reducible apply keeps_overIdx
    | simp only [↓keeps_mk_iff] | with_reducible apply keeps_foldl_fst | with_reducible apply keeps_foldl_snd | split

theorem checkSoon_keeps {s0 s : State} (h : Keeps s0 s) : Keeps s0 (State.checkSoon s) := by
  unfold State.checkSoon
  try dsimp only
  repeat' first
    | intro _ | with_reducible assumption | exact rfl | with_reducible apply keeps_ite
    | with_reducible apply after_keeps | with_reducible apply keeps_foldl | with_reducible apply keeps_overIdx
    | simp only [↓keeps_mk_iff] | with_reducible apply keeps_foldl_fst | with_reducible apply keeps_foldl_snd | split

theorem storeTrained_keeps {s0 s : State} {ok : Bool} (h : Keeps s0 s) : Keeps s0 (State.storeTrained s ok) := by
  unfold State.storeTrained
  try dsimp only
  repeat' first
    | intro _ | with_reducible assumption | exact rfl | with_reducible apply keeps_ite
    | with_reducible apply withdraw_keeps | with_reducible apply showSlot_keeps | with_reducible apply put_keeps
    | with_reducible apply checkSoon_keeps | with_reducible apply toStage_keeps | with_reducible apply modBoot_keeps
    | with_reducible apply bootHold_keeps | with_reducible apply keeps_foldl | with_reducible apply keeps_overIdx
    | simp only [↓keeps_mk_iff] | with_reducible apply keeps_foldl_fst | with_reducible apply keeps_foldl_snd | split

theorem copyFirmware_keeps {s0 s : State} {i : Nat} (h : Keeps s0 s) : Keeps s0 (State.copyFirmware s i) := by
  unfold State.copyFirmware
  try dsimp only
  repeat' first
    | intro _ | with_reducible assumption | exact rfl | with_reducible apply keeps_ite
    | with_reducible apply storeWrite_keeps | with_reducible apply keeps_foldl | with_reducible apply keeps_overIdx
    | simp only [↓keeps_mk_iff] | with_reducible apply keeps_foldl_fst | with_reducible apply keeps_foldl_snd | split

theorem slotRuns_keeps {s0 s : State} {i : Nat} (h : Keeps s0 s) : Keeps s0 (State.slotRuns s i) := by
  unfold State.slotRuns
  try dsimp only
  repeat' first
    | intro _ | with_reducible assumption | exact rfl | with_reducible apply keeps_ite
    | with_reducible apply put_keeps | with_reducible apply after_keeps | with_reducible apply toStage_keeps
    | with_reducible apply keeps_foldl | with_reducible apply keeps_overIdx | simp only [↓keeps_mk_iff]
    | with_reducible apply keeps_foldl_fst | with_reducible apply keeps_foldl_snd | split

theorem firmwareChecked_keeps {s0 s : State} {sig : Option Bool} {corr : Nat} (h : Keeps s0 s) :
    Keeps s0 (State.firmwareChecked s sig corr) := by
  unfold State.firmwareChecked
  try dsimp only
  repeat' first
    | intro _ | with_reducible assumption | exact rfl | with_reducible apply keeps_ite
    | with_reducible apply bumpBy_keeps | with_reducible apply withdraw_keeps | with_reducible apply free_keeps
    | with_reducible apply put_keeps | with_reducible apply copyFirmware_keeps | with_reducible apply modBoot_keeps
    | with_reducible apply slotRuns_keeps | with_reducible apply bootHold_keeps | with_reducible apply checkSoon_keeps
    | with_reducible apply keeps_foldl | with_reducible apply keeps_overIdx | simp only [↓keeps_mk_iff]
    | with_reducible apply keeps_foldl_fst | with_reducible apply keeps_foldl_snd | split

theorem calibrate_keeps {s0 s : State} {good : Bool} (h : Keeps s0 s) : Keeps s0 (State.calibrate s good) := by
  unfold State.calibrate
  try dsimp only
  repeat' first
    | intro _ | with_reducible assumption | exact rfl | with_reducible apply keeps_ite
    | with_reducible apply storeWrite_keeps | with_reducible apply storeClear_keeps | with_reducible apply keeps_foldl
    | with_reducible apply keeps_overIdx | simp only [↓keeps_mk_iff] | with_reducible apply keeps_foldl_fst
    | with_reducible apply keeps_foldl_snd | split

theorem calibrationLoaded_keeps {s0 s : State} {corr : Nat} (h : Keeps s0 s) :
    Keeps s0 (State.calibrationLoaded s corr) := by
  unfold State.calibrationLoaded
  try dsimp only
  repeat' first
    | intro _ | with_reducible assumption | exact rfl | with_reducible apply keeps_ite
    | with_reducible apply bumpBy_keeps | with_reducible apply withdraw_keeps | with_reducible apply put_keeps
    | with_reducible apply calibrate_keeps | with_reducible apply after_keeps
    | with_reducible apply thermalStart_keeps | with_reducible apply toStage_keeps | with_reducible apply keeps_foldl
    | with_reducible apply keeps_overIdx | simp only [↓keeps_mk_iff] | with_reducible apply keeps_foldl_fst
    | with_reducible apply keeps_foldl_snd | split

theorem woke_keeps {s0 s : State} {left : Nat} (h : Keeps s0 s) : Keeps s0 (State.woke s left) := by
  unfold State.woke
  try dsimp only
  repeat' first
    | intro _ | with_reducible assumption | exact rfl | with_reducible apply keeps_ite
    | with_reducible apply notice_keeps | with_reducible apply keeps_foldl | with_reducible apply keeps_overIdx
    | simp only [↓keeps_mk_iff] | with_reducible apply keeps_foldl_fst | with_reducible apply keeps_foldl_snd | split

theorem bootDone_keeps {s0 s : State} (h : Keeps s0 s) : Keeps s0 (State.bootDone s) := by
  unfold State.bootDone
  try dsimp only
  repeat' first
    | intro _ | with_reducible assumption | exact rfl | with_reducible apply keeps_ite
    | with_reducible apply withdraw_keeps | with_reducible apply put_keeps | with_reducible apply toStage_keeps
    | with_reducible apply modStair_keeps | with_reducible apply woke_keeps | with_reducible apply modBoot_keeps
    | with_reducible apply startEntry_keeps | with_reducible apply keeps_foldl | with_reducible apply keeps_overIdx
    | simp only [↓keeps_mk_iff] | with_reducible apply keeps_foldl_fst | with_reducible apply keeps_foldl_snd | split

theorem parkBack_keeps {s0 s : State} (h : Keeps s0 s) : Keeps s0 (State.parkBack s) := by
  unfold State.parkBack
  try dsimp only
  repeat' first
    | intro _ | with_reducible assumption | exact rfl | with_reducible apply keeps_ite
    | with_reducible apply modStair_keeps | with_reducible apply modLink_keeps | with_reducible apply keeps_foldl
    | with_reducible apply keeps_overIdx | simp only [↓keeps_mk_iff] | with_reducible apply keeps_foldl_fst
    | with_reducible apply keeps_foldl_snd | split

theorem startClimb_keeps {s0 s : State} {toRun : Bool} (h : Keeps s0 s) : Keeps s0 (State.startClimb s toRun) := by
  unfold State.startClimb
  try dsimp only
  repeat' first
    | intro _ | with_reducible assumption | exact rfl | with_reducible apply keeps_ite
    | with_reducible apply put_keeps | with_reducible apply bump_keeps | with_reducible apply modStair_keeps
    | with_reducible apply vaultExit_keeps | with_reducible apply modBoot_keeps | with_reducible apply after_keeps
    | with_reducible apply keeps_foldl | with_reducible apply keeps_overIdx | simp only [↓keeps_mk_iff]
    | with_reducible apply keeps_foldl_fst | with_reducible apply keeps_foldl_snd | split

theorem runBack_keeps {s0 s : State} (h : Keeps s0 s) : Keeps s0 (State.runBack s) := by
  unfold State.runBack
  try dsimp only
  repeat' first
    | intro _ | with_reducible assumption | exact rfl | with_reducible apply keeps_ite
    | with_reducible apply regainSlots_keeps | with_reducible apply modStair_keeps | with_reducible apply keeps_foldl
    | with_reducible apply keeps_overIdx | simp only [↓keeps_mk_iff] | with_reducible apply keeps_foldl_fst
    | with_reducible apply keeps_foldl_snd | split

theorem abortEntry_keeps {s0 s : State} {toRun : Bool} (h : Keeps s0 s) : Keeps s0 (State.abortEntry s toRun) := by
  unfold State.abortEntry
  try dsimp only
  repeat' first
    | intro _ | with_reducible assumption | exact rfl | with_reducible apply keeps_ite
    | with_reducible apply withdraw_keeps | with_reducible apply setBit_keeps | with_reducible apply bump_keeps
    | with_reducible apply put_keeps | with_reducible apply notice_keeps | with_reducible apply runBack_keeps
    | with_reducible apply startClimb_keeps | with_reducible apply kick_keeps | with_reducible apply dispatchAll_keeps
    | with_reducible apply resumeCycles_keeps | with_reducible apply parkBack_keeps | with_reducible apply keeps_foldl
    | with_reducible apply keeps_overIdx | simp only [↓keeps_mk_iff] | with_reducible apply keeps_foldl_fst
    | with_reducible apply keeps_foldl_snd | split

theorem wakeUp_keeps {s0 s : State} {toRun : Bool} (h : Keeps s0 s) : Keeps s0 (State.wakeUp s toRun) := by
  unfold State.wakeUp
  try dsimp only
  repeat' first
    | intro _ | with_reducible assumption | exact rfl | with_reducible apply keeps_ite
    | with_reducible apply modStair_keeps | with_reducible apply abortEntry_keeps
    | with_reducible apply startClimb_keeps | with_reducible apply keeps_foldl | with_reducible apply keeps_overIdx
    | simp only [↓keeps_mk_iff] | with_reducible apply keeps_foldl_fst | with_reducible apply keeps_foldl_snd | split

theorem unitIn_keeps {s0 s : State} (h : Keeps s0 s) : Keeps s0 (State.unitIn s) := by
  unfold State.unitIn
  try dsimp only
  repeat' first
    | intro _ | with_reducible assumption | exact rfl | with_reducible apply keeps_ite
    | with_reducible apply wakeUp_keeps | with_reducible apply setBit_keeps | with_reducible apply keeps_foldl
    | with_reducible apply keeps_overIdx | simp only [↓keeps_mk_iff] | with_reducible apply keeps_foldl_fst
    | with_reducible apply keeps_foldl_snd | split

theorem phraseIn_keeps {s0 s : State} {begun : Nat} (h : Keeps s0 s) : Keeps s0 (State.phraseIn s begun) := by
  unfold State.phraseIn
  try dsimp only
  repeat' first
    | intro _ | with_reducible assumption | exact rfl | with_reducible apply keeps_ite
    | with_reducible apply wakeUp_keeps | with_reducible apply setBit_keeps | with_reducible apply keeps_foldl
    | with_reducible apply keeps_overIdx | simp only [↓keeps_mk_iff] | with_reducible apply keeps_foldl_fst
    | with_reducible apply keeps_foldl_snd | split

theorem replaceTarget_keeps {s0 s : State} {v : Nat} (h : Keeps s0 s) : Keeps s0 (State.replaceTarget s v) := by
  unfold State.replaceTarget
  try dsimp only
  repeat' first
    | intro _ | with_reducible assumption | exact rfl | with_reducible apply keeps_ite
    | with_reducible apply withdraw_keeps | with_reducible apply modStair_keeps | with_reducible apply put_keeps
    | with_reducible apply parkBack_keeps | with_reducible apply pollQuiesce_keeps
    | with_reducible apply dispatchAll_keeps | with_reducible apply keeps_foldl | with_reducible apply keeps_overIdx
    | simp only [↓keeps_mk_iff] | with_reducible apply keeps_foldl_fst | with_reducible apply keeps_foldl_snd | split

theorem seekStep_keeps {s0 s : State} {v : Nat} (h : Keeps s0 s) : Keeps s0 (State.seekStep s v) := by
  unfold State.seekStep
  try dsimp only
  repeat' first
    | intro _ | with_reducible assumption | exact rfl | with_reducible apply keeps_ite
    | with_reducible apply wakeUp_keeps | with_reducible apply setBit_keeps | with_reducible apply modStair_keeps
    | with_reducible apply replaceTarget_keeps | with_reducible apply startEntry_keeps
    | with_reducible apply keeps_foldl | with_reducible apply keeps_overIdx | simp only [↓keeps_mk_iff]
    | with_reducible apply keeps_foldl_fst | with_reducible apply keeps_foldl_snd | split

theorem writeTarget_keeps {s0 s : State} {v : Nat} (h : Keeps s0 s) : Keeps s0 (State.writeTarget s v) := by
  unfold State.writeTarget
  try dsimp only
  repeat' first
    | intro _ | with_reducible assumption | exact rfl | with_reducible apply keeps_ite
    | with_reducible apply refuse_keeps | with_reducible apply put_keeps | with_reducible apply seekStep_keeps
    | with_reducible apply keeps_foldl | with_reducible apply keeps_overIdx | simp only [↓keeps_mk_iff]
    | with_reducible apply keeps_foldl_fst | with_reducible apply keeps_foldl_snd | split

theorem linkSleep_keeps {s0 s : State} {low : Bool} (h : Keeps s0 s) : Keeps s0 (State.linkSleep s low) := by
  unfold State.linkSleep
  try dsimp only
  repeat' first
    | intro _ | with_reducible assumption | exact rfl | with_reducible apply keeps_ite
    | with_reducible apply put_keeps | with_reducible apply keeps_foldl | with_reducible apply keeps_overIdx
    | simp only [↓keeps_mk_iff] | with_reducible apply keeps_foldl_fst | with_reducible apply keeps_foldl_snd | split

theorem quiesceOver_keeps {s0 s : State} (h : Keeps s0 s) : Keeps s0 (State.quiesceOver s) := by
  unfold State.quiesceOver
  try dsimp only
  repeat' first
    | intro _ | with_reducible assumption | exact rfl | with_reducible apply keeps_ite
    | with_reducible apply modLink_keeps | with_reducible apply put_keeps | with_reducible apply after_keeps
    | with_reducible apply modStair_keeps | with_reducible apply keeps_foldl | with_reducible apply keeps_overIdx
    | simp only [↓keeps_mk_iff] | with_reducible apply keeps_foldl_fst | with_reducible apply keeps_foldl_snd | split

theorem quiesceLook_keeps {s0 s : State} (h : Keeps s0 s) : Keeps s0 (State.quiesceLook s) := by
  unfold State.quiesceLook
  try dsimp only
  repeat' first
    | intro _ | with_reducible assumption | exact rfl | with_reducible apply keeps_ite
    | with_reducible apply linkSleep_keeps | with_reducible apply quiesceOver_keeps | with_reducible apply after_keeps
    | with_reducible apply put_keeps | with_reducible apply keeps_foldl | with_reducible apply keeps_overIdx
    | simp only [↓keeps_mk_iff] | with_reducible apply keeps_foldl_fst | with_reducible apply keeps_foldl_snd | split

theorem commitTick_keeps {s0 s : State} (h : Keeps s0 s) : Keeps s0 (State.commitTick s) := by
  unfold State.commitTick
  try dsimp only
  repeat' first
    | intro _ | with_reducible assumption | exact rfl | with_reducible apply keeps_ite
    | with_reducible apply withdraw_keeps | with_reducible apply modStair_keeps | with_reducible apply put_keeps
    | with_reducible apply putPair_keeps | with_reducible apply after_keeps | with_reducible apply keeps_foldl
    | with_reducible apply keeps_overIdx | simp only [↓keeps_mk_iff] | with_reducible apply keeps_foldl_fst
    | with_reducible apply keeps_foldl_snd | split

theorem isetOff_keeps {s0 s : State} {j : Nat} (h : Keeps s0 s) : Keeps s0 (State.isetOff s j) := by
  unfold State.isetOff
  try dsimp only
  repeat' first
    | intro _ | with_reducible assumption | exact rfl | with_reducible apply keeps_ite
    | with_reducible apply withdraw_keeps | with_reducible apply setIset_keeps | with_reducible apply put_keeps
    | with_reducible apply keeps_foldl | with_reducible apply keeps_overIdx | simp only [↓keeps_mk_iff]
    | with_reducible apply keeps_foldl_fst | with_reducible apply keeps_foldl_snd | split

theorem isetBack_keeps {s0 s : State} {j : Nat} (h : Keeps s0 s) : Keeps s0 (State.isetBack s j) := by
  unfold State.isetBack
  try dsimp only
  repeat' first
    | intro _ | with_reducible assumption | exact rfl | with_reducible apply keeps_ite
    | with_reducible apply isetSoon_keeps | with_reducible apply setIset_keeps | with_reducible apply keeps_foldl
    | with_reducible apply keeps_overIdx | simp only [↓keeps_mk_iff] | with_reducible apply keeps_foldl_fst
    | with_reducible apply keeps_foldl_snd | split

theorem unitsStop_keeps {s0 s : State} (h : Keeps s0 s) : Keeps s0 (State.unitsStop s) := by
  unfold State.unitsStop
  try dsimp only
  repeat' first
    | intro _ | with_reducible assumption | exact rfl | with_reducible apply keeps_ite
    | with_reducible apply withdraw_keeps | with_reducible apply stopCycles_keeps | with_reducible apply isetOff_keeps
    | with_reducible apply monsStop_keeps | with_reducible apply pioStopAll_keeps | with_reducible apply keeps_foldl
    | with_reducible apply keeps_overIdx | simp only [↓keeps_mk_iff] | with_reducible apply keeps_foldl_fst
    | with_reducible apply keeps_foldl_snd | split

theorem afterCommit_keeps {s0 s : State} (h : Keeps s0 s) : Keeps s0 (State.afterCommit s) := by
  unfold State.afterCommit
  try dsimp only
  repeat' first
    | intro _ | with_reducible assumption | exact rfl | with_reducible apply keeps_ite
    | with_reducible apply linkSleep_keeps | with_reducible apply unitsStop_keeps | with_reducible apply setReg_keeps
    | with_reducible apply keeps_foldl | with_reducible apply keeps_overIdx | simp only [↓keeps_mk_iff]
    | with_reducible apply keeps_foldl_fst | with_reducible apply keeps_foldl_snd | split

theorem commitDue_keeps {s0 s : State} (h : Keeps s0 s) : Keeps s0 (State.commitDue s) := by
  unfold State.commitDue
  try dsimp only
  repeat' first
    | intro _ | with_reducible assumption | exact rfl | with_reducible apply keeps_ite
    | with_reducible apply commitTick_keeps | with_reducible apply afterCommit_keeps
    | with_reducible apply keeps_foldl | with_reducible apply keeps_overIdx | simp only [↓keeps_mk_iff]
    | with_reducible apply keeps_foldl_fst | with_reducible apply keeps_foldl_snd | split

theorem pllDown_keeps {s0 s : State} (h : Keeps s0 s) : Keeps s0 (State.pllDown s) := by
  unfold State.pllDown
  try dsimp only
  repeat' first
    | intro _ | with_reducible assumption | exact rfl | with_reducible apply keeps_ite
    | with_reducible apply pllStop_keeps | with_reducible apply keeps_foldl | with_reducible apply keeps_overIdx
    | simp only [↓keeps_mk_iff] | with_reducible apply keeps_foldl_fst | with_reducible apply keeps_foldl_snd | split

theorem stepLoses_keeps {s0 s : State} {v : Nat} (h : Keeps s0 s) : Keeps s0 (State.stepLoses s v) := by
  unfold State.stepLoses
  try dsimp only
  repeat' first
    | intro _ | with_reducible assumption | exact rfl | with_reducible apply keeps_ite
    | with_reducible apply storeClear_keeps | with_reducible apply writersLose_keeps
    | with_reducible apply emptyQueue_keeps | with_reducible apply keeps_foldl | with_reducible apply keeps_overIdx
    | simp only [↓keeps_mk_iff] | with_reducible apply keeps_foldl_fst | with_reducible apply keeps_foldl_snd | split

theorem lateTarget_keeps {s0 s : State} (h : Keeps s0 s) : Keeps s0 (State.lateTarget s) := by
  unfold State.lateTarget
  try dsimp only
  repeat' first
    | intro _ | with_reducible assumption | exact rfl | with_reducible apply keeps_ite
    | with_reducible apply seekStep_keeps | with_reducible apply modStair_keeps | with_reducible apply keeps_foldl
    | with_reducible apply keeps_overIdx | simp only [↓keeps_mk_iff] | with_reducible apply keeps_foldl_fst
    | with_reducible apply keeps_foldl_snd | split

theorem arriveStep_keeps {s0 s : State} (h : Keeps s0 s) : Keeps s0 (State.arriveStep s) := by
  unfold State.arriveStep
  try dsimp only
  repeat' first
    | intro _ | with_reducible assumption | exact rfl | with_reducible apply keeps_ite
    | with_reducible apply pllDown_keeps | with_reducible apply put_keeps | with_reducible apply stepLoses_keeps
    | with_reducible apply startClimb_keeps | with_reducible apply modStair_keeps
    | with_reducible apply lateTarget_keeps | with_reducible apply keeps_foldl | with_reducible apply keeps_overIdx
    | simp only [↓keeps_mk_iff] | with_reducible apply keeps_foldl_fst | with_reducible apply keeps_foldl_snd | split

theorem stepEnd_keeps {s0 s : State} (h : Keeps s0 s) : Keeps s0 (State.stepEnd s) := by
  unfold State.stepEnd
  try dsimp only
  repeat' first
    | intro _ | with_reducible assumption | exact rfl | with_reducible apply keeps_ite
    | with_reducible apply arriveStep_keeps | with_reducible apply pllDown_keeps | with_reducible apply keeps_foldl
    | with_reducible apply keeps_overIdx | simp only [↓keeps_mk_iff] | with_reducible apply keeps_foldl_fst
    | with_reducible apply keeps_foldl_snd | split

theorem serveWaiting_keeps {s0 s : State} (h : Keeps s0 s) : Keeps s0 (State.serveWaiting s) := by
  unfold State.serveWaiting
  try dsimp only
  repeat' first
    | intro _ | with_reducible assumption | exact rfl | with_reducible apply keeps_ite
    | with_reducible apply after_keeps | with_reducible apply keeps_foldl | with_reducible apply keeps_overIdx
    | simp only [↓keeps_mk_iff] | with_reducible apply keeps_foldl_fst | with_reducible apply keeps_foldl_snd | split

theorem unitsBack_keeps {s0 s : State} {left : Nat} {to_ : Nat} (h : Keeps s0 s) :
    Keeps s0 (State.unitsBack s left to_) := by
  unfold State.unitsBack
  try dsimp only
  repeat' first
    | intro _ | with_reducible assumption | exact rfl | with_reducible apply keeps_ite
    | with_reducible apply modLink_keeps | with_reducible apply resumeCycles_keeps
    | with_reducible apply isetBack_keeps | with_reducible apply ladderNext_keeps
    | with_reducible apply monsRestart_keeps | with_reducible apply put_keeps | with_reducible apply keeps_foldl
    | with_reducible apply keeps_overIdx | simp only [↓keeps_mk_iff] | with_reducible apply keeps_foldl_fst
    | with_reducible apply keeps_foldl_snd | split

theorem workBack_keeps {s0 s : State} (h : Keeps s0 s) : Keeps s0 (State.workBack s) := by
  unfold State.workBack
  try dsimp only
  repeat' first
    | intro _ | with_reducible assumption | exact rfl | with_reducible apply keeps_ite
    | with_reducible apply dispatchAll_keeps | with_reducible apply wakeWaits_keeps | with_reducible apply kick_keeps
    | with_reducible apply requestsBack_keeps | with_reducible apply serveWaiting_keeps
    | with_reducible apply keeps_foldl | with_reducible apply keeps_overIdx | simp only [↓keeps_mk_iff]
    | with_reducible apply keeps_foldl_fst | with_reducible apply keeps_foldl_snd | split

theorem climbed_keeps {s0 s : State} (h : Keeps s0 s) : Keeps s0 (State.climbed s) := by
  unfold State.climbed
  try dsimp only
  repeat' first
    | intro _ | with_reducible assumption | exact rfl | with_reducible apply keeps_ite
    | with_reducible apply withdraw_keeps | with_reducible apply put_keeps | with_reducible apply runBack_keeps
    | with_reducible apply woke_keeps | with_reducible apply unitsBack_keeps | with_reducible apply lateTarget_keeps
    | with_reducible apply workBack_keeps | with_reducible apply startEntry_keeps | with_reducible apply keeps_foldl
    | with_reducible apply keeps_overIdx | simp only [↓keeps_mk_iff] | with_reducible apply keeps_foldl_fst
    | with_reducible apply keeps_foldl_snd | split

theorem pcieError_keeps {s0 s : State} {kind : Nat} {hdr : List Nat} (h : Keeps s0 s) :
    Keeps s0 (State.pcieError s kind hdr) := by
  unfold State.pcieError
  try dsimp only
  repeat' first
    | intro _ | with_reducible assumption | exact rfl | with_reducible apply keeps_ite
    | with_reducible apply bump_keeps | with_reducible apply keeps_foldl | with_reducible apply keeps_overIdx
    | simp only [↓keeps_mk_iff] | with_reducible apply keeps_foldl_fst | with_reducible apply keeps_foldl_snd | split

theorem unsupported_keeps {s0 s : State} {nonPosted : Bool} (h : Keeps s0 s) :
    Keeps s0 (State.unsupported s nonPosted) := by
  unfold State.unsupported
  try dsimp only
  repeat' first
    | intro _ | with_reducible assumption | exact rfl | with_reducible apply keeps_ite
    | with_reducible apply pcieError_keeps | with_reducible apply send_keeps | with_reducible apply keeps_foldl
    | with_reducible apply keeps_overIdx | simp only [↓keeps_mk_iff] | with_reducible apply keeps_foldl_fst
    | with_reducible apply keeps_foldl_snd | split

theorem request_keeps {s0 s : State} {c : Instr} {f : State → State} (h_f : ∀ y0, Keeps s0 y0 → Keeps s0 (f y0))
    (h : Keeps s0 s) :
    Keeps s0 (State.request s c f) := by
  unfold State.request
  try dsimp only
  repeat' first
    | intro _ | with_reducible assumption | exact rfl | with_reducible apply keeps_ite
    | with_reducible apply traffic_keeps | with_reducible apply h_f | with_reducible apply keeps_foldl
    | with_reducible apply keeps_overIdx | simp only [↓keeps_mk_iff] | with_reducible apply keeps_foldl_fst
    | with_reducible apply keeps_foldl_snd | split

theorem bar2Put_keeps {s0 s : State} {a : Nat} {bs : List Byte} (h : Keeps s0 s) :
    Keeps s0 (State.bar2Put s a bs) := by
  unfold State.bar2Put
  try dsimp only
  repeat' first
    | intro _ | with_reducible assumption | exact rfl | with_reducible apply keeps_ite
    | with_reducible apply unsupported_keeps | with_reducible apply storeWrite_keeps
    | with_reducible apply keeps_foldl | with_reducible apply keeps_overIdx | simp only [↓keeps_mk_iff]
    | with_reducible apply keeps_foldl_fst | with_reducible apply keeps_foldl_snd | split

theorem storeMeets_keeps {s0 s : State} {a : Nat} {chk : HallCheck} (h : Keeps s0 s) :
    Keeps s0 (State.storeMeets s a chk) := by
  unfold State.storeMeets
  try dsimp only
  repeat' first
    | intro _ | with_reducible assumption | exact rfl | with_reducible apply keeps_ite
    | with_reducible apply storeCorrected_keeps | with_reducible apply keeps_foldl
    | with_reducible apply keeps_overIdx | simp only [↓keeps_mk_iff] | with_reducible apply keeps_foldl_fst
    | with_reducible apply keeps_foldl_snd | split

theorem bar2Get_keeps {s0 s : State} {a : Nat} {n : Nat} {chk : HallCheck} (h : Keeps s0 s) :
    Keeps s0 (State.bar2Get s a n chk) := by
  unfold State.bar2Get
  try dsimp only
  repeat' first
    | intro _ | with_reducible assumption | exact rfl | with_reducible apply keeps_ite
    | with_reducible apply unsupported_keeps | with_reducible apply storeMeets_keeps
    | with_reducible apply storeReadCheck_keeps | with_reducible apply send_keeps | with_reducible apply keeps_foldl
    | with_reducible apply keeps_overIdx | simp only [↓keeps_mk_iff] | with_reducible apply keeps_foldl_fst
    | with_reducible apply keeps_foldl_snd | split

theorem flushVectors_keeps {s0 s : State} (h : Keeps s0 s) : Keeps s0 (State.flushVectors s) := by
  unfold State.flushVectors
  try dsimp only
  repeat' first
    | intro _ | with_reducible assumption | exact rfl | with_reducible apply keeps_ite
    | with_reducible apply flushVector_keeps | with_reducible apply keeps_foldl | with_reducible apply keeps_overIdx
    | simp only [↓keeps_mk_iff] | with_reducible apply keeps_foldl_fst | with_reducible apply keeps_foldl_snd | split

theorem setConfig_keeps {s0 s : State} {off : Nat} {w : Word} (h : Keeps s0 s) :
    Keeps s0 (State.setConfig s off w) := by
  unfold State.setConfig
  try dsimp only
  repeat' first
    | intro _ | with_reducible assumption | exact rfl | with_reducible apply keeps_ite
    | with_reducible apply keeps_foldl | with_reducible apply keeps_overIdx | simp only [↓keeps_mk_iff]
    | with_reducible apply keeps_foldl_fst | with_reducible apply keeps_foldl_snd | split

theorem configBit_keeps {s0 s : State} {off : Nat} {i : Nat} {b : Bool} (h : Keeps s0 s) :
    Keeps s0 (State.configBit s off i b) := by
  unfold State.configBit
  try dsimp only
  repeat' first
    | intro _ | with_reducible assumption | exact rfl | with_reducible apply keeps_ite
    | with_reducible apply setConfig_keeps | with_reducible apply keeps_foldl | with_reducible apply keeps_overIdx
    | simp only [↓keeps_mk_iff] | with_reducible apply keeps_foldl_fst | with_reducible apply keeps_foldl_snd | split

theorem unmask_keeps {s0 s : State} {v : Option Nat} (h : Keeps s0 s) : Keeps s0 (State.unmask s v) := by
  unfold State.unmask
  try dsimp only
  repeat' first
    | intro _ | with_reducible assumption | exact rfl | with_reducible apply keeps_ite
    | with_reducible apply flushVector_keeps | with_reducible apply modVector_keeps
    | with_reducible apply flushVectors_keeps | with_reducible apply configBit_keeps
    | with_reducible apply keeps_foldl | with_reducible apply keeps_overIdx | simp only [↓keeps_mk_iff]
    | with_reducible apply keeps_foldl_fst | with_reducible apply keeps_foldl_snd | split

theorem setMaster_keeps {s0 s : State} {en : Bool} (h : Keeps s0 s) : Keeps s0 (State.setMaster s en) := by
  unfold State.setMaster
  try dsimp only
  repeat' first
    | intro _ | with_reducible assumption | exact rfl | with_reducible apply keeps_ite
    | with_reducible apply hostReturns_keeps | with_reducible apply configBit_keeps
    | with_reducible apply requestsBack_keeps | with_reducible apply requestsGone_keeps
    | with_reducible apply keeps_foldl | with_reducible apply keeps_overIdx | simp only [↓keeps_mk_iff]
    | with_reducible apply keeps_foldl_fst | with_reducible apply keeps_foldl_snd | split

theorem setD3_keeps {s0 s : State} {on : Bool} (h : Keeps s0 s) : Keeps s0 (State.setD3 s on) := by
  unfold State.setD3
  try dsimp only
  repeat' first
    | intro _ | with_reducible assumption | exact rfl | with_reducible apply keeps_ite
    | with_reducible apply requestsBack_keeps | with_reducible apply requestsGone_keeps
    | with_reducible apply keeps_foldl | with_reducible apply keeps_overIdx | simp only [↓keeps_mk_iff]
    | with_reducible apply keeps_foldl_fst | with_reducible apply keeps_foldl_snd | split

theorem configWrite_keeps {s0 s : State} {off : Nat} {v : Nat} (h : Keeps s0 s) :
    Keeps s0 (State.configWrite s off v) := by
  unfold State.configWrite
  try dsimp only
  repeat' first
    | intro _ | with_reducible assumption | exact rfl | with_reducible apply keeps_ite
    | with_reducible apply setMaster_keeps | with_reducible apply setConfig_keeps | with_reducible apply setD3_keeps
    | with_reducible apply flushVectors_keeps | with_reducible apply keeps_foldl | with_reducible apply keeps_overIdx
    | simp only [↓keeps_mk_iff] | with_reducible apply keeps_foldl_fst | with_reducible apply keeps_foldl_snd | split

theorem configured_keeps {s0 s : State} {write : Bool} {off : Nat} {data : Nat} (h : Keeps s0 s) :
    Keeps s0 (State.configured s write off data) := by
  unfold State.configured
  try dsimp only
  repeat' first
    | intro _ | with_reducible assumption | exact rfl | with_reducible apply keeps_ite
    | with_reducible apply send_keeps | with_reducible apply configWrite_keeps | with_reducible apply keeps_foldl
    | with_reducible apply keeps_overIdx | simp only [↓keeps_mk_iff] | with_reducible apply keeps_foldl_fst
    | with_reducible apply keeps_foldl_snd | split

theorem linkTrained_keeps {s0 s : State} {speed : Nat} {width : Nat} (h : Keeps s0 s) :
    Keeps s0 (State.linkTrained s speed width) := by
  unfold State.linkTrained
  try dsimp only
  repeat' first
    | intro _ | with_reducible assumption | exact rfl | with_reducible apply keeps_ite
    | with_reducible apply traffic_keeps | with_reducible apply put_keeps | with_reducible apply sticky_keeps
    | with_reducible apply requestsBack_keeps | with_reducible apply keeps_foldl | with_reducible apply keeps_overIdx
    | simp only [↓keeps_mk_iff] | with_reducible apply keeps_foldl_fst | with_reducible apply keeps_foldl_snd | split

theorem idleLink_keeps {s0 s : State} (h : Keeps s0 s) : Keeps s0 (State.idleLink s) := by
  unfold State.idleLink
  try dsimp only
  repeat' first
    | intro _ | with_reducible assumption | exact rfl | with_reducible apply keeps_ite
    | with_reducible apply after_keeps | with_reducible apply linkSleep_keeps | with_reducible apply keeps_foldl
    | with_reducible apply keeps_overIdx | simp only [↓keeps_mk_iff] | with_reducible apply keeps_foldl_fst
    | with_reducible apply keeps_foldl_snd | split

theorem recoveryFails_keeps {s0 s : State} {r : Nat} (h : Keeps s0 s) : Keeps s0 (State.recoveryFails s r) := by
  unfold State.recoveryFails
  try dsimp only
  repeat' first
    | intro _ | with_reducible assumption | exact rfl | with_reducible apply keeps_ite
    | with_reducible apply put_keeps | with_reducible apply setBit_keeps | with_reducible apply keeps_foldl
    | with_reducible apply keeps_overIdx | simp only [↓keeps_mk_iff] | with_reducible apply keeps_foldl_fst
    | with_reducible apply keeps_foldl_snd | split

theorem recoveryGo_keeps {s0 s : State} (h : Keeps s0 s) : Keeps s0 (State.recoveryGo s) := by
  unfold State.recoveryGo
  try dsimp only
  repeat' first
    | intro _ | with_reducible assumption | exact rfl | with_reducible apply keeps_ite
    | with_reducible apply recoveryFails_keeps | with_reducible apply wearUp_keeps | with_reducible apply after_keeps
    | with_reducible apply put_keeps | with_reducible apply modJob_keeps | with_reducible apply keeps_foldl
    | with_reducible apply keeps_overIdx | simp only [↓keeps_mk_iff] | with_reducible apply keeps_foldl_fst
    | with_reducible apply keeps_foldl_snd | split

theorem recoveryEnd_keeps {s0 s : State} {ok : Bool} (h : Keeps s0 s) : Keeps s0 (State.recoveryEnd s ok) := by
  unfold State.recoveryEnd
  try dsimp only
  repeat' first
    | intro _ | with_reducible assumption | exact rfl | with_reducible apply keeps_ite
    | with_reducible apply withdraw_keeps | with_reducible apply blockIs_keeps | with_reducible apply setBit_keeps
    | with_reducible apply put_keeps | with_reducible apply wearUp_keeps | with_reducible apply freeBytes_keeps
    | with_reducible apply recoveryFails_keeps | with_reducible apply keeps_foldl | with_reducible apply keeps_overIdx
    | simp only [↓keeps_mk_iff] | with_reducible apply keeps_foldl_fst | with_reducible apply keeps_foldl_snd | split

theorem scrubHall_keeps {s0 s : State} {q : Nat} {i : Nat} {chk : HallCheck} (h : Keeps s0 s) :
    Keeps s0 (State.scrubHall s q i chk) := by
  unfold State.scrubHall
  try dsimp only
  repeat' first
    | intro _ | with_reducible assumption | exact rfl | with_reducible apply keeps_ite
    | with_reducible apply resetQueue_keeps | with_reducible apply freeListFails_keeps
    | with_reducible apply hallCorrected_keeps | with_reducible apply setQueue_keeps
    | with_reducible apply keeps_foldl | with_reducible apply keeps_overIdx | simp only [↓keeps_mk_iff]
    | with_reducible apply keeps_foldl_fst | with_reducible apply keeps_foldl_snd | split

theorem scrubStore_keeps {s0 s : State} {a : Nat} {chk : HallCheck} (h : Keeps s0 s) :
    Keeps s0 (State.scrubStore s a chk) := by
  unfold State.scrubStore
  try dsimp only
  repeat' first
    | intro _ | with_reducible assumption | exact rfl | with_reducible apply keeps_ite
    | with_reducible apply storeReadCheck_keeps | with_reducible apply storeMeets_keeps
    | with_reducible apply keeps_foldl | with_reducible apply keeps_overIdx | simp only [↓keeps_mk_iff]
    | with_reducible apply keeps_foldl_fst | with_reducible apply keeps_foldl_snd | split

theorem handed_keeps {s0 s : State} {r : Rec} (h : Keeps s0 s) : Keeps s0 (State.handed s r) := by
  unfold State.handed
  try dsimp only
  repeat' first
    | intro _ | with_reducible assumption | exact rfl | with_reducible apply keeps_ite
    | with_reducible apply settle_keeps | with_reducible apply modFrame_keeps | with_reducible apply keeps_foldl
    | with_reducible apply keeps_overIdx | simp only [↓keeps_mk_iff] | with_reducible apply keeps_foldl_fst
    | with_reducible apply keeps_foldl_snd | split

theorem takeDecision_keeps {s0 s : State} {d : Decision} (h : Keeps s0 s) : Keeps s0 (State.takeDecision s d) := by
  unfold State.takeDecision
  try dsimp only
  repeat' first
    | intro _ | with_reducible assumption | exact rfl | with_reducible apply keeps_ite
    | with_reducible apply handed_keeps | with_reducible apply bump_keeps | with_reducible apply sticky_keeps
    | with_reducible apply at__keeps | with_reducible apply keeps_foldl | with_reducible apply keeps_overIdx
    | simp only [↓keeps_mk_iff] | with_reducible apply keeps_foldl_fst | with_reducible apply keeps_foldl_snd | split

theorem handDecisions_keeps {s0 s : State} (h : Keeps s0 s) : Keeps s0 (State.handDecisions s) := by
  unfold State.handDecisions
  try dsimp only
  repeat' first
    | intro _ | with_reducible assumption | exact rfl | with_reducible apply keeps_ite
    | with_reducible apply takeDecision_keeps | with_reducible apply keeps_foldl | with_reducible apply keeps_overIdx
    | simp only [↓keeps_mk_iff] | with_reducible apply keeps_foldl_fst | with_reducible apply keeps_foldl_snd | split

theorem setJetEnd_keeps {s0 s : State} {j : Nat} {e : Nat} (h : Keeps s0 s) : Keeps s0 (State.setJetEnd s j e) := by
  unfold State.setJetEnd
  try dsimp only
  repeat' first
    | intro _ | with_reducible assumption | exact rfl | with_reducible apply keeps_ite
    | with_reducible apply keeps_foldl | with_reducible apply keeps_overIdx | simp only [↓keeps_mk_iff]
    | with_reducible apply keeps_foldl_fst | with_reducible apply keeps_foldl_snd | split

theorem admitJets_keeps {s0 s : State} {f : Nat} {dur : Nat} {a2 : List Nat} (h : Keeps s0 s) :
    Keeps s0 (State.admitJets s f dur a2).1 := by
  induction a2 generalizing s with
  | nil => exact h
  | cons a l ih =>
    unfold State.admitJets
    try dsimp only
    repeat' first
      | intro _ | with_reducible assumption | exact rfl | with_reducible apply ih | with_reducible apply keeps_ite
      | with_reducible apply bump_keeps | with_reducible apply setJetEnd_keeps | simp only [↓keeps_mk_iff] | split

theorem queueFire_keeps {s0 s : State} {g : Nat} {c : FireCmd} (h : Keeps s0 s) :
    Keeps s0 (State.queueFire s g c) := by
  unfold State.queueFire
  try dsimp only
  repeat' first
    | intro _ | with_reducible assumption | exact rfl | with_reducible apply keeps_ite
    | with_reducible apply noGallery_keeps | with_reducible apply late__keeps | with_reducible apply bump_keeps
    | with_reducible apply sticky_keeps | with_reducible apply setFire_keeps | with_reducible apply after_keeps
    | with_reducible apply keeps_foldl | with_reducible apply keeps_overIdx | simp only [↓keeps_mk_iff]
    | with_reducible apply keeps_foldl_fst | with_reducible apply keeps_foldl_snd | split

theorem fireRow_keeps {s0 s : State} {f : Nat} {dur : Nat} {fb : Bool} {doubt : Bool} {jets : List Nat}
    (h : Keeps s0 s) :
    Keeps s0 (State.fireRow s f dur fb doubt jets) := by
  unfold State.fireRow
  try dsimp only
  repeat' first
    | intro _ | with_reducible assumption | exact rfl | with_reducible apply keeps_ite
    | with_reducible apply admitJets_keeps | with_reducible apply queueFire_keeps | with_reducible apply keeps_foldl
    | with_reducible apply keeps_overIdx | simp only [↓keeps_mk_iff] | with_reducible apply keeps_foldl_fst
    | with_reducible apply keeps_foldl_snd | split

theorem planReject_keeps {s0 s : State} {d : Decision} {x : Rec × Bool} {v : Verdict} (h : Keeps s0 s) :
    Keeps s0 (State.planReject s d x v) := by
  unfold State.planReject
  try dsimp only
  repeat' first
    | intro _ | with_reducible assumption | exact rfl | with_reducible apply keeps_ite
    | with_reducible apply bump_keeps | with_reducible apply fireRow_keeps | with_reducible apply keeps_foldl
    | with_reducible apply keeps_overIdx | simp only [↓keeps_mk_iff] | with_reducible apply keeps_foldl_fst
    | with_reducible apply keeps_foldl_snd | split

theorem planDue_keeps {s0 s : State} {a0 : Nat} (h : Keeps s0 s) : Keeps s0 (State.planDue s a0) := by
  induction a0 generalizing s with
  | zero => exact h
  | succ n ih =>
    unfold State.planDue
    try dsimp only
    repeat' first
      | intro _ | with_reducible assumption | exact rfl | with_reducible apply ih | with_reducible apply keeps_ite
      | with_reducible apply planReject_keeps | simp only [↓keeps_mk_iff] | split

theorem planNow_keeps {s0 s : State} (h : Keeps s0 s) : Keeps s0 (State.planNow s) := by
  unfold State.planNow
  try dsimp only
  repeat' first
    | intro _ | with_reducible assumption | exact rfl | with_reducible apply keeps_ite
    | with_reducible apply after_keeps | with_reducible apply planDue_keeps | with_reducible apply keeps_foldl
    | with_reducible apply keeps_overIdx | simp only [↓keeps_mk_iff] | with_reducible apply keeps_foldl_fst
    | with_reducible apply keeps_foldl_snd | split

theorem sweepFires_keeps {s0 s : State} {g : Nat} {mask : Nat} (h : Keeps s0 s) :
    Keeps s0 (State.sweepFires s g mask) := by
  unfold State.sweepFires
  try dsimp only
  repeat' first
    | intro _ | with_reducible assumption | exact rfl | with_reducible apply keeps_ite
    | with_reducible apply bumpBy_keeps | with_reducible apply setFire_keeps | with_reducible apply keeps_foldl
    | with_reducible apply keeps_overIdx | simp only [↓keeps_mk_iff] | with_reducible apply keeps_foldl_fst
    | with_reducible apply keeps_foldl_snd | split

theorem jetEnable_keeps {s0 s : State} {g : Nat} {mask : Nat} (h : Keeps s0 s) :
    Keeps s0 (State.jetEnable s g mask) := by
  unfold State.jetEnable
  try dsimp only
  repeat' first
    | intro _ | with_reducible assumption | exact rfl | with_reducible apply keeps_ite
    | with_reducible apply sweepFires_keeps | with_reducible apply put_keeps | with_reducible apply keeps_foldl
    | with_reducible apply keeps_overIdx | simp only [↓keeps_mk_iff] | with_reducible apply keeps_foldl_fst
    | with_reducible apply keeps_foldl_snd | split

theorem writeField_keeps {s0 s : State} {off : Nat} {v : Nat} {f : FieldRow} (h : Keeps s0 s) :
    Keeps s0 (State.writeField s off v f) := by
  unfold State.writeField
  try dsimp only
  repeat' first
    | intro _ | with_reducible assumption | exact rfl | with_reducible apply keeps_ite
    | with_reducible apply put_keeps | with_reducible apply noteClear_keeps | with_reducible apply setReg_keeps
    | with_reducible apply keeps_foldl | with_reducible apply keeps_overIdx | simp only [↓keeps_mk_iff]
    | with_reducible apply keeps_foldl_fst | with_reducible apply keeps_foldl_snd | split

theorem xptWrite_keeps {s0 s : State} {x : Nat} {v : Nat} (h : Keeps s0 s) : Keeps s0 (State.xptWrite s x v) := by
  unfold State.xptWrite
  try dsimp only
  repeat' first
    | intro _ | with_reducible assumption | exact rfl | with_reducible apply keeps_ite
    | with_reducible apply portOff_keeps | with_reducible apply portOn_keeps | with_reducible apply train_keeps
    | with_reducible apply stopPort_keeps | with_reducible apply runPort_keeps | with_reducible apply keeps_foldl
    | with_reducible apply keeps_overIdx | simp only [↓keeps_mk_iff] | with_reducible apply keeps_foldl_fst
    | with_reducible apply keeps_foldl_snd | split

theorem resetWrite_keeps {s0 s : State} {v : Nat} (h : Keeps s0 s) : Keeps s0 (State.resetWrite s v) := by
  unfold State.resetWrite
  try dsimp only
  repeat' first
    | intro _ | with_reducible assumption | exact rfl | with_reducible apply keeps_ite
    | with_reducible apply softFull_keeps | with_reducible apply softHost_keeps | with_reducible apply keeps_foldl
    | with_reducible apply keeps_overIdx | simp only [↓keeps_mk_iff] | with_reducible apply keeps_foldl_fst
    | with_reducible apply keeps_foldl_snd | split

theorem ownWrite_keeps {s0 s t : State} {r : Reg} {i : List Nat} {v : Nat} (h : Keeps s0 s) (e : s.ownWrite r i v = some t) :
    Keeps s0 t := by
  unfold State.ownWrite at e
  dsimp only at e
  split at e <;> first
    | (injection e with e; subst e; first
        | exact joinConfig_keeps h
        | exact queueSize_keeps h
        | exact flowMap_keeps h
        | exact writeGreg_keeps h
        | exact xptWrite_keeps h
        | exact resetWrite_keeps h
        | exact softLock_keeps h
        | exact doorbell_keeps h
        | exact writeHead_keeps h
        | exact jetEnable_keeps h
        | exact writeIset_keeps h)
    | (split at e <;> first | (injection e with e; subst e; exact h) | exact absurd e (by simp))
    | exact absurd e (by simp)

theorem newelWrite_keeps {s0 s : State} {v : Nat} (h : Keeps s0 s) : Keeps s0 (State.newelWrite s v) := by
  unfold State.newelWrite
  try dsimp only
  repeat' first
    | intro _ | with_reducible assumption | exact rfl | with_reducible apply keeps_ite
    | with_reducible apply commit_keeps | with_reducible apply snap_keeps | with_reducible apply keeps_foldl
    | with_reducible apply keeps_overIdx | simp only [↓keeps_mk_iff] | with_reducible apply keeps_foldl_fst
    | with_reducible apply keeps_foldl_snd | split

theorem linkWrite_keeps {s0 s : State} {v : Nat} (h : Keeps s0 s) : Keeps s0 (State.linkWrite s v) := by
  unfold State.linkWrite
  try dsimp only
  repeat' first
    | intro _ | with_reducible assumption | exact rfl | with_reducible apply keeps_ite
    | with_reducible apply disable_keeps | with_reducible apply enumerate_keeps | with_reducible apply keeps_foldl
    | with_reducible apply keeps_overIdx | simp only [↓keeps_mk_iff] | with_reducible apply keeps_foldl_fst
    | with_reducible apply keeps_foldl_snd | split

theorem ringWrite_keeps {s0 s : State} {i : Nat} {v : Nat} (h : Keeps s0 s) : Keeps s0 (State.ringWrite s i v) := by
  unfold State.ringWrite
  try dsimp only
  repeat' first
    | intro _ | with_reducible assumption | exact rfl | with_reducible apply keeps_ite
    | with_reducible apply enableRing_keeps | with_reducible apply disableRing_keeps
    | with_reducible apply resumeRing_keeps | with_reducible apply keeps_foldl | with_reducible apply keeps_overIdx
    | simp only [↓keeps_mk_iff] | with_reducible apply keeps_foldl_fst | with_reducible apply keeps_foldl_snd | split

theorem readmitMask_keeps {s0 s : State} {n : Nat} {m_ : Nat} (h : Keeps s0 s) :
    Keeps s0 (State.readmitMask s n m_) := by
  unfold State.readmitMask
  try dsimp only
  repeat' first
    | intro _ | with_reducible assumption | exact rfl | with_reducible apply keeps_ite
    | with_reducible apply zonesUpdate_keeps | with_reducible apply readmit_keeps | with_reducible apply keeps_foldl
    | with_reducible apply keeps_overIdx | simp only [↓keeps_mk_iff] | with_reducible apply keeps_foldl_fst
    | with_reducible apply keeps_foldl_snd | split

theorem acted_keeps {s0 s : State} {r : Reg} {i : List Nat} {old : Nat} {v : Nat} {no : List Nat} (h : Keeps s0 s) :
    Keeps s0 (State.acted s r i old v no) := by
  unfold State.acted
  try dsimp only
  repeat' first
    | intro _ | with_reducible assumption | exact rfl | with_reducible apply keeps_ite
    | with_reducible apply newelWrite_keeps | with_reducible apply seekStep_keeps
    | with_reducible apply startCamera_keeps | with_reducible apply stopCamera_keeps | with_reducible apply put_keeps
    | with_reducible apply softTrigger_keeps | with_reducible apply linkWrite_keeps
    | with_reducible apply monEnable_keeps | with_reducible apply followStrobe_keeps
    | with_reducible apply strobeEn_keeps | with_reducible apply armMaxHigh_keeps
    | with_reducible apply closeBlocks_keeps | with_reducible apply isetRangeSoon_keeps
    | with_reducible apply isetSoon_keeps | with_reducible apply setIset_keeps | with_reducible apply pioStart_keeps
    | with_reducible apply pioStopOne_keeps | with_reducible apply pioPop_keeps
    | with_reducible apply writeFlags_keeps | with_reducible apply pioQueues_keeps
    | with_reducible apply pioClear_keeps | with_reducible apply pioPush_keeps | with_reducible apply watermark_keeps
    | with_reducible apply kick_keeps | with_reducible apply ringWrite_keeps
    | with_reducible apply writeCompletions_keeps | with_reducible apply hostReturns_keeps
    | with_reducible apply enableNotices_keeps | with_reducible apply arrive_keeps
    | with_reducible apply abortMask_keeps | with_reducible apply moderated_keeps
    | with_reducible apply porterPaced_keeps | with_reducible apply rollbackRaise_keeps
    | with_reducible apply recoveryGo_keeps | with_reducible apply readmitMask_keeps
    | with_reducible apply zonesUpdate_keeps | with_reducible apply ladderNext_keeps
    | with_reducible apply keeps_foldl | with_reducible apply keeps_overIdx | simp only [↓keeps_mk_iff]
    | with_reducible apply keeps_foldl_fst | with_reducible apply keeps_foldl_snd | split

theorem writeReg_keeps {s0 s : State} {r : RegRow} {i : List Nat} {off : Nat} {v : Nat} (h : Keeps s0 s) :
    Keeps s0 (State.writeReg s r i off v) := by
  unfold State.writeReg
  try dsimp only
  repeat' first
    | intro _ | with_reducible assumption | exact rfl | with_reducible apply keeps_ite
    | exact ownWrite_keeps h (by assumption) | with_reducible apply refuse_keeps | with_reducible apply noteLate_keeps
    | with_reducible apply writeField_keeps | with_reducible apply acted_keeps | with_reducible apply keeps_foldl
    | with_reducible apply keeps_overIdx | simp only [↓keeps_mk_iff] | with_reducible apply keeps_foldl_fst
    | with_reducible apply keeps_foldl_snd | split

theorem msixWrite_keeps {s0 s : State} {v : Nat} {w : Nat} {data : Nat} (h : Keeps s0 s) :
    Keeps s0 (State.msixWrite s v w data) := by
  unfold State.msixWrite
  try dsimp only
  repeat' first
    | intro _ | with_reducible assumption | exact rfl | with_reducible apply keeps_ite
    | with_reducible apply modVector_keeps | with_reducible apply flushVector_keeps | with_reducible apply keeps_foldl
    | with_reducible apply keeps_overIdx | simp only [↓keeps_mk_iff] | with_reducible apply keeps_foldl_fst
    | with_reducible apply keeps_foldl_snd | split

theorem writeWord_keeps {s0 s : State} {off : Nat} {v : Nat} (h : Keeps s0 s) :
    Keeps s0 (State.writeWord s off v) := by
  unfold State.writeWord
  try dsimp only
  repeat' first
    | intro _ | with_reducible assumption | exact rfl | with_reducible apply keeps_ite
    | with_reducible apply refuse_keeps | with_reducible apply writeReg_keeps | with_reducible apply msixWrite_keeps
    | with_reducible apply keeps_foldl | with_reducible apply keeps_overIdx | simp only [↓keeps_mk_iff]
    | with_reducible apply keeps_foldl_fst | with_reducible apply keeps_foldl_snd | split

theorem bar0Write_keeps {s0 s : State} {off : Nat} {size : Nat} {data : Nat} (h : Keeps s0 s) :
    Keeps s0 (State.bar0Write s off size data) := by
  unfold State.bar0Write
  try dsimp only
  repeat' first
    | intro _ | with_reducible assumption | exact rfl | with_reducible apply keeps_ite
    | with_reducible apply writeWord_keeps | with_reducible apply refuse_keeps | with_reducible apply keeps_foldl
    | with_reducible apply keeps_overIdx | simp only [↓keeps_mk_iff] | with_reducible apply keeps_foldl_fst
    | with_reducible apply keeps_foldl_snd | split

theorem debugStep_keeps {s0 s : State} (h : Keeps s0 s) : Keeps s0 (State.debugStep s) := by
  unfold State.debugStep
  try dsimp only
  repeat' first
    | intro _ | with_reducible assumption | exact rfl | with_reducible apply keeps_ite
    | with_reducible apply kickAt_keeps | with_reducible apply keeps_foldl | with_reducible apply keeps_overIdx
    | simp only [↓keeps_mk_iff] | with_reducible apply keeps_foldl_fst | with_reducible apply keeps_foldl_snd | split

theorem debug_keeps {s0 s : State} {op : DebugOp} (h : Keeps s0 s) : Keeps s0 (State.debug s op) := by
  unfold State.debug
  try dsimp only
  repeat' first
    | intro _ | with_reducible assumption | exact rfl | with_reducible apply keeps_ite
    | with_reducible apply send_keeps | with_reducible apply modBoot_keeps | with_reducible apply bar0Write_keeps
    | with_reducible apply storeWrite_keeps | with_reducible apply debugStep_keeps | with_reducible apply keeps_foldl
    | with_reducible apply keeps_overIdx | simp only [↓keeps_mk_iff] | with_reducible apply keeps_foldl_fst
    | with_reducible apply keeps_foldl_snd | split

theorem tickEnd_keeps {s0 s : State} (h : Keeps s0 s) : Keeps s0 (State.tickEnd s) := by
  unfold State.tickEnd
  try dsimp only
  repeat' first
    | intro _ | with_reducible assumption | exact rfl | with_reducible apply keeps_ite
    | with_reducible apply settleEvents_keeps | with_reducible apply settlePio_keeps
    | with_reducible apply keeps_foldl | with_reducible apply keeps_overIdx | simp only [↓keeps_mk_iff]
    | with_reducible apply keeps_foldl_fst | with_reducible apply keeps_foldl_snd | split

theorem edge_keeps {s0 s : State} {e : Nat} (h : Keeps s0 s) : Keeps s0 (State.edge s e) := by
  unfold State.edge
  try dsimp only
  repeat' first
    | intro _ | with_reducible assumption | exact rfl | with_reducible apply keeps_ite
    | with_reducible apply settlePops_keeps | with_reducible apply pioBegin_keeps | with_reducible apply keeps_foldl
    | with_reducible apply keeps_overIdx | simp only [↓keeps_mk_iff] | with_reducible apply keeps_foldl_fst
    | with_reducible apply keeps_foldl_snd | split

end Sys2Proof.Machine
end

