-- ==== Sys2Proof/Laws/Same.lean ====
section
/-! SUPPORT. `Same m s t`: from `s` to `t` only fields of the state named in the mask `m` may differ. One lemma per
operation says so once; `Same.eq_of` turns it into an equation. Bit k of a mask stands for field k of `State`, in the
order of its declaration. -/

namespace Sys2Proof.Machine

structure Same (m : Nat) (s t : State) : Prop where
  pending : m.testBit 0 = false → t.pending = s.pending
  agenda : m.testBit 1 = false → t.agenda = s.agenda
  now : m.testBit 2 = false → t.now = s.now
  freeCount : m.testBit 3 = false → t.freeCount = s.freeCount
  regs : m.testBit 4 = false → t.regs = s.regs
  eff : m.testBit 5 = false → t.eff = s.eff
  late : m.testBit 6 = false → t.late = s.late
  moment : m.testBit 7 = false → t.moment = s.moment
  newel : m.testBit 8 = false → t.newel = s.newel
  boot : m.testBit 9 = false → t.boot = s.boot
  stair : m.testBit 10 = false → t.stair = s.stair
  pcie : m.testBit 11 = false → t.pcie = s.pcie
  strobes : m.testBit 12 = false → t.strobes = s.strobes
  isets : m.testBit 13 = false → t.isets = s.isets
  mons : m.testBit 14 = false → t.mons = s.mons
  stream : m.testBit 15 = false → t.stream = s.stream
  cams : m.testBit 16 = false → t.cams = s.cams
  placed : m.testBit 17 = false → t.placed = s.placed
  notices : m.testBit 18 = false → t.notices = s.notices
  hall : m.testBit 19 = false → t.hall = s.hall
  ports : m.testBit 20 = false → t.ports = s.ports
  pipes : m.testBit 21 = false → t.pipes = s.pipes
  joins : m.testBit 22 = false → t.joins = s.joins
  planner : m.testBit 23 = false → t.planner = s.planner
  link : m.testBit 24 = false → t.link = s.link
  stations : m.testBit 25 = false → t.stations = s.stations
  thermal : m.testBit 26 = false → t.thermal = s.thermal
  pio : m.testBit 27 = false → t.pio = s.pio
  usher : m.testBit 28 = false → t.usher = s.usher
  store : m.testBit 29 = false → t.store = s.store
  storeBad : m.testBit 30 = false → t.storeBad = s.storeBad
  archive : m.testBit 31 = false → t.archive = s.archive
  archiveBad : m.testBit 32 = false → t.archiveBad = s.archiveBad
  wear : m.testBit 33 = false → t.wear = s.wear
  rollback : m.testBit 34 = false → t.rollback = s.rollback

/-- Every field of mask `a` is one of mask `b`. -/
def sub (a b : Nat) : Bool := a ||| b == b

theorem sub_bit {a b : Nat} (h : sub a b = true) {k : Nat} (hb : b.testBit k = false) : a.testBit k = false := by
  simp only [sub, beq_iff_eq] at h
  have := congrArg (fun n => n.testBit k) h
  simp only [Nat.testBit_or, hb, Bool.or_false] at this
  exact this

theorem Same.refl (m : Nat) (s : State) : Same m s s :=
  ⟨fun _ => rfl, fun _ => rfl, fun _ => rfl, fun _ => rfl, fun _ => rfl, fun _ => rfl, fun _ => rfl, fun _ => rfl, fun _ => rfl, fun _ => rfl, fun _ => rfl, fun _ => rfl, fun _ => rfl, fun _ => rfl, fun _ => rfl, fun _ => rfl, fun _ => rfl, fun _ => rfl, fun _ => rfl, fun _ => rfl, fun _ => rfl, fun _ => rfl, fun _ => rfl, fun _ => rfl, fun _ => rfl, fun _ => rfl, fun _ => rfl, fun _ => rfl, fun _ => rfl, fun _ => rfl, fun _ => rfl, fun _ => rfl, fun _ => rfl, fun _ => rfl, fun _ => rfl⟩

/-- One operation more. -/
theorem Same.step {a m : Nat} {s t u : State} (k : Same a t u) (hm : sub a m = true) (h : Same m s t) : Same m s u :=
  ⟨fun e => (k.pending (sub_bit hm e)).trans (h.pending e),
    fun e => (k.agenda (sub_bit hm e)).trans (h.agenda e),
    fun e => (k.now (sub_bit hm e)).trans (h.now e),
    fun e => (k.freeCount (sub_bit hm e)).trans (h.freeCount e),
    fun e => (k.regs (sub_bit hm e)).trans (h.regs e),
    fun e => (k.eff (sub_bit hm e)).trans (h.eff e),
    fun e => (k.late (sub_bit hm e)).trans (h.late e),
    fun e => (k.moment (sub_bit hm e)).trans (h.moment e),
    fun e => (k.newel (sub_bit hm e)).trans (h.newel e),
    fun e => (k.boot (sub_bit hm e)).trans (h.boot e),
    fun e => (k.stair (sub_bit hm e)).trans (h.stair e),
    fun e => (k.pcie (sub_bit hm e)).trans (h.pcie e),
    fun e => (k.strobes (sub_bit hm e)).trans (h.strobes e),
    fun e => (k.isets (sub_bit hm e)).trans (h.isets e),
    fun e => (k.mons (sub_bit hm e)).trans (h.mons e),
    fun e => (k.stream (sub_bit hm e)).trans (h.stream e),
    fun e => (k.cams (sub_bit hm e)).trans (h.cams e),
    fun e => (k.placed (sub_bit hm e)).trans (h.placed e),
    fun e => (k.notices (sub_bit hm e)).trans (h.notices e),
    fun e => (k.hall (sub_bit hm e)).trans (h.hall e),
    fun e => (k.ports (sub_bit hm e)).trans (h.ports e),
    fun e => (k.pipes (sub_bit hm e)).trans (h.pipes e),
    fun e => (k.joins (sub_bit hm e)).trans (h.joins e),
    fun e => (k.planner (sub_bit hm e)).trans (h.planner e),
    fun e => (k.link (sub_bit hm e)).trans (h.link e),
    fun e => (k.stations (sub_bit hm e)).trans (h.stations e),
    fun e => (k.thermal (sub_bit hm e)).trans (h.thermal e),
    fun e => (k.pio (sub_bit hm e)).trans (h.pio e),
    fun e => (k.usher (sub_bit hm e)).trans (h.usher e),
    fun e => (k.store (sub_bit hm e)).trans (h.store e),
    fun e => (k.storeBad (sub_bit hm e)).trans (h.storeBad e),
    fun e => (k.archive (sub_bit hm e)).trans (h.archive e),
    fun e => (k.archiveBad (sub_bit hm e)).trans (h.archiveBad e),
    fun e => (k.wear (sub_bit hm e)).trans (h.wear e),
    fun e => (k.rollback (sub_bit hm e)).trans (h.rollback e)⟩

theorem Same.mono {a m : Nat} {s t : State} (hm : sub a m = true) (h : Same a s t) : Same m s t :=
  Same.step h hm (Same.refl m s)

theorem Same.trans {m : Nat} {s t u : State} (h : Same m s t) (k : Same m t u) : Same m s u :=
  ⟨fun e => (k.pending e).trans (h.pending e),
    fun e => (k.agenda e).trans (h.agenda e),
    fun e => (k.now e).trans (h.now e),
    fun e => (k.freeCount e).trans (h.freeCount e),
    fun e => (k.regs e).trans (h.regs e),
    fun e => (k.eff e).trans (h.eff e),
    fun e => (k.late e).trans (h.late e),
    fun e => (k.moment e).trans (h.moment e),
    fun e => (k.newel e).trans (h.newel e),
    fun e => (k.boot e).trans (h.boot e),
    fun e => (k.stair e).trans (h.stair e),
    fun e => (k.pcie e).trans (h.pcie e),
    fun e => (k.strobes e).trans (h.strobes e),
    fun e => (k.isets e).trans (h.isets e),
    fun e => (k.mons e).trans (h.mons e),
    fun e => (k.stream e).trans (h.stream e),
    fun e => (k.cams e).trans (h.cams e),
    fun e => (k.placed e).trans (h.placed e),
    fun e => (k.notices e).trans (h.notices e),
    fun e => (k.hall e).trans (h.hall e),
    fun e => (k.ports e).trans (h.ports e),
    fun e => (k.pipes e).trans (h.pipes e),
    fun e => (k.joins e).trans (h.joins e),
    fun e => (k.planner e).trans (h.planner e),
    fun e => (k.link e).trans (h.link e),
    fun e => (k.stations e).trans (h.stations e),
    fun e => (k.thermal e).trans (h.thermal e),
    fun e => (k.pio e).trans (h.pio e),
    fun e => (k.usher e).trans (h.usher e),
    fun e => (k.store e).trans (h.store e),
    fun e => (k.storeBad e).trans (h.storeBad e),
    fun e => (k.archive e).trans (h.archive e),
    fun e => (k.archiveBad e).trans (h.archiveBad e),
    fun e => (k.wear e).trans (h.wear e),
    fun e => (k.rollback e).trans (h.rollback e)⟩

theorem sub_self (a : Nat) : sub a a = true := by simp [sub]

theorem sub_sub {a b m : Nat} (h : sub a b = true) (k : sub b m = true) : sub a m = true := by
  simp only [sub, beq_iff_eq] at *
  rw [← k, ← Nat.or_assoc, h]

theorem same_ite {m : Nat} {s a b : State} {c : Prop} [Decidable c] (ha : Same m s a) (hb : Same m s b) :
    Same m s (if c then a else b) := by
  split <;> assumption

theorem same_foldl {α : Type} {m : Nat} {s0 s : State} {l : List α} {f : State → α → State}
    (hf : ∀ t x, Same m s0 t → Same m s0 (f t x)) (h : Same m s0 s) : Same m s0 (l.foldl f s) := by
  induction l generalizing s with
  | nil => exact h
  | cons a l ih => exact ih (hf _ _ h)

theorem same_foldl_fst {α β : Type} {m : Nat} {s0 : State} {l : List α} {f : State × β → α → State × β} {b : State × β}
    (hf : ∀ a x, Same m s0 a.1 → Same m s0 (f a x).1) (h : Same m s0 b.1) : Same m s0 (l.foldl f b).1 := by
  induction l generalizing b with
  | nil => exact h
  | cons a l ih => exact ih (hf _ _ h)

theorem same_foldl_snd {α β : Type} {m : Nat} {s0 : State} {l : List α} {f : β × State → α → β × State} {b : β × State}
    (hf : ∀ a x, Same m s0 a.2 → Same m s0 (f a x).2) (h : Same m s0 b.2) : Same m s0 (l.foldl f b).2 := by
  induction l generalizing b with
  | nil => exact h
  | cons a l ih => exact ih (hf _ _ h)

theorem same_overIdx {m : Nat} {s0 s : State} {n : Nat} {f : Nat → State → State}
    (hf : ∀ i t, Same m s0 t → Same m s0 (f i t)) (h : Same m s0 s) : Same m s0 (overIdx f n s) := by
  induction n with
  | zero => exact h
  | succ n ih => exact hf _ _ ih

/-- A record update of `t`, its fields laid out. -/
def SameMk (m : Nat) (s t : State) : (List Instr) → (List (Nat × Instr)) → (Nat) → (Nat) → (Regs) → (Regs) → (List (Nat × Nat × Word)) → (Moment) → (Newel) → (Boot) → (Stair) → (Pcie) → (List Strobe) → (List Iset) → (List Monitor) → (MonStream) → (List Camera) → (List (Nat × Nat)) → (List NoticeRing) → (Hall) → (List XPort) → (List Pipe) → (List Join) → (Planner) → (Link) → (List Station) → (Thermal) → (Pio) → (Usher) → (StoreBytes) → (List Nat) → (ArcBytes) → (List Nat) → (Regs) → (Nat) → Prop :=
  fun x0 x1 x2 x3 x4 x5 x6 x7 x8 x9 x10 x11 x12 x13 x14 x15 x16 x17 x18 x19 x20 x21 x22 x23 x24 x25 x26 x27 x28 x29 x30 x31 x32 x33 x34 => let _ := t; Same m s (State.mk x0 x1 x2 x3 x4 x5 x6 x7 x8 x9 x10 x11 x12 x13 x14 x15 x16 x17 x18 x19 x20 x21 x22 x23 x24 x25 x26 x27 x28 x29 x30 x31 x32 x33 x34)

theorem same_mk_tag {m : Nat} {s t : State} {x1 x3 x4 x5 x6 x7 x8 x9 x10 x11 x12 x13 x14 x15 x16 x17 x18 x19 x20 x21 x22 x23 x24 x25 x26 x27 x28 x29 x30 x31 x32 x33 x34} :
    Same m s (State.mk t.pending x1 t.now x3 x4 x5 x6 x7 x8 x9 x10 x11 x12 x13 x14 x15 x16 x17 x18 x19 x20 x21 x22 x23 x24 x25 x26 x27 x28 x29 x30 x31 x32 x33 x34) = SameMk m s t t.pending x1 t.now x3 x4 x5 x6 x7 x8 x9 x10 x11 x12 x13 x14 x15 x16 x17 x18 x19 x20 x21 x22 x23 x24 x25 x26 x27 x28 x29 x30 x31 x32 x33 x34 := rfl

theorem SameMk.intro {m : Nat} {s t : State} {x1 x3 x4 x5 x6 x7 x8 x9 x10 x11 x12 x13 x14 x15 x16 x17 x18 x19 x20 x21 x22 x23 x24 x25 x26 x27 x28 x29 x30 x31 x32 x33 x34} (h : Same m s t)
    (h1 : m.testBit 1 = false → x1 = t.agenda)
    (h3 : m.testBit 3 = false → x3 = t.freeCount)
    (h4 : m.testBit 4 = false → x4 = t.regs)
    (h5 : m.testBit 5 = false → x5 = t.eff)
    (h6 : m.testBit 6 = false → x6 = t.late)
    (h7 : m.testBit 7 = false → x7 = t.moment)
    (h8 : m.testBit 8 = false → x8 = t.newel)
    (h9 : m.testBit 9 = false → x9 = t.boot)
    (h10 : m.testBit 10 = false → x10 = t.stair)
    (h11 : m.testBit 11 = false → x11 = t.pcie)
    (h12 : m.testBit 12 = false → x12 = t.strobes)
    (h13 : m.testBit 13 = false → x13 = t.isets)
    (h14 : m.testBit 14 = false → x14 = t.mons)
    (h15 : m.testBit 15 = false → x15 = t.stream)
    (h16 : m.testBit 16 = false → x16 = t.cams)
    (h17 : m.testBit 17 = false → x17 = t.placed)
    (h18 : m.testBit 18 = false → x18 = t.notices)
    (h19 : m.testBit 19 = false → x19 = t.hall)
    (h20 : m.testBit 20 = false → x20 = t.ports)
    (h21 : m.testBit 21 = false → x21 = t.pipes)
    (h22 : m.testBit 22 = false → x22 = t.joins)
    (h23 : m.testBit 23 = false → x23 = t.planner)
    (h24 : m.testBit 24 = false → x24 = t.link)
    (h25 : m.testBit 25 = false → x25 = t.stations)
    (h26 : m.testBit 26 = false → x26 = t.thermal)
    (h27 : m.testBit 27 = false → x27 = t.pio)
    (h28 : m.testBit 28 = false → x28 = t.usher)
    (h29 : m.testBit 29 = false → x29 = t.store)
    (h30 : m.testBit 30 = false → x30 = t.storeBad)
    (h31 : m.testBit 31 = false → x31 = t.archive)
    (h32 : m.testBit 32 = false → x32 = t.archiveBad)
    (h33 : m.testBit 33 = false → x33 = t.wear)
    (h34 : m.testBit 34 = false → x34 = t.rollback) :
    SameMk m s t t.pending x1 t.now x3 x4 x5 x6 x7 x8 x9 x10 x11 x12 x13 x14 x15 x16 x17 x18 x19 x20 x21 x22 x23 x24 x25 x26 x27 x28 x29 x30 x31 x32 x33 x34 :=
  ⟨h.pending, fun e => (h1 e).trans (h.agenda e), h.now, fun e => (h3 e).trans (h.freeCount e), fun e => (h4 e).trans (h.regs e), fun e => (h5 e).trans (h.eff e), fun e => (h6 e).trans (h.late e), fun e => (h7 e).trans (h.moment e), fun e => (h8 e).trans (h.newel e), fun e => (h9 e).trans (h.boot e), fun e => (h10 e).trans (h.stair e), fun e => (h11 e).trans (h.pcie e), fun e => (h12 e).trans (h.strobes e), fun e => (h13 e).trans (h.isets e), fun e => (h14 e).trans (h.mons e), fun e => (h15 e).trans (h.stream e), fun e => (h16 e).trans (h.cams e), fun e => (h17 e).trans (h.placed e), fun e => (h18 e).trans (h.notices e), fun e => (h19 e).trans (h.hall e), fun e => (h20 e).trans (h.ports e), fun e => (h21 e).trans (h.pipes e), fun e => (h22 e).trans (h.joins e), fun e => (h23 e).trans (h.planner e), fun e => (h24 e).trans (h.link e), fun e => (h25 e).trans (h.stations e), fun e => (h26 e).trans (h.thermal e), fun e => (h27 e).trans (h.pio e), fun e => (h28 e).trans (h.usher e), fun e => (h29 e).trans (h.store e), fun e => (h30 e).trans (h.storeBad e), fun e => (h31 e).trans (h.archive e), fun e => (h32 e).trans (h.archiveBad e), fun e => (h33 e).trans (h.wear e), fun e => (h34 e).trans (h.rollback e)⟩

/-- The equation that `Same` stands for. -/
theorem Same.eq_of {m : Nat} {s t : State} (h : Same m s t) :
    t = State.mk (if m.testBit 0 then t.pending else s.pending)
      (if m.testBit 1 then t.agenda else s.agenda)
      (if m.testBit 2 then t.now else s.now)
      (if m.testBit 3 then t.freeCount else s.freeCount)
      (if m.testBit 4 then t.regs else s.regs)
      (if m.testBit 5 then t.eff else s.eff)
      (if m.testBit 6 then t.late else s.late)
      (if m.testBit 7 then t.moment else s.moment)
      (if m.testBit 8 then t.newel else s.newel)
      (if m.testBit 9 then t.boot else s.boot)
      (if m.testBit 10 then t.stair else s.stair)
      (if m.testBit 11 then t.pcie else s.pcie)
      (if m.testBit 12 then t.strobes else s.strobes)
      (if m.testBit 13 then t.isets else s.isets)
      (if m.testBit 14 then t.mons else s.mons)
      (if m.testBit 15 then t.stream else s.stream)
      (if m.testBit 16 then t.cams else s.cams)
      (if m.testBit 17 then t.placed else s.placed)
      (if m.testBit 18 then t.notices else s.notices)
      (if m.testBit 19 then t.hall else s.hall)
      (if m.testBit 20 then t.ports else s.ports)
      (if m.testBit 21 then t.pipes else s.pipes)
      (if m.testBit 22 then t.joins else s.joins)
      (if m.testBit 23 then t.planner else s.planner)
      (if m.testBit 24 then t.link else s.link)
      (if m.testBit 25 then t.stations else s.stations)
      (if m.testBit 26 then t.thermal else s.thermal)
      (if m.testBit 27 then t.pio else s.pio)
      (if m.testBit 28 then t.usher else s.usher)
      (if m.testBit 29 then t.store else s.store)
      (if m.testBit 30 then t.storeBad else s.storeBad)
      (if m.testBit 31 then t.archive else s.archive)
      (if m.testBit 32 then t.archiveBad else s.archiveBad)
      (if m.testBit 33 then t.wear else s.wear)
      (if m.testBit 34 then t.rollback else s.rollback) := by
  cases t
  simp only [State.mk.injEq]
  refine ⟨?_, ?_, ?_, ?_, ?_, ?_, ?_, ?_, ?_, ?_, ?_, ?_, ?_, ?_, ?_, ?_, ?_, ?_, ?_, ?_, ?_, ?_, ?_, ?_, ?_, ?_, ?_, ?_, ?_, ?_, ?_, ?_, ?_, ?_, ?_⟩
  · cases e : m.testBit 0
    · exact h.pending e
    · rfl
  · cases e : m.testBit 1
    · exact h.agenda e
    · rfl
  · cases e : m.testBit 2
    · exact h.now e
    · rfl
  · cases e : m.testBit 3
    · exact h.freeCount e
    · rfl
  · cases e : m.testBit 4
    · exact h.regs e
    · rfl
  · cases e : m.testBit 5
    · exact h.eff e
    · rfl
  · cases e : m.testBit 6
    · exact h.late e
    · rfl
  · cases e : m.testBit 7
    · exact h.moment e
    · rfl
  · cases e : m.testBit 8
    · exact h.newel e
    · rfl
  · cases e : m.testBit 9
    · exact h.boot e
    · rfl
  · cases e : m.testBit 10
    · exact h.stair e
    · rfl
  · cases e : m.testBit 11
    · exact h.pcie e
    · rfl
  · cases e : m.testBit 12
    · exact h.strobes e
    · rfl
  · cases e : m.testBit 13
    · exact h.isets e
    · rfl
  · cases e : m.testBit 14
    · exact h.mons e
    · rfl
  · cases e : m.testBit 15
    · exact h.stream e
    · rfl
  · cases e : m.testBit 16
    · exact h.cams e
    · rfl
  · cases e : m.testBit 17
    · exact h.placed e
    · rfl
  · cases e : m.testBit 18
    · exact h.notices e
    · rfl
  · cases e : m.testBit 19
    · exact h.hall e
    · rfl
  · cases e : m.testBit 20
    · exact h.ports e
    · rfl
  · cases e : m.testBit 21
    · exact h.pipes e
    · rfl
  · cases e : m.testBit 22
    · exact h.joins e
    · rfl
  · cases e : m.testBit 23
    · exact h.planner e
    · rfl
  · cases e : m.testBit 24
    · exact h.link e
    · rfl
  · cases e : m.testBit 25
    · exact h.stations e
    · rfl
  · cases e : m.testBit 26
    · exact h.thermal e
    · rfl
  · cases e : m.testBit 27
    · exact h.pio e
    · rfl
  · cases e : m.testBit 28
    · exact h.usher e
    · rfl
  · cases e : m.testBit 29
    · exact h.store e
    · rfl
  · cases e : m.testBit 30
    · exact h.storeBad e
    · rfl
  · cases e : m.testBit 31
    · exact h.archive e
    · rfl
  · cases e : m.testBit 32
    · exact h.archiveBad e
    · rfl
  · cases e : m.testBit 33
    · exact h.wear e
    · rfl
  · cases e : m.testBit 34
    · exact h.rollback e
    · rfl

end Sys2Proof.Machine
end

