-- ==== Sys2Proof/Laws/Same1.lean ====
section
/-! SUPPORT. What each operation of the model may change, by field of the state, part 1 of 6. -/

namespace Sys2Proof.Machine

theorem setReg_same {m : Nat} {s0 s : State} {off : Nat} {w : Word} (hm : sub 16 m = true) (h : Same m s0 s) :
    Same m s0 (State.setReg s off w) := by
  refine Same.step ?_ hm h
  unfold State.setReg
  try dsimp only
  repeat' first
    | with_reducible exact Same.refl _ _ | exact rfl | with_reducible assumption
    | exact fun (e : Nat.testBit _ _ = false) => absurd e (by decide) | with_reducible exact fun _ => rfl | intro _
    | with_reducible apply same_ite | with_reducible apply same_foldl | with_reducible apply same_overIdx
    | simp only [↓same_mk_tag] | with_reducible apply SameMk.intro | with_reducible apply same_foldl_fst
    | with_reducible apply same_foldl_snd | split

theorem put_same {m : Nat} {s0 s : State} {f : Fld} {v : Nat} (hm : sub 16 m = true) (h : Same m s0 s) :
    Same m s0 (State.put s f v) := by
  refine Same.step ?_ hm h
  unfold State.put
  try dsimp only
  repeat' first
    | with_reducible exact Same.refl _ _ | exact rfl | with_reducible assumption
    | exact fun (e : Nat.testBit _ _ = false) => absurd e (by decide) | with_reducible exact fun _ => rfl | intro _
    | with_reducible apply same_ite | with_reducible apply setReg_same | with_reducible apply same_foldl
    | with_reducible apply same_overIdx | simp only [↓same_mk_tag] | with_reducible apply SameMk.intro
    | with_reducible apply same_foldl_fst | with_reducible apply same_foldl_snd | split

theorem setEff_same {m : Nat} {s0 s : State} {off : Nat} {w : Word} (hm : sub 32 m = true) (h : Same m s0 s) :
    Same m s0 (State.setEff s off w) := by
  refine Same.step ?_ hm h
  unfold State.setEff
  try dsimp only
  repeat' first
    | with_reducible exact Same.refl _ _ | exact rfl | with_reducible assumption
    | exact fun (e : Nat.testBit _ _ = false) => absurd e (by decide) | with_reducible exact fun _ => rfl | intro _
    | with_reducible apply same_ite | with_reducible apply same_foldl | with_reducible apply same_overIdx
    | simp only [↓same_mk_tag] | with_reducible apply SameMk.intro | with_reducible apply same_foldl_fst
    | with_reducible apply same_foldl_snd | split

theorem putPair_same {m : Nat} {s0 s : State} {lo : Nat} {v : Nat} (hm : sub 16 m = true) (h : Same m s0 s) :
    Same m s0 (State.putPair s lo v) := by
  refine Same.step ?_ hm h
  unfold State.putPair
  try dsimp only
  repeat' first
    | with_reducible exact Same.refl _ _ | exact rfl | with_reducible assumption
    | exact fun (e : Nat.testBit _ _ = false) => absurd e (by decide) | with_reducible exact fun _ => rfl | intro _
    | with_reducible apply same_ite | with_reducible apply setReg_same | with_reducible apply same_foldl
    | with_reducible apply same_overIdx | simp only [↓same_mk_tag] | with_reducible apply SameMk.intro
    | with_reducible apply same_foldl_fst | with_reducible apply same_foldl_snd | split

theorem noteSet_same {m : Nat} {s0 s : State} {off : Nat} {i : Nat} (hm : sub 128 m = true) (h : Same m s0 s) :
    Same m s0 (State.noteSet s off i) := by
  refine Same.step ?_ hm h
  unfold State.noteSet
  try dsimp only
  repeat' first
    | with_reducible exact Same.refl _ _ | exact rfl | with_reducible assumption
    | exact fun (e : Nat.testBit _ _ = false) => absurd e (by decide) | with_reducible exact fun _ => rfl | intro _
    | with_reducible apply same_ite | with_reducible apply same_foldl | with_reducible apply same_overIdx
    | simp only [↓same_mk_tag] | with_reducible apply SameMk.intro | with_reducible apply same_foldl_fst
    | with_reducible apply same_foldl_snd | split

theorem noteClear_same {m : Nat} {s0 s : State} {off : Nat} {m_ : Nat} (hm : sub 128 m = true) (h : Same m s0 s) :
    Same m s0 (State.noteClear s off m_) := by
  refine Same.step ?_ hm h
  unfold State.noteClear
  try dsimp only
  repeat' first
    | with_reducible exact Same.refl _ _ | exact rfl | with_reducible assumption
    | exact fun (e : Nat.testBit _ _ = false) => absurd e (by decide) | with_reducible exact fun _ => rfl | intro _
    | with_reducible apply same_ite | with_reducible apply same_foldl | with_reducible apply same_overIdx
    | simp only [↓same_mk_tag] | with_reducible apply SameMk.intro | with_reducible apply same_foldl_fst
    | with_reducible apply same_foldl_snd | split

theorem noteCount_same {m : Nat} {s0 s : State} {off : Nat} {n : Nat} (hm : sub 128 m = true) (h : Same m s0 s) :
    Same m s0 (State.noteCount s off n) := by
  refine Same.step ?_ hm h
  unfold State.noteCount
  try dsimp only
  repeat' first
    | with_reducible exact Same.refl _ _ | exact rfl | with_reducible assumption
    | exact fun (e : Nat.testBit _ _ = false) => absurd e (by decide) | with_reducible exact fun _ => rfl | intro _
    | with_reducible apply same_ite | with_reducible apply same_foldl | with_reducible apply same_overIdx
    | simp only [↓same_mk_tag] | with_reducible apply SameMk.intro | with_reducible apply same_foldl_fst
    | with_reducible apply same_foldl_snd | split

theorem bumpBy_same {m : Nat} {s0 s : State} {c : Ctr} {n : Nat} (hm : sub 144 m = true) (h : Same m s0 s) :
    Same m s0 (State.bumpBy s c n) := by
  refine Same.step ?_ hm h
  unfold State.bumpBy
  try dsimp only
  repeat' first
    | with_reducible exact Same.refl _ _ | exact rfl | with_reducible assumption
    | exact fun (e : Nat.testBit _ _ = false) => absurd e (by decide) | with_reducible exact fun _ => rfl | intro _
    | with_reducible apply same_ite | with_reducible apply noteCount_same | with_reducible apply put_same
    | with_reducible apply same_foldl | with_reducible apply same_overIdx | simp only [↓same_mk_tag]
    | with_reducible apply SameMk.intro | with_reducible apply same_foldl_fst | with_reducible apply same_foldl_snd
    | split

theorem bump_same {m : Nat} {s0 s : State} {c : Ctr} (hm : sub 144 m = true) (h : Same m s0 s) :
    Same m s0 (State.bump s c) := by
  refine Same.step ?_ hm h
  unfold State.bump
  try dsimp only
  repeat' first
    | with_reducible exact Same.refl _ _ | exact rfl | with_reducible assumption
    | exact fun (e : Nat.testBit _ _ = false) => absurd e (by decide) | with_reducible exact fun _ => rfl | intro _
    | with_reducible apply same_ite | with_reducible apply bumpBy_same | with_reducible apply same_foldl
    | with_reducible apply same_overIdx | simp only [↓same_mk_tag] | with_reducible apply SameMk.intro
    | with_reducible apply same_foldl_fst | with_reducible apply same_foldl_snd | split

theorem setBit_same {m : Nat} {s0 s : State} {f : Fld} {i : Nat} (hm : sub 144 m = true) (h : Same m s0 s) :
    Same m s0 (State.setBit s f i) := by
  refine Same.step ?_ hm h
  unfold State.setBit
  try dsimp only
  repeat' first
    | with_reducible exact Same.refl _ _ | exact rfl | with_reducible assumption
    | exact fun (e : Nat.testBit _ _ = false) => absurd e (by decide) | with_reducible exact fun _ => rfl | intro _
    | with_reducible apply same_ite | with_reducible apply noteSet_same | with_reducible apply put_same
    | with_reducible apply same_foldl | with_reducible apply same_overIdx | simp only [↓same_mk_tag]
    | with_reducible apply SameMk.intro | with_reducible apply same_foldl_fst | with_reducible apply same_foldl_snd
    | split

theorem clearBit_same {m : Nat} {s0 s : State} {f : Fld} {i : Nat} (hm : sub 16 m = true) (h : Same m s0 s) :
    Same m s0 (State.clearBit s f i) := by
  refine Same.step ?_ hm h
  unfold State.clearBit
  try dsimp only
  repeat' first
    | with_reducible exact Same.refl _ _ | exact rfl | with_reducible assumption
    | exact fun (e : Nat.testBit _ _ = false) => absurd e (by decide) | with_reducible exact fun _ => rfl | intro _
    | with_reducible apply same_ite | with_reducible apply put_same | with_reducible apply same_foldl
    | with_reducible apply same_overIdx | simp only [↓same_mk_tag] | with_reducible apply SameMk.intro
    | with_reducible apply same_foldl_fst | with_reducible apply same_foldl_snd | split

theorem after_same {m : Nat} {s0 s : State} {n : Nat} {c : Instr} (hm : sub 2 m = true) (h : Same m s0 s) :
    Same m s0 (State.after s n c) := by
  refine Same.step ?_ hm h
  unfold State.after
  try dsimp only
  repeat' first
    | with_reducible exact Same.refl _ _ | exact rfl | with_reducible assumption
    | exact fun (e : Nat.testBit _ _ = false) => absurd e (by decide) | with_reducible exact fun _ => rfl | intro _
    | with_reducible apply same_ite | with_reducible apply same_foldl | with_reducible apply same_overIdx
    | simp only [↓same_mk_tag] | with_reducible apply SameMk.intro | with_reducible apply same_foldl_fst
    | with_reducible apply same_foldl_snd | split

theorem at__same {m : Nat} {s0 s : State} {t : Nat} {c : Instr} (hm : sub 2 m = true) (h : Same m s0 s) :
    Same m s0 (State.at_ s t c) := by
  refine Same.step ?_ hm h
  unfold State.at_
  try dsimp only
  repeat' first
    | with_reducible exact Same.refl _ _ | exact rfl | with_reducible assumption
    | exact fun (e : Nat.testBit _ _ = false) => absurd e (by decide) | with_reducible exact fun _ => rfl | intro _
    | with_reducible apply same_ite | with_reducible apply after_same | with_reducible apply same_foldl
    | with_reducible apply same_overIdx | simp only [↓same_mk_tag] | with_reducible apply SameMk.intro
    | with_reducible apply same_foldl_fst | with_reducible apply same_foldl_snd | split

theorem withdraw_same {m : Nat} {s0 s : State} {p : Instr → Bool} (hm : sub 2 m = true) (h : Same m s0 s) :
    Same m s0 (State.withdraw s p) := by
  refine Same.step ?_ hm h
  unfold State.withdraw
  try dsimp only
  repeat' first
    | with_reducible exact Same.refl _ _ | exact rfl | with_reducible assumption
    | exact fun (e : Nat.testBit _ _ = false) => absurd e (by decide) | with_reducible exact fun _ => rfl | intro _
    | with_reducible apply same_ite | with_reducible apply same_foldl | with_reducible apply same_overIdx
    | simp only [↓same_mk_tag] | with_reducible apply SameMk.intro | with_reducible apply same_foldl_fst
    | with_reducible apply same_foldl_snd | split

theorem free_same {m : Nat} {s0 s : State} {n : Nat} (hm : sub 8 m = true) (h : Same m s0 s) :
    Same m s0 (State.free s n).2 := by
  refine Same.step ?_ hm h
  unfold State.free
  try dsimp only
  repeat' first
    | with_reducible exact Same.refl _ _ | exact rfl | with_reducible assumption
    | exact fun (e : Nat.testBit _ _ = false) => absurd e (by decide) | with_reducible exact fun _ => rfl | intro _
    | with_reducible apply same_ite | with_reducible apply same_foldl | with_reducible apply same_overIdx
    | simp only [↓same_mk_tag] | with_reducible apply SameMk.intro | with_reducible apply same_foldl_fst
    | with_reducible apply same_foldl_snd | split

theorem send_same {m : Nat} {s0 s : State} {m_ : HostMsg} (hm : sub 2048 m = true) (h : Same m s0 s) :
    Same m s0 (State.send s m_) := by
  refine Same.step ?_ hm h
  unfold State.send
  try dsimp only
  repeat' first
    | with_reducible exact Same.refl _ _ | exact rfl | with_reducible assumption
    | exact fun (e : Nat.testBit _ _ = false) => absurd e (by decide) | with_reducible exact fun _ => rfl | intro _
    | with_reducible apply same_ite | with_reducible apply same_foldl | with_reducible apply same_overIdx
    | simp only [↓same_mk_tag] | with_reducible apply SameMk.intro | with_reducible apply same_foldl_fst
    | with_reducible apply same_foldl_snd | split

theorem hostWrite_same {m : Nat} {s0 s : State} {a : Nat} {bs : List Byte} {ro : Bool} (hm : sub 2048 m = true)
    (h : Same m s0 s) :
    Same m s0 (State.hostWrite s a bs ro) := by
  refine Same.step ?_ hm h
  unfold State.hostWrite
  try dsimp only
  repeat' first
    | with_reducible exact Same.refl _ _ | exact rfl | with_reducible assumption
    | exact fun (e : Nat.testBit _ _ = false) => absurd e (by decide) | with_reducible exact fun _ => rfl | intro _
    | with_reducible apply same_ite | with_reducible apply same_foldl | with_reducible apply same_overIdx
    | simp only [↓same_mk_tag] | with_reducible apply SameMk.intro | with_reducible apply same_foldl_fst
    | with_reducible apply same_foldl_snd | split

theorem hostAsk_same {m : Nat} {s0 s : State} {a : Nat} {n : Nat} (hm : sub 2048 m = true) (h : Same m s0 s) :
    Same m s0 (State.hostAsk s a n) := by
  refine Same.step ?_ hm h
  unfold State.hostAsk
  try dsimp only
  repeat' first
    | with_reducible exact Same.refl _ _ | exact rfl | with_reducible assumption
    | exact fun (e : Nat.testBit _ _ = false) => absurd e (by decide) | with_reducible exact fun _ => rfl | intro _
    | with_reducible apply same_ite | with_reducible apply same_foldl | with_reducible apply same_overIdx
    | simp only [↓same_mk_tag] | with_reducible apply SameMk.intro | with_reducible apply same_foldl_fst
    | with_reducible apply same_foldl_snd | split

theorem noteLate_same {m : Nat} {s0 s : State} {off : Nat} (hm : sub 64 m = true) (h : Same m s0 s) :
    Same m s0 (State.noteLate s off) := by
  refine Same.step ?_ hm h
  unfold State.noteLate
  try dsimp only
  repeat' first
    | with_reducible exact Same.refl _ _ | exact rfl | with_reducible assumption
    | exact fun (e : Nat.testBit _ _ = false) => absurd e (by decide) | with_reducible exact fun _ => rfl | intro _
    | with_reducible apply same_ite | with_reducible apply same_foldl | with_reducible apply same_overIdx
    | simp only [↓same_mk_tag] | with_reducible apply SameMk.intro | with_reducible apply same_foldl_fst
    | with_reducible apply same_foldl_snd | split

theorem land_same {m : Nat} {s0 s : State} {t : Nat} {key : Nat → Nat} {l : List (Nat × Nat)} (hm : sub 32 m = true)
    (h : Same m s0 s) :
    Same m s0 (State.land s t key l) := by
  refine Same.step ?_ hm h
  unfold State.land
  try dsimp only
  repeat' first
    | with_reducible exact Same.refl _ _ | exact rfl | with_reducible assumption
    | exact fun (e : Nat.testBit _ _ = false) => absurd e (by decide) | with_reducible exact fun _ => rfl | intro _
    | with_reducible apply same_ite | with_reducible apply setEff_same | with_reducible apply same_foldl
    | with_reducible apply same_overIdx | simp only [↓same_mk_tag] | with_reducible apply SameMk.intro
    | with_reducible apply same_foldl_fst | with_reducible apply same_foldl_snd | split

theorem noticeAt_same {m : Nat} {s0 s : State} {stamp : Nat} {code : Nat} {unit : Nat} {payload : List Nat}
    (hm : sub 262290 m = true) (h : Same m s0 s) :
    Same m s0 (State.noticeAt s stamp code unit payload) := by
  refine Same.step ?_ hm h
  unfold State.noticeAt
  try dsimp only
  repeat' first
    | with_reducible exact Same.refl _ _ | exact rfl | with_reducible assumption
    | exact fun (e : Nat.testBit _ _ = false) => absurd e (by decide) | with_reducible exact fun _ => rfl | intro _
    | with_reducible apply same_ite | with_reducible apply after_same | with_reducible apply bump_same
    | with_reducible apply same_foldl | with_reducible apply same_overIdx | simp only [↓same_mk_tag]
    | with_reducible apply SameMk.intro | with_reducible apply same_foldl_fst | with_reducible apply same_foldl_snd
    | split

theorem notice_same {m : Nat} {s0 s : State} {code : Nat} {unit : Nat} {payload : List Nat} (hm : sub 262290 m = true)
    (h : Same m s0 s) :
    Same m s0 (State.notice s code unit payload) := by
  refine Same.step ?_ hm h
  unfold State.notice
  try dsimp only
  repeat' first
    | with_reducible exact Same.refl _ _ | exact rfl | with_reducible assumption
    | exact fun (e : Nat.testBit _ _ = false) => absurd e (by decide) | with_reducible exact fun _ => rfl | intro _
    | with_reducible apply same_ite | with_reducible apply noticeAt_same | with_reducible apply same_foldl
    | with_reducible apply same_overIdx | simp only [↓same_mk_tag] | with_reducible apply SameMk.intro
    | with_reducible apply same_foldl_fst | with_reducible apply same_foldl_snd | split

theorem sticky_same {m : Nat} {s0 s : State} {f : Fld} {i : Nat} {code : Nat} {unit : Nat} {payload : List Nat}
    (hm : sub 262290 m = true) (h : Same m s0 s) :
    Same m s0 (State.sticky s f i code unit payload) := by
  refine Same.step ?_ hm h
  unfold State.sticky
  try dsimp only
  repeat' first
    | with_reducible exact Same.refl _ _ | exact rfl | with_reducible assumption
    | exact fun (e : Nat.testBit _ _ = false) => absurd e (by decide) | with_reducible exact fun _ => rfl | intro _
    | with_reducible apply same_ite | with_reducible apply setBit_same | with_reducible apply notice_same
    | with_reducible apply same_foldl | with_reducible apply same_overIdx | simp only [↓same_mk_tag]
    | with_reducible apply SameMk.intro | with_reducible apply same_foldl_fst | with_reducible apply same_foldl_snd
    | split

theorem setQueue_same {m : Nat} {s0 s : State} {q : Nat} {x : Queue} (hm : sub 524288 m = true) (h : Same m s0 s) :
    Same m s0 (State.setQueue s q x) := by
  refine Same.step ?_ hm h
  unfold State.setQueue
  try dsimp only
  repeat' first
    | with_reducible exact Same.refl _ _ | exact rfl | with_reducible assumption
    | exact fun (e : Nat.testBit _ _ = false) => absurd e (by decide) | with_reducible exact fun _ => rfl | intro _
    | with_reducible apply same_ite | with_reducible apply same_foldl | with_reducible apply same_overIdx
    | simp only [↓same_mk_tag] | with_reducible apply SameMk.intro | with_reducible apply same_foldl_fst
    | with_reducible apply same_foldl_snd | split

theorem sticky64_same {m : Nat} {s0 s : State} {lo : Fld} {hi : Fld} {q : Nat} {code : Nat} {unit : Nat}
    {payload : List Nat} (hm : sub 262290 m = true) (h : Same m s0 s) :
    Same m s0 (State.sticky64 s lo hi q code unit payload) := by
  refine Same.step ?_ hm h
  unfold State.sticky64
  try dsimp only
  repeat' first
    | with_reducible exact Same.refl _ _ | exact rfl | with_reducible assumption
    | exact fun (e : Nat.testBit _ _ = false) => absurd e (by decide) | with_reducible exact fun _ => rfl | intro _
    | with_reducible apply same_ite | with_reducible apply sticky_same | with_reducible apply same_foldl
    | with_reducible apply same_overIdx | simp only [↓same_mk_tag] | with_reducible apply SameMk.intro
    | with_reducible apply same_foldl_fst | with_reducible apply same_foldl_snd | split

theorem watermark_same {m : Nat} {s0 s : State} {q : Nat} (hm : sub 786578 m = true) (h : Same m s0 s) :
    Same m s0 (State.watermark s q) := by
  refine Same.step ?_ hm h
  unfold State.watermark
  try dsimp only
  repeat' first
    | with_reducible exact Same.refl _ _ | exact rfl | with_reducible assumption
    | exact fun (e : Nat.testBit _ _ = false) => absurd e (by decide) | with_reducible exact fun _ => rfl | intro _
    | with_reducible apply same_ite | with_reducible apply sticky64_same | with_reducible apply bump_same
    | with_reducible apply same_foldl | with_reducible apply same_overIdx | simp only [↓same_mk_tag]
    | with_reducible apply SameMk.intro | with_reducible apply same_foldl_fst | with_reducible apply same_foldl_snd
    | split

theorem setFire_same {m : Nat} {s0 s : State} {g : Nat} {l : List FireCmd} (hm : sub 786578 m = true)
    (h : Same m s0 s) :
    Same m s0 (State.setFire s g l) := by
  refine Same.step ?_ hm h
  unfold State.setFire
  try dsimp only
  repeat' first
    | with_reducible exact Same.refl _ _ | exact rfl | with_reducible assumption
    | exact fun (e : Nat.testBit _ _ = false) => absurd e (by decide) | with_reducible exact fun _ => rfl | intro _
    | with_reducible apply same_ite | with_reducible apply watermark_same | with_reducible apply same_foldl
    | with_reducible apply same_overIdx | simp only [↓same_mk_tag] | with_reducible apply SameMk.intro
    | with_reducible apply same_foldl_fst | with_reducible apply same_foldl_snd | split

theorem queueTo_same {m : Nat} {s0 s : State} {q : Nat} {x : Queue} (hm : sub 786578 m = true) (h : Same m s0 s) :
    Same m s0 (State.queueTo s q x) := by
  refine Same.step ?_ hm h
  unfold State.queueTo
  try dsimp only
  repeat' first
    | with_reducible exact Same.refl _ _ | exact rfl | with_reducible assumption
    | exact fun (e : Nat.testBit _ _ = false) => absurd e (by decide) | with_reducible exact fun _ => rfl | intro _
    | with_reducible apply same_ite | with_reducible apply watermark_same | with_reducible apply setQueue_same
    | with_reducible apply same_foldl | with_reducible apply same_overIdx | simp only [↓same_mk_tag]
    | with_reducible apply SameMk.intro | with_reducible apply same_foldl_fst | with_reducible apply same_foldl_snd
    | split

theorem setPort_same {m : Nat} {s0 s : State} {n : Nat} {x : Port} (hm : sub 524288 m = true) (h : Same m s0 s) :
    Same m s0 (State.setPort s n x) := by
  refine Same.step ?_ hm h
  unfold State.setPort
  try dsimp only
  repeat' first
    | with_reducible exact Same.refl _ _ | exact rfl | with_reducible assumption
    | exact fun (e : Nat.testBit _ _ = false) => absurd e (by decide) | with_reducible exact fun _ => rfl | intro _
    | with_reducible apply same_ite | with_reducible apply same_foldl | with_reducible apply same_overIdx
    | simp only [↓same_mk_tag] | with_reducible apply SameMk.intro | with_reducible apply same_foldl_fst
    | with_reducible apply same_foldl_snd | split

theorem startPort_same {m : Nat} {s0 s : State} {n : Nat} (hm : sub 524290 m = true) (h : Same m s0 s) :
    Same m s0 (State.startPort s n) := by
  refine Same.step ?_ hm h
  unfold State.startPort
  try dsimp only
  repeat' first
    | with_reducible exact Same.refl _ _ | exact rfl | with_reducible assumption
    | exact fun (e : Nat.testBit _ _ = false) => absurd e (by decide) | with_reducible exact fun _ => rfl | intro _
    | with_reducible apply same_ite | with_reducible apply after_same | with_reducible apply setPort_same
    | with_reducible apply same_foldl | with_reducible apply same_overIdx | simp only [↓same_mk_tag]
    | with_reducible apply SameMk.intro | with_reducible apply same_foldl_fst | with_reducible apply same_foldl_snd
    | split

theorem offerPacket_same {m : Nat} {s0 s : State} {n : Nat} {p : OutPacket} (hm : sub 524290 m = true)
    (h : Same m s0 s) :
    Same m s0 (State.offerPacket s n p) := by
  refine Same.step ?_ hm h
  unfold State.offerPacket
  try dsimp only
  repeat' first
    | with_reducible exact Same.refl _ _ | exact rfl | with_reducible assumption
    | exact fun (e : Nat.testBit _ _ = false) => absurd e (by decide) | with_reducible exact fun _ => rfl | intro _
    | with_reducible apply same_ite | with_reducible apply startPort_same | with_reducible apply setPort_same
    | with_reducible apply same_foldl | with_reducible apply same_overIdx | simp only [↓same_mk_tag]
    | with_reducible apply SameMk.intro | with_reducible apply same_foldl_fst | with_reducible apply same_foldl_snd
    | split

theorem takeCell_same {m : Nat} {s0 s : State} {n : Nat} {p : OutPacket} (hm : sub 786578 m = true) (h : Same m s0 s)
    :
    Same m s0 (State.takeCell s n p) := by
  refine Same.step ?_ hm h
  unfold State.takeCell
  try dsimp only
  repeat' first
    | with_reducible exact Same.refl _ _ | exact rfl | with_reducible assumption
    | exact fun (e : Nat.testBit _ _ = false) => absurd e (by decide) | with_reducible exact fun _ => rfl | intro _
    | with_reducible apply same_ite | with_reducible apply setQueue_same | with_reducible apply queueTo_same
    | with_reducible apply after_same | with_reducible apply setPort_same | with_reducible apply same_foldl
    | with_reducible apply same_overIdx | simp only [↓same_mk_tag] | with_reducible apply SameMk.intro
    | with_reducible apply same_foldl_fst | with_reducible apply same_foldl_snd | split

theorem blockPort_same {m : Nat} {s0 s : State} {n : Nat} {p : OutPacket} (hm : sub 524434 m = true) (h : Same m s0 s)
    :
    Same m s0 (State.blockPort s n p) := by
  refine Same.step ?_ hm h
  unfold State.blockPort
  try dsimp only
  repeat' first
    | with_reducible exact Same.refl _ _ | exact rfl | with_reducible assumption
    | exact fun (e : Nat.testBit _ _ = false) => absurd e (by decide) | with_reducible exact fun _ => rfl | intro _
    | with_reducible apply same_ite | with_reducible apply bump_same | with_reducible apply setPort_same
    | with_reducible apply after_same | with_reducible apply same_foldl | with_reducible apply same_overIdx
    | simp only [↓same_mk_tag] | with_reducible apply SameMk.intro | with_reducible apply same_foldl_fst
    | with_reducible apply same_foldl_snd | split

theorem writeStep_same {m : Nat} {s0 s : State} {n : Nat} (hm : sub 786578 m = true) (h : Same m s0 s) :
    Same m s0 (State.writeStep s n) := by
  refine Same.step ?_ hm h
  unfold State.writeStep
  try dsimp only
  repeat' first
    | with_reducible exact Same.refl _ _ | exact rfl | with_reducible assumption
    | exact fun (e : Nat.testBit _ _ = false) => absurd e (by decide) | with_reducible exact fun _ => rfl | intro _
    | with_reducible apply same_ite | with_reducible apply takeCell_same | with_reducible apply blockPort_same
    | with_reducible apply same_foldl | with_reducible apply same_overIdx | simp only [↓same_mk_tag]
    | with_reducible apply SameMk.intro | with_reducible apply same_foldl_fst | with_reducible apply same_foldl_snd
    | split

theorem freeListFails_same {m : Nat} {s0 s : State} {fire : Bool} (hm : sub 524290 m = true) (h : Same m s0 s) :
    Same m s0 (State.freeListFails s fire) := by
  refine Same.step ?_ hm h
  unfold State.freeListFails
  try dsimp only
  repeat' first
    | with_reducible exact Same.refl _ _ | exact rfl | with_reducible assumption
    | exact fun (e : Nat.testBit _ _ = false) => absurd e (by decide) | with_reducible exact fun _ => rfl | intro _
    | with_reducible apply same_ite | with_reducible apply after_same | with_reducible apply same_foldl
    | with_reducible apply same_overIdx | simp only [↓same_mk_tag] | with_reducible apply SameMk.intro
    | with_reducible apply same_foldl_fst | with_reducible apply same_foldl_snd | split

theorem freeListDone_same {m : Nat} {s0 s : State} {fire : Bool} (hm : sub 786578 m = true) (h : Same m s0 s) :
    Same m s0 (State.freeListDone s fire) := by
  refine Same.step ?_ hm h
  unfold State.freeListDone
  try dsimp only
  repeat' first
    | with_reducible exact Same.refl _ _ | exact rfl | with_reducible assumption
    | exact fun (e : Nat.testBit _ _ = false) => absurd e (by decide) | with_reducible exact fun _ => rfl | intro _
    | with_reducible apply same_ite | with_reducible apply bump_same | with_reducible apply notice_same
    | with_reducible apply same_foldl | with_reducible apply same_overIdx | simp only [↓same_mk_tag]
    | with_reducible apply SameMk.intro | with_reducible apply same_foldl_fst | with_reducible apply same_foldl_snd
    | split

theorem hallCorrected_same {m : Nat} {s0 s : State} {q : Nat} (hm : sub 144 m = true) (h : Same m s0 s) :
    Same m s0 (State.hallCorrected s q) := by
  refine Same.step ?_ hm h
  unfold State.hallCorrected
  try dsimp only
  repeat' first
    | with_reducible exact Same.refl _ _ | exact rfl | with_reducible assumption
    | exact fun (e : Nat.testBit _ _ = false) => absurd e (by decide) | with_reducible exact fun _ => rfl | intro _
    | with_reducible apply same_ite | with_reducible apply bump_same | with_reducible apply same_foldl
    | with_reducible apply same_overIdx | simp only [↓same_mk_tag] | with_reducible apply SameMk.intro
    | with_reducible apply same_foldl_fst | with_reducible apply same_foldl_snd | split

theorem hallUncorrectable_same {m : Nat} {s0 s : State} {q : Nat} (hm : sub 262290 m = true) (h : Same m s0 s) :
    Same m s0 (State.hallUncorrectable s q) := by
  refine Same.step ?_ hm h
  unfold State.hallUncorrectable
  try dsimp only
  repeat' first
    | with_reducible exact Same.refl _ _ | exact rfl | with_reducible assumption
    | exact fun (e : Nat.testBit _ _ = false) => absurd e (by decide) | with_reducible exact fun _ => rfl | intro _
    | with_reducible apply same_ite | with_reducible apply bump_same | with_reducible apply sticky64_same
    | with_reducible apply same_foldl | with_reducible apply same_overIdx | simp only [↓same_mk_tag]
    | with_reducible apply SameMk.intro | with_reducible apply same_foldl_fst | with_reducible apply same_foldl_snd
    | split

theorem emptyQueue_same {m : Nat} {s0 s : State} {q : Nat} (hm : sub 786578 m = true) (h : Same m s0 s) :
    Same m s0 (State.emptyQueue s q) := by
  refine Same.step ?_ hm h
  unfold State.emptyQueue
  try dsimp only
  repeat' first
    | with_reducible exact Same.refl _ _ | exact rfl | with_reducible assumption
    | exact fun (e : Nat.testBit _ _ = false) => absurd e (by decide) | with_reducible exact fun _ => rfl | intro _
    | with_reducible apply same_ite | with_reducible apply queueTo_same | with_reducible apply same_foldl
    | with_reducible apply same_overIdx | simp only [↓same_mk_tag] | with_reducible apply SameMk.intro
    | with_reducible apply same_foldl_fst | with_reducible apply same_foldl_snd | split

theorem queueReset_same {m : Nat} {s0 s : State} {q : Nat} (hm : sub 786578 m = true) (h : Same m s0 s) :
    Same m s0 (State.queueReset s q) := by
  refine Same.step ?_ hm h
  unfold State.queueReset
  try dsimp only
  repeat' first
    | with_reducible exact Same.refl _ _ | exact rfl | with_reducible assumption
    | exact fun (e : Nat.testBit _ _ = false) => absurd e (by decide) | with_reducible exact fun _ => rfl | intro _
    | with_reducible apply same_ite | with_reducible apply setFire_same | with_reducible apply emptyQueue_same
    | with_reducible apply bumpBy_same | with_reducible apply bump_same | with_reducible apply sticky64_same
    | with_reducible apply same_foldl | with_reducible apply same_overIdx | simp only [↓same_mk_tag]
    | with_reducible apply SameMk.intro | with_reducible apply same_foldl_fst | with_reducible apply same_foldl_snd
    | split

theorem closePacket_same {m : Nat} {s0 s : State} {n : Nat} {p : OutPacket} (hm : sub 786578 m = true)
    (h : Same m s0 s) :
    Same m s0 (State.closePacket s n p) := by
  refine Same.step ?_ hm h
  unfold State.closePacket
  try dsimp only
  repeat' first
    | with_reducible exact Same.refl _ _ | exact rfl | with_reducible assumption
    | exact fun (e : Nat.testBit _ _ = false) => absurd e (by decide) | with_reducible exact fun _ => rfl | intro _
    | with_reducible apply same_ite | with_reducible apply queueTo_same | with_reducible apply after_same
    | with_reducible apply bump_same | with_reducible apply same_foldl | with_reducible apply same_overIdx
    | simp only [↓same_mk_tag] | with_reducible apply SameMk.intro | with_reducible apply same_foldl_fst
    | with_reducible apply same_foldl_snd | split

theorem abandonPacket_same {m : Nat} {s0 s : State} {n : Nat} (hm : sub 786578 m = true) (h : Same m s0 s) :
    Same m s0 (State.abandonPacket s n) := by
  refine Same.step ?_ hm h
  unfold State.abandonPacket
  try dsimp only
  repeat' first
    | with_reducible exact Same.refl _ _ | exact rfl | with_reducible assumption
    | exact fun (e : Nat.testBit _ _ = false) => absurd e (by decide) | with_reducible exact fun _ => rfl | intro _
    | with_reducible apply same_ite | with_reducible apply setPort_same | with_reducible apply queueTo_same
    | with_reducible apply same_foldl | with_reducible apply same_overIdx | simp only [↓same_mk_tag]
    | with_reducible apply SameMk.intro | with_reducible apply same_foldl_fst | with_reducible apply same_foldl_snd
    | split

theorem refuse_same {m : Nat} {s0 s : State} {off : Nat} {reason : Nat} (hm : sub 144 m = true) (h : Same m s0 s) :
    Same m s0 (State.refuse s off reason) := by
  refine Same.step ?_ hm h
  unfold State.refuse
  try dsimp only
  repeat' first
    | with_reducible exact Same.refl _ _ | exact rfl | with_reducible assumption
    | exact fun (e : Nat.testBit _ _ = false) => absurd e (by decide) | with_reducible exact fun _ => rfl | intro _
    | with_reducible apply same_ite | with_reducible apply put_same | with_reducible apply bump_same
    | with_reducible apply same_foldl | with_reducible apply same_overIdx | simp only [↓same_mk_tag]
    | with_reducible apply SameMk.intro | with_reducible apply same_foldl_fst | with_reducible apply same_foldl_snd
    | split

theorem queueEnable_same {m : Nat} {s0 s : State} {q : Nat} {en : Bool} (hm : sub 144 m = true) (h : Same m s0 s) :
    Same m s0 (State.queueEnable s q en) := by
  refine Same.step ?_ hm h
  unfold State.queueEnable
  try dsimp only
  repeat' first
    | with_reducible exact Same.refl _ _ | exact rfl | with_reducible assumption
    | exact fun (e : Nat.testBit _ _ = false) => absurd e (by decide) | with_reducible exact fun _ => rfl | intro _
    | with_reducible apply same_ite | with_reducible apply put_same | with_reducible apply refuse_same
    | with_reducible apply same_foldl | with_reducible apply same_overIdx | simp only [↓same_mk_tag]
    | with_reducible apply SameMk.intro | with_reducible apply same_foldl_fst | with_reducible apply same_foldl_snd
    | split

theorem queueSize_same {m : Nat} {s0 s : State} {q : Nat} {data : Nat} (hm : sub 144 m = true) (h : Same m s0 s) :
    Same m s0 (State.queueSize s q data) := by
  refine Same.step ?_ hm h
  unfold State.queueSize
  try dsimp only
  repeat' first
    | with_reducible exact Same.refl _ _ | exact rfl | with_reducible assumption
    | exact fun (e : Nat.testBit _ _ = false) => absurd e (by decide) | with_reducible exact fun _ => rfl | intro _
    | with_reducible apply same_ite | with_reducible apply refuse_same | with_reducible apply put_same
    | with_reducible apply same_foldl | with_reducible apply same_overIdx | simp only [↓same_mk_tag]
    | with_reducible apply SameMk.intro | with_reducible apply same_foldl_fst | with_reducible apply same_foldl_snd
    | split

theorem flowMap_same {m : Nat} {s0 s : State} {n : Nat} {data : Nat} (hm : sub 524304 m = true) (h : Same m s0 s) :
    Same m s0 (State.flowMap s n data) := by
  refine Same.step ?_ hm h
  unfold State.flowMap
  try dsimp only
  repeat' first
    | with_reducible exact Same.refl _ _ | exact rfl | with_reducible assumption
    | exact fun (e : Nat.testBit _ _ = false) => absurd e (by decide) | with_reducible exact fun _ => rfl | intro _
    | with_reducible apply same_ite | with_reducible apply put_same | with_reducible apply same_foldl
    | with_reducible apply same_overIdx | simp only [↓same_mk_tag] | with_reducible apply SameMk.intro
    | with_reducible apply same_foldl_fst | with_reducible apply same_foldl_snd | split

theorem setPipe_same {m : Nat} {s0 s : State} {p : Nat} {x : Pipe} (hm : sub 2097152 m = true) (h : Same m s0 s) :
    Same m s0 (State.setPipe s p x) := by
  refine Same.step ?_ hm h
  unfold State.setPipe
  try dsimp only
  repeat' first
    | with_reducible exact Same.refl _ _ | exact rfl | with_reducible assumption
    | exact fun (e : Nat.testBit _ _ = false) => absurd e (by decide) | with_reducible exact fun _ => rfl | intro _
    | with_reducible apply same_ite | with_reducible apply same_foldl | with_reducible apply same_overIdx
    | simp only [↓same_mk_tag] | with_reducible apply SameMk.intro | with_reducible apply same_foldl_fst
    | with_reducible apply same_foldl_snd | split

theorem modFrame_same {m : Nat} {s0 s : State} {p : Nat} {f : Nat} {h_ : PipeFrame → PipeFrame}
    (hm : sub 2097152 m = true) (h : Same m s0 s) :
    Same m s0 (State.modFrame s p f h_) := by
  refine Same.step ?_ hm h
  unfold State.modFrame
  try dsimp only
  repeat' first
    | with_reducible exact Same.refl _ _ | exact rfl | with_reducible assumption
    | exact fun (e : Nat.testBit _ _ = false) => absurd e (by decide) | with_reducible exact fun _ => rfl | intro _
    | with_reducible apply same_ite | with_reducible apply setPipe_same | with_reducible apply same_foldl
    | with_reducible apply same_overIdx | simp only [↓same_mk_tag] | with_reducible apply SameMk.intro
    | with_reducible apply same_foldl_fst | with_reducible apply same_foldl_snd | split

theorem setTap_same {m : Nat} {s0 s : State} {p : Nat} {t : Nat} {x : Tap} (hm : sub 2097152 m = true)
    (h : Same m s0 s) :
    Same m s0 (State.setTap s p t x) := by
  refine Same.step ?_ hm h
  unfold State.setTap
  try dsimp only
  repeat' first
    | with_reducible exact Same.refl _ _ | exact rfl | with_reducible assumption
    | exact fun (e : Nat.testBit _ _ = false) => absurd e (by decide) | with_reducible exact fun _ => rfl | intro _
    | with_reducible apply same_ite | with_reducible apply setPipe_same | with_reducible apply same_foldl
    | with_reducible apply same_overIdx | simp only [↓same_mk_tag] | with_reducible apply SameMk.intro
    | with_reducible apply same_foldl_fst | with_reducible apply same_foldl_snd | split

theorem countSkip_same {m : Nat} {s0 s : State} {p : Nat} {t : Nat} {seq : Nat} (hm : sub 2359442 m = true)
    (h : Same m s0 s) :
    Same m s0 (State.countSkip s p t seq) := by
  refine Same.step ?_ hm h
  unfold State.countSkip
  try dsimp only
  repeat' first
    | with_reducible exact Same.refl _ _ | exact rfl | with_reducible assumption
    | exact fun (e : Nat.testBit _ _ = false) => absurd e (by decide) | with_reducible exact fun _ => rfl | intro _
    | with_reducible apply same_ite | with_reducible apply setTap_same | with_reducible apply sticky_same
    | with_reducible apply bump_same | with_reducible apply same_foldl | with_reducible apply same_overIdx
    | simp only [↓same_mk_tag] | with_reducible apply SameMk.intro | with_reducible apply same_foldl_fst
    | with_reducible apply same_foldl_snd | split

theorem hostReturns_same {m : Nat} {s0 s : State} (hm : sub 524288 m = true) (h : Same m s0 s) :
    Same m s0 (State.hostReturns s) := by
  refine Same.step ?_ hm h
  unfold State.hostReturns
  try dsimp only
  repeat' first
    | with_reducible exact Same.refl _ _ | exact rfl | with_reducible assumption
    | exact fun (e : Nat.testBit _ _ = false) => absurd e (by decide) | with_reducible exact fun _ => rfl | intro _
    | with_reducible apply same_ite | with_reducible apply same_foldl | with_reducible apply same_overIdx
    | simp only [↓same_mk_tag] | with_reducible apply SameMk.intro | with_reducible apply same_foldl_fst
    | with_reducible apply same_foldl_snd | split

theorem voidParts_same {m : Nat} {s0 s : State} {p : Nat} {t : Nat} {q : Nat} (hm : sub 2359442 m = true)
    (h : Same m s0 s) :
    Same m s0 (State.voidParts s p t q).1 := by
  refine Same.step ?_ hm h
  unfold State.voidParts
  try dsimp only
  repeat' first
    | with_reducible exact Same.refl _ _ | exact rfl | with_reducible assumption
    | exact fun (e : Nat.testBit _ _ = false) => absurd e (by decide) | with_reducible exact fun _ => rfl | intro _
    | with_reducible apply same_ite | with_reducible apply setTap_same | with_reducible apply bump_same
    | with_reducible apply countSkip_same | with_reducible apply same_foldl | with_reducible apply same_overIdx
    | simp only [↓same_mk_tag] | with_reducible apply SameMk.intro | with_reducible apply same_foldl_fst
    | with_reducible apply same_foldl_snd | split

theorem refusePacket_same {m : Nat} {s0 s : State} {p : Nat} {t : Nat} {q : Nat} (hm : sub 2883730 m = true)
    (h : Same m s0 s) :
    Same m s0 (State.refusePacket s p t q) := by
  refine Same.step ?_ hm h
  unfold State.refusePacket
  try dsimp only
  repeat' first
    | with_reducible exact Same.refl _ _ | exact rfl | with_reducible assumption
    | exact fun (e : Nat.testBit _ _ = false) => absurd e (by decide) | with_reducible exact fun _ => rfl | intro _
    | with_reducible apply same_ite | with_reducible apply abandonPacket_same | with_reducible apply voidParts_same
    | with_reducible apply startPort_same | with_reducible apply setPort_same | with_reducible apply same_foldl
    | with_reducible apply same_overIdx | simp only [↓same_mk_tag] | with_reducible apply SameMk.intro
    | with_reducible apply same_foldl_fst | with_reducible apply same_foldl_snd | split

theorem offerTap_same {m : Nat} {s0 s : State} {p : Nat} {t : Nat} {o : OutPacket} (hm : sub 2883730 m = true)
    (h : Same m s0 s) :
    Same m s0 (State.offerTap s p t o) := by
  refine Same.step ?_ hm h
  unfold State.offerTap
  try dsimp only
  repeat' first
    | with_reducible exact Same.refl _ _ | exact rfl | with_reducible assumption
    | exact fun (e : Nat.testBit _ _ = false) => absurd e (by decide) | with_reducible exact fun _ => rfl | intro _
    | with_reducible apply same_ite | with_reducible apply refusePacket_same | with_reducible apply offerPacket_same
    | with_reducible apply same_foldl | with_reducible apply same_overIdx | simp only [↓same_mk_tag]
    | with_reducible apply SameMk.intro | with_reducible apply same_foldl_fst | with_reducible apply same_foldl_snd
    | split

theorem openPart_same {m : Nat} {s0 s : State} {p : Nat} {t : Nat} {f : Nat} {hdr : Nat → List Byte}
    (hm : sub 2883730 m = true) (h : Same m s0 s) :
    Same m s0 (State.openPart s p t f hdr).1 := by
  refine Same.step ?_ hm h
  unfold State.openPart
  try dsimp only
  repeat' first
    | with_reducible exact Same.refl _ _ | exact rfl | with_reducible assumption
    | exact fun (e : Nat.testBit _ _ = false) => absurd e (by decide) | with_reducible exact fun _ => rfl | intro _
    | with_reducible apply same_ite | with_reducible apply put_same | with_reducible apply setTap_same
    | with_reducible apply offerTap_same | with_reducible apply same_foldl | with_reducible apply same_overIdx
    | simp only [↓same_mk_tag] | with_reducible apply SameMk.intro | with_reducible apply same_foldl_fst
    | with_reducible apply same_foldl_snd | split

theorem skipPart_same {m : Nat} {s0 s : State} {p : Nat} {t : Nat} (hm : sub 2359442 m = true) (h : Same m s0 s) :
    Same m s0 (State.skipPart s p t) := by
  refine Same.step ?_ hm h
  unfold State.skipPart
  try dsimp only
  repeat' first
    | with_reducible exact Same.refl _ _ | exact rfl | with_reducible assumption
    | exact fun (e : Nat.testBit _ _ = false) => absurd e (by decide) | with_reducible exact fun _ => rfl | intro _
    | with_reducible apply same_ite | with_reducible apply countSkip_same | with_reducible apply put_same
    | with_reducible apply same_foldl | with_reducible apply same_overIdx | simp only [↓same_mk_tag]
    | with_reducible apply SameMk.intro | with_reducible apply same_foldl_fst | with_reducible apply same_foldl_snd
    | split

theorem closePart_same {m : Nat} {s0 s : State} {p : Nat} {t : Nat} {seq : Nat} {status : Nat}
    (hm : sub 2883730 m = true) (h : Same m s0 s) :
    Same m s0 (State.closePart s p t seq status) := by
  refine Same.step ?_ hm h
  unfold State.closePart
  try dsimp only
  repeat' first
    | with_reducible exact Same.refl _ _ | exact rfl | with_reducible assumption
    | exact fun (e : Nat.testBit _ _ = false) => absurd e (by decide) | with_reducible exact fun _ => rfl | intro _
    | with_reducible apply same_ite | with_reducible apply offerTap_same | with_reducible apply same_foldl
    | with_reducible apply same_overIdx | simp only [↓same_mk_tag] | with_reducible apply SameMk.intro
    | with_reducible apply same_foldl_fst | with_reducible apply same_foldl_snd | split

theorem modTapPart_same {m : Nat} {s0 s : State} {p : Nat} {f : Nat} {node : Nat} {win : Nat} {t : Nat}
    {h_ : TapPart → TapPart} (hm : sub 2097152 m = true) (h : Same m s0 s) :
    Same m s0 (State.modTapPart s p f node win t h_) := by
  refine Same.step ?_ hm h
  unfold State.modTapPart
  try dsimp only
  repeat' first
    | with_reducible exact Same.refl _ _ | exact rfl | with_reducible assumption
    | exact fun (e : Nat.testBit _ _ = false) => absurd e (by decide) | with_reducible exact fun _ => rfl | intro _
    | with_reducible apply same_ite | with_reducible apply modFrame_same | with_reducible apply same_foldl
    | with_reducible apply same_overIdx | simp only [↓same_mk_tag] | with_reducible apply SameMk.intro
    | with_reducible apply same_foldl_fst | with_reducible apply same_foldl_snd | split

theorem writeBody_same {m : Nat} {s0 s : State} {p : Nat} {t : Nat} {r : PipeFrame} {x : Part} {i : Nat}
    (hm : sub 2883730 m = true) (h : Same m s0 s) :
    Same m s0 (State.writeBody s p t r x i) := by
  refine Same.step ?_ hm h
  unfold State.writeBody
  try dsimp only
  repeat' first
    | with_reducible exact Same.refl _ _ | exact rfl | with_reducible assumption
    | exact fun (e : Nat.testBit _ _ = false) => absurd e (by decide) | with_reducible exact fun _ => rfl | intro _
    | with_reducible apply same_ite | with_reducible apply modTapPart_same | with_reducible apply offerTap_same
    | with_reducible apply closePart_same | with_reducible apply openPart_same | with_reducible apply skipPart_same
    | with_reducible apply same_foldl | with_reducible apply same_overIdx | simp only [↓same_mk_tag]
    | with_reducible apply SameMk.intro | with_reducible apply same_foldl_fst | with_reducible apply same_foldl_snd
    | split

theorem writeBodies_same {m : Nat} {s0 s : State} {p : Nat} {t : Nat} {a2 : Nat} (hm : sub 2883730 m = true)
    (h : Same m s0 s) :
    Same m s0 (State.writeBodies s p t a2) := by
  refine Same.step ?_ hm h
  clear h
  induction a2 generalizing s with
  | zero => exact Same.refl _ _
  | succ n ih =>
    unfold State.writeBodies
    try dsimp only
    repeat' first
      | with_reducible exact Same.refl _ _ | exact rfl | with_reducible assumption
      | exact fun (e : Nat.testBit _ _ = false) => absurd e (by decide) | with_reducible exact fun _ => rfl | intro _
      | with_reducible apply same_ite | (with_reducible apply Same.step (hm := sub_self _) ih)
      | with_reducible apply writeBody_same | with_reducible apply same_foldl | with_reducible apply same_overIdx
      | simp only [↓same_mk_tag] | with_reducible apply SameMk.intro | with_reducible apply same_foldl_fst
      | with_reducible apply same_foldl_snd | split

theorem runTaps_same {m : Nat} {s0 s : State} {p : Nat} (hm : sub 2883730 m = true) (h : Same m s0 s) :
    Same m s0 (State.runTaps s p) := by
  refine Same.step ?_ hm h
  unfold State.runTaps
  try dsimp only
  repeat' first
    | with_reducible exact Same.refl _ _ | exact rfl | with_reducible assumption
    | exact fun (e : Nat.testBit _ _ = false) => absurd e (by decide) | with_reducible exact fun _ => rfl | intro _
    | with_reducible apply same_ite | with_reducible apply writeBodies_same | with_reducible apply same_foldl
    | with_reducible apply same_overIdx | simp only [↓same_mk_tag] | with_reducible apply SameMk.intro
    | with_reducible apply same_foldl_fst | with_reducible apply same_foldl_snd | split

theorem writeRecords_same {m : Nat} {s0 s : State} {p : Nat} {f : Nat} {status : Nat} (hm : sub 2883730 m = true)
    (h : Same m s0 s) :
    Same m s0 (State.writeRecords s p f status) := by
  refine Same.step ?_ hm h
  unfold State.writeRecords
  try dsimp only
  repeat' first
    | with_reducible exact Same.refl _ _ | exact rfl | with_reducible assumption
    | exact fun (e : Nat.testBit _ _ = false) => absurd e (by decide) | with_reducible exact fun _ => rfl | intro _
    | with_reducible apply same_ite | with_reducible apply modFrame_same | with_reducible apply skipPart_same
    | with_reducible apply openPart_same | with_reducible apply offerTap_same | with_reducible apply closePart_same
    | with_reducible apply same_foldl | with_reducible apply same_overIdx | simp only [↓same_mk_tag]
    | with_reducible apply SameMk.intro | with_reducible apply same_foldl_fst | with_reducible apply same_foldl_snd
    | split

theorem accepted_same {m : Nat} {s0 s : State} {n : Nat} {o : OutPacket} (hm : sub 2097152 m = true) (h : Same m s0 s)
    :
    Same m s0 (State.accepted s n o) := by
  refine Same.step ?_ hm h
  unfold State.accepted
  try dsimp only
  repeat' first
    | with_reducible exact Same.refl _ _ | exact rfl | with_reducible assumption
    | exact fun (e : Nat.testBit _ _ = false) => absurd e (by decide) | with_reducible exact fun _ => rfl | intro _
    | with_reducible apply same_ite | with_reducible apply setTap_same | with_reducible apply same_foldl
    | with_reducible apply same_overIdx | simp only [↓same_mk_tag] | with_reducible apply SameMk.intro
    | with_reducible apply same_foldl_fst | with_reducible apply same_foldl_snd | split

theorem filledIn_same {m : Nat} {s0 s : State} {n : Nat} {o : OutPacket} (hm : sub 2097152 m = true) (h : Same m s0 s)
    :
    Same m s0 (State.filledIn s n o).1 := by
  refine Same.step ?_ hm h
  unfold State.filledIn
  try dsimp only
  repeat' first
    | with_reducible exact Same.refl _ _ | exact rfl | with_reducible assumption
    | exact fun (e : Nat.testBit _ _ = false) => absurd e (by decide) | with_reducible exact fun _ => rfl | intro _
    | with_reducible apply same_ite | with_reducible apply setTap_same | with_reducible apply same_foldl
    | with_reducible apply same_overIdx | simp only [↓same_mk_tag] | with_reducible apply SameMk.intro
    | with_reducible apply same_foldl_fst | with_reducible apply same_foldl_snd | split

theorem settle_same {m : Nat} {s0 s : State} {p : Nat} (hm : sub 2097154 m = true) (h : Same m s0 s) :
    Same m s0 (State.settle s p) := by
  refine Same.step ?_ hm h
  unfold State.settle
  try dsimp only
  repeat' first
    | with_reducible exact Same.refl _ _ | exact rfl | with_reducible assumption
    | exact fun (e : Nat.testBit _ _ = false) => absurd e (by decide) | with_reducible exact fun _ => rfl | intro _
    | with_reducible apply same_ite | with_reducible apply setPipe_same | with_reducible apply after_same
    | with_reducible apply same_foldl | with_reducible apply same_overIdx | simp only [↓same_mk_tag]
    | with_reducible apply SameMk.intro | with_reducible apply same_foldl_fst | with_reducible apply same_foldl_snd
    | split

theorem portClose_same {m : Nat} {s0 s : State} {n : Nat} (hm : sub 2883730 m = true) (h : Same m s0 s) :
    Same m s0 (State.portClose s n) := by
  refine Same.step ?_ hm h
  unfold State.portClose
  try dsimp only
  repeat' first
    | with_reducible exact Same.refl _ _ | exact rfl | with_reducible assumption
    | exact fun (e : Nat.testBit _ _ = false) => absurd e (by decide) | with_reducible exact fun _ => rfl | intro _
    | with_reducible apply same_ite | with_reducible apply setPort_same | with_reducible apply closePacket_same
    | with_reducible apply startPort_same | with_reducible apply accepted_same | with_reducible apply settle_same
    | with_reducible apply same_foldl | with_reducible apply same_overIdx | simp only [↓same_mk_tag]
    | with_reducible apply SameMk.intro | with_reducible apply same_foldl_fst | with_reducible apply same_foldl_snd
    | split

theorem tapLoses_same {m : Nat} {s0 s : State} {q : Nat} {n : Nat} (hm : sub 2883730 m = true) (h : Same m s0 s) :
    Same m s0 (State.tapLoses s q n) := by
  refine Same.step ?_ hm h
  unfold State.tapLoses
  try dsimp only
  repeat' first
    | with_reducible exact Same.refl _ _ | exact rfl | with_reducible assumption
    | exact fun (e : Nat.testBit _ _ = false) => absurd e (by decide) | with_reducible exact fun _ => rfl | intro _
    | with_reducible apply same_ite | with_reducible apply voidParts_same | with_reducible apply setTap_same
    | with_reducible apply startPort_same | with_reducible apply setPort_same | with_reducible apply same_foldl
    | with_reducible apply same_overIdx | simp only [↓same_mk_tag] | with_reducible apply SameMk.intro
    | with_reducible apply same_foldl_fst | with_reducible apply same_foldl_snd | split

theorem blockSkipped_same {m : Nat} {s0 s : State} (hm : sub 295058 m = true) (h : Same m s0 s) :
    Same m s0 (State.blockSkipped s) := by
  refine Same.step ?_ hm h
  unfold State.blockSkipped
  try dsimp only
  repeat' first
    | with_reducible exact Same.refl _ _ | exact rfl | with_reducible assumption
    | exact fun (e : Nat.testBit _ _ = false) => absurd e (by decide) | with_reducible exact fun _ => rfl | intro _
    | with_reducible apply same_ite | with_reducible apply bump_same | with_reducible apply sticky_same
    | with_reducible apply same_foldl | with_reducible apply same_overIdx | simp only [↓same_mk_tag]
    | with_reducible apply SameMk.intro | with_reducible apply same_foldl_fst | with_reducible apply same_foldl_snd
    | split

theorem writersLose_same {m : Nat} {s0 s : State} {q : Nat} (hm : sub 2916498 m = true) (h : Same m s0 s) :
    Same m s0 (State.writersLose s q) := by
  refine Same.step ?_ hm h
  unfold State.writersLose
  try dsimp only
  repeat' first
    | with_reducible exact Same.refl _ _ | exact rfl | with_reducible assumption
    | exact fun (e : Nat.testBit _ _ = false) => absurd e (by decide) | with_reducible exact fun _ => rfl | intro _
    | with_reducible apply same_ite | with_reducible apply tapLoses_same | with_reducible apply startPort_same
    | with_reducible apply blockSkipped_same | with_reducible apply setPort_same | with_reducible apply same_foldl
    | with_reducible apply same_overIdx | simp only [↓same_mk_tag] | with_reducible apply SameMk.intro
    | with_reducible apply same_foldl_fst | with_reducible apply same_foldl_snd | split

theorem resetQueue_same {m : Nat} {s0 s : State} {q : Nat} (hm : sub 2916498 m = true) (h : Same m s0 s) :
    Same m s0 (State.resetQueue s q) := by
  refine Same.step ?_ hm h
  unfold State.resetQueue
  try dsimp only
  repeat' first
    | with_reducible exact Same.refl _ _ | exact rfl | with_reducible assumption
    | exact fun (e : Nat.testBit _ _ = false) => absurd e (by decide) | with_reducible exact fun _ => rfl | intro _
    | with_reducible apply same_ite | with_reducible apply queueReset_same | with_reducible apply writersLose_same
    | with_reducible apply same_foldl | with_reducible apply same_overIdx | simp only [↓same_mk_tag]
    | with_reducible apply SameMk.intro | with_reducible apply same_foldl_fst | with_reducible apply same_foldl_snd
    | split

theorem writerCheck_same {m : Nat} {s0 s : State} {n : Nat} {chk : HallCheck} (hm : sub 2916498 m = true)
    (h : Same m s0 s) :
    Same m s0 (State.writerCheck s n chk) := by
  refine Same.step ?_ hm h
  unfold State.writerCheck
  try dsimp only
  repeat' first
    | with_reducible exact Same.refl _ _ | exact rfl | with_reducible assumption
    | exact fun (e : Nat.testBit _ _ = false) => absurd e (by decide) | with_reducible exact fun _ => rfl | intro _
    | with_reducible apply same_ite | with_reducible apply hallCorrected_same | with_reducible apply resetQueue_same
    | with_reducible apply freeListFails_same | with_reducible apply same_foldl | with_reducible apply same_overIdx
    | simp only [↓same_mk_tag] | with_reducible apply SameMk.intro | with_reducible apply same_foldl_fst
    | with_reducible apply same_foldl_snd | split

theorem portWrite_same {m : Nat} {s0 s : State} {n : Nat} {chk : HallCheck} (hm : sub 2916498 m = true)
    (h : Same m s0 s) :
    Same m s0 (State.portWrite s n chk) := by
  refine Same.step ?_ hm h
  unfold State.portWrite
  try dsimp only
  repeat' first
    | with_reducible exact Same.refl _ _ | exact rfl | with_reducible assumption
    | exact fun (e : Nat.testBit _ _ = false) => absurd e (by decide) | with_reducible exact fun _ => rfl | intro _
    | with_reducible apply same_ite | with_reducible apply writerCheck_same | with_reducible apply writeStep_same
    | with_reducible apply same_foldl | with_reducible apply same_overIdx | simp only [↓same_mk_tag]
    | with_reducible apply SameMk.intro | with_reducible apply same_foldl_fst | with_reducible apply same_foldl_snd
    | split

theorem unblock_same {m : Nat} {s0 s : State} {q : Nat} (hm : sub 786578 m = true) (h : Same m s0 s) :
    Same m s0 (State.unblock s q) := by
  refine Same.step ?_ hm h
  unfold State.unblock
  try dsimp only
  repeat' first
    | with_reducible exact Same.refl _ _ | exact rfl | with_reducible assumption
    | exact fun (e : Nat.testBit _ _ = false) => absurd e (by decide) | with_reducible exact fun _ => rfl | intro _
    | with_reducible apply same_ite | with_reducible apply withdraw_same | with_reducible apply takeCell_same
    | with_reducible apply after_same | with_reducible apply bump_same | with_reducible apply same_foldl
    | with_reducible apply same_overIdx | simp only [↓same_mk_tag] | with_reducible apply SameMk.intro
    | with_reducible apply same_foldl_fst | with_reducible apply same_foldl_snd | split

theorem portAbandon_same {m : Nat} {s0 s : State} {n : Nat} (hm : sub 2883730 m = true) (h : Same m s0 s) :
    Same m s0 (State.portAbandon s n) := by
  refine Same.step ?_ hm h
  unfold State.portAbandon
  try dsimp only
  repeat' first
    | with_reducible exact Same.refl _ _ | exact rfl | with_reducible assumption
    | exact fun (e : Nat.testBit _ _ = false) => absurd e (by decide) | with_reducible exact fun _ => rfl | intro _
    | with_reducible apply same_ite | with_reducible apply refusePacket_same | with_reducible apply startPort_same
    | with_reducible apply abandonPacket_same | with_reducible apply same_foldl | with_reducible apply same_overIdx
    | simp only [↓same_mk_tag] | with_reducible apply SameMk.intro | with_reducible apply same_foldl_fst
    | with_reducible apply same_foldl_snd | split

theorem storeWrite_same {m : Nat} {s0 s : State} {a : Nat} {bs : List Byte} (hm : sub 1610612736 m = true)
    (h : Same m s0 s) :
    Same m s0 (State.storeWrite s a bs) := by
  refine Same.step ?_ hm h
  unfold State.storeWrite
  try dsimp only
  repeat' first
    | with_reducible exact Same.refl _ _ | exact rfl | with_reducible assumption
    | exact fun (e : Nat.testBit _ _ = false) => absurd e (by decide) | with_reducible exact fun _ => rfl | intro _
    | with_reducible apply same_ite | with_reducible apply same_foldl | with_reducible apply same_overIdx
    | simp only [↓same_mk_tag] | with_reducible apply SameMk.intro | with_reducible apply same_foldl_fst
    | with_reducible apply same_foldl_snd | split

theorem storeCorrected_same {m : Nat} {s0 s : State} {a : Nat} (hm : sub 144 m = true) (h : Same m s0 s) :
    Same m s0 (State.storeCorrected s a) := by
  refine Same.step ?_ hm h
  unfold State.storeCorrected
  try dsimp only
  repeat' first
    | with_reducible exact Same.refl _ _ | exact rfl | with_reducible assumption
    | exact fun (e : Nat.testBit _ _ = false) => absurd e (by decide) | with_reducible exact fun _ => rfl | intro _
    | with_reducible apply same_ite | with_reducible apply bump_same | with_reducible apply same_foldl
    | with_reducible apply same_overIdx | simp only [↓same_mk_tag] | with_reducible apply SameMk.intro
    | with_reducible apply same_foldl_fst | with_reducible apply same_foldl_snd | split

theorem storeUncorrectable_same {m : Nat} {s0 s : State} {a : Nat} (hm : sub 262290 m = true) (h : Same m s0 s) :
    Same m s0 (State.storeUncorrectable s a) := by
  refine Same.step ?_ hm h
  unfold State.storeUncorrectable
  try dsimp only
  repeat' first
    | with_reducible exact Same.refl _ _ | exact rfl | with_reducible assumption
    | exact fun (e : Nat.testBit _ _ = false) => absurd e (by decide) | with_reducible exact fun _ => rfl | intro _
    | with_reducible apply same_ite | with_reducible apply putPair_same | with_reducible apply bump_same
    | with_reducible apply sticky_same | with_reducible apply same_foldl | with_reducible apply same_overIdx
    | simp only [↓same_mk_tag] | with_reducible apply SameMk.intro | with_reducible apply same_foldl_fst
    | with_reducible apply same_foldl_snd | split

theorem storeReadCheck_same {m : Nat} {s0 s : State} {a : Nat} {n : Nat} (hm : sub 262290 m = true) (h : Same m s0 s)
    :
    Same m s0 (State.storeReadCheck s a n).2 := by
  refine Same.step ?_ hm h
  unfold State.storeReadCheck
  try dsimp only
  repeat' first
    | with_reducible exact Same.refl _ _ | exact rfl | with_reducible assumption
    | exact fun (e : Nat.testBit _ _ = false) => absurd e (by decide) | with_reducible exact fun _ => rfl | intro _
    | with_reducible apply same_ite | with_reducible apply storeUncorrectable_same | with_reducible apply same_foldl
    | with_reducible apply same_overIdx | simp only [↓same_mk_tag] | with_reducible apply SameMk.intro
    | with_reducible apply same_foldl_fst | with_reducible apply same_foldl_snd | split

theorem readsMeet_same {m : Nat} {s0 s : State} {l : List (Nat × Nat)} (hm : sub 262290 m = true) (h : Same m s0 s) :
    Same m s0 (State.readsMeet s l) := by
  refine Same.step ?_ hm h
  unfold State.readsMeet
  try dsimp only
  repeat' first
    | with_reducible exact Same.refl _ _ | exact rfl | with_reducible assumption
    | exact fun (e : Nat.testBit _ _ = false) => absurd e (by decide) | with_reducible exact fun _ => rfl | intro _
    | with_reducible apply same_ite | with_reducible apply storeUncorrectable_same | with_reducible apply same_foldl
    | with_reducible apply same_overIdx | simp only [↓same_mk_tag] | with_reducible apply SameMk.intro
    | with_reducible apply same_foldl_fst | with_reducible apply same_foldl_snd | split

theorem rollbackTo_same {m : Nat} {s0 s : State} {v : Nat} (hm : sub 17179869184 m = true) (h : Same m s0 s) :
    Same m s0 (State.rollbackTo s v) := by
  refine Same.step ?_ hm h
  unfold State.rollbackTo
  try dsimp only
  repeat' first
    | with_reducible exact Same.refl _ _ | exact rfl | with_reducible assumption
    | exact fun (e : Nat.testBit _ _ = false) => absurd e (by decide) | with_reducible exact fun _ => rfl | intro _
    | with_reducible apply same_ite | with_reducible apply same_foldl | with_reducible apply same_overIdx
    | simp only [↓same_mk_tag] | with_reducible apply SameMk.intro | with_reducible apply same_foldl_fst
    | with_reducible apply same_foldl_snd | split

theorem freeBytes_same {m : Nat} {s0 s : State} {n : Nat} (hm : sub 8 m = true) (h : Same m s0 s) :
    Same m s0 (State.freeBytes s n).2 := by
  refine Same.step ?_ hm h
  unfold State.freeBytes
  try dsimp only
  repeat' first
    | with_reducible exact Same.refl _ _ | exact rfl | with_reducible assumption
    | exact fun (e : Nat.testBit _ _ = false) => absurd e (by decide) | with_reducible exact fun _ => rfl | intro _
    | with_reducible apply same_ite | with_reducible apply same_foldl | with_reducible apply same_overIdx
    | simp only [↓same_mk_tag] | with_reducible apply SameMk.intro | with_reducible apply same_foldl_fst
    | with_reducible apply same_foldl_snd | split

theorem orFree_same {m : Nat} {s0 s : State} {given : Option (List Byte)} {n : Nat} (hm : sub 8 m = true)
    (h : Same m s0 s) :
    Same m s0 (State.orFree s given n).2 := by
  refine Same.step ?_ hm h
  unfold State.orFree
  try dsimp only
  repeat' first
    | with_reducible exact Same.refl _ _ | exact rfl | with_reducible assumption
    | exact fun (e : Nat.testBit _ _ = false) => absurd e (by decide) | with_reducible exact fun _ => rfl | intro _
    | with_reducible apply same_ite | with_reducible apply freeBytes_same | with_reducible apply same_foldl
    | with_reducible apply same_overIdx | simp only [↓same_mk_tag] | with_reducible apply SameMk.intro
    | with_reducible apply same_foldl_fst | with_reducible apply same_foldl_snd | split

theorem modRing_same {m : Nat} {s0 s : State} {i : Nat} {f : SubRing → SubRing} (hm : sub 268435456 m = true)
    (h : Same m s0 s) :
    Same m s0 (State.modRing s i f) := by
  refine Same.step ?_ hm h
  unfold State.modRing
  try dsimp only
  repeat' first
    | with_reducible exact Same.refl _ _ | exact rfl | with_reducible assumption
    | exact fun (e : Nat.testBit _ _ = false) => absurd e (by decide) | with_reducible exact fun _ => rfl | intro _
    | with_reducible apply same_ite | with_reducible apply same_foldl | with_reducible apply same_overIdx
    | simp only [↓same_mk_tag] | with_reducible apply SameMk.intro | with_reducible apply same_foldl_fst
    | with_reducible apply same_foldl_snd | split

theorem modSlot_same {m : Nat} {s0 s : State} {u : Nat} {f : Slot → Slot} (hm : sub 268435456 m = true)
    (h : Same m s0 s) :
    Same m s0 (State.modSlot s u f) := by
  refine Same.step ?_ hm h
  unfold State.modSlot
  try dsimp only
  repeat' first
    | with_reducible exact Same.refl _ _ | exact rfl | with_reducible assumption
    | exact fun (e : Nat.testBit _ _ = false) => absurd e (by decide) | with_reducible exact fun _ => rfl | intro _
    | with_reducible apply same_ite | with_reducible apply same_foldl | with_reducible apply same_overIdx
    | simp only [↓same_mk_tag] | with_reducible apply SameMk.intro | with_reducible apply same_foldl_fst
    | with_reducible apply same_foldl_snd | split

theorem modJob_same {m : Nat} {s0 s : State} {u : Nat} {f : Job → Job} (hm : sub 268435456 m = true) (h : Same m s0 s)
    :
    Same m s0 (State.modJob s u f) := by
  refine Same.step ?_ hm h
  unfold State.modJob
  try dsimp only
  repeat' first
    | with_reducible exact Same.refl _ _ | exact rfl | with_reducible assumption
    | exact fun (e : Nat.testBit _ _ = false) => absurd e (by decide) | with_reducible exact fun _ => rfl | intro _
    | with_reducible apply same_ite | with_reducible apply modSlot_same | with_reducible apply same_foldl
    | with_reducible apply same_overIdx | simp only [↓same_mk_tag] | with_reducible apply SameMk.intro
    | with_reducible apply same_foldl_fst | with_reducible apply same_foldl_snd | split

theorem traffic_same {m : Nat} {s0 s : State} (hm : sub 2066 m = true) (h : Same m s0 s) :
    Same m s0 (State.traffic s) := by
  refine Same.step ?_ hm h
  unfold State.traffic
  try dsimp only
  repeat' first
    | with_reducible exact Same.refl _ _ | exact rfl | with_reducible assumption
    | exact fun (e : Nat.testBit _ _ = false) => absurd e (by decide) | with_reducible exact fun _ => rfl | intro _
    | with_reducible apply same_ite | with_reducible apply put_same | with_reducible apply after_same
    | with_reducible apply same_foldl | with_reducible apply same_overIdx | simp only [↓same_mk_tag]
    | with_reducible apply SameMk.intro | with_reducible apply same_foldl_fst | with_reducible apply same_foldl_snd
    | split

theorem hostPut_same {m : Nat} {s0 s : State} {a : Nat} {bs : List Byte} (hm : sub 2066 m = true) (h : Same m s0 s) :
    Same m s0 (State.hostPut s a bs) := by
  refine Same.step ?_ hm h
  unfold State.hostPut
  try dsimp only
  repeat' first
    | with_reducible exact Same.refl _ _ | exact rfl | with_reducible assumption
    | exact fun (e : Nat.testBit _ _ = false) => absurd e (by decide) | with_reducible exact fun _ => rfl | intro _
    | with_reducible apply same_ite | with_reducible apply traffic_same | with_reducible apply hostWrite_same
    | with_reducible apply same_foldl | with_reducible apply same_overIdx | simp only [↓same_mk_tag]
    | with_reducible apply SameMk.intro | with_reducible apply same_foldl_fst | with_reducible apply same_foldl_snd
    | split

theorem hostPutData_same {m : Nat} {s0 s : State} {a : Nat} {bs : List Byte} (hm : sub 2066 m = true)
    (h : Same m s0 s) :
    Same m s0 (State.hostPutData s a bs) := by
  refine Same.step ?_ hm h
  unfold State.hostPutData
  try dsimp only
  repeat' first
    | with_reducible exact Same.refl _ _ | exact rfl | with_reducible assumption
    | exact fun (e : Nat.testBit _ _ = false) => absurd e (by decide) | with_reducible exact fun _ => rfl | intro _
    | with_reducible apply same_ite | with_reducible apply traffic_same | with_reducible apply hostWrite_same
    | with_reducible apply same_foldl | with_reducible apply same_overIdx | simp only [↓same_mk_tag]
    | with_reducible apply SameMk.intro | with_reducible apply same_foldl_fst | with_reducible apply same_foldl_snd
    | split

theorem hostGet_same {m : Nat} {s0 s : State} {a : Nat} {n : Nat} (hm : sub 2066 m = true) (h : Same m s0 s) :
    Same m s0 (State.hostGet s a n) := by
  refine Same.step ?_ hm h
  unfold State.hostGet
  try dsimp only
  repeat' first
    | with_reducible exact Same.refl _ _ | exact rfl | with_reducible assumption
    | exact fun (e : Nat.testBit _ _ = false) => absurd e (by decide) | with_reducible exact fun _ => rfl | intro _
    | with_reducible apply same_ite | with_reducible apply traffic_same | with_reducible apply hostAsk_same
    | with_reducible apply same_foldl | with_reducible apply same_overIdx | simp only [↓same_mk_tag]
    | with_reducible apply SameMk.intro | with_reducible apply same_foldl_fst | with_reducible apply same_foldl_snd
    | split

theorem modVector_same {m : Nat} {s0 s : State} {v : Nat} {f : Vector32 → Vector32} (hm : sub 2048 m = true)
    (h : Same m s0 s) :
    Same m s0 (State.modVector s v f) := by
  refine Same.step ?_ hm h
  unfold State.modVector
  try dsimp only
  repeat' first
    | with_reducible exact Same.refl _ _ | exact rfl | with_reducible assumption
    | exact fun (e : Nat.testBit _ _ = false) => absurd e (by decide) | with_reducible exact fun _ => rfl | intro _
    | with_reducible apply same_ite | with_reducible apply same_foldl | with_reducible apply same_overIdx
    | simp only [↓same_mk_tag] | with_reducible apply SameMk.intro | with_reducible apply same_foldl_fst
    | with_reducible apply same_foldl_snd | split

theorem message_same {m : Nat} {s0 s : State} {v : Nat} (hm : sub 268437522 m = true) (h : Same m s0 s) :
    Same m s0 (State.message s v) := by
  refine Same.step ?_ hm h
  unfold State.message
  try dsimp only
  repeat' first
    | with_reducible exact Same.refl _ _ | exact rfl | with_reducible assumption
    | exact fun (e : Nat.testBit _ _ = false) => absurd e (by decide) | with_reducible exact fun _ => rfl | intro _
    | with_reducible apply same_ite | with_reducible apply traffic_same | with_reducible apply send_same
    | with_reducible apply same_foldl | with_reducible apply same_overIdx | simp only [↓same_mk_tag]
    | with_reducible apply SameMk.intro | with_reducible apply same_foldl_fst | with_reducible apply same_foldl_snd
    | split

theorem trigVector_same {m : Nat} {s0 s : State} {v : Nat} (hm : sub 268437522 m = true) (h : Same m s0 s) :
    Same m s0 (State.trigVector s v) := by
  refine Same.step ?_ hm h
  unfold State.trigVector
  try dsimp only
  repeat' first
    | with_reducible exact Same.refl _ _ | exact rfl | with_reducible assumption
    | exact fun (e : Nat.testBit _ _ = false) => absurd e (by decide) | with_reducible exact fun _ => rfl | intro _
    | with_reducible apply same_ite | with_reducible apply modVector_same | with_reducible apply message_same
    | with_reducible apply same_foldl | with_reducible apply same_overIdx | simp only [↓same_mk_tag]
    | with_reducible apply SameMk.intro | with_reducible apply same_foldl_fst | with_reducible apply same_foldl_snd
    | split

theorem flushVector_same {m : Nat} {s0 s : State} {v : Nat} (hm : sub 268437522 m = true) (h : Same m s0 s) :
    Same m s0 (State.flushVector s v) := by
  refine Same.step ?_ hm h
  unfold State.flushVector
  try dsimp only
  repeat' first
    | with_reducible exact Same.refl _ _ | exact rfl | with_reducible assumption
    | exact fun (e : Nat.testBit _ _ = false) => absurd e (by decide) | with_reducible exact fun _ => rfl | intro _
    | with_reducible apply same_ite | with_reducible apply message_same | with_reducible apply modVector_same
    | with_reducible apply same_foldl | with_reducible apply same_overIdx | simp only [↓same_mk_tag]
    | with_reducible apply SameMk.intro | with_reducible apply same_foldl_fst | with_reducible apply same_foldl_snd
    | split

theorem arrive_same {m : Nat} {s0 s : State} {t : Nat} {e : Nat} {delta : Nat} (hm : sub 268435458 m = true)
    (h : Same m s0 s) :
    Same m s0 (State.arrive s t e delta) := by
  refine Same.step ?_ hm h
  unfold State.arrive
  try dsimp only
  repeat' first
    | with_reducible exact Same.refl _ _ | exact rfl | with_reducible assumption
    | exact fun (e : Nat.testBit _ _ = false) => absurd e (by decide) | with_reducible exact fun _ => rfl | intro _
    | with_reducible apply same_ite | with_reducible apply at__same | with_reducible apply same_foldl
    | with_reducible apply same_overIdx | simp only [↓same_mk_tag] | with_reducible apply SameMk.intro
    | with_reducible apply same_foldl_fst | with_reducible apply same_foldl_snd | split

theorem settleEvents_same {m : Nat} {s0 s : State} (hm : sub 268435472 m = true) (h : Same m s0 s) :
    Same m s0 (State.settleEvents s) := by
  refine Same.step ?_ hm h
  unfold State.settleEvents
  try dsimp only
  repeat' first
    | with_reducible exact Same.refl _ _ | exact rfl | with_reducible assumption
    | exact fun (e : Nat.testBit _ _ = false) => absurd e (by decide) | with_reducible exact fun _ => rfl | intro _
    | with_reducible apply same_ite | with_reducible apply put_same | with_reducible apply same_foldl
    | with_reducible apply same_overIdx | simp only [↓same_mk_tag] | with_reducible apply SameMk.intro
    | with_reducible apply same_foldl_fst | with_reducible apply same_foldl_snd | split

theorem kickAt_same {m : Nat} {s0 s : State} {t : Nat} (hm : sub 2 m = true) (h : Same m s0 s) :
    Same m s0 (State.kickAt s t) := by
  refine Same.step ?_ hm h
  unfold State.kickAt
  try dsimp only
  repeat' first
    | with_reducible exact Same.refl _ _ | exact rfl | with_reducible assumption
    | exact fun (e : Nat.testBit _ _ = false) => absurd e (by decide) | with_reducible exact fun _ => rfl | intro _
    | with_reducible apply same_ite | with_reducible apply at__same | with_reducible apply same_foldl
    | with_reducible apply same_overIdx | simp only [↓same_mk_tag] | with_reducible apply SameMk.intro
    | with_reducible apply same_foldl_fst | with_reducible apply same_foldl_snd | split

theorem kick_same {m : Nat} {s0 s : State} (hm : sub 2 m = true) (h : Same m s0 s) : Same m s0 (State.kick s) := by
  refine Same.step ?_ hm h
  unfold State.kick
  try dsimp only
  repeat' first
    | with_reducible exact Same.refl _ _ | exact rfl | with_reducible assumption
    | exact fun (e : Nat.testBit _ _ = false) => absurd e (by decide) | with_reducible exact fun _ => rfl | intro _
    | with_reducible apply same_ite | with_reducible apply kickAt_same | with_reducible apply same_foldl
    | with_reducible apply same_overIdx | simp only [↓same_mk_tag] | with_reducible apply SameMk.intro
    | with_reducible apply same_foldl_fst | with_reducible apply same_foldl_snd | split

theorem fetchSoon_same {m : Nat} {s0 s : State} {i : Nat} {n : Nat} (hm : sub 2 m = true) (h : Same m s0 s) :
    Same m s0 (State.fetchSoon s i n) := by
  refine Same.step ?_ hm h
  unfold State.fetchSoon
  try dsimp only
  repeat' first
    | with_reducible exact Same.refl _ _ | exact rfl | with_reducible assumption
    | exact fun (e : Nat.testBit _ _ = false) => absurd e (by decide) | with_reducible exact fun _ => rfl | intro _
    | with_reducible apply same_ite | with_reducible apply after_same | with_reducible apply same_foldl
    | with_reducible apply same_overIdx | simp only [↓same_mk_tag] | with_reducible apply SameMk.intro
    | with_reducible apply same_foldl_fst | with_reducible apply same_foldl_snd | split

theorem doorbell_same {m : Nat} {s0 s : State} {i : Nat} {tail : Nat} (hm : sub 268697746 m = true) (h : Same m s0 s)
    :
    Same m s0 (State.doorbell s i tail) := by
  refine Same.step ?_ hm h
  unfold State.doorbell
  try dsimp only
  repeat' first
    | with_reducible exact Same.refl _ _ | exact rfl | with_reducible assumption
    | exact fun (e : Nat.testBit _ _ = false) => absurd e (by decide) | with_reducible exact fun _ => rfl | intro _
    | with_reducible apply same_ite | with_reducible apply kick_same | with_reducible apply fetchSoon_same
    | with_reducible apply modRing_same | with_reducible apply sticky_same | with_reducible apply bump_same
    | with_reducible apply same_foldl | with_reducible apply same_overIdx | simp only [↓same_mk_tag]
    | with_reducible apply SameMk.intro | with_reducible apply same_foldl_fst | with_reducible apply same_foldl_snd
    | split

theorem fetch_same {m : Nat} {s0 s : State} {i : Nat} (hm : sub 268437522 m = true) (h : Same m s0 s) :
    Same m s0 (State.fetch s i) := by
  refine Same.step ?_ hm h
  unfold State.fetch
  try dsimp only
  repeat' first
    | with_reducible exact Same.refl _ _ | exact rfl | with_reducible assumption
    | exact fun (e : Nat.testBit _ _ = false) => absurd e (by decide) | with_reducible exact fun _ => rfl | intro _
    | with_reducible apply same_ite | with_reducible apply hostGet_same | with_reducible apply modRing_same
    | with_reducible apply same_foldl | with_reducible apply same_overIdx | simp only [↓same_mk_tag]
    | with_reducible apply SameMk.intro | with_reducible apply same_foldl_fst | with_reducible apply same_foldl_snd
    | split

theorem haltRing_same {m : Nat} {s0 s : State} {i : Nat} {status : Nat} (hm : sub 262290 m = true) (h : Same m s0 s) :
    Same m s0 (State.haltRing s i status) := by
  refine Same.step ?_ hm h
  unfold State.haltRing
  try dsimp only
  repeat' first
    | with_reducible exact Same.refl _ _ | exact rfl | with_reducible assumption
    | exact fun (e : Nat.testBit _ _ = false) => absurd e (by decide) | with_reducible exact fun _ => rfl | intro _
    | with_reducible apply same_ite | with_reducible apply notice_same | with_reducible apply setBit_same
    | with_reducible apply same_foldl | with_reducible apply same_overIdx | simp only [↓same_mk_tag]
    | with_reducible apply SameMk.intro | with_reducible apply same_foldl_fst | with_reducible apply same_foldl_snd
    | split

theorem fetched_same {m : Nat} {s0 s : State} {i : Nat} {data : Option (List Byte)} (hm : sub 268699794 m = true)
    (h : Same m s0 s) :
    Same m s0 (State.fetched s i data) := by
  refine Same.step ?_ hm h
  unfold State.fetched
  try dsimp only
  repeat' first
    | with_reducible exact Same.refl _ _ | exact rfl | with_reducible assumption
    | exact fun (e : Nat.testBit _ _ = false) => absurd e (by decide) | with_reducible exact fun _ => rfl | intro _
    | with_reducible apply same_ite | with_reducible apply traffic_same | with_reducible apply haltRing_same
    | with_reducible apply modRing_same | with_reducible apply kickAt_same | with_reducible apply fetchSoon_same
    | with_reducible apply same_foldl | with_reducible apply same_overIdx | simp only [↓same_mk_tag]
    | with_reducible apply SameMk.intro | with_reducible apply same_foldl_fst | with_reducible apply same_foldl_snd
    | split

theorem postCompletion_same {m : Nat} {s0 s : State} {c : Nat} {w : List Nat} (hm : sub 268437522 m = true)
    (h : Same m s0 s) :
    Same m s0 (State.postCompletion s c w) := by
  refine Same.step ?_ hm h
  unfold State.postCompletion
  try dsimp only
  repeat' first
    | with_reducible exact Same.refl _ _ | exact rfl | with_reducible assumption
    | exact fun (e : Nat.testBit _ _ = false) => absurd e (by decide) | with_reducible exact fun _ => rfl | intro _
    | with_reducible apply same_ite | with_reducible apply hostPut_same | with_reducible apply put_same
    | with_reducible apply trigVector_same | with_reducible apply after_same | with_reducible apply same_foldl
    | with_reducible apply same_overIdx | simp only [↓same_mk_tag] | with_reducible apply SameMk.intro
    | with_reducible apply same_foldl_fst | with_reducible apply same_foldl_snd | split

theorem writeCompletions_same {m : Nat} {s0 s : State} (hm : sub 1879050258 m = true) (h : Same m s0 s) :
    Same m s0 (State.writeCompletions s) := by
  refine Same.step ?_ hm h
  unfold State.writeCompletions
  try dsimp only
  repeat' first
    | with_reducible exact Same.refl _ _ | exact rfl | with_reducible assumption
    | exact fun (e : Nat.testBit _ _ = false) => absurd e (by decide) | with_reducible exact fun _ => rfl | intro _
    | with_reducible apply same_ite | with_reducible apply storeWrite_same | with_reducible apply put_same
    | with_reducible apply postCompletion_same | with_reducible apply arrive_same | with_reducible apply kick_same
    | with_reducible apply same_foldl | with_reducible apply same_overIdx | simp only [↓same_mk_tag]
    | with_reducible apply SameMk.intro | with_reducible apply same_foldl_fst | with_reducible apply same_foldl_snd
    | split

theorem completeTask_same {m : Nat} {s0 s : State} {t : Task} {unit : Nat} {status : Nat} {result : List Nat}
    {halts : Bool} (hm : sub 268697746 m = true) (h : Same m s0 s) :
    Same m s0 (State.completeTask s t unit status result halts) := by
  refine Same.step ?_ hm h
  unfold State.completeTask
  try dsimp only
  repeat' first
    | with_reducible exact Same.refl _ _ | exact rfl | with_reducible assumption
    | exact fun (e : Nat.testBit _ _ = false) => absurd e (by decide) | with_reducible exact fun _ => rfl | intro _
    | with_reducible apply same_ite | with_reducible apply modRing_same | with_reducible apply bump_same
    | with_reducible apply haltRing_same | with_reducible apply kick_same | with_reducible apply at__same
    | with_reducible apply same_foldl | with_reducible apply same_overIdx | simp only [↓same_mk_tag]
    | with_reducible apply SameMk.intro | with_reducible apply same_foldl_fst | with_reducible apply same_foldl_snd
    | split

theorem finish_same {m : Nat} {s0 s : State} {t : Task} {unit : Nat} {status : Nat} {result : List Nat}
    (hm : sub 268697746 m = true) (h : Same m s0 s) :
    Same m s0 (State.finish s t unit status result) := by
  refine Same.step ?_ hm h
  unfold State.finish
  try dsimp only
  repeat' first
    | with_reducible exact Same.refl _ _ | exact rfl | with_reducible assumption
    | exact fun (e : Nat.testBit _ _ = false) => absurd e (by decide) | with_reducible exact fun _ => rfl | intro _
    | with_reducible apply same_ite | with_reducible apply completeTask_same | with_reducible apply same_foldl
    | with_reducible apply same_overIdx | simp only [↓same_mk_tag] | with_reducible apply SameMk.intro
    | with_reducible apply same_foldl_fst | with_reducible apply same_foldl_snd | split

theorem endWait_same {m : Nat} {s0 s : State} {i : Nat} {w : Wait} {status : Nat} {halts : Bool}
    (hm : sub 268697746 m = true) (h : Same m s0 s) :
    Same m s0 (State.endWait s i w status halts) := by
  refine Same.step ?_ hm h
  unfold State.endWait
  try dsimp only
  repeat' first
    | with_reducible exact Same.refl _ _ | exact rfl | with_reducible assumption
    | exact fun (e : Nat.testBit _ _ = false) => absurd e (by decide) | with_reducible exact fun _ => rfl | intro _
    | with_reducible apply same_ite | with_reducible apply modRing_same | with_reducible apply withdraw_same
    | with_reducible apply bump_same | with_reducible apply kickAt_same | with_reducible apply completeTask_same
    | with_reducible apply same_foldl | with_reducible apply same_overIdx | simp only [↓same_mk_tag]
    | with_reducible apply SameMk.intro | with_reducible apply same_foldl_fst | with_reducible apply same_foldl_snd
    | split

end Sys2Proof.Machine
end

