-- ==== Sys2Proof/Laws/Same2.lean ====
section
/-! SUPPORT. What each operation of the model may change, by field of the state, part 2 of 6. -/

namespace Sys2Proof.Machine

theorem judgeWait_same {m : Nat} {s0 s : State} {i : Nat} {w : Wait} {ok : Bool} {at_ : Nat}
    (hm : sub 268697746 m = true) (h : Same m s0 s) :
    Same m s0 (State.judgeWait s i w ok at_) := by
  refine Same.step ?_ hm h
  unfold State.judgeWait
  try dsimp only
  repeat' first
    | with_reducible exact Same.refl _ _ | exact rfl | with_reducible assumption
    | exact fun (e : Nat.testBit _ _ = false) => absurd e (by decide) | with_reducible exact fun _ => rfl | intro _
    | with_reducible apply same_ite | with_reducible apply endWait_same | with_reducible apply same_foldl
    | with_reducible apply same_overIdx | simp only [↓same_mk_tag] | with_reducible apply SameMk.intro
    | with_reducible apply same_foldl_fst | with_reducible apply same_foldl_snd | split

theorem evalWait_same {m : Nat} {s0 s : State} {i : Nat} (hm : sub 268697746 m = true) (h : Same m s0 s) :
    Same m s0 (State.evalWait s i) := by
  refine Same.step ?_ hm h
  unfold State.evalWait
  try dsimp only
  repeat' first
    | with_reducible exact Same.refl _ _ | exact rfl | with_reducible assumption
    | exact fun (e : Nat.testBit _ _ = false) => absurd e (by decide) | with_reducible exact fun _ => rfl | intro _
    | with_reducible apply same_ite | with_reducible apply judgeWait_same | with_reducible apply storeReadCheck_same
    | with_reducible apply modRing_same | with_reducible apply after_same | with_reducible apply same_foldl
    | with_reducible apply same_overIdx | simp only [↓same_mk_tag] | with_reducible apply SameMk.intro
    | with_reducible apply same_foldl_fst | with_reducible apply same_foldl_snd | split

theorem timeWait_same {m : Nat} {s0 s : State} {i : Nat} (hm : sub 268697746 m = true) (h : Same m s0 s) :
    Same m s0 (State.timeWait s i) := by
  refine Same.step ?_ hm h
  unfold State.timeWait
  try dsimp only
  repeat' first
    | with_reducible exact Same.refl _ _ | exact rfl | with_reducible assumption
    | exact fun (e : Nat.testBit _ _ = false) => absurd e (by decide) | with_reducible exact fun _ => rfl | intro _
    | with_reducible apply same_ite | with_reducible apply at__same | with_reducible apply evalWait_same
    | with_reducible apply same_foldl | with_reducible apply same_overIdx | simp only [↓same_mk_tag]
    | with_reducible apply SameMk.intro | with_reducible apply same_foldl_fst | with_reducible apply same_foldl_snd
    | split

theorem pollValue_same {m : Nat} {s0 s : State} {i : Nat} (hm : sub 268437522 m = true) (h : Same m s0 s) :
    Same m s0 (State.pollValue s i) := by
  refine Same.step ?_ hm h
  unfold State.pollValue
  try dsimp only
  repeat' first
    | with_reducible exact Same.refl _ _ | exact rfl | with_reducible assumption
    | exact fun (e : Nat.testBit _ _ = false) => absurd e (by decide) | with_reducible exact fun _ => rfl | intro _
    | with_reducible apply same_ite | with_reducible apply modRing_same | with_reducible apply after_same
    | with_reducible apply hostGet_same | with_reducible apply same_foldl | with_reducible apply same_overIdx
    | simp only [↓same_mk_tag] | with_reducible apply SameMk.intro | with_reducible apply same_foldl_fst
    | with_reducible apply same_foldl_snd | split

theorem pollBack_same {m : Nat} {s0 s : State} {i : Nat} {v : Option Nat} (hm : sub 268699794 m = true)
    (h : Same m s0 s) :
    Same m s0 (State.pollBack s i v) := by
  refine Same.step ?_ hm h
  unfold State.pollBack
  try dsimp only
  repeat' first
    | with_reducible exact Same.refl _ _ | exact rfl | with_reducible assumption
    | exact fun (e : Nat.testBit _ _ = false) => absurd e (by decide) | with_reducible exact fun _ => rfl | intro _
    | with_reducible apply same_ite | with_reducible apply traffic_same | with_reducible apply endWait_same
    | with_reducible apply judgeWait_same | with_reducible apply modRing_same | with_reducible apply same_foldl
    | with_reducible apply same_overIdx | simp only [↓same_mk_tag] | with_reducible apply SameMk.intro
    | with_reducible apply same_foldl_fst | with_reducible apply same_foldl_snd | split

theorem startWait_same {m : Nat} {s0 s : State} {i : Nat} {t : Task} (hm : sub 268697746 m = true) (h : Same m s0 s) :
    Same m s0 (State.startWait s i t) := by
  refine Same.step ?_ hm h
  unfold State.startWait
  try dsimp only
  repeat' first
    | with_reducible exact Same.refl _ _ | exact rfl | with_reducible assumption
    | exact fun (e : Nat.testBit _ _ = false) => absurd e (by decide) | with_reducible exact fun _ => rfl | intro _
    | with_reducible apply same_ite | with_reducible apply modRing_same | with_reducible apply at__same
    | with_reducible apply after_same | with_reducible apply evalWait_same | with_reducible apply same_foldl
    | with_reducible apply same_overIdx | simp only [↓same_mk_tag] | with_reducible apply SameMk.intro
    | with_reducible apply same_foldl_fst | with_reducible apply same_foldl_snd | split

theorem wakeWaits_same {m : Nat} {s0 s : State} (hm : sub 2 m = true) (h : Same m s0 s) :
    Same m s0 (State.wakeWaits s) := by
  refine Same.step ?_ hm h
  unfold State.wakeWaits
  try dsimp only
  repeat' first
    | with_reducible exact Same.refl _ _ | exact rfl | with_reducible assumption
    | exact fun (e : Nat.testBit _ _ = false) => absurd e (by decide) | with_reducible exact fun _ => rfl | intro _
    | with_reducible apply same_ite | with_reducible apply after_same | with_reducible apply at__same
    | with_reducible apply same_foldl | with_reducible apply same_overIdx | simp only [↓same_mk_tag]
    | with_reducible apply SameMk.intro | with_reducible apply same_foldl_fst | with_reducible apply same_foldl_snd
    | split

theorem disableRing_same {m : Nat} {s0 s : State} {i : Nat} (hm : sub 268697746 m = true) (h : Same m s0 s) :
    Same m s0 (State.disableRing s i) := by
  refine Same.step ?_ hm h
  unfold State.disableRing
  try dsimp only
  repeat' first
    | with_reducible exact Same.refl _ _ | exact rfl | with_reducible assumption
    | exact fun (e : Nat.testBit _ _ = false) => absurd e (by decide) | with_reducible exact fun _ => rfl | intro _
    | with_reducible apply same_ite | with_reducible apply put_same | with_reducible apply modRing_same
    | with_reducible apply completeTask_same | with_reducible apply modSlot_same | with_reducible apply endWait_same
    | with_reducible apply same_foldl | with_reducible apply same_overIdx | simp only [↓same_mk_tag]
    | with_reducible apply SameMk.intro | with_reducible apply same_foldl_fst | with_reducible apply same_foldl_snd
    | split

theorem enableRing_same {m : Nat} {s0 s : State} {i : Nat} (hm : sub 524306 m = true) (h : Same m s0 s) :
    Same m s0 (State.enableRing s i) := by
  refine Same.step ?_ hm h
  unfold State.enableRing
  try dsimp only
  repeat' first
    | with_reducible exact Same.refl _ _ | exact rfl | with_reducible assumption
    | exact fun (e : Nat.testBit _ _ = false) => absurd e (by decide) | with_reducible exact fun _ => rfl | intro _
    | with_reducible apply same_ite | with_reducible apply kick_same | with_reducible apply fetchSoon_same
    | with_reducible apply hostReturns_same | with_reducible apply put_same | with_reducible apply same_foldl
    | with_reducible apply same_overIdx | simp only [↓same_mk_tag] | with_reducible apply SameMk.intro
    | with_reducible apply same_foldl_fst | with_reducible apply same_foldl_snd | split

theorem resumeRing_same {m : Nat} {s0 s : State} {i : Nat} (hm : sub 18 m = true) (h : Same m s0 s) :
    Same m s0 (State.resumeRing s i) := by
  refine Same.step ?_ hm h
  unfold State.resumeRing
  try dsimp only
  repeat' first
    | with_reducible exact Same.refl _ _ | exact rfl | with_reducible assumption
    | exact fun (e : Nat.testBit _ _ = false) => absurd e (by decide) | with_reducible exact fun _ => rfl | intro _
    | with_reducible apply same_ite | with_reducible apply kick_same | with_reducible apply fetchSoon_same
    | with_reducible apply clearBit_same | with_reducible apply same_foldl | with_reducible apply same_overIdx
    | simp only [↓same_mk_tag] | with_reducible apply SameMk.intro | with_reducible apply same_foldl_fst
    | with_reducible apply same_foldl_snd | split

theorem writeNotice_same {m : Nat} {s0 s : State} {n : Nat} {x : Notice} (hm : sub 268699666 m = true)
    (h : Same m s0 s) :
    Same m s0 (State.writeNotice s n x) := by
  refine Same.step ?_ hm h
  unfold State.writeNotice
  try dsimp only
  repeat' first
    | with_reducible exact Same.refl _ _ | exact rfl | with_reducible assumption
    | exact fun (e : Nat.testBit _ _ = false) => absurd e (by decide) | with_reducible exact fun _ => rfl | intro _
    | with_reducible apply same_ite | with_reducible apply hostPut_same | with_reducible apply put_same
    | with_reducible apply trigVector_same | with_reducible apply after_same | with_reducible apply same_foldl
    | with_reducible apply same_overIdx | simp only [↓same_mk_tag] | with_reducible apply SameMk.intro
    | with_reducible apply same_foldl_fst | with_reducible apply same_foldl_snd | split

theorem postNotices_same {m : Nat} {s0 s : State} {n : Nat} {a1 : Nat} (hm : sub 268699666 m = true) (h : Same m s0 s)
    :
    Same m s0 (State.postNotices s n a1) := by
  refine Same.step ?_ hm h
  clear h
  induction a1 generalizing s with
  | zero => exact Same.refl _ _
  | succ n ih =>
    unfold State.postNotices
    try dsimp only
    repeat' first
      | with_reducible exact Same.refl _ _ | exact rfl | with_reducible assumption
      | exact fun (e : Nat.testBit _ _ = false) => absurd e (by decide) | with_reducible exact fun _ => rfl | intro _
      | with_reducible apply same_ite | (with_reducible apply Same.step (hm := sub_self _) ih)
      | with_reducible apply writeNotice_same | with_reducible apply same_foldl | with_reducible apply same_overIdx
      | simp only [↓same_mk_tag] | with_reducible apply SameMk.intro | with_reducible apply same_foldl_fst
      | with_reducible apply same_foldl_snd | split

theorem flushNotices_same {m : Nat} {s0 s : State} {n : Nat} (hm : sub 268699666 m = true) (h : Same m s0 s) :
    Same m s0 (State.flushNotices s n) := by
  refine Same.step ?_ hm h
  unfold State.flushNotices
  try dsimp only
  repeat' first
    | with_reducible exact Same.refl _ _ | exact rfl | with_reducible assumption
    | exact fun (e : Nat.testBit _ _ = false) => absurd e (by decide) | with_reducible exact fun _ => rfl | intro _
    | with_reducible apply same_ite | with_reducible apply postNotices_same | with_reducible apply same_foldl
    | with_reducible apply same_overIdx | simp only [↓same_mk_tag] | with_reducible apply SameMk.intro
    | with_reducible apply same_foldl_fst | with_reducible apply same_foldl_snd | split

theorem noticesFirst_same {m : Nat} {s0 s : State} {n : Nat} {l : List (Nat × List Nat)} (hm : sub 262144 m = true)
    (h : Same m s0 s) :
    Same m s0 (State.noticesFirst s n l) := by
  refine Same.step ?_ hm h
  unfold State.noticesFirst
  try dsimp only
  repeat' first
    | with_reducible exact Same.refl _ _ | exact rfl | with_reducible assumption
    | exact fun (e : Nat.testBit _ _ = false) => absurd e (by decide) | with_reducible exact fun _ => rfl | intro _
    | with_reducible apply same_ite | with_reducible apply same_foldl | with_reducible apply same_overIdx
    | simp only [↓same_mk_tag] | with_reducible apply SameMk.intro | with_reducible apply same_foldl_fst
    | with_reducible apply same_foldl_snd | split

theorem owedNotices_same {m : Nat} {s0 s : State} {n : Nat} (hm : sub 262656 m = true) (h : Same m s0 s) :
    Same m s0 (State.owedNotices s n) := by
  refine Same.step ?_ hm h
  unfold State.owedNotices
  try dsimp only
  repeat' first
    | with_reducible exact Same.refl _ _ | exact rfl | with_reducible assumption
    | exact fun (e : Nat.testBit _ _ = false) => absurd e (by decide) | with_reducible exact fun _ => rfl | intro _
    | with_reducible apply same_ite | with_reducible apply noticesFirst_same | with_reducible apply same_foldl
    | with_reducible apply same_overIdx | simp only [↓same_mk_tag] | with_reducible apply SameMk.intro
    | with_reducible apply same_foldl_fst | with_reducible apply same_foldl_snd | split

theorem enableNotices_same {m : Nat} {s0 s : State} {n : Nat} (hm : sub 268700178 m = true) (h : Same m s0 s) :
    Same m s0 (State.enableNotices s n) := by
  refine Same.step ?_ hm h
  unfold State.enableNotices
  try dsimp only
  repeat' first
    | with_reducible exact Same.refl _ _ | exact rfl | with_reducible assumption
    | exact fun (e : Nat.testBit _ _ = false) => absurd e (by decide) | with_reducible exact fun _ => rfl | intro _
    | with_reducible apply same_ite | with_reducible apply owedNotices_same | with_reducible apply put_same
    | with_reducible apply flushNotices_same | with_reducible apply same_foldl | with_reducible apply same_overIdx
    | simp only [↓same_mk_tag] | with_reducible apply SameMk.intro | with_reducible apply same_foldl_fst
    | with_reducible apply same_foldl_snd | split

theorem vectorTimers_same {m : Nat} {s0 s : State} (hm : sub 268699666 m = true) (h : Same m s0 s) :
    Same m s0 (State.vectorTimers s) := by
  refine Same.step ?_ hm h
  unfold State.vectorTimers
  try dsimp only
  repeat' first
    | with_reducible exact Same.refl _ _ | exact rfl | with_reducible assumption
    | exact fun (e : Nat.testBit _ _ = false) => absurd e (by decide) | with_reducible exact fun _ => rfl | intro _
    | with_reducible apply same_ite | with_reducible apply trigVector_same | with_reducible apply same_foldl
    | with_reducible apply same_overIdx | simp only [↓same_mk_tag] | with_reducible apply SameMk.intro
    | with_reducible apply same_foldl_fst | with_reducible apply same_foldl_snd | split

theorem timerAgain_same {m : Nat} {s0 s : State} {n : Nat} {t : Nat} {us : Nat} (hm : sub 2 m = true)
    (h : Same m s0 s) :
    Same m s0 (State.timerAgain s n t us) := by
  refine Same.step ?_ hm h
  unfold State.timerAgain
  try dsimp only
  repeat' first
    | with_reducible exact Same.refl _ _ | exact rfl | with_reducible assumption
    | exact fun (e : Nat.testBit _ _ = false) => absurd e (by decide) | with_reducible exact fun _ => rfl | intro _
    | with_reducible apply same_ite | with_reducible apply at__same | with_reducible apply same_foldl
    | with_reducible apply same_overIdx | simp only [↓same_mk_tag] | with_reducible apply SameMk.intro
    | with_reducible apply same_foldl_fst | with_reducible apply same_foldl_snd | split

theorem moderated_same {m : Nat} {s0 s : State} (hm : sub 268699666 m = true) (h : Same m s0 s) :
    Same m s0 (State.moderated s) := by
  refine Same.step ?_ hm h
  unfold State.moderated
  try dsimp only
  repeat' first
    | with_reducible exact Same.refl _ _ | exact rfl | with_reducible assumption
    | exact fun (e : Nat.testBit _ _ = false) => absurd e (by decide) | with_reducible exact fun _ => rfl | intro _
    | with_reducible apply same_ite | with_reducible apply vectorTimers_same | with_reducible apply timerAgain_same
    | with_reducible apply same_foldl | with_reducible apply same_overIdx | simp only [↓same_mk_tag]
    | with_reducible apply SameMk.intro | with_reducible apply same_foldl_fst | with_reducible apply same_foldl_snd
    | split

theorem writeHead_same {m : Nat} {s0 s : State} {r : Nat} {head : Nat} (hm : sub 268699794 m = true) (h : Same m s0 s)
    :
    Same m s0 (State.writeHead s r head) := by
  refine Same.step ?_ hm h
  unfold State.writeHead
  try dsimp only
  repeat' first
    | with_reducible exact Same.refl _ _ | exact rfl | with_reducible assumption
    | exact fun (e : Nat.testBit _ _ = false) => absurd e (by decide) | with_reducible exact fun _ => rfl | intro _
    | with_reducible apply same_ite | with_reducible apply kick_same | with_reducible apply put_same
    | with_reducible apply refuse_same | with_reducible apply flushNotices_same | with_reducible apply same_foldl
    | with_reducible apply same_overIdx | simp only [↓same_mk_tag] | with_reducible apply SameMk.intro
    | with_reducible apply same_foldl_fst | with_reducible apply same_foldl_snd | split

theorem setStrobe_same {m : Nat} {s0 s : State} {k : Nat} {x : Strobe} (hm : sub 4096 m = true) (h : Same m s0 s) :
    Same m s0 (State.setStrobe s k x) := by
  refine Same.step ?_ hm h
  unfold State.setStrobe
  try dsimp only
  repeat' first
    | with_reducible exact Same.refl _ _ | exact rfl | with_reducible assumption
    | exact fun (e : Nat.testBit _ _ = false) => absurd e (by decide) | with_reducible exact fun _ => rfl | intro _
    | with_reducible apply same_ite | with_reducible apply same_foldl | with_reducible apply same_overIdx
    | simp only [↓same_mk_tag] | with_reducible apply SameMk.intro | with_reducible apply same_foldl_fst
    | with_reducible apply same_foldl_snd | split

theorem addWindow_same {m : Nat} {s0 s : State} {t : Nat} {k : Nat} {a : Nat} {b : Nat} (hm : sub 4242 m = true)
    (h : Same m s0 s) :
    Same m s0 (State.addWindow s t k a b) := by
  refine Same.step ?_ hm h
  unfold State.addWindow
  try dsimp only
  repeat' first
    | with_reducible exact Same.refl _ _ | exact rfl | with_reducible assumption
    | exact fun (e : Nat.testBit _ _ = false) => absurd e (by decide) | with_reducible exact fun _ => rfl | intro _
    | with_reducible apply same_ite | with_reducible apply setStrobe_same | with_reducible apply setBit_same
    | with_reducible apply bump_same | with_reducible apply at__same | with_reducible apply same_foldl
    | with_reducible apply same_overIdx | simp only [↓same_mk_tag] | with_reducible apply SameMk.intro
    | with_reducible apply same_foldl_fst | with_reducible apply same_foldl_snd | split

theorem frameWindows_same {m : Nat} {s0 s : State} {t : Nat} {c : Nat} {f : Nat} {xs : List Exposure} {k : Nat}
    (hm : sub 4242 m = true) (h : Same m s0 s) :
    Same m s0 (State.frameWindows s t c f xs k) := by
  refine Same.step ?_ hm h
  unfold State.frameWindows
  try dsimp only
  repeat' first
    | with_reducible exact Same.refl _ _ | exact rfl | with_reducible assumption
    | exact fun (e : Nat.testBit _ _ = false) => absurd e (by decide) | with_reducible exact fun _ => rfl | intro _
    | with_reducible apply same_ite | with_reducible apply addWindow_same | with_reducible apply same_foldl
    | with_reducible apply same_overIdx | simp only [↓same_mk_tag] | with_reducible apply SameMk.intro
    | with_reducible apply same_foldl_fst | with_reducible apply same_foldl_snd | split

theorem formWindows_same {m : Nat} {s0 s : State} {t : Nat} {c : Nat} {f : Nat} {xs : List Exposure}
    (hm : sub 4242 m = true) (h : Same m s0 s) :
    Same m s0 (State.formWindows s t c f xs) := by
  refine Same.step ?_ hm h
  unfold State.formWindows
  try dsimp only
  repeat' first
    | with_reducible exact Same.refl _ _ | exact rfl | with_reducible assumption
    | exact fun (e : Nat.testBit _ _ = false) => absurd e (by decide) | with_reducible exact fun _ => rfl | intro _
    | with_reducible apply same_ite | with_reducible apply frameWindows_same | with_reducible apply same_foldl
    | with_reducible apply same_overIdx | simp only [↓same_mk_tag] | with_reducible apply SameMk.intro
    | with_reducible apply same_foldl_fst | with_reducible apply same_foldl_snd | split

theorem armMaxHigh_same {m : Nat} {s0 s : State} {k : Nat} (hm : sub 2 m = true) (h : Same m s0 s) :
    Same m s0 (State.armMaxHigh s k) := by
  refine Same.step ?_ hm h
  unfold State.armMaxHigh
  try dsimp only
  repeat' first
    | with_reducible exact Same.refl _ _ | exact rfl | with_reducible assumption
    | exact fun (e : Nat.testBit _ _ = false) => absurd e (by decide) | with_reducible exact fun _ => rfl | intro _
    | with_reducible apply same_ite | with_reducible apply at__same | with_reducible apply same_foldl
    | with_reducible apply same_overIdx | simp only [↓same_mk_tag] | with_reducible apply SameMk.intro
    | with_reducible apply same_foldl_fst | with_reducible apply same_foldl_snd | split

theorem followStrobe_same {m : Nat} {s0 s : State} {k : Nat} (hm : sub 4098 m = true) (h : Same m s0 s) :
    Same m s0 (State.followStrobe s k) := by
  refine Same.step ?_ hm h
  unfold State.followStrobe
  try dsimp only
  repeat' first
    | with_reducible exact Same.refl _ _ | exact rfl | with_reducible assumption
    | exact fun (e : Nat.testBit _ _ = false) => absurd e (by decide) | with_reducible exact fun _ => rfl | intro _
    | with_reducible apply same_ite | with_reducible apply setStrobe_same | with_reducible apply armMaxHigh_same
    | with_reducible apply same_foldl | with_reducible apply same_overIdx | simp only [↓same_mk_tag]
    | with_reducible apply SameMk.intro | with_reducible apply same_foldl_fst | with_reducible apply same_foldl_snd
    | split

theorem strobeFlag_same {m : Nat} {s0 s : State} {f : Nat} {level : Bool} (hm : sub 4098 m = true) (h : Same m s0 s) :
    Same m s0 (State.strobeFlag s f level) := by
  refine Same.step ?_ hm h
  unfold State.strobeFlag
  try dsimp only
  repeat' first
    | with_reducible exact Same.refl _ _ | exact rfl | with_reducible assumption
    | exact fun (e : Nat.testBit _ _ = false) => absurd e (by decide) | with_reducible exact fun _ => rfl | intro _
    | with_reducible apply same_ite | with_reducible apply setStrobe_same | with_reducible apply after_same
    | with_reducible apply same_foldl | with_reducible apply same_overIdx | simp only [↓same_mk_tag]
    | with_reducible apply SameMk.intro | with_reducible apply same_foldl_fst | with_reducible apply same_foldl_snd
    | split

theorem strobeEn_same {m : Nat} {s0 s : State} {k : Nat} {en : Bool} (hm : sub 4176 m = true) (h : Same m s0 s) :
    Same m s0 (State.strobeEn s k en) := by
  refine Same.step ?_ hm h
  unfold State.strobeEn
  try dsimp only
  repeat' first
    | with_reducible exact Same.refl _ _ | exact rfl | with_reducible assumption
    | exact fun (e : Nat.testBit _ _ = false) => absurd e (by decide) | with_reducible exact fun _ => rfl | intro _
    | with_reducible apply same_ite | with_reducible apply put_same | with_reducible apply noteLate_same
    | with_reducible apply setStrobe_same | with_reducible apply same_foldl | with_reducible apply same_overIdx
    | simp only [↓same_mk_tag] | with_reducible apply SameMk.intro | with_reducible apply same_foldl_fst
    | with_reducible apply same_foldl_snd | split

theorem closeStrobe_same {m : Nat} {s0 s : State} {k : Nat} (hm : sub 4098 m = true) (h : Same m s0 s) :
    Same m s0 (State.closeStrobe s k) := by
  refine Same.step ?_ hm h
  unfold State.closeStrobe
  try dsimp only
  repeat' first
    | with_reducible exact Same.refl _ _ | exact rfl | with_reducible assumption
    | exact fun (e : Nat.testBit _ _ = false) => absurd e (by decide) | with_reducible exact fun _ => rfl | intro _
    | with_reducible apply same_ite | with_reducible apply followStrobe_same | with_reducible apply same_foldl
    | with_reducible apply same_overIdx | simp only [↓same_mk_tag] | with_reducible apply SameMk.intro
    | with_reducible apply same_foldl_fst | with_reducible apply same_foldl_snd | split

theorem forceStrobe_same {m : Nat} {s0 s : State} {k : Nat} (hm : sub 266386 m = true) (h : Same m s0 s) :
    Same m s0 (State.forceStrobe s k) := by
  refine Same.step ?_ hm h
  unfold State.forceStrobe
  try dsimp only
  repeat' first
    | with_reducible exact Same.refl _ _ | exact rfl | with_reducible assumption
    | exact fun (e : Nat.testBit _ _ = false) => absurd e (by decide) | with_reducible exact fun _ => rfl | intro _
    | with_reducible apply same_ite | with_reducible apply bump_same | with_reducible apply setStrobe_same
    | with_reducible apply sticky_same | with_reducible apply same_foldl | with_reducible apply same_overIdx
    | simp only [↓same_mk_tag] | with_reducible apply SameMk.intro | with_reducible apply same_foldl_fst
    | with_reducible apply same_foldl_snd | split

theorem setIset_same {m : Nat} {s0 s : State} {j : Nat} {x : Iset} (hm : sub 8192 m = true) (h : Same m s0 s) :
    Same m s0 (State.setIset s j x) := by
  refine Same.step ?_ hm h
  unfold State.setIset
  try dsimp only
  repeat' first
    | with_reducible exact Same.refl _ _ | exact rfl | with_reducible assumption
    | exact fun (e : Nat.testBit _ _ = false) => absurd e (by decide) | with_reducible exact fun _ => rfl | intro _
    | with_reducible apply same_ite | with_reducible apply same_foldl | with_reducible apply same_overIdx
    | simp only [↓same_mk_tag] | with_reducible apply SameMk.intro | with_reducible apply same_foldl_fst
    | with_reducible apply same_foldl_snd | split

theorem driveIset_same {m : Nat} {s0 s : State} {j : Nat} (hm : sub 8208 m = true) (h : Same m s0 s) :
    Same m s0 (State.driveIset s j) := by
  refine Same.step ?_ hm h
  unfold State.driveIset
  try dsimp only
  repeat' first
    | with_reducible exact Same.refl _ _ | exact rfl | with_reducible assumption
    | exact fun (e : Nat.testBit _ _ = false) => absurd e (by decide) | with_reducible exact fun _ => rfl | intro _
    | with_reducible apply same_ite | with_reducible apply put_same | with_reducible apply setIset_same
    | with_reducible apply same_foldl | with_reducible apply same_overIdx | simp only [↓same_mk_tag]
    | with_reducible apply SameMk.intro | with_reducible apply same_foldl_fst | with_reducible apply same_foldl_snd
    | split

theorem isetSoon_same {m : Nat} {s0 s : State} {j : Nat} (hm : sub 2 m = true) (h : Same m s0 s) :
    Same m s0 (State.isetSoon s j) := by
  refine Same.step ?_ hm h
  unfold State.isetSoon
  try dsimp only
  repeat' first
    | with_reducible exact Same.refl _ _ | exact rfl | with_reducible assumption
    | exact fun (e : Nat.testBit _ _ = false) => absurd e (by decide) | with_reducible exact fun _ => rfl | intro _
    | with_reducible apply same_ite | with_reducible apply at__same | with_reducible apply same_foldl
    | with_reducible apply same_overIdx | simp only [↓same_mk_tag] | with_reducible apply SameMk.intro
    | with_reducible apply same_foldl_fst | with_reducible apply same_foldl_snd | split

theorem isetRangeSoon_same {m : Nat} {s0 s : State} {j : Nat} (hm : sub 8194 m = true) (h : Same m s0 s) :
    Same m s0 (State.isetRangeSoon s j) := by
  refine Same.step ?_ hm h
  unfold State.isetRangeSoon
  try dsimp only
  repeat' first
    | with_reducible exact Same.refl _ _ | exact rfl | with_reducible assumption
    | exact fun (e : Nat.testBit _ _ = false) => absurd e (by decide) | with_reducible exact fun _ => rfl | intro _
    | with_reducible apply same_ite | with_reducible apply at__same | with_reducible apply setIset_same
    | with_reducible apply same_foldl | with_reducible apply same_overIdx | simp only [↓same_mk_tag]
    | with_reducible apply SameMk.intro | with_reducible apply same_foldl_fst | with_reducible apply same_foldl_snd
    | split

theorem writeIset_same {m : Nat} {s0 s : State} {j : Nat} {code : Nat} (hm : sub 8274 m = true) (h : Same m s0 s) :
    Same m s0 (State.writeIset s j code) := by
  refine Same.step ?_ hm h
  unfold State.writeIset
  try dsimp only
  repeat' first
    | with_reducible exact Same.refl _ _ | exact rfl | with_reducible assumption
    | exact fun (e : Nat.testBit _ _ = false) => absurd e (by decide) | with_reducible exact fun _ => rfl | intro _
    | with_reducible apply same_ite | with_reducible apply put_same | with_reducible apply noteLate_same
    | with_reducible apply isetSoon_same | with_reducible apply setIset_same | with_reducible apply same_foldl
    | with_reducible apply same_overIdx | simp only [↓same_mk_tag] | with_reducible apply SameMk.intro
    | with_reducible apply same_foldl_fst | with_reducible apply same_foldl_snd | split

theorem isetEdge_same {m : Nat} {s0 s : State} {j : Nat} (hm : sub 8208 m = true) (h : Same m s0 s) :
    Same m s0 (State.isetEdge s j) := by
  refine Same.step ?_ hm h
  unfold State.isetEdge
  try dsimp only
  repeat' first
    | with_reducible exact Same.refl _ _ | exact rfl | with_reducible assumption
    | exact fun (e : Nat.testBit _ _ = false) => absurd e (by decide) | with_reducible exact fun _ => rfl | intro _
    | with_reducible apply same_ite | with_reducible apply driveIset_same | with_reducible apply same_foldl
    | with_reducible apply same_overIdx | simp only [↓same_mk_tag] | with_reducible apply SameMk.intro
    | with_reducible apply same_foldl_fst | with_reducible apply same_foldl_snd | split

theorem rangeEdge_same {m : Nat} {s0 s : State} {j : Nat} (hm : sub 8210 m = true) (h : Same m s0 s) :
    Same m s0 (State.rangeEdge s j) := by
  refine Same.step ?_ hm h
  unfold State.rangeEdge
  try dsimp only
  repeat' first
    | with_reducible exact Same.refl _ _ | exact rfl | with_reducible assumption
    | exact fun (e : Nat.testBit _ _ = false) => absurd e (by decide) | with_reducible exact fun _ => rfl | intro _
    | with_reducible apply same_ite | with_reducible apply put_same | with_reducible apply setIset_same
    | with_reducible apply after_same | with_reducible apply same_foldl | with_reducible apply same_overIdx
    | simp only [↓same_mk_tag] | with_reducible apply SameMk.intro | with_reducible apply same_foldl_fst
    | with_reducible apply same_foldl_snd | split

theorem deadEnd_same {m : Nat} {s0 s : State} {j : Nat} (hm : sub 8208 m = true) (h : Same m s0 s) :
    Same m s0 (State.deadEnd s j) := by
  refine Same.step ?_ hm h
  unfold State.deadEnd
  try dsimp only
  repeat' first
    | with_reducible exact Same.refl _ _ | exact rfl | with_reducible assumption
    | exact fun (e : Nat.testBit _ _ = false) => absurd e (by decide) | with_reducible exact fun _ => rfl | intro _
    | with_reducible apply same_ite | with_reducible apply setIset_same | with_reducible apply driveIset_same
    | with_reducible apply put_same | with_reducible apply same_foldl | with_reducible apply same_overIdx
    | simp only [↓same_mk_tag] | with_reducible apply SameMk.intro | with_reducible apply same_foldl_fst
    | with_reducible apply same_foldl_snd | split

theorem setJoin_same {m : Nat} {s0 s : State} {j : Nat} {x : Join} (hm : sub 4194304 m = true) (h : Same m s0 s) :
    Same m s0 (State.setJoin s j x) := by
  refine Same.step ?_ hm h
  unfold State.setJoin
  try dsimp only
  repeat' first
    | with_reducible exact Same.refl _ _ | exact rfl | with_reducible assumption
    | exact fun (e : Nat.testBit _ _ = false) => absurd e (by decide) | with_reducible exact fun _ => rfl | intro _
    | with_reducible apply same_ite | with_reducible apply same_foldl | with_reducible apply same_overIdx
    | simp only [↓same_mk_tag] | with_reducible apply SameMk.intro | with_reducible apply same_foldl_fst
    | with_reducible apply same_foldl_snd | split

theorem decideRec_same {m : Nat} {s0 s : State} {j : Nat} {side : Nat} {disp : Nat} {x : Rec} {other : Option Rec}
    (hm : sub 8388610 m = true) (h : Same m s0 s) :
    Same m s0 (State.decideRec s j side disp x other) := by
  refine Same.step ?_ hm h
  unfold State.decideRec
  try dsimp only
  repeat' first
    | with_reducible exact Same.refl _ _ | exact rfl | with_reducible assumption
    | exact fun (e : Nat.testBit _ _ = false) => absurd e (by decide) | with_reducible exact fun _ => rfl | intro _
    | with_reducible apply same_ite | with_reducible apply after_same | with_reducible apply same_foldl
    | with_reducible apply same_overIdx | simp only [↓same_mk_tag] | with_reducible apply SameMk.intro
    | with_reducible apply same_foldl_fst | with_reducible apply same_foldl_snd | split

theorem coverage_same {m : Nat} {s0 s : State} {j : Nat} (hm : sub 12583058 m = true) (h : Same m s0 s) :
    Same m s0 (State.coverage s j) := by
  refine Same.step ?_ hm h
  unfold State.coverage
  try dsimp only
  repeat' first
    | with_reducible exact Same.refl _ _ | exact rfl | with_reducible assumption
    | exact fun (e : Nat.testBit _ _ = false) => absurd e (by decide) | with_reducible exact fun _ => rfl | intro _
    | with_reducible apply same_ite | with_reducible apply setJoin_same | with_reducible apply decideRec_same
    | with_reducible apply bump_same | with_reducible apply same_foldl | with_reducible apply same_overIdx
    | simp only [↓same_mk_tag] | with_reducible apply SameMk.intro | with_reducible apply same_foldl_fst
    | with_reducible apply same_foldl_snd | split

theorem underrun_same {m : Nat} {s0 s : State} {j : Nat} {w : Nat × Rec} {keep : Bool} (hm : sub 12845202 m = true)
    (h : Same m s0 s) :
    Same m s0 (State.underrun s j w keep) := by
  refine Same.step ?_ hm h
  unfold State.underrun
  try dsimp only
  repeat' first
    | with_reducible exact Same.refl _ _ | exact rfl | with_reducible assumption
    | exact fun (e : Nat.testBit _ _ = false) => absurd e (by decide) | with_reducible exact fun _ => rfl | intro _
    | with_reducible apply same_ite | with_reducible apply setJoin_same | with_reducible apply sticky_same
    | with_reducible apply bump_same | with_reducible apply decideRec_same | with_reducible apply same_foldl
    | with_reducible apply same_overIdx | simp only [↓same_mk_tag] | with_reducible apply SameMk.intro
    | with_reducible apply same_foldl_fst | with_reducible apply same_foldl_snd | split

theorem joinDeadlines_same {m : Nat} {s0 s : State} {j : Nat} (hm : sub 12845202 m = true) (h : Same m s0 s) :
    Same m s0 (State.joinDeadlines s j) := by
  refine Same.step ?_ hm h
  unfold State.joinDeadlines
  try dsimp only
  repeat' first
    | with_reducible exact Same.refl _ _ | exact rfl | with_reducible assumption
    | exact fun (e : Nat.testBit _ _ = false) => absurd e (by decide) | with_reducible exact fun _ => rfl | intro _
    | with_reducible apply same_ite | with_reducible apply after_same | with_reducible apply underrun_same
    | with_reducible apply same_foldl | with_reducible apply same_overIdx | simp only [↓same_mk_tag]
    | with_reducible apply SameMk.intro | with_reducible apply same_foldl_fst | with_reducible apply same_foldl_snd
    | split

theorem joinRecord_same {m : Nat} {s0 s : State} {x : Rec} (hm : sub 12583058 m = true) (h : Same m s0 s) :
    Same m s0 (State.joinRecord s x).1 := by
  refine Same.step ?_ hm h
  unfold State.joinRecord
  try dsimp only
  repeat' first
    | with_reducible exact Same.refl _ _ | exact rfl | with_reducible assumption
    | exact fun (e : Nat.testBit _ _ = false) => absurd e (by decide) | with_reducible exact fun _ => rfl | intro _
    | with_reducible apply same_ite | with_reducible apply decideRec_same | with_reducible apply bump_same
    | with_reducible apply setJoin_same | with_reducible apply coverage_same | with_reducible apply after_same
    | with_reducible apply same_foldl | with_reducible apply same_overIdx | simp only [↓same_mk_tag]
    | with_reducible apply SameMk.intro | with_reducible apply same_foldl_fst | with_reducible apply same_foldl_snd
    | split

theorem cover_same {m : Nat} {s0 s : State} {p : Nat} {tm : Nat} (hm : sub 12583058 m = true) (h : Same m s0 s) :
    Same m s0 (State.cover s p tm) := by
  refine Same.step ?_ hm h
  unfold State.cover
  try dsimp only
  repeat' first
    | with_reducible exact Same.refl _ _ | exact rfl | with_reducible assumption
    | exact fun (e : Nat.testBit _ _ = false) => absurd e (by decide) | with_reducible exact fun _ => rfl | intro _
    | with_reducible apply same_ite | with_reducible apply setJoin_same | with_reducible apply coverage_same
    | with_reducible apply same_foldl | with_reducible apply same_overIdx | simp only [↓same_mk_tag]
    | with_reducible apply SameMk.intro | with_reducible apply same_foldl_fst | with_reducible apply same_foldl_snd
    | split

theorem joinLanded_same {m : Nat} {s0 s : State} {p : Nat} (hm : sub 12583058 m = true) (h : Same m s0 s) :
    Same m s0 (State.joinLanded s p) := by
  refine Same.step ?_ hm h
  unfold State.joinLanded
  try dsimp only
  repeat' first
    | with_reducible exact Same.refl _ _ | exact rfl | with_reducible assumption
    | exact fun (e : Nat.testBit _ _ = false) => absurd e (by decide) | with_reducible exact fun _ => rfl | intro _
    | with_reducible apply same_ite | with_reducible apply coverage_same | with_reducible apply after_same
    | with_reducible apply same_foldl | with_reducible apply same_overIdx | simp only [↓same_mk_tag]
    | with_reducible apply SameMk.intro | with_reducible apply same_foldl_fst | with_reducible apply same_foldl_snd
    | split

theorem flushJoin_same {m : Nat} {s0 s : State} {j : Nat} (hm : sub 12845202 m = true) (h : Same m s0 s) :
    Same m s0 (State.flushJoin s j) := by
  refine Same.step ?_ hm h
  unfold State.flushJoin
  try dsimp only
  repeat' first
    | with_reducible exact Same.refl _ _ | exact rfl | with_reducible assumption
    | exact fun (e : Nat.testBit _ _ = false) => absurd e (by decide) | with_reducible exact fun _ => rfl | intro _
    | with_reducible apply same_ite | with_reducible apply underrun_same | with_reducible apply setJoin_same
    | with_reducible apply same_foldl | with_reducible apply same_overIdx | simp only [↓same_mk_tag]
    | with_reducible apply SameMk.intro | with_reducible apply same_foldl_fst | with_reducible apply same_foldl_snd
    | split

theorem joinConfig_same {m : Nat} {s0 s : State} {j : Nat} {data : Nat} (hm : sub 12845266 m = true) (h : Same m s0 s)
    :
    Same m s0 (State.joinConfig s j data) := by
  refine Same.step ?_ hm h
  unfold State.joinConfig
  try dsimp only
  repeat' first
    | with_reducible exact Same.refl _ _ | exact rfl | with_reducible assumption
    | exact fun (e : Nat.testBit _ _ = false) => absurd e (by decide) | with_reducible exact fun _ => rfl | intro _
    | with_reducible apply same_ite | with_reducible apply refuse_same | with_reducible apply noteLate_same
    | with_reducible apply put_same | with_reducible apply flushJoin_same | with_reducible apply same_foldl
    | with_reducible apply same_overIdx | simp only [↓same_mk_tag] | with_reducible apply SameMk.intro
    | with_reducible apply same_foldl_fst | with_reducible apply same_foldl_snd | split

theorem takeFrame_same {m : Nat} {s0 s : State} {p : Nat} {src : Nat} {f : Nat} {nodes : Bool × Bool} {tm : Nat × Nat}
    (hm : sub 2097298 m = true) (h : Same m s0 s) :
    Same m s0 (State.takeFrame s p src f nodes tm) := by
  refine Same.step ?_ hm h
  unfold State.takeFrame
  try dsimp only
  repeat' first
    | with_reducible exact Same.refl _ _ | exact rfl | with_reducible assumption
    | exact fun (e : Nat.testBit _ _ = false) => absurd e (by decide) | with_reducible exact fun _ => rfl | intro _
    | with_reducible apply same_ite | with_reducible apply setPipe_same | with_reducible apply put_same
    | with_reducible apply setBit_same | with_reducible apply bump_same | with_reducible apply after_same
    | with_reducible apply same_foldl | with_reducible apply same_overIdx | simp only [↓same_mk_tag]
    | with_reducible apply SameMk.intro | with_reducible apply same_foldl_fst | with_reducible apply same_foldl_snd
    | split

theorem rowsMeet_same {m : Nat} {s0 s : State} {p : Nat} {n : Nat} {f : Nat} (hm : sub 262290 m = true)
    (h : Same m s0 s) :
    Same m s0 (State.rowsMeet s p n f) := by
  refine Same.step ?_ hm h
  unfold State.rowsMeet
  try dsimp only
  repeat' first
    | with_reducible exact Same.refl _ _ | exact rfl | with_reducible assumption
    | exact fun (e : Nat.testBit _ _ = false) => absurd e (by decide) | with_reducible exact fun _ => rfl | intro _
    | with_reducible apply same_ite | with_reducible apply readsMeet_same | with_reducible apply same_foldl
    | with_reducible apply same_overIdx | simp only [↓same_mk_tag] | with_reducible apply SameMk.intro
    | with_reducible apply same_foldl_fst | with_reducible apply same_foldl_snd | split

theorem scheduleIssues_same {m : Nat} {s0 s : State} {p : Nat} {l : List Rec} (hm : sub 2 m = true) (h : Same m s0 s)
    :
    Same m s0 (State.scheduleIssues s p l) := by
  refine Same.step ?_ hm h
  unfold State.scheduleIssues
  try dsimp only
  repeat' first
    | with_reducible exact Same.refl _ _ | exact rfl | with_reducible assumption
    | exact fun (e : Nat.testBit _ _ = false) => absurd e (by decide) | with_reducible exact fun _ => rfl | intro _
    | with_reducible apply same_ite | with_reducible apply at__same | with_reducible apply same_foldl
    | with_reducible apply same_overIdx | simp only [↓same_mk_tag] | with_reducible apply SameMk.intro
    | with_reducible apply same_foldl_fst | with_reducible apply same_foldl_snd | split

theorem buildRecords_same {m : Nat} {s0 s : State} {p : Nat} {f : Nat} (hm : sub 2097154 m = true) (h : Same m s0 s) :
    Same m s0 (State.buildRecords s p f) := by
  refine Same.step ?_ hm h
  unfold State.buildRecords
  try dsimp only
  repeat' first
    | with_reducible exact Same.refl _ _ | exact rfl | with_reducible assumption
    | exact fun (e : Nat.testBit _ _ = false) => absurd e (by decide) | with_reducible exact fun _ => rfl | intro _
    | with_reducible apply same_ite | with_reducible apply setPipe_same | with_reducible apply modFrame_same
    | with_reducible apply at__same | with_reducible apply scheduleIssues_same | with_reducible apply same_foldl
    | with_reducible apply same_overIdx | simp only [↓same_mk_tag] | with_reducible apply SameMk.intro
    | with_reducible apply same_foldl_fst | with_reducible apply same_foldl_snd | split

theorem recorrect_same {m : Nat} {s0 s : State} {p : Nat} {n : Nat} {f : Nat} (hm : sub 2097154 m = true)
    (h : Same m s0 s) :
    Same m s0 (State.recorrect s p n f) := by
  refine Same.step ?_ hm h
  unfold State.recorrect
  try dsimp only
  repeat' first
    | with_reducible exact Same.refl _ _ | exact rfl | with_reducible assumption
    | exact fun (e : Nat.testBit _ _ = false) => absurd e (by decide) | with_reducible exact fun _ => rfl | intro _
    | with_reducible apply same_ite | with_reducible apply modFrame_same | with_reducible apply buildRecords_same
    | with_reducible apply same_foldl | with_reducible apply same_overIdx | simp only [↓same_mk_tag]
    | with_reducible apply SameMk.intro | with_reducible apply same_foldl_fst | with_reducible apply same_foldl_snd
    | split

theorem issueRecord_same {m : Nat} {s0 s : State} {p : Nat} {f : Nat} {pair : Bool} {x : Rec}
    (hm : sub 14680210 m = true) (h : Same m s0 s) :
    Same m s0 (State.issueRecord s p f pair x) := by
  refine Same.step ?_ hm h
  unfold State.issueRecord
  try dsimp only
  repeat' first
    | with_reducible exact Same.refl _ _ | exact rfl | with_reducible assumption
    | exact fun (e : Nat.testBit _ _ = false) => absurd e (by decide) | with_reducible exact fun _ => rfl | intro _
    | with_reducible apply same_ite | with_reducible apply bump_same | with_reducible apply joinRecord_same
    | with_reducible apply modFrame_same | with_reducible apply same_foldl | with_reducible apply same_overIdx
    | simp only [↓same_mk_tag] | with_reducible apply SameMk.intro | with_reducible apply same_foldl_fst
    | with_reducible apply same_foldl_snd | split

theorem closeStopped_same {m : Nat} {s0 s : State} {p : Nat} (hm : sub 2883730 m = true) (h : Same m s0 s) :
    Same m s0 (State.closeStopped s p) := by
  refine Same.step ?_ hm h
  unfold State.closeStopped
  try dsimp only
  repeat' first
    | with_reducible exact Same.refl _ _ | exact rfl | with_reducible assumption
    | exact fun (e : Nat.testBit _ _ = false) => absurd e (by decide) | with_reducible exact fun _ => rfl | intro _
    | with_reducible apply same_ite | with_reducible apply modFrame_same | with_reducible apply writeRecords_same
    | with_reducible apply same_foldl | with_reducible apply same_overIdx | simp only [↓same_mk_tag]
    | with_reducible apply SameMk.intro | with_reducible apply same_foldl_fst | with_reducible apply same_foldl_snd
    | split

theorem issueRecords_same {m : Nat} {s0 s : State} {p : Nat} (hm : sub 15466642 m = true) (h : Same m s0 s) :
    Same m s0 (State.issueRecords s p) := by
  refine Same.step ?_ hm h
  unfold State.issueRecords
  try dsimp only
  repeat' first
    | with_reducible exact Same.refl _ _ | exact rfl | with_reducible assumption
    | exact fun (e : Nat.testBit _ _ = false) => absurd e (by decide) | with_reducible exact fun _ => rfl | intro _
    | with_reducible apply same_ite | with_reducible apply issueRecord_same | with_reducible apply settle_same
    | with_reducible apply closeStopped_same | with_reducible apply same_foldl | with_reducible apply same_overIdx
    | simp only [↓same_mk_tag] | with_reducible apply SameMk.intro | with_reducible apply same_foldl_fst
    | with_reducible apply same_foldl_snd | split

theorem completeRecords_same {m : Nat} {s0 s : State} {p : Nat} (hm : sub 15466642 m = true) (h : Same m s0 s) :
    Same m s0 (State.completeRecords s p) := by
  refine Same.step ?_ hm h
  unfold State.completeRecords
  try dsimp only
  repeat' first
    | with_reducible exact Same.refl _ _ | exact rfl | with_reducible assumption
    | exact fun (e : Nat.testBit _ _ = false) => absurd e (by decide) | with_reducible exact fun _ => rfl | intro _
    | with_reducible apply same_ite | with_reducible apply issueRecords_same | with_reducible apply cover_same
    | with_reducible apply modFrame_same | with_reducible apply writeRecords_same | with_reducible apply settle_same
    | with_reducible apply same_foldl | with_reducible apply same_overIdx | simp only [↓same_mk_tag]
    | with_reducible apply SameMk.intro | with_reducible apply same_foldl_fst | with_reducible apply same_foldl_snd
    | split

theorem overflowDue_same {m : Nat} {s0 s : State} {p : Nat} (hm : sub 2359442 m = true) (h : Same m s0 s) :
    Same m s0 (State.overflowDue s p) := by
  refine Same.step ?_ hm h
  unfold State.overflowDue
  try dsimp only
  repeat' first
    | with_reducible exact Same.refl _ _ | exact rfl | with_reducible assumption
    | exact fun (e : Nat.testBit _ _ = false) => absurd e (by decide) | with_reducible exact fun _ => rfl | intro _
    | with_reducible apply same_ite | with_reducible apply modFrame_same | with_reducible apply bump_same
    | with_reducible apply sticky_same | with_reducible apply same_foldl | with_reducible apply same_overIdx
    | simp only [↓same_mk_tag] | with_reducible apply SameMk.intro | with_reducible apply same_foldl_fst
    | with_reducible apply same_foldl_snd | split

theorem countMismatch_same {m : Nat} {s0 s : State} {p : Nat} (hm : sub 262290 m = true) (h : Same m s0 s) :
    Same m s0 (State.countMismatch s p) := by
  refine Same.step ?_ hm h
  unfold State.countMismatch
  try dsimp only
  repeat' first
    | with_reducible exact Same.refl _ _ | exact rfl | with_reducible assumption
    | exact fun (e : Nat.testBit _ _ = false) => absurd e (by decide) | with_reducible exact fun _ => rfl | intro _
    | with_reducible apply same_ite | with_reducible apply bump_same | with_reducible apply sticky_same
    | with_reducible apply same_foldl | with_reducible apply same_overIdx | simp only [↓same_mk_tag]
    | with_reducible apply SameMk.intro | with_reducible apply same_foldl_fst | with_reducible apply same_foldl_snd
    | split

theorem countRows_same {m : Nat} {s0 s : State} {p : Nat} {rows : List (List Px3)} (hm : sub 262290 m = true)
    (h : Same m s0 s) :
    Same m s0 (State.countRows s p rows) := by
  refine Same.step ?_ hm h
  unfold State.countRows
  try dsimp only
  repeat' first
    | with_reducible exact Same.refl _ _ | exact rfl | with_reducible assumption
    | exact fun (e : Nat.testBit _ _ = false) => absurd e (by decide) | with_reducible exact fun _ => rfl | intro _
    | with_reducible apply same_ite | with_reducible apply bumpBy_same | with_reducible apply sticky_same
    | with_reducible apply same_foldl | with_reducible apply same_overIdx | simp only [↓same_mk_tag]
    | with_reducible apply SameMk.intro | with_reducible apply same_foldl_fst | with_reducible apply same_foldl_snd
    | split

theorem countPart_same {m : Nat} {s0 s : State} {p : Nat} {x : Part} (hm : sub 262290 m = true) (h : Same m s0 s) :
    Same m s0 (State.countPart s p x) := by
  refine Same.step ?_ hm h
  unfold State.countPart
  try dsimp only
  repeat' first
    | with_reducible exact Same.refl _ _ | exact rfl | with_reducible assumption
    | exact fun (e : Nat.testBit _ _ = false) => absurd e (by decide) | with_reducible exact fun _ => rfl | intro _
    | with_reducible apply same_ite | with_reducible apply countMismatch_same | with_reducible apply countRows_same
    | with_reducible apply same_foldl | with_reducible apply same_overIdx | simp only [↓same_mk_tag]
    | with_reducible apply SameMk.intro | with_reducible apply same_foldl_fst | with_reducible apply same_foldl_snd
    | split

theorem countNode_same {m : Nat} {s0 s : State} {p : Nat} {n : Nat} {f : Nat} (hm : sub 262290 m = true)
    (h : Same m s0 s) :
    Same m s0 (State.countNode s p n f) := by
  refine Same.step ?_ hm h
  unfold State.countNode
  try dsimp only
  repeat' first
    | with_reducible exact Same.refl _ _ | exact rfl | with_reducible assumption
    | exact fun (e : Nat.testBit _ _ = false) => absurd e (by decide) | with_reducible exact fun _ => rfl | intro _
    | with_reducible apply same_ite | with_reducible apply countPart_same | with_reducible apply same_foldl
    | with_reducible apply same_overIdx | simp only [↓same_mk_tag] | with_reducible apply SameMk.intro
    | with_reducible apply same_foldl_fst | with_reducible apply same_foldl_snd | split

theorem endStopped_same {m : Nat} {s0 s : State} {p : Nat} (hm : sub 2883730 m = true) (h : Same m s0 s) :
    Same m s0 (State.endStopped s p) := by
  refine Same.step ?_ hm h
  unfold State.endStopped
  try dsimp only
  repeat' first
    | with_reducible exact Same.refl _ _ | exact rfl | with_reducible assumption
    | exact fun (e : Nat.testBit _ _ = false) => absurd e (by decide) | with_reducible exact fun _ => rfl | intro _
    | with_reducible apply same_ite | with_reducible apply closePart_same | with_reducible apply modTapPart_same
    | with_reducible apply settle_same | with_reducible apply closeStopped_same | with_reducible apply same_foldl
    | with_reducible apply same_overIdx | simp only [↓same_mk_tag] | with_reducible apply SameMk.intro
    | with_reducible apply same_foldl_fst | with_reducible apply same_foldl_snd | split

theorem stopPipe_same {m : Nat} {s0 s : State} {p : Nat} (hm : sub 2883730 m = true) (h : Same m s0 s) :
    Same m s0 (State.stopPipe s p) := by
  refine Same.step ?_ hm h
  unfold State.stopPipe
  try dsimp only
  repeat' first
    | with_reducible exact Same.refl _ _ | exact rfl | with_reducible assumption
    | exact fun (e : Nat.testBit _ _ = false) => absurd e (by decide) | with_reducible exact fun _ => rfl | intro _
    | with_reducible apply same_ite | with_reducible apply setPipe_same | with_reducible apply endStopped_same
    | with_reducible apply same_foldl | with_reducible apply same_overIdx | simp only [↓same_mk_tag]
    | with_reducible apply SameMk.intro | with_reducible apply same_foldl_fst | with_reducible apply same_foldl_snd
    | split

theorem setCam_same {m : Nat} {s0 s : State} {c : Nat} {x : Camera} (hm : sub 65536 m = true) (h : Same m s0 s) :
    Same m s0 (State.setCam s c x) := by
  refine Same.step ?_ hm h
  unfold State.setCam
  try dsimp only
  repeat' first
    | with_reducible exact Same.refl _ _ | exact rfl | with_reducible assumption
    | exact fun (e : Nat.testBit _ _ = false) => absurd e (by decide) | with_reducible exact fun _ => rfl | intro _
    | with_reducible apply same_ite | with_reducible apply same_foldl | with_reducible apply same_overIdx
    | simp only [↓same_mk_tag] | with_reducible apply SameMk.intro | with_reducible apply same_foldl_fst
    | with_reducible apply same_foldl_snd | split

theorem landPipe_same {m : Nat} {s0 s : State} {t : Nat} {p : Nat} (hm : sub 12583090 m = true) (h : Same m s0 s) :
    Same m s0 (State.landPipe s t p) := by
  refine Same.step ?_ hm h
  unfold State.landPipe
  try dsimp only
  repeat' first
    | with_reducible exact Same.refl _ _ | exact rfl | with_reducible assumption
    | exact fun (e : Nat.testBit _ _ = false) => absurd e (by decide) | with_reducible exact fun _ => rfl | intro _
    | with_reducible apply same_ite | with_reducible apply land_same | with_reducible apply joinLanded_same
    | with_reducible apply same_foldl | with_reducible apply same_overIdx | simp only [↓same_mk_tag]
    | with_reducible apply SameMk.intro | with_reducible apply same_foldl_fst | with_reducible apply same_foldl_snd
    | split

theorem generation_same {m : Nat} {s0 s : State} {c : Nat} {before : List Nat} {landed : Bool}
    (hm : sub 65552 m = true) (h : Same m s0 s) :
    Same m s0 (State.generation s c before landed) := by
  refine Same.step ?_ hm h
  unfold State.generation
  try dsimp only
  repeat' first
    | with_reducible exact Same.refl _ _ | exact rfl | with_reducible assumption
    | exact fun (e : Nat.testBit _ _ = false) => absurd e (by decide) | with_reducible exact fun _ => rfl | intro _
    | with_reducible apply same_ite | with_reducible apply setCam_same | with_reducible apply put_same
    | with_reducible apply same_foldl | with_reducible apply same_overIdx | simp only [↓same_mk_tag]
    | with_reducible apply SameMk.intro | with_reducible apply same_foldl_fst | with_reducible apply same_foldl_snd
    | split

theorem darkLand_same {m : Nat} {s0 s : State} {rd : Reader} {c : Nat} {t : Nat} (hm : sub 262290 m = true)
    (h : Same m s0 s) :
    Same m s0 (State.darkLand s rd c t) := by
  refine Same.step ?_ hm h
  unfold State.darkLand
  try dsimp only
  repeat' first
    | with_reducible exact Same.refl _ _ | exact rfl | with_reducible assumption
    | exact fun (e : Nat.testBit _ _ = false) => absurd e (by decide) | with_reducible exact fun _ => rfl | intro _
    | with_reducible apply same_ite | with_reducible apply put_same | with_reducible apply bump_same
    | with_reducible apply sticky_same | with_reducible apply same_foldl | with_reducible apply same_overIdx
    | simp only [↓same_mk_tag] | with_reducible apply SameMk.intro | with_reducible apply same_foldl_fst
    | with_reducible apply same_foldl_snd | split

theorem lenLand_same {m : Nat} {s0 s : State} {rd : Reader} {c : Nat} {n : Nat} {t : Nat} (hm : sub 262290 m = true)
    (h : Same m s0 s) :
    Same m s0 (State.lenLand s rd c n t) := by
  refine Same.step ?_ hm h
  unfold State.lenLand
  try dsimp only
  repeat' first
    | with_reducible exact Same.refl _ _ | exact rfl | with_reducible assumption
    | exact fun (e : Nat.testBit _ _ = false) => absurd e (by decide) | with_reducible exact fun _ => rfl | intro _
    | with_reducible apply same_ite | with_reducible apply put_same | with_reducible apply bump_same
    | with_reducible apply sticky_same | with_reducible apply same_foldl | with_reducible apply same_overIdx
    | simp only [↓same_mk_tag] | with_reducible apply SameMk.intro | with_reducible apply same_foldl_fst
    | with_reducible apply same_foldl_snd | split

theorem landCamera_same {m : Nat} {s0 s : State} {c : Nat} {t : Nat} (hm : sub 12910770 m = true) (h : Same m s0 s) :
    Same m s0 (State.landCamera s c t) := by
  refine Same.step ?_ hm h
  unfold State.landCamera
  try dsimp only
  repeat' first
    | with_reducible exact Same.refl _ _ | exact rfl | with_reducible assumption
    | exact fun (e : Nat.testBit _ _ = false) => absurd e (by decide) | with_reducible exact fun _ => rfl | intro _
    | with_reducible apply same_ite | with_reducible apply lenLand_same | with_reducible apply darkLand_same
    | with_reducible apply setCam_same | with_reducible apply land_same | with_reducible apply landPipe_same
    | with_reducible apply generation_same | with_reducible apply put_same | with_reducible apply bump_same
    | with_reducible apply sticky_same | with_reducible apply same_foldl | with_reducible apply same_overIdx
    | simp only [↓same_mk_tag] | with_reducible apply SameMk.intro | with_reducible apply same_foldl_fst
    | with_reducible apply same_foldl_snd | split

theorem placeOne_same {m : Nat} {s0 s : State} {r : Request} (hm : sub 196754 m = true) (h : Same m s0 s) :
    Same m s0 (State.placeOne s r) := by
  refine Same.step ?_ hm h
  unfold State.placeOne
  try dsimp only
  repeat' first
    | with_reducible exact Same.refl _ _ | exact rfl | with_reducible assumption
    | exact fun (e : Nat.testBit _ _ = false) => absurd e (by decide) | with_reducible exact fun _ => rfl | intro _
    | with_reducible apply same_ite | with_reducible apply put_same | with_reducible apply bump_same
    | with_reducible apply at__same | with_reducible apply setCam_same | with_reducible apply same_foldl
    | with_reducible apply same_overIdx | simp only [↓same_mk_tag] | with_reducible apply SameMk.intro
    | with_reducible apply same_foldl_fst | with_reducible apply same_foldl_snd | split

theorem scheduleFrame_same {m : Nat} {s0 s : State} {c : Nat} {f : Nat} {q : Sched} (hm : sub 2 m = true)
    (h : Same m s0 s) :
    Same m s0 (State.scheduleFrame s c f q) := by
  refine Same.step ?_ hm h
  unfold State.scheduleFrame
  try dsimp only
  repeat' first
    | with_reducible exact Same.refl _ _ | exact rfl | with_reducible assumption
    | exact fun (e : Nat.testBit _ _ = false) => absurd e (by decide) | with_reducible exact fun _ => rfl | intro _
    | with_reducible apply same_ite | with_reducible apply at__same | with_reducible apply same_foldl
    | with_reducible apply same_overIdx | simp only [↓same_mk_tag] | with_reducible apply SameMk.intro
    | with_reducible apply same_foldl_fst | with_reducible apply same_foldl_snd | split

theorem setupFrame_same {m : Nat} {s0 s : State} {c : Nat} {t : Nat} {f : Nat} (hm : sub 15012018 m = true)
    (h : Same m s0 s) :
    Same m s0 (State.setupFrame s c t f).1 := by
  refine Same.step ?_ hm h
  unfold State.setupFrame
  try dsimp only
  repeat' first
    | with_reducible exact Same.refl _ _ | exact rfl | with_reducible assumption
    | exact fun (e : Nat.testBit _ _ = false) => absurd e (by decide) | with_reducible exact fun _ => rfl | intro _
    | with_reducible apply same_ite | with_reducible apply landCamera_same | with_reducible apply put_same
    | with_reducible apply setCam_same | with_reducible apply takeFrame_same | with_reducible apply formWindows_same
    | with_reducible apply scheduleFrame_same | with_reducible apply same_foldl | with_reducible apply same_overIdx
    | simp only [↓same_mk_tag] | with_reducible apply SameMk.intro | with_reducible apply same_foldl_fst
    | with_reducible apply same_foldl_snd | split

theorem skipSlot_same {m : Nat} {s0 s : State} {c : Nat} (hm : sub 262290 m = true) (h : Same m s0 s) :
    Same m s0 (State.skipSlot s c) := by
  refine Same.step ?_ hm h
  unfold State.skipSlot
  try dsimp only
  repeat' first
    | with_reducible exact Same.refl _ _ | exact rfl | with_reducible assumption
    | exact fun (e : Nat.testBit _ _ = false) => absurd e (by decide) | with_reducible exact fun _ => rfl | intro _
    | with_reducible apply same_ite | with_reducible apply bump_same | with_reducible apply sticky_same
    | with_reducible apply same_foldl | with_reducible apply same_overIdx | simp only [↓same_mk_tag]
    | with_reducible apply SameMk.intro | with_reducible apply same_foldl_fst | with_reducible apply same_foldl_snd
    | split

theorem offerLinked_same {m : Nat} {s0 s : State} {t : Nat} {f : Nat} (hm : sub 15012018 m = true) (h : Same m s0 s) :
    Same m s0 (State.offerLinked s t f).1 := by
  refine Same.step ?_ hm h
  unfold State.offerLinked
  try dsimp only
  repeat' first
    | with_reducible exact Same.refl _ _ | exact rfl | with_reducible assumption
    | exact fun (e : Nat.testBit _ _ = false) => absurd e (by decide) | with_reducible exact fun _ => rfl | intro _
    | with_reducible apply same_ite | with_reducible apply setupFrame_same | with_reducible apply skipSlot_same
    | with_reducible apply same_foldl | with_reducible apply same_overIdx | simp only [↓same_mk_tag]
    | with_reducible apply SameMk.intro | with_reducible apply same_foldl_fst | with_reducible apply same_foldl_snd
    | split

theorem tryFrame_same {m : Nat} {s0 s : State} {c : Nat} {t : Nat} {f : Nat} (hm : sub 15012018 m = true)
    (h : Same m s0 s) :
    Same m s0 (State.tryFrame s c t f).1 := by
  refine Same.step ?_ hm h
  unfold State.tryFrame
  try dsimp only
  repeat' first
    | with_reducible exact Same.refl _ _ | exact rfl | with_reducible assumption
    | exact fun (e : Nat.testBit _ _ = false) => absurd e (by decide) | with_reducible exact fun _ => rfl | intro _
    | with_reducible apply same_ite | with_reducible apply setupFrame_same | with_reducible apply offerLinked_same
    | with_reducible apply same_foldl | with_reducible apply same_overIdx | simp only [↓same_mk_tag]
    | with_reducible apply SameMk.intro | with_reducible apply same_foldl_fst | with_reducible apply same_foldl_snd
    | split

theorem place_same {m : Nat} {s0 s : State} {rs : List Request} (hm : sub 196754 m = true) (h : Same m s0 s) :
    Same m s0 (State.place s rs) := by
  refine Same.step ?_ hm h
  unfold State.place
  try dsimp only
  repeat' first
    | with_reducible exact Same.refl _ _ | exact rfl | with_reducible assumption
    | exact fun (e : Nat.testBit _ _ = false) => absurd e (by decide) | with_reducible exact fun _ => rfl | intro _
    | with_reducible apply same_ite | with_reducible apply placeOne_same | with_reducible apply same_foldl
    | with_reducible apply same_overIdx | simp only [↓same_mk_tag] | with_reducible apply SameMk.intro
    | with_reducible apply same_foldl_fst | with_reducible apply same_foldl_snd | split

theorem nextSlotAt_same {m : Nat} {s0 s : State} {c : Nat} {f : Nat} (hm : sub 65538 m = true) (h : Same m s0 s) :
    Same m s0 (State.nextSlotAt s c f) := by
  refine Same.step ?_ hm h
  unfold State.nextSlotAt
  try dsimp only
  repeat' first
    | with_reducible exact Same.refl _ _ | exact rfl | with_reducible assumption
    | exact fun (e : Nat.testBit _ _ = false) => absurd e (by decide) | with_reducible exact fun _ => rfl | intro _
    | with_reducible apply same_ite | with_reducible apply at__same | with_reducible apply setCam_same
    | with_reducible apply same_foldl | with_reducible apply same_overIdx | simp only [↓same_mk_tag]
    | with_reducible apply SameMk.intro | with_reducible apply same_foldl_fst | with_reducible apply same_foldl_snd
    | split

theorem advanceGrid_same {m : Nat} {s0 s : State} {c : Nat} {f : Nat} (hm : sub 65538 m = true) (h : Same m s0 s) :
    Same m s0 (State.advanceGrid s c f) := by
  refine Same.step ?_ hm h
  unfold State.advanceGrid
  try dsimp only
  repeat' first
    | with_reducible exact Same.refl _ _ | exact rfl | with_reducible assumption
    | exact fun (e : Nat.testBit _ _ = false) => absurd e (by decide) | with_reducible exact fun _ => rfl | intro _
    | with_reducible apply same_ite | with_reducible apply nextSlotAt_same | with_reducible apply setCam_same
    | with_reducible apply same_foldl | with_reducible apply same_overIdx | simp only [↓same_mk_tag]
    | with_reducible apply SameMk.intro | with_reducible apply same_foldl_fst | with_reducible apply same_foldl_snd
    | split

theorem burstDown_same {m : Nat} {s0 s : State} {c : Nat} (hm : sub 16 m = true) (h : Same m s0 s) :
    Same m s0 (State.burstDown s c) := by
  refine Same.step ?_ hm h
  unfold State.burstDown
  try dsimp only
  repeat' first
    | with_reducible exact Same.refl _ _ | exact rfl | with_reducible assumption
    | exact fun (e : Nat.testBit _ _ = false) => absurd e (by decide) | with_reducible exact fun _ => rfl | intro _
    | with_reducible apply same_ite | with_reducible apply put_same | with_reducible apply same_foldl
    | with_reducible apply same_overIdx | simp only [↓same_mk_tag] | with_reducible apply SameMk.intro
    | with_reducible apply same_foldl_fst | with_reducible apply same_foldl_snd | split

theorem slotDue_same {m : Nat} {s0 s : State} {c : Nat} (hm : sub 15012018 m = true) (h : Same m s0 s) :
    Same m s0 (State.slotDue s c).1 := by
  refine Same.step ?_ hm h
  unfold State.slotDue
  try dsimp only
  repeat' first
    | with_reducible exact Same.refl _ _ | exact rfl | with_reducible assumption
    | exact fun (e : Nat.testBit _ _ = false) => absurd e (by decide) | with_reducible exact fun _ => rfl | intro _
    | with_reducible apply same_ite | with_reducible apply at__same | with_reducible apply advanceGrid_same
    | with_reducible apply burstDown_same | with_reducible apply setCam_same | with_reducible apply tryFrame_same
    | with_reducible apply skipSlot_same | with_reducible apply same_foldl | with_reducible apply same_overIdx
    | simp only [↓same_mk_tag] | with_reducible apply SameMk.intro | with_reducible apply same_foldl_fst
    | with_reducible apply same_foldl_snd | split

theorem setupTick_same {m : Nat} {s0 s : State} {c : Nat} (hm : sub 15143090 m = true) (h : Same m s0 s) :
    Same m s0 (State.setupTick s c) := by
  refine Same.step ?_ hm h
  unfold State.setupTick
  try dsimp only
  repeat' first
    | with_reducible exact Same.refl _ _ | exact rfl | with_reducible assumption
    | exact fun (e : Nat.testBit _ _ = false) => absurd e (by decide) | with_reducible exact fun _ => rfl | intro _
    | with_reducible apply same_ite | with_reducible apply slotDue_same | with_reducible apply place_same
    | with_reducible apply same_foldl | with_reducible apply same_overIdx | simp only [↓same_mk_tag]
    | with_reducible apply SameMk.intro | with_reducible apply same_foldl_fst | with_reducible apply same_foldl_snd
    | split

theorem regainSlots_same {m : Nat} {s0 s : State} (hm : sub 65554 m = true) (h : Same m s0 s) :
    Same m s0 (State.regainSlots s) := by
  refine Same.step ?_ hm h
  unfold State.regainSlots
  try dsimp only
  repeat' first
    | with_reducible exact Same.refl _ _ | exact rfl | with_reducible assumption
    | exact fun (e : Nat.testBit _ _ = false) => absurd e (by decide) | with_reducible exact fun _ => rfl | intro _
    | with_reducible apply same_ite | with_reducible apply after_same | with_reducible apply put_same
    | with_reducible apply setCam_same | with_reducible apply same_foldl | with_reducible apply same_overIdx
    | simp only [↓same_mk_tag] | with_reducible apply SameMk.intro | with_reducible apply same_foldl_fst
    | with_reducible apply same_foldl_snd | split

theorem startCamera_same {m : Nat} {s0 s : State} {c : Nat} (hm : sub 65554 m = true) (h : Same m s0 s) :
    Same m s0 (State.startCamera s c) := by
  refine Same.step ?_ hm h
  unfold State.startCamera
  try dsimp only
  repeat' first
    | with_reducible exact Same.refl _ _ | exact rfl | with_reducible assumption
    | exact fun (e : Nat.testBit _ _ = false) => absurd e (by decide) | with_reducible exact fun _ => rfl | intro _
    | with_reducible apply same_ite | with_reducible apply put_same | with_reducible apply setCam_same
    | with_reducible apply nextSlotAt_same | with_reducible apply same_foldl | with_reducible apply same_overIdx
    | simp only [↓same_mk_tag] | with_reducible apply SameMk.intro | with_reducible apply same_foldl_fst
    | with_reducible apply same_foldl_snd | split

theorem stopCamera_same {m : Nat} {s0 s : State} {c : Nat} (hm : sub 65552 m = true) (h : Same m s0 s) :
    Same m s0 (State.stopCamera s c) := by
  refine Same.step ?_ hm h
  unfold State.stopCamera
  try dsimp only
  repeat' first
    | with_reducible exact Same.refl _ _ | exact rfl | with_reducible assumption
    | exact fun (e : Nat.testBit _ _ = false) => absurd e (by decide) | with_reducible exact fun _ => rfl | intro _
    | with_reducible apply same_ite | with_reducible apply put_same | with_reducible apply setCam_same
    | with_reducible apply same_foldl | with_reducible apply same_overIdx | simp only [↓same_mk_tag]
    | with_reducible apply SameMk.intro | with_reducible apply same_foldl_fst | with_reducible apply same_foldl_snd
    | split

theorem dropTrigger_same {m : Nat} {s0 s : State} {c : Nat} (hm : sub 262290 m = true) (h : Same m s0 s) :
    Same m s0 (State.dropTrigger s c) := by
  refine Same.step ?_ hm h
  unfold State.dropTrigger
  try dsimp only
  repeat' first
    | with_reducible exact Same.refl _ _ | exact rfl | with_reducible assumption
    | exact fun (e : Nat.testBit _ _ = false) => absurd e (by decide) | with_reducible exact fun _ => rfl | intro _
    | with_reducible apply same_ite | with_reducible apply bump_same | with_reducible apply sticky_same
    | with_reducible apply same_foldl | with_reducible apply same_overIdx | simp only [↓same_mk_tag]
    | with_reducible apply SameMk.intro | with_reducible apply same_foldl_fst | with_reducible apply same_foldl_snd
    | split

theorem beginBurst_same {m : Nat} {s0 s : State} {c : Nat} {f : Nat} (hm : sub 65554 m = true) (h : Same m s0 s) :
    Same m s0 (State.beginBurst s c f) := by
  refine Same.step ?_ hm h
  unfold State.beginBurst
  try dsimp only
  repeat' first
    | with_reducible exact Same.refl _ _ | exact rfl | with_reducible assumption
    | exact fun (e : Nat.testBit _ _ = false) => absurd e (by decide) | with_reducible exact fun _ => rfl | intro _
    | with_reducible apply same_ite | with_reducible apply put_same | with_reducible apply advanceGrid_same
    | with_reducible apply setCam_same | with_reducible apply same_foldl | with_reducible apply same_overIdx
    | simp only [↓same_mk_tag] | with_reducible apply SameMk.intro | with_reducible apply same_foldl_fst
    | with_reducible apply same_foldl_snd | split

theorem triggerCam_same {m : Nat} {s0 s : State} {c : Nat} {t : Nat} (hm : sub 15012018 m = true) (h : Same m s0 s) :
    Same m s0 (State.triggerCam s c t).1 := by
  refine Same.step ?_ hm h
  unfold State.triggerCam
  try dsimp only
  repeat' first
    | with_reducible exact Same.refl _ _ | exact rfl | with_reducible assumption
    | exact fun (e : Nat.testBit _ _ = false) => absurd e (by decide) | with_reducible exact fun _ => rfl | intro _
    | with_reducible apply same_ite | with_reducible apply dropTrigger_same | with_reducible apply tryFrame_same
    | with_reducible apply beginBurst_same | with_reducible apply same_foldl | with_reducible apply same_overIdx
    | simp only [↓same_mk_tag] | with_reducible apply SameMk.intro | with_reducible apply same_foldl_fst
    | with_reducible apply same_foldl_snd | split

theorem triggerBoth_same {m : Nat} {s0 s : State} {t : Nat} {hits : Nat → Bool} (hm : sub 15143090 m = true)
    (h : Same m s0 s) :
    Same m s0 (State.triggerBoth s t hits) := by
  refine Same.step ?_ hm h
  unfold State.triggerBoth
  try dsimp only
  repeat' first
    | with_reducible exact Same.refl _ _ | exact rfl | with_reducible assumption
    | exact fun (e : Nat.testBit _ _ = false) => absurd e (by decide) | with_reducible exact fun _ => rfl | intro _
    | with_reducible apply same_ite | with_reducible apply triggerCam_same | with_reducible apply place_same
    | with_reducible apply same_foldl | with_reducible apply same_overIdx | simp only [↓same_mk_tag]
    | with_reducible apply SameMk.intro | with_reducible apply same_foldl_fst | with_reducible apply same_foldl_snd
    | split

theorem trigger_same {m : Nat} {s0 s : State} {src : Nat} {t : Nat} {rising : Bool} (hm : sub 15143090 m = true)
    (h : Same m s0 s) :
    Same m s0 (State.trigger s src t rising) := by
  refine Same.step ?_ hm h
  unfold State.trigger
  try dsimp only
  repeat' first
    | with_reducible exact Same.refl _ _ | exact rfl | with_reducible assumption
    | exact fun (e : Nat.testBit _ _ = false) => absurd e (by decide) | with_reducible exact fun _ => rfl | intro _
    | with_reducible apply same_ite | with_reducible apply triggerBoth_same | with_reducible apply same_foldl
    | with_reducible apply same_overIdx | simp only [↓same_mk_tag] | with_reducible apply SameMk.intro
    | with_reducible apply same_foldl_fst | with_reducible apply same_foldl_snd | split

theorem softTrigger_same {m : Nat} {s0 s : State} {mask : Nat} (hm : sub 15143090 m = true) (h : Same m s0 s) :
    Same m s0 (State.softTrigger s mask) := by
  refine Same.step ?_ hm h
  unfold State.softTrigger
  try dsimp only
  repeat' first
    | with_reducible exact Same.refl _ _ | exact rfl | with_reducible assumption
    | exact fun (e : Nat.testBit _ _ = false) => absurd e (by decide) | with_reducible exact fun _ => rfl | intro _
    | with_reducible apply same_ite | with_reducible apply triggerBoth_same | with_reducible apply same_foldl
    | with_reducible apply same_overIdx | simp only [↓same_mk_tag] | with_reducible apply SameMk.intro
    | with_reducible apply same_foldl_fst | with_reducible apply same_foldl_snd | split

theorem modNode_same {m : Nat} {s0 s : State} {c : Nat} {n : Nat} {f : Node → Node} (hm : sub 65536 m = true)
    (h : Same m s0 s) :
    Same m s0 (State.modNode s c n f) := by
  refine Same.step ?_ hm h
  unfold State.modNode
  try dsimp only
  repeat' first
    | with_reducible exact Same.refl _ _ | exact rfl | with_reducible assumption
    | exact fun (e : Nat.testBit _ _ = false) => absurd e (by decide) | with_reducible exact fun _ => rfl | intro _
    | with_reducible apply same_ite | with_reducible apply setCam_same | with_reducible apply same_foldl
    | with_reducible apply same_overIdx | simp only [↓same_mk_tag] | with_reducible apply SameMk.intro
    | with_reducible apply same_foldl_fst | with_reducible apply same_foldl_snd | split

theorem resetNode_same {m : Nat} {s0 s : State} {c : Nat} {n : Nat} (hm : sub 65536 m = true) (h : Same m s0 s) :
    Same m s0 (State.resetNode s c n) := by
  refine Same.step ?_ hm h
  unfold State.resetNode
  try dsimp only
  repeat' first
    | with_reducible exact Same.refl _ _ | exact rfl | with_reducible assumption
    | exact fun (e : Nat.testBit _ _ = false) => absurd e (by decide) | with_reducible exact fun _ => rfl | intro _
    | with_reducible apply same_ite | with_reducible apply modNode_same | with_reducible apply same_foldl
    | with_reducible apply same_overIdx | simp only [↓same_mk_tag] | with_reducible apply SameMk.intro
    | with_reducible apply same_foldl_fst | with_reducible apply same_foldl_snd | split

theorem openNode_same {m : Nat} {s0 s : State} {c : Nat} {n : Nat} (hm : sub 65536 m = true) (h : Same m s0 s) :
    Same m s0 (State.openNode s c n) := by
  refine Same.step ?_ hm h
  unfold State.openNode
  try dsimp only
  repeat' first
    | with_reducible exact Same.refl _ _ | exact rfl | with_reducible assumption
    | exact fun (e : Nat.testBit _ _ = false) => absurd e (by decide) | with_reducible exact fun _ => rfl | intro _
    | with_reducible apply same_ite | with_reducible apply modNode_same | with_reducible apply same_foldl
    | with_reducible apply same_overIdx | simp only [↓same_mk_tag] | with_reducible apply SameMk.intro
    | with_reducible apply same_foldl_fst | with_reducible apply same_foldl_snd | split

theorem closeNode_same {m : Nat} {s0 s : State} {c : Nat} {n : Nat} (hm : sub 65536 m = true) (h : Same m s0 s) :
    Same m s0 (State.closeNode s c n) := by
  refine Same.step ?_ hm h
  unfold State.closeNode
  try dsimp only
  repeat' first
    | with_reducible exact Same.refl _ _ | exact rfl | with_reducible assumption
    | exact fun (e : Nat.testBit _ _ = false) => absurd e (by decide) | with_reducible exact fun _ => rfl | intro _
    | with_reducible apply same_ite | with_reducible apply modNode_same | with_reducible apply same_foldl
    | with_reducible apply same_overIdx | simp only [↓same_mk_tag] | with_reducible apply SameMk.intro
    | with_reducible apply same_foldl_fst | with_reducible apply same_foldl_snd | split

theorem beginFrame_same {m : Nat} {s0 s : State} {c : Nat} (hm : sub 2162832 m = true) (h : Same m s0 s) :
    Same m s0 (State.beginFrame s c) := by
  refine Same.step ?_ hm h
  unfold State.beginFrame
  try dsimp only
  repeat' first
    | with_reducible exact Same.refl _ _ | exact rfl | with_reducible assumption
    | exact fun (e : Nat.testBit _ _ = false) => absurd e (by decide) | with_reducible exact fun _ => rfl | intro _
    | with_reducible apply same_ite | with_reducible apply setCam_same | with_reducible apply burstDown_same
    | with_reducible apply putPair_same | with_reducible apply bump_same | with_reducible apply modFrame_same
    | with_reducible apply same_foldl | with_reducible apply same_overIdx | simp only [↓same_mk_tag]
    | with_reducible apply SameMk.intro | with_reducible apply same_foldl_fst | with_reducible apply same_foldl_snd
    | split

theorem readoutInto_same {m : Nat} {s0 s : State} {p : Nat} {c : Nat} {n : Nat} {f : Nat} {fin : Nat}
    {wins : List Window} {o : Readout} {banks : Banks} (hm : sub 2097154 m = true) (h : Same m s0 s) :
    Same m s0 (State.readoutInto s p c n f fin wins o banks) := by
  refine Same.step ?_ hm h
  unfold State.readoutInto
  try dsimp only
  repeat' first
    | with_reducible exact Same.refl _ _ | exact rfl | with_reducible assumption
    | exact fun (e : Nat.testBit _ _ = false) => absurd e (by decide) | with_reducible exact fun _ => rfl | intro _
    | with_reducible apply same_ite | with_reducible apply modFrame_same | with_reducible apply buildRecords_same
    | with_reducible apply same_foldl | with_reducible apply same_overIdx | simp only [↓same_mk_tag]
    | with_reducible apply SameMk.intro | with_reducible apply same_foldl_fst | with_reducible apply same_foldl_snd
    | split

theorem beginReadout_same {m : Nat} {s0 s : State} {c : Nat} {n : Nat} {img : Scene} (hm : sub 2162698 m = true)
    (h : Same m s0 s) :
    Same m s0 (State.beginReadout s c n img) := by
  refine Same.step ?_ hm h
  unfold State.beginReadout
  try dsimp only
  repeat' first
    | with_reducible exact Same.refl _ _ | exact rfl | with_reducible assumption
    | exact fun (e : Nat.testBit _ _ = false) => absurd e (by decide) | with_reducible exact fun _ => rfl | intro _
    | with_reducible apply same_ite | with_reducible apply setCam_same | with_reducible apply readoutInto_same
    | with_reducible apply after_same | with_reducible apply same_foldl | with_reducible apply same_overIdx
    | simp only [↓same_mk_tag] | with_reducible apply SameMk.intro | with_reducible apply same_foldl_fst
    | with_reducible apply same_foldl_snd | split

theorem endReadout_same {m : Nat} {s0 s : State} {c : Nat} {n : Nat} (hm : sub 65536 m = true) (h : Same m s0 s) :
    Same m s0 (State.endReadout s c n) := by
  refine Same.step ?_ hm h
  unfold State.endReadout
  try dsimp only
  repeat' first
    | with_reducible exact Same.refl _ _ | exact rfl | with_reducible assumption
    | exact fun (e : Nat.testBit _ _ = false) => absurd e (by decide) | with_reducible exact fun _ => rfl | intro _
    | with_reducible apply same_ite | with_reducible apply setCam_same | with_reducible apply same_foldl
    | with_reducible apply same_overIdx | simp only [↓same_mk_tag] | with_reducible apply SameMk.intro
    | with_reducible apply same_foldl_fst | with_reducible apply same_foldl_snd | split

theorem handCal_same {m : Nat} {s0 s : State} {p : Nat} {n : Nat} {f : Nat} (hm : sub 268435458 m = true)
    (h : Same m s0 s) :
    Same m s0 (State.handCal s p n f) := by
  refine Same.step ?_ hm h
  unfold State.handCal
  try dsimp only
  repeat' first
    | with_reducible exact Same.refl _ _ | exact rfl | with_reducible assumption
    | exact fun (e : Nat.testBit _ _ = false) => absurd e (by decide) | with_reducible exact fun _ => rfl | intro _
    | with_reducible apply same_ite | with_reducible apply after_same | with_reducible apply same_foldl
    | with_reducible apply same_overIdx | simp only [↓same_mk_tag] | with_reducible apply SameMk.intro
    | with_reducible apply same_foldl_fst | with_reducible apply same_foldl_snd | split

theorem rowPair_same {m : Nat} {s0 s : State} {c : Nat} {n : Nat} (hm : sub 271384722 m = true) (h : Same m s0 s) :
    Same m s0 (State.rowPair s c n) := by
  refine Same.step ?_ hm h
  unfold State.rowPair
  try dsimp only
  repeat' first
    | with_reducible exact Same.refl _ _ | exact rfl | with_reducible assumption
    | exact fun (e : Nat.testBit _ _ = false) => absurd e (by decide) | with_reducible exact fun _ => rfl | intro _
    | with_reducible apply same_ite | with_reducible apply setCam_same | with_reducible apply endReadout_same
    | with_reducible apply after_same | with_reducible apply countNode_same | with_reducible apply rowsMeet_same
    | with_reducible apply recorrect_same | with_reducible apply runTaps_same | with_reducible apply overflowDue_same
    | with_reducible apply handCal_same | with_reducible apply settle_same | with_reducible apply endStopped_same
    | with_reducible apply same_foldl | with_reducible apply same_overIdx | simp only [↓same_mk_tag]
    | with_reducible apply SameMk.intro | with_reducible apply same_foldl_fst | with_reducible apply same_foldl_snd
    | split

theorem setXport_same {m : Nat} {s0 s : State} {x : Nat} {y : XPort} (hm : sub 1048576 m = true) (h : Same m s0 s) :
    Same m s0 (State.setXport s x y) := by
  refine Same.step ?_ hm h
  unfold State.setXport
  try dsimp only
  repeat' first
    | with_reducible exact Same.refl _ _ | exact rfl | with_reducible assumption
    | exact fun (e : Nat.testBit _ _ = false) => absurd e (by decide) | with_reducible exact fun _ => rfl | intro _
    | with_reducible apply same_ite | with_reducible apply same_foldl | with_reducible apply same_overIdx
    | simp only [↓same_mk_tag] | with_reducible apply SameMk.intro | with_reducible apply same_foldl_fst
    | with_reducible apply same_foldl_snd | split

theorem addLine_same {m : Nat} {s0 s : State} {x : Nat} {l : XLine} (hm : sub 1048722 m = true) (h : Same m s0 s) :
    Same m s0 (State.addLine s x l) := by
  refine Same.step ?_ hm h
  unfold State.addLine
  try dsimp only
  repeat' first
    | with_reducible exact Same.refl _ _ | exact rfl | with_reducible assumption
    | exact fun (e : Nat.testBit _ _ = false) => absurd e (by decide) | with_reducible exact fun _ => rfl | intro _
    | with_reducible apply same_ite | with_reducible apply setXport_same | with_reducible apply bump_same
    | with_reducible apply at__same | with_reducible apply put_same | with_reducible apply same_foldl
    | with_reducible apply same_overIdx | simp only [↓same_mk_tag] | with_reducible apply SameMk.intro
    | with_reducible apply same_foldl_fst | with_reducible apply same_foldl_snd | split

theorem fillLines_same {m : Nat} {s0 s : State} {x : Nat} {w : Nat} {at_ : Nat} {a3 : Nat} (hm : sub 1048730 m = true)
    (h : Same m s0 s) :
    Same m s0 (State.fillLines s x w at_ a3) := by
  refine Same.step ?_ hm h
  clear h
  induction a3 generalizing s with
  | zero => exact Same.refl _ _
  | succ n ih =>
    unfold State.fillLines
    try dsimp only
    repeat' first
      | with_reducible exact Same.refl _ _ | exact rfl | with_reducible assumption
      | exact fun (e : Nat.testBit _ _ = false) => absurd e (by decide) | with_reducible exact fun _ => rfl | intro _
      | with_reducible apply same_ite | (with_reducible apply Same.step (hm := sub_self _) ih)
      | with_reducible apply free_same | with_reducible apply addLine_same | with_reducible apply same_foldl
      | with_reducible apply same_overIdx | simp only [↓same_mk_tag] | with_reducible apply SameMk.intro
      | with_reducible apply same_foldl_fst | with_reducible apply same_foldl_snd | split

end Sys2Proof.Machine
end

