-- ==== Sys2Proof/Laws/Same3.lean ====
section
/-! SUPPORT. What each operation of the model may change, by field of the state, part 3 of 6. -/

namespace Sys2Proof.Machine

theorem recordPipe_same {m : Nat} {s0 s : State} {x : Nat} {start : Nat} {record : List Nat}
    (hm : sub 2097152 m = true) (h : Same m s0 s) :
    Same m s0 (State.recordPipe s x start record) := by
  refine Same.step ?_ hm h
  unfold State.recordPipe
  try dsimp only
  repeat' first
    | with_reducible exact Same.refl _ _ | exact rfl | with_reducible assumption
    | exact fun (e : Nat.testBit _ _ = false) => absurd e (by decide) | with_reducible exact fun _ => rfl | intro _
    | with_reducible apply same_ite | with_reducible apply modFrame_same | with_reducible apply same_foldl
    | with_reducible apply same_overIdx | simp only [↓same_mk_tag] | with_reducible apply SameMk.intro
    | with_reducible apply same_foldl_fst | with_reducible apply same_foldl_snd | split

theorem closeFrame_same {m : Nat} {s0 s : State} {x : Nat} {mark : XFrame → XFrame} (hm : sub 3408026 m = true)
    (h : Same m s0 s) :
    Same m s0 (State.closeFrame s x mark) := by
  refine Same.step ?_ hm h
  unfold State.closeFrame
  try dsimp only
  repeat' first
    | with_reducible exact Same.refl _ _ | exact rfl | with_reducible assumption
    | exact fun (e : Nat.testBit _ _ = false) => absurd e (by decide) | with_reducible exact fun _ => rfl | intro _
    | with_reducible apply same_ite | with_reducible apply addLine_same | with_reducible apply fillLines_same
    | with_reducible apply setXport_same | with_reducible apply put_same | with_reducible apply bump_same
    | with_reducible apply recordPipe_same | with_reducible apply sticky_same | with_reducible apply same_foldl
    | with_reducible apply same_overIdx | simp only [↓same_mk_tag] | with_reducible apply SameMk.intro
    | with_reducible apply same_foldl_fst | with_reducible apply same_foldl_snd | split

theorem portStopped_same {m : Nat} {s0 s : State} {x : Nat} (hm : sub 1048592 m = true) (h : Same m s0 s) :
    Same m s0 (State.portStopped s x) := by
  refine Same.step ?_ hm h
  unfold State.portStopped
  try dsimp only
  repeat' first
    | with_reducible exact Same.refl _ _ | exact rfl | with_reducible assumption
    | exact fun (e : Nat.testBit _ _ = false) => absurd e (by decide) | with_reducible exact fun _ => rfl | intro _
    | with_reducible apply same_ite | with_reducible apply put_same | with_reducible apply setXport_same
    | with_reducible apply same_foldl | with_reducible apply same_overIdx | simp only [↓same_mk_tag]
    | with_reducible apply SameMk.intro | with_reducible apply same_foldl_fst | with_reducible apply same_foldl_snd
    | split

theorem endFrame_same {m : Nat} {s0 s : State} {x : Nat} {mark : XFrame → XFrame} (hm : sub 3408026 m = true)
    (h : Same m s0 s) :
    Same m s0 (State.endFrame s x mark) := by
  refine Same.step ?_ hm h
  unfold State.endFrame
  try dsimp only
  repeat' first
    | with_reducible exact Same.refl _ _ | exact rfl | with_reducible assumption
    | exact fun (e : Nat.testBit _ _ = false) => absurd e (by decide) | with_reducible exact fun _ => rfl | intro _
    | with_reducible apply same_ite | with_reducible apply closeFrame_same | with_reducible apply portStopped_same
    | with_reducible apply same_foldl | with_reducible apply same_overIdx | simp only [↓same_mk_tag]
    | with_reducible apply SameMk.intro | with_reducible apply same_foldl_fst | with_reducible apply same_foldl_snd
    | split

theorem stopPort_same {m : Nat} {s0 s : State} {x : Nat} (hm : sub 3408026 m = true) (h : Same m s0 s) :
    Same m s0 (State.stopPort s x) := by
  refine Same.step ?_ hm h
  unfold State.stopPort
  try dsimp only
  repeat' first
    | with_reducible exact Same.refl _ _ | exact rfl | with_reducible assumption
    | exact fun (e : Nat.testBit _ _ = false) => absurd e (by decide) | with_reducible exact fun _ => rfl | intro _
    | with_reducible apply same_ite | with_reducible apply put_same | with_reducible apply setXport_same
    | with_reducible apply portStopped_same | with_reducible apply closeFrame_same | with_reducible apply same_foldl
    | with_reducible apply same_overIdx | simp only [↓same_mk_tag] | with_reducible apply SameMk.intro
    | with_reducible apply same_foldl_fst | with_reducible apply same_foldl_snd | split

theorem forgetDelay_same {m : Nat} {s0 s : State} {x : Nat} (hm : sub 16 m = true) (h : Same m s0 s) :
    Same m s0 (State.forgetDelay s x) := by
  refine Same.step ?_ hm h
  unfold State.forgetDelay
  try dsimp only
  repeat' first
    | with_reducible exact Same.refl _ _ | exact rfl | with_reducible assumption
    | exact fun (e : Nat.testBit _ _ = false) => absurd e (by decide) | with_reducible exact fun _ => rfl | intro _
    | with_reducible apply same_ite | with_reducible apply put_same | with_reducible apply same_foldl
    | with_reducible apply same_overIdx | simp only [↓same_mk_tag] | with_reducible apply SameMk.intro
    | with_reducible apply same_foldl_fst | with_reducible apply same_foldl_snd | split

theorem portOn_same {m : Nat} {s0 s : State} {x : Nat} (hm : sub 1048592 m = true) (h : Same m s0 s) :
    Same m s0 (State.portOn s x) := by
  refine Same.step ?_ hm h
  unfold State.portOn
  try dsimp only
  repeat' first
    | with_reducible exact Same.refl _ _ | exact rfl | with_reducible assumption
    | exact fun (e : Nat.testBit _ _ = false) => absurd e (by decide) | with_reducible exact fun _ => rfl | intro _
    | with_reducible apply same_ite | with_reducible apply setXport_same | with_reducible apply put_same
    | with_reducible apply same_foldl | with_reducible apply same_overIdx | simp only [↓same_mk_tag]
    | with_reducible apply SameMk.intro | with_reducible apply same_foldl_fst | with_reducible apply same_foldl_snd
    | split

theorem portOff_same {m : Nat} {s0 s : State} {x : Nat} (hm : sub 3408026 m = true) (h : Same m s0 s) :
    Same m s0 (State.portOff s x) := by
  refine Same.step ?_ hm h
  unfold State.portOff
  try dsimp only
  repeat' first
    | with_reducible exact Same.refl _ _ | exact rfl | with_reducible assumption
    | exact fun (e : Nat.testBit _ _ = false) => absurd e (by decide) | with_reducible exact fun _ => rfl | intro _
    | with_reducible apply same_ite | with_reducible apply setXport_same | with_reducible apply closeFrame_same
    | with_reducible apply put_same | with_reducible apply forgetDelay_same | with_reducible apply same_foldl
    | with_reducible apply same_overIdx | simp only [↓same_mk_tag] | with_reducible apply SameMk.intro
    | with_reducible apply same_foldl_fst | with_reducible apply same_foldl_snd | split

theorem train_same {m : Nat} {s0 s : State} {x : Nat} (hm : sub 1048594 m = true) (h : Same m s0 s) :
    Same m s0 (State.train s x) := by
  refine Same.step ?_ hm h
  unfold State.train
  try dsimp only
  repeat' first
    | with_reducible exact Same.refl _ _ | exact rfl | with_reducible assumption
    | exact fun (e : Nat.testBit _ _ = false) => absurd e (by decide) | with_reducible exact fun _ => rfl | intro _
    | with_reducible apply same_ite | with_reducible apply after_same | with_reducible apply put_same
    | with_reducible apply setXport_same | with_reducible apply same_foldl | with_reducible apply same_overIdx
    | simp only [↓same_mk_tag] | with_reducible apply SameMk.intro | with_reducible apply same_foldl_fst
    | with_reducible apply same_foldl_snd | split

theorem trained_same {m : Nat} {s0 s : State} {x : Nat} {start : Nat} {len : Nat} {lively : Bool}
    (hm : sub 262290 m = true) (h : Same m s0 s) :
    Same m s0 (State.trained s x start len lively) := by
  refine Same.step ?_ hm h
  unfold State.trained
  try dsimp only
  repeat' first
    | with_reducible exact Same.refl _ _ | exact rfl | with_reducible assumption
    | exact fun (e : Nat.testBit _ _ = false) => absurd e (by decide) | with_reducible exact fun _ => rfl | intro _
    | with_reducible apply same_ite | with_reducible apply bump_same | with_reducible apply forgetDelay_same
    | with_reducible apply put_same | with_reducible apply sticky_same | with_reducible apply same_foldl
    | with_reducible apply same_overIdx | simp only [↓same_mk_tag] | with_reducible apply SameMk.intro
    | with_reducible apply same_foldl_fst | with_reducible apply same_foldl_snd | split

theorem trainingEnd_same {m : Nat} {s0 s : State} {x : Nat} {seen : Option (List Bool × List Nat)}
    (hm : sub 262298 m = true) (h : Same m s0 s) :
    Same m s0 (State.trainingEnd s x seen) := by
  refine Same.step ?_ hm h
  unfold State.trainingEnd
  try dsimp only
  repeat' first
    | with_reducible exact Same.refl _ _ | exact rfl | with_reducible assumption
    | exact fun (e : Nat.testBit _ _ = false) => absurd e (by decide) | with_reducible exact fun _ => rfl | intro _
    | with_reducible apply same_ite | with_reducible apply trained_same | with_reducible apply free_same
    | with_reducible apply same_foldl | with_reducible apply same_overIdx | simp only [↓same_mk_tag]
    | with_reducible apply SameMk.intro | with_reducible apply same_foldl_fst | with_reducible apply same_foldl_snd
    | split

theorem runPort_same {m : Nat} {s0 s : State} {x : Nat} (hm : sub 1048592 m = true) (h : Same m s0 s) :
    Same m s0 (State.runPort s x) := by
  refine Same.step ?_ hm h
  unfold State.runPort
  try dsimp only
  repeat' first
    | with_reducible exact Same.refl _ _ | exact rfl | with_reducible assumption
    | exact fun (e : Nat.testBit _ _ = false) => absurd e (by decide) | with_reducible exact fun _ => rfl | intro _
    | with_reducible apply same_ite | with_reducible apply setXport_same | with_reducible apply put_same
    | with_reducible apply same_foldl | with_reducible apply same_overIdx | simp only [↓same_mk_tag]
    | with_reducible apply SameMk.intro | with_reducible apply same_foldl_fst | with_reducible apply same_foldl_snd
    | split

theorem landPort_same {m : Nat} {s0 s : State} {x : Nat} (hm : sub 13631666 m = true) (h : Same m s0 s) :
    Same m s0 (State.landPort s x) := by
  refine Same.step ?_ hm h
  unfold State.landPort
  try dsimp only
  repeat' first
    | with_reducible exact Same.refl _ _ | exact rfl | with_reducible assumption
    | exact fun (e : Nat.testBit _ _ = false) => absurd e (by decide) | with_reducible exact fun _ => rfl | intro _
    | with_reducible apply same_ite | with_reducible apply land_same | with_reducible apply landPipe_same
    | with_reducible apply setXport_same | with_reducible apply put_same | with_reducible apply same_foldl
    | with_reducible apply same_overIdx | simp only [↓same_mk_tag] | with_reducible apply SameMk.intro
    | with_reducible apply same_foldl_fst | with_reducible apply same_foldl_snd | split

theorem openFrame_same {m : Nat} {s0 s : State} {x : Nat} (hm : sub 15728826 m = true) (h : Same m s0 s) :
    Same m s0 (State.openFrame s x) := by
  refine Same.step ?_ hm h
  unfold State.openFrame
  try dsimp only
  repeat' first
    | with_reducible exact Same.refl _ _ | exact rfl | with_reducible assumption
    | exact fun (e : Nat.testBit _ _ = false) => absurd e (by decide) | with_reducible exact fun _ => rfl | intro _
    | with_reducible apply same_ite | with_reducible apply landPort_same | with_reducible apply setXport_same
    | with_reducible apply put_same | with_reducible apply putPair_same | with_reducible apply at__same
    | with_reducible apply free_same | with_reducible apply takeFrame_same | with_reducible apply recordPipe_same
    | with_reducible apply same_foldl | with_reducible apply same_overIdx | simp only [↓same_mk_tag]
    | with_reducible apply SameMk.intro | with_reducible apply same_foldl_fst | with_reducible apply same_foldl_snd
    | split

theorem fvalRise_same {m : Nat} {s0 s : State} {x : Nat} (hm : sub 15728826 m = true) (h : Same m s0 s) :
    Same m s0 (State.fvalRise s x) := by
  refine Same.step ?_ hm h
  unfold State.fvalRise
  try dsimp only
  repeat' first
    | with_reducible exact Same.refl _ _ | exact rfl | with_reducible assumption
    | exact fun (e : Nat.testBit _ _ = false) => absurd e (by decide) | with_reducible exact fun _ => rfl | intro _
    | with_reducible apply same_ite | with_reducible apply openFrame_same | with_reducible apply after_same
    | with_reducible apply setXport_same | with_reducible apply same_foldl | with_reducible apply same_overIdx
    | simp only [↓same_mk_tag] | with_reducible apply SameMk.intro | with_reducible apply same_foldl_fst
    | with_reducible apply same_foldl_snd | split

theorem stray_same {m : Nat} {s0 s : State} {x : Nat} (hm : sub 1048720 m = true) (h : Same m s0 s) :
    Same m s0 (State.stray s x) := by
  refine Same.step ?_ hm h
  unfold State.stray
  try dsimp only
  repeat' first
    | with_reducible exact Same.refl _ _ | exact rfl | with_reducible assumption
    | exact fun (e : Nat.testBit _ _ = false) => absurd e (by decide) | with_reducible exact fun _ => rfl | intro _
    | with_reducible apply same_ite | with_reducible apply bump_same | with_reducible apply setXport_same
    | with_reducible apply same_foldl | with_reducible apply same_overIdx | simp only [↓same_mk_tag]
    | with_reducible apply SameMk.intro | with_reducible apply same_foldl_fst | with_reducible apply same_foldl_snd
    | split

theorem lineBeat_same {m : Nat} {s0 s : State} {x : Nat} {first : Nat} {words : List Nat} {fall : Bool}
    (hm : sub 3408026 m = true) (h : Same m s0 s) :
    Same m s0 (State.lineBeat s x first words fall) := by
  refine Same.step ?_ hm h
  unfold State.lineBeat
  try dsimp only
  repeat' first
    | with_reducible exact Same.refl _ _ | exact rfl | with_reducible assumption
    | exact fun (e : Nat.testBit _ _ = false) => absurd e (by decide) | with_reducible exact fun _ => rfl | intro _
    | with_reducible apply same_ite | with_reducible apply stray_same | with_reducible apply setXport_same
    | with_reducible apply addLine_same | with_reducible apply endFrame_same | with_reducible apply same_foldl
    | with_reducible apply same_overIdx | simp only [↓same_mk_tag] | with_reducible apply SameMk.intro
    | with_reducible apply same_foldl_fst | with_reducible apply same_foldl_snd | split

theorem portClock_same {m : Nat} {s0 s : State} {x : Nat} (hm : sub 3408026 m = true) (h : Same m s0 s) :
    Same m s0 (State.portClock s x) := by
  refine Same.step ?_ hm h
  unfold State.portClock
  try dsimp only
  repeat' first
    | with_reducible exact Same.refl _ _ | exact rfl | with_reducible assumption
    | exact fun (e : Nat.testBit _ _ = false) => absurd e (by decide) | with_reducible exact fun _ => rfl | intro _
    | with_reducible apply same_ite | with_reducible apply closeFrame_same | with_reducible apply forgetDelay_same
    | with_reducible apply setXport_same | with_reducible apply put_same | with_reducible apply sticky_same
    | with_reducible apply same_foldl | with_reducible apply same_overIdx | simp only [↓same_mk_tag]
    | with_reducible apply SameMk.intro | with_reducible apply same_foldl_fst | with_reducible apply same_foldl_snd
    | split

theorem xrecords_same {m : Nat} {s0 s : State} {p : Nat} {x : Nat} {r : PipeFrame} {f : XFrame} {done : Bool}
    (hm : sub 2097154 m = true) (h : Same m s0 s) :
    Same m s0 (State.xrecords s p x r f done) := by
  refine Same.step ?_ hm h
  unfold State.xrecords
  try dsimp only
  repeat' first
    | with_reducible exact Same.refl _ _ | exact rfl | with_reducible assumption
    | exact fun (e : Nat.testBit _ _ = false) => absurd e (by decide) | with_reducible exact fun _ => rfl | intro _
    | with_reducible apply same_ite | with_reducible apply modFrame_same | with_reducible apply scheduleIssues_same
    | with_reducible apply setPipe_same | with_reducible apply at__same | with_reducible apply same_foldl
    | with_reducible apply same_overIdx | simp only [↓same_mk_tag] | with_reducible apply SameMk.intro
    | with_reducible apply same_foldl_fst | with_reducible apply same_foldl_snd | split

theorem xinto_same {m : Nat} {s0 s : State} {x : Nat} {f : XFrame} {done : Bool} {p : Nat} (hm : sub 2883730 m = true)
    (h : Same m s0 s) :
    Same m s0 (State.xinto s x f done p) := by
  refine Same.step ?_ hm h
  unfold State.xinto
  try dsimp only
  repeat' first
    | with_reducible exact Same.refl _ _ | exact rfl | with_reducible assumption
    | exact fun (e : Nat.testBit _ _ = false) => absurd e (by decide) | with_reducible exact fun _ => rfl | intro _
    | with_reducible apply same_ite | with_reducible apply xrecords_same | with_reducible apply overflowDue_same
    | with_reducible apply modFrame_same | with_reducible apply runTaps_same | with_reducible apply countPart_same
    | with_reducible apply rowsMeet_same | with_reducible apply settle_same | with_reducible apply endStopped_same
    | with_reducible apply same_foldl | with_reducible apply same_overIdx | simp only [↓same_mk_tag]
    | with_reducible apply SameMk.intro | with_reducible apply same_foldl_fst | with_reducible apply same_foldl_snd
    | split

theorem releaseLines_same {m : Nat} {s0 s : State} {x : Nat} (hm : sub 3932306 m = true) (h : Same m s0 s) :
    Same m s0 (State.releaseLines s x) := by
  refine Same.step ?_ hm h
  unfold State.releaseLines
  try dsimp only
  repeat' first
    | with_reducible exact Same.refl _ _ | exact rfl | with_reducible assumption
    | exact fun (e : Nat.testBit _ _ = false) => absurd e (by decide) | with_reducible exact fun _ => rfl | intro _
    | with_reducible apply same_ite | with_reducible apply setXport_same | with_reducible apply xinto_same
    | with_reducible apply same_foldl | with_reducible apply same_overIdx | simp only [↓same_mk_tag]
    | with_reducible apply SameMk.intro | with_reducible apply same_foldl_fst | with_reducible apply same_foldl_snd
    | split

theorem modEng_same {m : Nat} {s0 s : State} {e : Nat} {f : Engine → Engine} (hm : sub 134217728 m = true)
    (h : Same m s0 s) :
    Same m s0 (State.modEng s e f) := by
  refine Same.step ?_ hm h
  unfold State.modEng
  try dsimp only
  repeat' first
    | with_reducible exact Same.refl _ _ | exact rfl | with_reducible assumption
    | exact fun (e : Nat.testBit _ _ = false) => absurd e (by decide) | with_reducible exact fun _ => rfl | intro _
    | with_reducible apply same_ite | with_reducible apply same_foldl | with_reducible apply same_overIdx
    | simp only [↓same_mk_tag] | with_reducible apply SameMk.intro | with_reducible apply same_foldl_fst
    | with_reducible apply same_foldl_snd | split

theorem pioNext_same {m : Nat} {s0 s : State} {e : Nat} (hm : sub 2 m = true) (h : Same m s0 s) :
    Same m s0 (State.pioNext s e) := by
  refine Same.step ?_ hm h
  unfold State.pioNext
  try dsimp only
  repeat' first
    | with_reducible exact Same.refl _ _ | exact rfl | with_reducible assumption
    | exact fun (e : Nat.testBit _ _ = false) => absurd e (by decide) | with_reducible exact fun _ => rfl | intro _
    | with_reducible apply same_ite | with_reducible apply at__same | with_reducible apply same_foldl
    | with_reducible apply same_overIdx | simp only [↓same_mk_tag] | with_reducible apply SameMk.intro
    | with_reducible apply same_foldl_fst | with_reducible apply same_foldl_snd | split

theorem readPins_same {m : Nat} {s0 s : State} (hm : sub 8 m = true) (h : Same m s0 s) :
    Same m s0 (State.readPins s).2 := by
  refine Same.step ?_ hm h
  unfold State.readPins
  try dsimp only
  repeat' first
    | with_reducible exact Same.refl _ _ | exact rfl | with_reducible assumption
    | exact fun (e : Nat.testBit _ _ = false) => absurd e (by decide) | with_reducible exact fun _ => rfl | intro _
    | with_reducible apply same_ite | with_reducible apply free_same | with_reducible apply same_foldl
    | with_reducible apply same_overIdx | simp only [↓same_mk_tag] | with_reducible apply SameMk.intro
    | with_reducible apply same_foldl_fst | with_reducible apply same_foldl_snd | split

theorem movePin_same {m : Nat} {s0 s : State} {t : Nat} {n : Nat} (hm : sub 134217728 m = true) (h : Same m s0 s) :
    Same m s0 (State.movePin s t n) := by
  refine Same.step ?_ hm h
  unfold State.movePin
  try dsimp only
  repeat' first
    | with_reducible exact Same.refl _ _ | exact rfl | with_reducible assumption
    | exact fun (e : Nat.testBit _ _ = false) => absurd e (by decide) | with_reducible exact fun _ => rfl | intro _
    | with_reducible apply same_ite | with_reducible apply same_foldl | with_reducible apply same_overIdx
    | simp only [↓same_mk_tag] | with_reducible apply SameMk.intro | with_reducible apply same_foldl_fst
    | with_reducible apply same_foldl_snd | split

theorem writePin_same {m : Nat} {s0 s : State} {e : Nat} {n : Nat} {dir : Bool} {b : Bool}
    (hm : sub 134217728 m = true) (h : Same m s0 s) :
    Same m s0 (State.writePin s e n dir b) := by
  refine Same.step ?_ hm h
  unfold State.writePin
  try dsimp only
  repeat' first
    | with_reducible exact Same.refl _ _ | exact rfl | with_reducible assumption
    | exact fun (e : Nat.testBit _ _ = false) => absurd e (by decide) | with_reducible exact fun _ => rfl | intro _
    | with_reducible apply same_ite | with_reducible apply movePin_same | with_reducible apply same_foldl
    | with_reducible apply same_overIdx | simp only [↓same_mk_tag] | with_reducible apply SameMk.intro
    | with_reducible apply same_foldl_fst | with_reducible apply same_foldl_snd | split

theorem writePins_same {m : Nat} {s0 s : State} {e : Nat} {base : Nat} {n : Nat} {v : Nat} {dir : Bool}
    (hm : sub 134217728 m = true) (h : Same m s0 s) :
    Same m s0 (State.writePins s e base n v dir) := by
  refine Same.step ?_ hm h
  unfold State.writePins
  try dsimp only
  repeat' first
    | with_reducible exact Same.refl _ _ | exact rfl | with_reducible assumption
    | exact fun (e : Nat.testBit _ _ = false) => absurd e (by decide) | with_reducible exact fun _ => rfl | intro _
    | with_reducible apply same_ite | with_reducible apply writePin_same | with_reducible apply same_foldl
    | with_reducible apply same_overIdx | simp only [↓same_mk_tag] | with_reducible apply SameMk.intro
    | with_reducible apply same_foldl_fst | with_reducible apply same_foldl_snd | split

theorem drivePins_same {m : Nat} {s0 s : State} {e : Nat} {v : Nat} {dir : Bool} (hm : sub 134217728 m = true)
    (h : Same m s0 s) :
    Same m s0 (State.drivePins s e v dir) := by
  refine Same.step ?_ hm h
  unfold State.drivePins
  try dsimp only
  repeat' first
    | with_reducible exact Same.refl _ _ | exact rfl | with_reducible assumption
    | exact fun (e : Nat.testBit _ _ = false) => absurd e (by decide) | with_reducible exact fun _ => rfl | intro _
    | with_reducible apply same_ite | with_reducible apply writePins_same | with_reducible apply same_foldl
    | with_reducible apply same_overIdx | simp only [↓same_mk_tag] | with_reducible apply SameMk.intro
    | with_reducible apply same_foldl_fst | with_reducible apply same_foldl_snd | split

theorem pioErr_same {m : Nat} {s0 s : State} {e : Nat} {i : Nat} (hm : sub 262290 m = true) (h : Same m s0 s) :
    Same m s0 (State.pioErr s e i) := by
  refine Same.step ?_ hm h
  unfold State.pioErr
  try dsimp only
  repeat' first
    | with_reducible exact Same.refl _ _ | exact rfl | with_reducible assumption
    | exact fun (e : Nat.testBit _ _ = false) => absurd e (by decide) | with_reducible exact fun _ => rfl | intro _
    | with_reducible apply same_ite | with_reducible apply sticky_same | with_reducible apply same_foldl
    | with_reducible apply same_overIdx | simp only [↓same_mk_tag] | with_reducible apply SameMk.intro
    | with_reducible apply same_foldl_fst | with_reducible apply same_foldl_snd | split

theorem pioUnder_same {m : Nat} {s0 s : State} {e : Nat} {i : Nat} (hm : sub 262290 m = true) (h : Same m s0 s) :
    Same m s0 (State.pioUnder s e i) := by
  refine Same.step ?_ hm h
  unfold State.pioUnder
  try dsimp only
  repeat' first
    | with_reducible exact Same.refl _ _ | exact rfl | with_reducible assumption
    | exact fun (e : Nat.testBit _ _ = false) => absurd e (by decide) | with_reducible exact fun _ => rfl | intro _
    | with_reducible apply same_ite | with_reducible apply pioErr_same | with_reducible apply bump_same
    | with_reducible apply same_foldl | with_reducible apply same_overIdx | simp only [↓same_mk_tag]
    | with_reducible apply SameMk.intro | with_reducible apply same_foldl_fst | with_reducible apply same_foldl_snd
    | split

theorem pioOver_same {m : Nat} {s0 s : State} {e : Nat} {i : Nat} (hm : sub 262290 m = true) (h : Same m s0 s) :
    Same m s0 (State.pioOver s e i) := by
  refine Same.step ?_ hm h
  unfold State.pioOver
  try dsimp only
  repeat' first
    | with_reducible exact Same.refl _ _ | exact rfl | with_reducible assumption
    | exact fun (e : Nat.testBit _ _ = false) => absurd e (by decide) | with_reducible exact fun _ => rfl | intro _
    | with_reducible apply same_ite | with_reducible apply pioErr_same | with_reducible apply bump_same
    | with_reducible apply same_foldl | with_reducible apply same_overIdx | simp only [↓same_mk_tag]
    | with_reducible apply SameMk.intro | with_reducible apply same_foldl_fst | with_reducible apply same_foldl_snd
    | split

theorem settlePops_same {m : Nat} {s0 s : State} {e : Nat} (hm : sub 134217728 m = true) (h : Same m s0 s) :
    Same m s0 (State.settlePops s e) := by
  refine Same.step ?_ hm h
  unfold State.settlePops
  try dsimp only
  repeat' first
    | with_reducible exact Same.refl _ _ | exact rfl | with_reducible assumption
    | exact fun (e : Nat.testBit _ _ = false) => absurd e (by decide) | with_reducible exact fun _ => rfl | intro _
    | with_reducible apply same_ite | with_reducible apply modEng_same | with_reducible apply same_foldl
    | with_reducible apply same_overIdx | simp only [↓same_mk_tag] | with_reducible apply SameMk.intro
    | with_reducible apply same_foldl_fst | with_reducible apply same_foldl_snd | split

theorem pioBegin_same {m : Nat} {s0 s : State} {e : Nat} (hm : sub 134217728 m = true) (h : Same m s0 s) :
    Same m s0 (State.pioBegin s e) := by
  refine Same.step ?_ hm h
  unfold State.pioBegin
  try dsimp only
  repeat' first
    | with_reducible exact Same.refl _ _ | exact rfl | with_reducible assumption
    | exact fun (e : Nat.testBit _ _ = false) => absurd e (by decide) | with_reducible exact fun _ => rfl | intro _
    | with_reducible apply same_ite | with_reducible apply modEng_same | with_reducible apply movePin_same
    | with_reducible apply same_foldl | with_reducible apply same_overIdx | simp only [↓same_mk_tag]
    | with_reducible apply SameMk.intro | with_reducible apply same_foldl_fst | with_reducible apply same_foldl_snd
    | split

theorem pioDone_same {m : Nat} {s0 s : State} {e : Nat} {next : Nat} (hm : sub 134217730 m = true) (h : Same m s0 s) :
    Same m s0 (State.pioDone s e next) := by
  refine Same.step ?_ hm h
  unfold State.pioDone
  try dsimp only
  repeat' first
    | with_reducible exact Same.refl _ _ | exact rfl | with_reducible assumption
    | exact fun (e : Nat.testBit _ _ = false) => absurd e (by decide) | with_reducible exact fun _ => rfl | intro _
    | with_reducible apply same_ite | with_reducible apply modEng_same | with_reducible apply pioNext_same
    | with_reducible apply at__same | with_reducible apply same_foldl | with_reducible apply same_overIdx
    | simp only [↓same_mk_tag] | with_reducible apply SameMk.intro | with_reducible apply same_foldl_fst
    | with_reducible apply same_foldl_snd | split

theorem pioStall_same {m : Nat} {s0 s : State} {e : Nat} (hm : sub 134217730 m = true) (h : Same m s0 s) :
    Same m s0 (State.pioStall s e) := by
  refine Same.step ?_ hm h
  unfold State.pioStall
  try dsimp only
  repeat' first
    | with_reducible exact Same.refl _ _ | exact rfl | with_reducible assumption
    | exact fun (e : Nat.testBit _ _ = false) => absurd e (by decide) | with_reducible exact fun _ => rfl | intro _
    | with_reducible apply same_ite | with_reducible apply pioNext_same | with_reducible apply modEng_same
    | with_reducible apply same_foldl | with_reducible apply same_overIdx | simp only [↓same_mk_tag]
    | with_reducible apply SameMk.intro | with_reducible apply same_foldl_fst | with_reducible apply same_foldl_snd
    | split

theorem pioExec_same {m : Nat} {s : State} {e : Nat} {row : Instr} {f : Nat → State → State}
    (hm : sub 134217728 m = true) (h_f : ∀ w t, Same m t (f w t)) : Same m s (State.pioExec s e row f) := by
  unfold State.pioExec
  dsimp only
  refine same_ite ?_ (Same.refl _ _)
  refine Same.trans ?_ (h_f _ _)
  exact settlePops_same (sub_sub (by decide) hm) (pioBegin_same (sub_sub (by decide) hm) (Same.refl _ _))

theorem pioGoto_same {m : Nat} {s0 s : State} {e : Nat} {w : Nat} (hm : sub 134217730 m = true) (h : Same m s0 s) :
    Same m s0 (State.pioGoto s e w) := by
  refine Same.step ?_ hm h
  unfold State.pioGoto
  try dsimp only
  repeat' first
    | with_reducible exact Same.refl _ _ | exact rfl | with_reducible assumption
    | exact fun (e : Nat.testBit _ _ = false) => absurd e (by decide) | with_reducible exact fun _ => rfl | intro _
    | with_reducible apply same_ite | with_reducible apply pioDone_same | with_reducible apply same_foldl
    | with_reducible apply same_overIdx | simp only [↓same_mk_tag] | with_reducible apply SameMk.intro
    | with_reducible apply same_foldl_fst | with_reducible apply same_foldl_snd | split

theorem pioCount_same {m : Nat} {s0 s : State} {e : Nat} {w : Nat} (hm : sub 134217730 m = true) (h : Same m s0 s) :
    Same m s0 (State.pioCount s e w) := by
  refine Same.step ?_ hm h
  unfold State.pioCount
  try dsimp only
  repeat' first
    | with_reducible exact Same.refl _ _ | exact rfl | with_reducible assumption
    | exact fun (e : Nat.testBit _ _ = false) => absurd e (by decide) | with_reducible exact fun _ => rfl | intro _
    | with_reducible apply same_ite | with_reducible apply pioDone_same | with_reducible apply modEng_same
    | with_reducible apply same_foldl | with_reducible apply same_overIdx | simp only [↓same_mk_tag]
    | with_reducible apply SameMk.intro | with_reducible apply same_foldl_fst | with_reducible apply same_foldl_snd
    | split

theorem pioCond_same {m : Nat} {s0 s : State} {e : Nat} {w : Nat} (hm : sub 8 m = true) (h : Same m s0 s) :
    Same m s0 (State.pioCond s e w).2 := by
  refine Same.step ?_ hm h
  unfold State.pioCond
  try dsimp only
  repeat' first
    | with_reducible exact Same.refl _ _ | exact rfl | with_reducible assumption
    | exact fun (e : Nat.testBit _ _ = false) => absurd e (by decide) | with_reducible exact fun _ => rfl | intro _
    | with_reducible apply same_ite | with_reducible apply readPins_same | with_reducible apply same_foldl
    | with_reducible apply same_overIdx | simp only [↓same_mk_tag] | with_reducible apply SameMk.intro
    | with_reducible apply same_foldl_fst | with_reducible apply same_foldl_snd | split

theorem pioBranch_same {m : Nat} {s0 s : State} {e : Nat} {w : Nat} {want : Bool} (hm : sub 134217738 m = true)
    (h : Same m s0 s) :
    Same m s0 (State.pioBranch s e w want) := by
  refine Same.step ?_ hm h
  unfold State.pioBranch
  try dsimp only
  repeat' first
    | with_reducible exact Same.refl _ _ | exact rfl | with_reducible assumption
    | exact fun (e : Nat.testBit _ _ = false) => absurd e (by decide) | with_reducible exact fun _ => rfl | intro _
    | with_reducible apply same_ite | with_reducible apply pioCond_same | with_reducible apply pioDone_same
    | with_reducible apply same_foldl | with_reducible apply same_overIdx | simp only [↓same_mk_tag]
    | with_reducible apply SameMk.intro | with_reducible apply same_foldl_fst | with_reducible apply same_foldl_snd
    | split

theorem pioAwaits_same {m : Nat} {s0 s : State} {e : Nat} {w : Nat} (hm : sub 8 m = true) (h : Same m s0 s) :
    Same m s0 (State.pioAwaits s e w).2 := by
  refine Same.step ?_ hm h
  unfold State.pioAwaits
  try dsimp only
  repeat' first
    | with_reducible exact Same.refl _ _ | exact rfl | with_reducible assumption
    | exact fun (e : Nat.testBit _ _ = false) => absurd e (by decide) | with_reducible exact fun _ => rfl | intro _
    | with_reducible apply same_ite | with_reducible apply readPins_same | with_reducible apply same_foldl
    | with_reducible apply same_overIdx | simp only [↓same_mk_tag] | with_reducible apply SameMk.intro
    | with_reducible apply same_foldl_fst | with_reducible apply same_foldl_snd | split

theorem pioAwait_same {m : Nat} {s0 s : State} {e : Nat} {w : Nat} (hm : sub 134217738 m = true) (h : Same m s0 s) :
    Same m s0 (State.pioAwait s e w) := by
  refine Same.step ?_ hm h
  unfold State.pioAwait
  try dsimp only
  repeat' first
    | with_reducible exact Same.refl _ _ | exact rfl | with_reducible assumption
    | exact fun (e : Nat.testBit _ _ = false) => absurd e (by decide) | with_reducible exact fun _ => rfl | intro _
    | with_reducible apply same_ite | with_reducible apply pioAwaits_same | with_reducible apply pioDone_same
    | with_reducible apply pioStall_same | with_reducible apply same_foldl | with_reducible apply same_overIdx
    | simp only [↓same_mk_tag] | with_reducible apply SameMk.intro | with_reducible apply same_foldl_fst
    | with_reducible apply same_foldl_snd | split

theorem pioShin_same {m : Nat} {s0 s : State} {e : Nat} {w : Nat} (hm : sub 134217738 m = true) (h : Same m s0 s) :
    Same m s0 (State.pioShin s e w) := by
  refine Same.step ?_ hm h
  unfold State.pioShin
  try dsimp only
  repeat' first
    | with_reducible exact Same.refl _ _ | exact rfl | with_reducible assumption
    | exact fun (e : Nat.testBit _ _ = false) => absurd e (by decide) | with_reducible exact fun _ => rfl | intro _
    | with_reducible apply same_ite | with_reducible apply readPins_same | with_reducible apply pioDone_same
    | with_reducible apply modEng_same | with_reducible apply same_foldl | with_reducible apply same_overIdx
    | simp only [↓same_mk_tag] | with_reducible apply SameMk.intro | with_reducible apply same_foldl_fst
    | with_reducible apply same_foldl_snd | split

theorem pioShout_same {m : Nat} {s0 s : State} {e : Nat} {w : Nat} (hm : sub 134217730 m = true) (h : Same m s0 s) :
    Same m s0 (State.pioShout s e w) := by
  refine Same.step ?_ hm h
  unfold State.pioShout
  try dsimp only
  repeat' first
    | with_reducible exact Same.refl _ _ | exact rfl | with_reducible assumption
    | exact fun (e : Nat.testBit _ _ = false) => absurd e (by decide) | with_reducible exact fun _ => rfl | intro _
    | with_reducible apply same_ite | with_reducible apply pioDone_same | with_reducible apply modEng_same
    | with_reducible apply drivePins_same | with_reducible apply same_foldl | with_reducible apply same_overIdx
    | simp only [↓same_mk_tag] | with_reducible apply SameMk.intro | with_reducible apply same_foldl_fst
    | with_reducible apply same_foldl_snd | split

theorem pioDeposit_same {m : Nat} {s0 s : State} {e : Nat} {w : Nat} (hm : sub 134480018 m = true) (h : Same m s0 s) :
    Same m s0 (State.pioDeposit s e w) := by
  refine Same.step ?_ hm h
  unfold State.pioDeposit
  try dsimp only
  repeat' first
    | with_reducible exact Same.refl _ _ | exact rfl | with_reducible assumption
    | exact fun (e : Nat.testBit _ _ = false) => absurd e (by decide) | with_reducible exact fun _ => rfl | intro _
    | with_reducible apply same_ite | with_reducible apply modEng_same | with_reducible apply pioDone_same
    | with_reducible apply pioStall_same | with_reducible apply pioOver_same | with_reducible apply same_foldl
    | with_reducible apply same_overIdx | simp only [↓same_mk_tag] | with_reducible apply SameMk.intro
    | with_reducible apply same_foldl_fst | with_reducible apply same_foldl_snd | split

theorem pioFetch_same {m : Nat} {s0 s : State} {e : Nat} {w : Nat} (hm : sub 134480018 m = true) (h : Same m s0 s) :
    Same m s0 (State.pioFetch s e w) := by
  refine Same.step ?_ hm h
  unfold State.pioFetch
  try dsimp only
  repeat' first
    | with_reducible exact Same.refl _ _ | exact rfl | with_reducible assumption
    | exact fun (e : Nat.testBit _ _ = false) => absurd e (by decide) | with_reducible exact fun _ => rfl | intro _
    | with_reducible apply same_ite | with_reducible apply modEng_same | with_reducible apply pioDone_same
    | with_reducible apply pioStall_same | with_reducible apply pioUnder_same | with_reducible apply same_foldl
    | with_reducible apply same_overIdx | simp only [↓same_mk_tag] | with_reducible apply SameMk.intro
    | with_reducible apply same_foldl_fst | with_reducible apply same_foldl_snd | split

theorem pioSource_same {m : Nat} {s0 s : State} {e : Nat} {code : Nat} (hm : sub 8 m = true) (h : Same m s0 s) :
    Same m s0 (State.pioSource s e code).2 := by
  refine Same.step ?_ hm h
  unfold State.pioSource
  try dsimp only
  repeat' first
    | with_reducible exact Same.refl _ _ | exact rfl | with_reducible assumption
    | exact fun (e : Nat.testBit _ _ = false) => absurd e (by decide) | with_reducible exact fun _ => rfl | intro _
    | with_reducible apply same_ite | with_reducible apply readPins_same | with_reducible apply same_foldl
    | with_reducible apply same_overIdx | simp only [↓same_mk_tag] | with_reducible apply SameMk.intro
    | with_reducible apply same_foldl_fst | with_reducible apply same_foldl_snd | split

theorem pioCopy_same {m : Nat} {s0 s : State} {e : Nat} {w : Nat} (hm : sub 134217754 m = true) (h : Same m s0 s) :
    Same m s0 (State.pioCopy s e w) := by
  refine Same.step ?_ hm h
  unfold State.pioCopy
  try dsimp only
  repeat' first
    | with_reducible exact Same.refl _ _ | exact rfl | with_reducible assumption
    | exact fun (e : Nat.testBit _ _ = false) => absurd e (by decide) | with_reducible exact fun _ => rfl | intro _
    | with_reducible apply same_ite | with_reducible apply pioSource_same | with_reducible apply pioDone_same
    | with_reducible apply drivePins_same | with_reducible apply modEng_same | with_reducible apply put_same
    | with_reducible apply same_foldl | with_reducible apply same_overIdx | simp only [↓same_mk_tag]
    | with_reducible apply SameMk.intro | with_reducible apply same_foldl_fst | with_reducible apply same_foldl_snd
    | split

theorem pioPut_same {m : Nat} {s0 s : State} {e : Nat} {w : Nat} (hm : sub 134217730 m = true) (h : Same m s0 s) :
    Same m s0 (State.pioPut s e w) := by
  refine Same.step ?_ hm h
  unfold State.pioPut
  try dsimp only
  repeat' first
    | with_reducible exact Same.refl _ _ | exact rfl | with_reducible assumption
    | exact fun (e : Nat.testBit _ _ = false) => absurd e (by decide) | with_reducible exact fun _ => rfl | intro _
    | with_reducible apply same_ite | with_reducible apply pioDone_same | with_reducible apply writePins_same
    | with_reducible apply modEng_same | with_reducible apply same_foldl | with_reducible apply same_overIdx
    | simp only [↓same_mk_tag] | with_reducible apply SameMk.intro | with_reducible apply same_foldl_fst
    | with_reducible apply same_foldl_snd | split

theorem writeFlags_same {m : Nat} {s0 s : State} {t : Nat} {set : Bool} {mask : Nat} (hm : sub 134217728 m = true)
    (h : Same m s0 s) :
    Same m s0 (State.writeFlags s t set mask) := by
  refine Same.step ?_ hm h
  unfold State.writeFlags
  try dsimp only
  repeat' first
    | with_reducible exact Same.refl _ _ | exact rfl | with_reducible assumption
    | exact fun (e : Nat.testBit _ _ = false) => absurd e (by decide) | with_reducible exact fun _ => rfl | intro _
    | with_reducible apply same_ite | with_reducible apply same_foldl | with_reducible apply same_overIdx
    | simp only [↓same_mk_tag] | with_reducible apply SameMk.intro | with_reducible apply same_foldl_fst
    | with_reducible apply same_foldl_snd | split

theorem pioSignal_same {m : Nat} {s0 s : State} {e : Nat} {w : Nat} {set : Bool} (hm : sub 134217730 m = true)
    (h : Same m s0 s) :
    Same m s0 (State.pioSignal s e w set) := by
  refine Same.step ?_ hm h
  unfold State.pioSignal
  try dsimp only
  repeat' first
    | with_reducible exact Same.refl _ _ | exact rfl | with_reducible assumption
    | exact fun (e : Nat.testBit _ _ = false) => absurd e (by decide) | with_reducible exact fun _ => rfl | intro _
    | with_reducible apply same_ite | with_reducible apply writeFlags_same | with_reducible apply pioDone_same
    | with_reducible apply same_foldl | with_reducible apply same_overIdx | simp only [↓same_mk_tag]
    | with_reducible apply SameMk.intro | with_reducible apply same_foldl_fst | with_reducible apply same_foldl_snd
    | split

theorem pioBad_same {m : Nat} {s0 s : State} {e : Nat} (hm : sub 134480018 m = true) (h : Same m s0 s) :
    Same m s0 (State.pioBad s e) := by
  refine Same.step ?_ hm h
  unfold State.pioBad
  try dsimp only
  repeat' first
    | with_reducible exact Same.refl _ _ | exact rfl | with_reducible assumption
    | exact fun (e : Nat.testBit _ _ = false) => absurd e (by decide) | with_reducible exact fun _ => rfl | intro _
    | with_reducible apply same_ite | with_reducible apply pioErr_same | with_reducible apply pioDone_same
    | with_reducible apply same_foldl | with_reducible apply same_overIdx | simp only [↓same_mk_tag]
    | with_reducible apply SameMk.intro | with_reducible apply same_foldl_fst | with_reducible apply same_foldl_snd
    | split

theorem pioHoldEnd_same {m : Nat} {s0 s : State} {e : Nat} (hm : sub 134217730 m = true) (h : Same m s0 s) :
    Same m s0 (State.pioHoldEnd s e) := by
  refine Same.step ?_ hm h
  unfold State.pioHoldEnd
  try dsimp only
  repeat' first
    | with_reducible exact Same.refl _ _ | exact rfl | with_reducible assumption
    | exact fun (e : Nat.testBit _ _ = false) => absurd e (by decide) | with_reducible exact fun _ => rfl | intro _
    | with_reducible apply same_ite | with_reducible apply pioNext_same | with_reducible apply modEng_same
    | with_reducible apply same_foldl | with_reducible apply same_overIdx | simp only [↓same_mk_tag]
    | with_reducible apply SameMk.intro | with_reducible apply same_foldl_fst | with_reducible apply same_foldl_snd
    | split

theorem pioEdge_same {m : Nat} {s0 s : State} {e : Nat} (hm : sub 134480026 m = true) (h : Same m s0 s) :
    Same m s0 (State.pioEdge s e) := by
  refine Same.step ?_ hm h
  unfold State.pioEdge
  try dsimp only
  repeat' first
    | with_reducible exact Same.refl _ _ | exact rfl | with_reducible assumption
    | exact fun (e : Nat.testBit _ _ = false) => absurd e (by decide) | with_reducible exact fun _ => rfl | intro _
    | with_reducible apply same_ite | (with_reducible apply pioExec_same (by decide))
    | with_reducible apply pioBad_same | with_reducible apply pioGoto_same | with_reducible apply pioCount_same
    | with_reducible apply pioBranch_same | with_reducible apply pioAwait_same | with_reducible apply pioShin_same
    | with_reducible apply pioShout_same | with_reducible apply pioDeposit_same | with_reducible apply pioFetch_same
    | with_reducible apply pioCopy_same | with_reducible apply pioPut_same | with_reducible apply pioSignal_same
    | with_reducible apply same_foldl | with_reducible apply same_overIdx | simp only [↓same_mk_tag]
    | with_reducible apply SameMk.intro | with_reducible apply same_foldl_fst | with_reducible apply same_foldl_snd
    | split

theorem pioStart_same {m : Nat} {s0 s : State} {e : Nat} (hm : sub 134217874 m = true) (h : Same m s0 s) :
    Same m s0 (State.pioStart s e) := by
  refine Same.step ?_ hm h
  unfold State.pioStart
  try dsimp only
  repeat' first
    | with_reducible exact Same.refl _ _ | exact rfl | with_reducible assumption
    | exact fun (e : Nat.testBit _ _ = false) => absurd e (by decide) | with_reducible exact fun _ => rfl | intro _
    | with_reducible apply same_ite | with_reducible apply modEng_same | with_reducible apply pioNext_same
    | with_reducible apply setBit_same | with_reducible apply same_foldl | with_reducible apply same_overIdx
    | simp only [↓same_mk_tag] | with_reducible apply SameMk.intro | with_reducible apply same_foldl_fst
    | with_reducible apply same_foldl_snd | split

theorem pioStopAt_same {m : Nat} {s0 s : State} {w : Nat} {e : Nat} (hm : sub 134217746 m = true) (h : Same m s0 s) :
    Same m s0 (State.pioStopAt s w e) := by
  refine Same.step ?_ hm h
  unfold State.pioStopAt
  try dsimp only
  repeat' first
    | with_reducible exact Same.refl _ _ | exact rfl | with_reducible assumption
    | exact fun (e : Nat.testBit _ _ = false) => absurd e (by decide) | with_reducible exact fun _ => rfl | intro _
    | with_reducible apply same_ite | with_reducible apply withdraw_same | with_reducible apply modEng_same
    | with_reducible apply put_same | with_reducible apply clearBit_same | with_reducible apply movePin_same
    | with_reducible apply same_foldl | with_reducible apply same_overIdx | simp only [↓same_mk_tag]
    | with_reducible apply SameMk.intro | with_reducible apply same_foldl_fst | with_reducible apply same_foldl_snd
    | split

theorem pioStopOne_same {m : Nat} {s0 s : State} {e : Nat} (hm : sub 134480026 m = true) (h : Same m s0 s) :
    Same m s0 (State.pioStopOne s e) := by
  refine Same.step ?_ hm h
  unfold State.pioStopOne
  try dsimp only
  repeat' first
    | with_reducible exact Same.refl _ _ | exact rfl | with_reducible assumption
    | exact fun (e : Nat.testBit _ _ = false) => absurd e (by decide) | with_reducible exact fun _ => rfl | intro _
    | with_reducible apply same_ite | with_reducible apply pioStopAt_same | with_reducible apply pioEdge_same
    | with_reducible apply same_foldl | with_reducible apply same_overIdx | simp only [↓same_mk_tag]
    | with_reducible apply SameMk.intro | with_reducible apply same_foldl_fst | with_reducible apply same_foldl_snd
    | split

theorem pioStopAll_same {m : Nat} {s0 s : State} {w : Nat} (hm : sub 134217746 m = true) (h : Same m s0 s) :
    Same m s0 (State.pioStopAll s w) := by
  refine Same.step ?_ hm h
  unfold State.pioStopAll
  try dsimp only
  repeat' first
    | with_reducible exact Same.refl _ _ | exact rfl | with_reducible assumption
    | exact fun (e : Nat.testBit _ _ = false) => absurd e (by decide) | with_reducible exact fun _ => rfl | intro _
    | with_reducible apply same_ite | with_reducible apply pioStopAt_same | with_reducible apply same_foldl
    | with_reducible apply same_overIdx | simp only [↓same_mk_tag] | with_reducible apply SameMk.intro
    | with_reducible apply same_foldl_fst | with_reducible apply same_foldl_snd | split

theorem pioPush_same {m : Nat} {s0 s : State} {e : Nat} {data : Nat} (hm : sub 134480018 m = true) (h : Same m s0 s) :
    Same m s0 (State.pioPush s e data) := by
  refine Same.step ?_ hm h
  unfold State.pioPush
  try dsimp only
  repeat' first
    | with_reducible exact Same.refl _ _ | exact rfl | with_reducible assumption
    | exact fun (e : Nat.testBit _ _ = false) => absurd e (by decide) | with_reducible exact fun _ => rfl | intro _
    | with_reducible apply same_ite | with_reducible apply modEng_same | with_reducible apply pioOver_same
    | with_reducible apply same_foldl | with_reducible apply same_overIdx | simp only [↓same_mk_tag]
    | with_reducible apply SameMk.intro | with_reducible apply same_foldl_fst | with_reducible apply same_foldl_snd
    | split

theorem pioPop_same {m : Nat} {s0 s : State} {e : Nat} (hm : sub 134480018 m = true) (h : Same m s0 s) :
    Same m s0 (State.pioPop s e) := by
  refine Same.step ?_ hm h
  unfold State.pioPop
  try dsimp only
  repeat' first
    | with_reducible exact Same.refl _ _ | exact rfl | with_reducible assumption
    | exact fun (e : Nat.testBit _ _ = false) => absurd e (by decide) | with_reducible exact fun _ => rfl | intro _
    | with_reducible apply same_ite | with_reducible apply settlePops_same | with_reducible apply modEng_same
    | with_reducible apply pioUnder_same | with_reducible apply same_foldl | with_reducible apply same_overIdx
    | simp only [↓same_mk_tag] | with_reducible apply SameMk.intro | with_reducible apply same_foldl_fst
    | with_reducible apply same_foldl_snd | split

theorem pioQueues_same {m : Nat} {s0 s : State} {e : Nat} (hm : sub 134217728 m = true) (h : Same m s0 s) :
    Same m s0 (State.pioQueues s e) := by
  refine Same.step ?_ hm h
  unfold State.pioQueues
  try dsimp only
  repeat' first
    | with_reducible exact Same.refl _ _ | exact rfl | with_reducible assumption
    | exact fun (e : Nat.testBit _ _ = false) => absurd e (by decide) | with_reducible exact fun _ => rfl | intro _
    | with_reducible apply same_ite | with_reducible apply modEng_same | with_reducible apply settlePops_same
    | with_reducible apply same_foldl | with_reducible apply same_overIdx | simp only [↓same_mk_tag]
    | with_reducible apply SameMk.intro | with_reducible apply same_foldl_fst | with_reducible apply same_foldl_snd
    | split

theorem pioClear_same {m : Nat} {s0 s : State} {e : Nat} (hm : sub 134217872 m = true) (h : Same m s0 s) :
    Same m s0 (State.pioClear s e) := by
  refine Same.step ?_ hm h
  unfold State.pioClear
  try dsimp only
  repeat' first
    | with_reducible exact Same.refl _ _ | exact rfl | with_reducible assumption
    | exact fun (e : Nat.testBit _ _ = false) => absurd e (by decide) | with_reducible exact fun _ => rfl | intro _
    | with_reducible apply same_ite | with_reducible apply refuse_same | with_reducible apply modEng_same
    | with_reducible apply same_foldl | with_reducible apply same_overIdx | simp only [↓same_mk_tag]
    | with_reducible apply SameMk.intro | with_reducible apply same_foldl_fst | with_reducible apply same_foldl_snd
    | split

theorem pioPinEdge_same {m : Nat} {s0 s : State} {n : Nat} {rising : Bool} (hm : sub 134217728 m = true)
    (h : Same m s0 s) :
    Same m s0 (State.pioPinEdge s n rising) := by
  refine Same.step ?_ hm h
  unfold State.pioPinEdge
  try dsimp only
  repeat' first
    | with_reducible exact Same.refl _ _ | exact rfl | with_reducible assumption
    | exact fun (e : Nat.testBit _ _ = false) => absurd e (by decide) | with_reducible exact fun _ => rfl | intro _
    | with_reducible apply same_ite | with_reducible apply same_foldl | with_reducible apply same_overIdx
    | simp only [↓same_mk_tag] | with_reducible apply SameMk.intro | with_reducible apply same_foldl_fst
    | with_reducible apply same_foldl_snd | split

theorem settleFlags_same {m : Nat} {s0 s : State} (hm : sub 149360818 m = true) (h : Same m s0 s) :
    Same m s0 (State.settleFlags s) := by
  refine Same.step ?_ hm h
  unfold State.settleFlags
  try dsimp only
  repeat' first
    | with_reducible exact Same.refl _ _ | exact rfl | with_reducible assumption
    | exact fun (e : Nat.testBit _ _ = false) => absurd e (by decide) | with_reducible exact fun _ => rfl | intro _
    | with_reducible apply same_ite | with_reducible apply strobeFlag_same | with_reducible apply trigger_same
    | with_reducible apply same_foldl | with_reducible apply same_overIdx | simp only [↓same_mk_tag]
    | with_reducible apply SameMk.intro | with_reducible apply same_foldl_fst | with_reducible apply same_foldl_snd
    | split

theorem settlePins_same {m : Nat} {s0 s : State} (hm : sub 134217728 m = true) (h : Same m s0 s) :
    Same m s0 (State.settlePins s) := by
  refine Same.step ?_ hm h
  unfold State.settlePins
  try dsimp only
  repeat' first
    | with_reducible exact Same.refl _ _ | exact rfl | with_reducible assumption
    | exact fun (e : Nat.testBit _ _ = false) => absurd e (by decide) | with_reducible exact fun _ => rfl | intro _
    | with_reducible apply same_ite | with_reducible apply same_foldl | with_reducible apply same_overIdx
    | simp only [↓same_mk_tag] | with_reducible apply SameMk.intro | with_reducible apply same_foldl_fst
    | with_reducible apply same_foldl_snd | split

theorem settlePio_same {m : Nat} {s0 s : State} (hm : sub 149360818 m = true) (h : Same m s0 s) :
    Same m s0 (State.settlePio s) := by
  refine Same.step ?_ hm h
  unfold State.settlePio
  try dsimp only
  repeat' first
    | with_reducible exact Same.refl _ _ | exact rfl | with_reducible assumption
    | exact fun (e : Nat.testBit _ _ = false) => absurd e (by decide) | with_reducible exact fun _ => rfl | intro _
    | with_reducible apply same_ite | with_reducible apply settleFlags_same | with_reducible apply settlePins_same
    | with_reducible apply same_foldl | with_reducible apply same_overIdx | simp only [↓same_mk_tag]
    | with_reducible apply SameMk.intro | with_reducible apply same_foldl_fst | with_reducible apply same_foldl_snd
    | split

theorem dispatchSoon_same {m : Nat} {s0 s : State} {u : Nat} (hm : sub 2 m = true) (h : Same m s0 s) :
    Same m s0 (State.dispatchSoon s u) := by
  refine Same.step ?_ hm h
  unfold State.dispatchSoon
  try dsimp only
  repeat' first
    | with_reducible exact Same.refl _ _ | exact rfl | with_reducible assumption
    | exact fun (e : Nat.testBit _ _ = false) => absurd e (by decide) | with_reducible exact fun _ => rfl | intro _
    | with_reducible apply same_ite | with_reducible apply at__same | with_reducible apply same_foldl
    | with_reducible apply same_overIdx | simp only [↓same_mk_tag] | with_reducible apply SameMk.intro
    | with_reducible apply same_foldl_fst | with_reducible apply same_foldl_snd | split

theorem dispatchAll_same {m : Nat} {s0 s : State} (hm : sub 2 m = true) (h : Same m s0 s) :
    Same m s0 (State.dispatchAll s) := by
  refine Same.step ?_ hm h
  unfold State.dispatchAll
  try dsimp only
  repeat' first
    | with_reducible exact Same.refl _ _ | exact rfl | with_reducible assumption
    | exact fun (e : Nat.testBit _ _ = false) => absurd e (by decide) | with_reducible exact fun _ => rfl | intro _
    | with_reducible apply same_ite | with_reducible apply dispatchSoon_same | with_reducible apply same_foldl
    | with_reducible apply same_overIdx | simp only [↓same_mk_tag] | with_reducible apply SameMk.intro
    | with_reducible apply same_foldl_fst | with_reducible apply same_foldl_snd | split

theorem endTask_same {m : Nat} {s0 s : State} {u : Nat} {status : Nat} {result : List Nat}
    (hm : sub 268697746 m = true) (h : Same m s0 s) :
    Same m s0 (State.endTask s u status result) := by
  refine Same.step ?_ hm h
  unfold State.endTask
  try dsimp only
  repeat' first
    | with_reducible exact Same.refl _ _ | exact rfl | with_reducible assumption
    | exact fun (e : Nat.testBit _ _ = false) => absurd e (by decide) | with_reducible exact fun _ => rfl | intro _
    | with_reducible apply same_ite | with_reducible apply modSlot_same | with_reducible apply withdraw_same
    | with_reducible apply bump_same | with_reducible apply dispatchSoon_same | with_reducible apply finish_same
    | with_reducible apply same_foldl | with_reducible apply same_overIdx | simp only [↓same_mk_tag]
    | with_reducible apply SameMk.intro | with_reducible apply same_foldl_fst | with_reducible apply same_foldl_snd
    | split

theorem wearUp_same {m : Nat} {s0 s : State} {b : Nat} (hm : sub 8590196882 m = true) (h : Same m s0 s) :
    Same m s0 (State.wearUp s b) := by
  refine Same.step ?_ hm h
  unfold State.wearUp
  try dsimp only
  repeat' first
    | with_reducible exact Same.refl _ _ | exact rfl | with_reducible assumption
    | exact fun (e : Nat.testBit _ _ = false) => absurd e (by decide) | with_reducible exact fun _ => rfl | intro _
    | with_reducible apply same_ite | with_reducible apply notice_same | with_reducible apply same_foldl
    | with_reducible apply same_overIdx | simp only [↓same_mk_tag] | with_reducible apply SameMk.intro
    | with_reducible apply same_foldl_fst | with_reducible apply same_foldl_snd | split

theorem blockIs_same {m : Nat} {s0 s : State} {b : Nat} {bs : List Byte} (hm : sub 6442450944 m = true)
    (h : Same m s0 s) :
    Same m s0 (State.blockIs s b bs) := by
  refine Same.step ?_ hm h
  unfold State.blockIs
  try dsimp only
  repeat' first
    | with_reducible exact Same.refl _ _ | exact rfl | with_reducible assumption
    | exact fun (e : Nat.testBit _ _ = false) => absurd e (by decide) | with_reducible exact fun _ => rfl | intro _
    | with_reducible apply same_ite | with_reducible apply same_foldl | with_reducible apply same_overIdx
    | simp only [↓same_mk_tag] | with_reducible apply SameMk.intro | with_reducible apply same_foldl_fst
    | with_reducible apply same_foldl_snd | split

theorem arcAttempt_same {m : Nat} {s0 s : State} {b : Nat} (hm : sub 8858632338 m = true) (h : Same m s0 s) :
    Same m s0 (State.arcAttempt s b) := by
  refine Same.step ?_ hm h
  unfold State.arcAttempt
  try dsimp only
  repeat' first
    | with_reducible exact Same.refl _ _ | exact rfl | with_reducible assumption
    | exact fun (e : Nat.testBit _ _ = false) => absurd e (by decide) | with_reducible exact fun _ => rfl | intro _
    | with_reducible apply same_ite | with_reducible apply wearUp_same | with_reducible apply after_same
    | with_reducible apply modJob_same | with_reducible apply same_foldl | with_reducible apply same_overIdx
    | simp only [↓same_mk_tag] | with_reducible apply SameMk.intro | with_reducible apply same_foldl_fst
    | with_reducible apply same_foldl_snd | split

theorem arcStep_same {m : Nat} {s0 s : State} {t : Task} (hm : sub 8858632338 m = true) (h : Same m s0 s) :
    Same m s0 (State.arcStep s t) := by
  refine Same.step ?_ hm h
  unfold State.arcStep
  try dsimp only
  repeat' first
    | with_reducible exact Same.refl _ _ | exact rfl | with_reducible assumption
    | exact fun (e : Nat.testBit _ _ = false) => absurd e (by decide) | with_reducible exact fun _ => rfl | intro _
    | with_reducible apply same_ite | with_reducible apply endTask_same | with_reducible apply storeReadCheck_same
    | with_reducible apply modJob_same | with_reducible apply bump_same | with_reducible apply after_same
    | with_reducible apply put_same | with_reducible apply arcAttempt_same | with_reducible apply same_foldl
    | with_reducible apply same_overIdx | simp only [↓same_mk_tag] | with_reducible apply SameMk.intro
    | with_reducible apply same_foldl_fst | with_reducible apply same_foldl_snd | split

theorem arcWritten_same {m : Nat} {s0 s : State} {ok : Bool} {corr : Nat} (hm : sub 15301083290 m = true)
    (h : Same m s0 s) :
    Same m s0 (State.arcWritten s ok corr) := by
  refine Same.step ?_ hm h
  unfold State.arcWritten
  try dsimp only
  repeat' first
    | with_reducible exact Same.refl _ _ | exact rfl | with_reducible assumption
    | exact fun (e : Nat.testBit _ _ = false) => absurd e (by decide) | with_reducible exact fun _ => rfl | intro _
    | with_reducible apply same_ite | with_reducible apply bumpBy_same | with_reducible apply withdraw_same
    | with_reducible apply blockIs_same | with_reducible apply modJob_same | with_reducible apply arcStep_same
    | with_reducible apply put_same | with_reducible apply bump_same | with_reducible apply arcAttempt_same
    | with_reducible apply freeBytes_same | with_reducible apply endTask_same | with_reducible apply same_foldl
    | with_reducible apply same_overIdx | simp only [↓same_mk_tag] | with_reducible apply SameMk.intro
    | with_reducible apply same_foldl_fst | with_reducible apply same_foldl_snd | split

theorem arcBegin_same {m : Nat} {s0 s : State} {t : Task} (hm : sub 268697746 m = true) (h : Same m s0 s) :
    Same m s0 (State.arcBegin s t) := by
  refine Same.step ?_ hm h
  unfold State.arcBegin
  try dsimp only
  repeat' first
    | with_reducible exact Same.refl _ _ | exact rfl | with_reducible assumption
    | exact fun (e : Nat.testBit _ _ = false) => absurd e (by decide) | with_reducible exact fun _ => rfl | intro _
    | with_reducible apply same_ite | with_reducible apply endTask_same | with_reducible apply modJob_same
    | with_reducible apply after_same | with_reducible apply put_same | with_reducible apply same_foldl
    | with_reducible apply same_overIdx | simp only [↓same_mk_tag] | with_reducible apply SameMk.intro
    | with_reducible apply same_foldl_fst | with_reducible apply same_foldl_snd | split

theorem arcCopy_same {m : Nat} {s0 s : State} {t : Task} {n : Nat} (hm : sub 1610612736 m = true) (h : Same m s0 s) :
    Same m s0 (State.arcCopy s t n).1 := by
  refine Same.step ?_ hm h
  unfold State.arcCopy
  try dsimp only
  repeat' first
    | with_reducible exact Same.refl _ _ | exact rfl | with_reducible assumption
    | exact fun (e : Nat.testBit _ _ = false) => absurd e (by decide) | with_reducible exact fun _ => rfl | intro _
    | with_reducible apply same_ite | with_reducible apply storeWrite_same | with_reducible apply same_foldl
    | with_reducible apply same_overIdx | simp only [↓same_mk_tag] | with_reducible apply SameMk.intro
    | with_reducible apply same_foldl_fst | with_reducible apply same_foldl_snd | split

theorem arcReadEnd_same {m : Nat} {s0 s : State} {t : Task} {corr : Nat} (hm : sub 1879310482 m = true)
    (h : Same m s0 s) :
    Same m s0 (State.arcReadEnd s t corr) := by
  refine Same.step ?_ hm h
  unfold State.arcReadEnd
  try dsimp only
  repeat' first
    | with_reducible exact Same.refl _ _ | exact rfl | with_reducible assumption
    | exact fun (e : Nat.testBit _ _ = false) => absurd e (by decide) | with_reducible exact fun _ => rfl | intro _
    | with_reducible apply same_ite | with_reducible apply arcCopy_same | with_reducible apply bumpBy_same
    | with_reducible apply put_same | with_reducible apply endTask_same | with_reducible apply same_foldl
    | with_reducible apply same_overIdx | simp only [↓same_mk_tag] | with_reducible apply SameMk.intro
    | with_reducible apply same_foldl_fst | with_reducible apply same_foldl_snd | split

theorem arcAbort_same {m : Nat} {s0 s : State} {t : Task} (hm : sub 1879310482 m = true) (h : Same m s0 s) :
    Same m s0 (State.arcAbort s t) := by
  refine Same.step ?_ hm h
  unfold State.arcAbort
  try dsimp only
  repeat' first
    | with_reducible exact Same.refl _ _ | exact rfl | with_reducible assumption
    | exact fun (e : Nat.testBit _ _ = false) => absurd e (by decide) | with_reducible exact fun _ => rfl | intro _
    | with_reducible apply same_ite | with_reducible apply modJob_same | with_reducible apply arcReadEnd_same
    | with_reducible apply endTask_same | with_reducible apply same_foldl | with_reducible apply same_overIdx
    | simp only [↓same_mk_tag] | with_reducible apply SameMk.intro | with_reducible apply same_foldl_fst
    | with_reducible apply same_foldl_snd | split

theorem rollbackRaise_same {m : Nat} {s0 s : State} {v : Nat} (hm : sub 18 m = true) (h : Same m s0 s) :
    Same m s0 (State.rollbackRaise s v) := by
  refine Same.step ?_ hm h
  unfold State.rollbackRaise
  try dsimp only
  repeat' first
    | with_reducible exact Same.refl _ _ | exact rfl | with_reducible assumption
    | exact fun (e : Nat.testBit _ _ = false) => absurd e (by decide) | with_reducible exact fun _ => rfl | intro _
    | with_reducible apply same_ite | with_reducible apply after_same | with_reducible apply put_same
    | with_reducible apply same_foldl | with_reducible apply same_overIdx | simp only [↓same_mk_tag]
    | with_reducible apply SameMk.intro | with_reducible apply same_foldl_fst | with_reducible apply same_foldl_snd
    | split

theorem rollbackDone_same {m : Nat} {s0 s : State} (hm : sub 25770066074 m = true) (h : Same m s0 s) :
    Same m s0 (State.rollbackDone s) := by
  refine Same.step ?_ hm h
  unfold State.rollbackDone
  try dsimp only
  repeat' first
    | with_reducible exact Same.refl _ _ | exact rfl | with_reducible assumption
    | exact fun (e : Nat.testBit _ _ = false) => absurd e (by decide) | with_reducible exact fun _ => rfl | intro _
    | with_reducible apply same_ite | with_reducible apply rollbackTo_same | with_reducible apply put_same
    | with_reducible apply free_same | with_reducible apply wearUp_same | with_reducible apply after_same
    | with_reducible apply same_foldl | with_reducible apply same_overIdx | simp only [↓same_mk_tag]
    | with_reducible apply SameMk.intro | with_reducible apply same_foldl_fst | with_reducible apply same_foldl_snd
    | split

theorem pollQuiesce_same {m : Nat} {s0 s : State} (hm : sub 2 m = true) (h : Same m s0 s) :
    Same m s0 (State.pollQuiesce s) := by
  refine Same.step ?_ hm h
  unfold State.pollQuiesce
  try dsimp only
  repeat' first
    | with_reducible exact Same.refl _ _ | exact rfl | with_reducible assumption
    | exact fun (e : Nat.testBit _ _ = false) => absurd e (by decide) | with_reducible exact fun _ => rfl | intro _
    | with_reducible apply same_ite | with_reducible apply after_same | with_reducible apply same_foldl
    | with_reducible apply same_overIdx | simp only [↓same_mk_tag] | with_reducible apply SameMk.intro
    | with_reducible apply same_foldl_fst | with_reducible apply same_foldl_snd | split

theorem startEntry_same {m : Nat} {s0 s : State} {v : Nat} (hm : sub 1042 m = true) (h : Same m s0 s) :
    Same m s0 (State.startEntry s v) := by
  refine Same.step ?_ hm h
  unfold State.startEntry
  try dsimp only
  repeat' first
    | with_reducible exact Same.refl _ _ | exact rfl | with_reducible assumption
    | exact fun (e : Nat.testBit _ _ = false) => absurd e (by decide) | with_reducible exact fun _ => rfl | intro _
    | with_reducible apply same_ite | with_reducible apply pollQuiesce_same | with_reducible apply put_same
    | with_reducible apply same_foldl | with_reducible apply same_overIdx | simp only [↓same_mk_tag]
    | with_reducible apply SameMk.intro | with_reducible apply same_foldl_fst | with_reducible apply same_foldl_snd
    | split

theorem setMon_same {m : Nat} {s0 s : State} {m_ : Nat} {x : Monitor} (hm : sub 16384 m = true) (h : Same m s0 s) :
    Same m s0 (State.setMon s m_ x) := by
  refine Same.step ?_ hm h
  unfold State.setMon
  try dsimp only
  repeat' first
    | with_reducible exact Same.refl _ _ | exact rfl | with_reducible assumption
    | exact fun (e : Nat.testBit _ _ = false) => absurd e (by decide) | with_reducible exact fun _ => rfl | intro _
    | with_reducible apply same_ite | with_reducible apply same_foldl | with_reducible apply same_overIdx
    | simp only [↓same_mk_tag] | with_reducible apply SameMk.intro | with_reducible apply same_foldl_fst
    | with_reducible apply same_foldl_snd | split

theorem filterStart_same {m : Nat} {s0 s : State} {m_ : Nat} {t : Nat} (hm : sub 16386 m = true) (h : Same m s0 s) :
    Same m s0 (State.filterStart s m_ t) := by
  refine Same.step ?_ hm h
  unfold State.filterStart
  try dsimp only
  repeat' first
    | with_reducible exact Same.refl _ _ | exact rfl | with_reducible assumption
    | exact fun (e : Nat.testBit _ _ = false) => absurd e (by decide) | with_reducible exact fun _ => rfl | intro _
    | with_reducible apply same_ite | with_reducible apply at__same | with_reducible apply setMon_same
    | with_reducible apply same_foldl | with_reducible apply same_overIdx | simp only [↓same_mk_tag]
    | with_reducible apply SameMk.intro | with_reducible apply same_foldl_fst | with_reducible apply same_foldl_snd
    | split

theorem monEnable_same {m : Nat} {s0 s : State} {m_ : Nat} {en : Bool} (hm : sub 16402 m = true) (h : Same m s0 s) :
    Same m s0 (State.monEnable s m_ en) := by
  refine Same.step ?_ hm h
  unfold State.monEnable
  try dsimp only
  repeat' first
    | with_reducible exact Same.refl _ _ | exact rfl | with_reducible assumption
    | exact fun (e : Nat.testBit _ _ = false) => absurd e (by decide) | with_reducible exact fun _ => rfl | intro _
    | with_reducible apply same_ite | with_reducible apply put_same | with_reducible apply setMon_same
    | with_reducible apply filterStart_same | with_reducible apply same_foldl | with_reducible apply same_overIdx
    | simp only [↓same_mk_tag] | with_reducible apply SameMk.intro | with_reducible apply same_foldl_fst
    | with_reducible apply same_foldl_snd | split

theorem monSync_same {m : Nat} {s0 s : State} {k : Nat} {t : Nat} (hm : sub 16530 m = true) (h : Same m s0 s) :
    Same m s0 (State.monSync s k t) := by
  refine Same.step ?_ hm h
  unfold State.monSync
  try dsimp only
  repeat' first
    | with_reducible exact Same.refl _ _ | exact rfl | with_reducible assumption
    | exact fun (e : Nat.testBit _ _ = false) => absurd e (by decide) | with_reducible exact fun _ => rfl | intro _
    | with_reducible apply same_ite | with_reducible apply filterStart_same | with_reducible apply bump_same
    | with_reducible apply same_foldl | with_reducible apply same_overIdx | simp only [↓same_mk_tag]
    | with_reducible apply SameMk.intro | with_reducible apply same_foldl_fst | with_reducible apply same_foldl_snd
    | split

theorem monsRestart_same {m : Nat} {s0 s : State} {t : Nat} (hm : sub 16386 m = true) (h : Same m s0 s) :
    Same m s0 (State.monsRestart s t) := by
  refine Same.step ?_ hm h
  unfold State.monsRestart
  try dsimp only
  repeat' first
    | with_reducible exact Same.refl _ _ | exact rfl | with_reducible assumption
    | exact fun (e : Nat.testBit _ _ = false) => absurd e (by decide) | with_reducible exact fun _ => rfl | intro _
    | with_reducible apply same_ite | with_reducible apply filterStart_same | with_reducible apply same_foldl
    | with_reducible apply same_overIdx | simp only [↓same_mk_tag] | with_reducible apply SameMk.intro
    | with_reducible apply same_foldl_fst | with_reducible apply same_foldl_snd | split

theorem freeBits_same {m : Nat} {s0 s : State} {a0 : Nat} (hm : sub 8 m = true) (h : Same m s0 s) :
    Same m s0 (State.freeBits s a0).2 := by
  refine Same.step ?_ hm h
  clear h
  induction a0 generalizing s with
  | zero => exact Same.refl _ _
  | succ n ih =>
    unfold State.freeBits
    try dsimp only
    repeat' first
      | with_reducible exact Same.refl _ _ | exact rfl | with_reducible assumption
      | exact fun (e : Nat.testBit _ _ = false) => absurd e (by decide) | with_reducible exact fun _ => rfl | intro _
      | with_reducible apply same_ite | (with_reducible apply Same.step (hm := sub_self _) ih)
      | with_reducible apply free_same | with_reducible apply same_foldl | with_reducible apply same_overIdx
      | simp only [↓same_mk_tag] | with_reducible apply SameMk.intro | with_reducible apply same_foldl_fst
      | with_reducible apply same_foldl_snd | split

theorem offerBlock_same {m : Nat} {s0 s : State} {l : List MonEntry} (hm : sub 819346 m = true) (h : Same m s0 s) :
    Same m s0 (State.offerBlock s l) := by
  refine Same.step ?_ hm h
  unfold State.offerBlock
  try dsimp only
  repeat' first
    | with_reducible exact Same.refl _ _ | exact rfl | with_reducible assumption
    | exact fun (e : Nat.testBit _ _ = false) => absurd e (by decide) | with_reducible exact fun _ => rfl | intro _
    | with_reducible apply same_ite | with_reducible apply bump_same | with_reducible apply offerPacket_same
    | with_reducible apply blockSkipped_same | with_reducible apply same_foldl | with_reducible apply same_overIdx
    | simp only [↓same_mk_tag] | with_reducible apply SameMk.intro | with_reducible apply same_foldl_fst
    | with_reducible apply same_foldl_snd | split

theorem closeFull_same {m : Nat} {s0 s : State} {n : Nat} {a1 : Nat} (hm : sub 819346 m = true) (h : Same m s0 s) :
    Same m s0 (State.closeFull s n a1) := by
  refine Same.step ?_ hm h
  clear h
  induction a1 generalizing s with
  | zero => exact Same.refl _ _
  | succ n ih =>
    unfold State.closeFull
    try dsimp only
    repeat' first
      | with_reducible exact Same.refl _ _ | exact rfl | with_reducible assumption
      | exact fun (e : Nat.testBit _ _ = false) => absurd e (by decide) | with_reducible exact fun _ => rfl | intro _
      | with_reducible apply same_ite | (with_reducible apply Same.step (hm := sub_self _) ih)
      | with_reducible apply offerBlock_same | with_reducible apply same_foldl | with_reducible apply same_overIdx
      | simp only [↓same_mk_tag] | with_reducible apply SameMk.intro | with_reducible apply same_foldl_fst
      | with_reducible apply same_foldl_snd | split

theorem closeBlocks_same {m : Nat} {s0 s : State} (hm : sub 819346 m = true) (h : Same m s0 s) :
    Same m s0 (State.closeBlocks s) := by
  refine Same.step ?_ hm h
  unfold State.closeBlocks
  try dsimp only
  repeat' first
    | with_reducible exact Same.refl _ _ | exact rfl | with_reducible assumption
    | exact fun (e : Nat.testBit _ _ = false) => absurd e (by decide) | with_reducible exact fun _ => rfl | intro _
    | with_reducible apply same_ite | with_reducible apply closeFull_same | with_reducible apply at__same
    | with_reducible apply offerBlock_same | with_reducible apply same_foldl | with_reducible apply same_overIdx
    | simp only [↓same_mk_tag] | with_reducible apply SameMk.intro | with_reducible apply same_foldl_fst
    | with_reducible apply same_foldl_snd | split

theorem streamSample_same {m : Nat} {s0 s : State} {e : MonEntry} (hm : sub 32770 m = true) (h : Same m s0 s) :
    Same m s0 (State.streamSample s e) := by
  refine Same.step ?_ hm h
  unfold State.streamSample
  try dsimp only
  repeat' first
    | with_reducible exact Same.refl _ _ | exact rfl | with_reducible assumption
    | exact fun (e : Nat.testBit _ _ = false) => absurd e (by decide) | with_reducible exact fun _ => rfl | intro _
    | with_reducible apply same_ite | with_reducible apply at__same | with_reducible apply after_same
    | with_reducible apply same_foldl | with_reducible apply same_overIdx | simp only [↓same_mk_tag]
    | with_reducible apply SameMk.intro | with_reducible apply same_foldl_fst | with_reducible apply same_foldl_snd
    | split

theorem settledSample_same {m : Nat} {s0 s : State} {m_ : Nat} {j : Nat} {d : Int} (hm : sub 262290 m = true)
    (h : Same m s0 s) :
    Same m s0 (State.settledSample s m_ j d) := by
  refine Same.step ?_ hm h
  unfold State.settledSample
  try dsimp only
  repeat' first
    | with_reducible exact Same.refl _ _ | exact rfl | with_reducible assumption
    | exact fun (e : Nat.testBit _ _ = false) => absurd e (by decide) | with_reducible exact fun _ => rfl | intro _
    | with_reducible apply same_ite | with_reducible apply put_same | with_reducible apply sticky_same
    | with_reducible apply bump_same | with_reducible apply same_foldl | with_reducible apply same_overIdx
    | simp only [↓same_mk_tag] | with_reducible apply SameMk.intro | with_reducible apply same_foldl_fst
    | with_reducible apply same_foldl_snd | split

theorem monSampleNow_same {m : Nat} {s0 s : State} {m_ : Nat} {bits : Option (List Bool)} (hm : sub 311450 m = true)
    (h : Same m s0 s) :
    Same m s0 (State.monSampleNow s m_ bits) := by
  refine Same.step ?_ hm h
  unfold State.monSampleNow
  try dsimp only
  repeat' first
    | with_reducible exact Same.refl _ _ | exact rfl | with_reducible assumption
    | exact fun (e : Nat.testBit _ _ = false) => absurd e (by decide) | with_reducible exact fun _ => rfl | intro _
    | with_reducible apply same_ite | with_reducible apply freeBits_same | with_reducible apply setMon_same
    | with_reducible apply put_same | with_reducible apply settledSample_same | with_reducible apply streamSample_same
    | with_reducible apply at__same | with_reducible apply same_foldl | with_reducible apply same_overIdx
    | simp only [↓same_mk_tag] | with_reducible apply SameMk.intro | with_reducible apply same_foldl_fst
    | with_reducible apply same_foldl_snd | split

theorem oweSamples_same {m : Nat} {s0 s : State} (hm : sub 16384 m = true) (h : Same m s0 s) :
    Same m s0 (State.oweSamples s) := by
  refine Same.step ?_ hm h
  unfold State.oweSamples
  try dsimp only
  repeat' first
    | with_reducible exact Same.refl _ _ | exact rfl | with_reducible assumption
    | exact fun (e : Nat.testBit _ _ = false) => absurd e (by decide) | with_reducible exact fun _ => rfl | intro _
    | with_reducible apply same_ite | with_reducible apply setMon_same | with_reducible apply same_foldl
    | with_reducible apply same_overIdx | simp only [↓same_mk_tag] | with_reducible apply SameMk.intro
    | with_reducible apply same_foldl_fst | with_reducible apply same_foldl_snd | split

theorem restartDue_same {m : Nat} {s0 s : State} {m_ : Nat} (hm : sub 16402 m = true) (h : Same m s0 s) :
    Same m s0 (State.restartDue s m_) := by
  refine Same.step ?_ hm h
  unfold State.restartDue
  try dsimp only
  repeat' first
    | with_reducible exact Same.refl _ _ | exact rfl | with_reducible assumption
    | exact fun (e : Nat.testBit _ _ = false) => absurd e (by decide) | with_reducible exact fun _ => rfl | intro _
    | with_reducible apply same_ite | with_reducible apply setMon_same | with_reducible apply at__same
    | with_reducible apply put_same | with_reducible apply same_foldl | with_reducible apply same_overIdx
    | simp only [↓same_mk_tag] | with_reducible apply SameMk.intro | with_reducible apply same_foldl_fst
    | with_reducible apply same_foldl_snd | split

theorem monsStop_same {m : Nat} {s0 s : State} (hm : sub 835730 m = true) (h : Same m s0 s) :
    Same m s0 (State.monsStop s) := by
  refine Same.step ?_ hm h
  unfold State.monsStop
  try dsimp only
  repeat' first
    | with_reducible exact Same.refl _ _ | exact rfl | with_reducible assumption
    | exact fun (e : Nat.testBit _ _ = false) => absurd e (by decide) | with_reducible exact fun _ => rfl | intro _
    | with_reducible apply same_ite | with_reducible apply offerBlock_same | with_reducible apply same_foldl
    | with_reducible apply same_overIdx | simp only [↓same_mk_tag] | with_reducible apply SameMk.intro
    | with_reducible apply same_foldl_fst | with_reducible apply same_foldl_snd | split

theorem modNewel_same {m : Nat} {s0 s : State} {f : Newel → Newel} (hm : sub 256 m = true) (h : Same m s0 s) :
    Same m s0 (State.modNewel s f) := by
  refine Same.step ?_ hm h
  unfold State.modNewel
  try dsimp only
  repeat' first
    | with_reducible exact Same.refl _ _ | exact rfl | with_reducible assumption
    | exact fun (e : Nat.testBit _ _ = false) => absurd e (by decide) | with_reducible exact fun _ => rfl | intro _
    | with_reducible apply same_ite | with_reducible apply same_foldl | with_reducible apply same_overIdx
    | simp only [↓same_mk_tag] | with_reducible apply SameMk.intro | with_reducible apply same_foldl_fst
    | with_reducible apply same_foldl_snd | split

theorem lockQuiet_same {m : Nat} {s0 s : State} (hm : sub 2 m = true) (h : Same m s0 s) :
    Same m s0 (State.lockQuiet s) := by
  refine Same.step ?_ hm h
  unfold State.lockQuiet
  try dsimp only
  repeat' first
    | with_reducible exact Same.refl _ _ | exact rfl | with_reducible assumption
    | exact fun (e : Nat.testBit _ _ = false) => absurd e (by decide) | with_reducible exact fun _ => rfl | intro _
    | with_reducible apply same_ite | with_reducible apply withdraw_same | with_reducible apply same_foldl
    | with_reducible apply same_overIdx | simp only [↓same_mk_tag] | with_reducible apply SameMk.intro
    | with_reducible apply same_foldl_fst | with_reducible apply same_foldl_snd | split

theorem beginSettle_same {m : Nat} {s0 s : State} (hm : sub 258 m = true) (h : Same m s0 s) :
    Same m s0 (State.beginSettle s) := by
  refine Same.step ?_ hm h
  unfold State.beginSettle
  try dsimp only
  repeat' first
    | with_reducible exact Same.refl _ _ | exact rfl | with_reducible assumption
    | exact fun (e : Nat.testBit _ _ = false) => absurd e (by decide) | with_reducible exact fun _ => rfl | intro _
    | with_reducible apply same_ite | with_reducible apply after_same | with_reducible apply modNewel_same
    | with_reducible apply lockQuiet_same | with_reducible apply same_foldl | with_reducible apply same_overIdx
    | simp only [↓same_mk_tag] | with_reducible apply SameMk.intro | with_reducible apply same_foldl_fst
    | with_reducible apply same_foldl_snd | split

theorem lockStart_same {m : Nat} {s0 s : State} (hm : sub 274 m = true) (h : Same m s0 s) :
    Same m s0 (State.lockStart s) := by
  refine Same.step ?_ hm h
  unfold State.lockStart
  try dsimp only
  repeat' first
    | with_reducible exact Same.refl _ _ | exact rfl | with_reducible assumption
    | exact fun (e : Nat.testBit _ _ = false) => absurd e (by decide) | with_reducible exact fun _ => rfl | intro _
    | with_reducible apply same_ite | with_reducible apply put_same | with_reducible apply beginSettle_same
    | with_reducible apply modNewel_same | with_reducible apply lockQuiet_same | with_reducible apply same_foldl
    | with_reducible apply same_overIdx | simp only [↓same_mk_tag] | with_reducible apply SameMk.intro
    | with_reducible apply same_foldl_fst | with_reducible apply same_foldl_snd | split

theorem bandSearch_same {m : Nat} {s0 s : State} (hm : sub 282 m = true) (h : Same m s0 s) :
    Same m s0 (State.bandSearch s) := by
  refine Same.step ?_ hm h
  unfold State.bandSearch
  try dsimp only
  repeat' first
    | with_reducible exact Same.refl _ _ | exact rfl | with_reducible assumption
    | exact fun (e : Nat.testBit _ _ = false) => absurd e (by decide) | with_reducible exact fun _ => rfl | intro _
    | with_reducible apply same_ite | with_reducible apply after_same | with_reducible apply modNewel_same
    | with_reducible apply free_same | with_reducible apply put_same | with_reducible apply same_foldl
    | with_reducible apply same_overIdx | simp only [↓same_mk_tag] | with_reducible apply SameMk.intro
    | with_reducible apply same_foldl_fst | with_reducible apply same_foldl_snd | split

theorem lockRestart_same {m : Nat} {s0 s : State} (hm : sub 258 m = true) (h : Same m s0 s) :
    Same m s0 (State.lockRestart s) := by
  refine Same.step ?_ hm h
  unfold State.lockRestart
  try dsimp only
  repeat' first
    | with_reducible exact Same.refl _ _ | exact rfl | with_reducible assumption
    | exact fun (e : Nat.testBit _ _ = false) => absurd e (by decide) | with_reducible exact fun _ => rfl | intro _
    | with_reducible apply same_ite | with_reducible apply modNewel_same | with_reducible apply beginSettle_same
    | with_reducible apply same_foldl | with_reducible apply same_overIdx | simp only [↓same_mk_tag]
    | with_reducible apply SameMk.intro | with_reducible apply same_foldl_fst | with_reducible apply same_foldl_snd
    | split

theorem refLost_same {m : Nat} {s0 s : State} (hm : sub 262546 m = true) (h : Same m s0 s) :
    Same m s0 (State.refLost s) := by
  refine Same.step ?_ hm h
  unfold State.refLost
  try dsimp only
  repeat' first
    | with_reducible exact Same.refl _ _ | exact rfl | with_reducible assumption
    | exact fun (e : Nat.testBit _ _ = false) => absurd e (by decide) | with_reducible exact fun _ => rfl | intro _
    | with_reducible apply same_ite | with_reducible apply modNewel_same | with_reducible apply bump_same
    | with_reducible apply put_same | with_reducible apply setBit_same | with_reducible apply notice_same
    | with_reducible apply lockQuiet_same | with_reducible apply same_foldl | with_reducible apply same_overIdx
    | simp only [↓same_mk_tag] | with_reducible apply SameMk.intro | with_reducible apply same_foldl_fst
    | with_reducible apply same_foldl_snd | split

end Sys2Proof.Machine
end

