-- ==== Sys2Proof/Laws/Same4.lean ====
section
/-! SUPPORT. What each operation of the model may change, by field of the state, part 4 of 6. -/

namespace Sys2Proof.Machine

theorem reacquire_same {m : Nat} {s0 s : State} {inRange : Bool} (hm : sub 262546 m = true) (h : Same m s0 s) :
    Same m s0 (State.reacquire s inRange) := by
  refine Same.step ?_ hm h
  unfold State.reacquire
  try dsimp only
  repeat' first
    | with_reducible exact Same.refl _ _ | exact rfl | with_reducible assumption
    | exact fun (e : Nat.testBit _ _ = false) => absurd e (by decide) | with_reducible exact fun _ => rfl | intro _
    | with_reducible apply same_ite | with_reducible apply modNewel_same | with_reducible apply after_same
    | with_reducible apply notice_same | with_reducible apply setBit_same | with_reducible apply same_foldl
    | with_reducible apply same_overIdx | simp only [↓same_mk_tag] | with_reducible apply SameMk.intro
    | with_reducible apply same_foldl_fst | with_reducible apply same_foldl_snd | split

theorem reacquired_same {m : Nat} {s0 s : State} (hm : sub 262546 m = true) (h : Same m s0 s) :
    Same m s0 (State.reacquired s) := by
  refine Same.step ?_ hm h
  unfold State.reacquired
  try dsimp only
  repeat' first
    | with_reducible exact Same.refl _ _ | exact rfl | with_reducible assumption
    | exact fun (e : Nat.testBit _ _ = false) => absurd e (by decide) | with_reducible exact fun _ => rfl | intro _
    | with_reducible apply same_ite | with_reducible apply bump_same | with_reducible apply put_same
    | with_reducible apply modNewel_same | with_reducible apply notice_same | with_reducible apply same_foldl
    | with_reducible apply same_overIdx | simp only [↓same_mk_tag] | with_reducible apply SameMk.intro
    | with_reducible apply same_foldl_fst | with_reducible apply same_foldl_snd | split

theorem commitNext_same {m : Nat} {s0 s : State} {t : Nat} (hm : sub 2 m = true) (h : Same m s0 s) :
    Same m s0 (State.commitNext s t) := by
  refine Same.step ?_ hm h
  unfold State.commitNext
  try dsimp only
  repeat' first
    | with_reducible exact Same.refl _ _ | exact rfl | with_reducible assumption
    | exact fun (e : Nat.testBit _ _ = false) => absurd e (by decide) | with_reducible exact fun _ => rfl | intro _
    | with_reducible apply same_ite | with_reducible apply at__same | with_reducible apply same_foldl
    | with_reducible apply same_overIdx | simp only [↓same_mk_tag] | with_reducible apply SameMk.intro
    | with_reducible apply same_foldl_fst | with_reducible apply same_foldl_snd | split

theorem transfer_same {m : Nat} {s0 s : State} (hm : sub 3424666 m = true) (h : Same m s0 s) :
    Same m s0 (State.transfer s) := by
  refine Same.step ?_ hm h
  unfold State.transfer
  try dsimp only
  repeat' first
    | with_reducible exact Same.refl _ _ | exact rfl | with_reducible assumption
    | exact fun (e : Nat.testBit _ _ = false) => absurd e (by decide) | with_reducible exact fun _ => rfl | intro _
    | with_reducible apply same_ite | with_reducible apply oweSamples_same | with_reducible apply modNewel_same
    | with_reducible apply put_same | with_reducible apply portClock_same | with_reducible apply monsRestart_same
    | with_reducible apply same_foldl | with_reducible apply same_overIdx | simp only [↓same_mk_tag]
    | with_reducible apply SameMk.intro | with_reducible apply same_foldl_fst | with_reducible apply same_foldl_snd
    | split

theorem commitEpoch_same {m : Nat} {s0 s : State} (hm : sub 3424666 m = true) (h : Same m s0 s) :
    Same m s0 (State.commitEpoch s) := by
  refine Same.step ?_ hm h
  unfold State.commitEpoch
  try dsimp only
  repeat' first
    | with_reducible exact Same.refl _ _ | exact rfl | with_reducible assumption
    | exact fun (e : Nat.testBit _ _ = false) => absurd e (by decide) | with_reducible exact fun _ => rfl | intro _
    | with_reducible apply same_ite | with_reducible apply put_same | with_reducible apply putPair_same
    | with_reducible apply transfer_same | with_reducible apply modNewel_same | with_reducible apply commitNext_same
    | with_reducible apply same_foldl | with_reducible apply same_overIdx | simp only [↓same_mk_tag]
    | with_reducible apply SameMk.intro | with_reducible apply same_foldl_fst | with_reducible apply same_foldl_snd
    | split

theorem commit_same {m : Nat} {s0 s : State} (hm : sub 3424666 m = true) (h : Same m s0 s) :
    Same m s0 (State.commit s) := by
  refine Same.step ?_ hm h
  unfold State.commit
  try dsimp only
  repeat' first
    | with_reducible exact Same.refl _ _ | exact rfl | with_reducible assumption
    | exact fun (e : Nat.testBit _ _ = false) => absurd e (by decide) | with_reducible exact fun _ => rfl | intro _
    | with_reducible apply same_ite | with_reducible apply commitEpoch_same | with_reducible apply commitNext_same
    | with_reducible apply put_same | with_reducible apply modNewel_same | with_reducible apply same_foldl
    | with_reducible apply same_overIdx | simp only [↓same_mk_tag] | with_reducible apply SameMk.intro
    | with_reducible apply same_foldl_fst | with_reducible apply same_foldl_snd | split

theorem capture_same {m : Nat} {s0 s : State} {t : Nat} (hm : sub 16 m = true) (h : Same m s0 s) :
    Same m s0 (State.capture s t) := by
  refine Same.step ?_ hm h
  unfold State.capture
  try dsimp only
  repeat' first
    | with_reducible exact Same.refl _ _ | exact rfl | with_reducible assumption
    | exact fun (e : Nat.testBit _ _ = false) => absurd e (by decide) | with_reducible exact fun _ => rfl | intro _
    | with_reducible apply same_ite | with_reducible apply put_same | with_reducible apply putPair_same
    | with_reducible apply same_foldl | with_reducible apply same_overIdx | simp only [↓same_mk_tag]
    | with_reducible apply SameMk.intro | with_reducible apply same_foldl_fst | with_reducible apply same_foldl_snd
    | split

theorem snap_same {m : Nat} {s0 s : State} (hm : sub 16 m = true) (h : Same m s0 s) : Same m s0 (State.snap s) := by
  refine Same.step ?_ hm h
  unfold State.snap
  try dsimp only
  repeat' first
    | with_reducible exact Same.refl _ _ | exact rfl | with_reducible assumption
    | exact fun (e : Nat.testBit _ _ = false) => absurd e (by decide) | with_reducible exact fun _ => rfl | intro _
    | with_reducible apply same_ite | with_reducible apply put_same | with_reducible apply capture_same
    | with_reducible apply same_foldl | with_reducible apply same_overIdx | simp only [↓same_mk_tag]
    | with_reducible apply SameMk.intro | with_reducible apply same_foldl_fst | with_reducible apply same_foldl_snd
    | split

theorem capturePin_same {m : Nat} {s0 s : State} {t : Nat} (hm : sub 272 m = true) (h : Same m s0 s) :
    Same m s0 (State.capturePin s t) := by
  refine Same.step ?_ hm h
  unfold State.capturePin
  try dsimp only
  repeat' first
    | with_reducible exact Same.refl _ _ | exact rfl | with_reducible assumption
    | exact fun (e : Nat.testBit _ _ = false) => absurd e (by decide) | with_reducible exact fun _ => rfl | intro _
    | with_reducible apply same_ite | with_reducible apply modNewel_same | with_reducible apply capture_same
    | with_reducible apply same_foldl | with_reducible apply same_overIdx | simp only [↓same_mk_tag]
    | with_reducible apply SameMk.intro | with_reducible apply same_foldl_fst | with_reducible apply same_foldl_snd
    | split

theorem pinEdge_same {m : Nat} {s0 s : State} {pin : Nat} {rising : Bool} (hm : sub 149377458 m = true)
    (h : Same m s0 s) :
    Same m s0 (State.pinEdge s pin rising) := by
  refine Same.step ?_ hm h
  unfold State.pinEdge
  try dsimp only
  repeat' first
    | with_reducible exact Same.refl _ _ | exact rfl | with_reducible assumption
    | exact fun (e : Nat.testBit _ _ = false) => absurd e (by decide) | with_reducible exact fun _ => rfl | intro _
    | with_reducible apply same_ite | with_reducible apply pioPinEdge_same | with_reducible apply capturePin_same
    | with_reducible apply monSync_same | with_reducible apply trigger_same | with_reducible apply same_foldl
    | with_reducible apply same_overIdx | simp only [↓same_mk_tag] | with_reducible apply SameMk.intro
    | with_reducible apply same_foldl_fst | with_reducible apply same_foldl_snd | split

theorem pllStop_same {m : Nat} {s0 s : State} {mayRun : Bool} (hm : sub 274 m = true) (h : Same m s0 s) :
    Same m s0 (State.pllStop s mayRun) := by
  refine Same.step ?_ hm h
  unfold State.pllStop
  try dsimp only
  repeat' first
    | with_reducible exact Same.refl _ _ | exact rfl | with_reducible assumption
    | exact fun (e : Nat.testBit _ _ = false) => absurd e (by decide) | with_reducible exact fun _ => rfl | intro _
    | with_reducible apply same_ite | with_reducible apply modNewel_same | with_reducible apply lockQuiet_same
    | with_reducible apply put_same | with_reducible apply same_foldl | with_reducible apply same_overIdx
    | simp only [↓same_mk_tag] | with_reducible apply SameMk.intro | with_reducible apply same_foldl_fst
    | with_reducible apply same_foldl_snd | split

theorem rectRows_same {m : Nat} {s0 s : State} {t : Task} {host : Option (List Byte)} (hm : sub 8 m = true)
    (h : Same m s0 s) :
    Same m s0 (State.rectRows s t host).2 := by
  refine Same.step ?_ hm h
  unfold State.rectRows
  try dsimp only
  repeat' first
    | with_reducible exact Same.refl _ _ | exact rfl | with_reducible assumption
    | exact fun (e : Nat.testBit _ _ = false) => absurd e (by decide) | with_reducible exact fun _ => rfl | intro _
    | with_reducible apply same_ite | with_reducible apply orFree_same | with_reducible apply same_foldl
    | with_reducible apply same_overIdx | simp only [↓same_mk_tag] | with_reducible apply SameMk.intro
    | with_reducible apply same_foldl_fst | with_reducible apply same_foldl_snd | split

theorem rectPut_same {m : Nat} {s0 s : State} {t : Task} {i : Nat} {off : Nat} {bs : List Byte}
    (hm : sub 1610614802 m = true) (h : Same m s0 s) :
    Same m s0 (State.rectPut s t i off bs) := by
  refine Same.step ?_ hm h
  unfold State.rectPut
  try dsimp only
  repeat' first
    | with_reducible exact Same.refl _ _ | exact rfl | with_reducible assumption
    | exact fun (e : Nat.testBit _ _ = false) => absurd e (by decide) | with_reducible exact fun _ => rfl | intro _
    | with_reducible apply same_ite | with_reducible apply storeWrite_same | with_reducible apply hostPutData_same
    | with_reducible apply same_foldl | with_reducible apply same_overIdx | simp only [↓same_mk_tag]
    | with_reducible apply SameMk.intro | with_reducible apply same_foldl_fst | with_reducible apply same_foldl_snd
    | split

theorem rectMove_same {m : Nat} {s0 s : State} {t : Task} {i : Nat} {off : Nat} {bs : List Byte}
    (hm : sub 1610614802 m = true) (h : Same m s0 s) :
    Same m s0 (State.rectMove s t i off bs) := by
  refine Same.step ?_ hm h
  unfold State.rectMove
  try dsimp only
  repeat' first
    | with_reducible exact Same.refl _ _ | exact rfl | with_reducible assumption
    | exact fun (e : Nat.testBit _ _ = false) => absurd e (by decide) | with_reducible exact fun _ => rfl | intro _
    | with_reducible apply same_ite | with_reducible apply hostGet_same | with_reducible apply rectPut_same
    | with_reducible apply same_foldl | with_reducible apply same_overIdx | simp only [↓same_mk_tag]
    | with_reducible apply SameMk.intro | with_reducible apply same_foldl_fst | with_reducible apply same_foldl_snd
    | split

theorem rectWrite_same {m : Nat} {s0 s : State} {t : Task} {n : Nat} {part : Nat} {host : Option (List Byte)}
    (hm : sub 1610614810 m = true) (h : Same m s0 s) :
    Same m s0 (State.rectWrite s t n part host) := by
  refine Same.step ?_ hm h
  unfold State.rectWrite
  try dsimp only
  repeat' first
    | with_reducible exact Same.refl _ _ | exact rfl | with_reducible assumption
    | exact fun (e : Nat.testBit _ _ = false) => absurd e (by decide) | with_reducible exact fun _ => rfl | intro _
    | with_reducible apply same_ite | with_reducible apply rectRows_same | with_reducible apply rectMove_same
    | with_reducible apply same_foldl | with_reducible apply same_overIdx | simp only [↓same_mk_tag]
    | with_reducible apply SameMk.intro | with_reducible apply same_foldl_fst | with_reducible apply same_foldl_snd
    | split

theorem rectStop_same {m : Nat} {s0 s : State} {u : Nat} {t : Task} {status : Nat} {host : Option (List Byte)}
    (hm : sub 1879312538 m = true) (h : Same m s0 s) :
    Same m s0 (State.rectStop s u t status host) := by
  refine Same.step ?_ hm h
  unfold State.rectStop
  try dsimp only
  repeat' first
    | with_reducible exact Same.refl _ _ | exact rfl | with_reducible assumption
    | exact fun (e : Nat.testBit _ _ = false) => absurd e (by decide) | with_reducible exact fun _ => rfl | intro _
    | with_reducible apply same_ite | with_reducible apply rectWrite_same | with_reducible apply endTask_same
    | with_reducible apply put_same | with_reducible apply same_foldl | with_reducible apply same_overIdx
    | simp only [↓same_mk_tag] | with_reducible apply SameMk.intro | with_reducible apply same_foldl_fst
    | with_reducible apply same_foldl_snd | split

theorem rectBegin_same {m : Nat} {s0 s : State} {u : Nat} {t : Task} (hm : sub 268697746 m = true) (h : Same m s0 s) :
    Same m s0 (State.rectBegin s u t) := by
  refine Same.step ?_ hm h
  unfold State.rectBegin
  try dsimp only
  repeat' first
    | with_reducible exact Same.refl _ _ | exact rfl | with_reducible assumption
    | exact fun (e : Nat.testBit _ _ = false) => absurd e (by decide) | with_reducible exact fun _ => rfl | intro _
    | with_reducible apply same_ite | with_reducible apply endTask_same | with_reducible apply modJob_same
    | with_reducible apply after_same | with_reducible apply put_same | with_reducible apply same_foldl
    | with_reducible apply same_overIdx | simp only [↓same_mk_tag] | with_reducible apply SameMk.intro
    | with_reducible apply same_foldl_fst | with_reducible apply same_foldl_snd | split

theorem rectEnd_same {m : Nat} {s0 s : State} {u : Nat} {t : Task} {host : Option (List Byte)}
    (hm : sub 1879312538 m = true) (h : Same m s0 s) :
    Same m s0 (State.rectEnd s u t host) := by
  refine Same.step ?_ hm h
  unfold State.rectEnd
  try dsimp only
  repeat' first
    | with_reducible exact Same.refl _ _ | exact rfl | with_reducible assumption
    | exact fun (e : Nat.testBit _ _ = false) => absurd e (by decide) | with_reducible exact fun _ => rfl | intro _
    | with_reducible apply same_ite | with_reducible apply storeReadCheck_same | with_reducible apply rectStop_same
    | with_reducible apply traffic_same | with_reducible apply rectWrite_same | with_reducible apply endTask_same
    | with_reducible apply put_same | with_reducible apply same_foldl | with_reducible apply same_overIdx
    | simp only [↓same_mk_tag] | with_reducible apply SameMk.intro | with_reducible apply same_foldl_fst
    | with_reducible apply same_foldl_snd | split

theorem drainEnd_same {m : Nat} {s0 s : State} {u : Nat} {q : Nat} {status : Nat} {flags : Nat}
    (hm : sub 269222034 m = true) (h : Same m s0 s) :
    Same m s0 (State.drainEnd s u q status flags) := by
  refine Same.step ?_ hm h
  unfold State.drainEnd
  try dsimp only
  repeat' first
    | with_reducible exact Same.refl _ _ | exact rfl | with_reducible assumption
    | exact fun (e : Nat.testBit _ _ = false) => absurd e (by decide) | with_reducible exact fun _ => rfl | intro _
    | with_reducible apply same_ite | with_reducible apply setQueue_same | with_reducible apply withdraw_same
    | with_reducible apply endTask_same | with_reducible apply after_same | with_reducible apply same_foldl
    | with_reducible apply same_overIdx | simp only [↓same_mk_tag] | with_reducible apply SameMk.intro
    | with_reducible apply same_foldl_fst | with_reducible apply same_foldl_snd | split

theorem drainStep_same {m : Nat} {s0 s : State} {u : Nat} {t : Task} (hm : sub 269222034 m = true) (h : Same m s0 s) :
    Same m s0 (State.drainStep s u t) := by
  refine Same.step ?_ hm h
  unfold State.drainStep
  try dsimp only
  repeat' first
    | with_reducible exact Same.refl _ _ | exact rfl | with_reducible assumption
    | exact fun (e : Nat.testBit _ _ = false) => absurd e (by decide) | with_reducible exact fun _ => rfl | intro _
    | with_reducible apply same_ite | with_reducible apply drainEnd_same | with_reducible apply after_same
    | with_reducible apply modJob_same | with_reducible apply same_foldl | with_reducible apply same_overIdx
    | simp only [↓same_mk_tag] | with_reducible apply SameMk.intro | with_reducible apply same_foldl_fst
    | with_reducible apply same_foldl_snd | split

theorem drainBegin_same {m : Nat} {s0 s : State} {u : Nat} {t : Task} (hm : sub 268959762 m = true) (h : Same m s0 s)
    :
    Same m s0 (State.drainBegin s u t) := by
  refine Same.step ?_ hm h
  unfold State.drainBegin
  try dsimp only
  repeat' first
    | with_reducible exact Same.refl _ _ | exact rfl | with_reducible assumption
    | exact fun (e : Nat.testBit _ _ = false) => absurd e (by decide) | with_reducible exact fun _ => rfl | intro _
    | with_reducible apply same_ite | with_reducible apply setQueue_same | with_reducible apply after_same
    | with_reducible apply put_same | with_reducible apply modJob_same | with_reducible apply same_foldl
    | with_reducible apply same_overIdx | simp only [↓same_mk_tag] | with_reducible apply SameMk.intro
    | with_reducible apply same_foldl_fst | with_reducible apply same_foldl_snd | split

theorem spoiled_same {m : Nat} {s0 s : State} {bs : List Byte} (hm : sub 8 m = true) (h : Same m s0 s) :
    Same m s0 (State.spoiled s bs).2 := by
  refine Same.step ?_ hm h
  unfold State.spoiled
  try dsimp only
  repeat' first
    | with_reducible exact Same.refl _ _ | exact rfl | with_reducible assumption
    | exact fun (e : Nat.testBit _ _ = false) => absurd e (by decide) | with_reducible exact fun _ => rfl | intro _
    | with_reducible apply same_ite | with_reducible apply free_same | with_reducible apply freeBytes_same
    | with_reducible apply same_foldl | with_reducible apply same_overIdx | simp only [↓same_mk_tag]
    | with_reducible apply SameMk.intro | with_reducible apply same_foldl_fst | with_reducible apply same_foldl_snd
    | split

theorem readPacket_same {m : Nat} {s0 s : State} {q : Nat} {chk : HallCheck} (hm : sub 271354010 m = true)
    (h : Same m s0 s) :
    Same m s0 (State.readPacket s q chk) := by
  refine Same.step ?_ hm h
  unfold State.readPacket
  try dsimp only
  repeat' first
    | with_reducible exact Same.refl _ _ | exact rfl | with_reducible assumption
    | exact fun (e : Nat.testBit _ _ = false) => absurd e (by decide) | with_reducible exact fun _ => rfl | intro _
    | with_reducible apply same_ite | with_reducible apply drainEnd_same | with_reducible apply hostPutData_same
    | with_reducible apply modJob_same | with_reducible apply drainStep_same | with_reducible apply put_same
    | with_reducible apply withdraw_same | with_reducible apply setQueue_same
    | with_reducible apply hallCorrected_same | with_reducible apply hallUncorrectable_same
    | with_reducible apply freeListFails_same | with_reducible apply resetQueue_same
    | with_reducible apply queueTo_same | with_reducible apply spoiled_same | with_reducible apply same_foldl
    | with_reducible apply same_overIdx | simp only [↓same_mk_tag] | with_reducible apply SameMk.intro
    | with_reducible apply same_foldl_fst | with_reducible apply same_foldl_snd | split

theorem packetVisible_same {m : Nat} {s0 s : State} {q : Nat} (hm : sub 269222034 m = true) (h : Same m s0 s) :
    Same m s0 (State.packetVisible s q) := by
  refine Same.step ?_ hm h
  unfold State.packetVisible
  try dsimp only
  repeat' first
    | with_reducible exact Same.refl _ _ | exact rfl | with_reducible assumption
    | exact fun (e : Nat.testBit _ _ = false) => absurd e (by decide) | with_reducible exact fun _ => rfl | intro _
    | with_reducible apply same_ite | with_reducible apply drainStep_same | with_reducible apply same_foldl
    | with_reducible apply same_overIdx | simp only [↓same_mk_tag] | with_reducible apply SameMk.intro
    | with_reducible apply same_foldl_fst | with_reducible apply same_foldl_snd | split

theorem rectPaced_same {m : Nat} {s0 s : State} {u : Nat} {t : Task} {old : Nat} (hm : sub 268435458 m = true)
    (h : Same m s0 s) :
    Same m s0 (State.rectPaced s u t old) := by
  refine Same.step ?_ hm h
  unfold State.rectPaced
  try dsimp only
  repeat' first
    | with_reducible exact Same.refl _ _ | exact rfl | with_reducible assumption
    | exact fun (e : Nat.testBit _ _ = false) => absurd e (by decide) | with_reducible exact fun _ => rfl | intro _
    | with_reducible apply same_ite | with_reducible apply modJob_same | with_reducible apply after_same
    | with_reducible apply withdraw_same | with_reducible apply same_foldl | with_reducible apply same_overIdx
    | simp only [↓same_mk_tag] | with_reducible apply SameMk.intro | with_reducible apply same_foldl_fst
    | with_reducible apply same_foldl_snd | split

theorem drainPaced_same {m : Nat} {s0 s : State} {u : Nat} {q : Nat} {old : Nat} (hm : sub 268435458 m = true)
    (h : Same m s0 s) :
    Same m s0 (State.drainPaced s u q old) := by
  refine Same.step ?_ hm h
  unfold State.drainPaced
  try dsimp only
  repeat' first
    | with_reducible exact Same.refl _ _ | exact rfl | with_reducible assumption
    | exact fun (e : Nat.testBit _ _ = false) => absurd e (by decide) | with_reducible exact fun _ => rfl | intro _
    | with_reducible apply same_ite | with_reducible apply after_same | with_reducible apply modJob_same
    | with_reducible apply withdraw_same | with_reducible apply same_foldl | with_reducible apply same_overIdx
    | simp only [↓same_mk_tag] | with_reducible apply SameMk.intro | with_reducible apply same_foldl_fst
    | with_reducible apply same_foldl_snd | split

theorem porterHold_same {m : Nat} {s0 s : State} {u : Nat} (hm : sub 269222034 m = true) (h : Same m s0 s) :
    Same m s0 (State.porterHold s u) := by
  refine Same.step ?_ hm h
  unfold State.porterHold
  try dsimp only
  repeat' first
    | with_reducible exact Same.refl _ _ | exact rfl | with_reducible assumption
    | exact fun (e : Nat.testBit _ _ = false) => absurd e (by decide) | with_reducible exact fun _ => rfl | intro _
    | with_reducible apply same_ite | with_reducible apply withdraw_same | with_reducible apply drainEnd_same
    | with_reducible apply modJob_same | with_reducible apply same_foldl | with_reducible apply same_overIdx
    | simp only [↓same_mk_tag] | with_reducible apply SameMk.intro | with_reducible apply same_foldl_fst
    | with_reducible apply same_foldl_snd | split

theorem porterResume_same {m : Nat} {s0 s : State} {u : Nat} {t : Task} (hm : sub 268435458 m = true)
    (h : Same m s0 s) :
    Same m s0 (State.porterResume s u t) := by
  refine Same.step ?_ hm h
  unfold State.porterResume
  try dsimp only
  repeat' first
    | with_reducible exact Same.refl _ _ | exact rfl | with_reducible assumption
    | exact fun (e : Nat.testBit _ _ = false) => absurd e (by decide) | with_reducible exact fun _ => rfl | intro _
    | with_reducible apply same_ite | with_reducible apply after_same | with_reducible apply modJob_same
    | with_reducible apply same_foldl | with_reducible apply same_overIdx | simp only [↓same_mk_tag]
    | with_reducible apply SameMk.intro | with_reducible apply same_foldl_fst | with_reducible apply same_foldl_snd
    | split

theorem requestsGone_same {m : Nat} {s0 s : State} (hm : sub 269222034 m = true) (h : Same m s0 s) :
    Same m s0 (State.requestsGone s) := by
  refine Same.step ?_ hm h
  unfold State.requestsGone
  try dsimp only
  repeat' first
    | with_reducible exact Same.refl _ _ | exact rfl | with_reducible assumption
    | exact fun (e : Nat.testBit _ _ = false) => absurd e (by decide) | with_reducible exact fun _ => rfl | intro _
    | with_reducible apply same_ite | with_reducible apply porterHold_same | with_reducible apply same_foldl
    | with_reducible apply same_overIdx | simp only [↓same_mk_tag] | with_reducible apply SameMk.intro
    | with_reducible apply same_foldl_fst | with_reducible apply same_foldl_snd | split

theorem porterPaced_same {m : Nat} {s0 s : State} {u : Nat} {old : Nat} (hm : sub 268435458 m = true)
    (h : Same m s0 s) :
    Same m s0 (State.porterPaced s u old) := by
  refine Same.step ?_ hm h
  unfold State.porterPaced
  try dsimp only
  repeat' first
    | with_reducible exact Same.refl _ _ | exact rfl | with_reducible assumption
    | exact fun (e : Nat.testBit _ _ = false) => absurd e (by decide) | with_reducible exact fun _ => rfl | intro _
    | with_reducible apply same_ite | with_reducible apply drainPaced_same | with_reducible apply rectPaced_same
    | with_reducible apply same_foldl | with_reducible apply same_overIdx | simp only [↓same_mk_tag]
    | with_reducible apply SameMk.intro | with_reducible apply same_foldl_fst | with_reducible apply same_foldl_snd
    | split

theorem loadPut_same {m : Nat} {s0 s : State} {t : Task} {off : Nat} {bs : List Byte} (hm : sub 1610612752 m = true)
    (h : Same m s0 s) :
    Same m s0 (State.loadPut s t off bs) := by
  refine Same.step ?_ hm h
  unfold State.loadPut
  try dsimp only
  repeat' first
    | with_reducible exact Same.refl _ _ | exact rfl | with_reducible assumption
    | exact fun (e : Nat.testBit _ _ = false) => absurd e (by decide) | with_reducible exact fun _ => rfl | intro _
    | with_reducible apply same_ite | with_reducible apply storeWrite_same | with_reducible apply put_same
    | with_reducible apply same_foldl | with_reducible apply same_overIdx | simp only [↓same_mk_tag]
    | with_reducible apply SameMk.intro | with_reducible apply same_foldl_fst | with_reducible apply same_foldl_snd
    | split

theorem loadBegin_same {m : Nat} {s0 s : State} {u : Nat} {t : Task} (hm : sub 268697746 m = true) (h : Same m s0 s) :
    Same m s0 (State.loadBegin s u t) := by
  refine Same.step ?_ hm h
  unfold State.loadBegin
  try dsimp only
  repeat' first
    | with_reducible exact Same.refl _ _ | exact rfl | with_reducible assumption
    | exact fun (e : Nat.testBit _ _ = false) => absurd e (by decide) | with_reducible exact fun _ => rfl | intro _
    | with_reducible apply same_ite | with_reducible apply endTask_same | with_reducible apply modJob_same
    | with_reducible apply after_same | with_reducible apply put_same | with_reducible apply same_foldl
    | with_reducible apply same_overIdx | simp only [↓same_mk_tag] | with_reducible apply SameMk.intro
    | with_reducible apply same_foldl_fst | with_reducible apply same_foldl_snd | split

theorem loadOver_same {m : Nat} {s0 s : State} {u : Nat} {status : Nat} (hm : sub 268435458 m = true)
    (h : Same m s0 s) :
    Same m s0 (State.loadOver s u status) := by
  refine Same.step ?_ hm h
  unfold State.loadOver
  try dsimp only
  repeat' first
    | with_reducible exact Same.refl _ _ | exact rfl | with_reducible assumption
    | exact fun (e : Nat.testBit _ _ = false) => absurd e (by decide) | with_reducible exact fun _ => rfl | intro _
    | with_reducible apply same_ite | with_reducible apply after_same | with_reducible apply modJob_same
    | with_reducible apply same_foldl | with_reducible apply same_overIdx | simp only [↓same_mk_tag]
    | with_reducible apply SameMk.intro | with_reducible apply same_foldl_fst | with_reducible apply same_foldl_snd
    | split

theorem loadStep_same {m : Nat} {s0 s : State} {u : Nat} {t : Task} (hm : sub 1879312538 m = true) (h : Same m s0 s) :
    Same m s0 (State.loadStep s u t) := by
  refine Same.step ?_ hm h
  unfold State.loadStep
  try dsimp only
  repeat' first
    | with_reducible exact Same.refl _ _ | exact rfl | with_reducible assumption
    | exact fun (e : Nat.testBit _ _ = false) => absurd e (by decide) | with_reducible exact fun _ => rfl | intro _
    | with_reducible apply same_ite | with_reducible apply loadOver_same | with_reducible apply storeReadCheck_same
    | with_reducible apply freeBytes_same | with_reducible apply hostGet_same | with_reducible apply loadPut_same
    | with_reducible apply modJob_same | with_reducible apply put_same | with_reducible apply after_same
    | with_reducible apply same_foldl | with_reducible apply same_overIdx | simp only [↓same_mk_tag]
    | with_reducible apply SameMk.intro | with_reducible apply same_foldl_fst | with_reducible apply same_foldl_snd
    | split

theorem loadEnd_same {m : Nat} {s0 s : State} {u : Nat} {t : Task} {host : Option (List Byte)}
    (hm : sub 1879310490 m = true) (h : Same m s0 s) :
    Same m s0 (State.loadEnd s u t host) := by
  refine Same.step ?_ hm h
  unfold State.loadEnd
  try dsimp only
  repeat' first
    | with_reducible exact Same.refl _ _ | exact rfl | with_reducible assumption
    | exact fun (e : Nat.testBit _ _ = false) => absurd e (by decide) | with_reducible exact fun _ => rfl | intro _
    | with_reducible apply same_ite | with_reducible apply loadPut_same | with_reducible apply freeBytes_same
    | with_reducible apply storeWrite_same | with_reducible apply endTask_same | with_reducible apply same_foldl
    | with_reducible apply same_overIdx | simp only [↓same_mk_tag] | with_reducible apply SameMk.intro
    | with_reducible apply same_foldl_fst | with_reducible apply same_foldl_snd | split

theorem calFail_same {m : Nat} {s0 s : State} {status : Nat} (hm : sub 268697746 m = true) (h : Same m s0 s) :
    Same m s0 (State.calFail s status) := by
  refine Same.step ?_ hm h
  unfold State.calFail
  try dsimp only
  repeat' first
    | with_reducible exact Same.refl _ _ | exact rfl | with_reducible assumption
    | exact fun (e : Nat.testBit _ _ = false) => absurd e (by decide) | with_reducible exact fun _ => rfl | intro _
    | with_reducible apply same_ite | with_reducible apply endTask_same | with_reducible apply same_foldl
    | with_reducible apply same_overIdx | simp only [↓same_mk_tag] | with_reducible apply SameMk.intro
    | with_reducible apply same_foldl_fst | with_reducible apply same_foldl_snd | split

theorem calBegin_same {m : Nat} {s0 s : State} {t : Task} (hm : sub 268697746 m = true) (h : Same m s0 s) :
    Same m s0 (State.calBegin s t) := by
  refine Same.step ?_ hm h
  unfold State.calBegin
  try dsimp only
  repeat' first
    | with_reducible exact Same.refl _ _ | exact rfl | with_reducible assumption
    | exact fun (e : Nat.testBit _ _ = false) => absurd e (by decide) | with_reducible exact fun _ => rfl | intro _
    | with_reducible apply same_ite | with_reducible apply calFail_same | with_reducible apply modJob_same
    | with_reducible apply put_same | with_reducible apply same_foldl | with_reducible apply same_overIdx
    | simp only [↓same_mk_tag] | with_reducible apply SameMk.intro | with_reducible apply same_foldl_fst
    | with_reducible apply same_foldl_snd | split

theorem accumulate_same {m : Nat} {s0 s : State} {t : Task} {y : CalFrame} {first : Bool}
    (hm : sub 1610612736 m = true) (h : Same m s0 s) :
    Same m s0 (State.accumulate s t y first) := by
  refine Same.step ?_ hm h
  unfold State.accumulate
  try dsimp only
  repeat' first
    | with_reducible exact Same.refl _ _ | exact rfl | with_reducible assumption
    | exact fun (e : Nat.testBit _ _ = false) => absurd e (by decide) | with_reducible exact fun _ => rfl | intro _
    | with_reducible apply same_ite | with_reducible apply storeWrite_same | with_reducible apply same_foldl
    | with_reducible apply same_overIdx | simp only [↓same_mk_tag] | with_reducible apply SameMk.intro
    | with_reducible apply same_foldl_fst | with_reducible apply same_foldl_snd | split

theorem calTake_same {m : Nat} {s0 s : State} {t : Task} {y : CalFrame} (hm : sub 1879310482 m = true)
    (h : Same m s0 s) :
    Same m s0 (State.calTake s t y) := by
  refine Same.step ?_ hm h
  unfold State.calTake
  try dsimp only
  repeat' first
    | with_reducible exact Same.refl _ _ | exact rfl | with_reducible assumption
    | exact fun (e : Nat.testBit _ _ = false) => absurd e (by decide) | with_reducible exact fun _ => rfl | intro _
    | with_reducible apply same_ite | with_reducible apply modJob_same | with_reducible apply calFail_same
    | with_reducible apply accumulate_same | with_reducible apply after_same | with_reducible apply same_foldl
    | with_reducible apply same_overIdx | simp only [↓same_mk_tag] | with_reducible apply SameMk.intro
    | with_reducible apply same_foldl_fst | with_reducible apply same_foldl_snd | split

theorem calStep_same {m : Nat} {s0 s : State} {t : Task} (hm : sub 1879310482 m = true) (h : Same m s0 s) :
    Same m s0 (State.calStep s t) := by
  refine Same.step ?_ hm h
  unfold State.calStep
  try dsimp only
  repeat' first
    | with_reducible exact Same.refl _ _ | exact rfl | with_reducible assumption
    | exact fun (e : Nat.testBit _ _ = false) => absurd e (by decide) | with_reducible exact fun _ => rfl | intro _
    | with_reducible apply same_ite | with_reducible apply calTake_same | with_reducible apply calFail_same
    | with_reducible apply same_foldl | with_reducible apply same_overIdx | simp only [↓same_mk_tag]
    | with_reducible apply SameMk.intro | with_reducible apply same_foldl_fst | with_reducible apply same_foldl_snd
    | split

theorem rowBases_same {m : Nat} {s0 s : State} {map : List (Nat × Nat)} {l : List Mean} (hm : sub 8 m = true)
    (h : Same m s0 s) :
    Same m s0 (State.rowBases s map l).2 := by
  refine Same.step ?_ hm h
  unfold State.rowBases
  try dsimp only
  repeat' first
    | with_reducible exact Same.refl _ _ | exact rfl | with_reducible assumption
    | exact fun (e : Nat.testBit _ _ = false) => absurd e (by decide) | with_reducible exact fun _ => rfl | intro _
    | with_reducible apply same_ite | with_reducible apply free_same | with_reducible apply same_foldl
    | with_reducible apply same_overIdx | simp only [↓same_mk_tag] | with_reducible apply SameMk.intro
    | with_reducible apply same_foldl_fst | with_reducible apply same_foldl_snd | split

theorem stepOf_same {m : Nat} {s0 s : State} {map : List (Nat × Nat)} {b : List ((Nat × Nat) × Int)} {l : List Mean}
    {n : Nat} (hm : sub 8 m = true) (h : Same m s0 s) :
    Same m s0 (State.stepOf s map b l n).2 := by
  refine Same.step ?_ hm h
  unfold State.stepOf
  try dsimp only
  repeat' first
    | with_reducible exact Same.refl _ _ | exact rfl | with_reducible assumption
    | exact fun (e : Nat.testBit _ _ = false) => absurd e (by decide) | with_reducible exact fun _ => rfl | intro _
    | with_reducible apply same_ite | with_reducible apply free_same | with_reducible apply same_foldl
    | with_reducible apply same_overIdx | simp only [↓same_mk_tag] | with_reducible apply SameMk.intro
    | with_reducible apply same_foldl_fst | with_reducible apply same_foldl_snd | split

theorem appendMap_same {m : Nat} {s0 s : State} {area : Nat} {cause : Nat} {l : List (Nat × Nat)}
    (hm : sub 1610612736 m = true) (h : Same m s0 s) :
    Same m s0 (State.appendMap s area cause l).1 := by
  refine Same.step ?_ hm h
  unfold State.appendMap
  try dsimp only
  repeat' first
    | with_reducible exact Same.refl _ _ | exact rfl | with_reducible assumption
    | exact fun (e : Nat.testBit _ _ = false) => absurd e (by decide) | with_reducible exact fun _ => rfl | intro _
    | with_reducible apply same_ite | with_reducible apply storeWrite_same | with_reducible apply same_foldl
    | with_reducible apply same_overIdx | simp only [↓same_mk_tag] | with_reducible apply SameMk.intro
    | with_reducible apply same_foldl_fst | with_reducible apply same_foldl_snd | split

theorem putCode_same {m : Nat} {s0 s : State} {area : Nat} {j : Nat} {row : Nat} {col : Nat} {code : Nat}
    (hm : sub 1610612736 m = true) (h : Same m s0 s) :
    Same m s0 (State.putCode s area j row col code) := by
  refine Same.step ?_ hm h
  unfold State.putCode
  try dsimp only
  repeat' first
    | with_reducible exact Same.refl _ _ | exact rfl | with_reducible assumption
    | exact fun (e : Nat.testBit _ _ = false) => absurd e (by decide) | with_reducible exact fun _ => rfl | intro _
    | with_reducible apply same_ite | with_reducible apply storeWrite_same | with_reducible apply same_foldl
    | with_reducible apply same_overIdx | simp only [↓same_mk_tag] | with_reducible apply SameMk.intro
    | with_reducible apply same_foldl_fst | with_reducible apply same_foldl_snd | split

theorem reduceDark_same {m : Nat} {s0 s : State} {t : Task} (hm : sub 1879310490 m = true) (h : Same m s0 s) :
    Same m s0 (State.reduceDark s t) := by
  refine Same.step ?_ hm h
  unfold State.reduceDark
  try dsimp only
  repeat' first
    | with_reducible exact Same.refl _ _ | exact rfl | with_reducible assumption
    | exact fun (e : Nat.testBit _ _ = false) => absurd e (by decide) | with_reducible exact fun _ => rfl | intro _
    | with_reducible apply same_ite | with_reducible apply rowBases_same | with_reducible apply stepOf_same
    | with_reducible apply storeWrite_same | with_reducible apply putCode_same | with_reducible apply appendMap_same
    | with_reducible apply endTask_same | with_reducible apply put_same | with_reducible apply same_foldl
    | with_reducible apply same_overIdx | simp only [↓same_mk_tag] | with_reducible apply SameMk.intro
    | with_reducible apply same_foldl_fst | with_reducible apply same_foldl_snd | split

theorem reduceFlat_same {m : Nat} {s0 s : State} {t : Task} (hm : sub 1879310490 m = true) (h : Same m s0 s) :
    Same m s0 (State.reduceFlat s t) := by
  refine Same.step ?_ hm h
  unfold State.reduceFlat
  try dsimp only
  repeat' first
    | with_reducible exact Same.refl _ _ | exact rfl | with_reducible assumption
    | exact fun (e : Nat.testBit _ _ = false) => absurd e (by decide) | with_reducible exact fun _ => rfl | intro _
    | with_reducible apply same_ite | with_reducible apply free_same | with_reducible apply storeWrite_same
    | with_reducible apply appendMap_same | with_reducible apply endTask_same | with_reducible apply put_same
    | with_reducible apply same_foldl | with_reducible apply same_overIdx | simp only [↓same_mk_tag]
    | with_reducible apply SameMk.intro | with_reducible apply same_foldl_fst | with_reducible apply same_foldl_snd
    | split

theorem calEnd_same {m : Nat} {s0 s : State} {t : Task} (hm : sub 1879310490 m = true) (h : Same m s0 s) :
    Same m s0 (State.calEnd s t) := by
  refine Same.step ?_ hm h
  unfold State.calEnd
  try dsimp only
  repeat' first
    | with_reducible exact Same.refl _ _ | exact rfl | with_reducible assumption
    | exact fun (e : Nat.testBit _ _ = false) => absurd e (by decide) | with_reducible exact fun _ => rfl | intro _
    | with_reducible apply same_ite | with_reducible apply storeReadCheck_same | with_reducible apply calFail_same
    | with_reducible apply reduceDark_same | with_reducible apply reduceFlat_same | with_reducible apply same_foldl
    | with_reducible apply same_overIdx | simp only [↓same_mk_tag] | with_reducible apply SameMk.intro
    | with_reducible apply same_foldl_fst | with_reducible apply same_foldl_snd | split

theorem resolveRead_same {m : Nat} {s0 s : State} {t : Task} (hm : sub 262290 m = true) (h : Same m s0 s) :
    Same m s0 (State.resolveRead s t).2.2 := by
  refine Same.step ?_ hm h
  unfold State.resolveRead
  try dsimp only
  repeat' first
    | with_reducible exact Same.refl _ _ | exact rfl | with_reducible assumption
    | exact fun (e : Nat.testBit _ _ = false) => absurd e (by decide) | with_reducible exact fun _ => rfl | intro _
    | with_reducible apply same_ite | with_reducible apply storeReadCheck_same | with_reducible apply same_foldl
    | with_reducible apply same_overIdx | simp only [↓same_mk_tag] | with_reducible apply SameMk.intro
    | with_reducible apply same_foldl_fst | with_reducible apply same_foldl_snd | split

theorem calLook_same {m : Nat} {s0 s : State} {p : Nat} (hm : sub 2 m = true) (h : Same m s0 s) :
    Same m s0 (State.calLook s p) := by
  refine Same.step ?_ hm h
  unfold State.calLook
  try dsimp only
  repeat' first
    | with_reducible exact Same.refl _ _ | exact rfl | with_reducible assumption
    | exact fun (e : Nat.testBit _ _ = false) => absurd e (by decide) | with_reducible exact fun _ => rfl | intro _
    | with_reducible apply same_ite | with_reducible apply after_same | with_reducible apply same_foldl
    | with_reducible apply same_overIdx | simp only [↓same_mk_tag] | with_reducible apply SameMk.intro
    | with_reducible apply same_foldl_fst | with_reducible apply same_foldl_snd | split

theorem armFlight_same {m : Nat} {s0 s : State} {t : Task} (hm : sub 270794898 m = true) (h : Same m s0 s) :
    Same m s0 (State.armFlight s t) := by
  refine Same.step ?_ hm h
  unfold State.armFlight
  try dsimp only
  repeat' first
    | with_reducible exact Same.refl _ _ | exact rfl | with_reducible assumption
    | exact fun (e : Nat.testBit _ _ = false) => absurd e (by decide) | with_reducible exact fun _ => rfl | intro _
    | with_reducible apply same_ite | with_reducible apply finish_same | with_reducible apply setPipe_same
    | with_reducible apply put_same | with_reducible apply same_foldl | with_reducible apply same_overIdx
    | simp only [↓same_mk_tag] | with_reducible apply SameMk.intro | with_reducible apply same_foldl_fst
    | with_reducible apply same_foldl_snd | split

theorem flightArmed_same {m : Nat} {s0 s : State} (hm : sub 268697746 m = true) (h : Same m s0 s) :
    Same m s0 (State.flightArmed s) := by
  refine Same.step ?_ hm h
  unfold State.flightArmed
  try dsimp only
  repeat' first
    | with_reducible exact Same.refl _ _ | exact rfl | with_reducible assumption
    | exact fun (e : Nat.testBit _ _ = false) => absurd e (by decide) | with_reducible exact fun _ => rfl | intro _
    | with_reducible apply same_ite | with_reducible apply finish_same | with_reducible apply same_foldl
    | with_reducible apply same_overIdx | simp only [↓same_mk_tag] | with_reducible apply SameMk.intro
    | with_reducible apply same_foldl_fst | with_reducible apply same_foldl_snd | split

theorem disarmFlight_same {m : Nat} {s0 s : State} {t : Task} (hm : sub 270794898 m = true) (h : Same m s0 s) :
    Same m s0 (State.disarmFlight s t) := by
  refine Same.step ?_ hm h
  unfold State.disarmFlight
  try dsimp only
  repeat' first
    | with_reducible exact Same.refl _ _ | exact rfl | with_reducible assumption
    | exact fun (e : Nat.testBit _ _ = false) => absurd e (by decide) | with_reducible exact fun _ => rfl | intro _
    | with_reducible apply same_ite | with_reducible apply finish_same | with_reducible apply put_same
    | with_reducible apply setPipe_same | with_reducible apply after_same | with_reducible apply same_foldl
    | with_reducible apply same_overIdx | simp only [↓same_mk_tag] | with_reducible apply SameMk.intro
    | with_reducible apply same_foldl_fst | with_reducible apply same_foldl_snd | split

theorem runOver_same {m : Nat} {s0 s : State} {p : Nat} (hm : sub 3408026 m = true) (h : Same m s0 s) :
    Same m s0 (State.runOver s p) := by
  refine Same.step ?_ hm h
  unfold State.runOver
  try dsimp only
  repeat' first
    | with_reducible exact Same.refl _ _ | exact rfl | with_reducible assumption
    | exact fun (e : Nat.testBit _ _ = false) => absurd e (by decide) | with_reducible exact fun _ => rfl | intro _
    | with_reducible apply same_ite | with_reducible apply setPipe_same | with_reducible apply stopPort_same
    | with_reducible apply calLook_same | with_reducible apply same_foldl | with_reducible apply same_overIdx
    | simp only [↓same_mk_tag] | with_reducible apply SameMk.intro | with_reducible apply same_foldl_fst
    | with_reducible apply same_foldl_snd | split

theorem flightDisarmed_same {m : Nat} {s0 s : State} (hm : sub 271843482 m = true) (h : Same m s0 s) :
    Same m s0 (State.flightDisarmed s) := by
  refine Same.step ?_ hm h
  unfold State.flightDisarmed
  try dsimp only
  repeat' first
    | with_reducible exact Same.refl _ _ | exact rfl | with_reducible assumption
    | exact fun (e : Nat.testBit _ _ = false) => absurd e (by decide) | with_reducible exact fun _ => rfl | intro _
    | with_reducible apply same_ite | with_reducible apply runOver_same | with_reducible apply put_same
    | with_reducible apply finish_same | with_reducible apply same_foldl | with_reducible apply same_overIdx
    | simp only [↓same_mk_tag] | with_reducible apply SameMk.intro | with_reducible apply same_foldl_fst
    | with_reducible apply same_foldl_snd | split

theorem runOp_same {m : Nat} {s0 s : State} {t : Task} (hm : sub 1881409682 m = true) (h : Same m s0 s) :
    Same m s0 (State.runOp s t) := by
  refine Same.step ?_ hm h
  unfold State.runOp
  try dsimp only
  repeat' first
    | with_reducible exact Same.refl _ _ | exact rfl | with_reducible assumption
    | exact fun (e : Nat.testBit _ _ = false) => absurd e (by decide) | with_reducible exact fun _ => rfl | intro _
    | with_reducible apply same_ite | with_reducible apply finish_same | with_reducible apply arrive_same
    | with_reducible apply startWait_same | with_reducible apply storeWrite_same | with_reducible apply hostPut_same
    | with_reducible apply armFlight_same | with_reducible apply disarmFlight_same | with_reducible apply same_foldl
    | with_reducible apply same_overIdx | simp only [↓same_mk_tag] | with_reducible apply SameMk.intro
    | with_reducible apply same_foldl_fst | with_reducible apply same_foldl_snd | split

theorem failOp_same {m : Nat} {s0 s : State} {t : Task} {status : Nat} (hm : sub 268697746 m = true) (h : Same m s0 s)
    :
    Same m s0 (State.failOp s t status) := by
  refine Same.step ?_ hm h
  unfold State.failOp
  try dsimp only
  repeat' first
    | with_reducible exact Same.refl _ _ | exact rfl | with_reducible assumption
    | exact fun (e : Nat.testBit _ _ = false) => absurd e (by decide) | with_reducible exact fun _ => rfl | intro _
    | with_reducible apply same_ite | with_reducible apply endWait_same | with_reducible apply finish_same
    | with_reducible apply same_foldl | with_reducible apply same_overIdx | simp only [↓same_mk_tag]
    | with_reducible apply SameMk.intro | with_reducible apply same_foldl_fst | with_reducible apply same_foldl_snd
    | split

theorem opAfter_same {m : Nat} {s0 s : State} {t : Task} {n : Nat} (hm : sub 268435458 m = true) (h : Same m s0 s) :
    Same m s0 (State.opAfter s t n) := by
  refine Same.step ?_ hm h
  unfold State.opAfter
  try dsimp only
  repeat' first
    | with_reducible exact Same.refl _ _ | exact rfl | with_reducible assumption
    | exact fun (e : Nat.testBit _ _ = false) => absurd e (by decide) | with_reducible exact fun _ => rfl | intro _
    | with_reducible apply same_ite | with_reducible apply after_same | with_reducible apply same_foldl
    | with_reducible apply same_overIdx | simp only [↓same_mk_tag] | with_reducible apply SameMk.intro
    | with_reducible apply same_foldl_fst | with_reducible apply same_foldl_snd | split

theorem opDue_same {m : Nat} {s0 s : State} {t : Task} (hm : sub 1881409682 m = true) (h : Same m s0 s) :
    Same m s0 (State.opDue s t) := by
  refine Same.step ?_ hm h
  unfold State.opDue
  try dsimp only
  repeat' first
    | with_reducible exact Same.refl _ _ | exact rfl | with_reducible assumption
    | exact fun (e : Nat.testBit _ _ = false) => absurd e (by decide) | with_reducible exact fun _ => rfl | intro _
    | with_reducible apply same_ite | with_reducible apply resolveRead_same | with_reducible apply opAfter_same
    | with_reducible apply failOp_same | with_reducible apply runOp_same | with_reducible apply same_foldl
    | with_reducible apply same_overIdx | simp only [↓same_mk_tag] | with_reducible apply SameMk.intro
    | with_reducible apply same_foldl_fst | with_reducible apply same_foldl_snd | split

theorem runOps_same {m : Nat} {s0 s : State} (hm : sub 1881409682 m = true) (h : Same m s0 s) :
    Same m s0 (State.runOps s) := by
  refine Same.step ?_ hm h
  unfold State.runOps
  try dsimp only
  repeat' first
    | with_reducible exact Same.refl _ _ | exact rfl | with_reducible assumption
    | exact fun (e : Nat.testBit _ _ = false) => absurd e (by decide) | with_reducible exact fun _ => rfl | intro _
    | with_reducible apply same_ite | with_reducible apply opDue_same | with_reducible apply same_foldl
    | with_reducible apply same_overIdx | simp only [↓same_mk_tag] | with_reducible apply SameMk.intro
    | with_reducible apply same_foldl_fst | with_reducible apply same_foldl_snd | split

theorem take_same {m : Nat} {s0 s : State} {i : Nat} (hm : sub 1881409682 m = true) (h : Same m s0 s) :
    Same m s0 (State.take s i) := by
  refine Same.step ?_ hm h
  unfold State.take
  try dsimp only
  repeat' first
    | with_reducible exact Same.refl _ _ | exact rfl | with_reducible assumption
    | exact fun (e : Nat.testBit _ _ = false) => absurd e (by decide) | with_reducible exact fun _ => rfl | intro _
    | with_reducible apply same_ite | with_reducible apply modRing_same | with_reducible apply bump_same
    | with_reducible apply put_same | with_reducible apply finish_same | with_reducible apply runOp_same
    | with_reducible apply resolveRead_same | with_reducible apply opAfter_same
    | with_reducible apply dispatchSoon_same | with_reducible apply modSlot_same | with_reducible apply same_foldl
    | with_reducible apply same_overIdx | simp only [↓same_mk_tag] | with_reducible apply SameMk.intro
    | with_reducible apply same_foldl_fst | with_reducible apply same_foldl_snd | split

theorem takeRound_same {m : Nat} {s0 s : State} (hm : sub 1881409682 m = true) (h : Same m s0 s) :
    Same m s0 (State.takeRound s) := by
  refine Same.step ?_ hm h
  unfold State.takeRound
  try dsimp only
  repeat' first
    | with_reducible exact Same.refl _ _ | exact rfl | with_reducible assumption
    | exact fun (e : Nat.testBit _ _ = false) => absurd e (by decide) | with_reducible exact fun _ => rfl | intro _
    | with_reducible apply same_ite | with_reducible apply haltRing_same | with_reducible apply bump_same
    | with_reducible apply kickAt_same | with_reducible apply take_same | with_reducible apply same_foldl
    | with_reducible apply same_overIdx | simp only [↓same_mk_tag] | with_reducible apply SameMk.intro
    | with_reducible apply same_foldl_fst | with_reducible apply same_foldl_snd | split

theorem captureBegin_same {m : Nat} {s0 s : State} {u : Nat} {t : Task} (hm : sub 270794898 m = true)
    (h : Same m s0 s) :
    Same m s0 (State.captureBegin s u t) := by
  refine Same.step ?_ hm h
  unfold State.captureBegin
  try dsimp only
  repeat' first
    | with_reducible exact Same.refl _ _ | exact rfl | with_reducible assumption
    | exact fun (e : Nat.testBit _ _ = false) => absurd e (by decide) | with_reducible exact fun _ => rfl | intro _
    | with_reducible apply same_ite | with_reducible apply endTask_same | with_reducible apply modJob_same
    | with_reducible apply setPipe_same | with_reducible apply same_foldl | with_reducible apply same_overIdx
    | simp only [↓same_mk_tag] | with_reducible apply SameMk.intro | with_reducible apply same_foldl_fst
    | with_reducible apply same_foldl_snd | split

theorem beginTask_same {m : Nat} {s0 s : State} {u : Nat} {r : Task} (hm : sub 271319186 m = true) (h : Same m s0 s) :
    Same m s0 (State.beginTask s u r) := by
  refine Same.step ?_ hm h
  unfold State.beginTask
  try dsimp only
  repeat' first
    | with_reducible exact Same.refl _ _ | exact rfl | with_reducible assumption
    | exact fun (e : Nat.testBit _ _ = false) => absurd e (by decide) | with_reducible exact fun _ => rfl | intro _
    | with_reducible apply same_ite | with_reducible apply endTask_same | with_reducible apply drainBegin_same
    | with_reducible apply rectBegin_same | with_reducible apply loadBegin_same | with_reducible apply calBegin_same
    | with_reducible apply arcBegin_same | with_reducible apply captureBegin_same | with_reducible apply same_foldl
    | with_reducible apply same_overIdx | simp only [↓same_mk_tag] | with_reducible apply SameMk.intro
    | with_reducible apply same_foldl_fst | with_reducible apply same_foldl_snd | split

theorem stepTask_same {m : Nat} {s0 s : State} {u : Nat} {t : Task} (hm : sub 10469771418 m = true) (h : Same m s0 s)
    :
    Same m s0 (State.stepTask s u t) := by
  refine Same.step ?_ hm h
  unfold State.stepTask
  try dsimp only
  repeat' first
    | with_reducible exact Same.refl _ _ | exact rfl | with_reducible assumption
    | exact fun (e : Nat.testBit _ _ = false) => absurd e (by decide) | with_reducible exact fun _ => rfl | intro _
    | with_reducible apply same_ite | with_reducible apply drainStep_same | with_reducible apply loadStep_same
    | with_reducible apply calStep_same | with_reducible apply arcStep_same | with_reducible apply same_foldl
    | with_reducible apply same_overIdx | simp only [↓same_mk_tag] | with_reducible apply SameMk.intro
    | with_reducible apply same_foldl_fst | with_reducible apply same_foldl_snd | split

theorem dispatch_same {m : Nat} {s0 s : State} {u : Nat} (hm : sub 10471868570 m = true) (h : Same m s0 s) :
    Same m s0 (State.dispatch s u) := by
  refine Same.step ?_ hm h
  unfold State.dispatch
  try dsimp only
  repeat' first
    | with_reducible exact Same.refl _ _ | exact rfl | with_reducible assumption
    | exact fun (e : Nat.testBit _ _ = false) => absurd e (by decide) | with_reducible exact fun _ => rfl | intro _
    | with_reducible apply same_ite | with_reducible apply runOps_same | with_reducible apply beginTask_same
    | with_reducible apply stepTask_same | with_reducible apply resolveRead_same | with_reducible apply modSlot_same
    | with_reducible apply kick_same | with_reducible apply after_same | with_reducible apply same_foldl
    | with_reducible apply same_overIdx | simp only [↓same_mk_tag] | with_reducible apply SameMk.intro
    | with_reducible apply same_foldl_fst | with_reducible apply same_foldl_snd | split

theorem captureEnd_same {m : Nat} {s0 s : State} {u : Nat} (hm : sub 270794898 m = true) (h : Same m s0 s) :
    Same m s0 (State.captureEnd s u) := by
  refine Same.step ?_ hm h
  unfold State.captureEnd
  try dsimp only
  repeat' first
    | with_reducible exact Same.refl _ _ | exact rfl | with_reducible assumption
    | exact fun (e : Nat.testBit _ _ = false) => absurd e (by decide) | with_reducible exact fun _ => rfl | intro _
    | with_reducible apply same_ite | with_reducible apply endTask_same | with_reducible apply setPipe_same
    | with_reducible apply calLook_same | with_reducible apply same_foldl | with_reducible apply same_overIdx
    | simp only [↓same_mk_tag] | with_reducible apply SameMk.intro | with_reducible apply same_foldl_fst
    | with_reducible apply same_foldl_snd | split

theorem taskEnd_same {m : Nat} {s0 s : State} {u : Nat} {host : Option (List Byte)} {corr : Nat}
    (hm : sub 1881409690 m = true) (h : Same m s0 s) :
    Same m s0 (State.taskEnd s u host corr) := by
  refine Same.step ?_ hm h
  unfold State.taskEnd
  try dsimp only
  repeat' first
    | with_reducible exact Same.refl _ _ | exact rfl | with_reducible assumption
    | exact fun (e : Nat.testBit _ _ = false) => absurd e (by decide) | with_reducible exact fun _ => rfl | intro _
    | with_reducible apply same_ite | with_reducible apply rectEnd_same | with_reducible apply loadEnd_same
    | with_reducible apply calEnd_same | with_reducible apply arcReadEnd_same | with_reducible apply captureEnd_same
    | with_reducible apply same_foldl | with_reducible apply same_overIdx | simp only [↓same_mk_tag]
    | with_reducible apply SameMk.intro | with_reducible apply same_foldl_fst | with_reducible apply same_foldl_snd
    | split

theorem captureAbort_same {m : Nat} {s0 s : State} {p : Nat} (hm : sub 272367770 m = true) (h : Same m s0 s) :
    Same m s0 (State.captureAbort s p) := by
  refine Same.step ?_ hm h
  unfold State.captureAbort
  try dsimp only
  repeat' first
    | with_reducible exact Same.refl _ _ | exact rfl | with_reducible assumption
    | exact fun (e : Nat.testBit _ _ = false) => absurd e (by decide) | with_reducible exact fun _ => rfl | intro _
    | with_reducible apply same_ite | with_reducible apply stopPipe_same | with_reducible apply stopPort_same
    | with_reducible apply modJob_same | with_reducible apply after_same | with_reducible apply calLook_same
    | with_reducible apply same_foldl | with_reducible apply same_overIdx | simp only [↓same_mk_tag]
    | with_reducible apply SameMk.intro | with_reducible apply same_foldl_fst | with_reducible apply same_foldl_snd
    | split

theorem abortTask_same {m : Nat} {s0 s : State} {u : Nat} (hm : sub 1882982554 m = true) (h : Same m s0 s) :
    Same m s0 (State.abortTask s u) := by
  refine Same.step ?_ hm h
  unfold State.abortTask
  try dsimp only
  repeat' first
    | with_reducible exact Same.refl _ _ | exact rfl | with_reducible assumption
    | exact fun (e : Nat.testBit _ _ = false) => absurd e (by decide) | with_reducible exact fun _ => rfl | intro _
    | with_reducible apply same_ite | with_reducible apply endTask_same | with_reducible apply modJob_same
    | with_reducible apply drainEnd_same | with_reducible apply drainStep_same | with_reducible apply rectStop_same
    | with_reducible apply loadStep_same | with_reducible apply calFail_same | with_reducible apply arcAbort_same
    | with_reducible apply captureAbort_same | with_reducible apply same_foldl | with_reducible apply same_overIdx
    | simp only [↓same_mk_tag] | with_reducible apply SameMk.intro | with_reducible apply same_foldl_fst
    | with_reducible apply same_foldl_snd | split

theorem abortMask_same {m : Nat} {s0 s : State} {mask : Nat} (hm : sub 1882982554 m = true) (h : Same m s0 s) :
    Same m s0 (State.abortMask s mask) := by
  refine Same.step ?_ hm h
  unfold State.abortMask
  try dsimp only
  repeat' first
    | with_reducible exact Same.refl _ _ | exact rfl | with_reducible assumption
    | exact fun (e : Nat.testBit _ _ = false) => absurd e (by decide) | with_reducible exact fun _ => rfl | intro _
    | with_reducible apply same_ite | with_reducible apply abortTask_same | with_reducible apply same_foldl
    | with_reducible apply same_overIdx | simp only [↓same_mk_tag] | with_reducible apply SameMk.intro
    | with_reducible apply same_foldl_fst | with_reducible apply same_foldl_snd | split

theorem readError_same {m : Nat} {s0 s : State} {u : Nat} (hm : sub 1879312538 m = true) (h : Same m s0 s) :
    Same m s0 (State.readError s u) := by
  refine Same.step ?_ hm h
  unfold State.readError
  try dsimp only
  repeat' first
    | with_reducible exact Same.refl _ _ | exact rfl | with_reducible assumption
    | exact fun (e : Nat.testBit _ _ = false) => absurd e (by decide) | with_reducible exact fun _ => rfl | intro _
    | with_reducible apply same_ite | with_reducible apply rectStop_same | with_reducible apply loadOver_same
    | with_reducible apply same_foldl | with_reducible apply same_overIdx | simp only [↓same_mk_tag]
    | with_reducible apply SameMk.intro | with_reducible apply same_foldl_fst | with_reducible apply same_foldl_snd
    | split

theorem requestsBack_same {m : Nat} {s0 s : State} (hm : sub 1879312402 m = true) (h : Same m s0 s) :
    Same m s0 (State.requestsBack s) := by
  refine Same.step ?_ hm h
  unfold State.requestsBack
  try dsimp only
  repeat' first
    | with_reducible exact Same.refl _ _ | exact rfl | with_reducible assumption
    | exact fun (e : Nat.testBit _ _ = false) => absurd e (by decide) | with_reducible exact fun _ => rfl | intro _
    | with_reducible apply same_ite | with_reducible apply message_same | with_reducible apply flushNotices_same
    | with_reducible apply writeCompletions_same | with_reducible apply fetchSoon_same
    | with_reducible apply after_same | with_reducible apply porterResume_same | with_reducible apply kick_same
    | with_reducible apply same_foldl | with_reducible apply same_overIdx | simp only [↓same_mk_tag]
    | with_reducible apply SameMk.intro | with_reducible apply same_foldl_fst | with_reducible apply same_foldl_snd
    | split

theorem readStrap_same {m : Nat} {s0 s : State} {ohms : Nat} (hm : sub 8 m = true) (h : Same m s0 s) :
    Same m s0 (State.readStrap s ohms).2 := by
  refine Same.step ?_ hm h
  unfold State.readStrap
  try dsimp only
  repeat' first
    | with_reducible exact Same.refl _ _ | exact rfl | with_reducible assumption
    | exact fun (e : Nat.testBit _ _ = false) => absurd e (by decide) | with_reducible exact fun _ => rfl | intro _
    | with_reducible apply same_ite | with_reducible apply free_same | with_reducible apply same_foldl
    | with_reducible apply same_overIdx | simp only [↓same_mk_tag] | with_reducible apply SameMk.intro
    | with_reducible apply same_foldl_fst | with_reducible apply same_foldl_snd | split

theorem readStraps_same {m : Nat} {s0 s : State} {a0 : List Nat} (hm : sub 8 m = true) (h : Same m s0 s) :
    Same m s0 (State.readStraps s a0).2 := by
  refine Same.step ?_ hm h
  clear h
  induction a0 generalizing s with
  | nil => exact Same.refl _ _
  | cons a l ih =>
    unfold State.readStraps
    try dsimp only
    repeat' first
      | with_reducible exact Same.refl _ _ | exact rfl | with_reducible assumption
      | exact fun (e : Nat.testBit _ _ = false) => absurd e (by decide) | with_reducible exact fun _ => rfl | intro _
      | with_reducible apply same_ite | (with_reducible apply Same.step (hm := sub_self _) ih)
      | with_reducible apply readStrap_same | with_reducible apply same_foldl | with_reducible apply same_overIdx
      | simp only [↓same_mk_tag] | with_reducible apply SameMk.intro | with_reducible apply same_foldl_fst
      | with_reducible apply same_foldl_snd | split

theorem modMember_same {m : Nat} {s0 s : State} {g : Nat} {f : Member → Member} (hm : sub 16777216 m = true)
    (h : Same m s0 s) :
    Same m s0 (State.modMember s g f) := by
  refine Same.step ?_ hm h
  unfold State.modMember
  try dsimp only
  repeat' first
    | with_reducible exact Same.refl _ _ | exact rfl | with_reducible assumption
    | exact fun (e : Nat.testBit _ _ = false) => absurd e (by decide) | with_reducible exact fun _ => rfl | intro _
    | with_reducible apply same_ite | with_reducible apply same_foldl | with_reducible apply same_overIdx
    | simp only [↓same_mk_tag] | with_reducible apply SameMk.intro | with_reducible apply same_foldl_fst
    | with_reducible apply same_foldl_snd | split

theorem late__same {m : Nat} {s0 s : State} {g : Nat} {fire : Nat} (hm : sub 262290 m = true) (h : Same m s0 s) :
    Same m s0 (State.late_ s g fire) := by
  refine Same.step ?_ hm h
  unfold State.late_
  try dsimp only
  repeat' first
    | with_reducible exact Same.refl _ _ | exact rfl | with_reducible assumption
    | exact fun (e : Nat.testBit _ _ = false) => absurd e (by decide) | with_reducible exact fun _ => rfl | intro _
    | with_reducible apply same_ite | with_reducible apply bump_same | with_reducible apply put_same
    | with_reducible apply putPair_same | with_reducible apply sticky_same | with_reducible apply same_foldl
    | with_reducible apply same_overIdx | simp only [↓same_mk_tag] | with_reducible apply SameMk.intro
    | with_reducible apply same_foldl_fst | with_reducible apply same_foldl_snd | split

theorem noGallery_same {m : Nat} {s0 s : State} {g : Nat} (hm : sub 262290 m = true) (h : Same m s0 s) :
    Same m s0 (State.noGallery s g) := by
  refine Same.step ?_ hm h
  unfold State.noGallery
  try dsimp only
  repeat' first
    | with_reducible exact Same.refl _ _ | exact rfl | with_reducible assumption
    | exact fun (e : Nat.testBit _ _ = false) => absurd e (by decide) | with_reducible exact fun _ => rfl | intro _
    | with_reducible apply same_ite | with_reducible apply bump_same | with_reducible apply sticky_same
    | with_reducible apply same_foldl | with_reducible apply same_overIdx | simp only [↓same_mk_tag]
    | with_reducible apply SameMk.intro | with_reducible apply same_foldl_fst | with_reducible apply same_foldl_snd
    | split

theorem dropFires_same {m : Nat} {s0 s : State} {g : Nat} (hm : sub 786578 m = true) (h : Same m s0 s) :
    Same m s0 (State.dropFires s g) := by
  refine Same.step ?_ hm h
  unfold State.dropFires
  try dsimp only
  repeat' first
    | with_reducible exact Same.refl _ _ | exact rfl | with_reducible assumption
    | exact fun (e : Nat.testBit _ _ = false) => absurd e (by decide) | with_reducible exact fun _ => rfl | intro _
    | with_reducible apply same_ite | with_reducible apply noGallery_same | with_reducible apply setFire_same
    | with_reducible apply same_foldl | with_reducible apply same_overIdx | simp only [↓same_mk_tag]
    | with_reducible apply SameMk.intro | with_reducible apply same_foldl_fst | with_reducible apply same_foldl_snd
    | split

theorem atLoc_same {m : Nat} {s0 s : State} {g : Nat} {t : Nat} {c : Instr} (hm : sub 2 m = true) (h : Same m s0 s) :
    Same m s0 (State.atLoc s g t c) := by
  refine Same.step ?_ hm h
  unfold State.atLoc
  try dsimp only
  repeat' first
    | with_reducible exact Same.refl _ _ | exact rfl | with_reducible assumption
    | exact fun (e : Nat.testBit _ _ = false) => absurd e (by decide) | with_reducible exact fun _ => rfl | intro _
    | with_reducible apply same_ite | with_reducible apply after_same | with_reducible apply same_foldl
    | with_reducible apply same_overIdx | simp only [↓same_mk_tag] | with_reducible apply SameMk.intro
    | with_reducible apply same_foldl_fst | with_reducible apply same_foldl_snd | split

theorem setStation_same {m : Nat} {s0 s : State} {g : Nat} {x : Station} (hm : sub 33554432 m = true)
    (h : Same m s0 s) :
    Same m s0 (State.setStation s g x) := by
  refine Same.step ?_ hm h
  unfold State.setStation
  try dsimp only
  repeat' first
    | with_reducible exact Same.refl _ _ | exact rfl | with_reducible assumption
    | exact fun (e : Nat.testBit _ _ = false) => absurd e (by decide) | with_reducible exact fun _ => rfl | intro _
    | with_reducible apply same_ite | with_reducible apply same_foldl | with_reducible apply same_overIdx
    | simp only [↓same_mk_tag] | with_reducible apply SameMk.intro | with_reducible apply same_foldl_fst
    | with_reducible apply same_foldl_snd | split

theorem galleryOn_same {m : Nat} {s0 s : State} {g : Nat} {ohms : List Nat} {rev : Nat} (hm : sub 33554440 m = true)
    (h : Same m s0 s) :
    Same m s0 (State.galleryOn s g ohms rev) := by
  refine Same.step ?_ hm h
  unfold State.galleryOn
  try dsimp only
  repeat' first
    | with_reducible exact Same.refl _ _ | exact rfl | with_reducible assumption
    | exact fun (e : Nat.testBit _ _ = false) => absurd e (by decide) | with_reducible exact fun _ => rfl | intro _
    | with_reducible apply same_ite | with_reducible apply readStraps_same | with_reducible apply setStation_same
    | with_reducible apply same_foldl | with_reducible apply same_overIdx | simp only [↓same_mk_tag]
    | with_reducible apply SameMk.intro | with_reducible apply same_foldl_fst | with_reducible apply same_foldl_snd
    | split

theorem awaitUnit_same {m : Nat} {s0 s : State} (hm : sub 2 m = true) (h : Same m s0 s) :
    Same m s0 (State.awaitUnit s) := by
  refine Same.step ?_ hm h
  unfold State.awaitUnit
  try dsimp only
  repeat' first
    | with_reducible exact Same.refl _ _ | exact rfl | with_reducible assumption
    | exact fun (e : Nat.testBit _ _ = false) => absurd e (by decide) | with_reducible exact fun _ => rfl | intro _
    | with_reducible apply same_ite | with_reducible apply after_same | with_reducible apply same_foldl
    | with_reducible apply same_overIdx | simp only [↓same_mk_tag] | with_reducible apply SameMk.intro
    | with_reducible apply same_foldl_fst | with_reducible apply same_foldl_snd | split

theorem awaitPhrase_same {m : Nat} {s0 s : State} (hm : sub 2 m = true) (h : Same m s0 s) :
    Same m s0 (State.awaitPhrase s) := by
  refine Same.step ?_ hm h
  unfold State.awaitPhrase
  try dsimp only
  repeat' first
    | with_reducible exact Same.refl _ _ | exact rfl | with_reducible assumption
    | exact fun (e : Nat.testBit _ _ = false) => absurd e (by decide) | with_reducible exact fun _ => rfl | intro _
    | with_reducible apply same_ite | with_reducible apply after_same | with_reducible apply same_foldl
    | with_reducible apply same_overIdx | simp only [↓same_mk_tag] | with_reducible apply SameMk.intro
    | with_reducible apply same_foldl_fst | with_reducible apply same_foldl_snd | split

theorem endPhrases_same {m : Nat} {s0 s : State} {g : Nat} (hm : sub 33554434 m = true) (h : Same m s0 s) :
    Same m s0 (State.endPhrases s g) := by
  refine Same.step ?_ hm h
  unfold State.endPhrases
  try dsimp only
  repeat' first
    | with_reducible exact Same.refl _ _ | exact rfl | with_reducible assumption
    | exact fun (e : Nat.testBit _ _ = false) => absurd e (by decide) | with_reducible exact fun _ => rfl | intro _
    | with_reducible apply same_ite | with_reducible apply awaitPhrase_same | with_reducible apply awaitUnit_same
    | with_reducible apply same_foldl | with_reducible apply same_overIdx | simp only [↓same_mk_tag]
    | with_reducible apply SameMk.intro | with_reducible apply same_foldl_fst | with_reducible apply same_foldl_snd
    | split

theorem stopPulses_same {m : Nat} {s0 s : State} {g : Nat} {q : Pulse → Bool} (hm : sub 33554440 m = true)
    (h : Same m s0 s) :
    Same m s0 (State.stopPulses s g q) := by
  refine Same.step ?_ hm h
  unfold State.stopPulses
  try dsimp only
  repeat' first
    | with_reducible exact Same.refl _ _ | exact rfl | with_reducible assumption
    | exact fun (e : Nat.testBit _ _ = false) => absurd e (by decide) | with_reducible exact fun _ => rfl | intro _
    | with_reducible apply same_ite | with_reducible apply free_same | with_reducible apply setStation_same
    | with_reducible apply same_foldl | with_reducible apply same_overIdx | simp only [↓same_mk_tag]
    | with_reducible apply SameMk.intro | with_reducible apply same_foldl_fst | with_reducible apply same_foldl_snd
    | split

theorem parkPulses_same {m : Nat} {s0 s : State} {g : Nat} (hm : sub 33554440 m = true) (h : Same m s0 s) :
    Same m s0 (State.parkPulses s g) := by
  refine Same.step ?_ hm h
  unfold State.parkPulses
  try dsimp only
  repeat' first
    | with_reducible exact Same.refl _ _ | exact rfl | with_reducible assumption
    | exact fun (e : Nat.testBit _ _ = false) => absurd e (by decide) | with_reducible exact fun _ => rfl | intro _
    | with_reducible apply same_ite | with_reducible apply stopPulses_same | with_reducible apply same_foldl
    | with_reducible apply same_overIdx | simp only [↓same_mk_tag] | with_reducible apply SameMk.intro
    | with_reducible apply same_foldl_fst | with_reducible apply same_foldl_snd | split

theorem takeFrameDue_same {m : Nat} {s0 s : State} {g : Nat} {k : Nat} (hm : sub 16777216 m = true) (h : Same m s0 s)
    :
    Same m s0 (State.takeFrameDue s g k).2 := by
  refine Same.step ?_ hm h
  unfold State.takeFrameDue
  try dsimp only
  repeat' first
    | with_reducible exact Same.refl _ _ | exact rfl | with_reducible assumption
    | exact fun (e : Nat.testBit _ _ = false) => absurd e (by decide) | with_reducible exact fun _ => rfl | intro _
    | with_reducible apply same_ite | with_reducible apply same_foldl | with_reducible apply same_overIdx
    | simp only [↓same_mk_tag] | with_reducible apply SameMk.intro | with_reducible apply same_foldl_fst
    | with_reducible apply same_foldl_snd | split

theorem receive_same {m : Nat} {s : State} {g : Nat} {f : LinkFrame} {rx : Rx} {act : State → LinkFrame → State}
    (hm : sub 33554432 m = true) (h_act : ∀ t f, Same m t (act t f)) :
    Same m s (State.receive s g f rx act) := by
  unfold State.receive
  dsimp only
  refine same_ite (Same.refl _ _) ?_
  split
  · exact setStation_same hm (Same.refl _ _)
  · exact h_act _ _

theorem fireAccepted_same {m : Nat} {s0 s : State} {g : Nat} {f : LinkFrame} (hm : sub 33554434 m = true)
    (h : Same m s0 s) :
    Same m s0 (State.fireAccepted s g f) := by
  refine Same.step ?_ hm h
  unfold State.fireAccepted
  try dsimp only
  repeat' first
    | with_reducible exact Same.refl _ _ | exact rfl | with_reducible assumption
    | exact fun (e : Nat.testBit _ _ = false) => absurd e (by decide) | with_reducible exact fun _ => rfl | intro _
    | with_reducible apply same_ite | with_reducible apply setStation_same | with_reducible apply atLoc_same
    | with_reducible apply same_foldl | with_reducible apply same_overIdx | simp only [↓same_mk_tag]
    | with_reducible apply SameMk.intro | with_reducible apply same_foldl_fst | with_reducible apply same_foldl_snd
    | split

theorem outsetAccepted_same {m : Nat} {s0 s : State} {g : Nat} {f : LinkFrame} (hm : sub 33554440 m = true)
    (h : Same m s0 s) :
    Same m s0 (State.outsetAccepted s g f) := by
  refine Same.step ?_ hm h
  unfold State.outsetAccepted
  try dsimp only
  repeat' first
    | with_reducible exact Same.refl _ _ | exact rfl | with_reducible assumption
    | exact fun (e : Nat.testBit _ _ = false) => absurd e (by decide) | with_reducible exact fun _ => rfl | intro _
    | with_reducible apply same_ite | with_reducible apply stopPulses_same | with_reducible apply parkPulses_same
    | with_reducible apply setStation_same | with_reducible apply same_foldl | with_reducible apply same_overIdx
    | simp only [↓same_mk_tag] | with_reducible apply SameMk.intro | with_reducible apply same_foldl_fst
    | with_reducible apply same_foldl_snd | split

theorem regwAccepted_same {m : Nat} {s0 s : State} {g : Nat} {f : LinkFrame} (hm : sub 33554432 m = true)
    (h : Same m s0 s) :
    Same m s0 (State.regwAccepted s g f) := by
  refine Same.step ?_ hm h
  unfold State.regwAccepted
  try dsimp only
  repeat' first
    | with_reducible exact Same.refl _ _ | exact rfl | with_reducible assumption
    | exact fun (e : Nat.testBit _ _ = false) => absurd e (by decide) | with_reducible exact fun _ => rfl | intro _
    | with_reducible apply same_ite | with_reducible apply setStation_same | with_reducible apply same_foldl
    | with_reducible apply same_overIdx | simp only [↓same_mk_tag] | with_reducible apply SameMk.intro
    | with_reducible apply same_foldl_fst | with_reducible apply same_foldl_snd | split

theorem regrAccepted_same {m : Nat} {s0 s : State} {g : Nat} {f : LinkFrame} (hm : sub 33554432 m = true)
    (h : Same m s0 s) :
    Same m s0 (State.regrAccepted s g f) := by
  refine Same.step ?_ hm h
  unfold State.regrAccepted
  try dsimp only
  repeat' first
    | with_reducible exact Same.refl _ _ | exact rfl | with_reducible assumption
    | exact fun (e : Nat.testBit _ _ = false) => absurd e (by decide) | with_reducible exact fun _ => rfl | intro _
    | with_reducible apply same_ite | with_reducible apply setStation_same | with_reducible apply same_foldl
    | with_reducible apply same_overIdx | simp only [↓same_mk_tag] | with_reducible apply SameMk.intro
    | with_reducible apply same_foldl_fst | with_reducible apply same_foldl_snd | split

theorem setupAccepted_same {m : Nat} {s0 s : State} {g : Nat} {f : LinkFrame} (hm : sub 33554432 m = true)
    (h : Same m s0 s) :
    Same m s0 (State.setupAccepted s g f) := by
  refine Same.step ?_ hm h
  unfold State.setupAccepted
  try dsimp only
  repeat' first
    | with_reducible exact Same.refl _ _ | exact rfl | with_reducible assumption
    | exact fun (e : Nat.testBit _ _ = false) => absurd e (by decide) | with_reducible exact fun _ => rfl | intro _
    | with_reducible apply same_ite | with_reducible apply setStation_same | with_reducible apply same_foldl
    | with_reducible apply same_overIdx | simp only [↓same_mk_tag] | with_reducible apply SameMk.intro
    | with_reducible apply same_foldl_fst | with_reducible apply same_foldl_snd | split

theorem accept_same {m : Nat} {s0 s : State} {g : Nat} {f : LinkFrame} (hm : sub 33554442 m = true) (h : Same m s0 s)
    :
    Same m s0 (State.accept s g f) := by
  refine Same.step ?_ hm h
  unfold State.accept
  try dsimp only
  repeat' first
    | with_reducible exact Same.refl _ _ | exact rfl | with_reducible assumption
    | exact fun (e : Nat.testBit _ _ = false) => absurd e (by decide) | with_reducible exact fun _ => rfl | intro _
    | with_reducible apply same_ite | with_reducible apply fireAccepted_same
    | with_reducible apply outsetAccepted_same | with_reducible apply regwAccepted_same
    | with_reducible apply regrAccepted_same | with_reducible apply setupAccepted_same
    | with_reducible apply same_foldl | with_reducible apply same_overIdx | simp only [↓same_mk_tag]
    | with_reducible apply SameMk.intro | with_reducible apply same_foldl_fst | with_reducible apply same_foldl_snd
    | split

theorem acceptFrame_same {m : Nat} {s0 s : State} {g k : Nat} {rx : Rx} (hm : sub 50331658 m = true)
    (h : Same m s0 s) : Same m s0 (State.acceptFrame s g k rx) := by
  refine Same.step ?_ hm h
  have e := takeFrameDue_same (m := 50331658) (s0 := s) (s := s) (g := g) (k := k) (by decide) (Same.refl _ _)
  unfold State.acceptFrame
  generalize State.takeFrameDue s g k = p at *
  obtain ⟨o, t⟩ := p
  cases o with
  | none => exact e
  | some f => exact e.trans (receive_same (by decide) fun _ _ => accept_same (by decide) (Same.refl _ _))

theorem timeInvalid_same {m : Nat} {s0 s : State} {g : Nat} {diff : Int} (hm : sub 33554440 m = true)
    (h : Same m s0 s) :
    Same m s0 (State.timeInvalid s g diff) := by
  refine Same.step ?_ hm h
  unfold State.timeInvalid
  try dsimp only
  repeat' first
    | with_reducible exact Same.refl _ _ | exact rfl | with_reducible assumption
    | exact fun (e : Nat.testBit _ _ = false) => absurd e (by decide) | with_reducible exact fun _ => rfl | intro _
    | with_reducible apply same_ite | with_reducible apply parkPulses_same | with_reducible apply setStation_same
    | with_reducible apply same_foldl | with_reducible apply same_overIdx | simp only [↓same_mk_tag]
    | with_reducible apply SameMk.intro | with_reducible apply same_foldl_fst | with_reducible apply same_foldl_snd
    | split

theorem retime_same {m : Nat} {s0 s : State} {g : Nat} (hm : sub 2 m = true) (h : Same m s0 s) :
    Same m s0 (State.retime s g) := by
  refine Same.step ?_ hm h
  unfold State.retime
  try dsimp only
  repeat' first
    | with_reducible exact Same.refl _ _ | exact rfl | with_reducible assumption
    | exact fun (e : Nat.testBit _ _ = false) => absurd e (by decide) | with_reducible exact fun _ => rfl | intro _
    | with_reducible apply same_ite | with_reducible apply atLoc_same | with_reducible apply same_foldl
    | with_reducible apply same_overIdx | simp only [↓same_mk_tag] | with_reducible apply SameMk.intro
    | with_reducible apply same_foldl_fst | with_reducible apply same_foldl_snd | split

theorem countCycle_same {m : Nat} {s0 s : State} {g : Nat} {w : Nat} {cyc : Nat} {len : Nat}
    (hm : sub 33554434 m = true) (h : Same m s0 s) :
    Same m s0 (State.countCycle s g w cyc len) := by
  refine Same.step ?_ hm h
  unfold State.countCycle
  try dsimp only
  repeat' first
    | with_reducible exact Same.refl _ _ | exact rfl | with_reducible assumption
    | exact fun (e : Nat.testBit _ _ = false) => absurd e (by decide) | with_reducible exact fun _ => rfl | intro _
    | with_reducible apply same_ite | with_reducible apply setStation_same | with_reducible apply after_same
    | with_reducible apply same_foldl | with_reducible apply same_overIdx | simp only [↓same_mk_tag]
    | with_reducible apply SameMk.intro | with_reducible apply same_foldl_fst | with_reducible apply same_foldl_snd
    | split

theorem checkTime_same {m : Nat} {s0 s : State} {g : Nat} {m_ : Nat} {next : Bool} (hm : sub 33554442 m = true)
    (h : Same m s0 s) :
    Same m s0 (State.checkTime s g m_ next) := by
  refine Same.step ?_ hm h
  unfold State.checkTime
  try dsimp only
  repeat' first
    | with_reducible exact Same.refl _ _ | exact rfl | with_reducible assumption
    | exact fun (e : Nat.testBit _ _ = false) => absurd e (by decide) | with_reducible exact fun _ => rfl | intro _
    | with_reducible apply same_ite | with_reducible apply retime_same | with_reducible apply setStation_same
    | with_reducible apply timeInvalid_same | with_reducible apply same_foldl | with_reducible apply same_overIdx
    | simp only [↓same_mk_tag] | with_reducible apply SameMk.intro | with_reducible apply same_foldl_fst
    | with_reducible apply same_foldl_snd | split

theorem markerAccepted_same {m : Nat} {s0 s : State} {g : Nat} {f : LinkFrame} {slip : Int}
    (hm : sub 33554442 m = true) (h : Same m s0 s) :
    Same m s0 (State.markerAccepted s g f slip) := by
  refine Same.step ?_ hm h
  unfold State.markerAccepted
  try dsimp only
  repeat' first
    | with_reducible exact Same.refl _ _ | exact rfl | with_reducible assumption
    | exact fun (e : Nat.testBit _ _ = false) => absurd e (by decide) | with_reducible exact fun _ => rfl | intro _
    | with_reducible apply same_ite | with_reducible apply endPhrases_same | with_reducible apply setStation_same
    | with_reducible apply checkTime_same | with_reducible apply countCycle_same | with_reducible apply same_foldl
    | with_reducible apply same_overIdx | simp only [↓same_mk_tag] | with_reducible apply SameMk.intro
    | with_reducible apply same_foldl_fst | with_reducible apply same_foldl_snd | split

theorem latchStation_same {m : Nat} {s0 s : State} {g : Nat} (hm : sub 33554434 m = true) (h : Same m s0 s) :
    Same m s0 (State.latchStation s g) := by
  refine Same.step ?_ hm h
  unfold State.latchStation
  try dsimp only
  repeat' first
    | with_reducible exact Same.refl _ _ | exact rfl | with_reducible assumption
    | exact fun (e : Nat.testBit _ _ = false) => absurd e (by decide) | with_reducible exact fun _ => rfl | intro _
    | with_reducible apply same_ite | with_reducible apply after_same | with_reducible apply setStation_same
    | with_reducible apply same_foldl | with_reducible apply same_overIdx | simp only [↓same_mk_tag]
    | with_reducible apply SameMk.intro | with_reducible apply same_foldl_fst | with_reducible apply same_foldl_snd
    | split

theorem turnFrom_same {m : Nat} {s0 s : State} {g : Nat} {l : List Sym} (hm : sub 33554432 m = true) (h : Same m s0 s)
    :
    Same m s0 (State.turnFrom s g l) := by
  refine Same.step ?_ hm h
  unfold State.turnFrom
  try dsimp only
  repeat' first
    | with_reducible exact Same.refl _ _ | exact rfl | with_reducible assumption
    | exact fun (e : Nat.testBit _ _ = false) => absurd e (by decide) | with_reducible exact fun _ => rfl | intro _
    | with_reducible apply same_ite | with_reducible apply same_foldl | with_reducible apply same_overIdx
    | simp only [↓same_mk_tag] | with_reducible apply SameMk.intro | with_reducible apply same_foldl_fst
    | with_reducible apply same_foldl_snd | split

theorem frameSent_same {m : Nat} {s0 s : State} {g : Nat} (hm : sub 33554434 m = true) (h : Same m s0 s) :
    Same m s0 (State.frameSent s g) := by
  refine Same.step ?_ hm h
  unfold State.frameSent
  try dsimp only
  repeat' first
    | with_reducible exact Same.refl _ _ | exact rfl | with_reducible assumption
    | exact fun (e : Nat.testBit _ _ = false) => absurd e (by decide) | with_reducible exact fun _ => rfl | intro _
    | with_reducible apply same_ite | with_reducible apply setStation_same | with_reducible apply turnFrom_same
    | with_reducible apply after_same | with_reducible apply same_foldl | with_reducible apply same_overIdx
    | simp only [↓same_mk_tag] | with_reducible apply SameMk.intro | with_reducible apply same_foldl_fst
    | with_reducible apply same_foldl_snd | split

end Sys2Proof.Machine
end

