-- ==== Sys2Proof/Laws/Same5.lean ====
section
/-! SUPPORT. What each operation of the model may change, by field of the state, part 5 of 6. -/

namespace Sys2Proof.Machine

theorem startPhrases_same {m : Nat} {s0 s : State} {g : Nat} (hm : sub 33554434 m = true) (h : Same m s0 s) :
    Same m s0 (State.startPhrases s g) := by
  refine Same.step ?_ hm h
  unfold State.startPhrases
  try dsimp only
  repeat' first
    | with_reducible exact Same.refl _ _ | exact rfl | with_reducible assumption
    | exact fun (e : Nat.testBit _ _ = false) => absurd e (by decide) | with_reducible exact fun _ => rfl | intro _
    | with_reducible apply same_ite | with_reducible apply setStation_same | with_reducible apply awaitPhrase_same
    | with_reducible apply awaitUnit_same | with_reducible apply after_same | with_reducible apply same_foldl
    | with_reducible apply same_overIdx | simp only [↓same_mk_tag] | with_reducible apply SameMk.intro
    | with_reducible apply same_foldl_fst | with_reducible apply same_foldl_snd | split

theorem markersGone_same {m : Nat} {s0 s : State} {g : Nat} (hm : sub 33554434 m = true) (h : Same m s0 s) :
    Same m s0 (State.markersGone s g) := by
  refine Same.step ?_ hm h
  unfold State.markersGone
  try dsimp only
  repeat' first
    | with_reducible exact Same.refl _ _ | exact rfl | with_reducible assumption
    | exact fun (e : Nat.testBit _ _ = false) => absurd e (by decide) | with_reducible exact fun _ => rfl | intro _
    | with_reducible apply same_ite | with_reducible apply setStation_same | with_reducible apply startPhrases_same
    | with_reducible apply same_foldl | with_reducible apply same_overIdx | simp only [↓same_mk_tag]
    | with_reducible apply SameMk.intro | with_reducible apply same_foldl_fst | with_reducible apply same_foldl_snd
    | split

theorem refilter_same {m : Nat} {s0 s : State} {g : Nat} (hm : sub 2 m = true) (h : Same m s0 s) :
    Same m s0 (State.refilter s g) := by
  refine Same.step ?_ hm h
  unfold State.refilter
  try dsimp only
  repeat' first
    | with_reducible exact Same.refl _ _ | exact rfl | with_reducible assumption
    | exact fun (e : Nat.testBit _ _ = false) => absurd e (by decide) | with_reducible exact fun _ => rfl | intro _
    | with_reducible apply same_ite | with_reducible apply after_same | with_reducible apply same_foldl
    | with_reducible apply same_overIdx | simp only [↓same_mk_tag] | with_reducible apply SameMk.intro
    | with_reducible apply same_foldl_fst | with_reducible apply same_foldl_snd | split

theorem cycleBegins_same {m : Nat} {s0 s : State} {g : Nat} (hm : sub 33554434 m = true) (h : Same m s0 s) :
    Same m s0 (State.cycleBegins s g) := by
  refine Same.step ?_ hm h
  unfold State.cycleBegins
  try dsimp only
  repeat' first
    | with_reducible exact Same.refl _ _ | exact rfl | with_reducible assumption
    | exact fun (e : Nat.testBit _ _ = false) => absurd e (by decide) | with_reducible exact fun _ => rfl | intro _
    | with_reducible apply same_ite | with_reducible apply refilter_same | with_reducible apply setStation_same
    | with_reducible apply same_foldl | with_reducible apply same_overIdx | simp only [↓same_mk_tag]
    | with_reducible apply SameMk.intro | with_reducible apply same_foldl_fst | with_reducible apply same_foldl_snd
    | split

theorem judged_same {m : Nat} {s0 s : State} {g : Nat} {c : StationCycle} (hm : sub 33554434 m = true)
    (h : Same m s0 s) :
    Same m s0 (State.judged s g c) := by
  refine Same.step ?_ hm h
  unfold State.judged
  try dsimp only
  repeat' first
    | with_reducible exact Same.refl _ _ | exact rfl | with_reducible assumption
    | exact fun (e : Nat.testBit _ _ = false) => absurd e (by decide) | with_reducible exact fun _ => rfl | intro _
    | with_reducible apply same_ite | with_reducible apply setStation_same | with_reducible apply after_same
    | with_reducible apply markersGone_same | with_reducible apply same_foldl | with_reducible apply same_overIdx
    | simp only [↓same_mk_tag] | with_reducible apply SameMk.intro | with_reducible apply same_foldl_fst
    | with_reducible apply same_foldl_snd | split

theorem judgeCycle_same {m : Nat} {s0 s : State} {g : Nat} (hm : sub 33554434 m = true) (h : Same m s0 s) :
    Same m s0 (State.judgeCycle s g) := by
  refine Same.step ?_ hm h
  unfold State.judgeCycle
  try dsimp only
  repeat' first
    | with_reducible exact Same.refl _ _ | exact rfl | with_reducible assumption
    | exact fun (e : Nat.testBit _ _ = false) => absurd e (by decide) | with_reducible exact fun _ => rfl | intro _
    | with_reducible apply same_ite | with_reducible apply after_same | with_reducible apply setStation_same
    | with_reducible apply judged_same | with_reducible apply same_foldl | with_reducible apply same_overIdx
    | simp only [↓same_mk_tag] | with_reducible apply SameMk.intro | with_reducible apply same_foldl_fst
    | with_reducible apply same_foldl_snd | split

theorem modPulse_same {m : Nat} {s0 s : State} {g : Nat} {p : Pulse} {f : Pulse → Pulse} (hm : sub 33554432 m = true)
    (h : Same m s0 s) :
    Same m s0 (State.modPulse s g p f) := by
  refine Same.step ?_ hm h
  unfold State.modPulse
  try dsimp only
  repeat' first
    | with_reducible exact Same.refl _ _ | exact rfl | with_reducible assumption
    | exact fun (e : Nat.testBit _ _ = false) => absurd e (by decide) | with_reducible exact fun _ => rfl | intro _
    | with_reducible apply same_ite | with_reducible apply setStation_same | with_reducible apply same_foldl
    | with_reducible apply same_overIdx | simp only [↓same_mk_tag] | with_reducible apply SameMk.intro
    | with_reducible apply same_foldl_fst | with_reducible apply same_foldl_snd | split

theorem judgePulse_same {m : Nat} {s0 s : State} {g : Nat} {p : Pulse} {mA : Nat} (hm : sub 33554432 m = true)
    (h : Same m s0 s) :
    Same m s0 (State.judgePulse s g p mA) := by
  refine Same.step ?_ hm h
  unfold State.judgePulse
  try dsimp only
  repeat' first
    | with_reducible exact Same.refl _ _ | exact rfl | with_reducible assumption
    | exact fun (e : Nat.testBit _ _ = false) => absurd e (by decide) | with_reducible exact fun _ => rfl | intro _
    | with_reducible apply same_ite | with_reducible apply modPulse_same | with_reducible apply setStation_same
    | with_reducible apply same_foldl | with_reducible apply same_overIdx | simp only [↓same_mk_tag]
    | with_reducible apply SameMk.intro | with_reducible apply same_foldl_fst | with_reducible apply same_foldl_snd
    | split

theorem seen_same {m : Nat} {s0 s : State} {mA : Option Nat} (hm : sub 8 m = true) (h : Same m s0 s) :
    Same m s0 (State.seen s mA).2 := by
  refine Same.step ?_ hm h
  unfold State.seen
  try dsimp only
  repeat' first
    | with_reducible exact Same.refl _ _ | exact rfl | with_reducible assumption
    | exact fun (e : Nat.testBit _ _ = false) => absurd e (by decide) | with_reducible exact fun _ => rfl | intro _
    | with_reducible apply same_ite | with_reducible apply free_same | with_reducible apply same_foldl
    | with_reducible apply same_overIdx | simp only [↓same_mk_tag] | with_reducible apply SameMk.intro
    | with_reducible apply same_foldl_fst | with_reducible apply same_foldl_snd | split

theorem drive_same {m : Nat} {s0 s : State} {g : Nat} {n : Nat} {f : Nat} {dur : Nat} (hm : sub 33554442 m = true)
    (h : Same m s0 s) :
    Same m s0 (State.drive s g n f dur) := by
  refine Same.step ?_ hm h
  unfold State.drive
  try dsimp only
  repeat' first
    | with_reducible exact Same.refl _ _ | exact rfl | with_reducible assumption
    | exact fun (e : Nat.testBit _ _ = false) => absurd e (by decide) | with_reducible exact fun _ => rfl | intro _
    | with_reducible apply same_ite | with_reducible apply free_same | with_reducible apply judgePulse_same
    | with_reducible apply setStation_same | with_reducible apply atLoc_same | with_reducible apply same_foldl
    | with_reducible apply same_overIdx | simp only [↓same_mk_tag] | with_reducible apply SameMk.intro
    | with_reducible apply same_foldl_fst | with_reducible apply same_foldl_snd | split

theorem fireDue_same {m : Nat} {s0 s : State} {g : Nat} (hm : sub 33554442 m = true) (h : Same m s0 s) :
    Same m s0 (State.fireDue s g) := by
  refine Same.step ?_ hm h
  unfold State.fireDue
  try dsimp only
  repeat' first
    | with_reducible exact Same.refl _ _ | exact rfl | with_reducible assumption
    | exact fun (e : Nat.testBit _ _ = false) => absurd e (by decide) | with_reducible exact fun _ => rfl | intro _
    | with_reducible apply same_ite | with_reducible apply atLoc_same | with_reducible apply after_same
    | with_reducible apply setStation_same | with_reducible apply drive_same | with_reducible apply same_foldl
    | with_reducible apply same_overIdx | simp only [↓same_mk_tag] | with_reducible apply SameMk.intro
    | with_reducible apply same_foldl_fst | with_reducible apply same_foldl_snd | split

theorem endPeak_same {m : Nat} {s0 s : State} {g : Nat} {n : Nat} {mA : Option Nat} (hm : sub 33554440 m = true)
    (h : Same m s0 s) :
    Same m s0 (State.endPeak s g n mA) := by
  refine Same.step ?_ hm h
  unfold State.endPeak
  try dsimp only
  repeat' first
    | with_reducible exact Same.refl _ _ | exact rfl | with_reducible assumption
    | exact fun (e : Nat.testBit _ _ = false) => absurd e (by decide) | with_reducible exact fun _ => rfl | intro _
    | with_reducible apply same_ite | with_reducible apply seen_same | with_reducible apply modPulse_same
    | with_reducible apply judgePulse_same | with_reducible apply same_foldl | with_reducible apply same_overIdx
    | simp only [↓same_mk_tag] | with_reducible apply SameMk.intro | with_reducible apply same_foldl_fst
    | with_reducible apply same_foldl_snd | split

theorem pulseOver_same {m : Nat} {s0 s : State} {g : Nat} {n : Nat} {mA : Option Nat} (hm : sub 33554440 m = true)
    (h : Same m s0 s) :
    Same m s0 (State.pulseOver s g n mA) := by
  refine Same.step ?_ hm h
  unfold State.pulseOver
  try dsimp only
  repeat' first
    | with_reducible exact Same.refl _ _ | exact rfl | with_reducible assumption
    | exact fun (e : Nat.testBit _ _ = false) => absurd e (by decide) | with_reducible exact fun _ => rfl | intro _
    | with_reducible apply same_ite | with_reducible apply seen_same | with_reducible apply judgePulse_same
    | with_reducible apply setStation_same | with_reducible apply same_foldl | with_reducible apply same_overIdx
    | simp only [↓same_mk_tag] | with_reducible apply SameMk.intro | with_reducible apply same_foldl_fst
    | with_reducible apply same_foldl_snd | split

theorem chop_same {m : Nat} {s0 s : State} {g : Nat} {n : Nat} {reached : Bool} (hm : sub 33554434 m = true)
    (h : Same m s0 s) :
    Same m s0 (State.chop s g n reached) := by
  refine Same.step ?_ hm h
  unfold State.chop
  try dsimp only
  repeat' first
    | with_reducible exact Same.refl _ _ | exact rfl | with_reducible assumption
    | exact fun (e : Nat.testBit _ _ = false) => absurd e (by decide) | with_reducible exact fun _ => rfl | intro _
    | with_reducible apply same_ite | with_reducible apply modPulse_same | with_reducible apply atLoc_same
    | with_reducible apply same_foldl | with_reducible apply same_overIdx | simp only [↓same_mk_tag]
    | with_reducible apply SameMk.intro | with_reducible apply same_foldl_fst | with_reducible apply same_foldl_snd
    | split

theorem bankOut_same {m : Nat} {s0 s : State} {g : Nat} {b : Nat} {volts : Nat} (hm : sub 33554440 m = true)
    (h : Same m s0 s) :
    Same m s0 (State.bankOut s g b volts) := by
  refine Same.step ?_ hm h
  unfold State.bankOut
  try dsimp only
  repeat' first
    | with_reducible exact Same.refl _ _ | exact rfl | with_reducible assumption
    | exact fun (e : Nat.testBit _ _ = false) => absurd e (by decide) | with_reducible exact fun _ => rfl | intro _
    | with_reducible apply same_ite | with_reducible apply setStation_same | with_reducible apply stopPulses_same
    | with_reducible apply same_foldl | with_reducible apply same_overIdx | simp only [↓same_mk_tag]
    | with_reducible apply SameMk.intro | with_reducible apply same_foldl_fst | with_reducible apply same_foldl_snd
    | split

theorem bankIn_same {m : Nat} {s0 s : State} {g : Nat} {b : Nat} {volts : Nat} (hm : sub 33554432 m = true)
    (h : Same m s0 s) :
    Same m s0 (State.bankIn s g b volts) := by
  refine Same.step ?_ hm h
  unfold State.bankIn
  try dsimp only
  repeat' first
    | with_reducible exact Same.refl _ _ | exact rfl | with_reducible assumption
    | exact fun (e : Nat.testBit _ _ = false) => absurd e (by decide) | with_reducible exact fun _ => rfl | intro _
    | with_reducible apply same_ite | with_reducible apply setStation_same | with_reducible apply same_foldl
    | with_reducible apply same_overIdx | simp only [↓same_mk_tag] | with_reducible apply SameMk.intro
    | with_reducible apply same_foldl_fst | with_reducible apply same_foldl_snd | split

theorem overcurrent_same {m : Nat} {s0 s : State} {g : Nat} {n : Nat} (hm : sub 33554432 m = true) (h : Same m s0 s) :
    Same m s0 (State.overcurrent s g n) := by
  refine Same.step ?_ hm h
  unfold State.overcurrent
  try dsimp only
  repeat' first
    | with_reducible exact Same.refl _ _ | exact rfl | with_reducible assumption
    | exact fun (e : Nat.testBit _ _ = false) => absurd e (by decide) | with_reducible exact fun _ => rfl | intro _
    | with_reducible apply same_ite | with_reducible apply modPulse_same | with_reducible apply setStation_same
    | with_reducible apply same_foldl | with_reducible apply same_overIdx | simp only [↓same_mk_tag]
    | with_reducible apply SameMk.intro | with_reducible apply same_foldl_fst | with_reducible apply same_foldl_snd
    | split

theorem forcedOn_same {m : Nat} {s0 s : State} {g : Nat} {n : Nat} (hm : sub 33554440 m = true) (h : Same m s0 s) :
    Same m s0 (State.forcedOn s g n) := by
  refine Same.step ?_ hm h
  unfold State.forcedOn
  try dsimp only
  repeat' first
    | with_reducible exact Same.refl _ _ | exact rfl | with_reducible assumption
    | exact fun (e : Nat.testBit _ _ = false) => absurd e (by decide) | with_reducible exact fun _ => rfl | intro _
    | with_reducible apply same_ite | with_reducible apply stopPulses_same | with_reducible apply setStation_same
    | with_reducible apply same_foldl | with_reducible apply same_overIdx | simp only [↓same_mk_tag]
    | with_reducible apply SameMk.intro | with_reducible apply same_foldl_fst | with_reducible apply same_foldl_snd
    | split

theorem crossFed_same {m : Nat} {s0 s : State} {g : Nat} {n : Nat} {others : List Nat} (hm : sub 33554440 m = true)
    (h : Same m s0 s) :
    Same m s0 (State.crossFed s g n others) := by
  refine Same.step ?_ hm h
  unfold State.crossFed
  try dsimp only
  repeat' first
    | with_reducible exact Same.refl _ _ | exact rfl | with_reducible assumption
    | exact fun (e : Nat.testBit _ _ = false) => absurd e (by decide) | with_reducible exact fun _ => rfl | intro _
    | with_reducible apply same_ite | with_reducible apply stopPulses_same | with_reducible apply setStation_same
    | with_reducible apply same_foldl | with_reducible apply same_overIdx | simp only [↓same_mk_tag]
    | with_reducible apply SameMk.intro | with_reducible apply same_foldl_fst | with_reducible apply same_foldl_snd
    | split

theorem driverHot_same {m : Nat} {s0 s : State} {g : Nat} {n : Nat} (hm : sub 33554432 m = true) (h : Same m s0 s) :
    Same m s0 (State.driverHot s g n) := by
  refine Same.step ?_ hm h
  unfold State.driverHot
  try dsimp only
  repeat' first
    | with_reducible exact Same.refl _ _ | exact rfl | with_reducible assumption
    | exact fun (e : Nat.testBit _ _ = false) => absurd e (by decide) | with_reducible exact fun _ => rfl | intro _
    | with_reducible apply same_ite | with_reducible apply modPulse_same | with_reducible apply setStation_same
    | with_reducible apply same_foldl | with_reducible apply same_overIdx | simp only [↓same_mk_tag]
    | with_reducible apply SameMk.intro | with_reducible apply same_foldl_fst | with_reducible apply same_foldl_snd
    | split

theorem wakeRequest_same {m : Nat} {s0 s : State} {g : Nat} (hm : sub 33554434 m = true) (h : Same m s0 s) :
    Same m s0 (State.wakeRequest s g) := by
  refine Same.step ?_ hm h
  unfold State.wakeRequest
  try dsimp only
  repeat' first
    | with_reducible exact Same.refl _ _ | exact rfl | with_reducible assumption
    | exact fun (e : Nat.testBit _ _ = false) => absurd e (by decide) | with_reducible exact fun _ => rfl | intro _
    | with_reducible apply same_ite | with_reducible apply startPhrases_same | with_reducible apply setStation_same
    | with_reducible apply same_foldl | with_reducible apply same_overIdx | simp only [↓same_mk_tag]
    | with_reducible apply SameMk.intro | with_reducible apply same_foldl_fst | with_reducible apply same_foldl_snd
    | split

theorem filterEdge_same {m : Nat} {s0 s : State} {g : Nat} {i : Nat} (hm : sub 33554434 m = true) (h : Same m s0 s) :
    Same m s0 (State.filterEdge s g i) := by
  refine Same.step ?_ hm h
  unfold State.filterEdge
  try dsimp only
  repeat' first
    | with_reducible exact Same.refl _ _ | exact rfl | with_reducible assumption
    | exact fun (e : Nat.testBit _ _ = false) => absurd e (by decide) | with_reducible exact fun _ => rfl | intro _
    | with_reducible apply same_ite | with_reducible apply setStation_same | with_reducible apply wakeRequest_same
    | with_reducible apply same_foldl | with_reducible apply same_overIdx | simp only [↓same_mk_tag]
    | with_reducible apply SameMk.intro | with_reducible apply same_foldl_fst | with_reducible apply same_foldl_snd
    | split

theorem inputEdge_same {m : Nat} {s0 s : State} {g : Nat} {i : Nat} {level : Bool} (hm : sub 33554434 m = true)
    (h : Same m s0 s) :
    Same m s0 (State.inputEdge s g i level) := by
  refine Same.step ?_ hm h
  unfold State.inputEdge
  try dsimp only
  repeat' first
    | with_reducible exact Same.refl _ _ | exact rfl | with_reducible assumption
    | exact fun (e : Nat.testBit _ _ = false) => absurd e (by decide) | with_reducible exact fun _ => rfl | intro _
    | with_reducible apply same_ite | with_reducible apply filterEdge_same | with_reducible apply after_same
    | with_reducible apply setStation_same | with_reducible apply same_foldl | with_reducible apply same_overIdx
    | simp only [↓same_mk_tag] | with_reducible apply SameMk.intro | with_reducible apply same_foldl_fst
    | with_reducible apply same_foldl_snd | split

theorem zoneUpdate_same {m : Nat} {s0 s : State} {z : Nat} (hm : sub 262290 m = true) (h : Same m s0 s) :
    Same m s0 (State.zoneUpdate s z) := by
  refine Same.step ?_ hm h
  unfold State.zoneUpdate
  try dsimp only
  repeat' first
    | with_reducible exact Same.refl _ _ | exact rfl | with_reducible assumption
    | exact fun (e : Nat.testBit _ _ = false) => absurd e (by decide) | with_reducible exact fun _ => rfl | intro _
    | with_reducible apply same_ite | with_reducible apply put_same | with_reducible apply sticky_same
    | with_reducible apply bump_same | with_reducible apply same_foldl | with_reducible apply same_overIdx
    | simp only [↓same_mk_tag] | with_reducible apply SameMk.intro | with_reducible apply same_foldl_fst
    | with_reducible apply same_foldl_snd | split

theorem zonesUpdate_same {m : Nat} {s0 s : State} (hm : sub 262290 m = true) (h : Same m s0 s) :
    Same m s0 (State.zonesUpdate s) := by
  refine Same.step ?_ hm h
  unfold State.zonesUpdate
  try dsimp only
  repeat' first
    | with_reducible exact Same.refl _ _ | exact rfl | with_reducible assumption
    | exact fun (e : Nat.testBit _ _ = false) => absurd e (by decide) | with_reducible exact fun _ => rfl | intro _
    | with_reducible apply same_ite | with_reducible apply zoneUpdate_same | with_reducible apply put_same
    | with_reducible apply same_foldl | with_reducible apply same_overIdx | simp only [↓same_mk_tag]
    | with_reducible apply SameMk.intro | with_reducible apply same_foldl_fst | with_reducible apply same_foldl_snd
    | split

theorem forcePoise_same {m : Nat} {s0 s : State} {cause : Nat} {zone : Nat} {temp : Int} (hm : sub 263314 m = true)
    (h : Same m s0 s) :
    Same m s0 (State.forcePoise s cause zone temp) := by
  refine Same.step ?_ hm h
  unfold State.forcePoise
  try dsimp only
  repeat' first
    | with_reducible exact Same.refl _ _ | exact rfl | with_reducible assumption
    | exact fun (e : Nat.testBit _ _ = false) => absurd e (by decide) | with_reducible exact fun _ => rfl | intro _
    | with_reducible apply same_ite | with_reducible apply put_same | with_reducible apply notice_same
    | with_reducible apply bump_same | with_reducible apply startEntry_same | with_reducible apply same_foldl
    | with_reducible apply same_overIdx | simp only [↓same_mk_tag] | with_reducible apply SameMk.intro
    | with_reducible apply same_foldl_fst | with_reducible apply same_foldl_snd | split

theorem endForcing_same {m : Nat} {s0 s : State} {c : Nat} (hm : sub 16 m = true) (h : Same m s0 s) :
    Same m s0 (State.endForcing s c) := by
  refine Same.step ?_ hm h
  unfold State.endForcing
  try dsimp only
  repeat' first
    | with_reducible exact Same.refl _ _ | exact rfl | with_reducible assumption
    | exact fun (e : Nat.testBit _ _ = false) => absurd e (by decide) | with_reducible exact fun _ => rfl | intro _
    | with_reducible apply same_ite | with_reducible apply put_same | with_reducible apply same_foldl
    | with_reducible apply same_overIdx | simp only [↓same_mk_tag] | with_reducible apply SameMk.intro
    | with_reducible apply same_foldl_fst | with_reducible apply same_foldl_snd | split

theorem tripTest_same {m : Nat} {s0 s : State} (hm : sub 263314 m = true) (h : Same m s0 s) :
    Same m s0 (State.tripTest s) := by
  refine Same.step ?_ hm h
  unfold State.tripTest
  try dsimp only
  repeat' first
    | with_reducible exact Same.refl _ _ | exact rfl | with_reducible assumption
    | exact fun (e : Nat.testBit _ _ = false) => absurd e (by decide) | with_reducible exact fun _ => rfl | intro _
    | with_reducible apply same_ite | with_reducible apply endForcing_same | with_reducible apply forcePoise_same
    | with_reducible apply same_foldl | with_reducible apply same_overIdx | simp only [↓same_mk_tag]
    | with_reducible apply SameMk.intro | with_reducible apply same_foldl_fst | with_reducible apply same_foldl_snd
    | split

theorem setSensor_same {m : Nat} {s0 s : State} {i : Nat} {prev : Option Int} {held : Option Int} {far : Nat}
    (hm : sub 67108864 m = true) (h : Same m s0 s) :
    Same m s0 (State.setSensor s i prev held far) := by
  refine Same.step ?_ hm h
  unfold State.setSensor
  try dsimp only
  repeat' first
    | with_reducible exact Same.refl _ _ | exact rfl | with_reducible assumption
    | exact fun (e : Nat.testBit _ _ = false) => absurd e (by decide) | with_reducible exact fun _ => rfl | intro _
    | with_reducible apply same_ite | with_reducible apply same_foldl | with_reducible apply same_overIdx
    | simp only [↓same_mk_tag] | with_reducible apply SameMk.intro | with_reducible apply same_foldl_fst
    | with_reducible apply same_foldl_snd | split

theorem sensorFails_same {m : Nat} {s0 s : State} {i : Nat} {check : Nat} (hm : sub 67371154 m = true)
    (h : Same m s0 s) :
    Same m s0 (State.sensorFails s i check) := by
  refine Same.step ?_ hm h
  unfold State.sensorFails
  try dsimp only
  repeat' first
    | with_reducible exact Same.refl _ _ | exact rfl | with_reducible assumption
    | exact fun (e : Nat.testBit _ _ = false) => absurd e (by decide) | with_reducible exact fun _ => rfl | intro _
    | with_reducible apply same_ite | with_reducible apply put_same | with_reducible apply setSensor_same
    | with_reducible apply sticky64_same | with_reducible apply bump_same | with_reducible apply same_foldl
    | with_reducible apply same_overIdx | simp only [↓same_mk_tag] | with_reducible apply SameMk.intro
    | with_reducible apply same_foldl_fst | with_reducible apply same_foldl_snd | split

theorem reading_same {m : Nat} {s0 s : State} {i : Nat} {v : Int} (hm : sub 67372178 m = true) (h : Same m s0 s) :
    Same m s0 (State.reading s i v) := by
  refine Same.step ?_ hm h
  unfold State.reading
  try dsimp only
  repeat' first
    | with_reducible exact Same.refl _ _ | exact rfl | with_reducible assumption
    | exact fun (e : Nat.testBit _ _ = false) => absurd e (by decide) | with_reducible exact fun _ => rfl | intro _
    | with_reducible apply same_ite | with_reducible apply put_same | with_reducible apply sensorFails_same
    | with_reducible apply setSensor_same | with_reducible apply tripTest_same | with_reducible apply zonesUpdate_same
    | with_reducible apply same_foldl | with_reducible apply same_overIdx | simp only [↓same_mk_tag]
    | with_reducible apply SameMk.intro | with_reducible apply same_foldl_fst | with_reducible apply same_foldl_snd
    | split

theorem galleryGap_same {m : Nat} {s0 s : State} {g : Nat} (hm : sub 67371154 m = true) (h : Same m s0 s) :
    Same m s0 (State.galleryGap s g) := by
  refine Same.step ?_ hm h
  unfold State.galleryGap
  try dsimp only
  repeat' first
    | with_reducible exact Same.refl _ _ | exact rfl | with_reducible assumption
    | exact fun (e : Nat.testBit _ _ = false) => absurd e (by decide) | with_reducible exact fun _ => rfl | intro _
    | with_reducible apply same_ite | with_reducible apply zonesUpdate_same | with_reducible apply setSensor_same
    | with_reducible apply same_foldl | with_reducible apply same_overIdx | simp only [↓same_mk_tag]
    | with_reducible apply SameMk.intro | with_reducible apply same_foldl_fst | with_reducible apply same_foldl_snd
    | split

theorem readmit_same {m : Nat} {s0 s : State} {i : Nat} (hm : sub 67108864 m = true) (h : Same m s0 s) :
    Same m s0 (State.readmit s i) := by
  refine Same.step ?_ hm h
  unfold State.readmit
  try dsimp only
  repeat' first
    | with_reducible exact Same.refl _ _ | exact rfl | with_reducible assumption
    | exact fun (e : Nat.testBit _ _ = false) => absurd e (by decide) | with_reducible exact fun _ => rfl | intro _
    | with_reducible apply same_ite | with_reducible apply setSensor_same | with_reducible apply same_foldl
    | with_reducible apply same_overIdx | simp only [↓same_mk_tag] | with_reducible apply SameMk.intro
    | with_reducible apply same_foldl_fst | with_reducible apply same_foldl_snd | split

theorem askHold_same {m : Nat} {s0 s : State} {g : Nat} (hm : sub 16777216 m = true) (h : Same m s0 s) :
    Same m s0 (State.askHold s g) := by
  refine Same.step ?_ hm h
  unfold State.askHold
  try dsimp only
  repeat' first
    | with_reducible exact Same.refl _ _ | exact rfl | with_reducible assumption
    | exact fun (e : Nat.testBit _ _ = false) => absurd e (by decide) | with_reducible exact fun _ => rfl | intro _
    | with_reducible apply same_ite | with_reducible apply same_foldl | with_reducible apply same_overIdx
    | simp only [↓same_mk_tag] | with_reducible apply SameMk.intro | with_reducible apply same_foldl_fst
    | with_reducible apply same_foldl_snd | split

theorem ladderTo_same {m : Nat} {s0 s : State} {n : Nat} (hm : sub 17039506 m = true) (h : Same m s0 s) :
    Same m s0 (State.ladderTo s n) := by
  refine Same.step ?_ hm h
  unfold State.ladderTo
  try dsimp only
  repeat' first
    | with_reducible exact Same.refl _ _ | exact rfl | with_reducible assumption
    | exact fun (e : Nat.testBit _ _ = false) => absurd e (by decide) | with_reducible exact fun _ => rfl | intro _
    | with_reducible apply same_ite | with_reducible apply put_same | with_reducible apply bump_same
    | with_reducible apply notice_same | with_reducible apply isetSoon_same | with_reducible apply askHold_same
    | with_reducible apply same_foldl | with_reducible apply same_overIdx | simp only [↓same_mk_tag]
    | with_reducible apply SameMk.intro | with_reducible apply same_foldl_fst | with_reducible apply same_foldl_snd
    | split

theorem ladderNext_same {m : Nat} {s0 s : State} (hm : sub 2 m = true) (h : Same m s0 s) :
    Same m s0 (State.ladderNext s) := by
  refine Same.step ?_ hm h
  unfold State.ladderNext
  try dsimp only
  repeat' first
    | with_reducible exact Same.refl _ _ | exact rfl | with_reducible assumption
    | exact fun (e : Nat.testBit _ _ = false) => absurd e (by decide) | with_reducible exact fun _ => rfl | intro _
    | with_reducible apply same_ite | with_reducible apply at__same | with_reducible apply withdraw_same
    | with_reducible apply same_foldl | with_reducible apply same_overIdx | simp only [↓same_mk_tag]
    | with_reducible apply SameMk.intro | with_reducible apply same_foldl_fst | with_reducible apply same_foldl_snd
    | split

theorem evaluate_same {m : Nat} {s0 s : State} (hm : sub 17040530 m = true) (h : Same m s0 s) :
    Same m s0 (State.evaluate s) := by
  refine Same.step ?_ hm h
  unfold State.evaluate
  try dsimp only
  repeat' first
    | with_reducible exact Same.refl _ _ | exact rfl | with_reducible assumption
    | exact fun (e : Nat.testBit _ _ = false) => absurd e (by decide) | with_reducible exact fun _ => rfl | intro _
    | with_reducible apply same_ite | with_reducible apply zonesUpdate_same | with_reducible apply ladderTo_same
    | with_reducible apply endForcing_same | with_reducible apply forcePoise_same | with_reducible apply same_foldl
    | with_reducible apply same_overIdx | simp only [↓same_mk_tag] | with_reducible apply SameMk.intro
    | with_reducible apply same_foldl_fst | with_reducible apply same_foldl_snd | split

theorem thermalStart_same {m : Nat} {s0 s : State} (hm : sub 67108866 m = true) (h : Same m s0 s) :
    Same m s0 (State.thermalStart s) := by
  refine Same.step ?_ hm h
  unfold State.thermalStart
  try dsimp only
  repeat' first
    | with_reducible exact Same.refl _ _ | exact rfl | with_reducible assumption
    | exact fun (e : Nat.testBit _ _ = false) => absurd e (by decide) | with_reducible exact fun _ => rfl | intro _
    | with_reducible apply same_ite | with_reducible apply ladderNext_same | with_reducible apply same_foldl
    | with_reducible apply same_overIdx | simp only [↓same_mk_tag] | with_reducible apply SameMk.intro
    | with_reducible apply same_foldl_fst | with_reducible apply same_foldl_snd | split

theorem modLink_same {m : Nat} {s0 s : State} {f : Link → Link} (hm : sub 16777216 m = true) (h : Same m s0 s) :
    Same m s0 (State.modLink s f) := by
  refine Same.step ?_ hm h
  unfold State.modLink
  try dsimp only
  repeat' first
    | with_reducible exact Same.refl _ _ | exact rfl | with_reducible assumption
    | exact fun (e : Nat.testBit _ _ = false) => absurd e (by decide) | with_reducible exact fun _ => rfl | intro _
    | with_reducible apply same_ite | with_reducible apply same_foldl | with_reducible apply same_overIdx
    | simp only [↓same_mk_tag] | with_reducible apply SameMk.intro | with_reducible apply same_foldl_fst
    | with_reducible apply same_foldl_snd | split

theorem pumpAt_same {m : Nat} {s0 s : State} {b : Nat} (hm : sub 2 m = true) (h : Same m s0 s) :
    Same m s0 (State.pumpAt s b) := by
  refine Same.step ?_ hm h
  unfold State.pumpAt
  try dsimp only
  repeat' first
    | with_reducible exact Same.refl _ _ | exact rfl | with_reducible assumption
    | exact fun (e : Nat.testBit _ _ = false) => absurd e (by decide) | with_reducible exact fun _ => rfl | intro _
    | with_reducible apply same_ite | with_reducible apply at__same | with_reducible apply same_foldl
    | with_reducible apply same_overIdx | simp only [↓same_mk_tag] | with_reducible apply SameMk.intro
    | with_reducible apply same_foldl_fst | with_reducible apply same_foldl_snd | split

theorem pump_same {m : Nat} {s0 s : State} {later : Bool} (hm : sub 2 m = true) (h : Same m s0 s) :
    Same m s0 (State.pump s later) := by
  refine Same.step ?_ hm h
  unfold State.pump
  try dsimp only
  repeat' first
    | with_reducible exact Same.refl _ _ | exact rfl | with_reducible assumption
    | exact fun (e : Nat.testBit _ _ = false) => absurd e (by decide) | with_reducible exact fun _ => rfl | intro _
    | with_reducible apply same_ite | with_reducible apply pumpAt_same | with_reducible apply same_foldl
    | with_reducible apply same_overIdx | simp only [↓same_mk_tag] | with_reducible apply SameMk.intro
    | with_reducible apply same_foldl_fst | with_reducible apply same_foldl_snd | split

theorem sendFrame_same {m : Nat} {s0 s : State} {f : LinkFrame} (hm : sub 16777218 m = true) (h : Same m s0 s) :
    Same m s0 (State.sendFrame s f) := by
  refine Same.step ?_ hm h
  unfold State.sendFrame
  try dsimp only
  repeat' first
    | with_reducible exact Same.refl _ _ | exact rfl | with_reducible assumption
    | exact fun (e : Nat.testBit _ _ = false) => absurd e (by decide) | with_reducible exact fun _ => rfl | intro _
    | with_reducible apply same_ite | with_reducible apply modLink_same | with_reducible apply at__same
    | with_reducible apply pumpAt_same | with_reducible apply same_foldl | with_reducible apply same_overIdx
    | simp only [↓same_mk_tag] | with_reducible apply SameMk.intro | with_reducible apply same_foldl_fst
    | with_reducible apply same_foldl_snd | split

theorem dropLate_same {m : Nat} {s0 s : State} {g : Nat} {c : FireCmd} (hm : sub 786578 m = true) (h : Same m s0 s) :
    Same m s0 (State.dropLate s g c) := by
  refine Same.step ?_ hm h
  unfold State.dropLate
  try dsimp only
  repeat' first
    | with_reducible exact Same.refl _ _ | exact rfl | with_reducible assumption
    | exact fun (e : Nat.testBit _ _ = false) => absurd e (by decide) | with_reducible exact fun _ => rfl | intro _
    | with_reducible apply same_ite | with_reducible apply setFire_same | with_reducible apply late__same
    | with_reducible apply same_foldl | with_reducible apply same_overIdx | simp only [↓same_mk_tag]
    | with_reducible apply SameMk.intro | with_reducible apply same_foldl_fst | with_reducible apply same_foldl_snd
    | split

theorem sendFire_same {m : Nat} {s0 s : State} {g : Nat} {c : FireCmd} (hm : sub 17301650 m = true) (h : Same m s0 s)
    :
    Same m s0 (State.sendFire s g c) := by
  refine Same.step ?_ hm h
  unfold State.sendFire
  try dsimp only
  repeat' first
    | with_reducible exact Same.refl _ _ | exact rfl | with_reducible assumption
    | exact fun (e : Nat.testBit _ _ = false) => absurd e (by decide) | with_reducible exact fun _ => rfl | intro _
    | with_reducible apply same_ite | with_reducible apply bump_same | with_reducible apply modMember_same
    | with_reducible apply sendFrame_same | with_reducible apply same_foldl | with_reducible apply same_overIdx
    | simp only [↓same_mk_tag] | with_reducible apply SameMk.intro | with_reducible apply same_foldl_fst
    | with_reducible apply same_foldl_snd | split

theorem abandon_same {m : Nat} {s0 s : State} {f : LinkFrame} (hm : sub 16777362 m = true) (h : Same m s0 s) :
    Same m s0 (State.abandon s f) := by
  refine Same.step ?_ hm h
  unfold State.abandon
  try dsimp only
  repeat' first
    | with_reducible exact Same.refl _ _ | exact rfl | with_reducible assumption
    | exact fun (e : Nat.testBit _ _ = false) => absurd e (by decide) | with_reducible exact fun _ => rfl | intro _
    | with_reducible apply same_ite | with_reducible apply bump_same | with_reducible apply modLink_same
    | with_reducible apply modMember_same | with_reducible apply pumpAt_same | with_reducible apply same_foldl
    | with_reducible apply same_overIdx | simp only [↓same_mk_tag] | with_reducible apply SameMk.intro
    | with_reducible apply same_foldl_fst | with_reducible apply same_foldl_snd | split

theorem undeliverable_same {m : Nat} {s0 s : State} {g : Nat} (hm : sub 786578 m = true) (h : Same m s0 s) :
    Same m s0 (State.undeliverable s g) := by
  refine Same.step ?_ hm h
  unfold State.undeliverable
  try dsimp only
  repeat' first
    | with_reducible exact Same.refl _ _ | exact rfl | with_reducible assumption
    | exact fun (e : Nat.testBit _ _ = false) => absurd e (by decide) | with_reducible exact fun _ => rfl | intro _
    | with_reducible apply same_ite | with_reducible apply setFire_same | with_reducible apply bump_same
    | with_reducible apply sticky_same | with_reducible apply same_foldl | with_reducible apply same_overIdx
    | simp only [↓same_mk_tag] | with_reducible apply SameMk.intro | with_reducible apply same_foldl_fst
    | with_reducible apply same_foldl_snd | split

theorem fireStart_same {m : Nat} {s0 s : State} {g : Nat} (hm : sub 17563794 m = true) (h : Same m s0 s) :
    Same m s0 (State.fireStart s g) := by
  refine Same.step ?_ hm h
  unfold State.fireStart
  try dsimp only
  repeat' first
    | with_reducible exact Same.refl _ _ | exact rfl | with_reducible assumption
    | exact fun (e : Nat.testBit _ _ = false) => absurd e (by decide) | with_reducible exact fun _ => rfl | intro _
    | with_reducible apply same_ite | with_reducible apply pump_same | with_reducible apply hallUncorrectable_same
    | with_reducible apply setFire_same | with_reducible apply dropLate_same | with_reducible apply sendFire_same
    | with_reducible apply same_foldl | with_reducible apply same_overIdx | simp only [↓same_mk_tag]
    | with_reducible apply SameMk.intro | with_reducible apply same_foldl_fst | with_reducible apply same_foldl_snd
    | split

theorem fireTurn_same {m : Nat} {s0 s : State} {g : Nat} (hm : sub 17563794 m = true) (h : Same m s0 s) :
    Same m s0 (State.fireTurn s g) := by
  refine Same.step ?_ hm h
  unfold State.fireTurn
  try dsimp only
  repeat' first
    | with_reducible exact Same.refl _ _ | exact rfl | with_reducible assumption
    | exact fun (e : Nat.testBit _ _ = false) => absurd e (by decide) | with_reducible exact fun _ => rfl | intro _
    | with_reducible apply same_ite | with_reducible apply undeliverable_same | with_reducible apply abandon_same
    | with_reducible apply fireStart_same | with_reducible apply same_foldl | with_reducible apply same_overIdx
    | simp only [↓same_mk_tag] | with_reducible apply SameMk.intro | with_reducible apply same_foldl_fst
    | with_reducible apply same_foldl_snd | split

theorem outsetTurn_same {m : Nat} {s0 s : State} {g : Nat} (hm : sub 16777218 m = true) (h : Same m s0 s) :
    Same m s0 (State.outsetTurn s g) := by
  refine Same.step ?_ hm h
  unfold State.outsetTurn
  try dsimp only
  repeat' first
    | with_reducible exact Same.refl _ _ | exact rfl | with_reducible assumption
    | exact fun (e : Nat.testBit _ _ = false) => absurd e (by decide) | with_reducible exact fun _ => rfl | intro _
    | with_reducible apply same_ite | with_reducible apply modMember_same | with_reducible apply sendFrame_same
    | with_reducible apply same_foldl | with_reducible apply same_overIdx | simp only [↓same_mk_tag]
    | with_reducible apply SameMk.intro | with_reducible apply same_foldl_fst | with_reducible apply same_foldl_snd
    | split

theorem registerTurn_same {m : Nat} {s0 s : State} (hm : sub 16777218 m = true) (h : Same m s0 s) :
    Same m s0 (State.registerTurn s) := by
  refine Same.step ?_ hm h
  unfold State.registerTurn
  try dsimp only
  repeat' first
    | with_reducible exact Same.refl _ _ | exact rfl | with_reducible assumption
    | exact fun (e : Nat.testBit _ _ = false) => absurd e (by decide) | with_reducible exact fun _ => rfl | intro _
    | with_reducible apply same_ite | with_reducible apply modLink_same | with_reducible apply sendFrame_same
    | with_reducible apply modMember_same | with_reducible apply same_foldl | with_reducible apply same_overIdx
    | simp only [↓same_mk_tag] | with_reducible apply SameMk.intro | with_reducible apply same_foldl_fst
    | with_reducible apply same_foldl_snd | split

theorem echo_same {m : Nat} {s0 s : State} {f : LinkFrame} {rx : Rx} (hm : sub 16777360 m = true) (h : Same m s0 s) :
    Same m s0 (State.echo s f rx) := by
  refine Same.step ?_ hm h
  unfold State.echo
  try dsimp only
  repeat' first
    | with_reducible exact Same.refl _ _ | exact rfl | with_reducible assumption
    | exact fun (e : Nat.testBit _ _ = false) => absurd e (by decide) | with_reducible exact fun _ => rfl | intro _
    | with_reducible apply same_ite | with_reducible apply bumpBy_same | with_reducible apply modLink_same
    | with_reducible apply setBit_same | with_reducible apply bump_same | with_reducible apply same_foldl
    | with_reducible apply same_overIdx | simp only [↓same_mk_tag] | with_reducible apply SameMk.intro
    | with_reducible apply same_foldl_fst | with_reducible apply same_foldl_snd | split

theorem gregFail_same {m : Nat} {s0 s : State} {p : Greg → Bool} (hm : sub 16777360 m = true) (h : Same m s0 s) :
    Same m s0 (State.gregFail s p) := by
  refine Same.step ?_ hm h
  unfold State.gregFail
  try dsimp only
  repeat' first
    | with_reducible exact Same.refl _ _ | exact rfl | with_reducible assumption
    | exact fun (e : Nat.testBit _ _ = false) => absurd e (by decide) | with_reducible exact fun _ => rfl | intro _
    | with_reducible apply same_ite | with_reducible apply modLink_same | with_reducible apply put_same
    | with_reducible apply setBit_same | with_reducible apply same_foldl | with_reducible apply same_overIdx
    | simp only [↓same_mk_tag] | with_reducible apply SameMk.intro | with_reducible apply same_foldl_fst
    | with_reducible apply same_foldl_snd | split

theorem countStations_same {m : Nat} {s0 s : State} (hm : sub 16 m = true) (h : Same m s0 s) :
    Same m s0 (State.countStations s) := by
  refine Same.step ?_ hm h
  unfold State.countStations
  try dsimp only
  repeat' first
    | with_reducible exact Same.refl _ _ | exact rfl | with_reducible assumption
    | exact fun (e : Nat.testBit _ _ = false) => absurd e (by decide) | with_reducible exact fun _ => rfl | intro _
    | with_reducible apply same_ite | with_reducible apply put_same | with_reducible apply same_foldl
    | with_reducible apply same_overIdx | simp only [↓same_mk_tag] | with_reducible apply SameMk.intro
    | with_reducible apply same_foldl_fst | with_reducible apply same_foldl_snd | split

theorem leaveAll_same {m : Nat} {s0 s : State} (hm : sub 84672658 m = true) (h : Same m s0 s) :
    Same m s0 (State.leaveAll s) := by
  refine Same.step ?_ hm h
  unfold State.leaveAll
  try dsimp only
  repeat' first
    | with_reducible exact Same.refl _ _ | exact rfl | with_reducible assumption
    | exact fun (e : Nat.testBit _ _ = false) => absurd e (by decide) | with_reducible exact fun _ => rfl | intro _
    | with_reducible apply same_ite | with_reducible apply modLink_same | with_reducible apply dropFires_same
    | with_reducible apply put_same | with_reducible apply setSensor_same | with_reducible apply zonesUpdate_same
    | with_reducible apply countStations_same | with_reducible apply gregFail_same | with_reducible apply same_foldl
    | with_reducible apply same_overIdx | simp only [↓same_mk_tag] | with_reducible apply SameMk.intro
    | with_reducible apply same_foldl_fst | with_reducible apply same_foldl_snd | split

theorem stopCycles_same {m : Nat} {s0 s : State} {cut : Bool} (hm : sub 16777360 m = true) (h : Same m s0 s) :
    Same m s0 (State.stopCycles s cut) := by
  refine Same.step ?_ hm h
  unfold State.stopCycles
  try dsimp only
  repeat' first
    | with_reducible exact Same.refl _ _ | exact rfl | with_reducible assumption
    | exact fun (e : Nat.testBit _ _ = false) => absurd e (by decide) | with_reducible exact fun _ => rfl | intro _
    | with_reducible apply same_ite | with_reducible apply gregFail_same | with_reducible apply modLink_same
    | with_reducible apply same_foldl | with_reducible apply same_overIdx | simp only [↓same_mk_tag]
    | with_reducible apply SameMk.intro | with_reducible apply same_foldl_fst | with_reducible apply same_foldl_snd
    | split

theorem linkPhase_same {m : Nat} {s0 s : State} {n : Nat} (hm : sub 16777360 m = true) (h : Same m s0 s) :
    Same m s0 (State.linkPhase s n) := by
  refine Same.step ?_ hm h
  unfold State.linkPhase
  try dsimp only
  repeat' first
    | with_reducible exact Same.refl _ _ | exact rfl | with_reducible assumption
    | exact fun (e : Nat.testBit _ _ = false) => absurd e (by decide) | with_reducible exact fun _ => rfl | intro _
    | with_reducible apply same_ite | with_reducible apply modLink_same | with_reducible apply bump_same
    | with_reducible apply put_same | with_reducible apply same_foldl | with_reducible apply same_overIdx
    | simp only [↓same_mk_tag] | with_reducible apply SameMk.intro | with_reducible apply same_foldl_fst
    | with_reducible apply same_foldl_snd | split

theorem clearEnum_same {m : Nat} {s0 s : State} (hm : sub 16 m = true) (h : Same m s0 s) :
    Same m s0 (State.clearEnum s) := by
  refine Same.step ?_ hm h
  unfold State.clearEnum
  try dsimp only
  repeat' first
    | with_reducible exact Same.refl _ _ | exact rfl | with_reducible assumption
    | exact fun (e : Nat.testBit _ _ = false) => absurd e (by decide) | with_reducible exact fun _ => rfl | intro _
    | with_reducible apply same_ite | with_reducible apply setReg_same | with_reducible apply same_foldl
    | with_reducible apply same_overIdx | simp only [↓same_mk_tag] | with_reducible apply SameMk.intro
    | with_reducible apply same_foldl_fst | with_reducible apply same_foldl_snd | split

theorem enumerate_same {m : Nat} {s0 s : State} (hm : sub 84672658 m = true) (h : Same m s0 s) :
    Same m s0 (State.enumerate s) := by
  refine Same.step ?_ hm h
  unfold State.enumerate
  try dsimp only
  repeat' first
    | with_reducible exact Same.refl _ _ | exact rfl | with_reducible assumption
    | exact fun (e : Nat.testBit _ _ = false) => absurd e (by decide) | with_reducible exact fun _ => rfl | intro _
    | with_reducible apply same_ite | with_reducible apply clearEnum_same | with_reducible apply leaveAll_same
    | with_reducible apply stopCycles_same | with_reducible apply modLink_same | with_reducible apply put_same
    | with_reducible apply after_same | with_reducible apply linkPhase_same | with_reducible apply same_foldl
    | with_reducible apply same_overIdx | simp only [↓same_mk_tag] | with_reducible apply SameMk.intro
    | with_reducible apply same_foldl_fst | with_reducible apply same_foldl_snd | split

theorem release_same {m : Nat} {s0 s : State} (hm : sub 84672658 m = true) (h : Same m s0 s) :
    Same m s0 (State.release s) := by
  refine Same.step ?_ hm h
  unfold State.release
  try dsimp only
  repeat' first
    | with_reducible exact Same.refl _ _ | exact rfl | with_reducible assumption
    | exact fun (e : Nat.testBit _ _ = false) => absurd e (by decide) | with_reducible exact fun _ => rfl | intro _
    | with_reducible apply same_ite | with_reducible apply leaveAll_same | with_reducible apply stopCycles_same
    | with_reducible apply modLink_same | with_reducible apply put_same | with_reducible apply enumerate_same
    | with_reducible apply same_foldl | with_reducible apply same_overIdx | simp only [↓same_mk_tag]
    | with_reducible apply SameMk.intro | with_reducible apply same_foldl_fst | with_reducible apply same_foldl_snd
    | split

theorem disable_same {m : Nat} {s0 s : State} (hm : sub 84672658 m = true) (h : Same m s0 s) :
    Same m s0 (State.disable s) := by
  refine Same.step ?_ hm h
  unfold State.disable
  try dsimp only
  repeat' first
    | with_reducible exact Same.refl _ _ | exact rfl | with_reducible assumption
    | exact fun (e : Nat.testBit _ _ = false) => absurd e (by decide) | with_reducible exact fun _ => rfl | intro _
    | with_reducible apply same_ite | with_reducible apply at__same | with_reducible apply modLink_same
    | with_reducible apply release_same | with_reducible apply same_foldl | with_reducible apply same_overIdx
    | simp only [↓same_mk_tag] | with_reducible apply SameMk.intro | with_reducible apply same_foldl_fst
    | with_reducible apply same_foldl_snd | split

theorem lockEnd_same {m : Nat} {s0 s : State} (hm : sub 16777362 m = true) (h : Same m s0 s) :
    Same m s0 (State.lockEnd s) := by
  refine Same.step ?_ hm h
  unfold State.lockEnd
  try dsimp only
  repeat' first
    | with_reducible exact Same.refl _ _ | exact rfl | with_reducible assumption
    | exact fun (e : Nat.testBit _ _ = false) => absurd e (by decide) | with_reducible exact fun _ => rfl | intro _
    | with_reducible apply same_ite | with_reducible apply after_same | with_reducible apply linkPhase_same
    | with_reducible apply same_foldl | with_reducible apply same_overIdx | simp only [↓same_mk_tag]
    | with_reducible apply SameMk.intro | with_reducible apply same_foldl_fst | with_reducible apply same_foldl_snd
    | split

theorem enumFails_same {m : Nat} {s0 s : State} {r : Nat} (hm : sub 17039506 m = true) (h : Same m s0 s) :
    Same m s0 (State.enumFails s r) := by
  refine Same.step ?_ hm h
  unfold State.enumFails
  try dsimp only
  repeat' first
    | with_reducible exact Same.refl _ _ | exact rfl | with_reducible assumption
    | exact fun (e : Nat.testBit _ _ = false) => absurd e (by decide) | with_reducible exact fun _ => rfl | intro _
    | with_reducible apply same_ite | with_reducible apply setBit_same | with_reducible apply put_same
    | with_reducible apply modLink_same | with_reducible apply notice_same | with_reducible apply same_foldl
    | with_reducible apply same_overIdx | simp only [↓same_mk_tag] | with_reducible apply SameMk.intro
    | with_reducible apply same_foldl_fst | with_reducible apply same_foldl_snd | split

theorem ringOpens_same {m : Nat} {s0 s : State} (hm : sub 17039506 m = true) (h : Same m s0 s) :
    Same m s0 (State.ringOpens s) := by
  refine Same.step ?_ hm h
  unfold State.ringOpens
  try dsimp only
  repeat' first
    | with_reducible exact Same.refl _ _ | exact rfl | with_reducible assumption
    | exact fun (e : Nat.testBit _ _ = false) => absurd e (by decide) | with_reducible exact fun _ => rfl | intro _
    | with_reducible apply same_ite | with_reducible apply enumFails_same | with_reducible apply put_same
    | with_reducible apply same_foldl | with_reducible apply same_overIdx | simp only [↓same_mk_tag]
    | with_reducible apply SameMk.intro | with_reducible apply same_foldl_fst | with_reducible apply same_foldl_snd
    | split

theorem drivesAgain_same {m : Nat} {s0 s : State} {hop : Nat} {g : Nat} (hm : sub 50331648 m = true) (h : Same m s0 s)
    :
    Same m s0 (State.drivesAgain s hop g) := by
  refine Same.step ?_ hm h
  unfold State.drivesAgain
  try dsimp only
  repeat' first
    | with_reducible exact Same.refl _ _ | exact rfl | with_reducible assumption
    | exact fun (e : Nat.testBit _ _ = false) => absurd e (by decide) | with_reducible exact fun _ => rfl | intro _
    | with_reducible apply same_ite | with_reducible apply modLink_same | with_reducible apply same_foldl
    | with_reducible apply same_overIdx | simp only [↓same_mk_tag] | with_reducible apply SameMk.intro
    | with_reducible apply same_foldl_fst | with_reducible apply same_foldl_snd | split

theorem hopDone_same {m : Nat} {s0 s : State} {r : List Nat} (hm : sub 17039506 m = true) (h : Same m s0 s) :
    Same m s0 (State.hopDone s r) := by
  refine Same.step ?_ hm h
  unfold State.hopDone
  try dsimp only
  repeat' first
    | with_reducible exact Same.refl _ _ | exact rfl | with_reducible assumption
    | exact fun (e : Nat.testBit _ _ = false) => absurd e (by decide) | with_reducible exact fun _ => rfl | intro _
    | with_reducible apply same_ite | with_reducible apply put_same | with_reducible apply enumFails_same
    | with_reducible apply modLink_same | with_reducible apply linkPhase_same | with_reducible apply at__same
    | with_reducible apply same_foldl | with_reducible apply same_overIdx | simp only [↓same_mk_tag]
    | with_reducible apply SameMk.intro | with_reducible apply same_foldl_fst | with_reducible apply same_foldl_snd
    | split

theorem identReport_same {m : Nat} {s0 s : State} (hm : sub 17039506 m = true) (h : Same m s0 s) :
    Same m s0 (State.identReport s) := by
  refine Same.step ?_ hm h
  unfold State.identReport
  try dsimp only
  repeat' first
    | with_reducible exact Same.refl _ _ | exact rfl | with_reducible assumption
    | exact fun (e : Nat.testBit _ _ = false) => absurd e (by decide) | with_reducible exact fun _ => rfl | intro _
    | with_reducible apply same_ite | with_reducible apply put_same | with_reducible apply notice_same
    | with_reducible apply setBit_same | with_reducible apply modLink_same | with_reducible apply same_foldl
    | with_reducible apply same_overIdx | simp only [↓same_mk_tag] | with_reducible apply SameMk.intro
    | with_reducible apply same_foldl_fst | with_reducible apply same_foldl_snd | split

theorem memberRegs_same {m : Nat} {s0 s : State} {g : Nat} {pos : Nat} {slot : Nat} {delay : Nat} {strap : Nat}
    {rev : Nat} (hm : sub 16 m = true) (h : Same m s0 s) :
    Same m s0 (State.memberRegs s g pos slot delay strap rev) := by
  refine Same.step ?_ hm h
  unfold State.memberRegs
  try dsimp only
  repeat' first
    | with_reducible exact Same.refl _ _ | exact rfl | with_reducible assumption
    | exact fun (e : Nat.testBit _ _ = false) => absurd e (by decide) | with_reducible exact fun _ => rfl | intro _
    | with_reducible apply same_ite | with_reducible apply put_same | with_reducible apply same_foldl
    | with_reducible apply same_overIdx | simp only [↓same_mk_tag] | with_reducible apply SameMk.intro
    | with_reducible apply same_foldl_fst | with_reducible apply same_foldl_snd | split

theorem identEnd_same {m : Nat} {s0 s : State} (hm : sub 17039506 m = true) (h : Same m s0 s) :
    Same m s0 (State.identEnd s) := by
  refine Same.step ?_ hm h
  unfold State.identEnd
  try dsimp only
  repeat' first
    | with_reducible exact Same.refl _ _ | exact rfl | with_reducible assumption
    | exact fun (e : Nat.testBit _ _ = false) => absurd e (by decide) | with_reducible exact fun _ => rfl | intro _
    | with_reducible apply same_ite | with_reducible apply identReport_same | with_reducible apply modLink_same
    | with_reducible apply put_same | with_reducible apply linkPhase_same | with_reducible apply memberRegs_same
    | with_reducible apply sendFrame_same | with_reducible apply at__same | with_reducible apply same_foldl
    | with_reducible apply same_overIdx | simp only [↓same_mk_tag] | with_reducible apply SameMk.intro
    | with_reducible apply same_foldl_fst | with_reducible apply same_foldl_snd | split

theorem enumDone_same {m : Nat} {s0 s : State} (hm : sub 17039506 m = true) (h : Same m s0 s) :
    Same m s0 (State.enumDone s) := by
  refine Same.step ?_ hm h
  unfold State.enumDone
  try dsimp only
  repeat' first
    | with_reducible exact Same.refl _ _ | exact rfl | with_reducible assumption
    | exact fun (e : Nat.testBit _ _ = false) => absurd e (by decide) | with_reducible exact fun _ => rfl | intro _
    | with_reducible apply same_ite | with_reducible apply modLink_same | with_reducible apply notice_same
    | with_reducible apply put_same | with_reducible apply same_foldl | with_reducible apply same_overIdx
    | simp only [↓same_mk_tag] | with_reducible apply SameMk.intro | with_reducible apply same_foldl_fst
    | with_reducible apply same_foldl_snd | split

theorem countPark_same {m : Nat} {s0 s : State} (hm : sub 1024 m = true) (h : Same m s0 s) :
    Same m s0 (State.countPark s) := by
  refine Same.step ?_ hm h
  unfold State.countPark
  try dsimp only
  repeat' first
    | with_reducible exact Same.refl _ _ | exact rfl | with_reducible assumption
    | exact fun (e : Nat.testBit _ _ = false) => absurd e (by decide) | with_reducible exact fun _ => rfl | intro _
    | with_reducible apply same_ite | with_reducible apply same_foldl | with_reducible apply same_overIdx
    | simp only [↓same_mk_tag] | with_reducible apply SameMk.intro | with_reducible apply same_foldl_fst
    | with_reducible apply same_foldl_snd | split

theorem landCycle_same {m : Nat} {s0 s : State} (hm : sub 32 m = true) (h : Same m s0 s) :
    Same m s0 (State.landCycle s) := by
  refine Same.step ?_ hm h
  unfold State.landCycle
  try dsimp only
  repeat' first
    | with_reducible exact Same.refl _ _ | exact rfl | with_reducible assumption
    | exact fun (e : Nat.testBit _ _ = false) => absurd e (by decide) | with_reducible exact fun _ => rfl | intro _
    | with_reducible apply same_ite | with_reducible apply land_same | with_reducible apply same_foldl
    | with_reducible apply same_overIdx | simp only [↓same_mk_tag] | with_reducible apply SameMk.intro
    | with_reducible apply same_foldl_fst | with_reducible apply same_foldl_snd | split

theorem unitCycle_same {m : Nat} {s0 s : State} {f : LinkFrame} {u : Nat} (hm : sub 16777218 m = true)
    (h : Same m s0 s) :
    Same m s0 (State.unitCycle s f u) := by
  refine Same.step ?_ hm h
  unfold State.unitCycle
  try dsimp only
  repeat' first
    | with_reducible exact Same.refl _ _ | exact rfl | with_reducible assumption
    | exact fun (e : Nat.testBit _ _ = false) => absurd e (by decide) | with_reducible exact fun _ => rfl | intro _
    | with_reducible apply same_ite | with_reducible apply modLink_same | with_reducible apply at__same
    | with_reducible apply same_foldl | with_reducible apply same_overIdx | simp only [↓same_mk_tag]
    | with_reducible apply SameMk.intro | with_reducible apply same_foldl_fst | with_reducible apply same_foldl_snd
    | split

theorem slotCycle_same {m : Nat} {s0 s : State} {t : Nat} {g : Nat} (hm : sub 2 m = true) (h : Same m s0 s) :
    Same m s0 (State.slotCycle s t g) := by
  refine Same.step ?_ hm h
  unfold State.slotCycle
  try dsimp only
  repeat' first
    | with_reducible exact Same.refl _ _ | exact rfl | with_reducible assumption
    | exact fun (e : Nat.testBit _ _ = false) => absurd e (by decide) | with_reducible exact fun _ => rfl | intro _
    | with_reducible apply same_ite | with_reducible apply at__same | with_reducible apply same_foldl
    | with_reducible apply same_overIdx | simp only [↓same_mk_tag] | with_reducible apply SameMk.intro
    | with_reducible apply same_foldl_fst | with_reducible apply same_foldl_snd | split

theorem startCycle_same {m : Nat} {s0 s : State} (hm : sub 16777394 m = true) (h : Same m s0 s) :
    Same m s0 (State.startCycle s) := by
  refine Same.step ?_ hm h
  unfold State.startCycle
  try dsimp only
  repeat' first
    | with_reducible exact Same.refl _ _ | exact rfl | with_reducible assumption
    | exact fun (e : Nat.testBit _ _ = false) => absurd e (by decide) | with_reducible exact fun _ => rfl | intro _
    | with_reducible apply same_ite | with_reducible apply landCycle_same | with_reducible apply put_same
    | with_reducible apply modLink_same | with_reducible apply bump_same | with_reducible apply unitCycle_same
    | with_reducible apply slotCycle_same | with_reducible apply pumpAt_same | with_reducible apply at__same
    | with_reducible apply after_same | with_reducible apply same_foldl | with_reducible apply same_overIdx
    | simp only [↓same_mk_tag] | with_reducible apply SameMk.intro | with_reducible apply same_foldl_fst
    | with_reducible apply same_foldl_snd | split

theorem runPhase_same {m : Nat} {s0 s : State} (hm : sub 16777362 m = true) (h : Same m s0 s) :
    Same m s0 (State.runPhase s) := by
  refine Same.step ?_ hm h
  unfold State.runPhase
  try dsimp only
  repeat' first
    | with_reducible exact Same.refl _ _ | exact rfl | with_reducible assumption
    | exact fun (e : Nat.testBit _ _ = false) => absurd e (by decide) | with_reducible exact fun _ => rfl | intro _
    | with_reducible apply same_ite | with_reducible apply at__same | with_reducible apply modLink_same
    | with_reducible apply linkPhase_same | with_reducible apply same_foldl | with_reducible apply same_overIdx
    | simp only [↓same_mk_tag] | with_reducible apply SameMk.intro | with_reducible apply same_foldl_fst
    | with_reducible apply same_foldl_snd | split

theorem resumeCycles_same {m : Nat} {s0 s : State} (hm : sub 84672658 m = true) (h : Same m s0 s) :
    Same m s0 (State.resumeCycles s) := by
  refine Same.step ?_ hm h
  unfold State.resumeCycles
  try dsimp only
  repeat' first
    | with_reducible exact Same.refl _ _ | exact rfl | with_reducible assumption
    | exact fun (e : Nat.testBit _ _ = false) => absurd e (by decide) | with_reducible exact fun _ => rfl | intro _
    | with_reducible apply same_ite | with_reducible apply at__same | with_reducible apply modLink_same
    | with_reducible apply enumerate_same | with_reducible apply same_foldl | with_reducible apply same_overIdx
    | simp only [↓same_mk_tag] | with_reducible apply SameMk.intro | with_reducible apply same_foldl_fst
    | with_reducible apply same_foldl_snd | split

theorem removeAcked_same {m : Nat} {s0 s : State} {g : Nat} {ack : Nat} (hm : sub 786578 m = true) (h : Same m s0 s) :
    Same m s0 (State.removeAcked s g ack) := by
  refine Same.step ?_ hm h
  unfold State.removeAcked
  try dsimp only
  repeat' first
    | with_reducible exact Same.refl _ _ | exact rfl | with_reducible assumption
    | exact fun (e : Nat.testBit _ _ = false) => absurd e (by decide) | with_reducible exact fun _ => rfl | intro _
    | with_reducible apply same_ite | with_reducible apply setFire_same | with_reducible apply same_foldl
    | with_reducible apply same_overIdx | simp only [↓same_mk_tag] | with_reducible apply SameMk.intro
    | with_reducible apply same_foldl_fst | with_reducible apply same_foldl_snd | split

theorem gregReply_same {m : Nat} {s0 s : State} {g : Nat} {v : Nat} (hm : sub 84149394 m = true) (h : Same m s0 s) :
    Same m s0 (State.gregReply s g v) := by
  refine Same.step ?_ hm h
  unfold State.gregReply
  try dsimp only
  repeat' first
    | with_reducible exact Same.refl _ _ | exact rfl | with_reducible assumption
    | exact fun (e : Nat.testBit _ _ = false) => absurd e (by decide) | with_reducible exact fun _ => rfl | intro _
    | with_reducible apply same_ite | with_reducible apply modLink_same | with_reducible apply put_same
    | with_reducible apply setBit_same | with_reducible apply reading_same | with_reducible apply same_foldl
    | with_reducible apply same_overIdx | simp only [↓same_mk_tag] | with_reducible apply SameMk.intro
    | with_reducible apply same_foldl_fst | with_reducible apply same_foldl_snd | split

theorem auxHeld_same {m : Nat} {s0 s : State} {g : Nat} {c : ReadContent} (hm : sub 84149394 m = true)
    (h : Same m s0 s) :
    Same m s0 (State.auxHeld s g c) := by
  refine Same.step ?_ hm h
  unfold State.auxHeld
  try dsimp only
  repeat' first
    | with_reducible exact Same.refl _ _ | exact rfl | with_reducible assumption
    | exact fun (e : Nat.testBit _ _ = false) => absurd e (by decide) | with_reducible exact fun _ => rfl | intro _
    | with_reducible apply same_ite | with_reducible apply gregReply_same | with_reducible apply notice_same
    | with_reducible apply same_foldl | with_reducible apply same_overIdx | simp only [↓same_mk_tag]
    | with_reducible apply SameMk.intro | with_reducible apply same_foldl_fst | with_reducible apply same_foldl_snd
    | split

theorem frameHeld_same {m : Nat} {s0 s : State} {g : Nat} {c : ReadContent} (hm : sub 84673682 m = true)
    (h : Same m s0 s) :
    Same m s0 (State.frameHeld s g c) := by
  refine Same.step ?_ hm h
  unfold State.frameHeld
  try dsimp only
  repeat' first
    | with_reducible exact Same.refl _ _ | exact rfl | with_reducible assumption
    | exact fun (e : Nat.testBit _ _ = false) => absurd e (by decide) | with_reducible exact fun _ => rfl | intro _
    | with_reducible apply same_ite | with_reducible apply put_same | with_reducible apply modMember_same
    | with_reducible apply auxHeld_same | with_reducible apply removeAcked_same
    | with_reducible apply countStations_same | with_reducible apply zonesUpdate_same
    | with_reducible apply askHold_same | with_reducible apply pump_same | with_reducible apply same_foldl
    | with_reducible apply same_overIdx | simp only [↓same_mk_tag] | with_reducible apply SameMk.intro
    | with_reducible apply same_foldl_fst | with_reducible apply same_foldl_snd | split

theorem slotFrame_same {m : Nat} {s0 s : State} {u : Nat} {a : Nat} {rx : Rx} (hm : sub 118228114 m = true)
    (h : Same m s0 s) :
    Same m s0 (State.slotFrame s u a rx) := by
  refine Same.step ?_ hm h
  unfold State.slotFrame
  try dsimp only
  repeat' first
    | with_reducible exact Same.refl _ _ | exact rfl | with_reducible assumption
    | exact fun (e : Nat.testBit _ _ = false) => absurd e (by decide) | with_reducible exact fun _ => rfl | intro _
    | with_reducible apply same_ite | with_reducible apply setStation_same | with_reducible apply frameHeld_same
    | with_reducible apply bump_same | with_reducible apply bumpBy_same | with_reducible apply same_foldl
    | with_reducible apply same_overIdx | simp only [↓same_mk_tag] | with_reducible apply SameMk.intro
    | with_reducible apply same_foldl_fst | with_reducible apply same_foldl_snd | split

theorem slotMiss_same {m : Nat} {s0 s : State} {g : Nat} {m_ : Member} (hm : sub 84672658 m = true) (h : Same m s0 s)
    :
    Same m s0 (State.slotMiss s g m_) := by
  refine Same.step ?_ hm h
  unfold State.slotMiss
  try dsimp only
  repeat' first
    | with_reducible exact Same.refl _ _ | exact rfl | with_reducible assumption
    | exact fun (e : Nat.testBit _ _ = false) => absurd e (by decide) | with_reducible exact fun _ => rfl | intro _
    | with_reducible apply same_ite | with_reducible apply modMember_same | with_reducible apply put_same
    | with_reducible apply bump_same | with_reducible apply sticky_same | with_reducible apply galleryGap_same
    | with_reducible apply undeliverable_same | with_reducible apply pump_same | with_reducible apply same_foldl
    | with_reducible apply same_overIdx | simp only [↓same_mk_tag] | with_reducible apply SameMk.intro
    | with_reducible apply same_foldl_fst | with_reducible apply same_foldl_snd | split

theorem markerBack_same {m : Nat} {s0 s : State} {d : Nat} (hm : sub 17039506 m = true) (h : Same m s0 s) :
    Same m s0 (State.markerBack s d) := by
  refine Same.step ?_ hm h
  unfold State.markerBack
  try dsimp only
  repeat' first
    | with_reducible exact Same.refl _ _ | exact rfl | with_reducible assumption
    | exact fun (e : Nat.testBit _ _ = false) => absurd e (by decide) | with_reducible exact fun _ => rfl | intro _
    | with_reducible apply same_ite | with_reducible apply modLink_same | with_reducible apply put_same
    | with_reducible apply notice_same | with_reducible apply setBit_same | with_reducible apply same_foldl
    | with_reducible apply same_overIdx | simp only [↓same_mk_tag] | with_reducible apply SameMk.intro
    | with_reducible apply same_foldl_fst | with_reducible apply same_foldl_snd | split

theorem writeGreg_same {m : Nat} {s0 s : State} {data : Nat} (hm : sub 16777362 m = true) (h : Same m s0 s) :
    Same m s0 (State.writeGreg s data) := by
  refine Same.step ?_ hm h
  unfold State.writeGreg
  try dsimp only
  repeat' first
    | with_reducible exact Same.refl _ _ | exact rfl | with_reducible assumption
    | exact fun (e : Nat.testBit _ _ = false) => absurd e (by decide) | with_reducible exact fun _ => rfl | intro _
    | with_reducible apply same_ite | with_reducible apply put_same | with_reducible apply modLink_same
    | with_reducible apply gregFail_same | with_reducible apply pump_same | with_reducible apply same_foldl
    | with_reducible apply same_overIdx | simp only [↓same_mk_tag] | with_reducible apply SameMk.intro
    | with_reducible apply same_foldl_fst | with_reducible apply same_foldl_snd | split

theorem modBoot_same {m : Nat} {s0 s : State} {f : Boot → Boot} (hm : sub 512 m = true) (h : Same m s0 s) :
    Same m s0 (State.modBoot s f) := by
  refine Same.step ?_ hm h
  unfold State.modBoot
  try dsimp only
  repeat' first
    | with_reducible exact Same.refl _ _ | exact rfl | with_reducible assumption
    | exact fun (e : Nat.testBit _ _ = false) => absurd e (by decide) | with_reducible exact fun _ => rfl | intro _
    | with_reducible apply same_ite | with_reducible apply same_foldl | with_reducible apply same_overIdx
    | simp only [↓same_mk_tag] | with_reducible apply SameMk.intro | with_reducible apply same_foldl_fst
    | with_reducible apply same_foldl_snd | split

theorem modStair_same {m : Nat} {s0 s : State} {f : Stair → Stair} (hm : sub 1024 m = true) (h : Same m s0 s) :
    Same m s0 (State.modStair s f) := by
  refine Same.step ?_ hm h
  unfold State.modStair
  try dsimp only
  repeat' first
    | with_reducible exact Same.refl _ _ | exact rfl | with_reducible assumption
    | exact fun (e : Nat.testBit _ _ = false) => absurd e (by decide) | with_reducible exact fun _ => rfl | intro _
    | with_reducible apply same_ite | with_reducible apply same_foldl | with_reducible apply same_overIdx
    | simp only [↓same_mk_tag] | with_reducible apply SameMk.intro | with_reducible apply same_foldl_fst
    | with_reducible apply same_foldl_snd | split

theorem toStage_same {m : Nat} {s0 s : State} {n : Nat} (hm : sub 16 m = true) (h : Same m s0 s) :
    Same m s0 (State.toStage s n) := by
  refine Same.step ?_ hm h
  unfold State.toStage
  try dsimp only
  repeat' first
    | with_reducible exact Same.refl _ _ | exact rfl | with_reducible assumption
    | exact fun (e : Nat.testBit _ _ = false) => absurd e (by decide) | with_reducible exact fun _ => rfl | intro _
    | with_reducible apply same_ite | with_reducible apply put_same | with_reducible apply same_foldl
    | with_reducible apply same_overIdx | simp only [↓same_mk_tag] | with_reducible apply SameMk.intro
    | with_reducible apply same_foldl_fst | with_reducible apply same_foldl_snd | split

theorem pinsCarry_same {m : Nat} {s0 s : State} {ohms : List Nat} (hm : sub 512 m = true) (h : Same m s0 s) :
    Same m s0 (State.pinsCarry s ohms) := by
  refine Same.step ?_ hm h
  unfold State.pinsCarry
  try dsimp only
  repeat' first
    | with_reducible exact Same.refl _ _ | exact rfl | with_reducible assumption
    | exact fun (e : Nat.testBit _ _ = false) => absurd e (by decide) | with_reducible exact fun _ => rfl | intro _
    | with_reducible apply same_ite | with_reducible apply modBoot_same | with_reducible apply same_foldl
    | with_reducible apply same_overIdx | simp only [↓same_mk_tag] | with_reducible apply SameMk.intro
    | with_reducible apply same_foldl_fst | with_reducible apply same_foldl_snd | split

theorem beginLock_same {m : Nat} {s0 s : State} (hm : sub 18 m = true) (h : Same m s0 s) :
    Same m s0 (State.beginLock s) := by
  refine Same.step ?_ hm h
  unfold State.beginLock
  try dsimp only
  repeat' first
    | with_reducible exact Same.refl _ _ | exact rfl | with_reducible assumption
    | exact fun (e : Nat.testBit _ _ = false) => absurd e (by decide) | with_reducible exact fun _ => rfl | intro _
    | with_reducible apply same_ite | with_reducible apply after_same | with_reducible apply toStage_same
    | with_reducible apply same_foldl | with_reducible apply same_overIdx | simp only [↓same_mk_tag]
    | with_reducible apply SameMk.intro | with_reducible apply same_foldl_fst | with_reducible apply same_foldl_snd
    | split

theorem decodeValid_same {m : Nat} {s0 s : State} {ohms : List Nat} (hm : sub 538 m = true) (h : Same m s0 s) :
    Same m s0 (State.decodeValid s ohms) := by
  refine Same.step ?_ hm h
  unfold State.decodeValid
  try dsimp only
  repeat' first
    | with_reducible exact Same.refl _ _ | exact rfl | with_reducible assumption
    | exact fun (e : Nat.testBit _ _ = false) => absurd e (by decide) | with_reducible exact fun _ => rfl | intro _
    | with_reducible apply same_ite | with_reducible apply pinsCarry_same | with_reducible apply readStrap_same
    | with_reducible apply withdraw_same | with_reducible apply put_same | with_reducible apply modBoot_same
    | with_reducible apply beginLock_same | with_reducible apply same_foldl | with_reducible apply same_overIdx
    | simp only [↓same_mk_tag] | with_reducible apply SameMk.intro | with_reducible apply same_foldl_fst
    | with_reducible apply same_foldl_snd | split

theorem strapLimits_same {m : Nat} {s0 s : State} (hm : sub 48 m = true) (h : Same m s0 s) :
    Same m s0 (State.strapLimits s) := by
  refine Same.step ?_ hm h
  unfold State.strapLimits
  try dsimp only
  repeat' first
    | with_reducible exact Same.refl _ _ | exact rfl | with_reducible assumption
    | exact fun (e : Nat.testBit _ _ = false) => absurd e (by decide) | with_reducible exact fun _ => rfl | intro _
    | with_reducible apply same_ite | with_reducible apply put_same | with_reducible apply setEff_same
    | with_reducible apply same_foldl | with_reducible apply same_overIdx | simp only [↓same_mk_tag]
    | with_reducible apply SameMk.intro | with_reducible apply same_foldl_fst | with_reducible apply same_foldl_snd
    | split

theorem strapMeanings_same {m : Nat} {s0 s : State} {l : Nat → Nat} (hm : sub 16 m = true) (h : Same m s0 s) :
    Same m s0 (State.strapMeanings s l) := by
  refine Same.step ?_ hm h
  unfold State.strapMeanings
  try dsimp only
  repeat' first
    | with_reducible exact Same.refl _ _ | exact rfl | with_reducible assumption
    | exact fun (e : Nat.testBit _ _ = false) => absurd e (by decide) | with_reducible exact fun _ => rfl | intro _
    | with_reducible apply same_ite | with_reducible apply put_same | with_reducible apply same_foldl
    | with_reducible apply same_overIdx | simp only [↓same_mk_tag] | with_reducible apply SameMk.intro
    | with_reducible apply same_foldl_fst | with_reducible apply same_foldl_snd | split

theorem strapsLatch_same {m : Nat} {s0 s : State} {ohms : List Nat} (hm : sub 262842 m = true) (h : Same m s0 s) :
    Same m s0 (State.strapsLatch s ohms) := by
  refine Same.step ?_ hm h
  unfold State.strapsLatch
  try dsimp only
  repeat' first
    | with_reducible exact Same.refl _ _ | exact rfl | with_reducible assumption
    | exact fun (e : Nat.testBit _ _ = false) => absurd e (by decide) | with_reducible exact fun _ => rfl | intro _
    | with_reducible apply same_ite | with_reducible apply pinsCarry_same | with_reducible apply readStraps_same
    | with_reducible apply setReg_same | with_reducible apply modBoot_same | with_reducible apply strapLimits_same
    | with_reducible apply strapMeanings_same | with_reducible apply withdraw_same | with_reducible apply notice_same
    | with_reducible apply same_foldl | with_reducible apply same_overIdx | simp only [↓same_mk_tag]
    | with_reducible apply SameMk.intro | with_reducible apply same_foldl_fst | with_reducible apply same_foldl_snd
    | split

theorem softLock_same {m : Nat} {s0 s : State} {bits : Nat} (hm : sub 144 m = true) (h : Same m s0 s) :
    Same m s0 (State.softLock s bits) := by
  refine Same.step ?_ hm h
  unfold State.softLock
  try dsimp only
  repeat' first
    | with_reducible exact Same.refl _ _ | exact rfl | with_reducible assumption
    | exact fun (e : Nat.testBit _ _ = false) => absurd e (by decide) | with_reducible exact fun _ => rfl | intro _
    | with_reducible apply same_ite | with_reducible apply setBit_same | with_reducible apply same_foldl
    | with_reducible apply same_overIdx | simp only [↓same_mk_tag] | with_reducible apply SameMk.intro
    | with_reducible apply same_foldl_fst | with_reducible apply same_foldl_snd | split

theorem regsReset_same {m : Nat} {s0 s : State} {keep : Nat → Bool} (hm : sub 16 m = true) (h : Same m s0 s) :
    Same m s0 (State.regsReset s keep) := by
  refine Same.step ?_ hm h
  unfold State.regsReset
  try dsimp only
  repeat' first
    | with_reducible exact Same.refl _ _ | exact rfl | with_reducible assumption
    | exact fun (e : Nat.testBit _ _ = false) => absurd e (by decide) | with_reducible exact fun _ => rfl | intro _
    | with_reducible apply same_ite | with_reducible apply same_foldl | with_reducible apply same_overIdx
    | simp only [↓same_mk_tag] | with_reducible apply SameMk.intro | with_reducible apply same_foldl_fst
    | with_reducible apply same_foldl_snd | split

theorem pcieReset_same {m : Nat} {s0 s : State} (hm : sub 2048 m = true) (h : Same m s0 s) :
    Same m s0 (State.pcieReset s) := by
  refine Same.step ?_ hm h
  unfold State.pcieReset
  try dsimp only
  repeat' first
    | with_reducible exact Same.refl _ _ | exact rfl | with_reducible assumption
    | exact fun (e : Nat.testBit _ _ = false) => absurd e (by decide) | with_reducible exact fun _ => rfl | intro _
    | with_reducible apply same_ite | with_reducible apply same_foldl | with_reducible apply same_overIdx
    | simp only [↓same_mk_tag] | with_reducible apply SameMk.intro | with_reducible apply same_foldl_fst
    | with_reducible apply same_foldl_snd | split

theorem restart_same {m : Nat} {s0 s : State} {keep : Nat → Bool} (hm : sub 2113929202 m = true) (h : Same m s0 s) :
    Same m s0 (State.restart s keep) := by
  refine Same.step ?_ hm h
  unfold State.restart
  try dsimp only
  repeat' first
    | with_reducible exact Same.refl _ _ | exact rfl | with_reducible assumption
    | exact fun (e : Nat.testBit _ _ = false) => absurd e (by decide) | with_reducible exact fun _ => rfl | intro _
    | with_reducible apply same_ite | with_reducible apply put_same | with_reducible apply pcieReset_same
    | with_reducible apply regsReset_same | with_reducible apply same_foldl | with_reducible apply same_overIdx
    | simp only [↓same_mk_tag] | with_reducible apply SameMk.intro | with_reducible apply same_foldl_fst
    | with_reducible apply same_foldl_snd | split

theorem arcFinish_same {m : Nat} {s0 s : State} (hm : sub 23622320128 m = true) (h : Same m s0 s) :
    Same m s0 (State.arcFinish s) := by
  refine Same.step ?_ hm h
  unfold State.arcFinish
  try dsimp only
  repeat' first
    | with_reducible exact Same.refl _ _ | exact rfl | with_reducible assumption
    | exact fun (e : Nat.testBit _ _ = false) => absurd e (by decide) | with_reducible exact fun _ => rfl | intro _
    | with_reducible apply same_ite | with_reducible apply blockIs_same | with_reducible apply rollbackTo_same
    | with_reducible apply same_foldl | with_reducible apply same_overIdx | simp only [↓same_mk_tag]
    | with_reducible apply SameMk.intro | with_reducible apply same_foldl_fst | with_reducible apply same_foldl_snd
    | split

theorem arcTorn_same {m : Nat} {s0 s : State} (hm : sub 23622320136 m = true) (h : Same m s0 s) :
    Same m s0 (State.arcTorn s) := by
  refine Same.step ?_ hm h
  unfold State.arcTorn
  try dsimp only
  repeat' first
    | with_reducible exact Same.refl _ _ | exact rfl | with_reducible assumption
    | exact fun (e : Nat.testBit _ _ = false) => absurd e (by decide) | with_reducible exact fun _ => rfl | intro _
    | with_reducible apply same_ite | with_reducible apply free_same | with_reducible apply blockIs_same
    | with_reducible apply rollbackTo_same | with_reducible apply same_foldl | with_reducible apply same_overIdx
    | simp only [↓same_mk_tag] | with_reducible apply SameMk.intro | with_reducible apply same_foldl_fst
    | with_reducible apply same_foldl_snd | split

theorem beginTraining_same {m : Nat} {s0 s : State} (hm : sub 530 m = true) (h : Same m s0 s) :
    Same m s0 (State.beginTraining s) := by
  refine Same.step ?_ hm h
  unfold State.beginTraining
  try dsimp only
  repeat' first
    | with_reducible exact Same.refl _ _ | exact rfl | with_reducible assumption
    | exact fun (e : Nat.testBit _ _ = false) => absurd e (by decide) | with_reducible exact fun _ => rfl | intro _
    | with_reducible apply same_ite | with_reducible apply after_same | with_reducible apply modBoot_same
    | with_reducible apply toStage_same | with_reducible apply same_foldl | with_reducible apply same_overIdx
    | simp only [↓same_mk_tag] | with_reducible apply SameMk.intro | with_reducible apply same_foldl_fst
    | with_reducible apply same_foldl_snd | split

theorem pcieFree_same {m : Nat} {s0 s : State} (hm : sub 16 m = true) (h : Same m s0 s) :
    Same m s0 (State.pcieFree s) := by
  refine Same.step ?_ hm h
  unfold State.pcieFree
  try dsimp only
  repeat' first
    | with_reducible exact Same.refl _ _ | exact rfl | with_reducible assumption
    | exact fun (e : Nat.testBit _ _ = false) => absurd e (by decide) | with_reducible exact fun _ => rfl | intro _
    | with_reducible apply same_ite | with_reducible apply put_same | with_reducible apply same_foldl
    | with_reducible apply same_overIdx | simp only [↓same_mk_tag] | with_reducible apply SameMk.intro
    | with_reducible apply same_foldl_fst | with_reducible apply same_foldl_snd | split

theorem fullReset_same {m : Nat} {s0 s : State} (hm : sub 25736249338 m = true) (h : Same m s0 s) :
    Same m s0 (State.fullReset s) := by
  refine Same.step ?_ hm h
  unfold State.fullReset
  try dsimp only
  repeat' first
    | with_reducible exact Same.refl _ _ | exact rfl | with_reducible assumption
    | exact fun (e : Nat.testBit _ _ = false) => absurd e (by decide) | with_reducible exact fun _ => rfl | intro _
    | with_reducible apply same_ite | with_reducible apply arcFinish_same | with_reducible apply stopCycles_same
    | with_reducible apply restart_same | with_reducible apply strapLimits_same | with_reducible apply bump_same
    | with_reducible apply put_same | with_reducible apply commitNext_same | with_reducible apply commit_same
    | with_reducible apply pcieFree_same | with_reducible apply beginTraining_same
    | with_reducible apply lockStart_same | with_reducible apply toStage_same | with_reducible apply pllStop_same
    | with_reducible apply same_foldl | with_reducible apply same_overIdx | simp only [↓same_mk_tag]
    | with_reducible apply SameMk.intro | with_reducible apply same_foldl_fst | with_reducible apply same_foldl_snd
    | split

theorem askFull_same {m : Nat} {s0 s : State} (hm : sub 25736249338 m = true) (h : Same m s0 s) :
    Same m s0 (State.askFull s) := by
  refine Same.step ?_ hm h
  unfold State.askFull
  try dsimp only
  repeat' first
    | with_reducible exact Same.refl _ _ | exact rfl | with_reducible assumption
    | exact fun (e : Nat.testBit _ _ = false) => absurd e (by decide) | with_reducible exact fun _ => rfl | intro _
    | with_reducible apply same_ite | with_reducible apply fullReset_same | with_reducible apply modBoot_same
    | with_reducible apply withdraw_same | with_reducible apply toStage_same | with_reducible apply after_same
    | with_reducible apply same_foldl | with_reducible apply same_overIdx | simp only [↓same_mk_tag]
    | with_reducible apply SameMk.intro | with_reducible apply same_foldl_fst | with_reducible apply same_foldl_snd
    | split

end Sys2Proof.Machine
end

