-- ==== Sys2Proof/Laws/Same6.lean ====
section
/-! SUPPORT. What each operation of the model may change, by field of the state, part 6 of 6. -/

namespace Sys2Proof.Machine

theorem perstIn_same {m : Nat} {s0 s : State} (hm : sub 25736249338 m = true) (h : Same m s0 s) :
    Same m s0 (State.perstIn s) := by
  refine Same.step ?_ hm h
  unfold State.perstIn
  try dsimp only
  repeat' first
    | with_reducible exact Same.refl _ _ | exact rfl | with_reducible assumption
    | exact fun (e : Nat.testBit _ _ = false) => absurd e (by decide) | with_reducible exact fun _ => rfl | intro _
    | with_reducible apply same_ite | with_reducible apply modBoot_same | with_reducible apply askFull_same
    | with_reducible apply setBit_same | with_reducible apply setReg_same | with_reducible apply same_foldl
    | with_reducible apply same_overIdx | simp only [↓same_mk_tag] | with_reducible apply SameMk.intro
    | with_reducible apply same_foldl_fst | with_reducible apply same_foldl_snd | split

theorem softFull_same {m : Nat} {s0 s : State} (hm : sub 25736249338 m = true) (h : Same m s0 s) :
    Same m s0 (State.softFull s) := by
  refine Same.step ?_ hm h
  unfold State.softFull
  try dsimp only
  repeat' first
    | with_reducible exact Same.refl _ _ | exact rfl | with_reducible assumption
    | exact fun (e : Nat.testBit _ _ = false) => absurd e (by decide) | with_reducible exact fun _ => rfl | intro _
    | with_reducible apply same_ite | with_reducible apply setBit_same | with_reducible apply askFull_same
    | with_reducible apply same_foldl | with_reducible apply same_overIdx | simp only [↓same_mk_tag]
    | with_reducible apply SameMk.intro | with_reducible apply same_foldl_fst | with_reducible apply same_foldl_snd
    | split

theorem ringsReset_same {m : Nat} {s0 s : State} (hm : sub 268697616 m = true) (h : Same m s0 s) :
    Same m s0 (State.ringsReset s) := by
  refine Same.step ?_ hm h
  unfold State.ringsReset
  try dsimp only
  repeat' first
    | with_reducible exact Same.refl _ _ | exact rfl | with_reducible assumption
    | exact fun (e : Nat.testBit _ _ = false) => absurd e (by decide) | with_reducible exact fun _ => rfl | intro _
    | with_reducible apply same_ite | with_reducible apply put_same | with_reducible apply regsReset_same
    | with_reducible apply same_foldl | with_reducible apply same_overIdx | simp only [↓same_mk_tag]
    | with_reducible apply SameMk.intro | with_reducible apply same_foldl_fst | with_reducible apply same_foldl_snd
    | split

theorem hostReset_same {m : Nat} {s0 s : State} {cause : Fld} (hm : sub 1883015834 m = true) (h : Same m s0 s) :
    Same m s0 (State.hostReset s cause) := by
  refine Same.step ?_ hm h
  unfold State.hostReset
  try dsimp only
  repeat' first
    | with_reducible exact Same.refl _ _ | exact rfl | with_reducible assumption
    | exact fun (e : Nat.testBit _ _ = false) => absurd e (by decide) | with_reducible exact fun _ => rfl | intro _
    | with_reducible apply same_ite | with_reducible apply pcieReset_same | with_reducible apply ringsReset_same
    | with_reducible apply bump_same | with_reducible apply setBit_same | with_reducible apply modBoot_same
    | with_reducible apply abortMask_same | with_reducible apply writersLose_same
    | with_reducible apply emptyQueue_same | with_reducible apply same_foldl | with_reducible apply same_overIdx
    | simp only [↓same_mk_tag] | with_reducible apply SameMk.intro | with_reducible apply same_foldl_fst
    | with_reducible apply same_foldl_snd | split

theorem softHost_same {m : Nat} {s0 s : State} (hm : sub 1883015834 m = true) (h : Same m s0 s) :
    Same m s0 (State.softHost s) := by
  refine Same.step ?_ hm h
  unfold State.softHost
  try dsimp only
  repeat' first
    | with_reducible exact Same.refl _ _ | exact rfl | with_reducible assumption
    | exact fun (e : Nat.testBit _ _ = false) => absurd e (by decide) | with_reducible exact fun _ => rfl | intro _
    | with_reducible apply same_ite | with_reducible apply hostReset_same | with_reducible apply same_foldl
    | with_reducible apply same_overIdx | simp only [↓same_mk_tag] | with_reducible apply SameMk.intro
    | with_reducible apply same_foldl_fst | with_reducible apply same_foldl_snd | split

theorem locked_same {m : Nat} {s0 s : State} (hm : sub 274 m = true) (h : Same m s0 s) :
    Same m s0 (State.locked s) := by
  refine Same.step ?_ hm h
  unfold State.locked
  try dsimp only
  repeat' first
    | with_reducible exact Same.refl _ _ | exact rfl | with_reducible assumption
    | exact fun (e : Nat.testBit _ _ = false) => absurd e (by decide) | with_reducible exact fun _ => rfl | intro _
    | with_reducible apply same_ite | with_reducible apply modNewel_same | with_reducible apply put_same
    | with_reducible apply commitNext_same | with_reducible apply same_foldl | with_reducible apply same_overIdx
    | simp only [↓same_mk_tag] | with_reducible apply SameMk.intro | with_reducible apply same_foldl_fst
    | with_reducible apply same_foldl_snd | split

theorem afterLock_same {m : Nat} {s0 s : State} (hm : sub 25736249338 m = true) (h : Same m s0 s) :
    Same m s0 (State.afterLock s) := by
  refine Same.step ?_ hm h
  unfold State.afterLock
  try dsimp only
  repeat' first
    | with_reducible exact Same.refl _ _ | exact rfl | with_reducible assumption
    | exact fun (e : Nat.testBit _ _ = false) => absurd e (by decide) | with_reducible exact fun _ => rfl | intro _
    | with_reducible apply same_ite | with_reducible apply fullReset_same | with_reducible apply at__same
    | with_reducible apply pcieFree_same | with_reducible apply beginTraining_same | with_reducible apply after_same
    | with_reducible apply same_foldl | with_reducible apply same_overIdx | simp only [↓same_mk_tag]
    | with_reducible apply SameMk.intro | with_reducible apply same_foldl_fst | with_reducible apply same_foldl_snd
    | split

theorem coldBoot_same {m : Nat} {s0 s : State} (hm : sub 18 m = true) (h : Same m s0 s) :
    Same m s0 (State.coldBoot s) := by
  refine Same.step ?_ hm h
  unfold State.coldBoot
  try dsimp only
  repeat' first
    | with_reducible exact Same.refl _ _ | exact rfl | with_reducible assumption
    | exact fun (e : Nat.testBit _ _ = false) => absurd e (by decide) | with_reducible exact fun _ => rfl | intro _
    | with_reducible apply same_ite | with_reducible apply toStage_same | with_reducible apply beginLock_same
    | with_reducible apply after_same | with_reducible apply same_foldl | with_reducible apply same_overIdx
    | simp only [↓same_mk_tag] | with_reducible apply SameMk.intro | with_reducible apply same_foldl_fst
    | with_reducible apply same_foldl_snd | split

theorem vaultExit_same {m : Nat} {s0 s : State} (hm : sub 2113929202 m = true) (h : Same m s0 s) :
    Same m s0 (State.vaultExit s) := by
  refine Same.step ?_ hm h
  unfold State.vaultExit
  try dsimp only
  repeat' first
    | with_reducible exact Same.refl _ _ | exact rfl | with_reducible assumption
    | exact fun (e : Nat.testBit _ _ = false) => absurd e (by decide) | with_reducible exact fun _ => rfl | intro _
    | with_reducible apply same_ite | with_reducible apply modBoot_same | with_reducible apply restart_same
    | with_reducible apply modNewel_same | with_reducible apply coldBoot_same | with_reducible apply setBit_same
    | with_reducible apply same_foldl | with_reducible apply same_overIdx | simp only [↓same_mk_tag]
    | with_reducible apply SameMk.intro | with_reducible apply same_foldl_fst | with_reducible apply same_foldl_snd
    | split

theorem supplyLost_same {m : Nat} {s0 s : State} {main : Bool} (hm : sub 25736249338 m = true) (h : Same m s0 s) :
    Same m s0 (State.supplyLost s main) := by
  refine Same.step ?_ hm h
  unfold State.supplyLost
  try dsimp only
  repeat' first
    | with_reducible exact Same.refl _ _ | exact rfl | with_reducible assumption
    | exact fun (e : Nat.testBit _ _ = false) => absurd e (by decide) | with_reducible exact fun _ => rfl | intro _
    | with_reducible apply same_ite | with_reducible apply modBoot_same | with_reducible apply arcTorn_same
    | with_reducible apply restart_same | with_reducible apply modNewel_same | with_reducible apply same_foldl
    | with_reducible apply same_overIdx | simp only [↓same_mk_tag] | with_reducible apply SameMk.intro
    | with_reducible apply same_foldl_fst | with_reducible apply same_foldl_snd | split

theorem bootHold_same {m : Nat} {s0 s : State} (hm : sub 16 m = true) (h : Same m s0 s) :
    Same m s0 (State.bootHold s) := by
  refine Same.step ?_ hm h
  unfold State.bootHold
  try dsimp only
  repeat' first
    | with_reducible exact Same.refl _ _ | exact rfl | with_reducible assumption
    | exact fun (e : Nat.testBit _ _ = false) => absurd e (by decide) | with_reducible exact fun _ => rfl | intro _
    | with_reducible apply same_ite | with_reducible apply toStage_same | with_reducible apply same_foldl
    | with_reducible apply same_overIdx | simp only [↓same_mk_tag] | with_reducible apply SameMk.intro
    | with_reducible apply same_foldl_fst | with_reducible apply same_foldl_snd | split

theorem showSlot_same {m : Nat} {s0 s : State} {i : Nat} (hm : sub 16 m = true) (h : Same m s0 s) :
    Same m s0 (State.showSlot s i) := by
  refine Same.step ?_ hm h
  unfold State.showSlot
  try dsimp only
  repeat' first
    | with_reducible exact Same.refl _ _ | exact rfl | with_reducible assumption
    | exact fun (e : Nat.testBit _ _ = false) => absurd e (by decide) | with_reducible exact fun _ => rfl | intro _
    | with_reducible apply same_ite | with_reducible apply put_same | with_reducible apply same_foldl
    | with_reducible apply same_overIdx | simp only [↓same_mk_tag] | with_reducible apply SameMk.intro
    | with_reducible apply same_foldl_fst | with_reducible apply same_foldl_snd | split

theorem checkSoon_same {m : Nat} {s0 s : State} (hm : sub 2 m = true) (h : Same m s0 s) :
    Same m s0 (State.checkSoon s) := by
  refine Same.step ?_ hm h
  unfold State.checkSoon
  try dsimp only
  repeat' first
    | with_reducible exact Same.refl _ _ | exact rfl | with_reducible assumption
    | exact fun (e : Nat.testBit _ _ = false) => absurd e (by decide) | with_reducible exact fun _ => rfl | intro _
    | with_reducible apply same_ite | with_reducible apply after_same | with_reducible apply same_foldl
    | with_reducible apply same_overIdx | simp only [↓same_mk_tag] | with_reducible apply SameMk.intro
    | with_reducible apply same_foldl_fst | with_reducible apply same_foldl_snd | split

theorem storeTrained_same {m : Nat} {s0 s : State} {ok : Bool} (hm : sub 530 m = true) (h : Same m s0 s) :
    Same m s0 (State.storeTrained s ok) := by
  refine Same.step ?_ hm h
  unfold State.storeTrained
  try dsimp only
  repeat' first
    | with_reducible exact Same.refl _ _ | exact rfl | with_reducible assumption
    | exact fun (e : Nat.testBit _ _ = false) => absurd e (by decide) | with_reducible exact fun _ => rfl | intro _
    | with_reducible apply same_ite | with_reducible apply withdraw_same | with_reducible apply showSlot_same
    | with_reducible apply put_same | with_reducible apply checkSoon_same | with_reducible apply toStage_same
    | with_reducible apply modBoot_same | with_reducible apply bootHold_same | with_reducible apply same_foldl
    | with_reducible apply same_overIdx | simp only [↓same_mk_tag] | with_reducible apply SameMk.intro
    | with_reducible apply same_foldl_fst | with_reducible apply same_foldl_snd | split

theorem copyFirmware_same {m : Nat} {s0 s : State} {i : Nat} (hm : sub 1610612736 m = true) (h : Same m s0 s) :
    Same m s0 (State.copyFirmware s i) := by
  refine Same.step ?_ hm h
  unfold State.copyFirmware
  try dsimp only
  repeat' first
    | with_reducible exact Same.refl _ _ | exact rfl | with_reducible assumption
    | exact fun (e : Nat.testBit _ _ = false) => absurd e (by decide) | with_reducible exact fun _ => rfl | intro _
    | with_reducible apply same_ite | with_reducible apply storeWrite_same | with_reducible apply same_foldl
    | with_reducible apply same_overIdx | simp only [↓same_mk_tag] | with_reducible apply SameMk.intro
    | with_reducible apply same_foldl_fst | with_reducible apply same_foldl_snd | split

theorem slotRuns_same {m : Nat} {s0 s : State} {i : Nat} (hm : sub 18 m = true) (h : Same m s0 s) :
    Same m s0 (State.slotRuns s i) := by
  refine Same.step ?_ hm h
  unfold State.slotRuns
  try dsimp only
  repeat' first
    | with_reducible exact Same.refl _ _ | exact rfl | with_reducible assumption
    | exact fun (e : Nat.testBit _ _ = false) => absurd e (by decide) | with_reducible exact fun _ => rfl | intro _
    | with_reducible apply same_ite | with_reducible apply put_same | with_reducible apply after_same
    | with_reducible apply toStage_same | with_reducible apply same_foldl | with_reducible apply same_overIdx
    | simp only [↓same_mk_tag] | with_reducible apply SameMk.intro | with_reducible apply same_foldl_fst
    | with_reducible apply same_foldl_snd | split

theorem firmwareChecked_same {m : Nat} {s0 s : State} {sig : Option Bool} {corr : Nat} (hm : sub 1610613402 m = true)
    (h : Same m s0 s) :
    Same m s0 (State.firmwareChecked s sig corr) := by
  refine Same.step ?_ hm h
  unfold State.firmwareChecked
  try dsimp only
  repeat' first
    | with_reducible exact Same.refl _ _ | exact rfl | with_reducible assumption
    | exact fun (e : Nat.testBit _ _ = false) => absurd e (by decide) | with_reducible exact fun _ => rfl | intro _
    | with_reducible apply same_ite | with_reducible apply bumpBy_same | with_reducible apply withdraw_same
    | with_reducible apply free_same | with_reducible apply put_same | with_reducible apply copyFirmware_same
    | with_reducible apply modBoot_same | with_reducible apply slotRuns_same | with_reducible apply bootHold_same
    | with_reducible apply checkSoon_same | with_reducible apply same_foldl | with_reducible apply same_overIdx
    | simp only [↓same_mk_tag] | with_reducible apply SameMk.intro | with_reducible apply same_foldl_fst
    | with_reducible apply same_foldl_snd | split

theorem storeClear_same {m : Nat} {s0 s : State} {a : Nat} {n : Nat} (hm : sub 1610612736 m = true) (h : Same m s0 s)
    :
    Same m s0 (State.storeClear s a n) := by
  refine Same.step ?_ hm h
  unfold State.storeClear
  try dsimp only
  repeat' first
    | with_reducible exact Same.refl _ _ | exact rfl | with_reducible assumption
    | exact fun (e : Nat.testBit _ _ = false) => absurd e (by decide) | with_reducible exact fun _ => rfl | intro _
    | with_reducible apply same_ite | with_reducible apply same_foldl | with_reducible apply same_overIdx
    | simp only [↓same_mk_tag] | with_reducible apply SameMk.intro | with_reducible apply same_foldl_fst
    | with_reducible apply same_foldl_snd | split

theorem calibrate_same {m : Nat} {s0 s : State} {good : Bool} (hm : sub 1610612736 m = true) (h : Same m s0 s) :
    Same m s0 (State.calibrate s good) := by
  refine Same.step ?_ hm h
  unfold State.calibrate
  try dsimp only
  repeat' first
    | with_reducible exact Same.refl _ _ | exact rfl | with_reducible assumption
    | exact fun (e : Nat.testBit _ _ = false) => absurd e (by decide) | with_reducible exact fun _ => rfl | intro _
    | with_reducible apply same_ite | with_reducible apply storeWrite_same | with_reducible apply storeClear_same
    | with_reducible apply same_foldl | with_reducible apply same_overIdx | simp only [↓same_mk_tag]
    | with_reducible apply SameMk.intro | with_reducible apply same_foldl_fst | with_reducible apply same_foldl_snd
    | split

theorem calibrationLoaded_same {m : Nat} {s0 s : State} {corr : Nat} (hm : sub 1677721746 m = true) (h : Same m s0 s)
    :
    Same m s0 (State.calibrationLoaded s corr) := by
  refine Same.step ?_ hm h
  unfold State.calibrationLoaded
  try dsimp only
  repeat' first
    | with_reducible exact Same.refl _ _ | exact rfl | with_reducible assumption
    | exact fun (e : Nat.testBit _ _ = false) => absurd e (by decide) | with_reducible exact fun _ => rfl | intro _
    | with_reducible apply same_ite | with_reducible apply bumpBy_same | with_reducible apply withdraw_same
    | with_reducible apply put_same | with_reducible apply calibrate_same | with_reducible apply after_same
    | with_reducible apply thermalStart_same | with_reducible apply toStage_same | with_reducible apply same_foldl
    | with_reducible apply same_overIdx | simp only [↓same_mk_tag] | with_reducible apply SameMk.intro
    | with_reducible apply same_foldl_fst | with_reducible apply same_foldl_snd | split

theorem woke_same {m : Nat} {s0 s : State} {left : Nat} (hm : sub 262290 m = true) (h : Same m s0 s) :
    Same m s0 (State.woke s left) := by
  refine Same.step ?_ hm h
  unfold State.woke
  try dsimp only
  repeat' first
    | with_reducible exact Same.refl _ _ | exact rfl | with_reducible assumption
    | exact fun (e : Nat.testBit _ _ = false) => absurd e (by decide) | with_reducible exact fun _ => rfl | intro _
    | with_reducible apply same_ite | with_reducible apply notice_same | with_reducible apply same_foldl
    | with_reducible apply same_overIdx | simp only [↓same_mk_tag] | with_reducible apply SameMk.intro
    | with_reducible apply same_foldl_fst | with_reducible apply same_foldl_snd | split

theorem bootDone_same {m : Nat} {s0 s : State} (hm : sub 263826 m = true) (h : Same m s0 s) :
    Same m s0 (State.bootDone s) := by
  refine Same.step ?_ hm h
  unfold State.bootDone
  try dsimp only
  repeat' first
    | with_reducible exact Same.refl _ _ | exact rfl | with_reducible assumption
    | exact fun (e : Nat.testBit _ _ = false) => absurd e (by decide) | with_reducible exact fun _ => rfl | intro _
    | with_reducible apply same_ite | with_reducible apply withdraw_same | with_reducible apply put_same
    | with_reducible apply toStage_same | with_reducible apply modStair_same | with_reducible apply woke_same
    | with_reducible apply modBoot_same | with_reducible apply startEntry_same | with_reducible apply same_foldl
    | with_reducible apply same_overIdx | simp only [↓same_mk_tag] | with_reducible apply SameMk.intro
    | with_reducible apply same_foldl_fst | with_reducible apply same_foldl_snd | split

theorem parkBack_same {m : Nat} {s0 s : State} (hm : sub 16778240 m = true) (h : Same m s0 s) :
    Same m s0 (State.parkBack s) := by
  refine Same.step ?_ hm h
  unfold State.parkBack
  try dsimp only
  repeat' first
    | with_reducible exact Same.refl _ _ | exact rfl | with_reducible assumption
    | exact fun (e : Nat.testBit _ _ = false) => absurd e (by decide) | with_reducible exact fun _ => rfl | intro _
    | with_reducible apply same_ite | with_reducible apply modStair_same | with_reducible apply modLink_same
    | with_reducible apply same_foldl | with_reducible apply same_overIdx | simp only [↓same_mk_tag]
    | with_reducible apply SameMk.intro | with_reducible apply same_foldl_fst | with_reducible apply same_foldl_snd
    | split

theorem startClimb_same {m : Nat} {s0 s : State} {toRun : Bool} (hm : sub 2113929202 m = true) (h : Same m s0 s) :
    Same m s0 (State.startClimb s toRun) := by
  refine Same.step ?_ hm h
  unfold State.startClimb
  try dsimp only
  repeat' first
    | with_reducible exact Same.refl _ _ | exact rfl | with_reducible assumption
    | exact fun (e : Nat.testBit _ _ = false) => absurd e (by decide) | with_reducible exact fun _ => rfl | intro _
    | with_reducible apply same_ite | with_reducible apply put_same | with_reducible apply bump_same
    | with_reducible apply modStair_same | with_reducible apply vaultExit_same | with_reducible apply modBoot_same
    | with_reducible apply after_same | with_reducible apply same_foldl | with_reducible apply same_overIdx
    | simp only [↓same_mk_tag] | with_reducible apply SameMk.intro | with_reducible apply same_foldl_fst
    | with_reducible apply same_foldl_snd | split

theorem runBack_same {m : Nat} {s0 s : State} (hm : sub 66578 m = true) (h : Same m s0 s) :
    Same m s0 (State.runBack s) := by
  refine Same.step ?_ hm h
  unfold State.runBack
  try dsimp only
  repeat' first
    | with_reducible exact Same.refl _ _ | exact rfl | with_reducible assumption
    | exact fun (e : Nat.testBit _ _ = false) => absurd e (by decide) | with_reducible exact fun _ => rfl | intro _
    | with_reducible apply same_ite | with_reducible apply regainSlots_same | with_reducible apply modStair_same
    | with_reducible apply same_foldl | with_reducible apply same_overIdx | simp only [↓same_mk_tag]
    | with_reducible apply SameMk.intro | with_reducible apply same_foldl_fst | with_reducible apply same_foldl_snd
    | split

theorem abortEntry_same {m : Nat} {s0 s : State} {toRun : Bool} (hm : sub 2113929202 m = true) (h : Same m s0 s) :
    Same m s0 (State.abortEntry s toRun) := by
  refine Same.step ?_ hm h
  unfold State.abortEntry
  try dsimp only
  repeat' first
    | with_reducible exact Same.refl _ _ | exact rfl | with_reducible assumption
    | exact fun (e : Nat.testBit _ _ = false) => absurd e (by decide) | with_reducible exact fun _ => rfl | intro _
    | with_reducible apply same_ite | with_reducible apply withdraw_same | with_reducible apply setBit_same
    | with_reducible apply bump_same | with_reducible apply put_same | with_reducible apply notice_same
    | with_reducible apply runBack_same | with_reducible apply startClimb_same | with_reducible apply kick_same
    | with_reducible apply dispatchAll_same | with_reducible apply resumeCycles_same
    | with_reducible apply parkBack_same | with_reducible apply same_foldl | with_reducible apply same_overIdx
    | simp only [↓same_mk_tag] | with_reducible apply SameMk.intro | with_reducible apply same_foldl_fst
    | with_reducible apply same_foldl_snd | split

theorem wakeUp_same {m : Nat} {s0 s : State} {toRun : Bool} (hm : sub 2113929202 m = true) (h : Same m s0 s) :
    Same m s0 (State.wakeUp s toRun) := by
  refine Same.step ?_ hm h
  unfold State.wakeUp
  try dsimp only
  repeat' first
    | with_reducible exact Same.refl _ _ | exact rfl | with_reducible assumption
    | exact fun (e : Nat.testBit _ _ = false) => absurd e (by decide) | with_reducible exact fun _ => rfl | intro _
    | with_reducible apply same_ite | with_reducible apply modStair_same | with_reducible apply abortEntry_same
    | with_reducible apply startClimb_same | with_reducible apply same_foldl | with_reducible apply same_overIdx
    | simp only [↓same_mk_tag] | with_reducible apply SameMk.intro | with_reducible apply same_foldl_fst
    | with_reducible apply same_foldl_snd | split

theorem unitIn_same {m : Nat} {s0 s : State} (hm : sub 2113929202 m = true) (h : Same m s0 s) :
    Same m s0 (State.unitIn s) := by
  refine Same.step ?_ hm h
  unfold State.unitIn
  try dsimp only
  repeat' first
    | with_reducible exact Same.refl _ _ | exact rfl | with_reducible assumption
    | exact fun (e : Nat.testBit _ _ = false) => absurd e (by decide) | with_reducible exact fun _ => rfl | intro _
    | with_reducible apply same_ite | with_reducible apply wakeUp_same | with_reducible apply setBit_same
    | with_reducible apply same_foldl | with_reducible apply same_overIdx | simp only [↓same_mk_tag]
    | with_reducible apply SameMk.intro | with_reducible apply same_foldl_fst | with_reducible apply same_foldl_snd
    | split

theorem phraseIn_same {m : Nat} {s0 s : State} {begun : Nat} (hm : sub 2113929202 m = true) (h : Same m s0 s) :
    Same m s0 (State.phraseIn s begun) := by
  refine Same.step ?_ hm h
  unfold State.phraseIn
  try dsimp only
  repeat' first
    | with_reducible exact Same.refl _ _ | exact rfl | with_reducible assumption
    | exact fun (e : Nat.testBit _ _ = false) => absurd e (by decide) | with_reducible exact fun _ => rfl | intro _
    | with_reducible apply same_ite | with_reducible apply wakeUp_same | with_reducible apply setBit_same
    | with_reducible apply same_foldl | with_reducible apply same_overIdx | simp only [↓same_mk_tag]
    | with_reducible apply SameMk.intro | with_reducible apply same_foldl_fst | with_reducible apply same_foldl_snd
    | split

theorem replaceTarget_same {m : Nat} {s0 s : State} {v : Nat} (hm : sub 16778258 m = true) (h : Same m s0 s) :
    Same m s0 (State.replaceTarget s v) := by
  refine Same.step ?_ hm h
  unfold State.replaceTarget
  try dsimp only
  repeat' first
    | with_reducible exact Same.refl _ _ | exact rfl | with_reducible assumption
    | exact fun (e : Nat.testBit _ _ = false) => absurd e (by decide) | with_reducible exact fun _ => rfl | intro _
    | with_reducible apply same_ite | with_reducible apply withdraw_same | with_reducible apply modStair_same
    | with_reducible apply put_same | with_reducible apply parkBack_same | with_reducible apply pollQuiesce_same
    | with_reducible apply dispatchAll_same | with_reducible apply same_foldl | with_reducible apply same_overIdx
    | simp only [↓same_mk_tag] | with_reducible apply SameMk.intro | with_reducible apply same_foldl_fst
    | with_reducible apply same_foldl_snd | split

theorem seekStep_same {m : Nat} {s0 s : State} {v : Nat} (hm : sub 2113929202 m = true) (h : Same m s0 s) :
    Same m s0 (State.seekStep s v) := by
  refine Same.step ?_ hm h
  unfold State.seekStep
  try dsimp only
  repeat' first
    | with_reducible exact Same.refl _ _ | exact rfl | with_reducible assumption
    | exact fun (e : Nat.testBit _ _ = false) => absurd e (by decide) | with_reducible exact fun _ => rfl | intro _
    | with_reducible apply same_ite | with_reducible apply wakeUp_same | with_reducible apply setBit_same
    | with_reducible apply modStair_same | with_reducible apply replaceTarget_same
    | with_reducible apply startEntry_same | with_reducible apply same_foldl | with_reducible apply same_overIdx
    | simp only [↓same_mk_tag] | with_reducible apply SameMk.intro | with_reducible apply same_foldl_fst
    | with_reducible apply same_foldl_snd | split

theorem writeTarget_same {m : Nat} {s0 s : State} {v : Nat} (hm : sub 2113929202 m = true) (h : Same m s0 s) :
    Same m s0 (State.writeTarget s v) := by
  refine Same.step ?_ hm h
  unfold State.writeTarget
  try dsimp only
  repeat' first
    | with_reducible exact Same.refl _ _ | exact rfl | with_reducible assumption
    | exact fun (e : Nat.testBit _ _ = false) => absurd e (by decide) | with_reducible exact fun _ => rfl | intro _
    | with_reducible apply same_ite | with_reducible apply refuse_same | with_reducible apply put_same
    | with_reducible apply seekStep_same | with_reducible apply same_foldl | with_reducible apply same_overIdx
    | simp only [↓same_mk_tag] | with_reducible apply SameMk.intro | with_reducible apply same_foldl_fst
    | with_reducible apply same_foldl_snd | split

theorem linkSleep_same {m : Nat} {s0 s : State} {low : Bool} (hm : sub 16 m = true) (h : Same m s0 s) :
    Same m s0 (State.linkSleep s low) := by
  refine Same.step ?_ hm h
  unfold State.linkSleep
  try dsimp only
  repeat' first
    | with_reducible exact Same.refl _ _ | exact rfl | with_reducible assumption
    | exact fun (e : Nat.testBit _ _ = false) => absurd e (by decide) | with_reducible exact fun _ => rfl | intro _
    | with_reducible apply same_ite | with_reducible apply put_same | with_reducible apply same_foldl
    | with_reducible apply same_overIdx | simp only [↓same_mk_tag] | with_reducible apply SameMk.intro
    | with_reducible apply same_foldl_fst | with_reducible apply same_foldl_snd | split

theorem quiesceOver_same {m : Nat} {s0 s : State} (hm : sub 16778258 m = true) (h : Same m s0 s) :
    Same m s0 (State.quiesceOver s) := by
  refine Same.step ?_ hm h
  unfold State.quiesceOver
  try dsimp only
  repeat' first
    | with_reducible exact Same.refl _ _ | exact rfl | with_reducible assumption
    | exact fun (e : Nat.testBit _ _ = false) => absurd e (by decide) | with_reducible exact fun _ => rfl | intro _
    | with_reducible apply same_ite | with_reducible apply modLink_same | with_reducible apply put_same
    | with_reducible apply after_same | with_reducible apply modStair_same | with_reducible apply same_foldl
    | with_reducible apply same_overIdx | simp only [↓same_mk_tag] | with_reducible apply SameMk.intro
    | with_reducible apply same_foldl_fst | with_reducible apply same_foldl_snd | split

theorem quiesceLook_same {m : Nat} {s0 s : State} (hm : sub 16778258 m = true) (h : Same m s0 s) :
    Same m s0 (State.quiesceLook s) := by
  refine Same.step ?_ hm h
  unfold State.quiesceLook
  try dsimp only
  repeat' first
    | with_reducible exact Same.refl _ _ | exact rfl | with_reducible assumption
    | exact fun (e : Nat.testBit _ _ = false) => absurd e (by decide) | with_reducible exact fun _ => rfl | intro _
    | with_reducible apply same_ite | with_reducible apply linkSleep_same | with_reducible apply quiesceOver_same
    | with_reducible apply after_same | with_reducible apply put_same | with_reducible apply same_foldl
    | with_reducible apply same_overIdx | simp only [↓same_mk_tag] | with_reducible apply SameMk.intro
    | with_reducible apply same_foldl_fst | with_reducible apply same_foldl_snd | split

theorem commitTick_same {m : Nat} {s0 s : State} (hm : sub 1042 m = true) (h : Same m s0 s) :
    Same m s0 (State.commitTick s) := by
  refine Same.step ?_ hm h
  unfold State.commitTick
  try dsimp only
  repeat' first
    | with_reducible exact Same.refl _ _ | exact rfl | with_reducible assumption
    | exact fun (e : Nat.testBit _ _ = false) => absurd e (by decide) | with_reducible exact fun _ => rfl | intro _
    | with_reducible apply same_ite | with_reducible apply withdraw_same | with_reducible apply modStair_same
    | with_reducible apply put_same | with_reducible apply putPair_same | with_reducible apply after_same
    | with_reducible apply same_foldl | with_reducible apply same_overIdx | simp only [↓same_mk_tag]
    | with_reducible apply SameMk.intro | with_reducible apply same_foldl_fst | with_reducible apply same_foldl_snd
    | split

theorem isetOff_same {m : Nat} {s0 s : State} {j : Nat} (hm : sub 8210 m = true) (h : Same m s0 s) :
    Same m s0 (State.isetOff s j) := by
  refine Same.step ?_ hm h
  unfold State.isetOff
  try dsimp only
  repeat' first
    | with_reducible exact Same.refl _ _ | exact rfl | with_reducible assumption
    | exact fun (e : Nat.testBit _ _ = false) => absurd e (by decide) | with_reducible exact fun _ => rfl | intro _
    | with_reducible apply same_ite | with_reducible apply withdraw_same | with_reducible apply setIset_same
    | with_reducible apply put_same | with_reducible apply same_foldl | with_reducible apply same_overIdx
    | simp only [↓same_mk_tag] | with_reducible apply SameMk.intro | with_reducible apply same_foldl_fst
    | with_reducible apply same_foldl_snd | split

theorem isetBack_same {m : Nat} {s0 s : State} {j : Nat} (hm : sub 8194 m = true) (h : Same m s0 s) :
    Same m s0 (State.isetBack s j) := by
  refine Same.step ?_ hm h
  unfold State.isetBack
  try dsimp only
  repeat' first
    | with_reducible exact Same.refl _ _ | exact rfl | with_reducible assumption
    | exact fun (e : Nat.testBit _ _ = false) => absurd e (by decide) | with_reducible exact fun _ => rfl | intro _
    | with_reducible apply same_ite | with_reducible apply isetSoon_same | with_reducible apply setIset_same
    | with_reducible apply same_foldl | with_reducible apply same_overIdx | simp only [↓same_mk_tag]
    | with_reducible apply SameMk.intro | with_reducible apply same_foldl_fst | with_reducible apply same_foldl_snd
    | split

theorem unitsStop_same {m : Nat} {s0 s : State} (hm : sub 218947730 m = true) (h : Same m s0 s) :
    Same m s0 (State.unitsStop s) := by
  refine Same.step ?_ hm h
  unfold State.unitsStop
  try dsimp only
  repeat' first
    | with_reducible exact Same.refl _ _ | exact rfl | with_reducible assumption
    | exact fun (e : Nat.testBit _ _ = false) => absurd e (by decide) | with_reducible exact fun _ => rfl | intro _
    | with_reducible apply same_ite | with_reducible apply withdraw_same | with_reducible apply stopCycles_same
    | with_reducible apply isetOff_same | with_reducible apply monsStop_same | with_reducible apply pioStopAll_same
    | with_reducible apply same_foldl | with_reducible apply same_overIdx | simp only [↓same_mk_tag]
    | with_reducible apply SameMk.intro | with_reducible apply same_foldl_fst | with_reducible apply same_foldl_snd
    | split

theorem afterCommit_same {m : Nat} {s0 s : State} (hm : sub 218947730 m = true) (h : Same m s0 s) :
    Same m s0 (State.afterCommit s) := by
  refine Same.step ?_ hm h
  unfold State.afterCommit
  try dsimp only
  repeat' first
    | with_reducible exact Same.refl _ _ | exact rfl | with_reducible assumption
    | exact fun (e : Nat.testBit _ _ = false) => absurd e (by decide) | with_reducible exact fun _ => rfl | intro _
    | with_reducible apply same_ite | with_reducible apply linkSleep_same | with_reducible apply unitsStop_same
    | with_reducible apply setReg_same | with_reducible apply same_foldl | with_reducible apply same_overIdx
    | simp only [↓same_mk_tag] | with_reducible apply SameMk.intro | with_reducible apply same_foldl_fst
    | with_reducible apply same_foldl_snd | split

theorem commitDue_same {m : Nat} {s0 s : State} (hm : sub 218948754 m = true) (h : Same m s0 s) :
    Same m s0 (State.commitDue s) := by
  refine Same.step ?_ hm h
  unfold State.commitDue
  try dsimp only
  repeat' first
    | with_reducible exact Same.refl _ _ | exact rfl | with_reducible assumption
    | exact fun (e : Nat.testBit _ _ = false) => absurd e (by decide) | with_reducible exact fun _ => rfl | intro _
    | with_reducible apply same_ite | with_reducible apply commitTick_same | with_reducible apply afterCommit_same
    | with_reducible apply same_foldl | with_reducible apply same_overIdx | simp only [↓same_mk_tag]
    | with_reducible apply SameMk.intro | with_reducible apply same_foldl_fst | with_reducible apply same_foldl_snd
    | split

theorem pllDown_same {m : Nat} {s0 s : State} (hm : sub 274 m = true) (h : Same m s0 s) :
    Same m s0 (State.pllDown s) := by
  refine Same.step ?_ hm h
  unfold State.pllDown
  try dsimp only
  repeat' first
    | with_reducible exact Same.refl _ _ | exact rfl | with_reducible assumption
    | exact fun (e : Nat.testBit _ _ = false) => absurd e (by decide) | with_reducible exact fun _ => rfl | intro _
    | with_reducible apply same_ite | with_reducible apply pllStop_same | with_reducible apply same_foldl
    | with_reducible apply same_overIdx | simp only [↓same_mk_tag] | with_reducible apply SameMk.intro
    | with_reducible apply same_foldl_fst | with_reducible apply same_foldl_snd | split

theorem stepLoses_same {m : Nat} {s0 s : State} {v : Nat} (hm : sub 1613529234 m = true) (h : Same m s0 s) :
    Same m s0 (State.stepLoses s v) := by
  refine Same.step ?_ hm h
  unfold State.stepLoses
  try dsimp only
  repeat' first
    | with_reducible exact Same.refl _ _ | exact rfl | with_reducible assumption
    | exact fun (e : Nat.testBit _ _ = false) => absurd e (by decide) | with_reducible exact fun _ => rfl | intro _
    | with_reducible apply same_ite | with_reducible apply storeClear_same | with_reducible apply writersLose_same
    | with_reducible apply emptyQueue_same | with_reducible apply same_foldl | with_reducible apply same_overIdx
    | simp only [↓same_mk_tag] | with_reducible apply SameMk.intro | with_reducible apply same_foldl_fst
    | with_reducible apply same_foldl_snd | split

theorem lateTarget_same {m : Nat} {s0 s : State} (hm : sub 2113929202 m = true) (h : Same m s0 s) :
    Same m s0 (State.lateTarget s) := by
  refine Same.step ?_ hm h
  unfold State.lateTarget
  try dsimp only
  repeat' first
    | with_reducible exact Same.refl _ _ | exact rfl | with_reducible assumption
    | exact fun (e : Nat.testBit _ _ = false) => absurd e (by decide) | with_reducible exact fun _ => rfl | intro _
    | with_reducible apply same_ite | with_reducible apply seekStep_same | with_reducible apply modStair_same
    | with_reducible apply same_foldl | with_reducible apply same_overIdx | simp only [↓same_mk_tag]
    | with_reducible apply SameMk.intro | with_reducible apply same_foldl_fst | with_reducible apply same_foldl_snd
    | split

theorem arriveStep_same {m : Nat} {s0 s : State} (hm : sub 2113929202 m = true) (h : Same m s0 s) :
    Same m s0 (State.arriveStep s) := by
  refine Same.step ?_ hm h
  unfold State.arriveStep
  try dsimp only
  repeat' first
    | with_reducible exact Same.refl _ _ | exact rfl | with_reducible assumption
    | exact fun (e : Nat.testBit _ _ = false) => absurd e (by decide) | with_reducible exact fun _ => rfl | intro _
    | with_reducible apply same_ite | with_reducible apply pllDown_same | with_reducible apply put_same
    | with_reducible apply stepLoses_same | with_reducible apply startClimb_same | with_reducible apply modStair_same
    | with_reducible apply lateTarget_same | with_reducible apply same_foldl | with_reducible apply same_overIdx
    | simp only [↓same_mk_tag] | with_reducible apply SameMk.intro | with_reducible apply same_foldl_fst
    | with_reducible apply same_foldl_snd | split

theorem stepEnd_same {m : Nat} {s0 s : State} (hm : sub 2113929202 m = true) (h : Same m s0 s) :
    Same m s0 (State.stepEnd s) := by
  refine Same.step ?_ hm h
  unfold State.stepEnd
  try dsimp only
  repeat' first
    | with_reducible exact Same.refl _ _ | exact rfl | with_reducible assumption
    | exact fun (e : Nat.testBit _ _ = false) => absurd e (by decide) | with_reducible exact fun _ => rfl | intro _
    | with_reducible apply same_ite | with_reducible apply arriveStep_same | with_reducible apply pllDown_same
    | with_reducible apply same_foldl | with_reducible apply same_overIdx | simp only [↓same_mk_tag]
    | with_reducible apply SameMk.intro | with_reducible apply same_foldl_fst | with_reducible apply same_foldl_snd
    | split

theorem serveWaiting_same {m : Nat} {s0 s : State} (hm : sub 2050 m = true) (h : Same m s0 s) :
    Same m s0 (State.serveWaiting s) := by
  refine Same.step ?_ hm h
  unfold State.serveWaiting
  try dsimp only
  repeat' first
    | with_reducible exact Same.refl _ _ | exact rfl | with_reducible assumption
    | exact fun (e : Nat.testBit _ _ = false) => absurd e (by decide) | with_reducible exact fun _ => rfl | intro _
    | with_reducible apply same_ite | with_reducible apply after_same | with_reducible apply same_foldl
    | with_reducible apply same_overIdx | simp only [↓same_mk_tag] | with_reducible apply SameMk.intro
    | with_reducible apply same_foldl_fst | with_reducible apply same_foldl_snd | split

theorem unitsBack_same {m : Nat} {s0 s : State} {left : Nat} {to_ : Nat} (hm : sub 84697234 m = true)
    (h : Same m s0 s) :
    Same m s0 (State.unitsBack s left to_) := by
  refine Same.step ?_ hm h
  unfold State.unitsBack
  try dsimp only
  repeat' first
    | with_reducible exact Same.refl _ _ | exact rfl | with_reducible assumption
    | exact fun (e : Nat.testBit _ _ = false) => absurd e (by decide) | with_reducible exact fun _ => rfl | intro _
    | with_reducible apply same_ite | with_reducible apply modLink_same | with_reducible apply resumeCycles_same
    | with_reducible apply isetBack_same | with_reducible apply ladderNext_same
    | with_reducible apply monsRestart_same | with_reducible apply put_same | with_reducible apply same_foldl
    | with_reducible apply same_overIdx | simp only [↓same_mk_tag] | with_reducible apply SameMk.intro
    | with_reducible apply same_foldl_fst | with_reducible apply same_foldl_snd | split

theorem workBack_same {m : Nat} {s0 s : State} (hm : sub 1879312402 m = true) (h : Same m s0 s) :
    Same m s0 (State.workBack s) := by
  refine Same.step ?_ hm h
  unfold State.workBack
  try dsimp only
  repeat' first
    | with_reducible exact Same.refl _ _ | exact rfl | with_reducible assumption
    | exact fun (e : Nat.testBit _ _ = false) => absurd e (by decide) | with_reducible exact fun _ => rfl | intro _
    | with_reducible apply same_ite | with_reducible apply dispatchAll_same | with_reducible apply wakeWaits_same
    | with_reducible apply kick_same | with_reducible apply requestsBack_same | with_reducible apply serveWaiting_same
    | with_reducible apply same_foldl | with_reducible apply same_overIdx | simp only [↓same_mk_tag]
    | with_reducible apply SameMk.intro | with_reducible apply same_foldl_fst | with_reducible apply same_foldl_snd
    | split

theorem climbed_same {m : Nat} {s0 s : State} (hm : sub 2113929202 m = true) (h : Same m s0 s) :
    Same m s0 (State.climbed s) := by
  refine Same.step ?_ hm h
  unfold State.climbed
  try dsimp only
  repeat' first
    | with_reducible exact Same.refl _ _ | exact rfl | with_reducible assumption
    | exact fun (e : Nat.testBit _ _ = false) => absurd e (by decide) | with_reducible exact fun _ => rfl | intro _
    | with_reducible apply same_ite | with_reducible apply withdraw_same | with_reducible apply put_same
    | with_reducible apply runBack_same | with_reducible apply woke_same | with_reducible apply unitsBack_same
    | with_reducible apply lateTarget_same | with_reducible apply workBack_same | with_reducible apply startEntry_same
    | with_reducible apply same_foldl | with_reducible apply same_overIdx | simp only [↓same_mk_tag]
    | with_reducible apply SameMk.intro | with_reducible apply same_foldl_fst | with_reducible apply same_foldl_snd
    | split

theorem pcieError_same {m : Nat} {s0 s : State} {kind : Nat} {hdr : List Nat} (hm : sub 2192 m = true)
    (h : Same m s0 s) :
    Same m s0 (State.pcieError s kind hdr) := by
  refine Same.step ?_ hm h
  unfold State.pcieError
  try dsimp only
  repeat' first
    | with_reducible exact Same.refl _ _ | exact rfl | with_reducible assumption
    | exact fun (e : Nat.testBit _ _ = false) => absurd e (by decide) | with_reducible exact fun _ => rfl | intro _
    | with_reducible apply same_ite | with_reducible apply bump_same | with_reducible apply same_foldl
    | with_reducible apply same_overIdx | simp only [↓same_mk_tag] | with_reducible apply SameMk.intro
    | with_reducible apply same_foldl_fst | with_reducible apply same_foldl_snd | split

theorem unsupported_same {m : Nat} {s0 s : State} {nonPosted : Bool} (hm : sub 2192 m = true) (h : Same m s0 s) :
    Same m s0 (State.unsupported s nonPosted) := by
  refine Same.step ?_ hm h
  unfold State.unsupported
  try dsimp only
  repeat' first
    | with_reducible exact Same.refl _ _ | exact rfl | with_reducible assumption
    | exact fun (e : Nat.testBit _ _ = false) => absurd e (by decide) | with_reducible exact fun _ => rfl | intro _
    | with_reducible apply same_ite | with_reducible apply pcieError_same | with_reducible apply send_same
    | with_reducible apply same_foldl | with_reducible apply same_overIdx | simp only [↓same_mk_tag]
    | with_reducible apply SameMk.intro | with_reducible apply same_foldl_fst | with_reducible apply same_foldl_snd
    | split

theorem request_same {m : Nat} {s : State} {c : Instr} {f : State → State} (hm : sub 2066 m = true)
    (h_f : ∀ t, Same m t (f t)) : Same m s (State.request s c f) := by
  unfold State.request
  dsimp only
  refine same_ite (Same.refl _ _) (same_ite ?_ ?_)
  · rw [same_mk_tag]
    refine SameMk.intro (Same.refl _ _) ?_ ?_ ?_ ?_ ?_ ?_ ?_ ?_ ?_ ?_ ?_ ?_ ?_ ?_ ?_ ?_ ?_ ?_ ?_ ?_ ?_ ?_ ?_ ?_ ?_ ?_ ?_ ?_ ?_ ?_ ?_ ?_ ?_
    all_goals first | exact fun _ => rfl | exact fun e => absurd (sub_bit hm e) (by decide)
  · exact Same.trans (traffic_same (sub_sub (by decide) hm) (Same.refl _ _)) (h_f _)

theorem bar2Put_same {m : Nat} {s0 s : State} {a : Nat} {bs : List Byte} (hm : sub 1610614928 m = true)
    (h : Same m s0 s) :
    Same m s0 (State.bar2Put s a bs) := by
  refine Same.step ?_ hm h
  unfold State.bar2Put
  try dsimp only
  repeat' first
    | with_reducible exact Same.refl _ _ | exact rfl | with_reducible assumption
    | exact fun (e : Nat.testBit _ _ = false) => absurd e (by decide) | with_reducible exact fun _ => rfl | intro _
    | with_reducible apply same_ite | with_reducible apply unsupported_same | with_reducible apply storeWrite_same
    | with_reducible apply same_foldl | with_reducible apply same_overIdx | simp only [↓same_mk_tag]
    | with_reducible apply SameMk.intro | with_reducible apply same_foldl_fst | with_reducible apply same_foldl_snd
    | split

theorem storeMeets_same {m : Nat} {s0 s : State} {a : Nat} {chk : HallCheck} (hm : sub 1073741968 m = true)
    (h : Same m s0 s) :
    Same m s0 (State.storeMeets s a chk) := by
  refine Same.step ?_ hm h
  unfold State.storeMeets
  try dsimp only
  repeat' first
    | with_reducible exact Same.refl _ _ | exact rfl | with_reducible assumption
    | exact fun (e : Nat.testBit _ _ = false) => absurd e (by decide) | with_reducible exact fun _ => rfl | intro _
    | with_reducible apply same_ite | with_reducible apply storeCorrected_same | with_reducible apply same_foldl
    | with_reducible apply same_overIdx | simp only [↓same_mk_tag] | with_reducible apply SameMk.intro
    | with_reducible apply same_foldl_fst | with_reducible apply same_foldl_snd | split

theorem bar2Get_same {m : Nat} {s0 s : State} {a : Nat} {n : Nat} {chk : HallCheck} (hm : sub 1074006162 m = true)
    (h : Same m s0 s) :
    Same m s0 (State.bar2Get s a n chk) := by
  refine Same.step ?_ hm h
  unfold State.bar2Get
  try dsimp only
  repeat' first
    | with_reducible exact Same.refl _ _ | exact rfl | with_reducible assumption
    | exact fun (e : Nat.testBit _ _ = false) => absurd e (by decide) | with_reducible exact fun _ => rfl | intro _
    | with_reducible apply same_ite | with_reducible apply unsupported_same | with_reducible apply storeMeets_same
    | with_reducible apply storeReadCheck_same | with_reducible apply send_same | with_reducible apply same_foldl
    | with_reducible apply same_overIdx | simp only [↓same_mk_tag] | with_reducible apply SameMk.intro
    | with_reducible apply same_foldl_fst | with_reducible apply same_foldl_snd | split

theorem flushVectors_same {m : Nat} {s0 s : State} (hm : sub 268437522 m = true) (h : Same m s0 s) :
    Same m s0 (State.flushVectors s) := by
  refine Same.step ?_ hm h
  unfold State.flushVectors
  try dsimp only
  repeat' first
    | with_reducible exact Same.refl _ _ | exact rfl | with_reducible assumption
    | exact fun (e : Nat.testBit _ _ = false) => absurd e (by decide) | with_reducible exact fun _ => rfl | intro _
    | with_reducible apply same_ite | with_reducible apply flushVector_same | with_reducible apply same_foldl
    | with_reducible apply same_overIdx | simp only [↓same_mk_tag] | with_reducible apply SameMk.intro
    | with_reducible apply same_foldl_fst | with_reducible apply same_foldl_snd | split

theorem setConfig_same {m : Nat} {s0 s : State} {off : Nat} {w : Word} (hm : sub 2048 m = true) (h : Same m s0 s) :
    Same m s0 (State.setConfig s off w) := by
  refine Same.step ?_ hm h
  unfold State.setConfig
  try dsimp only
  repeat' first
    | with_reducible exact Same.refl _ _ | exact rfl | with_reducible assumption
    | exact fun (e : Nat.testBit _ _ = false) => absurd e (by decide) | with_reducible exact fun _ => rfl | intro _
    | with_reducible apply same_ite | with_reducible apply same_foldl | with_reducible apply same_overIdx
    | simp only [↓same_mk_tag] | with_reducible apply SameMk.intro | with_reducible apply same_foldl_fst
    | with_reducible apply same_foldl_snd | split

theorem configBit_same {m : Nat} {s0 s : State} {off : Nat} {i : Nat} {b : Bool} (hm : sub 2048 m = true)
    (h : Same m s0 s) :
    Same m s0 (State.configBit s off i b) := by
  refine Same.step ?_ hm h
  unfold State.configBit
  try dsimp only
  repeat' first
    | with_reducible exact Same.refl _ _ | exact rfl | with_reducible assumption
    | exact fun (e : Nat.testBit _ _ = false) => absurd e (by decide) | with_reducible exact fun _ => rfl | intro _
    | with_reducible apply same_ite | with_reducible apply setConfig_same | with_reducible apply same_foldl
    | with_reducible apply same_overIdx | simp only [↓same_mk_tag] | with_reducible apply SameMk.intro
    | with_reducible apply same_foldl_fst | with_reducible apply same_foldl_snd | split

theorem unmask_same {m : Nat} {s0 s : State} {v : Option Nat} (hm : sub 268437522 m = true) (h : Same m s0 s) :
    Same m s0 (State.unmask s v) := by
  refine Same.step ?_ hm h
  unfold State.unmask
  try dsimp only
  repeat' first
    | with_reducible exact Same.refl _ _ | exact rfl | with_reducible assumption
    | exact fun (e : Nat.testBit _ _ = false) => absurd e (by decide) | with_reducible exact fun _ => rfl | intro _
    | with_reducible apply same_ite | with_reducible apply flushVector_same | with_reducible apply modVector_same
    | with_reducible apply flushVectors_same | with_reducible apply configBit_same | with_reducible apply same_foldl
    | with_reducible apply same_overIdx | simp only [↓same_mk_tag] | with_reducible apply SameMk.intro
    | with_reducible apply same_foldl_fst | with_reducible apply same_foldl_snd | split

theorem setMaster_same {m : Nat} {s0 s : State} {en : Bool} (hm : sub 1879836818 m = true) (h : Same m s0 s) :
    Same m s0 (State.setMaster s en) := by
  refine Same.step ?_ hm h
  unfold State.setMaster
  try dsimp only
  repeat' first
    | with_reducible exact Same.refl _ _ | exact rfl | with_reducible assumption
    | exact fun (e : Nat.testBit _ _ = false) => absurd e (by decide) | with_reducible exact fun _ => rfl | intro _
    | with_reducible apply same_ite | with_reducible apply hostReturns_same | with_reducible apply configBit_same
    | with_reducible apply requestsBack_same | with_reducible apply requestsGone_same
    | with_reducible apply same_foldl | with_reducible apply same_overIdx | simp only [↓same_mk_tag]
    | with_reducible apply SameMk.intro | with_reducible apply same_foldl_fst | with_reducible apply same_foldl_snd
    | split

theorem setD3_same {m : Nat} {s0 s : State} {on : Bool} (hm : sub 1879836818 m = true) (h : Same m s0 s) :
    Same m s0 (State.setD3 s on) := by
  refine Same.step ?_ hm h
  unfold State.setD3
  try dsimp only
  repeat' first
    | with_reducible exact Same.refl _ _ | exact rfl | with_reducible assumption
    | exact fun (e : Nat.testBit _ _ = false) => absurd e (by decide) | with_reducible exact fun _ => rfl | intro _
    | with_reducible apply same_ite | with_reducible apply requestsBack_same | with_reducible apply requestsGone_same
    | with_reducible apply same_foldl | with_reducible apply same_overIdx | simp only [↓same_mk_tag]
    | with_reducible apply SameMk.intro | with_reducible apply same_foldl_fst | with_reducible apply same_foldl_snd
    | split

theorem configWrite_same {m : Nat} {s0 s : State} {off : Nat} {v : Nat} (hm : sub 1879836818 m = true)
    (h : Same m s0 s) :
    Same m s0 (State.configWrite s off v) := by
  refine Same.step ?_ hm h
  unfold State.configWrite
  try dsimp only
  repeat' first
    | with_reducible exact Same.refl _ _ | exact rfl | with_reducible assumption
    | exact fun (e : Nat.testBit _ _ = false) => absurd e (by decide) | with_reducible exact fun _ => rfl | intro _
    | with_reducible apply same_ite | with_reducible apply setMaster_same | with_reducible apply setConfig_same
    | with_reducible apply setD3_same | with_reducible apply flushVectors_same | with_reducible apply same_foldl
    | with_reducible apply same_overIdx | simp only [↓same_mk_tag] | with_reducible apply SameMk.intro
    | with_reducible apply same_foldl_fst | with_reducible apply same_foldl_snd | split

theorem configured_same {m : Nat} {s0 s : State} {write : Bool} {off : Nat} {data : Nat}
    (hm : sub 1879836818 m = true) (h : Same m s0 s) :
    Same m s0 (State.configured s write off data) := by
  refine Same.step ?_ hm h
  unfold State.configured
  try dsimp only
  repeat' first
    | with_reducible exact Same.refl _ _ | exact rfl | with_reducible assumption
    | exact fun (e : Nat.testBit _ _ = false) => absurd e (by decide) | with_reducible exact fun _ => rfl | intro _
    | with_reducible apply same_ite | with_reducible apply send_same | with_reducible apply configWrite_same
    | with_reducible apply same_foldl | with_reducible apply same_overIdx | simp only [↓same_mk_tag]
    | with_reducible apply SameMk.intro | with_reducible apply same_foldl_fst | with_reducible apply same_foldl_snd
    | split

theorem linkTrained_same {m : Nat} {s0 s : State} {speed : Nat} {width : Nat} (hm : sub 1879312530 m = true)
    (h : Same m s0 s) :
    Same m s0 (State.linkTrained s speed width) := by
  refine Same.step ?_ hm h
  unfold State.linkTrained
  try dsimp only
  repeat' first
    | with_reducible exact Same.refl _ _ | exact rfl | with_reducible assumption
    | exact fun (e : Nat.testBit _ _ = false) => absurd e (by decide) | with_reducible exact fun _ => rfl | intro _
    | with_reducible apply same_ite | with_reducible apply traffic_same | with_reducible apply put_same
    | with_reducible apply sticky_same | with_reducible apply requestsBack_same | with_reducible apply same_foldl
    | with_reducible apply same_overIdx | simp only [↓same_mk_tag] | with_reducible apply SameMk.intro
    | with_reducible apply same_foldl_fst | with_reducible apply same_foldl_snd | split

theorem idleLink_same {m : Nat} {s0 s : State} (hm : sub 18 m = true) (h : Same m s0 s) :
    Same m s0 (State.idleLink s) := by
  refine Same.step ?_ hm h
  unfold State.idleLink
  try dsimp only
  repeat' first
    | with_reducible exact Same.refl _ _ | exact rfl | with_reducible assumption
    | exact fun (e : Nat.testBit _ _ = false) => absurd e (by decide) | with_reducible exact fun _ => rfl | intro _
    | with_reducible apply same_ite | with_reducible apply after_same | with_reducible apply linkSleep_same
    | with_reducible apply same_foldl | with_reducible apply same_overIdx | simp only [↓same_mk_tag]
    | with_reducible apply SameMk.intro | with_reducible apply same_foldl_fst | with_reducible apply same_foldl_snd
    | split

theorem recoveryFails_same {m : Nat} {s0 s : State} {r : Nat} (hm : sub 144 m = true) (h : Same m s0 s) :
    Same m s0 (State.recoveryFails s r) := by
  refine Same.step ?_ hm h
  unfold State.recoveryFails
  try dsimp only
  repeat' first
    | with_reducible exact Same.refl _ _ | exact rfl | with_reducible assumption
    | exact fun (e : Nat.testBit _ _ = false) => absurd e (by decide) | with_reducible exact fun _ => rfl | intro _
    | with_reducible apply same_ite | with_reducible apply put_same | with_reducible apply setBit_same
    | with_reducible apply same_foldl | with_reducible apply same_overIdx | simp only [↓same_mk_tag]
    | with_reducible apply SameMk.intro | with_reducible apply same_foldl_fst | with_reducible apply same_foldl_snd
    | split

theorem recoveryGo_same {m : Nat} {s0 s : State} (hm : sub 8858632338 m = true) (h : Same m s0 s) :
    Same m s0 (State.recoveryGo s) := by
  refine Same.step ?_ hm h
  unfold State.recoveryGo
  try dsimp only
  repeat' first
    | with_reducible exact Same.refl _ _ | exact rfl | with_reducible assumption
    | exact fun (e : Nat.testBit _ _ = false) => absurd e (by decide) | with_reducible exact fun _ => rfl | intro _
    | with_reducible apply same_ite | with_reducible apply recoveryFails_same | with_reducible apply wearUp_same
    | with_reducible apply after_same | with_reducible apply put_same | with_reducible apply modJob_same
    | with_reducible apply same_foldl | with_reducible apply same_overIdx | simp only [↓same_mk_tag]
    | with_reducible apply SameMk.intro | with_reducible apply same_foldl_fst | with_reducible apply same_foldl_snd
    | split

theorem recoveryEnd_same {m : Nat} {s0 s : State} {ok : Bool} (hm : sub 15032647834 m = true) (h : Same m s0 s) :
    Same m s0 (State.recoveryEnd s ok) := by
  refine Same.step ?_ hm h
  unfold State.recoveryEnd
  try dsimp only
  repeat' first
    | with_reducible exact Same.refl _ _ | exact rfl | with_reducible assumption
    | exact fun (e : Nat.testBit _ _ = false) => absurd e (by decide) | with_reducible exact fun _ => rfl | intro _
    | with_reducible apply same_ite | with_reducible apply withdraw_same | with_reducible apply blockIs_same
    | with_reducible apply setBit_same | with_reducible apply put_same | with_reducible apply wearUp_same
    | with_reducible apply freeBytes_same | with_reducible apply recoveryFails_same | with_reducible apply same_foldl
    | with_reducible apply same_overIdx | simp only [↓same_mk_tag] | with_reducible apply SameMk.intro
    | with_reducible apply same_foldl_fst | with_reducible apply same_foldl_snd | split

theorem scrubHall_same {m : Nat} {s0 s : State} {q : Nat} {i : Nat} {chk : HallCheck} (hm : sub 2916498 m = true)
    (h : Same m s0 s) :
    Same m s0 (State.scrubHall s q i chk) := by
  refine Same.step ?_ hm h
  unfold State.scrubHall
  try dsimp only
  repeat' first
    | with_reducible exact Same.refl _ _ | exact rfl | with_reducible assumption
    | exact fun (e : Nat.testBit _ _ = false) => absurd e (by decide) | with_reducible exact fun _ => rfl | intro _
    | with_reducible apply same_ite | with_reducible apply resetQueue_same | with_reducible apply freeListFails_same
    | with_reducible apply hallCorrected_same | with_reducible apply setQueue_same | with_reducible apply same_foldl
    | with_reducible apply same_overIdx | simp only [↓same_mk_tag] | with_reducible apply SameMk.intro
    | with_reducible apply same_foldl_fst | with_reducible apply same_foldl_snd | split

theorem scrubStore_same {m : Nat} {s0 s : State} {a : Nat} {chk : HallCheck} (hm : sub 1074004114 m = true)
    (h : Same m s0 s) :
    Same m s0 (State.scrubStore s a chk) := by
  refine Same.step ?_ hm h
  unfold State.scrubStore
  try dsimp only
  repeat' first
    | with_reducible exact Same.refl _ _ | exact rfl | with_reducible assumption
    | exact fun (e : Nat.testBit _ _ = false) => absurd e (by decide) | with_reducible exact fun _ => rfl | intro _
    | with_reducible apply same_ite | with_reducible apply storeReadCheck_same | with_reducible apply storeMeets_same
    | with_reducible apply same_foldl | with_reducible apply same_overIdx | simp only [↓same_mk_tag]
    | with_reducible apply SameMk.intro | with_reducible apply same_foldl_fst | with_reducible apply same_foldl_snd
    | split

theorem handed_same {m : Nat} {s0 s : State} {r : Rec} (hm : sub 2097154 m = true) (h : Same m s0 s) :
    Same m s0 (State.handed s r) := by
  refine Same.step ?_ hm h
  unfold State.handed
  try dsimp only
  repeat' first
    | with_reducible exact Same.refl _ _ | exact rfl | with_reducible assumption
    | exact fun (e : Nat.testBit _ _ = false) => absurd e (by decide) | with_reducible exact fun _ => rfl | intro _
    | with_reducible apply same_ite | with_reducible apply settle_same | with_reducible apply modFrame_same
    | with_reducible apply same_foldl | with_reducible apply same_overIdx | simp only [↓same_mk_tag]
    | with_reducible apply SameMk.intro | with_reducible apply same_foldl_fst | with_reducible apply same_foldl_snd
    | split

theorem takeDecision_same {m : Nat} {s0 s : State} {d : Decision} (hm : sub 10748050 m = true) (h : Same m s0 s) :
    Same m s0 (State.takeDecision s d) := by
  refine Same.step ?_ hm h
  unfold State.takeDecision
  try dsimp only
  repeat' first
    | with_reducible exact Same.refl _ _ | exact rfl | with_reducible assumption
    | exact fun (e : Nat.testBit _ _ = false) => absurd e (by decide) | with_reducible exact fun _ => rfl | intro _
    | with_reducible apply same_ite | with_reducible apply handed_same | with_reducible apply bump_same
    | with_reducible apply sticky_same | with_reducible apply at__same | with_reducible apply same_foldl
    | with_reducible apply same_overIdx | simp only [↓same_mk_tag] | with_reducible apply SameMk.intro
    | with_reducible apply same_foldl_fst | with_reducible apply same_foldl_snd | split

theorem handDecisions_same {m : Nat} {s0 s : State} (hm : sub 10748050 m = true) (h : Same m s0 s) :
    Same m s0 (State.handDecisions s) := by
  refine Same.step ?_ hm h
  unfold State.handDecisions
  try dsimp only
  repeat' first
    | with_reducible exact Same.refl _ _ | exact rfl | with_reducible assumption
    | exact fun (e : Nat.testBit _ _ = false) => absurd e (by decide) | with_reducible exact fun _ => rfl | intro _
    | with_reducible apply same_ite | with_reducible apply takeDecision_same | with_reducible apply same_foldl
    | with_reducible apply same_overIdx | simp only [↓same_mk_tag] | with_reducible apply SameMk.intro
    | with_reducible apply same_foldl_fst | with_reducible apply same_foldl_snd | split

theorem setJetEnd_same {m : Nat} {s0 s : State} {j : Nat} {e : Nat} (hm : sub 8388608 m = true) (h : Same m s0 s) :
    Same m s0 (State.setJetEnd s j e) := by
  refine Same.step ?_ hm h
  unfold State.setJetEnd
  try dsimp only
  repeat' first
    | with_reducible exact Same.refl _ _ | exact rfl | with_reducible assumption
    | exact fun (e : Nat.testBit _ _ = false) => absurd e (by decide) | with_reducible exact fun _ => rfl | intro _
    | with_reducible apply same_ite | with_reducible apply same_foldl | with_reducible apply same_overIdx
    | simp only [↓same_mk_tag] | with_reducible apply SameMk.intro | with_reducible apply same_foldl_fst
    | with_reducible apply same_foldl_snd | split

theorem admitJets_same {m : Nat} {s0 s : State} {f : Nat} {dur : Nat} {a2 : List Nat} (hm : sub 8388752 m = true)
    (h : Same m s0 s) :
    Same m s0 (State.admitJets s f dur a2).1 := by
  refine Same.step ?_ hm h
  clear h
  induction a2 generalizing s with
  | nil => exact Same.refl _ _
  | cons a l ih =>
    unfold State.admitJets
    try dsimp only
    repeat' first
      | with_reducible exact Same.refl _ _ | exact rfl | with_reducible assumption
      | exact fun (e : Nat.testBit _ _ = false) => absurd e (by decide) | with_reducible exact fun _ => rfl | intro _
      | with_reducible apply same_ite | (with_reducible apply Same.step (hm := sub_self _) ih)
      | with_reducible apply bump_same | with_reducible apply setJetEnd_same | with_reducible apply same_foldl
      | with_reducible apply same_overIdx | simp only [↓same_mk_tag] | with_reducible apply SameMk.intro
      | with_reducible apply same_foldl_fst | with_reducible apply same_foldl_snd | split

theorem queueFire_same {m : Nat} {s0 s : State} {g : Nat} {c : FireCmd} (hm : sub 9175186 m = true) (h : Same m s0 s)
    :
    Same m s0 (State.queueFire s g c) := by
  refine Same.step ?_ hm h
  unfold State.queueFire
  try dsimp only
  repeat' first
    | with_reducible exact Same.refl _ _ | exact rfl | with_reducible assumption
    | exact fun (e : Nat.testBit _ _ = false) => absurd e (by decide) | with_reducible exact fun _ => rfl | intro _
    | with_reducible apply same_ite | with_reducible apply noGallery_same | with_reducible apply late__same
    | with_reducible apply bump_same | with_reducible apply sticky_same | with_reducible apply setFire_same
    | with_reducible apply after_same | with_reducible apply same_foldl | with_reducible apply same_overIdx
    | simp only [↓same_mk_tag] | with_reducible apply SameMk.intro | with_reducible apply same_foldl_fst
    | with_reducible apply same_foldl_snd | split

theorem fireRow_same {m : Nat} {s0 s : State} {f : Nat} {dur : Nat} {fb : Bool} {doubt : Bool} {jets : List Nat}
    (hm : sub 9175186 m = true) (h : Same m s0 s) :
    Same m s0 (State.fireRow s f dur fb doubt jets) := by
  refine Same.step ?_ hm h
  unfold State.fireRow
  try dsimp only
  repeat' first
    | with_reducible exact Same.refl _ _ | exact rfl | with_reducible assumption
    | exact fun (e : Nat.testBit _ _ = false) => absurd e (by decide) | with_reducible exact fun _ => rfl | intro _
    | with_reducible apply same_ite | with_reducible apply admitJets_same | with_reducible apply queueFire_same
    | with_reducible apply same_foldl | with_reducible apply same_overIdx | simp only [↓same_mk_tag]
    | with_reducible apply SameMk.intro | with_reducible apply same_foldl_fst | with_reducible apply same_foldl_snd
    | split

theorem planReject_same {m : Nat} {s0 s : State} {d : Decision} {x : Rec × Bool} {v : Verdict}
    (hm : sub 9175186 m = true) (h : Same m s0 s) :
    Same m s0 (State.planReject s d x v) := by
  refine Same.step ?_ hm h
  unfold State.planReject
  try dsimp only
  repeat' first
    | with_reducible exact Same.refl _ _ | exact rfl | with_reducible assumption
    | exact fun (e : Nat.testBit _ _ = false) => absurd e (by decide) | with_reducible exact fun _ => rfl | intro _
    | with_reducible apply same_ite | with_reducible apply bump_same | with_reducible apply fireRow_same
    | with_reducible apply same_foldl | with_reducible apply same_overIdx | simp only [↓same_mk_tag]
    | with_reducible apply SameMk.intro | with_reducible apply same_foldl_fst | with_reducible apply same_foldl_snd
    | split

theorem planDue_same {m : Nat} {s0 s : State} {a0 : Nat} (hm : sub 9175186 m = true) (h : Same m s0 s) :
    Same m s0 (State.planDue s a0) := by
  refine Same.step ?_ hm h
  clear h
  induction a0 generalizing s with
  | zero => exact Same.refl _ _
  | succ n ih =>
    unfold State.planDue
    try dsimp only
    repeat' first
      | with_reducible exact Same.refl _ _ | exact rfl | with_reducible assumption
      | exact fun (e : Nat.testBit _ _ = false) => absurd e (by decide) | with_reducible exact fun _ => rfl | intro _
      | with_reducible apply same_ite | (with_reducible apply Same.step (hm := sub_self _) ih)
      | with_reducible apply planReject_same | with_reducible apply same_foldl | with_reducible apply same_overIdx
      | simp only [↓same_mk_tag] | with_reducible apply SameMk.intro | with_reducible apply same_foldl_fst
      | with_reducible apply same_foldl_snd | split

theorem planNow_same {m : Nat} {s0 s : State} (hm : sub 9175186 m = true) (h : Same m s0 s) :
    Same m s0 (State.planNow s) := by
  refine Same.step ?_ hm h
  unfold State.planNow
  try dsimp only
  repeat' first
    | with_reducible exact Same.refl _ _ | exact rfl | with_reducible assumption
    | exact fun (e : Nat.testBit _ _ = false) => absurd e (by decide) | with_reducible exact fun _ => rfl | intro _
    | with_reducible apply same_ite | with_reducible apply after_same | with_reducible apply planDue_same
    | with_reducible apply same_foldl | with_reducible apply same_overIdx | simp only [↓same_mk_tag]
    | with_reducible apply SameMk.intro | with_reducible apply same_foldl_fst | with_reducible apply same_foldl_snd
    | split

theorem sweepFires_same {m : Nat} {s0 s : State} {g : Nat} {mask : Nat} (hm : sub 786578 m = true) (h : Same m s0 s) :
    Same m s0 (State.sweepFires s g mask) := by
  refine Same.step ?_ hm h
  unfold State.sweepFires
  try dsimp only
  repeat' first
    | with_reducible exact Same.refl _ _ | exact rfl | with_reducible assumption
    | exact fun (e : Nat.testBit _ _ = false) => absurd e (by decide) | with_reducible exact fun _ => rfl | intro _
    | with_reducible apply same_ite | with_reducible apply bumpBy_same | with_reducible apply setFire_same
    | with_reducible apply same_foldl | with_reducible apply same_overIdx | simp only [↓same_mk_tag]
    | with_reducible apply SameMk.intro | with_reducible apply same_foldl_fst | with_reducible apply same_foldl_snd
    | split

theorem jetEnable_same {m : Nat} {s0 s : State} {g : Nat} {mask : Nat} (hm : sub 786578 m = true) (h : Same m s0 s) :
    Same m s0 (State.jetEnable s g mask) := by
  refine Same.step ?_ hm h
  unfold State.jetEnable
  try dsimp only
  repeat' first
    | with_reducible exact Same.refl _ _ | exact rfl | with_reducible assumption
    | exact fun (e : Nat.testBit _ _ = false) => absurd e (by decide) | with_reducible exact fun _ => rfl | intro _
    | with_reducible apply same_ite | with_reducible apply sweepFires_same | with_reducible apply put_same
    | with_reducible apply same_foldl | with_reducible apply same_overIdx | simp only [↓same_mk_tag]
    | with_reducible apply SameMk.intro | with_reducible apply same_foldl_fst | with_reducible apply same_foldl_snd
    | split

theorem writeField_same {m : Nat} {s0 s : State} {off : Nat} {v : Nat} {f : FieldRow} (hm : sub 144 m = true)
    (h : Same m s0 s) :
    Same m s0 (State.writeField s off v f) := by
  refine Same.step ?_ hm h
  unfold State.writeField
  try dsimp only
  repeat' first
    | with_reducible exact Same.refl _ _ | exact rfl | with_reducible assumption
    | exact fun (e : Nat.testBit _ _ = false) => absurd e (by decide) | with_reducible exact fun _ => rfl | intro _
    | with_reducible apply same_ite | with_reducible apply put_same | with_reducible apply noteClear_same
    | with_reducible apply setReg_same | with_reducible apply same_foldl | with_reducible apply same_overIdx
    | simp only [↓same_mk_tag] | with_reducible apply SameMk.intro | with_reducible apply same_foldl_fst
    | with_reducible apply same_foldl_snd | split

theorem xptWrite_same {m : Nat} {s0 s : State} {x : Nat} {v : Nat} (hm : sub 3408026 m = true) (h : Same m s0 s) :
    Same m s0 (State.xptWrite s x v) := by
  refine Same.step ?_ hm h
  unfold State.xptWrite
  try dsimp only
  repeat' first
    | with_reducible exact Same.refl _ _ | exact rfl | with_reducible assumption
    | exact fun (e : Nat.testBit _ _ = false) => absurd e (by decide) | with_reducible exact fun _ => rfl | intro _
    | with_reducible apply same_ite | with_reducible apply portOff_same | with_reducible apply portOn_same
    | with_reducible apply train_same | with_reducible apply stopPort_same | with_reducible apply runPort_same
    | with_reducible apply same_foldl | with_reducible apply same_overIdx | simp only [↓same_mk_tag]
    | with_reducible apply SameMk.intro | with_reducible apply same_foldl_fst | with_reducible apply same_foldl_snd
    | split

theorem resetWrite_same {m : Nat} {s0 s : State} {v : Nat} (hm : sub 25736249338 m = true) (h : Same m s0 s) :
    Same m s0 (State.resetWrite s v) := by
  refine Same.step ?_ hm h
  unfold State.resetWrite
  try dsimp only
  repeat' first
    | with_reducible exact Same.refl _ _ | exact rfl | with_reducible assumption
    | exact fun (e : Nat.testBit _ _ = false) => absurd e (by decide) | with_reducible exact fun _ => rfl | intro _
    | with_reducible apply same_ite | with_reducible apply softFull_same | with_reducible apply softHost_same
    | with_reducible apply same_foldl | with_reducible apply same_overIdx | simp only [↓same_mk_tag]
    | with_reducible apply SameMk.intro | with_reducible apply same_foldl_fst | with_reducible apply same_foldl_snd
    | split

theorem ownWrite_same {s t : State} {r : Reg} {i : List Nat} {v : Nat} (e : s.ownWrite r i v = some t) :
    Same 25736249338 s t := by
  unfold State.ownWrite at e
  dsimp only at e
  split at e <;> first
    | (injection e with e; subst e; first
        | exact joinConfig_same (by decide) (Same.refl _ _)
        | exact queueSize_same (by decide) (Same.refl _ _)
        | exact flowMap_same (by decide) (Same.refl _ _)
        | exact writeGreg_same (by decide) (Same.refl _ _)
        | exact xptWrite_same (by decide) (Same.refl _ _)
        | exact resetWrite_same (by decide) (Same.refl _ _)
        | exact softLock_same (by decide) (Same.refl _ _)
        | exact doorbell_same (by decide) (Same.refl _ _)
        | exact writeHead_same (by decide) (Same.refl _ _)
        | exact jetEnable_same (by decide) (Same.refl _ _)
        | exact writeIset_same (by decide) (Same.refl _ _))
    | (split at e <;> first | (injection e with e; subst e; exact Same.refl _ _) | exact absurd e (by simp))
    | exact absurd e (by simp)

theorem newelWrite_same {m : Nat} {s0 s : State} {v : Nat} (hm : sub 3424666 m = true) (h : Same m s0 s) :
    Same m s0 (State.newelWrite s v) := by
  refine Same.step ?_ hm h
  unfold State.newelWrite
  try dsimp only
  repeat' first
    | with_reducible exact Same.refl _ _ | exact rfl | with_reducible assumption
    | exact fun (e : Nat.testBit _ _ = false) => absurd e (by decide) | with_reducible exact fun _ => rfl | intro _
    | with_reducible apply same_ite | with_reducible apply commit_same | with_reducible apply snap_same
    | with_reducible apply same_foldl | with_reducible apply same_overIdx | simp only [↓same_mk_tag]
    | with_reducible apply SameMk.intro | with_reducible apply same_foldl_fst | with_reducible apply same_foldl_snd
    | split

theorem linkWrite_same {m : Nat} {s0 s : State} {v : Nat} (hm : sub 84672658 m = true) (h : Same m s0 s) :
    Same m s0 (State.linkWrite s v) := by
  refine Same.step ?_ hm h
  unfold State.linkWrite
  try dsimp only
  repeat' first
    | with_reducible exact Same.refl _ _ | exact rfl | with_reducible assumption
    | exact fun (e : Nat.testBit _ _ = false) => absurd e (by decide) | with_reducible exact fun _ => rfl | intro _
    | with_reducible apply same_ite | with_reducible apply disable_same | with_reducible apply enumerate_same
    | with_reducible apply same_foldl | with_reducible apply same_overIdx | simp only [↓same_mk_tag]
    | with_reducible apply SameMk.intro | with_reducible apply same_foldl_fst | with_reducible apply same_foldl_snd
    | split

theorem ringWrite_same {m : Nat} {s0 s : State} {i : Nat} {v : Nat} (hm : sub 269222034 m = true) (h : Same m s0 s) :
    Same m s0 (State.ringWrite s i v) := by
  refine Same.step ?_ hm h
  unfold State.ringWrite
  try dsimp only
  repeat' first
    | with_reducible exact Same.refl _ _ | exact rfl | with_reducible assumption
    | exact fun (e : Nat.testBit _ _ = false) => absurd e (by decide) | with_reducible exact fun _ => rfl | intro _
    | with_reducible apply same_ite | with_reducible apply enableRing_same | with_reducible apply disableRing_same
    | with_reducible apply resumeRing_same | with_reducible apply same_foldl | with_reducible apply same_overIdx
    | simp only [↓same_mk_tag] | with_reducible apply SameMk.intro | with_reducible apply same_foldl_fst
    | with_reducible apply same_foldl_snd | split

theorem readmitMask_same {m : Nat} {s0 s : State} {n : Nat} {m_ : Nat} (hm : sub 67371154 m = true) (h : Same m s0 s)
    :
    Same m s0 (State.readmitMask s n m_) := by
  refine Same.step ?_ hm h
  unfold State.readmitMask
  try dsimp only
  repeat' first
    | with_reducible exact Same.refl _ _ | exact rfl | with_reducible assumption
    | exact fun (e : Nat.testBit _ _ = false) => absurd e (by decide) | with_reducible exact fun _ => rfl | intro _
    | with_reducible apply same_ite | with_reducible apply zonesUpdate_same | with_reducible apply readmit_same
    | with_reducible apply same_foldl | with_reducible apply same_overIdx | simp only [↓same_mk_tag]
    | with_reducible apply SameMk.intro | with_reducible apply same_foldl_fst | with_reducible apply same_foldl_snd
    | split

theorem acted_same {m : Nat} {s0 s : State} {r : Reg} {i : List Nat} {old : Nat} {v : Nat} {no : List Nat}
    (hm : sub 10703863802 m = true) (h : Same m s0 s) :
    Same m s0 (State.acted s r i old v no) := by
  refine Same.step ?_ hm h
  unfold State.acted
  try dsimp only
  repeat' first
    | with_reducible exact Same.refl _ _ | exact rfl | with_reducible assumption
    | exact fun (e : Nat.testBit _ _ = false) => absurd e (by decide) | with_reducible exact fun _ => rfl | intro _
    | with_reducible apply same_ite | with_reducible apply newelWrite_same | with_reducible apply seekStep_same
    | with_reducible apply startCamera_same | with_reducible apply stopCamera_same | with_reducible apply put_same
    | with_reducible apply softTrigger_same | with_reducible apply linkWrite_same
    | with_reducible apply monEnable_same | with_reducible apply followStrobe_same
    | with_reducible apply strobeEn_same | with_reducible apply armMaxHigh_same
    | with_reducible apply closeBlocks_same | with_reducible apply isetRangeSoon_same
    | with_reducible apply isetSoon_same | with_reducible apply setIset_same | with_reducible apply pioStart_same
    | with_reducible apply pioStopOne_same | with_reducible apply pioPop_same | with_reducible apply writeFlags_same
    | with_reducible apply pioQueues_same | with_reducible apply pioClear_same | with_reducible apply pioPush_same
    | with_reducible apply watermark_same | with_reducible apply kick_same | with_reducible apply ringWrite_same
    | with_reducible apply writeCompletions_same | with_reducible apply hostReturns_same
    | with_reducible apply enableNotices_same | with_reducible apply arrive_same | with_reducible apply abortMask_same
    | with_reducible apply moderated_same | with_reducible apply porterPaced_same
    | with_reducible apply rollbackRaise_same | with_reducible apply recoveryGo_same
    | with_reducible apply readmitMask_same | with_reducible apply zonesUpdate_same
    | with_reducible apply ladderNext_same | with_reducible apply same_foldl | with_reducible apply same_overIdx
    | simp only [↓same_mk_tag] | with_reducible apply SameMk.intro | with_reducible apply same_foldl_fst
    | with_reducible apply same_foldl_snd | split

theorem writeReg_same {m : Nat} {s0 s : State} {r : RegRow} {i : List Nat} {off : Nat} {v : Nat}
    (hm : sub 34326183930 m = true) (h : Same m s0 s) :
    Same m s0 (State.writeReg s r i off v) := by
  refine Same.step ?_ hm h
  unfold State.writeReg
  try dsimp only
  repeat' first
    | with_reducible exact Same.refl _ _ | exact rfl | with_reducible assumption
    | exact fun (e : Nat.testBit _ _ = false) => absurd e (by decide) | with_reducible exact fun _ => rfl | intro _
    | with_reducible apply same_ite | exact Same.step (ownWrite_same (by assumption)) (by decide) (Same.refl _ _)
    | with_reducible apply refuse_same | with_reducible apply noteLate_same | with_reducible apply writeField_same
    | with_reducible apply acted_same | with_reducible apply same_foldl | with_reducible apply same_overIdx
    | simp only [↓same_mk_tag] | with_reducible apply SameMk.intro | with_reducible apply same_foldl_fst
    | with_reducible apply same_foldl_snd | split

theorem msixWrite_same {m : Nat} {s0 s : State} {v : Nat} {w : Nat} {data : Nat} (hm : sub 268437522 m = true)
    (h : Same m s0 s) :
    Same m s0 (State.msixWrite s v w data) := by
  refine Same.step ?_ hm h
  unfold State.msixWrite
  try dsimp only
  repeat' first
    | with_reducible exact Same.refl _ _ | exact rfl | with_reducible assumption
    | exact fun (e : Nat.testBit _ _ = false) => absurd e (by decide) | with_reducible exact fun _ => rfl | intro _
    | with_reducible apply same_ite | with_reducible apply modVector_same | with_reducible apply flushVector_same
    | with_reducible apply same_foldl | with_reducible apply same_overIdx | simp only [↓same_mk_tag]
    | with_reducible apply SameMk.intro | with_reducible apply same_foldl_fst | with_reducible apply same_foldl_snd
    | split

theorem writeWord_same {m : Nat} {s0 s : State} {off : Nat} {v : Nat} (hm : sub 34326183930 m = true)
    (h : Same m s0 s) :
    Same m s0 (State.writeWord s off v) := by
  refine Same.step ?_ hm h
  unfold State.writeWord
  try dsimp only
  repeat' first
    | with_reducible exact Same.refl _ _ | exact rfl | with_reducible assumption
    | exact fun (e : Nat.testBit _ _ = false) => absurd e (by decide) | with_reducible exact fun _ => rfl | intro _
    | with_reducible apply same_ite | with_reducible apply refuse_same | with_reducible apply writeReg_same
    | with_reducible apply msixWrite_same | with_reducible apply same_foldl | with_reducible apply same_overIdx
    | simp only [↓same_mk_tag] | with_reducible apply SameMk.intro | with_reducible apply same_foldl_fst
    | with_reducible apply same_foldl_snd | split

theorem bar0Write_same {m : Nat} {s0 s : State} {off : Nat} {size : Nat} {data : Nat} (hm : sub 34326183930 m = true)
    (h : Same m s0 s) :
    Same m s0 (State.bar0Write s off size data) := by
  refine Same.step ?_ hm h
  unfold State.bar0Write
  try dsimp only
  repeat' first
    | with_reducible exact Same.refl _ _ | exact rfl | with_reducible assumption
    | exact fun (e : Nat.testBit _ _ = false) => absurd e (by decide) | with_reducible exact fun _ => rfl | intro _
    | with_reducible apply same_ite | with_reducible apply writeWord_same | with_reducible apply refuse_same
    | with_reducible apply same_foldl | with_reducible apply same_overIdx | simp only [↓same_mk_tag]
    | with_reducible apply SameMk.intro | with_reducible apply same_foldl_fst | with_reducible apply same_foldl_snd
    | split

theorem debugStep_same {m : Nat} {s0 s : State} (hm : sub 268435458 m = true) (h : Same m s0 s) :
    Same m s0 (State.debugStep s) := by
  refine Same.step ?_ hm h
  unfold State.debugStep
  try dsimp only
  repeat' first
    | with_reducible exact Same.refl _ _ | exact rfl | with_reducible assumption
    | exact fun (e : Nat.testBit _ _ = false) => absurd e (by decide) | with_reducible exact fun _ => rfl | intro _
    | with_reducible apply same_ite | with_reducible apply kickAt_same | with_reducible apply same_foldl
    | with_reducible apply same_overIdx | simp only [↓same_mk_tag] | with_reducible apply SameMk.intro
    | with_reducible apply same_foldl_fst | with_reducible apply same_foldl_snd | split

theorem debug_same {m : Nat} {s0 s : State} {op : DebugOp} (hm : sub 34326183930 m = true) (h : Same m s0 s) :
    Same m s0 (State.debug s op) := by
  refine Same.step ?_ hm h
  unfold State.debug
  try dsimp only
  repeat' first
    | with_reducible exact Same.refl _ _ | exact rfl | with_reducible assumption
    | exact fun (e : Nat.testBit _ _ = false) => absurd e (by decide) | with_reducible exact fun _ => rfl | intro _
    | with_reducible apply same_ite | with_reducible apply send_same | with_reducible apply modBoot_same
    | with_reducible apply bar0Write_same | with_reducible apply storeWrite_same | with_reducible apply debugStep_same
    | with_reducible apply same_foldl | with_reducible apply same_overIdx | simp only [↓same_mk_tag]
    | with_reducible apply SameMk.intro | with_reducible apply same_foldl_fst | with_reducible apply same_foldl_snd
    | split

theorem tickEnd_same {m : Nat} {s0 s : State} (hm : sub 417796338 m = true) (h : Same m s0 s) :
    Same m s0 (State.tickEnd s) := by
  refine Same.step ?_ hm h
  unfold State.tickEnd
  try dsimp only
  repeat' first
    | with_reducible exact Same.refl _ _ | exact rfl | with_reducible assumption
    | exact fun (e : Nat.testBit _ _ = false) => absurd e (by decide) | with_reducible exact fun _ => rfl | intro _
    | with_reducible apply same_ite | with_reducible apply settleEvents_same | with_reducible apply settlePio_same
    | with_reducible apply same_foldl | with_reducible apply same_overIdx | simp only [↓same_mk_tag]
    | with_reducible apply SameMk.intro | with_reducible apply same_foldl_fst | with_reducible apply same_foldl_snd
    | split

theorem edge_same {m : Nat} {s0 s : State} {e : Nat} (hm : sub 134217728 m = true) (h : Same m s0 s) :
    Same m s0 (State.edge s e) := by
  refine Same.step ?_ hm h
  unfold State.edge
  try dsimp only
  repeat' first
    | with_reducible exact Same.refl _ _ | exact rfl | with_reducible assumption
    | exact fun (e : Nat.testBit _ _ = false) => absurd e (by decide) | with_reducible exact fun _ => rfl | intro _
    | with_reducible apply same_ite | with_reducible apply settlePops_same | with_reducible apply pioBegin_same
    | with_reducible apply same_foldl | with_reducible apply same_overIdx | simp only [↓same_mk_tag]
    | with_reducible apply SameMk.intro | with_reducible apply same_foldl_fst | with_reducible apply same_foldl_snd
    | split

end Sys2Proof.Machine
end

