-- ==== Sys2Proof/Laws/State.lean ====
section
/-! SUPPORT. What each elementary update of the state leaves in each field, and how a field of a register reads after it:
no later proof unfolds a record update. -/

namespace Sys2Proof.Machine

@[simp] theorem setReg_pending (s : State) (o : Nat) (w : Word) : (s.setReg o w).pending = s.pending := rfl
@[simp] theorem setReg_agenda (s : State) (o : Nat) (w : Word) : (s.setReg o w).agenda = s.agenda := rfl
@[simp] theorem setReg_now (s : State) (o : Nat) (w : Word) : (s.setReg o w).now = s.now := rfl
@[simp] theorem setReg_freeCount (s : State) (o : Nat) (w : Word) : (s.setReg o w).freeCount = s.freeCount := rfl
@[simp] theorem setReg_regs (s : State) (o : Nat) (w : Word) : (s.setReg o w).regs = s.regs.set o w := rfl
@[simp] theorem setReg_eff (s : State) (o : Nat) (w : Word) : (s.setReg o w).eff = s.eff := rfl
@[simp] theorem setReg_late (s : State) (o : Nat) (w : Word) : (s.setReg o w).late = s.late := rfl
@[simp] theorem setReg_moment (s : State) (o : Nat) (w : Word) : (s.setReg o w).moment = s.moment := rfl
@[simp] theorem setReg_newel (s : State) (o : Nat) (w : Word) : (s.setReg o w).newel = s.newel := rfl
@[simp] theorem setReg_boot (s : State) (o : Nat) (w : Word) : (s.setReg o w).boot = s.boot := rfl
@[simp] theorem setReg_stair (s : State) (o : Nat) (w : Word) : (s.setReg o w).stair = s.stair := rfl
@[simp] theorem setReg_pcie (s : State) (o : Nat) (w : Word) : (s.setReg o w).pcie = s.pcie := rfl
@[simp] theorem setReg_strobes (s : State) (o : Nat) (w : Word) : (s.setReg o w).strobes = s.strobes := rfl
@[simp] theorem setReg_isets (s : State) (o : Nat) (w : Word) : (s.setReg o w).isets = s.isets := rfl
@[simp] theorem setReg_mons (s : State) (o : Nat) (w : Word) : (s.setReg o w).mons = s.mons := rfl
@[simp] theorem setReg_stream (s : State) (o : Nat) (w : Word) : (s.setReg o w).stream = s.stream := rfl
@[simp] theorem setReg_cams (s : State) (o : Nat) (w : Word) : (s.setReg o w).cams = s.cams := rfl
@[simp] theorem setReg_placed (s : State) (o : Nat) (w : Word) : (s.setReg o w).placed = s.placed := rfl
@[simp] theorem setReg_notices (s : State) (o : Nat) (w : Word) : (s.setReg o w).notices = s.notices := rfl
@[simp] theorem setReg_hall (s : State) (o : Nat) (w : Word) : (s.setReg o w).hall = s.hall := rfl
@[simp] theorem setReg_ports (s : State) (o : Nat) (w : Word) : (s.setReg o w).ports = s.ports := rfl
@[simp] theorem setReg_pipes (s : State) (o : Nat) (w : Word) : (s.setReg o w).pipes = s.pipes := rfl
@[simp] theorem setReg_joins (s : State) (o : Nat) (w : Word) : (s.setReg o w).joins = s.joins := rfl
@[simp] theorem setReg_planner (s : State) (o : Nat) (w : Word) : (s.setReg o w).planner = s.planner := rfl
@[simp] theorem setReg_link (s : State) (o : Nat) (w : Word) : (s.setReg o w).link = s.link := rfl
@[simp] theorem setReg_stations (s : State) (o : Nat) (w : Word) : (s.setReg o w).stations = s.stations := rfl
@[simp] theorem setReg_thermal (s : State) (o : Nat) (w : Word) : (s.setReg o w).thermal = s.thermal := rfl
@[simp] theorem setReg_pio (s : State) (o : Nat) (w : Word) : (s.setReg o w).pio = s.pio := rfl
@[simp] theorem setReg_usher (s : State) (o : Nat) (w : Word) : (s.setReg o w).usher = s.usher := rfl
@[simp] theorem setReg_store (s : State) (o : Nat) (w : Word) : (s.setReg o w).store = s.store := rfl
@[simp] theorem setReg_storeBad (s : State) (o : Nat) (w : Word) : (s.setReg o w).storeBad = s.storeBad := rfl
@[simp] theorem setReg_archive (s : State) (o : Nat) (w : Word) : (s.setReg o w).archive = s.archive := rfl
@[simp] theorem setReg_archiveBad (s : State) (o : Nat) (w : Word) : (s.setReg o w).archiveBad = s.archiveBad := rfl
@[simp] theorem setReg_wear (s : State) (o : Nat) (w : Word) : (s.setReg o w).wear = s.wear := rfl
@[simp] theorem setReg_rollback (s : State) (o : Nat) (w : Word) : (s.setReg o w).rollback = s.rollback := rfl
@[simp] theorem setReg_time (s : State) (o : Nat) (w : Word) : (s.setReg o w).time = s.time := rfl

@[simp] theorem setEff_pending (s : State) (o : Nat) (w : Word) : (s.setEff o w).pending = s.pending := rfl
@[simp] theorem setEff_agenda (s : State) (o : Nat) (w : Word) : (s.setEff o w).agenda = s.agenda := rfl
@[simp] theorem setEff_now (s : State) (o : Nat) (w : Word) : (s.setEff o w).now = s.now := rfl
@[simp] theorem setEff_freeCount (s : State) (o : Nat) (w : Word) : (s.setEff o w).freeCount = s.freeCount := rfl
@[simp] theorem setEff_regs (s : State) (o : Nat) (w : Word) : (s.setEff o w).regs = s.regs := rfl
@[simp] theorem setEff_eff (s : State) (o : Nat) (w : Word) : (s.setEff o w).eff = s.eff.set o w := rfl
@[simp] theorem setEff_late (s : State) (o : Nat) (w : Word) : (s.setEff o w).late = s.late := rfl
@[simp] theorem setEff_moment (s : State) (o : Nat) (w : Word) : (s.setEff o w).moment = s.moment := rfl
@[simp] theorem setEff_newel (s : State) (o : Nat) (w : Word) : (s.setEff o w).newel = s.newel := rfl
@[simp] theorem setEff_boot (s : State) (o : Nat) (w : Word) : (s.setEff o w).boot = s.boot := rfl
@[simp] theorem setEff_stair (s : State) (o : Nat) (w : Word) : (s.setEff o w).stair = s.stair := rfl
@[simp] theorem setEff_pcie (s : State) (o : Nat) (w : Word) : (s.setEff o w).pcie = s.pcie := rfl
@[simp] theorem setEff_strobes (s : State) (o : Nat) (w : Word) : (s.setEff o w).strobes = s.strobes := rfl
@[simp] theorem setEff_isets (s : State) (o : Nat) (w : Word) : (s.setEff o w).isets = s.isets := rfl
@[simp] theorem setEff_mons (s : State) (o : Nat) (w : Word) : (s.setEff o w).mons = s.mons := rfl
@[simp] theorem setEff_stream (s : State) (o : Nat) (w : Word) : (s.setEff o w).stream = s.stream := rfl
@[simp] theorem setEff_cams (s : State) (o : Nat) (w : Word) : (s.setEff o w).cams = s.cams := rfl
@[simp] theorem setEff_placed (s : State) (o : Nat) (w : Word) : (s.setEff o w).placed = s.placed := rfl
@[simp] theorem setEff_notices (s : State) (o : Nat) (w : Word) : (s.setEff o w).notices = s.notices := rfl
@[simp] theorem setEff_hall (s : State) (o : Nat) (w : Word) : (s.setEff o w).hall = s.hall := rfl
@[simp] theorem setEff_ports (s : State) (o : Nat) (w : Word) : (s.setEff o w).ports = s.ports := rfl
@[simp] theorem setEff_pipes (s : State) (o : Nat) (w : Word) : (s.setEff o w).pipes = s.pipes := rfl
@[simp] theorem setEff_joins (s : State) (o : Nat) (w : Word) : (s.setEff o w).joins = s.joins := rfl
@[simp] theorem setEff_planner (s : State) (o : Nat) (w : Word) : (s.setEff o w).planner = s.planner := rfl
@[simp] theorem setEff_link (s : State) (o : Nat) (w : Word) : (s.setEff o w).link = s.link := rfl
@[simp] theorem setEff_stations (s : State) (o : Nat) (w : Word) : (s.setEff o w).stations = s.stations := rfl
@[simp] theorem setEff_thermal (s : State) (o : Nat) (w : Word) : (s.setEff o w).thermal = s.thermal := rfl
@[simp] theorem setEff_pio (s : State) (o : Nat) (w : Word) : (s.setEff o w).pio = s.pio := rfl
@[simp] theorem setEff_usher (s : State) (o : Nat) (w : Word) : (s.setEff o w).usher = s.usher := rfl
@[simp] theorem setEff_store (s : State) (o : Nat) (w : Word) : (s.setEff o w).store = s.store := rfl
@[simp] theorem setEff_storeBad (s : State) (o : Nat) (w : Word) : (s.setEff o w).storeBad = s.storeBad := rfl
@[simp] theorem setEff_archive (s : State) (o : Nat) (w : Word) : (s.setEff o w).archive = s.archive := rfl
@[simp] theorem setEff_archiveBad (s : State) (o : Nat) (w : Word) : (s.setEff o w).archiveBad = s.archiveBad := rfl
@[simp] theorem setEff_wear (s : State) (o : Nat) (w : Word) : (s.setEff o w).wear = s.wear := rfl
@[simp] theorem setEff_rollback (s : State) (o : Nat) (w : Word) : (s.setEff o w).rollback = s.rollback := rfl
@[simp] theorem setEff_g (s : State) (o : Nat) (w : Word) (g : Fld) : (s.setEff o w).g g = s.g g := rfl
@[simp] theorem setEff_ctr (s : State) (o : Nat) (w : Word) (g : Ctr) : (s.setEff o w).ctr g = s.ctr g := rfl
@[simp] theorem setEff_time (s : State) (o : Nat) (w : Word) : (s.setEff o w).time = s.time := rfl

@[simp] theorem put_pending (s : State) (f : Fld) (v : Nat) : (s.put f v).pending = s.pending := rfl
@[simp] theorem put_agenda (s : State) (f : Fld) (v : Nat) : (s.put f v).agenda = s.agenda := rfl
@[simp] theorem put_now (s : State) (f : Fld) (v : Nat) : (s.put f v).now = s.now := rfl
@[simp] theorem put_freeCount (s : State) (f : Fld) (v : Nat) : (s.put f v).freeCount = s.freeCount := rfl
@[simp] theorem put_regs (s : State) (f : Fld) (v : Nat) : (s.put f v).regs = s.regs.set f.off (withBits (s.regs.get f.off) f.hi f.lo v) := rfl
@[simp] theorem put_eff (s : State) (f : Fld) (v : Nat) : (s.put f v).eff = s.eff := rfl
@[simp] theorem put_late (s : State) (f : Fld) (v : Nat) : (s.put f v).late = s.late := rfl
@[simp] theorem put_moment (s : State) (f : Fld) (v : Nat) : (s.put f v).moment = s.moment := rfl
@[simp] theorem put_newel (s : State) (f : Fld) (v : Nat) : (s.put f v).newel = s.newel := rfl
@[simp] theorem put_boot (s : State) (f : Fld) (v : Nat) : (s.put f v).boot = s.boot := rfl
@[simp] theorem put_stair (s : State) (f : Fld) (v : Nat) : (s.put f v).stair = s.stair := rfl
@[simp] theorem put_pcie (s : State) (f : Fld) (v : Nat) : (s.put f v).pcie = s.pcie := rfl
@[simp] theorem put_strobes (s : State) (f : Fld) (v : Nat) : (s.put f v).strobes = s.strobes := rfl
@[simp] theorem put_isets (s : State) (f : Fld) (v : Nat) : (s.put f v).isets = s.isets := rfl
@[simp] theorem put_mons (s : State) (f : Fld) (v : Nat) : (s.put f v).mons = s.mons := rfl
@[simp] theorem put_stream (s : State) (f : Fld) (v : Nat) : (s.put f v).stream = s.stream := rfl
@[simp] theorem put_cams (s : State) (f : Fld) (v : Nat) : (s.put f v).cams = s.cams := rfl
@[simp] theorem put_placed (s : State) (f : Fld) (v : Nat) : (s.put f v).placed = s.placed := rfl
@[simp] theorem put_notices (s : State) (f : Fld) (v : Nat) : (s.put f v).notices = s.notices := rfl
@[simp] theorem put_hall (s : State) (f : Fld) (v : Nat) : (s.put f v).hall = s.hall := rfl
@[simp] theorem put_ports (s : State) (f : Fld) (v : Nat) : (s.put f v).ports = s.ports := rfl
@[simp] theorem put_pipes (s : State) (f : Fld) (v : Nat) : (s.put f v).pipes = s.pipes := rfl
@[simp] theorem put_joins (s : State) (f : Fld) (v : Nat) : (s.put f v).joins = s.joins := rfl
@[simp] theorem put_planner (s : State) (f : Fld) (v : Nat) : (s.put f v).planner = s.planner := rfl
@[simp] theorem put_link (s : State) (f : Fld) (v : Nat) : (s.put f v).link = s.link := rfl
@[simp] theorem put_stations (s : State) (f : Fld) (v : Nat) : (s.put f v).stations = s.stations := rfl
@[simp] theorem put_thermal (s : State) (f : Fld) (v : Nat) : (s.put f v).thermal = s.thermal := rfl
@[simp] theorem put_pio (s : State) (f : Fld) (v : Nat) : (s.put f v).pio = s.pio := rfl
@[simp] theorem put_usher (s : State) (f : Fld) (v : Nat) : (s.put f v).usher = s.usher := rfl
@[simp] theorem put_store (s : State) (f : Fld) (v : Nat) : (s.put f v).store = s.store := rfl
@[simp] theorem put_storeBad (s : State) (f : Fld) (v : Nat) : (s.put f v).storeBad = s.storeBad := rfl
@[simp] theorem put_archive (s : State) (f : Fld) (v : Nat) : (s.put f v).archive = s.archive := rfl
@[simp] theorem put_archiveBad (s : State) (f : Fld) (v : Nat) : (s.put f v).archiveBad = s.archiveBad := rfl
@[simp] theorem put_wear (s : State) (f : Fld) (v : Nat) : (s.put f v).wear = s.wear := rfl
@[simp] theorem put_rollback (s : State) (f : Fld) (v : Nat) : (s.put f v).rollback = s.rollback := rfl
@[simp] theorem put_time (s : State) (f : Fld) (v : Nat) : (s.put f v).time = s.time := rfl

@[simp] theorem putPair_pending (s : State) (o v : Nat) : (s.putPair o v).pending = s.pending := rfl
@[simp] theorem putPair_agenda (s : State) (o v : Nat) : (s.putPair o v).agenda = s.agenda := rfl
@[simp] theorem putPair_now (s : State) (o v : Nat) : (s.putPair o v).now = s.now := rfl
@[simp] theorem putPair_freeCount (s : State) (o v : Nat) : (s.putPair o v).freeCount = s.freeCount := rfl
@[simp] theorem putPair_regs (s : State) (o v : Nat) : (s.putPair o v).regs = (s.regs.set o (lo32 v)).set (o + 4) (hi32 v) := rfl
@[simp] theorem putPair_eff (s : State) (o v : Nat) : (s.putPair o v).eff = s.eff := rfl
@[simp] theorem putPair_late (s : State) (o v : Nat) : (s.putPair o v).late = s.late := rfl
@[simp] theorem putPair_moment (s : State) (o v : Nat) : (s.putPair o v).moment = s.moment := rfl
@[simp] theorem putPair_newel (s : State) (o v : Nat) : (s.putPair o v).newel = s.newel := rfl
@[simp] theorem putPair_boot (s : State) (o v : Nat) : (s.putPair o v).boot = s.boot := rfl
@[simp] theorem putPair_stair (s : State) (o v : Nat) : (s.putPair o v).stair = s.stair := rfl
@[simp] theorem putPair_pcie (s : State) (o v : Nat) : (s.putPair o v).pcie = s.pcie := rfl
@[simp] theorem putPair_strobes (s : State) (o v : Nat) : (s.putPair o v).strobes = s.strobes := rfl
@[simp] theorem putPair_isets (s : State) (o v : Nat) : (s.putPair o v).isets = s.isets := rfl
@[simp] theorem putPair_mons (s : State) (o v : Nat) : (s.putPair o v).mons = s.mons := rfl
@[simp] theorem putPair_stream (s : State) (o v : Nat) : (s.putPair o v).stream = s.stream := rfl
@[simp] theorem putPair_cams (s : State) (o v : Nat) : (s.putPair o v).cams = s.cams := rfl
@[simp] theorem putPair_placed (s : State) (o v : Nat) : (s.putPair o v).placed = s.placed := rfl
@[simp] theorem putPair_notices (s : State) (o v : Nat) : (s.putPair o v).notices = s.notices := rfl
@[simp] theorem putPair_hall (s : State) (o v : Nat) : (s.putPair o v).hall = s.hall := rfl
@[simp] theorem putPair_ports (s : State) (o v : Nat) : (s.putPair o v).ports = s.ports := rfl
@[simp] theorem putPair_pipes (s : State) (o v : Nat) : (s.putPair o v).pipes = s.pipes := rfl
@[simp] theorem putPair_joins (s : State) (o v : Nat) : (s.putPair o v).joins = s.joins := rfl
@[simp] theorem putPair_planner (s : State) (o v : Nat) : (s.putPair o v).planner = s.planner := rfl
@[simp] theorem putPair_link (s : State) (o v : Nat) : (s.putPair o v).link = s.link := rfl
@[simp] theorem putPair_stations (s : State) (o v : Nat) : (s.putPair o v).stations = s.stations := rfl
@[simp] theorem putPair_thermal (s : State) (o v : Nat) : (s.putPair o v).thermal = s.thermal := rfl
@[simp] theorem putPair_pio (s : State) (o v : Nat) : (s.putPair o v).pio = s.pio := rfl
@[simp] theorem putPair_usher (s : State) (o v : Nat) : (s.putPair o v).usher = s.usher := rfl
@[simp] theorem putPair_store (s : State) (o v : Nat) : (s.putPair o v).store = s.store := rfl
@[simp] theorem putPair_storeBad (s : State) (o v : Nat) : (s.putPair o v).storeBad = s.storeBad := rfl
@[simp] theorem putPair_archive (s : State) (o v : Nat) : (s.putPair o v).archive = s.archive := rfl
@[simp] theorem putPair_archiveBad (s : State) (o v : Nat) : (s.putPair o v).archiveBad = s.archiveBad := rfl
@[simp] theorem putPair_wear (s : State) (o v : Nat) : (s.putPair o v).wear = s.wear := rfl
@[simp] theorem putPair_rollback (s : State) (o v : Nat) : (s.putPair o v).rollback = s.rollback := rfl
@[simp] theorem putPair_time (s : State) (o v : Nat) : (s.putPair o v).time = s.time := rfl

@[simp] theorem after_pending (s : State) (n : Nat) (c : Instr) : (s.after n c).pending = s.pending := rfl
@[simp] theorem after_agenda (s : State) (n : Nat) (c : Instr) : (s.after n c).agenda = s.agenda ++ [(s.now + n, c)] := rfl
@[simp] theorem after_now (s : State) (n : Nat) (c : Instr) : (s.after n c).now = s.now := rfl
@[simp] theorem after_freeCount (s : State) (n : Nat) (c : Instr) : (s.after n c).freeCount = s.freeCount := rfl
@[simp] theorem after_regs (s : State) (n : Nat) (c : Instr) : (s.after n c).regs = s.regs := rfl
@[simp] theorem after_eff (s : State) (n : Nat) (c : Instr) : (s.after n c).eff = s.eff := rfl
@[simp] theorem after_late (s : State) (n : Nat) (c : Instr) : (s.after n c).late = s.late := rfl
@[simp] theorem after_moment (s : State) (n : Nat) (c : Instr) : (s.after n c).moment = s.moment := rfl
@[simp] theorem after_newel (s : State) (n : Nat) (c : Instr) : (s.after n c).newel = s.newel := rfl
@[simp] theorem after_boot (s : State) (n : Nat) (c : Instr) : (s.after n c).boot = s.boot := rfl
@[simp] theorem after_stair (s : State) (n : Nat) (c : Instr) : (s.after n c).stair = s.stair := rfl
@[simp] theorem after_pcie (s : State) (n : Nat) (c : Instr) : (s.after n c).pcie = s.pcie := rfl
@[simp] theorem after_strobes (s : State) (n : Nat) (c : Instr) : (s.after n c).strobes = s.strobes := rfl
@[simp] theorem after_isets (s : State) (n : Nat) (c : Instr) : (s.after n c).isets = s.isets := rfl
@[simp] theorem after_mons (s : State) (n : Nat) (c : Instr) : (s.after n c).mons = s.mons := rfl
@[simp] theorem after_stream (s : State) (n : Nat) (c : Instr) : (s.after n c).stream = s.stream := rfl
@[simp] theorem after_cams (s : State) (n : Nat) (c : Instr) : (s.after n c).cams = s.cams := rfl
@[simp] theorem after_placed (s : State) (n : Nat) (c : Instr) : (s.after n c).placed = s.placed := rfl
@[simp] theorem after_notices (s : State) (n : Nat) (c : Instr) : (s.after n c).notices = s.notices := rfl
@[simp] theorem after_hall (s : State) (n : Nat) (c : Instr) : (s.after n c).hall = s.hall := rfl
@[simp] theorem after_ports (s : State) (n : Nat) (c : Instr) : (s.after n c).ports = s.ports := rfl
@[simp] theorem after_pipes (s : State) (n : Nat) (c : Instr) : (s.after n c).pipes = s.pipes := rfl
@[simp] theorem after_joins (s : State) (n : Nat) (c : Instr) : (s.after n c).joins = s.joins := rfl
@[simp] theorem after_planner (s : State) (n : Nat) (c : Instr) : (s.after n c).planner = s.planner := rfl
@[simp] theorem after_link (s : State) (n : Nat) (c : Instr) : (s.after n c).link = s.link := rfl
@[simp] theorem after_stations (s : State) (n : Nat) (c : Instr) : (s.after n c).stations = s.stations := rfl
@[simp] theorem after_thermal (s : State) (n : Nat) (c : Instr) : (s.after n c).thermal = s.thermal := rfl
@[simp] theorem after_pio (s : State) (n : Nat) (c : Instr) : (s.after n c).pio = s.pio := rfl
@[simp] theorem after_usher (s : State) (n : Nat) (c : Instr) : (s.after n c).usher = s.usher := rfl
@[simp] theorem after_store (s : State) (n : Nat) (c : Instr) : (s.after n c).store = s.store := rfl
@[simp] theorem after_storeBad (s : State) (n : Nat) (c : Instr) : (s.after n c).storeBad = s.storeBad := rfl
@[simp] theorem after_archive (s : State) (n : Nat) (c : Instr) : (s.after n c).archive = s.archive := rfl
@[simp] theorem after_archiveBad (s : State) (n : Nat) (c : Instr) : (s.after n c).archiveBad = s.archiveBad := rfl
@[simp] theorem after_wear (s : State) (n : Nat) (c : Instr) : (s.after n c).wear = s.wear := rfl
@[simp] theorem after_rollback (s : State) (n : Nat) (c : Instr) : (s.after n c).rollback = s.rollback := rfl
@[simp] theorem after_g (s : State) (n : Nat) (c : Instr) (g : Fld) : (s.after n c).g g = s.g g := rfl
@[simp] theorem after_ctr (s : State) (n : Nat) (c : Instr) (g : Ctr) : (s.after n c).ctr g = s.ctr g := rfl
@[simp] theorem after_time (s : State) (n : Nat) (c : Instr) : (s.after n c).time = s.time := rfl

@[simp] theorem at__pending (s : State) (n : Nat) (c : Instr) : (s.at_ n c).pending = s.pending := rfl
@[simp] theorem at__agenda (s : State) (n : Nat) (c : Instr) : (s.at_ n c).agenda = s.agenda ++ [(s.now + (n - s.time), c)] := rfl
@[simp] theorem at__now (s : State) (n : Nat) (c : Instr) : (s.at_ n c).now = s.now := rfl
@[simp] theorem at__freeCount (s : State) (n : Nat) (c : Instr) : (s.at_ n c).freeCount = s.freeCount := rfl
@[simp] theorem at__regs (s : State) (n : Nat) (c : Instr) : (s.at_ n c).regs = s.regs := rfl
@[simp] theorem at__eff (s : State) (n : Nat) (c : Instr) : (s.at_ n c).eff = s.eff := rfl
@[simp] theorem at__late (s : State) (n : Nat) (c : Instr) : (s.at_ n c).late = s.late := rfl
@[simp] theorem at__moment (s : State) (n : Nat) (c : Instr) : (s.at_ n c).moment = s.moment := rfl
@[simp] theorem at__newel (s : State) (n : Nat) (c : Instr) : (s.at_ n c).newel = s.newel := rfl
@[simp] theorem at__boot (s : State) (n : Nat) (c : Instr) : (s.at_ n c).boot = s.boot := rfl
@[simp] theorem at__stair (s : State) (n : Nat) (c : Instr) : (s.at_ n c).stair = s.stair := rfl
@[simp] theorem at__pcie (s : State) (n : Nat) (c : Instr) : (s.at_ n c).pcie = s.pcie := rfl
@[simp] theorem at__strobes (s : State) (n : Nat) (c : Instr) : (s.at_ n c).strobes = s.strobes := rfl
@[simp] theorem at__isets (s : State) (n : Nat) (c : Instr) : (s.at_ n c).isets = s.isets := rfl
@[simp] theorem at__mons (s : State) (n : Nat) (c : Instr) : (s.at_ n c).mons = s.mons := rfl
@[simp] theorem at__stream (s : State) (n : Nat) (c : Instr) : (s.at_ n c).stream = s.stream := rfl
@[simp] theorem at__cams (s : State) (n : Nat) (c : Instr) : (s.at_ n c).cams = s.cams := rfl
@[simp] theorem at__placed (s : State) (n : Nat) (c : Instr) : (s.at_ n c).placed = s.placed := rfl
@[simp] theorem at__notices (s : State) (n : Nat) (c : Instr) : (s.at_ n c).notices = s.notices := rfl
@[simp] theorem at__hall (s : State) (n : Nat) (c : Instr) : (s.at_ n c).hall = s.hall := rfl
@[simp] theorem at__ports (s : State) (n : Nat) (c : Instr) : (s.at_ n c).ports = s.ports := rfl
@[simp] theorem at__pipes (s : State) (n : Nat) (c : Instr) : (s.at_ n c).pipes = s.pipes := rfl
@[simp] theorem at__joins (s : State) (n : Nat) (c : Instr) : (s.at_ n c).joins = s.joins := rfl
@[simp] theorem at__planner (s : State) (n : Nat) (c : Instr) : (s.at_ n c).planner = s.planner := rfl
@[simp] theorem at__link (s : State) (n : Nat) (c : Instr) : (s.at_ n c).link = s.link := rfl
@[simp] theorem at__stations (s : State) (n : Nat) (c : Instr) : (s.at_ n c).stations = s.stations := rfl
@[simp] theorem at__thermal (s : State) (n : Nat) (c : Instr) : (s.at_ n c).thermal = s.thermal := rfl
@[simp] theorem at__pio (s : State) (n : Nat) (c : Instr) : (s.at_ n c).pio = s.pio := rfl
@[simp] theorem at__usher (s : State) (n : Nat) (c : Instr) : (s.at_ n c).usher = s.usher := rfl
@[simp] theorem at__store (s : State) (n : Nat) (c : Instr) : (s.at_ n c).store = s.store := rfl
@[simp] theorem at__storeBad (s : State) (n : Nat) (c : Instr) : (s.at_ n c).storeBad = s.storeBad := rfl
@[simp] theorem at__archive (s : State) (n : Nat) (c : Instr) : (s.at_ n c).archive = s.archive := rfl
@[simp] theorem at__archiveBad (s : State) (n : Nat) (c : Instr) : (s.at_ n c).archiveBad = s.archiveBad := rfl
@[simp] theorem at__wear (s : State) (n : Nat) (c : Instr) : (s.at_ n c).wear = s.wear := rfl
@[simp] theorem at__rollback (s : State) (n : Nat) (c : Instr) : (s.at_ n c).rollback = s.rollback := rfl
@[simp] theorem at__g (s : State) (n : Nat) (c : Instr) (g : Fld) : (s.at_ n c).g g = s.g g := rfl
@[simp] theorem at__ctr (s : State) (n : Nat) (c : Instr) (g : Ctr) : (s.at_ n c).ctr g = s.ctr g := rfl
@[simp] theorem at__time (s : State) (n : Nat) (c : Instr) : (s.at_ n c).time = s.time := rfl

@[simp] theorem withdraw_pending (s : State) (p : Instr → Bool) : (s.withdraw p).pending = s.pending := rfl
@[simp] theorem withdraw_agenda (s : State) (p : Instr → Bool) : (s.withdraw p).agenda = s.agenda.filter fun x => !p x.2 := rfl
@[simp] theorem withdraw_now (s : State) (p : Instr → Bool) : (s.withdraw p).now = s.now := rfl
@[simp] theorem withdraw_freeCount (s : State) (p : Instr → Bool) : (s.withdraw p).freeCount = s.freeCount := rfl
@[simp] theorem withdraw_regs (s : State) (p : Instr → Bool) : (s.withdraw p).regs = s.regs := rfl
@[simp] theorem withdraw_eff (s : State) (p : Instr → Bool) : (s.withdraw p).eff = s.eff := rfl
@[simp] theorem withdraw_late (s : State) (p : Instr → Bool) : (s.withdraw p).late = s.late := rfl
@[simp] theorem withdraw_moment (s : State) (p : Instr → Bool) : (s.withdraw p).moment = s.moment := rfl
@[simp] theorem withdraw_newel (s : State) (p : Instr → Bool) : (s.withdraw p).newel = s.newel := rfl
@[simp] theorem withdraw_boot (s : State) (p : Instr → Bool) : (s.withdraw p).boot = s.boot := rfl
@[simp] theorem withdraw_stair (s : State) (p : Instr → Bool) : (s.withdraw p).stair = s.stair := rfl
@[simp] theorem withdraw_pcie (s : State) (p : Instr → Bool) : (s.withdraw p).pcie = s.pcie := rfl
@[simp] theorem withdraw_strobes (s : State) (p : Instr → Bool) : (s.withdraw p).strobes = s.strobes := rfl
@[simp] theorem withdraw_isets (s : State) (p : Instr → Bool) : (s.withdraw p).isets = s.isets := rfl
@[simp] theorem withdraw_mons (s : State) (p : Instr → Bool) : (s.withdraw p).mons = s.mons := rfl
@[simp] theorem withdraw_stream (s : State) (p : Instr → Bool) : (s.withdraw p).stream = s.stream := rfl
@[simp] theorem withdraw_cams (s : State) (p : Instr → Bool) : (s.withdraw p).cams = s.cams := rfl
@[simp] theorem withdraw_placed (s : State) (p : Instr → Bool) : (s.withdraw p).placed = s.placed := rfl
@[simp] theorem withdraw_notices (s : State) (p : Instr → Bool) : (s.withdraw p).notices = s.notices := rfl
@[simp] theorem withdraw_hall (s : State) (p : Instr → Bool) : (s.withdraw p).hall = s.hall := rfl
@[simp] theorem withdraw_ports (s : State) (p : Instr → Bool) : (s.withdraw p).ports = s.ports := rfl
@[simp] theorem withdraw_pipes (s : State) (p : Instr → Bool) : (s.withdraw p).pipes = s.pipes := rfl
@[simp] theorem withdraw_joins (s : State) (p : Instr → Bool) : (s.withdraw p).joins = s.joins := rfl
@[simp] theorem withdraw_planner (s : State) (p : Instr → Bool) : (s.withdraw p).planner = s.planner := rfl
@[simp] theorem withdraw_link (s : State) (p : Instr → Bool) : (s.withdraw p).link = s.link := rfl
@[simp] theorem withdraw_stations (s : State) (p : Instr → Bool) : (s.withdraw p).stations = s.stations := rfl
@[simp] theorem withdraw_thermal (s : State) (p : Instr → Bool) : (s.withdraw p).thermal = s.thermal := rfl
@[simp] theorem withdraw_pio (s : State) (p : Instr → Bool) : (s.withdraw p).pio = s.pio := rfl
@[simp] theorem withdraw_usher (s : State) (p : Instr → Bool) : (s.withdraw p).usher = s.usher := rfl
@[simp] theorem withdraw_store (s : State) (p : Instr → Bool) : (s.withdraw p).store = s.store := rfl
@[simp] theorem withdraw_storeBad (s : State) (p : Instr → Bool) : (s.withdraw p).storeBad = s.storeBad := rfl
@[simp] theorem withdraw_archive (s : State) (p : Instr → Bool) : (s.withdraw p).archive = s.archive := rfl
@[simp] theorem withdraw_archiveBad (s : State) (p : Instr → Bool) : (s.withdraw p).archiveBad = s.archiveBad := rfl
@[simp] theorem withdraw_wear (s : State) (p : Instr → Bool) : (s.withdraw p).wear = s.wear := rfl
@[simp] theorem withdraw_rollback (s : State) (p : Instr → Bool) : (s.withdraw p).rollback = s.rollback := rfl
@[simp] theorem withdraw_g (s : State) (p : Instr → Bool) (g : Fld) : (s.withdraw p).g g = s.g g := rfl
@[simp] theorem withdraw_ctr (s : State) (p : Instr → Bool) (g : Ctr) : (s.withdraw p).ctr g = s.ctr g := rfl
@[simp] theorem withdraw_time (s : State) (p : Instr → Bool) : (s.withdraw p).time = s.time := rfl

@[simp] theorem send_pending (s : State) (x : HostMsg) : (s.send x).pending = s.pending := rfl
@[simp] theorem send_agenda (s : State) (x : HostMsg) : (s.send x).agenda = s.agenda := rfl
@[simp] theorem send_now (s : State) (x : HostMsg) : (s.send x).now = s.now := rfl
@[simp] theorem send_freeCount (s : State) (x : HostMsg) : (s.send x).freeCount = s.freeCount := rfl
@[simp] theorem send_regs (s : State) (x : HostMsg) : (s.send x).regs = s.regs := rfl
@[simp] theorem send_eff (s : State) (x : HostMsg) : (s.send x).eff = s.eff := rfl
@[simp] theorem send_late (s : State) (x : HostMsg) : (s.send x).late = s.late := rfl
@[simp] theorem send_moment (s : State) (x : HostMsg) : (s.send x).moment = s.moment := rfl
@[simp] theorem send_newel (s : State) (x : HostMsg) : (s.send x).newel = s.newel := rfl
@[simp] theorem send_boot (s : State) (x : HostMsg) : (s.send x).boot = s.boot := rfl
@[simp] theorem send_stair (s : State) (x : HostMsg) : (s.send x).stair = s.stair := rfl
@[simp] theorem send_pcie (s : State) (x : HostMsg) : (s.send x).pcie = { s.pcie with sent := s.pcie.sent ++ [x] } := rfl
@[simp] theorem send_strobes (s : State) (x : HostMsg) : (s.send x).strobes = s.strobes := rfl
@[simp] theorem send_isets (s : State) (x : HostMsg) : (s.send x).isets = s.isets := rfl
@[simp] theorem send_mons (s : State) (x : HostMsg) : (s.send x).mons = s.mons := rfl
@[simp] theorem send_stream (s : State) (x : HostMsg) : (s.send x).stream = s.stream := rfl
@[simp] theorem send_cams (s : State) (x : HostMsg) : (s.send x).cams = s.cams := rfl
@[simp] theorem send_placed (s : State) (x : HostMsg) : (s.send x).placed = s.placed := rfl
@[simp] theorem send_notices (s : State) (x : HostMsg) : (s.send x).notices = s.notices := rfl
@[simp] theorem send_hall (s : State) (x : HostMsg) : (s.send x).hall = s.hall := rfl
@[simp] theorem send_ports (s : State) (x : HostMsg) : (s.send x).ports = s.ports := rfl
@[simp] theorem send_pipes (s : State) (x : HostMsg) : (s.send x).pipes = s.pipes := rfl
@[simp] theorem send_joins (s : State) (x : HostMsg) : (s.send x).joins = s.joins := rfl
@[simp] theorem send_planner (s : State) (x : HostMsg) : (s.send x).planner = s.planner := rfl
@[simp] theorem send_link (s : State) (x : HostMsg) : (s.send x).link = s.link := rfl
@[simp] theorem send_stations (s : State) (x : HostMsg) : (s.send x).stations = s.stations := rfl
@[simp] theorem send_thermal (s : State) (x : HostMsg) : (s.send x).thermal = s.thermal := rfl
@[simp] theorem send_pio (s : State) (x : HostMsg) : (s.send x).pio = s.pio := rfl
@[simp] theorem send_usher (s : State) (x : HostMsg) : (s.send x).usher = s.usher := rfl
@[simp] theorem send_store (s : State) (x : HostMsg) : (s.send x).store = s.store := rfl
@[simp] theorem send_storeBad (s : State) (x : HostMsg) : (s.send x).storeBad = s.storeBad := rfl
@[simp] theorem send_archive (s : State) (x : HostMsg) : (s.send x).archive = s.archive := rfl
@[simp] theorem send_archiveBad (s : State) (x : HostMsg) : (s.send x).archiveBad = s.archiveBad := rfl
@[simp] theorem send_wear (s : State) (x : HostMsg) : (s.send x).wear = s.wear := rfl
@[simp] theorem send_rollback (s : State) (x : HostMsg) : (s.send x).rollback = s.rollback := rfl
@[simp] theorem send_g (s : State) (x : HostMsg) (g : Fld) : (s.send x).g g = s.g g := rfl
@[simp] theorem send_ctr (s : State) (x : HostMsg) (g : Ctr) : (s.send x).ctr g = s.ctr g := rfl
@[simp] theorem send_time (s : State) (x : HostMsg) : (s.send x).time = s.time := rfl

@[simp] theorem hostWrite_pending (s : State) (a : Nat) (bs : List Byte) (ro : Bool) : (s.hostWrite a bs ro).pending = s.pending := rfl
@[simp] theorem hostWrite_agenda (s : State) (a : Nat) (bs : List Byte) (ro : Bool) : (s.hostWrite a bs ro).agenda = s.agenda := rfl
@[simp] theorem hostWrite_now (s : State) (a : Nat) (bs : List Byte) (ro : Bool) : (s.hostWrite a bs ro).now = s.now := rfl
@[simp] theorem hostWrite_freeCount (s : State) (a : Nat) (bs : List Byte) (ro : Bool) : (s.hostWrite a bs ro).freeCount = s.freeCount := rfl
@[simp] theorem hostWrite_regs (s : State) (a : Nat) (bs : List Byte) (ro : Bool) : (s.hostWrite a bs ro).regs = s.regs := rfl
@[simp] theorem hostWrite_eff (s : State) (a : Nat) (bs : List Byte) (ro : Bool) : (s.hostWrite a bs ro).eff = s.eff := rfl
@[simp] theorem hostWrite_late (s : State) (a : Nat) (bs : List Byte) (ro : Bool) : (s.hostWrite a bs ro).late = s.late := rfl
@[simp] theorem hostWrite_moment (s : State) (a : Nat) (bs : List Byte) (ro : Bool) : (s.hostWrite a bs ro).moment = s.moment := rfl
@[simp] theorem hostWrite_newel (s : State) (a : Nat) (bs : List Byte) (ro : Bool) : (s.hostWrite a bs ro).newel = s.newel := rfl
@[simp] theorem hostWrite_boot (s : State) (a : Nat) (bs : List Byte) (ro : Bool) : (s.hostWrite a bs ro).boot = s.boot := rfl
@[simp] theorem hostWrite_stair (s : State) (a : Nat) (bs : List Byte) (ro : Bool) : (s.hostWrite a bs ro).stair = s.stair := rfl
@[simp] theorem hostWrite_pcie (s : State) (a : Nat) (bs : List Byte) (ro : Bool) : (s.hostWrite a bs ro).pcie =
    { s.pcie with
      hostMem := s.pcie.hostMem.write a bs
      sent := s.pcie.sent ++ (requestsOf s.maxPayload a bs.length).map fun x =>
        HostMsg.write x.1 ((bs.drop (x.1 - a)).take x.2) (ro && s.relaxed) } := rfl
@[simp] theorem hostWrite_strobes (s : State) (a : Nat) (bs : List Byte) (ro : Bool) : (s.hostWrite a bs ro).strobes = s.strobes := rfl
@[simp] theorem hostWrite_isets (s : State) (a : Nat) (bs : List Byte) (ro : Bool) : (s.hostWrite a bs ro).isets = s.isets := rfl
@[simp] theorem hostWrite_mons (s : State) (a : Nat) (bs : List Byte) (ro : Bool) : (s.hostWrite a bs ro).mons = s.mons := rfl
@[simp] theorem hostWrite_stream (s : State) (a : Nat) (bs : List Byte) (ro : Bool) : (s.hostWrite a bs ro).stream = s.stream := rfl
@[simp] theorem hostWrite_cams (s : State) (a : Nat) (bs : List Byte) (ro : Bool) : (s.hostWrite a bs ro).cams = s.cams := rfl
@[simp] theorem hostWrite_placed (s : State) (a : Nat) (bs : List Byte) (ro : Bool) : (s.hostWrite a bs ro).placed = s.placed := rfl
@[simp] theorem hostWrite_notices (s : State) (a : Nat) (bs : List Byte) (ro : Bool) : (s.hostWrite a bs ro).notices = s.notices := rfl
@[simp] theorem hostWrite_hall (s : State) (a : Nat) (bs : List Byte) (ro : Bool) : (s.hostWrite a bs ro).hall = s.hall := rfl
@[simp] theorem hostWrite_ports (s : State) (a : Nat) (bs : List Byte) (ro : Bool) : (s.hostWrite a bs ro).ports = s.ports := rfl
@[simp] theorem hostWrite_pipes (s : State) (a : Nat) (bs : List Byte) (ro : Bool) : (s.hostWrite a bs ro).pipes = s.pipes := rfl
@[simp] theorem hostWrite_joins (s : State) (a : Nat) (bs : List Byte) (ro : Bool) : (s.hostWrite a bs ro).joins = s.joins := rfl
@[simp] theorem hostWrite_planner (s : State) (a : Nat) (bs : List Byte) (ro : Bool) : (s.hostWrite a bs ro).planner = s.planner := rfl
@[simp] theorem hostWrite_link (s : State) (a : Nat) (bs : List Byte) (ro : Bool) : (s.hostWrite a bs ro).link = s.link := rfl
@[simp] theorem hostWrite_stations (s : State) (a : Nat) (bs : List Byte) (ro : Bool) : (s.hostWrite a bs ro).stations = s.stations := rfl
@[simp] theorem hostWrite_thermal (s : State) (a : Nat) (bs : List Byte) (ro : Bool) : (s.hostWrite a bs ro).thermal = s.thermal := rfl
@[simp] theorem hostWrite_pio (s : State) (a : Nat) (bs : List Byte) (ro : Bool) : (s.hostWrite a bs ro).pio = s.pio := rfl
@[simp] theorem hostWrite_usher (s : State) (a : Nat) (bs : List Byte) (ro : Bool) : (s.hostWrite a bs ro).usher = s.usher := rfl
@[simp] theorem hostWrite_store (s : State) (a : Nat) (bs : List Byte) (ro : Bool) : (s.hostWrite a bs ro).store = s.store := rfl
@[simp] theorem hostWrite_storeBad (s : State) (a : Nat) (bs : List Byte) (ro : Bool) : (s.hostWrite a bs ro).storeBad = s.storeBad := rfl
@[simp] theorem hostWrite_archive (s : State) (a : Nat) (bs : List Byte) (ro : Bool) : (s.hostWrite a bs ro).archive = s.archive := rfl
@[simp] theorem hostWrite_archiveBad (s : State) (a : Nat) (bs : List Byte) (ro : Bool) : (s.hostWrite a bs ro).archiveBad = s.archiveBad := rfl
@[simp] theorem hostWrite_wear (s : State) (a : Nat) (bs : List Byte) (ro : Bool) : (s.hostWrite a bs ro).wear = s.wear := rfl
@[simp] theorem hostWrite_rollback (s : State) (a : Nat) (bs : List Byte) (ro : Bool) : (s.hostWrite a bs ro).rollback = s.rollback := rfl
@[simp] theorem hostWrite_g (s : State) (a : Nat) (bs : List Byte) (ro : Bool) (g : Fld) : (s.hostWrite a bs ro).g g = s.g g := rfl
@[simp] theorem hostWrite_ctr (s : State) (a : Nat) (bs : List Byte) (ro : Bool) (g : Ctr) : (s.hostWrite a bs ro).ctr g = s.ctr g := rfl
@[simp] theorem hostWrite_time (s : State) (a : Nat) (bs : List Byte) (ro : Bool) : (s.hostWrite a bs ro).time = s.time := rfl

@[simp] theorem noteLate_pending (s : State) (o : Nat) : (s.noteLate o).pending = s.pending := rfl
@[simp] theorem noteLate_agenda (s : State) (o : Nat) : (s.noteLate o).agenda = s.agenda := rfl
@[simp] theorem noteLate_now (s : State) (o : Nat) : (s.noteLate o).now = s.now := rfl
@[simp] theorem noteLate_freeCount (s : State) (o : Nat) : (s.noteLate o).freeCount = s.freeCount := rfl
@[simp] theorem noteLate_regs (s : State) (o : Nat) : (s.noteLate o).regs = s.regs := rfl
@[simp] theorem noteLate_eff (s : State) (o : Nat) : (s.noteLate o).eff = s.eff := rfl
@[simp] theorem noteLate_late (s : State) (o : Nat) : (s.noteLate o).late = s.late ++ [(s.time, o, s.regs.get o)] := rfl
@[simp] theorem noteLate_moment (s : State) (o : Nat) : (s.noteLate o).moment = s.moment := rfl
@[simp] theorem noteLate_newel (s : State) (o : Nat) : (s.noteLate o).newel = s.newel := rfl
@[simp] theorem noteLate_boot (s : State) (o : Nat) : (s.noteLate o).boot = s.boot := rfl
@[simp] theorem noteLate_stair (s : State) (o : Nat) : (s.noteLate o).stair = s.stair := rfl
@[simp] theorem noteLate_pcie (s : State) (o : Nat) : (s.noteLate o).pcie = s.pcie := rfl
@[simp] theorem noteLate_strobes (s : State) (o : Nat) : (s.noteLate o).strobes = s.strobes := rfl
@[simp] theorem noteLate_isets (s : State) (o : Nat) : (s.noteLate o).isets = s.isets := rfl
@[simp] theorem noteLate_mons (s : State) (o : Nat) : (s.noteLate o).mons = s.mons := rfl
@[simp] theorem noteLate_stream (s : State) (o : Nat) : (s.noteLate o).stream = s.stream := rfl
@[simp] theorem noteLate_cams (s : State) (o : Nat) : (s.noteLate o).cams = s.cams := rfl
@[simp] theorem noteLate_placed (s : State) (o : Nat) : (s.noteLate o).placed = s.placed := rfl
@[simp] theorem noteLate_notices (s : State) (o : Nat) : (s.noteLate o).notices = s.notices := rfl
@[simp] theorem noteLate_hall (s : State) (o : Nat) : (s.noteLate o).hall = s.hall := rfl
@[simp] theorem noteLate_ports (s : State) (o : Nat) : (s.noteLate o).ports = s.ports := rfl
@[simp] theorem noteLate_pipes (s : State) (o : Nat) : (s.noteLate o).pipes = s.pipes := rfl
@[simp] theorem noteLate_joins (s : State) (o : Nat) : (s.noteLate o).joins = s.joins := rfl
@[simp] theorem noteLate_planner (s : State) (o : Nat) : (s.noteLate o).planner = s.planner := rfl
@[simp] theorem noteLate_link (s : State) (o : Nat) : (s.noteLate o).link = s.link := rfl
@[simp] theorem noteLate_stations (s : State) (o : Nat) : (s.noteLate o).stations = s.stations := rfl
@[simp] theorem noteLate_thermal (s : State) (o : Nat) : (s.noteLate o).thermal = s.thermal := rfl
@[simp] theorem noteLate_pio (s : State) (o : Nat) : (s.noteLate o).pio = s.pio := rfl
@[simp] theorem noteLate_usher (s : State) (o : Nat) : (s.noteLate o).usher = s.usher := rfl
@[simp] theorem noteLate_store (s : State) (o : Nat) : (s.noteLate o).store = s.store := rfl
@[simp] theorem noteLate_storeBad (s : State) (o : Nat) : (s.noteLate o).storeBad = s.storeBad := rfl
@[simp] theorem noteLate_archive (s : State) (o : Nat) : (s.noteLate o).archive = s.archive := rfl
@[simp] theorem noteLate_archiveBad (s : State) (o : Nat) : (s.noteLate o).archiveBad = s.archiveBad := rfl
@[simp] theorem noteLate_wear (s : State) (o : Nat) : (s.noteLate o).wear = s.wear := rfl
@[simp] theorem noteLate_rollback (s : State) (o : Nat) : (s.noteLate o).rollback = s.rollback := rfl
@[simp] theorem noteLate_g (s : State) (o : Nat) (g : Fld) : (s.noteLate o).g g = s.g g := rfl
@[simp] theorem noteLate_ctr (s : State) (o : Nat) (g : Ctr) : (s.noteLate o).ctr g = s.ctr g := rfl
@[simp] theorem noteLate_time (s : State) (o : Nat) : (s.noteLate o).time = s.time := rfl

@[simp] theorem noteSet_pending (s : State) (o i : Nat) : (s.noteSet o i).pending = s.pending := rfl
@[simp] theorem noteSet_agenda (s : State) (o i : Nat) : (s.noteSet o i).agenda = s.agenda := rfl
@[simp] theorem noteSet_now (s : State) (o i : Nat) : (s.noteSet o i).now = s.now := rfl
@[simp] theorem noteSet_freeCount (s : State) (o i : Nat) : (s.noteSet o i).freeCount = s.freeCount := rfl
@[simp] theorem noteSet_regs (s : State) (o i : Nat) : (s.noteSet o i).regs = s.regs := rfl
@[simp] theorem noteSet_eff (s : State) (o i : Nat) : (s.noteSet o i).eff = s.eff := rfl
@[simp] theorem noteSet_late (s : State) (o i : Nat) : (s.noteSet o i).late = s.late := rfl
@[simp] theorem noteSet_newel (s : State) (o i : Nat) : (s.noteSet o i).newel = s.newel := rfl
@[simp] theorem noteSet_boot (s : State) (o i : Nat) : (s.noteSet o i).boot = s.boot := rfl
@[simp] theorem noteSet_stair (s : State) (o i : Nat) : (s.noteSet o i).stair = s.stair := rfl
@[simp] theorem noteSet_pcie (s : State) (o i : Nat) : (s.noteSet o i).pcie = s.pcie := rfl
@[simp] theorem noteSet_strobes (s : State) (o i : Nat) : (s.noteSet o i).strobes = s.strobes := rfl
@[simp] theorem noteSet_isets (s : State) (o i : Nat) : (s.noteSet o i).isets = s.isets := rfl
@[simp] theorem noteSet_mons (s : State) (o i : Nat) : (s.noteSet o i).mons = s.mons := rfl
@[simp] theorem noteSet_stream (s : State) (o i : Nat) : (s.noteSet o i).stream = s.stream := rfl
@[simp] theorem noteSet_cams (s : State) (o i : Nat) : (s.noteSet o i).cams = s.cams := rfl
@[simp] theorem noteSet_placed (s : State) (o i : Nat) : (s.noteSet o i).placed = s.placed := rfl
@[simp] theorem noteSet_notices (s : State) (o i : Nat) : (s.noteSet o i).notices = s.notices := rfl
@[simp] theorem noteSet_hall (s : State) (o i : Nat) : (s.noteSet o i).hall = s.hall := rfl
@[simp] theorem noteSet_ports (s : State) (o i : Nat) : (s.noteSet o i).ports = s.ports := rfl
@[simp] theorem noteSet_pipes (s : State) (o i : Nat) : (s.noteSet o i).pipes = s.pipes := rfl
@[simp] theorem noteSet_joins (s : State) (o i : Nat) : (s.noteSet o i).joins = s.joins := rfl
@[simp] theorem noteSet_planner (s : State) (o i : Nat) : (s.noteSet o i).planner = s.planner := rfl
@[simp] theorem noteSet_link (s : State) (o i : Nat) : (s.noteSet o i).link = s.link := rfl
@[simp] theorem noteSet_stations (s : State) (o i : Nat) : (s.noteSet o i).stations = s.stations := rfl
@[simp] theorem noteSet_thermal (s : State) (o i : Nat) : (s.noteSet o i).thermal = s.thermal := rfl
@[simp] theorem noteSet_pio (s : State) (o i : Nat) : (s.noteSet o i).pio = s.pio := rfl
@[simp] theorem noteSet_usher (s : State) (o i : Nat) : (s.noteSet o i).usher = s.usher := rfl
@[simp] theorem noteSet_store (s : State) (o i : Nat) : (s.noteSet o i).store = s.store := rfl
@[simp] theorem noteSet_storeBad (s : State) (o i : Nat) : (s.noteSet o i).storeBad = s.storeBad := rfl
@[simp] theorem noteSet_archive (s : State) (o i : Nat) : (s.noteSet o i).archive = s.archive := rfl
@[simp] theorem noteSet_archiveBad (s : State) (o i : Nat) : (s.noteSet o i).archiveBad = s.archiveBad := rfl
@[simp] theorem noteSet_wear (s : State) (o i : Nat) : (s.noteSet o i).wear = s.wear := rfl
@[simp] theorem noteSet_rollback (s : State) (o i : Nat) : (s.noteSet o i).rollback = s.rollback := rfl
@[simp] theorem noteSet_g (s : State) (o i : Nat) (g : Fld) : (s.noteSet o i).g g = s.g g := rfl
@[simp] theorem noteSet_ctr (s : State) (o i : Nat) (g : Ctr) : (s.noteSet o i).ctr g = s.ctr g := rfl
@[simp] theorem noteSet_time (s : State) (o i : Nat) : (s.noteSet o i).time = s.time := rfl

@[simp] theorem noteClear_pending (s : State) (o i : Nat) : (s.noteClear o i).pending = s.pending := rfl
@[simp] theorem noteClear_agenda (s : State) (o i : Nat) : (s.noteClear o i).agenda = s.agenda := rfl
@[simp] theorem noteClear_now (s : State) (o i : Nat) : (s.noteClear o i).now = s.now := rfl
@[simp] theorem noteClear_freeCount (s : State) (o i : Nat) : (s.noteClear o i).freeCount = s.freeCount := rfl
@[simp] theorem noteClear_regs (s : State) (o i : Nat) : (s.noteClear o i).regs = s.regs := rfl
@[simp] theorem noteClear_eff (s : State) (o i : Nat) : (s.noteClear o i).eff = s.eff := rfl
@[simp] theorem noteClear_late (s : State) (o i : Nat) : (s.noteClear o i).late = s.late := rfl
@[simp] theorem noteClear_newel (s : State) (o i : Nat) : (s.noteClear o i).newel = s.newel := rfl
@[simp] theorem noteClear_boot (s : State) (o i : Nat) : (s.noteClear o i).boot = s.boot := rfl
@[simp] theorem noteClear_stair (s : State) (o i : Nat) : (s.noteClear o i).stair = s.stair := rfl
@[simp] theorem noteClear_pcie (s : State) (o i : Nat) : (s.noteClear o i).pcie = s.pcie := rfl
@[simp] theorem noteClear_strobes (s : State) (o i : Nat) : (s.noteClear o i).strobes = s.strobes := rfl
@[simp] theorem noteClear_isets (s : State) (o i : Nat) : (s.noteClear o i).isets = s.isets := rfl
@[simp] theorem noteClear_mons (s : State) (o i : Nat) : (s.noteClear o i).mons = s.mons := rfl
@[simp] theorem noteClear_stream (s : State) (o i : Nat) : (s.noteClear o i).stream = s.stream := rfl
@[simp] theorem noteClear_cams (s : State) (o i : Nat) : (s.noteClear o i).cams = s.cams := rfl
@[simp] theorem noteClear_placed (s : State) (o i : Nat) : (s.noteClear o i).placed = s.placed := rfl
@[simp] theorem noteClear_notices (s : State) (o i : Nat) : (s.noteClear o i).notices = s.notices := rfl
@[simp] theorem noteClear_hall (s : State) (o i : Nat) : (s.noteClear o i).hall = s.hall := rfl
@[simp] theorem noteClear_ports (s : State) (o i : Nat) : (s.noteClear o i).ports = s.ports := rfl
@[simp] theorem noteClear_pipes (s : State) (o i : Nat) : (s.noteClear o i).pipes = s.pipes := rfl
@[simp] theorem noteClear_joins (s : State) (o i : Nat) : (s.noteClear o i).joins = s.joins := rfl
@[simp] theorem noteClear_planner (s : State) (o i : Nat) : (s.noteClear o i).planner = s.planner := rfl
@[simp] theorem noteClear_link (s : State) (o i : Nat) : (s.noteClear o i).link = s.link := rfl
@[simp] theorem noteClear_stations (s : State) (o i : Nat) : (s.noteClear o i).stations = s.stations := rfl
@[simp] theorem noteClear_thermal (s : State) (o i : Nat) : (s.noteClear o i).thermal = s.thermal := rfl
@[simp] theorem noteClear_pio (s : State) (o i : Nat) : (s.noteClear o i).pio = s.pio := rfl
@[simp] theorem noteClear_usher (s : State) (o i : Nat) : (s.noteClear o i).usher = s.usher := rfl
@[simp] theorem noteClear_store (s : State) (o i : Nat) : (s.noteClear o i).store = s.store := rfl
@[simp] theorem noteClear_storeBad (s : State) (o i : Nat) : (s.noteClear o i).storeBad = s.storeBad := rfl
@[simp] theorem noteClear_archive (s : State) (o i : Nat) : (s.noteClear o i).archive = s.archive := rfl
@[simp] theorem noteClear_archiveBad (s : State) (o i : Nat) : (s.noteClear o i).archiveBad = s.archiveBad := rfl
@[simp] theorem noteClear_wear (s : State) (o i : Nat) : (s.noteClear o i).wear = s.wear := rfl
@[simp] theorem noteClear_rollback (s : State) (o i : Nat) : (s.noteClear o i).rollback = s.rollback := rfl
@[simp] theorem noteClear_g (s : State) (o i : Nat) (g : Fld) : (s.noteClear o i).g g = s.g g := rfl
@[simp] theorem noteClear_ctr (s : State) (o i : Nat) (g : Ctr) : (s.noteClear o i).ctr g = s.ctr g := rfl
@[simp] theorem noteClear_time (s : State) (o i : Nat) : (s.noteClear o i).time = s.time := rfl

@[simp] theorem noteCount_pending (s : State) (o i : Nat) : (s.noteCount o i).pending = s.pending := rfl
@[simp] theorem noteCount_agenda (s : State) (o i : Nat) : (s.noteCount o i).agenda = s.agenda := rfl
@[simp] theorem noteCount_now (s : State) (o i : Nat) : (s.noteCount o i).now = s.now := rfl
@[simp] theorem noteCount_freeCount (s : State) (o i : Nat) : (s.noteCount o i).freeCount = s.freeCount := rfl
@[simp] theorem noteCount_regs (s : State) (o i : Nat) : (s.noteCount o i).regs = s.regs := rfl
@[simp] theorem noteCount_eff (s : State) (o i : Nat) : (s.noteCount o i).eff = s.eff := rfl
@[simp] theorem noteCount_late (s : State) (o i : Nat) : (s.noteCount o i).late = s.late := rfl
@[simp] theorem noteCount_newel (s : State) (o i : Nat) : (s.noteCount o i).newel = s.newel := rfl
@[simp] theorem noteCount_boot (s : State) (o i : Nat) : (s.noteCount o i).boot = s.boot := rfl
@[simp] theorem noteCount_stair (s : State) (o i : Nat) : (s.noteCount o i).stair = s.stair := rfl
@[simp] theorem noteCount_pcie (s : State) (o i : Nat) : (s.noteCount o i).pcie = s.pcie := rfl
@[simp] theorem noteCount_strobes (s : State) (o i : Nat) : (s.noteCount o i).strobes = s.strobes := rfl
@[simp] theorem noteCount_isets (s : State) (o i : Nat) : (s.noteCount o i).isets = s.isets := rfl
@[simp] theorem noteCount_mons (s : State) (o i : Nat) : (s.noteCount o i).mons = s.mons := rfl
@[simp] theorem noteCount_stream (s : State) (o i : Nat) : (s.noteCount o i).stream = s.stream := rfl
@[simp] theorem noteCount_cams (s : State) (o i : Nat) : (s.noteCount o i).cams = s.cams := rfl
@[simp] theorem noteCount_placed (s : State) (o i : Nat) : (s.noteCount o i).placed = s.placed := rfl
@[simp] theorem noteCount_notices (s : State) (o i : Nat) : (s.noteCount o i).notices = s.notices := rfl
@[simp] theorem noteCount_hall (s : State) (o i : Nat) : (s.noteCount o i).hall = s.hall := rfl
@[simp] theorem noteCount_ports (s : State) (o i : Nat) : (s.noteCount o i).ports = s.ports := rfl
@[simp] theorem noteCount_pipes (s : State) (o i : Nat) : (s.noteCount o i).pipes = s.pipes := rfl
@[simp] theorem noteCount_joins (s : State) (o i : Nat) : (s.noteCount o i).joins = s.joins := rfl
@[simp] theorem noteCount_planner (s : State) (o i : Nat) : (s.noteCount o i).planner = s.planner := rfl
@[simp] theorem noteCount_link (s : State) (o i : Nat) : (s.noteCount o i).link = s.link := rfl
@[simp] theorem noteCount_stations (s : State) (o i : Nat) : (s.noteCount o i).stations = s.stations := rfl
@[simp] theorem noteCount_thermal (s : State) (o i : Nat) : (s.noteCount o i).thermal = s.thermal := rfl
@[simp] theorem noteCount_pio (s : State) (o i : Nat) : (s.noteCount o i).pio = s.pio := rfl
@[simp] theorem noteCount_usher (s : State) (o i : Nat) : (s.noteCount o i).usher = s.usher := rfl
@[simp] theorem noteCount_store (s : State) (o i : Nat) : (s.noteCount o i).store = s.store := rfl
@[simp] theorem noteCount_storeBad (s : State) (o i : Nat) : (s.noteCount o i).storeBad = s.storeBad := rfl
@[simp] theorem noteCount_archive (s : State) (o i : Nat) : (s.noteCount o i).archive = s.archive := rfl
@[simp] theorem noteCount_archiveBad (s : State) (o i : Nat) : (s.noteCount o i).archiveBad = s.archiveBad := rfl
@[simp] theorem noteCount_wear (s : State) (o i : Nat) : (s.noteCount o i).wear = s.wear := rfl
@[simp] theorem noteCount_rollback (s : State) (o i : Nat) : (s.noteCount o i).rollback = s.rollback := rfl
@[simp] theorem noteCount_g (s : State) (o i : Nat) (g : Fld) : (s.noteCount o i).g g = s.g g := rfl
@[simp] theorem noteCount_ctr (s : State) (o i : Nat) (g : Ctr) : (s.noteCount o i).ctr g = s.ctr g := rfl
@[simp] theorem noteCount_time (s : State) (o i : Nat) : (s.noteCount o i).time = s.time := rfl

@[simp] theorem bumpBy_pending (s : State) (c : Ctr) (n : Nat) : (s.bumpBy c n).pending = s.pending := rfl
@[simp] theorem bumpBy_agenda (s : State) (c : Ctr) (n : Nat) : (s.bumpBy c n).agenda = s.agenda := rfl
@[simp] theorem bumpBy_now (s : State) (c : Ctr) (n : Nat) : (s.bumpBy c n).now = s.now := rfl
@[simp] theorem bumpBy_freeCount (s : State) (c : Ctr) (n : Nat) : (s.bumpBy c n).freeCount = s.freeCount := rfl
@[simp] theorem bumpBy_eff (s : State) (c : Ctr) (n : Nat) : (s.bumpBy c n).eff = s.eff := rfl
@[simp] theorem bumpBy_late (s : State) (c : Ctr) (n : Nat) : (s.bumpBy c n).late = s.late := rfl
@[simp] theorem bumpBy_newel (s : State) (c : Ctr) (n : Nat) : (s.bumpBy c n).newel = s.newel := rfl
@[simp] theorem bumpBy_boot (s : State) (c : Ctr) (n : Nat) : (s.bumpBy c n).boot = s.boot := rfl
@[simp] theorem bumpBy_stair (s : State) (c : Ctr) (n : Nat) : (s.bumpBy c n).stair = s.stair := rfl
@[simp] theorem bumpBy_pcie (s : State) (c : Ctr) (n : Nat) : (s.bumpBy c n).pcie = s.pcie := rfl
@[simp] theorem bumpBy_strobes (s : State) (c : Ctr) (n : Nat) : (s.bumpBy c n).strobes = s.strobes := rfl
@[simp] theorem bumpBy_isets (s : State) (c : Ctr) (n : Nat) : (s.bumpBy c n).isets = s.isets := rfl
@[simp] theorem bumpBy_mons (s : State) (c : Ctr) (n : Nat) : (s.bumpBy c n).mons = s.mons := rfl
@[simp] theorem bumpBy_stream (s : State) (c : Ctr) (n : Nat) : (s.bumpBy c n).stream = s.stream := rfl
@[simp] theorem bumpBy_cams (s : State) (c : Ctr) (n : Nat) : (s.bumpBy c n).cams = s.cams := rfl
@[simp] theorem bumpBy_placed (s : State) (c : Ctr) (n : Nat) : (s.bumpBy c n).placed = s.placed := rfl
@[simp] theorem bumpBy_notices (s : State) (c : Ctr) (n : Nat) : (s.bumpBy c n).notices = s.notices := rfl
@[simp] theorem bumpBy_hall (s : State) (c : Ctr) (n : Nat) : (s.bumpBy c n).hall = s.hall := rfl
@[simp] theorem bumpBy_ports (s : State) (c : Ctr) (n : Nat) : (s.bumpBy c n).ports = s.ports := rfl
@[simp] theorem bumpBy_pipes (s : State) (c : Ctr) (n : Nat) : (s.bumpBy c n).pipes = s.pipes := rfl
@[simp] theorem bumpBy_joins (s : State) (c : Ctr) (n : Nat) : (s.bumpBy c n).joins = s.joins := rfl
@[simp] theorem bumpBy_planner (s : State) (c : Ctr) (n : Nat) : (s.bumpBy c n).planner = s.planner := rfl
@[simp] theorem bumpBy_link (s : State) (c : Ctr) (n : Nat) : (s.bumpBy c n).link = s.link := rfl
@[simp] theorem bumpBy_stations (s : State) (c : Ctr) (n : Nat) : (s.bumpBy c n).stations = s.stations := rfl
@[simp] theorem bumpBy_thermal (s : State) (c : Ctr) (n : Nat) : (s.bumpBy c n).thermal = s.thermal := rfl
@[simp] theorem bumpBy_pio (s : State) (c : Ctr) (n : Nat) : (s.bumpBy c n).pio = s.pio := rfl
@[simp] theorem bumpBy_usher (s : State) (c : Ctr) (n : Nat) : (s.bumpBy c n).usher = s.usher := rfl
@[simp] theorem bumpBy_store (s : State) (c : Ctr) (n : Nat) : (s.bumpBy c n).store = s.store := rfl
@[simp] theorem bumpBy_storeBad (s : State) (c : Ctr) (n : Nat) : (s.bumpBy c n).storeBad = s.storeBad := rfl
@[simp] theorem bumpBy_archive (s : State) (c : Ctr) (n : Nat) : (s.bumpBy c n).archive = s.archive := rfl
@[simp] theorem bumpBy_archiveBad (s : State) (c : Ctr) (n : Nat) : (s.bumpBy c n).archiveBad = s.archiveBad := rfl
@[simp] theorem bumpBy_wear (s : State) (c : Ctr) (n : Nat) : (s.bumpBy c n).wear = s.wear := rfl
@[simp] theorem bumpBy_rollback (s : State) (c : Ctr) (n : Nat) : (s.bumpBy c n).rollback = s.rollback := rfl
@[simp] theorem bumpBy_time (s : State) (c : Ctr) (n : Nat) : (s.bumpBy c n).time = s.time := rfl

@[simp] theorem bump_pending (s : State) (c : Ctr) : (s.bump c).pending = s.pending := rfl
@[simp] theorem bump_agenda (s : State) (c : Ctr) : (s.bump c).agenda = s.agenda := rfl
@[simp] theorem bump_now (s : State) (c : Ctr) : (s.bump c).now = s.now := rfl
@[simp] theorem bump_freeCount (s : State) (c : Ctr) : (s.bump c).freeCount = s.freeCount := rfl
@[simp] theorem bump_eff (s : State) (c : Ctr) : (s.bump c).eff = s.eff := rfl
@[simp] theorem bump_late (s : State) (c : Ctr) : (s.bump c).late = s.late := rfl
@[simp] theorem bump_newel (s : State) (c : Ctr) : (s.bump c).newel = s.newel := rfl
@[simp] theorem bump_boot (s : State) (c : Ctr) : (s.bump c).boot = s.boot := rfl
@[simp] theorem bump_stair (s : State) (c : Ctr) : (s.bump c).stair = s.stair := rfl
@[simp] theorem bump_pcie (s : State) (c : Ctr) : (s.bump c).pcie = s.pcie := rfl
@[simp] theorem bump_strobes (s : State) (c : Ctr) : (s.bump c).strobes = s.strobes := rfl
@[simp] theorem bump_isets (s : State) (c : Ctr) : (s.bump c).isets = s.isets := rfl
@[simp] theorem bump_mons (s : State) (c : Ctr) : (s.bump c).mons = s.mons := rfl
@[simp] theorem bump_stream (s : State) (c : Ctr) : (s.bump c).stream = s.stream := rfl
@[simp] theorem bump_cams (s : State) (c : Ctr) : (s.bump c).cams = s.cams := rfl
@[simp] theorem bump_placed (s : State) (c : Ctr) : (s.bump c).placed = s.placed := rfl
@[simp] theorem bump_notices (s : State) (c : Ctr) : (s.bump c).notices = s.notices := rfl
@[simp] theorem bump_hall (s : State) (c : Ctr) : (s.bump c).hall = s.hall := rfl
@[simp] theorem bump_ports (s : State) (c : Ctr) : (s.bump c).ports = s.ports := rfl
@[simp] theorem bump_pipes (s : State) (c : Ctr) : (s.bump c).pipes = s.pipes := rfl
@[simp] theorem bump_joins (s : State) (c : Ctr) : (s.bump c).joins = s.joins := rfl
@[simp] theorem bump_planner (s : State) (c : Ctr) : (s.bump c).planner = s.planner := rfl
@[simp] theorem bump_link (s : State) (c : Ctr) : (s.bump c).link = s.link := rfl
@[simp] theorem bump_stations (s : State) (c : Ctr) : (s.bump c).stations = s.stations := rfl
@[simp] theorem bump_thermal (s : State) (c : Ctr) : (s.bump c).thermal = s.thermal := rfl
@[simp] theorem bump_pio (s : State) (c : Ctr) : (s.bump c).pio = s.pio := rfl
@[simp] theorem bump_usher (s : State) (c : Ctr) : (s.bump c).usher = s.usher := rfl
@[simp] theorem bump_store (s : State) (c : Ctr) : (s.bump c).store = s.store := rfl
@[simp] theorem bump_storeBad (s : State) (c : Ctr) : (s.bump c).storeBad = s.storeBad := rfl
@[simp] theorem bump_archive (s : State) (c : Ctr) : (s.bump c).archive = s.archive := rfl
@[simp] theorem bump_archiveBad (s : State) (c : Ctr) : (s.bump c).archiveBad = s.archiveBad := rfl
@[simp] theorem bump_wear (s : State) (c : Ctr) : (s.bump c).wear = s.wear := rfl
@[simp] theorem bump_rollback (s : State) (c : Ctr) : (s.bump c).rollback = s.rollback := rfl
@[simp] theorem bump_time (s : State) (c : Ctr) : (s.bump c).time = s.time := rfl

@[simp] theorem hostAsk_pending (s : State) (a n : Nat) : (s.hostAsk a n).pending = s.pending := rfl
@[simp] theorem hostAsk_agenda (s : State) (a n : Nat) : (s.hostAsk a n).agenda = s.agenda := rfl
@[simp] theorem hostAsk_now (s : State) (a n : Nat) : (s.hostAsk a n).now = s.now := rfl
@[simp] theorem hostAsk_freeCount (s : State) (a n : Nat) : (s.hostAsk a n).freeCount = s.freeCount := rfl
@[simp] theorem hostAsk_regs (s : State) (a n : Nat) : (s.hostAsk a n).regs = s.regs := rfl
@[simp] theorem hostAsk_eff (s : State) (a n : Nat) : (s.hostAsk a n).eff = s.eff := rfl
@[simp] theorem hostAsk_late (s : State) (a n : Nat) : (s.hostAsk a n).late = s.late := rfl
@[simp] theorem hostAsk_moment (s : State) (a n : Nat) : (s.hostAsk a n).moment = s.moment := rfl
@[simp] theorem hostAsk_newel (s : State) (a n : Nat) : (s.hostAsk a n).newel = s.newel := rfl
@[simp] theorem hostAsk_boot (s : State) (a n : Nat) : (s.hostAsk a n).boot = s.boot := rfl
@[simp] theorem hostAsk_stair (s : State) (a n : Nat) : (s.hostAsk a n).stair = s.stair := rfl
@[simp] theorem hostAsk_pcie (s : State) (a n : Nat) :
    (s.hostAsk a n).pcie =
      { s.pcie with sent := s.pcie.sent ++ (requestsOf s.maxRead a n).map fun x => HostMsg.request x.1 x.2 } := rfl
@[simp] theorem hostAsk_strobes (s : State) (a n : Nat) : (s.hostAsk a n).strobes = s.strobes := rfl
@[simp] theorem hostAsk_isets (s : State) (a n : Nat) : (s.hostAsk a n).isets = s.isets := rfl
@[simp] theorem hostAsk_mons (s : State) (a n : Nat) : (s.hostAsk a n).mons = s.mons := rfl
@[simp] theorem hostAsk_stream (s : State) (a n : Nat) : (s.hostAsk a n).stream = s.stream := rfl
@[simp] theorem hostAsk_cams (s : State) (a n : Nat) : (s.hostAsk a n).cams = s.cams := rfl
@[simp] theorem hostAsk_placed (s : State) (a n : Nat) : (s.hostAsk a n).placed = s.placed := rfl
@[simp] theorem hostAsk_notices (s : State) (a n : Nat) : (s.hostAsk a n).notices = s.notices := rfl
@[simp] theorem hostAsk_hall (s : State) (a n : Nat) : (s.hostAsk a n).hall = s.hall := rfl
@[simp] theorem hostAsk_ports (s : State) (a n : Nat) : (s.hostAsk a n).ports = s.ports := rfl
@[simp] theorem hostAsk_pipes (s : State) (a n : Nat) : (s.hostAsk a n).pipes = s.pipes := rfl
@[simp] theorem hostAsk_joins (s : State) (a n : Nat) : (s.hostAsk a n).joins = s.joins := rfl
@[simp] theorem hostAsk_planner (s : State) (a n : Nat) : (s.hostAsk a n).planner = s.planner := rfl
@[simp] theorem hostAsk_link (s : State) (a n : Nat) : (s.hostAsk a n).link = s.link := rfl
@[simp] theorem hostAsk_stations (s : State) (a n : Nat) : (s.hostAsk a n).stations = s.stations := rfl
@[simp] theorem hostAsk_thermal (s : State) (a n : Nat) : (s.hostAsk a n).thermal = s.thermal := rfl
@[simp] theorem hostAsk_pio (s : State) (a n : Nat) : (s.hostAsk a n).pio = s.pio := rfl
@[simp] theorem hostAsk_usher (s : State) (a n : Nat) : (s.hostAsk a n).usher = s.usher := rfl
@[simp] theorem hostAsk_store (s : State) (a n : Nat) : (s.hostAsk a n).store = s.store := rfl
@[simp] theorem hostAsk_storeBad (s : State) (a n : Nat) : (s.hostAsk a n).storeBad = s.storeBad := rfl
@[simp] theorem hostAsk_archive (s : State) (a n : Nat) : (s.hostAsk a n).archive = s.archive := rfl
@[simp] theorem hostAsk_archiveBad (s : State) (a n : Nat) : (s.hostAsk a n).archiveBad = s.archiveBad := rfl
@[simp] theorem hostAsk_wear (s : State) (a n : Nat) : (s.hostAsk a n).wear = s.wear := rfl
@[simp] theorem hostAsk_rollback (s : State) (a n : Nat) : (s.hostAsk a n).rollback = s.rollback := rfl
@[simp] theorem hostAsk_g (s : State) (a n : Nat) (e : Fld) : (s.hostAsk a n).g e = s.g e := rfl
@[simp] theorem hostAsk_ctr (s : State) (a n : Nat) (e : Ctr) : (s.hostAsk a n).ctr e = s.ctr e := rfl
@[simp] theorem hostAsk_time (s : State) (a n : Nat) : (s.hostAsk a n).time = s.time := rfl

@[simp] theorem rollbackTo_pending (s : State) (v : Nat) : (s.rollbackTo v).pending = s.pending := rfl
@[simp] theorem rollbackTo_agenda (s : State) (v : Nat) : (s.rollbackTo v).agenda = s.agenda := rfl
@[simp] theorem rollbackTo_now (s : State) (v : Nat) : (s.rollbackTo v).now = s.now := rfl
@[simp] theorem rollbackTo_freeCount (s : State) (v : Nat) : (s.rollbackTo v).freeCount = s.freeCount := rfl
@[simp] theorem rollbackTo_regs (s : State) (v : Nat) : (s.rollbackTo v).regs = s.regs := rfl
@[simp] theorem rollbackTo_eff (s : State) (v : Nat) : (s.rollbackTo v).eff = s.eff := rfl
@[simp] theorem rollbackTo_late (s : State) (v : Nat) : (s.rollbackTo v).late = s.late := rfl
@[simp] theorem rollbackTo_moment (s : State) (v : Nat) : (s.rollbackTo v).moment = s.moment := rfl
@[simp] theorem rollbackTo_newel (s : State) (v : Nat) : (s.rollbackTo v).newel = s.newel := rfl
@[simp] theorem rollbackTo_boot (s : State) (v : Nat) : (s.rollbackTo v).boot = s.boot := rfl
@[simp] theorem rollbackTo_stair (s : State) (v : Nat) : (s.rollbackTo v).stair = s.stair := rfl
@[simp] theorem rollbackTo_pcie (s : State) (v : Nat) : (s.rollbackTo v).pcie = s.pcie := rfl
@[simp] theorem rollbackTo_strobes (s : State) (v : Nat) : (s.rollbackTo v).strobes = s.strobes := rfl
@[simp] theorem rollbackTo_isets (s : State) (v : Nat) : (s.rollbackTo v).isets = s.isets := rfl
@[simp] theorem rollbackTo_mons (s : State) (v : Nat) : (s.rollbackTo v).mons = s.mons := rfl
@[simp] theorem rollbackTo_stream (s : State) (v : Nat) : (s.rollbackTo v).stream = s.stream := rfl
@[simp] theorem rollbackTo_cams (s : State) (v : Nat) : (s.rollbackTo v).cams = s.cams := rfl
@[simp] theorem rollbackTo_placed (s : State) (v : Nat) : (s.rollbackTo v).placed = s.placed := rfl
@[simp] theorem rollbackTo_notices (s : State) (v : Nat) : (s.rollbackTo v).notices = s.notices := rfl
@[simp] theorem rollbackTo_hall (s : State) (v : Nat) : (s.rollbackTo v).hall = s.hall := rfl
@[simp] theorem rollbackTo_ports (s : State) (v : Nat) : (s.rollbackTo v).ports = s.ports := rfl
@[simp] theorem rollbackTo_pipes (s : State) (v : Nat) : (s.rollbackTo v).pipes = s.pipes := rfl
@[simp] theorem rollbackTo_joins (s : State) (v : Nat) : (s.rollbackTo v).joins = s.joins := rfl
@[simp] theorem rollbackTo_planner (s : State) (v : Nat) : (s.rollbackTo v).planner = s.planner := rfl
@[simp] theorem rollbackTo_link (s : State) (v : Nat) : (s.rollbackTo v).link = s.link := rfl
@[simp] theorem rollbackTo_stations (s : State) (v : Nat) : (s.rollbackTo v).stations = s.stations := rfl
@[simp] theorem rollbackTo_thermal (s : State) (v : Nat) : (s.rollbackTo v).thermal = s.thermal := rfl
@[simp] theorem rollbackTo_pio (s : State) (v : Nat) : (s.rollbackTo v).pio = s.pio := rfl
@[simp] theorem rollbackTo_usher (s : State) (v : Nat) : (s.rollbackTo v).usher = s.usher := rfl
@[simp] theorem rollbackTo_store (s : State) (v : Nat) : (s.rollbackTo v).store = s.store := rfl
@[simp] theorem rollbackTo_storeBad (s : State) (v : Nat) : (s.rollbackTo v).storeBad = s.storeBad := rfl
@[simp] theorem rollbackTo_archive (s : State) (v : Nat) : (s.rollbackTo v).archive = s.archive := rfl
@[simp] theorem rollbackTo_archiveBad (s : State) (v : Nat) : (s.rollbackTo v).archiveBad = s.archiveBad := rfl
@[simp] theorem rollbackTo_wear (s : State) (v : Nat) : (s.rollbackTo v).wear = s.wear := rfl
@[simp] theorem rollbackTo_rollback (s : State) (v : Nat) : (s.rollbackTo v).rollback = max s.rollback v := rfl
@[simp] theorem rollbackTo_g (s : State) (v : Nat) (e : Fld) : (s.rollbackTo v).g e = s.g e := rfl
@[simp] theorem rollbackTo_ctr (s : State) (v : Nat) (e : Ctr) : (s.rollbackTo v).ctr e = s.ctr e := rfl
@[simp] theorem rollbackTo_time (s : State) (v : Nat) : (s.rollbackTo v).time = s.time := rfl

@[simp] theorem setConfig_pending (s : State) (off : Nat) (w : Word) : (s.setConfig off w).pending = s.pending := rfl
@[simp] theorem setConfig_agenda (s : State) (off : Nat) (w : Word) : (s.setConfig off w).agenda = s.agenda := rfl
@[simp] theorem setConfig_now (s : State) (off : Nat) (w : Word) : (s.setConfig off w).now = s.now := rfl
@[simp] theorem setConfig_freeCount (s : State) (off : Nat) (w : Word) :
    (s.setConfig off w).freeCount = s.freeCount := rfl
@[simp] theorem setConfig_regs (s : State) (off : Nat) (w : Word) : (s.setConfig off w).regs = s.regs := rfl
@[simp] theorem setConfig_eff (s : State) (off : Nat) (w : Word) : (s.setConfig off w).eff = s.eff := rfl
@[simp] theorem setConfig_late (s : State) (off : Nat) (w : Word) : (s.setConfig off w).late = s.late := rfl
@[simp] theorem setConfig_moment (s : State) (off : Nat) (w : Word) : (s.setConfig off w).moment = s.moment := rfl
@[simp] theorem setConfig_newel (s : State) (off : Nat) (w : Word) : (s.setConfig off w).newel = s.newel := rfl
@[simp] theorem setConfig_boot (s : State) (off : Nat) (w : Word) : (s.setConfig off w).boot = s.boot := rfl
@[simp] theorem setConfig_stair (s : State) (off : Nat) (w : Word) : (s.setConfig off w).stair = s.stair := rfl
@[simp] theorem setConfig_pcie (s : State) (off : Nat) (w : Word) :
    (s.setConfig off w).pcie = { s.pcie with config := s.pcie.config.set off w } := rfl
@[simp] theorem setConfig_strobes (s : State) (off : Nat) (w : Word) : (s.setConfig off w).strobes = s.strobes := rfl
@[simp] theorem setConfig_isets (s : State) (off : Nat) (w : Word) : (s.setConfig off w).isets = s.isets := rfl
@[simp] theorem setConfig_mons (s : State) (off : Nat) (w : Word) : (s.setConfig off w).mons = s.mons := rfl
@[simp] theorem setConfig_stream (s : State) (off : Nat) (w : Word) : (s.setConfig off w).stream = s.stream := rfl
@[simp] theorem setConfig_cams (s : State) (off : Nat) (w : Word) : (s.setConfig off w).cams = s.cams := rfl
@[simp] theorem setConfig_placed (s : State) (off : Nat) (w : Word) : (s.setConfig off w).placed = s.placed := rfl
@[simp] theorem setConfig_notices (s : State) (off : Nat) (w : Word) : (s.setConfig off w).notices = s.notices := rfl
@[simp] theorem setConfig_hall (s : State) (off : Nat) (w : Word) : (s.setConfig off w).hall = s.hall := rfl
@[simp] theorem setConfig_ports (s : State) (off : Nat) (w : Word) : (s.setConfig off w).ports = s.ports := rfl
@[simp] theorem setConfig_pipes (s : State) (off : Nat) (w : Word) : (s.setConfig off w).pipes = s.pipes := rfl
@[simp] theorem setConfig_joins (s : State) (off : Nat) (w : Word) : (s.setConfig off w).joins = s.joins := rfl
@[simp] theorem setConfig_planner (s : State) (off : Nat) (w : Word) : (s.setConfig off w).planner = s.planner := rfl
@[simp] theorem setConfig_link (s : State) (off : Nat) (w : Word) : (s.setConfig off w).link = s.link := rfl
@[simp] theorem setConfig_stations (s : State) (off : Nat) (w : Word) : (s.setConfig off w).stations = s.stations := rfl
@[simp] theorem setConfig_thermal (s : State) (off : Nat) (w : Word) : (s.setConfig off w).thermal = s.thermal := rfl
@[simp] theorem setConfig_pio (s : State) (off : Nat) (w : Word) : (s.setConfig off w).pio = s.pio := rfl
@[simp] theorem setConfig_usher (s : State) (off : Nat) (w : Word) : (s.setConfig off w).usher = s.usher := rfl
@[simp] theorem setConfig_store (s : State) (off : Nat) (w : Word) : (s.setConfig off w).store = s.store := rfl
@[simp] theorem setConfig_storeBad (s : State) (off : Nat) (w : Word) : (s.setConfig off w).storeBad = s.storeBad := rfl
@[simp] theorem setConfig_archive (s : State) (off : Nat) (w : Word) : (s.setConfig off w).archive = s.archive := rfl
@[simp] theorem setConfig_archiveBad (s : State) (off : Nat) (w : Word) :
    (s.setConfig off w).archiveBad = s.archiveBad := rfl
@[simp] theorem setConfig_wear (s : State) (off : Nat) (w : Word) : (s.setConfig off w).wear = s.wear := rfl
@[simp] theorem setConfig_rollback (s : State) (off : Nat) (w : Word) : (s.setConfig off w).rollback = s.rollback := rfl
@[simp] theorem setConfig_g (s : State) (off : Nat) (w : Word) (e : Fld) : (s.setConfig off w).g e = s.g e := rfl
@[simp] theorem setConfig_ctr (s : State) (off : Nat) (w : Word) (e : Ctr) : (s.setConfig off w).ctr e = s.ctr e := rfl
@[simp] theorem setConfig_time (s : State) (off : Nat) (w : Word) : (s.setConfig off w).time = s.time := rfl

@[simp] theorem blockIs_pending (s : State) (b : Nat) (bs : List Byte) : (s.blockIs b bs).pending = s.pending := rfl
@[simp] theorem blockIs_agenda (s : State) (b : Nat) (bs : List Byte) : (s.blockIs b bs).agenda = s.agenda := rfl
@[simp] theorem blockIs_now (s : State) (b : Nat) (bs : List Byte) : (s.blockIs b bs).now = s.now := rfl
@[simp] theorem blockIs_freeCount (s : State) (b : Nat) (bs : List Byte) :
    (s.blockIs b bs).freeCount = s.freeCount := rfl
@[simp] theorem blockIs_regs (s : State) (b : Nat) (bs : List Byte) : (s.blockIs b bs).regs = s.regs := rfl
@[simp] theorem blockIs_eff (s : State) (b : Nat) (bs : List Byte) : (s.blockIs b bs).eff = s.eff := rfl
@[simp] theorem blockIs_late (s : State) (b : Nat) (bs : List Byte) : (s.blockIs b bs).late = s.late := rfl
@[simp] theorem blockIs_moment (s : State) (b : Nat) (bs : List Byte) : (s.blockIs b bs).moment = s.moment := rfl
@[simp] theorem blockIs_newel (s : State) (b : Nat) (bs : List Byte) : (s.blockIs b bs).newel = s.newel := rfl
@[simp] theorem blockIs_boot (s : State) (b : Nat) (bs : List Byte) : (s.blockIs b bs).boot = s.boot := rfl
@[simp] theorem blockIs_stair (s : State) (b : Nat) (bs : List Byte) : (s.blockIs b bs).stair = s.stair := rfl
@[simp] theorem blockIs_pcie (s : State) (b : Nat) (bs : List Byte) : (s.blockIs b bs).pcie = s.pcie := rfl
@[simp] theorem blockIs_strobes (s : State) (b : Nat) (bs : List Byte) : (s.blockIs b bs).strobes = s.strobes := rfl
@[simp] theorem blockIs_isets (s : State) (b : Nat) (bs : List Byte) : (s.blockIs b bs).isets = s.isets := rfl
@[simp] theorem blockIs_mons (s : State) (b : Nat) (bs : List Byte) : (s.blockIs b bs).mons = s.mons := rfl
@[simp] theorem blockIs_stream (s : State) (b : Nat) (bs : List Byte) : (s.blockIs b bs).stream = s.stream := rfl
@[simp] theorem blockIs_cams (s : State) (b : Nat) (bs : List Byte) : (s.blockIs b bs).cams = s.cams := rfl
@[simp] theorem blockIs_placed (s : State) (b : Nat) (bs : List Byte) : (s.blockIs b bs).placed = s.placed := rfl
@[simp] theorem blockIs_notices (s : State) (b : Nat) (bs : List Byte) : (s.blockIs b bs).notices = s.notices := rfl
@[simp] theorem blockIs_hall (s : State) (b : Nat) (bs : List Byte) : (s.blockIs b bs).hall = s.hall := rfl
@[simp] theorem blockIs_ports (s : State) (b : Nat) (bs : List Byte) : (s.blockIs b bs).ports = s.ports := rfl
@[simp] theorem blockIs_pipes (s : State) (b : Nat) (bs : List Byte) : (s.blockIs b bs).pipes = s.pipes := rfl
@[simp] theorem blockIs_joins (s : State) (b : Nat) (bs : List Byte) : (s.blockIs b bs).joins = s.joins := rfl
@[simp] theorem blockIs_planner (s : State) (b : Nat) (bs : List Byte) : (s.blockIs b bs).planner = s.planner := rfl
@[simp] theorem blockIs_link (s : State) (b : Nat) (bs : List Byte) : (s.blockIs b bs).link = s.link := rfl
@[simp] theorem blockIs_stations (s : State) (b : Nat) (bs : List Byte) : (s.blockIs b bs).stations = s.stations := rfl
@[simp] theorem blockIs_thermal (s : State) (b : Nat) (bs : List Byte) : (s.blockIs b bs).thermal = s.thermal := rfl
@[simp] theorem blockIs_pio (s : State) (b : Nat) (bs : List Byte) : (s.blockIs b bs).pio = s.pio := rfl
@[simp] theorem blockIs_usher (s : State) (b : Nat) (bs : List Byte) : (s.blockIs b bs).usher = s.usher := rfl
@[simp] theorem blockIs_store (s : State) (b : Nat) (bs : List Byte) : (s.blockIs b bs).store = s.store := rfl
@[simp] theorem blockIs_storeBad (s : State) (b : Nat) (bs : List Byte) : (s.blockIs b bs).storeBad = s.storeBad := rfl
@[simp] theorem blockIs_archive (s : State) (b : Nat) (bs : List Byte) :
    (s.blockIs b bs).archive = s.archive.write (256 * b) bs := rfl
@[simp] theorem blockIs_archiveBad (s : State) (b : Nat) (bs : List Byte) :
    (s.blockIs b bs).archiveBad = s.archiveBad.filter (· != b) := rfl
@[simp] theorem blockIs_wear (s : State) (b : Nat) (bs : List Byte) : (s.blockIs b bs).wear = s.wear := rfl
@[simp] theorem blockIs_rollback (s : State) (b : Nat) (bs : List Byte) : (s.blockIs b bs).rollback = s.rollback := rfl
@[simp] theorem blockIs_g (s : State) (b : Nat) (bs : List Byte) (e : Fld) : (s.blockIs b bs).g e = s.g e := rfl
@[simp] theorem blockIs_ctr (s : State) (b : Nat) (bs : List Byte) (e : Ctr) : (s.blockIs b bs).ctr e = s.ctr e := rfl
@[simp] theorem blockIs_time (s : State) (b : Nat) (bs : List Byte) : (s.blockIs b bs).time = s.time := rfl

@[simp] theorem storeClear_pending (s : State) (a n : Nat) : (s.storeClear a n).pending = s.pending := rfl
@[simp] theorem storeClear_agenda (s : State) (a n : Nat) : (s.storeClear a n).agenda = s.agenda := rfl
@[simp] theorem storeClear_now (s : State) (a n : Nat) : (s.storeClear a n).now = s.now := rfl
@[simp] theorem storeClear_freeCount (s : State) (a n : Nat) : (s.storeClear a n).freeCount = s.freeCount := rfl
@[simp] theorem storeClear_regs (s : State) (a n : Nat) : (s.storeClear a n).regs = s.regs := rfl
@[simp] theorem storeClear_eff (s : State) (a n : Nat) : (s.storeClear a n).eff = s.eff := rfl
@[simp] theorem storeClear_late (s : State) (a n : Nat) : (s.storeClear a n).late = s.late := rfl
@[simp] theorem storeClear_moment (s : State) (a n : Nat) : (s.storeClear a n).moment = s.moment := rfl
@[simp] theorem storeClear_newel (s : State) (a n : Nat) : (s.storeClear a n).newel = s.newel := rfl
@[simp] theorem storeClear_boot (s : State) (a n : Nat) : (s.storeClear a n).boot = s.boot := rfl
@[simp] theorem storeClear_stair (s : State) (a n : Nat) : (s.storeClear a n).stair = s.stair := rfl
@[simp] theorem storeClear_pcie (s : State) (a n : Nat) : (s.storeClear a n).pcie = s.pcie := rfl
@[simp] theorem storeClear_strobes (s : State) (a n : Nat) : (s.storeClear a n).strobes = s.strobes := rfl
@[simp] theorem storeClear_isets (s : State) (a n : Nat) : (s.storeClear a n).isets = s.isets := rfl
@[simp] theorem storeClear_mons (s : State) (a n : Nat) : (s.storeClear a n).mons = s.mons := rfl
@[simp] theorem storeClear_stream (s : State) (a n : Nat) : (s.storeClear a n).stream = s.stream := rfl
@[simp] theorem storeClear_cams (s : State) (a n : Nat) : (s.storeClear a n).cams = s.cams := rfl
@[simp] theorem storeClear_placed (s : State) (a n : Nat) : (s.storeClear a n).placed = s.placed := rfl
@[simp] theorem storeClear_notices (s : State) (a n : Nat) : (s.storeClear a n).notices = s.notices := rfl
@[simp] theorem storeClear_hall (s : State) (a n : Nat) : (s.storeClear a n).hall = s.hall := rfl
@[simp] theorem storeClear_ports (s : State) (a n : Nat) : (s.storeClear a n).ports = s.ports := rfl
@[simp] theorem storeClear_pipes (s : State) (a n : Nat) : (s.storeClear a n).pipes = s.pipes := rfl
@[simp] theorem storeClear_joins (s : State) (a n : Nat) : (s.storeClear a n).joins = s.joins := rfl
@[simp] theorem storeClear_planner (s : State) (a n : Nat) : (s.storeClear a n).planner = s.planner := rfl
@[simp] theorem storeClear_link (s : State) (a n : Nat) : (s.storeClear a n).link = s.link := rfl
@[simp] theorem storeClear_stations (s : State) (a n : Nat) : (s.storeClear a n).stations = s.stations := rfl
@[simp] theorem storeClear_thermal (s : State) (a n : Nat) : (s.storeClear a n).thermal = s.thermal := rfl
@[simp] theorem storeClear_pio (s : State) (a n : Nat) : (s.storeClear a n).pio = s.pio := rfl
@[simp] theorem storeClear_usher (s : State) (a n : Nat) : (s.storeClear a n).usher = s.usher := rfl
@[simp] theorem storeClear_store (s : State) (a n : Nat) : (s.storeClear a n).store = sdrop s.store a (a + n) := rfl
@[simp] theorem storeClear_storeBad (s : State) (a n : Nat) :
    (s.storeClear a n).storeBad = s.storeBad.filter fun w => decide (w + 8 ≤ a) || decide (a + n ≤ w) := rfl
@[simp] theorem storeClear_archive (s : State) (a n : Nat) : (s.storeClear a n).archive = s.archive := rfl
@[simp] theorem storeClear_archiveBad (s : State) (a n : Nat) : (s.storeClear a n).archiveBad = s.archiveBad := rfl
@[simp] theorem storeClear_wear (s : State) (a n : Nat) : (s.storeClear a n).wear = s.wear := rfl
@[simp] theorem storeClear_rollback (s : State) (a n : Nat) : (s.storeClear a n).rollback = s.rollback := rfl
@[simp] theorem storeClear_g (s : State) (a n : Nat) (e : Fld) : (s.storeClear a n).g e = s.g e := rfl
@[simp] theorem storeClear_ctr (s : State) (a n : Nat) (e : Ctr) : (s.storeClear a n).ctr e = s.ctr e := rfl
@[simp] theorem storeClear_time (s : State) (a n : Nat) : (s.storeClear a n).time = s.time := rfl

@[simp] theorem modMember_pending (s : State) (g : Nat) (f : Member → Member) :
    (s.modMember g f).pending = s.pending := rfl
@[simp] theorem modMember_agenda (s : State) (g : Nat) (f : Member → Member) :
    (s.modMember g f).agenda = s.agenda := rfl
@[simp] theorem modMember_now (s : State) (g : Nat) (f : Member → Member) : (s.modMember g f).now = s.now := rfl
@[simp] theorem modMember_freeCount (s : State) (g : Nat) (f : Member → Member) :
    (s.modMember g f).freeCount = s.freeCount := rfl
@[simp] theorem modMember_regs (s : State) (g : Nat) (f : Member → Member) : (s.modMember g f).regs = s.regs := rfl
@[simp] theorem modMember_eff (s : State) (g : Nat) (f : Member → Member) : (s.modMember g f).eff = s.eff := rfl
@[simp] theorem modMember_late (s : State) (g : Nat) (f : Member → Member) : (s.modMember g f).late = s.late := rfl
@[simp] theorem modMember_moment (s : State) (g : Nat) (f : Member → Member) :
    (s.modMember g f).moment = s.moment := rfl
@[simp] theorem modMember_newel (s : State) (g : Nat) (f : Member → Member) : (s.modMember g f).newel = s.newel := rfl
@[simp] theorem modMember_boot (s : State) (g : Nat) (f : Member → Member) : (s.modMember g f).boot = s.boot := rfl
@[simp] theorem modMember_stair (s : State) (g : Nat) (f : Member → Member) : (s.modMember g f).stair = s.stair := rfl
@[simp] theorem modMember_pcie (s : State) (g : Nat) (f : Member → Member) : (s.modMember g f).pcie = s.pcie := rfl
@[simp] theorem modMember_strobes (s : State) (g : Nat) (f : Member → Member) :
    (s.modMember g f).strobes = s.strobes := rfl
@[simp] theorem modMember_isets (s : State) (g : Nat) (f : Member → Member) : (s.modMember g f).isets = s.isets := rfl
@[simp] theorem modMember_mons (s : State) (g : Nat) (f : Member → Member) : (s.modMember g f).mons = s.mons := rfl
@[simp] theorem modMember_stream (s : State) (g : Nat) (f : Member → Member) :
    (s.modMember g f).stream = s.stream := rfl
@[simp] theorem modMember_cams (s : State) (g : Nat) (f : Member → Member) : (s.modMember g f).cams = s.cams := rfl
@[simp] theorem modMember_placed (s : State) (g : Nat) (f : Member → Member) :
    (s.modMember g f).placed = s.placed := rfl
@[simp] theorem modMember_notices (s : State) (g : Nat) (f : Member → Member) :
    (s.modMember g f).notices = s.notices := rfl
@[simp] theorem modMember_hall (s : State) (g : Nat) (f : Member → Member) : (s.modMember g f).hall = s.hall := rfl
@[simp] theorem modMember_ports (s : State) (g : Nat) (f : Member → Member) : (s.modMember g f).ports = s.ports := rfl
@[simp] theorem modMember_pipes (s : State) (g : Nat) (f : Member → Member) : (s.modMember g f).pipes = s.pipes := rfl
@[simp] theorem modMember_joins (s : State) (g : Nat) (f : Member → Member) : (s.modMember g f).joins = s.joins := rfl
@[simp] theorem modMember_planner (s : State) (g : Nat) (f : Member → Member) :
    (s.modMember g f).planner = s.planner := rfl
@[simp] theorem modMember_link (s : State) (g : Nat) (f : Member → Member) :
    (s.modMember g f).link = { s.link with members := modNth s.link.members g fun m => m.map f } := rfl
@[simp] theorem modMember_stations (s : State) (g : Nat) (f : Member → Member) :
    (s.modMember g f).stations = s.stations := rfl
@[simp] theorem modMember_thermal (s : State) (g : Nat) (f : Member → Member) :
    (s.modMember g f).thermal = s.thermal := rfl
@[simp] theorem modMember_pio (s : State) (g : Nat) (f : Member → Member) : (s.modMember g f).pio = s.pio := rfl
@[simp] theorem modMember_usher (s : State) (g : Nat) (f : Member → Member) : (s.modMember g f).usher = s.usher := rfl
@[simp] theorem modMember_store (s : State) (g : Nat) (f : Member → Member) : (s.modMember g f).store = s.store := rfl
@[simp] theorem modMember_storeBad (s : State) (g : Nat) (f : Member → Member) :
    (s.modMember g f).storeBad = s.storeBad := rfl
@[simp] theorem modMember_archive (s : State) (g : Nat) (f : Member → Member) :
    (s.modMember g f).archive = s.archive := rfl
@[simp] theorem modMember_archiveBad (s : State) (g : Nat) (f : Member → Member) :
    (s.modMember g f).archiveBad = s.archiveBad := rfl
@[simp] theorem modMember_wear (s : State) (g : Nat) (f : Member → Member) : (s.modMember g f).wear = s.wear := rfl
@[simp] theorem modMember_rollback (s : State) (g : Nat) (f : Member → Member) :
    (s.modMember g f).rollback = s.rollback := rfl
@[simp] theorem modMember_g (s : State) (g : Nat) (f : Member → Member) (e : Fld) : (s.modMember g f).g e = s.g e := rfl
@[simp] theorem modMember_ctr (s : State) (g : Nat) (f : Member → Member) (e : Ctr) : (s.modMember g f).ctr e = s.ctr e := rfl
@[simp] theorem modMember_time (s : State) (g : Nat) (f : Member → Member) : (s.modMember g f).time = s.time := rfl

@[simp] theorem setJetEnd_pending (s : State) (j e : Nat) : (s.setJetEnd j e).pending = s.pending := rfl
@[simp] theorem setJetEnd_agenda (s : State) (j e : Nat) : (s.setJetEnd j e).agenda = s.agenda := rfl
@[simp] theorem setJetEnd_now (s : State) (j e : Nat) : (s.setJetEnd j e).now = s.now := rfl
@[simp] theorem setJetEnd_freeCount (s : State) (j e : Nat) : (s.setJetEnd j e).freeCount = s.freeCount := rfl
@[simp] theorem setJetEnd_regs (s : State) (j e : Nat) : (s.setJetEnd j e).regs = s.regs := rfl
@[simp] theorem setJetEnd_eff (s : State) (j e : Nat) : (s.setJetEnd j e).eff = s.eff := rfl
@[simp] theorem setJetEnd_late (s : State) (j e : Nat) : (s.setJetEnd j e).late = s.late := rfl
@[simp] theorem setJetEnd_moment (s : State) (j e : Nat) : (s.setJetEnd j e).moment = s.moment := rfl
@[simp] theorem setJetEnd_newel (s : State) (j e : Nat) : (s.setJetEnd j e).newel = s.newel := rfl
@[simp] theorem setJetEnd_boot (s : State) (j e : Nat) : (s.setJetEnd j e).boot = s.boot := rfl
@[simp] theorem setJetEnd_stair (s : State) (j e : Nat) : (s.setJetEnd j e).stair = s.stair := rfl
@[simp] theorem setJetEnd_pcie (s : State) (j e : Nat) : (s.setJetEnd j e).pcie = s.pcie := rfl
@[simp] theorem setJetEnd_strobes (s : State) (j e : Nat) : (s.setJetEnd j e).strobes = s.strobes := rfl
@[simp] theorem setJetEnd_isets (s : State) (j e : Nat) : (s.setJetEnd j e).isets = s.isets := rfl
@[simp] theorem setJetEnd_mons (s : State) (j e : Nat) : (s.setJetEnd j e).mons = s.mons := rfl
@[simp] theorem setJetEnd_stream (s : State) (j e : Nat) : (s.setJetEnd j e).stream = s.stream := rfl
@[simp] theorem setJetEnd_cams (s : State) (j e : Nat) : (s.setJetEnd j e).cams = s.cams := rfl
@[simp] theorem setJetEnd_placed (s : State) (j e : Nat) : (s.setJetEnd j e).placed = s.placed := rfl
@[simp] theorem setJetEnd_notices (s : State) (j e : Nat) : (s.setJetEnd j e).notices = s.notices := rfl
@[simp] theorem setJetEnd_hall (s : State) (j e : Nat) : (s.setJetEnd j e).hall = s.hall := rfl
@[simp] theorem setJetEnd_ports (s : State) (j e : Nat) : (s.setJetEnd j e).ports = s.ports := rfl
@[simp] theorem setJetEnd_pipes (s : State) (j e : Nat) : (s.setJetEnd j e).pipes = s.pipes := rfl
@[simp] theorem setJetEnd_joins (s : State) (j e : Nat) : (s.setJetEnd j e).joins = s.joins := rfl
@[simp] theorem setJetEnd_planner (s : State) (j e : Nat) :
    (s.setJetEnd j e).planner =
      { s.planner with jetEnd := (s.planner.jetEnd.filter fun x => x.1 != j) ++ [(j, e)] } := rfl
@[simp] theorem setJetEnd_link (s : State) (j e : Nat) : (s.setJetEnd j e).link = s.link := rfl
@[simp] theorem setJetEnd_stations (s : State) (j e : Nat) : (s.setJetEnd j e).stations = s.stations := rfl
@[simp] theorem setJetEnd_thermal (s : State) (j e : Nat) : (s.setJetEnd j e).thermal = s.thermal := rfl
@[simp] theorem setJetEnd_pio (s : State) (j e : Nat) : (s.setJetEnd j e).pio = s.pio := rfl
@[simp] theorem setJetEnd_usher (s : State) (j e : Nat) : (s.setJetEnd j e).usher = s.usher := rfl
@[simp] theorem setJetEnd_store (s : State) (j e : Nat) : (s.setJetEnd j e).store = s.store := rfl
@[simp] theorem setJetEnd_storeBad (s : State) (j e : Nat) : (s.setJetEnd j e).storeBad = s.storeBad := rfl
@[simp] theorem setJetEnd_archive (s : State) (j e : Nat) : (s.setJetEnd j e).archive = s.archive := rfl
@[simp] theorem setJetEnd_archiveBad (s : State) (j e : Nat) : (s.setJetEnd j e).archiveBad = s.archiveBad := rfl
@[simp] theorem setJetEnd_wear (s : State) (j e : Nat) : (s.setJetEnd j e).wear = s.wear := rfl
@[simp] theorem setJetEnd_rollback (s : State) (j e : Nat) : (s.setJetEnd j e).rollback = s.rollback := rfl
@[simp] theorem setJetEnd_g (s : State) (j e : Nat) (d : Fld) : (s.setJetEnd j e).g d = s.g d := rfl
@[simp] theorem setJetEnd_ctr (s : State) (j e : Nat) (d : Ctr) : (s.setJetEnd j e).ctr d = s.ctr d := rfl
@[simp] theorem setJetEnd_time (s : State) (j e : Nat) : (s.setJetEnd j e).time = s.time := rfl

@[simp] theorem setSensor_pending (s : State) (i : Nat) (prev held : Option Int) (far : Nat) :
    (s.setSensor i prev held far).pending = s.pending := rfl
@[simp] theorem setSensor_agenda (s : State) (i : Nat) (prev held : Option Int) (far : Nat) :
    (s.setSensor i prev held far).agenda = s.agenda := rfl
@[simp] theorem setSensor_now (s : State) (i : Nat) (prev held : Option Int) (far : Nat) :
    (s.setSensor i prev held far).now = s.now := rfl
@[simp] theorem setSensor_freeCount (s : State) (i : Nat) (prev held : Option Int) (far : Nat) :
    (s.setSensor i prev held far).freeCount = s.freeCount := rfl
@[simp] theorem setSensor_regs (s : State) (i : Nat) (prev held : Option Int) (far : Nat) :
    (s.setSensor i prev held far).regs = s.regs := rfl
@[simp] theorem setSensor_eff (s : State) (i : Nat) (prev held : Option Int) (far : Nat) :
    (s.setSensor i prev held far).eff = s.eff := rfl
@[simp] theorem setSensor_late (s : State) (i : Nat) (prev held : Option Int) (far : Nat) :
    (s.setSensor i prev held far).late = s.late := rfl
@[simp] theorem setSensor_moment (s : State) (i : Nat) (prev held : Option Int) (far : Nat) :
    (s.setSensor i prev held far).moment = s.moment := rfl
@[simp] theorem setSensor_newel (s : State) (i : Nat) (prev held : Option Int) (far : Nat) :
    (s.setSensor i prev held far).newel = s.newel := rfl
@[simp] theorem setSensor_boot (s : State) (i : Nat) (prev held : Option Int) (far : Nat) :
    (s.setSensor i prev held far).boot = s.boot := rfl
@[simp] theorem setSensor_stair (s : State) (i : Nat) (prev held : Option Int) (far : Nat) :
    (s.setSensor i prev held far).stair = s.stair := rfl
@[simp] theorem setSensor_pcie (s : State) (i : Nat) (prev held : Option Int) (far : Nat) :
    (s.setSensor i prev held far).pcie = s.pcie := rfl
@[simp] theorem setSensor_strobes (s : State) (i : Nat) (prev held : Option Int) (far : Nat) :
    (s.setSensor i prev held far).strobes = s.strobes := rfl
@[simp] theorem setSensor_isets (s : State) (i : Nat) (prev held : Option Int) (far : Nat) :
    (s.setSensor i prev held far).isets = s.isets := rfl
@[simp] theorem setSensor_mons (s : State) (i : Nat) (prev held : Option Int) (far : Nat) :
    (s.setSensor i prev held far).mons = s.mons := rfl
@[simp] theorem setSensor_stream (s : State) (i : Nat) (prev held : Option Int) (far : Nat) :
    (s.setSensor i prev held far).stream = s.stream := rfl
@[simp] theorem setSensor_cams (s : State) (i : Nat) (prev held : Option Int) (far : Nat) :
    (s.setSensor i prev held far).cams = s.cams := rfl
@[simp] theorem setSensor_placed (s : State) (i : Nat) (prev held : Option Int) (far : Nat) :
    (s.setSensor i prev held far).placed = s.placed := rfl
@[simp] theorem setSensor_notices (s : State) (i : Nat) (prev held : Option Int) (far : Nat) :
    (s.setSensor i prev held far).notices = s.notices := rfl
@[simp] theorem setSensor_hall (s : State) (i : Nat) (prev held : Option Int) (far : Nat) :
    (s.setSensor i prev held far).hall = s.hall := rfl
@[simp] theorem setSensor_ports (s : State) (i : Nat) (prev held : Option Int) (far : Nat) :
    (s.setSensor i prev held far).ports = s.ports := rfl
@[simp] theorem setSensor_pipes (s : State) (i : Nat) (prev held : Option Int) (far : Nat) :
    (s.setSensor i prev held far).pipes = s.pipes := rfl
@[simp] theorem setSensor_joins (s : State) (i : Nat) (prev held : Option Int) (far : Nat) :
    (s.setSensor i prev held far).joins = s.joins := rfl
@[simp] theorem setSensor_planner (s : State) (i : Nat) (prev held : Option Int) (far : Nat) :
    (s.setSensor i prev held far).planner = s.planner := rfl
@[simp] theorem setSensor_link (s : State) (i : Nat) (prev held : Option Int) (far : Nat) :
    (s.setSensor i prev held far).link = s.link := rfl
@[simp] theorem setSensor_stations (s : State) (i : Nat) (prev held : Option Int) (far : Nat) :
    (s.setSensor i prev held far).stations = s.stations := rfl
@[simp] theorem setSensor_thermal (s : State) (i : Nat) (prev held : Option Int) (far : Nat) :
    (s.setSensor i prev held far).thermal =
      { s.thermal with prev := modNth s.thermal.prev i fun _ => prev, held := modNth s.thermal.held i fun _ => held, far := modNth s.thermal.far i fun _ => far } := rfl
@[simp] theorem setSensor_pio (s : State) (i : Nat) (prev held : Option Int) (far : Nat) :
    (s.setSensor i prev held far).pio = s.pio := rfl
@[simp] theorem setSensor_usher (s : State) (i : Nat) (prev held : Option Int) (far : Nat) :
    (s.setSensor i prev held far).usher = s.usher := rfl
@[simp] theorem setSensor_store (s : State) (i : Nat) (prev held : Option Int) (far : Nat) :
    (s.setSensor i prev held far).store = s.store := rfl
@[simp] theorem setSensor_storeBad (s : State) (i : Nat) (prev held : Option Int) (far : Nat) :
    (s.setSensor i prev held far).storeBad = s.storeBad := rfl
@[simp] theorem setSensor_archive (s : State) (i : Nat) (prev held : Option Int) (far : Nat) :
    (s.setSensor i prev held far).archive = s.archive := rfl
@[simp] theorem setSensor_archiveBad (s : State) (i : Nat) (prev held : Option Int) (far : Nat) :
    (s.setSensor i prev held far).archiveBad = s.archiveBad := rfl
@[simp] theorem setSensor_wear (s : State) (i : Nat) (prev held : Option Int) (far : Nat) :
    (s.setSensor i prev held far).wear = s.wear := rfl
@[simp] theorem setSensor_rollback (s : State) (i : Nat) (prev held : Option Int) (far : Nat) :
    (s.setSensor i prev held far).rollback = s.rollback := rfl
@[simp] theorem setSensor_g (s : State) (i : Nat) (prev held : Option Int) (far : Nat) (e : Fld) : (s.setSensor i prev held far).g e = s.g e := rfl
@[simp] theorem setSensor_ctr (s : State) (i : Nat) (prev held : Option Int) (far : Nat) (e : Ctr) : (s.setSensor i prev held far).ctr e = s.ctr e := rfl
@[simp] theorem setSensor_time (s : State) (i : Nat) (prev held : Option Int) (far : Nat) : (s.setSensor i prev held far).time = s.time := rfl

@[simp] theorem movePin_pending (s : State) (t n : Nat) : (s.movePin t n).pending = s.pending := rfl
@[simp] theorem movePin_agenda (s : State) (t n : Nat) : (s.movePin t n).agenda = s.agenda := rfl
@[simp] theorem movePin_now (s : State) (t n : Nat) : (s.movePin t n).now = s.now := rfl
@[simp] theorem movePin_freeCount (s : State) (t n : Nat) : (s.movePin t n).freeCount = s.freeCount := rfl
@[simp] theorem movePin_regs (s : State) (t n : Nat) : (s.movePin t n).regs = s.regs := rfl
@[simp] theorem movePin_eff (s : State) (t n : Nat) : (s.movePin t n).eff = s.eff := rfl
@[simp] theorem movePin_late (s : State) (t n : Nat) : (s.movePin t n).late = s.late := rfl
@[simp] theorem movePin_moment (s : State) (t n : Nat) : (s.movePin t n).moment = s.moment := rfl
@[simp] theorem movePin_newel (s : State) (t n : Nat) : (s.movePin t n).newel = s.newel := rfl
@[simp] theorem movePin_boot (s : State) (t n : Nat) : (s.movePin t n).boot = s.boot := rfl
@[simp] theorem movePin_stair (s : State) (t n : Nat) : (s.movePin t n).stair = s.stair := rfl
@[simp] theorem movePin_pcie (s : State) (t n : Nat) : (s.movePin t n).pcie = s.pcie := rfl
@[simp] theorem movePin_strobes (s : State) (t n : Nat) : (s.movePin t n).strobes = s.strobes := rfl
@[simp] theorem movePin_isets (s : State) (t n : Nat) : (s.movePin t n).isets = s.isets := rfl
@[simp] theorem movePin_mons (s : State) (t n : Nat) : (s.movePin t n).mons = s.mons := rfl
@[simp] theorem movePin_stream (s : State) (t n : Nat) : (s.movePin t n).stream = s.stream := rfl
@[simp] theorem movePin_cams (s : State) (t n : Nat) : (s.movePin t n).cams = s.cams := rfl
@[simp] theorem movePin_placed (s : State) (t n : Nat) : (s.movePin t n).placed = s.placed := rfl
@[simp] theorem movePin_notices (s : State) (t n : Nat) : (s.movePin t n).notices = s.notices := rfl
@[simp] theorem movePin_hall (s : State) (t n : Nat) : (s.movePin t n).hall = s.hall := rfl
@[simp] theorem movePin_ports (s : State) (t n : Nat) : (s.movePin t n).ports = s.ports := rfl
@[simp] theorem movePin_pipes (s : State) (t n : Nat) : (s.movePin t n).pipes = s.pipes := rfl
@[simp] theorem movePin_joins (s : State) (t n : Nat) : (s.movePin t n).joins = s.joins := rfl
@[simp] theorem movePin_planner (s : State) (t n : Nat) : (s.movePin t n).planner = s.planner := rfl
@[simp] theorem movePin_link (s : State) (t n : Nat) : (s.movePin t n).link = s.link := rfl
@[simp] theorem movePin_stations (s : State) (t n : Nat) : (s.movePin t n).stations = s.stations := rfl
@[simp] theorem movePin_thermal (s : State) (t n : Nat) : (s.movePin t n).thermal = s.thermal := rfl
@[simp] theorem movePin_pio (s : State) (t n : Nat) :
    (s.movePin t n).pio =
      { s.pio with moves := s.pio.moves ++ [(t + 4, n, if bitN s.pio.dirs n then some (bitN s.pio.levels n) else none)] } := rfl
@[simp] theorem movePin_usher (s : State) (t n : Nat) : (s.movePin t n).usher = s.usher := rfl
@[simp] theorem movePin_store (s : State) (t n : Nat) : (s.movePin t n).store = s.store := rfl
@[simp] theorem movePin_storeBad (s : State) (t n : Nat) : (s.movePin t n).storeBad = s.storeBad := rfl
@[simp] theorem movePin_archive (s : State) (t n : Nat) : (s.movePin t n).archive = s.archive := rfl
@[simp] theorem movePin_archiveBad (s : State) (t n : Nat) : (s.movePin t n).archiveBad = s.archiveBad := rfl
@[simp] theorem movePin_wear (s : State) (t n : Nat) : (s.movePin t n).wear = s.wear := rfl
@[simp] theorem movePin_rollback (s : State) (t n : Nat) : (s.movePin t n).rollback = s.rollback := rfl
@[simp] theorem movePin_g (s : State) (t n : Nat) (e : Fld) : (s.movePin t n).g e = s.g e := rfl
@[simp] theorem movePin_ctr (s : State) (t n : Nat) (e : Ctr) : (s.movePin t n).ctr e = s.ctr e := rfl
@[simp] theorem movePin_time (s : State) (t n : Nat) : (s.movePin t n).time = s.time := rfl

@[simp] theorem writeFlags_pending (s : State) (t : Nat) (set : Bool) (mask : Nat) :
    (s.writeFlags t set mask).pending = s.pending := rfl
@[simp] theorem writeFlags_agenda (s : State) (t : Nat) (set : Bool) (mask : Nat) :
    (s.writeFlags t set mask).agenda = s.agenda := rfl
@[simp] theorem writeFlags_now (s : State) (t : Nat) (set : Bool) (mask : Nat) :
    (s.writeFlags t set mask).now = s.now := rfl
@[simp] theorem writeFlags_freeCount (s : State) (t : Nat) (set : Bool) (mask : Nat) :
    (s.writeFlags t set mask).freeCount = s.freeCount := rfl
@[simp] theorem writeFlags_regs (s : State) (t : Nat) (set : Bool) (mask : Nat) :
    (s.writeFlags t set mask).regs = s.regs := rfl
@[simp] theorem writeFlags_eff (s : State) (t : Nat) (set : Bool) (mask : Nat) :
    (s.writeFlags t set mask).eff = s.eff := rfl
@[simp] theorem writeFlags_late (s : State) (t : Nat) (set : Bool) (mask : Nat) :
    (s.writeFlags t set mask).late = s.late := rfl
@[simp] theorem writeFlags_moment (s : State) (t : Nat) (set : Bool) (mask : Nat) :
    (s.writeFlags t set mask).moment = s.moment := rfl
@[simp] theorem writeFlags_newel (s : State) (t : Nat) (set : Bool) (mask : Nat) :
    (s.writeFlags t set mask).newel = s.newel := rfl
@[simp] theorem writeFlags_boot (s : State) (t : Nat) (set : Bool) (mask : Nat) :
    (s.writeFlags t set mask).boot = s.boot := rfl
@[simp] theorem writeFlags_stair (s : State) (t : Nat) (set : Bool) (mask : Nat) :
    (s.writeFlags t set mask).stair = s.stair := rfl
@[simp] theorem writeFlags_pcie (s : State) (t : Nat) (set : Bool) (mask : Nat) :
    (s.writeFlags t set mask).pcie = s.pcie := rfl
@[simp] theorem writeFlags_strobes (s : State) (t : Nat) (set : Bool) (mask : Nat) :
    (s.writeFlags t set mask).strobes = s.strobes := rfl
@[simp] theorem writeFlags_isets (s : State) (t : Nat) (set : Bool) (mask : Nat) :
    (s.writeFlags t set mask).isets = s.isets := rfl
@[simp] theorem writeFlags_mons (s : State) (t : Nat) (set : Bool) (mask : Nat) :
    (s.writeFlags t set mask).mons = s.mons := rfl
@[simp] theorem writeFlags_stream (s : State) (t : Nat) (set : Bool) (mask : Nat) :
    (s.writeFlags t set mask).stream = s.stream := rfl
@[simp] theorem writeFlags_cams (s : State) (t : Nat) (set : Bool) (mask : Nat) :
    (s.writeFlags t set mask).cams = s.cams := rfl
@[simp] theorem writeFlags_placed (s : State) (t : Nat) (set : Bool) (mask : Nat) :
    (s.writeFlags t set mask).placed = s.placed := rfl
@[simp] theorem writeFlags_notices (s : State) (t : Nat) (set : Bool) (mask : Nat) :
    (s.writeFlags t set mask).notices = s.notices := rfl
@[simp] theorem writeFlags_hall (s : State) (t : Nat) (set : Bool) (mask : Nat) :
    (s.writeFlags t set mask).hall = s.hall := rfl
@[simp] theorem writeFlags_ports (s : State) (t : Nat) (set : Bool) (mask : Nat) :
    (s.writeFlags t set mask).ports = s.ports := rfl
@[simp] theorem writeFlags_pipes (s : State) (t : Nat) (set : Bool) (mask : Nat) :
    (s.writeFlags t set mask).pipes = s.pipes := rfl
@[simp] theorem writeFlags_joins (s : State) (t : Nat) (set : Bool) (mask : Nat) :
    (s.writeFlags t set mask).joins = s.joins := rfl
@[simp] theorem writeFlags_planner (s : State) (t : Nat) (set : Bool) (mask : Nat) :
    (s.writeFlags t set mask).planner = s.planner := rfl
@[simp] theorem writeFlags_link (s : State) (t : Nat) (set : Bool) (mask : Nat) :
    (s.writeFlags t set mask).link = s.link := rfl
@[simp] theorem writeFlags_stations (s : State) (t : Nat) (set : Bool) (mask : Nat) :
    (s.writeFlags t set mask).stations = s.stations := rfl
@[simp] theorem writeFlags_thermal (s : State) (t : Nat) (set : Bool) (mask : Nat) :
    (s.writeFlags t set mask).thermal = s.thermal := rfl
@[simp] theorem writeFlags_pio (s : State) (t : Nat) (set : Bool) (mask : Nat) :
    (s.writeFlags t set mask).pio = { s.pio with flagWrites := s.pio.flagWrites ++ [(t, set, mask % 2 ^ 32)] } := rfl
@[simp] theorem writeFlags_usher (s : State) (t : Nat) (set : Bool) (mask : Nat) :
    (s.writeFlags t set mask).usher = s.usher := rfl
@[simp] theorem writeFlags_store (s : State) (t : Nat) (set : Bool) (mask : Nat) :
    (s.writeFlags t set mask).store = s.store := rfl
@[simp] theorem writeFlags_storeBad (s : State) (t : Nat) (set : Bool) (mask : Nat) :
    (s.writeFlags t set mask).storeBad = s.storeBad := rfl
@[simp] theorem writeFlags_archive (s : State) (t : Nat) (set : Bool) (mask : Nat) :
    (s.writeFlags t set mask).archive = s.archive := rfl
@[simp] theorem writeFlags_archiveBad (s : State) (t : Nat) (set : Bool) (mask : Nat) :
    (s.writeFlags t set mask).archiveBad = s.archiveBad := rfl
@[simp] theorem writeFlags_wear (s : State) (t : Nat) (set : Bool) (mask : Nat) :
    (s.writeFlags t set mask).wear = s.wear := rfl
@[simp] theorem writeFlags_rollback (s : State) (t : Nat) (set : Bool) (mask : Nat) :
    (s.writeFlags t set mask).rollback = s.rollback := rfl
@[simp] theorem writeFlags_g (s : State) (t : Nat) (set : Bool) (mask : Nat) (e : Fld) : (s.writeFlags t set mask).g e = s.g e := rfl
@[simp] theorem writeFlags_ctr (s : State) (t : Nat) (set : Bool) (mask : Nat) (e : Ctr) : (s.writeFlags t set mask).ctr e = s.ctr e := rfl
@[simp] theorem writeFlags_time (s : State) (t : Nat) (set : Bool) (mask : Nat) : (s.writeFlags t set mask).time = s.time := rfl

@[simp] theorem storeWrite_pending (s : State) (a : Nat) (bs : List Byte) : (s.storeWrite a bs).pending = s.pending := rfl
@[simp] theorem storeWrite_agenda (s : State) (a : Nat) (bs : List Byte) : (s.storeWrite a bs).agenda = s.agenda := rfl
@[simp] theorem storeWrite_now (s : State) (a : Nat) (bs : List Byte) : (s.storeWrite a bs).now = s.now := rfl
@[simp] theorem storeWrite_freeCount (s : State) (a : Nat) (bs : List Byte) : (s.storeWrite a bs).freeCount = s.freeCount := rfl
@[simp] theorem storeWrite_regs (s : State) (a : Nat) (bs : List Byte) : (s.storeWrite a bs).regs = s.regs := rfl
@[simp] theorem storeWrite_eff (s : State) (a : Nat) (bs : List Byte) : (s.storeWrite a bs).eff = s.eff := rfl
@[simp] theorem storeWrite_late (s : State) (a : Nat) (bs : List Byte) : (s.storeWrite a bs).late = s.late := rfl
@[simp] theorem storeWrite_moment (s : State) (a : Nat) (bs : List Byte) : (s.storeWrite a bs).moment = s.moment := rfl
@[simp] theorem storeWrite_newel (s : State) (a : Nat) (bs : List Byte) : (s.storeWrite a bs).newel = s.newel := rfl
@[simp] theorem storeWrite_boot (s : State) (a : Nat) (bs : List Byte) : (s.storeWrite a bs).boot = s.boot := rfl
@[simp] theorem storeWrite_stair (s : State) (a : Nat) (bs : List Byte) : (s.storeWrite a bs).stair = s.stair := rfl
@[simp] theorem storeWrite_pcie (s : State) (a : Nat) (bs : List Byte) : (s.storeWrite a bs).pcie = s.pcie := rfl
@[simp] theorem storeWrite_strobes (s : State) (a : Nat) (bs : List Byte) : (s.storeWrite a bs).strobes = s.strobes := rfl
@[simp] theorem storeWrite_isets (s : State) (a : Nat) (bs : List Byte) : (s.storeWrite a bs).isets = s.isets := rfl
@[simp] theorem storeWrite_mons (s : State) (a : Nat) (bs : List Byte) : (s.storeWrite a bs).mons = s.mons := rfl
@[simp] theorem storeWrite_stream (s : State) (a : Nat) (bs : List Byte) : (s.storeWrite a bs).stream = s.stream := rfl
@[simp] theorem storeWrite_cams (s : State) (a : Nat) (bs : List Byte) : (s.storeWrite a bs).cams = s.cams := rfl
@[simp] theorem storeWrite_placed (s : State) (a : Nat) (bs : List Byte) : (s.storeWrite a bs).placed = s.placed := rfl
@[simp] theorem storeWrite_notices (s : State) (a : Nat) (bs : List Byte) : (s.storeWrite a bs).notices = s.notices := rfl
@[simp] theorem storeWrite_hall (s : State) (a : Nat) (bs : List Byte) : (s.storeWrite a bs).hall = s.hall := rfl
@[simp] theorem storeWrite_ports (s : State) (a : Nat) (bs : List Byte) : (s.storeWrite a bs).ports = s.ports := rfl
@[simp] theorem storeWrite_pipes (s : State) (a : Nat) (bs : List Byte) : (s.storeWrite a bs).pipes = s.pipes := rfl
@[simp] theorem storeWrite_joins (s : State) (a : Nat) (bs : List Byte) : (s.storeWrite a bs).joins = s.joins := rfl
@[simp] theorem storeWrite_planner (s : State) (a : Nat) (bs : List Byte) : (s.storeWrite a bs).planner = s.planner := rfl
@[simp] theorem storeWrite_link (s : State) (a : Nat) (bs : List Byte) : (s.storeWrite a bs).link = s.link := rfl
@[simp] theorem storeWrite_stations (s : State) (a : Nat) (bs : List Byte) : (s.storeWrite a bs).stations = s.stations := rfl
@[simp] theorem storeWrite_thermal (s : State) (a : Nat) (bs : List Byte) : (s.storeWrite a bs).thermal = s.thermal := rfl
@[simp] theorem storeWrite_pio (s : State) (a : Nat) (bs : List Byte) : (s.storeWrite a bs).pio = s.pio := rfl
@[simp] theorem storeWrite_usher (s : State) (a : Nat) (bs : List Byte) : (s.storeWrite a bs).usher = s.usher := rfl
@[simp] theorem storeWrite_store (s : State) (a : Nat) (bs : List Byte) : (s.storeWrite a bs).store = s.store.write a bs := rfl
@[simp] theorem storeWrite_archive (s : State) (a : Nat) (bs : List Byte) : (s.storeWrite a bs).archive = s.archive := rfl
@[simp] theorem storeWrite_archiveBad (s : State) (a : Nat) (bs : List Byte) : (s.storeWrite a bs).archiveBad = s.archiveBad := rfl
@[simp] theorem storeWrite_wear (s : State) (a : Nat) (bs : List Byte) : (s.storeWrite a bs).wear = s.wear := rfl
@[simp] theorem storeWrite_rollback (s : State) (a : Nat) (bs : List Byte) : (s.storeWrite a bs).rollback = s.rollback := rfl
@[simp] theorem storeWrite_g (s : State) (a : Nat) (bs : List Byte) (g : Fld) : (s.storeWrite a bs).g g = s.g g := rfl
@[simp] theorem storeWrite_ctr (s : State) (a : Nat) (bs : List Byte) (g : Ctr) : (s.storeWrite a bs).ctr g = s.ctr g := rfl
@[simp] theorem storeWrite_time (s : State) (a : Nat) (bs : List Byte) : (s.storeWrite a bs).time = s.time := rfl

@[simp] theorem modNewel_pending (s : State) (f : Newel → Newel) : (s.modNewel f).pending = s.pending := rfl
@[simp] theorem modNewel_agenda (s : State) (f : Newel → Newel) : (s.modNewel f).agenda = s.agenda := rfl
@[simp] theorem modNewel_now (s : State) (f : Newel → Newel) : (s.modNewel f).now = s.now := rfl
@[simp] theorem modNewel_freeCount (s : State) (f : Newel → Newel) : (s.modNewel f).freeCount = s.freeCount := rfl
@[simp] theorem modNewel_regs (s : State) (f : Newel → Newel) : (s.modNewel f).regs = s.regs := rfl
@[simp] theorem modNewel_eff (s : State) (f : Newel → Newel) : (s.modNewel f).eff = s.eff := rfl
@[simp] theorem modNewel_late (s : State) (f : Newel → Newel) : (s.modNewel f).late = s.late := rfl
@[simp] theorem modNewel_moment (s : State) (f : Newel → Newel) : (s.modNewel f).moment = s.moment := rfl
@[simp] theorem modNewel_newel (s : State) (f : Newel → Newel) : (s.modNewel f).newel = f s.newel := rfl
@[simp] theorem modNewel_boot (s : State) (f : Newel → Newel) : (s.modNewel f).boot = s.boot := rfl
@[simp] theorem modNewel_stair (s : State) (f : Newel → Newel) : (s.modNewel f).stair = s.stair := rfl
@[simp] theorem modNewel_pcie (s : State) (f : Newel → Newel) : (s.modNewel f).pcie = s.pcie := rfl
@[simp] theorem modNewel_strobes (s : State) (f : Newel → Newel) : (s.modNewel f).strobes = s.strobes := rfl
@[simp] theorem modNewel_isets (s : State) (f : Newel → Newel) : (s.modNewel f).isets = s.isets := rfl
@[simp] theorem modNewel_mons (s : State) (f : Newel → Newel) : (s.modNewel f).mons = s.mons := rfl
@[simp] theorem modNewel_stream (s : State) (f : Newel → Newel) : (s.modNewel f).stream = s.stream := rfl
@[simp] theorem modNewel_cams (s : State) (f : Newel → Newel) : (s.modNewel f).cams = s.cams := rfl
@[simp] theorem modNewel_placed (s : State) (f : Newel → Newel) : (s.modNewel f).placed = s.placed := rfl
@[simp] theorem modNewel_notices (s : State) (f : Newel → Newel) : (s.modNewel f).notices = s.notices := rfl
@[simp] theorem modNewel_hall (s : State) (f : Newel → Newel) : (s.modNewel f).hall = s.hall := rfl
@[simp] theorem modNewel_ports (s : State) (f : Newel → Newel) : (s.modNewel f).ports = s.ports := rfl
@[simp] theorem modNewel_pipes (s : State) (f : Newel → Newel) : (s.modNewel f).pipes = s.pipes := rfl
@[simp] theorem modNewel_joins (s : State) (f : Newel → Newel) : (s.modNewel f).joins = s.joins := rfl
@[simp] theorem modNewel_planner (s : State) (f : Newel → Newel) : (s.modNewel f).planner = s.planner := rfl
@[simp] theorem modNewel_link (s : State) (f : Newel → Newel) : (s.modNewel f).link = s.link := rfl
@[simp] theorem modNewel_stations (s : State) (f : Newel → Newel) : (s.modNewel f).stations = s.stations := rfl
@[simp] theorem modNewel_thermal (s : State) (f : Newel → Newel) : (s.modNewel f).thermal = s.thermal := rfl
@[simp] theorem modNewel_pio (s : State) (f : Newel → Newel) : (s.modNewel f).pio = s.pio := rfl
@[simp] theorem modNewel_usher (s : State) (f : Newel → Newel) : (s.modNewel f).usher = s.usher := rfl
@[simp] theorem modNewel_store (s : State) (f : Newel → Newel) : (s.modNewel f).store = s.store := rfl
@[simp] theorem modNewel_storeBad (s : State) (f : Newel → Newel) : (s.modNewel f).storeBad = s.storeBad := rfl
@[simp] theorem modNewel_archive (s : State) (f : Newel → Newel) : (s.modNewel f).archive = s.archive := rfl
@[simp] theorem modNewel_archiveBad (s : State) (f : Newel → Newel) : (s.modNewel f).archiveBad = s.archiveBad := rfl
@[simp] theorem modNewel_wear (s : State) (f : Newel → Newel) : (s.modNewel f).wear = s.wear := rfl
@[simp] theorem modNewel_rollback (s : State) (f : Newel → Newel) : (s.modNewel f).rollback = s.rollback := rfl
@[simp] theorem modNewel_g (s : State) (f : Newel → Newel) (g : Fld) : (s.modNewel f).g g = s.g g := rfl
@[simp] theorem modNewel_ctr (s : State) (f : Newel → Newel) (g : Ctr) : (s.modNewel f).ctr g = s.ctr g := rfl

@[simp] theorem modBoot_pending (s : State) (f : Boot → Boot) : (s.modBoot f).pending = s.pending := rfl
@[simp] theorem modBoot_agenda (s : State) (f : Boot → Boot) : (s.modBoot f).agenda = s.agenda := rfl
@[simp] theorem modBoot_now (s : State) (f : Boot → Boot) : (s.modBoot f).now = s.now := rfl
@[simp] theorem modBoot_freeCount (s : State) (f : Boot → Boot) : (s.modBoot f).freeCount = s.freeCount := rfl
@[simp] theorem modBoot_regs (s : State) (f : Boot → Boot) : (s.modBoot f).regs = s.regs := rfl
@[simp] theorem modBoot_eff (s : State) (f : Boot → Boot) : (s.modBoot f).eff = s.eff := rfl
@[simp] theorem modBoot_late (s : State) (f : Boot → Boot) : (s.modBoot f).late = s.late := rfl
@[simp] theorem modBoot_moment (s : State) (f : Boot → Boot) : (s.modBoot f).moment = s.moment := rfl
@[simp] theorem modBoot_newel (s : State) (f : Boot → Boot) : (s.modBoot f).newel = s.newel := rfl
@[simp] theorem modBoot_boot (s : State) (f : Boot → Boot) : (s.modBoot f).boot = f s.boot := rfl
@[simp] theorem modBoot_stair (s : State) (f : Boot → Boot) : (s.modBoot f).stair = s.stair := rfl
@[simp] theorem modBoot_pcie (s : State) (f : Boot → Boot) : (s.modBoot f).pcie = s.pcie := rfl
@[simp] theorem modBoot_strobes (s : State) (f : Boot → Boot) : (s.modBoot f).strobes = s.strobes := rfl
@[simp] theorem modBoot_isets (s : State) (f : Boot → Boot) : (s.modBoot f).isets = s.isets := rfl
@[simp] theorem modBoot_mons (s : State) (f : Boot → Boot) : (s.modBoot f).mons = s.mons := rfl
@[simp] theorem modBoot_stream (s : State) (f : Boot → Boot) : (s.modBoot f).stream = s.stream := rfl
@[simp] theorem modBoot_cams (s : State) (f : Boot → Boot) : (s.modBoot f).cams = s.cams := rfl
@[simp] theorem modBoot_placed (s : State) (f : Boot → Boot) : (s.modBoot f).placed = s.placed := rfl
@[simp] theorem modBoot_notices (s : State) (f : Boot → Boot) : (s.modBoot f).notices = s.notices := rfl
@[simp] theorem modBoot_hall (s : State) (f : Boot → Boot) : (s.modBoot f).hall = s.hall := rfl
@[simp] theorem modBoot_ports (s : State) (f : Boot → Boot) : (s.modBoot f).ports = s.ports := rfl
@[simp] theorem modBoot_pipes (s : State) (f : Boot → Boot) : (s.modBoot f).pipes = s.pipes := rfl
@[simp] theorem modBoot_joins (s : State) (f : Boot → Boot) : (s.modBoot f).joins = s.joins := rfl
@[simp] theorem modBoot_planner (s : State) (f : Boot → Boot) : (s.modBoot f).planner = s.planner := rfl
@[simp] theorem modBoot_link (s : State) (f : Boot → Boot) : (s.modBoot f).link = s.link := rfl
@[simp] theorem modBoot_stations (s : State) (f : Boot → Boot) : (s.modBoot f).stations = s.stations := rfl
@[simp] theorem modBoot_thermal (s : State) (f : Boot → Boot) : (s.modBoot f).thermal = s.thermal := rfl
@[simp] theorem modBoot_pio (s : State) (f : Boot → Boot) : (s.modBoot f).pio = s.pio := rfl
@[simp] theorem modBoot_usher (s : State) (f : Boot → Boot) : (s.modBoot f).usher = s.usher := rfl
@[simp] theorem modBoot_store (s : State) (f : Boot → Boot) : (s.modBoot f).store = s.store := rfl
@[simp] theorem modBoot_storeBad (s : State) (f : Boot → Boot) : (s.modBoot f).storeBad = s.storeBad := rfl
@[simp] theorem modBoot_archive (s : State) (f : Boot → Boot) : (s.modBoot f).archive = s.archive := rfl
@[simp] theorem modBoot_archiveBad (s : State) (f : Boot → Boot) : (s.modBoot f).archiveBad = s.archiveBad := rfl
@[simp] theorem modBoot_wear (s : State) (f : Boot → Boot) : (s.modBoot f).wear = s.wear := rfl
@[simp] theorem modBoot_rollback (s : State) (f : Boot → Boot) : (s.modBoot f).rollback = s.rollback := rfl
@[simp] theorem modBoot_g (s : State) (f : Boot → Boot) (g : Fld) : (s.modBoot f).g g = s.g g := rfl
@[simp] theorem modBoot_ctr (s : State) (f : Boot → Boot) (g : Ctr) : (s.modBoot f).ctr g = s.ctr g := rfl
@[simp] theorem modBoot_time (s : State) (f : Boot → Boot) : (s.modBoot f).time = s.time := rfl

@[simp] theorem modStair_pending (s : State) (f : Stair → Stair) : (s.modStair f).pending = s.pending := rfl
@[simp] theorem modStair_agenda (s : State) (f : Stair → Stair) : (s.modStair f).agenda = s.agenda := rfl
@[simp] theorem modStair_now (s : State) (f : Stair → Stair) : (s.modStair f).now = s.now := rfl
@[simp] theorem modStair_freeCount (s : State) (f : Stair → Stair) : (s.modStair f).freeCount = s.freeCount := rfl
@[simp] theorem modStair_regs (s : State) (f : Stair → Stair) : (s.modStair f).regs = s.regs := rfl
@[simp] theorem modStair_eff (s : State) (f : Stair → Stair) : (s.modStair f).eff = s.eff := rfl
@[simp] theorem modStair_late (s : State) (f : Stair → Stair) : (s.modStair f).late = s.late := rfl
@[simp] theorem modStair_moment (s : State) (f : Stair → Stair) : (s.modStair f).moment = s.moment := rfl
@[simp] theorem modStair_newel (s : State) (f : Stair → Stair) : (s.modStair f).newel = s.newel := rfl
@[simp] theorem modStair_boot (s : State) (f : Stair → Stair) : (s.modStair f).boot = s.boot := rfl
@[simp] theorem modStair_stair (s : State) (f : Stair → Stair) : (s.modStair f).stair = f s.stair := rfl
@[simp] theorem modStair_pcie (s : State) (f : Stair → Stair) : (s.modStair f).pcie = s.pcie := rfl
@[simp] theorem modStair_strobes (s : State) (f : Stair → Stair) : (s.modStair f).strobes = s.strobes := rfl
@[simp] theorem modStair_isets (s : State) (f : Stair → Stair) : (s.modStair f).isets = s.isets := rfl
@[simp] theorem modStair_mons (s : State) (f : Stair → Stair) : (s.modStair f).mons = s.mons := rfl
@[simp] theorem modStair_stream (s : State) (f : Stair → Stair) : (s.modStair f).stream = s.stream := rfl
@[simp] theorem modStair_cams (s : State) (f : Stair → Stair) : (s.modStair f).cams = s.cams := rfl
@[simp] theorem modStair_placed (s : State) (f : Stair → Stair) : (s.modStair f).placed = s.placed := rfl
@[simp] theorem modStair_notices (s : State) (f : Stair → Stair) : (s.modStair f).notices = s.notices := rfl
@[simp] theorem modStair_hall (s : State) (f : Stair → Stair) : (s.modStair f).hall = s.hall := rfl
@[simp] theorem modStair_ports (s : State) (f : Stair → Stair) : (s.modStair f).ports = s.ports := rfl
@[simp] theorem modStair_pipes (s : State) (f : Stair → Stair) : (s.modStair f).pipes = s.pipes := rfl
@[simp] theorem modStair_joins (s : State) (f : Stair → Stair) : (s.modStair f).joins = s.joins := rfl
@[simp] theorem modStair_planner (s : State) (f : Stair → Stair) : (s.modStair f).planner = s.planner := rfl
@[simp] theorem modStair_link (s : State) (f : Stair → Stair) : (s.modStair f).link = s.link := rfl
@[simp] theorem modStair_stations (s : State) (f : Stair → Stair) : (s.modStair f).stations = s.stations := rfl
@[simp] theorem modStair_thermal (s : State) (f : Stair → Stair) : (s.modStair f).thermal = s.thermal := rfl
@[simp] theorem modStair_pio (s : State) (f : Stair → Stair) : (s.modStair f).pio = s.pio := rfl
@[simp] theorem modStair_usher (s : State) (f : Stair → Stair) : (s.modStair f).usher = s.usher := rfl
@[simp] theorem modStair_store (s : State) (f : Stair → Stair) : (s.modStair f).store = s.store := rfl
@[simp] theorem modStair_storeBad (s : State) (f : Stair → Stair) : (s.modStair f).storeBad = s.storeBad := rfl
@[simp] theorem modStair_archive (s : State) (f : Stair → Stair) : (s.modStair f).archive = s.archive := rfl
@[simp] theorem modStair_archiveBad (s : State) (f : Stair → Stair) : (s.modStair f).archiveBad = s.archiveBad := rfl
@[simp] theorem modStair_wear (s : State) (f : Stair → Stair) : (s.modStair f).wear = s.wear := rfl
@[simp] theorem modStair_rollback (s : State) (f : Stair → Stair) : (s.modStair f).rollback = s.rollback := rfl
@[simp] theorem modStair_g (s : State) (f : Stair → Stair) (g : Fld) : (s.modStair f).g g = s.g g := rfl
@[simp] theorem modStair_ctr (s : State) (f : Stair → Stair) (g : Ctr) : (s.modStair f).ctr g = s.ctr g := rfl
@[simp] theorem modStair_time (s : State) (f : Stair → Stair) : (s.modStair f).time = s.time := rfl

@[simp] theorem modLink_pending (s : State) (f : Link → Link) : (s.modLink f).pending = s.pending := rfl
@[simp] theorem modLink_agenda (s : State) (f : Link → Link) : (s.modLink f).agenda = s.agenda := rfl
@[simp] theorem modLink_now (s : State) (f : Link → Link) : (s.modLink f).now = s.now := rfl
@[simp] theorem modLink_freeCount (s : State) (f : Link → Link) : (s.modLink f).freeCount = s.freeCount := rfl
@[simp] theorem modLink_regs (s : State) (f : Link → Link) : (s.modLink f).regs = s.regs := rfl
@[simp] theorem modLink_eff (s : State) (f : Link → Link) : (s.modLink f).eff = s.eff := rfl
@[simp] theorem modLink_late (s : State) (f : Link → Link) : (s.modLink f).late = s.late := rfl
@[simp] theorem modLink_moment (s : State) (f : Link → Link) : (s.modLink f).moment = s.moment := rfl
@[simp] theorem modLink_newel (s : State) (f : Link → Link) : (s.modLink f).newel = s.newel := rfl
@[simp] theorem modLink_boot (s : State) (f : Link → Link) : (s.modLink f).boot = s.boot := rfl
@[simp] theorem modLink_stair (s : State) (f : Link → Link) : (s.modLink f).stair = s.stair := rfl
@[simp] theorem modLink_pcie (s : State) (f : Link → Link) : (s.modLink f).pcie = s.pcie := rfl
@[simp] theorem modLink_strobes (s : State) (f : Link → Link) : (s.modLink f).strobes = s.strobes := rfl
@[simp] theorem modLink_isets (s : State) (f : Link → Link) : (s.modLink f).isets = s.isets := rfl
@[simp] theorem modLink_mons (s : State) (f : Link → Link) : (s.modLink f).mons = s.mons := rfl
@[simp] theorem modLink_stream (s : State) (f : Link → Link) : (s.modLink f).stream = s.stream := rfl
@[simp] theorem modLink_cams (s : State) (f : Link → Link) : (s.modLink f).cams = s.cams := rfl
@[simp] theorem modLink_placed (s : State) (f : Link → Link) : (s.modLink f).placed = s.placed := rfl
@[simp] theorem modLink_notices (s : State) (f : Link → Link) : (s.modLink f).notices = s.notices := rfl
@[simp] theorem modLink_hall (s : State) (f : Link → Link) : (s.modLink f).hall = s.hall := rfl
@[simp] theorem modLink_ports (s : State) (f : Link → Link) : (s.modLink f).ports = s.ports := rfl
@[simp] theorem modLink_pipes (s : State) (f : Link → Link) : (s.modLink f).pipes = s.pipes := rfl
@[simp] theorem modLink_joins (s : State) (f : Link → Link) : (s.modLink f).joins = s.joins := rfl
@[simp] theorem modLink_planner (s : State) (f : Link → Link) : (s.modLink f).planner = s.planner := rfl
@[simp] theorem modLink_link (s : State) (f : Link → Link) : (s.modLink f).link = f s.link := rfl
@[simp] theorem modLink_stations (s : State) (f : Link → Link) : (s.modLink f).stations = s.stations := rfl
@[simp] theorem modLink_thermal (s : State) (f : Link → Link) : (s.modLink f).thermal = s.thermal := rfl
@[simp] theorem modLink_pio (s : State) (f : Link → Link) : (s.modLink f).pio = s.pio := rfl
@[simp] theorem modLink_usher (s : State) (f : Link → Link) : (s.modLink f).usher = s.usher := rfl
@[simp] theorem modLink_store (s : State) (f : Link → Link) : (s.modLink f).store = s.store := rfl
@[simp] theorem modLink_storeBad (s : State) (f : Link → Link) : (s.modLink f).storeBad = s.storeBad := rfl
@[simp] theorem modLink_archive (s : State) (f : Link → Link) : (s.modLink f).archive = s.archive := rfl
@[simp] theorem modLink_archiveBad (s : State) (f : Link → Link) : (s.modLink f).archiveBad = s.archiveBad := rfl
@[simp] theorem modLink_wear (s : State) (f : Link → Link) : (s.modLink f).wear = s.wear := rfl
@[simp] theorem modLink_rollback (s : State) (f : Link → Link) : (s.modLink f).rollback = s.rollback := rfl
@[simp] theorem modLink_g (s : State) (f : Link → Link) (g : Fld) : (s.modLink f).g g = s.g g := rfl
@[simp] theorem modLink_ctr (s : State) (f : Link → Link) (g : Ctr) : (s.modLink f).ctr g = s.ctr g := rfl
@[simp] theorem modLink_time (s : State) (f : Link → Link) : (s.modLink f).time = s.time := rfl

@[simp] theorem setCam_pending (s : State) (c : Nat) (x : Camera) : (s.setCam c x).pending = s.pending := rfl
@[simp] theorem setCam_agenda (s : State) (c : Nat) (x : Camera) : (s.setCam c x).agenda = s.agenda := rfl
@[simp] theorem setCam_now (s : State) (c : Nat) (x : Camera) : (s.setCam c x).now = s.now := rfl
@[simp] theorem setCam_freeCount (s : State) (c : Nat) (x : Camera) : (s.setCam c x).freeCount = s.freeCount := rfl
@[simp] theorem setCam_regs (s : State) (c : Nat) (x : Camera) : (s.setCam c x).regs = s.regs := rfl
@[simp] theorem setCam_eff (s : State) (c : Nat) (x : Camera) : (s.setCam c x).eff = s.eff := rfl
@[simp] theorem setCam_late (s : State) (c : Nat) (x : Camera) : (s.setCam c x).late = s.late := rfl
@[simp] theorem setCam_moment (s : State) (c : Nat) (x : Camera) : (s.setCam c x).moment = s.moment := rfl
@[simp] theorem setCam_newel (s : State) (c : Nat) (x : Camera) : (s.setCam c x).newel = s.newel := rfl
@[simp] theorem setCam_boot (s : State) (c : Nat) (x : Camera) : (s.setCam c x).boot = s.boot := rfl
@[simp] theorem setCam_stair (s : State) (c : Nat) (x : Camera) : (s.setCam c x).stair = s.stair := rfl
@[simp] theorem setCam_pcie (s : State) (c : Nat) (x : Camera) : (s.setCam c x).pcie = s.pcie := rfl
@[simp] theorem setCam_strobes (s : State) (c : Nat) (x : Camera) : (s.setCam c x).strobes = s.strobes := rfl
@[simp] theorem setCam_isets (s : State) (c : Nat) (x : Camera) : (s.setCam c x).isets = s.isets := rfl
@[simp] theorem setCam_mons (s : State) (c : Nat) (x : Camera) : (s.setCam c x).mons = s.mons := rfl
@[simp] theorem setCam_stream (s : State) (c : Nat) (x : Camera) : (s.setCam c x).stream = s.stream := rfl
@[simp] theorem setCam_cams (s : State) (c : Nat) (x : Camera) : (s.setCam c x).cams = modNth s.cams c fun _ => x := rfl
@[simp] theorem setCam_placed (s : State) (c : Nat) (x : Camera) : (s.setCam c x).placed = s.placed := rfl
@[simp] theorem setCam_notices (s : State) (c : Nat) (x : Camera) : (s.setCam c x).notices = s.notices := rfl
@[simp] theorem setCam_hall (s : State) (c : Nat) (x : Camera) : (s.setCam c x).hall = s.hall := rfl
@[simp] theorem setCam_ports (s : State) (c : Nat) (x : Camera) : (s.setCam c x).ports = s.ports := rfl
@[simp] theorem setCam_pipes (s : State) (c : Nat) (x : Camera) : (s.setCam c x).pipes = s.pipes := rfl
@[simp] theorem setCam_joins (s : State) (c : Nat) (x : Camera) : (s.setCam c x).joins = s.joins := rfl
@[simp] theorem setCam_planner (s : State) (c : Nat) (x : Camera) : (s.setCam c x).planner = s.planner := rfl
@[simp] theorem setCam_link (s : State) (c : Nat) (x : Camera) : (s.setCam c x).link = s.link := rfl
@[simp] theorem setCam_stations (s : State) (c : Nat) (x : Camera) : (s.setCam c x).stations = s.stations := rfl
@[simp] theorem setCam_thermal (s : State) (c : Nat) (x : Camera) : (s.setCam c x).thermal = s.thermal := rfl
@[simp] theorem setCam_pio (s : State) (c : Nat) (x : Camera) : (s.setCam c x).pio = s.pio := rfl
@[simp] theorem setCam_usher (s : State) (c : Nat) (x : Camera) : (s.setCam c x).usher = s.usher := rfl
@[simp] theorem setCam_store (s : State) (c : Nat) (x : Camera) : (s.setCam c x).store = s.store := rfl
@[simp] theorem setCam_storeBad (s : State) (c : Nat) (x : Camera) : (s.setCam c x).storeBad = s.storeBad := rfl
@[simp] theorem setCam_archive (s : State) (c : Nat) (x : Camera) : (s.setCam c x).archive = s.archive := rfl
@[simp] theorem setCam_archiveBad (s : State) (c : Nat) (x : Camera) : (s.setCam c x).archiveBad = s.archiveBad := rfl
@[simp] theorem setCam_wear (s : State) (c : Nat) (x : Camera) : (s.setCam c x).wear = s.wear := rfl
@[simp] theorem setCam_rollback (s : State) (c : Nat) (x : Camera) : (s.setCam c x).rollback = s.rollback := rfl
@[simp] theorem setCam_g (s : State) (c : Nat) (x : Camera) (g : Fld) : (s.setCam c x).g g = s.g g := rfl
@[simp] theorem setCam_ctr (s : State) (c : Nat) (x : Camera) (g : Ctr) : (s.setCam c x).ctr g = s.ctr g := rfl
@[simp] theorem setCam_time (s : State) (c : Nat) (x : Camera) : (s.setCam c x).time = s.time := rfl

@[simp] theorem setStation_pending (s : State) (c : Nat) (x : Station) : (s.setStation c x).pending = s.pending := rfl
@[simp] theorem setStation_agenda (s : State) (c : Nat) (x : Station) : (s.setStation c x).agenda = s.agenda := rfl
@[simp] theorem setStation_now (s : State) (c : Nat) (x : Station) : (s.setStation c x).now = s.now := rfl
@[simp] theorem setStation_freeCount (s : State) (c : Nat) (x : Station) : (s.setStation c x).freeCount = s.freeCount := rfl
@[simp] theorem setStation_regs (s : State) (c : Nat) (x : Station) : (s.setStation c x).regs = s.regs := rfl
@[simp] theorem setStation_eff (s : State) (c : Nat) (x : Station) : (s.setStation c x).eff = s.eff := rfl
@[simp] theorem setStation_late (s : State) (c : Nat) (x : Station) : (s.setStation c x).late = s.late := rfl
@[simp] theorem setStation_moment (s : State) (c : Nat) (x : Station) : (s.setStation c x).moment = s.moment := rfl
@[simp] theorem setStation_newel (s : State) (c : Nat) (x : Station) : (s.setStation c x).newel = s.newel := rfl
@[simp] theorem setStation_boot (s : State) (c : Nat) (x : Station) : (s.setStation c x).boot = s.boot := rfl
@[simp] theorem setStation_stair (s : State) (c : Nat) (x : Station) : (s.setStation c x).stair = s.stair := rfl
@[simp] theorem setStation_pcie (s : State) (c : Nat) (x : Station) : (s.setStation c x).pcie = s.pcie := rfl
@[simp] theorem setStation_strobes (s : State) (c : Nat) (x : Station) : (s.setStation c x).strobes = s.strobes := rfl
@[simp] theorem setStation_isets (s : State) (c : Nat) (x : Station) : (s.setStation c x).isets = s.isets := rfl
@[simp] theorem setStation_mons (s : State) (c : Nat) (x : Station) : (s.setStation c x).mons = s.mons := rfl
@[simp] theorem setStation_stream (s : State) (c : Nat) (x : Station) : (s.setStation c x).stream = s.stream := rfl
@[simp] theorem setStation_cams (s : State) (c : Nat) (x : Station) : (s.setStation c x).cams = s.cams := rfl
@[simp] theorem setStation_placed (s : State) (c : Nat) (x : Station) : (s.setStation c x).placed = s.placed := rfl
@[simp] theorem setStation_notices (s : State) (c : Nat) (x : Station) : (s.setStation c x).notices = s.notices := rfl
@[simp] theorem setStation_hall (s : State) (c : Nat) (x : Station) : (s.setStation c x).hall = s.hall := rfl
@[simp] theorem setStation_ports (s : State) (c : Nat) (x : Station) : (s.setStation c x).ports = s.ports := rfl
@[simp] theorem setStation_pipes (s : State) (c : Nat) (x : Station) : (s.setStation c x).pipes = s.pipes := rfl
@[simp] theorem setStation_joins (s : State) (c : Nat) (x : Station) : (s.setStation c x).joins = s.joins := rfl
@[simp] theorem setStation_planner (s : State) (c : Nat) (x : Station) : (s.setStation c x).planner = s.planner := rfl
@[simp] theorem setStation_link (s : State) (c : Nat) (x : Station) : (s.setStation c x).link = s.link := rfl
@[simp] theorem setStation_stations (s : State) (c : Nat) (x : Station) : (s.setStation c x).stations = modNth s.stations c fun _ => if x.powered then x.sync else x := rfl
@[simp] theorem setStation_thermal (s : State) (c : Nat) (x : Station) : (s.setStation c x).thermal = s.thermal := rfl
@[simp] theorem setStation_pio (s : State) (c : Nat) (x : Station) : (s.setStation c x).pio = s.pio := rfl
@[simp] theorem setStation_usher (s : State) (c : Nat) (x : Station) : (s.setStation c x).usher = s.usher := rfl
@[simp] theorem setStation_store (s : State) (c : Nat) (x : Station) : (s.setStation c x).store = s.store := rfl
@[simp] theorem setStation_storeBad (s : State) (c : Nat) (x : Station) : (s.setStation c x).storeBad = s.storeBad := rfl
@[simp] theorem setStation_archive (s : State) (c : Nat) (x : Station) : (s.setStation c x).archive = s.archive := rfl
@[simp] theorem setStation_archiveBad (s : State) (c : Nat) (x : Station) : (s.setStation c x).archiveBad = s.archiveBad := rfl
@[simp] theorem setStation_wear (s : State) (c : Nat) (x : Station) : (s.setStation c x).wear = s.wear := rfl
@[simp] theorem setStation_rollback (s : State) (c : Nat) (x : Station) : (s.setStation c x).rollback = s.rollback := rfl
@[simp] theorem setStation_g (s : State) (c : Nat) (x : Station) (g : Fld) : (s.setStation c x).g g = s.g g := rfl
@[simp] theorem setStation_ctr (s : State) (c : Nat) (x : Station) (g : Ctr) : (s.setStation c x).ctr g = s.ctr g := rfl
@[simp] theorem setStation_time (s : State) (c : Nat) (x : Station) : (s.setStation c x).time = s.time := rfl

@[simp] theorem setPipe_pending (s : State) (c : Nat) (x : Pipe) : (s.setPipe c x).pending = s.pending := rfl
@[simp] theorem setPipe_agenda (s : State) (c : Nat) (x : Pipe) : (s.setPipe c x).agenda = s.agenda := rfl
@[simp] theorem setPipe_now (s : State) (c : Nat) (x : Pipe) : (s.setPipe c x).now = s.now := rfl
@[simp] theorem setPipe_freeCount (s : State) (c : Nat) (x : Pipe) : (s.setPipe c x).freeCount = s.freeCount := rfl
@[simp] theorem setPipe_regs (s : State) (c : Nat) (x : Pipe) : (s.setPipe c x).regs = s.regs := rfl
@[simp] theorem setPipe_eff (s : State) (c : Nat) (x : Pipe) : (s.setPipe c x).eff = s.eff := rfl
@[simp] theorem setPipe_late (s : State) (c : Nat) (x : Pipe) : (s.setPipe c x).late = s.late := rfl
@[simp] theorem setPipe_moment (s : State) (c : Nat) (x : Pipe) : (s.setPipe c x).moment = s.moment := rfl
@[simp] theorem setPipe_newel (s : State) (c : Nat) (x : Pipe) : (s.setPipe c x).newel = s.newel := rfl
@[simp] theorem setPipe_boot (s : State) (c : Nat) (x : Pipe) : (s.setPipe c x).boot = s.boot := rfl
@[simp] theorem setPipe_stair (s : State) (c : Nat) (x : Pipe) : (s.setPipe c x).stair = s.stair := rfl
@[simp] theorem setPipe_pcie (s : State) (c : Nat) (x : Pipe) : (s.setPipe c x).pcie = s.pcie := rfl
@[simp] theorem setPipe_strobes (s : State) (c : Nat) (x : Pipe) : (s.setPipe c x).strobes = s.strobes := rfl
@[simp] theorem setPipe_isets (s : State) (c : Nat) (x : Pipe) : (s.setPipe c x).isets = s.isets := rfl
@[simp] theorem setPipe_mons (s : State) (c : Nat) (x : Pipe) : (s.setPipe c x).mons = s.mons := rfl
@[simp] theorem setPipe_stream (s : State) (c : Nat) (x : Pipe) : (s.setPipe c x).stream = s.stream := rfl
@[simp] theorem setPipe_cams (s : State) (c : Nat) (x : Pipe) : (s.setPipe c x).cams = s.cams := rfl
@[simp] theorem setPipe_placed (s : State) (c : Nat) (x : Pipe) : (s.setPipe c x).placed = s.placed := rfl
@[simp] theorem setPipe_notices (s : State) (c : Nat) (x : Pipe) : (s.setPipe c x).notices = s.notices := rfl
@[simp] theorem setPipe_hall (s : State) (c : Nat) (x : Pipe) : (s.setPipe c x).hall = s.hall := rfl
@[simp] theorem setPipe_ports (s : State) (c : Nat) (x : Pipe) : (s.setPipe c x).ports = s.ports := rfl
@[simp] theorem setPipe_pipes (s : State) (c : Nat) (x : Pipe) : (s.setPipe c x).pipes = modNth s.pipes c fun _ => x := rfl
@[simp] theorem setPipe_joins (s : State) (c : Nat) (x : Pipe) : (s.setPipe c x).joins = s.joins := rfl
@[simp] theorem setPipe_planner (s : State) (c : Nat) (x : Pipe) : (s.setPipe c x).planner = s.planner := rfl
@[simp] theorem setPipe_link (s : State) (c : Nat) (x : Pipe) : (s.setPipe c x).link = s.link := rfl
@[simp] theorem setPipe_stations (s : State) (c : Nat) (x : Pipe) : (s.setPipe c x).stations = s.stations := rfl
@[simp] theorem setPipe_thermal (s : State) (c : Nat) (x : Pipe) : (s.setPipe c x).thermal = s.thermal := rfl
@[simp] theorem setPipe_pio (s : State) (c : Nat) (x : Pipe) : (s.setPipe c x).pio = s.pio := rfl
@[simp] theorem setPipe_usher (s : State) (c : Nat) (x : Pipe) : (s.setPipe c x).usher = s.usher := rfl
@[simp] theorem setPipe_store (s : State) (c : Nat) (x : Pipe) : (s.setPipe c x).store = s.store := rfl
@[simp] theorem setPipe_storeBad (s : State) (c : Nat) (x : Pipe) : (s.setPipe c x).storeBad = s.storeBad := rfl
@[simp] theorem setPipe_archive (s : State) (c : Nat) (x : Pipe) : (s.setPipe c x).archive = s.archive := rfl
@[simp] theorem setPipe_archiveBad (s : State) (c : Nat) (x : Pipe) : (s.setPipe c x).archiveBad = s.archiveBad := rfl
@[simp] theorem setPipe_wear (s : State) (c : Nat) (x : Pipe) : (s.setPipe c x).wear = s.wear := rfl
@[simp] theorem setPipe_rollback (s : State) (c : Nat) (x : Pipe) : (s.setPipe c x).rollback = s.rollback := rfl
@[simp] theorem setPipe_g (s : State) (c : Nat) (x : Pipe) (g : Fld) : (s.setPipe c x).g g = s.g g := rfl
@[simp] theorem setPipe_ctr (s : State) (c : Nat) (x : Pipe) (g : Ctr) : (s.setPipe c x).ctr g = s.ctr g := rfl
@[simp] theorem setPipe_time (s : State) (c : Nat) (x : Pipe) : (s.setPipe c x).time = s.time := rfl

@[simp] theorem setJoin_pending (s : State) (c : Nat) (x : Join) : (s.setJoin c x).pending = s.pending := rfl
@[simp] theorem setJoin_agenda (s : State) (c : Nat) (x : Join) : (s.setJoin c x).agenda = s.agenda := rfl
@[simp] theorem setJoin_now (s : State) (c : Nat) (x : Join) : (s.setJoin c x).now = s.now := rfl
@[simp] theorem setJoin_freeCount (s : State) (c : Nat) (x : Join) : (s.setJoin c x).freeCount = s.freeCount := rfl
@[simp] theorem setJoin_regs (s : State) (c : Nat) (x : Join) : (s.setJoin c x).regs = s.regs := rfl
@[simp] theorem setJoin_eff (s : State) (c : Nat) (x : Join) : (s.setJoin c x).eff = s.eff := rfl
@[simp] theorem setJoin_late (s : State) (c : Nat) (x : Join) : (s.setJoin c x).late = s.late := rfl
@[simp] theorem setJoin_moment (s : State) (c : Nat) (x : Join) : (s.setJoin c x).moment = s.moment := rfl
@[simp] theorem setJoin_newel (s : State) (c : Nat) (x : Join) : (s.setJoin c x).newel = s.newel := rfl
@[simp] theorem setJoin_boot (s : State) (c : Nat) (x : Join) : (s.setJoin c x).boot = s.boot := rfl
@[simp] theorem setJoin_stair (s : State) (c : Nat) (x : Join) : (s.setJoin c x).stair = s.stair := rfl
@[simp] theorem setJoin_pcie (s : State) (c : Nat) (x : Join) : (s.setJoin c x).pcie = s.pcie := rfl
@[simp] theorem setJoin_strobes (s : State) (c : Nat) (x : Join) : (s.setJoin c x).strobes = s.strobes := rfl
@[simp] theorem setJoin_isets (s : State) (c : Nat) (x : Join) : (s.setJoin c x).isets = s.isets := rfl
@[simp] theorem setJoin_mons (s : State) (c : Nat) (x : Join) : (s.setJoin c x).mons = s.mons := rfl
@[simp] theorem setJoin_stream (s : State) (c : Nat) (x : Join) : (s.setJoin c x).stream = s.stream := rfl
@[simp] theorem setJoin_cams (s : State) (c : Nat) (x : Join) : (s.setJoin c x).cams = s.cams := rfl
@[simp] theorem setJoin_placed (s : State) (c : Nat) (x : Join) : (s.setJoin c x).placed = s.placed := rfl
@[simp] theorem setJoin_notices (s : State) (c : Nat) (x : Join) : (s.setJoin c x).notices = s.notices := rfl
@[simp] theorem setJoin_hall (s : State) (c : Nat) (x : Join) : (s.setJoin c x).hall = s.hall := rfl
@[simp] theorem setJoin_ports (s : State) (c : Nat) (x : Join) : (s.setJoin c x).ports = s.ports := rfl
@[simp] theorem setJoin_pipes (s : State) (c : Nat) (x : Join) : (s.setJoin c x).pipes = s.pipes := rfl
@[simp] theorem setJoin_joins (s : State) (c : Nat) (x : Join) : (s.setJoin c x).joins = modNth s.joins c fun _ => x := rfl
@[simp] theorem setJoin_planner (s : State) (c : Nat) (x : Join) : (s.setJoin c x).planner = s.planner := rfl
@[simp] theorem setJoin_link (s : State) (c : Nat) (x : Join) : (s.setJoin c x).link = s.link := rfl
@[simp] theorem setJoin_stations (s : State) (c : Nat) (x : Join) : (s.setJoin c x).stations = s.stations := rfl
@[simp] theorem setJoin_thermal (s : State) (c : Nat) (x : Join) : (s.setJoin c x).thermal = s.thermal := rfl
@[simp] theorem setJoin_pio (s : State) (c : Nat) (x : Join) : (s.setJoin c x).pio = s.pio := rfl
@[simp] theorem setJoin_usher (s : State) (c : Nat) (x : Join) : (s.setJoin c x).usher = s.usher := rfl
@[simp] theorem setJoin_store (s : State) (c : Nat) (x : Join) : (s.setJoin c x).store = s.store := rfl
@[simp] theorem setJoin_storeBad (s : State) (c : Nat) (x : Join) : (s.setJoin c x).storeBad = s.storeBad := rfl
@[simp] theorem setJoin_archive (s : State) (c : Nat) (x : Join) : (s.setJoin c x).archive = s.archive := rfl
@[simp] theorem setJoin_archiveBad (s : State) (c : Nat) (x : Join) : (s.setJoin c x).archiveBad = s.archiveBad := rfl
@[simp] theorem setJoin_wear (s : State) (c : Nat) (x : Join) : (s.setJoin c x).wear = s.wear := rfl
@[simp] theorem setJoin_rollback (s : State) (c : Nat) (x : Join) : (s.setJoin c x).rollback = s.rollback := rfl
@[simp] theorem setJoin_g (s : State) (c : Nat) (x : Join) (g : Fld) : (s.setJoin c x).g g = s.g g := rfl
@[simp] theorem setJoin_ctr (s : State) (c : Nat) (x : Join) (g : Ctr) : (s.setJoin c x).ctr g = s.ctr g := rfl
@[simp] theorem setJoin_time (s : State) (c : Nat) (x : Join) : (s.setJoin c x).time = s.time := rfl

@[simp] theorem setStrobe_pending (s : State) (c : Nat) (x : Strobe) : (s.setStrobe c x).pending = s.pending := rfl
@[simp] theorem setStrobe_agenda (s : State) (c : Nat) (x : Strobe) : (s.setStrobe c x).agenda = s.agenda := rfl
@[simp] theorem setStrobe_now (s : State) (c : Nat) (x : Strobe) : (s.setStrobe c x).now = s.now := rfl
@[simp] theorem setStrobe_freeCount (s : State) (c : Nat) (x : Strobe) : (s.setStrobe c x).freeCount = s.freeCount := rfl
@[simp] theorem setStrobe_regs (s : State) (c : Nat) (x : Strobe) : (s.setStrobe c x).regs = s.regs := rfl
@[simp] theorem setStrobe_eff (s : State) (c : Nat) (x : Strobe) : (s.setStrobe c x).eff = s.eff := rfl
@[simp] theorem setStrobe_late (s : State) (c : Nat) (x : Strobe) : (s.setStrobe c x).late = s.late := rfl
@[simp] theorem setStrobe_moment (s : State) (c : Nat) (x : Strobe) : (s.setStrobe c x).moment = s.moment := rfl
@[simp] theorem setStrobe_newel (s : State) (c : Nat) (x : Strobe) : (s.setStrobe c x).newel = s.newel := rfl
@[simp] theorem setStrobe_boot (s : State) (c : Nat) (x : Strobe) : (s.setStrobe c x).boot = s.boot := rfl
@[simp] theorem setStrobe_stair (s : State) (c : Nat) (x : Strobe) : (s.setStrobe c x).stair = s.stair := rfl
@[simp] theorem setStrobe_pcie (s : State) (c : Nat) (x : Strobe) : (s.setStrobe c x).pcie = s.pcie := rfl
@[simp] theorem setStrobe_strobes (s : State) (c : Nat) (x : Strobe) : (s.setStrobe c x).strobes = modNth s.strobes c fun _ => x := rfl
@[simp] theorem setStrobe_isets (s : State) (c : Nat) (x : Strobe) : (s.setStrobe c x).isets = s.isets := rfl
@[simp] theorem setStrobe_mons (s : State) (c : Nat) (x : Strobe) : (s.setStrobe c x).mons = s.mons := rfl
@[simp] theorem setStrobe_stream (s : State) (c : Nat) (x : Strobe) : (s.setStrobe c x).stream = s.stream := rfl
@[simp] theorem setStrobe_cams (s : State) (c : Nat) (x : Strobe) : (s.setStrobe c x).cams = s.cams := rfl
@[simp] theorem setStrobe_placed (s : State) (c : Nat) (x : Strobe) : (s.setStrobe c x).placed = s.placed := rfl
@[simp] theorem setStrobe_notices (s : State) (c : Nat) (x : Strobe) : (s.setStrobe c x).notices = s.notices := rfl
@[simp] theorem setStrobe_hall (s : State) (c : Nat) (x : Strobe) : (s.setStrobe c x).hall = s.hall := rfl
@[simp] theorem setStrobe_ports (s : State) (c : Nat) (x : Strobe) : (s.setStrobe c x).ports = s.ports := rfl
@[simp] theorem setStrobe_pipes (s : State) (c : Nat) (x : Strobe) : (s.setStrobe c x).pipes = s.pipes := rfl
@[simp] theorem setStrobe_joins (s : State) (c : Nat) (x : Strobe) : (s.setStrobe c x).joins = s.joins := rfl
@[simp] theorem setStrobe_planner (s : State) (c : Nat) (x : Strobe) : (s.setStrobe c x).planner = s.planner := rfl
@[simp] theorem setStrobe_link (s : State) (c : Nat) (x : Strobe) : (s.setStrobe c x).link = s.link := rfl
@[simp] theorem setStrobe_stations (s : State) (c : Nat) (x : Strobe) : (s.setStrobe c x).stations = s.stations := rfl
@[simp] theorem setStrobe_thermal (s : State) (c : Nat) (x : Strobe) : (s.setStrobe c x).thermal = s.thermal := rfl
@[simp] theorem setStrobe_pio (s : State) (c : Nat) (x : Strobe) : (s.setStrobe c x).pio = s.pio := rfl
@[simp] theorem setStrobe_usher (s : State) (c : Nat) (x : Strobe) : (s.setStrobe c x).usher = s.usher := rfl
@[simp] theorem setStrobe_store (s : State) (c : Nat) (x : Strobe) : (s.setStrobe c x).store = s.store := rfl
@[simp] theorem setStrobe_storeBad (s : State) (c : Nat) (x : Strobe) : (s.setStrobe c x).storeBad = s.storeBad := rfl
@[simp] theorem setStrobe_archive (s : State) (c : Nat) (x : Strobe) : (s.setStrobe c x).archive = s.archive := rfl
@[simp] theorem setStrobe_archiveBad (s : State) (c : Nat) (x : Strobe) : (s.setStrobe c x).archiveBad = s.archiveBad := rfl
@[simp] theorem setStrobe_wear (s : State) (c : Nat) (x : Strobe) : (s.setStrobe c x).wear = s.wear := rfl
@[simp] theorem setStrobe_rollback (s : State) (c : Nat) (x : Strobe) : (s.setStrobe c x).rollback = s.rollback := rfl
@[simp] theorem setStrobe_g (s : State) (c : Nat) (x : Strobe) (g : Fld) : (s.setStrobe c x).g g = s.g g := rfl
@[simp] theorem setStrobe_ctr (s : State) (c : Nat) (x : Strobe) (g : Ctr) : (s.setStrobe c x).ctr g = s.ctr g := rfl
@[simp] theorem setStrobe_time (s : State) (c : Nat) (x : Strobe) : (s.setStrobe c x).time = s.time := rfl

@[simp] theorem setIset_pending (s : State) (c : Nat) (x : Iset) : (s.setIset c x).pending = s.pending := rfl
@[simp] theorem setIset_agenda (s : State) (c : Nat) (x : Iset) : (s.setIset c x).agenda = s.agenda := rfl
@[simp] theorem setIset_now (s : State) (c : Nat) (x : Iset) : (s.setIset c x).now = s.now := rfl
@[simp] theorem setIset_freeCount (s : State) (c : Nat) (x : Iset) : (s.setIset c x).freeCount = s.freeCount := rfl
@[simp] theorem setIset_regs (s : State) (c : Nat) (x : Iset) : (s.setIset c x).regs = s.regs := rfl
@[simp] theorem setIset_eff (s : State) (c : Nat) (x : Iset) : (s.setIset c x).eff = s.eff := rfl
@[simp] theorem setIset_late (s : State) (c : Nat) (x : Iset) : (s.setIset c x).late = s.late := rfl
@[simp] theorem setIset_moment (s : State) (c : Nat) (x : Iset) : (s.setIset c x).moment = s.moment := rfl
@[simp] theorem setIset_newel (s : State) (c : Nat) (x : Iset) : (s.setIset c x).newel = s.newel := rfl
@[simp] theorem setIset_boot (s : State) (c : Nat) (x : Iset) : (s.setIset c x).boot = s.boot := rfl
@[simp] theorem setIset_stair (s : State) (c : Nat) (x : Iset) : (s.setIset c x).stair = s.stair := rfl
@[simp] theorem setIset_pcie (s : State) (c : Nat) (x : Iset) : (s.setIset c x).pcie = s.pcie := rfl
@[simp] theorem setIset_strobes (s : State) (c : Nat) (x : Iset) : (s.setIset c x).strobes = s.strobes := rfl
@[simp] theorem setIset_isets (s : State) (c : Nat) (x : Iset) : (s.setIset c x).isets = modNth s.isets c fun _ => x := rfl
@[simp] theorem setIset_mons (s : State) (c : Nat) (x : Iset) : (s.setIset c x).mons = s.mons := rfl
@[simp] theorem setIset_stream (s : State) (c : Nat) (x : Iset) : (s.setIset c x).stream = s.stream := rfl
@[simp] theorem setIset_cams (s : State) (c : Nat) (x : Iset) : (s.setIset c x).cams = s.cams := rfl
@[simp] theorem setIset_placed (s : State) (c : Nat) (x : Iset) : (s.setIset c x).placed = s.placed := rfl
@[simp] theorem setIset_notices (s : State) (c : Nat) (x : Iset) : (s.setIset c x).notices = s.notices := rfl
@[simp] theorem setIset_hall (s : State) (c : Nat) (x : Iset) : (s.setIset c x).hall = s.hall := rfl
@[simp] theorem setIset_ports (s : State) (c : Nat) (x : Iset) : (s.setIset c x).ports = s.ports := rfl
@[simp] theorem setIset_pipes (s : State) (c : Nat) (x : Iset) : (s.setIset c x).pipes = s.pipes := rfl
@[simp] theorem setIset_joins (s : State) (c : Nat) (x : Iset) : (s.setIset c x).joins = s.joins := rfl
@[simp] theorem setIset_planner (s : State) (c : Nat) (x : Iset) : (s.setIset c x).planner = s.planner := rfl
@[simp] theorem setIset_link (s : State) (c : Nat) (x : Iset) : (s.setIset c x).link = s.link := rfl
@[simp] theorem setIset_stations (s : State) (c : Nat) (x : Iset) : (s.setIset c x).stations = s.stations := rfl
@[simp] theorem setIset_thermal (s : State) (c : Nat) (x : Iset) : (s.setIset c x).thermal = s.thermal := rfl
@[simp] theorem setIset_pio (s : State) (c : Nat) (x : Iset) : (s.setIset c x).pio = s.pio := rfl
@[simp] theorem setIset_usher (s : State) (c : Nat) (x : Iset) : (s.setIset c x).usher = s.usher := rfl
@[simp] theorem setIset_store (s : State) (c : Nat) (x : Iset) : (s.setIset c x).store = s.store := rfl
@[simp] theorem setIset_storeBad (s : State) (c : Nat) (x : Iset) : (s.setIset c x).storeBad = s.storeBad := rfl
@[simp] theorem setIset_archive (s : State) (c : Nat) (x : Iset) : (s.setIset c x).archive = s.archive := rfl
@[simp] theorem setIset_archiveBad (s : State) (c : Nat) (x : Iset) : (s.setIset c x).archiveBad = s.archiveBad := rfl
@[simp] theorem setIset_wear (s : State) (c : Nat) (x : Iset) : (s.setIset c x).wear = s.wear := rfl
@[simp] theorem setIset_rollback (s : State) (c : Nat) (x : Iset) : (s.setIset c x).rollback = s.rollback := rfl
@[simp] theorem setIset_g (s : State) (c : Nat) (x : Iset) (g : Fld) : (s.setIset c x).g g = s.g g := rfl
@[simp] theorem setIset_ctr (s : State) (c : Nat) (x : Iset) (g : Ctr) : (s.setIset c x).ctr g = s.ctr g := rfl
@[simp] theorem setIset_time (s : State) (c : Nat) (x : Iset) : (s.setIset c x).time = s.time := rfl

@[simp] theorem setMon_pending (s : State) (c : Nat) (x : Monitor) : (s.setMon c x).pending = s.pending := rfl
@[simp] theorem setMon_agenda (s : State) (c : Nat) (x : Monitor) : (s.setMon c x).agenda = s.agenda := rfl
@[simp] theorem setMon_now (s : State) (c : Nat) (x : Monitor) : (s.setMon c x).now = s.now := rfl
@[simp] theorem setMon_freeCount (s : State) (c : Nat) (x : Monitor) : (s.setMon c x).freeCount = s.freeCount := rfl
@[simp] theorem setMon_regs (s : State) (c : Nat) (x : Monitor) : (s.setMon c x).regs = s.regs := rfl
@[simp] theorem setMon_eff (s : State) (c : Nat) (x : Monitor) : (s.setMon c x).eff = s.eff := rfl
@[simp] theorem setMon_late (s : State) (c : Nat) (x : Monitor) : (s.setMon c x).late = s.late := rfl
@[simp] theorem setMon_moment (s : State) (c : Nat) (x : Monitor) : (s.setMon c x).moment = s.moment := rfl
@[simp] theorem setMon_newel (s : State) (c : Nat) (x : Monitor) : (s.setMon c x).newel = s.newel := rfl
@[simp] theorem setMon_boot (s : State) (c : Nat) (x : Monitor) : (s.setMon c x).boot = s.boot := rfl
@[simp] theorem setMon_stair (s : State) (c : Nat) (x : Monitor) : (s.setMon c x).stair = s.stair := rfl
@[simp] theorem setMon_pcie (s : State) (c : Nat) (x : Monitor) : (s.setMon c x).pcie = s.pcie := rfl
@[simp] theorem setMon_strobes (s : State) (c : Nat) (x : Monitor) : (s.setMon c x).strobes = s.strobes := rfl
@[simp] theorem setMon_isets (s : State) (c : Nat) (x : Monitor) : (s.setMon c x).isets = s.isets := rfl
@[simp] theorem setMon_mons (s : State) (c : Nat) (x : Monitor) : (s.setMon c x).mons = modNth s.mons c fun _ => x := rfl
@[simp] theorem setMon_stream (s : State) (c : Nat) (x : Monitor) : (s.setMon c x).stream = s.stream := rfl
@[simp] theorem setMon_cams (s : State) (c : Nat) (x : Monitor) : (s.setMon c x).cams = s.cams := rfl
@[simp] theorem setMon_placed (s : State) (c : Nat) (x : Monitor) : (s.setMon c x).placed = s.placed := rfl
@[simp] theorem setMon_notices (s : State) (c : Nat) (x : Monitor) : (s.setMon c x).notices = s.notices := rfl
@[simp] theorem setMon_hall (s : State) (c : Nat) (x : Monitor) : (s.setMon c x).hall = s.hall := rfl
@[simp] theorem setMon_ports (s : State) (c : Nat) (x : Monitor) : (s.setMon c x).ports = s.ports := rfl
@[simp] theorem setMon_pipes (s : State) (c : Nat) (x : Monitor) : (s.setMon c x).pipes = s.pipes := rfl
@[simp] theorem setMon_joins (s : State) (c : Nat) (x : Monitor) : (s.setMon c x).joins = s.joins := rfl
@[simp] theorem setMon_planner (s : State) (c : Nat) (x : Monitor) : (s.setMon c x).planner = s.planner := rfl
@[simp] theorem setMon_link (s : State) (c : Nat) (x : Monitor) : (s.setMon c x).link = s.link := rfl
@[simp] theorem setMon_stations (s : State) (c : Nat) (x : Monitor) : (s.setMon c x).stations = s.stations := rfl
@[simp] theorem setMon_thermal (s : State) (c : Nat) (x : Monitor) : (s.setMon c x).thermal = s.thermal := rfl
@[simp] theorem setMon_pio (s : State) (c : Nat) (x : Monitor) : (s.setMon c x).pio = s.pio := rfl
@[simp] theorem setMon_usher (s : State) (c : Nat) (x : Monitor) : (s.setMon c x).usher = s.usher := rfl
@[simp] theorem setMon_store (s : State) (c : Nat) (x : Monitor) : (s.setMon c x).store = s.store := rfl
@[simp] theorem setMon_storeBad (s : State) (c : Nat) (x : Monitor) : (s.setMon c x).storeBad = s.storeBad := rfl
@[simp] theorem setMon_archive (s : State) (c : Nat) (x : Monitor) : (s.setMon c x).archive = s.archive := rfl
@[simp] theorem setMon_archiveBad (s : State) (c : Nat) (x : Monitor) : (s.setMon c x).archiveBad = s.archiveBad := rfl
@[simp] theorem setMon_wear (s : State) (c : Nat) (x : Monitor) : (s.setMon c x).wear = s.wear := rfl
@[simp] theorem setMon_rollback (s : State) (c : Nat) (x : Monitor) : (s.setMon c x).rollback = s.rollback := rfl
@[simp] theorem setMon_g (s : State) (c : Nat) (x : Monitor) (g : Fld) : (s.setMon c x).g g = s.g g := rfl
@[simp] theorem setMon_ctr (s : State) (c : Nat) (x : Monitor) (g : Ctr) : (s.setMon c x).ctr g = s.ctr g := rfl
@[simp] theorem setMon_time (s : State) (c : Nat) (x : Monitor) : (s.setMon c x).time = s.time := rfl

@[simp] theorem setXport_pending (s : State) (c : Nat) (x : XPort) : (s.setXport c x).pending = s.pending := rfl
@[simp] theorem setXport_agenda (s : State) (c : Nat) (x : XPort) : (s.setXport c x).agenda = s.agenda := rfl
@[simp] theorem setXport_now (s : State) (c : Nat) (x : XPort) : (s.setXport c x).now = s.now := rfl
@[simp] theorem setXport_freeCount (s : State) (c : Nat) (x : XPort) : (s.setXport c x).freeCount = s.freeCount := rfl
@[simp] theorem setXport_regs (s : State) (c : Nat) (x : XPort) : (s.setXport c x).regs = s.regs := rfl
@[simp] theorem setXport_eff (s : State) (c : Nat) (x : XPort) : (s.setXport c x).eff = s.eff := rfl
@[simp] theorem setXport_late (s : State) (c : Nat) (x : XPort) : (s.setXport c x).late = s.late := rfl
@[simp] theorem setXport_moment (s : State) (c : Nat) (x : XPort) : (s.setXport c x).moment = s.moment := rfl
@[simp] theorem setXport_newel (s : State) (c : Nat) (x : XPort) : (s.setXport c x).newel = s.newel := rfl
@[simp] theorem setXport_boot (s : State) (c : Nat) (x : XPort) : (s.setXport c x).boot = s.boot := rfl
@[simp] theorem setXport_stair (s : State) (c : Nat) (x : XPort) : (s.setXport c x).stair = s.stair := rfl
@[simp] theorem setXport_pcie (s : State) (c : Nat) (x : XPort) : (s.setXport c x).pcie = s.pcie := rfl
@[simp] theorem setXport_strobes (s : State) (c : Nat) (x : XPort) : (s.setXport c x).strobes = s.strobes := rfl
@[simp] theorem setXport_isets (s : State) (c : Nat) (x : XPort) : (s.setXport c x).isets = s.isets := rfl
@[simp] theorem setXport_mons (s : State) (c : Nat) (x : XPort) : (s.setXport c x).mons = s.mons := rfl
@[simp] theorem setXport_stream (s : State) (c : Nat) (x : XPort) : (s.setXport c x).stream = s.stream := rfl
@[simp] theorem setXport_cams (s : State) (c : Nat) (x : XPort) : (s.setXport c x).cams = s.cams := rfl
@[simp] theorem setXport_placed (s : State) (c : Nat) (x : XPort) : (s.setXport c x).placed = s.placed := rfl
@[simp] theorem setXport_notices (s : State) (c : Nat) (x : XPort) : (s.setXport c x).notices = s.notices := rfl
@[simp] theorem setXport_hall (s : State) (c : Nat) (x : XPort) : (s.setXport c x).hall = s.hall := rfl
@[simp] theorem setXport_ports (s : State) (c : Nat) (x : XPort) : (s.setXport c x).ports = modNth s.ports c fun _ => x := rfl
@[simp] theorem setXport_pipes (s : State) (c : Nat) (x : XPort) : (s.setXport c x).pipes = s.pipes := rfl
@[simp] theorem setXport_joins (s : State) (c : Nat) (x : XPort) : (s.setXport c x).joins = s.joins := rfl
@[simp] theorem setXport_planner (s : State) (c : Nat) (x : XPort) : (s.setXport c x).planner = s.planner := rfl
@[simp] theorem setXport_link (s : State) (c : Nat) (x : XPort) : (s.setXport c x).link = s.link := rfl
@[simp] theorem setXport_stations (s : State) (c : Nat) (x : XPort) : (s.setXport c x).stations = s.stations := rfl
@[simp] theorem setXport_thermal (s : State) (c : Nat) (x : XPort) : (s.setXport c x).thermal = s.thermal := rfl
@[simp] theorem setXport_pio (s : State) (c : Nat) (x : XPort) : (s.setXport c x).pio = s.pio := rfl
@[simp] theorem setXport_usher (s : State) (c : Nat) (x : XPort) : (s.setXport c x).usher = s.usher := rfl
@[simp] theorem setXport_store (s : State) (c : Nat) (x : XPort) : (s.setXport c x).store = s.store := rfl
@[simp] theorem setXport_storeBad (s : State) (c : Nat) (x : XPort) : (s.setXport c x).storeBad = s.storeBad := rfl
@[simp] theorem setXport_archive (s : State) (c : Nat) (x : XPort) : (s.setXport c x).archive = s.archive := rfl
@[simp] theorem setXport_archiveBad (s : State) (c : Nat) (x : XPort) : (s.setXport c x).archiveBad = s.archiveBad := rfl
@[simp] theorem setXport_wear (s : State) (c : Nat) (x : XPort) : (s.setXport c x).wear = s.wear := rfl
@[simp] theorem setXport_rollback (s : State) (c : Nat) (x : XPort) : (s.setXport c x).rollback = s.rollback := rfl
@[simp] theorem setXport_g (s : State) (c : Nat) (x : XPort) (g : Fld) : (s.setXport c x).g g = s.g g := rfl
@[simp] theorem setXport_ctr (s : State) (c : Nat) (x : XPort) (g : Ctr) : (s.setXport c x).ctr g = s.ctr g := rfl
@[simp] theorem setXport_time (s : State) (c : Nat) (x : XPort) : (s.setXport c x).time = s.time := rfl

@[simp] theorem modEng_pending (s : State) (c : Nat) (f : Engine → Engine) : (s.modEng c f).pending = s.pending := rfl
@[simp] theorem modEng_agenda (s : State) (c : Nat) (f : Engine → Engine) : (s.modEng c f).agenda = s.agenda := rfl
@[simp] theorem modEng_now (s : State) (c : Nat) (f : Engine → Engine) : (s.modEng c f).now = s.now := rfl
@[simp] theorem modEng_freeCount (s : State) (c : Nat) (f : Engine → Engine) : (s.modEng c f).freeCount = s.freeCount := rfl
@[simp] theorem modEng_regs (s : State) (c : Nat) (f : Engine → Engine) : (s.modEng c f).regs = s.regs := rfl
@[simp] theorem modEng_eff (s : State) (c : Nat) (f : Engine → Engine) : (s.modEng c f).eff = s.eff := rfl
@[simp] theorem modEng_late (s : State) (c : Nat) (f : Engine → Engine) : (s.modEng c f).late = s.late := rfl
@[simp] theorem modEng_moment (s : State) (c : Nat) (f : Engine → Engine) : (s.modEng c f).moment = s.moment := rfl
@[simp] theorem modEng_newel (s : State) (c : Nat) (f : Engine → Engine) : (s.modEng c f).newel = s.newel := rfl
@[simp] theorem modEng_boot (s : State) (c : Nat) (f : Engine → Engine) : (s.modEng c f).boot = s.boot := rfl
@[simp] theorem modEng_stair (s : State) (c : Nat) (f : Engine → Engine) : (s.modEng c f).stair = s.stair := rfl
@[simp] theorem modEng_pcie (s : State) (c : Nat) (f : Engine → Engine) : (s.modEng c f).pcie = s.pcie := rfl
@[simp] theorem modEng_strobes (s : State) (c : Nat) (f : Engine → Engine) : (s.modEng c f).strobes = s.strobes := rfl
@[simp] theorem modEng_isets (s : State) (c : Nat) (f : Engine → Engine) : (s.modEng c f).isets = s.isets := rfl
@[simp] theorem modEng_mons (s : State) (c : Nat) (f : Engine → Engine) : (s.modEng c f).mons = s.mons := rfl
@[simp] theorem modEng_stream (s : State) (c : Nat) (f : Engine → Engine) : (s.modEng c f).stream = s.stream := rfl
@[simp] theorem modEng_cams (s : State) (c : Nat) (f : Engine → Engine) : (s.modEng c f).cams = s.cams := rfl
@[simp] theorem modEng_placed (s : State) (c : Nat) (f : Engine → Engine) : (s.modEng c f).placed = s.placed := rfl
@[simp] theorem modEng_notices (s : State) (c : Nat) (f : Engine → Engine) : (s.modEng c f).notices = s.notices := rfl
@[simp] theorem modEng_hall (s : State) (c : Nat) (f : Engine → Engine) : (s.modEng c f).hall = s.hall := rfl
@[simp] theorem modEng_ports (s : State) (c : Nat) (f : Engine → Engine) : (s.modEng c f).ports = s.ports := rfl
@[simp] theorem modEng_pipes (s : State) (c : Nat) (f : Engine → Engine) : (s.modEng c f).pipes = s.pipes := rfl
@[simp] theorem modEng_joins (s : State) (c : Nat) (f : Engine → Engine) : (s.modEng c f).joins = s.joins := rfl
@[simp] theorem modEng_planner (s : State) (c : Nat) (f : Engine → Engine) : (s.modEng c f).planner = s.planner := rfl
@[simp] theorem modEng_link (s : State) (c : Nat) (f : Engine → Engine) : (s.modEng c f).link = s.link := rfl
@[simp] theorem modEng_stations (s : State) (c : Nat) (f : Engine → Engine) : (s.modEng c f).stations = s.stations := rfl
@[simp] theorem modEng_thermal (s : State) (c : Nat) (f : Engine → Engine) : (s.modEng c f).thermal = s.thermal := rfl
@[simp] theorem modEng_pio (s : State) (c : Nat) (f : Engine → Engine) : (s.modEng c f).pio = { s.pio with engines := modNth s.pio.engines c f } := rfl
@[simp] theorem modEng_usher (s : State) (c : Nat) (f : Engine → Engine) : (s.modEng c f).usher = s.usher := rfl
@[simp] theorem modEng_store (s : State) (c : Nat) (f : Engine → Engine) : (s.modEng c f).store = s.store := rfl
@[simp] theorem modEng_storeBad (s : State) (c : Nat) (f : Engine → Engine) : (s.modEng c f).storeBad = s.storeBad := rfl
@[simp] theorem modEng_archive (s : State) (c : Nat) (f : Engine → Engine) : (s.modEng c f).archive = s.archive := rfl
@[simp] theorem modEng_archiveBad (s : State) (c : Nat) (f : Engine → Engine) : (s.modEng c f).archiveBad = s.archiveBad := rfl
@[simp] theorem modEng_wear (s : State) (c : Nat) (f : Engine → Engine) : (s.modEng c f).wear = s.wear := rfl
@[simp] theorem modEng_rollback (s : State) (c : Nat) (f : Engine → Engine) : (s.modEng c f).rollback = s.rollback := rfl
@[simp] theorem modEng_g (s : State) (c : Nat) (f : Engine → Engine) (g : Fld) : (s.modEng c f).g g = s.g g := rfl
@[simp] theorem modEng_ctr (s : State) (c : Nat) (f : Engine → Engine) (g : Ctr) : (s.modEng c f).ctr g = s.ctr g := rfl
@[simp] theorem modEng_time (s : State) (c : Nat) (f : Engine → Engine) : (s.modEng c f).time = s.time := rfl

@[simp] theorem modRing_pending (s : State) (c : Nat) (f : SubRing → SubRing) : (s.modRing c f).pending = s.pending := rfl
@[simp] theorem modRing_agenda (s : State) (c : Nat) (f : SubRing → SubRing) : (s.modRing c f).agenda = s.agenda := rfl
@[simp] theorem modRing_now (s : State) (c : Nat) (f : SubRing → SubRing) : (s.modRing c f).now = s.now := rfl
@[simp] theorem modRing_freeCount (s : State) (c : Nat) (f : SubRing → SubRing) : (s.modRing c f).freeCount = s.freeCount := rfl
@[simp] theorem modRing_regs (s : State) (c : Nat) (f : SubRing → SubRing) : (s.modRing c f).regs = s.regs := rfl
@[simp] theorem modRing_eff (s : State) (c : Nat) (f : SubRing → SubRing) : (s.modRing c f).eff = s.eff := rfl
@[simp] theorem modRing_late (s : State) (c : Nat) (f : SubRing → SubRing) : (s.modRing c f).late = s.late := rfl
@[simp] theorem modRing_moment (s : State) (c : Nat) (f : SubRing → SubRing) : (s.modRing c f).moment = s.moment := rfl
@[simp] theorem modRing_newel (s : State) (c : Nat) (f : SubRing → SubRing) : (s.modRing c f).newel = s.newel := rfl
@[simp] theorem modRing_boot (s : State) (c : Nat) (f : SubRing → SubRing) : (s.modRing c f).boot = s.boot := rfl
@[simp] theorem modRing_stair (s : State) (c : Nat) (f : SubRing → SubRing) : (s.modRing c f).stair = s.stair := rfl
@[simp] theorem modRing_pcie (s : State) (c : Nat) (f : SubRing → SubRing) : (s.modRing c f).pcie = s.pcie := rfl
@[simp] theorem modRing_strobes (s : State) (c : Nat) (f : SubRing → SubRing) : (s.modRing c f).strobes = s.strobes := rfl
@[simp] theorem modRing_isets (s : State) (c : Nat) (f : SubRing → SubRing) : (s.modRing c f).isets = s.isets := rfl
@[simp] theorem modRing_mons (s : State) (c : Nat) (f : SubRing → SubRing) : (s.modRing c f).mons = s.mons := rfl
@[simp] theorem modRing_stream (s : State) (c : Nat) (f : SubRing → SubRing) : (s.modRing c f).stream = s.stream := rfl
@[simp] theorem modRing_cams (s : State) (c : Nat) (f : SubRing → SubRing) : (s.modRing c f).cams = s.cams := rfl
@[simp] theorem modRing_placed (s : State) (c : Nat) (f : SubRing → SubRing) : (s.modRing c f).placed = s.placed := rfl
@[simp] theorem modRing_notices (s : State) (c : Nat) (f : SubRing → SubRing) : (s.modRing c f).notices = s.notices := rfl
@[simp] theorem modRing_hall (s : State) (c : Nat) (f : SubRing → SubRing) : (s.modRing c f).hall = s.hall := rfl
@[simp] theorem modRing_ports (s : State) (c : Nat) (f : SubRing → SubRing) : (s.modRing c f).ports = s.ports := rfl
@[simp] theorem modRing_pipes (s : State) (c : Nat) (f : SubRing → SubRing) : (s.modRing c f).pipes = s.pipes := rfl
@[simp] theorem modRing_joins (s : State) (c : Nat) (f : SubRing → SubRing) : (s.modRing c f).joins = s.joins := rfl
@[simp] theorem modRing_planner (s : State) (c : Nat) (f : SubRing → SubRing) : (s.modRing c f).planner = s.planner := rfl
@[simp] theorem modRing_link (s : State) (c : Nat) (f : SubRing → SubRing) : (s.modRing c f).link = s.link := rfl
@[simp] theorem modRing_stations (s : State) (c : Nat) (f : SubRing → SubRing) : (s.modRing c f).stations = s.stations := rfl
@[simp] theorem modRing_thermal (s : State) (c : Nat) (f : SubRing → SubRing) : (s.modRing c f).thermal = s.thermal := rfl
@[simp] theorem modRing_pio (s : State) (c : Nat) (f : SubRing → SubRing) : (s.modRing c f).pio = s.pio := rfl
@[simp] theorem modRing_usher (s : State) (c : Nat) (f : SubRing → SubRing) : (s.modRing c f).usher = { s.usher with rings := modNth s.usher.rings c f } := rfl
@[simp] theorem modRing_store (s : State) (c : Nat) (f : SubRing → SubRing) : (s.modRing c f).store = s.store := rfl
@[simp] theorem modRing_storeBad (s : State) (c : Nat) (f : SubRing → SubRing) : (s.modRing c f).storeBad = s.storeBad := rfl
@[simp] theorem modRing_archive (s : State) (c : Nat) (f : SubRing → SubRing) : (s.modRing c f).archive = s.archive := rfl
@[simp] theorem modRing_archiveBad (s : State) (c : Nat) (f : SubRing → SubRing) : (s.modRing c f).archiveBad = s.archiveBad := rfl
@[simp] theorem modRing_wear (s : State) (c : Nat) (f : SubRing → SubRing) : (s.modRing c f).wear = s.wear := rfl
@[simp] theorem modRing_rollback (s : State) (c : Nat) (f : SubRing → SubRing) : (s.modRing c f).rollback = s.rollback := rfl
@[simp] theorem modRing_g (s : State) (c : Nat) (f : SubRing → SubRing) (g : Fld) : (s.modRing c f).g g = s.g g := rfl
@[simp] theorem modRing_ctr (s : State) (c : Nat) (f : SubRing → SubRing) (g : Ctr) : (s.modRing c f).ctr g = s.ctr g := rfl
@[simp] theorem modRing_time (s : State) (c : Nat) (f : SubRing → SubRing) : (s.modRing c f).time = s.time := rfl

@[simp] theorem modSlot_pending (s : State) (c : Nat) (f : Slot → Slot) : (s.modSlot c f).pending = s.pending := rfl
@[simp] theorem modSlot_agenda (s : State) (c : Nat) (f : Slot → Slot) : (s.modSlot c f).agenda = s.agenda := rfl
@[simp] theorem modSlot_now (s : State) (c : Nat) (f : Slot → Slot) : (s.modSlot c f).now = s.now := rfl
@[simp] theorem modSlot_freeCount (s : State) (c : Nat) (f : Slot → Slot) : (s.modSlot c f).freeCount = s.freeCount := rfl
@[simp] theorem modSlot_regs (s : State) (c : Nat) (f : Slot → Slot) : (s.modSlot c f).regs = s.regs := rfl
@[simp] theorem modSlot_eff (s : State) (c : Nat) (f : Slot → Slot) : (s.modSlot c f).eff = s.eff := rfl
@[simp] theorem modSlot_late (s : State) (c : Nat) (f : Slot → Slot) : (s.modSlot c f).late = s.late := rfl
@[simp] theorem modSlot_moment (s : State) (c : Nat) (f : Slot → Slot) : (s.modSlot c f).moment = s.moment := rfl
@[simp] theorem modSlot_newel (s : State) (c : Nat) (f : Slot → Slot) : (s.modSlot c f).newel = s.newel := rfl
@[simp] theorem modSlot_boot (s : State) (c : Nat) (f : Slot → Slot) : (s.modSlot c f).boot = s.boot := rfl
@[simp] theorem modSlot_stair (s : State) (c : Nat) (f : Slot → Slot) : (s.modSlot c f).stair = s.stair := rfl
@[simp] theorem modSlot_pcie (s : State) (c : Nat) (f : Slot → Slot) : (s.modSlot c f).pcie = s.pcie := rfl
@[simp] theorem modSlot_strobes (s : State) (c : Nat) (f : Slot → Slot) : (s.modSlot c f).strobes = s.strobes := rfl
@[simp] theorem modSlot_isets (s : State) (c : Nat) (f : Slot → Slot) : (s.modSlot c f).isets = s.isets := rfl
@[simp] theorem modSlot_mons (s : State) (c : Nat) (f : Slot → Slot) : (s.modSlot c f).mons = s.mons := rfl
@[simp] theorem modSlot_stream (s : State) (c : Nat) (f : Slot → Slot) : (s.modSlot c f).stream = s.stream := rfl
@[simp] theorem modSlot_cams (s : State) (c : Nat) (f : Slot → Slot) : (s.modSlot c f).cams = s.cams := rfl
@[simp] theorem modSlot_placed (s : State) (c : Nat) (f : Slot → Slot) : (s.modSlot c f).placed = s.placed := rfl
@[simp] theorem modSlot_notices (s : State) (c : Nat) (f : Slot → Slot) : (s.modSlot c f).notices = s.notices := rfl
@[simp] theorem modSlot_hall (s : State) (c : Nat) (f : Slot → Slot) : (s.modSlot c f).hall = s.hall := rfl
@[simp] theorem modSlot_ports (s : State) (c : Nat) (f : Slot → Slot) : (s.modSlot c f).ports = s.ports := rfl
@[simp] theorem modSlot_pipes (s : State) (c : Nat) (f : Slot → Slot) : (s.modSlot c f).pipes = s.pipes := rfl
@[simp] theorem modSlot_joins (s : State) (c : Nat) (f : Slot → Slot) : (s.modSlot c f).joins = s.joins := rfl
@[simp] theorem modSlot_planner (s : State) (c : Nat) (f : Slot → Slot) : (s.modSlot c f).planner = s.planner := rfl
@[simp] theorem modSlot_link (s : State) (c : Nat) (f : Slot → Slot) : (s.modSlot c f).link = s.link := rfl
@[simp] theorem modSlot_stations (s : State) (c : Nat) (f : Slot → Slot) : (s.modSlot c f).stations = s.stations := rfl
@[simp] theorem modSlot_thermal (s : State) (c : Nat) (f : Slot → Slot) : (s.modSlot c f).thermal = s.thermal := rfl
@[simp] theorem modSlot_pio (s : State) (c : Nat) (f : Slot → Slot) : (s.modSlot c f).pio = s.pio := rfl
@[simp] theorem modSlot_usher (s : State) (c : Nat) (f : Slot → Slot) : (s.modSlot c f).usher = { s.usher with slots := modNth s.usher.slots c f } := rfl
@[simp] theorem modSlot_store (s : State) (c : Nat) (f : Slot → Slot) : (s.modSlot c f).store = s.store := rfl
@[simp] theorem modSlot_storeBad (s : State) (c : Nat) (f : Slot → Slot) : (s.modSlot c f).storeBad = s.storeBad := rfl
@[simp] theorem modSlot_archive (s : State) (c : Nat) (f : Slot → Slot) : (s.modSlot c f).archive = s.archive := rfl
@[simp] theorem modSlot_archiveBad (s : State) (c : Nat) (f : Slot → Slot) : (s.modSlot c f).archiveBad = s.archiveBad := rfl
@[simp] theorem modSlot_wear (s : State) (c : Nat) (f : Slot → Slot) : (s.modSlot c f).wear = s.wear := rfl
@[simp] theorem modSlot_rollback (s : State) (c : Nat) (f : Slot → Slot) : (s.modSlot c f).rollback = s.rollback := rfl
@[simp] theorem modSlot_g (s : State) (c : Nat) (f : Slot → Slot) (g : Fld) : (s.modSlot c f).g g = s.g g := rfl
@[simp] theorem modSlot_ctr (s : State) (c : Nat) (f : Slot → Slot) (g : Ctr) : (s.modSlot c f).ctr g = s.ctr g := rfl
@[simp] theorem modSlot_time (s : State) (c : Nat) (f : Slot → Slot) : (s.modSlot c f).time = s.time := rfl

@[simp] theorem modVector_pending (s : State) (c : Nat) (f : Vector32 → Vector32) : (s.modVector c f).pending = s.pending := rfl
@[simp] theorem modVector_agenda (s : State) (c : Nat) (f : Vector32 → Vector32) : (s.modVector c f).agenda = s.agenda := rfl
@[simp] theorem modVector_now (s : State) (c : Nat) (f : Vector32 → Vector32) : (s.modVector c f).now = s.now := rfl
@[simp] theorem modVector_freeCount (s : State) (c : Nat) (f : Vector32 → Vector32) : (s.modVector c f).freeCount = s.freeCount := rfl
@[simp] theorem modVector_regs (s : State) (c : Nat) (f : Vector32 → Vector32) : (s.modVector c f).regs = s.regs := rfl
@[simp] theorem modVector_eff (s : State) (c : Nat) (f : Vector32 → Vector32) : (s.modVector c f).eff = s.eff := rfl
@[simp] theorem modVector_late (s : State) (c : Nat) (f : Vector32 → Vector32) : (s.modVector c f).late = s.late := rfl
@[simp] theorem modVector_moment (s : State) (c : Nat) (f : Vector32 → Vector32) : (s.modVector c f).moment = s.moment := rfl
@[simp] theorem modVector_newel (s : State) (c : Nat) (f : Vector32 → Vector32) : (s.modVector c f).newel = s.newel := rfl
@[simp] theorem modVector_boot (s : State) (c : Nat) (f : Vector32 → Vector32) : (s.modVector c f).boot = s.boot := rfl
@[simp] theorem modVector_stair (s : State) (c : Nat) (f : Vector32 → Vector32) : (s.modVector c f).stair = s.stair := rfl
@[simp] theorem modVector_pcie (s : State) (c : Nat) (f : Vector32 → Vector32) : (s.modVector c f).pcie = { s.pcie with vectors := modNth s.pcie.vectors c f } := rfl
@[simp] theorem modVector_strobes (s : State) (c : Nat) (f : Vector32 → Vector32) : (s.modVector c f).strobes = s.strobes := rfl
@[simp] theorem modVector_isets (s : State) (c : Nat) (f : Vector32 → Vector32) : (s.modVector c f).isets = s.isets := rfl
@[simp] theorem modVector_mons (s : State) (c : Nat) (f : Vector32 → Vector32) : (s.modVector c f).mons = s.mons := rfl
@[simp] theorem modVector_stream (s : State) (c : Nat) (f : Vector32 → Vector32) : (s.modVector c f).stream = s.stream := rfl
@[simp] theorem modVector_cams (s : State) (c : Nat) (f : Vector32 → Vector32) : (s.modVector c f).cams = s.cams := rfl
@[simp] theorem modVector_placed (s : State) (c : Nat) (f : Vector32 → Vector32) : (s.modVector c f).placed = s.placed := rfl
@[simp] theorem modVector_notices (s : State) (c : Nat) (f : Vector32 → Vector32) : (s.modVector c f).notices = s.notices := rfl
@[simp] theorem modVector_hall (s : State) (c : Nat) (f : Vector32 → Vector32) : (s.modVector c f).hall = s.hall := rfl
@[simp] theorem modVector_ports (s : State) (c : Nat) (f : Vector32 → Vector32) : (s.modVector c f).ports = s.ports := rfl
@[simp] theorem modVector_pipes (s : State) (c : Nat) (f : Vector32 → Vector32) : (s.modVector c f).pipes = s.pipes := rfl
@[simp] theorem modVector_joins (s : State) (c : Nat) (f : Vector32 → Vector32) : (s.modVector c f).joins = s.joins := rfl
@[simp] theorem modVector_planner (s : State) (c : Nat) (f : Vector32 → Vector32) : (s.modVector c f).planner = s.planner := rfl
@[simp] theorem modVector_link (s : State) (c : Nat) (f : Vector32 → Vector32) : (s.modVector c f).link = s.link := rfl
@[simp] theorem modVector_stations (s : State) (c : Nat) (f : Vector32 → Vector32) : (s.modVector c f).stations = s.stations := rfl
@[simp] theorem modVector_thermal (s : State) (c : Nat) (f : Vector32 → Vector32) : (s.modVector c f).thermal = s.thermal := rfl
@[simp] theorem modVector_pio (s : State) (c : Nat) (f : Vector32 → Vector32) : (s.modVector c f).pio = s.pio := rfl
@[simp] theorem modVector_usher (s : State) (c : Nat) (f : Vector32 → Vector32) : (s.modVector c f).usher = s.usher := rfl
@[simp] theorem modVector_store (s : State) (c : Nat) (f : Vector32 → Vector32) : (s.modVector c f).store = s.store := rfl
@[simp] theorem modVector_storeBad (s : State) (c : Nat) (f : Vector32 → Vector32) : (s.modVector c f).storeBad = s.storeBad := rfl
@[simp] theorem modVector_archive (s : State) (c : Nat) (f : Vector32 → Vector32) : (s.modVector c f).archive = s.archive := rfl
@[simp] theorem modVector_archiveBad (s : State) (c : Nat) (f : Vector32 → Vector32) : (s.modVector c f).archiveBad = s.archiveBad := rfl
@[simp] theorem modVector_wear (s : State) (c : Nat) (f : Vector32 → Vector32) : (s.modVector c f).wear = s.wear := rfl
@[simp] theorem modVector_rollback (s : State) (c : Nat) (f : Vector32 → Vector32) : (s.modVector c f).rollback = s.rollback := rfl
@[simp] theorem modVector_g (s : State) (c : Nat) (f : Vector32 → Vector32) (g : Fld) : (s.modVector c f).g g = s.g g := rfl
@[simp] theorem modVector_ctr (s : State) (c : Nat) (f : Vector32 → Vector32) (g : Ctr) : (s.modVector c f).ctr g = s.ctr g := rfl
@[simp] theorem modVector_time (s : State) (c : Nat) (f : Vector32 → Vector32) : (s.modVector c f).time = s.time := rfl

@[simp] theorem setQueue_pending (s : State) (c : Nat) (x : Queue) : (s.setQueue c x).pending = s.pending := rfl
@[simp] theorem setQueue_agenda (s : State) (c : Nat) (x : Queue) : (s.setQueue c x).agenda = s.agenda := rfl
@[simp] theorem setQueue_now (s : State) (c : Nat) (x : Queue) : (s.setQueue c x).now = s.now := rfl
@[simp] theorem setQueue_freeCount (s : State) (c : Nat) (x : Queue) : (s.setQueue c x).freeCount = s.freeCount := rfl
@[simp] theorem setQueue_regs (s : State) (c : Nat) (x : Queue) : (s.setQueue c x).regs = s.regs := rfl
@[simp] theorem setQueue_eff (s : State) (c : Nat) (x : Queue) : (s.setQueue c x).eff = s.eff := rfl
@[simp] theorem setQueue_late (s : State) (c : Nat) (x : Queue) : (s.setQueue c x).late = s.late := rfl
@[simp] theorem setQueue_moment (s : State) (c : Nat) (x : Queue) : (s.setQueue c x).moment = s.moment := rfl
@[simp] theorem setQueue_newel (s : State) (c : Nat) (x : Queue) : (s.setQueue c x).newel = s.newel := rfl
@[simp] theorem setQueue_boot (s : State) (c : Nat) (x : Queue) : (s.setQueue c x).boot = s.boot := rfl
@[simp] theorem setQueue_stair (s : State) (c : Nat) (x : Queue) : (s.setQueue c x).stair = s.stair := rfl
@[simp] theorem setQueue_pcie (s : State) (c : Nat) (x : Queue) : (s.setQueue c x).pcie = s.pcie := rfl
@[simp] theorem setQueue_strobes (s : State) (c : Nat) (x : Queue) : (s.setQueue c x).strobes = s.strobes := rfl
@[simp] theorem setQueue_isets (s : State) (c : Nat) (x : Queue) : (s.setQueue c x).isets = s.isets := rfl
@[simp] theorem setQueue_mons (s : State) (c : Nat) (x : Queue) : (s.setQueue c x).mons = s.mons := rfl
@[simp] theorem setQueue_stream (s : State) (c : Nat) (x : Queue) : (s.setQueue c x).stream = s.stream := rfl
@[simp] theorem setQueue_cams (s : State) (c : Nat) (x : Queue) : (s.setQueue c x).cams = s.cams := rfl
@[simp] theorem setQueue_placed (s : State) (c : Nat) (x : Queue) : (s.setQueue c x).placed = s.placed := rfl
@[simp] theorem setQueue_notices (s : State) (c : Nat) (x : Queue) : (s.setQueue c x).notices = s.notices := rfl
@[simp] theorem setQueue_hall (s : State) (c : Nat) (x : Queue) : (s.setQueue c x).hall = { s.hall with queues := modNth s.hall.queues c fun _ => x } := rfl
@[simp] theorem setQueue_ports (s : State) (c : Nat) (x : Queue) : (s.setQueue c x).ports = s.ports := rfl
@[simp] theorem setQueue_pipes (s : State) (c : Nat) (x : Queue) : (s.setQueue c x).pipes = s.pipes := rfl
@[simp] theorem setQueue_joins (s : State) (c : Nat) (x : Queue) : (s.setQueue c x).joins = s.joins := rfl
@[simp] theorem setQueue_planner (s : State) (c : Nat) (x : Queue) : (s.setQueue c x).planner = s.planner := rfl
@[simp] theorem setQueue_link (s : State) (c : Nat) (x : Queue) : (s.setQueue c x).link = s.link := rfl
@[simp] theorem setQueue_stations (s : State) (c : Nat) (x : Queue) : (s.setQueue c x).stations = s.stations := rfl
@[simp] theorem setQueue_thermal (s : State) (c : Nat) (x : Queue) : (s.setQueue c x).thermal = s.thermal := rfl
@[simp] theorem setQueue_pio (s : State) (c : Nat) (x : Queue) : (s.setQueue c x).pio = s.pio := rfl
@[simp] theorem setQueue_usher (s : State) (c : Nat) (x : Queue) : (s.setQueue c x).usher = s.usher := rfl
@[simp] theorem setQueue_store (s : State) (c : Nat) (x : Queue) : (s.setQueue c x).store = s.store := rfl
@[simp] theorem setQueue_storeBad (s : State) (c : Nat) (x : Queue) : (s.setQueue c x).storeBad = s.storeBad := rfl
@[simp] theorem setQueue_archive (s : State) (c : Nat) (x : Queue) : (s.setQueue c x).archive = s.archive := rfl
@[simp] theorem setQueue_archiveBad (s : State) (c : Nat) (x : Queue) : (s.setQueue c x).archiveBad = s.archiveBad := rfl
@[simp] theorem setQueue_wear (s : State) (c : Nat) (x : Queue) : (s.setQueue c x).wear = s.wear := rfl
@[simp] theorem setQueue_rollback (s : State) (c : Nat) (x : Queue) : (s.setQueue c x).rollback = s.rollback := rfl
@[simp] theorem setQueue_g (s : State) (c : Nat) (x : Queue) (g : Fld) : (s.setQueue c x).g g = s.g g := rfl
@[simp] theorem setQueue_ctr (s : State) (c : Nat) (x : Queue) (g : Ctr) : (s.setQueue c x).ctr g = s.ctr g := rfl
@[simp] theorem setQueue_time (s : State) (c : Nat) (x : Queue) : (s.setQueue c x).time = s.time := rfl

@[simp] theorem setPort_pending (s : State) (c : Nat) (x : Port) : (s.setPort c x).pending = s.pending := rfl
@[simp] theorem setPort_agenda (s : State) (c : Nat) (x : Port) : (s.setPort c x).agenda = s.agenda := rfl
@[simp] theorem setPort_now (s : State) (c : Nat) (x : Port) : (s.setPort c x).now = s.now := rfl
@[simp] theorem setPort_freeCount (s : State) (c : Nat) (x : Port) : (s.setPort c x).freeCount = s.freeCount := rfl
@[simp] theorem setPort_regs (s : State) (c : Nat) (x : Port) : (s.setPort c x).regs = s.regs := rfl
@[simp] theorem setPort_eff (s : State) (c : Nat) (x : Port) : (s.setPort c x).eff = s.eff := rfl
@[simp] theorem setPort_late (s : State) (c : Nat) (x : Port) : (s.setPort c x).late = s.late := rfl
@[simp] theorem setPort_moment (s : State) (c : Nat) (x : Port) : (s.setPort c x).moment = s.moment := rfl
@[simp] theorem setPort_newel (s : State) (c : Nat) (x : Port) : (s.setPort c x).newel = s.newel := rfl
@[simp] theorem setPort_boot (s : State) (c : Nat) (x : Port) : (s.setPort c x).boot = s.boot := rfl
@[simp] theorem setPort_stair (s : State) (c : Nat) (x : Port) : (s.setPort c x).stair = s.stair := rfl
@[simp] theorem setPort_pcie (s : State) (c : Nat) (x : Port) : (s.setPort c x).pcie = s.pcie := rfl
@[simp] theorem setPort_strobes (s : State) (c : Nat) (x : Port) : (s.setPort c x).strobes = s.strobes := rfl
@[simp] theorem setPort_isets (s : State) (c : Nat) (x : Port) : (s.setPort c x).isets = s.isets := rfl
@[simp] theorem setPort_mons (s : State) (c : Nat) (x : Port) : (s.setPort c x).mons = s.mons := rfl
@[simp] theorem setPort_stream (s : State) (c : Nat) (x : Port) : (s.setPort c x).stream = s.stream := rfl
@[simp] theorem setPort_cams (s : State) (c : Nat) (x : Port) : (s.setPort c x).cams = s.cams := rfl
@[simp] theorem setPort_placed (s : State) (c : Nat) (x : Port) : (s.setPort c x).placed = s.placed := rfl
@[simp] theorem setPort_notices (s : State) (c : Nat) (x : Port) : (s.setPort c x).notices = s.notices := rfl
@[simp] theorem setPort_hall (s : State) (c : Nat) (x : Port) : (s.setPort c x).hall = { s.hall with ports := modNth s.hall.ports c fun _ => x } := rfl
@[simp] theorem setPort_ports (s : State) (c : Nat) (x : Port) : (s.setPort c x).ports = s.ports := rfl
@[simp] theorem setPort_pipes (s : State) (c : Nat) (x : Port) : (s.setPort c x).pipes = s.pipes := rfl
@[simp] theorem setPort_joins (s : State) (c : Nat) (x : Port) : (s.setPort c x).joins = s.joins := rfl
@[simp] theorem setPort_planner (s : State) (c : Nat) (x : Port) : (s.setPort c x).planner = s.planner := rfl
@[simp] theorem setPort_link (s : State) (c : Nat) (x : Port) : (s.setPort c x).link = s.link := rfl
@[simp] theorem setPort_stations (s : State) (c : Nat) (x : Port) : (s.setPort c x).stations = s.stations := rfl
@[simp] theorem setPort_thermal (s : State) (c : Nat) (x : Port) : (s.setPort c x).thermal = s.thermal := rfl
@[simp] theorem setPort_pio (s : State) (c : Nat) (x : Port) : (s.setPort c x).pio = s.pio := rfl
@[simp] theorem setPort_usher (s : State) (c : Nat) (x : Port) : (s.setPort c x).usher = s.usher := rfl
@[simp] theorem setPort_store (s : State) (c : Nat) (x : Port) : (s.setPort c x).store = s.store := rfl
@[simp] theorem setPort_storeBad (s : State) (c : Nat) (x : Port) : (s.setPort c x).storeBad = s.storeBad := rfl
@[simp] theorem setPort_archive (s : State) (c : Nat) (x : Port) : (s.setPort c x).archive = s.archive := rfl
@[simp] theorem setPort_archiveBad (s : State) (c : Nat) (x : Port) : (s.setPort c x).archiveBad = s.archiveBad := rfl
@[simp] theorem setPort_wear (s : State) (c : Nat) (x : Port) : (s.setPort c x).wear = s.wear := rfl
@[simp] theorem setPort_rollback (s : State) (c : Nat) (x : Port) : (s.setPort c x).rollback = s.rollback := rfl
@[simp] theorem setPort_g (s : State) (c : Nat) (x : Port) (g : Fld) : (s.setPort c x).g g = s.g g := rfl
@[simp] theorem setPort_ctr (s : State) (c : Nat) (x : Port) (g : Ctr) : (s.setPort c x).ctr g = s.ctr g := rfl
@[simp] theorem setPort_time (s : State) (c : Nat) (x : Port) : (s.setPort c x).time = s.time := rfl

@[simp] theorem setBit_pending (s : State) (f : Fld) (i : Nat) : (s.setBit f i).pending = s.pending :=
  (setBit_same (m := 144) (s0 := s) rfl (Same.refl _ _)).pending rfl
@[simp] theorem setBit_agenda (s : State) (f : Fld) (i : Nat) : (s.setBit f i).agenda = s.agenda :=
  (setBit_same (m := 144) (s0 := s) rfl (Same.refl _ _)).agenda rfl
@[simp] theorem setBit_now (s : State) (f : Fld) (i : Nat) : (s.setBit f i).now = s.now :=
  (setBit_same (m := 144) (s0 := s) rfl (Same.refl _ _)).now rfl
@[simp] theorem setBit_freeCount (s : State) (f : Fld) (i : Nat) : (s.setBit f i).freeCount = s.freeCount :=
  (setBit_same (m := 144) (s0 := s) rfl (Same.refl _ _)).freeCount rfl
@[simp] theorem setBit_eff (s : State) (f : Fld) (i : Nat) : (s.setBit f i).eff = s.eff :=
  (setBit_same (m := 144) (s0 := s) rfl (Same.refl _ _)).eff rfl
@[simp] theorem setBit_late (s : State) (f : Fld) (i : Nat) : (s.setBit f i).late = s.late :=
  (setBit_same (m := 144) (s0 := s) rfl (Same.refl _ _)).late rfl
@[simp] theorem setBit_newel (s : State) (f : Fld) (i : Nat) : (s.setBit f i).newel = s.newel :=
  (setBit_same (m := 144) (s0 := s) rfl (Same.refl _ _)).newel rfl
@[simp] theorem setBit_boot (s : State) (f : Fld) (i : Nat) : (s.setBit f i).boot = s.boot :=
  (setBit_same (m := 144) (s0 := s) rfl (Same.refl _ _)).boot rfl
@[simp] theorem setBit_stair (s : State) (f : Fld) (i : Nat) : (s.setBit f i).stair = s.stair :=
  (setBit_same (m := 144) (s0 := s) rfl (Same.refl _ _)).stair rfl
@[simp] theorem setBit_pcie (s : State) (f : Fld) (i : Nat) : (s.setBit f i).pcie = s.pcie :=
  (setBit_same (m := 144) (s0 := s) rfl (Same.refl _ _)).pcie rfl
@[simp] theorem setBit_strobes (s : State) (f : Fld) (i : Nat) : (s.setBit f i).strobes = s.strobes :=
  (setBit_same (m := 144) (s0 := s) rfl (Same.refl _ _)).strobes rfl
@[simp] theorem setBit_isets (s : State) (f : Fld) (i : Nat) : (s.setBit f i).isets = s.isets :=
  (setBit_same (m := 144) (s0 := s) rfl (Same.refl _ _)).isets rfl
@[simp] theorem setBit_mons (s : State) (f : Fld) (i : Nat) : (s.setBit f i).mons = s.mons :=
  (setBit_same (m := 144) (s0 := s) rfl (Same.refl _ _)).mons rfl
@[simp] theorem setBit_stream (s : State) (f : Fld) (i : Nat) : (s.setBit f i).stream = s.stream :=
  (setBit_same (m := 144) (s0 := s) rfl (Same.refl _ _)).stream rfl
@[simp] theorem setBit_cams (s : State) (f : Fld) (i : Nat) : (s.setBit f i).cams = s.cams :=
  (setBit_same (m := 144) (s0 := s) rfl (Same.refl _ _)).cams rfl
@[simp] theorem setBit_placed (s : State) (f : Fld) (i : Nat) : (s.setBit f i).placed = s.placed :=
  (setBit_same (m := 144) (s0 := s) rfl (Same.refl _ _)).placed rfl
@[simp] theorem setBit_notices (s : State) (f : Fld) (i : Nat) : (s.setBit f i).notices = s.notices :=
  (setBit_same (m := 144) (s0 := s) rfl (Same.refl _ _)).notices rfl
@[simp] theorem setBit_hall (s : State) (f : Fld) (i : Nat) : (s.setBit f i).hall = s.hall :=
  (setBit_same (m := 144) (s0 := s) rfl (Same.refl _ _)).hall rfl
@[simp] theorem setBit_ports (s : State) (f : Fld) (i : Nat) : (s.setBit f i).ports = s.ports :=
  (setBit_same (m := 144) (s0 := s) rfl (Same.refl _ _)).ports rfl
@[simp] theorem setBit_pipes (s : State) (f : Fld) (i : Nat) : (s.setBit f i).pipes = s.pipes :=
  (setBit_same (m := 144) (s0 := s) rfl (Same.refl _ _)).pipes rfl
@[simp] theorem setBit_joins (s : State) (f : Fld) (i : Nat) : (s.setBit f i).joins = s.joins :=
  (setBit_same (m := 144) (s0 := s) rfl (Same.refl _ _)).joins rfl
@[simp] theorem setBit_planner (s : State) (f : Fld) (i : Nat) : (s.setBit f i).planner = s.planner :=
  (setBit_same (m := 144) (s0 := s) rfl (Same.refl _ _)).planner rfl
@[simp] theorem setBit_link (s : State) (f : Fld) (i : Nat) : (s.setBit f i).link = s.link :=
  (setBit_same (m := 144) (s0 := s) rfl (Same.refl _ _)).link rfl
@[simp] theorem setBit_stations (s : State) (f : Fld) (i : Nat) : (s.setBit f i).stations = s.stations :=
  (setBit_same (m := 144) (s0 := s) rfl (Same.refl _ _)).stations rfl
@[simp] theorem setBit_thermal (s : State) (f : Fld) (i : Nat) : (s.setBit f i).thermal = s.thermal :=
  (setBit_same (m := 144) (s0 := s) rfl (Same.refl _ _)).thermal rfl
@[simp] theorem setBit_pio (s : State) (f : Fld) (i : Nat) : (s.setBit f i).pio = s.pio :=
  (setBit_same (m := 144) (s0 := s) rfl (Same.refl _ _)).pio rfl
@[simp] theorem setBit_usher (s : State) (f : Fld) (i : Nat) : (s.setBit f i).usher = s.usher :=
  (setBit_same (m := 144) (s0 := s) rfl (Same.refl _ _)).usher rfl
@[simp] theorem setBit_store (s : State) (f : Fld) (i : Nat) : (s.setBit f i).store = s.store :=
  (setBit_same (m := 144) (s0 := s) rfl (Same.refl _ _)).store rfl
@[simp] theorem setBit_storeBad (s : State) (f : Fld) (i : Nat) : (s.setBit f i).storeBad = s.storeBad :=
  (setBit_same (m := 144) (s0 := s) rfl (Same.refl _ _)).storeBad rfl
@[simp] theorem setBit_archive (s : State) (f : Fld) (i : Nat) : (s.setBit f i).archive = s.archive :=
  (setBit_same (m := 144) (s0 := s) rfl (Same.refl _ _)).archive rfl
@[simp] theorem setBit_archiveBad (s : State) (f : Fld) (i : Nat) : (s.setBit f i).archiveBad = s.archiveBad :=
  (setBit_same (m := 144) (s0 := s) rfl (Same.refl _ _)).archiveBad rfl
@[simp] theorem setBit_wear (s : State) (f : Fld) (i : Nat) : (s.setBit f i).wear = s.wear :=
  (setBit_same (m := 144) (s0 := s) rfl (Same.refl _ _)).wear rfl
@[simp] theorem setBit_rollback (s : State) (f : Fld) (i : Nat) : (s.setBit f i).rollback = s.rollback :=
  (setBit_same (m := 144) (s0 := s) rfl (Same.refl _ _)).rollback rfl
@[simp] theorem setBit_time (s : State) (f : Fld) (i : Nat) : (s.setBit f i).time = s.time := congrArg Newel.time (setBit_newel s f i)

@[simp] theorem clearBit_pending (s : State) (f : Fld) (i : Nat) : (s.clearBit f i).pending = s.pending :=
  (clearBit_same (m := 16) (s0 := s) rfl (Same.refl _ _)).pending rfl
@[simp] theorem clearBit_agenda (s : State) (f : Fld) (i : Nat) : (s.clearBit f i).agenda = s.agenda :=
  (clearBit_same (m := 16) (s0 := s) rfl (Same.refl _ _)).agenda rfl
@[simp] theorem clearBit_now (s : State) (f : Fld) (i : Nat) : (s.clearBit f i).now = s.now :=
  (clearBit_same (m := 16) (s0 := s) rfl (Same.refl _ _)).now rfl
@[simp] theorem clearBit_freeCount (s : State) (f : Fld) (i : Nat) : (s.clearBit f i).freeCount = s.freeCount :=
  (clearBit_same (m := 16) (s0 := s) rfl (Same.refl _ _)).freeCount rfl
@[simp] theorem clearBit_eff (s : State) (f : Fld) (i : Nat) : (s.clearBit f i).eff = s.eff :=
  (clearBit_same (m := 16) (s0 := s) rfl (Same.refl _ _)).eff rfl
@[simp] theorem clearBit_late (s : State) (f : Fld) (i : Nat) : (s.clearBit f i).late = s.late :=
  (clearBit_same (m := 16) (s0 := s) rfl (Same.refl _ _)).late rfl
@[simp] theorem clearBit_moment (s : State) (f : Fld) (i : Nat) : (s.clearBit f i).moment = s.moment :=
  (clearBit_same (m := 16) (s0 := s) rfl (Same.refl _ _)).moment rfl
@[simp] theorem clearBit_newel (s : State) (f : Fld) (i : Nat) : (s.clearBit f i).newel = s.newel :=
  (clearBit_same (m := 16) (s0 := s) rfl (Same.refl _ _)).newel rfl
@[simp] theorem clearBit_boot (s : State) (f : Fld) (i : Nat) : (s.clearBit f i).boot = s.boot :=
  (clearBit_same (m := 16) (s0 := s) rfl (Same.refl _ _)).boot rfl
@[simp] theorem clearBit_stair (s : State) (f : Fld) (i : Nat) : (s.clearBit f i).stair = s.stair :=
  (clearBit_same (m := 16) (s0 := s) rfl (Same.refl _ _)).stair rfl
@[simp] theorem clearBit_pcie (s : State) (f : Fld) (i : Nat) : (s.clearBit f i).pcie = s.pcie :=
  (clearBit_same (m := 16) (s0 := s) rfl (Same.refl _ _)).pcie rfl
@[simp] theorem clearBit_strobes (s : State) (f : Fld) (i : Nat) : (s.clearBit f i).strobes = s.strobes :=
  (clearBit_same (m := 16) (s0 := s) rfl (Same.refl _ _)).strobes rfl
@[simp] theorem clearBit_isets (s : State) (f : Fld) (i : Nat) : (s.clearBit f i).isets = s.isets :=
  (clearBit_same (m := 16) (s0 := s) rfl (Same.refl _ _)).isets rfl
@[simp] theorem clearBit_mons (s : State) (f : Fld) (i : Nat) : (s.clearBit f i).mons = s.mons :=
  (clearBit_same (m := 16) (s0 := s) rfl (Same.refl _ _)).mons rfl
@[simp] theorem clearBit_stream (s : State) (f : Fld) (i : Nat) : (s.clearBit f i).stream = s.stream :=
  (clearBit_same (m := 16) (s0 := s) rfl (Same.refl _ _)).stream rfl
@[simp] theorem clearBit_cams (s : State) (f : Fld) (i : Nat) : (s.clearBit f i).cams = s.cams :=
  (clearBit_same (m := 16) (s0 := s) rfl (Same.refl _ _)).cams rfl
@[simp] theorem clearBit_placed (s : State) (f : Fld) (i : Nat) : (s.clearBit f i).placed = s.placed :=
  (clearBit_same (m := 16) (s0 := s) rfl (Same.refl _ _)).placed rfl
@[simp] theorem clearBit_notices (s : State) (f : Fld) (i : Nat) : (s.clearBit f i).notices = s.notices :=
  (clearBit_same (m := 16) (s0 := s) rfl (Same.refl _ _)).notices rfl
@[simp] theorem clearBit_hall (s : State) (f : Fld) (i : Nat) : (s.clearBit f i).hall = s.hall :=
  (clearBit_same (m := 16) (s0 := s) rfl (Same.refl _ _)).hall rfl
@[simp] theorem clearBit_ports (s : State) (f : Fld) (i : Nat) : (s.clearBit f i).ports = s.ports :=
  (clearBit_same (m := 16) (s0 := s) rfl (Same.refl _ _)).ports rfl
@[simp] theorem clearBit_pipes (s : State) (f : Fld) (i : Nat) : (s.clearBit f i).pipes = s.pipes :=
  (clearBit_same (m := 16) (s0 := s) rfl (Same.refl _ _)).pipes rfl
@[simp] theorem clearBit_joins (s : State) (f : Fld) (i : Nat) : (s.clearBit f i).joins = s.joins :=
  (clearBit_same (m := 16) (s0 := s) rfl (Same.refl _ _)).joins rfl
@[simp] theorem clearBit_planner (s : State) (f : Fld) (i : Nat) : (s.clearBit f i).planner = s.planner :=
  (clearBit_same (m := 16) (s0 := s) rfl (Same.refl _ _)).planner rfl
@[simp] theorem clearBit_link (s : State) (f : Fld) (i : Nat) : (s.clearBit f i).link = s.link :=
  (clearBit_same (m := 16) (s0 := s) rfl (Same.refl _ _)).link rfl
@[simp] theorem clearBit_stations (s : State) (f : Fld) (i : Nat) : (s.clearBit f i).stations = s.stations :=
  (clearBit_same (m := 16) (s0 := s) rfl (Same.refl _ _)).stations rfl
@[simp] theorem clearBit_thermal (s : State) (f : Fld) (i : Nat) : (s.clearBit f i).thermal = s.thermal :=
  (clearBit_same (m := 16) (s0 := s) rfl (Same.refl _ _)).thermal rfl
@[simp] theorem clearBit_pio (s : State) (f : Fld) (i : Nat) : (s.clearBit f i).pio = s.pio :=
  (clearBit_same (m := 16) (s0 := s) rfl (Same.refl _ _)).pio rfl
@[simp] theorem clearBit_usher (s : State) (f : Fld) (i : Nat) : (s.clearBit f i).usher = s.usher :=
  (clearBit_same (m := 16) (s0 := s) rfl (Same.refl _ _)).usher rfl
@[simp] theorem clearBit_store (s : State) (f : Fld) (i : Nat) : (s.clearBit f i).store = s.store :=
  (clearBit_same (m := 16) (s0 := s) rfl (Same.refl _ _)).store rfl
@[simp] theorem clearBit_storeBad (s : State) (f : Fld) (i : Nat) : (s.clearBit f i).storeBad = s.storeBad :=
  (clearBit_same (m := 16) (s0 := s) rfl (Same.refl _ _)).storeBad rfl
@[simp] theorem clearBit_archive (s : State) (f : Fld) (i : Nat) : (s.clearBit f i).archive = s.archive :=
  (clearBit_same (m := 16) (s0 := s) rfl (Same.refl _ _)).archive rfl
@[simp] theorem clearBit_archiveBad (s : State) (f : Fld) (i : Nat) : (s.clearBit f i).archiveBad = s.archiveBad :=
  (clearBit_same (m := 16) (s0 := s) rfl (Same.refl _ _)).archiveBad rfl
@[simp] theorem clearBit_wear (s : State) (f : Fld) (i : Nat) : (s.clearBit f i).wear = s.wear :=
  (clearBit_same (m := 16) (s0 := s) rfl (Same.refl _ _)).wear rfl
@[simp] theorem clearBit_rollback (s : State) (f : Fld) (i : Nat) : (s.clearBit f i).rollback = s.rollback :=
  (clearBit_same (m := 16) (s0 := s) rfl (Same.refl _ _)).rollback rfl
@[simp] theorem clearBit_time (s : State) (f : Fld) (i : Nat) : (s.clearBit f i).time = s.time := congrArg Newel.time (clearBit_newel s f i)

@[simp] theorem noticeAt_pending (s : State) (t c u : Nat) (p : List Nat) : (s.noticeAt t c u p).pending = s.pending :=
  (noticeAt_same (m := 262290) (s0 := s) rfl (Same.refl _ _)).pending rfl
@[simp] theorem noticeAt_now (s : State) (t c u : Nat) (p : List Nat) : (s.noticeAt t c u p).now = s.now :=
  (noticeAt_same (m := 262290) (s0 := s) rfl (Same.refl _ _)).now rfl
@[simp] theorem noticeAt_freeCount (s : State) (t c u : Nat) (p : List Nat) : (s.noticeAt t c u p).freeCount = s.freeCount :=
  (noticeAt_same (m := 262290) (s0 := s) rfl (Same.refl _ _)).freeCount rfl
@[simp] theorem noticeAt_eff (s : State) (t c u : Nat) (p : List Nat) : (s.noticeAt t c u p).eff = s.eff :=
  (noticeAt_same (m := 262290) (s0 := s) rfl (Same.refl _ _)).eff rfl
@[simp] theorem noticeAt_late (s : State) (t c u : Nat) (p : List Nat) : (s.noticeAt t c u p).late = s.late :=
  (noticeAt_same (m := 262290) (s0 := s) rfl (Same.refl _ _)).late rfl
@[simp] theorem noticeAt_newel (s : State) (t c u : Nat) (p : List Nat) : (s.noticeAt t c u p).newel = s.newel :=
  (noticeAt_same (m := 262290) (s0 := s) rfl (Same.refl _ _)).newel rfl
@[simp] theorem noticeAt_boot (s : State) (t c u : Nat) (p : List Nat) : (s.noticeAt t c u p).boot = s.boot :=
  (noticeAt_same (m := 262290) (s0 := s) rfl (Same.refl _ _)).boot rfl
@[simp] theorem noticeAt_stair (s : State) (t c u : Nat) (p : List Nat) : (s.noticeAt t c u p).stair = s.stair :=
  (noticeAt_same (m := 262290) (s0 := s) rfl (Same.refl _ _)).stair rfl
@[simp] theorem noticeAt_pcie (s : State) (t c u : Nat) (p : List Nat) : (s.noticeAt t c u p).pcie = s.pcie :=
  (noticeAt_same (m := 262290) (s0 := s) rfl (Same.refl _ _)).pcie rfl
@[simp] theorem noticeAt_strobes (s : State) (t c u : Nat) (p : List Nat) : (s.noticeAt t c u p).strobes = s.strobes :=
  (noticeAt_same (m := 262290) (s0 := s) rfl (Same.refl _ _)).strobes rfl
@[simp] theorem noticeAt_isets (s : State) (t c u : Nat) (p : List Nat) : (s.noticeAt t c u p).isets = s.isets :=
  (noticeAt_same (m := 262290) (s0 := s) rfl (Same.refl _ _)).isets rfl
@[simp] theorem noticeAt_mons (s : State) (t c u : Nat) (p : List Nat) : (s.noticeAt t c u p).mons = s.mons :=
  (noticeAt_same (m := 262290) (s0 := s) rfl (Same.refl _ _)).mons rfl
@[simp] theorem noticeAt_stream (s : State) (t c u : Nat) (p : List Nat) : (s.noticeAt t c u p).stream = s.stream :=
  (noticeAt_same (m := 262290) (s0 := s) rfl (Same.refl _ _)).stream rfl
@[simp] theorem noticeAt_cams (s : State) (t c u : Nat) (p : List Nat) : (s.noticeAt t c u p).cams = s.cams :=
  (noticeAt_same (m := 262290) (s0 := s) rfl (Same.refl _ _)).cams rfl
@[simp] theorem noticeAt_placed (s : State) (t c u : Nat) (p : List Nat) : (s.noticeAt t c u p).placed = s.placed :=
  (noticeAt_same (m := 262290) (s0 := s) rfl (Same.refl _ _)).placed rfl
@[simp] theorem noticeAt_hall (s : State) (t c u : Nat) (p : List Nat) : (s.noticeAt t c u p).hall = s.hall :=
  (noticeAt_same (m := 262290) (s0 := s) rfl (Same.refl _ _)).hall rfl
@[simp] theorem noticeAt_ports (s : State) (t c u : Nat) (p : List Nat) : (s.noticeAt t c u p).ports = s.ports :=
  (noticeAt_same (m := 262290) (s0 := s) rfl (Same.refl _ _)).ports rfl
@[simp] theorem noticeAt_pipes (s : State) (t c u : Nat) (p : List Nat) : (s.noticeAt t c u p).pipes = s.pipes :=
  (noticeAt_same (m := 262290) (s0 := s) rfl (Same.refl _ _)).pipes rfl
@[simp] theorem noticeAt_joins (s : State) (t c u : Nat) (p : List Nat) : (s.noticeAt t c u p).joins = s.joins :=
  (noticeAt_same (m := 262290) (s0 := s) rfl (Same.refl _ _)).joins rfl
@[simp] theorem noticeAt_planner (s : State) (t c u : Nat) (p : List Nat) : (s.noticeAt t c u p).planner = s.planner :=
  (noticeAt_same (m := 262290) (s0 := s) rfl (Same.refl _ _)).planner rfl
@[simp] theorem noticeAt_link (s : State) (t c u : Nat) (p : List Nat) : (s.noticeAt t c u p).link = s.link :=
  (noticeAt_same (m := 262290) (s0 := s) rfl (Same.refl _ _)).link rfl
@[simp] theorem noticeAt_stations (s : State) (t c u : Nat) (p : List Nat) : (s.noticeAt t c u p).stations = s.stations :=
  (noticeAt_same (m := 262290) (s0 := s) rfl (Same.refl _ _)).stations rfl
@[simp] theorem noticeAt_thermal (s : State) (t c u : Nat) (p : List Nat) : (s.noticeAt t c u p).thermal = s.thermal :=
  (noticeAt_same (m := 262290) (s0 := s) rfl (Same.refl _ _)).thermal rfl
@[simp] theorem noticeAt_pio (s : State) (t c u : Nat) (p : List Nat) : (s.noticeAt t c u p).pio = s.pio :=
  (noticeAt_same (m := 262290) (s0 := s) rfl (Same.refl _ _)).pio rfl
@[simp] theorem noticeAt_usher (s : State) (t c u : Nat) (p : List Nat) : (s.noticeAt t c u p).usher = s.usher :=
  (noticeAt_same (m := 262290) (s0 := s) rfl (Same.refl _ _)).usher rfl
@[simp] theorem noticeAt_store (s : State) (t c u : Nat) (p : List Nat) : (s.noticeAt t c u p).store = s.store :=
  (noticeAt_same (m := 262290) (s0 := s) rfl (Same.refl _ _)).store rfl
@[simp] theorem noticeAt_storeBad (s : State) (t c u : Nat) (p : List Nat) : (s.noticeAt t c u p).storeBad = s.storeBad :=
  (noticeAt_same (m := 262290) (s0 := s) rfl (Same.refl _ _)).storeBad rfl
@[simp] theorem noticeAt_archive (s : State) (t c u : Nat) (p : List Nat) : (s.noticeAt t c u p).archive = s.archive :=
  (noticeAt_same (m := 262290) (s0 := s) rfl (Same.refl _ _)).archive rfl
@[simp] theorem noticeAt_archiveBad (s : State) (t c u : Nat) (p : List Nat) : (s.noticeAt t c u p).archiveBad = s.archiveBad :=
  (noticeAt_same (m := 262290) (s0 := s) rfl (Same.refl _ _)).archiveBad rfl
@[simp] theorem noticeAt_wear (s : State) (t c u : Nat) (p : List Nat) : (s.noticeAt t c u p).wear = s.wear :=
  (noticeAt_same (m := 262290) (s0 := s) rfl (Same.refl _ _)).wear rfl
@[simp] theorem noticeAt_rollback (s : State) (t c u : Nat) (p : List Nat) : (s.noticeAt t c u p).rollback = s.rollback :=
  (noticeAt_same (m := 262290) (s0 := s) rfl (Same.refl _ _)).rollback rfl
@[simp] theorem noticeAt_time (s : State) (t c u : Nat) (p : List Nat) : (s.noticeAt t c u p).time = s.time := congrArg Newel.time (noticeAt_newel s t c u p)

@[simp] theorem notice_pending (s : State) (c u : Nat) (p : List Nat) : (s.notice c u p).pending = s.pending :=
  (notice_same (m := 262290) (s0 := s) rfl (Same.refl _ _)).pending rfl
@[simp] theorem notice_now (s : State) (c u : Nat) (p : List Nat) : (s.notice c u p).now = s.now :=
  (notice_same (m := 262290) (s0 := s) rfl (Same.refl _ _)).now rfl
@[simp] theorem notice_freeCount (s : State) (c u : Nat) (p : List Nat) : (s.notice c u p).freeCount = s.freeCount :=
  (notice_same (m := 262290) (s0 := s) rfl (Same.refl _ _)).freeCount rfl
@[simp] theorem notice_eff (s : State) (c u : Nat) (p : List Nat) : (s.notice c u p).eff = s.eff :=
  (notice_same (m := 262290) (s0 := s) rfl (Same.refl _ _)).eff rfl
@[simp] theorem notice_late (s : State) (c u : Nat) (p : List Nat) : (s.notice c u p).late = s.late :=
  (notice_same (m := 262290) (s0 := s) rfl (Same.refl _ _)).late rfl
@[simp] theorem notice_newel (s : State) (c u : Nat) (p : List Nat) : (s.notice c u p).newel = s.newel :=
  (notice_same (m := 262290) (s0 := s) rfl (Same.refl _ _)).newel rfl
@[simp] theorem notice_boot (s : State) (c u : Nat) (p : List Nat) : (s.notice c u p).boot = s.boot :=
  (notice_same (m := 262290) (s0 := s) rfl (Same.refl _ _)).boot rfl
@[simp] theorem notice_stair (s : State) (c u : Nat) (p : List Nat) : (s.notice c u p).stair = s.stair :=
  (notice_same (m := 262290) (s0 := s) rfl (Same.refl _ _)).stair rfl
@[simp] theorem notice_pcie (s : State) (c u : Nat) (p : List Nat) : (s.notice c u p).pcie = s.pcie :=
  (notice_same (m := 262290) (s0 := s) rfl (Same.refl _ _)).pcie rfl
@[simp] theorem notice_strobes (s : State) (c u : Nat) (p : List Nat) : (s.notice c u p).strobes = s.strobes :=
  (notice_same (m := 262290) (s0 := s) rfl (Same.refl _ _)).strobes rfl
@[simp] theorem notice_isets (s : State) (c u : Nat) (p : List Nat) : (s.notice c u p).isets = s.isets :=
  (notice_same (m := 262290) (s0 := s) rfl (Same.refl _ _)).isets rfl
@[simp] theorem notice_mons (s : State) (c u : Nat) (p : List Nat) : (s.notice c u p).mons = s.mons :=
  (notice_same (m := 262290) (s0 := s) rfl (Same.refl _ _)).mons rfl
@[simp] theorem notice_stream (s : State) (c u : Nat) (p : List Nat) : (s.notice c u p).stream = s.stream :=
  (notice_same (m := 262290) (s0 := s) rfl (Same.refl _ _)).stream rfl
@[simp] theorem notice_cams (s : State) (c u : Nat) (p : List Nat) : (s.notice c u p).cams = s.cams :=
  (notice_same (m := 262290) (s0 := s) rfl (Same.refl _ _)).cams rfl
@[simp] theorem notice_placed (s : State) (c u : Nat) (p : List Nat) : (s.notice c u p).placed = s.placed :=
  (notice_same (m := 262290) (s0 := s) rfl (Same.refl _ _)).placed rfl
@[simp] theorem notice_hall (s : State) (c u : Nat) (p : List Nat) : (s.notice c u p).hall = s.hall :=
  (notice_same (m := 262290) (s0 := s) rfl (Same.refl _ _)).hall rfl
@[simp] theorem notice_ports (s : State) (c u : Nat) (p : List Nat) : (s.notice c u p).ports = s.ports :=
  (notice_same (m := 262290) (s0 := s) rfl (Same.refl _ _)).ports rfl
@[simp] theorem notice_pipes (s : State) (c u : Nat) (p : List Nat) : (s.notice c u p).pipes = s.pipes :=
  (notice_same (m := 262290) (s0 := s) rfl (Same.refl _ _)).pipes rfl
@[simp] theorem notice_joins (s : State) (c u : Nat) (p : List Nat) : (s.notice c u p).joins = s.joins :=
  (notice_same (m := 262290) (s0 := s) rfl (Same.refl _ _)).joins rfl
@[simp] theorem notice_planner (s : State) (c u : Nat) (p : List Nat) : (s.notice c u p).planner = s.planner :=
  (notice_same (m := 262290) (s0 := s) rfl (Same.refl _ _)).planner rfl
@[simp] theorem notice_link (s : State) (c u : Nat) (p : List Nat) : (s.notice c u p).link = s.link :=
  (notice_same (m := 262290) (s0 := s) rfl (Same.refl _ _)).link rfl
@[simp] theorem notice_stations (s : State) (c u : Nat) (p : List Nat) : (s.notice c u p).stations = s.stations :=
  (notice_same (m := 262290) (s0 := s) rfl (Same.refl _ _)).stations rfl
@[simp] theorem notice_thermal (s : State) (c u : Nat) (p : List Nat) : (s.notice c u p).thermal = s.thermal :=
  (notice_same (m := 262290) (s0 := s) rfl (Same.refl _ _)).thermal rfl
@[simp] theorem notice_pio (s : State) (c u : Nat) (p : List Nat) : (s.notice c u p).pio = s.pio :=
  (notice_same (m := 262290) (s0 := s) rfl (Same.refl _ _)).pio rfl
@[simp] theorem notice_usher (s : State) (c u : Nat) (p : List Nat) : (s.notice c u p).usher = s.usher :=
  (notice_same (m := 262290) (s0 := s) rfl (Same.refl _ _)).usher rfl
@[simp] theorem notice_store (s : State) (c u : Nat) (p : List Nat) : (s.notice c u p).store = s.store :=
  (notice_same (m := 262290) (s0 := s) rfl (Same.refl _ _)).store rfl
@[simp] theorem notice_storeBad (s : State) (c u : Nat) (p : List Nat) : (s.notice c u p).storeBad = s.storeBad :=
  (notice_same (m := 262290) (s0 := s) rfl (Same.refl _ _)).storeBad rfl
@[simp] theorem notice_archive (s : State) (c u : Nat) (p : List Nat) : (s.notice c u p).archive = s.archive :=
  (notice_same (m := 262290) (s0 := s) rfl (Same.refl _ _)).archive rfl
@[simp] theorem notice_archiveBad (s : State) (c u : Nat) (p : List Nat) : (s.notice c u p).archiveBad = s.archiveBad :=
  (notice_same (m := 262290) (s0 := s) rfl (Same.refl _ _)).archiveBad rfl
@[simp] theorem notice_wear (s : State) (c u : Nat) (p : List Nat) : (s.notice c u p).wear = s.wear :=
  (notice_same (m := 262290) (s0 := s) rfl (Same.refl _ _)).wear rfl
@[simp] theorem notice_rollback (s : State) (c u : Nat) (p : List Nat) : (s.notice c u p).rollback = s.rollback :=
  (notice_same (m := 262290) (s0 := s) rfl (Same.refl _ _)).rollback rfl
@[simp] theorem notice_time (s : State) (c u : Nat) (p : List Nat) : (s.notice c u p).time = s.time := congrArg Newel.time (notice_newel s c u p)

@[simp] theorem sticky_pending (s : State) (f : Fld) (i c u : Nat) (p : List Nat) : (s.sticky f i c u p).pending = s.pending :=
  (sticky_same (m := 262290) (s0 := s) rfl (Same.refl _ _)).pending rfl
@[simp] theorem sticky_now (s : State) (f : Fld) (i c u : Nat) (p : List Nat) : (s.sticky f i c u p).now = s.now :=
  (sticky_same (m := 262290) (s0 := s) rfl (Same.refl _ _)).now rfl
@[simp] theorem sticky_freeCount (s : State) (f : Fld) (i c u : Nat) (p : List Nat) : (s.sticky f i c u p).freeCount = s.freeCount :=
  (sticky_same (m := 262290) (s0 := s) rfl (Same.refl _ _)).freeCount rfl
@[simp] theorem sticky_eff (s : State) (f : Fld) (i c u : Nat) (p : List Nat) : (s.sticky f i c u p).eff = s.eff :=
  (sticky_same (m := 262290) (s0 := s) rfl (Same.refl _ _)).eff rfl
@[simp] theorem sticky_late (s : State) (f : Fld) (i c u : Nat) (p : List Nat) : (s.sticky f i c u p).late = s.late :=
  (sticky_same (m := 262290) (s0 := s) rfl (Same.refl _ _)).late rfl
@[simp] theorem sticky_newel (s : State) (f : Fld) (i c u : Nat) (p : List Nat) : (s.sticky f i c u p).newel = s.newel :=
  (sticky_same (m := 262290) (s0 := s) rfl (Same.refl _ _)).newel rfl
@[simp] theorem sticky_boot (s : State) (f : Fld) (i c u : Nat) (p : List Nat) : (s.sticky f i c u p).boot = s.boot :=
  (sticky_same (m := 262290) (s0 := s) rfl (Same.refl _ _)).boot rfl
@[simp] theorem sticky_stair (s : State) (f : Fld) (i c u : Nat) (p : List Nat) : (s.sticky f i c u p).stair = s.stair :=
  (sticky_same (m := 262290) (s0 := s) rfl (Same.refl _ _)).stair rfl
@[simp] theorem sticky_pcie (s : State) (f : Fld) (i c u : Nat) (p : List Nat) : (s.sticky f i c u p).pcie = s.pcie :=
  (sticky_same (m := 262290) (s0 := s) rfl (Same.refl _ _)).pcie rfl
@[simp] theorem sticky_strobes (s : State) (f : Fld) (i c u : Nat) (p : List Nat) : (s.sticky f i c u p).strobes = s.strobes :=
  (sticky_same (m := 262290) (s0 := s) rfl (Same.refl _ _)).strobes rfl
@[simp] theorem sticky_isets (s : State) (f : Fld) (i c u : Nat) (p : List Nat) : (s.sticky f i c u p).isets = s.isets :=
  (sticky_same (m := 262290) (s0 := s) rfl (Same.refl _ _)).isets rfl
@[simp] theorem sticky_mons (s : State) (f : Fld) (i c u : Nat) (p : List Nat) : (s.sticky f i c u p).mons = s.mons :=
  (sticky_same (m := 262290) (s0 := s) rfl (Same.refl _ _)).mons rfl
@[simp] theorem sticky_stream (s : State) (f : Fld) (i c u : Nat) (p : List Nat) : (s.sticky f i c u p).stream = s.stream :=
  (sticky_same (m := 262290) (s0 := s) rfl (Same.refl _ _)).stream rfl
@[simp] theorem sticky_cams (s : State) (f : Fld) (i c u : Nat) (p : List Nat) : (s.sticky f i c u p).cams = s.cams :=
  (sticky_same (m := 262290) (s0 := s) rfl (Same.refl _ _)).cams rfl
@[simp] theorem sticky_placed (s : State) (f : Fld) (i c u : Nat) (p : List Nat) : (s.sticky f i c u p).placed = s.placed :=
  (sticky_same (m := 262290) (s0 := s) rfl (Same.refl _ _)).placed rfl
@[simp] theorem sticky_hall (s : State) (f : Fld) (i c u : Nat) (p : List Nat) : (s.sticky f i c u p).hall = s.hall :=
  (sticky_same (m := 262290) (s0 := s) rfl (Same.refl _ _)).hall rfl
@[simp] theorem sticky_ports (s : State) (f : Fld) (i c u : Nat) (p : List Nat) : (s.sticky f i c u p).ports = s.ports :=
  (sticky_same (m := 262290) (s0 := s) rfl (Same.refl _ _)).ports rfl
@[simp] theorem sticky_pipes (s : State) (f : Fld) (i c u : Nat) (p : List Nat) : (s.sticky f i c u p).pipes = s.pipes :=
  (sticky_same (m := 262290) (s0 := s) rfl (Same.refl _ _)).pipes rfl
@[simp] theorem sticky_joins (s : State) (f : Fld) (i c u : Nat) (p : List Nat) : (s.sticky f i c u p).joins = s.joins :=
  (sticky_same (m := 262290) (s0 := s) rfl (Same.refl _ _)).joins rfl
@[simp] theorem sticky_planner (s : State) (f : Fld) (i c u : Nat) (p : List Nat) : (s.sticky f i c u p).planner = s.planner :=
  (sticky_same (m := 262290) (s0 := s) rfl (Same.refl _ _)).planner rfl
@[simp] theorem sticky_link (s : State) (f : Fld) (i c u : Nat) (p : List Nat) : (s.sticky f i c u p).link = s.link :=
  (sticky_same (m := 262290) (s0 := s) rfl (Same.refl _ _)).link rfl
@[simp] theorem sticky_stations (s : State) (f : Fld) (i c u : Nat) (p : List Nat) : (s.sticky f i c u p).stations = s.stations :=
  (sticky_same (m := 262290) (s0 := s) rfl (Same.refl _ _)).stations rfl
@[simp] theorem sticky_thermal (s : State) (f : Fld) (i c u : Nat) (p : List Nat) : (s.sticky f i c u p).thermal = s.thermal :=
  (sticky_same (m := 262290) (s0 := s) rfl (Same.refl _ _)).thermal rfl
@[simp] theorem sticky_pio (s : State) (f : Fld) (i c u : Nat) (p : List Nat) : (s.sticky f i c u p).pio = s.pio :=
  (sticky_same (m := 262290) (s0 := s) rfl (Same.refl _ _)).pio rfl
@[simp] theorem sticky_usher (s : State) (f : Fld) (i c u : Nat) (p : List Nat) : (s.sticky f i c u p).usher = s.usher :=
  (sticky_same (m := 262290) (s0 := s) rfl (Same.refl _ _)).usher rfl
@[simp] theorem sticky_store (s : State) (f : Fld) (i c u : Nat) (p : List Nat) : (s.sticky f i c u p).store = s.store :=
  (sticky_same (m := 262290) (s0 := s) rfl (Same.refl _ _)).store rfl
@[simp] theorem sticky_storeBad (s : State) (f : Fld) (i c u : Nat) (p : List Nat) : (s.sticky f i c u p).storeBad = s.storeBad :=
  (sticky_same (m := 262290) (s0 := s) rfl (Same.refl _ _)).storeBad rfl
@[simp] theorem sticky_archive (s : State) (f : Fld) (i c u : Nat) (p : List Nat) : (s.sticky f i c u p).archive = s.archive :=
  (sticky_same (m := 262290) (s0 := s) rfl (Same.refl _ _)).archive rfl
@[simp] theorem sticky_archiveBad (s : State) (f : Fld) (i c u : Nat) (p : List Nat) : (s.sticky f i c u p).archiveBad = s.archiveBad :=
  (sticky_same (m := 262290) (s0 := s) rfl (Same.refl _ _)).archiveBad rfl
@[simp] theorem sticky_wear (s : State) (f : Fld) (i c u : Nat) (p : List Nat) : (s.sticky f i c u p).wear = s.wear :=
  (sticky_same (m := 262290) (s0 := s) rfl (Same.refl _ _)).wear rfl
@[simp] theorem sticky_rollback (s : State) (f : Fld) (i c u : Nat) (p : List Nat) : (s.sticky f i c u p).rollback = s.rollback :=
  (sticky_same (m := 262290) (s0 := s) rfl (Same.refl _ _)).rollback rfl
@[simp] theorem sticky_time (s : State) (f : Fld) (i c u : Nat) (p : List Nat) : (s.sticky f i c u p).time = s.time := congrArg Newel.time (sticky_newel s f i c u p)

@[simp] theorem free_pending (s : State) (n : Nat) : (s.free n).2.pending = s.pending :=
  (free_same (m := 8) (s0 := s) rfl (Same.refl _ _)).pending rfl
@[simp] theorem free_agenda (s : State) (n : Nat) : (s.free n).2.agenda = s.agenda :=
  (free_same (m := 8) (s0 := s) rfl (Same.refl _ _)).agenda rfl
@[simp] theorem free_now (s : State) (n : Nat) : (s.free n).2.now = s.now :=
  (free_same (m := 8) (s0 := s) rfl (Same.refl _ _)).now rfl
@[simp] theorem free_regs (s : State) (n : Nat) : (s.free n).2.regs = s.regs :=
  (free_same (m := 8) (s0 := s) rfl (Same.refl _ _)).regs rfl
@[simp] theorem free_eff (s : State) (n : Nat) : (s.free n).2.eff = s.eff :=
  (free_same (m := 8) (s0 := s) rfl (Same.refl _ _)).eff rfl
@[simp] theorem free_late (s : State) (n : Nat) : (s.free n).2.late = s.late :=
  (free_same (m := 8) (s0 := s) rfl (Same.refl _ _)).late rfl
@[simp] theorem free_moment (s : State) (n : Nat) : (s.free n).2.moment = s.moment :=
  (free_same (m := 8) (s0 := s) rfl (Same.refl _ _)).moment rfl
@[simp] theorem free_newel (s : State) (n : Nat) : (s.free n).2.newel = s.newel :=
  (free_same (m := 8) (s0 := s) rfl (Same.refl _ _)).newel rfl
@[simp] theorem free_boot (s : State) (n : Nat) : (s.free n).2.boot = s.boot :=
  (free_same (m := 8) (s0 := s) rfl (Same.refl _ _)).boot rfl
@[simp] theorem free_stair (s : State) (n : Nat) : (s.free n).2.stair = s.stair :=
  (free_same (m := 8) (s0 := s) rfl (Same.refl _ _)).stair rfl
@[simp] theorem free_pcie (s : State) (n : Nat) : (s.free n).2.pcie = s.pcie :=
  (free_same (m := 8) (s0 := s) rfl (Same.refl _ _)).pcie rfl
@[simp] theorem free_strobes (s : State) (n : Nat) : (s.free n).2.strobes = s.strobes :=
  (free_same (m := 8) (s0 := s) rfl (Same.refl _ _)).strobes rfl
@[simp] theorem free_isets (s : State) (n : Nat) : (s.free n).2.isets = s.isets :=
  (free_same (m := 8) (s0 := s) rfl (Same.refl _ _)).isets rfl
@[simp] theorem free_mons (s : State) (n : Nat) : (s.free n).2.mons = s.mons :=
  (free_same (m := 8) (s0 := s) rfl (Same.refl _ _)).mons rfl
@[simp] theorem free_stream (s : State) (n : Nat) : (s.free n).2.stream = s.stream :=
  (free_same (m := 8) (s0 := s) rfl (Same.refl _ _)).stream rfl
@[simp] theorem free_cams (s : State) (n : Nat) : (s.free n).2.cams = s.cams :=
  (free_same (m := 8) (s0 := s) rfl (Same.refl _ _)).cams rfl
@[simp] theorem free_placed (s : State) (n : Nat) : (s.free n).2.placed = s.placed :=
  (free_same (m := 8) (s0 := s) rfl (Same.refl _ _)).placed rfl
@[simp] theorem free_notices (s : State) (n : Nat) : (s.free n).2.notices = s.notices :=
  (free_same (m := 8) (s0 := s) rfl (Same.refl _ _)).notices rfl
@[simp] theorem free_hall (s : State) (n : Nat) : (s.free n).2.hall = s.hall :=
  (free_same (m := 8) (s0 := s) rfl (Same.refl _ _)).hall rfl
@[simp] theorem free_ports (s : State) (n : Nat) : (s.free n).2.ports = s.ports :=
  (free_same (m := 8) (s0 := s) rfl (Same.refl _ _)).ports rfl
@[simp] theorem free_pipes (s : State) (n : Nat) : (s.free n).2.pipes = s.pipes :=
  (free_same (m := 8) (s0 := s) rfl (Same.refl _ _)).pipes rfl
@[simp] theorem free_joins (s : State) (n : Nat) : (s.free n).2.joins = s.joins :=
  (free_same (m := 8) (s0 := s) rfl (Same.refl _ _)).joins rfl
@[simp] theorem free_planner (s : State) (n : Nat) : (s.free n).2.planner = s.planner :=
  (free_same (m := 8) (s0 := s) rfl (Same.refl _ _)).planner rfl
@[simp] theorem free_link (s : State) (n : Nat) : (s.free n).2.link = s.link :=
  (free_same (m := 8) (s0 := s) rfl (Same.refl _ _)).link rfl
@[simp] theorem free_stations (s : State) (n : Nat) : (s.free n).2.stations = s.stations :=
  (free_same (m := 8) (s0 := s) rfl (Same.refl _ _)).stations rfl
@[simp] theorem free_thermal (s : State) (n : Nat) : (s.free n).2.thermal = s.thermal :=
  (free_same (m := 8) (s0 := s) rfl (Same.refl _ _)).thermal rfl
@[simp] theorem free_pio (s : State) (n : Nat) : (s.free n).2.pio = s.pio :=
  (free_same (m := 8) (s0 := s) rfl (Same.refl _ _)).pio rfl
@[simp] theorem free_usher (s : State) (n : Nat) : (s.free n).2.usher = s.usher :=
  (free_same (m := 8) (s0 := s) rfl (Same.refl _ _)).usher rfl
@[simp] theorem free_store (s : State) (n : Nat) : (s.free n).2.store = s.store :=
  (free_same (m := 8) (s0 := s) rfl (Same.refl _ _)).store rfl
@[simp] theorem free_storeBad (s : State) (n : Nat) : (s.free n).2.storeBad = s.storeBad :=
  (free_same (m := 8) (s0 := s) rfl (Same.refl _ _)).storeBad rfl
@[simp] theorem free_archive (s : State) (n : Nat) : (s.free n).2.archive = s.archive :=
  (free_same (m := 8) (s0 := s) rfl (Same.refl _ _)).archive rfl
@[simp] theorem free_archiveBad (s : State) (n : Nat) : (s.free n).2.archiveBad = s.archiveBad :=
  (free_same (m := 8) (s0 := s) rfl (Same.refl _ _)).archiveBad rfl
@[simp] theorem free_wear (s : State) (n : Nat) : (s.free n).2.wear = s.wear :=
  (free_same (m := 8) (s0 := s) rfl (Same.refl _ _)).wear rfl
@[simp] theorem free_rollback (s : State) (n : Nat) : (s.free n).2.rollback = s.rollback :=
  (free_same (m := 8) (s0 := s) rfl (Same.refl _ _)).rollback rfl
@[simp] theorem free_g (s : State) (n : Nat) (g : Fld) : (s.free n).2.g g = s.g g := rfl
@[simp] theorem free_time (s : State) (n : Nat) : (s.free n).2.time = s.time := congrArg Newel.time (free_newel s n)

/-! ### Either of two states -/

@[simp] theorem ite_pending (c : Prop) [Decidable c] (s t : State) : (if c then s else t).pending = if c then s.pending else t.pending := apply_ite _ _ _ _
@[simp] theorem ite_agenda (c : Prop) [Decidable c] (s t : State) : (if c then s else t).agenda = if c then s.agenda else t.agenda := apply_ite _ _ _ _
@[simp] theorem ite_now (c : Prop) [Decidable c] (s t : State) : (if c then s else t).now = if c then s.now else t.now := apply_ite _ _ _ _
@[simp] theorem ite_freeCount (c : Prop) [Decidable c] (s t : State) : (if c then s else t).freeCount = if c then s.freeCount else t.freeCount := apply_ite _ _ _ _
@[simp] theorem ite_regs (c : Prop) [Decidable c] (s t : State) : (if c then s else t).regs = if c then s.regs else t.regs := apply_ite _ _ _ _
@[simp] theorem ite_eff (c : Prop) [Decidable c] (s t : State) : (if c then s else t).eff = if c then s.eff else t.eff := apply_ite _ _ _ _
@[simp] theorem ite_late (c : Prop) [Decidable c] (s t : State) : (if c then s else t).late = if c then s.late else t.late := apply_ite _ _ _ _
@[simp] theorem ite_moment (c : Prop) [Decidable c] (s t : State) : (if c then s else t).moment = if c then s.moment else t.moment := apply_ite _ _ _ _
@[simp] theorem ite_newel (c : Prop) [Decidable c] (s t : State) : (if c then s else t).newel = if c then s.newel else t.newel := apply_ite _ _ _ _
@[simp] theorem ite_boot (c : Prop) [Decidable c] (s t : State) : (if c then s else t).boot = if c then s.boot else t.boot := apply_ite _ _ _ _
@[simp] theorem ite_stair (c : Prop) [Decidable c] (s t : State) : (if c then s else t).stair = if c then s.stair else t.stair := apply_ite _ _ _ _
@[simp] theorem ite_pcie (c : Prop) [Decidable c] (s t : State) : (if c then s else t).pcie = if c then s.pcie else t.pcie := apply_ite _ _ _ _
@[simp] theorem ite_strobes (c : Prop) [Decidable c] (s t : State) : (if c then s else t).strobes = if c then s.strobes else t.strobes := apply_ite _ _ _ _
@[simp] theorem ite_isets (c : Prop) [Decidable c] (s t : State) : (if c then s else t).isets = if c then s.isets else t.isets := apply_ite _ _ _ _
@[simp] theorem ite_mons (c : Prop) [Decidable c] (s t : State) : (if c then s else t).mons = if c then s.mons else t.mons := apply_ite _ _ _ _
@[simp] theorem ite_stream (c : Prop) [Decidable c] (s t : State) : (if c then s else t).stream = if c then s.stream else t.stream := apply_ite _ _ _ _
@[simp] theorem ite_cams (c : Prop) [Decidable c] (s t : State) : (if c then s else t).cams = if c then s.cams else t.cams := apply_ite _ _ _ _
@[simp] theorem ite_placed (c : Prop) [Decidable c] (s t : State) : (if c then s else t).placed = if c then s.placed else t.placed := apply_ite _ _ _ _
@[simp] theorem ite_notices (c : Prop) [Decidable c] (s t : State) : (if c then s else t).notices = if c then s.notices else t.notices := apply_ite _ _ _ _
@[simp] theorem ite_hall (c : Prop) [Decidable c] (s t : State) : (if c then s else t).hall = if c then s.hall else t.hall := apply_ite _ _ _ _
@[simp] theorem ite_ports (c : Prop) [Decidable c] (s t : State) : (if c then s else t).ports = if c then s.ports else t.ports := apply_ite _ _ _ _
@[simp] theorem ite_pipes (c : Prop) [Decidable c] (s t : State) : (if c then s else t).pipes = if c then s.pipes else t.pipes := apply_ite _ _ _ _
@[simp] theorem ite_joins (c : Prop) [Decidable c] (s t : State) : (if c then s else t).joins = if c then s.joins else t.joins := apply_ite _ _ _ _
@[simp] theorem ite_planner (c : Prop) [Decidable c] (s t : State) : (if c then s else t).planner = if c then s.planner else t.planner := apply_ite _ _ _ _
@[simp] theorem ite_link (c : Prop) [Decidable c] (s t : State) : (if c then s else t).link = if c then s.link else t.link := apply_ite _ _ _ _
@[simp] theorem ite_stations (c : Prop) [Decidable c] (s t : State) : (if c then s else t).stations = if c then s.stations else t.stations := apply_ite _ _ _ _
@[simp] theorem ite_thermal (c : Prop) [Decidable c] (s t : State) : (if c then s else t).thermal = if c then s.thermal else t.thermal := apply_ite _ _ _ _
@[simp] theorem ite_pio (c : Prop) [Decidable c] (s t : State) : (if c then s else t).pio = if c then s.pio else t.pio := apply_ite _ _ _ _
@[simp] theorem ite_usher (c : Prop) [Decidable c] (s t : State) : (if c then s else t).usher = if c then s.usher else t.usher := apply_ite _ _ _ _
@[simp] theorem ite_store (c : Prop) [Decidable c] (s t : State) : (if c then s else t).store = if c then s.store else t.store := apply_ite _ _ _ _
@[simp] theorem ite_storeBad (c : Prop) [Decidable c] (s t : State) : (if c then s else t).storeBad = if c then s.storeBad else t.storeBad := apply_ite _ _ _ _
@[simp] theorem ite_archive (c : Prop) [Decidable c] (s t : State) : (if c then s else t).archive = if c then s.archive else t.archive := apply_ite _ _ _ _
@[simp] theorem ite_archiveBad (c : Prop) [Decidable c] (s t : State) : (if c then s else t).archiveBad = if c then s.archiveBad else t.archiveBad := apply_ite _ _ _ _
@[simp] theorem ite_wear (c : Prop) [Decidable c] (s t : State) : (if c then s else t).wear = if c then s.wear else t.wear := apply_ite _ _ _ _
@[simp] theorem ite_rollback (c : Prop) [Decidable c] (s t : State) : (if c then s else t).rollback = if c then s.rollback else t.rollback := apply_ite _ _ _ _
@[simp] theorem ite_g (c : Prop) [Decidable c] (s t : State) (f : Fld) : (if c then s else t).g f = if c then s.g f else t.g f := by split <;> rfl
@[simp] theorem ite_ctr (c : Prop) [Decidable c] (s t : State) (f : Ctr) : (if c then s else t).ctr f = if c then s.ctr f else t.ctr f := by split <;> rfl
@[simp] theorem ite_getPair (c : Prop) [Decidable c] (s t : State) (f : Nat) : (if c then s else t).getPair f = if c then s.getPair f else t.getPair f := by split <;> rfl
@[simp] theorem ite_time (c : Prop) [Decidable c] (s t : State)  : (if c then s else t).time = if c then s.time else t.time := by split <;> rfl

/-! ### Fields of registers -/

/-- A field reads as it was put. -/
theorem g_put_same (s : State) (f : Fld) (v : Nat) (h : f.lo ≤ f.hi) (k : f.hi ≤ 31) :
    (s.put f v).g f = v % 2 ^ (f.hi + 1 - f.lo) := by
  simp only [State.g, put_regs, Regs.get_set_same]
  exact bitsOf_withBits_same _ _ h k

/-- A field of another register reads as before. -/
theorem g_put_off (s : State) (f e : Fld) (v : Nat) (h : e.off ≠ f.off) : (s.put f v).g e = s.g e := by
  simp only [State.g, put_regs, Regs.get_set_other _ _ h]

/-- A field of the same register that lies above or below reads as before. -/
theorem g_put_apart (s : State) (f e : Fld) (v : Nat) (h : f.lo ≤ f.hi) (k : f.hi ≤ 31) (d : f.hi < e.lo ∨ e.hi < f.lo) :
    (s.put f v).g e = s.g e := by
  by_cases ho : e.off = f.off
  · simp only [State.g, put_regs, ho, Regs.get_set_same]
    rcases d with d | d
    · exact bitsOf_withBits_above _ _ h k d
    · exact bitsOf_withBits_below _ _ h k d
  · exact g_put_off s f e v ho

/-- A register of the file after `put`: only the register of the field differs. -/
theorem put_get (s : State) (f : Fld) (v : Nat) {o : Nat} (h : o ≠ f.off) : (s.put f v).regs.get o = s.regs.get o :=
  Regs.get_set_other _ _ h

theorem setReg_get (s : State) (p : Nat) (w : Word) {o : Nat} (h : o ≠ p) : (s.setReg p w).regs.get o = s.regs.get o :=
  Regs.get_set_other _ _ h

theorem putPair_get (s : State) (p v : Nat) {o : Nat} (h : o ≠ p) (k : o ≠ p + 4) :
    (s.putPair p v).regs.get o = s.regs.get o := by
  simp only [putPair_regs]
  rw [Regs.get_set_other _ _ k, Regs.get_set_other _ _ h]

theorem bumpBy_get (s : State) (c : Ctr) (n : Nat) {o : Nat} (h : o ≠ c.off) : (s.bumpBy c n).regs.get o = s.regs.get o :=
  put_get s ⟨c.off, c.width - 1, 0⟩ _ h

theorem bump_get (s : State) (c : Ctr) {o : Nat} (h : o ≠ c.off) : (s.bump c).regs.get o = s.regs.get o := bumpBy_get s c 1 h

theorem setBit_get (s : State) (f : Fld) (i : Nat) {o : Nat} (h : o ≠ f.off) : (s.setBit f i).regs.get o = s.regs.get o := by
  unfold State.setBit
  split
  · rfl
  · exact put_get s f _ h

theorem clearBit_get (s : State) (f : Fld) (i : Nat) {o : Nat} (h : o ≠ f.off) :
    (s.clearBit f i).regs.get o = s.regs.get o := by
  unfold State.clearBit
  split
  · exact put_get s f _ h
  · rfl

/-- A notice changes no register but the count of notices lost (R504). -/
theorem noticeAt_get (s : State) (t c u : Nat) (p : List Nat) {o : Nat} (h : o ≠ (C.USH_CNT_NQ_LOST (ringOf c)).off) :
    (s.noticeAt t c u p).regs.get o = s.regs.get o := by
  unfold State.noticeAt
  dsimp only
  split
  · rfl
  · rw [bump_get _ _ h]

theorem notice_get (s : State) (c u : Nat) (p : List Nat) {o : Nat} (h : o ≠ (C.USH_CNT_NQ_LOST (ringOf c)).off) :
    (s.notice c u p).regs.get o = s.regs.get o := noticeAt_get s _ c u p h

theorem sticky_get (s : State) (f : Fld) (i c u : Nat) (p : List Nat) {o : Nat} (h : o ≠ f.off)
    (k : o ≠ (C.USH_CNT_NQ_LOST (ringOf c)).off) : (s.sticky f i c u p).regs.get o = s.regs.get o := by
  unfold State.sticky
  dsimp only
  split
  · exact setBit_get s f i h
  · rw [notice_get _ _ _ _ k, setBit_get s f i h]

/-- A counter reads as counted (R26). -/
theorem ctr_bumpBy (s : State) (c : Ctr) (n : Nat) (h : 0 < c.width) (k : c.width ≤ 32) :
    (s.bumpBy c n).ctr c = c.plus (s.ctr c) n % 2 ^ c.width := by
  have := g_put_same s ⟨c.off, c.width - 1, 0⟩ (c.plus (s.ctr c) n) (Nat.zero_le _) (by simp only; omega)
  simp only [Nat.sub_zero, Nat.sub_add_cancel h] at this
  exact this

/-- A counter reads as counted (R26). -/
theorem ctr_bump (s : State) (c : Ctr) (h : 0 < c.width) (k : c.width ≤ 32) : (s.bump c).ctr c = c.plus (s.ctr c) 1 := by
  rw [State.bump, ctr_bumpBy s c 1 h k]
  refine Nat.mod_eq_of_lt ?_
  unfold Ctr.plus
  split
  · have := Nat.two_pow_pos c.width
    omega
  · exact Nat.mod_lt _ (Nat.two_pow_pos _)

/-- A counter as a field. -/
theorem ctr_eq (s : State) (c : Ctr) : s.ctr c = s.g ⟨c.off, c.width - 1, 0⟩ := rfl

theorem g_setReg_off (s : State) (o : Nat) (w : Word) (e : Fld) (h : e.off ≠ o) : (s.setReg o w).g e = s.g e := by
  simp only [State.g, setReg_regs, Regs.get_set_other _ _ h]

theorem g_putPair_off (s : State) (o v : Nat) (e : Fld) (h : e.off ≠ o) (k : e.off ≠ o + 4) :
    (s.putPair o v).g e = s.g e := by
  simp only [State.g, putPair_get s o v h k]

theorem g_bumpBy_off (s : State) (c : Ctr) (n : Nat) (e : Fld) (h : e.off ≠ c.off) : (s.bumpBy c n).g e = s.g e := by
  simp only [State.g, bumpBy_get s c n h]

theorem g_bump_off (s : State) (c : Ctr) (e : Fld) (h : e.off ≠ c.off) : (s.bump c).g e = s.g e := g_bumpBy_off s c 1 e h

theorem g_setBit_off (s : State) (f e : Fld) (i : Nat) (h : e.off ≠ f.off) : (s.setBit f i).g e = s.g e := by
  simp only [State.g, setBit_get s f i h]

theorem g_setBit_apart (s : State) (f e : Fld) (i : Nat) (h : f.lo ≤ f.hi) (k : f.hi ≤ 31)
    (d : f.hi < e.lo ∨ e.hi < f.lo) : (s.setBit f i).g e = s.g e := by
  unfold State.setBit
  split
  · rfl
  · exact g_put_apart s f e _ h k d

/-- A one-bit flag set reads 1. -/
theorem g_setBit_one (s : State) (f : Fld) (h : f.hi = f.lo) (k : f.hi ≤ 31) : (s.setBit f 0).g f = 1 := by
  have lt : s.g f < 2 := by
    have := Nat.mod_lt ((s.regs.get f.off).toNat / 2 ^ f.lo) (Nat.two_pow_pos (f.hi + 1 - f.lo))
    rw [show f.hi + 1 - f.lo = 1 by omega] at this
    simpa [State.g, bitsOf, show f.hi + 1 - f.lo = 1 by omega] using this
  unfold State.setBit
  split
  · rename_i e
    simp only [bitN, Nat.pow_zero, Nat.div_one, beq_iff_eq] at e
    show s.g f = 1
    omega
  · rename_i e
    simp only [bitN, Nat.pow_zero, Nat.div_one, beq_iff_eq] at e
    show (s.put f (s.g f + 1)).g f = 1
    rw [g_put_same s f _ (by omega) k, show f.hi + 1 - f.lo = 1 by omega]
    omega

theorem g_noticeAt_off (s : State) (t c u : Nat) (p : List Nat) (e : Fld)
    (h : e.off ≠ (C.USH_CNT_NQ_LOST (ringOf c)).off) : (s.noticeAt t c u p).g e = s.g e := by
  simp only [State.g, noticeAt_get s t c u p h]

theorem g_notice_off (s : State) (c u : Nat) (p : List Nat) (e : Fld)
    (h : e.off ≠ (C.USH_CNT_NQ_LOST (ringOf c)).off) : (s.notice c u p).g e = s.g e := g_noticeAt_off s _ c u p e h

theorem g_sticky_off (s : State) (f e : Fld) (i c u : Nat) (p : List Nat) (h : e.off ≠ f.off)
    (k : e.off ≠ (C.USH_CNT_NQ_LOST (ringOf c)).off) : (s.sticky f i c u p).g e = s.g e := by
  simp only [State.g, sticky_get s f i c u p h k]

theorem ctr_put_off (s : State) (f : Fld) (v : Nat) (c : Ctr) (h : c.off ≠ f.off) : (s.put f v).ctr c = s.ctr c :=
  g_put_off s f ⟨c.off, c.width - 1, 0⟩ v h

theorem ctr_setReg_off (s : State) (o : Nat) (w : Word) (c : Ctr) (h : c.off ≠ o) : (s.setReg o w).ctr c = s.ctr c :=
  g_setReg_off s o w ⟨c.off, c.width - 1, 0⟩ h

theorem ctr_setBit_off (s : State) (f : Fld) (i : Nat) (c : Ctr) (h : c.off ≠ f.off) : (s.setBit f i).ctr c = s.ctr c :=
  g_setBit_off s f ⟨c.off, c.width - 1, 0⟩ i h

theorem ctr_bump_off (s : State) (d c : Ctr) (h : c.off ≠ d.off) : (s.bump d).ctr c = s.ctr c :=
  g_bump_off s d ⟨c.off, c.width - 1, 0⟩ h

theorem ctr_notice_off (s : State) (k u : Nat) (p : List Nat) (c : Ctr)
    (h : c.off ≠ (C.USH_CNT_NQ_LOST (ringOf k)).off) : (s.notice k u p).ctr c = s.ctr c :=
  g_notice_off s k u p ⟨c.off, c.width - 1, 0⟩ h

theorem ctr_sticky_off (s : State) (f : Fld) (i k u : Nat) (p : List Nat) (c : Ctr) (h : c.off ≠ f.off)
    (k' : c.off ≠ (C.USH_CNT_NQ_LOST (ringOf k)).off) : (s.sticky f i k u p).ctr c = s.ctr c :=
  g_sticky_off s f ⟨c.off, c.width - 1, 0⟩ i k u p h k'

/-- A pair reads as it was written (R599). -/
theorem getPair_putPair (s : State) (o v : Nat) : (s.putPair o v).getPair o = v % 2 ^ 64 := by
  simp only [State.getPair, putPair_regs, Regs.get_set_same, Regs.get_set_other _ _ (show o ≠ o + 4 by omega), lo32, hi32,
    BitVec.toNat_ofNat]
  omega

theorem getPair_put_off (s : State) (f : Fld) (v o : Nat) (h : o ≠ f.off) (k : o + 4 ≠ f.off) :
    (s.put f v).getPair o = s.getPair o := by
  simp only [State.getPair, put_get s f v h, put_get s f v k]

theorem getPair_bump_off (s : State) (c : Ctr) (o : Nat) (h : o ≠ c.off) (k : o + 4 ≠ c.off) :
    (s.bump c).getPair o = s.getPair o := by
  simp only [State.getPair, bump_get s c h, bump_get s c k]

theorem getPair_setBit_off (s : State) (f : Fld) (i o : Nat) (h : o ≠ f.off) (k : o + 4 ≠ f.off) :
    (s.setBit f i).getPair o = s.getPair o := by
  simp only [State.getPair, setBit_get s f i h, setBit_get s f i k]

theorem getPair_notice_off (s : State) (c u : Nat) (p : List Nat) (o : Nat)
    (h : o ≠ (C.USH_CNT_NQ_LOST (ringOf c)).off) (k : o + 4 ≠ (C.USH_CNT_NQ_LOST (ringOf c)).off) :
    (s.notice c u p).getPair o = s.getPair o := by
  simp only [State.getPair, notice_get s c u p h, notice_get s c u p k]

/-- A bit set reads 1. -/
theorem bitN_setBit_lt (v i : Nat) (h : bitN v i = false) : bitN (v + 2 ^ i) i = true := by
  simp only [bitN, beq_eq_false_iff_ne, ne_eq, beq_iff_eq] at *
  rw [Nat.add_div_right _ (Nat.two_pow_pos i)]
  omega

end Sys2Proof.Machine
end

