-- ==== Sys2Proof/Laws/More.lean ====
section
/-! SUPPORT. What larger operations leave as it was, field by field. -/

namespace Sys2Proof.Machine

@[simp] theorem monsRestart_pending (s : State) (t : Nat) : (State.monsRestart s t).pending = s.pending := (monsRestart_same (m := 16386) (s0 := s) rfl (Same.refl _ _)).pending rfl
@[simp] theorem monsRestart_now (s : State) (t : Nat) : (State.monsRestart s t).now = s.now := (monsRestart_same (m := 16386) (s0 := s) rfl (Same.refl _ _)).now rfl
@[simp] theorem monsRestart_freeCount (s : State) (t : Nat) : (State.monsRestart s t).freeCount = s.freeCount := (monsRestart_same (m := 16386) (s0 := s) rfl (Same.refl _ _)).freeCount rfl
@[simp] theorem monsRestart_regs (s : State) (t : Nat) : (State.monsRestart s t).regs = s.regs := (monsRestart_same (m := 16386) (s0 := s) rfl (Same.refl _ _)).regs rfl
@[simp] theorem monsRestart_eff (s : State) (t : Nat) : (State.monsRestart s t).eff = s.eff := (monsRestart_same (m := 16386) (s0 := s) rfl (Same.refl _ _)).eff rfl
@[simp] theorem monsRestart_late (s : State) (t : Nat) : (State.monsRestart s t).late = s.late := (monsRestart_same (m := 16386) (s0 := s) rfl (Same.refl _ _)).late rfl
@[simp] theorem monsRestart_moment (s : State) (t : Nat) : (State.monsRestart s t).moment = s.moment := (monsRestart_same (m := 16386) (s0 := s) rfl (Same.refl _ _)).moment rfl
@[simp] theorem monsRestart_newel (s : State) (t : Nat) : (State.monsRestart s t).newel = s.newel := (monsRestart_same (m := 16386) (s0 := s) rfl (Same.refl _ _)).newel rfl
@[simp] theorem monsRestart_boot (s : State) (t : Nat) : (State.monsRestart s t).boot = s.boot := (monsRestart_same (m := 16386) (s0 := s) rfl (Same.refl _ _)).boot rfl
@[simp] theorem monsRestart_stair (s : State) (t : Nat) : (State.monsRestart s t).stair = s.stair := (monsRestart_same (m := 16386) (s0 := s) rfl (Same.refl _ _)).stair rfl
@[simp] theorem monsRestart_pcie (s : State) (t : Nat) : (State.monsRestart s t).pcie = s.pcie := (monsRestart_same (m := 16386) (s0 := s) rfl (Same.refl _ _)).pcie rfl
@[simp] theorem monsRestart_strobes (s : State) (t : Nat) : (State.monsRestart s t).strobes = s.strobes := (monsRestart_same (m := 16386) (s0 := s) rfl (Same.refl _ _)).strobes rfl
@[simp] theorem monsRestart_isets (s : State) (t : Nat) : (State.monsRestart s t).isets = s.isets := (monsRestart_same (m := 16386) (s0 := s) rfl (Same.refl _ _)).isets rfl
@[simp] theorem monsRestart_stream (s : State) (t : Nat) : (State.monsRestart s t).stream = s.stream := (monsRestart_same (m := 16386) (s0 := s) rfl (Same.refl _ _)).stream rfl
@[simp] theorem monsRestart_cams (s : State) (t : Nat) : (State.monsRestart s t).cams = s.cams := (monsRestart_same (m := 16386) (s0 := s) rfl (Same.refl _ _)).cams rfl
@[simp] theorem monsRestart_placed (s : State) (t : Nat) : (State.monsRestart s t).placed = s.placed := (monsRestart_same (m := 16386) (s0 := s) rfl (Same.refl _ _)).placed rfl
@[simp] theorem monsRestart_notices (s : State) (t : Nat) : (State.monsRestart s t).notices = s.notices := (monsRestart_same (m := 16386) (s0 := s) rfl (Same.refl _ _)).notices rfl
@[simp] theorem monsRestart_hall (s : State) (t : Nat) : (State.monsRestart s t).hall = s.hall := (monsRestart_same (m := 16386) (s0 := s) rfl (Same.refl _ _)).hall rfl
@[simp] theorem monsRestart_ports (s : State) (t : Nat) : (State.monsRestart s t).ports = s.ports := (monsRestart_same (m := 16386) (s0 := s) rfl (Same.refl _ _)).ports rfl
@[simp] theorem monsRestart_pipes (s : State) (t : Nat) : (State.monsRestart s t).pipes = s.pipes := (monsRestart_same (m := 16386) (s0 := s) rfl (Same.refl _ _)).pipes rfl
@[simp] theorem monsRestart_joins (s : State) (t : Nat) : (State.monsRestart s t).joins = s.joins := (monsRestart_same (m := 16386) (s0 := s) rfl (Same.refl _ _)).joins rfl
@[simp] theorem monsRestart_planner (s : State) (t : Nat) : (State.monsRestart s t).planner = s.planner := (monsRestart_same (m := 16386) (s0 := s) rfl (Same.refl _ _)).planner rfl
@[simp] theorem monsRestart_link (s : State) (t : Nat) : (State.monsRestart s t).link = s.link := (monsRestart_same (m := 16386) (s0 := s) rfl (Same.refl _ _)).link rfl
@[simp] theorem monsRestart_stations (s : State) (t : Nat) : (State.monsRestart s t).stations = s.stations := (monsRestart_same (m := 16386) (s0 := s) rfl (Same.refl _ _)).stations rfl
@[simp] theorem monsRestart_thermal (s : State) (t : Nat) : (State.monsRestart s t).thermal = s.thermal := (monsRestart_same (m := 16386) (s0 := s) rfl (Same.refl _ _)).thermal rfl
@[simp] theorem monsRestart_pio (s : State) (t : Nat) : (State.monsRestart s t).pio = s.pio := (monsRestart_same (m := 16386) (s0 := s) rfl (Same.refl _ _)).pio rfl
@[simp] theorem monsRestart_usher (s : State) (t : Nat) : (State.monsRestart s t).usher = s.usher := (monsRestart_same (m := 16386) (s0 := s) rfl (Same.refl _ _)).usher rfl
@[simp] theorem monsRestart_store (s : State) (t : Nat) : (State.monsRestart s t).store = s.store := (monsRestart_same (m := 16386) (s0 := s) rfl (Same.refl _ _)).store rfl
@[simp] theorem monsRestart_storeBad (s : State) (t : Nat) : (State.monsRestart s t).storeBad = s.storeBad := (monsRestart_same (m := 16386) (s0 := s) rfl (Same.refl _ _)).storeBad rfl
@[simp] theorem monsRestart_archive (s : State) (t : Nat) : (State.monsRestart s t).archive = s.archive := (monsRestart_same (m := 16386) (s0 := s) rfl (Same.refl _ _)).archive rfl
@[simp] theorem monsRestart_archiveBad (s : State) (t : Nat) : (State.monsRestart s t).archiveBad = s.archiveBad := (monsRestart_same (m := 16386) (s0 := s) rfl (Same.refl _ _)).archiveBad rfl
@[simp] theorem monsRestart_wear (s : State) (t : Nat) : (State.monsRestart s t).wear = s.wear := (monsRestart_same (m := 16386) (s0 := s) rfl (Same.refl _ _)).wear rfl
@[simp] theorem monsRestart_rollback (s : State) (t : Nat) : (State.monsRestart s t).rollback = s.rollback := (monsRestart_same (m := 16386) (s0 := s) rfl (Same.refl _ _)).rollback rfl
@[simp] theorem monsRestart_g (s : State) (t : Nat) (f : Fld) : (State.monsRestart s t).g f = s.g f := by simp only [State.g, monsRestart_regs]
@[simp] theorem monsRestart_ctr (s : State) (t : Nat) (f : Ctr) : (State.monsRestart s t).ctr f = s.ctr f := by simp only [State.ctr, monsRestart_regs]
@[simp] theorem monsRestart_getPair (s : State) (t : Nat) (o : Nat) : (State.monsRestart s t).getPair o = s.getPair o := by simp only [State.getPair, monsRestart_regs]
@[simp] theorem monsRestart_time (s : State) (t : Nat) : (State.monsRestart s t).time = s.time := by simp only [State.time, monsRestart_newel]

@[simp] theorem filterStart_pending (s : State) (a0 : Nat) (t : Nat) : (State.filterStart s a0 t).pending = s.pending := (filterStart_same (m := 16386) (s0 := s) rfl (Same.refl _ _)).pending rfl
@[simp] theorem filterStart_now (s : State) (a0 : Nat) (t : Nat) : (State.filterStart s a0 t).now = s.now := (filterStart_same (m := 16386) (s0 := s) rfl (Same.refl _ _)).now rfl
@[simp] theorem filterStart_freeCount (s : State) (a0 : Nat) (t : Nat) : (State.filterStart s a0 t).freeCount = s.freeCount := (filterStart_same (m := 16386) (s0 := s) rfl (Same.refl _ _)).freeCount rfl
@[simp] theorem filterStart_regs (s : State) (a0 : Nat) (t : Nat) : (State.filterStart s a0 t).regs = s.regs := (filterStart_same (m := 16386) (s0 := s) rfl (Same.refl _ _)).regs rfl
@[simp] theorem filterStart_eff (s : State) (a0 : Nat) (t : Nat) : (State.filterStart s a0 t).eff = s.eff := (filterStart_same (m := 16386) (s0 := s) rfl (Same.refl _ _)).eff rfl
@[simp] theorem filterStart_late (s : State) (a0 : Nat) (t : Nat) : (State.filterStart s a0 t).late = s.late := (filterStart_same (m := 16386) (s0 := s) rfl (Same.refl _ _)).late rfl
@[simp] theorem filterStart_moment (s : State) (a0 : Nat) (t : Nat) : (State.filterStart s a0 t).moment = s.moment := (filterStart_same (m := 16386) (s0 := s) rfl (Same.refl _ _)).moment rfl
@[simp] theorem filterStart_newel (s : State) (a0 : Nat) (t : Nat) : (State.filterStart s a0 t).newel = s.newel := (filterStart_same (m := 16386) (s0 := s) rfl (Same.refl _ _)).newel rfl
@[simp] theorem filterStart_boot (s : State) (a0 : Nat) (t : Nat) : (State.filterStart s a0 t).boot = s.boot := (filterStart_same (m := 16386) (s0 := s) rfl (Same.refl _ _)).boot rfl
@[simp] theorem filterStart_stair (s : State) (a0 : Nat) (t : Nat) : (State.filterStart s a0 t).stair = s.stair := (filterStart_same (m := 16386) (s0 := s) rfl (Same.refl _ _)).stair rfl
@[simp] theorem filterStart_pcie (s : State) (a0 : Nat) (t : Nat) : (State.filterStart s a0 t).pcie = s.pcie := (filterStart_same (m := 16386) (s0 := s) rfl (Same.refl _ _)).pcie rfl
@[simp] theorem filterStart_strobes (s : State) (a0 : Nat) (t : Nat) : (State.filterStart s a0 t).strobes = s.strobes := (filterStart_same (m := 16386) (s0 := s) rfl (Same.refl _ _)).strobes rfl
@[simp] theorem filterStart_isets (s : State) (a0 : Nat) (t : Nat) : (State.filterStart s a0 t).isets = s.isets := (filterStart_same (m := 16386) (s0 := s) rfl (Same.refl _ _)).isets rfl
@[simp] theorem filterStart_stream (s : State) (a0 : Nat) (t : Nat) : (State.filterStart s a0 t).stream = s.stream := (filterStart_same (m := 16386) (s0 := s) rfl (Same.refl _ _)).stream rfl
@[simp] theorem filterStart_cams (s : State) (a0 : Nat) (t : Nat) : (State.filterStart s a0 t).cams = s.cams := (filterStart_same (m := 16386) (s0 := s) rfl (Same.refl _ _)).cams rfl
@[simp] theorem filterStart_placed (s : State) (a0 : Nat) (t : Nat) : (State.filterStart s a0 t).placed = s.placed := (filterStart_same (m := 16386) (s0 := s) rfl (Same.refl _ _)).placed rfl
@[simp] theorem filterStart_notices (s : State) (a0 : Nat) (t : Nat) : (State.filterStart s a0 t).notices = s.notices := (filterStart_same (m := 16386) (s0 := s) rfl (Same.refl _ _)).notices rfl
@[simp] theorem filterStart_hall (s : State) (a0 : Nat) (t : Nat) : (State.filterStart s a0 t).hall = s.hall := (filterStart_same (m := 16386) (s0 := s) rfl (Same.refl _ _)).hall rfl
@[simp] theorem filterStart_ports (s : State) (a0 : Nat) (t : Nat) : (State.filterStart s a0 t).ports = s.ports := (filterStart_same (m := 16386) (s0 := s) rfl (Same.refl _ _)).ports rfl
@[simp] theorem filterStart_pipes (s : State) (a0 : Nat) (t : Nat) : (State.filterStart s a0 t).pipes = s.pipes := (filterStart_same (m := 16386) (s0 := s) rfl (Same.refl _ _)).pipes rfl
@[simp] theorem filterStart_joins (s : State) (a0 : Nat) (t : Nat) : (State.filterStart s a0 t).joins = s.joins := (filterStart_same (m := 16386) (s0 := s) rfl (Same.refl _ _)).joins rfl
@[simp] theorem filterStart_planner (s : State) (a0 : Nat) (t : Nat) : (State.filterStart s a0 t).planner = s.planner := (filterStart_same (m := 16386) (s0 := s) rfl (Same.refl _ _)).planner rfl
@[simp] theorem filterStart_link (s : State) (a0 : Nat) (t : Nat) : (State.filterStart s a0 t).link = s.link := (filterStart_same (m := 16386) (s0 := s) rfl (Same.refl _ _)).link rfl
@[simp] theorem filterStart_stations (s : State) (a0 : Nat) (t : Nat) : (State.filterStart s a0 t).stations = s.stations := (filterStart_same (m := 16386) (s0 := s) rfl (Same.refl _ _)).stations rfl
@[simp] theorem filterStart_thermal (s : State) (a0 : Nat) (t : Nat) : (State.filterStart s a0 t).thermal = s.thermal := (filterStart_same (m := 16386) (s0 := s) rfl (Same.refl _ _)).thermal rfl
@[simp] theorem filterStart_pio (s : State) (a0 : Nat) (t : Nat) : (State.filterStart s a0 t).pio = s.pio := (filterStart_same (m := 16386) (s0 := s) rfl (Same.refl _ _)).pio rfl
@[simp] theorem filterStart_usher (s : State) (a0 : Nat) (t : Nat) : (State.filterStart s a0 t).usher = s.usher := (filterStart_same (m := 16386) (s0 := s) rfl (Same.refl _ _)).usher rfl
@[simp] theorem filterStart_store (s : State) (a0 : Nat) (t : Nat) : (State.filterStart s a0 t).store = s.store := (filterStart_same (m := 16386) (s0 := s) rfl (Same.refl _ _)).store rfl
@[simp] theorem filterStart_storeBad (s : State) (a0 : Nat) (t : Nat) : (State.filterStart s a0 t).storeBad = s.storeBad := (filterStart_same (m := 16386) (s0 := s) rfl (Same.refl _ _)).storeBad rfl
@[simp] theorem filterStart_archive (s : State) (a0 : Nat) (t : Nat) : (State.filterStart s a0 t).archive = s.archive := (filterStart_same (m := 16386) (s0 := s) rfl (Same.refl _ _)).archive rfl
@[simp] theorem filterStart_archiveBad (s : State) (a0 : Nat) (t : Nat) : (State.filterStart s a0 t).archiveBad = s.archiveBad := (filterStart_same (m := 16386) (s0 := s) rfl (Same.refl _ _)).archiveBad rfl
@[simp] theorem filterStart_wear (s : State) (a0 : Nat) (t : Nat) : (State.filterStart s a0 t).wear = s.wear := (filterStart_same (m := 16386) (s0 := s) rfl (Same.refl _ _)).wear rfl
@[simp] theorem filterStart_rollback (s : State) (a0 : Nat) (t : Nat) : (State.filterStart s a0 t).rollback = s.rollback := (filterStart_same (m := 16386) (s0 := s) rfl (Same.refl _ _)).rollback rfl
@[simp] theorem filterStart_g (s : State) (a0 : Nat) (t : Nat) (f : Fld) : (State.filterStart s a0 t).g f = s.g f := by simp only [State.g, filterStart_regs]
@[simp] theorem filterStart_ctr (s : State) (a0 : Nat) (t : Nat) (f : Ctr) : (State.filterStart s a0 t).ctr f = s.ctr f := by simp only [State.ctr, filterStart_regs]
@[simp] theorem filterStart_getPair (s : State) (a0 : Nat) (t : Nat) (o : Nat) : (State.filterStart s a0 t).getPair o = s.getPair o := by simp only [State.getPair, filterStart_regs]
@[simp] theorem filterStart_time (s : State) (a0 : Nat) (t : Nat) : (State.filterStart s a0 t).time = s.time := by simp only [State.time, filterStart_newel]

end Sys2Proof.Machine
end

