-- ==== Sys2Proof/Machine/Outputs.lean ====
section
/-! DEFINITION. What every output of the head and of a gallery shows on this tick (04_power_up_and_reset.md, R108,
Table 4.2; 13_holot_link.md, R346, R348, Table 13.10; 14_gallery_unit.md, R385, R392, R400). -/

namespace Sys2Proof.Machine

/-- How a digital output stands: high impedance, low through a pull-down, or driven. -/
inductive Pin where
  | released
  | pulledLow
  | driven (level : Bool)
  deriving DecidableEq, Repr

/-- A strobe or FLOW pin with this level: low through its pull-down until the Newel locks, driven after that (Table 4.2). -/
def State.afterNewel (s : State) (level : Bool) : Pin := if s.newel.everLocked then .driven level else .pulledLow

/-- STROBEk and FLOWn (Table 4.2, R408, R472). -/
def State.strobePin (s : State) (k : Nat) : Pin := s.afterNewel (s.strobeLevel k)
def State.flowOut (s : State) (n : Nat) : Pin := s.afterNewel (s.flowPin n)

/-- PIOn: high impedance with a pull-down until an engine drives it (Table 4.2, R441). -/
def State.pioOut (s : State) (n : Nat) : Pin :=
  match ((s.pio.moves.filter fun m => decide (m.1 ≤ s.time) && m.2.1 == n).getLast?.map (·.2.2)).getD (nth s.pio.driven n none) with
  | some b => .driven b
  | none => .pulledLow

/-- XCLKx: low until its port is enabled (Table 4.2, R215, R216). -/
def State.xclkOut (s : State) (x : Nat) : Pin := .driven (s.xclkLevel x)

/-- ISETj: clamped at 0 V before main good; then its code in its range (Table 4.2, R414, R418, R428). -/
inductive Volts where
  | clamped
  | code (v : Nat) (wide : Bool)
  deriving DecidableEq, Repr

def State.isetOut (s : State) (j : Nat) : Volts :=
  if s.boot.powered then .code (s.iset j).code (s.iset j).wide else .clamped

/-- DBG_TDO and the PCIe transmit lanes leave high impedance and electrical idle: a debug access has been made as STRAP3
permits; PERST# is deasserted and the Newel is locked (Table 4.2). -/
def State.tdoActive (s : State) : Bool := s.boot.tdo
def State.pcieActive (s : State) : Bool := s.boot.powered && !s.boot.perst && s.newel.everLocked

/-! ### HOLOT A (R346, R348, R354) -/

/-- The frame or marker on the line on this tick: its start and its characters. -/
def State.onLine (s : State) : Option (Nat × List Sym) :=
  match s.link.echoes.find? fun e => decide (e.2.start ≤ s.time) && decide (s.time < e.2.fin) with
  | some e => some (e.2.start, e.2.syms)
  | none =>
    if s.inCycle && decide (s.time < s.link.start + 3600) then
      some (s.link.start, LinkFrame.syms ⟨5, 0, s.link.start, [s.link.start, s.link.cyc, s.link.nslot, s.link.len / 240]⟩)
    else none

/-- The code group that leaves HOLOT A around this tick, and the boundary at which it began: of a frame, else IDLE; after a
frame of this boundary's the held running disparity is that at its end (R346). -/
def State.groupOut (s : State) : Nat × Nat :=
  let b := s.time - newelTime s.time % 240
  match s.onLine with
  | some (t, l) =>
    let start := s.link.rd != turns l
    (b, nth (encodeSyms start l).1 ((b - t) / 240) 0)
  | none => (b, Sym.idle.group (s.link.rdOn b))

/-- HOLOT A: its driver is off until the link is enabled (Table 4.2); then each bit takes 24 ticks, bit a first (R346,
R348). -/
def State.holotA (s : State) : Pin :=
  if s.linkState = 0 then .released
  else
    let (b, g) := s.groupOut
    .driven (bitN g (9 - (s.time - b) / 24))

/-! ### Galleries -/

/-- OUTn of gallery `g`: the switch of an active pulse is closed, or it is open; a parked output lies at ground through
10 kΩ (R385, R392, Table 4.2). -/
def State.outPin (s : State) (g n : Nat) : Pin :=
  match (s.station g).pulse n with
  | some p => if p.closed then .driven true else .released
  | none => if (s.station g).powered && !(s.station g).isParked then .released else .pulledLow

/-- FIELD_CUT of gallery `g` carries coil current (R400). -/
def State.fieldCut (s : State) (g : Nat) : Bool := (s.station g).powered && (s.station g).g G.cutOn == 1

/-- What a station's transmit port does (Tables 4.2 and 13.10, R141): released; nothing; what it receives repeated, with its
own characters in its places; or wake phrases. -/
inductive PortUse where
  | released
  | silent
  | repeats
  | phrases
  deriving DecidableEq, Repr

def State.stationPort (s : State) (g : Nat) : PortUse :=
  let x := s.station g
  if !x.powered || x.state == 0 then .released
  else if x.phrasing s.now then .phrases
  else if x.state = 1 then .silent
  else .repeats

/-- Code groups that station `g` sends for characters `l` received from HOLOT A's character boundary `b` on: a character
error as ABT, from the station's own running disparity (R346, R380). -/
def State.repeated (s : State) (g b : Nat) (l : List Sym) : List Nat :=
  (encodeSyms (s.link.rdOn b != (s.station g).turned) (relayed l)).1

end Sys2Proof.Machine
end

