-- ==== Sys2Proof/Tests/Slice0.lean ====
section
/-! SUPPORT. Tests: ill-formed commands refused, a few values of the spec's worked examples and tables, and for every
statement that has hypotheses a state and operands that meet them, clause by clause. -/

namespace Sys2Proof.Tests

open Sys2Proof.Machine

set_option Elab.async false

/-! ### Ill-formed commands -/

/-- Each of these breaks one check of `WellFormed` and no other. -/
theorem test_illformed_host_boot :
    (([.registerWrite 0x100000 4 0, .registerWrite 0 0 0, .registerWrite 0 4 0x100000000,
    .configRequest false 4096 0, .configRequest false 0 (2 ^ 32), .bar2Write 0x8000000 [],
    .bar2Read 0x8000000 0 .ok, .pinEdge 40 false, .strapDecodeValid [], .strapLatch [], .softLock (2 ^ 32),
    .resetFull (2 ^ 32), .resetHost (2 ^ 32), .galleryPowerOn 8 (List.replicate 4 0) 0, .galleryPowerOn 0 [] 0,
    .stepRequest (2 ^ 32), .hostWriteWake (2 ^ 32), .wakePhraseEnd 8, .cameraStart 2, .cameraStop 2,
    .setupTick 2, .frameStart 2, .nodeReset 2 0, .nodeReset 0 2, .exposureStart 2 0] : List Instr).any WellFormed) = false := by decide

/-- Each of these breaks one check of `WellFormed` and no other. -/
theorem test_illformed_power_array :
    (([.exposureStart 0 2, .exposureEnd 2 0, .exposureEnd 0 2, .softwareTrigger (2 ^ 32), .readoutStart 2 0 [],
    .readoutStart 0 2 [], .rowPairComplete 2 0, .rowPairComplete 0 2, .portEnable 2, .portDisable 2, .train 2,
    .trainingEnd 2 none, .portRun 2, .portStop 2, .portFrameStart 2, .lineEnd 2 0 [] false, .lineRelease 2,
    .portFrameClose 2, .frameWindowExpiry 2, .eyeWarning 2, .recordIssue 4, .recordComplete 4, .joinUnderrun 2,
    .joinConfigWrite 2 0, .joinConfigWrite 0 (2 ^ 32)] : List Instr).any WellFormed) = false := by decide

/-- Each of these breaks one check of `WellFormed` and no other. -/
theorem test_illformed_ports_ring :
    (([.jetDisable 8 0, .jetDisable 0 (2 ^ 32), .probe 9 ⟨none, 0⟩, .probe 0 ⟨some 8, 0⟩, .hop 9 .intact, .hop 0 (.groups false [1024]), .identRequest 8 1 .intact,
    .identRequest 0 0 .intact, .identRequest 0 9 .intact, .setup 8 .intact, .stationMarker 8 .intact 0, .stationLatch 8,
    .readFrame 8 .intact, .slotMissed 8, .fireDelivery 8, .fireSend 8, .outsetSend 8, .greg (2 ^ 32),
    .fireAccept 8 .intact, .outsetAccept 8 .intact, .regwAccept 8 .intact, .regrAccept 8 .intact,
    .stationParkMissed 8, .alignmentLoss 8 .intact, .fireTick 8, .peakEnd 8 0 none, .peakEnd 0 32 none,
    .pulseEnd 8 0 none] : List Instr).any WellFormed) = false := by decide

/-- Each of these breaks one check of `WellFormed` and no other. -/
theorem test_illformed_galleries :
    (([.pulseEnd 0 32 none, .bankOutOfRange 8 0 0, .bankOutOfRange 0 4 0, .bankInRange 8 0 0, .bankInRange 0 4 0,
    .overcurrent 8 0, .overcurrent 0 32, .forcedOn 8 0, .forcedOn 0 32, .crossFed 8 0 [], .crossFed 0 32 [],
    .crossFed 0 0 [32], .driverHot 8 0, .driverHot 0 32, .cutCoil 8 false, .inputEdge 8 0 false,
    .inputEdge 0 8 false, .strobeEnable 4 false, .strobeWindowOpen 4, .strobeWindowClose 4, .strobeMaxhigh 4,
    .isetCode 4 0, .isetCode 0 (2 ^ 32), .isetUpdate 4, .rangeChange 4] : List Instr).any WellFormed) = false := by decide

/-- Each of these breaks one check of `WellFormed` and no other. -/
theorem test_illformed_outputs_engines :
    (([.deadTimeEnd 4, .monEnable 8, .monSample 8 none, .pioStart (2 ^ 32), .pioStop (2 ^ 32), .goto 16, .count 16,
    .brif 16, .brnot 16, .await 16, .shin 16, .shout 16, .deposit 16, .fetch 16, .copy 16, .put 16,
    .signalRaise 16, .signalLower 16, .illegal 16, .holdEnd 16, .pioTxd 16 0, .pioTxd 0 (2 ^ 32),
    .pioRxpop (2 ^ 32), .pioShflagSet (2 ^ 32), .pioShflagClr (2 ^ 32)] : List Instr).any WellFormed) = false := by decide

/-- Each of these breaks one check of `WellFormed` and no other. -/
theorem test_illformed_hall_usher :
    (([.queueClear 16, .packetOpen 17 .ok, .packetWrite 17 .ok, .writeUnblock 64, .packetClose 17,
    .packetAbandon 17, .packetVisible 64, .packetRead 64 .ok, .queueEnable 64 false, .queueSize 64 0,
    .queueSize 0 (2 ^ 32), .flowMap 8 0, .flowMap 0 (2 ^ 32), .doorbell 16 0, .doorbell 0 (2 ^ 32),
    .recordFetch 16, .fetchReturn 16 none, .waitSatisfied 16, .waitTimeout 16, .valuePoll 16,
    .pollReturn 16 none, .dispatch 12, .taskEnd 12 none 0, .eventAdd 256 0, .eventAdd 0 (2 ^ 32)] : List Instr).any WellFormed) = false := by decide

/-- Each of these breaks one check of `WellFormed` and no other. -/
theorem test_illformed_usher_store :
    (([.ringDisable 16, .resume 16, .headWrite 10 0, .headWrite 0 (2 ^ 32), .noticeRingEnable 2, .noticePost 2,
    .abort (2 ^ 32), .vectorUnmask (some 32), .pcieError 14 [], .deviceReadError 12, .arcRollbackRaise (2 ^ 32),
    .sensorReading 48 0, .baudClockRecovered 8, .receiverAligned ⟨8, .intact⟩, .receiverAligned ⟨0, .groups false [1024]⟩, .logicSupplyLoss 8, .missedCycle 8,
    .chopPeriodStart 8 ⟨0, true⟩, .chopPeriodStart 0 ⟨32, true⟩, .scrub 65 0 .ok] : List Instr).any WellFormed) = false := by decide

/-! ### Values of the worked passes -/

/-- Jets 23 and 24 of the almond's command (01_one_pass.md). -/
theorem test_jet_mask : jetMask [23, 24] = 0x01800000 := by decide

/-- L_min(2) of the pilot enumeration (13_holot_link.md). -/
theorem test_cycle_min : cycleMin 2 = 123 := by decide

/-- Resistors and levels of the pilot strap plan (03_straps_and_balustrade.md). -/
theorem test_strap_plan :
    ([0, 3010, 6190, 11000, 31600].map fun r => strapLevel r strapWindows 0) =
      [(0, false), (1, false), (2, false), (3, false), (5, false)] := by decide

/-- A register holding 0x0004_1000: its bit 18, its field [15:12], its bytes (00_scope.md). -/
theorem test_bits_and_bytes :
    bitN 0x00041000 18 = true ∧ bitsOf 0x00041000 15 12 = 1 ∧ leBytes 0x00041000 4 = [0x00, 0x10, 0x04, 0x00] := by decide

/-- The late test of the almond's command: cycle from T0 + 1,650,000, L of 150,000 (12_ejection_planner.md). -/
theorem test_late_bound : deliverable 2100000 1650000 150000 = true ∧ deliverable 2099999 1650000 150000 = false := by decide

/-- IDLE is K28.5 and MARK K28.0; D21.5 is the same at both running disparities, D7.7 and D17.7 are not (IEEE 802.3 Clause 36;
13_holot_link.md, Table 13.1). -/
theorem test_code_groups :
    Sym.idle.group false = 0b0011111010 ∧ Sym.idle.group true = 0b1100000101 ∧ Sym.mark.group true = 0b1100001011 ∧
      Sym.group false (.data 0xB5) = 0b1010101010 ∧ Sym.group true (.data 0xB5) = 0b1010101010 ∧
      Sym.group false (.data 0xE7) = 0b1110001110 ∧ Sym.group true (.data 0xE7) = 0b0001110001 ∧
      Sym.group false (.data 0xF1) = 0b1000110111 := by decide +kernel

/-- What is sent is read again; a group that stands for no character, or for one of the other running disparity only, is a
character error (13_holot_link.md, R346, R347). -/
theorem test_code_read :
    decodeSyms false (encodeSyms false [.idle, .mark, .sof, .data 0xEF, .eof, .probe, .data 0, .wake, .abt]).1 =
        [.idle, .mark, .sof, .data 0xEF, .eof, .probe, .data 0, .wake, .abt] ∧
      Sym.ofGroup false 0b1111111111 = .error ∧ Sym.ofGroup true 0b0011111010 = .error := by decide +kernel

/-- The CRC over the nine bytes "123456789" (08_companion_ports.md, R228). -/
theorem test_crc : crcBytes [0x31, 0x32, 0x33, 0x34, 0x35, 0x36, 0x37, 0x38, 0x39] = 0x29B1 := by decide +kernel

/-- A FIRE frame is 24 characters long, an IDENT request 7 (13_holot_link.md, Table 13.2). -/
theorem test_frame_lengths :
    (LinkFrame.syms ⟨0, 3, 0, [7, 1, 1000, 8, 50, 3, 0, 0]⟩).length = 24 ∧ (framed (identBytes 4)).length = 7 := by
  decide +kernel

/-! ### States for the witnesses -/

/-- The machine after reset with every register at zero: small enough to compute with. -/
def tZero : State := { State.reset with regs := [], eff := [] }

/-- A record of pipeline 0 that is to be issued at tick 9,000. -/
def tRec : Rec := { pipe := 0, start := 1000, tmB := 2000, node := 1, win := 0, num := 0, issueAt := 9000, issued := false
                    rowM := 0, rowB := 0, colB := 0, rowFirst := 1, rowLast := 5, colFirst := 10, colLast := 20, area := 40
                    classes := 1, tallies := [40, 0, 0, 0], overflow := false, edgeUp := false, edgeDown := false
                    edgeSide := false, matched := false, aEdge := false, valid := false, dr := 0, dt := 0, vy := 0, vx := 0
                    tracked := false, pred := 0, orphan := true, plan := true, planned := false, stale := false
                    tv := 2000, setgen := 0, eff := [] }

/-- A frame of pipeline 0 with that record. -/
def tFrame : PipeFrame := { start := 1000, src := 1, flight := false, seq := 0, eff := [], record := [], temp := 0, seg := 0
                            weight := 0, clamped := false, fallback := false, zone := 0, nodeA := true, nodeB := true
                            tmA := 1500, tmB := 2000, endA := none, endB := none, parts := [], objsA := [], objsB := []
                            recs := [tRec], overflowAt := [], spilled := false, before := none, completeAt := none, complete := false, kind3 := ⟨0, 0, 0⟩
                            stopAt := none, planning := 0 }

/-- A locked machine at NEWEL_TIME 10,000. -/
def tLocked : State :=
  tZero.modNewel fun x => { x with counting := .ticks, phase := .locked, everLocked := true, time := 10000 }

/-- A decision that group 0 rejects, with one enabled row of one jet. -/
def tDecision : Decision :=
  ⟨some tRec, none, 4, 2, [(effKey 0 (F.EJP_ROW_DIST 0), 0x80000000), (effKey 0 (F.EJP_ROW_FALLBACK 0), 3000000),
    (effKey 0 (F.EJP_ROW_MAP_A 0), 0x640000), (effKey 0 (F.EJP_ROW_MAP_B 0), 0x1000100), (effKey 0 (F.EJP_RULE 0), 0xA0041),
    (effKey 0 (F.EJP_DUR 0), 50)], 8000⟩

/-- A machine whose planner completes that decision on this tick. -/
def tPlan : State :=
  { ((tLocked.put (F.EJP_JET_EN_MASK 0) 1).put F.STP_CEIL_PULSE_TICKS 3000000).put F.EJP_PULSE_MAX_TICKS 3000000 with
      planner := { tZero.planner with intake := [(tDecision, 9000)] }
      link := { tZero.link with members := some ⟨1, 0, 0, true, 0, some true, 0, 0, [], false, none, false⟩ :: List.replicate 7 none } }

/-- A configured gallery at address 0 with valid time, channels 0 to 7 enabled. -/
def tGal : Station :=
  { Station.idle with powered := true, everSetup := true, en := 255, acc := 1320, lenc := 90
                      lastOff := List.replicate 32 0, overs := List.replicate 32 0
                      regs := [(0x08, 4), (0x0C, 1), (0x10, 2500), (0x14, 800), (0x18, 3000000), (0x1C, 100)] ++
                        (List.range 32).map fun n => (0x40 + 4 * n, 65546420) }

/-- A locked machine with that gallery. -/
def tWithGal (f : Station → Station) (l : Link → Link) : State :=
  { tLocked with stations := f tGal :: List.replicate 7 Station.idle, link := l tZero.link }

/-- A locked machine after boot with the link up and bus mastering on. -/
def tUp : State :=
  { (((tLocked.put F.PCI_LINK_STATE 2).put F.PWR_BOOT_STATUS_STAGE 7).put F.STP_CEIL_A_TRIP_C 90).put F.THM_TRIP_CELSIUS 85 with
      pcie := { tZero.pcie with config := tZero.pcie.config.set 4 6 } }

/-- That machine with ring 0 and completion ring 0 enabled, 16 records each, and the Usher as `f` makes it. -/
def tUsh (f : Usher → Usher) : State :=
  { (((tUp.put (F.USH_SQ_CTRL_EN 0) 1).put (F.USH_SQ_CTRL_SIZE_LOG2 0) 4).put (F.USH_CQ_CTRL_EN 0) 1).put
      (F.USH_CQ_CTRL_SIZE_LOG2 0) 4 with usher := f Usher.idle }

/-- The Usher with ring 0 as `f` makes it. -/
def tRing (f : SubRing → SubRing) (u : Usher) : Usher := { u with rings := modNth u.rings 0 f }

/-- The Usher with engine `e` as `f` makes it. -/
def tEng (e : Nat) (f : Slot → Slot) (u : Usher) : Usher := { u with slots := modNth u.slots e f }

/-- A FILL_2D of 4 bytes at the start of Store bank 1. -/
def tFill : Task := ⟨0, 1, [0x11, 7, 0, 0, 0, 0, 0x1800000, 0, 2, 4, 1, 0, 4, 0x01020304, 0, 0], 9000, 9096, 9200⟩

/-- A machine whose every head sensor holds `v` eighths of a degree less than 100 °C, at an evaluation of the ladder. -/
def tLadder (v : Int) : State :=
  ({ tUp.modNewel (fun x => { x with time := 1500000000 }) with
      regs := [(0x50000, 85), (0x50008, 0x3E80F0A), (0x5000C, 0x73)].foldl (fun r e => r.set e.1 e.2)
        ((Regs.set [] F.PWR_BOOT_STATUS 7).set F.STP_CEIL_A 0x5A0000)
      thermal := ⟨true, List.replicate 48 none, List.replicate 48 (some (8 * (tUp.trip : Int) - v)), List.replicate 48 0⟩ } :
    State).zonesUpdate

/-- A machine whose SECDED queue 9 holds one packet. -/
def tScrub : State :=
  { tUp.put (F.HAL_Q_CTRL_PROT 9) 1 with
      hall := { tZero.hall with
        queues := modNth tZero.hall.queues 9 fun q => { q with closed := [⟨[1, 2, 3], false, false, 0, 0⟩] } } }


/-- That machine with the fire queue of gallery 0 full. -/
def tFull : State :=
  { tPlan with hall := { tPlan.hall with
      fire := modNth tPlan.hall.fire 0 fun _ => List.replicate 128 ⟨1, 0, 0, 1, 0, false, false, 0, false, false⟩ } }

/-- A machine after boot at step `step`, with entry, phase and the step left as given, and every wake source enabled. -/
def tWake (step entry phase left : Nat) (main : Bool) : State :=
  { ((((((tUp.put F.PWR_WAKE_EN_PHRASE 1).put F.PWR_WAKE_EN_HOST_LINK 1).put F.PWR_WAKE_EN_TRIG0 1).put F.PWR_STEP_STATUS_STEP
      step).put F.PWR_STEP_STATUS_ENTRY entry).put F.PWR_STEP_STATUS_PHASE phase).modBoot fun b =>
        { b with powered := true, mainGood := main } with
      now := 100000, stair := { tZero.stair with left := left, commitNow := 5 } }

/-- A locked machine whose camera 0 holds one frame. -/
def tCam (f : Frame) (n : Node) : State :=
  { tLocked with cams := [{ Camera.idle with frames := [f], nodes := [n, Node.idle] }, Camera.idle] }

/-- A companion frame of two lines whose first edge lay at tick 9,000. -/
def tX : XFrame := ⟨9000, 9000, 2, 0, [], [], false, 0, 0, 0, 0, none, none, false, false, false, false⟩

/-- A locked machine whose companion port 0 is as `f` makes it, in state `k`. -/
def tPort (k : Nat) (f : XPort → XPort) : State :=
  { tLocked.put (F.XPT_STATUS_STATE 0) k with ports := [f XPort.idle, XPort.idle] }

/-- A gallery address that holds its read frame of this cycle and has been sent its OUTSET. -/
def tMember : Member := ⟨1, 0, 100, true, 0, some true, 0, 0, [], true, none, false⟩

/-- A locked machine at tick `t` of a cycle that began at tick 9,600, address 0 as `m` says, its gallery as `x`. -/
def tCycle (t : Nat) (m : Member) (x : Station) (f : Link → Link) : State :=
  { ((tLocked.modNewel fun y => { y with time := t }).put F.HLK_STATUS_STATE 5).put (F.HLK_STA_STATE 0) 1 with
      stations := x :: List.replicate 7 Station.idle
      link := f { tZero.link with
        members := some m :: List.replicate 7 none, nslot := 1, cycling := true, start := 9600, len := 36000, cyc := 7
        loop := 200 } }

/-- A gallery with a FIRE, OUTSET, REGW, REGR, SETUP frame or a marker (kind `k`) of payload `d` due on this tick. -/
def tHears (k : Nat) (d : List Nat) (f : Station → Station) : State :=
  tWithGal f fun l => { l with inFlight := [⟨10000, 0, ⟨k, 0, 5000, d⟩⟩] }

/-- A machine whose engine `u` runs a task of words `ws` with job `j`. -/
def tRun (u : Nat) (ws : List Nat) (j : Job) : State :=
  tUsh (tEng u fun x => { x with running := some ⟨0, 1, ws, 9000, 9096, 9200⟩, job := j })

/-- A machine whose engine `u` has a task of words `ws` on deck. -/
def tDeck (u : Nat) (ws : List Nat) : State := tUsh (tEng u fun x => { x with deck := some ⟨0, 1, ws, 9000, 9096, 9200⟩ })

/-- A machine whose Usher has an arm or a disarm of words `ws` to dispatch. -/
def tOp (ws : List Nat) : State := tUsh fun u => { u with ops := [(9000, ⟨0, 1, ws, 9000, 9096, 9200⟩)] }

/-- A machine with a record of words `ws` at the head of ring 0. -/
def tTake (ws : List Nat) : State := tUsh (tRing fun r => { r with tail := 1, buf := [(9000, ws)] })

/-- A machine whose ring 0 waits on a record of words `ws`, with deadline `d` and poll issue ticks `l`. -/
def tWait (ws : List Nat) (d : Option Nat) (l : List Nat) : State :=
  tUsh (tRing fun r => { r with outstanding := 1, wait := some ⟨⟨0, 1, ws, 9000, 9096, 9000⟩, true, d, 0, l, false⟩ })

/-- A machine whose PIO engine 0, as `f` makes it, executes the instruction `w` on this tick. -/
def tPio (w : Nat) (f : Engine → Engine) : State :=
  (tLocked.put (F.PIO_PROG_INSTR 0 0 0) w).modEng 0 fun x => f { x with running := true, nextAt := 10000 }

/-! ### Witnesses -/

/-- Hypotheses of `Obligations.StepRunsFront`. -/
theorem witness_StepRunsFront :
    ∃ (c : Instr) (l : List Instr) (s : State), s.pending = c :: l :=
  ⟨.commit, [.snap], { State.reset with pending := [.commit, .snap] }, rfl⟩

/-- Hypotheses of `Obligations.CounterRule`, for either behaviour. -/
theorem witness_CounterRule :
    (∃ c : Ctr, 0 < c.width ∧ c.width ≤ 32 ∧ c.sat = true) ∧ (∃ c : Ctr, 0 < c.width ∧ c.width ≤ 32 ∧ c.sat = false) :=
  ⟨⟨C.EJP_CNT_DEC_OVF, by decide⟩, ⟨C.EJP_CNT_CMD 0, by decide⟩⟩

/-- Hypotheses of `Obligations.FireMask`, at the ends of the range. -/
theorem witness_FireMask :
    ∃ (g : Nat) (l : List Nat), g < 8 ∧ l.Nodup ∧ (∀ j ∈ l, j / 32 = g) ∧ l = [224, 255] :=
  ⟨7, [224, 255], by decide⟩

/-- Hypotheses of `Obligations.StepKeepsMemory` and `Obligations.StepKeepsWear`: a command and the passage of time. -/
theorem witness_StepKeepsMemory :
    (∃ s t : State, s.memWf = true ∧ step s = .next t ∧ s.pending = [.commit]) ∧
      (∃ s t : State, s.memWf = true ∧ step s = .next t ∧ s.pending = []) :=
  ⟨⟨{ State.reset with pending := [.commit] }, _, by decide +kernel, rfl, rfl⟩,
    ⟨State.reset, _, by decide +kernel, rfl, rfl⟩⟩

/-- The flight of the almond: vq 9,601, distance 180,000 µm, gravity 9,810: 99,115,080 ticks (12_ejection_planner.md). -/
theorem test_almond_flight :
    Decision.flight ⟨none, none, 4, 2, [(effKey 0 F.EJP_GRAVITY, 9810), (effKey 0 (F.EJP_ROW_DIST 0), 0x8002BF20)], 0⟩
      ({ tRec with tmB := 630000, tv := 630000, vy := 9601 }, false) 0 = 99115080 := by decide +kernel

/-- Hypotheses of `Obligations.ArchiveKeepers`: a raise that ends changes the rollback counter. -/
theorem witness_ArchiveKeepers :
    ∃ (s t : State), exec .rollbackRaised s = .next t ∧ t.rollback ≠ s.rollback :=
  ⟨{ (tUp.put F.ARC_STATUS_BUSY 1).put F.ARC_ROLLBACK_RAISE_VERSION 3 with usher := tUp.usher }, _, rfl, by decide +kernel⟩

/-- Hypotheses of `Obligations.EmptyQueueIdles`. -/
theorem witness_EmptyQueueIdles :
    (∃ (s : State),
      (s.pending = []) ∧
      ((s.agenda.any fun e => decide (e.1 ≤ s.now)) = true)) ∧
    (∃ (s : State),
      (s.pending = []) ∧
      ((s.agenda.any fun e => decide (e.1 ≤ s.now)) = false)) :=
  ⟨⟨{ tZero with agenda := [(0, .lockSequence)] }, by decide +kernel⟩,
    ⟨tZero, by decide +kernel⟩⟩

/-- Hypotheses of `Obligations.FullFireQueue`. -/
theorem witness_FullFireQueue :
    (∃ (s : State) (g : Nat) (c : FireCmd),
      (g < 8) ∧
      (s.enumerated g = true) ∧
      (s.lateNow c.fire = false) ∧
      (128 ≤ (s.fireQueue g).length)) :=
  ⟨tFull, 0, ⟨1, 0, 0, 1, 0, false, false, 0, false, false⟩, by decide +kernel⟩

/-- Hypotheses of `Obligations.CommandQueued`. -/
theorem witness_CommandQueued :
    (∃ (s : State) (g : Nat) (c : FireCmd),
      (g < 8) ∧
      (s.enumerated g = true) ∧
      (s.lateNow c.fire = false) ∧
      ((s.fireQueue g).length < 128)) :=
  ⟨tPlan, 0, ⟨1, 0, 0, 1, 0, false, false, 0, false, false⟩, by decide +kernel⟩

/-- Hypotheses of `Obligations.WriteHalves`. -/
theorem witness_WriteHalves :
    (∃ (s : State) (off : Nat) (d : Nat),
      s.served = true ∧ off % 8 = 0) :=
  ⟨((tZero.modBoot fun b => { b with powered := true }).modNewel fun x => { x with counting := .ticks }).put F.PCI_LINK_STATE 2 |>.put F.PWR_BOOT_STATUS_STAGE 7 |>.setConfig 4 0x6#32, 0, 0, by decide +kernel⟩

/-- Hypotheses of `Obligations.LockSequenceCommands`. -/
theorem witness_LockSequenceCommands :
    (∃ (s : State),
      s.newel.phase = .off ∧ s.boot.powered = true ∧ s.newel.refPresent = true) ∧
    (∃ (s : State),
      s.newel.phase = .off ∧ s.boot.powered = true ∧ s.newel.refPresent = false) ∧
    (∃ (s : State),
      s.newel.refPresent = true ∧ s.newel.phaseEnd ≤ s.now ∧ s.newel.phase = .settle) ∧
    (∃ (s : State),
      s.newel.refPresent = true ∧ s.newel.phaseEnd ≤ s.now ∧ s.newel.phase = .band) ∧
    (∃ (s : State),
      s.newel.refPresent = true ∧ s.newel.phaseEnd ≤ s.now ∧ s.newel.phase = .lockCount) ∧
    (∃ (s : State),
      s.newel.refPresent = true ∧ s.newel.phaseEnd ≤ s.now ∧ s.newel.phase = .lockCount ∧ s.newel.commitAt = none ∧
      s.boot.resetAtLock = false ∧ s.stage ≠ 2 ∧ s.phase ≠ 5) ∧
    (∃ (s : State),
      s.newel.refPresent = false ∧ (s.newel.phase = .band ∨ s.newel.phase = .lockCount ∨ s.newel.phase = .settle)) ∧
    (∃ (s : State),
      s.newel.refPresent = false ∧ ¬(s.newel.phase = .band ∨ s.newel.phase = .lockCount ∨ s.newel.phase = .settle)) :=
  ⟨⟨((tZero.modBoot fun b => { b with powered := true }).modNewel fun x => { x with counting := .ticks }).put F.PCI_LINK_STATE 2 |>.put F.PWR_BOOT_STATUS_STAGE 7 |>.setConfig 4 0x6#32, by decide +kernel⟩,
    ⟨(tZero.modBoot fun b => { b with powered := true }).modNewel fun x => { x with refPresent := false }, by decide +kernel⟩,
    ⟨tZero.modNewel fun x => { x with phase := .settle }, by decide +kernel⟩,
    ⟨tZero.modNewel fun x => { x with phase := .band }, by decide +kernel⟩,
    ⟨tZero.modNewel fun x => { x with phase := .lockCount, counting := .ticks, everLocked := true }, by decide +kernel⟩,
    ⟨tZero.modNewel fun x => { x with phase := .lockCount, counting := .ticks, everLocked := true }, by decide +kernel⟩,
    ⟨tZero.modNewel fun x => { x with phase := .band, refPresent := false }, by decide +kernel⟩,
    ⟨(tZero.modBoot fun b => { b with powered := true }).modNewel fun x => { x with refPresent := false }, by decide +kernel⟩⟩

/-- Hypotheses of `Obligations.ReferenceCommands`. -/
theorem witness_ReferenceCommands :
    (∃ (s : State),
      s.newel.refPresent = true ∧ s.newel.phase = .locked ∧ s.newel.counting = .ticks) ∧
    (∃ (s : State),
      s.newel.phase = .holdover) ∧
    (∃ (s : State),
      s.newel.phase = .holdover) ∧
    (∃ (s : State),
      s.newel.phase = .reacq ∧ s.newel.phaseEnd ≤ s.now) :=
  ⟨⟨tFull, by decide +kernel⟩,
    ⟨tZero.modNewel fun x => { x with phase := .holdover }, by decide +kernel⟩,
    ⟨tZero.modNewel fun x => { x with phase := .holdover }, by decide +kernel⟩,
    ⟨tZero.modNewel fun x => { x with phase := .reacq }, by decide +kernel⟩⟩

/-- Hypotheses of `Obligations.CommitAndCapture`. -/
theorem witness_CommitAndCapture :
    (∃ (s : State),
      s.newel.counting = .ticks ∧ s.newel.commitAt = none) ∧
    (∃ (s : State) (u : Nat),
      s.newel.counting = .ticks ∧ s.newel.commitAt = some u ∧ s.newel.time % 65536 = 0 ∧ u + 256 ≤ s.newel.time ∧
      s.g (F.XPT_STATUS_STATE 0) = 0 ∧ s.g (F.XPT_STATUS_STATE 1) = 0) ∧
    (∃ (s : State),
      s.newel.pinCapture ≠ some s.now) ∧
    (∃ (s : State),
      s.newel.pinCapture = some s.now) ∧
    (∃ (s : State),
      s.newel.counting = .ticks ∧ s.g F.NWL_CTRL_SNAP_SRC = 2 ∧ s.g (F.ARR_CAM_CTRL_TRIG_SRC 0) ≠ 32 ∧
      s.g (F.ARR_CAM_CTRL_TRIG_SRC 1) ≠ 32) :=
  ⟨⟨((tZero.modBoot fun b => { b with powered := true }).modNewel fun x => { x with counting := .ticks }).put F.PCI_LINK_STATE 2 |>.put F.PWR_BOOT_STATUS_STAGE 7 |>.setConfig 4 0x6#32, by decide +kernel⟩,
    ⟨(tZero.modNewel fun x => { x with counting := .ticks, time := 65536, commitAt := some 0 }), 0, by decide +kernel⟩,
    ⟨{ tZero with agenda := [(0, .lockSequence)] }, by decide +kernel⟩,
    ⟨tLocked.modNewel fun x => { x with pinCapture := some 0 }, by decide +kernel⟩,
    ⟨(tZero.modNewel fun x => { x with counting := .ticks }).put F.NWL_CTRL_SNAP_SRC 2 |>.put (F.ARR_CAM_CTRL_TRIG_SRC 0) 0 |>.put (F.ARR_CAM_CTRL_TRIG_SRC 1) 0, by decide +kernel⟩⟩

/-- Hypotheses of `Obligations.HostRegisterWrites`. -/
theorem witness_HostRegisterWrites :
    (∃ (s : State) (v : Nat),
      s.served = true) ∧
    (∃ (s : State) (off : Nat) (size : Nat) (v : Nat),
      s.served = true ∧ ¬(size = 4 ∧ off % 0x100000 % 4 = 0) ∧ ¬(size = 8 ∧ off % 0x100000 % 8 = 0)) ∧
    (∃ (s : State) (v : Nat),
      s.served = true ∧ s.g F.STP_CEIL_PULSE_TICKS < v % 2 ^ 26) ∧
    (∃ (s : State) (off : Nat) (size : Nat) (v : Nat),
      s.reached = true ∧ s.ready = true ∧ s.memEnabled = false) :=
  ⟨⟨((tZero.modBoot fun b => { b with powered := true }).modNewel fun x => { x with counting := .ticks }).put F.PCI_LINK_STATE 2 |>.put F.PWR_BOOT_STATUS_STAGE 7 |>.setConfig 4 0x6#32, 0, by decide +kernel⟩,
    ⟨((tZero.modBoot fun b => { b with powered := true }).modNewel fun x => { x with counting := .ticks }).put F.PCI_LINK_STATE 2 |>.put F.PWR_BOOT_STATUS_STAGE 7 |>.setConfig 4 0x6#32, 0, 0, 0, by decide +kernel⟩,
    ⟨((tZero.modBoot fun b => { b with powered := true }).modNewel fun x => { x with counting := .ticks }).put F.PCI_LINK_STATE 2 |>.put F.PWR_BOOT_STATUS_STAGE 7 |>.setConfig 4 0x6#32, 1, by decide +kernel⟩,
    ⟨(((tZero.modBoot fun b => { b with powered := true }).modNewel fun x => { x with counting := .ticks }).put F.PCI_LINK_STATE 2 |>.put F.PWR_BOOT_STATUS_STAGE 7 |>.setConfig 4 0x6#32).setConfig 4 0#32, 0, 0, 0, by decide +kernel⟩⟩

/-- Hypotheses of `Obligations.HostRequests`. -/
theorem witness_HostRequests :
    (∃ (s : State) (w : Bool) (off : Nat) (v : Nat),
      s.reached = true ∧ s.stage < 7) ∧
    (∃ (s : State) (off : Nat) (v : Nat),
      s.reached = true ∧ 7 ≤ s.stage) ∧
    (∃ (s : State) (v : Nat),
      s.reached = true ∧ 7 ≤ s.stage) ∧
    (∃ (s : State) (np : Bool),
      s.reached = true) ∧
    (∃ (s : State) (a : Nat) (bs : List Byte),
      s.served = true ∧ 0x1800000 ≤ a ∧ a + bs.length ≤ 0x4800000 ∧ bs ≠ []) ∧
    (∃ (s : State) (a : Nat) (n : Nat),
      s.served = true ∧ s.storeBad = [] ∧ a + n ≤ storeSize) :=
  ⟨⟨(((tZero.modBoot fun b => { b with powered := true }).modNewel fun x => { x with counting := .ticks }).put F.PCI_LINK_STATE 2 |>.put F.PWR_BOOT_STATUS_STAGE 7 |>.setConfig 4 0x6#32).put F.PWR_BOOT_STATUS_STAGE 6, false, 0, 0, by decide +kernel⟩,
    ⟨((tZero.modBoot fun b => { b with powered := true }).modNewel fun x => { x with counting := .ticks }).put F.PCI_LINK_STATE 2 |>.put F.PWR_BOOT_STATUS_STAGE 7 |>.setConfig 4 0x6#32, 0, 0, by decide +kernel⟩,
    ⟨((tZero.modBoot fun b => { b with powered := true }).modNewel fun x => { x with counting := .ticks }).put F.PCI_LINK_STATE 2 |>.put F.PWR_BOOT_STATUS_STAGE 7 |>.setConfig 4 0x6#32, 0, by decide +kernel⟩,
    ⟨((tZero.modBoot fun b => { b with powered := true }).modNewel fun x => { x with counting := .ticks }).put F.PCI_LINK_STATE 2 |>.put F.PWR_BOOT_STATUS_STAGE 7 |>.setConfig 4 0x6#32, false, by decide +kernel⟩,
    ⟨((tZero.modBoot fun b => { b with powered := true }).modNewel fun x => { x with counting := .ticks }).put F.PCI_LINK_STATE 2 |>.put F.PWR_BOOT_STATUS_STAGE 7 |>.setConfig 4 0x6#32, 25165824, [0x01#8], by decide +kernel⟩,
    ⟨((tZero.modBoot fun b => { b with powered := true }).modNewel fun x => { x with counting := .ticks }).put F.PCI_LINK_STATE 2 |>.put F.PWR_BOOT_STATUS_STAGE 7 |>.setConfig 4 0x6#32, 0, 0, by decide +kernel⟩⟩

/-- Hypotheses of `Obligations.EndpointEvents`. -/
theorem witness_EndpointEvents :
    (∃ (s : State) (v : Nat) (w : Nat),
      v = s.g F.STP_CONFIG_GEN_CAP ∧ w = 2 ^ s.g F.STP_CONFIG_LANES ∧ s.g F.PCI_LINK_STATE = 5 ∧
      1 ≤ s.g F.STP_CONFIG_GEN_CAP ∧ s.g F.STP_CONFIG_LANES < 3) ∧
    (∃ (s : State),
      s.g F.PCI_LINK_STATE = 2) ∧
    (∃ (s : State),
      s.step_ ≤ 2 ∧ s.g F.PCI_LINK_STATE = 2 ∧ s.pcie.lastTraffic + 12000 ≤ s.now ∧ s.entry ≠ 4 ∧ s.aspmL1 = true) ∧
    (∃ (s : State) (k : Nat) (h : List Nat),
      s.linkUp = true ∧ k < 6) ∧
    (∃ (s : State) (v : Nat),
      v < 32 ∧ (s.vector v).pending = false) ∧
    (∃ (s : State) (en : Bool),
      (en = false ∨ s.busMaster = true)) :=
  ⟨⟨(tZero.put F.PCI_LINK_STATE 5).put F.STP_CONFIG_GEN_CAP 4, 4, 1, by decide +kernel⟩,
    ⟨((tZero.modBoot fun b => { b with powered := true }).modNewel fun x => { x with counting := .ticks }).put F.PCI_LINK_STATE 2 |>.put F.PWR_BOOT_STATUS_STAGE 7 |>.setConfig 4 0x6#32, by decide +kernel⟩,
    ⟨{ (tZero.put F.PCI_LINK_STATE 2).setConfig 0x80 2#32 with now := 20000 }, by decide +kernel⟩,
    ⟨((tZero.modBoot fun b => { b with powered := true }).modNewel fun x => { x with counting := .ticks }).put F.PCI_LINK_STATE 2 |>.put F.PWR_BOOT_STATUS_STAGE 7 |>.setConfig 4 0x6#32, 0, [], by decide +kernel⟩,
    ⟨{ tZero with agenda := [(0, .lockSequence)] }, 0, by decide +kernel⟩,
    ⟨{ tZero with agenda := [(0, .lockSequence)] }, false, by decide +kernel⟩⟩

/-- Hypotheses of `Obligations.StrapCommands`. -/
theorem witness_StrapCommands :
    (∃ (s : State) (l : List Nat),
      s.boot.decoded = false ∧ s.boot.powered = true ∧ s.stage = 1 ∧ l.length = 12 ∧ nth l 1 0 = 0) ∧
    (∃ (s : State) (l : List Nat),
      l = List.replicate 12 0 ∧ s.boot.decoded = true ∧ s.boot.latched = false ∧ s.newel.counting = .ticks ∧
      onEdge 150 s.time = true ∧ s.boot.strap1 = (0, false)) ∧
    (∃ (s : State),
      s.g F.PWR_STEP_STATUS_STEP ≠ 5 ∧ s.boot.powered = false ∧ s.boot.decoded = false) :=
  ⟨⟨(tZero.modBoot fun b => { b with powered := true }).put F.PWR_BOOT_STATUS_STAGE 1, (List.replicate 12 0), by decide +kernel⟩,
    ⟨((tZero.modBoot fun b => { b with powered := true }).modNewel fun x => { x with counting := .ticks, phase := .locked, everLocked := true }).modBoot fun b => { b with decoded := true, strap1 := (0, false) }, (List.replicate 12 0), by decide +kernel⟩,
    ⟨{ tZero with agenda := [(0, .lockSequence)] }, by decide +kernel⟩⟩

/-- Hypotheses of `Obligations.SupplyLossResets`. -/
theorem witness_SupplyLossResets :
    (∃ (s : State) (m : Bool),
      s.boot.powered = true ∧ (m = false ∨ s.g F.PWR_STEP_STATUS_STEP ≠ 5)) ∧
    (∃ (s : State),
      s.boot.powered = true ∧ s.g F.PWR_STEP_STATUS_STEP = 5) ∧
    (∃ (s : State),
      s.boot.powered = false) ∧
    (∃ (s : State),
      s.boot.powered = false) :=
  ⟨⟨((tZero.modBoot fun b => { b with powered := true }).modNewel fun x => { x with counting := .ticks }).put F.PCI_LINK_STATE 2 |>.put F.PWR_BOOT_STATUS_STAGE 7 |>.setConfig 4 0x6#32, false, by decide +kernel⟩,
    ⟨(tZero.modBoot fun b => { b with powered := true }).put F.PWR_STEP_STATUS_STEP 5, by decide +kernel⟩,
    ⟨{ tZero with agenda := [(0, .lockSequence)] }, by decide +kernel⟩,
    ⟨{ tZero with agenda := [(0, .lockSequence)] }, by decide +kernel⟩⟩

/-- Hypotheses of `Obligations.BootStages`. -/
theorem witness_BootStages :
    (∃ (s : State),
      s.stage = 3) ∧
    (∃ (s : State),
      s.stage = 3) ∧
    (∃ (s : State) (b : Bool) (i : Nat) (j : Nat),
      s.stage = 4 ∧ s.boot.slotsLeft = [i, j] ∧ i < 2 ∧ s.slotOutcome i b ≠ 1) ∧
    (∃ (s : State) (k : Nat) (i : Nat) (l : List Nat),
      s.stage = 4 ∧ s.boot.slotsLeft = i :: l ∧ i < 2 ∧ s.slotOutcome i true = 1) ∧
    (∃ (s : State) (k : Nat),
      s.stage = 5 ∧ s.imageGood = false ∧ s.thermal.running = false) ∧
    (∃ (s : State),
      s.stage = 6 ∧ s.on F.THM_STATUS_FORCED = false ∧ s.boot.fromVault = false) ∧
    (∃ (s : State),
      s.stage = 6 ∧ s.boot.fromVault = true ∧ (nth s.notices 1 NoticeRing.idle).held = [] ∧ 2 ≤ s.notices.length) ∧
    (∃ (s : State),
      s.stage ≠ 6) ∧
    (∃ (s : State) (o : Option Bool) (b : Bool) (k : Nat) (i : Nat) (l : List Nat),
      s.stage = 4 ∧ s.boot.slotsLeft = i :: l ∧ i < 2 ∧ b = o.getD (Config.freeNat s.freeCount % 2 == 1)) ∧
    (∃ (s : State) (k : Nat),
      s.stage = 5) ∧
    (∃ (s : State) (b : Bool),
      s.stage ≠ 3) ∧
    (∃ (s : State) (o : Option Bool) (k : Nat),
      (s.stage ≠ 4 ∨ s.boot.slotsLeft = [])) ∧
    (∃ (s : State) (k : Nat),
      s.stage ≠ 5) :=
  ⟨⟨(tZero.modBoot fun b => { b with powered := true }).put F.PWR_BOOT_STATUS_STAGE 3, by decide +kernel⟩,
    ⟨(tZero.modBoot fun b => { b with powered := true }).put F.PWR_BOOT_STATUS_STAGE 3, by decide +kernel⟩,
    ⟨((tZero.modBoot fun b => { b with powered := true }).put F.PWR_BOOT_STATUS_STAGE 4).modBoot fun b => { b with slotsLeft := [0, 1] }, false, 0, 1, by decide +kernel⟩,
    ⟨((tZero.modBoot fun b => { b with powered := true }).put F.PWR_BOOT_STATUS_STAGE 4).modBoot fun b => { b with slotsLeft := [0, 1] }, 0, 0, [1], by decide +kernel⟩,
    ⟨(tZero.modBoot fun b => { b with powered := true }).put F.PWR_BOOT_STATUS_STAGE 5, 0, by decide +kernel⟩,
    ⟨(((tZero.modBoot fun b => { b with powered := true }).modNewel fun x => { x with counting := .ticks }).put F.PCI_LINK_STATE 2 |>.put F.PWR_BOOT_STATUS_STAGE 7 |>.setConfig 4 0x6#32).put F.PWR_BOOT_STATUS_STAGE 6, by decide +kernel⟩,
    ⟨(tUp.put F.PWR_BOOT_STATUS_STAGE 6).modBoot fun b => { b with fromVault := true }, by decide +kernel⟩,
    ⟨{ tZero with agenda := [(0, .lockSequence)] }, by decide +kernel⟩,
    ⟨((tZero.modBoot fun b => { b with powered := true }).put F.PWR_BOOT_STATUS_STAGE 4).modBoot fun b => { b with slotsLeft := [0, 1] }, some false, false, 0, 0, [1], by decide +kernel⟩,
    ⟨(tZero.modBoot fun b => { b with powered := true }).put F.PWR_BOOT_STATUS_STAGE 5, 0, by decide +kernel⟩,
    ⟨{ tZero with agenda := [(0, .lockSequence)] }, false, by decide +kernel⟩,
    ⟨{ tZero with agenda := [(0, .lockSequence)] }, none, 0, by decide +kernel⟩,
    ⟨{ tZero with agenda := [(0, .lockSequence)] }, 0, by decide +kernel⟩⟩

/-- Hypotheses of `Obligations.ResetCommands`. -/
theorem witness_ResetCommands :
    (∃ (s : State),
      s.boot.perst = false ∧ s.boot.powered = true ∧ s.g F.PWR_STEP_STATUS_STEP ≠ 5 ∧ 7 ≤ s.stage ∧
      s.newel.counting = .ticks) ∧
    (∃ (s : State),
      s.boot.perst = false ∧ s.boot.powered = true ∧ s.g F.PWR_STEP_STATUS_STEP ≠ 5 ∧ s.stage < 7) ∧
    (∃ (s : State),
      s.boot.perst = false ∧ s.boot.powered = true ∧ s.g F.PWR_STEP_STATUS_STEP ≠ 5 ∧ 7 ≤ s.stage ∧
      s.newel.counting ≠ .ticks) ∧
    (∃ (s : State),
      s.boot.perst = false ∧ (s.boot.powered = false ∨ s.g F.PWR_STEP_STATUS_STEP = 5)) ∧
    (∃ (s : State),
      s.newel.counting = .ticks ∧ s.g F.PCI_LINK_STATE = 0) ∧
    (∃ (s : State),
      (s.newel.counting ≠ .ticks ∨ s.g F.PCI_LINK_STATE ≠ 0)) ∧
    (∃ (s : State),
      s.boot.powered = true ∧ 7 ≤ s.stage ∧ s.newel.counting = .ticks) ∧
    (∃ (s : State) (k : Nat),
      k ≠ 0xB007) ∧
    (∃ (s : State),
      7 ≤ s.stage ∧ s.boot.powered = true ∧ s.g F.PWR_STEP_STATUS_STEP ≠ 5) ∧
    (∃ (s : State) (k : Nat),
      k ≠ 0xB007) ∧
    (∃ (s : State),
      s.linkUp = true ∧ s.boot.powered = true ∧ s.g F.PWR_STEP_STATUS_STEP ≠ 5) ∧
    (∃ (s : State),
      s.linkUp = true ∧ s.boot.powered = true ∧ s.g F.PWR_STEP_STATUS_STEP ≠ 5) ∧
    (∃ (s : State),
      s.boot.watchdog = true ∧ s.rises 55 = true ∧ s.boot.powered = true ∧ s.g F.PWR_STEP_STATUS_STEP ≠ 5) :=
  ⟨⟨(((tZero.modBoot fun b => { b with powered := true }).modNewel fun x => { x with counting := .ticks, phase := .locked, everLocked := true }).put F.PWR_BOOT_STATUS_STAGE 7).modBoot fun b => { b with perst := false }, by decide +kernel⟩,
    ⟨(tLocked.put F.PWR_BOOT_STATUS_STAGE 5).modBoot fun b => { b with perst := false, powered := true }, by decide +kernel⟩,
    ⟨(tZero.put F.PWR_BOOT_STATUS_STAGE 7).modBoot fun b => { b with perst := false, powered := true }, by decide +kernel⟩,
    ⟨tZero.modBoot fun b => { b with perst := false }, by decide +kernel⟩,
    ⟨tFull, by decide +kernel⟩,
    ⟨{ tZero with agenda := [(0, .lockSequence)] }, by decide +kernel⟩,
    ⟨((tZero.modBoot fun b => { b with powered := true }).modNewel fun x => { x with counting := .ticks }).put F.PCI_LINK_STATE 2 |>.put F.PWR_BOOT_STATUS_STAGE 7 |>.setConfig 4 0x6#32, by decide +kernel⟩,
    ⟨{ tZero with agenda := [(0, .lockSequence)] }, 0, by decide +kernel⟩,
    ⟨((tZero.modBoot fun b => { b with powered := true }).modNewel fun x => { x with counting := .ticks }).put F.PCI_LINK_STATE 2 |>.put F.PWR_BOOT_STATUS_STAGE 7 |>.setConfig 4 0x6#32, by decide +kernel⟩,
    ⟨{ tZero with agenda := [(0, .lockSequence)] }, 0, by decide +kernel⟩,
    ⟨((tZero.modBoot fun b => { b with powered := true }).modNewel fun x => { x with counting := .ticks }).put F.PCI_LINK_STATE 2 |>.put F.PWR_BOOT_STATUS_STAGE 7 |>.setConfig 4 0x6#32, by decide +kernel⟩,
    ⟨((tZero.modBoot fun b => { b with powered := true }).modNewel fun x => { x with counting := .ticks }).put F.PCI_LINK_STATE 2 |>.put F.PWR_BOOT_STATUS_STAGE 7 |>.setConfig 4 0x6#32, by decide +kernel⟩,
    ⟨(((tZero.modBoot fun b => { b with powered := true }).modNewel fun x => { x with counting := .ticks, phase := .locked, everLocked := true }).put F.PWR_BOOT_STATUS_STAGE 7).modBoot fun b => { b with watchdog := true }, by decide +kernel⟩⟩

/-- Hypotheses of `Obligations.StepRequests`. -/
theorem witness_StepRequests :
    (∃ (s : State) (v : Nat),
      s.boot.powered = true ∧ 7 ≤ s.stage ∧ s.step_ ≤ 2 ∧ s.entry = 0 ∧ s.phase = 0 ∧ s.step_ < v ∧ v < 6 ∧
      (v < 2 ∨ s.on F.USH_FLIGHT_ARMED = false)) ∧
    (∃ (s : State) (v : Nat),
      s.step_ ≤ 2 ∧ 6 ≤ v) ∧
    (∃ (s : State) (v : Nat),
      s.boot.powered = true ∧ 7 ≤ s.stage ∧ (s.step_ = 1 ∨ s.step_ = 2) ∧ s.entry = 0 ∧ s.phase = 0 ∧ v ≤ s.step_ ∧
      (v < 2 ∨ s.on F.USH_FLIGHT_ARMED = false)) ∧
    (∃ (s : State),
      s.entry ≠ 0 ∧ s.phase = 1 ∧
      (if s.entry = 4 ∧ s.g F.PCI_LINK_STATE = 3 then s.linkSleep true else s).quiet = true ∧
      (s.entry < 2 ∨ s.linkState ≠ 5 ∨ s.link.cycling = false ∨ s.link.closing = true)) ∧
    (∃ (s : State),
      2 ≤ s.entry ∧ s.phase = 1 ∧
      (if s.entry = 4 ∧ s.g F.PCI_LINK_STATE = 3 then s.linkSleep true else s).quiet = true ∧ s.linkState = 5 ∧
      s.link.cycling = true ∧ s.link.closing = false) ∧
    (∃ (s : State),
      s.entry ≠ 0 ∧ s.phase = 1 ∧
      (if s.entry = 4 ∧ s.g F.PCI_LINK_STATE = 3 then s.linkSleep true else s).quiet = false) ∧
    (∃ (s : State),
      s.entry ≠ 0 ∧ (s.phase = 3 ∨ s.parkOver = true)) ∧
    (∃ (s : State),
      s.phase = 4 ∧ s.stair.commitNow + nth powerDownTicks s.entry 0 ≤ s.now ∧ s.stair.wakeHeld = false ∧
      s.stair.late = none) ∧
    (∃ (s : State),
      s.phase = 4 ∧ s.stair.commitNow + nth powerDownTicks s.entry 0 ≤ s.now ∧ s.stair.wakeHeld = true ∧ s.entry < 3) ∧
    (∃ (s : State),
      s.phase = 5 ∧ s.newel.counting = .ticks ∧ s.stair.left ≤ 4 ∧ s.stair.late = none ∧
      s.on F.PWR_STEP_STATUS_FORCED = false) :=
  ⟨⟨((tZero.modBoot fun b => { b with powered := true }).modNewel fun x => { x with counting := .ticks }).put F.PCI_LINK_STATE 2 |>.put F.PWR_BOOT_STATUS_STAGE 7 |>.setConfig 4 0x6#32, 1, by decide +kernel⟩,
    ⟨{ tZero with agenda := [(0, .lockSequence)] }, 6, by decide +kernel⟩,
    ⟨((tZero.modBoot fun b => { b with powered := true }).modNewel (fun x => { x with counting := .ticks, phase := .locked, everLocked := true }) |>.put F.PWR_BOOT_STATUS_STAGE 7).put F.PWR_STEP_STATUS_STEP 2, 0, by decide +kernel⟩,
    ⟨((tZero.modBoot fun b => { b with powered := true }).modNewel (fun x => { x with counting := .ticks, phase := .locked, everLocked := true }) |>.put F.PWR_BOOT_STATUS_STAGE 7).put F.PWR_STEP_STATUS_ENTRY 1 |>.put F.PWR_STEP_STATUS_PHASE 1, by decide +kernel⟩,
    ⟨((((tLocked.put F.PWR_STEP_STATUS_ENTRY 2).put F.PWR_STEP_STATUS_PHASE 1).put F.HLK_STATUS_STATE 5).modLink fun k => { k with cycling := true }), by decide +kernel⟩,
    ⟨{ ((tLocked.put F.PWR_STEP_STATUS_ENTRY 2).put F.PWR_STEP_STATUS_PHASE 1) with cams := (tCam ⟨10750, [], [⟨0, 10750, 12000⟩], [], false, []⟩ Node.idle).cams }, by decide +kernel⟩,
    ⟨((tZero.modBoot fun b => { b with powered := true }).modNewel (fun x => { x with counting := .ticks, phase := .locked, everLocked := true }) |>.put F.PWR_BOOT_STATUS_STAGE 7).put F.PWR_STEP_STATUS_ENTRY 2 |>.put F.PWR_STEP_STATUS_PHASE 3, by decide +kernel⟩,
    ⟨{ ((tZero.modBoot fun b => { b with powered := true }).modNewel (fun x => { x with counting := .ticks, phase := .locked, everLocked := true }) |>.put F.PWR_BOOT_STATUS_STAGE 7).put F.PWR_STEP_STATUS_ENTRY 2 |>.put F.PWR_STEP_STATUS_PHASE 4 with now := 6000 }, by decide +kernel⟩,
    ⟨{ ((tLocked.put F.PWR_STEP_STATUS_ENTRY 2).put F.PWR_STEP_STATUS_PHASE 4) with now := 1000000000, stair := { tZero.stair with wakeHeld := true } }, by decide +kernel⟩,
    ⟨(((tZero.modBoot fun b => { b with powered := true }).modNewel (fun x => { x with counting := .ticks, phase := .locked, everLocked := true }) |>.put F.PWR_BOOT_STATUS_STAGE 7).put F.PWR_STEP_STATUS_STEP 2 |>.put F.PWR_STEP_STATUS_PHASE 5).modStair fun x => { x with left := 2 }, by decide +kernel⟩⟩

/-- Hypotheses of `Obligations.WakeCommands`. -/
theorem witness_WakeCommands :
    (∃ (s : State),
      s.boot.powered = true ∧ 7 ≤ s.stage ∧ s.on F.PWR_WAKE_EN_PHRASE = true ∧ (s.step_ = 1 ∨ s.step_ = 2) ∧
      s.entry = 0 ∧ s.phase = 0) ∧
    (∃ (s : State),
      s.boot.powered = true ∧ 7 ≤ s.stage ∧ s.on F.PWR_WAKE_EN_PHRASE = true ∧ s.phase = 5 ∧ s.stair.left ≤ 2) ∧
    (∃ (s : State),
      (s.on F.PWR_WAKE_EN_PHRASE = false ∨ s.shallow = false)) ∧
    (∃ (s : State) (b : Nat),
      s.boot.powered = true ∧ 7 ≤ s.stage ∧ s.on F.PWR_WAKE_EN_PHRASE = true ∧ b + 30720 ≤ s.now ∧
      s.stair.commitNow < b ∧ (s.step_ = 3 ∨ s.step_ = 4) ∧ s.entry = 0 ∧ s.phase = 0) ∧
    (∃ (s : State) (b : Nat),
      s.boot.powered = true ∧ 7 ≤ s.stage ∧ s.on F.PWR_WAKE_EN_PHRASE = true ∧ b + 30720 ≤ s.now ∧
      s.stair.commitNow < b ∧ s.phase = 4 ∧ 3 ≤ s.entry ∧ s.stair.commitNow < s.now) ∧
    (∃ (s : State) (b : Nat),
      s.boot.powered = true ∧ 7 ≤ s.stage ∧ s.on F.PWR_WAKE_EN_PHRASE = true ∧ b + 30720 ≤ s.now ∧
      s.stair.commitNow < b ∧ s.phase = 5 ∧ 3 ≤ s.stair.left) ∧
    (∃ (s : State) (b : Nat),
      s.boot.powered = true ∧ 7 ≤ s.stage ∧ s.on F.PWR_WAKE_EN_PHRASE = true ∧ b + 30720 ≤ s.now ∧
      s.stair.commitNow < b ∧ s.step_ = 5 ∧ s.entry = 0 ∧ s.phase = 0 ∧ s.boot.mainGood = false) ∧
    (∃ (s : State) (b : Nat),
      s.boot.powered = true ∧ 7 ≤ s.stage ∧ s.on F.PWR_WAKE_EN_PHRASE = true ∧ b + 30720 ≤ s.now ∧
      s.stair.commitNow < b ∧ s.step_ = 5 ∧ s.entry = 0 ∧ s.phase = 0 ∧ s.boot.mainGood = true) ∧
    (∃ (s : State),
      s.boot.powered = true ∧ 7 ≤ s.stage ∧ s.on F.PWR_WAKE_EN_HOST_LINK = true ∧ s.g F.PCI_LINK_STATE = 4 ∧
      (s.step_ = 3 ∨ s.step_ = 4) ∧ s.entry = 0 ∧ s.phase = 0) ∧
    (∃ (s : State),
      s.boot.powered = true ∧ 7 ≤ s.stage ∧ s.on F.PWR_WAKE_EN_HOST_LINK = true ∧ s.g F.PCI_LINK_STATE = 4 ∧
      s.phase = 4 ∧ (3 ≤ s.entry ∧ s.entry ≤ 4) ∧ s.stair.commitNow < s.now) ∧
    (∃ (s : State),
      s.boot.powered = true ∧ 7 ≤ s.stage ∧ s.on F.PWR_WAKE_EN_HOST_LINK = true ∧ s.g F.PCI_LINK_STATE = 4 ∧
      s.phase = 5 ∧ (3 ≤ s.stair.left ∧ s.stair.left ≤ 4)) ∧
    (∃ (s : State),
      s.boot.powered = true ∧ 7 ≤ s.stage ∧ s.on F.PWR_WAKE_EN_TRIG0 = true ∧ (s.step_ = 3 ∨ s.step_ = 4) ∧
      s.entry = 0 ∧ s.phase = 0) ∧
    (∃ (s : State),
      s.boot.powered = true ∧ 7 ≤ s.stage ∧ s.on F.PWR_WAKE_EN_TRIG0 = true ∧ s.phase = 4 ∧ 3 ≤ s.entry ∧
      s.stair.commitNow < s.now) ∧
    (∃ (s : State),
      s.boot.powered = true ∧ 7 ≤ s.stage ∧ s.on F.PWR_WAKE_EN_TRIG0 = true ∧ s.phase = 5 ∧ 3 ≤ s.stair.left) ∧
    (∃ (s : State),
      s.boot.powered = true ∧ 7 ≤ s.stage ∧ s.on F.PWR_WAKE_EN_TRIG0 = true ∧ s.step_ = 5 ∧ s.entry = 0 ∧ s.phase = 0 ∧
      s.boot.mainGood = false) ∧
    (∃ (s : State),
      s.boot.powered = true ∧ 7 ≤ s.stage ∧ s.on F.PWR_WAKE_EN_TRIG0 = true ∧ s.step_ = 5 ∧ s.entry = 0 ∧ s.phase = 0 ∧
      s.boot.mainGood = true) :=
  ⟨⟨((tZero.modBoot fun b => { b with powered := true }).modNewel (fun x => { x with counting := .ticks, phase := .locked, everLocked := true }) |>.put F.PWR_BOOT_STATUS_STAGE 7).put F.PWR_STEP_STATUS_STEP 2 |>.put F.PWR_WAKE_EN_PHRASE 1, by decide +kernel⟩,
    ⟨tWake 2 0 5 2 true, by decide +kernel⟩,
    ⟨{ tZero with agenda := [(0, .lockSequence)] }, by decide +kernel⟩,
    ⟨{ ((tZero.modBoot fun b => { b with powered := true }).modNewel (fun x => { x with counting := .ticks, phase := .locked, everLocked := true }) |>.put F.PWR_BOOT_STATUS_STAGE 7).put F.PWR_STEP_STATUS_STEP 3 |>.put F.PWR_WAKE_EN_PHRASE 1 with now := 31000 }, 1, by decide +kernel⟩,
    ⟨(tWake 2 3 4 0 true).put F.PCI_LINK_STATE 4, 6, by decide +kernel⟩,
    ⟨(tWake 3 0 5 3 true).put F.PCI_LINK_STATE 4, 6, by decide +kernel⟩,
    ⟨tWake 5 0 0 0 false, 6, by decide +kernel⟩,
    ⟨tWake 5 0 0 0 true, 6, by decide +kernel⟩,
    ⟨((tZero.modBoot fun b => { b with powered := true }).modNewel (fun x => { x with counting := .ticks, phase := .locked, everLocked := true }) |>.put F.PWR_BOOT_STATUS_STAGE 7).put F.PWR_STEP_STATUS_STEP 4 |>.put F.PWR_WAKE_EN_HOST_LINK 1 |>.put F.PCI_LINK_STATE 4, by decide +kernel⟩,
    ⟨(tWake 2 3 4 0 true).put F.PCI_LINK_STATE 4, by decide +kernel⟩,
    ⟨(tWake 3 0 5 3 true).put F.PCI_LINK_STATE 4, by decide +kernel⟩,
    ⟨((tZero.modBoot fun b => { b with powered := true }).modNewel (fun x => { x with counting := .ticks, phase := .locked, everLocked := true }) |>.put F.PWR_BOOT_STATUS_STAGE 7).put F.PWR_STEP_STATUS_STEP 3 |>.put F.PWR_WAKE_EN_TRIG0 1, by decide +kernel⟩,
    ⟨(tWake 2 3 4 0 true).put F.PCI_LINK_STATE 4, by decide +kernel⟩,
    ⟨(tWake 3 0 5 3 true).put F.PCI_LINK_STATE 4, by decide +kernel⟩,
    ⟨tWake 5 0 0 0 false, by decide +kernel⟩,
    ⟨tWake 5 0 0 0 true, by decide +kernel⟩⟩

/-- Hypotheses of `Obligations.CameraControl`. -/
theorem witness_CameraControl :
    (∃ (s : State) (c : Nat),
      c < 2 ∧ (s.cam c).active = false ∧ s.g (F.ARR_CAM_BAND_FIRST_PAIR c) ≤ s.g (F.ARR_CAM_BAND_LAST_PAIR c) ∧
      (s.g (F.ARR_CAM_CTRL_MODE c) = 0 ∨ s.g (F.ARR_CAM_CTRL_MODE c) = 3) ∧
      (c = 0 ∨ s.on (F.ARR_CAM_CTRL_LINK 1) = false) ∧ s.getPair (F.ARR_START_TIME_LO c) = 0) ∧
    (∃ (s : State) (c : Nat) (g : Nat) (f : Nat),
      c < 2 ∧ (s.cam c).active = false ∧ s.g (F.ARR_CAM_BAND_FIRST_PAIR c) ≤ s.g (F.ARR_CAM_BAND_LAST_PAIR c) ∧
      (s.g (F.ARR_CAM_CTRL_MODE c) = 0 ∨ s.g (F.ARR_CAM_CTRL_MODE c) = 3) ∧
      (c = 0 ∨ s.on (F.ARR_CAM_CTRL_LINK 1) = false) ∧ s.getPair (F.ARR_START_TIME_LO c) = g ∧ g ≠ 0 ∧
      f = (if g ≤ s.time + 3000 then gridEdge g (s.g (F.ARR_PERIOD_TICKS c)) (s.time + 3000) else g - (g - (s.time + 3000)) / s.g (F.ARR_PERIOD_TICKS c) * s.g (F.ARR_PERIOD_TICKS c))) ∧
    (∃ (s : State) (c : Nat),
      c < 2 ∧ (s.cam c).active = false ∧ s.g (F.ARR_CAM_BAND_FIRST_PAIR c) ≤ s.g (F.ARR_CAM_BAND_LAST_PAIR c) ∧
      ((c = 1 ∧ s.on (F.ARR_CAM_CTRL_LINK 1) = true) ∨ s.g (F.ARR_CAM_CTRL_MODE c) = 1 ∨ s.g (F.ARR_CAM_CTRL_MODE c) = 2)) ∧
    (∃ (s : State) (c : Nat),
      c < 2 ∧ ((s.cam c).active = true ∨ s.g (F.ARR_CAM_BAND_LAST_PAIR c) < s.g (F.ARR_CAM_BAND_FIRST_PAIR c))) ∧
    (∃ (s : State) (c : Nat),
      c < 2 ∧ (s.cam c).active = true) ∧
    (∃ (s : State) (c : Nat),
      c < 2 ∧ (s.cam c).active = false) ∧
    (∃ (s : State) (c : Nat),
      c < 2 ∧ (s.cam c).active = true ∧ (s.cam c).nextSlot = some (s.time + 3000) ∧ s.arrayRuns = true ∧
      s.admissible c (s.time + 3000) (s.schedFor c s.time) = true) ∧
    (∃ (s : State) (c : Nat),
      c < 2 ∧ (s.cam c).active = true ∧ (s.cam c).nextSlot = some (s.time + 3000) ∧ (s.cam (1 - c)).nextSlot = none ∧
      s.arrayRuns = true ∧ s.admissible c (s.time + 3000) (s.schedFor c s.time) = false) ∧
    (∃ (s : State) (c : Nat),
      c < 2 ∧ (s.cam c).active = true ∧ (s.cam c).nextSlot = some (s.time + 3000) ∧ (s.cam (1 - c)).nextSlot = none ∧
      s.arrayRuns = false) ∧
    (∃ (s : State) (c : Nat) (m : Nat),
      c < 2 ∧ bitN m c = true ∧ bitN m (1 - c) = false ∧ s.g (F.ARR_CAM_CTRL_TRIG_SRC c) = 34 ∧
      (c = 0 ∨ s.on (F.ARR_CAM_CTRL_LINK 1) = false) ∧ (s.cam c).active = true ∧ (s.cam c).startedAt ≤ s.time ∧
      s.arrayRanAt s.time = true ∧ (s.g (F.ARR_CAM_CTRL_MODE c) = 1 ∨ s.g (F.ARR_CAM_CTRL_MODE c) = 2) ∧
      s.g (F.ARR_CAM_STATUS_BURST_LEFT c) = 0 ∧
      s.admissible c (s.time + (s.schedFor c s.time).trigDelay) (s.schedFor c s.time) = true) ∧
    (∃ (s : State) (c : Nat) (m : Nat),
      c < 2 ∧ bitN m c = true ∧ bitN m (1 - c) = false ∧ s.g (F.ARR_CAM_CTRL_TRIG_SRC c) = 34 ∧
      (c = 0 ∨ s.on (F.ARR_CAM_CTRL_LINK 1) = false) ∧ (s.cam c).active = true ∧ (s.cam c).startedAt ≤ s.time ∧
      s.arrayRanAt s.time = true ∧ (s.g (F.ARR_CAM_CTRL_MODE c) = 1 ∨ s.g (F.ARR_CAM_CTRL_MODE c) = 2) ∧
      (s.g (F.ARR_CAM_STATUS_BURST_LEFT c) ≠ 0 ∨ s.admissible c (s.time + (s.schedFor c s.time).trigDelay) (s.schedFor c s.time) = false)) :=
  ⟨⟨{ tZero with agenda := [(0, .lockSequence)] }, 0, by decide +kernel⟩,
    ⟨(tLocked.put (F.ARR_START_TIME_LO_TIME 0) 5000).put (F.ARR_PERIOD_TICKS 0) 30000, 0, 5000, 35000, by decide +kernel⟩,
    ⟨tLocked.put (F.ARR_CAM_CTRL_MODE 0) 1, 0, by decide +kernel⟩,
    ⟨{ tLocked with cams := [{ Camera.idle with active := true }, Camera.idle] }, 0, by decide +kernel⟩,
    ⟨{ tLocked with cams := [{ Camera.idle with active := true }, Camera.idle] }, 0, by decide +kernel⟩,
    ⟨{ tZero with agenda := [(0, .lockSequence)] }, 0, by decide +kernel⟩,
    ⟨{ tLocked with cams := [{ Camera.idle with active := true, nextSlot := some 13000, period := 100000 }, Camera.idle] }, 0, by decide +kernel⟩,
    ⟨{ (State.reset.modNewel fun x => { x with counting := .ticks, phase := .locked, everLocked := true, time := 10000 }) with cams := [{ Camera.idle with active := true, nextSlot := some 13000, period := 100000, lastExposure := 900000, lastReadout := [900000, 900000] }, Camera.idle] }, 0, by decide +kernel⟩,
    ⟨{ tLocked.put F.PWR_STEP_STATUS_STEP 1 with cams := [{ Camera.idle with active := true, nextSlot := some 13000 }, Camera.idle] }, 0, by decide +kernel⟩,
    ⟨({ tLocked with cams := [{ Camera.idle with active := true }, Camera.idle] }).put (F.ARR_CAM_CTRL_TRIG_SRC 0) 34 |>.put (F.ARR_CAM_CTRL_MODE 0) 1, 0, 1, by decide +kernel⟩,
    ⟨({ tLocked with cams := [{ Camera.idle with active := true }, Camera.idle] }).put (F.ARR_CAM_CTRL_TRIG_SRC 0) 34 |>.put (F.ARR_CAM_CTRL_MODE 0) 2 |>.put (F.ARR_CAM_STATUS_BURST_LEFT 0) 3, 0, 1, by decide +kernel⟩⟩

/-- Hypotheses of `Obligations.FrameEvents`. -/
theorem witness_FrameEvents :
    (∃ (s : State) (c : Nat) (n : Nat),
      c < 2 ∧ n < 2 ∧ s.exposureAt c n (fun e => e.start == s.time + 750) = true) ∧
    (∃ (s : State) (c : Nat) (n : Nat),
      c < 2 ∧ n < 2 ∧ s.exposureAt c n (fun e => e.start == s.time + 750) = false) ∧
    (∃ (s : State) (c : Nat) (n : Nat),
      c < 2 ∧ n < 2 ∧ s.exposureAt c n (fun e => e.start == s.time) = true) ∧
    (∃ (s : State) (c : Nat) (n : Nat),
      c < 2 ∧ n < 2 ∧ s.exposureAt c n (fun e => e.start == s.time) = false) ∧
    (∃ (s : State) (c : Nat) (n : Nat) (o : Nat),
      c < 2 ∧ n < 2 ∧ s.exposureAt c n (fun e => e.stop == s.time) = true ∧
      (nth (s.cam c).nodes n Node.idle).openSince = some o) ∧
    (∃ (s : State) (c : Nat) (n : Nat),
      c < 2 ∧ n < 2 ∧ s.exposureAt c n (fun e => e.stop == s.time) = false) ∧
    (∃ (s : State) (c : Nat),
      c < 2 ∧ ((s.cam c).frames.any fun f => !f.started && f.start == s.time) = true) ∧
    (∃ (s : State) (c : Nat) (n : Nat) (f : Frame) (o : Readout) (img : List (Nat × List Int)),
      c < 2 ∧ n < 2 ∧ (s.cam c).frames.find? (fun g => g.readouts.any fun r => r.starts n s.time) = some f ∧
      f.readouts.find? (fun r => r.starts n s.time) = some o) ∧
    (∃ (s : State) (c : Nat) (n : Nat) (f : Frame) (o : Readout),
      c < 2 ∧ n < 2 ∧ (s.cam c).frames.find? (fun g => g.readouts.any fun r => r.passes n s.time) = some f ∧
      f.readouts.find? (fun r => r.passes n s.time) = some o ∧ o.next + 1 ≠ o.pairs.length) ∧
    (∃ (s : State) (c : Nat) (n : Nat) (f : Frame) (o : Readout),
      c < 2 ∧ n < 2 ∧ (s.cam c).frames.find? (fun g => g.readouts.any fun r => r.passes n s.time) = some f ∧
      f.readouts.find? (fun r => r.passes n s.time) = some o ∧ o.next + 1 = o.pairs.length) :=
  ⟨⟨{ ((tLocked.put F.PWR_STEP_STATUS_ENTRY 2).put F.PWR_STEP_STATUS_PHASE 1) with cams := (tCam ⟨10750, [], [⟨0, 10750, 12000⟩], [], false, []⟩ Node.idle).cams }, 0, 0, by decide +kernel⟩,
    ⟨{ tZero with agenda := [(0, .lockSequence)] }, 0, 0, by decide +kernel⟩,
    ⟨tCam ⟨10000, [], [⟨0, 10000, 12000⟩], [], false, []⟩ Node.idle, 0, 0, by decide +kernel⟩,
    ⟨{ tZero with agenda := [(0, .lockSequence)] }, 0, 0, by decide +kernel⟩,
    ⟨tCam ⟨9000, [], [⟨0, 9000, 10000⟩], [], true, []⟩ ⟨5, some 9000, 0⟩, 0, 0, 9000, by decide +kernel⟩,
    ⟨{ tZero with agenda := [(0, .lockSequence)] }, 0, 0, by decide +kernel⟩,
    ⟨tCam ⟨10000, [], [⟨0, 10000, 12000⟩], [], false, []⟩ Node.idle, 0, by decide +kernel⟩,
    ⟨tCam ⟨9000, [], [], [⟨0, 10000, 6000, [0, 1], 0, false⟩], true, []⟩ Node.idle, 0, 0, { start := 9000, record := [], exposures := [], readouts := [{ node := 0, start := 10000, slotTicks := 6000, pairs := [0, 1], next := 0, begun := false }], started := true, wins := [] }, { node := 0, start := 10000, slotTicks := 6000, pairs := [0, 1], next := 0, begun := false }, [], by decide +kernel⟩,
    ⟨tCam ⟨4000, [], [], [⟨0, 4000, 6000, [0, 1], 0, true⟩], true, []⟩ Node.idle, 0, 0, { start := 4000, record := [], exposures := [], readouts := [{ node := 0, start := 4000, slotTicks := 6000, pairs := [0, 1], next := 0, begun := true }], started := true, wins := [] }, { node := 0, start := 4000, slotTicks := 6000, pairs := [0, 1], next := 0, begun := true }, by decide +kernel⟩,
    ⟨tCam ⟨4000, [], [], [⟨0, 4000, 3000, [0, 1], 1, true⟩], true, []⟩ Node.idle, 0, 0, { start := 4000, record := [], exposures := [], readouts := [{ node := 0, start := 4000, slotTicks := 3000, pairs := [0, 1], next := 1, begun := true }], started := true, wins := [] }, { node := 0, start := 4000, slotTicks := 3000, pairs := [0, 1], next := 1, begun := true }, by decide +kernel⟩⟩

/-- Hypotheses of `Obligations.CompanionControl`. -/
theorem witness_CompanionControl :
    (∃ (s : State) (x : Nat),
      x < 2 ∧ s.unitsAnswer = true ∧ s.xstate x = 0) ∧
    (∃ (s : State) (x : Nat),
      x < 2 ∧ (s.xport x).frame = none) ∧
    (∃ (s : State) (x : Nat),
      x < 2 ∧ (s.xport x).frame.isSome = true) ∧
    (∃ (s : State) (x : Nat),
      x < 2 ∧ (s.xstate x = 1 ∨ s.xstate x = 3 ∨ s.xstate x = 5)) ∧
    (∃ (s : State) (x : Nat) (q : Nat) (len : Nat) (e : List Bool) (ch : List Nat),
      x < 2 ∧ s.xstate x = 2 ∧ s.now = (s.xport x).trainEnd ∧
      eye ((e ++ List.replicate (16 * s.xdiv x) true).take (16 * s.xdiv x)) = (q, len) ∧
      ceilDiv (35 * (16 * s.xdiv x)) 100 ≤ len ∧ (∀ i, i < 16 * s.xdiv x → 8 ≤ nth ch i 0)) ∧
    (∃ (s : State) (x : Nat) (q : Nat) (len : Nat) (e : List Bool) (ch : List Nat),
      x < 2 ∧ s.xstate x = 2 ∧ s.now = (s.xport x).trainEnd ∧
      eye ((e ++ List.replicate (16 * s.xdiv x) true).take (16 * s.xdiv x)) = (q, len) ∧
      (len < ceilDiv (35 * (16 * s.xdiv x)) 100 ∨ (∃ i, i < 16 * s.xdiv x ∧ nth ch i 0 < 8))) ∧
    (∃ (s : State) (x : Nat),
      x < 2 ∧ s.xstate x = 2 ∧ s.now = (s.xport x).trainEnd) ∧
    (∃ (s : State) (x : Nat),
      x < 2 ∧ s.xstate x = 3 ∧ (s.boundTo (3 + x)).any s.pipeRunning = true) ∧
    (∃ (s : State) (x : Nat),
      x < 2 ∧ s.xstate x = 4 ∧ (s.xport x).stopping = false ∧ (s.xport x).frame = none) ∧
    (∃ (s : State) (x : Nat),
      x < 2 ∧ s.xstate x = 4 ∧ (s.xport x).stopping = false ∧ (s.xport x).frame.isSome = true ∧ (s.xport x).line = none) ∧
    (∃ (s : State) (x : Nat),
      x < 2 ∧ s.xstate x = 4 ∧ (s.xport x).stopping = false ∧ (s.xport x).frame.isSome = true ∧
      (s.xport x).line.isSome = true) :=
  ⟨⟨((tZero.modBoot fun b => { b with powered := true }).modNewel fun x => { x with counting := .ticks }).put F.PCI_LINK_STATE 2 |>.put F.PWR_BOOT_STATUS_STAGE 7 |>.setConfig 4 0x6#32, 0, by decide +kernel⟩,
    ⟨{ tZero with agenda := [(0, .lockSequence)] }, 0, by decide +kernel⟩,
    ⟨tPort 4 fun p => { p with frames := [tX] }, 0, by decide +kernel⟩,
    ⟨tLocked.put (F.XPT_STATUS_STATE 0) 1, 0, by decide +kernel⟩,
    ⟨(tLocked.put (F.XPT_STATUS_STATE 0) 2).put F.NWL_DIV_ACTIVE_XCLK0 10, 0, 0, 160, (List.replicate 512 false), (List.replicate 512 8), by decide +kernel⟩,
    ⟨(tLocked.put (F.XPT_STATUS_STATE 0) 2).put F.NWL_DIV_ACTIVE_XCLK0 10, 0, 0, 0, [], [], by decide +kernel⟩,
    ⟨(tLocked.put (F.XPT_STATUS_STATE 0) 2).put F.NWL_DIV_ACTIVE_XCLK0 10, 0, by decide +kernel⟩,
    ⟨{ (tLocked.put (F.XPT_STATUS_STATE 0) 3).put (F.PIP_SRC_SRC 2) 3 with pipes := [Pipe.idle, Pipe.idle, { Pipe.idle with bound := true }, Pipe.idle] }, 0, by decide +kernel⟩,
    ⟨tLocked.put (F.XPT_STATUS_STATE 0) 4, 0, by decide +kernel⟩,
    ⟨tPort 4 fun p => { p with frames := [tX] }, 0, by decide +kernel⟩,
    ⟨tPort 4 fun p => { p with frames := [tX], line := some 9500 }, 0, by decide +kernel⟩⟩

/-- Hypotheses of `Obligations.CompanionFrames`. -/
theorem witness_CompanionFrames :
    (∃ (s : State) (x : Nat),
      x < 2 ∧ s.xstate x = 4 ∧ (s.xport x).stopping = false ∧ (s.xport x).frame = none ∧ (s.xport x).rise ≠ some s.now) ∧
    (∃ (s : State) (x : Nat),
      x < 2 ∧ s.xstate x = 4 ∧ (s.xport x).stopping = false ∧ (s.xport x).frame = none ∧ (s.xport x).rise = some s.now) ∧
    (∃ (s : State) (x : Nat),
      x < 2 ∧ (s.xstate x ≠ 4 ∨ (s.xport x).stopping = true ∨ (s.xport x).frame.isSome = true)) ∧
    (∃ (s : State) (x : Nat) (first : Nat) (ws : List Nat) (f : XFrame) (m : Nat),
      x < 2 ∧ s.xstate x = 4 ∧ first ≤ s.time ∧ (s.xport x).frame = some f ∧ f.edge ≤ s.xedge x first ∧
      f.next + 1 < f.lines ∧ (s.xport x).stopping = false ∧ m = (lineOf (s.g (F.XPT_FMT_WIDTH x)) ws true).2) ∧
    (∃ (s : State) (x : Nat) (first : Nat) (ws : List Nat) (f : XFrame) (m : Nat),
      x < 2 ∧ s.xstate x = 4 ∧ first ≤ s.time ∧ (s.xport x).frame = some f ∧ f.edge ≤ s.xedge x first ∧
      f.next + 1 = f.lines ∧ m = (lineOf (s.g (F.XPT_FMT_WIDTH x)) ws true).2) ∧
    (∃ (s : State) (x : Nat) (first : Nat) (ws : List Nat) (f : XFrame),
      x < 2 ∧ s.xstate x = 4 ∧ first ≤ s.time ∧ (s.xport x).frame = some f ∧ f.edge ≤ s.xedge x first) ∧
    (∃ (s : State) (x : Nat) (first : Nat) (ws : List Nat),
      x < 2 ∧ s.xstate x = 4 ∧ first ≤ s.time ∧ (s.xport x).frame = none ∧
      (s.xedge x first < (s.xport x).last.1 ∨ (s.xport x).last.2 ≤ first)) ∧
    (∃ (s : State) (x : Nat),
      x < 2) ∧
    (∃ (s : State) (x : Nat) (f : XFrame),
      x < 2 ∧ s.boundTo (3 + x) = [] ∧ (s.xport x).frames = [f] ∧ f.closed = false ∧
      (f.queue.all fun l => decide (l.releaseAt ≤ s.time)) = true) ∧
    (∃ (s : State) (x : Nat) (f : XFrame),
      x < 2 ∧ s.xstate x = 4 ∧ (s.xport x).frame = some f) ∧
    (∃ (s : State) (x : Nat) (f : XFrame),
      x < 2 ∧ s.xstate x = 4 ∧ (s.xport x).frame = some f ∧ f.edge + s.e (F.XPT_FRAME_WIN_TICKS x) = s.time) ∧
    (∃ (s : State) (x : Nat),
      x < 2 ∧ s.xstate x = 4) :=
  ⟨⟨tLocked.put (F.XPT_STATUS_STATE 0) 4, 0, by decide +kernel⟩,
    ⟨tPort 4 fun p => { p with rise := some 0 }, 0, by decide +kernel⟩,
    ⟨{ tZero with agenda := [(0, .lockSequence)] }, 0, by decide +kernel⟩,
    ⟨tPort 4 fun p => { p with frames := [tX] }, 0, 9500, [], tX, 2, by decide +kernel⟩,
    ⟨tPort 4 fun p => { p with frames := [{ tX with lines := 1 }], line := some 9500 }, 0, 9500, [], { start := 9000, edge := 9000, lines := 1, lat := 0, queue := [], released := [], closed := false, crc := 0, length := 0, missing := 0, strays := 0, firstBad := none, lastBad := none, timeout := false, eye := false, stopped := false, clock := false }, 2, by decide +kernel⟩,
    ⟨tPort 4 fun p => { p with frames := [tX] }, 0, 9500, [], tX, by decide +kernel⟩,
    ⟨tLocked.put (F.XPT_STATUS_STATE 0) 4, 0, 0, [], by decide +kernel⟩,
    ⟨{ tZero with agenda := [(0, .lockSequence)] }, 0, by decide +kernel⟩,
    ⟨tPort 4 fun p => { p with frames := [tX] }, 0, tX, by decide +kernel⟩,
    ⟨tPort 4 fun p => { p with frames := [tX] }, 0, tX, by decide +kernel⟩,
    ⟨(tPort 4 fun p => { p with frames := [tX] }).setEff (F.XPT_FRAME_WIN 0) 1000#32, 0, tX, by decide +kernel⟩,
    ⟨tLocked.put (F.XPT_STATUS_STATE 0) 4, 0, by decide +kernel⟩⟩

/-- Hypotheses of `Obligations.RecordsAndJoins`. -/
theorem witness_RecordsAndJoins :
    (∃ (s : State) (p : Nat),
      p < 4) ∧
    (∃ (s : State) (p : Nat) (r : PipeFrame) (x : Rec),
      p < 4 ∧ (s.pipe p).frames = [r] ∧ r.recs = [x] ∧ x.issued = false ∧ x.issueAt ≤ s.time ∧ r.stopAt = none ∧
      r.complete = false ∧ (s.pipe p).capture = none ∧ (s.pipe p).bound = false ∧ s.joinSide x.pipe = none) ∧
    (∃ (s : State) (p : Nat),
      p < 4) ∧
    (∃ (s : State) (p : Nat) (r : PipeFrame) (j : Nat) (d : Nat) (c : Nat),
      p < 4 ∧ (s.pipe p).frames = [r] ∧ r.recs = [] ∧ r.completeAt = some c ∧ c ≤ s.time ∧ r.stopAt = none ∧
      r.complete = false ∧ r.planning ≠ 0 ∧ r.kind3 = ⟨2, 0, 0⟩ ∧ (s.pipe p).capture = none ∧
      (s.pipe p).bound = false ∧ s.joinSide p = some (j, d) ∧ (s.join j).waiting = [] ∧ (s.join j).under = []) ∧
    (∃ (s : State) (j : Nat),
      j < 2 ∧ s.recordsDue = false) ∧
    (∃ (s : State) (j : Nat),
      j < 2 ∧ s.recordsDue = true ∧
      ((s.join j).waiting.filter fun w => decide (w.2.issueAt + s.joinWait j w.1 w.2 ≤ s.time)) ≠ []) ∧
    (∃ (s : State) (j : Nat) (d : Nat) (x : Rec) (v : Nat),
      j < 2 ∧ d < 2 ∧ (s.join j).waiting = [(d, x)] ∧ x.issueAt + s.joinWait j d x ≤ s.time ∧ s.recordsDue = false ∧
      (v = if d = 0 then x.eff.g (F.CLS_JOIN_POLICY j) else s.e (F.CLS_JOIN_POLICY j))) ∧
    (∃ (s : State) (j : Nat) (w : Nat),
      j < 2 ∧ w < 2 ^ 32 ∧ s.joinClash j (w % 2) (w / 2 % 4) (w / 8 % 4) = false ∧
      (w % 2 = s.g (F.CLS_JOIN_EN j) ∧ w / 2 % 4 = s.g (F.CLS_JOIN_LEAD j) ∧ w / 8 % 4 = s.g (F.CLS_JOIN_PARTNER j))) ∧
    (∃ (s : State) (j : Nat) (w : Nat),
      j < 2 ∧ w < 2 ^ 32 ∧ s.joinClash j (w % 2) (w / 2 % 4) (w / 8 % 4) = false ∧
      ¬(w % 2 = s.g (F.CLS_JOIN_EN j) ∧ w / 2 % 4 = s.g (F.CLS_JOIN_LEAD j) ∧ w / 8 % 4 = s.g (F.CLS_JOIN_PARTNER j)) ∧
      ([s.g (F.CLS_JOIN_LEAD j), s.g (F.CLS_JOIN_PARTNER j), w / 2 % 4, w / 8 % 4].any s.pipeRuns) = false) ∧
    (∃ (s : State) (j : Nat) (w : Nat),
      j < 2 ∧ w < 2 ^ 32 ∧ s.joinClash j (w % 2) (w / 2 % 4) (w / 8 % 4) = false ∧
      ¬(w % 2 = s.g (F.CLS_JOIN_EN j) ∧ w / 2 % 4 = s.g (F.CLS_JOIN_LEAD j) ∧ w / 8 % 4 = s.g (F.CLS_JOIN_PARTNER j)) ∧
      ([s.g (F.CLS_JOIN_LEAD j), s.g (F.CLS_JOIN_PARTNER j), w / 2 % 4, w / 8 % 4].any s.pipeRuns) = true) ∧
    (∃ (s : State) (j : Nat) (w : Nat),
      j < 2 ∧ w < 2 ^ 32 ∧ s.joinClash j (w % 2) (w / 2 % 4) (w / 8 % 4) = true) :=
  ⟨⟨{ tZero with agenda := [(0, .lockSequence)] }, 0, by decide +kernel⟩,
    ⟨{ tLocked with pipes := [{ Pipe.idle with frames := [tFrame] }, Pipe.idle, Pipe.idle, Pipe.idle] }, 0, tFrame, tRec, by decide +kernel⟩,
    ⟨{ tZero with agenda := [(0, .lockSequence)] }, 0, by decide +kernel⟩,
    ⟨{ ((tLocked.put (F.CLS_JOIN_EN 0) 1).put (F.CLS_JOIN_PARTNER 0) 1) with pipes := [{ Pipe.idle with frames := [{ tFrame with recs := [], completeAt := some 9000, planning := 1, kind3 := ⟨2, 0, 0⟩ }] }, Pipe.idle, Pipe.idle, Pipe.idle] }, 0, { start := 1000, src := 1, flight := false, seq := 0, eff := [], record := [], temp := 0, seg := 0, weight := 0, clamped := false, fallback := false, zone := 0, nodeA := true, nodeB := true, tmA := 1500, tmB := 2000, endA := none, endB := none, parts := [], objsA := [], objsB := [], recs := [], overflowAt := [], spilled := false, before := none, completeAt := some 9000, complete := false, kind3 := { state := 2, seq := 0, next := 0 }, stopAt := none, planning := 1 }, 0, 0, 9000, by decide +kernel⟩,
    ⟨{ tZero with agenda := [(0, .lockSequence)] }, 0, by decide +kernel⟩,
    ⟨{ tLocked with agenda := [(0, .recordIssue 0)], joins := [{ Join.idle with waiting := [(0, tRec)] }, Join.idle] }, 0, by decide +kernel⟩,
    ⟨{ (((State.reset.modNewel fun x => { x with counting := .ticks, phase := .locked, everLocked := true, time := 2000000000 }).put (F.CLS_JOIN_EN 0) 1).put (F.CLS_JOIN_PARTNER 0) 1) with joins := [{ Join.idle with waiting := [(1, tRec)] }, Join.idle] }, 0, 1, tRec, 1, by decide +kernel⟩,
    ⟨{ (State.reset.modNewel fun x => { x with counting := .ticks, phase := .locked, everLocked := true, time := 10000 }) with cams := [{ Camera.idle with active := true, nextSlot := some 13000, period := 100000, lastExposure := 900000, lastReadout := [900000, 900000] }, Camera.idle] }, 0, 8, by decide +kernel⟩,
    ⟨{ tZero with agenda := [(0, .lockSequence)] }, 0, 2, by decide +kernel⟩,
    ⟨{ tLocked with pipes := modNth tZero.pipes 0 fun p => { p with capture := some 1 } }, 0, 2, by decide +kernel⟩,
    ⟨{ tZero with agenda := [(0, .lockSequence)] }, 0, 0, by decide +kernel⟩⟩

/-- Hypotheses of `Obligations.PlannerSteps`. -/
theorem witness_PlannerSteps :
    (∃ (s : State),
      (s.planner.handing.filter fun d => decide (d.at_ + 1500 ≤ s.time)).length + s.planner.intake.length ≤ 4096) ∧
    (∃ (s : State) (d : Decision),
      s.planner.handing = [d] ∧ d.at_ + 1500 ≤ s.time ∧ 4096 ≤ s.planner.intake.length) ∧
    (∃ (s : State) (d : Decision),
      s.planner.handing = [d] ∧ d.at_ + 1500 ≤ s.time ∧ s.planner.intake = []) ∧
    (∃ (s : State) (d : Decision) (e : Decision) (a : Nat),
      s.planner.handing = [d] ∧ d.at_ + 1500 ≤ s.time ∧ s.planner.intake = [(e, a)]) ∧
    (∃ (s : State),
      s.disableDue = false) ∧
    (∃ (s : State),
      s.disableDue = true) ∧
    (∃ (s : State) (d : Decision) (a : Nat),
      s.planner.intake = [(d, a)] ∧ a ≤ s.time ∧ s.disableDue = false ∧ d.judge = .accept) ∧
    (∃ (s : State) (d : Decision) (a : Nat) (x : Rec × Bool) (v : Nat) (k : Nat) (j : Nat) (u : Nat) (f : Nat),
      s.planner.intake = [(d, a)] ∧ a ≤ s.time ∧ s.disableDue = false ∧ d.judge = .group v ∧ d.reference = some x ∧
      x.1.valid = false ∧ d.rows = [k] ∧ d.jets k d.span.1 d.span.2 = [j] ∧ j < 256 ∧
      u = min (d.g (F.EJP_DUR_BASE v) + d.g (F.EJP_DUR_ROW_PER_ROW v) * (x.1.rowLast + 1 - x.1.rowFirst)) s.pulseLimit ∧
      f = (d.refTime x + d.g (F.EJP_ROW_FALLBACK_TICKS k) - d.g (F.EJP_ROW_LEAD_TICKS k) - (u / 2 : Nat)).toNat ∧
      bitN (s.g (F.EJP_JET_EN_MASK (j / 32))) (j % 32) = true ∧ s.jetEnd j = none ∧ s.enumerated (j / 32) = true ∧
      s.lateNow f = false ∧ (s.fireQueue (j / 32)).length < 128) ∧
    (∃ (s : State) (g : Nat) (m : Nat),
      g < 8 ∧ m < 2 ^ 32) :=
  ⟨⟨{ tZero with agenda := [(0, .lockSequence)] }, by decide +kernel⟩,
    ⟨{ tPlan with planner := { tZero.planner with handing := [{ tDecision with at_ := 8000 }], intake := List.replicate 4096 (tDecision, 9000) } }, tDecision, by decide +kernel⟩,
    ⟨{ tLocked with planner := { tZero.planner with handing := [⟨some tRec, none, 4, 2, [], 8000⟩] } }, { lead := some tRec, partner := none, disp := 4, join := 2, eff := [], at_ := 8000 }, by decide +kernel⟩,
    ⟨{ tLocked with planner := { tZero.planner with handing := [⟨some tRec, none, 4, 2, [], 8000⟩], intake := [(⟨some tRec, none, 4, 2, [], 8000⟩, 12000)] } }, { lead := some tRec, partner := none, disp := 4, join := 2, eff := [], at_ := 8000 }, { lead := some tRec, partner := none, disp := 4, join := 2, eff := [], at_ := 8000 }, 12000, by decide +kernel⟩,
    ⟨{ tZero with agenda := [(0, .lockSequence)] }, by decide +kernel⟩,
    ⟨{ tPlan with agenda := [(0, .jetDisable 0 0)] }, by decide +kernel⟩,
    ⟨{ tLocked with planner := { tZero.planner with intake := [(⟨some tRec, none, 4, 2, [], 8000⟩, 9000)] } }, { lead := some tRec, partner := none, disp := 4, join := 2, eff := [], at_ := 8000 }, 9000, by decide +kernel⟩,
    ⟨tPlan, tDecision, 9000, (tRec, false), 0, 0, 0, 50, 3001975, by decide +kernel⟩,
    ⟨{ tZero with agenda := [(0, .lockSequence)] }, 0, 0, by decide +kernel⟩⟩

/-- Hypotheses of `Obligations.LinkEnumeration`. -/
theorem witness_LinkEnumeration :
    (∃ (s : State),
      s.unitsAnswer = true ∧ s.linkState = 0) ∧
    (∃ (s : State),
      s.unitsAnswer = true ∧ s.linkState ≠ 0) ∧
    (∃ (s : State),
      s.unitsAnswer = true ∧ s.linkState ≠ 0 ∧ s.on F.HLK_CTRL_EN = true ∧ s.link.closing = false) ∧
    (∃ (s : State),
      (s.unitsAnswer = false ∨ s.linkState = 0 ∨ s.on F.HLK_CTRL_EN = false ∨ s.link.closing = true)) ∧
    (∃ (s : State),
      s.linkState ≠ 0 ∧ s.link.closing = false ∧ s.lineFree ≤ s.time) ∧
    (∃ (s : State),
      s.linkState ≠ 0 ∧ s.link.closing = false ∧ s.time < s.lineFree) ∧
    (∃ (s : State),
      s.link.closing = true ∧ s.time < s.lineFree) ∧
    (∃ (s : State),
      s.link.closing = true ∧ s.lineFree ≤ s.time ∧ s.g F.HLK_CTRL_EN = 0) ∧
    (∃ (s : State),
      s.link.closing = true ∧ s.lineFree ≤ s.time ∧ s.on F.HLK_CTRL_EN = true) ∧
    (∃ (s : State),
      s.linkState = 0 ∧ s.link.closing = false) :=
  ⟨⟨((tZero.modBoot fun b => { b with powered := true }).modNewel fun x => { x with counting := .ticks }).put F.PCI_LINK_STATE 2 |>.put F.PWR_BOOT_STATUS_STAGE 7 |>.setConfig 4 0x6#32, by decide +kernel⟩,
    ⟨((tWake 0 0 0 0 true).put F.HLK_STATUS_STATE 5).put F.HLK_CTRL_EN 1, by decide +kernel⟩,
    ⟨((tWake 0 0 0 0 true).put F.HLK_STATUS_STATE 5).put F.HLK_CTRL_EN 1, by decide +kernel⟩,
    ⟨{ tZero with agenda := [(0, .lockSequence)] }, by decide +kernel⟩,
    ⟨((tLocked).put F.HLK_STATUS_STATE 5).put F.HLK_CTRL_EN 1, by decide +kernel⟩,
    ⟨((tWake 0 0 0 0 true).put F.HLK_STATUS_STATE 5).modLink fun k => { k with lineEnd := 20000 }, by decide +kernel⟩,
    ⟨((tWake 0 0 0 0 true).put F.HLK_STATUS_STATE 5).modLink fun k => { k with lineEnd := 20000, closing := true }, by decide +kernel⟩,
    ⟨((tWake 0 0 0 0 true).put F.HLK_STATUS_STATE 5).modLink fun k => { k with closing := true }, by decide +kernel⟩,
    ⟨(((tWake 0 0 0 0 true).put F.HLK_STATUS_STATE 5).put F.HLK_CTRL_EN 1).modLink fun k => { k with closing := true }, by decide +kernel⟩,
    ⟨{ tZero with agenda := [(0, .lockSequence)] }, by decide +kernel⟩⟩

/-- Hypotheses of `Obligations.LinkPhases`. -/
theorem witness_LinkPhases :
    (∃ (s : State),
      s.linkState = 1 ∧ s.link.phaseStart + 3000000 ≤ s.now ∧ s.link.failed = false) ∧
    (∃ (s : State) (n : Nat),
      s.linkState = n ∧ (n = 1 ∨ n = 2) ∧ s.link.phaseStart + 15000000 ≤ s.now ∧ s.link.failed = false) ∧
    (∃ (s : State) (u : Option Nat) (d : Nat),
      s.linkState = 2 ∧ s.link.rtts = [] ∧ s.link.failed = false) ∧
    (∃ (s : State) (h : Nat) (u : Option Nat) (d : Nat),
      s.linkState = 2 ∧ h = s.link.rtts.length ∧ 0 < h ∧ h ≤ 8 ∧ s.link.failed = false) ∧
    (∃ (s : State) (h : Nat) (u : Option Nat) (d : Nat),
      (s.linkState ≠ 2 ∨ s.link.failed = true ∨ h ≠ s.link.rtts.length ∨ 8 < h)) ∧
    (∃ (s : State) (n : Nat) (rx : Rx) (r : List Nat),
      s.linkState = 2 ∧ s.link.failed = false ∧ n ≤ 8 ∧ rx.hop s.link.rtts = some r ∧ r.length = n + 1 ∧
      r.contains 0xFFFF = false ∧ (∀ x ∈ r, x < 2 ^ 16) ∧ loopDelay r n < 2 ^ 16) ∧
    (∃ (s : State) (n : Nat) (rx : Rx) (r : List Nat),
      s.linkState = 2 ∧ s.link.failed = false ∧ n ≤ 8 ∧ rx.hop s.link.rtts = some r ∧ r.length = n + 1 ∧
      r.contains 0xFFFF = true) ∧
    (∃ (s : State) (n : Nat) (rx : Rx),
      rx.hop s.link.rtts = none) ∧
    (∃ (s : State) (g : Nat) (p : Nat) (w : Nat) (v : Nat) (rx : Rx),
      g < 8 ∧ s.linkState = 3 ∧ (s.station g).powered = true ∧ 2 ≤ (s.station g).state ∧
      (s.station g).address.isSome = true ∧ 1 ≤ p ∧ p < s.link.rtts.length ∧
      s.link.replies.any (fun r => r.1 == p) = false ∧
      rx.reply (p, (s.station g).strap, (s.station g).rev) = some (p, w, v)) ∧
    (∃ (s : State) (g : Nat) (p : Nat) (rx : Rx),
      g < 8 ∧
      (s.linkState ≠ 3 ∨ (s.station g).powered = false ∨ (s.station g).state < 2 ∨ (s.station g).address = none ∨ rx.reply (p, (s.station g).strap, (s.station g).rev) = none)) ∧
    (∃ (s : State),
      s.linkState = 3 ∧ s.time = s.identTick ∧ s.link.members = noMembers) ∧
    (∃ (s : State) (w : Nat) (v : Nat) (d : Nat),
      s.linkState = 3 ∧ s.time = s.identTick ∧ s.link.rtts.length = 2 ∧ s.link.replies = [(1, w, v)] ∧ w < 2 ^ 32 ∧
      w / 65536 % 16 = 0 ∧ nth s.link.delays 1 0 = d ∧ d < 1000 ∧ s.link.members = noMembers) ∧
    (∃ (s : State),
      (s.linkState ≠ 3 ∨ s.time ≠ s.identTick)) ∧
    (∃ (s : State),
      s.linkState = 5 ∧ s.g F.HLK_STATUS_RESULT = 0 ∧ s.link.enumLeft = 0) :=
  ⟨⟨{ ((tLocked).put F.HLK_STATUS_STATE 1) with now := 4000000 }, by decide +kernel⟩,
    ⟨{ ((tLocked).put F.HLK_STATUS_STATE 2) with now := 40000000 }, 2, by decide +kernel⟩,
    ⟨{ ((tLocked).put F.HLK_STATUS_STATE 2) with now := 40000000 }, none, 0, by decide +kernel⟩,
    ⟨(((tLocked).put F.HLK_STATUS_STATE 2)).modLink fun k => { k with rtts := [624, 640] }, 2, none, 0, by decide +kernel⟩,
    ⟨{ tZero with agenda := [(0, .lockSequence)] }, 0, none, 0, by decide +kernel⟩,
    ⟨(((tLocked).put F.HLK_STATUS_STATE 2)).modLink fun k => { k with rtts := [624, 640] }, 1, Rx.intact, [624, 640], by decide +kernel⟩,
    ⟨(tLocked.put F.HLK_STATUS_STATE 2).modLink fun k => { k with rtts := [700, 0xFFFF] }, 1, Rx.intact, [700, 65535], by decide +kernel⟩,
    ⟨{ tZero with agenda := [(0, .lockSequence)] }, 0, Rx.groups false [], by decide +kernel⟩,
    ⟨{ (((tLocked).put F.HLK_STATUS_STATE 3)).modLink fun k => { k with rtts := [624, 640] } with stations := [{ Station.idle with powered := true, regs := [(4, 1), (G.lnkState.off, 2)] }] }, 0, 1, 1, 0, Rx.intact, by decide +kernel⟩,
    ⟨{ tZero with agenda := [(0, .lockSequence)] }, 0, 0, Rx.intact, by decide +kernel⟩,
    ⟨(tLocked.put F.HLK_STATUS_STATE 3).modLink fun k => { k with rtts := [5, 6], loop := 0, lineEnd := 3952 }, by decide +kernel⟩,
    ⟨(tLocked.put F.HLK_STATUS_STATE 3).modLink fun k => { k with rtts := [5, 6], loop := 0, lineEnd := 3952, replies := [(1, 3, 2)] }, 3, 2, 0, by decide +kernel⟩,
    ⟨{ tZero with agenda := [(0, .lockSequence)] }, by decide +kernel⟩,
    ⟨((tLocked).put F.HLK_STATUS_STATE 5).put F.HLK_CTRL_EN 1, by decide +kernel⟩⟩

/-- Hypotheses of `Obligations.LinkCycles`. -/
theorem witness_LinkCycles :
    (∃ (s : State),
      s.linkState = 4 ∧ s.lineBusy s.time = false) ∧
    (∃ (s : State),
      s.linkState = 4 ∧ s.lineBusy s.time = true) ∧
    (∃ (s : State),
      s.linkState = 5 ∧ s.link.next = some s.time ∧ s.link.cycling = true ∧ s.link.closing = false ∧ s.ticking = true ∧
      (s.countPark.parkOver = false ∨ s.link.park < 3) ∧ s.link.nslot ≤ 8) ∧
    (∃ (s : State),
      s.linkState = 5 ∧ s.link.next = some s.time ∧ s.link.cycling = true ∧ s.link.closing = false ∧ s.ticking = true ∧
      s.countPark.parkOver = true ∧ 3 ≤ s.link.park) ∧
    (∃ (s : State),
      s.linkState ≠ 4 ∧
      (s.linkState ≠ 5 ∨ s.link.next ≠ some s.time ∨ s.link.cycling = false ∨ s.link.closing = true ∨ s.ticking = false)) ∧
    (∃ (s : State) (g : Nat) (a : Nat) (rx : Rx) (m : Member) (c : ReadContent) (r : ReadContent),
      g < 8 ∧ (s.station g).powered = true ∧ (s.station g).address = some a ∧ s.member a = some m ∧ s.inCycle = true ∧
      m.held = none ∧ s.time = s.link.start + 11064 + 6000 * (s.station g).slot + s.link.loop ∧
      (s.station g).latched = some c ∧ c.sent = true ∧ c.cyc = s.link.cyc ∧ rx.content a c = some r) ∧
    (∃ (s : State) (g : Nat) (a : Nat) (rx : Rx) (m : Member) (c : ReadContent) (r : ReadContent),
      g < 8 ∧ (s.station g).powered = true ∧ (s.station g).address = some a ∧ s.member a = some m ∧ s.inCycle = true ∧
      m.held = none ∧ s.time = s.link.start + 11064 + 6000 * (s.station g).slot + s.link.loop ∧
      (s.station g).latched = some c ∧ c.sent = true ∧ c.cyc = s.link.cyc ∧ rx.content a c = some r ∧
      bitN r.stat 3 = false ∧ s.g (F.HLK_STA_STATE a) = 1 ∧ s.fireQueue a = []) ∧
    (∃ (s : State) (g : Nat) (a : Nat) (rx : Rx) (m : Member),
      g < 8 ∧ (s.station g).powered = true ∧ (s.station g).address = some a ∧ s.member a = some m ∧ s.inCycle = true ∧
      m.held = none ∧ s.time = s.link.start + 11064 + 6000 * (s.station g).slot + s.link.loop ∧
      (s.station g).latched.any (fun c => c.sent && decide (c.cyc = s.link.cyc) && (rx.content a c).isSome) = false ∧
      ((s.station g).latched.any (fun c => c.sent && decide (c.cyc = s.link.cyc)) = true ∨ rx ≠ .intact)) ∧
    (∃ (s : State) (g : Nat) (rx : Rx),
      g < 8 ∧ ((s.station g).powered = false ∨ (s.station g).address = none ∨ s.inCycle = false)) ∧
    (∃ (s : State) (g : Nat) (m : Member),
      g < 8 ∧ s.member g = some m ∧ s.inCycle = true ∧ m.held = none ∧
      s.time = s.link.start + 11064 + 6000 * m.slot + s.link.loop ∧ m.enum = true) ∧
    (∃ (s : State) (g : Nat) (m : Member),
      g < 8 ∧ s.member g = some m ∧ s.inCycle = true ∧ m.held = none ∧
      s.time = s.link.start + 11064 + 6000 * m.slot + s.link.loop ∧ m.enum = true ∧ m.miss ≠ 0 ∧ m.miss ≠ 2 ∧
      s.fireQueue g = []) ∧
    (∃ (s : State) (g : Nat) (m : Member),
      g < 8 ∧ s.member g = some m ∧ s.inCycle = true ∧ m.held = none ∧
      s.time = s.link.start + 11064 + 6000 * m.slot + s.link.loop ∧ m.enum = true ∧ m.miss = 2 ∧ s.fireQueue g = []) ∧
    (∃ (s : State) (g : Nat) (m : Member),
      g < 8 ∧ s.member g = some m ∧ s.inCycle = true ∧ m.held = none ∧
      s.time = s.link.start + 11064 + 6000 * m.slot + s.link.loop ∧ m.enum = false) ∧
    (∃ (s : State) (g : Nat) (m : Member),
      g < 8 ∧ s.member g = some m ∧
      (s.inCycle = false ∨ m.held.isSome = true ∨ s.time ≠ s.link.start + 11064 + 6000 * m.slot + s.link.loop)) ∧
    (∃ (s : State) (o : Option Nat) (d : Nat),
      d = o.getD s.link.loop ∧ s.inCycle = true ∧ s.time = s.link.start + d ∧
      (((d : Int) - (s.g F.HLK_LOOP_ENUM : Int)).natAbs ≤ 3 ∨ s.link.driftCycles + 1 < 16)) ∧
    (∃ (s : State) (o : Option Nat) (d : Nat),
      d = o.getD s.link.loop ∧ s.inCycle = true ∧ s.time = s.link.start + d ∧
      3 < ((d : Int) - (s.g F.HLK_LOOP_ENUM : Int)).natAbs ∧ s.link.driftCycles + 1 = 16) ∧
    (∃ (s : State) (o : Option Nat) (d : Nat),
      d = o.getD s.link.loop ∧ s.inCycle = true ∧ s.time < s.link.start + d ∧ s.markerAwaited = true) ∧
    (∃ (s : State) (rx : Rx),
      s.inCycle = true ∧ s.markerAwaited = true ∧ s.link.openCycles < 2) ∧
    (∃ (s : State) (rx : Rx),
      s.inCycle = true ∧ s.markerAwaited = true ∧ 2 ≤ s.link.openCycles) ∧
    (∃ (s : State) (rx : Rx),
      (s.inCycle = false ∨ s.markerAwaited = false)) :=
  ⟨⟨((tLocked).put F.HLK_STATUS_STATE 4), by decide +kernel⟩,
    ⟨(tLocked.put F.HLK_STATUS_STATE 4).modLink fun k => { k with line := some ⟨1, 0, 9900, [0, 0, 0, 0]⟩ }, by decide +kernel⟩,
    ⟨(((tLocked).put F.HLK_STATUS_STATE 5)).modLink fun k => { k with members := some ⟨1, 0, 100, true, 0, none, 0, 0, [], false, none, false⟩ :: List.replicate 7 none, nslot := 1, cycling := true, start := 9600, len := 21600, cyc := 7, loop := 200, next := some 10000 }, by decide +kernel⟩,
    ⟨{ ((tLocked.put F.HLK_STATUS_STATE 5).put F.PWR_STEP_STATUS_PHASE 2).modLink fun k => { k with next := some 10000, cycling := true, park := 3 } with stair := { tZero.stair with parkCycles := 1 } }, by decide +kernel⟩,
    ⟨{ tZero with agenda := [(0, .lockSequence)] }, by decide +kernel⟩,
    ⟨tCycle 20864 { tMember with held := none } { tGal with latched := some ⟨7, 0, true, 3, 5, 9, 77, 0, 0⟩ } id, 0, 0, Rx.intact, { pos := 1, slot := 0, delay := 100, enum := true, miss := 0, held := none, ack := 0, prev := 0, sent := [], outset := true, parked := none, setup := false }, { cyc := 7, sentAt := 0, sent := true, stat := 3, inputs := 5, on_ := 9, peak := 77, ack := 0, aux := 0 }, { cyc := 7, sentAt := 0, sent := true, stat := 3, inputs := 5, on_ := 9, peak := 77, ack := 0, aux := 0 }, by decide +kernel⟩,
    ⟨tCycle 20864 { tMember with held := none } { tGal with latched := some ⟨7, 0, true, 3, 5, 9, 77, 0, 0⟩ } id, 0, 0, Rx.intact, { pos := 1, slot := 0, delay := 100, enum := true, miss := 0, held := none, ack := 0, prev := 0, sent := [], outset := true, parked := none, setup := false }, { cyc := 7, sentAt := 0, sent := true, stat := 3, inputs := 5, on_ := 9, peak := 77, ack := 0, aux := 0 }, { cyc := 7, sentAt := 0, sent := true, stat := 3, inputs := 5, on_ := 9, peak := 77, ack := 0, aux := 0 }, by decide +kernel⟩,
    ⟨tCycle 20864 { tMember with held := none } { tGal with latched := some ⟨7, 0, true, 3, 5, 9, 77, 0, 0⟩ } id, 0, 0, Rx.groups false [], { pos := 1, slot := 0, delay := 100, enum := true, miss := 0, held := none, ack := 0, prev := 0, sent := [], outset := true, parked := none, setup := false }, by decide +kernel⟩,
    ⟨{ tZero with agenda := [(0, .lockSequence)] }, 0, Rx.intact, by decide +kernel⟩,
    ⟨((((tLocked.modNewel fun x => { x with time := 20864 })).put F.HLK_STATUS_STATE 5)).modLink fun k => { k with members := some ⟨1, 0, 100, true, 1, none, 0, 0, [], false, none, false⟩ :: List.replicate 7 none, nslot := 1, cycling := true, start := 9600, len := 21600, cyc := 7, loop := 200 }, 0, { pos := 1, slot := 0, delay := 100, enum := true, miss := 1, held := none, ack := 0, prev := 0, sent := [], outset := false, parked := none, setup := false }, by decide +kernel⟩,
    ⟨((((tLocked.modNewel fun x => { x with time := 20864 })).put F.HLK_STATUS_STATE 5)).modLink fun k => { k with members := some ⟨1, 0, 100, true, 1, none, 0, 0, [], false, none, false⟩ :: List.replicate 7 none, nslot := 1, cycling := true, start := 9600, len := 21600, cyc := 7, loop := 200 }, 0, { pos := 1, slot := 0, delay := 100, enum := true, miss := 1, held := none, ack := 0, prev := 0, sent := [], outset := false, parked := none, setup := false }, by decide +kernel⟩,
    ⟨((((tLocked.modNewel fun x => { x with time := 20864 })).put F.HLK_STATUS_STATE 5)).modLink fun k => { k with members := some ⟨1, 0, 100, true, 2, none, 0, 0, [], false, none, false⟩ :: List.replicate 7 none, nslot := 1, cycling := true, start := 9600, len := 21600, cyc := 7, loop := 200 }, 0, { pos := 1, slot := 0, delay := 100, enum := true, miss := 2, held := none, ack := 0, prev := 0, sent := [], outset := false, parked := none, setup := false }, by decide +kernel⟩,
    ⟨tCycle 20864 { tMember with held := none, enum := false } tGal id, 0, { pos := 1, slot := 0, delay := 100, enum := false, miss := 0, held := none, ack := 0, prev := 0, sent := [], outset := true, parked := none, setup := false }, by decide +kernel⟩,
    ⟨tFull, 0, { pos := 1, slot := 0, delay := 0, enum := true, miss := 0, held := some true, ack := 0, prev := 0, sent := [], outset := false, parked := none, setup := false }, by decide +kernel⟩,
    ⟨tCycle 9800 tMember tGal id, none, 200, by decide +kernel⟩,
    ⟨tCycle 9800 tMember tGal fun l => { l with driftCycles := 15 }, none, 200, by decide +kernel⟩,
    ⟨{ ((((tLocked).put F.HLK_STATUS_STATE 5)).modLink fun k => { k with members := some ⟨1, 0, 100, true, 0, none, 0, 0, [], false, none, false⟩ :: List.replicate 7 none, nslot := 1, cycling := true, start := 9600, len := 21600, cyc := 7, loop := 200 }) with agenda := [(500, .markerReturn none)] }, some 22000, 22000, by decide +kernel⟩,
    ⟨{ ((((tLocked).put F.HLK_STATUS_STATE 5)).modLink fun k => { k with members := some ⟨1, 0, 100, true, 0, none, 0, 0, [], false, none, false⟩ :: List.replicate 7 none, nslot := 1, cycling := true, start := 9600, len := 21600, cyc := 7, loop := 200 }) with agenda := [(500, .markerReturn none)] }, Rx.intact, by decide +kernel⟩,
    ⟨{ tCycle 9800 tMember tGal fun l => { l with openCycles := 2 } with agenda := [(9000, .markerReturn none)] }, Rx.intact, by decide +kernel⟩,
    ⟨{ tZero with agenda := [(0, .lockSequence)] }, Rx.intact, by decide +kernel⟩⟩

/-- Hypotheses of `Obligations.LinkSends`. -/
theorem witness_LinkSends :
    (∃ (s : State) (g : Nat) (c : FireCmd) (m : Member) (f : LinkFrame),
      g < 8 ∧ s.canStart = true ∧ s.missing g = false ∧ s.lineBusy s.time = false ∧ s.firePick s.time = some (g, c) ∧
      c.bad = false ∧ deliverable c.fire s.link.start s.link.len = true ∧ s.fits s.time 24 s.unsent = true ∧
      s.member g = some m ∧
      (f = ⟨0, g, s.time, [m.prev, c.jets, c.fire, c.seq, c.dur, c.gallery, if c.fallback then 1 else 0, if c.doubt then 1 else 0]⟩)) ∧
    (∃ (s : State) (g : Nat) (c : FireCmd),
      g < 8 ∧ s.canStart = true ∧ s.missing g = false ∧ s.lineBusy s.time = false ∧ s.firePick s.time = some (g, c) ∧
      c.bad = false ∧ deliverable c.fire s.link.start s.link.len = true ∧ s.fits s.time 24 s.unsent = false) ∧
    (∃ (s : State) (g : Nat) (c : FireCmd),
      g < 8 ∧ s.canStart = true ∧ s.missing g = false ∧ s.lineBusy s.time = false ∧ s.firePick s.time = some (g, c) ∧
      c.bad = false ∧ deliverable c.fire s.link.start s.link.len = false) ∧
    (∃ (s : State) (g : Nat) (c : FireCmd),
      g < 8 ∧ s.canStart = true ∧ s.missing g = false ∧ s.lineBusy s.time = false ∧ s.firePick s.time = some (g, c) ∧
      c.bad = true) ∧
    (∃ (s : State) (g : Nat),
      g < 8 ∧ s.canStart = true ∧ s.missing g = true) ∧
    (∃ (s : State) (g : Nat),
      g < 8 ∧
      (s.canStart = false ∨ (s.missing g = false ∧ s.lineBusy s.time = false ∧ (s.firePick s.time).all (fun p => p.1 != g) = true))) ∧
    (∃ (s : State) (g : Nat) (f : LinkFrame),
      g < 8 ∧ s.canStart = true ∧ s.missing g = false ∧ s.link.line = some f ∧ s.time < f.fin ∧ f.kind ≠ 0 ∧
      s.fireReady s.time = true ∧ s.fits (s.time + 240) 24 (s.unsent + (if f.kind = 1 then 1 else 0)) = true) ∧
    (∃ (s : State) (g : Nat) (f : LinkFrame),
      g < 8 ∧ s.canStart = true ∧ s.missing g = false ∧ s.link.line = some f ∧ s.time < f.fin ∧
      (f.kind = 0 ∨ s.fireReady s.time = false ∨ s.fits (s.time + 240) 24 (s.unsent + (if f.kind = 1 then 1 else 0)) = false)) ∧
    (∃ (s : State) (g : Nat) (m : Member) (f : LinkFrame),
      g < 8 ∧ s.canStart = true ∧ s.lineBusy s.time = false ∧ s.fireFirst = false ∧ s.wantsOutset g = true ∧
      s.fits s.time 12 0 = true ∧ (List.range g).any s.wantsOutset = false ∧ s.member g = some m ∧
      f = ⟨1, g, s.time, [s.g (F.EJP_JET_EN_MASK g), s.link.park, s.e (F.HLK_OUT_CUT g), s.link.cyc]⟩) ∧
    (∃ (s : State) (g : Nat),
      g < 8 ∧
      (s.canStart = false ∨ s.lineBusy s.time = true ∨ s.fireFirst = true ∨ s.wantsOutset g = false ∨ s.fits s.time 12 0 = false ∨ (List.range g).any s.wantsOutset = true)) ∧
    (∃ (s : State) (r : Greg) (f : LinkFrame),
      s.canStart = true ∧ s.lineBusy s.time = false ∧ s.fireFirst = false ∧
      ((List.range 8).any s.wantsOutset = false ∨ s.fits s.time 12 0 = false) ∧ s.gregPick = some r ∧
      f = r.frame s.time) ∧
    (∃ (s : State) (g : Nat) (m : Member) (f : LinkFrame),
      s.canStart = true ∧ s.lineBusy s.time = false ∧ s.fireFirst = false ∧
      ((List.range 8).any s.wantsOutset = false ∨ s.fits s.time 12 0 = false) ∧ s.gregPick = none ∧
      s.setupPick = some (g, m) ∧ f = ⟨4, g, s.time, s.setupData g m⟩) ∧
    (∃ (s : State) (n : Nat) (f : LinkFrame),
      s.canStart = true ∧ s.lineBusy s.time = false ∧ s.fireFirst = false ∧
      ((List.range 8).any s.wantsOutset = false ∨ s.fits s.time 12 0 = false) ∧ s.gregPick = none ∧
      s.setupPick = none ∧ s.sensorPick = some n ∧ f = ⟨3, n / 4, s.time, [0xC0 + 4 * (n % 4)]⟩) ∧
    (∃ (s : State),
      (s.canStart = false ∨ s.lineBusy s.time = true ∨ s.fireFirst = true ∨ (s.gregPick = none ∧ s.setupPick = none ∧ s.sensorPick = none))) ∧
    (∃ (s : State) (g : Nat),
      g < 8 ∧ (s.writing = false ∨ s.missing g = false)) ∧
    (∃ (s : State) (g : Nat),
      g < 8 ∧ s.writing = true ∧ s.missing g = true) ∧
    (∃ (s : State) (rx : Rx) (f : LinkFrame),
      s.link.echoes.find? (fun e => e.1 == s.time) = some (s.time, f)) ∧
    (∃ (s : State) (rx : Rx),
      s.link.echoes.any (fun e => e.1 == s.time) = false) ∧
    (∃ (s : State) (w : Nat),
      w < 2 ^ 32 ∧ w % 2 = 1 ∧ s.gregBusy = false ∧ s.link.cycling = true ∧ s.enumerated (w / 16 % 8) = true) ∧
    (∃ (s : State) (w : Nat),
      w < 2 ^ 32 ∧ w % 2 = 1 ∧ s.gregBusy = false ∧ (s.link.cycling = false ∨ s.enumerated (w / 16 % 8) = false)) ∧
    (∃ (s : State) (w : Nat),
      w < 2 ^ 32 ∧ (w % 2 = 0 ∨ s.gregBusy = true)) ∧
    (∃ (s : State),
      s.link.gregs.any (fun r => r.sent.any (fun k => decide (k + 5 ≤ s.link.index)) && r.kind == 0) = true) ∧
    (∃ (s : State),
      s.link.gregs.any (fun r => r.sent.any (fun k => decide (k + 5 ≤ s.link.index)) && r.kind == 0) = false) :=
  ⟨⟨{ ((((((tLocked.modNewel fun x => { x with time := 24240 })).put F.HLK_STATUS_STATE 5)).modLink fun k => { k with members := some ⟨1, 0, 100, true, 0, some true, 8, 8, [], true, none, false⟩ :: List.replicate 7 none, nslot := 1, cycling := true, start := 9600, len := 21600, cyc := 7, loop := 200 })) with hall := { tZero.hall with fire := [[⟨5, 200000, 9, 50, 0, false, false, 0, false, false⟩], [], [], [], [], [], [], []] } }, 0, { jets := 5, fire := 200000, seq := 9, dur := 50, gallery := 0, fallback := false, doubt := false, entered := 0, sentOnce := false, bad := false }, { pos := 1, slot := 0, delay := 100, enum := true, miss := 0, held := some true, ack := 8, prev := 8, sent := [], outset := true, parked := none, setup := false }, { kind := 0, gal := 0, start := 24240, data := [8, 5, 200000, 9, 50, 0, 0, 0] }, by decide +kernel⟩,
    ⟨{ tCycle 40800 tMember tGal id with hall := { tZero.hall with fire := [⟨1, 1000000, 1, 50, 0, false, false, 0, false, false⟩] :: List.replicate 7 [] } }, 0, { jets := 1, fire := 1000000, seq := 1, dur := 50, gallery := 0, fallback := false, doubt := false, entered := 0, sentOnce := false, bad := false }, by decide +kernel⟩,
    ⟨{ tCycle 26400 tMember tGal id with hall := { tZero.hall with fire := [⟨1, 1000, 1, 50, 0, false, false, 0, false, false⟩] :: List.replicate 7 [] } }, 0, { jets := 1, fire := 1000, seq := 1, dur := 50, gallery := 0, fallback := false, doubt := false, entered := 0, sentOnce := false, bad := false }, by decide +kernel⟩,
    ⟨{ tCycle 26400 tMember tGal id with hall := { tZero.hall with fire := [⟨1, 1000000, 1, 50, 0, false, false, 0, false, true⟩] :: List.replicate 7 [] } }, 0, { jets := 1, fire := 1000000, seq := 1, dur := 50, gallery := 0, fallback := false, doubt := false, entered := 0, sentOnce := false, bad := true }, by decide +kernel⟩,
    ⟨tCycle 26400 { tMember with held := some false } tGal id, 0, by decide +kernel⟩,
    ⟨{ tZero with agenda := [(0, .lockSequence)] }, 0, by decide +kernel⟩,
    ⟨{ tCycle 26400 tMember tGal (fun l => { l with line := some ⟨2, 0, 26160, [0x1C, 80]⟩ }) with hall := { tZero.hall with fire := [⟨1, 1000000, 1, 50, 0, false, false, 0, false, false⟩] :: List.replicate 7 [] } }, 0, { kind := 2, gal := 0, start := 26160, data := [28, 80] }, by decide +kernel⟩,
    ⟨tCycle 26400 tMember tGal fun l => { l with line := some ⟨0, 0, 26160, [0, 1, 1000000, 1, 50, 0, 0, 0]⟩ }, 0, { kind := 0, gal := 0, start := 26160, data := [0, 1, 1000000, 1, 50, 0, 0, 0] }, by decide +kernel⟩,
    ⟨((((tLocked.modNewel fun x => { x with time := 24240 })).put F.HLK_STATUS_STATE 5)).modLink fun k => { k with members := some ⟨1, 0, 100, true, 0, some true, 0, 0, [], false, none, false⟩ :: List.replicate 7 none, nslot := 1, cycling := true, start := 9600, len := 21600, cyc := 7, loop := 200 }, 0, { pos := 1, slot := 0, delay := 100, enum := true, miss := 0, held := some true, ack := 0, prev := 0, sent := [], outset := false, parked := none, setup := false }, { kind := 1, gal := 0, start := 24240, data := [0, 0, 0, 7] }, by decide +kernel⟩,
    ⟨{ tZero with agenda := [(0, .lockSequence)] }, 0, by decide +kernel⟩,
    ⟨((((tLocked.modNewel fun x => { x with time := 24240 })).put F.HLK_STATUS_STATE 5)).modLink fun k => { k with members := some ⟨1, 0, 100, true, 0, some true, 0, 0, [], true, none, false⟩ :: List.replicate 7 none, nslot := 1, cycling := true, start := 9600, len := 21600, cyc := 7, loop := 200, gregs := [⟨0, true, 0, 0x10, 5, none⟩] }, { kind := 0, write := true, gal := 0, addr := 16, data := 5, sent := none }, { kind := 2, gal := 0, start := 24240, data := [16, 5] }, by decide +kernel⟩,
    ⟨(tCycle 26400 tMember tGal id).put (F.HLK_STA_STATE 0) 3, 0, tMember, { kind := 4, gal := 0, start := 26400, data := [100, 0, 86, 0, 1, 65535] }, by decide +kernel⟩,
    ⟨{ tCycle 26400 tMember tGal id with thermal := { tZero.thermal with running := true } }, 0, { kind := 3, gal := 0, start := 26400, data := [192] }, by decide +kernel⟩,
    ⟨{ tZero with agenda := [(0, .lockSequence)] }, by decide +kernel⟩,
    ⟨{ tZero with agenda := [(0, .lockSequence)] }, 0, by decide +kernel⟩,
    ⟨tCycle 26400 { tMember with held := some false } tGal id, 0, by decide +kernel⟩,
    ⟨(tLocked).modLink fun k => { k with echoes := [(10000, ⟨3, 0, 9000, []⟩)] }, Rx.intact, { kind := 3, gal := 0, start := 9000, data := [] }, by decide +kernel⟩,
    ⟨{ tZero with agenda := [(0, .lockSequence)] }, Rx.intact, by decide +kernel⟩,
    ⟨(((tLocked).put F.HLK_STATUS_STATE 5)).modLink fun k => { k with members := some ⟨1, 0, 100, true, 0, none, 0, 0, [], false, none, false⟩ :: List.replicate 7 none, nslot := 1, cycling := true, start := 9600, len := 21600, cyc := 7, loop := 200, next := some 10000 }, 1, by decide +kernel⟩,
    ⟨{ tZero with agenda := [(0, .lockSequence)] }, 1, by decide +kernel⟩,
    ⟨{ tZero with agenda := [(0, .lockSequence)] }, 0, by decide +kernel⟩,
    ⟨(((tLocked).put F.HLK_STATUS_STATE 5)).modLink fun k => { k with members := some ⟨1, 0, 100, true, 0, none, 0, 0, [], false, none, false⟩ :: List.replicate 7 none, nslot := 1, cycling := true, start := 9600, len := 21600, cyc := 7, loop := 200, index := 6, gregs := [⟨0, true, 0, 0x10, 5, some 1⟩] }, by decide +kernel⟩,
    ⟨{ tZero with agenda := [(0, .lockSequence)] }, by decide +kernel⟩⟩

/-- Hypotheses of `Obligations.GalleryLife`. -/
theorem witness_GalleryLife :
    (∃ (s : State) (g : Nat) (l : List Nat) (v : Nat),
      g < 8 ∧ g < s.stations.length ∧ (s.station g).powered = false) ∧
    (∃ (s : State) (g : Nat) (v : Nat),
      g < 8 ∧ g < s.stations.length ∧ (s.station g).powered = false) ∧
    (∃ (s : State) (g : Nat) (l : List Nat) (v : Nat),
      g < 8 ∧ (s.station g).powered = true) ∧
    (∃ (s : State) (g : Nat),
      g < 8 ∧ g < s.stations.length) ∧
    (∃ (s : State) (g : Nat),
      g < 8 ∧ (s.station g).powered = true ∧ (s.station g).state = 0) ∧
    (∃ (s : State) (g : Nat),
      g < 8 ∧ ((s.station g).powered = false ∨ (s.station g).state ≠ 0)) ∧
    (∃ (s : State) (g : Nat) (rx : Rx),
      g < 8 ∧ (s.station g).powered = true ∧ (s.station g).state = 1 ∧ alignedBy rx = true) ∧
    (∃ (s : State) (g : Nat) (rx : Rx),
      g < 8 ∧ ((s.station g).powered = false ∨ (s.station g).state ≠ 1 ∨ alignedBy rx = false)) ∧
    (∃ (s : State) (g : Nat) (rx : Rx),
      g < 8 ∧ (s.station g).powered = true ∧ 2 ≤ (s.station g).state ∧ losesAlignment (rx.syms []) = true) ∧
    (∃ (s : State) (g : Nat) (rx : Rx),
      g < 8 ∧ (s.station g).powered = true ∧ 2 ≤ (s.station g).state ∧ losesAlignment (rx.syms []) = true ∧
      (s.station g).pulses = []) ∧
    (∃ (s : State) (g : Nat) (rx : Rx),
      g < 8 ∧ ((s.station g).powered = false ∨ (s.station g).state < 2 ∨ losesAlignment (rx.syms []) = false)) ∧
    (∃ (s : State) (g : Nat) (i : Nat) (v : Bool),
      g < 8 ∧ (s.station g).powered = true ∧ i < 8 ∧ bitN (s.station g).raw i ≠ v) ∧
    (∃ (s : State) (g : Nat) (i : Nat) (v : Bool),
      g < 8 ∧ (s.station g).powered = true ∧ i < 8 ∧ bitN (s.station g).raw i = v ∧ bitN (s.station g).inputs i ≠ v ∧
      (nth (s.station g).rawAt i (0, 0)).1 + (s.station g).filterTicks i ≤ s.now ∧
      (bitN ((s.station g).g G.inWake) i = false ∨ v = false)) ∧
    (∃ (s : State) (g : Nat) (i : Nat),
      g < 8 ∧ (s.station g).powered = true ∧ i < 8 ∧ bitN (s.station g).raw i = true ∧
      bitN (s.station g).inputs i = false ∧
      (nth (s.station g).rawAt i (0, 0)).1 + (s.station g).filterTicks i ≤ s.now ∧
      bitN ((s.station g).g G.inWake) i = true ∧ (s.station g).noMarker < 3) ∧
    (∃ (s : State) (g : Nat) (i : Nat) (v : Bool),
      g < 8 ∧ i < 8 ∧
      ((s.station g).powered = false ∨ (bitN (s.station g).raw i = v ∧ (bitN (s.station g).inputs i = v ∨ s.now < (nth (s.station g).rawAt i (0, 0)).1 + (s.station g).filterTicks i)))) ∧
    (∃ (s : State) (g : Nat) (v : Bool),
      g < 8 ∧ (s.station g).powered = true ∧
      ((s.station g).g G.cutFault = 0 ∨ (v = true ∧ (s.station g).cutFault = false))) ∧
    (∃ (s : State) (g : Nat) (v : Bool),
      g < 8 ∧
      ((s.station g).powered = false ∨ ((s.station g).g G.cutFault = 1 ∧ (v = false ∨ (s.station g).cutFault = true)))) ∧
    (∃ (s : State) (g : Nat) (e : Nat),
      g < 8 ∧ (s.station g).phraseEnd = some e ∧ e ≤ s.now) ∧
    (∃ (s : State) (g : Nat),
      g < 8 ∧ (s.station g).phraseEnd.all (fun e => decide (s.now < e)) = true) :=
  ⟨⟨{ tZero with agenda := [(0, .lockSequence)] }, 0, [], 0, by decide +kernel⟩,
    ⟨{ tZero with agenda := [(0, .lockSequence)] }, 0, 0, by decide +kernel⟩,
    ⟨{ (((tLocked).put F.HLK_STATUS_STATE 3)).modLink fun k => { k with rtts := [624, 640] } with stations := [{ Station.idle with powered := true, regs := [(4, 1), (G.lnkState.off, 2)] }] }, 0, [], 0, by decide +kernel⟩,
    ⟨{ tZero with agenda := [(0, .lockSequence)] }, 0, by decide +kernel⟩,
    ⟨tWithGal (fun x => (x).put G.lnkState 0) id, 0, by decide +kernel⟩,
    ⟨{ tZero with agenda := [(0, .lockSequence)] }, 0, by decide +kernel⟩,
    ⟨tWithGal (fun x => (x).put G.lnkState 1) id, 0, Rx.intact, by decide +kernel⟩,
    ⟨{ tZero with agenda := [(0, .lockSequence)] }, 0, Rx.intact, by decide +kernel⟩,
    ⟨{ (((tLocked).put F.HLK_STATUS_STATE 3)).modLink fun k => { k with rtts := [624, 640] } with stations := [{ Station.idle with powered := true, regs := [(4, 1), (G.lnkState.off, 2)] }] }, 0, Rx.groups false (List.replicate 16 0), by decide +kernel⟩,
    ⟨{ (((tLocked).put F.HLK_STATUS_STATE 3)).modLink fun k => { k with rtts := [624, 640] } with stations := [{ Station.idle with powered := true, regs := [(4, 1), (G.lnkState.off, 2)] }] }, 0, Rx.groups false (List.replicate 16 0), by decide +kernel⟩,
    ⟨{ tZero with agenda := [(0, .lockSequence)] }, 0, Rx.intact, by decide +kernel⟩,
    ⟨{ (((tLocked).put F.HLK_STATUS_STATE 3)).modLink fun k => { k with rtts := [624, 640] } with stations := [{ Station.idle with powered := true, regs := [(4, 1), (G.lnkState.off, 2)] }] }, 0, 0, true, by decide +kernel⟩,
    ⟨{ tWithGal (fun x => { x with raw := 1 }) id with now := 1000000 }, 0, 0, true, by decide +kernel⟩,
    ⟨{ tWithGal (fun x => { x.put G.inWake 255 with raw := 1 }) id with now := 1000000 }, 0, 0, by decide +kernel⟩,
    ⟨{ tZero with agenda := [(0, .lockSequence)] }, 0, 0, false, by decide +kernel⟩,
    ⟨{ (((tLocked).put F.HLK_STATUS_STATE 3)).modLink fun k => { k with rtts := [624, 640] } with stations := [{ Station.idle with powered := true, regs := [(4, 1), (G.lnkState.off, 2)] }] }, 0, false, by decide +kernel⟩,
    ⟨{ tZero with agenda := [(0, .lockSequence)] }, 0, false, by decide +kernel⟩,
    ⟨tWithGal (fun x => { x with phraseEnd := some 0 }) id, 0, 0, by decide +kernel⟩,
    ⟨{ tZero with agenda := [(0, .lockSequence)] }, 0, by decide +kernel⟩⟩

/-- Hypotheses of `Obligations.StationAccepts`. -/
theorem witness_StationAccepts :
    (∃ (s : State) (g : Nat) (rx : Rx) (f₀ : LinkFrame) (f : LinkFrame) (s₁ : State),
      g < 8 ∧ (s.station g).powered = true ∧ s.takeFrameDue g 0 = (some f₀, s₁) ∧ rx.frame f₀ = some f ∧ f.kind = 0 ∧
      (s.station g).hears f = true ∧ 3 ≤ (s.station g).state ∧ nth f.data 0 0 = (s.station g).lastSeq) ∧
    (∃ (s : State) (g : Nat) (rx : Rx) (f₀ : LinkFrame) (f : LinkFrame) (s₁ : State) (u : Nat),
      g < 8 ∧ (s.station g).powered = true ∧ s.takeFrameDue g 0 = (some f₀, s₁) ∧ rx.frame f₀ = some f ∧ f.kind = 0 ∧
      (s.station g).hears f = true ∧ 3 ≤ (s.station g).state ∧ nth f.data 0 0 = (s.station g).lastSeq ∧
      u = fullStamp (s.loc g) (nth f.data 2 0 % 2 ^ 48) ∧ s.loc g + 120 < u ∧ bitList (nth f.data 1 0) ≠ [] ∧
      nth f.data 1 0 < 2 ^ 32 ∧
      (bitList (nth f.data 1 0)).all (fun n => bitN (s.station g).en n && !(s.station g).overlaps n u (u + nth f.data 4 0)) = true ∧
      (s.station g).store.length < 2048) ∧
    (∃ (s : State) (g : Nat) (rx : Rx) (f₀ : LinkFrame) (f : LinkFrame) (s₁ : State),
      g < 8 ∧ (s.station g).powered = true ∧ s.takeFrameDue g 0 = (some f₀, s₁) ∧ rx.frame f₀ = some f ∧ f.kind = 0 ∧
      (s.station g).hears f = true ∧ 3 ≤ (s.station g).state ∧ nth f.data 0 0 = (s.station g).lastSeq ∧
      fullStamp (s.loc g) (nth f.data 2 0 % 2 ^ 48) ≤ s.loc g + 120) ∧
    (∃ (s : State) (g : Nat) (rx : Rx) (f₀ : LinkFrame) (f : LinkFrame) (s₁ : State),
      g < 8 ∧ (s.station g).powered = true ∧ s.takeFrameDue g 0 = (some f₀, s₁) ∧ rx.frame f₀ = some f ∧ f.kind = 0 ∧
      (s.station g).hears f = true ∧ 3 ≤ (s.station g).state ∧ nth f.data 0 0 ≠ (s.station g).lastSeq) ∧
    (∃ (s : State) (g : Nat) (rx : Rx) (f₀ : LinkFrame) (f : LinkFrame) (s₁ : State),
      g < 8 ∧ (s.station g).powered = true ∧ s.takeFrameDue g 1 = (some f₀, s₁) ∧ rx.frame f₀ = some f ∧ f.kind = 1 ∧
      (s.station g).hears f = true ∧ 3 ≤ (s.station g).state ∧ nth f.data 1 0 < 8) ∧
    (∃ (s : State) (g : Nat) (rx : Rx) (f₀ : LinkFrame) (f : LinkFrame) (s₁ : State),
      g < 8 ∧ (s.station g).powered = true ∧ s.takeFrameDue g 1 = (some f₀, s₁) ∧ rx.frame f₀ = some f ∧ f.kind = 1 ∧
      (s.station g).hears f = true ∧ (s.station g).state = 4 ∧ nth f.data 1 0 < 2 ∧ (s.station g).pulses = [] ∧
      (s.station g).store = []) ∧
    (∃ (s : State) (g : Nat) (rx : Rx) (f₀ : LinkFrame) (f : LinkFrame) (s₁ : State),
      g < 8 ∧ (s.station g).powered = true ∧ s.takeFrameDue g 1 = (some f₀, s₁) ∧ rx.frame f₀ = some f ∧ f.kind = 1 ∧
      (s.station g).hears f = true ∧ (s.station g).state = 5 ∧ nth f.data 1 0 = 0 ∧ (s.station g).pulses = []) ∧
    (∃ (s : State) (g : Nat) (rx : Rx) (f₀ : LinkFrame) (f : LinkFrame) (s₁ : State),
      g < 8 ∧ (s.station g).powered = true ∧ s.takeFrameDue g 2 = (some f₀, s₁) ∧ rx.frame f₀ = some f ∧ f.kind = 2 ∧
      (s.station g).hears f = true ∧ 3 ≤ (s.station g).state) ∧
    (∃ (s : State) (g : Nat) (rx : Rx) (f₀ : LinkFrame) (f : LinkFrame) (s₁ : State),
      g < 8 ∧ (s.station g).powered = true ∧ s.takeFrameDue g 3 = (some f₀, s₁) ∧ rx.frame f₀ = some f ∧ f.kind = 3 ∧
      (s.station g).hears f = true ∧ 3 ≤ (s.station g).state) ∧
    (∃ (s : State) (g : Nat) (rx : Rx) (f₀ : LinkFrame) (f : LinkFrame) (s₁ : State),
      g < 8 ∧ (s.station g).powered = true ∧ s.takeFrameDue g 4 = (some f₀, s₁) ∧ rx.frame f₀ = some f ∧ f.kind = 4 ∧
      (s.station g).hears f = true ∧ (s.station g).state = 2) ∧
    (∃ (s : State) (g : Nat) (rx : Rx) (f₀ : LinkFrame) (f : LinkFrame) (s₁ : State),
      g < 8 ∧ (s.station g).powered = true ∧ s.takeFrameDue g 4 = (some f₀, s₁) ∧ rx.frame f₀ = some f ∧ f.kind = 4 ∧
      (s.station g).hears f = true ∧ 3 ≤ (s.station g).state) ∧
    (∃ (s : State) (g : Nat) (k : Nat) (c : Instr) (rx : Rx) (f : LinkFrame) (s₁ : State),
      g < 8 ∧ (s.station g).powered = true ∧
      (k, c) ∈ [(0, Instr.fireAccept g rx), (1, .outsetAccept g rx), (2, .regwAccept g rx), (3, .regrAccept g rx), (4, .setup g rx)] ∧
      s.takeFrameDue g k = (some f, s₁) ∧ 2 ≤ (s.station g).state ∧ rx.frame f = none) ∧
    (∃ (s : State) (g : Nat) (k : Nat) (c : Instr) (rx : Rx) (s₁ : State),
      g < 8 ∧
      (k, c) ∈ [(0, Instr.fireAccept g rx), (1, .outsetAccept g rx), (2, .regwAccept g rx), (3, .regrAccept g rx), (4, .setup g rx)] ∧
      s.takeFrameDue g k = (none, s₁)) ∧
    (∃ (s : State) (g : Nat) (k : Nat) (c : Instr) (rx : Rx) (f₀ : LinkFrame) (f : LinkFrame) (s₁ : State),
      g < 8 ∧
      (k, c) ∈ [(0, Instr.fireAccept g rx), (1, .outsetAccept g rx), (2, .regwAccept g rx), (3, .regrAccept g rx), (4, .setup g rx)] ∧
      s.takeFrameDue g k = (some f₀, s₁) ∧ rx.frame f₀ = some f ∧
      ((s.station g).powered = false ∨ (s.station g).state < 2 ∨ (s.station g).hears f = false ∨ (s.station g).state < (if f.kind = 4 then 2 else 3))) :=
  ⟨⟨tHears 0 [4, 5, 40000, 9, 50, 0, 0, 0] fun x => { x with lastSeq := 4 }, 0, Rx.intact, { kind := 0, gal := 0, start := 5000, data := [4, 5, 40000, 9, 50, 0, 0, 0] }, { kind := 0, gal := 0, start := 5000, data := [4, 5, 40000, 9, 50, 0, 0, 0] }, ((tHears 0 [4, 5, 40000, 9, 50, 0, 0, 0] fun x => { x with lastSeq := 4 }).takeFrameDue 0 0).2, by decide +kernel⟩,
    ⟨tHears 0 [4, 5, 40000, 9, 50, 0, 0, 0] fun x => { x with lastSeq := 4 }, 0, Rx.intact, { kind := 0, gal := 0, start := 5000, data := [4, 5, 40000, 9, 50, 0, 0, 0] }, { kind := 0, gal := 0, start := 5000, data := [4, 5, 40000, 9, 50, 0, 0, 0] }, ((tHears 0 [4, 5, 40000, 9, 50, 0, 0, 0] fun x => { x with lastSeq := 4 }).takeFrameDue 0 0).2, 40000, by decide +kernel⟩,
    ⟨tHears 0 [4, 5, 40, 9, 50, 0, 0, 0] fun x => { x with lastSeq := 4 }, 0, Rx.intact, { kind := 0, gal := 0, start := 5000, data := [4, 5, 40, 9, 50, 0, 0, 0] }, { kind := 0, gal := 0, start := 5000, data := [4, 5, 40, 9, 50, 0, 0, 0] }, ((tHears 0 [4, 5, 40, 9, 50, 0, 0, 0] fun x => { x with lastSeq := 4 }).takeFrameDue 0 0).2, by decide +kernel⟩,
    ⟨tHears 0 [3, 5, 40000, 9, 50, 0, 0, 0] fun x => { x with lastSeq := 4 }, 0, Rx.intact, { kind := 0, gal := 0, start := 5000, data := [3, 5, 40000, 9, 50, 0, 0, 0] }, { kind := 0, gal := 0, start := 5000, data := [3, 5, 40000, 9, 50, 0, 0, 0] }, ((tHears 0 [3, 5, 40000, 9, 50, 0, 0, 0] fun x => { x with lastSeq := 4 }).takeFrameDue 0 0).2, by decide +kernel⟩,
    ⟨tHears 1 [7, 0, 1, 6] id, 0, Rx.intact, { kind := 1, gal := 0, start := 5000, data := [7, 0, 1, 6] }, { kind := 1, gal := 0, start := 5000, data := [7, 0, 1, 6] }, ((tHears 1 [7, 0, 1, 6] id).takeFrameDue 0 1).2, by decide +kernel⟩,
    ⟨tHears 1 [7, 0, 1, 6] id, 0, Rx.intact, { kind := 1, gal := 0, start := 5000, data := [7, 0, 1, 6] }, { kind := 1, gal := 0, start := 5000, data := [7, 0, 1, 6] }, ((tHears 1 [7, 0, 1, 6] id).takeFrameDue 0 1).2, by decide +kernel⟩,
    ⟨tHears 1 [7, 0, 1, 6] fun x => x.put G.lnkState 5, 0, Rx.intact, { kind := 1, gal := 0, start := 5000, data := [7, 0, 1, 6] }, { kind := 1, gal := 0, start := 5000, data := [7, 0, 1, 6] }, ((tHears 1 [7, 0, 1, 6] fun x => x.put G.lnkState 5).takeFrameDue 0 1).2, by decide +kernel⟩,
    ⟨tHears 2 [0x1C, 80] id, 0, Rx.intact, { kind := 2, gal := 0, start := 5000, data := [28, 80] }, { kind := 2, gal := 0, start := 5000, data := [28, 80] }, ((tHears 2 [0x1C, 80] id).takeFrameDue 0 2).2, by decide +kernel⟩,
    ⟨tHears 3 [0x1C] id, 0, Rx.intact, { kind := 3, gal := 0, start := 5000, data := [28] }, { kind := 3, gal := 0, start := 5000, data := [28] }, ((tHears 3 [0x1C] id).takeFrameDue 0 3).2, by decide +kernel⟩,
    ⟨tHears 4 [100, 1320, 90, 0, 1, 65535] fun x => { x.put G.lnkState 2 with everSetup := false }, 0, Rx.intact, { kind := 4, gal := 0, start := 5000, data := [100, 1320, 90, 0, 1, 65535] }, { kind := 4, gal := 0, start := 5000, data := [100, 1320, 90, 0, 1, 65535] }, ((tHears 4 [100, 1320, 90, 0, 1, 65535] fun x => { x.put G.lnkState 2 with everSetup := false }).takeFrameDue 0 4).2, by decide +kernel⟩,
    ⟨tHears 4 [100, 1320, 90, 0, 1, 65535] id, 0, Rx.intact, { kind := 4, gal := 0, start := 5000, data := [100, 1320, 90, 0, 1, 65535] }, { kind := 4, gal := 0, start := 5000, data := [100, 1320, 90, 0, 1, 65535] }, ((tHears 4 [100, 1320, 90, 0, 1, 65535] id).takeFrameDue 0 4).2, by decide +kernel⟩,
    ⟨tHears 0 [4, 5, 40000, 9, 50, 0, 0, 0] fun x => { x with lastSeq := 4 }, 0, 0, .fireAccept 0 (Rx.groups false []), Rx.groups false [], { kind := 0, gal := 0, start := 5000, data := [4, 5, 40000, 9, 50, 0, 0, 0] }, ((tHears 0 [4, 5, 40000, 9, 50, 0, 0, 0] fun x => { x with lastSeq := 4 }).takeFrameDue 0 0).2, by decide +kernel⟩,
    ⟨{ tZero with agenda := [(0, .lockSequence)] }, 0, 0, .fireAccept 0 (Rx.intact), Rx.intact, (({ tZero with agenda := [(0, .lockSequence)] } : State).takeFrameDue 0 0).2, by decide +kernel⟩,
    ⟨tHears 0 [4, 5, 40000, 9, 50, 0, 0, 0] fun x => { x with powered := false }, 0, 0, .fireAccept 0 (Rx.intact), Rx.intact, { kind := 0, gal := 0, start := 5000, data := [4, 5, 40000, 9, 50, 0, 0, 0] }, { kind := 0, gal := 0, start := 5000, data := [4, 5, 40000, 9, 50, 0, 0, 0] }, ((tHears 0 [4, 5, 40000, 9, 50, 0, 0, 0] fun x => { x with powered := false }).takeFrameDue 0 0).2, by decide +kernel⟩⟩

/-- Hypotheses of `Obligations.StationCycles`. -/
theorem witness_StationCycles :
    (∃ (s : State) (g : Nat) (rx : Rx) (k : Int) (f₀ : LinkFrame) (f : LinkFrame) (s₁ : State),
      g < 8 ∧ (s.station g).powered = true ∧ s.takeFrameDue g 5 = (some f₀, s₁) ∧ rx.frame f₀ = some f ∧
      3 ≤ (s.station g).state) ∧
    (∃ (s : State) (g : Nat) (rx : Rx) (k : Int) (f₀ : LinkFrame) (f : LinkFrame) (s₁ : State) (w : Nat),
      g < 8 ∧ (s.station g).powered = true ∧ s.takeFrameDue g 5 = (some f₀, s₁) ∧ rx.frame f₀ = some f ∧
      3 ≤ (s.station g).state ∧ (s.station g).phraseEnd = none ∧ (s.station g).g G.timeValid = 1 ∧
      (s.station g).fresh = false ∧
      ((s.station g).base + k - (((nth f.data 0 0) + (s.station g).delay + 3600 : Nat) - (s.now : Int) : Int)).natAbs ≤ 1 ∧
      (s.station g).cycles = [] ∧ w = (((nth f.data 0 0 : Nat) : Int) - ((s.station g).base + k)).toNat) ∧
    (∃ (s : State) (g : Nat) (rx : Rx) (k : Int) (f₀ : LinkFrame) (f : LinkFrame) (s₁ : State),
      g < 8 ∧ (s.station g).powered = true ∧ s.takeFrameDue g 5 = (some f₀, s₁) ∧ rx.frame f₀ = some f ∧
      3 ≤ (s.station g).state ∧ (s.station g).g G.timeValid = 1 ∧ (s.station g).fresh = false ∧
      1 < ((s.station g).base + k - (((nth f.data 0 0) + (s.station g).delay + 3600 : Nat) - (s.now : Int) : Int)).natAbs ∧
      ((s.station g).base + k - (((nth f.data 0 0) + (s.station g).delay + 3600 : Nat) - (s.now : Int) : Int)).natAbs ≤ 3) ∧
    (∃ (s : State) (g : Nat) (rx : Rx) (k : Int) (f₀ : LinkFrame) (f : LinkFrame) (s₁ : State),
      g < 8 ∧ (s.station g).powered = true ∧ s.takeFrameDue g 5 = (some f₀, s₁) ∧ rx.frame f₀ = some f ∧
      3 ≤ (s.station g).state ∧ (s.station g).g G.timeValid = 1 ∧ (s.station g).fresh = false ∧
      3 < ((s.station g).base + k - (((nth f.data 0 0) + (s.station g).delay + 3600 : Nat) - (s.now : Int) : Int)).natAbs) ∧
    (∃ (s : State) (g : Nat) (rx : Rx) (k : Int) (f₀ : LinkFrame) (f : LinkFrame) (s₁ : State),
      g < 8 ∧ (s.station g).powered = true ∧ s.takeFrameDue g 5 = (some f₀, s₁) ∧ rx.frame f₀ = some f ∧
      3 ≤ (s.station g).state ∧ (s.station g).g G.timeValid = 0 ∧ (s.station g).fresh = false ∧
      (s.station g).reloaded = true ∧ (s.station g).lastCyc.any (fun c => (c + 1) % 256 == nth f.data 1 0) = true ∧
      ((s.station g).base + k - (((nth f.data 0 0) + (s.station g).delay + 3600 : Nat) - (s.now : Int) : Int)).natAbs ≤ 1) ∧
    (∃ (s : State) (g : Nat) (rx : Rx) (k : Int) (f₀ : LinkFrame) (f : LinkFrame) (s₁ : State),
      g < 8 ∧ (s.station g).powered = true ∧ s.takeFrameDue g 5 = (some f₀, s₁) ∧ rx.frame f₀ = some f ∧
      3 ≤ (s.station g).state ∧
      ((s.station g).fresh = true ∨ ((s.station g).g G.timeValid = 0 ∧ ((s.station g).reloaded = false ∨ (s.station g).lastCyc.any (fun c => (c + 1) % 256 == nth f.data 1 0) = false ∨ 1 < ((s.station g).base + k - (((nth f.data 0 0) + (s.station g).delay + 3600 : Nat) - (s.now : Int) : Int)).natAbs)))) ∧
    (∃ (s : State) (g : Nat) (rx : Rx) (k : Int) (f : LinkFrame) (s₁ : State),
      g < 8 ∧ (s.station g).powered = true ∧ s.takeFrameDue g 5 = (some f, s₁) ∧ 2 ≤ (s.station g).state ∧
      rx.frame f = none) ∧
    (∃ (s : State) (g : Nat) (rx : Rx) (k : Int) (s₁ : State),
      g < 8 ∧ s.takeFrameDue g 5 = (none, s₁)) ∧
    (∃ (s : State) (g : Nat) (rx : Rx) (k : Int) (f₀ : LinkFrame) (f : LinkFrame) (s₁ : State),
      g < 8 ∧ s.takeFrameDue g 5 = (some f₀, s₁) ∧ rx.frame f₀ = some f ∧
      ((s.station g).powered = false ∨ (s.station g).state < 3)) ∧
    (∃ (s : State) (g : Nat) (c : StationCycle),
      g < 8 ∧ (s.station g).powered = true ∧ (s.station g).cycles = [c] ∧ c.marker = true ∧ c.latched = false ∧
      c.start + 6000 ≤ s.now ∧ s.now < c.next ∧ s.now < (s.station g).frameGone c.start ∧ 3 ≤ (s.station g).state ∧
      (s.station g).slot < (s.station g).nslot ∧ (s.station g).items = [] ∧ (s.station g).replies = [] ∧
      (s.station g).pulses = []) ∧
    (∃ (s : State) (g : Nat) (k : StationCycle),
      g < 8 ∧ (s.station g).powered = true ∧
      (s.station g).cycles.find? (fun c => c.marker && !c.latched && decide (c.start + 6000 ≤ s.now) && decide (s.now < c.next)) = some k ∧
      3 ≤ (s.station g).state ∧ (s.station g).slot < (s.station g).nslot ∧ s.now < (s.station g).frameGone k.start) ∧
    (∃ (s : State) (g : Nat) (c : ReadContent),
      g < 8 ∧ (s.station g).powered = true ∧
      (s.station g).cycles.any (fun c => c.marker && !c.latched && decide (c.start + 6000 ≤ s.now) && decide (s.now < c.next)) = false ∧
      (s.station g).latched = some c ∧ c.sent = false ∧ c.sentAt ≤ s.now ∧ 3 ≤ (s.station g).state) ∧
    (∃ (s : State) (g : Nat) (c : ReadContent),
      g < 8 ∧ (s.station g).powered = true ∧
      (s.station g).cycles.any (fun c => c.marker && !c.latched && decide (c.start + 6000 ≤ s.now) && decide (s.now < c.next)) = false ∧
      (s.station g).latched = some c ∧ c.sent = false ∧ c.sentAt ≤ s.now ∧ (s.station g).state < 3) ∧
    (∃ (s : State) (g : Nat),
      g < 8 ∧
      (s.station g).cycles.any (fun c => c.marker && !c.latched && decide (c.start + 6000 ≤ s.now) && decide (s.now < c.next)) = false ∧
      (s.station g).latched.all (fun c => c.sent || decide (s.now < c.sentAt)) = true) ∧
    (∃ (s : State) (g : Nat) (c : StationCycle),
      g < 8 ∧ (s.station g).powered = true ∧ (s.station g).cycles.find? (fun c => c.judged == s.now) = some c ∧
      (s.station g).writes = [] ∧ c.marker = true ∧ c.outset = true) ∧
    (∃ (s : State) (g : Nat) (c : StationCycle),
      g < 8 ∧ (s.station g).powered = true ∧ (s.station g).cycles.find? (fun c => c.judged == s.now) = some c ∧
      (s.station g).writes = [] ∧ (c.marker = false ∨ (c.outset = false ∧ s.outsetAwaited g c = none))) ∧
    (∃ (s : State) (g : Nat),
      g < 8 ∧ (s.station g).cycles.all (fun c => c.judged != s.now && c.next != s.now) = true) ∧
    (∃ (s : State) (g : Nat),
      g < 8 ∧ (s.station g).powered = true ∧ 3 ≤ (s.station g).missed ∧ (s.station g).state = 4) ∧
    (∃ (s : State) (g : Nat),
      g < 8 ∧ ((s.station g).missed < 3 ∨ (s.station g).state ≠ 4)) :=
  ⟨⟨tHears 5 [8000, 7, 1, 90] fun x => { x with base := 11600 }, 0, Rx.intact, -441, { kind := 5, gal := 0, start := 5000, data := [8000, 7, 1, 90] }, { kind := 5, gal := 0, start := 5000, data := [8000, 7, 1, 90] }, ((tHears 5 [8000, 7, 1, 90] fun x => { x with base := 11600 }).takeFrameDue 0 5).2, by decide +kernel⟩,
    ⟨tHears 5 [8000, 7, 1, 90] fun x => { x with base := 11600 }, 0, Rx.intact, 0, { kind := 5, gal := 0, start := 5000, data := [8000, 7, 1, 90] }, { kind := 5, gal := 0, start := 5000, data := [8000, 7, 1, 90] }, ((tHears 5 [8000, 7, 1, 90] fun x => { x with base := 11600 }).takeFrameDue 0 5).2, 0, by decide +kernel⟩,
    ⟨tHears 5 [8000, 7, 1, 90] fun x => { x with base := 11602 }, 0, Rx.intact, 0, { kind := 5, gal := 0, start := 5000, data := [8000, 7, 1, 90] }, { kind := 5, gal := 0, start := 5000, data := [8000, 7, 1, 90] }, ((tHears 5 [8000, 7, 1, 90] fun x => { x with base := 11602 }).takeFrameDue 0 5).2, by decide +kernel⟩,
    ⟨tHears 5 [8000, 7, 1, 90] fun x => { x with base := 11600 }, 0, Rx.intact, -441, { kind := 5, gal := 0, start := 5000, data := [8000, 7, 1, 90] }, { kind := 5, gal := 0, start := 5000, data := [8000, 7, 1, 90] }, ((tHears 5 [8000, 7, 1, 90] fun x => { x with base := 11600 }).takeFrameDue 0 5).2, by decide +kernel⟩,
    ⟨tHears 5 [8000, 7, 1, 90] fun x => { x.put G.timeValid 0 with base := 11600, reloaded := true, lastCyc := some 6 }, 0, Rx.intact, 0, { kind := 5, gal := 0, start := 5000, data := [8000, 7, 1, 90] }, { kind := 5, gal := 0, start := 5000, data := [8000, 7, 1, 90] }, ((tHears 5 [8000, 7, 1, 90] fun x => { x.put G.timeValid 0 with base := 11600, reloaded := true, lastCyc := some 6 }).takeFrameDue 0 5).2, by decide +kernel⟩,
    ⟨tHears 5 [8000, 7, 1, 90] fun x => { x.put G.timeValid 0 with base := 11600, reloaded := true, lastCyc := some 6 }, 0, Rx.intact, -441, { kind := 5, gal := 0, start := 5000, data := [8000, 7, 1, 90] }, { kind := 5, gal := 0, start := 5000, data := [8000, 7, 1, 90] }, ((tHears 5 [8000, 7, 1, 90] fun x => { x.put G.timeValid 0 with base := 11600, reloaded := true, lastCyc := some 6 }).takeFrameDue 0 5).2, by decide +kernel⟩,
    ⟨tHears 5 [8000, 7, 1, 90] fun x => { x with base := 11600 }, 0, Rx.groups false [], -441, { kind := 5, gal := 0, start := 5000, data := [8000, 7, 1, 90] }, ((tHears 5 [8000, 7, 1, 90] fun x => { x with base := 11600 }).takeFrameDue 0 5).2, by decide +kernel⟩,
    ⟨{ tZero with agenda := [(0, .lockSequence)] }, 0, Rx.intact, -441, (({ tZero with agenda := [(0, .lockSequence)] } : State).takeFrameDue 0 5).2, by decide +kernel⟩,
    ⟨tHears 5 [8000, 7, 1, 90] fun x => { x with powered := false }, 0, Rx.intact, -441, { kind := 5, gal := 0, start := 5000, data := [8000, 7, 1, 90] }, { kind := 5, gal := 0, start := 5000, data := [8000, 7, 1, 90] }, ((tHears 5 [8000, 7, 1, 90] fun x => { x with powered := false }).takeFrameDue 0 5).2, by decide +kernel⟩,
    ⟨{ tWithGal (fun x => { x with cycles := [⟨4000, 25600, 6, true, false, false, 26920⟩], nslot := 1 }) id with now := 10000 }, 0, { start := 4000, next := 25600, cyc := 6, marker := true, outset := false, latched := false, judged := 26920 }, by decide +kernel⟩,
    ⟨{ tWithGal (fun x => { x with cycles := [⟨4000, 25600, 6, true, false, false, 26920⟩], nslot := 1 }) id with now := 10000 }, 0, { start := 4000, next := 25600, cyc := 6, marker := true, outset := false, latched := false, judged := 26920 }, by decide +kernel⟩,
    ⟨tWithGal (fun x => { x with latched := some ⟨7, 0, false, 3, 5, 9, 77, 0, 0⟩ }) id, 0, { cyc := 7, sentAt := 0, sent := false, stat := 3, inputs := 5, on_ := 9, peak := 77, ack := 0, aux := 0 }, by decide +kernel⟩,
    ⟨tWithGal (fun x => { x.put G.lnkState 1 with latched := some ⟨7, 0, false, 3, 5, 9, 77, 0, 0⟩ }) id, 0, { cyc := 7, sentAt := 0, sent := false, stat := 3, inputs := 5, on_ := 9, peak := 77, ack := 0, aux := 0 }, by decide +kernel⟩,
    ⟨{ tZero with agenda := [(0, .lockSequence)] }, 0, by decide +kernel⟩,
    ⟨{ tWithGal (fun x => { x with cycles := [⟨4000, 25600, 6, true, true, true, 26920⟩] }) id with now := 26920 }, 0, { start := 4000, next := 25600, cyc := 6, marker := true, outset := true, latched := true, judged := 26920 }, by decide +kernel⟩,
    ⟨{ tWithGal (fun x => { x with cycles := [⟨4000, 25600, 6, false, false, true, 26920⟩] }) id with now := 26920 }, 0, { start := 4000, next := 25600, cyc := 6, marker := false, outset := false, latched := true, judged := 26920 }, by decide +kernel⟩,
    ⟨{ tZero with agenda := [(0, .lockSequence)] }, 0, by decide +kernel⟩,
    ⟨tWithGal (fun x => { x with missed := 3 }) id, 0, by decide +kernel⟩,
    ⟨{ tZero with agenda := [(0, .lockSequence)] }, 0, by decide +kernel⟩⟩

/-- Hypotheses of `Obligations.GalleryPulses`. -/
theorem witness_GalleryPulses :
    (∃ (s : State) (g : Nat) (n : Nat) (c : FireCmd),
      g < 8 ∧ (s.station g).powered = true ∧ n < 32 ∧ (s.station g).store = [c] ∧ c.jets = 2 ^ n ∧ c.fire ≤ s.loc g ∧
      s.beforeFire g = false ∧ (s.station g).cause n = none ∧ (s.station g).pulse n = none) ∧
    (∃ (s : State) (g : Nat) (n : Nat) (c : FireCmd) (k : Nat),
      g < 8 ∧ (s.station g).powered = true ∧ n < 32 ∧ (s.station g).store = [c] ∧ c.jets = 2 ^ n ∧ c.fire ≤ s.loc g ∧
      s.beforeFire g = false ∧ (s.station g).cause n = some k) ∧
    (∃ (s : State) (g : Nat),
      g < 8 ∧ (s.station g).powered = true ∧ (s.station g).store.any (fun c => decide (c.fire ≤ s.loc g)) = true ∧
      s.beforeFire g = false) ∧
    (∃ (s : State) (g : Nat),
      g < 8 ∧ (s.station g).store.any (fun c => decide (c.fire ≤ s.loc g)) = true ∧ s.beforeFire g = true) ∧
    (∃ (s : State) (g : Nat) (c : FireCmd) (l : List FireCmd),
      g < 8 ∧ (s.station g).powered = true ∧ (s.station g).store = c :: l ∧
      (s.station g).store.all (fun c => decide (s.loc g < c.fire)) = true) ∧
    (∃ (s : State) (g : Nat),
      g < 8 ∧ (s.station g).store = []) ∧
    (∃ (s : State) (g : Nat) (n : Nat) (p : Pulse) (o : Option Nat),
      g < 8 ∧ (s.station g).powered = true ∧ n < 32 ∧ (s.station g).pulses.filter (fun q => q.ch == n) = [p] ∧
      min p.peakEnd p.stop ≤ s.loc g ∧ p.judged = false ∧ p.ip ≤ 2 * (s.seen o).1) ∧
    (∃ (s : State) (g : Nat) (n : Nat) (p : Pulse) (o : Option Nat),
      g < 8 ∧ (s.station g).powered = true ∧ n < 32 ∧ (s.station g).pulses.filter (fun q => q.ch == n) = [p] ∧
      min p.peakEnd p.stop ≤ s.loc g ∧ p.judged = false ∧ 2 * (s.seen o).1 < p.ip) ∧
    (∃ (s : State) (g : Nat) (n : Nat) (o : Option Nat),
      g < 8 ∧ n < 32 ∧
      (s.station g).pulses.all (fun q => q.ch != n || decide (s.loc g < min q.peakEnd q.stop) || q.judged) = true) ∧
    (∃ (s : State) (g : Nat) (n : Nat) (p : Pulse),
      g < 8 ∧ (s.station g).powered = true ∧ n < 32 ∧ (s.station g).pulses.filter (fun q => q.ch == n) = [p] ∧
      newelTime (s.loc g) % 16000 = 500 * n ∧ p.folded = false ∧ p.hot = false) ∧
    (∃ (s : State) (g : Nat) (n : Nat) (p : Pulse),
      g < 8 ∧ (s.station g).powered = true ∧ n < 32 ∧ (s.station g).pulses.filter (fun q => q.ch == n) = [p] ∧
      newelTime (s.loc g) % 16000 = 500 * n ∧ (p.folded = true ∨ p.hot = true)) ∧
    (∃ (s : State) (g : Nat) (n : Nat) (p : Pulse),
      g < 8 ∧ (s.station g).powered = true ∧ n < 32 ∧ (s.station g).pulses.filter (fun q => q.ch == n) = [p]) ∧
    (∃ (s : State) (g : Nat) (n : Nat) (b : Bool),
      g < 8 ∧ n < 32 ∧ ((s.station g).pulse n = none ∨ (b = false ∧ newelTime (s.loc g) % 16000 ≠ 500 * n))) ∧
    (∃ (s : State) (g : Nat) (n : Nat) (p : Pulse) (o : Option Nat),
      g < 8 ∧ (s.station g).powered = true ∧ n < 32 ∧ (s.station g).pulses.filter (fun q => q.ch == n) = [p] ∧
      p.stop ≤ s.loc g) ∧
    (∃ (s : State) (g : Nat) (n : Nat) (p : Pulse) (o : Option Nat),
      g < 8 ∧ (s.station g).powered = true ∧ n < 32 ∧ (s.station g).pulses.filter (fun q => q.ch == n) = [p] ∧
      p.stop ≤ s.loc g ∧ (p.judged = true ∨ p.ip ≤ 2 * (s.seen o).1) ∧ p.folded = false) ∧
    (∃ (s : State) (g : Nat) (n : Nat) (o : Option Nat),
      g < 8 ∧ n < 32 ∧ (s.station g).pulses.all (fun q => q.ch != n || decide (s.loc g < q.stop)) = true) :=
  ⟨⟨tWithGal (fun x => { x with store := [⟨4, 60, 9, 2000, 0, false, false, 0, true, false⟩], base := 60 }) id, 0, 2, { jets := 4, fire := 60, seq := 9, dur := 2000, gallery := 0, fallback := false, doubt := false, entered := 0, sentOnce := true, bad := false }, by decide +kernel⟩,
    ⟨tWithGal (fun x => { x.put G.timeValid 0 with store := [⟨4, 60, 9, 2000, 0, false, false, 0, true, false⟩], base := 60 }) id, 0, 2, { jets := 4, fire := 60, seq := 9, dur := 2000, gallery := 0, fallback := false, doubt := false, entered := 0, sentOnce := true, bad := false }, 544, by decide +kernel⟩,
    ⟨tWithGal (fun x => { x with store := [⟨4, 60, 9, 2000, 0, false, false, 0, true, false⟩], base := 60 }) id, 0, by decide +kernel⟩,
    ⟨{ tWithGal (fun x => { x with store := [⟨4, 60, 9, 2000, 0, false, false, 0, true, false⟩], base := 60 }) id with agenda := [(0, .missedCycle 0)] }, 0, by decide +kernel⟩,
    ⟨tWithGal (fun x => { x with store := [⟨4, 10000, 9, 2000, 0, false, false, 0, true, false⟩] }) id, 0, { jets := 4, fire := 10000, seq := 9, dur := 2000, gallery := 0, fallback := false, doubt := false, entered := 0, sentOnce := true, bad := false }, [], by decide +kernel⟩,
    ⟨{ tZero with agenda := [(0, .lockSequence)] }, 0, by decide +kernel⟩,
    ⟨tWithGal (fun x => { x with pulses := [⟨2, 9000, 11000, 10000, 1800, 400, true, false, false, false⟩], base := 10000 }) id, 0, 2, { ch := 2, start := 9000, stop := 11000, peakEnd := 10000, ip := 1800, ih := 400, closed := true, folded := false, hot := false, judged := false }, some 22000, by decide +kernel⟩,
    ⟨tWithGal (fun x => { x with pulses := [⟨2, 9000, 11000, 10000, 1800, 400, true, false, false, false⟩], base := 10000 }) id, 0, 2, { ch := 2, start := 9000, stop := 11000, peakEnd := 10000, ip := 1800, ih := 400, closed := true, folded := false, hot := false, judged := false }, some 100, by decide +kernel⟩,
    ⟨{ tZero with agenda := [(0, .lockSequence)] }, 0, 0, none, by decide +kernel⟩,
    ⟨tWithGal (fun x => { x with pulses := [⟨2, 9000, 11000, 10000, 1800, 400, false, false, false, false⟩], base := 17000 }) id, 0, 2, { ch := 2, start := 9000, stop := 11000, peakEnd := 10000, ip := 1800, ih := 400, closed := false, folded := false, hot := false, judged := false }, by decide +kernel⟩,
    ⟨tWithGal (fun x => { x with pulses := [⟨2, 9000, 11000, 10000, 1800, 400, false, true, false, false⟩], base := 17000 }) id, 0, 2, { ch := 2, start := 9000, stop := 11000, peakEnd := 10000, ip := 1800, ih := 400, closed := false, folded := true, hot := false, judged := false }, by decide +kernel⟩,
    ⟨tWithGal (fun x => { x with pulses := [⟨2, 9000, 11000, 10000, 1800, 400, true, false, false, false⟩] }) id, 0, 2, { ch := 2, start := 9000, stop := 11000, peakEnd := 10000, ip := 1800, ih := 400, closed := true, folded := false, hot := false, judged := false }, by decide +kernel⟩,
    ⟨{ tZero with agenda := [(0, .lockSequence)] }, 0, 0, false, by decide +kernel⟩,
    ⟨tWithGal (fun x => { x with pulses := [⟨2, 9000, 11000, 10000, 1800, 400, false, false, false, false⟩], base := 17000 }) id, 0, 2, { ch := 2, start := 9000, stop := 11000, peakEnd := 10000, ip := 1800, ih := 400, closed := false, folded := false, hot := false, judged := false }, none, by decide +kernel⟩,
    ⟨tWithGal (fun x => { x with pulses := [⟨2, 9000, 11000, 10000, 1800, 400, false, false, false, false⟩], base := 17000 }) id, 0, 2, { ch := 2, start := 9000, stop := 11000, peakEnd := 10000, ip := 1800, ih := 400, closed := false, folded := false, hot := false, judged := false }, some 22000, by decide +kernel⟩,
    ⟨{ tZero with agenda := [(0, .lockSequence)] }, 0, 0, none, by decide +kernel⟩⟩

/-- Hypotheses of `Obligations.GalleryFaults`. -/
theorem witness_GalleryFaults :
    (∃ (s : State) (g : Nat) (b : Nat) (v : Nat),
      g < 8 ∧ (s.station g).powered = true ∧ b < 4 ∧ (v < 1600 ∨ 3300 < v) ∧ (s.station g).g (G.outRange b) = 0) ∧
    (∃ (s : State) (g : Nat) (b : Nat) (v : Nat),
      g < 8 ∧ (s.station g).powered = true ∧ b < 4 ∧ (v < 1600 ∨ 3300 < v) ∧ (s.station g).g (G.outRange b) = 0 ∧
      (s.station g).pulses.all (fun p => p.ch / 8 != b) = true) ∧
    (∃ (s : State) (g : Nat) (b : Nat) (v : Nat),
      g < 8 ∧ (s.station g).powered = true ∧ b < 4 ∧ ((1600 ≤ v ∧ v ≤ 3300) ∨ (s.station g).g (G.outRange b) = 1)) ∧
    (∃ (s : State) (g : Nat) (b : Nat) (v : Nat),
      g < 8 ∧ (s.station g).powered = true ∧ b < 4 ∧ 1700 ≤ v ∧ v ≤ 3250 ∧ (s.station g).g (G.outRange b) = 1) ∧
    (∃ (s : State) (g : Nat) (b : Nat) (v : Nat),
      g < 8 ∧ (s.station g).powered = true ∧ b < 4 ∧ (v < 1700 ∨ 3250 < v ∨ (s.station g).g (G.outRange b) = 0)) ∧
    (∃ (s : State) (g : Nat) (b : Nat) (v : Nat) (c : Instr),
      g < 8 ∧ b < 4 ∧ (s.station g).powered = false ∧ c ∈ [.bankOutOfRange g b v, .bankInRange g b v]) ∧
    (∃ (s : State) (g : Nat) (n : Nat) (p : Pulse),
      g < 8 ∧ (s.station g).powered = true ∧ n < 32 ∧ (s.station g).pulses.filter (fun q => q.ch == n) = [p] ∧
      p.folded = false) ∧
    (∃ (s : State) (g : Nat) (n : Nat) (p : Pulse),
      g < 8 ∧ (s.station g).powered = true ∧ n < 32 ∧ (s.station g).pulses.filter (fun q => q.ch == n) = [p] ∧
      p.hot = false) ∧
    (∃ (s : State) (g : Nat) (n : Nat),
      g < 8 ∧ n < 32 ∧ ((s.station g).pulse n).all (fun p => p.folded) = true) ∧
    (∃ (s : State) (g : Nat) (n : Nat),
      g < 8 ∧ n < 32 ∧ ((s.station g).pulse n).all (fun p => p.hot) = true) ∧
    (∃ (s : State) (g : Nat) (n : Nat),
      g < 8 ∧ (s.station g).powered = true ∧ n < 32 ∧ (s.station g).pulses = [] ∧ (s.station g).quiet n s.now = true ∧
      ((s.station g).g (G.flag n 2) = 0 ∨ (s.station g).g (G.forcedBank (n / 8)) = 0)) ∧
    (∃ (s : State) (g : Nat) (n : Nat),
      g < 8 ∧ n < 32 ∧
      ((s.station g).quiet n s.now = false ∨ (s.station g).pulses ≠ [] ∨ ((s.station g).g (G.flag n 2) = 1 ∧ (s.station g).g (G.forcedBank (n / 8)) = 1))) ∧
    (∃ (s : State) (g : Nat) (n : Nat) (m : Nat),
      g < 8 ∧ (s.station g).powered = true ∧ n < 32 ∧ m < 32 ∧ m ≠ n ∧ (s.station g).quiet n s.now = true ∧
      0 < nth (s.station g).lastOff m 0 ∧ s.now ≤ nth (s.station g).lastOff m 0 + 6000) ∧
    (∃ (s : State) (g : Nat) (n : Nat) (m : Nat),
      g < 8 ∧ (s.station g).powered = true ∧ n < 32 ∧ m < 32 ∧ m ≠ n ∧ (s.station g).quiet n s.now = true ∧
      0 < nth (s.station g).lastOff m 0 ∧ s.now ≤ nth (s.station g).lastOff m 0 + 6000 ∧ (s.station g).pulses = []) ∧
    (∃ (s : State) (g : Nat) (n : Nat) (l : List Nat),
      g < 8 ∧ n < 32 ∧
      ((s.station g).quiet n s.now = false ∨ l.all (fun m => m % 32 == n || nth (s.station g).lastOff (m % 32) 0 == 0 || decide (nth (s.station g).lastOff (m % 32) 0 + 6000 < s.now)) = true)) :=
  ⟨⟨{ (((tLocked).put F.HLK_STATUS_STATE 3)).modLink fun k => { k with rtts := [624, 640] } with stations := [{ Station.idle with powered := true, regs := [(4, 1), (G.lnkState.off, 2)] }] }, 0, 0, 0, by decide +kernel⟩,
    ⟨{ (((tLocked).put F.HLK_STATUS_STATE 3)).modLink fun k => { k with rtts := [624, 640] } with stations := [{ Station.idle with powered := true, regs := [(4, 1), (G.lnkState.off, 2)] }] }, 0, 0, 0, by decide +kernel⟩,
    ⟨{ (((tLocked).put F.HLK_STATUS_STATE 3)).modLink fun k => { k with rtts := [624, 640] } with stations := [{ Station.idle with powered := true, regs := [(4, 1), (G.lnkState.off, 2)] }] }, 0, 0, 2000, by decide +kernel⟩,
    ⟨tWithGal (fun x => (x).put (G.outRange 1) 1) id, 0, 1, 2000, by decide +kernel⟩,
    ⟨{ (((tLocked).put F.HLK_STATUS_STATE 3)).modLink fun k => { k with rtts := [624, 640] } with stations := [{ Station.idle with powered := true, regs := [(4, 1), (G.lnkState.off, 2)] }] }, 0, 0, 0, by decide +kernel⟩,
    ⟨{ tZero with agenda := [(0, .lockSequence)] }, 0, 0, 0, .bankOutOfRange 0 0 0, by decide +kernel⟩,
    ⟨tWithGal (fun x => { x with pulses := [⟨2, 9000, 11000, 10000, 1800, 400, true, false, false, false⟩] }) id, 0, 2, { ch := 2, start := 9000, stop := 11000, peakEnd := 10000, ip := 1800, ih := 400, closed := true, folded := false, hot := false, judged := false }, by decide +kernel⟩,
    ⟨tWithGal (fun x => { x with pulses := [⟨2, 9000, 11000, 10000, 1800, 400, true, false, false, false⟩] }) id, 0, 2, { ch := 2, start := 9000, stop := 11000, peakEnd := 10000, ip := 1800, ih := 400, closed := true, folded := false, hot := false, judged := false }, by decide +kernel⟩,
    ⟨{ tZero with agenda := [(0, .lockSequence)] }, 0, 0, by decide +kernel⟩,
    ⟨{ tZero with agenda := [(0, .lockSequence)] }, 0, 0, by decide +kernel⟩,
    ⟨{ (((tLocked).put F.HLK_STATUS_STATE 3)).modLink fun k => { k with rtts := [624, 640] } with stations := [{ Station.idle with powered := true, regs := [(4, 1), (G.lnkState.off, 2)] }] }, 0, 0, by decide +kernel⟩,
    ⟨{ tZero with agenda := [(0, .lockSequence)] }, 0, 0, by decide +kernel⟩,
    ⟨{ tWithGal (fun x => { x with lastOff := [0, 5] ++ List.replicate 30 0 }) id with now := 4000 }, 0, 0, 1, by decide +kernel⟩,
    ⟨{ tWithGal (fun x => { x with lastOff := [0, 5] ++ List.replicate 30 0 }) id with now := 4000 }, 0, 0, 1, by decide +kernel⟩,
    ⟨{ tZero with agenda := [(0, .lockSequence)] }, 0, 0, [], by decide +kernel⟩⟩

/-- Hypotheses of `Obligations.StrobeCommands`. -/
theorem witness_StrobeCommands :
    (∃ (s : State) (k : Nat) (en : Bool),
      k < 4 ∧ s.unitsAnswer = true) ∧
    (∃ (s : State) (k : Nat) (en : Bool),
      s.unitsAnswer = false) ∧
    (∃ (s : State) (k : Nat) (c : Instr) (x : Strobe),
      k < 4 ∧ c ∈ [.strobeWindowOpen k, .strobeWindowClose k] ∧ x = (s.strobe k).settle s.time ∧
      x.openAt (s.g (F.ILM_STROBE_CTRL_SRC k)) (s.g (F.ILM_STROBE_CTRL_FLAG k)) s.time = true ∧ x.openSince = none) ∧
    (∃ (s : State) (k : Nat) (c : Instr) (x : Strobe) (o : Nat),
      k < 4 ∧ c ∈ [.strobeWindowOpen k, .strobeWindowClose k] ∧ x = (s.strobe k).settle s.time ∧
      x.openAt (s.g (F.ILM_STROBE_CTRL_SRC k)) (s.g (F.ILM_STROBE_CTRL_FLAG k)) s.time = true ∧ x.openSince = some o) ∧
    (∃ (s : State) (k : Nat) (c : Instr) (x : Strobe),
      k < 4 ∧ c ∈ [.strobeWindowOpen k, .strobeWindowClose k] ∧ x = (s.strobe k).settle s.time ∧
      x.openAt (s.g (F.ILM_STROBE_CTRL_SRC k)) (s.g (F.ILM_STROBE_CTRL_FLAG k)) s.time = false) ∧
    (∃ (s : State) (k : Nat) (a : Nat) (b : Nat),
      k < 4 ∧ (s.strobe k).windows = [(a, b)] ∧ a ≤ s.time ∧ s.time < b ∧ (s.strobe k).flagQueue = [] ∧
      (s.strobe k).openSince = none ∧ s.g (F.ILM_STROBE_CTRL_SRC k) ≠ 2) ∧
    (∃ (s : State) (k : Nat) (a : Nat) (b : Nat),
      k < 4 ∧ (s.strobe k).windows = [(a, b)] ∧ b ≤ s.time ∧ (s.strobe k).flagQueue = [] ∧
      s.g (F.ILM_STROBE_CTRL_SRC k) ≠ 2) ∧
    (∃ (s : State) (k : Nat) (o : Nat),
      k < 4 ∧ (s.strobe k).openSince = some o ∧ (s.strobe k).shown = true ∧ s.g (F.ILM_STROBE_MAXHIGH_TICKS k) ≠ 0 ∧
      o + s.g (F.ILM_STROBE_MAXHIGH_TICKS k) ≤ s.time) ∧
    (∃ (s : State) (k : Nat),
      k < 4 ∧
      ((s.strobe k).shown = false ∨ s.g (F.ILM_STROBE_MAXHIGH_TICKS k) = 0 ∨ (s.strobe k).openSince.all (fun o => decide (s.time < o + s.g (F.ILM_STROBE_MAXHIGH_TICKS k))) = true)) :=
  ⟨⟨((tZero.modBoot fun b => { b with powered := true }).modNewel fun x => { x with counting := .ticks }).put F.PCI_LINK_STATE 2 |>.put F.PWR_BOOT_STATUS_STAGE 7 |>.setConfig 4 0x6#32, 0, false, by decide +kernel⟩,
    ⟨{ tZero with agenda := [(0, .lockSequence)] }, 0, false, by decide +kernel⟩,
    ⟨{ (tZero.modNewel fun x => { x with counting := .ticks, phase := .locked, everLocked := true, time := 15000 }) with strobes := [{ Strobe.idle with windows := [(15000, 16000)] }, Strobe.idle, Strobe.idle, Strobe.idle] }, 0, .strobeWindowOpen 0, { windows := [(15000, 16000)], flagQueue := [], flags := 0, openSince := none, shown := false, released := false }, by decide +kernel⟩,
    ⟨({ (tZero.modNewel fun x => { x with counting := .ticks, phase := .locked, everLocked := true, time := 15000 }) with strobes := [{ Strobe.idle with windows := [(14000, 25000)], openSince := some 14000, shown := true }, Strobe.idle, Strobe.idle, Strobe.idle] }).put (F.ILM_STROBE_MAXHIGH_TICKS 0) 1000, 0, .strobeWindowOpen 0, { windows := [(14000, 25000)], flagQueue := [], flags := 0, openSince := some 14000, shown := true, released := false }, 14000, by decide +kernel⟩,
    ⟨{ tZero with agenda := [(0, .lockSequence)] }, 0, .strobeWindowOpen 0, { windows := [], flagQueue := [], flags := 0, openSince := none, shown := false, released := false }, by decide +kernel⟩,
    ⟨{ (tZero.modNewel fun x => { x with counting := .ticks, phase := .locked, everLocked := true, time := 15000 }) with strobes := [{ Strobe.idle with windows := [(15000, 16000)] }, Strobe.idle, Strobe.idle, Strobe.idle] }, 0, 15000, 16000, by decide +kernel⟩,
    ⟨{ (tZero.modNewel fun x => { x with counting := .ticks, phase := .locked, everLocked := true, time := 15000 }) with strobes := [{ Strobe.idle with windows := [(14000, 15000)], openSince := some 14000, shown := true }, Strobe.idle, Strobe.idle, Strobe.idle] }, 0, 14000, 15000, by decide +kernel⟩,
    ⟨({ (tZero.modNewel fun x => { x with counting := .ticks, phase := .locked, everLocked := true, time := 15000 }) with strobes := [{ Strobe.idle with windows := [(14000, 25000)], openSince := some 14000, shown := true }, Strobe.idle, Strobe.idle, Strobe.idle] }).put (F.ILM_STROBE_MAXHIGH_TICKS 0) 1000, 0, 14000, by decide +kernel⟩,
    ⟨{ tZero with agenda := [(0, .lockSequence)] }, 0, by decide +kernel⟩⟩

/-- Hypotheses of `Obligations.SetpointCommands`. -/
theorem witness_SetpointCommands :
    (∃ (s : State) (j : Nat) (v : Nat),
      j < 4 ∧ s.unitsAnswer = true) ∧
    (∃ (s : State) (j : Nat) (v : Nat),
      s.unitsAnswer = false) ∧
    (∃ (s : State) (j : Nat) (w : Nat),
      j < 4 ∧ (s.iset j).written = true ∧ (s.iset j).deadUntil = none ∧ (s.iset j).off = false ∧
      onEdge 1500 s.time = true ∧ w = bitsOf (s.before (F.ILM_ISET_CODE j)) 11 0) ∧
    (∃ (s : State) (j : Nat),
      j < 4 ∧
      ((s.iset j).written = false ∨ (s.iset j).deadUntil.isSome = true ∨ (s.iset j).off = true ∨ onEdge 1500 s.time = false)) ∧
    (∃ (s : State) (j : Nat) (u : Nat),
      j < 4 ∧ (s.iset j).changeAt = some u ∧ u ≤ s.time ∧ (s.iset j).off = false) ∧
    (∃ (s : State) (j : Nat) (u : Nat),
      j < 4 ∧ (s.iset j).changeAt = some u ∧ u ≤ s.time ∧ (s.iset j).off = true) ∧
    (∃ (s : State) (j : Nat),
      j < 4 ∧ (s.iset j).changeAt.all (fun u => decide (s.time < u)) = true) ∧
    (∃ (s : State) (j : Nat) (u : Nat) (w : Nat),
      j < 4 ∧ (s.iset j).deadUntil = some u ∧ u ≤ s.time ∧ w = bitsOf (s.before (F.ILM_ISET_CODE j)) 11 0) ∧
    (∃ (s : State) (j : Nat),
      j < 4 ∧ (s.iset j).deadUntil.all (fun u => decide (s.time < u)) = true) :=
  ⟨⟨((tZero.modBoot fun b => { b with powered := true }).modNewel fun x => { x with counting := .ticks }).put F.PCI_LINK_STATE 2 |>.put F.PWR_BOOT_STATUS_STAGE 7 |>.setConfig 4 0x6#32, 0, 0, by decide +kernel⟩,
    ⟨{ tZero with agenda := [(0, .lockSequence)] }, 0, 0, by decide +kernel⟩,
    ⟨{ (tZero.modNewel fun x => { x with counting := .ticks, phase := .locked, everLocked := true, time := 15000 }) with isets := [{ Iset.idle with written := true }, Iset.idle, Iset.idle, Iset.idle] }, 0, 0, by decide +kernel⟩,
    ⟨{ tZero with agenda := [(0, .lockSequence)] }, 0, by decide +kernel⟩,
    ⟨{ (tZero.modNewel fun x => { x with counting := .ticks, phase := .locked, everLocked := true, time := 15000 }) with isets := [{ Iset.idle with target := true, changeAt := some 15000 }, Iset.idle, Iset.idle, Iset.idle] }, 0, 15000, by decide +kernel⟩,
    ⟨{ tLocked with isets := { Iset.idle with off := true, changeAt := some 5 } :: List.replicate 3 Iset.idle }, 0, 5, by decide +kernel⟩,
    ⟨{ tZero with agenda := [(0, .lockSequence)] }, 0, by decide +kernel⟩,
    ⟨{ (tZero.modNewel fun x => { x with counting := .ticks, phase := .locked, everLocked := true, time := 15000 }) with isets := [{ Iset.idle with target := true, deadUntil := some 15000 }, Iset.idle, Iset.idle, Iset.idle] }, 0, 15000, 0, by decide +kernel⟩,
    ⟨{ tZero with agenda := [(0, .lockSequence)] }, 0, by decide +kernel⟩⟩

/-- Hypotheses of `Obligations.PioBranches`. -/
theorem witness_PioBranches :
    (∃ (s : State) (e : Nat) (w : Nat) (s₁ : State),
      s.atEdge e w = true ∧ s₁ = s.edge e ∧ pioRow e w = .goto e) ∧
    (∃ (s : State) (e : Nat) (w : Nat) (s₁ : State),
      s.atEdge e w = true ∧ s₁ = s.edge e ∧ pioRow e w = .count e ∧ wbits w 10 10 = 0) ∧
    (∃ (s : State) (e : Nat) (w : Nat) (s₁ : State),
      s.atEdge e w = true ∧ s₁ = s.edge e ∧ pioRow e w = .count e ∧ wbits w 10 10 = 1) ∧
    (∃ (s : State) (e : Nat) (w : Nat) (s₁ : State),
      s.atEdge e w = true ∧ s₁ = s.edge e ∧ pioRow e w = .brif e) ∧
    (∃ (s : State) (e : Nat) (w : Nat) (s₁ : State),
      s.atEdge e w = true ∧ s₁ = s.edge e ∧ pioRow e w = .brnot e) ∧
    (∃ (s : State) (e : Nat) (w : Nat) (s₁ : State),
      s.atEdge e w = true ∧ s₁ = s.edge e ∧ pioRow e w = .await e ∧ (s₁.pioAwaits e w).1 = true) ∧
    (∃ (s : State) (e : Nat) (w : Nat) (s₁ : State),
      s.atEdge e w = true ∧ s₁ = s.edge e ∧ pioRow e w = .await e ∧ (s₁.pioAwaits e w).1 = false) ∧
    (∃ (s : State) (e : Nat) (c : Instr),
      pioEvent e c = true ∧ c ≠ .holdEnd e ∧
      ((s.eng e).running = false ∨ (s.eng e).holding = true ∨ (s.eng e).nextAt ≠ s.time ∨ s.ticking = false ∨ s.pioHalted = true ∨ pioRow e (s.pioWord e) ≠ c)) :=
  ⟨⟨(tLocked.put (F.PIO_PROG_INSTR 0 0 0) 0x0123).modEng 0 fun x => { x with running := true, nextAt := 10000 }, 0, 291, ((tLocked.put (F.PIO_PROG_INSTR 0 0 0) 0x0123).modEng 0 fun x => { x with running := true, nextAt := 10000 }).edge 0, by decide +kernel⟩,
    ⟨(tLocked.put (F.PIO_PROG_INSTR 0 0 0) 0x1010).modEng 0 fun x => { x with running := true, nextAt := 10000 }, 0, 4112, ((tLocked.put (F.PIO_PROG_INSTR 0 0 0) 0x1010).modEng 0 fun x => { x with running := true, nextAt := 10000 }).edge 0, by decide +kernel⟩,
    ⟨(tLocked.put (F.PIO_PROG_INSTR 0 0 0) 0x1410).modEng 0 fun x => { x with running := true, nextAt := 10000 }, 0, 5136, ((tLocked.put (F.PIO_PROG_INSTR 0 0 0) 0x1410).modEng 0 fun x => { x with running := true, nextAt := 10000 }).edge 0, by decide +kernel⟩,
    ⟨(tLocked.put (F.PIO_PROG_INSTR 0 0 0) 0x2050).modEng 0 fun x => { x with running := true, nextAt := 10000 }, 0, 8272, ((tLocked.put (F.PIO_PROG_INSTR 0 0 0) 0x2050).modEng 0 fun x => { x with running := true, nextAt := 10000 }).edge 0, by decide +kernel⟩,
    ⟨(tLocked.put (F.PIO_PROG_INSTR 0 0 0) 0x3050).modEng 0 fun x => { x with running := true, nextAt := 10000 }, 0, 12368, ((tLocked.put (F.PIO_PROG_INSTR 0 0 0) 0x3050).modEng 0 fun x => { x with running := true, nextAt := 10000 }).edge 0, by decide +kernel⟩,
    ⟨(tLocked.put (F.PIO_PROG_INSTR 0 0 0) 0x4800).modEng 0 fun x => { x with running := true, nextAt := 10000 }, 0, 18432, ((tLocked.put (F.PIO_PROG_INSTR 0 0 0) 0x4800).modEng 0 fun x => { x with running := true, nextAt := 10000 }).edge 0, by decide +kernel⟩,
    ⟨(tLocked.put (F.PIO_PROG_INSTR 0 0 0) 0x4A00).modEng 0 fun x => { x with running := true, nextAt := 10000 }, 0, 18944, ((tLocked.put (F.PIO_PROG_INSTR 0 0 0) 0x4A00).modEng 0 fun x => { x with running := true, nextAt := 10000 }).edge 0, by decide +kernel⟩,
    ⟨{ tZero with agenda := [(0, .lockSequence)] }, 0, .goto 0, by decide +kernel⟩⟩

/-- Hypotheses of `Obligations.PioData`. -/
theorem witness_PioData :
    (∃ (s : State) (e : Nat) (w : Nat) (s₁ : State),
      s.atEdge e w = true ∧ s₁ = s.edge e ∧ pioRow e w = .shin e ∧ wbits w 11 9 = 0) ∧
    (∃ (s : State) (e : Nat) (w : Nat) (s₁ : State) (k : Nat) (x : Nat),
      s.atEdge e w = true ∧ s₁ = s.edge e ∧ pioRow e w = .shin e ∧ wbits w 11 9 = k ∧ 1 ≤ k ∧
      (x = if k = 1 then (s₁.eng e).u else if k = 2 then (s₁.eng e).v else if k = 3 then 0 else s.pio.flags)) ∧
    (∃ (s : State) (e : Nat) (w : Nat) (s₁ : State) (k : Nat) (v : Nat) (sr : Nat),
      s.atEdge e w = true ∧ s₁ = s.edge e ∧ pioRow e w = .shout e ∧ wbits w 11 9 = k ∧ k ≠ 0 ∧ k ≠ 4 ∧
      shiftOut (s.on (F.PIO_EXEC_SHIFT e)) (s₁.eng e).sr (pioBits w) = (v, sr)) ∧
    (∃ (s : State) (e : Nat) (w : Nat) (s₁ : State) (k : Nat) (v : Nat) (sr : Nat),
      s.atEdge e w = true ∧ s₁ = s.edge e ∧ pioRow e w = .shout e ∧ wbits w 11 9 = k ∧ (k = 0 ∨ k = 4) ∧
      shiftOut (s.on (F.PIO_EXEC_SHIFT e)) (s₁.eng e).sr (pioBits w) = (v, sr)) ∧
    (∃ (s : State) (e : Nat) (w : Nat) (s₁ : State) (k : Nat) (v : Nat),
      s.atEdge e w = true ∧ s₁ = s.edge e ∧ pioRow e w = .copy e ∧ wbits w 11 9 = k ∧
      v = pioXf (wbits w 8 7) (s₁.pioSource e (wbits w 6 4)).1 ∧ (k = 1 ∨ k = 2 ∨ k = 3 ∨ k = 5)) ∧
    (∃ (s : State) (e : Nat) (w : Nat) (s₁ : State) (k : Nat) (v : Nat),
      s.atEdge e w = true ∧ s₁ = s.edge e ∧ pioRow e w = .copy e ∧ wbits w 11 9 = k ∧
      v = pioXf (wbits w 8 7) (s₁.pioSource e (wbits w 6 4)).1 ∧ (k = 0 ∨ k = 6)) ∧
    (∃ (s : State) (e : Nat) (w : Nat) (s₁ : State) (k : Nat) (v : Nat),
      s.atEdge e w = true ∧ s₁ = s.edge e ∧ pioRow e w = .copy e ∧ wbits w 11 9 = k ∧
      v = pioXf (wbits w 8 7) (s₁.pioSource e (wbits w 6 4)).1 ∧ k = 4) ∧
    (∃ (s : State) (e : Nat) (w : Nat) (s₁ : State) (k : Nat),
      s.atEdge e w = true ∧ s₁ = s.edge e ∧ pioRow e w = .put e ∧ wbits w 11 9 = k ∧ (k = 1 ∨ k = 2)) ∧
    (∃ (s : State) (e : Nat) (w : Nat) (s₁ : State) (k : Nat),
      s.atEdge e w = true ∧ s₁ = s.edge e ∧ pioRow e w = .put e ∧ wbits w 11 9 = k ∧ k ≠ 1 ∧ k ≠ 2) :=
  ⟨⟨tPio 0x5008 id, 0, 20488, (tPio 0x5008 id).edge 0, by decide +kernel⟩,
    ⟨(tLocked.put (F.PIO_PROG_INSTR 0 0 0) 0x5240).modEng 0 fun x => { x with running := true, nextAt := 10000 }, 0, 21056, ((tLocked.put (F.PIO_PROG_INSTR 0 0 0) 0x5240).modEng 0 fun x => { x with running := true, nextAt := 10000 }).edge 0, 1, 0, by decide +kernel⟩,
    ⟨(tLocked.put (F.PIO_PROG_INSTR 0 0 0) 0x6240).modEng 0 fun x => { x with running := true, nextAt := 10000 }, 0, 25152, ((tLocked.put (F.PIO_PROG_INSTR 0 0 0) 0x6240).modEng 0 fun x => { x with running := true, nextAt := 10000 }).edge 0, 1, 0, 0, by decide +kernel⟩,
    ⟨tPio 0x6008 id, 0, 24584, (tPio 0x6008 id).edge 0, 0, 0, 0, by decide +kernel⟩,
    ⟨(tLocked.put (F.PIO_PROG_INSTR 0 0 0) 0x8230).modEng 0 fun x => { x with running := true, nextAt := 10000 }, 0, 33328, ((tLocked.put (F.PIO_PROG_INSTR 0 0 0) 0x8230).modEng 0 fun x => { x with running := true, nextAt := 10000 }).edge 0, 1, 0, by decide +kernel⟩,
    ⟨tPio 0x8030 id, 0, 32816, (tPio 0x8030 id).edge 0, 0, 0, by decide +kernel⟩,
    ⟨tPio 0x8830 id, 0, 34864, (tPio 0x8830 id).edge 0, 4, 0, by decide +kernel⟩,
    ⟨(tLocked.put (F.PIO_PROG_INSTR 0 0 0) 0x9250).modEng 0 fun x => { x with running := true, nextAt := 10000 }, 0, 37456, ((tLocked.put (F.PIO_PROG_INSTR 0 0 0) 0x9250).modEng 0 fun x => { x with running := true, nextAt := 10000 }).edge 0, 1, by decide +kernel⟩,
    ⟨tPio 0x9050 id, 0, 36944, (tPio 0x9050 id).edge 0, 0, by decide +kernel⟩⟩

/-- Hypotheses of `Obligations.PioQueues`. -/
theorem witness_PioQueues :
    (∃ (s : State) (e : Nat) (w : Nat) (s₁ : State),
      s.atEdge e w = true ∧ s₁ = s.edge e ∧ pioRow e w = .deposit e ∧ s.on (F.PIO_QCFG_RXMAIL e) = true ∧
      s₁.pioDepth e true ≠ 0) ∧
    (∃ (s : State) (e : Nat) (w : Nat) (s₁ : State),
      s.atEdge e w = true ∧ s₁ = s.edge e ∧ pioRow e w = .deposit e ∧ s.on (F.PIO_QCFG_RXMAIL e) = false ∧
      (s₁.eng e).rx.length < s₁.pioDepth e true) ∧
    (∃ (s : State) (e : Nat) (w : Nat) (s₁ : State),
      s.atEdge e w = true ∧ s₁ = s.edge e ∧ pioRow e w = .deposit e ∧
      (s.on (F.PIO_QCFG_RXMAIL e) = false ∨ s₁.pioDepth e true = 0) ∧ s₁.pioDepth e true ≤ (s₁.eng e).rx.length ∧
      wbits w 10 10 = 1) ∧
    (∃ (s : State) (e : Nat) (w : Nat) (s₁ : State),
      s.atEdge e w = true ∧ s₁ = s.edge e ∧ pioRow e w = .deposit e ∧
      (s.on (F.PIO_QCFG_RXMAIL e) = false ∨ s₁.pioDepth e true = 0) ∧ s₁.pioDepth e true ≤ (s₁.eng e).rx.length ∧
      wbits w 10 10 = 0) ∧
    (∃ (s : State) (e : Nat) (w : Nat) (s₁ : State) (a : Nat) (v : Nat) (l : List (Nat × Nat)),
      s.atEdge e w = true ∧ s₁ = s.edge e ∧ pioRow e w = .fetch e ∧ (s₁.eng e).tx = (a, v) :: l ∧ a ≤ s.time) ∧
    (∃ (s : State) (e : Nat) (w : Nat) (s₁ : State),
      s.atEdge e w = true ∧ s₁ = s.edge e ∧ pioRow e w = .fetch e ∧
      (s₁.eng e).tx.head?.all (fun q => decide (s.time < q.1)) = true ∧ wbits w 10 10 = 1) ∧
    (∃ (s : State) (e : Nat) (w : Nat) (s₁ : State),
      s.atEdge e w = true ∧ s₁ = s.edge e ∧ pioRow e w = .fetch e ∧
      (s₁.eng e).tx.head?.all (fun q => decide (s.time < q.1)) = true ∧ wbits w 10 10 = 0) ∧
    (∃ (s : State) (e : Nat) (v : Nat),
      e < 16 ∧ (s.eng e).tx.length < s.pioDepth e false) ∧
    (∃ (s : State) (e : Nat) (v : Nat),
      e < 16 ∧ s.pioDepth e false ≤ (s.eng e).tx.length) ∧
    (∃ (s : State) (e : Nat) (v : Nat),
      16 ≤ e) ∧
    (∃ (s : State) (e : Nat),
      e < 16 ∧ (s.eng e).running = false) ∧
    (∃ (s : State) (e : Nat),
      e < 16 ∧ (s.eng e).running = true) ∧
    (∃ (s : State) (e : Nat),
      16 ≤ e) :=
  ⟨⟨(tPio 0x7000 id).put (F.PIO_QCFG_RXMAIL 0) 1, 0, 28672, ((tPio 0x7000 id).put (F.PIO_QCFG_RXMAIL 0) 1).edge 0, by decide +kernel⟩,
    ⟨(tLocked.put (F.PIO_PROG_INSTR 0 0 0) 0x7000).modEng 0 fun x => { x with running := true, nextAt := 10000 }, 0, 28672, ((tLocked.put (F.PIO_PROG_INSTR 0 0 0) 0x7000).modEng 0 fun x => { x with running := true, nextAt := 10000 }).edge 0, by decide +kernel⟩,
    ⟨(tLocked.put (F.PIO_PROG_INSTR 0 0 0) 0x7400).modEng 0 fun x => { x with running := true, nextAt := 10000, rx := [(1,1),(2,2),(3,3),(4,4)] }, 0, 29696, ((tLocked.put (F.PIO_PROG_INSTR 0 0 0) 0x7400).modEng 0 fun x => { x with running := true, nextAt := 10000, rx := [(1,1),(2,2),(3,3),(4,4)] }).edge 0, by decide +kernel⟩,
    ⟨tPio 0x7000 fun x => { x with rx := [(1, 1), (2, 2), (3, 3), (4, 4)] }, 0, 28672, (tPio 0x7000 fun x => { x with rx := [(1, 1), (2, 2), (3, 3), (4, 4)] }).edge 0, by decide +kernel⟩,
    ⟨(tLocked.put (F.PIO_PROG_INSTR 0 0 0) 0x7800).modEng 0 fun x => { x with running := true, nextAt := 10000, tx := [(9000, 77)] }, 0, 30720, ((tLocked.put (F.PIO_PROG_INSTR 0 0 0) 0x7800).modEng 0 fun x => { x with running := true, nextAt := 10000, tx := [(9000, 77)] }).edge 0, 9000, 77, [], by decide +kernel⟩,
    ⟨tPio 0x7C00 id, 0, 31744, (tPio 0x7C00 id).edge 0, by decide +kernel⟩,
    ⟨tPio 0x7800 id, 0, 30720, (tPio 0x7800 id).edge 0, by decide +kernel⟩,
    ⟨{ tZero with agenda := [(0, .lockSequence)] }, 0, 0, by decide +kernel⟩,
    ⟨tZero.modEng 0 fun x => { x with tx := [(1,1),(1,1),(1,1),(1,1)] }, 0, 0, by decide +kernel⟩,
    ⟨{ tZero with agenda := [(0, .lockSequence)] }, 16, 0, by decide +kernel⟩,
    ⟨{ tZero with agenda := [(0, .lockSequence)] }, 0, by decide +kernel⟩,
    ⟨(tLocked.put (F.PIO_PROG_INSTR 0 0 0) 0x0123).modEng 0 fun x => { x with running := true, nextAt := 10000 }, 0, by decide +kernel⟩,
    ⟨{ tZero with agenda := [(0, .lockSequence)] }, 16, by decide +kernel⟩⟩

/-- Hypotheses of `Obligations.PioSignals`. -/
theorem witness_PioSignals :
    (∃ (s : State) (e : Nat) (w : Nat) (s₁ : State),
      s.atEdge e w = true ∧ s₁ = s.edge e ∧ pioRow e w = .signalRaise e) ∧
    (∃ (s : State) (e : Nat) (w : Nat) (s₁ : State),
      s.atEdge e w = true ∧ s₁ = s.edge e ∧ pioRow e w = .signalLower e) ∧
    (∃ (s : State) (e : Nat) (w : Nat) (s₁ : State),
      s.atEdge e w = true ∧ s₁ = s.edge e ∧ pioRow e w = .illegal e) ∧
    (∃ (s : State) (e : Nat),
      (s.eng e).running = true ∧ (s.eng e).holding = true ∧ (s.eng e).nextAt ≤ s.time + s.pioCycle e) ∧
    (∃ (s : State) (e : Nat),
      ((s.eng e).running = false ∨ (s.eng e).holding = false ∨ s.time + s.pioCycle e < (s.eng e).nextAt)) :=
  ⟨⟨(tLocked.put (F.PIO_PROG_INSTR 0 0 0) 0xA430).modEng 0 fun x => { x with running := true, nextAt := 10000 }, 0, 42032, ((tLocked.put (F.PIO_PROG_INSTR 0 0 0) 0xA430).modEng 0 fun x => { x with running := true, nextAt := 10000 }).edge 0, by decide +kernel⟩,
    ⟨(tLocked.put (F.PIO_PROG_INSTR 0 0 0) 0xA030).modEng 0 fun x => { x with running := true, nextAt := 10000 }, 0, 41008, ((tLocked.put (F.PIO_PROG_INSTR 0 0 0) 0xA030).modEng 0 fun x => { x with running := true, nextAt := 10000 }).edge 0, by decide +kernel⟩,
    ⟨(tLocked.put (F.PIO_PROG_INSTR 0 0 0) 0x0C00).modEng 0 fun x => { x with running := true, nextAt := 10000 }, 0, 3072, ((tLocked.put (F.PIO_PROG_INSTR 0 0 0) 0x0C00).modEng 0 fun x => { x with running := true, nextAt := 10000 }).edge 0, by decide +kernel⟩,
    ⟨(tLocked.put (F.PIO_PROG_INSTR 0 0 0) 0x0123).modEng 0 fun x => { x with running := true, nextAt := 10000, holding := true }, 0, by decide +kernel⟩,
    ⟨{ tZero with agenda := [(0, .lockSequence)] }, 0, by decide +kernel⟩⟩

/-- Hypotheses of `Obligations.PioControl`. -/
theorem witness_PioControl :
    (∃ (s : State) (m : Nat),
      s.unitsAnswer = true ∧ s.pioAllowed = true) ∧
    (∃ (s : State) (m : Nat),
      (s.unitsAnswer = false ∨ s.pioAllowed = false)) ∧
    (∃ (s : State) (m : Nat),
      ((List.range 16).all fun e => !bitN m e || !(s.eng e).running || (s.eng e).nextAt != s.time || (s.eng e).holding) = true) :=
  ⟨⟨((tZero.modBoot fun b => { b with powered := true }).modNewel fun x => { x with counting := .ticks }).put F.PCI_LINK_STATE 2 |>.put F.PWR_BOOT_STATUS_STAGE 7 |>.setConfig 4 0x6#32, 0, by decide +kernel⟩,
    ⟨{ tZero with agenda := [(0, .lockSequence)] }, 0, by decide +kernel⟩,
    ⟨{ tZero with agenda := [(0, .lockSequence)] }, 0, by decide +kernel⟩⟩

/-- Hypotheses of `Obligations.MonitorCommands`. -/
theorem witness_MonitorCommands :
    (∃ (s : State) (m : Nat),
      m < 8 ∧ s.monsRun = true) ∧
    (∃ (s : State) (m : Nat),
      m < 8 ∧ s.monsRun = false) ∧
    (∃ (s : State) (m : Nat) (o : Option (List Bool)),
      m < 8 ∧ s.sampleDue m = true ∧ (s.mon m).next = none) ∧
    (∃ (s : State) (m : Nat) (b : List Bool),
      m < 8 ∧ s.sampleDue m = true ∧ (s.mon m).next = none ∧ (s.mon m).index < 3 ∧ b.length = s.g (F.MON_CFG_DECIM m) ∧
      s.on (F.MON_CTRL_STREAM m) = false) ∧
    (∃ (s : State) (m : Nat) (b : List Bool) (d : Int),
      m < 8 ∧ s.sampleDue m = true ∧ (s.mon m).next = none ∧ 3 ≤ (s.mon m).index ∧
      (s.g (F.MON_CFG_PICK m) = 0 ∨ s.g (F.MON_CFG_PICK m) = (s.mon m).index + 1) ∧
      b.length = s.g (F.MON_CFG_DECIM m) ∧ s.on (F.MON_CTRL_STREAM m) = false ∧
      d = monValue b.length (b.foldl Monitor.bit (s.mon m)).sum.1) ∧
    (∃ (s : State) (m : Nat) (r : Nat) (o : Option (List Bool)),
      m < 8 ∧ (s.mon m).next = some r ∧ r ≤ s.time ∧ s.on (F.MON_CTRL_EN m) = true ∧ s.monsRun = true ∧
      s.sampleDue m = false) ∧
    (∃ (s : State) (m : Nat) (r : Nat) (o : Option (List Bool)),
      m < 8 ∧ (s.mon m).next = some r ∧ r ≤ s.time ∧ s.on (F.MON_CTRL_EN m) = true ∧ s.monsRun = true ∧
      s.sampleDue m = true) ∧
    (∃ (s : State) (m : Nat) (o : Option (List Bool)),
      m < 8 ∧ s.sampleDue m = false ∧
      ((s.mon m).next.all (fun r => decide (s.time < r)) = true ∨ s.on (F.MON_CTRL_EN m) = false ∨ s.monsRun = false)) ∧
    (∃ (s : State) (l : List MonEntry),
      s.stream.entries = l ∧ l.length < s.g F.MON_STREAM_BLOCK ∧
      l.head?.any (fun e => decide (e.stamp + 1500000 ≤ s.time)) = true ∧
      (s.hostBack = false ∨ s.avail (s.g F.MON_STREAM_QUEUE) < ceilDiv (blockBytes (s.g F.MON_STREAM_SEQ_COUNT) s.stream.skipped l).length 64)) ∧
    (∃ (s : State) (l : List MonEntry),
      s.stream.entries = l ∧ l.length < s.g F.MON_STREAM_BLOCK ∧
      l.head?.any (fun e => decide (e.stamp + 1500000 ≤ s.time)) = true ∧ s.hostBack = true ∧
      ceilDiv (blockBytes (s.g F.MON_STREAM_SEQ_COUNT) s.stream.skipped l).length 64 ≤ s.avail (s.g F.MON_STREAM_QUEUE)) ∧
    (∃ (s : State) (n : Nat),
      s.g F.MON_STREAM_BLOCK = n ∧ 0 < n ∧ n ≤ s.stream.entries.length) ∧
    (∃ (s : State),
      s.stream.entries.length < s.g F.MON_STREAM_BLOCK ∧
      s.stream.entries.head?.all (fun e => decide (s.time < e.stamp + 1500000)) = true) :=
  ⟨⟨{ tZero with agenda := [(0, .lockSequence)] }, 0, by decide +kernel⟩,
    ⟨(tZero.modBoot fun b => { b with powered := true }).put F.PWR_STEP_STATUS_STEP 5, 0, by decide +kernel⟩,
    ⟨{ (tLocked.put (F.MON_CFG_DECIM 0) 64 |>.put F.NWL_DIV_ACTIVE_MON 25 |>.put (F.MON_CTRL_EN 0) 1) with mons := { Monitor.idle with run := some 2000, index := 4 } :: List.replicate 7 Monitor.idle }, 0, none, by decide +kernel⟩,
    ⟨{ ((tLocked.put (F.MON_CFG_DECIM 0) 2).put F.NWL_DIV_ACTIVE_MON 25).put (F.MON_CTRL_EN 0) 1 with mons := { Monitor.idle with run := some 9950 } :: List.replicate 7 Monitor.idle }, 0, [false, true], by decide +kernel⟩,
    ⟨{ ((tLocked.put (F.MON_CFG_DECIM 0) 2).put F.NWL_DIV_ACTIVE_MON 25).put (F.MON_CTRL_EN 0) 1 with mons := { Monitor.idle with run := some 9800, index := 3 } :: List.replicate 7 Monitor.idle }, 0, [false, true], -6291456, by decide +kernel⟩,
    ⟨{ ((tLocked.put (F.MON_CFG_DECIM 0) 2).put F.NWL_DIV_ACTIVE_MON 25).put (F.MON_CTRL_EN 0) 1 with mons := { Monitor.idle with run := some 9500, next := some 10000 } :: List.replicate 7 Monitor.idle }, 0, 10000, none, by decide +kernel⟩,
    ⟨{ ((tLocked.put (F.MON_CFG_DECIM 0) 2).put F.NWL_DIV_ACTIVE_MON 25).put (F.MON_CTRL_EN 0) 1 with mons := { Monitor.idle with run := some 9950, next := some 10000 } :: List.replicate 7 Monitor.idle }, 0, 10000, none, by decide +kernel⟩,
    ⟨{ tZero with agenda := [(0, .lockSequence)] }, 0, none, by decide +kernel⟩,
    ⟨{ (tLocked.modNewel (fun x => { x with time := 2000000 }) |>.put F.MON_STREAM_BLOCK 16 |>.put F.MON_STREAM_QUEUE 20 |>.put (F.HAL_Q_SIZE_CEIL 20) 0 |>.put (F.HAL_Q_SIZE_RESV 20) 0) with stream := ⟨[⟨1, 0, 0, false, false⟩], 0⟩ }, [{ stamp := 1, mon := 0, value := 0, settling := false, first := false }], by decide +kernel⟩,
    ⟨{ (tLocked.modNewel (fun x => { x with time := 2000000 }) |>.put F.MON_STREAM_BLOCK 16 |>.put F.MON_STREAM_QUEUE 20 |>.put (F.HAL_Q_SIZE_CEIL 20) 64 |>.put (F.HAL_Q_CTRL_EN 20) 1) with stream := ⟨[⟨1, 0, 0, false, false⟩], 0⟩ }, [{ stamp := 1, mon := 0, value := 0, settling := false, first := false }], by decide +kernel⟩,
    ⟨{ tLocked.put F.MON_STREAM_BLOCK 1 with stream := ⟨[⟨1, 0, 5, false, true⟩, ⟨2, 0, 5, false, true⟩], 0⟩ }, 1, by decide +kernel⟩,
    ⟨{ (State.reset.modNewel fun x => { x with counting := .ticks, phase := .locked, everLocked := true, time := 10000 }) with cams := [{ Camera.idle with active := true, nextSlot := some 13000, period := 100000, lastExposure := 900000, lastReadout := [900000, 900000] }, Camera.idle] }, by decide +kernel⟩⟩

/-- Hypotheses of `Obligations.PacketWriting`. -/
theorem witness_PacketWriting :
    (∃ (s : State) (n : Nat) (o : OutPacket) (p : OutPacket) (c : HallCheck),
      n < 17 ∧ 8 ≤ o.queue ∧ o.queue < 64 ∧ (s.port n).cur = some o ∧ (s.port n).opened = false ∧
      (s.port n).waiting = false ∧ (s.port n).nextAt ≤ s.now ∧ c ≠ .pointer ∧ c ≠ .freeList ∧
      s.canTake o.queue = true ∧ p = (s.filledIn n o).2 ∧ p.queue = o.queue) ∧
    (∃ (s : State) (n : Nat) (o : OutPacket) (c : HallCheck),
      n < 17 ∧ 8 ≤ o.queue ∧ o.queue < 64 ∧ (s.port n).cur = some o ∧ (s.port n).opened = false ∧
      (s.port n).waiting = false ∧ (s.port n).nextAt ≤ s.now ∧ c ≠ .pointer ∧ c ≠ .freeList ∧ s.canTake o.queue = false) ∧
    (∃ (s : State) (n : Nat) (o : OutPacket) (c : HallCheck),
      n < 17 ∧ 8 ≤ o.queue ∧ o.queue < 64 ∧ (s.port n).cur = some o ∧ (s.port n).opened = true ∧
      (s.port n).waiting = false ∧ (s.port n).nextAt ≤ s.now ∧ c ≠ .pointer ∧ c ≠ .freeList ∧ s.canTake o.queue = true) ∧
    (∃ (s : State) (n : Nat) (o : OutPacket) (c : HallCheck),
      n < 17 ∧ 8 ≤ o.queue ∧ o.queue < 64 ∧ (s.port n).cur = some o ∧ (s.port n).opened = true ∧
      (s.port n).waiting = false ∧ (s.port n).nextAt ≤ s.now ∧ c ≠ .pointer ∧ c ≠ .freeList ∧ s.canTake o.queue = false) ∧
    (∃ (s : State) (n : Nat) (o : OutPacket) (u : Bool) (c : Instr),
      n < 17 ∧ 8 ≤ o.queue ∧ o.queue < 64 ∧ (s.port n).cur = some o ∧
      (u, c) ∈ [(false, Instr.packetOpen n .pointer), (true, .packetWrite n .pointer)] ∧ (s.port n).opened = u) ∧
    (∃ (s : State) (n : Nat) (o : OutPacket) (u : Bool) (c : Instr),
      n < 17 ∧ 8 ≤ o.queue ∧ o.queue < 64 ∧ (s.port n).cur = some o ∧
      (u, c) ∈ [(false, Instr.packetOpen n .freeList), (true, .packetWrite n .freeList)] ∧ (s.port n).opened = u ∧
      (s.port n).waiting = false ∧ (s.port n).nextAt ≤ s.now) ∧
    (∃ (s : State) (n : Nat) (c : HallCheck),
      n < 17 ∧ (s.port n).cur = none) ∧
    (∃ (s : State) (n : Nat),
      n < 17 ∧
      ((s.port n).cur = none ∨ (s.port n).opened = false ∨ (s.port n).waiting = true ∨ s.now < (s.port n).nextAt)) ∧
    (∃ (s : State) (n : Nat) (o : OutPacket) (x : OpenPacket),
      n < 17 ∧ 8 ≤ o.queue ∧ o.queue < 64 ∧ (s.port n).cur = some o ∧ o.bytes.length ≤ (s.port n).taken ∧
      (s.port n).waiting = false ∧ (s.queue o.queue).opens.find? (fun y => y.port == n) = some x ∧ x.bytes ≠ []) ∧
    (∃ (s : State) (n : Nat),
      n < 17 ∧ (s.port n).cur.all (fun o => decide ((s.port n).taken < o.bytes.length) || (s.port n).waiting) = true) ∧
    (∃ (s : State) (n : Nat) (o : OutPacket),
      n < 17 ∧ 8 ≤ o.queue ∧ o.queue < 64 ∧ (s.port n).cur = some o ∧ (n = 16 ∨ o.kind < 4)) ∧
    (∃ (s : State) (n : Nat),
      n < 16 ∧ (s.port n).cur.all (fun o => decide (4 ≤ o.kind)) = true) ∧
    (∃ (s : State) (n : Nat) (o : OutPacket),
      n < 17 ∧ 8 ≤ o.queue ∧ o.queue < 64 ∧ (s.port n).cur = some o ∧ s.time % 2 = 0 ∧ (s.port n).waiting = true ∧
      (s.port n).opened = false ∧ (∀ k ∈ List.range 17, k ≠ n → (s.port k).waiting = false) ∧ s.canTake o.queue = true) ∧
    (∃ (s : State) (n : Nat) (o : OutPacket),
      n < 17 ∧ 8 ≤ o.queue ∧ o.queue < 64 ∧ (s.port n).cur = some o ∧ s.time % 2 = 0 ∧ (s.port n).waiting = true ∧
      (s.port n).opened = true ∧ (∀ k ∈ List.range 17, k ≠ n → (s.port k).waiting = false) ∧ s.canTake o.queue = true) ∧
    (∃ (s : State) (q : Nat),
      8 ≤ q ∧ q < 64 ∧ s.time % 2 = 0 ∧
      ((List.range 17).any fun k => ((s.port k).waiting && (s.port k).cur.any fun o => o.queue == q)) = true ∧
      s.canTake q = false) ∧
    (∃ (s : State) (q : Nat),
      (s.time % 2 = 1 ∨ ((List.range 17).any fun k => ((s.port k).waiting && (s.port k).cur.any fun o => o.queue == q)) = false)) :=
  ⟨⟨{ (State.reset.modNewel fun x => { x with counting := .ticks, phase := .locked, everLocked := true, time := 10000 }) with hall := { State.reset.hall with queues := List.replicate 64 Queue.idle, ports := modNth (List.replicate 17 Port.idle) 16 fun _ => { Port.idle with cur := some ⟨9, List.replicate 100 7, 3, 0⟩ } } }, 16, { queue := 9, bytes := (List.replicate 100 0x07#8), seq := 3, kind := 0 }, { queue := 9, bytes := (List.replicate 100 0x07#8), seq := 3, kind := 0 }, HallCheck.ok, by decide +kernel⟩,
    ⟨{ tLocked with hall := { tZero.hall with ports := modNth tZero.hall.ports 16 fun _ => { Port.idle with cur := some ⟨8, List.replicate 100 7, 0, 0⟩ } } }, 16, { queue := 8, bytes := (List.replicate 100 0x07#8), seq := 0, kind := 0 }, HallCheck.ok, by decide +kernel⟩,
    ⟨{ (State.reset.modNewel fun x => { x with counting := .ticks, phase := .locked, everLocked := true, time := 10000 }) with hall := { State.reset.hall with queues := modNth (List.replicate 64 Queue.idle) 9 fun q => { q with opens := [⟨16, List.replicate 64 7, false⟩] }, ports := modNth (List.replicate 17 Port.idle) 16 fun _ => { Port.idle with cur := some ⟨9, List.replicate 100 7, 3, 0⟩, opened := true, taken := 64 } } }, 16, { queue := 9, bytes := (List.replicate 100 0x07#8), seq := 3, kind := 0 }, HallCheck.ok, by decide +kernel⟩,
    ⟨{ tLocked with hall := { tZero.hall with queues := modNth (List.replicate 64 Queue.idle) 9 fun q => { q with opens := [⟨16, List.replicate 64 7, false⟩] }, ports := modNth (List.replicate 17 Port.idle) 16 fun _ => { Port.idle with cur := some ⟨9, List.replicate 100 7, 3, 0⟩, opened := true, taken := 64 }, rebuilding := true } }, 16, { queue := 9, bytes := (List.replicate 100 0x07#8), seq := 3, kind := 0 }, HallCheck.ok, by decide +kernel⟩,
    ⟨{ (State.reset.modNewel fun x => { x with counting := .ticks, phase := .locked, everLocked := true, time := 10000 }) with hall := { State.reset.hall with queues := List.replicate 64 Queue.idle, ports := modNth (List.replicate 17 Port.idle) 16 fun _ => { Port.idle with cur := some ⟨9, List.replicate 100 7, 3, 0⟩ } } }, 16, { queue := 9, bytes := (List.replicate 100 0x07#8), seq := 3, kind := 0 }, false, .packetOpen 16 (HallCheck.pointer), by decide +kernel⟩,
    ⟨{ (State.reset.modNewel fun x => { x with counting := .ticks, phase := .locked, everLocked := true, time := 10000 }) with hall := { State.reset.hall with queues := List.replicate 64 Queue.idle, ports := modNth (List.replicate 17 Port.idle) 16 fun _ => { Port.idle with cur := some ⟨9, List.replicate 100 7, 3, 0⟩ } } }, 16, { queue := 9, bytes := (List.replicate 100 0x07#8), seq := 3, kind := 0 }, false, .packetOpen 16 (HallCheck.freeList), by decide +kernel⟩,
    ⟨{ tZero with agenda := [(0, .lockSequence)] }, 0, HallCheck.ok, by decide +kernel⟩,
    ⟨{ tZero with agenda := [(0, .lockSequence)] }, 0, by decide +kernel⟩,
    ⟨{ tLocked with hall := { tZero.hall with queues := modNth (List.replicate 64 Queue.idle) 9 fun q => { q with opens := [⟨16, List.replicate 100 7, false⟩] }, ports := modNth (List.replicate 17 Port.idle) 16 fun _ => { Port.idle with cur := some ⟨9, List.replicate 100 7, 3, 0⟩, opened := true, taken := 100 } } }, 16, { queue := 9, bytes := (List.replicate 100 0x07#8), seq := 3, kind := 0 }, { port := 16, bytes := (List.replicate 100 0x07#8), bad := false }, by decide +kernel⟩,
    ⟨{ tZero with agenda := [(0, .lockSequence)] }, 0, by decide +kernel⟩,
    ⟨{ (State.reset.modNewel fun x => { x with counting := .ticks, phase := .locked, everLocked := true, time := 10000 }) with hall := { State.reset.hall with queues := List.replicate 64 Queue.idle, ports := modNth (List.replicate 17 Port.idle) 16 fun _ => { Port.idle with cur := some ⟨9, List.replicate 100 7, 3, 0⟩ } } }, 16, { queue := 9, bytes := (List.replicate 100 0x07#8), seq := 3, kind := 0 }, by decide +kernel⟩,
    ⟨{ tZero with agenda := [(0, .lockSequence)] }, 0, by decide +kernel⟩,
    ⟨{ ((tLocked.put (F.HAL_Q_CTRL_EN 8) 1).put (F.HAL_Q_SIZE_CEIL 8) 64).put (F.HAL_Q_SIZE_RESV 8) 64 with hall := { tZero.hall with ports := modNth tZero.hall.ports 16 fun _ => { Port.idle with cur := some ⟨8, List.replicate 100 7, 0, 0⟩, waiting := true } } }, 16, { queue := 8, bytes := (List.replicate 100 0x07#8), seq := 0, kind := 0 }, by decide +kernel⟩,
    ⟨{ (State.reset.modNewel fun x => { x with counting := .ticks, phase := .locked, everLocked := true, time := 10000 }) with hall := { State.reset.hall with queues := modNth (List.replicate 64 Queue.idle) 9 fun q => { q with opens := [⟨16, List.replicate 64 7, false⟩] }, ports := modNth (List.replicate 17 Port.idle) 16 fun _ => { Port.idle with cur := some ⟨9, List.replicate 100 7, 3, 0⟩, opened := true, waiting := true, taken := 64 } } }, 16, { queue := 9, bytes := (List.replicate 100 0x07#8), seq := 3, kind := 0 }, by decide +kernel⟩,
    ⟨{ tLocked with hall := { tZero.hall with ports := modNth tZero.hall.ports 16 fun _ => { Port.idle with cur := some ⟨8, List.replicate 100 7, 0, 0⟩, waiting := true } } }, 8, by decide +kernel⟩,
    ⟨{ tZero with agenda := [(0, .lockSequence)] }, 0, by decide +kernel⟩⟩

/-- Hypotheses of `Obligations.PacketReading`. -/
theorem witness_PacketReading :
    (∃ (s : State) (q : Nat) (u : Nat) (k : Task) (p : Packet) (l : List Packet),
      8 ≤ q ∧ q < 64 ∧ u < 4 ∧ (s.queue q).readers.head? = some u ∧ (s.slot u).running = some k ∧ k.op = 0x12 ∧
      (s.slot u).job.phase = 2 ∧ (s.slot u).job.due ≤ s.now ∧ s.mayRequest = true ∧ (s.queue q).closed = p :: l ∧
      (s.queue q).lost = none) ∧
    (∃ (s : State) (q : Nat) (u : Nat) (k : Task) (p : Packet),
      8 ≤ q ∧ q < 64 ∧ u < 4 ∧ (s.slot u).running = some k ∧ k.op = 0x12 ∧ (s.slot u).job.phase = 2 ∧
      (s.slot u).job.due ≤ s.now ∧ s.mayRequest = true ∧ (s.queue q).readers = [u] ∧ (s.slot u).job.aborted = false ∧
      (s.queue q).closed = [p] ∧ (s.queue q).lost = none ∧ k.w 10 = 0 ∧ k.w 4 = q ∧ bitN (k.w 11) 0 = false ∧
      p.bad = false) ∧
    (∃ (s : State) (q : Nat) (u : Nat) (k : Task) (p : Packet) (l : List Packet) (c : HallCheck),
      8 ≤ q ∧ q < 64 ∧ u < 4 ∧ (s.queue q).readers.head? = some u ∧ (s.slot u).running = some k ∧ k.op = 0x12 ∧
      (s.slot u).job.phase = 2 ∧ (s.slot u).job.due ≤ s.now ∧ s.mayRequest = true ∧ (s.queue q).closed = p :: l ∧
      (s.queue q).lost = none ∧ p.bad = false ∧ s.g (F.HAL_Q_CTRL_PROT q) = 1 ∧ (c = .single ∨ c = .double)) ∧
    (∃ (s : State) (q : Nat) (u : Nat) (k : Task) (p : Packet) (c : HallCheck),
      8 ≤ q ∧ q < 64 ∧ u < 4 ∧ (s.queue q).readers.head? = some u ∧ (s.slot u).running = some k ∧ k.op = 0x12 ∧
      (s.slot u).job.phase = 2 ∧ (s.slot u).job.due ≤ s.now ∧ s.mayRequest = true ∧ (s.queue q).lost = some p) ∧
    (∃ (s : State) (q : Nat) (c : HallCheck),
      ((s.queue q).readers = [] ∨ q < 8 ∨ 64 ≤ q)) ∧
    (∃ (s : State) (q : Nat) (u : Nat) (k : Task) (p : Packet) (l : List Packet),
      8 ≤ q ∧ q < 64 ∧ u < 4 ∧ (s.queue q).readers.head? = some u ∧ (s.slot u).running = some k ∧ k.op = 0x12 ∧
      k.w 4 = q ∧ k.w 10 = 0 ∧ (s.slot u).job.phase = 1 ∧ (s.slot u).job.aborted = false ∧
      (s.slot u).job.began ≤ s.time ∧ s.mayRequest = true ∧ (s.queue q).closed = p :: l ∧ p.visibleAt ≤ s.now ∧
      (s.slot u).job.bytes + entrySize p.bytes.length ≤ k.w 9) ∧
    (∃ (s : State) (q : Nat),
      ((s.queue q).readers = [] ∨ q < 8 ∨ 64 ≤ q)) ∧
    (∃ (s : State) (f : Bool),
      ((if f then s.hall.fireRebuilding else s.hall.rebuilding) = true)) ∧
    (∃ (s : State) (f : Bool),
      ((if f then s.hall.fireRebuilding else s.hall.rebuilding) = false)) :=
  ⟨⟨{ tUsh (tEng 0 fun x => { x with running := some ⟨0, 0, [0x12, 0, 0, 0, 8, 0, 0x1000, 0, 0, 65536, 0, 0], 0, 0, 0⟩, job := { Job.idle with phase := 2 } }) with hall := { tZero.hall with queues := modNth tZero.hall.queues 8 fun q => { q with readers := [0], closed := [⟨[1, 2, 3], false, false, 0, 0⟩] } } }, 8, 0, { sq := 0, head := 0, words := [18, 0, 0, 0, 8, 0, 4096, 0, 0, 65536, 0, 0], taken := 0, ready := 0, start := 0 }, { bytes := [0x01#8, 0x02#8, 0x03#8], error := false, bad := false, visibleAt := 0, port := 0 }, [], by decide +kernel⟩,
    ⟨{ tUsh (tEng 0 fun x => { x with running := some ⟨0, 0, [0x12, 0, 0, 0, 8, 0, 0x1000, 0, 0, 65536, 0, 0], 0, 0, 0⟩, job := { Job.idle with phase := 2 } }) with hall := { tZero.hall with queues := modNth tZero.hall.queues 8 fun q => { q with readers := [0], closed := [⟨[1, 2, 3], false, false, 0, 0⟩] } } }, 8, 0, { sq := 0, head := 0, words := [18, 0, 0, 0, 8, 0, 4096, 0, 0, 65536, 0, 0], taken := 0, ready := 0, start := 0 }, { bytes := [0x01#8, 0x02#8, 0x03#8], error := false, bad := false, visibleAt := 0, port := 0 }, by decide +kernel⟩,
    ⟨{ (tUsh (tEng 0 fun x => { x with running := some ⟨0, 0, [0x12, 0, 0, 0, 8, 0, 0x1000, 0, 0, 65536, 0, 0], 0, 0, 0⟩, job := { Job.idle with phase := 2 } })).put (F.HAL_Q_CTRL_PROT 8) 1 with hall := { tZero.hall with queues := modNth tZero.hall.queues 8 fun q => { q with readers := [0], closed := [⟨[1, 2, 3], false, false, 0, 0⟩] } } }, 8, 0, { sq := 0, head := 0, words := [18, 0, 0, 0, 8, 0, 4096, 0, 0, 65536, 0, 0], taken := 0, ready := 0, start := 0 }, { bytes := [0x01#8, 0x02#8, 0x03#8], error := false, bad := false, visibleAt := 0, port := 0 }, [], HallCheck.single, by decide +kernel⟩,
    ⟨{ tUsh (tEng 0 fun x => { x with running := some ⟨0, 0, [0x12, 0, 0, 0, 8, 0, 0x1000, 0, 0, 65536, 0, 0], 0, 0, 0⟩, job := { Job.idle with phase := 2 } }) with hall := { tZero.hall with queues := modNth tZero.hall.queues 8 fun q => { q with readers := [0], lost := some ⟨[1, 2, 3], false, false, 0, 0⟩ } } }, 8, 0, { sq := 0, head := 0, words := [18, 0, 0, 0, 8, 0, 4096, 0, 0, 65536, 0, 0], taken := 0, ready := 0, start := 0 }, { bytes := [0x01#8, 0x02#8, 0x03#8], error := false, bad := false, visibleAt := 0, port := 0 }, HallCheck.ok, by decide +kernel⟩,
    ⟨{ tZero with agenda := [(0, .lockSequence)] }, 0, HallCheck.ok, by decide +kernel⟩,
    ⟨{ tUsh (tEng 0 fun x => { x with running := some ⟨0, 0, [0x12, 0, 0, 0, 8, 0, 0x1000, 0, 0, 65536, 0, 0], 0, 0, 0⟩, job := { Job.idle with phase := 1 } }) with hall := { tZero.hall with queues := modNth tZero.hall.queues 8 fun q => { q with readers := [0], closed := [⟨[1, 2, 3], false, false, 0, 0⟩] } } }, 8, 0, { sq := 0, head := 0, words := [18, 0, 0, 0, 8, 0, 4096, 0, 0, 65536, 0, 0], taken := 0, ready := 0, start := 0 }, { bytes := [0x01#8, 0x02#8, 0x03#8], error := false, bad := false, visibleAt := 0, port := 0 }, [], by decide +kernel⟩,
    ⟨{ tZero with agenda := [(0, .lockSequence)] }, 0, by decide +kernel⟩,
    ⟨{ tLocked with hall := { tZero.hall with queues := modNth (List.replicate 64 Queue.idle) 9 fun q => { q with opens := [⟨16, List.replicate 64 7, false⟩] }, ports := modNth (List.replicate 17 Port.idle) 16 fun _ => { Port.idle with cur := some ⟨9, List.replicate 100 7, 3, 0⟩, opened := true, taken := 64 }, rebuilding := true } }, false, by decide +kernel⟩,
    ⟨{ tZero with agenda := [(0, .lockSequence)] }, false, by decide +kernel⟩⟩

/-- Hypotheses of `Obligations.QueueControl`. -/
theorem witness_QueueControl :
    (∃ (s : State) (q : Nat) (en : Bool),
      8 ≤ q ∧ q < 64 ∧ s.queueEnableOk q en = true) ∧
    (∃ (s : State) (q : Nat),
      8 ≤ q ∧ q < 64 ∧ (s.level q ≠ 0 ∨ (s.queue q).opens ≠ [])) ∧
    (∃ (s : State) (q : Nat) (en : Bool),
      (q < 8 ∨ 64 ≤ q)) ∧
    (∃ (s : State) (q : Nat) (d : Nat),
      8 ≤ q ∧ q < 64 ∧ s.g (F.HAL_Q_CTRL_EN q) = 0 ∧ s.queueSizeOk q (d % 2 ^ 14) (d / 2 ^ 16 % 2 ^ 14) = true) ∧
    (∃ (s : State) (q : Nat) (d : Nat),
      8 ≤ q ∧ q < 64 ∧ s.g (F.HAL_Q_CTRL_EN q) = 0 ∧ s.queueSizeOk q (d % 2 ^ 14) (d / 2 ^ 16 % 2 ^ 14) = false ∧
      (d % 2 ^ 14 ≠ s.resv q ∨ d / 2 ^ 16 % 2 ^ 14 ≠ s.ceil q)) ∧
    (∃ (s : State) (q : Nat) (d : Nat),
      8 ≤ q ∧ q < 64 ∧ s.on (F.HAL_Q_CTRL_EN q) = true ∧ (d % 2 ^ 14 ≠ s.resv q ∨ d / 2 ^ 16 % 2 ^ 14 ≠ s.ceil q)) ∧
    (∃ (s : State) (q : Nat) (d : Nat),
      (q < 8 ∨ 64 ≤ q ∨ (d % 2 ^ 14 = s.resv q ∧ d / 2 ^ 16 % 2 ^ 14 = s.ceil q))) ∧
    (∃ (s : State) (n : Nat) (d : Nat),
      n < 8 ∧ s.unitsAnswer = true) ∧
    (∃ (s : State) (n : Nat) (d : Nat),
      (8 ≤ n ∨ s.unitsAnswer = false)) :=
  ⟨⟨{ tZero with agenda := [(0, .lockSequence)] }, 8, false, by decide +kernel⟩,
    ⟨{ (State.reset.modNewel fun x => { x with counting := .ticks, phase := .locked, everLocked := true, time := 10000 }) with hall := { State.reset.hall with queues := modNth (List.replicate 64 Queue.idle) 9 fun q => { q with opens := [⟨16, List.replicate 64 7, false⟩] }, ports := modNth (List.replicate 17 Port.idle) 16 fun _ => { Port.idle with cur := some ⟨9, List.replicate 100 7, 3, 0⟩, opened := true, taken := 64 } } }, 9, by decide +kernel⟩,
    ⟨{ tZero with agenda := [(0, .lockSequence)] }, 0, false, by decide +kernel⟩,
    ⟨{ tZero with agenda := [(0, .lockSequence)] }, 8, 25165824, by decide +kernel⟩,
    ⟨{ tZero with agenda := [(0, .lockSequence)] }, 8, 1, by decide +kernel⟩,
    ⟨{ (State.reset.modNewel fun x => { x with counting := .ticks, phase := .locked, everLocked := true, time := 10000 }) with cams := [{ Camera.idle with active := true, nextSlot := some 13000, period := 100000, lastExposure := 900000, lastReadout := [900000, 900000] }, Camera.idle] }, 8, 0, by decide +kernel⟩,
    ⟨{ tZero with agenda := [(0, .lockSequence)] }, 0, 0, by decide +kernel⟩,
    ⟨((tZero.modBoot fun b => { b with powered := true }).modNewel fun x => { x with counting := .ticks }).put F.PCI_LINK_STATE 2 |>.put F.PWR_BOOT_STATUS_STAGE 7 |>.setConfig 4 0x6#32, 0, 0, by decide +kernel⟩,
    ⟨{ tZero with agenda := [(0, .lockSequence)] }, 0, 0, by decide +kernel⟩⟩

/-- Hypotheses of `Obligations.SubmissionRings`. -/
theorem witness_SubmissionRings :
    (∃ (s : State) (i : Nat) (d : Nat),
      i < 16 ∧ ringSub d (s.sqHead i) ≤ s.sqSize i ∧ ringSub (s.ring i).tail (s.sqHead i) ≤ ringSub d (s.sqHead i)) ∧
    (∃ (s : State) (i : Nat) (d : Nat),
      i < 16 ∧ (s.sqSize i < ringSub d (s.sqHead i) ∨ ringSub d (s.sqHead i) < ringSub (s.ring i).tail (s.sqHead i))) ∧
    (∃ (s : State) (i : Nat) (c : Instr),
      16 ≤ i ∧ (c = .recordFetch i ∨ c = .ringDisable i ∨ c = .resume i ∨ c = .fetchReturn i none)) ∧
    (∃ (s : State) (i : Nat) (d : Nat),
      16 ≤ i) ∧
    (∃ (s : State) (i : Nat) (a : Nat) (n : Nat),
      i < 16 ∧ s.mayRequest = true ∧ s.usherRuns = true ∧ s.on (F.USH_SQ_CTRL_EN i) = true ∧ (s.ring i).asked = 0 ∧
      a = s.ringBase (F.USH_SQ_BASE_LO_ADDR i) (F.USH_SQ_BASE_HI_ADDR i) + 64 * ((s.sqHead i + (s.ring i).buf.length) % s.sqSize i) ∧
      n = min (min (min 8 (s.maxRead / 64)) (ringSub (s.ring i).tail (s.sqHead i) - (s.ring i).buf.length)) (min (s.sqSize i - ((s.sqHead i + (s.ring i).buf.length) % s.sqSize i)) ((4096 - a % 4096) / 64)) ∧
      0 < n) ∧
    (∃ (s : State) (i : Nat),
      (s.on (F.USH_SQ_CTRL_EN i) = false ∨ (s.ring i).asked ≠ 0 ∨ s.mayRequest = false ∨ s.usherRuns = false ∨ ringSub (s.ring i).tail (s.sqHead i) ≤ (s.ring i).buf.length)) ∧
    (∃ (s : State) (i : Nat) (l : List Byte),
      i < 16 ∧ (s.ring i).asked ≠ 0) ∧
    (∃ (s : State) (i : Nat),
      i < 16 ∧ (s.ring i).asked ≠ 0) ∧
    (∃ (s : State) (i : Nat) (d : Option (List Byte)),
      ((s.ring i).asked = 0 ∨ 16 ≤ i)) ∧
    (∃ (s : State) (c : Nat) (h : Nat),
      c < 8 ∧
      ringSub h (s.g (F.USH_CQ_HEAD_HEAD c)) ≤ ringSub (s.g (F.USH_CQ_STATUS_TAIL c)) (s.g (F.USH_CQ_HEAD_HEAD c))) ∧
    (∃ (s : State) (n : Nat) (h : Nat),
      n < 2 ∧
      ringSub h (s.g (F.USH_NQ_HEAD_HEAD n)) ≤ ringSub (s.g (F.USH_NQ_STATUS_TAIL n)) (s.g (F.USH_NQ_HEAD_HEAD n))) ∧
    (∃ (s : State) (c : Nat) (h : Nat),
      c < 8 ∧
      ringSub (s.g (F.USH_CQ_STATUS_TAIL c)) (s.g (F.USH_CQ_HEAD_HEAD c)) < ringSub h (s.g (F.USH_CQ_HEAD_HEAD c))) ∧
    (∃ (s : State) (n : Nat) (h : Nat),
      n < 2 ∧
      ringSub (s.g (F.USH_NQ_STATUS_TAIL n)) (s.g (F.USH_NQ_HEAD_HEAD n)) < ringSub h (s.g (F.USH_NQ_HEAD_HEAD n))) ∧
    (∃ (s : State) (r : Nat) (h : Nat),
      10 ≤ r) ∧
    (∃ (s : State) (i : Nat) (l : List Task),
      i < 16 ∧ s.on (F.USH_SQ_CTRL_EN i) = true ∧ (s.ring i).wait.all (fun w => w.task.sq == i) = true ∧
      l = ((List.range 12).filterMap fun u => (s.slot u).deck.bind fun k => if k.sq = i then some k else none) ++ ((s.ring i).wait.map (·.task)).toList) ∧
    (∃ (s : State) (i : Nat),
      s.on (F.USH_SQ_CTRL_EN i) = false) ∧
    (∃ (s : State) (i : Nat),
      i < 16 ∧ bitN (s.g F.USH_FLAGS_HALTED) i = true) ∧
    (∃ (s : State) (i : Nat),
      bitN (s.g F.USH_FLAGS_HALTED) i = false) :=
  ⟨⟨{ tZero with agenda := [(0, .lockSequence)] }, 0, 0, by decide +kernel⟩,
    ⟨{ tZero with agenda := [(0, .lockSequence)] }, 0, 2, by decide +kernel⟩,
    ⟨{ tZero with agenda := [(0, .lockSequence)] }, 16, .recordFetch 16, by decide +kernel⟩,
    ⟨{ tZero with agenda := [(0, .lockSequence)] }, 16, 0, by decide +kernel⟩,
    ⟨tUsh (tRing fun r => { r with tail := 3 }), 0, 0, 3, by decide +kernel⟩,
    ⟨{ tZero with agenda := [(0, .lockSequence)] }, 0, by decide +kernel⟩,
    ⟨tUsh (tRing fun r => { r with tail := 3, asked := 1 }), 0, [], by decide +kernel⟩,
    ⟨tUsh (tRing fun r => { r with tail := 3, asked := 1 }), 0, by decide +kernel⟩,
    ⟨{ tZero with agenda := [(0, .lockSequence)] }, 0, none, by decide +kernel⟩,
    ⟨{ tZero with agenda := [(0, .lockSequence)] }, 0, 0, by decide +kernel⟩,
    ⟨{ tZero with agenda := [(0, .lockSequence)] }, 0, 0, by decide +kernel⟩,
    ⟨{ tZero with agenda := [(0, .lockSequence)] }, 0, 1, by decide +kernel⟩,
    ⟨{ tZero with agenda := [(0, .lockSequence)] }, 0, 1, by decide +kernel⟩,
    ⟨{ tZero with agenda := [(0, .lockSequence)] }, 10, 0, by decide +kernel⟩,
    ⟨tUsh id, 0, [], by decide +kernel⟩,
    ⟨{ tZero with agenda := [(0, .lockSequence)] }, 0, by decide +kernel⟩,
    ⟨(tUsh id).put F.USH_FLAGS_HALTED 1, 0, by decide +kernel⟩,
    ⟨{ tZero with agenda := [(0, .lockSequence)] }, 0, by decide +kernel⟩⟩

/-- Hypotheses of `Obligations.RecordTaking`. -/
theorem witness_RecordTaking :
    (∃ (s : State) (i : Nat) (a : Nat) (w : List Nat) (l : List (Nat × List Nat)) (k : Task),
      i < 16 ∧ s.mayRequest = true ∧ s.usherRuns = true ∧ onEdge 4 s.time = true ∧ s.headState i = 0 ∧
      (∀ j ∈ List.range 16, j ≠ i → s.headState j ≠ 4 ∧ (s.headState j = 0 → s.ringBefore j i = false)) ∧
      s.usher.nextTake ≤ s.time ∧ (s.ring i).buf = (a, w) :: l ∧
      k = ⟨i, (s.sqHead i + 1) % 131072, w, s.time, s.time + 96, s.time⟩) ∧
    (∃ (s : State) (i : Nat) (a : Nat) (w : List Nat) (l : List (Nat × List Nat)) (k : Task),
      i < 16 ∧ s.mayRequest = true ∧ s.usherRuns = true ∧ onEdge 4 s.time = true ∧ s.headState i = 0 ∧
      (∀ j ∈ List.range 16, j ≠ i → s.headState j = 1 ∨ s.headState j = 2) ∧ s.usher.nextTake ≤ s.time ∧
      (s.ring i).buf = (a, w) :: l ∧ k = ⟨i, (s.sqHead i + 1) % 131072, w, s.time, s.time + 96, s.time⟩ ∧
      k.takeCheck = none ∧ k.op = 0) ∧
    (∃ (s : State) (i : Nat) (a : Nat) (w : List Nat) (l : List (Nat × List Nat)) (k : Task),
      i < 16 ∧ s.mayRequest = true ∧ s.usherRuns = true ∧ onEdge 4 s.time = true ∧ s.headState i = 0 ∧
      (∀ j ∈ List.range 16, j ≠ i → s.headState j = 1 ∨ s.headState j = 2) ∧ s.usher.nextTake ≤ s.time ∧
      (s.ring i).buf = (a, w) :: l ∧ k = ⟨i, (s.sqHead i + 1) % 131072, w, s.time, s.time + 96, s.time⟩ ∧
      k.takeCheck = none ∧ k.op = 1 ∧ k.marks = 0) ∧
    (∃ (s : State) (i : Nat) (a : Nat) (w : List Nat) (l : List (Nat × List Nat)) (k : Task) (lim : Nat),
      i < 16 ∧ s.mayRequest = true ∧ s.usherRuns = true ∧ onEdge 4 s.time = true ∧ s.headState i = 0 ∧
      (∀ j ∈ List.range 16, j ≠ i → s.headState j = 1 ∨ s.headState j = 2) ∧ s.usher.nextTake ≤ s.time ∧
      (s.ring i).buf = (a, w) :: l ∧ k = ⟨i, (s.sqHead i + 1) % 131072, w, s.time, s.time + 96, s.time⟩ ∧
      k.takeCheck = none ∧ k.marks = 0 ∧
      (k.op = 2 ∧ lim = k.w 6 + k.w 7 * 2 ^ 32 ∧ 2 ^ 31 ≤ (s.g (F.USH_EVENT_COUNT (k.w 4 % 256)) + 2 ^ 32 - k.w 5) % 2 ^ 32)) ∧
    (∃ (s : State) (i : Nat) (a : Nat) (w : List Nat) (l : List (Nat × List Nat)) (k : Task) (lim : Nat),
      i < 16 ∧ s.mayRequest = true ∧ s.usherRuns = true ∧ onEdge 4 s.time = true ∧ s.headState i = 0 ∧
      (∀ j ∈ List.range 16, j ≠ i → s.headState j = 1 ∨ s.headState j = 2) ∧ s.usher.nextTake ≤ s.time ∧
      (s.ring i).buf = (a, w) :: l ∧ k = ⟨i, (s.sqHead i + 1) % 131072, w, s.time, s.time + 96, s.time⟩ ∧
      k.takeCheck = none ∧ k.marks = 0 ∧ k.op = 3 ∧ lim = k.w 12 + k.w 13 * 2 ^ 32 ∧ bitN (k.w 6) 0 = false) ∧
    (∃ (s : State) (i : Nat) (a : Nat) (w : List Nat) (l : List (Nat × List Nat)) (k : Task) (n : Nat),
      i < 16 ∧ s.mayRequest = true ∧ s.usherRuns = true ∧ onEdge 4 s.time = true ∧ s.headState i = 0 ∧
      (∀ j ∈ List.range 16, j ≠ i → s.headState j = 1 ∨ s.headState j = 2) ∧ s.usher.nextTake ≤ s.time ∧
      (s.ring i).buf = (a, w) :: l ∧ k = ⟨i, (s.sqHead i + 1) % 131072, w, s.time, s.time + 96, s.time⟩ ∧
      k.takeCheck = none ∧ k.marks = 0 ∧ k.op = 4 ∧ n = (if bitN (k.w 6) 1 then 8 else 4)) ∧
    (∃ (s : State) (i : Nat) (a : Nat) (w : List Nat) (l : List (Nat × List Nat)) (k : Task),
      i < 16 ∧ s.mayRequest = true ∧ s.usherRuns = true ∧ onEdge 4 s.time = true ∧ s.headState i = 0 ∧
      (∀ j ∈ List.range 16, j ≠ i → s.headState j = 1 ∨ s.headState j = 2) ∧ s.usher.nextTake ≤ s.time ∧
      (s.ring i).buf = (a, w) :: l ∧ k = ⟨i, (s.sqHead i + 1) % 131072, w, s.time, s.time + 96, s.time⟩ ∧
      k.takeCheck = none ∧ k.op < 5 ∧ k.marks ≠ 0 ∧ s.storeBad = []) ∧
    (∃ (s : State) (i : Nat) (a : Nat) (w : List Nat) (l : List (Nat × List Nat)) (k : Task),
      i < 16 ∧ s.mayRequest = true ∧ s.usherRuns = true ∧ onEdge 4 s.time = true ∧ s.headState i = 0 ∧
      (∀ j ∈ List.range 16, j ≠ i → s.headState j = 1 ∨ s.headState j = 2) ∧ s.usher.nextTake ≤ s.time ∧
      (s.ring i).buf = (a, w) :: l ∧ k = ⟨i, (s.sqHead i + 1) % 131072, w, s.time, s.time + 96, s.time⟩ ∧
      k.takeCheck = none ∧ (k.op = 0x51 ∨ k.op = 0x52)) ∧
    (∃ (s : State) (i : Nat) (a : Nat) (w : List Nat) (l : List (Nat × List Nat)) (k : Task) (r : RunBy),
      i < 16 ∧ s.mayRequest = true ∧ s.usherRuns = true ∧ onEdge 4 s.time = true ∧ s.headState i = 0 ∧
      (∀ j ∈ List.range 16, j ≠ i → s.headState j = 1 ∨ s.headState j = 2) ∧ s.usher.nextTake ≤ s.time ∧
      (s.ring i).buf = (a, w) :: l ∧ k = ⟨i, (s.sqHead i + 1) % 131072, w, s.time, s.time + 96, s.time⟩ ∧
      k.takeCheck = none ∧ (opSpec k.op).map (·.1) = some r ∧ r ≠ .usher ∧ r ≠ .flight) ∧
    (∃ (s : State) (i : Nat) (a : Nat) (w : List Nat) (l : List (Nat × List Nat)) (k : Task) (v : Nat),
      i < 16 ∧ s.mayRequest = true ∧ s.usherRuns = true ∧ onEdge 4 s.time = true ∧ s.headState i = 0 ∧
      (∀ j ∈ List.range 16, j ≠ i → s.headState j = 1 ∨ s.headState j = 2) ∧ s.usher.nextTake ≤ s.time ∧
      (s.ring i).buf = (a, w) :: l ∧ k = ⟨i, (s.sqHead i + 1) % 131072, w, s.time, s.time + 96, s.time⟩ ∧
      k.takeCheck = some v) ∧
    (∃ (s : State) (i : Nat),
      i < 16 ∧ s.mayRequest = true ∧ s.usherRuns = true ∧ onEdge 4 s.time = true ∧ s.headState i = 0 ∧
      (∀ j ∈ List.range 16, j ≠ i → s.headState j = 1 ∨ s.headState j = 2) ∧ s.time < s.usher.nextTake) ∧
    (∃ (s : State),
      s.mayRequest = true ∧ s.usherRuns = true ∧ onEdge 4 s.time = true ∧
      (∀ j ∈ List.range 16, s.headState j ≠ 0 ∧ s.headState j ≠ 4) ∧
      (List.range 16).any (fun j => s.headState j == 3) = true ∧ s.usher.cqWaitAt ≠ s.time) ∧
    (∃ (s : State),
      s.mayRequest = true ∧ s.usherRuns = true ∧ onEdge 4 s.time = true ∧
      (∀ j ∈ List.range 16, s.headState j ≠ 0 ∧ s.headState j ≠ 3)) ∧
    (∃ (s : State),
      s.mayRequest = true ∧ s.usherRuns = true ∧ onEdge 4 s.time = true ∧
      (∀ j ∈ List.range 16, s.headState j = 1 ∨ s.headState j = 2)) ∧
    (∃ (s : State),
      (s.mayRequest = false ∨ s.usherRuns = false ∨ onEdge 4 s.time = false)) :=
  ⟨⟨tUsh (tRing fun r => { r with tail := 3, buf := [(0, [])] }), 0, 0, [], [], { sq := 0, head := 1, words := [], taken := 10000, ready := 10096, start := 10000 }, by decide +kernel⟩,
    ⟨tUsh (tRing fun r => { r with tail := 3, buf := [(0, [])] }), 0, 0, [], [], { sq := 0, head := 1, words := [], taken := 10000, ready := 10096, start := 10000 }, by decide +kernel⟩,
    ⟨tTake [1, 5, 0, 0, 3, 2, 0, 0, 0, 0, 0, 0, 0, 0, 0, 0], 0, 9000, [1, 5, 0, 0, 3, 2, 0, 0, 0, 0, 0, 0, 0, 0, 0, 0], [], { sq := 0, head := 1, words := [1, 5, 0, 0, 3, 2, 0, 0, 0, 0, 0, 0, 0, 0, 0, 0], taken := 10000, ready := 10096, start := 10000 }, by decide +kernel⟩,
    ⟨tTake [2, 5, 0, 0, 3, 7, 0, 0, 0, 0, 0, 0, 0, 0, 0, 0], 0, 9000, [2, 5, 0, 0, 3, 7, 0, 0, 0, 0, 0, 0, 0, 0, 0, 0], [], { sq := 0, head := 1, words := [2, 5, 0, 0, 3, 7, 0, 0, 0, 0, 0, 0, 0, 0, 0, 0], taken := 10000, ready := 10096, start := 10000 }, 0, by decide +kernel⟩,
    ⟨tTake [3, 5, 0, 0, 0x1000, 0, 0, 0, 7, 0, 0xFFFFFFFF, 0, 0, 0, 0, 0], 0, 9000, [3, 5, 0, 0, 4096, 0, 0, 0, 7, 0, 4294967295, 0, 0, 0, 0, 0], [], { sq := 0, head := 1, words := [3, 5, 0, 0, 4096, 0, 0, 0, 7, 0, 4294967295, 0, 0, 0, 0, 0], taken := 10000, ready := 10096, start := 10000 }, 0, by decide +kernel⟩,
    ⟨tTake [4, 5, 0, 0, 0x1000, 0, 0, 0, 7, 0, 0, 0, 0, 0, 0, 0], 0, 9000, [4, 5, 0, 0, 4096, 0, 0, 0, 7, 0, 0, 0, 0, 0, 0, 0], [], { sq := 0, head := 1, words := [4, 5, 0, 0, 4096, 0, 0, 0, 7, 0, 0, 0, 0, 0, 0, 0], taken := 10000, ready := 10096, start := 10000 }, 4, by decide +kernel⟩,
    ⟨tTake [1, 5, 0x10000, 0, 3, 2, 0, 0, 0, 0, 0, 0, 0, 0, 0, 0], 0, 9000, [1, 5, 65536, 0, 3, 2, 0, 0, 0, 0, 0, 0, 0, 0, 0, 0], [], { sq := 0, head := 1, words := [1, 5, 65536, 0, 3, 2, 0, 0, 0, 0, 0, 0, 0, 0, 0, 0], taken := 10000, ready := 10096, start := 10000 }, by decide +kernel⟩,
    ⟨tTake [0x51, 5, 0, 0, 1, 0, 0, 0, 0, 0, 0, 0, 0, 0, 0, 0], 0, 9000, [81, 5, 0, 0, 1, 0, 0, 0, 0, 0, 0, 0, 0, 0, 0, 0], [], { sq := 0, head := 1, words := [81, 5, 0, 0, 1, 0, 0, 0, 0, 0, 0, 0, 0, 0, 0, 0], taken := 10000, ready := 10096, start := 10000 }, by decide +kernel⟩,
    ⟨tUsh (tRing fun r => { r with tail := 1, buf := [(9000, [0x11, 7, 0, 0, 0, 0, 0x1800000, 0, 2, 4, 1, 0, 4, 0x01020304, 0, 0])] }), 0, 9000, [17, 7, 0, 0, 0, 0, 25165824, 0, 2, 4, 1, 0, 4, 16909060, 0, 0], [], { sq := 0, head := 1, words := [17, 7, 0, 0, 0, 0, 25165824, 0, 2, 4, 1, 0, 4, 16909060, 0, 0], taken := 10000, ready := 10096, start := 10000 }, RunBy.porter, by decide +kernel⟩,
    ⟨tUsh (tRing fun r => { r with tail := 1, buf := [(9000, [0x99, 5, 0, 0, 0, 0, 0, 0, 0, 0, 0, 0, 0, 0, 0, 0])] }), 0, 9000, ([153, 5] ++ List.replicate 14 0), [], { sq := 0, head := 1, words := ([153, 5] ++ List.replicate 14 0), taken := 10000, ready := 10096, start := 10000 }, 32769, by decide +kernel⟩,
    ⟨{ tTake [1, 5, 0, 0, 3, 2, 0, 0, 0, 0, 0, 0, 0, 0, 0, 0] with usher := { (tTake [1, 5, 0, 0, 3, 2, 0, 0, 0, 0, 0, 0, 0, 0, 0, 0]).usher with nextTake := 20000 } }, 0, by decide +kernel⟩,
    ⟨(tTake [1, 5, 0, 0, 3, 2, 0, 0, 0, 0, 0, 0, 0, 0, 0, 0]).put (F.USH_CQ_RESV_RESERVED 0) 16, by decide +kernel⟩,
    ⟨((tZero.modBoot fun b => { b with powered := true }).modNewel fun x => { x with counting := .ticks }).put F.PCI_LINK_STATE 2 |>.put F.PWR_BOOT_STATUS_STAGE 7 |>.setConfig 4 0x6#32, by decide +kernel⟩,
    ⟨((tZero.modBoot fun b => { b with powered := true }).modNewel fun x => { x with counting := .ticks }).put F.PCI_LINK_STATE 2 |>.put F.PWR_BOOT_STATUS_STAGE 7 |>.setConfig 4 0x6#32, by decide +kernel⟩,
    ⟨{ tZero with agenda := [(0, .lockSequence)] }, by decide +kernel⟩⟩

/-- Hypotheses of `Obligations.WaitsAndEvents`. -/
theorem witness_WaitsAndEvents :
    (∃ (s : State) (i : Nat) (v : Wait) (c : Instr),
      i < 16 ∧ (s.ring i).wait = some v ∧ v.live = true ∧ v.task.sq = i ∧ s.usherRuns = true ∧
      (c = .waitSatisfied i ∨ (c = .waitTimeout i ∧ v.deadline.any (fun d => decide (d ≤ s.time)) = true)) ∧
      v.task.op = 2 ∧ (s.g (F.USH_EVENT_COUNT (v.task.w 4 % 256)) + 2 ^ 32 - v.task.w 5) % 2 ^ 32 < 2 ^ 31) ∧
    (∃ (s : State) (i : Nat) (v : Wait) (c : Instr),
      i < 16 ∧ (s.ring i).wait = some v ∧ v.live = true ∧ v.task.sq = i ∧ s.usherRuns = true ∧
      (c = .waitSatisfied i ∨ (c = .waitTimeout i ∧ v.deadline.any (fun d => decide (d ≤ s.time)) = true)) ∧
      v.task.op = 2 ∧ 2 ^ 31 ≤ (s.g (F.USH_EVENT_COUNT (v.task.w 4 % 256)) + 2 ^ 32 - v.task.w 5) % 2 ^ 32 ∧
      v.deadline.any (fun d => decide (d ≤ s.time)) = true) ∧
    (∃ (s : State) (i : Nat) (v : Wait),
      i < 16 ∧ (s.ring i).wait = some v ∧ v.live = true ∧ v.task.sq = i ∧ s.usherRuns = true ∧ v.task.op = 2 ∧
      2 ^ 31 ≤ (s.g (F.USH_EVENT_COUNT (v.task.w 4 % 256)) + 2 ^ 32 - v.task.w 5) % 2 ^ 32 ∧
      v.deadline.any (fun d => decide (d ≤ s.time)) = false) ∧
    (∃ (s : State) (i : Nat) (v : Wait) (c : Instr) (x : Nat),
      i < 16 ∧ (s.ring i).wait = some v ∧ v.live = true ∧ v.task.sq = i ∧ s.usherRuns = true ∧
      (c = .waitSatisfied i ∨ (c = .waitTimeout i ∧ v.deadline.any (fun d => decide (d ≤ s.time)) = true)) ∧
      v.task.op = 3 ∧ bitN (v.task.w 6) 0 = true ∧ s.storeBad = [] ∧ x = leNat (s.store.read (v.task.q 4) 8) ∧
      v.test x = true) ∧
    (∃ (s : State) (i : Nat) (v : Wait) (c : Instr) (x : Nat),
      i < 16 ∧ (s.ring i).wait = some v ∧ v.live = true ∧ v.task.sq = i ∧ s.usherRuns = true ∧
      (c = .waitSatisfied i ∨ (c = .waitTimeout i ∧ v.deadline.any (fun d => decide (d ≤ s.time)) = true)) ∧
      v.task.op = 3 ∧ bitN (v.task.w 6) 0 = true ∧ s.storeBad = [] ∧ x = leNat (s.store.read (v.task.q 4) 8) ∧
      v.test x = false ∧ v.deadline.any (fun d => decide (d ≤ s.time)) = true) ∧
    (∃ (s : State) (i : Nat) (v : Wait) (x : Nat),
      i < 16 ∧ (s.ring i).wait = some v ∧ v.live = true ∧ v.task.sq = i ∧ s.usherRuns = true ∧ v.task.op = 3 ∧
      bitN (v.task.w 6) 0 = true ∧ s.storeBad = [] ∧ x = leNat (s.store.read (v.task.q 4) 8) ∧ v.test x = false ∧
      v.deadline.any (fun d => decide (d ≤ s.time)) = false) ∧
    (∃ (s : State) (i : Nat),
      (16 ≤ i ∨ (s.ring i).wait.all (fun v => !v.live || !s.usherRuns || (v.task.op == 3 && !bitN (v.task.w 6) 0)) = true)) ∧
    (∃ (s : State) (i : Nat) (v : Wait) (d : Nat),
      i < 16 ∧ (s.ring i).wait = some v ∧ v.deadline = some d ∧ s.time < d) ∧
    (∃ (s : State) (i : Nat),
      (16 ≤ i ∨ (s.ring i).wait.all (fun v => v.deadline.isNone || (decide (v.deadline.getD 0 ≤ s.time) && (!v.live || !s.usherRuns || (v.task.op == 3 && !bitN (v.task.w 6) 0)))) = true)) ∧
    (∃ (s : State) (i : Nat) (v : Wait),
      i < 16 ∧ (s.ring i).wait = some v ∧ v.live = true ∧ v.task.op = 3 ∧ bitN (v.task.w 6) 0 = false ∧
      s.mayRequest = true ∧ s.usherRuns = true) ∧
    (∃ (s : State) (i : Nat) (v : Wait),
      i < 16 ∧ (s.ring i).wait = some v ∧ v.live = true ∧ v.task.op = 3 ∧ bitN (v.task.w 6) 0 = false ∧
      (s.mayRequest = false ∨ s.usherRuns = false)) ∧
    (∃ (s : State) (i : Nat),
      (16 ≤ i ∨ (s.ring i).wait.all (fun v => !v.live || v.task.op != 3 || bitN (v.task.w 6) 0) = true)) ∧
    (∃ (s : State) (i : Nat) (a : Nat) (v : Wait) (l : List Nat) (x : Nat),
      i < 16 ∧ (s.ring i).wait = some v ∧ v.task.sq = i ∧ v.task.op = 3 ∧ v.issued = a :: l ∧
      v.test (x % 2 ^ 64) = true) ∧
    (∃ (s : State) (i : Nat) (a : Nat) (v : Wait) (l : List Nat) (x : Nat),
      i < 16 ∧ (s.ring i).wait = some v ∧ v.task.sq = i ∧ v.task.op = 3 ∧ v.issued = a :: l ∧
      v.test (x % 2 ^ 64) = false ∧ v.deadline.any (fun d => decide (d ≤ a)) = true) ∧
    (∃ (s : State) (i : Nat) (a : Nat) (v : Wait) (l : List Nat) (x : Nat),
      i < 16 ∧ (s.ring i).wait = some v ∧ v.task.sq = i ∧ v.task.op = 3 ∧ v.issued = a :: l ∧
      v.test (x % 2 ^ 64) = false ∧ v.deadline.any (fun d => decide (d ≤ a)) = false) ∧
    (∃ (s : State) (i : Nat) (a : Nat) (v : Wait) (l : List Nat),
      i < 16 ∧ (s.ring i).wait = some v ∧ v.task.sq = i ∧ v.task.op = 3 ∧ v.issued = a :: l) ∧
    (∃ (s : State) (i : Nat) (x : Option Nat),
      (16 ≤ i ∨ (s.ring i).wait.all (fun v => v.issued.isEmpty) = true)) :=
  ⟨⟨(tUsh (tRing fun r => { r with outstanding := 1, wait := some ⟨⟨0, 1, [2, 5, 0, 0, 3, 7, 0, 0, 0, 0, 0, 0, 0, 0, 0, 0], 9000, 9096, 9000⟩, true, none, 0, [], false⟩ })).put (F.USH_EVENT_COUNT 3) 7, 0, { task := { sq := 0, head := 1, words := [2, 5, 0, 0, 3, 7, 0, 0, 0, 0, 0, 0, 0, 0, 0, 0], taken := 9000, ready := 9096, start := 9000 }, live := true, deadline := none, last := 0, issued := [], held := false }, .waitSatisfied 0, by decide +kernel⟩,
    ⟨tUsh (tRing fun r => { r with outstanding := 1, wait := some ⟨⟨0, 1, [2, 5, 0, 0, 0x103, 7, 0, 0, 0, 0, 0, 0, 0, 0, 0, 0], 9000, 9096, 9000⟩, true, some 9500, 0, [], false⟩ }), 0, { task := { sq := 0, head := 1, words := [2, 5, 0, 0, 259, 7, 0, 0, 0, 0, 0, 0, 0, 0, 0, 0], taken := 9000, ready := 9096, start := 9000 }, live := true, deadline := some 9500, last := 0, issued := [], held := false }, .waitSatisfied 0, by decide +kernel⟩,
    ⟨tWait [2, 5, 0, 0, 3, 7, 0, 0, 0, 0, 0, 0, 0, 0, 0, 0] none [], 0, { task := { sq := 0, head := 1, words := [2, 5, 0, 0, 3, 7, 0, 0, 0, 0, 0, 0, 0, 0, 0, 0], taken := 9000, ready := 9096, start := 9000 }, live := true, deadline := none, last := 0, issued := [], held := false }, by decide +kernel⟩,
    ⟨tWait [3, 5, 0, 0, 0x3000000, 0, 1, 0, 0, 0, 0xFFFFFFFF, 0, 0, 0, 0, 0] none [], 0, { task := { sq := 0, head := 1, words := [3, 5, 0, 0, 50331648, 0, 1, 0, 0, 0, 4294967295, 0, 0, 0, 0, 0], taken := 9000, ready := 9096, start := 9000 }, live := true, deadline := none, last := 0, issued := [], held := false }, .waitSatisfied 0, 0, by decide +kernel⟩,
    ⟨tWait [3, 5, 0, 0, 0x3000000, 0, 1, 0, 7, 0, 0xFFFFFFFF, 0, 0, 0, 0, 0] (some 9500) [], 0, { task := { sq := 0, head := 1, words := [3, 5, 0, 0, 50331648, 0, 1, 0, 7, 0, 4294967295, 0, 0, 0, 0, 0], taken := 9000, ready := 9096, start := 9000 }, live := true, deadline := some 9500, last := 0, issued := [], held := false }, .waitSatisfied 0, 0, by decide +kernel⟩,
    ⟨tWait [3, 5, 0, 0, 0x3000000, 0, 1, 0, 7, 0, 0xFFFFFFFF, 0, 0, 0, 0, 0] none [], 0, { task := { sq := 0, head := 1, words := [3, 5, 0, 0, 50331648, 0, 1, 0, 7, 0, 4294967295, 0, 0, 0, 0, 0], taken := 9000, ready := 9096, start := 9000 }, live := true, deadline := none, last := 0, issued := [], held := false }, 0, by decide +kernel⟩,
    ⟨{ tZero with agenda := [(0, .lockSequence)] }, 0, by decide +kernel⟩,
    ⟨tWait [3, 5, 0, 0, 0x1000, 0, 0, 0, 7, 0, 0xFFFFFFFF, 0, 0, 0, 0, 0] (some 20000) [], 0, { task := { sq := 0, head := 1, words := [3, 5, 0, 0, 4096, 0, 0, 0, 7, 0, 4294967295, 0, 0, 0, 0, 0], taken := 9000, ready := 9096, start := 9000 }, live := true, deadline := some 20000, last := 0, issued := [], held := false }, 20000, by decide +kernel⟩,
    ⟨{ tZero with agenda := [(0, .lockSequence)] }, 0, by decide +kernel⟩,
    ⟨tUsh (tRing fun r => { r with wait := some ⟨⟨0, 1, [3, 5, 0, 0, 0x1000, 0, 0, 0, 7, 0, 0xFFFFFFFF, 0, 0, 0, 0, 0], 9000, 9096, 9000⟩, true, none, 0, [], false⟩ }), 0, { task := { sq := 0, head := 1, words := [3, 5, 0, 0, 4096, 0, 0, 0, 7, 0, 4294967295, 0, 0, 0, 0, 0], taken := 9000, ready := 9096, start := 9000 }, live := true, deadline := none, last := 0, issued := [], held := false }, by decide +kernel⟩,
    ⟨(tWait [3, 5, 0, 0, 0x1000, 0, 0, 0, 7, 0, 0xFFFFFFFF, 0, 0, 0, 0, 0] none []).put F.PCI_LINK_STATE 0, 0, { task := { sq := 0, head := 1, words := [3, 5, 0, 0, 4096, 0, 0, 0, 7, 0, 4294967295, 0, 0, 0, 0, 0], taken := 9000, ready := 9096, start := 9000 }, live := true, deadline := none, last := 0, issued := [], held := false }, by decide +kernel⟩,
    ⟨{ tZero with agenda := [(0, .lockSequence)] }, 0, by decide +kernel⟩,
    ⟨tUsh (tRing fun r => { r with outstanding := 1, wait := some ⟨⟨0, 1, [3, 5, 0, 0, 0x1000, 0, 0, 0, 7, 0, 0xFFFFFFFF, 0, 0, 0, 0, 0], 9000, 9096, 9000⟩, true, none, 0, [9900], false⟩ }), 0, 9900, { task := { sq := 0, head := 1, words := [3, 5, 0, 0, 4096, 0, 0, 0, 7, 0, 4294967295, 0, 0, 0, 0, 0], taken := 9000, ready := 9096, start := 9000 }, live := true, deadline := none, last := 0, issued := [9900], held := false }, [], 7, by decide +kernel⟩,
    ⟨tWait [3, 5, 0, 0, 0x1000, 0, 0, 0, 7, 0, 0xFFFFFFFF, 0, 0, 0, 0, 0] (some 9500) [9900], 0, 9900, { task := { sq := 0, head := 1, words := [3, 5, 0, 0, 4096, 0, 0, 0, 7, 0, 4294967295, 0, 0, 0, 0, 0], taken := 9000, ready := 9096, start := 9000 }, live := true, deadline := some 9500, last := 0, issued := [9900], held := false }, [], 0, by decide +kernel⟩,
    ⟨tUsh (tRing fun r => { r with outstanding := 1, wait := some ⟨⟨0, 1, [3, 5, 0, 0, 0x1000, 0, 0, 0, 7, 0, 0xFFFFFFFF, 0, 0, 0, 0, 0], 9000, 9096, 9000⟩, true, none, 0, [9900], false⟩ }), 0, 9900, { task := { sq := 0, head := 1, words := [3, 5, 0, 0, 4096, 0, 0, 0, 7, 0, 4294967295, 0, 0, 0, 0, 0], taken := 9000, ready := 9096, start := 9000 }, live := true, deadline := none, last := 0, issued := [9900], held := false }, [], 0, by decide +kernel⟩,
    ⟨tUsh (tRing fun r => { r with outstanding := 1, wait := some ⟨⟨0, 1, [3, 5, 0, 0, 0x1000, 0, 0, 0, 7, 0, 0xFFFFFFFF, 0, 0, 0, 0, 0], 9000, 9096, 9000⟩, true, none, 0, [9900], false⟩ }), 0, 9900, { task := { sq := 0, head := 1, words := [3, 5, 0, 0, 4096, 0, 0, 0, 7, 0, 4294967295, 0, 0, 0, 0, 0], taken := 9000, ready := 9096, start := 9000 }, live := true, deadline := none, last := 0, issued := [9900], held := false }, [], by decide +kernel⟩,
    ⟨{ tZero with agenda := [(0, .lockSequence)] }, 0, none, by decide +kernel⟩⟩

/-- Hypotheses of `Obligations.EngineTasks`. -/
theorem witness_EngineTasks :
    (∃ (s : State) (u : Nat) (k : Task) (x : Option (List Byte)) (c : Nat),
      (s.slot u).running = some k ∧ k.sq < 16 ∧ u < 4 ∧ (s.slot u).job.phase = 1 ∧ (s.slot u).job.due ≤ s.now ∧
      k.dispatchCheck = none ∧ k.op = 0x11 ∧ k.w 8 % 4 = 2 ∧ k.rectReach = true) ∧
    (∃ (s : State) (u : Nat) (k : Task) (x : Option (List Byte)) (c : Nat),
      (s.slot u).running = some k ∧ k.sq < 16 ∧ u < 4 ∧ (s.slot u).job.phase = 1 ∧ (s.slot u).job.due ≤ s.now ∧
      k.dispatchCheck = none ∧ k.op = 0x10 ∧ k.w 8 % 4 = 3 ∧ s.storeBad = [] ∧ k.rectReach = true) ∧
    (∃ (s : State) (u : Nat) (k : Task) (x : Option (List Byte)) (c : Nat),
      (s.slot u).running = some k ∧ k.sq < 16 ∧ u < 4 ∧ (s.slot u).job.phase = 1 ∧ (s.slot u).job.due ≤ s.now ∧
      k.dispatchCheck = none ∧ k.op = 0x11 ∧ k.w 8 % 4 = 0 ∧ s.mayRequest = true) ∧
    (∃ (s : State) (u : Nat) (k : Task) (x : Option (List Byte)) (c : Nat),
      (s.slot u).running = some k ∧ k.sq < 16 ∧ u < 4 ∧ (s.slot u).job.phase = 1 ∧ (s.slot u).job.due ≤ s.now ∧
      k.dispatchCheck = none ∧ k.op = 0x10 ∧ k.w 8 % 4 = 1 ∧ s.storeBad = [] ∧ k.rectReach = true ∧ s.mayRequest = true) ∧
    (∃ (s : State) (u : Nat) (k : Task) (l : List Byte) (c : Nat),
      (s.slot u).running = some k ∧ k.sq < 16 ∧ u < 4 ∧ (s.slot u).job.phase = 1 ∧ (s.slot u).job.due ≤ s.now ∧
      k.dispatchCheck = none ∧ k.op = 0x10 ∧ k.w 8 % 4 = 2 ∧ s.mayRequest = true ∧
      l.length = k.rect.width * k.rect.rows ∧ k.rectReach = true) ∧
    (∃ (s : State) (u : Nat) (k : Task) (x : Option (List Byte)) (c : Nat),
      (s.slot u).running = some k ∧ k.sq < 16 ∧ u < 4 ∧ (k.op = 0x10 ∨ k.op = 0x11) ∧ (s.slot u).job.phase = 1 ∧
      (s.now < (s.slot u).job.due ∨ (k.readsHost || k.writesHost) = true ∧ s.mayRequest = false)) ∧
    (∃ (s : State) (u : Nat) (x : Option (List Byte)) (c : Nat),
      (12 ≤ u ∨ (s.slot u).running = none ∨ (s.slot u).job.phase = 0)) ∧
    (∃ (s : State) (u : Nat) (k : Task) (j : Job) (x : Option (List Byte)) (c : Nat),
      (s.slot u).running = some k ∧ k.sq < 16 ∧ (u = 4 ∨ u = 5) ∧ k.op = 0x20 ∧ (s.slot u).job.phase = 2 ∧
      j = (s.slot u).job ∧ j.status ≠ 0x8203 ∧ k.kind < 3 ∧ (k.w 8 % 2 = 1 ∨ s.bankInUse k.kind k.target k.bank = true)) ∧
    (∃ (s : State) (u : Nat) (a : Nat) (k : Task) (j : Job) (l : List Byte) (c : Nat),
      (s.slot u).running = some k ∧ k.sq < 16 ∧ (u = 4 ∨ u = 5) ∧ k.op = 0x20 ∧ (s.slot u).job.phase = 2 ∧
      j = (s.slot u).job ∧ j.status ≠ 0x8203 ∧ k.kind < 3 ∧ k.w 8 % 2 = 0 ∧
      s.bankInUse k.kind k.target k.bank = false ∧ loadBase k.kind k.target k.bank = some a) ∧
    (∃ (s : State) (k : Task) (x : Option (List Byte)) (c : Nat),
      (s.slot 6).running = some k ∧ k.sq < 16 ∧ (s.slot 6).job.phase = 2 ∧ (s.slot 6).job.due ≤ s.now ∧
      s.storeBad = [] ∧ (k.op = 0x30 ∨ k.op = 0x31)) ∧
    (∃ (s : State) (k : Task) (x : Option (List Byte)) (c : Nat),
      (s.slot 7).running = some k ∧ k.sq < 16 ∧ k.op = 0x41 ∧ (s.slot 7).job.phase = 3 ∧ (s.slot 7).job.due ≤ s.now ∧
      (s.slot 7).job.aborted = false ∧ (∀ b ∈ s.archiveBad, b < k.w 4 ∨ k.w 4 + k.w 5 ≤ b)) ∧
    (∃ (s : State) (k : Task) (b : Nat) (x : Option (List Byte)) (c : Nat),
      (s.slot 7).running = some k ∧ k.sq < 16 ∧ k.op = 0x41 ∧ (s.slot 7).job.phase = 3 ∧ (s.slot 7).job.due ≤ s.now ∧
      (s.slot 7).job.aborted = false ∧ b < k.w 5 ∧ s.archiveBad.contains (k.w 4 + b) = true ∧
      (∀ i ∈ List.range b, s.archiveBad.contains (k.w 4 + i) = false)) ∧
    (∃ (s : State) (u : Nat) (k : Task) (x : Option (List Byte)) (c : Nat),
      8 ≤ u ∧ u < 12 ∧ (s.slot u).running = some k ∧ (s.slot u).job.phase = 1 ∧ k.sq < 16 ∧
      (s.slot u).job.aborted = true ∧ (s.slot u).job.due ≤ s.now) ∧
    (∃ (s : State) (u : Nat) (k : Task) (x : Option (List Byte)) (c : Nat),
      8 ≤ u ∧ u < 12 ∧ (s.slot u).running = some k ∧ (s.slot u).job.phase = 1 ∧ k.sq < 16 ∧
      (s.slot u).job.aborted = false ∧ (s.pipe (u - 8)).capture = some 0 ∧
      (s.pipe (u - 8)).frames.all (fun r => r.flight || (r.complete && r.readOut s.time && s.partsClosed (u - 8) r)) = true) ∧
    (∃ (s : State) (u : Nat) (k : Task) (x : Option (List Byte)) (c : Nat),
      8 ≤ u ∧ u < 12 ∧ (s.slot u).running = some k ∧ (s.slot u).job.phase = 1 ∧ k.sq < 16 ∧
      (if (s.slot u).job.aborted then s.now < (s.slot u).job.due else (s.pipe (u - 8)).capture ≠ some 0)) ∧
    (∃ (s : State) (k : Task) (j : Job) (n : Nat) (c : Nat),
      (s.slot 7).running = some k ∧ k.sq < 16 ∧ k.op = 0x40 ∧ (s.slot 7).job.phase = 2 ∧ j = (s.slot 7).job ∧
      n = j.count + j.skipped ∧ n + 1 = k.w 5) ∧
    (∃ (s : State) (k : Task) (j : Job) (n : Nat) (c : Nat),
      (s.slot 7).running = some k ∧ k.sq < 16 ∧ k.op = 0x40 ∧ (s.slot 7).job.phase = 2 ∧ j = (s.slot 7).job ∧
      n = j.count + j.skipped ∧ n + 1 < k.w 5 ∧ j.aborted = true) ∧
    (∃ (s : State) (k : Task) (j : Job) (n : Nat) (c : Nat),
      (s.slot 7).running = some k ∧ k.sq < 16 ∧ k.op = 0x40 ∧ (s.slot 7).job.phase = 2 ∧ j = (s.slot 7).job ∧
      n = j.count + j.skipped ∧ n + 1 < k.w 5 ∧ j.aborted = false ∧ s.on F.ARC_STATUS_BUSY = true) ∧
    (∃ (s : State) (k : Task) (j : Job) (n : Nat) (c : Nat),
      (s.slot 7).running = some k ∧ k.sq < 16 ∧ k.op = 0x40 ∧ (s.slot 7).job.phase = 2 ∧ j = (s.slot 7).job ∧
      n = j.count + j.skipped ∧ j.tries < 4 ∧ s.wearOf (k.w 4 + n) + 1 < 1000000) ∧
    (∃ (s : State) (k : Task) (j : Job) (n : Nat) (c : Nat),
      (s.slot 7).running = some k ∧ k.sq < 16 ∧ k.op = 0x40 ∧ (s.slot 7).job.phase = 2 ∧ j = (s.slot 7).job ∧
      n = j.count + j.skipped ∧ 4 ≤ j.tries) ∧
    (∃ (s : State) (g : Bool) (c : Nat),
      (s.slot 7).running.all (fun k => k.op != 0x40 || (s.slot 7).job.phase != 2) = true) ∧
    (∃ (s : State) (u : Nat) (m : Nat) (k : Task),
      u < 12 ∧ (s.slot u).running = some k ∧ k.sq < 16 ∧ bitN m u = true ∧
      (∀ v ∈ List.range 12, bitN m v = true → v ≠ u → (s.slot v).running = none) ∧ (s.slot u).job.aborted = false ∧
      (s.slot u).job.phase = 0) ∧
    (∃ (s : State) (u : Nat) (m : Nat) (k : Task) (n : Nat) (b : Nat),
      u < 12 ∧ (s.slot u).running = some k ∧ k.sq < 16 ∧ bitN m u = true ∧
      (∀ v ∈ List.range 12, bitN m v = true → v ≠ u → (s.slot v).running = none) ∧ (s.slot u).job.aborted = false ∧
      u < 4 ∧ (k.op = 0x10 ∨ k.op = 0x11) ∧ (s.slot u).job.phase ≠ 0 ∧ (n, b) = s.rectProgress u k ∧
      (k.w 8 % 4 = 3 ∨ k.op = 0x11 ∧ k.w 8 % 4 = 2)) ∧
    (∃ (s : State) (u : Nat) (m : Nat) (k : Task),
      u < 12 ∧ (s.slot u).running = some k ∧ k.sq < 16 ∧ bitN m u = true ∧
      (∀ v ∈ List.range 12, bitN m v = true → v ≠ u → (s.slot v).running = none) ∧ (s.slot u).job.aborted = false ∧
      (u = 4 ∨ u = 5) ∧ (s.slot u).job.phase = 1 ∧ (s.now < (s.slot u).job.due ∨ (s.slot u).job.phase = 2)) ∧
    (∃ (s : State) (u : Nat) (m : Nat) (k : Task),
      u < 12 ∧ (s.slot u).running = some k ∧ k.sq < 16 ∧ bitN m u = true ∧
      (∀ v ∈ List.range 12, bitN m v = true → v ≠ u → (s.slot v).running = none) ∧ (s.slot u).job.aborted = false ∧
      u = 6 ∧ (s.slot u).job.phase ≠ 0) ∧
    (∃ (s : State) (u : Nat) (m : Nat) (k : Task),
      u < 12 ∧ (s.slot u).running = some k ∧ k.sq < 16 ∧ bitN m u = true ∧
      (∀ v ∈ List.range 12, bitN m v = true → v ≠ u → (s.slot v).running = none) ∧ (s.slot u).job.aborted = false ∧
      u = 7 ∧ k.op = 0x40 ∧ (s.slot u).job.phase = 2) ∧
    (∃ (s : State) (u : Nat) (m : Nat) (k : Task),
      u < 12 ∧ (s.slot u).running = some k ∧ k.sq < 16 ∧ bitN m u = true ∧
      (∀ v ∈ List.range 12, bitN m v = true → v ≠ u → (s.slot v).running = none) ∧ (s.slot u).job.aborted = false ∧
      8 ≤ u ∧ (s.slot u).job.phase = 1) ∧
    (∃ (s : State) (m : Nat),
      (∀ v ∈ List.range 12, bitN m v = true → (s.slot v).running = none ∨ (s.slot v).job.aborted = true)) ∧
    (∃ (s : State) (u : Nat) (n : Nat) (b : Nat) (k : Task),
      (s.slot u).running = some k ∧ k.sq < 16 ∧ u < 4 ∧ k.op = 0x10 ∧ k.w 8 % 2 = 0 ∧ (s.slot u).job.phase = 1 ∧
      (n, b) = s.rectProgress u k) ∧
    (∃ (s : State) (u : Nat) (k : Task),
      (s.slot u).running = some k ∧ (u = 4 ∨ u = 5) ∧ k.op = 0x20 ∧ k.w 8 % 2 = 0 ∧ (s.slot u).job.phase = 1) ∧
    (∃ (s : State) (u : Nat),
      (6 ≤ u ∨ (s.slot u).running.all (fun k => !k.readsHost || (s.slot u).job.phase != 1) = true)) :=
  ⟨⟨tUsh (tEng 0 fun x => { x with running := some tFill, job := { Job.idle with phase := 1 } }), 0, tFill, none, 0, by decide +kernel⟩,
    ⟨{ (tUsh (tEng 0 fun x => { x with running := some { tFill with words := [0x10, 7, 0, 0, 0x1800000, 0, 0x1800010, 0, 3, 4, 2, 16, 16, 0, 0, 0] }, job := { Job.idle with phase := 1 } })) with store := tZero.store.write 0x1800000 [1, 2, 3, 4, 5, 6, 7, 8, 9, 10, 11, 12, 13, 14, 15, 16, 17, 18, 19, 20] }, 0, { sq := 0, head := 1, words := [16, 7, 0, 0, 25165824, 0, 25165840, 0, 3, 4, 2, 16, 16, 0, 0, 0], taken := 9000, ready := 9096, start := 9200 }, none, 0, by decide +kernel⟩,
    ⟨tRun 0 [0x11, 7, 0, 0, 0, 0, 0x1000, 0, 0, 4, 1, 0, 4, 1, 0, 0] { Job.idle with phase := 1 }, 0, { sq := 0, head := 1, words := [17, 7, 0, 0, 0, 0, 4096, 0, 0, 4, 1, 0, 4, 1, 0, 0], taken := 9000, ready := 9096, start := 9200 }, none, 0, by decide +kernel⟩,
    ⟨tRun 0 [0x10, 7, 0, 0, 0x1800000, 0, 0x1000, 0, 1, 4, 2, 16, 16, 0, 0, 0] { Job.idle with phase := 1 }, 0, { sq := 0, head := 1, words := [16, 7, 0, 0, 25165824, 0, 4096, 0, 1, 4, 2, 16, 16, 0, 0, 0], taken := 9000, ready := 9096, start := 9200 }, none, 0, by decide +kernel⟩,
    ⟨tRun 0 [0x10, 7, 0, 0, 0x1000, 0, 0x1800010, 0, 2, 4, 1, 16, 16, 0, 0, 0] { Job.idle with phase := 1 }, 0, { sq := 0, head := 1, words := [16, 7, 0, 0, 4096, 0, 25165840, 0, 2, 4, 1, 16, 16, 0, 0, 0], taken := 9000, ready := 9096, start := 9200 }, [0x01#8, 0x02#8, 0x03#8, 0x04#8], 0, by decide +kernel⟩,
    ⟨tRun 0 [0x11, 7, 0, 0, 0, 0, 0x1000, 0, 0, 4, 1, 0, 4, 1, 0, 0] { Job.idle with phase := 1, due := 5 }, 0, { sq := 0, head := 1, words := [17, 7, 0, 0, 0, 0, 4096, 0, 0, 4, 1, 0, 4, 1, 0, 0], taken := 9000, ready := 9096, start := 9200 }, none, 0, by decide +kernel⟩,
    ⟨{ tZero with agenda := [(0, .lockSequence)] }, 0, none, 0, by decide +kernel⟩,
    ⟨tRun 4 [0x20, 7, 0, 0, 0, 0, 0x1800000, 0, 1, 66304, 0, 0, 0, 0, 0, 0] { Job.idle with phase := 2 }, 4, { sq := 0, head := 1, words := [32, 7, 0, 0, 0, 0, 25165824, 0, 1, 66304, 0, 0, 0, 0, 0, 0], taken := 9000, ready := 9096, start := 9200 }, { phase := 2, aborted := false, began := 0, due := 0, count := 0, bytes := 0, flags := 0, errs := 0, skipped := 0, retries := 0, wear := 0, tries := 0, base := 0, setgen := 0, record := [], tempLo := 0, tempHi := 0, status := 0, parts := [] }, none, 0, by decide +kernel⟩,
    ⟨tRun 4 [0x20, 7, 0, 0, 0, 0, 0x1000, 0, 0, 66304, 0, 0, 0, 0, 0, 0] { Job.idle with phase := 2 }, 4, 51380224, { sq := 0, head := 1, words := [32, 7, 0, 0, 0, 0, 4096, 0, 0, 66304, 0, 0, 0, 0, 0, 0], taken := 9000, ready := 9096, start := 9200 }, { phase := 2, aborted := false, began := 0, due := 0, count := 0, bytes := 0, flags := 0, errs := 0, skipped := 0, retries := 0, wear := 0, tries := 0, base := 0, setgen := 0, record := [], tempLo := 0, tempHi := 0, status := 0, parts := [] }, [], 0, by decide +kernel⟩,
    ⟨tRun 6 [0x30, 7, 0, 0, 2, 1, 0, 0, 0, 0, 0, 0, 0, 0, 0, 0] { Job.idle with phase := 2 }, { sq := 0, head := 1, words := [48, 7, 0, 0, 2, 1, 0, 0, 0, 0, 0, 0, 0, 0, 0, 0], taken := 9000, ready := 9096, start := 9200 }, none, 0, by decide +kernel⟩,
    ⟨tRun 7 [0x41, 7, 0, 0, 6000, 2, 0x1800000, 0, 0, 0, 0, 0, 0, 0, 0, 0] { Job.idle with phase := 3 }, { sq := 0, head := 1, words := [65, 7, 0, 0, 6000, 2, 25165824, 0, 0, 0, 0, 0, 0, 0, 0, 0], taken := 9000, ready := 9096, start := 9200 }, none, 0, by decide +kernel⟩,
    ⟨{ tRun 7 [0x41, 7, 0, 0, 6000, 2, 0x1800000, 0, 0, 0, 0, 0, 0, 0, 0, 0] { Job.idle with phase := 3 } with archiveBad := [6001] }, { sq := 0, head := 1, words := [65, 7, 0, 0, 6000, 2, 25165824, 0, 0, 0, 0, 0, 0, 0, 0, 0], taken := 9000, ready := 9096, start := 9200 }, 1, none, 0, by decide +kernel⟩,
    ⟨tRun 8 [0x50, 7, 0, 0, 1, 0, 0, 0, 0, 0, 0, 0, 0, 0, 0, 0] { Job.idle with phase := 1, aborted := true }, 8, { sq := 0, head := 1, words := [80, 7, 0, 0, 1, 0, 0, 0, 0, 0, 0, 0, 0, 0, 0, 0], taken := 9000, ready := 9096, start := 9200 }, none, 0, by decide +kernel⟩,
    ⟨{ tRun 8 [0x50, 7, 0, 0, 1, 0, 0, 0, 0, 0, 0, 0, 0, 0, 0, 0] { Job.idle with phase := 1 } with pipes := modNth tZero.pipes 0 fun p => { p with capture := some 0 } }, 8, { sq := 0, head := 1, words := [80, 7, 0, 0, 1, 0, 0, 0, 0, 0, 0, 0, 0, 0, 0, 0], taken := 9000, ready := 9096, start := 9200 }, none, 0, by decide +kernel⟩,
    ⟨{ tRun 8 [0x50, 7, 0, 0, 1, 0, 0, 0, 0, 0, 0, 0, 0, 0, 0, 0] { Job.idle with phase := 1 } with pipes := modNth tZero.pipes 0 fun p => { p with capture := some 1 } }, 8, { sq := 0, head := 1, words := [80, 7, 0, 0, 1, 0, 0, 0, 0, 0, 0, 0, 0, 0, 0, 0], taken := 9000, ready := 9096, start := 9200 }, none, 0, by decide +kernel⟩,
    ⟨{ (tUsh (tEng 7 fun x => { x with running := some ⟨0, 1, [0x40, 7, 0, 0, 6000, 1, 0x1800000, 0, 0, 0, 0, 0, 0, 0, 0, 0], 9000, 9096, 9200⟩, job := { Job.idle with phase := 2, tries := 1 } })) with store := tZero.store.write 0x1800000 [1, 2, 3] }, { sq := 0, head := 1, words := [64, 7, 0, 0, 6000, 1, 25165824, 0, 0, 0, 0, 0, 0, 0, 0, 0], taken := 9000, ready := 9096, start := 9200 }, { phase := 2, aborted := false, began := 0, due := 0, count := 0, bytes := 0, flags := 0, errs := 0, skipped := 0, retries := 0, wear := 0, tries := 1, base := 0, setgen := 0, record := [], tempLo := 0, tempHi := 0, status := 0, parts := [] }, 0, 0, by decide +kernel⟩,
    ⟨tRun 7 [0x40, 7, 0, 0, 6000, 2, 0x1800000, 0, 0, 0, 0, 0, 0, 0, 0, 0] { Job.idle with phase := 2, aborted := true, tries := 1 }, { sq := 0, head := 1, words := [64, 7, 0, 0, 6000, 2, 25165824, 0, 0, 0, 0, 0, 0, 0, 0, 0], taken := 9000, ready := 9096, start := 9200 }, { phase := 2, aborted := true, began := 0, due := 0, count := 0, bytes := 0, flags := 0, errs := 0, skipped := 0, retries := 0, wear := 0, tries := 1, base := 0, setgen := 0, record := [], tempLo := 0, tempHi := 0, status := 0, parts := [] }, 0, 0, by decide +kernel⟩,
    ⟨(tRun 7 [0x40, 7, 0, 0, 6000, 2, 0x1800000, 0, 0, 0, 0, 0, 0, 0, 0, 0] { Job.idle with phase := 2, tries := 1 }).put F.ARC_STATUS_BUSY 1, { sq := 0, head := 1, words := [64, 7, 0, 0, 6000, 2, 25165824, 0, 0, 0, 0, 0, 0, 0, 0, 0], taken := 9000, ready := 9096, start := 9200 }, { phase := 2, aborted := false, began := 0, due := 0, count := 0, bytes := 0, flags := 0, errs := 0, skipped := 0, retries := 0, wear := 0, tries := 1, base := 0, setgen := 0, record := [], tempLo := 0, tempHi := 0, status := 0, parts := [] }, 0, 0, by decide +kernel⟩,
    ⟨{ (tUsh (tEng 7 fun x => { x with running := some ⟨0, 1, [0x40, 7, 0, 0, 6000, 1, 0x1800000, 0, 0, 0, 0, 0, 0, 0, 0, 0], 9000, 9096, 9200⟩, job := { Job.idle with phase := 2, tries := 1 } })) with store := tZero.store.write 0x1800000 [1, 2, 3] }, { sq := 0, head := 1, words := [64, 7, 0, 0, 6000, 1, 25165824, 0, 0, 0, 0, 0, 0, 0, 0, 0], taken := 9000, ready := 9096, start := 9200 }, { phase := 2, aborted := false, began := 0, due := 0, count := 0, bytes := 0, flags := 0, errs := 0, skipped := 0, retries := 0, wear := 0, tries := 1, base := 0, setgen := 0, record := [], tempLo := 0, tempHi := 0, status := 0, parts := [] }, 0, 0, by decide +kernel⟩,
    ⟨tRun 7 [0x40, 7, 0, 0, 6000, 2, 0x1800000, 0, 0, 0, 0, 0, 0, 0, 0, 0] { Job.idle with phase := 2, tries := 4 }, { sq := 0, head := 1, words := [64, 7, 0, 0, 6000, 2, 25165824, 0, 0, 0, 0, 0, 0, 0, 0, 0], taken := 9000, ready := 9096, start := 9200 }, { phase := 2, aborted := false, began := 0, due := 0, count := 0, bytes := 0, flags := 0, errs := 0, skipped := 0, retries := 0, wear := 0, tries := 4, base := 0, setgen := 0, record := [], tempLo := 0, tempHi := 0, status := 0, parts := [] }, 0, 0, by decide +kernel⟩,
    ⟨{ tZero with agenda := [(0, .lockSequence)] }, false, 0, by decide +kernel⟩,
    ⟨tUsh (tEng 2 fun x => { x with running := some tFill, job := { Job.idle with phase := 0 } }), 2, 4, tFill, by decide +kernel⟩,
    ⟨tUsh (tEng 0 fun x => { x with running := some tFill, job := { Job.idle with phase := 1 } }), 0, 1, tFill, 1, 0, by decide +kernel⟩,
    ⟨tRun 4 [0x20, 7, 0, 0, 0, 0, 0x1800000, 0, 1, 66304, 0, 0, 0, 0, 0, 0] { Job.idle with phase := 1, due := 5 }, 4, 16, { sq := 0, head := 1, words := [32, 7, 0, 0, 0, 0, 25165824, 0, 1, 66304, 0, 0, 0, 0, 0, 0], taken := 9000, ready := 9096, start := 9200 }, by decide +kernel⟩,
    ⟨tRun 6 [0x30, 7, 0, 0, 2, 1, 0, 0, 0, 0, 0, 0, 0, 0, 0, 0] { Job.idle with phase := 2 }, 6, 64, { sq := 0, head := 1, words := [48, 7, 0, 0, 2, 1, 0, 0, 0, 0, 0, 0, 0, 0, 0, 0], taken := 9000, ready := 9096, start := 9200 }, by decide +kernel⟩,
    ⟨{ (tUsh (tEng 7 fun x => { x with running := some ⟨0, 1, [0x40, 7, 0, 0, 6000, 1, 0x1800000, 0, 0, 0, 0, 0, 0, 0, 0, 0], 9000, 9096, 9200⟩, job := { Job.idle with phase := 2, tries := 1 } })) with store := tZero.store.write 0x1800000 [1, 2, 3] }, 7, 200, { sq := 0, head := 1, words := [64, 7, 0, 0, 6000, 1, 25165824, 0, 0, 0, 0, 0, 0, 0, 0, 0], taken := 9000, ready := 9096, start := 9200 }, by decide +kernel⟩,
    ⟨{ tRun 8 [0x50, 7, 0, 0, 1, 0, 0, 0, 0, 0, 0, 0, 0, 0, 0, 0] { Job.idle with phase := 1 } with pipes := modNth tZero.pipes 0 fun p => { p with capture := some 0 } }, 8, 256, { sq := 0, head := 1, words := [80, 7, 0, 0, 1, 0, 0, 0, 0, 0, 0, 0, 0, 0, 0, 0], taken := 9000, ready := 9096, start := 9200 }, by decide +kernel⟩,
    ⟨{ tZero with agenda := [(0, .lockSequence)] }, 0, by decide +kernel⟩,
    ⟨tUsh (tEng 0 fun x => { x with running := some { tFill with words := [0x10, 7, 0, 0, 0x1800000, 0, 0x1800010, 0, 2, 4, 2, 16, 16, 0, 0, 0] }, job := { Job.idle with phase := 1, began := 12000 } }), 0, 0, 0, { sq := 0, head := 1, words := [16, 7, 0, 0, 25165824, 0, 25165840, 0, 2, 4, 2, 16, 16, 0, 0, 0], taken := 9000, ready := 9096, start := 9200 }, by decide +kernel⟩,
    ⟨tRun 4 [0x20, 7, 0, 0, 0, 0, 0x1000, 0, 0, 66304, 0, 0, 0, 0, 0, 0] { Job.idle with phase := 1 }, 4, { sq := 0, head := 1, words := [32, 7, 0, 0, 0, 0, 4096, 0, 0, 66304, 0, 0, 0, 0, 0, 0], taken := 9000, ready := 9096, start := 9200 }, by decide +kernel⟩,
    ⟨{ tZero with agenda := [(0, .lockSequence)] }, 0, by decide +kernel⟩⟩

/-- Hypotheses of `Obligations.CompletionsAndNotices`. -/
theorem witness_CompletionsAndNotices :
    (∃ (s : State) (d : Done) (a : Nat),
      s.mayRequest = true ∧ s.usherRuns = true ∧ s.usher.done = [d] ∧ d.due ≤ s.time ∧ d.cq < 8 ∧ d.res = none ∧
      d.event = none ∧ d.quiet = false ∧ s.on (F.USH_CQ_CTRL_EN d.cq) = true ∧
      a = s.ringBase (F.USH_CQ_BASE_LO_ADDR d.cq) (F.USH_CQ_BASE_HI_ADDR d.cq) + 64 * (s.g (F.USH_CQ_STATUS_TAIL d.cq) % s.cqSize d.cq)) ∧
    (∃ (s : State) (d : Done) (a : Nat) (v : Nat),
      s.mayRequest = true ∧ s.usherRuns = true ∧ s.usher.done = [d] ∧ d.due ≤ s.time ∧ d.cq < 8 ∧ d.res = none ∧
      d.event = none ∧ d.quiet = false ∧ s.on (F.USH_CQ_CTRL_EN d.cq) = true ∧
      a = s.ringBase (F.USH_CQ_BASE_LO_ADDR d.cq) (F.USH_CQ_BASE_HI_ADDR d.cq) + 64 * (s.g (F.USH_CQ_STATUS_TAIL d.cq) % s.cqSize d.cq) ∧
      v = s.g (F.USH_CQ_CTRL_VECTOR d.cq) ∧ s.g (F.USH_CQ_IRQ_COUNT d.cq) ≤ (nth s.usher.signals d.cq (0, 0)).1 + 1) ∧
    (∃ (s : State) (d : Done),
      s.mayRequest = true ∧ s.usherRuns = true ∧ s.usher.done = [d] ∧ d.due ≤ s.time ∧ d.cq < 8 ∧ d.res = none ∧
      d.event = none ∧ d.quiet = false ∧ s.on (F.USH_CQ_CTRL_EN d.cq) = true ∧
      (nth s.usher.signals d.cq (0, 0)).1 + 1 < s.g (F.USH_CQ_IRQ_COUNT d.cq)) ∧
    (∃ (s : State) (d : Done) (i : Nat),
      s.mayRequest = true ∧ s.usherRuns = true ∧ s.usher.done = [d] ∧ d.due ≤ s.time ∧ d.cq < 8 ∧ d.res = some i ∧
      d.event = none ∧ i < 4096 ∧ d.words.length = 16 ∧ d.quiet = false ∧ s.on (F.USH_CQ_CTRL_EN d.cq) = true) ∧
    (∃ (s : State) (d : Done) (e : Nat),
      s.usherRuns = true ∧ s.usher.done = [d] ∧ d.due ≤ s.time ∧ d.cq < 8 ∧ d.res = none ∧ d.event = some e ∧
      d.quiet = true) ∧
    (∃ (s : State),
      s.usher.done.all (fun d => decide (s.time < d.due) || !s.usherRuns || !d.quiet && (!s.on (F.USH_CQ_CTRL_EN d.cq) || !s.mayRequest)) = true) ∧
    (∃ (s : State) (k : Task),
      s.usher.arm = some k ∧ k.sq < 16 ∧ s.pipes.all (fun x => !x.bound || x.landed) = true) ∧
    (∃ (s : State),
      (s.usher.arm = none ∨ s.pipes.any (fun x => x.bound && !x.landed) = true)) ∧
    (∃ (s : State),
      s.on F.USH_FLIGHT_DISARMING = true ∧ (∀ k ∈ s.usher.disarms, k.sq < 16) ∧ s.pipes.all (fun x => !x.bound) = true) ∧
    (∃ (s : State),
      s.on F.USH_FLIGHT_DISARMING = true ∧ (∀ k ∈ s.usher.disarms, k.sq < 16) ∧
      s.pipes.all (fun x => !x.bound || x.frames.all fun r => !r.flight) = true) ∧
    (∃ (s : State),
      (s.on F.USH_FLIGHT_DISARMING = false ∨ s.pipes.any (fun x => x.bound && x.frames.any fun r => r.flight) = true)) ∧
    (∃ (s : State) (n : Nat),
      n < 2 ∧ s.boot.reportDue = false ∧ s.boot.urgentDue = false ∧
      (∀ m ∈ List.range 2, (nth s.notices m NoticeRing.idle).held = [] ∧ (nth s.notices m NoticeRing.idle).lost = 0)) ∧
    (∃ (s : State) (n : Nat),
      n < 2) ∧
    (∃ (s : State) (n : Nat),
      2 ≤ n) ∧
    (∃ (s : State) (n : Nat) (a : Nat) (x : Notice),
      s.mayRequest = true ∧ s.usherRuns = true ∧ n < 2 ∧ s.on (F.USH_NQ_CTRL_EN n) = true ∧ s.nqRoom n = true ∧
      (nth s.notices n NoticeRing.idle).held = [x] ∧ (nth s.notices n NoticeRing.idle).lost = 0 ∧
      a = s.ringBase (F.USH_NQ_BASE_LO_ADDR n) (F.USH_NQ_BASE_HI_ADDR n) + 64 * (s.g (F.USH_NQ_STATUS_TAIL n) % 2 ^ s.g (F.USH_NQ_CTRL_SIZE_LOG2 n))) ∧
    (∃ (s : State) (n : Nat) (a : Nat) (r : NoticeRing),
      s.mayRequest = true ∧ s.usherRuns = true ∧ n < 2 ∧ s.on (F.USH_NQ_CTRL_EN n) = true ∧ s.nqRoom n = true ∧
      r = nth s.notices n NoticeRing.idle ∧ r.held = [] ∧ r.lost ≠ 0 ∧
      a = s.ringBase (F.USH_NQ_BASE_LO_ADDR n) (F.USH_NQ_BASE_HI_ADDR n) + 64 * (s.g (F.USH_NQ_STATUS_TAIL n) % 2 ^ s.g (F.USH_NQ_CTRL_SIZE_LOG2 n))) ∧
    (∃ (s : State) (n : Nat),
      (2 ≤ n ∨ s.on (F.USH_NQ_CTRL_EN n) = false ∨ s.nqRoom n = false ∨ s.mayRequest = false ∨ s.usherRuns = false ∨ ((nth s.notices n NoticeRing.idle).held = [] ∧ (nth s.notices n NoticeRing.idle).lost = 0))) ∧
    (∃ (s : State) (c : Nat) (v : Nat),
      c < 8 ∧
      s.signalsNow (nth s.usher.signals c (0, 0)).1 (nth s.usher.signals c (0, 0)).2 (s.g (F.USH_CQ_IRQ_COUNT c)) (s.g (F.USH_CQ_IRQ_TIME_US c)) = true ∧
      (∀ d ∈ List.range 8, d ≠ c → s.signalsNow (nth s.usher.signals d (0, 0)).1 (nth s.usher.signals d (0, 0)).2 (s.g (F.USH_CQ_IRQ_COUNT d)) (s.g (F.USH_CQ_IRQ_TIME_US d)) = false) ∧
      s.signalsNow (nth s.notices 1 NoticeRing.idle).unsignalled (nth s.notices 1 NoticeRing.idle).firstUnsignalled (s.g F.USH_NQ_IRQ_COUNT) (s.g F.USH_NQ_IRQ_TIME_US) = false ∧
      v = s.g (F.USH_CQ_CTRL_VECTOR c) ∧ (s.vector v).masked = true) ∧
    (∃ (s : State) (c : Nat) (v : Nat),
      c < 8 ∧
      s.signalsNow (nth s.usher.signals c (0, 0)).1 (nth s.usher.signals c (0, 0)).2 (s.g (F.USH_CQ_IRQ_COUNT c)) (s.g (F.USH_CQ_IRQ_TIME_US c)) = true ∧
      (∀ d ∈ List.range 8, d ≠ c → s.signalsNow (nth s.usher.signals d (0, 0)).1 (nth s.usher.signals d (0, 0)).2 (s.g (F.USH_CQ_IRQ_COUNT d)) (s.g (F.USH_CQ_IRQ_TIME_US d)) = false) ∧
      s.signalsNow (nth s.notices 1 NoticeRing.idle).unsignalled (nth s.notices 1 NoticeRing.idle).firstUnsignalled (s.g F.USH_NQ_IRQ_COUNT) (s.g F.USH_NQ_IRQ_TIME_US) = false ∧
      v = s.g (F.USH_CQ_CTRL_VECTOR c) ∧ (s.vector v).masked = false ∧ s.functionMask = false ∧ (s.vector v).addr ≠ 0 ∧
      s.mayRequest = true) ∧
    (∃ (s : State) (c : Nat) (v : Nat),
      c < 8 ∧
      s.signalsNow (nth s.usher.signals c (0, 0)).1 (nth s.usher.signals c (0, 0)).2 (s.g (F.USH_CQ_IRQ_COUNT c)) (s.g (F.USH_CQ_IRQ_TIME_US c)) = true ∧
      (∀ d ∈ List.range 8, d ≠ c → s.signalsNow (nth s.usher.signals d (0, 0)).1 (nth s.usher.signals d (0, 0)).2 (s.g (F.USH_CQ_IRQ_COUNT d)) (s.g (F.USH_CQ_IRQ_TIME_US d)) = false) ∧
      s.signalsNow (nth s.notices 1 NoticeRing.idle).unsignalled (nth s.notices 1 NoticeRing.idle).firstUnsignalled (s.g F.USH_NQ_IRQ_COUNT) (s.g F.USH_NQ_IRQ_TIME_US) = false ∧
      v = s.g (F.USH_CQ_CTRL_VECTOR c) ∧ (s.vector v).masked = false ∧ s.functionMask = false ∧ (s.vector v).addr ≠ 0 ∧
      s.mayRequest = false) ∧
    (∃ (s : State) (v : Nat),
      (∀ d ∈ List.range 8, s.signalsNow (nth s.usher.signals d (0, 0)).1 (nth s.usher.signals d (0, 0)).2 (s.g (F.USH_CQ_IRQ_COUNT d)) (s.g (F.USH_CQ_IRQ_TIME_US d)) = false) ∧
      s.signalsNow (nth s.notices 1 NoticeRing.idle).unsignalled (nth s.notices 1 NoticeRing.idle).firstUnsignalled (s.g F.USH_NQ_IRQ_COUNT) (s.g F.USH_NQ_IRQ_TIME_US) = true ∧
      v = s.g (F.USH_NQ_CTRL_VECTOR 1) ∧ (s.vector v).masked = true) ∧
    (∃ (s : State),
      (∀ d ∈ List.range 8, s.signalsNow (nth s.usher.signals d (0, 0)).1 (nth s.usher.signals d (0, 0)).2 (s.g (F.USH_CQ_IRQ_COUNT d)) (s.g (F.USH_CQ_IRQ_TIME_US d)) = false) ∧
      s.signalsNow (nth s.notices 1 NoticeRing.idle).unsignalled (nth s.notices 1 NoticeRing.idle).firstUnsignalled (s.g F.USH_NQ_IRQ_COUNT) (s.g F.USH_NQ_IRQ_TIME_US) = false) :=
  ⟨⟨(tUsh fun u => { u with done := [⟨9000, 0, [0, 5, 0, 1, 9000, 0, 9000, 0, 0, 0, 0, 0, 0, 0, 0, 0], none, none, false⟩] }).put (F.USH_CQ_RESV_RESERVED 0) 1, { due := 9000, cq := 0, words := [0, 5, 0, 1, 9000, 0, 9000, 0, 0, 0, 0, 0, 0, 0, 0, 0], res := none, event := none, quiet := false }, 0, by decide +kernel⟩,
    ⟨(tUsh fun u => { u with done := [⟨9000, 0, [0, 5, 0, 1, 9000, 0, 9000, 0, 0, 0, 0, 0, 0, 0, 0, 0], none, none, false⟩] }).put (F.USH_CQ_RESV_RESERVED 0) 1, { due := 9000, cq := 0, words := [0, 5, 0, 1, 9000, 0, 9000, 0, 0, 0, 0, 0, 0, 0, 0, 0], res := none, event := none, quiet := false }, 0, 0, by decide +kernel⟩,
    ⟨(tUsh fun u => { u with done := [⟨9000, 0, List.replicate 16 0, none, none, false⟩] }).put (F.USH_CQ_IRQ_COUNT 0) 3, { due := 9000, cq := 0, words := (List.replicate 16 0), res := none, event := none, quiet := false }, by decide +kernel⟩,
    ⟨tUsh fun u => { u with done := [⟨9000, 0, List.replicate 16 0, some 5, none, false⟩] }, { due := 9000, cq := 0, words := (List.replicate 16 0), res := some 5, event := none, quiet := false }, 5, by decide +kernel⟩,
    ⟨tUsh fun u => { u with done := [⟨9000, 0, List.replicate 16 0, none, some 3, true⟩] }, { due := 9000, cq := 0, words := (List.replicate 16 0), res := none, event := some 3, quiet := true }, 3, by decide +kernel⟩,
    ⟨{ tZero with agenda := [(0, .lockSequence)] }, by decide +kernel⟩,
    ⟨tUsh fun u => { u with arm := some { tFill with words := [0x51, 7, 0, 0, 1] } }, { sq := 0, head := 1, words := [81, 7, 0, 0, 1], taken := 9000, ready := 9096, start := 9200 }, by decide +kernel⟩,
    ⟨{ tZero with agenda := [(0, .lockSequence)] }, by decide +kernel⟩,
    ⟨(tUsh fun u => { u with disarms := [{ tFill with words := [0x52, 7] }] }).put F.USH_FLIGHT_DISARMING 1, by decide +kernel⟩,
    ⟨(tUsh fun u => { u with disarms := [{ tFill with words := [0x52, 7] }] }).put F.USH_FLIGHT_DISARMING 1, by decide +kernel⟩,
    ⟨{ tZero with agenda := [(0, .lockSequence)] }, by decide +kernel⟩,
    ⟨{ tUsh id with boot := { tZero.boot with reportDue := false, urgentDue := false } }, 0, by decide +kernel⟩,
    ⟨{ tZero with agenda := [(0, .lockSequence)] }, 0, by decide +kernel⟩,
    ⟨{ tZero with agenda := [(0, .lockSequence)] }, 2, by decide +kernel⟩,
    ⟨{ ((tUsh id).put (F.USH_NQ_CTRL_EN 0) 1).put (F.USH_NQ_CTRL_SIZE_LOG2 0) 4 with notices := [{ NoticeRing.idle with held := [⟨0x8410, 0, 3, 9000, [1]⟩] }, NoticeRing.idle] }, 0, 0, { code := 33808, unit := 0, nseq := 3, stamp := 9000, payload := [1] }, by decide +kernel⟩,
    ⟨{ ((tUsh id).put (F.USH_NQ_CTRL_EN 1) 1).put (F.USH_NQ_CTRL_SIZE_LOG2 1) 4 with notices := [NoticeRing.idle, ⟨[], 5, 2, 0, 0⟩] }, 1, 0, { held := [], nseq := 5, lost := 2, unsignalled := 0, firstUnsignalled := 0 }, by decide +kernel⟩,
    ⟨{ tZero with agenda := [(0, .lockSequence)] }, 0, by decide +kernel⟩,
    ⟨(tUsh fun u => { u with signals := (2, 1000) :: List.replicate 7 (0, 0) }).put (F.USH_CQ_IRQ_TIME_US 0) 5, 0, 0, by decide +kernel⟩,
    ⟨(tUsh fun u => { u with signals := (1, 9000) :: List.replicate 7 (0, 0) }).modVector 0 fun _ => ⟨0x1000, 7, false, false⟩, 0, 0, by decide +kernel⟩,
    ⟨((tUsh fun u => { u with signals := (1, 9000) :: List.replicate 7 (0, 0) }).modVector 0 fun _ => ⟨0x1000, 7, false, false⟩).put F.PCI_LINK_STATE 0, 0, 0, by decide +kernel⟩,
    ⟨{ tUsh id with notices := [NoticeRing.idle, ⟨[], 5, 0, 1, 9000⟩] }, 0, by decide +kernel⟩,
    ⟨{ tZero with agenda := [(0, .lockSequence)] }, by decide +kernel⟩⟩

/-- Hypotheses of `Obligations.ArchiveAndRecovery`. -/
theorem witness_ArchiveAndRecovery :
    (∃ (s : State) (v : Nat),
      s.g F.PWR_BOOT_STATUS_FW_SLOT ≠ 0 ∧ s.on F.ARC_STATUS_BUSY = false ∧ s.lockFw = false ∧ s.lockAll = false ∧
      v = s.g (F.ARC_SLOT_VER_VALUE (s.g F.PWR_BOOT_STATUS_FW_SLOT - 1)) ∧ s.rollback < v) ∧
    (∃ (s : State) (v : Nat),
      (s.g F.PWR_BOOT_STATUS_FW_SLOT = 0 ∨ s.on F.ARC_STATUS_BUSY = true ∨ s.lockFw = true ∨ s.lockAll = true ∨ v ≤ s.rollback ∨ v ≠ s.g (F.ARC_SLOT_VER_VALUE (s.g F.PWR_BOOT_STATUS_FW_SLOT - 1)))) ∧
    (∃ (s : State),
      s.on F.ARC_STATUS_BUSY = true) ∧
    (∃ (s : State),
      s.on F.ARC_STATUS_BUSY = false) ∧
    (∃ (s : State) (b : Nat),
      s.stage = 8 ∧ s.on F.ARC_RCV_STATUS_BUSY = false ∧ b = s.g F.ARC_RCV_CTRL_BLOCK ∧ s.recoveryBar b = none ∧
      s.recoverySame b = false) ∧
    (∃ (s : State) (b : Nat),
      s.stage = 8 ∧ s.on F.ARC_RCV_STATUS_BUSY = false ∧ b = s.g F.ARC_RCV_CTRL_BLOCK ∧ s.recoveryBar b = none ∧
      s.recoverySame b = true) ∧
    (∃ (s : State) (b : Nat) (r : Nat),
      s.stage = 8 ∧ s.on F.ARC_RCV_STATUS_BUSY = false ∧ b = s.g F.ARC_RCV_CTRL_BLOCK ∧ s.recoveryBar b = some r) ∧
    (∃ (s : State),
      (s.stage ≠ 8 ∨ s.on F.ARC_RCV_STATUS_BUSY = true)) ∧
    (∃ (s : State) (b : Nat),
      s.stage = 8 ∧ s.on F.ARC_RCV_STATUS_BUSY = true ∧ b = (s.slot 7).job.count) ∧
    (∃ (s : State) (b : Nat),
      s.stage = 8 ∧ s.on F.ARC_RCV_STATUS_BUSY = true ∧ b = (s.slot 7).job.count ∧ s.recoverySame b = true) ∧
    (∃ (s : State) (b : Nat),
      s.stage = 8 ∧ s.on F.ARC_RCV_STATUS_BUSY = true ∧ b = (s.slot 7).job.count ∧ s.recoverySame b = false) ∧
    (∃ (s : State) (g : Bool),
      (s.stage ≠ 8 ∨ s.on F.ARC_RCV_STATUS_BUSY = false)) :=
  ⟨⟨((tUp.put F.PWR_BOOT_STATUS_FW_SLOT 1).put (F.ARC_SLOT_VER_VALUE 0) 3), 3, by decide +kernel⟩,
    ⟨{ tZero with agenda := [(0, .lockSequence)] }, 0, by decide +kernel⟩,
    ⟨((tUp.put F.ARC_STATUS_BUSY 1).put F.ARC_ROLLBACK_RAISE_VERSION 3), by decide +kernel⟩,
    ⟨{ tZero with agenda := [(0, .lockSequence)] }, by decide +kernel⟩,
    ⟨(((tUp.put F.PWR_BOOT_STATUS_STAGE 8).put F.ARC_RCV_CTRL_BLOCK 6000).put ⟨F.ARC_RCV_BUF 0, 31, 0⟩ 7), 6000, by decide +kernel⟩,
    ⟨{ (tUp.put F.PWR_BOOT_STATUS_STAGE 8).put F.ARC_RCV_CTRL_BLOCK 6000 with archive := tZero.archive.write (256 * 6000) (List.replicate 256 0) }, 6000, by decide +kernel⟩,
    ⟨((tUp.put F.PWR_BOOT_STATUS_STAGE 8).put F.ARC_RCV_CTRL_BLOCK 60000), 60000, 3, by decide +kernel⟩,
    ⟨{ tZero with agenda := [(0, .lockSequence)] }, by decide +kernel⟩,
    ⟨{ (((tUp.put F.PWR_BOOT_STATUS_STAGE 8).put F.ARC_RCV_STATUS_BUSY 1).put ⟨F.ARC_RCV_BUF 0, 31, 0⟩ 7) with usher := tEng 7 (fun x => { x with job := { Job.idle with count := 6000 } }) Usher.idle }, 6000, by decide +kernel⟩,
    ⟨{ (((tRun 7 [0x40, 7, 0, 0, 6000, 2, 0x1800000, 0, 0, 0, 0, 0, 0, 0, 0, 0] { Job.idle with count := 6000 }).put F.PWR_BOOT_STATUS_STAGE 8).put F.ARC_RCV_CTRL_BLOCK 6000).put F.ARC_RCV_STATUS_BUSY 1 with archive := tZero.archive.write (256 * 6000) (List.replicate 256 0) }, 6000, by decide +kernel⟩,
    ⟨{ (((tUp.put F.PWR_BOOT_STATUS_STAGE 8).put F.ARC_RCV_STATUS_BUSY 1).put ⟨F.ARC_RCV_BUF 0, 31, 0⟩ 7) with usher := tEng 7 (fun x => { x with job := { Job.idle with count := 6000 } }) Usher.idle }, 6000, by decide +kernel⟩,
    ⟨{ tZero with agenda := [(0, .lockSequence)] }, false, by decide +kernel⟩⟩

/-- Hypotheses of `Obligations.SensorsDebugAndScrub`. -/
theorem witness_SensorsDebugAndScrub :
    (∃ (s : State) (n : Nat) (v : Int) (k : Nat),
      n < 16 ∧ s.rises 54 = true ∧ s.thermalRuns = true ∧ s.sensorBad n = false ∧ s.sensorCheck n v = (none, k) ∧
      s.on F.THM_STATUS_FORCED = false ∧ s.g F.THM_BAD_LO_MASK = 0 ∧
      (∀ z ∈ List.range 4, (zoneSensors z).all (fun i => i == n || (nth s.thermal.held i none).all (fun w => decide (w < 8 * (s.trip : Int)))) = true) ∧
      v < 8 * (s.trip : Int)) ∧
    (∃ (s : State) (n : Nat) (v : Int) (k : Nat) (c : Nat),
      n < 16 ∧ s.rises 54 = true ∧ s.thermalRuns = true ∧ s.sensorBad n = false ∧ s.sensorCheck n v = (some c, k)) ∧
    (∃ (s : State) (n : Nat) (v : Int),
      n < 16 ∧ s.rises 54 = true ∧ s.thermalRuns = true ∧ s.sensorBad n = true) ∧
    (∃ (s : State) (n : Nat) (v : Int),
      (n < 16 ∧ (s.rises 54 = false ∨ s.thermalRuns = false) ∨ 48 ≤ n)) ∧
    (∃ (s : State) (n : Nat) (v : Int),
      16 ≤ n ∧ n < 48) ∧
    (∃ (s : State) (z : Nat) (h : Int),
      onEdge s.ladderPeriod s.time = true ∧ s.thermalRuns = true ∧ s.zonesUpdate = s ∧ s.governing = some (z, h) ∧
      8 * (s.g F.THM_LADDER_STEP_UP : Int) ≤ h ∧ h ≤ 8 * (s.g F.THM_LADDER_STEP_DOWN : Int) ∧
      s.g F.THM_CTRL_LEVEL_MIN ≤ s.g F.THM_STATUS_LEVEL) ∧
    (∃ (s : State) (z : Nat) (h : Int),
      onEdge s.ladderPeriod s.time = true ∧ s.thermalRuns = true ∧ s.zonesUpdate = s ∧ s.governing = some (z, h) ∧
      h < 8 * (s.g F.THM_LADDER_STEP_UP : Int) ∧ s.g F.THM_STATUS_LEVEL < 7 ∧
      s.g F.THM_CTRL_LEVEL_MIN ≤ s.g F.THM_STATUS_LEVEL + 1 ∧
      ¬(s.on F.THM_STATUS_FORCED = true ∧ s.g F.THM_STATUS_CAUSE = 2 ∧ 8 * (s.g F.THM_LADDER_STEP_DOWN : Int) < h)) ∧
    (∃ (s : State) (z : Nat) (h : Int),
      onEdge s.ladderPeriod s.time = true ∧ s.thermalRuns = true ∧ s.zonesUpdate = s ∧ s.governing = some (z, h) ∧
      8 * (s.g F.THM_LADDER_STEP_DOWN : Int) < h ∧ 8 * (s.g F.THM_LADDER_STEP_UP : Int) ≤ h ∧
      s.g F.THM_STATUS_LEVEL ≤ 7 ∧ s.g F.THM_CTRL_LEVEL_MIN < s.g F.THM_STATUS_LEVEL ∧
      ¬(s.on F.THM_STATUS_FORCED = true ∧ s.g F.THM_STATUS_CAUSE = 2)) ∧
    (∃ (s : State) (z : Nat) (h : Int),
      onEdge s.ladderPeriod s.time = true ∧ s.thermalRuns = true ∧ s.zonesUpdate = s ∧ s.governing = some (z, h) ∧
      h < 8 * (s.g F.THM_LADDER_STEP_UP : Int) ∧ s.g F.THM_STATUS_LEVEL = 7 ∧ s.on F.THM_STATUS_FORCED = false) ∧
    (∃ (s : State) (z : Nat) (h : Int),
      onEdge s.ladderPeriod s.time = true ∧ s.thermalRuns = true ∧ s.zonesUpdate = s ∧ s.governing = some (z, h) ∧
      8 * (s.g F.THM_LADDER_STEP_DOWN : Int) < h ∧ s.on F.THM_STATUS_FORCED = true ∧ s.g F.THM_STATUS_CAUSE = 2) ∧
    (∃ (s : State),
      (onEdge s.ladderPeriod s.time = false ∨ s.thermalRuns = false)) ∧
    (∃ (s : State),
      s.boot.powered = true ∧ s.ticking = true) ∧
    (∃ (s : State) (op : DebugOp),
      s.boot.powered = true ∧ s.ticking = true ∧ op ≠ .ident ∧ 2 ≤ s.debugMode) ∧
    (∃ (s : State) (off : Nat),
      s.boot.powered = true ∧ s.ticking = true ∧ s.debugMode < 2) ∧
    (∃ (s : State) (a : Nat) (n : Nat),
      s.boot.powered = true ∧ s.ticking = true ∧ s.debugMode < 2) ∧
    (∃ (s : State) (off : Nat) (d : Nat) (a : Nat) (l : List Byte) (op : DebugOp),
      s.boot.powered = true ∧ s.ticking = true ∧ s.debugMode ≠ 0 ∧
      op ∈ [.writeReg off d, .writeStore a l, .halt, .step]) ∧
    (∃ (s : State) (off : Nat) (d : Nat),
      s.boot.powered = true ∧ s.ticking = true ∧ s.debugMode = 0 ∧ debugKeepsOff off = true) ∧
    (∃ (s : State) (off : Nat) (d : Nat) (s₁ : State),
      s.boot.powered = true ∧ s.ticking = true ∧ s.debugMode = 0 ∧ debugKeepsOff off = false ∧
      s₁ = { s with boot := { s.boot with tdo := true } }) ∧
    (∃ (s : State) (a : Nat) (l : List Byte),
      s.boot.powered = true ∧ s.ticking = true ∧ s.debugMode = 0) ∧
    (∃ (s : State),
      s.boot.powered = true ∧ s.ticking = true ∧ s.debugMode = 0) ∧
    (∃ (s : State),
      s.boot.powered = true ∧ s.ticking = true ∧ s.debugMode = 0 ∧ s.usher.halted = true) ∧
    (∃ (s : State),
      s.boot.powered = true ∧ s.ticking = true ∧ s.debugMode = 0 ∧ s.usher.halted = false) ∧
    (∃ (s : State) (op : DebugOp),
      (s.boot.powered = false ∨ s.ticking = false)) ∧
    (∃ (s : State) (q : Nat) (i : Nat),
      8 ≤ q ∧ q < 64 ∧ s.step_ ≤ 2 ∧ s.rises 58 = true ∧ s.g (F.HAL_Q_CTRL_PROT q) = 1 ∧
      i < (s.queue q).closed.length + (s.queue q).opens.length) ∧
    (∃ (s : State) (q : Nat) (i : Nat),
      8 ≤ q ∧ q < 64 ∧ s.step_ ≤ 2 ∧ s.rises 58 = true ∧ s.g (F.HAL_Q_CTRL_PROT q) = 1 ∧ i < (s.queue q).closed.length) ∧
    (∃ (s : State) (q : Nat) (i : Nat),
      8 ≤ q ∧ q < 64 ∧ s.step_ ≤ 2 ∧ s.rises 58 = true ∧ s.g (F.HAL_Q_CTRL_PROT q) = 1 ∧
      (s.queue q).closed.length ≤ i ∧ i < (s.queue q).closed.length + (s.queue q).opens.length) ∧
    (∃ (s : State) (q : Nat) (i : Nat),
      q < 8 ∧ s.step_ ≤ 2 ∧ s.rises 58 = true ∧ i < (s.fireQueue q).length) ∧
    (∃ (s : State) (q : Nat) (i : Nat),
      8 ≤ q ∧ q < 64 ∧ s.step_ ≤ 2 ∧ s.rises 58 = true ∧ s.g (F.HAL_Q_CTRL_PROT q) = 1) ∧
    (∃ (s : State) (a : Nat) (w : Nat),
      s.step_ ≤ 2 ∧ s.rises 58 = true ∧ w = a / 8 * 8 ∧ 0x3000000 ≤ w ∧ w < 0x5E00000 ∧ s.storeBad.contains w = false ∧
      (∀ x ∈ s.storeBad, x + 8 ≤ w ∨ w + 8 ≤ x)) ∧
    (∃ (s : State) (a : Nat) (w : Nat),
      s.step_ ≤ 2 ∧ s.rises 58 = true ∧ w = a / 8 * 8 ∧ 0x3000000 ≤ w ∧ w < 0x5E00000 ∧
      (∀ x ∈ s.storeBad, x + 8 ≤ w ∨ w + 8 ≤ x)) ∧
    (∃ (s : State) (q : Nat) (i : Nat) (k : HallCheck),
      8 ≤ q ∧ q < 64 ∧
      (s.g (F.HAL_Q_CTRL_PROT q) ≠ 1 ∨ 2 < s.step_ ∨ s.rises 58 = false ∨ k = .ok ∨ (k = .single ∨ k = .double) ∧ (s.queue q).closed.length + (s.queue q).opens.length ≤ i)) :=
  ⟨⟨tLadder 100, 0, 0, 1, by decide +kernel⟩,
    ⟨tLadder 100, 0, -441, 1, 0, by decide +kernel⟩,
    ⟨{ (tUp.put F.THM_BAD_LO_MASK 1).modNewel (fun x => { x with time := 15000 }) with thermal := ⟨true, List.replicate 48 none, List.replicate 48 (some 200), List.replicate 48 0⟩ }, 0, -441, by decide +kernel⟩,
    ⟨{ tZero with agenda := [(0, .lockSequence)] }, 0, -441, by decide +kernel⟩,
    ⟨{ tZero with agenda := [(0, .lockSequence)] }, 16, -441, by decide +kernel⟩,
    ⟨tLadder 100, 0, 100, by decide +kernel⟩,
    ⟨tLadder 40, 0, 40, by decide +kernel⟩,
    ⟨(tLadder 200).put F.THM_STATUS_LEVEL 3, 0, 200, by decide +kernel⟩,
    ⟨(tLadder 40).put F.THM_STATUS_LEVEL 7, 0, 40, by decide +kernel⟩,
    ⟨((tLadder 200).put F.THM_STATUS_FORCED 1).put F.THM_STATUS_CAUSE 2, 0, 200, by decide +kernel⟩,
    ⟨{ tZero with agenda := [(0, .lockSequence)] }, by decide +kernel⟩,
    ⟨((tZero.modBoot fun b => { b with powered := true }).modNewel fun x => { x with counting := .ticks }).put F.PCI_LINK_STATE 2 |>.put F.PWR_BOOT_STATUS_STAGE 7 |>.setConfig 4 0x6#32, by decide +kernel⟩,
    ⟨((tZero.modBoot fun b => { b with powered := true }).modNewel fun x => { x with counting := .ticks }).put F.PCI_LINK_STATE 2 |>.put F.PWR_BOOT_STATUS_STAGE 7 |>.setConfig 4 0x6#32, DebugOp.readReg 0, by decide +kernel⟩,
    ⟨((tUp.put F.STP_CONFIG_DBG_MODE 0).modBoot fun b => { b with latched := true, powered := true }), 0, by decide +kernel⟩,
    ⟨((tUp.put F.STP_CONFIG_DBG_MODE 0).modBoot fun b => { b with latched := true, powered := true }), 0, 0, by decide +kernel⟩,
    ⟨((tZero.modBoot fun b => { b with powered := true }).modNewel fun x => { x with counting := .ticks }).put F.PCI_LINK_STATE 2 |>.put F.PWR_BOOT_STATUS_STAGE 7 |>.setConfig 4 0x6#32, 0, 0, 0, [], DebugOp.writeReg 0 0, by decide +kernel⟩,
    ⟨((tUp.put F.STP_CONFIG_DBG_MODE 0).modBoot fun b => { b with latched := true, powered := true }), 0x4C008, 5, by decide +kernel⟩,
    ⟨((tUp.put F.STP_CONFIG_DBG_MODE 0).modBoot fun b => { b with latched := true, powered := true }), 0, 0, { ((tUp.put F.STP_CONFIG_DBG_MODE 0).modBoot fun b => { b with latched := true, powered := true }) with boot := { ((tUp.put F.STP_CONFIG_DBG_MODE 0).modBoot fun b => { b with latched := true, powered := true }).boot with tdo := true } }, by decide +kernel⟩,
    ⟨((tUp.put F.STP_CONFIG_DBG_MODE 0).modBoot fun b => { b with latched := true, powered := true }), 0, [], by decide +kernel⟩,
    ⟨((tUp.put F.STP_CONFIG_DBG_MODE 0).modBoot fun b => { b with latched := true, powered := true }), by decide +kernel⟩,
    ⟨{ tUsh (fun u => { u with halted := true }) with boot := { tUp.boot with powered := true, latched := true } }, by decide +kernel⟩,
    ⟨((tUp.put F.STP_CONFIG_DBG_MODE 0).modBoot fun b => { b with latched := true, powered := true }), by decide +kernel⟩,
    ⟨{ tZero with agenda := [(0, .lockSequence)] }, DebugOp.ident, by decide +kernel⟩,
    ⟨tScrub, 9, 0, by decide +kernel⟩,
    ⟨tScrub, 9, 0, by decide +kernel⟩,
    ⟨{ tUp.put (F.HAL_Q_CTRL_PROT 9) 1 with hall := { tZero.hall with queues := modNth tZero.hall.queues 9 fun q => { q with opens := [⟨16, List.replicate 64 7, false⟩] } } }, 9, 0, by decide +kernel⟩,
    ⟨tFull, 0, 0, by decide +kernel⟩,
    ⟨tScrub, 9, 0, by decide +kernel⟩,
    ⟨((tZero.modBoot fun b => { b with powered := true }).modNewel fun x => { x with counting := .ticks }).put F.PCI_LINK_STATE 2 |>.put F.PWR_BOOT_STATUS_STAGE 7 |>.setConfig 4 0x6#32, 50331648, 50331648, by decide +kernel⟩,
    ⟨((tZero.modBoot fun b => { b with powered := true }).modNewel fun x => { x with counting := .ticks }).put F.PCI_LINK_STATE 2 |>.put F.PWR_BOOT_STATUS_STAGE 7 |>.setConfig 4 0x6#32, 50331648, 50331648, by decide +kernel⟩,
    ⟨{ tZero with agenda := [(0, .lockSequence)] }, 8, 0, HallCheck.ok, by decide +kernel⟩⟩

/-- Hypotheses of `Obligations.TaskDispatch`. -/
theorem witness_TaskDispatch :
    (∃ (s : State) (u : Nat) (k : Task) (r : Task),
      u < 12 ∧ s.dispatches = true ∧ (s.slot u).running = none ∧ (s.slot u).deck = some k ∧
      max k.ready (s.slot u).freeAt + 8 ≤ s.time ∧ r = { s.resolve k with start := s.time } ∧ s.storeBad = [] ∧
      k.marks ≠ 0) ∧
    (∃ (s : State) (u : Nat),
      u < 12 ∧ (s.slot u).running = none ∧
      (s.slot u).deck.all (fun k => !s.dispatches || decide (s.time < max k.ready (s.slot u).freeAt + 8)) = true) ∧
    (∃ (s : State) (u : Nat) (k : Task) (r : Task),
      u < 12 ∧ s.dispatches = true ∧ (s.slot u).running = none ∧ (s.slot u).deck = some k ∧
      max k.ready (s.slot u).freeAt + 8 ≤ s.time ∧ r = { s.resolve k with start := s.time } ∧ s.storeBad = [] ∧
      k.sq < 16 ∧ k.marks = 0 ∧ s.dispatchStatus r false = 0x8007) ∧
    (∃ (s : State) (u : Nat) (k : Task) (r : Task) (n : Nat),
      u < 12 ∧ s.dispatches = true ∧ (s.slot u).running = none ∧ (s.slot u).deck = some k ∧
      max k.ready (s.slot u).freeAt + 8 ≤ s.time ∧ r = { s.resolve k with start := s.time } ∧ s.storeBad = [] ∧
      k.marks = 0 ∧ s.dispatchStatus r false = 0 ∧ u < 4 ∧ (k.op = 0x10 ∨ k.op = 0x11) ∧ r.rectReach = true ∧
      n = 240 + r.rect.ticksLeft 0 0 (s.rectRate u r)) ∧
    (∃ (s : State) (u : Nat) (k : Task) (r : Task),
      u < 12 ∧ s.dispatches = true ∧ (s.slot u).running = none ∧ (s.slot u).deck = some k ∧
      max k.ready (s.slot u).freeAt + 8 ≤ s.time ∧ r = { s.resolve k with start := s.time } ∧ s.storeBad = [] ∧
      k.marks = 0 ∧ s.dispatchStatus r false = 0 ∧ k.sq < 16 ∧ u < 4 ∧ (k.op = 0x10 ∨ k.op = 0x11) ∧
      r.rectReach = false) ∧
    (∃ (s : State) (u : Nat) (k : Task) (r : Task),
      u < 12 ∧ s.dispatches = true ∧ (s.slot u).running = none ∧ (s.slot u).deck = some k ∧
      max k.ready (s.slot u).freeAt + 8 ≤ s.time ∧ r = { s.resolve k with start := s.time } ∧ s.storeBad = [] ∧
      k.marks = 0 ∧ s.dispatchStatus r false = 0 ∧ u < 4 ∧ k.op = 0x12) ∧
    (∃ (s : State) (u : Nat) (k : Task) (r : Task) (n : Nat),
      u < 12 ∧ s.dispatches = true ∧ (s.slot u).running = none ∧ (s.slot u).deck = some k ∧
      max k.ready (s.slot u).freeAt + 8 ≤ s.time ∧ r = { s.resolve k with start := s.time } ∧ s.storeBad = [] ∧
      k.marks = 0 ∧ s.dispatchStatus r false = 0 ∧ (u = 4 ∨ u = 5) ∧ k.op = 0x20 ∧ r.w 9 = loadSize r.kind ∧
      (r.w 8 % 2 = 1 → inBank1 (r.q 6) (loadSize r.kind) = true) ∧ (r.kind = 2 → (s.pipe r.target).bound = false) ∧
      s.bankInUse r.kind r.target r.bank = false ∧ n = 240 + (if r.w 8 % 2 = 1 then 32 else 48)) ∧
    (∃ (s : State) (u : Nat) (k : Task) (r : Task),
      u < 12 ∧ s.dispatches = true ∧ (s.slot u).running = none ∧ (s.slot u).deck = some k ∧
      max k.ready (s.slot u).freeAt + 8 ≤ s.time ∧ r = { s.resolve k with start := s.time } ∧ s.storeBad = [] ∧
      k.marks = 0 ∧ s.dispatchStatus r false = 0 ∧ k.sq < 16 ∧ (u = 4 ∨ u = 5) ∧ k.op = 0x20 ∧ r.w 9 ≠ loadSize r.kind) ∧
    (∃ (s : State) (u : Nat) (k : Task) (r : Task),
      u < 12 ∧ s.dispatches = true ∧ (s.slot u).running = none ∧ (s.slot u).deck = some k ∧
      max k.ready (s.slot u).freeAt + 8 ≤ s.time ∧ r = { s.resolve k with start := s.time } ∧ s.storeBad = [] ∧
      k.marks = 0 ∧ s.dispatchStatus r false = 0 ∧ k.sq < 16 ∧ (u = 4 ∨ u = 5) ∧ k.op = 0x20 ∧
      r.w 9 = loadSize r.kind ∧ r.w 8 % 2 = 1 ∧ inBank1 (r.q 6) (loadSize r.kind) = false) ∧
    (∃ (s : State) (u : Nat) (k : Task) (r : Task),
      u < 12 ∧ s.dispatches = true ∧ (s.slot u).running = none ∧ (s.slot u).deck = some k ∧
      max k.ready (s.slot u).freeAt + 8 ≤ s.time ∧ r = { s.resolve k with start := s.time } ∧ s.storeBad = [] ∧
      k.marks = 0 ∧ s.dispatchStatus r false = 0 ∧ k.sq < 16 ∧ (u = 4 ∨ u = 5) ∧ k.op = 0x20 ∧
      r.w 9 = loadSize r.kind ∧ (r.w 8 % 2 = 1 → inBank1 (r.q 6) (loadSize r.kind) = true) ∧ r.kind = 2 ∧
      (s.pipe r.target).bound = true) ∧
    (∃ (s : State) (u : Nat) (k : Task) (r : Task),
      u < 12 ∧ s.dispatches = true ∧ (s.slot u).running = none ∧ (s.slot u).deck = some k ∧
      max k.ready (s.slot u).freeAt + 8 ≤ s.time ∧ r = { s.resolve k with start := s.time } ∧ s.storeBad = [] ∧
      k.marks = 0 ∧ s.dispatchStatus r false = 0 ∧ k.sq < 16 ∧ (u = 4 ∨ u = 5) ∧ k.op = 0x20 ∧
      r.w 9 = loadSize r.kind ∧ (r.w 8 % 2 = 1 → inBank1 (r.q 6) (loadSize r.kind) = true) ∧
      (r.kind = 2 → (s.pipe r.target).bound = false) ∧ s.bankInUse r.kind r.target r.bank = true) ∧
    (∃ (s : State) (u : Nat) (k : Task) (r : Task) (p : Nat) (l : List Nat),
      u < 12 ∧ s.dispatches = true ∧ (s.slot u).running = none ∧ (s.slot u).deck = some k ∧
      max k.ready (s.slot u).freeAt + 8 ≤ s.time ∧ r = { s.resolve k with start := s.time } ∧ s.storeBad = [] ∧
      k.marks = 0 ∧ s.dispatchStatus r false = 0 ∧ u = 6 ∧ (k.op = 0x30 ∨ k.op = 0x31) ∧
      (s.boundTo (r.cam + 1)).filter s.pipeRuns = p :: l ∧ s.bankInUse 4 0 r.area = false ∧ s.calNeeds r ≤ 4194304) ∧
    (∃ (s : State) (u : Nat) (k : Task) (r : Task),
      u < 12 ∧ s.dispatches = true ∧ (s.slot u).running = none ∧ (s.slot u).deck = some k ∧
      max k.ready (s.slot u).freeAt + 8 ≤ s.time ∧ r = { s.resolve k with start := s.time } ∧ s.storeBad = [] ∧
      k.marks = 0 ∧ s.dispatchStatus r false = 0 ∧ k.sq < 16 ∧ u = 6 ∧ (k.op = 0x30 ∨ k.op = 0x31) ∧
      (s.boundTo (r.cam + 1)).filter s.pipeRuns = []) ∧
    (∃ (s : State) (u : Nat) (k : Task) (r : Task),
      u < 12 ∧ s.dispatches = true ∧ (s.slot u).running = none ∧ (s.slot u).deck = some k ∧
      max k.ready (s.slot u).freeAt + 8 ≤ s.time ∧ r = { s.resolve k with start := s.time } ∧ s.storeBad = [] ∧
      k.marks = 0 ∧ s.dispatchStatus r false = 0 ∧ k.sq < 16 ∧ u = 6 ∧ (k.op = 0x30 ∨ k.op = 0x31) ∧
      (s.boundTo (r.cam + 1)).filter s.pipeRuns ≠ [] ∧ s.bankInUse 4 0 r.area = true) ∧
    (∃ (s : State) (u : Nat) (k : Task) (r : Task),
      u < 12 ∧ s.dispatches = true ∧ (s.slot u).running = none ∧ (s.slot u).deck = some k ∧
      max k.ready (s.slot u).freeAt + 8 ≤ s.time ∧ r = { s.resolve k with start := s.time } ∧ s.storeBad = [] ∧
      k.marks = 0 ∧ s.dispatchStatus r false = 0 ∧ k.sq < 16 ∧ u = 6 ∧ (k.op = 0x30 ∨ k.op = 0x31) ∧
      (s.boundTo (r.cam + 1)).filter s.pipeRuns ≠ [] ∧ s.bankInUse 4 0 r.area = false ∧ 4194304 < s.calNeeds r) ∧
    (∃ (s : State) (u : Nat) (k : Task) (r : Task),
      u < 12 ∧ s.dispatches = true ∧ (s.slot u).running = none ∧ (s.slot u).deck = some k ∧
      max k.ready (s.slot u).freeAt + 8 ≤ s.time ∧ r = { s.resolve k with start := s.time } ∧ s.storeBad = [] ∧
      k.marks = 0 ∧ s.dispatchStatus r false = 0 ∧ u = 7 ∧ k.op = 0x40 ∧ s.arcLocked (r.w 4) = false ∧
      (inBank1 (r.q 6) (256 * r.w 5) || (decide (0x4800000 ≤ r.q 6) && decide (r.q 6 + 256 * r.w 5 ≤ 0x5E00000))) = true) ∧
    (∃ (s : State) (u : Nat) (k : Task) (r : Task),
      u < 12 ∧ s.dispatches = true ∧ (s.slot u).running = none ∧ (s.slot u).deck = some k ∧
      max k.ready (s.slot u).freeAt + 8 ≤ s.time ∧ r = { s.resolve k with start := s.time } ∧ s.storeBad = [] ∧
      k.marks = 0 ∧ s.dispatchStatus r false = 0 ∧ u = 7 ∧ k.op = 0x41 ∧ inBank1 (r.q 6) (256 * r.w 5) = true) ∧
    (∃ (s : State) (u : Nat) (k : Task) (r : Task),
      u < 12 ∧ s.dispatches = true ∧ (s.slot u).running = none ∧ (s.slot u).deck = some k ∧
      max k.ready (s.slot u).freeAt + 8 ≤ s.time ∧ r = { s.resolve k with start := s.time } ∧ s.storeBad = [] ∧
      k.marks = 0 ∧ s.dispatchStatus r false = 0 ∧ k.sq < 16 ∧ u = 7 ∧ k.op = 0x40 ∧ s.arcLocked (r.w 4) = true) ∧
    (∃ (s : State) (u : Nat) (k : Task) (r : Task),
      u < 12 ∧ s.dispatches = true ∧ (s.slot u).running = none ∧ (s.slot u).deck = some k ∧
      max k.ready (s.slot u).freeAt + 8 ≤ s.time ∧ r = { s.resolve k with start := s.time } ∧ s.storeBad = [] ∧
      k.marks = 0 ∧ s.dispatchStatus r false = 0 ∧ k.sq < 16 ∧ u = 7 ∧ k.op = 0x41 ∧
      inBank1 (r.q 6) (256 * r.w 5) = false) ∧
    (∃ (s : State) (u : Nat) (k : Task) (r : Task) (p : Nat),
      u < 12 ∧ s.dispatches = true ∧ (s.slot u).running = none ∧ (s.slot u).deck = some k ∧
      max k.ready (s.slot u).freeAt + 8 ≤ s.time ∧ r = { s.resolve k with start := s.time } ∧ s.storeBad = [] ∧
      k.marks = 0 ∧ s.dispatchStatus r false = 0 ∧ 8 ≤ u ∧ k.op = 0x50 ∧ u = 8 + p ∧ s.g (F.PIP_SRC_SRC p) ≠ 0 ∧
      (s.pipe p).bound = false) ∧
    (∃ (s : State) (u : Nat) (k : Task) (r : Task) (p : Nat),
      u < 12 ∧ s.dispatches = true ∧ (s.slot u).running = none ∧ (s.slot u).deck = some k ∧
      max k.ready (s.slot u).freeAt + 8 ≤ s.time ∧ r = { s.resolve k with start := s.time } ∧ s.storeBad = [] ∧
      k.marks = 0 ∧ s.dispatchStatus r false = 0 ∧ k.sq < 16 ∧ 8 ≤ u ∧ k.op = 0x50 ∧ u = 8 + p ∧
      s.g (F.PIP_SRC_SRC p) = 0) ∧
    (∃ (s : State) (u : Nat) (k : Task) (r : Task) (p : Nat),
      u < 12 ∧ s.dispatches = true ∧ (s.slot u).running = none ∧ (s.slot u).deck = some k ∧
      max k.ready (s.slot u).freeAt + 8 ≤ s.time ∧ r = { s.resolve k with start := s.time } ∧ s.storeBad = [] ∧
      k.marks = 0 ∧ s.dispatchStatus r false = 0 ∧ k.sq < 16 ∧ 8 ≤ u ∧ k.op = 0x50 ∧ u = 8 + p ∧
      s.g (F.PIP_SRC_SRC p) ≠ 0 ∧ (s.pipe p).bound = true) ∧
    (∃ (s : State) (u : Nat) (k : Task),
      u < 12 ∧ (s.slot u).running = some k ∧ (s.slot u).job.phase = 0 ∧ s.now < (s.slot u).job.due) ∧
    (∃ (s : State) (u : Nat) (v : Nat) (k : Task),
      u < 12 ∧ (s.slot u).running = some k ∧ (s.slot u).job.phase = 0 ∧ k.sq < 16 ∧ (s.slot u).job.due ≤ s.now ∧
      v = (s.slot u).job.status ∧ (v = 0x8002 ∨ v = 0x8007 ∨ v = 0x8208)) ∧
    (∃ (s : State) (u : Nat) (n : Nat) (k : Task),
      u < 12 ∧ (s.slot u).running = some k ∧ (s.slot u).job.phase = 0 ∧ u < 4 ∧ (s.slot u).job.due ≤ s.now ∧
      (s.slot u).job.status = 0 ∧ (k.op = 0x10 ∨ k.op = 0x11) ∧ k.rectReach = true ∧
      n = 240 + k.rect.ticksLeft 0 0 (s.rectRate u k)) ∧
    (∃ (s : State) (u : Nat) (a : Nat) (n : Nat) (k : Task),
      (s.slot u).running = some k ∧ (u = 4 ∨ u = 5) ∧ (s.slot u).job.phase = 1 ∧ (s.slot u).job.due ≤ s.now ∧
      k.w 8 % 2 = 1 ∧ k.kind < 3 ∧ s.storeBad = [] ∧ s.bankInUse k.kind k.target k.bank = false ∧
      loadBase k.kind k.target k.bank = some a ∧ n = (s.slot u).job.count) ∧
    (∃ (s : State) (n : Nat) (k : Task),
      (s.slot 7).running = some k ∧ k.op = 0x40 ∧ (s.slot 7).job.phase = 1 ∧ (s.slot 7).job.due ≤ s.now ∧
      (s.slot 7).job.aborted = false ∧ n = (s.slot 7).job.count + (s.slot 7).job.skipped ∧ n ≠ k.w 5 ∧
      s.on F.ARC_STATUS_BUSY = true) ∧
    (∃ (s : State) (n : Nat) (k : Task),
      (s.slot 7).running = some k ∧ k.op = 0x40 ∧ (s.slot 7).job.phase = 1 ∧ (s.slot 7).job.due ≤ s.now ∧
      (s.slot 7).job.aborted = false ∧ n = (s.slot 7).job.count + (s.slot 7).job.skipped ∧ n ≠ k.w 5 ∧
      s.on F.ARC_STATUS_BUSY = false ∧ s.storeBad = [] ∧ s.store.read (k.q 6 + 256 * n) 256 = s.block (k.w 4 + n) ∧
      s.archiveBad.contains (k.w 4 + n) = false) ∧
    (∃ (s : State) (n : Nat) (k : Task),
      (s.slot 7).running = some k ∧ k.op = 0x40 ∧ (s.slot 7).job.phase = 1 ∧ (s.slot 7).job.due ≤ s.now ∧
      (s.slot 7).job.aborted = false ∧ n = (s.slot 7).job.count + (s.slot 7).job.skipped ∧ n ≠ k.w 5 ∧
      s.on F.ARC_STATUS_BUSY = false ∧ s.storeBad = [] ∧
      (s.store.read (k.q 6 + 256 * n) 256 ≠ s.block (k.w 4 + n) ∨ s.archiveBad.contains (k.w 4 + n) = true) ∧
      s.wearOf (k.w 4 + n) + 1 < 1000000) ∧
    (∃ (s : State) (k : Task) (j : Job),
      (s.slot 7).running = some k ∧ k.op = 0x40 ∧ (s.slot 7).job.phase = 1 ∧ (s.slot 7).job.due ≤ s.now ∧
      (s.slot 7).job.aborted = false ∧ (s.slot 7).job.count + (s.slot 7).job.skipped = k.w 5 ∧ k.sq < 16 ∧
      j = (s.slot 7).job) ∧
    (∃ (s : State) (a : Nat) (k : Task),
      s.usher.ops = [(a, k)] ∧ a ≤ s.time ∧ k.sq < 16 ∧ k.marks = 0 ∧ s.dispatches = true ∧ k.op = 0x51 ∧
      s.on F.USH_FLIGHT_ARMED = true) ∧
    (∃ (s : State) (a : Nat) (k : Task),
      s.usher.ops = [(a, k)] ∧ a ≤ s.time ∧ k.sq < 16 ∧ k.marks = 0 ∧ s.dispatches = true ∧ k.op = 0x51 ∧
      s.on F.USH_FLIGHT_ARMED = false ∧
      (maskPipes (k.w 4 % 16)).any (fun p => (s.slot (8 + p)).running.isSome || (s.slot (8 + p)).deck.isSome) = true) ∧
    (∃ (s : State) (a : Nat) (k : Task),
      s.usher.ops = [(a, k)] ∧ a ≤ s.time ∧ k.sq < 16 ∧ k.marks = 0 ∧ s.dispatches = true ∧ k.op = 0x51 ∧
      s.on F.USH_FLIGHT_ARMED = false ∧ k.w 4 % 16 = 0) ∧
    (∃ (s : State) (a : Nat) (k : Task),
      s.usher.ops = [(a, k)] ∧ a ≤ s.time ∧ k.sq < 16 ∧ k.marks = 0 ∧ s.dispatches = true ∧ k.op = 0x51 ∧
      s.on F.USH_FLIGHT_ARMED = false ∧ k.w 4 % 16 ≠ 0 ∧
      (maskPipes (k.w 4 % 16)).all (fun p => (s.slot (8 + p)).running.isNone && (s.slot (8 + p)).deck.isNone && s.g (F.PIP_SRC_SRC p) != 0) = true) ∧
    (∃ (s : State) (a : Nat) (k : Task),
      s.usher.ops = [(a, k)] ∧ a ≤ s.time ∧ k.sq < 16 ∧ k.marks = 0 ∧ s.dispatches = true ∧ k.op = 0x52 ∧
      s.on F.USH_FLIGHT_ARMED = false) ∧
    (∃ (s : State) (a : Nat) (k : Task),
      s.usher.ops = [(a, k)] ∧ a ≤ s.time ∧ k.sq < 16 ∧ k.marks = 0 ∧ s.dispatches = true ∧ k.op = 0x52 ∧
      s.on F.USH_FLIGHT_ARMED = true ∧ s.usher.arm = none) ∧
    (∃ (s : State) (u : Nat),
      12 ≤ u ∧ s.usher.ops.all (fun x => !s.opReady x) = true) :=
  ⟨⟨tDeck 7 [0x40, 7, 0x10000, 0, 5, 1, 0x1800000, 0, 0, 0, 0, 0, 0, 0, 0, 0], 7, { sq := 0, head := 1, words := [64, 7, 65536, 0, 5, 1, 25165824, 0, 0, 0, 0, 0, 0, 0, 0, 0], taken := 9000, ready := 9096, start := 9200 }, { sq := 0, head := 1, words := [64, 7, 65536, 0, 0, 1, 25165824, 0, 0, 0, 0, 0, 0, 0, 0, 0], taken := 9000, ready := 9096, start := 10000 }, by decide +kernel⟩,
    ⟨{ tZero with agenda := [(0, .lockSequence)] }, 0, by decide +kernel⟩,
    ⟨tDeck 0 [0x11, 7, 0, 0, 0, 0, 0, 0, 0, 4, 1, 0, 4, 1, 0, 0], 0, { sq := 0, head := 1, words := [17, 7, 0, 0, 0, 0, 0, 0, 0, 4, 1, 0, 4, 1, 0, 0], taken := 9000, ready := 9096, start := 9200 }, { sq := 0, head := 1, words := [17, 7, 0, 0, 0, 0, 0, 0, 0, 4, 1, 0, 4, 1, 0, 0], taken := 9000, ready := 9096, start := 10000 }, by decide +kernel⟩,
    ⟨tUsh (tEng 0 fun x => { x with deck := some tFill }), 0, tFill, { sq := 0, head := 1, words := [17, 7, 0, 0, 0, 0, 25165824, 0, 2, 4, 1, 0, 4, 16909060, 0, 0], taken := 9000, ready := 9096, start := 10000 }, 257, by decide +kernel⟩,
    ⟨tDeck 0 [0x11, 7, 0, 0, 0, 0, 0x10, 0, 2, 4, 1, 0, 4, 1, 0, 0], 0, { sq := 0, head := 1, words := [17, 7, 0, 0, 0, 0, 16, 0, 2, 4, 1, 0, 4, 1, 0, 0], taken := 9000, ready := 9096, start := 9200 }, { sq := 0, head := 1, words := [17, 7, 0, 0, 0, 0, 16, 0, 2, 4, 1, 0, 4, 1, 0, 0], taken := 9000, ready := 9096, start := 10000 }, by decide +kernel⟩,
    ⟨tDeck 0 [0x12, 7, 0, 0, 8, 0, 0x1000, 0, 0, 65536, 0, 0, 0, 0, 0, 0], 0, { sq := 0, head := 1, words := [18, 7, 0, 0, 8, 0, 4096, 0, 0, 65536, 0, 0, 0, 0, 0, 0], taken := 9000, ready := 9096, start := 9200 }, { sq := 0, head := 1, words := [18, 7, 0, 0, 8, 0, 4096, 0, 0, 65536, 0, 0, 0, 0, 0, 0], taken := 9000, ready := 9096, start := 10000 }, by decide +kernel⟩,
    ⟨tDeck 4 [0x20, 7, 0, 0, 0, 0, 0x1800000, 0, 1, 66304, 0, 0, 0, 0, 0, 0], 4, { sq := 0, head := 1, words := [32, 7, 0, 0, 0, 0, 25165824, 0, 1, 66304, 0, 0, 0, 0, 0, 0], taken := 9000, ready := 9096, start := 9200 }, { sq := 0, head := 1, words := [32, 7, 0, 0, 0, 0, 25165824, 0, 1, 66304, 0, 0, 0, 0, 0, 0], taken := 9000, ready := 9096, start := 10000 }, 272, by decide +kernel⟩,
    ⟨tDeck 4 [0x20, 7, 0, 0, 0, 0, 0x1800000, 0, 1, 5, 0, 0, 0, 0, 0, 0], 4, { sq := 0, head := 1, words := [32, 7, 0, 0, 0, 0, 25165824, 0, 1, 5, 0, 0, 0, 0, 0, 0], taken := 9000, ready := 9096, start := 9200 }, { sq := 0, head := 1, words := [32, 7, 0, 0, 0, 0, 25165824, 0, 1, 5, 0, 0, 0, 0, 0, 0], taken := 9000, ready := 9096, start := 10000 }, by decide +kernel⟩,
    ⟨tDeck 4 [0x20, 7, 0, 0, 0, 0, 0x10, 0, 1, 66304, 0, 0, 0, 0, 0, 0], 4, { sq := 0, head := 1, words := [32, 7, 0, 0, 0, 0, 16, 0, 1, 66304, 0, 0, 0, 0, 0, 0], taken := 9000, ready := 9096, start := 9200 }, { sq := 0, head := 1, words := [32, 7, 0, 0, 0, 0, 16, 0, 1, 66304, 0, 0, 0, 0, 0, 0], taken := 9000, ready := 9096, start := 10000 }, by decide +kernel⟩,
    ⟨{ tDeck 4 [0x20, 7, 0, 0, 2, 0, 0x1800000, 0, 1, 1024, 0, 0, 0, 0, 0, 0] with pipes := modNth tZero.pipes 0 fun p => { p with bound := true } }, 4, { sq := 0, head := 1, words := [32, 7, 0, 0, 2, 0, 25165824, 0, 1, 1024, 0, 0, 0, 0, 0, 0], taken := 9000, ready := 9096, start := 9200 }, { sq := 0, head := 1, words := [32, 7, 0, 0, 2, 0, 25165824, 0, 1, 1024, 0, 0, 0, 0, 0, 0], taken := 9000, ready := 9096, start := 10000 }, by decide +kernel⟩,
    ⟨{ tDeck 4 [0x20, 7, 0, 0, 0, 0, 0x1800000, 0, 1, 66304, 0, 0, 0, 0, 0, 0] with pipes := modNth tZero.pipes 0 fun p => { p with capture := some 1 } }, 4, { sq := 0, head := 1, words := [32, 7, 0, 0, 0, 0, 25165824, 0, 1, 66304, 0, 0, 0, 0, 0, 0], taken := 9000, ready := 9096, start := 9200 }, { sq := 0, head := 1, words := [32, 7, 0, 0, 0, 0, 25165824, 0, 1, 66304, 0, 0, 0, 0, 0, 0], taken := 9000, ready := 9096, start := 10000 }, by decide +kernel⟩,
    ⟨{ (tDeck 6 [0x30, 7, 0, 0, 2, 1, 0, 0, 0, 0, 0, 0, 0, 0, 0, 0]).put (F.PIP_SRC_SRC 0) 1 with pipes := modNth tZero.pipes 0 fun p => { p with capture := some 1 } }, 6, { sq := 0, head := 1, words := [48, 7, 0, 0, 2, 1, 0, 0, 0, 0, 0, 0, 0, 0, 0, 0], taken := 9000, ready := 9096, start := 9200 }, { sq := 0, head := 1, words := [48, 7, 0, 0, 2, 1, 0, 0, 0, 0, 0, 0, 0, 0, 0, 0], taken := 9000, ready := 9096, start := 10000 }, 0, [], by decide +kernel⟩,
    ⟨tDeck 6 [0x30, 7, 0, 0, 2, 1, 0, 0, 0, 0, 0, 0, 0, 0, 0, 0], 6, { sq := 0, head := 1, words := [48, 7, 0, 0, 2, 1, 0, 0, 0, 0, 0, 0, 0, 0, 0, 0], taken := 9000, ready := 9096, start := 9200 }, { sq := 0, head := 1, words := [48, 7, 0, 0, 2, 1, 0, 0, 0, 0, 0, 0, 0, 0, 0, 0], taken := 9000, ready := 9096, start := 10000 }, by decide +kernel⟩,
    ⟨{ (tDeck 6 [0x30, 7, 0, 0, 0, 1, 0, 0, 0, 0, 0, 0, 0, 0, 0, 0]).put (F.PIP_SRC_SRC 0) 1 with pipes := modNth tZero.pipes 0 fun p => { p with capture := some 1 } }, 6, { sq := 0, head := 1, words := [48, 7, 0, 0, 0, 1, 0, 0, 0, 0, 0, 0, 0, 0, 0, 0], taken := 9000, ready := 9096, start := 9200 }, { sq := 0, head := 1, words := [48, 7, 0, 0, 0, 1, 0, 0, 0, 0, 0, 0, 0, 0, 0, 0], taken := 9000, ready := 9096, start := 10000 }, by decide +kernel⟩,
    ⟨(((({ (tDeck 6 [0x31, 7, 0, 0, 2, 1, 0, 0, 0, 0, 0, 0, 0, 0, 0, 0]).put (F.PIP_SRC_SRC 0) 1 with pipes := modNth tZero.pipes 0 fun p => { p with capture := some 1 } } : State).setEff (F.CNV_WIN 0 0) 0xFF003F01#32).setEff (F.CNV_WIN 0 1) 0xFF003F01#32).setEff (F.CNV_WIN 0 2) 0xFF003F01#32), 6, { sq := 0, head := 1, words := [49, 7, 0, 0, 2, 1, 0, 0, 0, 0, 0, 0, 0, 0, 0, 0], taken := 9000, ready := 9096, start := 9200 }, { sq := 0, head := 1, words := [49, 7, 0, 0, 2, 1, 0, 0, 0, 0, 0, 0, 0, 0, 0, 0], taken := 9000, ready := 9096, start := 10000 }, by decide +kernel⟩,
    ⟨tDeck 7 [0x40, 7, 0, 0, 6000, 2, 0x1800000, 0, 0, 0, 0, 0, 0, 0, 0, 0], 7, { sq := 0, head := 1, words := [64, 7, 0, 0, 6000, 2, 25165824, 0, 0, 0, 0, 0, 0, 0, 0, 0], taken := 9000, ready := 9096, start := 9200 }, { sq := 0, head := 1, words := [64, 7, 0, 0, 6000, 2, 25165824, 0, 0, 0, 0, 0, 0, 0, 0, 0], taken := 9000, ready := 9096, start := 10000 }, by decide +kernel⟩,
    ⟨tDeck 7 [0x41, 7, 0, 0, 6000, 2, 0x1800000, 0, 0, 0, 0, 0, 0, 0, 0, 0], 7, { sq := 0, head := 1, words := [65, 7, 0, 0, 6000, 2, 25165824, 0, 0, 0, 0, 0, 0, 0, 0, 0], taken := 9000, ready := 9096, start := 9200 }, { sq := 0, head := 1, words := [65, 7, 0, 0, 6000, 2, 25165824, 0, 0, 0, 0, 0, 0, 0, 0, 0], taken := 9000, ready := 9096, start := 10000 }, by decide +kernel⟩,
    ⟨tDeck 7 [0x40, 7, 0, 0, 5, 2, 0x1800000, 0, 0, 0, 0, 0, 0, 0, 0, 0], 7, { sq := 0, head := 1, words := [64, 7, 0, 0, 5, 2, 25165824, 0, 0, 0, 0, 0, 0, 0, 0, 0], taken := 9000, ready := 9096, start := 9200 }, { sq := 0, head := 1, words := [64, 7, 0, 0, 5, 2, 25165824, 0, 0, 0, 0, 0, 0, 0, 0, 0], taken := 9000, ready := 9096, start := 10000 }, by decide +kernel⟩,
    ⟨tDeck 7 [0x41, 7, 0, 0, 6000, 2, 0x10000, 0, 0, 0, 0, 0, 0, 0, 0, 0], 7, { sq := 0, head := 1, words := [65, 7, 0, 0, 6000, 2, 65536, 0, 0, 0, 0, 0, 0, 0, 0, 0], taken := 9000, ready := 9096, start := 9200 }, { sq := 0, head := 1, words := [65, 7, 0, 0, 6000, 2, 65536, 0, 0, 0, 0, 0, 0, 0, 0, 0], taken := 9000, ready := 9096, start := 10000 }, by decide +kernel⟩,
    ⟨(tDeck 8 [0x50, 7, 0, 0, 1, 0, 0, 0, 0, 0, 0, 0, 0, 0, 0, 0]).put (F.PIP_SRC_SRC 0) 1, 8, { sq := 0, head := 1, words := [80, 7, 0, 0, 1, 0, 0, 0, 0, 0, 0, 0, 0, 0, 0, 0], taken := 9000, ready := 9096, start := 9200 }, { sq := 0, head := 1, words := [80, 7, 0, 0, 1, 0, 0, 0, 0, 0, 0, 0, 0, 0, 0, 0], taken := 9000, ready := 9096, start := 10000 }, 0, by decide +kernel⟩,
    ⟨tDeck 8 [0x50, 7, 0, 0, 1, 0, 0, 0, 0, 0, 0, 0, 0, 0, 0, 0], 8, { sq := 0, head := 1, words := [80, 7, 0, 0, 1, 0, 0, 0, 0, 0, 0, 0, 0, 0, 0, 0], taken := 9000, ready := 9096, start := 9200 }, { sq := 0, head := 1, words := [80, 7, 0, 0, 1, 0, 0, 0, 0, 0, 0, 0, 0, 0, 0, 0], taken := 9000, ready := 9096, start := 10000 }, 0, by decide +kernel⟩,
    ⟨{ (tDeck 8 [0x50, 7, 0, 0, 1, 0, 0, 0, 0, 0, 0, 0, 0, 0, 0, 0]).put (F.PIP_SRC_SRC 0) 1 with pipes := modNth tZero.pipes 0 fun p => { p with bound := true } }, 8, { sq := 0, head := 1, words := [80, 7, 0, 0, 1, 0, 0, 0, 0, 0, 0, 0, 0, 0, 0, 0], taken := 9000, ready := 9096, start := 9200 }, { sq := 0, head := 1, words := [80, 7, 0, 0, 1, 0, 0, 0, 0, 0, 0, 0, 0, 0, 0, 0], taken := 9000, ready := 9096, start := 10000 }, 0, by decide +kernel⟩,
    ⟨tRun 7 [0x40, 7, 0, 0, 6000, 2, 0x1800000, 0, 0, 0, 0, 0, 0, 0, 0, 0] { Job.idle with phase := 0, due := 5 }, 7, { sq := 0, head := 1, words := [64, 7, 0, 0, 6000, 2, 25165824, 0, 0, 0, 0, 0, 0, 0, 0, 0], taken := 9000, ready := 9096, start := 9200 }, by decide +kernel⟩,
    ⟨tRun 7 [0x40, 7, 0, 0, 6000, 2, 0x1800000, 0, 0, 0, 0, 0, 0, 0, 0, 0] { Job.idle with phase := 0, status := 0x8007 }, 7, 32775, { sq := 0, head := 1, words := [64, 7, 0, 0, 6000, 2, 25165824, 0, 0, 0, 0, 0, 0, 0, 0, 0], taken := 9000, ready := 9096, start := 9200 }, by decide +kernel⟩,
    ⟨tUsh (tEng 2 fun x => { x with running := some tFill, job := { Job.idle with phase := 0 } }), 2, 257, tFill, by decide +kernel⟩,
    ⟨tRun 4 [0x20, 7, 0, 0, 0, 0, 0x1800000, 0, 1, 66304, 0, 0, 0, 0, 0, 0] { Job.idle with phase := 1 }, 4, 51380224, 0, { sq := 0, head := 1, words := [32, 7, 0, 0, 0, 0, 25165824, 0, 1, 66304, 0, 0, 0, 0, 0, 0], taken := 9000, ready := 9096, start := 9200 }, by decide +kernel⟩,
    ⟨(tRun 7 [0x40, 7, 0, 0, 6000, 2, 0x1800000, 0, 0, 0, 0, 0, 0, 0, 0, 0] { Job.idle with phase := 1 }).put F.ARC_STATUS_BUSY 1, 0, { sq := 0, head := 1, words := [64, 7, 0, 0, 6000, 2, 25165824, 0, 0, 0, 0, 0, 0, 0, 0, 0], taken := 9000, ready := 9096, start := 9200 }, by decide +kernel⟩,
    ⟨{ tRun 7 [0x40, 7, 0, 0, 6000, 2, 0x1800000, 0, 0, 0, 0, 0, 0, 0, 0, 0] { Job.idle with phase := 1 } with archive := tZero.archive.write (256 * 6000) (List.replicate 256 0) }, 0, { sq := 0, head := 1, words := [64, 7, 0, 0, 6000, 2, 25165824, 0, 0, 0, 0, 0, 0, 0, 0, 0], taken := 9000, ready := 9096, start := 9200 }, by decide +kernel⟩,
    ⟨{ tRun 7 [0x40, 7, 0, 0, 6000, 2, 0x1800000, 0, 0, 0, 0, 0, 0, 0, 0, 0] { Job.idle with phase := 1 } with store := tZero.store.write 0x1800000 [1, 2, 3] }, 0, { sq := 0, head := 1, words := [64, 7, 0, 0, 6000, 2, 25165824, 0, 0, 0, 0, 0, 0, 0, 0, 0], taken := 9000, ready := 9096, start := 9200 }, by decide +kernel⟩,
    ⟨tRun 7 [0x40, 7, 0, 0, 6000, 2, 0x1800000, 0, 0, 0, 0, 0, 0, 0, 0, 0] { Job.idle with phase := 1, count := 2 }, { sq := 0, head := 1, words := [64, 7, 0, 0, 6000, 2, 25165824, 0, 0, 0, 0, 0, 0, 0, 0, 0], taken := 9000, ready := 9096, start := 9200 }, { phase := 1, aborted := false, began := 0, due := 0, count := 2, bytes := 0, flags := 0, errs := 0, skipped := 0, retries := 0, wear := 0, tries := 0, base := 0, setgen := 0, record := [], tempLo := 0, tempHi := 0, status := 0, parts := [] }, by decide +kernel⟩,
    ⟨(tOp [0x51, 7, 0, 0, 1, 0, 0, 0, 0, 0, 0, 0, 0, 0, 0, 0]).put F.USH_FLIGHT_ARMED 1, 9000, { sq := 0, head := 1, words := [81, 7, 0, 0, 1, 0, 0, 0, 0, 0, 0, 0, 0, 0, 0, 0], taken := 9000, ready := 9096, start := 9200 }, by decide +kernel⟩,
    ⟨{ tOp [0x51, 7, 0, 0, 1, 0, 0, 0, 0, 0, 0, 0, 0, 0, 0, 0] with usher := { (tRun 8 [0x50, 7, 0, 0, 1, 0, 0, 0, 0, 0, 0, 0, 0, 0, 0, 0] Job.idle).usher with ops := (tOp [0x51, 7, 0, 0, 1, 0, 0, 0, 0, 0, 0, 0, 0, 0, 0, 0]).usher.ops } }, 9000, { sq := 0, head := 1, words := [81, 7, 0, 0, 1, 0, 0, 0, 0, 0, 0, 0, 0, 0, 0, 0], taken := 9000, ready := 9096, start := 9200 }, by decide +kernel⟩,
    ⟨tOp [0x51, 7, 0, 0, 0, 0, 0, 0, 0, 0, 0, 0, 0, 0, 0, 0], 9000, { sq := 0, head := 1, words := ([81, 7] ++ List.replicate 14 0), taken := 9000, ready := 9096, start := 9200 }, by decide +kernel⟩,
    ⟨(tOp [0x51, 7, 0, 0, 1, 0, 0, 0, 0, 0, 0, 0, 0, 0, 0, 0]).put (F.PIP_SRC_SRC 0) 1, 9000, { sq := 0, head := 1, words := [81, 7, 0, 0, 1, 0, 0, 0, 0, 0, 0, 0, 0, 0, 0, 0], taken := 9000, ready := 9096, start := 9200 }, by decide +kernel⟩,
    ⟨tOp [0x52, 7, 0, 0, 0, 0, 0, 0, 0, 0, 0, 0, 0, 0, 0, 0], 9000, { sq := 0, head := 1, words := ([82, 7] ++ List.replicate 14 0), taken := 9000, ready := 9096, start := 9200 }, by decide +kernel⟩,
    ⟨(tOp [0x52, 7, 0, 0, 0, 0, 0, 0, 0, 0, 0, 0, 0, 0, 0, 0]).put F.USH_FLIGHT_ARMED 1, 9000, { sq := 0, head := 1, words := ([82, 7] ++ List.replicate 14 0), taken := 9000, ready := 9096, start := 9200 }, by decide +kernel⟩,
    ⟨{ tZero with agenda := [(0, .lockSequence)] }, 12, by decide +kernel⟩⟩

end Sys2Proof.Tests
end

section
/-! PROOF. Counters over many counts (R26), O3. -/

namespace Sys2Proof.Machine

/-- A counter's value fits its width. -/
theorem ctr_lt (s : State) (c : Ctr) (h : 0 < c.width) : s.ctr c < 2 ^ c.width := by
  have e : c.width - 1 + 1 - 0 = c.width := by omega
  rw [State.ctr, bitsOf, e]
  exact Nat.mod_lt _ (Nat.two_pow_pos _)

theorem Ctr.plus_lt (c : Ctr) (v n : Nat) : c.plus v n < 2 ^ c.width := by
  have := Nat.two_pow_pos c.width
  unfold Ctr.plus
  split
  · omega
  · exact Nat.mod_lt _ this

/-- No count leaves a value that fits. -/
theorem Ctr.plus_zero (c : Ctr) {v : Nat} (h : v < 2 ^ c.width) : c.plus v 0 = v := by
  unfold Ctr.plus
  split
  · omega
  · exact Nat.mod_eq_of_lt h

/-- Counts made one after the other add up (R26). -/
theorem Ctr.plus_plus (c : Ctr) (v m n : Nat) : c.plus (c.plus v m) n = c.plus v (m + n) := by
  unfold Ctr.plus
  split
  · omega
  · rw [Nat.mod_add_mod, Nat.add_assoc]

/-- A counter reads as counted, however many counts are made at once. -/
theorem ctr_bumpBy_eq_plus (s : State) (c : Ctr) (n : Nat) (h : 0 < c.width) (k : c.width ≤ 32) :
    (s.bumpBy c n).ctr c = c.plus (s.ctr c) n := by
  rw [ctr_bumpBy s c n h k, Nat.mod_eq_of_lt (c.plus_lt _ _)]

/-- `n` single counts leave what `n` counts at once leave. -/
theorem ctr_overIdx_bump (s : State) (c : Ctr) (h : 0 < c.width) (k : c.width ≤ 32) (n : Nat) :
    (overIdx (fun _ u => u.bump c) n s).ctr c = c.plus (s.ctr c) n := by
  induction n with
  | zero => exact (c.plus_zero (ctr_lt s c h)).symm
  | succ n ih => rw [overIdx, ctr_bump _ c h k, ih, c.plus_plus]

/-- Settles O3: single counts and counts at once both come to `Ctr.plus`, which adds counts up (R26). -/
theorem counterRule : Obligations.CounterRule := by
  intro c s n h k
  have hn := ctr_overIdx_bump s c h k n
  refine ⟨fun hs => ?_, fun hs => ?_, ?_⟩
  · rw [hn, Ctr.plus, if_pos hs]
  · rw [hn, Ctr.plus, if_neg (Bool.eq_false_iff.mp hs)]
  · rw [hn, ctr_bumpBy_eq_plus s c n h k]

end Sys2Proof.Machine
end

section
/-! PROOF. The jet mask of a fire command as a set of channels (R31), O4. -/

namespace Sys2Proof.Machine

theorem bitN_eq_testBit (v i : Nat) : bitN v i = v.testBit i := Nat.testBit_eq_decide_div_mod_eq.symm

/-- A bit added where it was clear changes no other bit: no carry arises. -/
theorem testBit_two_pow_add {m c : Nat} (h : m.testBit c = false) (n : Nat) :
    (2 ^ c + m).testBit n = (decide (c = n) || m.testBit n) := by
  rcases Nat.lt_trichotomy n c with hn | rfl | hn
  · rw [Nat.testBit_two_pow_add_gt hn, decide_eq_false (by omega), Bool.false_or]
  · rw [Nat.testBit_two_pow_add_eq, h, decide_eq_true rfl, Bool.true_or, Bool.not_false]
  · obtain ⟨k, rfl⟩ : ∃ k, n = k + (c + 1) := ⟨n - (c + 1), by omega⟩
    have even : m / 2 ^ c % 2 = 0 := by
      rw [Nat.testBit_eq_decide_div_mod_eq, decide_eq_false_iff_not] at h
      omega
    have same : (2 ^ c + m) / 2 ^ (c + 1) = m / 2 ^ (c + 1) := by
      rw [Nat.pow_succ, ← Nat.div_div_eq_div_mul, ← Nat.div_div_eq_div_mul, Nat.add_div_left _ (Nat.two_pow_pos c)]
      omega
    rw [Nat.testBit_add, same, ← Nat.testBit_add, decide_eq_false (by omega), Bool.false_or]

/-- Different jets of one gallery are different channels. -/
theorem channels_nodup {g : Nat} {l : List Nat} (hl : l.Nodup) (hg : ∀ j ∈ l, j / 32 = g) : (l.map (· % 32)).Nodup := by
  rw [List.Nodup, List.pairwise_map]
  refine List.Pairwise.imp_of_mem (fun {i j} hi hj hne e => hne ?_) hl
  have hi := hg i hi
  have hj := hg j hj
  omega

/-- A list of jets of gallery `g` names channel `n` exactly if it holds jet 32 g + n (R31). -/
theorem channel_mem_iff {g n : Nat} {l : List Nat} (hg : ∀ j ∈ l, j / 32 = g) (hn : n < 32) :
    n ∈ l.map (· % 32) ↔ 32 * g + n ∈ l := by
  rw [List.mem_map]
  constructor
  · rintro ⟨j, hj, rfl⟩
    rwa [← hg j hj, Nat.div_add_mod]
  · exact fun h => ⟨_, h, by omega⟩

theorem jetMask_cons (j : Nat) (l : List Nat) : jetMask (j :: l) = 2 ^ (j % 32) + jetMask l := by
  rw [jetMask, jetMask, ← List.sum_eq_foldl_nat, ← List.sum_eq_foldl_nat, List.map_cons, List.sum_cons]

/-- The bits of a jet mask are the channels named. -/
theorem testBit_jetMask {l : List Nat} (h : (l.map (· % 32)).Nodup) (n : Nat) :
    (jetMask l).testBit n = true ↔ n ∈ l.map (· % 32) := by
  induction l generalizing n with
  | nil => rw [jetMask, List.map_nil, List.foldl_nil, Nat.zero_testBit, List.map_nil, List.mem_nil_iff, Bool.false_eq_true]
  | cons j l ih =>
    rw [List.map_cons, List.nodup_cons] at h
    obtain ⟨hj, hl⟩ := h
    have clear : (jetMask l).testBit (j % 32) = false := Bool.eq_false_iff.mpr fun hb => hj ((ih hl _).mp hb)
    rw [jetMask_cons, testBit_two_pow_add clear, Bool.or_eq_true, decide_eq_true_iff, ih hl, List.map_cons, List.mem_cons,
      eq_comm]

theorem jetMask_lt {l : List Nat} (h : (l.map (· % 32)).Nodup) : jetMask l < 2 ^ 32 := by
  refine Nat.lt_pow_two_of_testBit _ fun n hn => Bool.eq_false_iff.mpr fun hb => ?_
  obtain ⟨j, -, rfl⟩ := List.mem_map.mp ((testBit_jetMask h n).mp hb)
  have := Nat.mod_lt j (show 0 < 32 by decide)
  omega

/-- Settles O4: the channels of different jets of one gallery differ, so their bits add up without a carry (R31). -/
theorem fireMask : Obligations.FireMask := by
  intro g l _ hl hg
  have hc := channels_nodup hl hg
  refine ⟨jetMask_lt hc, fun n hn => ?_⟩
  rw [bitN_eq_testBit, Bool.eq_iff_iff, decide_eq_true_iff, testBit_jetMask hc, channel_mem_iff hg hn]

end Sys2Proof.Machine
end

section
/-! PROOF. Host writes of BAR 0 (R18, R20, R81, R82, R87, R91, R548), O17. -/

namespace Sys2Proof.Machine

/-! ### Traffic and requests -/

/-- Traffic on the link changes no register but `PCI_LINK` (R543). -/
theorem traffic_get (s : State) {o : Nat} (h : o ≠ F.PCI_LINK) : s.traffic.regs.get o = s.regs.get o := by
  simp only [State.traffic, ite_regs, after_regs, ite_self]
  split
  · exact put_get _ F.PCI_LINK_STATE 2 h
  · rfl

theorem traffic_g (s : State) (f : Fld) (h : f.off ≠ F.PCI_LINK) : s.traffic.g f = s.g f := by
  simp only [State.g, traffic_get s h]

theorem traffic_ctr (s : State) (c : Ctr) (h : c.off ≠ F.PCI_LINK) : s.traffic.ctr c = s.ctr c := by
  simp only [State.ctr, traffic_get s h]

theorem traffic_stage (s : State) : s.traffic.stage = s.stage := traffic_g s F.PWR_BOOT_STATUS_STAGE (by decide)

theorem traffic_pcie (s : State) : s.traffic.pcie = { s.pcie with lastTraffic := s.now } := by
  simp only [State.traffic, ite_pcie, after_pcie, put_pcie, ite_self]

/-- Traffic touches only the agenda, the registers and the endpoint. Mask 2194 names these and the moment, which a refusal
or an error of the link on the same request changes. -/
theorem traffic_fields (s : State) : Same 2194 s s.traffic := traffic_same rfl (Same.refl _ _)

/-- A change of the agenda, the registers, the moment and the endpoint, as an equation. -/
theorem Same.eq_of_request {s t : State} (h : Same 2194 s t) :
    t = { s with regs := t.regs, moment := t.moment, pcie := t.pcie, agenda := t.agenda } := h.eq_of

/-- The same where the endpoint only times idleness anew. -/
theorem Same.eq_of_traffic {s t : State} (h : Same 2194 s t) (hp : t.pcie = { s.pcie with lastTraffic := s.now }) :
    t = { s with regs := t.regs, moment := t.moment, pcie := { s.pcie with lastTraffic := s.now }, agenda := t.agenda } := by
  rw [← hp]
  exact h.eq_of_request

/-- A request that reaches the device is answered, as traffic on the link (R104, R145). -/
theorem request_of_reached {s : State} (h : s.reached = true) (c : Instr) (f : State → State) :
    s.request c f = f s.traffic := by
  simp only [State.reached, Bool.and_eq_true, bne_iff_ne, Bool.not_eq_true'] at h
  obtain ⟨⟨⟨hl, hp⟩, h5⟩, ha⟩ := h
  rw [State.request, if_neg, if_neg]
  · simp only [ha, Bool.false_eq_true, not_false_eq_true]
  · simp only [hl, hp, beq_eq_false_iff_ne.mpr h5, Bool.not_true, Bool.or_self, Bool.false_eq_true, not_false_eq_true]

/-- A write of BAR 0 that reaches the head after boot is made where Memory Space Enable is 1, else unsupported (R548). -/
theorem exec_registerWrite_of_reached {s : State} (h : s.reached = true) (hr : s.ready = true) (off size v : Nat) :
    exec (.registerWrite off size v) s =
      .next (if s.memEnabled then s.traffic.bar0Write off size v else s.traffic.unsupported false) := by
  have hr : s.traffic.ready = true := by rwa [State.ready, traffic_stage]
  have hm : s.traffic.memEnabled = s.memEnabled := by rw [State.memEnabled, traffic_pcie, State.memEnabled]
  have run : exec (.registerWrite off size v) s = .next (s.request (.registerWrite off size v) fun s =>
    if !s.ready then s else if !s.memEnabled then s.unsupported false else s.bar0Write off size v) := rfl
  rw [run, request_of_reached h]
  simp only [hr, hm, Bool.not_true, Bool.false_eq_true, if_false]
  cases s.memEnabled
  · rw [Bool.not_false, if_pos (rfl : true = true), if_neg Bool.false_ne_true]
  · rw [Bool.not_true, if_neg Bool.false_ne_true, if_pos (rfl : true = true)]

theorem exec_registerWrite_of_served {s : State} (h : s.served = true) (off size v : Nat) :
    exec (.registerWrite off size v) s = .next (s.traffic.bar0Write off size v) := by
  simp only [State.served, Bool.and_eq_true, beq_iff_eq] at h
  obtain ⟨⟨hr, h7⟩, hm⟩ := h
  rw [exec_registerWrite_of_reached hr (decide_eq_true (Nat.le_of_eq h7.symm)), if_pos hm]

/-! ### Where a write goes -/

/-- After boot every offset answers but the recovery registers (R600). -/
theorem answers_of_served {s : State} (h : s.served = true) (off : Nat) : s.traffic.answers off = !recoveryOffset off := by
  simp only [State.served, Bool.and_eq_true, beq_iff_eq] at h
  rw [State.answers, traffic_stage, h.1.2, if_neg (by decide)]

theorem traffic_named (s : State) (off : Nat) : s.traffic.named off = s.named off := by
  rw [State.named, State.named, State.answers, State.answers, traffic_stage]

/-- An aligned 4-byte write of a register that answers is that register's write (R87, R597). -/
theorem bar0Write_of_regAt {s : State} {off v : Nat} {r : RegRow} {i : List Nat} (hoff : off % 0x100000 = off)
    (h4 : off % 4 = 0) (ha : s.answers off = true) (hr : regAt off = some (r, i)) :
    s.bar0Write off 4 v = s.writeReg r i off (v % 2 ^ 32) := by
  simp only [State.bar0Write, hoff, h4, and_self, if_pos, State.writeWord, ha, hr, Bool.not_true, Bool.false_eq_true, if_false]

/-- A write of another size or alignment is refused (R88, log entry 130). -/
theorem bar0Write_of_misfit (s : State) {off size : Nat} (v : Nat) (h4 : ¬(size = 4 ∧ off % 0x100000 % 4 = 0))
    (h8 : ¬(size = 8 ∧ off % 0x100000 % 8 = 0)) :
    s.bar0Write off size v = s.refuse (off % 0x100000) (if s.named (off % 0x100000 / 4 * 4) then 2 else 1) := by
  rw [State.bar0Write, if_neg h4, if_neg h8]
  split <;> rfl

/-! ### Refusals -/

theorem refuse_get (s : State) (off reason : Nat) {o : Nat} (h : o ≠ F.STP_CNT_REFUSED) (k : o ≠ F.STP_LAST_REFUSED) :
    (s.refuse off reason).regs.get o = s.regs.get o := by
  rw [State.refuse, put_get _ F.STP_LAST_REFUSED_REASON _ k, put_get _ F.STP_LAST_REFUSED_OFFSET _ k,
    bump_get _ C.STP_CNT_REFUSED h]

theorem refuse_g (s : State) (off reason : Nat) (f : Fld) (h : f.off ≠ F.STP_CNT_REFUSED) (k : f.off ≠ F.STP_LAST_REFUSED) :
    (s.refuse off reason).g f = s.g f := by
  rw [State.g, refuse_get s off reason h k, State.g]

/-- A refusal is counted (R87). -/
theorem refuse_count (s : State) (off reason : Nat) :
    (s.refuse off reason).ctr C.STP_CNT_REFUSED = C.STP_CNT_REFUSED.plus (s.ctr C.STP_CNT_REFUSED) 1 := by
  rw [State.refuse, ctr_put_off _ F.STP_LAST_REFUSED_REASON _ _ (by decide),
    ctr_put_off _ F.STP_LAST_REFUSED_OFFSET _ _ (by decide), ctr_bump s C.STP_CNT_REFUSED (by decide) (by decide)]

/-- A refusal is recorded with its offset (R91). -/
theorem refuse_offset (s : State) (off reason : Nat) :
    (s.refuse off reason).g F.STP_LAST_REFUSED_OFFSET = off % 0x100000 := by
  rw [State.refuse, g_put_apart _ F.STP_LAST_REFUSED_REASON _ _ (by decide) (by decide) (by decide)]
  exact g_put_same _ F.STP_LAST_REFUSED_OFFSET _ (by decide) (by decide)

/-- A refusal is recorded with its reason (R91). -/
theorem refuse_reason (s : State) (off reason : Nat) :
    (s.refuse off reason).g F.STP_LAST_REFUSED_REASON = reason % 16 :=
  g_put_same _ F.STP_LAST_REFUSED_REASON _ (by decide) (by decide)

theorem traffic_refuse_regs (s : State) (off reason : Nat) :
    sameRegs [F.STP_CNT_REFUSED, F.STP_LAST_REFUSED, F.PCI_LINK] s (s.traffic.refuse off reason) := by
  intro o ho
  simp only [List.mem_cons, List.not_mem_nil, or_false, not_or] at ho
  obtain ⟨hc, hl, hp⟩ := ho
  rw [refuse_get _ _ _ hc hl, traffic_get s hp]

theorem traffic_refuse_pcie (s : State) (off reason : Nat) :
    (s.traffic.refuse off reason).pcie = { s.pcie with lastTraffic := s.now } :=
  ((refuse_same (m := 144) rfl (Same.refl _ _)).pcie rfl).trans (traffic_pcie s)

theorem traffic_refuse_eq (s : State) (off reason : Nat) :
    s.traffic.refuse off reason =
      { s with regs := (s.traffic.refuse off reason).regs, moment := (s.traffic.refuse off reason).moment
               pcie := { s.pcie with lastTraffic := s.now }, agenda := (s.traffic.refuse off reason).agenda } :=
  (refuse_same rfl (traffic_fields s)).eq_of_traffic (traffic_refuse_pcie s off reason)

/-! ### Single registers -/

/-- The rows of `ARC_WEAR_SEL` and `EJP_PULSE_MAX` in the address map (R597). -/
def wearSelRow : RegRow := ⟨.ARC_WEAR_SEL, 0x4C030, [], [⟨15, 0, .rw, .live, .none, []⟩]⟩
def pulseMaxRow : RegRow := ⟨.EJP_PULSE_MAX, 0x20010, [], [⟨25, 0, .rw, .live, .b, []⟩]⟩

theorem regAt_wearSel : regAt 0x4C030 = some (wearSelRow, []) := by decide
theorem regAt_pulseMax : regAt 0x20010 = some (pulseMaxRow, []) := by decide

/-- `ARC_WEAR_SEL` takes what is written to it. -/
theorem writeReg_wearSel (s : State) (v : Nat) :
    s.writeReg wearSelRow [] 0x4C030 v = s.put F.ARC_WEAR_SEL_BLOCK (v / 2 ^ 0 % 2 ^ 16) := rfl

/-- A write of `EJP_PULSE_MAX` above its ceiling is refused with reason 4 (R81, R82). -/
theorem writeReg_pulseMax_above {s : State} {v : Nat} (h : s.g F.STP_CEIL_PULSE_TICKS < v % 2 ^ 26) :
    s.writeReg pulseMaxRow [] 0x20010 v = s.refuse 0x20010 4 :=
  if_pos (decide_eq_true h)

/-- A field written by a request changes its register and nothing else beyond the traffic. -/
theorem traffic_put_eq (s : State) (f : Fld) (v : Nat) :
    s.traffic.put f v =
      { s with regs := (s.traffic.put f v).regs, pcie := { s.pcie with lastTraffic := s.now }
               agenda := (s.traffic.put f v).agenda } := by
  have h : Same 2066 s (s.traffic.put f v) := put_same rfl (traffic_same rfl (Same.refl _ _))
  have e := (h.mono rfl).eq_of_traffic (traffic_pcie s)
  rwa [h.moment rfl] at e

theorem wearSel_written {s : State} (h : s.served = true) (v : Nat) :
    s.traffic.bar0Write 0x4C030 4 v = s.traffic.put F.ARC_WEAR_SEL_BLOCK (v % 2 ^ 16) := by
  rw [bar0Write_of_regAt rfl rfl (answers_of_served h _) regAt_wearSel, writeReg_wearSel, Nat.pow_zero, Nat.div_one,
    Nat.mod_mod_of_dvd v (by decide : 2 ^ 16 ∣ 2 ^ 32)]

theorem pulseMax_refused {s : State} {v : Nat} (h : s.served = true) (hv : s.g F.STP_CEIL_PULSE_TICKS < v % 2 ^ 26) :
    s.traffic.bar0Write 0x20010 4 v = s.traffic.refuse 0x20010 4 := by
  rw [bar0Write_of_regAt rfl rfl (answers_of_served h _) regAt_pulseMax, writeReg_pulseMax_above]
  rwa [traffic_g s _ (by decide), Nat.mod_mod_of_dvd _ (by decide)]

/-! ### Requests not served -/

/-- An unsupported request is an error of the link, counted (R536, R550). -/
theorem unsupported_count (s : State) :
    (s.unsupported false).ctr C.PCI_CNT_UNCORR = C.PCI_CNT_UNCORR.plus (s.ctr C.PCI_CNT_UNCORR) 1 :=
  ctr_bump _ C.PCI_CNT_UNCORR (by decide) (by decide)

theorem unsupported_get (s : State) {o : Nat} (h : o ≠ C.PCI_CNT_UNCORR.off) :
    (s.unsupported false).regs.get o = s.regs.get o := bump_get _ C.PCI_CNT_UNCORR h

/-- Settles O17: each write is brought to what it leaves after the traffic it is, a field put (R18), a refusal (R87, R91)
or an unsupported request (R548). -/
theorem hostRegisterWrites : Obligations.HostRegisterWrites := by
  intro s
  refine ⟨fun v hs => ?_, fun off size v hs h4 h8 => ?_, fun v hs hv => ?_, fun off size v hr hy hm => ?_⟩
  · refine ⟨_, exec_registerWrite_of_served hs 0x4C030 4 v, ?_⟩
    rw [wearSel_written hs]
    refine ⟨?_, ?_, ?_⟩
    · rw [g_put_same _ F.ARC_WEAR_SEL_BLOCK _ (by decide) (by decide)]
      exact Nat.mod_mod _ _
    · intro o ho
      simp only [List.mem_cons, List.not_mem_nil, or_false, not_or] at ho
      rw [put_get _ F.ARC_WEAR_SEL_BLOCK _ ho.1, traffic_get s ho.2]
    · exact traffic_put_eq s _ _
  · refine ⟨_, exec_registerWrite_of_served hs off size v, ?_⟩
    rw [bar0Write_of_misfit _ v h4 h8, traffic_named]
    refine ⟨?_, ?_, ?_, traffic_refuse_regs s _ _, traffic_refuse_eq ..⟩
    · rw [refuse_count, traffic_ctr s _ (by decide)]
    · rw [refuse_offset, Nat.mod_mod]
    · rw [refuse_reason]
      split <;> rfl
  · refine ⟨_, exec_registerWrite_of_served hs 0x20010 4 v, ?_⟩
    rw [pulseMax_refused hs hv]
    refine ⟨?_, ?_, refuse_offset .., refuse_reason .., traffic_refuse_regs s _ _, traffic_refuse_eq ..⟩
    · rw [refuse_g _ _ _ _ (by decide) (by decide), traffic_g s _ (by decide)]
    · rw [refuse_count, traffic_ctr s _ (by decide)]
  · refine ⟨_, exec_registerWrite_of_reached hr hy off size v, ?_⟩
    rw [hm, if_neg Bool.false_ne_true]
    refine ⟨?_, ?_, ?_⟩
    · rw [unsupported_count, traffic_ctr s _ (by decide)]
    · intro o ho
      simp only [List.mem_cons, List.not_mem_nil, or_false, not_or] at ho
      rw [unsupported_get _ ho.1, traffic_get s ho.2]
    · exact (unsupported_same rfl (traffic_fields s)).eq_of_request

end Sys2Proof.Machine
end

section
/-! PROOF. The passage of time on an empty queue (log entry 1; R10, R59 to R61), O2. -/

namespace Sys2Proof.Machine

theorem step_of_empty {s : State} (h : s.pending = []) : step s = .next s.idle := by
  simp only [step, h]

theorem idle_of_due {s : State} (h : (s.agenda.any fun e => decide (e.1 ≤ s.now)) = true) : s.idle = s.callDue := if_pos h

theorem idle_of_none_due {s : State} (h : (s.agenda.any fun e => decide (e.1 ≤ s.now)) = false) : s.idle = s.tick :=
  if_neg (by simp only [h, Bool.false_eq_true, not_false_eq_true])

/-- What the end of a tick may change (R441, R448, R498, R203). -/
theorem tickEnd_sameFields (s : State) : Same 417796338 s s.tickEnd := tickEnd_same rfl (Same.refl _ _)

theorem tick_newel (s : State) : s.tick.newel = s.newel.tick := congrArg Newel.tick ((tickEnd_sameFields s).newel rfl)

theorem tick_now (s : State) : s.tick.now = s.now + 1 := congrArg (· + 1) ((tickEnd_sameFields s).now rfl)

/-- A tick leaves alone what the block stores in the Store, the Archive, the Hall, the link and the galleries. -/
theorem tick_eq (s : State) :
    s.tick = { s with agenda := s.tick.agenda, now := s.tick.now, regs := s.tick.regs, eff := s.tick.eff,
                      late := s.tick.late, moment := s.tick.moment, newel := s.tick.newel, strobes := s.tick.strobes,
                      cams := s.tick.cams, placed := s.tick.placed, notices := s.tick.notices, pipes := s.tick.pipes,
                      joins := s.tick.joins, planner := s.tick.planner, pio := s.tick.pio, usher := s.tick.usher } :=
  congrArg (fun u : State => { u with now := s.tick.now, newel := s.tick.newel, agenda := s.tick.agenda })
    (tickEnd_sameFields s).eq_of

theorem Newel.tick_phase (x : Newel) : x.tick.phase = x.phase := by
  unfold Newel.tick
  split
  · rfl
  · rfl
  · split <;> rfl
  · rfl

/-- While NEWEL_TIME counts ticks, derived or its own, it advances by 1 (R59). -/
theorem Newel.tick_time_counting {x : Newel} (h : x.counting = .ticks ∨ x.counting = .own) : x.tick.time = x.time + 1 := by
  rcases h with h | h <;> rw [Newel.tick, h]

theorem Newel.tick_time_held {x : Newel} (h : x.counting = .held) : x.tick.time = x.time := by
  rw [Newel.tick, h]

/-- While NEWEL_TIME counts reference cycles, it advances by 15 with every fifteenth tick (R60). -/
theorem Newel.tick_time_refCycles {x : Newel} (h : x.counting = .refCycles) :
    x.tick.time = x.time + (if x.refTicks = 14 then 15 else 0) := by
  simp only [Newel.tick, h]
  split <;> rfl

/-- Settles O2: an empty queue idles, and idling calls the due events or lets one tick pass (log entry 1). -/
theorem emptyQueueIdles : Obligations.EmptyQueueIdles := by
  intro s
  refine ⟨fun hp hd => ⟨s.callDue, ?_, ?_⟩, fun hp hd => ⟨s.tick, ?_, tick_now s, ?_⟩⟩
  · rw [step_of_empty hp, idle_of_due hd]
  · rw [State.callDue, hp, List.nil_append]
  · rw [step_of_empty hp, idle_of_none_due hd]
  · refine ⟨?_, ?_, ?_, ?_, tick_eq s⟩ <;> rw [tick_newel]
    · exact Newel.tick_time_counting
    · exact Newel.tick_time_held
    · exact Newel.tick_time_refCycles
    · exact Newel.tick_phase _

end Sys2Proof.Machine
end

section
/-! PROOF. What power-on reset leaves (R23, R563, R573), O8. -/

namespace Sys2Proof.Machine

theorem resetRegs_wf : Regs.wf resetRegs = true := by decide +kernel

/-- Every memory is in its canonical form after reset: the register files hold their Reset columns, the rest is empty. -/
theorem reset_memWf : State.reset.memWf = true := by
  show (Regs.wf resetRegs && Regs.wf resetEff && true && true && true && true) = true
  simp only [resetRegs_wf, resetEff_wf, Bool.and_self]

/-- Settles O8: every part is a value of the one state `State.reset`. -/
theorem resetValues : Obligations.ResetValues := by
  refine ⟨rfl, rfl, reset_memWf, rfl, rfl, ?_, ?_, ?_, ?_, ?_, ?_, ?_⟩
  all_goals decide +kernel

end Sys2Proof.Machine
end

section
/-! PROOF. The Newel's lock sequence (R44 to R48, R59 to R61), O14. -/

namespace Sys2Proof.Machine

/-! ### Registers through a run of updates -/

theorem g_of_regs {s t : State} (h : t.regs = s.regs) (f : Fld) : t.g f = s.g f := by rw [State.g, h, State.g]

theorem g_of_get {s t : State} {f : Fld} (h : t.regs.get f.off = s.regs.get f.off) : t.g f = s.g f := by
  rw [State.g, h, State.g]

section
variable {l : List Nat} {s t : State}

theorem sameRegs_refl (l : List Nat) (s : State) : sameRegs l s s := fun _ _ => rfl

theorem sameRegs_of_regs (h : t.regs = s.regs) : sameRegs l s t := fun _ _ => by rw [h]

theorem sameRegs_put {f : Fld} (v : Nat) (hf : f.off ∈ l) (h : sameRegs l s t) : sameRegs l s (t.put f v) := fun o ho =>
  (put_get t f v (ne_of_mem_of_not_mem hf ho).symm).trans (h o ho)

theorem sameRegs_bump {c : Ctr} (hc : c.off ∈ l) (h : sameRegs l s t) : sameRegs l s (t.bump c) := fun o ho =>
  (bump_get t c (ne_of_mem_of_not_mem hc ho).symm).trans (h o ho)

theorem sameRegs_setBit {f : Fld} (i : Nat) (hf : f.off ∈ l) (h : sameRegs l s t) : sameRegs l s (t.setBit f i) :=
  fun o ho => (setBit_get t f i (ne_of_mem_of_not_mem hf ho).symm).trans (h o ho)

theorem sameRegs_notice {c : Nat} (u : Nat) (p : List Nat) (hc : (C.USH_CNT_NQ_LOST (ringOf c)).off ∈ l)
    (h : sameRegs l s t) : sameRegs l s (t.notice c u p) := fun o ho =>
  (notice_get t c u p (ne_of_mem_of_not_mem hc ho).symm).trans (h o ho)

end

/-! ### The lock sequence (R44, R46, R48) -/

/-- The registers of a lock sequence as it starts: the mode held for it, LOCKED 0, and boot stage 2 where a full reset
waits for it (R44, R98, R113). -/
def State.lockFields (s : State) : State :=
  let s := if s.boot.resetAtLock then s.put F.PWR_BOOT_STATUS_STAGE 2 else s
  (s.put F.NWL_STATUS_REFMODE (s.g F.NWL_REFMODE_NEXT_MODE)).put F.NWL_STATUS_LOCKED 0

theorem lockFields_same (s : State) : Same 16 s s.lockFields :=
  put_same rfl (put_same rfl (same_ite (put_same rfl (Same.refl _ _)) (Same.refl _ _)))

theorem lockFields_sameRegs (s : State) : sameRegs [F.NWL_STATUS, F.PWR_BOOT_STATUS] s s.lockFields := by
  refine sameRegs_put _ (by decide) (sameRegs_put _ (by decide) ?_)
  split
  · exact sameRegs_put _ (by decide) (sameRegs_refl _ _)
  · exact sameRegs_refl _ _

theorem lockFields_refmode (s : State) : s.lockFields.g F.NWL_STATUS_REFMODE = s.g F.NWL_REFMODE_NEXT_MODE := by
  have fits : s.g F.NWL_REFMODE_NEXT_MODE < 2 ^ 2 := Nat.mod_lt _ (by decide)
  have held : ∀ t : State, t.regs.get F.NWL_REFMODE_NEXT = s.regs.get F.NWL_REFMODE_NEXT →
      ((t.put F.NWL_STATUS_REFMODE (t.g F.NWL_REFMODE_NEXT_MODE)).put F.NWL_STATUS_LOCKED 0).g F.NWL_STATUS_REFMODE =
        s.g F.NWL_REFMODE_NEXT_MODE := fun t h => by
    rw [g_put_apart _ F.NWL_STATUS_LOCKED _ _ (by decide) (by decide) (by decide),
      g_put_same _ F.NWL_STATUS_REFMODE _ (by decide) (by decide), g_of_get (f := F.NWL_REFMODE_NEXT_MODE) h]
    exact Nat.mod_eq_of_lt fits
  refine held _ ?_
  split
  · exact put_get s F.PWR_BOOT_STATUS_STAGE 2 (by decide)
  · rfl

theorem lockFields_locked (s : State) : s.lockFields.g F.NWL_STATUS_LOCKED = 0 :=
  g_put_same _ F.NWL_STATUS_LOCKED 0 (by decide) (by decide)

theorem lockFields_stage (s : State) : s.lockFields.stage = if s.boot.resetAtLock then 2 else s.stage := by
  rw [State.stage, State.lockFields, g_put_off _ F.NWL_STATUS_LOCKED _ _ (by decide),
    g_put_off _ F.NWL_STATUS_REFMODE _ _ (by decide)]
  split
  · exact g_put_same s F.PWR_BOOT_STATUS_STAGE 2 (by decide) (by decide)
  · rfl

theorem lockStart_of_ref {s : State} (h : s.newel.refPresent = true) : s.lockStart = s.lockFields.beginSettle := by
  have hr : s.lockFields.newel.refPresent = true := by rw [(lockFields_same s).newel rfl, h]
  exact if_pos hr

theorem lockStart_of_no_ref {s : State} (h : s.newel.refPresent = false) :
    s.lockStart = s.lockFields.lockQuiet.modNewel fun x => { x with phase := .settle, phaseEnd := s.now } := by
  have hr : ¬ s.lockFields.newel.refPresent = true := by rw [(lockFields_same s).newel rfl, h]; decide
  have hn : s.lockFields.now = s.now := (lockFields_same s).now rfl
  rw [← hn]
  exact if_neg hr

/-- What the start of a lock sequence leaves in the registers, with the reference or without it. -/
theorem lockStart_regs (s : State) : s.lockStart.regs = s.lockFields.regs := by
  cases h : s.newel.refPresent
  · rw [lockStart_of_no_ref h]; rfl
  · rw [lockStart_of_ref h]; rfl

theorem lockStart_fields (s : State) :
    s.lockStart.g F.NWL_STATUS_REFMODE = s.g F.NWL_REFMODE_NEXT_MODE ∧ s.lockStart.g F.NWL_STATUS_LOCKED = 0 ∧
      s.lockStart.stage = if s.boot.resetAtLock then 2 else s.stage := by
  refine ⟨?_, ?_, ?_⟩
  · rw [g_of_regs (lockStart_regs s), lockFields_refmode]
  · rw [g_of_regs (lockStart_regs s), lockFields_locked]
  · rw [State.stage, g_of_regs (lockStart_regs s), ← State.stage, lockFields_stage]

theorem lockStart_sameRegs (s : State) : sameRegs [F.NWL_STATUS, F.PWR_BOOT_STATUS] s s.lockStart := fun o ho => by
  rw [lockStart_regs, lockFields_sameRegs s o ho]

theorem beginSettle_newel (s : State) :
    s.beginSettle.newel = { s.newel with phase := .settle, phaseEnd := s.now + (15360 + s.newel.toEdge) } := rfl

theorem beginSettle_awaits_bandSearch (s : State) :
    (s.now + (15360 + s.newel.toEdge), Instr.bandSearch) ∈ s.beginSettle.agenda :=
  List.mem_append_right _ (List.mem_singleton.mpr rfl)

theorem exec_lockSequence {s : State} (h : s.newel.phase = .off) (hp : s.boot.powered = true) :
    exec .lockSequence s = .next s.lockStart := congrArg Host.Outcome.next (if_pos ⟨h, hp⟩)

section
variable {s : State} (hr : s.newel.refPresent = true) (he : s.newel.phaseEnd ≤ s.now)
include hr he

theorem bandSearch_of_settle (hp : s.newel.phase = .settle) :
    s.bandSearch = (s.modNewel fun x => { x with phase := .band, phaseEnd := s.now + 153600 }).after 153600 .bandSearch := by
  simp only [State.bandSearch, hr, hp, Nat.not_lt.mpr he, decide_false, Bool.not_true, Bool.or_self, Bool.false_eq_true,
    if_false]

theorem bandSearch_of_band (hp : s.newel.phase = .band) :
    s.bandSearch = (((s.free 32).2.put F.NWL_STATUS_BAND (Config.freeNat s.freeCount % 32)).modNewel fun x =>
      { x with phase := .lockCount, phaseEnd := s.now + 983040 }).after 983040 .lockDeclared := by
  simp only [State.bandSearch, hr, hp, Nat.not_lt.mpr he, decide_false, Bool.not_true, Bool.or_self, Bool.false_eq_true,
    if_false]
  rfl

theorem exec_lockDeclared (hp : s.newel.phase = .lockCount) : exec .lockDeclared s = .next s.locked.afterLock :=
  congrArg Host.Outcome.next (if_pos ⟨hp, hr, he⟩)

end

theorem lockRestart_of_sequence {s : State} (h : s.newel.refPresent = false)
    (hp : s.newel.phase = .band ∨ s.newel.phase = .lockCount ∨ s.newel.phase = .settle) :
    s.lockRestart = (s.modNewel fun x => { x with refPresent := true }).beginSettle := by
  rcases hp with hp | hp | hp <;> simp only [State.lockRestart, h, hp, Bool.false_eq_true, if_false]

theorem lockRestart_of_other {s : State} (h : s.newel.refPresent = false)
    (hp : ¬(s.newel.phase = .band ∨ s.newel.phase = .lockCount ∨ s.newel.phase = .settle)) :
    s.lockRestart = s.modNewel fun x => { x with refPresent := true } := by
  simp only [State.lockRestart, h, Bool.false_eq_true, if_false]
  split
  next e => exact absurd (.inr (.inr e)) hp
  next e => exact absurd (.inl e) hp
  next e => exact absurd (.inr (.inl e)) hp
  next => rfl

/-! ### Lock declared (R47, R59 to R61) -/

theorem locked_newel (s : State) :
    s.locked.newel = { s.newel with phase := .locked, counting := .ticks, everLocked := true, refTicks := 0,
                                    time := if s.newel.everLocked then s.newel.time else 0 } := by
  unfold State.locked
  dsimp only
  split <;> split <;> rfl

theorem locked_regs (s : State) :
    s.locked.regs =
      (((if s.newel.counting == .held && s.newel.everLocked then
          s.put F.NWL_TIME_EPOCH_EPOCH (s.g F.NWL_TIME_EPOCH_EPOCH + 1) else s).put
        F.NWL_STATUS_LOCKED 1).put F.NWL_STATUS_HOLDOVER 0).regs := by
  unfold State.locked
  dsimp only
  split <;> split <;> rfl

theorem locked_g_locked (s : State) : s.locked.g F.NWL_STATUS_LOCKED = 1 := by
  rw [g_of_regs (locked_regs s), g_put_apart _ F.NWL_STATUS_HOLDOVER _ _ (by decide) (by decide) (by decide)]
  exact g_put_same _ F.NWL_STATUS_LOCKED 1 (by decide) (by decide)

theorem locked_g_holdover (s : State) : s.locked.g F.NWL_STATUS_HOLDOVER = 0 := by
  rw [g_of_regs (locked_regs s)]
  exact g_put_same _ F.NWL_STATUS_HOLDOVER 0 (by decide) (by decide)

/-- A stretch of NEWEL_TIME begins only where the count was held (R61). -/
theorem locked_g_epoch (s : State) :
    s.locked.g F.NWL_TIME_EPOCH_EPOCH =
      if s.newel.counting = .held ∧ s.newel.everLocked then (s.g F.NWL_TIME_EPOCH_EPOCH + 1) % 65536
      else s.g F.NWL_TIME_EPOCH_EPOCH := by
  rw [g_of_regs (locked_regs s), g_put_off _ F.NWL_STATUS_HOLDOVER _ _ (by decide),
    g_put_off _ F.NWL_STATUS_LOCKED _ _ (by decide)]
  simp only [Bool.and_eq_true, beq_iff_eq]
  split
  · exact g_put_same s F.NWL_TIME_EPOCH_EPOCH _ (by decide) (by decide)
  · rfl

theorem locked_sameRegs (s : State) : sameRegs [F.NWL_STATUS, F.NWL_TIME_EPOCH] s s.locked := by
  intro o ho
  rw [locked_regs]
  refine sameRegs_put _ (by decide) (sameRegs_put _ (by decide) ?_) o ho
  split
  · exact sameRegs_put _ (by decide) (sameRegs_refl _ _)
  · exact sameRegs_refl _ _

/-! ### What goes on after lock leaves the loop locked (R74, R98, R113, R137) -/

/-- `t` has the Newel of `s` but for a commit, and the lock that `NWL_STATUS` shows is the same. -/
structure SameLock (s t : State) : Prop where
  newel : { t.newel with commitAt := none } = { s.newel with commitAt := none }
  locked : t.g F.NWL_STATUS_LOCKED = s.g F.NWL_STATUS_LOCKED
  holdover : t.g F.NWL_STATUS_HOLDOVER = s.g F.NWL_STATUS_HOLDOVER

theorem SameLock.refl (s : State) : SameLock s s := ⟨rfl, rfl, rfl⟩

theorem SameLock.trans {s t u : State} (h : SameLock s t) (k : SameLock t u) : SameLock s u :=
  ⟨k.newel.trans h.newel, k.locked.trans h.locked, k.holdover.trans h.holdover⟩

/-- An operation that leaves the Newel and `NWL_STATUS` alone leaves the lock as it is. -/
theorem SameLock.of_get {s t : State} (hn : t.newel = s.newel) (hr : t.regs.get F.NWL_STATUS = s.regs.get F.NWL_STATUS) :
    SameLock s t := ⟨by rw [hn], g_of_get hr, g_of_get hr⟩

theorem SameLock.put {s : State} {f : Fld} (v : Nat) (h : f.off ≠ F.NWL_STATUS) : SameLock s (s.put f v) :=
  .of_get rfl (put_get s f v h.symm)

theorem arcFinish_sameLock (s : State) : SameLock s s.arcFinish := by
  have h : Same 23622320128 s s.arcFinish := arcFinish_same rfl (Same.refl _ _)
  exact .of_get (h.newel rfl) (by rw [h.regs rfl])

theorem gregFail_get (s : State) (p : Greg → Bool) {o : Nat} (h : o ≠ F.HLK_GREG_STATUS) :
    (s.gregFail p).regs.get o = s.regs.get o := by
  unfold State.gregFail
  dsimp only
  split
  · rw [put_get _ F.HLK_GREG_STATUS_BUSY _ h, setBit_get _ F.HLK_GREG_STATUS_FAIL _ h]; rfl
  · rfl

theorem stopCycles_sameLock (s : State) (cut : Bool) : SameLock s (s.stopCycles cut) :=
  .of_get ((stopCycles_same (m := 16777360) rfl (Same.refl _ _)).newel rfl) (gregFail_get _ _ (by decide))

theorem strapLimits_sameLock (s : State) : SameLock s s.strapLimits := by
  refine .of_get ((strapLimits_same (m := 48) rfl (Same.refl _ _)).newel rfl) ?_
  simp (disch := decide) only [State.strapLimits, overIdx, put_get, setEff_regs]

theorem sget_filter_kept {α : Type} (d : Nat → α) (keep : Nat → Bool) (m : List (Nat × α)) {k : Nat} (h : keep k = true) :
    sget d (m.filter fun x => keep x.1) k = sget d m k := by
  induction m with
  | nil => rfl
  | cons c m ih =>
    obtain ⟨a, v⟩ := c
    by_cases ha : keep a = true
    · rw [List.filter_cons_of_pos (by exact ha), sget, sget, ih]
    · have hk : k ≠ a := fun e => ha (e ▸ h)
      rw [List.filter_cons_of_neg (by exact ha), ih, sget, if_neg hk]

theorem get_foldl_set_other (l : List (Nat × Word)) (r : Regs) {o : Nat} (h : ∀ x ∈ l, x.1 ≠ o) :
    Regs.get (l.foldl (fun r x => Regs.set r x.1 x.2) r) o = r.get o := by
  induction l generalizing r with
  | nil => rfl
  | cons x l ih =>
    rw [List.foldl_cons, ih _ fun y hy => h y (List.mem_cons_of_mem _ hy),
      Regs.get_set_other r x.2 (h x List.mem_cons_self).symm]

/-- A register that a reset keeps reads as before. -/
theorem regsReset_get (s : State) {keep : Nat → Bool} {o : Nat} (h : keep o = true) :
    (s.regsReset keep).regs.get o = s.regs.get o := by
  refine (get_foldl_set_other _ _ fun x hx e => ?_).trans (sget_filter_kept zeroWord keep s.regs h)
  obtain ⟨-, hx⟩ := List.mem_filter.mp hx
  rw [e, h] at hx
  exact absurd hx (by decide)

theorem restart_get (s : State) {keep : Nat → Bool} {o : Nat} (h : keep o = true) (ho : o ≠ F.ARC_ROLLBACK) :
    (s.restart keep).regs.get o = s.regs.get o :=
  (put_get _ F.ARC_ROLLBACK_COUNT _ ho).trans (regsReset_get _ h)

theorem commit_sameLock (s : State) (h : s.newel.commitAt = none) : SameLock s s.commit := by
  have he : s.commitEpoch = s := by rw [State.commitEpoch, h]
  have hc : s.commit = ((s.modNewel fun x => { x with commitAt := some s.time }).put F.NWL_STATUS_COMMIT_PENDING
      1).commitNext s.time := by rw [State.commit, he, h]
  rw [hc]
  refine ⟨rfl, ?_, ?_⟩
  · exact g_put_apart _ F.NWL_STATUS_COMMIT_PENDING _ _ (by decide) (by decide) (by decide)
  · exact g_put_apart _ F.NWL_STATUS_COMMIT_PENDING _ _ (by decide) (by decide) (by decide)

theorem beginTraining_sameLock (s : State) : SameLock s s.beginTraining :=
  .of_get rfl (put_get s F.PWR_BOOT_STATUS_STAGE _ (by decide))

theorem pcieFree_sameLock (s : State) : SameLock s s.pcieFree := by
  unfold State.pcieFree
  split
  · exact .put _ (by decide)
  · exact .refl s

theorem SameLock.phase {s t : State} (h : SameLock s t) : t.newel.phase = s.newel.phase :=
  (Newel.mk.inj h.newel).1

/-- What a full reset counts leaves the lock as it is: `SNAP_SEQ` is another field of `NWL_STATUS` (R112). -/
theorem countFull_sameLock (s : State) : SameLock s ((s.put F.NWL_STATUS_SNAP_SEQ 0).bump C.PWR_CNT_FULL) := by
  have put : SameLock s (s.put F.NWL_STATUS_SNAP_SEQ 0) :=
    ⟨by rw [put_newel], g_put_apart s F.NWL_STATUS_SNAP_SEQ _ _ (by decide) (by decide) (by decide),
      g_put_apart s F.NWL_STATUS_SNAP_SEQ _ _ (by decide) (by decide) (by decide)⟩
  exact put.trans (.of_get (bump_newel _ _) (bump_get _ C.PWR_CNT_FULL (by decide)))

theorem commitNext_sameLock (s : State) (w : Nat) : SameLock s (s.commitNext w) := .of_get rfl rfl

/-- A full reset out of lock keeps it: the loop is the one part of the head that does not start over (R112, Table 4.3A). -/
theorem fullReset_sameLock {s : State} (h : s.newel.phase = .locked) : SameLock s s.fullReset := by
  unfold State.fullReset
  extract_lets a t b r u v
  have ha : SameLock s a := (stopCycles_sameLock s true).trans (arcFinish_sameLock _)
  have kept : t.regs.get F.NWL_STATUS = a.regs.get F.NWL_STATUS :=
    restart_get (keep := fullKeeps) a (by decide) (by decide)
  have hr : SameLock a r := .of_get rfl kept
  have hu : SameLock r u := (countFull_sameLock r).trans (strapLimits_sameLock _)
  have hv : SameLock u v := by
    cases e : u.newel.commitAt with
    | none =>
      have : v = u.commit := by simp only [v, e]
      rw [this]
      exact commit_sameLock u e
    | some w =>
      have : v = u.commitNext w := by simp only [v, e]
      rw [this]
      exact commitNext_sameLock u w
  rw [if_pos (ha.phase.trans h)]
  exact (((ha.trans hr).trans hu).trans hv).trans ((beginTraining_sameLock v).trans (pcieFree_sameLock _))

theorem afterLock_sameLock {s : State} (h : s.newel.phase = .locked) : SameLock s s.afterLock := by
  unfold State.afterLock
  split
  · exact fullReset_sameLock h
  split
  · have latch : SameLock s (if s.boot.latched then s else s.at_ (nextEdge 150 s.time) (.strapLatch [])) := by
      split
      · exact .refl s
      · exact .of_get rfl rfl
    exact latch.trans ((beginTraining_sameLock _).trans (pcieFree_sameLock _))
  split
  · exact .of_get rfl rfl
  · exact .refl s

theorem locked_stage (s : State) : s.locked.stage = s.stage := g_of_get (locked_sameRegs s _ (by decide))

theorem locked_stepPhase (s : State) : s.locked.phase = s.phase := g_of_get (locked_sameRegs s _ (by decide))

/-- Where nothing waits for the lock, nothing goes on (R74, R98, R113, R137). -/
theorem afterLock_of_none_waiting {s : State} (hb : s.boot.resetAtLock = false) (h2 : s.stage ≠ 2) (h5 : s.phase ≠ 5) :
    s.afterLock = s := by
  rw [State.afterLock, ← State.phase, if_neg (by rw [hb]; decide), if_neg h2, if_neg h5]

/-- Without a commit to fix anew, lock changes registers and the Newel. -/
theorem locked_same_of_no_commit {s : State} (h : s.newel.commitAt = none) : Same 272 s s.locked := by
  unfold State.locked
  extract_lets x held u v w
  have hv : Same 272 s v := same_ite (put_same rfl (modNewel_same rfl (Same.refl _ _))) (modNewel_same rfl (Same.refl _ _))
  have hw : Same 272 s w := put_same rfl (put_same rfl hv)
  have hc : w.newel.commitAt = none := by
    simp only [w, v, u, put_newel, ite_newel, modNewel_newel, h, ite_self]
  simp only [hc]
  exact hw

/-- Settles O14: each command is brought to the state it leaves; what goes on after a lock leaves it as declared. -/
theorem lockSequenceCommands : Obligations.LockSequenceCommands := by
  intro s
  have start_eq : s.lockStart = { s with regs := s.lockStart.regs, newel := s.lockStart.newel, agenda := s.lockStart.agenda } :=
    (lockStart_same (m := 274) rfl (Same.refl _ _)).eq_of
  obtain ⟨refmode, locked, stage⟩ := lockStart_fields s
  refine ⟨fun hp hb hr => ?_, fun hp hb hr => ?_, fun hr he hp => ?_, fun hr he hp => ?_, fun hr he hp => ?_,
    fun hr he hp hc hb h2 h5 => ?_, fun hr hp => ?_, fun hr hp => ?_⟩
  · have fields := lockFields_same s
    refine ⟨_, exec_lockSequence hp hb, ?_, refmode, locked, stage, ?_, lockStart_sameRegs s, start_eq⟩
    · rw [lockStart_of_ref hr, beginSettle_newel, fields.newel rfl, fields.now rfl]
    · have awaited := beginSettle_awaits_bandSearch s.lockFields
      rwa [← lockStart_of_ref hr, fields.newel rfl, fields.now rfl] at awaited
  · refine ⟨_, exec_lockSequence hp hb, ?_, refmode, locked, stage, lockStart_sameRegs s, start_eq⟩
    rw [lockStart_of_no_ref hr, modNewel_newel, State.lockQuiet, withdraw_newel, (lockFields_same s).newel rfl]
  · exact ⟨s.bandSearch, rfl, bandSearch_of_settle hr he hp⟩
  · refine ⟨s.bandSearch, rfl, ?_⟩
    rw [bandSearch_of_band hr he hp]
    refine ⟨rfl, ?_, ?_, sameRegs_put _ (by decide) (sameRegs_of_regs rfl), rfl⟩
    · rw [after_g, modNewel_g, g_put_same _ F.NWL_STATUS_BAND _ (by decide) (by decide)]
      exact Nat.mod_mod _ 32
    · exact List.mem_append_right _ (List.mem_singleton.mpr rfl)
  · have lock := afterLock_sameLock (s := s.locked) (by rw [locked_newel])
    have newel := lock.newel
    rw [locked_newel, Newel.mk.injEq] at newel
    obtain ⟨phase, -, time, counting, -, -, ever, -⟩ := newel
    exact ⟨_, exec_lockDeclared hr he hp, phase, counting, ever, time, lock.locked.trans (locked_g_locked s),
      lock.holdover.trans (locked_g_holdover s)⟩
  · refine ⟨s.locked, ?_, locked_newel s, locked_g_locked s, locked_g_holdover s, locked_g_epoch s, locked_sameRegs s,
      (locked_same_of_no_commit hc).eq_of⟩
    rw [exec_lockDeclared hr he hp, afterLock_of_none_waiting]
    · rwa [(locked_same_of_no_commit hc).boot rfl]
    · rwa [locked_stage]
    · rwa [locked_stepPhase]
  · refine ⟨s.lockRestart, rfl, ?_⟩
    rw [lockRestart_of_sequence hr hp]
    exact ⟨rfl, beginSettle_awaits_bandSearch _, rfl⟩
  · exact ⟨s.lockRestart, rfl, lockRestart_of_other hr hp⟩

end Sys2Proof.Machine
end

section
/-! PROOF. Loss of the reference and its return (R49, R51, R52), O15. -/

namespace Sys2Proof.Machine

/-- Holdover entered from lock, but for the notice of it (R49). -/
def State.holdoverEntered (s : State) : State :=
  let s := s.modNewel fun x => { x with refPresent := false, phase := .holdover }
  (((s.put F.NWL_STATUS_HOLDOVER 1).bump C.NWL_CNT_REF_LOSS).setBit F.NWL_FLAGS_REF_LOST 0).setBit
    F.NWL_FLAGS_HOLDOVER_ENTERED 0

theorem refLost_of_locked {s : State} (hr : s.newel.refPresent = true) (hp : s.newel.phase = .locked)
    (hc : s.newel.counting = .ticks) :
    s.refLost = s.holdoverEntered.notice 0x8510 0 [s.holdoverEntered.ctr C.NWL_CNT_REF_LOSS] := by
  simp only [State.refLost, State.holdoverEntered, State.modNewel, hr, hp, hc, Bool.not_true, Bool.false_eq_true,
    reduceCtorEq, if_false]

theorem holdoverEntered_newel (s : State) :
    s.holdoverEntered.newel = { s.newel with refPresent := false, phase := .holdover } := by
  rw [State.holdoverEntered, setBit_newel, setBit_newel, bump_newel, put_newel, modNewel_newel]

theorem holdoverEntered_holdover (s : State) : s.holdoverEntered.g F.NWL_STATUS_HOLDOVER = 1 := by
  rw [State.holdoverEntered, g_setBit_off _ F.NWL_FLAGS_HOLDOVER_ENTERED _ _ (by decide),
    g_setBit_off _ F.NWL_FLAGS_REF_LOST _ _ (by decide), g_bump_off _ C.NWL_CNT_REF_LOSS _ (by decide)]
  exact g_put_same _ F.NWL_STATUS_HOLDOVER 1 (by decide) (by decide)

theorem holdoverEntered_count (s : State) :
    s.holdoverEntered.ctr C.NWL_CNT_REF_LOSS = C.NWL_CNT_REF_LOSS.plus (s.ctr C.NWL_CNT_REF_LOSS) 1 := by
  rw [State.holdoverEntered, ctr_setBit_off _ F.NWL_FLAGS_HOLDOVER_ENTERED _ _ (by decide),
    ctr_setBit_off _ F.NWL_FLAGS_REF_LOST _ _ (by decide), ctr_bump _ _ (by decide) (by decide),
    ctr_put_off _ F.NWL_STATUS_HOLDOVER _ _ (by decide), modNewel_ctr]

theorem holdoverEntered_flags (s : State) :
    s.holdoverEntered.g F.NWL_FLAGS_REF_LOST = 1 ∧ s.holdoverEntered.g F.NWL_FLAGS_HOLDOVER_ENTERED = 1 := by
  refine ⟨?_, g_setBit_one _ F.NWL_FLAGS_HOLDOVER_ENTERED rfl (by decide)⟩
  rw [State.holdoverEntered, g_setBit_apart _ F.NWL_FLAGS_HOLDOVER_ENTERED _ _ (by decide) (by decide) (by decide)]
  exact g_setBit_one _ F.NWL_FLAGS_REF_LOST rfl (by decide)

theorem holdoverEntered_sameRegs (s : State) :
    sameRegs [F.NWL_STATUS, C.NWL_CNT_REF_LOSS.off, F.NWL_FLAGS, (C.USH_CNT_NQ_LOST 0).off] s s.holdoverEntered :=
  sameRegs_setBit _ (by decide) (sameRegs_setBit _ (by decide) (sameRegs_bump (by decide) (sameRegs_put _ (by decide)
    (sameRegs_of_regs rfl))))

theorem holdoverEntered_same (s : State) : Same 262546 s s.holdoverEntered :=
  setBit_same rfl (setBit_same rfl (bump_same rfl (put_same rfl (modNewel_same rfl (Same.refl _ _)))))

theorem reacquire_in_range {s : State} (h : s.newel.phase = .holdover) :
    s.reacquire true = (s.modNewel fun x => { x with refPresent := true, phase := .reacq, phaseEnd := s.now + 983040 }).after
      983040 .nwlReacquired := by
  rw [State.reacquire, if_neg (Classical.not_not.mpr h)]
  rfl

theorem reacquire_out_of_range {s : State} (h : s.newel.phase = .holdover) :
    s.reacquire false = ((s.modNewel fun x => { x with refPresent := true }).setBit F.NWL_FLAGS_REACQ_FAIL 0).notice 0x8511 0
      [s.g F.NWL_STATUS_BAND] := by
  rw [State.reacquire, if_neg (Classical.not_not.mpr h)]
  rfl

/-- The end of holdover, but for the notice of it (R51, R52). -/
def State.holdoverEnded (s : State) : State :=
  ((s.modNewel fun x => { x with phase := .locked }).put F.NWL_STATUS_HOLDOVER 0).bump C.NWL_CNT_REACQ

theorem reacquired_of_due {s : State} (h : s.newel.phase = .reacq) (he : s.newel.phaseEnd ≤ s.now) :
    s.reacquired = s.holdoverEnded.notice 0x0510 0 [s.holdoverEnded.ctr C.NWL_CNT_REACQ] :=
  if_neg (not_or.mpr ⟨Classical.not_not.mpr h, Nat.not_lt.mpr he⟩)

/-- The state that a notice of `code` raised at `t` leaves, where `t` differs from `s` in registers, Newel, agenda, notices
and what the tick has noted. -/
theorem notice_eq_of_same {s t : State} (code unit : Nat) (p : List Nat) (h : Same 262546 s t) :
    t.notice code unit p =
      { s with regs := (t.notice code unit p).regs, moment := (t.notice code unit p).moment
               newel := (t.notice code unit p).newel, notices := (t.notice code unit p).notices
               agenda := (t.notice code unit p).agenda } := (notice_same rfl h).eq_of

/-- Settles O15: each change of the reference is a run of updates and a notice, which none of them overlaps. -/
theorem referenceCommands : Obligations.ReferenceCommands := by
  intro s
  refine ⟨fun hr hp hc => ?_, fun hp => ?_, fun hp => ?_, fun hp he => ?_⟩
  · refine ⟨s.refLost, rfl, ?_⟩
    rw [refLost_of_locked hr hp hc]
    obtain ⟨lost, entered⟩ := holdoverEntered_flags s
    refine ⟨?_, ?_, ?_, ?_, ?_, ?_, ?_⟩
    · rw [notice_newel, holdoverEntered_newel]
    · rw [g_notice_off _ _ _ _ _ (by decide), holdoverEntered_holdover]
    · rw [ctr_notice_off _ _ _ _ _ (by decide), holdoverEntered_count]
    · rw [g_notice_off _ _ _ _ _ (by decide), lost]
    · rw [g_notice_off _ _ _ _ _ (by decide), entered]
    · exact sameRegs_notice _ _ (by decide) (holdoverEntered_sameRegs s)
    · exact notice_eq_of_same _ _ _ (holdoverEntered_same s)
  · exact ⟨s.reacquire true, rfl, reacquire_in_range hp⟩
  · refine ⟨s.reacquire false, rfl, ?_⟩
    rw [reacquire_out_of_range hp]
    refine ⟨?_, ?_, ?_, ?_⟩
    · rw [notice_newel, setBit_newel, modNewel_newel]
    · rw [g_notice_off _ _ _ _ _ (by decide)]
      exact g_setBit_one _ F.NWL_FLAGS_REACQ_FAIL rfl (by decide)
    · exact sameRegs_notice _ _ (by decide) (sameRegs_setBit _ (by decide) (sameRegs_of_regs rfl))
    · exact notice_eq_of_same _ _ _ (setBit_same rfl (modNewel_same rfl (Same.refl _ _)))
  · refine ⟨s.reacquired, rfl, ?_⟩
    rw [reacquired_of_due hp he]
    refine ⟨?_, ?_, ?_, ?_, ?_⟩
    · rw [notice_newel, State.holdoverEnded, bump_newel, put_newel, modNewel_newel]
    · rw [g_notice_off _ _ _ _ _ (by decide), State.holdoverEnded, g_bump_off _ C.NWL_CNT_REACQ _ (by decide)]
      exact g_put_same _ F.NWL_STATUS_HOLDOVER 0 (by decide) (by decide)
    · rw [ctr_notice_off _ _ _ _ _ (by decide), State.holdoverEnded, ctr_bump _ _ (by decide) (by decide),
        ctr_put_off _ F.NWL_STATUS_HOLDOVER _ _ (by decide), modNewel_ctr]
    · exact sameRegs_notice _ _ (by decide) (sameRegs_bump (by decide) (sameRegs_put _ (by decide) (sameRegs_of_regs rfl)))
    · exact notice_eq_of_same _ _ _ (bump_same rfl (put_same rfl (modNewel_same rfl (Same.refl _ _))))

end Sys2Proof.Machine
end

section
/-! PROOF. A captured edge and the readouts placed (R58, R63, R166, R187), O16. -/

namespace Sys2Proof.Machine

/-- An edge that no camera takes as its trigger is offered to both all the same, and so the readouts that have ended leave
the list of those placed (R166, R187). -/
theorem trigger_of_no_camera {s : State} {src : Nat} (t : Nat) (rising : Bool) (h0 : s.g (F.ARR_CAM_CTRL_TRIG_SRC 0) ≠ src)
    (h1 : s.g (F.ARR_CAM_CTRL_TRIG_SRC 1) ≠ src) :
    s.trigger src t rising = { s with placed := s.placed.filter fun p => decide (s.time < p.2) } := by
  have none : s.triggers 0 src rising = false ∧ s.triggers 1 src rising = false := by
    simp only [State.triggers, beq_eq_false_iff_ne.mpr h0, beq_eq_false_iff_ne.mpr h1, Bool.false_and, and_self]
  simp only [State.trigger, State.triggerBoth, none, Bool.false_eq_true, if_false]
  rfl

theorem capturePin_sameRegs (s : State) (t : Nat) :
    sameRegs [F.NWL_STATUS, F.NWL_SNAP_LO, F.NWL_SNAP_HI] s (s.capturePin t) := by
  intro o ho
  simp only [List.mem_cons, List.not_mem_nil, or_false, not_or] at ho
  obtain ⟨hs, hl, hh⟩ := ho
  exact (put_get (s.putPair F.NWL_SNAP_LO t) F.NWL_STATUS_SNAP_SEQ _ hs).trans (putPair_get s F.NWL_SNAP_LO t hl hh)

theorem capturePin_placed (s : State) (t : Nat) : (s.capturePin t).placed = s.placed :=
  (capturePin_same (m := 272) rfl (Same.refl _ _)).placed rfl

theorem capturePin_time (s : State) (t : Nat) : (s.capturePin t).time = s.time := by
  rw [State.capturePin, State.time, modNewel_newel, State.capture, put_newel, putPair_newel, State.time]

theorem capturePin_trigSrc (s : State) (t c : Nat) :
    (s.capturePin t).g (F.ARR_CAM_CTRL_TRIG_SRC c) = s.g (F.ARR_CAM_CTRL_TRIG_SRC c) := by
  have apart : F.ARR_CAM_CTRL c ∉ [F.NWL_STATUS, F.NWL_SNAP_LO, F.NWL_SNAP_HI] := by
    simp only [F.ARR_CAM_CTRL, F.NWL_STATUS, F.NWL_SNAP_LO, F.NWL_SNAP_HI, List.mem_cons, List.not_mem_nil,
      or_false, not_or]
    omega
  exact g_of_get (capturePin_sameRegs s t _ apart)

/-- What a rising edge at TRIG0 leaves of the readouts placed where it is captured and no camera takes it (R58, R63, R166). -/
theorem pinEdge_trig0_placed {s : State} (hc : s.newel.counting = .ticks) (hs : s.g F.NWL_CTRL_SNAP_SRC = 2)
    (h0 : s.g (F.ARR_CAM_CTRL_TRIG_SRC 0) ≠ 32) (h1 : s.g (F.ARR_CAM_CTRL_TRIG_SRC 1) ≠ 32) :
    (s.pinEdge 2 true).placed = s.placed.filter fun p => decide (s.time < p.2) := by
  have captured : s.pinEdge 2 true = (s.capturePin (s.time - 2)).trigger 32 (s.time - 2) true := by
    simp only [State.pinEdge, State.ticking, hc, hs]
    rw [if_neg (by decide), if_neg (by decide), if_pos ⟨trivial, by decide, trivial⟩]
  have kept (c : Nat) := capturePin_trigSrc s (s.time - 2) c
  rw [captured, trigger_of_no_camera _ _ (kept 0 ▸ h0) (kept 1 ▸ h1)]
  show (s.capturePin _).placed.filter _ = _
  rw [capturePin_placed, capturePin_time]

/-- A ticking machine at NEWEL_TIME 10,000 whose snapshots follow TRIG0, with a readout placed that ended on tick 5,000. -/
def State.trig0AfterReadout : State :=
  { State.reset with regs := [(F.NWL_CTRL, 0x20)], newel := { State.reset.newel with counting := .ticks, time := 10000 }
                     placed := [(0, 5000)] }

/-- Refutes O16: the last part says that a rising edge at TRIG0 changes registers and the Newel alone, but the edge is
offered to the cameras, which drops a readout that has ended from the list of those placed (R187). -/
theorem not_commitAndCapture : ¬ Obligations.CommitAndCapture := by
  intro h
  obtain ⟨-, -, -, -, pin⟩ := h State.trig0AfterReadout
  have source : State.trig0AfterReadout.g F.NWL_CTRL_SNAP_SRC = 2 := by decide
  have cam0 : State.trig0AfterReadout.g (F.ARR_CAM_CTRL_TRIG_SRC 0) ≠ 32 := by decide
  have cam1 : State.trig0AfterReadout.g (F.ARR_CAM_CTRL_TRIG_SRC 1) ≠ 32 := by decide
  obtain ⟨t, ht, -, -, -, same⟩ := pin rfl source cam0 cam1
  have run : State.trig0AfterReadout.pinEdge 2 true = t := Host.Outcome.next.inj ht
  have said : t.placed = [(0, 5000)] := by rw [same]; rfl
  have dropped : t.placed = [] := by rw [← run, pinEdge_trig0_placed rfl source cam0 cam1]; rfl
  exact absurd (said.symm.trans dropped) (by decide)

end Sys2Proof.Machine
end

section
/-! PROOF. A wake request at a station whose read frame has left it (R404, Table 13.10), O38. -/

namespace Sys2Proof.Machine

/-- A read frame that is to leave its station by now. -/
def ReadContent.left : ReadContent := ⟨0, 0, false, 0, 0, 0, 0, 0, 0⟩

/-- A gallery in station state 6, which Table 13.10 does not have, with a wake request and a read frame that has left it. -/
def State.wakeInState6 : State :=
  { State.reset with stations := [{ Station.idle with powered := true, regs := [(G.lnkState.off, 6)], wake := true
                                                      latched := some ReadContent.left }] }

/-- Only states 3 and 4 send a wake unit for the request (R404). -/
theorem frameSent_keeps_wake_in_state6 :
    (((State.wakeInState6.latchStation 0).frameSent 0).station 0).wake = true := by decide +kernel

/-- Refutes O38: where the read frame has left a station of state 3 or above, the statement has its wake request last in
state 5 alone, but in states 6 and 7, which the field can hold and Table 13.10 does not name, it lasts too. -/
theorem not_stationCycles : ¬ Obligations.StationCycles := by
  intro h
  obtain ⟨-, -, -, -, -, -, -, -, -, -, -, sent, -⟩ := h State.wakeInState6
  obtain ⟨t, ht, -, wake, -⟩ := sent 0 ReadContent.left (by decide) (by decide +kernel) (by decide +kernel) (by decide +kernel)
    rfl (by decide) (by decide +kernel)
  have run : (State.wakeInState6.latchStation 0).frameSent 0 = t := Host.Outcome.next.inj ht
  rw [← run, frameSent_keeps_wake_in_state6] at wake
  exact absurd wake (by decide +kernel)

end Sys2Proof.Machine
end

section
/-! PROOF. An 8-byte write of BAR 0 as two 4-byte writes (R88, R91), O5. -/

namespace Sys2Proof.Machine

theorem bar0Write_of_aligned4 (s : State) {off : Nat} (v : Nat) (h : off % 4 = 0) :
    s.bar0Write off 4 v = s.writeWord (off % 0x100000) (v % 2 ^ 32) := if_pos ⟨rfl, by omega⟩

/-- The lower half is written first (R91). -/
theorem bar0Write_of_aligned8 (s : State) {off : Nat} (d : Nat) (h : off % 8 = 0) :
    s.bar0Write off 8 d =
      (s.writeWord (off % 0x100000) (d % 2 ^ 32)).writeWord (off % 0x100000 + 4) (d / 2 ^ 32 % 2 ^ 32) := by
  rw [State.bar0Write, if_neg (by omega), if_pos ⟨rfl, by omega⟩]

/-- Settles O5: both sides write the same two words of BAR 0 in the same order; aligned, the upper one never wraps past
the end of BAR 0 (R88, R91). -/
theorem writeHalves : Obligations.WriteHalves := by
  intro s off d hs h8
  refine ⟨_, exec_registerWrite_of_served hs off 8 d, ?_⟩
  have upper : (off + 4) % 0x100000 = off % 0x100000 + 4 := by omega
  rw [bar0Write_of_aligned8 _ d h8, bar0Write_of_aligned4 _ _ (by omega), bar0Write_of_aligned4 _ _ (by omega), upper,
    Nat.mod_mod, Nat.mod_mod]

end Sys2Proof.Machine
end

section
/-! PROOF. Setpoint outputs (R84, R414 to R418), O42. -/

namespace Sys2Proof.Machine

/-! ### One output of the list -/

theorem modNth_nth {α : Type} (l : List α) (j : Nat) (d : α) (f : α → α) :
    (modNth l j fun _ => f (nth l j d)) = modNth l j f := by
  induction l generalizing j with
  | nil => rfl
  | cons x l ih =>
    cases j with
    | zero => rfl
    | succ j => exact congrArg (x :: ·) (ih j)

theorem modNth_modNth {α : Type} (l : List α) (j : Nat) (f g : α → α) :
    modNth (modNth l j f) j g = modNth l j fun x => g (f x) := by
  induction l generalizing j with
  | nil => rfl
  | cons x l ih =>
    cases j with
    | zero => rfl
    | succ j => exact congrArg (f := List.cons x) (ih j)

/-- Output `j` replaced by what `f` makes of it. -/
theorem setIset_iset (s : State) (j : Nat) (f : Iset → Iset) : (s.setIset j (f (s.iset j))).isets = modNth s.isets j f :=
  modNth_nth s.isets j Iset.idle f

/-! ### The limit in effect and the code that waits for its edge -/

/-- LIMITER names one of three limits (R415). -/
theorem isetLimit_limiter_lt (s : State) (j : Nat) : (s.isetLimit j).2 < 4 := by
  simp only [State.isetLimit]
  split
  · decide
  · split <;> decide

/-- A change of no other register than `ILM_ISET_EFF` keeps the limits (R83, R415). -/
theorem isetLimit_of_sameRegs {s t : State} {j : Nat} (h : sameRegs [F.ILM_ISET_EFF j] s t) :
    t.isetLimit j = s.isetLimit j := by
  have g_eq (f : Fld) (hf : f.off ≠ F.ILM_ISET_EFF j) : t.g f = s.g f := g_of_get (h _ (by simpa using hf))
  have strap := g_eq F.STP_CEIL_A_ILM_PCT (by simp only [F.STP_CEIL_A_ILM_PCT, F.STP_CEIL_A, F.ILM_ISET_EFF]; omega)
  have soft := g_eq (F.ILM_SETPOINT_CEIL_CODE j)
    (by simp only [F.ILM_SETPOINT_CEIL_CODE, F.ILM_SETPOINT_CEIL, F.ILM_ISET_EFF]; omega)
  have throttle := g_eq F.THM_LIMITS_ILM_PCT (by simp only [F.THM_LIMITS_ILM_PCT, F.THM_LIMITS, F.ILM_ISET_EFF]; omega)
  have limits : t.isetLimits j = s.isetLimits j := by simp only [State.isetLimits, strap, soft, throttle]
  rw [State.isetLimit, limits, State.isetLimit]

/-- The code written for output `j` before this tick. -/
def State.isetWant (s : State) (j : Nat) : Nat := bitsOf (s.before (F.ILM_ISET_CODE j)) 11 0

theorem isetWant_lt (s : State) (j : Nat) : s.isetWant j < 2 ^ 12 := Nat.mod_lt _ (by decide)

theorem isetWant_of_sameRegs {s t : State} {j : Nat} (h : sameRegs [F.ILM_ISET_EFF j] s t) (hl : t.late = s.late)
    (ht : t.newel = s.newel) : t.isetWant j = s.isetWant j := by
  have code : t.regs.get (F.ILM_ISET_CODE j) = s.regs.get (F.ILM_ISET_CODE j) :=
    h _ (by simp only [List.mem_singleton, F.ILM_ISET_CODE, F.ILM_ISET_EFF]; omega)
  rw [State.isetWant, State.before, State.regOn, State.time, hl, ht, code]
  rfl

/-! ### Fields of one register -/

theorem g_put_field (s : State) (o : Nat) {hi lo : Nat} (v : Nat) (h : lo ≤ hi ∧ hi ≤ 31) :
    (s.put ⟨o, hi, lo⟩ v).g ⟨o, hi, lo⟩ = v % 2 ^ (hi + 1 - lo) := g_put_same s ⟨o, hi, lo⟩ v h.1 h.2

theorem g_put_beside (s : State) (o p : Nat) {hi lo hi' lo' : Nat} (v : Nat) (h : lo ≤ hi ∧ hi ≤ 31)
    (d : hi < lo' ∨ hi' < lo) : (s.put ⟨o, hi, lo⟩ v).g ⟨p, hi', lo'⟩ = s.g ⟨p, hi', lo'⟩ :=
  g_put_apart s ⟨o, hi, lo⟩ ⟨p, hi', lo'⟩ v h.1 h.2 d

/-! ### An output driven at its code in effect (R414, R415) -/

theorem driveIset_isets (s : State) (j : Nat) :
    (s.driveIset j).isets = modNth s.isets j fun x => { x with code := min (s.isetWant j) (s.isetLimit j).1 } :=
  setIset_iset s j fun x => { x with code := min (s.isetWant j) (s.isetLimit j).1 }

theorem driveIset_code (s : State) (j : Nat) :
    (s.driveIset j).g (F.ILM_ISET_EFF_CODE j) = min (s.isetWant j) (s.isetLimit j).1 := by
  have fits : min (s.isetWant j) (s.isetLimit j).1 < 2 ^ 12 := Nat.lt_of_le_of_lt (Nat.min_le_left _ _) (isetWant_lt s j)
  exact (g_put_beside _ (F.ILM_ISET_EFF j) _ _ (by decide) (by decide)).trans
    ((g_put_field _ (F.ILM_ISET_EFF j) _ (by decide)).trans (Nat.mod_eq_of_lt fits))

theorem driveIset_limiter (s : State) (j : Nat) :
    (s.driveIset j).g (F.ILM_ISET_EFF_LIMITER j) = if s.isetWant j ≤ (s.isetLimit j).1 then 0 else (s.isetLimit j).2 := by
  have fits : (if s.isetWant j ≤ (s.isetLimit j).1 then 0 else (s.isetLimit j).2) < 2 ^ 2 := by
    split
    · decide
    · exact isetLimit_limiter_lt s j
  exact (g_put_field _ (F.ILM_ISET_EFF j) _ (by decide)).trans (Nat.mod_eq_of_lt fits)

/-- Fields between CODE and LIMITER, which are RANGE and DEAD, stand. -/
theorem driveIset_g (s : State) (j p : Nat) {hi lo : Nat} (h : 11 < lo ∧ hi < 14) :
    (s.driveIset j).g ⟨p, hi, lo⟩ = s.g ⟨p, hi, lo⟩ :=
  (g_put_beside _ (F.ILM_ISET_EFF j) p _ (by decide) (.inr h.2)).trans
    (g_put_beside _ (F.ILM_ISET_EFF j) p _ (by decide) (.inl h.1))

theorem driveIset_sameRegs {s t : State} {j : Nat} (h : sameRegs [F.ILM_ISET_EFF j] s t) :
    sameRegs [F.ILM_ISET_EFF j] s (t.driveIset j) :=
  sameRegs_put (f := F.ILM_ISET_EFF_LIMITER j) _ (List.mem_singleton_self _)
    (sameRegs_put (f := F.ILM_ISET_EFF_CODE j) _ (List.mem_singleton_self _) h)

/-- A change of registers and outputs, as an equation. -/
theorem Same.eq_of_iset {s t : State} (h : Same 8208 s t) : t = { s with regs := t.regs, isets := t.isets } := h.eq_of

/-! ### A change of range (R416, R417) -/

/-- Output `j` at 0 V in its old range, its dead time begun. -/
def State.deadBegun (s : State) (j : Nat) : State :=
  let u := s.setIset j
    { s.iset j with changeAt := none, deadUntil := some (s.time + 30000), code := 0, written := true }
  ((u.put (F.ILM_ISET_EFF_DEAD j) 1).put (F.ILM_ISET_EFF_CODE j) 0).put (F.ILM_ISET_EFF_RANGE j)
    (if (s.iset j).target then 1 else 0)

/-- Output `j` in its new range, with no dead time. -/
def State.rangeSwitched (s : State) (j : Nat) : State :=
  ((s.setIset j { s.iset j with deadUntil := none, wide := (s.iset j).target }).put (F.ILM_ISET_EFF_DEAD j) 0).put
    (F.ILM_ISET_EFF_RANGE j) (if (s.iset j).target then 1 else 0)

/-- Output `j`, held at 0 V, in its new range at once. -/
def State.rangeSwitchedOff (s : State) (j : Nat) : State :=
  (s.setIset j { s.iset j with changeAt := none, wide := (s.iset j).target, written := true }).put (F.ILM_ISET_EFF_RANGE j)
    (if (s.iset j).target then 1 else 0)

section
variable {s : State} {j u : Nat}

theorem rangeEdge_of_due (h : (s.iset j).changeAt = some u) (hu : u ≤ s.time) (ho : (s.iset j).off = false) :
    s.rangeEdge j = (s.deadBegun j).after 30000 (.deadTimeEnd j) := by
  simp only [State.rangeEdge, h]
  rw [if_neg (Nat.not_lt.mpr hu), if_neg (by rw [ho]; decide)]
  rfl

theorem rangeEdge_of_off (h : (s.iset j).changeAt = some u) (hu : u ≤ s.time) (ho : (s.iset j).off = true) :
    s.rangeEdge j = s.rangeSwitchedOff j := by
  simp only [State.rangeEdge, h]
  rw [if_neg (Nat.not_lt.mpr hu), if_pos ho]
  rfl

theorem rangeEdge_of_not_due (h : (s.iset j).changeAt.all (fun u => decide (s.time < u)) = true) : s.rangeEdge j = s := by
  cases hc : (s.iset j).changeAt with
  | none => simp only [State.rangeEdge, hc]
  | some u =>
    rw [hc, Option.all_some, decide_eq_true_iff] at h
    simp only [State.rangeEdge, hc, if_pos h]

theorem deadEnd_of_over (h : (s.iset j).deadUntil = some u) (hu : u ≤ s.time) :
    s.deadEnd j = (s.rangeSwitched j).driveIset j := by
  simp only [State.deadEnd, h, if_pos hu]
  rfl

theorem deadEnd_of_running (h : (s.iset j).deadUntil.all (fun u => decide (s.time < u)) = true) : s.deadEnd j = s := by
  cases hd : (s.iset j).deadUntil with
  | none => simp only [State.deadEnd, hd]
  | some u =>
    rw [hd, Option.all_some, decide_eq_true_iff] at h
    simp only [State.deadEnd, hd, if_neg (Nat.not_le.mpr h)]

end

/-- RANGE shows the range last put. -/
theorem g_put_range (s : State) (j : Nat) (b : Bool) :
    (s.put (F.ILM_ISET_EFF_RANGE j) (if b then 1 else 0)).g (F.ILM_ISET_EFF_RANGE j) = if b then 1 else 0 := by
  cases b <;> exact g_put_field s (F.ILM_ISET_EFF j) _ (by decide)

theorem rangeSwitched_sameRegs (s : State) (j : Nat) : sameRegs [F.ILM_ISET_EFF j] s (s.rangeSwitched j) :=
  sameRegs_put (f := F.ILM_ISET_EFF_RANGE j) _ (List.mem_singleton_self _)
    (sameRegs_put (f := F.ILM_ISET_EFF_DEAD j) _ (List.mem_singleton_self _) (sameRegs_of_regs rfl))

theorem rangeSwitched_same (s : State) (j : Nat) : Same 8208 s (s.rangeSwitched j) :=
  put_same rfl (put_same rfl (setIset_same rfl (Same.refl _ _)))

theorem rangeSwitched_isets (s : State) (j : Nat) :
    (s.rangeSwitched j).isets = modNth s.isets j fun x => { x with deadUntil := none, wide := x.target } :=
  setIset_iset s j fun x => { x with deadUntil := none, wide := x.target }

theorem rangeSwitched_dead (s : State) (j : Nat) : (s.rangeSwitched j).g (F.ILM_ISET_EFF_DEAD j) = 0 :=
  (g_put_beside _ (F.ILM_ISET_EFF j) _ _ (by decide) (by decide)).trans
    (g_put_field _ (F.ILM_ISET_EFF j) _ (by decide))

theorem rangeSwitched_isetWant (s : State) (j : Nat) : (s.rangeSwitched j).isetWant j = s.isetWant j :=
  isetWant_of_sameRegs (rangeSwitched_sameRegs s j) rfl rfl

theorem rangeSwitched_isetLimit (s : State) (j : Nat) : (s.rangeSwitched j).isetLimit j = s.isetLimit j :=
  isetLimit_of_sameRegs (rangeSwitched_sameRegs s j)

/-- In its new range the output drives the code in effect, under the limits as they stand (R417). -/
theorem driveSwitched_isets (s : State) (j : Nat) :
    ((s.rangeSwitched j).driveIset j).isets = modNth s.isets j fun x =>
      { x with deadUntil := none, wide := x.target, code := min (s.isetWant j) (s.isetLimit j).1 } := by
  rw [driveIset_isets, rangeSwitched_isetWant, rangeSwitched_isetLimit, rangeSwitched_isets, modNth_modNth]

theorem driveSwitched_code (s : State) (j : Nat) :
    ((s.rangeSwitched j).driveIset j).g (F.ILM_ISET_EFF_CODE j) = min (s.isetWant j) (s.isetLimit j).1 := by
  rw [driveIset_code, rangeSwitched_isetWant, rangeSwitched_isetLimit]

theorem driveSwitched_limiter (s : State) (j : Nat) :
    ((s.rangeSwitched j).driveIset j).g (F.ILM_ISET_EFF_LIMITER j) =
      if s.isetWant j ≤ (s.isetLimit j).1 then 0 else (s.isetLimit j).2 := by
  rw [driveIset_limiter, rangeSwitched_isetWant, rangeSwitched_isetLimit]

theorem deadBegun_sameRegs (s : State) (j : Nat) : sameRegs [F.ILM_ISET_EFF j] s (s.deadBegun j) :=
  sameRegs_put (f := F.ILM_ISET_EFF_RANGE j) _ (List.mem_singleton_self _)
    (sameRegs_put (f := F.ILM_ISET_EFF_CODE j) _ (List.mem_singleton_self _)
      (sameRegs_put (f := F.ILM_ISET_EFF_DEAD j) _ (List.mem_singleton_self _) (sameRegs_of_regs rfl)))

theorem deadBegun_dead (s : State) (j : Nat) : (s.deadBegun j).g (F.ILM_ISET_EFF_DEAD j) = 1 :=
  (g_put_beside _ (F.ILM_ISET_EFF j) _ _ (by decide) (by decide)).trans
    ((g_put_beside _ (F.ILM_ISET_EFF j) _ _ (by decide) (by decide)).trans
      (g_put_field _ (F.ILM_ISET_EFF j) _ (by decide)))

theorem deadBegun_code (s : State) (j : Nat) : (s.deadBegun j).g (F.ILM_ISET_EFF_CODE j) = 0 :=
  (g_put_beside _ (F.ILM_ISET_EFF j) _ _ (by decide) (by decide)).trans
    (g_put_field _ (F.ILM_ISET_EFF j) _ (by decide))

theorem deadBegun_isets (s : State) (j : Nat) :
    (s.deadBegun j).isets = modNth s.isets j fun x =>
      { x with changeAt := none, deadUntil := some (s.time + 30000), code := 0, written := true } :=
  setIset_iset s j fun x => { x with changeAt := none, deadUntil := some (s.time + 30000), code := 0, written := true }

theorem deadBegun_same (s : State) (j : Nat) : Same 8208 s (s.deadBegun j) :=
  put_same rfl (put_same rfl (put_same rfl (setIset_same rfl (Same.refl _ _))))

/-! ### Edges and writes -/

section
variable {s : State} {j : Nat}

theorem isetEdge_of_driving (hw : (s.iset j).written = true) (hd : (s.iset j).deadUntil = none) (ho : (s.iset j).off = false)
    (he : onEdge 1500 s.time = true) : s.isetEdge j = s.driveIset j := by
  simp only [State.isetEdge, hw, hd, ho, he, Option.isNone_none, Bool.not_false, Bool.and_self, if_true]

theorem isetEdge_of_still (h : (s.iset j).written = false ∨ (s.iset j).deadUntil.isSome = true ∨
    (s.iset j).off = true ∨ onEdge 1500 s.time = false) : s.isetEdge j = s := by
  refine if_neg fun e => ?_
  simp only [Bool.and_eq_true, Bool.not_eq_true'] at e
  obtain ⟨⟨⟨hw, hd⟩, ho⟩, he⟩ := e
  rcases h with h | h | h | h
  · exact Bool.false_ne_true (h.symm.trans hw)
  · rw [Option.isNone_iff_eq_none] at hd
    exact absurd h (by rw [hd]; decide)
  · exact Bool.false_ne_true (ho.symm.trans h)
  · exact Bool.false_ne_true (h.symm.trans he)

end

theorem writeIset_code (s : State) (j v : Nat) : (s.writeIset j v).g (F.ILM_ISET_CODE_CODE j) = v % 4096 :=
  g_put_field (s.noteLate (F.ILM_ISET_CODE j)) (F.ILM_ISET_CODE j) v (by decide)

theorem writeIset_isets (s : State) (j v : Nat) :
    (s.writeIset j v).isets = modNth s.isets j fun x => { x with written := true } :=
  setIset_iset s j fun x => { x with written := true }

theorem writeIset_sameRegs (s : State) (j v : Nat) : sameRegs [F.ILM_ISET_CODE j] s (s.writeIset j v) := fun _ ho =>
  put_get (s.noteLate (F.ILM_ISET_CODE j)) (F.ILM_ISET_CODE_CODE j) v (List.ne_of_not_mem_cons ho)

theorem writeIset_eq (s : State) (j v : Nat) :
    s.writeIset j v = { s with regs := (s.writeIset j v).regs, isets := (s.writeIset j v).isets
                               agenda := (s.writeIset j v).agenda, late := (s.writeIset j v).late } :=
  (writeIset_same (m := 8274) rfl (Same.refl _ _)).eq_of

/-! ### The commands -/

section
variable (s : State) {j : Nat} (h : j < 4)
include h

theorem exec_isetCode (v : Nat) : exec (.isetCode j v) s = .next (if s.unitsAnswer then s.writeIset j v else s) := by
  show Host.Outcome.next (if s.unitsAnswer then s.writeIset (j % 4) v else s) = _
  rw [Nat.mod_eq_of_lt h]

theorem exec_isetUpdate : exec (.isetUpdate j) s = .next (s.isetEdge j) := by
  show Host.Outcome.next (s.isetEdge (j % 4)) = _
  rw [Nat.mod_eq_of_lt h]

theorem exec_rangeChange : exec (.rangeChange j) s = .next (s.rangeEdge j) := by
  show Host.Outcome.next (s.rangeEdge (j % 4)) = _
  rw [Nat.mod_eq_of_lt h]

theorem exec_deadTimeEnd : exec (.deadTimeEnd j) s = .next (s.deadEnd j) := by
  show Host.Outcome.next (s.deadEnd (j % 4)) = _
  rw [Nat.mod_eq_of_lt h]

end

/-- Settles O42: each command comes to a write of the code, a drive at the code in effect, the dead time begun, the range
switched, or to nothing (R414 to R418). -/
theorem setpointCommands : Obligations.SetpointCommands := by
  intro s
  refine ⟨fun j v hj ha => ?_, fun j v ha => ?_, fun j w hj hw hd ho he want => ?_, fun j hj h => ?_,
    fun j u hj hc hu ho => ?_, fun j u hj hc hu ho => ?_, fun j hj h => ?_, fun j u w hj hd hu want => ?_,
    fun j hj h => ?_⟩
  · refine ⟨_, exec_isetCode s hj v, ?_⟩
    rw [if_pos ha]
    exact ⟨writeIset_code s j v, writeIset_isets s j v, rfl, rfl, writeIset_sameRegs s j v, writeIset_eq s j v⟩
  · exact ⟨s, congrArg Host.Outcome.next (if_neg (by rw [ha]; decide)), rfl⟩
  · refine ⟨_, exec_isetUpdate s hj, ?_⟩
    rw [isetEdge_of_driving hw hd ho he, want]
    exact ⟨driveIset_isets s j, driveIset_code s j, driveIset_limiter s j, driveIset_sameRegs (sameRegs_refl _ s),
      (driveIset_same rfl (Same.refl _ _)).eq_of_iset⟩
  · exact ⟨_, exec_isetUpdate s hj, isetEdge_of_still h⟩
  · refine ⟨_, exec_rangeChange s hj, ?_⟩
    rw [rangeEdge_of_due hc hu ho]
    exact ⟨deadBegun_isets s j, deadBegun_dead s j, deadBegun_code s j, g_put_range _ j _, rfl, deadBegun_sameRegs s j,
      (after_same (m := 8210) rfl ((deadBegun_same s j).mono rfl)).eq_of⟩
  · refine ⟨_, exec_rangeChange s hj, ?_⟩
    rw [rangeEdge_of_off hc hu ho]
    exact ⟨setIset_iset s j fun x => { x with changeAt := none, wide := x.target, written := true }, g_put_range _ j _,
      sameRegs_put (f := F.ILM_ISET_EFF_RANGE j) _ (List.mem_singleton_self _) (sameRegs_of_regs rfl), rfl⟩
  · exact ⟨_, exec_rangeChange s hj, rangeEdge_of_not_due h⟩
  · refine ⟨_, exec_deadTimeEnd s hj, ?_⟩
    rw [deadEnd_of_over hd hu, want]
    exact ⟨driveSwitched_isets s j, (driveIset_g _ j _ (by decide)).trans (rangeSwitched_dead s j),
      (driveIset_g _ j _ (by decide)).trans (g_put_range _ j _), driveSwitched_code s j, driveSwitched_limiter s j,
      driveIset_sameRegs (rangeSwitched_sameRegs s j), (driveIset_same rfl (rangeSwitched_same s j)).eq_of_iset⟩
  · exact ⟨_, exec_deadTimeEnd s hj, deadEnd_of_running h⟩

end Sys2Proof.Machine
end

section
/-! PROOF. The pulses that a loss of alignment ends, and the count of character errors (R348, R392, R395), O36. -/

namespace Sys2Proof.Machine

/-! ### A gallery and its registers -/

theorem nth_modNth_same {α : Type} {l : List α} {g : Nat} (h : g < l.length) (f : α → α) (d : α) :
    nth (modNth l g f) g d = f (nth l g d) := by
  induction l generalizing g with
  | nil => exact absurd h (Nat.not_lt_zero _)
  | cons x l ih =>
    cases g with
    | zero => rfl
    | succ g => exact ih (Nat.lt_of_succ_lt_succ h)

theorem Station.onTick_g (x : Station) (now : Nat) (f : Fld) : (x.onTick now).g f = x.g f := by
  unfold Station.onTick
  split <;> rfl

theorem Station.g_put_same (x : Station) (f : Fld) (v : Nat) (h : f.lo ≤ f.hi) (k : f.hi ≤ 31) :
    (x.put f v).g f = v % 2 ^ (f.hi + 1 - f.lo) := by
  simp only [Station.g, Station.put, Regs.get_set_same]
  exact bitsOf_withBits_same _ _ h k

theorem Station.g_put_off (x : Station) (f e : Fld) (v : Nat) (h : e.off ≠ f.off) : (x.put f v).g e = x.g e := by
  simp only [Station.g, Station.put, Regs.get_set_other _ _ h]

/-- A flag of one bit reads 1 once raised (R28). -/
theorem Station.raise_g (x : Station) (f : Fld) (h : f.hi = f.lo) (k : f.hi ≤ 31) : (x.raise f).g f = 1 := by
  refine (x.g_put_same f 1 (Nat.le_of_eq h.symm) k).trans ?_
  rw [h, Nat.add_sub_cancel_left, Nat.pow_one]

theorem Station.put_overs (x : Station) (f : Fld) (v : Nat) : (x.put f v).overs = x.overs := rfl

theorem Station.item_g (x : Station) (code data : Nat) (f : Fld) : (x.item code data).g f = x.g f := by
  unfold Station.item
  split <;> rfl

/-- The summary bits all stand in `GAL_STATUS` (Table 14.7). -/
theorem Station.sync_g (x : Station) {f : Fld} (h : f.off ≠ 0x0C) : x.sync.g f = x.g f := by
  unfold Station.sync
  rw [Station.g_put_off _ G.store f _ h, Station.g_put_off _ G.bankOk f _ h, Station.g_put_off _ G.fault f _ h,
    Station.g_put_off _ G.cutOn f _ h, Station.g_put_off _ G.parked f _ h]

theorem setStation_station_g {s : State} {g : Nat} {x : Station} {f : Fld} (hg : g < s.stations.length)
    (h : f.off ≠ 0x0C) : ((s.setStation g x).station g).g f = x.g f := by
  rw [State.station, setStation_stations, nth_modNth_same hg, Station.onTick_g]
  split
  · exact x.sync_g h
  · rfl

/-! ### Pulses that end -/

/-- The third pulse in a row that folded back sets the flag OOS of its channel (R395). -/
theorem Station.endPulse_third {x : Station} {p : Pulse} (hf : p.folded = true) (ho : nth x.overs p.ch 0 = 2) (now mA : Nat)
    (again : Bool) : (x.endPulse p now mA again).g (G.flag p.ch 4) = 1 := by
  unfold Station.endPulse
  extract_lets x₁ x₂ n
  have third : n = 3 := by
    have overs : x₂.overs = x.overs := Station.put_overs _ _ _
    simp only [n, hf, overs, ho, if_true]
  split
  · rw [Station.item_g]
    exact Station.raise_g _ (G.flag p.ch 4) rfl (Nat.le_of_ble_eq_true rfl)
  · contradiction

/-- A single pulse stopped, with its highest current a free value (R392). -/
theorem stopPulses_single {s : State} {g : Nat} {q : Pulse → Bool} {p : Pulse} (h : (s.station g).pulses.filter q = [p]) :
    s.stopPulses g q = (s.free 4096).2.setStation g ((s.station g).endPulse p s.now (s.free 4096).1 false) := by
  rw [State.stopPulses, h]
  rfl

/-! ### The counterexample -/

/-- A folded-back pulse of channel 64, which a gallery does not have and the state can hold. -/
def Pulse.foldedOn64 : Pulse := ⟨64, 0, 0, 0, 0, 0, true, true, false, false⟩

/-- An aligned gallery with 16 character errors counted, on which the last two pulses of channel 64 folded back and a third
is active. The flags of channel 64 would lie in the register of that count. -/
def State.foldedOn64 : State :=
  { State.reset with stations := [{ Station.idle with
      powered := true, regs := [(G.lnkState.off, 2), (G.charErr, 16)], overs := List.replicate 64 0 ++ [2]
      pulses := [Pulse.foldedOn64] }] }

/-- Sixteen code groups that are no characters. -/
def Rx.sixteenErrors : Rx := .groups false (List.replicate 16 0)

/-- The same gallery back in Listening, before its pulses end. -/
def State.unalignedOn64 : State :=
  State.foldedOn64.setStation 0 (((State.foldedOn64.station 0).count G.charErr Rx.sixteenErrors.errs).put G.lnkState 1)

/-- The flag OOS of channel 64 is bit 4 of the count of character errors. -/
theorem Station.oos64_eq_charErr_bit (x : Station) : x.g (G.flag 64 4) = x.g ⟨G.charErr, 15, 0⟩ / 16 % 2 := by
  show (x.regs.get 0x200).toNat / 2 ^ 4 % 2 ^ 1 = (x.regs.get 0x200).toNat / 2 ^ 0 % 2 ^ 16 / 16 % 2
  omega

theorem exec_alignmentLoss_on64 :
    exec (.alignmentLoss 0 Rx.sixteenErrors) State.foldedOn64 = .next (State.unalignedOn64.parkPulses 0) :=
  congrArg Host.Outcome.next (if_pos (by decide +kernel))

/-- The pulse ends as the gallery parks, and its channel is flagged (R392, R395). -/
theorem parkPulses_on64 : ((State.unalignedOn64.parkPulses 0).station 0).g (G.flag 64 4) = 1 := by
  have one : (State.unalignedOn64.station 0).pulses.filter (fun _ => true) = [Pulse.foldedOn64] := by decide +kernel
  have two : nth (State.unalignedOn64.station 0).overs 64 0 = 2 := by decide +kernel
  rw [State.parkPulses, if_pos (by decide +kernel), stopPulses_single one,
    setStation_station_g (by decide +kernel) (by decide)]
  exact Station.endPulse_third rfl two _ _ _

/-- Refutes O36: an alignment loss that ends a pulse is said to leave the count of character errors at what it counts, here
32. The statement bounds no channel number, and the state can hold a pulse of channel 64, whose flag OOS would be bit 4 of
that count. -/
theorem not_galleryLife : ¬ Obligations.GalleryLife := by
  intro h
  obtain ⟨-, -, -, -, -, -, -, -, lost, -⟩ := h State.foldedOn64
  obtain ⟨t, ht, -, -, count, -⟩ :=
    lost 0 Rx.sixteenErrors (by decide) (by decide +kernel) (by decide +kernel) (by decide +kernel)
  have run : State.unalignedOn64.parkPulses 0 = t := Host.Outcome.next.inj (exec_alignmentLoss_on64.symm.trans ht)
  have said : (t.station 0).g ⟨G.charErr, 15, 0⟩ = 32 := count.trans (by decide +kernel)
  have flagged : (t.station 0).g (G.flag 64 4) = 1 := run ▸ parkPulses_on64
  rw [Station.oos64_eq_charErr_bit, said] at flagged
  exact absurd flagged (by decide)

end Sys2Proof.Machine
end
